-- ==== Sys2Proof/Word.lean ====
section
/-!
DEFINITION. The word types of the HT4 training module (spec/00_scope.md, byte order R11): bytes,
32-bit register words and FP32 lanes, 64-bit general registers and registers.
-/
namespace Sys2Proof

/-- One byte of a store, a packet, a descriptor or a bond image. -/
abbrev Byte := BitVec 8

/-- A 32-bit register, a sync flag, or one FP32 or INT32 vector lane. -/
abbrev W32 := BitVec 32

/-- A 64-bit register, general register or engine address. -/
abbrev W64 := BitVec 64

/-- A sparse table: keys strictly rising, no entry equal to what an unlisted key reads as.
The form is stated by `Machine.Tab.wf`; the operations are in Machine/Table.lean. -/
abbrev Tab (α : Type) := List (Nat × α)

end Sys2Proof
end

