-- ==== Sys2Proof/Syntax.lean ====
section
/-!
DEFINITION. The commands of the module: one constructor of `Instr` for each row of spec/opcode_table.json, and the
types of their operands. An engine instruction carries the executing engine (its global logical number, R9) and the
fields of its instruction word (R76). An event carries the unit it happens at and what arrives with it from outside
the module: a flit, a packet, bytes a host returned, or a measured value.
-/
namespace Sys2Proof

/-- The fields of an instruction word other than OPC (R76, table of instruction fields). -/
structure Fields where
  d : BitVec 6
  a : BitVec 6
  b : BitVec 6
  c : BitVec 6
  imm : BitVec 32
  deriving DecidableEq, Repr

/-- Who makes a BAR0 access: one of the two host ports, or the management bus (R12). -/
inductive Requester where
  | hp0 | hp1 | smb
  deriving DecidableEq, Repr

/-- A packet with its header fields (R262), payload, trailer CRC-32 and the DISCARD bit of STATUS (R263). -/
structure Packet where
  dest : BitVec 17
  tc : BitVec 3
  epoch : Bool
  fence : Bool
  dl : Bool
  opn : Bool
  opc : BitVec 8
  src : BitVec 17
  slice : BitVec 14
  eval : Bool
  seq : BitVec 24
  sdie : BitVec 2
  hops : BitVec 6
  len : BitVec 16
  ctx : BitVec 10
  tgtEngine : BitVec 11
  tgtFlag : BitVec 6
  addr : BitVec 48
  arg : BitVec 16
  hcrc : BitVec 16
  payload : List Byte
  crc : BitVec 32
  discard : Bool
  deriving DecidableEq, Repr

/-- Where a packet head reaches a die router from: a torus port of the die, or a mortar link. -/
inductive Arrival where
  | port (p : Nat)
  | mortar
  deriving DecidableEq, Repr

/-- A HELLO flit (R381). -/
structure Hello where
  port : BitVec 8
  flags : BitVec 8
  feed : BitVec 4
  stage : BitVec 4
  serial : BitVec 64
  fp : List Byte
  caps : BitVec 32
  coord : BitVec 32
  ring : BitVec 32
  node : BitVec 32
  sliceId : BitVec 16
  soakMs : BitVec 32
  deriving DecidableEq, Repr

/-- A received codeword (R251, R255): its symbols in error, and whether the code corrects them (never more than 15); its
CW_SEQ and its five flits as corrected, each with its type and its 128 bytes. -/
structure Codeword where
  correctable : Bool
  symbols : Nat
  seq : BitVec 10
  flits : List (BitVec 2 × List Byte)
  deriving DecidableEq, Repr

/-- What a port's training comes to (R252): full width, half width, or neither half trained. -/
inductive Training where
  | full | half | neither
  deriving DecidableEq, Repr

/-- How a request that the module made over a host port ended: with the data, with a PCI Express error, or by the
expiry of its Completion Timeout (R395, R463). -/
inductive HostResult where
  | data (bytes : List Byte)
  | error
  | timeout
  deriving DecidableEq, Repr

/-- A COMPLETE of partition `p`. `cut`: PERST, or the link going down, ends the write of the record after this many of its
two posted writes have left the port (R463); none, or 2 and above: both leave. -/
structure Posting where
  p : Nat
  cut : Option Nat
  deriving DecidableEq, Repr

/-- A read of `size` bytes at `a`: a BAR0 offset, or a BAR2 offset or an offset of configuration space from the bases that
notes/assumptions/32.md and 36.md give. -/
structure Access where
  a : Nat
  size : Nat
  deriving DecidableEq, Repr

/-- How a firmware fetch ended; `got`: what had been fetched and written in whole pieces of 64 KiB when it failed. -/
structure FetchEnd where
  got : List Byte
  r : HostResult
  deriving DecidableEq, Repr

/-- Why a ring fetch failed (R242): as the host read ended, or because the pier ring is no longer nameable. -/
inductive RingCause where
  | error | timeout | region
  deriving DecidableEq, Repr

/-- Who met an uncorrectable pier read (R207, table of effects). -/
inductive UeSource where
  /-- Outstanding copy `i` of engine `e`; `done` destination bytes, or as many of them as come before the line, were
  already written (R208). -/
  | engineCopy (e i done : Nat)
  /-- The LOCAL span of outstanding network operation `i` of engine `e`. -/
  | network (e i : Nat)
  /-- The list or the records of the SPAWND that engine `e` carries out; the records of `done` routes, or of as many as come
  before the line, were already written. -/
  | spawnList (e done : Nat)
  /-- A flush counter that the FINISH of engine `e` adds to. -/
  | flush (e : Nat)
  /-- A remote module's read or partial-line write, delivered on die `d`. -/
  | remote (d : Nat) (p : Packet)
  /-- A BAR4 read through host port `h`. -/
  | hostRead (h : Nat)
  /-- The merge read of a BAR4 write through host port `h`. -/
  | hostWrite (h : Nat)
  /-- The result write of slot `r` of course `c`; `done` registers were already written. -/
  | slotResult (c r done : Nat)
  /-- A ring fetch of partition `p`. -/
  | ringFetch (p : Nat)
  /-- The COPY command that partition `p` runs; `done` bytes were already moved. -/
  | copyCommand (p done : Nat)
  /-- A cast send of this module. -/
  | castSend
  /-- A restore stream served by this module, for the RESTORE_REQ `p` delivered on die `d`. -/
  | castHolder (d : Nat) (p : Packet)
  /-- The holder's part of a cast, for the message `p` delivered on die `d`: the merge of a CAST_DATA or a RESTORE_BAD into a
  line, or what CAST_END reads to verify the root. -/
  | castHeld (d : Nat) (p : Packet)
  /-- Digest verification of chunk `i` at a restoring module. -/
  | castVerify (i : Nat)
  /-- A patrol scrub. -/
  | scrub
  /-- An ordinary read of the line, of which the symbol on this layer was corrected (R205); the table has no row of its own
  for it. -/
  | corrected (layer : Nat)
  deriving DecidableEq, Repr

/-- Who met an uncorrectable course-store word (R112, CS_UE), or how many words of a course store were corrected
(COURSE_CS_ECC). -/
inductive CsUeSource where
  /-- Outstanding copy `i` of engine `e`, in what it reads, at offset `off` of course store `c`; `done` destination bytes were
  already written. -/
  | copy (e i done c off : Nat)
  /-- Outstanding network operation `i` of engine `e`, at offset `off` of course store `c`. -/
  | net (e i c off : Nat)
  /-- The instruction fetch of engine `e`. -/
  | fetch (e : Nat)
  /-- The instruction that engine `e` carries out, which reads course store itself: SPAWND its list, FINISH a reduction buffer
  or a flush counter. -/
  | access (e : Nat)
  /-- The restart of the yielded item that engine `e` is to choose, or has just chosen: its save area. -/
  | resume (e : Nat)
  /-- `n` corrected words of course store `c`; the table has no row of its own for them. -/
  | corrected (c n : Nat)
  deriving DecidableEq, Repr

/-- Why a slot retires (R114). -/
inductive RetireCause where
  /-- The running item of the engine meets CHECK now, at an instruction with this opcode (R112); the offset in local store of
  an uncorrectable word there, none for a register, a buffer or the array. -/
  | check (opc : BitVec 8) (off : Option Nat)
  /-- Outstanding copy `i` of the engine meets CHECK at an offset of the local store that it reads, after `done` destination bytes
  at most. -/
  | copyCheck (i done off : Nat)
  /-- Outstanding network operation `i` of the engine meets CHECK at an offset of the local store that it reads. -/
  | netCheck (i off : Nat)
  /-- The engine met CHECK at an earlier command. -/
  | pendingCheck
  /-- This many corrected errors within one second. -/
  | corrected (n : Nat)
  deriving DecidableEq, Repr

/-- What a patrol scrub finds at a line (R206). -/
inductive ScrubResult where
  | clean
  /-- The symbol of this layer was corrected and no write has reached the line since. -/
  | corrected (layer : Nat)
  | uncorrectable
  /-- The line ends a complete pass of the pier. -/
  | passDone
  deriving DecidableEq, Repr

/-- One flow of the transport (R267): source node, SDIE, destination, TC and EPOCH. -/
structure FlowId where
  src : Nat
  sdie : Nat
  dest : Nat
  tc : Nat
  epoch : Bool
  deriving DecidableEq, Repr

/-- The measured values of one telemetry update (R459). -/
structure Telemetry where
  vin : BitVec 16
  iin : BitVec 16
  pin : BitVec 16
  /-- Per rail r = 0–9: millivolts and units of 100 mA. -/
  rails : List (BitVec 16 × BitVec 16)
  /-- Per sensor s = 0–5: degrees Celsius. -/
  temps : List (BitVec 8)
  deriving DecidableEq, Repr

/-- The commands of the module, in the order of spec/opcode_table.json. -/
inductive Instr where
  -- scalar and branch, 0x0_ (R77)
  | nop (e : Nat) (f : Fields)
  | add (e : Nat) (f : Fields)
  | sub (e : Nat) (f : Fields)
  | mul (e : Nat) (f : Fields)
  | and (e : Nat) (f : Fields)
  | or (e : Nat) (f : Fields)
  | xor (e : Nat) (f : Fields)
  | shl (e : Nat) (f : Fields)
  | shr (e : Nat) (f : Fields)
  | sar (e : Nat) (f : Fields)
  | li (e : Nat) (f : Fields)
  | lih (e : Nat) (f : Fields)
  | cmp (e : Nat) (f : Fields)
  | brz (e : Nat) (f : Fields)
  | brnz (e : Nat) (f : Fields)
  | jal (e : Nat) (f : Fields)
  -- local store and vector load and store, 0x1_ (R78)
  | ldg (e : Nat) (f : Fields)
  | stg (e : Nat) (f : Fields)
  | ld4 (e : Nat) (f : Fields)
  | st4 (e : Nat) (f : Fields)
  | vld (e : Nat) (f : Fields)
  | vst (e : Nat) (f : Fields)
  | vlds (e : Nat) (f : Fields)
  | vsts (e : Nat) (f : Fields)
  | vldd (e : Nat) (f : Fields)
  -- copies, 0x2_ (R80), and the nine plinth operations that CPYP selects (R210)
  | cpy (e : Nat) (f : Fields)
  | cpys (e : Nat) (f : Fields)
  | narrow (e : Nat) (f : Fields)
  | widen (e : Nat) (f : Fields)
  | reblock (e : Nat) (f : Fields)
  | pack (e : Nat) (f : Fields)
  | expand (e : Nat) (f : Fields)
  | gather (e : Nat) (f : Fields)
  | scatter (e : Nat) (f : Fields)
  | zscan (e : Nat) (f : Fields)
  | digest (e : Nat) (f : Fields)
  -- array operations, 0x3_
  | ald (e : Nat) (f : Fields)
  /-- `chk`: a residue check of the product fails (R154). -/
  | bmul (e : Nat) (f : Fields) (chk : Bool)
  | aprom (e : Nat) (f : Fields)
  | adrain (e : Nat) (f : Fields)
  | adraine (e : Nat) (f : Fields)
  | venc (e : Nat) (f : Fields)
  -- vector operations, 0x4_ (R91)
  | vadd (e : Nat) (f : Fields)
  | vsub (e : Nat) (f : Fields)
  | vmul (e : Nat) (f : Fields)
  | vfma (e : Nat) (f : Fields)
  | vmax (e : Nat) (f : Fields)
  | vmin (e : Nat) (f : Fields)
  | vcmp (e : Nat) (f : Fields)
  | vsel (e : Nat) (f : Fields)
  | vexp2 (e : Nat) (f : Fields)
  | vlog2 (e : Nat) (f : Fields)
  | vrcp (e : Nat) (f : Fields)
  | vrsqrt (e : Nat) (f : Fields)
  | vcvt (e : Nat) (f : Fields)
  | vbcast (e : Nat) (f : Fields)
  | vperm (e : Nat) (f : Fields)
  | vmovg (e : Nat) (f : Fields)
  -- reductions, 0x5_
  | rlane (e : Nat) (f : Fields)
  | racc (e : Nat) (f : Fields)
  | rwel (e : Nat) (f : Fields)
  | rscfg (e : Nat) (f : Fields)
  | rcont (e : Nat) (f : Fields)
  | rmerge (e : Nat) (f : Fields)
  -- sync flags and keystone, 0x6_
  | finc (e : Nat) (f : Fields)
  | fwait (e : Nat) (f : Fields)
  | fwaitMet (e : Nat)
  | fset (e : Nat) (f : Fields)
  | frd (e : Nat) (f : Fields)
  | karr (e : Nat) (f : Fields)
  | kwait (e : Nat) (f : Fields)
  | kwaitMet (e : Nat)
  -- item control, 0x7_
  | spawn (e : Nat) (f : Fields)
  | spawnd (e : Nat) (f : Fields)
  | yield (e : Nat) (f : Fields)
  | finish (e : Nat) (f : Fields)
  | finishCommit (e : Nat)
  | engineWake (e : Nat)
  -- network, 0x8_
  | nput (e : Nat) (f : Fields)
  | nget (e : Nat) (f : Fields)
  | nflag (e : Nat) (f : Fields)
  | nstep (e : Nat) (f : Fields)
  /-- The wait of outstanding network operation `i` of engine `e`. -/
  | nstepWaitMet (e i : Nat)
  -- system, 0xF_
  | sysr (e : Nat) (f : Fields)
  | trap (e : Nat) (f : Fields)
  | cfence (e : Nat) (f : Fields)
  | cfenceMet (e : Nat)
  -- copies, faults, spares, reduction slots
  /-- Outstanding copy `i` of engine `e` (0 is the oldest). -/
  | copyComplete (e i : Nat)
  | plinthOpComplete (e i : Nat)
  | pierUncorrectableRead (src : UeSource) (pier loc : Nat)
  | itemReexec (e : Nat)
  | slotRetire (e : Nat) (cause : RetireCause)
  /-- `lost`: the copy of the local store met an uncorrectable word (R115). -/
  | spareTakeover (e : Nat) (lost : Bool)
  /-- `sig`: the 114-byte signature under the identity key; `verified`: the record verifies in flash. -/
  | repairRecordWrite (verified : Bool)
  | reduceSlotDone (c r : Nat)
  -- piers
  | layerMark (pier layer : Nat)
  | patrolScrub (pier loc : Nat) (found : ScrubResult)
  | scrubWake (mc : Nat)
  | pierHotRefresh (pier : Nat) (temp : BitVec 8)
  -- power levels, clocks, cap
  | idleDescent (d : Nat)
  | levelEntryComplete (d : Nat)
  | wakeGrantInstant
  | deepGrant (die : Nat)
  | domainExitComplete (d : Nat)
  /-- Input power in W averaged over 1 µs. -/
  | powerSample (watts : Nat)
  | throttleTick
  | courseClockChange (p : Nat)
  | telemetryUpdate (t : Telemetry)
  -- stream contexts and commands
  | doorbell (port n : Nat) (tail : BitVec 32)
  | ctxEnable (port n : Nat) (v : BitVec 32)
  | ctxDisable (port n : Nat) (v : BitVec 32)
  | ctxReset (port n : Nat) (v : BitVec 32)
  | ctxSlotBind (port n : Nat) (v : BitVec 32)
  /-- `cmds`: the command descriptors that a host read of the chosen context's ring returned, in ring order. -/
  | ringFetch (p : Nat) (cmds : List (List Byte))
  | ringFetchError (p : Nat) (cause : RingCause)
  | item (p : Nat)
  | copy (p : Nat)
  /-- How the host side of the running COPY ended: the bytes read, or for DIR 1 the read-back. -/
  | copyCmdDone (p : Nat) (r : HostResult)
  | complete (x : Posting)
  | hodSlotRetry (n : Nat)
  | fenceWaitEnd (n : Nat)
  -- micro-batch slots, keystone lines, off-load windows
  | slotArm (port s : Nat) (v : BitVec 64)
  | slotOpen (s : Nat)
  | keyExpectWrite (port k : Nat) (v : BitVec 32)
  | keyReset (port k : Nat) (v : BitVec 32)
  | keyReport (d : Nat) (p : Packet)
  | keyRelease (d : Nat) (p : Packet)
  | oflArm (port p w : Nat) (v : BitVec 32)
  | oflWindowFire (p w : Nat)
  | oflCopyDone (p w : Nat) (r : HostResult)
  | progressTimeout (e i : Nat)
  -- link layer
  | codewordReceive (port : Nat) (cw : Codeword)
  | nak (port : Nat) (seq : BitVec 10)
  | nakLimit (port : Nat)
  | credit (port : Nat) (counts : List (BitVec 16)) (ack : BitVec 10)
  | creditSend (port : Nat)
  | hello (port : Nat) (h : Hello)
  | helloSend (port : Nat)
  | idle (port : Nat) (hb : BitVec 32) (freeze frozen : Bool)
  | heartbeatTick
  | hbMissing (port : Nat)
  -- routers
  | packetSendStart (port : Nat)
  | packetHeadArrival (d : Nat) (a : Arrival) (p : Packet)
  | packetTrailerArrival (d : Nat) (a : Arrival) (p : Packet)
  | stallTimeout (port : Nat) (p : Packet)
  | packetAged (d : Nat) (p : Packet)
  | linkSilenceTimeout (port : Nat)
  | portTrained (port : Nat) (got : Training)
  | signalDetect (port : Nat)
  | nbrDeadSet (port : Nat)
  | nbrTrainingDetect (port : Nat)
  | frozenHoldExpiry (port : Nat)
  | lightLoss (bay : Nat)
  | lightReturn (bay : Nat)
  | laserUnitInsert (bay : Nat)
  | laserUnitRemove (bay : Nat)
  -- packets delivered on die d
  | write (d : Nat) (p : Packet)
  | writeLast (d : Nat) (p : Packet)
  | read (d : Nat) (p : Packet)
  | readData (d : Nat) (p : Packet)
  | flag (d : Nat) (p : Packet)
  | stepData (d : Nat) (p : Packet)
  | stepLast (d : Nat) (p : Packet)
  | planData (d : Nat) (p : Packet)
  | planLast (d : Nat) (p : Packet)
  | ack (d : Nat) (p : Packet)
  | response (d : Nat) (p : Packet)
  -- transport
  | ackSend (d : Nat) (f : FlowId)
  | retransmitTimerExpiry (f : FlowId)
  | transportGiveUp (f : FlowId)
  | refusalBackoffExpiry (f : FlowId)
  | refusalGiveUp (f : FlowId)
  /-- `last`: 200 ms of refusals have passed, so the operation fails. -/
  | localPacketRetry (die tc : Nat) (last : Bool)
  | fenceRelease (f : FlowId)
  | sendFlowClose (f : FlowId)
  | injectionResume (die : Nat)
  | echo (d : Nat) (p : Packet)
  | echoReply (d : Nat) (p : Packet)
  | mgmtMessage (d : Nat) (p : Packet)
  -- epochs and port control
  | flip (port : Nat)
  | release (port : Nat)
  /-- The low half of RTE_LOOKUP as written. -/
  | rteLookupWrite (port : Nat) (v : BitVec 32)
  | retrain (port p : Nat) (v : BitVec 32)
  | disable (port p : Nat) (v : BitVec 32)
  | test (port p : Nat) (v : BitVec 32)
  -- bond image
  | go (port : Nat)
  | bondFetchDone (port : Nat) (r : HostResult)
  | partialImageApply (port : Nat)
  | rerun (port : Nat)
  -- bring-up
  | bu1 (link0 link1 : Bool)
  /-- `bits`: the identity array's start-up bits after correction, none when correction fails (R424). -/
  | bu2 (bits : Option (List Byte))
  /-- The piers that pass training (and the test at power-on). -/
  | bu3 (passed : BitVec 32)
  /-- Courses whose die and slots pass, failed slots as (course, slot) pairs, failed die fabrics. -/
  | bu4 (passed : BitVec 64) (failedSlots : List (Nat × Nat)) (failedFabric : BitVec 4)
  | bu5 (failedLinks : BitVec 4) (failedLines : BitVec 16)
  /-- Ports that train, and of those the ports that train at half width. -/
  | bu6 (up half : BitVec 10)
  | bu7
  | discoveryEnd
  | bu8
  /-- `locked`: the far end joined; bits checked, errors before correction, post-FEC failures. -/
  | soakComplete (port : Nat) (joined : Bool) (bits errs post : Nat)
  | bu9
  | buStageTimeout
  | origin (port : Nat)
  | skip (port : Nat)
  -- casts
  | send (port : Nat)
  | restore (port : Nat)
  | abort (port : Nat)
  | castBegin (d : Nat) (p : Packet)
  | castData (d : Nat) (p : Packet)
  | castEnd (d : Nat) (p : Packet)
  | restoreReq (d : Nat) (p : Packet)
  | restoreMeta (d : Nat) (p : Packet)
  | restoreData (d : Nat) (p : Packet)
  | restoreEnd (d : Nat) (p : Packet)
  | restoreChunkDigest (i : Nat)
  | restoreBad (d : Nat) (p : Packet)
  | restoreApply
  -- resets
  | ckpPartReset (port : Nat) (v : BitVec 32)
  | partResetDone (p : Nat)
  | ckpModReset (r : Requester) (v : BitVec 32)
  -- freeze, debug, JTAG
  | frzCtrl (r : Requester) (v : BitVec 32)
  | frzNAssert
  | freeze
  | dbgGo (r : Requester) (v : BitVec 32)
  /-- `ue`: the debug read met an uncorrectable pier line (R375). -/
  | dbgReadDone (ue : Bool)
  /-- The 72-bit data register at Update-DR. -/
  | dbgReq (dr : BitVec 72)
  | dbgData
  | bypass
  | samplePreload (pins shifted : BitVec 16)
  | extest (pins shifted : BitVec 16)
  -- registers
  | pwrCapWrite (r : Requester) (v : BitVec 32)
  | genBar4BaseWrite (port : Nat) (v : BitVec 64)
  | lowHalfRead (r : Requester) (x : Access)
  | highHalfRead (r : Requester) (x : Access)
  | rcRead (r : Requester) (x : Access)
  | registerWrite (r : Requester) (a size : Nat) (v : BitVec 64)
  | bar4Read (port off len : Nat)
  | bar4Write (port off : Nat) (data : List Byte)
  -- mailboxes
  | mbGo (port : Nat) (secure : Bool) (ch : Nat)
  | take (port : Nat) (secure : Bool) (ch : Nat)
  /-- `secure`: mason-S takes; otherwise mason-G. `nonce`: fresh random bytes for a CHALLENGE. -/
  | mailboxTake (secure : Bool) (nonce : List Byte)
  | echoMsg (port ch : Nat)
  | pathEcho (port ch : Nat)
  | pathEchoTimeout (port ch : Nat)
  | challenge (port ch : Nat) (nonce : List Byte)
  | openMsg (port ch : Nat)
  | closeMsg (port ch : Nat)
  | attest (port ch : Nat)
  | getCert (port ch : Nat)
  | install (port ch : Nat)
  | fwUpdate (port ch : Nat)
  /-- How the fetch of the slot being written ended. -/
  | fwUpdateDone (x : FetchEnd)
  | fwCommit (port ch : Nat)
  -- management bus
  | smbSetPointer (count : Nat) (pecOk : Bool) (v : BitVec 32)
  | smbRead (pecOk : Bool)
  | smbWrite (count : Nat) (pecOk : Bool) (v : BitVec 32)
  -- PCI Express reset and power
  | perstAssert (port : Nat)
  | perstRelease (port : Nat)
  | hostPortReady (port : Nat)
  | inputPowerApply
  | inputPowerLoss
  /-- `feed`: the FEED_ID straps; `frzN`: the level of FRZ_N; `good`: every rail becomes good in its step of R452, and if
  not, `bad`: the first step with one that does not. -/
  | pwrEnRise (feed : BitVec 4) (frzN good : Bool) (bad : Nat)
  | pwrEnFall
  /-- The pins and rails as for `pwrEnRise`, for the BU0 that a PWR_EN which has risen again starts. -/
  | pwrEnHoldExpiry (feed : BitVec 4) (frzN good : Bool) (bad : Nat)
  | underVoltageLockout
  | thermalTrip
  | courseStoreUncorrectableRead (src : CsUeSource)
  | hostLinkDown (port : Nat)
  | pcieL1Exit (port : Nat)
  | corePowerRemoved
  | castChunkDigest (i : Nat)
  /-- `ok`: the flash write and read-back succeed. -/
  | installDone (ok : Bool)
  | fwCommitDone
  | attestDone
  deriving DecidableEq, Repr

end Sys2Proof
end

