-- ==== Sys2Proof/Decode.lean ====
section
/-!
DEFINITION. Words and commands: spec/opcode_table.json gives no bits to any row, so no word spells a command.
-/
namespace Sys2Proof

/-- The command that the table's bits of a word spell: none, since no row has bits. -/
def decodeTableWord (_nbits _w : Nat) : Option Instr := none

end Sys2Proof
end

