-- ==== Sys2Proof/Config.lean ====
section
/-!
DEFINITION. What the manual leaves open (notes/assumptions/1.md): the free values. A free value is an opaque
constant applied to the state's own counter `State.freeCtr`, so nothing proved here can rest on the number
it stands for.
-/
namespace Sys2Proof.Config

/-- The n-th free value of a run: nothing constrains it. -/
opaque freeNat : Nat → Nat

/-- The n-th free byte. -/
def freeByte (n : Nat) : Byte := BitVec.ofNat 8 (freeNat n)

/-- The n-th free choice between two outcomes that the manual both admits. -/
def freeBool (n : Nat) : Bool := freeNat n % 2 == 1

/-- Whether a rail at so many millivolts is within its power-good window: the manual gives no window (R459). -/
opaque railGood : Nat → Nat → Bool

/-- Generation and width to which a host port's PCI Express link has trained: the far end decides too (R392). -/
opaque linkSpeed : Nat → BitVec 4
opaque linkWidth : Nat → BitVec 6

/-- CW_SEQ that a NAK flit names (R257): the spec says that the flit names it, and not in which of its bytes. -/
opaque nakSeqOf : List (BitVec 8) → BitVec 10

/-- The JTAG instruction codes of SAMPLE/PRELOAD and EXTEST, which R376 does not give. -/
opaque irSample : BitVec 8
opaque irExtest : BitVec 8

end Sys2Proof.Config
end

