-- ==== Sys2Proof/Machine/State.lean ====
section
/-!
DEFINITION. The state of the module: everything the manual gives it, as plain data, and the queue of waiting
commands. Every register of the manual is either a field here or computed from fields by Machine/RegRead.lean;
INVENTORY.md lists them with their rules and reset values. `State.reset` is the module before its 56 V input is
applied (R452): every register at the reset value of its table.
-/
namespace Sys2Proof.Machine

/-- Why a step stops with a fault: the command addresses something the manual says does not exist. -/
inductive Fault where
  /-- Raised by the shared guards of Machine/Ops.lean when a command names an engine, course, partition, context,
  slot, line, window, port, die, pier, controller, clock domain or host port beyond those the module has. Safe. -/
  | noSuchUnit
  deriving DecidableEq, Repr

/-- Why a command has no meaning. -/
inductive Refusal where
  /-- Raised only by arms of `exec` that have no meaning yet. Safe. -/
  | notModelled (mnemonic : String)
  deriving DecidableEq, Repr

/-! ## Places and descriptors -/

/-- A byte place that an engine address names once HOME is resolved (R72). -/
inductive Loc where
  | ls (e off : Nat)
  | cs (c off : Nat)
  | pier (addr : Nat)
  deriving DecidableEq, Repr

/-- An item descriptor (R98), with the EVAL mark of its context (R240). -/
structure ItemDesc where
  entry : Nat
  pinned : Bool
  net : Bool
  reexec : Bool
  lsDep : Bool
  prio : Nat
  affinity : Nat
  seq : W32
  doneValid : Bool
  doneEngine : Nat
  doneFlag : Nat
  arg : W64
  in0Base : W64
  in1Base : W64
  outBase : W64
  in0Len : Nat
  in1Len : Nat
  outLen : Nat
  ctx : Nat
  rslot : Nat
  eval : Bool
  deriving DecidableEq, Repr

/-- One linear part of a copy. -/
structure Seg where
  src : Loc
  dst : Loc
  len : Nat
  deriving DecidableEq, Repr

/-- A plinth operation as CPYP took it at issue: its descriptor and auxiliary block (R209). -/
structure Plinth where
  op : Nat
  prune : Bool
  stoch : Bool
  srcFmt : Nat
  srcScale : Nat
  srcSparse : Nat
  dstFmt : Nat
  dstScale : Nat
  dstSparse : Nat
  rows : Nat
  cols : Nat
  src : Loc
  dst : Loc
  srcScl : Loc
  dstScl : Loc
  srcPitch : Nat
  dstPitch : Nat
  srcC : Int
  dstC : Int
  seed : W64
  idxBase : W64
  idxRow : W64
  flush : Option Loc
  report : Option Loc
  list : Loc
  listCount : Nat
  unit : Nat
  deriving DecidableEq, Repr

/-- An outstanding copy of an engine (R80): `segs` for CPY and CPYS, `plinth` for CPYP. The snapshots are the
bytes of both sides as the issue found them; they decide the free bytes of R82 and R203. `live` is cleared when
the issuing item ends (R461). -/
structure CopyOp where
  flag : Nat
  flagEngine : Nat
  segs : List Seg
  plinth : Option Plinth
  srcSnap : List Byte
  dstSnap : List Byte
  /-- The bytes that go to each destination place, from `srcSnap`. -/
  outs : List (Loc × List Byte)
  live : Bool
  reset : Bool
  homeCourse : Nat
  slot : Nat
  opc : BitVec 8
  pc : Nat
  /-- Issue order of the module's copies (R218: digests run in arrival order). -/
  ord : Nat
  deriving DecidableEq, Repr

/-- What an outstanding network operation does. -/
inductive NetKind where
  | put | get | flag | step
  deriving DecidableEq, Repr

/-- The part of an NSTEP that waits (R308, R311). -/
structure StepWait where
  waitEn : Bool
  waitFlag : Nat
  waitCount : Nat
  met : Bool
  sendEn : Bool
  fence : Bool
  plan : Bool
  planEnd : Bool
  peer : Nat
  timer : Nat
  /-- The PROGRESS_US of its collective's launch (R65). -/
  limit : Nat
  deriving DecidableEq, Repr

/-- One READ of an NGET that has not been answered: its SEQ once it is sent, and the place and length of its part
(R266, R462). -/
structure GetPart where
  seq : Option Nat
  off : Nat
  len : Nat
  deriving DecidableEq, Repr

/-- An outstanding network operation (R97). `live` is cleared when the item ends or rung 2 abandons it. -/
structure NetOp where
  id : Nat
  kind : NetKind
  flag : Nat
  flagEngine : Nat
  die : Nat
  dest : Nat
  tc : Nat
  loc : Loc
  remote : BitVec 48
  len : Nat
  tgtEngine : Nat
  tgtFlag : Nat
  amount : Nat
  step : Option StepWait
  parts : List GetPart
  sent : Bool
  /-- The injection epoch when it was issued (R276). -/
  epoch : Bool
  eval : Bool
  ctx : Nat
  itemSeq : W32
  live : Bool
  reset : Bool
  homeCourse : Nat
  slot : Nat
  opc : BitVec 8
  pc : Nat
  deriving DecidableEq, Repr

/-! ## Engines -/

/-- The tag of an element in the common internal form (R132). -/
inductive Tag where
  | finite | inf | nan
  deriving DecidableEq, Repr

/-- A piece in the common internal form: (−1)^s × m × 2^q (R132). -/
structure Piece where
  tag : Tag
  neg : Bool
  q : Int
  m : Nat
  deriving DecidableEq, Repr

/-- One position of an operand buffer: its pieces and the mark of R152. -/
structure Elem where
  pieces : List Piece
  zero : Bool
  deriving DecidableEq, Repr

/-- An operand buffer's tile: 32 rows of `k` elements, the format, the sparsity, and the rows (R84, R152). -/
structure Tile where
  k : Nat
  fmt : Nat
  sparse : Nat
  rows : List (List Elem)
  deriving DecidableEq, Repr

/-- A nonzero partial product of an open window (R153). -/
structure Partial where
  neg : Bool
  m : Nat
  q : Int
  deriving DecidableEq, Repr

/-- The special tag of a cell (R158). -/
inductive CellTag where
  | finite | posInf | negInf | nan
  deriving DecidableEq, Repr

/-- A cell of an accumulator set: the open window's partial products, whose aligned sum the short accumulator
holds when the window closes (R159), the long accumulator (S, E), and the special tag (R158). -/
structure Cell where
  parts : List Partial
  s : W32
  err : W32
  tag : CellTag
  deriving DecidableEq, Repr

/-- An accumulator set: k-steps in the open window, and the cells by 32 × row + column. -/
structure AccSet where
  steps : Nat
  cells : Tab Cell
  deriving DecidableEq, Repr

/-- What an engine does (ENG_STATUS.STATE and WAIT_ON, R119). -/
inductive Act where
  | disabled
  | idle
  | run
  /-- FWAIT on flag `f` until it is at least `v`; `consume` subtracts `v` (R227). -/
  | waitFlag (f : Nat) (v : W32) (consume : Bool)
  /-- KWAIT on line `k` until its phase differs from `v`. -/
  | waitKey (k : Nat) (v : W32)
  | waitCopyQueue
  | waitNetQueue
  /-- CFENCE. -/
  | waitFence
  /-- FINISH, before its commit (R102 step 1). -/
  | finishing
  deriving DecidableEq, Repr

/-- A logical engine (R119): its registers, stores it owns, running item and register block. -/
structure Engine where
  act : Act
  g : Tab W64
  /-- Lane l of v[r] at 32 × r + l. -/
  v : Tab W32
  bufs : Tab Tile
  accs : Tab AccSet
  flags : Tab W32
  pc : Nat
  /-- Home course and hod slot of the running item. -/
  item : Option (Nat × Nat)
  /-- The running item is pinned to an orphan (R116): the orphan. -/
  rehomed : Option Nat
  numstat : BitVec 3
  /-- The registers of an RCONT, to be committed at FINISH (R93). -/
  contrib : Option (List W32)
  /-- Flush counts to be added at FINISH (R90). -/
  flushes : List (Loc × Nat)
  /-- Pending spawns of the item in spawn order: (course, slot) (R105). -/
  spawns : List (Nat × Nat)
  /-- Flag changes of a REEXEC item so far: (flag, change) (R113). -/
  undo : List (Nat × W32)
  /-- The item that met CHECK and is to be executed again (R113). -/
  reexecItem : Option (Nat × Nat)
  checkMet : Bool
  copies : List CopyOp
  nets : List NetOp
  nextNet : Nat
  orphan : Bool
  /-- Physical slot (0x3F for none). -/
  slot : Nat
  /-- The spare that a retired slot's contents are being copied to (R114). -/
  replacing : Option Nat
  numstatReg : BitVec 3
  faultCode : BitVec 8
  faultOpc : BitVec 8
  faultValid : Bool
  faultOver : Bool
  faultPc : Nat
  faultAddr : W64
  finished : Nat
  stolen : Nat
  busyCyc : Nat
  ecc : Nat
  check : Nat
  reexec : Nat
  skip : Nat
  saved : Nat
  flagSel : BitVec 6
  /-- Course clock cycles since the running item started (SYSR 7, R69). -/
  itemCyc : Nat
  /-- The running item has been restarted from a save area (R107). -/
  resumed : Bool
  /-- Corrected errors of the engine's slot within the last second: GEN_TIME and number (R114). -/
  eccLog : List (Nat × Nat)
  /-- The slot retires for its corrected errors once the running item has finished or yielded (R114). -/
  retireDue : Bool
  deriving DecidableEq, Repr

/-- An engine at reset (R119, R101); F0–F47 are zero (R224). -/
def Engine.reset : Engine :=
  { act := .disabled, g := [], v := [], bufs := [], accs := [], flags := [], pc := 0, item := none, rehomed := none,
    numstat := 0, contrib := none, flushes := [], spawns := [], undo := [], reexecItem := none, checkMet := false,
    copies := [], nets := [], nextNet := 0, orphan := false, slot := 0x3F, replacing := none,
    numstatReg := 0, faultCode := 0, faultOpc := 0, faultValid := false, faultOver := false, faultPc := 0,
    faultAddr := 0, finished := 0, stolen := 0, busyCyc := 0, ecc := 0, check := 0, reexec := 0, skip := 0,
    saved := 0, flagSel := 0, itemCyc := 0, resumed := false, eccLog := [], retireDue := false }

/-! ## Courses -/

/-- The state of a hod slot (*The work queue*). -/
inductive SlotStatus where
  /-- Reserved by an item of this engine that has not finished (R105). -/
  | pending
  | ready
  | running (e : Nat)
  /-- Tied to this engine (R107). -/
  | yielded (e : Nat)
  deriving DecidableEq, Repr

/-- What YIELD keeps of an item besides its save area (R107). -/
structure Saved where
  numstat : BitVec 3
  contrib : Option (List W32)
  flushes : List (Loc × Nat)
  spawns : List (Nat × Nat)
  undo : List (Nat × W32)
  itemCyc : Nat
  /-- An operation of the yielded item has met CHECK: the item, which has REEXEC set, is to be executed again (R113, R461). -/
  failed : Bool
  deriving DecidableEq, Repr

/-- An occupied hod slot. `listed` is the course in whose hod the item is offered for choice (R107); `limit` is the
PROGRESS_US under which the item was placed, that is, under which its collective was launched (R65, R297). -/
structure HodSlot where
  desc : ItemDesc
  status : SlotStatus
  stamp : W32
  listed : Nat
  saved : Option Saved
  limit : Nat
  deriving DecidableEq, Repr

/-- A configured reduction slot (R92, R174). -/
structure RSlot where
  op : Nat
  lenRegs : Nat
  count : Nat
  firstSeq : Nat
  doneValid : Bool
  doneEngine : Nat
  doneFlag : Nat
  dest : Loc
  bufOff : Nat
  /-- Indices n whose contribution has been committed. -/
  got : List Nat
  /-- Contributions combined so far (R94). -/
  combined : Nat
  /-- The state of each element (R174). -/
  acc : List (List W32)
  deriving DecidableEq, Repr

/-- A course (R119): hod, reduction slots, physical slots and register block. -/
structure Course where
  enabled : Bool
  licensed : Bool
  passed : Bool
  hod : Tab HodSlot
  arrivals : W32
  peak : Nat
  rslots : Tab RSlot
  /-- State of physical slot 0–33: 0 LOGICAL, 1 SPARE, 2 RETIRED, 3 FAILED. -/
  phys : Tab Nat
  hodIn : Nat
  hodStolen : Nat
  spawnFull : Nat
  csEcc : Nat
  dispatch : Nat
  dispRefused : Nat
  /-- Flag additions held while the course is at Q2 or deeper (R229): (engine, flag, amount), oldest first. -/
  heldAdds : List (Nat × Nat × W32)
  /-- Subtractions held likewise (R225, R229): those of opening slots, firing windows, met steps and undone items. -/
  heldSubs : List (Nat × Nat × W32)
  deriving DecidableEq, Repr

def Course.reset : Course :=
  { enabled := false, licensed := false, passed := false, hod := [], arrivals := 0, peak := 0, rslots := [], phys := [],
    hodIn := 0, hodStolen := 0, spawnFull := 0, csEcc := 0, dispatch := 0, dispRefused := 0, heldAdds := [], heldSubs := [] }

/-! ## Partitions, contexts, slots, lines, windows -/

/-- A re-shard plan (R55): PLAN_ID and its records (SRC_ADDR, DST_ADDR, LENGTH, DST_NODE). -/
structure Plan where
  id : W32
  records : List (Nat × Nat × Nat × Nat)
  deriving DecidableEq, Repr

/-- A running COPY command (R406). -/
structure CopyCmd where
  host : W64
  target : Loc
  len : Nat
  dir : Nat
  deriving DecidableEq, Repr

/-- A fetched command with PRIO and EVAL of its context as they stood at the fetch (R240, R403). -/
structure Held where
  bytes : List Byte
  prio : Nat
  eval : Bool
  deriving DecidableEq, Repr

/-- The command that a partition's command processor is carrying out (R239). -/
structure Carrying where
  ctx : Nat
  cmd : Held
  copy : Option CopyCmd
  deriving DecidableEq, Repr

/-- A partition: PART_HALT, the COLL registers, the plan, and the command processor. -/
structure Part where
  halted : Bool
  haltCause : BitVec 8
  haltEngine : Nat
  haltNoEngine : Bool
  /-- GEN_TIME of the halt: of two halting faults of one cycle R120 says which PART_HALT records. -/
  haltAt : Nat
  failValid : Bool
  failCause : Nat
  failPort : Nat
  failEngine : Nat
  failPeer : Nat
  steps : Nat
  timerCount : Nat
  waitCyc : Nat
  plan : Option Plan
  planLock : Bool
  carrying : Option Carrying
  /-- Contexts in the order in which the processor last served them, most recent first (R239). -/
  served : List Nat
  /-- CKP_PART_RESET.BUSY (R329). -/
  resetBusy : Bool
  deriving DecidableEq, Repr

def Part.reset : Part :=
  { halted := false, haltCause := 0, haltEngine := 0, haltNoEngine := false, haltAt := 0, failValid := false, failCause := 0,
    failPort := 0, failEngine := 0, failPeer := 0, steps := 0, timerCount := 0, waitCyc := 0, plan := none,
    planLock := false, carrying := none, served := [], resetBusy := false }

/-- A stream context (R238 to R245). -/
structure Ctx where
  enable : Bool
  prio : Nat
  eval : Bool
  ringOrder : Nat
  slot : Nat
  dbErr : Bool
  ring : W64
  head : W32
  tail : W32
  numstat : BitVec 3
  faultCode : BitVec 8
  faultOpc : BitVec 8
  faultEngine : Nat
  faultValid : Bool
  faultSeq : W32
  live : Nat
  placed : Nat
  finished : Nat
  ended : Nat
  /-- Commands fetched from the ring and not yet carried out, from HEAD onward (R403). -/
  held : List Held
  /-- The command at HEAD waits for a hod slot (R104, WAIT_SLOT). -/
  waitSlot : Bool
  /-- The command at HEAD is fenced and was found with CTX_LIVE not 0 (R404, FENCED). -/
  fenced : Bool
  deriving DecidableEq, Repr

def Ctx.reset : Ctx :=
  { enable := false, prio := 0, eval := false, ringOrder := 0, slot := 0xFF, dbErr := false, ring := 0, head := 0,
    tail := 0, numstat := 0, faultCode := 0, faultOpc := 0, faultEngine := 0, faultValid := false, faultSeq := 0,
    live := 0, placed := 0, finished := 0, ended := 0, held := [], waitSlot := false, fenced := false }

/-- A micro-batch slot (R246, R247). -/
structure MSlot where
  phase : Bool
  mb : W32
  engine : Nat
  flag : Nat
  consume : Bool
  arm : Bool
  thresh : W32
  opens : Nat
  deriving DecidableEq, Repr

def MSlot.reset : MSlot :=
  { phase := false, mb := 0, engine := 0, flag := 0, consume := false, arm := false, thresh := 0, opens := 0 }

/-- A keystone line (R231 to R235). -/
structure KeyLine where
  phase : W32
  count : Nat
  expect : Nat
  mismatch : Nat
  /-- This module's share of the phase is complete (slice reach, R231). -/
  shareDone : Bool
  /-- Children that have reported the current phase (R234). -/
  reports : List Nat
  owner : Nat
  reach : Nat
  die : Nat
  deriving DecidableEq, Repr

def KeyLine.reset : KeyLine :=
  { phase := 0, count := 0, expect := 0, mismatch := 0, shareDone := false, reports := [], owner := 0xFF, reach := 0,
    die := 0 }

/-- An activation off-load window (R323, R324). -/
structure Ofl where
  arm : Bool
  dir : Bool
  busy : Bool
  err : Bool
  host : W64
  pier : W64
  len : W32
  thresh : W32
  trigEngine : Nat
  trigFlag : Nat
  doneEngine : Nat
  doneFlag : Nat
  doneValid : Bool
  count : Nat
  /-- The copy that runs, as the window stood when it fired, and whether its host requests have been issued (R394). -/
  copy : Option CopyCmd
  sent : Bool
  /-- Copies of later firings, which wait for it. -/
  next : List CopyCmd
  deriving DecidableEq, Repr

def Ofl.reset : Ofl :=
  { arm := false, dir := false, busy := false, err := false, host := 0, pier := 0, len := 0, thresh := 0,
    trigEngine := 0, trigFlag := 0, doneEngine := 0, doneFlag := 0, doneValid := false, count := 0, copy := none, sent := false,
    next := [] }

/-! ## Applied configuration -/

/-- A partition record of the applied PART section (R38). -/
structure PartCfg where
  hostPort : Nat
  offloadWin : Nat
  courseMask : BitVec 64
  ctxFirst : Nat
  ctxCount : Nat
  slotFirst : Nat
  slotCount : Nat
  deriving DecidableEq, Repr

/-- A class record of the applied CLOCK section (R40). -/
structure ClassCfg where
  deepest : Nat
  tQ2 : Nat
  tQ3 : Nat
  tQ4 : Nat
  deriving DecidableEq, Repr

/-- A record of the applied HOD section (R42). -/
structure HodCfg where
  steal : Bool
  far : Bool
  near : Nat
  deriving DecidableEq, Repr

/-- A pier region (R44) with its first page on each pier (R198). -/
structure Region where
  id : Nat
  kind : Nat
  target : Nat
  owner : Nat
  narrow : Bool
  buddy : Bool
  cast : Bool
  base : Nat
  size : Nat
  first : Tab Nat
  deriving DecidableEq, Repr

/-- The applied SLICE section (R48). -/
structure Slice where
  sliceId : BitVec 14
  role : Nat
  physW : Nat
  nodeId : BitVec 17
  extW : Nat
  extX : Nat
  extY : Nat
  extZ : Nat
  initEpoch : Bool
  freezeWave : Bool
  expect : List W32
  deriving DecidableEq, Repr

def Slice.reset : Slice :=
  { sliceId := 0, role := 0, physW := 0, nodeId := 0, extW := 1, extX := 1, extY := 1, extZ := 1, initEpoch := false,
    freezeWave := false, expect := [] }

/-- The applied CAST section (R51). -/
structure CastCfg where
  sendEn : Bool
  sendTo : Nat
  sendFeed : Nat
  tc3Share : Nat
  holdEn : Bool
  holdFor : Nat
  holdFeed : Nat
  holdState : Nat
  deriving DecidableEq, Repr

def CastCfg.reset : CastCfg :=
  { sendEn := false, sendTo := 0, sendFeed := 0, tc3Share := 50, holdEn := false, holdFor := 0, holdFeed := 0,
    holdState := 0 }

/-- What a spare-adoption image has staged for the next FLIP (R66, R285): node ID, CAST section, half. -/
structure Adoption where
  nodeId : BitVec 17
  cast : Option CastCfg
  half : Bool
  deriving DecidableEq, Repr

/-- The applied configuration (*The bond image*). -/
structure Cfg where
  applied : Bool
  ownerPort : Nat
  parts : Tab PartCfg
  courseEn : BitVec 64
  engMask : Tab (BitVec 32)
  capW : Nat
  courseClk : List Nat
  classes : List ClassCfg
  modPer : Nat
  diePer : Nat
  deepGap : Nat
  hod : Tab HodCfg
  flagSysBase : Nat
  regions : List Region
  slice : Slice
  adopt : Option Adoption
  axes : List Nat
  thresh : List W32
  progressUs : Nat
  cast : CastCfg
  deriving DecidableEq, Repr

def Cfg.reset : Cfg :=
  { applied := false, ownerPort := 0, parts := [], courseEn := 0, engMask := [], capW := 2400, courseClk := [],
    classes := [], modPer := 8, diePer := 2, deepGap := 1, hod := [], flagSysBase := 40, regions := [],
    slice := Slice.reset, adopt := none, axes := [0, 0, 0, 0], thresh := [], progressUs := 50000, cast := CastCfg.reset }

/-! ## Bond image submission -/

/-- BOND_STATUS.STATE (R25). -/
inductive BondState where
  | idle | fetch | verify | staged | apply | done | refused
  deriving DecidableEq, Repr

/-- The BOND registers of one host port (R25), with what GO latched. -/
structure BondPort where
  src : W64
  len : W32
  st : BondState
  code : BitVec 8
  section_ : BitVec 16
  errOff : W32
  goSrc : W64
  goLen : Nat
  /-- The fetch's reads have been issued over the port (R394). -/
  sent : Bool
  deriving DecidableEq, Repr

def BondPort.reset : BondPort :=
  { src := 0, len := 0, st := .idle, code := 0, section_ := 0xFFFF, errOff := 0, goSrc := 0, goLen := 0, sent := false }

/-- The shared side of the BOND block and the staging area's image. -/
structure Bond where
  ports : Tab BondPort
  /-- The full image STAGED, and the port that submitted it. -/
  staged : Option (Nat × List Byte)
  /-- The accepted partial image in APPLY, and its port. -/
  applying : Option (Nat × List Byte)
  activeSeq : W64
  /-- The sequence high-water mark of the always-on domain (R34). -/
  highWater : W64
  meas : List Byte
  stageBase : Bool
  deriving DecidableEq, Repr

def Bond.reset : Bond :=
  { ports := [], staged := none, applying := none, activeSeq := 0, highWater := 0, meas := [], stageBase := false }

/-! ## Routers, transport and ports -/

/-- The state of a half of the route tables (R284). -/
inductive Half where
  | free | active | draining | loading
  deriving DecidableEq, Repr

/-- What a retained packet belongs to. -/
inductive OpRef where
  | engine (e id : Nat)
  | key (line : Nat)
  /-- A packet of the cast, or of the restore, with this number. -/
  | castSend (n : Nat)
  | restore (n : Nat)
  /-- An answer of this module (READ_DATA, RESPONSE), a restore stream, or a mason message. -/
  | reply
  deriving DecidableEq, Repr

/-- An unacknowledged packet (R274) with the operation it belongs to and, for a payload taken from a source span,
that span. `last` marks the packet whose acknowledgement completes the operation. -/
structure Sent where
  pkt : Packet
  op : OpRef
  src : Option Loc
  last : Bool
  /-- Issue order of the module's packets (R275). -/
  ord : Nat
  /-- The packet has been sent at least once (a FENCE packet waits first, R275). -/
  out : Bool
  deriving DecidableEq, Repr

/-- A send flow (R268, R270, R273). -/
structure SendFlow where
  id : FlowId
  nextSeq : BitVec 24
  unacked : List Sent
  expiries : Nat
  /-- A refused packet's SEQ while its backoff runs, and the refusals so far. -/
  backoff : Option (BitVec 24)
  refusals : Nat
  /-- The flow has sent nothing since the last flip (R275). -/
  flipped : Bool
  deriving DecidableEq, Repr

/-- A receive entry (R268). `ackDue`: deliveries not yet acknowledged. -/
structure RecvFlow where
  id : FlowId
  die : Nat
  expected : BitVec 24
  openSeq : BitVec 24
  ackDue : Nat
  /-- Courses that hold a flag addition of its packets, which no ACK covers before it is visible (R229, R269). -/
  holds : List Nat
  /-- GEN_TIME of its last delivery (R271). -/
  at_ : Nat
  deriving DecidableEq, Repr

/-- A packet being received for delivery on a die; `whole` once its trailer has passed its check. `inp`: the torus port
and virtual channel in whose input buffer it lies (R258). -/
structure Arrived where
  die : Nat
  pkt : Packet
  whole : Bool
  inp : Option (Nat × Nat)
  deriving DecidableEq, Repr

/-- A packet of this module to itself (R280), with its operation. -/
structure LocalPkt where
  pkt : Packet
  op : OpRef
  src : Option Loc
  last : Bool
  refusals : Nat
  deriving DecidableEq, Repr

/-- A packet crossing mortar to a die: the arrival class (R259, 0 injected, 1–4 W, X, Y, Z) and mortar channel, and
whether its trailer has passed its check. -/
structure Transit where
  die : Nat
  pkt : Packet
  cls : Nat
  chan : Nat
  whole : Bool
  deriving DecidableEq, Repr

/-- The trailer that follows, from die `src` to die `die`, a head that crossed mortar before it: whether it has passed the
first die, and whether with DISCARD set (R288, R289). -/
structure Tail where
  src : Nat
  die : Nat
  pkt : Packet
  passed : Bool
  bad : Bool
  deriving DecidableEq, Repr

/-- A packet that waits for a send flow, a retained-packet place or a FENCE (R271, R275). -/
structure Waiting where
  die : Nat
  pkt : Packet
  op : OpRef
  src : Option Loc
  last : Bool
  ord : Nat
  deriving DecidableEq, Repr

/-- The RTE counters of a die. -/
structure DieCtr where
  miss : Nat
  sliceDrop : Nat
  misdeliver : Nat
  hopsDrop : Nat
  aged : Nat
  badMsg : Nat
  gap : Nat
  dup : Nat
  noFlow : Nat
  rxFull : Nat
  retx : Nat
  giveUp : Nat
  refusedTx : Nat
  refusedRx : Nat
  deriving DecidableEq, Repr

def DieCtr.reset : DieCtr :=
  { miss := 0, sliceDrop := 0, misdeliver := 0, hopsDrop := 0, aged := 0, badMsg := 0, gap := 0, dup := 0, noFlow := 0,
    rxFull := 0, retx := 0, giveUp := 0, refusedTx := 0, refusedRx := 0 }

/-- The RTE block and the transport. -/
structure Rte where
  inj : Bool
  half0 : Half
  half1 : Half
  retxUs : Nat
  retries : Nat
  lookIndex : BitVec 21
  lookDie : BitVec 2
  lookEntry : W32
  ctrs : Tab DieCtr
  /-- The route table of die d, half h at 2 × d + h. -/
  routes : Tab (Tab W32)
  send : List SendFlow
  recv : List RecvFlow
  /-- The open counters, held in the always-on domain (R268). -/
  openCtr : Tab (BitVec 24)
  arrived : List Arrived
  locals_ : List LocalPkt
  mortar : List Transit
  tails : List Tail
  waiting : List Waiting
  /-- Flows that gave up, which a FENCE still waits for, with the issue order of their oldest packet and the GEN_TIME at
  which they gave up (R275). -/
  gaveUp : List (FlowId × Nat × Nat)
  nextOrd : Nat
  deriving DecidableEq, Repr

def Rte.reset : Rte :=
  { inj := false, half0 := .free, half1 := .free, retxUs := 200, retries := 8, lookIndex := 0, lookDie := 0,
    lookEntry := 0, ctrs := [], routes := [], send := [], recv := [], openCtr := [], arrived := [], locals_ := [],
    mortar := [], tails := [], waiting := [], gaveUp := [], nextOrd := 0 }

/-- LNK_STATUS.STATE. -/
inductive PortState where
  | down | training | up | frozen | disabled | test
  deriving DecidableEq, Repr

/-- A packet in an output queue, its virtual channel, whether its trailer has passed its check here, and the torus port and
channel in whose input buffer it lies (R258). -/
structure QPkt where
  pkt : Packet
  vc : Nat
  whole : Bool
  inp : Option (Nat × Nat)
  deriving DecidableEq, Repr

/-- What a link soak of a port has reached (R387). -/
structure Soak where
  ms : Nat
  failed : Bool
  deriving DecidableEq, Repr

/-- A torus port: LNK registers, link layer, queue, neighbour. -/
structure Port where
  st : PortState
  fitted : Bool
  halfWidth : Bool
  hbMissing : Bool
  nbrDead : Bool
  light : Bool
  disableBit : Bool
  testBit : Bool
  stall : BitVec 16
  arb : BitVec 24
  hb : W32
  hbAge : Nat
  frzHold : BitVec 24
  fecCorr : Nat
  fecUncorr : Nat
  replay : Nat
  crcBad : Nat
  hcrcBad : Nat
  stallDrop : Nat
  downDrop : Nat
  txFlits : Nat
  rxFlits : Nat
  downEvents : Nat
  berBits : Nat
  berErr : Nat
  /-- Output queue, in the order in which packets became ready (R260). -/
  queue : List QPkt
  /-- Packets that left before their trailer arrived (R288). -/
  cut : List QPkt
  /-- The packet being received, until its tail, and the GEN_TIME of its head (R289). -/
  incoming : Option Packet
  incomingAt : Nat
  /-- BODY flits are dropped until the next HEAD (R288, R289). -/
  dropBody : Bool
  rxExpect : BitVec 10
  rxDiscard : Bool
  txSeq : BitVec 10
  /-- Flits in the codeword that is being filled; 0 when none is (R255). -/
  txFill : Nat
  /-- CW_SEQ of codewords sent and not acknowledged, oldest first (R257). -/
  txHeld : List (BitVec 10)
  nakSeq : BitVec 10
  nakCount : Nat
  /-- Flits sent per virtual channel, modulo 65,536, and the count of the last CREDIT flit received (R258). -/
  txSent : Tab (BitVec 16)
  txFreed : Tab (BitVec 16)
  /-- Flits received per virtual channel, modulo 65,536, and the counts of the last CREDIT flit sent. -/
  rxCount : Tab (BitVec 16)
  rxTold : Tab (BitVec 16)
  /-- Weighted round robin: what is left of each weight of TC1, TC2, TC3 in the current round (R260). -/
  rr1 : Nat
  rr2 : Nat
  rr3 : Nat
  /-- Per class, the dateline channel last sent (R260). -/
  lastDl : Tab Nat
  /-- What the last flit slots carried, newest first: slots, and whether of a strict-priority class (R260). -/
  recent : List (Nat × Bool)
  /-- A HELLO has arrived since the port last came UP, and the last one (DISC_NBR). -/
  nbrValid : Bool
  nbr : Option Hello
  soak : Option Soak
  lightUnit : Bool
  deriving DecidableEq, Repr

def Port.reset : Port :=
  { st := .down, fitted := false, halfWidth := false, hbMissing := false, nbrDead := false, light := false,
    disableBit := false, testBit := false, stall := 500, arb := 0x020204, hb := 0, hbAge := 0, frzHold := 120000,
    fecCorr := 0, fecUncorr := 0, replay := 0, crcBad := 0, hcrcBad := 0, stallDrop := 0, downDrop := 0, txFlits := 0,
    rxFlits := 0, downEvents := 0, berBits := 0, berErr := 0, queue := [], cut := [], incoming := none, incomingAt := 0, dropBody := false,
    rxExpect := 0, rxDiscard := false, txSeq := 0, txFill := 0, txHeld := [], nakSeq := 0, nakCount := 0, txSent := [], txFreed := [],
    rxCount := [], rxTold := [], rr1 := 0, rr2 := 0, rr3 := 0, lastDl := [], recent := [],
    nbrValid := false, nbr := none, soak := none, lightUnit := false }

/-! ## Piers and controllers -/

/-- A pier's register block (R223). -/
structure Pier where
  fitted : Bool
  trained : Bool
  marked : Bool
  markedLayer : Nat
  ce : Nat
  ue : Nat
  ueLocal : Nat
  ueValid : Bool
  ueKind : Nat
  ueEngine : Nat
  passes : Nat
  temp : BitVec 8
  hot : Bool
  layerCe : Tab Nat
  deriving DecidableEq, Repr

def Pier.reset : Pier :=
  { fitted := false, trained := false, marked := false, markedLayer := 0, ce := 0, ue := 0, ueLocal := 0,
    ueValid := false, ueKind := 0, ueEngine := 0, passes := 0, temp := 0, hot := false, layerCe := [] }

/-- A controller's byte counters and its scrub. -/
structure Mc where
  rdBytes : Nat
  wrBytes : Nat
  /-- Piers whose pass the scrub wake of R364 still waits for. -/
  scrub : List Nat
  deriving DecidableEq, Repr

def Mc.reset : Mc := { rdBytes := 0, wrBytes := 0, scrub := [] }

/-! ## Power, clocks, bring-up -/

/-- PWR_SEQ.STATE. -/
inductive Seq where
  | off | rising | on | falling
  deriving DecidableEq, Repr

/-- A clock domain (R357): CLK_DOM, CLK_WAKES, and its descent and wake in progress. -/
structure Dom where
  level : Nat
  held : Bool
  mhz : Nat
  wakes : Nat
  /-- The level being entered (R363). -/
  entering : Option Nat
  /-- A wake event has arrived and has not been served. -/
  wakeReq : Bool
  /-- The exit has been granted (R359). -/
  granted : Bool
  /-- A course's deep grant has been given, and its grant of R365 is awaited (R366). -/
  deepGiven : Bool
  /-- AOCLK cycles of the present idle period; none while not idle (R361). -/
  idle : Option Nat
  /-- AOCLK cycles since the wake request. -/
  waited : Nat
  /-- AOCLK cycles at Q2 or deeper (R364). -/
  asleep : Nat
  /-- The part of a course clock cycle that is over, in 1/25 (an AOCLK cycle is MHZ/25 course clock cycles). -/
  phase : Nat
  deriving DecidableEq, Repr

def Dom.reset : Dom :=
  { level := 5, held := false, mhz := 0, wakes := 0, entering := none, wakeReq := false, granted := false,
    deepGiven := false, idle := none, waited := 0, asleep := 0, phase := 0 }

/-- The power controller, rails and telemetry. -/
structure Pwr where
  inputOn : Bool
  seq : Seq
  /-- Filtered PWR_EN. -/
  en : Bool
  waitLow : Bool
  /-- PWR_EN has fallen since core power was removed (R455 to R457). -/
  fell : Bool
  capW : Nat
  ft : Nat
  capUnmet : Bool
  /-- 1 µs samples, newest first, at most 100 (R368). -/
  samples : List Nat
  /-- Throttle ticks for which F_T was 1 and P100 above CAP (R368). -/
  unmetTicks : Nat
  peak : Tab Nat
  wakeMax : Tab Nat
  /-- The largest updates of PWR_PEAK and PWR_WAKE_MAX in the present cycle, which no read of that cycle returns or clears
  (R16). -/
  peakNow : Nat
  wakeNow : Nat
  throttleCyc : Nat
  vin : BitVec 16
  iin : BitVec 16
  pin : BitVec 16
  rails : List (BitVec 16 × BitVec 16)
  temps : List (BitVec 8)
  tempsValid : Bool
  lossCause : Nat
  lossValid : Bool
  /-- GEN_TIME at which core power removal began, for causes of one cycle (R458). -/
  lossAt : Nat
  /-- Steps of R452 that are up, and the first step that will not become good while they rise (R453). -/
  steps : Nat
  badStep : Option Nat
  /-- Course wakes waiting for a grant, and domains waiting for a deep grant, in arrival order (R365, R366). -/
  wakeQ : List Nat
  deepQ : List Nat
  /-- Per die, the GEN_TIME from which its next deep grant may be given (R366). -/
  deepAt : Tab Nat
  deriving DecidableEq, Repr

def Pwr.reset : Pwr :=
  { inputOn := false, seq := .off, en := false, waitLow := false, fell := false, capW := 2400, ft := 16, capUnmet := false,
    samples := [], unmetTicks := 0, peak := [], wakeMax := [], peakNow := 0, wakeNow := 0, throttleCyc := 0, vin := 0, iin := 0,
    pin := 0, rails := [], temps := [], tempsValid := false, lossCause := 0, lossValid := false, lossAt := 0, steps := 0,
    badStep := none, wakeQ := [], deepQ := [], deepAt := [] }

/-- BU_STATUS.STATE. -/
inductive BuState where
  | running | waitOrigin | waitImage | failed | ready
  deriving DecidableEq, Repr

/-- Bring-up and discovery (R377 to R389). -/
structure Bu where
  stage : Nat
  st : BuState
  result : BitVec 8
  /-- The report log: record words by 16 × (INDEX mod 256) + word, held in the always-on domain (R389). -/
  log : Tab W32
  logCount : Nat
  /-- Runs of BU8 since BU0 or rung 3 (ATTEMPT, R379). -/
  attempt : Nat
  stageStart : Nat
  rung3 : Bool
  origin : W32
  ring : W32
  isOrigin : Bool
  coord : BitVec 18
  coordRing : BitVec 21
  coordValid : Bool
  skipped : Bool
  conflict : Bool
  conflictKind : Nat
  conflictPort : Nat
  linkFail : BitVec 10
  soaked : BitVec 10
  soaking : Bool
  worstPort : Nat
  worstErrs : Nat
  worstBits : Nat
  strapWord : W32
  deriving DecidableEq, Repr

def Bu.reset : Bu :=
  { stage := 0, st := .running, result := 0, log := [], logCount := 0, attempt := 0, stageStart := 0, rung3 := false,
    origin := 0, ring := 0, isOrigin := false, coord := 0, coordRing := 0, coordValid := false, skipped := false,
    conflict := false, conflictKind := 0, conflictPort := 0, linkFail := 0, soaked := 0, soaking := false,
    worstPort := 0, worstErrs := 0, worstBits := 0, strapWord := 0 }

/-! ## Host ports, mailboxes, identity -/

/-- A mailbox channel (R409), with a secure channel's session (R415) and a long message in progress (R412). -/
structure Chan where
  data : Tab W32
  go : Bool
  fromMod : Bool
  session : Nat
  keySlot : Nat
  nonce : List Byte
  long : List Byte
  longOpc : Nat
  longTotal : Nat
  /-- A long-running operation answers on this channel (R414). -/
  busy : Bool
  deriving DecidableEq, Repr

def Chan.reset : Chan :=
  { data := [], go := false, fromMod := false, session := 0, keySlot := 0, nonce := [], long := [], longOpc := 0,
    longTotal := 0, busy := false }

/-- What the configuration space of a function holds beside the fields of `HostPort` (R391, R395, R397). -/
structure CfgSpace where
  /-- Command: Memory Space Enable. -/
  memEn : Bool
  cacheLine : BitVec 8
  intLine : BitVec 8
  /-- Where the host has placed BAR0, BAR2 and BAR4, at 0, 1 and 2. -/
  bars : Tab W64
  extTag : Bool
  noSnoop : Bool
  /-- Device Control: Unsupported Request Reporting Enable. -/
  urRep : Bool
  /-- Status: received master and target abort, signaled target abort. -/
  errSta : BitVec 16
  /-- Device Status: correctable, non-fatal and fatal error detected, unsupported request detected. -/
  devSta : BitVec 4
  /-- Link Control: ASPM Control. -/
  aspm : BitVec 2
  /-- Device Control 2: Completion Timeout Value and 10-Bit Tag Requester Enable. -/
  ctValue : BitVec 4
  tag10 : Bool
  /-- Advanced Error Reporting: uncorrectable status, mask and severity, correctable status and mask. -/
  aerStatus : W32
  aerMask : W32
  aerSev : W32
  corrStatus : W32
  corrMask : W32
  /-- The status bit that First Error Pointer names, while it is valid, and the header log. -/
  aerFirst : Option Nat
  aerHeader : List Byte
  /-- The registers of the link and of its capabilities, by offset, where they differ from their reset values. -/
  link : Tab W32
  deriving DecidableEq, Repr

/-- The reset values of the base specification (notes/assumptions/36.md). -/
def CfgSpace.reset : CfgSpace :=
  { memEn := false, cacheLine := 0, intLine := 0, bars := [], extTag := true, noSnoop := true, urRep := false, errSta := 0, devSta := 0, aspm := 0,
    ctValue := 0, tag10 := false, aerStatus := 0, aerMask := 0x400000, aerSev := 0x462030, corrStatus := 0,
    corrMask := 0xE000, aerFirst := none, aerHeader := [], link := [] }

/-- A host port (R390 to R400). -/
structure HostPort where
  perst : Bool
  linkUp : Bool
  d3hot : Bool
  bme : Bool
  /-- Device Control: Enable Relaxed Ordering, Max_Payload_Size and Max_Read_Request_Size in bytes (R396). -/
  ro : Bool
  mps : Nat
  mrrs : Nat
  /-- Device Control 2: Completion Timeout Disable (R395). -/
  ctDisable : Bool
  l1 : Bool
  bar4Base : BitVec 41
  dbDrop : Nat
  bar4Refused : Nat
  space : CfgSpace
  ns : Tab Chan
  sec : Tab Chan
  secBuf : List Byte
  secKind : Nat
  deriving DecidableEq, Repr

def HostPort.reset : HostPort :=
  { perst := true, linkUp := false, d3hot := false, bme := false, ro := true, mps := 128, mrrs := 512, ctDisable := false,
    l1 := false, bar4Base := 0, dbDrop := 0, bar4Refused := 0, space := CfgSpace.reset, ns := [], sec := [], secBuf := [],
    secKind := 0 }

/-- A long-running mailbox operation: its channel and request (R414), and the GEN_TIME at which it started. -/
structure MbOp where
  port : Nat
  ch : Nat
  tag : Nat
  bytes : List Byte
  at_ : Nat
  deriving DecidableEq, Repr

/-- A running firmware update: its channel, source and length (R433). -/
structure FwOp where
  port : Nat
  ch : Nat
  tag : Nat
  addr : W64
  len : Nat
  /-- The running slot is being written, the other one being done. -/
  second : Bool
  /-- The fetch of the present slot has been started over the port (R394). -/
  sent : Bool
  deriving DecidableEq, Repr

/-- A change of the repair map: a retired or failed slot of a course, or a marked layer of a pier (R426). -/
inductive RepairChange where
  | slot (c k : Nat)
  | layer (p l : Nat)
  deriving DecidableEq, Repr

/-- Flash, replay-protected block, identity, licence and keys (R419 to R438). -/
structure Sec where
  /-- The firmware slots at 0x000_0000 and 0x100_0000 of flash, from their first byte (R420). -/
  slotA : List Byte
  slotB : List Byte
  /-- The record area at 0x200_0000: the record at each place of 4 KiB (R420, R421). -/
  records : Tab (List Byte)
  /-- The replay-protected block: its write counter, the key that its device holds, and C, LIC_GEN and KEY_GEN (R423). -/
  rpmbCtr : Nat
  rpmbKey : List Byte
  arb : BitVec 32
  licGen : BitVec 64
  keyGen : BitVec 64
  /-- The Efsatin public keys of the boot ROM and its measurement (R419, R436). -/
  efDev : List Byte
  efLic : List Byte
  efFw : List Byte
  mRom : List Byte
  /-- Derived at BU2: the identity seed, public key and fingerprint (R424). -/
  seed : Option (List Byte)
  pub : List Byte
  fp : List Byte
  cert : List Byte
  /-- The key of the replay-protected block that mason-S holds (R423, R425). -/
  block : Option (List Byte)
  /-- The identity of the last BU2 gives the key that the flash device holds, so that mason-S, which has erased it, can derive it
  again for a write (the model's own field, notes/assumptions/12.md). -/
  derives : Bool
  licence : Option (List Byte)
  bondKeys : Tab (List Byte)
  hostKeys : Tab (List Byte)
  runSlot : Nat
  mFw : List Byte
  updating : Option FwOp
  installing : Option MbOp
  committing : Option MbOp
  attesting : List MbOp
  echoes : List MbOp
  /-- Last channel each core served: mason-G, mason-S (R414). -/
  lastG : Nat
  lastS : Nat
  /-- The repair map as the records stand: failed slots by course, marked layers by pier; and its changes that are to be
  written, in arrival order (R426). -/
  repairSlots : Tab (BitVec 34)
  repairLayers : Tab Nat
  repairs : List RepairChange
  deriving DecidableEq, Repr

def Sec.reset : Sec :=
  { slotA := [], slotB := [], records := [], rpmbCtr := 0, rpmbKey := [], arb := 0, licGen := 0, keyGen := 0, efDev := [], efLic := [], efFw := [],
    mRom := [], seed := none, pub := [], fp := [], cert := [], block := none, derives := false, licence := none, bondKeys := [], hostKeys := [],
    runSlot := 0, mFw := [], updating := none, installing := none, committing := none, attesting := [], echoes := [],
    lastG := 23, lastS := 7, repairSlots := [], repairLayers := [], repairs := [] }

/-- The GEN registers and the facts of manufacture (R418). -/
structure Gen where
  part : Nat
  serial : W64
  silicon : BitVec 8
  fw : W32
  capPiers : BitVec 32
  capPorts : BitVec 10
  capCourses : BitVec 64
  capLic : BitVec 6
  time : Nat
  feedId : BitVec 4
  frzN : Bool
  deriving DecidableEq, Repr

def Gen.reset : Gen :=
  { part := 0, serial := 1, silicon := 1, fw := 0, capPiers := 0, capPorts := 0, capCourses := 0, capLic := 0, time := 0,
    feedId := 0xF, frzN := true }

/-! ## Casts -/

/-- A cast send in progress (R341, R342). -/
structure CastSend where
  /-- The number of the cast, by which acknowledgements are told apart. -/
  n : Nat
  die : Nat
  sched : List Byte
  /-- The generation header with STATE 1, COMP_SEQ and ROOT zero. -/
  header : List Byte
  /-- Chunk digests by chunk number; chunk 0 is the schedule block. -/
  digests : Tab (List Byte)
  /-- CAST_BEGIN has been acknowledged; the head and CAST_END have gone out. -/
  begun : Bool
  headSent : Bool
  deriving DecidableEq, Repr

/-- A restore in progress at the requester (R347 to R350). -/
structure Restoring where
  n : Nat
  attempt : Nat
  /-- CKP_RESTORE_FROM and CKP_GEN_TAG as the command found them: the holder that is asked, and the tag asked for (R347). -/
  holder : Nat
  tag : W64
  /-- The half that the first attempt is served from, which the manual does not tell the requester: free. -/
  half : Bool
  die : Nat
  meta_ : Tab Byte
  /-- The whole meta image has arrived and passed its checks. -/
  metaOk : Bool
  /-- Data chunks that are written whole, and chunks whose digest has been checked. -/
  written : List Nat
  checked : List Nat
  /-- RESTORE_END has arrived. -/
  ended : Bool
  /-- The rest of a failed attempt's stream is passed over. -/
  skip : Bool
  deriving DecidableEq, Repr

/-- The CKP block, the cast unit and the holder (R329 to R356). -/
structure Ckp where
  st : Nat
  code : BitVec 8
  fallback : Bool
  genTag : W64
  restoreFrom : BitVec 17
  done : Nat
  total : Nat
  resultTag : W64
  sent : Nat
  restored : Nat
  fallbacks : Nat
  /-- Casts and restores started (the model's own field). -/
  started : Nat
  sending : Option CastSend
  restoring : Option Restoring
  /-- The half that a cast is being received into (R344). -/
  receiving : Option Nat
  /-- Holder's completion count, and the half it served last (R345, R348). -/
  completions : Nat
  servedHalf : Option Nat
  /-- Restore streams whose RESTORE_END has not been acknowledged. -/
  streams : Nat
  hold0 : Nat
  hold1 : Nat
  newer : Bool
  tag0 : W64
  tag1 : W64
  deriving DecidableEq, Repr

def Ckp.reset : Ckp :=
  { st := 0, code := 0, fallback := false, genTag := 0, restoreFrom := 0, done := 0, total := 0, resultTag := 0, sent := 0,
    restored := 0, fallbacks := 0, started := 0, sending := none, restoring := none, receiving := none, completions := 0,
    servedHalf := none, streams := 0, hold0 := 0, hold1 := 0, newer := false, tag0 := 0, tag1 := 0 }

/-! ## Freeze, debug, JTAG, management bus -/

/-- Host ports, BOND block, identity block, torus ports and bring-up as they stood at a freeze, for BAR0 reads (R374). -/
structure HeldRegs where
  hosts : Tab HostPort
  bond : Bond
  sec : Sec
  ports : Tab Port
  bu : Bu
  doms : Tab Dom
  mcs : Tab Mc
  deriving DecidableEq, Repr

/-- The FRZ block (R371 to R375). -/
structure Frz where
  frozen : Bool
  pin : Bool
  host : Bool
  wave : Bool
  port : Nat
  /-- A trigger is latched and the clocks are stopping, and the GEN_TIME of that trigger. -/
  latched : Bool
  latchedAt : Nat
  goPending : Bool
  /-- The module was frozen when GO was written (R375). -/
  goOk : Bool
  doneBit : Bool
  err : Nat
  space : BitVec 2
  addr : W64
  data : List Byte
  held : Option HeldRegs
  deriving DecidableEq, Repr

def Frz.reset : Frz :=
  { frozen := false, pin := false, host := false, wave := false, port := 0, latched := false, latchedAt := 0,
    goPending := false, goOk := false,
    doneBit := false, err := 0, space := 0, addr := 0, data := [], held := none }

/-- Codes of the JTAG instruction register: DBG_REQ and DBG_DATA by R376, BYPASS all ones, as IEEE 1149.1 has it (PRESUMED,
notes/assumptions/14.md). -/
def irDbgReq : BitVec 8 := 0x40
def irDbgData : BitVec 8 := 0x41
def irBypass : BitVec 8 := 0xFF

/-- The JTAG port (R376): the 8-bit instruction register, and the boundary register of the sideband pins and whether it drives
them. -/
structure Jtag where
  ir : BitVec 8
  boundary : BitVec 16
  drive : Bool
  deriving DecidableEq, Repr

def Jtag.reset : Jtag := { ir := irBypass, boundary := 0, drive := false }

/-- What the module gives to the outside, oldest first (the model's own record). -/
inductive Out where
  /-- A packet leaves on a torus port. -/
  | packet (port : Nat) (p : Packet)
  /-- The trailer, with DISCARD set, of a packet that left before it was found bad. -/
  | trailer (port : Nat) (p : Packet)
  | credit (port : Nat) (counts : List (BitVec 16)) (ack : BitVec 10)
  | nak (port : Nat) (seq : BitVec 10)
  | replay (port : Nat) (from_ : BitVec 10)
  | hello (port : Nat) (h : Hello)
  | idle (port : Nat) (hb : W32) (freeze frozen : Bool)
  /-- A read or a posted write that the module issues on a host port. -/
  | hostRead (h : Nat) (addr : W64) (len : Nat)
  | hostWrite (h : Nat) (addr : W64) (bytes : List Byte) (ro : Bool)
  /-- The completion of a BAR0 read. -/
  | regRead (r : Requester) (a : Nat) (v : W64)
  /-- The completion of a BAR4 read: none is Completer Abort. -/
  | bar4 (port : Nat) (bytes : Option (List Byte))
  /-- The answer of the management bus: none is NACK. -/
  | smb (v : Option W32)
  | jtag (bytes : List Byte)
  deriving DecidableEq, Repr

/-- A write-one-to-clear bit, by register, unit and bit (R15). -/
inductive Sticky where
  | engNumstat (e i : Nat)
  | engFaultValid (e : Nat)
  | engFaultOver (e : Nat)
  | ctxNumstat (n i : Nat)
  | dbErr (n : Nat)
  | collFail (p : Nat)
  | oflErr (p w : Nat)
  | ckpLoss
  | capUnmet
  deriving DecidableEq, Repr

/-- The module. -/
structure State where
  /-- Waiting commands, first in, first out. -/
  pending : List Instr
  /-- How many free values the run has used (the model's own field). -/
  freeCtr : Nat
  /-- The issue order of the next copy (the model's own field). -/
  nextCopy : Nat
  /-- What the module has given to the outside (the model's own field). -/
  out : List Out
  gen : Gen
  pwr : Pwr
  doms : Tab Dom
  bu : Bu
  bond : Bond
  cfg : Cfg
  engines : Tab Engine
  courses : Tab Course
  parts : Tab Part
  ctxs : Tab Ctx
  mslots : Tab MSlot
  keys : Tab KeyLine
  /-- Window w of partition p at 8 × p + w. -/
  ofls : Tab Ofl
  rte : Rte
  ports : Tab Port
  hbCount : W32
  piers : Tab Pier
  mcs : Tab Mc
  /-- Local store of engine e at 2^19 × e + offset. -/
  ls : List Host.Cell
  /-- Course store of course c at 2^22 × c + offset. -/
  cs : List Host.Cell
  /-- Pier p at 2^36 × p + pier-local address. -/
  mem : List Host.Cell
  ckp : Ckp
  frz : Frz
  jtag : Jtag
  sec : Sec
  hosts : Tab HostPort
  /-- Half latches (R12): HP0, HP1, management bus at 0, 1, 2: address of the low half, and the high half. -/
  latches : Tab (Nat × W32)
  smbPtr : W32
  /-- The write-one-to-clear bits that the hardware has set in the present cycle: a write of that cycle does not clear them
  (R15). -/
  setNow : List Sticky
  /-- The mailbox channels cleared in the present cycle, as (host port, secure, channel): a GO written in that cycle is lost
  (R410). -/
  clearedNow : List (Nat × Bool × Nat)
  deriving DecidableEq, Repr

/-- The module before its input power is applied: every register at its reset value, every store empty. -/
def State.reset : State :=
  { pending := [], freeCtr := 0, nextCopy := 0, out := [], gen := Gen.reset, pwr := Pwr.reset, doms := [], bu := Bu.reset,
    bond := Bond.reset, cfg := Cfg.reset, engines := [], courses := [], parts := [], ctxs := [], mslots := [],
    keys := [], ofls := [], rte := Rte.reset, ports := [], hbCount := 0, piers := [], mcs := [], ls := [], cs := [],
    mem := [], ckp := Ckp.reset, frz := Frz.reset, jtag := Jtag.reset, sec := Sec.reset, hosts := [], latches := [],
    smbPtr := 0, setNow := [], clearedNow := [] }

end Sys2Proof.Machine
end

