-- ==== Sys2Proof/Machine/Table.lean ====
section
/-!
DEFINITION. Sparse tables and byte memories in their one canonical form: keys strictly rising, no entry equal to what
an unlisted key reads as. An unlisted byte of a store reads as zero (DESIGN CHOICE, notes/assumptions/2.md).
-/
namespace Sys2Proof.Machine

/-! ## Tables -/

/-- The entry listed at a key. -/
def Tab.find? {α : Type} : Tab α → Nat → Option α
  | [], _ => none
  | (k, v) :: t, x => if k = x then some v else Tab.find? t x

/-- What key `x` reads as, when unlisted keys read as `d`. -/
def Tab.get {α : Type} (d : α) (t : Tab α) (x : Nat) : α := (Tab.find? t x).getD d

/-- The entries below key `x`. -/
def Tab.below {α : Type} (t : Tab α) (x : Nat) : Tab α := t.filter fun e => e.1 < x

/-- The entries at or above key `x`. -/
def Tab.from {α : Type} (t : Tab α) (x : Nat) : Tab α := t.filter fun e => x ≤ e.1

/-- Remove a key. -/
def Tab.erase {α : Type} (t : Tab α) (x : Nat) : Tab α := Tab.below t x ++ Tab.from t (x + 1)

/-- List a key with a value, whatever unlisted keys read as. -/
def Tab.set {α : Type} (t : Tab α) (x : Nat) (v : α) : Tab α := Tab.below t x ++ (x, v) :: Tab.from t (x + 1)

/-- Make key `x` read as `v`, when unlisted keys read as `d`. -/
def Tab.put {α : Type} [DecidableEq α] (d : α) (t : Tab α) (x : Nat) (v : α) : Tab α :=
  if v = d then Tab.erase t x else Tab.set t x v

/-- Keys strictly rising. -/
def Tab.sorted {α : Type} : Tab α → Bool
  | [] => true
  | [_] => true
  | a :: b :: t => a.1 < b.1 && Tab.sorted (b :: t)

/-- The canonical form of a table whose unlisted keys read as `d`. -/
def Tab.wf {α : Type} [DecidableEq α] (d : α) (t : Tab α) : Bool := Tab.sorted t && t.all fun e => e.2 ≠ d

/-! ## Byte memories -/

/-- The byte at an address. -/
def Mem.get (m : List Host.Cell) (a : Nat) : Byte := Tab.get 0 m a

/-- The bytes at `a`, `a + 1`, … of a list of cells at or above `a`, unlisted ones zero. -/
def Mem.expand : Nat → Nat → List Host.Cell → List Byte
  | 0, _, _ => []
  | n + 1, a, [] => 0 :: Mem.expand n (a + 1) []
  | n + 1, a, (k, b) :: t => if k = a then b :: Mem.expand n (a + 1) t else 0 :: Mem.expand n (a + 1) ((k, b) :: t)

/-- The `n` bytes from address `a`. -/
def Mem.read (m : List Host.Cell) (a n : Nat) : List Byte := Mem.expand n a (Tab.from m a)

/-- The nonzero bytes of a list laid out from address `a`. -/
def Mem.cells : Nat → List Byte → List Host.Cell
  | _, [] => []
  | a, b :: t => if b = 0 then Mem.cells (a + 1) t else (a, b) :: Mem.cells (a + 1) t

/-- Store bytes from address `a` on. -/
def Mem.write (m : List Host.Cell) (a : Nat) (bs : List Byte) : List Host.Cell :=
  Tab.below m a ++ Mem.cells a bs ++ Tab.from m (a + bs.length)

/-- Make `n` bytes from `a` zero. -/
def Mem.zero (m : List Host.Cell) (a n : Nat) : List Host.Cell := Tab.below m a ++ Tab.from m (a + n)

/-- The canonical form of a store. -/
def Memory.wf (m : List Host.Cell) : Bool := Tab.wf (0 : Byte) m

/-! ## Little-endian numbers (R11) -/

/-- The number that bytes spell, the first byte lowest. -/
def leNat : List Byte → Nat
  | [] => 0
  | b :: t => b.toNat + 256 * leNat t

/-- The `n` low bytes of a number, the lowest first. -/
def leBytes : Nat → Nat → List Byte
  | 0, _ => []
  | n + 1, v => BitVec.ofNat 8 v :: leBytes n (v / 256)

/-- Bytes `off` to `off + n − 1` of a record, as a number. -/
def fieldAt (bs : List Byte) (off n : Nat) : Nat := leNat ((bs.drop off).take n)

/-- Bits [hi:lo] of a number. -/
def bits (v hi lo : Nat) : Nat := v / 2 ^ lo % 2 ^ (hi + 1 - lo)

/-- Bit `i` of a number. -/
def bit (v i : Nat) : Bool := v / 2 ^ i % 2 == 1

/-- The first element that a test picks is changed. -/
def changeFirst {α : Type} (p : α → Bool) (f : α → α) : List α → List α
  | [] => []
  | x :: l => if p x then f x :: l else x :: changeFirst p f l

/-- The element that a test picks after `k` others that it picks is taken out. -/
def dropNth {α : Type} (p : α → Bool) : Nat → List α → List α
  | _, [] => []
  | k, x :: l => if p x then (match k with | 0 => l | k + 1 => x :: dropNth p k l) else x :: dropNth p k l

/-- A Bool as a bit. -/
def b2n (b : Bool) : Nat := if b then 1 else 0

/-- A number of `w` bits read as two's complement. -/
def sint (w v : Nat) : Int := let r := v % 2 ^ w; if r < 2 ^ (w - 1) then (r : Int) else (r : Int) - (2 ^ w : Nat)

/-- An integer as `w` bits of two's complement. -/
def wrap (w : Nat) (v : Int) : Nat := (v % ((2 ^ w : Nat) : Int)).toNat

/-- Split a list into blocks of `n`. -/
def chunksAux {α : Type} (n : Nat) : Nat → List α → List (List α)
  | 0, _ => []
  | f + 1, l => if l.isEmpty then [] else l.take n :: chunksAux n f (l.drop n)

def chunks {α : Type} (n : Nat) (l : List α) : List (List α) := chunksAux n l.length l

end Sys2Proof.Machine
end

