-- ==== Sys2Proof/Machine/Float.lean ====
section
/-!
DEFINITION. IEEE 754 binary32 arithmetic as R91 and R166 use it: every operation is computed exactly on integers and
rounded once, to nearest-even. NaN results are the canonical 0x7FC0_0000.
-/
namespace Sys2Proof.Machine

/-- A value: (−1)^neg × m × 2^q, an infinity, or NaN. A zero (m = 0) keeps its sign. -/
inductive FV where
  | nan
  | inf (neg : Bool)
  | fin (neg : Bool) (m : Nat) (q : Int)
  deriving DecidableEq, Repr

/-- 2^k for a possibly negative exponent, 1 when negative. -/
def pow2 (k : Int) : Nat := 2 ^ k.toNat

/-- The signed integer (−1)^neg × m. -/
def signed (neg : Bool) (m : Nat) : Int := if neg then -(m : Int) else (m : Int)

/-- Round m ÷ 2^d to an integer, to nearest-even. -/
def rneShift (m d : Nat) : Nat :=
  let lo := m / 2 ^ d
  let rem := m % 2 ^ d
  if 2 * rem > 2 ^ d || (2 * rem == 2 ^ d && lo % 2 == 1) then lo + 1 else lo

/-- Nearest-even rounding of m × 2^q onto the grid of a format with `w` mantissa bits and least normal exponent
`emin` (R142): the rounded significand and the exponent of its step. -/
def rneGrid (w : Nat) (emin : Int) (m : Nat) (q : Int) : Nat × Int :=
  if m = 0 then (0, emin - w) else
  let st := max ((Nat.log2 m : Int) + q) emin - w
  if st ≤ q then (m * pow2 (q - st), st) else (rneShift m (st - q).toNat, st)

/-- Binary floating formats: mantissa bits, bias, exponent bits (table of element formats). -/
structure FloatFmt where
  w : Nat
  b : Nat
  eb : Nat
  deriving DecidableEq, Repr

def fp32Fmt : FloatFmt := { w := 23, b := 127, eb := 8 }

/-- The exponent of the least normal value. -/
def FloatFmt.emin (f : FloatFmt) : Int := 1 - f.b

/-- Fields S, E, M of a value (−1)^neg × lo × 2^st that lies on the format's grid, below 2^(w+1) steps of its
binade and not above the format's finite range (R121). -/
def FloatFmt.pack (f : FloatFmt) (neg : Bool) (lo : Nat) (st : Int) : Nat :=
  let s := b2n neg * 2 ^ (f.w + f.eb)
  if lo = 0 then s else
  let p := (Nat.log2 lo : Int) + st
  if p < f.emin then s + lo * pow2 (st - (f.emin - f.w))
  else
    let mant := if st ≤ p - f.w then lo / pow2 (p - f.w - st) else lo * pow2 (st - (p - f.w))
    s + (p + f.b).toNat * 2 ^ f.w + (mant - 2 ^ f.w)

/-- Sign, significand and exponent of a finite pattern: the value is (−1)^S × M × 2^e (R121). -/
def FloatFmt.fields (f : FloatFmt) (v : Nat) : Bool × Nat × Int :=
  let mf := v % 2 ^ f.w
  let ef := v / 2 ^ f.w % 2 ^ f.eb
  let neg := bit v (f.w + f.eb)
  if ef = 0 then (neg, mf, 1 - (f.b : Int) - f.w) else (neg, 2 ^ f.w + mf, (ef : Int) - f.b - f.w)

def qnan32 : W32 := 0x7FC00000
def inf32 (neg : Bool) : W32 := if neg then 0xFF800000 else 0x7F800000
def maxf32 (neg : Bool) : W32 := if neg then 0xFF7FFFFF else 0x7F7FFFFF
def zero32 (neg : Bool) : W32 := if neg then 0x80000000 else 0

/-- The value of an FP32 pattern. -/
def dec32 (x : W32) : FV :=
  let v := x.toNat
  if v / 2 ^ 23 % 256 = 255 then (if v % 2 ^ 23 = 0 then .inf (bit v 31) else .nan)
  else let (s, m, q) := fp32Fmt.fields v; .fin s m q

/-- fl(·): (−1)^neg × m × 2^q rounded once to FP32, overflowing to infinity (R91). -/
def round32 (neg : Bool) (m : Nat) (q : Int) : W32 :=
  let (lo, st) := rneGrid 23 (-126) m q
  if lo ≠ 0 ∧ (Nat.log2 lo : Int) + st ≥ 128 then inf32 neg
  else BitVec.ofNat 32 (fp32Fmt.pack neg lo st)

def enc32 : FV → W32
  | .nan => qnan32
  | .inf n => inf32 n
  | .fin n m q => round32 n m q

/-- The exact sum of two finite values; a zero sum is −0 only for −0 + −0. -/
def addFin (na : Bool) (ma : Nat) (qa : Int) (nb : Bool) (mb : Nat) (qb : Int) : FV :=
  let q := min qa qb
  let v := signed na (ma * pow2 (qa - q)) + signed nb (mb * pow2 (qb - q))
  if v = 0 then .fin (ma = 0 && mb = 0 && na && nb) 0 q else .fin (v < 0) v.natAbs q

def FV.neg : FV → FV
  | .nan => .nan
  | .inf n => .inf (!n)
  | .fin n m q => .fin (!n) m q

/-- Exact addition. -/
def FV.add : FV → FV → FV
  | .nan, _ => .nan
  | _, .nan => .nan
  | .inf a, .inf b => if a = b then .inf a else .nan
  | .inf a, .fin _ _ _ => .inf a
  | .fin _ _ _, .inf b => .inf b
  | .fin na ma qa, .fin nb mb qb => addFin na ma qa nb mb qb

/-- Exact multiplication. -/
def FV.mul : FV → FV → FV
  | .nan, _ => .nan
  | _, .nan => .nan
  | .inf a, .inf b => .inf (a != b)
  | .inf a, .fin n m _ => if m = 0 then .nan else .inf (a != n)
  | .fin n m _, .inf b => if m = 0 then .nan else .inf (n != b)
  | .fin na ma qa, .fin nb mb qb => .fin (na != nb) (ma * mb) (qa + qb)

def fadd (a b : W32) : W32 := enc32 ((dec32 a).add (dec32 b))
def fsub (a b : W32) : W32 := enc32 ((dec32 a).add (dec32 b).neg)
def fmul (a b : W32) : W32 := enc32 ((dec32 a).mul (dec32 b))
/-- a × b + c, rounded once. -/
def ffma (a b c : W32) : W32 := enc32 (((dec32 a).mul (dec32 b)).add (dec32 c))

/-- A quotient of two finite nonzero magnitudes: 66 bits or more of it, the last one sticky. -/
def divMag (ma mb : Nat) : Nat × Int :=
  let k := 66 + Nat.log2 mb
  let n := ma * 2 ^ k
  (2 * (n / mb) + b2n (n % mb ≠ 0), -(k : Int) - 1)

/-- a ÷ b, rounded once. -/
def fdiv (a b : W32) : W32 :=
  match dec32 a, dec32 b with
  | .nan, _ => qnan32
  | _, .nan => qnan32
  | .inf _, .inf _ => qnan32
  | .inf n, .fin nb _ _ => inf32 (n != nb)
  | .fin na _ _, .inf nb => zero32 (na != nb)
  | .fin na ma qa, .fin nb mb qb =>
    if mb = 0 then (if ma = 0 then qnan32 else inf32 (na != nb))
    else let (m, q) := divMag ma mb; round32 (na != nb) m (q + qa - qb)

/-- The integer square root of `n`, below 2^k. -/
def isqrtAux (n : Nat) : Nat → Nat → Nat
  | 0, r => r
  | k + 1, r => let r' := r + 2 ^ k; isqrtAux n k (if r' * r' ≤ n then r' else r)

/-- 1 ÷ √a, rounded once; ±0 gives ±∞ (IEEE 754 rSqrt). -/
def frsqrt (a : W32) : W32 :=
  match dec32 a with
  | .nan => qnan32
  | .inf n => if n then qnan32 else 0
  | .fin n m q =>
    if m = 0 then inf32 n
    else if n then qnan32
    else
      let (m, q) := if q % 2 = 0 then (m, q) else (2 * m, q - 1)
      let k := 64 + Nat.log2 m
      let r := isqrtAux (2 ^ (2 * k) / m) (k + 2) 0
      round32 false (2 * r + b2n (r * r * m ≠ 2 ^ (2 * k))) (-(k : Int) - q / 2 - 1)

def frcp (a : W32) : W32 := fdiv 0x3F800000 a

/-- Fixed-point places of VEXP2 and VLOG2: every result that is not exact is irrational, and its place on the line is
computed far below half a unit of FP32 (notes/assumptions/8.md). -/
def fxBits : Nat := 256

/-- Σ over k ≥ i of t^(2k+1) ÷ (2k+1), fixed point: `p` is t^(2i+1), `t2` is t². -/
def atanhAux (t2 : Nat) : Nat → Nat → Nat → Nat
  | 0, _, _ => 0
  | n + 1, i, p => p / (2 * i + 1) + atanhAux t2 n (i + 1) (p * t2 / 2 ^ fxBits)

/-- ln of m ÷ d for d ≤ m ≤ 2d, fixed point, as 2 atanh((m − d) ÷ (m + d)). -/
def lnFx (m d : Nat) : Nat :=
  let t := (m - d) * 2 ^ fxBits / (m + d)
  2 * atanhAux (t * t / 2 ^ fxBits) 100 0 t

def ln2Fx : Nat := lnFx 2 1

/-- Σ over k ≥ i of y^k ÷ k!, fixed point: `p` is y^i ÷ i!. -/
def expAux (y : Nat) : Nat → Nat → Nat → Nat
  | 0, _, _ => 0
  | n + 1, i, p => p + expAux y n (i + 1) (p * y / 2 ^ fxBits / (i + 1))

/-- 2^x, rounded once. -/
def fexp2 (a : W32) : W32 :=
  match dec32 a with
  | .nan => qnan32
  | .inf n => if n then 0 else inf32 false
  | .fin n m q =>
    if m = 0 then 0x3F800000
    else if (Nat.log2 m : Int) + q ≥ 8 then (if n then 0 else inf32 false)
    else
      -- x × 2^160 as an integer: FP32 values are multiples of 2^−149
      let x := signed n (m * pow2 (q + 160))
      let i := x / 2 ^ 160
      let f := (x % 2 ^ 160).toNat
      if f = 0 then round32 false 1 i
      else
        let y := f * ln2Fx / 2 ^ 160
        round32 false (2 * expAux y 80 0 (2 ^ fxBits) + 1) (i - fxBits - 1)

/-- log2 x, rounded once. -/
def flog2 (a : W32) : W32 :=
  match dec32 a with
  | .nan => qnan32
  | .inf n => if n then qnan32 else inf32 false
  | .fin n m q =>
    if m = 0 then inf32 true
    else if n then qnan32
    else
      let k := Nat.log2 m
      let e := (k : Int) + q
      if m = 2 ^ k then round32 (e < 0) e.natAbs 0
      else
        let l := lnFx m (2 ^ k) * 2 ^ fxBits / ln2Fx
        let v := e * 2 ^ fxBits + l
        round32 (v < 0) (2 * (if v < 0 then v.natAbs - 1 else v.natAbs) + 1) (-(fxBits : Int) - 1)

/-- The order of finite and infinite values, −0 below +0 (VMAX, VMIN). -/
def ordKey (x : W32) : Int := if x.msb then -((x.toNat % 2 ^ 31 : Nat) : Int) - 1 else (x.toNat : Int)

def isNan32 (x : W32) : Bool := dec32 x = .nan

def fmax (a b : W32) : W32 := if isNan32 a || isNan32 b then qnan32 else if ordKey a < ordKey b then b else a
def fmin (a b : W32) : W32 := if isNan32 a || isNan32 b then qnan32 else if ordKey b < ordKey a then b else a

/-- The comparisons of VCMP: −0 equals +0. -/
def fcmp (sel : Nat) (a b : W32) : Bool :=
  let un := isNan32 a || isNan32 b
  let k (x : W32) : Int := if x.toNat % 2 ^ 31 = 0 then 0 else ordKey x
  match sel with
  | 0 => !un && k a == k b
  | 1 => !un && decide (k a < k b)
  | 2 => !un && decide (k a ≤ k b)
  | _ => un

/-- FP32 to INT32, nearest-even, saturating, NaN giving 0. -/
def fToInt (a : W32) : W32 :=
  match dec32 a with
  | .nan => 0
  | .inf n => if n then 0x80000000 else 0x7FFFFFFF
  | .fin n m q =>
    let r := if q ≥ 0 then m * pow2 q else rneShift m (-q).toNat
    if n then BitVec.ofInt 32 (-((min r (2 ^ 31) : Nat) : Int)) else BitVec.ofNat 32 (min r (2 ^ 31 - 1))

/-- INT32 to FP32, nearest-even. -/
def intToF (a : W32) : W32 := round32 (a.toInt < 0) a.toInt.natAbs 0

/-! ## Compensated updates of the vector reductions (R166 to R171) -/

/-- two_sum of R166. -/
def vTwoSum (a b : W32) : W32 × W32 :=
  let x := (dec32 a).add (dec32 b)
  let s := enc32 x
  match dec32 s with
  | .fin n m q => let t := enc32 (x.add (FV.fin n m q).neg); (s, if t.toNat % 2 ^ 31 = 0 then 0 else t)
  | _ => (s, 0)

/-- The compensated update of a pair (R166). -/
def vUpdate (p : W32 × W32) (x : W32) : W32 × W32 :=
  let (s, t) := vTwoSum p.1 x
  vTwoSum s (fadd t p.2)

/-- The two parts of a square (R167). -/
def vSquare (v : W32) : W32 × W32 :=
  let p := fmul v v
  match dec32 p with
  | .fin n m q => (p, enc32 (((dec32 v).mul (dec32 v)).add (FV.fin n m q).neg))
  | _ => (p, 0)

/-- The update of a pair with the square of a value (R167). -/
def vUpdateSq (p : W32 × W32) (v : W32) : W32 × W32 :=
  let (a, r) := vSquare v
  vUpdate (vUpdate p a) r

/-- A Welford state: count, mean, M2, compensation. -/
structure Welford where
  n : W32
  m : W32
  m2 : W32
  c : W32
  deriving DecidableEq, Repr

/-- One compensated Welford update (R170). -/
def welford (w : Welford) (x : W32) : Welford :=
  let n := fadd w.n 0x3F800000
  let d := fsub (fsub x w.m) w.c
  let (m1, r) := vTwoSum w.m (fdiv d n)
  let (m, c) := vTwoSum m1 (fadd w.c r)
  let e := fsub (fsub x m) c
  { n := n, m := m, m2 := ffma d e w.m2, c := c }

def isZero32 (x : W32) : Bool := x.toNat % 2 ^ 31 == 0

/-- Chan's merge of `b` into `d` (R171). -/
def chan (d b : Welford) : Welford :=
  if isZero32 b.n then d
  else if isZero32 d.n then b
  else
    let n := fadd d.n b.n
    let delta := fadd (fsub b.m d.m) (fsub b.c d.c)
    let (m1, r) := vTwoSum d.m (fmul delta (fdiv b.n n))
    let (m, c) := vTwoSum m1 (fadd d.c r)
    let w := fdiv (fmul d.n b.n) n
    { n := n, m := m, m2 := ffma (fmul delta delta) w (fadd d.m2 b.m2), c := c }

end Sys2Proof.Machine
end

