-- ==== Sys2Proof/Machine/Formats.lean ====
section
/-!
DEFINITION. Stored elements, block scales, decode and encode (spec/03_number_formats.md).
-/
namespace Sys2Proof.Machine

/-! ## Formats (R79, R121 to R125) -/

/-- Stored bits per element; 0 for a reserved code. -/
def fmtBits : Nat → Nat
  | 0 => 4 | 1 => 6 | 2 => 6 | 3 => 8 | 4 => 8 | 5 => 8 | 6 => 4 | 7 => 16 | 8 => 16 | 9 => 32 | _ => 0

/-- The integer formats INT8 and INT4. -/
def fmtIsInt (fmt : Nat) : Bool := fmt == 5 || fmt == 6

/-- The fields of a floating format (table of element formats). -/
def fmtFloat : Nat → FloatFmt
  | 0 => { w := 1, b := 1, eb := 2 }
  | 1 => { w := 3, b := 1, eb := 2 }
  | 2 => { w := 2, b := 3, eb := 3 }
  | 3 => { w := 3, b := 7, eb := 4 }
  | 4 => { w := 2, b := 15, eb := 5 }
  | 7 => { w := 7, b := 127, eb := 8 }
  | 8 => { w := 10, b := 15, eb := 5 }
  | _ => fp32Fmt

/-- F, the largest finite positive value, as m × 2^q. -/
def fmtMax : Nat → Nat × Int
  | 0 => (3, 1) | 1 => (15, -1) | 2 => (7, 2) | 3 => (7, 6) | 4 => (7, 13) | 5 => (127, 0) | 6 => (7, 0)
  | 7 => (255, 120) | 8 => (2047, 5) | _ => (2 ^ 24 - 1, 104)

/-- Formats whose all-ones exponent holds infinity and NaN: FP8b, BF16, FP16, FP32 (R122). -/
def fmtHasInf (fmt : Nat) : Bool := fmt == 4 || fmt == 7 || fmt == 8 || fmt == 9

/-- Pieces of an element: 1, 2 or 4 (R134, R135). -/
def fmtPieces (fmt : Nat) : Nat := if fmt = 9 then 4 else if fmt = 7 ∨ fmt = 8 then 2 else 1

/-- The permitted combinations of FMT and SCALE (R79, R130). -/
def fmtScaleOk (fmt scale : Nat) : Bool :=
  fmt ≤ 9 && (scale == 0 || (scale == 1 && (fmt ≤ 4 || fmt == 6)) || (scale == 2 && fmt ≤ 6))

/-- The value an element's field holds (R121, R122). -/
def elemValue (fmt f : Nat) : FV :=
  if fmtIsInt fmt then
    let v := sint (fmtBits fmt) f
    .fin (v < 0) v.natAbs 0
  else
    let ff := fmtFloat fmt
    let e := f / 2 ^ ff.w % 2 ^ ff.eb
    let m := f % 2 ^ ff.w
    if fmt = 3 ∧ e = 15 ∧ m = 7 then .nan
    else if fmtHasInf fmt && e == 2 ^ ff.eb - 1 then (if m = 0 then .inf (bit f (ff.w + ff.eb)) else .nan)
    else let (s, m, q) := ff.fields f; .fin s m q

/-- A field that encodes a zero of either sign. -/
def zeroField (fmt f : Nat) : Bool := match elemValue fmt f with | .fin _ 0 _ => true | _ => false

/-- Elements packed into whole bytes together, and the bytes they take (R124). -/
def packGroup (bits : Nat) : Nat × Nat :=
  if bits = 1 then (8, 1) else if bits = 2 then (4, 1) else if bits = 4 then (2, 1) else if bits = 6 then (4, 3)
  else (1, bits / 8)

/-- The fields of a stored row, of `bits` bits each. -/
def unpackRow (bits : Nat) (bs : List Byte) : List Nat :=
  let (g, n) := packGroup bits
  (chunks n bs).flatMap fun c => let v := leNat c; (List.range g).map fun i => v / 2 ^ (bits * i) % 2 ^ bits

/-- The number that fields spell, the first lowest. -/
def spell (bits : Nat) : List Nat → Nat
  | [] => 0
  | f :: t => f % 2 ^ bits + 2 ^ bits * spell bits t

/-- The bytes of a stored row; unused high bits of the last byte are zero. -/
def packRow (bits : Nat) (fs : List Nat) : List Byte :=
  let (g, _) := packGroup bits
  (chunks g fs).flatMap fun c => leBytes ((bits * c.length + 7) / 8) (spell bits c)

/-- Bytes of a stored row of `n` elements. -/
def rowBytes (fmt n : Nat) : Nat := (fmtBits fmt * n + 7) / 8

/-! ## Scales (R126 to R131) -/

/-- A coarse scale: the exponent c of 2^c, none for any other value (R126). -/
def coarseExp (v : Nat) : Option Int :=
  let e : Nat := v / 2 ^ 23
  if v % 2 ^ 23 = 0 ∧ 1 ≤ e ∧ e ≤ 254 then some ((e : Int) - 127) else none

/-- Significand and exponent of a square-block scale code (R127). -/
def e4m3 (code : Nat) : Nat × Int :=
  let e := code / 8 % 16
  if e = 0 then (code % 8, -9) else (8 + code % 8, (e : Int) - 10)

/-- Significand and exponent of a fine scale. -/
def fineScale (shape code : Nat) : Nat × Int :=
  if shape = 1 then e4m3 code else if shape = 2 then (1, (code : Int) - 127) else (1, 0)

/-- The kinds of block (R131). -/
inductive BlockKind where
  | zero | nan | invalid | plain
  deriving DecidableEq, Repr

/-- The kind of a block from its scale byte and the fields it stores. -/
def blockKind (fmt shape code : Nat) (fs : List Nat) : BlockKind :=
  if shape = 0 then .plain
  else if shape = 1 ∧ code = 0 then .zero
  else if shape = 1 ∧ code = 0x7F then .nan
  else if shape = 1 ∧ code ≥ 0x80 then .invalid
  else if shape = 2 ∧ code = 0xFF then .nan
  else if fs.all (zeroField fmt) then .zero
  else .plain

/-- Entry `i` of a list of rows' parts. -/
def nth {α : Type} (l : List (List α)) (i : Nat) : List α := l.getD i []

/-- The blocks of a tile in the order of its scale bytes (R86); with SCALE 0, its rows. -/
def toBlocks {α : Type} (shape : Nat) (m : List (List α)) : List (List α) :=
  if shape = 1 then
    (chunks 4 m).flatMap fun g =>
      let cs := g.map (chunks 4)
      (List.range (nth m 0 |>.length) |>.filter (· % 4 = 0)).map fun c => cs.flatMap fun r => nth r (c / 4)
  else if shape = 2 then m.flatMap (chunks 32)
  else m

/-- The rows of a tile of row length `w` from its blocks. -/
def ofBlocks {α : Type} (shape w : Nat) (bs : List (List α)) : List (List α) :=
  if shape = 1 then
    (chunks (w / 4) bs).flatMap fun g => (List.range 4).map fun i => g.flatMap fun b => (b.drop (4 * i)).take 4
  else if shape = 2 then (chunks (w / 32) bs).map List.flatten
  else bs

/-- Scale bytes of a tile of `rows` stored rows of `w` elements. -/
def scaleBytes (shape rows w : Nat) : Nat :=
  if shape = 1 then rows / 4 * (w / 4) else if shape = 2 then rows * (w / 32) else 0

/-- Rows and columns exchanged. -/
def turn {α : Type} (w : Nat) (m : List (List α)) : List (List α) :=
  (List.range w).map fun k => m.filterMap fun r => r[k]?

/-! ## Decode (R132 to R138) -/

def Piece.zero : Piece := { tag := .finite, neg := false, q := -512, m := 0 }
def Piece.nan : Piece := { tag := .nan, neg := false, q := -512, m := 0 }
def Piece.inf (n : Bool) : Piece := { tag := .inf, neg := n, q := -512, m := 0 }

/-- A finite piece; a zero significand is a zero. -/
def Piece.fin (n : Bool) (m : Nat) (q : Int) : Piece :=
  if m = 0 then Piece.zero else { tag := .finite, neg := n, q := q, m := m }

/-- The exact value of an element under its scales (R138, R139). -/
def scaledValue (fmt shape code : Nat) (c : Int) (f : Nat) : FV :=
  match elemValue fmt f with
  | .fin n m q => let (ms, es) := fineScale shape code; .fin n (m * ms) (q + es + c)
  | v => v

/-- The pieces of an element of a block that is neither a zero block nor a NaN block (R133, R134). -/
def elemPieces (fmt shape code : Nat) (c : Int) (f : Nat) : List Piece :=
  let n := fmtPieces fmt
  match elemValue fmt f with
  | .nan => List.replicate n Piece.nan
  | .inf s => List.replicate n (Piece.inf s)
  | .fin s m q =>
    if n = 1 then let (ms, es) := fineScale shape code; [Piece.fin s (m * ms) (q + es + c)]
    else
      let w := (fmtFloat fmt).w
      let pad := m * 2 ^ (8 * n - w - 1)
      (List.range n).map fun j =>
        Piece.fin s (pad / 2 ^ (8 * n - 8 * j - 8) % 256) (q + w + 1 - 8 - 8 * (j : Int) + c)

/-- The operand-buffer elements of one block; an omitted position is `none` (R152, R182). -/
def decodeBlock (fmt shape code : Nat) (c : Int) (fs : List (Option Nat)) : List Elem :=
  let n := fmtPieces fmt
  let z := List.replicate n Piece.zero
  match blockKind fmt shape code (fs.filterMap id) with
  | .zero => fs.map fun _ => { pieces := z, zero := true }
  | .nan => fs.map fun f => match f with
    | none => { pieces := z, zero := true }
    | some _ => { pieces := List.replicate n Piece.nan, zero := false }
  | _ => fs.map fun f => match f with
    | none => { pieces := z, zero := true }
    | some f => { pieces := elemPieces fmt shape code c f, zero := false }

/-- The exact values of one block's elements, judged under R131. -/
def decodeValues (fmt shape code : Nat) (c : Int) (fs : List Nat) : List FV :=
  match blockKind fmt shape code fs with
  | .zero => fs.map fun _ => .fin false 0 0
  | .nan => fs.map fun _ => .nan
  | _ => fs.map (scaledValue fmt shape code c)

/-- One element decoded by VLDD, which judges a square block only by its scale byte (R138). -/
def vlddBlock (fmt shape code : Nat) (c : Int) (fs : List Nat) : List W32 :=
  if shape = 1 ∧ code = 0 then fs.map fun _ => 0
  else if shape = 1 ∧ code = 0x7F then fs.map fun _ => qnan32
  else if shape = 1 then fs.map fun f => enc32 (scaledValue fmt shape code c f)
  else (decodeValues fmt shape code c fs).map enc32

/-! ## Encode (R139 to R147) -/

/-- a × 2^p ≤ b × 2^q. -/
def leDyadic (a : Nat) (p : Int) (b : Nat) (q : Int) : Bool :=
  let e := min p q
  a * pow2 (p - e) ≤ b * pow2 (q - e)

/-- The larger of two magnitudes. -/
def maxDyadic (x y : Nat × Int) : Nat × Int := if leDyadic x.1 x.2 y.1 y.2 then y else x

/-- The random bits of stochastic rounding (R143). -/
def srBits (seed idx : W64) : Nat :=
  let x := seed ^^^ (idx * 0x9E3779B97F4A7C15)
  let x := x ^^^ (x >>> 31)
  let x := x * 0xD1B54A32D192ED03
  let x := x ^^^ (x >>> 29)
  let x := x * 0xAEF17502108EF2D9
  let x := x ^^^ (x >>> 32)
  (x >>> 48).toNat

/-- floor(log2(num ÷ den)). -/
def log2Ratio (num den : Nat) : Int :=
  let k := (Nat.log2 num : Int) - Nat.log2 den
  if den * pow2 k ≤ num * pow2 (-k) then k else k - 1

/-- How an encode rounds: R of stochastic rounding, or none for nearest-even. -/
abbrev Rnd := Option Nat

/-- The rounded significand and step exponent of num ÷ den × 2^q in a format (R142, R143). -/
def roundElem (fmt : Nat) (rnd : Rnd) (num den : Nat) (q : Int) : Nat × Int :=
  if num = 0 then (0, 0) else
  let st : Int := if fmtIsInt fmt then 0 else
    max (log2Ratio num den + q) (fmtFloat fmt).emin - (fmtFloat fmt).w
  let n := num * pow2 (q - st)
  let d := den * pow2 (st - q)
  let lo := n / d
  let rem := n % d
  let up := match rnd with
    | none => 2 * rem > d || (2 * rem == d && lo % 2 == 1)
    | some r => rem * 65536 > r * d
  (lo + b2n up, st)

/-- The field of a saturated element: +F or the negative limit (R142). -/
def satField (fmt : Nat) (neg : Bool) : Nat :=
  if fmtIsInt fmt then
    let b := fmtBits fmt
    if neg then 2 ^ (b - 1) else 2 ^ (b - 1) - 1
  else let (m, q) := fmtMax fmt; (fmtFloat fmt).pack neg m q

/-- A field, whether the element saturated, and whether it flushed. -/
structure Enc where
  field : Nat
  sat : Bool
  flush : Bool
  deriving DecidableEq, Repr

/-- A rounded magnitude as a field, saturating (R142, R144, R146). -/
def finishElem (fmt : Nat) (neg : Bool) (nonzero : Bool) (lo : Nat) (st : Int) : Enc :=
  let (fm, fq) := fmtMax fmt
  let lim := if fmtIsInt fmt && neg then (fm + 1, fq) else (fm, fq)
  if !leDyadic lo st lim.1 lim.2 then { field := satField fmt neg, sat := true, flush := false }
  else
    let f := if fmtIsInt fmt then wrap (fmtBits fmt) (signed neg lo) else (fmtFloat fmt).pack neg lo st
    { field := f, sat := false, flush := nonzero && lo == 0 }

/-- One element divided by its block's scale (step 4 of R140); `x` is a scaled input. -/
def encodeIn (fmt : Nat) (rnd : Rnd) (ms : Nat) (es : Int) : FV → Enc
  | .nan => { field := 0, sat := false, flush := false }
  | .inf n => { field := satField fmt n, sat := true, flush := false }
  | .fin n m q =>
    let (lo, st) := roundElem fmt rnd m ms (q - es)
    finishElem fmt n (m ≠ 0) lo st

/-- The code of the NaN of a format that has one (R123). -/
def nanField (fmt : Nat) : Nat :=
  if fmt = 3 then 0x7F else if fmt = 4 then 0x7E else if fmt = 7 then 0x7FC0 else if fmt = 8 then 0x7E00 else 0x7FC00000

/-- The code of an infinity of a format that has one (R123). -/
def infField (fmt : Nat) (n : Bool) : Nat :=
  if fmt = 4 then (if n then 0xFC else 0x7C) else if fmt = 7 then (if n then 0xFF80 else 0x7F80)
  else if fmt = 8 then (if n then 0xFC00 else 0x7C00) else (if n then 0xFF800000 else 0x7F800000)

/-- An unscaled element (R147); `x` is a scaled input. -/
def encodeOne (fmt : Nat) (rnd : Rnd) : FV → Enc
  | .nan => if fmt = 3 || fmtHasInf fmt then { field := nanField fmt, sat := false, flush := false }
            else { field := 0, sat := true, flush := false }
  | .inf n => if fmtHasInf fmt then { field := infField fmt n, sat := false, flush := false }
              else { field := satField fmt n, sat := true, flush := false }
  | .fin n m q => encodeIn fmt rnd 1 0 (.fin n m q)

/-- The scale code for a largest magnitude `a` (R141). -/
def chooseScale (fmt shape : Nat) (a : Nat × Int) : Nat :=
  let (fm, fq) := fmtMax fmt
  let ok (code : Nat) : Bool := let (ms, es) := fineScale shape code; leDyadic a.1 a.2 (fm * ms) (fq + es)
  if shape = 1 then (if a.1 = 0 then 0 else ((List.range' 1 126).find? ok).getD 0x7E)
  else ((List.range 255).find? ok).getD 254

/-- x ÷ 2^c. -/
def FV.unscale (c : Int) : FV → FV
  | .fin n m q => .fin n m (q - c)
  | v => v

/-- What an encode wrote: scale codes, fields, flushed elements, ENC_SAT. -/
structure EncBlock where
  code : Nat
  fields : List Nat
  flushed : Nat
  sat : Bool
  deriving DecidableEq, Repr

/-- One block: exact inputs with the rounding of each (R140 and the whole-block procedure). -/
def encodeBlock (fmt shape : Nat) (c : Int) (xs : List (FV × Rnd)) : EncBlock :=
  if shape = 0 then
    let es := xs.map fun (x, r) => encodeOne fmt r (x.unscale c)
    { code := 0, fields := es.map (·.field), flushed := es.countP (·.flush), sat := es.any (·.sat) }
  else if xs.any (fun x => x.1 == FV.nan) then
    { code := if shape = 1 then 0x7F else 0xFF, fields := xs.map fun _ => 0, flushed := 0, sat := false }
  else
    let ys := xs.map fun (x, r) => (x.unscale c, r)
    let a := ys.foldl (fun a y => match y.1 with | .fin _ m q => maxDyadic a (m, q) | _ => a) (0, 0)
    let anyInf := ys.any fun y => match y.1 with | .inf _ => true | _ => false
    let code := if anyInf then (if shape = 1 then 0x7E else 0xFE) else chooseScale fmt shape a
    let (ms, es) := fineScale shape code
    let rs := ys.map fun (y, r) => encodeIn fmt r (max ms 1) es y
    let fl := rs.countP (·.flush)
    let st := rs.any (·.sat)
    if rs.all fun r => zeroField fmt r.field then
      { code := 0, fields := rs.map fun _ => 0, flushed := fl, sat := st }
    else { code := code, fields := rs.map (·.field), flushed := fl, sat := st }

/-- The rounding of element `idx` of an encode with seed (R143). -/
def rndOf (stoch : Bool) (seed idx : W64) : Rnd := if stoch then some (srBits seed idx) else none

/-- A tile of exact values encoded: scale bytes, rows of fields, flush count, ENC_SAT. `idx r j` is the element
index. -/
structure EncTile where
  scales : List Nat
  rows : List (List Nat)
  flushed : Nat
  sat : Bool
  zeroBlocks : Nat
  deriving DecidableEq, Repr

/-- Pair every value of a tile with its rounding. -/
def withRnd (stoch : Bool) (seed base rowStep : W64) (m : List (List FV)) : List (List (FV × Rnd)) :=
  m.zipIdx.map fun (r, i) => r.zipIdx.map fun (x, j) =>
    (x, rndOf stoch seed (base + BitVec.ofNat 64 i * rowStep + BitVec.ofNat 64 j))

def encodeTile (fmt shape : Nat) (c : Int) (m : List (List (FV × Rnd))) : EncTile :=
  let w := (nth m 0).length
  let bs := (toBlocks shape m).map (encodeBlock fmt shape c)
  { scales := if shape = 0 then [] else bs.map (·.code), rows := ofBlocks shape w (bs.map (·.fields)),
    flushed := (bs.map (·.flushed)).sum, sat := bs.any (·.sat),
    zeroBlocks := bs.countP fun b => shape != 0 && blockKind fmt shape b.code b.fields == BlockKind.zero }

end Sys2Proof.Machine
end

