-- ==== Sys2Proof/Machine/Accum.lean ====
section
/-!
DEFINITION. Products, windows, promotion and drains of an accumulator set (spec/04_products_and_accumulation.md),
and the quads that zero blocks and omitted elements empty (spec/05_sparsity_and_dispatch.md).
-/
namespace Sys2Proof.Machine

/-- Numeric status bits: ACC_SAT, ACC_UFL, ENC_SAT (R120, item numeric status). -/
def nsAccSat : BitVec 3 := 1
def nsAccUfl : BitVec 3 := 2
def nsEncSat : BitVec 3 := 4

def Cell.clear : Cell := { parts := [], s := 0, err := 0, tag := .finite }
def AccSet.clear : AccSet := { steps := 0, cells := [] }
def Tile.empty : Tile := { k := 0, fmt := 0, sparse := 0, rows := [] }
def Elem.empty : Elem := { pieces := [], zero := true }

/-- The class of an element pair (R157). -/
inductive PairClass where
  | absorbed | nan | inf (neg : Bool) | finite
  deriving DecidableEq, Repr

/-- An element's tag and sign, from its pieces; a finite zero has no nonzero piece. -/
def Elem.tag (e : Elem) : Tag := match e.pieces with | [] => .finite | p :: _ => p.tag
def Elem.neg (e : Elem) : Bool := e.pieces.any (·.neg)
def Elem.isZero (e : Elem) : Bool := e.tag == .finite && e.pieces.all (·.m == 0)

def pairClass (a b : Elem) : PairClass :=
  if a.zero || b.zero then .absorbed
  else if a.tag == .nan || b.tag == .nan then .nan
  else if (a.tag == .inf && b.isZero) || (b.tag == .inf && a.isZero) then .nan
  else if a.tag == .inf || b.tag == .inf then .inf (a.neg != b.neg)
  else .finite

/-- The nonzero partial products of a finite pair (R153). -/
def partials (a b : Elem) : List Partial :=
  a.pieces.flatMap fun x => b.pieces.filterMap fun y =>
    if x.m * y.m = 0 then none else some { neg := x.neg != y.neg, m := x.m * y.m, q := x.q + y.q }

/-- A special class joins a cell's tag (R158). -/
def CellTag.join (t : CellTag) : PairClass → CellTag
  | .nan => .nan
  | .inf n => match t with
    | .finite => if n then .negInf else .posInf
    | .posInf => if n then .nan else .posInf
    | .negInf => if n then .negInf else .nan
    | .nan => .nan
  | _ => t

/-- rne32: rounded to FP32 with gradual underflow and no upper bound; an exact zero is +0. -/
def rne32 : FV → FV
  | .fin n m q => let (lo, st) := rneGrid 23 (-126) m q; .fin (n && lo != 0) lo st
  | v => v

/-- |v| ≥ 2^128. -/
def FV.huge : FV → Bool
  | .fin _ m q => m != 0 && decide ((Nat.log2 m : Int) + q ≥ 128)
  | _ => true

/-- A value that FP32 represents, as its pattern; zero is +0. -/
def FV.pat : FV → W32
  | .fin n m q => if m = 0 then 0 else round32 n m q
  | .inf n => inf32 n
  | .nan => qnan32

def FV.isNeg : FV → Bool | .fin n _ _ => n | .inf n => n | .nan => false

/-- two_sum of the accumulator: the rounded sum and its exact error. -/
def twoSum (a b : FV) : FV × FV :=
  let s := rne32 (a.add b)
  (s, (a.add b).add s.neg)

/-- The update of (S, E) with a promoted value (R162). -/
def promoteInto (c : Cell) (x : FV) : Cell × BitVec 3 :=
  let saturate (y : FV) : Cell × BitVec 3 := ({ c with s := maxf32 y.isNeg, err := 0 }, nsAccSat)
  let y := (dec32 c.s).add x
  if (rne32 y).huge then saturate y
  else
    let (s, t) := twoSum (dec32 c.s) x
    let t := rne32 (t.add (dec32 c.err))
    let z := s.add t
    if (rne32 z).huge then saturate z
    else let (s, e) := twoSum s t; ({ c with s := s.pat, err := e.pat }, 0)

/-- The exact sum of partial products, in units of 2^q. -/
def sumParts (q : Int) : List Partial → Int
  | [] => 0
  | p :: t => signed p.neg (p.m * pow2 (p.q - q)) + sumParts q t

/-- V and P − 1 of a window that holds partial products (R159). -/
def windowValue (ps : List Partial) (p0 : Partial) : Int × Int :=
  let hi := ps.foldl (fun a p => max a p.q) p0.q
  let lo := ps.foldl (fun a p => min a p.q) p0.q
  let x := sumParts lo ps
  let d := hi - 1 - lo
  (signed (x < 0) (if d ≤ 0 then x.natAbs * pow2 (-d) else rneShift x.natAbs d.toNat), hi - 1)

/-- The FP32 value a window is promoted as, and its status bits (R161). -/
def promoted (v u : Int) : FV × BitVec 3 :=
  let n := decide (v < 0)
  let m := v.natAbs
  if (FV.fin n m u).huge then (dec32 (maxf32 n), nsAccSat)
  else
    let (lo, st) := rneGrid 23 (-126) m u
    let exact := st ≤ u || lo * pow2 (st - u) == m
    (.fin (n && lo != 0) lo st, if exact then 0 else nsAccUfl)

/-- Close the open window of a cell and promote it. -/
def closeCell (c : Cell) : Cell × BitVec 3 :=
  match c.parts with
  | [] => (c, 0)
  | p :: _ =>
    let (v, u) := windowValue c.parts p
    let c := { c with parts := [] }
    if v = 0 then (c, 0)
    else
      let (x, b) := promoted v u
      match x with
      | .fin _ 0 _ => (c, b)
      | _ => let (c, b') := promoteInto c x; (c, b ||| b')

/-- One cell takes element pairs in increasing k; `steps` k-steps of its window are open (R157 to R160). -/
def feedCell : Nat → Cell → BitVec 3 → List (Elem × Elem) → Cell × BitVec 3
  | _, c, b, [] => (c, b)
  | steps, c, b, (x, y) :: t =>
    let cl := pairClass x y
    let c := match cl with
      | .finite => { c with parts := c.parts ++ partials x y }
      | _ => { c with tag := c.tag.join cl }
    if steps = 7 then
      let (c, b') := closeCell c
      feedCell 0 c (b ||| b') t
    else feedCell (steps + 1) c b t

/-- Every cell of a set changed by a function of its row, column and contents. -/
def AccSet.mapCells (a : AccSet) (f : Nat → Nat → Cell → Cell × BitVec 3) : Tab Cell × BitVec 3 :=
  let rs := (List.range 1024).map fun i => (i, f (i / 32) (i % 32) (Tab.get Cell.clear a.cells i))
  ((rs.filter fun r => r.2.1 ≠ Cell.clear).map fun r => (r.1, r.2.1), rs.foldl (fun b r => b ||| r.2.2) 0)

/-- Close and promote the open window of a set (R88). -/
def AccSet.close (a : AccSet) : AccSet × BitVec 3 :=
  if a.steps = 0 then (a, 0)
  else let (cs, b) := a.mapCells fun _ _ c => closeCell c; ({ steps := 0, cells := cs }, b)

/-- BMUL: the products of two tiles of equal K join a set (R87). -/
def AccSet.mac (a : AccSet) (x y : Tile) : AccSet × BitVec 3 :=
  if x.k = 0 then (a, 0)
  else
    let (cs, b) := a.mapCells fun i j c => feedCell a.steps c 0 ((nth x.rows i).zip (nth y.rows j))
    ({ steps := (a.steps + x.k) % 8, cells := cs }, b)

/-- The exact S + E of a cell, or its special value (R163). -/
def Cell.value (c : Cell) : FV :=
  match c.tag with
  | .nan => .nan
  | .posInf => .inf false
  | .negInf => .inf true
  | .finite =>
    match (dec32 c.s).add (dec32 c.err) with
    | .fin n m q => .fin (n && m != 0) m q
    | v => v

/-- What ADRAIN writes to a lane, and whether it saturated (R163). -/
def Cell.drain (c : Cell) : W32 × BitVec 3 :=
  match c.value with
  | .fin n m q =>
    let r := rne32 (.fin n m q)
    if r.huge then (maxf32 n, nsAccSat) else (r.pat, 0)
  | v => (enc32 v, 0)

/-! ## Empty quads (R177, R178) -/

/-- Whether quad `b` is empty on one side for row group `g` of a tile. -/
def Tile.quadEmpty (t : Tile) (g b : Nat) : Bool :=
  (List.range 4).all fun i => (((nth t.rows (4 * g + i)).drop (4 * b)).take 4).all (·.zero)

/-- Non-empty quads of cell group (a, c) of a product. -/
def quadsLeft (x y : Tile) (a c : Nat) : Nat :=
  (List.range (x.k / 4)).countP fun b => !(x.quadEmpty a b || y.quadEmpty c b)

/-- Twice the cost of one non-empty quad, dense, and as the operands are stored (table of R178). -/
def quadCost2 (x y : Tile) : Nat × Nat :=
  let wide := max (fmtBits x.fmt) (fmtBits y.fmt)
  let d := if wide ≤ 4 then 4 else if wide ≤ 8 then 8 else if wide ≤ 16 then 32 else 128
  let sp := max x.sparse y.sparse
  (d, if sp = 1 then d / 2 else if sp = 2 then d / 4 else d)

/-- Empty quads over the 64 cell groups, and multiply-port cycles taken and saved (R178, ENG_SKIP, ENG_SAVED_CYC). -/
def productCycles (x y : Tile) : Nat × Nat × Nat :=
  let gs := (List.range 64).map fun i => quadsLeft x y (i / 8) (i % 8)
  let (d, c) := quadCost2 x y
  let cyc := max 1 ((gs.foldl max 0 * c + 1) / 2)
  (64 * (x.k / 4) - gs.sum, cyc, x.k / 4 * d / 2 - cyc)

end Sys2Proof.Machine
end

