-- ==== Sys2Proof/WellFormed.lean ====
section
/-!
DEFINITION. Well-formed commands: every unit a command names is one the module has (the numbering of R1, R4, R9 and
the tables of spec/00_scope.md).
-/
namespace Sys2Proof

/-- Global logical engines 0–2,047 (R9). -/
def isEngine (e : Nat) : Bool := e < 2048
/-- Global courses 0–63 (R9). -/
def isCourse (c : Nat) : Bool := c < 64
/-- Compute dies CD0–CD3. -/
def isDie (d : Nat) : Bool := d < 4
/-- Torus ports 0–9 (table of port numbers). -/
def isPort (p : Nat) : Bool := p < 10
/-- Host ports HP0 and HP1. -/
def isHost (h : Nat) : Bool := h < 2
/-- Piers M0–M31 (R4). -/
def isPier (p : Nat) : Bool := p < 32
/-- Memory controllers MC0–MC15 (R4). -/
def isMc (m : Nat) : Bool := m < 16
/-- The 100 clock domains (R357). -/
def isDomain (d : Nat) : Bool := d < 100
/-- Partitions 0–7 (R38). -/
def isPart (p : Nat) : Bool := p < 8
/-- Stream contexts SC0–SC1023. -/
def isCtx (n : Nat) : Bool := n < 1024
/-- Micro-batch slots 0–127. -/
def isSlot (s : Nat) : Bool := s < 128
/-- Keystone lines K0–K15. -/
def isKey (k : Nat) : Bool := k < 16
/-- Off-load windows 0–7 of a partition (R323). -/
def isWindow (w : Nat) : Bool := w < 8
/-- Laser source bays 0–2 (R253). -/
def isBay (b : Nat) : Bool := b < 3
/-- Mailbox channels of a port: 12 non-secure or 4 secure (R409). -/
def isChannel (secure : Bool) (ch : Nat) : Bool := if secure then ch < 4 else ch < 12
/-- DRAM layers of a pier, 0–11 (R205). -/
def isLayer (l : Nat) : Bool := l < 12
/-- Reduction slots of a course, 0–31 (R92). -/
def isRSlot (r : Nat) : Bool := r < 32

def UeSource.wf : UeSource → Bool
  | .engineCopy e _ _ => isEngine e
  | .network e _ => isEngine e
  | .spawnList e _ => isEngine e
  | .flush e => isEngine e
  | .remote d _ => isDie d
  | .hostRead h => isHost h
  | .hostWrite h => isHost h
  | .slotResult c r _ => isCourse c && isRSlot r
  | .ringFetch p => isPart p
  | .copyCommand p _ => isPart p
  | .castSend => true
  | .castHolder d _ => isDie d
  | .castHeld d _ => isDie d
  | .castVerify _ => true
  | .scrub => true
  | .corrected l => isLayer l

def CsUeSource.wf : CsUeSource → Bool
  | .copy e _ _ c _ => isEngine e && isCourse c
  | .net e _ c _ => isEngine e && isCourse c
  | .fetch e => isEngine e
  | .access e => isEngine e
  | .resume e => isEngine e
  | .corrected c _ => isCourse c

def Arrival.wf : Arrival → Bool
  | .port p => isPort p
  | .mortar => true

def ScrubResult.wf : ScrubResult → Bool
  | .clean => true
  | .corrected l => isLayer l
  | .uncorrectable => true
  | .passDone => true

/-- Every unit that the command names exists. -/
def Instr.wf : Instr → Bool
  | .nop e _ => isEngine e
  | .add e _ => isEngine e
  | .sub e _ => isEngine e
  | .mul e _ => isEngine e
  | .and e _ => isEngine e
  | .or e _ => isEngine e
  | .xor e _ => isEngine e
  | .shl e _ => isEngine e
  | .shr e _ => isEngine e
  | .sar e _ => isEngine e
  | .li e _ => isEngine e
  | .lih e _ => isEngine e
  | .cmp e _ => isEngine e
  | .brz e _ => isEngine e
  | .brnz e _ => isEngine e
  | .jal e _ => isEngine e
  | .ldg e _ => isEngine e
  | .stg e _ => isEngine e
  | .ld4 e _ => isEngine e
  | .st4 e _ => isEngine e
  | .vld e _ => isEngine e
  | .vst e _ => isEngine e
  | .vlds e _ => isEngine e
  | .vsts e _ => isEngine e
  | .vldd e _ => isEngine e
  | .cpy e _ => isEngine e
  | .cpys e _ => isEngine e
  | .narrow e _ => isEngine e
  | .widen e _ => isEngine e
  | .reblock e _ => isEngine e
  | .pack e _ => isEngine e
  | .expand e _ => isEngine e
  | .gather e _ => isEngine e
  | .scatter e _ => isEngine e
  | .zscan e _ => isEngine e
  | .digest e _ => isEngine e
  | .ald e _ => isEngine e
  | .bmul e _ _ => isEngine e
  | .aprom e _ => isEngine e
  | .adrain e _ => isEngine e
  | .adraine e _ => isEngine e
  | .venc e _ => isEngine e
  | .vadd e _ => isEngine e
  | .vsub e _ => isEngine e
  | .vmul e _ => isEngine e
  | .vfma e _ => isEngine e
  | .vmax e _ => isEngine e
  | .vmin e _ => isEngine e
  | .vcmp e _ => isEngine e
  | .vsel e _ => isEngine e
  | .vexp2 e _ => isEngine e
  | .vlog2 e _ => isEngine e
  | .vrcp e _ => isEngine e
  | .vrsqrt e _ => isEngine e
  | .vcvt e _ => isEngine e
  | .vbcast e _ => isEngine e
  | .vperm e _ => isEngine e
  | .vmovg e _ => isEngine e
  | .rlane e _ => isEngine e
  | .racc e _ => isEngine e
  | .rwel e _ => isEngine e
  | .rscfg e _ => isEngine e
  | .rcont e _ => isEngine e
  | .rmerge e _ => isEngine e
  | .finc e _ => isEngine e
  | .fwait e _ => isEngine e
  | .fwaitMet e => isEngine e
  | .fset e _ => isEngine e
  | .frd e _ => isEngine e
  | .karr e _ => isEngine e
  | .kwait e _ => isEngine e
  | .kwaitMet e => isEngine e
  | .spawn e _ => isEngine e
  | .spawnd e _ => isEngine e
  | .yield e _ => isEngine e
  | .finish e _ => isEngine e
  | .finishCommit e => isEngine e
  | .engineWake e => isEngine e
  | .nput e _ => isEngine e
  | .nget e _ => isEngine e
  | .nflag e _ => isEngine e
  | .nstep e _ => isEngine e
  | .nstepWaitMet e _ => isEngine e
  | .sysr e _ => isEngine e
  | .trap e _ => isEngine e
  | .cfence e _ => isEngine e
  | .cfenceMet e => isEngine e
  | .copyComplete e _ => isEngine e
  | .plinthOpComplete e _ => isEngine e
  | .pierUncorrectableRead src pier _ => src.wf && isPier pier
  | .itemReexec e => isEngine e
  | .slotRetire e _ => isEngine e
  | .spareTakeover e _ => isEngine e
  | .repairRecordWrite _ => true
  | .reduceSlotDone c r => isCourse c && isRSlot r
  | .layerMark pier layer => isPier pier && isLayer layer
  | .patrolScrub pier _ found => isPier pier && found.wf
  | .scrubWake mc => isMc mc
  | .pierHotRefresh pier _ => isPier pier
  | .idleDescent d => isDomain d
  | .levelEntryComplete d => isDomain d
  | .wakeGrantInstant => true
  | .deepGrant die => isDie die
  | .domainExitComplete d => isDomain d
  | .powerSample _ => true
  | .throttleTick => true
  | .courseClockChange p => isPart p
  | .telemetryUpdate _ => true
  | .doorbell port n _ => isHost port && isCtx n
  | .ctxEnable port n _ => isHost port && isCtx n
  | .ctxDisable port n _ => isHost port && isCtx n
  | .ctxReset port n _ => isHost port && isCtx n
  | .ctxSlotBind port n _ => isHost port && isCtx n
  | .ringFetch p _ => isPart p
  | .ringFetchError p _ => isPart p
  | .item p => isPart p
  | .copy p => isPart p
  | .copyCmdDone p _ => isPart p
  | .complete x => isPart x.p
  | .hodSlotRetry n => isCtx n
  | .fenceWaitEnd n => isCtx n
  | .slotArm port s _ => isHost port && isSlot s
  | .slotOpen s => isSlot s
  | .keyExpectWrite port k _ => isHost port && isKey k
  | .keyReset port k _ => isHost port && isKey k
  | .keyReport d _ => isDie d
  | .keyRelease d _ => isDie d
  | .oflArm port p w _ => isHost port && isPart p && isWindow w
  | .oflWindowFire p w => isPart p && isWindow w
  | .oflCopyDone p w _ => isPart p && isWindow w
  | .progressTimeout e _ => isEngine e
  | .codewordReceive port _ => isPort port
  | .nak port _ => isPort port
  | .nakLimit port => isPort port
  | .credit port _ _ => isPort port
  | .creditSend port => isPort port
  | .hello port _ => isPort port
  | .helloSend port => isPort port
  | .idle port _ _ _ => isPort port
  | .heartbeatTick => true
  | .hbMissing port => isPort port
  | .packetSendStart port => isPort port
  | .packetHeadArrival d a _ => isDie d && a.wf
  | .packetTrailerArrival d a _ => isDie d && a.wf
  | .stallTimeout port _ => isPort port
  | .packetAged d _ => isDie d
  | .linkSilenceTimeout port => isPort port
  | .portTrained port _ => isPort port
  | .signalDetect port => isPort port
  | .nbrDeadSet port => isPort port
  | .nbrTrainingDetect port => isPort port
  | .frozenHoldExpiry port => isPort port
  | .lightLoss bay => isBay bay
  | .lightReturn bay => isBay bay
  | .laserUnitInsert bay => isBay bay
  | .laserUnitRemove bay => isBay bay
  | .write d _ => isDie d
  | .writeLast d _ => isDie d
  | .read d _ => isDie d
  | .readData d _ => isDie d
  | .flag d _ => isDie d
  | .stepData d _ => isDie d
  | .stepLast d _ => isDie d
  | .planData d _ => isDie d
  | .planLast d _ => isDie d
  | .ack d _ => isDie d
  | .response d _ => isDie d
  | .ackSend d _ => isDie d
  | .retransmitTimerExpiry _ => true
  | .transportGiveUp _ => true
  | .refusalBackoffExpiry _ => true
  | .refusalGiveUp _ => true
  | .localPacketRetry die _ _ => isDie die
  | .fenceRelease _ => true
  | .sendFlowClose _ => true
  | .injectionResume die => isDie die
  | .echo d _ => isDie d
  | .echoReply d _ => isDie d
  | .mgmtMessage d _ => isDie d
  | .flip port => isHost port
  | .release port => isHost port
  | .rteLookupWrite port _ => isHost port
  | .retrain port p _ => isHost port && isPort p
  | .disable port p _ => isHost port && isPort p
  | .test port p _ => isHost port && isPort p
  | .go port => isHost port
  | .bondFetchDone port _ => isHost port
  | .partialImageApply port => isHost port
  | .rerun port => isHost port
  | .bu1 _ _ => true
  | .bu2 _ => true
  | .bu3 _ => true
  | .bu4 _ _ _ => true
  | .bu5 _ _ => true
  | .bu6 _ _ => true
  | .bu7 => true
  | .discoveryEnd => true
  | .bu8 => true
  | .soakComplete port _ _ _ _ => isPort port
  | .bu9 => true
  | .buStageTimeout => true
  | .origin port => isHost port
  | .skip port => isHost port
  | .send port => isHost port
  | .restore port => isHost port
  | .abort port => isHost port
  | .castBegin d _ => isDie d
  | .castData d _ => isDie d
  | .castEnd d _ => isDie d
  | .restoreReq d _ => isDie d
  | .restoreMeta d _ => isDie d
  | .restoreData d _ => isDie d
  | .restoreEnd d _ => isDie d
  | .restoreChunkDigest _ => true
  | .restoreBad d _ => isDie d
  | .restoreApply => true
  | .ckpPartReset port _ => isHost port
  | .partResetDone p => isPart p
  | .ckpModReset _ _ => true
  | .frzCtrl _ _ => true
  | .frzNAssert => true
  | .freeze => true
  | .dbgGo _ _ => true
  | .dbgReadDone _ => true
  | .dbgReq _ => true
  | .dbgData => true
  | .bypass => true
  | .samplePreload _ _ => true
  | .extest _ _ => true
  | .pwrCapWrite _ _ => true
  | .genBar4BaseWrite port _ => isHost port
  | .lowHalfRead _ _ => true
  | .highHalfRead _ _ => true
  | .rcRead _ _ => true
  | .registerWrite _ _ _ _ => true
  | .bar4Read port _ _ => isHost port
  | .bar4Write port _ _ => isHost port
  | .mbGo port secure ch => isHost port && isChannel secure ch
  | .take port secure ch => isHost port && isChannel secure ch
  | .mailboxTake _ _ => true
  | .echoMsg port ch => isHost port && isChannel false ch
  | .pathEcho port ch => isHost port && isChannel false ch
  | .pathEchoTimeout port ch => isHost port && isChannel false ch
  | .challenge port ch _ => isHost port && isChannel true ch
  | .openMsg port ch => isHost port && isChannel true ch
  | .closeMsg port ch => isHost port && isChannel true ch
  | .attest port ch => isHost port && isChannel false ch
  | .getCert port ch => isHost port && isChannel false ch
  | .install port ch => isHost port && isChannel false ch
  | .fwUpdate port ch => isHost port && isChannel true ch
  | .fwUpdateDone _ => true
  | .fwCommit port ch => isHost port && isChannel true ch
  | .smbSetPointer _ _ _ => true
  | .smbRead _ => true
  | .smbWrite _ _ _ => true
  | .perstAssert port => isHost port
  | .perstRelease port => isHost port
  | .hostPortReady port => isHost port
  | .inputPowerApply => true
  | .inputPowerLoss => true
  | .pwrEnRise _ _ _ _ => true
  | .pwrEnFall => true
  | .pwrEnHoldExpiry _ _ _ _ => true
  | .underVoltageLockout => true
  | .thermalTrip => true
  | .courseStoreUncorrectableRead src => src.wf
  | .hostLinkDown port => isHost port
  | .pcieL1Exit port => isHost port
  | .corePowerRemoved => true
  | .castChunkDigest _ => true
  | .installDone _ => true
  | .fwCommitDone => true
  | .attestDone => true

end Sys2Proof
end

