-- ==== Sys2Proof/Machine/Ops.lean ====
section
/-!
DEFINITION. The shared operations over the state: one accessor pair per table of the state, free values, partitions,
pier space and the stores, flags, contexts, hod slots, faults and halts.
-/
namespace Sys2Proof.Machine

/-- A command acts only when every unit it names exists; `ok` is the command's line of `Instr.wf`. -/
def guarded (ok : Bool) (t : State) : Host.Outcome State Fault Refusal := if ok then .next t else .fault .noSuchUnit

/-! ## Accessors -/

def State.eng (s : State) (e : Nat) : Engine := Tab.get Engine.reset s.engines e
def State.setEng (s : State) (e : Nat) (x : Engine) : State :=
  { s with engines := Tab.put Engine.reset s.engines e x }
def State.modEng (s : State) (e : Nat) (f : Engine → Engine) : State := s.setEng e (f (s.eng e))

def State.crs (s : State) (c : Nat) : Course := Tab.get Course.reset s.courses c
def State.setCrs (s : State) (c : Nat) (x : Course) : State :=
  { s with courses := Tab.put Course.reset s.courses c x }
def State.modCrs (s : State) (c : Nat) (f : Course → Course) : State := s.setCrs c (f (s.crs c))

def State.part (s : State) (p : Nat) : Part := Tab.get Part.reset s.parts p
def State.setPart (s : State) (p : Nat) (x : Part) : State := { s with parts := Tab.put Part.reset s.parts p x }
def State.modPart (s : State) (p : Nat) (f : Part → Part) : State := s.setPart p (f (s.part p))

def State.ctx (s : State) (n : Nat) : Ctx := Tab.get Ctx.reset s.ctxs n
def State.setCtx (s : State) (n : Nat) (x : Ctx) : State := { s with ctxs := Tab.put Ctx.reset s.ctxs n x }
def State.modCtx (s : State) (n : Nat) (f : Ctx → Ctx) : State := s.setCtx n (f (s.ctx n))

def State.mslot (s : State) (n : Nat) : MSlot := Tab.get MSlot.reset s.mslots n
def State.setMslot (s : State) (n : Nat) (x : MSlot) : State :=
  { s with mslots := Tab.put MSlot.reset s.mslots n x }
def State.modMslot (s : State) (n : Nat) (f : MSlot → MSlot) : State := s.setMslot n (f (s.mslot n))

def State.key (s : State) (k : Nat) : KeyLine := Tab.get KeyLine.reset s.keys k
def State.setKey (s : State) (k : Nat) (x : KeyLine) : State := { s with keys := Tab.put KeyLine.reset s.keys k x }
def State.modKey (s : State) (k : Nat) (f : KeyLine → KeyLine) : State := s.setKey k (f (s.key k))

/-- Off-load window `w` of partition `p`. -/
def State.ofl (s : State) (p w : Nat) : Ofl := Tab.get Ofl.reset s.ofls (8 * p + w)
def State.setOfl (s : State) (p w : Nat) (x : Ofl) : State := { s with ofls := Tab.put Ofl.reset s.ofls (8 * p + w) x }
def State.modOfl (s : State) (p w : Nat) (f : Ofl → Ofl) : State := s.setOfl p w (f (s.ofl p w))

def State.port (s : State) (p : Nat) : Port := Tab.get Port.reset s.ports p
def State.setPort (s : State) (p : Nat) (x : Port) : State := { s with ports := Tab.put Port.reset s.ports p x }
def State.modPort (s : State) (p : Nat) (f : Port → Port) : State := s.setPort p (f (s.port p))

def State.pier (s : State) (p : Nat) : Pier := Tab.get Pier.reset s.piers p
def State.setPier (s : State) (p : Nat) (x : Pier) : State := { s with piers := Tab.put Pier.reset s.piers p x }
def State.modPier (s : State) (p : Nat) (f : Pier → Pier) : State := s.setPier p (f (s.pier p))

def State.mc (s : State) (m : Nat) : Mc := Tab.get Mc.reset s.mcs m
def State.modMc (s : State) (m : Nat) (f : Mc → Mc) : State :=
  { s with mcs := Tab.put Mc.reset s.mcs m (f (s.mc m)) }

def State.dom (s : State) (d : Nat) : Dom := Tab.get Dom.reset s.doms d
def State.setDom (s : State) (d : Nat) (x : Dom) : State := { s with doms := Tab.put Dom.reset s.doms d x }
def State.modDom (s : State) (d : Nat) (f : Dom → Dom) : State := s.setDom d (f (s.dom d))

def State.host (s : State) (h : Nat) : HostPort := Tab.get HostPort.reset s.hosts h
def State.setHost (s : State) (h : Nat) (x : HostPort) : State :=
  { s with hosts := Tab.put HostPort.reset s.hosts h x }
def State.modHost (s : State) (h : Nat) (f : HostPort → HostPort) : State := s.setHost h (f (s.host h))

def State.modCtr (s : State) (d : Nat) (f : DieCtr → DieCtr) : State :=
  { s with rte := { s.rte with ctrs := Tab.put DieCtr.reset s.rte.ctrs d (f (Tab.get DieCtr.reset s.rte.ctrs d)) } }

/-- Something the module gives to the outside. -/
def State.emit (s : State) (o : Out) : State := { s with out := s.out ++ [o] }

/-- The hardware sets write-one-to-clear bits in the present cycle (R15). -/
def State.stick (s : State) (l : List Sticky) : State := { s with setNow := s.setNow ++ l }

/-- What a write leaves of a write-one-to-clear bit that was `old`: a 1 clears it, unless the hardware has set it in the same
cycle (R15). -/
def State.w1c (s : State) (b : Sticky) (wr old : Bool) : Bool := old && (!wr || s.setNow.contains b)

/-- A write of a numeric status, each of whose bits is written one to clear. -/
def State.w1cStatus (s : State) (b : Nat → Sticky) (v : W64) (old : BitVec 3) : BitVec 3 :=
  BitVec.ofNat 3 ((List.range 3).foldl (fun n i => n + b2n (s.w1c (b i) (v.getLsbD i) (old.getLsbD i)) * 2 ^ i) 0)

/-- The numbers of the bits that are 1 in a numeric status. -/
def statusBits (v : BitVec 3) : List Nat := (List.range 3).filter fun i => v.getLsbD i

/-- A counter of `w` bits saturates at its largest value (R119, R223, R249, R296). -/
def satAdd (w n k : Nat) : Nat := min (n + k) (2 ^ w - 1)

/-! ## Free values (notes/assumptions/1.md) -/

/-- The next free choice between two outcomes. -/
def State.freeBool (s : State) : Bool × State := (Config.freeBool s.freeCtr, { s with freeCtr := s.freeCtr + 1 })

/-- The next free number. -/
def State.freeNat (s : State) : Nat × State := (Config.freeNat s.freeCtr, { s with freeCtr := s.freeCtr + 1 })

/-- For each pair, the old or the new byte, freely (R82, R192, R203). -/
def mixBytes (ctr : Nat) : List (Byte × Byte) → List Byte
  | [] => []
  | (a, b) :: t => (if a = b then a else if Config.freeBool ctr then a else b) :: mixBytes (ctr + 1) t

/-- Free bytes of a given number. -/
def freeBytes (ctr : Nat) : Nat → List Byte
  | 0 => []
  | n + 1 => Config.freeByte ctr :: freeBytes (ctr + 1) n

/-! ## Module state -/

/-- The module is powered and has reached READY (BU9). -/
def State.ready (s : State) : Bool := s.pwr.seq == .on && s.bu.st == .ready

/-- The module is ready and its fast clocks run. -/
def State.live (s : State) : Bool := s.ready && !s.frz.frozen

/-- The management controller runs: powered, past BU1 (R414), stage not FAILED before it. -/
def State.masonUp (s : State) : Bool := s.pwr.seq == .on && decide (s.bu.stage ≥ 2)

/-- Host port `h` is OWNER_PORT; until BU9 both ports are (R38, R417). -/
def State.ownedBy (s : State) (h : Nat) : Bool := !s.cfg.applied || s.cfg.ownerPort == h

/-- The module is SENDING or RESTORING: command processors are held, and host and remote writes to cast regions are
turned away (R341, R347). -/
def State.castHeld (s : State) : Bool := s.ckp.st == 1 || s.ckp.st == 3

/-! ## Partitions (R38) -/

def State.partCfg (s : State) (p : Nat) : Option PartCfg := Tab.find? s.cfg.parts p

/-- The first listed partition that satisfies a test. -/
def State.findPart (s : State) (f : PartCfg → Bool) : Option Nat := (s.cfg.parts.find? fun e => f e.2).map (·.1)

/-- The partition of a course. -/
def State.partOfCourse (s : State) (c : Nat) : Option Nat := s.findPart fun p => p.courseMask.getLsbD c

/-- The partition of a logical engine. -/
def State.partOfEngine (s : State) (e : Nat) : Option Nat := s.partOfCourse (e / 32)

/-- The partition of a stream context (R238). -/
def State.partOfCtx (s : State) (n : Nat) : Option Nat :=
  s.findPart fun p => p.ctxFirst ≤ n && n < p.ctxFirst + p.ctxCount

/-- The partition of a micro-batch slot (R246). -/
def State.partOfSlot (s : State) (n : Nat) : Option Nat :=
  s.findPart fun p => p.slotFirst ≤ n && n < p.slotFirst + p.slotCount

/-- The host port of a partition; the configured owner when it has none. -/
def State.hostOf (s : State) (p : Nat) : Nat := ((s.partCfg p).map (·.hostPort)).getD 0

/-- A partition is halted (R112). -/
def State.halted (s : State) (p : Nat) : Bool := (s.part p).halted

/-- A logical engine is enabled by the applied ENABLE section. -/
def State.engEnabled (s : State) (e : Nat) : Bool :=
  s.cfg.courseEn.getLsbD (e / 32) && (Tab.get 0 s.cfg.engMask (e / 32)).getLsbD (e % 32)

/-- Licence tiers as applied by mason (R7, R79): full numeric tier. -/
def State.fullNumeric (s : State) : Bool := s.gen.capLic.getLsbD 2

/-! ## Clock domains and wakes (R357 to R367) -/

def domCourse (c : Nat) : Nat := c
def domMc (m : Nat) : Nat := 64 + m
def domPort (p : Nat) : Nat := 80 + p
def domHost (h : Nat) : Nat := 90 + h
def domFabric (d : Nat) : Nat := 92 + d

/-- The die of a clock domain that deep grants concern (R366). -/
def domDie (d : Nat) : Nat := if d < 64 then d / 16 else if d < 80 then (d - 64) / 4 else 0

/-- Where a request of domain `d` stands among waiting ones: after every earlier request; of requests of one AOCLK cycle the
lower domain number comes first (R365, R366). -/
def State.queueWake (s : State) (q : List Nat) (d : Nat) : List Nat :=
  let later (x : Nat) : Bool := (s.dom x).waited == 0 && !(s.dom x).deepGiven && decide (d < x)
  q.filter (fun x => !later x) ++ d :: q.filter later

/-- A wake event reaches a domain (R361): one that sleeps at Q2 or deeper asks for its exit. Courses need a grant;
courses and controllers at Q3 or deeper need a deep grant first (R365, R366); the others are granted at once. -/
def State.requestWake (s : State) (d : Nat) : State :=
  let x := s.dom d
  if x.held || x.wakeReq then s
  else if x.level ≤ 1 && x.entering.isNone then s.setDom d { x with idle := none }
  else
    let deep := decide (max x.level (x.entering.getD 0) ≥ 3) && decide (d < 80)
    let s := s.setDom d { x with wakeReq := true, idle := none, waited := 0,
                                 granted := !deep && decide (d ≥ 64) }
    if deep then { s with pwr := { s.pwr with deepQ := s.queueWake s.pwr.deepQ d } }
    else if d < 64 then { s with pwr := { s.pwr with wakeQ := s.queueWake s.pwr.wakeQ d } }
    else s

/-- A course is at Q0 or Q1 and not being put to sleep (R229, R363). -/
def State.courseAwake (s : State) (c : Nat) : Bool :=
  decide ((s.dom c).level ≤ 1) && !(s.dom c).held && (s.dom c).entering.isNone

/-! ## Pier space (R195 to R199) -/

def pageSize : Nat := 4096
def pierPages : Nat := 12582912
def stageBase : Nat := 0x1FFFC000000
def pierSpace : Nat := 2 ^ 41

/-- Populated piers in the order of a kind 0 region (R197). -/
def kind0Piers (cap : BitVec 32) : List Nat :=
  ((List.range 32).map fun i => i / 4 + 8 * (i % 4)).filter fun p => cap.getLsbD p

/-- The pier list of a region kind (R197). -/
def pierList (cap : BitVec 32) (kind target : Nat) : List Nat :=
  if kind = 0 then kind0Piers cap
  else if kind = 1 then (List.range 32).filter fun p => cap.getLsbD p && p / 8 == target
  else (List.range 32).filter fun p => cap.getLsbD p && p == target

/-- Pages of the staging area on each populated pier (R196). -/
def stagePages (cap : BitVec 32) : Nat :=
  let p := (kind0Piers cap).length
  if p = 0 then 0 else (16384 + p - 1) / p

/-- The staging area as a region. -/
def stageRegion (cap : BitVec 32) : Region :=
  { id := 0xFF, kind := 0, target := 0, owner := 0xFF, narrow := false, buddy := false, cast := false,
    base := stageBase, size := pierSpace - stageBase,
    first := (List.range 32).filterMap fun p => if cap.getLsbD p then some (p, pierPages - stagePages cap) else none }

/-- The region of the applied PIER section that holds an address. -/
def State.regionAt (s : State) (a : Nat) : Option Region :=
  s.cfg.regions.find? fun r => r.base ≤ a && a < r.base + r.size

/-- The region or staging area that holds an address (R195). -/
def State.mapAt (s : State) (a : Nat) : Option Region :=
  match s.regionAt a with
  | some r => some r
  | none => if stageBase ≤ a && a < pierSpace then some (stageRegion s.gen.capPiers) else none

/-- Pier and pier-local address of a pier space address (R199). -/
def State.pierDecode (s : State) (a : Nat) : Option (Nat × Nat) :=
  match s.mapAt a with
  | none => none
  | some r =>
    let off := a - r.base
    let page := off / pageSize
    let l := pierList s.gen.capPiers r.kind r.target
    if l.isEmpty then none
    else
      let p := l.getD (page % l.length) 0
      some (p, (Tab.get 0 r.first p + page / l.length) * pageSize + off % pageSize)

/-- Key of a pier byte in `State.mem`. -/
def pierKey (p loc : Nat) : Nat := 2 ^ 36 * p + loc

/-- A span touches a region with a given attribute. -/
def State.touches (s : State) (f : Region → Bool) (a n : Nat) : Bool :=
  n != 0 && s.cfg.regions.any fun r => f r && a < r.base + r.size && r.base < a + n

/-! ## Reading and writing places (R11, R203) -/

/-- Key of a local-store or course-store byte. -/
def lsKey (e off : Nat) : Nat := 2 ^ 19 * e + off
def csKey (c off : Nat) : Nat := 2 ^ 22 * c + off

/-- The parts of a pier space span that lie on one page: (address, length). -/
def pageParts : Nat → Nat → Nat → List (Nat × Nat)
  | 0, _, _ => []
  | f + 1, a, n =>
    if n = 0 then []
    else
      let k := min n (pageSize - a % pageSize)
      (a, k) :: pageParts f (a + k) (n - k)

/-- Bytes of pier space; an unmapped byte reads as zero (no meaning reads one: R195). -/
def State.readPier (s : State) (a n : Nat) : List Byte :=
  (pageParts (n / pageSize + 2) a n).flatMap fun (a, k) =>
    match s.pierDecode a with
    | some (p, l) => Mem.read s.mem (pierKey p l) k
    | none => List.replicate k 0

/-- Store bytes of one page of pier space. -/
def State.writePage (s : State) (a : Nat) (bs : List Byte) : State :=
  match s.pierDecode a with
  | none => s
  | some (p, l) => { s with mem := Mem.write s.mem (pierKey p l) bs }

def State.writeParts (s : State) : List (Nat × Nat) → List Byte → State
  | [], _ => s
  | (a, k) :: t, bs => (s.writePage a (bs.take k)).writeParts t (bs.drop k)

/-- Store bytes of pier space. -/
def State.writePier (s : State) (a : Nat) (bs : List Byte) : State :=
  s.writeParts (pageParts (bs.length / pageSize + 2) a bs.length) bs

/-- The bytes at a place. -/
def State.readLoc (s : State) (l : Loc) (n : Nat) : List Byte :=
  match l with
  | .ls e off => Mem.read s.ls (lsKey e off) n
  | .cs c off => Mem.read s.cs (csKey c off) n
  | .pier a => s.readPier a n

/-- Store bytes at a place. -/
def State.writeLoc (s : State) (l : Loc) (bs : List Byte) : State :=
  match l with
  | .ls e off => { s with ls := Mem.write s.ls (lsKey e off) bs }
  | .cs c off => { s with cs := Mem.write s.cs (csKey c off) bs }
  | .pier a => s.writePier a bs

/-- A place some bytes further on. -/
def Loc.add : Loc → Nat → Loc
  | .ls e off, n => .ls e (off + n)
  | .cs c off, n => .cs c (off + n)
  | .pier a, n => .pier (a + n)

/-- Two places of one space: the difference of their offsets is meaningful. -/
def Loc.sameSpace : Loc → Loc → Bool
  | .ls e _, .ls e' _ => e == e'
  | .cs c _, .cs c' _ => c == c'
  | .pier _, .pier _ => true
  | _, _ => false

def Loc.off : Loc → Nat
  | .ls _ o => o
  | .cs _ o => o
  | .pier a => a

/-- Two spans share a byte. -/
def overlap (a : Loc) (n : Nat) (b : Loc) (k : Nat) : Bool :=
  a.sameSpace b && n != 0 && k != 0 && a.off < b.off + k && b.off < a.off + n

/-- A span lies inside another. -/
def within (a : Loc) (n : Nat) (b : Loc) (k : Nat) : Bool :=
  a.sameSpace b && b.off ≤ a.off && a.off + n ≤ b.off + k

/-- Counts of pier bytes read and written (MC_RD_BYTES, MC_WR_BYTES): a write that covers part of a line counts the
whole line on both sides. -/
def State.countPier (s : State) (rd : Bool) (a n : Nat) : State :=
  (pageParts (n / pageSize + 2) a n).foldl (fun s (a, k) =>
    match s.pierDecode a with
    | none => s
    | some (p, _) =>
      let first := if a % 64 = 0 && 64 ≤ k then 0 else 1
      let lastE := (a + k) % 64
      let lines := (a + k + 63) / 64 - a / 64
      let whole := if a % 64 = 0 && lastE = 0 then lines else
        (if lines ≤ 1 then 0 else lines - first - (if lastE = 0 then 0 else 1))
      s.modMc (p / 2) fun m =>
        if rd then { m with rdBytes := satAdd 64 m.rdBytes k }
        else { m with rdBytes := satAdd 64 m.rdBytes (64 * (lines - whole)),
                      wrBytes := satAdd 64 m.wrBytes (64 * lines) }) s

/-- A request for the piers of a span wakes their controllers (R361). -/
def State.wakePiers (s : State) (a n : Nat) : State :=
  (pageParts (n / pageSize + 2) a n).foldl (fun s (a, _) =>
    match s.pierDecode a with
    | none => s
    | some (p, _) => s.requestWake (domMc (p / 2))) s

/-- Read a place, counting pier traffic. -/
def State.fetchLoc (s : State) (l : Loc) (n : Nat) : List Byte × State :=
  match l with
  | .pier a => (s.readPier a n, (s.countPier true a n).wakePiers a n)
  | _ => (s.readLoc l n, s)

/-- Write a place, counting pier traffic. -/
def State.storeLoc (s : State) (l : Loc) (bs : List Byte) : State :=
  match l with
  | .pier a => ((s.writePier a bs).countPier false a bs.length).wakePiers a bs.length
  | _ => s.writeLoc l bs

/-- Add to a 64-bit little-endian counter (R90, R212). -/
def State.addCounter (s : State) (l : Loc) (n : Nat) : State :=
  let (b, s) := s.fetchLoc l 8
  s.storeLoc l (leBytes 8 (leNat b + n))

/-! ## Sync flags (R224 to R229) -/

def State.flagVal (s : State) (e f : Nat) : W32 := Tab.get 0 (s.eng e).flags f

def State.setFlag (s : State) (e f : Nat) (v : W32) : State :=
  s.modEng e fun x => { x with flags := Tab.put 0 x.flags f v }

/-- An addition reaches a flag; a course at Q2 or deeper has it held in its die's fabric (R229). -/
def State.flagAdd (s : State) (e f : Nat) (v : W32) : State :=
  if s.courseAwake (e / 32) then s.setFlag e f (s.flagVal e f + v)
  else (s.modCrs (e / 32) fun c => { c with heldAdds := c.heldAdds ++ [(e, f, v)] }).requestWake (e / 32)

/-- The courses for which `t` holds more flag additions than `s`. -/
def State.newlyHeld (s t : State) : List Nat :=
  (List.range 64).filter fun c => decide ((s.crs c).heldAdds.length < (t.crs c).heldAdds.length)

/-- Changes held for a course have been applied, or are gone. -/
def State.unhold (s : State) (f : Nat → Bool) : State :=
  { s with rte := { s.rte with recv := s.rte.recv.map fun r => { r with holds := r.holds.filter fun c => !f c } } }

/-- A subtraction from a flag, held likewise. -/
def State.flagSub (s : State) (e f : Nat) (v : W32) : State :=
  if s.courseAwake (e / 32) then s.setFlag e f (s.flagVal e f - v)
  else (s.modCrs (e / 32) fun c => { c with heldSubs := c.heldSubs ++ [(e, f, v)] }).requestWake (e / 32)

/-- The value on which a slot, a window or a step tests a flag: what the subtractions before it have left (R225). -/
def State.flagLeft (s : State) (e f : Nat) : W32 :=
  (s.crs (e / 32)).heldSubs.foldl (fun v x => if x.1 = e && x.2.1 = f then v - x.2.2 else v) (s.flagVal e f)

/-! ## Stream contexts -/

/-- An item of a context becomes ready for the first time (R244). -/
def State.ctxPlaced (s : State) (n : Nat) : State :=
  s.modCtx n fun c => { c with placed := satAdd 64 c.placed 1, live := c.live + 1 }

/-- An item of a context ends, with or without finishing (R244). -/
def State.ctxDone (s : State) (n : Nat) (finished : Bool) : State :=
  s.modCtx n fun c =>
    let c := { c with live := c.live - 1 }
    if finished then { c with finished := satAdd 64 c.finished 1 } else { c with ended := satAdd 64 c.ended 1 }

/-- The first fault of a context is recorded (R242). -/
def State.ctxFault (s : State) (n : Nat) (code opc : BitVec 8) (e : Nat) (seq : W32) : State :=
  s.modCtx n fun c =>
    if c.faultValid then c
    else { c with faultValid := true, faultCode := code, faultOpc := opc, faultEngine := e, faultSeq := seq }

/-! ## Hod slots (R104 to R107) -/

def State.hodSlot (s : State) (c k : Nat) : Option HodSlot := Tab.find? (s.crs c).hod k

def State.setHod (s : State) (c k : Nat) (x : HodSlot) : State :=
  s.modCrs c fun y => { y with hod := Tab.set y.hod k x }

/-- A slot frees. -/
def State.freeHod (s : State) (c k : Nat) : State := s.modCrs c fun y => { y with hod := Tab.erase y.hod k }

/-- The lowest free slots of a hod of 256. -/
def Course.freeSlots (c : Course) : List Nat := (List.range 256).filter fun k => (Tab.find? c.hod k).isNone

/-- An item takes a slot in its home hod; COURSE_HOD.PEAK follows OCC. -/
def State.occupy (s : State) (c k : Nat) (x : HodSlot) : State :=
  (s.setHod c k x).modCrs c fun y => { y with peak := max y.peak y.hod.length }

/-- The next arrival stamp of a hod. -/
def State.stamp (s : State) (c : Nat) : W32 × State :=
  ((s.crs c).arrivals, s.modCrs c fun y => { y with arrivals := y.arrivals + 1 })

/-- Pending slots are freed; their items never run (R105). -/
def State.freeSpawns (s : State) (l : List (Nat × Nat)) : State := l.foldl (fun s x => s.freeHod x.1 x.2) s

/-! ## Faults and halts (R112, R120, R461) -/

def faultIllegal : BitVec 8 := 0x01
def faultAddr : BitVec 8 := 0x02
def faultExtent : BitVec 8 := 0x03
def faultAccess : BitVec 8 := 0x04
def faultFormat : BitVec 8 := 0x05
def faultReduce : BitVec 8 := 0x06
def faultCheck : BitVec 8 := 0x07
def faultPierUe : BitVec 8 := 0x08
def faultCsUe : BitVec 8 := 0x09
def faultLsLost : BitVec 8 := 0x0A
def faultOrphanLs : BitVec 8 := 0x0B
def faultNetFail : BitVec 8 := 0x0C

/-- Codes whose action halts the partition (table of engine fault codes). -/
def haltingCode (code : BitVec 8) : Bool := decide (code ≥ faultCheck) && decide (code ≤ faultNetFail)

/-- A halting fault of engine `e` (none: of no engine) that comes in the cycle of the recorded one takes its place: an
engine's before one of no engine, the lower engine's before the higher's (R120). -/
def Part.yields (x : Part) (e : Option Nat) (now : Nat) : Bool :=
  x.haltAt == now && !x.resetBusy && match e with
    | some n => x.haltNoEngine || decide (n < x.haltEngine)
    | none => false

/-- A partition halts; PART_HALT keeps the first cause (R112, R120). -/
def State.haltPart (s : State) (p : Nat) (code : BitVec 8) (e : Option Nat) : State :=
  s.modPart p fun x =>
    if x.halted && !x.yields e s.gen.time then x
    else { x with halted := true, haltCause := code, haltEngine := e.getD 0, haltNoEngine := e.isNone,
                  haltAt := s.gen.time }

/-- A fault is recorded in an engine's registers, or as OVERRUN. -/
def State.recordFault (s : State) (e : Nat) (code opc : BitVec 8) (pc : Nat) (addr : W64) : State :=
  (s.modEng e fun x =>
    if x.faultValid then { x with faultOver := true }
    else { x with faultValid := true, faultCode := code, faultOpc := opc, faultPc := pc % 2 ^ 22, faultAddr := addr }).stick
    [if (s.eng e).faultValid then .engFaultOver e else .engFaultValid e]

/-- An LS_DEP item that comes to an orphan is not run: the partition halts with ORPHAN_LS, met by the orphan (R117,
notes/assumptions/16.md). -/
def State.orphanLs (s : State) (o : Nat) (d : ItemDesc) : State :=
  if !d.lsDep then s
  else
    let s := s.recordFault o faultOrphanLs 0 0 0
    let s := s.ctxFault d.ctx faultOrphanLs 0 o d.seq
    match s.partOfEngine o with
    | some p => s.haltPart p faultOrphanLs (some o)
    | none => s

/-- An item in slot (c, k) becomes ready: stamped, counted, and placed in its context (R102, R244). An LS_DEP item pinned
to an engine that has become an orphan is not run (R117). -/
def State.makeReady (s : State) (c k : Nat) : State :=
  match s.hodSlot c k with
  | none => s
  | some x =>
    let (st, s) := s.stamp c
    let s := s.setHod c k { x with status := .ready, stamp := st, listed := c }
    let s := s.modCrs c fun y => { y with hodIn := satAdd 64 y.hodIn 1 }
    let s := (s.ctxPlaced x.desc.ctx).requestWake c
    if x.desc.pinned && (s.eng x.desc.affinity).orphan then s.orphanLs x.desc.affinity x.desc else s

/-- The engine lets go of its item: its working state becomes that of no item. -/
def Engine.release (x : Engine) : Engine :=
  { x with act := if x.act = .disabled then .disabled else .idle, item := none, rehomed := none, numstat := 0,
           contrib := none, flushes := [], spawns := [], undo := [] }

/-- Operations of the item in slot (c, k) run on without it (R461). -/
def Engine.orphanOps (x : Engine) (c k : Nat) : Engine :=
  { x with copies := x.copies.map fun o => if o.homeCourse = c && o.slot = k then { o with live := false } else o,
           nets := x.nets.map fun o => if o.homeCourse = c && o.slot = k then { o with live := false } else o }

/-- Whatever the item in slot (c, k) has outstanding on any engine, the one that runs it or an orphan it was issued for,
runs on without it (R461). -/
def State.dropOps (s : State) (c k : Nat) : State :=
  { s with engines := s.engines.map fun (e, x) => (e, x.orphanOps c k) }

/-- The item that engine `e` runs ends without finishing (R112): pending spawns freed, contribution discarded, slot
freed, counted as ended. -/
def State.endRunning (s : State) (e : Nat) : State :=
  let x := s.eng e
  match x.item with
  | none => s
  | some (c, k) =>
    let ctx := ((s.hodSlot c k).map (·.desc.ctx)).getD 0
    let s := s.freeSpawns x.spawns
    let s := (s.dropOps c k).modEng e Engine.release
    (s.freeHod c k).ctxDone ctx false

/-- A yielded item ends (R461). -/
def State.endYielded (s : State) (c k : Nat) : State :=
  match s.hodSlot c k with
  | none => s
  | some h =>
    let s := s.freeSpawns ((h.saved.map (·.spawns)).getD [])
    ((s.dropOps c k).freeHod c k).ctxDone h.desc.ctx false

/-- The running item of engine `e` meets CHECK (R112): it ends; with REEXEC it waits to be executed again, its
context unfaulted and its flag changes kept for undoing (R113); otherwise the partition halts. The slot waits for its
retirement (R114). -/
def State.checkFault (s : State) (e : Nat) (opc : BitVec 8) (pc : Nat) (addr : W64) : State :=
  let s := s.recordFault e faultCheck opc pc addr
  let s := s.modEng e fun x => { x with check := satAdd 32 x.check 1, checkMet := true }
  match (s.eng e).item with
  | none => s
  | some (c, k) =>
    match s.hodSlot c k with
    | none => s
    | some h =>
      if h.desc.reexec then
        let x := s.eng e
        (s.freeSpawns x.spawns).setEng e { x.release with undo := x.undo, reexecItem := some (c, k), rehomed := x.rehomed }
      else
        let s := (s.ctxFault h.desc.ctx faultCheck opc e h.desc.seq).endRunning e
        match s.partOfEngine e with
        | some p => s.haltPart p faultCheck (some e)
        | none => s

/-- A synchronous fault of the running item of engine `e` (R112). A halting fault leaves the item where it stopped;
any other ends it; CHECK is `checkFault`. -/
def State.itemFault (s : State) (e : Nat) (code opc : BitVec 8) (pc : Nat) (addr : W64) : State :=
  if code = faultCheck then s.checkFault e opc pc addr
  else
    let s := s.recordFault e code opc pc addr
    match (s.eng e).item with
    | none => s
    | some (c, k) =>
      let s := match s.hodSlot c k with
        | some h => s.ctxFault h.desc.ctx code opc e h.desc.seq
        | none => s
      if haltingCode code then
        match s.partOfEngine e with
        | some p => s.haltPart p code (some e)
        | none => s
      else s.endRunning e

/-- The engine that runs the item in slot (c, k), else engine `e`, which issued for it. -/
def State.runner (s : State) (e c k : Nat) : Nat :=
  match s.hodSlot c k with
  | none => e
  | some h => match h.status with
    | .running r => r
    | _ => e

/-- A yielded REEXEC item, an operation of which has met CHECK, is to be executed again; its flag changes are kept for undoing
(R113, R461). -/
def State.failYielded (s : State) (c k : Nat) : State :=
  match s.hodSlot c k with
  | none => s
  | some h =>
    let v := h.saved.map fun (v : Saved) =>
      { v with numstat := 0, contrib := none, flushes := [], spawns := [], itemCyc := 0, failed := true }
    (s.freeSpawns ((h.saved.map (·.spawns)).getD [])).setHod c k { h with saved := v }

/-- An operation of an item that does not run meets CHECK: the slot retires, between items of its engine (R114). -/
def Engine.checked (x : Engine) : Engine :=
  let free := x.item.isNone && x.reexecItem.isNone
  { x with check := satAdd 32 x.check 1, checkMet := x.checkMet || free, retireDue := x.retireDue || !free }

/-- A failure of an asynchronous operation of the item in slot (c, k), issued by engine `e` at `pc` (R461): of its
running item, of a yielded item, or of an item that has ended (`live` false). Of an item that is to be executed again, CHECK asks
no more. -/
def State.asyncFault (s : State) (e c k : Nat) (live : Bool) (code opc : BitVec 8) (pc : Nat) (addr : W64) : State :=
  let halt (s : State) : State :=
    if haltingCode code then
      match s.partOfEngine e with
      | some p => s.haltPart p code (some e)
      | none => s
    else s
  let r := s.runner e c k
  if live && (s.eng r).item == some (c, k) then s.itemFault r code opc pc addr
  else
    let s := s.recordFault e code opc pc addr
    let s := if code = faultCheck then s.modEng e Engine.checked else s
    match (if live then s.hodSlot c k else none) with
    | none => halt s
    | some h =>
      if (s.eng r).reexecItem == some (c, k) || h.saved.any (·.failed) then (if code = faultCheck then s else halt s)
      else if code = faultCheck && h.desc.reexec then s.failYielded c k
      else halt ((s.ctxFault h.desc.ctx code opc e h.desc.seq).endYielded c k)

end Sys2Proof.Machine
end

