-- ==== Sys2Proof/Machine/Choose.lean ====
section
/-!
DEFINITION. How an engine chooses its next item: its own hod, orphans it hosts, stealing, and requests of one cycle
(R101, R106 to R110, R116, R117); and how a slot retires (R114).
-/
namespace Sys2Proof.Machine

/-- A logical engine carried by a physical slot. -/
def State.hasSlot (s : State) (e : Nat) : Bool := (s.eng e).slot != 0x3F && !(s.eng e).orphan

/-- The host engine of an orphan (R116): the next enabled engine of the course, in increasing E modulo 32, that has a
slot. -/
def State.hostEngine (s : State) (o : Nat) : Option Nat :=
  ((List.range 31).map fun i => o / 32 * 32 + (o + 1 + i) % 32).find? fun e => s.engEnabled e && s.hasSlot e

/-- The engines whose pinned and yielded items engine `e` runs: itself and the orphans it hosts. -/
def State.serves (s : State) (e : Nat) : List Nat :=
  e :: ((List.range 32).map fun i => e / 32 * 32 + i).filter fun o => (s.eng o).orphan && s.hostEngine o == some e

/-- An item that an engine may choose: home course, slot, the slot's contents, and the engine it is tied to. -/
structure Candidate where
  c : Nat
  k : Nat
  h : HodSlot
  tied : Option Nat
  deriving DecidableEq, Repr

/-- The engine a hod slot's item is tied to, when it is ready or yielded. -/
def HodSlot.tie (h : HodSlot) : Option (Option Nat) :=
  match h.status with
  | .ready => some (if h.desc.pinned then some h.desc.affinity else none)
  | .yielded e => some (some e)
  | _ => none

/-- A copy of the item in slot (c, k) is outstanding. -/
def State.copiesOut (s : State) (c k : Nat) : Bool :=
  s.engines.any fun (_, x) => x.copies.any fun o => o.homeCourse == c && o.slot == k && o.live && !o.reset

/-- The items of hod `c` that engine `e` may run (R106): those listed there, unpinned or tied to an engine it
serves. One to be executed again waits for its copies (R113). -/
def State.ownItems (s : State) (e : Nat) : List Candidate :=
  s.courses.flatMap fun (c, y) => y.hod.filterMap fun (k, h) =>
    if h.listed ≠ e / 32 || (h.saved.any (·.failed) && s.copiesOut c k) then none
    else match h.tie with
      | none => none
      | some none => some { c := c, k := k, h := h, tied := none }
      | some (some t) => if (s.serves e).contains t then some { c := c, k := k, h := h, tied := some t } else none

/-- What engine `e` prefers among its own items: one to be executed again (R114), PRIO, then the AFFINITY of the engine
(of the orphan, for an item tied to one), then age, then its own before an orphan's (R106, R116). -/
def Candidate.rank (e : Nat) (x : Candidate) : Nat × Nat × Nat × Nat :=
  (if x.h.saved.any (·.failed) then 0 else 8 - x.h.desc.prio,
    if x.h.desc.affinity = e || x.tied == some x.h.desc.affinity then 0 else 1, x.h.stamp.toNat,
    if x.tied.getD e = e then 0 else 1)

/-- Lexicographic order of ranks. -/
def rankLt (a b : Nat × Nat × Nat × Nat) : Bool :=
  let (a1, a2, a3, a4) := a
  let (b1, b2, b3, b4) := b
  a1 < b1 || (a1 == b1 && (a2 < b2 || (a2 == b2 && (a3 < b3 || (a3 == b3 && a4 < b4)))))

/-- The first of the best candidates. -/
def bestOf (rank : Candidate → Nat × Nat × Nat × Nat) : List Candidate → Option Candidate
  | [] => none
  | x :: t => match bestOf rank t with
    | none => some x
    | some y => some (if rankLt (rank y) (rank x) then y else x)

/-- The courses that engine `e` probes when it steals (R108). -/
def stealOrder (c near : Nat) (far : Bool) : List Nat :=
  let d := c / 16
  let l := c % 16
  (List.range near).map (fun k => 16 * d + (l + k + 1) % 16) ++
  if !far then [] else
    [(d + 1) % 4, (d + 3) % 4, (d + 2) % 4].flatMap fun x => (List.range 16).map fun k => 16 * x + (l + k) % 16

/-- The unpinned ready items of a hod. -/
def State.stealable (s : State) (c : Nat) : List Candidate :=
  (s.crs c).hod.filterMap fun (k, h) =>
    if h.status == .ready && !h.desc.pinned then some { c := c, k := k, h := h, tied := none } else none

/-- The item an engine steals: from the first hod of its order with an unpinned ready item, the oldest of the highest
priority (R108, R109). -/
def State.stealItem (s : State) (e : Nat) : Option Candidate :=
  match s.partOfEngine e with
  | none => none
  | some p =>
    match Tab.find? s.cfg.hod p with
    | none => none
    | some hc =>
      if !hc.steal then none
      else ((stealOrder (e / 32) hc.near hc.far).filter fun c => s.partOfCourse c == some p).findSome? fun c =>
        bestOf (fun x => (7 - x.h.desc.prio, x.h.stamp.toNat, 0, 0)) (s.stealable c)

/-- An engine that looks for an item: enabled, with a slot that is not retiring, idle, its course awake. -/
def State.seeks (s : State) (e : Nat) : Bool :=
  let x := s.eng e
  s.live && s.engEnabled e && s.hasSlot e && x.act == .idle && x.replacing.isNone && !x.checkMet &&
  x.reexecItem.isNone && s.courseAwake (e / 32)

/-- An engine that may choose: it looks for an item, and its partition runs. -/
def State.mayChoose (s : State) (e : Nat) : Bool :=
  s.seeks e &&
  (match s.partOfEngine e with | some p => !s.halted p && !(s.part p).resetBusy | none => false)

/-- Offset in its course store of a hod slot's save area (R73, R107). -/
def saveArea (k : Nat) : Nat := 0x3E0000 + 512 * k

/-- g1 to g63 from a save area. -/
def savedRegs (bs : List Byte) : Tab W64 :=
  (List.range 63).foldl (fun g i =>
    Tab.put 0 g (i + 1) (BitVec.ofNat 64 (fieldAt bs (8 * (i + 1)) 8))) []

/-- The flag changes of a failed attempt are undone on engine `t` (R113). -/
def State.undoFlags (s : State) (t : Nat) (l : List (Nat × W32)) : State := l.foldl (fun s (f, v) => s.flagSub t f v) s

/-- An item starts on engine `e`: afresh (R101), where it yielded (R107), or, when an operation of it met CHECK
meanwhile, afresh with its flag changes undone (R113). -/
def State.startItem (s : State) (e : Nat) (x : Candidate) : State :=
  let area := s.readLoc (.cs x.c (saveArea x.k)) 512
  let failed := x.h.saved.filter (·.failed)
  let s := s.undoFlags (x.tied.getD e) ((failed.map (·.undo)).getD [])
  let s := s.setHod x.c x.k { x.h with status := .running e, saved := none }
  s.modEng e fun y =>
    let y := { y with act := .run, item := some (x.c, x.k), v := [], bufs := [], accs := [],
                      rehomed := match x.tied with | some t => if t = e then none else some t | none => none,
                      resumed := x.h.saved.isSome && failed.isNone,
                      reexec := if failed.isSome then satAdd 32 y.reexec 1 else y.reexec }
    match x.h.saved.filter (!·.failed) with
    | none =>
      { y with pc := x.h.desc.entry,
               g := Tab.put 0 (Tab.put 0 (Tab.put 0 [] 1 x.h.desc.arg) 2 (x.h.desc.seq.setWidth 64)) 3
                 (BitVec.ofNat 64 x.c),
               numstat := 0, contrib := none, flushes := [], spawns := [], undo := [], itemCyc := 0 }
    | some v =>
      { y with pc := fieldAt area 0 8, g := savedRegs area, numstat := v.numstat, contrib := v.contrib,
               flushes := v.flushes, spawns := v.spawns, undo := v.undo, itemCyc := v.itemCyc }

/-- Engine `e` takes its next item from what it may run, or steals one. -/
def State.takeNext (s : State) (e : Nat) : State :=
  match bestOf (Candidate.rank e) (s.ownItems e) with
    | some x =>
      match x.tied with
      | some t => if t ≠ e && x.h.desc.lsDep then s.orphanLs t x.h.desc else s.startItem e x
      | none => s.startItem e x
    | none =>
      match s.stealItem e with
      | none => s
      | some x =>
        let s := s.modEng e fun y => { y with stolen := satAdd 64 y.stolen 1 }
        let s := s.modCrs x.c fun y => { y with hodStolen := satAdd 64 y.hodStolen 1 }
        s.startItem e x

/-! ## Slots that retire (R114, R116, R117) -/

/-- Free spares of a course: spare slots that no retiring engine is being copied to. -/
def State.freeSpares (s : State) (c : Nat) : List Nat :=
  (List.range 34).filter fun k => Tab.get 0 (s.crs c).phys k == 1 &&
    !((List.range 32).any fun i => (s.eng (32 * c + i)).replacing == some k)

/-- The LS_DEP items that wait for engine `e` when it becomes an orphan halt their partition (R117). -/
def State.orphanItems (s : State) (e : Nat) : State :=
  s.courses.foldl (fun s (_, y) => y.hod.foldl (fun s (_, h) =>
    if h.tie == some (some e) then s.orphanLs e h.desc else s) s) s

/-- The slot of engine `e` is marked RETIRED: its contents go to a spare, or the engine becomes an orphan (R114, R116). -/
def State.retire (s : State) (e : Nat) : State :=
  let c := e / 32
  let k := (s.eng e).slot
  let sp := (s.freeSpares c).head?
  let s := s.modCrs c fun y => { y with phys := Tab.put 0 y.phys k 2 }
  let s := { s with sec := { s.sec with repairs := s.sec.repairs ++ [RepairChange.slot c k] } }
  match sp with
  | some j => s.modEng e fun x => { x with replacing := some j, retireDue := false, eccLog := [] }
  | none =>
    (s.modEng e fun x =>
      { x with orphan := true, slot := 0x3F, checkMet := false, retireDue := false, eccLog := [] }).orphanItems e

/-- The turn of engine `e`, when it may choose: a retirement that waited for the end of an item comes first (R114); otherwise
it takes its next item, if it finds one. -/
def State.takeTurn (s : State) (e : Nat) : State :=
  if !s.mayChoose e then s else if (s.eng e).retireDue then s.retire e else s.takeNext e

/-! ## Requests of one cycle (R110) -/

/-- The hod that engine `e` would take an item from. -/
def State.targetHod (s : State) (e : Nat) : Option Nat :=
  if s.ownItems e ≠ [] then some (e / 32) else (s.stealItem e).map (·.c)

/-- The idle engines whose requests reach the hod with that of engine `e` and win against it, in the order in which
they win: the engines of the hod's own course first, and lower numbers before higher (R110). -/
def State.rivals (s : State) (e : Nat) : List Nat :=
  match s.targetHod e with
  | none => []
  | some c =>
    let all := (s.engines.map (·.1)).filter fun o => o ≠ e && s.mayChoose o && s.targetHod o == some c
    let home := all.filter fun o => o / 32 == c
    if e / 32 = c then home.filter (· < e) else home ++ all.filter fun o => o / 32 ≠ c && o < e

/-- Engine `e` chooses its next item, after the engines that win against it in the same cycle (R106, R110). -/
def State.choose (s : State) (e : Nat) : State :=
  if s.mayChoose e then ((s.rivals e).foldl State.takeTurn s).takeTurn e else s

end Sys2Proof.Machine
end

