-- ==== Sys2Proof/Machine/Operands.lean ====
section
/-!
DEFINITION. Operands of engine instructions: instruction words and their fields (R76), general and vector registers,
engine addresses (R72 to R74), local-store operands (R460) and extents (R99, R100).
-/
namespace Sys2Proof.Machine

/-- A fault code and the address it records. -/
abbrev Err := BitVec 8 × W64

def err (code : BitVec 8) (a : W64 := 0) : Err := (code, a)

/-- Go on when a condition holds; otherwise the fault. -/
def require (ok : Bool) (e : Err) : Except Err Unit := if ok then .ok () else .error e

/-! ## Instruction words (R76) -/

/-- The word of an instruction. -/
def wordOf (opc : BitVec 8) (f : Fields) : W64 := opc ++ f.d ++ f.a ++ f.b ++ f.c ++ f.imm

/-- The opcodes of the instruction tables. -/
def knownOpc (o : Nat) : Bool :=
  o ≤ 0x18 || (0x20 ≤ o && o ≤ 0x22) || (0x30 ≤ o && o ≤ 0x35) || (0x40 ≤ o && o ≤ 0x55) ||
  (0x60 ≤ o && o ≤ 0x65) || (0x70 ≤ o && o ≤ 0x73) || (0x80 ≤ o && o ≤ 0x83) || (0xF0 ≤ o && o ≤ 0xF2)

/-- How an instruction uses its fields: unused, a register or literal of six bits, or a vector register. -/
inductive Use where
  | no | any | vec
  deriving DecidableEq, Repr

def Use.ok : Use → BitVec 6 → Bool
  | .no, x => x == 0
  | .any, _ => true
  | .vec, x => decide (x < 32)

/-- A nonzero unused field, an IMM bit without meaning, or a vector register above v31 is ILLEGAL. -/
def checkFields (f : Fields) (d a b c : Use) (imm : BitVec 32) : Except Err Unit :=
  require (d.ok f.d && a.ok f.a && b.ok f.b && c.ok f.c && (f.imm &&& ~~~imm) == 0) (err faultIllegal)

def immAll : BitVec 32 := 0xFFFFFFFF

def sextImm (f : Fields) : W64 := f.imm.signExtend 64

/-! ## Registers -/

/-- gr: g0 reads as zero. -/
def Engine.gr (x : Engine) (r : BitVec 6) : W64 := if r = 0 then 0 else Tab.get 0 x.g r.toNat

/-- Write gr: writes to g0 are discarded. -/
def Engine.setG (x : Engine) (r : BitVec 6) (v : W64) : Engine :=
  if r = 0 then x else { x with g := Tab.put 0 x.g r.toNat v }

/-- Y of R77. -/
def Engine.y (x : Engine) (f : Fields) : W64 := x.gr f.b + sextImm f

/-- Lane `l` of vr. -/
def Engine.lane (x : Engine) (r l : Nat) : W32 := Tab.get 0 x.v (32 * r + l)

/-- The 32 lanes of vr. -/
def Engine.vr (x : Engine) (r : Nat) : List W32 := (List.range 32).map (x.lane r)

/-- A whole register's entries. -/
def laneCells (r : Nat) (vs : List W32) : Tab W32 :=
  (vs.zipIdx.map fun (v, l) => (32 * r + l, v)).filter fun e => e.2 ≠ 0

/-- Write the lanes of vr. -/
def Engine.setV (x : Engine) (r : Nat) (vs : List W32) : Engine :=
  { x with v := Tab.below x.v (32 * r) ++ laneCells r (vs.take 32) ++ Tab.from x.v (32 * r + 32) }

/-- Registers r, r + 1, … are written in turn. -/
def Engine.setVs (x : Engine) : Nat → List (List W32) → Engine
  | _, [] => x
  | r, vs :: t => (x.setV r vs).setVs (r + 1) t

/-- 32 lanes as 128 bytes, and back (R78). -/
def laneBytes (vs : List W32) : List Byte := vs.flatMap fun v => leBytes 4 v.toNat
def bytesLanes (bs : List Byte) : List W32 := (chunks 4 bs).map fun c => BitVec.ofNat 32 (leNat c)

/-! ## The running item -/

/-- The item an engine runs: its home course, hod slot, descriptor and partition. -/
structure Run where
  e : Nat
  c : Nat
  k : Nat
  d : ItemDesc
  part : Nat
  deriving DecidableEq, Repr

/-- What engine `e` runs. -/
def State.run (s : State) (e : Nat) : Option Run :=
  match (s.eng e).item with
  | none => none
  | some (c, k) =>
    match s.hodSlot c k, s.partOfEngine e with
    | some h, some p => some { e := e, c := c, k := k, d := h.desc, part := p }
    | _, _ => none

/-- The engine whose flags the item addresses: the orphan, for a re-homed item (R116). -/
def State.flagEngine (s : State) (e : Nat) : Nat := ((s.eng e).rehomed).getD e

/-! ## Local-store operands (R460) -/

def lsSize : Nat := 0x60000
def csUsable : Nat := 0x3E0000

/-- A local-store operand of `n` bytes lies wholly in local store, or ADDR. -/
def lsSpan (off n : Nat) : Except Err Unit :=
  require (decide (off < lsSize) && decide (off + n ≤ lsSize)) (err faultAddr (BitVec.ofNat 64 off))

/-- The new bytes that outstanding writes bring to a span of local store: old and new value of each byte. -/
def overlay (e off : Nat) (old : List (Byte × Byte)) : List (Loc × List Byte) → List (Byte × Byte)
  | [] => old
  | (.ls e' d, bs) :: t =>
    let old := if e' ≠ e then old else old.zipIdx.map fun (p, i) =>
      if d ≤ off + i && off + i < d + bs.length then (p.1, bs.getD (off + i - d) p.2) else p
    overlay e off old t
  | _ :: t => overlay e off old t

/-- The bytes of an engine's local store as its program reads them: a byte that an outstanding copy will write holds
its old or its new value, freely (R82). -/
def State.lsRead (s : State) (e off n : Nat) : List Byte :=
  let bs := s.readLoc (.ls e off) n
  if (s.eng e).copies.isEmpty then bs
  else mixBytes (s.freeCtr + off) (overlay e off (bs.map fun b => (b, b)) ((s.eng e).copies.flatMap (·.outs)))

/-- The bytes of a local-store operand of the executing engine. -/
def State.lsBytes (s : State) (e off n : Nat) : Except Err (List Byte) :=
  match lsSpan off n with
  | .error x => .error x
  | .ok _ => .ok (s.lsRead e off n)

/-! ## Engine addresses (R72 to R74) -/

/-- Malformed under R72 or in the save area (R73): SPACE 3, a bit outside the fields, an offset beyond the space. -/
def eaMalformed (a : W64) : Bool :=
  let v := a.toNat
  match v / 2 ^ 62 with
  | 0 => decide (v ≥ lsSize)
  | 1 => bits v 60 54 != 0 || bits v 47 22 != 0 || (bit v 61 && bits v 53 48 != 0) || decide (bits v 21 0 ≥ csUsable)
  | 2 => bits v 61 41 != 0
  | _ => true

/-- The place a well-formed engine address names, HOME resolved. -/
def eaLoc (e home : Nat) (a : W64) : Loc :=
  let v := a.toNat
  match v / 2 ^ 62 with
  | 0 => .ls e (bits v 18 0)
  | 1 => .cs (if bit v 61 then home else bits v 53 48) (bits v 21 0)
  | _ => .pier (bits v 40 0)

/-- The engine address of an offset in a course store (R72). -/
def csAddr (c off : Nat) : W64 := BitVec.ofNat 64 (2 ^ 62 + 2 ^ 48 * c + off)

/-- A partition may name a place (R74): its own courses' store; pier space in a region it owns or that is module-wide,
outside the buddy area (R221). -/
def State.mayName (s : State) (p : Nat) (l : Loc) : Bool :=
  match l with
  | .ls _ _ => true
  | .cs c _ => s.partOfCourse c == some p
  | .pier a => match s.regionAt a with
    | none => false
    | some r => !r.buddy && (r.owner == 0xFF || r.owner == p)

/-- Bytes from a place to the end of its space or region. -/
def State.room (s : State) (l : Loc) : Nat :=
  match l with
  | .ls _ o => lsSize - o
  | .cs _ o => csUsable - o
  | .pier a => match s.regionAt a with
    | none => 0
    | some r => r.base + r.size - a

/-- The place of a span that an engine of partition `p` names (R72 to R74, R81): ADDR when malformed or when a
course-store span reaches the save area, ACCESS when it may not be named, EXTENT past its space or region. -/
def State.resolve (s : State) (e home p : Nat) (a : W64) (n : Nat) : Except Err Loc :=
  if eaMalformed a then .error (err faultAddr a)
  else
    let l := eaLoc e home a
    if !s.mayName p l then .error (err faultAccess a)
    else if s.room l < n then
      .error (err (match l with | .cs _ _ => faultAddr | _ => faultExtent) a)
    else .ok l

/-! ## Extents (R99, R100) -/

/-- The extents IN0, IN1 and OUT of a descriptor: base and length; a length of zero is absent. -/
def ItemDesc.spans (d : ItemDesc) : List (W64 × Nat) :=
  [(d.in0Base, d.in0Len), (d.in1Base, d.in1Len), (d.outBase, d.outLen)]

/-- The extents and the argument block. -/
def ItemDesc.extents (d : ItemDesc) : List (W64 × Nat) := d.spans ++ [(d.arg, if d.arg = 0 then 0 else 256)]

/-- A span lies in one of the extents an access may use: OUT for a write; IN0, IN1, OUT or the argument block for a
read. -/
def ItemDesc.admits (d : ItemDesc) (home : Nat) (wr : Bool) (l : Loc) (n : Nat) : Bool :=
  let es := if wr then [(d.outBase, d.outLen)] else d.extents
  es.any fun (b, k) => k != 0 && !eaMalformed b && within l n (eaLoc 0 home b) k

/-- A span of a copy, plinth operation or LOCAL operand: resolved, within the extents, and for a write of an EVAL
item outside CAST regions (R81, R100, R248). -/
def State.operand (s : State) (r : Run) (wr : Bool) (a : W64) (n : Nat) : Except Err Loc :=
  match s.resolve r.e r.c r.part a n with
  | .error x => .error x
  | .ok l =>
    match l with
    | .ls _ _ => .ok l
    | _ =>
      if !r.d.admits r.c wr l n then .error (err faultExtent a)
      else match l with
        | .pier o => if wr && r.d.eval && s.touches (·.cast) o n then .error (err faultAccess a) else .ok l
        | _ => .ok l

/-- FLUSH and REPORT (R90, R211, R248): zero names nothing; malformed is ADDR; local store, a place the partition may
not name, or for an EVAL item a CAST region is ACCESS. (DEDUCED, notes/assumptions/15.md: a span that runs from one region
into another is ACCESS.) -/
def State.exempt (s : State) (r : Run) (a : W64) (n : Nat) : Except Err (Option Loc) :=
  if a = 0 then .ok none
  else if eaMalformed a then .error (err faultAddr a)
  else
    let l := eaLoc r.e r.c a
    let cast := match l with | .pier o => r.d.eval && s.touches (·.cast) o n | _ => false
    let ls := match l with | .ls _ _ => true | _ => false
    if ls || cast || !s.mayName r.part l || decide (s.room l < n) then .error (err faultAccess a) else .ok (some l)

/-! ## Issue (R70, R75, R112) -/

/-- The engine may issue an instruction now: the module runs, the engine is in RUN, its partition is not halted and
its course clock runs. -/
def State.mayIssue (s : State) (e : Nat) : Bool :=
  s.live && (s.eng e).act == .run && s.courseAwake (e / 32) &&
  (match s.partOfEngine e with | some p => !s.halted p | none => false)

/-- The partition of engine `e` has been halted in the present cycle, and by another than this engine, which so meets a fault
of its own of that cycle before it stops (R112, R120). -/
def State.haltedNow (s : State) (e : Nat) : Bool :=
  !s.setNow.contains (.engFaultValid e) && !s.setNow.contains (.engFaultOver e) &&
  match s.partOfEngine e with
  | some p => s.halted p && !(s.part p).resetBusy && (s.part p).haltAt == s.gen.time
  | none => false

/-- Engine `e` may meet a fault at its next instruction. -/
def State.mayFault (s : State) (e : Nat) : Bool :=
  s.mayIssue e || (s.live && (s.eng e).act == .run && s.courseAwake (e / 32) && s.haltedNow e)

/-- The program counter moves on by one instruction. -/
def Engine.next (x : Engine) : Engine := { x with pc := (x.pc + 8) % 2 ^ 64 }

/-- Issue the instruction with opcode `opc` and fields `f` on engine `e`, when its sequencer stands at that word. The
sequencer fetches from the store of its own course (R75); a fetch outside the usable store faults with ADDR (R77,
R103), an unknown opcode with ILLEGAL. `body` sees the state with the program counter moved on; a fault leaves every
other effect undone. -/
def State.issue (s : State) (e : Nat) (opc : BitVec 8) (f : Fields) (body : Run → State → Except Err State) : State :=
  if !s.mayIssue e then s
  else match s.run e with
    | none => s
    | some r =>
      let pc := (s.eng e).pc
      if pc % 8 ≠ 0 ∨ pc + 8 > csUsable then (s.itemFault e faultAddr 0 pc (BitVec.ofNat 64 pc)).choose e
      else
        let w := leNat (s.readLoc (.cs (e / 32) pc) 8)
        let o := w / 2 ^ 56
        if !knownOpc o then (s.itemFault e faultIllegal (BitVec.ofNat 8 o) pc 0).choose e
        else if w ≠ (wordOf opc f).toNat then s
        else match body r (s.modEng e Engine.next) with
          | .ok t => if (s.eng e).copies.isEmpty then t else { t with freeCtr := t.freeCtr + lsSize }
          | .error (code, a) => (s.itemFault e code opc pc a).choose e

/-- Change the issuing engine only. -/
def onEngine (e : Nat) (g : Engine → Engine) (s : State) : Except Err State := .ok (s.modEng e g)

/-- Set numeric status bits of the running item. -/
def Engine.status (x : Engine) (b : BitVec 3) : Engine := { x with numstat := x.numstat ||| b }

end Sys2Proof.Machine
end

