-- ==== Sys2Proof/Machine/LoadStore.lean ====
section
/-!
DEFINITION. Local-store loads and stores, opcodes 0x10 to 0x18 (R78, R138, R460).
-/
namespace Sys2Proof.Machine

/-- The local-store offset gA + sext(IMM) of an access of `n` bytes with an alignment (R78). -/
def lsAccess (a : W64) (n align : Nat) : Except Err Nat :=
  if a.toNat % align ≠ 0 then .error (err faultAddr a)
  else match lsSpan a.toNat n with
    | .error x => .error x
    | .ok _ => .ok a.toNat

/-- The address of an access. -/
def Engine.addr (x : Engine) (f : Fields) : W64 := x.gr f.a + sextImm f

def ldBody (f : Fields) (n : Nat) (r : Run) (s : State) : Except Err State := do
  checkFields f .any .any .no .no immAll
  let off ← lsAccess ((s.eng r.e).addr f) n n
  let bs := s.lsRead r.e off n
  onEngine r.e (fun x => x.setG f.d (BitVec.ofNat 64 (leNat bs))) s

def stBody (f : Fields) (n : Nat) (r : Run) (s : State) : Except Err State := do
  checkFields f .no .any .any .no immAll
  let x := s.eng r.e
  let off ← lsAccess (x.addr f) n n
  .ok (s.writeLoc (.ls r.e off) (leBytes n (x.gr f.b).toNat))

def vldBody (f : Fields) (r : Run) (s : State) : Except Err State := do
  checkFields f .vec .any .no .no immAll
  let off ← lsAccess ((s.eng r.e).addr f) 128 4
  let bs := s.lsRead r.e off 128
  onEngine r.e (fun x => x.setV f.d.toNat (bytesLanes bs)) s

def vstBody (f : Fields) (r : Run) (s : State) : Except Err State := do
  checkFields f .no .any .vec .no immAll
  let x := s.eng r.e
  let off ← lsAccess (x.addr f) 128 4
  .ok (s.writeLoc (.ls r.e off) (laneBytes (x.vr f.b.toNat)))

/-- The offsets address + i × gC of the lanes, each checked (R78). -/
def laneOffs (a step : W64) : Except Err (List Nat) :=
  (List.range 32).mapM fun i => lsAccess (a + BitVec.ofNat 64 i * step) 4 4

def vldsBody (f : Fields) (r : Run) (s : State) : Except Err State := do
  checkFields f .vec .any .no .any immAll
  let x := s.eng r.e
  let offs ← laneOffs (x.addr f) (x.gr f.c)
  let vs := offs.map fun off => BitVec.ofNat 32 (leNat (s.lsRead r.e off 4))
  onEngine r.e (fun x => x.setV f.d.toNat vs) s

def vstsBody (f : Fields) (r : Run) (s : State) : Except Err State := do
  checkFields f .no .any .vec .any immAll
  let x := s.eng r.e
  let offs ← laneOffs (x.addr f) (x.gr f.c)
  .ok ((offs.zip (x.vr f.b.toNat)).foldl (fun s (off, v) => s.writeLoc (.ls r.e off) (leBytes 4 v.toNat)) s)

/-- The coarse exponent of a C operand: C = 0 stands for 1.0 (R126). -/
def Engine.coarse (x : Engine) (c : BitVec 6) : Except Err Int :=
  if c = 0 then .ok 0
  else match coarseExp ((x.gr c).toNat % 2 ^ 32) with
    | some k => .ok k
    | none => .error (err faultFormat)

/-- FMT and SCALE of an operand, with the licence's numeric tier (R79, R130). -/
def State.fmtCheck (s : State) (fmt scale : Nat) : Except Err Unit :=
  require (fmtScaleOk fmt scale && (s.fullNumeric || (fmt != 0 && fmt != 6))) (err faultFormat)

/-- VLDD decodes one stored row of 32 elements (R138). -/
def vlddBody (f : Fields) (r : Run) (s : State) : Except Err State := do
  checkFields f .vec .any .any .any 0x3F
  let x := s.eng r.e
  let fmt := bits f.imm.toNat 3 0
  let shape := bits f.imm.toNat 5 4
  s.fmtCheck fmt shape
  let c ← x.coarse f.c
  let n := rowBytes fmt 32
  let sn := if shape = 1 then 8 else if shape = 2 then 1 else 0
  lsSpan (x.gr f.a).toNat n
  if sn ≠ 0 then lsSpan (x.gr f.b).toNat sn else .ok ()
  let bs := s.lsRead r.e (x.gr f.a).toNat n
  let sc := s.lsRead r.e (x.gr f.b).toNat sn
  let codes := if shape = 0 then [0] else sc.map (·.toNat)
  require (!(shape == 1 && codes.any (· ≥ 0x80))) (err faultFormat)
  let fs := unpackRow (fmtBits fmt) bs
  let blocks := if shape = 1 then chunks 4 fs else [fs]
  onEngine r.e (fun x => x.setV f.d.toNat ((blocks.zip codes).flatMap fun (b, code) => vlddBlock fmt shape code c b)) s

def execLdg (e : Nat) (f : Fields) (s : State) : Host.Outcome State Fault Refusal :=
  guarded (isEngine e) (s.issue e 0x10 f (ldBody f 8))

def execStg (e : Nat) (f : Fields) (s : State) : Host.Outcome State Fault Refusal :=
  guarded (isEngine e) (s.issue e 0x11 f (stBody f 8))

def execLd4 (e : Nat) (f : Fields) (s : State) : Host.Outcome State Fault Refusal :=
  guarded (isEngine e) (s.issue e 0x12 f (ldBody f 4))

def execSt4 (e : Nat) (f : Fields) (s : State) : Host.Outcome State Fault Refusal :=
  guarded (isEngine e) (s.issue e 0x13 f (stBody f 4))

def execVld (e : Nat) (f : Fields) (s : State) : Host.Outcome State Fault Refusal :=
  guarded (isEngine e) (s.issue e 0x14 f (vldBody f))

def execVst (e : Nat) (f : Fields) (s : State) : Host.Outcome State Fault Refusal :=
  guarded (isEngine e) (s.issue e 0x15 f (vstBody f))

def execVlds (e : Nat) (f : Fields) (s : State) : Host.Outcome State Fault Refusal :=
  guarded (isEngine e) (s.issue e 0x16 f (vldsBody f))

def execVsts (e : Nat) (f : Fields) (s : State) : Host.Outcome State Fault Refusal :=
  guarded (isEngine e) (s.issue e 0x17 f (vstsBody f))

def execVldd (e : Nat) (f : Fields) (s : State) : Host.Outcome State Fault Refusal :=
  guarded (isEngine e) (s.issue e 0x18 f (vlddBody f))

end Sys2Proof.Machine
end

