-- ==== Sys2Proof/Machine/Shake.lean ====
section
/-!
DEFINITION. SHAKE256 (the manual's digest: R218, R24, R337, R424) as FIPS 202 defines it, on the 25 lanes of the
Keccak state, lane x + 5y at index x + 5y.
-/
namespace Sys2Proof.Machine

/-- Rotation offsets of step ρ. -/
def keccakRot : List Nat :=
  [0, 1, 62, 28, 27, 36, 44, 6, 55, 20, 3, 10, 43, 25, 39, 41, 45, 15, 21, 8, 18, 2, 61, 56, 14]

/-- Round constants of step ι. -/
def keccakRc : List W64 :=
  [0x0000000000000001, 0x0000000000008082, 0x800000000000808A, 0x8000000080008000,
   0x000000000000808B, 0x0000000080000001, 0x8000000080008081, 0x8000000000008009,
   0x000000000000008A, 0x0000000000000088, 0x0000000080008009, 0x000000008000000A] ++
  [0x000000008000808B, 0x800000000000008B, 0x8000000000008089, 0x8000000000008003,
   0x8000000000008002, 0x8000000000000080, 0x000000000000800A, 0x800000008000000A,
   0x8000000080008081, 0x8000000000008080, 0x0000000080000001, 0x8000000080008008]

def lane64 (a : List W64) (i : Nat) : W64 := a.getD i 0

/-- Step θ. -/
def keccakTheta (a : List W64) : List W64 :=
  let c := (List.range 5).map fun x =>
    lane64 a x ^^^ lane64 a (x + 5) ^^^ lane64 a (x + 10) ^^^ lane64 a (x + 15) ^^^ lane64 a (x + 20)
  a.zipIdx.map fun (v, i) => v ^^^ lane64 c ((i % 5 + 4) % 5) ^^^ (lane64 c ((i % 5 + 1) % 5)).rotateLeft 1

/-- Steps ρ and π: lane (x, y) of the result is lane (x + 3y, x) rotated. -/
def keccakRhoPi (a : List W64) : List W64 :=
  (List.range 25).map fun i =>
    let j := (i % 5 + 3 * (i / 5)) % 5 + 5 * (i % 5)
    (lane64 a j).rotateLeft (keccakRot.getD j 0)

/-- Step χ. -/
def keccakChi (a : List W64) : List W64 :=
  (List.range 25).map fun i =>
    lane64 a i ^^^ (~~~(lane64 a ((i + 1) % 5 + 5 * (i / 5))) &&& lane64 a ((i + 2) % 5 + 5 * (i / 5)))

/-- One round. -/
def keccakRound (a : List W64) (rc : W64) : List W64 :=
  match keccakChi (keccakRhoPi (keccakTheta a)) with
  | [] => []
  | v :: t => (v ^^^ rc) :: t

def keccakF (a : List W64) : List W64 := keccakRc.foldl keccakRound a

/-- Bytes of one block of SHAKE256. -/
def shakeRate : Nat := 136

/-- XOR a block of at most 136 bytes into the state. -/
def absorbBlock (a : List W64) (bs : List Byte) : List W64 :=
  let ws := (chunks 8 bs).map fun c => BitVec.ofNat 64 (leNat c)
  a.zipIdx.map fun (v, i) => v ^^^ lane64 ws i

/-- The message with its SHAKE padding, a whole number of blocks. -/
def shakePad (m : List Byte) : List Byte :=
  let k := shakeRate - m.length % shakeRate
  if k = 1 then m ++ [0x9F] else m ++ 0x1F :: (List.replicate (k - 2) 0 ++ [0x80])

/-- `n` blocks of output. -/
def squeeze : Nat → List W64 → List Byte
  | 0, _ => []
  | n + 1, a => ((a.take 17).flatMap fun v => leBytes 8 v.toNat) ++ squeeze n (keccakF a)

/-- The first `n` bytes of the sponge over a padded message. -/
def sponge (m : List Byte) (n : Nat) : List Byte :=
  let a := (chunks shakeRate m).foldl (fun a b => keccakF (absorbBlock a b)) (List.replicate 25 0)
  (squeeze ((n + shakeRate - 1) / shakeRate) a).take n

/-- The first `n` bytes of SHAKE256 over a message. -/
def shake256 (m : List Byte) (n : Nat) : List Byte := sponge (shakePad m) n

/-! ## KMAC256 (R423), as NIST SP 800-185 defines it -/

/-- The message with cSHAKE's padding. -/
def cshakePad (m : List Byte) : List Byte :=
  let k := shakeRate - m.length % shakeRate
  if k = 1 then m ++ [0x84] else m ++ 0x04 :: (List.replicate (k - 2) 0 ++ [0x80])

/-- The bytes of a number below 65,536, the highest first, without leading zeros. -/
def beBytes (x : Nat) : List Byte := if x < 256 then [BitVec.ofNat 8 x] else [BitVec.ofNat 8 (x / 256), BitVec.ofNat 8 x]

/-- left_encode, right_encode and encode_string. -/
def leftEncode (x : Nat) : List Byte := BitVec.ofNat 8 (beBytes x).length :: beBytes x
def rightEncode (x : Nat) : List Byte := beBytes x ++ [BitVec.ofNat 8 (beBytes x).length]
def encodeString (b : List Byte) : List Byte := leftEncode (8 * b.length) ++ b

/-- bytepad to the rate. -/
def bytePad (b : List Byte) : List Byte :=
  let b := leftEncode shakeRate ++ b
  b ++ List.replicate ((shakeRate - b.length % shakeRate) % shakeRate) 0

/-- KMAC256 with an empty customisation string: `n` bytes. -/
def kmac256 (key m : List Byte) (n : Nat) : List Byte :=
  sponge (cshakePad (bytePad (encodeString [0x4B, 0x4D, 0x41, 0x43] ++ encodeString []) ++ bytePad (encodeString key) ++ m ++
    rightEncode (8 * n))) n

end Sys2Proof.Machine
end

