-- ==== Sys2Proof/Machine/Plinth.lean ====
section
/-!
DEFINITION. Plinth operations (R209 to R218): the descriptor and auxiliary block, the checks at issue, the spans an
operation reads and writes, and what it computes from the bytes it reads.
-/
namespace Sys2Proof.Machine

/-- A plinth descriptor with the engine addresses it names. -/
structure PlinthDesc where
  op : Nat
  flags : Nat
  srcMode : Nat
  dstMode : Nat
  rows : Nat
  src : W64
  dst : W64
  srcScl : W64
  dstScl : W64
  cols : Nat
  srcPitch : Nat
  dstPitch : Nat
  srcC : Int
  dstC : Int
  aux : Nat
  rsv : Nat
  seed : W64
  idxBase : W64
  idxRow : W64
  flush : W64
  report : W64
  list : W64
  listCount : Nat
  unit : Nat
  rsvAux : Nat
  deriving DecidableEq, Repr

def w64At (bs : List Byte) (off : Nat) : W64 := BitVec.ofNat 64 (fieldAt bs off 8)

/-- The fields of a descriptor and of its auxiliary block (empty without AUX_EN). -/
def plinthFields (b x : List Byte) : PlinthDesc :=
  { op := fieldAt b 0 1, flags := fieldAt b 1 1, srcMode := fieldAt b 2 1, dstMode := fieldAt b 3 1,
    rows := fieldAt b 4 4, src := w64At b 8, dst := w64At b 0x10, srcScl := w64At b 0x18, dstScl := w64At b 0x20,
    cols := fieldAt b 0x28 4, srcPitch := fieldAt b 0x2C 4, dstPitch := fieldAt b 0x30 4,
    srcC := sint 8 (fieldAt b 0x34 1), dstC := sint 8 (fieldAt b 0x35 1), aux := fieldAt b 0x38 4,
    rsv := fieldAt b 0x36 2 + fieldAt b 0x3C 4,
    seed := w64At x 0, idxBase := w64At x 8, idxRow := w64At x 0x10, flush := w64At x 0x18, report := w64At x 0x20,
    list := w64At x 0x28, listCount := fieldAt x 0x30 4, unit := fieldAt x 0x34 4, rsvAux := fieldAt x 0x38 8 }

def modeFmt (m : Nat) : Nat := bits m 3 0
def modeScale (m : Nat) : Nat := bits m 5 4
def modeSparse (m : Nat) : Nat := bits m 7 6

/-- Reads descriptor and auxiliary block from local store (R209, R460). -/
def State.plinthDesc (s : State) (e : Nat) (a : W64) : Except Err PlinthDesc := do
  require (decide (a.toNat % 8 = 0)) (err faultAddr a)
  let b ← s.lsBytes e a.toNat 64
  let ax := fieldAt b 0x38 4
  if bit (fieldAt b 1 1) 0 then
    require (decide (ax % 8 = 0)) (err faultAddr (BitVec.ofNat 64 ax))
    let x ← s.lsBytes e ax 64
    .ok (plinthFields b x)
  else .ok (plinthFields b [])

def plinthEncodes (op : Nat) : Bool := op == 1 || op == 3
def plinthListed (op : Nat) : Bool := op == 6 || op == 7

/-- The modes the table of R210 permits. ZSCAN takes a dense source only (DESIGN CHOICE, notes/assumptions/15.md: its row names no
SPARSE). -/
def plinthModes (p : PlinthDesc) : Bool :=
  let sf := modeFmt p.srcMode; let ss := modeScale p.srcMode; let sp := modeSparse p.srcMode
  let df := modeFmt p.dstMode; let ds := modeScale p.dstMode; let dp := modeSparse p.dstMode
  match p.op with
  | 1 => (sf == 7 || sf == 9) && ss == 0 && sp == 0 && 1 ≤ df && df ≤ 4 && ds == 1 && dp == 0
  | 2 => fmtScaleOk sf ss && sp == 0 && (df == 7 || df == 9) && ds == 0 && dp == 0
  | 3 => fmtScaleOk sf ss && fmtScaleOk df ds && sp == 0 && dp == 0 && ss + ds == 3 && ss != 0 && ds != 0
  | 4 => fmtScaleOk sf ss && sf ≤ 6 && sp == 0 && df == sf && ds == ss && (dp == 1 || dp == 2)
  | 5 => fmtScaleOk sf ss && sf ≤ 6 && (sp == 1 || sp == 2) && df == sf && ds == ss && dp == 0
  | 6 => p.srcMode == 0 && p.dstMode == 0
  | 7 => p.srcMode == 0 && p.dstMode == 0
  | 8 => fmtScaleOk sf ss && ss != 0 && sp == 0 && p.dstMode == 0
  | 9 => p.srcMode == 0 && p.dstMode == 0
  | _ => false

/-- Fields that the operation does not use are zero (R209); reserved fields too. Which it uses is the model's reading (DESIGN CHOICE,
notes/assumptions/15.md): NARROW and REBLOCK use SEED, IDX_BASE and IDX_ROW with and without STOCH; PACK does not use SRC_C, which
scales every element of a group alike. -/
def plinthUnused (p : PlinthDesc) : Bool :=
  let srcScl := p.op ≤ 5 && (modeScale p.srcMode != 0 || modeSparse p.srcMode != 0) || p.op == 8
  let dstScl := p.op ≤ 5 && (modeScale p.dstMode != 0 || modeSparse p.dstMode != 0)
  p.rsv == 0 && p.rsvAux == 0 && p.flags < 8 && (bit p.flags 0 || p.aux == 0) &&
  (bit p.flags 1 == false || plinthEncodes p.op) && (bit p.flags 2 == false || p.op == 4) &&
  (srcScl || p.srcScl == 0) && (dstScl || p.dstScl == 0) &&
  (p.op ≤ 3 || p.srcC == 0) && (plinthEncodes p.op || p.dstC == 0) &&
  (!plinthListed p.op || (p.rows == 0 && p.cols == 0)) &&
  (p.op ≤ 5 || p.op == 8 || p.srcPitch == 0) && (p.op ≤ 5 || p.dstPitch == 0) &&
  (plinthEncodes p.op || (p.seed == 0 && p.idxBase == 0 && p.idxRow == 0)) &&
  (plinthListed p.op || (p.list == 0 && p.listCount == 0 && p.unit == 0))

/-- The geometry of R150 and R180. A stored row of a 4-bit or 6-bit format holds a multiple of 4 elements (R124), so COLS that is
none is FORMAT in every tile, an unscaled one too (DESIGN CHOICE, notes/assumptions/15.md: no rule names the fault). -/
def plinthGeometry (p : PlinthDesc) : Bool :=
  let side (m : Nat) : Bool :=
    (modeScale m != 1 || (p.rows % 4 == 0 && p.cols % 4 == 0)) && (modeScale m != 2 || p.cols % 32 == 0) &&
    (modeSparse m == 0 || p.cols % 16 == 0)
  let row (m : Nat) : Bool := fmtBits (modeFmt m) % 8 == 0 || p.cols % 4 == 0
  if p.op ≤ 5 then side p.srcMode && side p.dstMode && row p.srcMode && row p.dstMode
  else if p.op = 8 then side p.srcMode && row p.srcMode
  else if p.op = 9 then p.rows == 1
  else if plinthListed p.op then p.listCount == 0 || (1 ≤ p.unit && p.unit ≤ 65536)
  else false

/-- The sides that must be pier space (table of R210). -/
def plinthSides (p : PlinthDesc) : Bool :=
  let sp := decide (p.src.toNat / 2 ^ 62 = 2)
  let dp := decide (p.dst.toNat / 2 ^ 62 = 2)
  match p.op with
  | 1 => dp | 2 => sp | 6 => sp | 7 => dp | 8 => sp | 9 => sp | _ => sp || dp

/-- ROWS or COLS zero, or an empty list: nothing moves (R211, R216). -/
def plinthEmpty (p : PlinthDesc) : Bool :=
  if plinthListed p.op then p.listCount == 0 else p.rows == 0 || p.cols == 0

/-! ## Spans -/

/-- Elements stored per row of a side. -/
def storedCols (cols sparse : Nat) : Nat := if sparse = 1 then cols / 2 else if sparse = 2 then cols / 4 else cols

/-- Index bytes per row of a side (R181). -/
def indexBytes (cols sparse : Nat) : Nat := if sparse = 1 then cols / 8 else if sparse = 2 then cols / 16 else 0

/-- One side of a tile. -/
structure Side where
  fmt : Nat
  scale : Nat
  sparse : Nat
  data : Loc
  scl : Loc
  pitch : Nat
  deriving DecidableEq, Repr

def Plinth.srcSide (p : Plinth) : Side :=
  { fmt := p.srcFmt, scale := p.srcScale, sparse := p.srcSparse, data := p.src, scl := p.srcScl, pitch := p.srcPitch }
def Plinth.dstSide (p : Plinth) : Side :=
  { fmt := p.dstFmt, scale := p.dstScale, sparse := p.dstSparse, data := p.dst, scl := p.dstScl, pitch := p.dstPitch }

/-- Bytes of one stored row, of all scale bytes, of all index bytes. -/
def Side.rowLen (d : Side) (cols : Nat) : Nat := rowBytes d.fmt (storedCols cols d.sparse)
def Side.sclLen (d : Side) (rows cols : Nat) : Nat := scaleBytes d.scale rows cols
def Side.idxLen (d : Side) (rows cols : Nat) : Nat := rows * indexBytes cols d.sparse

/-- The spans of one side: rows, then scale bytes and index bytes. -/
def Side.spans (d : Side) (rows cols : Nat) : List (Loc × Nat) :=
  ((List.range rows).map fun i => (d.data.add (i * d.pitch), d.rowLen cols)) ++
  (if d.sclLen rows cols + d.idxLen rows cols = 0 then [] else [(d.scl, d.sclLen rows cols + d.idxLen rows cols)])

/-- The offsets of a gather or scatter list. -/
def listOffs (bs : List Byte) : List Nat := (chunks 8 bs).map leNat

/-- Spans an operation reads, the list apart. -/
def Plinth.reads (p : Plinth) (offs : List Nat) : List (Loc × Nat) :=
  if p.op = 6 then offs.map fun o => (p.src.add o, p.unit)
  else if p.op = 7 then (List.range offs.length).map fun i => (p.src.add (i * p.unit), p.unit)
  else if p.op = 9 then [(p.src, p.cols)]
  else p.srcSide.spans p.rows p.cols

/-- Blocks of the source tile. -/
def Plinth.blocks (p : Plinth) : Nat := scaleBytes p.srcScale p.rows p.cols

/-- Spans an operation may write. -/
def Plinth.writes (p : Plinth) (offs : List Nat) : List (Loc × Nat) :=
  if p.op = 6 then (List.range offs.length).map fun i => (p.dst.add (i * p.unit), p.unit)
  else if p.op = 7 then offs.map fun o => (p.dst.add o, p.unit)
  else if p.op = 8 then [(p.dst, (p.blocks + 7) / 8)]
  else if p.op = 9 then [(p.dst, 32)]
  else p.dstSide.spans p.rows p.cols

/-! ## Computation -/

/-- What an operation computes: the bytes it writes, its report, and whether it faults with FORMAT. -/
structure PlinthOut where
  out : List (Loc × List Byte)
  dense : Bool
  sat : Bool
  flushed : Nat
  zeroBlocks : Nat
  dropped : Nat
  bad : Bool
  deriving DecidableEq, Repr

def PlinthOut.none : PlinthOut :=
  { out := [], dense := false, sat := false, flushed := 0, zeroBlocks := 0, dropped := 0, bad := false }

/-- The bytes read so far, in span order, split by length. -/
def splitLens : List Nat → List Byte → List (List Byte)
  | [], _ => []
  | n :: t, bs => bs.take n :: splitLens t (bs.drop n)

/-- A dense side's fields by row and scale codes, from its bytes in span order. -/
def Side.parse (d : Side) (rows cols : Nat) (bs : List Byte) : List (List Nat) × List Nat × List Byte :=
  let rl := d.rowLen cols
  let data := bs.take (rows * rl)
  let rest := bs.drop (rows * rl)
  let fs := (splitLens (List.replicate rows rl) data).map fun r =>
    (unpackRow (fmtBits d.fmt) r).take (storedCols cols d.sparse)
  (fs, (rest.take (d.sclLen rows cols)).map (·.toNat), rest.drop (d.sclLen rows cols))

/-- Scale codes for the blocks of toBlocks; one dummy per row without scales. -/
def blockCodes (scale rows : Nat) (codes : List Nat) : List Nat := if scale = 0 then List.replicate rows 0 else codes

/-- The bytes of a side from rows of fields, scale codes and index bytes. -/
def Side.emit (d : Side) (rows : List (List Nat)) (codes : List Nat) (idx : List Byte) : List (Loc × List Byte) :=
  (rows.zipIdx.map fun (r, i) => (d.data.add (i * d.pitch), packRow (fmtBits d.fmt) r)) ++
  (if codes.isEmpty && idx.isEmpty then [] else [(d.scl, codes.map (BitVec.ofNat 8) ++ idx)])

/-- The exact values of a dense source tile (R139, R131), none when a scale code is invalid. -/
def Plinth.values (p : Plinth) (fs : List (List Nat)) (codes : List Nat) : Option (List (List FV)) :=
  if p.srcScale = 1 ∧ codes.any (· ≥ 0x80) then none
  else
    let bs := (toBlocks p.srcScale fs).zip (blockCodes p.srcScale p.rows codes)
    some (ofBlocks p.srcScale p.cols (bs.map fun (b, code) => decodeValues p.srcFmt p.srcScale code p.srcC b))

/-- A zero of either sign is +0 in the input of an encode (R133, R134, R139). -/
def FV.posZero : FV → FV
  | .fin n m q => .fin (n && m != 0) m q
  | v => v

/-- Rounding once to BF16 or FP32, overflowing to infinity (R138). -/
def roundFmt (fmt : Nat) : FV → Nat
  | .nan => nanField fmt
  | .inf n => infField fmt n
  | .fin n m q =>
    let f := fmtFloat fmt
    let (lo, st) := rneGrid f.w f.emin m q
    if lo ≠ 0 ∧ (Nat.log2 lo : Int) + st ≥ 128 then infField fmt n else f.pack n lo st

/-- The rank of a magnitude in R183: larger is kept first. -/
def pickKey : FV → Option (Nat × Int)
  | .fin _ m q => some (m, q)
  | _ => none

/-- a ranks strictly above b. -/
def ranksAbove (a b : FV) : Bool :=
  match pickKey a, pickKey b with
  | none, none => false
  | none, some _ => true
  | some _, none => false
  | some x, some y => !leDyadic x.1 x.2 y.1 y.2

/-- The N positions of a group that R183 keeps, in increasing position. -/
def keepOf (n : Nat) (vs : List FV) : List Nat :=
  let rank (i : Nat) : Nat := (List.range vs.length).countP fun j =>
    let a := vs.getD i .nan; let b := vs.getD j .nan
    ranksAbove b a || (!ranksAbove a b && j < i)
  (List.range vs.length).filter fun i => rank i < n

def FV.nonzero : FV → Bool | .fin _ m _ => m != 0 | _ => true

/-- PACK (R183, R214). -/
def Plinth.pack (p : Plinth) (fs : List (List Nat)) (codes : List Nat) : PlinthOut :=
  match p.values fs codes with
  | none => { PlinthOut.none with bad := true }
  | some vs =>
    let n := if p.dstSparse = 1 then 2 else 1
    let gs := (fs.zip vs).map fun (r, v) => (chunks 4 r).zip (chunks 4 v)
    let counts := gs.flatMap fun row => row.map fun g => g.2.countP (·.nonzero)
    if !p.prune && counts.any (· > n) then { PlinthOut.none with dense := true }
    else
      let kept := gs.map fun row => row.map fun g => (keepOf n g.2).map fun i => (i, g.1.getD i 0)
      let rows := kept.map fun row => row.flatMap fun g => g.map (·.2)
      let idx := kept.flatMap fun row => packRow 2 (row.flatMap fun g => g.map (·.1))
      { PlinthOut.none with out := p.dstSide.emit rows codes idx, dropped := (counts.map (· - n)).sum }

/-- Dense rows of a sparse tile: the field at each dense position, `none` where omitted; none when a 2:4 group's
indices do not rise (R180, R181, R215). -/
def denseRows (sparse cols : Nat) (fs : List (List Nat)) (idx : List (List Nat)) : Option (List (List (Option Nat))) :=
  let n := if sparse = 1 then 2 else 1
  let ok := sparse != 1 || idx.all fun r => (chunks 2 r).all fun g => g.getD 0 0 < g.getD 1 0
  if !ok then none
  else some ((fs.zip idx).map fun (r, ix) =>
    ((chunks n r).zip (chunks n ix)).take (cols / 4) |>.flatMap fun (g, gi) =>
      (List.range 4).map fun j => ((g.zip gi).find? fun x => x.2 == j).map (·.1))

/-- What an operation computes from the bytes of its read spans, in order (R212 to R218). -/
def Plinth.compute (p : Plinth) (offs : List Nat) (bs : List Byte) : PlinthOut :=
  let d := p.srcSide
  let o := p.dstSide
  if plinthListed p.op then
    let parts := splitLens (List.replicate offs.length p.unit) bs
    { PlinthOut.none with out := ((p.writes offs).zip parts).map fun (w, b) => (w.1, b) }
  else if p.rows = 0 ∨ p.cols = 0 then PlinthOut.none
  else if p.op = 9 then { PlinthOut.none with out := [(p.dst, shake256 bs 32)] }
  else
    let (fs, codes, rest) := d.parse p.rows p.cols bs
    match p.op with
    | 4 => p.pack fs codes
    | 5 =>
      let idx := (splitLens (List.replicate p.rows (indexBytes p.cols d.sparse)) rest).map (unpackRow 2)
      match denseRows d.sparse p.cols fs idx with
      | none => { PlinthOut.none with bad := true }
      | some rows => { PlinthOut.none with out := o.emit (rows.map fun r => r.map (·.getD 0)) codes [] }
    | 8 =>
      let kinds := ((toBlocks d.scale fs).zip codes).map fun (b, c) => blockKind d.fmt d.scale c b == .zero
      { PlinthOut.none with out := [(p.dst, packRow 1 (kinds.map b2n))], zeroBlocks := kinds.countP id }
    | 2 =>
      match p.values fs codes with
      | none => { PlinthOut.none with bad := true }
      | some vs => { PlinthOut.none with out := o.emit (vs.map fun r => r.map (roundFmt o.fmt)) [] [] }
    | _ =>
      match p.values fs codes with
      | none => { PlinthOut.none with bad := true }
      | some vs =>
        let t := encodeTile o.fmt o.scale p.dstC (withRnd p.stoch p.seed p.idxBase p.idxRow (vs.map fun r => r.map FV.posZero))
        { PlinthOut.none with out := o.emit t.rows t.scales [], sat := t.sat, flushed := t.flushed,
                              zeroBlocks := t.zeroBlocks }

/-- The report record (R212). -/
def PlinthOut.report (o : PlinthOut) : List Byte :=
  leBytes 4 (b2n o.dense) ++ leBytes 4 (b2n o.sat) ++ leBytes 8 o.flushed ++ leBytes 8 o.zeroBlocks ++ leBytes 8 o.dropped

/-! ## Checks at issue (R81, R100, R211) -/

/-- A span at an offset from a base the descriptor names. -/
def State.spanAt (s : State) (r : Run) (wr : Bool) (base : W64) (off n : Nat) : Except Err Loc :=
  if n = 0 then .ok (eaLoc r.e r.c base)
  else match s.resolve r.e r.c r.part base 0 with
    | .error x => .error x
    | .ok b =>
      let l := b.add off
      if s.room b < off + n then
        .error (err (match b with | .cs _ _ => faultAddr | _ => faultExtent) base)
      else match l with
        | .ls _ _ => .ok l
        | _ =>
          if !r.d.admits r.c wr l n then .error (err faultExtent base)
          else match l with
            | .pier o => if wr && r.d.eval && s.touches (·.cast) o n then .error (err faultAccess base) else .ok l
            | _ => .ok l

/-- Every span of one side. -/
def State.sideCheck (s : State) (r : Run) (wr : Bool) (base scl : W64) (d : Side) (rows cols : Nat) : Except Err Unit := do
  let _ ← (List.range rows).mapM fun i => s.spanAt r wr base (i * d.pitch) (d.rowLen cols)
  let _ ← s.spanAt r wr scl 0 (d.sclLen rows cols + d.idxLen rows cols)
  .ok ()

/-- No byte read is a byte written (R81). -/
def disjoint (rs ws : List (Loc × Nat)) : Bool := rs.all fun a => ws.all fun b => !overlap a.1 a.2 b.1 b.2

/-- The operation a CPYP issues, fully checked, with its list offsets (R209 to R216). A mode byte that an operation does not use
names no format to the dense licence (DESIGN CHOICE, notes/assumptions/15.md). -/
def State.plinthIssue (s : State) (r : Run) (p : PlinthDesc) : Except Err (Plinth × List Nat) := do
  require (plinthModes p && plinthUnused p && decide (p.srcC ≥ -126) && decide (p.dstC ≥ -126)) (err faultFormat)
  require (s.fullNumeric || !(p.op ≤ 5 || p.op == 8) ||
    (modeFmt p.srcMode != 0 && modeFmt p.srcMode != 6 && modeSparse p.srcMode == 0 &&
     (p.op == 8 || (modeFmt p.dstMode != 0 && modeFmt p.dstMode != 6 && modeSparse p.dstMode == 0))))
    (err faultFormat)
  let flush ← s.exempt r p.flush 8
  let report ← s.exempt r p.report 32
  let l (a : W64) : Loc := eaLoc r.e r.c a
  let q : Plinth :=
    { op := p.op, prune := bit p.flags 2, stoch := bit p.flags 1, srcFmt := modeFmt p.srcMode,
      srcScale := modeScale p.srcMode, srcSparse := modeSparse p.srcMode, dstFmt := modeFmt p.dstMode,
      dstScale := modeScale p.dstMode, dstSparse := modeSparse p.dstMode, rows := p.rows, cols := p.cols,
      src := l p.src, dst := l p.dst, srcScl := l p.srcScl, dstScl := l p.dstScl, srcPitch := p.srcPitch,
      dstPitch := p.dstPitch, srcC := p.srcC, dstC := p.dstC, seed := p.seed, idxBase := p.idxBase,
      idxRow := p.idxRow, flush := flush, report := report, list := l p.list, listCount := p.listCount,
      unit := p.unit }
  require (p.op != 4 || q.prune || report.isSome) (err faultFormat)
  if plinthEmpty p then .ok (q, [])
  else
    require (plinthGeometry p && plinthSides p) (err faultFormat)
    let offs ← (if plinthListed p.op then do
        let _ ← s.spanAt r false p.list 0 (8 * p.listCount)
        .ok (listOffs (s.readLoc q.list (8 * p.listCount)))
      else .ok [] : Except Err (List Nat))
    match p.op with
    | 6 => let _ ← offs.mapM fun o => s.spanAt r false p.src o p.unit
           let _ ← s.spanAt r true p.dst 0 (p.listCount * p.unit)
    | 7 => let _ ← s.spanAt r false p.src 0 (p.listCount * p.unit)
           let _ ← offs.mapM fun o => s.spanAt r true p.dst o p.unit
    | 8 => s.sideCheck r false p.src p.srcScl q.srcSide p.rows p.cols
           let _ ← s.spanAt r true p.dst 0 ((q.blocks + 7) / 8)
    | 9 => let _ ← s.spanAt r false p.src 0 p.cols
           let _ ← s.spanAt r true p.dst 0 32
    | _ => s.sideCheck r false p.src p.srcScl q.srcSide p.rows p.cols
           s.sideCheck r true p.dst p.dstScl q.dstSide p.rows p.cols
    let ws := q.writes offs
    let narrowOk := p.op != 1 || ws.all fun (w, _) => match w with
      | .pier a => ((s.regionAt a).map (·.narrow)).getD false
      | _ => true
    require narrowOk (err faultAccess p.dst)
    require (disjoint (q.reads offs ++ (if plinthListed p.op then [(q.list, 8 * p.listCount)] else [])) ws)
      (err faultFormat)
    .ok (q, offs)

end Sys2Proof.Machine
end

