-- ==== Sys2Proof/Machine/Array.lean ====
section
/-!
DEFINITION. Array operations, opcodes 0x30 to 0x35: ALD, BMUL, APROM, ADRAIN, ADRAINE and VENC (R84 to R90, R152 to
R163, R177 to R182).
-/
namespace Sys2Proof.Machine

/-- Operand buffer `i`: 0 A0, 1 A1, 2 B0, 3 B1. -/
def Engine.buf (x : Engine) (i : Nat) : Tile := Tab.get Tile.empty x.bufs i
def Engine.setBuf (x : Engine) (i : Nat) (t : Tile) : Engine := { x with bufs := Tab.put Tile.empty x.bufs i t }

/-- Accumulator set `i`. -/
def Engine.acc (x : Engine) (i : Nat) : AccSet := Tab.get AccSet.clear x.accs i
def Engine.setAcc (x : Engine) (i : Nat) (a : AccSet) : Engine := { x with accs := Tab.put AccSet.clear x.accs i a }

/-- The fields of ALD's IMM (R84). -/
structure AldImm where
  fmt : Nat
  scale : Nat
  turned : Bool
  sparse : Nat
  kq : Nat
  pitch : Nat
  deriving DecidableEq, Repr

def aldImm (v : Nat) : AldImm :=
  { fmt := bits v 3 0, scale := bits v 5 4, turned := bit v 6, sparse := bits v 8 7, kq := bits v 13 9,
    pitch := bits v 31 14 }

/-- The causes of FORMAT that ALD's IMM shows (R84, R85, R179). -/
def aldOk (i : AldImm) : Bool :=
  i.kq ≤ 16 && i.sparse ≠ 3 && !(i.scale == 2 && (i.turned || (i.kq ≠ 8 && i.kq ≠ 16))) &&
  !(i.sparse ≠ 0 && (i.turned || i.fmt == 7 || i.fmt == 8 || i.fmt == 9 || i.kq % 4 ≠ 0))

/-- Bytes of index that a stored row of a sparse tile has (R181). -/
def idxRowBytes (k sparse : Nat) : Nat := if sparse = 1 then k / 8 else if sparse = 2 then k / 16 else 0

/-- The tile that ALD presents, from the stored rows, scale codes and index rows; none for a square scale code of R127
or indices that do not rise (R84, R152, R155, R180 to R182). -/
def aldTile (i : AldImm) (c : Int) (rows : List (List Nat)) (codes : List Nat) (idx : List (List Nat)) :
    Option Tile :=
  let k := 4 * i.kq
  let full := if i.sparse = 0 then some (rows.map fun r => r.map some) else denseRows i.sparse k rows idx
  match full with
  | none => none
  | some m =>
    let codes := if i.scale = 0 then m.map fun _ => 0 else codes
    if i.scale = 1 ∧ codes.any (· ≥ 0x80) then none
    else
      let bs := ((toBlocks i.scale m).zip codes).map fun (b, code) => decodeBlock i.fmt i.scale code c b
      let es := ofBlocks i.scale (nth m 0).length bs
      some { k := k, fmt := i.fmt, sparse := i.sparse, rows := if i.turned then turn 32 es else es }

/-- Bytes of a stored row of data (R84, R180). -/
def AldImm.rowLen (i : AldImm) : Nat :=
  rowBytes i.fmt (if i.sparse = 0 then (if i.turned then 32 else 4 * i.kq) else storedCols (4 * i.kq) i.sparse)

/-- Stored rows, and elements of a row, of the tile's scale grid. -/
def AldImm.grid (i : AldImm) : Nat × Nat := if i.turned then (4 * i.kq, 32) else (32, 4 * i.kq)

/-- Bytes of scales and of indices. -/
def AldImm.scaleLen (i : AldImm) : Nat := scaleBytes i.scale i.grid.1 i.grid.2
def AldImm.idxLen (i : AldImm) : Nat := idxRowBytes (4 * i.kq) i.sparse

/-- The bytes of data, scales and indices lie in local store (R85). -/
def AldImm.fits (i : AldImm) (a b : Nat) : Bool :=
  decide (a + (i.grid.1 - 1) * i.pitch + i.rowLen ≤ lsSize) &&
  (i.scaleLen + 32 * i.idxLen == 0 || decide (b + (i.scaleLen + 32 * i.idxLen) ≤ lsSize))

/-- The tile that an ALD of engine `e` finds, with data at `a` and scales and indices at `b`. -/
def State.aldFetch (s : State) (e : Nat) (i : AldImm) (c : Int) (a b : Nat) : Option Tile :=
  let n := if i.sparse = 0 then i.grid.2 else storedCols (4 * i.kq) i.sparse
  let rows := (List.range i.grid.1).map fun j =>
    (unpackRow (fmtBits i.fmt) (s.lsRead e (a + j * i.pitch) i.rowLen)).take n
  let codes := (s.lsRead e b i.scaleLen).map (·.toNat)
  let idx := if i.sparse = 0 then [] else
    (List.range 32).map fun j => unpackRow 2 (s.lsRead e (b + i.scaleLen + j * i.idxLen) i.idxLen)
  aldTile i c rows codes idx

def aldBody (f : Fields) (r : Run) (s : State) : Except Err State := do
  checkFields f .any .any .any .any immAll
  require (decide (f.d ≤ 3)) (err faultIllegal)
  let x := s.eng r.e
  let i := aldImm f.imm.toNat
  s.fmtCheck i.fmt i.scale
  require (s.fullNumeric || i.sparse == 0) (err faultFormat)
  let c ← x.coarse f.c
  require (aldOk i) (err faultFormat)
  if i.kq = 0 then
    onEngine r.e (fun x => x.setBuf f.d.toNat { k := 0, fmt := i.fmt, sparse := i.sparse, rows := [] }) s
  else
    let a := (x.gr f.a).toNat
    let b := (x.gr f.b).toNat
    require (i.fits a b) (err faultFormat)
    match s.aldFetch r.e i c a b with
    | none => .error (err faultFormat)
    | some t => onEngine r.e (fun x => x.setBuf f.d.toNat t) s

/-- BMUL; `chk` says that a residue check of its product fails (R154). -/
def bmulBody (f : Fields) (chk : Bool) (r : Run) (s : State) : Except Err State := do
  checkFields f .any .any .any .no 1
  require (decide (f.d ≤ 1) && decide (f.a ≤ 1) && decide (f.b ≤ 1)) (err faultIllegal)
  let x := s.eng r.e
  let ta := x.buf f.a.toNat
  let tb := x.buf (2 + f.b.toNat)
  require (ta.k == tb.k) (err faultFormat)
  require (!(ta.sparse != 0 && tb.sparse != 0)) (err faultFormat)
  require (!(ta.sparse != 0 && fmtPieces tb.fmt > 1) && !(tb.sparse != 0 && fmtPieces ta.fmt > 1)) (err faultFormat)
  require (!chk) (err faultCheck)
  let set := x.acc f.d.toNat
  let set := if f.imm = 0 then set else AccSet.clear
  if ta.k = 0 then onEngine r.e (fun x => x.setAcc f.d.toNat set) s
  else
    let (set, b) := set.mac ta tb
    let (skip, _, saved) := productCycles ta tb
    onEngine r.e (fun x => { (x.setAcc f.d.toNat set).status b with
      skip := satAdd 64 x.skip skip, saved := satAdd 64 x.saved saved }) s

def apromBody (f : Fields) (r : Run) (s : State) : Except Err State := do
  checkFields f .any .no .no .no 0
  require (decide (f.d ≤ 1)) (err faultIllegal)
  onEngine r.e (fun x =>
    let (set, b) := (x.acc f.d.toNat).close
    (x.setAcc f.d.toNat set).status b) s

/-- The fields of a drain's IMM: set, FIRST_ROW, ROWS, CLEAR. -/
def drainImm (v : Nat) : Nat × Nat × Nat × Bool := (bits v 0 0, bits v 5 1, bits v 11 6, bit v 12)

/-- Cell (i, j) of a set. -/
def AccSet.cell (a : AccSet) (i j : Nat) : Cell := Tab.get Cell.clear a.cells (32 * i + j)

def adrainBody (f : Fields) (r : Run) (s : State) : Except Err State := do
  checkFields f .vec .no .no .no 0x1FFF
  let (n, first, rows, clear) := drainImm f.imm.toNat
  require (first + rows ≤ 32 && f.d.toNat + rows ≤ 32) (err faultIllegal)
  onEngine r.e (fun x =>
    let (set, b) := (x.acc n).close
    let out := (List.range rows).map fun i => (List.range 32).map fun j => (set.cell (first + i) j).drain
    let b := out.foldl (fun b row => row.foldl (fun b c => b ||| c.2) b) b
    let x := x.setVs f.d.toNat (out.map fun row => row.map (·.1))
    (x.setAcc n (if clear then AccSet.clear else set)).status b) s

/-- An encode descriptor (R89). -/
structure EncDesc where
  dst : Nat
  scl : Nat
  pitch : Nat
  fmt : Nat
  scale : Nat
  stoch : Bool
  coarse : Int
  seed : W64
  idxBase : W64
  idxRow : W64
  flush : W64
  deriving DecidableEq, Repr

/-- Read and check an encode descriptor for stored rows `first` to `first + n − 1` (R79, R89, R90, R126, R460). -/
def State.encDesc (s : State) (r : Run) (a : W64) (first n : Nat) : Except Err (EncDesc × Option Loc) := do
  let b ← s.lsBytes r.e a.toNat 64
  let mode := fieldAt b 0x0C 4
  require (bits mode 31 7 == 0 && fieldAt b 0x14 4 == 0 && fieldAt b 0x38 8 == 0) (err faultFormat)
  let fmt := bits mode 3 0
  let scale := bits mode 5 4
  s.fmtCheck fmt scale
  match if fieldAt b 0x10 4 = 0 then some 0 else coarseExp (fieldAt b 0x10 4) with
  | none => .error (err faultFormat)
  | some c =>
    require (!(scale == 1) || (first % 4 == 0 && n % 4 == 0)) (err faultFormat)
    let d : EncDesc :=
      { dst := fieldAt b 0 4, scl := fieldAt b 4 4, pitch := fieldAt b 8 4, fmt := fmt, scale := scale,
        stoch := bit mode 6, coarse := c, seed := w64At b 0x18, idxBase := w64At b 0x20, idxRow := w64At b 0x28,
        flush := w64At b 0x30 }
    if n ≠ 0 then
      lsSpan (d.dst + first * d.pitch) ((n - 1) * d.pitch + rowBytes fmt 32)
      if scale = 1 then lsSpan (d.scl + first / 4 * 8) (n / 4 * 8)
      else if scale = 2 then lsSpan (d.scl + first) n
      else .ok ()
    else .ok ()
    let fl ← s.exempt r d.flush 8
    .ok (d, fl)

/-- Encode rows of exact values as stored rows `first`, … of a descriptor: bytes, ENC_SAT, and the flush count for
FINISH (R89, R90, R139 to R148). -/
def State.encodeRows (s : State) (r : Run) (d : EncDesc) (fl : Option Loc) (first : Nat) (rows : List (List FV)) :
    State :=
  if rows.isEmpty then s
  else
    let t := encodeTile d.fmt d.scale d.coarse
      (withRnd d.stoch d.seed (d.idxBase + BitVec.ofNat 64 first * d.idxRow) d.idxRow rows)
    let s := t.rows.zipIdx.foldl (fun s (fs, i) =>
      s.writeLoc (.ls r.e (d.dst + (first + i) * d.pitch)) (packRow (fmtBits d.fmt) fs)) s
    let at_ := if d.scale = 1 then first / 4 * 8 else first
    let s := if d.scale = 0 then s
      else s.writeLoc (.ls r.e (d.scl + at_)) (t.scales.map (BitVec.ofNat 8))
    s.modEng r.e fun x =>
      let x := if t.sat then x.status nsEncSat else x
      match fl with
      | none => x
      | some l => { x with flushes := x.flushes ++ [(l, t.flushed)] }

def adraineBody (f : Fields) (r : Run) (s : State) : Except Err State := do
  checkFields f .no .any .no .no 0x1FFF
  let (n, first, rows, clear) := drainImm f.imm.toNat
  require (first + rows ≤ 32) (err faultIllegal)
  let (d, fl) ← s.encDesc r ((s.eng r.e).gr f.a) first rows
  let (set, b) := ((s.eng r.e).acc n).close
  let vals := (List.range rows).map fun i => (List.range 32).map fun j => (set.cell (first + i) j).value
  let s := s.modEng r.e fun x => (x.setAcc n (if clear then AccSet.clear else set)).status b
  .ok (s.encodeRows r d fl first vals)

def vencBody (f : Fields) (r : Run) (s : State) : Except Err State := do
  checkFields f .vec .any .no .no 0x3F
  let n := bits f.imm.toNat 5 0
  require (n ≤ 32 && f.d.toNat + n ≤ 32) (err faultIllegal)
  let x := s.eng r.e
  let (d, fl) ← s.encDesc r (x.gr f.a) 0 n
  .ok (s.encodeRows r d fl 0 ((List.range n).map fun i => (x.vr (f.d.toNat + i)).map dec32))

def execAld (e : Nat) (f : Fields) (s : State) : Host.Outcome State Fault Refusal :=
  guarded (isEngine e) (s.issue e 0x30 f (aldBody f))

def execBmul (e : Nat) (f : Fields) (chk : Bool) (s : State) : Host.Outcome State Fault Refusal :=
  guarded (isEngine e) (s.issue e 0x31 f (bmulBody f chk))

def execAprom (e : Nat) (f : Fields) (s : State) : Host.Outcome State Fault Refusal :=
  guarded (isEngine e) (s.issue e 0x32 f (apromBody f))

def execAdrain (e : Nat) (f : Fields) (s : State) : Host.Outcome State Fault Refusal :=
  guarded (isEngine e) (s.issue e 0x33 f (adrainBody f))

def execAdraine (e : Nat) (f : Fields) (s : State) : Host.Outcome State Fault Refusal :=
  guarded (isEngine e) (s.issue e 0x34 f (adraineBody f))

def execVenc (e : Nat) (f : Fields) (s : State) : Host.Outcome State Fault Refusal :=
  guarded (isEngine e) (s.issue e 0x35 f (vencBody f))

end Sys2Proof.Machine
end

