-- ==== Sys2Proof/Machine/Reduce.lean ====
section
/-!
DEFINITION. Reductions inside one engine, opcodes 0x50 to 0x55 (R166 to R171), and reduction slots (R92 to R94, R174,
R175).
-/
namespace Sys2Proof.Machine

/-- A register range of `n` registers from vr stays within v31, or ILLEGAL. -/
def vRange (r : BitVec 6) (n : Nat) : Except Err Unit := require (r.toNat + n ≤ 32) (err faultIllegal)

/-- RLANE: the 32 lanes of a register folded into one value (R168). -/
def laneFold (sel : Nat) (vs : List W32) : W32 :=
  match sel with
  | 0 => let p := vs.foldl vUpdate (0, 0); fadd p.1 p.2
  | 1 => match vs with | [] => 0 | v :: t => t.foldl fmax v
  | 2 => match vs with | [] => 0 | v :: t => t.foldl fmin v
  | _ => let p := vs.foldl vUpdateSq (0, 0); fadd p.1 p.2

def rlaneBody (f : Fields) (r : Run) (s : State) : Except Err State := do
  checkFields f .vec .vec .no .no 3
  onEngine r.e (fun x => x.setV f.d.toNat [laneFold f.imm.toNat (x.vr f.a.toNat)]) s

/-- RACC on one lane of the pair (R169). -/
def raccLane (sel : Nat) (p : W32 × W32) (v : W32) : W32 × W32 :=
  match sel with
  | 0 => vUpdate p v
  | 1 => (fmax p.1 v, p.2)
  | 2 => (fmin p.1 v, p.2)
  | _ => vUpdateSq p v

def raccBody (f : Fields) (r : Run) (s : State) : Except Err State := do
  checkFields f .vec .vec .no .no 3
  vRange f.d 2
  onEngine r.e (fun x =>
    let d := f.d.toNat
    let ps := List.zipWith (raccLane f.imm.toNat) ((x.vr d).zip (x.vr (d + 1))) (x.vr f.a.toNat)
    x.setVs d [ps.map (·.1), ps.map (·.2)]) s

/-- Lane `l` of the Welford state in v[r] to v[r + 3]. -/
def Engine.welfordAt (x : Engine) (r l : Nat) : Welford :=
  { n := x.lane r l, m := x.lane (r + 1) l, m2 := x.lane (r + 2) l, c := x.lane (r + 3) l }

/-- Write the Welford states of 32 lanes. -/
def Engine.setWelford (x : Engine) (r : Nat) (ws : List Welford) : Engine :=
  x.setVs r [ws.map (·.n), ws.map (·.m), ws.map (·.m2), ws.map (·.c)]

def rwelBody (f : Fields) (r : Run) (s : State) : Except Err State := do
  checkFields f .vec .vec .no .no 0
  vRange f.d 4
  onEngine r.e (fun x => x.setWelford f.d.toNat
    ((List.range 32).map fun l => welford (x.welfordAt f.d.toNat l) (x.lane f.a.toNat l))) s

/-- RMERGE (R171). Both states are read before either is written, so that ranges may overlap (DESIGN CHOICE,
notes/assumptions/15.md). -/
def rmergeBody (f : Fields) (r : Run) (s : State) : Except Err State := do
  checkFields f .vec .vec .no .no 0
  vRange f.d 4
  vRange f.a 4
  onEngine r.e (fun x => x.setWelford f.d.toNat
    ((List.range 32).map fun l => chan (x.welfordAt f.d.toNat l) (x.welfordAt f.a.toNat l))) s

/-! ## Reduction slots -/

def State.rslot (s : State) (c r : Nat) : Option RSlot := Tab.find? (s.crs c).rslots r
def State.setRslot (s : State) (c r : Nat) (x : RSlot) : State :=
  s.modCrs c fun y => { y with rslots := Tab.set y.rslots r x }
def State.idleRslot (s : State) (c r : Nat) : State := s.modCrs c fun y => { y with rslots := Tab.erase y.rslots r }

/-- Registers of one contribution (R174). -/
def RSlot.regs (x : RSlot) : Nat := if x.op = 4 then 3 * x.lenRegs else x.lenRegs

/-- The starting state of a slot's elements; max and min start from the first contribution (R174). -/
def slotStart (op lenRegs : Nat) : List (List W32) :=
  List.replicate (32 * lenRegs) (if op ≤ 1 then [0, 0] else if op = 4 then [0, 0, 0, 0] else [])

/-- One element of a slot combined with the values contributed for it (R174). -/
def slotCombine (op : Nat) (st vs : List W32) : List W32 :=
  let v := vs.getD 0 0
  match op with
  | 0 => let p := vUpdate (st.getD 0 0, st.getD 1 0) v; [p.1, p.2]
  | 1 => let p := vUpdateSq (st.getD 0 0, st.getD 1 0) v; [p.1, p.2]
  | 2 => match st with | [] => [v] | x :: _ => [fmax x v]
  | 3 => match st with | [] => [v] | x :: _ => [fmin x v]
  | _ =>
    let w := chan { n := st.getD 0 0, m := st.getD 1 0, m2 := st.getD 2 0, c := st.getD 3 0 }
      { n := v, m := vs.getD 1 0, m2 := vs.getD 2 0, c := 0 }
    [w.n, w.m, w.m2, w.c]

/-- The values of each element in a contribution of register groups. -/
def contribElems (op lenRegs : Nat) (vs : List W32) : List (List W32) :=
  let g := 32 * lenRegs
  (List.range g).map fun i => if op = 4 then [vs.getD i 0, vs.getD (g + i) 0, vs.getD (2 * g + i) 0] else [vs.getD i 0]

/-- Bytes of a contribution from the buffer. -/
def RSlot.bufAt (x : RSlot) (n : Nat) : Nat := x.bufOff + n * x.regs * 128

/-- Combine every contribution that is next in order (R94). -/
def State.slotAdvance (s : State) (c : Nat) : Nat → RSlot → RSlot
  | 0, x => x
  | f + 1, x =>
    if x.combined < x.count && x.got.contains x.combined then
      let vs := bytesLanes (s.readLoc (.cs c (x.bufAt x.combined)) (x.regs * 128))
      s.slotAdvance c f { x with acc := List.zipWith (slotCombine x.op) x.acc (contribElems x.op x.lenRegs vs),
                                 combined := x.combined + 1 }
    else x

/-- The registers of a slot's result (R175). -/
def RSlot.result (x : RSlot) : List W32 :=
  let col (i : Nat) := x.acc.map fun st => st.getD i 0
  match x.op with
  | 0 | 1 => List.zipWith fadd (col 0) (col 1)
  | 2 | 3 => col 0
  | _ => col 0 ++ List.zipWith fadd (col 1) (col 3) ++ col 2

/-- DONE of a slot rises. -/
def State.slotFlag (s : State) (valid : Bool) (e f : Nat) : State := if valid then s.flagAdd e f 1 else s

/-- RSCFG. (DEDUCED, notes/assumptions/10.md: a DEST or BUF that is malformed or may not be named is REDUCE, and
BUF is checked with COUNT 0 too.) -/
def rscfgBody (f : Fields) (r : Run) (s : State) : Except Err State := do
  checkFields f .no .any .no .no 0x1F
  let b ← s.lsBytes r.e ((s.eng r.e).gr f.a).toNat 32
  let op := fieldAt b 0 1
  let len := fieldAt b 1 1
  let count := fieldAt b 4 4
  let done := fieldAt b 0x0C 4
  let flag := bits done 5 0
  let eng := bits done 26 16
  let valid := bit done 31
  require (op ≤ 4 && 1 ≤ len && len ≤ 8 && fieldAt b 2 2 == 0 && bits done 15 6 == 0 && bits done 30 27 == 0 &&
    flag ≤ 47) (err faultFormat)
  require (!valid || (s.partOfEngine eng == some r.part && (r.d.net || flag < s.cfg.flagSysBase))) (err faultAccess)
  let n := f.imm.toNat
  let g := if op = 4 then 3 * len else len
  require ((s.rslot r.c n).isNone) (err faultReduce)
  let bad : Err := err faultReduce (w64At b 0x10)
  match s.resolve r.e r.c r.part (w64At b 0x10) (g * 128), eaLoc r.e r.c (w64At b 0x18) with
  | .ok dest, .cs c off =>
    require (r.d.admits r.c true dest (g * 128)) bad
    require (!eaMalformed (w64At b 0x18) && c == r.c && off < csUsable && off + count * g * 128 ≤ csUsable) (err faultReduce (w64At b 0x18))
    if count = 0 then .ok (s.slotFlag valid eng flag)
    else .ok (s.setRslot r.c n
      { op := op, lenRegs := len, count := count, firstSeq := fieldAt b 8 4, doneValid := valid, doneEngine := eng,
        doneFlag := flag, dest := dest, bufOff := off, got := [], combined := 0, acc := slotStart op len })
  | _, _ => .error bad

/-- The slot and index that an item contributes to: REDUCE when RSLOT is 0xFF, the slot is idle, or the index is
outside the slot's (R93). (DEDUCED, notes/assumptions/10.md: the index is taken modulo 2^32.) -/
def State.contribSlot (s : State) (c : Nat) (d : ItemDesc) : Except Err (RSlot × Nat) :=
  if d.rslot = 0xFF then .error (err faultReduce)
  else match s.rslot c d.rslot with
    | none => .error (err faultReduce)
    | some x =>
      let n := (d.seq.toNat + 2 ^ 32 - x.firstSeq % 2 ^ 32) % 2 ^ 32
      if n < x.count then .ok (x, n) else .error (err faultReduce)

def rcontBody (f : Fields) (r : Run) (s : State) : Except Err State := do
  checkFields f .no .vec .no .no 0
  require (s.eng r.e).contrib.isNone (err faultReduce)
  let (x, _) ← s.contribSlot r.c r.d
  vRange f.a x.regs
  onEngine r.e (fun y => { y with
    contrib := some ((List.range (32 - f.a.toNat)).flatMap fun i => y.vr (f.a.toNat + i)) }) s

/-- FINISH commits a contribution (R93, R94): into BUF, then every contribution that is next in order is combined. A slot that has
by then been configured anew with more registers than RCONT took is ILLEGAL (DESIGN CHOICE, notes/assumptions/10.md). -/
def State.commitContrib (s : State) (c : Nat) (d : ItemDesc) (vs : List W32) : Except Err State := do
  let (x, n) ← s.contribSlot c d
  require (!x.got.contains n) (err faultReduce)
  require (32 * x.regs ≤ vs.length) (err faultIllegal)
  let s := s.writeLoc (.cs c (x.bufAt n)) (laneBytes (vs.take (32 * x.regs)))
  .ok (s.setRslot c d.rslot (s.slotAdvance c x.count { x with got := x.got ++ [n] }))

/-- A slot whose contributions are all combined writes its result and becomes idle (R94, R175). -/
def State.slotDone (s : State) (c r : Nat) : State :=
  if !s.live then s
  else match s.rslot c r with
    | none => s
    | some x =>
      if x.combined < x.count then s
      else (((s.storeLoc x.dest (laneBytes x.result)).slotFlag x.doneValid x.doneEngine x.doneFlag).idleRslot c r)

def execRlane (e : Nat) (f : Fields) (s : State) : Host.Outcome State Fault Refusal :=
  guarded (isEngine e) (s.issue e 0x50 f (rlaneBody f))

def execRacc (e : Nat) (f : Fields) (s : State) : Host.Outcome State Fault Refusal :=
  guarded (isEngine e) (s.issue e 0x51 f (raccBody f))

def execRwel (e : Nat) (f : Fields) (s : State) : Host.Outcome State Fault Refusal :=
  guarded (isEngine e) (s.issue e 0x52 f (rwelBody f))

def execRscfg (e : Nat) (f : Fields) (s : State) : Host.Outcome State Fault Refusal :=
  guarded (isEngine e) (s.issue e 0x53 f (rscfgBody f))

def execRcont (e : Nat) (f : Fields) (s : State) : Host.Outcome State Fault Refusal :=
  guarded (isEngine e) (s.issue e 0x54 f (rcontBody f))

def execRmerge (e : Nat) (f : Fields) (s : State) : Host.Outcome State Fault Refusal :=
  guarded (isEngine e) (s.issue e 0x55 f (rmergeBody f))

def execReduceSlotDone (c r : Nat) (s : State) : Host.Outcome State Fault Refusal :=
  guarded (isCourse c && isRSlot r) (s.slotDone c r)

end Sys2Proof.Machine
end

