-- ==== Sys2Proof/Machine/Copies.lean ====
section
/-!
DEFINITION. Copies and plinth operations: issue (R80 to R83, R209 to R216), completion (R80, R212) and uncorrectable
reads (R207, R208, R461). A copy's bytes move when it completes; every byte that changed since its issue holds its old
or its new value, freely (R82, R192, R203; notes/assumptions/6.md).
-/
namespace Sys2Proof.Machine

/-- A flag number of an instruction: above 47 is FORMAT, a system flag in an item without NET is ACCESS (R80, R95,
R228). -/
def State.flagCheck (s : State) (r : Run) (f : Nat) : Except Err Unit :=
  if f > 47 then .error (err faultFormat)
  else if !r.d.net && decide (f ≥ s.cfg.flagSysBase) then .error (err faultAccess)
  else .ok ()

/-- The engine waits with the instruction not issued. -/
def State.holdIssue (s : State) (e : Nat) (a : Act) : State :=
  s.modEng e fun x => { x with act := a, pc := x.pc - 8 }

/-- An engine that waits for a queue place goes on (R83, R97). -/
def State.resumeQueue (s : State) (e : Nat) : State :=
  s.modEng e fun x => if x.act == .waitCopyQueue || x.act == .waitNetQueue then { x with act := .run } else x

/-- Bytes of a list of spans. -/
def State.gather (s : State) (l : List (Loc × Nat)) : List Byte := l.flatMap fun (a, n) => s.readLoc a n

/-- Copies of one engine that are outstanding (R83); abandoned ones no longer count. -/
def Engine.outstanding (x : Engine) : Nat := x.copies.countP fun o => !o.reset

/-- Hang an outstanding copy on the engine, waking the piers it reads and writes. -/
def State.pushCopy (s : State) (r : Run) (opc : BitVec 8) (flag : Nat) (segs : List Seg) (q : Option Plinth)
    (reads writes : List (Loc × Nat)) (outs : List Byte → List (Loc × List Byte)) : State :=
  let op : CopyOp :=
    { flag := flag, flagEngine := s.flagEngine r.e, segs := segs, plinth := q, srcSnap := s.gather reads,
      dstSnap := s.gather writes, outs := outs (s.gather reads), live := true, reset := false, homeCourse := r.c, slot := r.k, opc := opc,
      pc := (s.eng r.e).pc - 8, ord := s.nextCopy }
  let s := { s with nextCopy := s.nextCopy + 1 }
  let s := s.modEng r.e fun x => { x with copies := x.copies ++ [op] }
  (reads ++ writes).foldl (fun s a => match a.1 with | .pier p => s.wakePiers p a.2 | _ => s) s

def segReads (l : List Seg) : List (Loc × Nat) := l.map fun g => (g.src, g.len)
def segWrites (l : List Seg) : List (Loc × Nat) := l.map fun g => (g.dst, g.len)

/-- Split bytes over the destinations of segments. -/
def segOut : List Seg → List Byte → List (Loc × List Byte)
  | [], _ => []
  | g :: t, bs => (g.dst, bs.take g.len) :: segOut t (bs.drop g.len)

def cpyBody (f : Fields) (r : Run) (s : State) : Except Err State := do
  checkFields f .any .any .any .any 0
  s.flagCheck r f.d.toNat
  let x := s.eng r.e
  if x.outstanding ≥ 32 then .ok (s.holdIssue r.e .waitCopyQueue)
  else
    let n := (x.gr f.c).toNat
    if n = 0 then .ok (s.pushCopy r 0x20 f.d.toNat [] none [] [] (segOut []))
    else
      let src ← s.operand r false (x.gr f.a) n
      let dst ← s.operand r true (x.gr f.b) n
      require (!overlap src n dst n) (err faultFormat)
      let segs := [{ src := src, dst := dst, len := n }]
      .ok (s.pushCopy r 0x20 f.d.toNat segs none (segReads segs) (segWrites segs) (segOut segs))

def cpysBody (f : Fields) (r : Run) (s : State) : Except Err State := do
  checkFields f .any .any .no .no 0
  s.flagCheck r f.d.toNat
  let x := s.eng r.e
  if x.outstanding ≥ 32 then .ok (s.holdIssue r.e .waitCopyQueue)
  else
    let b ← s.lsBytes r.e (x.gr f.a).toNat 32
    let n := fieldAt b 0x10 4
    let rows := fieldAt b 0x14 4
    let sp := fieldAt b 0x18 4
    let dp := fieldAt b 0x1C 4
    if n = 0 ∨ rows = 0 then .ok (s.pushCopy r 0x21 f.d.toNat [] none [] [] (segOut []))
    else
      let src ← s.operand r false (w64At b 0) ((rows - 1) * sp + n)
      let dst ← s.operand r true (w64At b 8) ((rows - 1) * dp + n)
      let segs := (List.range rows).map fun i => { src := src.add (i * sp), dst := dst.add (i * dp), len := n : Seg }
      require (disjoint (segReads segs) (segWrites segs)) (err faultFormat)
      .ok (s.pushCopy r 0x21 f.d.toNat segs none (segReads segs) (segWrites segs) (segOut segs))

/-- CPYP with a descriptor whose OP is `op`; an OP that is no code faults under whichever row is commanded. -/
def cpypBody (op : Nat) (f : Fields) (r : Run) (s : State) : Except Err State := do
  checkFields f .any .any .no .no 0
  s.flagCheck r f.d.toNat
  let x := s.eng r.e
  if x.outstanding ≥ 32 then .ok (s.holdIssue r.e .waitCopyQueue)
  else
    let p ← s.plinthDesc r.e (x.gr f.a)
    if 1 ≤ p.op ∧ p.op ≤ 9 ∧ p.op ≠ op then .ok (s.modEng r.e fun x => { x with pc := x.pc - 8 })
    else
      let (q, offs) ← s.plinthIssue r p
      let none_ := plinthEmpty p
      let lst := if plinthListed p.op && !none_ then [(q.list, 8 * q.listCount)] else []
      .ok (s.pushCopy r 0x22 f.d.toNat [] (some q)
        (lst ++ if none_ then [] else q.reads offs) (if none_ then [] else q.writes offs)
        fun bs => if none_ then [] else (q.compute offs (bs.drop (if plinthListed p.op then 8 * q.listCount else 0))).out)

/-! ## Completion -/

/-- The byte pairs of what a copy read: its snapshot and what stands there now. -/
def State.raceSrc (s : State) (o : CopyOp) (reads : List (Loc × Nat)) : List Byte × State :=
  let now := s.gather reads
  if now = o.srcSnap then (now, s)
  else (mixBytes s.freeCtr (o.srcSnap.zip now), { s with freeCtr := s.freeCtr + now.length })

/-- What goes to spans whose bytes were `old` at the issue and are `now`: a byte that has changed keeps its present value
or takes the new one, freely. -/
def raceOut (ctr : Nat) : List (Loc × List Byte) → List Byte → List Byte → List (Loc × List Byte)
  | [], _, _ => []
  | (a, bs) :: t, now, old =>
    let n := bs.length
    let pairs := (bs.zip ((now.take n).zip (old.take n))).map fun (b, x, o) => (if x = o then b else x, b)
    (a, mixBytes ctr pairs) :: raceOut (ctr + n) t (now.drop n) (old.drop n)

/-- Write bytes to spans in order, so that of overlapping spans the later stays: R216 has it so for a SCATTER; for rows of one CPYS
that overlap, R203 says only that the value of one stays (DESIGN CHOICE, notes/assumptions/15.md). -/
def State.storeAll (s : State) (outs : List (Loc × List Byte)) : State :=
  outs.foldl (fun s w => s.storeLoc w.1 w.2) s

/-- Write bytes to spans; a byte that something else changed since the issue (`snap`) keeps its present value or takes
the new one, freely (R203). -/
def State.raceWrite (s : State) (outs : List (Loc × List Byte)) (snap : List Byte) : State :=
  let now := s.gather (outs.map fun w => (w.1, w.2.length))
  if now = snap.take now.length then s.storeAll outs
  else ({ s with freeCtr := s.freeCtr + now.length }).storeAll (raceOut s.freeCtr outs now snap)

/-- The first `n` bytes of a list of spans. -/
def takeSpans : Nat → List (Loc × Nat) → List (Loc × Nat)
  | _, [] => []
  | n, (a, k) :: t => if n = 0 then [] else (a, min k n) :: takeSpans (n - k) t

/-- The first `n` bytes of a list of writes. -/
def takeOut : Nat → List (Loc × List Byte) → List (Loc × List Byte)
  | _, [] => []
  | n, (a, bs) :: t => if n = 0 then [] else (a, bs.take n) :: takeOut (n - bs.length) t

/-- Pier bytes that spans read. -/
def State.countReads (s : State) (l : List (Loc × Nat)) : State :=
  l.foldl (fun s a => match a.1 with | .pier p => s.countPier true p a.2 | _ => s) s

/-- OR numeric status bits into the item that issued an operation, wherever it stands (R212). -/
def State.orStatus (s : State) (e c k : Nat) (b : BitVec 3) : State :=
  let r := s.runner e c k
  if (s.eng r).item == some (c, k) then s.modEng r fun x => x.status b
  else match s.hodSlot c k with
    | some h => s.setHod c k { h with saved := h.saved.map fun v => { v with numstat := v.numstat ||| b } }
    | none => s

/-- A REEXEC item's change to the flags of its engine is noted for undoing (R113). -/
def State.noteFlag (s : State) (e c k f : Nat) (v : W32) : State :=
  match s.hodSlot c k with
  | some h =>
    let r := s.runner e c k
    if !h.desc.reexec then s
    else if (s.eng r).item == some (c, k) || (s.eng r).reexecItem == some (c, k) then
      s.modEng r fun x => { x with undo := x.undo ++ [(f, v)] }
    else s.setHod c k { h with saved := h.saved.map fun y => { y with undo := y.undo ++ [(f, v)] } }
  | none => s

/-- Take outstanding copy `i` off the engine. -/
def State.dropCopy (s : State) (e i : Nat) : State :=
  (s.modEng e fun x => { x with copies := x.copies.eraseIdx i }).resumeQueue e

/-- The completion flag of a copy rises, while its item lives (R80, R461). -/
def State.copyFlag (s : State) (e : Nat) (o : CopyOp) : State :=
  if o.live && !o.reset then (s.flagAdd o.flagEngine o.flag 1).noteFlag e o.homeCourse o.slot o.flag 1 else s

/-- A linear or strided copy completes. -/
def State.finishCopy (s : State) (e i : Nat) (o : CopyOp) : State :=
  let (bs, s) := s.raceSrc o (segReads o.segs)
  let s := (s.countReads (segReads o.segs)).raceWrite (segOut o.segs bs) o.dstSnap
  (s.dropCopy e i).copyFlag e o

/-- The list offsets at the head of a plinth operation's snapshot. -/
def Plinth.snapOffs (p : Plinth) (snap : List Byte) : List Nat :=
  if plinthListed p.op then listOffs (snap.take (8 * p.listCount)) else []

/-- A plinth operation completes: tile, report, flush counter, ENC_SAT, flag (R212). The list is used as the issue
read it (R211). (DESIGN CHOICE, notes/assumptions/15.md: an invalid scale code in the source of WIDEN, REBLOCK or PACK faults
FORMAT with nothing written.) -/
def State.finishPlinth (s : State) (e i : Nat) (o : CopyOp) (p : Plinth) : State :=
  let ln := if plinthListed p.op then 8 * p.listCount else 0
  let offs := p.snapOffs o.srcSnap
  let empty := o.srcSnap.isEmpty
  let reads := if empty then [] else p.reads offs
  let (bs, s) := s.raceSrc { o with srcSnap := o.srcSnap.drop ln } reads
  let r := if empty then PlinthOut.none else p.compute offs bs
  let s := s.countReads ((if ln = 0 || empty then [] else [(p.list, ln)]) ++ reads)
  if r.bad then
    let s := s.dropCopy e i
    if o.reset then s else (s.asyncFault e o.homeCourse o.slot o.live faultFormat o.opc o.pc 0).choose e
  else
    let s := s.raceWrite r.out o.dstSnap
    let s := match p.report with | some l => s.storeLoc l r.report | none => s
    let s := match p.flush with | some l => s.addCounter l r.flushed | none => s
    let s := if r.sat && o.live then s.orStatus e o.homeCourse o.slot nsEncSat else s
    (s.dropCopy e i).copyFlag e o

/-- Outstanding copy `i` of engine `e`. -/
def State.copyOp (s : State) (e i : Nat) : Option CopyOp := (s.eng e).copies[i]?

/-- The pier whose plinth computes a digest: that of the span's first byte (R218). -/
def State.digestPier (s : State) (o : CopyOp) : Option Nat :=
  match o.plinth with
  | some p => match p.src with
    | .pier a => if p.op = 9 ∧ 0 < p.cols then (s.pierDecode a).map (·.1) else none
    | _ => none
  | none => none

/-- A digest that came to the same plinth earlier still runs: each plinth takes its digests in arrival order (R218). -/
def State.digestWaits (s : State) (o : CopyOp) : Bool :=
  (s.digestPier o).isSome &&
    s.engines.any fun (_, x) => x.copies.any fun y => decide (y.ord < o.ord) && s.digestPier y == s.digestPier o

/-- Mortar, stores and piers move only while the fast clocks run. -/
def State.copyComplete (s : State) (e i : Nat) (plinth : Bool) : State :=
  if !s.live then s
  else match s.copyOp e i with
    | none => s
    | some o => match o.plinth, plinth with
      | none, false => s.finishCopy e i o
      | some p, true => if s.digestWaits o then s else s.finishPlinth e i o p
      | _, _ => s

/-! ## Uncorrectable reads (R207, R208) -/

/-- The pier space address of a pier's local address, where a region holds it. -/
def State.pierAddr (s : State) (p loc : Nat) : Option Nat :=
  (s.cfg.regions ++ [stageRegion s.gen.capPiers]).findSome? fun r =>
    let l := pierList s.gen.capPiers r.kind r.target
    match l.idxOf? p with
    | none => none
    | some i =>
      let f := Tab.get 0 r.first p
      let pg := loc / pageSize
      if f ≤ pg then
        let page := (pg - f) * l.length + i
        if page * pageSize < r.size then some (r.base + page * pageSize + loc % pageSize) else none
      else none

/-- PIER_UE, PIER_UE_ADDR and PIER_UE_SRC record an uncorrectable line (R207, R223). -/
def State.recordUe (s : State) (p loc kind e : Nat) : State :=
  s.modPier p fun x =>
    let x := { x with ue := satAdd 32 x.ue 1 }
    if x.ueValid then x else { x with ueValid := true, ueLocal := loc / 64 * 64, ueKind := kind, ueEngine := e }

/-- The engine address of an uncorrectable line. -/
def State.ueAddr (s : State) (p loc : Nat) : W64 :=
  BitVec.ofNat 64 (2 ^ 63 + ((s.pierAddr p (loc / 64 * 64)).getD 0))

/-- How many bytes of a list of spans come before the first that lies on a pier line; with `part`, only a line that a
span covers in part counts (R203). None when no byte does. -/
def State.lineOffset (s : State) (p loc : Nat) (part : Bool) : Nat → List (Loc × Nat) → Option Nat
  | _, [] => none
  | k, (l, n) :: t =>
    let line := loc / 64 * 64
    let hit := match l with
      | .pier a => (pageParts (n / pageSize + 2) a n).findSome? fun (b, m) => match s.pierDecode b with
        | none => none
        | some (q, o) =>
          if q = p ∧ o < line + 64 ∧ line < o + m ∧ !(part && o ≤ line && line + 64 ≤ o + m)
          then some (b - a + (line - o)) else none
      | _ => none
    match hit with
    | some x => some (k + x)
    | none => s.lineOffset p loc part (k + n) t

/-- The smaller of two bounds that may be absent. -/
def minOpt : Option Nat → Option Nat → Option Nat
  | none, b => b
  | a, none => a
  | some a, some b => some (min a b)

/-- A tile operation that reads everything before it writes: PACK in strict mode, EXPAND, ZSCAN and DIGEST. -/
def Plinth.early (q : Plinth) : Bool := q.op = 5 || q.op = 8 || q.op = 9 || (q.op = 4 && !q.prune)

/-- What a plinth operation merges into lines once its tile is written: its report and its flush counter (R212). -/
def Plinth.closing (q : Plinth) : List (Loc × Nat) :=
  (match q.report with | some l => [(l, PlinthOut.none.report.length)] | none => []) ++
  match q.flush with | some l => [(l, 8)] | none => []

/-- Bytes of the list that a listed operation reads. -/
def Plinth.listLen (q : Plinth) : Nat := if plinthListed q.op then 8 * q.listCount else 0

/-- How many bytes of its list a listed operation reads before it meets a pier line there. -/
def State.listOffset (s : State) (q : Plinth) (p loc : Nat) : Option Nat := s.lineOffset p loc false 0 [(q.list, q.listLen)]

/-- How many bytes of a list of spans come before a byte of a store, which one of them covers. -/
def wordOffset (w : Loc) : Nat → List (Loc × Nat) → Option Nat
  | _, [] => none
  | k, (l, n) :: t => if overlap w 1 l n then some (k + (w.off - l.off)) else wordOffset w (k + n) t

/-- How many destination bytes a copy may have written when it meets what it cannot read: `at_` finds that in what it reads itself,
or (true) reads to merge what it writes in part; none when it does not read it (R207, R208). A listed operation moves its entries in
order, and reads its list first; an operation on a tile works row by row, in fours, and takes its scale and index bytes
first, if it does not read everything first; the report and the flush counter come after the tile. -/
def CopyOp.boundBy (o : CopyOp) (at_ : Bool → List (Loc × Nat) → Option Nat) : Option Nat :=
  match o.plinth with
  | none => minOpt (at_ false (segReads o.segs)) (at_ true (segWrites o.segs))
  | some q =>
    let offs := q.snapOffs o.srcSnap
    let writes := if o.srcSnap.isEmpty then [] else q.writes offs
    let close := (at_ true q.closing).map fun _ => (writes.map (·.2)).sum
    if o.srcSnap.isEmpty then close
    else
      let inner := at_ false (q.reads offs)
      let merge := minOpt (at_ true writes) close
      if plinthListed q.op then
        if (at_ false [(q.list, q.listLen)]).isSome then some 0 else minOpt inner merge
      else
        let rl := q.srcSide.rowLen q.cols
        let bound := inner.map fun x =>
          if q.early || q.rows * rl ≤ x then 0 else x / rl / 4 * 4 * q.dstSide.rowLen q.cols
        minOpt bound merge

/-- That bound for a pier line. -/
def State.copyBound (s : State) (o : CopyOp) (p loc : Nat) : Option Nat :=
  o.boundBy fun merge l => s.lineOffset p loc merge 0 l

/-- That bound for a byte of a local store or a course store. -/
def CopyOp.wordBound (o : CopyOp) (w : Loc) : Option Nat := o.boundBy fun merge l => if merge then none else wordOffset w 0 l

/-- How many bytes of its source spans an operation must have read to have written `done` destination bytes, its rows in
fours, and its scale and index bytes before its first row. -/
def Plinth.needs (q : Plinth) (reads : List (Loc × Nat)) (done : Nat) : List (Loc × Nat) :=
  if done = 0 then []
  else if plinthListed q.op then takeSpans done reads
  else if q.early then reads
  else
    let rows := (done + q.dstSide.rowLen q.cols - 1) / max 1 (q.dstSide.rowLen q.cols)
    reads.take ((rows + 3) / 4 * 4) ++ (reads.drop q.rows)

/-- The spans that a copy that stops after `done` destination bytes has read: those bytes' sources, and before them the list of
a listed operation, of which `list` bytes had been read (R208, R223; DESIGN CHOICE, notes/assumptions/27.md: no further
ones). -/
def CopyOp.stopReads (o : CopyOp) (done : Nat) (list : Option Nat) : List (Loc × Nat) :=
  match o.plinth with
  | none => takeSpans done (segReads o.segs)
  | some q =>
    if o.srcSnap.isEmpty then []
    else takeSpans (list.getD q.listLen) [(q.list, q.listLen)] ++ q.needs (q.reads (q.snapOffs o.srcSnap)) done

/-- A copy stops after `done` destination bytes; its item faults with `code` (R208, R112). `list` says how much of its list it
had read, when it stops there. -/
def State.stopCopy (s : State) (e i done : Nat) (list : Option Nat) (code : BitVec 8) (addr : W64) : State :=
  match s.copyOp e i with
  | none => s
  | some o =>
    let s := s.countReads (o.stopReads done list)
    let s := match o.plinth with
      | none =>
        let (bs, s) := s.raceSrc o (segReads o.segs)
        s.raceWrite (takeOut done (segOut o.segs bs)) o.dstSnap
      | some p =>
        if o.srcSnap.isEmpty then s
        else
          let offs := p.snapOffs o.srcSnap
          let (bs, s) := s.raceSrc { o with srcSnap := o.srcSnap.drop p.listLen } (p.reads offs)
          s.raceWrite (takeOut done (p.compute offs bs).out) o.dstSnap
    let s := s.dropCopy e i
    if o.reset then s else (s.asyncFault e o.homeCourse o.slot o.live code o.opc o.pc addr).choose e

/-- A copy meets a byte of a local store or a course store that it cannot read, after `done` destination bytes at most. -/
def State.stopAtWord (s : State) (e i done : Nat) (w : Loc) (code : BitVec 8) (addr : W64) : State :=
  match s.copyOp e i with
  | none => s
  | some o => match o.wordBound w with
    | none => s
    | some n => s.stopCopy e i (min done n) (o.plinth.bind fun q => wordOffset w 0 [(q.list, q.listLen)]) code addr

def execCpy (e : Nat) (f : Fields) (s : State) : Host.Outcome State Fault Refusal :=
  guarded (isEngine e) (s.issue e 0x20 f (cpyBody f))

def execCpys (e : Nat) (f : Fields) (s : State) : Host.Outcome State Fault Refusal :=
  guarded (isEngine e) (s.issue e 0x21 f (cpysBody f))

def execNarrow (e : Nat) (f : Fields) (s : State) : Host.Outcome State Fault Refusal :=
  guarded (isEngine e) (s.issue e 0x22 f (cpypBody 1 f))

def execWiden (e : Nat) (f : Fields) (s : State) : Host.Outcome State Fault Refusal :=
  guarded (isEngine e) (s.issue e 0x22 f (cpypBody 2 f))

def execReblock (e : Nat) (f : Fields) (s : State) : Host.Outcome State Fault Refusal :=
  guarded (isEngine e) (s.issue e 0x22 f (cpypBody 3 f))

def execPack (e : Nat) (f : Fields) (s : State) : Host.Outcome State Fault Refusal :=
  guarded (isEngine e) (s.issue e 0x22 f (cpypBody 4 f))

def execExpand (e : Nat) (f : Fields) (s : State) : Host.Outcome State Fault Refusal :=
  guarded (isEngine e) (s.issue e 0x22 f (cpypBody 5 f))

def execGather (e : Nat) (f : Fields) (s : State) : Host.Outcome State Fault Refusal :=
  guarded (isEngine e) (s.issue e 0x22 f (cpypBody 6 f))

def execScatter (e : Nat) (f : Fields) (s : State) : Host.Outcome State Fault Refusal :=
  guarded (isEngine e) (s.issue e 0x22 f (cpypBody 7 f))

def execZscan (e : Nat) (f : Fields) (s : State) : Host.Outcome State Fault Refusal :=
  guarded (isEngine e) (s.issue e 0x22 f (cpypBody 8 f))

def execDigest (e : Nat) (f : Fields) (s : State) : Host.Outcome State Fault Refusal :=
  guarded (isEngine e) (s.issue e 0x22 f (cpypBody 9 f))

def execCopyComplete (e i : Nat) (s : State) : Host.Outcome State Fault Refusal :=
  guarded (isEngine e) (s.copyComplete e i false)

def execPlinthOpComplete (e i : Nat) (s : State) : Host.Outcome State Fault Refusal :=
  guarded (isEngine e) (s.copyComplete e i true)

end Sys2Proof.Machine
end

