-- ==== Sys2Proof/Machine/Packets.lean ====
section
/-!
DEFINITION. Packets: their bytes and checks (R262 to R264), addresses (R265), message codes (R266) and virtual
channels.
-/
namespace Sys2Proof.Machine

/-- The 32 header bytes of a packet; `z` takes DL and HOPS as zero and `h` is the HCRC field (R262, R263). -/
def headerBytes (p : Packet) (z : Bool) (h : Nat) : List Byte :=
  let w0 : BitVec 32 := p.opc ++ BitVec.ofBool p.opn ++ BitVec.ofBool (p.dl && !z) ++ BitVec.ofBool p.fence ++
    BitVec.ofBool p.epoch ++ p.tc ++ p.dest
  let w1 : BitVec 32 := BitVec.ofBool p.eval ++ p.slice ++ p.src
  let w2 : BitVec 32 := (if z then 0 else p.hops) ++ p.sdie ++ p.seq
  let w3 : BitVec 32 := (0 : BitVec 6) ++ p.ctx ++ p.len
  let w4 : BitVec 32 := (0 : BitVec 15) ++ p.tgtFlag ++ p.tgtEngine
  let w5 : BitVec 64 := p.arg ++ p.addr
  leBytes 4 w0.toNat ++ leBytes 4 w1.toNat ++ leBytes 4 w2.toNat ++ leBytes 4 w3.toNat ++ leBytes 4 w4.toNat ++
  leBytes 8 w5.toNat ++ [0, 0] ++ leBytes 2 h

/-- One bit of a CRC-16 with generator 0x1021. -/
def crc16Bit (c : BitVec 16) (b : Bool) : BitVec 16 := if c.msb != b then c <<< 1 ^^^ 0x1021 else c <<< 1

/-- CRC-16, initial value 0xFFFF, most significant bit first, no final inversion (R263). -/
def crc16 (bs : List Byte) : BitVec 16 :=
  bs.foldl (fun c b => (List.range 8).foldl (fun c i => crc16Bit c (b.getLsbD (7 - i))) c) 0xFFFF

/-- One bit of the reflected CRC-32 of IEEE 802.3. -/
def crc32Bit (c : BitVec 32) : BitVec 32 := if c.getLsbD 0 then c >>> 1 ^^^ 0xEDB88320 else c >>> 1

/-- CRC-32 of IEEE 802.3 (R263, R29). -/
def crc32 (bs : List Byte) : BitVec 32 :=
  (bs.foldl (fun c b => (List.range 8).foldl (fun c _ => crc32Bit c) (c ^^^ b.setWidth 32)) 0xFFFFFFFF) ^^^ 0xFFFFFFFF

/-- Bytes rounded up to a multiple of 8. -/
def pad8 (n : Nat) : Nat := (n + 7) / 8 * 8

/-- The payload of LEN bytes. -/
def pktPayload (p : Packet) : List Byte :=
  let b := p.payload.take p.len.toNat
  b ++ List.replicate (p.len.toNat - b.length) 0

/-- The payload padded to a multiple of 8. -/
def paddedPayload (p : Packet) : List Byte :=
  pktPayload p ++ List.replicate (pad8 p.len.toNat - p.len.toNat) 0

def hcrcOf (p : Packet) : BitVec 16 := crc16 ((headerBytes p true 0).take 30)
def crcOf (p : Packet) : BitVec 32 := crc32 (headerBytes p true 0 ++ paddedPayload p)

/-- A packet with both checks as its sender computes them. -/
def sealed_ (p : Packet) : Packet := { p with hcrc := hcrcOf p, crc := crcOf p }

/-- Flits of a packet of LEN bytes (R264). -/
def flitsOf (len : Nat) : Nat := (32 + pad8 len + 8 + 127) / 128

/-- LEN is at most 4,096 and agrees with the flits that came (R264). -/
def lenOk (p : Packet) : Bool := p.len ≤ 4096 && flitsOf p.payload.length == flitsOf p.len.toNat

/-- Two copies of one packet, whatever the hops between them changed. -/
def samePkt (a b : Packet) : Bool :=
  { a with dl := false, hops := 0, discard := false } == { b with dl := false, hops := 0, discard := false }

/-- A packet with no field set. -/
def blankPkt : Packet :=
  { dest := 0, tc := 0, epoch := false, fence := false, dl := false, opn := false, opc := 0, src := 0, slice := 0,
    eval := false, seq := 0, sdie := 0, hops := 0, len := 0, ctx := 0, tgtEngine := 0, tgtFlag := 0x3F, addr := 0,
    arg := 0, hcrc := 0, payload := [], crc := 0, discard := false }

/-- The ADDR of a remote engine address that is expressible (R265), its offset within its space (R72); none is ADDR. A span
that reaches past its end is for the destination to refuse (R272). -/
def remoteAddr (a : W64) : Option (BitVec 48) :=
  let v := a.toNat
  match v / 2 ^ 62 with
  | 1 => if bits v 61 54 = 0 ∧ bits v 47 22 = 0 ∧ bits v 21 0 < 0x3E0000 then
      some (BitVec.ofNat 48 (2 ^ 46 + bits v 53 48 * 2 ^ 40 + bits v 21 0)) else none
  | 2 => if bits v 61 41 = 0 then some (BitVec.ofNat 48 (2 ^ 47 + bits v 40 0)) else none
  | _ => none

/-- The place that an ADDR names; none when it is of neither form. -/
def addrLoc (a : BitVec 48) : Option Loc :=
  let v := a.toNat
  match v / 2 ^ 46 with
  | 1 => if bits v 39 22 = 0 then some (.cs (bits v 45 40) (bits v 21 0)) else none
  | 2 => if bits v 45 41 = 0 then some (.pier (bits v 40 0)) else none
  | _ => none

/-- A message code that is assigned and may travel in a class (R266, R309, *Casts*, *Power levels*). -/
def msgOk (opc tc : Nat) : Bool :=
  let low := tc == 1 || tc == 2 || tc == 3
  match opc with
  | 0x10 | 0x12 | 0x13 => low
  | 0x11 | 0x14 => low || tc == 5
  | 0x20 | 0x21 => tc == 5
  | 0x30 | 0x31 | 0x32 | 0x33 => tc == 1
  | 0x50 | 0x51 => tc == 4
  | 0xF0 | 0xF1 => low || tc == 0 || tc == 5
  | _ => (0x40 ≤ opc && opc ≤ 0x47 && tc == 3) || (0x60 ≤ opc && opc ≤ 0x6F && tc == 0)

/-- The axis of a torus port as an arrival class: W 1, X 2, Y 3, Z 4 (R259). -/
def axisOf (port : Nat) : Nat := if port < 4 then 1 else port / 2

/-- The die that owns a torus port (R250). -/
def ownerDie (port : Nat) : Nat := [0, 1, 0, 1, 0, 1, 2, 2, 2, 3].getD port 0

/-- Whether a message is sequenced: TC4 datagrams, ACK and REFUSED are not (R267, R269). -/
def sequenced (p : Packet) : Bool := p.tc ≠ 4 && p.opc ≠ 0xF0 && !(p.opc == 0xF1 && p.arg == 1)

end Sys2Proof.Machine
end

