-- ==== Sys2Proof/Machine/Transport.lean ====
section
/-!
DEFINITION. Routing of packets (R277 to R282, R290) and the sending side of the transport (R267 to R276, R280, R462).
-/
namespace Sys2Proof.Machine

def State.modRte (s : State) (f : Rte → Rte) : State := { s with rte := f s.rte }

/-- The module delivers packets addressed to this node (R279): ROLE 0 with this node ID. -/
def State.ownNode (s : State) (n : BitVec 17) : Bool :=
  s.cfg.applied && s.cfg.slice.role == 0 && s.cfg.slice.nodeId == n

def State.half (s : State) (ep : Bool) : Half := if ep then s.rte.half1 else s.rte.half0
def State.setHalf (s : State) (ep : Bool) (h : Half) : State :=
  s.modRte fun r => if ep then { r with half1 := h } else { r with half0 := h }

/-- The entry of die `d` at an index of one half. -/
def State.entry (s : State) (d : Nat) (ep : Bool) (idx : Nat) : Nat :=
  (Tab.get 0 (Tab.get [] s.rte.routes (2 * d + b2n ep)) idx).toNat

/-! ## Routing -/

/-- A packet is queued on a torus port, or discarded when the port is neither UP nor NBR_FROZEN (R290, R292). -/
def State.enqueue (s : State) (port : Nat) (q : QPkt) : State :=
  s.modPort port fun x =>
    if x.st == .up || x.st == .frozen then { x with queue := x.queue ++ [q] }
    else { x with downDrop := satAdd 64 x.downDrop 1 }

/-- Die router `d` looks a packet up and acts on its entry. `cls` is the arrival class (0 injected), `chan` the mortar
channel, `whole` says that the trailer has been checked, `inp` is the input buffer that its flits lie in. The trailer of a
packet that is not whole follows it over mortar. -/
def State.routeAt (s : State) (d : Nat) (p : Packet) (cls chan : Nat) (whole : Bool) (inp : Option (Nat × Nat)) : State :=
  let e := if s.half p.epoch == .loading then 0 else s.entry d p.epoch (p.tc.toNat * 2 ^ 17 + p.dest.toNat)
  let wild := p.tc == 0 && p.slice == 0x3FFF
  let out := bits e 30 27
  if !bit e 31 then s.modCtr d fun c => { c with miss := satAdd 64 c.miss 1 }
  else if bits e 25 12 ≠ p.slice.toNat && !wild then s.modCtr d fun c => { c with sliceDrop := satAdd 64 c.sliceDrop 1 }
  else if out ≤ 9 then
    if p.hops = 63 then s.modCtr d fun c => { c with hopsDrop := satAdd 64 c.hopsDrop 1 }
    else
      let dl := bit e 26 || (p.dl && axisOf out == cls)
      s.enqueue out { pkt := { p with dl := dl, hops := p.hops + 1 }, vc := 2 * p.tc.toNat + b2n dl, whole := whole, inp := inp }
  else if out = 10 then
    if s.ownNode p.dest && (s.cfg.slice.sliceId == p.slice || wild) then
      s.modRte fun r => { r with arrived := r.arrived ++ [{ die := d, pkt := p, whole := whole, inp := inp }] }
    else s.modCtr d fun c => { c with misdeliver := satAdd 64 c.misdeliver 1 }
  else if out = 12 ∨ out = 13 then
    let nd := if out = 12 then (d + 1) % 4 else (d + 3) % 4
    let ch := if (out = 12 ∧ d = 3) ∨ (out = 13 ∧ d = 0) then 1 else chan
    s.modRte fun r => { r with
      mortar := r.mortar ++ [{ die := nd, pkt := p, cls := cls, chan := ch, whole := whole }],
      tails := if whole then r.tails else r.tails ++ [{ src := d, die := nd, pkt := p, passed := false, bad := false }] }
  else s.modCtr d fun c => { c with miss := satAdd 64 c.miss 1 }

/-- The torus port of the first hop from die `d` under a class and the injection epoch, through mortar entries
(R234, R312). -/
def State.firstPort (s : State) (dest tc : Nat) : Nat → Nat → Option Nat
  | 0, _ => none
  | f + 1, d =>
    let e := if s.half s.rte.inj == .loading then 0 else s.entry d s.rte.inj (tc * 2 ^ 17 + dest)
    if !bit e 31 then none
    else
      let out := bits e 30 27
      if out ≤ 9 then some out
      else if out = 12 then s.firstPort dest tc f ((d + 1) % 4)
      else if out = 13 then s.firstPort dest tc f ((d + 3) % 4)
      else none

/-- The port of the first hop from a die; a path crosses at most two mortar links. -/
def State.hopPort (s : State) (d dest tc : Nat) : Option Nat := s.firstPort dest tc 4 d

/-- The die that injects a packet of the module itself: the one that owns the port of its first hop, else CD0
(R234, R342). The lookup starts from dies 0 to 3 in turn, until one finds a port (DESIGN CHOICE, notes/assumptions/25.md). -/
def State.hopDie (s : State) (dest tc : Nat) : Nat :=
  match (List.range 4).findSome? fun d => s.hopPort d dest tc with
  | some p => ownerDie p
  | none => 0

/-! ## Send flows -/

/-- The flow that a packet of this module belongs to (R267). -/
def flowOf (p : Packet) : FlowId :=
  { src := p.src.toNat, sdie := p.sdie.toNat, dest := p.dest.toNat, tc := p.tc.toNat, epoch := p.epoch }

def State.flow (s : State) (id : FlowId) : Option SendFlow := s.rte.send.find? fun f => f.id == id

def State.setFlow (s : State) (g : SendFlow) : State :=
  s.modRte fun r => { r with send := r.send.map fun f => if f.id == g.id then g else f }

def State.closeFlow (s : State) (id : FlowId) : State :=
  s.modRte fun r => { r with send := r.send.filter fun f => f.id != id }

/-- Two flows of one source (node and die) to one destination. -/
def samePair (a b : FlowId) : Bool := a.src == b.src && a.sdie == b.sdie && a.dest == b.dest

/-- AOCLK cycles of 64 ms. -/
def fenceWait : Nat := 1600000

/-- An earlier packet of the same source to the same destination still stands in the way of a FENCE packet: it is not
acknowledged, or its flow gave up less than 64 ms ago (R275). -/
def State.fenced (s : State) (id : FlowId) (ord : Nat) : Bool :=
  s.rte.send.any (fun f => samePair f.id id && f.unacked.any fun u => u.ord < ord) ||
  s.rte.waiting.any (fun w => samePair (flowOf w.pkt) id && w.ord < ord) ||
  s.rte.gaveUp.any (fun g => samePair g.1 id && g.2.1 < ord && s.gen.time < g.2.2 + fenceWait)

/-- A READ takes its SEQ, by which its READ_DATA will name it (R462). -/
def State.noteSeq (s : State) (op : OpRef) (p : Packet) : State :=
  match op with
  | .engine e id =>
    if p.opc ≠ 0x12 then s
    else s.modEng e fun x => { x with nets := x.nets.map fun o =>
      if o.id ≠ id then o
      else { o with parts := match o.parts.findIdx? fun g => g.seq.isNone with
                    | some i => o.parts.modify i fun g => { g with seq := some p.seq.toNat }
                    | none => o.parts } }
  | _ => s

/-- Retained packets and send flows of a die (R271). -/
def State.retained (s : State) (d : Nat) : Nat :=
  ((s.rte.send.filter fun f => f.id.sdie == d).map fun f => f.unacked.length).sum
def State.sendFlows (s : State) (d : Nat) : Nat := s.rte.send.countP fun f => f.id.sdie == d

/-- A packet enters its flow (R268, R271, R275); none when no send flow or retained-packet place is free. -/
def State.launch (s : State) (w : Waiting) : Option State :=
  let id := flowOf w.pkt
  let d := id.sdie
  let fl := s.flow id
  if s.retained d ≥ 65536 || (fl.isNone && s.sendFlows d ≥ 16384) then none
  else
    let ctr := Tab.get 0 s.rte.openCtr d
    let f := fl.getD { id := id, nextSeq := ctr, unacked := [], expiries := 0, backoff := none, refusals := 0,
                       flipped := true }
    let s := if fl.isSome then s
      else s.modRte fun r => { r with openCtr := Tab.put 0 r.openCtr d (ctr + 1), send := r.send ++ [f] }
    let old := s.rte.send.any (fun g => samePair g.id id && g.id.epoch != id.epoch && !g.unacked.isEmpty) ||
      s.rte.waiting.any fun x => samePair (flowOf x.pkt) id && x.pkt.epoch != id.epoch && x.ord < w.ord
    let fence := w.pkt.fence || (f.flipped && s.half id.epoch != .draining && old)
    let p := sealed_ { w.pkt with seq := f.nextSeq, opn := fl.isNone, fence := fence }
    let hold := f.unacked.any (fun u => !u.out) || (fence && s.fenced id w.ord)
    let u : Sent := { pkt := p, op := w.op, src := w.src, last := w.last, ord := w.ord, out := !hold }
    let s := s.setFlow { f with nextSeq := f.nextSeq + 1, unacked := f.unacked ++ [u], flipped := false }
    let s := s.noteSeq w.op p
    some (if hold then s else s.routeAt d p 0 0 true none)

/-- A packet with the fields its injection stamps (R262, R276, R278). -/
def State.stamped (s : State) (d : Nat) (p : Packet) (ep : Bool) : Packet :=
  { p with src := s.cfg.slice.nodeId, sdie := BitVec.ofNat 2 d, epoch := ep,
           slice := if p.tc = 0 ∧ p.slice = 0x3FFF then 0x3FFF else s.cfg.slice.sliceId }

/-- Die `d` injects a packet under an epoch: to this module itself (R280), as a datagram or unsequenced answer, or in
its flow. A packet to itself carries its issue number in SEQ, by which a READ_DATA names its READ. -/
def State.send (s : State) (d : Nat) (p : Packet) (ep : Bool) (op : OpRef) (src : Option Loc) (last : Bool) : State :=
  let p := s.stamped d p ep
  if s.ownNode p.dest then
    let p := { p with seq := BitVec.ofNat 24 s.rte.nextOrd }
    let s := s.noteSeq op p
    s.modRte fun r => { r with
      locals_ := r.locals_ ++ [{ pkt := sealed_ p, op := op, src := src, last := last, refusals := 0 }],
      nextOrd := r.nextOrd + 1 }
  else if !sequenced p then s.routeAt d (sealed_ { p with seq := 0 }) 0 0 true none
  else
    let w : Waiting := { die := d, pkt := p, op := op, src := src, last := last, ord := s.rte.nextOrd }
    let s := s.modRte fun r => { r with nextOrd := r.nextOrd + 1 }
    let wait (s : State) : State := s.modRte fun r => { r with waiting := r.waiting ++ [w] }
    if s.rte.waiting.any fun x => x.die == d then wait s
    else (s.launch w).getD (wait s)

/-- An injection that waited goes on when a place is free (R271). -/
def State.resumeInjection (s : State) (d : Nat) : State :=
  match s.rte.waiting.find? fun w => w.die == d with
  | none => s
  | some w =>
    let s' := s.modRte fun r => { r with waiting := r.waiting.erase w }
    (s'.launch w).getD s

/-! ## Sending again (R270, R273, R274) -/

/-- One retained packet is sent again, its payload taken from its source span as it stands now. -/
def State.resendOne (s : State) (u : Sent) : State :=
  let d := u.pkt.sdie.toNat
  let p := match u.src with
    | none => u.pkt
    | some l => sealed_ { u.pkt with payload := s.readLoc l u.pkt.len.toNat }
  (s.modCtr d fun c => { c with retx := satAdd 64 c.retx 1 }).routeAt d p 0 0 true none

/-- A flow sends its packets again from position `i` on; those that wait behind a FENCE wait. -/
def State.resendFrom (s : State) (f : SendFlow) (i : Nat) : State :=
  let us := (f.unacked.drop i).filter (·.out)
  us.foldl State.resendOne (s.setFlow { f with flipped := false })

/-! ## How operations end (R269, R270, R272) -/

/-- Operation `id` of engine `e`. -/
def State.netOp (s : State) (e id : Nat) : Option NetOp := (s.eng e).nets.find? fun o => o.id == id

def State.modNet (s : State) (e id : Nat) (f : NetOp → NetOp) : State :=
  s.modEng e fun x => { x with nets := x.nets.map fun o => if o.id == id then f o else o }

def State.dropNet (s : State) (e id : Nat) : State :=
  (s.modEng e fun x => { x with nets := x.nets.filter fun o => o.id != id }).resumeQueue e

/-- A network operation of an engine completes: its flag rises while its item lives; a step is counted, and one with
PLAN_END frees the plan (R311, R316, R461). -/
def State.netDone (s : State) (e id : Nat) : State :=
  match s.netOp e id with
  | none => s
  | some o =>
    let s := s.dropNet e id
    if o.reset then s
    else
      let s := match o.step, s.partOfEngine e with
        | some st, some p => s.modPart p fun x =>
            { x with steps := satAdd 64 x.steps 1, planLock := x.planLock && !st.planEnd }
        | _, _ => s
      if o.live then (s.flagAdd o.flagEngine o.flag 1).noteFlag e o.homeCourse o.slot o.flag 1 else s

/-- A network operation of an engine fails with a fault code (R270, R272, R461). -/
def State.netFail (s : State) (e id : Nat) (code : BitVec 8) (addr : W64 := 0) : State :=
  match s.netOp e id with
  | none => s
  | some o =>
    let s := s.dropNet e id
    if o.reset then s
    else
      let s := if o.live then s else s.ctxFault o.ctx code o.opc e o.itemSeq
      (s.asyncFault e o.homeCourse o.slot o.live code o.opc o.pc addr).choose e

/-- A cast send or restore ends FAILED (R346, R347, R349). -/
def State.castFail (s : State) (code : BitVec 8) : State :=
  if s.ckp.st = 1 ∨ s.ckp.st = 3 then
    { s with ckp := { s.ckp with st := 5, code := code, sending := none, restoring := none } }
  else s

/-- Cast number `n` is being sent. -/
def State.sendsCast (s : State) (n : Nat) : Bool := s.ckp.st == 1 && s.ckp.sending.any fun c => c.n == n

/-- The RESTORE_END that closes a stream of this holder is acknowledged, or will never be; one with ARG 2 closes none. -/
def State.streamEnd (s : State) (p : Packet) : State :=
  if p.opc = 0x46 ∧ p.arg ≠ 2 then { s with ckp := { s.ckp with streams := s.ckp.streams - 1 } } else s

/-- A packet is acknowledged, or a local one delivered, whose delivery completes something. -/
def State.opDone (s : State) (op : OpRef) (p : Packet) (last : Bool) : State :=
  match op with
  | .engine e id => if last && p.opc ≠ 0x12 then s.netDone e id else s
  | .castSend n =>
    match s.ckp.sending with
    | none => s
    | some c =>
      if c.n ≠ n then s
      else if p.opc = 0x40 then { s with ckp := { s.ckp with sending := some { c with begun := true } } }
      else if p.opc = 0x42 then
        { s with ckp := { s.ckp with st := 2, code := 0, resultTag := BitVec.ofNat 64 (fieldAt c.header 8 8), sending := none,
                                     sent := satAdd 64 s.ckp.sent 1 } }
      else s
  | .reply => s.streamEnd p
  | _ => s

/-- The fault code of a RESPONSE at the requesting item (R272). -/
def responseFault (status : Nat) : BitVec 8 :=
  if status = 2 then faultPierUe else if status = 4 then faultExtent else faultAccess

/-- The cast status code of a RESPONSE at the sender (R344, R345). -/
def responseCast (status : Nat) : BitVec 8 := if status = 2 then 0x08 else if status = 4 then 0x04 else 0x03

/-- A packet's operation fails: with the status of a RESPONSE, or by give-up (none). -/
def State.opFail (s : State) (op : OpRef) (p : Packet) (status : Option Nat) : State :=
  match op with
  | .engine e id => s.netFail e id (match status with | some k => responseFault k | none => faultNetFail)
  | .castSend n => if s.sendsCast n then s.castFail (match status with | some k => responseCast k | none => 0x05) else s
  | .restore n =>
    if s.ckp.st = 3 ∧ p.opc = 0x43 ∧ s.ckp.restoring.any (fun r => r.n == n) then
      s.castFail (match status with | some _ => 0x03 | none => 0x05)
    else s
  | .reply => s.streamEnd p
  | .key _ => s

/-- SEQ `a` is at most `b` in a window of 2^23. -/
def seqLe (a b : BitVec 24) : Bool := decide ((b - a).toNat < 2 ^ 23)

/-- A flow is acknowledged up to a SEQ, and the packet with that SEQ has failed with `status` when one is given
(R269, R270). -/
def State.acked (s : State) (id : FlowId) (upto : BitVec 24) (status : Option Nat) : State :=
  match s.flow id with
  | none => s
  | some f =>
    let done := f.unacked.takeWhile fun u => u.out && seqLe u.pkt.seq upto
    if done.isEmpty then s
    else
      let past := match f.backoff with
        | some q => seqLe q upto
        | none => true
      let s := s.setFlow { f with unacked := f.unacked.drop done.length, expiries := 0,
                                  backoff := if past then none else f.backoff,
                                  refusals := if past then 0 else f.refusals }
      done.foldl (fun s u =>
        match status with
        | some k => if u.pkt.seq = upto then s.opFail u.op u.pkt (some k) else s.opDone u.op u.pkt u.last
        | none => s.opDone u.op u.pkt u.last) s

/-- A flow gives up: it closes, and every operation with a packet in it fails (R270). -/
def State.giveUp (s : State) (f : SendFlow) : State :=
  let s := (s.closeFlow f.id).modCtr f.id.sdie fun c => { c with giveUp := satAdd 64 c.giveUp 1 }
  let s := s.modRte fun r => { r with
    gaveUp := r.gaveUp ++ [(f.id, ((f.unacked.map (·.ord)).head?).getD r.nextOrd, s.gen.time)] }
  f.unacked.foldl (fun s u => s.opFail u.op u.pkt none) s

/-- Packets that waiting steps of an epoch will send, which belong to the epoch of their issue (R276). -/
def State.stepPackets (s : State) (ep : Bool) : Nat :=
  (s.engines.flatMap fun (_, x) => x.nets.map fun o => match o.step with
    | some w => if o.epoch == ep && w.waitEn && !w.met && w.sendEn && !o.reset then max 1 ((o.len + 4095) / 4096) else 0
    | none => 0).sum

/-- Old-epoch packets issued and not yet acknowledged or given up (R286). -/
def State.oldOpen (s : State) : Nat :=
  let of (ep : Bool) : Nat :=
    ((s.rte.send.filter fun f => f.id.epoch == ep).map fun f => f.unacked.length).sum +
    (s.rte.waiting.countP fun w => w.pkt.epoch == ep) + s.stepPackets ep
  if s.rte.half0 == .draining then of false else if s.rte.half1 == .draining then of true else 0

/-- RTE_EPOCH.DRAINED. -/
def State.drained (s : State) : Bool :=
  (s.rte.half0 == .draining || s.rte.half1 == .draining) && s.oldOpen == 0

end Sys2Proof.Machine
end

