-- ==== Sys2Proof/Machine/Sync.lean ====
section
/-!
DEFINITION. Sync flags and keystone lines, opcodes 0x60 to 0x65 and their waits (R95, R96, R113, R224 to R236).
-/
namespace Sys2Proof.Machine

/-! ## Flags -/

/-- A restricted instruction of a REEXEC item (R113). -/
def noReexec (r : Run) : Except Err Unit := require (!r.d.reexec) (err faultAccess)

def fincBody (f : Fields) (r : Run) (s : State) : Except Err State := do
  checkFields f .any .any .no .no 0x8000FFFF
  s.flagCheck r f.d.toNat
  let n := f.d.toNat
  let v : W32 := f.imm &&& 0xFFFF
  if f.imm.msb then .ok ((s.flagAdd (s.flagEngine r.e) n v).noteFlag r.e r.c r.k n v)
  else
    let t := ((s.eng r.e).gr f.a).toNat
    require (decide (t < 2048) && s.partOfEngine t == some r.part) (err faultAccess)
    if t = s.flagEngine r.e then .ok ((s.flagAdd t n v).noteFlag r.e r.c r.k n v)
    else
      noReexec r
      .ok (s.flagAdd t n v)

/-- A met FWAIT subtracts when asked (R225, R227). -/
def State.consume (s : State) (e f : Nat) (v : W32) (take : Bool) : State :=
  if !take then s
  else
    let t := s.flagEngine e
    let s := s.setFlag t f (s.flagVal t f - v)
    match (s.eng e).item with
    | some (c, k) => s.noteFlag e c k f (-v)
    | none => s

def fwaitBody (f : Fields) (r : Run) (s : State) : Except Err State := do
  checkFields f .any .any .any .no immAll
  require (decide (f.b ≤ 1)) (err faultIllegal)
  s.flagCheck r f.d.toNat
  let v : W32 := ((s.eng r.e).gr f.a + sextImm f).setWidth 32
  let take := f.b == 1
  if v ≤ s.flagVal (s.flagEngine r.e) f.d.toNat then .ok (s.consume r.e f.d.toNat v take)
  else onEngine r.e (fun x => { x with act := .waitFlag f.d.toNat v take }) s

/-- A waiting engine of a running partition, its course awake. -/
def State.mayResume (s : State) (e : Nat) : Bool :=
  s.live && s.courseAwake (e / 32) && (match s.partOfEngine e with | some p => !s.halted p | none => false)

/-- The condition of a waiting FWAIT holds (R227). -/
def State.fwaitMet (s : State) (e : Nat) : State :=
  match (s.eng e).act with
  | .waitFlag f v take =>
    if s.mayResume e && decide (v ≤ s.flagVal (s.flagEngine e) f) then
      (s.consume e f v take).modEng e fun x => { x with act := .run }
    else s
  | _ => s

def fsetBody (f : Fields) (r : Run) (s : State) : Except Err State := do
  checkFields f .any .any .no .no 0
  s.flagCheck r f.d.toNat
  noReexec r
  .ok (s.setFlag (s.flagEngine r.e) f.d.toNat (((s.eng r.e).gr f.a).setWidth 32))

def frdBody (f : Fields) (r : Run) (s : State) : Except Err State := do
  checkFields f .any .any .no .no 0
  s.flagCheck r f.a.toNat
  let v := s.flagVal (s.flagEngine r.e) f.a.toNat
  onEngine r.e (fun x => x.setG f.d (v.setWidth 64)) s

/-! ## The keystone tree (R1, R234) -/

/-- Logical coordinates (w, x, y, z) of a node ID. -/
def coords (n : Nat) : List Nat := [n / 2 ^ 14 % 8, n / 2 ^ 9 % 32, n / 2 ^ 4 % 32, n % 16]

/-- The node ID at coordinates. -/
def nodeAt (c : List Nat) : Nat := c.getD 0 0 * 2 ^ 14 + c.getD 1 0 * 2 ^ 9 + c.getD 2 0 * 2 ^ 4 + c.getD 3 0

def State.extents (s : State) : List Nat := [s.cfg.slice.extW, s.cfg.slice.extX, s.cfg.slice.extY, s.cfg.slice.extZ]

/-- The step toward coordinate 0 on an axis of extent `n`. -/
def stepTo0 (n a : Nat) : Nat := if a ≤ n / 2 then a - 1 else (a + 1) % n

/-- The parent of a node; none for the root. -/
def keyParent (ext c : List Nat) : Option (List Nat) :=
  (c.findIdx? (· ≠ 0)).map fun i => c.modify i (stepTo0 (ext.getD i 1))

/-- The children of a node. -/
def keyChildren (ext c : List Nat) : List Nat :=
  ((List.range 4).flatMap fun i => (List.range (ext.getD i 1)).map fun a => c.set i a).filterMap fun d =>
    if keyParent ext d == some c then some (nodeAt d) else none

/-- This module's parent and children. -/
def State.keyParent (s : State) : Option Nat :=
  (Machine.keyParent s.extents (coords s.cfg.slice.nodeId.toNat)).map nodeAt
def State.keyChildren (s : State) : List Nat := Machine.keyChildren s.extents (coords s.cfg.slice.nodeId.toNat)

/-- Send a keystone report (0x20) or release (0x21) of line `k` for a phase (R234). -/
def State.keySend (s : State) (opc : BitVec 8) (to_ k : Nat) (phase : W32) : State :=
  let p := { blankPkt with dest := BitVec.ofNat 17 to_, tc := 5, opc := opc, arg := BitVec.ofNat 16 k,
                           addr := phase.setWidth 48 }
  s.send (s.hopDie to_ 5) p s.rte.inj (.key k) none false

/-- A phase change reaches the courses whose engines wait on the line (R229). -/
def State.keyWake (s : State) (k : Nat) : State :=
  s.engines.foldl (fun s (e, x) => match x.act with
    | .waitKey j _ => if j = k then s.requestWake (e / 32) else s
    | _ => s) s

/-- The phase of a slice line changes; arrivals past EXPECT count toward the next one; the release goes to every
child (R232, R234). -/
def State.keyAdvance (s : State) (k : Nat) : State :=
  let x := s.key k
  let s := (s.setKey k { x with phase := x.phase + 1, count := x.count - x.expect, reports := [],
                                shareDone := false }).keyWake k
  s.keyChildren.foldl (fun s c => s.keySend 0x21 c k x.phase) s

/-- Report to the parent, or at the root change the phase, when this module's share and every child's are in (R234);
asked when an arrival, a report or a release touches the line (notes/assumptions/17). -/
def State.keyShare (s : State) (k : Nat) : State :=
  let x := s.key k
  if s.cfg.slice.role ≠ 0 || x.reach ≠ 2 || x.shareDone || x.count < x.expect ||
     !(s.keyChildren.all x.reports.contains) then s
  else match s.keyParent with
    | none => s.keyAdvance k
    | some p => (s.setKey k { x with shareDone := true }).keySend 0x20 p k x.phase

/-- One arrival on a line (R231). -/
def State.keyArrive (s : State) (k : Nat) : State :=
  let x := s.key k
  if x.reach = 2 then (s.setKey k { x with count := x.count + 1 }).keyShare k
  else if x.count + 1 = x.expect then (s.setKey k { x with count := 0, phase := x.phase + 1 }).keyWake k
  else s.setKey k { x with count := x.count + 1 }

/-- A line that the item may name (R233). -/
def State.keyCheck (s : State) (r : Run) (k : Nat) : Except Err Unit :=
  let x := s.key k
  require (x.owner == r.part && !(x.reach == 0 && x.die != r.e / 512)) (err faultAccess)

def karrBody (f : Fields) (r : Run) (s : State) : Except Err State := do
  checkFields f .any .no .no .no 0xF
  noReexec r
  let k := f.imm.toNat
  s.keyCheck r k
  require (decide ((s.key k).expect ≠ 0)) (err faultAccess)
  let ph := (s.key k).phase
  onEngine r.e (fun x => x.setG f.d (ph.setWidth 64)) (s.keyArrive k)

def kwaitBody (f : Fields) (r : Run) (s : State) : Except Err State := do
  checkFields f .no .any .no .no 0xF
  noReexec r
  let k := f.imm.toNat
  s.keyCheck r k
  let v : W32 := ((s.eng r.e).gr f.a).setWidth 32
  if (s.key k).phase ≠ v then .ok s
  else onEngine r.e (fun x => { x with act := .waitKey k v }) s

/-- The phase that a KWAIT waits for has changed (R96). -/
def State.kwaitMet (s : State) (e : Nat) : State :=
  match (s.eng e).act with
  | .waitKey k v =>
    if s.mayResume e && (s.key k).phase != v then s.modEng e fun x => { x with act := .run } else s
  | _ => s

/-- A discarded report or release (R235). -/
def State.keyMismatch (s : State) (k : Nat) : State :=
  s.modKey k fun x => { x with mismatch := satAdd 32 x.mismatch 1 }

/-- A report arrives (R234, R235). -/
def State.keyReport (s : State) (p : Packet) : State :=
  let k := p.arg.toNat % 16
  let x := s.key k
  if x.reach ≠ 2 || p.addr.setWidth 32 ≠ x.phase || !(s.keyChildren.contains p.src.toNat) then s.keyMismatch k
  else (s.setKey k { x with reports := if x.reports.contains p.src.toNat then x.reports
                                       else x.reports ++ [p.src.toNat] }).keyShare k

/-- A release arrives (R234, R235). -/
def State.keyRelease (s : State) (p : Packet) : State :=
  let k := p.arg.toNat % 16
  let x := s.key k
  if x.reach ≠ 2 || p.addr.setWidth 32 ≠ x.phase || s.keyParent ≠ some p.src.toNat then s.keyMismatch k
  else (s.keyAdvance k).keyShare k

def execFinc (e : Nat) (f : Fields) (s : State) : Host.Outcome State Fault Refusal :=
  guarded (isEngine e) (s.issue e 0x60 f (fincBody f))

def execFwait (e : Nat) (f : Fields) (s : State) : Host.Outcome State Fault Refusal :=
  guarded (isEngine e) (s.issue e 0x61 f (fwaitBody f))

def execFwaitMet (e : Nat) (s : State) : Host.Outcome State Fault Refusal :=
  guarded (isEngine e) (s.fwaitMet e)

def execFset (e : Nat) (f : Fields) (s : State) : Host.Outcome State Fault Refusal :=
  guarded (isEngine e) (s.issue e 0x62 f (fsetBody f))

def execFrd (e : Nat) (f : Fields) (s : State) : Host.Outcome State Fault Refusal :=
  guarded (isEngine e) (s.issue e 0x63 f (frdBody f))

def execKarr (e : Nat) (f : Fields) (s : State) : Host.Outcome State Fault Refusal :=
  guarded (isEngine e) (s.issue e 0x64 f (karrBody f))

def execKwait (e : Nat) (f : Fields) (s : State) : Host.Outcome State Fault Refusal :=
  guarded (isEngine e) (s.issue e 0x65 f (kwaitBody f))

def execKwaitMet (e : Nat) (s : State) : Host.Outcome State Fault Refusal :=
  guarded (isEngine e) (s.kwaitMet e)

end Sys2Proof.Machine
end

