-- ==== Sys2Proof/Machine/Items.lean ====
section
/-!
DEFINITION. Work items: descriptors and their checks (R98, R99), SPAWN and SPAWND (R105, R185 to R193), YIELD (R107),
FINISH and its commit (R102), waking (R111) and re-execution (R113).
-/
namespace Sys2Proof.Machine

/-! ## Item descriptors (R98, R99) -/

/-- A descriptor's 64 bytes read as its fields; CTX, EVAL and PRIO are written by who places or spawns it. -/
def itemDesc (b : List Byte) : ItemDesc :=
  let fl := fieldAt b 4 2
  let done := fieldAt b 0x0C 4
  { entry := bits (fieldAt b 0 4) 21 0, pinned := bit fl 0, net := bit fl 1, reexec := bit fl 2, lsDep := bit fl 3,
    prio := bits fl 6 4, affinity := fieldAt b 6 2 % 2048, seq := BitVec.ofNat 32 (fieldAt b 8 4),
    doneValid := bit done 31, doneEngine := bits done 26 16, doneFlag := bits done 5 0, arg := w64At b 0x10,
    in0Base := w64At b 0x18, in1Base := w64At b 0x20, outBase := w64At b 0x28, in0Len := fieldAt b 0x30 4,
    in1Len := fieldAt b 0x34 4, outLen := fieldAt b 0x38 4, ctx := 0, rslot := fieldAt b 0x3E 1, eval := false }

/-- The home course of a descriptor. -/
def ItemDesc.home (d : ItemDesc) : Nat := d.affinity / 32

/-- A base that the FORMAT row names. -/
def baseBad (a : W64) : Bool := a.toNat / 2 ^ 62 = 0 || eaMalformed a

/-- The extents that are present, the argument block among them. -/
def ItemDesc.present (d : ItemDesc) : List (W64 × Nat) := d.extents.filter fun x => x.2 != 0

/-- The FORMAT row of R99, on the descriptor's bytes. -/
def itemFormat (b : List Byte) (spawned : Bool) : Bool :=
  let d := itemDesc b
  let done := fieldAt b 0x0C 4
  let fl := fieldAt b 4 2
  bits (fieldAt b 0 4) 31 22 = 0 && d.entry % 8 = 0 && bits fl 15 7 = 0 && bits (fieldAt b 6 2) 15 11 = 0 &&
  bits done 30 27 = 0 && bits done 15 6 = 0 && d.doneFlag ≤ 47 && fieldAt b 0x3F 1 = 0 &&
  (d.rslot < 32 || d.rslot = 255) && fieldAt b 0x3C 2 = 0 && !((d.lsDep || d.net) && !d.pinned) &&
  !(d.reexec && d.net) && !(spawned && d.net) && d.present.all fun x => !baseBad x.1

/-- An extent reaches past its space or the region that holds its base. -/
def State.extentPast (s : State) (home : Nat) (x : W64 × Nat) : Bool :=
  match eaLoc 0 home x.1 with
  | .cs _ off => decide (off + x.2 > csUsable)
  | .pier a => match s.regionAt a with
    | some r => decide (a + x.2 > r.base + r.size)
    | none => decide (a + x.2 > pierSpace)
  | _ => false

/-- An OUT extent of an EVAL item touches a CAST region (R248). -/
def State.outCast (s : State) (home : Nat) (d : ItemDesc) : Bool :=
  match eaLoc 0 home d.outBase with
  | .pier a => s.touches (·.cast) a d.outLen
  | _ => false

/-- The status of a descriptor submitted or spawned in partition `p` (R99): the first failing row of the table; 0 is OK. The
DONE engine and flag are tested for ACCESS only with DONE.VALID set (DEDUCED from R92 and R228, notes/assumptions/15.md). -/
def State.checkItem (s : State) (b : List Byte) (p : Nat) (spawned eval : Bool) : Nat :=
  let d := itemDesc b
  let es := d.present.filter fun x => !baseBad x.1
  if es.any (s.extentPast d.home) then 1
  else if !itemFormat b spawned then 2
  else if !s.cfg.courseEn.getLsbD d.home || (d.pinned && !s.engEnabled d.affinity) then 3
  else if s.partOfCourse d.home ≠ some p || d.spans.any (fun x => x.2 ≠ 0 && !s.mayName p (eaLoc 0 d.home x.1)) ||
      (d.doneValid && (s.partOfEngine d.doneEngine ≠ some p || (!d.net && s.cfg.flagSysBase ≤ d.doneFlag))) ||
      (eval && s.outCast d.home d) then 4
  else 0

/-- A spawned item takes its spawner's context and EVAL, and PRIO under the context's present cap (R188, R240). -/
def State.inherit (s : State) (par d : ItemDesc) : ItemDesc :=
  { d with ctx := par.ctx, eval := par.eval, prio := if par.eval then 0 else min d.prio (s.ctx par.ctx).prio }

/-- Every hod has free slots for the items that go to it. -/
def State.roomFor (s : State) (ds : List ItemDesc) : Bool :=
  ds.all fun d => decide ((ds.countP fun x => x.home = d.home) ≤ (s.crs d.home).freeSlots.length)

/-- Reserve pending slots, in order; the slots taken (R105). -/
def State.reserve (s : State) : List ItemDesc → State × List (Nat × Nat)
  | [] => (s, [])
  | d :: t =>
    let k := ((s.crs d.home).freeSlots).headD 0
    let s := s.occupy d.home k { desc := d, status := .pending, stamp := 0, listed := d.home, saved := none, limit := s.cfg.progressUs }
    let (s, l) := s.reserve t
    (s, (d.home, k) :: l)

/-! ## SPAWN and SPAWND -/

/-- A refusal with FULL counts in COURSE_SPAWN_FULL of the executing engine's course (R119). -/
def State.spawnFull (s : State) (e : Nat) : State :=
  s.modCrs (e / 32) fun y => { y with spawnFull := satAdd 64 y.spawnFull 1 }

/-- The items that the running item spawned become its pending spawns. -/
def State.addSpawns (s : State) (e : Nat) (ds : List ItemDesc) : State :=
  let (s, l) := s.reserve ds
  s.modEng e fun x => { x with spawns := x.spawns ++ l }

/-- SPAWN, given what says whether the hods have room. -/
def spawnWith (room : State → List ItemDesc → Bool) (f : Fields) (r : Run) (s : State) : Except Err State := do
  checkFields f .any .any .no .no 0
  let b ← s.lsBytes r.e ((s.eng r.e).gr f.a).toNat 64
  let ret (s : State) (st : Nat) : Except Err State := onEngine r.e (fun x => x.setG f.d (BitVec.ofNat 64 st)) s
  let st := s.checkItem b r.part true r.d.eval
  let d := s.inherit r.d (itemDesc b)
  if st ≠ 0 then ret s st
  else if !room s [d] then ret (s.spawnFull r.e) 5
  else ret (s.addSpawns r.e [d]) 0

/-- The fields of a dispatch descriptor (R186). -/
structure Dispatch where
  list : W64
  records : W64
  routes : Nat
  blocks : Nat
  cap : Nat
  tok : Nat
  maxItems : Nat
  affMod : Nat
  affFirst : Nat
  affStep : Nat
  seqBase : Nat
  outTok : Nat
  outStride : Nat
  in0Stride : Nat
  deriving DecidableEq, Repr

def dispatchDesc (b : List Byte) : Dispatch :=
  { list := w64At b 0, records := w64At b 8, routes := fieldAt b 0x10 2, blocks := fieldAt b 0x12 2,
    cap := fieldAt b 0x14 2, tok := fieldAt b 0x16 2, maxItems := fieldAt b 0x18 2, affMod := fieldAt b 0x1A 2,
    affFirst := fieldAt b 0x1C 2, affStep := fieldAt b 0x1E 2, seqBase := fieldAt b 0x20 4, outTok := fieldAt b 0x24 4,
    outStride := fieldAt b 0x28 8, in0Stride := fieldAt b 0x30 8 }

/-- Check 1 of R190: ranges, reserved fields, LIST and RECORDS in course store or pier, TEMPLATE. -/
def dispatchOk (b : List Byte) : Bool :=
  let d := dispatchDesc b
  let t := (b.drop 0x40).take 64
  let space (a : W64) : Bool := a.toNat / 2 ^ 62 == 1 || a.toNat / 2 ^ 62 == 2
  d.routes ≤ 4096 && d.blocks ≤ 256 && 1 ≤ d.tok && d.tok ≤ 1024 && 1 ≤ d.maxItems && d.maxItems ≤ 1024 &&
  1 ≤ d.affMod && d.affMod ≤ 2048 && d.affFirst < 2048 && d.affStep < 2048 && fieldAt b 0x38 8 = 0 &&
  space d.list && space d.records && fieldAt t 6 2 = 0 && fieldAt t 8 4 = 0 && fieldAt t 0x20 8 = 0 &&
  fieldAt t 0x34 4 = 0 && fieldAt t 0x38 4 = 0 && fieldAt t 0x3C 2 = 0 && itemFormat t true

/-- Offset of ENTRIES (R185), and the size of a record (R188). -/
def Dispatch.e0 (d : Dispatch) : Nat := (4 * d.blocks * d.routes + 63) / 64 * 64
def Dispatch.rs (d : Dispatch) : Nat := (32 + 8 * d.tok + 63) / 64 * 64

/-- The engine of route `r` (R188). -/
def Dispatch.affinity (d : Dispatch) (r : Nat) : Nat := d.affFirst + r % d.affMod * d.affStep

/-- Bytes of a span as SPAWND reads them: a byte that an outstanding copy of any engine will write holds its old or
its new value, freely (R192). -/
def State.racyRead (s : State) (l : Loc) (n : Nat) : List Byte × State :=
  let bs := s.readLoc l n
  let outs := s.engines.flatMap fun (_, x) => x.copies.flatMap (·.outs)
  let hits := outs.filter fun o => overlap o.1 o.2.length l n
  let s' := match l with | .pier a => (s.countPier true a n).wakePiers a n | _ => s
  if hits.isEmpty then (bs, s')
  else
    let pairs := bs.zipIdx.map fun (b, i) =>
      hits.foldl (fun p o => match o.1.off ≤ l.off + i && l.off + i < o.1.off + o.2.length with
        | true => (p.1, o.2.getD (l.off + i - o.1.off) p.2)
        | false => p) (b, b)
    (mixBytes s.freeCtr pairs, { s' with freeCtr := s'.freeCtr + n })

/-- A place lies in the item's readable or writable extents and may be named. (DEDUCED, notes/assumptions/18.md: for SPAWND
a malformed place lies in none.) -/
def State.inExtents (s : State) (r : Run) (wr : Bool) (a : W64) (off n : Nat) : Option Loc :=
  if eaMalformed a then none
  else
    let l := (eaLoc r.e r.c a).add off
    if s.mayName r.part l && (n = 0 || r.d.admits r.c wr l n) then some l else none

/-- One item of a dispatch: its descriptor bytes (R188). IN0_BASE, IN1_BASE and OUT_BASE keep the low 64 bits of their sums (DESIGN
CHOICE, notes/assumptions/18.md). -/
def Dispatch.item (d : Dispatch) (t : List Byte) (n r c ntok : Nat) : List Byte :=
  t.take 6 ++ leBytes 2 (d.affinity r) ++ leBytes 4 (d.seqBase + n) ++ (t.drop 0x0C).take 12 ++
  leBytes 8 (fieldAt t 0x18 8 + r * d.in0Stride) ++ leBytes 8 (d.records.toNat + n * d.rs) ++
  leBytes 8 (fieldAt t 0x28 8 + r * d.outStride + c * d.tok * d.outTok) ++ (t.drop 0x30).take 4 ++ leBytes 4 d.rs ++
  leBytes 4 (ntok * d.outTok) ++ (t.drop 0x3C).take 4

/-- One record (R189). -/
def Dispatch.record (d : Dispatch) (r c ntok : Nat) (entries : List Byte) : List Byte :=
  let b := leBytes 4 r ++ leBytes 4 c ++ leBytes 4 ntok ++ leBytes 4 (c * d.tok) ++ List.replicate 16 0 ++ entries
  b ++ List.replicate (d.rs - b.length) 0

/-- The route sequences, in increasing r: route, entry count, and the sub-lists as (offset of its first entry from
LIST, entries) (R187). -/
def Dispatch.sequences (d : Dispatch) (counts : List Nat) : List (Nat × Nat × List (Nat × Nat)) :=
  (List.range d.routes).map fun r =>
    let l := (List.range d.blocks).map fun g =>
      (d.e0 + 8 * ((g * d.routes + r) * d.cap), counts.getD (g * d.routes + r) 0)
    (r, (l.map (·.2)).sum, l)

/-- The chunks of all routes, in item order: route, chunk, entries (R187). -/
def Dispatch.chunks (d : Dispatch) (seqs : List (Nat × Nat × List (Nat × Nat))) : List (Nat × Nat × Nat) :=
  seqs.flatMap fun (r, n, _) => (List.range ((n + d.tok - 1) / d.tok)).map fun c => (r, c, min d.tok (n - c * d.tok))

/-- The entries of one route, each read once. -/
def State.readRoute (s : State) (base : Loc) : List (Nat × Nat) → List Byte × State
  | [] => ([], s)
  | (off, n) :: t =>
    let (b, s) := s.racyRead (base.add off) (8 * n)
    let (bs, s) := s.readRoute base t
    (b ++ bs, s)

/-- The records of the dispatch, route by route, written from `l` on. (DESIGN CHOICE, notes/assumptions/18.md: a record may change
the entries of a later route.) -/
def State.writeRecords (s : State) (d : Dispatch) (list l : Loc) :
    Nat → List (Nat × Nat × List (Nat × Nat)) → State
  | _, [] => s
  | n, (r, tot, sub) :: t =>
    let (bs, s) := s.readRoute list sub
    let cs := Machine.chunks (8 * d.tok) bs
    let s := cs.zipIdx.foldl (fun s (b, c) =>
      s.storeLoc (l.add ((n + c) * d.rs)) (d.record r c (b.length / 8) b)) s
    s.writeRecords d list l (n + (tot + d.tok - 1) / d.tok) t

/-- SPAWND refused with a code, or done with a number of items (R190). -/
def State.spawndRet (s : State) (r : Run) (f : Fields) (n code : Nat) : Except Err State :=
  let s := if code = 0 then s.modCrs (r.e / 32) fun y => { y with dispatch := satAdd 64 y.dispatch n }
    else if code = 5 then s.spawnFull r.e
    else s.modCrs (r.e / 32) fun y => { y with dispRefused := satAdd 64 y.dispRefused 1 }
  onEngine r.e (fun x => x.setG f.d (BitVec.ofNat 64 (code * 2 ^ 32 + n))) s

/-- What SPAWND is to do once its counts are read: the non-empty route sequences, the place of the records (none when there
is none), and the items. -/
structure DispatchPlan where
  seqs : List (Nat × Nat × List (Nat × Nat))
  records : Option Loc
  items : List ItemDesc
  deriving DecidableEq, Repr

/-- Checks 3 to 7 of R190, once the counts are read: the code of the first that fails, or what to do. -/
def State.spawndPlan (s : State) (room : State → List ItemDesc → Bool) (r : Run) (d : Dispatch) (t : List Byte)
    (counts : List Nat) : Except Nat DispatchPlan :=
  let seqs := (d.sequences counts).filter fun x => x.2.1 ≠ 0
  let chs := d.chunks seqs
  if counts.any (· > d.cap) then .error 6
  else if chs.length > d.maxItems || chs.any (fun (rt, _, n) => !(d.affinity rt < 2048 && s.engEnabled (d.affinity rt)) ||
      n * d.outTok ≥ 2 ^ 32) then .error 3
  else match s.inExtents r true d.records 0 (chs.length * d.rs), chs.isEmpty with
    | none, false => .error 1
    | l, _ =>
      let bytes := chs.zipIdx.map fun ((rt, c, n), i) => d.item t i rt c n
      match (bytes.map fun b => s.checkItem b r.part true r.d.eval).find? (· ≠ 0) with
      | some st => .error st
      | none =>
        let ds := bytes.map fun b => s.inherit r.d (itemDesc b)
        if !room s ds then .error 5 else .ok { seqs := seqs, records := l, items := ds }

/-- The records of a plan are written, for the first `n` of its route sequences. -/
def State.planRecords (s : State) (d : Dispatch) (list : Loc) (p : DispatchPlan) (n : Nat) : State :=
  match p.records with
  | some l => s.writeRecords d list l 0 (p.seqs.take n)
  | none => s

/-- The checks from 3 on, once the counts are read, and the creation (R190, R191). -/
def State.spawndRun (s : State) (room : State → List ItemDesc → Bool) (r : Run) (f : Fields) (d : Dispatch) (t : List Byte)
    (list : Loc) (counts : List Nat) : Except Err State :=
  match s.spawndPlan room r d t counts with
  | .error k => s.spawndRet r f 0 k
  | .ok p => ((s.planRecords d list p p.seqs.length).addSpawns r.e p.items).spawndRet r f p.items.length 0

/-- SPAWND, given what says whether the hods have room. -/
def spawndWith (room : State → List ItemDesc → Bool) (f : Fields) (r : Run) (s : State) : Except Err State := do
  checkFields f .any .any .no .no 0
  let b ← s.lsBytes r.e ((s.eng r.e).gr f.a).toNat 128
  let d := dispatchDesc b
  let ct := d.blocks * d.routes
  if !dispatchOk b then s.spawndRet r f 0 2
  else if ct = 0 ∨ d.cap = 0 then s.spawndRet r f 0 0
  else match s.inExtents r false d.list 0 (4 * ct), s.inExtents r false d.list d.e0 (8 * ct * d.cap) with
    | some l, some _ =>
      let (cs, s) := s.racyRead l (4 * ct)
      s.spawndRun room r f d ((b.drop 0x40).take 64) l ((chunks 4 cs).map leNat)
    | _, _ => s.spawndRet r f 0 1

/-! ## Reservations of one cycle (R191) -/

/-- A SPAWN or SPAWND: its engine, its opcode and its fields. -/
def spawnOf : Instr → Option (Nat × BitVec 8 × Fields)
  | .spawn e f => some (e, 0x70, f)
  | .spawnd e f => some (e, 0x71, f)
  | _ => none

/-- The first SPAWN or SPAWND of each engine, of those in a list. -/
def firstSpawns (l : List (Nat × BitVec 8 × Fields)) : List (Nat × BitVec 8 × Fields) :=
  l.foldl (fun t x => if t.any fun y => y.1 == x.1 then t else t ++ [x]) []

/-- The SPAWN and SPAWND commands of lower engines than `e` that fall in its cycle: of those that wait in the queue, with no tick
between, the first of each engine, which issues one instruction in a cycle (R70); lowest engine first. -/
def State.spawnsAhead (s : State) (e : Nat) : List (Nat × BitVec 8 × Fields) :=
  ((firstSpawns (s.pending.filterMap spawnOf)).filter fun x => x.1 < e).insertionSort fun x y => x.1 ≤ y.1

/-- The state once the lower engines' SPAWN and SPAWND of the same cycle have reserved. -/
def State.spawnAhead (s : State) (e : Nat) : State :=
  (s.spawnsAhead e).foldl (fun s (j, opc, f) =>
    s.issue j opc f (if opc = 0x70 then spawnWith State.roomFor f else spawndWith State.roomFor f)) s

/-- The hods have room for the items of engine `e`, its own reservations made after those of lower engines in the same cycle
(R191). -/
def State.roomAfter (e : Nat) (s : State) (ds : List ItemDesc) : Bool := s.roomFor ds && (s.spawnAhead e).roomFor ds

def spawnBody (f : Fields) (r : Run) (s : State) : Except Err State := spawnWith (State.roomAfter r.e) f r s

def spawndBody (f : Fields) (r : Run) (s : State) : Except Err State := spawndWith (State.roomAfter r.e) f r s

/-- What the SPAWND with descriptor bytes `b` reads and writes: its list's place, the plan when its checks pass, and the counts'
span; none when it refuses before it reads a count. -/
def State.spawndReads (s : State) (r : Run) (b : List Byte) : Option (Loc × Nat × Option DispatchPlan) :=
  let d := dispatchDesc b
  let ct := d.blocks * d.routes
  if !dispatchOk b || ct = 0 || d.cap = 0 then none
  else match s.inExtents r false d.list 0 (4 * ct), s.inExtents r false d.list d.e0 (8 * ct * d.cap) with
    | some l, some _ =>
      let counts := (chunks 4 (s.readLoc l (4 * ct))).map leNat
      some (l, 4 * ct, (s.spawndPlan (State.roomAfter r.e) r d ((b.drop 0x40).take 64) counts).toOption)
    | _, _ => none

/-! ## YIELD and FINISH -/

/-- YIELD (R107): the save area, and the item listed in the executing engine's hod, tied to it, or to the orphan it
runs for (R116). -/
def yieldBody (f : Fields) (r : Run) (s : State) : Except Err State := do
  checkFields f .no .no .no .no 0
  let x := s.eng r.e
  let area := leBytes 8 x.pc ++ (List.range 63).flatMap fun i => leBytes 8 (Tab.get (0 : W64) x.g (i + 1)).toNat
  let s := s.writeLoc (.cs r.c (saveArea r.k)) area
  let (st, s) := s.stamp (r.e / 32)
  let sv : Saved := { numstat := x.numstat, contrib := x.contrib, flushes := x.flushes, spawns := x.spawns, undo := x.undo,
                       itemCyc := x.itemCyc, failed := false }
  let s := match s.hodSlot r.c r.k with
    | some h => s.setHod r.c r.k { h with status := .yielded (s.flagEngine r.e), stamp := st, listed := r.e / 32,
                                          saved := some sv }
    | none => s
  .ok ((s.modEng r.e Engine.release).choose r.e)

/-- Copies of an item that have not completed, wherever they were issued: by the engine, or by an orphan it hosts. -/
def State.itemCopies (s : State) (e c k : Nat) : Bool :=
  (s.serves e).any fun t => (s.eng t).copies.any fun o => o.homeCourse = c && o.slot = k && o.live && !o.reset

/-- Network operations of an item that have not completed. -/
def State.itemNets (s : State) (e c k : Nat) : Bool :=
  (s.serves e).any fun t => (s.eng t).nets.any fun o => o.homeCourse = c && o.slot = k && o.live && !o.reset

/-- The commit of FINISH, steps 2 to 6 of R102, and the next choice. A REDUCE fault of step 3 ends the item at its
FINISH. -/
def State.commitItem (s : State) (r : Run) : State :=
  let x := s.eng r.e
  let s := x.flushes.foldl (fun s (l, n) => s.addCounter l n) s
  let done : Except Err State := match x.contrib with
    | none => .ok s
    | some vs => s.commitContrib r.c r.d vs
  match done with
  | .error (code, a) => (s.itemFault r.e code 0x73 (x.pc - 8) a).choose r.e
  | .ok s =>
    let s := x.spawns.foldl (fun s p => s.makeReady p.1 p.2) s
    let s := s.modCtx r.d.ctx fun c => { c with numstat := c.numstat ||| x.numstat }
    let s := if r.d.doneValid then s.flagAdd r.d.doneEngine r.d.doneFlag 1 else s
    let s := s.stick ((statusBits x.numstat).flatMap fun i => [.engNumstat r.e i, .ctxNumstat r.d.ctx i])
    let s := s.modEng r.e fun y =>
      { y.release with numstatReg := y.numstatReg ||| x.numstat, finished := satAdd 64 y.finished 1 }
    ((s.freeHod r.c r.k).ctxDone r.d.ctx true).choose r.e

/-- FINISH commits at once when nothing of the item is outstanding; otherwise the engine waits (R102 step 1). -/
def finishBody (f : Fields) (r : Run) (s : State) : Except Err State := do
  checkFields f .no .no .no .no 0
  if s.itemCopies r.e r.c r.k || s.itemNets r.e r.c r.k then onEngine r.e (fun x => { x with act := .finishing }) s
  else .ok (s.commitItem r)

def State.finishCommit (s : State) (e : Nat) : State :=
  if (s.eng e).act ≠ .finishing || !s.mayResume e then s
  else match s.run e with
    | none => s
    | some r => if s.itemCopies e r.c r.k || s.itemNets e r.c r.k then s else s.commitItem r

/-! ## Waking (R111) and re-execution (R113) -/

/-- An idle engine wakes for an item that it may run: it chooses, its course awake, or asks for the course's exit. -/
def State.engineWake (s : State) (e : Nat) : State :=
  if s.courseAwake (e / 32) then s.choose e
  else if s.live && (s.eng e).act == .idle && s.engEnabled e && s.hasSlot e &&
      ((bestOf (Candidate.rank e) (s.ownItems e)).isSome || (s.stealItem e).isSome) then s.requestWake (e / 32)
  else s

/-- A REEXEC item that met CHECK is executed again (R113): once its copies have ended and its slot has been replaced,
on the same engine; on an orphan, wherever it may run, with the stamp that it has (DEDUCED, notes/assumptions/16.md). -/
def State.itemReexec (s : State) (e : Nat) : State :=
  let x := s.eng e
  match x.reexecItem with
  | none => s
  | some (c, k) =>
    match s.hodSlot c k with
    | none => s
    | some h =>
      if !s.mayResume e || x.checkMet || x.replacing.isSome || s.itemCopies e c k then s
      else
        let t := s.flagEngine e
        let s := s.undoFlags t x.undo
        let s := s.modEng e fun y =>
          { y with reexecItem := none, undo := [], rehomed := none, reexec := satAdd 32 y.reexec 1 }
        if x.orphan then (s.setHod c k { h with status := .ready, listed := c }).orphanLs e h.desc
        else s.startItem e { c := c, k := k, h := { h with saved := none }, tied := if t = e then none else some t }

def execSpawn (e : Nat) (f : Fields) (s : State) : Host.Outcome State Fault Refusal :=
  guarded (isEngine e) (s.issue e 0x70 f (spawnBody f))

def execSpawnd (e : Nat) (f : Fields) (s : State) : Host.Outcome State Fault Refusal :=
  guarded (isEngine e) (s.issue e 0x71 f (spawndBody f))

def execYield (e : Nat) (f : Fields) (s : State) : Host.Outcome State Fault Refusal :=
  guarded (isEngine e) (s.issue e 0x72 f (yieldBody f))

def execFinish (e : Nat) (f : Fields) (s : State) : Host.Outcome State Fault Refusal :=
  guarded (isEngine e) (s.issue e 0x73 f (finishBody f))

def execFinishCommit (e : Nat) (s : State) : Host.Outcome State Fault Refusal :=
  guarded (isEngine e) (s.finishCommit e)

def execEngineWake (e : Nat) (s : State) : Host.Outcome State Fault Refusal :=
  guarded (isEngine e) (s.engineWake e)

def execItemReexec (e : Nat) (s : State) : Host.Outcome State Fault Refusal :=
  guarded (isEngine e) (s.itemReexec e)

end Sys2Proof.Machine
end

