-- ==== Sys2Proof/Machine/Network.lean ====
section
/-!
DEFINITION. Network instructions, opcodes 0x80 to 0x83 (R97, R265, R266, R308 to R316), and the waits and the progress
timer of steps (R311 to R314).
-/
namespace Sys2Proof.Machine

/-! ## Operations -/

/-- TGT_FLAG of a descriptor as a packet carries it: 0xFF is none (R266). -/
def tgtFlag (f : Nat) : BitVec 6 := if f = 255 then 0x3F else BitVec.ofNat 6 f

/-- An operation that the running item issues; its fields are filled in by the instruction. -/
def State.newNet (s : State) (r : Run) (opc : BitVec 8) (kind : NetKind) (flag : Nat) : NetOp :=
  let x := s.eng r.e
  { id := x.nextNet, kind := kind, flag := flag, flagEngine := s.flagEngine r.e, die := r.e / 512, dest := 0, tc := 1,
    loc := .ls r.e 0, remote := 0, len := 0, tgtEngine := 0, tgtFlag := 0x3F, amount := 0, step := none, parts := [],
    sent := false, epoch := s.rte.inj, eval := r.d.eval, ctx := r.d.ctx, itemSeq := r.d.seq, live := true,
    reset := false, homeCourse := r.c, slot := r.k, opc := opc, pc := x.pc - 8 }

/-- Outstanding network operations that count (R97). -/
def Engine.netCount (x : Engine) : Nat := x.nets.countP fun o => !o.reset

def State.pushNet (s : State) (e : Nat) (o : NetOp) : State :=
  s.modEng e fun x => { x with nets := x.nets ++ [o], nextNet := o.id + 1 }

/-- One packet of an operation, carrying `n` bytes at offset `off` of its span. -/
def NetOp.packet (o : NetOp) (opc : BitVec 8) (off : Nat) (bs : List Byte) (arg : Nat) : Packet :=
  { blankPkt with dest := BitVec.ofNat 17 o.dest, tc := BitVec.ofNat 3 o.tc, opc := opc, eval := o.eval,
                  len := BitVec.ofNat 16 bs.length, ctx := BitVec.ofNat 10 o.ctx,
                  tgtEngine := BitVec.ofNat 11 o.tgtEngine, tgtFlag := BitVec.ofNat 6 o.tgtFlag,
                  addr := o.remote + BitVec.ofNat 48 off, arg := BitVec.ofNat 16 arg, payload := bs }

/-- The packets of 4,096 bytes that carry an operation's payload, the last one under the code `last` (R266, R309). -/
def State.sendPayload (s : State) (e : Nat) (o : NetOp) (mid last : BitVec 8) (fence : Bool) : State :=
  let (bs, s) := s.racyRead o.loc o.len
  let k := max 1 ((o.len + 4095) / 4096)
  (List.range k).foldl (fun s i =>
    let part := (bs.drop (4096 * i)).take 4096
    let fin := decide (i = k - 1)
    let p := o.packet (if fin then last else mid) (4096 * i) part 0
    s.send o.die { p with fence := fence && i == 0 } o.epoch (.engine e o.id)
      (if part.isEmpty then none else some (o.loc.add (4096 * i))) fin) s

/-! ## NPUT, NGET, NFLAG -/

/-- The fields of a network descriptor. -/
structure NetDesc where
  dest : Nat
  tgtEngine : Nat
  tgtFlag : Nat
  tc : Nat
  local_ : W64
  remote : W64
  len : Nat
  deriving DecidableEq, Repr

def netDesc (b : List Byte) : NetDesc :=
  { dest := fieldAt b 0 4, tgtEngine := fieldAt b 4 2, tgtFlag := fieldAt b 6 1, tc := fieldAt b 7 1,
    local_ := w64At b 8, remote := w64At b 0x10, len := fieldAt b 0x18 4 }

/-- A network instruction belongs to an item with NET and without REEXEC (R97, R113). -/
def netItem (r : Run) : Except Err Unit := require (r.d.net && !r.d.reexec) (err faultAccess)

/-- The first three lines of R97: reserved fields, fields that the operation does not use, and the class. (DEDUCED,
notes/assumptions/19.md: a class above 7 is ACCESS.) -/
def netCheck (b : List Byte) (d : NetDesc) (unused : Bool) (bigPut noTc5 : Bool) : Except Err Unit := do
  require (d.dest < 2 ^ 17 && d.tgtEngine < 2048 && fieldAt b 0x1E 2 == 0 && (d.tgtFlag < 48 || d.tgtFlag == 255))
    (err faultFormat)
  require unused (err faultFormat)
  require (d.tc == 1 || d.tc == 2 || d.tc == 3 || (d.tc == 5 && !noTc5 && !bigPut)) (err faultAccess)

/-- The operation goes out, or the engine waits for a place among its 16 (R97). -/
def State.netIssue (s : State) (r : Run) (o : NetOp) (go : State → State) : State :=
  if (s.eng r.e).netCount ≥ 16 then s.holdIssue r.e .waitNetQueue else go (s.pushNet r.e o)

def nputBody (f : Fields) (r : Run) (s : State) : Except Err State := do
  checkFields f .any .any .no .no 0
  netItem r
  s.flagCheck r f.d.toNat
  let b ← s.lsBytes r.e ((s.eng r.e).gr f.a).toNat 32
  let d := netDesc b
  netCheck b d (fieldAt b 0x1C 2 == 0) (d.len > 4096) false
  require (!r.d.eval) (err faultAccess)
  let loc ← if d.len = 0 then .ok (.ls r.e 0) else s.operand r false d.local_ d.len
  match remoteAddr d.remote with
  | none => .error (err faultAddr d.remote)
  | some a =>
    let o := { s.newNet r 0x80 .put f.d.toNat with
      dest := d.dest, tc := d.tc, loc := loc, remote := a, len := d.len, tgtEngine := d.tgtEngine,
      tgtFlag := (tgtFlag d.tgtFlag).toNat, sent := true }
    .ok (s.netIssue r o fun s => s.sendPayload r.e o 0x10 0x11 false)

/-- The READs of an NGET (R266). -/
def NetOp.reads (o : NetOp) : List GetPart :=
  (List.range ((o.len + 4095) / 4096)).map fun i => { seq := none, off := 4096 * i, len := min 4096 (o.len - 4096 * i) }

def ngetBody (f : Fields) (r : Run) (s : State) : Except Err State := do
  checkFields f .any .any .no .no 0
  netItem r
  s.flagCheck r f.d.toNat
  let b ← s.lsBytes r.e ((s.eng r.e).gr f.a).toNat 32
  let d := netDesc b
  netCheck b d (fieldAt b 0x1C 2 == 0) false true
  if d.len = 0 then .ok (s.flagAdd (s.flagEngine r.e) f.d.toNat 1)
  else
    let loc ← s.operand r true d.local_ d.len
    match remoteAddr d.remote with
    | none => .error (err faultAddr d.remote)
    | some a =>
      let o := { s.newNet r 0x81 .get f.d.toNat with
        dest := d.dest, tc := d.tc, loc := loc, remote := a, len := d.len, sent := true }
      let o := { o with parts := o.reads }
      .ok (s.netIssue r o fun s => o.parts.foldl (fun s g =>
        s.send o.die (o.packet 0x12 g.off [] g.len) o.epoch (.engine r.e o.id) none false) s)

def nflagBody (f : Fields) (r : Run) (s : State) : Except Err State := do
  checkFields f .any .any .no .no 0
  netItem r
  s.flagCheck r f.d.toNat
  let b ← s.lsBytes r.e ((s.eng r.e).gr f.a).toNat 32
  let d := netDesc b
  netCheck b d (d.local_ == 0 && d.remote == 0 && d.len == 0) false false
  let o := { s.newNet r 0x82 .flag f.d.toNat with
    dest := d.dest, tc := d.tc, tgtEngine := d.tgtEngine, tgtFlag := (tgtFlag d.tgtFlag).toNat,
    amount := fieldAt b 0x1C 2, sent := true }
  .ok (s.netIssue r o fun s => s.send o.die (o.packet 0x14 0 [] o.amount) o.epoch (.engine r.e o.id) none true)

/-! ## NSTEP -/

/-- Network operation `i` of an engine is a step that waits. -/
def State.stepAt (s : State) (e i : Nat) : Option (NetOp × StepWait) :=
  match (s.eng e).nets[i]? with
  | none => none
  | some o => match o.step with
    | none => none
    | some w => if w.waitEn && !w.met && !o.reset then some (o, w) else none

/-- The condition of a waiting step holds. -/
def State.stepReady (s : State) (o : NetOp) (w : StepWait) : Bool :=
  decide (w.waitCount ≤ (s.flagLeft o.flagEngine w.waitFlag).toNat)

/-- It is the turn of step `i`: no FWAIT on its flag, of the engine or of a host engine (R116), and no earlier step of the
engine is to subtract first (R225, R311). -/
def State.stepTurn (s : State) (e i : Nat) (o : NetOp) (w : StepWait) : Bool :=
  (s.engines.all fun (j, x) => match x.act with
    | .waitFlag f v _ => !(s.mayResume j && s.flagEngine j == o.flagEngine && f == w.waitFlag &&
        decide (v ≤ s.flagVal o.flagEngine f))
    | _ => true) &&
  (List.range i).all fun j => match s.stepAt e j with
    | some (o', w') => !(o'.flagEngine == o.flagEngine && w'.waitFlag == w.waitFlag && s.stepReady o' w')
    | none => true

/-- The send of a step starts (R309, R311). -/
def State.stepSend (s : State) (e : Nat) (o : NetOp) (w : StepWait) : State :=
  if !w.sendEn then s.netDone e o.id
  else
    let s := s.modNet e o.id fun x => { x with sent := true }
    if w.plan then s.sendPayload e o 0x32 0x33 w.fence else s.sendPayload e o 0x30 0x31 w.fence

/-- The wait of a step is met: it subtracts and goes on (R311). -/
def State.stepMet (s : State) (e : Nat) (o : NetOp) (w : StepWait) : State :=
  let s := s.flagSub o.flagEngine w.waitFlag (BitVec.ofNat 32 w.waitCount)
  (s.modNet e o.id fun x => { x with step := some { w with met := true } }).stepSend e o w

/-- What a step sends: place, remote address, length, destination (R311, R316). -/
def State.stepSpan (s : State) (r : Run) (d : NetDesc) (w : StepWait) : Except Err (Loc × BitVec 48 × Nat × Nat) :=
  if w.plan then
    match (s.part r.part).plan with
    | none => .error (err faultFormat)
    | some pl => match pl.records[d.len]? with
      | none => .error (err faultExtent)
      | some (src, dst, len, node) =>
        if r.d.eval then .error (err faultAccess)
        else match remoteAddr (BitVec.ofNat 64 (2 ^ 63 + dst)) with
          | none => .error (err faultAddr (BitVec.ofNat 64 dst))
          | some a => .ok (.pier src, a, len, node)
  else if !w.sendEn ∨ d.len = 0 then .ok (.ls r.e 0, 0, 0, d.dest)
  else match s.operand r false d.local_ d.len with
    | .error x => .error x
    | .ok l => match remoteAddr d.remote with
      | none => .error (err faultAddr d.remote)
      | some a => .ok (l, a, d.len, d.dest)

def nstepBody (f : Fields) (r : Run) (s : State) : Except Err State := do
  checkFields f .any .any .no .no 0
  netItem r
  s.flagCheck r f.d.toNat
  let b ← s.lsBytes r.e ((s.eng r.e).gr f.a).toNat 32
  let d := netDesc b
  let ctl := fieldAt b 0x1E 1
  let w : StepWait :=
    { waitEn := bit ctl 0, waitFlag := fieldAt b 0x1C 1, waitCount := fieldAt b 0x1D 1, met := false,
      sendEn := bit ctl 1, fence := bit ctl 2, plan := bit ctl 3, planEnd := bit ctl 4, peer := d.dest, timer := 0,
      limit := ((s.hodSlot r.c r.k).map (·.limit)).getD s.cfg.progressUs }
  require (d.dest < 2 ^ 17 && d.tgtEngine < 2048 && bits ctl 7 5 == 0 && fieldAt b 0x1F 1 == 0 &&
    (d.tgtFlag < 48 || d.tgtFlag == 255)) (err faultFormat)
  require (!(d.tc == 0 || d.tc == 4 || d.tc == 6 || d.tc == 7)) (err faultAccess)
  require (d.tc == 1 && (w.waitEn || w.sendEn) && w.waitFlag ≤ 47 &&
    !(w.plan && (d.dest != 0 || d.local_ != 0 || d.remote != 0 || (s.part r.part).plan.isNone))) (err faultFormat)
  if w.waitEn then s.flagCheck r w.waitFlag
  let (loc, a, len, node) ← s.stepSpan r d w
  let o := { s.newNet r 0x83 .step f.d.toNat with
    dest := node, tc := 1, loc := loc, remote := a, len := len, tgtEngine := d.tgtEngine,
    tgtFlag := (tgtFlag d.tgtFlag).toNat, step := some w }
  .ok (s.netIssue r o fun s =>
    let s := if w.plan then s.modPart r.part fun x => { x with planLock := true } else s
    if !w.waitEn then s.stepSend r.e o w
    else if s.stepReady o w && s.stepTurn r.e ((s.eng r.e).nets.length - 1) o w then s.stepMet r.e o w
    else s)

/-- The wait of outstanding operation `i` is met (R311). -/
def State.nstepWaitMet (s : State) (e i : Nat) : State :=
  match s.stepAt e i with
  | none => s
  | some (o, w) => if s.live && s.stepReady o w && s.stepTurn e i o w then s.stepMet e o w else s

/-! ## The progress timer (R312 to R314) -/

/-- The port a waiting step watches; none when the route is invalid (R312). -/
def State.watched (s : State) (e : Nat) (w : StepWait) : Option Nat := s.hopPort (e / 512) w.peer 1

/-- The progress timer of a waiting step counts now (R313). -/
def State.timerRuns (s : State) (e : Nat) (w : StepWait) : Bool :=
  !s.ownNode (BitVec.ofNat 17 w.peer) &&
  match s.watched e w with
  | none => true
  | some p =>
    let x := s.port p
    x.st != .frozen && (x.hbMissing || x.st == .down || x.st == .disabled || x.st == .training)

/-- The progress timer of step `i` has reached the PROGRESS_US of its collective's launch × 25 (R65, R314). -/
def State.progressTimeout (s : State) (e i : Nat) : State :=
  match s.stepAt e i, s.partOfEngine e with
  | some (o, w), some p =>
    if !s.live || w.timer < w.limit * 25 then s
    else
      let port := (s.watched e w).getD 15
      let s := (s.stick [.collFail p]).modPart p fun x =>
        let x := { x with timerCount := satAdd 32 x.timerCount 1 }
        if x.failValid then x
        else { x with failValid := true, failCause := 1, failPort := port, failEngine := e, failPeer := w.peer }
      s.netFail e o.id faultNetFail
  | _, _ => s

def execNput (e : Nat) (f : Fields) (s : State) : Host.Outcome State Fault Refusal :=
  guarded (isEngine e) (s.issue e 0x80 f (nputBody f))

def execNget (e : Nat) (f : Fields) (s : State) : Host.Outcome State Fault Refusal :=
  guarded (isEngine e) (s.issue e 0x81 f (ngetBody f))

def execNflag (e : Nat) (f : Fields) (s : State) : Host.Outcome State Fault Refusal :=
  guarded (isEngine e) (s.issue e 0x82 f (nflagBody f))

def execNstep (e : Nat) (f : Fields) (s : State) : Host.Outcome State Fault Refusal :=
  guarded (isEngine e) (s.issue e 0x83 f (nstepBody f))

def execNstepWaitMet (e i : Nat) (s : State) : Host.Outcome State Fault Refusal :=
  guarded (isEngine e) (s.nstepWaitMet e i)

def execProgressTimeout (e i : Nat) (s : State) : Host.Outcome State Fault Refusal :=
  guarded (isEngine e) (s.progressTimeout e i)

end Sys2Proof.Machine
end

