-- ==== Sys2Proof/Machine/Power.lean ====
section
/-!
DEFINITION. Piers and controllers (R201 to R206), power levels and wake credits (R357 to R367), the power cap (R368 to
R370) and telemetry (R459).
-/
namespace Sys2Proof.Machine

/-! ## Piers -/

/-- The piers of a controller serve requests. -/
def State.pierLive (s : State) (p : Nat) : Bool := s.pwr.seq == .on && !s.frz.frozen && (s.pier p).trained

/-- A layer that has reached 4,096 corrections is marked, when no layer of its pier is (R205); the repair map changes
(R426). -/
def State.layerMark (s : State) (p l : Nat) : State :=
  let x := s.pier p
  if !s.pierLive p || x.marked || Tab.get 0 x.layerCe l < 4096 then s
  else
    let s := s.setPier p { x with marked := true, markedLayer := l }
    { s with sec := { s.sec with repairs := s.sec.repairs ++ [.layer p l] } }

/-- A corrected symbol of a layer is counted (R205, R223). -/
def State.pierCorrect (s : State) (p l : Nat) : State :=
  s.modPier p fun x => { x with ce := satAdd 64 x.ce 1, layerCe := Tab.put 0 x.layerCe l (satAdd 32 (Tab.get 0 x.layerCe l) 1) }

/-- A patrol scrub of one line (R206). A corrected line is written back, which leaves its bytes as they are; an
uncorrectable line is recorded only (R207). MC_RD_BYTES and MC_WR_BYTES count neither the read nor the write-back (DESIGN CHOICE,
notes/assumptions/27.md). -/
def State.patrolScrub (s : State) (p loc : Nat) (found : ScrubResult) : State :=
  if !s.pierLive p || (s.dom (domMc (p / 2))).level ≥ 2 then s
  else match found with
    | .clean => s
    | .corrected l => s.pierCorrect p l
    | .uncorrectable => s.recordUe p loc 5 0
    | .passDone =>
      (s.modPier p fun x => { x with passes := satAdd 16 x.passes 1 }).modMc (p / 2) fun m =>
        { m with scrub := m.scrub.erase p }

/-- AOCLK cycles of 20 hours (R364). -/
def scrubHours : Nat := 20 * 3600 * 25000000

/-- A controller that has stayed at Q2 or deeper for 20 hours is woken for one scrub pass of its piers (R364). -/
def State.scrubWake (s : State) (m : Nat) : State :=
  let x := s.dom (domMc m)
  if s.pwr.seq != .on || s.frz.frozen || x.held || x.level < 2 || x.asleep < scrubHours || x.wakeReq then s
  else (s.modMc m fun y => { y with scrub := [2 * m, 2 * m + 1].filter fun p => (s.pier p).trained }).requestWake (domMc m)

/-- A pier above 85 °C doubles its refresh rate (R202). -/
def State.pierTemp (s : State) (p : Nat) (t : BitVec 8) : State :=
  if s.pwr.seq != .on || s.frz.frozen || !(s.pier p).fitted then s
  else s.modPier p fun x => { x with temp := t, hot := decide (t > 85) }

/-! ## Power levels -/

/-- The class of a domain (R361); 5 for the domains that stay at Q0. -/
def domClass (d : Nat) : Nat :=
  if d < 64 then 0 else if d < 80 then 1 else if d < 90 then 2 else if d < 92 then 3 else if d < 96 then 4 else 5

/-- The default record of a class (R40). -/
def classDefault (k : Nat) : ClassCfg :=
  if k < 4 then { deepest := 3, tQ2 := 250, tQ3 := 25000, tQ4 := 0 } else { deepest := 1, tQ2 := 0, tQ3 := 0, tQ4 := 0 }

def State.classCfg (s : State) (k : Nat) : ClassCfg := (s.cfg.classes[k]?).getD (classDefault k)

/-- Places that outstanding copies of the engines read and write. -/
def CopyOp.places (o : CopyOp) : List (Loc × Nat) :=
  segReads o.segs ++ segWrites o.segs ++ o.outs.map (fun x => (x.1, x.2.length)) ++
  match o.plinth with
  | some p => p.reads (p.snapOffs o.srcSnap)
  | none => []

/-- The die of the host ports (spec/00_scope.md), which COPY commands and off-loads go through. -/
def hostDie : Nat := 3

/-- Memory requests outstanding, of engines' copies and network operations, COPY commands and off-loads: the die that makes
them, and the place. -/
def State.memRequests (s : State) : List (Nat × Loc × Nat) :=
  s.engines.flatMap (fun (e, x) =>
    (x.copies.flatMap CopyOp.places ++ x.nets.map fun o => (o.loc, o.len)).map fun y => (e / 512, y)) ++
  s.parts.filterMap (fun (_, x) => (x.carrying.bind (·.copy)).map fun k => (hostDie, k.target, k.len)) ++
  s.ofls.filterMap fun (_, x) => x.copy.map fun k => (hostDie, k.target, k.len)

/-- A place has a byte on a pier of a controller. -/
def State.onMc (s : State) (m : Nat) (l : Loc) (n : Nat) : Bool :=
  match l with
  | .pier a => (pageParts (n / pageSize + 2) a n).any fun (b, _) => match s.pierDecode b with
    | some (p, _) => p / 2 == m
    | none => false
  | _ => false

/-- A cast is sent, received, served or restored, so requests for the piers of cast regions and of the buddy area are
outstanding. -/
def State.castRuns (s : State) : Bool :=
  s.ckp.sending.isSome || s.ckp.restoring.isSome || s.ckp.receiving.isSome || s.ckp.streams != 0

/-- A controller has a request outstanding or a scrub to run (R361). -/
def State.mcBusy (s : State) (m : Nat) : Bool :=
  !(s.mc m).scrub.isEmpty || (s.memRequests.any fun (_, l, n) => s.onMc m l n) ||
  (s.castRuns && s.cfg.regions.any fun r =>
    (r.cast || r.buddy) && (pierList s.gen.capPiers r.kind r.target).any fun p => p / 2 == m)

/-- The dies that memory traffic from die `a` to die `b` visits: between adjacent dies the mortar link that joins them,
between opposite dies clockwise for an even page of pier space, counter-clockwise for an odd one (R219). -/
def mortarWay (a b page : Nat) : List Nat :=
  if a = b then [a] else if (a + 2) % 4 = b then [a, (if page % 2 = 0 then a + 1 else a + 3) % 4, b] else [a, b]

/-- The dies that requests of die `a` for a place, and their answers, visit (R219). -/
def State.memDies (s : State) (a : Nat) (l : Loc) (n : Nat) : List Nat :=
  match l with
  | .pier x => (pageParts (n / pageSize + 2) x n).flatMap fun (y, _) => match s.pierDecode y with
    | some (p, _) => mortarWay a (p / 8) (y / pageSize) ++ mortarWay (p / 8) a (y / pageSize)
    | none => []
  | .cs c _ => if n = 0 then [] else [a, c / 16]
  | .ls e _ => if n = 0 then [] else [a, e / 512]

/-- A flit or a request is held in a die's mesh, router or mortar endpoints (R361): a packet, a memory request that visits it,
or one for its piers. -/
def State.fabricBusy (s : State) (d : Nat) : Bool :=
  (s.rte.arrived.any fun a => a.die == d) || (s.rte.mortar.any fun t => t.die == d) ||
  (s.rte.waiting.any fun w => w.die == d) || (s.rte.locals_.any fun l => l.pkt.sdie.toNat == d) ||
  (s.ports.any fun (p, x) => ownerDie p == d && !x.queue.isEmpty) ||
  (s.engines.any fun (e, x) => e / 512 == d && !x.copies.isEmpty) ||
  (s.memRequests.any fun (a, l, n) => (s.memDies a l n).contains d) ||
  (List.range 4).any fun i => s.mcBusy (4 * d + i)

/-- An engine holds its course at Q0 (R361): it runs. -/
def Act.busy : Act → Bool
  | .run => true
  | _ => false

/-- A domain is idle (R361). -/
def State.domIdle (s : State) (d : Nat) : Bool :=
  if d < 64 then !(s.engines.any fun (e, x) => e / 32 == d && x.act.busy)
  else if d < 80 then !s.mcBusy (d - 64)
  else if d < 90 then (s.port (d - 80)).st == .down || (s.port (d - 80)).st == .disabled
  else if d < 92 then (s.host (d - 90)).l1 || (s.host (d - 90)).perst
  else if d < 96 then !s.fabricBusy (d - 92)
  else false

/-- An engine of the course waits in FWAIT or KWAIT, or holds an item (R230). -/
def State.courseHolds (s : State) (c : Nat) : Bool :=
  s.engines.any fun (e, x) => e / 32 == c && (x.item.isSome || x.reexecItem.isSome)

/-- The level that an idle domain enters after `t` AOCLK cycles (R361, R362, R230; before BU9 no deeper than Q2). -/
def State.descentLevel (s : State) (d t : Nat) : Nat :=
  let k := s.classCfg (domClass d)
  let may (l q : Nat) : Bool := q ≠ 0 && decide (t ≥ q) && decide (l ≤ k.deepest)
  let cap := if !s.ready then 2 else if d < 64 && s.courseHolds d then 3 else 4
  let l := if may 4 k.tQ4 && cap ≥ 4 then 4 else if may 3 k.tQ3 && cap ≥ 3 then 3 else if may 2 k.tQ2 then 2 else 0
  if l = 4 && domClass d = 2 && k.deepest = 5 && (s.port (d - 80)).st == .disabled then 5 else l

/-- Fast clocks that freeze has stopped do not change level (R372). -/
def State.domRuns (s : State) (d : Nat) : Bool :=
  s.pwr.seq == .on && !(s.dom d).held && (!s.frz.frozen || domClass d == 3) && domClass d < 4

/-- The idle time of a domain lets it enter a deeper level (R361). -/
def State.idleDescent (s : State) (d : Nat) : State :=
  let x := s.dom d
  match x.idle with
  | none => s
  | some t =>
    let l := s.descentLevel d t
    if !s.domRuns d || x.wakeReq || x.entering.isSome || l ≤ x.level || !s.domIdle d then s
    else s.setDom d { x with entering := some l }

/-- A domain finishes entering a level (R363); a wake event that came meanwhile waits for its grant or its exit. -/
def State.levelEntry (s : State) (d : Nat) : State :=
  let x := s.dom d
  match x.entering with
  | none => s
  | some l => if !s.domRuns d then s else s.setDom d { x with level := l, entering := none, mhz := 0 }

/-- Requests that a grant instant may grant, in order, under the limits of the module and of each die (R365). -/
def grantPick (dieMax : Nat) : Nat → List Nat → List Nat → List Nat
  | _, [], acc => acc
  | 0, _, acc => acc
  | m + 1, c :: t, acc =>
    if (acc.countP fun x => domDie x = domDie c) < dieMax then grantPick dieMax m t (acc ++ [c])
    else grantPick dieMax (m + 1) t acc

/-- One grant: the longest wait for a grant follows (PWR_WAKE_MAX). -/
def State.grantOne (s : State) (d : Nat) : State :=
  let w := (s.dom d).waited
  let s := s.modDom d fun x => { x with granted := true }
  { s with pwr := { s.pwr with wakeNow := max s.pwr.wakeNow w } }

/-- A grant instant (R365). -/
def State.grantInstant (s : State) : State :=
  if s.pwr.seq != .on || s.frz.frozen then s
  else
    let ok := s.pwr.wakeQ.filter fun c => (s.dom c).wakeReq && (s.dom c).entering.isNone
    let pick := grantPick s.cfg.diePer s.cfg.modPer ok []
    let s := { s with pwr := { s.pwr with wakeQ := s.pwr.wakeQ.filter fun c => !pick.contains c } }
    pick.foldl State.grantOne s

/-- A die's deep grant (R366): a controller exits, a course takes its grant at the next instant. -/
def State.deepGrant (s : State) (die : Nat) : State :=
  if s.pwr.seq != .on || s.frz.frozen || s.gen.time < Tab.get 0 s.pwr.deepAt die then s
  else match s.pwr.deepQ.find? fun d => domDie d = die && (s.dom d).entering.isNone with
    | none => s
    | some d =>
      let s := { s with pwr := { s.pwr with
        deepQ := s.pwr.deepQ.erase d,
        deepAt := Tab.put 0 s.pwr.deepAt die (s.gen.time + 25 * s.cfg.deepGap),
        wakeQ := if d < 64 then d :: s.pwr.wakeQ else s.pwr.wakeQ } }
      if d < 64 then s.modDom d fun x => { x with deepGiven := true } else s.grantOne d

/-- The course clock of a partition in MHz (R368). -/
def State.courseMhz (s : State) (p : Nat) : Nat :=
  let k := s.cfg.courseClk.getD p 0
  min (if k = 0 then 16 else k) s.pwr.ft * 50

/-- The clock of a running domain in MHz (R357). -/
def State.domMhz (s : State) (d : Nat) : Nat :=
  if d < 64 then match s.partOfCourse d with | some p => s.courseMhz p | none => 800
  else match domClass d with
    | 1 => 1200
    | 2 => if d - 80 < 4 then 1750 else 1562
    | 3 => 1000
    | 4 => 1600
    | _ => if d = 97 then 200 else if d = 98 then 1000 else 25

/-- The flag changes held for a course (R229). Additions modulo 2^32, and subtractions whose tests have passed, give the
same value in every order. -/
def State.applyHeld (s : State) (c : Nat) : State :=
  let y := s.crs c
  let s := (s.modCrs c fun y => { y with heldAdds := [], heldSubs := [] }).unhold (· == c)
  let s := y.heldAdds.foldl (fun s (e, f, v) => s.setFlag e f (s.flagVal e f + v)) s
  y.heldSubs.foldl (fun s (e, f, v) => s.setFlag e f (s.flagVal e f - v)) s

/-- What Q4 does not keep of an engine: its registers, operand buffers and accumulators (R230, R359). -/
def Engine.restart (x : Engine) : Engine :=
  { x with g := [], v := [], bufs := [], accs := [], pc := 0, numstat := 0 }

/-- The logic of a course starts from its reset state (R359). -/
def State.courseRestart (s : State) (c : Nat) : State :=
  { s with engines := s.engines.map fun (e, x) => (e, if e / 32 = c then x.restart else x) }

/-- A domain reaches Q0 after its exit time (R359); changes held for a course are applied first (R229). -/
def State.domainExit (s : State) (d : Nat) : State :=
  let x := s.dom d
  if !s.domRuns d || !x.wakeReq || !x.granted || x.entering.isSome then s
  else
    let s := s.setDom d { x with level := 0, wakeReq := false, granted := false, deepGiven := false, idle := none,
                                 waited := 0, asleep := 0, mhz := s.domMhz d,
                                 wakes := if x.level ≥ 2 then satAdd 64 x.wakes 1 else x.wakes }
    if d < 64 then (if x.level ≥ 4 then s.courseRestart d else s).applyHeld d else s

/-! ## The cap -/

/-- A sample of the input power averaged over 1 µs (R368). -/
def State.powerSample (s : State) (w : Nat) : State :=
  if s.pwr.seq != .on then s
  else { s with pwr := { s.pwr with
    samples := (w :: s.pwr.samples).take 100, peakNow := max s.pwr.peakNow (w % 2 ^ 32) } }

/-- P100 > CAP, and P100 < 0.95 × CAP. -/
def Pwr.over (p : Pwr) : Bool := decide (p.samples.sum > p.capW * p.samples.length)
def Pwr.under (p : Pwr) : Bool := decide (100 * p.samples.sum < 95 * p.capW * p.samples.length)

/-- The next throttle frequency: the first rule of R368 that holds. -/
def Pwr.nextFt (p : Pwr) : Nat :=
  if p.samples.headD 0 > p.capW + 400 then max 1 (p.ft - 4)
  else if p.over then max 1 (p.ft - 1)
  else if p.under && p.ft < 16 then p.ft + 1
  else p.ft

/-- Every 10 µs (R368). CAP_UNMET: F_T was 1 and P100 above CAP at 100 ticks on end, which is 1 ms. -/
def State.throttleTick (s : State) : State :=
  if s.pwr.seq != .on || s.pwr.samples.isEmpty then s
  else
    let p := s.pwr
    let n := if p.ft = 1 && p.over then p.unmetTicks + 1 else 0
    let s := if n ≥ 100 then s.stick [.capUnmet] else s
    { s with pwr := { p with ft := p.nextFt, unmetTicks := min n 100, capUnmet := p.capUnmet || decide (n ≥ 100) } }

/-- The clock of the running courses of a partition takes its new value (R370). -/
def State.courseClock (s : State) (p : Nat) : State :=
  if s.pwr.seq != .on || s.frz.frozen then s
  else (List.range 64).foldl (fun s c =>
    if s.partOfCourse c == some p && (s.dom c).level ≤ 1 && !(s.dom c).held then
      s.modDom c fun x => { x with mhz := s.courseMhz p }
    else s) s

/-- Telemetry, while rails 0 and 1 are good (R459). -/
def State.telemetry (s : State) (t : Telemetry) : State :=
  if !s.pwr.inputOn then s
  else { s with pwr := { s.pwr with vin := t.vin, iin := t.iin, pin := t.pin, rails := t.rails.take 10,
                                    temps := t.temps.take 6, tempsValid := true } }

def execLayerMark (pier layer : Nat) (s : State) : Host.Outcome State Fault Refusal :=
  guarded (isPier pier && isLayer layer) (s.layerMark pier layer)

def execPatrolScrub (pier loc : Nat) (found : ScrubResult) (s : State) : Host.Outcome State Fault Refusal :=
  guarded (isPier pier && found.wf) (s.patrolScrub pier loc found)

def execScrubWake (mc : Nat) (s : State) : Host.Outcome State Fault Refusal :=
  guarded (isMc mc) (s.scrubWake mc)

def execPierHotRefresh (pier : Nat) (temp : BitVec 8) (s : State) : Host.Outcome State Fault Refusal :=
  guarded (isPier pier) (s.pierTemp pier temp)

def execIdleDescent (d : Nat) (s : State) : Host.Outcome State Fault Refusal :=
  guarded (isDomain d) (s.idleDescent d)

def execLevelEntryComplete (d : Nat) (s : State) : Host.Outcome State Fault Refusal :=
  guarded (isDomain d) (s.levelEntry d)

def execWakeGrantInstant (s : State) : Host.Outcome State Fault Refusal :=
  .next s.grantInstant

def execDeepGrant (die : Nat) (s : State) : Host.Outcome State Fault Refusal :=
  guarded (isDie die) (s.deepGrant die)

def execDomainExitComplete (d : Nat) (s : State) : Host.Outcome State Fault Refusal :=
  guarded (isDomain d) (s.domainExit d)

def execPowerSample (watts : Nat) (s : State) : Host.Outcome State Fault Refusal :=
  .next (s.powerSample watts)

def execThrottleTick (s : State) : Host.Outcome State Fault Refusal :=
  .next s.throttleTick

def execCourseClockChange (p : Nat) (s : State) : Host.Outcome State Fault Refusal :=
  guarded (isPart p) (s.courseClock p)

def execTelemetryUpdate (t : Telemetry) (s : State) : Host.Outcome State Fault Refusal :=
  .next (s.telemetry t)

end Sys2Proof.Machine
end

