-- ==== Sys2Proof/Machine/Contexts.lean ====
section
/-!
DEFINITION. Stream contexts and their commands (R237 to R245, R402 to R408, R463), micro-batch slots (R246, R247),
keystone registers (R233, R235) and off-load windows (R323, R324).
-/
namespace Sys2Proof.Machine

/-! ## Host ports as requesters (R394, R396) -/

/-- Index of a requester (R12). -/
def reqIdx : Requester → Nat
  | .hp0 => 0
  | .hp1 => 1
  | .smb => 2

def portReq (h : Nat) : Requester := if h = 0 then .hp0 else .hp1

/-- Any other BAR0 access empties the requester's half latch (R12). -/
def State.emptyLatch (s : State) (r : Requester) : State := { s with latches := Tab.erase s.latches (reqIdx r) }

/-- The module may issue requests on a host port (R394). -/
def State.hostUsable (s : State) (h : Nat) : Bool :=
  let x := s.host h
  s.pwr.seq == .on && !x.perst && x.linkUp && !x.d3hot && x.bme

/-- Posted writes of at most Max_Payload_Size bytes (R396). -/
def State.hostWrites (s : State) (h : Nat) (a : W64) (bs : List Byte) (ro : Bool) : State :=
  (chunks (s.host h).mps bs).zipIdx.foldl (fun s (b, i) =>
    s.emit (.hostWrite h (a + BitVec.ofNat 64 (i * (s.host h).mps)) b ro)) s

/-- Reads of at most Max_Read_Request_Size, 4,096 bytes at most (R396). -/
def State.hostReads (s : State) (h : Nat) (a : W64) (n : Nat) : State :=
  let m := max 1 (min (s.host h).mrrs 4096)
  (List.range ((n + m - 1) / m)).foldl (fun s i =>
    s.emit (.hostRead h (a + BitVec.ofNat 64 (i * m)) (min m (n - i * m)))) s

/-! ## Error logging (R391, R395, R463) -/

/-- Bits of the uncorrectable error status. -/
def aerPoisoned : Nat := 12
def aerTimeout : Nat := 14
def aerAbort : Nat := 15
def aerUnsupported : Nat := 20

/-- An uncorrectable error is logged in the status register; the first that is not masked is pointed at, and its header
is logged. -/
def CfgSpace.logError (x : CfgSpace) (bit : Nat) (header : List Byte) : CfgSpace :=
  let x := { x with aerStatus := x.aerStatus ||| BitVec.ofNat 32 (2 ^ bit),
                    devSta := x.devSta ||| (if x.aerSev.getLsbD bit then 4 else 2) ||| (if bit = aerUnsupported then 8 else 0),
                    errSta := if bit = aerPoisoned then x.errSta ||| 0x8000 else x.errSta }
  if x.aerMask.getLsbD bit || x.aerFirst.isSome then x else { x with aerFirst := some bit, aerHeader := header }


/-- The module completes a request with Completer Abort and logs it. The header's requester and tag are no operands: the
logged header is free. -/
def State.logAbort (s : State) (h : Nat) : State :=
  let hdr := freeBytes s.freeCtr 16
  ({ s with freeCtr := s.freeCtr + 16 }).modHost h fun x => { x with
    space := { x.space.logError aerAbort hdr with errSta := x.space.errSta ||| 0x0800 } }

/-- Of the uncorrectable errors listed any number are logged, with any headers. -/
def State.logFree (s : State) (h : Nat) (l : List Nat) : State :=
  l.foldl (fun s b =>
    let (hit, s) := s.freeBool
    if hit then
      let hdr := freeBytes s.freeCtr 16
      ({ s with freeCtr := s.freeCtr + 16 }).modHost h fun x => { x with space := x.space.logError b hdr }
    else s) s

/-- Correctable errors are logged. -/
def CfgSpace.logCorrected (x : CfgSpace) (l : W32) : CfgSpace :=
  { x with corrStatus := x.corrStatus ||| l, devSta := if l = 0 then x.devSta else x.devSta ||| 1 }

/-- The correctable errors of an endpoint, and the uncorrectable ones that it meets on what arrives or in itself. -/
def aerCorrected : W32 := 0xF1C1
def aerReceived : List Nat := [4, 12, 13, 16, 17, 18, 19, 20, 22]

/-- The errors that the port has met on its link since its logs were read last (R391): which, is free. -/
def State.logLink (s : State) (h : Nat) : State :=
  let (k, s) := s.freeNat
  (s.modHost h fun x => { x with space := x.space.logCorrected (BitVec.ofNat 32 k &&& aerCorrected) }).logFree h aerReceived

/-- What the module detects on its own read of port `h` (R463): a timeout as such; of an error completion, the base
specification's bits for one in the Status register and in AER are set or not, freely. -/
def State.logRead (s : State) (h : Nat) (r : HostResult) : State :=
  match r with
  | .data _ => s
  | .timeout => s.modHost h fun x => { x with space := x.space.logError aerTimeout [] }
  | .error =>
    let (k, s) := s.freeNat
    let s := s.modHost h fun x => { x with
      space := { x.space with errSta := x.space.errSta ||| (BitVec.ofNat 16 k &&& 0x3000) } }
    s.logFree h [12, 16, 18, 19]

/-- A read that stops part-way with the timeout disabled is waited for (R395). -/
def State.waits (s : State) (h : Nat) (r : HostResult) : Bool := r == .timeout && (s.host h).ctDisable

/-- Partition whose registers a host port reaches (R237). -/
def State.reaches (s : State) (p : Option Nat) (h : Nat) : Bool :=
  match p with
  | some q => s.hostOf q == h
  | none => false

/-- Register writes are taken: the module is powered past BU1 and not frozen (R374). -/
def State.writable (s : State) : Bool := s.masonUp && !s.frz.frozen

/-! ## Context state (R238, R241) -/

/-- IN_PIER and the ring's base. -/
def Ctx.inPier (c : Ctx) : Bool := c.ring.getLsbD 0
def Ctx.base (c : Ctx) : Nat := c.ring.toNat / 64 * 64

/-- A ring in pier space lies wholly in one region that the partition may name, outside the buddy area. -/
def State.ringNameable (s : State) (p : Nat) (c : Ctx) : Bool :=
  let a := c.base
  a < pierSpace && s.mayName p (.pier a) && decide (64 * 2 ^ c.ringOrder ≤ s.room (.pier a))

/-- KIND and FENCE of a command (R404). -/
def cmdKind (b : List Byte) : Nat := fieldAt b 0x3F 1 % 128
def cmdFence (b : List Byte) : Bool := bit (fieldAt b 0x3F 1) 7

/-- A context is bound to a CLOSED slot. -/
def State.parked (s : State) (n : Nat) : Bool :=
  let k := (s.ctx n).slot
  k < 128 && (s.mslot k).arm

/-- CTX_STATUS.STATE (R241). -/
def State.ctxState (s : State) (n : Nat) : Nat :=
  let c := s.ctx n
  match s.partOfCtx n with
  | none => 0
  | some p =>
    if !s.ready then 0
    else if s.halted p then 7
    else if c.faultValid then 6
    else if !c.enable then 0
    else if s.parked n then 4
    else if (c.held.head?.map fun x => cmdFence x.bytes).getD false && c.live ≠ 0 then 5
    else if c.waitSlot then 3
    else if c.head ≠ c.tail then 2
    else 1

/-- The processor carries out the command at HEAD, or it waits in WAIT_SLOT. -/
def State.headTaken (s : State) (n : Nat) : Bool :=
  (s.ctx n).waitSlot || (match s.partOfCtx n with
    | some p => match (s.part p).carrying with
      | some c => c.ctx == n
      | none => false
    | none => false)

/-- The doorbell of context `n` is written through a host port (R238, R402). -/
def State.doorbell (s : State) (h n : Nat) (t : W32) : State :=
  match s.partOfCtx n with
  | none => s
  | some p =>
    if !s.live then s
    else if s.hostOf p ≠ h then s.modHost h fun x => { x with dbDrop := satAdd 32 x.dbDrop 1 }
    else
      let c := s.ctx n
      let k := b2n (s.headTaken n)
      let eff := c.head + BitVec.ofNat 32 k
      if c.enable && decide ((t - eff).toNat + k ≤ 2 ^ c.ringOrder) then
        s.setCtx n { c with tail := t, held := c.held.take (t - c.head).toNat, fenced := c.fenced && t != c.head }
      else (s.stick [.dbErr n]).setCtx n { c with dbErr := true }

/-- RESET of a context with no live item (R243). A command that the processor has taken is discarded with the rest. -/
def State.ctxReset (s : State) (n : Nat) : State :=
  if (s.ctx n).live ≠ 0 then s
  else
    let s := s.modCtx n fun c => { c with
      head := c.tail, faultValid := false, faultCode := 0, faultOpc := 0, faultEngine := 0, faultSeq := 0,
      dbErr := false, held := [], waitSlot := false, fenced := false }
    match s.partOfCtx n with
    | none => s
    | some p => s.modPart p fun x => match x.carrying with
      | some c => if c.ctx = n then { x with carrying := none } else x
      | none => x

/-- A write of CTX_CTRL, field by field (R238, R240, R243, R245, R246). -/
def State.ctxCtrl (s : State) (h n : Nat) (v : W32) : State :=
  let s := s.emptyLatch (portReq h)
  match s.partOfCtx n with
  | none => s
  | some p =>
    if !s.live || s.hostOf p ≠ h then s
    else
      let w := v.toNat
      let was := (s.ctx n).enable
      let k := bits w 23 16
      let s := s.modCtx n fun c => { c with
        prio := bits w 3 1, eval := bit w 4,
        slot := if k < 128 && s.partOfSlot k == some p then k else 0xFF,
        ringOrder := if was then c.ringOrder else bits w 12 8 }
      let s := if bit w 5 then s.ctxReset n else s
      s.modCtx n fun c =>
        if !bit w 0 then { c with enable := false }
        else if 4 ≤ c.ringOrder && c.ringOrder ≤ 16 && (!c.inPier || s.ringNameable p c) then { c with enable := true }
        else c

/-! ## The command processor (R239, R403, R404) -/

/-- How recently the processor served a context: smaller is longer ago. -/
def Part.recency (x : Part) (n : Nat) : Nat :=
  match x.served.idxOf? n with
  | some i => x.served.length - i
  | none => 0

/-- The context that partition `p`'s free processor chooses (R239). -/
def State.chooseCtx (s : State) (p : Nat) : Option Nat :=
  match s.partCfg p with
  | none => none
  | some pc =>
    let cs := ((List.range pc.ctxCount).map (· + pc.ctxFirst)).filter fun n => s.ctxState n == 2 && !(s.ctx n).fenced
    let rank (n : Nat) : Nat × Nat × Nat × Nat :=
      (b2n (s.ctx n).eval, 7 - (s.ctx n).prio, (s.part p).recency n, n)
    cs.foldl (fun best n => match best with
      | none => some n
      | some m => if rankLt (rank n) (rank m) then some n else some m) none

/-- Commands of one fetch: up to TAIL − HEAD and the largest read, not across the end of the ring (R403). -/
def State.fetchCount (s : State) (h : Nat) (c : Ctx) : Nat :=
  let left := (c.tail - c.head).toNat
  let i := c.head.toNat % 2 ^ c.ringOrder
  min (min left (2 ^ c.ringOrder - i)) (max 1 (min (s.host h).mrrs 4096 / 64))

/-- A command fails (R408): HEAD stays, the context is FAULTED, the processor is free. -/
def State.cmdFault (s : State) (p n : Nat) (code : BitVec 8) (seq : W32) : State :=
  (s.ctxFault n code 0 0 seq).modPart p fun x => { x with carrying := none }

/-- A command has been carried out: HEAD increments and the processor is free (R239). -/
def State.cmdDone (s : State) (p n : Nat) : State :=
  (s.modCtx n fun c => { c with head := c.head + 1, held := c.held.drop 1, waitSlot := false }).modPart p fun x =>
    { x with carrying := none }

/-- The processor takes the first held command of a context: a fenced one waits, an unknown KIND fails (R404, R408). -/
def State.takeCmd (s : State) (p n : Nat) : State :=
  match (s.ctx n).held with
  | [] => s
  | b :: _ =>
    if cmdFence b.bytes && (s.ctx n).live ≠ 0 then s.modCtx n fun c => { c with fenced := true }
    else
      let s := s.modPart p fun x => { x with served := n :: x.served.erase n,
                                             carrying := some { ctx := n, cmd := b, copy := none } }
      if cmdKind b.bytes ≥ 3 then s.cmdFault p n 0x82 0 else s

/-- Fetched commands are held with PRIO and EVAL as they stand (R240, R403). -/
def State.holdCmds (s : State) (n : Nat) (cmds : List (List Byte)) : State :=
  s.modCtx n fun c => { c with held := cmds.map fun b => { bytes := b, prio := c.prio, eval := c.eval } }

/-- The free processor of partition `p` chooses a context and fetches the command at HEAD; `cmds` is what the host
returned (R239, R403). -/
def State.ringFetch (s : State) (p : Nat) (cmds : List (List Byte)) : State :=
  if !s.live || s.castHeld || (s.part p).carrying.isSome || (s.part p).resetBusy then s
  else match s.chooseCtx p with
    | none => s
    | some n =>
      let c := s.ctx n
      if !c.held.isEmpty then s.takeCmd p n
      else
        let a := c.base + 64 * (c.head.toNat % 2 ^ c.ringOrder)
        if c.inPier then
          if !s.ringNameable p c then s
          else
            let (b, s) := s.fetchLoc (.pier a) 64
            (s.holdCmds n [b]).takeCmd p n
        else
          let h := s.hostOf p
          let k := min (s.fetchCount h c) cmds.length
          if !s.hostUsable h || k = 0 then s
          else ((s.hostReads h (BitVec.ofNat 64 a) (64 * s.fetchCount h c)).holdCmds n (cmds.take k)).takeCmd p n

/-- A ring fetch fails (R242): over the host port, or because a ring in pier space is no longer nameable. -/
def State.ringError (s : State) (p : Nat) (cause : RingCause) : State :=
  if !s.live || s.castHeld || (s.part p).carrying.isSome || (s.part p).resetBusy then s
  else match s.chooseCtx p with
    | none => s
    | some n =>
      let c := s.ctx n
      let h := s.hostOf p
      if !c.held.isEmpty then s
      else match cause with
        | .region => if c.inPier && !s.ringNameable p c then s.ctxFault n 0x81 0 0 0 else s
        | .error => if !c.inPier && s.hostUsable h then (s.ctxFault n 0x80 0 0 0).logRead h .error else s
        | .timeout =>
          if !c.inPier && s.hostUsable h && !s.waits h .timeout then (s.ctxFault n 0x80 0 0 0).logRead h .timeout else s

/-! ## ITEM (R405) -/

/-- The item descriptor of an ITEM command. -/
def cmdItem (b : List Byte) : List Byte := b.take 0x3F ++ [0]

/-- The item of a command is checked and placed in its home hod; with no free slot the context waits (R104, R405). -/
def State.placeItem (s : State) (p n : Nat) (cmd : Held) : State :=
  let b := cmdItem cmd.bytes
  let d := itemDesc b
  let st := s.checkItem b p false cmd.eval
  if st ≠ 0 then (s.cmdFault p n (0x90 + BitVec.ofNat 8 st) d.seq).modCtx n fun c => { c with waitSlot := false }
  else match (s.crs d.home).freeSlots with
    | [] => (s.modCtx n fun c => { c with waitSlot := true }).modPart p fun x => { x with carrying := none }
    | k :: _ =>
      let d := { d with ctx := n, eval := cmd.eval, prio := if cmd.eval then 0 else min d.prio cmd.prio }
      let s := s.occupy d.home k { desc := d, status := .pending, stamp := 0, listed := d.home, saved := none,
                                    limit := s.cfg.progressUs }
      (s.makeReady d.home k).cmdDone p n

/-- The processor of `p` carries out a command of the given KIND: its context and bytes. -/
def State.carried (s : State) (p kind : Nat) : Option Carrying :=
  match (s.part p).carrying with
  | none => none
  | some c => if s.live && cmdKind c.cmd.bytes == kind && c.copy.isNone && !(s.part p).resetBusy then some c else none

def State.itemCmd (s : State) (p : Nat) : State :=
  match s.carried p 0 with
  | none => s
  | some c => s.placeItem p c.ctx c.cmd

/-- A slot has freed in the hod that a waiting command needs (R241). -/
def State.hodRetry (s : State) (n : Nat) : State :=
  match s.partOfCtx n, (s.ctx n).held with
  | some p, b :: _ =>
    if !s.live || s.castHeld || !(s.ctx n).waitSlot || (s.part p).carrying.isSome || (s.part p).resetBusy || s.halted p ||
       (s.crs (itemDesc (cmdItem b.bytes)).home).freeSlots.isEmpty then s
    else s.placeItem p n b
  | _, _ => s

/-- A fenced command's context has come to CTX_LIVE 0 (R404). -/
def State.fenceEnd (s : State) (n : Nat) : State :=
  if s.live && (s.ctx n).fenced && (s.ctx n).live = 0 then s.modCtx n fun c => { c with fenced := false } else s

/-! ## COPY (R406) -/

/-- HOST, TARGET, LEN and DIR of a COPY command, checked (R406, R408). -/
def State.copyCheck (s : State) (p : Nat) (b : List Byte) : Except (BitVec 8) CopyCmd :=
  let a := w64At b 8
  let n := fieldAt b 0x10 4
  let dir := fieldAt b 0x14 1
  let v := a.toNat
  let ok := match v / 2 ^ 62 with
    | 1 => bits v 61 54 == 0 && bits v 47 22 == 0
    | 2 => bits v 61 41 == 0
    | _ => false
  if !ok || dir > 1 || ((b.drop 0x15).take 42).any (· ≠ 0) then .error 0x82
  else
    let l := eaLoc 0 0 a
    let c : CopyCmd := { host := w64At b 0, target := l, len := n, dir := dir }
    let usable := match l with | .cs _ o => decide (o < csUsable) | _ => true
    if n = 0 then .ok c
    else if !s.mayName p l || !usable then .error 0x94
    else if s.room l < n then .error 0x91
    else .ok c

/-- The host requests of a copy to or from the host (R394, R406, R324). -/
def State.startHostCopy (s : State) (h : Nat) (c : CopyCmd) : State :=
  if c.dir = 0 then s.hostReads h c.host c.len
  else
    let (bs, s) := s.fetchLoc c.target c.len
    (s.hostWrites h c.host bs (s.host h).ro).emit
      (.hostRead h (c.host + BitVec.ofNat 64 (c.len - min 4 c.len)) (min 4 c.len))

/-- COPY starts once its port may be used (R394). -/
def State.copyCmd (s : State) (p : Nat) : State :=
  match s.carried p 1 with
  | none => s
  | some c =>
    match s.copyCheck p c.cmd.bytes with
    | .error code => s.cmdFault p c.ctx code 0
    | .ok k =>
      if k.len = 0 then s.cmdDone p c.ctx
      else if !s.hostUsable (s.hostOf p) then s
      else (s.startHostCopy (s.hostOf p) k).modPart p fun x => { x with carrying := some { c with copy := some k } }

/-- What the destination holds of a copy into the module that an error stopped: each byte is as it was, or what came
(free). -/
def State.partialWrite (s : State) (l : Loc) (n : Nat) : State :=
  let old := s.readLoc l n
  ({ s with freeCtr := s.freeCtr + 2 * n }).storeLoc l (mixBytes (s.freeCtr + n) (old.zip (freeBytes s.freeCtr n)))

/-- Bytes that the host returned, as many as were asked for. -/
def padTo (n : Nat) (bs : List Byte) : List Byte := bs.take n ++ List.replicate (n - bs.length) 0

/-- The running COPY ends (R406, R463). -/
def State.copyEnd (s : State) (p : Nat) (r : HostResult) : State :=
  match (s.part p).carrying with
  | none => s
  | some c => match c.copy with
    | none => s
    | some k =>
      let h := s.hostOf p
      if !s.live || (s.part p).resetBusy || s.waits h r then s
      else match r with
        | .data bs => (if k.dir = 0 then s.storeLoc k.target (padTo k.len bs) else s).cmdDone p c.ctx
        | _ => ((if k.dir = 0 then s.partialWrite k.target k.len else s).cmdFault p c.ctx 0x80 0).logRead h r

/-! ## COMPLETE (R407) -/

/-- Bytes 0x00–0x17 and 0x18–0x1F of a completion record. -/
def complRecord (cookie : Nat) (n : Nat) (c : Ctx) : List Byte × List Byte :=
  (leBytes 8 cookie ++ leBytes 2 n ++ [0, 0] ++ leBytes 4 (c.head + 1).toNat ++ leBytes 8 c.finished,
   leBytes 4 c.numstat.toNat ++ leBytes 4 1)

/-- COMPLETE: both posted writes leave, or one of them is cut off (R463). -/
def State.completeCmd (s : State) (p : Nat) (cut : Option Nat) : State :=
  match s.carried p 2 with
  | none => s
  | some c =>
    let b := c.cmd.bytes
    let h := s.hostOf p
    let x := s.ctx c.ctx
    if fieldAt b 0 8 % 32 ≠ 0 || ((b.drop 0x10).take 47).any (· ≠ 0) then s.cmdFault p c.ctx 0x82 0
    else if x.faultValid then s.modPart p fun x => { x with carrying := none }
    else if !s.hostUsable h then s
    else
      let (r1, r2) := complRecord (fieldAt b 8 8) c.ctx x
      let w : List Out := [.hostWrite h (w64At b 0) r1 false, .hostWrite h (w64At b 0 + 0x18) r2 false]
      match cut.filter (· < 2) with
      | none => (w.foldl State.emit s).cmdDone p c.ctx
      | some k => ((w.take k).foldl State.emit s).cmdFault p c.ctx 0x80 0

/-! ## Micro-batch slots (R246, R247) -/

/-- The condition of an armed slot holds. -/
def State.slotReady (s : State) (k : Nat) : Bool :=
  let x := s.mslot k
  x.arm && decide (x.thresh ≤ s.flagLeft x.engine x.flag)

/-- Every FWAIT and step that would subtract first from a flag has done so (R225, R311). -/
def State.waitsDone (s : State) (e f : Nat) : Bool :=
  s.engines.all fun (i, x) =>
    (match x.act with
      | .waitFlag g v _ => !(s.mayResume i && s.flagEngine i == e && g == f && decide (v ≤ s.flagVal e f))
      | _ => true) &&
    (List.range x.nets.length).all fun j => match s.stepAt i j with
      | some (o, w) => !(o.flagEngine == e && w.waitFlag == f && s.stepReady o w)
      | none => true

/-- It is a slot's turn to subtract from its wait flag (R225 step 4). -/
def State.slotTurn (s : State) (k : Nat) : Bool :=
  let x := s.mslot k
  s.waitsDone x.engine x.flag &&
  (List.range k).all fun j => !((s.mslot j).engine == x.engine && (s.mslot j).flag == x.flag && s.slotReady j)

/-- A slot opens when its flag has reached THRESH and it is its turn (R247). -/
def State.slotOpen (s : State) (k : Nat) : State :=
  if !s.live || !s.slotReady k || !s.slotTurn k then s
  else
    let x := s.mslot k
    let s := s.setMslot k { x with arm := false, opens := satAdd 64 x.opens 1 }
    if x.consume then s.flagSub x.engine x.flag x.thresh else s

/-- A write of SLOT_WAIT (R247). -/
def State.slotWait (s : State) (h k : Nat) (v : W64) : State :=
  let s := s.emptyLatch (portReq h)
  match s.partOfSlot k with
  | none => s
  | some p =>
    let w := v.toNat
    let e := bits w 10 0
    let f := bits w 16 11
    if !s.live || s.hostOf p ≠ h || (bit w 31 && (s.partOfEngine e ≠ some p || f > 47)) then s
    else (s.modMslot k fun x => { x with engine := e, flag := f, consume := bit w 17, arm := bit w 31,
                                         thresh := BitVec.ofNat 32 (bits w 63 32) }).slotOpen k

/-! ## Keystone registers (R233, R235) -/

/-- The partition that owns a line. -/
def State.keyOwner (s : State) (k : Nat) : Option Nat := if (s.key k).owner < 8 then some (s.key k).owner else none

/-- A write of KEY_EXPECT (R233). -/
def State.keyExpect (s : State) (h k : Nat) (v : W32) : State :=
  let s := s.emptyLatch (portReq h)
  let n := v.toNat % 4096
  if !s.writable || !s.reaches (s.keyOwner k) h || n > 2048 || (s.key k).count ≠ 0 then s
  else s.modKey k fun x => { x with expect := n }

/-- A line returns to phase 0 with no arrival and no report (R235). -/
def State.keyClear (s : State) (k : Nat) : State :=
  (s.modKey k fun x => { x with phase := 0, count := 0, reports := [], shareDone := false }).keyWake k

/-- A write of KEY_CTRL (R235). -/
def State.keyCtrl (s : State) (h k : Nat) (v : W32) : State :=
  let s := s.emptyLatch (portReq h)
  if !s.writable || !s.reaches (s.keyOwner k) h || !v.getLsbD 0 then s else s.keyClear k

/-! ## Off-load windows (R323, R324) -/

/-- A partition has window `w`, and a host port reaches it. -/
def State.oflReach (s : State) (h p w : Nat) : Bool :=
  match s.partCfg p with
  | none => false
  | some c => c.hostPort == h && decide (w < c.offloadWin)

/-- An arming is acceptable (R323). -/
def State.oflOk (s : State) (p : Nat) (x : Ofl) : Bool :=
  let a := x.pier.toNat
  s.mayName p (.pier a) && decide (x.len.toNat ≤ s.room (.pier a)) && s.partOfEngine x.trigEngine == some p &&
  decide (x.trigFlag ≤ 47) && s.partOfEngine x.doneEngine == some p && decide (x.doneFlag ≤ 47)

/-- A window's copy is done: its flag and its count (R324). -/
def State.oflFinish (s : State) (p w : Nat) : State :=
  let x := s.ofl p w
  let s := s.setOfl p w { x with count := satAdd 64 x.count 1 }
  if x.doneValid then s.flagAdd x.doneEngine x.doneFlag 1 else s

/-- The running copy of a window has ended; the copy of its next firing takes its place. -/
def Ofl.advance (x : Ofl) : Ofl :=
  { x with busy := !x.next.isEmpty, copy := x.next.head?, sent := false, next := x.next.tail }

/-- A waiting window copy issues its requests once the port may be used (R394); none does while the module is frozen
(R372). -/
def State.oflIssue (s : State) (p w : Nat) : State :=
  let x := s.ofl p w
  match x.copy with
  | none => s
  | some c =>
    if x.sent || !s.live || !s.hostUsable (s.hostOf p) then s
    else (s.startHostCopy (s.hostOf p) c).modOfl p w fun y => { y with sent := true }

/-- The condition of an armed window holds. -/
def State.oflReady (s : State) (p w : Nat) : Bool :=
  let x := s.ofl p w
  x.arm && decide (x.thresh ≤ s.flagLeft x.trigEngine x.trigFlag)

/-- It is a window's turn: after every FWAIT, step and slot, and after lower windows (R324). -/
def State.oflTurn (s : State) (p w : Nat) : Bool :=
  let x := s.ofl p w
  s.waitsDone x.trigEngine x.trigFlag &&
  ((List.range 128).all fun k => !((s.mslot k).engine == x.trigEngine && (s.mslot k).flag == x.trigFlag && s.slotReady k)) &&
  (List.range w).all fun j =>
    !((s.ofl p j).trigEngine == x.trigEngine && (s.ofl p j).trigFlag == x.trigFlag && s.oflReady p j)

/-- An armed window fires (R324). -/
def State.oflFire (s : State) (p w : Nat) : State :=
  if !s.live || !s.oflReady p w || !s.oflTurn p w then s
  else
    let x := s.ofl p w
    let s := s.flagSub x.trigEngine x.trigFlag x.thresh
    let c : CopyCmd := { host := x.host, target := .pier x.pier.toNat, len := x.len.toNat, dir := if x.dir then 0 else 1 }
    let x := { x with arm := false }
    if c.len = 0 then (s.setOfl p w x).oflFinish p w
    else if x.busy then s.setOfl p w { x with next := x.next ++ [c] }
    else (s.setOfl p w { x with busy := true, copy := some c, sent := false }).oflIssue p w

/-- A write of OFL_CTRL (R323). -/
def State.oflCtrl (s : State) (h p w : Nat) (v : W32) : State :=
  let s := s.emptyLatch (portReq h)
  let x := s.ofl p w
  if !s.live || !s.oflReach h p w || (v.getLsbD 0 && !s.oflOk p x) then s
  else (s.setOfl p w { x with arm := v.getLsbD 0, dir := v.getLsbD 1, err := s.w1c (.oflErr p w) (v.getLsbD 3) x.err }).oflFire p w

/-- A window's copy ends: how its host side ended (R324). -/
def State.oflCopyDone (s : State) (p w : Nat) (r : HostResult) : State :=
  let x := s.ofl p w
  match x.copy with
  | none => s
  | some c =>
    let h := s.hostOf p
    if !s.live || !x.sent || s.waits h r then s
    else match r with
      | .data bs =>
        (((if c.dir = 0 then s.storeLoc c.target (padTo c.len bs) else s).modOfl p w Ofl.advance).oflFinish p w).oflIssue p w
      | _ =>
        ((((if c.dir = 0 then s.partialWrite c.target c.len else s).stick [.oflErr p w]).modOfl p w fun y =>
          { y.advance with err := true }).logRead h r).oflIssue p w

def execDoorbell (port n : Nat) (tail : W32) (s : State) : Host.Outcome State Fault Refusal :=
  guarded (isHost port && isCtx n) (s.doorbell port n tail)

def execCtxEnable (port n : Nat) (v : W32) (s : State) : Host.Outcome State Fault Refusal :=
  guarded (isHost port && isCtx n) (s.ctxCtrl port n v)

def execCtxDisable (port n : Nat) (v : W32) (s : State) : Host.Outcome State Fault Refusal :=
  guarded (isHost port && isCtx n) (s.ctxCtrl port n v)

def execCtxReset (port n : Nat) (v : W32) (s : State) : Host.Outcome State Fault Refusal :=
  guarded (isHost port && isCtx n) (s.ctxCtrl port n v)

def execCtxSlotBind (port n : Nat) (v : W32) (s : State) : Host.Outcome State Fault Refusal :=
  guarded (isHost port && isCtx n) (s.ctxCtrl port n v)

def execRingFetch (p : Nat) (cmds : List (List Byte)) (s : State) : Host.Outcome State Fault Refusal :=
  guarded (isPart p) (s.ringFetch p cmds)

def execRingFetchError (p : Nat) (cause : RingCause) (s : State) : Host.Outcome State Fault Refusal :=
  guarded (isPart p) (s.ringError p cause)

def execItem (p : Nat) (s : State) : Host.Outcome State Fault Refusal :=
  guarded (isPart p) (s.itemCmd p)

def execCopy (p : Nat) (s : State) : Host.Outcome State Fault Refusal :=
  guarded (isPart p) (s.copyCmd p)

def execCopyCmdDone (p : Nat) (r : HostResult) (s : State) : Host.Outcome State Fault Refusal :=
  guarded (isPart p) (s.copyEnd p r)

def execComplete (x : Posting) (s : State) : Host.Outcome State Fault Refusal :=
  guarded (isPart x.p) (s.completeCmd x.p x.cut)

def execHodSlotRetry (n : Nat) (s : State) : Host.Outcome State Fault Refusal :=
  guarded (isCtx n) (s.hodRetry n)

def execFenceWaitEnd (n : Nat) (s : State) : Host.Outcome State Fault Refusal :=
  guarded (isCtx n) (s.fenceEnd n)

def execSlotArm (port k : Nat) (v : W64) (s : State) : Host.Outcome State Fault Refusal :=
  guarded (isHost port && isSlot k) (s.slotWait port k v)

def execSlotOpen (k : Nat) (s : State) : Host.Outcome State Fault Refusal :=
  guarded (isSlot k) (s.slotOpen k)

def execKeyExpectWrite (port k : Nat) (v : W32) (s : State) : Host.Outcome State Fault Refusal :=
  guarded (isHost port && isKey k) (s.keyExpect port k v)

def execKeyReset (port k : Nat) (v : W32) (s : State) : Host.Outcome State Fault Refusal :=
  guarded (isHost port && isKey k) (s.keyCtrl port k v)

def execOflArm (port p w : Nat) (v : W32) (s : State) : Host.Outcome State Fault Refusal :=
  guarded (isHost port && isPart p && isWindow w) (s.oflCtrl port p w v)

def execOflWindowFire (p w : Nat) (s : State) : Host.Outcome State Fault Refusal :=
  guarded (isPart p && isWindow w) (s.oflFire p w)

def execOflCopyDone (p w : Nat) (r : HostResult) (s : State) : Host.Outcome State Fault Refusal :=
  guarded (isPart p && isWindow w) (s.oflCopyDone p w r)

end Sys2Proof.Machine
end

