-- ==== Sys2Proof/Machine/Link.lean ====
section
/-!
DEFINITION. Torus ports and their link layer (R252 to R261, R290 to R292, R445).
-/
namespace Sys2Proof.Machine

/-- Torus ports have been started (BU6) and their clocks run. -/
def State.portsOn (s : State) : Bool := s.pwr.seq == .on && !s.frz.frozen && decide (s.bu.stage ≥ 6)

/-- A port of the module receives flits: it is UP or NBR_FROZEN. -/
def State.linkOn (s : State) (p : Nat) : Bool :=
  s.portsOn && ((s.port p).st == .up || (s.port p).st == .frozen)

/-! ## Packets in part (R288 to R290) -/

/-! Of several copies of one packet the oldest comes first everywhere: copies take one way. -/

/-- The trailer that follows a packet from die `d` over mortar sets out, with DISCARD set or not: of several copies that of
the oldest whose trailer has not. -/
def State.tailsPass (s : State) (d : Nat) (q : Packet) (bad : Bool) : State :=
  s.modRte fun r => { r with
    tails := changeFirst (fun t => t.src == d && !t.passed && samePkt t.pkt q) (fun t => { t with passed := true, bad := bad })
      r.tails }

/-- What has not left of the flits of a packet that has started on port `k` (any number, its head apart) goes back to the
credits (R258). -/
def State.unsend (s : State) (k : Nat) (y : QPkt) : State :=
  let (u, s) := s.freeNat
  let n := u % flitsOf y.pkt.payload.length
  s.modPort k fun x => { x with
    txSent := Tab.put 0 x.txSent y.vc (Tab.get 0 x.txSent y.vc - BitVec.ofNat 16 n), txFlits := x.txFlits - n }

/-- A packet that has started on port `k` is abandoned: its trailer goes out with DISCARD set (R288, R289). -/
def State.abandon (s : State) (k : Nat) (y : QPkt) : State :=
  (s.unsend k y).emit (.trailer k { y.pkt with discard := true })

/-- A packet that waits at port `k` for a trailer which did not come, or came bad, is taken out of its queue, or, once it has
started, abandoned (R288, R289). -/
def State.dropQueued (s : State) (q : Packet) (k : Nat) : State :=
  match (s.port k).cut.find? fun y => samePkt y.pkt q with
  | some y => (s.modPort k fun x => { x with cut := x.cut.erase y }).abandon k y
  | none => s.modPort k fun x => { x with queue := x.queue.eraseP fun y => !y.whole && samePkt y.pkt q }

/-- The ports that die `d` owns (R252). -/
def diePorts (d : Nat) : List Nat := (List.range 10).filter fun k => ownerDie k == d

/-- The packet whose tail did not come, or came bad, is taken out of every place of die `d` that still waits for its
trailer; what has left on a port, or over mortar, gets its trailer with DISCARD set (R288, R289). -/
def State.dropPart (s : State) (d : Nat) (q : Packet) : State :=
  (diePorts d).foldl (State.dropQueued · q) ((s.modRte fun r => { r with
    arrived := r.arrived.eraseP fun a => a.die == d && !a.whole && samePkt a.pkt q }).tailsPass d q true)

/-- The packet a port is receiving is dropped; `f` counts it at the port (R293). -/
def State.dropIncoming (s : State) (p : Nat) (f : Port → Port) : State :=
  match (s.port p).incoming with
  | none => s
  | some q => (s.modPort p fun x => { f x with incoming := none }).dropPart (ownerDie p) q

/-- A packet discarded because its port is DOWN, or leaves NBR_FROZEN. -/
def Port.countDown (x : Port) : Port := { x with downDrop := satAdd 64 x.downDrop 1 }

/-- A packet discarded because its tail has not come. -/
def Port.countStall (x : Port) : Port := { x with stallDrop := satAdd 64 x.stallDrop 1 }

/-! ## The stream of codewords (R255, R257, R258) -/

/-- Codewords that the next `n` flits begin. -/
def Port.begun (x : Port) (n : Nat) : Nat := (x.txFill + n + 4) / 5 - (x.txFill + 4) / 5

/-- The port holds few enough unacknowledged codewords to send `n` more flits. -/
def Port.hasRoom (x : Port) (n : Nat) : Bool := decide (x.txHeld.length + x.begun n ≤ 512)

/-- What is kept of the flit slots sent: those of the last 1,024. -/
def keepRecent : Nat → List (Nat × Bool) → List (Nat × Bool)
  | _, [] => []
  | n, (k, p) :: t => if n = 0 then [] else (k, p) :: keepRecent (n - k) t

/-- `n` flits go out, of a strict-priority class or not: they fill the codeword that is open and begin others, which are
kept until they are acknowledged. -/
def Port.sendFlits (x : Port) (n : Nat) (strict : Bool) : Port :=
  { x with txFill := (x.txFill + n) % 5, txSeq := x.txSeq + BitVec.ofNat 10 (x.begun n),
           txHeld := x.txHeld ++ (List.range (x.begun n)).map (fun i => x.txSeq + BitVec.ofNat 10 i),
           recent := keepRecent 1024 ((n, strict) :: x.recent) }

/-- A control or IDLE flit goes out on a port that may send (R256, R257). -/
def State.sendCtrl (s : State) (p : Nat) (o : Out) : State :=
  if (s.port p).hasRoom 1 then (s.modPort p fun x => x.sendFlits 1 false).emit o else s

/-- While no command arrives an UP port's stream goes on: IDLE flits complete the open codeword and fill a free number of
further ones, none beyond the 512 that may stand unacknowledged. -/
def State.streamIdle (s : State) (p : Nat) : State :=
  if (s.port p).st ≠ .up then s
  else
    let (k, s) := s.freeNat
    s.modPort p fun x => { x with txFill := 0 }.sendFlits (5 * min k (512 - x.txHeld.length)) false

/-- Flits of a channel of port `p` that lie in its input buffer: those of packets that have not left it (R258). -/
def State.inputHeld (s : State) (p v : Nat) : Nat :=
  ((s.rte.arrived.filter fun a => a.inp == some (p, v)).map fun a => flitsOf a.pkt.payload.length).sum +
  ((s.ports.flatMap fun (_, x) => (x.queue.filter fun q => q.inp == some (p, v)).map fun q =>
    flitsOf q.pkt.payload.length)).sum

/-- Flits that the receiver has taken off the link on a channel, modulo 65,536: those received that its input buffer no
longer holds (DEDUCED, notes/assumptions/7.md). -/
def State.taken (s : State) (p v : Nat) : BitVec 16 := Tab.get 0 (s.port p).rxCount v - BitVec.ofNat 16 (s.inputHeld p v)

/-- A port's queued packets and the one it receives are discarded, and its link layer starts afresh (R290). -/
def State.portDrop (s : State) (p : Nat) : State :=
  let s := s.dropIncoming p Port.countDown
  s.modPort p fun x => { x with
    downDrop := satAdd 64 x.downDrop x.queue.length, queue := [], cut := [], dropBody := false, rxExpect := 0,
    rxDiscard := false, txSeq := 0, txFill := 0, txHeld := [], nakSeq := 0, nakCount := 0, txSent := [], txFreed := [],
    rxCount := [], rxTold := [], recent := [] }

/-- A port is declared DOWN (R290); entries into DOWN are counted. -/
def State.portDown (s : State) (p : Nat) : State :=
  (s.portDrop p).modPort p fun x =>
    if x.st = .down then x else { x with st := .down, downEvents := satAdd 64 x.downEvents 1 }

/-- A port may train: fitted, lit when optical, in no state that LNK_CTRL holds. -/
def State.mayTrain (s : State) (p : Nat) : Bool :=
  let x := s.port p
  x.fitted && !x.disableBit && !x.testBit && (p < 4 || x.light)

/-- A port starts training. -/
def State.startTraining (s : State) (p : Nat) : State :=
  if !s.mayTrain p then s
  else (s.modPort p fun x => { x with st := .training }).requestWake (domPort p)

/-- A port is declared DOWN and retrains without a soak (R290). -/
def State.portRetrain (s : State) (p : Nat) : State := (s.portDown p).startTraining p

/-! ## Replay (R257) -/

/-- A NAK names the CW_SEQ that the receiver expects. -/
def State.sendNak (s : State) (p : Nat) : State := s.sendCtrl p (.nak p (s.port p).rxExpect)

/-- A NAK arrives: the sender replays from the named codeword, when it holds it. -/
def State.nak (s : State) (p : Nat) (seq : BitVec 10) : State :=
  let x := s.port p
  if !s.linkOn p then s
  else
    let n := if x.nakCount > 0 && x.nakSeq == seq then x.nakCount + 1 else 1
    let s := s.setPort p { x with nakSeq := seq, nakCount := n }
    if x.txHeld.contains seq then
      (s.modPort p fun y => { y with replay := satAdd 64 y.replay 1 }).emit (.replay p seq)
    else s

/-- Eight consecutive NAKs for one CW_SEQ; a port in NBR_FROZEN is not declared DOWN (R292). -/
def State.nakLimit (s : State) (p : Nat) : State :=
  if !s.linkOn p || (s.port p).st ≠ .up || (s.port p).nakCount < 8 then s else s.portRetrain p

/-- The codewords still held after an acknowledgement up to `a`. -/
def ackHeld (l : List (BitVec 10)) (a : BitVec 10) : List (BitVec 10) :=
  match l.idxOf? a with
  | some i => l.drop (i + 1)
  | none => l

/-- A CREDIT flit arrives (R257, R258). -/
def State.credit (s : State) (p : Nat) (counts : List (BitVec 16)) (a : BitVec 10) : State :=
  let x := s.port p
  if !s.linkOn p then s
  else
    let h := ackHeld x.txHeld a
    s.setPort p { x with
      txFreed := (counts.take 16).zipIdx.foldl (fun t (c, v) => Tab.put 0 t v c) x.txFreed, txHeld := h,
      nakCount := if h.length < x.txHeld.length then 0 else x.nakCount }

/-- A CREDIT flit is sent (R258). -/
def State.creditSend (s : State) (p : Nat) : State :=
  let x := s.port p
  if !s.portsOn || x.st ≠ .up || !x.hasRoom 1 then s
  else (s.modPort p fun x => { x with rxTold := (List.range 16).foldl (fun t v => Tab.put 0 t v (s.taken p v)) [] }).sendCtrl p
    (.credit p ((List.range 16).map (s.taken p)) (x.rxExpect - 1))

/-! ## Heartbeats (R261) and the freeze wave (R373) -/

/-- A freeze trigger is latched; one that comes after the cycle of the first changes nothing (R371). -/
def State.freezeTrigger (s : State) (f : Frz → Frz) : State :=
  if s.frz.frozen || (s.frz.latched && s.frz.latchedAt ≠ s.gen.time) then s
  else { s with frz := { f s.frz with latched := true, latchedAt := s.gen.time } }

/-- A freeze wave came in on port `p`; of several ports in one cycle the lowest stands (R373). -/
def Frz.waveOn (z : Frz) (p : Nat) : Frz := { z with wave := true, port := if z.wave then min z.port p else p }

/-- An optical port whose bay gives no light is DOWN (R253). -/
def State.unlit (s : State) (p : Nat) : Bool := decide (4 ≤ p) && !(s.port p).light

/-- An IDLE flit arrives on a port that receives flits; one with FROZEN makes it NBR_FROZEN (R292), unless it has no light. -/
def State.idleFlit (s : State) (p : Nat) (hb : W32) (freeze frozen : Bool) : State :=
  let x := s.port p
  if !s.portsOn || !x.fitted || x.st == .disabled || x.st == .test then s
  else
    let frozen := frozen && !s.unlit p
    let s := s.setPort p { x with hb := hb, hbAge := 0, hbMissing := false, st := if frozen then .frozen else x.st }
    let s := if frozen then s.requestWake (domPort p) else s
    if freeze && s.ready && s.cfg.slice.freezeWave then s.freezeTrigger fun z => z.waveOn p else s

/-- HB_COUNT increments and every UP port sends an IDLE flit. -/
def State.heartbeat (s : State) : State :=
  if !s.portsOn then s
  else
    let s := { s with hbCount := s.hbCount + 1 }
    (List.range 10).foldl (fun s p =>
      if (s.port p).st == .up then s.sendCtrl p (.idle p s.hbCount false false) else s) s

/-- No IDLE flit for 25 µs: 625 AOCLK cycles. -/
def State.hbMissing (s : State) (p : Nat) : State :=
  if !s.portsOn || !(s.port p).fitted || (s.port p).hbAge < 625 then s
  else s.modPort p fun x => { x with hbMissing := true }

/-! ## Port states -/

/-- No correctable codeword for 64 µs (R290); not while NBR_FROZEN (R292). -/
def State.linkSilence (s : State) (p : Nat) : State :=
  if !s.portsOn || (s.port p).st ≠ .up then s else s.portRetrain p

/-- Neither half of a port's lanes has trained: it is DOWN (R252). -/
def State.trainingFails (s : State) (p : Nat) : State :=
  if !s.portsOn || (s.port p).st ≠ .training then s else s.portDown p

/-- A port that trains completes it at full or half width, its clock running (R252, R254). -/
def State.portTrained (s : State) (p : Nat) (half : Bool) : State :=
  let x := s.port p
  let d := s.dom (domPort p)
  if !s.portsOn || !s.mayTrain p || x.st != .training || d.level ≥ 2 || d.entering.isSome then s
  else s.setPort p { x with st := .up, halfWidth := half, nbrDead := false, nbrValid := false, nbr := none }

/-- Signal detect on a DOWN port's lanes wakes its domain (R361), and the port trains, when it may (R290, R253). -/
def State.signalDetect (s : State) (p : Nat) : State :=
  if !s.portsOn || (s.port p).st ≠ .down then s else (s.requestWake (domPort p)).startTraining p

/-- 1 ms neither UP nor receiving IDLE flits (R291). -/
def State.nbrDead (s : State) (p : Nat) : State :=
  let x := s.port p
  if !s.portsOn || !x.fitted || x.st == .up || x.st == .frozen || x.hbAge < 25000 then s
  else s.setPort p { x with nbrDead := true }

/-- A frozen neighbour starts training, and the port with it (R292). -/
def State.nbrTraining (s : State) (p : Nat) : State :=
  if !s.portsOn || (s.port p).st ≠ .frozen then s
  else ((s.portDrop p).modPort p fun x => { x with st := .training }).requestWake (domPort p)

/-- The port has been NBR_FROZEN for LNK_FRZ_HOLD (R292); 0 is no limit. -/
def State.frozenHold (s : State) (p : Nat) : State :=
  if !s.portsOn || (s.port p).st ≠ .frozen || (s.port p).frzHold = 0 then s else s.portRetrain p

/-- A write of LNK_CTRL through OWNER_PORT (R254, R290, R292, R296, R387). A port that is not fitted keeps the bits. A test
of an optical port without light waits for the light: until then the port is DOWN (R253). -/
def State.lnkCtrl (s : State) (h p : Nat) (v : W32) : State :=
  let s := s.emptyLatch (portReq h)
  let x := s.port p
  if !s.writable || !s.ownedBy h then s
  else if !x.fitted then s.setPort p { x with disableBit := v.getLsbD 1, testBit := v.getLsbD 2 }
  else
    let dis := v.getLsbD 1
    let tst := v.getLsbD 2
    let s := s.modPort p fun y => { y with disableBit := dis, testBit := tst }
    let s := if !s.portsOn then s else s.requestWake (domPort p)
    if dis then if x.st = .disabled then s else (s.portDrop p).modPort p fun y => { y with st := .disabled }
    else if tst then
      if x.st = .test then s
      else if s.unlit p then if x.st = .disabled then s.portDown p else s
      else (s.portDrop p).modPort p fun y => { y with st := .test }
    else if v.getLsbD 0 || x.st == .disabled || x.st == .test then s.portRetrain p
    else s

/-! ## Laser light (R253, R445) -/

/-- The two optical ports of a bay. -/
def bayPorts (b : Nat) : List Nat := [4 + 2 * b, 5 + 2 * b]

/-- Bays are fitted on the parts with optical ports (R6). -/
def State.hasBays (s : State) : Bool := s.gen.part != 2

/-- A bay's light stops: both its ports go DOWN. A frozen module's ports stand still. -/
def State.lightLoss (s : State) (b : Nat) : State :=
  if !s.hasBays then s
  else (bayPorts b).foldl (fun s p =>
    let s := s.modPort p fun x => { x with light := false }
    if s.frz.frozen || !(s.port p).fitted || (s.port p).st == .disabled then s else s.portDown p) s

/-- The step of a rail (R452); 0 is standby. -/
def railStep (r : Nat) : Nat := [0, 0, 1, 2, 2, 3, 4, 5, 5, 6].getD r 6

/-- A rail is powered: the standby rails with the input, the others as the steps are up. -/
def State.railOn (s : State) (r : Nat) : Bool := s.pwr.inputOn && (s.pwr.seq == .on || decide (railStep r ≤ s.pwr.steps))

/-- Light returns to a bay whose unit is seated and which has its 12 V (R445, R452), and its ports retrain, or take up the
test that LNK_CTRL asks for. -/
def State.lightReturn (s : State) (b : Nat) : State :=
  if !s.hasBays || !s.railOn 2 then s
  else (bayPorts b).foldl (fun s p =>
    if !(s.port p).lightUnit then s
    else
      let s := s.modPort p fun x => { x with light := true }
      if !s.portsOn || (s.port p).st ≠ .down then s
      else if (s.port p).testBit && !(s.port p).disableBit then
        (s.modPort p fun x => { x with st := .test }).requestWake (domPort p)
      else s.startTraining p) s

def State.laserUnit (s : State) (b : Nat) (seated : Bool) : State :=
  if !s.hasBays then s else (bayPorts b).foldl (fun s p => s.modPort p fun x => { x with lightUnit := seated }) s

def execNak (port : Nat) (seq : BitVec 10) (s : State) : Host.Outcome State Fault Refusal :=
  guarded (isPort port) (s.nak port seq)

def execNakLimit (port : Nat) (s : State) : Host.Outcome State Fault Refusal :=
  guarded (isPort port) (s.nakLimit port)

def execCredit (port : Nat) (counts : List (BitVec 16)) (ack : BitVec 10) (s : State) :
    Host.Outcome State Fault Refusal :=
  guarded (isPort port) (s.credit port counts ack)

def execCreditSend (port : Nat) (s : State) : Host.Outcome State Fault Refusal :=
  guarded (isPort port) (s.creditSend port)

def execIdle (port : Nat) (hb : W32) (freeze frozen : Bool) (s : State) : Host.Outcome State Fault Refusal :=
  guarded (isPort port) (s.idleFlit port hb freeze frozen)

def execHeartbeatTick (s : State) : Host.Outcome State Fault Refusal :=
  .next s.heartbeat

def execHbMissing (port : Nat) (s : State) : Host.Outcome State Fault Refusal :=
  guarded (isPort port) (s.hbMissing port)

def execLinkSilenceTimeout (port : Nat) (s : State) : Host.Outcome State Fault Refusal :=
  guarded (isPort port) (s.linkSilence port)

def execPortTrained (port : Nat) (got : Training) (s : State) : Host.Outcome State Fault Refusal :=
  guarded (isPort port) (if got = .neither then s.trainingFails port else s.portTrained port (got == .half))

def execSignalDetect (port : Nat) (s : State) : Host.Outcome State Fault Refusal :=
  guarded (isPort port) (s.signalDetect port)

def execNbrDeadSet (port : Nat) (s : State) : Host.Outcome State Fault Refusal :=
  guarded (isPort port) (s.nbrDead port)

def execNbrTrainingDetect (port : Nat) (s : State) : Host.Outcome State Fault Refusal :=
  guarded (isPort port) (s.nbrTraining port)

def execFrozenHoldExpiry (port : Nat) (s : State) : Host.Outcome State Fault Refusal :=
  guarded (isPort port) (s.frozenHold port)

def execRetrain (port p : Nat) (v : W32) (s : State) : Host.Outcome State Fault Refusal :=
  guarded (isHost port && isPort p) (s.lnkCtrl port p v)

def execDisable (port p : Nat) (v : W32) (s : State) : Host.Outcome State Fault Refusal :=
  guarded (isHost port && isPort p) (s.lnkCtrl port p v)

def execTest (port p : Nat) (v : W32) (s : State) : Host.Outcome State Fault Refusal :=
  guarded (isHost port && isPort p) (s.lnkCtrl port p v)

def execLightLoss (bay : Nat) (s : State) : Host.Outcome State Fault Refusal :=
  guarded (isBay bay) (s.lightLoss bay)

def execLightReturn (bay : Nat) (s : State) : Host.Outcome State Fault Refusal :=
  guarded (isBay bay) (s.lightReturn bay)

def execLaserUnitInsert (bay : Nat) (s : State) : Host.Outcome State Fault Refusal :=
  guarded (isBay bay) (s.laserUnit bay true)

def execLaserUnitRemove (bay : Nat) (s : State) : Host.Outcome State Fault Refusal :=
  guarded (isBay bay) ((s.laserUnit bay false).lightLoss bay)

end Sys2Proof.Machine
end

