-- ==== Sys2Proof/Machine/Router.lean ====
section
/-!
DEFINITION. Packets at the routers: output arbitration and credits (R258, R260), arrival of heads and trailers (R277,
R288), the stall bound (R289) and the age limit (R293). Packets are handled whole: a head carries the packet, and its
trailer event says that the rest has come (notes/assumptions/7.md).
-/
namespace Sys2Proof.Machine

/-! ## Sending on a port (R258, R260) -/

/-- Flits of a channel that the receiver has not yet taken off. -/
def Port.inUse (x : Port) (v : Nat) : Nat := (Tab.get 0 x.txSent v - Tab.get 0 x.txFreed v).toNat

/-- Flits for which a channel holds credits: what is left of its own 40, and of the 7,552 that all share. -/
def Port.credits (x : Port) (v : Nat) : Nat :=
  (40 - x.inUse v) + (7552 - ((List.range 16).map fun w => x.inUse w - 40).sum)

/-- The first packet of each channel in the queue, for which its channel holds credits. -/
def Port.candidates (x : Port) : List QPkt :=
  (List.range 16).filterMap fun v => match x.queue.find? fun q => q.vc = v with
    | some q => if flitsOf q.pkt.payload.length ≤ x.credits v then some q else none
    | none => none

/-- Of one class's candidates, that of the channel which was not sent last. -/
def Port.pickClass (x : Port) (cs : List QPkt) (tc : Nat) : Option QPkt :=
  let l := cs.filter fun q => q.pkt.tc.toNat = tc
  match l.find? fun q => q.vc % 2 ≠ Tab.get 1 x.lastDl tc with
  | some q => some q
  | none => l.head?

/-- Strict-priority flits among the last `n` flit slots. -/
def prioIn : Nat → List (Nat × Bool) → Nat
  | _, [] => 0
  | n, (k, p) :: t => if n = 0 then 0 else (if p then min k n else 0) + prioIn (n - k) t

/-- A cast transfer runs on the port: a cast message waits there. -/
def Port.castRuns (x : Port) : Bool :=
  x.queue.any fun q => q.pkt.tc = 3 && 0x40 ≤ q.pkt.opc && q.pkt.opc ≤ 0x46

/-- The weights of TC1, TC2 and TC3: LNK_ARB, or TC3_SHARE per cent for TC3 while a cast transfer runs (R51, R260). -/
def State.weights (s : State) (p : Nat) : List Nat :=
  let x := s.port p
  let w (i : Nat) : Nat := max 1 (x.arb.toNat / 256 ^ i % 256)
  if x.castRuns then
    let k := min 100 s.cfg.cast.tc3Share
    [(100 - k) * w 0, (100 - k) * w 1, k * (w 0 + w 1)]
  else [w 0, w 1, w 2]

/-- The weighted round robin: the class of the next packet among those with candidates, and what is left of each
weight. -/
def wrr (has : List Bool) (left ws : List Nat) : Option (Nat × List Nat) :=
  let pick (l : List Nat) : Option Nat := (List.range 3).find? fun i => has.getD i false && l.getD i 0 > 0
  match pick left with
  | some i => some (i + 1, left.modify i (· - 1))
  | none => match pick ws with
    | some i => some (i + 1, ws.modify i (· - 1))
    | none => ((List.range 3).find? fun i => has.getD i false).map fun i => (i + 1, ws)

/-- The packet that the port sends next (R260), and what is left of the weights. -/
def State.arbitrate (s : State) (p : Nat) : Option (QPkt × List Nat) :=
  let x := s.port p
  let cs := x.candidates
  let left := [x.rr1, x.rr2, x.rr3]
  let low := x.queue.filter fun q => 1 ≤ q.pkt.tc.toNat ∧ q.pkt.tc.toNat ≤ 3
  let strict := [5, 0, 4].findSome? fun tc => x.pickClass cs tc
  let may (q : QPkt) : Bool :=
    let n := flitsOf q.pkt.payload.length
    low.isEmpty || decide (prioIn (1024 - n) x.recent + n ≤ 64)
  let weighted : Option (QPkt × List Nat) :=
    match wrr [(x.pickClass cs 1).isSome, (x.pickClass cs 2).isSome, (x.pickClass cs 3).isSome] left (s.weights p) with
    | none => none
    | some (tc, l) => (x.pickClass cs tc).map fun q => (q, l)
  match strict with
  | some q => if may q then some (q, left) else weighted
  | none => weighted

/-- A port starts its next packet (R258, R260), once its codewords find room among the 512 that may stand unacknowledged
(R257). -/
def State.sendStart (s : State) (p : Nat) : State :=
  let x := s.port p
  if !s.portsOn || x.st ≠ .up then s
  else match s.arbitrate p with
    | none => s
    | some (q, l) =>
      let n := flitsOf q.pkt.payload.length
      let tc := q.pkt.tc.toNat
      if !x.hasRoom n then s
      else (s.setPort p { x.sendFlits n (tc = 5 || tc = 0 || tc = 4) with
        queue := x.queue.erase q, cut := if q.whole then x.cut else x.cut ++ [q],
        txFlits := satAdd 64 x.txFlits n,
        txSent := Tab.put 0 x.txSent q.vc (Tab.get 0 x.txSent q.vc + BitVec.ofNat 16 n),
        rr1 := l.getD 0 0, rr2 := l.getD 1 0, rr3 := l.getD 2 0,
        lastDl := Tab.set x.lastDl tc (q.vc % 2) }).emit (.packet p q.pkt)

/-! ## Arrival (R277, R288) -/

/-- The head of a packet reaches die `d` on a torus port that the die owns: its flits take their places in the input
buffer, its HCRC is checked, and it is looked up. A packet whose tail had not come by then is dropped. -/
def State.headPort (s : State) (d k : Nat) (p : Packet) : State :=
  if !s.linkOn k || ownerDie k ≠ d then s
  else
    let n := flitsOf p.payload.length
    let vc := 2 * p.tc.toNat + b2n p.dl
    let s := s.dropIncoming k Port.countStall
    let s := s.modPort k fun x => { x with
      rxCount := Tab.put 0 x.rxCount vc (Tab.get 0 x.rxCount vc + BitVec.ofNat 16 n), dropBody := false }
    if p.hcrc ≠ hcrcOf p then
      s.modPort k fun x => { x with hcrcBad := satAdd 64 x.hcrcBad 1, dropBody := true }
    else if p.len > 4096 then s.modPort k fun x => { x with crcBad := satAdd 64 x.crcBad 1, dropBody := true }
    else (s.modPort k fun x => { x with incoming := some p, incomingAt := s.gen.time }).routeAt d p (axisOf k) 0 false
      (some (k, vc))

/-- A packet that crosses mortar reaches die `d`. -/
def State.headMortar (s : State) (d : Nat) (p : Packet) : State :=
  if !s.portsOn then s
  else match s.rte.mortar.find? fun t => t.die = d && samePkt t.pkt p with
    | none => s
    | some t => (s.modRte fun r => { r with mortar := r.mortar.erase t }).routeAt d t.pkt t.cls t.chan t.whole none

/-- The trailer's checks: CRC-32, LEN against the flits, DISCARD clear (R263, R264, R288). -/
def trailerOk (p : Packet) : Bool := p.crc == crcOf p && lenOk p && !p.discard

/-- The trailer of a packet that waits at port `k`, or has started there, has come and is sound. -/
def State.wholeQueued (s : State) (q : Packet) (k : Nat) : State :=
  s.modPort k fun x =>
    if x.cut.any fun y => samePkt y.pkt q then { x with cut := x.cut.eraseP fun y => samePkt y.pkt q }
    else { x with queue := changeFirst (fun y => !y.whole && samePkt y.pkt q) (fun y => { y with whole := true }) x.queue }

/-- A packet at die `d` is whole and sound: it may be delivered, unless its code is unassigned or of another class
(R266), and what of it has left is complete. -/
def State.wholePart (s : State) (d : Nat) (q : Packet) : State :=
  let bad := !msgOk q.opc.toNat q.tc.toNat
  let here (a : Arrived) : Bool := a.die == d && !a.whole && samePkt a.pkt q
  let s := if bad && s.rte.arrived.any here then s.modCtr d fun c => { c with badMsg := satAdd 64 c.badMsg 1 } else s
  let s := s.modRte fun r => { r with
    arrived := if bad then r.arrived.eraseP here else changeFirst here (fun a => { a with whole := true }) r.arrived }
  (diePorts d).foldl (State.wholeQueued · q) (s.tailsPass d q false)

/-- Copies of a packet whose heads cross mortar to die `d`, their trailers still to come; and such trailers. -/
def Rte.crossing (r : Rte) (d : Nat) (p : Packet) : Nat :=
  r.mortar.countP fun m => m.die == d && !m.whole && samePkt m.pkt p

def Rte.following (r : Rte) (d : Nat) (p : Packet) : Nat := r.tails.countP fun t => t.die == d && samePkt t.pkt p

/-- The trailer of a packet whose head has crossed mortar to die `d` follows it, once it has passed the die before. -/
def State.trailerMortar (s : State) (d : Nat) (p : Packet) : State :=
  match s.rte.tails.find? fun t => t.die == d && t.passed && samePkt t.pkt p with
  | none => s
  | some t =>
    if s.rte.following d p ≤ s.rte.crossing d p then s
    else
      let s := s.modRte fun r => { r with tails := r.tails.erase t }
      if t.bad || !trailerOk p then s.dropPart d p else s.wholePart d p

/-- A trailer passes die `d` (R288); the port that first finds a bad CRC-32 counts it. -/
def State.trailer (s : State) (d : Nat) (a : Arrival) (p : Packet) : State :=
  match a with
  | .port k =>
    if !s.linkOn k || ownerDie k ≠ d then s
    else match (s.port k).incoming with
      | none => s
      | some q =>
        if !samePkt q p then s
        else
          let s := s.modPort k fun x => { x with
            incoming := none, crcBad := if trailerOk p || p.discard then x.crcBad else satAdd 64 x.crcBad 1 }
          if trailerOk p then s.wholePart d p else s.dropPart d p
  | .mortar => if !s.portsOn then s else s.trailerMortar d p

/-- AOCLK cycles of LNK_STALL; values below 25 act as 25 (R289). -/
def Port.stallCycles (x : Port) : Nat := max 25 x.stall.toNat

/-- The tail has not come within LNK_STALL (R289). -/
def State.stallTimeout (s : State) (k : Nat) (p : Packet) : State :=
  if !s.portsOn || (s.port k).st ≠ .up || s.gen.time < (s.port k).incomingAt + (s.port k).stallCycles then s
  else match (s.port k).incoming with
    | none => s
    | some q =>
      if !samePkt q p then s
      else (s.dropIncoming k Port.countStall).modPort k fun x => { x with dropBody := true }

/-- A head has waited 1 ms in the module (R293): its packet is discarded, unless a NBR_FROZEN port holds it. Other copies of
the packet stay: the oldest is the one that has waited. -/
def State.packetAged (s : State) (d : Nat) (p : Packet) : State :=
  let count (s : State) : State := s.modCtr d fun c => { c with aged := satAdd 64 c.aged 1 }
  if !s.portsOn then s
  else match (List.range 10).find? fun k => ownerDie k = d && (s.port k).st != .frozen &&
      (s.port k).queue.any fun y => samePkt y.pkt p with
    | some k => count (s.modPort k fun x => { x with queue := x.queue.eraseP fun y => samePkt y.pkt p })
    | none =>
      match s.rte.mortar.find? fun t => t.die = d && samePkt t.pkt p with
      | some t => count (s.modRte fun r => { r with
          mortar := r.mortar.erase t,
          tails := if t.whole then r.tails
            else dropNth (fun y => y.die == d && samePkt y.pkt p) (r.following d p - r.crossing d p) r.tails })
      | none => match s.rte.arrived.find? fun a => a.die == d && samePkt a.pkt p with
        | some a => count (s.modRte fun r => { r with arrived := r.arrived.erase a })
        | none => s

def execPacketSendStart (port : Nat) (s : State) : Host.Outcome State Fault Refusal :=
  guarded (isPort port) (s.sendStart port)

def execPacketHeadArrival (d : Nat) (a : Arrival) (p : Packet) (s : State) : Host.Outcome State Fault Refusal :=
  guarded (isDie d && a.wf) (match a with | .port k => s.headPort d k p | .mortar => s.headMortar d p)

def execPacketTrailerArrival (d : Nat) (a : Arrival) (p : Packet) (s : State) : Host.Outcome State Fault Refusal :=
  guarded (isDie d && a.wf) (s.trailer d a p)

def execStallTimeout (port : Nat) (p : Packet) (s : State) : Host.Outcome State Fault Refusal :=
  guarded (isPort port) (s.stallTimeout port p)

def execPacketAged (d : Nat) (p : Packet) (s : State) : Host.Outcome State Fault Refusal :=
  guarded (isDie d) (s.packetAged d p)

end Sys2Proof.Machine
end

