-- ==== Sys2Proof/Machine/Deliver.lean ====
section
/-!
DEFINITION. Delivery of packets (R266, R268, R269, R280, R309, R318), the checks of requests (R272, R273), answers
(R462), and the transport's timers (R270, R271, R273, R275).
-/
namespace Sys2Proof.Machine

/-! ## Acceptance (R268, R269, R280) -/

/-- What an answer's ADDR names: a SEQ of a flow (R462). -/
def answerAddr (seq : BitVec 24) (sdie : Nat) (ep : Bool) : BitVec 48 :=
  BitVec.ofNat 48 (seq.toNat + sdie % 4 * 2 ^ 24 + b2n ep * 2 ^ 26)

/-- An answer to the packet with a SEQ of flow `id` (R462). -/
def answerPkt (id : FlowId) (seq : BitVec 24) (opc : BitVec 8) (arg : Nat) : Packet :=
  { blankPkt with dest := BitVec.ofNat 17 id.src, tc := BitVec.ofNat 3 id.tc, opc := opc,
                  addr := answerAddr seq id.sdie id.epoch, arg := BitVec.ofNat 16 arg }

/-- The flow that an answer names at the module that receives it (R462). -/
def answeredFlow (p : Packet) : FlowId :=
  { src := p.dest.toNat, sdie := bits p.addr.toNat 25 24, dest := p.src.toNat, tc := p.tc.toNat, epoch := p.epoch }

def answeredSeq (p : Packet) : BitVec 24 := p.addr.setWidth 24

def State.recvFlow (s : State) (d : Nat) (id : FlowId) : Option RecvFlow :=
  s.rte.recv.find? fun r => r.die == d && r.id == id

/-- Keep a receive entry. -/
def State.setRecv (s : State) (x : RecvFlow) : State :=
  s.modRte fun r =>
    if r.recv.any (fun y => y.die == x.die && y.id == x.id) then
      { r with recv := r.recv.map fun y => if y.die == x.die && y.id == x.id then x else y }
    else { r with recv := r.recv ++ [x] }

/-- A place for a new receive entry on a die: one of 16,384, or one whose flow has delivered nothing for 200 ms
(R271). -/
def State.recvRoom (s : State) (d : Nat) : Option State :=
  let mine := s.rte.recv.filter fun r => r.die == d
  if mine.length < 16384 then some s
  else match mine.find? fun r => decide (s.gen.time ≥ r.at_ + 5000000) with
    | none => none
    | some r => some (s.modRte fun x => { x with recv := x.recv.erase r })

/-- Die `d` acknowledges a flow up to its last delivery (R269): not while a flag that its packets change is yet to change. -/
def State.sendAck (s : State) (r : RecvFlow) : State :=
  if !r.holds.isEmpty then s.setRecv { r with ackDue := max 1 r.ackDue }
  else (s.setRecv { r with ackDue := 0 }).send r.die (answerPkt r.id (r.expected - 1) 0xF0 0) r.id.epoch .reply none true

/-- The action of an accepted packet: done (0), REFUSED (1), or answered with another status (R269, R272, R273). -/
def State.accept (s : State) (d : Nat) (p : Packet) (old : Option RecvFlow) (act : State → State × Nat) : State :=
  let id := flowOf p
  let r := old.getD { id := id, die := d, expected := p.seq, openSeq := p.seq, ackDue := 0, holds := [], at_ := 0 }
  let was := s
  let (s, k) := act s
  if k = 1 then
    (s.modCtr d fun c => { c with refusedTx := satAdd 64 c.refusedTx 1 }).send d (answerPkt id p.seq 0xF1 1) p.epoch
      .reply none true
  else
    let s := s.setRecv { r with expected := p.seq + 1, ackDue := if k = 0 then r.ackDue + 1 else 0,
                                 holds := r.holds ++ was.newlyHeld s, at_ := s.gen.time }
    if k = 0 then s else s.send d (answerPkt id p.seq 0xF1 k) p.epoch .reply none true

/-- The table of receiver acceptance (R268). -/
def State.receive (s : State) (d : Nat) (p : Packet) (act : State → State × Nat) : State :=
  let dup (r : RecvFlow) : State := (s.modCtr d fun c => { c with dup := satAdd 64 c.dup 1 }).sendAck r
  match s.recvFlow d (flowOf p) with
  | none =>
    if p.opn then
      match s.recvRoom d with
      | none => s.modCtr d fun c => { c with rxFull := satAdd 64 c.rxFull 1 }
      | some s => s.accept d p none act
    else s.modCtr d fun c => { c with noFlow := satAdd 64 c.noFlow 1 }
  | some r =>
    if p.opn then if p.seq = r.openSeq then dup r else s.accept d p none act
    else if p.seq = r.expected then s.accept d p (some r) act
    else if seqLe p.seq (r.expected - 1) then dup r
    else s.modCtr d fun c => { c with gap := satAdd 64 c.gap 1 }

/-- The next packet to itself of an injecting die and class (R280). -/
def State.localHead (s : State) (die tc : Nat) : Option LocalPkt :=
  s.rte.locals_.find? fun l => l.pkt.sdie.toNat == die && l.pkt.tc.toNat == tc

def State.dropLocal (s : State) (l : LocalPkt) : State := s.modRte fun r => { r with locals_ := r.locals_.erase l }

/-- A packet of the module to itself is delivered, held, or fails (R280). -/
def State.deliverLocal (s : State) (l : LocalPkt) (act : State → State × Nat) : State :=
  let (s, k) := act s
  if k = 0 then (s.dropLocal l).opDone l.op l.pkt l.last
  else if k = 1 then s.modRte fun r => { r with
    locals_ := r.locals_.map fun x => if x == l then { l with refusals := l.refusals + 1 } else x }
  else (s.dropLocal l).opFail l.op l.pkt (some k)

/-- The first packet of a flow that has arrived on a die, when it is the packet `p` and whole. -/
def State.arrivedHead (s : State) (d : Nat) (p : Packet) : Option Arrived :=
  match s.rte.arrived.find? fun a => a.die == d && flowOf a.pkt == flowOf p with
  | none => none
  | some a => if a.whole && samePkt a.pkt p then some a else none

def State.dropArrived (s : State) (a : Arrived) : State := s.modRte fun r => { r with arrived := r.arrived.erase a }

/-- A sequenced packet with message code `opc` is delivered on die `d`, to do `act`. -/
def State.deliver (s : State) (d : Nat) (p : Packet) (opc : BitVec 8) (act : State → State × Nat) : State :=
  if !s.live || p.opc ≠ opc then s
  else match s.localHead p.sdie.toNat p.tc.toNat with
    | some l =>
      if samePkt l.pkt p then (if l.refusals = 0 then s.deliverLocal l act else s)
      else match s.arrivedHead d p with
        | none => s
        | some a => (s.dropArrived a).receive d p act
    | none => match s.arrivedHead d p with
      | none => s
      | some a => (s.dropArrived a).receive d p act

/-- A packet outside the transport (TC4, ACK, REFUSED) is taken on die `d`. -/
def State.takeDatagram (s : State) (d : Nat) (p : Packet) (opc : BitVec 8) : Option State :=
  if !s.live || p.opc ≠ opc then none
  else match s.localHead p.sdie.toNat p.tc.toNat with
    | some l => if samePkt l.pkt p then some (s.dropLocal l) else
      (s.rte.arrived.find? fun a => a.die == d && a.whole && samePkt a.pkt p).map s.dropArrived
    | none => (s.rte.arrived.find? fun a => a.die == d && a.whole && samePkt a.pkt p).map s.dropArrived

/-! ## The checks of a request (R272, R273) -/

/-- A place that an ADDR may name, before its length is looked at. -/
def State.addrOk (s : State) (l : Loc) : Bool :=
  match l with
  | .ls _ _ => false
  | .cs c o => s.cfg.courseEn.getLsbD c && (s.partOfCourse c).isSome && decide (o < csUsable)
  | .pier a => match s.regionAt a with
    | none => false
    | some r => !r.buddy

/-- ACCESS (3) and EXTENT (4) of a request over `n` bytes at its ADDR; 0 when it passes. -/
def State.spanCheck (s : State) (p : Packet) (l : Loc) (n : Nat) (wr : Bool) : Nat :=
  if !s.addrOk l then 3
  else if s.room l < n then 4
  else match l with
    | .pier a => if wr && (p.eval || s.castHeld) && s.touches (fun r => r.cast && !r.buddy) a n then 3 else 0
    | _ => 0

/-- TGT_ENGINE and TGT_FLAG of a request are acceptable. -/
def State.targetOk (s : State) (p : Packet) : Bool :=
  p.tgtFlag == 0x3F || (s.engEnabled p.tgtEngine.toNat && decide (p.tgtFlag < 48))

/-- The target partition of a request (R273). -/
def State.targetPart (s : State) (p : Packet) (l : Option Loc) : Option Nat :=
  if p.tgtFlag ≠ 0x3F then s.partOfEngine p.tgtEngine.toNat
  else match l with
    | some (.cs c _) => s.partOfCourse c
    | some (.pier a) => match s.regionAt a with
      | some r => if r.owner = 0xFF then none else some r.owner
      | none => none
    | _ => none

/-- Rung 2 runs on the target partition. -/
def State.refuses (s : State) (p : Option Nat) : Bool :=
  match p with
  | some k => (s.part k).resetBusy
  | none => false

/-- A span overlaps a source span of the target partition's plan (R318). -/
def State.hitsPlan (s : State) (p : Option Nat) (l : Loc) (n : Nat) : Bool :=
  match p with
  | none => false
  | some k => match (s.part k).plan with
    | none => false
    | some pl => pl.records.any fun r => overlap l n (.pier r.1) r.2.2.1

/-- The checks of a request, in order: its place when it passes, else the status of its answer. `plan` adds R318;
`bare` says that ADDR is not checked. -/
def State.reqCheck (s : State) (p : Packet) (n : Nat) (wr bare plan : Bool) : Except Nat (Option Loc) :=
  let l := if bare then none else addrLoc p.addr
  let k := match l with
    | none => if bare && s.targetOk p then 0 else 3
    | some l => if s.addrOk l && !s.targetOk p then 3 else s.spanCheck p l n wr
  let t := s.targetPart p l
  if k ≠ 0 then .error k
  else if plan && (match l with | some l => s.hitsPlan t l n | none => false) then .error 3
  else if s.refuses t then .error 1
  else .ok l

/-! ## Actions (R266, R309) -/

/-- An action of a request: its checks, then `go` at its place. -/
def State.request (s : State) (p : Packet) (n : Nat) (wr bare plan : Bool) (go : State → Option Loc → State) :
    State × Nat :=
  match s.reqCheck p n wr bare plan with
  | .error k => (s, k)
  | .ok l => (go s l, 0)

/-- A packet whose ADDR is not checked: a FLAG, and a STEP_LAST of no byte (R272). -/
def bareReq (p : Packet) : Bool := p.opc == 0x14 || (p.opc == 0x31 && p.len == 0)

/-- Raise the target flag of a request. -/
def State.raise (s : State) (p : Packet) (v : W32) : State :=
  if p.tgtFlag = 0x3F then s else s.flagAdd p.tgtEngine.toNat p.tgtFlag.toNat v

/-- Write the payload at ADDR, and raise the target flag for a last packet. -/
def State.writeAct (p : Packet) (last plan : Bool) (s : State) : State × Nat :=
  s.request p p.len.toNat true (bareReq p) plan fun s l =>
    let s := match l with
      | some l => if p.len = 0 then s else s.storeLoc l (pktPayload p)
      | none => s
    if last then s.raise p 1 else s

/-- Add ARG to the target flag. -/
def State.flagAct (p : Packet) (s : State) : State × Nat :=
  s.request p 0 false true false fun s _ => s.raise p (p.arg.setWidth 32)

/-- Answer a READ with READ_DATA from die `d`. -/
def State.readAct (d : Nat) (p : Packet) (s : State) : State × Nat :=
  s.request p p.arg.toNat false false false fun s l =>
    match l with
    | none => s
    | some l =>
      let (bs, s) := s.racyRead l p.arg.toNat
      s.send d { answerPkt (flowOf p) p.seq 0x13 0 with
        eval := p.eval, ctx := p.ctx, len := BitVec.ofNat 16 bs.length, payload := bs } p.epoch .reply (some l) true

/-- A READ of no byte or of more than 4,096 is no message (R266). -/
def badRead (p : Packet) : Bool := p.arg == 0 || p.arg > 4096

/-- The outstanding READ that a READ_DATA answers: engine, operation and part (R462). -/
def State.readFor (s : State) (p : Packet) : Option (Nat × NetOp × GetPart) :=
  let id := answeredFlow p
  let sq := (answeredSeq p).toNat
  s.engines.findSome? fun (e, x) => x.nets.findSome? fun o =>
    if o.kind == .get && o.die == id.sdie && o.dest == id.dest && o.tc == id.tc && o.epoch == id.epoch then
      (o.parts.find? fun g => g.seq == some sq).map fun g => (e, o, g)
    else none

/-- READ_DATA writes its part of the LOCAL span; the last one completes the NGET (R462). -/
def State.readDataAct (p : Packet) (s : State) : State × Nat :=
  match s.readFor p with
  | none => (s, 0)
  | some (e, o, g) =>
    let s := if o.reset then s else s.storeLoc (o.loc.add g.off) ((pktPayload p).take g.len)
    let s := s.modNet e o.id fun x => { x with parts := x.parts.erase g }
    (if (o.parts.erase g).isEmpty then s.netDone e o.id else s, 0)

/-- The action of a request by its code, for a packet that was held (R280). -/
def State.requestAct (d : Nat) (p : Packet) (s : State) : State × Nat :=
  match p.opc.toNat with
  | 0x10 => s.writeAct p false false
  | 0x11 => s.writeAct p true false
  | 0x12 => s.readAct d p
  | 0x14 => s.flagAct p
  | 0x30 => s.writeAct p false false
  | 0x31 => s.writeAct p true false
  | 0x32 => s.writeAct p false true
  | 0x33 => s.writeAct p true true
  | _ => (s, 0)

/-- A request whose line is uncorrectable in pier `pier` at `loc`: recorded, and answered with DATA_ERROR, once its
other checks pass (R207, R272). -/
def State.ueAct (p : Packet) (pier loc : Nat) (s : State) : State × Nat :=
  let o := p.opc.toNat
  match s.reqCheck p (if o = 0x12 then p.arg.toNat else p.len.toNat) (o ≠ 0x12) (bareReq p) (o = 0x32 || o = 0x33) with
  | .error k => (s, k)
  | .ok _ => (s.recordUe pier loc 1 0, 2)

/-! ## Acknowledgements and answers -/

/-- An ACK arrives (R269). -/
def State.ackArrives (s : State) (d : Nat) (p : Packet) : State :=
  match s.takeDatagram d p 0xF0 with
  | none => s
  | some s => s.acked (answeredFlow p) (answeredSeq p) none

/-- REFUSED arrives: the flow backs off from the refused packet (R273). -/
def State.refusedArrives (s : State) (p : Packet) : State :=
  let id := answeredFlow p
  let s := s.modCtr id.sdie fun c => { c with refusedRx := satAdd 64 c.refusedRx 1 }
  match s.flow id with
  | none => s
  | some f =>
    let sq := answeredSeq p
    if f.backoff.isSome || !(f.unacked.any fun u => u.out && u.pkt.seq == sq) then s
    else s.setFlow { f with backoff := some sq, refusals := f.refusals + 1 }

/-- A RESPONSE arrives (R269, R272, R273). -/
def State.responseArrives (s : State) (d : Nat) (p : Packet) : State :=
  if p.arg = 1 then
    match s.takeDatagram d p 0xF1 with
    | none => s
    | some s => s.refusedArrives p
  else s.deliver d p 0xF1 fun s => (s.acked (answeredFlow p) (answeredSeq p) (some p.arg.toNat), 0)

/-- An ACK falls due (R269). -/
def State.ackDue (s : State) (d : Nat) (id : FlowId) : State :=
  if !s.live then s
  else match s.recvFlow d id with
    | none => s
    | some r => if r.ackDue = 0 then s else s.sendAck r

/-! ## Timers of the sending side (R270, R271, R273, R275) -/

/-- The retransmit timer expires; it does not run during a backoff. -/
def State.retransmit (s : State) (id : FlowId) : State :=
  if !s.live then s
  else match s.flow id with
    | none => s
    | some f =>
      if f.backoff.isSome || !(f.unacked.any (·.out)) || f.expiries ≥ s.rte.retries then s
      else
        let f := { f with expiries := f.expiries + 1 }
        if f.expiries < s.rte.retries then s.resendFrom f 0 else s.setFlow f

def State.transportGiveUp (s : State) (id : FlowId) : State :=
  if !s.live then s
  else match s.flow id with
    | none => s
    | some f => if f.unacked.isEmpty || f.expiries < s.rte.retries then s else s.giveUp f

/-- The backoff of a refused flow ends: it sends again from the refused packet. -/
def State.backoffEnd (s : State) (id : FlowId) : State :=
  if !s.live then s
  else match s.flow id with
    | none => s
    | some f => match f.backoff with
      | none => s
      | some q =>
        s.resendFrom { f with backoff := none } ((f.unacked.findIdx? fun u => u.pkt.seq == q).getD 0)

def State.refusalGiveUp (s : State) (id : FlowId) : State :=
  if !s.live then s
  else match s.flow id with
    | none => s
    | some f => if f.refusals = 0 || f.unacked.isEmpty then s else s.giveUp f

/-- A held packet to itself is tried again; at the end of 200 ms its operation fails (R280). -/
def State.localRetry (s : State) (die tc : Nat) (last : Bool) : State :=
  if !s.live then s
  else match s.localHead die tc with
    | none => s
    | some l =>
      if l.refusals = 0 then s
      else if last then (s.dropLocal l).opFail l.op l.pkt none
      else s.deliverLocal l (State.requestAct die l.pkt)

/-- A FENCE packet leaves, and the packets of its flow that waited behind it (R275). -/
def State.fenceRelease (s : State) (id : FlowId) : State :=
  if !s.live then s
  else match s.flow id with
    | none => s
    | some f => match f.unacked.dropWhile (·.out) with
      | [] => s
      | u :: t =>
        if s.fenced id u.ord then s
        else
          let go := u :: t.takeWhile fun v => !v.pkt.fence
          let n := f.unacked.length - (t.length + 1)
          let s := s.setFlow { f with unacked := f.unacked.zipIdx.map fun (v, i) =>
            if n ≤ i && i < n + go.length then { v with out := true } else v }
          let s := s.modRte fun r => { r with gaveUp := r.gaveUp.filter fun g => !(samePair g.1 id && g.2.1 < u.ord) }
          go.foldl (fun s v => s.routeAt id.sdie v.pkt 0 0 true none) s

/-- An acknowledged flow that has sent nothing for 100 ms closes. -/
def State.flowClose (s : State) (id : FlowId) : State :=
  if !s.live then s
  else match s.flow id with
    | none => s
    | some f => if f.unacked.isEmpty then s.closeFlow id else s

/-! ## Test messages (R385) -/

/-- An ECHO is answered with its payload. -/
def State.echo (s : State) (d : Nat) (p : Packet) : State :=
  match s.takeDatagram d p 0x50 with
  | none => s
  | some s =>
    s.send d { blankPkt with dest := p.src, tc := 4, opc := 0x51, len := p.len, payload := p.payload, arg := p.arg,
                             addr := p.addr } s.rte.inj .reply none true

def execKeyReport (d : Nat) (p : Packet) (s : State) : Host.Outcome State Fault Refusal :=
  guarded (isDie d) (s.deliver d p 0x20 fun s => (s.keyReport p, 0))

def execKeyRelease (d : Nat) (p : Packet) (s : State) : Host.Outcome State Fault Refusal :=
  guarded (isDie d) (s.deliver d p 0x21 fun s => (s.keyRelease p, 0))

def execWrite (d : Nat) (p : Packet) (s : State) : Host.Outcome State Fault Refusal :=
  guarded (isDie d) (s.deliver d p 0x10 (State.writeAct p false false))

def execWriteLast (d : Nat) (p : Packet) (s : State) : Host.Outcome State Fault Refusal :=
  guarded (isDie d) (s.deliver d p 0x11 (State.writeAct p true false))

/-- A READ of a length that is none is discarded and counted in RTE_BADMSG. -/
def State.readArrives (s : State) (d : Nat) (p : Packet) : State :=
  if badRead p then
    match s.arrivedHead d p with
    | some a => if s.live && p.opc = 0x12 then
        (s.dropArrived a).modCtr d fun c => { c with badMsg := satAdd 64 c.badMsg 1 } else s
    | none => s
  else s.deliver d p 0x12 (State.readAct d p)

def execRead (d : Nat) (p : Packet) (s : State) : Host.Outcome State Fault Refusal :=
  guarded (isDie d) (s.readArrives d p)

def execReadData (d : Nat) (p : Packet) (s : State) : Host.Outcome State Fault Refusal :=
  guarded (isDie d) (s.deliver d p 0x13 (State.readDataAct p))

def execFlag (d : Nat) (p : Packet) (s : State) : Host.Outcome State Fault Refusal :=
  guarded (isDie d) (s.deliver d p 0x14 (State.flagAct p))

def execStepData (d : Nat) (p : Packet) (s : State) : Host.Outcome State Fault Refusal :=
  guarded (isDie d) (s.deliver d p 0x30 (State.writeAct p false false))

def execStepLast (d : Nat) (p : Packet) (s : State) : Host.Outcome State Fault Refusal :=
  guarded (isDie d) (s.deliver d p 0x31 (State.writeAct p true false))

def execPlanData (d : Nat) (p : Packet) (s : State) : Host.Outcome State Fault Refusal :=
  guarded (isDie d) (s.deliver d p 0x32 (State.writeAct p false true))

def execPlanLast (d : Nat) (p : Packet) (s : State) : Host.Outcome State Fault Refusal :=
  guarded (isDie d) (s.deliver d p 0x33 (State.writeAct p true true))

def execAck (d : Nat) (p : Packet) (s : State) : Host.Outcome State Fault Refusal :=
  guarded (isDie d) (s.ackArrives d p)

def execResponse (d : Nat) (p : Packet) (s : State) : Host.Outcome State Fault Refusal :=
  guarded (isDie d) (if p.opc = 0xF1 then s.responseArrives d p else s)

def execAckSend (d : Nat) (f : FlowId) (s : State) : Host.Outcome State Fault Refusal :=
  guarded (isDie d) (s.ackDue d f)

def execRetransmitTimerExpiry (f : FlowId) (s : State) : Host.Outcome State Fault Refusal :=
  .next (s.retransmit f)

def execTransportGiveUp (f : FlowId) (s : State) : Host.Outcome State Fault Refusal :=
  .next (s.transportGiveUp f)

def execRefusalBackoffExpiry (f : FlowId) (s : State) : Host.Outcome State Fault Refusal :=
  .next (s.backoffEnd f)

def execRefusalGiveUp (f : FlowId) (s : State) : Host.Outcome State Fault Refusal :=
  .next (s.refusalGiveUp f)

def execLocalPacketRetry (die tc : Nat) (last : Bool) (s : State) : Host.Outcome State Fault Refusal :=
  guarded (isDie die) (s.localRetry die tc last)

def execFenceRelease (f : FlowId) (s : State) : Host.Outcome State Fault Refusal :=
  .next (s.fenceRelease f)

def execSendFlowClose (f : FlowId) (s : State) : Host.Outcome State Fault Refusal :=
  .next (s.flowClose f)

def execInjectionResume (die : Nat) (s : State) : Host.Outcome State Fault Refusal :=
  guarded (isDie die) (if s.live then s.resumeInjection die else s)

def execEcho (d : Nat) (p : Packet) (s : State) : Host.Outcome State Fault Refusal :=
  guarded (isDie d) (s.echo d p)

/-- A management message is delivered to the mason firmware, whose answer the manual does not give. -/
def execMgmtMessage (d : Nat) (p : Packet) (s : State) : Host.Outcome State Fault Refusal :=
  guarded (isDie d) (if 0x60 ≤ p.opc ∧ p.opc ≤ 0x6F then s.deliver d p p.opc (fun s => (s, 0)) else s)

end Sys2Proof.Machine
end

