-- ==== Sys2Proof/Machine/Epoch.lean ====
section
/-!
DEFINITION. Epochs (R284 to R286), spare adoption at the flip (R66), and the route-table lookup register.
-/
namespace Sys2Proof.Machine

/-- A register of the RTE block is written by host port `h` (R296). -/
def State.rteWrite (s : State) (h : Nat) : Bool := s.writable && s.ownedBy h

/-- A node ID and cast partners staged for the half that becomes ACTIVE take effect (R66, R285). -/
def State.adopt (s : State) : State :=
  match s.cfg.adopt with
  | none => s
  | some a =>
    if a.half ≠ s.rte.inj then s
    else { s with cfg := { s.cfg with
      slice := { s.cfg.slice with role := 0, nodeId := a.nodeId }, cast := a.cast.getD s.cfg.cast, adopt := none } }

/-- A write of RTE_EPOCH.FLIP (R285). -/
def State.flip (s : State) (h : Nat) : State :=
  let s := s.emptyLatch (portReq h)
  let free := s.half (!s.rte.inj) == .free
  let drains := s.rte.half0 == .draining || s.rte.half1 == .draining
  if !s.rteWrite h || !free || drains then s
  else
    let was := s.rte.inj
    let s := ((s.setHalf (!was) .active).setHalf was .draining).modRte fun r =>
      { r with inj := !was, send := r.send.map fun f => { f with flipped := true } }
    s.adopt

/-- A write of RTE_EPOCH.RELEASE (R286). -/
def State.release (s : State) (h : Nat) : State :=
  let s := s.emptyLatch (portReq h)
  if !s.rteWrite h || !s.drained then s
  else s.modRte fun r => { r with
    half0 := if r.half0 = .draining then .free else r.half0, half1 := if r.half1 = .draining then .free else r.half1 }

/-- A write of RTE_LOOKUP's low half (R277). -/
def State.rteLookup (s : State) (h : Nat) (v : W32) : State :=
  let s := s.emptyLatch (portReq h)
  let i := bits v.toNat 20 0
  let d := bits v.toNat 22 21
  if !s.rteWrite h then s
  else s.modRte fun r => { r with
    lookIndex := BitVec.ofNat 21 i, lookDie := BitVec.ofNat 2 d,
    lookEntry := BitVec.ofNat 32 (s.entry d (bit i 20) (i % 2 ^ 20)) }

def execFlip (port : Nat) (s : State) : Host.Outcome State Fault Refusal :=
  guarded (isHost port) (s.flip port)

def execRelease (port : Nat) (s : State) : Host.Outcome State Fault Refusal :=
  guarded (isHost port) (s.release port)

def execRteLookupWrite (port : Nat) (v : W32) (s : State) : Host.Outcome State Fault Refusal :=
  guarded (isHost port) (s.rteLookup port v)

end Sys2Proof.Machine
end

