-- ==== Sys2Proof/Machine/Images.lean ====
section
/-!
DEFINITION. Register blocks of stream contexts, micro-batch slots and keystone lines as they read (R249), and the
schedule block of a cast (R338).
-/
namespace Sys2Proof.Machine

/-- A register block as it reads: (offset, bytes, value) in rising offset order. -/
abbrev Block := List (Nat × Nat × Nat)

/-- The bytes of a block; offsets that no register holds read as zero. -/
def blockImage (size : Nat) : Nat → Block → List Byte
  | pos, [] => List.replicate (size - pos) 0
  | pos, (o, n, v) :: t => List.replicate (o - pos) 0 ++ leBytes n v ++ blockImage size (o + n) t

/-- Fields packed into a register: (lowest bit, value). -/
def packBits (l : List (Nat × Nat)) : Nat := l.foldl (fun a x => a + x.2 * 2 ^ x.1) 0

def State.ctxBlock (s : State) (n : Nat) : Block :=
  let c := s.ctx n
  [(0x00, 4, packBits [(0, b2n c.enable), (1, c.prio), (4, b2n c.eval), (8, c.ringOrder), (16, c.slot)]),
   (0x04, 4, packBits [(0, s.ctxState n), (8, b2n c.dbErr)]),
   (0x08, 8, c.ring.toNat),
   (0x10, 4, c.head.toNat), (0x14, 4, c.tail.toNat),
   (0x18, 4, c.numstat.toNat),
   (0x1C, 4, packBits [(0, c.faultCode.toNat), (8, c.faultOpc.toNat), (16, c.faultEngine), (31, b2n c.faultValid)]),
   (0x20, 4, c.faultSeq.toNat), (0x24, 4, c.live),
   (0x28, 8, c.placed), (0x30, 8, c.finished), (0x38, 8, c.ended)]

/-- SLOT_CTRL.STATE (R246, R247). -/
def State.slotState (s : State) (k : Nat) : Nat :=
  if (s.partOfSlot k).isNone then 0 else if (s.mslot k).arm then 2 else 1

def State.slotBlock (s : State) (k : Nat) : Block :=
  let x := s.mslot k
  [(0x00, 4, packBits [(0, s.slotState k), (2, b2n x.phase)]),
   (0x04, 4, x.mb.toNat),
   (0x08, 8, packBits [(0, x.engine), (11, x.flag), (17, b2n x.consume), (31, b2n x.arm), (32, x.thresh.toNat)]),
   (0x10, 8, x.opens)]

def State.keyBlock (s : State) (k : Nat) : Block :=
  let x := s.key k
  [(0x00, 4, x.phase.toNat), (0x04, 4, x.count), (0x08, 4, x.expect),
   (0x0C, 4, packBits [(1, x.reach), (3, x.die), (8, x.owner)]),
   (0x10, 4, x.mismatch)]

/-- The schedule block of the moment, 512 KiB (R338). -/
def State.schedule (s : State) : List Byte :=
  ((List.range 1024).flatMap fun n => blockImage 0x40 0 (s.ctxBlock n)) ++
  ((List.range 128).flatMap fun k => blockImage 0x20 0 (s.slotBlock k)) ++
  ((List.range 16).flatMap fun k => blockImage 0x20 0 (s.keyBlock k)) ++ List.replicate 0xE00 0 ++
  ((List.range 2048).flatMap fun e => (List.range 48).flatMap fun f => leBytes 4 (s.flagVal e f).toNat) ++
  List.replicate 0xE000 0

/-! ## Applying a schedule block (R350) -/

/-- A context from its image, disabled and with no live item. -/
def ctxOf (b : List Byte) : Ctx :=
  let ctrl := fieldAt b 0 4
  { Ctx.reset with
    prio := bits ctrl 3 1, eval := bit ctrl 4, ringOrder := bits ctrl 12 8, slot := bits ctrl 23 16,
    ring := BitVec.ofNat 64 (fieldAt b 8 8), head := BitVec.ofNat 32 (fieldAt b 0x10 4),
    tail := BitVec.ofNat 32 (fieldAt b 0x14 4), numstat := BitVec.ofNat 3 (fieldAt b 0x18 4),
    faultSeq := BitVec.ofNat 32 (fieldAt b 0x20 4),
    placed := fieldAt b 0x28 8, finished := fieldAt b 0x30 8, ended := fieldAt b 0x38 8 }

def slotOf (b : List Byte) : MSlot :=
  let w := fieldAt b 8 8
  { phase := bit (fieldAt b 0 4) 2, mb := BitVec.ofNat 32 (fieldAt b 4 4), engine := bits w 10 0, flag := bits w 16 11,
    consume := bit w 17, arm := bit w 31, thresh := BitVec.ofNat 32 (w / 2 ^ 32), opens := fieldAt b 0x10 8 }

/-- A line takes phase and EXPECT from its image, and has no arrival and no report. -/
def keyFrom (x : KeyLine) (b : List Byte) : KeyLine :=
  { x with phase := BitVec.ofNat 32 (fieldAt b 0 4), expect := fieldAt b 8 4, count := 0, reports := [],
           shareDone := false }

/-- The `n` bytes at `o`. -/
def sliceAt (b : List Byte) (o n : Nat) : List Byte := (b.drop o).take n

def State.applySchedule (s : State) (b : List Byte) : State :=
  let s := (List.range 1024).foldl (fun s n => s.setCtx n (ctxOf (sliceAt b (0x40 * n) 0x40))) s
  let s := (List.range 128).foldl (fun s k => s.setMslot k (slotOf (sliceAt b (0x10000 + 0x20 * k) 0x20))) s
  let s := (List.range 16).foldl (fun s k => s.modKey k fun x => keyFrom x (sliceAt b (0x11000 + 0x20 * k) 0x20)) s
  (List.range 2048).foldl (fun s e => s.modEng e fun x => { x with
    flags := (List.range 48).foldl (fun t f =>
      Tab.put 0 t f (BitVec.ofNat 32 (fieldAt b (0x12000 + 192 * e + 4 * f) 4))) x.flags }) s

end Sys2Proof.Machine
end

