-- ==== Sys2Proof/Machine/Cast.lean ====
section
/-!
DEFINITION. Casts: generations and their digests (R334 to R339), sending (R340 to R346), holding and restoring (R344,
R345, R347 to R350).
-/
namespace Sys2Proof.Machine

/-! ## Generations (R334 to R339) -/

def chunkBytes : Nat := 0x4000000
def metaBytes : Nat := 0x100000

def State.castRegions (s : State) : List Region := s.cfg.regions.filter fun r => r.cast && !r.buddy

/-- Pier space addresses of the data chunks, chunk 1 first. -/
def State.chunkAddrs (s : State) : List Nat :=
  s.castRegions.flatMap fun r => (List.range (r.size / chunkBytes)).map fun j => r.base + chunkBytes * j

/-- The region directory; `f` numbers the next data chunk. -/
def directory : Nat → List Region → List Byte
  | _, [] => []
  | f, r :: t =>
    leBytes 1 r.id ++ leBytes 1 r.kind ++ leBytes 1 r.target ++ List.replicate 5 0 ++ leBytes 8 r.base ++
    leBytes 8 r.size ++ leBytes 4 f ++ List.replicate 4 0 ++ directory (f + r.size / chunkBytes) t

/-- The generation header with STATE 1 (WRITING), COMP_SEQ and ROOT zero. -/
def State.castHeader (s : State) : List Byte :=
  leBytes 4 0x54534143 ++ leBytes 2 1 ++ leBytes 1 1 ++ [0] ++ leBytes 8 s.ckp.genTag.toNat ++
  leBytes 4 s.cfg.slice.nodeId.toNat ++ leBytes 2 s.cfg.slice.sliceId.toNat ++ leBytes 2 s.castRegions.length ++
  leBytes 8 s.gen.serial.toNat ++ leBytes 8 ((s.castRegions.map (·.size)).sum) ++ leBytes 4 (s.chunkAddrs.length + 1) ++
  leBytes 1 (b2n s.rte.inj) ++ List.replicate 3 0 ++ leBytes 8 s.bond.activeSeq.toNat ++ List.replicate 72 0

def digest32 (b : List Byte) : List Byte := shake256 b 32

/-- A header with STATE, COMP_SEQ and ROOT taken as zero. -/
def bareHeader (h : List Byte) : List Byte :=
  h.take 6 ++ [0] ++ sliceAt h 7 0x31 ++ List.replicate 40 0 ++ sliceAt h 0x60 32

/-- A header with STATE, COMP_SEQ and ROOT as given. -/
def headerWith (h : List Byte) (st comp : Nat) (root : List Byte) : List Byte :=
  h.take 6 ++ leBytes 1 st ++ sliceAt h 7 0x31 ++ leBytes 8 comp ++ root ++ sliceAt h 0x60 32

def rootDigest (h dir table : List Byte) : List Byte := digest32 (bareHeader h ++ dir ++ table)

/-- The root digest over a head or meta image: its header, directory and digest table. -/
def rootOf (m : List Byte) : List Byte :=
  rootDigest (m.take 128) (sliceAt m 0x1000 (32 * fieldAt m 0x16 2)) (sliceAt m 0x4000 (32 * fieldAt m 0x28 4))

/-! ## Sending (R340 to R342) -/

/-- The module is quiescent (R340). -/
def State.quiescent (s : State) : Bool :=
  s.courses.all (fun (_, y) => y.hod.isEmpty && y.rslots.isEmpty) &&
  s.ctxs.all (fun (_, c) => c.live == 0) &&
  s.parts.all (fun (_, p) => p.carrying.isNone && !p.planLock) &&
  s.engines.all (fun (_, x) => x.copies.isEmpty && x.nets.isEmpty) &&
  s.ofls.all (fun (_, x) => !x.arm && !x.busy) &&
  s.keys.all fun (_, x) => x.count == 0

/-- A cast message of this module to a node, from die `d`. -/
def State.castMsg (s : State) (d dest : Nat) (opc : BitVec 8) (addr : BitVec 48) (arg : Nat) (bs : List Byte) (op : OpRef)
    (src : Option Loc) : State :=
  s.send d { blankPkt with dest := BitVec.ofNat 17 dest, tc := 3, opc := opc, len := BitVec.ofNat 16 bs.length, addr := addr,
                           arg := BitVec.ofNat 16 arg, payload := bs } s.rte.inj op src true

/-- Bytes go out in messages of 4,096 bytes, to successive addresses from `a`. -/
def State.castStream (s : State) (d dest : Nat) (opc : BitVec 8) (a : Nat) (bs : List Byte) (op : OpRef)
    (src : Option Loc) : State :=
  (chunks 4096 bs).zipIdx.foldl (fun s (b, i) =>
    s.castMsg d dest opc (BitVec.ofNat 48 (a + 4096 * i)) 0 b op (src.map fun l => l.add (4096 * i))) s

/-- The cast operation ends at once with a code. -/
def State.castRefuse (s : State) (code : BitVec 8) : State :=
  { s with ckp := { s.ckp with st := 5, code := code, fallback := false } }

/-- A CKP register is written by a host port (R356). -/
def State.ckpWrite (s : State) (h : Nat) : Bool := s.writable && s.ownedBy h

/-- A write of CKP_CTRL.SEND (R340, R341). -/
def State.castStart (s : State) (h : Nat) : State :=
  let s := s.emptyLatch (portReq h)
  if !s.ckpWrite h || s.castHeld then s
  else if !s.cfg.cast.sendEn || s.ckp.genTag = 0 then s.castRefuse 0x02
  else if !s.quiescent then s.castRefuse 0x01
  else
    let d := s.hopDie s.cfg.cast.sendTo 3
    let n := s.ckp.started
    let c : CastSend := { n := n, die := d, sched := s.schedule, header := s.castHeader, digests := [(0, digest32 s.schedule)],
                          begun := false, headSent := false }
    let s := { s with ckp := { s.ckp with st := 1, code := 0, fallback := false, done := 0,
                                          total := s.chunkAddrs.length + 1, started := n + 1,
                                          sending := some c } }
    s.castMsg d s.cfg.cast.sendTo 0x40 0 0 c.header (.castSend n) none

/-- The digest table: the digests of chunks 0 to `n`. -/
def CastSend.table (c : CastSend) (n : Nat) : List Byte := (List.range (n + 1)).flatMap fun i => Tab.get [] c.digests i

/-- The head and CAST_END go out once every chunk has been digested (R342 steps 4 and 5). -/
def State.castHead (s : State) : State :=
  match s.ckp.sending with
  | none => s
  | some c =>
    let n := s.chunkAddrs.length
    if !c.begun || c.headSent || c.digests.length < n + 1 then s
    else
      let dest := s.cfg.cast.sendTo
      let dir := directory 1 s.castRegions
      let s := { s with ckp := { s.ckp with sending := some { c with headSent := true }, done := n + 1 } }
      let s := s.castStream c.die dest 0x41 0x1000 dir (.castSend c.n) none
      let s := s.castStream c.die dest 0x41 0x4000 (c.table n) (.castSend c.n) none
      let s := s.castStream c.die dest 0x41 0x80000 c.sched (.castSend c.n) none
      s.castMsg c.die dest 0x42 0 0 (headerWith c.header 1 0 (rootDigest c.header dir (c.table n)))
        (.castSend c.n) none

/-- Packets of cast number `n` that are not acknowledged. -/
def State.castOpen (s : State) (n : Nat) : Nat :=
  ((s.rte.send.map fun f => f.unacked.countP fun u => u.op == .castSend n).sum) +
  s.rte.waiting.countP fun w => w.op == .castSend n

/-- Chunk `i` has been read, digested and sent (R342); 16 chunks of 16,384 packets may be in flight. -/
def State.castChunk (s : State) (i : Nat) : State :=
  match s.ckp.sending with
  | none => s
  | some c =>
    if !s.live || !c.begun || c.headSent || (Tab.find? c.digests i).isSome || i = 0 || i > s.chunkAddrs.length ||
       s.castOpen c.n > 15 * 16384 then if s.live && i = 0 then s.castHead else s
    else
      let a := s.chunkAddrs.getD (i - 1) 0
      let (bs, s) := s.fetchLoc (.pier a) chunkBytes
      let s := { s with ckp := { s.ckp with
        sending := some { c with digests := Tab.set c.digests i (digest32 bs) }, done := s.ckp.done + 1 } }
      (s.castStream c.die s.cfg.cast.sendTo 0x41 (chunkBytes * i) bs (.castSend c.n) (some (.pier a))).castHead

/-- A write of CKP_CTRL.ABORT (R346). -/
def State.castAbort (s : State) (h : Nat) : State :=
  let s := s.emptyLatch (portReq h)
  if !s.ckpWrite h then s else s.castFail 0x0A

/-! ## Holding (R335, R343 to R345) -/

def State.buddy (s : State) : Option Region := s.cfg.regions.find? (·.buddy)

/-- Base and size of half `h` of the buddy area. -/
def State.halfAt (s : State) (h : Nat) : Option (Nat × Nat) :=
  s.buddy.map fun r => (r.base + h * (r.size / 2), r.size / 2)

/-- The pier space address, within a region, of a pier-local address; none outside the region. -/
def Region.addrOf (r : Region) (cap : BitVec 32) (p loc : Nat) : Option Nat :=
  let l := pierList cap r.kind r.target
  match l.idxOf? p with
  | none => none
  | some i =>
    let q := loc / pageSize
    let f := Tab.get 0 r.first p
    let a := ((q - f) * l.length + i) * pageSize + loc % pageSize
    if f ≤ q ∧ a < r.size then some (r.base + a) else none

/-- Bytes of a region from `a` on become zero. -/
def State.zeroSpan (s : State) (r : Region) (a n : Nat) : State :=
  { s with mem := s.mem.filter fun c => match r.addrOf s.gen.capPiers (c.1 / 2 ^ 36) (c.1 % 2 ^ 36) with
    | some x => !(a ≤ x && x < a + n)
    | none => true }

/-- The controllers of a region's piers count `n` bytes written from `a` on, whole pages (R223), and are woken. -/
def State.countPages (s : State) (r : Region) (a n : Nat) : State :=
  let l := pierList s.gen.capPiers r.kind r.target
  let upTo (x j : Nat) : Nat := (x + l.length - 1 - j) / l.length
  let q := (a - r.base) / pageSize
  l.zipIdx.foldl (fun s (p, j) =>
    (s.modMc (p / 2) fun m =>
      { m with wrBytes := satAdd 64 m.wrBytes (pageSize * (upTo (q + n / pageSize) j - upTo q j)) }).requestWake (domMc (p / 2))) s

/-- The head of a half becomes zero, but for what the cast writes there (R335). -/
def State.clearHead (s : State) (a : Nat) : State :=
  match s.buddy with
  | none => s
  | some r => (s.zeroSpan r a chunkBytes).countPages r a chunkBytes

/-- STATE, COMP_SEQ and GEN_TAG in the header of a half. -/
def State.halfHeader (s : State) (h : Nat) : List Byte :=
  match s.halfAt h with
  | none => List.replicate 128 0
  | some (a, _) => s.readPier a 128
def State.halfState (s : State) (h : Nat) : Nat := fieldAt (s.halfHeader h) 6 1
def State.compSeq (s : State) (h : Nat) : Nat := fieldAt (s.halfHeader h) 0x38 8

/-- CKP_HOLD and the tags follow the headers of the buddy area. -/
def State.noteHalves (s : State) : State :=
  { s with ckp := { s.ckp with
    hold0 := s.halfState 0, hold1 := s.halfState 1, newer := decide (s.compSeq 1 > s.compSeq 0),
    tag0 := BitVec.ofNat 64 (fieldAt (s.halfHeader 0) 8 8), tag1 := BitVec.ofNat 64 (fieldAt (s.halfHeader 1) 8 8) } }

/-- The node whose casts this module holds sends the message. -/
def State.heldSender (s : State) (p : Packet) : Bool :=
  s.cfg.cast.holdEn && s.cfg.cast.holdFor == p.src.toNat && s.buddy.isSome

/-- The half that a new cast is written to (R344). -/
def State.chooseHalf (s : State) : Nat :=
  match s.ckp.receiving with
  | some h => h
  | none =>
    if s.halfState 0 ≠ 2 then 0 else if s.halfState 1 ≠ 2 then 1
    else if s.compSeq 1 < s.compSeq 0 then 1 else 0

def State.castBeginAct (p : Packet) (s : State) : State × Nat :=
  if !s.heldSender p || s.ckp.streams ≠ 0 then (s, 3)
  else
    let h := s.chooseHalf
    match s.halfAt h with
    | none => (s, 3)
    | some (a, n) =>
      if fieldAt (pktPayload p) 0x20 8 + chunkBytes > n then (s, 4)
      else
        let s := (s.clearHead a).storeLoc (.pier a) ((pktPayload p).take 128)
        ({ s with ckp := { s.ckp with receiving := some h } }.noteHalves, 0)

def State.castDataAct (p : Packet) (s : State) : State × Nat :=
  match s.ckp.receiving with
  | none => (s, 3)
  | some h => match s.halfAt h with
    | none => (s, 3)
    | some (a, n) =>
      let o := p.addr.toNat % 2 ^ 41
      if !s.heldSender p then (s, 3)
      else if o + p.len.toNat > n then (s, 4)
      else (s.storeLoc (.pier (a + o)) (pktPayload p), 0)

/-- The root digest over the header, directory and digest table of a half as its controllers read them (R345). -/
def State.rootRead (s : State) (a : Nat) : List Byte × State :=
  let (h, s) := s.fetchLoc (.pier a) 128
  let (d, s) := s.fetchLoc (.pier (a + 0x1000)) (32 * fieldAt h 0x16 2)
  let (t, s) := s.fetchLoc (.pier (a + 0x4000)) (32 * fieldAt h 0x28 4)
  (rootDigest h d t, s)

/-- CAST_END: the root decides (R345). -/
def State.castEndAct (p : Packet) (s : State) : State × Nat :=
  match s.ckp.receiving with
  | none => (s, 3)
  | some h => match s.halfAt h with
    | none => (s, 3)
    | some (a, _) =>
      if !s.heldSender p then (s, 3)
      else
        let root := sliceAt (pktPayload p) 0x40 32
        let (own, s) := { s with ckp := { s.ckp with receiving := none } }.rootRead a
        if own ≠ root then (s, 2)
        else
          let n := s.ckp.completions + 1
          let s := { s with ckp := { s.ckp with completions := n } }
          ((s.storeLoc (.pier a) (headerWith (pktPayload p) 2 n root)).noteHalves, 0)

/-! ## Serving a restore (R348) -/

/-- The half a RESTORE_REQ is served from. -/
def State.serveHalf (s : State) (tag : Nat) (fallback : Bool) : Option Nat :=
  let ok (h : Nat) : Bool := s.halfState h == 2
  if fallback then match s.ckp.servedHalf with
    | some h => if ok (1 - h) then some (1 - h) else none
    | none => none
  else
    let fits (h : Nat) : Bool := ok h && (tag == 0 || fieldAt (s.halfHeader h) 8 8 == tag)
    let l := if s.compSeq 1 > s.compSeq 0 then [1, 0] else [0, 1]
    l.find? fits

/-- The data chunks of a half and the requester's addresses for them (R348). -/
def dataChunks (m : List Byte) : List (Nat × Nat) :=
  (List.range (fieldAt m 0x16 2)).flatMap fun r =>
    let b := 0x1000 + 32 * r
    (List.range (fieldAt m (b + 0x10) 8 / chunkBytes)).map fun j =>
      (fieldAt m (b + 0x18) 4 + j, fieldAt m (b + 8) 8 + chunkBytes * j)

/-- What the stream of a half sends, in order: message code, address at the requester, and place and length of its bytes:
the meta image, then each data chunk (R348). -/
def streamParts (a : Nat) (m : List Byte) : List (Nat × Nat × Nat × Nat) :=
  (0x45, 0, a, metaBytes) :: (dataChunks m).map fun (i, x) => (0x44, 2 ^ 47 + x, a + chunkBytes * i, chunkBytes)

/-- The messages of a stream; `left` bounds the bytes that are read and sent. -/
def State.streamSend (d dest : Nat) : List (Nat × Nat × Nat × Nat) → Nat → State → State
  | [], _, s => s
  | (opc, x, a, n) :: t, left, s =>
    if left = 0 then s
    else
      let (bs, s) := s.fetchLoc (.pier a) (min n left)
      State.streamSend d dest t (left - n) (s.castStream d dest (BitVec.ofNat 8 opc) x bs .reply (some (.pier a)))

/-- A RESTORE_REQ is served: `cut` says, of the places that the stream reads, before how many bytes it meets an
uncorrectable line, which ends it with ARG 1 after the whole messages before that line. -/
def State.serveRestore (s : State) (d : Nat) (p : Packet) (cut : List (Loc × Nat) → Option Nat) : State × Nat :=
  if !s.heldSender p then (s, 3)
  else
    let b := pktPayload p
    let dest := p.src.toNat
    match s.serveHalf (fieldAt b 0 8) (fieldAt b 8 1 ≠ 0) with
    | none => (s.castMsg d dest 0x46 0 2 [] .reply none, 0)
    | some h => match s.halfAt h with
      | none => (s.castMsg d dest 0x46 0 2 [] .reply none, 0)
      | some (a, _) =>
        let parts := streamParts a (s.readPier a metaBytes)
        let s := { s with ckp := { s.ckp with streams := s.ckp.streams + 1, servedHalf := some h } }
        match cut (parts.map fun x => (.pier x.2.2.1, x.2.2.2)) with
        | none =>
          ((State.streamSend d dest parts (parts.map fun x => x.2.2.2).sum s).castMsg d dest 0x46 0 0 [] .reply none, 0)
        | some n => ((State.streamSend d dest parts (n / 4096 * 4096) s).castMsg d dest 0x46 0 1 [] .reply none, 0)

def State.restoreReqAct (d : Nat) (p : Packet) (s : State) : State × Nat := s.serveRestore d p fun _ => none

/-- The stream for a RESTORE_REQ meets an uncorrectable line in pier `pier` at `loc` (R207, R348). -/
def State.restoreReqUe (d : Nat) (p : Packet) (pier loc : Nat) (s : State) : State × Nat :=
  (s.recordUe pier loc 4 0).serveRestore d p (s.lineOffset pier loc false 0)

/-- RESTORE_BAD empties a half (R343). -/
def State.restoreBadAct (p : Packet) (s : State) : State × Nat :=
  if !s.heldSender p then (s, 3)
  else match s.halfAt (p.arg.toNat % 2) with
    | none => (s, 3)
    | some (a, _) => ((s.storeLoc (.pier (a + 6)) [0]).noteHalves, 0)

/-! ## Restoring (R347 to R350) -/

/-- Contexts disabled with no live item, hods empty, engines without items (R347). -/
def State.restorable (s : State) : Bool :=
  s.ctxs.all (fun (_, c) => !c.enable && c.live == 0) && s.courses.all (fun (_, y) => y.hod.isEmpty) &&
  s.engines.all fun (_, x) => x.item.isNone

/-- A node of the slice. -/
def State.inSlice (s : State) (n : Nat) : Bool :=
  s.cfg.applied && ((coords n).zip s.extents).all fun (a, b) => decide (a < b)

/-- RESTORE_REQ goes to the holder that the command named, for the tag that it named. -/
def State.restoreAsk (s : State) (r : Restoring) (fallback : Bool) : State :=
  s.castMsg r.die r.holder 0x43 0 0
    (leBytes 8 r.tag.toNat ++ leBytes 1 (b2n fallback) ++ List.replicate 7 0) (.restore r.n) none

def Restoring.start (holder : Nat) (tag : W64) (n : Nat) (half : Bool) (d : Nat) : Restoring :=
  { n := n, attempt := 1, holder := holder, tag := tag, half := half, die := d, meta_ := [], metaOk := false, written := [], checked := [], ended := false, skip := false }

/-- The attempt after a first that failed: on the other half, the rest of the first's stream passed over (R349). -/
def Restoring.again (r : Restoring) : Restoring :=
  { Restoring.start r.holder r.tag r.n (!r.half) r.die with attempt := 2, skip := !r.ended }

/-- A write of CKP_CTRL.RESTORE (R347). -/
def State.restoreStart (s : State) (h : Nat) : State :=
  let s := s.emptyLatch (portReq h)
  if !s.ckpWrite h || s.castHeld then s
  else if !s.restorable then s.castRefuse 0x01
  else if !s.inSlice s.ckp.restoreFrom.toNat then s.castRefuse 0x02
  else
    let holder := s.ckp.restoreFrom.toNat
    let d := s.hopDie holder 3
    let n := s.ckp.started
    let (h, s) := s.freeBool
    let r := Restoring.start holder s.ckp.genTag n h d
    let s := { s with ckp := { s.ckp with st := 3, code := 0, fallback := false, done := 0, total := 0, started := n + 1,
                                          restoring := some r } }
    s.restoreAsk r false

/-- The attempt on a generation has failed (R349): RESTORE_BAD names the half that it was served from, and the fallback is
served from the other. The manual does not say how the requester knows the half: it is free, and drawn once. -/
def State.attemptFail (s : State) : State :=
  match s.ckp.restoring with
  | none => s
  | some r =>
    let s := s.castMsg r.die r.holder 0x47 0 (b2n r.half) [] (.restore r.n) none
    if r.attempt ≥ 2 then s.castFail 0x08
    else
      let s := { s with ckp := { s.ckp with
        fallback := true, fallbacks := satAdd 64 s.ckp.fallbacks 1, done := 0,
        restoring := some r.again } }
      s.restoreAsk r.again true

/-- The holder that a restore asked sends the message. -/
def State.restoring? (s : State) (p : Packet) : Option Restoring :=
  if s.ckp.st = 3 then s.ckp.restoring.filter fun r => p.src.toNat == r.holder else none

def State.setRestoring (s : State) (r : Restoring) : State := { s with ckp := { s.ckp with restoring := some r } }

/-- The directory of a meta image lists this module's cast regions: REGION_ID, BASE and SIZE, in order. -/
def State.directoryOk (s : State) (m : List Byte) : Bool :=
  let l := s.castRegions
  fieldAt m 0x16 2 == l.length && l.zipIdx.all fun (r, i) =>
    let b := 0x1000 + 32 * i
    fieldAt m b 1 == r.id && fieldAt m (b + 8) 8 == r.base && fieldAt m (b + 0x10) 8 == r.size

/-- The checks of a whole meta image (R348). -/
def State.checkMeta (s : State) (r : Restoring) : State :=
  let m := Mem.read r.meta_ 0 metaBytes
  if fieldAt m 0 4 ≠ 0x54534143 ∨ fieldAt m 4 2 ≠ 1 ∨ fieldAt m 6 1 ≠ 2 ∨
     fieldAt m 0x10 4 % 2 ^ 17 ≠ s.cfg.slice.nodeId.toNat then s.attemptFail
  else if !s.directoryOk m then s.castFail 0x09
  else if rootOf m ≠ sliceAt m 0x40 32 then s.attemptFail
  else { s with ckp := { s.ckp with total := fieldAt m 0x28 4, restoring := some { r with metaOk := true } } }

def State.restoreMetaAct (p : Packet) (s : State) : State × Nat :=
  match s.restoring? p with
  | none => (s, 3)
  | some r =>
    let o := p.addr.toNat % 2 ^ 20
    if r.skip then (s, 0)
    else
      let r := { r with meta_ := Mem.write r.meta_ o ((pktPayload p).take (metaBytes - o)) }
      let s := s.setRestoring r
      (if o + p.len.toNat ≥ metaBytes then s.checkMeta r else s, 0)

/-- Chunk bytes arrive; a chunk is written whole when its last bytes are (the holder sends in order). -/
def State.restoreDataAct (p : Packet) (s : State) : State × Nat :=
  match s.restoring? p, addrLoc p.addr with
  | some r, some (.pier a) =>
    let n := p.len.toNat
    if r.skip then (s, 0)
    else match s.castRegions.find? fun x => x.base ≤ a && a < x.base + x.size with
      | none => (s, 3)
      | some x =>
        if a + n > x.base + x.size then (s, 4)
        else
          let s := s.storeLoc (.pier a) (pktPayload p)
          match s.chunkAddrs.findIdx? fun c => c + chunkBytes = a + n with
          | some i => (s.setRestoring { r with written := r.written ++ [i + 1] }, 0)
          | none => (s, 0)
  | _, _ => (s, 3)

/-- RESTORE_END (R348, R349). -/
def State.restoreEndAct (p : Packet) (s : State) : State × Nat :=
  match s.restoring? p with
  | none => (s, 3)
  | some r =>
    if r.skip then (s.setRestoring { r with skip := false }, 0)
    else
      let s := s.setRestoring { r with ended := true }
      (if p.arg = 1 then s.attemptFail
       else if p.arg = 2 then s.castFail 0x07
       else if !r.metaOk then s.attemptFail
       else s, 0)

/-- A plinth has digested chunk `i` (0 is the schedule block) of the generation being restored (R348). -/
def State.chunkDigest (s : State) (i : Nat) : State :=
  match s.ckp.restoring with
  | none => s
  | some r =>
    let m := Mem.read r.meta_ 0 metaBytes
    if !s.live || !r.metaOk || r.checked.contains i || (i ≠ 0 && !r.written.contains i) then s
    else
      let (bs, s) := if i = 0 then (sliceAt m 0x80000 0x80000, s)
        else s.fetchLoc (.pier (s.chunkAddrs.getD (i - 1) 0)) chunkBytes
      if digest32 bs = sliceAt m (0x4000 + 32 * i) 32 then
        { s with ckp := { s.ckp with done := s.ckp.done + 1, restoring := some { r with checked := r.checked ++ [i] } } }
      else s.attemptFail

/-- Every check has passed: the schedule block is applied in one step (R350). -/
def State.restoreApply (s : State) : State :=
  match s.ckp.restoring with
  | none => s
  | some r =>
    if !s.live || !r.metaOk || !r.ended || !((List.range (s.chunkAddrs.length + 1)).all r.checked.contains) then s
    else
      let m := Mem.read r.meta_ 0 metaBytes
      let s := s.applySchedule (sliceAt m 0x80000 0x80000)
      { s with ckp := { s.ckp with st := 4, code := 0, resultTag := BitVec.ofNat 64 (fieldAt m 8 8),
                                   restored := satAdd 64 s.ckp.restored 1, restoring := none } }

def execSend (port : Nat) (s : State) : Host.Outcome State Fault Refusal :=
  guarded (isHost port) (s.castStart port)

def execRestore (port : Nat) (s : State) : Host.Outcome State Fault Refusal :=
  guarded (isHost port) (s.restoreStart port)

def execAbort (port : Nat) (s : State) : Host.Outcome State Fault Refusal :=
  guarded (isHost port) (s.castAbort port)

def execCastBegin (d : Nat) (p : Packet) (s : State) : Host.Outcome State Fault Refusal :=
  guarded (isDie d) (s.deliver d p 0x40 (State.castBeginAct p))

def execCastData (d : Nat) (p : Packet) (s : State) : Host.Outcome State Fault Refusal :=
  guarded (isDie d) (s.deliver d p 0x41 (State.castDataAct p))

def execCastEnd (d : Nat) (p : Packet) (s : State) : Host.Outcome State Fault Refusal :=
  guarded (isDie d) (s.deliver d p 0x42 (State.castEndAct p))

def execRestoreReq (d : Nat) (p : Packet) (s : State) : Host.Outcome State Fault Refusal :=
  guarded (isDie d) (s.deliver d p 0x43 (State.restoreReqAct d p))

def execRestoreMeta (d : Nat) (p : Packet) (s : State) : Host.Outcome State Fault Refusal :=
  guarded (isDie d) (s.deliver d p 0x45 (State.restoreMetaAct p))

def execRestoreData (d : Nat) (p : Packet) (s : State) : Host.Outcome State Fault Refusal :=
  guarded (isDie d) (s.deliver d p 0x44 (State.restoreDataAct p))

def execRestoreEnd (d : Nat) (p : Packet) (s : State) : Host.Outcome State Fault Refusal :=
  guarded (isDie d) (s.deliver d p 0x46 (State.restoreEndAct p))

def execRestoreChunkDigest (i : Nat) (s : State) : Host.Outcome State Fault Refusal :=
  .next (s.chunkDigest i)

def execRestoreBad (d : Nat) (p : Packet) (s : State) : Host.Outcome State Fault Refusal :=
  guarded (isDie d) (s.deliver d p 0x47 (State.restoreBadAct p))

def execRestoreApply (s : State) : Host.Outcome State Fault Refusal :=
  .next s.restoreApply

def execCastChunkDigest (i : Nat) (s : State) : Host.Outcome State Fault Refusal :=
  .next (s.castChunk i)

end Sys2Proof.Machine
end

