-- ==== Sys2Proof/Machine/Faults.lean ====
section
/-!
DEFINITION. Uncorrectable pier lines and course-store words (R112, R207, R208, R400, R408), and slots retired and
replaced by spares (R114 to R117).
-/
namespace Sys2Proof.Machine

/-! ## Uncorrectable reads (R207) -/

/-- A result write of a reduction slot, which covers part of a pier line, meets it uncorrectable and stops after `done`
registers at most, ahead of the line (R207, R120). PIER_UE_SRC has no kind for it: KIND and ENGINE are free. -/
def State.slotResultUe (s : State) (c r done p loc : Nat) : State :=
  match s.rslot c r with
  | none => s
  | some x =>
    let bytes := laneBytes x.result
    match s.lineOffset p loc true 0 [(x.dest, bytes.length)] with
    | none => s
    | some n =>
    if !s.live || x.combined < x.count then s
    else
      let (k, s) := s.freeNat
      let (e, s) := s.freeNat
      let s := s.recordUe p loc (k % 8) (e % 2048)
      let s := (s.storeLoc x.dest (bytes.take (min (128 * done) n))).idleRslot c r
      match s.partOfCourse c with
      | some q => s.haltPart q faultPierUe none
      | none => s

/-- A ring fetch from pier space meets an uncorrectable line (R207, R242). -/
def State.ringUe (s : State) (q p loc : Nat) : State :=
  if !s.live || s.castHeld || (s.part q).carrying.isSome || (s.part q).resetBusy then s
  else match s.chooseCtx q with
    | none => s
    | some n =>
      if !(s.ctx n).inPier || !(s.ctx n).held.isEmpty then s
      else ((s.recordUe p loc (2 + s.hostOf q) 0).ctxFault n faultPierUe 0 0 0).haltPart q faultPierUe none

/-- A COPY into the module meets an uncorrectable line that it covers in part, after `done` bytes at most; a COPY from
the module meets one as it reads its source, when it starts. Nothing at the line or after it moves (R408). -/
def State.copyUe (s : State) (q done p loc : Nat) : State :=
  let stop (s : State) (n : Nat) : State :=
    ((s.recordUe p loc (2 + s.hostOf q) 0).cmdFault q n faultPierUe 0).haltPart q faultPierUe none
  match (s.part q).carrying with
  | none => s
  | some c =>
    if !s.live || (s.part q).resetBusy then s
    else match c.copy with
      | some k =>
        if k.dir = 1 then s
        else match s.lineOffset p loc true 0 [(k.target, k.len)] with
          | none => s
          | some n => stop (s.partialWrite k.target (min done n)) c.ctx
      | none => match s.carried q 1 with
        | none => s
        | some _ => match s.copyCheck q c.cmd.bytes with
          | .error _ => s
          | .ok k =>
            let h := s.hostOf q
            match s.lineOffset p loc false 0 [(k.target, k.len)] with
            | none => s
            | some n =>
              if k.dir = 0 || !s.hostUsable h then s
              else
                let (bs, s) := s.fetchLoc k.target (min done n)
                stop (s.hostWrites h k.host bs (s.host h).ro) c.ctx

/-! ## What an engine reads and writes itself -/

/-- The instruction that engine `e` carries out, its next one or the FINISH that waits, with its opcode and offset, when it may
meet a fault there. -/
def State.carries (s : State) (e : Nat) : Option (Run × BitVec 8 × Nat) :=
  match s.run e with
  | none => none
  | some r =>
    let pc := (s.eng e).pc
    if s.mayFault e && pc % 8 = 0 && pc + 8 ≤ csUsable then
      some (r, BitVec.ofNat 8 (leNat (s.readLoc (.cs (e / 32) pc) 8) / 2 ^ 56), pc)
    else if (s.eng e).act == .finishing && (s.mayResume e || (s.live && s.courseAwake (e / 32) && s.haltedNow e)) then
      some (r, 0x73, pc - 8)
    else none

/-- The FINISH that engine `e` carries out has nothing outstanding, so that it commits (R102). -/
def State.finishes (s : State) (e : Nat) (r : Run) : Bool := !s.itemCopies e r.c r.k && !s.itemNets e r.c r.k

/-- The descriptor of the SPAWND at offset `pc`; none when it does not lie in local store. -/
def State.spawndBytes (s : State) (r : Run) (pc : Nat) : Option (List Byte) :=
  let w := leNat (s.readLoc (.cs (r.e / 32) pc) 8)
  (s.lsBytes r.e (((s.eng r.e).gr (BitVec.ofNat 6 (bits w 49 44))).toNat) 128).toOption

/-- SPAWND meets an uncorrectable line in what it reads, its counts and then its entries, or in a record that it merges; the
records of `done` routes at most were written before it (R203, R207). -/
def State.spawnListUe (s : State) (e done p loc : Nat) : State :=
  match s.carries e with
  | some (r, 0x71, pc) =>
    let fault (s : State) : State := (s.recordUe p loc 0 e).itemFault e faultPierUe 0x71 pc (s.ueAddr p loc)
    match s.spawndBytes r pc with
    | none => s
    | some b => match s.spawndReads r b with
      | none => s
      | some (l, n, plan) =>
        let d := dispatchDesc b
        if (s.lineOffset p loc false 0 [(l, n)]).isSome then fault s
        else match plan with
          | none => s
          | some q =>
            let hit (x : Nat × Nat × List (Nat × Nat)) : Bool :=
              (s.lineOffset p loc false 0 (x.2.2.map fun (off, k) => (l.add off, 8 * k))).isSome
            let merged := match q.records with
              | some a => s.lineOffset p loc true 0 [(a, q.items.length * d.rs)]
              | none => none
            match q.seqs.findIdx? hit, merged with
            | some i, _ => fault (s.planRecords d l q (min done i))
            | none, some k =>
              let ends := (List.range q.seqs.length).countP fun i => (d.chunks (q.seqs.take (i + 1))).length * d.rs ≤ k
              fault (s.planRecords d l q (min done ends))
            | none, none => s
  | _ => s

/-- FINISH meets an uncorrectable line in a flush counter that it adds to, after the counters before it (R102, R112). -/
def State.flushUe (s : State) (e p loc : Nat) : State :=
  match s.carries e with
  | some (r, 0x73, pc) =>
    let hit (x : Loc × Nat) : Bool := (s.lineOffset p loc false 0 [(x.1, 8)]).isSome
    let l := (s.eng e).flushes
    if !s.finishes e r || !l.any hit then s
    else (((l.takeWhile fun x => !hit x).foldl (fun s x => s.addCounter x.1 x.2) s).recordUe p loc 0 e).itemFault e faultPierUe
      0x73 pc (s.ueAddr p loc)
  | _ => s

/-- A network operation meets an uncorrectable line in its LOCAL span: as it reads it to send, or as it merges what an NGET
brings (R112, R461). -/
def State.netUe (s : State) (e i p loc : Nat) : State :=
  match (s.eng e).nets[i]? with
  | none => s
  | some o =>
    if !s.live || (s.lineOffset p loc (o.kind == .get) 0 [(o.loc, o.len)]).isNone then s
    else (s.recordUe p loc 0 e).netFail e o.id faultPierUe (s.ueAddr p loc)

/-- The holder of a cast meets an uncorrectable line, and answers with DATA_ERROR: the cast or the verification fails (R207,
R345). -/
def State.castHeldUe (p : Packet) (pier loc : Nat) (s : State) : State × Nat :=
  if !s.heldSender p then (s, 3)
  else
    let s := s.recordUe pier loc 4 0
    (if p.opc = 0x42 then { s with ckp := { s.ckp with receiving := none } } else s, 2)

/-- A request meets an uncorrectable line as it is delivered, or, held by this module for itself, as it is tried again (R272,
R280). -/
def State.remoteUe (s : State) (d : Nat) (q : Packet) (p loc : Nat) : State :=
  match s.localHead q.sdie.toNat q.tc.toNat with
  | some l =>
    if s.live && l.refusals != 0 && samePkt l.pkt q then s.deliverLocal l (State.ueAct q p loc)
    else s.deliver d q q.opc (State.ueAct q p loc)
  | none => s.deliver d q q.opc (State.ueAct q p loc)

/-- The table of R207 by requester, and a read whose line was corrected (R205). -/
def State.pierUe (s : State) (src : UeSource) (p loc : Nat) : State :=
  if !s.pierLive p then s
  else match src with
  | .engineCopy e i done =>
    match s.copyOp e i with
    | none => s
    | some o => match s.copyBound o p loc with
      | none => s
      | some n =>
        if !s.live then s
        else
          let s := s.recordUe p loc 0 e
          s.stopCopy e i (min done n) (o.plinth.bind fun q => s.listOffset q p loc) faultPierUe (s.ueAddr p loc)
  | .network e i => s.netUe e i p loc
  | .spawnList e done => s.spawnListUe e done p loc
  | .flush e => s.flushUe e p loc
  | .remote d q => s.remoteUe d q p loc
  | .hostRead h =>
    if (s.host h).perst then s else ((s.recordUe p loc (2 + h) 0).logAbort h).emit (.bar4 h none)
  | .hostWrite h => if (s.host h).perst then s else s.recordUe p loc (2 + h) 0
  | .slotResult c r done => s.slotResultUe c r done p loc
  | .ringFetch q => s.ringUe q p loc
  | .copyCommand q done => s.copyUe q done p loc
  | .castSend => if s.ckp.st = 1 then (s.recordUe p loc 4 0).castFail 0x06 else s
  | .castHolder d q => s.deliver d q 0x43 (State.restoreReqUe d q p loc)
  | .castHeld d q =>
    if q.opc = 0x41 ∨ q.opc = 0x42 ∨ q.opc = 0x47 then s.deliver d q q.opc (State.castHeldUe q p loc) else s
  | .castVerify i => match s.ckp.restoring with
    | none => s
    | some r => if r.metaOk && r.written.contains i then (s.recordUe p loc 4 0).attemptFail else s
  | .scrub => s.recordUe p loc 5 0
  | .corrected l => s.pierCorrect p l

/-- The instruction with opcode `opc` at `pc` reads course store itself: SPAWND its list, FINISH the buffer of its item's
reduction slot or a flush counter. The address of what it reads; none when it reads none. -/
def State.storeRead (s : State) (r : Run) (opc : BitVec 8) (pc : Nat) : Option W64 :=
  if opc = 0x71 then
    match s.spawndBytes r pc with
    | none => none
    | some b => match s.spawndReads r b with
      | some (.cs _ _, _) => some (dispatchDesc b).list
      | _ => none
  else if opc = 0x73 && s.finishes r.e r then
    match s.rslot r.c r.d.rslot, (s.eng r.e).contrib with
    | some y, some _ => some (BitVec.ofNat 64 y.bufOff)
    | _, _ => (s.eng r.e).flushes.findSome? fun x => match x.1 with
      | .cs _ off => some (BitVec.ofNat 64 off)
      | _ => none
  else none

/-- An engine meets an uncorrectable course-store word, as it fetches its next instruction or in what an instruction reads:
CS_UE (R112). -/
def State.engineCsUe (s : State) (e : Nat) (fetch : Bool) : State :=
  match s.carries e with
  | none => s
  | some (r, opc, pc) =>
    if fetch then (if (s.eng e).act == .finishing then s else s.itemFault e faultCsUe 0 pc (BitVec.ofNat 64 pc))
    else match s.storeRead r opc pc with
      | none => s
      | some a => s.itemFault e faultCsUe opc pc a

/-- The save area of the yielded item that engine `e` is to choose holds an uncorrectable word: the item does not start
(R107, R112). -/
def State.seekCsUe (s : State) (e : Nat) : State :=
  if !s.mayChoose e && !(s.seeks e && s.haltedNow e) then s
  else match bestOf (Candidate.rank e) (s.ownItems e) with
    | none => s
    | some x =>
      if x.h.saved.isNone then s
      else
        let s := (s.recordFault e faultCsUe 0 0 (BitVec.ofNat 64 (saveArea x.k))).ctxFault x.h.desc.ctx faultCsUe 0 e
          x.h.desc.seq
        match s.partOfEngine e with
        | some p => s.haltPart p faultCsUe (some e)
        | none => s

/-- The item of engine `e` has been restarted, and no instruction has issued since: its program counter and registers are those
of its save area (DEDUCED, notes/assumptions/27.md). -/
def State.justResumed (s : State) (e : Nat) : Bool :=
  let x := s.eng e
  match x.item with
  | none => false
  | some (c, k) =>
    let area := s.readLoc (.cs c (saveArea k)) 512
    x.resumed && s.mayFault e && x.pc == fieldAt area 0 8 && x.g == savedRegs area

/-- A restart meets an uncorrectable word in its save area: that of the item that engine `e` is about to choose, or of the one
that it has just chosen (R107, R112). -/
def State.resumeCsUe (s : State) (e : Nat) : State :=
  if s.justResumed e then
    s.itemFault e faultCsUe 0 0 (BitVec.ofNat 64 (saveArea (((s.eng e).item.map (·.2)).getD 0)))
  else s.seekCsUe e

/-- Network operation `i` of engine `e` meets a byte of a local store or a course store that it cannot read: an NGET reads none. -/
def State.netAtWord (s : State) (e i : Nat) (w : Loc) (code : BitVec 8) (addr : W64) : State :=
  match (s.eng e).nets[i]? with
  | none => s
  | some o => if o.kind == .get || !overlap w 1 o.loc o.len then s else s.netFail e o.id code addr

/-- A course-store word that is not as it was written: an uncorrectable one met by an asynchronous copy, plinth operation
or transmission, by an engine itself or by the restart of an item (R112, R461), or corrected ones (COURSE_CS_ECC). -/
def State.courseUe (s : State) (src : CsUeSource) : State :=
  if !s.live then s
  else match src with
  | .copy e i done c off => s.stopAtWord e i done (.cs c off) faultCsUe (csAddr c off)
  | .net e i c off => s.netAtWord e i (.cs c off) faultCsUe (csAddr c off)
  | .fetch e => s.engineCsUe e true
  | .access e => s.engineCsUe e false
  | .resume e => s.resumeCsUe e
  | .corrected c n => s.modCrs c fun y => { y with csEcc := satAdd 32 y.csEcc n }

/-! ## Slots and spares (R114 to R117) -/

/-- The slot of an engine that has met CHECK and runs no item is retired. -/
def State.retireMet (s : State) (e : Nat) : State :=
  if (s.eng e).checkMet && (s.eng e).replacing.isNone then s.retire e else s

/-- SLOT_RETIRE, for the causes of R114. Corrected errors count in ENG_ECC, those of a retired slot's copying to its spare too;
1,000 within one second retire the slot, once a running item has finished or yielded. -/
def State.slotRetire (s : State) (e : Nat) (cause : RetireCause) : State :=
  let x := s.eng e
  if !s.live || !s.engEnabled e || !s.hasSlot e then s
  else match cause with
  | .check opc off =>
    if !s.mayFault e || x.item.isNone || x.replacing.isSome then s
    else (s.checkFault e opc x.pc (BitVec.ofNat 64 ((off.filter (· < lsSize)).getD 0))).retire e
  | .copyCheck i done off =>
    if x.replacing.isSome then s
    else (s.stopAtWord e i done (.ls e off) faultCheck (BitVec.ofNat 64 off)).retireMet e
  | .netCheck i off =>
    if x.replacing.isSome then s else (s.netAtWord e i (.ls e off) faultCheck (BitVec.ofNat 64 off)).retireMet e
  | .pendingCheck => s.retireMet e
  | .corrected n =>
    let log := if x.replacing.isSome then []
      else (s.gen.time, n) :: x.eccLog.filter fun y => s.gen.time < y.1 + 25000000
    let s := s.modEng e fun y => { y with ecc := satAdd 32 y.ecc n, eccLog := log }
    if (log.map (·.2)).sum < 1000 then s
    else if x.item.isSome || x.reexecItem.isSome then s.modEng e fun y => { y with retireDue := true }
    else s.retire e

/-- The spare takes the logical number (R114 step 3); a lost local store halts the partition (R115). -/
def State.takeover (s : State) (e : Nat) (lost : Bool) : State :=
  match (s.eng e).replacing with
  | none => s
  | some k =>
    if !s.live then s
    else
      let s := (s.modCrs (e / 32) fun y => { y with phys := Tab.put 0 y.phys k 0 }).modEng e fun x =>
        { x with slot := k, replacing := none, checkMet := false }
      if !lost then s.choose e
      else
        let s := s.recordFault e faultLsLost 0 0 0
        match s.partOfEngine e with
        | some p => s.haltPart p faultLsLost (some e)
        | none => s

def execPierUncorrectableRead (src : UeSource) (pier loc : Nat) (s : State) : Host.Outcome State Fault Refusal :=
  guarded (src.wf && isPier pier) (s.pierUe src pier loc)

def execCourseStoreUncorrectableRead (src : CsUeSource) (s : State) : Host.Outcome State Fault Refusal :=
  guarded (src.wf) (s.courseUe src)

def execSlotRetire (e : Nat) (cause : RetireCause) (s : State) : Host.Outcome State Fault Refusal :=
  guarded (isEngine e) (s.slotRetire e cause)

def execSpareTakeover (e : Nat) (lost : Bool) (s : State) : Host.Outcome State Fault Refusal :=
  guarded (isEngine e) (s.takeover e lost)

end Sys2Proof.Machine
end

