-- ==== Sys2Proof/Machine/Report.lean ====
section
/-!
DEFINITION. Mailbox channels as they hold messages, and their replies (R409 to R411, R416, R437), the slots of a running
firmware update (R433), and report records (R379, R380).
-/
namespace Sys2Proof.Machine

/-! ## Channels (R409) -/

def State.chan (s : State) (h : Nat) (secure : Bool) (n : Nat) : Chan :=
  Tab.get Chan.reset (if secure then (s.host h).sec else (s.host h).ns) n

def State.setChan (s : State) (h : Nat) (secure : Bool) (n : Nat) (x : Chan) : State :=
  s.modHost h fun y =>
    if secure then { y with sec := Tab.put Chan.reset y.sec n x } else { y with ns := Tab.put Chan.reset y.ns n x }

def State.modChan (s : State) (h : Nat) (secure : Bool) (n : Nat) (f : Chan → Chan) : State :=
  s.setChan h secure n (f (s.chan h secure n))

/-- Word `i` of a channel. -/
def Chan.word (x : Chan) (i : Nat) : Nat := (Tab.get 0 x.data i).toNat

/-- Words written from DATA`i` on. -/
def Chan.put (x : Chan) : Nat → List Nat → Chan
  | _, [] => x
  | i, w :: t => Chan.put { x with data := Tab.put 0 x.data i (BitVec.ofNat 32 w) } (i + 1) t

/-- OPCODE, COUNT and TAG of the header (R411). -/
def Chan.opcode (x : Chan) : Nat := x.word 0 / 2 ^ 24
def Chan.count (x : Chan) : Nat := bits (x.word 0) 23 20
def Chan.tag (x : Chan) : Nat := bits (x.word 0) 19 0

def mbHeader (opc count tag : Nat) : Nat := opc % 256 * 2 ^ 24 + count % 16 * 2 ^ 20 + tag % 2 ^ 20

/-- Clearing a channel (R416); a secure channel's session is another matter. -/
def Chan.clear (x : Chan) : Chan :=
  { x with data := [], go := false, fromMod := false, long := [], longOpc := 0, longTotal := 0, busy := false }

/-- Channel `n` of port `h` is cleared: a GO of the same cycle is lost (R410). -/
def State.clearChan (s : State) (h : Nat) (secure : Bool) (n : Nat) : State :=
  { s.modChan h secure n Chan.clear with clearedNow := s.clearedNow ++ [(h, secure, n)] }

/-- Every channel of a port. -/
def portChans (h : Nat) : List (Nat × Bool × Nat) :=
  (List.range 12).map (fun n => (h, false, n)) ++ (List.range 4).map fun n => (h, true, n)

/-- A GO written to a channel now counts: the channel has not been cleared in the present cycle (R410). -/
def State.goCounts (s : State) (h : Nat) (secure : Bool) (n : Nat) : Bool := !s.clearedNow.contains (h, secure, n)

/-- A core writes a message of its own into a channel whose GO is clear (R409). -/
def State.postMessage (s : State) (h : Nat) (secure : Bool) (n : Nat) (opc tag : Nat) (ws : List Nat) : State :=
  let x := s.chan h secure n
  if x.go || !s.goCounts h secure n then s
  else s.setChan h secure n { (x.put 0 (mbHeader opc ws.length tag :: ws)) with go := true, fromMod := true }

/-! ## Replies (R411) -/

/-- Mailbox status codes. -/
def mbOk : Nat := 0
def mbUnknown : Nat := 1
def mbFormat : Nat := 2
def mbExtent : Nat := 3
def mbAccess : Nat := 4
def mbNoSession : Nat := 5
def mbSignature : Nat := 6
def mbBusy : Nat := 7

/-- The reply to the message in a channel: STATUS in DATA1, its payload from DATA2; GO is cleared last. -/
def State.reply (s : State) (h : Nat) (secure : Bool) (ch status : Nat) (ws : List Nat) : State :=
  s.modChan h secure ch fun x =>
    { (x.put 0 (mbHeader x.opcode (1 + ws.length) x.tag :: status :: ws)) with go := false, busy := false }

/-- The reply of a long-running operation, to the channel that still waits for it. -/
def State.lateReply (s : State) (o : MbOp) (secure : Bool) (status : Nat) (ws : List Nat) : State :=
  if (s.chan o.port secure o.ch).busy then s.reply o.port secure o.ch status ws else s

/-- RESULT codes. -/
def resOk : Nat := 0
def resSignature : Nat := 1
def resFlash : Nat := 5
def resRollback : Nat := 6
def resFetch : Nat := 7
def resTooLarge : Nat := 8
def resNoValid : Nat := 9
def resNoIdentity : Nat := 10

/-! ## A running firmware update (R433) -/

/-- The firmware slot with an index, 0 A and 1 B, holds these bytes. -/
def Sec.putSlot (x : Sec) (i : Nat) (b : List Byte) : Sec := if i = 0 then { x with slotA := b } else { x with slotB := b }

/-- The slot that an update writes at present: the one that does not run, then the one that does. -/
def Sec.writing (x : Sec) (u : FwOp) : Nat := if u.second then x.runSlot else 1 - x.runSlot

/-- The fetch of the slot being written starts, once its port may be used (R394). -/
def State.updateRead (s : State) : State :=
  match s.sec.updating with
  | none => s
  | some u =>
    if u.sent || !s.hostUsable u.port then s
    else ({ s with sec := { s.sec with updating := some { u with sent := true } } }).hostReads u.port u.addr u.len

/-- An update goes to a slot: it is erased, and its fetch starts. -/
def State.updateSlot (s : State) (u : FwOp) : State :=
  ({ s with sec := { s.sec.putSlot (s.sec.writing u) [] with updating := some u } }).updateRead

/-- An update ends with a RESULT. -/
def State.updateReply (s : State) (u : FwOp) (k : Nat) : State :=
  ({ s with sec := { s.sec with updating := none } }).lateReply
    { port := u.port, ch := u.ch, tag := u.tag, bytes := [], at_ := 0 } true mbOk [k]

/-! ## The report log (R379, R380) -/

/-- The sixteen words of a record. -/
def recordWords (stage result attempt index duration start : Nat) (detail : List Nat) : List Nat :=
  [stage + result * 2 ^ 8 + attempt % 2 ^ 16 * 2 ^ 16, index, duration % 2 ^ 32, duration / 2 ^ 32 % 2 ^ 32,
   start % 2 ^ 32, start / 2 ^ 32 % 2 ^ 32] ++ (List.range 9).map (fun i => detail.getD i 0) ++ [0]

/-- Store words of the log from entry `i` on. -/
def logPut (l : Tab W32) : Nat → List Nat → Tab W32
  | _, [] => l
  | i, w :: t => logPut (Tab.put 0 l i (BitVec.ofNat 32 w)) (i + 1) t

/-- A stage that began at `start` ends with a record in the log, posted on channel 0 of each host port that can take it
while the mason's firmware runs (R380). BU_LOG_COUNT saturates (R389). -/
def State.appendRecord (s : State) (stage result start : Nat) (post : Bool) (detail : List Nat) : State :=
  let i := s.bu.logCount
  let ws := recordWords stage result (if stage ≥ 8 then s.bu.attempt else 0) i (s.gen.time - start) start detail
  let s := { s with bu := { s.bu with
    log := logPut s.bu.log (16 * (i % 256)) ws, logCount := min (i + 1) (2 ^ 32 - 1), result := BitVec.ofNat 8 result } }
  if !post then s
  else (List.range 2).foldl (fun s h =>
    if (s.host h).linkUp then s.postMessage h false 0 0x01 (i % 2 ^ 20) (ws.take 15) else s) s

/-- A stage of bring-up ends now. -/
def State.stageRecord (s : State) (stage result : Nat) (detail : List Nat) : State :=
  s.appendRecord stage result s.bu.stageStart true detail

/-- The next stage begins. -/
def State.beginStage (s : State) (stage : Nat) (st : BuState) : State :=
  { s with bu := { s.bu with stage := stage, st := st, stageStart := s.gen.time } }

/-- A stage fails: bring-up stops at it (R377). -/
def State.stageFail (s : State) (stage result : Nat) (detail : List Nat) : State :=
  let s := s.stageRecord stage result detail
  { s with bu := { s.bu with st := .failed } }

end Sys2Proof.Machine
end

