-- ==== Sys2Proof/Machine/Resets.lean ====
section
/-!
DEFINITION. Rung 2 on a partition (R329, R330), and rung 3 (R331) with what it keeps.
-/
namespace Sys2Proof.Machine

/-! ## Rung 2 (R329) -/

/-- Logical engines of a partition. -/
def State.partEngines (s : State) (p : Nat) : List Nat :=
  (List.range 2048).filter fun e => s.partOfEngine e == some p

/-- Rung 2 starts on a partition (R329 steps 1 and 2). -/
def State.partResetStart (s : State) (p : Nat) : State :=
  if (s.part p).resetBusy then s
  else
    let s := (s.castFail 0x0A).modPart p fun x =>
      if x.halted then { x with resetBusy := true }
      else { x with resetBusy := true, halted := true, haltCause := 0, haltEngine := 0, haltNoEngine := true }
    { s with engines := s.engines.map fun (e, x) =>
      if s.partOfEngine e == some p then (e, { x with copies := x.copies.map fun o => { o with reset := true } })
      else (e, x) }

/-- A write of CKP_PART_RESET through a host port: the bits of that port's partitions. -/
def State.ckpPartReset (s : State) (h : Nat) (v : W32) : State :=
  let s := s.emptyLatch (portReq h)
  if !s.writable then s
  else (List.range 8).foldl (fun s p =>
    if v.getLsbD p && (s.partCfg p).isSome && s.hostOf p == h then s.partResetStart p else s) s

/-- An engine after rung 2 (R329 step 5): its registers and flags zero, no item. -/
def Engine.rung2 (x : Engine) : Engine :=
  { x with act := if x.act = .disabled then .disabled else .idle, g := [], v := [], bufs := [], accs := [], flags := [],
           pc := 0, item := none, rehomed := none, numstat := 0, contrib := none, flushes := [], spawns := [], undo := [],
           reexecItem := none, copies := [], nets := [] }

def Course.rung2 (y : Course) : Course := { y with hod := [], rslots := [], heldAdds := [], heldSubs := [], peak := 0 }

/-- A context after rung 2 (R249). -/
def Ctx.rung2 (c : Ctx) : Ctx :=
  { Ctx.reset with ring := c.ring, ringOrder := c.ringOrder, prio := c.prio, eval := c.eval, slot := c.slot }

/-- Replace the entries of a table that a test names; `g` leaves the default as it is, and does nothing twice. -/
def Tab.mapIf {α : Type} [DecidableEq α] (d : α) (t : Tab α) (f : Nat → Bool) (g : α → α) : Tab α :=
  t.foldl (fun u x => if f x.1 then Tab.put d u x.1 (g (Tab.get d u x.1)) else u) t

/-- Rung 2 ends once the partition's copies have (R329 steps 3 to 7). -/
def State.partResetDone (s : State) (p : Nat) : State :=
  let mine (e : Nat) : Bool := s.partOfEngine e == some p
  if !s.live || !(s.part p).resetBusy || s.engines.any (fun (e, x) => mine e && !x.copies.isEmpty) then s
  else
    let s := { s.unhold (fun c => s.partOfCourse c == some p) with
      engines := Tab.mapIf Engine.reset s.engines mine Engine.rung2,
      courses := Tab.mapIf Course.reset s.courses (fun c => s.partOfCourse c == some p) Course.rung2,
      ctxs := Tab.mapIf Ctx.reset s.ctxs (fun n => s.partOfCtx n == some p) Ctx.rung2,
      mslots := Tab.mapIf MSlot.reset s.mslots (fun k => s.partOfSlot k == some p) fun x => { x with arm := false },
      ofls := Tab.mapIf Ofl.reset s.ofls (fun k => k / 8 == p)
        fun x => { x with arm := false, busy := false, copy := none, sent := false, next := [] } }
    let s := (List.range 16).foldl (fun s k =>
      if s.keyOwner k == some p then (s.keyClear k).modKey k fun x => { x with mismatch := 0 } else s) s
    let s := s.clearChan (s.hostOf p) false (1 + p)
    s.modPart p fun x => { x with
      halted := false, haltCause := 0, haltEngine := 0, haltNoEngine := false, planLock := false, carrying := none,
      served := [], resetBusy := false }

/-! ## Rung 3 (R331) -/

/-- What rung 3 keeps of a torus port: what is fitted and the light that reaches it. -/
def Port.cold (x : Port) : Port :=
  { Port.reset with fitted := x.fitted, light := x.light, lightUnit := x.lightUnit }

/-- A running firmware update is abandoned: the slot being written is not valid (R434). -/
def Sec.abandon (x : Sec) : Sec :=
  match x.updating with
  | none => x
  | some u => { x.putSlot (x.writing u) [] with updating := none }

/-- The state at which BU1 starts, at rung 3 and after power-on alike: every BAR0 register at reset but those of the
always-on domain, every fast domain stopped, channels cleared and sessions closed (R331, R332, R389, R416, R418). -/
def State.coldStart (s : State) : State :=
  { s with
    gen := { s.gen with fw := 0, capPiers := 0, capPorts := 0, capCourses := 0, capLic := 0 },
    pwr := { s.pwr with capW := 2400, ft := 16, capUnmet := false, samples := [], unmetTicks := 0, peak := [],
                        wakeMax := [], peakNow := 0, wakeNow := 0, throttleCyc := 0, vin := 0, iin := 0, pin := 0, rails := [], temps := [],
                        tempsValid := false, wakeQ := [], deepQ := [], deepAt := [] },
    doms := s.doms.filterMap fun (d, x) => if d = 90 ∨ d = 91 ∨ d ≥ 96 then some (d, { x with wakes := 0 }) else none,
    bu := { Bu.reset with stage := 1, stageStart := s.gen.time, log := s.bu.log, logCount := s.bu.logCount,
                          strapWord := s.bu.strapWord },
    bond := { Bond.reset with highWater := s.bond.highWater },
    cfg := Cfg.reset, engines := [], courses := [], parts := [], ctxs := [], mslots := [], keys := [], ofls := [],
    rte := { Rte.reset with openCtr := s.rte.openCtr },
    ports := Tab.mapIf Port.reset s.ports (fun _ => true) Port.cold,
    hbCount := 0, piers := [], mcs := [], ckp := Ckp.reset, frz := Frz.reset,
    sec := { s.sec.abandon with
      seed := none, pub := [], fp := [], cert := [], block := none, derives := false, licence := none, bondKeys := [], hostKeys := [], runSlot := 0,
      mFw := [], updating := none, installing := none, committing := none, attesting := [], echoes := [], lastG := 23,
      lastS := 7, repairSlots := [], repairLayers := [], repairs := [] },
    hosts := Tab.mapIf HostPort.reset s.hosts (fun _ => true) fun x =>
      { x with dbDrop := 0, bar4Refused := 0, ns := [], sec := [], secBuf := [], secKind := 0 },
    clearedNow := portChans 0 ++ portChans 1 }

/-- Rung 3 runs until bring-up has failed or the module is READY. -/
def State.rung3Runs (s : State) : Bool := s.bu.rung3 && s.bu.st != .failed && s.bu.st != .ready

/-- A write of CKP_MOD_RESET starts rung 3, unless one runs. -/
def State.ckpModReset (s : State) (r : Requester) (v : W32) : State :=
  let s := s.emptyLatch r
  let may := match r with
    | .smb => true
    | .hp0 => s.ownedBy 0
    | .hp1 => s.ownedBy 1
  if !s.masonUp || !may || v.toNat % 256 ≠ 0xA5 || s.rung3Runs then s
  else
    let s := s.coldStart
    { s with bu := { s.bu with rung3 := true } }

def execCkpPartReset (port : Nat) (v : W32) (s : State) : Host.Outcome State Fault Refusal :=
  guarded (isHost port) (s.ckpPartReset port v)

def execPartResetDone (p : Nat) (s : State) : Host.Outcome State Fault Refusal :=
  guarded (isPart p) (s.partResetDone p)

def execCkpModReset (r : Requester) (v : W32) (s : State) : Host.Outcome State Fault Refusal :=
  .next (s.ckpModReset r v)

end Sys2Proof.Machine
end

