-- ==== Sys2Proof/Machine/Freeze.lean ====
section
/-!
DEFINITION. Freeze (R371 to R374), the debug path (R375) and the JTAG port (R376).
-/
namespace Sys2Proof.Machine

/-- A requester may write a register that OWNER_PORT or the management bus writes (R369, R371). -/
def State.ownerOrBus (s : State) (r : Requester) : Bool :=
  match r with
  | .hp0 => s.ownedBy 0
  | .hp1 => s.ownedBy 1
  | .smb => true

/-- A requester may write a register that only OWNER_PORT writes (R389). -/
def State.ownerOnly (s : State) (r : Requester) : Bool :=
  match r with
  | .hp0 => s.ownedBy 0
  | .hp1 => s.ownedBy 1
  | .smb => false

/-- A write of FRZ_CTRL (R371). -/
def State.frzCtrl (s : State) (r : Requester) (v : W32) : State :=
  let s := s.emptyLatch r
  if !s.writable || !s.ownerOrBus r || v.toNat % 256 ≠ 0x5A then s
  else s.freezeTrigger fun z => { z with host := true }

/-- FRZ_N is low on two consecutive samples (R371), as GEN_STRAPS.FRZ_N then shows (R447). -/
def State.frzPin (s : State) : State :=
  if s.pwr.seq != .on then s
  else ({ s with gen := { s.gen with frzN := false } }).freezeTrigger fun z => { z with pin := true }

/-- An UP port abandons any packet it is sending, sends an IDLE flit with FROZEN set, and stops (R372). No trailer follows what
it abandons (notes/assumptions/23.md). -/
def State.freezePort (s : State) (wave : Bool) (p : Nat) : State :=
  if (s.port p).st != .up then s
  else
    let s := (s.port p).cut.foldl (fun s y => s.unsend p y) s
    (s.modPort p fun x => { x with cut := [] }.sendFlits 1 false).emit (.idle p s.hbCount wave true)

/-- The fast clocks stop (R372, R373), while core power is on: a module that loses it sends no FROZEN (R455). -/
def State.freeze (s : State) : State :=
  if !s.frz.latched || s.pwr.seq != .on then s
  else
    let wave := s.ready && s.cfg.slice.freezeWave
    let s := (List.range 10).foldl (fun s p => s.freezePort wave p) s
    { s with frz := { s.frz with
      latched := false, frozen := true,
      held := some { hosts := s.hosts, bond := s.bond, sec := s.sec, ports := s.ports, bu := s.bu,
                     doms := s.doms, mcs := s.mcs } } }

/-! ## Debug reads (R375) -/

/-- The course whose stores a debug read reads: course store or local store. -/
def State.dbgCourse (s : State) : Option Nat :=
  let a := s.frz.addr.toNat
  let c := if s.frz.space = 1 then a / 2 ^ 22 else a / 2 ^ 24
  if (s.frz.space = 1 || s.frz.space = 2) && decide (c < 64) then some c else none

/-- A debug read starts; one of a course's stores wakes the course (R361). -/
def State.dbgStart (s : State) : State :=
  let s := match s.dbgCourse with
    | some c => if s.frz.frozen then s.requestWake (domCourse c) else s
    | none => s
  { s with frz := { s.frz with goPending := true, goOk := s.frz.frozen, doneBit := false, err := 0 } }

/-- A write of FRZ_DBG_CTRL. -/
def State.dbgCtrl (s : State) (r : Requester) (v : W32) : State :=
  let s := s.emptyLatch r
  if !s.masonUp || !s.ownerOnly r then s
  else
    let s := { s with frz := { s.frz with space := v.extractLsb' 8 2 } }
    if v.getLsbD 0 then s.dbgStart else s

/-- Registers of an engine as debug space 3 lays them out. -/
def State.engineImage (s : State) (e : Nat) : List Byte :=
  let x := s.eng e
  ((List.range 64).flatMap fun i => leBytes 8 (Tab.get (0 : W64) x.g i).toNat) ++
  ((List.range 1024).flatMap fun i => leBytes 4 (Tab.get (0 : W32) x.v i).toNat) ++
  ((List.range 48).flatMap fun f => leBytes 4 (s.flagVal e f).toNat) ++ leBytes 8 x.pc ++ leBytes 8 x.numstat.toNat ++
  List.replicate 0xD30 0

/-- The 256 bytes of a debug read; none is RANGE. -/
def State.dbgBytes (s : State) : Option (List Byte) :=
  let a := s.frz.addr.toNat
  if a % 256 ≠ 0 then none
  else match s.frz.space.toNat with
  | 0 =>
    let p := a / 2 ^ 36
    if p < 32 && (s.pier p).trained && a % 2 ^ 36 + 256 ≤ pierPages * pageSize then
      some (Mem.read s.mem (pierKey p (a % 2 ^ 36)) 256) else none
  | 1 =>
    let c := a / 2 ^ 22
    if c < 64 && !(s.dom c).held && (s.dom c).level ≠ 5 then some (s.readLoc (.cs c (a % 2 ^ 22)) 256) else none
  | 2 =>
    let e := a / 2 ^ 19
    if e < 2048 && !(s.dom (e / 32)).held && (s.dom (e / 32)).level ≠ 5 && a % 2 ^ 19 + 256 ≤ lsSize then
      some (s.readLoc (.ls e (a % 2 ^ 19)) 256) else none
  | _ =>
    let e := a / 2 ^ 13
    if e < 2048 && !(s.dom (e / 32)).held && (s.dom (e / 32)).level ≠ 5 then
      some (sliceAt (s.engineImage e) (a % 2 ^ 13) 256) else none

/-- A debug read ends. One that GO asked for while the module was not frozen reads nothing. -/
def State.dbgDone (s : State) (ue : Bool) : State :=
  if !s.frz.goPending then s
  else
    let fin (k : Nat) : State := { s with frz := { s.frz with goPending := false, doneBit := true, err := k } }
    if !s.frz.goOk then fin 1
    else match s.dbgBytes with
      | none => fin 2
      | some bs =>
        if ue && s.frz.space = 0 then fin 3
        else { s with frz := { s.frz with goPending := false, doneBit := true, err := 0, data := bs } }

/-! ## JTAG (R376) -/

/-- The port runs with the always-on domain. -/
def State.jtagOn (s : State) : Bool := s.pwr.inputOn

/-- DBG_REQ with its data register at Update-DR. -/
def State.dbgReq (s : State) (dr : BitVec 72) : State :=
  if !s.jtagOn then s
  else
    let s := { s with jtag := { s.jtag with ir := irDbgReq, drive := false },
                      frz := { s.frz with addr := dr.extractLsb' 0 64, space := dr.extractLsb' 64 2 } }
    if dr.getLsbD 66 then s.dbgStart else s

/-- Bits [7:0] of FRZ_DBG_CTRL. -/
def Frz.ctrlByte (z : Frz) : Nat := b2n z.doneBit * 2 + z.err * 4

/-- The 256 bytes of FRZ_DBG_DATA. -/
def Frz.bytes (z : Frz) : List Byte := padTo 256 z.data

/-- DBG_DATA with Capture-DR: 2,056 bits come out. -/
def State.dbgData (s : State) : State :=
  if !s.jtagOn then s
  else ({ s with jtag := { s.jtag with ir := irDbgData, drive := false } }).emit
    (.jtag (leBytes 1 s.frz.ctrlByte ++ s.frz.bytes))

/-- BYPASS: the one-bit register captures 0. -/
def State.jtagBypass (s : State) : State :=
  if !s.jtagOn then s else ({ s with jtag := { s.jtag with ir := irBypass, drive := false } }).emit (.jtag [0])

/-- SAMPLE/PRELOAD and EXTEST: the levels of the pins come out, and what is shifted in becomes the boundary register. -/
def State.boundary (s : State) (ir : BitVec 8) (drive : Bool) (pins shifted : BitVec 16) : State :=
  if !s.jtagOn then s
  else ({ s with jtag := { ir := ir, boundary := shifted, drive := drive } }).emit (.jtag (leBytes 2 pins.toNat))

def execFrzCtrl (r : Requester) (v : W32) (s : State) : Host.Outcome State Fault Refusal :=
  .next (s.frzCtrl r v)

def execFrzNAssert (s : State) : Host.Outcome State Fault Refusal :=
  .next s.frzPin

def execFreeze (s : State) : Host.Outcome State Fault Refusal :=
  .next s.freeze

def execDbgGo (r : Requester) (v : W32) (s : State) : Host.Outcome State Fault Refusal :=
  .next (s.dbgCtrl r v)

def execDbgReadDone (ue : Bool) (s : State) : Host.Outcome State Fault Refusal :=
  .next (s.dbgDone ue)

def execDbgReq (dr : BitVec 72) (s : State) : Host.Outcome State Fault Refusal :=
  .next (s.dbgReq dr)

def execDbgData (s : State) : Host.Outcome State Fault Refusal :=
  .next s.dbgData

def execBypass (s : State) : Host.Outcome State Fault Refusal :=
  .next s.jtagBypass

def execSamplePreload (pins shifted : BitVec 16) (s : State) : Host.Outcome State Fault Refusal :=
  .next (s.boundary Config.irSample false pins shifted)

def execExtest (pins shifted : BitVec 16) (s : State) : Host.Outcome State Fault Refusal :=
  .next (s.boundary Config.irExtest true pins shifted)

end Sys2Proof.Machine
end

