-- ==== Sys2Proof/Machine/Ed448.lean ====
section
/-!
DEFINITION. Ed448ph as RFC 8032 defines it (R23, R419): signing and verification with a SHAKE256 pre-hash of 64 bytes
and a context string. The curve constants are those of RFC 8032 (PRESUMED, notes/assumptions/12.md). The group
equation is the cofactored one.
-/
namespace Sys2Proof.Machine

/-- The field prime of edwards448. -/
def edP : Nat := 2 ^ 448 - 2 ^ 224 - 1

/-- The curve constant d = −39081. -/
def edD : Nat := edP - 39081

/-- The order of the base point. -/
def edL : Nat := 2 ^ 446 - 13818066809895115352007386748515426880336692474882178609894547503885

/-- Powers modulo `m`; `fuel` bounds the bits of the exponent. -/
def powMod (m : Nat) : Nat → Nat → Nat → Nat
  | 0, _, _ => 1 % m
  | fuel + 1, b, e =>
    let r := powMod m fuel (b * b % m) (e / 2)
    if e % 2 = 1 then b * r % m else r

def edInv (x : Nat) : Nat := powMod edP 448 (x % edP) (edP - 2)

/-- A point in projective coordinates. -/
structure EdPoint where
  x : Nat
  y : Nat
  z : Nat
  deriving DecidableEq, Repr

def edZero : EdPoint := { x := 0, y := 1, z := 1 }

def edBase : EdPoint :=
  { x := 224580040295924300187604334099896036246789641632564134246125461686950415467406032909029192869357953282578032075146446173674602635247710,
    y := 298819210078481492676017930443930673437544040154080242095928241372331506189835876003536878655418784733982303233503462500531545062832660,
    z := 1 }

/-- Complete addition on the curve. -/
def edAdd (u v : EdPoint) : EdPoint :=
  let a := u.z * v.z % edP
  let b := a * a % edP
  let c := u.x * v.x % edP
  let d := u.y * v.y % edP
  let e := edD * c % edP * d % edP
  let f := (b + edP - e) % edP
  let g := (b + e) % edP
  let h := (u.x + u.y) * (v.x + v.y) % edP
  { x := a * f % edP * ((h + 2 * edP - c - d) % edP) % edP,
    y := a * g % edP * ((d + edP - c) % edP) % edP,
    z := f * g % edP }

/-- The multiple `n` of a point; `fuel` bounds the bits of `n`. -/
def edMul : Nat → Nat → EdPoint → EdPoint
  | 0, _, _ => edZero
  | fuel + 1, n, u =>
    let r := edMul fuel (n / 2) (edAdd u u)
    if n % 2 = 1 then edAdd u r else r

/-- Two projective points are one point. -/
def edEq (u v : EdPoint) : Bool :=
  u.x * v.z % edP == v.x * u.z % edP && u.y * v.z % edP == v.y * u.z % edP

/-- A point as 57 bytes. -/
def edEncode (u : EdPoint) : List Byte :=
  let i := edInv u.z
  let x := u.x * i % edP
  let y := u.y * i % edP
  leBytes 57 (y + x % 2 * 2 ^ 455)

/-- The point that 57 bytes spell. -/
def edDecode (bs : List Byte) : Option EdPoint :=
  let v := leNat (bs.take 57)
  let sign := v / 2 ^ 455 % 2
  let y := v % 2 ^ 455
  if bs.length ≠ 57 ∨ edP ≤ y then none
  else
    let u := (y * y + edP - 1) % edP
    let w := (edD * (y * y % edP) + edP - 1) % edP
    let u3w := u * u % edP * u % edP * w % edP
    let u5w3 := u3w * (u * u % edP) % edP * (w * w % edP) % edP
    let x := u3w * powMod edP 448 u5w3 ((edP - 3) / 4) % edP
    if w * (x * x % edP) % edP ≠ u then none
    else if x = 0 ∧ sign = 1 then none
    else some { x := if x % 2 = sign then x else edP - x, y := y, z := 1 }

/-- The bytes of an ASCII string. -/
def ascii (t : String) : List Byte := t.toList.map fun c => BitVec.ofNat 8 c.toNat

/-- dom4(1, context). -/
def edDom (ctx : String) : List Byte := ascii "SigEd448" ++ [1, BitVec.ofNat 8 ctx.length] ++ ascii ctx

/-- The secret scalar and the prefix of a 57-byte private key. -/
def edSecret (seed : List Byte) : Nat × List Byte :=
  let h := shake256 seed 114
  let a := leNat (h.take 56)
  (a % 2 ^ 447 / 4 * 4 + 2 ^ 447, h.drop 57)

/-- The public key of a private key. -/
def edPublic (seed : List Byte) : List Byte := edEncode (edMul 448 (edSecret seed).1 edBase)

/-- The Ed448ph signature of a message, 114 bytes. -/
def edSign (seed : List Byte) (ctx : String) (m : List Byte) : List Byte :=
  let (a, pre) := edSecret seed
  let ph := shake256 m 64
  let r := leNat (shake256 (edDom ctx ++ pre ++ ph) 114) % edL
  let rb := edEncode (edMul 448 r edBase)
  let k := leNat (shake256 (edDom ctx ++ rb ++ edPublic seed ++ ph) 114) % edL
  rb ++ leBytes 57 ((r + k * a) % edL)

/-- An Ed448ph signature verifies. -/
def edVerify (pub : List Byte) (ctx : String) (m sig : List Byte) : Bool :=
  let rb := sig.take 57
  let s := leNat (sig.drop 57)
  match edDecode pub, edDecode rb with
  | some a, some r =>
    if sig.length ≠ 114 ∨ edL ≤ s then false
    else
      let k := leNat (shake256 (edDom ctx ++ rb ++ pub ++ shake256 m 64) 114) % edL
      edEq (edMul 3 4 (edMul 448 s edBase)) (edMul 3 4 (edAdd r (edMul 448 k a)))
  | _, _ => false

end Sys2Proof.Machine
end

