-- ==== Sys2Proof/Machine/Records.lean ====
section
/-!
DEFINITION. Flash: records, firmware slots and the replay-protected block (R419 to R435). A record is the list of its
bytes, at a place of 4 KiB in the record area (notes/assumptions/12.md), a firmware slot the bytes it holds from its
offset on.
-/
namespace Sys2Proof.Machine

/-- Every byte of a span of a record is zero. -/
def zeroAt (b : List Byte) (off n : Nat) : Bool := (sliceAt b off n).all (· == 0)

/-! ## The record area (R420, R421) -/

/-- The records in flash, in the order of their places. -/
def Sec.recs (x : Sec) : List (List Byte) := x.records.map (·.2)

/-- The offset in flash of a place of the record area: 4,096 places of 4 KiB, none in the reserved 16 MiB above. -/
def recordOffset (k : Nat) : Nat := 0x2000000 + 4096 * k

/-- The lowest free place. -/
def Sec.freePlace (x : Sec) : Option Nat := (List.range 4096).find? fun k => (Tab.find? x.records k).isNone

/-- A record is written at the lowest free place, and older ones are then erased. -/
def Sec.putRecord (x : Sec) (b : List Byte) (older : List Byte → Bool) : Option Sec :=
  x.freePlace.map fun k => { x with records := Tab.set (x.records.filter fun r => !older r.2) k b }

/-! ## Records (R421, R422) -/

def recType (b : List Byte) : Nat := fieldAt b 4 1
def recGen (b : List Byte) : Nat := fieldAt b 0x18 8
def recSigner (b : List Byte) : Nat := fieldAt b (b.length - 128) 1

/-- LENGTH of a TYPE; 0 for a type that does not exist. -/
def recLength : Nat → Nat
  | 1 => 264
  | 2 => 1216
  | 3 => 736
  | 4 => 256
  | 5 => 264
  | _ => 0

/-- Context string of a TYPE. -/
def recContext : Nat → String
  | 1 => "HT4-CERT"
  | 2 => "HT4-HELP"
  | 3 => "HT4-REPR"
  | 4 => "HT4-LICN"
  | _ => "HT4-KEYS"

/-- A SIGNER is permitted for a TYPE. -/
def signerOk (t g : Nat) : Bool :=
  match t with
  | 1 | 2 => g == 0
  | 3 => g == 3
  | 4 => g == 1
  | 5 => g == 1 || g == 4
  | _ => false

/-- The fields of the body are in their ranges and its reserved bytes zero. -/
def bodyOk (b : List Byte) : Bool :=
  match recType b with
  | 1 => decide (fieldAt b 64 1 ≤ 2) && zeroAt b 66 6 && zeroAt b 129 7
  | 2 => true
  | 3 => true
  | 4 => fieldAt b 64 4 % 4 != 3 && decide (fieldAt b 64 4 < 64) && zeroAt b 68 60
  | 5 => decide (fieldAt b 64 1 ≤ 1) && decide (fieldAt b 65 1 ≤ 3) && zeroAt b 66 6 && zeroAt b 129 7
  | _ => false

/-- MAGIC, VERSION, LENGTH, GEN, reserved bytes and the fields of the body. -/
def formOk (b : List Byte) : Bool :=
  let n := b.length
  fieldAt b 0 4 == 0x43455248 && fieldAt b 5 1 == 1 && zeroAt b 6 2 && fieldAt b 8 4 == n && n == recLength (recType b) &&
  n != 0 && zeroAt b 0x0C 4 && recGen b != 0 && zeroAt b 0x30 16 && fieldAt b (n - 127) 1 == 1 && zeroAt b (n - 126) 6 &&
  zeroAt b (n - 6) 6 && bodyOk b

/-- Public key of a SIGNER. -/
def State.signerKey (s : State) (g : Nat) : List Byte :=
  match g with
  | 0 => s.sec.efDev
  | 1 => s.sec.efLic
  | 2 => s.sec.efFw
  | 3 => s.sec.pub
  | _ => Tab.get [] s.sec.hostKeys 0

/-- The signer is permitted and the signature verifies. -/
def State.recSigned (s : State) (b : List Byte) : Bool :=
  let n := b.length
  signerOk (recType b) (recSigner b) &&
  edVerify (s.signerKey (recSigner b)) (recContext (recType b)) (b.take (n - 128)) (sliceAt b (n - 120) 114)

/-- SERIAL and ID_FP are this module's; ID_FP is waived for DEVCERT and HELPER. -/
def State.recBound (s : State) (b : List Byte) : Bool :=
  fieldAt b 0x10 8 == s.gen.serial.toNat && (decide (recType b ≤ 2) || sliceAt b 0x20 16 == s.sec.fp)

/-- A record is valid (R422). -/
def State.recValid (s : State) (b : List Byte) : Bool := formOk b && s.recSigned b && s.recBound b

/-- The newest of some records: the greatest GEN. -/
def newest : List (List Byte) → Option (List Byte)
  | [] => none
  | b :: t => match newest t with
    | none => some b
    | some x => if recGen x < recGen b then some b else some x

/-- The newest valid record of a TYPE that satisfies a test. -/
def State.newestRec (s : State) (t : Nat) (f : List Byte → Bool) : Option (List Byte) :=
  newest (s.sec.recs.filter fun b => recType b == t && f b && s.recValid b)

/-- A signature block. -/
def sigBlock (signer : Nat) (sig : List Byte) : List Byte :=
  [BitVec.ofNat 8 signer, 1] ++ List.replicate 6 0 ++ sig ++ List.replicate 6 0

/-! ## Firmware slots (R431, R432) -/

/-- A slot is valid. -/
def State.fwValid (s : State) (b : List Byte) : Bool :=
  let n := fieldAt b 8 4
  let g := fieldAt b 0x0C 4
  fieldAt b 0 4 == 0x57465448 && fieldAt b 4 2 == 1 && zeroAt b 6 2 && decide (n ≤ 2 ^ 24) && decide (192 ≤ n) &&
  decide (n ≤ b.length) && g + 128 == n && zeroAt b 0x20 32 && fieldAt b g 1 == 2 && fieldAt b (g + 1) 1 == 1 &&
  zeroAt b (g + 2) 6 && zeroAt b (g + 0x7A) 6 && edVerify s.sec.efFw "HT4-FWIM" (b.take g) (sliceAt b (g + 8) 114)

def fwVersion (b : List Byte) : Nat := fieldAt b 0x10 4
def fwSvn (b : List Byte) : Nat := fieldAt b 0x14 4

/-- The slot that the boot ROM may run: valid, with SVN at least C. -/
def State.fwRuns (s : State) (b : List Byte) : Bool := s.fwValid b && decide (s.sec.arb.toNat ≤ fwSvn b)

/-! ## Host keys and sessions (R428) -/

/-- A change to a host slot closes every session opened with it, on both ports. -/
def State.closeKeySessions (s : State) (k : Nat) : State :=
  { s with hosts := Tab.mapIf HostPort.reset s.hosts (fun _ => true) fun x => { x with
      sec := Tab.mapIf Chan.reset x.sec (fun _ => true) fun c =>
        if c.session = 2 && c.keySlot = k then { c with session := 0, keySlot := 0, nonce := [] } else c } }

/-- A KEY record fills its slot. -/
def State.fillKey (s : State) (b : List Byte) : State :=
  let k := fieldAt b 65 1
  let pub := sliceAt b 72 57
  let v := if pub.all (· == 0) then [] else pub
  if fieldAt b 64 1 = 0 then { s with sec := { s.sec with bondKeys := Tab.put [] s.sec.bondKeys k v } }
  else { s with sec := { s.sec with hostKeys := Tab.put [] s.sec.hostKeys k v } }

/-- KEY records fill the slots at BU2, each its own, in rising GEN order, so that a record signed by host slot 0 is checked under
the key that slot 0 then holds (DEDUCED, notes/assumptions/12.md). -/
def State.fillKeys (s : State) : State :=
  let l := s.sec.recs.filter fun b => recType b == 5 && decide (recGen b ≤ s.sec.keyGen.toNat)
  (l.insertionSort fun x y => recGen x ≤ recGen y).foldl (fun s b => if s.recValid b then s.fillKey b else s) s

/-! ## The replay-protected block (R423) -/

/-- The block key: of the identity seed. -/
def blockKey (seed : List Byte) : List Byte := shake256 (seed ++ ascii "HT4-RPMB") 32

/-- The tag of a write of C, LIC_GEN and KEY_GEN under a write counter (its message is the model's choice,
notes/assumptions/12.md). -/
def rpmbTag (key : List Byte) (ctr : Nat) (c : BitVec 32) (lic keys : BitVec 64) : List Byte :=
  kmac256 key (leBytes 4 ctr ++ leBytes 4 c.toNat ++ leBytes 8 lic.toNat ++ leBytes 8 keys.toNat) 32

/-- The device takes a write with its current counter and a tag under its key, and counts it. -/
def Sec.rpmbTake (x : Sec) (ctr : Nat) (tag : List Byte) (c : BitVec 32) (lic keys : BitVec 64) : Option Sec :=
  if ctr = x.rpmbCtr ∧ tag = rpmbTag x.rpmbKey ctr c lic keys then
    some { x with arb := c, licGen := lic, keyGen := keys, rpmbCtr := x.rpmbCtr + 1 }
  else none

/-- The block key of a write: the one that mason-S holds, or, once a BU2 that ended in LICENCE has erased it, that of the same
identity derived again (R425, R429; DEDUCED, notes/assumptions/12.md). -/
def Sec.writeKey (x : Sec) : Option (List Byte) := if x.block.isNone && x.derives then some x.rpmbKey else x.block

/-- mason-S writes the block, under the block key; none when the device turns the write away. -/
def Sec.rpmbWrite (x : Sec) (c : BitVec 32) (lic keys : BitVec 64) : Option Sec :=
  x.writeKey.bind fun key => x.rpmbTake x.rpmbCtr (rpmbTag key x.rpmbCtr c lic keys) c lic keys

/-! ## INSTALL (R427, R430, R437) -/

/-- RESULT of an INSTALL of the record `b` before anything is written; 0 when it is accepted. -/
def State.installCheck (s : State) (b : List Byte) : Nat :=
  if !(recType b == 4 || recType b == 5) || !formOk b then 4
  else if !s.recSigned b then 1
  else if !s.recBound b then 2
  else if recGen b ≤ (if recType b = 4 then s.sec.licGen.toNat else s.sec.keyGen.toNat) then 3
  else 0

/-- An older record of the kind that `b` replaces: a LICENCE, or a KEY record for the same CLASS and SLOT. -/
def olderKind (b r : List Byte) : Bool :=
  recType r == recType b && decide (recGen r < recGen b) && (recType b == 4 || sliceAt r 64 2 == sliceAt b 64 2)

/-- An accepted record is in flash and verified: the generation rises, older records of its kind are erased, and a key
takes effect. None when flash has no place for it, or the replay-protected block turns the new generation away. -/
def State.installRecord (s : State) (b : List Byte) : Option State :=
  let g := BitVec.ofNat 64 (recGen b)
  match s.sec.putRecord b (olderKind b) with
  | none => none
  | some x => match x.rpmbWrite x.arb (if recType b = 4 then g else x.licGen) (if recType b = 4 then x.keyGen else g) with
    | none => none
    | some x =>
      let s := { s with sec := x }
      if recType b = 4 then some s
      else
        let s := s.fillKey b
        some (if fieldAt b 64 1 = 1 then s.closeKeySessions (fieldAt b 65 1) else s)

/-! ## Repair records (R426) -/

/-- The repair map with one change more. -/
def Sec.changed (x : Sec) : RepairChange → Sec
  | .slot c k => { x with repairSlots := Tab.put 0 x.repairSlots c (Tab.get 0 x.repairSlots c ||| BitVec.ofNat 34 (2 ^ k)) }
  | .layer p l => { x with repairLayers := Tab.set x.repairLayers p l }

/-- SLOTS and LAYERS of a repair map. -/
def Sec.repairBody (x : Sec) : List Byte :=
  ((List.range 64).flatMap fun c => leBytes 8 (Tab.get 0 x.repairSlots c).toNat) ++
  (List.range 32).map fun p => BitVec.ofNat 8 ((Tab.find? x.repairLayers p).getD 0xFF)

/-- The new REPAIR record of the whole map, signed by the identity key. -/
def State.repairRecord (s : State) (seed : List Byte) : List Byte :=
  let gen := ((s.newestRec 3 fun _ => true).map recGen).getD 0 + 1
  let h := leBytes 4 0x43455248 ++ [3, 1, 0, 0] ++ leBytes 4 736 ++ leBytes 4 0 ++ leBytes 8 s.gen.serial.toNat ++
    leBytes 8 gen ++ s.sec.fp ++ List.replicate 16 0
  let b := h ++ s.sec.repairBody
  b ++ sigBlock 3 (edSign seed "HT4-REPR" b)

/-- mason-S has written the new record of the oldest waiting change, and it verifies or not (R426). -/
def State.repairWrite (s : State) (verified : Bool) : State :=
  match s.sec.seed, s.sec.repairs with
  | some seed, r :: later =>
    if !s.masonUp || !verified then s
    else
      let x := s.sec.changed r
      match x.putRecord (({ s with sec := x }).repairRecord seed) fun r => recType r == 3 with
      | none => s
      | some x => { s with sec := { x with repairs := later } }
  | _, _ => s

/-- Failed slots of course `c` and marked layer of pier `p` in a REPAIR record. -/
def repairSlotsOf (b : List Byte) (c : Nat) : BitVec 34 := BitVec.ofNat 34 (fieldAt b (64 + 8 * c) 8)
def repairLayerOf (b : List Byte) (p : Nat) : Option Nat :=
  let v := fieldAt b (576 + p) 1
  if v = 0xFF then none else some v

def execRepairRecordWrite (verified : Bool) (s : State) : Host.Outcome State Fault Refusal :=
  .next (s.repairWrite verified)

end Sys2Proof.Machine
end

