-- ==== Sys2Proof/Machine/BondImage.lean ====
section
/-!
DEFINITION. The container of a bond image and its acceptance (R19 to R36, R53): header, section table, signature,
sequence, placement. A check answers the first failure, with the CODE of R68, SECTION and OFFSET.
-/
namespace Sys2Proof.Machine

/-- A refusal: CODE, SECTION, OFFSET. -/
structure Fail where
  code : Nat
  sect : Nat
  off : Nat
  deriving DecidableEq, Repr

def bondExtent : Nat := 0x01
def bondFormat : Nat := 0x02
def bondTooLarge : Nat := 0x03
def bondSerial : Nat := 0x04
def bondSignature : Nat := 0x05
def bondStale : Nat := 0x06
def bondBase : Nat := 0x07
def bondType : Nat := 0x08
def bondDuplicate : Nat := 0x09
def bondOverlap : Nat := 0x0A
def bondRange : Nat := 0x0B
def bondAbsent : Nat := 0x0C
def bondUnlicensed : Nat := 0x0D
def bondFeed : Nat := 0x0E
def bondCastSpace : Nat := 0x0F
def bondEpochBusy : Nat := 0x10
def bondBusy : Nat := 0x11
def bondStage : Nat := 0x12
def bondFetch : Nat := 0x13
def bondPort : Nat := 0x14
def bondSuperseded : Nat := 0x15

/-- A condition on the header, the signature block or the table as a whole. -/
def need (ok : Bool) (code off : Nat) : Option Fail := if ok then none else some { code := code, sect := 0xFFFF, off := off }

/-- A reserved field of `n` bytes is zero; OFFSET names its first byte (R25). -/
def needZero (b : List Byte) (code off n : Nat) : Option Fail :=
  need ((List.range n).all fun i => b.getD (off + i) 0 == 0) code off

/-! ## The section table (R20, R36) -/

/-- A section table entry and its body. -/
structure Sect where
  idx : Nat
  typ : Nat
  inst : Nat
  off : Nat
  len : Nat
  resv : Nat
  body : List Byte
  deriving DecidableEq, Repr

def secPart : Nat := 0x10
def secEnable : Nat := 0x11
def secClock : Nat := 0x12
def secWake : Nat := 0x13
def secHod : Nat := 0x14
def secSync : Nat := 0x15
def secPier : Nat := 0x16
def secRoute : Nat := 0x20
def secSlice : Nat := 0x21
def secAxes : Nat := 0x22
def secColl : Nat := 0x23
def secCast : Nat := 0x24
def secReady : Nat := 0x25
def secReshard : Nat := 0x30

/-- Number of entries of the section table. -/
def sectCount (img : List Byte) : Nat := fieldAt img 0x0C 2

def sectTable (img : List Byte) : List Sect :=
  (List.range (sectCount img)).map fun i =>
    let e := 64 + 16 * i
    { idx := i, typ := fieldAt img e 2, inst := fieldAt img (e + 2) 2, off := fieldAt img (e + 4) 4,
      len := fieldAt img (e + 8) 4, resv := fieldAt img (e + 12) 4,
      body := sliceAt img (fieldAt img (e + 4) 4) (fieldAt img (e + 8) 4) }

/-- The sections that count: an entry of LENGTH zero is as if absent (R22). -/
def sections (img : List Byte) : List Sect := (sectTable img).filter fun x => x.len != 0

/-- A failure of a field of the body, and of the table entry. -/
def Sect.need (x : Sect) (ok : Bool) (code o : Nat) : Option Fail :=
  if ok then none else some { code := code, sect := x.idx, off := x.off + o }
def Sect.entry (x : Sect) (ok : Bool) (code o : Nat) : Option Fail :=
  if ok then none else some { code := code, sect := x.idx, off := 64 + 16 * x.idx + o }

/-- A reserved field of the body is zero; OFFSET names its first byte (R25, R37). -/
def Sect.zeros (x : Sect) (o n : Nat) : Option Fail :=
  x.need ((List.range n).all fun i => x.body.getD (o + i) 0 == 0) bondFormat o

/-- A field of the body. -/
def Sect.f (x : Sect) (o n : Nat) : Nat := fieldAt x.body o n

/-- Greatest INSTANCE of a type. -/
def instMax (t : Nat) : Nat := if t = secRoute ∨ t = secReshard then 7 else 0

/-- A type may appear in an image of this KIND. -/
def typeIn (kind t : Nat) : Bool :=
  if kind = 0 then [secPart, secEnable, secClock, secWake, secHod, secSync, secPier, secRoute, secSlice, secAxes, secColl,
    secCast, secReady].contains t
  else [secRoute, secSlice, secAxes, secColl, secCast, secReshard].contains t

/-- Listed length of a type of fixed length. -/
def fixedLen (t : Nat) : Option Nat :=
  [(secEnable, 264), (secClock, 96), (secWake, 8), (secHod, 64), (secSync, 72), (secSlice, 64), (secAxes, 8), (secColl, 32),
   (secCast, 32), (secReady, 16)].lookup t

/-! ## READY (R53) -/

/-- The READY section's content. -/
def readyCheck (x : Sect) : Option Fail :=
  let e := x.f 0x0A 1
  x.need (x.f 0 1 < 4) bondFormat 0 <|> x.zeros 1 1 <|> x.need (x.f 2 2 < 1024) bondFormat 2 <|>
  x.need (1 ≤ x.f 4 4 && x.f 4 4 ≤ 600000) bondRange 4 <|> x.need (1 ≤ x.f 8 2 && x.f 8 2 ≤ 9) bondRange 8 <|>
  x.need (241 ≤ e && e ≤ 253) bondRange 0x0A <|> x.zeros 0x0B 5

/-! ## Header (R19) -/

/-- Checks 4 to 8 of R29. -/
def State.headerCheck (s : State) (img : List Byte) : Option Fail :=
  let kind := fieldAt img 0x0E 1
  let total := fieldAt img 8 4
  let sig := fieldAt img 0x2C 4
  need (fieldAt img 0 4 == 0x444E4F42) bondFormat 0 <|> need (fieldAt img 4 2 == 1) bondFormat 4 <|>
  need (fieldAt img 6 2 == 64) bondFormat 6 <|> need (sectCount img ≤ 256) bondFormat 0x0C <|>
  need (kind ≤ 1) bondFormat 0x0E <|> needZero img bondFormat 0x0F 1 <|> need (fieldAt img 0x18 8 != 0) bondFormat 0x18 <|>
  need (kind == 1 || fieldAt img 0x20 8 == 0) bondFormat 0x20 <|> need (fieldAt img 0x28 4 == 64) bondFormat 0x28 <|>
  need (sig % 64 == 0 && sig + 192 == total) bondFormat 0x2C <|> needZero img bondFormat 0x30 16 <|>
  need (total ≤ img.length) bondExtent 8 <|> need (total == img.length) bondFormat 8 <|>
  need (64 + 16 * sectCount img ≤ sig) bondExtent 0x0C <|>
  need (fieldAt img 0x10 8 == s.gen.serial.toNat) bondSerial 0x10

/-! ## Signature (R23) -/

def State.sigCheck (s : State) (img : List Byte) : Option Fail :=
  let g := fieldAt img 0x2C 4
  let slot := fieldAt img (g + 4) 1
  let key := Tab.get [] s.sec.bondKeys slot
  need (fieldAt img g 4 == 0x47495342) bondSignature g <|> need (slot ≤ 3 && !key.isEmpty) bondSignature (g + 4) <|>
  need (fieldAt img (g + 5) 1 == 1) bondSignature (g + 5) <|> needZero img bondSignature (g + 6) 2 <|>
  need (sliceAt img (g + 8) 16 == shake256 key 16) bondSignature (g + 8) <|>
  need (edVerify key "HT4-BOND" (img.take g) (sliceAt img (g + 0x18) 114)) bondSignature (g + 0x18) <|>
  needZero img bondSignature (g + 0x8A) 54

/-! ## Sequence (R34) -/

def State.seqCheck (s : State) (img : List Byte) : Option Fail :=
  let seq := fieldAt img 0x18 8
  let base := fieldAt img 0x20 8
  if fieldAt img 0x0E 1 = 0 then need (s.bond.highWater.toNat < seq) bondStale 0x18
  else need (base == s.bond.activeSeq.toNat) bondBase 0x20 <|> need (base < seq) bondStale 0x18

/-! ## Section table checks 11 to 13 (R21, R22, R36) -/

def typeCheck (kind : Nat) (l : List Sect) : Option Fail :=
  (l.findSome? fun x => x.entry (typeIn kind x.typ) bondType 0 <|> x.entry (x.inst ≤ instMax x.typ) bondType 2) <|>
  l.findSome? fun x => x.entry (x.len == 0 || (fixedLen x.typ).getD x.len == x.len) bondFormat 8

/-- Placement of the entries in table order, after those already placed. (DEDUCED, notes/assumptions/28.md: a body that reaches
past SIG_OFF is reported at LENGTH, an overlap at OFFSET.) -/
def placeCheck (lo sig : Nat) : List Sect → List Sect → Option Fail
  | _, [] => none
  | placed, x :: t =>
    if x.len = 0 then x.entry (x.resv == 0) bondFormat 12 <|> placeCheck lo sig placed t
    else
      x.entry (x.resv == 0) bondFormat 12 <|> x.entry (x.off % 64 == 0 && lo ≤ x.off) bondFormat 4 <|>
      x.entry (x.off + x.len ≤ sig) bondExtent 8 <|>
      x.entry (placed.all fun y => x.off + x.len ≤ y.off || y.off + y.len ≤ x.off) bondOverlap 4 <|>
      x.entry (placed.all fun y => y.off < x.off) bondFormat 4 <|> placeCheck lo sig (placed ++ [x]) t

def dupCheck : List Sect → List Sect → Option Fail
  | _, [] => none
  | seen, x :: t =>
    x.entry (x.len == 0 || !seen.any fun y => y.typ == x.typ && y.inst == x.inst) bondDuplicate 0 <|>
    dupCheck (if x.len = 0 then seen else seen ++ [x]) t

/-! ## Who may submit what (R31, R32) -/

/-- A full image may be accepted: from the end of BU2 until BU8 runs with a staged image, and after a failure of BU8 or
BU9. -/
def State.fullAllowed (s : State) : Bool :=
  s.masonUp && !s.ready &&
  (decide (3 ≤ s.bu.stage) && decide (s.bu.stage ≤ 7) || decide (8 ≤ s.bu.stage) && (s.bu.st == .failed || s.bu.st == .waitImage))

/-- Check 1 for an image of this KIND. -/
def State.admitCheck (s : State) (h kind : Nat) (img : List Byte) : Option Fail :=
  if kind = 0 then need s.fullAllowed bondStage 0
  else if kind ≠ 1 then none
  else
    let l := sections img
    let own (x : Sect) : Bool := x.typ == secReshard && (s.partCfg x.inst).any fun p => p.hostPort == h
    need s.ready bondStage 0 <|> need (s.ownedBy h || (!l.isEmpty && l.all own)) bondPort 0

/-- The acceptance checks of R29 that need the fetched image. -/
def State.acceptCheck (s : State) (h : Nat) (img : List Byte) : Option Fail :=
  let kind := fieldAt img 0x0E 1
  let l := sectTable img
  s.admitCheck h kind img <|> s.headerCheck img <|> s.sigCheck img <|> s.seqCheck img <|> typeCheck kind l <|>
  placeCheck ((64 + 16 * l.length + 63) / 64 * 64) (fieldAt img 0x2C 4) [] l <|> dupCheck [] l <|>
  if kind = 0 then ((sections img).filter fun x => x.typ == secReady).findSome? readyCheck else none

end Sys2Proof.Machine
end

