-- ==== Sys2Proof/Machine/BondCheck.lean ====
section
/-!
DEFINITION. Section bodies of a bond image (R36 to R56): the configuration they spell, the defaults of absent sections,
and the checks that BU9 and a partial apply make (R58, R62), in the order of the table of R59.
-/
namespace Sys2Proof.Machine

/-- The section of a type, when the image carries it. -/
def sectOf (l : List Sect) (t : Nat) : Option Sect := l.find? fun x => x.typ == t

/-! ## Licence and parts (R5 to R7) -/

/-- Courses that the engine tier licenses. -/
def licensedCourses (lic : BitVec 6) : BitVec 64 :=
  let n := if bits lic.toNat 1 0 = 0 then 12 else if bits lic.toNat 1 0 = 1 then 14 else 16
  BitVec.ofNat 64 (((List.range 64).filter fun c => c % 16 < n).foldl (fun a c => a + 2 ^ c) 0)

/-- Greatest number of modules that the slice size class licenses. -/
def sliceLimit (lic : BitVec 6) : Option Nat :=
  if bits lic.toNat 5 4 = 0 then some 72 else if bits lic.toNat 5 4 = 1 then some 4608 else none

/-! ## PART and ENABLE (R38, R39) -/

def enableOf (b : List Byte) : BitVec 64 × Tab (BitVec 32) :=
  (BitVec.ofNat 64 (fieldAt b 0 8),
   (List.range 64).foldl (fun t c => Tab.put 0 t c (BitVec.ofNat 32 (fieldAt b (8 + 4 * c) 4))) [])

def enableCheck (cap : BitVec 64) (lic : BitVec 6) (x : Sect) : Option Fail :=
  let en := x.f 0 8
  x.need (en &&& (licensedCourses lic).toNat == en) bondUnlicensed 0 <|> x.need (en &&& cap.toNat == en) bondAbsent 0 <|>
  (List.range 64).findSome? fun c =>
    let m := x.f (8 + 4 * c) 4
    x.need (bit en c || m == 0) bondFormat (8 + 4 * c) <|> x.need (!bit en c || m != 0) bondRange (8 + 4 * c)

/-- Partition record at byte `o`. -/
def partRec (b : List Byte) (o : Nat) : Nat × PartCfg :=
  (fieldAt b o 1, { hostPort := fieldAt b (o + 1) 1, offloadWin := fieldAt b (o + 2) 1,
                    courseMask := BitVec.ofNat 64 (fieldAt b (o + 8) 8), ctxFirst := fieldAt b (o + 0x10) 2,
                    ctxCount := fieldAt b (o + 0x12) 2, slotFirst := fieldAt b (o + 0x14) 1,
                    slotCount := fieldAt b (o + 0x15) 1 })

/-- Partition records of a PART body in body order. -/
def partRecs (b : List Byte) : List (Nat × PartCfg) := (List.range (fieldAt b 1 1)).map fun i => partRec b (8 + 32 * i)

/-- Two ranges share a number. -/
def rangesMeet (a n b k : Nat) : Bool := n != 0 && k != 0 && a < b + k && b < a + n

def partRecCheck (x : Sect) (en : BitVec 64) (hp1 : Bool) (o : Nat) (r : Nat × PartCfg) (before : List (Nat × PartCfg)) :
    Option Fail :=
  let p := r.2
  x.need (r.1 ≤ 7 && before.all fun y => y.1 != r.1) bondRange o <|> x.need (p.hostPort ≤ 1) bondRange (o + 1) <|>
  x.need (p.hostPort == 0 || hp1) bondUnlicensed (o + 1) <|> x.need (p.offloadWin ≤ 8) bondRange (o + 2) <|>
  x.zeros (o + 3) 5 <|> x.need (before.all fun y => y.2.courseMask &&& p.courseMask == 0) bondOverlap (o + 8) <|>
  x.need (p.courseMask &&& en == p.courseMask) bondRange (o + 8) <|>
  x.need (p.ctxFirst ≤ 1023) bondRange (o + 0x10) <|> x.need (1 ≤ p.ctxCount && p.ctxCount ≤ 1024) bondRange (o + 0x12) <|>
  x.need (p.ctxFirst + p.ctxCount ≤ 1024) bondRange (o + 0x10) <|>
  x.need (before.all fun y => !rangesMeet p.ctxFirst p.ctxCount y.2.ctxFirst y.2.ctxCount) bondOverlap (o + 0x10) <|>
  x.need (p.slotFirst ≤ 127) bondRange (o + 0x14) <|> x.need (p.slotCount ≤ 128) bondRange (o + 0x15) <|>
  x.need (p.slotFirst + p.slotCount ≤ 128) bondRange (o + 0x14) <|>
  x.need (before.all fun y => !rangesMeet p.slotFirst p.slotCount y.2.slotFirst y.2.slotCount) bondOverlap (o + 0x14) <|>
  x.zeros (o + 0x16) 10

/-- PART. (DEDUCED, notes/assumptions/28.md: its reserved bytes come before what COUNT implies.) -/
def partCheck (en : BitVec 64) (hp1 : Bool) (x : Sect) : Option Fail :=
  let n := x.f 1 1
  let rs := partRecs x.body
  x.need (x.f 0 1 ≤ 1) bondRange 0 <|> x.need (x.f 0 1 == 0 || hp1) bondUnlicensed 0 <|>
  x.need (1 ≤ n && n ≤ 8) bondRange 1 <|> x.zeros 2 6 <|> x.need (8 + 32 * n ≤ x.len) bondExtent 1 <|>
  x.entry (8 + 32 * n == x.len) bondFormat 8 <|>
  rs.zipIdx.findSome? fun (r, i) => partRecCheck x en hp1 (8 + 32 * i) r (rs.take i)

/-! ## CLOCK, WAKE, HOD, SYNC (R40 to R43) -/

def capOf (b : List Byte) : Nat := if fieldAt b 0 2 = 0 then 2400 else fieldAt b 0 2

def classesOf (b : List Byte) : List ClassCfg :=
  (List.range 5).map fun k =>
    let o := 0x10 + 16 * k
    { deepest := fieldAt b (o + 1) 1, tQ2 := fieldAt b (o + 4) 4, tQ3 := fieldAt b (o + 8) 4, tQ4 := fieldAt b (o + 12) 4 }

def clockCheck (x : Sect) : Option Fail :=
  let w := x.f 0 2
  x.need (w == 0 || (800 ≤ w && w ≤ 2400)) bondRange 0 <|> x.zeros 2 6 <|>
  ((List.range 8).findSome? fun p => x.need (x.f (8 + p) 1 ≤ 16) bondRange (8 + p)) <|>
  (List.range 5).findSome? fun k =>
    let o := 0x10 + 16 * k
    let q := x.f (o + 1) 1
    x.need (x.f o 1 == k) bondFormat o <|> x.need (1 ≤ q && q ≤ 5 && (k != 4 || q == 1)) bondRange (o + 1) <|> x.zeros (o + 2) 2

def wakeCheck (x : Sect) : Option Fail :=
  x.need (1 ≤ x.f 0 1 && x.f 0 1 ≤ 8) bondRange 0 <|> x.need (1 ≤ x.f 1 1 && x.f 1 1 ≤ 2) bondRange 1 <|>
  x.need (1 ≤ x.f 2 1 && x.f 2 1 ≤ 16) bondRange 2 <|> x.zeros 3 1 <|> x.zeros 4 4

def hodRec (b : List Byte) (p : Nat) : HodCfg :=
  { steal := bit (fieldAt b (8 * p) 1) 0, far := bit (fieldAt b (8 * p) 1) 1, near := fieldAt b (8 * p + 1) 1 }

/-- The policy of a defined partition that no HOD section names. -/
def hodDefault : HodCfg := { steal := true, far := false, near := 15 }

def hodCheck (parts : Tab PartCfg) (x : Sect) : Option Fail :=
  (List.range 8).findSome? fun p =>
    let o := 8 * p
    let fl := x.f o 1
    if (Tab.find? parts p).isNone then x.zeros o 1 <|> x.zeros (o + 1) 1 <|> x.zeros (o + 2) 6
    else x.need (fl < 4) bondFormat o <|> x.need (!(bit fl 1 && !bit fl 0)) bondRange o <|>
      x.need (1 ≤ x.f (o + 1) 1 && x.f (o + 1) 1 ≤ 15) bondRange (o + 1) <|> x.zeros (o + 2) 6

/-- OWNER, REACH and DIE of line `k` in a SYNC body. -/
def syncKey (b : List Byte) (k : Nat) : Nat × Nat × Nat :=
  (fieldAt b (8 + 4 * k) 1, fieldAt b (9 + 4 * k) 1, fieldAt b (10 + 4 * k) 1)

def syncCheck (parts : Tab PartCfg) (x : Sect) : Option Fail :=
  x.need (32 ≤ x.f 0 1 && x.f 0 1 ≤ 48) bondRange 0 <|> x.zeros 1 7 <|>
  (List.range 16).findSome? fun k =>
    let o := 8 + 4 * k
    let (w, r, d) := syncKey x.body k
    x.need (w == 0xFF || (Tab.find? parts w).isSome) bondRange o <|> x.need (r ≤ 2) bondRange (o + 1) <|>
    x.need (if r = 0 then decide (d ≤ 3) else d == 0) bondRange (o + 2) <|> x.zeros (o + 3) 1

/-! ## PIER (R44, R197, R198) -/

/-- A region record, not yet placed. -/
def regionRec (b : List Byte) (o : Nat) : Region :=
  let a := fieldAt b (o + 4) 4
  { id := fieldAt b o 1, kind := fieldAt b (o + 1) 1, target := fieldAt b (o + 2) 1, owner := fieldAt b (o + 3) 1,
    narrow := bit a 0, buddy := bit a 1, cast := bit a 2, base := fieldAt b (o + 8) 8, size := fieldAt b (o + 0x10) 8,
    first := [] }

def regionRecs (b : List Byte) : List Region := (List.range (fieldAt b 0 2)).map fun i => regionRec b (8 + 32 * i)

/-- Pages that a region reserves on each pier of its list. -/
def Region.pages (cap : BitVec 32) (r : Region) : Nat :=
  let n := (pierList cap r.kind r.target).length
  if n = 0 then 0 else (r.size / pageSize + n - 1) / n

/-- Pages taken on each pier once a region is placed. -/
def takePages (cap : BitVec 32) (taken : Tab Nat) (r : Region) : Tab Nat :=
  (pierList cap r.kind r.target).foldl (fun t p => Tab.put 0 t p (Tab.get 0 t p + r.pages cap)) taken

/-- Regions in record order, each from the lowest pages that earlier ones have not taken (R198). -/
def placeRegions (cap : BitVec 32) : Tab Nat → List Region → List Region
  | _, [] => []
  | taken, r :: t =>
    let first := taken.filter fun e => (pierList cap r.kind r.target).contains e.1
    { r with first := first } :: placeRegions cap (takePages cap taken r) t

/-- Every pier still holds the pages taken and the staging area's share. -/
def pagesFit (cap : BitVec 32) (taken : Tab Nat) : Bool := taken.all fun e => e.2 + stagePages cap ≤ pierPages

/-- The largest kind 0 region at address 0 that fits (R44, R199). -/
def defaultRegion (cap : BitVec 32) : Region :=
  let n := (kind0Piers cap).length
  { id := 0, kind := 0, target := 0, owner := 0xFF, narrow := true, buddy := false, cast := false, base := 0,
    size := n * (pierPages - stagePages cap) * pageSize / 2 ^ 26 * 2 ^ 26, first := [] }

def mib64 : Nat := 2 ^ 26

/-- One region (R44). (DEDUCED, notes/assumptions/28.md: a BASE + SIZE above 2^41 is reported at SIZE.) -/
def regionCheck (x : Sect) (cap : BitVec 32) (parts : Tab PartCfg) (o : Nat) (r : Region) (before : List Region) (taken : Tab Nat) :
    Option Fail :=
  let l := pierList cap r.kind r.target
  x.need (x.f (o + 4) 4 < 8) bondFormat (o + 4) <|> x.zeros (o + 0x18) 8 <|>
  x.need (before.all fun y => y.id != r.id) bondRange o <|> x.need (r.kind ≤ 2) bondRange (o + 1) <|>
  x.need (if r.kind = 0 then r.target == 0 else if r.kind = 1 then decide (r.target ≤ 3) else decide (r.target ≤ 31)) bondRange
    (o + 2) <|>
  x.need (r.owner == 0xFF || (Tab.find? parts r.owner).isSome) bondRange (o + 3) <|>
  x.need (!r.buddy || before.all fun y => !y.buddy) bondRange (o + 4) <|> x.need (r.base % mib64 == 0) bondRange (o + 8) <|>
  x.need (r.size % mib64 == 0 && r.size != 0 && r.base + r.size ≤ pierSpace) bondRange (o + 0x10) <|>
  x.need (r.base + r.size ≤ stageBase && before.all fun y => r.base + r.size ≤ y.base || y.base + y.size ≤ r.base) bondOverlap
    (o + 8) <|>
  x.need (!l.isEmpty) bondAbsent (o + 2) <|> x.need (pagesFit cap (takePages cap taken r)) bondRange (o + 0x10)

def regionsCheck (x : Sect) (cap : BitVec 32) (parts : Tab PartCfg) : Nat → List Region → Tab Nat → List Region → Option Fail
  | _, _, _, [] => none
  | i, before, taken, r :: t =>
    regionCheck x cap parts (8 + 32 * i) r before taken <|>
    regionsCheck x cap parts (i + 1) (before ++ [r]) (takePages cap taken r) t

def pierCheck (cap : BitVec 32) (parts : Tab PartCfg) (x : Sect) : Option Fail :=
  let n := x.f 0 2
  x.zeros 2 6 <|> x.need (1 ≤ n && n ≤ 256) bondRange 0 <|> x.need (8 + 32 * n ≤ x.len) bondExtent 0 <|>
  x.entry (8 + 32 * n == x.len) bondFormat 8 <|> regionsCheck x cap parts 0 [] [] (regionRecs x.body)

/-! ## ROUTE (R45 to R47) -/

/-- Runs of a ROUTE body from byte `o` on: (offset, FIRST, COUNT), as far as they lie within LENGTH. -/
def routeRuns (b : List Byte) : Nat → Nat → List (Nat × Nat × Nat)
  | 0, _ => []
  | n + 1, o =>
    let c := fieldAt b (o + 4) 4
    (o, fieldAt b o 4, c) :: if o + 8 + 4 * c ≤ b.length then routeRuns b n (o + 8 + 4 * c) else []

/-- The entries of a half: a run's entries at its indices, an entry of zero unlisted. -/
def routeHalf (b : List Byte) : Tab W32 :=
  (routeRuns b (min (fieldAt b 0 4) b.length) 16).flatMap fun (o, f, c) =>
    ((chunks 4 (sliceAt b (o + 8) (4 * c))).zipIdx.map fun (e, i) => (f + i, BitVec.ofNat 32 (leNat e))).filter fun e => e.2 ≠ 0

/-- One entry (R46). -/
def entryCheck (x : Sect) (die : Nat) (fitted : BitVec 10) (o : Nat) : Option Fail :=
  let e := x.f o 4
  let p := bits e 30 27
  if !bit e 31 then none
  else x.need (p != 11 && p != 14 && p != 15) bondFormat o <|> x.need (e % 4096 == 0) bondFormat o <|>
    x.need (p > 9 || ownerDie p == die) bondRange o <|> x.need (p > 9 || fitted.getLsbD p) bondAbsent o

/-- One run (R45). (DEDUCED, notes/assumptions/28.md: a FIRST + COUNT above 2^20 is reported at COUNT, an overlap at FIRST.) -/
def runCheck (x : Sect) (die : Nat) (fitted : BitVec 10) (r : Nat × Nat × Nat) (before : List (Nat × Nat × Nat)) : Option Fail :=
  let (o, f, c) := r
  let l := before.filter fun y => y.2.2 != 0
  x.need (o + 8 ≤ x.len) bondExtent 0 <|> x.need (f < 2 ^ 20) bondFormat o <|>
  x.need (o + 8 + 4 * c ≤ x.len) bondExtent (o + 4) <|>
  x.need (f + c ≤ 2 ^ 20) bondExtent (o + 4) <|>
  x.need (c == 0 || l.all fun y => !rangesMeet f c y.2.1 y.2.2) bondOverlap o <|>
  x.need (c == 0 || l.all fun y => y.2.1 < f) bondFormat o <|>
  (List.range c).findSome? fun i => entryCheck x die fitted (o + 8 + 4 * i)

/-- ROUTE. (DEDUCED, notes/assumptions/28.md: its count comes before its reserved bytes; a run whose header lies past
LENGTH fails at RUN_COUNT; what is left over is found last.) -/
def routeCheck (fitted : BitVec 10) (x : Sect) : Option Fail :=
  let n := x.f 0 4
  let rs := routeRuns x.body (min n x.len) 16
  let used := match rs.getLast? with | some (o, _, c) => o + 8 + 4 * c | none => 16
  x.need (16 + 8 * n ≤ x.len) bondExtent 0 <|> x.zeros 4 12 <|>
  (rs.zipIdx.findSome? fun (r, i) => runCheck x (x.inst / 2) fitted r (rs.take i)) <|>
  x.entry (used == x.len) bondFormat 8

/-! ## SLICE, AXES, COLL (R48 to R50) -/

def sliceOf (b : List Byte) : Slice :=
  { sliceId := BitVec.ofNat 14 (fieldAt b 0 2), role := fieldAt b 2 1, physW := fieldAt b 3 1,
    nodeId := BitVec.ofNat 17 (fieldAt b 4 4), extW := fieldAt b 8 1, extX := fieldAt b 9 1, extY := fieldAt b 10 1,
    extZ := fieldAt b 11 1, initEpoch := fieldAt b 12 1 == 1, freezeWave := bit (fieldAt b 13 1) 0,
    expect := (List.range 10).map fun p => BitVec.ofNat 32 (fieldAt b (0x10 + 4 * p) 4) }

/-- A node lies in a slice. -/
def Slice.has (l : Slice) (n : Nat) : Bool :=
  ((coords n).zip [l.extW, l.extX, l.extY, l.extZ]).all fun (a, b) => decide (a < b)

/-- The checks of a SLICE body (R48); `limit` is the licensed number of modules, where that is tested (R68). That EXPECT of a
port that is not fitted may be PRESENT is the model's reading (notes/assumptions/28.md). -/
def sliceCheck (limit : Option Nat) (part : Nat) (x : Sect) : Option Fail :=
  let l := sliceOf x.body
  let n := (l.extW + 1) * l.extX * l.extY * l.extZ
  let inRange := l.extX ≤ 32 && l.extY ≤ 32 && l.extZ ≤ 16
  x.need (x.f 0 2 ≤ 0x3FFE) bondRange 0 <|> x.need (l.role ≤ 1) bondRange 2 <|> x.need (l.physW ≤ 8) bondRange 3 <|>
  x.need (l.role == 1 || x.f 4 4 < 2 ^ 17) bondFormat 4 <|> x.need (l.role == 1 || l.has l.nodeId.toNat) bondRange 4 <|>
  x.need (1 ≤ l.extW && l.extW ≤ 8) bondRange 8 <|> x.need (!inRange || limit.all fun k => n ≤ k) bondUnlicensed 8 <|>
  x.need (1 ≤ l.extX && l.extX ≤ 32) bondRange 9 <|> x.need (part != 2 || l.extX ≤ 1) bondAbsent 9 <|>
  x.need (1 ≤ l.extY && l.extY ≤ 32) bondRange 10 <|> x.need (part != 2 || l.extY ≤ 1) bondAbsent 10 <|>
  x.need (1 ≤ l.extZ && l.extZ ≤ 16) bondRange 11 <|> x.need (part != 2 || l.extZ ≤ 1) bondAbsent 11 <|>
  x.need (x.f 12 1 ≤ 1) bondRange 12 <|> x.need (x.f 13 1 ≤ 1) bondFormat 13 <|> x.zeros 14 2 <|>
  ((List.range 10).findSome? fun p => x.need (bits (x.f (0x10 + 4 * p) 4) 30 17 == 0) bondFormat (0x10 + 4 * p)) <|>
  x.zeros 0x38 8

def axesCheck (x : Sect) : Option Fail :=
  ((List.range 4).findSome? fun i =>
    x.need (x.f i 1 ≤ 3 && (List.range i).all fun j => x.f j 1 != x.f i 1) bondRange i) <|> x.zeros 4 4

def collCheck (x : Sect) : Option Fail :=
  x.need (1000 ≤ x.f 0x10 4 && x.f 0x10 4 ≤ 1000000) bondRange 0x10 <|> x.zeros 0x14 12

/-! ## CAST (R51, R52) -/

def castOf (b : List Byte) : CastCfg :=
  { sendEn := bit (fieldAt b 0 4) 31, sendTo := fieldAt b 0 4 % 2 ^ 17, sendFeed := fieldAt b 4 1, tc3Share := fieldAt b 5 1,
    holdEn := bit (fieldAt b 8 4) 31, holdFor := fieldAt b 8 4 % 2 ^ 17, holdFeed := fieldAt b 12 1,
    holdState := fieldAt b 0x10 8 }

def gib512 : Nat := 2 ^ 39

/-- The limits on the cast regions and the buddy region (R51). -/
def castFits (cap : BitVec 32) (rs : List Region) : Bool :=
  let t := ((rs.filter (·.cast)).map (·.size)).sum
  let b := ((rs.filter (·.buddy)).map (·.size)).sum
  decide (t ≤ gib512) && decide (t + b ≤ (kind0Piers cap).length * pierPages * pageSize)

/-- A breach of those limits: it names the CAST section, when the image carries one, and no field. -/
def castSpace (cap : BitVec 32) (rs : List Region) (l : List Sect) : Option Fail :=
  if castFits cap rs then none
  else some { code := bondCastSpace, sect := ((sectOf l secCast).map (·.idx)).getD 0xFFFF, off := 0 }

/-- The declared feed of an enabled partner `n` is one the module may use (R52): both feeds are known and differ, and no
neighbour that is the partner reports another. -/
def State.feedOk (s : State) (l : Slice) (n feed : Nat) : Bool :=
  s.gen.feedId != 0xF && feed != 0xF && feed != s.gen.feedId.toNat &&
  (List.range 10).all fun p => match (s.port p).nbr with
    | none => true
    | some h =>
      let e := (l.expect.getD p 0).toNat
      let is := bit e 31 && e % 2 ^ 17 == n || h.node.getLsbD 31 && h.node.toNat % 2 ^ 17 == n
      !is || h.feed.toNat == feed

/-- CAST. (DEDUCED, notes/assumptions/28.md: the node of a partner that is not enabled is not tested for the slice.) -/
def State.castCheck (s : State) (rs : List Region) (l : Slice) (x : Sect) : Option Fail :=
  let c := castOf x.body
  let buddy := rs.find? (·.buddy)
  x.need (bits (x.f 0 4) 30 17 == 0) bondFormat 0 <|> x.need (!c.sendEn || l.has c.sendTo) bondRange 0 <|>
  x.need (c.sendFeed ≤ 15) bondRange 4 <|> x.need (!c.sendEn || s.feedOk l c.sendTo c.sendFeed) bondFeed 4 <|>
  x.need (10 ≤ c.tc3Share && c.tc3Share ≤ 90) bondRange 5 <|> x.zeros 6 2 <|>
  x.need (bits (x.f 8 4) 30 17 == 0) bondFormat 8 <|> x.need (!c.holdEn || (l.has c.holdFor && buddy.isSome)) bondRange 8 <|>
  x.need (c.holdFeed ≤ 15) bondRange 0x0C <|> x.need (!c.holdEn || s.feedOk l c.holdFor c.holdFeed) bondFeed 0x0C <|>
  x.zeros 0x0D 3 <|> x.need (c.holdState ≤ gib512 && buddy.all fun b => 2 * c.holdState ≤ b.size) bondCastSpace 0x10 <|>
  x.zeros 0x18 8

/-! ## RESHARD (R55, R56) -/

def planOf (b : List Byte) : Plan :=
  { id := BitVec.ofNat 32 (fieldAt b 0 4),
    records := (List.range (fieldAt b 4 4)).map fun i =>
      let o := 16 + 32 * i
      (fieldAt b o 8, fieldAt b (o + 8) 8, fieldAt b (o + 16) 8, fieldAt b (o + 24) 4 % 2 ^ 17) }

def State.moveCheck (s : State) (x : Sect) (o : Nat) : Option Fail :=
  let a := x.f o 8
  let n := x.f (o + 16) 8
  let r := s.regionAt a
  x.need (n == 0 || r.any fun y => y.owner == x.inst || y.owner == 0xFF) bondRange o <|>
  x.need (n == 0 || r.any fun y => a + n ≤ y.base + y.size) bondExtent (o + 16) <|>
  x.need (x.f (o + 24) 4 < 2 ^ 17) bondFormat (o + 24) <|>
  x.need (s.cfg.slice.has (x.f (o + 24) 4)) bondRange (o + 24) <|> x.zeros (o + 28) 4

/-- A RESHARD section (R55). (DEDUCED, notes/assumptions/28.md: TOO_LARGE at LENGTH is found before RANGE at INSTANCE.) -/
def State.reshardCheck (s : State) (x : Sect) : Option Fail :=
  let n := x.f 4 4
  x.entry (x.len ≤ 2 ^ 23) bondTooLarge 8 <|> x.entry (s.partCfg x.inst).isSome bondRange 2 <|>
  x.entry (!(s.part x.inst).planLock) bondBusy 2 <|> x.need (x.f 0 4 != 0) bondRange 0 <|>
  x.need (16 + 32 * n ≤ x.len) bondExtent 4 <|> x.zeros 8 8 <|> x.entry (16 + 32 * n == x.len) bondFormat 8 <|>
  (List.range n).findSome? fun i => s.moveCheck x (16 + 32 * i)

/-! ## The configuration that an image spells -/

/-- What a full image gives for each section it does not carry (R38 to R52). -/
def State.defaultCfg (s : State) : Cfg :=
  { Cfg.reset with
    courseEn := s.gen.capCourses,
    engMask := ((List.range 64).filter fun c => s.gen.capCourses.getLsbD c).map fun c => (c, 0xFFFFFFFF),
    thresh := [262144, 262144, 262144, 262144], axes := [0, 1, 2, 3],
    slice := { Slice.reset with expect := List.replicate 10 0 },
    regions := placeRegions s.gen.capPiers [] [defaultRegion s.gen.capPiers] }

/-- The default partition holds every enabled course (R38). -/
def defaultPart (en : BitVec 64) : PartCfg :=
  { hostPort := 0, offloadWin := 0, courseMask := en, ctxFirst := 0, ctxCount := 1024, slotFirst := 0, slotCount := 128 }

/-- AXES and COLL of an image over a configuration. -/
def withThresholds (l : List Sect) (c : Cfg) : Cfg :=
  let c := match sectOf l secAxes with
    | some x => { c with axes := (List.range 4).map fun i => x.f i 1 }
    | none => c
  match sectOf l secColl with
  | some x => { c with thresh := (List.range 4).map fun i => BitVec.ofNat 32 (x.f (4 * i) 4), progressUs := x.f 0x10 4 }
  | none => c

/-- The configuration of a full image. -/
def State.fullCfg (s : State) (l : List Sect) : Cfg :=
  let c := withThresholds l s.defaultCfg
  let c := match sectOf l secEnable with
    | some x => { c with courseEn := (enableOf x.body).1, engMask := (enableOf x.body).2 }
    | none => c
  let c := match sectOf l secPart with
    | some x => { c with ownerPort := x.f 0 1, parts := (partRecs x.body).foldl (fun t (r : Nat × PartCfg) => Tab.set t r.1 r.2) [] }
    | none => { c with parts := [(0, defaultPart c.courseEn)] }
  let c := match sectOf l secClock with
    | some x => { c with capW := capOf x.body, courseClk := (List.range 8).map fun p => x.f (8 + p) 1, classes := classesOf x.body }
    | none => c
  let c := match sectOf l secWake with
    | some x => { c with modPer := x.f 0 1, diePer := x.f 1 1, deepGap := x.f 2 1 }
    | none => c
  let c := match sectOf l secPier with
    | some x => { c with regions := placeRegions s.gen.capPiers [] (regionRecs x.body) }
    | none => c
  let c := match sectOf l secSync with
    | some x => { c with flagSysBase := x.f 0 1 }
    | none => c
  let c := match sectOf l secHod with
    | some x => { c with hod := c.parts.map fun (e : Nat × PartCfg) => (e.1, hodRec x.body e.1) }
    | none => { c with hod := c.parts.map fun (e : Nat × PartCfg) => (e.1, hodDefault) }
  let c := match sectOf l secSlice with
    | some x => { c with slice := sliceOf x.body }
    | none => c
  let c := match sectOf l secCast with
    | some x => { c with cast := castOf x.body }
    | none => c
  { c with applied := true }

/-! ## The checks of BU9 and of a partial apply (R58, R62) -/

/-- The sections of a type, in table order, each with a check. -/
def eachOf (l : List Sect) (t : Nat) (f : Sect → Option Fail) : Option Fail := (l.filter fun x => x.typ == t).findSome? f

/-- PORT_MASK of READY names only fitted ports (R54). -/
def readyPorts (fitted : BitVec 10) (x : Sect) : Option Fail := x.need (x.f 2 2 &&& fitted.toNat == x.f 2 2) bondAbsent 2

/-- The checks of a full image at BU9. -/
def State.fullCheck (s : State) (l : List Sect) : Option Fail :=
  let c := s.fullCfg l
  let cap := s.gen.capPiers
  let lic := s.gen.capLic
  eachOf l secReady (readyPorts s.gen.capPorts) <|> eachOf l secEnable (enableCheck s.gen.capCourses lic) <|>
  eachOf l secPart (partCheck c.courseEn (lic.getLsbD 3)) <|> eachOf l secClock clockCheck <|> eachOf l secWake wakeCheck <|>
  eachOf l secPier (pierCheck cap c.parts) <|> eachOf l secSync (syncCheck c.parts) <|> eachOf l secHod (hodCheck c.parts) <|>
  eachOf l secSlice (sliceCheck (sliceLimit lic) s.gen.part) <|> eachOf l secRoute (routeCheck s.gen.capPorts) <|>
  eachOf l secAxes axesCheck <|> eachOf l secColl collCheck <|> castSpace cap c.regions l <|>
  eachOf l secCast (s.castCheck c.regions c.slice)

/-- The half that a ROUTE section loads may be loaded: FREE, or taken for this very image (R63, R284). -/
def State.halfLoadable (s : State) (ep : Bool) : Bool := s.half ep == .free || s.half ep == .loading

/-- The SLICE section of a spare adoption (R66): its fields in offset order. Each but ROLE and NODE_ID equals the applied one, which
the checks of R48 have passed; ROLE turns from 1 into 0, NODE_ID lies in the slice, and reserved bits are zero. -/
def sliceAdopts (old : Slice) (x : Sect) : Option Fail :=
  let l := sliceOf x.body
  x.need (x.f 0 2 == old.sliceId.toNat) bondRange 0 <|> x.need (old.role == 1 && l.role == 0) bondRange 2 <|>
  x.need (l.physW == old.physW) bondRange 3 <|>
  x.need (x.f 4 4 < 2 ^ 17) bondFormat 4 <|> x.need (l.has l.nodeId.toNat) bondRange 4 <|>
  x.need (l.extW == old.extW) bondRange 8 <|> x.need (l.extX == old.extX) bondRange 9 <|>
  x.need (l.extY == old.extY) bondRange 10 <|> x.need (l.extZ == old.extZ) bondRange 11 <|>
  x.need (x.f 12 1 == b2n old.initEpoch) bondRange 12 <|> x.need (l.freezeWave == old.freezeWave) bondRange 13 <|>
  x.need (x.f 13 1 ≤ 1) bondFormat 13 <|> x.zeros 14 2 <|>
  ((List.range 10).findSome? fun p =>
    let v := x.f (0x10 + 4 * p) 4
    let w := (old.expect.getD p 0).toNat
    x.need (v % 2 ^ 17 == w % 2 ^ 17 && bit v 31 == bit w 31) bondRange (0x10 + 4 * p) <|>
    x.need (bits v 30 17 == 0) bondFormat (0x10 + 4 * p)) <|>
  x.zeros 0x38 8

/-- Spare adoption (R66): a SLICE section that fits, and ROUTE sections for the half that the next FLIP makes ACTIVE, on all four
dies and no other. (DESIGN CHOICE, notes/assumptions/28.md: wrong or missing ROUTE sections name the SLICE entry and byte 0 of its
body.) -/
def State.adoptionOk (s : State) (l : List Sect) (x : Sect) : Option Fail :=
  let r := l.filter fun y => y.typ == secRoute
  let ep := !s.rte.inj
  sliceAdopts s.cfg.slice x <|>
  x.need (s.halfLoadable ep && r.all (fun y => y.inst % 2 == b2n ep) &&
    (List.range 4).all fun d => r.any fun y => y.inst / 2 == d) bondRange 0

/-- The checks of a partial image; of a SLICE section, those of R66 alone. (DEDUCED, notes/assumptions/28.md: a CAST section without a SLICE section is RANGE at byte 0 of its body.) -/
def State.partialCheck (s : State) (l : List Sect) : Option Fail :=
  let adopts := (sectOf l secSlice).isSome
  let slice := ((sectOf l secSlice).map fun x => sliceOf x.body).getD s.cfg.slice
  eachOf l secSlice (s.adoptionOk l) <|>
  eachOf l secRoute (fun x => x.entry (s.halfLoadable (x.inst % 2 == 1)) bondEpochBusy 2 <|> routeCheck s.gen.capPorts x) <|>
  eachOf l secAxes axesCheck <|> eachOf l secColl collCheck <|>
  eachOf l secCast (fun x => x.need adopts bondRange 0 <|> s.castCheck s.cfg.regions slice x) <|>
  eachOf l secReshard s.reshardCheck

end Sys2Proof.Machine
end

