-- ==== Sys2Proof/Machine/Bond.lean ====
section
/-!
DEFINITION. Submission, staging and application of bond images (R24 to R35, R57 to R67).
-/
namespace Sys2Proof.Machine

/-! ## The BOND registers of a port (R25) -/

def State.bondPort (s : State) (h : Nat) : BondPort := Tab.get BondPort.reset s.bond.ports h

def State.setBondPort (s : State) (h : Nat) (x : BondPort) : State :=
  { s with bond := { s.bond with ports := Tab.put BondPort.reset s.bond.ports h x } }

/-- STATE, with CODE, SECTION and OFFSET as they read when nothing is refused. -/
def State.bondState (s : State) (h : Nat) (st : BondState) : State :=
  s.setBondPort h { s.bondPort h with st := st, code := 0, section_ := 0xFFFF, errOff := 0 }

/-- STATE becomes REFUSED. -/
def State.refuse (s : State) (h : Nat) (f : Fail) : State :=
  s.setBondPort h { s.bondPort h with
    st := .refused, code := BitVec.ofNat 8 f.code, section_ := BitVec.ofNat 16 f.sect, errOff := BitVec.ofNat 32 f.off }

def State.refuseCode (s : State) (h code : Nat) : State := s.refuse h { code := code, sect := 0xFFFF, off := 0 }

/-- A submission runs: in FETCH, VERIFY or APPLY. -/
def BondPort.runs (x : BondPort) : Bool := x.st == .fetch || x.st == .verify || x.st == .apply

/-- SEQ of an image. -/
def imgSeq (img : List Byte) : Nat := fieldAt img 0x18 8

/-! ## GO (R27 to R29) -/

/-- The fetch reads the image once the port may be used, and once (R394). -/
def State.bondRead (s : State) (h : Nat) : State :=
  let x := s.bondPort h
  if x.st == .fetch && !x.sent && s.hostUsable h then
    (s.hostReads h x.goSrc x.goLen).setBondPort h { x with sent := true }
  else s

def State.bondGo (s : State) (h : Nat) : State :=
  let s := s.emptyLatch (portReq h)
  let x := s.bondPort h
  if !s.writable || x.runs then s
  else if (s.bondPort (1 - h)).runs then s.refuseCode h bondBusy
  else if x.len = 0 then s.bondState h .done
  else if !s.fullAllowed && !s.ready then s.refuseCode h bondStage
  else if x.len.toNat > 2 ^ 26 then s.refuseCode h bondTooLarge
  else
    let s := s.bondState h .fetch
    (s.setBondPort h { s.bondPort h with goSrc := x.src, goLen := x.len.toNat, sent := false }).bondRead h

/-! ## BU8 with a staged image (R57) -/

/-- BU8 starts to run: from its wait, or again after a failure of BU8 or BU9. (DEDUCED, notes/assumptions/28.md: BOND_STATUS of
the staging port keeps the outcome of a later submission of the same port.) -/
def State.startBu8 (s : State) : State :=
  let again := s.bu.st == .failed
  { s with bu := { s.bu with
    stage := 8, st := .running, attempt := if again then s.bu.attempt + 1 else s.bu.attempt,
    stageStart := if again then s.gen.time else s.bu.stageStart,
    linkFail := 0, soaked := 0, soaking := false, worstPort := 0, worstErrs := 0, worstBits := 0 } }

/-- An accepted full image is staged, or gives way to the one staged (R33, R60); BU8 runs with it (R57). -/
def State.stageImage (s : State) (h : Nat) (img : List Byte) : State :=
  let put (s : State) : State :=
    let s := ({ s with bond := { s.bond with staged := some (h, img) } }).bondState h .staged
    let s := s.storeLoc (.pier stageBase) img
    if s.bu.stage ≥ 8 then s.startBu8 else s
  match s.bond.staged with
  | none => put s
  | some (g, old) =>
    if imgSeq img ≤ imgSeq old then s.refuse h { code := bondStale, sect := 0xFFFF, off := 0x18 }
    else if g ≠ h then put (s.refuseCode g bondSuperseded)
    else put s

/-- A write of BOND_CTRL.RERUN (R57). -/
def State.rerun (s : State) (h : Nat) : State :=
  let s := s.emptyLatch (portReq h)
  if !s.writable || s.bu.stage ≠ 8 || s.bu.st != .failed || s.bond.staged.isNone then s else s.startBu8

/-! ## The end of a fetch (R29) -/

/-- Halves that ROUTE sections name are LOADING while the image is applied (R284). -/
def State.markLoading (s : State) (l : List Sect) (was now : Half) : State :=
  (l.filter fun x => x.typ == secRoute).foldl (fun s x =>
    let ep := x.inst % 2 == 1
    if s.half ep == was then s.setHalf ep now else s) s

/-- An accepted partial image goes to APPLY. -/
def State.startApply (s : State) (h : Nat) (img : List Byte) : State :=
  let s := ({ s with bond := { s.bond with applying := some (h, img) } }).bondState h .apply
  (s.storeLoc (.pier stageBase) img).markLoading (sections img) .free .loading

/-- The reads of a fetch end: they have been issued, and what has become of the port since does not call them back
(R394). -/
def State.bondFetched (s : State) (h : Nat) (r : HostResult) : State :=
  let x := s.bondPort h
  if x.st != .fetch || !x.sent || s.frz.frozen || s.waits h r then s
  else match r with
    | .error | .timeout => (s.refuseCode h bondFetch).logRead h r
    | .data img =>
      if img.length ≠ x.goLen then s
      else match s.acceptCheck h img with
        | some f => s.refuse h f
        | none => if fieldAt img 0x0E 1 = 0 then s.stageImage h img else s.startApply h img

/-! ## Applying (R24, R35, R59, R62) -/

/-- BOND_ACTIVE_SEQ, the high-water mark and the measurement after an image is applied. -/
def State.bondApplied (s : State) (img meas : List Byte) : State :=
  let q := BitVec.ofNat 64 (imgSeq img)
  { s with bond := { s.bond with activeSeq := q, highWater := q, meas := meas } }

/-- One half of one die's table is loaded. -/
def State.loadHalf (s : State) (i : Nat) (t : Tab W32) : State :=
  s.modRte fun r => { r with routes := Tab.put [] r.routes i t }

/-- The sections of a partial image, in the order of R59. (DEDUCED, notes/assumptions/28.md: one without a SLICE keeps an adoption
that waits for the flip.) -/
def State.applySections (s : State) (l : List Sect) : State :=
  let s := match sectOf l secSlice with
    | none => s
    | some x =>
      let a : Adoption := { nodeId := (sliceOf x.body).nodeId, cast := (sectOf l secCast).map fun (y : Sect) => castOf y.body,
                            half := !s.rte.inj }
      { s with cfg := { s.cfg with adopt := some a } }
  let s := (l.filter fun x => x.typ == secRoute).foldl (fun s x => s.loadHalf x.inst (routeHalf x.body)) s
  let s := { s with cfg := withThresholds l s.cfg }
  (l.filter fun x => x.typ == secReshard).foldl (fun s x => s.modPart x.inst fun p => { p with plan := some (planOf x.body) }) s

/-- The accepted partial image of port `h` is checked and applied (R62). -/
def State.applyPartial (s : State) (h : Nat) : State :=
  match s.bond.applying with
  | none => s
  | some (g, img) =>
    if g ≠ h || !s.live then s
    else
      let l := sections img
      let f := s.partialCheck l
      let s := { s with bond := { s.bond with applying := none } }
      match f with
      | some f => (s.markLoading l .loading .free).refuse h f
      | none =>
        let s := (s.applySections l).markLoading l .loading .free
        let s := s.bondApplied img (shake256 (s.bond.meas ++ shake256 img 32) 32)
        s.bondState h .done

/-- The engines that ENABLE enables may choose items. -/
def State.enableEngines (s : State) : State :=
  (List.range 2048).foldl (fun s e => if s.engEnabled e then s.modEng e fun x => { x with act := .idle } else s) s

/-- Courses that ENABLE leaves disabled are held at Q5 (R360); an enabled one that sleeps shows clock 0 until its exit
(R389). -/
def State.enableCourses (s : State) : State :=
  (List.range 64).foldl (fun s c =>
    if s.cfg.courseEn.getLsbD c then
      (s.modCrs c fun y => { y with enabled := true }).modDom c fun x => { x with mhz := if x.level ≤ 1 then s.domMhz c else 0 }
    else s.modDom c fun x => { Dom.reset with held := true, wakes := x.wakes }) s

/-- Keystone lines take their owner and reach (R43). -/
def State.assignKeys (s : State) (l : List Sect) : State :=
  (List.range 16).foldl (fun s k =>
    let (w, r, d) := match sectOf l secSync with
      | some x => syncKey x.body k
      | none => (0, 1, 0)
    s.modKey k fun y => { y with owner := w, reach := r, die := d }) s

/-- The sections of a full image, in the order of R59. -/
def State.applyFull (s : State) (l : List Sect) : State :=
  let s := { s with cfg := s.fullCfg l }
  let s := s.enableEngines.enableCourses
  let s := { s with pwr := { s.pwr with capW := s.cfg.capW, ft := 16 } }
  let s := s.assignKeys l
  let s := (List.range 8).foldl (fun s i =>
    s.loadHalf i (((l.find? fun x => x.typ == secRoute && x.inst == i).map fun (x : Sect) => routeHalf x.body).getD [])) s
  let ep := s.cfg.slice.initEpoch
  let s := ((s.modRte fun r => { r with inj := ep }).setHalf ep .active).setHalf (!ep) .free
  let s := s.noteHalves
  { s with ckp := { s.ckp with completions := max (s.compSeq 0) (s.compSeq 1) } }

def execGo (port : Nat) (s : State) : Host.Outcome State Fault Refusal :=
  guarded (isHost port) (s.bondGo port)

def execBondFetchDone (port : Nat) (r : HostResult) (s : State) : Host.Outcome State Fault Refusal :=
  guarded (isHost port) (s.bondFetched port r)

def execPartialImageApply (port : Nat) (s : State) : Host.Outcome State Fault Refusal :=
  guarded (isHost port) (s.applyPartial port)

def execRerun (port : Nat) (s : State) : Host.Outcome State Fault Refusal :=
  guarded (isHost port) (s.rerun port)

end Sys2Proof.Machine
end

