-- ==== Sys2Proof/Machine/Discovery.lean ====
section
/-!
DEFINITION. HELLO flits, discovered coordinates and conflicts (R381 to R385), and link soaks (R387, R388).
-/
namespace Sys2Proof.Machine

/-! ## HELLO flits (R381) -/

/-- The HELLO flit that port `p` sends. -/
def State.helloOf (s : State) (p : Nat) : Hello :=
  let b := s.bu
  let x := s.port p
  { port := BitVec.ofNat 8 p,
    flags := BitVec.ofNat 8 (packBits [(0, b2n b.coordValid), (1, b2n b.isOrigin), (2, b2n b.conflict), (3, b2n s.ready),
      (4, b2n x.soak.isSome)]),
    feed := s.gen.feedId, stage := BitVec.ofNat 4 b.stage, serial := s.gen.serial,
    fp := (s.sec.fp ++ List.replicate 16 0).take 16,
    caps := BitVec.ofNat 32 (packBits [(0, s.gen.capPorts.toNat), (10, b2n x.halfWidth)]),
    coord := b.coord.zeroExtend 32, ring := b.coordRing.zeroExtend 32,
    node := BitVec.ofNat 32 (s.cfg.slice.nodeId.toNat + if s.ready && s.cfg.slice.role == 0 then 2 ^ 31 else 0),
    sliceId := s.cfg.slice.sliceId.zeroExtend 16, soakMs := BitVec.ofNat 32 ((x.soak.map (·.ms)).getD 0) }

/-- An UP port sends a HELLO flit. -/
def State.helloSend (s : State) (p : Nat) : State :=
  if !s.portsOn || (s.port p).st ≠ .up then s else s.sendCtrl p (.hello p (s.helloOf p))

/-! ## Coordinates (R383) -/

/-- Lowest bit and width of each field of a coordinate word, W, X, Y, Z; and of a ring word. -/
def coordFields : List (Nat × Nat) := [(0, 4), (4, 5), (9, 5), (14, 4)]
def ringFields : List (Nat × Nat) := [(0, 4), (4, 6), (10, 6), (16, 5)]

/-- The coordinate of a word on axis `a`, and the ring size. -/
def coordOn (w a : Nat) : Nat := let f := coordFields.getD a (0, 0); w / 2 ^ f.1 % 2 ^ f.2
def ringOn (w a : Nat) : Nat := let f := ringFields.getD a (0, 0); w / 2 ^ f.1 % 2 ^ f.2

/-- Axis of a port (0 W, 1 X, 2 Y, 3 Z) and its signed step. -/
def portAxis (p : Nat) : Nat := if p < 4 then 0 else p / 2 - 1
def portStep (p : Nat) : Int := (if p = 2 ∨ p = 3 then 2 else 1) * if p % 2 = 0 then 1 else -1

/-- The coordinate word of four coordinates. -/
def coordWord (c : Nat → Nat) : Nat :=
  ((List.range 4).map fun a => let f := coordFields.getD a (0, 0); c a % 2 ^ f.2 * 2 ^ f.1).sum

/-- The coordinates that a HELLO on port `p` gives. -/
def derivedCoord (p : Nat) (coord ring : Nat) : Nat :=
  let a := portAxis p
  coordWord fun i =>
    if i = a then ((coordOn coord a : Int) - portStep p).emod (ringOn ring a) |>.toNat else coordOn coord i

/-- Coordinates become known; BU7 no longer waits for them. -/
def State.takeCoord (s : State) (coord ring : Nat) : State :=
  { s with bu := { s.bu with
    coord := BitVec.ofNat 18 coord, coordRing := BitVec.ofNat 21 ring, coordValid := true,
    st := if s.bu.stage = 7 ∧ s.bu.st = .waitOrigin then .running else s.bu.st } }

/-! ## Conflicts (R384) -/

/-- The first conflict is recorded. -/
def State.noteConflict (s : State) (kind port : Nat) : State :=
  if s.bu.conflict then s
  else { s with bu := { s.bu with conflict := true, conflictKind := kind, conflictPort := port } }

/-- The first kind of conflict that a HELLO on port `p` shows; 0 for none. -/
def State.conflictOf (s : State) (p : Nat) (h : Hello) : Nat :=
  if h.port.toNat ≠ p ^^^ 1 then 1
  else if h.ring.toNat ≠ s.bu.coordRing.toNat then 2
  else if derivedCoord p h.coord.toNat h.ring.toNat ≠ s.bu.coord.toNat then 3
  else if h.serial = s.gen.serial then 4
  else 0

/-- A HELLO with COORD_VALID gives coordinates, or is checked against those the module has. -/
def State.helloCoord (s : State) (p : Nat) (h : Hello) : State :=
  if !h.flags.getLsbD 0 || s.bu.skipped then s
  else
    let s := if s.bu.coordValid then s else s.takeCoord (derivedCoord p h.coord.toNat h.ring.toNat) h.ring.toNat
    let k := s.conflictOf p h
    if k = 0 then s else s.noteConflict k p

/-! ## Link soaks (R387, R388) -/

/-- The port enters TEST; what is queued for it is discarded as for DOWN. -/
def State.enterTest (s : State) (p ms : Nat) : State :=
  (s.portDrop p).modPort p fun x => { x with st := .test, soak := some { ms := ms, failed := false } }

/-- A HELLO with SOAK_REQ: a port that has asked for a soak starts it, and any other joins it with a HELLO of its own. -/
def State.helloSoak (s : State) (p : Nat) (h : Hello) : State :=
  if !h.flags.getLsbD 4 || (s.port p).st ≠ .up then s
  else match (s.port p).soak with
    | some k => s.enterTest p (max k.ms h.soakMs.toNat)
    | none =>
      let s := s.modPort p fun x => { x with soak := some { ms := h.soakMs.toNat, failed := false } }
      (s.sendCtrl p (.hello p (s.helloOf p))).enterTest p h.soakMs.toNat

/-- A HELLO flit arrives on port `p`. -/
def State.hello (s : State) (p : Nat) (h : Hello) : State :=
  if !s.linkOn p then s
  else
    let s := s.modPort p fun x => { x with nbrValid := true, nbr := some h }
    (s.helloCoord p h).helloSoak p h

/-! ## Codewords (R251, R255 to R257) -/

/-- `n` bytes at offset `o` of a flit, little-endian. -/
def flitAt (f : List Byte) (o n : Nat) : Nat := leNat ((f.drop o).take n)

/-- The HELLO flit that 128 bytes are (R381). -/
def helloOfFlit (f : List Byte) : Hello :=
  { port := BitVec.ofNat 8 (flitAt f 2 1), flags := BitVec.ofNat 8 (flitAt f 3 1), feed := BitVec.ofNat 4 (flitAt f 4 1),
    stage := BitVec.ofNat 4 (flitAt f 5 1), serial := BitVec.ofNat 64 (flitAt f 8 8), fp := (f.drop 0x10).take 16,
    caps := BitVec.ofNat 32 (flitAt f 0x20 4), coord := BitVec.ofNat 32 (flitAt f 0x24 4),
    ring := BitVec.ofNat 32 (flitAt f 0x28 4), node := BitVec.ofNat 32 (flitAt f 0x2C 4),
    sliceId := BitVec.ofNat 16 (flitAt f 0x30 2), soakMs := BitVec.ofNat 32 (flitAt f 0x34 4) }

/-- A CTRL or IDLE flit of a received codeword (R256); HEAD and BODY flits are the packets' own commands
(notes/assumptions/7.md), and any other CTRL flit is discarded. -/
def State.flitIn (s : State) (p : Nat) (x : BitVec 2 × List Byte) : State :=
  let f := x.2
  if x.1 = 3 then s.idleFlit p (BitVec.ofNat 32 (flitAt f 0 4)) ((flitAt f 4 1).testBit 0) ((flitAt f 4 1).testBit 1)
  else if x.1 ≠ 2 then s
  else match flitAt f 0 1 with
    | 1 => s.credit p ((List.range 16).map fun v => BitVec.ofNat 16 (flitAt f (4 + 2 * v) 2)) (BitVec.ofNat 10 (flitAt f 2 2))
    | 2 => s.nak p (Config.nakSeqOf f)
    | 3 => s.hello p (helloOfFlit f)
    | _ => s

/-- A codeword arrives on port `p`. One with more than 15 symbols in error is beyond the code. One out of its order is
discarded until a replay reaches the CW_SEQ expected; the flits of one in order are taken. -/
def State.codeword (s : State) (p : Nat) (cw : Codeword) : State :=
  let x := s.port p
  if !s.linkOn p then s
  else if !cw.correctable || cw.symbols > 15 then
    (s.setPort p { x with fecUncorr := satAdd 64 x.fecUncorr 1, rxDiscard := true }).sendNak p
  else
    let x := { x with fecCorr := satAdd 64 x.fecCorr cw.symbols }
    if cw.seq ≠ x.rxExpect then s.setPort p x
    else
      let fs := cw.flits.take 5
      fs.foldl (fun s f => s.flitIn p f) (s.setPort p { x with
        rxExpect := x.rxExpect + 1, rxDiscard := false,
        rxFlits := satAdd 64 x.rxFlits (fs.countP fun t => t.1 = 0 || t.1 = 1) })

/-! ## The host's part in discovery (R382) -/

/-- The DISC registers take writes until BU7 ends. -/
def State.discWrite (s : State) : Bool := s.writable && decide (s.bu.stage ≤ 7) && !(s.bu.stage == 7 && s.bu.st == .failed)

/-- A write of DISC_CTRL.ORIGIN. -/
def State.discOrigin (s : State) (h : Nat) : State :=
  let s := s.emptyLatch (portReq h)
  if !s.discWrite then s
  else
    let c := s.bu.origin.toNat % 2 ^ 18
    let r := s.bu.ring.toNat % 2 ^ 21
    let s := { s with bu := { s.bu with isOrigin := true } }
    if !s.bu.coordValid then s.takeCoord c r
    else if c = s.bu.coord.toNat ∧ r = s.bu.coordRing.toNat then s
    else s.noteConflict 5 0xF

/-- A write of DISC_CTRL.SKIP. -/
def State.discSkip (s : State) (h : Nat) : State :=
  let s := s.emptyLatch (portReq h)
  if !s.discWrite then s
  else { s with bu := { s.bu with
    skipped := true, coordValid := false, coord := 0, coordRing := 0,
    st := if s.bu.stage = 7 ∧ s.bu.st = .waitOrigin then .running else s.bu.st } }

def execCodewordReceive (port : Nat) (cw : Codeword) (s : State) : Host.Outcome State Fault Refusal :=
  guarded (isPort port) (s.codeword port cw)

def execHello (port : Nat) (h : Hello) (s : State) : Host.Outcome State Fault Refusal :=
  guarded (isPort port) (s.hello port h)

def execHelloSend (port : Nat) (s : State) : Host.Outcome State Fault Refusal :=
  guarded (isPort port) (s.helloSend port)

def execOrigin (port : Nat) (s : State) : Host.Outcome State Fault Refusal :=
  guarded (isHost port) (s.discOrigin port)

def execSkip (port : Nat) (s : State) : Host.Outcome State Fault Refusal :=
  guarded (isHost port) (s.discSkip port)

end Sys2Proof.Machine
end

