-- ==== Sys2Proof/Machine/BringUp.lean ====
section
/-!
DEFINITION. Bring-up stages BU1 to BU9 (R377 to R389, R424 to R432, R114, R200, R57 to R60). The test and training
results of a stage are the command's operands.
-/
namespace Sys2Proof.Machine

/-- Stage `n` runs. -/
def State.stageRuns (s : State) (n : Nat) : Bool :=
  s.pwr.seq == .on && !s.frz.frozen && s.bu.stage == n && s.bu.st == .running

/-- A stage passes, and the next begins. -/
def State.stagePass (s : State) (n result : Nat) (detail : List Nat) : State :=
  (s.stageRecord n result detail).beginStage (n + 1) .running

/-- Low and high half of a number as detail words. -/
def halves (v : Nat) : List Nat := [v % 2 ^ 32, v / 2 ^ 32 % 2 ^ 32]

/-! ## What each part has fitted (R5, R6, R253) -/

def partPorts (part : Nat) : BitVec 10 := if part = 2 then 0x00F else 0x3FF
def partPiers (part : Nat) : BitVec 32 := if part = 1 then 0x3F3F3F3F else 0xFFFFFFFF

/-- A domain starts at Q0. -/
def State.startDom (s : State) (d : Nat) : State :=
  s.modDom d fun x => { Dom.reset with level := 0, mhz := s.domMhz d, wakes := x.wakes }

/-- A domain is held at Q5 (R360). -/
def State.holdDom (s : State) (d : Nat) : State := s.modDom d fun x => { Dom.reset with held := true, wakes := x.wakes }

/-! ## BU1 (R432, R377, R378) -/

/-- The firmware slot that the boot ROM runs. -/
def State.bootSlot (s : State) : Option (Nat × List Byte) :=
  if s.fwRuns s.sec.slotA then some (0, s.sec.slotA) else if s.fwRuns s.sec.slotB then some (1, s.sec.slotB) else none

/-- What BU1 starts, whatever its outcome. -/
def State.bu1Units (s : State) (l0 l1 : Bool) : State :=
  let s := [90, 91, 97, 98].foldl State.startDom s
  let s := { s with gen := { s.gen with capPorts := partPorts s.gen.part } }
  let s := (List.range 10).foldl (fun s p =>
    s.modPort p fun x => { x with fitted := (partPorts s.gen.part).getLsbD p }) s
  (s.modHost 0 fun x => { x with linkUp := l0 && !x.perst }).modHost 1 fun x => { x with linkUp := l1 && !x.perst }

def State.bu1 (s : State) (l0 l1 : Bool) : State :=
  if !s.stageRuns 1 then s
  else
    let s := s.bu1Units l0 l1
    let links := b2n (s.host 0).linkUp + 2 * b2n (s.host 1).linkUp
    match s.bootSlot with
    | none =>
      let code := if s.fwValid s.sec.slotA || s.fwValid s.sec.slotB then 0x11 else 0x10
      let s := s.appendRecord 1 code s.bu.stageStart false [0, 0, s.sec.arb.toNat, links]
      { s with bu := { s.bu with st := .failed } }
    | some (i, b) =>
      let s := { s with
        gen := { s.gen with fw := BitVec.ofNat 32 (fwVersion b) },
        sec := { s.sec with runSlot := i, mFw := shake256 (b.take (fieldAt b 0x0C 4)) 32 } }
      s.stagePass 1 0 [i, fwVersion b, s.sec.arb.toNat, links]

/-! ## BU2 (R424, R425, R427, R429) -/

/-- The identity that the corrected bits give, when it is the one the newest DEVCERT binds. -/
def State.identity (s : State) (bits : Option (List Byte)) : Option (List Byte × List Byte × List Byte) :=
  match bits, s.newestRec 2 (fun _ => true), s.newestRec 1 fun _ => true with
  | some b, some _, some cert =>
    let seed := shake256 (b ++ ascii "HT4-IDSEED") 57
    let pub := edPublic seed
    if pub = sliceAt cert 72 57 ∧ fieldAt cert 64 1 = s.gen.part then some (seed, pub, cert) else none
  | _, _, _ => none

/-- BU2. A failure erases the seed, the private key and the block key (R425). -/
def State.bu2 (s : State) (bits : Option (List Byte)) : State :=
  if !s.stageRuns 2 then s
  else match s.identity bits with
    | none => s.stageFail 2 0x20 []
    | some (seed, pub, cert) =>
      let fp := shake256 pub 16
      let fpWords := (List.range 4).map fun i => fieldAt fp (4 * i) 4
      let s := { s with sec := { s.sec with
        pub := pub, fp := fp, cert := cert, block := some (blockKey seed), derives := blockKey seed == s.sec.rpmbKey } }
      let s := s.fillKeys
      match s.newestRec 4 fun b => decide (s.sec.licGen.toNat ≤ recGen b) with
      | none => ({ s with sec := { s.sec with block := none } }).stageFail 2 0x21 fpWords
      | some b =>
        let t := fieldAt b 64 4
        let s := { s with
          gen := { s.gen with capLic := BitVec.ofNat 6 t }, sec := { s.sec with seed := some seed, licence := some b } }
        s.stagePass 2 0 (fpWords ++ [t])

/-- Failed slots of every course in the repair map of a REPAIR record; an empty map without one (R426). -/
def repairSlotsTab (map : Option (List Byte)) : Tab (BitVec 34) :=
  (List.range 64).foldl (fun t c => Tab.put 0 t c ((map.map fun m => repairSlotsOf m c).getD 0)) []

/-! ## BU3 (R200, R202, R205, R426) -/

def State.bu3 (s : State) (passed : BitVec 32) : State :=
  if !s.stageRuns 3 then s
  else
    let fit := partPiers s.gen.part
    let cap := passed &&& fit
    let map := s.newestRec 3 fun _ => true
    let layers := map.map repairLayerOf
    let layer (p : Nat) : Option Nat := layers.bind fun f => f p
    let s := { s with
      gen := { s.gen with capPiers := cap }, bond := { s.bond with stageBase := true },
      mem := if s.bu.rung3 then s.mem else [],
      sec := { s.sec with
        repairSlots := repairSlotsTab map,
        repairLayers := (List.range 32).filterMap fun p => (layer p).map fun l => (p, l) } }
    let s := (List.range 32).foldl (fun s p => s.modPier p fun x => { x with
      fitted := fit.getLsbD p, trained := cap.getLsbD p, marked := fit.getLsbD p && (layer p).isSome,
      markedLayer := (layer p).getD 0 }) s
    let s := (List.range 16).foldl (fun s m =>
      if fit.getLsbD (2 * m) then s.startDom (domMc m) else s.holdDom (domMc m)) s
    let marks := ((List.range 32).map fun p => if (s.pier p).marked then 2 ^ p else 0).sum
    let d := [cap.toNat, marks, b2n !s.bu.rung3]
    if ((List.range 32).countP fun p => cap.getLsbD p) < 8 then s.stageFail 3 0x30 d
    else s.stagePass 3 (if cap = fit then 0 else 1) d

/-! ## BU4 (R114, R117, R360, R426) -/

/-- The slot of each logical engine of a course whose slots `bad` have failed: its own, else the next spare; and the
spares left. -/
def placeEngines (bad : BitVec 34) : List Nat → List Nat → List (Nat × Nat) × List Nat
  | [], sp => ([], sp)
  | e :: t, sp =>
    if !bad.getLsbD e then let (l, r) := placeEngines bad t sp; ((e, e) :: l, r)
    else match sp with
      | [] => placeEngines bad t []
      | k :: sp => let (l, r) := placeEngines bad t sp; ((e, k) :: l, r)

/-- The engines' slots and the free spares of a course with failed slots. -/
def courseSlots (bad : BitVec 34) : List (Nat × Nat) × List Nat :=
  placeEngines bad (List.range 32) ([32, 33].filter fun k => !bad.getLsbD k)

/-- A licensed course enters service with the slots that test and repair map left it. -/
def State.courseUp (s : State) (c : Nat) (bad : BitVec 34) (pass : Bool) : State :=
  let (l, sp) := courseSlots bad
  let s := s.modCrs c fun y => { y with
    licensed := true, passed := pass,
    phys := (List.range 34).foldl (fun t k =>
      Tab.put 0 t k (if bad.getLsbD k then 3 else if sp.contains k then 1 else 0)) [] }
  let s := l.foldl (fun s (e, k) => s.modEng (32 * c + e) fun x => { x with slot := k }) s
  if pass then s.startDom c else s.holdDom c

/-- The failed slots of a course: by test, and by the repair map. -/
def failedSlotsOf (tested : List (Nat × Nat)) (map : Option (List Byte)) (c : Nat) : BitVec 34 :=
  (tested.filter fun x => x.1 = c).foldl (fun b x => b ||| BitVec.ofNat 34 (2 ^ x.2))
    ((map.map fun m => repairSlotsOf m c).getD 0)

def State.bu4 (s : State) (passed : BitVec 64) (failed : List (Nat × Nat)) (fabric : BitVec 4) : State :=
  if !s.stageRuns 4 then s
  else
    let lic := licensedCourses s.gen.capLic
    let map := s.newestRec 3 fun _ => true
    let bad := failedSlotsOf failed map
    let good (c : Nat) : Bool := lic.getLsbD c && passed.getLsbD c && (courseSlots (bad c)).1.length == 32
    let cap := BitVec.ofNat 64 ((List.range 64).map fun c => if good c then 2 ^ c else 0).sum
    let old (c : Nat) : BitVec 34 := (map.map fun m => repairSlotsOf m c).getD 0
    let s := { s with
      ls := [], cs := [], gen := { s.gen with capCourses := cap },
      sec := { s.sec with
        repairSlots := repairSlotsTab map,
        repairs := s.sec.repairs ++ (List.range 64).flatMap fun c =>
          ((List.range 34).filter fun k => (bad c).getLsbD k && !(old c).getLsbD k).map fun k => RepairChange.slot c k } }
    let s := (List.range 64).foldl (fun s c => if lic.getLsbD c then s.courseUp c (bad c) (good c) else s.holdDom c) s
    let s := (List.range 4).foldl (fun s d => s.startDom (domFabric d)) s
    let up := (List.range 64).filter good
    let d := halves cap.toNat ++ [(up.map fun c => (courseSlots (bad c)).2.length).sum,
      (up.map fun c => (List.range 34).countP fun k => (bad c).getLsbD k).sum, fabric.toNat]
    if cap = 0 then s.stageFail 4 0x40 d
    else if fabric ≠ 0 then s.stageFail 4 0x41 d
    else s.stagePass 4 (if cap = lic then 0 else 1) d

/-! ## BU5 and BU6 (R377) -/

def State.bu5 (s : State) (links : BitVec 4) (lines : BitVec 16) : State :=
  if !s.stageRuns 5 then s
  else
    let d := [links.toNat, lines.toNat]
    if links ≠ 0 ∨ lines ≠ 0 then s.stageFail 5 0x50 d
    else
      let s := s.stagePass 5 0 d
      (List.range 10).foldl (fun s p =>
        if (s.port p).fitted then (s.startDom (domPort p)).startTraining p else s.holdDom (domPort p)) s

/-- Ports in a state, as a mask. -/
def State.portMask (s : State) (f : Port → Bool) : Nat := ((List.range 10).map fun p => if f (s.port p) then 2 ^ p else 0).sum

/-- BU6 ends: a port that has trained neither half stays DOWN (R252). -/
def State.bu6 (s : State) (up half : BitVec 10) : State :=
  if !s.stageRuns 6 then s
  else
    let s := (List.range 10).foldl (fun s p =>
      if up.getLsbD p then s.portTrained p (half.getLsbD p)
      else s.modPort p fun x => { x with st := if x.st = .training then .down else x.st }) s
    let u := s.portMask fun x => x.st == .up
    let h := s.portMask fun x => x.st == .up && x.halfWidth
    let d := s.portMask fun x => x.fitted && x.st != .up
    s.stagePass 6 (if h = 0 ∧ d = 0 then 0 else 1) [u, h, d]

/-! ## BU7 (R385) -/

/-- BU7 waits until coordinates or SKIP arrive. -/
def State.bu7 (s : State) : State :=
  if !s.stageRuns 7 || s.bu.coordValid || s.bu.skipped then s else { s with bu := { s.bu with st := .waitOrigin } }

/-- BU8 begins: it waits for an image unless one is staged (R57). -/
def State.beginBu8 (s : State) : State :=
  s.beginStage 8 (if s.bond.staged.isNone then .waitImage else .running)

/-- BU7 ends. -/
def State.discoveryEnd (s : State) : State :=
  let b := s.bu
  if !s.stageRuns 7 || !(b.coordValid || b.skipped) then s
  else
    let d := [b.coord.toNat, b.coordRing.toNat, b2n b.isOrigin + 2 * b2n b.skipped, if b.conflict then b.conflictPort else 0,
      b.conflictKind]
    if b.conflict && !b.skipped then s.stageFail 7 0x70 d else (s.stageRecord 7 0 d).beginBu8

/-! ## BU8 (R53, R54, R386, R387) -/

/-- The READY section in force: its body, or the default (R53). -/
def State.readyOf (s : State) (l : List Sect) : Nat × BitVec 10 × Nat × Nat × Nat :=
  match sectOf l secReady with
  | some x => (x.f 0 1, BitVec.ofNat 10 (x.f 2 2), x.f 4 4, x.f 8 2, 256 - x.f 0x0A 1)
  | none => (3, s.gen.capPorts, 10000, 1, 6)

/-- The staged image's sections. -/
def State.stagedSects (s : State) : List Sect := (s.bond.staged.map fun x => sections x.2).getD []

/-- The staged SLICE section. -/
def State.stagedSlice (s : State) : Slice :=
  ((sectOf s.stagedSects secSlice).map fun x => sliceOf x.body).getD s.defaultCfg.slice

/-- Port `p`'s neighbour shows the coordinates that EXPECT asks for (R386). -/
def State.nbrFits (s : State) (p : Nat) (want : Nat) : Bool :=
  let own := coordOn s.bu.coord.toNat 0
  let nw := ringOn s.bu.coordRing.toNat 0
  (s.port p).st == .up && match (s.port p).nbr with
  | none => false
  | some h =>
    let c := h.coord.toNat
    let w := if p < 4 then ((own : Int) + portStep p).emod nw |>.toNat else own
    h.flags.getLsbD 0 && coordOn c 0 == w && [1, 2, 3].all fun a => coordOn c a == (coords want).getD a 0

/-- Ports failing TOPO, with bit 15 for the module's own coordinates; and whether the criterion fails. -/
def State.topo (s : State) : Nat × Bool :=
  let l := s.stagedSlice
  let present (p : Nat) : Bool := (l.expect.getD p 0).getLsbD 31
  let bad (p : Nat) : Bool :=
    present p && (s.bu.skipped || !s.nbrFits p ((l.expect.getD p 0).toNat % 2 ^ 17))
  let c := s.bu.coord.toNat
  let own := !s.bu.skipped && (l.physW != coordOn c 0 ||
    l.role == 0 && [1, 2, 3].any fun a => (coords l.nodeId.toNat).getD a 0 != coordOn c a)
  let m := ((List.range 10).map fun p => if bad p then 2 ^ p else 0).sum + if own then 2 ^ 15 else 0
  (m, s.bu.conflict || m != 0)

/-- Ports that the LINK soak names and that are fitted. -/
def State.soakPorts (s : State) : List Nat :=
  let (_, mask, _, _, _) := s.readyOf s.stagedSects
  (List.range 10).filter fun p => mask.getLsbD p && (s.port p).fitted

/-- Detail words of BU8. -/
def State.bu8Detail (s : State) (topo : Nat) : List Nat :=
  let (crit, _, _, _, _) := s.readyOf s.stagedSects
  [crit, s.bu.soaked.toNat, s.bu.linkFail.toNat, s.bu.worstPort] ++ halves s.bu.worstErrs ++ halves s.bu.worstBits ++ [topo]

/-- BU8 passes. -/
def State.bu8Pass (s : State) : State := s.stagePass 8 0 (s.bu8Detail 0)

/-- BU8 runs with the staged image: TOPO first, then LINK, whose soaks SOAK_COMPLETE ends. Rung 3 omits LINK (R331). -/
def State.bu8 (s : State) : State :=
  if !s.stageRuns 8 || s.bond.staged.isNone || s.bu.soaking then s
  else
    let (crit, _, ms, _, _) := s.readyOf s.stagedSects
    let (m, fails) := s.topo
    if bit crit 1 && fails then s.stageFail 8 0x81 (s.bu8Detail m)
    else if !bit crit 0 || s.bu.rung3 || s.soakPorts.isEmpty then s.bu8Pass
    else
      let s := { s with bu := { s.bu with soaking := true } }
      s.soakPorts.foldl (fun s p =>
        let s := s.modPort p fun x => { x with soak := some { ms := ms, failed := false } }
        if (s.port p).st == .up then s.sendCtrl p (.hello p (s.helloOf p)) else s) s

/-- Errors before correction are at most BER_MANT × 10^(−exp) times the bits checked. -/
def berOk (mant exp errs bits : Nat) : Bool := decide (errs * 10 ^ exp ≤ mant * bits)

/-- Every named port has been judged: BU8 ends. -/
def State.soakJudged (s : State) : State :=
  let done (p : Nat) : Bool := s.bu.soaked.getLsbD p || s.bu.linkFail.getLsbD p
  if !s.soakPorts.all done then s
  else
    let s := { s with bu := { s.bu with soaking := false } }
    if s.bu.linkFail = 0 then s.bu8Pass else s.stageFail 8 0x80 (s.bu8Detail 0)

/-- The result of a soak of BU8 on port `p`. -/
def State.judge (s : State) (p : Nat) (joined : Bool) (bits errs post : Nat) : State :=
  if !s.bu.soaking || s.bu.stage ≠ 8 || s.bu.st != .running || !s.soakPorts.contains p ||
      s.bu.soaked.getLsbD p || s.bu.linkFail.getLsbD p then s
  else
    let (_, _, _, mant, exp) := s.readyOf s.stagedSects
    let m := BitVec.ofNat 10 (2 ^ p)
    let b := s.bu
    let ok := joined && berOk mant exp errs bits && post == 0
    let worse := joined && (b.soaked == 0 || decide (errs * b.worstBits > b.worstErrs * bits))
    let s := { s with bu := { b with
      soaked := if joined then b.soaked ||| m else b.soaked, linkFail := if ok then b.linkFail else b.linkFail ||| m,
      worstPort := if worse then p else b.worstPort, worstErrs := if worse then errs else b.worstErrs,
      worstBits := if worse then bits else b.worstBits } }
    s.soakJudged

/-- A soak of port `p` ends: the counts follow, the port retrains, and BU8 judges it. A port that was not UP in time or
whose far end did not join is judged without a soak. -/
def State.soakEnd (s : State) (p : Nat) (joined : Bool) (bits errs post : Nat) : State :=
  let x := s.port p
  if !s.portsOn then s
  else if joined then
    if x.st ≠ .test then s
    else
      let s := s.setPort p { x with
        soak := none, berBits := satAdd 64 x.berBits bits, berErr := satAdd 64 x.berErr errs,
        st := if x.testBit then .test else .training }
      s.judge p true bits errs post
  else if x.st = .test || x.soak.isNone then s
  else (s.setPort p { x with soak := none }).judge p false 0 0 0

/-! ## BU9 (R58 to R60) -/

/-- BU9. (DESIGN CHOICE, notes/assumptions/28.md: its outcome is also that of a later submission of the same port that is
still in FETCH.) -/
def State.bu9 (s : State) : State :=
  if !s.stageRuns 9 then s
  else match s.bond.staged with
    | none => s
    | some (h, img) =>
      let l := sections img
      let f := s.fullCheck l
      let s := { s with bond := { s.bond with staged := none } }
      match f with
      | some f =>
        (s.refuse h f).stageFail 9 0x90 ([f.code, f.sect, f.off] ++ halves s.bond.activeSeq.toNat)
      | none =>
        let s := ((s.applyFull l).bondApplied img (shake256 img 32)).bondState h .done
        let s := s.stageRecord 9 0 ([0, 0xFFFF, 0] ++ halves (imgSeq img))
        { s with bu := { s.bu with st := .ready } }

/-! ## Timeouts (R377) -/

/-- The detail words of a stage that runs past its limit: what it has come to so far (notes/assumptions/29.md). -/
def State.timeoutDetail (s : State) (n : Nat) : List Nat :=
  if n = 1 then [0, 0, s.sec.arb.toNat, b2n (s.host 0).linkUp + 2 * b2n (s.host 1).linkUp]
  else if n = 3 then [0, 0, b2n !s.bu.rung3]
  else if n = 6 then
    [s.portMask fun x => x.st == .up, s.portMask fun x => x.st == .up && x.halfWidth,
     s.portMask fun x => x.fitted && x.st != .up]
  else if n = 8 then s.bu8Detail 0
  else if n = 9 then [0, 0xFFFF, 0] ++ halves s.bond.activeSeq.toNat
  else []

/-- Detail words of BU0: FEED_ID, the strap word, CKP_LOSS (R379). -/
def State.bu0Detail (s : State) : List Nat :=
  [s.gen.feedId.toNat, s.bu.strapWord.toNat, packBits [(0, s.pwr.lossCause), (2, b2n s.pwr.lossValid)]]

/-- BU0 fails with TIMEOUT, and core power is removed (R453). -/
def State.bu0Fail (s : State) : State :=
  let s := s.appendRecord 0 0x0E 0 false s.bu0Detail
  { s with pwr := { s.pwr with seq := .falling }, bu := { s.bu with st := .failed } }

/-- A running stage other than BU7 runs past its limit. -/
def State.stageTimeout (s : State) : State :=
  let n := s.bu.stage
  if n = 0 && s.pwr.seq == .rising then s.bu0Fail
  else if s.pwr.seq != .on || s.bu.st != .running || n = 0 || n = 7 then s
  else if n = 1 then
    let s := s.appendRecord 1 0x0E s.bu.stageStart false (s.timeoutDetail 1)
    { s with bu := { s.bu with st := .failed } }
  else
    let s := s.stageFail n 0x0E (s.timeoutDetail n)
    { s with bu := { s.bu with soaking := false } }

def execBu1 (link0 link1 : Bool) (s : State) : Host.Outcome State Fault Refusal :=
  .next (s.bu1 link0 link1)

def execBu2 (bits : Option (List Byte)) (s : State) : Host.Outcome State Fault Refusal :=
  .next (s.bu2 bits)

def execBu3 (passed : BitVec 32) (s : State) : Host.Outcome State Fault Refusal :=
  .next (s.bu3 passed)

def execBu4 (passed : BitVec 64) (failedSlots : List (Nat × Nat)) (failedFabric : BitVec 4) (s : State) :
    Host.Outcome State Fault Refusal :=
  .next (s.bu4 passed failedSlots failedFabric)

def execBu5 (failedLinks : BitVec 4) (failedLines : BitVec 16) (s : State) : Host.Outcome State Fault Refusal :=
  .next (s.bu5 failedLinks failedLines)

def execBu6 (up half : BitVec 10) (s : State) : Host.Outcome State Fault Refusal :=
  .next (s.bu6 up half)

def execBu7 (s : State) : Host.Outcome State Fault Refusal :=
  .next (s.bu7)

def execDiscoveryEnd (s : State) : Host.Outcome State Fault Refusal :=
  .next (s.discoveryEnd)

def execBu8 (s : State) : Host.Outcome State Fault Refusal :=
  .next (s.bu8)

def execSoakComplete (port : Nat) (joined : Bool) (bits errs post : Nat) (s : State) :
    Host.Outcome State Fault Refusal :=
  guarded (isPort port) (s.soakEnd port joined bits errs post)

def execBu9 (s : State) : Host.Outcome State Fault Refusal :=
  .next (s.bu9)

def execBuStageTimeout (s : State) : Host.Outcome State Fault Refusal :=
  .next (s.stageTimeout)

end Sys2Proof.Machine
end

