-- ==== Sys2Proof/Machine/PowerSeq.lean ====
section
/-!
DEFINITION. Power sequencing and protection (R452 to R458), PERST and the PCI Express links (R393, R394, R454, R463).
-/
namespace Sys2Proof.Machine

/-! ## Core power (R453 to R458) -/

/-- The open counters start from values that mason-S draws (R268): free. -/
def State.drawOpen (s : State) : State :=
  (List.range 4).foldl (fun s d =>
    let (n, s) := s.freeNat
    s.modRte fun r => { r with openCtr := Tab.put 0 r.openCtr d (BitVec.ofNat 24 n) }) s

/-- Configuration space at its reset values (R393). -/
def HostPort.cfgReset (x : HostPort) : HostPort :=
  { x with d3hot := false, bme := false, ro := true, mps := 128, mrrs := 512, ctDisable := false, l1 := false,
           space := CfgSpace.reset }

/-- The module with core power off: what the always-on domain does not hold is at reset, pier contents are lost, and the
laser bays have no 12 V (R445). -/
def State.coreOff (s : State) : State :=
  let s := s.coldStart
  { s with
    bu := { s.bu with stage := 0 }, latches := [], mem := [], ls := [], cs := [], doms := [],
    ports := Tab.mapIf Port.reset s.ports (fun _ => true) fun x => { x with light := false },
    hosts := Tab.mapIf HostPort.reset s.hosts (fun _ => true) fun x => { HostPort.reset with perst := x.perst } }

/-- After under-voltage lock-out core power stays off until the input is at least 47 V (R456). -/
def State.inputOk (s : State) : Bool := !(s.pwr.lossValid && s.pwr.lossCause == 1) || decide (s.pwr.vin.toNat ≥ 47000)

/-- BU0 starts (R453): straps latched, MOD_PRSNT_N among them, which the module ties low (R441). GEN_TIME, the report log
and the sequence high-water mark start afresh (R34, R389, R418). `bad` is the first step whose rails will not be good, one of
the six (notes/assumptions/31.md). -/
def State.bu0 (s : State) (feed : BitVec 4) (frzN : Bool) (bad : Option Nat) : State :=
  let vin := s.pwr.vin
  let s := s.coreOff
  let strap := BitVec.ofNat 32 (packBits [(0, feed.toNat), (4, b2n frzN)])
  let s := { s with
    gen := { s.gen with time := 0, feedId := feed, frzN := frzN },
    pwr := { s.pwr with vin := vin, waitLow := false, fell := false, seq := .rising, steps := 0,
                         badStep := bad.map fun k => max 1 (min k 6) },
    bond := { s.bond with highWater := 0 },
    bu := { Bu.reset with strapWord := strap } }
  ([96, 99].foldl State.startDom s).drawOpen

/-- The next step of rails rises (R452, R453): BU0 ends with the sixth, or fails with TIMEOUT at a step whose rails are
not good, and core power is removed. -/
def State.stepUp (s : State) : State :=
  let k := s.pwr.steps + 1
  let s := { s with pwr := { s.pwr with steps := k } }
  if s.pwr.badStep == some k then s.bu0Fail
  else if k < 6 then s
  else
    let s := s.appendRecord 0 0 0 false s.bu0Detail
    { s with pwr := { s.pwr with seq := .on }, bu := { s.bu with stage := 1, stageStart := s.gen.time } }

/-- One cycle of AOCLK of the power sequencer: the next step rises, or the highest but the first falls
(notes/assumptions/4.md). -/
def State.powerStep (s : State) : State :=
  match s.pwr.seq with
  | .rising => s.stepUp
  | .falling => { s with pwr := { s.pwr with steps := if s.pwr.steps = 0 then 0 else max 1 (s.pwr.steps - 1) } }
  | _ => s

/-- A high level of PWR_EN starts BU0 when the always-on rails are good and nothing holds core power off. -/
def State.mayStart (s : State) : Bool := s.pwr.inputOn && s.pwr.en && s.pwr.seq == .off && !s.pwr.waitLow && s.inputOk

def State.pwrRise (s : State) (feed : BitVec 4) (frzN : Bool) (bad : Option Nat) : State :=
  let s := { s with pwr := { s.pwr with en := s.pwr.inputOn } }
  if s.mayStart then s.bu0 feed frzN bad else s

/-- Core power is removed for a cause, unless its removal has begun (R455 to R458); of causes of one AOCLK cycle
CKP_LOSS holds the lowest. -/
def State.removeCore (s : State) (cause : Nat) : State :=
  if s.pwr.seq == .on || s.pwr.seq == .rising then
    let s := s.stick [.ckpLoss]
    { s with pwr := { s.pwr with
      seq := .falling, waitLow := true, fell := !s.pwr.en, lossCause := cause, lossValid := true, lossAt := s.gen.time } }
  else if s.pwr.seq == .falling && s.pwr.waitLow && s.pwr.lossAt == s.gen.time && cause < s.pwr.lossCause then
    { s with pwr := { s.pwr with lossCause := cause } }
  else s

def State.pwrFall (s : State) : State :=
  if !s.pwr.inputOn then s
  else ({ s with pwr := { s.pwr with en := false, fell := true } }).removeCore 3

/-- PWR_EN has been low for 1 s since core power was removed; a PWR_EN that is high again starts BU0 (R455). -/
def State.pwrHold (s : State) (feed : BitVec 4) (frzN : Bool) (bad : Option Nat) : State :=
  if !s.pwr.waitLow || !s.pwr.fell || s.pwr.seq != .off then s
  else
    let s := { s with pwr := { s.pwr with waitLow := false } }
    if s.mayStart then s.bu0 feed frzN bad else s

/-- The last core rail is removed, when those of the other steps are (R452, R455). -/
def State.coreRemoved (s : State) : State :=
  if s.pwr.seq != .falling || decide (s.pwr.steps > 1) then s
  else
    let s := s.coreOff
    { s with pwr := { s.pwr with seq := .off, steps := 0 } }

/-- The 56 V input is applied (R452): the always-on domain starts. -/
def State.inputApply (s : State) : State :=
  if s.pwr.inputOn then s else { s with pwr := { Pwr.reset with inputOn := true } }

/-- The 56 V input is removed (R458, R355): what flash holds and the pins remain. -/
def State.inputLoss (s : State) : State :=
  let s := s.coreOff
  { s with
    gen := { s.gen with time := 0, feedId := 0xF }, pwr := Pwr.reset, bond := Bond.reset, bu := Bu.reset, rte := Rte.reset,
    jtag := Jtag.reset, smbPtr := 0 }

/-! ## PERST and links (R393, R394, R454, R463) -/

/-- A firmware fetch that is outstanding on the port ends the update with FETCH (R394, R433); what was being written is not
valid. -/
def State.cutUpdate (s : State) (h : Nat) : State :=
  match s.sec.updating with
  | none => s
  | some u => if u.port ≠ h || !u.sent then s else ({ s with sec := s.sec.abandon }).updateReply u resFetch

/-- Every request that the module has outstanding on a port, whose link is down by now, ends as a PCI Express error. -/
def State.hostErrors (s : State) (h : Nat) : State :=
  (List.range 8).foldl (fun s p =>
    if (s.partCfg p).isNone || s.hostOf p ≠ h then s
    else (List.range 8).foldl (fun s w => s.oflCopyDone p w .error) (s.copyEnd p .error)) s

/-- The BOND registers of a port after its PERST (R26). -/
def State.bondPerst (s : State) (h : Nat) : State :=
  let cut := (s.bondPort h).st == .fetch
  let s := s.setBondPort h BondPort.reset
  if cut then s.refuseCode h bondFetch
  else if s.bond.applying.any fun x => x.1 == h then s.bondState h .apply
  else if s.bond.staged.any fun x => x.1 == h then s.bondState h .staged
  else s

/-- The mason's operations for a port end without a reply (R416, R434). -/
def State.mailboxPerst (s : State) (h : Nat) : State :=
  let mine (o : Option MbOp) : Bool := o.any fun x => x.port == h
  let x := s.sec
  let x := if x.updating.any fun u => u.port == h then x.abandon else x
  { s with sec := { x with
    installing := if mine x.installing then none else x.installing,
    committing := if mine x.committing then none else x.committing,
    attesting := x.attesting.filter fun o => o.port != h, echoes := x.echoes.filter fun o => o.port != h } }

/-- PERST is asserted on host port `h` (R393). -/
def State.perstAssert (s : State) (h : Nat) : State :=
  let s := s.modHost h fun x => { x with perst := true, linkUp := false }
  let s := ((s.mailboxPerst h).hostErrors h).bondPerst h
  ({ s with clearedNow := s.clearedNow ++ portChans h }).modHost h fun x => { x.cfgReset with
    bar4Base := 0, dbDrop := 0, bar4Refused := 0, ns := [], sec := [], secBuf := [],
    secKind := 0 }

/-- PERST is released: the link trains once firmware runs (R377, R454). -/
def State.perstRelease (s : State) (h : Nat) : State :=
  let s := s.modHost h fun x => { x with perst := false, linkUp := s.masonUp }
  if s.masonUp then s.requestWake (domHost h) else s

/-- Requests that waited for the port proceed (R394). -/
def State.hostResume (s : State) (h : Nat) : State :=
  let s := s.bondRead h
  let s := match s.sec.updating with
    | some u => if u.port = h then s.updateRead else s
    | none => s
  (List.range 8).foldl (fun s p =>
    if (s.partCfg p).isNone || s.hostOf p ≠ h then s
    else (List.range 8).foldl (fun s w => s.oflIssue p w) s) s

/-- The port's link is up, its function in D0 and Bus Master Enable 1. -/
def State.hostReady (s : State) (h : Nat) : State :=
  if !s.masonUp || (s.host h).perst then s
  else if s.hostUsable h then s
  else (s.modHost h fun x => { x with linkUp := true, d3hot := false, bme := true }).hostResume h

/-- A link goes down without PERST: outstanding requests end as errors, a fetch whose reads are outstanding with FETCH, whatever
Bus Master Enable and the power state are by then (R394). -/
def State.linkDown (s : State) (h : Nat) : State :=
  let cut := (s.bondPort h).st == .fetch && (s.bondPort h).sent
  let s := ((s.modHost h fun x => { x with linkUp := false }).hostErrors h).cutUpdate h
  if cut then (s.refuseCode h bondFetch).logRead h .error else s

/-- An L1 exit wakes the port's domain (R361). -/
def State.l1Exit (s : State) (h : Nat) : State :=
  let s := s.modHost h fun x => { x with l1 := false }
  if s.masonUp then s.requestWake (domHost h) else s

def execInputPowerApply (s : State) : Host.Outcome State Fault Refusal :=
  .next (s.inputApply)

def execInputPowerLoss (s : State) : Host.Outcome State Fault Refusal :=
  .next (s.inputLoss)

def execPwrEnRise (feed : BitVec 4) (frzN good : Bool) (bad : Nat) (s : State) : Host.Outcome State Fault Refusal :=
  .next (s.pwrRise feed frzN (if good then none else some bad))

def execPwrEnFall (s : State) : Host.Outcome State Fault Refusal :=
  .next (s.pwrFall)

def execPwrEnHoldExpiry (feed : BitVec 4) (frzN good : Bool) (bad : Nat) (s : State) : Host.Outcome State Fault Refusal :=
  .next (s.pwrHold feed frzN (if good then none else some bad))

def execUnderVoltageLockout (s : State) : Host.Outcome State Fault Refusal :=
  .next (s.removeCore 1)

def execThermalTrip (s : State) : Host.Outcome State Fault Refusal :=
  .next (s.removeCore 2)

def execCorePowerRemoved (s : State) : Host.Outcome State Fault Refusal :=
  .next (s.coreRemoved)

def execPerstAssert (port : Nat) (s : State) : Host.Outcome State Fault Refusal :=
  guarded (isHost port) (s.perstAssert port)

def execPerstRelease (port : Nat) (s : State) : Host.Outcome State Fault Refusal :=
  guarded (isHost port) (s.perstRelease port)

def execHostPortReady (port : Nat) (s : State) : Host.Outcome State Fault Refusal :=
  guarded (isHost port) (s.hostReady port)

def execHostLinkDown (port : Nat) (s : State) : Host.Outcome State Fault Refusal :=
  guarded (isHost port) (s.linkDown port)

def execPcieL1Exit (port : Nat) (s : State) : Host.Outcome State Fault Refusal :=
  guarded (isHost port) (s.l1Exit port)

end Sys2Proof.Machine
end

