-- ==== Sys2Proof/Machine/RegRead.lean ====
section
/-!
DEFINITION. BAR0 as it reads: every register of the manual by offset, width and value, and the accesses that read
them (R12 to R14, R16, R374, R378, R389, R417, R418, R438, R448, R449).
-/
namespace Sys2Proof.Machine

/-! ## Values of registers -/

/-- An idle domain at Q0 reads as Q1, which it enters within 10 ns (R361). -/
def State.levelShown (s : State) (d : Nat) : Nat :=
  let x := s.dom d
  if x.level = 0 && domClass d < 5 && s.domIdle d then 1 else x.level

/-- A bit mask of the numbers below `n` that pass a test. -/
def bitMask (n : Nat) (f : Nat → Bool) : Nat := ((List.range n).map fun i => if f i then 2 ^ i else 0).sum

def State.genBlock (s : State) (h : Nat) : Block :=
  let g := s.gen
  let x := s.host h
  [(0x00, 4, 0x4D101E6A),
   (0x04, 4, packBits [(0, g.silicon.toNat), (8, g.part)]),
   (0x08, 8, g.serial.toNat),
   (0x10, 4, packBits [(0, h), (1, b2n (s.ownedBy h)),
     (8, bitMask 8 fun p => (s.partCfg p).isSome && s.hostOf p == h)]),
   (0x14, 4, g.fw.toNat), (0x18, 4, g.capPiers.toNat), (0x1C, 4, g.capPorts.toNat),
   (0x20, 8, g.capCourses.toNat), (0x28, 4, g.capLic.toNat),
   (0x2C, 4, packBits ((List.range 4).map fun d =>
     (8 * d, (List.range 16).countP fun c => g.capCourses.getLsbD (16 * d + c)))),
   (0x30, 8, g.time),
   (0x38, 4, packBits [(0, g.feedId.toNat), (4, b2n g.frzN)]),
   (0x40, 8, x.bar4Base.toNat),
   (0x48, 4, packBits [
     (0, bitMask 12 fun n => (Tab.get Chan.reset x.ns n).go && (Tab.get Chan.reset x.ns n).fromMod),
     (16, bitMask 4 fun n => (Tab.get Chan.reset x.sec n).go && (Tab.get Chan.reset x.sec n).fromMod)]),
   (0x50, 4, x.dbDrop), (0x54, 4, x.bar4Refused)]

/-- PIER_STATUS.STATE (R201): OFF while the pier is not trained. -/
def State.pierState (s : State) (n : Nat) : Nat :=
  if !(s.pier n).trained then 0 else if s.frz.frozen || decide ((s.dom (domMc (n / 2))).level ≥ 2) then 2 else 1

def State.pierBlock (s : State) (n : Nat) : Block :=
  let x := s.pier n
  [(0x00, 4, packBits [(0, b2n x.fitted), (1, b2n x.trained), (2, s.pierState n), (4, b2n x.marked),
     (8, if x.marked then x.markedLayer else 0)]),
   (0x08, 8, x.ce), (0x10, 4, x.ue),
   (0x18, 8, packBits [(0, x.ueLocal), (63, b2n x.ueValid)]),
   (0x20, 4, packBits [(0, x.ueKind), (16, x.ueEngine)]),
   (0x28, 4, x.passes),
   (0x2C, 4, packBits [(0, x.temp.toNat), (8, b2n x.hot)])] ++
  (List.range 12).map fun l => (0x40 + 4 * l, 4, Tab.get 0 x.layerCe l)

def State.mcBlock (s : State) (m : Nat) : Block :=
  [(0x00, 4, s.levelShown (domMc m)), (0x08, 8, (s.mc m).rdBytes), (0x10, 8, (s.mc m).wrBytes)]

/-- BU_STATUS.STATE. -/
def State.buState (s : State) : Nat :=
  if s.frz.frozen then 5
  else match s.bu.st with
    | .running => 0
    | .waitOrigin => 1
    | .waitImage => 2
    | .failed => 3
    | .ready => 4

def State.nbrBlock (s : State) (p : Nat) : Block :=
  let x := s.port p
  match x.nbr with
  | none => [(0x00, 4, 0), (0x04, 4, 0), (0x08, 8, 0), (0x10, 8, 0), (0x18, 8, 0)]
  | some h =>
    [(0x00, 4, packBits [(0, b2n x.nbrValid), (1, h.port.toNat % 16), (5, h.feed.toNat), (9, h.flags.toNat % 32),
       (14, h.stage.toNat)]),
     (0x04, 4, h.coord.toNat), (0x08, 8, h.serial.toNat), (0x10, 8, fieldAt h.fp 0 8), (0x18, 8, fieldAt h.fp 8 8)]

def State.buBlock (s : State) : Block :=
  let b := s.bu
  [(0x00, 4, packBits [(0, b.stage), (4, s.buState), (8, b.result.toNat)]), (0x04, 4, b.logCount),
   (0x100, 4, 0), (0x104, 4, b.origin.toNat), (0x108, 4, b.ring.toNat),
   (0x110, 8, packBits [(0, b.coord.toNat), (18, b2n b.coordValid), (19, b2n b.skipped), (20, b2n b.conflict),
     (21, b.conflictKind), (24, b.conflictPort), (32, b.coordRing.toNat)])]

/-- PWR_RAIL (R459): a rail that is off reads 0. -/
def State.railReg (s : State) (r : Nat) : Nat :=
  match s.pwr.rails[r]? with
  | none => 0
  | some (mv, i) =>
    if !s.railOn r then 0
    else packBits [(0, mv.toNat), (16, i.toNat), (32, b2n (Config.railGood r mv.toNat))]

/-- PWR_TEMP (R459): a sensor on an unpowered die reads VALID 0. -/
def State.tempReg (s : State) (k : Nat) : Nat :=
  match s.pwr.temps[k]? with
  | none => 0
  | some t => packBits [(0, t.toNat), (8, b2n (s.pwr.tempsValid && (decide (k ≥ 4) || s.railOn 3)))]

/-- PWR_SEQ.STATE. -/
def Seq.code : Seq → Nat
  | .off => 0
  | .rising => 1
  | .on => 2
  | .falling => 3

/-- The PWR block as requester `q` reads it. -/
def State.pwrBlock (s : State) (q : Nat) : Block :=
  let p := s.pwr
  [(0x00, 4, p.capW),
   (0x04, 4, packBits [(0, p.ft), (5, b2n (decide (p.ft < 16))), (6, b2n p.capUnmet)]),
   (0x08, 8, packBits [(0, p.vin.toNat), (16, p.iin.toNat), (32, p.pin.toNat)]),
   (0x10, 4, Tab.get 0 p.peak q), (0x14, 4, Tab.get 0 p.wakeMax q),
   (0x18, 8, p.throttleCyc),
   (0x20, 4, packBits [(0, p.seq.code), (2, b2n p.waitLow), (3, b2n p.en)])] ++
  ((List.range 10).map fun r => (0x100 + 8 * r, 8, s.railReg r)) ++
  (List.range 6).map fun k => (0x200 + 4 * k, 4, s.tempReg k)

/-- CLK_DOM (R357, R360, R361). -/
def State.clkReg (s : State) (d : Nat) : Nat :=
  let x := s.dom d
  packBits [(0, s.levelShown d), (3, b2n x.held), (4, if d < 96 && s.cfg.applied then (s.classCfg (domClass d)).deepest else 0),
    (8, if s.frz.frozen && (d < 90 || (92 ≤ d && d < 96)) then 0 else x.mhz)]

/-- BOND_STATUS.STATE. -/
def BondState.code : BondState → Nat
  | .idle => 0
  | .fetch => 1
  | .verify => 2
  | .staged => 3
  | .apply => 4
  | .done => 5
  | .refused => 6

def State.bondBlock (s : State) (h : Nat) : Block :=
  let x := s.bondPort h
  [(0x00, 4, 0), (0x08, 8, x.src.toNat), (0x10, 4, x.len.toNat),
   (0x14, 4, packBits [(0, x.st.code), (8, x.code.toNat), (16, x.section_.toNat)]), (0x18, 4, x.errOff.toNat),
   (0x20, 8, s.bond.activeSeq.toNat), (0x28, 8, if s.bond.stageBase then stageBase else 0)] ++
  (List.range 4).map fun k => (0x40 + 8 * k, 8, fieldAt s.bond.meas (8 * k) 8)

def State.oflBlock (s : State) (p w : Nat) : Block :=
  let x := s.ofl p w
  let flagReg (e f : Nat) (v : Bool) : Nat := packBits [(0, e), (11, f), (31, b2n v)]
  [(0x00, 4, packBits [(0, b2n x.arm), (1, b2n x.dir), (2, b2n x.busy), (3, b2n x.err)]),
   (0x08, 8, x.host.toNat), (0x10, 8, x.pier.toNat), (0x18, 4, x.len.toNat),
   (0x1C, 4, flagReg x.trigEngine x.trigFlag false), (0x20, 4, x.thresh.toNat),
   (0x24, 4, flagReg x.doneEngine x.doneFlag x.doneValid), (0x28, 8, x.count)]

/-- ENG_STATUS.STATE: a halted partition's engines are STOPPED. -/
def State.engState (s : State) (e : Nat) : Nat :=
  let x := s.eng e
  if x.act = .disabled then 0
  else if x.orphan then 6
  else if (s.partOfEngine e).any s.halted then 5
  else match x.act with
    | .disabled => 0
    | .idle => 1
    | .run => 2
    | _ => 3

/-- ENG_STATUS.WAIT_ON. -/
def Engine.waitOn (x : Engine) : Nat :=
  match x.act with
  | .disabled => 0
  | .idle => 5
  | .run => 0
  | .waitFlag _ _ _ => 1
  | .waitKey _ _ => 2
  | .waitCopyQueue => 3
  | .waitNetQueue => 4
  | .waitFence => if x.copies.isEmpty then 4 else 3
  | .finishing => if x.copies.isEmpty then 4 else 3

/-- ENG_ITEM. -/
def State.engItem (s : State) (e : Nat) : Nat :=
  match (s.eng e).item with
  | none => 0
  | some (c, k) => match s.hodSlot c k with
    | none => 0
    | some y => packBits [(0, y.desc.seq.toNat), (32, c), (38, y.desc.ctx), (63, 1)]

/-- The registers of an engine; `own` says whether the requester reaches its partition's W1C fields (R417). -/
def State.engBlock (s : State) (e : Nat) (own : Bool) : Block :=
  let x := s.eng e
  [(0x00, 4, packBits [(0, s.engState e), (3, b2n x.rehomed.isSome), (8, x.slot), (16, x.waitOn)]),
   (0x04, 4, if own then x.numstatReg.toNat else 0),
   (0x08, 4, packBits [(0, x.faultCode.toNat), (8, x.faultOpc.toNat), (16, b2n (own && x.faultValid)),
     (17, b2n (own && x.faultOver))]),
   (0x0C, 4, x.faultPc), (0x10, 8, x.faultAddr.toNat), (0x18, 8, s.engItem e),
   (0x20, 8, x.finished), (0x28, 8, x.stolen), (0x30, 8, x.busyCyc),
   (0x38, 4, x.ecc), (0x3C, 4, x.check), (0x40, 4, x.reexec), (0x48, 8, x.skip), (0x50, 8, x.saved),
   (0x58, 8, if own then packBits [(0, x.flagSel.toNat),
     (32, if x.flagSel.toNat < 48 then (s.flagVal e x.flagSel.toNat).toNat else 0)] else 0)]

def State.courseBlock (s : State) (c : Nat) : Block :=
  let y := s.crs c
  let phys (k : Nat) : Nat := Tab.get 0 y.phys k
  [(0x00, 4, packBits [(0, b2n y.enabled), (1, b2n y.licensed), (2, b2n y.passed), (4, (s.partOfCourse c).getD 0),
     (8, (List.range 34).countP fun k => phys k == 1), (16, (List.range 32).countP fun i => (s.eng (32 * c + i)).orphan)]),
   (0x08, 8, packBits ((List.range 32).map fun k => (2 * k, phys k))),
   (0x10, 4, packBits [(0, phys 32), (2, phys 33)]),
   (0x18, 4, packBits [(0, y.hod.length), (16, y.peak)]),
   (0x20, 8, y.hodIn), (0x28, 8, y.hodStolen), (0x30, 8, y.spawnFull), (0x38, 4, y.csEcc), (0x40, 8, y.dispatch),
   (0x48, 4, y.dispRefused)]

def State.partBlock (s : State) (p : Nat) : Block :=
  let x := s.part p
  [(0x00, 4, packBits [(0, b2n x.halted), (8, x.haltCause.toNat), (16, x.haltEngine), (27, b2n x.haltNoEngine)]),
   (0x08, 8, packBits [(0, b2n x.failValid), (1, x.failCause), (4, x.failPort), (8, x.failEngine), (19, x.failPeer)]),
   (0x10, 8, x.steps), (0x18, 4, x.timerCount),
   (0x1C, 4, packBits [(0, b2n x.planLock), (1, b2n x.plan.isSome)]),
   (0x20, 4, (x.plan.map fun q => q.id.toNat).getD 0), (0x24, 4, (x.plan.map fun q => q.records.length).getD 0),
   (0x28, 8, x.waitCyc),
   (0x30, 4, packBits ((s.cfg.axes.take 4).zipIdx.map fun (a, i) => (2 * i, a)))]

/-- State of a half of the route tables as a code. -/
def Half.code : Half → Nat
  | .free => 0
  | .active => 1
  | .draining => 2
  | .loading => 3

def State.rteBlock (s : State) : Block :=
  let r := s.rte
  [(0x00, 4, packBits [(0, b2n r.inj), (3, b2n s.drained), (4, r.half0.code), (6, r.half1.code)]),
   (0x04, 4, s.oldOpen % 2 ^ 32), (0x08, 4, packBits [(0, r.retxUs), (16, r.retries)]),
   (0x10, 8, packBits [(0, r.lookIndex.toNat), (21, r.lookDie.toNat), (32, r.lookEntry.toNat)])]

def State.rteDieBlock (s : State) (d : Nat) : Block :=
  let x := Tab.get DieCtr.reset s.rte.ctrs d
  [(0x00, 8, x.miss), (0x08, 8, x.sliceDrop), (0x10, 8, x.misdeliver), (0x18, 8, x.hopsDrop), (0x20, 8, x.aged),
   (0x28, 8, x.badMsg), (0x30, 8, x.gap), (0x38, 8, x.dup), (0x40, 8, x.noFlow), (0x48, 8, x.rxFull), (0x50, 8, x.retx),
   (0x58, 8, x.giveUp), (0x60, 8, x.refusedTx), (0x68, 8, x.refusedRx),
   (0x70, 4, packBits [(0, s.sendFlows d % 2 ^ 16), (16, (s.rte.recv.countP fun f => f.die == d) % 2 ^ 16)])]

/-- LNK_STATUS.STATE. -/
def PortState.code : PortState → Nat
  | .down => 0
  | .training => 1
  | .up => 2
  | .frozen => 3
  | .disabled => 4
  | .test => 5

def State.lnkBlock (s : State) (p : Nat) : Block :=
  let x := s.port p
  [(0x00, 4, packBits [(0, x.st.code), (3, b2n x.fitted), (4, b2n x.halfWidth), (5, b2n x.hbMissing), (6, b2n x.nbrDead),
     (7, b2n x.light)]),
   (0x04, 4, packBits [(1, b2n x.disableBit), (2, b2n x.testBit)]),
   (0x08, 4, x.stall.toNat), (0x0C, 4, x.arb.toNat), (0x10, 4, x.hb.toNat), (0x14, 4, x.hbAge), (0x18, 4, x.frzHold.toNat),
   (0x20, 8, x.fecCorr), (0x28, 8, x.fecUncorr), (0x30, 8, x.replay), (0x38, 8, x.crcBad), (0x40, 8, x.hcrcBad),
   (0x48, 8, x.stallDrop), (0x50, 8, x.downDrop), (0x58, 8, x.txFlits), (0x60, 8, x.rxFlits), (0x68, 8, x.downEvents),
   (0x70, 8, x.berBits), (0x78, 8, x.berErr)]

def State.ckpBlock (s : State) : Block :=
  let c := s.ckp
  [(0x00, 4, 0), (0x04, 4, packBits [(0, c.st), (8, c.code.toNat), (16, b2n c.fallback)]), (0x08, 8, c.genTag.toNat),
   (0x10, 4, c.restoreFrom.toNat), (0x14, 4, packBits [(0, c.done), (16, c.total)]), (0x18, 8, c.resultTag.toNat),
   (0x20, 4, packBits [(0, c.hold0), (2, c.hold1), (4, b2n c.newer)]), (0x28, 8, c.tag0.toNat), (0x30, 8, c.tag1.toNat),
   (0x38, 8, c.sent), (0x40, 8, c.restored), (0x48, 8, c.fallbacks),
   (0x80, 4, packBits [(8, bitMask 8 fun p => (s.part p).resetBusy)]), (0x84, 4, 0),
   (0x88, 4, packBits [(0, s.pwr.lossCause), (2, b2n s.pwr.lossValid)])]

def State.frzBlock (s : State) : Block :=
  let z := s.frz
  [(0x00, 4, 0),
   (0x04, 4, packBits [(0, b2n z.frozen), (1, b2n z.pin), (2, b2n z.host), (3, b2n z.wave), (4, z.port)]),
   (0x08, 4, packBits [(1, b2n z.doneBit), (2, z.err), (8, z.space.toNat)]), (0x10, 8, z.addr.toNat)]

/-- VERSION and SVN of the image in a slot; 0 when it is not valid (R431). -/
def State.fwReg (s : State) (b : List Byte) : Nat := if s.fwValid b then packBits [(0, fwVersion b), (32, fwSvn b)] else 0

/-- The SEC block as host port `h` reads it; it takes its values at BU1 (R438). -/
def State.secBlock (s : State) (h : Nat) : Block :=
  let x := s.sec
  if s.bu.stage < 2 then []
  else
    [(0x00, 4, packBits [(0, b2n x.seed.isSome), (1, b2n x.licence.isSome), (2, x.runSlot), (3, b2n (s.fwValid x.slotA)),
       (4, b2n (s.fwValid x.slotB)), (5, b2n x.updating.isSome)]),
     (0x04, 4, x.arb.toNat), (0x08, 8, s.fwReg x.slotA), (0x10, 8, s.fwReg x.slotB),
     (0x18, 8, fieldAt x.fp 0 8), (0x20, 8, fieldAt x.fp 8 8),
     (0x28, 4, packBits [(0, bitMask 4 fun k => (Tab.find? x.bondKeys k).isSome),
       (4, bitMask 4 fun k => (Tab.find? x.hostKeys k).isSome)]),
     (0x30, 8, (x.licence.map recGen).getD 0),
     (0x38, 4, packBits [(0, (s.host h).secBuf.length), (16, (s.host h).secKind)])]

/-! ## The register at an offset -/

/-- The register of a block that holds offset `o`, moved to `base`. -/
def inBlock (base : Nat) (b : Block) (o : Nat) : Option (Nat × Nat × Nat) :=
  (b.find? fun (x, n, _) => x ≤ o && o < x + n).map fun (x, n, v) => (base + x, n, v)

/-- A block of `cnt` equal parts of `size` bytes at `base`. -/
def inParts (base size cnt : Nat) (f : Nat → Block) (a : Nat) : Option (Nat × Nat × Nat) :=
  let i := (a - base) / size
  if i < cnt then inBlock (base + size * i) (f i) ((a - base) % size) else none

/-- The requester's registers of a partition are its own: its host port reaches them. A register of no partition
reads through either host port (R237). -/
def State.readsPart (s : State) (p : Option Nat) (q : Nat) : Bool := decide (q < 2) && (p.isNone || s.reaches p q)

/-- A block that only the partition's host port reads; through the other it reads zero. -/
def ownOnly (ok : Bool) (b : Block) : Block := if ok then b else b.map fun (x, n, _) => (x, n, 0)

/-- The register at a BAR0 offset as requester `q` sees it (0 HP0, 1 HP1, 2 the management bus): its offset, its bytes
and its value. None is reserved space. -/
def State.regMap (s : State) (q a : Nat) : Option (Nat × Nat × Nat) :=
  if a < 0x8000 then inBlock 0 (s.genBlock q) a
  else if a < 0xA000 then inParts 0x8000 0x100 32 s.pierBlock a
  else if a < 0x10000 then inParts 0xA000 0x40 16 s.mcBlock a
  else if a < 0x10200 then inBlock 0x10000 s.buBlock (a - 0x10000)
  else if a < 0x14000 then inParts 0x10200 0x40 10 s.nbrBlock a
  else if a < 0x18000 then some (a / 4 * 4, 4, (Tab.get 0 s.bu.log ((a - 0x14000) / 4)).toNat)
  else if a < 0x20000 then none
  else if a < 0x30000 then inBlock 0x20000 (s.pwrBlock q) (a - 0x20000)
  else if a < 0x30200 then inParts 0x30000 4 100 (fun d => [(0, 4, s.clkReg d)]) a
  else if a < 0x40000 then inParts 0x30200 8 100 (fun d => [(0, 8, (s.dom d).wakes)]) a
  else if a < 0x80000 then inBlock 0x40000 (s.bondBlock q) (a - 0x40000)
  else if a < 0x90000 then inParts 0x80000 0x40 1024 (fun n => ownOnly (s.readsPart (s.partOfCtx n) q) (s.ctxBlock n)) a
  else if a < 0x98000 then inParts 0x90000 0x20 128 (fun k => ownOnly (s.readsPart (s.partOfSlot k) q) (s.slotBlock k)) a
  else if a < 0x9C000 then inParts 0x98000 0x20 16 (fun k => ownOnly (s.readsPart (s.keyOwner k) q) (s.keyBlock k)) a
  else if a < 0x100000 then
    inParts 0x9C000 0x80 64 (fun i => ownOnly (s.oflReach q (i / 8) (i % 8)) (s.oflBlock (i / 8) (i % 8))) a
  else if a < 0x180000 then inParts 0x100000 0x100 2048 (fun e => s.engBlock e (s.readsPart (s.partOfEngine e) q)) a
  else if a < 0x190000 then inParts 0x180000 0x100 64 s.courseBlock a
  else if a < 0x200000 then inParts 0x190000 0x40 8 s.partBlock a
  else if a < 0x201000 then inBlock 0x200000 s.rteBlock (a - 0x200000)
  else if a < 0x300000 then inParts 0x201000 0x100 4 s.rteDieBlock a
  else if a < 0x400000 then inParts 0x300000 0x1000 10 s.lnkBlock a
  else if a < 0x500000 then inBlock 0x400000 s.ckpBlock (a - 0x400000)
  else if a < 0x500100 then inBlock 0x500000 s.frzBlock (a - 0x500000)
  else if a < 0x500200 then some (a / 4 * 4, 4, fieldAt s.frz.bytes (a / 4 * 4 - 0x500100) 4)
  else if a < 0x600000 then none
  else if a < 0x601000 then inBlock 0x600000 (s.secBlock q) (a - 0x600000)
  else if a < 0x602000 then
    some (a / 4 * 4, 4, if q < 2 then fieldAt (s.host q).secBuf (a / 4 * 4 - 0x601000) 4 else 0)
  else none

/-! ## Who reads what -/

/-- The registers that the management bus reads whatever the state of core power (R448, R449). -/
def busAlways (a : Nat) : Bool :=
  (0x30 ≤ a && a < 0x38) || (0x20008 ≤ a && a < 0x20010) || (0x20020 ≤ a && a < 0x20024) || (0x20100 ≤ a && a < 0x20150) ||
  (0x20200 ≤ a && a < 0x20218) || (0x400088 ≤ a && a < 0x40008C)

/-- BAR0 answers at an offset: before BU1 has passed only the GEN and BU blocks do (R378). The bus reads only what R389
and R438 name (R448), of that only the BU block after a BU1 that failed, and less while core power is off (R449). -/
def State.answers (s : State) (q a : Nat) : Bool :=
  let up := s.pwr.seq == .on
  if q < 2 then up && (s.masonUp || decide (a < 0x20000))
  else busAlways a || (up && (0x10000 ≤ a && a < 0x20000)) ||
    (up && (s.masonUp || s.bu.st != .failed) && ((0x20000 ≤ a && a < 0x40000) || (0x500000 ≤ a && a < 0x700000)))

/-- Registers whose sources keep running through a freeze (R374). -/
def freezeRuns (a : Nat) : Bool :=
  a == 0x10000 || (0x20000 ≤ a && a < 0x30200) || (0x500000 ≤ a && a < 0x600000) ||
  (0x30 ≤ a && a < 0x3C) || (0x48 ≤ a && a < 0x4C)

/-- The state that a BAR0 read at an offset sees: while the module is frozen, what can still change stands as it stood
at the freeze. -/
def State.heldView (s : State) (a : Nat) : State :=
  match s.frz.held with
  | none => s
  | some x =>
    if freezeRuns a then s
    else { s with hosts := x.hosts, bond := x.bond, sec := x.sec, ports := x.ports, bu := x.bu, doms := x.doms, mcs := x.mcs }

/-- The register at an offset as requester `q` reads it. -/
def State.regAt (s : State) (q a : Nat) : Option (Nat × Nat × Nat) :=
  if s.answers q a then (s.heldView a).regMap q a else none

/-! ## Reads -/

/-- Half of a 64-bit value. -/
def halfOf (v : Nat) (hi : Bool) : Nat := if hi then v / 2 ^ 32 % 2 ^ 32 else v % 2 ^ 32

/-- A read of PWR_PEAK or PWR_WAKE_MAX clears the requester's own value (R16), where the register answers at all. -/
def State.clearRc (s : State) (q a : Nat) : State :=
  if (s.regAt q a).isNone then s
  else if a = 0x20010 then { s with pwr := { s.pwr with peak := Tab.put 0 s.pwr.peak q 0 } }
  else if a = 0x20014 then { s with pwr := { s.pwr with wakeMax := Tab.put 0 s.pwr.wakeMax q 0 } }
  else s

/-- The value of a 32-bit register; 0 where there is none. -/
def State.reg32 (s : State) (q a : Nat) : Nat :=
  match s.regAt q a with
  | some (_, 4, v) => v
  | _ => 0

/-- The value of a read of `size` bytes at an offset, and what the read does to the requester's half latch and to RC
registers (R12, R13, R16). 8 bytes over two 32-bit registers read both (notes/assumptions/32.md). -/
def State.regRead (s : State) (q a size : Nat) : Nat × State :=
  let was := Tab.find? s.latches q
  let t := { s with latches := Tab.erase s.latches q }
  if !(size = 4 || size = 8) || a % size ≠ 0 then (0, t)
  else if size = 8 then
    match s.regAt q a with
    | some (_, 8, v) => (v, t)
    | _ => (s.reg32 q a + 2 ^ 32 * s.reg32 q (a + 4), (t.clearRc q a).clearRc q (a + 4))
  else match s.regAt q a with
    | none => (0, t)
    | some (b, n, v) =>
      if n = 4 then (v, t.clearRc q a)
      else if a = b then (halfOf v false, { t with latches := Tab.set t.latches q (b, BitVec.ofNat 32 (v / 2 ^ 32)) })
      else match was with
        | some (c, hi) => if c = b then (hi.toNat, t) else (halfOf v true, t)
        | none => (halfOf v true, t)

end Sys2Proof.Machine
end

