-- ==== Sys2Proof/Machine/PcieSpace.lean ====
section
/-!
DEFINITION. The configuration space of a host port's function (R390 to R397): its header, and the capabilities that R391
lists. Where R391 leaves a register to the base specification, its place, fields and reset value are that
specification's (PRESUMED, notes/assumptions/36.md).
-/
namespace Sys2Proof.Machine

/-! ## Codes of sizes -/

/-- Max_Payload_Size and Max_Read_Request_Size as their codes. -/
def sizeCode (n : Nat) : Nat := ((List.range 6).find? fun k => decide (n ≤ 128 * 2 ^ k)).getD 5

/-! ## Reads -/

/-- Bytes and attribute bits of BAR `i` of 0 BAR0, 1 BAR2 and 2 BAR4 (R397): each is 64-bit, BAR4 prefetchable. -/
def barSize (i : Nat) : Nat := [2 ^ 26, 2 ^ 20, 2 ^ 36].getD i 1
def barBits (i : Nat) : Nat := if i = 2 then 0xC else 0x4

/-- BAR `i` as its two registers read. -/
def HostPort.bar (x : HostPort) (i : Nat) : Nat := (Tab.get 0 x.space.bars i).toNat / barSize i * barSize i + barBits i

/-- A request of the module on the port waits for its completion. -/
def State.awaits (s : State) (h : Nat) : Bool :=
  ((s.bondPort h).st == .fetch && (s.bondPort h).sent) || (s.sec.updating.any fun u => u.port == h && u.sent) ||
  (List.range 8).any fun p => s.hostOf p == h &&
    (((s.part p).carrying.any fun c => c.copy.isSome) || (List.range 8).any fun w => (s.ofl p w).sent)

/-- A register of the link: its offset, its reset value, the bits that a write sets, those that the link's hardware sets, and
those that it sets and a 1 clears. -/
structure LinkReg where
  at_ : Nat
  reset : W32
  rw : W32
  hw : W32
  w1c : W32
  deriving DecidableEq, Repr

/-- Registers of one kind at `n` successive doublewords. -/
def linkRun (o n : Nat) (reset rw hw w1c : W32) : List LinkReg :=
  (List.range n).map fun i => { at_ := o + 4 * i, reset := reset, rw := rw, hw := hw, w1c := w1c }

/-- Link Control and Link Control 2; Secondary PCI Express; Data Link Feature; Physical Layer 16.0, 32.0 and 64.0 GT/s; Lane
Margining at the Receiver, of a ×16 link. -/
def linkRegs : List LinkReg :=
  linkRun 0x58 1 0 0x2C8 0 0 ++ linkRun 0x78 1 6 0xFFBF 0x07DF0000 0x200000 ++
  linkRun 0x158 1 0 0xFE00 0 0 ++ linkRun 0x15C 1 0 0 0 0xFFFF ++ linkRun 0x160 8 0 0 0x7F007F00 0 ++
  linkRun 0x184 1 0x80000001 0 0 0 ++ linkRun 0x188 1 0 0 0x807FFFFF 0 ++
  linkRun 0x198 1 0 0 0xF 0x10 ++ linkRun 0x19C 3 0 0 0 0xFFFF ++ linkRun 0x1AC 4 0 0 0xF0F0F0F0 0 ++
  linkRun 0x1C0 1 0x101 0 0 0 ++ linkRun 0x1C4 1 0 3 0 0 ++ linkRun 0x1C8 1 0 0 0x7EF 0x10 ++
  linkRun 0x1CC 4 0 0 0xFFFFFFFF 0 ++ linkRun 0x1DC 4 0 0 0xF0F0F0F0 0 ++
  linkRun 0x1F8 1 0 0 0xEF 0x10 ++ linkRun 0x1FC 4 0 0 0xF0F0F0F0 0 ++
  linkRun 0x210 1 0 0 0x30000 0 ++ linkRun 0x214 16 0x9C38 0xFF7F 0xFF7F0000 0

def linkReg (o : Nat) : Option LinkReg := linkRegs.find? fun r => r.at_ == o

/-- What a register of the link holds. -/
def CfgSpace.linkVal (x : CfgSpace) (r : LinkReg) : W32 := Tab.get r.reset x.link r.at_

def CfgSpace.setLink (x : CfgSpace) (r : LinkReg) (v : W32) : CfgSpace := { x with link := Tab.put r.reset x.link r.at_ v }

/-- What the register at an offset holds; 0 where the link has none. -/
def CfgSpace.linkAt (x : CfgSpace) (o : Nat) : Nat := ((linkReg o).map fun r => (x.linkVal r).toNat).getD 0

/-- The hardware of the link brings a register up to date: what it reports is free, and a bit that only a 1 clears stays set. -/
def LinkReg.report (r : LinkReg) (v w : W32) : W32 := (v &&& ~~~r.hw) ||| (w &&& (r.hw ||| r.w1c))

/-- A write: `v` the doubleword as it stands after it, `w` the bits written alone. -/
def LinkReg.write (r : LinkReg) (old v w : W32) : W32 := ((v &&& r.rw) ||| (old &&& ~~~r.rw)) &&& ~~~(w &&& r.w1c)

/-- The doublewords of the header and of the capabilities that the module holds, by offset. -/
def State.cfgBlock (s : State) (h : Nat) : Block :=
  let x := s.host h
  let c := x.space
  [(0x00, 4, 0x4D101E6A), (0x04, 4, packBits [(1, b2n c.memEn), (2, b2n x.bme), (20, 1), (16, c.errSta.toNat)]),
   (0x08, 4, packBits [(0, s.gen.silicon.toNat), (8, 0x120000)]), (0x0C, 4, c.cacheLine.toNat),
   (0x10, 4, x.bar 0 % 2 ^ 32), (0x14, 4, x.bar 0 / 2 ^ 32), (0x18, 4, x.bar 1 % 2 ^ 32), (0x1C, 4, x.bar 1 / 2 ^ 32),
   (0x20, 4, x.bar 2 % 2 ^ 32), (0x24, 4, x.bar 2 / 2 ^ 32), (0x2C, 4, packBits [(0, 0x1E6A), (16, s.gen.part + 1)]),
   (0x34, 4, 0x40), (0x3C, 4, c.intLine.toNat),
   (0x40, 4, 0x34801), (0x44, 4, packBits [(0, if x.d3hot then 3 else 0), (3, 1)]),
   (0x48, 4, 0x80020010), (0x4C, 4, 0x8022),
   (0x50, 4, packBits [(3, b2n c.urRep), (4, b2n x.ro), (5, sizeCode x.mps), (8, b2n c.extTag), (11, b2n c.noSnoop),
     (12, sizeCode x.mrrs), (16, c.devSta.toNat), (21, b2n (s.awaits h))]),
   (0x54, 4, packBits [(0, 6), (4, 16), (10, 2), (15, 3), (22, 1)]),
   (0x58, 4, c.linkAt 0x58 + packBits [(0, c.aspm.toNat), (16, (Config.linkSpeed h).toNat), (20, (Config.linkWidth h).toNat)]),
   (0x6C, 4, 0x3001F), (0x70, 4, packBits [(0, c.ctValue.toNat), (4, b2n x.ctDisable), (12, b2n c.tag10)]), (0x74, 4, 0x7E),
   (0x100, 4, 0x14820001), (0x104, 4, c.aerStatus.toNat), (0x108, 4, c.aerMask.toNat), (0x10C, 4, c.aerSev.toNat),
   (0x110, 4, c.corrStatus.toNat), (0x114, 4, c.corrMask.toNat), (0x118, 4, c.aerFirst.getD 0)] ++
  ((List.range 4).map fun i => (0x11C + 4 * i, 4, fieldAt c.aerHeader (4 * i) 4)) ++
  [(0x148, 4, 0x15410003), (0x14C, 4, s.gen.serial.toNat % 2 ^ 32), (0x150, 4, s.gen.serial.toNat / 2 ^ 32),
   (0x154, 4, 0x18010019), (0x180, 4, 0x18C10025), (0x18C, 4, 0x1BC10026), (0x1BC, 4, 0x1EC1002A), (0x1EC, 4, 0x20C10031),
   (0x20C, 4, 0x00010027)]

/-- Configuration requests reach the function: the port's link is up. -/
def State.cfgUp (s : State) (h : Nat) : Bool := s.pwr.seq == .on && !(s.host h).perst && (s.host h).linkUp

/-- The doubleword at an offset. -/
def State.cfgDword (s : State) (h o : Nat) : Nat :=
  match (s.cfgBlock h).find? fun x => x.1 = o with
  | some (_, _, v) => v
  | none => (s.host h).space.linkAt o

/-- Registers that log errors: Status, Device Status, and those of Advanced Error Reporting. -/
def errorLog (o : Nat) : Bool := o == 0x04 || o == 0x50 || (0x104 ≤ o && o < 0x12C)

/-- What the link has reported by the time that the doubleword at an offset is read: errors it has met, in the registers that
log them, and its own registers. -/
def State.linkReport (s : State) (h o : Nat) : State :=
  if errorLog o then s.logLink h
  else match linkReg o with
    | none => s
    | some r =>
      let (k, s) := s.freeNat
      s.modHost h fun x => { x with space := x.space.setLink r (r.report (x.space.linkVal r) (BitVec.ofNat 32 k)) }

/-- A configuration read of 1, 2 or 4 bytes. -/
def State.cfgRead (s : State) (h o size : Nat) : Nat × State :=
  if !s.cfgUp h || !(size = 1 || size = 2 || size = 4) || o % size ≠ 0 then (0, s)
  else
    let s := s.linkReport h (o / 4 * 4)
    (s.cfgDword h (o / 4 * 4) / 2 ^ (8 * (o % 4)) % 2 ^ (8 * size), s)

/-! ## Writes -/

/-- A BAR whose low (`hi` false) or high register is written. -/
def CfgSpace.setBar (x : CfgSpace) (i : Nat) (hi : Bool) (v : Nat) : CfgSpace :=
  let old := (Tab.get 0 x.bars i).toNat
  let a := if hi then v * 2 ^ 32 + old % 2 ^ 32 else old / 2 ^ 32 * 2 ^ 32 + v
  { x with bars := Tab.put 0 x.bars i (BitVec.ofNat 64 (a / barSize i * barSize i)) }

/-- A write of a register of the link. -/
def CfgSpace.setLinkAt (x : CfgSpace) (o v w : Nat) : CfgSpace :=
  match linkReg o with
  | none => x
  | some r => x.setLink r (r.write (x.linkVal r) (BitVec.ofNat 32 v) (BitVec.ofNat 32 w))

/-- Device Control: `v` as its bits stand after the write; sizes that the function does not support are not taken. -/
def HostPort.devCtl (x : HostPort) (v : Nat) : HostPort :=
  let p := bits v 7 5
  let r := bits v 14 12
  { x with ro := bit v 4, mps := if p ≤ 2 then 128 * 2 ^ p else x.mps, mrrs := if r ≤ 5 then 128 * 2 ^ r else x.mrrs,
           space := { x.space with urRep := bit v 3, extTag := bit v 8, noSnoop := bit v 11 } }

/-- The effect on the port's registers of a write of the doubleword at `o`: `v` the doubleword as it stands after the
write, `w` the bits written alone, which clear the bits that a 1 clears. -/
def HostPort.cfgSet (x : HostPort) (o v w : Nat) : HostPort :=
  let c := x.space
  let word (k : Nat) : W32 := BitVec.ofNat 32 k
  let sp (c : CfgSpace) : HostPort := { x with space := c }
  if o = 0x04 then { x with bme := bit v 2, space := { c with memEn := bit v 1, errSta := c.errSta &&& ~~~(BitVec.ofNat 16 (w / 2 ^ 16)) } }
  else if o = 0x0C then sp { c with cacheLine := BitVec.ofNat 8 v }
  else if 0x10 ≤ o && o ≤ 0x24 then sp (c.setBar ((o - 0x10) / 8) (o % 8 == 4) v)
  else if o = 0x3C then sp { c with intLine := BitVec.ofNat 8 v }
  else if o = 0x44 then
    if v % 4 = 3 then { x with d3hot := true, l1 := true }
    else if v % 4 = 0 then { x with d3hot := false, l1 := x.l1 && !x.d3hot }
    else x
  else if o = 0x50 then
    let x := x.devCtl v
    { x with space := { x.space with devSta := x.space.devSta &&& ~~~(BitVec.ofNat 4 (w / 2 ^ 16)) } }
  else if o = 0x58 then sp { c.setLinkAt o v w with aspm := BitVec.ofNat 2 v }
  else if o = 0x70 then { x with ctDisable := bit v 4, space := { c with ctValue := BitVec.ofNat 4 v, tag10 := bit v 12 } }
  else if o = 0x104 then sp { c with
    aerStatus := c.aerStatus &&& ~~~(word w), aerFirst := c.aerFirst.bind fun b => if bit w b then none else some b }
  else if o = 0x108 then sp { c with aerMask := word v &&& 0x07FFF030 }
  else if o = 0x10C then sp { c with aerSev := word v &&& 0x07FFF030 }
  else if o = 0x110 then sp { c with corrStatus := c.corrStatus &&& ~~~(word w) }
  else if o = 0x114 then sp { c with corrMask := word v &&& 0xF1C1 }
  else sp (c.setLinkAt o v w)

/-- A configuration write of 1, 2 or 4 bytes. A port that becomes usable by it makes the requests that waited (R394). -/
def State.cfgWrite (s : State) (h o size v : Nat) : State :=
  if !s.cfgUp h || !(size = 1 || size = 2 || size = 4) || o % size ≠ 0 then s
  else
    let d := o / 4 * 4
    let k := 2 ^ (8 * (o % 4))
    let old := s.cfgDword h d
    let w := v % 2 ^ (8 * size) * k
    let was := s.hostUsable h
    let l1 := (s.host h).l1
    let s := s.modHost h fun x => x.cfgSet d (old - old / k % 2 ^ (8 * size) * k + w) w
    let s := if l1 && !(s.host h).l1 then s.requestWake (domHost h) else s
    if !was && s.hostUsable h then s.hostResume h else s

end Sys2Proof.Machine
end

