-- ==== Sys2Proof/Machine/RegWrite.lean ====
section
/-!
DEFINITION. Writes of BAR0 registers, field by field as their access codes say (R12 to R15, R25, R238, R247, R296, R323,
R326, R356, R369, R374, R382, R389, R399, R417), BAR2 (R397, R398, R402, R409), and the accesses that reach them.
-/
namespace Sys2Proof.Machine

/-! ## BAR2 -/

/-- The host sends a message into a channel (R409): GO is taken while it is clear, and never on non-secure channel 0, nor in the
cycle of a clear (R410). -/
def State.mbSend (s : State) (h : Nat) (secure : Bool) (ch : Nat) : State :=
  let x := s.chan h secure ch
  if s.pwr.seq != .on || x.go || (!secure && ch == 0) || !s.goCounts h secure ch then s
  else s.setChan h secure ch { x with go := true, fromMod := false }

/-- The host takes a message of the module (R409). -/
def State.mbTake (s : State) (h : Nat) (secure : Bool) (ch : Nat) : State :=
  let x := s.chan h secure ch
  if s.pwr.seq != .on || !x.fromMod then s else s.setChan h secure ch { x with go := false, fromMod := false }

/-- The channel and the offset in it of a BAR2 offset (R397, R409): secure or not, number, offset. -/
def channelAt (o : Nat) : Option (Bool × Nat × Nat) :=
  if 0x4000 ≤ o && o < 0x4600 then some (false, (o - 0x4000) / 0x80, o % 0x80)
  else if 0x8000 ≤ o && o < 0x8200 then some (true, (o - 0x8000) / 0x80, o % 0x80)
  else none

/-- SESSION, DATA and CTRL of a channel as they read. -/
def Chan.reg (x : Chan) (secure : Bool) (o : Nat) : Nat :=
  if o < 0x40 then x.word (o / 4)
  else if o = 0x40 then packBits [(0, b2n x.go), (1, b2n x.fromMod)]
  else if o = 0x44 && secure then packBits [(0, x.session), (2, x.keySlot)]
  else 0

/-- A read of BAR2: doorbells in 4 or 8 bytes at multiples of 8, mailbox registers in 4 (R398, R402). -/
def State.bar2Read (s : State) (h o size : Nat) : Nat :=
  if s.pwr.seq != .on then 0
  else if o < 0x2000 then
    if o % 8 = 0 && (size = 4 || size = 8) && s.partOfCtx (o / 8) != none && s.reaches (s.partOfCtx (o / 8)) h then (s.ctx (o / 8)).tail.toNat else 0
  else if size ≠ 4 || o % 4 ≠ 0 then 0
  else match channelAt o with
    | some (sec, ch, k) => (s.chan h sec ch).reg sec k
    | none => 0

/-- A write of a channel's register: DATA while GO is 0; GO and TAKE as they find GO. -/
def State.chanWrite (s : State) (h : Nat) (secure : Bool) (ch k : Nat) (v : W32) : State :=
  let x := s.chan h secure ch
  if k < 0x40 then
    if x.go || s.pwr.seq != .on then s else s.setChan h secure ch { x with data := Tab.put 0 x.data (k / 4) v }
  else if k ≠ 0x40 then s
  else if x.go then if v.getLsbD 2 then s.mbTake h secure ch else s
  else if v.getLsbD 0 then s.mbSend h secure ch else s

/-- A write of BAR2: doorbells take 4 or 8 bytes at multiples of 8, mailbox registers 4 bytes (R398). -/
def State.bar2Write (s : State) (h o size : Nat) (v : W64) : State :=
  let w : W32 := v.extractLsb' 0 32
  if o < 0x2000 then if o % 8 = 0 && (size = 4 || size = 8) then s.doorbell h (o / 8) w else s
  else if size ≠ 4 || o % 4 ≠ 0 then s
  else match channelAt o with
    | some (sec, ch, k) => s.chanWrite h sec ch k w
    | none => s

/-! ## BAR0, block by block -/

/-- A write of GEN_BAR4_BASE (R399): a multiple of 64 MiB, at most 2^41 − 2^36. -/
def State.bar4BaseWrite (s : State) (h : Nat) (v : W64) : State :=
  let s := s.emptyLatch (portReq h)
  if !s.writable || v.toNat % 2 ^ 26 ≠ 0 || v.toNat > 2 ^ 41 - 2 ^ 36 then s
  else s.modHost h fun x => { x with bar4Base := BitVec.ofNat 41 v.toNat }

/-- A write of PWR_CAP (R369): a value outside 800–2,400 is ignored. -/
def State.capWrite (s : State) (r : Requester) (v : W32) : State :=
  let s := s.emptyLatch r
  let w := v.toNat % 2 ^ 12
  if !s.writable || !s.ownerOrBus r || w < 800 || w > 2400 then s
  else { s with pwr := { s.pwr with capW := w } }

/-- DISC_CTRL, DISC_ORIGIN and DISC_RING (R382): ORIGIN acts before SKIP. -/
def State.discRegs (s : State) (h a : Nat) (v : W32) : State :=
  if a = 0x10100 then
    let s := if v.getLsbD 0 then s.discOrigin h else s
    if v.getLsbD 1 then s.discSkip h else s
  else if !s.discWrite then s
  else if a = 0x10104 then { s with bu := { s.bu with origin := BitVec.ofNat 32 (v.toNat % 2 ^ 18) } }
  else if a = 0x10108 then { s with bu := { s.bu with ring := BitVec.ofNat 32 (v.toNat % 2 ^ 21) } }
  else s

/-- The BOND registers of the port (R25): GO acts before RERUN. -/
def State.bondRegs (s : State) (h a : Nat) (v : W64) : State :=
  let x := s.bondPort h
  if a = 0x40000 then
    let s := if v.getLsbD 0 then s.bondGo h else s
    if v.getLsbD 1 then s.rerun h else s
  else if !s.writable then s
  else if a = 0x40008 then s.setBondPort h { x with src := BitVec.ofNat 64 (v.toNat / 64 * 64) }
  else if a = 0x40010 then s.setBondPort h { x with len := v.extractLsb' 0 32 }
  else s

/-- The context registers (R238, R249); `m` has ones on the bits written. -/
def State.ctxRegs (s : State) (h n o : Nat) (v m : W64) : State :=
  let w : W32 := v.extractLsb' 0 32
  if o = 0 then s.ctxCtrl h n w
  else if !s.live || !s.reaches (s.partOfCtx n) h then s
  else if o = 0x04 then s.modCtx n fun c => { c with dbErr := s.w1c (.dbErr n) (v.getLsbD 8) c.dbErr }
  else if o = 0x08 then
    s.modCtx n fun c => if c.enable then c else { c with ring := ((c.ring &&& ~~~m) ||| (v &&& m)) &&& ~~~(0x3E : W64) }
  else if o = 0x18 then s.modCtx n fun c => { c with numstat := s.w1cStatus (.ctxNumstat n) v c.numstat }
  else s

/-- The slot registers (R246, R247). -/
def State.slotRegs (s : State) (h k o : Nat) (v : W64) : State :=
  if o = 0x08 then s.slotWait h k v
  else if !s.live || !s.reaches (s.partOfSlot k) h then s
  else if o = 0 then s.modMslot k fun x => { x with phase := v.getLsbD 2 }
  else if o = 0x04 then s.modMslot k fun x => { x with mb := v.extractLsb' 0 32 }
  else s

/-- The keystone registers (R233, R235). -/
def State.keyRegs (s : State) (h k o : Nat) (v : W32) : State :=
  if o = 0x08 then s.keyExpect h k v else if o = 0x0C then s.keyCtrl h k v else s

/-- The off-load window registers (R323); an armed window whose registers change is tested again (R324). -/
def State.oflRegs (s : State) (h p w o : Nat) (v : W64) : State :=
  let n := v.toNat
  let x := s.ofl p w
  let lo : W32 := v.extractLsb' 0 32
  if o = 0 then s.oflCtrl h p w lo
  else if !s.live || !s.oflReach h p w then s
  else
    (s.setOfl p w (
      if o = 0x08 then { x with host := BitVec.ofNat 64 (n / 64 * 64) }
      else if o = 0x10 then { x with pier := BitVec.ofNat 64 (n % 2 ^ 41 / 64 * 64) }
      else if o = 0x18 then { x with len := lo }
      else if o = 0x1C then { x with trigEngine := bits n 10 0, trigFlag := bits n 16 11 }
      else if o = 0x20 then { x with thresh := lo }
      else if o = 0x24 then { x with doneEngine := bits n 10 0, doneFlag := bits n 16 11, doneValid := bit n 31 }
      else x)).oflFire p w

/-- The engine registers: W1C fields and ENG_FLAGRD.SEL, through the port of the engine's partition (R417). -/
def State.engRegs (s : State) (h e o : Nat) (v : W64) : State :=
  if !s.writable || !s.reaches (s.partOfEngine e) h then s
  else if o = 0x04 then s.modEng e fun x => { x with numstatReg := s.w1cStatus (.engNumstat e) v x.numstatReg }
  else if o = 0x08 then s.modEng e fun x =>
    { x with faultValid := s.w1c (.engFaultValid e) (v.getLsbD 16) x.faultValid,
             faultOver := s.w1c (.engFaultOver e) (v.getLsbD 17) x.faultOver }
  else if o = 0x58 then s.modEng e fun x => { x with flagSel := v.extractLsb' 0 6 }
  else s

/-- COLL_FAIL.VALID through the partition's host port (R326). -/
def State.collRegs (s : State) (h p o : Nat) (v : W64) : State :=
  if !s.writable || (s.partCfg p).isNone || s.hostOf p ≠ h || o ≠ 0x08 then s
  else s.modPart p fun x => { x with failValid := s.w1c (.collFail p) (v.getLsbD 0) x.failValid }

/-- RTE_EPOCH, RTE_XPORT and RTE_LOOKUP (R296): RELEASE acts before FLIP; the fields of RTE_XPORT are judged one by one. -/
def State.rteRegs (s : State) (h a : Nat) (v m : W64) : State :=
  if a = 0x200000 then
    let s := if v.getLsbD 2 then s.release h else s
    if v.getLsbD 1 then s.flip h else s
  else if a = 0x200008 then
    let us := v.toNat % 2 ^ 16
    let n := v.toNat / 2 ^ 16 % 16
    if !s.rteWrite h then s
    else s.modRte fun r => { r with
      retxUs := if 50 ≤ us && us ≤ 10000 then us else r.retxUs, retries := if n = 0 then r.retries else n }
  else if a = 0x200010 && m.getLsbD 0 then s.rteLookup h (v.extractLsb' 0 32)
  else s

/-- The port registers (R296). -/
def State.lnkRegs (s : State) (h p o : Nat) (v : W32) : State :=
  if o = 0x04 then s.lnkCtrl h p v
  else if !s.rteWrite h then s
  else if o = 0x08 then s.modPort p fun x => { x with stall := v.extractLsb' 0 16 }
  else if o = 0x0C then s.modPort p fun x => { x with arb := v.extractLsb' 0 24 }
  else if o = 0x18 then s.modPort p fun x => { x with frzHold := v.extractLsb' 0 24 }
  else s

/-- The CKP registers of a host port (R329, R340, R347, R356): SEND acts before RESTORE, and RESTORE before ABORT. -/
def State.ckpRegs (s : State) (h a : Nat) (v : W64) : State :=
  if a = 0x400000 then
    let s := if v.getLsbD 0 then s.castStart h else s
    let s := if v.getLsbD 1 then s.restoreStart h else s
    if v.getLsbD 2 then s.castAbort h else s
  else if a = 0x400080 then s.ckpPartReset h (v.extractLsb' 0 32)
  else if !s.ckpWrite h then s
  else if a = 0x400008 then { s with ckp := { s.ckp with genTag := v } }
  else if a = 0x400010 then { s with ckp := { s.ckp with restoreFrom := v.extractLsb' 0 17 } }
  else if a = 0x400088 then { s with pwr := { s.pwr with lossValid := s.w1c .ckpLoss (v.getLsbD 2) s.pwr.lossValid } }
  else s

/-- Registers that the management bus may write too, and those of OWNER_PORT beside them (R331, R369, R371, R375, R389). -/
def State.sharedRegs (s : State) (r : Requester) (a : Nat) (v : W64) : State :=
  let w : W32 := v.extractLsb' 0 32
  if a = 0x20000 then s.capWrite r w
  else if a = 0x400084 then s.ckpModReset r w
  else if a = 0x500000 then s.frzCtrl r w
  else if a = 0x500008 then s.dbgCtrl r w
  else if !s.ownerOnly r || !s.masonUp then s
  else if a = 0x500010 then { s with frz := { s.frz with addr := v } }
  else if a = 0x20004 && s.writable then { s with pwr := { s.pwr with capUnmet := s.w1c .capUnmet (v.getLsbD 6) s.pwr.capUnmet } }
  else s

/-- A write of the register at `b` by host port `h`: the value as it stands after the write where the field is RW, and
the bits written. -/
def State.hostReg (s : State) (h b : Nat) (v m : W64) : State :=
  let lo : W32 := v.extractLsb' 0 32
  if b = 0x40 then s.bar4BaseWrite h v
  else if 0x10100 ≤ b && b < 0x10110 then s.discRegs h b lo
  else if 0x40000 ≤ b && b < 0x80000 then s.bondRegs h b v
  else if 0x80000 ≤ b && b < 0x90000 then s.ctxRegs h ((b - 0x80000) / 0x40) (b % 0x40) v m
  else if 0x90000 ≤ b && b < 0x98000 then s.slotRegs h ((b - 0x90000) / 0x20) (b % 0x20) v
  else if 0x98000 ≤ b && b < 0x9C000 then s.keyRegs h ((b - 0x98000) / 0x20) (b % 0x20) lo
  else if 0x9C000 ≤ b && b < 0x100000 then s.oflRegs h ((b - 0x9C000) / 0x400) (b % 0x400 / 0x80) (b % 0x80) v
  else if 0x100000 ≤ b && b < 0x180000 then s.engRegs h ((b - 0x100000) / 0x100) (b % 0x100) v
  else if 0x190000 ≤ b && b < 0x200000 then s.collRegs h ((b - 0x190000) / 0x40) (b % 0x40) v
  else if 0x200000 ≤ b && b < 0x201000 then s.rteRegs h b v m
  else if 0x300000 ≤ b && b < 0x400000 then s.lnkRegs h ((b - 0x300000) / 0x1000) (b % 0x1000) lo
  else if 0x400000 ≤ b && b < 0x500000 && b ≠ 0x400084 then s.ckpRegs h b v
  else s.sharedRegs (portReq h) b v

/-- A field that a write sets to a value acts on the register's bits as they stand after the write: of a 64-bit register
half written, the other half as it was (R12). W1C and WO bits are taken from the bits written alone. -/
def writtenValue (b old : Nat) (v m : W64) : W64 :=
  let keep : Bool := (b / 0x20 * 0x20 + 8 == b && 0x90000 ≤ b && b < 0x98000) ||
    (b % 0x100 == 0x58 && 0x100000 ≤ b && b < 0x180000)
  let rw : Bool := keep || b == 0x40 || b == 0x40008 || (0x9C000 ≤ b && b < 0x100000) || b == 0x400008 || b == 0x500010
  if rw then (BitVec.ofNat 64 old &&& ~~~m) ||| (v &&& m) else v &&& m

/-- One 32-bit or 64-bit write that meets the register (b, n, old). -/
def State.putReg (s : State) (r : Requester) (b old : Nat) (v m : W64) : State :=
  let w := writtenValue b old v m
  match r with
  | .hp0 => s.hostReg 0 b w m
  | .hp1 => s.hostReg 1 b w m
  | .smb => s.sharedRegs .smb b w

/-- The value that a register holds, whatever the requester may read of it. -/
def State.regHeld (s : State) (q a : Nat) : Option (Nat × Nat × Nat) := s.regMap q a

/-- A naturally aligned 32-bit write. -/
def State.write32 (s : State) (r : Requester) (a : Nat) (v : W32) : State :=
  match s.regHeld (reqIdx r) a with
  | none => s
  | some (b, _, old) =>
    let w : W64 := v.zeroExtend 64
    if a = b then s.putReg r b old w 0xFFFFFFFF else s.putReg r b old (w <<< 32) 0xFFFFFFFF00000000

/-- A BAR0 write (R12, R13): 8 bytes over two 32-bit registers are two writes, the low address first. -/
def State.bar0Write (s : State) (r : Requester) (a size : Nat) (v : W64) : State :=
  let s := s.emptyLatch r
  if size = 4 then if a % 4 = 0 then s.write32 r a (v.extractLsb' 0 32) else s
  else if size = 8 then
    if a % 8 ≠ 0 then s
    else match s.regHeld (reqIdx r) a with
      | some (b, 8, old) => s.putReg r b old v (BitVec.allOnes 64)
      | _ => (s.write32 r a (v.extractLsb' 0 32)).write32 r (a + 4) (v.extractLsb' 32 32)
  else s

/-- Where BAR2 and configuration space stand among the addresses of the register commands: from 64 MiB and from 128 MiB on
(notes/assumptions/32.md, 36.md). -/
def bar2At : Nat := 0x4000000
def cfgAt : Nat := 0x8000000

/-- A write of host port `h` to BAR2 or to configuration space. -/
def State.portWrite (s : State) (h a size : Nat) (v : W64) : State :=
  if a < cfgAt then s.bar2Write h (a - bar2At) size v else s.cfgWrite h (a - cfgAt) size v.toNat

/-- A write to a register with no row of its own, in BAR0, or in BAR2 or configuration space from a host port. With core
power off a host port writes nothing; the bus's write is ignored, and is an access all the same (R12, R449). -/
def State.registerWrite (s : State) (r : Requester) (a size : Nat) (v : W64) : State :=
  if s.pwr.seq != .on then if r = .smb && s.pwr.inputOn && a < bar2At then s.emptyLatch .smb else s
  else if a < bar2At then s.bar0Write r a size v
  else match r with
    | .hp0 => s.portWrite 0 a size v
    | .hp1 => s.portWrite 1 a size v
    | .smb => s

/-- A read of host port `h` from BAR2 or from configuration space: its value, and the state after it. -/
def State.portRead (s : State) (h a size : Nat) : Nat × State :=
  if a < cfgAt then (s.bar2Read h (a - bar2At) size, s) else s.cfgRead h (a - cfgAt) size

/-- A read: its value, and the state after it. -/
def State.readAt (s : State) (r : Requester) (a size : Nat) : Nat × State :=
  if a < bar2At then s.regRead (reqIdx r) a size
  else match r with
    | .hp0 => s.portRead 0 a size
    | .hp1 => s.portRead 1 a size
    | .smb => (0, s)

/-- A read that a host port or the bus makes, with its completion. A host port completes nothing while core power is
off. -/
def State.hostRead (s : State) (r : Requester) (a size : Nat) : State :=
  if (if r = .smb then !s.pwr.inputOn else s.pwr.seq != .on) then s
  else
    let (v, s) := s.readAt r a size
    s.emit (.regRead r a (BitVec.ofNat 64 v))

/-! ## The pier-space window (R399 to R401) -/

/-- Every byte of a span lies in the buddy area or in a region that host port `h` reaches. -/
def State.bar4Admits (s : State) (h : Nat) : Nat → Nat → Nat → Bool
  | 0, _, n => n == 0
  | f + 1, a, n =>
    n == 0 || match s.regionAt a with
      | none => false
      | some r =>
        (r.buddy || r.owner == 0xFF || ((s.partCfg r.owner).isSome && s.hostOf r.owner == h)) &&
        s.bar4Admits h f (r.base + r.size) (a + n - min (a + n) (r.base + r.size))

/-- A refusal is counted (R400). -/
def State.bar4Refuse (s : State) (h : Nat) : State := s.modHost h fun x => { x with bar4Refused := satAdd 32 x.bar4Refused 1 }

/-- A host read through BAR4. One that reaches past its 64 GiB is no request to BAR4. -/
def State.bar4Read (s : State) (h off len : Nat) : State :=
  if s.pwr.seq != .on || off + len > barSize 2 then s
  else
    let a := (s.host h).bar4Base.toNat + off
    if s.frz.frozen || !s.bar4Admits h (s.cfg.regions.length + 1) a len then
      ((s.bar4Refuse h).logAbort h).emit (.bar4 h none)
    else
      let (bs, s) := s.fetchLoc (.pier a) len
      s.emit (.bar4 h (some bs))

/-- A host write through BAR4. While a cast is sent or restored, one that touches a cast region is discarded (R341, R347);
while the module is frozen every one is (R374). -/
def State.bar4Write (s : State) (h off : Nat) (bs : List Byte) : State :=
  if s.pwr.seq != .on || s.frz.frozen || off + bs.length > barSize 2 then s
  else
    let a := (s.host h).bar4Base.toNat + off
    if !s.bar4Admits h (s.cfg.regions.length + 1) a bs.length || s.touches (·.buddy) a bs.length then s.bar4Refuse h
    else if s.castHeld && s.touches (·.cast) a bs.length then s
    else s.storeLoc (.pier a) bs

/-! ## The management bus (R448, R449) -/

/-- The bus answers: 4 bytes and a good PEC. -/
def State.smbAnswers (s : State) (count : Nat) (pecOk : Bool) : Bool := s.pwr.inputOn && count == 4 && pecOk

/-- Command 0x10: the pointer. One that is no multiple of 4 makes accesses that are not aligned (R13). -/
def State.smbPoint (s : State) (count : Nat) (pecOk : Bool) (v : W32) : State :=
  if !s.pwr.inputOn then s
  else if !s.smbAnswers count pecOk then s.emit (.smb none)
  else { s with smbPtr := v }

/-- Command 0x11: 32 bits at the pointer, which moves on. -/
def State.smbFetch (s : State) (pecOk : Bool) : State :=
  if !s.pwr.inputOn then s
  else if !pecOk then s.emit (.smb none)
  else
    let (v, t) := s.readAt .smb s.smbPtr.toNat 4
    ({ t with smbPtr := s.smbPtr + 4 }).emit (.smb (some (BitVec.ofNat 32 v)))

/-- Command 0x12: 32 bits written at the pointer, which moves on. -/
def State.smbStore (s : State) (count : Nat) (pecOk : Bool) (v : W32) : State :=
  if !s.pwr.inputOn then s
  else if !s.smbAnswers count pecOk then s.emit (.smb none)
  else
    let t := s.registerWrite .smb s.smbPtr.toNat 4 (v.zeroExtend 64)
    { t with smbPtr := s.smbPtr + 4 }

def execPwrCapWrite (r : Requester) (v : W32) (s : State) : Host.Outcome State Fault Refusal :=
  .next (s.capWrite r v)

def execGenBar4BaseWrite (port : Nat) (v : W64) (s : State) : Host.Outcome State Fault Refusal :=
  guarded (isHost port) (s.bar4BaseWrite port v)

def execLowHalfRead (r : Requester) (x : Access) (s : State) : Host.Outcome State Fault Refusal :=
  .next (s.hostRead r x.a x.size)

def execHighHalfRead (r : Requester) (x : Access) (s : State) : Host.Outcome State Fault Refusal :=
  .next (s.hostRead r x.a x.size)

def execRcRead (r : Requester) (x : Access) (s : State) : Host.Outcome State Fault Refusal :=
  .next (s.hostRead r x.a x.size)

def execRegisterWrite (r : Requester) (a size : Nat) (v : W64) (s : State) : Host.Outcome State Fault Refusal :=
  .next (s.registerWrite r a size v)

def execBar4Read (port off len : Nat) (s : State) : Host.Outcome State Fault Refusal :=
  guarded (isHost port) (s.bar4Read port off len)

def execBar4Write (port off : Nat) (data : List Byte) (s : State) : Host.Outcome State Fault Refusal :=
  guarded (isHost port) (s.bar4Write port off data)

def execMbGo (port : Nat) (secure : Bool) (ch : Nat) (s : State) : Host.Outcome State Fault Refusal :=
  guarded (isHost port && isChannel secure ch) (s.mbSend port secure ch)

def execTake (port : Nat) (secure : Bool) (ch : Nat) (s : State) : Host.Outcome State Fault Refusal :=
  guarded (isHost port && isChannel secure ch) (s.mbTake port secure ch)

def execSmbSetPointer (count : Nat) (pecOk : Bool) (v : W32) (s : State) : Host.Outcome State Fault Refusal :=
  .next (s.smbPoint count pecOk v)

def execSmbRead (pecOk : Bool) (s : State) : Host.Outcome State Fault Refusal :=
  .next (s.smbFetch pecOk)

def execSmbWrite (count : Nat) (pecOk : Bool) (v : W32) (s : State) : Host.Outcome State Fault Refusal :=
  .next (s.smbStore count pecOk v)

end Sys2Proof.Machine
end

