-- ==== Sys2Proof/Machine/Mailbox.lean ====
section
/-!
DEFINITION. The mason's side of the mailboxes (R409 to R416, R437): taking messages in order, sessions (R415), path
tests (R385, R411), attestation (R436), INSTALL (R427, R430), and firmware update and commit (R433 to R435).
-/
namespace Sys2Proof.Machine

/-! ## Operations and channels -/

/-- An operation for the message in a channel: the channel's GO stays set until its reply. -/
def State.mbOp (s : State) (h : Nat) (secure : Bool) (ch : Nat) (bytes : List Byte) : MbOp :=
  { port := h, ch := ch, tag := (s.chan h secure ch).tag, bytes := bytes, at_ := s.gen.time }

def State.hold (s : State) (h : Nat) (secure : Bool) (ch : Nat) : State := s.modChan h secure ch fun x => { x with busy := true }

/-- Bytes of words DATA`i` on. -/
def Chan.bytes (x : Chan) (i n : Nat) : List Byte := (List.range n).flatMap fun k => leBytes 4 (x.word (i + k))

/-! ## The order of service (R414) -/

/-- Channels of each port that a core serves. -/
def coreChans (secure : Bool) : Nat := if secure then 4 else 12

/-- A host message that a core has not taken. -/
def Chan.waits (x : Chan) : Bool := x.go && !x.fromMod && !x.busy

/-- The next channel of a core after the last it served: HP0's channels in order, then HP1's. -/
def State.nextChan (s : State) (secure : Bool) : Option (Nat × Nat) :=
  let n := coreChans secure
  let last := if secure then s.sec.lastS else s.sec.lastG
  ((List.range (2 * n)).map fun i => (last + 1 + i) % (2 * n)).find? (fun i => (s.chan (i / n) secure (i % n)).waits) |>.map
    fun i => (i / n, i % n)

def State.noteServed (s : State) (h : Nat) (secure : Bool) (ch : Nat) : State :=
  let i := coreChans secure * h + ch
  { s with sec := if secure then { s.sec with lastS := i } else { s.sec with lastG := i } }

/-! ## Long messages (R412) -/

/-- What a fragment comes to: a status to answer with, or the whole message. -/
inductive Fragment where
  | answer (status : Nat)
  | whole (bytes : List Byte)
  deriving DecidableEq, Repr

/-- The message so far is forgotten. -/
def Chan.restart (x : Chan) : Chan := { x with long := [], longOpc := 0, longTotal := 0 }

/-- A fragment of a long message of opcode `opc`; `total` is its TOTAL where the opcode fixes it. -/
def Chan.fragment (x : Chan) (opc : Nat) (total : Option Nat) : Fragment × Chan :=
  let off := x.word 1 % 2 ^ 16
  let tot := x.word 1 / 2 ^ 16
  let y := if x.longOpc = opc then x else x.restart
  let n := 4 * (x.count - 1)
  if x.count = 0 || total.any (· != tot) || off ≠ y.long.length || (off ≠ 0 && tot ≠ y.longTotal) then
    (.answer mbFormat, y.restart)
  else if off + n ≥ tot + 4 then (.answer mbExtent, y)
  else
    let k := min n (tot - off)
    let l := y.long ++ (x.bytes 2 (x.count - 1)).take k
    if l.length = tot then (.whole l, y.restart)
    else (.answer mbOk, { y with long := l, longOpc := opc, longTotal := tot })

/-- A fragment is taken, and its answer or the whole message goes on to `f`. -/
def State.fragment (s : State) (h : Nat) (secure : Bool) (ch opc : Nat) (total : Option Nat) (f : State → List Byte → State) :
    State :=
  let (r, x) := (s.chan h secure ch).fragment opc total
  let s := s.setChan h secure ch x
  match r with
  | .answer st => s.reply h secure ch st []
  | .whole b => f s b

/-! ## Messages of every channel 9 to 11 -/

/-- ECHO (R411): the words come back. -/
def State.mbEcho (s : State) (h ch : Nat) : State :=
  let x := s.chan h false ch
  if x.count = 15 then s.reply h false ch mbFormat []
  else s.reply h false ch mbOk ((List.range x.count).map fun i => x.word (1 + i))

/-- PATH_ECHO: mason-G sends an ECHO to the node. -/
def State.mbPathEcho (s : State) (h ch : Nat) : State :=
  let x := s.chan h false ch
  let n := x.word 1
  if x.count ≠ 1 || n ≥ 2 ^ 17 then s.reply h false ch mbFormat []
  else if !s.sec.echoes.isEmpty then s.reply h false ch mbBusy []
  else
    let s := (s.hold h false ch)
    let s := { s with sec := { s.sec with echoes := [s.mbOp h false ch (leBytes 4 n)] } }
    if s.live then
      s.send (s.hopDie n 4) { blankPkt with dest := BitVec.ofNat 17 n, tc := 4, opc := 0x50 } s.rte.inj .reply none true
    else s

/-- An ECHO_REPLY ends the path test of its node: the round trip in AOCLK cycles. -/
def State.echoReply (s : State) (d : Nat) (p : Packet) : State :=
  match s.takeDatagram d p 0x51 with
  | none => s
  | some s => match s.sec.echoes.find? fun o => fieldAt o.bytes 0 4 == p.src.toNat with
    | none => s
    | some o =>
      ({ s with sec := { s.sec with echoes := s.sec.echoes.erase o } }).lateReply o false mbOk
        [(s.gen.time - o.at_) % 2 ^ 32]

/-- No reply within 10 ms. -/
def State.echoTimeout (s : State) (h ch : Nat) : State :=
  match s.sec.echoes.find? fun o => o.port == h && o.ch == ch with
  | none => s
  | some o =>
    if !s.masonUp || s.gen.time < o.at_ + 250000 then s
    else ({ s with sec := { s.sec with echoes := s.sec.echoes.erase o } }).lateReply o false mbBusy []

/-! ## Attestation and certificate (R436, R437) -/

/-- The attestation report before its signature, with the request's nonce. -/
def State.reportBody (s : State) (nonce : List Byte) : List Byte :=
  let x := s.sec
  leBytes 4 0x54535441 ++ leBytes 2 1 ++ leBytes 1 s.bu.stage ++ leBytes 1 s.buState ++ leBytes 8 s.gen.serial.toNat ++
  padTo 16 x.fp ++ padTo 32 nonce ++ padTo 32 x.mRom ++ padTo 32 x.mFw ++ padTo 32 s.bond.meas ++
  (match x.licence with
    | some b => shake256 b 32
    | none => List.replicate 32 0) ++
  leBytes 4 s.gen.fw.toNat ++ leBytes 4 x.arb.toNat ++ leBytes 8 s.bond.activeSeq.toNat ++ leBytes 8 s.gen.time ++
  leBytes 4 s.gen.capLic.toNat ++ leBytes 4 0

/-- ATTEST starts, or answers at once. -/
def State.mbAttest (s : State) (h ch : Nat) : State :=
  let x := s.chan h false ch
  if x.count ≠ 8 then s.reply h false ch mbFormat []
  else if s.sec.seed.isNone then s.reply h false ch mbOk [resNoIdentity]
  else if !s.sec.attesting.isEmpty then s.reply h false ch mbBusy []
  else
    let s := s.hold h false ch
    { s with sec := { s.sec with attesting := [s.mbOp h false ch (x.bytes 1 8)] } }

/-- The report is signed and stands in the port's SEC_BUF. -/
def State.attestDone (s : State) : State :=
  match s.sec.attesting, s.sec.seed with
  | o :: t, some seed =>
    if !s.masonUp then s
    else
      let b := s.reportBody o.bytes
      let r := b ++ edSign seed "HT4-ATST" b ++ List.replicate 14 0
      let s := { s with sec := { s.sec with attesting := t } }
      let s := s.modHost o.port fun y => { y with secBuf := r, secKind := 1 }
      s.lateReply o false mbOk [resOk, 352]
  | _, _ => s

/-- The DEVCERT record that the module holds. -/
def State.devCert (s : State) : List Byte :=
  if s.sec.cert = [] then (s.newestRec 1 fun _ => true).getD [] else s.sec.cert

/-- GET_CERT. -/
def State.mbGetCert (s : State) (h ch : Nat) : State :=
  let x := s.chan h false ch
  if x.count ≠ 0 then s.reply h false ch mbFormat []
  else match s.devCert with
    | [] => s.reply h false ch mbOk [resNoIdentity]
    | c => (s.modHost h fun y => { y with secBuf := c, secKind := 2 }).reply h false ch mbOk [resOk, c.length]

/-! ## INSTALL (R427, R430, R437) -/

/-- INSTALL, FW_UPDATE or FW_COMMIT runs. -/
def State.flashBusy (s : State) : Bool := s.sec.updating.isSome || s.sec.installing.isSome || s.sec.committing.isSome

/-- INSTALL. (DESIGN CHOICE, notes/assumptions/11.md: TOTAL 0 is answered TYPE.) -/
def State.mbInstall (s : State) (h ch : Nat) : State :=
  if !s.ownedBy h then s.reply h false ch mbAccess []
  else if s.flashBusy then s.reply h false ch mbBusy []
  else s.fragment h false ch 0x22 none fun s b =>
    let r := s.installCheck b
    if r ≠ 0 then s.reply h false ch mbOk [r]
    else
      let s := s.hold h false ch
      { s with sec := { s.sec with installing := some (s.mbOp h false ch b) } }

/-- The flash write and read-back of an INSTALL end; a record that finds no room, or whose generation the
replay-protected block does not take, was not installed. -/
def State.installDone (s : State) (ok : Bool) : State :=
  match s.sec.installing with
  | none => s
  | some o =>
    if !s.masonUp then s
    else
      let s := { s with sec := { s.sec with installing := none } }
      match (if ok then s.installRecord o.bytes else none) with
      | some s => s.lateReply o false mbOk [resOk]
      | none => s.lateReply o false mbOk [resFlash]

/-! ## Sessions (R415) -/

def State.closeSession (s : State) (h ch : Nat) : State :=
  s.modChan h true ch fun x => { x with session := 0, keySlot := 0, nonce := [] }

/-- CHALLENGE: the nonce is the command's operand. -/
def State.mbChallenge (s : State) (h ch : Nat) (nonce : List Byte) : State :=
  let x := s.chan h true ch
  if x.count ≠ 0 then s.reply h true ch mbFormat []
  else
    let n := padTo 32 nonce
    ((s.closeSession h ch).modChan h true ch fun x => { x with session := 1, nonce := n }).reply h true ch mbOk
      ((List.range 8).map fun i => fieldAt n (4 * i) 4)

/-- The proof of an OPEN verifies against the host key of its slot. -/
def State.opens (s : State) (h ch : Nat) (b : List Byte) : Bool :=
  let x := s.chan h true ch
  match Tab.find? s.sec.hostKeys (fieldAt b 0 1) with
  | none => false
  | some key => x.session == 1 &&
    edVerify key "HT4-SESS" (x.nonce ++ [BitVec.ofNat 8 h, BitVec.ofNat 8 ch]) (sliceAt b 4 114)

def State.mbOpen (s : State) (h ch : Nat) : State :=
  s.fragment h true ch 0xE1 (some 118) fun s b =>
    if fieldAt b 0 1 > 3 || !zeroAt b 1 3 then s.reply h true ch mbFormat []
    else if s.opens h ch b then
      (s.modChan h true ch fun x => { x with session := 2, keySlot := fieldAt b 0 1, nonce := [] }).reply h true ch mbOk []
    else (s.closeSession h ch).reply h true ch mbSignature []

def State.mbClose (s : State) (h ch : Nat) : State :=
  if (s.chan h true ch).count ≠ 0 then s.reply h true ch mbFormat [] else (s.closeSession h ch).reply h true ch mbOk []

/-! ## Firmware (R433 to R435) -/

/-- The session was opened with host slot 0. -/
def State.slot0 (s : State) (h ch : Nat) : Bool := (s.chan h true ch).keySlot == 0

/-- FW_UPDATE (R433). A length of 0 is done at once (R17); otherwise the slot that does not run is erased, and the fetch
starts once the port may be used. -/
def State.mbFwUpdate (s : State) (h ch : Nat) : State :=
  let x := s.chan h true ch
  let a := BitVec.ofNat 64 (x.word 1 + 2 ^ 32 * x.word 2)
  let n := x.word 3
  if !s.slot0 h ch then s.reply h true ch mbAccess []
  else if x.count ≠ 3 || a.toNat % 64 ≠ 0 then s.reply h true ch mbFormat []
  else if n > 2 ^ 24 then s.reply h true ch mbOk [resTooLarge]
  else if s.flashBusy then s.reply h true ch mbBusy []
  else if n = 0 then s.reply h true ch mbOk [resOk]
  else (s.hold h true ch).updateSlot { port := h, ch := ch, tag := x.tag, addr := a, len := n, second := false, sent := false }

/-- The verification of an image that has been written to a slot (R431, R433): its RESULT, 0 when it may run. -/
def State.imageResult (s : State) (img : List Byte) : Nat :=
  if !s.fwValid img then resSignature else if fwSvn img < s.sec.arb.toNat then resRollback else 0

/-- Whole pieces of 64 KiB of an image of `n` bytes that came before its fetch failed. -/
def wholePieces (n : Nat) (got : List Byte) : List Byte := got.take (min got.length n / 65536 * 65536)

/-- The fetch of the slot being written ends (R433): with an image, which is written and verified, or with the pieces
`got` that came before it failed. An image that is not valid, or whose SVN is below C, ends the update before the running
slot is touched; a sound one in both slots ends it with OK. -/
def State.fwUpdateDone (s : State) (got : List Byte) (r : HostResult) : State :=
  match s.sec.updating with
  | none => s
  | some u =>
    let put (b : List Byte) : State := { s with sec := s.sec.putSlot (s.sec.writing u) b }
    if !s.masonUp || !u.sent || s.waits u.port r then s
    else match r with
      | .data img =>
        if img.length ≠ u.len then s
        else
          let k := s.imageResult img
          if k ≠ 0 then (put img).updateReply u k
          else if u.second then (put img).updateReply u resOk
          else (put img).updateSlot { u with second := true, sent := false }
      | _ => ((put (wholePieces u.len got)).updateReply u resFetch).logRead u.port r

def State.mbFwCommit (s : State) (h ch : Nat) : State :=
  if !s.slot0 h ch then s.reply h true ch mbAccess []
  else if (s.chan h true ch).count ≠ 0 then s.reply h true ch mbFormat []
  else if s.flashBusy then s.reply h true ch mbBusy []
  else
    let s := s.hold h true ch
    { s with sec := { s.sec with committing := some (s.mbOp h true ch []) } }

/-- FW_COMMIT ends (R435): C rises by a write of the replay-protected block (R423), which the device may turn away. -/
def State.fwCommitDone (s : State) : State :=
  match s.sec.committing with
  | none => s
  | some o =>
    if !s.masonUp then s
    else
      let x := { s.sec with committing := none }
      let ok := s.fwValid x.slotA && s.fwValid x.slotB
      let c := if ok then min (fwSvn x.slotA) (fwSvn x.slotB) else 0
      if c ≤ x.arb.toNat then
        ({ s with sec := x }).lateReply o true mbOk [if ok then resOk else resNoValid, x.arb.toNat]
      else match x.rpmbWrite (BitVec.ofNat 32 c) x.licGen x.keyGen with
        | some y => ({ s with sec := y }).lateReply o true mbOk [resOk, c]
        | none => ({ s with sec := x }).lateReply o true mbOk [resFlash, x.arb.toNat]

/-! ## Serving a channel (R411, R413, R415) -/

/-- Opcodes of the manual that non-secure channels carry. -/
def nsOpcode (o : Nat) : Bool := o == 0x01 || o == 0x02 || o == 0x03 || o == 0x20 || o == 0x21 || o == 0x22

/-- mason-G serves the message in a non-secure channel. -/
def State.serveNs (s : State) (h ch : Nat) : State :=
  let o := (s.chan h false ch).opcode
  if ch < 9 then
    if ch = 0 || (s.partCfg (ch - 1)).isNone || s.hostOf (ch - 1) ≠ h || nsOpcode o then s.reply h false ch mbAccess []
    else s.reply h false ch mbUnknown []
  else if o = 0x02 then s.mbEcho h ch
  else if o = 0x03 then s.mbPathEcho h ch
  else if o = 0x20 then s.mbAttest h ch
  else if o = 0x21 then s.mbGetCert h ch
  else if o = 0x22 then s.mbInstall h ch
  else if o = 0x01 then s.reply h false ch mbAccess []
  else s.reply h false ch mbUnknown []

/-- mason-S serves the message in a secure channel. -/
def State.serveS (s : State) (h ch : Nat) (nonce : List Byte) : State :=
  let x := s.chan h true ch
  let o := x.opcode
  if o = 0xE0 then s.mbChallenge h ch nonce
  else if o = 0xE1 then s.mbOpen h ch
  else if x.session ≠ 2 then s.reply h true ch mbNoSession []
  else if o = 0xE2 then s.mbClose h ch
  else if o = 0x80 then s.mbFwUpdate h ch
  else if o = 0x81 then s.mbFwCommit h ch
  else s.reply h true ch mbUnknown []

def State.serve (s : State) (h : Nat) (secure : Bool) (ch : Nat) (nonce : List Byte) : State :=
  let s := s.noteServed h secure ch
  if secure then s.serveS h ch nonce else s.serveNs h ch

/-- A core takes the next host message (R414). -/
def State.mailboxTake (s : State) (secure : Bool) (nonce : List Byte) : State :=
  if !s.masonUp then s
  else match s.nextChan secure with
    | none => s
    | some (h, ch) => s.serve h secure ch nonce

/-- The message that a core takes next is in this channel, with this opcode. -/
def State.mbRow (s : State) (h : Nat) (secure : Bool) (ch opc : Nat) (nonce : List Byte) : State :=
  if !s.masonUp || s.nextChan secure != some (h, ch) || (s.chan h secure ch).opcode != opc then s
  else s.serve h secure ch nonce

def execMailboxTake (secure : Bool) (nonce : List Byte) (s : State) : Host.Outcome State Fault Refusal :=
  .next (s.mailboxTake secure nonce)

def execEchoMsg (port ch : Nat) (s : State) : Host.Outcome State Fault Refusal :=
  guarded (isHost port && isChannel false ch) (s.mbRow port false ch 0x02 [])

def execPathEcho (port ch : Nat) (s : State) : Host.Outcome State Fault Refusal :=
  guarded (isHost port && isChannel false ch) (s.mbRow port false ch 0x03 [])

def execPathEchoTimeout (port ch : Nat) (s : State) : Host.Outcome State Fault Refusal :=
  guarded (isHost port && isChannel false ch) (s.echoTimeout port ch)

def execEchoReply (d : Nat) (p : Packet) (s : State) : Host.Outcome State Fault Refusal :=
  guarded (isDie d) (s.echoReply d p)

def execChallenge (port ch : Nat) (nonce : List Byte) (s : State) : Host.Outcome State Fault Refusal :=
  guarded (isHost port && isChannel true ch) (s.mbRow port true ch 0xE0 nonce)

def execOpenMsg (port ch : Nat) (s : State) : Host.Outcome State Fault Refusal :=
  guarded (isHost port && isChannel true ch) (s.mbRow port true ch 0xE1 [])

def execCloseMsg (port ch : Nat) (s : State) : Host.Outcome State Fault Refusal :=
  guarded (isHost port && isChannel true ch) (s.mbRow port true ch 0xE2 [])

def execAttest (port ch : Nat) (s : State) : Host.Outcome State Fault Refusal :=
  guarded (isHost port && isChannel false ch) (s.mbRow port false ch 0x20 [])

def execAttestDone (s : State) : Host.Outcome State Fault Refusal :=
  .next s.attestDone

def execGetCert (port ch : Nat) (s : State) : Host.Outcome State Fault Refusal :=
  guarded (isHost port && isChannel false ch) (s.mbRow port false ch 0x21 [])

def execInstall (port ch : Nat) (s : State) : Host.Outcome State Fault Refusal :=
  guarded (isHost port && isChannel false ch) (s.mbRow port false ch 0x22 [])

def execInstallDone (ok : Bool) (s : State) : Host.Outcome State Fault Refusal :=
  .next (s.installDone ok)

def execFwUpdate (port ch : Nat) (s : State) : Host.Outcome State Fault Refusal :=
  guarded (isHost port && isChannel true ch) (s.mbRow port true ch 0x80 [])

def execFwUpdateDone (x : FetchEnd) (s : State) : Host.Outcome State Fault Refusal :=
  .next (s.fwUpdateDone x.got x.r)

def execFwCommit (port ch : Nat) (s : State) : Host.Outcome State Fault Refusal :=
  guarded (isHost port && isChannel true ch) (s.mbRow port true ch 0x81 [])

def execFwCommitDone (s : State) : Host.Outcome State Fault Refusal :=
  .next s.fwCommitDone

end Sys2Proof.Machine
end

