-- ==== Sys2Proof/Machine/Scalar.lean ====
section
/-!
DEFINITION. Scalar and branch instructions, opcodes 0x00 to 0x0F (R77).
-/
namespace Sys2Proof.Machine

/-- gD := a function of gA and Y. -/
def aluOp (f : Fields) (op : W64 → W64 → W64) (r : Run) (s : State) : Except Err State := do
  checkFields f .any .any .any .no immAll
  onEngine r.e (fun x => x.setG f.d (op (x.gr f.a) (x.y f))) s

/-- The shift distance Y mod 64. -/
def shAmt (y : W64) : Nat := y.toNat % 64

/-- ⊙ of CMP. -/
def cmpOp (sel : Nat) (a b : W64) : Option Bool :=
  match sel with
  | 0 => some (a == b)
  | 1 => some (a != b)
  | 2 => some (a.ult b)
  | 3 => some (a.slt b)
  | 4 => some (!a.ult b)
  | 5 => some (!a.slt b)
  | _ => none

def cmpBody (f : Fields) (r : Run) (s : State) : Except Err State := do
  checkFields f .any .any .any .no 7
  let x := s.eng r.e
  match cmpOp f.imm.toNat (x.gr f.a) (x.gr f.b) with
  | none => .error (err faultIllegal)
  | some t => onEngine r.e (fun x => x.setG f.d (if t then 1 else 0)) s

/-- PC := PC + 8 × sext(IMM), from the branch's own PC, when the test holds (R77). -/
def branchBody (f : Fields) (test : W64 → Bool) (r : Run) (s : State) : Except Err State := do
  checkFields f .no .any .no .no immAll
  let x := s.eng r.e
  if test (x.gr f.a) then
    onEngine r.e (fun x => { x with pc := (BitVec.ofNat 64 x.pc - 8 + 8 * sextImm f).toNat }) s
  else .ok s

def jalBody (f : Fields) (r : Run) (s : State) : Except Err State := do
  checkFields f .any .any .no .no immAll
  onEngine r.e (fun x =>
    { x.setG f.d (BitVec.ofNat 64 x.pc) with pc := (x.gr f.a + 8 * sextImm f).toNat }) s

def nopBody (f : Fields) (_ : Run) (s : State) : Except Err State := do
  checkFields f .no .no .no .no 0
  .ok s

def liBody (f : Fields) (r : Run) (s : State) : Except Err State := do
  checkFields f .any .no .no .no immAll
  onEngine r.e (fun x => x.setG f.d (sextImm f)) s

def lihBody (f : Fields) (r : Run) (s : State) : Except Err State := do
  checkFields f .any .any .no .no immAll
  onEngine r.e (fun x => x.setG f.d ((x.gr f.a &&& 0xFFFFFFFF) ||| (f.imm.zeroExtend 64 <<< 32))) s

def execNop (e : Nat) (f : Fields) (s : State) : Host.Outcome State Fault Refusal :=
  guarded (isEngine e) (s.issue e 0x00 f (nopBody f))

def execAdd (e : Nat) (f : Fields) (s : State) : Host.Outcome State Fault Refusal :=
  guarded (isEngine e) (s.issue e 0x01 f (aluOp f fun a y => a + y))

def execSub (e : Nat) (f : Fields) (s : State) : Host.Outcome State Fault Refusal :=
  guarded (isEngine e) (s.issue e 0x02 f (aluOp f fun a y => a - y))

def execMul (e : Nat) (f : Fields) (s : State) : Host.Outcome State Fault Refusal :=
  guarded (isEngine e) (s.issue e 0x03 f (aluOp f fun a y => a * y))

def execAnd (e : Nat) (f : Fields) (s : State) : Host.Outcome State Fault Refusal :=
  guarded (isEngine e) (s.issue e 0x04 f (aluOp f fun a y => a &&& y))

def execOr (e : Nat) (f : Fields) (s : State) : Host.Outcome State Fault Refusal :=
  guarded (isEngine e) (s.issue e 0x05 f (aluOp f fun a y => a ||| y))

def execXor (e : Nat) (f : Fields) (s : State) : Host.Outcome State Fault Refusal :=
  guarded (isEngine e) (s.issue e 0x06 f (aluOp f fun a y => a ^^^ y))

def execShl (e : Nat) (f : Fields) (s : State) : Host.Outcome State Fault Refusal :=
  guarded (isEngine e) (s.issue e 0x07 f (aluOp f fun a y => a <<< shAmt y))

def execShr (e : Nat) (f : Fields) (s : State) : Host.Outcome State Fault Refusal :=
  guarded (isEngine e) (s.issue e 0x08 f (aluOp f fun a y => a >>> shAmt y))

def execSar (e : Nat) (f : Fields) (s : State) : Host.Outcome State Fault Refusal :=
  guarded (isEngine e) (s.issue e 0x09 f (aluOp f fun a y => a.sshiftRight (shAmt y)))

def execLi (e : Nat) (f : Fields) (s : State) : Host.Outcome State Fault Refusal :=
  guarded (isEngine e) (s.issue e 0x0A f (liBody f))

def execLih (e : Nat) (f : Fields) (s : State) : Host.Outcome State Fault Refusal :=
  guarded (isEngine e) (s.issue e 0x0B f (lihBody f))

def execCmp (e : Nat) (f : Fields) (s : State) : Host.Outcome State Fault Refusal :=
  guarded (isEngine e) (s.issue e 0x0C f (cmpBody f))

def execBrz (e : Nat) (f : Fields) (s : State) : Host.Outcome State Fault Refusal :=
  guarded (isEngine e) (s.issue e 0x0D f (branchBody f fun a => a == 0))

def execBrnz (e : Nat) (f : Fields) (s : State) : Host.Outcome State Fault Refusal :=
  guarded (isEngine e) (s.issue e 0x0E f (branchBody f fun a => a != 0))

def execJal (e : Nat) (f : Fields) (s : State) : Host.Outcome State Fault Refusal :=
  guarded (isEngine e) (s.issue e 0x0F f (jalBody f))

end Sys2Proof.Machine
end

