-- ==== Sys2Proof/Machine/System.lean ====
section
/-!
DEFINITION. System instructions, opcodes 0xF0 to 0xF2.
-/
namespace Sys2Proof.Machine

/-- SYSR (R69). The course clock cycles of selector 7 are those of State.tick. -/
def sysrBody (f : Fields) (r : Run) (s : State) : Except Err State := do
  checkFields f .any .no .no .no 0xFF
  let put (v : Nat) (s : State) : Except Err State := onEngine r.e (fun x => x.setG f.d (BitVec.ofNat 64 v)) s
  match f.imm.toNat with
  | 0 => put r.e s
  | 1 => put (r.e / 32) s
  | 2 => put r.c s
  | 3 => put r.d.seq.toNat s
  | 4 => put r.d.ctx s
  | 5 => put r.part s
  | 6 => put s.cfg.slice.nodeId.toNat s
  | 7 => put (s.eng r.e).itemCyc s
  | 8 => put (s.eng r.e).numstat.toNat s
  | _ => .error (err faultIllegal)

/-- TRAP ends the item with fault code 0x40 + IMM[5:0] (R112). -/
def trapBody (f : Fields) (_r : Run) (_s : State) : Except Err State := do
  checkFields f .no .no .no .no 0x3F
  .error (err (0x40 + f.imm.setWidth 8))

/-- CFENCE waits for the item's copies and network operations. -/
def cfenceBody (f : Fields) (r : Run) (s : State) : Except Err State := do
  checkFields f .no .no .no .no 0
  if s.itemCopies r.e r.c r.k || s.itemNets r.e r.c r.k then onEngine r.e (fun x => { x with act := .waitFence }) s
  else .ok s

/-- What a waiting CFENCE waits for has completed. -/
def State.cfenceMet (s : State) (e : Nat) : State :=
  if (s.eng e).act ≠ .waitFence || !s.mayResume e then s
  else match s.run e with
    | none => s
    | some r =>
      if s.itemCopies e r.c r.k || s.itemNets e r.c r.k then s else s.modEng e fun x => { x with act := .run }

def execSysr (e : Nat) (f : Fields) (s : State) : Host.Outcome State Fault Refusal :=
  guarded (isEngine e) (s.issue e 0xF0 f (sysrBody f))

def execTrap (e : Nat) (f : Fields) (s : State) : Host.Outcome State Fault Refusal :=
  guarded (isEngine e) (s.issue e 0xF1 f (trapBody f))

def execCfence (e : Nat) (f : Fields) (s : State) : Host.Outcome State Fault Refusal :=
  guarded (isEngine e) (s.issue e 0xF2 f (cfenceBody f))

def execCfenceMet (e : Nat) (s : State) : Host.Outcome State Fault Refusal :=
  guarded (isEngine e) (s.cfenceMet e)

end Sys2Proof.Machine
end

