-- ==== Sys2Proof/Machine/Vector.lean ====
section
/-!
DEFINITION. Vector operations, opcodes 0x40 to 0x4F (R91).
-/
namespace Sys2Proof.Machine

/-- Lane by lane, a function of two vector registers. -/
def vBin (op : W32 → W32 → W32) (f : Fields) (r : Run) (s : State) : Except Err State := do
  checkFields f .vec .vec .vec .no 0
  onEngine r.e (fun x => x.setV f.d.toNat (List.zipWith op (x.vr f.a.toNat) (x.vr f.b.toNat))) s

/-- Lane by lane, a function of one vector register. -/
def vUn (op : W32 → W32) (f : Fields) (r : Run) (s : State) : Except Err State := do
  checkFields f .vec .vec .no .no 0
  onEngine r.e (fun x => x.setV f.d.toNat ((x.vr f.a.toNat).map op)) s

def vfmaBody (f : Fields) (r : Run) (s : State) : Except Err State := do
  checkFields f .vec .vec .vec .vec 0
  onEngine r.e (fun x => x.setV f.d.toNat
    (List.zipWith (fun (p : W32 × W32) c => ffma p.1 p.2 c) ((x.vr f.a.toNat).zip (x.vr f.b.toNat))
      (x.vr f.c.toNat))) s

/-- Bit i is 1 where the comparison holds on lane i. -/
def maskOf : List Bool → Nat
  | [] => 0
  | b :: t => b2n b + 2 * maskOf t

def vcmpBody (f : Fields) (r : Run) (s : State) : Except Err State := do
  checkFields f .any .vec .vec .no 3
  onEngine r.e (fun x => x.setG f.d
    (BitVec.ofNat 64 (maskOf (List.zipWith (fcmp f.imm.toNat) (x.vr f.a.toNat) (x.vr f.b.toNat))))) s

def vselBody (f : Fields) (r : Run) (s : State) : Except Err State := do
  checkFields f .vec .vec .vec .any 0
  onEngine r.e (fun x => x.setV f.d.toNat ((List.range 32).map fun i =>
    if (x.gr f.c).getLsbD i then x.lane f.a.toNat i else x.lane f.b.toNat i)) s

def vcvtBody (f : Fields) (r : Run) (s : State) : Except Err State := do
  checkFields f .vec .vec .no .no 1
  onEngine r.e (fun x => x.setV f.d.toNat ((x.vr f.a.toNat).map (if f.imm = 0 then fToInt else intToF))) s

def vbcastBody (f : Fields) (r : Run) (s : State) : Except Err State := do
  checkFields f .vec .any .no .no 0
  onEngine r.e (fun x => x.setV f.d.toNat (List.replicate 32 ((x.gr f.a).setWidth 32))) s

def vpermBody (f : Fields) (r : Run) (s : State) : Except Err State := do
  checkFields f .vec .vec .vec .no 0
  onEngine r.e (fun x => x.setV f.d.toNat ((x.vr f.b.toNat).map fun i => x.lane f.a.toNat (i.toNat % 32))) s

def vmovgBody (f : Fields) (r : Run) (s : State) : Except Err State := do
  checkFields f .any .any .vec .no 0
  onEngine r.e (fun x => x.setG f.d ((x.lane f.b.toNat ((x.gr f.a).toNat % 32)).setWidth 64)) s

def execVadd (e : Nat) (f : Fields) (s : State) : Host.Outcome State Fault Refusal :=
  guarded (isEngine e) (s.issue e 0x40 f (vBin fadd f))

def execVsub (e : Nat) (f : Fields) (s : State) : Host.Outcome State Fault Refusal :=
  guarded (isEngine e) (s.issue e 0x41 f (vBin fsub f))

def execVmul (e : Nat) (f : Fields) (s : State) : Host.Outcome State Fault Refusal :=
  guarded (isEngine e) (s.issue e 0x42 f (vBin fmul f))

def execVfma (e : Nat) (f : Fields) (s : State) : Host.Outcome State Fault Refusal :=
  guarded (isEngine e) (s.issue e 0x43 f (vfmaBody f))

def execVmax (e : Nat) (f : Fields) (s : State) : Host.Outcome State Fault Refusal :=
  guarded (isEngine e) (s.issue e 0x44 f (vBin fmax f))

def execVmin (e : Nat) (f : Fields) (s : State) : Host.Outcome State Fault Refusal :=
  guarded (isEngine e) (s.issue e 0x45 f (vBin fmin f))

def execVcmp (e : Nat) (f : Fields) (s : State) : Host.Outcome State Fault Refusal :=
  guarded (isEngine e) (s.issue e 0x46 f (vcmpBody f))

def execVsel (e : Nat) (f : Fields) (s : State) : Host.Outcome State Fault Refusal :=
  guarded (isEngine e) (s.issue e 0x47 f (vselBody f))

def execVexp2 (e : Nat) (f : Fields) (s : State) : Host.Outcome State Fault Refusal :=
  guarded (isEngine e) (s.issue e 0x48 f (vUn fexp2 f))

def execVlog2 (e : Nat) (f : Fields) (s : State) : Host.Outcome State Fault Refusal :=
  guarded (isEngine e) (s.issue e 0x49 f (vUn flog2 f))

def execVrcp (e : Nat) (f : Fields) (s : State) : Host.Outcome State Fault Refusal :=
  guarded (isEngine e) (s.issue e 0x4A f (vUn frcp f))

def execVrsqrt (e : Nat) (f : Fields) (s : State) : Host.Outcome State Fault Refusal :=
  guarded (isEngine e) (s.issue e 0x4B f (vUn frsqrt f))

def execVcvt (e : Nat) (f : Fields) (s : State) : Host.Outcome State Fault Refusal :=
  guarded (isEngine e) (s.issue e 0x4C f (vcvtBody f))

def execVbcast (e : Nat) (f : Fields) (s : State) : Host.Outcome State Fault Refusal :=
  guarded (isEngine e) (s.issue e 0x4D f (vbcastBody f))

def execVperm (e : Nat) (f : Fields) (s : State) : Host.Outcome State Fault Refusal :=
  guarded (isEngine e) (s.issue e 0x4E f (vpermBody f))

def execVmovg (e : Nat) (f : Fields) (s : State) : Host.Outcome State Fault Refusal :=
  guarded (isEngine e) (s.issue e 0x4F f (vmovgBody f))

end Sys2Proof.Machine
end

