-- ==== Sys2Proof/Machine/Dispatch.lean ====
section
/-!
DEFINITION. The dispatch of the commands: one arm per constructor of `Instr`.
-/
namespace Sys2Proof.Machine

def exec (i : Instr) (s : State) : Host.Outcome State Fault Refusal :=
  match i with
  | .nop e f => Sys2Proof.Machine.execNop e f s
  | .add e f => Sys2Proof.Machine.execAdd e f s
  | .sub e f => Sys2Proof.Machine.execSub e f s
  | .mul e f => Sys2Proof.Machine.execMul e f s
  | .and e f => Sys2Proof.Machine.execAnd e f s
  | .or e f => Sys2Proof.Machine.execOr e f s
  | .xor e f => Sys2Proof.Machine.execXor e f s
  | .shl e f => Sys2Proof.Machine.execShl e f s
  | .shr e f => Sys2Proof.Machine.execShr e f s
  | .sar e f => Sys2Proof.Machine.execSar e f s
  | .li e f => Sys2Proof.Machine.execLi e f s
  | .lih e f => Sys2Proof.Machine.execLih e f s
  | .cmp e f => Sys2Proof.Machine.execCmp e f s
  | .brz e f => Sys2Proof.Machine.execBrz e f s
  | .brnz e f => Sys2Proof.Machine.execBrnz e f s
  | .jal e f => Sys2Proof.Machine.execJal e f s
  | .ldg e f => Sys2Proof.Machine.execLdg e f s
  | .stg e f => Sys2Proof.Machine.execStg e f s
  | .ld4 e f => Sys2Proof.Machine.execLd4 e f s
  | .st4 e f => Sys2Proof.Machine.execSt4 e f s
  | .vld e f => Sys2Proof.Machine.execVld e f s
  | .vst e f => Sys2Proof.Machine.execVst e f s
  | .vlds e f => Sys2Proof.Machine.execVlds e f s
  | .vsts e f => Sys2Proof.Machine.execVsts e f s
  | .vldd e f => Sys2Proof.Machine.execVldd e f s
  | .cpy e f => Sys2Proof.Machine.execCpy e f s
  | .cpys e f => Sys2Proof.Machine.execCpys e f s
  | .narrow e f => Sys2Proof.Machine.execNarrow e f s
  | .widen e f => Sys2Proof.Machine.execWiden e f s
  | .reblock e f => Sys2Proof.Machine.execReblock e f s
  | .pack e f => Sys2Proof.Machine.execPack e f s
  | .expand e f => Sys2Proof.Machine.execExpand e f s
  | .gather e f => Sys2Proof.Machine.execGather e f s
  | .scatter e f => Sys2Proof.Machine.execScatter e f s
  | .zscan e f => Sys2Proof.Machine.execZscan e f s
  | .digest e f => Sys2Proof.Machine.execDigest e f s
  | .ald e f => Sys2Proof.Machine.execAld e f s
  | .bmul e f chk => Sys2Proof.Machine.execBmul e f chk s
  | .aprom e f => Sys2Proof.Machine.execAprom e f s
  | .adrain e f => Sys2Proof.Machine.execAdrain e f s
  | .adraine e f => Sys2Proof.Machine.execAdraine e f s
  | .venc e f => Sys2Proof.Machine.execVenc e f s
  | .vadd e f => Sys2Proof.Machine.execVadd e f s
  | .vsub e f => Sys2Proof.Machine.execVsub e f s
  | .vmul e f => Sys2Proof.Machine.execVmul e f s
  | .vfma e f => Sys2Proof.Machine.execVfma e f s
  | .vmax e f => Sys2Proof.Machine.execVmax e f s
  | .vmin e f => Sys2Proof.Machine.execVmin e f s
  | .vcmp e f => Sys2Proof.Machine.execVcmp e f s
  | .vsel e f => Sys2Proof.Machine.execVsel e f s
  | .vexp2 e f => Sys2Proof.Machine.execVexp2 e f s
  | .vlog2 e f => Sys2Proof.Machine.execVlog2 e f s
  | .vrcp e f => Sys2Proof.Machine.execVrcp e f s
  | .vrsqrt e f => Sys2Proof.Machine.execVrsqrt e f s
  | .vcvt e f => Sys2Proof.Machine.execVcvt e f s
  | .vbcast e f => Sys2Proof.Machine.execVbcast e f s
  | .vperm e f => Sys2Proof.Machine.execVperm e f s
  | .vmovg e f => Sys2Proof.Machine.execVmovg e f s
  | .rlane e f => Sys2Proof.Machine.execRlane e f s
  | .racc e f => Sys2Proof.Machine.execRacc e f s
  | .rwel e f => Sys2Proof.Machine.execRwel e f s
  | .rscfg e f => Sys2Proof.Machine.execRscfg e f s
  | .rcont e f => Sys2Proof.Machine.execRcont e f s
  | .rmerge e f => Sys2Proof.Machine.execRmerge e f s
  | .finc e f => Sys2Proof.Machine.execFinc e f s
  | .fwait e f => Sys2Proof.Machine.execFwait e f s
  | .fwaitMet e => Sys2Proof.Machine.execFwaitMet e s
  | .fset e f => Sys2Proof.Machine.execFset e f s
  | .frd e f => Sys2Proof.Machine.execFrd e f s
  | .karr e f => Sys2Proof.Machine.execKarr e f s
  | .kwait e f => Sys2Proof.Machine.execKwait e f s
  | .kwaitMet e => Sys2Proof.Machine.execKwaitMet e s
  | .spawn e f => Sys2Proof.Machine.execSpawn e f s
  | .spawnd e f => Sys2Proof.Machine.execSpawnd e f s
  | .yield e f => Sys2Proof.Machine.execYield e f s
  | .finish e f => Sys2Proof.Machine.execFinish e f s
  | .finishCommit e => Sys2Proof.Machine.execFinishCommit e s
  | .engineWake e => Sys2Proof.Machine.execEngineWake e s
  | .nput e f => Sys2Proof.Machine.execNput e f s
  | .nget e f => Sys2Proof.Machine.execNget e f s
  | .nflag e f => Sys2Proof.Machine.execNflag e f s
  | .nstep e f => Sys2Proof.Machine.execNstep e f s
  | .nstepWaitMet e j => Sys2Proof.Machine.execNstepWaitMet e j s
  | .sysr e f => Sys2Proof.Machine.execSysr e f s
  | .trap e f => Sys2Proof.Machine.execTrap e f s
  | .cfence e f => Sys2Proof.Machine.execCfence e f s
  | .cfenceMet e => Sys2Proof.Machine.execCfenceMet e s
  | .copyComplete e j => Sys2Proof.Machine.execCopyComplete e j s
  | .plinthOpComplete e j => Sys2Proof.Machine.execPlinthOpComplete e j s
  | .pierUncorrectableRead src pier loc => Sys2Proof.Machine.execPierUncorrectableRead src pier loc s
  | .itemReexec e => Sys2Proof.Machine.execItemReexec e s
  | .slotRetire e cause => Sys2Proof.Machine.execSlotRetire e cause s
  | .spareTakeover e lost => Sys2Proof.Machine.execSpareTakeover e lost s
  | .repairRecordWrite verified => Sys2Proof.Machine.execRepairRecordWrite verified s
  | .reduceSlotDone c r => Sys2Proof.Machine.execReduceSlotDone c r s
  | .layerMark pier layer => Sys2Proof.Machine.execLayerMark pier layer s
  | .patrolScrub pier loc found => Sys2Proof.Machine.execPatrolScrub pier loc found s
  | .scrubWake mc => Sys2Proof.Machine.execScrubWake mc s
  | .pierHotRefresh pier temp => Sys2Proof.Machine.execPierHotRefresh pier temp s
  | .idleDescent d => Sys2Proof.Machine.execIdleDescent d s
  | .levelEntryComplete d => Sys2Proof.Machine.execLevelEntryComplete d s
  | .wakeGrantInstant => Sys2Proof.Machine.execWakeGrantInstant s
  | .deepGrant die => Sys2Proof.Machine.execDeepGrant die s
  | .domainExitComplete d => Sys2Proof.Machine.execDomainExitComplete d s
  | .powerSample watts => Sys2Proof.Machine.execPowerSample watts s
  | .throttleTick => Sys2Proof.Machine.execThrottleTick s
  | .courseClockChange p => Sys2Proof.Machine.execCourseClockChange p s
  | .telemetryUpdate t => Sys2Proof.Machine.execTelemetryUpdate t s
  | .doorbell port n tail => Sys2Proof.Machine.execDoorbell port n tail s
  | .ctxEnable port n v => Sys2Proof.Machine.execCtxEnable port n v s
  | .ctxDisable port n v => Sys2Proof.Machine.execCtxDisable port n v s
  | .ctxReset port n v => Sys2Proof.Machine.execCtxReset port n v s
  | .ctxSlotBind port n v => Sys2Proof.Machine.execCtxSlotBind port n v s
  | .ringFetch p cmds => Sys2Proof.Machine.execRingFetch p cmds s
  | .ringFetchError p cause => Sys2Proof.Machine.execRingFetchError p cause s
  | .item p => Sys2Proof.Machine.execItem p s
  | .copy p => Sys2Proof.Machine.execCopy p s
  | .copyCmdDone p r => Sys2Proof.Machine.execCopyCmdDone p r s
  | .complete x => Sys2Proof.Machine.execComplete x s
  | .hodSlotRetry n => Sys2Proof.Machine.execHodSlotRetry n s
  | .fenceWaitEnd n => Sys2Proof.Machine.execFenceWaitEnd n s
  | .slotArm port k v => Sys2Proof.Machine.execSlotArm port k v s
  | .slotOpen k => Sys2Proof.Machine.execSlotOpen k s
  | .keyExpectWrite port k v => Sys2Proof.Machine.execKeyExpectWrite port k v s
  | .keyReset port k v => Sys2Proof.Machine.execKeyReset port k v s
  | .keyReport d p => Sys2Proof.Machine.execKeyReport d p s
  | .keyRelease d p => Sys2Proof.Machine.execKeyRelease d p s
  | .oflArm port p w v => Sys2Proof.Machine.execOflArm port p w v s
  | .oflWindowFire p w => Sys2Proof.Machine.execOflWindowFire p w s
  | .oflCopyDone p w r => Sys2Proof.Machine.execOflCopyDone p w r s
  | .progressTimeout e j => Sys2Proof.Machine.execProgressTimeout e j s
  | .codewordReceive port cw => Sys2Proof.Machine.execCodewordReceive port cw s
  | .nak port seq => Sys2Proof.Machine.execNak port seq s
  | .nakLimit port => Sys2Proof.Machine.execNakLimit port s
  | .credit port counts ack => Sys2Proof.Machine.execCredit port counts ack s
  | .creditSend port => Sys2Proof.Machine.execCreditSend port s
  | .hello port h => Sys2Proof.Machine.execHello port h s
  | .helloSend port => Sys2Proof.Machine.execHelloSend port s
  | .idle port hb freeze frozen => Sys2Proof.Machine.execIdle port hb freeze frozen s
  | .heartbeatTick => Sys2Proof.Machine.execHeartbeatTick s
  | .hbMissing port => Sys2Proof.Machine.execHbMissing port s
  | .packetSendStart port => Sys2Proof.Machine.execPacketSendStart port s
  | .packetHeadArrival d a p => Sys2Proof.Machine.execPacketHeadArrival d a p s
  | .packetTrailerArrival d a p => Sys2Proof.Machine.execPacketTrailerArrival d a p s
  | .stallTimeout port p => Sys2Proof.Machine.execStallTimeout port p s
  | .packetAged d p => Sys2Proof.Machine.execPacketAged d p s
  | .linkSilenceTimeout port => Sys2Proof.Machine.execLinkSilenceTimeout port s
  | .portTrained port got => Sys2Proof.Machine.execPortTrained port got s
  | .signalDetect port => Sys2Proof.Machine.execSignalDetect port s
  | .nbrDeadSet port => Sys2Proof.Machine.execNbrDeadSet port s
  | .nbrTrainingDetect port => Sys2Proof.Machine.execNbrTrainingDetect port s
  | .frozenHoldExpiry port => Sys2Proof.Machine.execFrozenHoldExpiry port s
  | .lightLoss bay => Sys2Proof.Machine.execLightLoss bay s
  | .lightReturn bay => Sys2Proof.Machine.execLightReturn bay s
  | .laserUnitInsert bay => Sys2Proof.Machine.execLaserUnitInsert bay s
  | .laserUnitRemove bay => Sys2Proof.Machine.execLaserUnitRemove bay s
  | .write d p => Sys2Proof.Machine.execWrite d p s
  | .writeLast d p => Sys2Proof.Machine.execWriteLast d p s
  | .read d p => Sys2Proof.Machine.execRead d p s
  | .readData d p => Sys2Proof.Machine.execReadData d p s
  | .flag d p => Sys2Proof.Machine.execFlag d p s
  | .stepData d p => Sys2Proof.Machine.execStepData d p s
  | .stepLast d p => Sys2Proof.Machine.execStepLast d p s
  | .planData d p => Sys2Proof.Machine.execPlanData d p s
  | .planLast d p => Sys2Proof.Machine.execPlanLast d p s
  | .ack d p => Sys2Proof.Machine.execAck d p s
  | .response d p => Sys2Proof.Machine.execResponse d p s
  | .ackSend d f => Sys2Proof.Machine.execAckSend d f s
  | .retransmitTimerExpiry f => Sys2Proof.Machine.execRetransmitTimerExpiry f s
  | .transportGiveUp f => Sys2Proof.Machine.execTransportGiveUp f s
  | .refusalBackoffExpiry f => Sys2Proof.Machine.execRefusalBackoffExpiry f s
  | .refusalGiveUp f => Sys2Proof.Machine.execRefusalGiveUp f s
  | .localPacketRetry die tc last => Sys2Proof.Machine.execLocalPacketRetry die tc last s
  | .fenceRelease f => Sys2Proof.Machine.execFenceRelease f s
  | .sendFlowClose f => Sys2Proof.Machine.execSendFlowClose f s
  | .injectionResume die => Sys2Proof.Machine.execInjectionResume die s
  | .echo d p => Sys2Proof.Machine.execEcho d p s
  | .echoReply d p => Sys2Proof.Machine.execEchoReply d p s
  | .mgmtMessage d p => Sys2Proof.Machine.execMgmtMessage d p s
  | .flip port => Sys2Proof.Machine.execFlip port s
  | .release port => Sys2Proof.Machine.execRelease port s
  | .rteLookupWrite port v => Sys2Proof.Machine.execRteLookupWrite port v s
  | .retrain port p v => Sys2Proof.Machine.execRetrain port p v s
  | .disable port p v => Sys2Proof.Machine.execDisable port p v s
  | .test port p v => Sys2Proof.Machine.execTest port p v s
  | .go port => Sys2Proof.Machine.execGo port s
  | .bondFetchDone port r => Sys2Proof.Machine.execBondFetchDone port r s
  | .partialImageApply port => Sys2Proof.Machine.execPartialImageApply port s
  | .rerun port => Sys2Proof.Machine.execRerun port s
  | .bu1 link0 link1 => Sys2Proof.Machine.execBu1 link0 link1 s
  | .bu2 bits => Sys2Proof.Machine.execBu2 bits s
  | .bu3 passed => Sys2Proof.Machine.execBu3 passed s
  | .bu4 passed failedSlots failedFabric => Sys2Proof.Machine.execBu4 passed failedSlots failedFabric s
  | .bu5 failedLinks failedLines => Sys2Proof.Machine.execBu5 failedLinks failedLines s
  | .bu6 up half => Sys2Proof.Machine.execBu6 up half s
  | .bu7 => Sys2Proof.Machine.execBu7 s
  | .discoveryEnd => Sys2Proof.Machine.execDiscoveryEnd s
  | .bu8 => Sys2Proof.Machine.execBu8 s
  | .soakComplete port joined bits errs post => Sys2Proof.Machine.execSoakComplete port joined bits errs post s
  | .bu9 => Sys2Proof.Machine.execBu9 s
  | .buStageTimeout => Sys2Proof.Machine.execBuStageTimeout s
  | .origin port => Sys2Proof.Machine.execOrigin port s
  | .skip port => Sys2Proof.Machine.execSkip port s
  | .send port => Sys2Proof.Machine.execSend port s
  | .restore port => Sys2Proof.Machine.execRestore port s
  | .abort port => Sys2Proof.Machine.execAbort port s
  | .castBegin d p => Sys2Proof.Machine.execCastBegin d p s
  | .castData d p => Sys2Proof.Machine.execCastData d p s
  | .castEnd d p => Sys2Proof.Machine.execCastEnd d p s
  | .restoreReq d p => Sys2Proof.Machine.execRestoreReq d p s
  | .restoreMeta d p => Sys2Proof.Machine.execRestoreMeta d p s
  | .restoreData d p => Sys2Proof.Machine.execRestoreData d p s
  | .restoreEnd d p => Sys2Proof.Machine.execRestoreEnd d p s
  | .restoreChunkDigest j => Sys2Proof.Machine.execRestoreChunkDigest j s
  | .restoreBad d p => Sys2Proof.Machine.execRestoreBad d p s
  | .restoreApply => Sys2Proof.Machine.execRestoreApply s
  | .ckpPartReset port v => Sys2Proof.Machine.execCkpPartReset port v s
  | .partResetDone p => Sys2Proof.Machine.execPartResetDone p s
  | .ckpModReset r v => Sys2Proof.Machine.execCkpModReset r v s
  | .frzCtrl r v => Sys2Proof.Machine.execFrzCtrl r v s
  | .frzNAssert => Sys2Proof.Machine.execFrzNAssert s
  | .freeze => Sys2Proof.Machine.execFreeze s
  | .dbgGo r v => Sys2Proof.Machine.execDbgGo r v s
  | .dbgReadDone ue => Sys2Proof.Machine.execDbgReadDone ue s
  | .dbgReq dr => Sys2Proof.Machine.execDbgReq dr s
  | .dbgData => Sys2Proof.Machine.execDbgData s
  | .bypass => Sys2Proof.Machine.execBypass s
  | .samplePreload pins shifted => Sys2Proof.Machine.execSamplePreload pins shifted s
  | .extest pins shifted => Sys2Proof.Machine.execExtest pins shifted s
  | .pwrCapWrite r v => Sys2Proof.Machine.execPwrCapWrite r v s
  | .genBar4BaseWrite port v => Sys2Proof.Machine.execGenBar4BaseWrite port v s
  | .lowHalfRead r x => Sys2Proof.Machine.execLowHalfRead r x s
  | .highHalfRead r x => Sys2Proof.Machine.execHighHalfRead r x s
  | .rcRead r x => Sys2Proof.Machine.execRcRead r x s
  | .registerWrite r a size v => Sys2Proof.Machine.execRegisterWrite r a size v s
  | .bar4Read port off len => Sys2Proof.Machine.execBar4Read port off len s
  | .bar4Write port off data => Sys2Proof.Machine.execBar4Write port off data s
  | .mbGo port secure ch => Sys2Proof.Machine.execMbGo port secure ch s
  | .take port secure ch => Sys2Proof.Machine.execTake port secure ch s
  | .mailboxTake secure nonce => Sys2Proof.Machine.execMailboxTake secure nonce s
  | .echoMsg port ch => Sys2Proof.Machine.execEchoMsg port ch s
  | .pathEcho port ch => Sys2Proof.Machine.execPathEcho port ch s
  | .pathEchoTimeout port ch => Sys2Proof.Machine.execPathEchoTimeout port ch s
  | .challenge port ch nonce => Sys2Proof.Machine.execChallenge port ch nonce s
  | .openMsg port ch => Sys2Proof.Machine.execOpenMsg port ch s
  | .closeMsg port ch => Sys2Proof.Machine.execCloseMsg port ch s
  | .attest port ch => Sys2Proof.Machine.execAttest port ch s
  | .getCert port ch => Sys2Proof.Machine.execGetCert port ch s
  | .install port ch => Sys2Proof.Machine.execInstall port ch s
  | .fwUpdate port ch => Sys2Proof.Machine.execFwUpdate port ch s
  | .fwUpdateDone x => Sys2Proof.Machine.execFwUpdateDone x s
  | .fwCommit port ch => Sys2Proof.Machine.execFwCommit port ch s
  | .smbSetPointer count pecOk v => Sys2Proof.Machine.execSmbSetPointer count pecOk v s
  | .smbRead pecOk => Sys2Proof.Machine.execSmbRead pecOk s
  | .smbWrite count pecOk v => Sys2Proof.Machine.execSmbWrite count pecOk v s
  | .perstAssert port => Sys2Proof.Machine.execPerstAssert port s
  | .perstRelease port => Sys2Proof.Machine.execPerstRelease port s
  | .hostPortReady port => Sys2Proof.Machine.execHostPortReady port s
  | .inputPowerApply => Sys2Proof.Machine.execInputPowerApply s
  | .inputPowerLoss => Sys2Proof.Machine.execInputPowerLoss s
  | .pwrEnRise feed frzN good bad => Sys2Proof.Machine.execPwrEnRise feed frzN good bad s
  | .pwrEnFall => Sys2Proof.Machine.execPwrEnFall s
  | .pwrEnHoldExpiry feed frzN good bad => Sys2Proof.Machine.execPwrEnHoldExpiry feed frzN good bad s
  | .underVoltageLockout => Sys2Proof.Machine.execUnderVoltageLockout s
  | .thermalTrip => Sys2Proof.Machine.execThermalTrip s
  | .courseStoreUncorrectableRead src => Sys2Proof.Machine.execCourseStoreUncorrectableRead src s
  | .hostLinkDown port => Sys2Proof.Machine.execHostLinkDown port s
  | .pcieL1Exit port => Sys2Proof.Machine.execPcieL1Exit port s
  | .corePowerRemoved => Sys2Proof.Machine.execCorePowerRemoved s
  | .castChunkDigest j => Sys2Proof.Machine.execCastChunkDigest j s
  | .installDone ok => Sys2Proof.Machine.execInstallDone ok s
  | .fwCommitDone => Sys2Proof.Machine.execFwCommitDone s
  | .attestDone => Sys2Proof.Machine.execAttestDone s

end Sys2Proof.Machine
end

