-- ==== Sys2Proof/Machine/Tick.lean ====
section
/-!
DEFINITION. One cycle of AOCLK in which no command arrives: the counters that count cycles (R261, R313, R361, R364,
R365, R418; ENG_BUSY_CYC, PWR_THROTTLE_CYC, COLL_WAIT_CYC).
-/
namespace Sys2Proof.Machine

/-- GEN_TIME counts from the start of the first BU0. -/
def State.tickTime (s : State) : State :=
  if s.pwr.seq == .off && s.bu.logCount = 0 && s.gen.time = 0 then s else { s with gen := { s.gen with time := satAdd 64 s.gen.time 1 } }

/-- GEN_STRAPS.FRZ_N follows its pin (R447), which rises again when the outside lets it: freely. -/
def State.tickPin (s : State) : State :=
  if s.gen.frzN then s
  else
    let (up, s) := s.freeBool
    { s with gen := { s.gen with frzN := up } }

/-- LNK_HB_AGE of the fitted ports; the streams of UP ports go on. -/
def State.tickPorts (s : State) : State :=
  (List.range 10).foldl State.streamIdle { s with ports := s.ports.map fun (p, x) => if x.fitted then (p, { x with hbAge := satAdd 32 x.hbAge 1 }) else (p, x) }

/-- PWR_THROTTLE_CYC. -/
def State.tickThrottle (s : State) : State :=
  if s.pwr.ft < 16 then { s with pwr := { s.pwr with throttleCyc := satAdd 64 s.pwr.throttleCyc 1 } } else s

/-- A cycle ends: what it has set is past, and what it has added to the registers that a read clears reaches every requester's
value (R15, R16). -/
def State.endCycle (s : State) : State :=
  let join (t : Tab Nat) (n : Nat) : Tab Nat := (List.range 3).foldl (fun t r => Tab.put 0 t r (max (Tab.get 0 t r) n)) t
  { s with setNow := [], clearedNow := [], pwr := { s.pwr with
    peak := join s.pwr.peak s.pwr.peakNow, wakeMax := join s.pwr.wakeMax s.pwr.wakeNow, peakNow := 0, wakeNow := 0 } }

/-- Idle time, time waited for a grant, and time asleep of a domain. -/
def State.tickDom (s : State) (d : Nat) : State :=
  let x := s.dom d
  if !s.domRuns d then s
  else s.setDom d { x with
    idle := if x.wakeReq || !s.domIdle d then none else some (match x.idle with | none => 0 | some t => t + 1),
    waited := if x.wakeReq && !x.granted then x.waited + 1 else x.waited,
    asleep := if x.level ≥ 2 then x.asleep + 1 else 0,
    phase := if d < 64 then (x.phase + x.mhz) % 25 else x.phase }

/-- The cycles of a course's clock that end in this cycle of AOCLK of 25 MHz. -/
def State.courseCycles (s : State) (c : Nat) : Nat := ((s.dom c).phase + (s.dom c).mhz) / 25

/-- ENG_BUSY_CYC of an engine in RUN, and the cycles since its item started (R69, R119). -/
def State.tickEngine (s : State) (e : Nat) (x : Engine) : Engine :=
  if x.item.isNone || !s.courseAwake (e / 32) then x
  else
    let n := s.courseCycles (e / 32)
    let runs := x.act == .run && (match s.partOfEngine e with | some p => !s.halted p | none => true)
    { x with itemCyc := x.itemCyc + n, busyCyc := if runs then satAdd 64 x.busyCyc n else x.busyCyc }

/-- Course clock cycles of an item that stands yielded, by the clock of the course whose engine it is tied to (R69). -/
def State.tickSaved (s : State) (h : HodSlot) : HodSlot :=
  match h.status with
  | .yielded e =>
    if s.courseAwake (e / 32) then
      { h with saved := h.saved.map fun v => { v with itemCyc := v.itemCyc + if v.failed then 0 else s.courseCycles (e / 32) } }
    else h
  | _ => h

/-- The yielded items of a hod. -/
def State.tickHod (s : State) (y : Course) : Course := { y with hod := y.hod.map fun (k, h) => (k, s.tickSaved h) }

/-- A progress timer that runs, and COLL_WAIT_CYC of its partition. -/
def State.tickStep (s : State) (e i : Nat) : State :=
  match s.stepAt e i, s.partOfEngine e with
  | some (o, w), some p =>
    if !s.timerRuns e w then s
    else (s.modNet e o.id fun y => { y with step := some { w with timer := w.timer + 1 } }).modPart p fun y =>
      { y with waitCyc := satAdd 64 y.waitCyc 1 }
  | _, _ => s

/-- The progress timers of every waiting step. -/
def State.tickSteps (s : State) : State :=
  s.engines.foldl (fun s (e, x) => (List.range x.nets.length).foldl (fun s i => s.tickStep e i) s) s

/-- A cycle of AOCLK: with the input off nothing runs; with core power off only the always-on domain does, and with it the
sequencer of the rails; while the module is frozen the fast clocks stand. -/
def State.tick (s : State) : State :=
  if !s.pwr.inputOn then s
  else
    let s := s.endCycle.tickTime
    if s.pwr.seq != .on then s.powerStep
    else
      let s := s.tickThrottle.tickPin
      let s := if s.frz.frozen then s
        else
          let s := s.tickPorts
          let s := { s with
            engines := s.engines.map fun (e, x) => (e, s.tickEngine e x),
            courses := s.courses.map fun (c, y) => (c, s.tickHod y) }
          if s.live then s.tickSteps else s
      (List.range 100).foldl State.tickDom s

end Sys2Proof.Machine
end

