-- ==== Sys2Proof/Machine/Step.lean ====
section
/-!
DEFINITION. One step of the module: the command at the front of the queue, or one always-on clock cycle.
-/
namespace Sys2Proof.Machine

/-- The command at the front of the queue runs on the state with the queue's rest. With no command waiting, one
cycle of AOCLK passes (DESIGN CHOICE, notes/assumptions/4.md). -/
def step (s : State) : Host.Outcome State Fault Refusal :=
  match s.pending with
  | [] => .next s.tick
  | c :: rest => exec c { s with pending := rest }

/-- The state with the command that a word spells at the front of its queue; no word spells one. -/
def State.withFetchWord (s : State) (nbits w : Nat) : State :=
  match Sys2Proof.decodeTableWord nbits w with
  | none => s
  | some c => { s with pending := c :: s.pending }

end Sys2Proof.Machine
end

