-- ==== Sys2Proof/Safety.lean ====
section
/-!
DEFINITION. What a safe run is, and the words the statements use: an engine that issues an instruction, and what a
next state leaves as it was.
-/
namespace Sys2Proof

open Machine

/-- Some state after `s` exists: the step neither faults nor refuses. -/
def canStep (s : State) : Prop := ∃ t, step s = .next t

/-- A run of `n` steps from `s` never stops. -/
def safeRun : Nat → State → Prop
  | 0, _ => True
  | n + 1, s => ∃ t, step s = .next t ∧ safeRun n t

/-! ## An engine that issues -/

/-- Engine `e` runs item `r`, may issue (the module is live, the engine in RUN, its course awake, its partition not
halted: R70, R112), and the word at its program counter, an 8-byte-aligned offset of the usable store of its course
(R75, R76), is that of opcode `opc` with fields `f`. -/
def Issues (s : State) (e : Nat) (opc : BitVec 8) (f : Fields) (r : Run) : Prop :=
  e < 2048 ∧ s.mayIssue e = true ∧ s.run e = some r ∧ (s.eng e).pc % 8 = 0 ∧ (s.eng e).pc + 8 ≤ csUsable ∧
  leNat (s.readLoc (.cs (e / 32) (s.eng e).pc) 8) = (wordOf opc f).toNat

/-! ## Frames: what a next state leaves as it was -/

/-- Only engine `e` differs. (The count of free values used is the model's own field.) -/
def OnlyEngine (s t : State) (e : Nat) : Prop :=
  t = { s with engines := t.engines, freeCtr := t.freeCtr } ∧ ∀ e', e' ≠ e → t.eng e' = s.eng e'

/-- Engine `e` alone differs, by its program counter and its general registers; register `d` reads `v`, except g0,
which reads as zero. -/
def WritesG (s t : State) (e : Nat) (d : BitVec 6) (v : W64) (pc : Nat) : Prop :=
  OnlyEngine s t e ∧ t.eng e = { s.eng e with g := (t.eng e).g, pc := pc } ∧
  ∀ r : BitVec 6, (t.eng e).gr r = if r = 0 then 0 else if r = d then v else (s.eng e).gr r

/-- Engine `e` alone differs, by its program counter and its vector registers; lane l of register d + i reads `vs i l`
for i below `n`, and every other register reads as before. -/
def WritesV (s t : State) (e d n : Nat) (vs : Nat → Nat → W32) (pc : Nat) : Prop :=
  OnlyEngine s t e ∧ t.eng e = { s.eng e with v := (t.eng e).v, pc := pc } ∧
  ∀ r l, l < 32 → (t.eng e).lane r l = if d ≤ r ∧ r < d + n then vs (r - d) l else (s.eng e).lane r l

/-- Engine `e` alone differs, by its program counter. -/
def OnlyPc (s t : State) (e pc : Nat) : Prop := OnlyEngine s t e ∧ t.eng e = { s.eng e with pc := pc }

/-- Engine `e` differs by its program counter, and its local store by the bytes `bs` from offset `off` on. -/
def StoresLs (s t : State) (e off : Nat) (bs : List Byte) (pc : Nat) : Prop :=
  t = { s with engines := t.engines, ls := t.ls, freeCtr := t.freeCtr } ∧ (∀ e', e' ≠ e → t.eng e' = s.eng e') ∧
  t.eng e = { s.eng e with pc := pc } ∧
  ∀ a, Mem.get t.ls a =
    if lsKey e off ≤ a ∧ a < lsKey e off + bs.length then bs.getD (a - lsKey e off) 0 else Mem.get s.ls a

/-- Local stores, course stores and piers hold what they held. -/
def SameStores (s t : State) : Prop := t.ls = s.ls ∧ t.cs = s.cs ∧ t.mem = s.mem

/-- Every flag of every engine holds what it held. -/
def SameFlags (s t : State) : Prop := ∀ e f, t.flagVal e f = s.flagVal e f

/-- What a die router does with a packet `p` that it looks up (R277 to R282): `u` is the state at the lookup and `t` the
one after it; `cls` and `chan` are the packet's arrival class and mortar channel, `whole` says that its tail has come, and
`inp` is the input buffer that holds its flits. -/
def Routed (u t : State) (d : Nat) (p : Packet) (cls chan : Nat) (whole : Bool) (inp : Option (Nat × Nat)) : Prop :=
  let e := if u.half p.epoch = .loading then 0 else u.entry d p.epoch (p.tc.toNat * 2 ^ 17 + p.dest.toNat)
  let out := bits e 30 27
  let wild := p.tc = 0 ∧ p.slice = 0x3FFF
  let c := Tab.get DieCtr.reset u.rte.ctrs d
  let c' := Tab.get DieCtr.reset t.rte.ctrs d
  let stays := t.rte.arrived = u.rte.arrived ∧ t.rte.mortar = u.rte.mortar ∧
    ∀ j, (t.port j).queue = (u.port j).queue
  if bit e 31 = false then c' = { c with miss := min (c.miss + 1) (2 ^ 64 - 1) } ∧ stays
  else if bits e 25 12 ≠ p.slice.toNat ∧ ¬ wild then
    c' = { c with sliceDrop := min (c.sliceDrop + 1) (2 ^ 64 - 1) } ∧ stays
  else if out ≤ 9 ∧ p.hops = 63 then c' = { c with hopsDrop := min (c.hopsDrop + 1) (2 ^ 64 - 1) } ∧ stays
  else if out ≤ 9 then
    c' = c ∧ t.rte.arrived = u.rte.arrived ∧ t.rte.mortar = u.rte.mortar ∧
    (∀ j, j ≠ out → (t.port j).queue = (u.port j).queue) ∧
    let dl := bit e 26 || (p.dl && decide (axisOf out = cls))
    if (u.port out).st = .up ∨ (u.port out).st = .frozen then
      (t.port out).queue = (u.port out).queue ++
        [{ pkt := { p with dl := dl, hops := p.hops + 1 }, vc := 2 * p.tc.toNat + (if dl then 1 else 0), whole := whole,
           inp := inp }]
    else (t.port out).queue = (u.port out).queue ∧
      (t.port out).downDrop = min ((u.port out).downDrop + 1) (2 ^ 64 - 1)
  else if out = 10 ∧ (u.cfg.applied = true ∧ u.cfg.slice.role = 0 ∧ u.cfg.slice.nodeId = p.dest) ∧
      (u.cfg.slice.sliceId = p.slice ∨ wild) then
    c' = c ∧ t.rte.mortar = u.rte.mortar ∧ (∀ j, (t.port j).queue = (u.port j).queue) ∧
      t.rte.arrived = u.rte.arrived ++ [{ die := d, pkt := p, whole := whole, inp := inp }]
  else if out = 10 then c' = { c with misdeliver := min (c.misdeliver + 1) (2 ^ 64 - 1) } ∧ stays
  else if out = 12 ∨ out = 13 then
    c' = c ∧ t.rte.arrived = u.rte.arrived ∧ (∀ j, (t.port j).queue = (u.port j).queue) ∧
      t.rte.mortar = u.rte.mortar ++
        [{ die := if out = 12 then (d + 1) % 4 else (d + 3) % 4, pkt := p, cls := cls,
           chan := if (out = 12 ∧ d = 3) ∨ (out = 13 ∧ d = 0) then 1 else chan, whole := whole }]
  else c' = { c with miss := min (c.miss + 1) (2 ^ 64 - 1) } ∧ stays

/-- The first element of a list that `p` picks, if there is one, has become what `f` makes of it. -/
def FirstChanged {α : Type} (p : α → Bool) (f : α → α) (l m : List α) : Prop :=
  ((∀ x ∈ l, p x = false) ∧ m = l) ∨
  ∃ as x bs, l = as ++ x :: bs ∧ (∀ y ∈ as, p y = false) ∧ p x = true ∧ m = as ++ f x :: bs

/-- The first element of a list that `p` picks, if there is one, has been taken out. -/
def FirstTaken {α : Type} (p : α → Bool) (l m : List α) : Prop :=
  ((∀ x ∈ l, p x = false) ∧ m = l) ∨
  ∃ as x bs, l = as ++ x :: bs ∧ (∀ y ∈ as, p y = false) ∧ p x = true ∧ m = as ++ bs

/-- The places of die `d` that wait for the trailer of packet `q`: of its arrived packets, of a port's queue, and of the
trailers that are to set out from it over mortar. Of several copies the oldest waits first. -/
def awaitsHere (d : Nat) (q : Packet) (a : Arrived) : Bool := a.die == d && !a.whole && samePkt a.pkt q
def awaitsAt (q : Packet) (y : QPkt) : Bool := !y.whole && samePkt y.pkt q
def awaitsPass (d : Nat) (q : Packet) (y : Tail) : Bool := y.src == d && !y.passed && samePkt y.pkt q

/-- A sound trailer of packet `q` has passed die `d` (R266, R288): what has arrived is whole, or, with a message code that
is unassigned or of another class, discarded and counted; what waits in a port's queue is whole, and what a port has begun
to send is complete; over mortar, where a head goes on alone, the trailer sets out after it. -/
def TrailerPassed (u t : State) (d : Nat) (q : Packet) : Prop :=
  let ok := msgOk q.opc.toNat q.tc.toNat
  let c := Tab.get DieCtr.reset u.rte.ctrs d
  t = { u with ports := t.ports, rte := t.rte } ∧
  t.rte = { u.rte with arrived := t.rte.arrived, tails := t.rte.tails, ctrs := t.rte.ctrs } ∧
  (ok = true → FirstChanged (awaitsHere d q) (fun a => { a with whole := true }) u.rte.arrived t.rte.arrived ∧
    t.rte.ctrs = u.rte.ctrs) ∧
  (ok = false → FirstTaken (awaitsHere d q) u.rte.arrived t.rte.arrived ∧
    Tab.get DieCtr.reset t.rte.ctrs d =
      if u.rte.arrived.any (awaitsHere d q) then { c with badMsg := min (c.badMsg + 1) (2 ^ 64 - 1) } else c) ∧
  FirstChanged (awaitsPass d q) (fun y => { y with passed := true, bad := false }) u.rte.tails t.rte.tails ∧
  ∀ j, (j < 10 ∧ ownerDie j = d →
      t.port j = { u.port j with queue := (t.port j).queue, cut := (t.port j).cut } ∧
      ((u.port j).cut.any (fun y => samePkt y.pkt q) = true → (t.port j).queue = (u.port j).queue ∧
        FirstTaken (fun y => samePkt y.pkt q) (u.port j).cut (t.port j).cut) ∧
      ((u.port j).cut.any (fun y => samePkt y.pkt q) = false → (t.port j).cut = (u.port j).cut ∧
        FirstChanged (awaitsAt q) (fun y => { y with whole := true }) (u.port j).queue (t.port j).queue)) ∧
    (¬ (j < 10 ∧ ownerDie j = d) → t.port j = u.port j)

/-- The trailer of packet `q` has come bad at die `d`, or has not come (R288, R289): the packet is taken out of what has
arrived and of every queue where it waits; what a port has begun to send gets a trailer with DISCARD set, and so does what
has gone on over mortar, whose trailer sets out after it. -/
def TrailerFailed (u t : State) (d : Nat) (q : Packet) : Prop :=
  let begun (j : Nat) : Option QPkt := (u.port j).cut.find? fun y => samePkt y.pkt q
  t = { u with ports := t.ports, rte := t.rte, out := t.out, freeCtr := t.freeCtr } ∧
  t.rte = { u.rte with arrived := t.rte.arrived, tails := t.rte.tails } ∧
  FirstTaken (awaitsHere d q) u.rte.arrived t.rte.arrived ∧
  FirstChanged (awaitsPass d q) (fun y => { y with passed := true, bad := true }) u.rte.tails t.rte.tails ∧
  t.out = u.out ++ ((List.range 10).filter fun j => ownerDie j = d).filterMap (fun j =>
    (begun j).map fun y => .trailer j { y.pkt with discard := true }) ∧
  ∀ j, (j < 10 ∧ ownerDie j = d →
      (begun j = none → t.port j = { u.port j with queue := (t.port j).queue } ∧
        FirstTaken (awaitsAt q) (u.port j).queue (t.port j).queue) ∧
      ∀ y, begun j = some y → t.port j = { u.port j with
        cut := (u.port j).cut.erase y, txSent := (t.port j).txSent, txFlits := (t.port j).txFlits }) ∧
    (¬ (j < 10 ∧ ownerDie j = d) → t.port j = u.port j)

/-- A packet that satisfies `ok` has been issued and not yet acknowledged: it is in a send flow, waits for one, or is
on its way to the module itself. -/
def Sends (t : State) (ok : Packet → Prop) : Prop :=
  (∃ f ∈ t.rte.send, ∃ u ∈ f.unacked, ok u.pkt) ∨ (∃ w ∈ t.rte.waiting, ok w.pkt) ∨ ∃ l ∈ t.rte.locals_, ok l.pkt

/-- Packets go out again in order (R270): each is counted in RTE_RETX of its die, its payload read from its source span
where it has one, and routed. -/
def Resent : State → State → List Sent → Prop
  | s, t, [] => t.ports = s.ports ∧ t.rte.ctrs = s.rte.ctrs ∧ t.rte.arrived = s.rte.arrived ∧ t.rte.mortar = s.rte.mortar
  | s, t, u :: us => ∃ v w, SameStores s v ∧ v.ports = s.ports ∧ v.cfg = s.cfg ∧
      v.rte = { s.rte with ctrs := v.rte.ctrs, send := v.rte.send } ∧
      (Tab.get DieCtr.reset v.rte.ctrs u.pkt.sdie.toNat).retx =
        min ((Tab.get DieCtr.reset s.rte.ctrs u.pkt.sdie.toNat).retx + 1) (2 ^ 64 - 1) ∧
      Routed v w u.pkt.sdie.toNat (match u.src with
        | none => u.pkt
        | some l => sealed_ { u.pkt with payload := s.readLoc l u.pkt.len.toNat }) 0 0 true none ∧
      SameStores v w ∧ Resent w t us

/-- Packet `p`, whole on die `d`, is the next that its flow's receive entry `r` expects. -/
def NextIn (s : State) (d : Nat) (p : Packet) (r : RecvFlow) : Prop :=
  d < 4 ∧ s.live = true ∧ s.localHead p.sdie.toNat p.tc.toNat = none ∧ (∃ a, s.arrivedHead d p = some a) ∧
  s.recvFlow d (flowOf p) = some r ∧ p.opn = false ∧ p.seq = r.expected

/-- What plinth operation `p` makes of the bytes that copy `o` took at its issue (R211, R212). -/
def plinthResult (o : CopyOp) (p : Plinth) : PlinthOut :=
  if o.srcSnap.isEmpty then PlinthOut.none
  else p.compute (p.snapOffs o.srcSnap) (o.srcSnap.drop (if plinthListed p.op then 8 * p.listCount else 0))

/-- Nothing has raced plinth operation `p` of copy `o`: what it reads and writes holds what its issue found (R203). -/
def PlinthUndisturbed (s : State) (o : CopyOp) (p : Plinth) : Prop :=
  (o.srcSnap ≠ [] → s.gather (p.reads (p.snapOffs o.srcSnap)) =
    o.srcSnap.drop (if plinthListed p.op then 8 * p.listCount else 0)) ∧
  s.gather ((plinthResult o p).out.map fun w => (w.1, w.2.length)) =
    o.dstSnap.take (((plinthResult o p).out.map fun w => w.2.length).sum)

/-- The requests of a copy between a place and the host, on host port `h` (R324, R396, R406): the reads of its bytes, or
their writes and a read of the last four of them. -/
def copyRequests (s : State) (h : Nat) (c : CopyCmd) : List Out :=
  if c.dir = 0 then
    let m := max 1 (min (s.host h).mrrs 4096)
    (List.range ((c.len + m - 1) / m)).map fun i =>
      .hostRead h (c.host + BitVec.ofNat 64 (i * m)) (min m (c.len - i * m))
  else
    ((chunks (s.host h).mps (s.readLoc c.target c.len)).zipIdx.map fun (b, i) =>
      .hostWrite h (c.host + BitVec.ofNat 64 (i * (s.host h).mps)) b (s.host h).ro) ++
    [.hostRead h (c.host + BitVec.ofNat 64 (c.len - min 4 c.len)) (min 4 c.len)]

/-- An amount is taken from flag `f` of engine `e`: at once, or, while the course sleeps, held, its wake asked for
(R225, R229). -/
def FlagTaken (s t : State) (e f : Nat) (v : W32) : Prop :=
  (s.courseAwake (e / 32) = true → ∀ e' f', t.flagVal e' f' =
    if e' = e ∧ f' = f then s.flagVal e' f' - v else s.flagVal e' f') ∧
  (s.courseAwake (e / 32) = false →
    (t.crs (e / 32)).heldSubs = (s.crs (e / 32)).heldSubs ++ [(e, f, v)] ∧
    (∀ e' f', t.flagVal e' f' = s.flagVal e' f') ∧
    ((s.dom (e / 32)).held = false → (t.dom (e / 32)).wakeReq = true))

/-- A wake event has reached domain `d`: one that sleeps or is about to, and is not held, has asked for its exit (R361). -/
def Woken (s t : State) (d : Nat) : Prop :=
  (s.dom d).held = false → (2 ≤ (s.dom d).level ∨ (s.dom d).entering ≠ none) → (t.dom d).wakeReq = true

/-- An amount is added to flag `f` of engine `e`: at once, or, while the course sleeps, held, its wake asked for
(R225, R229). -/
def FlagRaised (s t : State) (e f : Nat) (v : W32) : Prop :=
  (s.courseAwake (e / 32) = true → ∀ e' f', t.flagVal e' f' =
    if e' = e ∧ f' = f then s.flagVal e' f' + v else s.flagVal e' f') ∧
  (s.courseAwake (e / 32) = false →
    (t.crs (e / 32)).heldAdds = (s.crs (e / 32)).heldAdds ++ [(e, f, v)] ∧
    (∀ e' f', t.flagVal e' f' = s.flagVal e' f') ∧
    ((s.dom (e / 32)).held = false → (t.dom (e / 32)).wakeReq = true))

/-- One flit of a received codeword does on port `p` what the command of its kind does; a HEAD, a BODY and any other CTRL
flit do nothing by themselves (R251, R256). -/
def FlitDoes (p : Nat) (f : BitVec 2 × List Byte) (s t : State) : Prop :=
  if f.1 = 3 then exec (.idle p (BitVec.ofNat 32 (flitAt f.2 0 4)) ((flitAt f.2 4 1).testBit 0)
    ((flitAt f.2 4 1).testBit 1)) s = .next t
  else if f.1 = 2 ∧ flitAt f.2 0 1 = 1 then exec (.credit p
    ((List.range 16).map fun v => BitVec.ofNat 16 (flitAt f.2 (4 + 2 * v) 2)) (BitVec.ofNat 10 (flitAt f.2 2 2))) s = .next t
  else if f.1 = 2 ∧ flitAt f.2 0 1 = 2 then exec (.nak p (Config.nakSeqOf f.2)) s = .next t
  else if f.1 = 2 ∧ flitAt f.2 0 1 = 3 then exec (.hello p (helloOfFlit f.2)) s = .next t
  else t = s

/-- The flits of a codeword, one after another. -/
def FlitsDo (p : Nat) : List (BitVec 2 × List Byte) → State → State → Prop
  | [], s, t => t = s
  | f :: fs, s, t => ∃ u, FlitDoes p f s u ∧ FlitsDo p fs u t

/-- One control flit has gone out on a port (R255, R257): in the open codeword, or as the first of a new one, which is
kept. -/
def FlitSent (x y : Port) : Prop :=
  y = { x with txFill := (x.txFill + 1) % 5, txSeq := if x.txFill % 5 = 0 then x.txSeq + 1 else x.txSeq,
               txHeld := if x.txFill % 5 = 0 then x.txHeld ++ [x.txSeq] else x.txHeld, recent := y.recent }

/-- A port may send `n` more flits: its codewords find room among the 512 that may stand unacknowledged (R257). -/
def Fits (x : Port) (n : Nat) : Prop := x.txHeld.length + ((x.txFill + n + 4) / 5 - (x.txFill + 4) / 5) ≤ 512

/-- The receive entry `r` of packet `p` has moved on past it, with `n` deliveries to acknowledge, once the courses whose
flags the packet has changed while they slept have them (R269). -/
def Advanced (s t : State) (d : Nat) (p : Packet) (r : RecvFlow) (n : Nat) : Prop :=
  t.recvFlow d (flowOf p) =
    some { r with expected := p.seq + 1, ackDue := n, holds := r.holds ++ s.newlyHeld t, at_ := s.gen.time }

/-- The message in a channel has been answered (R411): its OPCODE and TAG with a count, a status word, and the payload
words `ws`; GO is clear. -/
def Replied (s t : State) (h : Nat) (secure : Bool) (ch status : Nat) (ws : List Nat) : Prop :=
  let x := s.chan h secure ch
  let y := t.chan h secure ch
  y.go = false ∧ y.word 0 = mbHeader x.opcode (1 + ws.length) x.tag ∧ y.word 1 = status ∧
  ∀ i < ws.length, y.word (2 + i) = ws.getD i 0 % 2 ^ 32

/-- A record of bring-up stage `n` with a result code joins the report log (R379). -/
def Recorded (s t : State) (n result : Nat) : Prop :=
  let i := s.bu.logCount
  t.bu.result = BitVec.ofNat 8 result ∧ t.bu.logCount = min (i + 1) (2 ^ 32 - 1) ∧
  Tab.get 0 t.bu.log (16 * (i % 256)) =
    BitVec.ofNat 32 (n + 2 ^ 8 * result + if 8 ≤ n then 2 ^ 16 * (s.bu.attempt % 2 ^ 16) else 0) ∧
  Tab.get 0 t.bu.log (16 * (i % 256) + 1) = BitVec.ofNat 32 i ∧
  ∀ k, k / 16 ≠ i % 256 → Tab.get 0 t.bu.log k = Tab.get 0 s.bu.log k

/-! ## Tables of instructions of one shape -/

/-- ADD to SAR (R77): constructor, opcode, and the result from gA and Y. -/
def scalarRows : List ((Nat → Fields → Instr) × BitVec 8 × (W64 → W64 → W64)) :=
  [(.add, 0x01, fun a y => a + y), (.sub, 0x02, fun a y => a - y), (.mul, 0x03, fun a y => a * y),
   (.and, 0x04, fun a y => a &&& y), (.or, 0x05, fun a y => a ||| y), (.xor, 0x06, fun a y => a ^^^ y),
   (.shl, 0x07, fun a y => a <<< (y.toNat % 64)), (.shr, 0x08, fun a y => a >>> (y.toNat % 64)),
   (.sar, 0x09, fun a y => a.sshiftRight (y.toNat % 64))]

/-- VADD to VMIN, without VFMA (R91): constructor, opcode, and the result of a lane. -/
def vectorRows2 : List ((Nat → Fields → Instr) × BitVec 8 × (W32 → W32 → W32)) :=
  [(.vadd, 0x40, fadd), (.vsub, 0x41, fsub), (.vmul, 0x42, fmul), (.vmax, 0x44, fmax), (.vmin, 0x45, fmin)]

/-- VEXP2 to VRSQRT (R91): constructor, opcode, and the result of a lane. -/
def vectorRows1 : List ((Nat → Fields → Instr) × BitVec 8 × (W32 → W32)) :=
  [(.vexp2, 0x48, fexp2), (.vlog2, 0x49, flog2), (.vrcp, 0x4A, frcp), (.vrsqrt, 0x4B, frsqrt)]

/-- LDG to VST (R78): constructor, opcode, bytes moved, alignment, and that the fields are as the form asks. -/
def localRows : List ((Nat → Fields → Instr) × BitVec 8 × Nat × Nat × (Fields → Bool)) :=
  [(.ldg, 0x10, 8, 8, fun f => f.b == 0 && f.c == 0), (.stg, 0x11, 8, 8, fun f => f.d == 0 && f.c == 0),
   (.ld4, 0x12, 4, 4, fun f => f.b == 0 && f.c == 0), (.st4, 0x13, 4, 4, fun f => f.d == 0 && f.c == 0),
   (.vld, 0x14, 128, 4, fun f => f.b == 0 && f.c == 0 && decide (f.d < 32)),
   (.vst, 0x15, 128, 4, fun f => f.d == 0 && f.c == 0 && decide (f.b < 32))]

/-- VLDS and VSTS (R78): constructor, opcode, and that the fields are as the form asks. -/
def laneRows : List ((Nat → Fields → Instr) × BitVec 8 × (Fields → Bool)) :=
  [(.vlds, 0x16, fun f => f.b == 0 && decide (f.d < 32)), (.vsts, 0x17, fun f => f.d == 0 && decide (f.b < 32))]

/-- The nine plinth operations (R210): constructor and OP. -/
def plinthRows : List ((Nat → Fields → Instr) × Nat) :=
  [(.narrow, 1), (.widen, 2), (.reblock, 3), (.pack, 4), (.expand, 5), (.gather, 6), (.scatter, 7), (.zscan, 8),
   (.digest, 9)]

/-- CPY, CPYS and the plinth operations: constructor, opcode, and whether B and C are operands. -/
def copyRows : List ((Nat → Fields → Instr) × BitVec 8 × Bool) :=
  [(.cpy, 0x20, true), (.cpys, 0x21, false), (.narrow, 0x22, false), (.widen, 0x22, false), (.reblock, 0x22, false),
   (.pack, 0x22, false), (.expand, 0x22, false), (.gather, 0x22, false), (.scatter, 0x22, false),
   (.zscan, 0x22, false), (.digest, 0x22, false)]

/-- The requests that write (R266, R309): constructor, code, whether the packet is the last of its message, and whether it
is a plan record. -/
def writeRows : List ((Nat → Packet → Instr) × BitVec 8 × Bool × Bool) :=
  [(.write, 0x10, false, false), (.writeLast, 0x11, true, false), (.stepData, 0x30, false, false),
   (.stepLast, 0x31, true, false), (.planData, 0x32, false, true), (.planLast, 0x33, true, true)]

/-- Every instruction of the tables but BMUL, with its opcode. -/
def engineRows : List ((Nat → Fields → Instr) × BitVec 8) :=
  [(.nop, 0x00), (.add, 0x01), (.sub, 0x02), (.mul, 0x03), (.and, 0x04), (.or, 0x05), (.xor, 0x06), (.shl, 0x07),
   (.shr, 0x08), (.sar, 0x09), (.li, 0x0A), (.lih, 0x0B), (.cmp, 0x0C), (.brz, 0x0D), (.brnz, 0x0E), (.jal, 0x0F),
   (.ldg, 0x10), (.stg, 0x11), (.ld4, 0x12), (.st4, 0x13), (.vld, 0x14), (.vst, 0x15), (.vlds, 0x16), (.vsts, 0x17),
   (.vldd, 0x18), (.cpy, 0x20), (.cpys, 0x21), (.narrow, 0x22), (.widen, 0x22), (.reblock, 0x22), (.pack, 0x22),
   (.expand, 0x22), (.gather, 0x22), (.scatter, 0x22), (.zscan, 0x22), (.digest, 0x22), (.ald, 0x30), (.aprom, 0x32),
   (.adrain, 0x33), (.adraine, 0x34), (.venc, 0x35), (.vadd, 0x40), (.vsub, 0x41), (.vmul, 0x42), (.vfma, 0x43),
   (.vmax, 0x44), (.vmin, 0x45), (.vcmp, 0x46), (.vsel, 0x47), (.vexp2, 0x48), (.vlog2, 0x49), (.vrcp, 0x4A),
   (.vrsqrt, 0x4B), (.vcvt, 0x4C), (.vbcast, 0x4D), (.vperm, 0x4E), (.vmovg, 0x4F), (.rlane, 0x50), (.racc, 0x51),
   (.rwel, 0x52), (.rscfg, 0x53), (.rcont, 0x54), (.rmerge, 0x55), (.finc, 0x60), (.fwait, 0x61), (.fset, 0x62),
   (.frd, 0x63), (.karr, 0x64), (.kwait, 0x65), (.spawn, 0x70), (.spawnd, 0x71), (.yield, 0x72), (.finish, 0x73),
   (.nput, 0x80), (.nget, 0x81), (.nflag, 0x82), (.nstep, 0x83), (.sysr, 0xF0), (.trap, 0xF1), (.cfence, 0xF2)]

end Sys2Proof
end

