-- ==== Sys2Proof/Certificates/Slice0/Obligations.lean ====
section
/-!
DEFINITION. The statements of this row: what the commands of the module do, family by family, as the rules of spec/
say it.
-/
section

open Sys2Proof Sys2Proof.Machine

/-! ## The queue -/

/-- A step takes the command at the front of the queue and runs it with the queue's rest. -/
def Obligations.StepRunsCommand : Prop :=
  ∀ (c : Instr) (q : List Instr) (s : State), s.pending = c :: q → step s = exec c { s with pending := q }

/-! ## Engine instructions: scalar and branch (R76, R77) -/

/-- ADD, SUB, MUL, AND, OR, XOR, SHL, SHR and SAR: 64-bit two's complement that wraps, on gA and Y = gB + sext(IMM);
g0 stays zero; the program counter moves on by 8; nothing else changes. NOP, LI, LIH and CMP likewise. BRZ, BRNZ and
JAL: offsets count instructions, from the branch's own program counter for BRZ and BRNZ. -/
def Obligations.ScalarInstructions : Prop :=
  (∀ row ∈ scalarRows, ∀ (s : State) (e : Nat) (f : Fields) (r : Run), Issues s e row.2.1 f r → f.c = 0 →
     ∃ t, exec (row.1 e f) s = .next t ∧
       WritesG s t e f.d (row.2.2 ((s.eng e).gr f.a) ((s.eng e).gr f.b + f.imm.signExtend 64)) ((s.eng e).pc + 8)) ∧
  (∀ (s : State) (e : Nat) (f : Fields) (r : Run),
     (Issues s e 0x00 f r → f.d = 0 → f.a = 0 → f.b = 0 → f.c = 0 → f.imm = 0 →
       ∃ t, exec (.nop e f) s = .next t ∧ OnlyPc s t e ((s.eng e).pc + 8)) ∧
     (Issues s e 0x0A f r → f.a = 0 → f.b = 0 → f.c = 0 →
       ∃ t, exec (.li e f) s = .next t ∧ WritesG s t e f.d (f.imm.signExtend 64) ((s.eng e).pc + 8)) ∧
     (Issues s e 0x0B f r → f.b = 0 → f.c = 0 →
       ∃ t, exec (.lih e f) s = .next t ∧
         WritesG s t e f.d (((s.eng e).gr f.a &&& 0xFFFFFFFF) ||| (f.imm.zeroExtend 64 <<< 32)) ((s.eng e).pc + 8)) ∧
     (Issues s e 0x0C f r → f.c = 0 → f.imm ≤ 5 →
       ∃ t, exec (.cmp e f) s = .next t ∧
         WritesG s t e f.d
           (let a := (s.eng e).gr f.a
            let b := (s.eng e).gr f.b
            let holds : Bool :=
              if f.imm = 0 then a == b else if f.imm = 1 then a != b else if f.imm = 2 then decide (a.toNat < b.toNat)
              else if f.imm = 3 then decide (a.toInt < b.toInt) else if f.imm = 4 then decide (b.toNat ≤ a.toNat)
              else decide (b.toInt ≤ a.toInt)
            if holds then 1 else 0) ((s.eng e).pc + 8))) ∧
  (∀ (s : State) (e : Nat) (f : Fields) (r : Run),
     (Issues s e 0x0D f r → f.d = 0 → f.b = 0 → f.c = 0 →
       ∃ t, exec (.brz e f) s = .next t ∧
         OnlyPc s t e (if (s.eng e).gr f.a = 0 then
           (BitVec.ofNat 64 (s.eng e).pc + 8 * f.imm.signExtend 64).toNat else (s.eng e).pc + 8)) ∧
     (Issues s e 0x0E f r → f.d = 0 → f.b = 0 → f.c = 0 →
       ∃ t, exec (.brnz e f) s = .next t ∧
         OnlyPc s t e (if (s.eng e).gr f.a ≠ 0 then
           (BitVec.ofNat 64 (s.eng e).pc + 8 * f.imm.signExtend 64).toNat else (s.eng e).pc + 8)) ∧
     (Issues s e 0x0F f r → f.b = 0 → f.c = 0 →
       ∃ t, exec (.jal e f) s = .next t ∧
         WritesG s t e f.d (BitVec.ofNat 64 ((s.eng e).pc + 8))
           ((s.eng e).gr f.a + 8 * f.imm.signExtend 64).toNat))

/-! ## Engine instructions: local store (R78, R82, R460) -/

/-- LDG, LD4, VLD and VLDS, STG, ST4, VST and VSTS. The address is gA + sext(IMM), of each lane for VLDS and VSTS; one
that is out of local store or not aligned faults with ADDR. The loads zero-extend; the local store of the engine
changes by the bytes stored and nothing else of it does; of two lanes of a VSTS at one address the higher-numbered
stays. What an engine's program reads of its local store is, byte by byte, what the store holds, unless an outstanding
copy of the engine will write the byte: then the store's byte or one that such a copy brings (R82). (Model's choice: what
a read finds while a copy is outstanding: log entry 6.) -/
def Obligations.LocalStoreAccess : Prop :=
  (∀ (s : State) (e off n i : Nat) (b : Byte), (s.lsRead e off n)[i]? = some b →
     (s.readLoc (.ls e off) n)[i]? = some b ∨
     ∃ o ∈ (s.eng e).copies, ∃ w ∈ o.outs, ∃ d, w.1 = .ls e d ∧ d ≤ off + i ∧ off + i < d + w.2.length ∧
       w.2[off + i - d]? = some b) ∧
  (∀ (s : State) (e : Nat) (f : Fields) (r : Run),
     (Issues s e 0x10 f r → f.b = 0 → f.c = 0 → ((s.eng e).addr f).toNat % 8 = 0 → ((s.eng e).addr f).toNat + 8 ≤ 0x60000 →
       ∃ t, exec (.ldg e f) s = .next t ∧
         WritesG s t e f.d (BitVec.ofNat 64 (leNat (s.lsRead e ((s.eng e).addr f).toNat 8))) ((s.eng e).pc + 8)) ∧
     (Issues s e 0x12 f r → f.b = 0 → f.c = 0 → ((s.eng e).addr f).toNat % 4 = 0 → ((s.eng e).addr f).toNat + 4 ≤ 0x60000 →
       ∃ t, exec (.ld4 e f) s = .next t ∧
         WritesG s t e f.d (BitVec.ofNat 64 (leNat (s.lsRead e ((s.eng e).addr f).toNat 4))) ((s.eng e).pc + 8))) ∧
  (∀ (s : State) (e : Nat) (f : Fields) (r : Run),
     (Issues s e 0x11 f r → f.d = 0 → f.c = 0 → ((s.eng e).addr f).toNat % 8 = 0 → ((s.eng e).addr f).toNat + 8 ≤ 0x60000 →
       ∃ t, exec (.stg e f) s = .next t ∧
         StoresLs s t e ((s.eng e).addr f).toNat (leBytes 8 ((s.eng e).gr f.b).toNat) ((s.eng e).pc + 8)) ∧
     (Issues s e 0x13 f r → f.d = 0 → f.c = 0 → ((s.eng e).addr f).toNat % 4 = 0 → ((s.eng e).addr f).toNat + 4 ≤ 0x60000 →
       ∃ t, exec (.st4 e f) s = .next t ∧
         StoresLs s t e ((s.eng e).addr f).toNat (leBytes 4 ((s.eng e).gr f.b).toNat) ((s.eng e).pc + 8)) ∧
     (Issues s e 0x15 f r → f.d = 0 → f.c = 0 → f.b < 32 → ((s.eng e).addr f).toNat % 4 = 0 →
       ((s.eng e).addr f).toNat + 128 ≤ 0x60000 →
       ∃ t, exec (.vst e f) s = .next t ∧
         StoresLs s t e ((s.eng e).addr f).toNat
           ((List.range 32).flatMap fun l => leBytes 4 ((s.eng e).lane f.b.toNat l).toNat) ((s.eng e).pc + 8))) ∧
  (∀ (s : State) (e : Nat) (f : Fields) (r : Run), Issues s e 0x17 f r → f.d = 0 → f.b < 32 →
     (∀ i < 32, ((s.eng e).addr f + BitVec.ofNat 64 i * (s.eng e).gr f.c).toNat % 4 = 0 ∧
       ((s.eng e).addr f + BitVec.ofNat 64 i * (s.eng e).gr f.c).toNat + 4 ≤ 0x60000) →
     ∃ t, exec (.vsts e f) s = .next t ∧ t = { s with engines := t.engines, ls := t.ls, freeCtr := t.freeCtr } ∧
       (∀ e', e' ≠ e → t.eng e' = s.eng e') ∧ t.eng e = { s.eng e with pc := (s.eng e).pc + 8 } ∧
       ∀ a, Mem.get t.ls a = (List.range 32).foldl (fun old i =>
         let k := lsKey e ((s.eng e).addr f + BitVec.ofNat 64 i * (s.eng e).gr f.c).toNat
         if k ≤ a ∧ a < k + 4 then (leBytes 4 ((s.eng e).lane f.b.toNat i).toNat).getD (a - k) 0 else old)
         (Mem.get s.ls a)) ∧
  (∀ (s : State) (e : Nat) (f : Fields) (r : Run),
     (Issues s e 0x14 f r → f.b = 0 → f.c = 0 → f.d < 32 → ((s.eng e).addr f).toNat % 4 = 0 →
       ((s.eng e).addr f).toNat + 128 ≤ 0x60000 →
       ∃ t, exec (.vld e f) s = .next t ∧
         WritesV s t e f.d.toNat 1
           (fun _ l => BitVec.ofNat 32 (leNat (((s.lsRead e ((s.eng e).addr f).toNat 128).drop (4 * l)).take 4)))
           ((s.eng e).pc + 8)) ∧
     (Issues s e 0x16 f r → f.b = 0 → f.d < 32 →
       (∀ i < 32, ((s.eng e).addr f + BitVec.ofNat 64 i * (s.eng e).gr f.c).toNat % 4 = 0 ∧
         ((s.eng e).addr f + BitVec.ofNat 64 i * (s.eng e).gr f.c).toNat + 4 ≤ 0x60000) →
       ∃ t, exec (.vlds e f) s = .next t ∧
         WritesV s t e f.d.toNat 1
           (fun _ l => BitVec.ofNat 32 (leNat (s.lsRead e
             ((s.eng e).addr f + BitVec.ofNat 64 l * (s.eng e).gr f.c).toNat 4))) ((s.eng e).pc + 8))) ∧
  (∀ row ∈ localRows, ∀ (s : State) (e : Nat) (f : Fields) (r : Run), Issues s e row.2.1 f r → row.2.2.2.2 f = true →
     (((s.eng e).addr f).toNat % row.2.2.2.1 ≠ 0 ∨ 0x60000 < ((s.eng e).addr f).toNat + row.2.2.1) →
     ∃ a, exec (row.1 e f) s = .next ((s.itemFault e 0x02 row.2.1 (s.eng e).pc a).choose e)) ∧
  (∀ row ∈ laneRows, ∀ (s : State) (e : Nat) (f : Fields) (r : Run), Issues s e row.2.1 f r → row.2.2 f = true →
     (∃ i < 32, ((s.eng e).addr f + BitVec.ofNat 64 i * (s.eng e).gr f.c).toNat % 4 ≠ 0 ∨
       0x60000 < ((s.eng e).addr f + BitVec.ofNat 64 i * (s.eng e).gr f.c).toNat + 4) →
     ∃ a, exec (row.1 e f) s = .next ((s.itemFault e 0x02 row.2.1 (s.eng e).pc a).choose e))

/-- VLDD: lane l is element l of the row, decoded with its fine scale and the coarse scale and rounded once. -/
def Obligations.VectorDecode : Prop :=
  ∀ (s : State) (e : Nat) (f : Fields) (r : Run) (c : Int), Issues s e 0x18 f r → f.d < 32 → f.imm &&& 0xFFFFFFC0 = 0 →
    (s.fmtCheck (bits f.imm.toNat 3 0) (bits f.imm.toNat 5 4)) = .ok () → (s.eng e).coarse f.c = .ok c →
    ((s.eng e).gr f.a).toNat + rowBytes (bits f.imm.toNat 3 0) 32 ≤ 0x60000 → ((s.eng e).gr f.a).toNat < 0x60000 →
    (bits f.imm.toNat 5 4 = 0 ∨
      ((s.eng e).gr f.b).toNat + (if bits f.imm.toNat 5 4 = 1 then 8 else 1) ≤ 0x60000) →
    (bits f.imm.toNat 5 4 = 1 → ∀ b ∈ s.lsRead e ((s.eng e).gr f.b).toNat 8, b.toNat < 0x80) →
    ∃ t, exec (.vldd e f) s = .next t ∧
      WritesV s t e f.d.toNat 1 (fun _ l =>
        let fmt := bits f.imm.toNat 3 0
        let shape := bits f.imm.toNat 5 4
        let row := unpackRow (fmtBits fmt) (s.lsRead e ((s.eng e).gr f.a).toNat (rowBytes fmt 32))
        let codes := if shape = 0 then [0] else
          (s.lsRead e ((s.eng e).gr f.b).toNat (if shape = 1 then 8 else 1)).map (·.toNat)
        let blocks := if shape = 1 then chunks 4 row else [row]
        ((blocks.zip codes).flatMap fun (b, code) => vlddBlock fmt shape code c b).getD l 0) ((s.eng e).pc + 8)

/-! ## Engine instructions: vectors (R91) -/

/-- VADD, VSUB, VMUL, VMAX and VMIN, and VEXP2, VLOG2, VRCP and VRSQRT, lane by lane. NaN results are canonical, and
VMAX and VMIN order −0 below +0. (Model's choice: how VEXP2 and VLOG2 reach the correctly rounded value: log entry 8.)
-/
def Obligations.VectorArithmeticAndSpecials : Prop :=
  ((∀ row ∈ vectorRows2, ∀ (s : State) (e : Nat) (f : Fields) (r : Run), Issues s e row.2.1 f r →
     f.d < 32 → f.a < 32 → f.b < 32 → f.c = 0 → f.imm = 0 →
     ∃ t, exec (row.1 e f) s = .next t ∧
       WritesV s t e f.d.toNat 1 (fun _ l => row.2.2 ((s.eng e).lane f.a.toNat l) ((s.eng e).lane f.b.toNat l))
         ((s.eng e).pc + 8)) ∧
   ∀ row ∈ vectorRows1, ∀ (s : State) (e : Nat) (f : Fields) (r : Run), Issues s e row.2.1 f r →
     f.d < 32 → f.a < 32 → f.b = 0 → f.c = 0 → f.imm = 0 →
     ∃ t, exec (row.1 e f) s = .next t ∧
       WritesV s t e f.d.toNat 1 (fun _ l => row.2.2 ((s.eng e).lane f.a.toNat l)) ((s.eng e).pc + 8)) ∧
  ((∀ a b : W32, isNan32 a = true ∨ isNan32 b = true →
     fadd a b = 0x7FC00000 ∧ fsub a b = 0x7FC00000 ∧ fmul a b = 0x7FC00000 ∧ fmax a b = 0x7FC00000 ∧
     fmin a b = 0x7FC00000 ∧ fcmp 0 a b = false ∧ fcmp 1 a b = false ∧ fcmp 2 a b = false ∧ fcmp 3 a b = true) ∧
   (∀ a : W32, isNan32 a = true → fexp2 a = 0x7FC00000 ∧ flog2 a = 0x7FC00000 ∧ frcp a = 0x7FC00000 ∧
     frsqrt a = 0x7FC00000 ∧ fToInt a = 0) ∧
   fmax 0x80000000 0 = 0 ∧ fmax 0 0x80000000 = 0 ∧ fmin 0x80000000 0 = 0x80000000 ∧ fmin 0 0x80000000 = 0x80000000 ∧
   fcmp 0 0x80000000 0 = true)

/-- VFMA, VCMP, VSEL, VCVT, VBCAST, VPERM and VMOVG. -/
def Obligations.VectorMoves : Prop :=
  ∀ (s : State) (e : Nat) (f : Fields) (r : Run),
    (Issues s e 0x43 f r → f.d < 32 → f.a < 32 → f.b < 32 → f.c < 32 → f.imm = 0 →
      ∃ t, exec (.vfma e f) s = .next t ∧
        WritesV s t e f.d.toNat 1 (fun _ l => ffma ((s.eng e).lane f.a.toNat l) ((s.eng e).lane f.b.toNat l)
          ((s.eng e).lane f.c.toNat l)) ((s.eng e).pc + 8)) ∧
    (Issues s e 0x46 f r → f.a < 32 → f.b < 32 → f.c = 0 → f.imm ≤ 3 →
      ∃ t v, exec (.vcmp e f) s = .next t ∧ WritesG s t e f.d v ((s.eng e).pc + 8) ∧
        ∀ i < 64, v.getLsbD i = (decide (i < 32) &&
          fcmp f.imm.toNat ((s.eng e).lane f.a.toNat i) ((s.eng e).lane f.b.toNat i))) ∧
    (Issues s e 0x47 f r → f.d < 32 → f.a < 32 → f.b < 32 → f.imm = 0 →
      ∃ t, exec (.vsel e f) s = .next t ∧
        WritesV s t e f.d.toNat 1 (fun _ l => if ((s.eng e).gr f.c).getLsbD l then (s.eng e).lane f.a.toNat l
          else (s.eng e).lane f.b.toNat l) ((s.eng e).pc + 8)) ∧
    (Issues s e 0x4C f r → f.d < 32 → f.a < 32 → f.b = 0 → f.c = 0 → f.imm ≤ 1 →
      ∃ t, exec (.vcvt e f) s = .next t ∧
        WritesV s t e f.d.toNat 1 (fun _ l => (if f.imm = 0 then fToInt else intToF) ((s.eng e).lane f.a.toNat l))
          ((s.eng e).pc + 8)) ∧
    (Issues s e 0x4D f r → f.d < 32 → f.b = 0 → f.c = 0 → f.imm = 0 →
      ∃ t, exec (.vbcast e f) s = .next t ∧
        WritesV s t e f.d.toNat 1 (fun _ _ => ((s.eng e).gr f.a).setWidth 32) ((s.eng e).pc + 8)) ∧
    (Issues s e 0x4E f r → f.d < 32 → f.a < 32 → f.b < 32 → f.c = 0 → f.imm = 0 →
      ∃ t, exec (.vperm e f) s = .next t ∧
        WritesV s t e f.d.toNat 1 (fun _ l => (s.eng e).lane f.a.toNat (((s.eng e).lane f.b.toNat l).toNat % 32))
          ((s.eng e).pc + 8)) ∧
    (Issues s e 0x4F f r → f.b < 32 → f.c = 0 → f.imm = 0 →
      ∃ t, exec (.vmovg e f) s = .next t ∧
        WritesG s t e f.d (((s.eng e).lane f.b.toNat (((s.eng e).gr f.a).toNat % 32)).setWidth 64) ((s.eng e).pc + 8))

/-! ## Engine instructions: arrays (R84 to R90, R154) -/

/-- ALD loads its buffer with the tile that its operands describe, and with a tile of K = 0 when KQ is 0; the other
buffers and everything else stay. APROM and ADRAIN: the window closes and is promoted; each row drained gives S + E
rounded once; CLEAR clears. -/
def Obligations.ArrayLoadsAndDrains : Prop :=
  (∀ (s : State) (e : Nat) (f : Fields) (r : Run) (c : Int), Issues s e 0x30 f r → f.d ≤ 3 →
     let i := aldImm f.imm.toNat
     s.fmtCheck i.fmt i.scale = .ok () → (s.fullNumeric = true ∨ i.sparse = 0) → (s.eng e).coarse f.c = .ok c →
     aldOk i = true →
     ∀ tile : Tile,
       (if i.kq = 0 then tile = { k := 0, fmt := i.fmt, sparse := i.sparse, rows := [] }
        else i.fits ((s.eng e).gr f.a).toNat ((s.eng e).gr f.b).toNat = true ∧
          s.aldFetch e i c ((s.eng e).gr f.a).toNat ((s.eng e).gr f.b).toNat = some tile) →
       ∃ t, exec (.ald e f) s = .next t ∧ OnlyEngine s t e ∧
         t.eng e = { s.eng e with bufs := (t.eng e).bufs, pc := (s.eng e).pc + 8 } ∧
         ∀ b, (t.eng e).buf b = if b = f.d.toNat then tile else (s.eng e).buf b) ∧
  (∀ (s : State) (e : Nat) (f : Fields) (r : Run),
     (Issues s e 0x32 f r → f.d ≤ 1 → f.a = 0 → f.b = 0 → f.c = 0 → f.imm = 0 →
       ∃ t, exec (.aprom e f) s = .next t ∧ OnlyEngine s t e ∧
         t.eng e = { s.eng e with accs := (t.eng e).accs, numstat := (t.eng e).numstat, pc := (s.eng e).pc + 8 } ∧
         (∀ a, (t.eng e).acc a =
           if a = f.d.toNat then ((s.eng e).acc f.d.toNat).close.1 else (s.eng e).acc a) ∧
         (t.eng e).numstat = (s.eng e).numstat ||| ((s.eng e).acc f.d.toNat).close.2) ∧
     (Issues s e 0x33 f r → f.d < 32 → f.a = 0 → f.b = 0 → f.c = 0 → f.imm < 0x2000 →
       let n := f.imm.toNat % 2
       let first := f.imm.toNat / 2 % 32
       let rows := f.imm.toNat / 64 % 64
       let set := ((s.eng e).acc n).close.1
       first + rows ≤ 32 → f.d.toNat + rows ≤ 32 →
       ∃ t, exec (.adrain e f) s = .next t ∧ OnlyEngine s t e ∧
         t.eng e = { s.eng e with v := (t.eng e).v, accs := (t.eng e).accs, numstat := (t.eng e).numstat,
                                  pc := (s.eng e).pc + 8 } ∧
         (∀ q l, l < 32 → (t.eng e).lane q l =
           if f.d.toNat ≤ q ∧ q < f.d.toNat + rows then (set.cell (first + (q - f.d.toNat)) l).drain.1
           else (s.eng e).lane q l) ∧
         ∀ a, (t.eng e).acc a =
           if a = n then (if f.imm.toNat / 4096 = 1 then AccSet.clear else set) else (s.eng e).acc a))

/-- BMUL whose residue checks hold: the products join the set, after its clear when CLR is set. A product that fails a
residue check meets CHECK: nothing of it is written, and its engine's slot waits for its retirement. (Model's choice:
that the outcome of the residue check comes with the command: log entry 35.) -/
def Obligations.BlockProductsAndCheck : Prop :=
  (∀ (s : State) (e : Nat) (f : Fields) (r : Run), Issues s e 0x31 f r → f.d ≤ 1 → f.a ≤ 1 → f.b ≤ 1 → f.c = 0 →
     f.imm ≤ 1 →
     let ta := (s.eng e).buf f.a.toNat
     let tb := (s.eng e).buf (2 + f.b.toNat)
     ta.k = tb.k → (ta.sparse = 0 ∨ tb.sparse = 0) → (ta.sparse = 0 ∨ fmtPieces tb.fmt ≤ 1) →
     (tb.sparse = 0 ∨ fmtPieces ta.fmt ≤ 1) →
     ∃ t, exec (.bmul e f false) s = .next t ∧ OnlyEngine s t e ∧
       t.eng e = { s.eng e with accs := (t.eng e).accs, numstat := (t.eng e).numstat, skip := (t.eng e).skip,
                                saved := (t.eng e).saved, pc := (s.eng e).pc + 8 } ∧
       let start := if f.imm = 1 then AccSet.clear else (s.eng e).acc f.d.toNat
       (∀ a, (t.eng e).acc a = if a = f.d.toNat then (if ta.k = 0 then start else (start.mac ta tb).1)
         else (s.eng e).acc a) ∧
       (t.eng e).numstat = if ta.k = 0 then (s.eng e).numstat else (s.eng e).numstat ||| (start.mac ta tb).2) ∧
  (∀ (s : State) (e : Nat) (f : Fields) (r : Run), Issues s e 0x31 f r → f.d ≤ 1 → f.a ≤ 1 → f.b ≤ 1 → f.c = 0 →
     f.imm ≤ 1 →
     let ta := (s.eng e).buf f.a.toNat
     let tb := (s.eng e).buf (2 + f.b.toNat)
     ta.k = tb.k → (ta.sparse = 0 ∨ tb.sparse = 0) → (ta.sparse = 0 ∨ fmtPieces tb.fmt ≤ 1) →
     (tb.sparse = 0 ∨ fmtPieces ta.fmt ≤ 1) →
     ∃ t, exec (.bmul e f true) s = .next t ∧ t = (s.itemFault e 0x07 0x31 (s.eng e).pc 0).choose e ∧
       (t.eng e).check = min ((s.eng e).check + 1) 0xFFFFFFFF ∧ (t.eng e).checkMet = true ∧ (t.eng e).item = none ∧
       (t.eng e).accs = (s.eng e).accs)

/-- VENC and ADRAINE write the stored rows and scale bytes of an encode descriptor, keep the flush count for FINISH, and
change nothing else but numeric status (and, for ADRAINE, the set drained, whose closing window gives status bits too).
What an encode writes: stored row i of the rows encoded, packed, stands at DST + (FIRST_ROW + i) × PITCH (where rows
overlap, the later one), the scale bytes stand at their places, and every other byte of local store stays. -/
def Obligations.EncodesAndFrame : Prop :=
  (∀ (s : State) (e : Nat) (f : Fields) (r : Run) (d : EncDesc) (fl : Option Loc),
     (Issues s e 0x35 f r → f.d < 32 → f.b = 0 → f.c = 0 → f.imm ≤ 32 → f.d.toNat + f.imm.toNat ≤ 32 →
       s.encDesc r ((s.eng e).gr f.a) 0 f.imm.toNat = .ok (d, fl) →
       let rows := (List.range f.imm.toNat).map fun i => ((s.eng e).vr (f.d.toNat + i)).map dec32
       ∃ t, exec (.venc e f) s = .next t ∧ t = { s with engines := t.engines, ls := t.ls, freeCtr := t.freeCtr } ∧
         t.ls = (s.encodeRows r d fl 0 rows).ls ∧ (∀ e', e' ≠ e → t.eng e' = s.eng e') ∧
         t.eng e = { (s.encodeRows r d fl 0 rows).eng e with pc := (s.eng e).pc + 8 }) ∧
     (Issues s e 0x34 f r → f.d = 0 → f.b = 0 → f.c = 0 → f.imm < 0x2000 →
       let n := f.imm.toNat % 2
       let first := f.imm.toNat / 2 % 32
       let rows := f.imm.toNat / 64 % 64
       let set := ((s.eng e).acc n).close.1
       first + rows ≤ 32 → s.encDesc r ((s.eng e).gr f.a) first rows = .ok (d, fl) →
       let vals := (List.range rows).map fun i => (List.range 32).map fun j => (set.cell (first + i) j).value
       ∃ t, exec (.adraine e f) s = .next t ∧ t = { s with engines := t.engines, ls := t.ls, freeCtr := t.freeCtr } ∧
         t.ls = (s.encodeRows r d fl first vals).ls ∧ (∀ e', e' ≠ e → t.eng e' = s.eng e') ∧
         t.eng e = { s.eng e with accs := (t.eng e).accs, numstat := (t.eng e).numstat, flushes := (t.eng e).flushes,
                                  pc := (s.eng e).pc + 8 } ∧
         (t.eng e).flushes = ((s.encodeRows r d fl first vals).eng e).flushes ∧
         (t.eng e).numstat = ((s.encodeRows r d fl first vals).eng e).numstat ||| ((s.eng e).acc n).close.2 ∧
         ∀ a, (t.eng e).acc a =
           if a = n then (if f.imm.toNat / 4096 = 1 then AccSet.clear else set) else (s.eng e).acc a)) ∧
  (∀ (s : State) (r : Run) (d : EncDesc) (fl : Option Loc) (first : Nat) (rows : List (List FV)) (a : Nat),
     (∀ i < rows.length, a < lsKey r.e (d.dst + (first + i) * d.pitch) ∨
       lsKey r.e (d.dst + (first + i) * d.pitch) + rowBytes d.fmt 32 ≤ a) →
     (d.scale = 0 ∨ a < lsKey r.e (d.scl + (if d.scale = 1 then first / 4 * 8 else first)) ∨
       lsKey r.e (d.scl + (if d.scale = 1 then first / 4 * 8 else first)) +
         (if d.scale = 1 then (rows.length + 3) / 4 * 8 else rows.length) ≤ a) →
     (∀ row ∈ rows, row.length = 32) → d.fmt ≤ 9 → (d.scale = 1 → rows.length % 4 = 0) →
     Mem.get (s.encodeRows r d fl first rows).ls a = Mem.get s.ls a) ∧
  (∀ (s : State) (r : Run) (d : EncDesc) (fl : Option Loc) (first : Nat) (rows : List (List FV)),
     (∀ row ∈ rows, row.length = 32) → d.fmt ≤ 9 → d.scale ≤ 2 → (d.scale = 1 → rows.length % 4 = 0) →
     let tile := encodeTile d.fmt d.scale d.coarse
       (withRnd d.stoch d.seed (d.idxBase + BitVec.ofNat 64 first * d.idxRow) d.idxRow rows)
     let n := rowBytes d.fmt 32
     let row (i : Nat) : Nat := lsKey r.e (d.dst + (first + i) * d.pitch)
     let scl : Nat := lsKey r.e (d.scl + (if d.scale = 1 then first / 4 * 8 else first))
     let k : Nat := if d.scale = 0 then 0 else if d.scale = 1 then rows.length / 4 * 8 else rows.length
     let u := s.encodeRows r d fl first rows
     (rows ≠ [] → u.eng r.e = { s.eng r.e with
        numstat := (s.eng r.e).numstat ||| (if tile.sat then nsEncSat else 0),
        flushes := (s.eng r.e).flushes ++ (fl.map fun l => (l, tile.flushed)).toList }) ∧
     (∀ i < rows.length, ∀ m < n,
        (∀ j < rows.length, i < j → row i + m < row j ∨ row j + n ≤ row i + m) →
        (row i + m < scl ∨ scl + k ≤ row i + m) →
        Mem.get u.ls (row i + m) = (packRow (fmtBits d.fmt) (tile.rows.getD i [])).getD m 0) ∧
     ∀ m < k, Mem.get u.ls (scl + m) = BitVec.ofNat 8 (tile.scales.getD m 0))

/-! ## Engine instructions: reductions (R92 to R94, R166 to R175) -/

/-- RLANE, RACC, RWEL and RMERGE. -/
def Obligations.EngineReductions : Prop :=
  ∀ (s : State) (e : Nat) (f : Fields) (r : Run),
    (Issues s e 0x50 f r → f.d < 32 → f.a < 32 → f.b = 0 → f.c = 0 → f.imm ≤ 3 →
      ∃ t, exec (.rlane e f) s = .next t ∧
        WritesV s t e f.d.toNat 1 (fun _ l => if l = 0 then laneFold f.imm.toNat ((s.eng e).vr f.a.toNat) else 0)
          ((s.eng e).pc + 8)) ∧
    (Issues s e 0x51 f r → f.d < 31 → f.a < 32 → f.b = 0 → f.c = 0 → f.imm ≤ 3 →
      ∃ t, exec (.racc e f) s = .next t ∧
        WritesV s t e f.d.toNat 2 (fun i l =>
          let p := raccLane f.imm.toNat ((s.eng e).lane f.d.toNat l, (s.eng e).lane (f.d.toNat + 1) l)
            ((s.eng e).lane f.a.toNat l)
          if i = 0 then p.1 else p.2) ((s.eng e).pc + 8)) ∧
    (Issues s e 0x52 f r → f.d ≤ 28 → f.a < 32 → f.b = 0 → f.c = 0 → f.imm = 0 →
      ∃ t, exec (.rwel e f) s = .next t ∧
        WritesV s t e f.d.toNat 4 (fun i l =>
          let w := welford ((s.eng e).welfordAt f.d.toNat l) ((s.eng e).lane f.a.toNat l)
          if i = 0 then w.n else if i = 1 then w.m else if i = 2 then w.m2 else w.c) ((s.eng e).pc + 8)) ∧
    (Issues s e 0x55 f r → f.d ≤ 28 → f.a ≤ 28 → f.b = 0 → f.c = 0 → f.imm = 0 →
      ∃ t, exec (.rmerge e f) s = .next t ∧
        WritesV s t e f.d.toNat 4 (fun i l =>
          let w := chan ((s.eng e).welfordAt f.d.toNat l) ((s.eng e).welfordAt f.a.toNat l)
          if i = 0 then w.n else if i = 1 then w.m else if i = 2 then w.m2 else w.c) ((s.eng e).pc + 8))

/-- RSCFG configures an idle slot from its descriptor (COUNT not zero) and, when COUNT is zero, raises DONE at once
(held for a course that sleeps), the slot staying idle; RCONT keeps the registers from vA on for FINISH. A slot that has
combined all its contributions writes its result to DEST, raises DONE and becomes idle. (Model's choice: what RCONT
keeps and when the buffer is written: log entry 10.) -/
def Obligations.ReductionSlotsAndResult : Prop :=
  (∀ (s : State) (e : Nat) (f : Fields) (r : Run),
     (Issues s e 0x53 f r → f.d = 0 → f.b = 0 → f.c = 0 → f.imm < 32 → ((s.eng e).gr f.a).toNat + 32 ≤ 0x60000 →
       let b := s.lsRead e ((s.eng e).gr f.a).toNat 32
       let op := fieldAt b 0 1
       let len := fieldAt b 1 1
       let count := fieldAt b 4 4
       let done := fieldAt b 0x0C 4
       let g := if op = 4 then 3 * len else len
       op ≤ 4 → 1 ≤ len → len ≤ 8 → fieldAt b 2 2 = 0 → bits done 15 6 = 0 → bits done 30 27 = 0 → bits done 5 0 ≤ 47 →
       (bit done 31 = true → s.partOfEngine (bits done 26 16) = some r.part ∧
         (r.d.net = true ∨ bits done 5 0 < s.cfg.flagSysBase)) →
       s.rslot r.c f.imm.toNat = none →
       ∀ dest off, s.resolve e r.c r.part (w64At b 0x10) (g * 128) = .ok dest →
         r.d.admits r.c true dest (g * 128) = true → eaMalformed (w64At b 0x18) = false →
         eaLoc e r.c (w64At b 0x18) = .cs r.c off → off < csUsable →
         off + count * g * 128 ≤ csUsable →
         ∃ t, exec (.rscfg e f) s = .next t ∧
           (count = 0 → t.rslot r.c f.imm.toNat = none ∧
             (bit done 31 = false → OnlyPc s t e ((s.eng e).pc + 8)) ∧
             (bit done 31 = true → FlagRaised s t (bits done 26 16) (bits done 5 0) 1 ∧
               t = { s with engines := t.engines, courses := t.courses, doms := t.doms, pwr := t.pwr,
                            freeCtr := t.freeCtr } ∧
               (∀ e', t.eng e' = { s.eng e' with
                 flags := (t.eng e').flags, pc := if e' = e then (s.eng e).pc + 8 else (s.eng e').pc }) ∧
               ∀ c, t.crs c = { s.crs c with heldAdds := (t.crs c).heldAdds })) ∧
           (count ≠ 0 →
             t = { s with engines := t.engines, courses := t.courses, freeCtr := t.freeCtr } ∧
             OnlyPc s { t with courses := s.courses } e ((s.eng e).pc + 8) ∧
             (∀ c', t.crs c' = if c' = r.c then { s.crs r.c with rslots := (t.crs r.c).rslots } else s.crs c') ∧
             ∀ k, t.rslot r.c k = if k = f.imm.toNat then
               some { op := op, lenRegs := len, count := count, firstSeq := fieldAt b 8 4, doneValid := bit done 31,
                      doneEngine := bits done 26 16, doneFlag := bits done 5 0, dest := dest, bufOff := off, got := [],
                      combined := 0, acc := slotStart op len }
               else s.rslot r.c k)) ∧
     (Issues s e 0x54 f r → f.d = 0 → f.a < 32 → f.b = 0 → f.c = 0 → f.imm = 0 → (s.eng e).contrib = none →
       ∀ x n, s.contribSlot r.c r.d = .ok (x, n) → f.a.toNat + x.regs ≤ 32 →
         ∃ t, exec (.rcont e f) s = .next t ∧ OnlyEngine s t e ∧
           t.eng e = { s.eng e with contrib := (t.eng e).contrib, pc := (s.eng e).pc + 8 } ∧
           (t.eng e).contrib = some ((List.range (32 - f.a.toNat)).flatMap fun i => (s.eng e).vr (f.a.toNat + i)))) ∧
  (∀ (s : State) (c n : Nat) (x : RSlot), c < 64 → n < 32 → s.live = true → s.rslot c n = some x → x.count ≤ x.combined →
     x.doneValid = true → x.doneEngine < 2048 → s.courseAwake (x.doneEngine / 32) = true →
     let u := s.writeLoc x.dest (laneBytes x.result)
     ∃ t, exec (.reduceSlotDone c n) s = .next t ∧ t.rslot c n = none ∧
       t.flagVal x.doneEngine x.doneFlag = s.flagVal x.doneEngine x.doneFlag + 1 ∧
       t.ls = u.ls ∧ t.cs = u.cs ∧ t.mem = u.mem)

/-! ## Engine instructions: copies and plinth operations (R80 to R83, R209 to R212) -/

/-- CPY and CPYS that pass their checks hang a copy on the engine's copy queue and move nothing yet. The nine plinth
operations: CPYP whose descriptor names the operation of the command, and passes its checks, hangs the operation on the
engine's copy queue and moves nothing yet. (Model's choice: that bytes move at the completion: log entry 6.) -/
def Obligations.CopyAndPlinthIssue : Prop :=
  (∀ (s : State) (e : Nat) (f : Fields) (r : Run), f.d < 48 → (r.d.net = true ∨ f.d.toNat < s.cfg.flagSysBase) →
     (s.eng e).outstanding < 32 →
     (Issues s e 0x20 f r → f.imm = 0 → ∀ src dst,
       (((s.eng e).gr f.c).toNat ≠ 0 → s.operand r false ((s.eng e).gr f.a) ((s.eng e).gr f.c).toNat = .ok src ∧
         s.operand r true ((s.eng e).gr f.b) ((s.eng e).gr f.c).toNat = .ok dst ∧
         overlap src ((s.eng e).gr f.c).toNat dst ((s.eng e).gr f.c).toNat = false) →
       ∃ t o, exec (.cpy e f) s = .next t ∧
         t = { s with engines := t.engines, doms := t.doms, pwr := t.pwr, nextCopy := s.nextCopy + 1, freeCtr := t.freeCtr } ∧
         (∀ e', e' ≠ e → t.eng e' = s.eng e') ∧
         t.eng e = { s.eng e with copies := (s.eng e).copies ++ [o], pc := (s.eng e).pc + 8 } ∧
         o.flag = f.d.toNat ∧ o.flagEngine = s.flagEngine e ∧ o.plinth = none ∧ o.live = true ∧
         o.segs = (if ((s.eng e).gr f.c).toNat = 0 then []
           else [{ src := src, dst := dst, len := ((s.eng e).gr f.c).toNat }])) ∧
     (Issues s e 0x21 f r → f.b = 0 → f.c = 0 → f.imm = 0 → ((s.eng e).gr f.a).toNat + 32 ≤ 0x60000 → ∀ src dst,
       let b := s.lsRead e ((s.eng e).gr f.a).toNat 32
       let n := fieldAt b 0x10 4
       let rows := fieldAt b 0x14 4
       let segs := (List.range rows).map fun i =>
         { src := src.add (i * fieldAt b 0x18 4), dst := dst.add (i * fieldAt b 0x1C 4), len := n : Seg }
       (n ≠ 0 → rows ≠ 0 → s.operand r false (w64At b 0) ((rows - 1) * fieldAt b 0x18 4 + n) = .ok src ∧
         s.operand r true (w64At b 8) ((rows - 1) * fieldAt b 0x1C 4 + n) = .ok dst ∧
         disjoint (segReads segs) (segWrites segs) = true) →
       ∃ t o, exec (.cpys e f) s = .next t ∧
         t = { s with engines := t.engines, doms := t.doms, pwr := t.pwr, nextCopy := s.nextCopy + 1, freeCtr := t.freeCtr } ∧
         (∀ e', e' ≠ e → t.eng e' = s.eng e') ∧
         t.eng e = { s.eng e with copies := (s.eng e).copies ++ [o], pc := (s.eng e).pc + 8 } ∧
         o.flag = f.d.toNat ∧ o.flagEngine = s.flagEngine e ∧ o.plinth = none ∧ o.live = true ∧
         o.segs = (if n = 0 ∨ rows = 0 then [] else segs))) ∧
  (∀ row ∈ plinthRows, ∀ (s : State) (e : Nat) (f : Fields) (r : Run), Issues s e 0x22 f r → f.d < 48 →
     (r.d.net = true ∨ f.d.toNat < s.cfg.flagSysBase) → (s.eng e).outstanding < 32 → f.b = 0 → f.c = 0 → f.imm = 0 →
     ∀ p q offs, s.plinthDesc e ((s.eng e).gr f.a) = .ok p → p.op = row.2 → s.plinthIssue r p = .ok (q, offs) →
       ∃ t o, exec (row.1 e f) s = .next t ∧
         t = { s with engines := t.engines, doms := t.doms, pwr := t.pwr, nextCopy := s.nextCopy + 1, freeCtr := t.freeCtr } ∧
         (∀ e', e' ≠ e → t.eng e' = s.eng e') ∧
         t.eng e = { s.eng e with copies := (s.eng e).copies ++ [o], pc := (s.eng e).pc + 8 } ∧
         o.flag = f.d.toNat ∧ o.flagEngine = s.flagEngine e ∧ o.plinth = some q ∧ o.live = true)

/-- A 33rd outstanding copy: the engine waits with its program counter where it was, and the completion of one of its
copies or plinth operations lets it go on (one whose bytes fault ends its wait too, as R212 says). -/
def Obligations.CopyQueueFull : Prop :=
  ∀ row ∈ copyRows, ∀ (s : State) (e : Nat) (f : Fields) (r : Run), Issues s e row.2.1 f r → f.d < 48 →
    (r.d.net = true ∨ f.d.toNat < s.cfg.flagSysBase) → f.imm = 0 → (row.2.2 = true ∨ (f.b = 0 ∧ f.c = 0)) →
    (s.eng e).outstanding ≥ 32 →
    ∃ t, exec (row.1 e f) s = .next t ∧ OnlyEngine s t e ∧ t.eng e = { s.eng e with act := .waitCopyQueue } ∧
      ∀ (u : State) (i : Nat) (o : CopyOp), u.live = true → u.copyOp e i = some o → (u.eng e).act = .waitCopyQueue →
        (o.plinth = none → ∃ v, exec (.copyComplete e i) u = .next v ∧ (v.eng e).act = .run) ∧
        (∀ p, o.plinth = some p → u.digestWaits o = false →
          ∃ v, exec (.plinthOpComplete e i) u = .next v ∧ (v.eng e).act ≠ .waitCopyQueue ∧
            (PlinthUndisturbed u o p → (plinthResult o p).bad = false → (v.eng e).act = .run))

/-- COPY_COMPLETE of a copy that nothing has raced: each of its spans is written with the source's bytes, the rest of
every store stays, the copy is off the queue, and the flag of its live item rises by 1. PLINTH_OP_COMPLETE of an
operation, listed or not, that nothing has raced and whose bytes are well formed: its tile, report and flush count are
written, a saturation is ORed into its live item's numeric status, and the flag of its live item rises by 1. GATHER and
SCATTER move each entry to its place, and DIGEST writes SHAKE256 of its bytes. (Model's choice: that bytes move at the
completion: log entry 6.) -/
def Obligations.CopyAndPlinthCompletion : Prop :=
  (∀ (s : State) (e i : Nat) (o : CopyOp), e < 2048 → s.live = true →
     s.copyOp e i = some o → o.plinth = none →
     o.srcSnap = s.gather (segReads o.segs) → o.dstSnap = s.gather (segWrites o.segs) → o.live = true → o.reset = false →
     o.flagEngine < 2048 → s.courseAwake (o.flagEngine / 32) = true →
     let u := o.segs.foldl (fun u g => u.writeLoc g.dst (s.readLoc g.src g.len)) s
     ∃ t, exec (.copyComplete e i) s = .next t ∧ t.ls = u.ls ∧ t.cs = u.cs ∧ t.mem = u.mem ∧
       (t.eng e).copies = (s.eng e).copies.eraseIdx i ∧
       ∀ e' f', t.flagVal e' f' =
         if e' = o.flagEngine ∧ f' = o.flag then s.flagVal e' f' + 1 else s.flagVal e' f') ∧
  (∀ (s : State) (e i : Nat) (o : CopyOp) (p : Plinth), e < 2048 → s.live = true → s.copyOp e i = some o →
     o.plinth = some p → s.digestWaits o = false → PlinthUndisturbed s o p → (plinthResult o p).bad = false →
     o.live = true → o.reset = false → o.flagEngine < 2048 → s.courseAwake (o.flagEngine / 32) = true →
     let x := plinthResult o p
     let offs := p.snapOffs o.srcSnap
     let u := if o.srcSnap = [] then s
       else if p.op = 6 then offs.zipIdx.foldl (fun u (a, j) =>
         u.writeLoc (p.dst.add (j * p.unit)) (s.readLoc (p.src.add a) p.unit)) s
       else if p.op = 7 then offs.zipIdx.foldl (fun u (a, j) =>
         u.writeLoc (p.dst.add a) (s.readLoc (p.src.add (j * p.unit)) p.unit)) s
       else if p.op = 9 ∧ p.rows ≠ 0 ∧ p.cols ≠ 0 then s.writeLoc p.dst (shake256 (s.readLoc p.src p.cols) 32)
       else x.out.foldl (fun u w => u.writeLoc w.1 w.2) s
     let v := match p.report with | some l => u.writeLoc l x.report | none => u
     let w := match p.flush with
       | some l => v.writeLoc l (leBytes 8 (leNat (v.readLoc l 8) + x.flushed))
       | none => v
     let sat : BitVec 3 := if x.sat then nsEncSat else 0
     let m := s.runner e o.homeCourse o.slot
     ∃ t, exec (.plinthOpComplete e i) s = .next t ∧ t.ls = w.ls ∧ t.cs = w.cs ∧ t.mem = w.mem ∧
       (t.eng e).copies = (s.eng e).copies.eraseIdx i ∧
       ((s.eng m).item = some (o.homeCourse, o.slot) → (t.eng m).numstat = (s.eng m).numstat ||| sat) ∧
       (∀ h y, (s.eng m).item ≠ some (o.homeCourse, o.slot) → s.hodSlot o.homeCourse o.slot = some h →
         h.saved = some y → ((t.hodSlot o.homeCourse o.slot).bind (·.saved)).map (·.numstat) = some (y.numstat ||| sat)) ∧
       ∀ e' f', t.flagVal e' f' =
         if e' = o.flagEngine ∧ f' = o.flag then s.flagVal e' f' + 1 else s.flagVal e' f')

/-! ## Engine instructions: flags (R95, R224 to R229) -/

/-- FINC and FSET: the one flag changes; an addition to a course that sleeps is held, and asks for its wake. FWAIT, its
end, and FRD. (Model's choice: when a wait goes on: log entry 17.) -/
def Obligations.FlagChangesAndWaits : Prop :=
  (∀ (s : State) (e : Nat) (f : Fields) (r : Run), f.d < 48 → (r.d.net = true ∨ f.d.toNat < s.cfg.flagSysBase) →
     (Issues s e 0x60 f r → f.b = 0 → f.c = 0 → f.imm &&& 0x7FFF0000 = 0 → ∀ g,
       (if f.imm.msb then g = s.flagEngine e
        else g = ((s.eng e).gr f.a).toNat ∧ g < 2048 ∧ s.partOfEngine g = some r.part ∧
          (g = s.flagEngine e ∨ r.d.reexec = false)) →
       ∃ t, exec (.finc e f) s = .next t ∧ (t.eng e).pc = (s.eng e).pc + 8 ∧ t.ls = s.ls ∧ t.cs = s.cs ∧ t.mem = s.mem ∧
         (s.courseAwake (g / 32) = true → t.doms = s.doms ∧ ∀ e' f', t.flagVal e' f' =
           if e' = g ∧ f' = f.d.toNat then s.flagVal e' f' + (f.imm &&& 0xFFFF) else s.flagVal e' f') ∧
         (s.courseAwake (g / 32) = false →
           (t.crs (g / 32)).heldAdds = (s.crs (g / 32)).heldAdds ++ [(g, f.d.toNat, f.imm &&& 0xFFFF)] ∧
           ((s.dom (g / 32)).held = false → (t.dom (g / 32)).wakeReq = true) ∧
           ∀ e' f', t.flagVal e' f' = s.flagVal e' f')) ∧
     (Issues s e 0x62 f r → f.b = 0 → f.c = 0 → f.imm = 0 → r.d.reexec = false →
       ∃ t, exec (.fset e f) s = .next t ∧ t = { s with engines := t.engines, freeCtr := t.freeCtr } ∧
         (t.eng e).pc = (s.eng e).pc + 8 ∧
         ∀ e' f', t.flagVal e' f' =
           if e' = s.flagEngine e ∧ f' = f.d.toNat then ((s.eng e).gr f.a).setWidth 32 else s.flagVal e' f')) ∧
  (∀ (s : State) (e : Nat) (f : Fields) (r : Run),
     (Issues s e 0x61 f r → f.d < 48 → (r.d.net = true ∨ f.d.toNat < s.cfg.flagSysBase) → f.b ≤ 1 → f.c = 0 →
       let v : W32 := ((s.eng e).gr f.a + f.imm.signExtend 64).setWidth 32
       ∃ t, exec (.fwait e f) s = .next t ∧ t.ls = s.ls ∧ t.cs = s.cs ∧ t.mem = s.mem ∧
         (s.flagVal (s.flagEngine e) f.d.toNat < v →
           OnlyEngine s t e ∧ t.eng e = { s.eng e with act := .waitFlag f.d.toNat v (f.b == 1), pc := (s.eng e).pc + 8 }) ∧
         (v ≤ s.flagVal (s.flagEngine e) f.d.toNat → (t.eng e).act = .run ∧ (t.eng e).pc = (s.eng e).pc + 8 ∧
           ∀ e' f', t.flagVal e' f' =
             if f.b = 1 ∧ e' = s.flagEngine e ∧ f' = f.d.toNat then s.flagVal e' f' - v else s.flagVal e' f')) ∧
     (∀ g v take, e < 2048 → (s.eng e).act = .waitFlag g v take → s.mayResume e = true →
       v ≤ s.flagVal (s.flagEngine e) g →
       ∃ t, exec (.fwaitMet e) s = .next t ∧ (t.eng e).act = .run ∧ (t.eng e).pc = (s.eng e).pc ∧
         ∀ e' f', t.flagVal e' f' =
           if take = true ∧ e' = s.flagEngine e ∧ f' = g then s.flagVal e' f' - v else s.flagVal e' f') ∧
     (Issues s e 0x63 f r → f.a < 48 → (r.d.net = true ∨ f.a.toNat < s.cfg.flagSysBase) → f.b = 0 → f.c = 0 → f.imm = 0 →
       ∃ t, exec (.frd e f) s = .next t ∧
         WritesG s t e f.d ((s.flagVal (s.flagEngine e) f.a.toNat).setWidth 64) ((s.eng e).pc + 8)))

/-! ## Keystone lines (R231 to R235) -/

/-- KARR counts one arrival and returns the phase at that moment; at die or module reach the arrival that brings the
count to EXPECT ends the phase. KWAIT waits while the phase is its operand, and goes on when it has changed.
KEY_EXPECT_WRITE and KEY_RESET through the host port of the line's owner. (Model's choice: when a wait goes on: log
entry 17.) -/
def Obligations.KeystoneArrivals : Prop :=
  (∀ (s : State) (e : Nat) (f : Fields) (r : Run),
     (Issues s e 0x64 f r → f.a = 0 → f.b = 0 → f.c = 0 → f.imm < 16 → r.d.reexec = false →
       (s.key f.imm.toNat).owner = r.part → ((s.key f.imm.toNat).reach = 0 → (s.key f.imm.toNat).die = e / 512) →
       (s.key f.imm.toNat).expect ≠ 0 →
       ∃ t, exec (.karr e f) s = .next t ∧
         (∀ q : BitVec 6, (t.eng e).gr q =
           if q = 0 then 0 else if q = f.d then (s.key f.imm.toNat).phase.setWidth 64 else (s.eng e).gr q) ∧
         (t.eng e).pc = (s.eng e).pc + 8 ∧ t.ls = s.ls ∧ t.cs = s.cs ∧ t.mem = s.mem ∧
         (∀ k, k ≠ f.imm.toNat → t.key k = s.key k) ∧
         ((s.key f.imm.toNat).reach ≠ 2 → t.key f.imm.toNat =
           if (s.key f.imm.toNat).count + 1 = (s.key f.imm.toNat).expect then
             { s.key f.imm.toNat with phase := (s.key f.imm.toNat).phase + 1, count := 0 }
           else { s.key f.imm.toNat with count := (s.key f.imm.toNat).count + 1 }) ∧
         ((s.key f.imm.toNat).reach = 2 →
           ((s.key f.imm.toNat).count + 1 < (s.key f.imm.toNat).expect →
             t.key f.imm.toNat = { s.key f.imm.toNat with count := (s.key f.imm.toNat).count + 1 }) ∧
           (s.cfg.slice.role = 0 → (s.key f.imm.toNat).shareDone = false →
             (s.key f.imm.toNat).count + 1 = (s.key f.imm.toNat).expect →
             (∀ n ∈ s.keyChildren, n ∈ (s.key f.imm.toNat).reports) →
             t.key f.imm.toNat =
               if s.keyParent = none then
                 { s.key f.imm.toNat with phase := (s.key f.imm.toNat).phase + 1, count := 0, reports := [],
                                          shareDone := false }
               else { s.key f.imm.toNat with count := (s.key f.imm.toNat).count + 1, shareDone := true }))) ∧
     (Issues s e 0x65 f r → f.d = 0 → f.b = 0 → f.c = 0 → f.imm < 16 → r.d.reexec = false →
       (s.key f.imm.toNat).owner = r.part → ((s.key f.imm.toNat).reach = 0 → (s.key f.imm.toNat).die = e / 512) →
       let v : W32 := ((s.eng e).gr f.a).setWidth 32
       ∃ t, exec (.kwait e f) s = .next t ∧ OnlyEngine s t e ∧
         t.eng e = { s.eng e with
           act := if (s.key f.imm.toNat).phase = v then .waitKey f.imm.toNat v else .run, pc := (s.eng e).pc + 8 }) ∧
     (∀ k v, e < 2048 → (s.eng e).act = .waitKey k v → s.mayResume e = true → (s.key k).phase ≠ v →
       ∃ t, exec (.kwaitMet e) s = .next t ∧ OnlyEngine s t e ∧ t.eng e = { s.eng e with act := .run })) ∧
  (∀ (s : State) (port k : Nat) (v : W32), k < 16 → port < 2 → s.writable = true →
     s.reaches (s.keyOwner k) port = true →
       (∃ t, exec (.keyExpectWrite port k v) s = .next t ∧
         t = { s with keys := t.keys, latches := t.latches } ∧ (∀ j, j ≠ k → t.key j = s.key j) ∧
         t.key k = if v.toNat % 4096 ≤ 2048 ∧ (s.key k).count = 0 then { s.key k with expect := v.toNat % 4096 }
           else s.key k) ∧
       (v.getLsbD 0 = true → ∃ t, exec (.keyReset port k v) s = .next t ∧ (∀ j, j ≠ k → t.key j = s.key j) ∧
         t.key k = { s.key k with phase := 0, count := 0, reports := [], shareDone := false }))

/-! ## Stream contexts (R237 to R245, R402 to R408) -/

/-- A doorbell through the partition's host port: a tail within the ring, counted from the command after the one being
carried out, replaces TAIL; any other value, and any value for a disabled context, sets DB_ERR. Through the other
port it is counted in HP_DB_DROP. A write of CTX_CTRL through the partition's host port, under each of its four
commands: PRIO, EVAL and SLOT take effect, RING_ORDER while ENABLE was 0, RESET with no live item, and ENABLE = 1
only with a ring that the rules allow. (Model's choice: what RESET discards beside the fields of R243, the commands held,
the wait for a slot and a fence, and the command that the processor carries: log entry 20.) -/
def Obligations.DoorbellAndControl : Prop :=
  (∀ (s : State) (port n : Nat) (tail : W32) (p : Nat), port < 2 → n < 1024 → s.live = true → s.partOfCtx n = some p →
     ∃ t, exec (.doorbell port n tail) s = .next t ∧
       (s.hostOf p ≠ port → t = { s with hosts := t.hosts } ∧
         (t.host port).dbDrop = min ((s.host port).dbDrop + 1) 0xFFFFFFFF) ∧
       (s.hostOf p = port → t = { s with ctxs := t.ctxs, setNow := t.setNow } ∧ (∀ m, m ≠ n → t.ctx m = s.ctx m) ∧
         let k : Nat := if s.headTaken n then 1 else 0
         let eff := (s.ctx n).head + BitVec.ofNat 32 k
         if (s.ctx n).enable = true ∧ (tail - eff).toNat ≤ 2 ^ (s.ctx n).ringOrder - k ∧ k ≤ 2 ^ (s.ctx n).ringOrder then
           (t.ctx n).tail = tail ∧ (t.ctx n).dbErr = (s.ctx n).dbErr ∧ (t.ctx n).head = (s.ctx n).head ∧
             t.setNow = s.setNow
         else t.ctx n = { s.ctx n with dbErr := true } ∧ t.setNow = s.setNow ++ [.dbErr n])) ∧
  (∀ c ∈ [Instr.ctxEnable, Instr.ctxDisable, Instr.ctxReset, Instr.ctxSlotBind],
   ∀ (s : State) (port n p : Nat) (v : W32), port < 2 → n < 1024 → s.live = true → s.partOfCtx n = some p →
     s.hostOf p = port →
     let x := s.ctx n
     let w := v.toNat
     let order := if x.enable then x.ringOrder else bits w 12 8
     let slot := if bits w 23 16 < 128 ∧ s.partOfSlot (bits w 23 16) = some p then bits w 23 16 else 0xFF
     let ok : Bool := decide (4 ≤ order) && decide (order ≤ 16) &&
       (!x.inPier || s.ringNameable p { x with ringOrder := order })
     let enable := bit w 0 && (ok || x.enable)
     ∃ t, exec (c port n v) s = .next t ∧
       t = { s with ctxs := t.ctxs, parts := t.parts, latches := t.latches } ∧ (∀ m, m ≠ n → t.ctx m = s.ctx m) ∧
       (bit w 5 = false ∨ x.live ≠ 0 → t.parts = s.parts ∧
         t.ctx n = { x with prio := bits w 3 1, eval := bit w 4, slot := slot, ringOrder := order, enable := enable }) ∧
       (bit w 5 = true → x.live = 0 →
         t.ctx n = { x with prio := bits w 3 1, eval := bit w 4, slot := slot, ringOrder := order, enable := enable,
                            head := x.tail, faultValid := false, faultCode := 0, faultOpc := 0, faultEngine := 0,
                            faultSeq := 0, dbErr := false, held := [], waitSlot := false, fenced := false }))

/-- RING_FETCH: the free processor takes the command at HEAD of the context it chooses, from a ring in host memory over
the partition's host port. Commands fetched carry PRIO and EVAL as they stand; HEAD stays until the command is done.
RING_FETCH_ERROR: the context is FAULTED with FETCH, or with RING for a pier ring that is no longer nameable; a completion
timeout of the fetch is logged, and with the timeout disabled the fetch is waited for. (Model's choice: that the command
carries what was fetched: log entry 20.) -/
def Obligations.RingFetches : Prop :=
  (∀ (s : State) (p n : Nat) (cmd : List Byte) (rest : List (List Byte)), p < 8 → s.live = true → s.castHeld = false →
     (s.part p).carrying = none → (s.part p).resetBusy = false → s.chooseCtx p = some n → (s.ctx n).held = [] →
     (s.ctx n).inPier = false → s.hostUsable (s.hostOf p) = true → 0 < s.fetchCount (s.hostOf p) (s.ctx n) →
     cmdKind cmd < 3 → (cmdFence cmd = false ∨ (s.ctx n).live = 0) →
     ∃ t, exec (.ringFetch p (cmd :: rest)) s = .next t ∧
       t = { s with parts := t.parts, ctxs := t.ctxs, out := t.out } ∧
       (t.part p).carrying =
         some { ctx := n, cmd := { bytes := cmd, prio := (s.ctx n).prio, eval := (s.ctx n).eval }, copy := none } ∧
       t.ctx n = { s.ctx n with held := (t.ctx n).held } ∧ (∀ m, m ≠ n → t.ctx m = s.ctx m) ∧
       ((t.ctx n).held.map (·.bytes)) = (cmd :: rest).take (s.fetchCount (s.hostOf p) (s.ctx n)) ∧
       t.out = s.out ++ copyRequests s (s.hostOf p)
         { host := BitVec.ofNat 64 ((s.ctx n).base + 64 * ((s.ctx n).head.toNat % 2 ^ (s.ctx n).ringOrder)),
           target := .pier 0, len := 64 * s.fetchCount (s.hostOf p) (s.ctx n), dir := 0 }) ∧
  (∀ (s : State) (p n : Nat) (cause : RingCause), p < 8 → s.live = true → s.castHeld = false → (s.part p).carrying = none →
     (s.part p).resetBusy = false → s.chooseCtx p = some n → (s.ctx n).held = [] → (s.ctx n).faultValid = false →
     (if cause = .region then (s.ctx n).inPier = true ∧ s.ringNameable p (s.ctx n) = false
      else (s.ctx n).inPier = false ∧ s.hostUsable (s.hostOf p) = true) →
     (cause = .timeout → (s.host (s.hostOf p)).ctDisable = true → exec (.ringFetchError p cause) s = .next s) ∧
     ((cause = .timeout → (s.host (s.hostOf p)).ctDisable = false) →
       ∃ t, exec (.ringFetchError p cause) s = .next t ∧
         t = { s with ctxs := t.ctxs, hosts := t.hosts, freeCtr := t.freeCtr } ∧ (∀ m, m ≠ n → t.ctx m = s.ctx m) ∧
         t.ctx n = { s.ctx n with faultValid := true, faultCode := if cause = .region then 0x81 else 0x80, faultOpc := 0,
                                  faultEngine := 0, faultSeq := 0 } ∧
         (cause = .region → t.hosts = s.hosts) ∧
         (cause = .timeout → t.host (s.hostOf p) = { s.host (s.hostOf p) with
           space := (s.host (s.hostOf p)).space.logError aerTimeout [] })))

/-- ITEM, and its retry once a slot has freed: the item goes to its home hod, ready and counted in its context, with
PRIO under the context's cap; HEAD moves on. A descriptor that fails its check faults the context and HEAD stays.
(Model's choice: that the lowest free slot is taken: log entry 18.) -/
def Obligations.PlaceItem : Prop :=
  ∀ (s : State) (p n k : Nat) (cmd : Held), p < 8 → n < 1024 → s.live = true → (s.part p).resetBusy = false →
    cmdKind cmd.bytes = 0 →
    let d := itemDesc (cmdItem cmd.bytes)
    let st := s.checkItem (cmdItem cmd.bytes) p false cmd.eval
    let placed (t : State) : Prop :=
      (t.hodSlot d.home k).map (·.desc) =
        some { d with ctx := n, eval := cmd.eval, prio := if cmd.eval then 0 else min d.prio cmd.prio } ∧
      (t.hodSlot d.home k).map (·.status) = some .ready ∧
      (t.hodSlot d.home k).map (·.limit) = some s.cfg.progressUs ∧ (t.ctx n).head = (s.ctx n).head + 1 ∧
      (t.ctx n).live = (s.ctx n).live + 1 ∧ (t.part p).carrying = none ∧
      (d.pinned = false ∨ d.lsDep = false ∨ (s.eng d.affinity).orphan = false → t.engines = s.engines) ∧ t.ls = s.ls ∧
      t.cs = s.cs ∧ t.mem = s.mem
    ((s.part p).carrying = some { ctx := n, cmd := cmd, copy := none } →
      (st = 0 → (s.crs d.home).freeSlots.head? = some k → ∃ t, exec (.item p) s = .next t ∧ placed t) ∧
      (st ≠ 0 → (s.ctx n).faultValid = false → ∃ t, exec (.item p) s = .next t ∧
        t = { s with ctxs := t.ctxs, parts := t.parts } ∧ (t.ctx n).faultValid = true ∧
        (t.ctx n).faultCode = 0x90 + BitVec.ofNat 8 st ∧ (t.ctx n).faultSeq = d.seq ∧
        (t.ctx n).head = (s.ctx n).head ∧ (t.part p).carrying = none) ∧
      (st = 0 → (s.crs d.home).freeSlots = [] → ∃ t, exec (.item p) s = .next t ∧
        t = { s with ctxs := t.ctxs, parts := t.parts } ∧ (t.ctx n) = { s.ctx n with waitSlot := true } ∧
        (t.part p).carrying = none)) ∧
    (s.partOfCtx n = some p → (s.ctx n).held.head? = some cmd → (s.ctx n).waitSlot = true → s.castHeld = false →
      (s.part p).carrying = none → s.halted p = false → st = 0 → (s.crs d.home).freeSlots.head? = some k →
      ∃ t, exec (.hodSlotRetry n) s = .next t ∧ placed t ∧ (t.ctx n).waitSlot = false)

/-- COPY starts its host requests (the reads of its bytes, or their writes and the read of the last of them),
COPY_CMD_DONE writes what the host returned and moves HEAD on, or, after an error, faults its context with FETCH;
COMPLETE posts its 32-byte record in two writes, and faults with FETCH when its port goes away before the second has
left; once both have left it is done, whatever becomes of the port (R463); FENCE_WAIT_END lets a fenced command go. (Model's choice: that the command carries what the host returned, and the order
of a COPY's checks: log entry 20.) -/
def Obligations.CopyAndComplete : Prop :=
  ∀ (s : State) (p n : Nat) (cmd : Held), p < 8 → n < 1024 → s.live = true → (s.part p).resetBusy = false →
    ((s.part p).carrying = some { ctx := n, cmd := cmd, copy := none } → cmdKind cmd.bytes = 1 →
      ∀ k, s.copyCheck p cmd.bytes = .ok k →
      (k.len = 0 → ∃ t, exec (.copy p) s = .next t ∧ t = { s with ctxs := t.ctxs, parts := t.parts } ∧
        (t.ctx n).head = (s.ctx n).head + 1 ∧ (t.part p).carrying = none) ∧
      (k.len ≠ 0 → s.hostUsable (s.hostOf p) = true → ∃ t, exec (.copy p) s = .next t ∧
        t.ls = s.ls ∧ t.cs = s.cs ∧ t.mem = s.mem ∧ t.ctxs = s.ctxs ∧
        (t.part p).carrying = some { ctx := n, cmd := cmd, copy := some k } ∧
        t.out = s.out ++ copyRequests s (s.hostOf p) k)) ∧
    (∀ k, (s.part p).carrying = some { ctx := n, cmd := cmd, copy := some k } →
      (∀ bs, ∃ t, exec (.copyCmdDone p (.data bs)) s = .next t ∧ (t.ctx n).head = (s.ctx n).head + 1 ∧
        (t.part p).carrying = none ∧
        let u := if k.dir = 0 then s.writeLoc k.target (padTo k.len bs) else s
        t.ls = u.ls ∧ t.cs = u.cs ∧ t.mem = u.mem) ∧
      ((s.host (s.hostOf p)).ctDisable = true → exec (.copyCmdDone p .timeout) s = .next s) ∧
      (∀ res, (res = .error ∨ (res = .timeout ∧ (s.host (s.hostOf p)).ctDisable = false)) → (s.ctx n).faultValid = false →
        ∃ t, exec (.copyCmdDone p res) s = .next t ∧ (t.ctx n).head = (s.ctx n).head ∧ (t.part p).carrying = none ∧
          (t.ctx n).faultValid = true ∧ (t.ctx n).faultCode = 0x80 ∧ (k.dir ≠ 0 → SameStores s t) ∧
          (res = .timeout → t.host (s.hostOf p) = { s.host (s.hostOf p) with
            space := (s.host (s.hostOf p)).space.logError aerTimeout [] }))) ∧
    ((s.part p).carrying = some { ctx := n, cmd := cmd, copy := none } → cmdKind cmd.bytes = 2 →
      fieldAt cmd.bytes 0 8 % 32 = 0 → (∀ b ∈ (cmd.bytes.drop 0x10).take 47, b = 0) → (s.ctx n).faultValid = false →
      s.hostUsable (s.hostOf p) = true →
      let ws : List Out :=
        [.hostWrite (s.hostOf p) (w64At cmd.bytes 0)
           (leBytes 8 (fieldAt cmd.bytes 8 8) ++ leBytes 2 n ++ [0, 0] ++ leBytes 4 ((s.ctx n).head + 1).toNat ++
             leBytes 8 (s.ctx n).finished) false,
         .hostWrite (s.hostOf p) (w64At cmd.bytes 0 + 0x18)
           (leBytes 4 (s.ctx n).numstat.toNat ++ leBytes 4 1) false]
      (∀ cut, (cut = none ∨ ∃ k, cut = some k ∧ 2 ≤ k) → ∃ t, exec (.complete ⟨p, cut⟩) s = .next t ∧
        t = { s with ctxs := t.ctxs, parts := t.parts, out := t.out } ∧
        (t.ctx n).head = (s.ctx n).head + 1 ∧ (t.ctx n).faultValid = false ∧ (t.part p).carrying = none ∧
        t.out = s.out ++ ws) ∧
      ∀ k, k < 2 → ∃ t, exec (.complete ⟨p, some k⟩) s = .next t ∧
        t = { s with ctxs := t.ctxs, parts := t.parts, out := t.out } ∧ (t.ctx n).head = (s.ctx n).head ∧
        (t.ctx n).faultValid = true ∧ (t.ctx n).faultCode = 0x80 ∧ (t.part p).carrying = none ∧
        t.out = s.out ++ ws.take k) ∧
    ((s.ctx n).fenced = true → (s.ctx n).live = 0 →
      ∃ t, exec (.fenceWaitEnd n) s = .next t ∧ t = { s with ctxs := t.ctxs } ∧ (∀ m, m ≠ n → t.ctx m = s.ctx m) ∧
        t.ctx n = { s.ctx n with fenced := false })

/-! ## Micro-batch slots and off-load windows (R246, R247, R323, R324) -/

/-- SLOT_ARM replaces the wait of a slot, and SLOT_OPEN opens one whose flag has reached THRESH: ARM falls, SLOT_OPENS
counts, and with CONSUME the threshold leaves the flag. OFL_ARM arms a window whose registers are acceptable,
OFL_WINDOW_FIRE takes THRESH from the trigger flag and issues the copy's host requests, or, while a copy of the window
runs, lets the copy wait; OFL_COPY_DONE writes what the host returned, counts it, raises DONE and lets the next copy of
the window run. A flag of a course that sleeps is taken from once the course is awake. (Model's choice: the tests of an
armed window: log entry 21.) -/
def Obligations.SlotsAndWindows : Prop :=
  (∀ (s : State) (port k p : Nat) (v : W64), port < 2 → k < 128 → s.live = true →
     (s.partOfSlot k = some p → s.hostOf p = port →
       (bit v.toNat 31 = true → s.partOfEngine (bits v.toNat 10 0) = some p ∧ bits v.toNat 16 11 ≤ 47) →
       let x : MSlot := { s.mslot k with
         engine := bits v.toNat 10 0, flag := bits v.toNat 16 11, consume := bit v.toNat 17, arm := bit v.toNat 31,
         thresh := BitVec.ofNat 32 (bits v.toNat 63 32) }
       (x.arm = false ∨ s.flagLeft x.engine x.flag < x.thresh) →
       ∃ t, exec (.slotArm port k v) s = .next t ∧ t = { s with mslots := t.mslots, latches := t.latches } ∧
         (∀ j, j ≠ k → t.mslot j = s.mslot j) ∧ t.mslot k = x) ∧
     ((s.mslot k).arm = true → (s.mslot k).thresh ≤ s.flagLeft (s.mslot k).engine (s.mslot k).flag →
       s.slotTurn k = true →
       ∃ t, exec (.slotOpen k) s = .next t ∧ SameStores s t ∧ t.ctxs = s.ctxs ∧ t.parts = s.parts ∧
         (∀ j, j ≠ k → t.mslot j = s.mslot j) ∧
         t.mslot k = { s.mslot k with arm := false, opens := min ((s.mslot k).opens + 1) (2 ^ 64 - 1) } ∧
         ((s.mslot k).consume = false ∨ s.courseAwake ((s.mslot k).engine / 32) = true →
           t = { s with mslots := t.mslots, engines := t.engines }) ∧
         ((s.mslot k).consume = false → SameFlags s t) ∧
         ((s.mslot k).consume = true → FlagTaken s t (s.mslot k).engine (s.mslot k).flag (s.mslot k).thresh))) ∧
  (∀ (s : State) (port p w : Nat) (v : W32), port < 2 → p < 8 → w < 8 → s.live = true →
     let x := s.ofl p w
     (s.oflReach port p w = true → v.getLsbD 0 = true → s.oflOk p x = true → s.flagLeft x.trigEngine x.trigFlag < x.thresh →
       ∃ t, exec (.oflArm port p w v) s = .next t ∧ t = { s with ofls := t.ofls, latches := t.latches } ∧
         t.ofl p w = { x with
           arm := true, dir := v.getLsbD 1,
           err := x.err && (!v.getLsbD 3 || s.setNow.contains (Sticky.oflErr p w)) }) ∧
     (x.arm = true → x.thresh ≤ s.flagLeft x.trigEngine x.trigFlag → s.oflTurn p w = true →
       let c : CopyCmd :=
         { host := x.host, target := .pier x.pier.toNat, len := x.len.toNat, dir := if x.dir then 0 else 1 }
       ∃ t, exec (.oflWindowFire p w) s = .next t ∧ t.ls = s.ls ∧ t.cs = s.cs ∧ t.mem = s.mem ∧
         (t.ofl p w).arm = false ∧
         (x.len = 0 → (t.ofl p w).count = min (x.count + 1) (2 ^ 64 - 1) ∧ t.out = s.out) ∧
         (x.len ≠ 0 → FlagTaken s t x.trigEngine x.trigFlag x.thresh ∧
           (x.busy = true → t.ofl p w = { x with arm := false, next := x.next ++ [c] } ∧ t.out = s.out) ∧
           (x.busy = false → s.hostUsable (s.hostOf p) = true →
             t.ofl p w = { x with arm := false, busy := true, copy := some c, sent := true } ∧
             t.out = s.out ++ copyRequests s (s.hostOf p) c))) ∧
     (∀ c bs, x.copy = some c → x.sent = true → x.doneValid = true → x.doneEngine < 2048 →
       s.courseAwake (x.doneEngine / 32) = true →
       ∃ t, exec (.oflCopyDone p w (.data bs)) s = .next t ∧
         t.ofl p w = { x with
           busy := !x.next.isEmpty, copy := x.next.head?, next := x.next.tail,
           sent := !x.next.isEmpty && s.hostUsable (s.hostOf p), count := min (x.count + 1) (2 ^ 64 - 1) } ∧
         (∀ e f, t.flagVal e f = if e = x.doneEngine ∧ f = x.doneFlag then s.flagVal e f + 1 else s.flagVal e f) ∧
         let u := if c.dir = 0 then s.writeLoc c.target (padTo c.len bs) else s
         t.ls = u.ls ∧ t.cs = u.cs ∧ t.mem = u.mem))

/-! ## Items (R98 to R107, R111, R113, R185 to R193) -/

/-- An item that starts afresh: PC = ENTRY; g1 = ARG, g2 = SEQ, g3 = home course; every other register, the accumulator
sets and the numeric status zero; the operand buffers hold tiles with K = 0; local store and flags keep their contents. -/
def Obligations.ItemStart : Prop :=
  ∀ (s : State) (e : Nat) (x : Candidate), x.h.saved = none →
    ((s.startItem e x).eng e).pc = x.h.desc.entry ∧ ((s.startItem e x).eng e).act = .run ∧
    ((s.startItem e x).eng e).item = some (x.c, x.k) ∧
    (∀ q : BitVec 6, ((s.startItem e x).eng e).gr q =
      if q = 1 then x.h.desc.arg else if q = 2 then x.h.desc.seq.setWidth 64
      else if q = 3 then BitVec.ofNat 64 x.c else 0) ∧
    (∀ q l, ((s.startItem e x).eng e).lane q l = 0) ∧ (∀ a, ((s.startItem e x).eng e).acc a = AccSet.clear) ∧
    ((s.startItem e x).eng e).numstat = 0 ∧ (∀ b, (((s.startItem e x).eng e).buf b).k = 0) ∧
    (s.startItem e x).ls = s.ls ∧ ∀ e' f', (s.startItem e x).flagVal e' f' = s.flagVal e' f'

/-- ENGINE_WAKE: an engine that may choose starts the best of its own items, and when it has none, the item it steals;
a slot that is due to retire retires first. Requests of one cycle for a hod, whatever made the engine choose: an idle
engine of the hod's own course goes before a thief, and a lower number before a higher one. An engine whose course sleeps
asks for the course's exit. (Model's choice: ties: log entry 18; which commands share a cycle: log entry 4.) -/
def Obligations.EngineWake : Prop :=
  ∀ (s : State) (e : Nat) (x : Candidate), e < 2048 →
    (s.courseAwake (e / 32) = true → exec (.engineWake e) s = .next (s.choose e) ∧
      (s.mayChoose e = false → s.choose e = s)) ∧
    (s.mayChoose e = true → (s.eng e).retireDue = true → s.rivals e = [] → s.choose e = s.retire e) ∧
    (s.mayChoose e = true → (s.eng e).retireDue = false → s.rivals e = [] →
      (bestOf (Candidate.rank e) (s.ownItems e) = some x → (∀ o, x.tied = some o → o = e ∨ x.h.desc.lsDep = false) →
        exec (.engineWake e) s = .next (s.startItem e x)) ∧
      (s.ownItems e = [] → s.stealItem e = some x →
        ∃ t, exec (.engineWake e) s = .next t ∧ (t.eng e).item = some (x.c, x.k) ∧ (t.eng e).act = .run ∧
          (t.eng e).stolen = min ((s.eng e).stolen + 1) (2 ^ 64 - 1) ∧
          (t.crs x.c).hodStolen = min ((s.crs x.c).hodStolen + 1) (2 ^ 64 - 1))) ∧
    (∀ o, s.mayChoose e = true → s.rivals e = [o] → (s.eng o).retireDue = false →
      bestOf (Candidate.rank o) (s.ownItems o) = some x → (∀ i, x.tied = some i → i = o ∨ x.h.desc.lsDep = false) →
      s.choose e = (s.startItem o x).takeTurn e) ∧
    (∀ c o, s.targetHod e = some c → (o ∈ s.rivals e ↔
      o ∈ s.engines.map (·.1) ∧ o ≠ e ∧ s.mayChoose o = true ∧ s.targetHod o = some c ∧
        (if e / 32 = c then o / 32 = c ∧ o < e else o / 32 = c ∨ o < e))) ∧
    (s.courseAwake (e / 32) = false → s.live = true → (s.eng e).act = .idle → s.engEnabled e = true →
      s.hasSlot e = true → (bestOf (Candidate.rank e) (s.ownItems e) = some x ∨ s.stealItem e = some x) →
      ∃ t, exec (.engineWake e) s = .next t ∧ t = { s with doms := t.doms, pwr := t.pwr } ∧
        ((s.dom (e / 32)).held = false → (t.dom (e / 32)).wakeReq = true))

/-- SPAWN: an accepted descriptor takes a pending slot of its home hod and status 0; a hod without a free slot gives
FULL; a descriptor that is refused gives its status and changes nothing but gD. SPAWND: with no route, no block or no
capacity it creates nothing; when every check passes it creates one pending item for each chunk, in route order, all or
none: the i-th new slot holds the i-th item's descriptor, and its record, with the chunk's entries, stands at RECORDS +
i × RS. Room is what the reservations of lower engines in the same cycle leave. (Model's choice: that the lowest free
slot is taken, and that the first SPAWN or SPAWND of each engine that waits in the queue is of the same cycle: log
entry 18.) -/
def Obligations.Spawns : Prop :=
  (∀ (s : State) (e : Nat) (f : Fields) (r : Run), Issues s e 0x70 f r → f.b = 0 → f.c = 0 → f.imm = 0 →
     ((s.eng e).gr f.a).toNat + 64 ≤ 0x60000 →
     let b := s.lsRead e ((s.eng e).gr f.a).toNat 64
     let d := s.inherit r.d (itemDesc b)
     let st := s.checkItem b r.part true r.d.eval
     (st ≠ 0 → ∃ t, exec (.spawn e f) s = .next t ∧ WritesG s t e f.d (BitVec.ofNat 64 st) ((s.eng e).pc + 8)) ∧
     (st = 0 → ((s.crs d.home).freeSlots = [] ∨ (s.modEng e Engine.next).roomAfter e [d] = false) →
       ∃ t, exec (.spawn e f) s = .next t ∧
       (∀ q : BitVec 6, (t.eng e).gr q = if q = 0 then 0 else if q = f.d then 5 else (s.eng e).gr q) ∧
       (t.crs (e / 32)).spawnFull = min ((s.crs (e / 32)).spawnFull + 1) (2 ^ 64 - 1) ∧
       (t.eng e).spawns = (s.eng e).spawns ∧ t.ls = s.ls ∧ t.cs = s.cs ∧ t.mem = s.mem) ∧
     (∀ k, st = 0 → (s.crs d.home).freeSlots.head? = some k → (s.modEng e Engine.next).roomAfter e [d] = true →
       ∃ t, exec (.spawn e f) s = .next t ∧
       (∀ q : BitVec 6, (t.eng e).gr q = if q = 0 then 0 else if q = f.d then 0 else (s.eng e).gr q) ∧
       (t.eng e).spawns = (s.eng e).spawns ++ [(d.home, k)] ∧ (t.eng e).pc = (s.eng e).pc + 8 ∧
       t.hodSlot d.home k = some { desc := d, status := .pending, stamp := 0, listed := d.home, saved := none,
                                   limit := s.cfg.progressUs } ∧
       t.ctxs = s.ctxs ∧ t.ls = s.ls ∧ t.cs = s.cs ∧ t.mem = s.mem)) ∧
  (∀ (s : State) (e : Nat) (f : Fields) (r : Run), Issues s e 0x71 f r → f.b = 0 → f.c = 0 → f.imm = 0 →
     ((s.eng e).gr f.a).toNat + 128 ≤ 0x60000 → (∀ x ∈ s.engines, x.2.copies = []) →
     let b := s.lsRead e ((s.eng e).gr f.a).toNat 128
     let d := dispatchDesc b
     let ct := d.blocks * d.routes
     dispatchOk b = true →
     (ct = 0 ∨ d.cap = 0 → ∃ t, exec (.spawnd e f) s = .next t ∧
       (∀ q : BitVec 6, (t.eng e).gr q = if q = 0 then 0 else if q = f.d then 0 else (s.eng e).gr q) ∧
       (t.eng e).spawns = (s.eng e).spawns) ∧
     (ct ≠ 0 → d.cap ≠ 0 → ∀ list last rec, s.inExtents r false d.list 0 (4 * ct) = some list →
       s.inExtents r false d.list d.e0 (8 * ct * d.cap) = some last →
       let counts := (chunks 4 (s.readLoc list (4 * ct))).map leNat
       let chs := d.chunks ((d.sequences counts).filter fun x => x.2.1 ≠ 0)
       let items := chs.zipIdx.map fun ((rt, c, n), i) => d.item ((b.drop 0x40).take 64) i rt c n
       let ds := items.map fun x => s.inherit r.d (itemDesc x)
       (∀ n ∈ counts, n ≤ d.cap) → chs.length ≤ d.maxItems →
       (∀ x ∈ chs, d.affinity x.1 < 2048 ∧ s.engEnabled (d.affinity x.1) = true ∧ x.2.2 * d.outTok < 2 ^ 32) →
       s.inExtents r true d.records 0 (chs.length * d.rs) = some rec →
       (∀ x ∈ items, s.checkItem x r.part true r.d.eval = 0) →
       ((s.modEng e Engine.next).racyRead list (4 * ct)).2.roomAfter e ds = true →
       ∃ t, exec (.spawnd e f) s = .next t ∧
         (∀ q : BitVec 6, (t.eng e).gr q =
           if q = 0 then 0 else if q = f.d then BitVec.ofNat 64 ds.length else (s.eng e).gr q) ∧
         (t.eng e).spawns.length = (s.eng e).spawns.length + ds.length ∧
         (t.eng e).spawns.take (s.eng e).spawns.length = (s.eng e).spawns ∧
         (∀ i x, (t.eng e).spawns[(s.eng e).spawns.length + i]? = some x →
           (t.hodSlot x.1 x.2).map (·.desc) = ds[i]? ∧ (t.hodSlot x.1 x.2).map (·.status) = some .pending) ∧
         t.ctxs = s.ctxs ∧ t.ls = s.ls ∧
         (Memory.wf s.cs = true → Memory.wf s.mem = true →
           (∀ (u : State) (m : Nat) (bs : List Byte) (off n : Nat), u.cfg = s.cfg → u.gen = s.gen →
             Memory.wf u.cs = true → Memory.wf u.mem = true → m + bs.length ≤ chs.length * d.rs →
             d.e0 ≤ off → off + n ≤ d.e0 + 8 * ct * d.cap →
             (u.writeLoc (rec.add m) bs).readLoc (list.add off) n = u.readLoc (list.add off) n) →
           let entries (rt : Nat) : List Byte := (List.range d.blocks).flatMap fun g =>
             s.readLoc (list.add (d.e0 + 8 * ((g * d.routes + rt) * d.cap))) (8 * counts.getD (g * d.routes + rt) 0)
           let u := chs.zipIdx.foldl (fun u ((rt, c, n), i) => u.writeLoc (rec.add (i * d.rs))
             (d.record rt c n (((entries rt).drop (8 * d.tok * c)).take (8 * n)))) s
           t.cs = u.cs ∧ t.mem = u.mem)))

/-- YIELD: the program counter past it and g1 to g63 go to the item's save area, its hod slot is yielded to the engine
(or the orphan it runs for) and listed in the executing engine's hod, and the engine chooses again. (Model's choice: the
order of the registers in the area: log entry 9; that the item of an orphan stays tied to the orphan: log entry 16.) -/
def Obligations.Yield : Prop :=
  ∀ (s : State) (e : Nat) (f : Fields) (r : Run) (h : HodSlot), Issues s e 0x72 f r → f.d = 0 → f.a = 0 → f.b = 0 →
    f.c = 0 → f.imm = 0 → s.hodSlot r.c r.k = some h →
    ∃ u t : State, exec (.yield e f) s = .next t ∧ (t = u.choose e ∨ t = { u.choose e with freeCtr := t.freeCtr }) ∧
      (u.eng e).item = none ∧ (u.eng e).act = .idle ∧ u.ls = s.ls ∧ u.mem = s.mem ∧ u.ctxs = s.ctxs ∧
      (u.hodSlot r.c r.k).map (·.desc) = some h.desc ∧
      (u.hodSlot r.c r.k).map (·.status) = some (.yielded (s.flagEngine e)) ∧
      (u.hodSlot r.c r.k).map (·.listed) = some (e / 32) ∧
      u.cs = Mem.write s.cs (csKey r.c (0x3E0000 + 512 * r.k))
        (leBytes 8 ((s.eng e).pc + 8) ++ (List.range 63).flatMap fun i =>
          leBytes 8 ((s.eng e).gr (BitVec.ofNat 6 (i + 1))).toNat)

/-- FINISH waits while an operation of its item is outstanding; with none it commits, as FINISH_COMMIT does once the
last has ended: flush counts added, contribution committed and every contribution that is next in order combined,
spawned items ready, numeric status ORed, DONE raised, the slot freed, the item counted as finished, and the engine
chooses again. A contribution whose index was committed before ends the item with REDUCE. ITEM_REEXEC: the flag changes
of the failed attempt are undone, ENG_REEXEC counts, and the item starts afresh on its engine; one that had yielded when
an operation of it met CHECK does so when an engine chooses it. (Model's choice: when the item starts again: log entry
16.) -/
def Obligations.FinishAndReexecute : Prop :=
  (∀ (s : State) (e : Nat) (r : Run),
     let flushed := (s.eng e).flushes.foldl
       (fun u x => u.writeLoc x.1 (leBytes 8 (leNat (u.readLoc x.1 8) + x.2))) s
     let commits (u : State) : Prop :=
       match (s.eng e).contrib with
       | none => u.cs = flushed.cs
       | some vs => ∀ x n, s.contribSlot r.c r.d = .ok (x, n) → x.combined ≤ x.count →
         u.cs = Mem.write flushed.cs (csKey r.c (x.bufAt n)) (laneBytes (vs.take (32 * x.regs))) ∧
         ∃ k acc, u.rslot r.c r.d.rslot =
             some { x with got := x.got ++ [n], combined := x.combined + k, acc := acc } ∧
           (∀ i, x.combined ≤ i → i < x.combined + k → i ∈ x.got ++ [n]) ∧
           (x.combined + k = x.count ∨ x.combined + k ∉ x.got ++ [n]) ∧
           acc = (List.range k).foldl (fun a i => List.zipWith (slotCombine x.op) a (contribElems x.op x.lenRegs
             (bytesLanes (u.readLoc (.cs r.c (x.bufAt (x.combined + i))) (x.regs * 128))))) x.acc
     let ready (y : Nat × Nat) : Bool := (s.hodSlot y.1 y.2).any fun h => decide (h.desc.ctx = r.d.ctx)
     let ended (u : State) : Prop :=
       (u.eng e).item = none ∧ (u.eng e).act = .idle ∧ u.hodSlot r.c r.k = none ∧ u.ls = flushed.ls ∧ commits u ∧
       u.mem = flushed.mem ∧ (u.eng e).finished = min ((s.eng e).finished + 1) (2 ^ 64 - 1) ∧
       (u.eng e).numstatReg = (s.eng e).numstatReg ||| (s.eng e).numstat ∧
       (u.ctx r.d.ctx).numstat = (s.ctx r.d.ctx).numstat ||| (s.eng e).numstat ∧
       (u.ctx r.d.ctx).finished = min ((s.ctx r.d.ctx).finished + 1) (2 ^ 64 - 1) ∧
       (u.ctx r.d.ctx).live = (s.ctx r.d.ctx).live + (s.eng e).spawns.countP ready - 1 ∧
       (∀ y ∈ (s.eng e).spawns, y ≠ (r.c, r.k) → ∀ h, s.hodSlot y.1 y.2 = some h →
         (u.hodSlot y.1 y.2).map (fun x => (x.desc, x.status, x.listed)) = some (h.desc, .ready, y.1)) ∧
       ∀ e' f', u.flagVal e' f' =
         if r.d.doneValid = true ∧ s.courseAwake (r.d.doneEngine / 32) = true ∧ e' = r.d.doneEngine ∧
           f' = r.d.doneFlag then s.flagVal e' f' + 1 else s.flagVal e' f'
     let good : Prop := ∀ vs, (s.eng e).contrib = some vs →
       ∃ x n, s.contribSlot r.c r.d = .ok (x, n) ∧ n ∉ x.got ∧ 32 * x.regs ≤ vs.length
     (∀ f, Issues s e 0x73 f r → f.d = 0 → f.a = 0 → f.b = 0 → f.c = 0 → f.imm = 0 →
       (s.itemCopies e r.c r.k = true ∨ s.itemNets e r.c r.k = true →
         ∃ t, exec (.finish e f) s = .next t ∧ OnlyEngine s t e ∧
           t.eng e = { s.eng e with act := .finishing, pc := (s.eng e).pc + 8 }) ∧
       (s.itemCopies e r.c r.k = false → s.itemNets e r.c r.k = false → good →
         ∃ u t : State, exec (.finish e f) s = .next t ∧ (t = u.choose e ∨ t = { u.choose e with freeCtr := t.freeCtr }) ∧
           ended u) ∧
       (s.itemCopies e r.c r.k = false → s.itemNets e r.c r.k = false → ∀ vs x n, (s.eng e).contrib = some vs →
         s.contribSlot r.c r.d = .ok (x, n) → n ∈ x.got →
         ∃ u t : State, exec (.finish e f) s = .next t ∧ (t = u.choose e ∨ t = { u.choose e with freeCtr := t.freeCtr }) ∧
           (u.eng e).item = none ∧ u.hodSlot r.c r.k = none ∧ u.rslot r.c r.d.rslot = some x ∧
           ((s.eng e).faultValid = false → (u.eng e).faultValid = true ∧ (u.eng e).faultCode = 6) ∧
           (u.ctx r.d.ctx).ended = min ((s.ctx r.d.ctx).ended + 1) (2 ^ 64 - 1))) ∧
     (e < 2048 → (s.eng e).act = .finishing → s.mayResume e = true → s.run e = some r →
       s.itemCopies e r.c r.k = false → s.itemNets e r.c r.k = false → good →
       ∃ u : State, exec (.finishCommit e) s = .next (u.choose e) ∧ ended u)) ∧
  (∀ (s : State) (e c k : Nat) (h : HodSlot), e < 2048 → (s.eng e).reexecItem = some (c, k) → s.hodSlot c k = some h →
     s.mayResume e = true → (s.eng e).checkMet = false → (s.eng e).replacing = none → s.itemCopies e c k = false →
     (s.eng e).orphan = false → (s.eng e).rehomed = none →
     ∃ t, exec (.itemReexec e) s = .next t ∧ (t.eng e).reexecItem = none ∧
       (t.eng e).reexec = min ((s.eng e).reexec + 1) 0xFFFFFFFF ∧ (t.eng e).act = .run ∧ (t.eng e).pc = h.desc.entry ∧
       (t.eng e).item = some (c, k) ∧ t.ls = s.ls ∧ t.mem = s.mem ∧
       ∀ g, t.flagVal e g = s.flagVal e g - (((s.eng e).undo.filter fun x => x.1 = g).map (·.2)).sum) ∧
  (∀ (s : State) (e : Nat) (x : Candidate) (v : Saved), x.h.saved = some v → v.failed = true →
     s.courseAwake (x.tied.getD e / 32) = true →
     let t := s.startItem e x
     (t.eng e).act = .run ∧ (t.eng e).item = some (x.c, x.k) ∧ (t.eng e).pc = x.h.desc.entry ∧
     (t.eng e).reexec = min ((s.eng e).reexec + 1) 0xFFFFFFFF ∧ (t.eng e).numstat = 0 ∧ (t.eng e).spawns = [] ∧
     (t.eng e).flushes = [] ∧ (t.eng e).contrib = none ∧ (t.eng e).undo = [] ∧
     (∀ q : BitVec 6, (t.eng e).gr q =
       if q = 1 then x.h.desc.arg else if q = 2 then x.h.desc.seq.setWidth 64
       else if q = 3 then BitVec.ofNat 64 x.c else 0) ∧
     (∀ q l, (t.eng e).lane q l = 0) ∧ (∀ a, (t.eng e).acc a = AccSet.clear) ∧ (∀ b, ((t.eng e).buf b).k = 0) ∧
     t.hodSlot x.c x.k = some { x.h with status := .running e, saved := none } ∧ t.ls = s.ls ∧ t.cs = s.cs ∧
     t.mem = s.mem ∧ (∀ e' g, e' ≠ x.tied.getD e → t.flagVal e' g = s.flagVal e' g) ∧
     ∀ g, t.flagVal (x.tied.getD e) g =
       s.flagVal (x.tied.getD e) g - ((v.undo.filter fun y => y.1 = g).map (·.2)).sum)

/-! ## Item faults and system instructions (R76, R112, SYSR to CFENCE) -/

/-- A fault of a running item that ends it (a code that neither halts nor is CHECK): recorded, or OVERRUN when one
stands; the context faulted by its first fault; the item's slot freed and its pending spawns with it, counted as ended;
memory as it was. Instructions that fault: a fetch outside the usable course store with ADDR, an opcode outside the
tables with ILLEGAL, and an unused field that is not zero with ILLEGAL (here: field C of the instructions without C).
(Model's choice: a program counter that is not a multiple of 8, the opcode and the address recorded for a fetch that
fails, and the order of checks: log entry 15.) -/
def Obligations.FaultsAndIllegal : Prop :=
  (∀ (s : State) (e c k : Nat) (h : HodSlot) (code opc : BitVec 8) (pc : Nat) (addr : W64),
     (s.eng e).item = some (c, k) → s.hodSlot c k = some h → haltingCode code = false →
     let u := s.itemFault e code opc pc addr
     (u.eng e).item = none ∧ u.hodSlot c k = none ∧ u.ls = s.ls ∧ u.cs = s.cs ∧ u.mem = s.mem ∧ u.parts = s.parts ∧
     (∀ x ∈ (s.eng e).spawns, u.hodSlot x.1 x.2 = none) ∧
     ((s.eng e).faultValid = false → (u.eng e).faultValid = true ∧ (u.eng e).faultCode = code ∧
       (u.eng e).faultOpc = opc ∧ (u.eng e).faultPc = pc % 2 ^ 22 ∧ (u.eng e).faultAddr = addr) ∧
     ((s.eng e).faultValid = true → (u.eng e).faultOver = true ∧ (u.eng e).faultCode = (s.eng e).faultCode) ∧
     ((s.ctx h.desc.ctx).faultValid = false → (u.ctx h.desc.ctx).faultValid = true ∧
       (u.ctx h.desc.ctx).faultCode = code ∧ (u.ctx h.desc.ctx).faultEngine = e ∧
       (u.ctx h.desc.ctx).faultSeq = h.desc.seq) ∧
     ((s.ctx h.desc.ctx).faultValid = true → (u.ctx h.desc.ctx).faultCode = (s.ctx h.desc.ctx).faultCode) ∧
     (u.ctx h.desc.ctx).ended = min ((s.ctx h.desc.ctx).ended + 1) (2 ^ 64 - 1) ∧
     (u.ctx h.desc.ctx).live = (s.ctx h.desc.ctx).live - 1) ∧
  ((∀ row ∈ engineRows, ∀ (s : State) (e : Nat) (f : Fields) (r : Run), e < 2048 → s.mayIssue e = true →
     s.run e = some r →
     ((s.eng e).pc % 8 ≠ 0 ∨ (s.eng e).pc + 8 > 0x3E0000 →
       exec (row.1 e f) s =
         .next ((s.itemFault e 0x02 0 (s.eng e).pc (BitVec.ofNat 64 (s.eng e).pc)).choose e)) ∧
     ((s.eng e).pc % 8 = 0 → (s.eng e).pc + 8 ≤ 0x3E0000 →
       knownOpc (leNat (s.readLoc (.cs (e / 32) (s.eng e).pc) 8) / 2 ^ 56) = false →
       exec (row.1 e f) s = .next ((s.itemFault e 0x01
         (BitVec.ofNat 8 (leNat (s.readLoc (.cs (e / 32) (s.eng e).pc) 8) / 2 ^ 56)) (s.eng e).pc 0).choose e))) ∧
   ∀ row ∈ engineRows.filter (fun x => x.2 ∉ [0x16, 0x17, 0x18, 0x20, 0x30, 0x43, 0x47]),
     ∀ (s : State) (e : Nat) (f : Fields) (r : Run), Issues s e row.2 f r → f.c ≠ 0 →
     exec (row.1 e f) s = .next ((s.itemFault e 0x01 row.2 (s.eng e).pc 0).choose e))

/-- Running past the last instruction of the usable course store, whatever command issues: a fault with ADDR. -/
def Obligations.FetchPastTheStore : Prop :=
  ∀ (s : State) (e : Nat) (f : Fields) (r : Run), e < 2048 → s.mayIssue e = true → s.run e = some r →
    0x3E0000 < (s.eng e).pc + 8 →
    (∀ row ∈ engineRows, ∃ opc a, exec (row.1 e f) s = .next ((s.itemFault e 0x02 opc (s.eng e).pc a).choose e)) ∧
    ∀ bad, ∃ opc a, exec (.bmul e f bad) s = .next ((s.itemFault e 0x02 opc (s.eng e).pc a).choose e)

/-- SYSR, TRAP and CFENCE. (Model's choice: what CFENCE waits for: log entry 17.) -/
def Obligations.SystemInstructions : Prop :=
  ∀ (s : State) (e : Nat) (f : Fields) (r : Run),
    (Issues s e 0xF0 f r → f.a = 0 → f.b = 0 → f.c = 0 → f.imm ≤ 8 →
      ∃ t v, exec (.sysr e f) s = .next t ∧ WritesG s t e f.d v ((s.eng e).pc + 8) ∧
        (f.imm = 0 → v = BitVec.ofNat 64 e) ∧ (f.imm = 1 → v = BitVec.ofNat 64 (e / 32)) ∧
        (f.imm = 2 → v = BitVec.ofNat 64 r.c) ∧ (f.imm = 3 → v = r.d.seq.setWidth 64) ∧
        (f.imm = 4 → v = BitVec.ofNat 64 r.d.ctx) ∧ (f.imm = 5 → v = BitVec.ofNat 64 r.part) ∧
        (f.imm = 6 → v = s.cfg.slice.nodeId.setWidth 64) ∧ (f.imm = 7 → v = BitVec.ofNat 64 (s.eng e).itemCyc) ∧
        (f.imm = 8 → v = (s.eng e).numstat.setWidth 64)) ∧
    (Issues s e 0xF1 f r → f.d = 0 → f.a = 0 → f.b = 0 → f.c = 0 → f.imm < 64 →
      exec (.trap e f) s =
        .next ((s.itemFault e (0x40 + f.imm.setWidth 8) 0xF1 (s.eng e).pc 0).choose e)) ∧
    (Issues s e 0xF2 f r → f.d = 0 → f.a = 0 → f.b = 0 → f.c = 0 → f.imm = 0 →
      ∃ t, exec (.cfence e f) s = .next t ∧ OnlyEngine s t e ∧
        t.eng e = { s.eng e with
          act := if s.itemCopies e r.c r.k || s.itemNets e r.c r.k then .waitFence else .run,
          pc := (s.eng e).pc + 8 }) ∧
    (e < 2048 → (s.eng e).act = .waitFence → s.mayResume e = true → s.run e = some r →
      s.itemCopies e r.c r.k = false → s.itemNets e r.c r.k = false →
      ∃ t, exec (.cfenceMet e) s = .next t ∧ OnlyEngine s t e ∧ t.eng e = { s.eng e with act := .run })

/-! ## Network operations (R97, R266, R308 to R316) -/

/-- NPUT, NGET and NFLAG that pass their checks, with a place among the engine's 16 operations: one operation hangs on
the engine with the spans, destination and flags of its descriptor, and its packets are injected: a WRITE for each
4,096 bytes of an NPUT, the last as WRITE_LAST, a READ for each 4,096 bytes of an NGET, one packet of an NFLAG. An NGET
of no byte raises its flag at issue. (Model's choice: operations of length zero: log entry 19.) -/
def Obligations.NetworkIssue : Prop :=
  ∀ (s : State) (e : Nat) (f : Fields) (r : Run), f.b = 0 → f.c = 0 → f.imm = 0 → f.d < 48 → r.d.net = true →
    r.d.reexec = false → ((s.eng e).gr f.a).toNat + 32 ≤ 0x60000 → (s.eng e).netCount < 16 →
    (∀ o ∈ (s.eng e).nets, o.id ≠ (s.eng e).nextNet) →
    let b := s.lsRead e ((s.eng e).gr f.a).toNat 32
    let d := netDesc b
    d.dest < 2 ^ 17 → d.tgtEngine < 2048 → (d.tgtFlag < 48 ∨ d.tgtFlag = 255) → fieldAt b 0x1E 2 = 0 →
    let hung (t : State) (o : NetOp) : Prop :=
      SameStores s t ∧ SameFlags s t ∧ (t.eng e).nets = (s.eng e).nets ++ [o] ∧ (t.eng e).pc = (s.eng e).pc + 8 ∧
      (t.eng e).act = .run ∧ t.ctxs = s.ctxs ∧ t.courses = s.courses ∧ o.flag = f.d.toNat ∧
      o.flagEngine = s.flagEngine e ∧ o.dest = d.dest ∧ o.tc = d.tc ∧ o.live = true ∧ o.step = none
    let target (o : NetOp) : Prop := o.tgtEngine = d.tgtEngine ∧ o.tgtFlag = if d.tgtFlag = 255 then 63 else d.tgtFlag
    let packet (p : Packet) : Prop :=
      p.dest.toNat = d.dest ∧ p.tc.toNat = d.tc ∧ p.sdie.toNat = e / 512 ∧ p.src = s.cfg.slice.nodeId ∧ p.ctx.toNat = r.d.ctx % 1024
    let names (p : Packet) : Prop :=
      p.tgtEngine.toNat = d.tgtEngine ∧ p.tgtFlag.toNat = if d.tgtFlag = 255 then 63 else d.tgtFlag
    (Issues s e 0x80 f r → fieldAt b 0x1C 2 = 0 → (d.tc = 1 ∨ d.tc = 2 ∨ d.tc = 3 ∨ (d.tc = 5 ∧ d.len ≤ 4096)) →
      r.d.eval = false → ∀ loc a, (d.len ≠ 0 → s.operand r false d.local_ d.len = .ok loc) →
      remoteAddr d.remote = some a →
      ∃ t o, exec (.nput e f) s = .next t ∧ hung t o ∧ target o ∧ o.kind = .put ∧ o.len = d.len ∧ o.remote = a ∧
        (d.len ≠ 0 → o.loc = loc) ∧
        let k := max 1 ((d.len + 4095) / 4096)
        ∀ i < k, Sends t fun p => packet p ∧ names p ∧ p.opc = (if i = k - 1 then 0x11 else 0x10) ∧
          p.addr = a + BitVec.ofNat 48 (4096 * i) ∧ p.len.toNat = min 4096 (d.len - 4096 * i) ∧
          (d.len ≠ 0 → (∀ x ∈ s.engines, x.2.copies = []) →
            p.payload = ((s.readLoc loc d.len).drop (4096 * i)).take 4096)) ∧
    (Issues s e 0x81 f r → fieldAt b 0x1C 2 = 0 → (d.tc = 1 ∨ d.tc = 2 ∨ d.tc = 3) →
      (d.len = 0 → s.courseAwake (s.flagEngine e / 32) = true → ∃ t, exec (.nget e f) s = .next t ∧ SameStores s t ∧
        (t.eng e).nets = (s.eng e).nets ∧ (t.eng e).pc = (s.eng e).pc + 8 ∧
        ∀ e' f', t.flagVal e' f' =
          if e' = s.flagEngine e ∧ f' = f.d.toNat then s.flagVal e' f' + 1 else s.flagVal e' f') ∧
      (d.len ≠ 0 → ∀ loc a, s.operand r true d.local_ d.len = .ok loc → remoteAddr d.remote = some a →
        ∃ t o, exec (.nget e f) s = .next t ∧ hung t o ∧ o.kind = .get ∧ o.loc = loc ∧ o.remote = a ∧
          o.parts.map (fun g => (g.off, g.len)) =
            (List.range ((d.len + 4095) / 4096)).map (fun i => (4096 * i, min 4096 (d.len - 4096 * i))) ∧
          ∀ i < (d.len + 4095) / 4096, Sends t fun p => packet p ∧ p.opc = 0x12 ∧
            p.addr = a + BitVec.ofNat 48 (4096 * i) ∧ p.arg.toNat = min 4096 (d.len - 4096 * i))) ∧
    (Issues s e 0x82 f r → d.local_ = 0 → d.remote = 0 → d.len = 0 →
      (d.tc = 1 ∨ d.tc = 2 ∨ d.tc = 3 ∨ d.tc = 5) →
      ∃ t o, exec (.nflag e f) s = .next t ∧ hung t o ∧ target o ∧ o.kind = .flag ∧ o.amount = fieldAt b 0x1C 2 ∧
        Sends t fun p => packet p ∧ names p ∧ p.opc = 0x14 ∧ p.payload = [] ∧ p.arg.toNat = fieldAt b 0x1C 2)

/-- NSTEP: a step without WAIT_EN is sent at issue; one whose condition does not hold waits; one whose condition holds
subtracts WAIT_COUNT and goes on: its packets, STEP_DATA or PLAN_DATA and a last one, are injected. NSTEP_WAIT_MET does
the same for a step that waited. A step without SEND_EN completes when its wait is met. PROGRESS_TIMEOUT comes at the
PROGRESS_US of the launch of the step's item; it subtracts nothing, halts the partition and records its cause. (Model's
choice: the port and peer that a timeout names: log entry 19.) -/
def Obligations.Steps : Prop :=
  ∀ (s : State) (e : Nat),
    let flags (o : NetOp) (w : StepWait) (t : State) : Prop := ∀ e' f', t.flagVal e' f' =
      let v := if e' = o.flagEngine ∧ f' = w.waitFlag then s.flagVal e' f' - BitVec.ofNat 32 w.waitCount
        else s.flagVal e' f'
      if w.sendEn = false ∧ o.live = true ∧ e' = o.flagEngine ∧ f' = o.flag then v + 1 else v
    let injects (o : NetOp) (w : StepWait) (t : State) : Prop :=
      let k := max 1 ((o.len + 4095) / 4096)
      ∀ i < k, Sends t fun p => p.dest.toNat = o.dest % 2 ^ 17 ∧ p.tc.toNat = o.tc % 8 ∧
        p.opc = (if w.plan then (if i = k - 1 then 0x33 else 0x32) else if i = k - 1 then 0x31 else 0x30) ∧
        p.addr = o.remote + BitVec.ofNat 48 (4096 * i) ∧ p.tgtEngine.toNat = o.tgtEngine % 2048 ∧
        p.tgtFlag.toNat = o.tgtFlag % 64 ∧
        (o.len ≠ 0 → (∀ x ∈ s.engines, x.2.copies = []) →
          p.payload = ((s.readLoc o.loc o.len).drop (4096 * i)).take 4096)
    (∀ (f : Fields) (r : Run) (h : HodSlot), Issues s e 0x83 f r → s.hodSlot r.c r.k = some h → f.b = 0 → f.c = 0 →
      f.imm = 0 → f.d < 48 → r.d.net = true → r.d.reexec = false → ((s.eng e).gr f.a).toNat + 32 ≤ 0x60000 → (s.eng e).netCount < 16 →
      (∀ o ∈ (s.eng e).nets, o.id ≠ (s.eng e).nextNet) →
      let b := s.lsRead e ((s.eng e).gr f.a).toNat 32
      let d := netDesc b
      let ctl := fieldAt b 0x1E 1
      let w : StepWait :=
        { waitEn := bit ctl 0, waitFlag := fieldAt b 0x1C 1, waitCount := fieldAt b 0x1D 1, met := false,
          sendEn := bit ctl 1, fence := bit ctl 2, plan := bit ctl 3, planEnd := bit ctl 4, peer := d.dest, timer := 0,
          limit := h.limit }
      d.dest < 2 ^ 17 → d.tgtEngine < 2048 → (d.tgtFlag < 48 ∨ d.tgtFlag = 255) → bits ctl 7 5 = 0 →
      fieldAt b 0x1F 1 = 0 → d.tc = 1 → (w.waitEn = true ∨ w.sendEn = true) → w.waitFlag ≤ 47 →
      (w.plan = true → d.dest = 0 ∧ d.local_ = 0 ∧ d.remote = 0) →
      ∀ loc a len node, s.stepSpan r d w = .ok (loc, a, len, node) →
      let hung (t : State) (o : NetOp) : Prop :=
        SameStores s t ∧ (t.eng e).nets = (s.eng e).nets ++ [o] ∧ (t.eng e).pc = (s.eng e).pc + 8 ∧
        (t.eng e).act = .run ∧ o.flag = f.d.toNat ∧ o.flagEngine = s.flagEngine e ∧ o.dest = node ∧ o.loc = loc ∧
        o.remote = a ∧ o.len = len ∧ o.live = true ∧ o.tgtEngine = d.tgtEngine ∧
        o.tgtFlag = (if d.tgtFlag = 255 then 63 else d.tgtFlag) ∧ o.tc = 1 ∧
        (t.part r.part).planLock = ((s.part r.part).planLock || w.plan)
      (w.waitEn = false → ∃ t o, exec (.nstep e f) s = .next t ∧ hung t o ∧ SameFlags s t ∧ o.sent = true ∧
        o.step = some w ∧ injects o w t) ∧
      (w.waitEn = true → (s.flagLeft (s.flagEngine e) w.waitFlag).toNat < w.waitCount →
        ∃ t o, exec (.nstep e f) s = .next t ∧ hung t o ∧ SameFlags s t ∧ t.rte = s.rte ∧ o.sent = false ∧
          o.step = some w) ∧
      (w.waitEn = true → w.waitCount ≤ (s.flagLeft (s.flagEngine e) w.waitFlag).toNat → w.sendEn = true →
        (∀ o ∈ (s.eng e).nets, o.step = none) →
        (∀ x ∈ s.engines, s.flagEngine x.1 = s.flagEngine e → ∀ g v k, x.2.act ≠ .waitFlag g v k) →
        s.courseAwake (s.flagEngine e / 32) = true →
        ∃ t o, exec (.nstep e f) s = .next t ∧ hung t o ∧ flags o w t ∧ o.sent = true ∧
          o.step = some { w with met := true } ∧ injects o w t)) ∧
    (∀ (i : Nat) (o : NetOp) (w : StepWait), e < 2048 → s.live = true → s.stepAt e i = some (o, w) →
      s.netOp e o.id = some o → w.waitCount ≤ (s.flagLeft o.flagEngine w.waitFlag).toNat → s.stepTurn e i o w = true →
      s.courseAwake (o.flagEngine / 32) = true →
      ∃ t, exec (.nstepWaitMet e i) s = .next t ∧ SameStores s t ∧ flags o w t ∧
        (w.sendEn = true → { o with step := some { w with met := true }, sent := true } ∈ (t.eng e).nets ∧
          (o.tc = 1 → o.dest < 2 ^ 17 → injects o w t)) ∧
        (w.sendEn = false → (t.eng e).nets = (s.eng e).nets.filter (fun x => x.id ≠ o.id) ∧
          ∀ p, s.partOfEngine e = some p → (t.part p).steps = min ((s.part p).steps + 1) (2 ^ 64 - 1))) ∧
    (∀ (i p : Nat) (o : NetOp) (w : StepWait), e < 2048 → s.live = true → s.stepAt e i = some (o, w) →
      s.netOp e o.id = some o → s.partOfEngine e = some p → w.limit * 25 ≤ w.timer →
      (o.live = false ∨ s.runner e o.homeCourse o.slot = e) →
      ∃ t, exec (.progressTimeout e i) s = .next t ∧ SameStores s t ∧ SameFlags s t ∧ (t.part p).halted = true ∧
        (∀ x ∈ (t.eng e).nets, x.id ≠ o.id) ∧
        (t.part p).timerCount = min ((s.part p).timerCount + 1) 0xFFFFFFFF ∧
        ((s.part p).failValid = false → (t.part p).failValid = true ∧ (t.part p).failCause = 1 ∧
          (t.part p).failPort = (s.hopPort (e / 512) w.peer 1).getD 15 ∧ (t.part p).failEngine = e ∧
          (t.part p).failPeer = w.peer))

/-! ## Uncorrectable reads, slots, piers (R112 to R116, R202, R205 to R208, R364, R426) -/

/-- An uncorrectable line is counted and the first one recorded; then what R207 gives for the requester: an engine's
copy that reads the line stops ahead of it with its flag as it was, and its partition halts; a host read gets Completer
Abort and is logged; a scrub is recorded only; a cast send fails with PIER_UE; a ring fetch faults its context, a COPY
stops ahead of the line and faults its context, and a slot's result write ends its slot without DONE, each halting the
partition without an engine. A network operation, a SPAWND and a FINISH halt their partition; a remote request is
answered DATA_ERROR; the merge read of a BAR4 write is recorded; the holder of a cast answers DATA_ERROR, and ends a
stream that it serves with ARG 1 after the messages before the line; the digest check of a restoring module fails its
attempt; a corrected read counts. An uncorrectable course-store word halts the partition of the copy, the network
operation, the instruction fetch, the instruction or the restart of an item that meets it; corrected ones are counted.
A request of the module to itself that it holds, as it is tried again, fails with DATA_ERROR too. (Model's choice: the
KIND values, what a command of this kind carries, and that a restart may meet the word before or after its engine has
chosen: log entry 27.) -/
def Obligations.UncorrectableReads : Prop :=
  ∀ (s : State),
    (∀ (p loc : Nat), p < 32 → s.pierLive p = true →
      let recorded (kind e : Nat) (t : State) : Prop :=
        (∀ j, j ≠ p → t.pier j = s.pier j) ∧
        t.pier p = { s.pier p with
          ue := min ((s.pier p).ue + 1) 0xFFFFFFFF, ueValid := true,
          ueLocal := if (s.pier p).ueValid then (s.pier p).ueLocal else loc / 64 * 64,
          ueKind := if (s.pier p).ueValid then (s.pier p).ueKind else kind,
          ueEngine := if (s.pier p).ueValid then (s.pier p).ueEngine else e }
      (∀ e i q o n done, e < 2048 → s.live = true → s.copyOp e i = some o → o.reset = false → s.partOfEngine e = some q →
        (o.live = false ∨ s.runner e o.homeCourse o.slot = e) → s.copyBound o p loc = some n →
        ∃ t, exec (.pierUncorrectableRead (.engineCopy e i done) p loc) s = .next t ∧ recorded 0 e t ∧
          SameFlags s t ∧ (t.eng e).copies.length + 1 = (s.eng e).copies.length ∧ (t.part q).halted = true ∧
          (done = 0 → SameStores s t) ∧
          (o.plinth = none → o.srcSnap = s.gather (segReads o.segs) → o.dstSnap = s.gather (segWrites o.segs) →
            SameStores ((takeOut (min done n) (o.segs.map fun g => (g.dst, s.readLoc g.src g.len))).foldl
              (fun u w => u.writeLoc w.1 w.2) s) t)) ∧
      (∀ e i o, e < 2048 → s.copyOp e i = some o → s.copyBound o p loc = none →
        ∀ done, exec (.pierUncorrectableRead (.engineCopy e i done) p loc) s = .next s) ∧
      (∀ h, h < 2 → (s.host h).perst = false →
        ∃ t, exec (.pierUncorrectableRead (.hostRead h) p loc) s = .next t ∧ recorded (2 + h) 0 t ∧
          t = { s with piers := t.piers, hosts := t.hosts, freeCtr := t.freeCtr, out := s.out ++ [.bar4 h none] } ∧
          t.host h = { s.host h with space := (t.host h).space } ∧
          (t.host h).space.aerStatus = (s.host h).space.aerStatus ||| 0x8000 ∧
          (t.host h).space.errSta = (s.host h).space.errSta ||| 0x0800) ∧
      (∀ q n cmd k m done, q < 8 → s.live = true → (s.part q).resetBusy = false → (s.ctx n).faultValid = false →
        cmdKind cmd.bytes = 1 → s.copyCheck q cmd.bytes = .ok k → (k.dir = 0 ∨ s.hostUsable (s.hostOf q) = true) →
        s.lineOffset p loc (k.dir = 0) 0 [(k.target, k.len)] = some m →
        (s.part q).carrying = some { ctx := n, cmd := cmd, copy := if k.dir = 0 then some k else none } →
        ∃ t, exec (.pierUncorrectableRead (.copyCommand q done) p loc) s = .next t ∧ recorded (2 + s.hostOf q) 0 t ∧
          (t.ctx n).faultValid = true ∧ (t.ctx n).faultCode = 8 ∧ (t.ctx n).head = (s.ctx n).head ∧
          (t.part q).carrying = none ∧ (t.part q).halted = true ∧ (k.dir ≠ 0 → SameStores s t) ∧
          t.out = if k.dir = 0 then s.out else s.out ++
            (chunks (s.host (s.hostOf q)).mps (s.readLoc k.target (min done m))).zipIdx.map fun (b, i) =>
              .hostWrite (s.hostOf q) (k.host + BitVec.ofNat 64 (i * (s.host (s.hostOf q)).mps)) b (s.host (s.hostOf q)).ro) ∧
      (∃ t, exec (.pierUncorrectableRead .scrub p loc) s = .next t ∧ recorded 5 0 t ∧
        t = { s with piers := t.piers }) ∧
      (s.ckp.st = 1 → ∃ t, exec (.pierUncorrectableRead .castSend p loc) s = .next t ∧ recorded 4 0 t ∧
        t = { s with piers := t.piers, ckp := t.ckp } ∧ t.ckp.st = 5 ∧ t.ckp.code = 6) ∧
      (∀ q n, q < 8 → s.live = true → s.castHeld = false → (s.part q).carrying = none → (s.part q).resetBusy = false →
        s.chooseCtx q = some n → (s.ctx n).inPier = true → (s.ctx n).held = [] → (s.ctx n).faultValid = false →
        ∃ t, exec (.pierUncorrectableRead (.ringFetch q) p loc) s = .next t ∧ recorded (2 + s.hostOf q) 0 t ∧
          t = { s with piers := t.piers, ctxs := t.ctxs, parts := t.parts } ∧ (t.ctx n).faultValid = true ∧
          (t.ctx n).faultCode = 8 ∧ (t.ctx n).faultEngine = 0 ∧ (t.part q).halted = true ∧
          ((s.part q).halted = false → (t.part q).haltNoEngine = true ∧ (t.part q).haltCause = 8)) ∧
      (∀ c r q x n done, c < 64 → r < 32 → s.live = true → s.rslot c r = some x → x.count ≤ x.combined →
        s.partOfCourse c = some q → s.lineOffset p loc true 0 [(x.dest, (laneBytes x.result).length)] = some n →
        ∃ t, exec (.pierUncorrectableRead (.slotResult c r done) p loc) s = .next t ∧ t.rslot c r = none ∧
          SameFlags s t ∧ SameStores (s.writeLoc x.dest ((laneBytes x.result).take (min (128 * done) n))) t ∧
          (t.pier p).ue = min ((s.pier p).ue + 1) 0xFFFFFFFF ∧ (t.part q).halted = true ∧
          ((s.part q).halted = false → (t.part q).haltNoEngine = true ∧ (t.part q).haltCause = 8)) ∧
      (∀ e i q o n, e < 2048 → s.live = true → (s.eng e).nets[i]? = some o → s.netOp e o.id = some o → o.reset = false →
        s.partOfEngine e = some q → (o.live = false ∨ s.runner e o.homeCourse o.slot = e) →
        s.lineOffset p loc (o.kind == .get) 0 [(o.loc, o.len)] = some n →
        ∃ t, exec (.pierUncorrectableRead (.network e i) p loc) s = .next t ∧ recorded 0 e t ∧ SameStores s t ∧
          SameFlags s t ∧ (∀ x ∈ (t.eng e).nets, x.id ≠ o.id) ∧ (t.part q).halted = true ∧
          ((s.part q).halted = false → (t.part q).haltCause = 8)) ∧
      (∀ e done r b l n plan, e < 2048 → s.carries e = some (r, 0x71, (s.eng e).pc) →
        s.spawndBytes r (s.eng e).pc = some b → s.spawndReads r b = some (l, n, plan) →
        let faulted (t : State) : Prop := recorded 0 e t ∧ (t.part r.part).halted = true ∧ (t.eng e).item = (s.eng e).item ∧
          ((s.eng e).faultValid = false → (t.eng e).faultCode = 8 ∧ (t.eng e).faultOpc = 0x71)
        ((s.lineOffset p loc false 0 [(l, n)]).isSome = true →
          ∃ t, exec (.pierUncorrectableRead (.spawnList e done) p loc) s = .next t ∧ faulted t ∧ SameStores s t) ∧
        (∀ k i, s.lineOffset p loc false 0 [(l, n)] = none → plan = some k →
          (k.seqs.findIdx? fun x => (s.lineOffset p loc false 0 (x.2.2.map fun (off, m) => (l.add off, 8 * m))).isSome) =
            some i →
          ∃ t, exec (.pierUncorrectableRead (.spawnList e done) p loc) s = .next t ∧ faulted t ∧
            SameStores (s.planRecords (dispatchDesc b) l k (min done i)) t)) ∧
      (∀ e r pc before x after, e < 2048 → s.carries e = some (r, 0x73, pc) → s.finishes e r = true →
        (s.eng e).flushes = before ++ x :: after → (s.lineOffset p loc false 0 [(x.1, 8)]).isSome = true →
        (∀ y ∈ before, s.lineOffset p loc false 0 [(y.1, 8)] = none) →
        ∃ t, exec (.pierUncorrectableRead (.flush e) p loc) s = .next t ∧ recorded 0 e t ∧ (t.part r.part).halted = true ∧
          (t.eng e).item = (s.eng e).item ∧
          SameStores (before.foldl (fun u y => u.writeLoc y.1 (leBytes 8 (leNat (u.readLoc y.1 8) + y.2))) s) t ∧
          ((s.eng e).faultValid = false → (t.eng e).faultCode = 8 ∧ (t.eng e).faultOpc = 0x73)) ∧
      (∀ d q r l, NextIn s d q r → q.opc ∈ [0x10, 0x11, 0x12, 0x30, 0x31, 0x32, 0x33] →
        s.reqCheck q (if q.opc = 0x12 then q.arg.toNat else q.len.toNat) (q.opc ≠ 0x12) (bareReq q)
          (q.opc = 0x32 ∨ q.opc = 0x33) = .ok l →
        ∃ t, exec (.pierUncorrectableRead (.remote d q) p loc) s = .next t ∧ recorded 1 0 t ∧ SameStores s t ∧
          SameFlags s t ∧ Advanced s t d q r 0 ∧ Sends t fun x => x.opc = 0xF1 ∧ x.arg = 2 ∧ x.dest = q.src) ∧
      (∀ d q l e id o part k, d < 4 → s.live = true → s.localHead q.sdie.toNat q.tc.toNat = some l → l.refusals ≠ 0 →
        samePkt l.pkt q = true → q.opc ∈ [0x10, 0x11, 0x12, 0x30, 0x31, 0x32, 0x33] → l.op = .engine e id →
        s.netOp e id = some o → o.reset = false → s.partOfEngine e = some part →
        (o.live = false ∨ s.runner e o.homeCourse o.slot = e) →
        s.reqCheck q (if q.opc = 0x12 then q.arg.toNat else q.len.toNat) (q.opc ≠ 0x12) (bareReq q)
          (q.opc = 0x32 ∨ q.opc = 0x33) = .ok k →
        ∃ t, exec (.pierUncorrectableRead (.remote d q) p loc) s = .next t ∧ recorded 1 0 t ∧ SameStores s t ∧
          SameFlags s t ∧ (∀ x ∈ (t.eng e).nets, x.id ≠ id) ∧ (t.part part).halted = true ∧
          ((s.part part).halted = false → (t.part part).haltCause = 8)) ∧
      (∀ h, h < 2 → (s.host h).perst = false →
        ∃ t, exec (.pierUncorrectableRead (.hostWrite h) p loc) s = .next t ∧ recorded (2 + h) 0 t ∧
          t = { s with piers := t.piers }) ∧
      (∀ d q r h a m n, NextIn s d q r → q.opc = 0x43 → s.heldSender q = true →
        s.serveHalf (fieldAt (pktPayload q) 0 8) (fieldAt (pktPayload q) 8 1 ≠ 0) = some h → s.halfAt h = some (a, m) →
        s.lineOffset p loc false 0 ((streamParts a (s.readPier a metaBytes)).map fun x => (.pier x.2.2.1, x.2.2.2)) =
          some n →
        ∃ t, exec (.pierUncorrectableRead (.castHolder d q) p loc) s = .next t ∧ recorded 4 0 t ∧ SameStores s t ∧
          SameFlags s t ∧ Advanced s t d q r (r.ackDue + 1) ∧
          t.ckp = { s.ckp with streams := s.ckp.streams + 1, servedHalf := some h } ∧
          (∀ j < 256, 4096 * (j + 1) ≤ n → Sends t fun x => x.opc = 0x45 ∧ x.dest = q.src ∧
            x.addr = BitVec.ofNat 48 (4096 * j) ∧ x.payload = ((s.readPier a metaBytes).drop (4096 * j)).take 4096) ∧
          Sends t fun x => x.opc = 0x46 ∧ x.arg = 1 ∧ x.dest = q.src) ∧
      (∀ d q r, NextIn s d q r → (q.opc = 0x41 ∨ q.opc = 0x42 ∨ q.opc = 0x47) → s.heldSender q = true →
        ∃ t, exec (.pierUncorrectableRead (.castHeld d q) p loc) s = .next t ∧ recorded 4 0 t ∧ SameStores s t ∧
          SameFlags s t ∧ Advanced s t d q r 0 ∧ Sends t (fun x => x.opc = 0xF1 ∧ x.arg = 2 ∧ x.dest = q.src) ∧
          t.ckp = if q.opc = 0x42 then { s.ckp with receiving := none } else s.ckp) ∧
      (∀ i x, s.ckp.st = 3 → s.ckp.restoring = some x → x.metaOk = true → i ∈ x.written →
        ∃ t, exec (.pierUncorrectableRead (.castVerify i) p loc) s = .next t ∧ recorded 4 0 t ∧ SameStores s t ∧
          SameFlags s t ∧
          (x.attempt < 2 → t.ckp.st = 3 ∧ t.ckp.fallback = true ∧ t.ckp.restoring = some x.again) ∧
          (2 ≤ x.attempt → t.ckp.st = 5 ∧ t.ckp.code = 8 ∧ t.ckp.restoring = none)) ∧
      (∀ l, l < 12 →
        ∃ t, exec (.pierUncorrectableRead (.corrected l) p loc) s = .next t ∧ t = { s with piers := t.piers } ∧
          (∀ j, j ≠ p → t.pier j = s.pier j) ∧
          t.pier p = { s.pier p with ce := min ((s.pier p).ce + 1) (2 ^ 64 - 1), layerCe := (t.pier p).layerCe } ∧
          ∀ j, Tab.get 0 (t.pier p).layerCe j =
            if j = l then min (Tab.get 0 (s.pier p).layerCe l + 1) 0xFFFFFFFF else Tab.get 0 (s.pier p).layerCe j)) ∧
    (∀ e i q o c off n done, e < 2048 → c < 64 → s.live = true → s.copyOp e i = some o → o.reset = false →
      s.partOfEngine e = some q → (o.live = false ∨ s.runner e o.homeCourse o.slot = e) →
      o.wordBound (.cs c off) = some n →
      ∃ t, exec (.courseStoreUncorrectableRead (.copy e i done c off)) s = .next t ∧ SameFlags s t ∧
        (done = 0 → SameStores s t) ∧
        (o.plinth = none → o.srcSnap = s.gather (segReads o.segs) → o.dstSnap = s.gather (segWrites o.segs) →
          SameStores ((takeOut (min done n) (o.segs.map fun g => (g.dst, s.readLoc g.src g.len))).foldl
            (fun u w => u.writeLoc w.1 w.2) s) t) ∧
        (t.eng e).copies.length + 1 = (s.eng e).copies.length ∧ (t.part q).halted = true ∧
        ((s.eng e).faultValid = false → (t.eng e).faultCode = 9 ∧
          (t.eng e).faultAddr = BitVec.ofNat 64 (2 ^ 62 + 2 ^ 48 * c + off)) ∧
        ((s.part q).halted = false → (t.part q).haltCause = 9)) ∧
    (∀ e r, e < 2048 → s.mayIssue e = true → s.run e = some r → (s.eng e).pc % 8 = 0 → (s.eng e).pc + 8 ≤ 0x3E0000 →
      exec (.courseStoreUncorrectableRead (.fetch e)) s =
        .next (s.itemFault e 9 0 (s.eng e).pc (BitVec.ofNat 64 (s.eng e).pc)) ∧
      ∃ t, exec (.courseStoreUncorrectableRead (.fetch e)) s = .next t ∧ (t.part r.part).halted = true) ∧
    (∀ c n, c < 64 → s.live = true →
      ∃ t, exec (.courseStoreUncorrectableRead (.corrected c n)) s = .next t ∧ t = { s with courses := t.courses } ∧
        (∀ j, j ≠ c → t.crs j = s.crs j) ∧
        t.crs c = { s.crs c with csEcc := min ((s.crs c).csEcc + n) 0xFFFFFFFF }) ∧
    (∀ e i q o c a off, e < 2048 → c < 64 → s.live = true → (s.eng e).nets[i]? = some o → s.netOp e o.id = some o →
      o.kind ≠ .get → o.loc = .cs c a → a ≤ off → off < a + o.len → o.reset = false → s.partOfEngine e = some q →
      (o.live = false ∨ s.runner e o.homeCourse o.slot = e) →
      ∃ t, exec (.courseStoreUncorrectableRead (.net e i c off)) s = .next t ∧ SameStores s t ∧ SameFlags s t ∧
        (∀ x ∈ (t.eng e).nets, x.id ≠ o.id) ∧ (t.part q).halted = true ∧
        ((s.eng e).faultValid = false → (t.eng e).faultCode = 9 ∧
          (t.eng e).faultAddr = BitVec.ofNat 64 (2 ^ 62 + 2 ^ 48 * c + off)) ∧
        ((s.part q).halted = false → (t.part q).haltCause = 9)) ∧
    (∀ e r opc pc, e < 2048 → s.live = true → s.carries e = some (r, opc, pc) →
      (∀ y vs, opc = 0x73 → s.finishes e r = true → s.rslot r.c r.d.rslot = some y → (s.eng e).contrib = some vs →
        exec (.courseStoreUncorrectableRead (.access e)) s =
          .next (s.itemFault e 9 0x73 pc (BitVec.ofNat 64 y.bufOff))) ∧
      (∀ b c off n plan, opc = 0x71 → s.spawndBytes r pc = some b → s.spawndReads r b = some (.cs c off, n, plan) →
        exec (.courseStoreUncorrectableRead (.access e)) s = .next (s.itemFault e 9 0x71 pc (w64At b 0))) ∧
      ((s.mayIssue e = true → s.run e = some r ∧ (s.eng e).pc % 8 = 0 ∧ (s.eng e).pc + 8 ≤ 0x3E0000 ∧ pc = (s.eng e).pc ∧
          opc = BitVec.ofNat 8 (leNat (s.readLoc (.cs (e / 32) pc) 8) / 2 ^ 56)) ∧
        ((s.eng e).act = .finishing → s.run e = some r ∧ opc = 0x73 ∧ pc = (s.eng e).pc - 8))) ∧
    (∀ e r c k area, e < 2048 → s.live = true → s.mayIssue e = true → s.run e = some r → (s.eng e).resumed = true →
      (s.eng e).item = some (c, k) → area = s.readLoc (.cs c (0x3E0000 + 512 * k)) 512 →
      (s.eng e).pc = fieldAt area 0 8 → (s.eng e).g = savedRegs area →
      exec (.courseStoreUncorrectableRead (.resume e)) s =
        .next (s.itemFault e 9 0 0 (BitVec.ofNat 64 (0x3E0000 + 512 * k))) ∧
      ∃ t, exec (.courseStoreUncorrectableRead (.resume e)) s = .next t ∧ (t.part r.part).halted = true) ∧
    (∀ e x q, e < 2048 → s.live = true → (s.mayChoose e = true ∨ (s.seeks e = true ∧ s.haltedNow e = true)) → bestOf (Candidate.rank e) (s.ownItems e) = some x → x.h.saved ≠ none →
      s.partOfEngine e = some q →
      ∃ t, exec (.courseStoreUncorrectableRead (.resume e)) s = .next t ∧ SameStores s t ∧ SameFlags s t ∧
        t.courses = s.courses ∧ (t.eng e).item = (s.eng e).item ∧ (t.eng e).act = .idle ∧ (t.part q).halted = true ∧
        ((s.eng e).faultValid = false → (t.eng e).faultValid = true ∧ (t.eng e).faultCode = 9 ∧
          (t.eng e).faultAddr = BitVec.ofNat 64 (0x3E0000 + 512 * x.k)) ∧
        ((s.part q).halted = true → (s.part q).haltNoEngine = true ∨ e < (s.part q).haltEngine →
          (t.part q).haltCause = 9 ∧ (t.part q).haltEngine = e ∧ (t.part q).haltNoEngine = false) ∧
        ((s.ctx x.h.desc.ctx).faultValid = false → (t.ctx x.h.desc.ctx).faultValid = true ∧
          (t.ctx x.h.desc.ctx).faultCode = 9))

/-- A slot that retires is marked, and its engine waits for a spare or, with none free, is an orphan, and an LS_DEP item
that waits for it halts the partition; a check that fails retires the slot at once, its running item having met it, or
an operation of that item; a yielded REEXEC item keeps its slot, to be executed again; 1,000 corrected errors within a
second retire a slot, once a running item has left it, and those of a slot that is being replaced count only; the spare
takes the number, and a lost local store halts the partition with LS_LOST; each REPAIR record carries the map with the
oldest change that waits. Piers: a layer with 4,096 corrections is marked when none is; a scrub that corrects counts the
correction; the end of a pass counts it; a controller asleep for 20 hours is woken for a pass; above 85 °C the refresh
is doubled. (Model's choice: what a retirement command carries: log entry 27; that the lowest free spare is taken: log
entry 18.) -/
def Obligations.SlotsAndPierCare : Prop :=
  (∀ (s : State) (e : Nat), e < 2048 → s.live = true →
     let c := e / 32
     (∀ (cause : RetireCause) (n : Nat), s.engEnabled e = true → s.hasSlot e = true → (s.eng e).replacing = none →
       let now := (s.gen.time, n) :: (s.eng e).eccLog.filter fun y => s.gen.time < y.1 + 25000000
       let x := if cause = RetireCause.pendingCheck then s.eng e
         else { s.eng e with ecc := min ((s.eng e).ecc + n) 0xFFFFFFFF, eccLog := now }
       let dep : Prop := ∃ y ∈ s.courses, ∃ h ∈ y.2.hod, h.2.tie = some (some e) ∧ h.2.desc.lsDep = true
       (((cause = RetireCause.pendingCheck ∧ (s.eng e).checkMet = true) ∨
         (cause = .corrected n ∧ 1000 ≤ (now.map (·.2)).sum ∧ (s.eng e).item = none ∧ (s.eng e).reexecItem = none)) →
         ∃ t, exec (.slotRetire e cause) s = .next t ∧
           t = { s with engines := t.engines, courses := t.courses, parts := t.parts, ctxs := t.ctxs, sec := t.sec,
                        setNow := t.setNow } ∧
           (∀ e', e' ≠ e → t.eng e' = s.eng e') ∧ (∀ c', c' ≠ c → t.crs c' = s.crs c') ∧
           t.crs c = { s.crs c with phys := (t.crs c).phys } ∧
           (∀ k, Tab.get 0 (t.crs c).phys k = if k = (s.eng e).slot then 2 else Tab.get 0 (s.crs c).phys k) ∧
           t.sec = { s.sec with repairs := s.sec.repairs ++ [.slot c (s.eng e).slot] } ∧
           (s.freeSpares c = [] → (t.eng e).orphan = true ∧ (t.eng e).slot = 0x3F ∧
             (¬ dep → t.eng e = { x with orphan := true, slot := 0x3F, checkMet := false, retireDue := false, eccLog := [] } ∧
               t.parts = s.parts ∧ t.ctxs = s.ctxs) ∧
             (dep → ∀ p, s.partOfEngine e = some p → (t.part p).halted = true)) ∧
           (∀ k, (s.freeSpares c).head? = some k →
             t.eng e = { x with replacing := some k, retireDue := false, eccLog := [] } ∧ t.parts = s.parts ∧
               t.ctxs = s.ctxs)) ∧
       (cause = .corrected n → ((s.eng e).item ≠ none ∨ (s.eng e).reexecItem ≠ none ∨ (now.map (·.2)).sum < 1000) →
         ∃ t, exec (.slotRetire e cause) s = .next t ∧ OnlyEngine s t e ∧
           t.eng e = { x with retireDue := (s.eng e).retireDue || decide (1000 ≤ (now.map (·.2)).sum) })) ∧
     (∀ opc off, s.engEnabled e = true → s.hasSlot e = true → (s.eng e).replacing = none → s.mayIssue e = true →
       (s.eng e).item ≠ none → ∃ t, exec (.slotRetire e (.check opc off)) s = .next t ∧
         t = (s.checkFault e opc (s.eng e).pc (BitVec.ofNat 64 ((off.filter (· < 0x60000)).getD 0))).retire e ∧
         (t.eng e).check = min ((s.eng e).check + 1) 0xFFFFFFFF ∧ Tab.get 0 (t.crs c).phys (s.eng e).slot = 2) ∧
     (∀ off ck ik h, s.engEnabled e = true → s.hasSlot e = true → (s.eng e).replacing = none →
       (s.eng e).item = some (ck, ik) → s.hodSlot ck ik = some h → s.runner e ck ik = e →
       let met (t : State) : Prop :=
         SameFlags s t ∧ (t.eng e).check = min ((s.eng e).check + 1) 0xFFFFFFFF ∧
         Tab.get 0 (t.crs c).phys (s.eng e).slot = 2 ∧ (t.eng e).item = none ∧
         ((s.eng e).faultValid = false → (t.eng e).faultCode = 7 ∧ (t.eng e).faultAddr = BitVec.ofNat 64 off) ∧
         (h.desc.reexec = true → (t.eng e).reexecItem = some (ck, ik)) ∧
         (h.desc.reexec = false → ∀ p, s.partOfEngine e = some p → (t.part p).halted = true ∧
           ((s.part p).halted = false → (t.part p).haltCause = 7))
       (∀ i o done n, s.copyOp e i = some o → o.live = true → o.reset = false → o.homeCourse = ck → o.slot = ik →
         o.wordBound (.ls e off) = some n →
         ∃ t, exec (.slotRetire e (.copyCheck i done off)) s = .next t ∧ met t ∧ (done = 0 → SameStores s t) ∧
           (t.eng e).copies.length + 1 = (s.eng e).copies.length) ∧
       (∀ i o a, (s.eng e).nets[i]? = some o → s.netOp e o.id = some o → o.live = true → o.reset = false →
         o.homeCourse = ck → o.slot = ik → o.kind ≠ .get → o.loc = .ls e a → a ≤ off → off < a + o.len →
         ∃ t, exec (.slotRetire e (.netCheck i off)) s = .next t ∧ met t ∧ SameStores s t ∧
           ∀ x ∈ (t.eng e).nets, x.id ≠ o.id)) ∧
     (∀ i o done off n h v, s.engEnabled e = true → s.hasSlot e = true → (s.eng e).replacing = none →
       s.copyOp e i = some o → o.live = true → o.reset = false → o.wordBound (.ls e off) = some n →
       s.hodSlot o.homeCourse o.slot = some h → h.status = .yielded e → h.desc.reexec = true → h.saved = some v →
       v.failed = false → (s.eng e).item ≠ some (o.homeCourse, o.slot) →
       (s.eng e).reexecItem ≠ some (o.homeCourse, o.slot) →
       ((s.eng e).act = .run ∨ ((s.eng e).item = none ∧ (s.eng e).reexecItem = none)) →
       ∃ t, exec (.slotRetire e (.copyCheck i done off)) s = .next t ∧ SameFlags s t ∧ (done = 0 → SameStores s t) ∧
         (t.eng e).check = min ((s.eng e).check + 1) 0xFFFFFFFF ∧
         t.hodSlot o.homeCourse o.slot = some { h with saved := some { v with
           numstat := 0, contrib := none, flushes := [], spawns := [], itemCyc := 0, failed := true } }) ∧
     (∀ k n, s.engEnabled e = true → s.hasSlot e = true → (s.eng e).replacing = some k →
       ∃ t, exec (.slotRetire e (.corrected n)) s = .next t ∧ OnlyEngine s t e ∧
         t.eng e = { s.eng e with ecc := min ((s.eng e).ecc + n) 0xFFFFFFFF, eccLog := [] }) ∧
     (∀ k, (s.eng e).replacing = some k →
       let x := { s.eng e with slot := k, replacing := none, checkMet := false }
       (∃ u : State, exec (.spareTakeover e false) s = .next (u.choose e) ∧
         u = { s with engines := u.engines, courses := u.courses } ∧ u.eng e = x ∧
         Tab.get 0 (u.crs c).phys k = 0) ∧
       (∃ t, exec (.spareTakeover e true) s = .next t ∧
         t = { s with engines := t.engines, courses := t.courses, parts := t.parts, setNow := t.setNow } ∧
         (t.eng e).slot = k ∧
         (t.eng e).replacing = none ∧ (x.faultValid = false → (t.eng e).faultCode = 0x0A ∧ (t.eng e).faultValid = true) ∧
         ∀ p, s.partOfEngine e = some p → (t.part p).halted = true ∧
           ((s.part p).halted = false → (t.part p).haltCause = 0x0A ∧ (t.part p).haltEngine = e))) ∧
     (∀ seed k y later, s.masonUp = true → s.sec.seed = some seed → s.sec.repairs = y :: later → s.sec.fp.length = 16 →
       s.sec.freePlace = some k →
       ∃ t b, exec (.repairRecordWrite true) s = .next t ∧ t = { s with sec := t.sec } ∧
         t.sec.repairs = later ∧ Tab.find? t.sec.records k = some b ∧ recType b = 3 ∧
         (∀ b' ∈ t.sec.recs, recType b' = 3 → b' = b) ∧
         (∀ c' < 64, repairSlotsOf b c' = match y with
           | .slot i j => if c' = i then Tab.get 0 s.sec.repairSlots c' ||| BitVec.ofNat 34 (2 ^ j)
             else Tab.get 0 s.sec.repairSlots c'
           | .layer _ _ => Tab.get 0 s.sec.repairSlots c') ∧
         ∀ p < 32, (∀ l, Tab.find? s.sec.repairLayers p = some l → l < 12) → (∀ i l, y = .layer i l → l < 12) →
           repairLayerOf b p = match y with
             | .slot _ _ => Tab.find? s.sec.repairLayers p
             | .layer i l => if p = i then some l else Tab.find? s.sec.repairLayers p)) ∧
  (∀ (s : State) (p : Nat), p < 32 →
     (∀ l, l < 12 → s.pierLive p = true → (s.pier p).marked = false → 4096 ≤ Tab.get 0 (s.pier p).layerCe l →
       ∃ t, exec (.layerMark p l) s = .next t ∧ t = { s with piers := t.piers, sec := t.sec } ∧
         (∀ j, j ≠ p → t.pier j = s.pier j) ∧ t.pier p = { s.pier p with marked := true, markedLayer := l } ∧
         t.sec = { s.sec with repairs := s.sec.repairs ++ [.layer p l] }) ∧
     (∀ l, l < 12 → s.pierLive p = true → (s.pier p).marked = true → exec (.layerMark p l) s = .next s) ∧
     (∀ loc l, l < 12 → s.pierLive p = true → (s.dom (domMc (p / 2))).level < 2 →
       ∃ t, exec (.patrolScrub p loc (.corrected l)) s = .next t ∧ t = { s with piers := t.piers } ∧
         (∀ j, j ≠ p → t.pier j = s.pier j) ∧
         t.pier p = { s.pier p with ce := min ((s.pier p).ce + 1) (2 ^ 64 - 1), layerCe := (t.pier p).layerCe } ∧
         ∀ j, Tab.get 0 (t.pier p).layerCe j =
           if j = l then min (Tab.get 0 (s.pier p).layerCe l + 1) 0xFFFFFFFF else Tab.get 0 (s.pier p).layerCe j) ∧
     (∀ loc, s.pierLive p = true → (s.dom (domMc (p / 2))).level < 2 →
       ∃ t, exec (.patrolScrub p loc .passDone) s = .next t ∧ t = { s with piers := t.piers, mcs := t.mcs } ∧
         t.pier p = { s.pier p with passes := min ((s.pier p).passes + 1) 0xFFFF } ∧
         t.mc (p / 2) = { s.mc (p / 2) with scrub := (s.mc (p / 2)).scrub.erase p }) ∧
     (∀ m, m < 16 → s.pwr.seq = .on → s.frz.frozen = false → (s.dom (64 + m)).held = false → 2 ≤ (s.dom (64 + m)).level →
       20 * 3600 * 25000000 ≤ (s.dom (64 + m)).asleep → (s.dom (64 + m)).wakeReq = false →
       ∃ t, exec (.scrubWake m) s = .next t ∧ t = { s with mcs := t.mcs, doms := t.doms, pwr := t.pwr } ∧
         (t.dom (64 + m)).wakeReq = true ∧
         (t.mc m).scrub = [2 * m, 2 * m + 1].filter fun j => (s.pier j).trained) ∧
     (∀ temp : BitVec 8, s.pwr.seq = .on → s.frz.frozen = false → (s.pier p).fitted = true →
       ∃ t, exec (.pierHotRefresh p temp) s = .next t ∧ t = { s with piers := t.piers } ∧
         (∀ j, j ≠ p → t.pier j = s.pier j) ∧ t.pier p = { s.pier p with temp := temp, hot := decide (85 < temp.toNat) }))

/-! ## Power levels, the cap, telemetry (R359 to R370, R229, R459) -/

/-- Descent, entry, grants and exits of the clock domains; a grant instant goes through the eligible requests in arrival
order and grants each unless the module's or its die's limit is reached by then (R365); at a course's exit the changes held for it are made, and the
acknowledgements that wait for them may go. Power samples, whose greatest joins the peaks at the end of the cycle, the
throttle rules of R368, writes of PWR_CAP and telemetry. (Model's choice: the place of a deep grant in the queue: log
entry 22; what a cycle is: log entry 4.) -/
def Obligations.PowerLevelsAndCap : Prop :=
  (∀ (s : State) (d : Nat), d < 100 →
     (∀ n, s.domRuns d = true → (s.dom d).idle = some n → (s.dom d).wakeReq = false → (s.dom d).entering = none →
       s.domIdle d = true → (s.dom d).level < s.descentLevel d n →
       (s.descentLevel d n = 5 → 80 ≤ d ∧ d < 90 ∧ (s.port (d - 80)).st = .disabled) ∧
       (s.ready = false → s.descentLevel d n ≤ 2) ∧
       ∃ t, exec (.idleDescent d) s = .next t ∧ t = { s with doms := t.doms } ∧ (∀ k, k ≠ d → t.dom k = s.dom k) ∧
         t.dom d = { s.dom d with entering := some (s.descentLevel d n) }) ∧
     (∀ l, s.domRuns d = true → (s.dom d).entering = some l →
       ∃ t, exec (.levelEntryComplete d) s = .next t ∧ t = { s with doms := t.doms } ∧
         (∀ k, k ≠ d → t.dom k = s.dom k) ∧ t.dom d = { s.dom d with level := l, entering := none, mhz := 0 }) ∧
     (s.pwr.seq = .on → s.frz.frozen = false → ∃ t pick, exec .wakeGrantInstant s = .next t ∧
       let eligible := s.pwr.wakeQ.filter fun c => (s.dom c).wakeReq && (s.dom c).entering.isNone
       t = { s with doms := t.doms, pwr := t.pwr } ∧ List.Sublist pick eligible ∧ pick.length ≤ s.cfg.modPer ∧
       (∀ die, (pick.countP fun c => domDie c = die) ≤ s.cfg.diePer) ∧
       (∀ before c after, eligible = before ++ c :: after → c ∉ pick →
         s.cfg.modPer ≤ before.countP (fun x => pick.contains x) ∨
         s.cfg.diePer ≤ before.countP fun x => pick.contains x && domDie x = domDie c) ∧
       t.pwr.wakeQ = s.pwr.wakeQ.filter (fun c => !pick.contains c) ∧
       ∀ k, t.dom k = { s.dom k with granted := (s.dom k).granted || pick.contains k }) ∧
     (∀ die k, die < 4 → s.pwr.seq = .on → s.frz.frozen = false → Tab.get 0 s.pwr.deepAt die ≤ s.gen.time →
       s.pwr.deepQ.head? = some k → domDie k = die → (s.dom k).entering = none →
       ∃ t, exec (.deepGrant die) s = .next t ∧ t = { s with doms := t.doms, pwr := t.pwr } ∧
         t.pwr.deepQ = s.pwr.deepQ.tail ∧ Tab.get 0 t.pwr.deepAt die = s.gen.time + 25 * s.cfg.deepGap ∧
         (k < 64 → t.pwr.wakeQ = k :: s.pwr.wakeQ ∧ t.dom k = { s.dom k with deepGiven := true }) ∧
         (64 ≤ k → t.pwr.wakeQ = s.pwr.wakeQ ∧ t.dom k = { s.dom k with granted := true })) ∧
     (s.domRuns d = true → (s.dom d).wakeReq = true → (s.dom d).granted = true → (s.dom d).entering = none →
       ∃ t, exec (.domainExitComplete d) s = .next t ∧ SameStores s t ∧ (∀ k, k ≠ d → t.dom k = s.dom k) ∧
         (t.dom d).level = 0 ∧ (t.dom d).wakeReq = false ∧ (t.dom d).granted = false ∧
         (t.dom d).wakes = (if 2 ≤ (s.dom d).level then min ((s.dom d).wakes + 1) (2 ^ 64 - 1) else (s.dom d).wakes) ∧
         (64 ≤ d → t = { s with doms := t.doms }) ∧
         (d < 64 → (t.crs d).heldAdds = [] ∧ (t.crs d).heldSubs = [] ∧
           t.rte = { s.rte with recv := s.rte.recv.map fun r => { r with holds := r.holds.filter fun c => decide (c ≠ d) } } ∧
           (∀ e f, t.flagVal e f = s.flagVal e f +
             (((s.crs d).heldAdds.filter fun x => x.1 = e ∧ x.2.1 = f).map (·.2.2)).sum -
             (((s.crs d).heldSubs.filter fun x => x.1 = e ∧ x.2.1 = f).map (·.2.2)).sum) ∧
           ∀ e, if e / 32 = d ∧ 4 ≤ (s.dom d).level then
               (∀ q, (t.eng e).gr q = 0) ∧ (∀ q l, (t.eng e).lane q l = 0) ∧ (∀ b, ((t.eng e).buf b).k = 0) ∧
               (∀ a, (t.eng e).acc a = AccSet.clear) ∧ (t.eng e).pc = 0
             else t.eng e = { s.eng e with flags := (t.eng e).flags })) ∧
     (∀ p, p < 8 → s.pwr.seq = .on → s.frz.frozen = false →
       ∃ t, exec (.courseClockChange p) s = .next t ∧ t = { s with doms := t.doms } ∧
         ∀ k, t.dom k =
           if k < 64 ∧ s.partOfCourse k = some p ∧ (s.dom k).level ≤ 1 ∧ (s.dom k).held = false then
             let clk := s.cfg.courseClk.getD p 0
             { s.dom k with mhz := min (if clk = 0 then 16 else clk) s.pwr.ft * 50 }
           else s.dom k)) ∧
  (∀ (s : State),
     (∀ w, s.pwr.seq = .on → ∃ t, exec (.powerSample w) s = .next t ∧ t = { s with pwr := t.pwr } ∧
       t.pwr = { s.pwr with samples := (w :: s.pwr.samples).take 100, peakNow := max s.pwr.peakNow (w % 2 ^ 32) }) ∧
     (s.pwr.seq = .on → s.pwr.samples.length = 100 → s.pwr.ft ≤ 16 →
       let p1 := s.pwr.samples.headD 0
       let sum := s.pwr.samples.sum
       let unmet : Bool := decide (99 ≤ s.pwr.unmetTicks ∧ s.pwr.ft = 1 ∧ sum > 100 * s.pwr.capW)
       ∃ t, exec .throttleTick s = .next t ∧
         t = { s with pwr := t.pwr, setNow := s.setNow ++ (if unmet then [.capUnmet] else []) } ∧
         t.pwr.ft = (if p1 > s.pwr.capW + 400 then max 1 (s.pwr.ft - 4)
           else if sum > 100 * s.pwr.capW then max 1 (s.pwr.ft - 1)
           else if 100 * sum < 95 * (100 * s.pwr.capW) ∧ s.pwr.ft < 16 then s.pwr.ft + 1 else s.pwr.ft) ∧
         t.pwr.capW = s.pwr.capW ∧ t.pwr.samples = s.pwr.samples ∧
         t.pwr.capUnmet = (s.pwr.capUnmet || unmet)) ∧
     (∀ (r : Requester) (v : W32), s.writable = true → s.ownerOrBus r = true →
       ∃ t, exec (.pwrCapWrite r v) s = .next t ∧ t = { s with pwr := t.pwr, latches := t.latches } ∧
         t.pwr = { s.pwr with
           capW := if 800 ≤ v.toNat % 4096 ∧ v.toNat % 4096 ≤ 2400 then v.toNat % 4096 else s.pwr.capW }) ∧
     (∀ m : Telemetry, s.pwr.inputOn = true → ∃ t, exec (.telemetryUpdate m) s = .next t ∧ t = { s with pwr := t.pwr } ∧
       t.pwr = { s.pwr with vin := m.vin, iin := m.iin, pin := m.pin, rails := m.rails.take 10,
                            temps := m.temps.take 6, tempsValid := true }))

/-! ## Torus ports: the link layer (R255 to R261) and port states (R252, R253, R290 to R292) -/

/-- Codewords: one that cannot be corrected, or has more than 15 symbols in error, is counted and answered with a NAK;
one in order moves the expected CW_SEQ, and its flits, one after another, do what the commands of their kinds do. NAKs,
credits, heartbeats; an IDLE flit with FROZEN makes its port NBR_FROZEN, but for an optical port without light; every flit sent takes its place in the stream of codewords. (Model's choice: that an event needs
its occasion: log entry 3.) -/
def Obligations.LinkLayer : Prop :=
  ∀ (s : State) (p : Nat), p < 10 →
    let x := s.port p
    let only (t : State) : Prop := t = { s with ports := t.ports, out := t.out } ∧ ∀ j, j ≠ p → t.port j = s.port j
    (∀ cw : Codeword, s.linkOn p = true →
      let y := { x with fecCorr := min (x.fecCorr + cw.symbols) (2 ^ 64 - 1) }
      let z := { y with rxExpect := x.rxExpect + 1, rxDiscard := false,
                        rxFlits := min (x.rxFlits + (cw.flits.take 5).countP fun f => f.1 = 0 || f.1 = 1) (2 ^ 64 - 1) }
      (cw.correctable = false ∨ 15 < cw.symbols →
        let y := { x with fecUncorr := min (x.fecUncorr + 1) (2 ^ 64 - 1), rxDiscard := true }
        ∃ t, exec (.codewordReceive p cw) s = .next t ∧ only t ∧
          (Fits x 1 → FlitSent y (t.port p) ∧ t.out = s.out ++ [.nak p x.rxExpect]) ∧
          (¬ Fits x 1 → t.port p = y ∧ t.out = s.out)) ∧
      (cw.correctable = true → cw.symbols ≤ 15 → cw.seq ≠ x.rxExpect →
        exec (.codewordReceive p cw) s = .next (s.setPort p y)) ∧
      (cw.correctable = true → cw.symbols ≤ 15 → cw.seq = x.rxExpect →
        ((∀ f ∈ cw.flits.take 5, f.1 = 0 ∨ f.1 = 1) → exec (.codewordReceive p cw) s = .next (s.setPort p z)) ∧
        ∃ t, exec (.codewordReceive p cw) s = .next t ∧ FlitsDo p (cw.flits.take 5) (s.setPort p z) t)) ∧
    (∀ seq, s.linkOn p = true → ∃ t, exec (.nak p seq) s = .next t ∧ only t ∧
      let n := if 0 < x.nakCount ∧ x.nakSeq = seq then x.nakCount + 1 else 1
      if seq ∈ x.txHeld then
        t.out = s.out ++ [.replay p seq] ∧
          t.port p = { x with nakSeq := seq, nakCount := n, replay := min (x.replay + 1) (2 ^ 64 - 1) }
      else t.out = s.out ∧ t.port p = { x with nakSeq := seq, nakCount := n }) ∧
    (s.portsOn = true → x.st = .up → 8 ≤ x.nakCount → x.incoming = none → ∃ t, exec (.nakLimit p) s = .next t ∧
      t = { s with ports := t.ports, doms := t.doms, pwr := t.pwr } ∧ (∀ j, j ≠ p → t.port j = s.port j) ∧
      (t.port p).st = (if s.mayTrain p then .training else .down) ∧ (t.port p).queue = [] ∧ (t.port p).txHeld = [] ∧
      (t.port p).downDrop = min (x.downDrop + x.queue.length) (2 ^ 64 - 1) ∧
      (t.port p).downEvents = min (x.downEvents + 1) (2 ^ 64 - 1)) ∧
    (x.nakCount < 8 ∨ x.st ≠ .up → exec (.nakLimit p) s = .next s) ∧
    (∀ counts a, s.linkOn p = true → counts.length = 16 → ∃ t, exec (.credit p counts a) s = .next t ∧ only t ∧
      t.out = s.out ∧ (∀ v < 16, Tab.get 0 (t.port p).txFreed v = counts.getD v 0) ∧
      (∀ old rest, x.txHeld = old ++ a :: rest → a ∉ old → (t.port p).txHeld = rest ∧ (t.port p).nakCount = 0) ∧
      (a ∉ x.txHeld → (t.port p).txHeld = x.txHeld ∧ (t.port p).nakCount = x.nakCount)) ∧
    (s.portsOn = true → x.st = .up → Fits x 1 →
      let free (v : Nat) : BitVec 16 := Tab.get 0 x.rxCount v - BitVec.ofNat 16 (s.inputHeld p v)
      ∃ t, exec (.creditSend p) s = .next t ∧ only t ∧ FlitSent { x with rxTold := (t.port p).rxTold } (t.port p) ∧
        (∀ v < 16, Tab.get 0 (t.port p).rxTold v = free v) ∧
        t.out = s.out ++ [.credit p ((List.range 16).map free) (x.rxExpect - 1)]) ∧
    (∀ hb freeze frozen, s.portsOn = true → x.fitted = true → x.st ≠ .disabled → x.st ≠ .test →
      ∃ t, exec (.idle p hb freeze frozen) s = .next t ∧
        t = { s with ports := t.ports, frz := t.frz, doms := t.doms, pwr := t.pwr } ∧
        let stops : Prop := frozen = true ∧ (p < 4 ∨ x.light = true)
        (¬ stops → t.doms = s.doms ∧ t.pwr = s.pwr) ∧
        (stops → Woken s t (80 + p)) ∧
        (∀ j, j ≠ p → t.port j = s.port j) ∧
        t.port p = { x with hb := hb, hbAge := 0, hbMissing := false,
                            st := if frozen = true ∧ (p < 4 ∨ x.light = true) then .frozen else x.st } ∧
        t.frz = if freeze = true ∧ s.ready = true ∧ s.cfg.slice.freezeWave = true ∧ s.frz.frozen = false ∧
            (s.frz.latched = false ∨ s.frz.latchedAt = s.gen.time) then
          { s.frz with wave := true, port := if s.frz.wave then min s.frz.port p else p, latched := true,
                       latchedAt := s.gen.time }
          else s.frz) ∧
    (s.portsOn = true → (∀ j < 10, Fits (s.port j) 1) → ∃ t, exec .heartbeatTick s = .next t ∧
      t = { s with
        ports := t.ports, hbCount := s.hbCount + 1,
        out := s.out ++ ((List.range 10).filter fun j => (s.port j).st = .up).map fun j =>
          .idle j (s.hbCount + 1) false false } ∧
      ∀ j, if j < 10 ∧ (s.port j).st = .up then FlitSent (s.port j) (t.port j) else t.port j = s.port j) ∧
    (s.portsOn = true → x.fitted = true → 625 ≤ x.hbAge → ∃ t, exec (.hbMissing p) s = .next t ∧ only t ∧
      t.out = s.out ∧ t.port p = { x with hbMissing := true })

/-- Port states: what training, silence, a frozen neighbour, light and LNK_CTRL do. A port that goes DOWN discards its
queue and counts it, and retrains when it may train; one of which neither half trains stays DOWN; signals on the lanes
of a DOWN port wake its domain, and it trains when it may. (The packet it is
receiving, if any, is dropped; stated here for a port that receives none.) A bay's light feeds its two ports: without it
both read LIGHT 0 and are DOWN; when it returns, from a seated unit that has its 12 V, they retrain, or take up the test
that LNK_CTRL asks for. (Model's choice: the port states: log entry 24.) -/
def Obligations.PortStatesAndLight : Prop :=
  (∀ (s : State) (p : Nat), p < 10 → s.portsOn = true → (s.port p).fitted = true → (s.port p).incoming = none →
     let x := s.port p
     let only (t : State) : Prop :=
       t = { s with ports := t.ports, doms := t.doms, pwr := t.pwr, latches := t.latches } ∧
       ∀ j, j ≠ p → t.port j = s.port j
     let emptied (t : State) : Prop := (t.port p).queue = [] ∧ (t.port p).cut = [] ∧ (t.port p).txHeld = [] ∧
       (t.port p).downDrop = min (x.downDrop + x.queue.length) (2 ^ 64 - 1)
     let counted (t : State) : Prop :=
       (t.port p).downEvents = if x.st = .down then x.downEvents else min (x.downEvents + 1) (2 ^ 64 - 1)
     let downed (t : State) : Prop := (t.port p).st = (if s.mayTrain p then .training else .down) ∧ counted t
     (x.st = .up → ∃ t, exec (.linkSilenceTimeout p) s = .next t ∧ only t ∧ emptied t ∧ downed t) ∧
     (∀ got : Training, got ≠ .neither → s.mayTrain p = true → x.st = .training → (s.dom (80 + p)).level < 2 →
       (s.dom (80 + p)).entering = none →
       ∃ t, exec (.portTrained p got) s = .next t ∧ only t ∧
         t.port p = { x with st := .up, halfWidth := got == .half, nbrDead := false, nbrValid := false, nbr := none }) ∧
     (x.st = .training → ∃ t, exec (.portTrained p .neither) s = .next t ∧ only t ∧ emptied t ∧ counted t ∧
       (t.port p).st = .down) ∧
     (x.st = .down → s.mayTrain p = true → ∃ t, exec (.signalDetect p) s = .next t ∧ only t ∧
       t.port p = { x with st := .training } ∧ Woken s t (80 + p)) ∧
     (x.st = .down → s.mayTrain p = false → ∃ t, exec (.signalDetect p) s = .next t ∧ only t ∧ t.port p = x ∧
       Woken s t (80 + p)) ∧
     (x.st ≠ .up → x.st ≠ .frozen → 25000 ≤ x.hbAge → ∃ t, exec (.nbrDeadSet p) s = .next t ∧ only t ∧
       t.port p = { x with nbrDead := true }) ∧
     (x.st = .frozen →
       (∃ t, exec (.nbrTrainingDetect p) s = .next t ∧ only t ∧ emptied t ∧ (t.port p).st = .training) ∧
       (x.frzHold ≠ 0 → ∃ t, exec (.frozenHoldExpiry p) s = .next t ∧ only t ∧ emptied t ∧ downed t) ∧
       (x.frzHold = 0 → exec (.frozenHoldExpiry p) s = .next s)) ∧
     (∀ h v, h < 2 → s.writable = true → s.ownedBy h = true →
       (∀ c ∈ [Instr.retrain, Instr.disable, Instr.test], ∃ t, exec (c h p v) s = .next t ∧ only t ∧
         (t.port p).disableBit = v.getLsbD 1 ∧ (t.port p).testBit = v.getLsbD 2 ∧
         (v.getLsbD 1 = true → (t.port p).st = .disabled ∧ (x.st ≠ .disabled → emptied t)) ∧
         (v.getLsbD 1 = false → v.getLsbD 2 = true →
           ((x.st = .test ∨ p < 4 ∨ x.light = true) → (t.port p).st = .test ∧ (x.st ≠ .test → emptied t)) ∧
           (x.st ≠ .test → 4 ≤ p → x.light = false →
             (t.port p).st = if x.st = .disabled then .down else x.st)) ∧
         (v.getLsbD 1 = false → v.getLsbD 2 = false → v.getLsbD 0 = true → emptied t ∧
           (t.port p).st = (if p < 4 ∨ x.light = true then .training else .down) ∧
           (t.port p).downEvents = if x.st = .down then x.downEvents else min (x.downEvents + 1) (2 ^ 64 - 1)) ∧
         (v.getLsbD 1 = false → v.getLsbD 2 = false → v.getLsbD 0 = false → x.st ≠ .disabled → x.st ≠ .test →
           (t.port p).st = x.st ∧ (t.port p).queue = x.queue)))) ∧
  (∀ (s : State) (h p : Nat) (v : W32), p < 10 → h < 2 → s.writable = true → s.ownedBy h = true →
     (s.port p).fitted = false → ∀ c ∈ [Instr.retrain, Instr.disable, Instr.test], ∃ t, exec (c h p v) s = .next t ∧
       t = { s with ports := t.ports, latches := t.latches } ∧ (∀ j, j ≠ p → t.port j = s.port j) ∧
       t.port p = { s.port p with disableBit := v.getLsbD 1, testBit := v.getLsbD 2 }) ∧
  (∀ (s : State) (b : Nat), b < 3 → s.hasBays = true → s.portsOn = true →
     (∀ p ∈ bayPorts b, (s.port p).fitted = true ∧ (s.port p).st ≠ .disabled ∧ (s.port p).incoming = none) →
     (∃ t, exec (.lightLoss b) s = .next t ∧ t = { s with ports := t.ports } ∧
       (∀ p ∈ bayPorts b, (t.port p).st = .down ∧ (t.port p).light = false ∧ (t.port p).queue = []) ∧
       ∀ p, p ∉ bayPorts b → t.port p = s.port p) ∧
     (∃ t, exec (.laserUnitRemove b) s = .next t ∧ t = { s with ports := t.ports } ∧
       (∀ p ∈ bayPorts b, (t.port p).st = .down ∧ (t.port p).light = false ∧ (t.port p).lightUnit = false) ∧
       ∀ p, p ∉ bayPorts b → t.port p = s.port p) ∧
     (∃ t, exec (.laserUnitInsert b) s = .next t ∧ t = { s with ports := t.ports } ∧
       (∀ p, t.port p = if p ∈ bayPorts b then { s.port p with lightUnit := true } else s.port p)) ∧
     (s.pwr.inputOn = true →
       ∃ t, exec (.lightReturn b) s = .next t ∧ t = { s with ports := t.ports, doms := t.doms, pwr := t.pwr } ∧
       (∀ p ∈ bayPorts b, if (s.port p).lightUnit = true then (t.port p).light = true ∧
           (t.port p).st = (if (s.port p).st ≠ .down ∨ (s.port p).disableBit = true then (s.port p).st
             else if (s.port p).testBit = true then .test else .training) ∧
           ((s.port p).st = .down → (s.port p).disableBit = false → Woken s t (80 + p))
         else t.port p = s.port p) ∧
       ∀ p, p ∉ bayPorts b → t.port p = s.port p)) ∧
  (∀ (s : State) (b : Nat), b < 3 → s.pwr.inputOn = false ∨ (s.pwr.seq ≠ .on ∧ s.pwr.steps = 0) →
     exec (.lightReturn b) s = .next s)

/-! ## Routers (R257, R258, R260, R277 to R282, R288, R289, R293) -/

/-- A head: one with a bad HCRC, or that says more than 4,096 bytes, is dropped and counted, every other is looked up;
it ends the packet before it whose trailer has not come. A trailer: one that passes makes the packet whole, one that
does not takes it out of every place that waits for it; over mortar it follows its head to the next die and does there
the same. The stall bound, likewise. The age limit takes out one packet: of a queue, of mortar, or of what has arrived.
An output port sends the packet that arbitration chooses, with credits for all its flits: it leaves the queue, its flits
are counted on its channel, and its codewords are held. A class 5 packet that may go goes first; a sender whose
codewords would not fit among 512 unacknowledged ones does not start it. (Model's choice: a packet as a head and a
trailer command: log entry 7.) -/
def Obligations.RoutersAndOutputs : Prop :=
  (∀ (s : State) (d k : Nat) (p : Packet), d < 4 → k < 10 → ownerDie k = d →
     (s.linkOn k = true → (s.port k).incoming = none →
       (p.hcrc ≠ hcrcOf p → ∃ t, exec (.packetHeadArrival d (.port k) p) s = .next t ∧ t = { s with ports := t.ports } ∧
         (t.port k).hcrcBad = min ((s.port k).hcrcBad + 1) (2 ^ 64 - 1) ∧ (t.port k).dropBody = true ∧
         (t.port k).incoming = none ∧ ∀ j, (t.port j).queue = (s.port j).queue) ∧
       (p.hcrc = hcrcOf p → 4096 < p.len → ∃ t, exec (.packetHeadArrival d (.port k) p) s = .next t ∧
         t = { s with ports := t.ports } ∧ (t.port k).crcBad = min ((s.port k).crcBad + 1) (2 ^ 64 - 1) ∧
         (t.port k).dropBody = true ∧ (t.port k).incoming = none ∧ ∀ j, (t.port j).queue = (s.port j).queue) ∧
       (p.hcrc = hcrcOf p → p.len ≤ 4096 → ∃ t, exec (.packetHeadArrival d (.port k) p) s = .next t ∧
         t = { s with ports := t.ports, rte := t.rte } ∧ (t.port k).incoming = some p ∧
         (t.port k).incomingAt = s.gen.time ∧
         let vc := 2 * p.tc.toNat + (if p.dl then 1 else 0)
         Tab.get 0 (t.port k).rxCount vc =
           Tab.get 0 (s.port k).rxCount vc + BitVec.ofNat 16 (flitsOf p.payload.length) ∧
         Routed s t d p (axisOf k) 0 false (some (k, vc)))) ∧
     (∀ q, s.linkOn k = true → (s.port k).incoming = some q → ∃ v,
       TrailerFailed (s.setPort k { s.port k with
         incoming := none, stallDrop := min ((s.port k).stallDrop + 1) (2 ^ 64 - 1) }) v d q ∧
       exec (.packetHeadArrival d (.port k) p) s = exec (.packetHeadArrival d (.port k) p) v) ∧
     (∀ m, s.portsOn = true → s.rte.mortar.find? (fun x => x.die = d && samePkt x.pkt p) = some m →
       ∃ t, exec (.packetHeadArrival d .mortar p) s = .next t ∧ t = { s with ports := t.ports, rte := t.rte } ∧
         Routed { s with rte := { s.rte with mortar := s.rte.mortar.erase m } } t d m.pkt m.cls m.chan m.whole none) ∧
     (∀ q, s.linkOn k = true → (s.port k).incoming = some q → samePkt q p = true →
       ∃ t, exec (.packetTrailerArrival d (.port k) p) s = .next t ∧
         (trailerOk p = true → TrailerPassed (s.setPort k { s.port k with incoming := none }) t d p) ∧
         (trailerOk p = false → TrailerFailed (s.setPort k { s.port k with
           incoming := none,
           crcBad := if p.discard then (s.port k).crcBad else min ((s.port k).crcBad + 1) (2 ^ 64 - 1) }) t d p)) ∧
     (s.portsOn = true →
       let follows := s.rte.tails.find? fun y => y.die == d && y.passed && samePkt y.pkt p
       let behind := s.rte.crossing d p < s.rte.following d p
       (follows = none ∨ ¬ behind → exec (.packetTrailerArrival d .mortar p) s = .next s) ∧
       ∀ y, follows = some y → behind →
         let u : State := { s with rte := { s.rte with tails := s.rte.tails.erase y } }
         ∃ t, exec (.packetTrailerArrival d .mortar p) s = .next t ∧
           (y.bad = false → trailerOk p = true → TrailerPassed u t d p) ∧
           (y.bad = true ∨ trailerOk p = false → TrailerFailed u t d p)) ∧
     (s.gen.time < (s.port k).incomingAt + max 25 (s.port k).stall.toNat → exec (.stallTimeout k p) s = .next s) ∧
     (∀ q, s.portsOn = true → (s.port k).st = .up → (s.port k).incoming = some q → samePkt q p = true →
       (s.port k).incomingAt + max 25 (s.port k).stall.toNat ≤ s.gen.time →
       ∃ v, TrailerFailed (s.setPort k { s.port k with
           incoming := none, stallDrop := min ((s.port k).stallDrop + 1) (2 ^ 64 - 1) }) v d q ∧
         exec (.stallTimeout k p) s = .next (v.setPort k { v.port k with dropBody := true })) ∧
     (s.portsOn = true →
       let holds (j : Nat) : Prop := ownerDie j = d ∧ (s.port j).st ≠ .frozen ∧ ∃ y ∈ (s.port j).queue, samePkt y.pkt p = true
       let counted (t : State) : Prop :=
         (Tab.get DieCtr.reset t.rte.ctrs d).aged = min ((Tab.get DieCtr.reset s.rte.ctrs d).aged + 1) (2 ^ 64 - 1)
       (holds k → (∀ j < k, ¬ holds j) →
         ∃ t, exec (.packetAged d p) s = .next t ∧ t = { s with ports := t.ports, rte := t.rte } ∧ counted t ∧
           t.rte = { s.rte with ctrs := t.rte.ctrs } ∧ (∀ j, j ≠ k → t.port j = s.port j) ∧
           t.port k = { s.port k with queue := (t.port k).queue } ∧
           FirstTaken (fun y => samePkt y.pkt p) (s.port k).queue (t.port k).queue) ∧
       ((∀ j < 10, ¬ holds j) →
         (∀ m, s.rte.mortar.find? (fun m => m.die = d && samePkt m.pkt p) = some m →
           ∃ t, exec (.packetAged d p) s = .next t ∧ t = { s with rte := t.rte } ∧ counted t ∧
             t.rte = { s.rte with ctrs := t.rte.ctrs, mortar := s.rte.mortar.erase m, tails := t.rte.tails } ∧
             t.rte.tails = if m.whole then s.rte.tails
               else dropNth (fun y => y.die == d && samePkt y.pkt p) (s.rte.following d p - s.rte.crossing d p) s.rte.tails) ∧
         ((∀ m ∈ s.rte.mortar, m.die = d → samePkt m.pkt p = false) →
           (∀ m, s.rte.arrived.find? (fun m => m.die == d && samePkt m.pkt p) = some m →
             ∃ t, exec (.packetAged d p) s = .next t ∧ t = { s with rte := t.rte } ∧
               t.rte.arrived = s.rte.arrived.erase m ∧ counted t) ∧
           ((∀ m ∈ s.rte.arrived, m.die = d → samePkt m.pkt p = false) → exec (.packetAged d p) s = .next s))))) ∧
  (∀ (s : State) (k : Nat), k < 10 → s.portsOn = true → (s.port k).st = .up →
     let x := s.port k
     (∀ q left, s.arbitrate k = some (q, left) → ¬ Fits x (flitsOf q.pkt.payload.length) →
       exec (.packetSendStart k) s = .next s) ∧
     (∀ q left, s.arbitrate k = some (q, left) → Fits x (flitsOf q.pkt.payload.length) →
       let n := flitsOf q.pkt.payload.length
       q ∈ x.queue ∧ n ≤ x.credits q.vc ∧
       (x.recent = [] → (∀ y ∈ x.candidates, y.pkt.tc = 5 → y.pkt.payload.length ≤ 4096) →
         (∃ y ∈ x.candidates, y.pkt.tc = 5) → q.pkt.tc = 5) ∧
       ∃ t, exec (.packetSendStart k) s = .next t ∧
         t = { s with ports := t.ports, out := s.out ++ [.packet k q.pkt] } ∧ (∀ j, j ≠ k → t.port j = s.port j) ∧
         (t.port k).queue = x.queue.erase q ∧ (t.port k).cut = (if q.whole then x.cut else x.cut ++ [q]) ∧
         (t.port k).txFlits = min (x.txFlits + n) (2 ^ 64 - 1) ∧
         (∀ v, Tab.get 0 (t.port k).txSent v =
           if v = q.vc then Tab.get 0 x.txSent v + BitVec.ofNat 16 n else Tab.get 0 x.txSent v) ∧
         (t.port k).txHeld.length = x.txHeld.length + ((x.txFill + n + 4) / 5 - (x.txFill + 4) / 5) ∧
         (t.port k).txFill = (x.txFill + n) % 5))

/-! ## Delivery (R266, R268, R269, R272, R273, R309, R318, R462, R234, R235) -/

/-- The requests: a packet that its flow expects, whose checks pass, has its action and advances the expected SEQ; one
to a partition in rung 2 is answered REFUSED and does not; one that fails another check moves no byte and advances it. An
OPEN packet of a flow that is not known, or that its sender has opened again, has its action and makes the receive entry.
A change of a flag of a course that sleeps is held, and the acknowledgement with it.
A duplicate, a gap, a packet of no flow and one that finds no receive entry free move nothing and are counted. (Model's
choice: the checks of requests and what a failed one leaves: log entry 25.) -/
def Obligations.Requests : Prop :=
  ∀ (s : State) (d : Nat) (p : Packet) (a : Arrived), d < 4 → s.live = true →
    s.localHead p.sdie.toNat p.tc.toNat = none → s.arrivedHead d p = some a →
    let ctr (t : State) : DieCtr := Tab.get DieCtr.reset t.rte.ctrs d
    let raised (t : State) (v : W32) : Prop := ∀ e f, t.flagVal e f =
      if p.tgtFlag ≠ 0x3F ∧ e = p.tgtEngine.toNat ∧ f = p.tgtFlag.toNat then s.flagVal e f + v else s.flagVal e f
    let awake := p.tgtFlag = 0x3F ∨ s.courseAwake (p.tgtEngine.toNat / 32) = true
    let known := s.recvFlow d (flowOf p)
    (∀ row ∈ writeRows, p.opc = row.2.1 →
      (known = none → p.opn = false →
        ∃ t, exec (row.1 d p) s = .next t ∧ SameStores s t ∧ SameFlags s t ∧ t.rte.recv = s.rte.recv ∧
          t.rte.arrived = s.rte.arrived.erase a ∧ (ctr t).noFlow = min ((ctr s).noFlow + 1) (2 ^ 64 - 1)) ∧
      (p.opn = true → (known = none ∧ s.rte.recv.countP (fun r => r.die == d) < 16384 ∨
          ∃ r, known = some r ∧ p.seq ≠ r.openSeq) → awake →
        ∀ l, s.reqCheck p p.len.toNat true (bareReq p) row.2.2.2 = .ok l →
        ∃ t, exec (row.1 d p) s = .next t ∧ t.rte.arrived = s.rte.arrived.erase a ∧
          t.recvFlow d (flowOf p) = some { id := flowOf p, die := d, expected := p.seq + 1, openSeq := p.seq, ackDue := 1,
                                           holds := s.newlyHeld t, at_ := s.gen.time } ∧
          SameStores (match l with
            | some l => if p.len = 0 then s else s.writeLoc l (pktPayload p)
            | none => s) t ∧
          if row.2.2.1 then raised t 1 else SameFlags s t) ∧
      (p.opn = true → known = none → 16384 ≤ s.rte.recv.countP (fun r => r.die == d) →
        (∀ r ∈ s.rte.recv, r.die = d → s.gen.time < r.at_ + 5000000) →
        ∃ t, exec (row.1 d p) s = .next t ∧ SameStores s t ∧ SameFlags s t ∧ t.rte.recv = s.rte.recv ∧
          (ctr t).rxFull = min ((ctr s).rxFull + 1) (2 ^ 64 - 1)) ∧
      (∀ r, known = some r → p.opn = true → p.seq = r.openSeq →
        ∃ t, exec (row.1 d p) s = .next t ∧ SameStores s t ∧ SameFlags s t ∧
          t.recvFlow d (flowOf p) = some { r with ackDue := if r.holds = [] then 0 else max 1 r.ackDue } ∧
          (ctr t).dup = min ((ctr s).dup + 1) (2 ^ 64 - 1))) ∧
    ∀ r, known = some r → p.opn = false →
    let advanced (t : State) (n : Nat) : Prop := Advanced s t d p r n
    (∀ row ∈ writeRows, p.opc = row.2.1 → p.seq = r.expected →
      (∀ l, s.reqCheck p p.len.toNat true (bareReq p) row.2.2.2 = .ok l → awake →
        ∃ t, exec (row.1 d p) s = .next t ∧ advanced t (r.ackDue + 1) ∧
          SameStores (match l with
            | some l => if p.len = 0 then s else s.writeLoc l (pktPayload p)
            | none => s) t ∧
          if row.2.2.1 then raised t 1 else SameFlags s t) ∧
      (s.reqCheck p p.len.toNat true (bareReq p) row.2.2.2 = .error 1 →
        ∃ t, exec (row.1 d p) s = .next t ∧ SameStores s t ∧ SameFlags s t ∧
          t.recvFlow d (flowOf p) = some r ∧ (ctr t).refusedTx = min ((ctr s).refusedTx + 1) (2 ^ 64 - 1)) ∧
      (∀ k, k ≠ 0 → k ≠ 1 → s.reqCheck p p.len.toNat true (bareReq p) row.2.2.2 = .error k →
        ∃ t, exec (row.1 d p) s = .next t ∧ SameStores s t ∧ SameFlags s t ∧ advanced t 0)) ∧
    (p.opc = 0x14 → p.seq = r.expected → awake → ∀ l, s.reqCheck p 0 false true false = .ok l →
      ∃ t, exec (.flag d p) s = .next t ∧ SameStores s t ∧ advanced t (r.ackDue + 1) ∧ raised t (p.arg.setWidth 32)) ∧
    (p.opc = 0x14 → p.seq = r.expected → ¬ awake → ∀ l, s.reqCheck p 0 false true false = .ok l →
      ∃ t, exec (.flag d p) s = .next t ∧ SameStores s t ∧ advanced t (r.ackDue + 1) ∧
        FlagRaised s t p.tgtEngine.toNat p.tgtFlag.toNat (p.arg.setWidth 32) ∧
        s.newlyHeld t = [p.tgtEngine.toNat / 32]) ∧
    (p.opc = 0x12 → p.tc ≠ 4 → p.seq = r.expected → 1 ≤ p.arg → p.arg ≤ 4096 → (∀ x ∈ s.engines, x.2.copies = []) →
      ∀ l, s.reqCheck p p.arg.toNat false false false = .ok (some l) →
      let ok (q : Packet) : Prop := q.opc = 0x13 ∧ q.payload = s.readLoc l p.arg.toNat ∧ q.dest = p.src ∧
        q.addr.toNat = p.seq.toNat + p.sdie.toNat * 2 ^ 24 + (if p.epoch then 2 ^ 26 else 0)
      ∃ t, exec (.read d p) s = .next t ∧ SameStores s t ∧ SameFlags s t ∧ advanced t (r.ackDue + 1) ∧
        ((∃ f ∈ t.rte.send, ∃ u ∈ f.unacked, ok u.pkt) ∨ (∃ w ∈ t.rte.waiting, ok w.pkt) ∨
          ∃ w ∈ t.rte.locals_, ok w.pkt)) ∧
    (p.opc = 0x10 → p.seq ≠ r.expected →
      ∃ t, exec (.write d p) s = .next t ∧ SameStores s t ∧ SameFlags s t ∧
        if (r.expected - 1 - p.seq).toNat < 2 ^ 23 then (ctr t).dup = min ((ctr s).dup + 1) (2 ^ 64 - 1)
        else (ctr t).gap = min ((ctr s).gap + 1) (2 ^ 64 - 1) ∧ t.recvFlow d (flowOf p) = some r) ∧
    (p.opc = 0x60 → p.seq = r.expected →
      ∃ t, exec (.mgmtMessage d p) s = .next t ∧ SameStores s t ∧ SameFlags s t ∧ advanced t (r.ackDue + 1)) ∧
    (p.seq = r.expected → s.cfg.slice.role = 0 →
      let k := p.arg.toNat % 16
      let x := s.key k
      let fits := x.reach = 2 ∧ p.addr.setWidth 32 = x.phase
      (p.opc = 0x20 → ∃ t, exec (.keyReport d p) s = .next t ∧ SameStores s t ∧ advanced t (r.ackDue + 1) ∧
        (fits ∧ p.src.toNat ∈ s.keyChildren → p.src.toNat ∉ x.reports → x.count < x.expect →
          t.key k = { x with reports := x.reports ++ [p.src.toNat] }) ∧
        (¬ (fits ∧ p.src.toNat ∈ s.keyChildren) → t.key k = { x with mismatch := min (x.mismatch + 1) 0xFFFFFFFF })) ∧
      (p.opc = 0x21 → ∃ t, exec (.keyRelease d p) s = .next t ∧ SameStores s t ∧ advanced t (r.ackDue + 1) ∧
        (fits ∧ s.keyParent = some p.src.toNat → x.count = x.expect → x.expect ≠ 0 →
          t.key k = { x with phase := x.phase + 1, count := 0, reports := [], shareDone := false }) ∧
        (¬ (fits ∧ s.keyParent = some p.src.toNat) →
          t.key k = { x with mismatch := min (x.mismatch + 1) 0xFFFFFFFF })))

/-- The answers: READ_DATA writes its part of the LOCAL span and the last one raises the NGET's flag; an ACK ends what
it acknowledges; REFUSED starts a backoff; another RESPONSE fails its operation; an ECHO is returned; an ECHO_REPLY ends
the path test that waits for it. (Model's choice: what answers leave: log entry 25.) -/
def Obligations.Answers : Prop :=
  ∀ (s : State) (d : Nat) (p : Packet), d < 4 → s.live = true →
    let rises (t : State) (o : NetOp) : Prop := ∀ e f, t.flagVal e f =
      if e = o.flagEngine ∧ f = o.flag then s.flagVal e f + 1 else s.flagVal e f
    (∀ a r e o g, p.opc = 0x13 → s.localHead p.sdie.toNat p.tc.toNat = none → s.arrivedHead d p = some a →
      s.recvFlow d (flowOf p) = some r → p.opn = false → p.seq = r.expected → s.readFor p = some (e, o, g) →
      s.netOp e o.id = some o → o.reset = false → o.live = true → o.step = none →
      s.courseAwake (o.flagEngine / 32) = true →
      ∃ t, exec (.readData d p) s = .next t ∧
        SameStores (s.writeLoc (o.loc.add g.off) ((pktPayload p).take g.len)) t ∧
        (o.parts.erase g ≠ [] → SameFlags s t ∧ { o with parts := o.parts.erase g } ∈ (t.eng e).nets) ∧
        (o.parts.erase g = [] → rises t o ∧ ∀ x ∈ (t.eng e).nets, x.id ≠ o.id)) ∧
    (∀ u f e o sent rest, s.takeDatagram d p 0xF0 = some u → s.flow (answeredFlow p) = some f →
      f.unacked = sent :: rest → sent.out = true → sent.pkt.seq = answeredSeq p →
      (∀ x ∈ rest, x.out = false ∨ seqLe x.pkt.seq (answeredSeq p) = false) → sent.op = .engine e o.id →
      sent.last = true → sent.pkt.opc ≠ 0x12 → s.netOp e o.id = some o → o.reset = false → o.live = true →
      o.step = none → s.courseAwake (o.flagEngine / 32) = true →
      ∃ t, exec (.ack d p) s = .next t ∧ SameStores s t ∧ rises t o ∧ (∀ x ∈ (t.eng e).nets, x.id ≠ o.id) ∧
        (t.flow (answeredFlow p)).map (·.unacked) = some rest ∧
        (t.flow (answeredFlow p)).map (·.expiries) = some 0) ∧
    (∀ u f, p.opc = 0xF1 → p.arg = 1 → s.takeDatagram d p 0xF1 = some u → s.flow (answeredFlow p) = some f →
      f.backoff = none → (∃ x ∈ f.unacked, x.out = true ∧ x.pkt.seq = answeredSeq p) →
      ∃ t, exec (.response d p) s = .next t ∧ t = { s with rte := t.rte } ∧
        t.flow (answeredFlow p) = some { f with backoff := some (answeredSeq p), refusals := f.refusals + 1 }) ∧
    (∀ a r f e o sent rest, p.opc = 0xF1 → (p.arg = 2 ∨ p.arg = 3 ∨ p.arg = 4) →
      s.localHead p.sdie.toNat p.tc.toNat = none → s.arrivedHead d p = some a →
      s.recvFlow d (flowOf p) = some r → p.opn = false → p.seq = r.expected → s.flow (answeredFlow p) = some f →
      f.unacked = sent :: rest → sent.out = true → sent.pkt.seq = answeredSeq p →
      (∀ x ∈ rest, x.out = false ∨ seqLe x.pkt.seq (answeredSeq p) = false) → sent.op = .engine e o.id →
      s.netOp e o.id = some o → o.reset = false → (o.live = false ∨ s.runner e o.homeCourse o.slot = e) →
      (s.eng e).faultValid = false →
      ∃ t, exec (.response d p) s = .next t ∧ SameStores s t ∧ SameFlags s t ∧
        (∀ x ∈ (t.eng e).nets, x.id ≠ o.id) ∧ (t.eng e).faultValid = true ∧
        (t.eng e).faultCode = if p.arg = 2 then 8 else if p.arg = 3 then 4 else 3) ∧
    (∀ u, s.takeDatagram d p 0x50 = some u → s.ownNode p.src = false →
      ∃ t q, exec (.echo d p) s = .next t ∧ SameStores s t ∧ SameFlags s t ∧ Routed u t d q 0 0 true none ∧ q.opc = 0x51 ∧
        q.tc = 4 ∧ q.dest = p.src ∧ q.payload = p.payload ∧ q.len = p.len) ∧
    (∀ u o, s.takeDatagram d p 0x51 = some u → s.sec.echoes.find? (fun x => fieldAt x.bytes 0 4 == p.src.toNat) = some o →
      ∃ t, exec (.echoReply d p) s = .next t ∧ SameStores s t ∧ SameFlags s t ∧
        t.sec.echoes = s.sec.echoes.erase o)

/-! ## The transport's timers (R268 to R271, R273, R275, R280) -/

/-- An acknowledgement falls due, and goes when no flag that its packets change is yet to change; a retransmit timer
sends a flow's packets again until its expiries reach RETRIES; a flow that gives up closes and fails its operations; a
backoff ends; a flow closes when nothing of it is unacknowledged; a packet that waited goes on; a held packet to the
module itself is tried again, or fails at the end of its time. (Model's choice: when a flow gives up: log entry 24.) -/
def Obligations.TransportTimers : Prop :=
  ∀ (s : State) (id : FlowId), s.live = true →
    let ctr (t : State) (d : Nat) : DieCtr := Tab.get DieCtr.reset t.rte.ctrs d
    let resent (t : State) (us : List Sent) : Prop := Resent s t (us.filter (·.out))
    (∀ d r, d < 4 → s.recvFlow d id = some r → r.ackDue ≠ 0 → r.holds ≠ [] →
      ∃ t, exec (.ackSend d id) s = .next t ∧ t = { s with rte := t.rte } ∧
        t.rte = { s.rte with recv := t.rte.recv } ∧ t.recvFlow d id = some r) ∧
    (∀ d r, d < 4 → s.recvFlow d id = some r → r.ackDue ≠ 0 → r.holds = [] →
      ∃ t, exec (.ackSend d id) s = .next t ∧ SameStores s t ∧ SameFlags s t ∧
        t.recvFlow d id = some { r with ackDue := 0 } ∧
        (s.ownNode (BitVec.ofNat 17 id.src) = false → id.tc < 8 → ∃ u q, u.ports = s.ports ∧ u.cfg = s.cfg ∧
          u.rte = { s.rte with recv := t.rte.recv } ∧ Routed u t d q 0 0 true none ∧ q.opc = 0xF0 ∧
          q.dest = BitVec.ofNat 17 id.src ∧ q.addr.toNat % 2 ^ 24 = (r.expected - 1).toNat)) ∧
    (∀ f, s.flow id = some f →
      (f.backoff = none → f.unacked.any (·.out) = true → f.expiries < s.rte.retries →
        ∃ t, exec (.retransmitTimerExpiry id) s = .next t ∧ t = { s with rte := t.rte, ports := t.ports } ∧
          (t.flow id).map (·.expiries) = some (f.expiries + 1) ∧ (t.flow id).map (·.unacked) = some f.unacked ∧
          (ctr t id.sdie).giveUp = (ctr s id.sdie).giveUp ∧
          (f.expiries + 1 = s.rte.retries → t.ports = s.ports ∧ t.rte.ctrs = s.rte.ctrs ∧ t.rte.mortar = s.rte.mortar) ∧
          (f.expiries + 1 < s.rte.retries → resent t f.unacked)) ∧
      (f.unacked ≠ [] → s.rte.retries ≤ f.expiries → (∀ g ∈ s.rte.send, g.id = id → g = f) →
        ∃ t, exec (.transportGiveUp id) s = .next t ∧ SameStores s t ∧ SameFlags s t ∧ t.flow id = none ∧
          (ctr t id.sdie).giveUp = min ((ctr s id.sdie).giveUp + 1) (2 ^ 64 - 1)) ∧
      (∀ e o u p, f.unacked = [u] → s.rte.retries ≤ f.expiries → u.op = .engine e o.id → s.netOp e o.id = some o →
        o.reset = false → s.partOfEngine e = some p → (o.live = false ∨ s.runner e o.homeCourse o.slot = e) →
        ∃ t, exec (.transportGiveUp id) s = .next t ∧ (∀ x ∈ (t.eng e).nets, x.id ≠ o.id) ∧
          (t.part p).halted = true ∧ ((s.part p).halted = false → (t.part p).haltCause = 0x0C)) ∧
      (f.refusals ≠ 0 → f.unacked ≠ [] → ∃ t, exec (.refusalGiveUp id) s = .next t ∧ SameStores s t ∧ SameFlags s t ∧
        t.flow id = none ∧ (ctr t id.sdie).giveUp = min ((ctr s id.sdie).giveUp + 1) (2 ^ 64 - 1)) ∧
      (∀ q, f.backoff = some q → ∃ t, exec (.refusalBackoffExpiry id) s = .next t ∧
        t = { s with rte := t.rte, ports := t.ports } ∧ (t.flow id).map (·.backoff) = some none ∧
        (t.flow id).map (·.unacked) = some f.unacked ∧
        ∀ done u rest, f.unacked = done ++ u :: rest → u.pkt.seq = q → (∀ x ∈ done, x.pkt.seq ≠ q) →
          resent t (u :: rest)) ∧
      (∀ u rest, f.unacked = u :: rest → u.out = false → s.fenced id u.ord = false →
        ∃ t, exec (.fenceRelease id) s = .next t ∧ t = { s with rte := t.rte, ports := t.ports } ∧
          (t.flow id).map (fun g => g.unacked.head?) = some (some { u with out := true })) ∧
      (f.unacked = [] → ∃ t, exec (.sendFlowClose id) s = .next t ∧ t = { s with rte := t.rte } ∧ t.flow id = none) ∧
      (f.unacked ≠ [] → exec (.sendFlowClose id) s = .next s)) ∧
    (∀ d w u, d < 4 → s.rte.waiting.find? (fun x => x.die == d) = some w →
      ({ s with rte := { s.rte with waiting := s.rte.waiting.erase w } } : State).launch w = some u →
      exec (.injectionResume d) s = .next u ∧ u.rte.waiting = s.rte.waiting.erase w ∧
        ∃ f ∈ u.rte.send, f.id = flowOf w.pkt ∧ ∃ x ∈ f.unacked, x.op = w.op ∧ x.pkt.payload = w.pkt.payload) ∧
    (∀ d tc l, d < 4 → s.localHead d tc = some l → l.refusals ≠ 0 →
      (∀ e o p, l.op = .engine e o.id → s.netOp e o.id = some o → o.reset = false → s.partOfEngine e = some p →
        (o.live = false ∨ s.runner e o.homeCourse o.slot = e) →
        ∃ t, exec (.localPacketRetry d tc true) s = .next t ∧ t.rte.locals_ = s.rte.locals_.erase l ∧
          (t.part p).halted = true) ∧
      (l.pkt.opc = 0x10 → ∀ loc, s.reqCheck l.pkt l.pkt.len.toNat true false false = .ok (some loc) → l.pkt.len ≠ 0 →
        l.last = false → ∃ t, exec (.localPacketRetry d tc false) s = .next t ∧
          SameStores (s.writeLoc loc (pktPayload l.pkt)) t ∧ t.rte.locals_ = s.rte.locals_.erase l) ∧
      (l.pkt.opc = 0x10 → s.reqCheck l.pkt l.pkt.len.toNat true false false = .error 1 →
        ∃ t, exec (.localPacketRetry d tc false) s = .next t ∧ SameStores s t ∧
          t.rte.locals_.length = s.rte.locals_.length))

/-! ## Epochs and bond images (R25 to R35, R57, R62, R66, R277, R284 to R286) -/

/-- FLIP, RELEASE and RTE_LOOKUP. -/
def Obligations.Epochs : Prop :=
  ∀ (s : State) (h : Nat), h < 2 → s.writable = true → s.ownedBy h = true →
    (s.half (!s.rte.inj) = .free → s.rte.half0 ≠ .draining → s.rte.half1 ≠ .draining →
      ∃ t, exec (.flip h) s = .next t ∧ t = { s with rte := t.rte, cfg := t.cfg, latches := t.latches } ∧
        t.rte.inj = !s.rte.inj ∧ t.half (!s.rte.inj) = .active ∧ t.half s.rte.inj = .draining ∧
        t.rte.routes = s.rte.routes ∧ t.rte.recv = s.rte.recv ∧
        t.rte.send.map (fun f => (f.id, f.nextSeq, f.unacked)) = s.rte.send.map (fun f => (f.id, f.nextSeq, f.unacked)) ∧
        (s.cfg.adopt = none → t.cfg = s.cfg) ∧
        ∀ a, s.cfg.adopt = some a → a.half = (!s.rte.inj) →
          t.cfg.slice = { s.cfg.slice with role := 0, nodeId := a.nodeId } ∧
          t.cfg.cast = a.cast.getD s.cfg.cast ∧ t.cfg.adopt = none) ∧
    (s.half (!s.rte.inj) ≠ .free ∨ s.rte.half0 = .draining ∨ s.rte.half1 = .draining →
      ∃ t, exec (.flip h) s = .next t ∧ t = { s with latches := t.latches }) ∧
    (∀ ep, s.half ep = .draining → s.half (!ep) ≠ .draining →
      ((∀ f ∈ s.rte.send, f.id.epoch = ep → f.unacked = []) → (∀ w ∈ s.rte.waiting, w.pkt.epoch ≠ ep) →
        s.stepPackets ep = 0 →
        ∃ t, exec (.release h) s = .next t ∧ t = { s with rte := t.rte, latches := t.latches } ∧
          t.half ep = .free ∧ t.half (!ep) = s.half (!ep) ∧
          t.rte = { s.rte with half0 := t.rte.half0, half1 := t.rte.half1 }) ∧
      ((∃ f ∈ s.rte.send, f.id.epoch = ep ∧ f.unacked ≠ []) ∨ s.stepPackets ep ≠ 0 →
        ∃ t, exec (.release h) s = .next t ∧ t = { s with latches := t.latches })) ∧
    (∀ v : W32, let i := bits v.toNat 20 0; let d := bits v.toNat 22 21
      ∃ t, exec (.rteLookupWrite h v) s = .next t ∧ t = { s with rte := t.rte, latches := t.latches } ∧
        t.rte = { s.rte with
          lookIndex := BitVec.ofNat 21 i, lookDie := BitVec.ofNat 2 d,
          lookEntry := Tab.get 0 (Tab.get [] s.rte.routes (2 * d + bits v.toNat 20 20)) (i % 2 ^ 20) })

/-- A write of GO while the same port's submission runs is ignored; while the other port's runs, the port reads REFUSED
with BUSY and the other submission goes on; with LEN zero it fetches nothing, changes no configuration and no staged
image, and the port reads DONE with code 0. (A write of LEN zero while the other port's submission runs, where the
two rules meet, is in Submission.) -/
def Obligations.GoWhileBusyOrEmpty : Prop :=
  ∀ (s : State) (h : Nat), h < 2 → s.writable = true →
    let x := s.bondPort h
    let y := s.bondPort (1 - h)
    let busy (p : BondPort) : Prop := p.st = .fetch ∨ p.st = .verify ∨ p.st = .apply
    (busy x → ∃ t, exec (.go h) s = .next t ∧ t = { s with latches := t.latches }) ∧
    (¬ busy x → busy y → x.len ≠ 0 → ∃ t, exec (.go h) s = .next t ∧
      t = { s with bond := t.bond, latches := t.latches } ∧ (t.bondPort h).st = .refused ∧ (t.bondPort h).code = 0x11 ∧
      t.bondPort (1 - h) = y ∧ t.bond.applying = s.bond.applying) ∧
    (¬ busy x → ¬ busy y → x.len = 0 → ∃ t, exec (.go h) s = .next t ∧
      t = { s with bond := t.bond, latches := t.latches } ∧ (t.bondPort h).st = .done ∧ (t.bondPort h).code = 0 ∧
      t.bondPort (1 - h) = y ∧ t.bond.staged = s.bond.staged ∧ t.bond.applying = s.bond.applying ∧
      t.bond.activeSeq = s.bond.activeSeq)

/-- GO, the end of a fetch whose reads have been issued, whatever has become of the port since, the application of a
partial image, and RERUN. A SLICE section is tested in offset order: one whose SLICE_ID departs, then one that does not
turn ROLE from 1 to 0, then any other field that departs, refuses the image with RANGE. (Model's choice: that order, the
order of the acceptance checks and when halves are LOADING: log entry 28.) -/
def Obligations.Submission : Prop :=
  ∀ (s : State) (h : Nat), h < 2 →
    let x := s.bondPort h
    let idle (t : State) (st : BondState) (code : Nat) : Prop :=
      (t.bondPort h).st = st ∧ (t.bondPort h).code = BitVec.ofNat 8 code
    (s.writable = true → x.runs = false → (s.bondPort (1 - h)).runs = false → x.len ≠ 0 → x.len.toNat ≤ 2 ^ 26 →
      (s.fullAllowed = true ∨ s.ready = true) →
      ∃ t, exec (.go h) s = .next t ∧ t = { s with bond := t.bond, out := t.out, latches := t.latches } ∧
        t.bondPort h = { x with st := .fetch, code := 0, section_ := 0xFFFF, errOff := 0, goSrc := x.src,
                                goLen := x.len.toNat, sent := s.hostUsable h } ∧
        t.bondPort (1 - h) = s.bondPort (1 - h) ∧
        (s.hostUsable h = false → t.out = s.out) ∧
        (s.hostUsable h = true → let m := max 1 (min (s.host h).mrrs 4096)
          t.out = s.out ++ (List.range ((x.len.toNat + m - 1) / m)).map fun i =>
            .hostRead h (x.src + BitVec.ofNat 64 (i * m)) (min m (x.len.toNat - i * m)))) ∧
    (s.writable = true → x.runs = true → ∃ t, exec (.go h) s = .next t ∧ t = { s with latches := t.latches }) ∧
    (s.writable = true → x.runs = false → (s.bondPort (1 - h)).runs = true →
      ∃ t, exec (.go h) s = .next t ∧ t = { s with bond := t.bond, latches := t.latches } ∧ idle t .refused 0x11 ∧
        t.bondPort (1 - h) = s.bondPort (1 - h)) ∧
    (s.writable = true → x.runs = false → (s.bondPort (1 - h)).runs = false → x.len = 0 →
      ∃ t, exec (.go h) s = .next t ∧ t = { s with bond := t.bond, latches := t.latches } ∧ idle t .done 0 ∧
        t.bond.staged = s.bond.staged ∧ t.bondPort (1 - h) = s.bondPort (1 - h)) ∧
    (∀ res, x.sent = false → exec (.bondFetchDone h res) s = .next s) ∧
    (x.st = .fetch → s.frz.frozen = false → x.sent = true →
      (∃ t, exec (.bondFetchDone h .error) s = .next t ∧
        t = { s with bond := t.bond, hosts := t.hosts, freeCtr := t.freeCtr } ∧ idle t .refused 0x13) ∧
      ((s.host h).ctDisable = true → exec (.bondFetchDone h .timeout) s = .next s) ∧
      ((s.host h).ctDisable = false →
        ∃ t, exec (.bondFetchDone h .timeout) s = .next t ∧ t = { s with bond := t.bond, hosts := t.hosts } ∧
          idle t .refused 0x13 ∧ (t.host h).space.aerStatus = (s.host h).space.aerStatus ||| 2 ^ 14) ∧
      (∀ img, img.length = x.goLen →
        (∀ f, s.acceptCheck h img = some f → ∃ t, exec (.bondFetchDone h (.data img)) s = .next t ∧
          t = { s with bond := t.bond } ∧ idle t .refused f.code) ∧
        (s.acceptCheck h img = none → fieldAt img 0x0E 1 = 0 → s.bond.staged = none → s.bu.stage < 8 →
          ∃ t, exec (.bondFetchDone h (.data img)) s = .next t ∧
            t = { s with bond := t.bond, mem := t.mem, mcs := t.mcs, doms := t.doms, pwr := t.pwr } ∧
            idle t .staged 0 ∧ t.bond.staged = some (h, img) ∧ t.mem = (s.writePier stageBase img).mem) ∧
        (∀ g old, s.acceptCheck h img = none → fieldAt img 0x0E 1 = 0 → s.bond.staged = some (g, old) →
          fieldAt img 0x18 8 ≤ fieldAt old 0x18 8 →
          ∃ t, exec (.bondFetchDone h (.data img)) s = .next t ∧ t = { s with bond := t.bond } ∧ idle t .refused 0x06 ∧
            t.bond.staged = s.bond.staged) ∧
        (s.acceptCheck h img = none → fieldAt img 0x0E 1 = 1 →
          ∃ t, exec (.bondFetchDone h (.data img)) s = .next t ∧
            t = { s with bond := t.bond, mem := t.mem, rte := t.rte, mcs := t.mcs, doms := t.doms, pwr := t.pwr } ∧
            idle t .apply 0 ∧ t.bond.applying = some (h, img) ∧ t.mem = (s.writePier stageBase img).mem ∧ t.rte = { s.rte with half0 := t.rte.half0, half1 := t.rte.half1 }))) ∧
    (∀ img, s.live = true → s.bond.applying = some (h, img) →
      (s.partialCheck (sections img) = none → ∃ t, exec (.partialImageApply h) s = .next t ∧
        t = { s with bond := t.bond, cfg := t.cfg, rte := t.rte, parts := t.parts } ∧ idle t .done 0 ∧
        t.bond.applying = none ∧ t.bond.activeSeq = BitVec.ofNat 64 (fieldAt img 0x18 8) ∧
        t.bond.highWater = t.bond.activeSeq ∧ t.bond.meas = shake256 (s.bond.meas ++ shake256 img 32) 32 ∧
        t.rte.inj = s.rte.inj ∧ t.rte.send = s.rte.send ∧ t.rte.recv = s.rte.recv ∧
        (∀ y ∈ sections img, y.typ = 0x20 → (∀ z ∈ sections img, z.typ = 0x20 → z.inst = y.inst → z = y) →
          Tab.get [] t.rte.routes y.inst = routeHalf y.body) ∧
        (∀ i, (∀ y ∈ sections img, y.typ = 0x20 → y.inst ≠ i) → Tab.get [] t.rte.routes i = Tab.get [] s.rte.routes i)) ∧
      (∀ f, s.partialCheck (sections img) = some f → ∃ t, exec (.partialImageApply h) s = .next t ∧
        t = { s with bond := t.bond, rte := t.rte } ∧ idle t .refused f.code ∧ t.bond.applying = none ∧
        t.bond.activeSeq = s.bond.activeSeq ∧ t.bond.meas = s.bond.meas ∧ t.rte.routes = s.rte.routes) ∧
      ∀ y, sectOf (sections img) 0x21 = some y →
        let turned (off : Nat) : Prop := ∃ t, exec (.partialImageApply h) s = .next t ∧ idle t .refused 0x0B ∧
          (t.bondPort h).section_ = BitVec.ofNat 16 y.idx ∧ (t.bondPort h).errOff = BitVec.ofNat 32 (y.off + off)
        (fieldAt y.body 0 2 ≠ s.cfg.slice.sliceId.toNat → turned 0) ∧
        (fieldAt y.body 0 2 = s.cfg.slice.sliceId.toNat →
          (¬ (s.cfg.slice.role = 1 ∧ fieldAt y.body 2 1 = 0) → turned 2) ∧
          (s.cfg.slice.role = 1 → fieldAt y.body 2 1 = 0 → fieldAt y.body 3 1 ≠ s.cfg.slice.physW → turned 3))) ∧
    (s.writable = true → s.bu.stage = 8 → s.bu.st = .failed → s.bond.staged ≠ none →
      ∃ t, exec (.rerun h) s = .next t ∧ t = { s with bu := t.bu, latches := t.latches } ∧ t.bu.stage = 8 ∧
        t.bu.st = .running ∧ t.bu.attempt = s.bu.attempt + 1 ∧ t.bu.log = s.bu.log) ∧
    (s.writable = true → s.bu.stage ≠ 8 → ∃ t, exec (.rerun h) s = .next t ∧ t = { s with latches := t.latches })

/-! ## Bring-up and discovery (R377 to R389, R424, R425, R200, R114, R57 to R60, R387) -/

/-- Stages BU1 to BU5: what each leaves, and the record it writes. (Model's choice: records of flash, the block key that
a BU2 without a valid licence leaves, and details: log entries 12 and 29.) -/
def Obligations.BringUpSelf : Prop :=
  ∀ (s : State),
    let at_ (t : State) (n : Nat) (st : BuState) : Prop := t.bu.stage = n ∧ t.bu.st = st
    (∀ l0 l1, s.stageRuns 1 = true → ∃ t, exec (.bu1 l0 l1) s = .next t ∧
      t = { s with gen := t.gen, sec := t.sec, doms := t.doms, ports := t.ports, hosts := t.hosts, bu := t.bu } ∧
      (t.host 0).linkUp = (l0 && !(s.host 0).perst) ∧ (t.host 1).linkUp = (l1 && !(s.host 1).perst) ∧
      (∀ p < 10, (t.port p).fitted = (decide (s.gen.part ≠ 2) || decide (p < 4))) ∧
      (∀ i b, s.bootSlot = some (i, b) → at_ t 2 .running ∧ Recorded s t 1 0 ∧ t.gen.fw = BitVec.ofNat 32 (fwVersion b) ∧
        t.sec = { s.sec with runSlot := i, mFw := shake256 (b.take (fieldAt b 0x0C 4)) 32 }) ∧
      (s.bootSlot = none → at_ t 1 .failed ∧ t.sec = s.sec ∧
        Recorded s t 1 (if s.fwValid s.sec.slotA ∨ s.fwValid s.sec.slotB then 0x11 else 0x10))) ∧
    (∀ bits, s.stageRuns 2 = true →
      (s.identity bits = none → ∃ t, exec (.bu2 bits) s = .next t ∧ t = { s with bu := t.bu, hosts := t.hosts } ∧
        at_ t 2 .failed ∧ Recorded s t 2 0x20) ∧
      ∀ seed pub cert, s.identity bits = some (seed, pub, cert) →
        let u : State := { s with sec := { s.sec with pub := pub, fp := shake256 pub 16, cert := cert } }
        let lic := u.newestRec 4 fun b => decide (s.sec.licGen.toNat ≤ recGen b)
        pub = edPublic seed ∧ pub = sliceAt cert 72 57 ∧ bits.map (fun b => shake256 (b ++ ascii "HT4-IDSEED") 57) = some seed ∧
        ∃ t, exec (.bu2 bits) s = .next t ∧ t = { s with gen := t.gen, sec := t.sec, bu := t.bu, hosts := t.hosts } ∧
          t.sec.pub = pub ∧ t.sec.fp = shake256 pub 16 ∧ t.sec.cert = cert ∧ t.sec.records = s.sec.records ∧
          t.sec.derives = (blockKey seed == s.sec.rpmbKey) ∧
          (lic = none → at_ t 2 .failed ∧ Recorded s t 2 0x21 ∧ t.gen = s.gen ∧ t.sec.seed = s.sec.seed ∧
            t.sec.block = none) ∧
          ∀ b, lic = some b → at_ t 3 .running ∧ Recorded s t 2 0 ∧ t.sec.seed = some seed ∧ t.sec.licence = some b ∧
            t.sec.block = some (blockKey seed) ∧
            t.gen = { s.gen with capLic := BitVec.ofNat 6 (fieldAt b 64 4) }) ∧
    (∀ passed, s.stageRuns 3 = true →
      let fit := partPiers s.gen.part
      let cap := passed &&& fit
      let n := (List.range 32).countP fun p => cap.getLsbD p
      let map := s.newestRec 3 fun _ => true
      ∃ t, exec (.bu3 passed) s = .next t ∧
        t = { s with gen := t.gen, bond := t.bond, mem := t.mem, sec := t.sec, piers := t.piers, doms := t.doms, bu := t.bu,
                     hosts := t.hosts } ∧
        t.gen = { s.gen with capPiers := cap } ∧ t.mem = (if s.bu.rung3 then s.mem else []) ∧
        (∀ p < 32, (t.pier p).fitted = fit.getLsbD p ∧ (t.pier p).trained = cap.getLsbD p ∧
          (t.pier p).marked = (fit.getLsbD p && (map.bind fun m => repairLayerOf m p).isSome)) ∧
        (∀ c < 64, Tab.get 0 t.sec.repairSlots c = (map.map fun m => repairSlotsOf m c).getD 0) ∧
        (∀ p < 32, Tab.find? t.sec.repairLayers p = map.bind fun m => repairLayerOf m p) ∧
        Tab.get 0 t.bu.log (16 * (s.bu.logCount % 256) + 7) =
          BitVec.ofNat 32 ((List.range 32).map fun p => if (t.pier p).marked then 2 ^ p else 0).sum ∧
        (n < 8 → at_ t 3 .failed ∧ Recorded s t 3 0x30) ∧
        (8 ≤ n → at_ t 4 .running ∧ Recorded s t 3 (if cap = fit then 0 else 1))) ∧
    (∀ passed failed fabric, s.stageRuns 4 = true →
      let lic := licensedCourses s.gen.capLic
      let map := s.newestRec 3 fun _ => true
      let bad := failedSlotsOf failed map
      let old (c : Nat) : BitVec 34 := (map.map fun m => repairSlotsOf m c).getD 0
      ∃ t, exec (.bu4 passed failed fabric) s = .next t ∧
        t = { s with ls := [], cs := [], gen := t.gen, sec := t.sec, courses := t.courses, engines := t.engines,
                     doms := t.doms, bu := t.bu, hosts := t.hosts } ∧
        t.sec.repairs = s.sec.repairs ++ ((List.range 64).flatMap fun c =>
          ((List.range 34).filter fun k => (bad c).getLsbD k && !(old c).getLsbD k).map fun k => .slot c k) ∧
        (∀ c < 64, t.gen.capCourses.getLsbD c =
          (lic.getLsbD c && passed.getLsbD c && (courseSlots (bad c)).1.length == 32)) ∧
        (∀ c < 64, lic.getLsbD c = true → bad c = 0 → (∀ i < 32, (t.eng (32 * c + i)).slot = i) ∧
          Tab.get 0 (t.crs c).phys 32 = 1 ∧ Tab.get 0 (t.crs c).phys 33 = 1) ∧
        (t.gen.capCourses = 0 → at_ t 4 .failed ∧ Recorded s t 4 0x40) ∧
        (t.gen.capCourses ≠ 0 → fabric ≠ 0 → at_ t 4 .failed ∧ Recorded s t 4 0x41) ∧
        (t.gen.capCourses ≠ 0 → fabric = 0 →
          at_ t 5 .running ∧ Recorded s t 4 (if t.gen.capCourses = lic then 0 else 1))) ∧
    (∀ links lines, s.stageRuns 5 = true →
      ∃ t, exec (.bu5 links lines) s = .next t ∧
        t = { s with doms := t.doms, ports := t.ports, bu := t.bu, hosts := t.hosts } ∧
        (links = 0 ∧ lines = 0 → at_ t 6 .running ∧ Recorded s t 5 0 ∧
          ∀ p < 10,
            (if (s.port p).fitted then (t.dom (80 + p)).level = 0 ∧ (t.dom (80 + p)).held = false
             else (t.dom (80 + p)).level = 5 ∧ (t.dom (80 + p)).held = true) ∧
            t.port p = if s.mayTrain p then { s.port p with st := .training } else s.port p) ∧
        (links ≠ 0 ∨ lines ≠ 0 → at_ t 5 .failed ∧ Recorded s t 5 0x50 ∧ t.doms = s.doms ∧ t.ports = s.ports))

/-- Stages BU6 to BU9, the end of discovery, link soaks, and the stages' time limit. (Model's choice: details and what a
refusal keeps: log entry 29.) -/
def Obligations.BringUpSystem : Prop :=
  ∀ (s : State),
    let at_ (t : State) (n : Nat) (st : BuState) : Prop := t.bu.stage = n ∧ t.bu.st = st
    let b := s.bu
    (∀ up half, s.stageRuns 6 = true →
      ∃ t, exec (.bu6 up half) s = .next t ∧ t = { s with ports := t.ports, bu := t.bu, hosts := t.hosts } ∧
        at_ t 7 .running ∧
        (∀ p < 10, up.getLsbD p = false →
          t.port p = { s.port p with st := if (s.port p).st = .training then .down else (s.port p).st }) ∧
        (∀ p < 10, up.getLsbD p = true → s.mayTrain p = true → (s.port p).st = .training →
          (s.dom (80 + p)).level < 2 → (s.dom (80 + p)).entering = none → (t.port p).st = .up ∧ (t.port p).halfWidth = half.getLsbD p) ∧
        let full := ∀ p < 10, if (t.port p).st = .up then (t.port p).halfWidth = false else (t.port p).fitted = false
        (full → Recorded s t 6 0) ∧ (¬ full → Recorded s t 6 1)) ∧
    (s.stageRuns 7 = true → b.coordValid = false → b.skipped = false →
      exec .bu7 s = .next { s with bu := { b with st := .waitOrigin } }) ∧
    (s.stageRuns 7 = true → b.coordValid = true ∨ b.skipped = true → exec .bu7 s = .next s ∧
      ∃ t, exec .discoveryEnd s = .next t ∧ t = { s with bu := t.bu, hosts := t.hosts } ∧
        (b.conflict = false ∨ b.skipped = true → Recorded s t 7 0 ∧
          at_ t 8 (if s.bond.staged = none then .waitImage else .running)) ∧
        (b.conflict = true → b.skipped = false → Recorded s t 7 0x70 ∧ at_ t 7 .failed)) ∧
    (s.stageRuns 8 = true → s.bond.staged ≠ none → b.soaking = false →
      let rd := s.readyOf s.stagedSects
      ∃ t, exec .bu8 s = .next t ∧
        t = { s with ports := t.ports, bu := t.bu, hosts := t.hosts, out := t.out } ∧
        (bit rd.1 1 = true → s.topo.2 = true → at_ t 8 .failed ∧ Recorded s t 8 0x81 ∧ t.ports = s.ports) ∧
        (bit rd.1 1 = false ∨ s.topo.2 = false →
          (bit rd.1 0 = false ∨ b.rung3 = true ∨ s.soakPorts = [] →
            at_ t 9 .running ∧ Recorded s t 8 0 ∧ t.ports = s.ports) ∧
          (bit rd.1 0 = true → b.rung3 = false → s.soakPorts ≠ [] → at_ t 8 .running ∧ t.bu.soaking = true ∧
            t.bu.log = b.log ∧ ∀ p ∈ s.soakPorts,
              let x : Port := { s.port p with soak := some { ms := rd.2.2.1, failed := false } }
              ((s.port p).st = .up ∧ Fits (s.port p) 1 → FlitSent x (t.port p) ∧
                ∃ y, Out.hello p y ∈ t.out ∧ y.flags.getLsbD 4 = true) ∧
              (¬ ((s.port p).st = .up ∧ Fits (s.port p) 1) → t.port p = x)))) ∧
    (∀ p bits errs post, p < 10 → s.portsOn = true → (s.port p).st = .test →
      ∃ t, exec (.soakComplete p true bits errs post) s = .next t ∧
        t = { s with ports := t.ports, bu := t.bu, hosts := t.hosts } ∧
        t.port p = { s.port p with
          soak := none, berBits := min ((s.port p).berBits + bits) (2 ^ 64 - 1),
          berErr := min ((s.port p).berErr + errs) (2 ^ 64 - 1),
          st := if (s.port p).testBit then .test else .training } ∧
        (b.soaking = false → t.bu = b) ∧
        (s.stageRuns 8 = true → b.soaking = true → s.soakPorts = [p] → b.soaked = 0 → b.linkFail = 0 →
          let rd := s.readyOf s.stagedSects
          (post = 0 ∧ errs * 10 ^ rd.2.2.2.2 ≤ rd.2.2.2.1 * bits → at_ t 9 .running ∧ Recorded s t 8 0) ∧
          (¬ (post = 0 ∧ errs * 10 ^ rd.2.2.2.2 ≤ rd.2.2.2.1 * bits) → at_ t 8 .failed ∧ Recorded s t 8 0x80))) ∧
    (∀ g img, s.stageRuns 9 = true → s.bond.staged = some (g, img) →
      ∃ t, exec .bu9 s = .next t ∧ SameStores s t ∧ t.bond.staged = none ∧
        (s.fullCheck (sections img) = none → at_ t 9 .ready ∧ Recorded s t 9 0 ∧ t.cfg = s.fullCfg (sections img) ∧
          (t.bondPort g).st = .done ∧ t.bond.activeSeq = BitVec.ofNat 64 (fieldAt img 0x18 8) ∧
          t.bond.highWater = t.bond.activeSeq ∧ t.bond.meas = shake256 img 32 ∧ t.rte.inj = t.cfg.slice.initEpoch ∧
          t.half t.rte.inj = .active ∧ t.half (!t.rte.inj) = .free ∧ t.pwr = { s.pwr with capW := t.cfg.capW, ft := 16 } ∧
          (∀ e < 2048, t.engEnabled e = true → (t.eng e).act = .idle) ∧
          ∀ e, t.engEnabled e = false → t.eng e = s.eng e) ∧
        (∀ f, s.fullCheck (sections img) = some f → at_ t 9 .failed ∧ Recorded s t 9 0x90 ∧
          t = { s with bond := t.bond, bu := t.bu, hosts := t.hosts } ∧ (t.bondPort g).st = .refused ∧
          (t.bondPort g).code = BitVec.ofNat 8 f.code ∧ t.bond.activeSeq = s.bond.activeSeq)) ∧
    (s.pwr.seq = .on → b.st = .running → b.stage ≠ 0 → b.stage ≠ 7 →
      ∃ t, exec .buStageTimeout s = .next t ∧ t = { s with bu := t.bu, hosts := t.hosts } ∧ at_ t b.stage .failed ∧
        Recorded s t b.stage 0x0E) ∧
    (s.pwr.seq = .rising → b.stage = 0 →
      ∃ t, exec .buStageTimeout s = .next t ∧ t = { s with bu := t.bu, pwr := { s.pwr with seq := .falling } } ∧
        at_ t 0 .failed ∧ Recorded s t 0 0x0E)

/-- ORIGIN, SKIP and HELLO flits: coordinates derived, and the conflicts PORT_PAIR, RING, COORD, SELF and ORIGIN, of
which the first kind that applies is recorded. (Model's choice: ORIGIN and SKIP as they stand: log entry 29.) -/
def Obligations.Discovery : Prop :=
  ∀ (s : State),
    let b := s.bu
    let waits := b.stage = 7 ∧ b.st = .waitOrigin
    (∀ h, h < 2 → s.writable = true → b.stage ≤ 7 → ¬ (b.stage = 7 ∧ b.st = .failed) →
      (b.coordValid = false → ∃ t, exec (.origin h) s = .next t ∧ t = { s with bu := t.bu, latches := t.latches } ∧
        t.bu = { b with coord := b.origin.setWidth 18, coordRing := b.ring.setWidth 21, isOrigin := true,
                        coordValid := true, st := if waits then .running else b.st }) ∧
      (b.coordValid = true → b.conflict = false → b.coord ≠ b.origin.setWidth 18 →
        ∃ t, exec (.origin h) s = .next t ∧ t = { s with bu := t.bu, latches := t.latches } ∧
          t.bu = { b with isOrigin := true, conflict := true, conflictKind := 5, conflictPort := 15 }) ∧
      ∃ t, exec (.skip h) s = .next t ∧ t = { s with bu := t.bu, latches := t.latches } ∧
        t.bu = { b with skipped := true, coordValid := false, coord := 0, coordRing := 0,
                        st := if waits then .running else b.st }) ∧
    (∀ h, h < 2 → 8 ≤ b.stage → (∃ t, exec (.origin h) s = .next t ∧ t = { s with latches := t.latches }) ∧
      ∃ t, exec (.skip h) s = .next t ∧ t = { s with latches := t.latches }) ∧
    (∀ p (x : Hello), p < 10 → s.linkOn p = true → x.flags.getLsbD 4 = false →
      let c := x.coord.toNat
      let r := x.ring.toNat
      let ax := if p < 4 then 0 else p / 2 - 1
      let step : Int := (if p = 2 ∨ p = 3 then 2 else 1) * if p % 2 = 0 then 1 else -1
      let own (a : Nat) : Nat := if a = ax then (((coordOn c a : Int) - step) % ringOn r a).toNat else coordOn c a
      ∃ t, exec (.hello p x) s = .next t ∧ t = { s with ports := t.ports, bu := t.bu } ∧
        (∀ k, k ≠ p → t.port k = s.port k) ∧ t.port p = { s.port p with nbrValid := true, nbr := some x } ∧
        (x.flags.getLsbD 0 = false ∨ b.skipped = true → t.bu = b) ∧
        (x.flags.getLsbD 0 = true → b.skipped = false → 0 < ringOn r ax → ringOn r ax ≤ [16, 32, 32, 16].getD ax 0 →
          (b.coordValid = false → t.bu.coordValid = true ∧ t.bu.coordRing = BitVec.ofNat 21 r ∧
            ∀ a < 4, coordOn t.bu.coord.toNat a = own a) ∧
          (b.coordValid = true → t.bu.coord = b.coord ∧ t.bu.coordRing = b.coordRing ∧
            (b.conflict = true → t.bu = b) ∧
            (b.conflict = false → x.port.toNat ≠ p ^^^ 1 →
              t.bu = { b with conflict := true, conflictKind := 1, conflictPort := p }) ∧
            (b.conflict = false → x.port.toNat = p ^^^ 1 → r ≠ b.coordRing.toNat →
              t.bu = { b with conflict := true, conflictKind := 2, conflictPort := p }) ∧
            (b.conflict = false → x.port.toNat = p ^^^ 1 → r = b.coordRing.toNat →
              ((∃ a < 4, own a ≠ coordOn b.coord.toNat a) →
                t.bu = { b with conflict := true, conflictKind := 3, conflictPort := p }) ∧
              ((∀ a < 4, own a = coordOn b.coord.toNat a) →
                (x.serial = s.gen.serial → t.bu = { b with conflict := true, conflictKind := 4, conflictPort := p }) ∧
                (x.serial ≠ s.gen.serial → t.bu = b)))))) ∧
    (∀ p (x : Hello), p < 10 → s.portsOn = true → (s.port p).st = .up → x.flags.getLsbD 4 = true →
      ∃ t, exec (.hello p x) s = .next t ∧ (t.port p).st = .test ∧ (t.port p).queue = [] ∧
        (t.port p).soak = some { ms := max (((s.port p).soak.map (·.ms)).getD 0) x.soakMs.toNat, failed := false } ∧
        ((s.port p).soak = none → (s.port p).incoming = none → Fits (s.port p) 1 →
          ∃ y, t.out = s.out ++ [.hello p y] ∧ y.flags.getLsbD 4 = true)) ∧
    (∀ p, p < 10 → s.portsOn = true → (s.port p).st = .up →
      (Fits (s.port p) 1 → ∃ t, exec (.helloSend p) s = .next t ∧
        t = { s with ports := t.ports, out := s.out ++ [.hello p (s.helloOf p)] } ∧ (∀ k, k ≠ p → t.port k = s.port k) ∧
        FlitSent (s.port p) (t.port p)) ∧
      (¬ Fits (s.port p) 1 → exec (.helloSend p) s = .next s))

/-! ## Casts (R340 to R350) -/

/-- SEND, RESTORE and ABORT, and the chunks of a send. (Model's choice: the steps of a send: log entry 26.) -/
def Obligations.CastSending : Prop :=
  ∀ (s : State),
    let k := s.ckp
    let cast := s.cfg.cast
    (∀ h, h < 2 → s.writable = true → s.ownedBy h = true →
      let refused (t : State) (code : BitVec 8) : Prop := t = { s with ckp := t.ckp, latches := t.latches } ∧
        t.ckp = { k with st := 5, code := code, fallback := false }
      let only (t : State) : Prop := t = { s with ckp := t.ckp, rte := t.rte, ports := t.ports, latches := t.latches }
      (k.st ≠ 1 → k.st ≠ 3 →
        (cast.sendEn = false ∨ k.genTag = 0 → ∃ t, exec (.send h) s = .next t ∧ refused t 0x02) ∧
        (cast.sendEn = true → k.genTag ≠ 0 →
          (s.quiescent = false → ∃ t, exec (.send h) s = .next t ∧ refused t 0x01) ∧
          (s.quiescent = true → ∃ t, exec (.send h) s = .next t ∧ only t ∧ t.ckp.st = 1 ∧ t.ckp.code = 0 ∧
            t.ckp.done = 0 ∧ t.ckp.total = s.chunkAddrs.length + 1 ∧
            t.ckp.sending.map (fun c => (c.n, c.sched, c.header, c.begun)) = some (k.started, s.schedule, s.castHeader, false) ∧
            t.ckp.started = k.started + 1 ∧
            Sends t fun p => p.opc = 0x40 ∧ p.tc = 3 ∧ p.dest = BitVec.ofNat 17 cast.sendTo ∧ p.payload = s.castHeader)) ∧
        (s.restorable = false → ∃ t, exec (.restore h) s = .next t ∧ refused t 0x01) ∧
        (s.restorable = true →
          (s.inSlice k.restoreFrom.toNat = false → ∃ t, exec (.restore h) s = .next t ∧ refused t 0x02) ∧
          (s.inSlice k.restoreFrom.toNat = true → ∃ t, exec (.restore h) s = .next t ∧
            t = { s with ckp := t.ckp, rte := t.rte, ports := t.ports, latches := t.latches, freeCtr := t.freeCtr } ∧
            t.ckp.st = 3 ∧ t.ckp.code = 0 ∧ t.ckp.fallback = false ∧ t.ckp.started = k.started + 1 ∧
            t.ckp.restoring.map (fun q => (q.n, q.attempt, q.holder, q.tag)) =
              some (k.started, 1, k.restoreFrom.toNat, k.genTag) ∧
            t.ckp.restoring.map (fun q => (q.meta_, q.checked)) = some ([], []) ∧
            Sends t fun p => p.opc = 0x43 ∧ p.tc = 3 ∧ p.dest = k.restoreFrom ∧
              p.payload = leBytes 8 k.genTag.toNat ++ List.replicate 8 0)) ∧
        ∃ t, exec (.abort h) s = .next t ∧ t = { s with latches := t.latches }) ∧
      (k.st = 1 ∨ k.st = 3 →
        (∃ t, exec (.send h) s = .next t ∧ t = { s with latches := t.latches }) ∧
        (∃ t, exec (.restore h) s = .next t ∧ t = { s with latches := t.latches }) ∧
        ∃ t, exec (.abort h) s = .next t ∧ t = { s with ckp := t.ckp, latches := t.latches } ∧
          t.ckp = { k with st := 5, code := 0x0A, sending := none, restoring := none })) ∧
    (∀ c i, s.live = true → k.sending = some c → c.begun = true → c.headSent = false → 1 ≤ i → i ≤ s.chunkAddrs.length →
      Tab.find? c.digests i = none → s.castOpen c.n ≤ 15 * 16384 →
      let n := s.chunkAddrs.length
      let bs := s.readPier (s.chunkAddrs.getD (i - 1) 0) chunkBytes
      let c' : CastSend := { c with digests := Tab.set c.digests i (shake256 bs 32) }
      ∃ t, exec (.castChunkDigest i) s = .next t ∧ SameStores s t ∧ SameFlags s t ∧ t.ckp.st = k.st ∧
        (∀ j < 16384, Sends t fun p => p.opc = 0x41 ∧ p.tc = 3 ∧ p.dest = BitVec.ofNat 17 cast.sendTo ∧
          p.addr = BitVec.ofNat 48 (2 ^ 26 * i + 4096 * j) ∧ p.payload = (bs.drop (4096 * j)).take 4096) ∧
        (c.digests.length < n → t.ckp = { k with sending := some c', done := k.done + 1 }) ∧
        (c.digests.length = n → t.ckp = { k with sending := some { c' with headSent := true }, done := n + 1 } ∧
          Sends t fun p => p.opc = 0x42 ∧ p.tc = 3 ∧
            p.payload = headerWith c.header 1 0 (rootDigest c.header (directory 1 s.castRegions) (c'.table n))))

/-- The holder's side: CAST_BEGIN, CAST_DATA, CAST_END, RESTORE_REQ and RESTORE_BAD. (Model's choice: the steps of
holding: log entry 26.) -/
def Obligations.CastHolding : Prop :=
  ∀ (s : State) (d : Nat) (p : Packet) (r : RecvFlow), NextIn s d p r → p.tc = 3 →
    let k := s.ckp
    let quiet (t : State) : Prop :=
      t.engines = s.engines ∧ t.courses = s.courses ∧ t.ctxs = s.ctxs ∧ t.parts = s.parts ∧ t.ls = s.ls ∧ t.cs = s.cs
    let answered (t : State) (code : Nat) : Prop := quiet t ∧ t.mem = s.mem ∧ Advanced s t d p r 0 ∧
      Sends t fun q => q.opc = 0xF1 ∧ q.arg = BitVec.ofNat 16 code ∧ q.dest = p.src
    let wrote (t : State) (a : Nat) (bs : List Byte) : Prop :=
      quiet t ∧ t.mem = (s.writePier a bs).mem ∧ Advanced s t d p r (r.ackDue + 1)
    let half := match k.receiving with
      | some h => h
      | none => if s.halfState 0 ≠ 2 then 0 else if s.halfState 1 ≠ 2 then 1
        else if s.compSeq 1 < s.compSeq 0 then 1 else 0
    (p.opc = 0x40 →
      (s.heldSender p = false ∨ k.streams ≠ 0 → ∃ t, exec (.castBegin d p) s = .next t ∧ answered t 3) ∧
      (s.heldSender p = true → k.streams = 0 → ∀ x a n, s.buddy = some x → s.halfAt half = some (a, n) →
        (fieldAt (pktPayload p) 0x20 8 + 2 ^ 26 > n → ∃ t, exec (.castBegin d p) s = .next t ∧ answered t 4) ∧
        (fieldAt (pktPayload p) 0x20 8 + 2 ^ 26 ≤ n → ∃ t m, exec (.castBegin d p) s = .next t ∧ quiet t ∧
          Advanced s t d p r (r.ackDue + 1) ∧ t.ckp.receiving = some half ∧
          t.mem = ({ s with mem := m }.writePier a ((pktPayload p).take 128)).mem ∧
          ∀ i, Mem.get m i = match x.addrOf s.gen.capPiers (i / 2 ^ 36) (i % 2 ^ 36) with
            | some b => if a ≤ b ∧ b < a + 2 ^ 26 then 0 else Mem.get s.mem i
            | none => Mem.get s.mem i))) ∧
    (p.opc = 0x41 → (k.receiving = none → ∃ t, exec (.castData d p) s = .next t ∧ answered t 3) ∧
      (∀ h a n, k.receiving = some h → s.halfAt h = some (a, n) → s.heldSender p = true →
        let o := p.addr.toNat % 2 ^ 41
        (o + p.len.toNat > n → ∃ t, exec (.castData d p) s = .next t ∧ answered t 4) ∧
        (o + p.len.toNat ≤ n → ∃ t, exec (.castData d p) s = .next t ∧ wrote t (a + o) (pktPayload p) ∧ t.ckp = k))) ∧
    (p.opc = 0x42 → ∀ h a n, k.receiving = some h → s.halfAt h = some (a, n) → s.heldSender p = true →
      let root := sliceAt (pktPayload p) 0x40 32
      let hd := s.readPier a 128
      let own := rootDigest hd (s.readPier (a + 0x1000) (32 * fieldAt hd 0x16 2))
        (s.readPier (a + 0x4000) (32 * fieldAt hd 0x28 4))
      (own = root → ∃ t, exec (.castEnd d p) s = .next t ∧
        wrote t a (headerWith (pktPayload p) 2 (k.completions + 1) root) ∧ t.ckp.completions = k.completions + 1 ∧
        t.ckp.receiving = none) ∧
      (own ≠ root → ∃ t, exec (.castEnd d p) s = .next t ∧ answered t 2 ∧
        t.ckp = { k with receiving := none })) ∧
    (p.opc = 0x43 →
      let serves := s.serveHalf (fieldAt (pktPayload p) 0 8) (fieldAt (pktPayload p) 8 1 ≠ 0)
      (s.heldSender p = false → ∃ t, exec (.restoreReq d p) s = .next t ∧ answered t 3) ∧
      (s.heldSender p = true → serves = none → ∃ t, exec (.restoreReq d p) s = .next t ∧ quiet t ∧ t.mem = s.mem ∧
        Advanced s t d p r (r.ackDue + 1) ∧ t.ckp = k ∧
        Sends t fun q => q.opc = 0x46 ∧ q.arg = 2 ∧ q.dest = p.src) ∧
      (∀ h a n, s.heldSender p = true → serves = some h → s.halfAt h = some (a, n) →
        ∃ t, exec (.restoreReq d p) s = .next t ∧ quiet t ∧ t.mem = s.mem ∧ Advanced s t d p r (r.ackDue + 1) ∧
          t.ckp = { k with streams := k.streams + 1, servedHalf := some h } ∧
          (∀ j < 256, Sends t fun q => q.opc = 0x45 ∧ q.dest = p.src ∧ q.addr = BitVec.ofNat 48 (4096 * j) ∧
            q.payload = ((s.readPier a metaBytes).drop (4096 * j)).take 4096) ∧
          (∀ c ∈ dataChunks (s.readPier a metaBytes), ∀ j < 16384, Sends t fun q => q.opc = 0x44 ∧ q.dest = p.src ∧
            q.addr = BitVec.ofNat 48 (2 ^ 47 + c.2 + 4096 * j) ∧
            q.payload = ((s.readPier (a + 2 ^ 26 * c.1) (2 ^ 26)).drop (4096 * j)).take 4096) ∧
          Sends t fun q => q.opc = 0x46 ∧ q.arg = 0 ∧ q.dest = p.src)) ∧
    (p.opc = 0x47 → s.heldSender p = true → ∀ a n, s.halfAt (p.arg.toNat % 2) = some (a, n) →
      ∃ t, exec (.restoreBad d p) s = .next t ∧ wrote t (a + 6) [0])

/-- The requester's side of a restore, up to the schedule block; the holder asked and the generation wanted are those of
its start. A failed attempt, for a digest, a header that is not this module's or a RESTORE_END with ARG 1, sends
RESTORE_BAD; the first is followed by the fallback, and after the second the restore fails with DIGEST. (Model's choice: the steps of a restore: log entry 26.) -/
def Obligations.CastRestoring : Prop :=
  ∀ (s : State) (q : Restoring), s.ckp.restoring = some q → s.ckp.st = 3 →
    let k := s.ckp
    let quiet (t : State) : Prop := t.engines = s.engines ∧ t.courses = s.courses ∧ t.ctxs = s.ctxs ∧
      t.parts = s.parts ∧ t.mslots = s.mslots ∧ t.keys = s.keys ∧ t.ls = s.ls ∧ t.cs = s.cs
    let failed (t : State) (code : BitVec 8) : Prop :=
      t.ckp = { k with st := 5, code := code, sending := none, restoring := none }
    let again (t : State) : Prop := t.ckp.st = 3 ∧ t.ckp.fallback = true ∧
      t.ckp.restoring.map (fun x => (x.attempt, x.half)) = some (2, !q.half) ∧
      t.ckp.restoring.map (fun x => (x.holder, x.tag)) = some (q.holder, q.tag) ∧
      Sends t (fun p => p.opc = 0x47 ∧ p.dest = BitVec.ofNat 17 q.holder ∧ p.arg = if q.half then 1 else 0) ∧
      Sends t fun p => p.opc = 0x43 ∧ p.dest = BitVec.ofNat 17 q.holder ∧
        p.payload = leBytes 8 q.tag.toNat ++ [1, 0, 0, 0, 0, 0, 0, 0]
    let lost (t : State) : Prop := (q.attempt < 2 → again t) ∧
      (2 ≤ q.attempt → failed t 0x08 ∧
        Sends t fun p => p.opc = 0x47 ∧ p.dest = BitVec.ofNat 17 q.holder ∧ p.arg = if q.half then 1 else 0)
    (∀ d p r, NextIn s d p r → p.src.toNat = q.holder →
      let good (t : State) : Prop := quiet t ∧ Advanced s t d p r (r.ackDue + 1)
      (p.opc = 0x45 →
        let o := p.addr.toNat % 2 ^ 20
        let q' : Restoring := { q with meta_ := Mem.write q.meta_ o ((pktPayload p).take (metaBytes - o)) }
        let m := Mem.read q'.meta_ 0 metaBytes
        (q.skip = true → ∃ t, exec (.restoreMeta d p) s = .next t ∧ good t ∧ t.mem = s.mem ∧ t.ckp = k) ∧
        (q.skip = false → ∃ t, exec (.restoreMeta d p) s = .next t ∧ good t ∧ t.mem = s.mem ∧
          (o + p.len.toNat < metaBytes → t.ckp = { k with restoring := some q' }) ∧
          (o + p.len.toNat ≥ metaBytes →
            let mine : Prop := fieldAt m 0 4 = 0x54534143 ∧ fieldAt m 4 2 = 1 ∧ fieldAt m 6 1 = 2 ∧
              fieldAt m 0x10 4 % 2 ^ 17 = s.cfg.slice.nodeId.toNat
            (¬ mine → lost t) ∧
            (mine → s.directoryOk m = false → failed t 0x09) ∧
            (mine → s.directoryOk m = true → rootOf m ≠ sliceAt m 0x40 32 → lost t) ∧
            (mine → s.directoryOk m = true → rootOf m = sliceAt m 0x40 32 →
              t.ckp = { k with total := fieldAt m 0x28 4, restoring := some { q' with metaOk := true } })))) ∧
      (p.opc = 0x44 → q.skip = false → ∀ a x, addrLoc p.addr = some (.pier a) →
        s.castRegions.find? (fun y => y.base ≤ a && a < y.base + y.size) = some x → a + p.len.toNat ≤ x.base + x.size →
        ∃ t, exec (.restoreData d p) s = .next t ∧ good t ∧ t.mem = (s.writePier a (pktPayload p)).mem ∧
          t.ckp = { k with restoring := some { q with
            written := q.written ++ ((s.chunkAddrs.findIdx? fun c => c + 2 ^ 26 = a + p.len.toNat).map (· + 1)).toList } }) ∧
      (p.opc = 0x46 → ∃ t, exec (.restoreEnd d p) s = .next t ∧ good t ∧ t.mem = s.mem ∧
        (q.skip = true → t.ckp = { k with restoring := some { q with skip := false } }) ∧
        (q.skip = false → p.arg = 2 → failed t 0x07) ∧
        (q.skip = false → p.arg = 1 → lost t) ∧
        (q.skip = false → p.arg = 0 → q.metaOk = true → t.ckp = { k with restoring := some { q with ended := true } }) ∧
        (q.skip = false → p.arg = 0 → q.metaOk = false → lost t))) ∧
    (∀ i, s.live = true → q.metaOk = true → i ∉ q.checked → (i = 0 ∨ i ∈ q.written) →
      let m := Mem.read q.meta_ 0 metaBytes
      let bs := if i = 0 then sliceAt m 0x80000 0x80000 else s.readPier (s.chunkAddrs.getD (i - 1) 0) chunkBytes
      ∃ t, exec (.restoreChunkDigest i) s = .next t ∧ quiet t ∧ t.mem = s.mem ∧
        (shake256 bs 32 = sliceAt m (0x4000 + 32 * i) 32 →
          t.ckp = { k with done := k.done + 1, restoring := some { q with checked := q.checked ++ [i] } }) ∧
        (shake256 bs 32 ≠ sliceAt m (0x4000 + 32 * i) 32 → lost t)) ∧
    (s.live = true → q.metaOk = true → q.ended = true → (∀ i ≤ s.chunkAddrs.length, i ∈ q.checked) →
      let m := Mem.read q.meta_ 0 metaBytes
      let sch := sliceAt m 0x80000 0x80000
      ∃ t, exec .restoreApply s = .next t ∧ SameStores s t ∧ t.ckp.st = 4 ∧ t.ckp.code = 0 ∧ t.ckp.restoring = none ∧
        t.ckp.resultTag = BitVec.ofNat 64 (fieldAt m 8 8) ∧ t.ckp.restored = min (k.restored + 1) (2 ^ 64 - 1) ∧
        (∀ n < 1024, (t.ctx n).enable = false ∧ (t.ctx n).live = 0 ∧ (t.ctx n).faultValid = false ∧
          (t.ctx n).dbErr = false ∧ (t.ctx n).head = BitVec.ofNat 32 (fieldAt sch (0x40 * n + 0x10) 4) ∧
          (t.ctx n).faultSeq = BitVec.ofNat 32 (fieldAt sch (0x40 * n + 0x20) 4) ∧
          (t.ctx n).tail = BitVec.ofNat 32 (fieldAt sch (0x40 * n + 0x14) 4)) ∧
        (∀ n < 128, (t.mslot n).mb = BitVec.ofNat 32 (fieldAt sch (0x10000 + 0x20 * n + 4) 4) ∧
          (t.mslot n).arm = bit (fieldAt sch (0x10000 + 0x20 * n + 8) 8) 31) ∧
        (∀ n < 16, t.key n = { s.key n with
          phase := BitVec.ofNat 32 (fieldAt sch (0x11000 + 0x20 * n) 4), expect := fieldAt sch (0x11000 + 0x20 * n + 8) 4,
          count := 0, reports := [], shareDone := false }) ∧
        ∀ e < 2048, ∀ f < 48, t.flagVal e f = BitVec.ofNat 32 (fieldAt sch (0x12000 + 192 * e + 4 * f) 4))

/-! ## Rungs 2 and 3 (R329 to R331) -/

/-- CKP_PART_RESET starts rung 2 on the partitions of its host port that it names; the end of rung 2 leaves the
partition's engines, hods, contexts, slots and windows as R329 says, and everything that R330 names as it was. (Model's
choice: CAUSE 0 and NO_ENGINE: log entry 27.) -/
def Obligations.PartitionReset : Prop :=
  ∀ (s : State),
    (∀ (h : Nat) (v : W32), h < 2 → s.writable = true →
      let starts (p : Nat) : Prop := v.getLsbD p = true ∧ (s.partCfg p).isSome = true ∧ s.hostOf p = h ∧
        (s.part p).resetBusy = false
      ∃ t, exec (.ckpPartReset h v) s = .next t ∧
        t = { s with ckp := t.ckp, parts := t.parts, engines := t.engines, latches := t.latches } ∧
        (∀ p < 8, starts p → t.part p = { s.part p with
          resetBusy := true, halted := true,
          haltCause := if (s.part p).halted then (s.part p).haltCause else 0,
          haltEngine := if (s.part p).halted then (s.part p).haltEngine else 0,
          haltNoEngine := if (s.part p).halted then (s.part p).haltNoEngine else true }) ∧
        (∀ p < 8, ¬ starts p → t.part p = s.part p) ∧
        (∀ e, t.eng e = { s.eng e with copies := (t.eng e).copies }) ∧
        (∀ e p, s.partOfEngine e = some p → p < 8 → starts p → ∀ o ∈ (t.eng e).copies, o.reset = true) ∧
        ((s.ckp.st = 1 ∨ s.ckp.st = 3) → (∃ p < 8, starts p) →
          t.ckp = { s.ckp with st := 5, code := 0x0A, sending := none, restoring := none })) ∧
    (∀ p, p < 8 → s.live = true → (s.part p).resetBusy = true →
      (∀ x ∈ s.engines, s.partOfEngine x.1 = some p → x.2.copies = []) →
      ∃ t, exec (.partResetDone p) s = .next t ∧ SameStores s t ∧ t.cfg = s.cfg ∧ t.ports = s.ports ∧
        t.rte = { s.rte with recv := s.rte.recv.map fun r =>
          { r with holds := r.holds.filter fun c => decide (s.partOfCourse c ≠ some p) } } ∧
        t.ckp = s.ckp ∧ (∀ k, k ≠ p → t.part k = s.part k) ∧
        t.part p = { s.part p with
          halted := false, haltCause := 0, haltEngine := 0, haltNoEngine := false, planLock := false, carrying := none,
          served := [], resetBusy := false } ∧
        (∀ e, s.partOfEngine e = some p → t.eng e = { s.eng e with
          act := if (s.eng e).act = .disabled then .disabled else .idle, g := [], v := [], bufs := [], accs := [],
          flags := [], pc := 0, item := none, rehomed := none, numstat := 0, contrib := none, flushes := [],
          spawns := [], undo := [], reexecItem := none, copies := [], nets := [] }) ∧
        (∀ e, s.partOfEngine e ≠ some p → t.eng e = s.eng e) ∧
        (∀ c, s.partOfCourse c = some p → t.crs c = { s.crs c with
          hod := [], rslots := [], heldAdds := [], heldSubs := [], peak := 0 }) ∧
        (∀ c, s.partOfCourse c ≠ some p → t.crs c = s.crs c) ∧
        (∀ n, s.partOfCtx n = some p → t.ctx n = { Ctx.reset with
          ring := (s.ctx n).ring, ringOrder := (s.ctx n).ringOrder, prio := (s.ctx n).prio, eval := (s.ctx n).eval,
          slot := (s.ctx n).slot }) ∧
        (∀ n, s.partOfCtx n ≠ some p → t.ctx n = s.ctx n) ∧
        (∀ k, s.partOfSlot k = some p → t.mslot k = { s.mslot k with arm := false }) ∧
        (∀ k, s.partOfSlot k ≠ some p → t.mslot k = s.mslot k) ∧
        (∀ k < 16, (s.key k).owner = p → (t.key k).phase = 0 ∧ (t.key k).count = 0 ∧ (t.key k).reports = [] ∧
          (t.key k).expect = (s.key k).expect) ∧
        (∀ w < 8, t.ofl p w = { s.ofl p w with arm := false, busy := false, copy := none, sent := false, next := [] }) ∧
        (t.chan (s.hostOf p) false (1 + p)).go = false ∧ (s.hostOf p, false, 1 + p) ∈ t.clearedNow) ∧
    (∀ p x, p < 8 → x ∈ s.engines → s.partOfEngine x.1 = some p → x.2.copies ≠ [] →
      exec (.partResetDone p) s = .next s)

/-- CKP_MOD_RESET with KEY 0xA5 starts rung 3: bring-up stands at BU1 with pier contents, the report log, the sequence
high-water mark, the open counters, the links and the other requesters' latches kept, and configuration, engines,
contexts, flows and tables gone. Any other value does nothing, and so does a request while rung 3 runs. (Model's choice:
while rung 3 runs: log entry 27; a cleared channel takes no GO of the same cycle, and which cycle that is: log entry 4.) -/
def Obligations.ModuleReset : Prop :=
  ∀ (s : State) (r : Requester) (v : W32), s.masonUp = true → s.ownerOrBus r = true →
    (v.toNat % 256 = 0xA5 → (s.bu.rung3 = false ∨ s.bu.st = .failed ∨ s.bu.st = .ready) →
      ∃ t, exec (.ckpModReset r v) s = .next t ∧ SameStores s t ∧
        t.bu = { Bu.reset with stage := 1, stageStart := s.gen.time, log := s.bu.log, logCount := s.bu.logCount,
                               strapWord := s.bu.strapWord, rung3 := true } ∧
        t.cfg = Cfg.reset ∧ t.bond = { Bond.reset with highWater := s.bond.highWater } ∧
        t.rte = { Rte.reset with openCtr := s.rte.openCtr } ∧ t.ckp = Ckp.reset ∧ t.frz = Frz.reset ∧
        t.gen.time = s.gen.time ∧ t.gen.serial = s.gen.serial ∧ t.gen.feedId = s.gen.feedId ∧
        t.pwr.lossValid = s.pwr.lossValid ∧ t.pwr.lossCause = s.pwr.lossCause ∧ t.pwr.seq = s.pwr.seq ∧
        t.pwr.rails = [] ∧ t.pwr.temps = [] ∧ t.pwr.tempsValid = false ∧ t.pwr.vin = 0 ∧ t.pwr.capW = 2400 ∧
        t.sec.records = s.sec.records ∧ t.sec.arb = s.sec.arb ∧ t.sec.seed = none ∧ t.sec.block = none ∧
        t.sec.repairs = [] ∧ t.pwr.peak = [] ∧ t.pwr.peakNow = 0 ∧ t.latches = Tab.erase s.latches (reqIdx r) ∧
        (∀ h < 2, (∀ n < 12, (h, false, n) ∈ t.clearedNow) ∧ ∀ n < 4, (h, true, n) ∈ t.clearedNow) ∧
        (∀ e, t.eng e = Engine.reset) ∧ (∀ c, t.crs c = Course.reset) ∧ (∀ n, t.ctx n = Ctx.reset) ∧
        (∀ k, t.key k = KeyLine.reset) ∧ (∀ p, t.part p = Part.reset) ∧
        (∀ p, t.port p = { Port.reset with
          fitted := (s.port p).fitted, light := (s.port p).light, lightUnit := (s.port p).lightUnit }) ∧
        ∀ h, t.host h = { s.host h with
          dbDrop := 0, bar4Refused := 0, ns := [], sec := [], secBuf := [], secKind := 0 }) ∧
    (v.toNat % 256 ≠ 0xA5 ∨ (s.bu.rung3 = true ∧ s.bu.st ≠ .failed ∧ s.bu.st ≠ .ready) →
      ∃ t, exec (.ckpModReset r v) s = .next t ∧ t = { s with latches := t.latches })

/-! ## Freeze, debug reads and JTAG (R371 to R376) -/

/-- The triggers latch; while core power is on the clocks stop, what a port is sending is abandoned, and what FREEZE lets
be read is kept; a debug read reads only while the module is frozen, and one of a course's stores wakes the course; the
JTAG instructions, DBG_REQ with code 0x40 and DBG_DATA with 0x41 among them. (Model's choice: what an abandoned packet
leaves, debug reads and the code of BYPASS: log entries 14 and 23.) -/
def Obligations.FreezeAndDebug : Prop :=
  ∀ (s : State),
    let z := s.frz
    let late := z.latched = true ∧ z.latchedAt ≠ s.gen.time
    (∀ (r : Requester) (v : W32), s.writable = true → s.ownerOrBus r = true →
      ∃ t, exec (.frzCtrl r v) s = .next t ∧ t = { s with frz := t.frz, latches := t.latches } ∧
        t.frz = if v.toNat % 256 = 0x5A ∧ ¬ late then { z with host := true, latched := true, latchedAt := s.gen.time }
          else z) ∧
    (s.pwr.seq = .on → exec .frzNAssert s = .next
      { s with gen := { s.gen with frzN := false },
               frz := if z.frozen = true ∨ late then z else { z with pin := true, latched := true, latchedAt := s.gen.time } }) ∧
    (z.latched = true → s.pwr.seq = .on → ∃ t, exec .freeze s = .next t ∧
      t = { s with ports := t.ports, frz := t.frz, out := t.out, freeCtr := t.freeCtr } ∧
      t.frz = { z with
        latched := false, frozen := true,
        held := some { hosts := s.hosts, bond := s.bond, sec := s.sec, ports := t.ports, bu := s.bu, doms := s.doms,
                       mcs := s.mcs } } ∧
      t.out = s.out ++ ((List.range 10).filter fun p => (s.port p).st = .up).map (fun p =>
        .idle p s.hbCount (s.ready && s.cfg.slice.freezeWave) true) ∧
      ∀ p < 10, if (s.port p).st = .up then
          FlitSent { s.port p with cut := [], txSent := (t.port p).txSent, txFlits := (t.port p).txFlits } (t.port p) ∧
          ((s.port p).cut = [] → FlitSent (s.port p) (t.port p))
        else t.port p = s.port p) ∧
    (z.latched = false ∨ s.pwr.seq ≠ .on → exec .freeze s = .next s) ∧
    let course (sp : BitVec 2) (a : W64) : Nat := if sp = 1 then a.toNat / 2 ^ 22 else a.toNat / 2 ^ 24
    let wakes (sp : BitVec 2) (a : W64) : Prop := z.frozen = true ∧ (sp = 1 ∨ sp = 2) ∧ course sp a < 64
    let woken (t : State) (go : Bool) (sp : BitVec 2) (a : W64) : Prop :=
      (go = true → wakes sp a → Woken s t (course sp a)) ∧
      (go = false ∨ ¬ wakes sp a → t.doms = s.doms ∧ t.pwr = s.pwr)
    (∀ (r : Requester) (v : W32), s.masonUp = true → s.ownerOnly r = true →
      ∃ t, exec (.dbgGo r v) s = .next t ∧
        t = { s with frz := t.frz, latches := t.latches, doms := t.doms, pwr := t.pwr } ∧
        woken t (v.getLsbD 0) (v.extractLsb' 8 2) z.addr ∧
        t.frz = if v.getLsbD 0 then
            { z with space := v.extractLsb' 8 2, goPending := true, goOk := z.frozen, doneBit := false, err := 0 }
          else { z with space := v.extractLsb' 8 2 }) ∧
    (∀ ue, z.goPending = true →
      let ended (err : Nat) (data : List Byte) : State :=
        { s with frz := { z with goPending := false, doneBit := true, err := err, data := data } }
      (z.goOk = false → exec (.dbgReadDone ue) s = .next (ended 1 z.data)) ∧
      (z.goOk = true →
        (z.addr.toNat % 256 ≠ 0 → exec (.dbgReadDone ue) s = .next (ended 2 z.data)) ∧
        (∀ p o, p < 32 → o < 2 ^ 36 → o % 256 = 0 → z.space = 0 → z.addr.toNat = 2 ^ 36 * p + o → (s.pier p).trained = true →
          o + 256 ≤ 12582912 * 4096 →
          exec (.dbgReadDone ue) s = .next (if ue then ended 3 z.data else ended 0 (Mem.read s.mem (2 ^ 36 * p + o) 256))) ∧
        (∀ c o, c < 64 → o < 2 ^ 22 → o % 256 = 0 → z.space = 1 → z.addr.toNat = 2 ^ 22 * c + o →
          exec (.dbgReadDone ue) s = .next (
            if (s.dom c).held ∨ (s.dom c).level = 5 then ended 2 z.data
            else ended 0 (Mem.read s.cs (2 ^ 22 * c + o) 256))) ∧
        (∀ e o, e < 2048 → o < 2 ^ 19 → o % 256 = 0 → z.space = 2 → z.addr.toNat = 2 ^ 19 * e + o →
          exec (.dbgReadDone ue) s = .next (
            if (s.dom (e / 32)).held ∨ (s.dom (e / 32)).level = 5 ∨ 0x60000 < o + 256 then ended 2 z.data
            else ended 0 (Mem.read s.ls (2 ^ 19 * e + o) 256))) ∧
        (∀ e, e < 2048 → z.space = 3 → z.addr.toNat = 2 ^ 13 * e → (s.dom (e / 32)).held = false →
          (s.dom (e / 32)).level ≠ 5 → ∃ t, exec (.dbgReadDone ue) s = .next t ∧ t = ended 0 t.frz.data ∧
            ∀ i < 32, fieldAt t.frz.data (8 * i) 8 = (Tab.get (0 : W64) (s.eng e).g i).toNat))) ∧
    (s.pwr.inputOn = true →
      (∀ dr : BitVec 72, ∃ t, exec (.dbgReq dr) s = .next t ∧
        woken t (dr.getLsbD 66) (dr.extractLsb' 64 2) (dr.extractLsb' 0 64) ∧ t = { s with
        doms := t.doms, pwr := t.pwr, jtag := { s.jtag with ir := 0x40, drive := false },
        frz := if dr.getLsbD 66 then
            { z with addr := dr.extractLsb' 0 64, space := dr.extractLsb' 64 2, goPending := true, goOk := z.frozen,
                     doneBit := false, err := 0 }
          else { z with addr := dr.extractLsb' 0 64, space := dr.extractLsb' 64 2 } }) ∧
      (∃ bs, exec .dbgData s = .next
          { s with jtag := { s.jtag with ir := 0x41, drive := false }, out := s.out ++ [.jtag bs] } ∧ bs.length = 257 ∧
        (z.err < 4 → fieldAt bs 0 1 = (if z.doneBit then 2 else 0) + 4 * z.err) ∧
        (z.data.length = 256 → bs.drop 1 = z.data)) ∧
      exec .bypass s = .next
        { s with jtag := { s.jtag with ir := 0xFF, drive := false }, out := s.out ++ [.jtag [0]] } ∧
      ∀ pins shifted,
        exec (.samplePreload pins shifted) s = .next
          { s with jtag := { ir := Config.irSample, boundary := shifted, drive := false },
                   out := s.out ++ [.jtag (leBytes 2 pins.toNat)] } ∧
        exec (.extest pins shifted) s = .next
          { s with jtag := { ir := Config.irExtest, boundary := shifted, drive := true },
                   out := s.out ++ [.jtag (leBytes 2 pins.toNat)] })

/-! ## Registers and the windows (R12 to R16, R237, R296, R356, R374, R398 to R401, R409, R417) -/

/-- Reads of BAR0: the low half fills the requester's latch, the high half reads it back and empties it, 8 bytes read a
64-bit register whole, an RC register clears the requester's own value, and an address that no register holds, a size
other than 4 and 8, and a misaligned read, read zero. A doorbell reads back its tail in BAR2, and the configuration header
reads as it is laid down. (Model's choice: 8 bytes over two 32-bit registers, and where BAR2 and configuration space stand
among the addresses: log entries 32 and 36.) -/
def Obligations.RegisterReads : Prop :=
  ∀ (s : State) (r : Requester), (if r = .smb then s.pwr.inputOn = true else s.pwr.seq = .on) →
    let q := reqIdx r
    let gone := Tab.erase s.latches q
    let read (a v : Nat) : List Out := s.out ++ [.regRead r a (BitVec.ofNat 64 v)]
    (∀ a v, a < 2 ^ 26 → a % 4 = 0 → s.regAt q a = some (a, 8, v) →
      exec (.lowHalfRead r ⟨a, 4⟩) s = .next
        { s with out := read a (v % 2 ^ 32), latches := Tab.set gone q (a, BitVec.ofNat 32 (v / 2 ^ 32)) }) ∧
    (∀ a v, a + 4 < 2 ^ 26 → a % 4 = 0 → s.regAt q (a + 4) = some (a, 8, v) →
      (∀ hi, Tab.find? s.latches q = some (a, hi) →
        exec (.highHalfRead r ⟨a + 4, 4⟩) s = .next { s with out := read (a + 4) hi.toNat, latches := gone }) ∧
      ((∀ hi, Tab.find? s.latches q ≠ some (a, hi)) →
        exec (.highHalfRead r ⟨a + 4, 4⟩) s = .next
          { s with out := read (a + 4) (v / 2 ^ 32 % 2 ^ 32), latches := gone })) ∧
    (s.masonUp = true →
      exec (.rcRead r ⟨0x20010, 4⟩) s = .next
        { s with out := read 0x20010 (Tab.get 0 s.pwr.peak q), latches := gone,
                 pwr := { s.pwr with peak := Tab.put 0 s.pwr.peak q 0 } } ∧
      exec (.rcRead r ⟨0x20014, 4⟩) s = .next
        { s with out := read 0x20014 (Tab.get 0 s.pwr.wakeMax q), latches := gone,
                 pwr := { s.pwr with wakeMax := Tab.put 0 s.pwr.wakeMax q 0 } } ∧
      exec (.rcRead r ⟨0x20010, 8⟩) s = .next
        { s with out := read 0x20010 (Tab.get 0 s.pwr.peak q + 2 ^ 32 * Tab.get 0 s.pwr.wakeMax q), latches := gone,
                 pwr := { s.pwr with peak := Tab.put 0 s.pwr.peak q 0, wakeMax := Tab.put 0 s.pwr.wakeMax q 0 } }) ∧
    (s.masonUp = false → q < 2 → ∀ a size, (a = 0x20010 ∧ (size = 4 ∨ size = 8) ∨ a = 0x20014 ∧ size = 4) →
      exec (.rcRead r ⟨a, size⟩) s = .next { s with out := read a 0, latches := gone }) ∧
    (∀ a, a < 2 ^ 26 → a % 8 = 0 →
      (∀ v, s.regAt q a = some (a, 8, v) →
        exec (.lowHalfRead r ⟨a, 8⟩) s = .next { s with out := read a v, latches := gone }) ∧
      (∀ v w, a ≠ 0x20010 → s.regAt q a = some (a, 4, v) → s.regAt q (a + 4) = some (a + 4, 4, w) →
        exec (.lowHalfRead r ⟨a, 8⟩) s = .next { s with out := read a (v + 2 ^ 32 * w), latches := gone })) ∧
    (∀ a size, a < 2 ^ 26 → size ≠ 4 ∧ size ≠ 8 ∨ a % size ≠ 0 ∨ size = 4 ∧ s.regAt q a = none →
      exec (.lowHalfRead r ⟨a, size⟩) s = .next { s with out := read a 0, latches := gone }) ∧
    (∀ h, h < 2 → r = portReq h →
      (∀ n size, n < 1024 → size = 4 ∨ size = 8 → s.partOfCtx n ≠ none → s.reaches (s.partOfCtx n) h = true →
        exec (.lowHalfRead r ⟨2 ^ 26 + 8 * n, size⟩) s =
          .next { s with out := read (2 ^ 26 + 8 * n) (s.ctx n).tail.toNat }) ∧
      ((s.host h).perst = false → (s.host h).linkUp = true →
        ∀ x ∈ [(0x00, 0x4D101E6A), (0x08, 0x12000000 + s.gen.silicon.toNat), (0x2C, 0x1E6A + 2 ^ 16 * (s.gen.part + 1)),
               (0x150, s.gen.serial.toNat / 2 ^ 32)],
          exec (.lowHalfRead r ⟨2 ^ 27 + x.1, 4⟩) s = .next { s with out := read (2 ^ 27 + x.1) (x.2 % 2 ^ 32) })) ∧
    (q < 2 → s.regAt q 8 = some (8, 8, s.gen.serial.toNat) ∧
      (s.frz.frozen = false → s.frz.held = none → s.masonUp = true →
        s.regAt q 0x400008 = some (0x400008, 8, s.ckp.genTag.toNat)))

/-- Writes of registers: through whom, in which widths, and what each field takes; a bit that a write of 1 clears stays
set where an event of the same cycle sets it (R15; which cycle that is: log entry 4). The pier-space window: reads and
writes of a span that the host port may reach, those of one that it may not, the buddy area, cast regions during a cast,
and a frozen module. (Model's choice: widths and refusals: log entries 32 and 33; the places of Command and PMCSR in
configuration space: log entry 36; that a write of D3hot enters L1: log entry 13.) -/
def Obligations.RegisterWritesAndPierWindow : Prop :=
  (∀ (s : State) (h : Nat), h < 2 → s.pwr.seq = .on →
     let r := portReq h
     let gone := Tab.erase s.latches (reqIdx r)
     let owner := s.writable = true ∧ s.ownedBy h = true
     (∀ a size v, a < 2 ^ 26 → (size = 4 ∧ a % 4 ≠ 0 ∨ size = 8 ∧ a % 8 ≠ 0 ∨ size ≠ 4 ∧ size ≠ 8) →
       exec (.registerWrite r a size v) s = .next { s with latches := gone }) ∧
     (∀ v : W64,
       exec (.registerWrite r 0x400008 8 v) s = .next
         { s with ckp := { s.ckp with genTag := if owner then v else s.ckp.genTag }, latches := gone } ∧
       exec (.registerWrite r 0x40000C 4 v) s = .next
         { s with latches := gone, ckp := { s.ckp with
           genTag := if owner then v.extractLsb' 0 32 ++ s.ckp.genTag.extractLsb' 0 32 else s.ckp.genTag } } ∧
       exec (.registerWrite r 0x400088 4 v) s = .next
         { s with latches := gone, pwr := { s.pwr with
           lossValid := s.pwr.lossValid && (!(decide owner && v.getLsbD 2) || s.setNow.contains .ckpLoss) } } ∧
       exec (.registerWrite r 0x200008 4 v) s = .next
         { s with latches := gone, rte := { s.rte with
           retxUs := if owner ∧ 50 ≤ v.toNat % 2 ^ 16 ∧ v.toNat % 2 ^ 16 ≤ 10000 then v.toNat % 2 ^ 16 else s.rte.retxUs,
           retries := if owner ∧ v.toNat / 2 ^ 16 % 16 ≠ 0 then v.toNat / 2 ^ 16 % 16 else s.rte.retries } }) ∧
     (∀ n (v : W64), n < 1024 → s.live = true → s.reaches (s.partOfCtx n) h = true →
       ∃ t, exec (.registerWrite r (0x80008 + 0x40 * n) 8 v) s = .next t ∧
         t = { s with ctxs := t.ctxs, latches := gone } ∧ (∀ m, m ≠ n → t.ctx m = s.ctx m) ∧
         t.ctx n = { s.ctx n with ring := if (s.ctx n).enable then (s.ctx n).ring else v &&& ~~~(0x3E : W64) }) ∧
     (∀ n (v : W64), n < 1024 → s.live = true → s.reaches (s.partOfCtx n) h = true →
       ∃ t, exec (.registerWrite r (0x80018 + 0x40 * n) 4 v) s = .next t ∧
         t = { s with ctxs := t.ctxs, latches := gone } ∧ (∀ m, m ≠ n → t.ctx m = s.ctx m) ∧
         t.ctx n = { s.ctx n with numstat := (t.ctx n).numstat } ∧
         ∀ i < 3, (t.ctx n).numstat.getLsbD i =
           ((s.ctx n).numstat.getLsbD i && (!v.getLsbD i || s.setNow.contains (.ctxNumstat n i)))) ∧
     (∀ ch i (v : W64), ch < 12 → i < 16 →
       ∃ t, exec (.registerWrite r (2 ^ 26 + 0x4000 + 0x80 * ch + 4 * i) 4 v) s = .next t ∧ t = { s with hosts := t.hosts } ∧
         t.chan h false ch = { s.chan h false ch with
           data := if (s.chan h false ch).go then (s.chan h false ch).data
             else Tab.put 0 (s.chan h false ch).data i (v.extractLsb' 0 32) }) ∧
     (∀ v : W64, ∃ t, exec (.genBar4BaseWrite h v) s = .next t ∧ t = { s with hosts := t.hosts, latches := gone } ∧
       (∀ k, k ≠ h → t.host k = s.host k) ∧
       t.host h = { s.host h with
         bar4Base := if s.writable = true ∧ v.toNat % 2 ^ 26 = 0 ∧ v.toNat ≤ 2 ^ 41 - 2 ^ 36 then v.setWidth 41
           else (s.host h).bar4Base }) ∧
     ((s.host h).perst = false → (s.host h).linkUp = true → ∀ v : W64,
       let only (t : State) : Prop := t = { s with hosts := t.hosts } ∧ ∀ k, k ≠ h → t.host k = s.host k
       (v.getLsbD 2 = false → ∃ t, exec (.registerWrite r (2 ^ 27 + 4) 2 v) s = .next t ∧ only t ∧
         (t.host h).bme = false ∧ (t.host h).space.memEn = v.getLsbD 1) ∧
       (v.toNat % 4 = 3 → ∃ t, exec (.registerWrite r (2 ^ 27 + 0x44) 4 v) s = .next t ∧ only t ∧
         t.host h = { s.host h with d3hot := true, l1 := true }))) ∧
  (∀ (s : State) (h off : Nat), h < 2 → s.pwr.seq = .on →
     let a := (s.host h).bar4Base.toNat + off
     let counted (t : State) : Prop := (t.host h).bar4Refused = min ((s.host h).bar4Refused + 1) 0xFFFFFFFF
     let mine (n : Nat) : Prop := 0 < n ∧ ∃ g, s.regionAt a = some g ∧ a + n ≤ g.base + g.size ∧
       (g.buddy = true ∨ g.owner = 0xFF ∨ ((s.partCfg g.owner).isSome = true ∧ s.hostOf g.owner = h))
     (∀ n, mine n → off + n ≤ 2 ^ 36 → s.frz.frozen = false → ∃ t, exec (.bar4Read h off n) s = .next t ∧ SameStores s t ∧
       t.hosts = s.hosts ∧ t.out = s.out ++ [.bar4 h (some (s.readPier a n))]) ∧
     (∀ n, off + n ≤ 2 ^ 36 → s.frz.frozen = true ∨ (0 < n ∧ s.regionAt a = none) →
       ∃ t, exec (.bar4Read h off n) s = .next t ∧
         t = { s with hosts := t.hosts, freeCtr := t.freeCtr, out := s.out ++ [.bar4 h none] } ∧ counted t ∧
         (t.host h).space.aerStatus = (s.host h).space.aerStatus ||| 2 ^ 15) ∧
     (∀ bs, mine bs.length → off + bs.length ≤ 2 ^ 36 → s.frz.frozen = false →
       (s.touches (·.buddy) a bs.length = false → (s.ckp.st = 1 ∨ s.ckp.st = 3 → s.touches (·.cast) a bs.length = false) →
         ∃ t, exec (.bar4Write h off bs) s = .next t ∧ SameStores (s.writePier a bs) t ∧ t.hosts = s.hosts) ∧
       (s.touches (·.buddy) a bs.length = true → ∃ t, exec (.bar4Write h off bs) s = .next t ∧
         t = { s with hosts := t.hosts } ∧ counted t) ∧
       (s.touches (·.buddy) a bs.length = false → (s.ckp.st = 1 ∨ s.ckp.st = 3) → s.touches (·.cast) a bs.length = true →
         exec (.bar4Write h off bs) s = .next s)) ∧
     (∀ bs, s.frz.frozen = true → exec (.bar4Write h off bs) s = .next s))

/-! ## Mailboxes (R409 to R415, R427 to R437) -/

/-- GO and TAKE, the order in which a core takes messages, the command that it runs for each opcode, ECHO and
PATH_ECHO; a GO does not count on a channel that a reset has cleared in the same cycle. (Model's choice: replies the
rules leave open: log entry 11; which cycle that is: log entry 4.) -/
def Obligations.Mailboxes : Prop :=
  ∀ (s : State),
    (∀ h sec ch, h < 2 → ch < (if sec then 4 else 12) → s.pwr.seq = .on →
      let x := s.chan h sec ch
      (x.go = false → (sec = true ∨ ch ≠ 0) → (h, sec, ch) ∉ s.clearedNow →
        ∃ t, exec (.mbGo h sec ch) s = .next t ∧ t = { s with hosts := t.hosts } ∧
        t.chan h sec ch = { x with go := true, fromMod := false }) ∧
      (x.go = true ∨ (sec = false ∧ ch = 0) ∨ (h, sec, ch) ∈ s.clearedNow → exec (.mbGo h sec ch) s = .next s) ∧
      (x.fromMod = true → ∃ t, exec (.take h sec ch) s = .next t ∧ t = { s with hosts := t.hosts } ∧
        t.chan h sec ch = { x with go := false, fromMod := false }) ∧
      (x.fromMod = false → exec (.take h sec ch) s = .next s)) ∧
    (∀ sec nonce i, s.masonUp = true →
      let n := if sec then 4 else 12
      let at_ (j : Nat) : Nat := ((if sec then s.sec.lastS else s.sec.lastG) + 1 + j) % (2 * n)
      let x (j : Nat) : Chan := s.chan (at_ j / n) sec (at_ j % n)
      ((∀ j < 2 * n, (x j).waits = false) → exec (.mailboxTake sec nonce) s = .next s) ∧
      (i < 2 * n → (∀ j < i, (x j).waits = false) → (x i).waits = true →
        let o := (x i).opcode
        (sec = false → 9 ≤ at_ i % n → o ≠ 1 → o ≠ 2 → o ≠ 3 → o ≠ 0x20 → o ≠ 0x21 → o ≠ 0x22 →
          ∃ t, exec (.mailboxTake sec nonce) s = .next t ∧ t = { s with hosts := t.hosts, sec := t.sec } ∧
            Replied s t (at_ i / n) false (at_ i % n) 1 [] ∧ t.sec = { s.sec with lastG := n * (at_ i / n) + at_ i % n }) ∧
        (sec = false → at_ i % n = 0 → ∃ t, exec (.mailboxTake sec nonce) s = .next t ∧
          Replied s t (at_ i / n) false 0 4 []) ∧
        (sec = true → (x i).session ≠ 2 → o ≠ 0xE0 → o ≠ 0xE1 →
          ∃ t, exec (.mailboxTake sec nonce) s = .next t ∧ t = { s with hosts := t.hosts, sec := t.sec } ∧
            Replied s t (at_ i / n) true (at_ i % n) 5 [] ∧
            t.sec = { s.sec with lastS := n * (at_ i / n) + at_ i % n }))) ∧
    (∀ h ch nonce, h < 2 → s.masonUp = true →
      (9 ≤ ch → ch < 12 → s.nextChan false = some (h, ch) →
        ∀ c ∈ [(2, Instr.echoMsg h ch), (3, .pathEcho h ch), (0x20, .attest h ch), (0x21, .getCert h ch),
               (0x22, .install h ch)],
          (s.chan h false ch).opcode = c.1 →
            exec (.mailboxTake false nonce) s = exec c.2 s ∧ ∃ t, exec c.2 s = .next t) ∧
      (ch < 4 → s.nextChan true = some (h, ch) →
        ∀ c ∈ [(0xE0, Instr.challenge h ch nonce), (0xE1, .openMsg h ch), (0xE2, .closeMsg h ch), (0x80, .fwUpdate h ch),
               (0x81, .fwCommit h ch)],
          (s.chan h true ch).opcode = c.1 →
            exec (.mailboxTake true nonce) s = exec c.2 s ∧ ∃ t, exec c.2 s = .next t)) ∧
    (∀ h ch, h < 2 → 9 ≤ ch → ch < 12 → s.masonUp = true → s.nextChan false = some (h, ch) →
      let x := s.chan h false ch
      (x.opcode = 2 → (x.count = 15 → ∃ t, exec (.echoMsg h ch) s = .next t ∧ Replied s t h false ch 2 []) ∧
        (x.count ≠ 15 → ∃ t, exec (.echoMsg h ch) s = .next t ∧ t = { s with hosts := t.hosts, sec := t.sec } ∧
          Replied s t h false ch 0 ((List.range x.count).map fun i => x.word (1 + i)))) ∧
      (x.opcode = 3 →
        (x.count ≠ 1 ∨ 2 ^ 17 ≤ x.word 1 → ∃ t, exec (.pathEcho h ch) s = .next t ∧ Replied s t h false ch 2 []) ∧
        (x.count = 1 → x.word 1 < 2 ^ 17 →
          (s.sec.echoes ≠ [] → ∃ t, exec (.pathEcho h ch) s = .next t ∧ Replied s t h false ch 7 []) ∧
          (s.sec.echoes = [] → ∃ t, exec (.pathEcho h ch) s = .next t ∧ SameStores s t ∧ SameFlags s t ∧
            t.chan h false ch = { x with busy := true } ∧
            t.sec = { s.sec with
              lastG := 12 * h + ch,
              echoes := [{ port := h, ch := ch, tag := x.tag, bytes := leBytes 4 (x.word 1), at_ := s.gen.time }] } ∧
            (s.live = true → s.ownNode (BitVec.ofNat 17 (x.word 1)) = false →
              ∃ u q, u.rte = s.rte ∧ u.ports = s.ports ∧ u.cfg = s.cfg ∧
                Routed u t (s.hopDie (x.word 1) 4) q 0 0 true none ∧ q.opc = 0x50 ∧
                q.tc = 4 ∧ q.dest = BitVec.ofNat 17 (x.word 1)))))) ∧
    (∀ h ch o, h < 2 → ch < 12 → s.masonUp = true →
      s.sec.echoes.find? (fun o => o.port == h && o.ch == ch) = some o → o.at_ + 250000 ≤ s.gen.time →
      (s.chan h false ch).busy = true → ∃ t, exec (.pathEchoTimeout h ch) s = .next t ∧
        t = { s with hosts := t.hosts, sec := t.sec } ∧ Replied s t h false ch 7 [] ∧
        t.sec = { s.sec with echoes := s.sec.echoes.erase o })

/-- CHALLENGE, OPEN, CLOSE, FW_UPDATE and FW_COMMIT on secure channels. ATTEST, GET_CERT and INSTALL on channels 9 to
11; an accepted record erases the older ones that it replaces. (Model's choice: replies the rules leave open, and the
key under which mason-S writes the replay-protected block: log entries 11, 12 and 30.) -/
def Obligations.SecureMessages : Prop :=
  (∀ (s : State), s.masonUp = true →
     let fetched (h : Nat) (a : W64) (n : Nat) : List Out :=
       let m := max 1 (min (s.host h).mrrs 4096)
       (List.range ((n + m - 1) / m)).map fun i => .hostRead h (a + BitVec.ofNat 64 (i * m)) (min m (n - i * m))
     (∀ h ch, h < 2 → ch < 4 → s.nextChan true = some (h, ch) →
       let x := s.chan h true ch
       let only (t : State) : Prop := t = { s with hosts := t.hosts, sec := { s.sec with lastS := 4 * h + ch } }
       let y (t : State) : Chan := t.chan h true ch
       (∀ nonce, x.opcode = 0xE0 → x.count = 0 → nonce.length = 32 →
         ∃ t, exec (.challenge h ch nonce) s = .next t ∧ only t ∧ (y t).session = 1 ∧ (y t).nonce = nonce ∧
           Replied s t h true ch 0 ((List.range 8).map fun i => fieldAt nonce (4 * i) 4)) ∧
       (x.opcode = 0xE1 →
         (∀ st z, x.fragment 0xE1 (some 118) = (.answer st, z) →
           ∃ t, exec (.openMsg h ch) s = .next t ∧ only t ∧ Replied s t h true ch st [] ∧ (y t).session = x.session) ∧
         (∀ b z, x.fragment 0xE1 (some 118) = (.whole b, z) → fieldAt b 0 1 ≤ 3 → zeroAt b 1 3 = true →
           let proven := x.session = 1 ∧ ∃ key, Tab.find? s.sec.hostKeys (fieldAt b 0 1) = some key ∧
             edVerify key "HT4-SESS" (x.nonce ++ [BitVec.ofNat 8 h, BitVec.ofNat 8 ch]) (sliceAt b 4 114) = true
           (proven → ∃ t, exec (.openMsg h ch) s = .next t ∧ only t ∧ Replied s t h true ch 0 [] ∧ (y t).session = 2 ∧
             (y t).keySlot = fieldAt b 0 1) ∧
           (¬ proven → ∃ t, exec (.openMsg h ch) s = .next t ∧ only t ∧ Replied s t h true ch 6 [] ∧ (y t).session = 0))) ∧
       (x.session = 2 → x.opcode = 0xE2 → x.count = 0 →
         ∃ t, exec (.closeMsg h ch) s = .next t ∧ only t ∧ Replied s t h true ch 0 [] ∧ (y t).session = 0) ∧
       (x.session = 2 → x.opcode = 0x80 →
         let a := x.word 1 + 2 ^ 32 * x.word 2
         (x.keySlot ≠ 0 → ∃ t, exec (.fwUpdate h ch) s = .next t ∧ only t ∧ Replied s t h true ch 4 []) ∧
         (x.keySlot = 0 → x.count = 3 → x.word 1 % 64 = 0 →
           (2 ^ 24 < x.word 3 → ∃ t, exec (.fwUpdate h ch) s = .next t ∧ only t ∧ Replied s t h true ch 0 [8]) ∧
           (x.word 3 ≤ 2 ^ 24 → s.flashBusy = true →
             ∃ t, exec (.fwUpdate h ch) s = .next t ∧ only t ∧ Replied s t h true ch 7 []) ∧
           (x.word 3 = 0 → s.flashBusy = false →
             ∃ t, exec (.fwUpdate h ch) s = .next t ∧ only t ∧ Replied s t h true ch 0 [0]) ∧
           (x.word 3 ≤ 2 ^ 24 → x.word 3 ≠ 0 → s.flashBusy = false → ∃ t, exec (.fwUpdate h ch) s = .next t ∧
             t = { s with hosts := t.hosts, sec := t.sec, out := t.out } ∧ y t = { x with busy := true } ∧
             t.sec.updating =
               some { port := h, ch := ch, tag := x.tag, addr := BitVec.ofNat 64 a, len := x.word 3, second := false,
                      sent := s.hostUsable h } ∧
             t.out = s.out ++ (if s.hostUsable h then fetched h (BitVec.ofNat 64 a) (x.word 3) else []) ∧
             (if s.sec.runSlot = 0 then t.sec.slotA = s.sec.slotA ∧ t.sec.slotB = []
               else t.sec.slotA = [] ∧ t.sec.slotB = s.sec.slotB)))) ∧
       (x.session = 2 → x.opcode = 0x81 → x.keySlot = 0 → x.count = 0 → s.flashBusy = false →
         ∃ t, exec (.fwCommit h ch) s = .next t ∧ t = { s with hosts := t.hosts, sec := t.sec } ∧
           y t = { x with busy := true } ∧ t.sec = { s.sec with
             lastS := 4 * h + ch,
             committing := some { port := h, ch := ch, tag := x.tag, bytes := [], at_ := s.gen.time } })) ∧
     (∀ u got, s.sec.updating = some u → u.sent = true → (s.chan u.port true u.ch).busy = true →
       let first := u.second = true ↔ s.sec.runSlot = 0
       let ended (t : State) (b : List Byte) : Prop :=
         t = { s with hosts := t.hosts, sec := t.sec, freeCtr := t.freeCtr } ∧
         (first → t.sec = { s.sec with slotA := b, updating := none }) ∧
         (¬ first → t.sec = { s.sec with slotB := b, updating := none })
       (∃ t, exec (.fwUpdateDone ⟨got, .error⟩) s = .next t ∧
         ended t (got.take (min got.length u.len / 65536 * 65536)) ∧ Replied s t u.port true u.ch 0 [7]) ∧
       ((s.host u.port).ctDisable = true → exec (.fwUpdateDone ⟨got, .timeout⟩) s = .next s) ∧
       ((s.host u.port).ctDisable = false → ∃ t, exec (.fwUpdateDone ⟨got, .timeout⟩) s = .next t ∧
         ended t (got.take (min got.length u.len / 65536 * 65536)) ∧ Replied s t u.port true u.ch 0 [7]) ∧
       ∀ img, img.length = u.len →
         (s.fwValid img = false → ∃ t, exec (.fwUpdateDone ⟨got, .data img⟩) s = .next t ∧ ended t img ∧
           Replied s t u.port true u.ch 0 [1]) ∧
         (s.fwValid img = true → fwSvn img < s.sec.arb.toNat → ∃ t, exec (.fwUpdateDone ⟨got, .data img⟩) s = .next t ∧
           ended t img ∧ Replied s t u.port true u.ch 0 [6]) ∧
         (s.fwValid img = true → s.sec.arb.toNat ≤ fwSvn img →
           (u.second = true → ∃ t, exec (.fwUpdateDone ⟨got, .data img⟩) s = .next t ∧ ended t img ∧
             Replied s t u.port true u.ch 0 [0]) ∧
           (u.second = false → ∃ t, exec (.fwUpdateDone ⟨got, .data img⟩) s = .next t ∧
             t = { s with sec := t.sec, out := t.out } ∧
             t.sec = { s.sec with
               slotA := if s.sec.runSlot = 0 then [] else img, slotB := if s.sec.runSlot = 0 then img else [],
               updating := some { u with second := true, sent := s.hostUsable u.port } } ∧
             t.out = s.out ++ if s.hostUsable u.port then fetched u.port u.addr u.len else [])))) ∧
  (∀ (s : State), s.masonUp = true →
     (∀ h ch, h < 2 → 9 ≤ ch → ch < 12 → s.nextChan false = some (h, ch) →
       let x := s.chan h false ch
       let lastG := 12 * h + ch
       let only (t : State) : Prop := t = { s with hosts := t.hosts, sec := { s.sec with lastG := lastG } }
       let op (b : List Byte) : MbOp := { port := h, ch := ch, tag := x.tag, bytes := b, at_ := s.gen.time }
       (x.opcode = 0x20 → x.count = 8 →
         (s.sec.seed = none → ∃ t, exec (.attest h ch) s = .next t ∧ only t ∧ Replied s t h false ch 0 [10]) ∧
         (s.sec.seed ≠ none → s.sec.attesting ≠ [] →
           ∃ t, exec (.attest h ch) s = .next t ∧ only t ∧ Replied s t h false ch 7 []) ∧
         (s.sec.seed ≠ none → s.sec.attesting = [] → ∃ t, exec (.attest h ch) s = .next t ∧
           t = { s with hosts := t.hosts, sec := { s.sec with lastG := lastG, attesting := [op (x.bytes 1 8)] } } ∧
           t.chan h false ch = { x with busy := true })) ∧
       (x.opcode = 0x21 → x.count = 0 →
         (s.sec.cert ≠ [] → ∃ t, exec (.getCert h ch) s = .next t ∧ only t ∧ (t.host h).secBuf = s.sec.cert ∧
           (t.host h).secKind = 2 ∧ Replied s t h false ch 0 [0, s.sec.cert.length]) ∧
         (s.devCert = [] → ∃ t, exec (.getCert h ch) s = .next t ∧ only t ∧ (t.host h).secBuf = (s.host h).secBuf ∧
           Replied s t h false ch 0 [10])) ∧
       (x.opcode = 0x22 →
         (s.ownedBy h = false → ∃ t, exec (.install h ch) s = .next t ∧ only t ∧ Replied s t h false ch 4 []) ∧
         (s.ownedBy h = true → s.flashBusy = true →
           ∃ t, exec (.install h ch) s = .next t ∧ only t ∧ Replied s t h false ch 7 []) ∧
         (s.ownedBy h = true → s.flashBusy = false →
           (∀ st z, x.fragment 0x22 none = (.answer st, z) →
             ∃ t, exec (.install h ch) s = .next t ∧ only t ∧ Replied s t h false ch st []) ∧
           (∀ b z, x.fragment 0x22 none = (.whole b, z) →
             (s.installCheck b ≠ 0 →
               ∃ t, exec (.install h ch) s = .next t ∧ only t ∧ Replied s t h false ch 0 [s.installCheck b]) ∧
             (s.installCheck b = 0 → ∃ t, exec (.install h ch) s = .next t ∧
               t = { s with hosts := t.hosts, sec := { s.sec with lastG := lastG, installing := some (op b) } } ∧
               (t.chan h false ch).busy = true ∧ (t.chan h false ch).go = x.go))))) ∧
     (∀ o rest seed, s.sec.attesting = o :: rest → s.sec.seed = some seed → (s.chan o.port false o.ch).busy = true →
       ∃ t, exec .attestDone s = .next t ∧ t = { s with hosts := t.hosts, sec := { s.sec with attesting := rest } } ∧
         (t.host o.port).secBuf = s.reportBody o.bytes ++ edSign seed "HT4-ATST" (s.reportBody o.bytes) ++
           List.replicate 14 0 ∧
         (t.host o.port).secKind = 1 ∧ Replied s t o.port false o.ch 0 [0, 352]) ∧
     (∀ o, s.sec.installing = some o → (s.chan o.port false o.ch).busy = true →
       let taken := s.sec.writeKey = some s.sec.rpmbKey
       let lic := if recType o.bytes = 4 then BitVec.ofNat 64 (recGen o.bytes) else s.sec.licGen
       let keys := if recType o.bytes = 4 then s.sec.keyGen else BitVec.ofNat 64 (recGen o.bytes)
       let refused := ∀ k, s.sec.writeKey = some k →
         rpmbTag k s.sec.rpmbCtr s.sec.arb lic keys ≠ rpmbTag s.sec.rpmbKey s.sec.rpmbCtr s.sec.arb lic keys
       let place (k : Nat) : Prop :=
         k < 4096 ∧ Tab.find? s.sec.records k = none ∧ ∀ j < k, Tab.find? s.sec.records j ≠ none
       (refused ∨ (∀ k < 4096, Tab.find? s.sec.records k ≠ none) → ∃ t, exec (.installDone true) s = .next t ∧
         t = { s with hosts := t.hosts, sec := { s.sec with installing := none } } ∧
         Replied s t o.port false o.ch 0 [5]) ∧
       (∃ t, exec (.installDone false) s = .next t ∧ t = { s with hosts := t.hosts, sec := { s.sec with installing := none } } ∧
         Replied s t o.port false o.ch 0 [5]) ∧
       (∀ k, recType o.bytes = 4 → taken → place k → ∃ t, exec (.installDone true) s = .next t ∧
         t = { s with hosts := t.hosts, sec := { s.sec with
           installing := none, licGen := BitVec.ofNat 64 (recGen o.bytes), rpmbCtr := s.sec.rpmbCtr + 1,
           records := Tab.set (s.sec.records.filter fun r =>
             !(recType r.2 == 4 && decide (recGen r.2 < recGen o.bytes))) k o.bytes } } ∧
         Replied s t o.port false o.ch 0 [0]) ∧
       (∀ i, recType o.bytes = 5 → taken → place i → ∃ t, exec (.installDone true) s = .next t ∧
         t = { s with hosts := t.hosts, sec := t.sec } ∧ Replied s t o.port false o.ch 0 [0] ∧
         t.sec.keyGen = BitVec.ofNat 64 (recGen o.bytes) ∧ t.sec.installing = none ∧
         t.sec.rpmbCtr = s.sec.rpmbCtr + 1 ∧ Tab.find? t.sec.records i = some o.bytes ∧
         t.sec.records = Tab.set (s.sec.records.filter fun r => !(recType r.2 == 5 &&
           decide (recGen r.2 < recGen o.bytes) && sliceAt r.2 64 2 == sliceAt o.bytes 64 2)) i o.bytes ∧
         (let k := fieldAt o.bytes 65 1
          let pub := sliceAt o.bytes 72 57
          let v := if pub.all (· == 0) then [] else pub
          if fieldAt o.bytes 64 1 = 0 then Tab.get [] t.sec.bondKeys k = v ∧ t.sec.hostKeys = s.sec.hostKeys
          else Tab.get [] t.sec.hostKeys k = v ∧ t.sec.bondKeys = s.sec.bondKeys ∧
            (fieldAt o.bytes 64 1 = 1 → ∀ h c, (s.chan h true c).session = 2 → (s.chan h true c).keySlot = k →
              (t.chan h true c).session = 0)))))

/-- The end of FW_COMMIT (R435): with both slots valid, C rises to the smaller SVN when that exceeds C, by a write of
the replay-protected block, which takes it and counts it when the key that mason-S writes it with (the block key; the one of
the identity seed, derived again, once a BU2 that failed has erased it) is the device's (R423), and the reply carries the
new C; where mason-S has no such key, or one whose tag is not the device's, the block takes nothing and RESULT is 5
(model's choice: log entry 12); otherwise C stays with the reply OK; with a slot
that is not valid the reply is NO_VALID; C at its largest value stays. -/
def Obligations.FirmwareCommit : Prop :=
  ∀ (s : State) (o : MbOp), s.masonUp = true → s.sec.committing = some o → (s.chan o.port true o.ch).busy = true →
    let c := min (fwSvn s.sec.slotA) (fwSvn s.sec.slotB)
    let both := s.fwValid s.sec.slotA = true ∧ s.fwValid s.sec.slotB = true
    let tag (key : List Byte) : List Byte := rpmbTag key s.sec.rpmbCtr (BitVec.ofNat 32 c) s.sec.licGen s.sec.keyGen
    ∃ t, exec .fwCommitDone s = .next t ∧ t = { s with hosts := t.hosts, sec := t.sec } ∧
      t.sec = { s.sec with committing := none, arb := t.sec.arb, rpmbCtr := t.sec.rpmbCtr } ∧
      (both → s.sec.arb.toNat < c →
        (s.sec.writeKey = some s.sec.rpmbKey → t.sec.arb.toNat = c ∧
          t.sec.rpmbCtr = s.sec.rpmbCtr + 1 ∧ Replied s t o.port true o.ch 0 [0, c]) ∧
        ((∀ key, s.sec.writeKey = some key → tag key ≠ tag s.sec.rpmbKey) → t.sec.arb = s.sec.arb ∧ t.sec.rpmbCtr = s.sec.rpmbCtr ∧
          ∃ ws, Replied s t o.port true o.ch 0 (5 :: ws))) ∧
      (both → c ≤ s.sec.arb.toNat → t.sec.arb = s.sec.arb ∧ ∃ ws, Replied s t o.port true o.ch 0 (0 :: ws)) ∧
      (¬ both → t.sec.arb = s.sec.arb ∧ ∃ ws, Replied s t o.port true o.ch 0 (9 :: ws)) ∧
      (s.sec.arb = 0xFFFFFFFF → t.sec.arb = s.sec.arb)

/-! ## The management bus, power and PERST (R34, R355, R393, R394, R448, R449, R452 to R458) -/

/-- The bus commands: the pointer, a read and a write at it, each of which moves it on by 4, and the NACK of a count
that is not 4 or of a bad PEC. Input power, PWR_EN, the causes that remove core power, and its removal. A cycle of AOCLK,
which is what a step takes while no command waits: the rails' steps, GEN_TIME, LNK_HB_AGE, the cycles of an item that runs
or stands yielded, and the progress timers, and the end of the cycle (model's choice: log entry 4). PERST, a host
link that goes down, a port that may be used again, and an L1 exit. (Model's choice: log entries 13, 31 and 34.) -/
def Obligations.PinsAndPower : Prop :=
  (∀ (s : State), s.pwr.inputOn = true →
     (∀ count pec (v : W32),
       (count = 4 → pec = true → exec (.smbSetPointer count pec v) s = .next { s with smbPtr := v }) ∧
       (count ≠ 4 ∨ pec = false →
         exec (.smbSetPointer count pec v) s = .next { s with out := s.out ++ [.smb none] } ∧
         exec (.smbWrite count pec v) s = .next { s with out := s.out ++ [.smb none] }) ∧
       (count = 4 → pec = true → s.smbPtr = 0x20000 → s.writable = true →
         let w := v.toNat % 4096
         exec (.smbWrite count pec v) s = .next { s with
           smbPtr := 0x20004, latches := Tab.erase s.latches 2,
           pwr := { s.pwr with capW := if 800 ≤ w ∧ w ≤ 2400 then w else s.pwr.capW } }) ∧
       (count = 4 → pec = true → s.smbPtr = 0x400008 → s.pwr.seq = .on →
         exec (.smbWrite count pec v) s = .next
           { s with smbPtr := 0x40000C, latches := Tab.erase s.latches 2 })) ∧
     exec (.smbRead false) s = .next { s with out := s.out ++ [.smb none] } ∧
     (s.smbPtr = 0x20020 → exec (.smbRead true) s = .next { s with
       smbPtr := 0x20024, latches := Tab.erase s.latches 2,
       out := s.out ++ [.smb (some (BitVec.ofNat 32 (s.pwr.seq.code + (if s.pwr.waitLow then 4 else 0) +
         if s.pwr.en then 8 else 0)))] }) ∧
     (s.smbPtr = 0x80000 → exec (.smbRead true) s = .next { s with
       smbPtr := 0x80004, latches := Tab.erase s.latches 2, out := s.out ++ [.smb (some 0)] })) ∧
  (∀ (s : State),
     (s.pwr.inputOn = false → exec .inputPowerApply s = .next { s with pwr := { Pwr.reset with inputOn := true } }) ∧
     (s.pwr.inputOn = true → exec .inputPowerApply s = .next s) ∧
     (∃ t, exec .inputPowerLoss s = .next t ∧ t.pwr = Pwr.reset ∧ t.mem = [] ∧ t.ls = [] ∧ t.cs = [] ∧ t.bu = Bu.reset ∧
       t.bond = Bond.reset ∧ t.rte = Rte.reset ∧ t.cfg = Cfg.reset ∧ t.sec.records = s.sec.records ∧
       t.sec.arb = s.sec.arb ∧ (∀ h, t.host h = { HostPort.reset with perst := (s.host h).perst })) ∧
     (∀ feed frzN good bad, s.pwr.inputOn = true →
       let held := s.pwr.waitLow = true ∨ (s.pwr.lossValid = true ∧ s.pwr.lossCause = 1 ∧ s.pwr.vin.toNat < 47000)
       let risen (t : State) : Prop := t.mem = [] ∧ t.ls = [] ∧ t.cs = [] ∧ t.gen.feedId = feed ∧ t.gen.frzN = frzN ∧
         t.gen.time = 0 ∧ t.bond.highWater = 0 ∧ t.bu.logCount = 0 ∧ t.cfg = Cfg.reset ∧ t.gen.serial = s.gen.serial ∧
         t.sec.records = s.sec.records ∧ t.bu.strapWord.toNat = feed.toNat + (if frzN then 16 else 0) ∧
         t.pwr.seq = .rising ∧ t.pwr.steps = 0 ∧
         t.pwr.badStep = (if good = true then none else some (max 1 (min bad 6))) ∧ t.bu.stage = 0 ∧ t.bu.st = .running
       (s.pwr.seq = .off → ¬ held → ∃ t, exec (.pwrEnRise feed frzN good bad) s = .next t ∧ risen t) ∧
       (s.pwr.seq ≠ .off ∨ held →
         exec (.pwrEnRise feed frzN good bad) s = .next { s with pwr := { s.pwr with en := true } }) ∧
       (s.pwr.waitLow = true → s.pwr.fell = true → s.pwr.seq = .off →
         (s.pwr.en = false → exec (.pwrEnHoldExpiry feed frzN good bad) s = .next
           { s with pwr := { s.pwr with waitLow := false } }) ∧
         (s.pwr.en = true → s.pwr.lossCause ≠ 1 →
           ∃ t, exec (.pwrEnHoldExpiry feed frzN good bad) s = .next t ∧ risen t))) ∧
     (s.pending = [] →
       (s.pwr.inputOn = false → step s = .next s) ∧
       (s.pwr.inputOn = true →
         let k := s.pwr.steps + 1
         (s.pwr.seq = .rising → ∃ t, step s = .next t ∧ t.pwr.steps = k ∧ t.mem = s.mem ∧
           (s.pwr.badStep = some k → t.pwr.seq = .falling ∧ t.bu.stage = s.bu.stage ∧ t.bu.st = .failed ∧
             Recorded s t 0 0x0E) ∧
           (s.pwr.badStep ≠ some k → k < 6 → t.pwr.seq = .rising ∧ t.bu = s.bu) ∧
           (s.pwr.badStep ≠ some k → 6 ≤ k → t.pwr.seq = .on ∧ t.bu.stage = 1 ∧ Recorded s t 0 0)) ∧
         (s.pwr.seq ≠ .rising → ∃ t, step s = .next t ∧ t.setNow = [] ∧ t.clearedNow = [] ∧ t.pwr.peakNow = 0 ∧ t.pwr.wakeNow = 0 ∧
           ∀ q < 3, Tab.get 0 t.pwr.peak q = max (Tab.get 0 s.pwr.peak q) s.pwr.peakNow ∧
             Tab.get 0 t.pwr.wakeMax q = max (Tab.get 0 s.pwr.wakeMax q) s.pwr.wakeNow) ∧
         (s.pwr.seq = .falling → ∃ t, step s = .next t ∧
           t = { s with pwr := t.pwr, gen := t.gen, setNow := [], clearedNow := [] } ∧
           t.pwr = { s.pwr with steps := if s.pwr.steps = 0 then 0 else max 1 (s.pwr.steps - 1), peak := t.pwr.peak,
                                wakeMax := t.pwr.wakeMax, peakNow := 0, wakeNow := 0 }) ∧
         (s.pwr.seq = .on → ∃ t, step s = .next t ∧ SameStores s t ∧ SameFlags s t ∧
           t.gen = { s.gen with time := min (s.gen.time + 1) (2 ^ 64 - 1), frzN := t.gen.frzN } ∧
           (s.gen.frzN = true → t.gen.frzN = true) ∧
           t.pwr.throttleCyc = (if s.pwr.ft < 16 then min (s.pwr.throttleCyc + 1) (2 ^ 64 - 1) else s.pwr.throttleCyc) ∧
           (s.frz.frozen = true → t.engines = s.engines ∧ t.courses = s.courses ∧ t.ports = s.ports) ∧
           (s.frz.frozen = false →
             (∀ p < 10, (t.port p).hbAge =
               if (s.port p).fitted then min ((s.port p).hbAge + 1) (2 ^ 32 - 1) else (s.port p).hbAge) ∧
             (∀ e, (t.eng e).itemCyc = (s.eng e).itemCyc +
               if (s.eng e).item ≠ none ∧ s.courseAwake (e / 32) = true then
                 ((s.dom (e / 32)).phase + (s.dom (e / 32)).mhz) / 25 else 0) ∧
             (∀ c, t.crs c = { s.crs c with hod := (t.crs c).hod }) ∧
             (∀ c k h, s.hodSlot c k = some h →
               ((∀ e, h.status ≠ .yielded e) → t.hodSlot c k = some h) ∧
               ∀ e v, h.status = .yielded e → h.saved = some v → v.failed = false →
                 t.hodSlot c k = some { h with saved := some { v with
                   itemCyc := v.itemCyc + (if s.courseAwake (e / 32) = true then
                     ((s.dom (e / 32)).phase + (s.dom (e / 32)).mhz) / 25 else 0) } }) ∧
             ∀ e x o w p, s.engines = [(e, x)] → x.nets = [o] → s.stepAt e 0 = some (o, w) → s.live = true →
               s.partOfEngine e = some p → s.timerRuns e w = true →
               (t.eng e).nets = [{ o with step := some { w with timer := w.timer + 1 } }] ∧
               (t.part p).waitCyc = min ((s.part p).waitCyc + 1) (2 ^ 64 - 1))))) ∧
     (∀ row ∈ [(Instr.underVoltageLockout, 1), (Instr.thermalTrip, 2)],
       (s.pwr.seq = .on ∨ s.pwr.seq = .rising → exec row.1 s = .next { s with setNow := s.setNow ++ [.ckpLoss], pwr := { s.pwr with
         seq := .falling, waitLow := true, fell := !s.pwr.en, lossCause := row.2, lossValid := true,
         lossAt := s.gen.time } }) ∧
       (s.pwr.seq = .off → exec row.1 s = .next s) ∧
       (s.pwr.seq = .falling → exec row.1 s = .next { s with pwr := { s.pwr with
         lossCause := if s.pwr.waitLow = true ∧ s.pwr.lossAt = s.gen.time then min row.2 s.pwr.lossCause
           else s.pwr.lossCause } })) ∧
     (s.pwr.inputOn = true → s.pwr.seq = .on → exec .pwrEnFall s = .next { s with setNow := s.setNow ++ [.ckpLoss], pwr := { s.pwr with
       en := false, seq := .falling, waitLow := true, fell := true, lossCause := 3, lossValid := true,
       lossAt := s.gen.time } }) ∧
     (s.pwr.seq = .falling → s.pwr.steps ≤ 1 → ∃ t, exec .corePowerRemoved s = .next t ∧ t.pwr.seq = .off ∧ t.pwr.steps = 0 ∧ t.mem = [] ∧ t.ls = [] ∧
       t.cs = [] ∧ t.cfg = Cfg.reset ∧ t.pwr.lossCause = s.pwr.lossCause ∧ t.pwr.lossValid = s.pwr.lossValid ∧
       t.pwr.waitLow = s.pwr.waitLow ∧ t.bond.highWater = s.bond.highWater ∧ t.bu.log = s.bu.log ∧
       t.bu.logCount = s.bu.logCount ∧ t.gen.time = s.gen.time ∧ t.rte.openCtr = s.rte.openCtr ∧
       t.latches = [] ∧ ∀ p, (t.port p).light = false) ∧
     (s.pwr.seq ≠ .falling ∨ 1 < s.pwr.steps → exec .corePowerRemoved s = .next s)) ∧
  (∀ (s : State) (h : Nat), h < 2 →
     let x := s.host h
     let b := s.bondPort h
     let idle := (∀ p, p < 8 → s.hostOf p = h → (s.part p).carrying = none ∧ ∀ w < 8, (s.ofl p w).sent = false)
     (idle → ∃ t, exec (.perstAssert h) s = .next t ∧
       t = { s with hosts := t.hosts, bond := t.bond, sec := t.sec, clearedNow := t.clearedNow } ∧
       (∀ n < 12, (h, false, n) ∈ t.clearedNow) ∧ (∀ n < 4, (h, true, n) ∈ t.clearedNow) ∧
       (∀ k, k ≠ h → t.host k = s.host k) ∧
       t.host h = { HostPort.reset with perst := true } ∧
       (b.st = .fetch → (t.bondPort h).st = .refused ∧ (t.bondPort h).code = 0x13) ∧
       (b.st ≠ .fetch → (∀ y, s.bond.applying ≠ some (h, y)) → (∀ y, s.bond.staged ≠ some (h, y)) →
         t.bondPort h = BondPort.reset) ∧
       (∀ y, b.st ≠ .fetch → s.bond.applying = none → s.bond.staged = some (h, y) → (t.bondPort h).st = .staged) ∧
       t.bond.staged = s.bond.staged ∧ t.bond.applying = s.bond.applying ∧
       (∀ k, k ≠ h → t.bondPort k = s.bondPort k)) ∧
     (∃ t, exec (.perstRelease h) s = .next t ∧ SameStores s t ∧ (∀ k, k ≠ h → t.host k = s.host k) ∧
       t.host h = { x with perst := false, linkUp := s.masonUp }) ∧
     (s.masonUp = true → x.perst = false → s.hostUsable h = false →
       ∃ t, exec (.hostPortReady h) s = .next t ∧ SameStores s t ∧ (∀ k, k ≠ h → t.host k = s.host k) ∧
         t.host h = { x with linkUp := true, d3hot := false, bme := true } ∧
         (s.sec.updating = none → (∀ p, p < 8 → s.hostOf p = h → ∀ w < 8, (s.ofl p w).copy = none) →
           t.out = s.out ++ if b.st = .fetch ∧ b.sent = false then (let m := max 1 (min x.mrrs 4096)
             (List.range ((b.goLen + m - 1) / m)).map fun i =>
               .hostRead h (b.goSrc + BitVec.ofNat 64 (i * m)) (min m (b.goLen - i * m))) else [])) ∧
     (x.perst = true → exec (.hostPortReady h) s = .next s) ∧
     (idle → ∃ t, exec (.hostLinkDown h) s = .next t ∧
       t = { s with hosts := t.hosts, bond := t.bond, sec := t.sec, freeCtr := t.freeCtr } ∧ (t.host h).linkUp = false ∧
       (b.st = .fetch → b.sent = true → (t.bondPort h).st = .refused ∧ (t.bondPort h).code = 0x13) ∧
       (b.st ≠ .fetch ∨ b.sent = false → t.bond = s.bond) ∧
       ((∀ u, s.sec.updating = some u → u.port = h → u.sent = false) →
         t.sec = s.sec ∧ (b.st ≠ .fetch ∨ b.sent = false → t.host h = { x with linkUp := false })) ∧
       (∀ u, s.sec.updating = some u → u.port = h → u.sent = true → (s.chan h true u.ch).busy = true →
         Replied s t h true u.ch 0 [7] ∧ t.sec =
           if (u.second = true ↔ s.sec.runSlot = 0) then { s.sec with slotA := [], updating := none }
           else { s.sec with slotB := [], updating := none })) ∧
     (∃ t, exec (.pcieL1Exit h) s = .next t ∧ SameStores s t ∧ t.host h = { x with l1 := false } ∧
       (s.masonUp = true → (s.dom (90 + h)).held = false → 2 ≤ (s.dom (90 + h)).level → (t.dom (90 + h)).wakeReq = true)))

/-! ## Whole-machine invariants -/

/-- Every store stays in its one canonical form, whatever command a step runs: the local stores, the course stores and
the piers list their bytes by strictly rising key and list no zero. (Model's choice: the form of a store is the model's:
log entry 2.) -/
def Obligations.StoresStayCanonical : Prop :=
  ∀ s t : State, Memory.wf s.ls = true → Memory.wf s.cs = true → Memory.wf s.mem = true → step s = .next t →
    Memory.wf t.ls = true ∧ Memory.wf t.cs = true ∧ Memory.wf t.mem = true

/-- After reset every store is in canonical form and no command waits; the module is at bring-up stage 0 with nothing
applied. (Model's choice: what the spec gives no reset value for: log entry 2.) -/
def Obligations.ResetState : Prop :=
  Memory.wf State.reset.ls = true ∧ Memory.wf State.reset.cs = true ∧ Memory.wf State.reset.mem = true ∧
  State.reset.pending = [] ∧ State.reset.cfg.applied = false ∧ State.reset.bond.staged = none ∧
  State.reset.bond.activeSeq = 0 ∧ State.reset.bond.highWater = 0 ∧ State.reset.bu.stage = 0

end
end

