-- ==== Sys2Proof/Laws/Table.lean ====
section
/-!
SUPPORT. Laws of the sparse tables and byte memories of Machine/Table.lean: a read after a write, and the canonical
form that every operation keeps.
-/
namespace Sys2Proof.Machine

/-! ## Finding a key -/

@[simp] theorem Tab.find?_nil {α : Type} (x : Nat) : Tab.find? ([] : Tab α) x = none := rfl

theorem Tab.find?_append {α : Type} (t u : Tab α) (x : Nat) :
    Tab.find? (t ++ u) x = (Tab.find? t x).or (Tab.find? u x) := by
  induction t with
  | nil => rfl
  | cons a t ih =>
    obtain ⟨k, v⟩ := a
    simp only [List.cons_append, Tab.find?]
    split <;> simp [ih]

theorem Tab.find?_filter {α : Type} (t : Tab α) (p : Nat → Bool) (x : Nat) :
    Tab.find? (t.filter fun e => p e.1) x = if p x then Tab.find? t x else none := by
  induction t with
  | nil => simp
  | cons a t ih =>
    obtain ⟨k, v⟩ := a
    by_cases hp : p k
    · by_cases hk : k = x
      · subst hk; simp [hp, Tab.find?]
      · simp [hp, Tab.find?, hk, ih]
    · by_cases hk : k = x
      · subst hk; simp [hp, ih]
      · simp [hp, Tab.find?, hk, ih]

theorem Tab.find?_below {α : Type} (t : Tab α) (a x : Nat) :
    Tab.find? (Tab.below t a) x = if x < a then Tab.find? t x else none := by
  simpa [Tab.below] using Tab.find?_filter t (fun k => decide (k < a)) x

theorem Tab.find?_from {α : Type} (t : Tab α) (a x : Nat) :
    Tab.find? (Tab.from t a) x = if a ≤ x then Tab.find? t x else none := by
  simpa [Tab.from] using Tab.find?_filter t (fun k => decide (a ≤ k)) x

theorem Tab.find?_erase {α : Type} (t : Tab α) (a x : Nat) :
    Tab.find? (Tab.erase t a) x = if x = a then none else Tab.find? t x := by
  rw [Tab.erase, Tab.find?_append, Tab.find?_below, Tab.find?_from]
  rcases Nat.lt_trichotomy x a with h | h | h
  · have h1 : ¬ a + 1 ≤ x := by omega
    have h2 : x ≠ a := by omega
    simp [h, h1, h2]
  · subst h; simp
  · have h1 : ¬ x < a := by omega
    have h2 : a + 1 ≤ x := by omega
    have h3 : x ≠ a := by omega
    simp [h1, h2, h3]

theorem Tab.find?_set {α : Type} (t : Tab α) (a : Nat) (v : α) (x : Nat) :
    Tab.find? (Tab.set t a v) x = if x = a then some v else Tab.find? t x := by
  rw [Tab.set, Tab.find?_append, Tab.find?_below]
  simp only [Tab.find?, Tab.find?_from]
  rcases Nat.lt_trichotomy x a with h | h | h
  · have h1 : ¬ a + 1 ≤ x := by omega
    have h2 : a ≠ x := by omega
    have h3 : x ≠ a := by omega
    simp [h, h1, h2, h3]
  · subst h; simp
  · have h1 : ¬ x < a := by omega
    have h2 : a + 1 ≤ x := by omega
    have h3 : a ≠ x := by omega
    have h4 : x ≠ a := by omega
    simp [h1, h2, h3, h4]

/-! ## Reading a key -/

@[simp] theorem Tab.get_nil {α : Type} (d : α) (x : Nat) : Tab.get d [] x = d := rfl

/-- A table reads as written at the key written, and as before at every other. -/
theorem Tab.get_put {α : Type} [DecidableEq α] (d : α) (t : Tab α) (a : Nat) (v : α) (x : Nat) :
    Tab.get d (Tab.put d t a v) x = if x = a then v else Tab.get d t x := by
  unfold Tab.put Tab.get
  split
  · next h => rw [Tab.find?_erase]; split <;> simp [h]
  · rw [Tab.find?_set]; split <;> simp

@[simp] theorem Tab.get_put_self {α : Type} [DecidableEq α] (d : α) (t : Tab α) (a : Nat) (v : α) :
    Tab.get d (Tab.put d t a v) a = v := by simp [Tab.get_put]

theorem Tab.get_put_ne {α : Type} [DecidableEq α] (d : α) (t : Tab α) {a x : Nat} (v : α) (h : x ≠ a) :
    Tab.get d (Tab.put d t a v) x = Tab.get d t x := by simp [Tab.get_put, h]

@[simp] theorem Tab.get_set_self {α : Type} (d : α) (t : Tab α) (a : Nat) (v : α) :
    Tab.get d (Tab.set t a v) a = v := by simp [Tab.get, Tab.find?_set]

/-! ## The canonical form -/

theorem Tab.sorted_iff {α : Type} (t : Tab α) : Tab.sorted t = true ↔ t.Pairwise fun a b => a.1 < b.1 := by
  induction t with
  | nil => simp [Tab.sorted]
  | cons a t ih =>
    cases t with
    | nil => simp [Tab.sorted]
    | cons b u =>
      rw [Tab.sorted, Bool.and_eq_true, ih, decide_eq_true_iff, List.pairwise_cons (a := a)]
      constructor
      · rintro ⟨h, hp⟩
        refine ⟨fun c hc => ?_, hp⟩
        rcases List.mem_cons.1 hc with rfl | hc
        · exact h
        · exact Nat.lt_trans h ((List.pairwise_cons.1 hp).1 c hc)
      · rintro ⟨h, hp⟩
        exact ⟨h b (by simp), hp⟩

theorem Tab.wf_iff {α : Type} [DecidableEq α] (d : α) (t : Tab α) :
    Tab.wf d t = true ↔ (t.Pairwise fun a b => a.1 < b.1) ∧ ∀ e ∈ t, e.2 ≠ d := by
  simp [Tab.wf, Tab.sorted_iff]

theorem Tab.wf_nil {α : Type} [DecidableEq α] (d : α) : Tab.wf d [] = true := rfl

theorem Tab.mem_below {α : Type} {t : Tab α} {a : Nat} {e : Nat × α} :
    e ∈ Tab.below t a ↔ e ∈ t ∧ e.1 < a := by simp [Tab.below]

theorem Tab.mem_from {α : Type} {t : Tab α} {a : Nat} {e : Nat × α} :
    e ∈ Tab.from t a ↔ e ∈ t ∧ a ≤ e.1 := by simp [Tab.from]

/-- Entries below `a`, then entries from `a` to below `b`, then entries from `b` on: canonical when the parts are. -/
theorem Tab.wf_splice {α : Type} [DecidableEq α] (d : α) {t m : Tab α} {a b : Nat} (ht : Tab.wf d t = true)
    (hm : Tab.wf d m = true) (hr : ∀ e ∈ m, a ≤ e.1 ∧ e.1 < b) (hab : a ≤ b) :
    Tab.wf d (Tab.below t a ++ m ++ Tab.from t b) = true := by
  rw [Tab.wf_iff] at *
  obtain ⟨hp, hd⟩ := ht
  obtain ⟨mp, md⟩ := hm
  refine ⟨?_, ?_⟩
  · rw [List.append_assoc, List.pairwise_append, List.pairwise_append]
    refine ⟨hp.filter _, ⟨mp, hp.filter _, ?_⟩, ?_⟩
    · intro x hx y hy
      have := (hr x hx).2
      have := (Tab.mem_from.1 hy).2
      omega
    · intro x hx y hy
      have h1 := (Tab.mem_below.1 hx).2
      rcases List.mem_append.1 hy with hy | hy
      · have := (hr y hy).1; omega
      · have := (Tab.mem_from.1 hy).2; omega
  · intro e he
    simp only [List.mem_append] at he
    rcases he with (he | he) | he
    · exact hd e (Tab.mem_below.1 he).1
    · exact md e he
    · exact hd e (Tab.mem_from.1 he).1

theorem Tab.wf_put {α : Type} [DecidableEq α] (d : α) {t : Tab α} (ht : Tab.wf d t = true) (a : Nat) (v : α) :
    Tab.wf d (Tab.put d t a v) = true := by
  unfold Tab.put
  split
  · have h := Tab.wf_splice d (m := []) ht (Tab.wf_nil d) (a := a) (b := a + 1) (by simp) (by omega)
    simpa [Tab.erase] using h
  · next hv =>
    have h := Tab.wf_splice d (m := [(a, v)]) ht (by simp [Tab.wf, Tab.sorted, hv]) (a := a) (b := a + 1)
      (by simp) (by omega)
    simpa [Tab.set] using h

/-! ## Byte memories -/

theorem Mem.mem_cells {a : Nat} {bs : List Byte} {e : Host.Cell} (h : e ∈ Mem.cells a bs) :
    a ≤ e.1 ∧ e.1 < a + bs.length ∧ e.2 ≠ 0 := by
  induction bs generalizing a with
  | nil => simp [Mem.cells] at h
  | cons b t ih =>
    simp only [Mem.cells] at h
    rw [List.length_cons]
    split at h
    · obtain ⟨h1, h2, h3⟩ := ih h
      exact ⟨by omega, by omega, h3⟩
    · next hb =>
      rcases List.mem_cons.1 h with h | h
      · subst h
        exact ⟨Nat.le_refl _, by simp only; omega, hb⟩
      · obtain ⟨h1, h2, h3⟩ := ih h
        exact ⟨by omega, by omega, h3⟩

theorem Mem.wf_cells (a : Nat) (bs : List Byte) : Memory.wf (Mem.cells a bs) = true := by
  rw [Memory.wf, Tab.wf_iff]
  refine ⟨?_, fun e he => (Mem.mem_cells he).2.2⟩
  induction bs generalizing a with
  | nil => simp [Mem.cells]
  | cons b t ih =>
    simp only [Mem.cells]
    split
    · exact ih _
    · rw [List.pairwise_cons]
      exact ⟨fun e he => by have := (Mem.mem_cells he).1; simp only; omega, ih _⟩

/-- A store keeps the canonical form. -/
theorem Mem.wf_write {m : List Host.Cell} (h : Memory.wf m = true) (a : Nat) (bs : List Byte) :
    Memory.wf (Mem.write m a bs) = true :=
  Tab.wf_splice (0 : Byte) h (Mem.wf_cells a bs) (fun _ he => ⟨(Mem.mem_cells he).1, (Mem.mem_cells he).2.1⟩)
    (by omega)

/-- Clearing a span keeps the canonical form. -/
theorem Mem.wf_zero {m : List Host.Cell} (h : Memory.wf m = true) (a n : Nat) :
    Memory.wf (Mem.zero m a n) = true := by
  have := Tab.wf_splice (0 : Byte) (m := []) h (Tab.wf_nil 0) (a := a) (b := a + n) (by simp) (by omega)
  simpa [Mem.zero, Memory.wf] using this

theorem Mem.find?_cells (a : Nat) (bs : List Byte) (x : Nat) :
    (Tab.find? (Mem.cells a bs) x).getD 0 = if a ≤ x then bs.getD (x - a) 0 else 0 := by
  induction bs generalizing a with
  | nil => simp [Mem.cells]
  | cons b t ih =>
    simp only [Mem.cells]
    rcases Nat.lt_trichotomy x a with h | h | h
    · have h1 : ¬ a ≤ x := by omega
      have h2 : ¬ a + 1 ≤ x := by omega
      split
      · rw [ih, if_neg h2]
      · have h3 : a ≠ x := by omega
        simp only [Tab.find?, if_neg h3, ih, if_neg h2]
    · subst h
      split
      · next hb => rw [ih]; simp [hb]
      · simp [Tab.find?]
    · have h1 : a ≤ x := by omega
      have h2 : a + 1 ≤ x := by omega
      obtain ⟨k, hk⟩ : ∃ k, x - a = k + 1 := ⟨x - a - 1, by omega⟩
      have hk' : x - (a + 1) = k := by omega
      split
      · rw [ih]; simp [h2, hk, hk']
      · have h3 : a ≠ x := by omega
        rw [Tab.find?, if_neg h3, ih]; simp [h2, hk, hk']

theorem Mem.find?_cells_out (a : Nat) (bs : List Byte) (x : Nat) (h : x < a ∨ a + bs.length ≤ x) :
    Tab.find? (Mem.cells a bs) x = none := by
  induction bs generalizing a with
  | nil => simp [Mem.cells]
  | cons b t ih =>
    simp only [Mem.cells, List.length_cons] at *
    have h3 : a ≠ x := by omega
    split
    · exact ih _ (by omega)
    · simp only [Tab.find?, if_neg h3]; exact ih _ (by omega)

/-- After a store, a byte of the span reads as written and every other byte as before. -/
theorem Mem.get_write (m : List Host.Cell) (a : Nat) (bs : List Byte) (x : Nat) :
    Mem.get (Mem.write m a bs) x = if a ≤ x ∧ x < a + bs.length then bs.getD (x - a) 0 else Mem.get m x := by
  unfold Mem.get Tab.get Mem.write
  rw [Tab.find?_append, Tab.find?_append, Tab.find?_below, Tab.find?_from]
  by_cases h1 : x < a
  · have h2 : ¬ a + bs.length ≤ x := by omega
    have h3 : ¬ (a ≤ x ∧ x < a + bs.length) := by omega
    rw [Mem.find?_cells_out a bs x (.inl h1)]
    simp [h1, h2, h3]
  · by_cases h2 : a + bs.length ≤ x
    · have h3 : ¬ (a ≤ x ∧ x < a + bs.length) := by omega
      rw [Mem.find?_cells_out a bs x (.inr h2)]
      simp [h1, h2, h3]
    · have h3 : a ≤ x ∧ x < a + bs.length := by omega
      have := Mem.find?_cells a bs x
      simp only [h3.1, if_true] at this
      simpa [h1, h2, h3] using this

theorem Mem.expand_length (n a : Nat) (m : List Host.Cell) : (Mem.expand n a m).length = n := by
  induction n generalizing a m with
  | zero => rfl
  | succ n ih =>
    cases m with
    | nil => simp [Mem.expand, ih]
    | cons e t => obtain ⟨k, b⟩ := e; simp only [Mem.expand]; split <;> simp [ih]

@[simp] theorem Mem.read_length (m : List Host.Cell) (a n : Nat) : (Mem.read m a n).length = n :=
  Mem.expand_length _ _ _

theorem Mem.expand_getElem? (n a : Nat) (m : List Host.Cell)
    (hs : m.Pairwise fun x y => x.1 < y.1) (hl : ∀ e ∈ m, a ≤ e.1) (i : Nat) :
    (Mem.expand n a m)[i]? = if i < n then some (Mem.get m (a + i)) else none := by
  induction n generalizing a m i with
  | zero => simp [Mem.expand]
  | succ n ih =>
    cases m with
    | nil =>
      cases i with
      | zero => simp [Mem.expand, Mem.get, Tab.get]
      | succ i =>
        simp only [Mem.expand, List.getElem?_cons_succ]
        rw [ih _ _ (by simp) (by simp)]
        simp [Mem.get, Tab.get]
    | cons e t =>
      obtain ⟨k, b⟩ := e
      have hk : a ≤ k := hl (k, b) (by simp)
      rw [List.pairwise_cons] at hs
      simp only [Mem.expand]
      split
      · next h =>
        subst h
        cases i with
        | zero => simp [Mem.get, Tab.get, Tab.find?]
        | succ i =>
          simp only [List.getElem?_cons_succ]
          rw [ih _ _ hs.2 (fun e he => by have := hs.1 e he; simp only at this; omega)]
          have h1 : ¬ k = k + (i + 1) := by omega
          simp [Mem.get, Tab.get, Tab.find?, Nat.add_assoc, Nat.add_comm 1 i]
      · next h =>
        cases i with
        | zero => 
          have hn : Tab.find? t a = none := by
            have : ∀ u : List Host.Cell, (∀ e ∈ u, a < e.1) → Tab.find? u a = none := by
              intro u hu
              induction u with
              | nil => rfl
              | cons e u ih =>
                obtain ⟨k, b⟩ := e
                have := hu (k, b) (by simp)
                have h3 : ¬ k = a := by simp only at this; omega
                simp only [Tab.find?, if_neg h3]
                exact ih fun e he => hu e (by simp [he])
            exact this t fun e he => by have := hs.1 e he; simp only at this; omega
          simp [Mem.get, Tab.get, Tab.find?, h, hn]
        | succ i =>
          simp only [List.getElem?_cons_succ]
          rw [ih _ _ (List.pairwise_cons.2 hs) (fun e he => by
            rcases List.mem_cons.1 he with rfl | he
            · simp only; omega
            · have := hs.1 e he; simp only at this; omega)]
          simp [Nat.add_assoc, Nat.add_comm 1 i]

/-- A span of a memory in canonical form reads byte by byte. -/
theorem Mem.read_getElem? {m : List Host.Cell} (hm : Memory.wf m = true) (a n i : Nat) :
    (Mem.read m a n)[i]? = if i < n then some (Mem.get m (a + i)) else none := by
  rw [Memory.wf, Tab.wf_iff] at hm
  rw [Mem.read, Mem.expand_getElem? _ _ _ (by simpa [Tab.from] using hm.1.filter _) (fun e he => (Tab.mem_from.1 he).2)]
  simp [Mem.get, Tab.get, Tab.find?_from]

/-! ## Little-endian numbers -/

@[simp] theorem leBytes_length (n v : Nat) : (leBytes n v).length = n := by
  induction n generalizing v with
  | zero => rfl
  | succ n ih => simp [leBytes, ih]

/-- The low bytes of a number spell it modulo their range. -/
theorem leNat_leBytes (n v : Nat) : leNat (leBytes n v) = v % 256 ^ n := by
  induction n generalizing v with
  | zero => simp [leBytes, leNat, Nat.mod_one]
  | succ n ih =>
    rw [leBytes, leNat, ih, Nat.pow_succ, Nat.mul_comm (256 ^ n) 256, Nat.mod_mul]
    simp

end Sys2Proof.Machine
end

