-- ==== Sys2Proof/Laws/State.lean ====
section
/-!
SUPPORT. Laws of the state's updates: for each update of one table of the state, the fields it leaves alone, and what
the table reads afterwards.
-/
namespace Sys2Proof.Machine

variable (s : State)

/-! ## engines -/

@[simp] theorem State.setEng_pending (e : Nat) (x : Engine) : (s.setEng e x).pending = s.pending := rfl
@[simp] theorem State.setEng_freeCtr (e : Nat) (x : Engine) : (s.setEng e x).freeCtr = s.freeCtr := rfl
@[simp] theorem State.setEng_nextCopy (e : Nat) (x : Engine) : (s.setEng e x).nextCopy = s.nextCopy := rfl
@[simp] theorem State.setEng_out (e : Nat) (x : Engine) : (s.setEng e x).out = s.out := rfl
@[simp] theorem State.setEng_gen (e : Nat) (x : Engine) : (s.setEng e x).gen = s.gen := rfl
@[simp] theorem State.setEng_pwr (e : Nat) (x : Engine) : (s.setEng e x).pwr = s.pwr := rfl
@[simp] theorem State.setEng_doms (e : Nat) (x : Engine) : (s.setEng e x).doms = s.doms := rfl
@[simp] theorem State.setEng_bu (e : Nat) (x : Engine) : (s.setEng e x).bu = s.bu := rfl
@[simp] theorem State.setEng_bond (e : Nat) (x : Engine) : (s.setEng e x).bond = s.bond := rfl
@[simp] theorem State.setEng_cfg (e : Nat) (x : Engine) : (s.setEng e x).cfg = s.cfg := rfl
@[simp] theorem State.setEng_courses (e : Nat) (x : Engine) : (s.setEng e x).courses = s.courses := rfl
@[simp] theorem State.setEng_parts (e : Nat) (x : Engine) : (s.setEng e x).parts = s.parts := rfl
@[simp] theorem State.setEng_ctxs (e : Nat) (x : Engine) : (s.setEng e x).ctxs = s.ctxs := rfl
@[simp] theorem State.setEng_mslots (e : Nat) (x : Engine) : (s.setEng e x).mslots = s.mslots := rfl
@[simp] theorem State.setEng_keys (e : Nat) (x : Engine) : (s.setEng e x).keys = s.keys := rfl
@[simp] theorem State.setEng_ofls (e : Nat) (x : Engine) : (s.setEng e x).ofls = s.ofls := rfl
@[simp] theorem State.setEng_rte (e : Nat) (x : Engine) : (s.setEng e x).rte = s.rte := rfl
@[simp] theorem State.setEng_ports (e : Nat) (x : Engine) : (s.setEng e x).ports = s.ports := rfl
@[simp] theorem State.setEng_hbCount (e : Nat) (x : Engine) : (s.setEng e x).hbCount = s.hbCount := rfl
@[simp] theorem State.setEng_piers (e : Nat) (x : Engine) : (s.setEng e x).piers = s.piers := rfl
@[simp] theorem State.setEng_mcs (e : Nat) (x : Engine) : (s.setEng e x).mcs = s.mcs := rfl
@[simp] theorem State.setEng_ls (e : Nat) (x : Engine) : (s.setEng e x).ls = s.ls := rfl
@[simp] theorem State.setEng_cs (e : Nat) (x : Engine) : (s.setEng e x).cs = s.cs := rfl
@[simp] theorem State.setEng_mem (e : Nat) (x : Engine) : (s.setEng e x).mem = s.mem := rfl
@[simp] theorem State.setEng_ckp (e : Nat) (x : Engine) : (s.setEng e x).ckp = s.ckp := rfl
@[simp] theorem State.setEng_frz (e : Nat) (x : Engine) : (s.setEng e x).frz = s.frz := rfl
@[simp] theorem State.setEng_jtag (e : Nat) (x : Engine) : (s.setEng e x).jtag = s.jtag := rfl
@[simp] theorem State.setEng_sec (e : Nat) (x : Engine) : (s.setEng e x).sec = s.sec := rfl
@[simp] theorem State.setEng_hosts (e : Nat) (x : Engine) : (s.setEng e x).hosts = s.hosts := rfl
@[simp] theorem State.setEng_latches (e : Nat) (x : Engine) : (s.setEng e x).latches = s.latches := rfl
@[simp] theorem State.setEng_smbPtr (e : Nat) (x : Engine) : (s.setEng e x).smbPtr = s.smbPtr := rfl
@[simp] theorem State.setEng_setNow (e : Nat) (x : Engine) : (s.setEng e x).setNow = s.setNow := rfl
@[simp] theorem State.setEng_clearedNow (e : Nat) (x : Engine) : (s.setEng e x).clearedNow = s.clearedNow := rfl

@[simp] theorem State.modEng_pending (e : Nat) (f : Engine → Engine) : (s.modEng e f).pending = s.pending := rfl
@[simp] theorem State.modEng_freeCtr (e : Nat) (f : Engine → Engine) : (s.modEng e f).freeCtr = s.freeCtr := rfl
@[simp] theorem State.modEng_nextCopy (e : Nat) (f : Engine → Engine) : (s.modEng e f).nextCopy = s.nextCopy := rfl
@[simp] theorem State.modEng_out (e : Nat) (f : Engine → Engine) : (s.modEng e f).out = s.out := rfl
@[simp] theorem State.modEng_gen (e : Nat) (f : Engine → Engine) : (s.modEng e f).gen = s.gen := rfl
@[simp] theorem State.modEng_pwr (e : Nat) (f : Engine → Engine) : (s.modEng e f).pwr = s.pwr := rfl
@[simp] theorem State.modEng_doms (e : Nat) (f : Engine → Engine) : (s.modEng e f).doms = s.doms := rfl
@[simp] theorem State.modEng_bu (e : Nat) (f : Engine → Engine) : (s.modEng e f).bu = s.bu := rfl
@[simp] theorem State.modEng_bond (e : Nat) (f : Engine → Engine) : (s.modEng e f).bond = s.bond := rfl
@[simp] theorem State.modEng_cfg (e : Nat) (f : Engine → Engine) : (s.modEng e f).cfg = s.cfg := rfl
@[simp] theorem State.modEng_courses (e : Nat) (f : Engine → Engine) : (s.modEng e f).courses = s.courses := rfl
@[simp] theorem State.modEng_parts (e : Nat) (f : Engine → Engine) : (s.modEng e f).parts = s.parts := rfl
@[simp] theorem State.modEng_ctxs (e : Nat) (f : Engine → Engine) : (s.modEng e f).ctxs = s.ctxs := rfl
@[simp] theorem State.modEng_mslots (e : Nat) (f : Engine → Engine) : (s.modEng e f).mslots = s.mslots := rfl
@[simp] theorem State.modEng_keys (e : Nat) (f : Engine → Engine) : (s.modEng e f).keys = s.keys := rfl
@[simp] theorem State.modEng_ofls (e : Nat) (f : Engine → Engine) : (s.modEng e f).ofls = s.ofls := rfl
@[simp] theorem State.modEng_rte (e : Nat) (f : Engine → Engine) : (s.modEng e f).rte = s.rte := rfl
@[simp] theorem State.modEng_ports (e : Nat) (f : Engine → Engine) : (s.modEng e f).ports = s.ports := rfl
@[simp] theorem State.modEng_hbCount (e : Nat) (f : Engine → Engine) : (s.modEng e f).hbCount = s.hbCount := rfl
@[simp] theorem State.modEng_piers (e : Nat) (f : Engine → Engine) : (s.modEng e f).piers = s.piers := rfl
@[simp] theorem State.modEng_mcs (e : Nat) (f : Engine → Engine) : (s.modEng e f).mcs = s.mcs := rfl
@[simp] theorem State.modEng_ls (e : Nat) (f : Engine → Engine) : (s.modEng e f).ls = s.ls := rfl
@[simp] theorem State.modEng_cs (e : Nat) (f : Engine → Engine) : (s.modEng e f).cs = s.cs := rfl
@[simp] theorem State.modEng_mem (e : Nat) (f : Engine → Engine) : (s.modEng e f).mem = s.mem := rfl
@[simp] theorem State.modEng_ckp (e : Nat) (f : Engine → Engine) : (s.modEng e f).ckp = s.ckp := rfl
@[simp] theorem State.modEng_frz (e : Nat) (f : Engine → Engine) : (s.modEng e f).frz = s.frz := rfl
@[simp] theorem State.modEng_jtag (e : Nat) (f : Engine → Engine) : (s.modEng e f).jtag = s.jtag := rfl
@[simp] theorem State.modEng_sec (e : Nat) (f : Engine → Engine) : (s.modEng e f).sec = s.sec := rfl
@[simp] theorem State.modEng_hosts (e : Nat) (f : Engine → Engine) : (s.modEng e f).hosts = s.hosts := rfl
@[simp] theorem State.modEng_latches (e : Nat) (f : Engine → Engine) : (s.modEng e f).latches = s.latches := rfl
@[simp] theorem State.modEng_smbPtr (e : Nat) (f : Engine → Engine) : (s.modEng e f).smbPtr = s.smbPtr := rfl
@[simp] theorem State.modEng_setNow (e : Nat) (f : Engine → Engine) : (s.modEng e f).setNow = s.setNow := rfl
@[simp] theorem State.modEng_clearedNow (e : Nat) (f : Engine → Engine) : (s.modEng e f).clearedNow = s.clearedNow := rfl

theorem State.eng_setEng (a b : Nat) (x : Engine) : (s.setEng a x).eng b = if b = a then x else s.eng b :=
  Tab.get_put ..
@[simp] theorem State.eng_setEng_self (a : Nat) (x : Engine) : (s.setEng a x).eng a = x := Tab.get_put_self ..
theorem State.eng_setEng_ne {a b : Nat} (x : Engine) (h : b ≠ a) : (s.setEng a x).eng b = s.eng b :=
  Tab.get_put_ne _ _ _ h
theorem State.eng_modEng (a b : Nat) (f : Engine → Engine) :
    (s.modEng a f).eng b = if b = a then f (s.eng a) else s.eng b := Tab.get_put ..
@[simp] theorem State.eng_modEng_self (a : Nat) (f : Engine → Engine) : (s.modEng a f).eng a = f (s.eng a) :=
  Tab.get_put_self ..
theorem State.eng_modEng_ne {a b : Nat} (f : Engine → Engine) (h : b ≠ a) : (s.modEng a f).eng b = s.eng b :=
  Tab.get_put_ne _ _ _ h

@[simp] theorem State.crs_setEng (a b : Nat) (x : Engine) : (s.setEng a x).crs b = s.crs b := rfl
@[simp] theorem State.crs_modEng (a b : Nat) (f : Engine → Engine) : (s.modEng a f).crs b = s.crs b := rfl
@[simp] theorem State.part_setEng (a b : Nat) (x : Engine) : (s.setEng a x).part b = s.part b := rfl
@[simp] theorem State.part_modEng (a b : Nat) (f : Engine → Engine) : (s.modEng a f).part b = s.part b := rfl
@[simp] theorem State.ctx_setEng (a b : Nat) (x : Engine) : (s.setEng a x).ctx b = s.ctx b := rfl
@[simp] theorem State.ctx_modEng (a b : Nat) (f : Engine → Engine) : (s.modEng a f).ctx b = s.ctx b := rfl
@[simp] theorem State.mslot_setEng (a b : Nat) (x : Engine) : (s.setEng a x).mslot b = s.mslot b := rfl
@[simp] theorem State.mslot_modEng (a b : Nat) (f : Engine → Engine) : (s.modEng a f).mslot b = s.mslot b := rfl
@[simp] theorem State.key_setEng (a b : Nat) (x : Engine) : (s.setEng a x).key b = s.key b := rfl
@[simp] theorem State.key_modEng (a b : Nat) (f : Engine → Engine) : (s.modEng a f).key b = s.key b := rfl
@[simp] theorem State.port_setEng (a b : Nat) (x : Engine) : (s.setEng a x).port b = s.port b := rfl
@[simp] theorem State.port_modEng (a b : Nat) (f : Engine → Engine) : (s.modEng a f).port b = s.port b := rfl
@[simp] theorem State.pier_setEng (a b : Nat) (x : Engine) : (s.setEng a x).pier b = s.pier b := rfl
@[simp] theorem State.pier_modEng (a b : Nat) (f : Engine → Engine) : (s.modEng a f).pier b = s.pier b := rfl
@[simp] theorem State.dom_setEng (a b : Nat) (x : Engine) : (s.setEng a x).dom b = s.dom b := rfl
@[simp] theorem State.dom_modEng (a b : Nat) (f : Engine → Engine) : (s.modEng a f).dom b = s.dom b := rfl
@[simp] theorem State.host_setEng (a b : Nat) (x : Engine) : (s.setEng a x).host b = s.host b := rfl
@[simp] theorem State.host_modEng (a b : Nat) (f : Engine → Engine) : (s.modEng a f).host b = s.host b := rfl

/-! ## courses -/

@[simp] theorem State.setCrs_pending (c : Nat) (x : Course) : (s.setCrs c x).pending = s.pending := rfl
@[simp] theorem State.setCrs_freeCtr (c : Nat) (x : Course) : (s.setCrs c x).freeCtr = s.freeCtr := rfl
@[simp] theorem State.setCrs_nextCopy (c : Nat) (x : Course) : (s.setCrs c x).nextCopy = s.nextCopy := rfl
@[simp] theorem State.setCrs_out (c : Nat) (x : Course) : (s.setCrs c x).out = s.out := rfl
@[simp] theorem State.setCrs_gen (c : Nat) (x : Course) : (s.setCrs c x).gen = s.gen := rfl
@[simp] theorem State.setCrs_pwr (c : Nat) (x : Course) : (s.setCrs c x).pwr = s.pwr := rfl
@[simp] theorem State.setCrs_doms (c : Nat) (x : Course) : (s.setCrs c x).doms = s.doms := rfl
@[simp] theorem State.setCrs_bu (c : Nat) (x : Course) : (s.setCrs c x).bu = s.bu := rfl
@[simp] theorem State.setCrs_bond (c : Nat) (x : Course) : (s.setCrs c x).bond = s.bond := rfl
@[simp] theorem State.setCrs_cfg (c : Nat) (x : Course) : (s.setCrs c x).cfg = s.cfg := rfl
@[simp] theorem State.setCrs_engines (c : Nat) (x : Course) : (s.setCrs c x).engines = s.engines := rfl
@[simp] theorem State.setCrs_parts (c : Nat) (x : Course) : (s.setCrs c x).parts = s.parts := rfl
@[simp] theorem State.setCrs_ctxs (c : Nat) (x : Course) : (s.setCrs c x).ctxs = s.ctxs := rfl
@[simp] theorem State.setCrs_mslots (c : Nat) (x : Course) : (s.setCrs c x).mslots = s.mslots := rfl
@[simp] theorem State.setCrs_keys (c : Nat) (x : Course) : (s.setCrs c x).keys = s.keys := rfl
@[simp] theorem State.setCrs_ofls (c : Nat) (x : Course) : (s.setCrs c x).ofls = s.ofls := rfl
@[simp] theorem State.setCrs_rte (c : Nat) (x : Course) : (s.setCrs c x).rte = s.rte := rfl
@[simp] theorem State.setCrs_ports (c : Nat) (x : Course) : (s.setCrs c x).ports = s.ports := rfl
@[simp] theorem State.setCrs_hbCount (c : Nat) (x : Course) : (s.setCrs c x).hbCount = s.hbCount := rfl
@[simp] theorem State.setCrs_piers (c : Nat) (x : Course) : (s.setCrs c x).piers = s.piers := rfl
@[simp] theorem State.setCrs_mcs (c : Nat) (x : Course) : (s.setCrs c x).mcs = s.mcs := rfl
@[simp] theorem State.setCrs_ls (c : Nat) (x : Course) : (s.setCrs c x).ls = s.ls := rfl
@[simp] theorem State.setCrs_cs (c : Nat) (x : Course) : (s.setCrs c x).cs = s.cs := rfl
@[simp] theorem State.setCrs_mem (c : Nat) (x : Course) : (s.setCrs c x).mem = s.mem := rfl
@[simp] theorem State.setCrs_ckp (c : Nat) (x : Course) : (s.setCrs c x).ckp = s.ckp := rfl
@[simp] theorem State.setCrs_frz (c : Nat) (x : Course) : (s.setCrs c x).frz = s.frz := rfl
@[simp] theorem State.setCrs_jtag (c : Nat) (x : Course) : (s.setCrs c x).jtag = s.jtag := rfl
@[simp] theorem State.setCrs_sec (c : Nat) (x : Course) : (s.setCrs c x).sec = s.sec := rfl
@[simp] theorem State.setCrs_hosts (c : Nat) (x : Course) : (s.setCrs c x).hosts = s.hosts := rfl
@[simp] theorem State.setCrs_latches (c : Nat) (x : Course) : (s.setCrs c x).latches = s.latches := rfl
@[simp] theorem State.setCrs_smbPtr (c : Nat) (x : Course) : (s.setCrs c x).smbPtr = s.smbPtr := rfl
@[simp] theorem State.setCrs_setNow (c : Nat) (x : Course) : (s.setCrs c x).setNow = s.setNow := rfl
@[simp] theorem State.setCrs_clearedNow (c : Nat) (x : Course) : (s.setCrs c x).clearedNow = s.clearedNow := rfl

@[simp] theorem State.modCrs_pending (c : Nat) (f : Course → Course) : (s.modCrs c f).pending = s.pending := rfl
@[simp] theorem State.modCrs_freeCtr (c : Nat) (f : Course → Course) : (s.modCrs c f).freeCtr = s.freeCtr := rfl
@[simp] theorem State.modCrs_nextCopy (c : Nat) (f : Course → Course) : (s.modCrs c f).nextCopy = s.nextCopy := rfl
@[simp] theorem State.modCrs_out (c : Nat) (f : Course → Course) : (s.modCrs c f).out = s.out := rfl
@[simp] theorem State.modCrs_gen (c : Nat) (f : Course → Course) : (s.modCrs c f).gen = s.gen := rfl
@[simp] theorem State.modCrs_pwr (c : Nat) (f : Course → Course) : (s.modCrs c f).pwr = s.pwr := rfl
@[simp] theorem State.modCrs_doms (c : Nat) (f : Course → Course) : (s.modCrs c f).doms = s.doms := rfl
@[simp] theorem State.modCrs_bu (c : Nat) (f : Course → Course) : (s.modCrs c f).bu = s.bu := rfl
@[simp] theorem State.modCrs_bond (c : Nat) (f : Course → Course) : (s.modCrs c f).bond = s.bond := rfl
@[simp] theorem State.modCrs_cfg (c : Nat) (f : Course → Course) : (s.modCrs c f).cfg = s.cfg := rfl
@[simp] theorem State.modCrs_engines (c : Nat) (f : Course → Course) : (s.modCrs c f).engines = s.engines := rfl
@[simp] theorem State.modCrs_parts (c : Nat) (f : Course → Course) : (s.modCrs c f).parts = s.parts := rfl
@[simp] theorem State.modCrs_ctxs (c : Nat) (f : Course → Course) : (s.modCrs c f).ctxs = s.ctxs := rfl
@[simp] theorem State.modCrs_mslots (c : Nat) (f : Course → Course) : (s.modCrs c f).mslots = s.mslots := rfl
@[simp] theorem State.modCrs_keys (c : Nat) (f : Course → Course) : (s.modCrs c f).keys = s.keys := rfl
@[simp] theorem State.modCrs_ofls (c : Nat) (f : Course → Course) : (s.modCrs c f).ofls = s.ofls := rfl
@[simp] theorem State.modCrs_rte (c : Nat) (f : Course → Course) : (s.modCrs c f).rte = s.rte := rfl
@[simp] theorem State.modCrs_ports (c : Nat) (f : Course → Course) : (s.modCrs c f).ports = s.ports := rfl
@[simp] theorem State.modCrs_hbCount (c : Nat) (f : Course → Course) : (s.modCrs c f).hbCount = s.hbCount := rfl
@[simp] theorem State.modCrs_piers (c : Nat) (f : Course → Course) : (s.modCrs c f).piers = s.piers := rfl
@[simp] theorem State.modCrs_mcs (c : Nat) (f : Course → Course) : (s.modCrs c f).mcs = s.mcs := rfl
@[simp] theorem State.modCrs_ls (c : Nat) (f : Course → Course) : (s.modCrs c f).ls = s.ls := rfl
@[simp] theorem State.modCrs_cs (c : Nat) (f : Course → Course) : (s.modCrs c f).cs = s.cs := rfl
@[simp] theorem State.modCrs_mem (c : Nat) (f : Course → Course) : (s.modCrs c f).mem = s.mem := rfl
@[simp] theorem State.modCrs_ckp (c : Nat) (f : Course → Course) : (s.modCrs c f).ckp = s.ckp := rfl
@[simp] theorem State.modCrs_frz (c : Nat) (f : Course → Course) : (s.modCrs c f).frz = s.frz := rfl
@[simp] theorem State.modCrs_jtag (c : Nat) (f : Course → Course) : (s.modCrs c f).jtag = s.jtag := rfl
@[simp] theorem State.modCrs_sec (c : Nat) (f : Course → Course) : (s.modCrs c f).sec = s.sec := rfl
@[simp] theorem State.modCrs_hosts (c : Nat) (f : Course → Course) : (s.modCrs c f).hosts = s.hosts := rfl
@[simp] theorem State.modCrs_latches (c : Nat) (f : Course → Course) : (s.modCrs c f).latches = s.latches := rfl
@[simp] theorem State.modCrs_smbPtr (c : Nat) (f : Course → Course) : (s.modCrs c f).smbPtr = s.smbPtr := rfl
@[simp] theorem State.modCrs_setNow (c : Nat) (f : Course → Course) : (s.modCrs c f).setNow = s.setNow := rfl
@[simp] theorem State.modCrs_clearedNow (c : Nat) (f : Course → Course) : (s.modCrs c f).clearedNow = s.clearedNow := rfl

theorem State.crs_setCrs (a b : Nat) (x : Course) : (s.setCrs a x).crs b = if b = a then x else s.crs b :=
  Tab.get_put ..
@[simp] theorem State.crs_setCrs_self (a : Nat) (x : Course) : (s.setCrs a x).crs a = x := Tab.get_put_self ..
theorem State.crs_setCrs_ne {a b : Nat} (x : Course) (h : b ≠ a) : (s.setCrs a x).crs b = s.crs b :=
  Tab.get_put_ne _ _ _ h
theorem State.crs_modCrs (a b : Nat) (f : Course → Course) :
    (s.modCrs a f).crs b = if b = a then f (s.crs a) else s.crs b := Tab.get_put ..
@[simp] theorem State.crs_modCrs_self (a : Nat) (f : Course → Course) : (s.modCrs a f).crs a = f (s.crs a) :=
  Tab.get_put_self ..
theorem State.crs_modCrs_ne {a b : Nat} (f : Course → Course) (h : b ≠ a) : (s.modCrs a f).crs b = s.crs b :=
  Tab.get_put_ne _ _ _ h

@[simp] theorem State.eng_setCrs (a b : Nat) (x : Course) : (s.setCrs a x).eng b = s.eng b := rfl
@[simp] theorem State.eng_modCrs (a b : Nat) (f : Course → Course) : (s.modCrs a f).eng b = s.eng b := rfl
@[simp] theorem State.part_setCrs (a b : Nat) (x : Course) : (s.setCrs a x).part b = s.part b := rfl
@[simp] theorem State.part_modCrs (a b : Nat) (f : Course → Course) : (s.modCrs a f).part b = s.part b := rfl
@[simp] theorem State.ctx_setCrs (a b : Nat) (x : Course) : (s.setCrs a x).ctx b = s.ctx b := rfl
@[simp] theorem State.ctx_modCrs (a b : Nat) (f : Course → Course) : (s.modCrs a f).ctx b = s.ctx b := rfl
@[simp] theorem State.mslot_setCrs (a b : Nat) (x : Course) : (s.setCrs a x).mslot b = s.mslot b := rfl
@[simp] theorem State.mslot_modCrs (a b : Nat) (f : Course → Course) : (s.modCrs a f).mslot b = s.mslot b := rfl
@[simp] theorem State.key_setCrs (a b : Nat) (x : Course) : (s.setCrs a x).key b = s.key b := rfl
@[simp] theorem State.key_modCrs (a b : Nat) (f : Course → Course) : (s.modCrs a f).key b = s.key b := rfl
@[simp] theorem State.port_setCrs (a b : Nat) (x : Course) : (s.setCrs a x).port b = s.port b := rfl
@[simp] theorem State.port_modCrs (a b : Nat) (f : Course → Course) : (s.modCrs a f).port b = s.port b := rfl
@[simp] theorem State.pier_setCrs (a b : Nat) (x : Course) : (s.setCrs a x).pier b = s.pier b := rfl
@[simp] theorem State.pier_modCrs (a b : Nat) (f : Course → Course) : (s.modCrs a f).pier b = s.pier b := rfl
@[simp] theorem State.dom_setCrs (a b : Nat) (x : Course) : (s.setCrs a x).dom b = s.dom b := rfl
@[simp] theorem State.dom_modCrs (a b : Nat) (f : Course → Course) : (s.modCrs a f).dom b = s.dom b := rfl
@[simp] theorem State.host_setCrs (a b : Nat) (x : Course) : (s.setCrs a x).host b = s.host b := rfl
@[simp] theorem State.host_modCrs (a b : Nat) (f : Course → Course) : (s.modCrs a f).host b = s.host b := rfl

/-! ## parts -/

@[simp] theorem State.setPart_pending (p : Nat) (x : Part) : (s.setPart p x).pending = s.pending := rfl
@[simp] theorem State.setPart_freeCtr (p : Nat) (x : Part) : (s.setPart p x).freeCtr = s.freeCtr := rfl
@[simp] theorem State.setPart_nextCopy (p : Nat) (x : Part) : (s.setPart p x).nextCopy = s.nextCopy := rfl
@[simp] theorem State.setPart_out (p : Nat) (x : Part) : (s.setPart p x).out = s.out := rfl
@[simp] theorem State.setPart_gen (p : Nat) (x : Part) : (s.setPart p x).gen = s.gen := rfl
@[simp] theorem State.setPart_pwr (p : Nat) (x : Part) : (s.setPart p x).pwr = s.pwr := rfl
@[simp] theorem State.setPart_doms (p : Nat) (x : Part) : (s.setPart p x).doms = s.doms := rfl
@[simp] theorem State.setPart_bu (p : Nat) (x : Part) : (s.setPart p x).bu = s.bu := rfl
@[simp] theorem State.setPart_bond (p : Nat) (x : Part) : (s.setPart p x).bond = s.bond := rfl
@[simp] theorem State.setPart_cfg (p : Nat) (x : Part) : (s.setPart p x).cfg = s.cfg := rfl
@[simp] theorem State.setPart_engines (p : Nat) (x : Part) : (s.setPart p x).engines = s.engines := rfl
@[simp] theorem State.setPart_courses (p : Nat) (x : Part) : (s.setPart p x).courses = s.courses := rfl
@[simp] theorem State.setPart_ctxs (p : Nat) (x : Part) : (s.setPart p x).ctxs = s.ctxs := rfl
@[simp] theorem State.setPart_mslots (p : Nat) (x : Part) : (s.setPart p x).mslots = s.mslots := rfl
@[simp] theorem State.setPart_keys (p : Nat) (x : Part) : (s.setPart p x).keys = s.keys := rfl
@[simp] theorem State.setPart_ofls (p : Nat) (x : Part) : (s.setPart p x).ofls = s.ofls := rfl
@[simp] theorem State.setPart_rte (p : Nat) (x : Part) : (s.setPart p x).rte = s.rte := rfl
@[simp] theorem State.setPart_ports (p : Nat) (x : Part) : (s.setPart p x).ports = s.ports := rfl
@[simp] theorem State.setPart_hbCount (p : Nat) (x : Part) : (s.setPart p x).hbCount = s.hbCount := rfl
@[simp] theorem State.setPart_piers (p : Nat) (x : Part) : (s.setPart p x).piers = s.piers := rfl
@[simp] theorem State.setPart_mcs (p : Nat) (x : Part) : (s.setPart p x).mcs = s.mcs := rfl
@[simp] theorem State.setPart_ls (p : Nat) (x : Part) : (s.setPart p x).ls = s.ls := rfl
@[simp] theorem State.setPart_cs (p : Nat) (x : Part) : (s.setPart p x).cs = s.cs := rfl
@[simp] theorem State.setPart_mem (p : Nat) (x : Part) : (s.setPart p x).mem = s.mem := rfl
@[simp] theorem State.setPart_ckp (p : Nat) (x : Part) : (s.setPart p x).ckp = s.ckp := rfl
@[simp] theorem State.setPart_frz (p : Nat) (x : Part) : (s.setPart p x).frz = s.frz := rfl
@[simp] theorem State.setPart_jtag (p : Nat) (x : Part) : (s.setPart p x).jtag = s.jtag := rfl
@[simp] theorem State.setPart_sec (p : Nat) (x : Part) : (s.setPart p x).sec = s.sec := rfl
@[simp] theorem State.setPart_hosts (p : Nat) (x : Part) : (s.setPart p x).hosts = s.hosts := rfl
@[simp] theorem State.setPart_latches (p : Nat) (x : Part) : (s.setPart p x).latches = s.latches := rfl
@[simp] theorem State.setPart_smbPtr (p : Nat) (x : Part) : (s.setPart p x).smbPtr = s.smbPtr := rfl
@[simp] theorem State.setPart_setNow (p : Nat) (x : Part) : (s.setPart p x).setNow = s.setNow := rfl
@[simp] theorem State.setPart_clearedNow (p : Nat) (x : Part) : (s.setPart p x).clearedNow = s.clearedNow := rfl

@[simp] theorem State.modPart_pending (p : Nat) (f : Part → Part) : (s.modPart p f).pending = s.pending := rfl
@[simp] theorem State.modPart_freeCtr (p : Nat) (f : Part → Part) : (s.modPart p f).freeCtr = s.freeCtr := rfl
@[simp] theorem State.modPart_nextCopy (p : Nat) (f : Part → Part) : (s.modPart p f).nextCopy = s.nextCopy := rfl
@[simp] theorem State.modPart_out (p : Nat) (f : Part → Part) : (s.modPart p f).out = s.out := rfl
@[simp] theorem State.modPart_gen (p : Nat) (f : Part → Part) : (s.modPart p f).gen = s.gen := rfl
@[simp] theorem State.modPart_pwr (p : Nat) (f : Part → Part) : (s.modPart p f).pwr = s.pwr := rfl
@[simp] theorem State.modPart_doms (p : Nat) (f : Part → Part) : (s.modPart p f).doms = s.doms := rfl
@[simp] theorem State.modPart_bu (p : Nat) (f : Part → Part) : (s.modPart p f).bu = s.bu := rfl
@[simp] theorem State.modPart_bond (p : Nat) (f : Part → Part) : (s.modPart p f).bond = s.bond := rfl
@[simp] theorem State.modPart_cfg (p : Nat) (f : Part → Part) : (s.modPart p f).cfg = s.cfg := rfl
@[simp] theorem State.modPart_engines (p : Nat) (f : Part → Part) : (s.modPart p f).engines = s.engines := rfl
@[simp] theorem State.modPart_courses (p : Nat) (f : Part → Part) : (s.modPart p f).courses = s.courses := rfl
@[simp] theorem State.modPart_ctxs (p : Nat) (f : Part → Part) : (s.modPart p f).ctxs = s.ctxs := rfl
@[simp] theorem State.modPart_mslots (p : Nat) (f : Part → Part) : (s.modPart p f).mslots = s.mslots := rfl
@[simp] theorem State.modPart_keys (p : Nat) (f : Part → Part) : (s.modPart p f).keys = s.keys := rfl
@[simp] theorem State.modPart_ofls (p : Nat) (f : Part → Part) : (s.modPart p f).ofls = s.ofls := rfl
@[simp] theorem State.modPart_rte (p : Nat) (f : Part → Part) : (s.modPart p f).rte = s.rte := rfl
@[simp] theorem State.modPart_ports (p : Nat) (f : Part → Part) : (s.modPart p f).ports = s.ports := rfl
@[simp] theorem State.modPart_hbCount (p : Nat) (f : Part → Part) : (s.modPart p f).hbCount = s.hbCount := rfl
@[simp] theorem State.modPart_piers (p : Nat) (f : Part → Part) : (s.modPart p f).piers = s.piers := rfl
@[simp] theorem State.modPart_mcs (p : Nat) (f : Part → Part) : (s.modPart p f).mcs = s.mcs := rfl
@[simp] theorem State.modPart_ls (p : Nat) (f : Part → Part) : (s.modPart p f).ls = s.ls := rfl
@[simp] theorem State.modPart_cs (p : Nat) (f : Part → Part) : (s.modPart p f).cs = s.cs := rfl
@[simp] theorem State.modPart_mem (p : Nat) (f : Part → Part) : (s.modPart p f).mem = s.mem := rfl
@[simp] theorem State.modPart_ckp (p : Nat) (f : Part → Part) : (s.modPart p f).ckp = s.ckp := rfl
@[simp] theorem State.modPart_frz (p : Nat) (f : Part → Part) : (s.modPart p f).frz = s.frz := rfl
@[simp] theorem State.modPart_jtag (p : Nat) (f : Part → Part) : (s.modPart p f).jtag = s.jtag := rfl
@[simp] theorem State.modPart_sec (p : Nat) (f : Part → Part) : (s.modPart p f).sec = s.sec := rfl
@[simp] theorem State.modPart_hosts (p : Nat) (f : Part → Part) : (s.modPart p f).hosts = s.hosts := rfl
@[simp] theorem State.modPart_latches (p : Nat) (f : Part → Part) : (s.modPart p f).latches = s.latches := rfl
@[simp] theorem State.modPart_smbPtr (p : Nat) (f : Part → Part) : (s.modPart p f).smbPtr = s.smbPtr := rfl
@[simp] theorem State.modPart_setNow (p : Nat) (f : Part → Part) : (s.modPart p f).setNow = s.setNow := rfl
@[simp] theorem State.modPart_clearedNow (p : Nat) (f : Part → Part) : (s.modPart p f).clearedNow = s.clearedNow := rfl

theorem State.part_setPart (a b : Nat) (x : Part) : (s.setPart a x).part b = if b = a then x else s.part b :=
  Tab.get_put ..
@[simp] theorem State.part_setPart_self (a : Nat) (x : Part) : (s.setPart a x).part a = x := Tab.get_put_self ..
theorem State.part_setPart_ne {a b : Nat} (x : Part) (h : b ≠ a) : (s.setPart a x).part b = s.part b :=
  Tab.get_put_ne _ _ _ h
theorem State.part_modPart (a b : Nat) (f : Part → Part) :
    (s.modPart a f).part b = if b = a then f (s.part a) else s.part b := Tab.get_put ..
@[simp] theorem State.part_modPart_self (a : Nat) (f : Part → Part) : (s.modPart a f).part a = f (s.part a) :=
  Tab.get_put_self ..
theorem State.part_modPart_ne {a b : Nat} (f : Part → Part) (h : b ≠ a) : (s.modPart a f).part b = s.part b :=
  Tab.get_put_ne _ _ _ h

@[simp] theorem State.eng_setPart (a b : Nat) (x : Part) : (s.setPart a x).eng b = s.eng b := rfl
@[simp] theorem State.eng_modPart (a b : Nat) (f : Part → Part) : (s.modPart a f).eng b = s.eng b := rfl
@[simp] theorem State.crs_setPart (a b : Nat) (x : Part) : (s.setPart a x).crs b = s.crs b := rfl
@[simp] theorem State.crs_modPart (a b : Nat) (f : Part → Part) : (s.modPart a f).crs b = s.crs b := rfl
@[simp] theorem State.ctx_setPart (a b : Nat) (x : Part) : (s.setPart a x).ctx b = s.ctx b := rfl
@[simp] theorem State.ctx_modPart (a b : Nat) (f : Part → Part) : (s.modPart a f).ctx b = s.ctx b := rfl
@[simp] theorem State.mslot_setPart (a b : Nat) (x : Part) : (s.setPart a x).mslot b = s.mslot b := rfl
@[simp] theorem State.mslot_modPart (a b : Nat) (f : Part → Part) : (s.modPart a f).mslot b = s.mslot b := rfl
@[simp] theorem State.key_setPart (a b : Nat) (x : Part) : (s.setPart a x).key b = s.key b := rfl
@[simp] theorem State.key_modPart (a b : Nat) (f : Part → Part) : (s.modPart a f).key b = s.key b := rfl
@[simp] theorem State.port_setPart (a b : Nat) (x : Part) : (s.setPart a x).port b = s.port b := rfl
@[simp] theorem State.port_modPart (a b : Nat) (f : Part → Part) : (s.modPart a f).port b = s.port b := rfl
@[simp] theorem State.pier_setPart (a b : Nat) (x : Part) : (s.setPart a x).pier b = s.pier b := rfl
@[simp] theorem State.pier_modPart (a b : Nat) (f : Part → Part) : (s.modPart a f).pier b = s.pier b := rfl
@[simp] theorem State.dom_setPart (a b : Nat) (x : Part) : (s.setPart a x).dom b = s.dom b := rfl
@[simp] theorem State.dom_modPart (a b : Nat) (f : Part → Part) : (s.modPart a f).dom b = s.dom b := rfl
@[simp] theorem State.host_setPart (a b : Nat) (x : Part) : (s.setPart a x).host b = s.host b := rfl
@[simp] theorem State.host_modPart (a b : Nat) (f : Part → Part) : (s.modPart a f).host b = s.host b := rfl

/-! ## ctxs -/

@[simp] theorem State.setCtx_pending (n : Nat) (x : Ctx) : (s.setCtx n x).pending = s.pending := rfl
@[simp] theorem State.setCtx_freeCtr (n : Nat) (x : Ctx) : (s.setCtx n x).freeCtr = s.freeCtr := rfl
@[simp] theorem State.setCtx_nextCopy (n : Nat) (x : Ctx) : (s.setCtx n x).nextCopy = s.nextCopy := rfl
@[simp] theorem State.setCtx_out (n : Nat) (x : Ctx) : (s.setCtx n x).out = s.out := rfl
@[simp] theorem State.setCtx_gen (n : Nat) (x : Ctx) : (s.setCtx n x).gen = s.gen := rfl
@[simp] theorem State.setCtx_pwr (n : Nat) (x : Ctx) : (s.setCtx n x).pwr = s.pwr := rfl
@[simp] theorem State.setCtx_doms (n : Nat) (x : Ctx) : (s.setCtx n x).doms = s.doms := rfl
@[simp] theorem State.setCtx_bu (n : Nat) (x : Ctx) : (s.setCtx n x).bu = s.bu := rfl
@[simp] theorem State.setCtx_bond (n : Nat) (x : Ctx) : (s.setCtx n x).bond = s.bond := rfl
@[simp] theorem State.setCtx_cfg (n : Nat) (x : Ctx) : (s.setCtx n x).cfg = s.cfg := rfl
@[simp] theorem State.setCtx_engines (n : Nat) (x : Ctx) : (s.setCtx n x).engines = s.engines := rfl
@[simp] theorem State.setCtx_courses (n : Nat) (x : Ctx) : (s.setCtx n x).courses = s.courses := rfl
@[simp] theorem State.setCtx_parts (n : Nat) (x : Ctx) : (s.setCtx n x).parts = s.parts := rfl
@[simp] theorem State.setCtx_mslots (n : Nat) (x : Ctx) : (s.setCtx n x).mslots = s.mslots := rfl
@[simp] theorem State.setCtx_keys (n : Nat) (x : Ctx) : (s.setCtx n x).keys = s.keys := rfl
@[simp] theorem State.setCtx_ofls (n : Nat) (x : Ctx) : (s.setCtx n x).ofls = s.ofls := rfl
@[simp] theorem State.setCtx_rte (n : Nat) (x : Ctx) : (s.setCtx n x).rte = s.rte := rfl
@[simp] theorem State.setCtx_ports (n : Nat) (x : Ctx) : (s.setCtx n x).ports = s.ports := rfl
@[simp] theorem State.setCtx_hbCount (n : Nat) (x : Ctx) : (s.setCtx n x).hbCount = s.hbCount := rfl
@[simp] theorem State.setCtx_piers (n : Nat) (x : Ctx) : (s.setCtx n x).piers = s.piers := rfl
@[simp] theorem State.setCtx_mcs (n : Nat) (x : Ctx) : (s.setCtx n x).mcs = s.mcs := rfl
@[simp] theorem State.setCtx_ls (n : Nat) (x : Ctx) : (s.setCtx n x).ls = s.ls := rfl
@[simp] theorem State.setCtx_cs (n : Nat) (x : Ctx) : (s.setCtx n x).cs = s.cs := rfl
@[simp] theorem State.setCtx_mem (n : Nat) (x : Ctx) : (s.setCtx n x).mem = s.mem := rfl
@[simp] theorem State.setCtx_ckp (n : Nat) (x : Ctx) : (s.setCtx n x).ckp = s.ckp := rfl
@[simp] theorem State.setCtx_frz (n : Nat) (x : Ctx) : (s.setCtx n x).frz = s.frz := rfl
@[simp] theorem State.setCtx_jtag (n : Nat) (x : Ctx) : (s.setCtx n x).jtag = s.jtag := rfl
@[simp] theorem State.setCtx_sec (n : Nat) (x : Ctx) : (s.setCtx n x).sec = s.sec := rfl
@[simp] theorem State.setCtx_hosts (n : Nat) (x : Ctx) : (s.setCtx n x).hosts = s.hosts := rfl
@[simp] theorem State.setCtx_latches (n : Nat) (x : Ctx) : (s.setCtx n x).latches = s.latches := rfl
@[simp] theorem State.setCtx_smbPtr (n : Nat) (x : Ctx) : (s.setCtx n x).smbPtr = s.smbPtr := rfl
@[simp] theorem State.setCtx_setNow (n : Nat) (x : Ctx) : (s.setCtx n x).setNow = s.setNow := rfl
@[simp] theorem State.setCtx_clearedNow (n : Nat) (x : Ctx) : (s.setCtx n x).clearedNow = s.clearedNow := rfl

@[simp] theorem State.modCtx_pending (n : Nat) (f : Ctx → Ctx) : (s.modCtx n f).pending = s.pending := rfl
@[simp] theorem State.modCtx_freeCtr (n : Nat) (f : Ctx → Ctx) : (s.modCtx n f).freeCtr = s.freeCtr := rfl
@[simp] theorem State.modCtx_nextCopy (n : Nat) (f : Ctx → Ctx) : (s.modCtx n f).nextCopy = s.nextCopy := rfl
@[simp] theorem State.modCtx_out (n : Nat) (f : Ctx → Ctx) : (s.modCtx n f).out = s.out := rfl
@[simp] theorem State.modCtx_gen (n : Nat) (f : Ctx → Ctx) : (s.modCtx n f).gen = s.gen := rfl
@[simp] theorem State.modCtx_pwr (n : Nat) (f : Ctx → Ctx) : (s.modCtx n f).pwr = s.pwr := rfl
@[simp] theorem State.modCtx_doms (n : Nat) (f : Ctx → Ctx) : (s.modCtx n f).doms = s.doms := rfl
@[simp] theorem State.modCtx_bu (n : Nat) (f : Ctx → Ctx) : (s.modCtx n f).bu = s.bu := rfl
@[simp] theorem State.modCtx_bond (n : Nat) (f : Ctx → Ctx) : (s.modCtx n f).bond = s.bond := rfl
@[simp] theorem State.modCtx_cfg (n : Nat) (f : Ctx → Ctx) : (s.modCtx n f).cfg = s.cfg := rfl
@[simp] theorem State.modCtx_engines (n : Nat) (f : Ctx → Ctx) : (s.modCtx n f).engines = s.engines := rfl
@[simp] theorem State.modCtx_courses (n : Nat) (f : Ctx → Ctx) : (s.modCtx n f).courses = s.courses := rfl
@[simp] theorem State.modCtx_parts (n : Nat) (f : Ctx → Ctx) : (s.modCtx n f).parts = s.parts := rfl
@[simp] theorem State.modCtx_mslots (n : Nat) (f : Ctx → Ctx) : (s.modCtx n f).mslots = s.mslots := rfl
@[simp] theorem State.modCtx_keys (n : Nat) (f : Ctx → Ctx) : (s.modCtx n f).keys = s.keys := rfl
@[simp] theorem State.modCtx_ofls (n : Nat) (f : Ctx → Ctx) : (s.modCtx n f).ofls = s.ofls := rfl
@[simp] theorem State.modCtx_rte (n : Nat) (f : Ctx → Ctx) : (s.modCtx n f).rte = s.rte := rfl
@[simp] theorem State.modCtx_ports (n : Nat) (f : Ctx → Ctx) : (s.modCtx n f).ports = s.ports := rfl
@[simp] theorem State.modCtx_hbCount (n : Nat) (f : Ctx → Ctx) : (s.modCtx n f).hbCount = s.hbCount := rfl
@[simp] theorem State.modCtx_piers (n : Nat) (f : Ctx → Ctx) : (s.modCtx n f).piers = s.piers := rfl
@[simp] theorem State.modCtx_mcs (n : Nat) (f : Ctx → Ctx) : (s.modCtx n f).mcs = s.mcs := rfl
@[simp] theorem State.modCtx_ls (n : Nat) (f : Ctx → Ctx) : (s.modCtx n f).ls = s.ls := rfl
@[simp] theorem State.modCtx_cs (n : Nat) (f : Ctx → Ctx) : (s.modCtx n f).cs = s.cs := rfl
@[simp] theorem State.modCtx_mem (n : Nat) (f : Ctx → Ctx) : (s.modCtx n f).mem = s.mem := rfl
@[simp] theorem State.modCtx_ckp (n : Nat) (f : Ctx → Ctx) : (s.modCtx n f).ckp = s.ckp := rfl
@[simp] theorem State.modCtx_frz (n : Nat) (f : Ctx → Ctx) : (s.modCtx n f).frz = s.frz := rfl
@[simp] theorem State.modCtx_jtag (n : Nat) (f : Ctx → Ctx) : (s.modCtx n f).jtag = s.jtag := rfl
@[simp] theorem State.modCtx_sec (n : Nat) (f : Ctx → Ctx) : (s.modCtx n f).sec = s.sec := rfl
@[simp] theorem State.modCtx_hosts (n : Nat) (f : Ctx → Ctx) : (s.modCtx n f).hosts = s.hosts := rfl
@[simp] theorem State.modCtx_latches (n : Nat) (f : Ctx → Ctx) : (s.modCtx n f).latches = s.latches := rfl
@[simp] theorem State.modCtx_smbPtr (n : Nat) (f : Ctx → Ctx) : (s.modCtx n f).smbPtr = s.smbPtr := rfl
@[simp] theorem State.modCtx_setNow (n : Nat) (f : Ctx → Ctx) : (s.modCtx n f).setNow = s.setNow := rfl
@[simp] theorem State.modCtx_clearedNow (n : Nat) (f : Ctx → Ctx) : (s.modCtx n f).clearedNow = s.clearedNow := rfl

theorem State.ctx_setCtx (a b : Nat) (x : Ctx) : (s.setCtx a x).ctx b = if b = a then x else s.ctx b :=
  Tab.get_put ..
@[simp] theorem State.ctx_setCtx_self (a : Nat) (x : Ctx) : (s.setCtx a x).ctx a = x := Tab.get_put_self ..
theorem State.ctx_setCtx_ne {a b : Nat} (x : Ctx) (h : b ≠ a) : (s.setCtx a x).ctx b = s.ctx b :=
  Tab.get_put_ne _ _ _ h
theorem State.ctx_modCtx (a b : Nat) (f : Ctx → Ctx) :
    (s.modCtx a f).ctx b = if b = a then f (s.ctx a) else s.ctx b := Tab.get_put ..
@[simp] theorem State.ctx_modCtx_self (a : Nat) (f : Ctx → Ctx) : (s.modCtx a f).ctx a = f (s.ctx a) :=
  Tab.get_put_self ..
theorem State.ctx_modCtx_ne {a b : Nat} (f : Ctx → Ctx) (h : b ≠ a) : (s.modCtx a f).ctx b = s.ctx b :=
  Tab.get_put_ne _ _ _ h

@[simp] theorem State.eng_setCtx (a b : Nat) (x : Ctx) : (s.setCtx a x).eng b = s.eng b := rfl
@[simp] theorem State.eng_modCtx (a b : Nat) (f : Ctx → Ctx) : (s.modCtx a f).eng b = s.eng b := rfl
@[simp] theorem State.crs_setCtx (a b : Nat) (x : Ctx) : (s.setCtx a x).crs b = s.crs b := rfl
@[simp] theorem State.crs_modCtx (a b : Nat) (f : Ctx → Ctx) : (s.modCtx a f).crs b = s.crs b := rfl
@[simp] theorem State.part_setCtx (a b : Nat) (x : Ctx) : (s.setCtx a x).part b = s.part b := rfl
@[simp] theorem State.part_modCtx (a b : Nat) (f : Ctx → Ctx) : (s.modCtx a f).part b = s.part b := rfl
@[simp] theorem State.mslot_setCtx (a b : Nat) (x : Ctx) : (s.setCtx a x).mslot b = s.mslot b := rfl
@[simp] theorem State.mslot_modCtx (a b : Nat) (f : Ctx → Ctx) : (s.modCtx a f).mslot b = s.mslot b := rfl
@[simp] theorem State.key_setCtx (a b : Nat) (x : Ctx) : (s.setCtx a x).key b = s.key b := rfl
@[simp] theorem State.key_modCtx (a b : Nat) (f : Ctx → Ctx) : (s.modCtx a f).key b = s.key b := rfl
@[simp] theorem State.port_setCtx (a b : Nat) (x : Ctx) : (s.setCtx a x).port b = s.port b := rfl
@[simp] theorem State.port_modCtx (a b : Nat) (f : Ctx → Ctx) : (s.modCtx a f).port b = s.port b := rfl
@[simp] theorem State.pier_setCtx (a b : Nat) (x : Ctx) : (s.setCtx a x).pier b = s.pier b := rfl
@[simp] theorem State.pier_modCtx (a b : Nat) (f : Ctx → Ctx) : (s.modCtx a f).pier b = s.pier b := rfl
@[simp] theorem State.dom_setCtx (a b : Nat) (x : Ctx) : (s.setCtx a x).dom b = s.dom b := rfl
@[simp] theorem State.dom_modCtx (a b : Nat) (f : Ctx → Ctx) : (s.modCtx a f).dom b = s.dom b := rfl
@[simp] theorem State.host_setCtx (a b : Nat) (x : Ctx) : (s.setCtx a x).host b = s.host b := rfl
@[simp] theorem State.host_modCtx (a b : Nat) (f : Ctx → Ctx) : (s.modCtx a f).host b = s.host b := rfl

/-! ## mslots -/

@[simp] theorem State.setMslot_pending (n : Nat) (x : MSlot) : (s.setMslot n x).pending = s.pending := rfl
@[simp] theorem State.setMslot_freeCtr (n : Nat) (x : MSlot) : (s.setMslot n x).freeCtr = s.freeCtr := rfl
@[simp] theorem State.setMslot_nextCopy (n : Nat) (x : MSlot) : (s.setMslot n x).nextCopy = s.nextCopy := rfl
@[simp] theorem State.setMslot_out (n : Nat) (x : MSlot) : (s.setMslot n x).out = s.out := rfl
@[simp] theorem State.setMslot_gen (n : Nat) (x : MSlot) : (s.setMslot n x).gen = s.gen := rfl
@[simp] theorem State.setMslot_pwr (n : Nat) (x : MSlot) : (s.setMslot n x).pwr = s.pwr := rfl
@[simp] theorem State.setMslot_doms (n : Nat) (x : MSlot) : (s.setMslot n x).doms = s.doms := rfl
@[simp] theorem State.setMslot_bu (n : Nat) (x : MSlot) : (s.setMslot n x).bu = s.bu := rfl
@[simp] theorem State.setMslot_bond (n : Nat) (x : MSlot) : (s.setMslot n x).bond = s.bond := rfl
@[simp] theorem State.setMslot_cfg (n : Nat) (x : MSlot) : (s.setMslot n x).cfg = s.cfg := rfl
@[simp] theorem State.setMslot_engines (n : Nat) (x : MSlot) : (s.setMslot n x).engines = s.engines := rfl
@[simp] theorem State.setMslot_courses (n : Nat) (x : MSlot) : (s.setMslot n x).courses = s.courses := rfl
@[simp] theorem State.setMslot_parts (n : Nat) (x : MSlot) : (s.setMslot n x).parts = s.parts := rfl
@[simp] theorem State.setMslot_ctxs (n : Nat) (x : MSlot) : (s.setMslot n x).ctxs = s.ctxs := rfl
@[simp] theorem State.setMslot_keys (n : Nat) (x : MSlot) : (s.setMslot n x).keys = s.keys := rfl
@[simp] theorem State.setMslot_ofls (n : Nat) (x : MSlot) : (s.setMslot n x).ofls = s.ofls := rfl
@[simp] theorem State.setMslot_rte (n : Nat) (x : MSlot) : (s.setMslot n x).rte = s.rte := rfl
@[simp] theorem State.setMslot_ports (n : Nat) (x : MSlot) : (s.setMslot n x).ports = s.ports := rfl
@[simp] theorem State.setMslot_hbCount (n : Nat) (x : MSlot) : (s.setMslot n x).hbCount = s.hbCount := rfl
@[simp] theorem State.setMslot_piers (n : Nat) (x : MSlot) : (s.setMslot n x).piers = s.piers := rfl
@[simp] theorem State.setMslot_mcs (n : Nat) (x : MSlot) : (s.setMslot n x).mcs = s.mcs := rfl
@[simp] theorem State.setMslot_ls (n : Nat) (x : MSlot) : (s.setMslot n x).ls = s.ls := rfl
@[simp] theorem State.setMslot_cs (n : Nat) (x : MSlot) : (s.setMslot n x).cs = s.cs := rfl
@[simp] theorem State.setMslot_mem (n : Nat) (x : MSlot) : (s.setMslot n x).mem = s.mem := rfl
@[simp] theorem State.setMslot_ckp (n : Nat) (x : MSlot) : (s.setMslot n x).ckp = s.ckp := rfl
@[simp] theorem State.setMslot_frz (n : Nat) (x : MSlot) : (s.setMslot n x).frz = s.frz := rfl
@[simp] theorem State.setMslot_jtag (n : Nat) (x : MSlot) : (s.setMslot n x).jtag = s.jtag := rfl
@[simp] theorem State.setMslot_sec (n : Nat) (x : MSlot) : (s.setMslot n x).sec = s.sec := rfl
@[simp] theorem State.setMslot_hosts (n : Nat) (x : MSlot) : (s.setMslot n x).hosts = s.hosts := rfl
@[simp] theorem State.setMslot_latches (n : Nat) (x : MSlot) : (s.setMslot n x).latches = s.latches := rfl
@[simp] theorem State.setMslot_smbPtr (n : Nat) (x : MSlot) : (s.setMslot n x).smbPtr = s.smbPtr := rfl
@[simp] theorem State.setMslot_setNow (n : Nat) (x : MSlot) : (s.setMslot n x).setNow = s.setNow := rfl
@[simp] theorem State.setMslot_clearedNow (n : Nat) (x : MSlot) : (s.setMslot n x).clearedNow = s.clearedNow := rfl

@[simp] theorem State.modMslot_pending (n : Nat) (f : MSlot → MSlot) : (s.modMslot n f).pending = s.pending := rfl
@[simp] theorem State.modMslot_freeCtr (n : Nat) (f : MSlot → MSlot) : (s.modMslot n f).freeCtr = s.freeCtr := rfl
@[simp] theorem State.modMslot_nextCopy (n : Nat) (f : MSlot → MSlot) : (s.modMslot n f).nextCopy = s.nextCopy := rfl
@[simp] theorem State.modMslot_out (n : Nat) (f : MSlot → MSlot) : (s.modMslot n f).out = s.out := rfl
@[simp] theorem State.modMslot_gen (n : Nat) (f : MSlot → MSlot) : (s.modMslot n f).gen = s.gen := rfl
@[simp] theorem State.modMslot_pwr (n : Nat) (f : MSlot → MSlot) : (s.modMslot n f).pwr = s.pwr := rfl
@[simp] theorem State.modMslot_doms (n : Nat) (f : MSlot → MSlot) : (s.modMslot n f).doms = s.doms := rfl
@[simp] theorem State.modMslot_bu (n : Nat) (f : MSlot → MSlot) : (s.modMslot n f).bu = s.bu := rfl
@[simp] theorem State.modMslot_bond (n : Nat) (f : MSlot → MSlot) : (s.modMslot n f).bond = s.bond := rfl
@[simp] theorem State.modMslot_cfg (n : Nat) (f : MSlot → MSlot) : (s.modMslot n f).cfg = s.cfg := rfl
@[simp] theorem State.modMslot_engines (n : Nat) (f : MSlot → MSlot) : (s.modMslot n f).engines = s.engines := rfl
@[simp] theorem State.modMslot_courses (n : Nat) (f : MSlot → MSlot) : (s.modMslot n f).courses = s.courses := rfl
@[simp] theorem State.modMslot_parts (n : Nat) (f : MSlot → MSlot) : (s.modMslot n f).parts = s.parts := rfl
@[simp] theorem State.modMslot_ctxs (n : Nat) (f : MSlot → MSlot) : (s.modMslot n f).ctxs = s.ctxs := rfl
@[simp] theorem State.modMslot_keys (n : Nat) (f : MSlot → MSlot) : (s.modMslot n f).keys = s.keys := rfl
@[simp] theorem State.modMslot_ofls (n : Nat) (f : MSlot → MSlot) : (s.modMslot n f).ofls = s.ofls := rfl
@[simp] theorem State.modMslot_rte (n : Nat) (f : MSlot → MSlot) : (s.modMslot n f).rte = s.rte := rfl
@[simp] theorem State.modMslot_ports (n : Nat) (f : MSlot → MSlot) : (s.modMslot n f).ports = s.ports := rfl
@[simp] theorem State.modMslot_hbCount (n : Nat) (f : MSlot → MSlot) : (s.modMslot n f).hbCount = s.hbCount := rfl
@[simp] theorem State.modMslot_piers (n : Nat) (f : MSlot → MSlot) : (s.modMslot n f).piers = s.piers := rfl
@[simp] theorem State.modMslot_mcs (n : Nat) (f : MSlot → MSlot) : (s.modMslot n f).mcs = s.mcs := rfl
@[simp] theorem State.modMslot_ls (n : Nat) (f : MSlot → MSlot) : (s.modMslot n f).ls = s.ls := rfl
@[simp] theorem State.modMslot_cs (n : Nat) (f : MSlot → MSlot) : (s.modMslot n f).cs = s.cs := rfl
@[simp] theorem State.modMslot_mem (n : Nat) (f : MSlot → MSlot) : (s.modMslot n f).mem = s.mem := rfl
@[simp] theorem State.modMslot_ckp (n : Nat) (f : MSlot → MSlot) : (s.modMslot n f).ckp = s.ckp := rfl
@[simp] theorem State.modMslot_frz (n : Nat) (f : MSlot → MSlot) : (s.modMslot n f).frz = s.frz := rfl
@[simp] theorem State.modMslot_jtag (n : Nat) (f : MSlot → MSlot) : (s.modMslot n f).jtag = s.jtag := rfl
@[simp] theorem State.modMslot_sec (n : Nat) (f : MSlot → MSlot) : (s.modMslot n f).sec = s.sec := rfl
@[simp] theorem State.modMslot_hosts (n : Nat) (f : MSlot → MSlot) : (s.modMslot n f).hosts = s.hosts := rfl
@[simp] theorem State.modMslot_latches (n : Nat) (f : MSlot → MSlot) : (s.modMslot n f).latches = s.latches := rfl
@[simp] theorem State.modMslot_smbPtr (n : Nat) (f : MSlot → MSlot) : (s.modMslot n f).smbPtr = s.smbPtr := rfl
@[simp] theorem State.modMslot_setNow (n : Nat) (f : MSlot → MSlot) : (s.modMslot n f).setNow = s.setNow := rfl
@[simp] theorem State.modMslot_clearedNow (n : Nat) (f : MSlot → MSlot) : (s.modMslot n f).clearedNow = s.clearedNow := rfl

theorem State.mslot_setMslot (a b : Nat) (x : MSlot) : (s.setMslot a x).mslot b = if b = a then x else s.mslot b :=
  Tab.get_put ..
@[simp] theorem State.mslot_setMslot_self (a : Nat) (x : MSlot) : (s.setMslot a x).mslot a = x := Tab.get_put_self ..
theorem State.mslot_setMslot_ne {a b : Nat} (x : MSlot) (h : b ≠ a) : (s.setMslot a x).mslot b = s.mslot b :=
  Tab.get_put_ne _ _ _ h
theorem State.mslot_modMslot (a b : Nat) (f : MSlot → MSlot) :
    (s.modMslot a f).mslot b = if b = a then f (s.mslot a) else s.mslot b := Tab.get_put ..
@[simp] theorem State.mslot_modMslot_self (a : Nat) (f : MSlot → MSlot) : (s.modMslot a f).mslot a = f (s.mslot a) :=
  Tab.get_put_self ..
theorem State.mslot_modMslot_ne {a b : Nat} (f : MSlot → MSlot) (h : b ≠ a) : (s.modMslot a f).mslot b = s.mslot b :=
  Tab.get_put_ne _ _ _ h

@[simp] theorem State.eng_setMslot (a b : Nat) (x : MSlot) : (s.setMslot a x).eng b = s.eng b := rfl
@[simp] theorem State.eng_modMslot (a b : Nat) (f : MSlot → MSlot) : (s.modMslot a f).eng b = s.eng b := rfl
@[simp] theorem State.crs_setMslot (a b : Nat) (x : MSlot) : (s.setMslot a x).crs b = s.crs b := rfl
@[simp] theorem State.crs_modMslot (a b : Nat) (f : MSlot → MSlot) : (s.modMslot a f).crs b = s.crs b := rfl
@[simp] theorem State.part_setMslot (a b : Nat) (x : MSlot) : (s.setMslot a x).part b = s.part b := rfl
@[simp] theorem State.part_modMslot (a b : Nat) (f : MSlot → MSlot) : (s.modMslot a f).part b = s.part b := rfl
@[simp] theorem State.ctx_setMslot (a b : Nat) (x : MSlot) : (s.setMslot a x).ctx b = s.ctx b := rfl
@[simp] theorem State.ctx_modMslot (a b : Nat) (f : MSlot → MSlot) : (s.modMslot a f).ctx b = s.ctx b := rfl
@[simp] theorem State.key_setMslot (a b : Nat) (x : MSlot) : (s.setMslot a x).key b = s.key b := rfl
@[simp] theorem State.key_modMslot (a b : Nat) (f : MSlot → MSlot) : (s.modMslot a f).key b = s.key b := rfl
@[simp] theorem State.port_setMslot (a b : Nat) (x : MSlot) : (s.setMslot a x).port b = s.port b := rfl
@[simp] theorem State.port_modMslot (a b : Nat) (f : MSlot → MSlot) : (s.modMslot a f).port b = s.port b := rfl
@[simp] theorem State.pier_setMslot (a b : Nat) (x : MSlot) : (s.setMslot a x).pier b = s.pier b := rfl
@[simp] theorem State.pier_modMslot (a b : Nat) (f : MSlot → MSlot) : (s.modMslot a f).pier b = s.pier b := rfl
@[simp] theorem State.dom_setMslot (a b : Nat) (x : MSlot) : (s.setMslot a x).dom b = s.dom b := rfl
@[simp] theorem State.dom_modMslot (a b : Nat) (f : MSlot → MSlot) : (s.modMslot a f).dom b = s.dom b := rfl
@[simp] theorem State.host_setMslot (a b : Nat) (x : MSlot) : (s.setMslot a x).host b = s.host b := rfl
@[simp] theorem State.host_modMslot (a b : Nat) (f : MSlot → MSlot) : (s.modMslot a f).host b = s.host b := rfl

/-! ## keys -/

@[simp] theorem State.setKey_pending (k : Nat) (x : KeyLine) : (s.setKey k x).pending = s.pending := rfl
@[simp] theorem State.setKey_freeCtr (k : Nat) (x : KeyLine) : (s.setKey k x).freeCtr = s.freeCtr := rfl
@[simp] theorem State.setKey_nextCopy (k : Nat) (x : KeyLine) : (s.setKey k x).nextCopy = s.nextCopy := rfl
@[simp] theorem State.setKey_out (k : Nat) (x : KeyLine) : (s.setKey k x).out = s.out := rfl
@[simp] theorem State.setKey_gen (k : Nat) (x : KeyLine) : (s.setKey k x).gen = s.gen := rfl
@[simp] theorem State.setKey_pwr (k : Nat) (x : KeyLine) : (s.setKey k x).pwr = s.pwr := rfl
@[simp] theorem State.setKey_doms (k : Nat) (x : KeyLine) : (s.setKey k x).doms = s.doms := rfl
@[simp] theorem State.setKey_bu (k : Nat) (x : KeyLine) : (s.setKey k x).bu = s.bu := rfl
@[simp] theorem State.setKey_bond (k : Nat) (x : KeyLine) : (s.setKey k x).bond = s.bond := rfl
@[simp] theorem State.setKey_cfg (k : Nat) (x : KeyLine) : (s.setKey k x).cfg = s.cfg := rfl
@[simp] theorem State.setKey_engines (k : Nat) (x : KeyLine) : (s.setKey k x).engines = s.engines := rfl
@[simp] theorem State.setKey_courses (k : Nat) (x : KeyLine) : (s.setKey k x).courses = s.courses := rfl
@[simp] theorem State.setKey_parts (k : Nat) (x : KeyLine) : (s.setKey k x).parts = s.parts := rfl
@[simp] theorem State.setKey_ctxs (k : Nat) (x : KeyLine) : (s.setKey k x).ctxs = s.ctxs := rfl
@[simp] theorem State.setKey_mslots (k : Nat) (x : KeyLine) : (s.setKey k x).mslots = s.mslots := rfl
@[simp] theorem State.setKey_ofls (k : Nat) (x : KeyLine) : (s.setKey k x).ofls = s.ofls := rfl
@[simp] theorem State.setKey_rte (k : Nat) (x : KeyLine) : (s.setKey k x).rte = s.rte := rfl
@[simp] theorem State.setKey_ports (k : Nat) (x : KeyLine) : (s.setKey k x).ports = s.ports := rfl
@[simp] theorem State.setKey_hbCount (k : Nat) (x : KeyLine) : (s.setKey k x).hbCount = s.hbCount := rfl
@[simp] theorem State.setKey_piers (k : Nat) (x : KeyLine) : (s.setKey k x).piers = s.piers := rfl
@[simp] theorem State.setKey_mcs (k : Nat) (x : KeyLine) : (s.setKey k x).mcs = s.mcs := rfl
@[simp] theorem State.setKey_ls (k : Nat) (x : KeyLine) : (s.setKey k x).ls = s.ls := rfl
@[simp] theorem State.setKey_cs (k : Nat) (x : KeyLine) : (s.setKey k x).cs = s.cs := rfl
@[simp] theorem State.setKey_mem (k : Nat) (x : KeyLine) : (s.setKey k x).mem = s.mem := rfl
@[simp] theorem State.setKey_ckp (k : Nat) (x : KeyLine) : (s.setKey k x).ckp = s.ckp := rfl
@[simp] theorem State.setKey_frz (k : Nat) (x : KeyLine) : (s.setKey k x).frz = s.frz := rfl
@[simp] theorem State.setKey_jtag (k : Nat) (x : KeyLine) : (s.setKey k x).jtag = s.jtag := rfl
@[simp] theorem State.setKey_sec (k : Nat) (x : KeyLine) : (s.setKey k x).sec = s.sec := rfl
@[simp] theorem State.setKey_hosts (k : Nat) (x : KeyLine) : (s.setKey k x).hosts = s.hosts := rfl
@[simp] theorem State.setKey_latches (k : Nat) (x : KeyLine) : (s.setKey k x).latches = s.latches := rfl
@[simp] theorem State.setKey_smbPtr (k : Nat) (x : KeyLine) : (s.setKey k x).smbPtr = s.smbPtr := rfl
@[simp] theorem State.setKey_setNow (k : Nat) (x : KeyLine) : (s.setKey k x).setNow = s.setNow := rfl
@[simp] theorem State.setKey_clearedNow (k : Nat) (x : KeyLine) : (s.setKey k x).clearedNow = s.clearedNow := rfl

@[simp] theorem State.modKey_pending (k : Nat) (f : KeyLine → KeyLine) : (s.modKey k f).pending = s.pending := rfl
@[simp] theorem State.modKey_freeCtr (k : Nat) (f : KeyLine → KeyLine) : (s.modKey k f).freeCtr = s.freeCtr := rfl
@[simp] theorem State.modKey_nextCopy (k : Nat) (f : KeyLine → KeyLine) : (s.modKey k f).nextCopy = s.nextCopy := rfl
@[simp] theorem State.modKey_out (k : Nat) (f : KeyLine → KeyLine) : (s.modKey k f).out = s.out := rfl
@[simp] theorem State.modKey_gen (k : Nat) (f : KeyLine → KeyLine) : (s.modKey k f).gen = s.gen := rfl
@[simp] theorem State.modKey_pwr (k : Nat) (f : KeyLine → KeyLine) : (s.modKey k f).pwr = s.pwr := rfl
@[simp] theorem State.modKey_doms (k : Nat) (f : KeyLine → KeyLine) : (s.modKey k f).doms = s.doms := rfl
@[simp] theorem State.modKey_bu (k : Nat) (f : KeyLine → KeyLine) : (s.modKey k f).bu = s.bu := rfl
@[simp] theorem State.modKey_bond (k : Nat) (f : KeyLine → KeyLine) : (s.modKey k f).bond = s.bond := rfl
@[simp] theorem State.modKey_cfg (k : Nat) (f : KeyLine → KeyLine) : (s.modKey k f).cfg = s.cfg := rfl
@[simp] theorem State.modKey_engines (k : Nat) (f : KeyLine → KeyLine) : (s.modKey k f).engines = s.engines := rfl
@[simp] theorem State.modKey_courses (k : Nat) (f : KeyLine → KeyLine) : (s.modKey k f).courses = s.courses := rfl
@[simp] theorem State.modKey_parts (k : Nat) (f : KeyLine → KeyLine) : (s.modKey k f).parts = s.parts := rfl
@[simp] theorem State.modKey_ctxs (k : Nat) (f : KeyLine → KeyLine) : (s.modKey k f).ctxs = s.ctxs := rfl
@[simp] theorem State.modKey_mslots (k : Nat) (f : KeyLine → KeyLine) : (s.modKey k f).mslots = s.mslots := rfl
@[simp] theorem State.modKey_ofls (k : Nat) (f : KeyLine → KeyLine) : (s.modKey k f).ofls = s.ofls := rfl
@[simp] theorem State.modKey_rte (k : Nat) (f : KeyLine → KeyLine) : (s.modKey k f).rte = s.rte := rfl
@[simp] theorem State.modKey_ports (k : Nat) (f : KeyLine → KeyLine) : (s.modKey k f).ports = s.ports := rfl
@[simp] theorem State.modKey_hbCount (k : Nat) (f : KeyLine → KeyLine) : (s.modKey k f).hbCount = s.hbCount := rfl
@[simp] theorem State.modKey_piers (k : Nat) (f : KeyLine → KeyLine) : (s.modKey k f).piers = s.piers := rfl
@[simp] theorem State.modKey_mcs (k : Nat) (f : KeyLine → KeyLine) : (s.modKey k f).mcs = s.mcs := rfl
@[simp] theorem State.modKey_ls (k : Nat) (f : KeyLine → KeyLine) : (s.modKey k f).ls = s.ls := rfl
@[simp] theorem State.modKey_cs (k : Nat) (f : KeyLine → KeyLine) : (s.modKey k f).cs = s.cs := rfl
@[simp] theorem State.modKey_mem (k : Nat) (f : KeyLine → KeyLine) : (s.modKey k f).mem = s.mem := rfl
@[simp] theorem State.modKey_ckp (k : Nat) (f : KeyLine → KeyLine) : (s.modKey k f).ckp = s.ckp := rfl
@[simp] theorem State.modKey_frz (k : Nat) (f : KeyLine → KeyLine) : (s.modKey k f).frz = s.frz := rfl
@[simp] theorem State.modKey_jtag (k : Nat) (f : KeyLine → KeyLine) : (s.modKey k f).jtag = s.jtag := rfl
@[simp] theorem State.modKey_sec (k : Nat) (f : KeyLine → KeyLine) : (s.modKey k f).sec = s.sec := rfl
@[simp] theorem State.modKey_hosts (k : Nat) (f : KeyLine → KeyLine) : (s.modKey k f).hosts = s.hosts := rfl
@[simp] theorem State.modKey_latches (k : Nat) (f : KeyLine → KeyLine) : (s.modKey k f).latches = s.latches := rfl
@[simp] theorem State.modKey_smbPtr (k : Nat) (f : KeyLine → KeyLine) : (s.modKey k f).smbPtr = s.smbPtr := rfl
@[simp] theorem State.modKey_setNow (k : Nat) (f : KeyLine → KeyLine) : (s.modKey k f).setNow = s.setNow := rfl
@[simp] theorem State.modKey_clearedNow (k : Nat) (f : KeyLine → KeyLine) : (s.modKey k f).clearedNow = s.clearedNow := rfl

theorem State.key_setKey (a b : Nat) (x : KeyLine) : (s.setKey a x).key b = if b = a then x else s.key b :=
  Tab.get_put ..
@[simp] theorem State.key_setKey_self (a : Nat) (x : KeyLine) : (s.setKey a x).key a = x := Tab.get_put_self ..
theorem State.key_setKey_ne {a b : Nat} (x : KeyLine) (h : b ≠ a) : (s.setKey a x).key b = s.key b :=
  Tab.get_put_ne _ _ _ h
theorem State.key_modKey (a b : Nat) (f : KeyLine → KeyLine) :
    (s.modKey a f).key b = if b = a then f (s.key a) else s.key b := Tab.get_put ..
@[simp] theorem State.key_modKey_self (a : Nat) (f : KeyLine → KeyLine) : (s.modKey a f).key a = f (s.key a) :=
  Tab.get_put_self ..
theorem State.key_modKey_ne {a b : Nat} (f : KeyLine → KeyLine) (h : b ≠ a) : (s.modKey a f).key b = s.key b :=
  Tab.get_put_ne _ _ _ h

@[simp] theorem State.eng_setKey (a b : Nat) (x : KeyLine) : (s.setKey a x).eng b = s.eng b := rfl
@[simp] theorem State.eng_modKey (a b : Nat) (f : KeyLine → KeyLine) : (s.modKey a f).eng b = s.eng b := rfl
@[simp] theorem State.crs_setKey (a b : Nat) (x : KeyLine) : (s.setKey a x).crs b = s.crs b := rfl
@[simp] theorem State.crs_modKey (a b : Nat) (f : KeyLine → KeyLine) : (s.modKey a f).crs b = s.crs b := rfl
@[simp] theorem State.part_setKey (a b : Nat) (x : KeyLine) : (s.setKey a x).part b = s.part b := rfl
@[simp] theorem State.part_modKey (a b : Nat) (f : KeyLine → KeyLine) : (s.modKey a f).part b = s.part b := rfl
@[simp] theorem State.ctx_setKey (a b : Nat) (x : KeyLine) : (s.setKey a x).ctx b = s.ctx b := rfl
@[simp] theorem State.ctx_modKey (a b : Nat) (f : KeyLine → KeyLine) : (s.modKey a f).ctx b = s.ctx b := rfl
@[simp] theorem State.mslot_setKey (a b : Nat) (x : KeyLine) : (s.setKey a x).mslot b = s.mslot b := rfl
@[simp] theorem State.mslot_modKey (a b : Nat) (f : KeyLine → KeyLine) : (s.modKey a f).mslot b = s.mslot b := rfl
@[simp] theorem State.port_setKey (a b : Nat) (x : KeyLine) : (s.setKey a x).port b = s.port b := rfl
@[simp] theorem State.port_modKey (a b : Nat) (f : KeyLine → KeyLine) : (s.modKey a f).port b = s.port b := rfl
@[simp] theorem State.pier_setKey (a b : Nat) (x : KeyLine) : (s.setKey a x).pier b = s.pier b := rfl
@[simp] theorem State.pier_modKey (a b : Nat) (f : KeyLine → KeyLine) : (s.modKey a f).pier b = s.pier b := rfl
@[simp] theorem State.dom_setKey (a b : Nat) (x : KeyLine) : (s.setKey a x).dom b = s.dom b := rfl
@[simp] theorem State.dom_modKey (a b : Nat) (f : KeyLine → KeyLine) : (s.modKey a f).dom b = s.dom b := rfl
@[simp] theorem State.host_setKey (a b : Nat) (x : KeyLine) : (s.setKey a x).host b = s.host b := rfl
@[simp] theorem State.host_modKey (a b : Nat) (f : KeyLine → KeyLine) : (s.modKey a f).host b = s.host b := rfl

/-! ## ports -/

@[simp] theorem State.setPort_pending (p : Nat) (x : Port) : (s.setPort p x).pending = s.pending := rfl
@[simp] theorem State.setPort_freeCtr (p : Nat) (x : Port) : (s.setPort p x).freeCtr = s.freeCtr := rfl
@[simp] theorem State.setPort_nextCopy (p : Nat) (x : Port) : (s.setPort p x).nextCopy = s.nextCopy := rfl
@[simp] theorem State.setPort_out (p : Nat) (x : Port) : (s.setPort p x).out = s.out := rfl
@[simp] theorem State.setPort_gen (p : Nat) (x : Port) : (s.setPort p x).gen = s.gen := rfl
@[simp] theorem State.setPort_pwr (p : Nat) (x : Port) : (s.setPort p x).pwr = s.pwr := rfl
@[simp] theorem State.setPort_doms (p : Nat) (x : Port) : (s.setPort p x).doms = s.doms := rfl
@[simp] theorem State.setPort_bu (p : Nat) (x : Port) : (s.setPort p x).bu = s.bu := rfl
@[simp] theorem State.setPort_bond (p : Nat) (x : Port) : (s.setPort p x).bond = s.bond := rfl
@[simp] theorem State.setPort_cfg (p : Nat) (x : Port) : (s.setPort p x).cfg = s.cfg := rfl
@[simp] theorem State.setPort_engines (p : Nat) (x : Port) : (s.setPort p x).engines = s.engines := rfl
@[simp] theorem State.setPort_courses (p : Nat) (x : Port) : (s.setPort p x).courses = s.courses := rfl
@[simp] theorem State.setPort_parts (p : Nat) (x : Port) : (s.setPort p x).parts = s.parts := rfl
@[simp] theorem State.setPort_ctxs (p : Nat) (x : Port) : (s.setPort p x).ctxs = s.ctxs := rfl
@[simp] theorem State.setPort_mslots (p : Nat) (x : Port) : (s.setPort p x).mslots = s.mslots := rfl
@[simp] theorem State.setPort_keys (p : Nat) (x : Port) : (s.setPort p x).keys = s.keys := rfl
@[simp] theorem State.setPort_ofls (p : Nat) (x : Port) : (s.setPort p x).ofls = s.ofls := rfl
@[simp] theorem State.setPort_rte (p : Nat) (x : Port) : (s.setPort p x).rte = s.rte := rfl
@[simp] theorem State.setPort_hbCount (p : Nat) (x : Port) : (s.setPort p x).hbCount = s.hbCount := rfl
@[simp] theorem State.setPort_piers (p : Nat) (x : Port) : (s.setPort p x).piers = s.piers := rfl
@[simp] theorem State.setPort_mcs (p : Nat) (x : Port) : (s.setPort p x).mcs = s.mcs := rfl
@[simp] theorem State.setPort_ls (p : Nat) (x : Port) : (s.setPort p x).ls = s.ls := rfl
@[simp] theorem State.setPort_cs (p : Nat) (x : Port) : (s.setPort p x).cs = s.cs := rfl
@[simp] theorem State.setPort_mem (p : Nat) (x : Port) : (s.setPort p x).mem = s.mem := rfl
@[simp] theorem State.setPort_ckp (p : Nat) (x : Port) : (s.setPort p x).ckp = s.ckp := rfl
@[simp] theorem State.setPort_frz (p : Nat) (x : Port) : (s.setPort p x).frz = s.frz := rfl
@[simp] theorem State.setPort_jtag (p : Nat) (x : Port) : (s.setPort p x).jtag = s.jtag := rfl
@[simp] theorem State.setPort_sec (p : Nat) (x : Port) : (s.setPort p x).sec = s.sec := rfl
@[simp] theorem State.setPort_hosts (p : Nat) (x : Port) : (s.setPort p x).hosts = s.hosts := rfl
@[simp] theorem State.setPort_latches (p : Nat) (x : Port) : (s.setPort p x).latches = s.latches := rfl
@[simp] theorem State.setPort_smbPtr (p : Nat) (x : Port) : (s.setPort p x).smbPtr = s.smbPtr := rfl
@[simp] theorem State.setPort_setNow (p : Nat) (x : Port) : (s.setPort p x).setNow = s.setNow := rfl
@[simp] theorem State.setPort_clearedNow (p : Nat) (x : Port) : (s.setPort p x).clearedNow = s.clearedNow := rfl

@[simp] theorem State.modPort_pending (p : Nat) (f : Port → Port) : (s.modPort p f).pending = s.pending := rfl
@[simp] theorem State.modPort_freeCtr (p : Nat) (f : Port → Port) : (s.modPort p f).freeCtr = s.freeCtr := rfl
@[simp] theorem State.modPort_nextCopy (p : Nat) (f : Port → Port) : (s.modPort p f).nextCopy = s.nextCopy := rfl
@[simp] theorem State.modPort_out (p : Nat) (f : Port → Port) : (s.modPort p f).out = s.out := rfl
@[simp] theorem State.modPort_gen (p : Nat) (f : Port → Port) : (s.modPort p f).gen = s.gen := rfl
@[simp] theorem State.modPort_pwr (p : Nat) (f : Port → Port) : (s.modPort p f).pwr = s.pwr := rfl
@[simp] theorem State.modPort_doms (p : Nat) (f : Port → Port) : (s.modPort p f).doms = s.doms := rfl
@[simp] theorem State.modPort_bu (p : Nat) (f : Port → Port) : (s.modPort p f).bu = s.bu := rfl
@[simp] theorem State.modPort_bond (p : Nat) (f : Port → Port) : (s.modPort p f).bond = s.bond := rfl
@[simp] theorem State.modPort_cfg (p : Nat) (f : Port → Port) : (s.modPort p f).cfg = s.cfg := rfl
@[simp] theorem State.modPort_engines (p : Nat) (f : Port → Port) : (s.modPort p f).engines = s.engines := rfl
@[simp] theorem State.modPort_courses (p : Nat) (f : Port → Port) : (s.modPort p f).courses = s.courses := rfl
@[simp] theorem State.modPort_parts (p : Nat) (f : Port → Port) : (s.modPort p f).parts = s.parts := rfl
@[simp] theorem State.modPort_ctxs (p : Nat) (f : Port → Port) : (s.modPort p f).ctxs = s.ctxs := rfl
@[simp] theorem State.modPort_mslots (p : Nat) (f : Port → Port) : (s.modPort p f).mslots = s.mslots := rfl
@[simp] theorem State.modPort_keys (p : Nat) (f : Port → Port) : (s.modPort p f).keys = s.keys := rfl
@[simp] theorem State.modPort_ofls (p : Nat) (f : Port → Port) : (s.modPort p f).ofls = s.ofls := rfl
@[simp] theorem State.modPort_rte (p : Nat) (f : Port → Port) : (s.modPort p f).rte = s.rte := rfl
@[simp] theorem State.modPort_hbCount (p : Nat) (f : Port → Port) : (s.modPort p f).hbCount = s.hbCount := rfl
@[simp] theorem State.modPort_piers (p : Nat) (f : Port → Port) : (s.modPort p f).piers = s.piers := rfl
@[simp] theorem State.modPort_mcs (p : Nat) (f : Port → Port) : (s.modPort p f).mcs = s.mcs := rfl
@[simp] theorem State.modPort_ls (p : Nat) (f : Port → Port) : (s.modPort p f).ls = s.ls := rfl
@[simp] theorem State.modPort_cs (p : Nat) (f : Port → Port) : (s.modPort p f).cs = s.cs := rfl
@[simp] theorem State.modPort_mem (p : Nat) (f : Port → Port) : (s.modPort p f).mem = s.mem := rfl
@[simp] theorem State.modPort_ckp (p : Nat) (f : Port → Port) : (s.modPort p f).ckp = s.ckp := rfl
@[simp] theorem State.modPort_frz (p : Nat) (f : Port → Port) : (s.modPort p f).frz = s.frz := rfl
@[simp] theorem State.modPort_jtag (p : Nat) (f : Port → Port) : (s.modPort p f).jtag = s.jtag := rfl
@[simp] theorem State.modPort_sec (p : Nat) (f : Port → Port) : (s.modPort p f).sec = s.sec := rfl
@[simp] theorem State.modPort_hosts (p : Nat) (f : Port → Port) : (s.modPort p f).hosts = s.hosts := rfl
@[simp] theorem State.modPort_latches (p : Nat) (f : Port → Port) : (s.modPort p f).latches = s.latches := rfl
@[simp] theorem State.modPort_smbPtr (p : Nat) (f : Port → Port) : (s.modPort p f).smbPtr = s.smbPtr := rfl
@[simp] theorem State.modPort_setNow (p : Nat) (f : Port → Port) : (s.modPort p f).setNow = s.setNow := rfl
@[simp] theorem State.modPort_clearedNow (p : Nat) (f : Port → Port) : (s.modPort p f).clearedNow = s.clearedNow := rfl

theorem State.port_setPort (a b : Nat) (x : Port) : (s.setPort a x).port b = if b = a then x else s.port b :=
  Tab.get_put ..
@[simp] theorem State.port_setPort_self (a : Nat) (x : Port) : (s.setPort a x).port a = x := Tab.get_put_self ..
theorem State.port_setPort_ne {a b : Nat} (x : Port) (h : b ≠ a) : (s.setPort a x).port b = s.port b :=
  Tab.get_put_ne _ _ _ h
theorem State.port_modPort (a b : Nat) (f : Port → Port) :
    (s.modPort a f).port b = if b = a then f (s.port a) else s.port b := Tab.get_put ..
@[simp] theorem State.port_modPort_self (a : Nat) (f : Port → Port) : (s.modPort a f).port a = f (s.port a) :=
  Tab.get_put_self ..
theorem State.port_modPort_ne {a b : Nat} (f : Port → Port) (h : b ≠ a) : (s.modPort a f).port b = s.port b :=
  Tab.get_put_ne _ _ _ h

@[simp] theorem State.eng_setPort (a b : Nat) (x : Port) : (s.setPort a x).eng b = s.eng b := rfl
@[simp] theorem State.eng_modPort (a b : Nat) (f : Port → Port) : (s.modPort a f).eng b = s.eng b := rfl
@[simp] theorem State.crs_setPort (a b : Nat) (x : Port) : (s.setPort a x).crs b = s.crs b := rfl
@[simp] theorem State.crs_modPort (a b : Nat) (f : Port → Port) : (s.modPort a f).crs b = s.crs b := rfl
@[simp] theorem State.part_setPort (a b : Nat) (x : Port) : (s.setPort a x).part b = s.part b := rfl
@[simp] theorem State.part_modPort (a b : Nat) (f : Port → Port) : (s.modPort a f).part b = s.part b := rfl
@[simp] theorem State.ctx_setPort (a b : Nat) (x : Port) : (s.setPort a x).ctx b = s.ctx b := rfl
@[simp] theorem State.ctx_modPort (a b : Nat) (f : Port → Port) : (s.modPort a f).ctx b = s.ctx b := rfl
@[simp] theorem State.mslot_setPort (a b : Nat) (x : Port) : (s.setPort a x).mslot b = s.mslot b := rfl
@[simp] theorem State.mslot_modPort (a b : Nat) (f : Port → Port) : (s.modPort a f).mslot b = s.mslot b := rfl
@[simp] theorem State.key_setPort (a b : Nat) (x : Port) : (s.setPort a x).key b = s.key b := rfl
@[simp] theorem State.key_modPort (a b : Nat) (f : Port → Port) : (s.modPort a f).key b = s.key b := rfl
@[simp] theorem State.pier_setPort (a b : Nat) (x : Port) : (s.setPort a x).pier b = s.pier b := rfl
@[simp] theorem State.pier_modPort (a b : Nat) (f : Port → Port) : (s.modPort a f).pier b = s.pier b := rfl
@[simp] theorem State.dom_setPort (a b : Nat) (x : Port) : (s.setPort a x).dom b = s.dom b := rfl
@[simp] theorem State.dom_modPort (a b : Nat) (f : Port → Port) : (s.modPort a f).dom b = s.dom b := rfl
@[simp] theorem State.host_setPort (a b : Nat) (x : Port) : (s.setPort a x).host b = s.host b := rfl
@[simp] theorem State.host_modPort (a b : Nat) (f : Port → Port) : (s.modPort a f).host b = s.host b := rfl

/-! ## piers -/

@[simp] theorem State.setPier_pending (p : Nat) (x : Pier) : (s.setPier p x).pending = s.pending := rfl
@[simp] theorem State.setPier_freeCtr (p : Nat) (x : Pier) : (s.setPier p x).freeCtr = s.freeCtr := rfl
@[simp] theorem State.setPier_nextCopy (p : Nat) (x : Pier) : (s.setPier p x).nextCopy = s.nextCopy := rfl
@[simp] theorem State.setPier_out (p : Nat) (x : Pier) : (s.setPier p x).out = s.out := rfl
@[simp] theorem State.setPier_gen (p : Nat) (x : Pier) : (s.setPier p x).gen = s.gen := rfl
@[simp] theorem State.setPier_pwr (p : Nat) (x : Pier) : (s.setPier p x).pwr = s.pwr := rfl
@[simp] theorem State.setPier_doms (p : Nat) (x : Pier) : (s.setPier p x).doms = s.doms := rfl
@[simp] theorem State.setPier_bu (p : Nat) (x : Pier) : (s.setPier p x).bu = s.bu := rfl
@[simp] theorem State.setPier_bond (p : Nat) (x : Pier) : (s.setPier p x).bond = s.bond := rfl
@[simp] theorem State.setPier_cfg (p : Nat) (x : Pier) : (s.setPier p x).cfg = s.cfg := rfl
@[simp] theorem State.setPier_engines (p : Nat) (x : Pier) : (s.setPier p x).engines = s.engines := rfl
@[simp] theorem State.setPier_courses (p : Nat) (x : Pier) : (s.setPier p x).courses = s.courses := rfl
@[simp] theorem State.setPier_parts (p : Nat) (x : Pier) : (s.setPier p x).parts = s.parts := rfl
@[simp] theorem State.setPier_ctxs (p : Nat) (x : Pier) : (s.setPier p x).ctxs = s.ctxs := rfl
@[simp] theorem State.setPier_mslots (p : Nat) (x : Pier) : (s.setPier p x).mslots = s.mslots := rfl
@[simp] theorem State.setPier_keys (p : Nat) (x : Pier) : (s.setPier p x).keys = s.keys := rfl
@[simp] theorem State.setPier_ofls (p : Nat) (x : Pier) : (s.setPier p x).ofls = s.ofls := rfl
@[simp] theorem State.setPier_rte (p : Nat) (x : Pier) : (s.setPier p x).rte = s.rte := rfl
@[simp] theorem State.setPier_ports (p : Nat) (x : Pier) : (s.setPier p x).ports = s.ports := rfl
@[simp] theorem State.setPier_hbCount (p : Nat) (x : Pier) : (s.setPier p x).hbCount = s.hbCount := rfl
@[simp] theorem State.setPier_mcs (p : Nat) (x : Pier) : (s.setPier p x).mcs = s.mcs := rfl
@[simp] theorem State.setPier_ls (p : Nat) (x : Pier) : (s.setPier p x).ls = s.ls := rfl
@[simp] theorem State.setPier_cs (p : Nat) (x : Pier) : (s.setPier p x).cs = s.cs := rfl
@[simp] theorem State.setPier_mem (p : Nat) (x : Pier) : (s.setPier p x).mem = s.mem := rfl
@[simp] theorem State.setPier_ckp (p : Nat) (x : Pier) : (s.setPier p x).ckp = s.ckp := rfl
@[simp] theorem State.setPier_frz (p : Nat) (x : Pier) : (s.setPier p x).frz = s.frz := rfl
@[simp] theorem State.setPier_jtag (p : Nat) (x : Pier) : (s.setPier p x).jtag = s.jtag := rfl
@[simp] theorem State.setPier_sec (p : Nat) (x : Pier) : (s.setPier p x).sec = s.sec := rfl
@[simp] theorem State.setPier_hosts (p : Nat) (x : Pier) : (s.setPier p x).hosts = s.hosts := rfl
@[simp] theorem State.setPier_latches (p : Nat) (x : Pier) : (s.setPier p x).latches = s.latches := rfl
@[simp] theorem State.setPier_smbPtr (p : Nat) (x : Pier) : (s.setPier p x).smbPtr = s.smbPtr := rfl
@[simp] theorem State.setPier_setNow (p : Nat) (x : Pier) : (s.setPier p x).setNow = s.setNow := rfl
@[simp] theorem State.setPier_clearedNow (p : Nat) (x : Pier) : (s.setPier p x).clearedNow = s.clearedNow := rfl

@[simp] theorem State.modPier_pending (p : Nat) (f : Pier → Pier) : (s.modPier p f).pending = s.pending := rfl
@[simp] theorem State.modPier_freeCtr (p : Nat) (f : Pier → Pier) : (s.modPier p f).freeCtr = s.freeCtr := rfl
@[simp] theorem State.modPier_nextCopy (p : Nat) (f : Pier → Pier) : (s.modPier p f).nextCopy = s.nextCopy := rfl
@[simp] theorem State.modPier_out (p : Nat) (f : Pier → Pier) : (s.modPier p f).out = s.out := rfl
@[simp] theorem State.modPier_gen (p : Nat) (f : Pier → Pier) : (s.modPier p f).gen = s.gen := rfl
@[simp] theorem State.modPier_pwr (p : Nat) (f : Pier → Pier) : (s.modPier p f).pwr = s.pwr := rfl
@[simp] theorem State.modPier_doms (p : Nat) (f : Pier → Pier) : (s.modPier p f).doms = s.doms := rfl
@[simp] theorem State.modPier_bu (p : Nat) (f : Pier → Pier) : (s.modPier p f).bu = s.bu := rfl
@[simp] theorem State.modPier_bond (p : Nat) (f : Pier → Pier) : (s.modPier p f).bond = s.bond := rfl
@[simp] theorem State.modPier_cfg (p : Nat) (f : Pier → Pier) : (s.modPier p f).cfg = s.cfg := rfl
@[simp] theorem State.modPier_engines (p : Nat) (f : Pier → Pier) : (s.modPier p f).engines = s.engines := rfl
@[simp] theorem State.modPier_courses (p : Nat) (f : Pier → Pier) : (s.modPier p f).courses = s.courses := rfl
@[simp] theorem State.modPier_parts (p : Nat) (f : Pier → Pier) : (s.modPier p f).parts = s.parts := rfl
@[simp] theorem State.modPier_ctxs (p : Nat) (f : Pier → Pier) : (s.modPier p f).ctxs = s.ctxs := rfl
@[simp] theorem State.modPier_mslots (p : Nat) (f : Pier → Pier) : (s.modPier p f).mslots = s.mslots := rfl
@[simp] theorem State.modPier_keys (p : Nat) (f : Pier → Pier) : (s.modPier p f).keys = s.keys := rfl
@[simp] theorem State.modPier_ofls (p : Nat) (f : Pier → Pier) : (s.modPier p f).ofls = s.ofls := rfl
@[simp] theorem State.modPier_rte (p : Nat) (f : Pier → Pier) : (s.modPier p f).rte = s.rte := rfl
@[simp] theorem State.modPier_ports (p : Nat) (f : Pier → Pier) : (s.modPier p f).ports = s.ports := rfl
@[simp] theorem State.modPier_hbCount (p : Nat) (f : Pier → Pier) : (s.modPier p f).hbCount = s.hbCount := rfl
@[simp] theorem State.modPier_mcs (p : Nat) (f : Pier → Pier) : (s.modPier p f).mcs = s.mcs := rfl
@[simp] theorem State.modPier_ls (p : Nat) (f : Pier → Pier) : (s.modPier p f).ls = s.ls := rfl
@[simp] theorem State.modPier_cs (p : Nat) (f : Pier → Pier) : (s.modPier p f).cs = s.cs := rfl
@[simp] theorem State.modPier_mem (p : Nat) (f : Pier → Pier) : (s.modPier p f).mem = s.mem := rfl
@[simp] theorem State.modPier_ckp (p : Nat) (f : Pier → Pier) : (s.modPier p f).ckp = s.ckp := rfl
@[simp] theorem State.modPier_frz (p : Nat) (f : Pier → Pier) : (s.modPier p f).frz = s.frz := rfl
@[simp] theorem State.modPier_jtag (p : Nat) (f : Pier → Pier) : (s.modPier p f).jtag = s.jtag := rfl
@[simp] theorem State.modPier_sec (p : Nat) (f : Pier → Pier) : (s.modPier p f).sec = s.sec := rfl
@[simp] theorem State.modPier_hosts (p : Nat) (f : Pier → Pier) : (s.modPier p f).hosts = s.hosts := rfl
@[simp] theorem State.modPier_latches (p : Nat) (f : Pier → Pier) : (s.modPier p f).latches = s.latches := rfl
@[simp] theorem State.modPier_smbPtr (p : Nat) (f : Pier → Pier) : (s.modPier p f).smbPtr = s.smbPtr := rfl
@[simp] theorem State.modPier_setNow (p : Nat) (f : Pier → Pier) : (s.modPier p f).setNow = s.setNow := rfl
@[simp] theorem State.modPier_clearedNow (p : Nat) (f : Pier → Pier) : (s.modPier p f).clearedNow = s.clearedNow := rfl

theorem State.pier_setPier (a b : Nat) (x : Pier) : (s.setPier a x).pier b = if b = a then x else s.pier b :=
  Tab.get_put ..
@[simp] theorem State.pier_setPier_self (a : Nat) (x : Pier) : (s.setPier a x).pier a = x := Tab.get_put_self ..
theorem State.pier_setPier_ne {a b : Nat} (x : Pier) (h : b ≠ a) : (s.setPier a x).pier b = s.pier b :=
  Tab.get_put_ne _ _ _ h
theorem State.pier_modPier (a b : Nat) (f : Pier → Pier) :
    (s.modPier a f).pier b = if b = a then f (s.pier a) else s.pier b := Tab.get_put ..
@[simp] theorem State.pier_modPier_self (a : Nat) (f : Pier → Pier) : (s.modPier a f).pier a = f (s.pier a) :=
  Tab.get_put_self ..
theorem State.pier_modPier_ne {a b : Nat} (f : Pier → Pier) (h : b ≠ a) : (s.modPier a f).pier b = s.pier b :=
  Tab.get_put_ne _ _ _ h

@[simp] theorem State.eng_setPier (a b : Nat) (x : Pier) : (s.setPier a x).eng b = s.eng b := rfl
@[simp] theorem State.eng_modPier (a b : Nat) (f : Pier → Pier) : (s.modPier a f).eng b = s.eng b := rfl
@[simp] theorem State.crs_setPier (a b : Nat) (x : Pier) : (s.setPier a x).crs b = s.crs b := rfl
@[simp] theorem State.crs_modPier (a b : Nat) (f : Pier → Pier) : (s.modPier a f).crs b = s.crs b := rfl
@[simp] theorem State.part_setPier (a b : Nat) (x : Pier) : (s.setPier a x).part b = s.part b := rfl
@[simp] theorem State.part_modPier (a b : Nat) (f : Pier → Pier) : (s.modPier a f).part b = s.part b := rfl
@[simp] theorem State.ctx_setPier (a b : Nat) (x : Pier) : (s.setPier a x).ctx b = s.ctx b := rfl
@[simp] theorem State.ctx_modPier (a b : Nat) (f : Pier → Pier) : (s.modPier a f).ctx b = s.ctx b := rfl
@[simp] theorem State.mslot_setPier (a b : Nat) (x : Pier) : (s.setPier a x).mslot b = s.mslot b := rfl
@[simp] theorem State.mslot_modPier (a b : Nat) (f : Pier → Pier) : (s.modPier a f).mslot b = s.mslot b := rfl
@[simp] theorem State.key_setPier (a b : Nat) (x : Pier) : (s.setPier a x).key b = s.key b := rfl
@[simp] theorem State.key_modPier (a b : Nat) (f : Pier → Pier) : (s.modPier a f).key b = s.key b := rfl
@[simp] theorem State.port_setPier (a b : Nat) (x : Pier) : (s.setPier a x).port b = s.port b := rfl
@[simp] theorem State.port_modPier (a b : Nat) (f : Pier → Pier) : (s.modPier a f).port b = s.port b := rfl
@[simp] theorem State.dom_setPier (a b : Nat) (x : Pier) : (s.setPier a x).dom b = s.dom b := rfl
@[simp] theorem State.dom_modPier (a b : Nat) (f : Pier → Pier) : (s.modPier a f).dom b = s.dom b := rfl
@[simp] theorem State.host_setPier (a b : Nat) (x : Pier) : (s.setPier a x).host b = s.host b := rfl
@[simp] theorem State.host_modPier (a b : Nat) (f : Pier → Pier) : (s.modPier a f).host b = s.host b := rfl

/-! ## doms -/

@[simp] theorem State.setDom_pending (d : Nat) (x : Dom) : (s.setDom d x).pending = s.pending := rfl
@[simp] theorem State.setDom_freeCtr (d : Nat) (x : Dom) : (s.setDom d x).freeCtr = s.freeCtr := rfl
@[simp] theorem State.setDom_nextCopy (d : Nat) (x : Dom) : (s.setDom d x).nextCopy = s.nextCopy := rfl
@[simp] theorem State.setDom_out (d : Nat) (x : Dom) : (s.setDom d x).out = s.out := rfl
@[simp] theorem State.setDom_gen (d : Nat) (x : Dom) : (s.setDom d x).gen = s.gen := rfl
@[simp] theorem State.setDom_pwr (d : Nat) (x : Dom) : (s.setDom d x).pwr = s.pwr := rfl
@[simp] theorem State.setDom_bu (d : Nat) (x : Dom) : (s.setDom d x).bu = s.bu := rfl
@[simp] theorem State.setDom_bond (d : Nat) (x : Dom) : (s.setDom d x).bond = s.bond := rfl
@[simp] theorem State.setDom_cfg (d : Nat) (x : Dom) : (s.setDom d x).cfg = s.cfg := rfl
@[simp] theorem State.setDom_engines (d : Nat) (x : Dom) : (s.setDom d x).engines = s.engines := rfl
@[simp] theorem State.setDom_courses (d : Nat) (x : Dom) : (s.setDom d x).courses = s.courses := rfl
@[simp] theorem State.setDom_parts (d : Nat) (x : Dom) : (s.setDom d x).parts = s.parts := rfl
@[simp] theorem State.setDom_ctxs (d : Nat) (x : Dom) : (s.setDom d x).ctxs = s.ctxs := rfl
@[simp] theorem State.setDom_mslots (d : Nat) (x : Dom) : (s.setDom d x).mslots = s.mslots := rfl
@[simp] theorem State.setDom_keys (d : Nat) (x : Dom) : (s.setDom d x).keys = s.keys := rfl
@[simp] theorem State.setDom_ofls (d : Nat) (x : Dom) : (s.setDom d x).ofls = s.ofls := rfl
@[simp] theorem State.setDom_rte (d : Nat) (x : Dom) : (s.setDom d x).rte = s.rte := rfl
@[simp] theorem State.setDom_ports (d : Nat) (x : Dom) : (s.setDom d x).ports = s.ports := rfl
@[simp] theorem State.setDom_hbCount (d : Nat) (x : Dom) : (s.setDom d x).hbCount = s.hbCount := rfl
@[simp] theorem State.setDom_piers (d : Nat) (x : Dom) : (s.setDom d x).piers = s.piers := rfl
@[simp] theorem State.setDom_mcs (d : Nat) (x : Dom) : (s.setDom d x).mcs = s.mcs := rfl
@[simp] theorem State.setDom_ls (d : Nat) (x : Dom) : (s.setDom d x).ls = s.ls := rfl
@[simp] theorem State.setDom_cs (d : Nat) (x : Dom) : (s.setDom d x).cs = s.cs := rfl
@[simp] theorem State.setDom_mem (d : Nat) (x : Dom) : (s.setDom d x).mem = s.mem := rfl
@[simp] theorem State.setDom_ckp (d : Nat) (x : Dom) : (s.setDom d x).ckp = s.ckp := rfl
@[simp] theorem State.setDom_frz (d : Nat) (x : Dom) : (s.setDom d x).frz = s.frz := rfl
@[simp] theorem State.setDom_jtag (d : Nat) (x : Dom) : (s.setDom d x).jtag = s.jtag := rfl
@[simp] theorem State.setDom_sec (d : Nat) (x : Dom) : (s.setDom d x).sec = s.sec := rfl
@[simp] theorem State.setDom_hosts (d : Nat) (x : Dom) : (s.setDom d x).hosts = s.hosts := rfl
@[simp] theorem State.setDom_latches (d : Nat) (x : Dom) : (s.setDom d x).latches = s.latches := rfl
@[simp] theorem State.setDom_smbPtr (d : Nat) (x : Dom) : (s.setDom d x).smbPtr = s.smbPtr := rfl
@[simp] theorem State.setDom_setNow (d : Nat) (x : Dom) : (s.setDom d x).setNow = s.setNow := rfl
@[simp] theorem State.setDom_clearedNow (d : Nat) (x : Dom) : (s.setDom d x).clearedNow = s.clearedNow := rfl

@[simp] theorem State.modDom_pending (d : Nat) (f : Dom → Dom) : (s.modDom d f).pending = s.pending := rfl
@[simp] theorem State.modDom_freeCtr (d : Nat) (f : Dom → Dom) : (s.modDom d f).freeCtr = s.freeCtr := rfl
@[simp] theorem State.modDom_nextCopy (d : Nat) (f : Dom → Dom) : (s.modDom d f).nextCopy = s.nextCopy := rfl
@[simp] theorem State.modDom_out (d : Nat) (f : Dom → Dom) : (s.modDom d f).out = s.out := rfl
@[simp] theorem State.modDom_gen (d : Nat) (f : Dom → Dom) : (s.modDom d f).gen = s.gen := rfl
@[simp] theorem State.modDom_pwr (d : Nat) (f : Dom → Dom) : (s.modDom d f).pwr = s.pwr := rfl
@[simp] theorem State.modDom_bu (d : Nat) (f : Dom → Dom) : (s.modDom d f).bu = s.bu := rfl
@[simp] theorem State.modDom_bond (d : Nat) (f : Dom → Dom) : (s.modDom d f).bond = s.bond := rfl
@[simp] theorem State.modDom_cfg (d : Nat) (f : Dom → Dom) : (s.modDom d f).cfg = s.cfg := rfl
@[simp] theorem State.modDom_engines (d : Nat) (f : Dom → Dom) : (s.modDom d f).engines = s.engines := rfl
@[simp] theorem State.modDom_courses (d : Nat) (f : Dom → Dom) : (s.modDom d f).courses = s.courses := rfl
@[simp] theorem State.modDom_parts (d : Nat) (f : Dom → Dom) : (s.modDom d f).parts = s.parts := rfl
@[simp] theorem State.modDom_ctxs (d : Nat) (f : Dom → Dom) : (s.modDom d f).ctxs = s.ctxs := rfl
@[simp] theorem State.modDom_mslots (d : Nat) (f : Dom → Dom) : (s.modDom d f).mslots = s.mslots := rfl
@[simp] theorem State.modDom_keys (d : Nat) (f : Dom → Dom) : (s.modDom d f).keys = s.keys := rfl
@[simp] theorem State.modDom_ofls (d : Nat) (f : Dom → Dom) : (s.modDom d f).ofls = s.ofls := rfl
@[simp] theorem State.modDom_rte (d : Nat) (f : Dom → Dom) : (s.modDom d f).rte = s.rte := rfl
@[simp] theorem State.modDom_ports (d : Nat) (f : Dom → Dom) : (s.modDom d f).ports = s.ports := rfl
@[simp] theorem State.modDom_hbCount (d : Nat) (f : Dom → Dom) : (s.modDom d f).hbCount = s.hbCount := rfl
@[simp] theorem State.modDom_piers (d : Nat) (f : Dom → Dom) : (s.modDom d f).piers = s.piers := rfl
@[simp] theorem State.modDom_mcs (d : Nat) (f : Dom → Dom) : (s.modDom d f).mcs = s.mcs := rfl
@[simp] theorem State.modDom_ls (d : Nat) (f : Dom → Dom) : (s.modDom d f).ls = s.ls := rfl
@[simp] theorem State.modDom_cs (d : Nat) (f : Dom → Dom) : (s.modDom d f).cs = s.cs := rfl
@[simp] theorem State.modDom_mem (d : Nat) (f : Dom → Dom) : (s.modDom d f).mem = s.mem := rfl
@[simp] theorem State.modDom_ckp (d : Nat) (f : Dom → Dom) : (s.modDom d f).ckp = s.ckp := rfl
@[simp] theorem State.modDom_frz (d : Nat) (f : Dom → Dom) : (s.modDom d f).frz = s.frz := rfl
@[simp] theorem State.modDom_jtag (d : Nat) (f : Dom → Dom) : (s.modDom d f).jtag = s.jtag := rfl
@[simp] theorem State.modDom_sec (d : Nat) (f : Dom → Dom) : (s.modDom d f).sec = s.sec := rfl
@[simp] theorem State.modDom_hosts (d : Nat) (f : Dom → Dom) : (s.modDom d f).hosts = s.hosts := rfl
@[simp] theorem State.modDom_latches (d : Nat) (f : Dom → Dom) : (s.modDom d f).latches = s.latches := rfl
@[simp] theorem State.modDom_smbPtr (d : Nat) (f : Dom → Dom) : (s.modDom d f).smbPtr = s.smbPtr := rfl
@[simp] theorem State.modDom_setNow (d : Nat) (f : Dom → Dom) : (s.modDom d f).setNow = s.setNow := rfl
@[simp] theorem State.modDom_clearedNow (d : Nat) (f : Dom → Dom) : (s.modDom d f).clearedNow = s.clearedNow := rfl

theorem State.dom_setDom (a b : Nat) (x : Dom) : (s.setDom a x).dom b = if b = a then x else s.dom b :=
  Tab.get_put ..
@[simp] theorem State.dom_setDom_self (a : Nat) (x : Dom) : (s.setDom a x).dom a = x := Tab.get_put_self ..
theorem State.dom_setDom_ne {a b : Nat} (x : Dom) (h : b ≠ a) : (s.setDom a x).dom b = s.dom b :=
  Tab.get_put_ne _ _ _ h
theorem State.dom_modDom (a b : Nat) (f : Dom → Dom) :
    (s.modDom a f).dom b = if b = a then f (s.dom a) else s.dom b := Tab.get_put ..
@[simp] theorem State.dom_modDom_self (a : Nat) (f : Dom → Dom) : (s.modDom a f).dom a = f (s.dom a) :=
  Tab.get_put_self ..
theorem State.dom_modDom_ne {a b : Nat} (f : Dom → Dom) (h : b ≠ a) : (s.modDom a f).dom b = s.dom b :=
  Tab.get_put_ne _ _ _ h

@[simp] theorem State.eng_setDom (a b : Nat) (x : Dom) : (s.setDom a x).eng b = s.eng b := rfl
@[simp] theorem State.eng_modDom (a b : Nat) (f : Dom → Dom) : (s.modDom a f).eng b = s.eng b := rfl
@[simp] theorem State.crs_setDom (a b : Nat) (x : Dom) : (s.setDom a x).crs b = s.crs b := rfl
@[simp] theorem State.crs_modDom (a b : Nat) (f : Dom → Dom) : (s.modDom a f).crs b = s.crs b := rfl
@[simp] theorem State.part_setDom (a b : Nat) (x : Dom) : (s.setDom a x).part b = s.part b := rfl
@[simp] theorem State.part_modDom (a b : Nat) (f : Dom → Dom) : (s.modDom a f).part b = s.part b := rfl
@[simp] theorem State.ctx_setDom (a b : Nat) (x : Dom) : (s.setDom a x).ctx b = s.ctx b := rfl
@[simp] theorem State.ctx_modDom (a b : Nat) (f : Dom → Dom) : (s.modDom a f).ctx b = s.ctx b := rfl
@[simp] theorem State.mslot_setDom (a b : Nat) (x : Dom) : (s.setDom a x).mslot b = s.mslot b := rfl
@[simp] theorem State.mslot_modDom (a b : Nat) (f : Dom → Dom) : (s.modDom a f).mslot b = s.mslot b := rfl
@[simp] theorem State.key_setDom (a b : Nat) (x : Dom) : (s.setDom a x).key b = s.key b := rfl
@[simp] theorem State.key_modDom (a b : Nat) (f : Dom → Dom) : (s.modDom a f).key b = s.key b := rfl
@[simp] theorem State.port_setDom (a b : Nat) (x : Dom) : (s.setDom a x).port b = s.port b := rfl
@[simp] theorem State.port_modDom (a b : Nat) (f : Dom → Dom) : (s.modDom a f).port b = s.port b := rfl
@[simp] theorem State.pier_setDom (a b : Nat) (x : Dom) : (s.setDom a x).pier b = s.pier b := rfl
@[simp] theorem State.pier_modDom (a b : Nat) (f : Dom → Dom) : (s.modDom a f).pier b = s.pier b := rfl
@[simp] theorem State.host_setDom (a b : Nat) (x : Dom) : (s.setDom a x).host b = s.host b := rfl
@[simp] theorem State.host_modDom (a b : Nat) (f : Dom → Dom) : (s.modDom a f).host b = s.host b := rfl

/-! ## hosts -/

@[simp] theorem State.setHost_pending (h : Nat) (x : HostPort) : (s.setHost h x).pending = s.pending := rfl
@[simp] theorem State.setHost_freeCtr (h : Nat) (x : HostPort) : (s.setHost h x).freeCtr = s.freeCtr := rfl
@[simp] theorem State.setHost_nextCopy (h : Nat) (x : HostPort) : (s.setHost h x).nextCopy = s.nextCopy := rfl
@[simp] theorem State.setHost_out (h : Nat) (x : HostPort) : (s.setHost h x).out = s.out := rfl
@[simp] theorem State.setHost_gen (h : Nat) (x : HostPort) : (s.setHost h x).gen = s.gen := rfl
@[simp] theorem State.setHost_pwr (h : Nat) (x : HostPort) : (s.setHost h x).pwr = s.pwr := rfl
@[simp] theorem State.setHost_doms (h : Nat) (x : HostPort) : (s.setHost h x).doms = s.doms := rfl
@[simp] theorem State.setHost_bu (h : Nat) (x : HostPort) : (s.setHost h x).bu = s.bu := rfl
@[simp] theorem State.setHost_bond (h : Nat) (x : HostPort) : (s.setHost h x).bond = s.bond := rfl
@[simp] theorem State.setHost_cfg (h : Nat) (x : HostPort) : (s.setHost h x).cfg = s.cfg := rfl
@[simp] theorem State.setHost_engines (h : Nat) (x : HostPort) : (s.setHost h x).engines = s.engines := rfl
@[simp] theorem State.setHost_courses (h : Nat) (x : HostPort) : (s.setHost h x).courses = s.courses := rfl
@[simp] theorem State.setHost_parts (h : Nat) (x : HostPort) : (s.setHost h x).parts = s.parts := rfl
@[simp] theorem State.setHost_ctxs (h : Nat) (x : HostPort) : (s.setHost h x).ctxs = s.ctxs := rfl
@[simp] theorem State.setHost_mslots (h : Nat) (x : HostPort) : (s.setHost h x).mslots = s.mslots := rfl
@[simp] theorem State.setHost_keys (h : Nat) (x : HostPort) : (s.setHost h x).keys = s.keys := rfl
@[simp] theorem State.setHost_ofls (h : Nat) (x : HostPort) : (s.setHost h x).ofls = s.ofls := rfl
@[simp] theorem State.setHost_rte (h : Nat) (x : HostPort) : (s.setHost h x).rte = s.rte := rfl
@[simp] theorem State.setHost_ports (h : Nat) (x : HostPort) : (s.setHost h x).ports = s.ports := rfl
@[simp] theorem State.setHost_hbCount (h : Nat) (x : HostPort) : (s.setHost h x).hbCount = s.hbCount := rfl
@[simp] theorem State.setHost_piers (h : Nat) (x : HostPort) : (s.setHost h x).piers = s.piers := rfl
@[simp] theorem State.setHost_mcs (h : Nat) (x : HostPort) : (s.setHost h x).mcs = s.mcs := rfl
@[simp] theorem State.setHost_ls (h : Nat) (x : HostPort) : (s.setHost h x).ls = s.ls := rfl
@[simp] theorem State.setHost_cs (h : Nat) (x : HostPort) : (s.setHost h x).cs = s.cs := rfl
@[simp] theorem State.setHost_mem (h : Nat) (x : HostPort) : (s.setHost h x).mem = s.mem := rfl
@[simp] theorem State.setHost_ckp (h : Nat) (x : HostPort) : (s.setHost h x).ckp = s.ckp := rfl
@[simp] theorem State.setHost_frz (h : Nat) (x : HostPort) : (s.setHost h x).frz = s.frz := rfl
@[simp] theorem State.setHost_jtag (h : Nat) (x : HostPort) : (s.setHost h x).jtag = s.jtag := rfl
@[simp] theorem State.setHost_sec (h : Nat) (x : HostPort) : (s.setHost h x).sec = s.sec := rfl
@[simp] theorem State.setHost_latches (h : Nat) (x : HostPort) : (s.setHost h x).latches = s.latches := rfl
@[simp] theorem State.setHost_smbPtr (h : Nat) (x : HostPort) : (s.setHost h x).smbPtr = s.smbPtr := rfl
@[simp] theorem State.setHost_setNow (h : Nat) (x : HostPort) : (s.setHost h x).setNow = s.setNow := rfl
@[simp] theorem State.setHost_clearedNow (h : Nat) (x : HostPort) : (s.setHost h x).clearedNow = s.clearedNow := rfl

@[simp] theorem State.modHost_pending (h : Nat) (f : HostPort → HostPort) : (s.modHost h f).pending = s.pending := rfl
@[simp] theorem State.modHost_freeCtr (h : Nat) (f : HostPort → HostPort) : (s.modHost h f).freeCtr = s.freeCtr := rfl
@[simp] theorem State.modHost_nextCopy (h : Nat) (f : HostPort → HostPort) : (s.modHost h f).nextCopy = s.nextCopy := rfl
@[simp] theorem State.modHost_out (h : Nat) (f : HostPort → HostPort) : (s.modHost h f).out = s.out := rfl
@[simp] theorem State.modHost_gen (h : Nat) (f : HostPort → HostPort) : (s.modHost h f).gen = s.gen := rfl
@[simp] theorem State.modHost_pwr (h : Nat) (f : HostPort → HostPort) : (s.modHost h f).pwr = s.pwr := rfl
@[simp] theorem State.modHost_doms (h : Nat) (f : HostPort → HostPort) : (s.modHost h f).doms = s.doms := rfl
@[simp] theorem State.modHost_bu (h : Nat) (f : HostPort → HostPort) : (s.modHost h f).bu = s.bu := rfl
@[simp] theorem State.modHost_bond (h : Nat) (f : HostPort → HostPort) : (s.modHost h f).bond = s.bond := rfl
@[simp] theorem State.modHost_cfg (h : Nat) (f : HostPort → HostPort) : (s.modHost h f).cfg = s.cfg := rfl
@[simp] theorem State.modHost_engines (h : Nat) (f : HostPort → HostPort) : (s.modHost h f).engines = s.engines := rfl
@[simp] theorem State.modHost_courses (h : Nat) (f : HostPort → HostPort) : (s.modHost h f).courses = s.courses := rfl
@[simp] theorem State.modHost_parts (h : Nat) (f : HostPort → HostPort) : (s.modHost h f).parts = s.parts := rfl
@[simp] theorem State.modHost_ctxs (h : Nat) (f : HostPort → HostPort) : (s.modHost h f).ctxs = s.ctxs := rfl
@[simp] theorem State.modHost_mslots (h : Nat) (f : HostPort → HostPort) : (s.modHost h f).mslots = s.mslots := rfl
@[simp] theorem State.modHost_keys (h : Nat) (f : HostPort → HostPort) : (s.modHost h f).keys = s.keys := rfl
@[simp] theorem State.modHost_ofls (h : Nat) (f : HostPort → HostPort) : (s.modHost h f).ofls = s.ofls := rfl
@[simp] theorem State.modHost_rte (h : Nat) (f : HostPort → HostPort) : (s.modHost h f).rte = s.rte := rfl
@[simp] theorem State.modHost_ports (h : Nat) (f : HostPort → HostPort) : (s.modHost h f).ports = s.ports := rfl
@[simp] theorem State.modHost_hbCount (h : Nat) (f : HostPort → HostPort) : (s.modHost h f).hbCount = s.hbCount := rfl
@[simp] theorem State.modHost_piers (h : Nat) (f : HostPort → HostPort) : (s.modHost h f).piers = s.piers := rfl
@[simp] theorem State.modHost_mcs (h : Nat) (f : HostPort → HostPort) : (s.modHost h f).mcs = s.mcs := rfl
@[simp] theorem State.modHost_ls (h : Nat) (f : HostPort → HostPort) : (s.modHost h f).ls = s.ls := rfl
@[simp] theorem State.modHost_cs (h : Nat) (f : HostPort → HostPort) : (s.modHost h f).cs = s.cs := rfl
@[simp] theorem State.modHost_mem (h : Nat) (f : HostPort → HostPort) : (s.modHost h f).mem = s.mem := rfl
@[simp] theorem State.modHost_ckp (h : Nat) (f : HostPort → HostPort) : (s.modHost h f).ckp = s.ckp := rfl
@[simp] theorem State.modHost_frz (h : Nat) (f : HostPort → HostPort) : (s.modHost h f).frz = s.frz := rfl
@[simp] theorem State.modHost_jtag (h : Nat) (f : HostPort → HostPort) : (s.modHost h f).jtag = s.jtag := rfl
@[simp] theorem State.modHost_sec (h : Nat) (f : HostPort → HostPort) : (s.modHost h f).sec = s.sec := rfl
@[simp] theorem State.modHost_latches (h : Nat) (f : HostPort → HostPort) : (s.modHost h f).latches = s.latches := rfl
@[simp] theorem State.modHost_smbPtr (h : Nat) (f : HostPort → HostPort) : (s.modHost h f).smbPtr = s.smbPtr := rfl
@[simp] theorem State.modHost_setNow (h : Nat) (f : HostPort → HostPort) : (s.modHost h f).setNow = s.setNow := rfl
@[simp] theorem State.modHost_clearedNow (h : Nat) (f : HostPort → HostPort) : (s.modHost h f).clearedNow = s.clearedNow := rfl

theorem State.host_setHost (a b : Nat) (x : HostPort) : (s.setHost a x).host b = if b = a then x else s.host b :=
  Tab.get_put ..
@[simp] theorem State.host_setHost_self (a : Nat) (x : HostPort) : (s.setHost a x).host a = x := Tab.get_put_self ..
theorem State.host_setHost_ne {a b : Nat} (x : HostPort) (h : b ≠ a) : (s.setHost a x).host b = s.host b :=
  Tab.get_put_ne _ _ _ h
theorem State.host_modHost (a b : Nat) (f : HostPort → HostPort) :
    (s.modHost a f).host b = if b = a then f (s.host a) else s.host b := Tab.get_put ..
@[simp] theorem State.host_modHost_self (a : Nat) (f : HostPort → HostPort) : (s.modHost a f).host a = f (s.host a) :=
  Tab.get_put_self ..
theorem State.host_modHost_ne {a b : Nat} (f : HostPort → HostPort) (h : b ≠ a) : (s.modHost a f).host b = s.host b :=
  Tab.get_put_ne _ _ _ h

@[simp] theorem State.eng_setHost (a b : Nat) (x : HostPort) : (s.setHost a x).eng b = s.eng b := rfl
@[simp] theorem State.eng_modHost (a b : Nat) (f : HostPort → HostPort) : (s.modHost a f).eng b = s.eng b := rfl
@[simp] theorem State.crs_setHost (a b : Nat) (x : HostPort) : (s.setHost a x).crs b = s.crs b := rfl
@[simp] theorem State.crs_modHost (a b : Nat) (f : HostPort → HostPort) : (s.modHost a f).crs b = s.crs b := rfl
@[simp] theorem State.part_setHost (a b : Nat) (x : HostPort) : (s.setHost a x).part b = s.part b := rfl
@[simp] theorem State.part_modHost (a b : Nat) (f : HostPort → HostPort) : (s.modHost a f).part b = s.part b := rfl
@[simp] theorem State.ctx_setHost (a b : Nat) (x : HostPort) : (s.setHost a x).ctx b = s.ctx b := rfl
@[simp] theorem State.ctx_modHost (a b : Nat) (f : HostPort → HostPort) : (s.modHost a f).ctx b = s.ctx b := rfl
@[simp] theorem State.mslot_setHost (a b : Nat) (x : HostPort) : (s.setHost a x).mslot b = s.mslot b := rfl
@[simp] theorem State.mslot_modHost (a b : Nat) (f : HostPort → HostPort) : (s.modHost a f).mslot b = s.mslot b := rfl
@[simp] theorem State.key_setHost (a b : Nat) (x : HostPort) : (s.setHost a x).key b = s.key b := rfl
@[simp] theorem State.key_modHost (a b : Nat) (f : HostPort → HostPort) : (s.modHost a f).key b = s.key b := rfl
@[simp] theorem State.port_setHost (a b : Nat) (x : HostPort) : (s.setHost a x).port b = s.port b := rfl
@[simp] theorem State.port_modHost (a b : Nat) (f : HostPort → HostPort) : (s.modHost a f).port b = s.port b := rfl
@[simp] theorem State.pier_setHost (a b : Nat) (x : HostPort) : (s.setHost a x).pier b = s.pier b := rfl
@[simp] theorem State.pier_modHost (a b : Nat) (f : HostPort → HostPort) : (s.modHost a f).pier b = s.pier b := rfl
@[simp] theorem State.dom_setHost (a b : Nat) (x : HostPort) : (s.setHost a x).dom b = s.dom b := rfl
@[simp] theorem State.dom_modHost (a b : Nat) (f : HostPort → HostPort) : (s.modHost a f).dom b = s.dom b := rfl

/-! ## ofls, mcs, die counters, the outside, free values -/

@[simp] theorem State.setOfl_pending (p w : Nat) (x : Ofl) : (s.setOfl p w x).pending = s.pending := rfl
@[simp] theorem State.setOfl_freeCtr (p w : Nat) (x : Ofl) : (s.setOfl p w x).freeCtr = s.freeCtr := rfl
@[simp] theorem State.setOfl_nextCopy (p w : Nat) (x : Ofl) : (s.setOfl p w x).nextCopy = s.nextCopy := rfl
@[simp] theorem State.setOfl_out (p w : Nat) (x : Ofl) : (s.setOfl p w x).out = s.out := rfl
@[simp] theorem State.setOfl_gen (p w : Nat) (x : Ofl) : (s.setOfl p w x).gen = s.gen := rfl
@[simp] theorem State.setOfl_pwr (p w : Nat) (x : Ofl) : (s.setOfl p w x).pwr = s.pwr := rfl
@[simp] theorem State.setOfl_doms (p w : Nat) (x : Ofl) : (s.setOfl p w x).doms = s.doms := rfl
@[simp] theorem State.setOfl_bu (p w : Nat) (x : Ofl) : (s.setOfl p w x).bu = s.bu := rfl
@[simp] theorem State.setOfl_bond (p w : Nat) (x : Ofl) : (s.setOfl p w x).bond = s.bond := rfl
@[simp] theorem State.setOfl_cfg (p w : Nat) (x : Ofl) : (s.setOfl p w x).cfg = s.cfg := rfl
@[simp] theorem State.setOfl_engines (p w : Nat) (x : Ofl) : (s.setOfl p w x).engines = s.engines := rfl
@[simp] theorem State.setOfl_courses (p w : Nat) (x : Ofl) : (s.setOfl p w x).courses = s.courses := rfl
@[simp] theorem State.setOfl_parts (p w : Nat) (x : Ofl) : (s.setOfl p w x).parts = s.parts := rfl
@[simp] theorem State.setOfl_ctxs (p w : Nat) (x : Ofl) : (s.setOfl p w x).ctxs = s.ctxs := rfl
@[simp] theorem State.setOfl_mslots (p w : Nat) (x : Ofl) : (s.setOfl p w x).mslots = s.mslots := rfl
@[simp] theorem State.setOfl_keys (p w : Nat) (x : Ofl) : (s.setOfl p w x).keys = s.keys := rfl
@[simp] theorem State.setOfl_rte (p w : Nat) (x : Ofl) : (s.setOfl p w x).rte = s.rte := rfl
@[simp] theorem State.setOfl_ports (p w : Nat) (x : Ofl) : (s.setOfl p w x).ports = s.ports := rfl
@[simp] theorem State.setOfl_hbCount (p w : Nat) (x : Ofl) : (s.setOfl p w x).hbCount = s.hbCount := rfl
@[simp] theorem State.setOfl_piers (p w : Nat) (x : Ofl) : (s.setOfl p w x).piers = s.piers := rfl
@[simp] theorem State.setOfl_mcs (p w : Nat) (x : Ofl) : (s.setOfl p w x).mcs = s.mcs := rfl
@[simp] theorem State.setOfl_ls (p w : Nat) (x : Ofl) : (s.setOfl p w x).ls = s.ls := rfl
@[simp] theorem State.setOfl_cs (p w : Nat) (x : Ofl) : (s.setOfl p w x).cs = s.cs := rfl
@[simp] theorem State.setOfl_mem (p w : Nat) (x : Ofl) : (s.setOfl p w x).mem = s.mem := rfl
@[simp] theorem State.setOfl_ckp (p w : Nat) (x : Ofl) : (s.setOfl p w x).ckp = s.ckp := rfl
@[simp] theorem State.setOfl_frz (p w : Nat) (x : Ofl) : (s.setOfl p w x).frz = s.frz := rfl
@[simp] theorem State.setOfl_jtag (p w : Nat) (x : Ofl) : (s.setOfl p w x).jtag = s.jtag := rfl
@[simp] theorem State.setOfl_sec (p w : Nat) (x : Ofl) : (s.setOfl p w x).sec = s.sec := rfl
@[simp] theorem State.setOfl_hosts (p w : Nat) (x : Ofl) : (s.setOfl p w x).hosts = s.hosts := rfl
@[simp] theorem State.setOfl_latches (p w : Nat) (x : Ofl) : (s.setOfl p w x).latches = s.latches := rfl
@[simp] theorem State.setOfl_smbPtr (p w : Nat) (x : Ofl) : (s.setOfl p w x).smbPtr = s.smbPtr := rfl
@[simp] theorem State.setOfl_setNow (p w : Nat) (x : Ofl) : (s.setOfl p w x).setNow = s.setNow := rfl
@[simp] theorem State.setOfl_clearedNow (p w : Nat) (x : Ofl) : (s.setOfl p w x).clearedNow = s.clearedNow := rfl

@[simp] theorem State.modOfl_pending (p w : Nat) (f : Ofl → Ofl) : (s.modOfl p w f).pending = s.pending := rfl
@[simp] theorem State.modOfl_freeCtr (p w : Nat) (f : Ofl → Ofl) : (s.modOfl p w f).freeCtr = s.freeCtr := rfl
@[simp] theorem State.modOfl_nextCopy (p w : Nat) (f : Ofl → Ofl) : (s.modOfl p w f).nextCopy = s.nextCopy := rfl
@[simp] theorem State.modOfl_out (p w : Nat) (f : Ofl → Ofl) : (s.modOfl p w f).out = s.out := rfl
@[simp] theorem State.modOfl_gen (p w : Nat) (f : Ofl → Ofl) : (s.modOfl p w f).gen = s.gen := rfl
@[simp] theorem State.modOfl_pwr (p w : Nat) (f : Ofl → Ofl) : (s.modOfl p w f).pwr = s.pwr := rfl
@[simp] theorem State.modOfl_doms (p w : Nat) (f : Ofl → Ofl) : (s.modOfl p w f).doms = s.doms := rfl
@[simp] theorem State.modOfl_bu (p w : Nat) (f : Ofl → Ofl) : (s.modOfl p w f).bu = s.bu := rfl
@[simp] theorem State.modOfl_bond (p w : Nat) (f : Ofl → Ofl) : (s.modOfl p w f).bond = s.bond := rfl
@[simp] theorem State.modOfl_cfg (p w : Nat) (f : Ofl → Ofl) : (s.modOfl p w f).cfg = s.cfg := rfl
@[simp] theorem State.modOfl_engines (p w : Nat) (f : Ofl → Ofl) : (s.modOfl p w f).engines = s.engines := rfl
@[simp] theorem State.modOfl_courses (p w : Nat) (f : Ofl → Ofl) : (s.modOfl p w f).courses = s.courses := rfl
@[simp] theorem State.modOfl_parts (p w : Nat) (f : Ofl → Ofl) : (s.modOfl p w f).parts = s.parts := rfl
@[simp] theorem State.modOfl_ctxs (p w : Nat) (f : Ofl → Ofl) : (s.modOfl p w f).ctxs = s.ctxs := rfl
@[simp] theorem State.modOfl_mslots (p w : Nat) (f : Ofl → Ofl) : (s.modOfl p w f).mslots = s.mslots := rfl
@[simp] theorem State.modOfl_keys (p w : Nat) (f : Ofl → Ofl) : (s.modOfl p w f).keys = s.keys := rfl
@[simp] theorem State.modOfl_rte (p w : Nat) (f : Ofl → Ofl) : (s.modOfl p w f).rte = s.rte := rfl
@[simp] theorem State.modOfl_ports (p w : Nat) (f : Ofl → Ofl) : (s.modOfl p w f).ports = s.ports := rfl
@[simp] theorem State.modOfl_hbCount (p w : Nat) (f : Ofl → Ofl) : (s.modOfl p w f).hbCount = s.hbCount := rfl
@[simp] theorem State.modOfl_piers (p w : Nat) (f : Ofl → Ofl) : (s.modOfl p w f).piers = s.piers := rfl
@[simp] theorem State.modOfl_mcs (p w : Nat) (f : Ofl → Ofl) : (s.modOfl p w f).mcs = s.mcs := rfl
@[simp] theorem State.modOfl_ls (p w : Nat) (f : Ofl → Ofl) : (s.modOfl p w f).ls = s.ls := rfl
@[simp] theorem State.modOfl_cs (p w : Nat) (f : Ofl → Ofl) : (s.modOfl p w f).cs = s.cs := rfl
@[simp] theorem State.modOfl_mem (p w : Nat) (f : Ofl → Ofl) : (s.modOfl p w f).mem = s.mem := rfl
@[simp] theorem State.modOfl_ckp (p w : Nat) (f : Ofl → Ofl) : (s.modOfl p w f).ckp = s.ckp := rfl
@[simp] theorem State.modOfl_frz (p w : Nat) (f : Ofl → Ofl) : (s.modOfl p w f).frz = s.frz := rfl
@[simp] theorem State.modOfl_jtag (p w : Nat) (f : Ofl → Ofl) : (s.modOfl p w f).jtag = s.jtag := rfl
@[simp] theorem State.modOfl_sec (p w : Nat) (f : Ofl → Ofl) : (s.modOfl p w f).sec = s.sec := rfl
@[simp] theorem State.modOfl_hosts (p w : Nat) (f : Ofl → Ofl) : (s.modOfl p w f).hosts = s.hosts := rfl
@[simp] theorem State.modOfl_latches (p w : Nat) (f : Ofl → Ofl) : (s.modOfl p w f).latches = s.latches := rfl
@[simp] theorem State.modOfl_smbPtr (p w : Nat) (f : Ofl → Ofl) : (s.modOfl p w f).smbPtr = s.smbPtr := rfl
@[simp] theorem State.modOfl_setNow (p w : Nat) (f : Ofl → Ofl) : (s.modOfl p w f).setNow = s.setNow := rfl
@[simp] theorem State.modOfl_clearedNow (p w : Nat) (f : Ofl → Ofl) : (s.modOfl p w f).clearedNow = s.clearedNow := rfl

@[simp] theorem State.modMc_pending (m : Nat) (f : Mc → Mc) : (s.modMc m f).pending = s.pending := rfl
@[simp] theorem State.modMc_freeCtr (m : Nat) (f : Mc → Mc) : (s.modMc m f).freeCtr = s.freeCtr := rfl
@[simp] theorem State.modMc_nextCopy (m : Nat) (f : Mc → Mc) : (s.modMc m f).nextCopy = s.nextCopy := rfl
@[simp] theorem State.modMc_out (m : Nat) (f : Mc → Mc) : (s.modMc m f).out = s.out := rfl
@[simp] theorem State.modMc_gen (m : Nat) (f : Mc → Mc) : (s.modMc m f).gen = s.gen := rfl
@[simp] theorem State.modMc_pwr (m : Nat) (f : Mc → Mc) : (s.modMc m f).pwr = s.pwr := rfl
@[simp] theorem State.modMc_doms (m : Nat) (f : Mc → Mc) : (s.modMc m f).doms = s.doms := rfl
@[simp] theorem State.modMc_bu (m : Nat) (f : Mc → Mc) : (s.modMc m f).bu = s.bu := rfl
@[simp] theorem State.modMc_bond (m : Nat) (f : Mc → Mc) : (s.modMc m f).bond = s.bond := rfl
@[simp] theorem State.modMc_cfg (m : Nat) (f : Mc → Mc) : (s.modMc m f).cfg = s.cfg := rfl
@[simp] theorem State.modMc_engines (m : Nat) (f : Mc → Mc) : (s.modMc m f).engines = s.engines := rfl
@[simp] theorem State.modMc_courses (m : Nat) (f : Mc → Mc) : (s.modMc m f).courses = s.courses := rfl
@[simp] theorem State.modMc_parts (m : Nat) (f : Mc → Mc) : (s.modMc m f).parts = s.parts := rfl
@[simp] theorem State.modMc_ctxs (m : Nat) (f : Mc → Mc) : (s.modMc m f).ctxs = s.ctxs := rfl
@[simp] theorem State.modMc_mslots (m : Nat) (f : Mc → Mc) : (s.modMc m f).mslots = s.mslots := rfl
@[simp] theorem State.modMc_keys (m : Nat) (f : Mc → Mc) : (s.modMc m f).keys = s.keys := rfl
@[simp] theorem State.modMc_ofls (m : Nat) (f : Mc → Mc) : (s.modMc m f).ofls = s.ofls := rfl
@[simp] theorem State.modMc_rte (m : Nat) (f : Mc → Mc) : (s.modMc m f).rte = s.rte := rfl
@[simp] theorem State.modMc_ports (m : Nat) (f : Mc → Mc) : (s.modMc m f).ports = s.ports := rfl
@[simp] theorem State.modMc_hbCount (m : Nat) (f : Mc → Mc) : (s.modMc m f).hbCount = s.hbCount := rfl
@[simp] theorem State.modMc_piers (m : Nat) (f : Mc → Mc) : (s.modMc m f).piers = s.piers := rfl
@[simp] theorem State.modMc_ls (m : Nat) (f : Mc → Mc) : (s.modMc m f).ls = s.ls := rfl
@[simp] theorem State.modMc_cs (m : Nat) (f : Mc → Mc) : (s.modMc m f).cs = s.cs := rfl
@[simp] theorem State.modMc_mem (m : Nat) (f : Mc → Mc) : (s.modMc m f).mem = s.mem := rfl
@[simp] theorem State.modMc_ckp (m : Nat) (f : Mc → Mc) : (s.modMc m f).ckp = s.ckp := rfl
@[simp] theorem State.modMc_frz (m : Nat) (f : Mc → Mc) : (s.modMc m f).frz = s.frz := rfl
@[simp] theorem State.modMc_jtag (m : Nat) (f : Mc → Mc) : (s.modMc m f).jtag = s.jtag := rfl
@[simp] theorem State.modMc_sec (m : Nat) (f : Mc → Mc) : (s.modMc m f).sec = s.sec := rfl
@[simp] theorem State.modMc_hosts (m : Nat) (f : Mc → Mc) : (s.modMc m f).hosts = s.hosts := rfl
@[simp] theorem State.modMc_latches (m : Nat) (f : Mc → Mc) : (s.modMc m f).latches = s.latches := rfl
@[simp] theorem State.modMc_smbPtr (m : Nat) (f : Mc → Mc) : (s.modMc m f).smbPtr = s.smbPtr := rfl
@[simp] theorem State.modMc_setNow (m : Nat) (f : Mc → Mc) : (s.modMc m f).setNow = s.setNow := rfl
@[simp] theorem State.modMc_clearedNow (m : Nat) (f : Mc → Mc) : (s.modMc m f).clearedNow = s.clearedNow := rfl

@[simp] theorem State.modCtr_pending (d : Nat) (f : DieCtr → DieCtr) : (s.modCtr d f).pending = s.pending := rfl
@[simp] theorem State.modCtr_freeCtr (d : Nat) (f : DieCtr → DieCtr) : (s.modCtr d f).freeCtr = s.freeCtr := rfl
@[simp] theorem State.modCtr_nextCopy (d : Nat) (f : DieCtr → DieCtr) : (s.modCtr d f).nextCopy = s.nextCopy := rfl
@[simp] theorem State.modCtr_out (d : Nat) (f : DieCtr → DieCtr) : (s.modCtr d f).out = s.out := rfl
@[simp] theorem State.modCtr_gen (d : Nat) (f : DieCtr → DieCtr) : (s.modCtr d f).gen = s.gen := rfl
@[simp] theorem State.modCtr_pwr (d : Nat) (f : DieCtr → DieCtr) : (s.modCtr d f).pwr = s.pwr := rfl
@[simp] theorem State.modCtr_doms (d : Nat) (f : DieCtr → DieCtr) : (s.modCtr d f).doms = s.doms := rfl
@[simp] theorem State.modCtr_bu (d : Nat) (f : DieCtr → DieCtr) : (s.modCtr d f).bu = s.bu := rfl
@[simp] theorem State.modCtr_bond (d : Nat) (f : DieCtr → DieCtr) : (s.modCtr d f).bond = s.bond := rfl
@[simp] theorem State.modCtr_cfg (d : Nat) (f : DieCtr → DieCtr) : (s.modCtr d f).cfg = s.cfg := rfl
@[simp] theorem State.modCtr_engines (d : Nat) (f : DieCtr → DieCtr) : (s.modCtr d f).engines = s.engines := rfl
@[simp] theorem State.modCtr_courses (d : Nat) (f : DieCtr → DieCtr) : (s.modCtr d f).courses = s.courses := rfl
@[simp] theorem State.modCtr_parts (d : Nat) (f : DieCtr → DieCtr) : (s.modCtr d f).parts = s.parts := rfl
@[simp] theorem State.modCtr_ctxs (d : Nat) (f : DieCtr → DieCtr) : (s.modCtr d f).ctxs = s.ctxs := rfl
@[simp] theorem State.modCtr_mslots (d : Nat) (f : DieCtr → DieCtr) : (s.modCtr d f).mslots = s.mslots := rfl
@[simp] theorem State.modCtr_keys (d : Nat) (f : DieCtr → DieCtr) : (s.modCtr d f).keys = s.keys := rfl
@[simp] theorem State.modCtr_ofls (d : Nat) (f : DieCtr → DieCtr) : (s.modCtr d f).ofls = s.ofls := rfl
@[simp] theorem State.modCtr_ports (d : Nat) (f : DieCtr → DieCtr) : (s.modCtr d f).ports = s.ports := rfl
@[simp] theorem State.modCtr_hbCount (d : Nat) (f : DieCtr → DieCtr) : (s.modCtr d f).hbCount = s.hbCount := rfl
@[simp] theorem State.modCtr_piers (d : Nat) (f : DieCtr → DieCtr) : (s.modCtr d f).piers = s.piers := rfl
@[simp] theorem State.modCtr_mcs (d : Nat) (f : DieCtr → DieCtr) : (s.modCtr d f).mcs = s.mcs := rfl
@[simp] theorem State.modCtr_ls (d : Nat) (f : DieCtr → DieCtr) : (s.modCtr d f).ls = s.ls := rfl
@[simp] theorem State.modCtr_cs (d : Nat) (f : DieCtr → DieCtr) : (s.modCtr d f).cs = s.cs := rfl
@[simp] theorem State.modCtr_mem (d : Nat) (f : DieCtr → DieCtr) : (s.modCtr d f).mem = s.mem := rfl
@[simp] theorem State.modCtr_ckp (d : Nat) (f : DieCtr → DieCtr) : (s.modCtr d f).ckp = s.ckp := rfl
@[simp] theorem State.modCtr_frz (d : Nat) (f : DieCtr → DieCtr) : (s.modCtr d f).frz = s.frz := rfl
@[simp] theorem State.modCtr_jtag (d : Nat) (f : DieCtr → DieCtr) : (s.modCtr d f).jtag = s.jtag := rfl
@[simp] theorem State.modCtr_sec (d : Nat) (f : DieCtr → DieCtr) : (s.modCtr d f).sec = s.sec := rfl
@[simp] theorem State.modCtr_hosts (d : Nat) (f : DieCtr → DieCtr) : (s.modCtr d f).hosts = s.hosts := rfl
@[simp] theorem State.modCtr_latches (d : Nat) (f : DieCtr → DieCtr) : (s.modCtr d f).latches = s.latches := rfl
@[simp] theorem State.modCtr_smbPtr (d : Nat) (f : DieCtr → DieCtr) : (s.modCtr d f).smbPtr = s.smbPtr := rfl
@[simp] theorem State.modCtr_setNow (d : Nat) (f : DieCtr → DieCtr) : (s.modCtr d f).setNow = s.setNow := rfl
@[simp] theorem State.modCtr_clearedNow (d : Nat) (f : DieCtr → DieCtr) : (s.modCtr d f).clearedNow = s.clearedNow := rfl

@[simp] theorem State.emit_pending (x : Out) : (s.emit x).pending = s.pending := rfl
@[simp] theorem State.emit_freeCtr (x : Out) : (s.emit x).freeCtr = s.freeCtr := rfl
@[simp] theorem State.emit_nextCopy (x : Out) : (s.emit x).nextCopy = s.nextCopy := rfl
@[simp] theorem State.emit_gen (x : Out) : (s.emit x).gen = s.gen := rfl
@[simp] theorem State.emit_pwr (x : Out) : (s.emit x).pwr = s.pwr := rfl
@[simp] theorem State.emit_doms (x : Out) : (s.emit x).doms = s.doms := rfl
@[simp] theorem State.emit_bu (x : Out) : (s.emit x).bu = s.bu := rfl
@[simp] theorem State.emit_bond (x : Out) : (s.emit x).bond = s.bond := rfl
@[simp] theorem State.emit_cfg (x : Out) : (s.emit x).cfg = s.cfg := rfl
@[simp] theorem State.emit_engines (x : Out) : (s.emit x).engines = s.engines := rfl
@[simp] theorem State.emit_courses (x : Out) : (s.emit x).courses = s.courses := rfl
@[simp] theorem State.emit_parts (x : Out) : (s.emit x).parts = s.parts := rfl
@[simp] theorem State.emit_ctxs (x : Out) : (s.emit x).ctxs = s.ctxs := rfl
@[simp] theorem State.emit_mslots (x : Out) : (s.emit x).mslots = s.mslots := rfl
@[simp] theorem State.emit_keys (x : Out) : (s.emit x).keys = s.keys := rfl
@[simp] theorem State.emit_ofls (x : Out) : (s.emit x).ofls = s.ofls := rfl
@[simp] theorem State.emit_rte (x : Out) : (s.emit x).rte = s.rte := rfl
@[simp] theorem State.emit_ports (x : Out) : (s.emit x).ports = s.ports := rfl
@[simp] theorem State.emit_hbCount (x : Out) : (s.emit x).hbCount = s.hbCount := rfl
@[simp] theorem State.emit_piers (x : Out) : (s.emit x).piers = s.piers := rfl
@[simp] theorem State.emit_mcs (x : Out) : (s.emit x).mcs = s.mcs := rfl
@[simp] theorem State.emit_ls (x : Out) : (s.emit x).ls = s.ls := rfl
@[simp] theorem State.emit_cs (x : Out) : (s.emit x).cs = s.cs := rfl
@[simp] theorem State.emit_mem (x : Out) : (s.emit x).mem = s.mem := rfl
@[simp] theorem State.emit_ckp (x : Out) : (s.emit x).ckp = s.ckp := rfl
@[simp] theorem State.emit_frz (x : Out) : (s.emit x).frz = s.frz := rfl
@[simp] theorem State.emit_jtag (x : Out) : (s.emit x).jtag = s.jtag := rfl
@[simp] theorem State.emit_sec (x : Out) : (s.emit x).sec = s.sec := rfl
@[simp] theorem State.emit_hosts (x : Out) : (s.emit x).hosts = s.hosts := rfl
@[simp] theorem State.emit_latches (x : Out) : (s.emit x).latches = s.latches := rfl
@[simp] theorem State.emit_smbPtr (x : Out) : (s.emit x).smbPtr = s.smbPtr := rfl
@[simp] theorem State.emit_setNow (x : Out) : (s.emit x).setNow = s.setNow := rfl
@[simp] theorem State.emit_clearedNow (x : Out) : (s.emit x).clearedNow = s.clearedNow := rfl

@[simp] theorem State.emit_out (x : Out) : (s.emit x).out = s.out ++ [x] := rfl

@[simp] theorem State.freeBool_pending : (s.freeBool.2).pending = s.pending := rfl
@[simp] theorem State.freeBool_nextCopy  : (s.freeBool.2).nextCopy = s.nextCopy := rfl
@[simp] theorem State.freeBool_out  : (s.freeBool.2).out = s.out := rfl
@[simp] theorem State.freeBool_gen  : (s.freeBool.2).gen = s.gen := rfl
@[simp] theorem State.freeBool_pwr  : (s.freeBool.2).pwr = s.pwr := rfl
@[simp] theorem State.freeBool_doms  : (s.freeBool.2).doms = s.doms := rfl
@[simp] theorem State.freeBool_bu  : (s.freeBool.2).bu = s.bu := rfl
@[simp] theorem State.freeBool_bond  : (s.freeBool.2).bond = s.bond := rfl
@[simp] theorem State.freeBool_cfg  : (s.freeBool.2).cfg = s.cfg := rfl
@[simp] theorem State.freeBool_engines  : (s.freeBool.2).engines = s.engines := rfl
@[simp] theorem State.freeBool_courses  : (s.freeBool.2).courses = s.courses := rfl
@[simp] theorem State.freeBool_parts  : (s.freeBool.2).parts = s.parts := rfl
@[simp] theorem State.freeBool_ctxs  : (s.freeBool.2).ctxs = s.ctxs := rfl
@[simp] theorem State.freeBool_mslots  : (s.freeBool.2).mslots = s.mslots := rfl
@[simp] theorem State.freeBool_keys  : (s.freeBool.2).keys = s.keys := rfl
@[simp] theorem State.freeBool_ofls  : (s.freeBool.2).ofls = s.ofls := rfl
@[simp] theorem State.freeBool_rte  : (s.freeBool.2).rte = s.rte := rfl
@[simp] theorem State.freeBool_ports  : (s.freeBool.2).ports = s.ports := rfl
@[simp] theorem State.freeBool_hbCount  : (s.freeBool.2).hbCount = s.hbCount := rfl
@[simp] theorem State.freeBool_piers  : (s.freeBool.2).piers = s.piers := rfl
@[simp] theorem State.freeBool_mcs  : (s.freeBool.2).mcs = s.mcs := rfl
@[simp] theorem State.freeBool_ls  : (s.freeBool.2).ls = s.ls := rfl
@[simp] theorem State.freeBool_cs  : (s.freeBool.2).cs = s.cs := rfl
@[simp] theorem State.freeBool_mem  : (s.freeBool.2).mem = s.mem := rfl
@[simp] theorem State.freeBool_ckp  : (s.freeBool.2).ckp = s.ckp := rfl
@[simp] theorem State.freeBool_frz  : (s.freeBool.2).frz = s.frz := rfl
@[simp] theorem State.freeBool_jtag  : (s.freeBool.2).jtag = s.jtag := rfl
@[simp] theorem State.freeBool_sec  : (s.freeBool.2).sec = s.sec := rfl
@[simp] theorem State.freeBool_hosts  : (s.freeBool.2).hosts = s.hosts := rfl
@[simp] theorem State.freeBool_latches  : (s.freeBool.2).latches = s.latches := rfl
@[simp] theorem State.freeBool_smbPtr  : (s.freeBool.2).smbPtr = s.smbPtr := rfl
@[simp] theorem State.freeBool_setNow  : (s.freeBool.2).setNow = s.setNow := rfl
@[simp] theorem State.freeBool_clearedNow  : (s.freeBool.2).clearedNow = s.clearedNow := rfl

@[simp] theorem State.freeNat_pending : (s.freeNat.2).pending = s.pending := rfl
@[simp] theorem State.freeNat_nextCopy  : (s.freeNat.2).nextCopy = s.nextCopy := rfl
@[simp] theorem State.freeNat_out  : (s.freeNat.2).out = s.out := rfl
@[simp] theorem State.freeNat_gen  : (s.freeNat.2).gen = s.gen := rfl
@[simp] theorem State.freeNat_pwr  : (s.freeNat.2).pwr = s.pwr := rfl
@[simp] theorem State.freeNat_doms  : (s.freeNat.2).doms = s.doms := rfl
@[simp] theorem State.freeNat_bu  : (s.freeNat.2).bu = s.bu := rfl
@[simp] theorem State.freeNat_bond  : (s.freeNat.2).bond = s.bond := rfl
@[simp] theorem State.freeNat_cfg  : (s.freeNat.2).cfg = s.cfg := rfl
@[simp] theorem State.freeNat_engines  : (s.freeNat.2).engines = s.engines := rfl
@[simp] theorem State.freeNat_courses  : (s.freeNat.2).courses = s.courses := rfl
@[simp] theorem State.freeNat_parts  : (s.freeNat.2).parts = s.parts := rfl
@[simp] theorem State.freeNat_ctxs  : (s.freeNat.2).ctxs = s.ctxs := rfl
@[simp] theorem State.freeNat_mslots  : (s.freeNat.2).mslots = s.mslots := rfl
@[simp] theorem State.freeNat_keys  : (s.freeNat.2).keys = s.keys := rfl
@[simp] theorem State.freeNat_ofls  : (s.freeNat.2).ofls = s.ofls := rfl
@[simp] theorem State.freeNat_rte  : (s.freeNat.2).rte = s.rte := rfl
@[simp] theorem State.freeNat_ports  : (s.freeNat.2).ports = s.ports := rfl
@[simp] theorem State.freeNat_hbCount  : (s.freeNat.2).hbCount = s.hbCount := rfl
@[simp] theorem State.freeNat_piers  : (s.freeNat.2).piers = s.piers := rfl
@[simp] theorem State.freeNat_mcs  : (s.freeNat.2).mcs = s.mcs := rfl
@[simp] theorem State.freeNat_ls  : (s.freeNat.2).ls = s.ls := rfl
@[simp] theorem State.freeNat_cs  : (s.freeNat.2).cs = s.cs := rfl
@[simp] theorem State.freeNat_mem  : (s.freeNat.2).mem = s.mem := rfl
@[simp] theorem State.freeNat_ckp  : (s.freeNat.2).ckp = s.ckp := rfl
@[simp] theorem State.freeNat_frz  : (s.freeNat.2).frz = s.frz := rfl
@[simp] theorem State.freeNat_jtag  : (s.freeNat.2).jtag = s.jtag := rfl
@[simp] theorem State.freeNat_sec  : (s.freeNat.2).sec = s.sec := rfl
@[simp] theorem State.freeNat_hosts  : (s.freeNat.2).hosts = s.hosts := rfl
@[simp] theorem State.freeNat_latches  : (s.freeNat.2).latches = s.latches := rfl
@[simp] theorem State.freeNat_smbPtr  : (s.freeNat.2).smbPtr = s.smbPtr := rfl
@[simp] theorem State.freeNat_setNow  : (s.freeNat.2).setNow = s.setNow := rfl
@[simp] theorem State.freeNat_clearedNow  : (s.freeNat.2).clearedNow = s.clearedNow := rfl

end Sys2Proof.Machine
end

