-- ==== Sys2Proof/Laws/Cycle.lean ====
section
/-!
SUPPORT. Laws of the cycle of AOCLK: what a write leaves of a write-one-to-clear bit (R15), and how the updates of a cycle
reach the registers that a read clears (R16).
-/
namespace Sys2Proof.Machine

/-! ## Bits written one to clear -/

theorem State.mem_stick (s : State) (l : List Sticky) (b : Sticky) :
    b ∈ (s.stick l).setNow ↔ b ∈ s.setNow ∨ b ∈ l := by simp [State.stick]

@[simp] theorem State.w1c_set (s : State) (b : Sticky) (wr old : Bool) (h : b ∈ s.setNow) : s.w1c b wr old = old := by
  simp [State.w1c, h]

@[simp] theorem State.w1c_keep (s : State) (b : Sticky) (old : Bool) : s.w1c b false old = old := by simp [State.w1c]

@[simp] theorem State.w1c_clear (s : State) (b : Sticky) (old : Bool) (h : b ∉ s.setNow) : s.w1c b true old = false := by
  simp [State.w1c, h]

theorem State.w1cStatus_bit (s : State) (b : Nat → Sticky) (v : W64) (old : BitVec 3) (i : Nat) (h : i < 3) :
    (s.w1cStatus b v old).getLsbD i = s.w1c (b i) (v.getLsbD i) (old.getLsbD i) := by
  unfold State.w1cStatus
  simp only [show List.range 3 = [0, 1, 2] from rfl, List.foldl_cons, List.foldl_nil]
  generalize hx : s.w1c (b 0) (v.getLsbD 0) (old.getLsbD 0) = x
  generalize hy : s.w1c (b 1) (v.getLsbD 1) (old.getLsbD 1) = y
  generalize hz : s.w1c (b 2) (v.getLsbD 2) (old.getLsbD 2) = z
  obtain rfl | rfl | rfl : i = 0 ∨ i = 1 ∨ i = 2 := by omega
  · rw [hx]; clear hx hy hz; revert x y z; decide
  · rw [hy]; clear hx hy hz; revert x y z; decide
  · rw [hz]; clear hx hy hz; revert x y z; decide

/-! ## The end of a cycle -/

@[simp] theorem State.endCycle_setNow (s : State) : s.endCycle.setNow = [] := rfl
@[simp] theorem State.endCycle_peakNow (s : State) : s.endCycle.pwr.peakNow = 0 := rfl
@[simp] theorem State.endCycle_wakeNow (s : State) : s.endCycle.pwr.wakeNow = 0 := rfl

theorem State.endCycle_peak (s : State) (q : Nat) (h : q < 3) :
    Tab.get 0 s.endCycle.pwr.peak q = max (Tab.get 0 s.pwr.peak q) s.pwr.peakNow := by
  obtain rfl | rfl | rfl : q = 0 ∨ q = 1 ∨ q = 2 := by omega
  all_goals simp [State.endCycle, show List.range 3 = [0, 1, 2] from rfl, Tab.get_put]

theorem State.endCycle_wakeMax (s : State) (q : Nat) (h : q < 3) :
    Tab.get 0 s.endCycle.pwr.wakeMax q = max (Tab.get 0 s.pwr.wakeMax q) s.pwr.wakeNow := by
  obtain rfl | rfl | rfl : q = 0 ∨ q = 1 ∨ q = 2 := by omega
  all_goals simp [State.endCycle, show List.range 3 = [0, 1, 2] from rfl, Tab.get_put]

end Sys2Proof.Machine
end

