-- ==== Sys2Proof/Laws/Issue.lean ====
section
/-!
SUPPORT. Laws of issue: what an instruction does once its engine stands at its word, and what its registers read
afterwards.
-/
namespace Sys2Proof.Machine

open Sys2Proof

theorem wordOf_toNat (opc : BitVec 8) (f : Fields) :
    (wordOf opc f).toNat = opc.toNat * 2 ^ 56 + f.d.toNat * 2 ^ 50 + f.a.toNat * 2 ^ 44 + f.b.toNat * 2 ^ 38 +
      f.c.toNat * 2 ^ 32 + f.imm.toNat := by
  have key : ∀ {m n : Nat} (x : BitVec m) (y : BitVec n), (x ++ y).toNat = x.toNat * 2 ^ n + y.toNat := by
    intro m n x y
    rw [BitVec.toNat_append, Nat.shiftLeft_eq, ← Nat.mul_comm (2 ^ n), Nat.two_pow_add_eq_or_of_lt y.isLt,
      Nat.mul_comm]
  unfold wordOf
  simp only [key]
  omega

theorem wordOf_opc (opc : BitVec 8) (f : Fields) : (wordOf opc f).toNat / 2 ^ 56 = opc.toNat := by
  rw [wordOf_toNat]
  have := f.d.isLt; have := f.a.isLt; have := f.b.isLt; have := f.c.isLt; have := f.imm.isLt
  omega

/-- An instruction at which its engine stands, and whose meaning gives a state, ends in that state; only the count of
free values may move on, when copies are outstanding. -/
theorem State.issue_ok {s : State} {e : Nat} {opc : BitVec 8} {f : Fields} {r : Run}
    (h : Issues s e opc f r) (hk : knownOpc opc.toNat = true) {body : Run → State → Except Err State} {t : State}
    (hb : body r (s.modEng e Engine.next) = .ok t) :
    s.issue e opc f body =
      if (s.eng e).copies.isEmpty then t else { t with freeCtr := t.freeCtr + lsSize } := by
  obtain ⟨_, hm, hr, h8, hu, hw⟩ := h
  have hw' : leNat (s.readLoc (.cs (e / 32) (s.eng e).pc) 8) / 2 ^ 56 = opc.toNat := by rw [hw, wordOf_opc]
  have hpc : ¬ ((s.eng e).pc % 8 ≠ 0 ∨ (s.eng e).pc + 8 > csUsable) := by omega
  unfold State.issue
  simp only [hm, hr, if_neg hpc, hw', hk, hb]
  simp [hw]

/-- An instruction whose meaning faults ends in the fault, and the engine chooses again. -/
theorem State.issue_error {s : State} {e : Nat} {opc : BitVec 8} {f : Fields} {r : Run}
    (h : Issues s e opc f r) (hk : knownOpc opc.toNat = true) {body : Run → State → Except Err State} {c : BitVec 8}
    {a : W64} (hb : body r (s.modEng e Engine.next) = .error (c, a)) :
    s.issue e opc f body = (s.itemFault e c opc (s.eng e).pc a).choose e := by
  obtain ⟨_, hm, hr, h8, hu, hw⟩ := h
  have hw' : leNat (s.readLoc (.cs (e / 32) (s.eng e).pc) 8) / 2 ^ 56 = opc.toNat := by rw [hw, wordOf_opc]
  have hpc : ¬ ((s.eng e).pc % 8 ≠ 0 ∨ (s.eng e).pc + 8 > csUsable) := by omega
  unfold State.issue
  simp only [hm, hr, if_neg hpc, hw', hk, hb]
  simp [hw]

end Sys2Proof.Machine

namespace Sys2Proof

open Machine

theorem Issues.isEngine {s : State} {e : Nat} {opc : BitVec 8} {f : Fields} {r : Run} (h : Issues s e opc f r) :
    isEngine e = true := by
  simpa [Sys2Proof.isEngine] using h.1

theorem Issues.run_e {s : State} {e : Nat} {opc : BitVec 8} {f : Fields} {r : Run} (h : Issues s e opc f r) :
    r.e = e := by
  obtain ⟨_, _, hr, _⟩ := h
  unfold State.run at hr
  split at hr
  · cases hr
  · split at hr
    · cases hr; rfl
    · cases hr

/-- The program counter after an instruction that does not branch. -/
theorem Issues.next_pc {s : State} {e : Nat} {opc : BitVec 8} {f : Fields} {r : Run} (h : Issues s e opc f r) :
    ((s.eng e).pc + 8) % 2 ^ 64 = (s.eng e).pc + 8 := by
  obtain ⟨_, _, _, _, hu, _⟩ := h
  unfold csUsable at hu
  omega

theorem Issues.next_eq {s : State} {e : Nat} {opc : BitVec 8} {f : Fields} {r : Run} (h : Issues s e opc f r) :
    (s.eng e).next = { s.eng e with pc := (s.eng e).pc + 8 } := by
  unfold Engine.next; rw [h.next_pc]

end Sys2Proof

namespace Sys2Proof.Machine

open Sys2Proof

/-! ## Registers -/

@[simp] theorem Engine.gr_zero (x : Engine) : x.gr 0 = 0 := by simp [Engine.gr]

/-- A general register reads as written; g0 reads as zero. -/
theorem Engine.gr_setG (x : Engine) (d r : BitVec 6) (v : W64) :
    (x.setG d v).gr r = if r = 0 then 0 else if r = d then v else x.gr r := by
  unfold Engine.gr Engine.setG
  by_cases hr : r = 0
  · rw [if_pos hr, if_pos hr]
  · rw [if_neg hr, if_neg hr, if_neg hr]
    by_cases hd : d = 0
    · have : r ≠ d := by rw [hd]; exact hr
      rw [if_pos hd, if_neg this]
    · rw [if_neg hd]
      by_cases h : r = d
      · subst h; rw [if_pos rfl, Tab.get_put_self]
      · have : r.toNat ≠ d.toNat := fun hh => h (BitVec.eq_of_toNat_eq hh)
        rw [if_neg h, Tab.get_put_ne _ _ _ this]

theorem Engine.setG_eq (x : Engine) (d : BitVec 6) (v : W64) : x.setG d v = { x with g := (x.setG d v).g } := by
  unfold Engine.setG; split <;> rfl

@[simp] theorem Engine.next_gr (x : Engine) (r : BitVec 6) : x.next.gr r = x.gr r := rfl
@[simp] theorem Engine.next_lane (x : Engine) (r l : Nat) : x.next.lane r l = x.lane r l := rfl
@[simp] theorem Engine.next_vr (x : Engine) (r : Nat) : x.next.vr r = x.vr r := rfl
@[simp] theorem Engine.next_y (x : Engine) (f : Fields) : x.next.y f = x.y f := rfl

theorem Engine.find?_laneCells (r : Nat) (vs : List W32) (x : Nat) :
    (Tab.find? (laneCells r vs) x).getD 0 = if 32 * r ≤ x then vs.getD (x - 32 * r) 0 else 0 := by
  have gen : ∀ (us : List W32) (o : Nat),
      (Tab.find? (((us.zipIdx o).map fun (p : W32 × Nat) => (32 * r + p.2, p.1)).filter fun e => e.2 ≠ 0) x).getD 0 =
        if 32 * r + o ≤ x then us.getD (x - (32 * r + o)) 0 else 0 := by
    intro us
    induction us with
    | nil => intro o; simp
    | cons u us ih =>
      intro o
      have h2 := ih (o + 1)
      simp only [List.zipIdx_cons, List.map_cons]
      by_cases hu : u = 0
      · subst hu
        rw [List.filter_cons_of_neg (by simp), h2]
        rcases Nat.lt_trichotomy x (32 * r + o) with h | h | h
        · rw [if_neg (by omega), if_neg (by omega)]
        · rw [if_neg (by omega), if_pos (by omega), h, Nat.sub_self]; rfl
        · obtain ⟨k, hk⟩ : ∃ k, x - (32 * r + o) = k + 1 := ⟨x - (32 * r + o) - 1, by omega⟩
          rw [if_pos (by omega), if_pos (by omega), hk, show x - (32 * r + (o + 1)) = k by omega]; rfl
      · rw [List.filter_cons_of_pos (by simpa using hu), Tab.find?]
        rcases Nat.lt_trichotomy x (32 * r + o) with h | h | h
        · rw [if_neg (by omega), h2, if_neg (by omega), if_neg (by omega)]
        · rw [if_pos (by omega), if_pos (by omega), h, Nat.sub_self]; rfl
        · obtain ⟨k, hk⟩ : ∃ k, x - (32 * r + o) = k + 1 := ⟨x - (32 * r + o) - 1, by omega⟩
          rw [if_neg (by omega), h2, if_pos (by omega), if_pos (by omega), hk,
            show x - (32 * r + (o + 1)) = k by omega]; rfl
  simpa [laneCells] using gen vs 0

/-- A vector register's lanes read as written, the others as before. -/
theorem Engine.lane_setV (x : Engine) (d : Nat) (vs : List W32) (hv : vs.length ≤ 32) (r l : Nat) (hl : l < 32) :
    (x.setV d vs).lane r l = if r = d then vs.getD l 0 else x.lane r l := by
  unfold Engine.lane Engine.setV Tab.get
  simp only
  rw [List.take_of_length_le hv, Tab.find?_append, Tab.find?_append, Tab.find?_below, Tab.find?_from]
  have hc := Engine.find?_laneCells d vs (32 * r + l)
  have out : ∀ y, (y < 32 * d ∨ 32 * d + 32 ≤ y) → Tab.find? (laneCells d vs) y = none := by
    intro y hy
    have gen : ∀ (us : List W32) (o : Nat), o + us.length ≤ 32 →
        Tab.find? (((us.zipIdx o).map fun (p : W32 × Nat) => (32 * d + p.2, p.1)).filter fun e => e.2 ≠ 0) y = none := by
      intro us
      induction us with
      | nil => intro o _; simp
      | cons u us ih =>
        intro o ho
        rw [List.length_cons] at ho
        have h2 := ih (o + 1) (by omega)
        simp only [List.zipIdx_cons, List.map_cons]
        by_cases hu : u = 0
        · rw [List.filter_cons_of_neg (by simpa using hu), h2]
        · rw [List.filter_cons_of_pos (by simpa using hu), Tab.find?, if_neg (by omega), h2]
    simpa [laneCells] using gen vs 0 (by omega)
  by_cases hr : r = d
  · subst hr
    rw [if_neg (by omega), if_neg (by omega), if_pos rfl]
    simpa using hc
  · rw [if_neg hr]
    by_cases h : r < d
    · rw [if_pos (by omega), if_neg (by omega), out _ (.inl (by omega))]; simp
    · rw [if_neg (by omega), if_pos (by omega), out _ (.inr (by omega))]; simp

theorem Engine.setV_eq (x : Engine) (d : Nat) (vs : List W32) : x.setV d vs = { x with v := (x.setV d vs).v } := rfl

/-! ## Instructions that change their engine only -/

theorem guarded_ok {b : Bool} (h : b = true) (t : State) : guarded b t = .next t := by simp [guarded, h]

theorem checkFields_ok {f : Fields} {d a b c : Use} {m : BitVec 32}
    (h : (d.ok f.d && a.ok f.a && b.ok f.b && c.ok f.c && (f.imm &&& ~~~m) == 0) = true) :
    checkFields f d a b c m = .ok () := by
  unfold checkFields require; rw [if_pos h]

/-- Writing an entry that a table already reads changes no reading. -/
theorem State.modEng_modEng (s : State) (e : Nat) (g h : Engine → Engine) (e' : Nat) :
    ((s.modEng e g).modEng e h).eng e' = if e' = e then h (g (s.eng e)) else s.eng e' := by
  rw [State.eng_modEng, State.eng_modEng, State.eng_modEng, if_pos rfl]
  split <;> simp_all

/-- An instruction whose meaning changes its engine by `g`, once the program counter has moved on. -/
theorem issue_onEngine {s : State} {e : Nat} {opc : BitVec 8} {f : Fields} {r : Run}
    (h : Issues s e opc f r) (hk : knownOpc opc.toNat = true) {body : Run → State → Except Err State}
    {g : Engine → Engine} (hb : body r (s.modEng e Engine.next) = .ok ((s.modEng e Engine.next).modEng e g)) :
    ∃ t, guarded (isEngine e) (s.issue e opc f body) = .next t ∧ OnlyEngine s t e ∧ t.eng e = g (s.eng e).next := by
  refine ⟨_, guarded_ok h.isEngine _, ?_⟩
  rw [State.issue_ok h hk hb]
  have h1 : ∀ e', e' ≠ e → ((s.modEng e Engine.next).modEng e g).eng e' = s.eng e' := fun e' he => by
    rw [State.modEng_modEng, if_neg he]
  have h2 : ((s.modEng e Engine.next).modEng e g).eng e = g (s.eng e).next := by
    rw [State.modEng_modEng, if_pos rfl]
  split
  · exact ⟨⟨rfl, h1⟩, h2⟩
  · exact ⟨⟨rfl, h1⟩, h2⟩

theorem writesG_of {s t : State} {e : Nat} {d : BitVec 6} {v : W64} {opc : BitVec 8} {f : Fields} {r : Run}
    (h : Issues s e opc f r) (h1 : OnlyEngine s t e) (h2 : t.eng e = (s.eng e).next.setG d v) :
    WritesG s t e d v ((s.eng e).pc + 8) := by
  refine ⟨h1, ?_, ?_⟩
  · rw [h2, Engine.setG_eq, h.next_eq]
  · intro r; rw [h2, Engine.gr_setG]; rfl

theorem onlyPc_of {s t : State} {e : Nat} {opc : BitVec 8} {f : Fields} {r : Run} (h : Issues s e opc f r)
    (h1 : OnlyEngine s t e) (h2 : t.eng e = (s.eng e).next) : OnlyPc s t e ((s.eng e).pc + 8) :=
  ⟨h1, by rw [h2, h.next_eq]⟩

end Sys2Proof.Machine
end

