-- ==== Sys2Proof/Laws/Router.lean ====
section
/-!
SUPPORT. Laws of the routers: what a trailer that passes a die, and one that fails there, do to the places that wait for it
(R288, R289).
-/
namespace Sys2Proof.Machine

/-! ## Lists -/

theorem changeFirst_spec {α : Type} (p : α → Bool) (f : α → α) (l : List α) : FirstChanged p f l (changeFirst p f l) := by
  induction l with
  | nil => exact .inl ⟨by simp, rfl⟩
  | cons a l ih =>
    by_cases h : p a
    · exact .inr ⟨[], a, l, by simp, by simp, h, by simp [changeFirst, h]⟩
    · obtain ⟨h1, h2⟩ | ⟨as, x, bs, h1, h2, h3, h4⟩ := ih
      · exact .inl ⟨by simpa [h] using h1, by simp [changeFirst, h, h2]⟩
      · exact .inr ⟨a :: as, x, bs, by simp [h1], by simpa [h] using h2, h3, by simp [changeFirst, h, h4]⟩

theorem eraseP_spec {α : Type} (p : α → Bool) (l : List α) : FirstTaken p l (l.eraseP p) := by
  induction l with
  | nil => exact .inl ⟨by simp, rfl⟩
  | cons a l ih =>
    by_cases h : p a
    · exact .inr ⟨[], a, l, by simp, by simp, h, by simp [h]⟩
    · obtain ⟨h1, h2⟩ | ⟨as, x, bs, h1, h2, h3, h4⟩ := ih
      · exact .inl ⟨by simpa [h] using h1, by simp [h, h2]⟩
      · exact .inr ⟨a :: as, x, bs, by simp [h1], by simpa [h] using h2, h3, by simp [h, h4]⟩

/-! ## Ports -/

theorem diePorts_nodup (d : Nat) : (diePorts d).Nodup := List.Nodup.filter _ List.nodup_range

theorem mem_diePorts (d j : Nat) : j ∈ diePorts d ↔ j < 10 ∧ ownerDie j = d := by simp [diePorts]

/-- A change of each port of a list, once. -/
theorem State.foldl_modPort (g : Port → Port) : ∀ (l : List Nat) (s : State), l.Nodup →
    l.foldl (fun s k => s.modPort k g) s = { s with ports := (l.foldl (fun s k => s.modPort k g) s).ports } ∧
    ∀ j, (l.foldl (fun s k => s.modPort k g) s).port j = if j ∈ l then g (s.port j) else s.port j
  | [], s, _ => ⟨rfl, by simp⟩
  | k :: l, s, h => by
    obtain ⟨hk, hl⟩ := List.nodup_cons.mp h
    obtain ⟨h1, h2⟩ := State.foldl_modPort g l (s.modPort k g) hl
    refine ⟨h1, fun j => ?_⟩
    rw [List.foldl_cons, h2]
    by_cases hj : j = k
    · subst hj; simp [hk, State.modPort]
    · simp [hj, State.modPort, State.port_setPort]

/-- What a trailer that passes leaves at a port. -/
def Port.passed (q : Packet) (x : Port) : Port :=
  if x.cut.any fun y => samePkt y.pkt q then { x with cut := x.cut.eraseP fun y => samePkt y.pkt q }
  else { x with queue := changeFirst (fun y => !y.whole && samePkt y.pkt q) (fun y => { y with whole := true }) x.queue }

/-- The routers of die `d` note the trailer of packet `q`, sound, before its ports do. -/
def State.passedRte (s : State) (d : Nat) (q : Packet) : State :=
  let bad := !msgOk q.opc.toNat q.tc.toNat
  let s := if bad && s.rte.arrived.any (awaitsHere d q) then s.modCtr d fun c => { c with badMsg := satAdd 64 c.badMsg 1 } else s
  State.tailsPass (s.modRte fun r => { r with
    arrived := if bad then r.arrived.eraseP (awaitsHere d q)
      else changeFirst (awaitsHere d q) (fun a => { a with whole := true }) r.arrived }) d q false

theorem State.wholePart_eq (s : State) (d : Nat) (q : Packet) :
    s.wholePart d q = (diePorts d).foldl (fun s k => s.modPort k (Port.passed q)) (s.passedRte d q) := rfl

theorem State.passedRte_eq (s : State) (d : Nat) (q : Packet) :
    s.passedRte d q = { s with rte := (s.passedRte d q).rte } := by
  unfold State.passedRte
  simp only
  split <;> rfl

theorem State.passedRte_arrived (s : State) (d : Nat) (q : Packet) : (s.passedRte d q).rte.arrived =
    if msgOk q.opc.toNat q.tc.toNat then changeFirst (awaitsHere d q) (fun a => { a with whole := true }) s.rte.arrived
    else s.rte.arrived.eraseP (awaitsHere d q) := by
  unfold State.passedRte
  by_cases h : msgOk q.opc.toNat q.tc.toNat = true <;> by_cases k : s.rte.arrived.any (awaitsHere d q) = true <;>
    simp [h, k, State.tailsPass, State.modRte, State.modCtr]

theorem State.passedRte_tails (s : State) (d : Nat) (q : Packet) : (s.passedRte d q).rte.tails =
    changeFirst (awaitsPass d q) (fun y => { y with passed := true, bad := false }) s.rte.tails := by
  unfold State.passedRte
  simp only
  split <;> rfl

/-- All that a trailer that passes does at its die. -/
theorem State.wholePart_passed (s : State) (d : Nat) (q : Packet) : TrailerPassed s (s.wholePart d q) d q := by
  obtain ⟨h1, h2⟩ := State.foldl_modPort (Port.passed q) (diePorts d) (s.passedRte d q) (diePorts_nodup d)
  rw [← State.wholePart_eq] at h1 h2
  have h3 := State.passedRte_eq s d q
  have hr : (s.wholePart d q).rte = (s.passedRte d q).rte := by rw [h1]
  have hp : ∀ j, (s.passedRte d q).port j = s.port j := fun j => by rw [h3]; rfl
  refine ⟨by rw [h1, h3], ?_, ?_, ?_, ?_, ?_⟩
  · rw [hr]
    unfold State.passedRte
    simp only
    split <;> rfl
  · intro ok
    rw [hr]
    refine ⟨?_, ?_⟩
    · rw [State.passedRte_arrived, if_pos ok]; exact changeFirst_spec _ _ _
    · simp [State.passedRte, ok, State.tailsPass, State.modRte]
  · intro ok
    rw [hr]
    refine ⟨?_, ?_⟩
    · rw [State.passedRte_arrived, if_neg (by simp [ok])]; exact eraseP_spec _ _
    · simp only [State.passedRte, ok, State.tailsPass, State.modRte, State.modCtr]
      by_cases h : s.rte.arrived.any (awaitsHere d q) <;> simp [h, satAdd]
  · rw [hr]
    rw [State.passedRte_tails]; exact changeFirst_spec _ _ _
  · intro j
    rw [h2, hp]
    by_cases hj : j ∈ diePorts d
    · refine ⟨fun _ => ?_, fun h => absurd ((mem_diePorts d j).mp hj) h⟩
      simp only [hj, if_true, Port.passed]
      by_cases hc : (s.port j).cut.any (fun y => samePkt y.pkt q) = true
      · rw [if_pos hc]
        exact ⟨rfl, fun _ => ⟨rfl, eraseP_spec _ _⟩, fun h => absurd (hc.symm.trans h) (by simp)⟩
      · rw [if_neg hc]
        exact ⟨rfl, fun h => absurd h hc, fun _ => ⟨rfl, changeFirst_spec _ _ _⟩⟩
    · exact ⟨fun h => absurd ((mem_diePorts d j).mpr h) hj, fun _ => by simp [hj]⟩

/-- What a trailer that fails leaves at port `j`, and the trailer with DISCARD set that goes out there. -/
def PortFailed (q : Packet) (x y : Port) : Prop :=
  (x.cut.find? (fun y => samePkt y.pkt q) = none → y = { x with queue := x.queue.eraseP (awaitsAt q) }) ∧
  ∀ z, x.cut.find? (fun y => samePkt y.pkt q) = some z →
    y = { x with cut := x.cut.erase z, txSent := y.txSent, txFlits := y.txFlits }
def Port.discards (q : Packet) (j : Nat) (x : Port) : Option Out :=
  (x.cut.find? fun y => samePkt y.pkt q).map fun y => .trailer j { y.pkt with discard := true }

theorem State.dropQueued_spec (s : State) (q : Packet) (k : Nat) :
    s.dropQueued q k = { s with ports := (s.dropQueued q k).ports, out := (s.dropQueued q k).out,
                                freeCtr := (s.dropQueued q k).freeCtr } ∧
    (s.dropQueued q k).out = s.out ++ ((s.port k).discards q k).toList ∧
    PortFailed q (s.port k) ((s.dropQueued q k).port k) ∧
    ∀ j, j ≠ k → (s.dropQueued q k).port j = s.port j := by
  unfold State.dropQueued Port.discards PortFailed
  cases h : (s.port k).cut.find? (fun y => samePkt y.pkt q) with
  | none =>
    refine ⟨rfl, by simp [State.modPort, State.setPort], ⟨fun _ => ?_, by simp⟩, fun j hj => ?_⟩
    · simp [State.modPort]; rfl
    · simp [State.modPort, State.port_setPort, hj]
  | some y =>
    refine ⟨rfl, by simp [State.modPort, State.setPort, State.abandon, State.unsend, State.emit, State.freeNat],
      ⟨by simp, fun z hz => ?_⟩, fun j hj => ?_⟩
    · obtain rfl := Option.some.inj hz
      simp [State.modPort, State.abandon, State.unsend, State.emit, State.freeNat, State.port, State.setPort]
    · simp [State.modPort, State.abandon, State.unsend, State.emit, State.freeNat, State.port, State.setPort,
        Tab.get_put, hj]

/-- A trailer that fails, at each port of a list once. -/
theorem State.foldl_dropQueued (q : Packet) : ∀ (l : List Nat) (s : State), l.Nodup →
    let t := l.foldl (State.dropQueued · q) s
    t = { s with ports := t.ports, out := t.out, freeCtr := t.freeCtr } ∧
    t.out = s.out ++ l.filterMap (fun j => (s.port j).discards q j) ∧
    ∀ j, (j ∈ l → PortFailed q (s.port j) (t.port j)) ∧ (j ∉ l → t.port j = s.port j)
  | [], s, _ => ⟨rfl, by simp, by simp⟩
  | k :: l, s, h => by
    obtain ⟨hk, hl⟩ := List.nodup_cons.mp h
    obtain ⟨a1, a2, a3, a4⟩ := s.dropQueued_spec q k
    obtain ⟨b1, b2, b3⟩ := State.foldl_dropQueued q l (s.dropQueued q k) hl
    refine ⟨?_, ?_, fun j => ⟨fun hj => ?_, fun hj => ?_⟩⟩
    · rw [List.foldl_cons, b1, a1]
    · rw [List.foldl_cons, b2, a2, List.filterMap_cons]
      have : l.filterMap (fun j => ((s.dropQueued q k).port j).discards q j) = l.filterMap (fun j => (s.port j).discards q j) :=
        List.filterMap_congr fun j hj => by rw [a4 j (fun e => hk (e ▸ hj))]
      rw [this]
      cases (s.port k).discards q k <;> simp
    · rw [List.foldl_cons]
      by_cases e : j = k
      · subst e; rw [(b3 j).2 hk]; exact a3
      · rw [← a4 j e]; exact (b3 j).1 (by simpa [e] using hj)
    · rw [List.foldl_cons, (b3 j).2 (fun c => hj (List.mem_cons_of_mem _ c)), a4 j (fun e => hj (e ▸ List.mem_cons_self))]

/-- All that a trailer that fails, or does not come, does at its die. -/
theorem State.dropPart_failed (s : State) (d : Nat) (q : Packet) : TrailerFailed s (s.dropPart d q) d q := by
  obtain ⟨h1, h2, h3⟩ := State.foldl_dropQueued q (diePorts d) ((s.modRte fun r => { r with
    arrived := r.arrived.eraseP fun a => a.die == d && !a.whole && samePkt a.pkt q }).tailsPass d q true) (diePorts_nodup d)
  have hr : (s.dropPart d q).rte = { s.rte with
      arrived := s.rte.arrived.eraseP (awaitsHere d q)
      tails := changeFirst (awaitsPass d q) (fun y => { y with passed := true, bad := true }) s.rte.tails } := by
    unfold State.dropPart
    rw [h1]; rfl
  refine ⟨by unfold State.dropPart; rw [h1]; rfl, by rw [hr], by rw [hr]; exact eraseP_spec _ _,
    by rw [hr]; exact changeFirst_spec _ _ _, ?_, fun j => ⟨fun hj => ?_, fun hj => ?_⟩⟩
  · exact h2
  · obtain ⟨a, b⟩ := (h3 j).1 ((mem_diePorts d j).mpr hj)
    refine ⟨fun hn => ?_, b⟩
    have e := a hn
    refine ⟨?_, ?_⟩
    · exact e.trans (by rw [show (s.dropPart d q).port j = _ from e]; rfl)
    · rw [show (s.dropPart d q).port j = _ from e]; exact eraseP_spec _ _
  · exact (h3 j).2 fun c => hj ((mem_diePorts d j).mp c)

end Sys2Proof.Machine
end

