-- ==== Sys2Proof/Laws/Store.lean ====
section
/-!
SUPPORT. Laws of storing at a place: what a store can change, and that the three stores keep their canonical form.
-/
namespace Sys2Proof.Machine

theorem State.writePage_eq (s : State) (a : Nat) (bs : List Byte) :
    s.writePage a bs = { s with mem := (s.writePage a bs).mem } := by
  unfold State.writePage
  split <;> rfl

theorem State.wf_writePage {s : State} (h : Memory.wf s.mem = true) (a : Nat) (bs : List Byte) :
    Memory.wf (s.writePage a bs).mem = true := by
  unfold State.writePage
  split
  · exact h
  · exact Mem.wf_write h _ _

theorem State.writeParts_eq (l : List (Nat × Nat)) (s : State) (bs : List Byte) :
    s.writeParts l bs = { s with mem := (s.writeParts l bs).mem } := by
  induction l generalizing s bs with
  | nil => rfl
  | cons x t ih => simp only [State.writeParts]; rw [ih, State.writePage_eq]

theorem State.wf_writeParts (l : List (Nat × Nat)) {s : State} (h : Memory.wf s.mem = true) (bs : List Byte) :
    Memory.wf (s.writeParts l bs).mem = true := by
  induction l generalizing s bs with
  | nil => exact h
  | cons x t ih => exact ih (s.wf_writePage h _ _) _

/-- A store in pier space changes nothing but the piers. -/
theorem State.writePier_eq (s : State) (a : Nat) (bs : List Byte) :
    s.writePier a bs = { s with mem := (s.writePier a bs).mem } := State.writeParts_eq _ s bs

theorem State.wf_writePier {s : State} (h : Memory.wf s.mem = true) (a : Nat) (bs : List Byte) :
    Memory.wf (s.writePier a bs).mem = true := State.wf_writeParts _ h bs

@[simp] theorem State.writePier_ls (s : State) (a : Nat) (bs : List Byte) : (s.writePier a bs).ls = s.ls := by
  rw [State.writePier_eq]
@[simp] theorem State.writePier_cs (s : State) (a : Nat) (bs : List Byte) : (s.writePier a bs).cs = s.cs := by
  rw [State.writePier_eq]

/-- A store at a place changes nothing but the three stores. -/
theorem State.writeLoc_eq (s : State) (l : Loc) (bs : List Byte) :
    s.writeLoc l bs =
      { s with ls := (s.writeLoc l bs).ls, cs := (s.writeLoc l bs).cs, mem := (s.writeLoc l bs).mem } := by
  cases l with
  | ls e off => rfl
  | cs c off => rfl
  | pier a => simp only [State.writeLoc]; rw [State.writePier_eq]

/-- A store at a place keeps the canonical form of the three stores. -/
theorem State.wf_writeLoc {s : State} (hl : Memory.wf s.ls = true) (hc : Memory.wf s.cs = true)
    (hm : Memory.wf s.mem = true) (l : Loc) (bs : List Byte) :
    Memory.wf (s.writeLoc l bs).ls = true ∧ Memory.wf (s.writeLoc l bs).cs = true ∧
      Memory.wf (s.writeLoc l bs).mem = true := by
  cases l with
  | ls e off => exact ⟨Mem.wf_write hl _ _, hc, hm⟩
  | cs c off => exact ⟨hl, Mem.wf_write hc _ _, hm⟩
  | pier a =>
    simp only [State.writeLoc, State.writePier_ls, State.writePier_cs]
    exact ⟨hl, hc, State.wf_writePier hm a bs⟩

end Sys2Proof.Machine
end

