-- ==== Sys2Proof/Tests/Slice0.lean ====
section
/-!
SUPPORT. Tests of this row: ill-formed commands are refused, and for every statement of the certificates a small state
and operands that meet its hypotheses, clause by clause, with effects worked out by hand from the rules of spec/.
-/
namespace Sys2Proof.Tests

open Sys2Proof Sys2Proof.Machine

set_option Elab.async false

/-! ## Helpers -/

/-- The next state, or the state after reset where there is none. -/
def nxt (o : Host.Outcome State Fault Refusal) : State :=
  match o with
  | .next t => t
  | _ => State.reset

/-- A next state was answered. -/
def ok (o : Host.Outcome State Fault Refusal) : Bool :=
  match o with
  | .next _ => true
  | _ => false

/-- The command runs and its next state passes. -/
def runs (c : Instr) (s : State) (p : State → Bool) : Bool := ok (exec c s) && p (nxt (exec c s))

/-- The state after a command. -/
def after (c : Instr) (s : State) : State := nxt (exec c s)

/-- An item of context 0, homed on course 0, that may use the network and the whole of a region. -/
def desc0 : ItemDesc :=
  { entry := 0, pinned := false, net := true, reexec := false, lsDep := false, prio := 3, affinity := 0, seq := 7,
    doneValid := false, doneEngine := 0, doneFlag := 0, arg := 0, in0Base := 0x8000000000000000, in1Base := 0,
    outBase := 0x8000000000000000, in0Len := 0x10000, in1Len := 0, outLen := 0x10000, ctx := 0, rslot := 0xFF,
    eval := false }

def slot0 : HodSlot := { desc := desc0, status := .running 0, stamp := 0, listed := 0, limit := 50000, saved := none }

def part0 : PartCfg :=
  { hostPort := 0, offloadWin := 1, courseMask := 0xF, ctxFirst := 0, ctxCount := 8, slotFirst := 0, slotCount := 8 }

def region0 : Region :=
  { id := 0, kind := 0, target := 0, owner := 0, narrow := true, buddy := false, cast := false, base := 0,
    size := 0x1000000, first := [] }

def dom0 : Dom := { Dom.reset with level := 0, mhz := 1000 }

/-- The module READY with partition 0 of courses 0 to 3 and host port 0, a pier region, and every domain at Q0. -/
def up : State :=
  { State.reset with
    gen := { Gen.reset with capPiers := 0xFFFFFFFF, capPorts := 0x3FF, capCourses := 0xFFFFFFFFFFFFFFFF, capLic := 0x3F }
    pwr := { Pwr.reset with inputOn := true, seq := .on, en := true }
    bu := { Bu.reset with stage := 9, st := .ready }
    doms := (List.range 100).map fun d => (d, dom0)
    cfg := { Cfg.reset with
      applied := true, parts := [(0, part0)], courseEn := 0xF
      engMask := [(0, 0xFFFFFFFF), (1, 0xFFFFFFFF), (2, 0xFFFFFFFF), (3, 0xFFFFFFFF)]
      regions := [region0]
      slice := { Slice.reset with nodeId := 5, sliceId := 9 } }
    hosts := [(0, { HostPort.reset with perst := false, linkUp := true, bme := true })] }

/-- Engine 0 runs the item of hod slot (0, 0) with these general registers. -/
def run0 (g : Tab W64) : State :=
  { up with
    engines := [(0, { Engine.reset with act := .run, g := g, item := some (0, 0), slot := 0 })]
    courses := [(0, { Course.reset with enabled := true, licensed := true, passed := true, hod := [(0, slot0)] })] }

/-- The same with an instruction word at the program counter. -/
def word (opc : BitVec 8) (f : Fields) (g : Tab W64) : State :=
  { run0 g with cs := Mem.write [] 0 (leBytes 8 (wordOf opc f).toNat) }

/-- What engine 0 of `run0` runs. -/
def r0 : Run := { e := 0, c := 0, k := 0, d := desc0, part := 0 }

def f0 : Fields := { d := 0, a := 0, b := 0, c := 0, imm := 0 }

/-- Register d, a, b = 1, 2, 3. -/
def fdab : Fields := { f0 with d := 1, a := 2, b := 3 }

/-- `bs` put in the local store of engine 0 at `off`. -/
def inLs (s : State) (off : Nat) (bs : List Byte) : State := { s with ls := Mem.write s.ls (lsKey 0 off) bs }

/-- Vector register `r` of engine 0 with every lane `v`. -/
def withV (s : State) (r : Nat) (v : W32) : State := s.modEng 0 fun x => x.setV r (List.replicate 32 v)

/-- An outstanding copy of nothing. -/
def op0 : CopyOp :=
  { flag := 0, flagEngine := 0, segs := [], plinth := none, srcSnap := [], dstSnap := [], outs := [], live := true,
    reset := false, homeCourse := 0, slot := 0, opc := 0x20, pc := 0, ord := 0 }

/-! ## Well-formedness: one ill-formed command for each check -/

theorem test_wf : (Instr.nop 2047 f0).wf = true ∧ (Instr.nop 2048 f0).wf = false ∧
    (Instr.pierUncorrectableRead .scrub 32 0).wf = false ∧ (Instr.pierUncorrectableRead (.engineCopy 2048 0 0) 0 0).wf = false ∧
    (Instr.courseStoreUncorrectableRead (.net 2048 0 0 0)).wf = false ∧
    (Instr.courseStoreUncorrectableRead (.copy 0 0 0 64 0)).wf = false ∧ (Instr.reduceSlotDone 64 0).wf = false ∧
    (Instr.reduceSlotDone 0 32).wf = false ∧ (Instr.layerMark 0 12).wf = false ∧
    (Instr.patrolScrub 0 0 (.corrected 12)).wf = false ∧ (Instr.scrubWake 16).wf = false ∧
    (Instr.idleDescent 100).wf = false ∧ (Instr.deepGrant 4).wf = false ∧ (Instr.ctxEnable 2 0 0).wf = false ∧
    (Instr.ctxEnable 0 1024 0).wf = false ∧ (Instr.item 8).wf = false ∧ (Instr.slotOpen 128).wf = false ∧
    (Instr.keyReset 0 16 0).wf = false ∧ (Instr.oflWindowFire 0 8).wf = false ∧ (Instr.creditSend 10).wf = false ∧
    (Instr.lightLoss 3).wf = false ∧ (Instr.take 0 true 4).wf = false ∧ (Instr.take 0 false 12).wf = false := by
  decide

/-- A command that names a unit the module has not stops. -/
theorem test_noSuchUnit : exec (.deepGrant 4) up = .fault .noSuchUnit := by rfl

theorem test_encoding_example :
    wordOf 0x30 { d := 2, a := 5, b := 6, c := 0, imm := 0x00102053 } = 0x3008518000102053 := by decide

/-! ## The queue -/

theorem test_queue :
    nxt (step { up with pending := [.bypass, .freeze] }) = after .bypass { up with pending := [.freeze] } := by
  decide +kernel

/-! ## Scalar and branch -/

def g23 : Tab W64 := [(2, 0xFFFFFFFFFFFFFFFF), (3, 1)]

theorem test_scalarArithmetic : ∀ row ∈ scalarRows, Issues (word row.2.1 fdab g23) 0 row.2.1 fdab r0 ∧ fdab.c = 0 := by
  unfold Issues; decide +kernel

/-- What register 1 of engine 0 holds after an instruction whose word stands at its program counter. -/
def g1 (c : Nat → Fields → Instr) (opc : BitVec 8) (f : Fields) (g : Tab W64) : W64 :=
  ((after (c 0 f) (word opc f g)).eng 0).gr 1

theorem test_add : g1 .add 1 fdab g23 = 0 ∧ ((after (.add 0 fdab) (word 1 fdab g23)).eng 0).pc = 8 := by decide +kernel
theorem test_add_imm : g1 .add 1 { fdab with imm := 0xFFFFFFFE } [(2, 5), (3, 1)] = 4 := by decide +kernel
theorem test_sub : g1 .sub 2 fdab [(2, 3), (3, 5)] = 0xFFFFFFFFFFFFFFFE := by decide +kernel
theorem test_mul : g1 .mul 3 fdab [(2, 0x8000000000000001), (3, 2)] = 2 := by decide +kernel
theorem test_and : g1 .and 4 fdab [(2, 12), (3, 10)] = 8 := by decide +kernel
theorem test_or : g1 .or 5 fdab [(2, 12), (3, 10)] = 14 := by decide +kernel
theorem test_xor : g1 .xor 6 fdab [(2, 12), (3, 10)] = 6 := by decide +kernel
theorem test_shl : g1 .shl 7 fdab [(2, 3), (3, 65)] = 6 := by decide +kernel
theorem test_shr : g1 .shr 8 fdab [(2, 0x8000000000000000), (3, 63)] = 1 := by decide +kernel
theorem test_sar : g1 .sar 9 fdab [(2, 0x8000000000000000), (3, 63)] = 0xFFFFFFFFFFFFFFFF := by decide +kernel

/-- g0 stays zero. -/
theorem test_g0 : ((after (.add 0 { fdab with d := 0 }) (word 1 { fdab with d := 0 } g23)).eng 0).gr 0 = 0 := by
  decide +kernel

def fi (v : BitVec 32) : Fields := { f0 with d := 1, imm := v }

theorem test_nop : Issues (word 0 f0 []) 0 0 f0 r0 ∧ ((after (.nop 0 f0) (word 0 f0 [])).eng 0).pc = 8 := by
  unfold Issues; decide +kernel
theorem test_li : Issues (word 0x0A (fi 0x80000000) []) 0 0x0A (fi 0x80000000) r0 ∧
    g1 .li 0x0A (fi 0x80000000) [] = 0xFFFFFFFF80000000 := by unfold Issues; decide +kernel
theorem test_lih : Issues (word 0x0B { fi 5 with a := 2 } []) 0 0x0B { fi 5 with a := 2 } r0 ∧
    g1 .lih 0x0B { fi 5 with a := 2 } [(2, 0x123456789)] = 0x523456789 := by unfold Issues; decide +kernel
theorem test_cmp : Issues (word 0x0C { fdab with imm := 5 } g23) 0 0x0C { fdab with imm := 5 } r0 ∧
    (List.range 6).map (fun i => g1 .cmp 0x0C { fdab with imm := BitVec.ofNat 32 i } g23) = [0, 1, 0, 1, 1, 0] := by
  unfold Issues; decide +kernel

def fbr (v : BitVec 32) : Fields := { f0 with a := 2, imm := v }

theorem test_brz : Issues (word 0x0D (fbr 3) []) 0 0x0D (fbr 3) r0 ∧
    ((after (.brz 0 (fbr 3)) (word 0x0D (fbr 3) [])).eng 0).pc = 24 ∧
    ((after (.brz 0 (fbr 3)) (word 0x0D (fbr 3) g23)).eng 0).pc = 8 := by unfold Issues; decide +kernel
theorem test_brnz : Issues (word 0x0E (fbr 3) g23) 0 0x0E (fbr 3) r0 ∧
    ((after (.brnz 0 (fbr 3)) (word 0x0E (fbr 3) g23)).eng 0).pc = 24 ∧
    ((after (.brnz 0 (fbr 3)) (word 0x0E (fbr 3) [])).eng 0).pc = 8 := by unfold Issues; decide +kernel
theorem test_jal : Issues (word 0x0F { fbr 2 with d := 1 } [(2, 0x100)]) 0 0x0F { fbr 2 with d := 1 } r0 ∧
    ((after (.jal 0 { fbr 2 with d := 1 }) (word 0x0F { fbr 2 with d := 1 } [(2, 0x100)])).eng 0).pc = 0x110 ∧
    g1 .jal 0x0F { fbr 2 with d := 1 } [(2, 0x100)] = 8 := by unfold Issues; decide +kernel

/-! ## Local store -/

def gA (v : W64) : Tab W64 := [(2, v), (3, 0x1122334455667788)]
def fld : Fields := { f0 with d := 1, a := 2 }
def fst_ : Fields := { f0 with a := 2, b := 3 }

/-- The last 8-byte place of local store, and the last 4-byte place. -/
theorem test_ldg : Issues (word 0x10 fld (gA 0x5FFF8)) 0 0x10 fld r0 ∧
    (((word 0x10 fld (gA 0x5FFF8)).eng 0).addr fld).toNat = 0x5FFF8 ∧
    ((after (.ldg 0 fld) (inLs (word 0x10 fld (gA 0x5FFF8)) 0x5FFF8 [1, 2, 3, 4, 5, 6, 7, 8])).eng 0).gr 1 =
      0x0807060504030201 := by unfold Issues; decide +kernel
theorem test_ld4 : Issues (word 0x12 fld (gA 0x5FFFC)) 0 0x12 fld r0 ∧
    ((after (.ld4 0 fld) (inLs (word 0x12 fld (gA 0x5FFFC)) 0x5FFFC [1, 2, 3, 0x84])).eng 0).gr 1 = 0x84030201 := by
  unfold Issues; decide +kernel
/-- A byte that an outstanding copy will write. -/
theorem test_lsRead_copy :
    let o := { op0 with outs := [(.ls 0 0x100, [9])] }
    let s := (run0 []).modEng 0 fun x => { x with copies := [o] }
    (s.lsRead 0 0xFF 3)[0]? = some 0 ∧ (s.readLoc (.ls 0 0xFF) 3)[0]? = some 0 ∧ (s.lsRead 0 0xFF 3).length = 3 := by
  decide +kernel
theorem test_stg : Issues (word 0x11 fst_ (gA 0x10)) 0 0x11 fst_ r0 ∧
    (after (.stg 0 fst_) (word 0x11 fst_ (gA 0x10))).readLoc (.ls 0 0x0F) 10 =
      [0, 0x88, 0x77, 0x66, 0x55, 0x44, 0x33, 0x22, 0x11, 0] := by unfold Issues; decide +kernel
theorem test_st4 : Issues (word 0x13 fst_ (gA 0x5FFFC)) 0 0x13 fst_ r0 ∧
    (after (.st4 0 fst_) (word 0x13 fst_ (gA 0x5FFFC))).readLoc (.ls 0 0x5FFFB) 5 = [0, 0x88, 0x77, 0x66, 0x55] := by
  unfold Issues; decide +kernel
theorem test_vst : Issues (word 0x15 fst_ (gA 0x5FF80)) 0 0x15 fst_ r0 ∧
    (after (.vst 0 fst_) (withV (word 0x15 fst_ (gA 0x5FF80)) 3 0x3F800000)).readLoc (.ls 0 0x5FFFC) 4 =
      [0, 0, 0x80, 0x3F] := by unfold Issues; decide +kernel
def fvs : Fields := { f0 with a := 2, b := 3, c := 4 }
/-- Two lanes at one address: with a stride of 0 the last lane stays. -/
theorem test_vsts : Issues (word 0x17 fvs (gA 0x20)) 0 0x17 fvs r0 ∧
    (∀ i < 32, (((word 0x17 fvs (gA 0x20)).eng 0).addr fvs +
      BitVec.ofNat 64 i * ((word 0x17 fvs (gA 0x20)).eng 0).gr fvs.c).toNat % 4 = 0) ∧
    (after (.vsts 0 fvs) ((word 0x17 fvs (gA 0x20)).modEng 0 fun x =>
      x.setV 3 ((List.range 32).map (BitVec.ofNat 32)))).readLoc (.ls 0 0x20) 8 = [31, 0, 0, 0, 0, 0, 0, 0] := by
  unfold Issues; decide +kernel
theorem test_vld : Issues (word 0x14 fld (gA 0x5FF80)) 0 0x14 fld r0 ∧
    ((after (.vld 0 fld) (inLs (word 0x14 fld (gA 0x5FF80)) 0x5FFFC [1, 2, 3, 4])).eng 0).lane 1 31 = 0x04030201 := by
  unfold Issues; decide +kernel
def fvl : Fields := { fld with c := 3 }
theorem test_vlds : Issues (word 0x16 fvl [(2, 0x40), (3, 8)]) 0 0x16 fvl r0 ∧
    ((after (.vlds 0 fvl) (inLs (word 0x16 fvl [(2, 0x40), (3, 8)]) 0x48 [7])).eng 0).lane 1 1 = 7 ∧
    ((after (.vlds 0 fvl) (inLs (word 0x16 fvl [(2, 0x40), (3, 8)]) 0x48 [7])).eng 0).lane 1 2 = 0 := by
  unfold Issues; decide +kernel

/-! ## VLDD -/

def fdd (imm : BitVec 32) : Fields := { d := 1, a := 2, b := 3, c := 4, imm := imm }
def gdd : Tab W64 := [(2, 0x5FFE0), (3, 0x100), (4, 0x40000000)]

/-- Square blocks: elements 1.0 in FP8a, block scale 1.0, coarse scale 2.0, the row at the end of local store. -/
theorem test_vldd_square :
    let s := inLs (inLs (word 0x18 (fdd 0x13) gdd) 0x5FFE0 (List.replicate 32 0x38)) 0x100 (List.replicate 8 0x38)
    Issues s 0 0x18 (fdd 0x13) r0 ∧ (fdd 0x13).imm &&& 0xFFFFFFC0 = 0 ∧ (s.fmtCheck 3 1).isOk = true ∧
    ((s.eng 0).coarse 4).toOption = some 1 ∧ (∀ b ∈ s.lsRead 0 0x100 8, b.toNat < 0x80) ∧
    ((after (.vldd 0 (fdd 0x13)) s).eng 0).lane 1 31 = 0x40000000 := by unfold Issues; decide +kernel
/-- A row block with an E8M0 scale of 2^1, and no fine scale at all. -/
theorem test_vldd_row :
    let s := inLs (inLs (word 0x18 (fdd 0x23) gdd) 0x5FFE0 [0x38]) 0x100 [0x80]
    Issues s 0 0x18 (fdd 0x23) r0 ∧ (s.fmtCheck 3 2).isOk = true ∧
    ((after (.vldd 0 (fdd 0x23)) s).eng 0).lane 1 0 = 0x40800000 := by unfold Issues; decide +kernel
theorem test_vldd_plain :
    let s := inLs (word 0x18 (fdd 3) gdd) 0x5FFE0 [0x38]
    Issues s 0 0x18 (fdd 3) r0 ∧ ((after (.vldd 0 (fdd 3)) s).eng 0).lane 1 0 = 0x40000000 := by
  unfold Issues; decide +kernel

/-! ## Vectors -/

theorem test_vectorRows2 : ∀ row ∈ vectorRows2, Issues (word row.2.1 fdab []) 0 row.2.1 fdab r0 ∧ fdab.d < 32 := by
  unfold Issues; decide +kernel
theorem test_vectorRows1 : ∀ row ∈ vectorRows1, Issues (word row.2.1 fld []) 0 row.2.1 fld r0 ∧ fld.d < 32 := by
  unfold Issues; decide +kernel

/-- Lane 31 of v1 after an instruction on v2 and v3. -/
def v1 (c : Nat → Fields → Instr) (opc : BitVec 8) (f : Fields) (a b : W32) : W32 :=
  ((after (c 0 f) (withV (withV (word opc f []) 2 a) 3 b)).eng 0).lane 1 31

/-- 1.0 + 2^−24 rounds to even; −0 + +0 is +0. -/
theorem test_vadd : v1 .vadd 0x40 fdab 0x3F800000 0x33800000 = 0x3F800000 ∧
    v1 .vadd 0x40 fdab 0x80000000 0 = 0 := by decide +kernel
theorem test_vsub : v1 .vsub 0x41 fdab 0x3F800000 0x3F800000 = 0 ∧
    v1 .vsub 0x41 fdab 0x7F800000 0x7F800000 = 0x7FC00000 := by decide +kernel
/-- The largest number squared overflows to infinity; a subnormal result is kept. -/
theorem test_vmul : v1 .vmul 0x42 fdab 0x7F7FFFFF 0x7F7FFFFF = 0x7F800000 ∧
    v1 .vmul 0x42 fdab 0x00800000 0x3F000000 = 0x00400000 := by decide +kernel
theorem test_vmax : v1 .vmax 0x44 fdab 0x80000000 0 = 0 ∧ v1 .vmax 0x44 fdab 0xFF800000 0xC0000000 = 0xC0000000 := by
  decide +kernel
theorem test_vmin : v1 .vmin 0x45 fdab 0x80000000 0 = 0x80000000 ∧ v1 .vmin 0x45 fdab 0x7FC00001 0 = 0x7FC00000 := by
  decide +kernel
theorem test_vexp2 : v1 .vexp2 0x48 fld 0x40400000 0 = 0x41000000 ∧ v1 .vexp2 0x48 fld 0xFF800000 0 = 0 := by
  decide +kernel
theorem test_vlog2 : v1 .vlog2 0x49 fld 0x41000000 0 = 0x40400000 ∧ v1 .vlog2 0x49 fld 0xBF800000 0 = 0x7FC00000 := by
  decide +kernel
theorem test_vrcp : v1 .vrcp 0x4A fld 0x40000000 0 = 0x3F000000 ∧ v1 .vrcp 0x4A fld 0x80000000 0 = 0xFF800000 := by
  decide +kernel
theorem test_vrsqrt : v1 .vrsqrt 0x4B fld 0x40800000 0 = 0x3F000000 ∧
    v1 .vrsqrt 0x4B fld 0xBF800000 0 = 0x7FC00000 := by decide +kernel
theorem test_nan_premise : isNan32 0x7F800001 = true ∧ isNan32 0xFFC00000 = true := by decide

def fma4 : Fields := { fdab with c := 4 }
theorem test_vfma : Issues (word 0x43 fma4 []) 0 0x43 fma4 r0 ∧
    ((after (.vfma 0 fma4) (withV (withV (withV (word 0x43 fma4 []) 2 0x40000000) 3 0x40400000) 4 0xC0C00000)).eng 0).lane
      1 0 = 0 := by unfold Issues; decide +kernel
/-- Less than, on every lane; a NaN compares with nothing but IMM 3. -/
theorem test_vcmp : Issues (word 0x46 { fdab with imm := 3 } []) 0 0x46 { fdab with imm := 3 } r0 ∧
    ((after (.vcmp 0 { fdab with imm := 1 }) (withV (withV (word 0x46 { fdab with imm := 1 } []) 2 0xBF800000) 3 0)).eng
      0).gr 1 = 0xFFFFFFFF ∧
    ((after (.vcmp 0 { fdab with imm := 0 }) (withV (word 0x46 { fdab with imm := 0 } []) 2 0x7FC00000)).eng 0).gr 1 =
      0 := by unfold Issues; decide +kernel
theorem test_vsel : Issues (word 0x47 fma4 [(4, 2)]) 0 0x47 fma4 r0 ∧
    (let x := (after (.vsel 0 fma4) (withV (withV (word 0x47 fma4 [(4, 2)]) 2 7) 3 9)).eng 0
     x.lane 1 0 = 9 ∧ x.lane 1 1 = 7) := by unfold Issues; decide +kernel
/-- −1.5 becomes −1 and 3e9 the greatest integer; 2^24 + 1 rounds to even. -/
theorem test_vcvt : Issues (word 0x4C { fld with imm := 1 } []) 0 0x4C { fld with imm := 1 } r0 ∧
    v1 .vcvt 0x4C fld 0x4F32D05E 0 = 0x7FFFFFFF ∧ v1 .vcvt 0x4C { fld with imm := 1 } 0x01000001 0 = 0x4B800000 := by
  unfold Issues; decide +kernel
theorem test_vbcast : Issues (word 0x4D fld [(2, 0x1122334455)]) 0 0x4D fld r0 ∧
    ((after (.vbcast 0 fld) (word 0x4D fld [(2, 0x1122334455)])).eng 0).lane 1 31 = 0x22334455 := by
  unfold Issues; decide +kernel
theorem test_vperm : Issues (word 0x4E fdab []) 0 0x4E fdab r0 ∧
    (let s := (word 0x4E fdab []).modEng 0 fun x => x.setV 2 ((List.range 32).map (BitVec.ofNat 32))
     ((after (.vperm 0 fdab) (withV s 3 37)).eng 0).lane 1 0 = 5) := by unfold Issues; decide +kernel
theorem test_vmovg : Issues (word 0x4F fdab [(2, 33)]) 0 0x4F fdab r0 ∧
    (let s := (word 0x4F fdab [(2, 33)]).modEng 0 fun x => x.setV 3 ((List.range 32).map (BitVec.ofNat 32))
     ((after (.vmovg 0 fdab) s).eng 0).gr 1 = 1) := by unfold Issues; decide +kernel

/-! ## Arrays -/

/-- FMT FP8a, SCALE 0, KQ 1, PITCH 16: 32 rows of 4 elements. -/
def immAld : BitVec 32 := BitVec.ofNat 32 (3 + 2 ^ 9 + 16 * 2 ^ 14)
def fald : Fields := { d := 0, a := 2, b := 3, c := 0, imm := immAld }

theorem test_ald :
    let s := inLs (word 0x30 fald [(2, 0), (3, 0x1000)]) 0 [0x38]
    Issues s 0 0x30 fald r0 ∧ (s.fmtCheck 3 0).isOk = true ∧ aldOk (aldImm immAld.toNat) = true ∧
    (aldImm immAld.toNat).fits 0 0x1000 = true ∧ (s.aldFetch 0 (aldImm immAld.toNat) 0 0 0x1000).isSome = true ∧
    ((after (.ald 0 fald) s).eng 0).buf 0 = (s.aldFetch 0 (aldImm immAld.toNat) 0 0 0x1000).getD Tile.empty ∧
    (((after (.ald 0 fald) s).eng 0).buf 0).k = 4 := by unfold Issues; decide +kernel
theorem test_ald_empty : Issues (word 0x30 { fald with imm := 3 } []) 0 0x30 { fald with imm := 3 } r0 ∧
    aldOk (aldImm 3) = true ∧ (((after (.ald 0 { fald with imm := 3 }) (word 0x30 { fald with imm := 3 } [])).eng 0).buf
      0).k = 0 := by unfold Issues; decide +kernel

/-- A tile with one row of 1.0 elements. -/
def one8 : Piece := { tag := .finite, neg := false, q := 0, m := 1 }
def tile1 : Tile :=
  { k := 4, fmt := 3, sparse := 0,
    rows := List.replicate 32 (List.replicate 4 { pieces := [one8], zero := false }) }
def fmul : Fields := { d := 1, a := 1, b := 0, c := 0, imm := 1 }
def mulState : State := (word 0x31 fmul []).modEng 0 fun x => { x with bufs := [(1, tile1), (2, tile1)] }

/-- Four products of 1 in each cell of set 1. -/
theorem test_bmul : Issues mulState 0 0x31 fmul r0 ∧ ((mulState.eng 0).buf 1).k = ((mulState.eng 0).buf 2).k ∧
    (((after (.bmul 0 fmul false) mulState).eng 0).acc 1).steps = 4 ∧
    ((((after (.bmul 0 fmul false) mulState).eng 0).acc 1).cell 31 31).parts.length = 4 := by
  unfold Issues; decide +kernel
/-- A product that fails its residue check changes no accumulator; its engine meets CHECK. -/
theorem test_bmul_check :
    let t := after (.bmul 0 fmul true) mulState
    (t.eng 0).accs = [] ∧ (t.eng 0).checkMet = true ∧ (t.eng 0).faultCode = 7 ∧ (t.eng 0).item = none := by
  decide +kernel

def drained (imm : BitVec 32) : Fields := { f0 with d := 3, imm := imm }
def cell3 : Cell :=
  { parts := List.replicate 3 { neg := false, m := 1, q := 0 }, s := 0, err := 0, tag := .finite }

/-- Set 1 with an open window of products of 1 in cell (0, 0). -/
def accState (opc : BitVec 8) (f : Fields) (g : Tab W64) : State :=
  (word opc f g).modEng 0 fun x => { x with accs := [(1, { steps := 3, cells := [(0, cell3)] })] }

theorem test_aprom : Issues (accState 0x32 { f0 with d := 1 } []) 0 0x32 { f0 with d := 1 } r0 ∧
    (let x := (after (.aprom 0 { f0 with d := 1 }) (accState 0x32 { f0 with d := 1 } [])).eng 0
     ((x.acc 1).cell 0 0).s = 0x40400000 ∧ (x.acc 1).steps = 0) := by unfold Issues; decide +kernel
/-- Set 1, FIRST_ROW 0, ROWS 29 into v3 to v31, CLEAR. -/
theorem test_adrain :
    let f := drained (BitVec.ofNat 32 (1 + 64 * 29 + 4096))
    Issues (accState 0x33 f []) 0 0x33 f r0 ∧ f.imm < 0x2000 ∧ f.d.toNat + 29 ≤ 32 ∧
    (let x := (after (.adrain 0 f) (accState 0x33 f [])).eng 0
     x.lane 3 0 = 0x40400000 ∧ x.lane 3 1 = 0 ∧ x.acc 1 = AccSet.clear) := by unfold Issues; decide +kernel

/-- Encode descriptor: DST 0x200, SCL 0x300, PITCH 32, FP8a without fine scale, coarse scale 1.0. -/
def encBytes : List Byte :=
  leBytes 4 0x200 ++ leBytes 4 0x300 ++ leBytes 4 32 ++ leBytes 4 3 ++ leBytes 4 0x3F800000 ++ List.replicate 44 0
/-- Two registers of 1.0 are stored as bytes 0x38, row by row. -/
theorem test_venc :
    let f : Fields := { d := 30, a := 2, b := 0, c := 0, imm := 2 }
    let s := withV (withV (inLs (word 0x35 f [(2, 0x100)]) 0x100 encBytes) 30 0x3F800000) 31 0x40000000
    Issues s 0 0x35 f r0 ∧ (s.encDesc r0 0x100 0 2).isOk = true ∧
    (after (.venc 0 f) s).readLoc (.ls 0 0x21F) 2 = [0x38, 0x40] ∧ (after (.venc 0 f) s).readLoc (.ls 0 0x240) 1 = [0] := by
  unfold Issues; decide +kernel
theorem test_adraine :
    let f : Fields := { d := 0, a := 2, b := 0, c := 0, imm := BitVec.ofNat 32 (1 + 64) }
    let s := inLs (accState 0x34 f [(2, 0x100)]) 0x100 encBytes
    Issues s 0 0x34 f r0 ∧ f.imm < 0x2000 ∧ (s.encDesc r0 0x100 0 1).isOk = true ∧
    (after (.adraine 0 f) s).readLoc (.ls 0 0x200) 2 = [0x44, 0] := by unfold Issues; decide +kernel
/-- An address beside the rows and scale bytes of an encode. -/
theorem test_encodeFrame :
    let d : EncDesc := { dst := 0x200, scl := 0x300, pitch := 32, fmt := 3, scale := 1, stoch := false, coarse := 0,
                         seed := 0, idxBase := 0, idxRow := 0, flush := 0 }
    (∀ i < 4, lsKey 0 0x1FF < lsKey 0 (d.dst + i * d.pitch)) ∧ lsKey 0 0x1FF < lsKey 0 d.scl ∧ d.fmt ≤ 9 ∧
    (List.replicate 4 (List.replicate 32 (FV.inf false))).length % 4 = 0 := by decide

/-! ## Reductions -/

def vi (imm : BitVec 32) (d a : BitVec 6) : Fields := { d := d, a := a, b := 0, c := 0, imm := imm }

/-- 32 lanes of 1.0 add up to 32.0 in lane 0; the other lanes are 0. -/
theorem test_rlane : Issues (word 0x50 (vi 0 1 2) []) 0 0x50 (vi 0 1 2) r0 ∧
    (let x := (after (.rlane 0 (vi 0 1 2)) (withV (withV (word 0x50 (vi 0 1 2) []) 2 0x3F800000) 1 5)).eng 0
     x.lane 1 0 = 0x42000000 ∧ x.lane 1 1 = 0) := by unfold Issues; decide +kernel
/-- S = 1.0 and 2^−24 more: S stays, E keeps the rest. -/
theorem test_racc : Issues (word 0x51 (vi 0 30 2) []) 0 0x51 (vi 0 30 2) r0 ∧
    (let x := (after (.racc 0 (vi 0 30 2)) (withV (withV (word 0x51 (vi 0 30 2) []) 30 0x3F800000) 2 0x33800000)).eng 0
     x.lane 30 7 = 0x3F800000 ∧ x.lane 31 7 = 0x33800000) := by unfold Issues; decide +kernel
/-- The first sample of an empty state: n = 1, m = x, M2 = 0. -/
theorem test_rwel : Issues (word 0x52 (vi 0 28 2) []) 0 0x52 (vi 0 28 2) r0 ∧
    (let x := (after (.rwel 0 (vi 0 28 2)) (withV (word 0x52 (vi 0 28 2) []) 2 0x40A00000)).eng 0
     x.lane 28 0 = 0x3F800000 ∧ x.lane 29 0 = 0x40A00000 ∧ x.lane 30 0 = 0) := by unfold Issues; decide +kernel
/-- Merging into an empty state copies the other. -/
theorem test_rmerge : Issues (word 0x55 (vi 0 0 28) []) 0 0x55 (vi 0 0 28) r0 ∧
    (let x := (after (.rmerge 0 (vi 0 0 28)) (withV (withV (word 0x55 (vi 0 0 28) []) 28 0x3F800000) 29 7)).eng 0
     x.lane 0 31 = 0x3F800000 ∧ x.lane 1 31 = 7) := by unfold Issues; decide +kernel

/-- Slot descriptor: OP 0, one register, this many contributions, DONE flag 3 of engine 0, DEST pier 0x100, BUF course
store 0x1000. -/
def slotBytes (count : Nat) : List Byte :=
  [0, 1, 0, 0] ++ leBytes 4 count ++ leBytes 4 10 ++ leBytes 4 0x80000003 ++ leBytes 8 0x8000000000000100 ++
    leBytes 8 0x4000000000001000
def frs : Fields := { f0 with a := 2, imm := 31 }
def rscfgState (count : Nat) : State := inLs (word 0x53 frs [(2, 0x40)]) 0x40 (slotBytes count)

theorem test_rscfg : Issues (rscfgState 2) 0 0x53 frs r0 ∧ (rscfgState 2).rslot 0 31 = none ∧
    ((rscfgState 2).resolve 0 0 0 0x8000000000000100 128).toOption = some (.pier 0x100) ∧
    r0.d.admits 0 true (.pier 0x100) 128 = true ∧ eaMalformed 0x4000000000001000 = false ∧
    (((after (.rscfg 0 frs) (rscfgState 2)).rslot 0 31).map fun x => (x.count, x.firstSeq, x.doneFlag, x.bufOff)) =
      some (2, 10, 3, 0x1000) := by unfold Issues; decide +kernel
/-- No contributions: DONE rises at once and the slot stays idle. -/
theorem test_rscfg_zero : (after (.rscfg 0 frs) (rscfgState 0)).rslot 0 31 = none ∧
    (after (.rscfg 0 frs) (rscfgState 0)).flagVal 0 3 = 1 := by decide +kernel

def slotReg (acc : List (List W32)) (combined : Nat) : RSlot :=
  { op := 0, lenRegs := 1, count := 2, firstSeq := 6, doneValid := true, doneEngine := 0, doneFlag := 3,
    dest := .pier 0x100, bufOff := 0x1000, got := [], combined := combined, acc := acc }
theorem test_rcont :
    let s0 := word 0x54 (vi 0 0 31) []
    let h := { slot0 with desc := { desc0 with rslot := 4 } }
    let s := withV (s0.modCrs 0 fun y => { y with hod := [(0, h)], rslots := [(4, slotReg (slotStart 0 1) 0)] }) 31 9
    Issues s 0 0x54 (vi 0 0 31) { r0 with d := h.desc } ∧ (s.contribSlot 0 h.desc).isOk = true ∧
    ((after (.rcont 0 (vi 0 0 31)) s).eng 0).contrib = some (List.replicate 32 9) := by unfold Issues; decide +kernel
/-- Both contributions are in: the result goes to DEST and DONE rises. -/
theorem test_slotResult :
    let s := (run0 []).modCrs 0 fun y => { y with rslots := [(4, slotReg (slotStart 0 1) 2)] }
    s.live = true ∧ (s.rslot 0 4).isSome = true ∧ s.courseAwake 0 = true ∧
    (after (.reduceSlotDone 0 4) s).rslot 0 4 = none ∧ (after (.reduceSlotDone 0 4) s).flagVal 0 3 = 1 := by
  decide +kernel

/-! ## Copies -/

def gcp (n : W64) : Tab W64 := [(2, 0x1000), (3, 0x8000000000000100), (4, n)]
def fcp : Fields := { d := 47, a := 2, b := 3, c := 4, imm := 0 }
/-- An item that may use the flags of F40 to F47 (NET). -/
theorem test_cpy : Issues (word 0x20 fcp (gcp 4)) 0 0x20 fcp r0 ∧ r0.d.net = true ∧
    ((word 0x20 fcp (gcp 4)).operand r0 false 0x1000 4).toOption = some (.ls 0 0x1000) ∧
    ((word 0x20 fcp (gcp 4)).operand r0 true 0x8000000000000100 4).toOption = some (.pier 0x100) ∧
    overlap (.ls 0 0x1000) 4 (.pier 0x100) 4 = false ∧
    ((after (.cpy 0 fcp) (word 0x20 fcp (gcp 4))).eng 0).copies.map (·.segs) =
      [[{ src := .ls 0 0x1000, dst := .pier 0x100, len := 4 }]] ∧
    ((after (.cpy 0 fcp) (word 0x20 fcp (gcp 0))).eng 0).copies.map (·.segs) = [[]] := by unfold Issues; decide +kernel
def fcs : Fields := { f0 with d := 1, a := 2 }
/-- Two rows of 4 bytes: SRC pitch 16, DST pitch 4. -/
def cpysBytes : List Byte :=
  leBytes 8 0x1000 ++ leBytes 8 0x8000000000000100 ++ leBytes 4 4 ++ leBytes 4 2 ++ leBytes 4 16 ++ leBytes 4 4
theorem test_cpys :
    let s := inLs (word 0x21 fcs [(2, 0x40)]) 0x40 cpysBytes
    Issues s 0 0x21 fcs r0 ∧ (s.operand r0 false 0x1000 20).toOption = some (.ls 0 0x1000) ∧
    (s.operand r0 true 0x8000000000000100 8).toOption = some (.pier 0x100) ∧
    ((after (.cpys 0 fcs) s).eng 0).copies.map (·.segs) =
      [[{ src := .ls 0 0x1000, dst := .pier 0x100, len := 4 }, { src := .ls 0 0x1010, dst := .pier 0x104, len := 4 }]] := by
  unfold Issues; decide +kernel
/-- The copy of `test_cpy` completes: the bytes arrive and F47 rises. -/
theorem test_copyComplete :
    let s := after (.cpy 0 fcp) (inLs (word 0x20 fcp (gcp 4)) 0x1000 [1, 2, 3, 4])
    let t := after (.copyComplete 0 0) s
    (s.copyOp 0 0).isSome = true ∧ s.live = true ∧ ((s.copyOp 0 0).map (·.srcSnap)) = some [1, 2, 3, 4] ∧
    t.readLoc (.pier 0xFF) 6 = [0, 1, 2, 3, 4, 0] ∧ t.flagVal 0 47 = 1 ∧ (t.eng 0).copies = [] := by decide +kernel
/-- The 33rd copy waits, and a completion lets the engine go on. -/
theorem test_copyQueueFull :
    let s := (word 0x20 fcp (gcp 4)).modEng 0 fun x => { x with copies := List.replicate 32 op0 }
    let t := after (.cpy 0 fcp) s
    (s.eng 0).outstanding = 32 ∧ (t.eng 0).act = .waitCopyQueue ∧ (t.eng 0).pc = 0 ∧ t.live = true ∧
    ((after (.copyComplete 0 31) t).eng 0).act = .run := by decide +kernel

/-! ## Plinth operations -/

/-- A plinth descriptor. -/
def pd (op flags sm dm rows : Nat) (src dst srcScl dstScl : Nat) (cols sp dp aux : Nat) : List Byte :=
  leBytes 1 op ++ leBytes 1 flags ++ leBytes 1 sm ++ leBytes 1 dm ++ leBytes 4 rows ++ leBytes 8 src ++ leBytes 8 dst ++
    leBytes 8 srcScl ++ leBytes 8 dstScl ++ leBytes 4 cols ++ leBytes 4 sp ++ leBytes 4 dp ++ leBytes 4 0 ++
    leBytes 4 aux ++ leBytes 4 0
/-- A place in pier space. -/
def pa (n : Nat) : Nat := 2 ^ 63 + n
/-- An auxiliary block with a list of one entry in local store and a unit of 4 bytes. -/
def auxList : List Byte := List.replicate 40 0 ++ leBytes 8 0x2000 ++ leBytes 4 1 ++ leBytes 4 4 ++ List.replicate 8 0

def plinthTests : List ((Nat → Fields → Instr) × List Byte) :=
  [(.narrow, pd 1 0 0x09 0x13 4 0x1000 (pa 0) 0 (pa 0x100) 4 16 4 0),
   (.widen, pd 2 0 0x03 0x09 1 (pa 0) 0x1000 0 0 4 4 16 0),
   (.reblock, pd 3 0 0x13 0x23 4 (pa 0) (pa 0x200) (pa 0x100) (pa 0x300) 32 32 32 0),
   (.pack, pd 4 4 0x03 0x43 1 (pa 0) (pa 0x200) 0 (pa 0x300) 16 16 8 0),
   (.expand, pd 5 0 0x43 0x03 1 (pa 0) (pa 0x200) (pa 0x100) 0 16 8 16 0),
   (.gather, pd 6 1 0 0 0 (pa 0) 0x1000 0 0 0 0 0 0x80),
   (.scatter, pd 7 1 0 0 0 0x1000 (pa 0) 0 0 0 0 0 0x80),
   (.zscan, pd 8 0 0x13 0 4 (pa 0) 0x1000 (pa 0x100) 0 4 4 0 0),
   (.digest, pd 9 0 0 0 1 (pa 0) 0x1000 0 0 8 0 0 0)]

def fpl : Fields := { f0 with d := 1, a := 2 }
def plState (b : List Byte) : State := inLs (inLs (word 0x22 fpl [(2, 0x40)]) 0x40 b) 0x80 auxList

theorem test_plinthIssue : ∀ x ∈ plinthTests,
    Issues (plState x.2) 0 0x22 fpl r0 ∧
    (match (plState x.2).plinthDesc 0 0x40 with
      | .ok p => ((plState x.2).plinthIssue r0 p).isOk
      | .error _ => false) = true ∧
    ((after (x.1 0 fpl) (plState x.2)).eng 0).copies.length = 1 ∧
    ((after (x.1 0 fpl) (plState x.2)).eng 0).pc = 8 := by unfold Issues; decide +kernel
/-- The descriptor of another operation is not this command's. -/
theorem test_plinth_other :
    ((after (.widen 0 fpl) (plState (pd 1 0 0x09 0x13 4 0x1000 (pa 0) 0 (pa 0x100) 4 16 4 0))).eng 0).copies = [] := by
  decide +kernel

/-- An operation on these pier bytes, issued and completed. -/
def plDone (c : Nat → Fields → Instr) (b : List Byte) (bytes : List (Nat × List Byte)) : State :=
  let s := bytes.foldl (fun s x => s.writePier x.1 x.2) (plState b)
  after (.plinthOpComplete 0 0) (after (c 0 fpl) s)

/-- WIDEN: FP8a 1.0 and −2.0 to FP32. -/
theorem test_widen : let t := plDone .widen (pd 2 0 0x03 0x09 1 (pa 0) 0x1000 0 0 4 4 16 0) [(0, [0x38, 0xC0])]
    t.readLoc (.ls 0 0x1000) 8 = [0, 0, 0x80, 0x3F, 0, 0, 0, 0xC0] ∧ t.flagVal 0 1 = 1 ∧ (t.eng 0).copies = [] := by
  decide +kernel
/-- PACK 2:4 keeps the two largest of each four, in rising position; its index bytes name them. -/
theorem test_pack : (plDone .pack (pd 4 4 0x03 0x43 1 (pa 0) (pa 0x200) 0 (pa 0x300) 16 16 8 0)
    [(0, [0x38, 0, 0, 0x40])]).readLoc (.pier 0x200) 4 = [0x38, 0x40, 0, 0] := by decide +kernel
/-- GATHER of the 4 bytes at offset 8. -/
theorem test_gather :
    let s := (inLs (plState (pd 6 1 0 0 0 (pa 0) 0x1000 0 0 0 0 0 0x80)) 0x2000 [8]).writePier 8 [5, 6, 7, 8]
    (after (.plinthOpComplete 0 0) (after (.gather 0 fpl) s)).readLoc (.ls 0 0x1000) 4 = [5, 6, 7, 8] := by decide +kernel
/-- SCATTER to offset 8. -/
theorem test_scatter :
    let s := inLs (inLs (plState (pd 7 1 0 0 0 0x1000 (pa 0) 0 0 0 0 0 0x80)) 0x2000 [8]) 0x1000 [5, 6, 7, 8]
    (after (.plinthOpComplete 0 0) (after (.scatter 0 fpl) s)).readLoc (.pier 7) 6 = [0, 5, 6, 7, 8, 0] := by decide +kernel
/-- ZSCAN: one square block, a zero block (scale code 0): bit 0 is set. -/
theorem test_zscan : (plDone .zscan (pd 8 0 0x13 0 4 (pa 0) 0x1000 (pa 0x100) 0 4 4 0 0) []).readLoc (.ls 0 0x1000) 1 =
    [1] := by decide +kernel
/-- NARROW of 16 elements 1.0: the elements decode, with their block scale, to 1.0. -/
theorem test_narrow :
    let s := inLs (plState (pd 1 0 0x09 0x13 4 0x1000 (pa 0) 0 (pa 0x100) 4 16 4 0)) 0x1000
      ((List.replicate 16 [0, 0, 0x80, 0x3F]).flatten)
    let t := after (.plinthOpComplete 0 0) (after (.narrow 0 fpl) s)
    (vlddBlock 3 1 ((t.readLoc (.pier 0x100) 1).map (·.toNat)).sum 0 ((t.readLoc (.pier 0) 4).map (·.toNat))) =
      List.replicate 4 0x3F800000 := by decide +kernel

/-! ## Flags -/

def ffl (d : BitVec 6) (imm : BitVec 32) : Fields := { f0 with d := d, a := 2, imm := imm }
/-- FINC of the own engine (bit 31), of another engine of the partition, and of an engine whose course sleeps. -/
theorem test_finc : Issues (word 0x60 (ffl 47 0x8000FFFF) []) 0 0x60 (ffl 47 0x8000FFFF) r0 ∧
    (after (.finc 0 (ffl 47 0x8000FFFF)) (word 0x60 (ffl 47 0x8000FFFF) [])).flagVal 0 47 = 0xFFFF ∧
    (after (.finc 0 (ffl 5 2)) (word 0x60 (ffl 5 2) [(2, 127)])).flagVal 127 5 = 2 ∧
    (word 0x60 (ffl 5 2) []).partOfEngine 127 = some 0 := by unfold Issues; decide +kernel
theorem test_finc_asleep :
    let s := (word 0x60 (ffl 5 2) [(2, 127)]).setDom 3 { dom0 with level := 2 }
    Issues s 0 0x60 (ffl 5 2) r0 ∧ s.courseAwake 3 = false ∧
    ((after (.finc 0 (ffl 5 2)) s).crs 3).heldAdds = [(127, 5, 2)] ∧ (s.dom 3).held = false ∧
    ((after (.finc 0 (ffl 5 2)) s).dom 3).wakeReq = true ∧
    (after (.finc 0 (ffl 5 2)) s).flagVal 127 5 = 0 := by unfold Issues; decide +kernel
theorem test_fset : Issues (word 0x62 (ffl 47 0) [(2, 0x500000007)]) 0 0x62 (ffl 47 0) r0 ∧
    (after (.fset 0 (ffl 47 0)) (word 0x62 (ffl 47 0) [(2, 0x500000007)])).flagVal 0 47 = 7 := by
  unfold Issues; decide +kernel
def fwt : Fields := { d := 5, a := 2, b := 1, c := 0, imm := 3 }
/-- FWAIT for 3, consuming: with the flag at 2 it waits, at 3 it goes on and takes 3. -/
theorem test_fwait : Issues ((word 0x61 fwt []).setFlag 0 5 2) 0 0x61 fwt r0 ∧
    ((after (.fwait 0 fwt) ((word 0x61 fwt []).setFlag 0 5 2)).eng 0).act = .waitFlag 5 3 true ∧
    ((after (.fwait 0 fwt) ((word 0x61 fwt []).setFlag 0 5 3)).eng 0).act = .run ∧
    (after (.fwait 0 fwt) ((word 0x61 fwt []).setFlag 0 5 4)).flagVal 0 5 = 1 := by unfold Issues; decide +kernel
theorem test_fwaitMet :
    let s := ((run0 []).modEng 0 fun x => { x with act := .waitFlag 5 3 true }).setFlag 0 5 3
    s.mayResume 0 = true ∧ ((after (.fwaitMet 0) s).eng 0).act = .run ∧ (after (.fwaitMet 0) s).flagVal 0 5 = 0 := by
  decide +kernel
theorem test_frd : Issues ((word 0x63 { f0 with d := 1, a := 47 } []).setFlag 0 47 9) 0 0x63 { f0 with d := 1, a := 47 } r0 ∧
    ((after (.frd 0 { f0 with d := 1, a := 47 })
      ((word 0x63 { f0 with d := 1, a := 47 } []).setFlag 0 47 9)).eng 0).gr 1 = 9 := by unfold Issues; decide +kernel

/-! ## Keystone lines -/

def line (reach count expect : Nat) : KeyLine :=
  { KeyLine.reset with phase := 7, count := count, expect := expect, owner := 0, reach := reach }
def withKey (s : State) (k : Nat) (x : KeyLine) : State := s.setKey k x
def fka : Fields := { f0 with d := 1, imm := 15 }
/-- The last arrival ends the phase; an arrival before it is counted. -/
theorem test_karr : Issues (withKey (word 0x64 fka []) 15 (line 0 3 4)) 0 0x64 fka r0 ∧
    (let t := after (.karr 0 fka) (withKey (word 0x64 fka []) 15 (line 0 3 4))
     (t.eng 0).gr 1 = 7 ∧ (t.key 15).phase = 8 ∧ (t.key 15).count = 0) ∧
    ((after (.karr 0 fka) (withKey (word 0x64 fka []) 15 (line 1 2 4))).key 15).count = 3 := by
  unfold Issues; decide +kernel
/-- Slice reach, a module without parent and children: its share is the whole phase. -/
theorem test_karr_slice :
    let s := withKey (word 0x64 fka []) 15 (line 2 3 4)
    Issues s 0 0x64 fka r0 ∧ s.cfg.slice.role = 0 ∧ (∀ n ∈ s.keyChildren, n ∈ (s.key 15).reports) ∧
    ((after (.karr 0 fka) s).key 15).phase = (if s.keyParent = none then 8 else 7) := by unfold Issues; decide +kernel
def fkw : Fields := { f0 with a := 2, imm := 15 }
theorem test_kwait : Issues (withKey (word 0x65 fkw [(2, 7)]) 15 (line 0 0 4)) 0 0x65 fkw r0 ∧
    ((after (.kwait 0 fkw) (withKey (word 0x65 fkw [(2, 7)]) 15 (line 0 0 4))).eng 0).act = .waitKey 15 7 ∧
    ((after (.kwait 0 fkw) (withKey (word 0x65 fkw [(2, 6)]) 15 (line 0 0 4))).eng 0).act = .run := by
  unfold Issues; decide +kernel
theorem test_kwaitMet :
    let s := withKey ((run0 []).modEng 0 fun x => { x with act := .waitKey 15 6 }) 15 (line 0 0 4)
    s.mayResume 0 = true ∧ ((after (.kwaitMet 0) s).eng 0).act = .run := by decide +kernel
/-- EXPECT 2,048 is taken, 2,049 is not. -/
theorem test_keyExpect : up.writable = true ∧ (withKey up 3 (line 0 0 4)).reaches ((withKey up 3 (line 0 0 4)).keyOwner 3) 0 ∧
    ((after (.keyExpectWrite 0 3 2048) (withKey up 3 (line 0 0 4))).key 3).expect = 2048 ∧
    ((after (.keyExpectWrite 0 3 2049) (withKey up 3 (line 0 0 4))).key 3).expect = 4 := by decide +kernel
theorem test_keyReset : ((after (.keyReset 0 3 1) (withKey up 3 (line 0 2 4))).key 3) = { line 0 0 4 with phase := 0 } := by
  decide +kernel

/-! ## Stream contexts -/

def ctx0 : Ctx := { Ctx.reset with enable := true, prio := 5, ringOrder := 4, ring := 0x100000, slot := 0xFF }
def withCtx (n : Nat) (x : Ctx) (s : State) : State := s.setCtx n x
/-- A full ring of 16 is accepted, 17 is not; the other port is counted. -/
theorem test_doorbell : up.partOfCtx 7 = some 0 ∧ up.live = true ∧
    ((after (.doorbell 0 7 16) (withCtx 7 ctx0 up)).ctx 7).tail = 16 ∧
    ((after (.doorbell 0 7 17) (withCtx 7 ctx0 up)).ctx 7).dbErr = true ∧
    ((after (.doorbell 1 7 1) (withCtx 7 ctx0 up)).host 1).dbDrop = 1 ∧ up.partOfCtx 8 = none := by decide +kernel
def ctlWord : BitVec 32 := 0x00FF041B
/-- ENABLE, PRIO 5, EVAL, RING_ORDER 4; a ring of order 17 stays disabled; RESET. -/
theorem test_ctxEnable :
    let x := (after (.ctxEnable 0 3 ctlWord) (withCtx 3 { ctx0 with enable := false, ringOrder := 9 } up)).ctx 3
    x.enable = true ∧ x.prio = 5 ∧ x.eval = true ∧ x.ringOrder = 4 ∧
    ((after (.ctxEnable 0 3 0x1101) (withCtx 3 { ctx0 with enable := false } up)).ctx 3).enable = false := by decide +kernel
theorem test_ctxDisable : ((after (.ctxDisable 0 3 0) (withCtx 3 ctx0 up)).ctx 3).enable = false ∧
    ((after (.ctxDisable 0 3 0) (withCtx 3 ctx0 up)).ctx 3).ringOrder = 4 := by decide +kernel
theorem test_ctxReset :
    let c := { ctx0 with tail := 5, faultValid := true, faultCode := 0x80 }
    ((after (.ctxReset 0 3 0x20) (withCtx 3 c up)).ctx 3).head = 5 ∧
    ((after (.ctxReset 0 3 0x20) (withCtx 3 c up)).ctx 3).faultValid = false ∧
    ((after (.ctxReset 0 3 0x20) (withCtx 3 { c with live := 1 } up)).ctx 3).head = 0 := by decide +kernel
theorem test_ctxSlotBind : ((after (.ctxSlotBind 0 3 0x00070000) (withCtx 3 ctx0 up)).ctx 3).slot = 7 ∧
    ((after (.ctxSlotBind 0 3 0x00080000) (withCtx 3 ctx0 up)).ctx 3).slot = 0xFF := by decide +kernel

/-- An ITEM command for engine 1 with no extents: ENTRY 0x40, PRIO 6, SEQ 9, RSLOT none. -/
def itemCmd (kind : Nat) : List Byte :=
  leBytes 4 0x40 ++ leBytes 2 0x60 ++ leBytes 2 1 ++ leBytes 4 9 ++ leBytes 4 0 ++ List.replicate 46 0 ++
    [0xFF, BitVec.ofNat 8 kind]
def held (b : List Byte) : Held := { bytes := b, prio := 5, eval := false }
theorem test_ringFetch :
    let s := withCtx 3 { ctx0 with tail := 2 } up
    s.chooseCtx 0 = some 3 ∧ (s.ctx 3).inPier = false ∧ s.hostUsable (s.hostOf 0) = true ∧ s.fetchCount 0 (s.ctx 3) = 2 ∧
    cmdKind (itemCmd 0) < 3 ∧ cmdFence (itemCmd 0) = false ∧
    (let t := after (.ringFetch 0 [itemCmd 0, itemCmd 0]) s
     (t.part 0).carrying = some { ctx := 3, cmd := held (itemCmd 0), copy := none } ∧ (t.ctx 3).held.length = 2 ∧
     (t.ctx 3).head = 0) := by decide +kernel
/-- Host port 0 with its Completion Timeout disabled. -/
def noTimeout (s : State) : State := s.modHost 0 fun x => { x with ctDisable := true }
theorem test_ringFetchError :
    let s := withCtx 3 { ctx0 with tail := 2 } up
    let r := withCtx 3 { ctx0 with tail := 2, ring := 0x2000001 } up
    s.chooseCtx 0 = some 3 ∧ (s.ctx 3).held = [] ∧ s.hostUsable (s.hostOf 0) = true ∧
    ((after (.ringFetchError 0 .timeout) s).ctx 3).faultCode = 0x80 ∧
    ((after (.ringFetchError 0 .timeout) s).host 0).space.aerStatus = 0x4000 ∧
    after (.ringFetchError 0 .timeout) (noTimeout s) = noTimeout s ∧
    (r.ctx 3).inPier = true ∧ r.ringNameable 0 (r.ctx 3) = false ∧ r.chooseCtx 0 = some 3 ∧
    ((after (.ringFetchError 0 .region) r).ctx 3).faultCode = 0x81 := by decide +kernel
def carry (b : List Byte) (k : Option CopyCmd) (s : State) : State :=
  s.modPart 0 fun x => { x with carrying := some { ctx := 3, cmd := held b, copy := k } }
def ctx3 : State := withCtx 3 { ctx0 with tail := 2, held := [held (itemCmd 0)] } up
/-- The item goes to the lowest free slot of course 0, ready, its PRIO under the context's cap of 5. -/
theorem test_item :
    let s := carry (itemCmd 0) none ctx3
    s.checkItem (cmdItem (itemCmd 0)) 0 false false = 0 ∧ (s.crs 0).freeSlots.head? = some 0 ∧
    (let t := after (.item 0) s
     (t.hodSlot 0 0).map (fun h => (h.status, h.desc.prio, h.desc.ctx, h.desc.entry)) = some (.ready, 5, 3, 0x40) ∧
     (t.ctx 3).head = 1 ∧ (t.ctx 3).live = 1 ∧ (t.part 0).carrying = none) := by decide +kernel
/-- An ENTRY that is not 8-byte aligned is FORMAT (status 2): the context is FAULTED with 0x92. -/
theorem test_item_bad :
    let s := carry (1 :: (itemCmd 0).drop 1) none ctx3
    s.checkItem (cmdItem (1 :: (itemCmd 0).drop 1)) 0 false false = 2 ∧
    ((after (.item 0) s).ctx 3).faultCode = 0x92 ∧ ((after (.item 0) s).ctx 3).head = 0 := by decide +kernel
def fullHod (s : State) : State :=
  s.modCrs 0 fun y => { y with hod := (List.range 256).map fun k => (k, { slot0 with status := .ready }) }
theorem test_item_full :
    let s := carry (itemCmd 0) none (fullHod ctx3)
    (s.crs 0).freeSlots = [] ∧ ((after (.item 0) s).ctx 3).waitSlot = true := by decide +kernel
theorem test_hodSlotRetry :
    let s := withCtx 3 { ctx0 with tail := 2, held := [held (itemCmd 0)], waitSlot := true } up
    s.partOfCtx 3 = some 0 ∧ (s.ctx 3).held.head? = some (held (itemCmd 0)) ∧
    ((after (.hodSlotRetry 3) s).ctx 3).waitSlot = false ∧ ((after (.hodSlotRetry 3) s).ctx 3).head = 1 ∧
    ((after (.hodSlotRetry 3) s).hodSlot 0 0).isSome = true := by decide +kernel

/-- COPY of `n` bytes from host 0x5000 to pier 0x100. -/
def copyCmd (n : Nat) : List Byte :=
  leBytes 8 0x5000 ++ leBytes 8 (2 ^ 63 + 0x100) ++ leBytes 4 n ++ List.replicate 43 0 ++ [1]
theorem test_copy :
    let s := carry (copyCmd 4) none ctx3
    (s.copyCheck 0 (copyCmd 4)).toOption = some { host := 0x5000, target := .pier 0x100, len := 4, dir := 0 } ∧
    ((after (.copy 0) s).part 0).carrying.map (·.copy.isSome) = some true ∧
    (after (.copy 0) s).out = [.hostRead 0 0x5000 4] ∧
    ((after (.copy 0) (carry (copyCmd 0) none ctx3)).ctx 3).head = 1 := by decide +kernel
theorem test_copyCmdDone :
    let s := carry (copyCmd 4) (some { host := 0x5000, target := .pier 0x100, len := 4, dir := 0 }) ctx3
    (after (.copyCmdDone 0 (.data [1, 2, 3, 4])) s).readLoc (.pier 0xFF) 6 = [0, 1, 2, 3, 4, 0] ∧
    ((after (.copyCmdDone 0 (.data [1, 2, 3, 4])) s).ctx 3).head = 1 ∧
    ((after (.copyCmdDone 0 .timeout) s).ctx 3).faultCode = 0x80 ∧
    after (.copyCmdDone 0 .timeout) (noTimeout s) = noTimeout s := by decide +kernel
def complCmd : List Byte := leBytes 8 0x6000 ++ leBytes 8 0x77 ++ List.replicate 47 0 ++ [2]
theorem test_complete :
    let s := carry complCmd none (withCtx 3 { ctx0 with tail := 2, finished := 5, numstat := 1 } up)
    cmdKind complCmd = 2 ∧ (∀ b ∈ (complCmd.drop 0x10).take 47, b = 0) ∧
    (after (.complete ⟨0, none⟩) s).out =
      [.hostWrite 0 0x6000 (leBytes 8 0x77 ++ [3, 0, 0, 0, 1, 0, 0, 0] ++ leBytes 8 5) false,
       .hostWrite 0 0x6018 [1, 0, 0, 0, 1, 0, 0, 0] false] ∧
    ((after (.complete ⟨0, some 1⟩) s).ctx 3).faultCode = 0x80 ∧ (after (.complete ⟨0, some 1⟩) s).out.length = 1 ∧
    after (.complete ⟨0, some 2⟩) s = after (.complete ⟨0, none⟩) s ∧ ((after (.complete ⟨0, some 2⟩) s).ctx 3).faultValid = false ∧
    s.hostUsable (s.hostOf 0) = true := by decide +kernel
theorem test_fenceWaitEnd :
    ((after (.fenceWaitEnd 3) (withCtx 3 { ctx0 with fenced := true } up)).ctx 3).fenced = false ∧
    ((after (.fenceWaitEnd 3) (withCtx 3 { ctx0 with fenced := true, live := 1 } up)).ctx 3).fenced = true := by
  decide +kernel

/-! ## Micro-batch slots and off-load windows -/

/-- Flag 47 of engine 127, CONSUME, ARM, THRESH 2. -/
def waitWord : BitVec 64 := BitVec.ofNat 64 (127 + 47 * 2 ^ 11 + 2 ^ 17 + 2 ^ 31 + 2 * 2 ^ 32)
theorem test_slotArm : up.partOfSlot 7 = some 0 ∧ up.partOfEngine 127 = some 0 ∧ up.flagVal 127 47 < 2 ∧
    (after (.slotArm 0 7 waitWord) up).mslot 7 =
      { MSlot.reset with engine := 127, flag := 47, consume := true, arm := true, thresh := 2 } := by decide +kernel
theorem test_slotOpen :
    let s := (after (.slotArm 0 7 waitWord) up).setFlag 127 47 3
    (s.mslot 7).arm = true ∧ s.slotTurn 7 = true ∧ ((after (.slotOpen 7) s).mslot 7).arm = false ∧
    ((after (.slotOpen 7) s).mslot 7).opens = 1 ∧ (after (.slotOpen 7) s).flagVal 127 47 = 1 := by decide +kernel

def ofl0 : Ofl :=
  { Ofl.reset with host := 0x5000, pier := 0x100, len := 4, thresh := 2, trigEngine := 1, trigFlag := 3,
                   doneEngine := 2, doneFlag := 4, doneValid := true }
theorem test_oflArm : up.oflReach 0 0 0 = true ∧ up.oflOk 0 ofl0 = true ∧
    ((after (.oflArm 0 0 0 3) (up.setOfl 0 0 ofl0)).ofl 0 0) = { ofl0 with arm := true, dir := true } := by decide +kernel
theorem test_oflFire :
    let s := (up.setOfl 0 0 { ofl0 with arm := true }).setFlag 1 3 5
    s.oflTurn 0 0 = true ∧ ((after (.oflWindowFire 0 0) s).ofl 0 0).busy = true ∧
    (after (.oflWindowFire 0 0) s).flagVal 1 3 = 3 := by decide +kernel
theorem test_oflCopyDone :
    let s := up.setOfl 0 0 { ofl0 with busy := true, sent := true, copy := some { host := 0x5000, target := .pier 0x100, len := 4, dir := 0 } }
    let t := after (.oflCopyDone 0 0 (.data [1, 2, 3, 4])) s
    s.courseAwake 0 = true ∧ (t.ofl 0 0).count = 1 ∧ t.flagVal 2 4 = 1 ∧ t.readLoc (.pier 0x100) 4 = [1, 2, 3, 4] := by
  decide +kernel

/-! ## Items -/

def readySlot (d : ItemDesc) (stamp : BitVec 32) (listed : Nat) : HodSlot :=
  { desc := d, status := .ready, stamp := stamp, listed := listed, limit := 50000, saved := none }
/-- Engine 0 is idle, and hod slot `k` of course `c` holds a ready item. -/
def idle (c k : Nat) (h : HodSlot) : State :=
  { up with
    engines := [(0, { Engine.reset with act := .idle, slot := 0, g := [(9, 5)], numstat := 3 })]
    courses := [(c, { Course.reset with enabled := true, hod := [(k, h)] })] }
def cand (c k : Nat) (h : HodSlot) : Candidate := { c := c, k := k, h := h, tied := none }

theorem test_itemStart :
    let h := readySlot { desc0 with entry := 0x80, arg := 0x8000000000000000 } 0 1
    let x := ((idle 1 5 h).startItem 0 (cand 1 5 h)).eng 0
    h.saved = none ∧ x.pc = 0x80 ∧ x.gr 1 = 0x8000000000000000 ∧ x.gr 2 = 7 ∧ x.gr 3 = 1 ∧ x.gr 9 = 0 ∧ x.numstat = 0 := by
  decide +kernel
theorem test_engineWake :
    let h := readySlot { desc0 with entry := 0x80 } 0 0
    (idle 0 5 h).mayChoose 0 = true ∧ bestOf (Candidate.rank 0) ((idle 0 5 h).ownItems 0) = some (cand 0 5 h) ∧
    ((after (.engineWake 0) (idle 0 5 h)).eng 0).item = some (0, 5) ∧
    ((after (.engineWake 0) (idle 0 5 h)).eng 0).pc = 0x80 := by decide +kernel
/-- An engine without own items steals from another course of its partition. -/
theorem test_steal :
    let h := readySlot { desc0 with affinity := 32 } 0 1
    let s := { idle 1 5 h with cfg := { up.cfg with hod := [(0, { steal := true, far := true, near := 15 })] } }
    s.mayChoose 0 = true ∧ s.ownItems 0 = [] ∧ s.stealItem 0 = some (cand 1 5 h) ∧
    ((after (.engineWake 0) s).eng 0).item = some (1, 5) ∧ ((after (.engineWake 0) s).eng 0).stolen = 1 ∧
    ((after (.engineWake 0) s).crs 1).hodStolen = 1 := by decide +kernel

/-- A descriptor for engine 33, PRIO 6, no extents. -/
def spawnBytes : List Byte :=
  leBytes 4 0x40 ++ leBytes 2 0x60 ++ leBytes 2 33 ++ leBytes 4 9 ++ leBytes 4 0 ++ List.replicate 46 0 ++ [0xFF, 0]
def fsp : Fields := { f0 with d := 1, a := 2 }
def spawnState : State := (inLs (word 0x70 fsp [(2, 0x40)]) 0x40 spawnBytes).setCtx 0 { Ctx.reset with prio := 2 }
theorem test_spawn : Issues spawnState 0 0x70 fsp r0 ∧ spawnState.checkItem spawnBytes 0 true false = 0 ∧
    (spawnState.crs 1).freeSlots.head? = some 0 ∧
    (let t := after (.spawn 0 fsp) spawnState
     (t.eng 0).spawns = [(1, 0)] ∧ (t.eng 0).gr 1 = 0 ∧
     (t.hodSlot 1 0).map (fun h => (h.status, h.desc.prio)) = some (.pending, 2)) := by unfold Issues; decide +kernel
theorem test_spawn_full :
    let s := spawnState.modCrs 1 fun y => { y with hod := (List.range 256).map fun k => (k, slot0) }
    Issues s 0 0x70 fsp r0 ∧ (s.crs 1).freeSlots = [] ∧ ((after (.spawn 0 fsp) s).eng 0).gr 1 = 5 ∧
    ((after (.spawn 0 fsp) s).crs 0).spawnFull = 1 := by unfold Issues; decide +kernel
/-- NET is not for a spawned item: FORMAT. -/
theorem test_spawn_bad :
    let s := inLs spawnState 0x44 [0x63]
    s.checkItem (s.lsRead 0 0x40 64) 0 true false = 2 ∧ ((after (.spawn 0 fsp) s).eng 0).gr 1 = 2 ∧
    ((after (.spawn 0 fsp) s).eng 0).spawns = [] := by decide +kernel

/-- Two routes, one block, CAP 2, 1 entry an item, at most 4 items; AFF_FIRST 32, AFF_MOD 2, AFF_STEP 1. LIST pier 0,
RECORDS pier 0x1000. -/
def dispBytes (blocks : Nat) : List Byte :=
  leBytes 8 (2 ^ 63) ++ leBytes 8 (2 ^ 63 + 0x1000) ++ leBytes 2 2 ++ leBytes 2 blocks ++ leBytes 2 2 ++ leBytes 2 1 ++
  leBytes 2 4 ++ leBytes 2 2 ++ leBytes 2 32 ++ leBytes 2 1 ++ leBytes 4 100 ++ leBytes 4 0 ++ List.replicate 24 0 ++
  (leBytes 4 0x40 ++ List.replicate 58 0 ++ [0xFF, 0])
def dispState (blocks : Nat) : State :=
  (inLs (word 0x71 fsp [(2, 0x80)]) 0x80 (dispBytes blocks)).writePier 0 (leBytes 4 2 ++ leBytes 4 1)
/-- Counts 2 and 1: three items, on engines 32, 32 and 33. -/
theorem test_spawnd :
    let s := dispState 1
    Issues s 0 0x71 fsp r0 ∧ dispatchOk (dispBytes 1) = true ∧ (∀ x ∈ s.engines, x.2.copies = []) ∧
    (s.inExtents r0 false 0x8000000000000000 0 8).isSome = true ∧
    (let t := after (.spawnd 0 fsp) s
     (t.eng 0).gr 1 = 3 ∧ (t.eng 0).spawns = [(1, 0), (1, 1), (1, 2)] ∧
     (t.hodSlot 1 2).map (fun h => (h.desc.affinity, h.desc.seq)) = some (33, 102)) := by unfold Issues; decide +kernel
theorem test_spawnd_none : Issues (dispState 0) 0 0x71 fsp r0 ∧ dispatchOk (dispBytes 0) = true ∧
    ((after (.spawnd 0 fsp) (dispState 0)).eng 0).spawns = [] := by unfold Issues; decide +kernel

/-- The save area of hod slot 0: PC + 8, then g1 and so on; the engine goes on with the item it yielded. -/
theorem test_yield :
    let s := word 0x72 f0 [(1, 0x1122)]
    let t := after (.yield 0 f0) s
    Issues s 0 0x72 f0 r0 ∧ (s.hodSlot 0 0).isSome = true ∧
    t.readLoc (.cs 0 0x3E0000) 12 = [8, 0, 0, 0, 0, 0, 0, 0, 0x22, 0x11, 0, 0] ∧
    (t.eng 0).item = some (0, 0) ∧ (t.eng 0).pc = 8 ∧ (t.eng 0).gr 1 = 0x1122 := by unfold Issues; decide +kernel

theorem test_finish :
    let s := (word 0x73 f0 []).setCtx 0 { Ctx.reset with live := 1 }
    let t := after (.finish 0 f0) s
    Issues s 0 0x73 f0 r0 ∧ s.itemCopies 0 0 0 = false ∧ s.itemNets 0 0 0 = false ∧ (t.eng 0).act = .idle ∧
    t.hodSlot 0 0 = none ∧ (t.ctx 0).finished = 1 ∧ (t.ctx 0).live = 0 ∧ (t.eng 0).finished = 1 := by
  unfold Issues; decide +kernel
/-- With a copy outstanding FINISH waits; once it has completed the commit follows. -/
theorem test_finish_waits :
    let s := (word 0x73 f0 []).modEng 0 fun x => { x with copies := [op0] }
    Issues s 0 0x73 f0 r0 ∧ s.itemCopies 0 0 0 = true ∧ ((after (.finish 0 f0) s).eng 0).act = .finishing := by
  unfold Issues; decide +kernel
theorem test_finishCommit :
    let s := (run0 []).modEng 0 fun x => { x with act := .finishing, numstat := 5 }
    s.mayResume 0 = true ∧ s.run 0 = some r0 ∧ s.itemCopies 0 0 0 = false ∧
    ((after (.finishCommit 0) s).eng 0).act = .idle ∧ ((after (.finishCommit 0) s).ctx 0).numstat = 5 := by decide +kernel
/-- The undo list is taken from the flags, and the item starts afresh. -/
theorem test_itemReexec :
    let s := (((run0 []).modEng 0 fun x => { x with act := .idle, item := none, reexecItem := some (0, 0), undo := [(3, 2)] }).setFlag
      0 3 5)
    let t := after (.itemReexec 0) s
    s.mayResume 0 = true ∧ (s.hodSlot 0 0).isSome = true ∧ t.flagVal 0 3 = 3 ∧ (t.eng 0).reexec = 1 ∧
    (t.eng 0).item = some (0, 0) ∧ (t.eng 0).act = .run := by decide +kernel

/-- A yielded item, an operation of which has met CHECK, starts afresh when it is chosen, its flag changes undone. -/
def save0 : Saved :=
  { numstat := 3, contrib := none, flushes := [], spawns := [], undo := [(3, 2)], itemCyc := 9, failed := false }
theorem test_failedRestart :
    let h := { readySlot { desc0 with entry := 0x80 } 0 0 with status := .yielded 0, saved := some { save0 with failed := true } }
    let s := (idle 0 5 h).setFlag 0 3 5
    let t := after (.engineWake 0) s
    s.courseAwake 0 = true ∧ (t.eng 0).pc = 0x80 ∧ (t.eng 0).act = .run ∧ (t.eng 0).reexec = 1 ∧ (t.eng 0).numstat = 0 ∧
    t.flagVal 0 3 = 3 ∧ (t.eng 0).undo = [] ∧ (t.eng 0).item = some (0, 5) := by decide +kernel

/-! ## Faults and system instructions -/

theorem test_itemFault :
    let s := (run0 []).setCtx 0 { Ctx.reset with live := 1 }
    let u := s.itemFault 0 0x05 0x20 0x18 0x77
    haltingCode 0x05 = false ∧ (u.eng 0).faultCode = 5 ∧ (u.eng 0).faultPc = 0x18 ∧ (u.ctx 0).faultCode = 5 ∧
    (u.ctx 0).ended = 1 ∧ u.hodSlot 0 0 = none := by decide +kernel
/-- Each row faults with ILLEGAL when field C, which it does not use, is not zero. -/
theorem test_unusedField : ∀ row ∈ engineRows.filter (fun x => x.2 ∉ [0x16, 0x17, 0x18, 0x20, 0x30, 0x43, 0x47]),
    Issues (word row.2 { f0 with c := 1 } []) 0 row.2 { f0 with c := 1 } r0 ∧
    ((after (row.1 0 { f0 with c := 1 }) (word row.2 { f0 with c := 1 } [])).eng 0).faultCode = 1 := by
  unfold Issues; decide +kernel
/-- Every row: a fetch outside the usable course store faults with ADDR, an unknown opcode with ILLEGAL. -/
theorem test_fetch : ∀ row ∈ engineRows,
    (let s := (run0 []).modEng 0 fun x => { x with pc := 0x3E0000 }
     s.mayIssue 0 = true ∧ s.run 0 = some r0 ∧ ((after (row.1 0 f0) s).eng 0).faultCode = 2) ∧
    (let s := word 0x19 f0 []
     s.mayIssue 0 = true ∧ knownOpc (leNat (s.readLoc (.cs 0 0) 8) / 2 ^ 56) = false ∧
     ((after (row.1 0 f0) s).eng 0).faultCode = 1) := by decide +kernel
def g1of (i : BitVec 32) : BitVec 64 :=
  ((after (.sysr 0 { f0 with d := 1, imm := i }) (word 0xF0 { f0 with d := 1, imm := i } [])).eng 0).gr 1
theorem test_sysr : Issues (word 0xF0 { f0 with d := 1, imm := 6 } []) 0 0xF0 { f0 with d := 1, imm := 6 } r0 ∧
    g1of 6 = 5 ∧ g1of 3 = 7 ∧ g1of 5 = 0 := by unfold Issues; decide +kernel
theorem test_trap : Issues (word 0xF1 { f0 with imm := 63 } []) 0 0xF1 { f0 with imm := 63 } r0 ∧
    ((after (.trap 0 { f0 with imm := 63 }) (word 0xF1 { f0 with imm := 63 } [])).eng 0).faultCode = 0x7F := by
  unfold Issues; decide +kernel
theorem test_cfence : Issues (word 0xF2 f0 []) 0 0xF2 f0 r0 ∧
    ((after (.cfence 0 f0) (word 0xF2 f0 [])).eng 0).act = .run ∧
    ((after (.cfence 0 f0) ((word 0xF2 f0 []).modEng 0 fun x => { x with copies := [op0] })).eng 0).act = .waitFence := by
  unfold Issues; decide +kernel
theorem test_cfenceMet :
    let s := (run0 []).modEng 0 fun x => { x with act := .waitFence }
    s.mayResume 0 = true ∧ ((after (.cfenceMet 0) s).eng 0).act = .run := by decide +kernel

/-! ## Network operations -/

/-- A network descriptor: DEST 9, target engine 40, target flag 3, class, LOCAL pier 0x100, REMOTE pier 0x200. -/
def netBytes (tc : Nat) (loc rem len w1c : Nat) (ctl : Nat) : List Byte :=
  leBytes 4 9 ++ leBytes 2 40 ++ [3, BitVec.ofNat 8 tc] ++ leBytes 8 loc ++ leBytes 8 rem ++ leBytes 4 len ++
    leBytes 2 w1c ++ [BitVec.ofNat 8 ctl, 0]
def fnet : Fields := { f0 with d := 47, a := 2 }
def netState (opc : BitVec 8) (b : List Byte) : State := inLs (word opc fnet [(2, 0x40)]) 0x40 b
def rem0 : Nat := 2 ^ 63 + 0x200

theorem test_nput :
    let s := netState 0x80 (netBytes 5 (pa 0x100) rem0 4096 0 0)
    Issues s 0 0x80 fnet r0 ∧ (s.operand r0 false 0x8000000000000100 4096).toOption = some (.pier 0x100) ∧
    (remoteAddr (BitVec.ofNat 64 rem0)).isSome = true ∧
    ((after (.nput 0 fnet) s).eng 0).nets.map (fun o => (o.kind, o.dest, o.tc, o.len)) = [(.put, 9, 5, 4096)] := by
  unfold Issues; decide +kernel
theorem test_nget :
    let s := netState 0x81 (netBytes 1 (pa 0x100) rem0 4097 0 0)
    Issues s 0 0x81 fnet r0 ∧ (s.operand r0 true 0x8000000000000100 4097).toOption = some (.pier 0x100) ∧
    ((after (.nget 0 fnet) s).eng 0).nets.map (fun o => o.parts.map fun g => (g.off, g.len)) = [[(0, 4096), (4096, 1)]] := by
  unfold Issues; decide +kernel
theorem test_nget_empty :
    let s := netState 0x81 (netBytes 1 0 0 0 0 0)
    Issues s 0 0x81 fnet r0 ∧ (after (.nget 0 fnet) s).flagVal 0 47 = 1 ∧ ((after (.nget 0 fnet) s).eng 0).nets = [] := by
  unfold Issues; decide +kernel
theorem test_nflag :
    let s := netState 0x82 (netBytes 2 0 0 0 0x1234 0)
    Issues s 0 0x82 fnet r0 ∧ ((after (.nflag 0 fnet) s).eng 0).nets.map (fun o => (o.kind, o.amount)) =
      [(.flag, 0x1234)] := by unfold Issues; decide +kernel
/-- SEND_EN without WAIT_EN; WAIT_EN on F10 for 2 with SEND_EN. -/
theorem test_nstep :
    let s := netState 0x83 (netBytes 1 (pa 0x100) rem0 16 (10 + 2 * 256) 2)
    let w := netState 0x83 (netBytes 1 (pa 0x100) rem0 16 (10 + 2 * 256) 3)
    Issues s 0 0x83 fnet r0 ∧ Issues w 0 0x83 fnet r0 ∧ s.half s.rte.inj = .free ∧
    ((after (.nstep 0 fnet) s).eng 0).nets.map (·.sent) = [true] ∧
    ((after (.nstep 0 fnet) w).eng 0).nets.map (·.sent) = [false] ∧
    ((after (.nstep 0 fnet) (w.setFlag 0 10 2)).eng 0).nets.map (·.sent) = [true] ∧
    (after (.nstep 0 fnet) (w.setFlag 0 10 3)).flagVal 0 10 = 1 := by unfold Issues; decide +kernel
/-- A step of WAIT_EN alone completes when its flag has come. -/
theorem test_nstepWaitMet :
    let s := (after (.nstep 0 fnet) (netState 0x83 (netBytes 1 0 0 0 (10 + 2 * 256) 1))).setFlag 0 10 2
    let t := after (.nstepWaitMet 0 0) s
    (s.stepAt 0 0).isSome = true ∧ s.courseAwake 0 = true ∧ (t.eng 0).nets = [] ∧ t.flagVal 0 10 = 0 ∧
    t.flagVal 0 47 = 1 ∧ (t.part 0).steps = 1 := by decide +kernel
theorem test_progressTimeout :
    let s := (after (.nstep 0 fnet) (netState 0x83 (netBytes 1 0 0 0 (10 + 2 * 256) 1))).modEng 0 fun x =>
      { x with nets := x.nets.map fun o => { o with step := o.step.map fun w => { w with timer := 50000 * 25 } } }
    let t := after (.progressTimeout 0 0) s
    (s.stepAt 0 0).isSome = true ∧ s.partOfEngine 0 = some 0 ∧ s.runner 0 0 0 = 0 ∧ (t.part 0).halted = true ∧
    (t.part 0).failPeer = 9 ∧ (t.part 0).failPort = 15 ∧ (t.part 0).timerCount = 1 ∧ t.flagVal 0 47 = 0 := by
  decide +kernel

/-! ## Uncorrectable reads -/

def liveP (s : State) : State :=
  { s with piers := (List.range 32).map fun p => (p, { Pier.reset with fitted := true, trained := true }) }
/-- Engine 0 with a copy of 128 bytes from pier 0, whose lines are 0x200 and 0x240 there. -/
def copying : State :=
  liveP (((run0 []).writePier 0x200 (List.replicate 128 3)).modEng 0 fun x => { x with copies := [{ op0 with
    segs := [{ src := .pier 0x200, dst := .ls 0 0x100, len := 128 }], srcSnap := List.replicate 128 3,
    dstSnap := List.replicate 128 0, outs := [(.ls 0 0x100, List.replicate 128 3)] }] })
/-- A copy of the running item meets its second line: it stops ahead of it, the item faults with PIER_UE, the partition
halts. A line that it does not read is not its. -/
theorem test_ue_copy :
    let o := (copying.copyOp 0 0).getD op0
    let t := after (.pierUncorrectableRead (.engineCopy 0 0 100) 0 0x278) copying
    copying.pierLive 0 = true ∧ copying.runner 0 0 0 = 0 ∧ copying.copyBound o 0 0x278 = some 64 ∧
    copying.copyBound o 0 0x280 = none ∧ o.srcSnap = copying.gather (segReads o.segs) ∧
    o.dstSnap = copying.gather (segWrites o.segs) ∧ (t.eng 0).copies = [] ∧ (t.part 0).halted = true ∧
    t.readLoc (.ls 0 0x13F) 2 = [3, 0] ∧ (t.pier 0).ueLocal = 0x240 ∧ (t.pier 0).ue = 1 ∧ (t.eng 0).faultCode = 8 ∧
    t.flagVal 0 0 = 0 ∧ after (.pierUncorrectableRead (.engineCopy 0 0 0) 0 0x280) copying = copying := by decide +kernel
/-- COPY commands: into the module, of a line that it covers in part, and out of it. -/
theorem test_ue_command :
    let s := liveP (carry (copyCmd 100) (some { host := 0x5000, target := .pier 0x100, len := 100, dir := 0 }) ctx3)
    let o := leBytes 8 0x5000 ++ leBytes 8 (2 ^ 63 + 0x100) ++ leBytes 4 100 ++ [1] ++ List.replicate 42 0 ++ [1]
    let u := liveP (carry o none ctx3)
    let t := after (.pierUncorrectableRead (.copyCommand 0 100) 0 0x140) s
    let v := after (.pierUncorrectableRead (.copyCommand 0 100) 0 0x140) u
    (s.copyCheck 0 (copyCmd 100)).isOk = true ∧ s.lineOffset 0 0x140 true 0 [(.pier 0x100, 100)] = some 64 ∧
    s.lineOffset 0 0x100 true 0 [(.pier 0x100, 100)] = none ∧ (t.ctx 3).faultCode = 8 ∧ (t.part 0).halted = true ∧
    (u.copyCheck 0 o).toOption = some { host := 0x5000, target := .pier 0x100, len := 100, dir := 1 } ∧
    (v.ctx 3).faultCode = 8 ∧ v.out = [.hostWrite 0 0x5000 (List.replicate 64 0) true] := by decide +kernel
theorem test_csUe_fetch :
    let t := after (.courseStoreUncorrectableRead (.fetch 0)) (run0 [])
    (run0 []).mayIssue 0 = true ∧ (t.part 0).halted = true ∧ (t.eng 0).faultCode = 9 ∧
    ((after (.courseStoreUncorrectableRead (.corrected 63 5)) up).crs 63).csEcc = 5 := by decide +kernel
theorem test_ue_hostRead :
    let t := after (.pierUncorrectableRead (.hostRead 0) 0 0) (liveP up)
    up.hostUsable 0 = true ∧ t.out = [.bar4 0 none] ∧ (t.host 0).space.aerStatus = 0x8000 ∧ (t.pier 0).ueKind = 2 := by
  decide +kernel
theorem test_ue_scrub : ((after (.pierUncorrectableRead .scrub 0 0) (liveP up)).pier 0).ueKind = 5 := by decide +kernel
theorem test_ue_castSend :
    let t := after (.pierUncorrectableRead .castSend 0 0) (liveP { up with ckp := { Ckp.reset with st := 1 } })
    t.ckp.st = 5 ∧ t.ckp.code = 6 := by decide +kernel
def cx : Ctx := { Ctx.reset with enable := true, ringOrder := 4, ring := 1, tail := 2 }
theorem test_ue_ringFetch :
    let s := liveP (up.setCtx 3 cx)
    let t := after (.pierUncorrectableRead (.ringFetch 0) 0 0) s
    s.chooseCtx 0 = some 3 ∧ (s.ctx 3).inPier = true ∧ (t.ctx 3).faultCode = 8 ∧ (t.part 0).haltNoEngine = true := by
  decide +kernel
def rs0 : RSlot :=
  { op := 0, lenRegs := 1, count := 2, firstSeq := 6, doneValid := true, doneEngine := 0, doneFlag := 3,
    dest := .pier 0x100, bufOff := 0x1000, got := [], combined := 2, acc := slotStart 0 1 }
theorem test_ue_slot :
    let s := liveP ((run0 []).modCrs 0 fun y => { y with rslots := [(4, { rs0 with dest := .pier 0x120 })] })
    let t := after (.pierUncorrectableRead (.slotResult 0 4 1) 0 0x180) s
    s.lineOffset 0 0x140 true 0 [(.pier 0x120, 128)] = none ∧ s.lineOffset 0 0x180 true 0 [(.pier 0x120, 128)] = some 96 ∧
    (s.rslot 0 4).isSome = true ∧ s.partOfCourse 0 = some 0 ∧ t.rslot 0 4 = none ∧ t.flagVal 0 3 = 0 ∧
    (t.part 0).haltCause = 8 := by decide +kernel
/-- Engine 0 with a copy of 16 bytes from `src` to pier 0. -/
def copyingFrom (src : Loc) : State :=
  liveP ((run0 []).modEng 0 fun x => { x with copies := [{ op0 with
    segs := [{ src := src, dst := .pier 0x100, len := 16 }], srcSnap := List.replicate 16 0, dstSnap := List.replicate 16 0,
    outs := [(.pier 0x100, List.replicate 16 0)] }] })
theorem test_csUe_copy :
    let s := copyingFrom (.cs 0 0x100)
    let o := (s.copyOp 0 0).getD op0
    let t := after (.courseStoreUncorrectableRead (.copy 0 0 9 0 0x108)) s
    o.wordBound (.cs 0 0x108) = some 8 ∧ o.wordBound (.cs 0 0x110) = none ∧ (t.eng 0).copies = [] ∧
    (t.part 0).haltCause = 9 ∧ (t.eng 0).faultAddr = 0x4000000000000108 ∧
    after (.courseStoreUncorrectableRead (.copy 0 0 9 0 0x110)) s = s := by decide +kernel
def net0 : NetOp :=
  { id := 0, kind := .put, flag := 47, flagEngine := 0, die := 0, dest := 9, tc := 1, loc := .cs 0 0x100, remote := 0,
    len := 16, tgtEngine := 0, tgtFlag := 0x3F, amount := 0, step := none, parts := [], sent := true, epoch := false,
    eval := false, ctx := 0, itemSeq := 7, live := true, reset := false, homeCourse := 0, slot := 0, opc := 0x80, pc := 0 }
def withNet (o : NetOp) (s : State) : State := s.modEng 0 fun x => { x with nets := [o], nextNet := o.id + 1 }
theorem test_csUe_net :
    let s := withNet net0 (run0 [])
    let t := after (.courseStoreUncorrectableRead (.net 0 0 0 0x10F)) s
    s.netOp 0 0 = some net0 ∧ s.runner 0 0 0 = 0 ∧ (t.eng 0).nets = [] ∧ (t.part 0).haltCause = 9 ∧
    (t.eng 0).faultAddr = 0x400000000000010F ∧ after (.courseStoreUncorrectableRead (.net 0 0 0 0x110)) s = s := by
  decide +kernel

/-! ## Slots, spares, piers -/

/-- Engine 0 in physical slot 0, with a spare in slot 33. -/
def sparing (spare : Bool) : State :=
  { up with
    engines := [(0, { Engine.reset with act := .idle, slot := 0 })]
    courses := [(0, { Course.reset with enabled := true, phys := if spare then [(33, 1)] else [] })] }
theorem test_slotRetire :
    let t := after (.slotRetire 0 (.corrected 1000)) (sparing true)
    (sparing true).engEnabled 0 = true ∧ (sparing true).hasSlot 0 = true ∧ (sparing true).freeSpares 0 = [33] ∧
    (t.eng 0).replacing = some 33 ∧ Tab.get 0 (t.crs 0).phys 0 = 2 ∧ t.sec.repairs = [.slot 0 0] ∧
    ((after (.slotRetire 0 (.corrected 999)) (sparing true)).eng 0).replacing = none := by decide +kernel
theorem test_slotRetire_orphan :
    let s := (sparing false).modEng 0 fun x => { x with checkMet := true }
    let t := after (.slotRetire 0 .pendingCheck) s
    s.freeSpares 0 = [] ∧ (t.eng 0).orphan = true ∧ (t.eng 0).slot = 0x3F := by decide +kernel
theorem test_spareTakeover :
    let s := (sparing true).modEng 0 fun x => { x with replacing := some 33 }
    ((after (.spareTakeover 0 false) s).eng 0).slot = 33 ∧
    Tab.get 0 ((after (.spareTakeover 0 false) s).crs 0).phys 33 = 0 ∧
    ((after (.spareTakeover 0 true) s).part 0).haltCause = 0x0A ∧ ((after (.spareTakeover 0 true) s).part 0).halted = true := by
  decide +kernel
theorem test_layerMark :
    let s := (liveP up).modPier 5 fun x => { x with layerCe := [(11, 4096)] }
    ((after (.layerMark 5 11) s).pier 5).marked = true ∧ ((after (.layerMark 5 11) s).pier 5).markedLayer = 11 ∧
    ((after (.layerMark 5 10) s).pier 5).marked = false ∧
    ((after (.layerMark 5 11) (s.modPier 5 fun x => { x with marked := true, markedLayer := 2 })).pier 5).markedLayer = 2 := by
  decide +kernel
theorem test_patrolScrub : (up.dom (domMc 15)).level < 2 ∧
    Tab.get 0 ((after (.patrolScrub 31 0 (.corrected 11)) (liveP up)).pier 31).layerCe 11 = 1 ∧
    ((after (.patrolScrub 31 0 .passDone) (liveP up)).pier 31).passes = 1 := by decide +kernel
theorem test_scrubWake :
    let s := (liveP up).setDom 79 { dom0 with level := 2, asleep := 20 * 3600 * 25000000 }
    ((after (.scrubWake 15) s).dom 79).wakeReq = true ∧ ((after (.scrubWake 15) s).mc 15).scrub = [30, 31] ∧
    ((after (.scrubWake 15) (s.setDom 79 { dom0 with level := 2 })).dom 79).wakeReq = false := by decide +kernel
theorem test_pierHotRefresh : ((after (.pierHotRefresh 0 86) (liveP up)).pier 0).hot = true ∧
    ((after (.pierHotRefresh 0 85) (liveP up)).pier 0).hot = false := by decide +kernel
theorem test_repair :
    let s := { up with sec := { Sec.reset with seed := some (List.replicate 57 1), fp := List.replicate 16 0, repairs := [.layer 5 11, .slot 0 0] } }
    s.masonUp = true ∧ s.sec.fp.length = 16 ∧ s.sec.freePlace = some 0 := by decide +kernel

/-! ## Power levels and the cap -/

/-- A course idle for long enough goes towards Q2. -/
def idling (d n : Nat) : State :=
  { up with doms := up.doms.map fun x => if x.1 = d then (d, { dom0 with idle := some n }) else x,
            cfg := { up.cfg with classes := List.replicate 6 { deepest := 4, tQ2 := 1, tQ3 := 100000, tQ4 := 200000 } } }
theorem test_idleDescent : ∃ n : Fin 2000, (idling 0 n).domRuns 0 = true ∧ (idling 0 n).domIdle 0 = true ∧
    (idling 0 n).descentLevel 0 n = 2 ∧ ((after (.idleDescent 0) (idling 0 n)).dom 0).entering = some 2 :=
  ⟨1999, by decide +kernel⟩
theorem test_levelEntry :
    let s := up.setDom 85 { dom0 with entering := some 4 }
    s.domRuns 85 = true ∧ ((after (.levelEntryComplete 85) s).dom 85).level = 4 := by decide +kernel
/-- Three courses of one die wait; DIE_PER is 2. -/
theorem test_wakeGrant :
    let s := { up with pwr := { up.pwr with wakeQ := [0, 1, 2, 16] }
                       doms := up.doms.map fun x => (x.1, { x.2 with level := 2, wakeReq := true }) }
    let t := after .wakeGrantInstant s
    t.pwr.wakeQ = [2] ∧ (t.dom 16).granted = true ∧ (t.dom 2).granted = false ∧ s.cfg.diePer = 2 := by decide +kernel
theorem test_deepGrant :
    let s := { up with pwr := { up.pwr with deepQ := [17], wakeQ := [3] } }
    let t := after (.deepGrant 1) s
    t.pwr.deepQ = [] ∧ t.pwr.wakeQ = [17, 3] ∧ (t.dom 17).deepGiven = true ∧ Tab.get 0 t.pwr.deepAt 1 = 25 := by
  decide +kernel
theorem test_deepGrant_mc :
    let s := { up with pwr := { up.pwr with deepQ := [68] } }
    domDie 68 = 1 ∧ ((after (.deepGrant 1) s).dom 68).granted = true := by decide +kernel
/-- A course comes up and its held additions land. -/
theorem test_domainExit :
    let s := ((up.setDom 3 { dom0 with level := 2, wakeReq := true, granted := true }).modCrs 3 fun y =>
      { y with heldAdds := [(127, 5, 2), (127, 5, 3)] })
    let t := after (.domainExitComplete 3) s
    s.domRuns 3 = true ∧ (t.dom 3).level = 0 ∧ (t.dom 3).wakes = 1 ∧ t.flagVal 127 5 = 5 ∧ (t.crs 3).heldAdds = [] := by
  decide +kernel
theorem test_courseClock : ((after (.courseClockChange 0) { up with pwr := { up.pwr with ft := 3 } }).dom 3).mhz = 150 ∧
    ((after (.courseClockChange 0) up).dom 4).mhz = 1000 := by decide +kernel
theorem test_powerSample : Tab.get 0 (after (.powerSample 700) up).endCycle.pwr.peak 2 = 700 ∧
    Tab.get 0 (after (.powerSample 700) up).pwr.peak 2 = 0 ∧
    (after (.powerSample 700) up).pwr.samples = [700] := by decide +kernel
def sampled (p1 rest ft : Nat) : State :=
  { up with pwr := { up.pwr with samples := p1 :: List.replicate 99 rest, ft := ft } }
/-- P1 401 W above CAP takes 4, P100 above takes 1, P100 below 95 % gives 1. -/
theorem test_throttle : (after .throttleTick (sampled 2801 0 16)).pwr.ft = 12 ∧
    (after .throttleTick (sampled 2401 2401 16)).pwr.ft = 15 ∧ (after .throttleTick (sampled 100 100 15)).pwr.ft = 16 ∧
    (after .throttleTick (sampled 2350 2350 15)).pwr.ft = 15 := by decide +kernel
theorem test_pwrCap : up.writable = true ∧ up.ownerOrBus .hp0 = true ∧ up.ownerOrBus .smb = true ∧
    (after (.pwrCapWrite .hp0 800) up).pwr.capW = 800 ∧ (after (.pwrCapWrite .hp0 2401) up).pwr.capW = 2400 ∧
    (after (.pwrCapWrite .smb 1000) up).pwr.capW = 1000 := by decide +kernel
theorem test_telemetry :
    (after (.telemetryUpdate { vin := 1, iin := 2, pin := 3, rails := [], temps := [40] }) up).pwr.temps = [40] := by
  decide +kernel

/-! ## Ports -/

def port0 : Port := { Port.reset with st := .up, fitted := true }
def withPort (x : Port) : State := up.setPort 9 x
def cw (fl : List (BitVec 2 × List Byte)) : Codeword := { correctable := true, symbols := 15, seq := 0, flits := fl }
def flit (bs : List Byte) : List Byte := bs ++ List.replicate (128 - bs.length) 0
/-- The outcome of a codeword at port 9: what it counts, and its control flits. -/
theorem test_codeword :
    let s := withPort port0
    let full := withPort { port0 with txHeld := List.replicate 512 0 }
    let bad (n : Nat) : Codeword := { correctable := n ≤ 15, symbols := n, seq := 0, flits := [] }
    let data := cw [(0, flit []), (1, flit []), (1, flit []), (0, flit []), (1, flit [])]
    let idl := after (.codewordReceive 9 (cw [(3, flit (leBytes 4 77 ++ [2]))])) (withPort { port0 with light := true })
    let crd := after (.codewordReceive 9 (cw [(2, flit (1 :: 0 :: leBytes 2 5 ++ leBytes 2 9))])) (withPort { port0 with txHeld := [4, 5] })
    s.linkOn 9 = true ∧ (∀ f ∈ data.flits.take 5, f.1 = 0 ∨ f.1 = 1) ∧
    ((after (.codewordReceive 9 data) s).port 9).rxFlits = 5 ∧ ((after (.codewordReceive 9 data) s).port 9).fecCorr = 15 ∧
    (after (.codewordReceive 9 (bad 16)) s).out = [.nak 9 0] ∧ (after (.codewordReceive 9 (bad 16)) full).out = [] ∧
    ((after (.codewordReceive 9 { cw [] with seq := 1 }) s).port 9).rxExpect = 0 ∧
    (idl.port 9).hb = 77 ∧ (idl.port 9).st = .frozen ∧ (crd.port 9).txHeld = [] ∧ Tab.get 0 (crd.port 9).txFreed 0 = 9 ∧
    ((after (.codewordReceive 9 (cw [(2, flit [3, 0, 4])])) s).port 9).nbrValid = true ∧
    (after (.codewordReceive 9 (cw [(2, flit [7])])) s).out = [] := by decide +kernel
theorem test_nak :
    let s := withPort { port0 with txHeld := [4, 5] }
    (after (.nak 9 5) s).out = [.replay 9 5] ∧ ((after (.nak 9 5) s).port 9).nakCount = 1 ∧ (after (.nak 9 7) s).out = [] := by
  decide +kernel
theorem test_nakLimit : ((after (.nakLimit 9) (withPort { port0 with nakCount := 8 })).port 9).st = .down ∧
    ((after (.nakLimit 9) (withPort { port0 with nakCount := 7 })).port 9).st = .up := by decide +kernel
theorem test_credit :
    let t := after (.credit 9 (List.replicate 16 3) 5) (withPort { port0 with txHeld := [4, 5, 6], nakCount := 2 })
    (t.port 9).txHeld = [6] ∧ Tab.get 0 (t.port 9).txFreed 15 = 3 ∧ (t.port 9).nakCount = 0 := by decide +kernel
theorem test_creditSend :
    let s := withPort { port0 with rxCount := [(1, 7)] }
    let w := { s with rte := { s.rte with arrived := [{ die := 3, pkt := blankPkt, whole := false, inp := some (9, 1) }] } }
    (after (.creditSend 9) s).out = [.credit 9 (0 :: 7 :: List.replicate 14 0) 0x3FF] ∧ w.inputHeld 9 1 = 1 ∧
    (after (.creditSend 9) w).out = [.credit 9 (0 :: 6 :: List.replicate 14 0) 0x3FF] ∧
    ((after (.creditSend 9) w).port 9).txFill = 1 ∧ ((after (.creditSend 9) w).port 9).txHeld = [0] := by decide +kernel
theorem test_idle :
    let t := after (.idle 9 77 false true) (withPort { port0 with hbMissing := true, light := true })
    (t.port 9).st = .frozen ∧ (t.port 9).hb = 77 ∧ (t.port 9).hbMissing = false ∧
    ((after (.idle 9 77 false true) (withPort { port0 with st := .down })).port 9).st = .down := by decide +kernel
/-- Freeze bits on two ports in one cycle: PORT is the lower one. -/
theorem test_freezeWave :
    let s := { withPort port0 with cfg := { up.cfg with slice := { up.cfg.slice with freezeWave := true } } }
    let t := after (.idle 9 77 true false) (s.setPort 8 port0)
    s.ready = true ∧ t.frz.wave = true ∧ t.frz.port = 9 ∧ (after (.idle 8 77 true false) t).frz.port = 8 ∧
    (after (.idle 8 77 true false) { t with gen := { t.gen with time := 1 } }).frz = t.frz := by decide +kernel
theorem test_heartbeatTick : (after .heartbeatTick (withPort port0)).out = [.idle 9 1 false false] := by decide +kernel
theorem test_hbMissing : ((after (.hbMissing 9) (withPort { port0 with hbAge := 625 })).port 9).hbMissing = true ∧
    ((after (.hbMissing 9) (withPort { port0 with hbAge := 624 })).port 9).hbMissing = false := by decide +kernel
def qp : QPkt := { pkt := blankPkt, vc := 2, whole := true, inp := none }
theorem test_linkSilence :
    let t := after (.linkSilenceTimeout 9) (withPort { port0 with queue := [qp] })
    up.portsOn = true ∧ (t.port 9).st = .down ∧ (t.port 9).downDrop = 1 ∧ (t.port 9).downEvents = 1 := by decide +kernel
theorem test_portTrained :
    let s := withPort { port0 with st := .training, nbrDead := true, light := true }
    s.mayTrain 9 = true ∧ ((after (.portTrained 9 .half) s).port 9).st = .up ∧
    ((after (.portTrained 9 .half) s).port 9).halfWidth = true ∧ ((after (.portTrained 9 .full) s).port 9).halfWidth = false ∧
    ((after (.portTrained 9 .neither) s).port 9).st = .down := by decide +kernel
theorem test_signalDetect : ((after (.signalDetect 9) (withPort { port0 with st := .down, light := true })).port 9).st =
    .training ∧
    let t := after (.signalDetect 9) ((withPort { port0 with st := .down }).setDom 89 { dom0 with level := 2 })
    (t.port 9).st = .down ∧ (t.dom 89).wakeReq = true := by decide +kernel
theorem test_nbrDead : ((after (.nbrDeadSet 9) (withPort { port0 with st := .down, hbAge := 25000 })).port 9).nbrDead = true := by
  decide +kernel
theorem test_frozenPort :
    let s := withPort { port0 with st := .frozen }
    ((after (.nbrTrainingDetect 9) s).port 9).st = .training ∧ ((after (.frozenHoldExpiry 9) s).port 9).st = .down ∧
    ((after (.frozenHoldExpiry 9) (withPort { port0 with st := .frozen, frzHold := 0 })).port 9).st = .frozen := by
  decide +kernel
theorem test_lnkCtrl :
    let s := withPort { port0 with queue := [qp], light := true }
    up.ownedBy 0 = true ∧ ((after (.disable 0 9 2) s).port 9).st = .disabled ∧ ((after (.test 0 9 4) s).port 9).st = .test ∧
    ((after (.retrain 0 9 1) s).port 9).st = .training ∧ ((after (.retrain 0 9 1) s).port 9).downDrop = 1 ∧
    ((after (.retrain 0 9 0) s).port 9).st = .up ∧ ((after (.test 0 9 4) (withPort { port0 with st := .down })).port 9).st = .down ∧
    (after (.disable 0 9 2) (withPort Port.reset)).port 9 = { Port.reset with disableBit := true } := by decide +kernel
def lit : State :=
  { up with ports := (List.range 10).map fun p => (p, { port0 with light := true, lightUnit := true }) }
theorem test_light :
    let p := (bayPorts 2).headD 0
    lit.hasBays = true ∧ bayPorts 2 ≠ [] ∧ ((after (.lightLoss 2) lit).port p).st = .down ∧
    ((after (.laserUnitRemove 2) lit).port p).lightUnit = false ∧
    ((after (.lightReturn 2) (after (.lightLoss 2) lit)).port p).st = .training ∧
    ((after (.lightReturn 2) (after (.laserUnitRemove 2) lit)).port p).st = .down ∧
    ((after (.laserUnitInsert 2) (after (.laserUnitRemove 2) lit)).port p).lightUnit = true := by decide +kernel

/-! ## Routers -/

/-- A WRITE of 8 bytes to pier 0x100 of this node (5, slice 9) from node 9, and its route: die 0 delivers it. -/
def wr0 : Packet :=
  sealed_ { blankPkt with dest := 5, tc := 1, opc := 0x10, src := 9, slice := 9, seq := 6, sdie := 1, len := 8,
                          addr := BitVec.ofNat 48 (2 ^ 47 + 0x100), payload := [1, 2, 3, 4, 5, 6, 7, 8] }
def routed (entry : Nat) : State :=
  { withPort port0 with
    rte := { Rte.reset with half0 := .active, routes := [(0, [(2 ^ 17 + 5, BitVec.ofNat 32 entry)])] } }
    |>.setPort 0 port0
/-- Valid, slice 9, out to this module. -/
def here : Nat := 2 ^ 31 + 10 * 2 ^ 27 + 9 * 2 ^ 12
theorem test_head : (routed here).linkOn 0 = true ∧ ((routed here).port 0).incoming = none ∧ ownerDie 0 = 0 ∧
    wr0.hcrc = hcrcOf wr0 ∧
    ((after (.packetHeadArrival 0 (.port 0) wr0) (routed here)).rte.arrived.map (·.pkt)) = [wr0] ∧
    ((after (.packetHeadArrival 0 (.port 0) wr0) (routed (9 * 2 ^ 27 + 2 ^ 31 + 9 * 2 ^ 12))).port 9).queue.length = 1 ∧
    ((after (.packetHeadArrival 0 (.port 0) { wr0 with hcrc := wr0.hcrc ^^^ 1 }) (routed here)).port 0).hcrcBad = 1 := by
  decide +kernel
theorem test_mortarHead :
    let s := { routed here with rte := { (routed here).rte with mortar := [{ die := 0, pkt := wr0, cls := 0, chan := 0, whole := true }] } }
    (after (.packetHeadArrival 0 .mortar wr0) s).rte.mortar = [] ∧
    (after (.packetHeadArrival 0 .mortar wr0) s).rte.arrived.length = 1 := by decide +kernel
theorem test_trailer :
    let s := after (.packetHeadArrival 0 (.port 0) wr0) (routed here)
    let bad := { wr0 with crc := wr0.crc ^^^ 1 }
    trailerOk wr0 = true ∧ msgOk 0x10 1 = true ∧
    (after (.packetTrailerArrival 0 (.port 0) wr0) s).rte.arrived.map (·.whole) = [true] ∧
    trailerOk bad = false ∧
    ((after (.packetTrailerArrival 0 (.port 0) bad) (after (.packetHeadArrival 0 (.port 0) bad) (routed here))).port
      0).crcBad = 1 := by decide +kernel
/-- LNK_STALL of 3 acts as 25. -/
theorem test_stall :
    let s := (after (.packetHeadArrival 0 (.port 0) wr0) (routed here)).modPort 0 fun x => { x with stall := 3 }
    let at_ (n : Nat) : State := { s with gen := { s.gen with time := n } }
    let t := after (.stallTimeout 0 wr0) (at_ 25)
    (s.port 0).incoming = some wr0 ∧ (s.port 0).incomingAt = 0 ∧ (t.port 0).stallDrop = 1 ∧ t.rte.arrived = [] ∧
    after (.stallTimeout 0 wr0) (at_ 24) = at_ 24 ∧ (after (.packetAged 0 wr0) s).rte.arrived = [] ∧
    (Tab.get DieCtr.reset (after (.packetAged 0 wr0) s).rte.ctrs 0).aged = 1 := by decide +kernel
theorem test_aged :
    let s := withPort { port0 with queue := [{ pkt := wr0, vc := 2, whole := true, inp := none }] }
    ownerDie 9 = 3 ∧ ((after (.packetAged 3 wr0) s).port 9).queue = [] ∧
    (Tab.get DieCtr.reset (after (.packetAged 3 wr0) s).rte.ctrs 3).aged = 1 ∧
    ((after (.packetAged 3 wr0) up).rte = up.rte) := by decide +kernel
/-- With credits, a packet of TC 5 goes before one of TC 1 that came first. -/
theorem test_send :
    let q1 : QPkt := { pkt := wr0, vc := 2, whole := true, inp := none }
    let q5 : QPkt := { pkt := sealed_ { wr0 with tc := 5, opc := 0x11 }, vc := 10, whole := true, inp := none }
    let s := (routed here).modPort 9 fun x => { x with queue := [q1, q5] }
    let t := after (.packetSendStart 9) s
    (s.arbitrate 9).isSome = true ∧ (t.port 9).queue = [q1] ∧ t.out = [.packet 9 q5.pkt] ∧
    ((after (.packetSendStart 9) (s.modPort 9 fun x => { x with txHeld := List.replicate 512 0 })).port 9).queue.length = 2 := by
  decide +kernel

/-! ## Delivery -/

/-- Packet `p` from node 9 has arrived whole on die 0, as the next of its flow. -/
def got (p : Packet) (s : State) : State :=
  { s with rte := { s.rte with
      arrived := [{ die := 0, pkt := p, whole := true, inp := some (0, 2) }]
      recv := [{ id := flowOf p, die := 0, expected := p.seq, openSeq := 0, ackDue := 4, holds := [], at_ := 0 }] } }
def base9 : Packet :=
  { blankPkt with dest := 5, tc := 1, opc := 0x10, src := 9, slice := 9, seq := 6, sdie := 1, len := 4,
                  addr := BitVec.ofNat 48 (2 ^ 47 + 0x100), payload := [1, 2, 3, 4], tgtEngine := 40, tgtFlag := 3 }
/-- What every statement about requests assumes, at one packet. -/
def expected9 (p : Packet) (s : State) : Bool :=
  s.live && (s.localHead p.sdie.toNat p.tc.toNat).isNone && (s.arrivedHead 0 p).isSome && (s.recvFlow 0 (flowOf p)).isSome &&
  !p.opn

/-- The six requests that write: the bytes land, the last packets raise F3 of engine 40, the expected SEQ moves on. -/
theorem test_writes : ∀ row ∈ writeRows,
    let p := { base9 with opc := row.2.1 }
    let t := after (row.1 0 p) (got p up)
    expected9 p (got p up) = true ∧ ((got p up).reqCheck p 4 true (bareReq p) row.2.2.2).toOption = some (some (.pier 0x100)) ∧
    t.readLoc (.pier 0xFF) 6 = [0, 1, 2, 3, 4, 0] ∧ t.flagVal 40 3 = (if row.2.2.1 then 1 else 0) ∧
    (t.recvFlow 0 (flowOf p)).map (fun r => (r.expected, r.ackDue)) = some (7, 5) := by decide +kernel
/-- A partition in rung 2 refuses, and the SEQ stays. -/
theorem test_refused :
    let s := got base9 (up.modPart 0 fun x => { x with resetBusy := true })
    let t := after (.write 0 base9) s
    (match s.reqCheck base9 4 true false false with | .error k => k | .ok _ => 0) = 1 ∧ t.mem = [] ∧
    (t.recvFlow 0 (flowOf base9)).map (·.expected) = some 6 ∧ (Tab.get DieCtr.reset t.rte.ctrs 0).refusedTx = 1 := by
  decide +kernel
/-- An address in no region is answered with ACCESS (3), and the SEQ moves on. -/
theorem test_denied :
    let p := { base9 with addr := BitVec.ofNat 48 (2 ^ 47 + 0x2000000) }
    (match (got p up).reqCheck p 4 true false false with | .error k => k | .ok _ => 0) = 3 ∧
    ((after (.write 0 p) (got p up)).recvFlow 0 (flowOf p)).map (fun r => (r.expected, r.ackDue)) = some (7, 0) := by
  decide +kernel
theorem test_flagPkt :
    let p := { base9 with opc := 0x14, len := 0, payload := [], arg := 0x300 }
    expected9 p (got p up) = true ∧ ((got p up).reqCheck p 0 false true false).isOk = true ∧
    (after (.flag 0 p) (got p up)).flagVal 40 3 = 0x300 := by decide +kernel
/-- The answer of a READ waits in a send flow to node 9 with the bytes read. -/
theorem test_read :
    let p := { base9 with opc := 0x12, len := 0, payload := [], arg := 4096, tgtFlag := 0x3F }
    let s := got p (up.writePier 0x100 [7])
    let t := after (.read 0 p) s
    expected9 p s = true ∧ (s.reqCheck p 4096 false false false).toOption = some (some (.pier 0x100)) ∧
    t.rte.send.map (fun f => f.unacked.map fun u => (u.pkt.opc, u.pkt.dest, u.pkt.payload.length, u.pkt.payload.headD 0)) =
      [[(0x13, 9, 4096, 7)]] := by decide +kernel
theorem test_dup_gap :
    let s := { got base9 up with rte := { (got base9 up).rte with
      recv := [{ id := flowOf base9, die := 0, expected := 7, openSeq := 0, ackDue := 0, holds := [], at_ := 0 }] } }
    let g := { got base9 up with rte := { (got base9 up).rte with
      recv := [{ id := flowOf base9, die := 0, expected := 5, openSeq := 0, ackDue := 0, holds := [], at_ := 0 }] } }
    expected9 base9 s = true ∧ (Tab.get DieCtr.reset (after (.write 0 base9) s).rte.ctrs 0).dup = 1 ∧
    (Tab.get DieCtr.reset (after (.write 0 base9) g).rte.ctrs 0).gap = 1 ∧ (after (.write 0 base9) g).mem = [] := by
  decide +kernel
theorem test_mgmt :
    let p := { base9 with opc := 0x60, tc := 0 }
    expected9 p (got p up) = true ∧
    ((after (.mgmtMessage 0 p) (got p up)).recvFlow 0 (flowOf p)).map (·.expected) = some 7 := by decide +kernel
/-- A line of slice reach in phase 7; node 9 is neither child nor parent here, so its report is counted. -/
theorem test_keyReport :
    let p := { base9 with opc := 0x20, tc := 5, arg := 15, addr := 7 }
    let s := (got p up).setKey 15 { KeyLine.reset with phase := 7, reach := 2, owner := 0, expect := 4 }
    expected9 p s = true ∧ s.cfg.slice.role = 0 ∧ p.src.toNat ∉ s.keyChildren ∧
    ((after (.keyReport 0 p) s).key 15).mismatch = 1 := by decide +kernel
/-- A module whose tree makes node (node 5 with its ring of Z 2 wide) a child or parent of this one. -/
theorem test_keyTree :
    let s (n : BitVec 17) : State := { up with cfg := { up.cfg with slice := { up.cfg.slice with nodeId := n, extZ := 2 } } }
    (s 4).keyParent = some 5 ∨ (s 5).keyParent = some 4 ∨ (s 4).keyChildren = [5] ∨ (s 5).keyChildren = [4] ∨
    ((s 0).keyChildren = [1] ∧ (s 1).keyParent = some 0) := by decide +kernel
def keyed (n : BitVec 17) (p : Packet) (k : KeyLine) : State :=
  (got p { up with cfg := { up.cfg with slice := { up.cfg.slice with nodeId := n, extZ := 2 } } }).setKey 15 k
def line2 : KeyLine := { KeyLine.reset with phase := 7, reach := 2, owner := 0, expect := 4 }
/-- Node 0 is the root of the tree of two: a report of node 1 is kept; a release of node 0 ends the phase at node 1. -/
theorem test_keyReport_child :
    let p := { base9 with opc := 0x20, tc := 5, arg := 15, addr := 7, src := 1, dest := 0 }
    let s := keyed 0 p line2
    expected9 p s = true ∧ 1 ∈ s.keyChildren ∧ ((after (.keyReport 0 p) s).key 15).reports = [1] := by decide +kernel
theorem test_keyRelease :
    let p := { base9 with opc := 0x21, tc := 5, arg := 15, addr := 7, src := 0, dest := 1 }
    let s := keyed 1 p { line2 with count := 4, shareDone := true }
    expected9 p s = true ∧ s.keyParent = some 0 ∧ ((after (.keyRelease 0 p) s).key 15).phase = 8 ∧
    ((after (.keyRelease 0 p) (keyed 1 p { line2 with phase := 6 })).key 15).mismatch = 1 := by decide +kernel

/-! ## Answers -/

def n1 : NetOp :=
  { id := 0, kind := .get, flag := 47, flagEngine := 0, die := 0, dest := 9, tc := 1, loc := .ls 0 0x1000, remote := 0,
    len := 4, tgtEngine := 0, tgtFlag := 0x3F, amount := 0, step := none,
    parts := [{ seq := some 0x21, off := 0, len := 4 }], sent := true, epoch := false, eval := false, ctx := 0,
    itemSeq := 7, live := true, reset := false, homeCourse := 0, slot := 0, opc := 0x81, pc := 0 }
def netted (o : NetOp) : State := (run0 []).modEng 0 fun x => { x with nets := [o], nextNet := 1 }
theorem test_readData :
    let p := { base9 with opc := 0x13, addr := 0x21 }
    let s := got p (netted n1)
    let t := after (.readData 0 p) s
    expected9 p s = true ∧ s.readFor p = some (0, n1, { seq := some 0x21, off := 0, len := 4 }) ∧ s.netOp 0 0 = some n1 ∧
    t.readLoc (.ls 0 0x1000) 4 = [1, 2, 3, 4] ∧ t.flagVal 0 47 = 1 ∧ (t.eng 0).nets = [] := by decide +kernel
/-- A part that is not the last one. -/
theorem test_readData_part :
    let o := { n1 with parts := { seq := some 0x22, off := 4096, len := 4 } :: n1.parts }
    let p := { base9 with opc := 0x13, addr := 0x21 }
    let t := after (.readData 0 p) (got p (netted o))
    (got p (netted o)).readFor p = some (0, o, { seq := some 0x21, off := 0, len := 4 }) ∧
    (t.eng 0).nets.map (·.parts.length) = [1] ∧ t.flagVal 0 47 = 0 := by decide +kernel
/-- A put of this module to node 9, one packet unacknowledged, SEQ 0x21. -/
def sent0 : Sent :=
  { pkt := { base9 with dest := 9, src := 5, sdie := 0, seq := 0x21 }, op := .engine 0 0, src := none, last := true, ord := 0,
    out := true }
def flow9 : SendFlow :=
  { id := { src := 5, sdie := 0, dest := 9, tc := 1, epoch := false }, nextSeq := 0x22, unacked := [sent0], expiries := 2,
    backoff := none, refusals := 0, flipped := false }
def put0 : NetOp := { n1 with kind := .put, parts := [] }
def sending (f : SendFlow) : State :=
  { netted put0 with rte := { Rte.reset with send := [f] } }
theorem test_ack :
    let p := { base9 with opc := 0xF0, seq := 0, addr := 0x21, len := 0, payload := [] }
    let s := got p (sending flow9)
    let t := after (.ack 0 p) s
    (s.takeDatagram 0 p 0xF0).isSome = true ∧ s.flow (answeredFlow p) = some flow9 ∧ sent0.pkt.seq = answeredSeq p ∧
    t.flagVal 0 47 = 1 ∧ (t.eng 0).nets = [] ∧ (t.flow flow9.id).map (fun f => (f.unacked, f.expiries)) = some ([], 0) := by
  decide +kernel
theorem test_response_refused :
    let p := { base9 with opc := 0xF1, seq := 0, addr := 0x21, len := 0, payload := [], arg := 1 }
    let s := got p (sending flow9)
    (s.takeDatagram 0 p 0xF1).isSome = true ∧
    ((after (.response 0 p) s).flow flow9.id).map (fun f => (f.backoff, f.refusals)) = some (some 0x21, 1) := by
  decide +kernel
/-- DATA_ERROR fails the put with PIER_UE. -/
theorem test_response_error :
    let p := { base9 with opc := 0xF1, addr := 0x21, len := 0, payload := [], arg := 2 }
    let s := got p (sending flow9)
    expected9 p s = true ∧ s.flow (answeredFlow p) = some flow9 ∧ s.runner 0 0 0 = 0 ∧ (s.eng 0).faultValid = false ∧
    ((after (.response 0 p) s).eng 0).faultCode = 8 ∧ ((after (.response 0 p) s).eng 0).nets = [] := by decide +kernel
theorem test_echo :
    let p := { base9 with opc := 0x50, tc := 4, seq := 0 }
    let s := { got p up with rte := { (got p up).rte with
      routes := [(0, [(4 * 2 ^ 17 + 9, BitVec.ofNat 32 (2 ^ 31 + 9 * 2 ^ 27 + 9 * 2 ^ 12))])] } }.setPort 9 { Port.reset with st := .up, fitted := true }
    (s.takeDatagram 0 p 0x50).isSome = true ∧ s.ownNode p.src = false ∧
    ((after (.echo 0 p) s).port 9).queue.map (fun q => (q.pkt.opc, q.pkt.dest, q.pkt.payload)) = [(0x51, 9, [1, 2, 3, 4])] := by
  decide +kernel
theorem test_echoReply :
    let p := { base9 with opc := 0x51, tc := 4, seq := 0 }
    let o : MbOp := { port := 0, ch := 2, tag := 1, bytes := leBytes 4 9, at_ := 0 }
    let s := { got p up with sec := { Sec.reset with echoes := [o] } }
    (s.takeDatagram 0 p 0x51).isSome = true ∧ (after (.echoReply 0 p) s).sec.echoes = [] := by decide +kernel

/-! ## Timers -/

def id9 : FlowId := flow9.id
theorem test_ackSend :
    let s := got base9 up
    let id := flowOf base9
    (s.recvFlow 0 id).isSome = true ∧ s.ownNode (BitVec.ofNat 17 id.src) = false ∧
    ((after (.ackSend 0 id) s).recvFlow 0 id).map (·.ackDue) = some 0 := by decide +kernel
theorem test_retransmit :
    let t := after (.retransmitTimerExpiry id9) (sending flow9)
    (t.flow id9).map (·.expiries) = some 3 ∧ (Tab.get DieCtr.reset t.rte.ctrs 0).retx = 1 := by decide +kernel
theorem test_giveUp :
    let s := sending { flow9 with expiries := 8 }
    let t := after (.transportGiveUp id9) s
    s.rte.retries = 8 ∧ s.partOfEngine 0 = some 0 ∧ s.runner 0 0 0 = 0 ∧ t.flow id9 = none ∧ (t.eng 0).nets = [] ∧
    (t.part 0).haltCause = 0x0C ∧ (after (.transportGiveUp id9) (sending flow9)).flow id9 = some flow9 := by decide +kernel
theorem test_refusalGiveUp : (after (.refusalGiveUp id9) (sending { flow9 with refusals := 1 })).flow id9 = none := by
  decide +kernel
theorem test_backoff : ((after (.refusalBackoffExpiry id9) (sending { flow9 with backoff := some 0x21 })).flow id9).map
    (·.backoff) = some none := by decide +kernel
theorem test_fenceRelease :
    let s := sending { flow9 with unacked := [{ sent0 with out := false }] }
    s.fenced id9 0 = false ∧ ((after (.fenceRelease id9) s).flow id9).map (fun f => f.unacked.map (·.out)) =
      some [true] := by decide +kernel
theorem test_flowClose : (after (.sendFlowClose id9) (sending { flow9 with unacked := [] })).flow id9 = none ∧
    (after (.sendFlowClose id9) (sending flow9)).flow id9 = some flow9 := by decide +kernel
theorem test_injectionResume :
    let w : Waiting := { die := 0, pkt := sent0.pkt, op := .engine 0 0, src := none, last := true, ord := 1 }
    let s := { netted put0 with rte := { Rte.reset with waiting := [w] } }
    ((s.modRte fun r => { r with waiting := [] }).launch w).isSome = true ∧
    (after (.injectionResume 0) s).rte.waiting = [] ∧ (after (.injectionResume 0) s).rte.send.length = 1 := by decide +kernel
def local0 (op : OpRef) (last : Bool) : LocalPkt :=
  { pkt := { base9 with src := 5, sdie := 0, tgtFlag := 0x3F }, op := op, src := none, last := last, refusals := 1 }
theorem test_localRetry :
    let s := { netted put0 with rte := { Rte.reset with locals_ := [local0 (.engine 0 0) false] } }
    let b := s.modPart 0 fun x => { x with resetBusy := true }
    (s.localHead 0 1).isSome = true ∧ ((after (.localPacketRetry 0 1 true) s).part 0).halted = true ∧
    (after (.localPacketRetry 0 1 false) s).readLoc (.pier 0x100) 4 = [1, 2, 3, 4] ∧
    (after (.localPacketRetry 0 1 false) s).rte.locals_ = [] ∧
    (after (.localPacketRetry 0 1 false) b).rte.locals_.map (·.refusals) = [2] := by decide +kernel

/-! ## Epochs and bond images -/

def epochs (h0 h1 : Half) : State := { up with rte := { Rte.reset with half0 := h0, half1 := h1 } }
theorem test_flip :
    let t := after (.flip 0) (epochs .active .free)
    up.ready = true ∧ t.rte.inj = true ∧ t.rte.half0 = .draining ∧ t.rte.half1 = .active ∧
    (after (.flip 0) (epochs .active .draining)).rte.inj = false := by decide +kernel
theorem test_flip_adopt :
    let s := { epochs .active .free with cfg := { up.cfg with
      slice := { up.cfg.slice with role := 1 }, adopt := some { nodeId := 77, cast := none, half := true } } }
    (after (.flip 0) s).cfg.slice.nodeId = 77 ∧ (after (.flip 0) s).cfg.slice.role = 0 ∧ (after (.flip 0) s).cfg.adopt = none := by
  decide +kernel
theorem test_release :
    let d (s : State) : State := { s with rte := { s.rte with inj := true, half0 := .draining, half1 := .active } }
    (after (.release 0) (d (sending { flow9 with unacked := [] }))).rte.half0 = .free ∧
    (after (.release 0) (d (sending flow9))).rte.half0 = .draining := by decide +kernel
theorem test_lookup :
    let s := { up with rte := { Rte.reset with routes := [(7, [(0xFFFFF, 0x87654321)])] } }
    (after (.rteLookupWrite 0 0x7FFFFF) s).rte.lookEntry = 0x87654321 := by decide +kernel

def waiting8 (x : BondPort) : State :=
  { up with bu := { Bu.reset with stage := 8, st := .waitImage }, cfg := Cfg.reset,
            bond := { Bond.reset with ports := [(0, x)] } }
def bp : BondPort := { BondPort.reset with src := 0x1000, len := 700 }
theorem test_go :
    let s := waiting8 bp
    let t := after (.go 0) s
    s.writable = true ∧ s.fullAllowed = true ∧ (s.bondPort 0).runs = false ∧ (t.bondPort 0).st = .fetch ∧
    t.out = [.hostRead 0 0x1000 512, .hostRead 0 0x1200 188] := by decide +kernel
theorem test_go_busy :
    let s := { waiting8 bp with bond := { Bond.reset with ports := [(0, bp), (1, { bp with st := .fetch })] } }
    ((after (.go 0) s).bondPort 0).code = 0x11 ∧ ((after (.go 0) s).bondPort 1).st = .fetch ∧
    ((after (.go 1) s).bondPort 1).st = .fetch := by decide +kernel
theorem test_go_empty : ((after (.go 0) (waiting8 { bp with len := 0 })).bondPort 0).st = .done ∧
    ((after (.go 0) (waiting8 { bp with len := 0 })).bondPort 0).code = 0 := by decide +kernel
theorem test_bondFetchDone :
    let s := waiting8 { bp with st := .fetch, goLen := 4, sent := true }
    s.hostUsable 0 = true ∧ ((after (.bondFetchDone 0 .timeout) s).bondPort 0).code = 0x13 ∧
    ((after (.bondFetchDone 0 .timeout) s).host 0).space.aerStatus = 0x4000 ∧
    after (.bondFetchDone 0 .timeout) (noTimeout s) = noTimeout s ∧
    (s.acceptCheck 0 [1, 2, 3, 4]).isSome = true ∧
    ((after (.bondFetchDone 0 (.data [1, 2, 3, 4])) s).bondPort 0).st = .refused := by decide +kernel
theorem test_rerun :
    let s := { waiting8 bp with bu := { Bu.reset with stage := 8, st := .failed, attempt := 1 },
                                bond := { Bond.reset with staged := some (0, []) } }
    (after (.rerun 0) s).bu.st = .running ∧ (after (.rerun 0) s).bu.attempt = 2 ∧ (after (.rerun 0) up).bu = up.bu := by
  decide +kernel

/-! ## Signatures that verify -/

/-- The key and the signature whose points are the neutral one. -/
def key1 : List Byte := 1 :: List.replicate 56 0
def sig1 : List Byte := key1 ++ List.replicate 57 0
def Neutral (u : EdPoint) : Prop := u.x = 0 ∧ u.y = u.z

theorem neutral_add (u v : EdPoint) (hu : Neutral u) (hv : Neutral v) : Neutral (edAdd u v) := by
  obtain ⟨ux, uy, uz⟩ := u
  obtain ⟨vx, vy, vz⟩ := v
  simp only [Neutral] at hu hv
  obtain ⟨rfl, rfl⟩ := hu
  obtain ⟨rfl, rfl⟩ := hv
  simp only [Neutral, edAdd, Nat.zero_mul, Nat.zero_mod, Nat.mul_zero, Nat.zero_add, Nat.sub_zero, Nat.add_zero]
  generalize uy * vy % edP = a
  have h2 : a + 2 * edP - a = edP * 2 := by omega
  refine ⟨by rw [h2]; simp, ?_⟩
  simp only [Nat.add_mod_right]
  have : (a * (a * a % edP % edP) % edP * (a % edP)) % edP = (a * a % edP % edP * (a * a % edP % edP)) % edP := by
    have h : Nat.ModEq edP (a * (a * a) * a) (a * a * (a * a)) := by rw [Nat.ModEq]; ring_nf
    simpa [Nat.ModEq, Nat.mul_mod, Nat.mod_mod] using h
  exact this

theorem neutral_mul (f n : Nat) (u : EdPoint) (hu : Neutral u) : Neutral (edMul f n u) := by
  induction f generalizing n u with
  | zero => exact ⟨rfl, rfl⟩
  | succ f ih =>
    have hr := ih (n / 2) (edAdd u u) (neutral_add u u hu hu)
    simp only [edMul]
    split
    · exact neutral_add u _ hu hr
    · exact hr

theorem mul_zero_point (f : Nat) (u : EdPoint) : edMul f 0 u = edZero := by
  induction f generalizing u with
  | zero => rfl
  | succ f ih => simp only [edMul, Nat.zero_div, ih]; rfl

theorem neutral_eq (u v : EdPoint) (hu : Neutral u) (hv : Neutral v) : edEq u v = true := by
  obtain ⟨hx, hy⟩ := hu
  obtain ⟨hx', hy'⟩ := hv
  simp [edEq, hx, hx', hy, hy', Nat.mul_comm]

theorem neutral_decode : edDecode key1 = some edZero := by decide +kernel

/-- This signature verifies under this key for every message. -/
theorem verify_neutral (ctx : String) (m : List Byte) : edVerify key1 ctx m sig1 = true := by
  have h1 : sig1.take 57 = key1 := by decide +kernel
  have h2 : leNat (sig1.drop 57) = 0 := by decide +kernel
  have h3 : ¬ (sig1.length ≠ 114 ∨ edL ≤ 0) := by decide +kernel
  have z : Neutral edZero := ⟨rfl, rfl⟩
  simp only [edVerify, h1, h2, neutral_decode, h3, if_false, mul_zero_point]
  exact neutral_eq _ _ (neutral_mul 3 4 _ z) (neutral_mul 3 4 _ (neutral_add _ _ z (neutral_mul 448 _ _ z)))

/-! ## Bring-up -/

def zeros (n : Nat) : List Byte := List.replicate n 0
/-- A record of module 1 with GEN `gen`, signed so. -/
def rec1 (t gen : Nat) (fp body : List Byte) (signer : Nat) : List Byte :=
  leBytes 4 0x43455248 ++ [BitVec.ofNat 8 t, 1, 0, 0] ++ leBytes 4 (64 + body.length + 128) ++ zeros 4 ++ leBytes 8 1 ++
  leBytes 8 gen ++ fp ++ zeros 16 ++ body ++ sigBlock signer sig1
/-- A firmware image of VERSION 5 and SVN 2. -/
def fw5 : List Byte :=
  leBytes 4 0x57465448 ++ [1, 0, 0, 0] ++ leBytes 4 192 ++ leBytes 4 64 ++ leBytes 4 5 ++ leBytes 4 2 ++ zeros 8 ++
  zeros 32 ++ sigBlock 2 sig1
/-- The module in bring-up stage `n`. -/
def stage (n : Nat) : State :=
  { State.reset with pwr := { Pwr.reset with inputOn := true, seq := .on, en := true },
                     bu := { Bu.reset with stage := n } }
def logs (t : State) (i n : Nat) (r : Nat) : Bool :=
  t.bu.logCount = i + 1 && (Tab.get 0 t.bu.log (16 * i)).toNat % 2 ^ 16 = n + 2 ^ 8 * r

/-- Firmware slot B holds this image; the replay-protected C is `arb`. -/
def boot5 (arb : BitVec 32) : State := { stage 1 with sec := { Sec.reset with slotB := fw5, efFw := key1, arb := arb } }
theorem fw5_valid (s : State) (h : s.sec.efFw = key1) : s.fwValid fw5 = true := by
  have hs : sliceAt fw5 (fieldAt fw5 0x0C 4 + 8) 114 = sig1 := by decide +kernel
  simp only [State.fwValid, h, hs, verify_neutral]
  decide +kernel
theorem test_bu1 : (boot5 2).stageRuns 1 = true ∧ (boot5 2).bootSlot = some (1, fw5) := by
  refine ⟨by decide +kernel, ?_⟩
  have h : (boot5 2).fwRuns (boot5 2).sec.slotA = false := by decide +kernel
  have k : (boot5 2).fwRuns (boot5 2).sec.slotB = true := by
    show (State.fwValid _ fw5 && _) = true
    rw [fw5_valid _ rfl]
    decide +kernel
  simp only [State.bootSlot, h, k]
  rfl
theorem test_bu1_none :
    logs (after (.bu1 true false) (stage 1)) 0 1 0x10 = true ∧ (after (.bu1 true false) (stage 1)).bu.stage = 1 ∧
    (after (.bu1 true false) (stage 1)).bu.st = .failed := by decide +kernel
/-- The SVN 2 of the image is below 3. -/
theorem test_bu1_rollback : (boot5 3).bootSlot = none ∧ (boot5 3).fwValid (boot5 3).sec.slotB = true := by
  refine ⟨?_, fw5_valid _ rfl⟩
  have h : (boot5 3).fwRuns (boot5 3).sec.slotA = false := by decide +kernel
  have k : (boot5 3).fwRuns (boot5 3).sec.slotB = false := by
    show (State.fwValid _ fw5 && _) = false
    rw [fw5_valid _ rfl]
    decide +kernel
  simp only [State.bootSlot, h, k]
  rfl

/-- Seed, public key and fingerprint of the power-up bits 05, by SHAKE256 and Ed448 worked outside the model. -/
def seed5 : List Byte := leBytes 57 175465599872266619055954610759828679341064713893116062486391073541286303409619153645063603045986564819601893169702593406181214046579220266
def pub5 : List Byte := leBytes 57 38608265082717492826895053190918107095844420344001538590320349362341010713640868753809160238524511445477424860104534418275892930228835
def fp5 : List Byte := leBytes 16 213627216147727373574635316660534760092
def cert5 : List Byte := rec1 1 1 (zeros 16) ([0] ++ zeros 7 ++ pub5 ++ zeros 7) 0
def helper5 : List Byte := rec1 2 1 (zeros 16) (zeros 1024) 0
def licence5 : List Byte := rec1 4 3 fp5 (leBytes 4 0x39 ++ zeros 60) 1
/-- Module 1, whose Efsatin keys are `key1`, with the identity of `pub5` and these records; licences count from `gen` on. -/
def keys5 (gen : BitVec 64) : State :=
  { stage 2 with sec := { Sec.reset with efDev := key1, efLic := key1, licGen := gen, pub := pub5, fp := fp5, cert := cert5,
                                         records := [(0, cert5), (1, helper5), (2, licence5)] } }
theorem rec_valid (s : State) (b : List Byte) (hk : s.signerKey (recSigner b) = key1)
    (hs : sliceAt b (b.length - 120) 114 = sig1) :
    s.recValid b = (formOk b && signerOk (recType b) (recSigner b) && s.recBound b) := by
  simp only [State.recValid, State.recSigned, hk, hs, verify_neutral, Bool.and_true]
theorem cert5_valid (g : BitVec 64) : (keys5 g).recValid cert5 = true := by
  have h : recSigner cert5 = 0 := by decide +kernel
  rw [rec_valid _ _ (by rw [h]; rfl) (by decide +kernel)]
  show (formOk cert5 && signerOk (recType cert5) (recSigner cert5) && (keys5 0).recBound cert5) = true
  decide +kernel
theorem helper5_valid (g : BitVec 64) : (keys5 g).recValid helper5 = true := by
  have h : recSigner helper5 = 0 := by decide +kernel
  rw [rec_valid _ _ (by rw [h]; rfl) (by decide +kernel)]
  show (formOk helper5 && signerOk (recType helper5) (recSigner helper5) && (keys5 0).recBound helper5) = true
  decide +kernel
theorem licence5_valid (g : BitVec 64) : (keys5 g).recValid licence5 = true := by
  have h : recSigner licence5 = 1 := by decide +kernel
  rw [rec_valid _ _ (by rw [h]; rfl) (by decide +kernel)]
  show (formOk licence5 && signerOk (recType licence5) (recSigner licence5) && (keys5 0).recBound licence5) = true
  decide +kernel
theorem seed5_drawn : shake256 ([5] ++ ascii "HT4-IDSEED") 57 = seed5 := by decide +kernel
def encNum (u : EdPoint) : Nat := u.y * edInv u.z % edP + u.x * edInv u.z % edP % 2 * 2 ^ 455
theorem pub5_num : encNum (edMul 448 (edSecret seed5).1 edBase) = 38608265082717492826895053190918107095844420344001538590320349362341010713640868753809160238524511445477424860104534418275892930228835 := by
  decide +kernel
theorem pub5_derived : edPublic seed5 = pub5 := by
  rw [pub5, ← pub5_num]
  rfl
theorem newest5 (g : BitVec 64) (t : Nat) (f : List Byte → Bool) :
    (keys5 g).newestRec t f = newest ([cert5, helper5, licence5].filter fun b => recType b == t && f b) := by
  show newest (List.filter (fun b => recType b == t && f b && (keys5 g).recValid b) [cert5, helper5, licence5]) = _
  congr 1
  apply List.filter_congr
  simp [cert5_valid g, helper5_valid g, licence5_valid g]
theorem identity_of (s : State) (bs helper cert seed pub : List Byte) (h2 : s.newestRec 2 (fun _ => true) = some helper)
    (h1 : s.newestRec 1 (fun _ => true) = some cert) (hs : shake256 (bs ++ ascii "HT4-IDSEED") 57 = seed)
    (hp : edPublic seed = pub) (hb : pub = sliceAt cert 72 57 ∧ fieldAt cert 64 1 = s.gen.part) :
    s.identity (some bs) = some (seed, pub, cert) := by
  simp only [State.identity, h1, h2, hs, hp, if_pos hb]
theorem test_identity : (keys5 3).stageRuns 2 = true ∧ (keys5 3).identity (some [5]) = some (seed5, pub5, cert5) := by
  refine ⟨by decide +kernel, ?_⟩
  have h1 : newest ([cert5, helper5, licence5].filter fun b => recType b == 1 && true) = some cert5 := by decide +kernel
  have h2 : newest ([cert5, helper5, licence5].filter fun b => recType b == 2 && true) = some helper5 := by decide +kernel
  exact identity_of _ _ _ _ _ _ ((newest5 3 2 _).trans h2) ((newest5 3 1 _).trans h1) seed5_drawn pub5_derived
    (by decide +kernel)
/-- A licence of GEN 3 counts while the generation counter is at most 3. -/
theorem test_licence :
    ((keys5 3).newestRec 4 fun b => decide ((keys5 3).sec.licGen.toNat ≤ recGen b)) = some licence5 ∧
    ((keys5 4).newestRec 4 fun b => decide ((keys5 4).sec.licGen.toNat ≤ recGen b)) = none ∧
    { (keys5 3) with sec := { (keys5 3).sec with pub := pub5, fp := fp5, cert := cert5 } } = keys5 3 ∧
    fieldAt licence5 64 4 = 0x39 := by
  rw [newest5, newest5]
  decide +kernel
theorem test_bu2_identity :
    (stage 2).identity none = none ∧ logs (after (.bu2 none) (stage 2)) 0 2 0x20 = true := by decide +kernel
theorem test_bu3 :
    let s := { stage 3 with mem := [(7, 1)] }
    let t := after (.bu3 0xFF) s
    t.mem = [] ∧ t.gen.capPiers = 0xFF ∧ t.bu.stage = 4 ∧ logs t 0 3 1 = true ∧
    logs (after (.bu3 0xFFFFFFFF) s) 0 3 0 = true ∧ logs (after (.bu3 0x7F) s) 0 3 0x30 = true ∧
    (after (.bu3 0x7F) s).bu.st = .failed ∧ Tab.get 0 t.bu.log 7 = 0 ∧
    (after (.bu3 0xFF) { s with bu := { s.bu with rung3 := true } }).mem = [(7, 1)] := by decide +kernel
def stage4 : State := { stage 4 with ls := [(7, 1)], cs := [(9, 1)] }
/-- Engine tier 0 licenses 12 courses of each die. -/
theorem test_bu4 :
    let t := after (.bu4 0xFFFFFFFFFFFFFFFF [] 0) stage4
    stage4.stageRuns 4 = true ∧ licensedCourses 0 = 0x0FFF0FFF0FFF0FFF ∧ t.gen.capCourses = 0x0FFF0FFF0FFF0FFF ∧ t.ls = [] ∧
    t.cs = [] ∧ t.bu.stage = 5 := by decide +kernel
/-- A failed slot of course 0 is replaced by a spare; one more than the spares fails course 1. -/
theorem test_bu4_slots :
    (after (.bu4 0xFFFFFFFFFFFFFFFF [(0, 4), (1, 0), (1, 1), (1, 32)] 0) stage4).gen.capCourses = 0x0FFF0FFF0FFF0FFD ∧
    (courseSlots (BitVec.ofNat 34 (2 ^ 4))).1.getD 4 (0, 0) = (4, 32) := by decide +kernel
theorem test_bu4_fail :
    (after (.bu4 0 [] 0) stage4).gen.capCourses = 0 ∧ (after (.bu4 0 [] 0) stage4).bu.st = .failed ∧
    (after (.bu4 1 [] 2) stage4).gen.capCourses = 1 ∧ (after (.bu4 1 [] 2) stage4).bu.stage = 4 := by decide +kernel
theorem test_bu5 :
    let s := { stage 5 with ports := [(0, { Port.reset with fitted := true })] }
    let t := after (.bu5 0 0) s
    t.bu.stage = 6 ∧ (t.dom 80).level = 0 ∧ (t.dom 81).held = true ∧ logs t 0 5 0 = true ∧ (t.port 0).st = .training ∧
    logs (after (.bu5 0 4) s) 0 5 0x50 = true := by decide +kernel
theorem test_bu6 :
    let s := { stage 6 with doms := [(80, dom0)], ports := [(0, { Port.reset with fitted := true, st := .training })] }
    let t := after (.bu6 1 0) s
    ((after (.bu6 0 0) s).port 0).st = .down ∧ ((after (.bu6 0 0) s).port 0).downEvents = 0 ∧ s.mayTrain 0 = true ∧ (t.port 0).st = .up ∧ (t.port 0).halfWidth = false ∧ t.bu.stage = 7 ∧ logs t 0 6 0 = true ∧
    logs (after (.bu6 1 1) s) 0 6 1 = true := by decide +kernel
theorem test_bu7 :
    let s := stage 7
    let k := { s with bu := { s.bu with coordValid := true } }
    s.stageRuns 7 = true ∧ (after .bu7 s).bu.st = .waitOrigin ∧ (after .discoveryEnd k).bu.st = .waitImage ∧
    (after .discoveryEnd k).bu.stage = 8 ∧ logs (after .discoveryEnd { k with bu := { k.bu with conflict := true } }) 0 7 0x70 = true := by
  decide +kernel

/-- An image of one READY section: LINK and TOPO as `crit` says, soak of port 0 for 100 ms, at most 2·10^−6 errors a bit. -/
def ready8 (crit : Nat) : State :=
  let body := leBytes 2 crit ++ leBytes 2 1 ++ leBytes 4 100 ++ leBytes 2 2 ++ [250, 0] ++ zeros 20
  let img := zeros 12 ++ leBytes 2 1 ++ zeros 50 ++ leBytes 2 secReady ++ zeros 2 ++ leBytes 4 80 ++ leBytes 4 32 ++ leBytes 4 1 ++ body
  { stage 8 with bond := { Bond.reset with staged := some (0, img) },
                 ports := [(0, { Port.reset with fitted := true, st := .up })] }
theorem test_ready8 : (ready8 3).readyOf (ready8 3).stagedSects = (3, 1, 100, 2, 6) ∧ (ready8 3).soakPorts = [0] := by
  decide +kernel
theorem test_bu8 :
    let t := after .bu8 (ready8 1)
    t.bu.soaking = true ∧ (t.port 0).soak = some { ms := 100, failed := false } ∧
    (after .bu8 (ready8 0)).bu.stage = 9 ∧ logs (after .bu8 (ready8 0)) 0 8 0 = true := by decide +kernel
/-- The staged SLICE section is absent, so the port expects nobody; the default coordinates differ from these. -/
theorem test_bu8_topo :
    let s := { ready8 2 with bu := { (ready8 2).bu with coord := 1, conflict := true } }
    s.topo.2 = true ∧ (after .bu8 s).bu.st = .failed ∧ logs (after .bu8 s) 0 8 0x81 = true := by decide +kernel
theorem test_soakComplete :
    let s := { ready8 1 with bu := { (ready8 1).bu with soaking := true },
                             ports := [(0, { Port.reset with fitted := true, st := .test })] }
    let t (e q : Nat) := after (.soakComplete 0 true 1000000 e q) s
    s.portsOn = true ∧ (t 2 0).bu.stage = 9 ∧ logs (t 3 0) 0 8 0x80 = true ∧ logs (t 0 1) 0 8 0x80 = true ∧
    ((t 2 0).port 0).berBits = 1000000 ∧ ((t 2 0).port 0).st = .training := by decide +kernel
theorem test_buStageTimeout :
    logs (after .buStageTimeout (stage 4)) 0 4 0x0E = true ∧ (after .buStageTimeout (stage 4)).bu.st = .failed := by
  decide +kernel

/-! ## Discovery -/

theorem test_origin :
    let s := { stage 7 with bu := { (stage 7).bu with st := .waitOrigin, origin := 0x21, ring := 0x28844 } }
    let k := { s with bu := { s.bu with coordValid := true, coord := 5 } }
    s.writable = true ∧ (after (.origin 0) s).bu.coord = 0x21 ∧ (after (.origin 0) s).bu.st = .running ∧
    (after (.origin 0) k).bu.conflictKind = 5 ∧ (after (.skip 0) k).bu.coord = 0 ∧ (after (.skip 0) k).bu.st = .running ∧
    (after (.skip 0) { stage 8 with bu := { (stage 8).bu with coordValid := true } }).bu.coordValid = true := by decide +kernel
/-- Ring sizes 4, 8, 8, 4; port 5 (X, backwards) hears a neighbour at W 1, X 7 through its port 4, so this module is at X 0. -/
def hello9 : Hello :=
  { port := 4, flags := 1, feed := 0, stage := 7, serial := 99, fp := [], caps := 0, coord := 0x71, ring := 0x42084, node := 0,
    sliceId := 0, soakMs := 0 }
def heard (b : Bu) : State := { stage 7 with bu := b, ports := [(5, { Port.reset with fitted := true, st := .up })] }
theorem test_hello :
    let s := heard { Bu.reset with stage := 7, st := .waitOrigin }
    let t := after (.hello 5 hello9) s
    let kn (c : BitVec 18) : State := heard { Bu.reset with stage := 7, coordValid := true, coord := c, coordRing := 0x42084 }
    s.linkOn 5 = true ∧ (List.range 4).map (ringOn 0x42084) = [4, 8, 8, 4] ∧ (List.range 4).map (coordOn 0x71) = [1, 7, 0, 0] ∧
    t.bu.coordValid = true ∧ t.bu.coord = 1 ∧ t.bu.st = .running ∧
    (t.port 5).nbr = some hello9 ∧ (after (.hello 5 hello9) (kn 1)).bu.conflict = false ∧
    (after (.hello 5 hello9) (kn 2)).bu.conflictKind = 3 ∧ hello9.serial ≠ (kn 1).gen.serial ∧
    (after (.hello 5 { hello9 with serial := (kn 1).gen.serial }) (kn 1)).bu.conflictKind = 4 ∧
    (after (.hello 5 { hello9 with port := 5 }) (kn 1)).bu.conflictKind = 1 ∧
    (after (.hello 5 { hello9 with ring := 1 }) (kn 1)).bu.conflictKind = 2 ∧
    (after (.hello 5 { hello9 with flags := 0 }) (kn 2)).bu = (kn 2).bu := by decide +kernel
theorem test_hello_soak :
    let t := after (.hello 5 { hello9 with flags := 0x10, soakMs := 50 }) (heard Bu.reset)
    let s := heard { Bu.reset with stage := 7 }
    let u := after (.hello 5 { hello9 with flags := 0x10, soakMs := 50 }) s
    (u.port 5).st = .test ∧ (u.port 5).soak = some { ms := 50, failed := false } ∧ u.out.length = 1 ∧
    (t.port 5).st = .up ∧ (after (.helloSend 5) s).out = [.hello 5 (s.helloOf 5)] := by decide +kernel

/-! ## Images that are accepted or applied -/

/-- SHAKE256 of `key1`, 16 bytes, worked outside the model. -/
def fpKey1 : List Byte := leBytes 16 5325063475468969885546049521090101549
theorem fpKey1_drawn : shake256 key1 16 = fpKey1 := by decide +kernel
/-- An image of KIND `kind` and SEQ `seq` over `base` with no section, for module 1, signed under bond key slot 2. -/
def image (kind seq base : Nat) : List Byte :=
  leBytes 4 0x444E4F42 ++ leBytes 2 1 ++ leBytes 2 64 ++ leBytes 4 256 ++ leBytes 2 0 ++ [BitVec.ofNat 8 kind, 0] ++ leBytes 8 1 ++
  leBytes 8 seq ++ leBytes 8 base ++ leBytes 4 64 ++ leBytes 4 64 ++ zeros 16 ++
  (leBytes 4 0x47495342 ++ [2, 1, 0, 0] ++ fpKey1 ++ sig1 ++ zeros 54)
/-- Port 0 has fetched 256 bytes. -/
def fetched (s : State) : State :=
  { s with sec := { s.sec with bondKeys := [(2, key1)] },
           bond := { s.bond with activeSeq := 7, highWater := 7, ports := [(0, { BondPort.reset with st := .fetch, goLen := 256 })] },
           hosts := [(0, { HostPort.reset with perst := false, linkUp := true, bme := true })] }
theorem image_signed (s : State) (kind seq base : Nat) (hk : s.sec.bondKeys = [(2, key1)])
    (h : ∀ t, t ∈ [fieldAt (image kind seq base) 0x2C 4] → t = 64)
    (hs : sliceAt (image kind seq base) 88 114 = sig1)
    (hf : sliceAt (image kind seq base) 72 16 = fpKey1)
    (hm : fieldAt (image kind seq base) 64 4 = 0x47495342 ∧ fieldAt (image kind seq base) 68 1 = 2 ∧
      fieldAt (image kind seq base) 69 1 = 1)
    (hz : needZero (image kind seq base) bondSignature 70 2 = none ∧ needZero (image kind seq base) bondSignature 202 54 = none) :
    s.sigCheck (image kind seq base) = none := by
  have hg := h _ (List.mem_singleton.2 rfl)
  have hkey : Tab.get [] s.sec.bondKeys 2 = key1 := by rw [hk]; rfl
  obtain ⟨h1, h2, h3⟩ := hm
  obtain ⟨z1, z2⟩ := hz
  have hne : key1.isEmpty = false := rfl
  simp only [State.sigCheck, hg, h1, h2, h3, hkey, fpKey1_drawn, hs, hf, verify_neutral, z1, z2, hne, need]
  simp
/-- A full image of SEQ 8 in stage 5, and a partial one of SEQ 8 over SEQ 7 when READY, are accepted. -/
theorem test_accept_full :
    (fetched (stage 5)).hostUsable 0 = true ∧ (image 0 8 0).length = 256 ∧ fieldAt (image 0 8 0) 0x0E 1 = 0 ∧
    (fetched (stage 5)).bond.staged = none ∧ (fetched (stage 5)).acceptCheck 0 (image 0 8 0) = none := by
  refine ⟨by decide +kernel, by decide +kernel, by decide +kernel, rfl, ?_⟩
  have hs : (fetched (stage 5)).sigCheck (image 0 8 0) = none :=
    image_signed _ _ _ _ rfl (by decide +kernel) (by decide +kernel) (by decide +kernel) (by decide +kernel) (by decide +kernel)
  simp only [State.acceptCheck, hs]
  decide +kernel
theorem test_accept_partial :
    (fetched up).hostUsable 0 = true ∧ (image 1 8 7).length = 256 ∧ fieldAt (image 1 8 7) 0x0E 1 = 1 ∧
    (fetched up).acceptCheck 0 (image 1 8 7) = none := by
  refine ⟨by decide +kernel, by decide +kernel, by decide +kernel, ?_⟩
  have hs : (fetched up).sigCheck (image 1 8 7) = none :=
    image_signed _ _ _ _ rfl (by decide +kernel) (by decide +kernel) (by decide +kernel) (by decide +kernel) (by decide +kernel)
  simp only [State.acceptCheck, hs]
  decide +kernel
/-- An image with SEQ 8 is staged already. -/
theorem test_accept_stale :
    let s := { fetched (stage 5) with bond := { (fetched (stage 5)).bond with staged := some (1, image 0 8 0) } }
    s.acceptCheck 0 (image 0 8 0) = (fetched (stage 5)).acceptCheck 0 (image 0 8 0) ∧
    fieldAt (image 0 8 0) 0x18 8 ≤ fieldAt (image 0 8 0) 0x18 8 := ⟨rfl, Nat.le_refl _⟩
theorem test_partialImageApply :
    let s := { up with bond := { Bond.reset with applying := some (0, image 1 8 7) } }
    let t := after (.partialImageApply 0) s
    s.live = true ∧ s.partialCheck (sections (image 1 8 7)) = none ∧ t.bond.applying = none ∧ t.bond.activeSeq = 8 ∧
    (t.bondPort 0).st = .done := by decide +kernel
/-- One AXES section that names axis 0 twice is refused with RANGE. -/
def axes00 : List Byte := zeros 12 ++ leBytes 2 1 ++ zeros 50 ++ leBytes 2 secAxes ++ zeros 2 ++ leBytes 4 80 ++ leBytes 4 8 ++ zeros 12
theorem test_partialImageApply_refused :
    let s := { up with bond := { Bond.reset with applying := some (0, axes00) } }
    let t := after (.partialImageApply 0) s
    (s.partialCheck (sections axes00)).isSome = true ∧ (t.bondPort 0).st = .refused ∧ t.bond.activeSeq = 0 := by decide +kernel
/-- A SLICE section for a spare's adoption: the field that departs first is named. -/
def sliceImage (id role phys : Nat) : List Byte :=
  zeros 12 ++ leBytes 2 1 ++ zeros 50 ++ leBytes 2 0x21 ++ zeros 2 ++ leBytes 4 80 ++ leBytes 4 64 ++ zeros 4 ++
    leBytes 2 id ++ [BitVec.ofNat 8 role, BitVec.ofNat 8 phys] ++ zeros 60
theorem test_adoption_order :
    let s (id role phys : Nat) : State := { up with
      cfg := { up.cfg with slice := { up.cfg.slice with role := 1 } },
      bond := { Bond.reset with applying := some (0, sliceImage id role phys) } }
    let off (id role phys : Nat) : Nat := ((after (.partialImageApply 0) (s id role phys)).bondPort 0).errOff.toNat
    (s 9 0 0).live = true ∧ (sectOf (sections (sliceImage 8 2 1)) 0x21).map (fun y => (y.idx, y.off)) = some (0, 80) ∧
    (s 9 0 0).cfg.slice.physW ≠ 1 ∧
    [off 8 2 1, off 9 2 1, off 9 0 1] = [80, 82, 83] ∧ ((after (.partialImageApply 0) (s 8 2 1)).bondPort 0).code = 0x0B := by
  decide +kernel
theorem test_bu9 :
    let s := { stage 9 with bond := { Bond.reset with staged := some (1, image 0 8 0) } }
    s.stageRuns 9 = true ∧ s.bond.staged = some (1, image 0 8 0) ∧ s.fullCheck (sections (image 0 8 0)) = none := by
  decide +kernel
theorem test_bu9_fail :
    let s := { stage 9 with bond := { Bond.reset with staged := some (1, axes00) } }
    let t := after .bu9 s
    (s.fullCheck (sections axes00)).isSome = true ∧ t.bu.st = .failed ∧ (t.bondPort 1).st = .refused := by decide +kernel

/-! ## Casts -/

/-- A cast region of one chunk and a buddy region of two halves of 64 MiB; casts go to node 0, those of node 9 are held. -/
def castUp : State :=
  { up with cfg := { up.cfg with
      regions := [{ region0 with cast := true, size := 0x4000000 }, { region0 with id := 1, buddy := true, base := 0x4000000, size := 0x8000000 }]
      cast := { CastCfg.reset with sendEn := true, holdEn := true, holdFor := 9 } } }
def withCkp (s : State) (f : Ckp → Ckp) : State := { s with ckp := f s.ckp }
theorem test_cast_send :
    let s := withCkp castUp fun k => { k with genTag := 3 }
    let b := s.modCtx 0 fun c => { c with live := 1 }
    s.writable = true ∧ s.ownedBy 0 = true ∧ s.quiescent = true ∧ (after (.send 0) s).ckp.st = 1 ∧
    (after (.send 0) s).ckp.total = 2 ∧ (after (.send 0) castUp).ckp.code = 2 ∧ b.quiescent = false ∧
    (after (.send 0) b).ckp.code = 1 := by decide +kernel
theorem test_cast_restore :
    let b := castUp.modCtx 0 fun c => { c with enable := true }
    let o := withCkp castUp fun k => { k with restoreFrom := 15 }
    castUp.restorable = true ∧ castUp.inSlice 0 = true ∧ (after (.restore 0) castUp).ckp.st = 3 ∧ b.restorable = false ∧
    (after (.restore 0) b).ckp.code = 1 ∧ o.inSlice 15 = false ∧ (after (.restore 0) o).ckp.code = 2 := by decide +kernel
theorem test_cast_abort :
    let s := withCkp castUp fun k => { k with st := 1 }
    (after (.abort 0) s).ckp.code = 0x0A ∧ (after (.abort 0) castUp).ckp = castUp.ckp ∧ (after (.send 0) s).ckp = s.ckp ∧
    (after (.restore 0) s).ckp = s.ckp := by decide +kernel
/-- One chunk, its schedule block digested (or not yet): the digest of chunk 1 is the last (or not). -/
theorem test_castChunkDigest :
    let c : CastSend := { n := 0, die := 0, sched := [], header := castUp.castHeader, digests := [(0, [1])], begun := true, headSent := false }
    let s (c : CastSend) := withCkp castUp fun k => { k with st := 1, sending := some c }
    (s c).live = true ∧ (s c).ckp.sending = some c ∧ (s c).chunkAddrs = [0] ∧ Tab.find? c.digests 1 = none ∧
    (s c).castOpen c.n ≤ 15 * 16384 ∧ c.digests.length = (s c).chunkAddrs.length ∧
    ({ c with digests := [] } : CastSend).digests.length < (s { c with digests := [] }).chunkAddrs.length := by decide +kernel

/-- A cast message of node 9, next in its flow. -/
def cast9 (opc : BitVec 8) (bs : List Byte) : Packet :=
  { base9 with tc := 3, opc := opc, addr := 0, len := BitVec.ofNat 16 bs.length, payload := bs, tgtFlag := 0 }
/-- A generation header with STATE `st`, COMP_SEQ `comp` and so many regions and bytes. -/
def header9 (st comp regions size : Nat) (root : List Byte) : List Byte :=
  leBytes 4 0x54534143 ++ [1, 0, BitVec.ofNat 8 st, 0] ++ leBytes 8 3 ++ leBytes 4 5 ++ leBytes 2 9 ++ leBytes 2 regions ++
  leBytes 8 1 ++ leBytes 8 size ++ zeros 8 ++ leBytes 8 7 ++ leBytes 8 comp ++ root ++ zeros 32
theorem test_castBegin :
    let p (n : Nat) := cast9 0x40 (header9 1 0 0 n (zeros 32))
    let t := after (.castBegin 0 (p 0)) (got (p 0) castUp)
    let busy := withCkp castUp fun k => { k with streams := 1 }
    expected9 (p 0) (got (p 0) castUp) = true ∧ castUp.heldSender (p 0) = true ∧ castUp.halfAt 0 = some (0x4000000, 0x4000000) ∧
    castUp.halfState 0 = 0 ∧ fieldAt (pktPayload (p 0)) 0x20 8 + 2 ^ 26 ≤ 0x4000000 ∧
    fieldAt (pktPayload (p 1)) 0x20 8 + 2 ^ 26 > 0x4000000 ∧ t.ckp.receiving = some 0 ∧ t.halfState 0 = 1 ∧ t.ckp.hold0 = 1 ∧
    (after (.castBegin 0 (p 1)) (got (p 1) castUp)).mem = [] ∧ (after (.castBegin 0 (p 0)) (got (p 0) busy)).mem = [] := by
  decide +kernel
/-- A message that ends with the half, and one that would pass its end. -/
theorem test_castData :
    let s := withCkp castUp fun k => { k with receiving := some 0 }
    let p (a : Nat) := { cast9 0x41 [1, 2, 3, 4] with addr := BitVec.ofNat 48 a }
    let t := after (.castData 0 (p 0x3FFFFFC)) (got (p 0x3FFFFFC) s)
    t.readPier 0x7FFFFFC 4 = [1, 2, 3, 4] ∧ (after (.castData 0 (p 0x3FFFFFD)) (got (p 0x3FFFFFD) s)).mem = [] ∧
    expected9 (p 0x3FFFFFC) (got (p 0x3FFFFFC) s) = true ∧ castUp.ckp.receiving = none ∧
    (after (.castData 0 (p 0)) (got (p 0) castUp)).mem = [] := by decide +kernel
/-- The root over a half of zeros, worked outside the model. -/
def root0 : List Byte := leBytes 32 84490542576952504321712397846407954291433872977959859143969049866310009980450
theorem test_castEnd :
    let s := withCkp castUp fun k => { k with receiving := some 0 }
    let p := cast9 0x42 (header9 1 0 0 0 root0)
    expected9 p (got p s) = true ∧ s.heldSender p = true ∧ sliceAt (pktPayload p) 0x40 32 = root0 ∧
    rootOf (s.readPier 0x4000000 metaBytes) = root0 ∧ rootOf (s.readPier 0x4000000 metaBytes) ≠ zeros 32 := by decide +kernel
/-- Half 1 holds a complete generation of tag 3. -/
theorem test_restoreReq :
    let p (src : BitVec 17) := { cast9 0x43 (leBytes 8 3 ++ zeros 8) with src := src }
    let s := castUp.writePier 0x8000000 (header9 2 1 0 0 (zeros 32))
    expected9 (p 9) (got (p 9) s) = true ∧ s.heldSender (p 9) = true ∧ s.heldSender (p 8) = false ∧
    expected9 (p 8) (got (p 8) s) = true ∧ castUp.serveHalf 3 false = none ∧ s.serveHalf 3 false = some 1 ∧
    s.halfAt 1 = some (0x8000000, 0x4000000) := by decide +kernel
theorem test_restoreBad :
    let p := { cast9 0x47 [] with arg := 1 }
    let s := castUp.writePier 0x8000000 (header9 2 1 0 0 (zeros 32))
    expected9 p (got p s) = true ∧ (after (.restoreBad 0 p) (got p s)).halfState 1 = 0 ∧ s.halfState 1 = 2 := by decide +kernel

/-! ## Restoring -/

/-- A module without cast regions that restores from node 9, and whose CKP_RESTORE_FROM has been written since. -/
def rest9 (q : Restoring) : State :=
  withCkp { castUp with cfg := { castUp.cfg with regions := [] } } fun k => { k with st := 3, restoreFrom := 11, restoring := some q }
def q0 : Restoring := Restoring.start 9 0 1 false 0
theorem test_restoreMeta :
    let p (a : Nat) := { cast9 0x45 [1, 2, 3, 4] with addr := BitVec.ofNat 48 a }
    let s := rest9 q0
    let t := after (.restoreMeta 0 (p 8)) (got (p 8) s)
    expected9 (p 8) (got (p 8) s) = true ∧ (p 8).src.toNat = q0.holder ∧ s.ckp.restoreFrom = 11 ∧
    t.ckp.restoring.map (fun q => q.meta_) = some [(8, 1), (9, 2), (10, 3), (11, 4)] ∧
    (after (.restoreMeta 0 (p 8)) (got (p 8) (rest9 q0.again))).ckp.restoring = some q0.again := by
  decide +kernel
/-- The root of a generation of node 5 with no region, worked outside the model. -/
def root5 : List Byte := leBytes 32 1159052412708627152767883449052248669772802602975056463739908016064481319946
/-- The last bytes of a meta image whose header is there already. -/
theorem test_restoreMeta_last :
    let q (n : Nat) := { q0 with meta_ := Mem.write [] 0 (header9 2 7 n 0 root5) }
    let p := { cast9 0x45 (zeros 8) with addr := 0xFFFF8 }
    let m (n : Nat) := Mem.read (Mem.write (q n).meta_ 0xFFFF8 ((pktPayload p).take 8)) 0 metaBytes
    expected9 p (got p (rest9 (q 0))) = true ∧ fieldAt (m 0) 0 4 = 0x54534143 ∧ fieldAt (m 0) 4 2 = 1 ∧ fieldAt (m 0) 6 1 = 2 ∧
    fieldAt (m 0) 0x10 4 % 2 ^ 17 = 5 ∧ (rest9 (q 1)).directoryOk (m 1) = false ∧ (rest9 (q 0)).directoryOk (m 0) = true ∧
    sliceAt (m 0) 0x40 32 = root5 ∧ (0xFFFF8 + p.len.toNat ≥ metaBytes) := by decide +kernel
theorem test_restoreMeta_root :
    rootOf (Mem.read (Mem.write (Mem.write [] 0 (header9 2 7 0 0 root5)) 0xFFFF8 (zeros 8)) 0 metaBytes) = root5 := by
  decide +kernel
theorem test_restoreData :
    let p := { cast9 0x44 [1, 2, 3, 4] with addr := BitVec.ofNat 48 (2 ^ 47 + 0x3FFFFFC) }
    let s := withCkp castUp fun k => { k with st := 3, restoreFrom := 9, restoring := some q0 }
    let t := after (.restoreData 0 p) (got p s)
    expected9 p (got p s) = true ∧ addrLoc p.addr = some (.pier 0x3FFFFFC) ∧
    (s.castRegions.find? (fun y => y.base ≤ 0x3FFFFFC && 0x3FFFFFC < y.base + y.size)).map (·.size) = some 0x4000000 ∧
    t.readPier 0x3FFFFFC 4 = [1, 2, 3, 4] ∧ t.ckp.restoring.map (·.written) = some [1] := by decide +kernel
theorem test_restoreEnd :
    let p (a : BitVec 16) := { cast9 0x46 [] with arg := a }
    let t (q : Restoring) (a : BitVec 16) := (after (.restoreEnd 0 (p a)) (got (p a) (rest9 q))).ckp
    expected9 (p 1) (got (p 1) (rest9 q0)) = true ∧ (t q0 2).code = 7 ∧ (t q0 1).restoring.map (·.attempt) = some 2 ∧
    (t { q0 with metaOk := true } 0).restoring.map (·.ended) = some true ∧
    (t { q0 with skip := true } 1).restoring = some q0 := by decide +kernel
/-- The fallback attempt fails too: RESTORE_BAD goes out, and the restore ends with DIGEST. -/
theorem test_restore_lost :
    let p := { cast9 0x46 [] with arg := 1 }
    let q := { q0.again with skip := false }
    let t := after (.restoreEnd 0 p) (got p (rest9 q))
    expected9 p (got p (rest9 q)) = true ∧ q.attempt = 2 ∧ t.ckp.st = 5 ∧ t.ckp.code = 8 ∧
    (t.rte.send.any fun f => f.unacked.any fun u => u.pkt.opc == 0x47 && u.pkt.dest == 9) = true := by decide +kernel
/-- A whole meta image of another node: a failure like that of a digest. -/
theorem test_restoreMeta_other :
    let q := { q0 with meta_ := Mem.write [] 0 (header9 1 7 0 0 root5) }
    let p := { cast9 0x45 (zeros 8) with addr := 0xFFFF8 }
    let t := after (.restoreMeta 0 p) (got p (rest9 q))
    expected9 p (got p (rest9 q)) = true ∧ t.ckp.st = 3 ∧ t.ckp.fallback = true := by decide +kernel
theorem test_restoreChunkDigest :
    let q := { q0 with metaOk := true, written := [1] }
    (rest9 q).live = true ∧ 0 ∉ q.checked ∧ 1 ∉ q.checked ∧ 1 ∈ q.written ∧ q.attempt < 2 := by decide +kernel
theorem test_restoreApply :
    let q := { q0 with metaOk := true, ended := true, checked := [0] }
    (rest9 q).live = true ∧ (rest9 q).chunkAddrs = [] ∧ ∀ i ≤ (rest9 q).chunkAddrs.length, i ∈ q.checked := by decide +kernel

/-! ## Digests of whole chunks -/

theorem round_length (a : List W64) (rc : W64) : (keccakRound a rc).length = 25 := by
  have h : (keccakChi (keccakRhoPi (keccakTheta a))).length = 25 := by simp [keccakChi]
  simp only [keccakRound]
  split
  · next hn => rw [hn] at h; exact absurd h (by simp)
  · next v t hn => rw [hn] at h; simpa using h
theorem rounds_length (l : List W64) (a : List W64) (h : a.length = 25) : (l.foldl keccakRound a).length = 25 := by
  induction l generalizing a with
  | nil => exact h
  | cons x t ih => exact ih _ (round_length a x)
theorem keccakF_length (a : List W64) (h : a.length = 25) : (keccakF a).length = 25 := rounds_length _ _ h
theorem absorb_length (l : List (List Byte)) (a : List W64) (h : a.length = 25) :
    (l.foldl (fun a b => keccakF (absorbBlock a b)) a).length = 25 := by
  induction l generalizing a with
  | nil => exact h
  | cons x t ih => exact ih _ (keccakF_length _ (by simp [absorbBlock, h]))
theorem lanes_length (l : List W64) : (l.flatMap fun v => leBytes 8 v.toNat).length = 8 * l.length := by
  induction l with
  | nil => rfl
  | cons x t ih => simp [List.flatMap_cons, leBytes_length, ih]; omega
theorem digest_length (m : List Byte) : (shake256 m 32).length = 32 := by
  have h := absorb_length (chunks shakeRate (shakePad m)) (List.replicate 25 0) (by simp)
  simp only [shake256, sponge, shakeRate, Nat.reduceAdd, Nat.reduceSub, Nat.reduceDiv, squeeze, List.append_nil, List.length_take,
    lanes_length]
  simp only [shakeRate] at h
  omega
/-- A span of a span that was read from address 0. -/
theorem read_slice {m : List Host.Cell} (hm : Memory.wf m = true) (n o k : Nat) (h : o + k ≤ n) :
    sliceAt (Mem.read m 0 n) o k = Mem.read m o k := by
  apply List.ext_getElem?
  intro i
  rw [Mem.read_getElem? hm, sliceAt, List.getElem?_take, List.getElem?_drop, Mem.read_getElem? hm]
  by_cases hi : i < k
  · have h2 : o + i < n := by omega
    simp [hi, h2]
  · simp [hi]
theorem write_read (bs : List Byte) (a n : Nat) (h : bs.length = n) : Mem.read (Mem.write [] a bs) a n = bs := by
  apply List.ext_getElem?
  intro i
  rw [Mem.read_getElem? (Mem.wf_write rfl a bs), Mem.get_write]
  by_cases hi : i < n
  · have h2 : a ≤ a + i ∧ a + i < a + bs.length := by omega
    have h3 : i < bs.length := by omega
    simp [hi, h]
  · have h3 : bs.length ≤ i := by omega
    simp [hi, List.getElem?_eq_none h3]
theorem write_beyond (bs : List Byte) (a b n : Nat) (h : a + bs.length ≤ b) :
    Mem.read (Mem.write [] a bs) b n = Mem.read [] b n := by
  apply List.ext_getElem?
  intro i
  have h2 : ¬ (a ≤ b + i ∧ b + i < a + bs.length) := by omega
  rw [Mem.read_getElem? (Mem.wf_write rfl a bs), Mem.read_getElem? rfl, Mem.get_write, if_neg h2]

/-- A meta image whose digest table lists `d` for chunk 0; the rest of it is zero. -/
theorem meta_slices (d : List Byte) (o n N : Nat) (hd : d.length = 32) (h : o + 32 ≤ n) (hN : n + n ≤ N) :
    sliceAt (Mem.read (Mem.write [] o d) 0 N) n n = Mem.read [] n n ∧
    sliceAt (Mem.read (Mem.write [] o d) 0 N) o 32 = d := by
  have hw : Memory.wf (Mem.write [] o d) = true := Mem.wf_write rfl _ _
  exact ⟨(read_slice hw N n n hN).trans (write_beyond d o n n (by omega)),
    (read_slice hw N o 32 (by omega)).trans (write_read d o 32 hd)⟩
theorem digest_differs (b : List Byte) (d : List Byte) (hd : d = (shake256 b 32).map (· + 1)) : shake256 b 32 ≠ d := by
  subst hd
  have hl := digest_length b
  generalize shake256 b 32 = x at hl
  cases x with
  | nil => simp at hl
  | cons x t =>
    intro h
    have h0 : x = x + 1 := (List.cons.inj h).1
    exact (by decide : ∀ x : Byte, x ≠ x + 1) x h0
/-- A restore whose meta image lists `d` for the schedule block, of zeros. -/
def q8 (d : List Byte) : Restoring := { q0 with metaOk := true, meta_ := Mem.write [] (0x4000 + 32 * 0) d }
theorem q8_wants (d : List Byte) :
    (rest9 (q8 d)).live = true ∧ (q8 d).metaOk = true ∧ (q8 d).checked = [] ∧ (q8 d).attempt = 1 := 
  ⟨show (rest9 q0).live = true by decide +kernel, rfl, rfl, rfl⟩
theorem test_restoreChunkDigest_right (b : List Byte) (hb : b = Mem.read [] 0x80000 0x80000) :
    let m := Mem.read (q8 (shake256 b 32)).meta_ 0 metaBytes
    shake256 (sliceAt m 0x80000 0x80000) 32 = sliceAt m (0x4000 + 32 * 0) 32 := by
  have h := meta_slices (shake256 b 32) (0x4000 + 32 * 0) 0x80000 metaBytes (digest_length b) (by decide) (by decide)
  rw [← hb] at h
  exact (congrArg (fun l => shake256 l 32) h.1).trans h.2.symm
theorem test_restoreChunkDigest_wrong (b d : List Byte) (hb : b = Mem.read [] 0x80000 0x80000)
    (hd : d = (shake256 b 32).map (· + 1)) :
    let m := Mem.read (q8 d).meta_ 0 metaBytes
    shake256 (sliceAt m 0x80000 0x80000) 32 ≠ sliceAt m (0x4000 + 32 * 0) 32 := by
  have hl : d.length = 32 := by rw [hd, List.length_map, digest_length]
  have h := meta_slices d (0x4000 + 32 * 0) 0x80000 metaBytes hl (by decide) (by decide)
  rw [← hb] at h
  intro m e
  exact digest_differs b d hd (((congrArg (fun l => shake256 l 32) h.1).symm.trans e).trans h.2)

/-! ## Rungs 2 and 3, freeze and debug -/

theorem test_partReset :
    let s := { (run0 []).modEng 0 fun x => { x with copies := [op0] } with hosts := up.hosts }
    let c := withCkp s fun k => { k with st := 1 }
    let t := after (.ckpPartReset 0 1) c
    s.writable = true ∧ s.hostOf 0 = 0 ∧ s.partOfEngine 0 = some 0 ∧ (t.part 0).resetBusy = true ∧ (t.part 0).haltNoEngine = true ∧
    ((t.eng 0).copies.map (·.reset)) = [true] ∧ t.ckp.code = 0x0A ∧ (after (.ckpPartReset 0 2) c).parts = c.parts ∧
    ((after (.partResetDone 0) t).part 0).resetBusy = true := by decide +kernel
/-- A channel that a reset clears takes no GO of that cycle. -/
theorem test_clearedNow :
    let s := (run0 [(3, 7)]).modPart 0 fun x => { x with resetBusy := true, halted := true }
    let t := after (.partResetDone 0) s
    let p := after (.perstAssert 0) up
    t.clearedNow = [(0, false, 1)] ∧ after (.mbGo 0 false 1) t = t ∧ ((after (.mbGo 0 false 2) t).chan 0 false 2).go = true ∧
    ((after (.mbGo 0 false 1) t.endCycle).chan 0 false 1).go = true ∧ p.clearedNow.length = 16 ∧
    after (.mbGo 0 true 3) p = p := by decide +kernel
theorem test_partResetDone :
    let s := (run0 [(3, 7)]).modPart 0 fun x => { x with resetBusy := true, halted := true }
    s.live = true ∧ (∀ x ∈ s.engines, s.partOfEngine x.1 = some 0 → x.2.copies = []) ∧ s.partOfCourse 0 = some 0 ∧
    s.partOfCourse 4 = none ∧ s.partOfCtx 8 = none ∧ s.partOfSlot 7 = some 0 ∧ s.partOfSlot 8 = none := by decide +kernel
theorem test_modReset :
    let t := after (.ckpModReset .smb 0xA5) { run0 [(3, 7)] with latches := [(0, (8, 3)), (2, (8, 4))] }
    let r := { up with bu := { up.bu with rung3 := true, st := .running } }
    up.masonUp = true ∧ up.ownerOrBus .smb = true ∧ t.bu.stage = 1 ∧ t.bu.rung3 = true ∧ (t.eng 0).g = [] ∧
    t.latches = [(0, (8, 3))] ∧ t.clearedNow.length = 32 ∧ t.cfg.applied = false ∧ (after (.ckpModReset .smb 0xA4) up).bu = up.bu ∧ (after (.ckpModReset .hp0 0xA5) r).bu = r.bu := by
  decide +kernel
theorem test_freeze :
    let s := { up with ports := [(4, { Port.reset with fitted := true, st := .up })] }
    let t := after .freeze (after (.frzCtrl .hp0 0x5A) s)
    s.writable = true ∧ (after (.frzCtrl .hp0 0x5A) s).frz.latched = true ∧ (after (.frzCtrl .hp0 0x5B) s).frz = s.frz ∧
    (after .frzNAssert s).frz.pin = true ∧ (after .frzNAssert s).gen.frzN = false ∧ t.frz.frozen = true ∧
    t.out = [.idle 4 s.hbCount false true] ∧ (after .freeze s).frz = s.frz := by decide +kernel
def dbg (space : BitVec 2) (a : W64) (s : State) : State :=
  { s with frz := { Frz.reset with frozen := true, goPending := true, goOk := true, space := space, addr := a } }
theorem test_dbgGo :
    (after (.dbgGo .hp0 0x201) up).frz.goPending = true ∧ (after (.dbgGo .hp0 0x200) up).frz.space = 2 ∧
    up.ownerOnly .hp0 = true ∧ (after (.dbgGo .smb 0x201) up).frz = up.frz := by decide +kernel
theorem test_dbgRead :
    let p := { (up.writePier 0x100 [7]) with piers := [(0, { Pier.reset with fitted := true, trained := true })] }
    let e := inLs (run0 [(31, 5)]) 0x100 [9]
    let d (s : State) := (after (.dbgReadDone false) s).frz
    (d (dbg 0 0x100 { p with mem := [(0x100, 7)] })).data.take 2 = [7, 0] ∧ (p.pier 0).trained = true ∧
    (after (.dbgReadDone true) (dbg 0 0x100 p)).frz.err = 3 ∧ (d (dbg 0 0x101 p)).err = 2 ∧
    (d { dbg 0 0x100 p with frz := { (dbg 0 0x100 p).frz with goOk := false } }).err = 1 ∧
    (d (dbg 2 0x100 e)).data.take 1 = [9] ∧ (d (dbg 2 0x60000 e)).err = 2 ∧ (d (dbg 2 0x5FF00 e)).err = 0 ∧
    fieldAt (d (dbg 3 0 e)).data 248 8 = 5 ∧ (e.dom 0).held = false ∧ (e.dom 0).level = 0 := by decide +kernel
theorem test_jtag :
    let t := after (.dbgReq (BitVec.ofNat 72 (2 ^ 66 + 2 ^ 65 + 0x300))) up
    t.frz.goPending = true ∧ t.frz.space = 2 ∧ t.frz.addr = 0x300 ∧
    (after .dbgData { up with frz := { up.frz with doneBit := true, err := 2 } }).out.map
      (fun o => match o with | .jtag bs => (bs.length, bs.headD 0) | _ => (0, 0)) = [(257, 10)] ∧
    t.jtag.ir = 0x40 ∧ (after .dbgData up).jtag.ir = 0x41 ∧ (after .bypass t).jtag.ir = 0xFF ∧
    (after .bypass up).out = [.jtag [0]] ∧ (after (.extest 3 5) up).jtag.drive = true ∧
    (after (.samplePreload 3 5) up).jtag.boundary = 5 := by decide +kernel

/-! ## Registers and the pier window -/

theorem test_reads :
    let s := withCkp up fun k => { k with genTag := 0x500000003 }
    let t := after (.lowHalfRead .hp0 ⟨0x400008, 4⟩) s
    s.regAt 0 0x400008 = some (0x400008, 8, 0x500000003) ∧ s.regAt 0 0x40000C = some (0x400008, 8, 0x500000003) ∧
    t.out = [.regRead .hp0 0x400008 3] ∧ t.latches = [(0, (0x400008, 5))] ∧
    (after (.highHalfRead .hp0 ⟨0x40000C, 4⟩) (withCkp t fun k => { k with genTag := 9 })).out.getLast? =
      some (.regRead .hp0 0x40000C 5) ∧
    (after (.highHalfRead .hp0 ⟨0x40000C, 4⟩) s).out = [.regRead .hp0 0x40000C 5] ∧
    (after (.lowHalfRead .hp0 ⟨0x400009, 4⟩) s).out = [.regRead .hp0 0x400009 0] ∧ s.regAt 0 0x3FFFFC0 = none ∧
    s.frz.held = none ∧ s.masonUp = true := by decide +kernel
theorem test_rcRead :
    let s := { up with pwr := { up.pwr with peak := [(0, 5)], wakeMax := [(2, 6)] } }
    (after (.rcRead .hp0 ⟨0x20010, 4⟩) s).out = [.regRead .hp0 0x20010 5] ∧ (after (.rcRead .hp0 ⟨0x20010, 4⟩) s).pwr.peak = [] ∧
    (after (.rcRead .smb ⟨0x20014, 4⟩) s).pwr.wakeMax = [] := by decide +kernel
theorem test_writes_register :
    let w (a n : Nat) (v : W64) := after (.registerWrite .hp0 a n v) up
    up.writable = true ∧ up.ownedBy 0 = true ∧ up.ownedBy 1 = false ∧ (w 0x400008 8 3).ckp.genTag = 3 ∧
    (w 0x40000C 4 3).ckp.genTag = 0x300000000 ∧ (w 0x400008 4 3).ckp.genTag = 3 ∧ (w 0x400009 4 3).ckp.genTag = 0 ∧
    (after (.registerWrite .hp1 0x400008 8 3) up).ckp.genTag = 0 ∧
    (w 0x200008 4 (3 * 2 ^ 16 + 50)).rte.retxUs = 50 ∧ (w 0x200008 4 (3 * 2 ^ 16 + 49)).rte.retries = 3 ∧
    (w 0x200008 4 (3 * 2 ^ 16 + 49)).rte.retxUs = up.rte.retxUs ∧
    ((w 0x80048 8 0xFFFF).ctx 1).ring = 0xFFC1 ∧ up.reaches (up.partOfCtx 1) 0 = true ∧ up.live = true ∧
    ((w 0x400088 4 4).pwr.lossValid = false) := by decide +kernel
theorem test_writes_chan :
    let t := after (.registerWrite .hp0 (2 ^ 26 + 0x4000 + 0x80 * 9 + 4) 4 7) up
    Tab.get 0 (t.chan 0 false 9).data 1 = 7 ∧ ((after (.genBar4BaseWrite 0 (BitVec.ofNat 64 (2 ^ 41 - 2 ^ 36))) up).host 0).bar4Base =
      BitVec.ofNat 41 (2 ^ 41 - 2 ^ 36) ∧ ((after (.genBar4BaseWrite 0 1) up).host 0).bar4Base = 0 := by decide +kernel
theorem test_bar4 :
    let s := up.writePier 0xFFFFFE [1, 2]
    let b := withCkp castUp fun k => { k with st := 1 }
    s.regionAt 0xFFFFFE = some region0 ∧ s.hostOf 0 = 0 ∧ (after (.bar4Read 0 0xFFFFFE 2) s).out = [.bar4 0 (some [1, 2])] ∧
    (after (.bar4Read 0 0x1000000 2) s).out = [.bar4 0 none] ∧ s.regionAt 0x1000000 = none ∧
    ((after (.bar4Read 0 0x1000000 2) s).host 0).bar4Refused = 1 ∧
    (after (.bar4Write 0 8 [3]) s).readPier 8 1 = [3] ∧ s.touches (·.buddy) 8 1 = false ∧
    castUp.touches (·.buddy) 0x4000000 1 = true ∧ ((after (.bar4Write 0 0x4000000 [3]) castUp).host 0).bar4Refused = 1 ∧
    b.touches (·.cast) 0x3FFFFFF 1 = true ∧ b.touches (·.buddy) 0x3FFFFFF 1 = false ∧
    (after (.bar4Write 0 0x3FFFFFF [3]) b).mem = [] ∧ (after (.bar4Write 0 0 [3]) (dbg 0 0 up)).mem = [] := by decide +kernel

/-! ## Mailboxes -/

/-- A host message in a channel of port 0: words DATA0 on. -/
def msg (secure : Bool) (ch : Nat) (opc count tag : Nat) (ws : List Nat) (s : State) : State :=
  s.modChan 0 secure ch fun x => { (x.put 0 (mbHeader opc count tag :: ws)) with go := true, fromMod := false, busy := false }
def answer (t : State) (secure : Bool) (ch : Nat) : Nat × List Nat :=
  let x := t.chan 0 secure ch
  (x.word 1, (List.range (x.count - 1)).map fun i => x.word (2 + i))
theorem test_mbGo :
    let s := up.modChan 0 false 3 fun x => { x with fromMod := true }
    ((after (.mbGo 0 false 3) up).chan 0 false 3).go = true ∧ (after (.mbGo 0 false 0) up).hosts = up.hosts ∧
    ((after (.take 0 false 3) s).chan 0 false 3).fromMod = false ∧ (after (.take 0 false 3) up).hosts = up.hosts := by
  decide +kernel
theorem test_mailboxTake :
    let u := msg false 9 0x77 0 5 [] up
    let c := msg false 0 0x77 0 5 [] up
    let z := msg true 1 0x80 0 5 [] up
    u.masonUp = true ∧ answer (after (.mailboxTake false []) u) false 9 = (1, []) ∧
    ((after (.mailboxTake false []) u).chan 0 false 9).go = false ∧ (after (.mailboxTake false []) u).sec.lastG = 9 ∧
    answer (after (.mailboxTake false []) c) false 0 = (4, []) ∧ answer (after (.mailboxTake true []) z) true 1 = (5, []) ∧
    (after (.mailboxTake true []) u).hosts = u.hosts := by decide +kernel
theorem test_echoMsg :
    let s (n : Nat) := msg false 9 2 n 5 [3, 4] up
    (s 2).nextChan false = some (0, 9) ∧ answer (after (.echoMsg 0 9) (s 2)) false 9 = (0, [3, 4]) ∧
    (answer (after (.echoMsg 0 9) (s 15)) false 9).1 = 2 := by decide +kernel
theorem test_pathEcho :
    let s (n : Nat) := msg false 9 3 1 5 [n] up
    let t := after (.pathEcho 0 9) (s 9)
    let e := { t with gen := { t.gen with time := 250000 } }
    up.ownNode 9 = false ∧ t.sec.echoes.map (·.bytes) = [leBytes 4 9] ∧ (t.chan 0 false 9).busy = true ∧
    answer (after (.pathEcho 0 9) (s (2 ^ 17))) false 9 = (2, []) ∧
    answer (after (.pathEcho 0 9) { s 9 with sec := { t.sec with lastG := 8 } }) false 9 = (7, []) ∧
    answer (after (.pathEchoTimeout 0 9) e) false 9 = (7, []) ∧ (after (.pathEchoTimeout 0 9) e).sec.echoes = [] ∧
    (after (.pathEchoTimeout 0 9) t).sec.echoes = t.sec.echoes := by decide +kernel

/-! ## Secure messages -/

/-- A channel of port 0 in a session opened with slot `k`. -/
def inSession (k : Nat) (s : State) : State := s.modChan 0 true 2 fun x => { x with session := 2, keySlot := k }
theorem test_challenge :
    let n := leBytes 32 (2 ^ 224 * 9 + 7)
    let s := msg true 2 0xE0 0 5 [] up
    s.nextChan true = some (0, 2) ∧ answer (after (.challenge 0 2 n) s) true 2 = (0, [7, 0, 0, 0, 0, 0, 0, 9]) ∧
    ((after (.challenge 0 2 n) s).chan 0 true 2).session = 1 := by decide +kernel
/-- The last 4 bytes of a proof of 118 bytes: slot 3, three zeros, and `sig1`. -/
def proof1 (key : List Byte) (session : Nat) : State :=
  (msg true 2 0xE1 2 5 [118 * 2 ^ 16 + 114, 0] { up with sec := { up.sec with hostKeys := [(3, key)] } }).modChan 0 true 2
    fun x => { x with session := session, long := [3, 0, 0, 0] ++ sig1.take 110, longOpc := 0xE1, longTotal := 118 }
theorem test_open_whole :
    ((proof1 key1 1).chan 0 true 2).opcode = 0xE1 ∧ (proof1 key1 1).nextChan true = some (0, 2) ∧
    (((proof1 key1 1).chan 0 true 2).fragment 0xE1 (some 118)).1 = .whole ([3, 0, 0, 0] ++ sig1) ∧
    ((proof1 key1 1).chan 0 true 2).session = 1 ∧ Tab.find? (proof1 key1 1).sec.hostKeys 3 = some key1 ∧
    fieldAt ([3, 0, 0, 0] ++ sig1) 0 1 = 3 ∧ zeroAt ([3, 0, 0, 0] ++ sig1) 1 3 = true ∧
    sliceAt ([3, 0, 0, 0] ++ sig1) 4 114 = sig1 := by decide +kernel
theorem test_open_proven (n : List Byte) : edVerify key1 "HT4-SESS" (n ++ [0, 2]) sig1 = true := verify_neutral _ _
theorem test_open_unproven :
    answer (after (.openMsg 0 2) (proof1 key1 0)) true 2 = (6, []) ∧
    answer (after (.openMsg 0 2) (msg true 2 0xE1 2 5 [117 * 2 ^ 16, 0] up)) true 2 = (2, []) := by decide +kernel
theorem test_closeMsg :
    let s := inSession 1 (msg true 2 0xE2 0 5 [] up)
    ((after (.closeMsg 0 2) s).chan 0 true 2).session = 0 ∧ answer (after (.closeMsg 0 2) s) true 2 = (0, []) := by decide +kernel
theorem test_fwUpdate :
    let s (k n : Nat) := inSession k (msg true 2 0x80 3 5 [0x40, 0, n] { up with sec := { up.sec with slotB := [1] } })
    let t := after (.fwUpdate 0 2) (s 0 (2 ^ 24))
    (s 0 1).nextChan true = some (0, 2) ∧ answer (after (.fwUpdate 0 2) (s 1 4)) true 2 = (4, []) ∧
    answer (after (.fwUpdate 0 2) (s 0 (2 ^ 24 + 1))) true 2 = (0, [8]) ∧
    t.sec.updating = some { port := 0, ch := 2, tag := 5, addr := 0x40, len := 2 ^ 24, second := false, sent := true } ∧
    answer (after (.fwUpdate 0 2) (s 0 0)) true 2 = (0, [0]) ∧ t.sec.slotB = [] ∧
    answer (after (.fwUpdate 0 2) (inSession 0 (msg true 2 0x80 3 5 [0x40, 0, 4]
      { up with sec := { up.sec with installing := some { port := 0, ch := 9, tag := 0, bytes := [], at_ := 0 } } }))) true 2 =
      (7, []) := by decide +kernel
def updating (second : Bool) (arb : BitVec 32) (n : Nat) : State :=
  inSession 0 ({ up with sec := { up.sec with
    updating := some { port := 0, ch := 2, tag := 5, addr := 0x40, len := n, second := second, sent := true }, efFw := key1, arb := arb } }.modChan 0 true 2
      fun x => { x with go := true, busy := true })
theorem test_fwUpdateDone :
    let u := updating false 2 4
    u.hostUsable 0 = true ∧ (u.chan 0 true 2).busy = true ∧ (u.host 0).ctDisable = false ∧ u.fwValid [1, 2, 3, 4] = false ∧
    answer (after (.fwUpdateDone ⟨[], .data [1, 2, 3, 4]⟩) u) true 2 = (0, [1]) ∧ fw5.length = 192 ∧
    fwSvn fw5 = 2 := by decide +kernel
theorem test_fwUpdateDone_valid (second : Bool) (arb : BitVec 32) : (updating second arb 192).fwValid fw5 = true := fw5_valid _ rfl
theorem test_fwCommit :
    let s := inSession 0 (msg true 2 0x81 0 5 [] up)
    let t := after (.fwCommit 0 2) s
    s.flashBusy = false ∧ t.sec.committing.isSome = true ∧ answer (after .fwCommitDone t) true 2 = (0, [9, 0]) := by decide +kernel
theorem test_fwCommit_both (arb : BitVec 32) :
    let o : MbOp := { port := 0, ch := 2, tag := 5, bytes := [], at_ := 0 }
    let s := ({ up with sec := { up.sec with
      slotA := fw5, slotB := fw5, efFw := key1, arb := arb, committing := some o } }).modChan 0 true 2
        fun x => { x with go := true, busy := true }
    s.masonUp = true ∧ s.sec.committing = some o ∧ (s.chan 0 true 2).busy = true ∧ s.fwValid s.sec.slotA = true ∧
      s.fwValid s.sec.slotB = true := ⟨rfl, rfl, rfl, fw5_valid _ rfl, fw5_valid _ rfl⟩
theorem test_attest :
    let s := msg false 9 0x20 8 5 [1, 2, 3, 4, 5, 6, 7, 8] up
    let k := { s with sec := { s.sec with seed := some [1] } }
    let b := { k with sec := { k.sec with attesting := [{ port := 0, ch := 10, tag := 0, bytes := [], at_ := 0 }] } }
    answer (after (.attest 0 9) s) false 9 = (0, [10]) ∧ answer (after (.attest 0 9) b) false 9 = (7, []) ∧
    (after (.attest 0 9) k).sec.attesting.map (fun o => o.bytes.take 5) = [[1, 0, 0, 0, 2]] ∧
    ((after (.attest 0 9) k).chan 0 false 9).busy = true := by decide +kernel
theorem test_getCert :
    let s := msg false 9 0x21 0 5 [] up
    let k := { s with sec := { s.sec with cert := [7, 8] } }
    s.devCert = [] ∧ answer (after (.getCert 0 9) s) false 9 = (0, [10]) ∧
    answer (after (.getCert 0 9) k) false 9 = (0, [0, 2]) ∧ ((after (.getCert 0 9) k).host 0).secBuf = [7, 8] := by decide +kernel
theorem test_install :
    let m (t : Nat) := msg false 9 0x22 2 5 [t * 2 ^ 16, 0x01020304] up
    let o := { m 4 with cfg := { up.cfg with ownerPort := 1 } }
    let b := { m 4 with sec := { up.sec with committing := some { port := 0, ch := 9, tag := 0, bytes := [], at_ := 0 } } }
    answer (after (.install 0 9) o) false 9 = (4, []) ∧ o.ownedBy 0 = false ∧ answer (after (.install 0 9) b) false 9 = (7, []) ∧
    ((((m 8).chan 0 false 9).fragment 0x22 none).1 = .answer 0) ∧ (((m 4).chan 0 false 9).fragment 0x22 none).1 = .whole [4, 3, 2, 1] ∧
    (m 4).installCheck [4, 3, 2, 1] = 4 ∧ answer (after (.install 0 9) (m 4)) false 9 = (0, [4]) := by decide +kernel
/-- A licence of 256 bytes whose last 4 bytes come with this message. -/
def lastBytes : State :=
  (msg false 9 0x22 2 5 [256 * 2 ^ 16 + 252, 0] (keys5 2)).modChan 0 false 9
    fun x => { x with long := licence5.take 252, longOpc := 0x22, longTotal := 256 }
theorem test_install_whole : ((lastBytes.chan 0 false 9).fragment 0x22 none).1 = .whole licence5 := by decide +kernel
theorem test_install_accepted : lastBytes.installCheck licence5 = 0 := by
  have h : recSigner licence5 = 1 := by decide +kernel
  have hs : sliceAt licence5 (licence5.length - 120) 114 = sig1 := by decide +kernel
  have hv : lastBytes.recSigned licence5 = signerOk (recType licence5) (recSigner licence5) := by
    have hk : lastBytes.signerKey (recSigner licence5) = key1 := by rw [h]; rfl
    simp only [State.recSigned, hk, hs, verify_neutral, Bool.and_true]
  rw [State.installCheck, hv]
  decide +kernel
theorem test_attestDone :
    let s := (msg false 9 0x20 0 5 [] { up with sec := { up.sec with
      seed := some seed5, attesting := [{ port := 0, ch := 9, tag := 5, bytes := zeros 32, at_ := 0 }] } }).hold 0 false 9
    s.masonUp = true ∧ (s.chan 0 false 9).busy = true ∧ (s.reportBody (zeros 32)).length = 224 := by decide +kernel
/-- A KEY record that fills host slot 2. -/
def keyRec : List Byte := rec1 5 9 (zeros 16) ([1, 2] ++ zeros 6 ++ key1 ++ zeros 7) 1
def installing (b : List Byte) : State :=
  (msg false 9 0x22 0 5 [] (inSession 2 { up with sec := { up.sec with
    seed := none, block := some (zeros 32), rpmbKey := zeros 32, records := [(0, [7])],
    installing := some { port := 0, ch := 9, tag := 5, bytes := b, at_ := 0 } } })).hold 0 false 9
/-- Of the block key alone: mason-S holds no seed, and a licence can be installed. -/
theorem test_installDone :
    let t := after (.installDone true) (installing keyRec)
    answer (after (.installDone false) (installing licence5)) false 9 = (0, [5]) ∧ recType licence5 = 4 ∧
    (after (.installDone true) (installing licence5)).sec.licGen = 3 ∧ recType keyRec = 5 ∧ t.sec.keyGen = 9 ∧
    Tab.get [] t.sec.hostKeys 2 = key1 ∧ (t.chan 0 true 2).session = 0 ∧ answer t false 9 = (0, [0]) := by decide +kernel

/-! ## Management bus, power, PERST -/

theorem test_smb :
    let s := { up with smbPtr := 0x20000 }
    let t := after (.smbWrite 4 true 900) s
    (after (.smbSetPointer 4 true 0x20020) up).smbPtr = 0x20020 ∧ (after (.smbSetPointer 3 true 1) up).out = [.smb none] ∧
    t.pwr.capW = 900 ∧ t.smbPtr = 0x20004 ∧ (after (.smbWrite 4 true 799) s).pwr.capW = up.pwr.capW ∧
    (after (.smbWrite 4 true 3) { up with smbPtr := 0x400008 }).ckp = up.ckp ∧ (after (.smbRead false) s).out = [.smb none] ∧
    (after (.smbRead true) { up with smbPtr := 0x20020 }).out = [.smb (some (BitVec.ofNat 32 (up.pwr.seq.code + 8)))] ∧
    (after (.smbRead true) { up with smbPtr := 0x80000 }).out = [.smb (some 0)] := by decide +kernel
theorem test_power :
    let off := { State.reset with pwr := { Pwr.reset with inputOn := true } }
    let r := after (.pwrEnRise 3 true true 0) off
    let w := { off with pwr := { off.pwr with waitLow := true } }
    let x := { w with pwr := { w.pwr with fell := true, en := true, lossCause := 3 } }
    off.pwr.seq = .off ∧ r.pwr.seq = .rising ∧ r.bu.stage = 0 ∧ r.gen.feedId = 3 ∧ r.bu.strapWord = 0x13 ∧ r.bu.logCount = 0 ∧
    (after (.pwrEnRise 3 true true 0) w).pwr.seq = .off ∧ (after (.pwrEnHoldExpiry 3 true false 2) x).pwr.seq = .rising ∧
    (after (.pwrEnHoldExpiry 3 true true 0) { x with pwr := { x.pwr with en := false } }).pwr.waitLow = false ∧
    (after .inputPowerApply State.reset).pwr.inputOn = true ∧ (after .inputPowerLoss up).pwr = Pwr.reset := by decide +kernel
/-- A step with an empty queue: the steps of the rails, and the removal that follows a step that is not good. -/
theorem test_rail_steps :
    let s (k : Nat) (bad : Option Nat) : State :=
      { State.reset with pwr := { Pwr.reset with inputOn := true, seq := .rising, steps := k, badStep := bad } }
    let t (s : State) : State := match step s with | .next t => t | _ => s
    let f := { s 0 none with pwr := { (s 0 none).pwr with seq := .falling, steps := 3 } }
    (s 0 none).pending = [] ∧ (t (s 2 (some 4))).pwr.seq = .rising ∧ (t (s 2 (some 4))).pwr.steps = 3 ∧
    (t (s 5 none)).pwr.seq = .on ∧ (t (s 5 none)).bu.stage = 1 ∧ (t (s 5 none)).bu.logCount = 1 ∧
    (t (s 3 (some 4))).pwr.seq = .falling ∧ (t (s 3 (some 4))).bu.st = .failed ∧ (t f).pwr.steps = 2 := by decide +kernel
/-- A step with an empty queue: GEN_TIME, LNK_HB_AGE, the cycles of a running item and the timer of a waiting step. -/
theorem test_cycle :
    let s := (run0 [(3, 7)]).modPort 4 fun x => { x with fitted := true, st := .up }
    let t (s : State) : State := match step s with | .next t => t | _ => s
    s.pending = [] ∧ s.pwr.inputOn = true ∧ s.pwr.seq = .on ∧ s.frz.frozen = false ∧ (t s).gen.time = s.gen.time + 1 ∧
    ((t s).port 4).hbAge = (s.port 4).hbAge + 1 ∧ (s.eng 0).item ≠ none ∧ s.courseAwake 0 = true ∧
    (let h := { readySlot desc0 0 0 with status := .yielded 0, saved := some save0 }
     (t (idle 0 5 h)).hodSlot 0 5 = some { h with saved := some { save0 with itemCyc := 9 + 40 } }) ∧
    (t { s with pwr := { s.pwr with inputOn := false } }).gen.time = s.gen.time := by
  decide +kernel
theorem test_power_loss :
    let t := after .thermalTrip up
    (after .underVoltageLockout t).pwr.lossCause = 1 ∧
    (after .underVoltageLockout up).pwr.lossCause = 1 ∧ t.pwr.seq = .falling ∧ t.pwr.fell = false ∧
    (after .thermalTrip t).pwr = t.pwr ∧ (after .pwrEnFall up).pwr.lossCause = 3 ∧ (after .corePowerRemoved t).pwr.seq = .off ∧
    (after .corePowerRemoved { t with latches := [(0, (8, 3))] }).latches = [] ∧
    (after .corePowerRemoved t).cfg.applied = false ∧ (after .corePowerRemoved up).pwr.seq = .on := by decide +kernel
def hostIdle (s : State) (h : Nat) : Bool :=
  (List.range 8).all fun p => s.hostOf p ≠ h || ((s.part p).carrying.isNone && (List.range 8).all fun w => !(s.ofl p w).sent)
theorem test_perst :
    let f := { up with bond := { Bond.reset with ports := [(0, { bp with st := .fetch, goLen := 700, goSrc := 0x1000 })] } }
    let g := { up with bond := { Bond.reset with staged := some (0, []), ports := [(0, bp)] } }
    let d := after (.perstRelease 0) (after (.perstAssert 0) f)
    hostIdle f 0 = true ∧ ((after (.perstAssert 0) f).bondPort 0).code = 0x13 ∧ ((after (.perstAssert 0) f).host 0).perst = true ∧
    ((after (.perstAssert 0) { up with bond := { Bond.reset with ports := [(0, bp)] } }).bondPort 0).len = 0 ∧
    ((after (.perstAssert 0) g).bondPort 0).st = .staged ∧ (d.host 0).linkUp = true ∧ d.hostUsable 0 = false ∧
    ((after (.hostPortReady 0) d).host 0).bme = true ∧ (after (.hostPortReady 0) (after (.perstAssert 0) f)).hosts =
      (after (.perstAssert 0) f).hosts := by decide +kernel
theorem test_hostLink :
    let f := { up with bond := { Bond.reset with ports := [(0, { bp with st := .fetch, goLen := 700, goSrc := 0x1000 })] } }
    let n := { f with hosts := [(0, { (f.host 0) with bme := false })] }
    f.hostUsable 0 = true ∧ hostIdle f 0 = true ∧ (f.bondPort 0).st = .fetch ∧ (after (.hostLinkDown 0) n).bond = n.bond ∧
    (after (.hostLinkDown 0) up).bond = up.bond ∧ n.hostUsable 0 = false ∧
    (after (.hostPortReady 0) n).out = [.hostRead 0 0x1000 512, .hostRead 0 0x1200 188] := by decide +kernel
theorem test_l1 :
    let s := { up with doms := [(90, { Dom.reset with level := 2, held := false })] }
    (s.dom 90).held = false ∧ 2 ≤ (s.dom 90).level ∧ ((after (.pcieL1Exit 0) s).dom 90).wakeReq = true := by decide +kernel

/-! ## Invariants -/

theorem test_canonical :
    let s := { inLs up 0x100 [1, 0, 2] with pending := [.freeze] }
    Memory.wf s.ls = true ∧ Memory.wf s.cs = true ∧ Memory.wf s.mem = true ∧ ok (step s) = true := by decide +kernel

/-! ## More clauses: engines, copies, items, packets of engines -/

/-- Rows at pitch 32 have each byte to itself, beside the scale bytes; of rows at pitch 0 the last one stays. -/
theorem test_encodeBytes :
    let row (pitch i : Nat) : Nat := lsKey 0 (0x200 + (4 + i) * pitch)
    let scl : Nat := lsKey 0 (0x300 + 4 / 4 * 8)
    (∀ m < 32, ∀ j < 4, 0 < j → row 32 0 + m < row 32 j ∨ row 32 j + 32 ≤ row 32 0 + m) ∧
    (∀ m < 32, row 32 0 + m < scl ∨ scl + 8 ≤ row 32 0 + m) ∧ (∀ m < 32, ∀ j < 4, ¬ 3 < j) ∧
    (∀ m < 32, row 0 3 + m < scl ∨ scl + 8 ≤ row 0 3 + m) := by decide
/-- An operation whose bytes are as its issue found them. -/
theorem test_plinth_premise : ∀ x ∈ plinthTests,
    let s := after (x.1 0 fpl) ((plState x.2).writePier 0x100 [0x44, 0x44])
    ∃ o ∈ (s.copyOp 0 0).toList, o.srcSnap ≠ [] ∧ o.live = true ∧ o.reset = false ∧ s.digestWaits o = false ∧
      ∃ p ∈ o.plinth.toList, PlinthUndisturbed s o p ∧ (plinthResult o p).bad = false := by
  unfold PlinthUndisturbed; decide +kernel
/-- Its completion lets an engine that waits for its copy queue go on. -/
theorem test_plinth_release :
    let s := (after (.widen 0 fpl) (plState (pd 2 0 0x03 0x09 1 (pa 0) 0x1000 0 0 4 4 16 0))).modEng 0 fun x =>
      { x with act := .waitCopyQueue }
    s.live = true ∧ (s.copyOp 0 0).isSome = true ∧ ((after (.plinthOpComplete 0 0) s).eng 0).act = .run := by decide +kernel
/-- DIGEST: SHAKE256 of 8 zero bytes, worked outside the model; with COLS 0 nothing is written. -/
theorem test_digest :
    (plDone .digest (pd 9 0 0 0 1 (pa 0) 0x1000 0 0 8 0 0 0) []).readLoc (.ls 0 0x1000) 32 =
      leBytes 32 36925703991961354713147721733008332436964861847538646161884341559482873123089 ∧
    (plDone .digest (pd 9 0 0 0 1 (pa 0) 0x1000 0 0 0 0 0 0) []).readLoc (.ls 0 0x1000) 1 = [0] := by decide +kernel
/-- The two spans of `test_cpys` arrive. -/
theorem test_cpys_complete :
    let s := after (.cpys 0 fcs) (inLs (inLs (word 0x21 fcs [(2, 0x40)]) 0x40 cpysBytes) 0x1010 [9])
    let o := (s.copyOp 0 0).getD op0
    o.srcSnap = s.gather (segReads o.segs) ∧ o.dstSnap = s.gather (segWrites o.segs) ∧ o.segs.length = 2 ∧
    (after (.copyComplete 0 0) s).readLoc (.pier 0x103) 2 = [0, 9] := by decide +kernel
/-- A COPY out of the module: its bytes go to the host, and the last four are read back. -/
theorem test_copy_out :
    let b := leBytes 8 0x5000 ++ leBytes 8 (2 ^ 63 + 0x100) ++ leBytes 4 6 ++ [1] ++ List.replicate 42 0 ++ [1]
    let c : CopyCmd := { host := 0x5000, target := .pier 0x100, len := 6, dir := 1 }
    let s := carry b none (ctx3.writePier 0x100 [1, 2, 3, 4, 5, 6])
    (s.copyCheck 0 b).toOption = some c ∧ s.hostUsable (s.hostOf 0) = true ∧
    (after (.copy 0) s).out = [.hostWrite 0 0x5000 [1, 2, 3, 4, 5, 6] true, .hostRead 0 0x5002 4] ∧
    copyRequests s 0 c = [.hostWrite 0 0x5000 [1, 2, 3, 4, 5, 6] true, .hostRead 0 0x5002 4] := by decide +kernel
/-- A window that fires: its copy's requests go out, or, while another runs, it waits. -/
theorem test_oflFire_out :
    let s (x : Ofl) := (up.setOfl 0 0 { x with arm := true }).setFlag 1 3 5
    let c : CopyCmd := { host := 0x5000, target := .pier 0x100, len := 4, dir := 0 }
    up.hostUsable (up.hostOf 0) = true ∧
    (after (.oflWindowFire 0 0) (s { ofl0 with dir := true })).out = [.hostRead 0 0x5000 4] ∧
    ((after (.oflWindowFire 0 0) (s { ofl0 with dir := true, busy := true })).ofl 0 0).next = [c] ∧
    (s { ofl0 with len := 0 }).oflTurn 0 0 = true ∧ ((after (.oflWindowFire 0 0) (s { ofl0 with len := 0 })).ofl 0 0).count = 1 := by
  decide +kernel
/-- The window's trigger course sleeps: the threshold is held. -/
theorem test_ofl_asleep :
    let s := ((up.setOfl 0 0 { ofl0 with arm := true }).setFlag 1 3 5).setDom 0 { dom0 with level := 2 }
    let t := after (.oflWindowFire 0 0) s
    s.courseAwake 0 = false ∧ (s.dom 0).held = false ∧ s.oflTurn 0 0 = true ∧ (t.crs 0).heldSubs = [(1, 3, 2)] ∧
    (t.dom 0).wakeReq = true ∧ t.flagVal 1 3 = 5 := by decide +kernel
/-- The dispatch of `test_spawnd` with its list in the course store: what is written at RECORDS leaves the list as it
was. The item that runs it: -/
def dispSlot : HodSlot := { slot0 with desc := { desc0 with in1Base := 0x4000000000001000, in1Len := 0x1000 } }
def rDisp : Run := { r0 with d := dispSlot.desc }
def dispBytes2 : List Byte := leBytes 8 0x4000000000001000 ++ (dispBytes 1).drop 8
def dispState2 : State :=
  let s := (inLs (word 0x71 fsp [(2, 0x80)]) 0x80 dispBytes2).modCrs 0 fun y => { y with hod := [(0, dispSlot)] }
  { s with cs := Mem.write s.cs (csKey 0 0x1000) (leBytes 4 2 ++ leBytes 4 1 ++ leBytes 8 77 ++ leBytes 8 78 ++ leBytes 8 79) }
theorem test_spawnd_records :
    let s := dispState2
    let t := after (.spawnd 0 fsp) s
    Issues s 0 0x71 fsp rDisp ∧ dispatchOk dispBytes2 = true ∧ s.lsRead 0 0x80 128 = dispBytes2 ∧
    (∀ x ∈ s.engines, x.2.copies = []) ∧ Memory.wf s.cs = true ∧ Memory.wf s.mem = true ∧
    s.inExtents rDisp false 0x4000000000001000 0 8 = some (.cs 0 0x1000) ∧
    (s.inExtents rDisp true (dispatchDesc dispBytes2).records 0 (3 * (dispatchDesc dispBytes2).rs)) = some (.pier 0x1000) ∧
    (t.eng 0).gr 1 = 3 ∧ (t.hodSlot 1 2).map (fun h => (h.desc.affinity, h.desc.seq)) = some (33, 102) := by
  unfold Issues; decide +kernel
theorem test_spawnd_apart (u : State) (m off n : Nat) (bs : List Byte) :
    (u.writeLoc ((Loc.pier 0x1000).add m) bs).readLoc ((Loc.cs 0 0x1000).add off) n =
      u.readLoc ((Loc.cs 0 0x1000).add off) n := by
  simp [State.writeLoc, State.readLoc, Loc.add]
/-- FINISH with contribution 1 of slot 4 (SEQ 7 after FIRST_SEQ 6): it joins contribution 0, or is a second one. -/
def contribState (got : List Nat) (combined : Nat) : State :=
  let h := { slot0 with desc := { desc0 with rslot := 4 } }
  ((word 0x73 f0 []).modCrs 0 fun y =>
    { y with hod := [(0, h)], rslots := [(4, { slotReg (slotStart 0 1) combined with got := got })] }).modEng 0 fun x =>
      { x with contrib := some (List.replicate 32 0x3F800000), flushes := [(.pier 0x80, 5)] }
def rContrib : Run := { r0 with d := { desc0 with rslot := 4 } }
theorem test_finish_contrib :
    let s := contribState [0] 1
    let t := after (.finish 0 f0) s
    let y := after (.finish 0 f0) (contribState [1] 0)
    Issues s 0 0x73 f0 rContrib ∧ Issues (contribState [1] 0) 0 0x73 f0 rContrib ∧
    (s.contribSlot 0 rContrib.d).toOption.map (·.2) = some 1 ∧ (t.rslot 0 4).map (fun x => (x.got, x.combined)) = some ([0, 1], 2) ∧
    (t.rslot 0 4).map (fun x => x.acc.headD []) = some [0x3F800000, 0] ∧
    t.readLoc (.cs 0 0x1080) 4 = [0, 0, 0x80, 0x3F] ∧ t.readLoc (.pier 0x80) 1 = [5] ∧
    (y.eng 0).faultCode = 6 ∧ y.hodSlot 0 0 = none ∧ (y.rslot 0 4).map (·.got) = some [1] := by
  unfold Issues; decide +kernel
/-- SYSR 7: the course cycles of the running item. -/
theorem test_sysr_cycles :
    let f := { f0 with d := 1, imm := 7 }
    let s := (word 0xF0 f []).modEng 0 fun x => { x with itemCyc := 9 }
    Issues s 0 0xF0 f r0 ∧ ((after (.sysr 0 f) s).eng 0).gr 1 = 9 := by unfold Issues; decide +kernel
/-- The packet of an NFLAG, and those of an NPUT of 4,097 bytes. -/
theorem test_net_packets :
    let pkts (t : State) := (t.rte.send.flatMap fun f => f.unacked.map (·.pkt)) ++ t.rte.waiting.map (·.pkt)
    let a := after (.nflag 0 fnet) (netState 0x82 (netBytes 2 0 0 0 0x1234 0))
    let b := after (.nput 0 fnet) ((netState 0x80 (netBytes 1 (pa 0x100) rem0 4097 0 0)).writePier 0x1100 [7])
    (pkts a).map (fun p => (p.opc.toNat, p.tgtEngine.toNat, p.tgtFlag.toNat, p.arg.toNat, p.dest.toNat)) = [(0x14, 40, 3, 0x1234, 9)] ∧
    ((a.eng 0).nets.map fun o => (o.tgtEngine, o.tgtFlag)) = [(40, 3)] ∧
    (pkts b).map (fun p => (p.opc.toNat, p.len.toNat)) = [(0x10, 4096), (0x11, 1)] ∧
    ((pkts b).getLast?.map (·.payload)) = some [7] := by decide +kernel

/-! ## More clauses: choice, retirement, sleep, transport -/

/-- Engines 0 and 32 are idle, and a course 1 item may go to either: the hod's own engine goes first. -/
theorem test_rivals :
    let h := readySlot { desc0 with affinity := 32 } 0 1
    let x0 := { Engine.reset with act := .idle, slot := 0 }
    let s := { idle 1 5 h with engines := [(0, x0), (32, x0)]
                               cfg := { up.cfg with hod := [(0, { steal := true, far := true, near := 15 })] } }
    let t := after (.engineWake 0) s
    s.targetHod 0 = some 1 ∧ s.rivals 0 = [32] ∧ s.rivals 32 = [] ∧ (s.eng 32).retireDue = false ∧
    bestOf (Candidate.rank 32) (s.ownItems 32) = some (cand 1 5 h) ∧ (t.eng 32).item = some (1, 5) ∧ (t.eng 0).item = none := by
  decide +kernel
/-- An engine whose course sleeps asks for its wake. -/
theorem test_wake_asleep :
    let h := readySlot { desc0 with entry := 0x80 } 0 0
    let s := (idle 0 5 h).setDom 0 { dom0 with level := 2 }
    s.courseAwake 0 = false ∧ s.live = true ∧ (s.eng 0).act = .idle ∧ s.engEnabled 0 = true ∧ s.hasSlot 0 = true ∧
    bestOf (Candidate.rank 0) (s.ownItems 0) = some (cand 0 5 h) ∧ ((after (.engineWake 0) s).dom 0).wakeReq = true := by
  decide +kernel
/-- An item that waits for the local store of engine 0. -/
def depSlot : HodSlot := readySlot { desc0 with pinned := true, lsDep := true, affinity := 0 } 0 0
/-- No spare is left: the engine is an orphan, and an LS_DEP item that waits for it halts the partition. -/
theorem test_retire_dep :
    let s := ((sparing false).modCrs 0 fun y => { y with hod := [(0, depSlot)] }).modEng 0 fun x => { x with checkMet := true }
    let t := after (.slotRetire 0 .pendingCheck) s
    s.freeSpares 0 = [] ∧ depSlot.tie = some (some 0) ∧ (t.eng 0).orphan = true ∧ (t.part 0).halted = true := by decide +kernel
/-- The 1,000 errors come in two reports while an item runs: the retirement waits, and comes once it has finished. -/
theorem test_retire_waits :
    let s := (word 0x73 f0 []).setCtx 0 { Ctx.reset with live := 1 }
    let t := after (.slotRetire 0 (.corrected 600)) (after (.slotRetire 0 (.corrected 400)) s)
    let u := after (.finish 0 f0) t
    s.engEnabled 0 = true ∧ s.hasSlot 0 = true ∧ (t.eng 0).ecc = 1000 ∧ (t.eng 0).retireDue = true ∧ (t.eng 0).item = some (0, 0) ∧
    (u.eng 0).item = none ∧ (u.eng 0).orphan = true := by decide +kernel
theorem test_retire_late :
    let s := (sparing true).modEng 0 fun x => { x with eccLog := [(0, 999)] }
    ((after (.slotRetire 0 (.corrected 1)) s).eng 0).replacing = some 33 ∧
    ((after (.slotRetire 0 (.corrected 1)) { s with gen := { s.gen with time := 25000000 } }).eng 0).replacing = none := by
  decide +kernel
/-- Amounts that were to be taken while the course slept leave the flag, and Q4 has kept no register. -/
theorem test_exit_subs :
    let s := ((up.setDom 3 { dom0 with level := 4, wakeReq := true, granted := true }).modCrs 3 fun y =>
      { y with heldAdds := [(127, 5, 9)], heldSubs := [(127, 5, 2)] }).setEng 127 { Engine.reset with g := [(1, 7)], pc := 8 }
    let t := after (.domainExitComplete 3) s
    s.domRuns 3 = true ∧ t.flagVal 127 5 = 7 ∧ (t.crs 3).heldSubs = [] ∧ (t.eng 127).gr 1 = 0 ∧ (t.eng 127).pc = 0 := by
  decide +kernel
/-- A slot whose course sleeps: the threshold is held, and the course is asked to wake. -/
theorem test_slotOpen_asleep :
    let s := ((after (.slotArm 0 7 waitWord) up).setFlag 127 47 3).setDom 3 { dom0 with level := 2 }
    let t := after (.slotOpen 7) s
    s.courseAwake 3 = false ∧ s.slotTurn 7 = true ∧ (t.mslot 7).opens = 1 ∧ (t.crs 3).heldSubs = [(127, 47, 2)] ∧
    (t.dom 3).wakeReq = true := by decide +kernel
/-- A packet of 128 bytes is one flit; its codeword finds no room among 512. -/
theorem test_send_full :
    let q : QPkt := { pkt := wr0, vc := 2, whole := true, inp := none }
    let s := (routed here).modPort 9 fun x => { x with queue := [q], txHeld := List.replicate 512 0 }
    (s.arbitrate 9).map (·.1) = some q ∧ ¬ Fits (s.port 9) (flitsOf q.pkt.payload.length) ∧
    Fits ((routed here).port 9) (flitsOf q.pkt.payload.length) ∧ after (.packetSendStart 9) s = s := by
  unfold Fits; decide +kernel
/-- A packet of no flow; an OPEN packet of an unknown flow, and of one opened again; a known OPEN packet; no entry free. -/
theorem test_open :
    let none_ := { got base9 up with rte := { (got base9 up).rte with recv := [] } }
    let p := { base9 with opn := true }
    let fresh := { got p up with rte := { (got p up).rte with recv := [] } }
    let r : RecvFlow := { id := flowOf p, die := 0, expected := 9, openSeq := 5, ackDue := 4, holds := [], at_ := 0 }
    let again := { got p up with rte := { (got p up).rte with recv := [r] } }
    let dup := { got p up with rte := { (got p up).rte with recv := [{ r with openSeq := 6 }] } }
    let c (t : State) := Tab.get DieCtr.reset t.rte.ctrs 0
    let made := some { id := flowOf p, die := 0, expected := 7, openSeq := 6, ackDue := 1, holds := [], at_ := 0 : RecvFlow }
    (none_.arrivedHead 0 base9).isSome = true ∧ none_.recvFlow 0 (flowOf base9) = none ∧
    (c (after (.write 0 base9) none_)).noFlow = 1 ∧ (after (.write 0 base9) none_).mem = [] ∧
    (fresh.reqCheck p 4 true false false).toOption = some (some (.pier 0x100)) ∧
    (after (.write 0 p) fresh).recvFlow 0 (flowOf p) = made ∧ (after (.write 0 p) fresh).readPier 0x100 4 = [1, 2, 3, 4] ∧
    (after (.write 0 p) again).recvFlow 0 (flowOf p) = made ∧
    (c (after (.write 0 p) dup)).dup = 1 ∧ (after (.write 0 p) dup).mem = [] ∧
    ((after (.write 0 p) dup).recvFlow 0 (flowOf p)).map (·.ackDue) = some 0 := by decide +kernel
/-- 16,384 receive entries of die 0, each used lately, none of this packet's flow. -/
def other9 : RecvFlow :=
  { id := { src := 8, sdie := 0, dest := 5, tc := 2, epoch := false }, die := 0, expected := 0, openSeq := 0, ackDue := 0, holds := [], at_ := 0 }
def full9 (p : Packet) : State :=
  { got p up with rte := { (got p up).rte with recv := List.replicate 16384 other9 } }
theorem test_rxFull :
    let p := { base9 with opn := true }
    (full9 p).recvFlow 0 (flowOf p) = none ∧ (full9 p).rte.recv.countP (fun r => r.die == 0) = 16384 ∧
    (∀ r ∈ (full9 p).rte.recv, r.die = 0 → (full9 p).gen.time < r.at_ + 5000000) ∧
    ((full9 p).arrivedHead 0 p).isSome = true ∧ (full9 p).live = true := by
  refine ⟨?_, ?_, ?_, by decide +kernel, by decide +kernel⟩
  · have h : ¬ (other9.die == 0 && other9.id == flowOf { base9 with opn := true }) = true := by decide +kernel
    simp only [State.recvFlow, full9, List.find?_replicate, h]
    simp
  · have h : (other9.die == 0) = true := rfl
    simp only [full9, List.countP_replicate, h, if_true]
  · intro r hr _
    rw [full9, List.mem_replicate] at hr
    rw [hr.2]
    decide +kernel
/-- Packets go out again: RTE_RETX counts each, and the ones from `q` on after a backoff. -/
theorem test_resend :
    let route := (0, [(2 ^ 17 + 9, BitVec.ofNat 32 (2 ^ 31 + 9 * 2 ^ 27 + 9 * 2 ^ 12))])
    let two := { flow9 with nextSeq := 0x23, unacked := [{ sent0 with pkt := { sent0.pkt with seq := 0x20 } }, sent0] }
    let s (f : SendFlow) : State := { sending f with rte := { (sending f).rte with routes := [route], half0 := .active } }
    let up9 (s : State) := s.setPort 9 port0
    let t := after (.retransmitTimerExpiry id9) (up9 (s two))
    let u := after (.refusalBackoffExpiry id9) (up9 (s { two with backoff := some 0x21 }))
    let l := after (.retransmitTimerExpiry id9) (up9 (s { two with expiries := 7 }))
    two.unacked.any (·.out) = true ∧ (s two).rte.retries = 8 ∧ (t.port 9).queue.map (·.pkt.seq.toNat) = [0x20, 0x21] ∧
    (Tab.get DieCtr.reset t.rte.ctrs 0).retx = 2 ∧ (u.port 9).queue.map (·.pkt.seq.toNat) = [0x21] ∧
    (l.port 9).queue = [] ∧ (l.flow id9).map (·.expiries) = some 8 := by decide +kernel
/-- RELEASE while a waiting step of the epoch has packets to send. -/
theorem test_release_step :
    let w : StepWait := { waitEn := true, waitFlag := 10, waitCount := 2, met := false, sendEn := true, fence := false,
                          plan := false, planEnd := false, peer := 9, timer := 0, limit := 50000 }
    let s := { netted { put0 with step := some w, sent := false } with
      rte := { Rte.reset with inj := true, half0 := .draining, half1 := .active } }
    s.stepPackets false ≠ 0 ∧ (after (.release 0) s).rte.half0 = .draining ∧
    (after (.release 0) { s with engines := [] }).rte.half0 = .free := by decide +kernel

/-! ## More clauses: freeze, registers, firmware, time -/

/-- A trigger that comes in a later cycle than the first changes nothing; one of the same cycle joins it. -/
theorem test_freeze_late :
    let z := { Frz.reset with pin := true, latched := true, latchedAt := 0 }
    let s := { up with frz := z }
    let late := { s with gen := { s.gen with time := 5 } }
    (after (.frzCtrl .hp0 0x5A) s).frz.host = true ∧ (after (.frzCtrl .hp0 0x5A) late).frz = z ∧
    (after .frzNAssert late).frz = z := by decide +kernel
/-- GO while the module runs reads nothing later; the course store of a course that is up. -/
theorem test_dbg_course :
    let s := { up with cs := Mem.write [] (csKey 2 0x100) [8] }
    let d (t : State) := (after (.dbgReadDone false) t).frz
    let g := after (.dbgGo .hp0 0x101) up
    g.frz.goPending = true ∧ g.frz.goOk = false ∧ (d { g with frz := { g.frz with frozen := true } }).err = 1 ∧
    (d (dbg 1 (BitVec.ofNat 64 (2 ^ 22 * 2 + 0x100)) s)).data.take 2 = [8, 0] ∧
    (d (dbg 1 (BitVec.ofNat 64 (2 ^ 22 * 2 + 0x100)) (s.setDom 2 { dom0 with level := 5 }))).err = 2 := by decide +kernel
/-- Reads of 8 bytes, of a register of 64 bits and of two of 32; other sizes and misaligned reads give zero. -/
theorem test_reads_wide :
    let s := withCkp up fun k => { k with genTag := 0x500000003 }
    let q := { up with pwr := { up.pwr with peak := [(0, 5)], wakeMax := [(0, 6)] } }
    let w := after (.rcRead .hp0 ⟨0x20010, 8⟩) q
    (after (.lowHalfRead .hp0 ⟨0x400008, 8⟩) s).out = [.regRead .hp0 0x400008 0x500000003] ∧
    (after (.lowHalfRead .hp0 ⟨0x400008, 8⟩) s).latches = [] ∧
    s.regAt 0 0x200008 = some (0x200008, 4, up.rte.retxUs + 2 ^ 16 * up.rte.retries) ∧
    (after (.lowHalfRead .hp0 ⟨0x40000C, 8⟩) s).out = [.regRead .hp0 0x40000C 0] ∧
    (after (.lowHalfRead .hp0 ⟨0x400008, 2⟩) s).out = [.regRead .hp0 0x400008 0] ∧
    w.out = [.regRead .hp0 0x20010 0x600000005] ∧ w.pwr.peak = [] ∧ w.pwr.wakeMax = [] ∧
    s.regAt 0 0x200000 = some (0x200000, 4, 0) ∧ s.regAt 0 0x200004 = some (0x200004, 4, 0) := by decide +kernel
/-- A doorbell reads its tail in 4 and in 8 bytes; the configuration header; Memory Space and Bus Master Enable, D3hot. -/
theorem test_bar2_config :
    let s := withCtx 3 { ctx0 with tail := 9 } up
    let c (o n : Nat) (v : W64) := after (.registerWrite .hp0 (2 ^ 27 + o) n v) up
    s.partOfCtx 3 = some 0 ∧ s.reaches (s.partOfCtx 3) 0 = true ∧
    (after (.lowHalfRead .hp0 ⟨2 ^ 26 + 24, 8⟩) s).out = [.regRead .hp0 (2 ^ 26 + 24) 9] ∧
    (after (.lowHalfRead .hp0 ⟨2 ^ 26 + 24, 4⟩) s).out = [.regRead .hp0 (2 ^ 26 + 24) 9] ∧
    (after (.lowHalfRead .hp0 ⟨2 ^ 27, 4⟩) up).out = [.regRead .hp0 (2 ^ 27) 0x4D101E6A] ∧
    (up.host 0).perst = false ∧ (up.host 0).linkUp = true ∧ ((c 4 2 2).host 0).bme = false ∧
    ((c 4 2 2).host 0).space.memEn = true ∧ ((c 0x44 4 3).host 0).d3hot = true ∧ ((c 0x44 4 3).host 0).l1 = true := by
  decide +kernel
/-- A slot whose fetch fails after whole pieces, and with the Completion Timeout disabled. -/
theorem test_fwUpdate_timeout :
    let u := updating false 2 4
    answer (after (.fwUpdateDone ⟨[], .timeout⟩) u) true 2 = (0, [7]) ∧ (after (.fwUpdateDone ⟨[], .timeout⟩) u).sec.updating = none ∧
    ((after (.fwUpdateDone ⟨[], .timeout⟩) u).host 0).space.aerStatus = 0x4000 ∧
    after (.fwUpdateDone ⟨[], .timeout⟩) (noTimeout u) = noTimeout u := by decide +kernel
/-- The port of an update goes away: FETCH, and the slot being written is erased. -/
theorem test_link_update :
    let s (second : Bool) : State :=
      let u := updating second 2 4
      { u with sec := { u.sec with runSlot := 0, slotA := [1], slotB := [2] } }
    let t := after (.hostLinkDown 0) (s false)
    hostIdle (s false) 0 = true ∧ answer t true 2 = (0, [7]) ∧ t.sec.slotA = [1] ∧ t.sec.slotB = [] ∧
    (after (.hostLinkDown 0) (s true)).sec.slotA = [] := by decide +kernel
/-- FW_COMMIT with and without the block's key. -/
theorem test_fwCommit_key (s : State) (h : s.sec = { Sec.reset with block := some (zeros 32), rpmbKey := zeros 32 }) :
    s.sec.writeKey = some s.sec.rpmbKey := by rw [h]; rfl
/-- A BU2 without a valid licence has erased the block key, which mason-S derives again for the write of a licence. An older
licence goes, a newer one stays. -/
theorem test_install_derives :
    let s := installing licence5
    let old := rec1 4 2 fp5 (zeros 64) 1
    let new := rec1 4 9 fp5 (zeros 64) 1
    let u := { s with sec := { s.sec with block := none, derives := true, records := [(0, old), (1, new)] } }
    let t := after (.installDone true) u
    u.sec.writeKey = some u.sec.rpmbKey ∧ answer t false 9 = (0, [0]) ∧ t.sec.licGen = 3 ∧
    t.sec.records.map (fun r => (r.1, recGen r.2)) = [(1, 9), (2, 3)] := by decide +kernel
/-- Without a block key the block takes no write: the record was not installed. -/
theorem test_install_no_key :
    let s := installing licence5
    let u := { s with sec := { s.sec with block := none } }
    answer (after (.installDone true) u) false 9 = (0, [5]) ∧ (after (.installDone true) u).sec.licGen = 0 := by decide +kernel
/-- A step with an empty queue: the timer of the one waiting step, and its partition's wait. -/
theorem test_cycle_step :
    let s := after (.nstep 0 fnet) (netState 0x83 (netBytes 1 0 0 0 (10 + 2 * 256) 1))
    let t : State := match step s with | .next t => t | _ => s
    s.pending = [] ∧ s.engines.length = 1 ∧ (s.eng 0).nets.length = 1 ∧ (s.stepAt 0 0).isSome = true ∧ s.live = true ∧
    s.partOfEngine 0 = some 0 ∧ ((s.stepAt 0 0).any fun x => s.timerRuns 0 x.2) = true ∧
    (t.eng 0).nets.map (fun o => o.step.map (·.timer)) = [some 1] ∧ (t.part 0).waitCyc = 1 ∧ (t.eng 0).itemCyc = 40 := by
  decide +kernel
/-- A write of pier space that ends with the window, and one of a frozen module. -/
theorem test_bar4_end :
    let s := { up with hosts := [(0, { (up.host 0) with bar4Base := 0 })] }
    (after (.bar4Write 0 (2 ^ 36 - 1) [3, 4]) s).mem = [] ∧ (after (.bar4Read 0 0x10 1) (dbg 0 0 up)).out = [.bar4 0 none] ∧
    ((after (.bar4Read 0 0x10 1) (dbg 0 0 up)).host 0).space.aerStatus = 0x8000 := by decide +kernel
/-- A request for rung 3 after bring-up has failed. -/
theorem test_modReset_failed :
    let s := { up with bu := { up.bu with rung3 := true, st := .failed } }
    (after (.ckpModReset .hp0 0xA5) s).bu.stage = 1 ∧ (after (.ckpModReset .hp0 0xA5) s).bu.st = .running := by decide +kernel

/-! ## Local-store faults, the end of the course store -/

/-- The fields of a form of one address in these tests. -/
def locF (row : (Nat → Fields → Instr) × BitVec 8 × Nat × Nat × (Fields → Bool)) : Fields :=
  if row.2.1 = 0x10 ∨ row.2.1 = 0x12 ∨ row.2.1 = 0x14 then fld else fst_

/-- An address past local store, and one not aligned, of each form of one address. -/
theorem test_local_issue : ∀ row ∈ localRows, row.2.2.2.2 (locF row) = true ∧
    Issues (word row.2.1 (locF row) (gA 0x60000)) 0 row.2.1 (locF row) r0 := by
  unfold Issues; decide +kernel
theorem test_local_faults : ∀ row ∈ localRows,
    ((after (row.1 0 (locF row)) (word row.2.1 (locF row) (gA 0x60000))).eng 0).faultCode = 0x02 ∧
    ((after (row.1 0 (locF row)) (word row.2.1 (locF row) (gA 0x102))).eng 0).faultCode = 0x02 := by
  decide +kernel
/-- Lane 31 of a strided access just past local store. -/
theorem test_lane_faults :
    ∀ row ∈ laneRows,
      let f : Fields := if row.2.1 = 0x16 then { fld with c := 4 } else { fst_ with c := 4 }
      let g : Tab W64 := [(2, 0x5FF84), (3, 0), (4, 4)]
      Issues (word row.2.1 f g) 0 row.2.1 f r0 ∧ row.2.2 f = true ∧
      0x60000 < (((word row.2.1 f g).eng 0).addr f + 31 * ((word row.2.1 f g).eng 0).gr f.c).toNat + 4 ∧
      ((after (row.1 0 f) (word row.2.1 f g)).eng 0).faultCode = 0x02 := by
  unfold Issues; decide +kernel
/-- An engine whose program counter stands at the end of the usable course store. -/
theorem test_fetch_past :
    let s := (run0 []).modEng 0 fun x => { x with pc := 0x3E0000 }
    s.mayIssue 0 = true ∧ s.run 0 = some r0 ∧ 0x3E0000 < (s.eng 0).pc + 8 ∧
    ((after (.finish 0 f0) s).eng 0).faultCode = 0x02 ∧ ((after (.bmul 0 f0 false) s).eng 0).faultCode = 0x02 := by
  decide +kernel

/-- FW_COMMIT when C stands at the SVN of both slots, and below it: the two cases of R435. -/
theorem test_fwCommit_bounds :
    let s (c : W32) : State := { up with sec := { up.sec with slotA := fw5, slotB := fw5, arb := c } }
    min (fwSvn (s 2).sec.slotA) (fwSvn (s 2).sec.slotB) ≤ (s 2).sec.arb.toNat ∧
    (s 1).sec.arb.toNat < min (fwSvn (s 1).sec.slotA) (fwSvn (s 1).sec.slotB) := by decide +kernel

/-! ## Further clauses: engines, items, uncorrectable reads -/

/-- No contributions, with DONE at an engine whose course sleeps: the flag's addition is held. -/
theorem test_rscfg_zero_asleep :
    let s := (inLs (rscfgState 0) 0x4C (leBytes 4 (2 ^ 31 + 40 * 2 ^ 16 + 3))).setDom 1 { dom0 with level := 2 }
    let t := after (.rscfg 0 frs) s
    Issues s 0 0x53 frs r0 ∧ s.courseAwake 1 = false ∧ (t.crs 1).heldAdds = [(40, 3, 1)] ∧ (t.dom 1).wakeReq = true ∧
    t.flagVal 40 3 = 0 ∧ (t.eng 0).pc = 8 := by unfold Issues; decide +kernel
/-- Engines 0 and 1 each run a SPAWN for course 1, whose hod has one slot left: in one cycle it is engine 0's. -/
def twoSpawns : State :=
  let s := spawnState.modCrs 0 fun y => { y with hod := [(0, slot0), (1, { slot0 with status := .running 1 })] }
  let s := s.setEng 1 { s.eng 0 with item := some (0, 1), slot := 1 }
  let s := { s with ls := Mem.write s.ls (lsKey 1 0x40) spawnBytes }
  s.modCrs 1 fun y => { y with hod := (List.range 255).map fun k => (k, slot0) }
theorem test_spawn_tie :
    let s := { twoSpawns with pending := [.spawn 0 fsp] }
    let d := s.inherit desc0 (itemDesc spawnBytes)
    Issues s 1 0x70 fsp { r0 with e := 1, k := 1 } ∧ (s.crs 1).freeSlots = [255] ∧
    (s.modEng 1 Engine.next).roomAfter 1 [d] = false ∧ ((after (.spawn 1 fsp) s).eng 1).gr 1 = 5 ∧
    (twoSpawns.modEng 1 Engine.next).roomAfter 1 [d] = true ∧ ((after (.spawn 1 fsp) twoSpawns).eng 1).gr 1 = 0 ∧
    (((after (.spawn 1 fsp) twoSpawns).hodSlot 1 255).map (·.limit)) = some 50000 := by unfold Issues; decide +kernel
theorem test_spawnd_room :
    let s := dispState2
    s.lsRead 0 0x80 128 = dispBytes2 ∧
    ((s.modEng 0 Engine.next).racyRead (.cs 0 0x1000) 8).2.roomAfter 0
      [{ desc0 with affinity := 32 }, { desc0 with affinity := 32 }, { desc0 with affinity := 33 }] = true := by decide +kernel
/-- An engine whose slot is due to retire chooses nothing before; a running one chooses nothing. -/
theorem test_choose_retire :
    let s := (sparing true).modEng 0 fun x => { x with retireDue := true }
    s.mayChoose 0 = true ∧ s.courseAwake 0 = true ∧ s.rivals 0 = [] ∧ ((after (.engineWake 0) s).eng 0).replacing = some 33 ∧
    (run0 []).mayChoose 0 = false ∧ after (.engineWake 0) (run0 []) = run0 [] := by decide +kernel
/-- The step of an item takes the PROGRESS_US of its launch, whatever has been applied since. -/
theorem test_nstep_limit :
    let s := netState 0x83 (netBytes 1 0 0 0 (10 + 2 * 256) 1)
    let s := { s with cfg := { s.cfg with progressUs := 7 } }
    Issues s 0 0x83 fnet r0 ∧ (s.hodSlot 0 0).map (·.limit) = some 50000 ∧
    ((after (.nstep 0 fnet) s).eng 0).nets.map (fun o => o.step.map (·.limit)) = [some 50000] := by unfold Issues; decide +kernel

/-- An NPUT meets its line; one whose span does not hold the line does not. -/
theorem test_ue_network :
    let s := liveP (withNet { net0 with loc := .pier 0x200 } (run0 []))
    let t := after (.pierUncorrectableRead (.network 0 0) 0 0x200) s
    s.lineOffset 0 0x200 false 0 [(.pier 0x200, 16)] = some 0 ∧ s.lineOffset 0 0x240 false 0 [(.pier 0x200, 16)] = none ∧
    s.netOp 0 0 = some { net0 with loc := .pier 0x200 } ∧ s.runner 0 0 0 = 0 ∧ (t.eng 0).nets = [] ∧ (t.part 0).haltCause = 8 ∧
    (t.pier 0).ue = 1 ∧ t.flagVal 0 47 = 0 := by decide +kernel
/-- A SPAWND meets a line of its counts, and one of its entries. -/
theorem test_ue_spawnd :
    let s := liveP (dispState 1)
    let d := s.spawndReads r0 (dispBytes 1)
    let plan := (d.bind (·.2.2)).getD { seqs := [], records := none, items := [] }
    let t := after (.pierUncorrectableRead (.spawnList 0 0) 0 0x10) s
    let u := after (.pierUncorrectableRead (.spawnList 0 5) 0 0x48) s
    s.carries 0 = some (r0, 0x71, 0) ∧ s.spawndBytes r0 0 = some (dispBytes 1) ∧ d.map (fun x => (x.1, x.2.1)) = some (.pier 0, 8) ∧
    (s.lineOffset 0 0x10 false 0 [(.pier 0, 8)]).isSome = true ∧ s.lineOffset 0 0x48 false 0 [(.pier 0, 8)] = none ∧
    (plan.seqs.findIdx? fun x => (s.lineOffset 0 0x48 false 0 (x.2.2.map fun (off, m) => ((Loc.pier 0).add off, 8 * m))).isSome) =
      some 0 ∧ (t.eng 0).faultCode = 8 ∧ (t.eng 0).faultOpc = 0x71 ∧ (u.eng 0).faultCode = 8 ∧ (u.pier 0).ueLocal = 0x40 ∧
    (u.part 0).halted = true := by decide +kernel
/-- A FINISH meets the line of its flush counter. -/
theorem test_ue_flush :
    let s := liveP (contribState [0] 1)
    let t := after (.pierUncorrectableRead (.flush 0) 0 0x80) s
    s.carries 0 = some (rContrib, 0x73, 0) ∧ s.finishes 0 rContrib = true ∧ (s.eng 0).flushes = [(.pier 0x80, 5)] ∧
    (s.lineOffset 0 0x80 false 0 [(.pier 0x80, 8)]).isSome = true ∧ (t.eng 0).faultCode = 8 ∧ (t.eng 0).faultOpc = 0x73 ∧
    (t.eng 0).item = some (0, 0) ∧ (t.part 0).halted = true := by decide +kernel
/-- A remote WRITE whose merge fails; the merge of a BAR4 write; a corrected read. -/
theorem test_ue_remote :
    let s := got base9 (liveP up)
    let t := after (.pierUncorrectableRead (.remote 0 base9) 0 0x100) s
    expected9 base9 s = true ∧ (s.reqCheck base9 4 true (bareReq base9) false).toOption = some (some (.pier 0x100)) ∧
    (t.pier 0).ueKind = 1 ∧ (t.recvFlow 0 (flowOf base9)).map (fun r => (r.expected, r.ackDue)) = some (7, 0) ∧ t.mem = [] ∧
    (t.rte.send.flatMap fun f => f.unacked.map fun u => (u.pkt.opc, u.pkt.arg)) = [(0xF1, 2)] ∧
    ((after (.pierUncorrectableRead (.hostWrite 1) 0 0) { liveP up with hosts := [(1, up.host 0)] }).pier 0).ueKind = 3 ∧
    ((after (.pierUncorrectableRead (.corrected 11) 31 0) (liveP up)).pier 31).ce = 1 ∧
    Tab.get 0 ((after (.pierUncorrectableRead (.corrected 11) 31 0) (liveP up)).pier 31).layerCe 11 = 1 := by decide +kernel
/-- The holder of a cast: the second message of a restore stream, the merge of CAST_DATA, and the root at CAST_END. -/
theorem test_ue_holder :
    let p := cast9 0x43 (leBytes 8 3 ++ zeros 8)
    let s := liveP (castUp.writePier 0x8000000 (header9 2 1 0 0 (zeros 32)))
    let held (opc : BitVec 8) (bs : List Byte) (u : State) : State :=
      after (.pierUncorrectableRead (.castHeld 0 (cast9 opc bs)) 0 0x4000000) (got (cast9 opc bs) u)
    let r := liveP (withCkp castUp fun k => { k with receiving := some 0 })
    expected9 p (got p s) = true ∧ s.heldSender p = true ∧ s.serveHalf 3 false = some 1 ∧ s.halfAt 1 = some (0x8000000, 0x4000000) ∧
    expected9 (cast9 0x41 [1]) (got (cast9 0x41 [1]) r) = true ∧ r.heldSender (cast9 0x42 []) = true ∧
    ((held 0x41 [1] r).pier 0).ueKind = 4 ∧ (held 0x41 [1] r).ckp.receiving = some 0 ∧ (held 0x41 [1] r).mem = [] ∧
    (held 0x42 [1] r).ckp.receiving = none := by decide +kernel
theorem test_ue_holder_line :
    let s := liveP castUp
    s.lineOffset 8 0x200000 false 0 [(.pier 0x8000000, 4096), (.pier 0x8001000, 4096)] = some 4096 := by decide +kernel
/-- A restoring module meets the line in a chunk it has written: another attempt on the other half, or the end. -/
theorem test_ue_verify :
    let q : Restoring := { q0 with metaOk := true, written := [1] }
    let s (a : Nat) := liveP (withCkp castUp fun k => { k with st := 3, restoring := some { q with attempt := a } })
    let t (a : Nat) := after (.pierUncorrectableRead (.castVerify 1) 0 0x40) (s a)
    (t 1).ckp.st = 3 ∧ (t 1).ckp.fallback = true ∧ (t 1).ckp.restoring = some q.again ∧ (t 2).ckp.st = 5 ∧ (t 2).ckp.code = 8 ∧
    ((t 1).pier 0).ueKind = 4 := by decide +kernel
/-- Course store: the buffer of the slot that a FINISH joins, the list of a SPAWND, and the save area of a yielded item. -/
theorem test_csUe_access :
    let s := contribState [0] 1
    let t := after (.courseStoreUncorrectableRead (.access 0)) s
    let u := after (.courseStoreUncorrectableRead (.access 0)) dispState2
    let h := { readySlot desc0 0 0 with saved := some { numstat := 0, contrib := none, flushes := [], spawns := [], undo := [], itemCyc := 0, failed := false } }
    let v := after (.courseStoreUncorrectableRead (.resume 0)) (idle 0 5 h)
    s.carries 0 = some (rContrib, 0x73, 0) ∧ (t.eng 0).faultCode = 9 ∧ (t.eng 0).faultAddr = 0x1000 ∧
    dispState2.carries 0 = some (rDisp, 0x71, 0) ∧ ((dispState2.spawndReads rDisp dispBytes2).map (·.1)) = some (.cs 0 0x1000) ∧
    (u.eng 0).faultCode = 9 ∧ (u.eng 0).faultAddr = 0x4000000000001000 ∧ (idle 0 5 h).mayChoose 0 = true ∧
    bestOf (Candidate.rank 0) ((idle 0 5 h).ownItems 0) = some (cand 0 5 h) ∧ (v.eng 0).faultAddr = BitVec.ofNat 64 (0x3E0000 + 512 * 5) ∧
    (v.part 0).halted = true ∧ (v.ctx 0).faultCode = 9 := by decide +kernel
/-- A check fails: the slot is bad at once; errors of a slot that is being replaced only count. -/
theorem test_retire_check :
    let s := word 0 f0 []
    let t := after (.slotRetire 0 (.check 0 (some 0x40))) s
    let u := (sparing true).modEng 0 fun x => { x with replacing := some 33, eccLog := [(0, 5)] }
    s.engEnabled 0 = true ∧ s.hasSlot 0 = true ∧ s.mayIssue 0 = true ∧ (t.eng 0).check = 1 ∧ Tab.get 0 (t.crs 0).phys 0 = 2 ∧
    (t.eng 0).faultAddr = 0x40 ∧
    ((after (.slotRetire 0 (.corrected 1000)) u).eng 0).ecc = 1000 ∧ ((after (.slotRetire 0 (.corrected 1000)) u).eng 0).eccLog = [] ∧
    ((after (.slotRetire 0 (.corrected 1000)) u).eng 0).replacing = some 33 := by decide +kernel

/-- A copy and a network operation of the running item meet a check that fails in the local store. -/
theorem test_retire_opCheck :
    let s := copyingFrom (.ls 0 0x40)
    let o := (s.copyOp 0 0).getD op0
    let t := after (.slotRetire 0 (.copyCheck 0 0 0x48)) s
    let n := withNet { net0 with loc := .ls 0 0x100 } (run0 [])
    let v := after (.slotRetire 0 (.netCheck 0 0x104)) n
    s.engEnabled 0 = true ∧ s.hasSlot 0 = true ∧ s.runner 0 0 0 = 0 ∧ o.wordBound (.ls 0 0x48) = some 8 ∧ (t.eng 0).copies = [] ∧
    (t.eng 0).check = 1 ∧ (t.eng 0).faultCode = 7 ∧ (t.eng 0).faultAddr = 0x48 ∧ Tab.get 0 (t.crs 0).phys 0 = 2 ∧
    (t.part 0).haltCause = 7 ∧ (v.eng 0).nets = [] ∧ (v.eng 0).faultAddr = 0x104 ∧ (v.eng 0).check = 1 ∧ (v.eng 0).item = none ∧
    after (.slotRetire 0 (.netCheck 0 0x110)) n = n := by decide +kernel
/-- A copy of a yielded item that may be executed again meets CHECK: the item keeps its slot. -/
theorem test_retire_yielded :
    let h := { readySlot { desc0 with reexec := true } 0 0 with status := .yielded 0, saved := some save0 }
    let s := (idle 0 5 h).modEng 0 fun x => { x with copies := [{ op0 with
      slot := 5, segs := [{ src := .ls 0 0x40, dst := .ls 0 0x100, len := 16 }], srcSnap := zeros 16, dstSnap := zeros 16 }] }
    let t := after (.slotRetire 0 (.copyCheck 0 0 0x40)) s
    s.engEnabled 0 = true ∧ s.hasSlot 0 = true ∧ (s.copyOp 0 0).isSome = true ∧ (t.eng 0).check = 1 ∧ (t.part 0).halted = false ∧
    t.hodSlot 0 5 = some { h with saved := some { save0 with numstat := 0, itemCyc := 0, failed := true } } ∧
    Tab.get 0 (t.crs 0).phys 0 = 2 := by decide +kernel
/-- A restart meets the word after its engine has chosen it, and in the cycle in which another engine halts the partition. -/
theorem test_csUe_restart :
    let s := (run0 []).modEng 0 fun x => { x with resumed := true }
    let t := after (.courseStoreUncorrectableRead (.resume 0)) s
    let h := { readySlot desc0 0 0 with saved := some save0 }
    let w := (idle 0 5 h).modPart 0 fun x => { x with halted := true, haltEngine := 7, haltCause := 6, haltAt := (idle 0 5 h).gen.time }
    let v := after (.courseStoreUncorrectableRead (.resume 0)) w
    s.mayIssue 0 = true ∧ (s.eng 0).pc = fieldAt (s.readLoc (.cs 0 0x3E0000) 512) 0 8 ∧
    (s.eng 0).g = savedRegs (s.readLoc (.cs 0 0x3E0000) 512) ∧ (t.eng 0).faultCode = 9 ∧ (t.part 0).halted = true ∧
    w.seeks 0 = true ∧ w.haltedNow 0 = true ∧ w.mayChoose 0 = false ∧ (v.part 0).haltEngine = 0 ∧ (v.part 0).haltCause = 9 ∧
    (v.eng 0).faultValid = true := by decide +kernel
/-- A request of the module to itself that it holds meets an uncorrectable line as it is tried again. -/
theorem test_ue_held :
    let s := liveP { netted put0 with rte := { Rte.reset with locals_ := [local0 (.engine 0 0) true] } }
    let q := (local0 (.engine 0 0) true).pkt
    let t := after (.pierUncorrectableRead (.remote 0 q) 0 0x100) s
    (s.localHead 0 1).isSome = true ∧ samePkt q q = true ∧ (s.netOp 0 0).isSome = true ∧
    (s.reqCheck q q.len.toNat true (bareReq q) false).isOk = true ∧ (t.eng 0).nets = [] ∧ (t.part 0).haltCause = 8 ∧
    (t.pier 0).ueKind = 1 ∧ q.sdie = 0 ∧ q.tc = 1 := by decide +kernel

/-! ## Further clauses: power, ports, routers, transport -/

/-- The hundredth tick at the lowest frequency with the power above the cap sets CAP_UNMET, and a write of the same cycle
does not clear it. -/
theorem test_capUnmet :
    let s := { sampled 2500 2500 1 with pwr := { (sampled 2500 2500 1).pwr with unmetTicks := 99 } }
    let t := after .throttleTick s
    let w := after (.registerWrite .hp0 0x20004 4 0x40) t
    t.pwr.capUnmet = true ∧ t.setNow = [.capUnmet] ∧ w.pwr.capUnmet = true ∧
    (after (.registerWrite .hp0 0x20004 4 0x40) t.endCycle).pwr.capUnmet = false ∧
    (after .throttleTick { s with pwr := { s.pwr with unmetTicks := 98 } }).pwr.capUnmet = false := by decide +kernel
/-- A flag change held for course 3, and the acknowledgement that waits for it, until the course wakes. -/
theorem test_exit_holds :
    let r : RecvFlow := { id := flowOf base9, die := 0, expected := 7, openSeq := 0, ackDue := 2, holds := [3, 5], at_ := 0 }
    let s := up.setDom 3 { dom0 with level := 2, wakeReq := true, granted := true }
    let t := after (.domainExitComplete 3) { s with rte := { s.rte with recv := [r] } }
    s.domRuns 3 = true ∧ (t.recvFlow 0 r.id).map (·.holds) = some [5] := by decide +kernel
/-- A codeword of two control flits does both; FROZEN asks for the domain of its port. -/
theorem test_codeword_two :
    let s := (withPort { port0 with txHeld := [4, 5], light := true }).setDom 89 { dom0 with level := 2 }
    let fl := [(3, flit (leBytes 4 77 ++ [2])), (2, flit (1 :: 0 :: leBytes 2 5 ++ leBytes 2 9))]
    let t := after (.codewordReceive 9 (cw fl)) s
    (t.port 9).hb = 77 ∧ (t.port 9).st = .frozen ∧ (t.port 9).txHeld = [] ∧ Tab.get 0 (t.port 9).txFreed 0 = 9 ∧
    (t.dom 89).wakeReq = true ∧ fl.length = 2 := by decide +kernel
/-- An unlit disabled port whose DISABLE is cleared and TEST set reads DOWN, and takes up the test when light returns. -/
theorem test_unlit_test :
    let d : Port := { Port.reset with st := .disabled, fitted := true, disableBit := true, lightUnit := true }
    let s := { up with ports := [(9, d)] }
    let s := s.setDom 89 { dom0 with level := 2 }
    let t := after (.test 0 9 4) s
    let b := (List.range 3).find? fun b => (bayPorts b).contains 9
    (s.port 9).light = false ∧ (t.port 9).st = .down ∧ b = some 2 ∧ t.hasBays = true ∧
    ((after (.lightReturn 2) t).port 9).st = .test ∧ ((after (.lightReturn 2) (t.setDom 89 { dom0 with level := 2 })).dom 89).wakeReq = true ∧
    (after (.lightReturn 2) { t with pwr := { t.pwr with inputOn := false } }).ports = t.ports ∧
    (after (.lightReturn 2) { t with pwr := { t.pwr with seq := .falling, steps := 0 } }).ports = t.ports := by decide +kernel
/-- A head that says more than 4,096 bytes; a head that follows one whose trailer has not come. -/
theorem test_head_bad :
    let long := sealed_ { wr0 with len := 4097 }
    let s := after (.packetHeadArrival 0 (.port 0) wr0) (routed here)
    let next := sealed_ { wr0 with seq := 7 }
    let t := after (.packetHeadArrival 0 (.port 0) next) s
    long.hcrc = hcrcOf long ∧ ((after (.packetHeadArrival 0 (.port 0) long) (routed here)).port 0).dropBody = true ∧
    ((after (.packetHeadArrival 0 (.port 0) long) (routed here)).port 0).crcBad = 1 ∧ (s.port 0).incoming = some wr0 ∧
    t.rte.arrived.map (·.pkt) = [next] ∧ (t.port 0).incoming = some next ∧ (t.port 0).stallDrop = 1 := by decide +kernel
/-- Through traffic that waits in a queue: a sound trailer makes it whole, a bad one and the stall bound take it out. -/
theorem test_trailer_through :
    let bad := { wr0 with crc := wr0.crc ^^^ 1 }
    let x (p : Packet) : State := (routed here).modPort 0 fun x => { x with
      incoming := some p
      queue := [{ pkt := { p with dest := 6 }, vc := 2, whole := false, inp := none }, { pkt := p, vc := 2, whole := false, inp := none }] }
    let left (s : State) := (s.port 0).queue.map (·.whole)
    left (after (.packetTrailerArrival 0 (.port 0) wr0) (x wr0)) = [false, true] ∧
    left (after (.packetTrailerArrival 0 (.port 0) bad) (x bad)) = [false] ∧
    left (after (.stallTimeout 0 wr0) { x wr0 with gen := { (x wr0).gen with time := 1000 } }) = [false] := by decide +kernel
/-- A trailer over mortar follows its head: sound, and with DISCARD; ahead of its head it waits. -/
theorem test_trailer_mortar :
    let y : Tail := { src := 0, die := 1, pkt := wr0, passed := true, bad := false }
    let s (y : Tail) : State := { routed here with rte := { (routed here).rte with
      tails := [y], arrived := [{ die := 1, pkt := wr0, whole := false, inp := none }] } }
    let m := { s y with rte := { (s y).rte with mortar := [{ die := 1, pkt := wr0, cls := 0, chan := 0, whole := false }] } }
    let t (s : State) := after (.packetTrailerArrival 1 .mortar wr0) s
    (s y).rte.crossing 1 wr0 < (s y).rte.following 1 wr0 ∧ ¬ m.rte.crossing 1 wr0 < m.rte.following 1 wr0 ∧
    (t (s y)).rte.arrived.map (·.whole) = [true] ∧ (t (s y)).rte.tails = [] ∧
    (t (s { y with bad := true })).rte.arrived = [] ∧ (t m) = m ∧ (t { m with rte := { m.rte with tails := [] } }).rte.arrived.map (·.whole) = [false] := by
  decide +kernel
/-- The age limit takes out one copy of two, of a queue and of mortar with its trailer. -/
theorem test_aged_one :
    let q : QPkt := { pkt := wr0, vc := 2, whole := true, inp := none }
    let s := withPort { port0 with queue := [q, q] }
    let w := { up with rte := { Rte.reset with
      mortar := List.replicate 2 { die := 3, pkt := wr0, cls := 0, chan := 0, whole := false }
      tails := List.replicate 2 { src := 0, die := 3, pkt := wr0, passed := false, bad := false } } }
    let t := after (.packetAged 3 wr0) w
    (after (.packetAged 3 wr0) s).portsOn = true ∧ ((after (.packetAged 3 wr0) s).port 9).queue = [q] ∧
    t.rte.mortar.length = 1 ∧ t.rte.tails.length = 1 ∧ (Tab.get DieCtr.reset t.rte.ctrs 3).aged = 1 := by decide +kernel
/-- A FLAG to a sleeping course is held, and with it the acknowledgement, which goes once the course has woken. -/
theorem test_flag_held :
    let p := { base9 with opc := 0x14, len := 0, payload := [], arg := 2 }
    let s := (got p up).setDom 1 { dom0 with level := 2 }
    let t := after (.flag 0 p) s
    let w := after (.domainExitComplete 1) (t.setDom 1 { t.dom 1 with granted := true })
    expected9 p s = true ∧ s.courseAwake 1 = false ∧ (s.reqCheck p 0 false true false).isOk = true ∧
    (t.recvFlow 0 (flowOf p)).map (fun r => (r.expected, r.ackDue, r.holds)) = some (7, 5, [1]) ∧ s.newlyHeld t = [1] ∧
    (t.dom 1).wakeReq = true ∧ (t.crs 1).heldAdds = [(40, 3, 2)] ∧
    ((after (.ackSend 0 (flowOf p)) t).recvFlow 0 (flowOf p)) = t.recvFlow 0 (flowOf p) ∧
    ((after (.ackSend 0 (flowOf p)) w).recvFlow 0 (flowOf p)).map (·.ackDue) = some 0 ∧ w.flagVal 40 3 = 2 := by decide +kernel
/-- The end of a fetch that has not been issued; one whose port is gone. -/
theorem test_fetch_issued :
    let s (sent : Bool) := waiting8 { bp with st := .fetch, goLen := 4, sent := sent }
    let off (s : State) : State := { s with hosts := [(0, { (s.host 0) with bme := false })] }
    after (.bondFetchDone 0 .timeout) (s false) = s false ∧ (off (s true)).hostUsable 0 = false ∧
    ((after (.bondFetchDone 0 .timeout) (off (s true))).bondPort 0).code = 0x13 ∧
    ((after (.hostLinkDown 0) (off (s false))).bondPort 0).st = .fetch ∧ ((after (.go 0) (off (waiting8 bp))).bondPort 0).sent = false ∧
    ((after (.go 0) (waiting8 bp)).bondPort 0).sent = true := by decide +kernel
/-- The last record of a bring-up whose rails do not come up in time. -/
theorem test_bu0_timeout :
    let s : State := { State.reset with pwr := { Pwr.reset with inputOn := true, seq := .rising } }
    let t := after .buStageTimeout s
    s.bu.stage = 0 ∧ t.pwr.seq = .falling ∧ t.bu.st = .failed ∧ t.bu.logCount = 1 := by decide +kernel
/-- FREEZE after core power has begun to go; what a port was sending is abandoned; a debug read wakes its course. -/
theorem test_freeze_power :
    let s := { up with ports := [(4, { Port.reset with fitted := true, st := .up, cut := [qp] })], frz := { Frz.reset with latched := true } }
    let f := { s with pwr := { s.pwr with seq := .falling } }
    let a := (dbg 1 (BitVec.ofNat 64 (2 ^ 22 * 2)) up).setDom 2 { dom0 with level := 2 }
    after .freeze f = f ∧ (after .freeze s).frz.frozen = true ∧ ((after .freeze s).port 4).cut = [] ∧
    ((after (.dbgGo .hp0 0x101) a).dom 2).wakeReq = true ∧ ((after (.dbgGo .hp0 0x100) a).dom 2).wakeReq = false ∧
    ((after (.dbgReq (BitVec.ofNat 72 (2 ^ 66 + 2 ^ 64 + 2 ^ 22 * 2))) a).dom 2).wakeReq = true ∧
    ((after (.dbgGo .hp0 0x001) a).dom 2).wakeReq = false := by decide +kernel

/-! ## Further clauses: registers, mailboxes, power -/

/-- Before BU1 the peaks read 0 and keep their values; a sample joins them at the end of its cycle. -/
theorem test_rc_cycle :
    let s := { up with pwr := { up.pwr with peak := [(0, 5)] }, bu := { up.bu with stage := 1 } }
    let p := after (.powerSample 9) { up with pwr := { up.pwr with peak := [(0, 5)] } }
    s.masonUp = false ∧ (after (.rcRead .hp0 ⟨0x20010, 8⟩) s).pwr.peak = [(0, 5)] ∧
    (after (.rcRead .hp0 ⟨0x20010, 4⟩) s).out = [.regRead .hp0 0x20010 0] ∧
    (after (.rcRead .hp0 ⟨0x20010, 4⟩) p).out = [.regRead .hp0 0x20010 5] ∧
    Tab.get 0 (after (.rcRead .hp0 ⟨0x20010, 4⟩) p).endCycle.pwr.peak 0 = 9 := by decide +kernel
/-- Bits written one to clear, one of which an event of the same cycle has set. -/
theorem test_w1c :
    let s := { (up.modCtx 1 fun c => { c with numstat := 7 }) with setNow := [.ctxNumstat 1 0, .ckpLoss] }
    let w (a n : Nat) (v : W64) := after (.registerWrite .hp0 a n v) s
    ((w 0x80058 4 3).ctx 1).numstat = 5 ∧ s.reaches (s.partOfCtx 1) 0 = true ∧
    (after (.registerWrite .hp0 0x400088 4 4) { s with pwr := { s.pwr with lossValid := true } }).pwr.lossValid = true ∧
    (after (.registerWrite .hp0 0x400088 4 4) { up with pwr := { up.pwr with lossValid := true } }).pwr.lossValid = false := by
  decide +kernel
/-- ENG_FLAGRD keeps its selector when its high half is written. -/
theorem test_flagRd_half :
    let s := up.modEng 0 fun x => { x with flagSel := 9 }
    ((after (.registerWrite .hp0 (0x100000 + 0x5C) 4 0) s).eng 0).flagSel = 9 := by decide +kernel
/-- The next message of a core, of each opcode that the core runs. -/
theorem test_take_runs :
    (∀ o ∈ [2, 3, 0x20, 0x21, 0x22], (msg false 9 o 0 5 [] up).nextChan false = some (0, 9) ∧
      ((msg false 9 o 0 5 [] up).chan 0 false 9).opcode = o) ∧
    (∀ o ∈ [0xE0, 0xE1, 0xE2, 0x80, 0x81], (msg true 2 o 0 5 [] up).nextChan true = some (0, 2) ∧
      ((msg true 2 o 0 5 [] up).chan 0 true 2).opcode = o) := by decide +kernel
/-- The device's key is not the block key that mason-S holds. -/
theorem test_rpmb_other_key : rpmbTag (zeros 32) 0 0 3 0 ≠ rpmbTag (1 :: zeros 31) 0 0 3 0 := by decide +kernel
/-- Core power goes rail by rail: its removal is not over while more than one step is up. -/
theorem test_removal_steps :
    let s (n : Nat) : State := { up with pwr := { up.pwr with seq := .falling, steps := n } }
    let t (s : State) : State := match step s with | .next t => t | _ => s
    after .corePowerRemoved (s 2) = s 2 ∧ (after .corePowerRemoved (s 1)).pwr.seq = .off ∧ (t (s 0)).pwr.steps = 0 ∧
    (t (s 6)).pwr.steps = 5 ∧ (after .thermalTrip up).setNow = [.ckpLoss] := by decide +kernel

end Sys2Proof.Tests
end

section
/-!
SUPPORT. GO of a host port (R27, R28): what the BOND registers of a port read after an update, one equation for each of
the cases in which a GO reads nothing over the port, and the obligation that they settle.
-/
namespace Sys2Proof.Machine

open Sys2Proof

/-! ## The BOND registers of a port -/

theorem BondPort.runs_iff (x : BondPort) : x.runs = true ↔ x.st = .fetch ∨ x.st = .verify ∨ x.st = .apply := by
  simp [BondPort.runs, or_assoc]

section
variable (s : State) (h : Nat)

@[simp] theorem State.setBondPort_bondPort_self (x : BondPort) : (s.setBondPort h x).bondPort h = x :=
  Tab.get_put_self _ _ _ _

theorem State.setBondPort_bondPort_ne (x : BondPort) {k : Nat} (hk : k ≠ h) :
    (s.setBondPort h x).bondPort k = s.bondPort k :=
  Tab.get_put_ne _ _ _ hk

@[simp] theorem State.emptyLatch_bondPort (r : Requester) : (s.emptyLatch r).bondPort h = s.bondPort h := rfl
@[simp] theorem State.emptyLatch_writable (r : Requester) : (s.emptyLatch r).writable = s.writable := rfl

@[simp] theorem State.bondState_bondPort_self (st : BondState) :
    (s.bondState h st).bondPort h = { s.bondPort h with st := st, code := 0, section_ := 0xFFFF, errOff := 0 } :=
  s.setBondPort_bondPort_self h _

theorem State.bondState_bondPort_ne (st : BondState) {k : Nat} (hk : k ≠ h) :
    (s.bondState h st).bondPort k = s.bondPort k :=
  s.setBondPort_bondPort_ne h _ hk

@[simp] theorem State.refuseCode_bondPort_self (code : Nat) :
    (s.refuseCode h code).bondPort h =
      { s.bondPort h with st := .refused, code := BitVec.ofNat 8 code, section_ := 0xFFFF, errOff := 0 } :=
  s.setBondPort_bondPort_self h _

theorem State.refuseCode_bondPort_ne (code : Nat) {k : Nat} (hk : k ≠ h) :
    (s.refuseCode h code).bondPort k = s.bondPort k :=
  s.setBondPort_bondPort_ne h _ hk

end

/-! ## GO that reads nothing over the port (R27, R28) -/

theorem exec_go {h : Nat} (hh : h < 2) (s : State) : exec (.go h) s = .next (s.bondGo h) :=
  guarded_ok (decide_eq_true hh) _

section
variable {s : State} {h : Nat}

/-- R27: only the half latch is emptied while the same port's submission runs. -/
theorem State.bondGo_of_runs (hx : (s.bondPort h).runs = true) : s.bondGo h = s.emptyLatch (portReq h) := by
  simp [State.bondGo, hx]

/-- R27: BUSY while the other port's submission runs, whatever LEN is. -/
theorem State.bondGo_of_other_runs (hw : s.writable = true) (hx : (s.bondPort h).runs = false)
    (hy : (s.bondPort (1 - h)).runs = true) :
    s.bondGo h = (s.emptyLatch (portReq h)).refuseCode h bondBusy := by
  simp [State.bondGo, hw, hx, hy]

/-- R28: with LEN zero, DONE before any check and before any read. -/
theorem State.bondGo_of_len_zero (hw : s.writable = true) (hx : (s.bondPort h).runs = false)
    (hy : (s.bondPort (1 - h)).runs = false) (hl : (s.bondPort h).len = 0) :
    s.bondGo h = (s.emptyLatch (portReq h)).bondState h .done := by
  simp [State.bondGo, hw, hx, hy, hl]

end

/-- Settles O42: the three cases are the first three branches of `State.bondGo`. -/
theorem goWhileBusyOrEmpty : Obligations.GoWhileBusyOrEmpty := by
  unfold Obligations.GoWhileBusyOrEmpty
  intro s h hh hw
  simp only [← BondPort.runs_iff, Bool.not_eq_true, exec_go hh]
  have hne : 1 - h ≠ h := by omega
  refine ⟨fun hx => ?_, fun hx hy _ => ?_, fun hx hy hl => ?_⟩
  · rw [State.bondGo_of_runs hx]
    exact ⟨_, rfl, rfl⟩
  · rw [State.bondGo_of_other_runs hw hx hy]
    exact ⟨_, rfl, rfl, by simp, by simp [bondBusy], State.refuseCode_bondPort_ne _ _ _ hne, rfl⟩
  · rw [State.bondGo_of_len_zero hw hx hy hl]
    exact ⟨_, rfl, rfl, by simp, by simp, State.bondState_bondPort_ne _ _ _ hne, rfl, rfl, rfl⟩

end Sys2Proof.Machine
end

section
/-!
SUPPORT. What an instruction of the tables is, whatever its opcode: `State.issue` on its engine with a meaning of its
own (R75, R76); and the fetch past the usable course store, which `State.issue` faults before it looks at the word
(R103).
-/
namespace Sys2Proof.Machine

/-! ## The issue of an instruction -/

/-- Every instruction of the tables but BMUL issues on its engine, with its opcode and a meaning of its own. -/
theorem exec_engineRows : ∀ row ∈ engineRows, ∀ e f s, ∃ body,
    exec (row.1 e f) s = guarded (isEngine e) (s.issue e row.2 f body) := by
  unfold engineRows
  repeat refine List.forall_mem_cons.2 ⟨fun e f s => ⟨_, rfl⟩, ?_⟩
  exact List.forall_mem_nil _

theorem exec_bmul (e : Nat) (f : Fields) (bad : Bool) (s : State) :
    exec (.bmul e f bad) s = guarded (isEngine e) (s.issue e 0x31 f (bmulBody f bad)) := rfl

/-- R103: a fetch past the usable store faults with ADDR, whatever was to issue. -/
theorem State.issue_pastStore {s : State} {e : Nat} {r : Run} (hm : s.mayIssue e = true) (hr : s.run e = some r)
    (hpc : csUsable < (s.eng e).pc + 8) (opc : BitVec 8) (f : Fields) (body : Run → State → Except Err State) :
    s.issue e opc f body =
      (s.itemFault e faultAddr 0 (s.eng e).pc (BitVec.ofNat 64 (s.eng e).pc)).choose e := by
  have hout : (s.eng e).pc % 8 ≠ 0 ∨ (s.eng e).pc + 8 > csUsable := .inr hpc
  simp [State.issue, hm, hr, hout]

/-- Settles O28: every instruction issues through `State.issue`, which faults before it reads the word. -/
theorem fetchPastTheStore : Obligations.FetchPastTheStore := by
  unfold Obligations.FetchPastTheStore
  intro s e f r he hm hr hpc
  have hen : isEngine e = true := decide_eq_true he
  have hfault : ∀ opc body, guarded (isEngine e) (s.issue e opc f body) =
      .next ((s.itemFault e 0x02 0 (s.eng e).pc (BitVec.ofNat 64 (s.eng e).pc)).choose e) := fun opc body => by
    rw [guarded_ok hen, State.issue_pastStore hm hr hpc]
    rfl
  refine ⟨fun row hrow => ?_, fun bad => ⟨0, _, (exec_bmul e f bad s).trans (hfault _ _)⟩⟩
  obtain ⟨body, hexec⟩ := exec_engineRows row hrow e f s
  exact ⟨0, _, hexec.trans (hfault _ body)⟩

end Sys2Proof.Machine
end

section
/-!
SUPPORT. The start of an item that has not yielded (R101): the engine that it makes of the one that takes it, and what it
leaves as it was.
-/
namespace Sys2Proof.Machine

section
variable (s : State) (e : Nat) (x : Candidate)

/-- R101: what engine `y` becomes when it starts item `x`, which has not yielded. -/
def Engine.startAfresh (e : Nat) (x : Candidate) (y : Engine) : Engine :=
  { y with
    act := .run, item := some (x.c, x.k), v := [], bufs := [], accs := [],
    rehomed := match x.tied with | some t => if t = e then none else some t | none => none, resumed := false,
    pc := x.h.desc.entry,
    g := (((Engine.reset.setG 1 x.h.desc.arg).setG 2 (x.h.desc.seq.setWidth 64)).setG 3 (BitVec.ofNat 64 x.c)).g,
    numstat := 0, contrib := none, flushes := [], spawns := [], undo := [], itemCyc := 0 }

variable {x}

/-- An item that has not yielded takes its slot and changes its engine; there is nothing to undo. -/
theorem State.startItem_afresh (hx : x.h.saved = none) :
    s.startItem e x =
      (s.setHod x.c x.k { x.h with status := .running e, saved := none }).modEng e (Engine.startAfresh e x) := by
  simp only [State.startItem, hx, Option.filter_none, Option.map_none, Option.getD_none, State.undoFlags,
    List.foldl_nil]
  rfl

/-- R101: g1 = ARG, g2 = SEQ, g3 = home course, every other register zero. -/
theorem Engine.startAfresh_gr (y : Engine) (q : BitVec 6) :
    (y.startAfresh e x).gr q =
      if q = 1 then x.h.desc.arg else if q = 2 then x.h.desc.seq.setWidth 64
      else if q = 3 then BitVec.ofNat 64 x.c else 0 := by
  have hreset : Engine.reset.gr q = 0 := by simp [Engine.gr, Engine.reset]
  have hset : (y.startAfresh e x).gr q =
    (((Engine.reset.setG 1 x.h.desc.arg).setG 2 (x.h.desc.seq.setWidth 64)).setG 3 (BitVec.ofNat 64 x.c)).gr q := rfl
  rw [hset, Engine.gr_setG, Engine.gr_setG, Engine.gr_setG, hreset]
  split_ifs <;> simp_all

@[simp] theorem State.eng_setHod (c k : Nat) (h : HodSlot) : (s.setHod c k h).eng e = s.eng e := rfl

/-- R101: flags keep their contents, on the engine that starts as on every other. -/
theorem State.startItem_flagVal (hx : x.h.saved = none) (e' f : Nat) :
    (s.startItem e x).flagVal e' f = s.flagVal e' f := by
  rw [State.startItem_afresh s e hx, State.flagVal, State.flagVal, State.eng_modEng]
  split
  · next h => rw [h]; rfl
  · rfl

end

/-- Settles O22: the engine is `Engine.startAfresh` of what it was, and nothing else but the hod slot changes. -/
theorem itemStart : Obligations.ItemStart := by
  unfold Obligations.ItemStart
  intro s e x hx
  have heng : (s.startItem e x).eng e = (s.eng e).startAfresh e x := by
    rw [State.startItem_afresh s e hx, State.eng_modEng_self, State.eng_setHod]
  have hls : (s.startItem e x).ls = s.ls := by rw [State.startItem_afresh s e hx]; rfl
  rw [heng]
  exact ⟨rfl, rfl, rfl, Engine.startAfresh_gr e _, fun _ _ => rfl, fun _ => rfl, rfl, fun _ => rfl, hls,
    State.startItem_flagVal s e hx⟩

end Sys2Proof.Machine
end

section
/-!
SUPPORT. What an update does to what the engines do (`Engine.act`): the updates that leave the engines as they are, those
that change an engine but not its activity, and those after which an engine that did not wait for a place in its copy
queue still does not. From these, what the completion of a copy or a plinth operation does to its engine (R83).
-/
namespace Sys2Proof.Machine

variable (s : State)

/-! ## Updates that leave every engine as it is -/

theorem State.eng_of_engines {s t : State} (h : t.engines = s.engines) (e : Nat) : t.eng e = s.eng e := by
  rw [State.eng, State.eng, h]

@[simp] theorem State.requestWake_engines (d : Nat) : (s.requestWake d).engines = s.engines := by
  simp only [State.requestWake]
  split_ifs <;> rfl

/-- A fold of updates each of which leaves the engines as they are does so too. -/
theorem foldl_engines {α : Type} {g : State → α → State} (hg : ∀ s a, (g s a).engines = s.engines) (l : List α) :
    (l.foldl g s).engines = s.engines :=
  List.foldlRecOn l g (motive := fun t => t.engines = s.engines) rfl fun t ht a _ => (hg t a).trans ht

@[simp] theorem State.countPier_engines (rd : Bool) (a n : Nat) : (s.countPier rd a n).engines = s.engines := by
  refine foldl_engines s (fun t p => ?_) _
  simp only
  split <;> rfl

@[simp] theorem State.wakePiers_engines (a n : Nat) : (s.wakePiers a n).engines = s.engines := by
  refine foldl_engines s (fun t p => ?_) _
  simp only
  split
  · rfl
  · exact t.requestWake_engines _

@[simp] theorem State.writeLoc_engines (l : Loc) (bs : List Byte) : (s.writeLoc l bs).engines = s.engines := by
  rw [State.writeLoc_eq]

@[simp] theorem State.writePier_engines (a : Nat) (bs : List Byte) : (s.writePier a bs).engines = s.engines := by
  rw [State.writePier_eq]

@[simp] theorem State.storeLoc_engines (l : Loc) (bs : List Byte) : (s.storeLoc l bs).engines = s.engines := by
  cases l <;> simp [State.storeLoc]

@[simp] theorem State.addCounter_engines (l : Loc) (n : Nat) : (s.addCounter l n).engines = s.engines := by
  cases l <;> simp [State.addCounter, State.fetchLoc]

@[simp] theorem State.storeAll_engines (outs : List (Loc × List Byte)) : (s.storeAll outs).engines = s.engines :=
  foldl_engines s (fun t _ => t.storeLoc_engines _ _) outs

@[simp] theorem State.raceWrite_engines (outs : List (Loc × List Byte)) (snap : List Byte) :
    (s.raceWrite outs snap).engines = s.engines := by
  simp only [State.raceWrite]
  split <;> simp

@[simp] theorem State.raceSrc_engines (o : CopyOp) (reads : List (Loc × Nat)) :
    (s.raceSrc o reads).2.engines = s.engines := by
  simp only [State.raceSrc]
  split <;> rfl

@[simp] theorem State.countReads_engines (l : List (Loc × Nat)) : (s.countReads l).engines = s.engines := by
  refine foldl_engines s (fun t a => ?_) l
  split <;> simp

@[simp] theorem State.freeSpawns_engines (l : List (Nat × Nat)) : (s.freeSpawns l).engines = s.engines := by
  refine foldl_engines s (fun t x => ?_) l
  rfl

/-! ## Updates that keep the activity of every engine -/

variable {s} {t : State}

/-- Every engine does in `t` what it does in `s`. -/
structure ActsKept (s t : State) : Prop where
  act : ∀ e, (t.eng e).act = (s.eng e).act

theorem ActsKept.refl (s : State) : ActsKept s s := ⟨fun _ => rfl⟩

theorem ActsKept.trans {u : State} (h : ActsKept s t) (k : ActsKept t u) : ActsKept s u :=
  ⟨fun e => (k.act e).trans (h.act e)⟩

theorem ActsKept.of_engines (h : t.engines = s.engines) : ActsKept s t := ⟨fun e => by rw [State.eng_of_engines h]⟩

theorem ActsKept.modEng (e : Nat) {f : Engine → Engine} (h : ∀ x, (f x).act = x.act) : ActsKept s (s.modEng e f) := by
  refine ⟨fun a => ?_⟩
  rw [State.eng_modEng]
  split
  · next ha => rw [ha, h]
  · rfl

theorem ActsKept.foldl {α : Type} {g : State → α → State} (hg : ∀ s a, ActsKept s (g s a)) (l : List α) :
    ActsKept s (l.foldl g s) :=
  List.foldlRecOn l g (motive := ActsKept s) (.refl s) fun t ht a _ => ht.trans (hg t a)

theorem flagAdd_actsKept (e f : Nat) (v : W32) : ActsKept s (s.flagAdd e f v) := by
  unfold State.flagAdd
  split
  · exact .modEng e fun _ => rfl
  · exact .of_engines (by simp)

theorem flagSub_actsKept (e f : Nat) (v : W32) : ActsKept s (s.flagSub e f v) := by
  unfold State.flagSub
  split
  · exact .modEng e fun _ => rfl
  · exact .of_engines (by simp)

theorem undoFlags_actsKept (e : Nat) (l : List (Nat × W32)) : ActsKept s (s.undoFlags e l) :=
  .foldl (fun _ _ => flagSub_actsKept ..) l

theorem noteFlag_actsKept (e c k f : Nat) (v : W32) : ActsKept s (s.noteFlag e c k f v) := by
  simp only [State.noteFlag]
  split
  · split_ifs
    · exact .refl s
    · exact .modEng _ fun _ => rfl
    · exact .of_engines rfl
  · exact .refl s

theorem orStatus_actsKept (e c k : Nat) (b : BitVec 3) : ActsKept s (s.orStatus e c k b) := by
  simp only [State.orStatus]
  split
  · exact .modEng _ fun _ => rfl
  · split
    · exact .of_engines rfl
    · exact .refl s

theorem copyFlag_actsKept (e : Nat) (o : CopyOp) : ActsKept s (s.copyFlag e o) := by
  unfold State.copyFlag
  split
  · exact (flagAdd_actsKept ..).trans (noteFlag_actsKept ..)
  · exact .refl s

theorem stick_actsKept (l : List Sticky) : ActsKept s (s.stick l) := .of_engines rfl

theorem recordFault_actsKept (e : Nat) (code opc : BitVec 8) (pc : Nat) (a : W64) :
    ActsKept s (s.recordFault e code opc pc a) := by
  unfold State.recordFault
  refine .trans (.modEng e fun x => ?_) (stick_actsKept _)
  split <;> rfl

theorem orphanLs_actsKept (o : Nat) (d : ItemDesc) : ActsKept s (s.orphanLs o d) := by
  simp only [State.orphanLs]
  split
  · exact .refl s
  · split <;> exact .trans (recordFault_actsKept ..) (.of_engines rfl)

theorem Tab.find?_map {α : Type} (f : α → α) (t : Tab α) (x : Nat) :
    Tab.find? (t.map fun a => (a.1, f a.2)) x = (Tab.find? t x).map f := by
  induction t with
  | nil => rfl
  | cons a t ih =>
    obtain ⟨k, v⟩ := a
    simp only [List.map_cons, Tab.find?]
    split
    · rfl
    · exact ih

theorem dropOps_actsKept (c k : Nat) : ActsKept s (s.dropOps c k) := by
  refine ⟨fun e => ?_⟩
  simp only [State.eng, State.dropOps, Tab.get, Tab.find?_map (Engine.orphanOps · c k)]
  cases Tab.find? s.engines e <;> rfl

theorem freeSpawns_actsKept (l : List (Nat × Nat)) : ActsKept s (s.freeSpawns l) :=
  .of_engines (s.freeSpawns_engines l)

theorem setHod_actsKept (c k : Nat) (h : HodSlot) : ActsKept s (s.setHod c k h) := .of_engines rfl
theorem modCrs_actsKept (c : Nat) (f : Course → Course) : ActsKept s (s.modCrs c f) := .of_engines rfl
theorem ctxFault_actsKept (n : Nat) (code opc : BitVec 8) (e : Nat) (seq : W32) :
    ActsKept s (s.ctxFault n code opc e seq) := .of_engines rfl
theorem haltPart_actsKept (p : Nat) (code : BitVec 8) (e : Option Nat) : ActsKept s (s.haltPart p code e) :=
  .of_engines rfl

/-- The slot of an item frees, and its context counts it. -/
theorem freeItem_actsKept (c k n : Nat) (b : Bool) : ActsKept s ((s.freeHod c k).ctxDone n b) := .of_engines rfl

theorem endYielded_actsKept (c k : Nat) : ActsKept s (s.endYielded c k) := by
  simp only [State.endYielded]
  split
  · exact .refl s
  · refine .trans ?_ (freeItem_actsKept ..)
    exact (freeSpawns_actsKept _).trans (dropOps_actsKept ..)

theorem orphanItems_actsKept (e : Nat) : ActsKept s (s.orphanItems e) := by
  refine .foldl (fun t a => .foldl (fun u b => ?_) _) _
  dsimp only
  split
  · exact orphanLs_actsKept ..
  · exact .refl u

theorem retire_actsKept (e : Nat) : ActsKept s (s.retire e) := by
  simp only [State.retire]
  split
  · refine .trans ?_ (.modEng e fun _ => rfl)
    exact .of_engines rfl
  · refine .trans ?_ (orphanItems_actsKept e)
    refine .trans ?_ (.modEng e fun _ => rfl)
    exact .of_engines rfl

/-! ## Updates after which no further engine waits for its copy queue -/

/-- No engine waits in `t` for a place in its copy queue that does not so wait in `s`. -/
structure NoNewQueueWait (s t : State) : Prop where
  act : ∀ e, (s.eng e).act ≠ .waitCopyQueue → (t.eng e).act ≠ .waitCopyQueue

theorem NoNewQueueWait.refl (s : State) : NoNewQueueWait s s := ⟨fun _ h => h⟩

theorem NoNewQueueWait.trans {u : State} (h : NoNewQueueWait s t) (k : NoNewQueueWait t u) : NoNewQueueWait s u :=
  ⟨fun e he => k.act e (h.act e he)⟩

theorem ActsKept.noNewQueueWait (h : ActsKept s t) : NoNewQueueWait s t := ⟨fun e he => by rw [h.act e]; exact he⟩

theorem NoNewQueueWait.modEng (e : Nat) {f : Engine → Engine} (h : ∀ x, (f x).act ≠ .waitCopyQueue) :
    NoNewQueueWait s (s.modEng e f) := by
  refine ⟨fun a ha => ?_⟩
  rw [State.eng_modEng]
  split
  · exact h _
  · exact ha

theorem NoNewQueueWait.foldl {α : Type} {g : State → α → State} (hg : ∀ s a, NoNewQueueWait s (g s a)) (l : List α) :
    NoNewQueueWait s (l.foldl g s) :=
  List.foldlRecOn l g (motive := NoNewQueueWait s) (.refl s) fun t ht a _ => ht.trans (hg t a)

theorem Engine.release_act_ne (x : Engine) : x.release.act ≠ .waitCopyQueue := by
  unfold Engine.release
  dsimp only
  split <;> simp

theorem endRunning_noNewQueueWait (e : Nat) : NoNewQueueWait s (s.endRunning e) := by
  simp only [State.endRunning]
  split
  · exact .refl s
  · refine .trans ?_ (freeItem_actsKept ..).noNewQueueWait
    refine .trans ?_ (.modEng e Engine.release_act_ne)
    exact ((freeSpawns_actsKept _).trans (dropOps_actsKept ..)).noNewQueueWait

theorem startItem_noNewQueueWait (e : Nat) (x : Candidate) : NoNewQueueWait s (s.startItem e x) := by
  simp only [State.startItem]
  refine .trans ((undoFlags_actsKept ..).trans (setHod_actsKept ..)).noNewQueueWait (.modEng e fun y => ?_)
  split <;> simp

theorem takeNext_noNewQueueWait (e : Nat) : NoNewQueueWait s (s.takeNext e) := by
  simp only [State.takeNext]
  split
  · split
    · split
      · exact (orphanLs_actsKept ..).noNewQueueWait
      · exact startItem_noNewQueueWait ..
    · exact startItem_noNewQueueWait ..
  · split
    · exact .refl s
    · refine .trans (ActsKept.noNewQueueWait ?_) (startItem_noNewQueueWait ..)
      refine .trans ?_ (modCrs_actsKept ..)
      exact .modEng e fun _ => rfl

theorem takeTurn_noNewQueueWait (e : Nat) : NoNewQueueWait s (s.takeTurn e) := by
  unfold State.takeTurn
  split_ifs
  · exact .refl s
  · exact (retire_actsKept e).noNewQueueWait
  · exact takeNext_noNewQueueWait e

theorem choose_noNewQueueWait (e : Nat) : NoNewQueueWait s (s.choose e) := by
  unfold State.choose
  split
  · exact .trans (.foldl (fun _ _ => takeTurn_noNewQueueWait _) _) (takeTurn_noNewQueueWait e)
  · exact .refl s

section
variable {code : BitVec 8} (hc : code ≠ faultCheck)
include hc

theorem itemFault_noNewQueueWait (e : Nat) (opc : BitVec 8) (pc : Nat) (a : W64) :
    NoNewQueueWait s (s.itemFault e code opc pc a) := by
  simp only [State.itemFault, if_neg hc]
  split
  · exact (recordFault_actsKept ..).noNewQueueWait
  · have hfault : ∀ c k, ActsKept s
        (match (s.recordFault e code opc pc a).hodSlot c k with
          | some h => (s.recordFault e code opc pc a).ctxFault h.desc.ctx code opc e h.desc.seq
          | none => s.recordFault e code opc pc a) := fun c k => by
      split
      · exact (recordFault_actsKept ..).trans (ctxFault_actsKept ..)
      · exact recordFault_actsKept ..
    split
    · split
      · exact ((hfault _ _).trans (haltPart_actsKept ..)).noNewQueueWait
      · exact (hfault _ _).noNewQueueWait
    · exact (hfault _ _).noNewQueueWait.trans (endRunning_noNewQueueWait e)

theorem asyncFault_noNewQueueWait (e c k : Nat) (live : Bool) (opc : BitVec 8) (pc : Nat) (a : W64) :
    NoNewQueueWait s (s.asyncFault e c k live code opc pc a) := by
  have hhalt : ∀ u : State, ActsKept u
      (if haltingCode code then match u.partOfEngine e with | some p => u.haltPart p code (some e) | none => u
       else u) := fun u => by
    split
    · split
      · exact haltPart_actsKept ..
      · exact .refl u
    · exact .refl u
  have hrecord : ActsKept s (s.recordFault e code opc pc a) := recordFault_actsKept ..
  simp only [State.asyncFault, if_neg hc]
  split
  · exact itemFault_noNewQueueWait hc ..
  · refine ActsKept.noNewQueueWait ?_
    split
    · exact hrecord.trans (hhalt _)
    · split
      · exact hrecord.trans (hhalt _)
      · simp only [hc, decide_false, Bool.false_and, Bool.false_eq_true, if_false]
        exact hrecord.trans (((ctxFault_actsKept ..).trans (endYielded_actsKept ..)).trans (hhalt _))

end

/-! ## Completion (R83) -/

/-- A completion takes its engine, when it waits for a place in its copy queue, back to RUN. -/
theorem State.dropCopy_act {e : Nat} (i : Nat) (h : (s.eng e).act = .waitCopyQueue) :
    ((s.dropCopy e i).eng e).act = .run := by
  simp [State.dropCopy, State.resumeQueue, h]

theorem State.finishCopy_act {e : Nat} (i : Nat) (o : CopyOp) (h : (s.eng e).act = .waitCopyQueue) :
    ((s.finishCopy e i o).eng e).act = .run := by
  simp only [State.finishCopy]
  rw [(copyFlag_actsKept e o).act]
  refine State.dropCopy_act i ?_
  rw [State.eng_of_engines (s := s) (by simp), h]

/-- The bytes that the completion of copy `o`, plinth operation `p`, reads, its list apart (R211, R212). -/
def State.plinthRead (s : State) (o : CopyOp) (p : Plinth) : List Byte × State :=
  s.raceSrc { o with srcSnap := o.srcSnap.drop p.listLen }
    (if o.srcSnap.isEmpty then [] else p.reads (p.snapOffs o.srcSnap))

/-- What the operation makes of those bytes. -/
def State.plinthOut (s : State) (o : CopyOp) (p : Plinth) : PlinthOut :=
  if o.srcSnap.isEmpty then PlinthOut.none else p.compute (p.snapOffs o.srcSnap) (s.plinthRead o p).1

/-- The state once those bytes have been read and counted. -/
def State.afterReads (s : State) (o : CopyOp) (p : Plinth) : State :=
  (s.plinthRead o p).2.countReads
    ((if p.listLen = 0 || o.srcSnap.isEmpty then [] else [(p.list, p.listLen)]) ++
      if o.srcSnap.isEmpty then [] else p.reads (p.snapOffs o.srcSnap))

/-- The state once a result `r` stands where it belongs: tile, report, flush counter and numeric status (R212). -/
def State.afterWrites (s : State) (e : Nat) (o : CopyOp) (p : Plinth) (r : PlinthOut) : State :=
  let s := s.raceWrite r.out o.dstSnap
  let s := match p.report with | some l => s.storeLoc l r.report | none => s
  let s := match p.flush with | some l => s.addCounter l r.flushed | none => s
  if r.sat && o.live then s.orStatus e o.homeCourse o.slot nsEncSat else s

/-- R212: the copy is off the queue when its bytes are bad, and when they are written. -/
theorem State.finishPlinth_eq (s : State) (e i : Nat) (o : CopyOp) (p : Plinth) :
    s.finishPlinth e i o p =
      if (s.plinthOut o p).bad then
        if o.reset then (s.afterReads o p).dropCopy e i
        else
          (((s.afterReads o p).dropCopy e i).asyncFault e o.homeCourse o.slot o.live faultFormat o.opc o.pc 0).choose e
      else (((s.afterReads o p).afterWrites e o p (s.plinthOut o p)).dropCopy e i).copyFlag e o := rfl

theorem afterReads_actsKept (o : CopyOp) (p : Plinth) : ActsKept s (s.afterReads o p) :=
  .of_engines (by simp [State.afterReads, State.plinthRead])

theorem afterWrites_actsKept (e : Nat) (o : CopyOp) (p : Plinth) (r : PlinthOut) :
    ActsKept s (s.afterWrites e o p r) := by
  have hstore : ∀ (x : Option Loc) (g : State → Loc → State), (∀ u l, (g u l).engines = u.engines) →
      ∀ u : State, ActsKept u (match x with | some l => g u l | none => u) := fun x g hg u => by
    cases x with
    | none => exact .refl u
    | some l => exact .of_engines (hg u l)
  have htile : ActsKept s (s.raceWrite r.out o.dstSnap) := .of_engines (s.raceWrite_engines ..)
  have hwritten := (htile.trans (hstore p.report (·.storeLoc · r.report) (fun u l => u.storeLoc_engines l _) _)).trans
    (hstore p.flush (·.addCounter · r.flushed) (fun u l => u.addCounter_engines l _) _)
  simp only [State.afterWrites]
  split
  · exact hwritten.trans (orStatus_actsKept ..)
  · exact hwritten

/-- What nothing has raced is what the issue found (R203). -/
theorem State.plinthOut_of_undisturbed {o : CopyOp} {p : Plinth} (h : PlinthUndisturbed s o p) :
    s.plinthOut o p = plinthResult o p := by
  obtain ⟨hread, -⟩ := h
  by_cases hs : o.srcSnap = []
  · simp [State.plinthOut, plinthResult, hs]
  · simp [State.plinthOut, State.plinthRead, plinthResult, Plinth.listLen, State.raceSrc, hs, hread hs]

section
variable {e : Nat} (i : Nat) (o : CopyOp) (p : Plinth) (h : (s.eng e).act = .waitCopyQueue)
include h

/-- R212, R83: an operation whose bytes fault ends its engine's wait too. -/
theorem State.finishPlinth_act_ne : ((s.finishPlinth e i o p).eng e).act ≠ .waitCopyQueue := by
  have hrun : ∀ u : State, ActsKept s u → ((u.dropCopy e i).eng e).act ≠ .waitCopyQueue := fun u hu => by
    rw [State.dropCopy_act i ((hu.act e).trans h)]
    simp
  rw [State.finishPlinth_eq]
  split_ifs
  · exact hrun _ (afterReads_actsKept o p)
  · refine (choose_noNewQueueWait e).act e ((asyncFault_noNewQueueWait (by decide) ..).act e ?_)
    exact hrun _ (afterReads_actsKept o p)
  · rw [(copyFlag_actsKept e o).act]
    exact hrun _ ((afterReads_actsKept o p).trans (afterWrites_actsKept ..))

/-- R83: an operation whose bytes do not fault takes its engine back to RUN. -/
theorem State.finishPlinth_act (hok : (s.plinthOut o p).bad = false) :
    ((s.finishPlinth e i o p).eng e).act = .run := by
  rw [State.finishPlinth_eq, hok, if_neg Bool.false_ne_true, (copyFlag_actsKept e o).act]
  refine State.dropCopy_act i ?_
  rw [((afterReads_actsKept o p).trans (afterWrites_actsKept ..)).act, h]

end

/-! ## The commands that complete an operation -/

section
variable {e i : Nat} {o : CopyOp} (he : isEngine e = true) (hlive : s.live = true) (hop : s.copyOp e i = some o)
include he hlive hop

theorem exec_copyComplete (hcopy : o.plinth = none) : exec (.copyComplete e i) s = .next (s.finishCopy e i o) :=
  (guarded_ok he _).trans (by simp [State.copyComplete, hlive, hop, hcopy])

theorem exec_plinthOpComplete {p : Plinth} (hp : o.plinth = some p) (hdig : s.digestWaits o = false) :
    exec (.plinthOpComplete e i) s = .next (s.finishPlinth e i o p) :=
  (guarded_ok he _).trans (by simp [State.copyComplete, hlive, hop, hp, hdig])

end

/-! ## The instruction that meets a full queue (R83) -/

/-- The fields of a copy instruction are as its form asks, its flag may be named, and 32 copies are outstanding. -/
structure MeetsFullQueue (s : State) (r : Run) (f : Fields) : Prop where
  flag_lt : f.d < 48
  flag_ok : r.d.net = true ∨ f.d.toNat < s.cfg.flagSysBase
  imm : f.imm = 0
  full : (s.eng r.e).outstanding ≥ 32

theorem MeetsFullQueue.flagCheck {r : Run} {f : Fields} (h : MeetsFullQueue s r f) :
    s.flagCheck r f.d.toNat = .ok () := by
  have hlt : ¬ f.d.toNat > 47 := by have := h.flag_lt; bv_omega
  have hok : ¬ (!r.d.net && decide (f.d.toNat ≥ s.cfg.flagSysBase)) = true := by
    rcases h.flag_ok with hn | hn
    · simp [hn]
    · simp [hn]
  rw [State.flagCheck, if_neg hlt, if_neg hok]

section
variable {r : Run} {f : Fields} (h : MeetsFullQueue s r f)
include h

theorem cpyBody_full : cpyBody f r s = .ok (s.holdIssue r.e .waitCopyQueue) := by
  have hfields : checkFields f .any .any .any .any 0 = .ok () := checkFields_ok (by simp [Use.ok, h.imm])
  simp only [cpyBody, hfields, h.flagCheck, bind, Except.bind, if_pos h.full]

variable (hb : f.b = 0) (hc : f.c = 0)
include hb hc

theorem checkFields_noBC : checkFields f .any .any .no .no 0 = .ok () :=
  checkFields_ok (by simp [Use.ok, hb, hc, h.imm])

theorem cpysBody_full : cpysBody f r s = .ok (s.holdIssue r.e .waitCopyQueue) := by
  simp only [cpysBody, checkFields_noBC h hb hc, h.flagCheck, bind, Except.bind, if_pos h.full]

theorem cpypBody_full (op : Nat) : cpypBody op f r s = .ok (s.holdIssue r.e .waitCopyQueue) := by
  simp only [cpypBody, checkFields_noBC h hb hc, h.flagCheck, bind, Except.bind, if_pos h.full]

end

/-- R83: CPY, CPYS and the plinth operations that meet a full queue are held back. -/
theorem exec_copyRows : ∀ row ∈ copyRows, ∀ e f, row.2.2 = true ∨ (f.b = 0 ∧ f.c = 0) → ∀ s,
    ∃ body, exec (row.1 e f) s = guarded (isEngine e) (s.issue e row.2.1 f body) ∧ knownOpc row.2.1.toNat = true ∧
      ∀ r u, MeetsFullQueue u r f → body r u = .ok (u.holdIssue r.e .waitCopyQueue) := by
  unfold copyRows
  refine List.forall_mem_cons.2 ⟨fun e f _ s => ⟨_, rfl, rfl, fun _ _ => cpyBody_full⟩, ?_⟩
  refine List.forall_mem_cons.2 ⟨fun e f hbc s => ⟨_, rfl, rfl, fun _ _ h => ?_⟩, ?_⟩
  · obtain ⟨hb, hc⟩ := hbc.resolve_left Bool.false_ne_true
    exact cpysBody_full h hb hc
  have hplinth : ∀ op (f : Fields), false = true ∨ (f.b = 0 ∧ f.c = 0) → ∀ r u, MeetsFullQueue u r f →
      cpypBody op f r u = .ok (u.holdIssue r.e .waitCopyQueue) := fun op f hbc r u h => by
    obtain ⟨hb, hc⟩ := hbc.resolve_left Bool.false_ne_true
    exact cpypBody_full h hb hc op
  repeat refine List.forall_mem_cons.2 ⟨fun e f hbc s => ⟨_, rfl, rfl, hplinth _ f hbc⟩, ?_⟩
  exact List.forall_mem_nil _

/-- Settles O13: the instruction is held back by `exec_copyRows`; a completion ends the wait by `State.finishCopy_act`,
`State.finishPlinth_act` and `State.finishPlinth_act_ne`. -/
theorem copyQueueFull : Obligations.CopyQueueFull := by
  unfold Obligations.CopyQueueFull
  intro row hrow s e f r hi hd hflag himm hbc hfull
  obtain ⟨body, hexec, hknown, hbody⟩ := exec_copyRows row hrow e f hbc s
  have hmeets : MeetsFullQueue (s.modEng e Engine.next) r f :=
    ⟨hd, hflag, himm, by rw [hi.run_e, State.eng_modEng_self]; exact hfull⟩
  have hheld := hbody r _ hmeets
  rw [hi.run_e] at hheld
  obtain ⟨t, ht, honly, heng⟩ := issue_onEngine hi hknown hheld
  have hwaits : t.eng e = { s.eng e with act := .waitCopyQueue } := by rw [heng, hi.next_eq]; rfl
  refine ⟨t, hexec.trans ht, honly, hwaits, fun u i o hlive hop hwait => ⟨fun hcopy => ?_, fun p hp hdig => ?_⟩⟩
  · exact ⟨_, exec_copyComplete hi.isEngine hlive hop hcopy, State.finishCopy_act i o hwait⟩
  · refine ⟨_, exec_plinthOpComplete hi.isEngine hlive hop hp hdig, State.finishPlinth_act_ne i o p hwait,
      fun hun hok => State.finishPlinth_act i o p hwait ?_⟩
    rw [State.plinthOut_of_undisturbed hun, hok]

end Sys2Proof.Machine
end

section
/-!
SUPPORT. The three stores of a state (local stores, course stores, piers), and the updates that leave them as they are:
one lemma for each function of the model that takes a state to a state and stores nothing, in the order of the model.
-/
namespace Sys2Proof.Machine

/-- The three stores of a state. -/
def State.stores (s : State) : List Host.Cell × List Host.Cell × List Host.Cell := (s.ls, s.cs, s.mem)

@[simp] theorem State.stores_eq (s : State) : (s.ls, s.cs, s.mem) = s.stores := by simp only [State.stores]

@[simp] theorem State.stores_mk (pending freeCtr nextCopy out gen pwr doms bu bond cfg engines courses parts ctxs mslots
    keys ofls rte ports hbCount piers mcs ls cs mem ckp frz jtag sec hosts latches smbPtr setNow clearedNow) :
    (State.mk pending freeCtr nextCopy out gen pwr doms bu bond cfg engines courses parts ctxs mslots keys ofls rte
      ports hbCount piers mcs ls cs mem ckp frz jtag sec hosts latches smbPtr setNow clearedNow).stores = (ls, cs, mem) := by
  simp only [State.stores]

theorem foldl_stores {α : Type} {g : State → α → State} (hg : ∀ s a, (g s a).stores = s.stores) (l : List α)
    (s : State) : (l.foldl g s).stores = s.stores :=
  List.foldlRecOn l g (motive := fun t => t.stores = s.stores) rfl fun t ht a _ => (hg t a).trans ht

@[simp] theorem stores_ite (c : Prop) [Decidable c] (s t : State) :
    (if c then s else t).stores = if c then s.stores else t.stores := apply_ite ..

theorem getD_stores {s t : State} {x : Option State} (hx : ∀ u ∈ x, u.stores = s.stores) (ht : t.stores = s.stores) :
    (x.getD t).stores = s.stores := by
  cases x with
  | none => exact ht
  | some u => exact hx u rfl

variable (s : State)

/-! ## Machine/Ops.lean -/

@[simp] theorem State.setEng_stores (e : Nat) (x : Engine) : (s.setEng e x).stores = s.stores := rfl
@[simp] theorem State.modEng_stores (e : Nat) (f : Engine → Engine) : (s.modEng e f).stores = s.stores := rfl
@[simp] theorem State.setCrs_stores (c : Nat) (x : Course) : (s.setCrs c x).stores = s.stores := rfl
@[simp] theorem State.modCrs_stores (c : Nat) (f : Course → Course) : (s.modCrs c f).stores = s.stores := rfl
@[simp] theorem State.setPart_stores (p : Nat) (x : Part) : (s.setPart p x).stores = s.stores := rfl
@[simp] theorem State.modPart_stores (p : Nat) (f : Part → Part) : (s.modPart p f).stores = s.stores := rfl
@[simp] theorem State.setCtx_stores (n : Nat) (x : Ctx) : (s.setCtx n x).stores = s.stores := rfl
@[simp] theorem State.modCtx_stores (n : Nat) (f : Ctx → Ctx) : (s.modCtx n f).stores = s.stores := rfl
@[simp] theorem State.setMslot_stores (n : Nat) (x : MSlot) : (s.setMslot n x).stores = s.stores := rfl
@[simp] theorem State.modMslot_stores (n : Nat) (f : MSlot → MSlot) : (s.modMslot n f).stores = s.stores := rfl
@[simp] theorem State.setKey_stores (k : Nat) (x : KeyLine) : (s.setKey k x).stores = s.stores := rfl
@[simp] theorem State.modKey_stores (k : Nat) (f : KeyLine → KeyLine) : (s.modKey k f).stores = s.stores := rfl
@[simp] theorem State.setOfl_stores (p w : Nat) (x : Ofl) : (s.setOfl p w x).stores = s.stores := rfl
@[simp] theorem State.modOfl_stores (p w : Nat) (f : Ofl → Ofl) : (s.modOfl p w f).stores = s.stores := rfl
@[simp] theorem State.setPort_stores (p : Nat) (x : Port) : (s.setPort p x).stores = s.stores := rfl
@[simp] theorem State.modPort_stores (p : Nat) (f : Port → Port) : (s.modPort p f).stores = s.stores := rfl
@[simp] theorem State.setPier_stores (p : Nat) (x : Pier) : (s.setPier p x).stores = s.stores := rfl
@[simp] theorem State.modPier_stores (p : Nat) (f : Pier → Pier) : (s.modPier p f).stores = s.stores := rfl
@[simp] theorem State.modMc_stores (m : Nat) (f : Mc → Mc) : (s.modMc m f).stores = s.stores := rfl
@[simp] theorem State.setDom_stores (d : Nat) (x : Dom) : (s.setDom d x).stores = s.stores := rfl
@[simp] theorem State.modDom_stores (d : Nat) (f : Dom → Dom) : (s.modDom d f).stores = s.stores := rfl
@[simp] theorem State.setHost_stores (h : Nat) (x : HostPort) : (s.setHost h x).stores = s.stores := rfl
@[simp] theorem State.modHost_stores (h : Nat) (f : HostPort → HostPort) : (s.modHost h f).stores = s.stores := rfl
@[simp] theorem State.modCtr_stores (d : Nat) (f : DieCtr → DieCtr) : (s.modCtr d f).stores = s.stores := rfl
@[simp] theorem State.emit_stores (o : Out) : (s.emit o).stores = s.stores := rfl
@[simp] theorem State.stick_stores (l : List Sticky) : (s.stick l).stores = s.stores := rfl
@[simp] theorem State.freeBool_stores : s.freeBool.2.stores = s.stores := rfl
@[simp] theorem State.freeNat_stores : s.freeNat.2.stores = s.stores := rfl

@[simp] theorem State.requestWake_stores (d : Nat) : (s.requestWake d).stores = s.stores := by
  simp [State.requestWake]

@[simp] theorem State.countPier_stores (rd : Bool) (a n : Nat) : (s.countPier rd a n).stores = s.stores := by
  refine foldl_stores (fun t a => ?_) _ s
  dsimp only
  split <;> simp

@[simp] theorem State.wakePiers_stores (a n : Nat) : (s.wakePiers a n).stores = s.stores := by
  refine foldl_stores (fun t a => ?_) _ s
  dsimp only
  split <;> simp

@[simp] theorem State.fetchLoc_stores (l : Loc) (n : Nat) : (s.fetchLoc l n).2.stores = s.stores := by
  simp only [State.fetchLoc]
  split <;> simp

@[simp] theorem State.setFlag_stores (e f : Nat) (v : W32) : (s.setFlag e f v).stores = s.stores := rfl

@[simp] theorem State.flagAdd_stores (e f : Nat) (v : W32) : (s.flagAdd e f v).stores = s.stores := by
  simp [State.flagAdd]

@[simp] theorem State.unhold_stores (f : Nat → Bool) : (s.unhold f).stores = s.stores := rfl

@[simp] theorem State.flagSub_stores (e f : Nat) (v : W32) : (s.flagSub e f v).stores = s.stores := by
  simp [State.flagSub]

@[simp] theorem State.ctxPlaced_stores (n : Nat) : (s.ctxPlaced n).stores = s.stores := rfl

@[simp] theorem State.ctxDone_stores (n : Nat) (finished : Bool) : (s.ctxDone n finished).stores = s.stores := by
  simp [State.ctxDone]

@[simp] theorem State.ctxFault_stores (n : Nat) (code opc : BitVec 8) (e : Nat) (seq : W32) :
    (s.ctxFault n code opc e seq).stores = s.stores := by
  simp [State.ctxFault]

@[simp] theorem State.setHod_stores (c k : Nat) (x : HodSlot) : (s.setHod c k x).stores = s.stores := rfl
@[simp] theorem State.freeHod_stores (c k : Nat) : (s.freeHod c k).stores = s.stores := rfl
@[simp] theorem State.occupy_stores (c k : Nat) (x : HodSlot) : (s.occupy c k x).stores = s.stores := rfl
@[simp] theorem State.stamp_stores (c : Nat) : (s.stamp c).2.stores = s.stores := rfl

@[simp] theorem State.freeSpawns_stores (l : List (Nat × Nat)) : (s.freeSpawns l).stores = s.stores := by
  refine foldl_stores (fun t a => ?_) _ s
  simp

@[simp] theorem State.haltPart_stores (p : Nat) (code : BitVec 8) (e : Option Nat) :
    (s.haltPart p code e).stores = s.stores := by
  simp [State.haltPart]

@[simp] theorem State.recordFault_stores (e : Nat) (code opc : BitVec 8) (pc : Nat) (addr : W64) :
    (s.recordFault e code opc pc addr).stores = s.stores := by
  simp [State.recordFault]

@[simp] theorem State.orphanLs_stores (o : Nat) (d : ItemDesc) : (s.orphanLs o d).stores = s.stores := by
  simp only [State.orphanLs]
  repeat' split
  all_goals rfl

@[simp] theorem State.makeReady_stores (c k : Nat) : (s.makeReady c k).stores = s.stores := by
  simp only [State.makeReady]
  split <;> simp

@[simp] theorem State.dropOps_stores (c k : Nat) : (s.dropOps c k).stores = s.stores := rfl

@[simp] theorem State.endRunning_stores (e : Nat) : (s.endRunning e).stores = s.stores := by
  simp only [State.endRunning]
  split <;> simp

@[simp] theorem State.endYielded_stores (c k : Nat) : (s.endYielded c k).stores = s.stores := by
  simp only [State.endYielded]
  split <;> simp

@[simp] theorem State.checkFault_stores (e : Nat) (opc : BitVec 8) (pc : Nat) (addr : W64) :
    (s.checkFault e opc pc addr).stores = s.stores := by
  simp only [State.checkFault]
  repeat' split
  all_goals simp

@[simp] theorem State.itemFault_stores (e : Nat) (code opc : BitVec 8) (pc : Nat) (addr : W64) :
    (s.itemFault e code opc pc addr).stores = s.stores := by
  simp only [State.itemFault]
  repeat' split
  all_goals simp

@[simp] theorem State.failYielded_stores (c k : Nat) : (s.failYielded c k).stores = s.stores := by
  simp only [State.failYielded]
  split <;> simp

@[simp] theorem State.asyncFault_stores (e c k : Nat) (live : Bool) (code opc : BitVec 8) (pc : Nat) (addr : W64) :
    (s.asyncFault e c k live code opc pc addr).stores = s.stores := by
  simp only [State.asyncFault]
  repeat' split
  all_goals simp

/-! ## Machine/Choose.lean -/

@[simp] theorem State.undoFlags_stores (t : Nat) (l : List (Nat × W32)) : (s.undoFlags t l).stores = s.stores := by
  refine foldl_stores (fun t a => ?_) _ s
  simp

@[simp] theorem State.startItem_stores (e : Nat) (x : Candidate) : (s.startItem e x).stores = s.stores := by
  simp [State.startItem]

@[simp] theorem State.takeNext_stores (e : Nat) : (s.takeNext e).stores = s.stores := by
  simp only [State.takeNext]
  repeat' split
  all_goals simp

@[simp] theorem State.orphanItems_stores (e : Nat) : (s.orphanItems e).stores = s.stores := by
  refine foldl_stores (fun t a => foldl_stores (fun u b => ?_) _ t) _ s
  dsimp only
  split <;> simp

@[simp] theorem State.retire_stores (e : Nat) : (s.retire e).stores = s.stores := by
  simp only [State.retire]
  split <;> simp

@[simp] theorem State.takeTurn_stores (e : Nat) : (s.takeTurn e).stores = s.stores := by
  simp [State.takeTurn]

@[simp] theorem State.choose_stores (e : Nat) : (s.choose e).stores = s.stores := by
  simp [State.choose, foldl_stores State.takeTurn_stores]

/-! ## Machine/Reduce.lean -/

@[simp] theorem State.setRslot_stores (c r : Nat) (x : RSlot) : (s.setRslot c r x).stores = s.stores := rfl
@[simp] theorem State.idleRslot_stores (c r : Nat) : (s.idleRslot c r).stores = s.stores := rfl

@[simp] theorem State.slotFlag_stores (valid : Bool) (e f : Nat) : (s.slotFlag valid e f).stores = s.stores := by
  simp [State.slotFlag]

/-! ## Machine/Copies.lean -/

@[simp] theorem State.holdIssue_stores (e : Nat) (a : Act) : (s.holdIssue e a).stores = s.stores := rfl

@[simp] theorem State.resumeQueue_stores (e : Nat) : (s.resumeQueue e).stores = s.stores := by
  simp [State.resumeQueue]

@[simp] theorem State.pushCopy_stores (r : Run) (opc : BitVec 8) (flag : Nat) (segs : List Seg) (q : Option Plinth)
    (reads writes : List (Loc × Nat)) (outs : List Byte → List (Loc × List Byte)) :
    (s.pushCopy r opc flag segs q reads writes outs).stores = s.stores := by
  refine (foldl_stores (fun t a => ?_) _ _).trans rfl
  split <;> simp

@[simp] theorem State.raceSrc_stores (o : CopyOp) (reads : List (Loc × Nat)) :
    (s.raceSrc o reads).2.stores = s.stores := by
  simp only [State.raceSrc]
  split <;> rfl

@[simp] theorem State.countReads_stores (l : List (Loc × Nat)) : (s.countReads l).stores = s.stores := by
  refine foldl_stores (fun t a => ?_) _ s
  split <;> simp

@[simp] theorem State.orStatus_stores (e c k : Nat) (b : BitVec 3) : (s.orStatus e c k b).stores = s.stores := by
  simp only [State.orStatus]
  repeat' split
  all_goals rfl

@[simp] theorem State.noteFlag_stores (e c k f : Nat) (v : W32) : (s.noteFlag e c k f v).stores = s.stores := by
  simp only [State.noteFlag]
  split <;> simp

@[simp] theorem State.dropCopy_stores (e i : Nat) : (s.dropCopy e i).stores = s.stores := rfl

@[simp] theorem State.copyFlag_stores (e : Nat) (o : CopyOp) : (s.copyFlag e o).stores = s.stores := by
  simp [State.copyFlag]

@[simp] theorem State.recordUe_stores (p loc kind e : Nat) : (s.recordUe p loc kind e).stores = s.stores := by
  simp [State.recordUe]

/-! ## Machine/Transport.lean -/

@[simp] theorem State.modRte_stores (f : Rte → Rte) : (s.modRte f).stores = s.stores := rfl

@[simp] theorem State.setHalf_stores (ep : Bool) (h : Half) : (s.setHalf ep h).stores = s.stores := by
  simp [State.setHalf]

@[simp] theorem State.enqueue_stores (port : Nat) (q : QPkt) : (s.enqueue port q).stores = s.stores := by
  simp [State.enqueue]

@[simp] theorem State.routeAt_stores (d : Nat) (p : Packet) (cls chan : Nat) (whole : Bool) (inp : Option
    (Nat × Nat)) :
    (s.routeAt d p cls chan whole inp).stores = s.stores := by
  simp [State.routeAt]

@[simp] theorem State.setFlow_stores (g : SendFlow) : (s.setFlow g).stores = s.stores := by
  simp [State.setFlow]

@[simp] theorem State.closeFlow_stores (id : FlowId) : (s.closeFlow id).stores = s.stores := rfl

@[simp] theorem State.noteSeq_stores (op : OpRef) (p : Packet) : (s.noteSeq op p).stores = s.stores := by
  simp only [State.noteSeq]
  split <;> simp

theorem State.launch_stores (w : Waiting) {t : State} (h : t ∈ s.launch w) : t.stores = s.stores := by
  simp only [State.launch] at h
  split at h
  · cases h
  · cases h
    repeat' split
    all_goals simp

@[simp] theorem State.send_stores (d : Nat) (p : Packet) (ep : Bool) (op : OpRef) (src : Option Loc) (last : Bool) :
    (s.send d p ep op src last).stores = s.stores := by
  simp only [State.send]
  split_ifs
  · simp
  · simp
  · simp
  · exact (getD_stores (fun u hu => State.launch_stores _ _ hu) (by simp)).trans (by simp)

@[simp] theorem State.resumeInjection_stores (d : Nat) : (s.resumeInjection d).stores = s.stores := by
  simp only [State.resumeInjection]
  split
  · rfl
  · exact getD_stores (fun u hu => (State.launch_stores _ _ hu).trans (by simp)) rfl

@[simp] theorem State.resendOne_stores (u : Sent) : (s.resendOne u).stores = s.stores := by
  simp [State.resendOne]

@[simp] theorem State.resendFrom_stores (f : SendFlow) (i : Nat) : (s.resendFrom f i).stores = s.stores := by
  simp only [State.resendFrom]
  rw [foldl_stores (fun t a => ?_)] <;> simp

@[simp] theorem State.modNet_stores (e id : Nat) (f : NetOp → NetOp) : (s.modNet e id f).stores = s.stores := by
  simp [State.modNet]

@[simp] theorem State.dropNet_stores (e id : Nat) : (s.dropNet e id).stores = s.stores := rfl

@[simp] theorem State.netDone_stores (e id : Nat) : (s.netDone e id).stores = s.stores := by
  simp only [State.netDone]
  repeat' split
  all_goals simp

@[simp] theorem State.netFail_stores (e id : Nat) (code : BitVec 8) (addr : optParam W64 0) :
    (s.netFail e id code addr).stores = s.stores := by
  simp only [State.netFail]
  split <;> simp

@[simp] theorem State.castFail_stores (code : BitVec 8) : (s.castFail code).stores = s.stores := by
  simp [State.castFail]

@[simp] theorem State.streamEnd_stores (p : Packet) : (s.streamEnd p).stores = s.stores := by
  simp [State.streamEnd]

@[simp] theorem State.opDone_stores (op : OpRef) (p : Packet) (last : Bool) :
    (s.opDone op p last).stores = s.stores := by
  simp only [State.opDone]
  repeat' split
  all_goals simp

@[simp] theorem State.opFail_stores (op : OpRef) (p : Packet) (status : Option Nat) :
    (s.opFail op p status).stores = s.stores := by
  simp only [State.opFail]
  split <;> simp

@[simp] theorem State.acked_stores (id : FlowId) (upto : BitVec 24) (status : Option Nat) :
    (s.acked id upto status).stores = s.stores := by
  simp only [State.acked]
  split
  · rfl
  · split
    · rfl
    · refine (foldl_stores (fun t a => ?_) _ _).trans rfl
      repeat' split
      all_goals simp

@[simp] theorem State.giveUp_stores (f : SendFlow) : (s.giveUp f).stores = s.stores := by
  simp only [State.giveUp]
  rw [foldl_stores (fun t a => ?_)] <;> simp

/-! ## Machine/Sync.lean -/

@[simp] theorem State.consume_stores (e f : Nat) (v : W32) (take : Bool) :
    (s.consume e f v take).stores = s.stores := by
  simp only [State.consume]
  repeat' split
  all_goals simp

@[simp] theorem State.fwaitMet_stores (e : Nat) : (s.fwaitMet e).stores = s.stores := by
  simp only [State.fwaitMet]
  split <;> simp

@[simp] theorem State.keySend_stores (opc : BitVec 8) (to_ k : Nat) (phase : W32) :
    (s.keySend opc to_ k phase).stores = s.stores := by
  simp [State.keySend]

@[simp] theorem State.keyWake_stores (k : Nat) : (s.keyWake k).stores = s.stores := by
  refine foldl_stores (fun t a => ?_) _ s
  dsimp only
  split <;> simp

@[simp] theorem State.keyAdvance_stores (k : Nat) : (s.keyAdvance k).stores = s.stores := by
  simp only [State.keyAdvance]
  rw [foldl_stores (fun t a => ?_)] <;> simp

@[simp] theorem State.keyShare_stores (k : Nat) : (s.keyShare k).stores = s.stores := by
  simp only [State.keyShare]
  repeat' split
  all_goals simp

@[simp] theorem State.keyArrive_stores (k : Nat) : (s.keyArrive k).stores = s.stores := by
  simp [State.keyArrive]

@[simp] theorem State.kwaitMet_stores (e : Nat) : (s.kwaitMet e).stores = s.stores := by
  simp only [State.kwaitMet]
  split <;> simp

@[simp] theorem State.keyMismatch_stores (k : Nat) : (s.keyMismatch k).stores = s.stores := by
  simp [State.keyMismatch]

@[simp] theorem State.keyReport_stores (p : Packet) : (s.keyReport p).stores = s.stores := by
  simp [State.keyReport]

@[simp] theorem State.keyRelease_stores (p : Packet) : (s.keyRelease p).stores = s.stores := by
  simp [State.keyRelease]

/-! ## Machine/Items.lean -/

@[simp] theorem State.reserve_stores (l : List ItemDesc) : (s.reserve l).1.stores = s.stores := by
  induction l generalizing s with
  | nil => rfl
  | cons d l ih => exact (ih _).trans (by simp)

@[simp] theorem State.spawnFull_stores (e : Nat) : (s.spawnFull e).stores = s.stores := rfl

@[simp] theorem State.addSpawns_stores (e : Nat) (ds : List ItemDesc) : (s.addSpawns e ds).stores = s.stores := by
  simp [State.addSpawns]

@[simp] theorem State.racyRead_stores (l : Loc) (n : Nat) : (s.racyRead l n).2.stores = s.stores := by
  simp only [State.racyRead]
  split <;> cases l <;> simp

@[simp] theorem State.readRoute_stores (base : Loc) (l : List (Nat × Nat)) :
    (s.readRoute base l).2.stores = s.stores := by
  induction l generalizing s with
  | nil => rfl
  | cons d l ih =>
    obtain ⟨off, n⟩ := d
    exact (ih _).trans (s.racyRead_stores _ _)

@[simp] theorem State.engineWake_stores (e : Nat) : (s.engineWake e).stores = s.stores := by
  simp [State.engineWake]

@[simp] theorem State.itemReexec_stores (e : Nat) : (s.itemReexec e).stores = s.stores := by
  simp only [State.itemReexec]
  repeat' split
  all_goals simp

/-! ## Machine/Network.lean -/

@[simp] theorem State.pushNet_stores (e : Nat) (o : NetOp) : (s.pushNet e o).stores = s.stores := rfl

@[simp] theorem State.sendPayload_stores (e : Nat) (o : NetOp) (mid last : BitVec 8) (fence : Bool) :
    (s.sendPayload e o mid last fence).stores = s.stores := by
  simp only [State.sendPayload]
  rw [foldl_stores (fun t a => ?_)] <;> simp

@[simp] theorem State.netIssue_stores (r : Run) (o : NetOp) {go : State → State} (hgo : ∀ t, (go t).stores = t.stores) :
    (s.netIssue r o go).stores = s.stores := by
  simp [State.netIssue, hgo]

@[simp] theorem State.stepSend_stores (e : Nat) (o : NetOp) (w : StepWait) : (s.stepSend e o w).stores = s.stores := by
  simp [State.stepSend]

@[simp] theorem State.stepMet_stores (e : Nat) (o : NetOp) (w : StepWait) : (s.stepMet e o w).stores = s.stores := by
  simp [State.stepMet]

@[simp] theorem State.nstepWaitMet_stores (e i : Nat) : (s.nstepWaitMet e i).stores = s.stores := by
  simp only [State.nstepWaitMet]
  split <;> simp

@[simp] theorem State.progressTimeout_stores (e i : Nat) : (s.progressTimeout e i).stores = s.stores := by
  simp only [State.progressTimeout]
  split <;> simp

/-! ## Machine/Power.lean -/

@[simp] theorem State.layerMark_stores (p l : Nat) : (s.layerMark p l).stores = s.stores := by
  simp [State.layerMark]

@[simp] theorem State.pierCorrect_stores (p l : Nat) : (s.pierCorrect p l).stores = s.stores := rfl

@[simp] theorem State.patrolScrub_stores (p loc : Nat) (found : ScrubResult) :
    (s.patrolScrub p loc found).stores = s.stores := by
  simp only [State.patrolScrub]
  repeat' split
  all_goals rfl

@[simp] theorem State.scrubWake_stores (m : Nat) : (s.scrubWake m).stores = s.stores := by
  simp [State.scrubWake]

@[simp] theorem State.pierTemp_stores (p : Nat) (t : BitVec 8) : (s.pierTemp p t).stores = s.stores := by
  simp [State.pierTemp]

@[simp] theorem State.idleDescent_stores (d : Nat) : (s.idleDescent d).stores = s.stores := by
  simp only [State.idleDescent]
  split <;> simp

@[simp] theorem State.levelEntry_stores (d : Nat) : (s.levelEntry d).stores = s.stores := by
  simp only [State.levelEntry]
  split <;> simp

@[simp] theorem State.grantOne_stores (d : Nat) : (s.grantOne d).stores = s.stores := rfl

@[simp] theorem State.grantInstant_stores : s.grantInstant.stores = s.stores := by
  simp only [State.grantInstant]
  split
  · rfl
  · exact foldl_stores State.grantOne_stores _ _

@[simp] theorem State.deepGrant_stores (die : Nat) : (s.deepGrant die).stores = s.stores := by
  simp only [State.deepGrant]
  repeat' split
  all_goals rfl

@[simp] theorem State.applyHeld_stores (c : Nat) : (s.applyHeld c).stores = s.stores := by
  simp only [State.applyHeld]
  rw [foldl_stores fun t a => t.setFlag_stores _ _ _, foldl_stores fun t a => t.setFlag_stores _ _ _]
  simp

@[simp] theorem State.courseRestart_stores (c : Nat) : (s.courseRestart c).stores = s.stores := by
  simp [State.courseRestart]

@[simp] theorem State.domainExit_stores (d : Nat) : (s.domainExit d).stores = s.stores := by
  simp [State.domainExit]

@[simp] theorem State.powerSample_stores (w : Nat) : (s.powerSample w).stores = s.stores := by
  simp [State.powerSample]

@[simp] theorem State.throttleTick_stores : s.throttleTick.stores = s.stores := by
  simp [State.throttleTick]

@[simp] theorem State.courseClock_stores (p : Nat) : (s.courseClock p).stores = s.stores := by
  simp only [State.courseClock]
  split
  · rfl
  · refine (foldl_stores (fun t a => ?_) _ _).trans rfl
    split <;> rfl

@[simp] theorem State.telemetry_stores (t : Telemetry) : (s.telemetry t).stores = s.stores := by
  simp [State.telemetry]

/-! ## Machine/Contexts.lean -/

@[simp] theorem State.emptyLatch_stores (r : Requester) : (s.emptyLatch r).stores = s.stores := rfl

@[simp] theorem State.hostWrites_stores (h : Nat) (a : W64) (bs : List Byte) (ro : Bool) :
    (s.hostWrites h a bs ro).stores = s.stores := by
  refine foldl_stores (fun t a => ?_) _ s
  simp

@[simp] theorem State.hostReads_stores (h : Nat) (a : W64) (n : Nat) : (s.hostReads h a n).stores = s.stores := by
  refine foldl_stores (fun t a => ?_) _ s
  simp

@[simp] theorem State.logAbort_stores (h : Nat) : (s.logAbort h).stores = s.stores := rfl

@[simp] theorem State.logFree_stores (h : Nat) (l : List Nat) : (s.logFree h l).stores = s.stores := by
  refine foldl_stores (fun t a => ?_) _ s
  simp

@[simp] theorem State.logLink_stores (h : Nat) : (s.logLink h).stores = s.stores := by
  simp [State.logLink]

@[simp] theorem State.logRead_stores (h : Nat) (r : HostResult) : (s.logRead h r).stores = s.stores := by
  simp only [State.logRead]
  split <;> simp

@[simp] theorem State.doorbell_stores (h n : Nat) (t : W32) : (s.doorbell h n t).stores = s.stores := by
  simp only [State.doorbell]
  split <;> simp

@[simp] theorem State.ctxReset_stores (n : Nat) : (s.ctxReset n).stores = s.stores := by
  simp only [State.ctxReset]
  repeat' split
  all_goals rfl

@[simp] theorem State.ctxCtrl_stores (h n : Nat) (v : W32) : (s.ctxCtrl h n v).stores = s.stores := by
  simp only [State.ctxCtrl]
  split <;> simp

@[simp] theorem State.cmdFault_stores (p n : Nat) (code : BitVec 8) (seq : W32) :
    (s.cmdFault p n code seq).stores = s.stores := rfl
@[simp] theorem State.cmdDone_stores (p n : Nat) : (s.cmdDone p n).stores = s.stores := rfl

@[simp] theorem State.takeCmd_stores (p n : Nat) : (s.takeCmd p n).stores = s.stores := by
  simp only [State.takeCmd]
  split <;> simp

@[simp] theorem State.holdCmds_stores (n : Nat) (cmds : List (List Byte)) : (s.holdCmds n cmds).stores = s.stores := rfl

@[simp] theorem State.ringFetch_stores (p : Nat) (cmds : List (List Byte)) :
    (s.ringFetch p cmds).stores = s.stores := by
  simp only [State.ringFetch]
  repeat' split
  all_goals simp

@[simp] theorem State.ringError_stores (p : Nat) (cause : RingCause) : (s.ringError p cause).stores = s.stores := by
  simp only [State.ringError]
  repeat' split
  all_goals simp

@[simp] theorem State.placeItem_stores (p n : Nat) (cmd : Held) : (s.placeItem p n cmd).stores = s.stores := by
  simp only [State.placeItem]
  repeat' split
  all_goals simp

@[simp] theorem State.itemCmd_stores (p : Nat) : (s.itemCmd p).stores = s.stores := by
  simp only [State.itemCmd]
  split <;> simp

@[simp] theorem State.hodRetry_stores (n : Nat) : (s.hodRetry n).stores = s.stores := by
  simp only [State.hodRetry]
  split <;> simp

@[simp] theorem State.fenceEnd_stores (n : Nat) : (s.fenceEnd n).stores = s.stores := by
  simp [State.fenceEnd]

@[simp] theorem State.startHostCopy_stores (h : Nat) (c : CopyCmd) : (s.startHostCopy h c).stores = s.stores := by
  simp [State.startHostCopy]

@[simp] theorem State.copyCmd_stores (p : Nat) : (s.copyCmd p).stores = s.stores := by
  simp only [State.copyCmd]
  repeat' split
  all_goals simp

@[simp] theorem State.completeCmd_stores (p : Nat) (cut : Option Nat) : (s.completeCmd p cut).stores = s.stores := by
  have hemit : ∀ l : List Out, (l.foldl State.emit s).stores = s.stores := fun l => foldl_stores State.emit_stores l s
  simp only [State.completeCmd]
  repeat' split
  all_goals simp [hemit]

@[simp] theorem State.slotOpen_stores (k : Nat) : (s.slotOpen k).stores = s.stores := by
  simp [State.slotOpen]

@[simp] theorem State.slotWait_stores (h k : Nat) (v : W64) : (s.slotWait h k v).stores = s.stores := by
  simp only [State.slotWait]
  split <;> simp

@[simp] theorem State.keyExpect_stores (h k : Nat) (v : W32) : (s.keyExpect h k v).stores = s.stores := by
  simp [State.keyExpect]

@[simp] theorem State.keyClear_stores (k : Nat) : (s.keyClear k).stores = s.stores := by
  simp [State.keyClear]

@[simp] theorem State.keyCtrl_stores (h k : Nat) (v : W32) : (s.keyCtrl h k v).stores = s.stores := by
  simp [State.keyCtrl]

@[simp] theorem State.oflFinish_stores (p w : Nat) : (s.oflFinish p w).stores = s.stores := by
  simp [State.oflFinish]

@[simp] theorem State.oflIssue_stores (p w : Nat) : (s.oflIssue p w).stores = s.stores := by
  simp only [State.oflIssue]
  split <;> simp

@[simp] theorem State.oflFire_stores (p w : Nat) : (s.oflFire p w).stores = s.stores := by
  simp [State.oflFire]

@[simp] theorem State.oflCtrl_stores (h p w : Nat) (v : W32) : (s.oflCtrl h p w v).stores = s.stores := by
  simp [State.oflCtrl]

/-! ## Machine/Link.lean -/

@[simp] theorem State.tailsPass_stores (d : Nat) (q : Packet) (bad : Bool) :
    (s.tailsPass d q bad).stores = s.stores := rfl
@[simp] theorem State.unsend_stores (k : Nat) (y : QPkt) : (s.unsend k y).stores = s.stores := rfl
@[simp] theorem State.abandon_stores (k : Nat) (y : QPkt) : (s.abandon k y).stores = s.stores := rfl

@[simp] theorem State.dropQueued_stores (q : Packet) (k : Nat) : (s.dropQueued q k).stores = s.stores := by
  simp only [State.dropQueued]
  split <;> rfl

@[simp] theorem State.dropPart_stores (d : Nat) (q : Packet) : (s.dropPart d q).stores = s.stores := by
  simp only [State.dropPart]
  rw [foldl_stores (fun t a => ?_)] <;> simp

@[simp] theorem State.dropIncoming_stores (p : Nat) (f : Port → Port) : (s.dropIncoming p f).stores = s.stores := by
  simp only [State.dropIncoming]
  split <;> simp

@[simp] theorem State.sendCtrl_stores (p : Nat) (o : Out) : (s.sendCtrl p o).stores = s.stores := by
  simp [State.sendCtrl]

@[simp] theorem State.streamIdle_stores (p : Nat) : (s.streamIdle p).stores = s.stores := by
  simp [State.streamIdle]

@[simp] theorem State.portDrop_stores (p : Nat) : (s.portDrop p).stores = s.stores := by
  simp [State.portDrop]

@[simp] theorem State.portDown_stores (p : Nat) : (s.portDown p).stores = s.stores := by
  simp [State.portDown]

@[simp] theorem State.startTraining_stores (p : Nat) : (s.startTraining p).stores = s.stores := by
  simp [State.startTraining]

@[simp] theorem State.portRetrain_stores (p : Nat) : (s.portRetrain p).stores = s.stores := by
  simp [State.portRetrain]

@[simp] theorem State.sendNak_stores (p : Nat) : (s.sendNak p).stores = s.stores := by
  simp [State.sendNak]

@[simp] theorem State.nak_stores (p : Nat) (seq : BitVec 10) : (s.nak p seq).stores = s.stores := by
  simp [State.nak]

@[simp] theorem State.nakLimit_stores (p : Nat) : (s.nakLimit p).stores = s.stores := by
  simp [State.nakLimit]

@[simp] theorem State.credit_stores (p : Nat) (counts : List (BitVec 16)) (a : BitVec 10) :
    (s.credit p counts a).stores = s.stores := by
  simp only [State.credit]
  split <;> rfl

@[simp] theorem State.creditSend_stores (p : Nat) : (s.creditSend p).stores = s.stores := by
  simp only [State.creditSend]
  split <;> simp

@[simp] theorem State.freezeTrigger_stores (f : Frz → Frz) : (s.freezeTrigger f).stores = s.stores := by
  simp [State.freezeTrigger]

@[simp] theorem State.idleFlit_stores (p : Nat) (hb : W32) (freeze frozen : Bool) :
    (s.idleFlit p hb freeze frozen).stores = s.stores := by
  simp [State.idleFlit]

@[simp] theorem State.heartbeat_stores : s.heartbeat.stores = s.stores := by
  simp only [State.heartbeat]
  split
  · rfl
  · refine (foldl_stores (fun t a => ?_) _ _).trans (by simp)
    split <;> simp

@[simp] theorem State.hbMissing_stores (p : Nat) : (s.hbMissing p).stores = s.stores := by
  simp [State.hbMissing]

@[simp] theorem State.linkSilence_stores (p : Nat) : (s.linkSilence p).stores = s.stores := by
  simp [State.linkSilence]

@[simp] theorem State.trainingFails_stores (p : Nat) : (s.trainingFails p).stores = s.stores := by
  simp [State.trainingFails]

@[simp] theorem State.portTrained_stores (p : Nat) (half : Bool) : (s.portTrained p half).stores = s.stores := by
  simp [State.portTrained]

@[simp] theorem State.signalDetect_stores (p : Nat) : (s.signalDetect p).stores = s.stores := by
  simp [State.signalDetect]

@[simp] theorem State.nbrDead_stores (p : Nat) : (s.nbrDead p).stores = s.stores := by
  simp [State.nbrDead]

@[simp] theorem State.nbrTraining_stores (p : Nat) : (s.nbrTraining p).stores = s.stores := by
  simp [State.nbrTraining]

@[simp] theorem State.frozenHold_stores (p : Nat) : (s.frozenHold p).stores = s.stores := by
  simp [State.frozenHold]

@[simp] theorem State.lnkCtrl_stores (h p : Nat) (v : W32) : (s.lnkCtrl h p v).stores = s.stores := by
  simp [State.lnkCtrl]

@[simp] theorem State.lightLoss_stores (b : Nat) : (s.lightLoss b).stores = s.stores := by
  simp only [State.lightLoss]
  split
  · rfl
  · refine (foldl_stores (fun t a => ?_) _ _).trans rfl
    split <;> simp

@[simp] theorem State.lightReturn_stores (b : Nat) : (s.lightReturn b).stores = s.stores := by
  simp only [State.lightReturn]
  split
  · rfl
  · refine (foldl_stores (fun t a => ?_) _ _).trans rfl
    repeat' split
    all_goals simp

@[simp] theorem State.laserUnit_stores (b : Nat) (seated : Bool) : (s.laserUnit b seated).stores = s.stores := by
  simp only [State.laserUnit]
  split <;> rfl

/-! ## Machine/Router.lean -/

@[simp] theorem State.sendStart_stores (p : Nat) : (s.sendStart p).stores = s.stores := by
  simp only [State.sendStart]
  repeat' split
  all_goals rfl

@[simp] theorem State.headPort_stores (d k : Nat) (p : Packet) : (s.headPort d k p).stores = s.stores := by
  simp [State.headPort]

@[simp] theorem State.headMortar_stores (d : Nat) (p : Packet) : (s.headMortar d p).stores = s.stores := by
  simp only [State.headMortar]
  repeat' split
  all_goals simp

@[simp] theorem State.wholeQueued_stores (q : Packet) (k : Nat) : (s.wholeQueued q k).stores = s.stores := by
  simp [State.wholeQueued]

@[simp] theorem State.wholePart_stores (d : Nat) (q : Packet) : (s.wholePart d q).stores = s.stores := by
  simp only [State.wholePart]
  rw [foldl_stores (fun t a => ?_)] <;> simp

@[simp] theorem State.trailerMortar_stores (d : Nat) (p : Packet) : (s.trailerMortar d p).stores = s.stores := by
  simp only [State.trailerMortar]
  split <;> simp

@[simp] theorem State.trailer_stores (d : Nat) (a : Arrival) (p : Packet) : (s.trailer d a p).stores = s.stores := by
  simp only [State.trailer]
  repeat' split
  all_goals simp

@[simp] theorem State.stallTimeout_stores (k : Nat) (p : Packet) : (s.stallTimeout k p).stores = s.stores := by
  simp only [State.stallTimeout]
  repeat' split
  all_goals simp

@[simp] theorem State.packetAged_stores (d : Nat) (p : Packet) : (s.packetAged d p).stores = s.stores := by
  simp only [State.packetAged]
  repeat' split
  all_goals simp

/-! ## Machine/Deliver.lean -/

@[simp] theorem State.setRecv_stores (x : RecvFlow) : (s.setRecv x).stores = s.stores := by
  simp [State.setRecv]

theorem State.recvRoom_stores (d : Nat) {t : State} (h : t ∈ s.recvRoom d) : t.stores = s.stores := by
  simp only [State.recvRoom] at h
  split at h
  · cases h; rfl
  · split at h
    · cases h
    · cases h; rfl

@[simp] theorem State.sendAck_stores (r : RecvFlow) : (s.sendAck r).stores = s.stores := by
  simp [State.sendAck]

theorem State.accept_stores_act (d : Nat) (p : Packet) (old : Option RecvFlow) (act : State → State × Nat) :
    (s.accept d p old act).stores = (act s).1.stores := by
  simp only [State.accept]
  split_ifs <;> simp

/-- What `State.receive` leaves in the stores is what was there, or what the packet's action leaves. -/
theorem State.receive_stores_act (d : Nat) (p : Packet) (act : State → State × Nat) :
    (s.receive d p act).stores = s.stores ∨
      ∃ t : State, t.stores = s.stores ∧ (s.receive d p act).stores = (act t).1.stores := by
  have hdup : ∀ r : RecvFlow, ((s.modCtr d fun c => { c with dup := satAdd 64 c.dup 1 }).sendAck r).stores = s.stores :=
    fun r => by simp
  simp only [State.receive]
  split
  · split
    · split
      · exact .inl rfl
      · next t ht => exact .inr ⟨t, s.recvRoom_stores d ht, State.accept_stores_act ..⟩
    · exact .inl rfl
  · split_ifs
    · exact .inl (hdup _)
    · exact .inr ⟨s, rfl, State.accept_stores_act ..⟩
    · exact .inr ⟨s, rfl, State.accept_stores_act ..⟩
    · exact .inl (hdup _)
    · exact .inl rfl

@[simp] theorem State.dropLocal_stores (l : LocalPkt) : (s.dropLocal l).stores = s.stores := rfl

theorem State.deliverLocal_stores_act (l : LocalPkt) (act : State → State × Nat) :
    (s.deliverLocal l act).stores = (act s).1.stores := by
  simp only [State.deliverLocal]
  split_ifs <;> simp

@[simp] theorem State.deliverLocal_stores (l : LocalPkt) {act : State → State × Nat}
    (hact : ∀ t, (act t).1.stores = t.stores) : (s.deliverLocal l act).stores = s.stores :=
  (State.deliverLocal_stores_act ..).trans (hact s)

@[simp] theorem State.dropArrived_stores (a : Arrived) : (s.dropArrived a).stores = s.stores := rfl

/-- What `State.deliver` leaves in the stores is what was there, or what the packet's action leaves. -/
theorem State.deliver_stores_act (d : Nat) (p : Packet) (opc : BitVec 8) (act : State → State × Nat) :
    (s.deliver d p opc act).stores = s.stores ∨
      ∃ t : State, t.stores = s.stores ∧ (s.deliver d p opc act).stores = (act t).1.stores := by
  have hreceive : ∀ a, ((s.dropArrived a).receive d p act).stores = s.stores ∨
      ∃ t : State, t.stores = s.stores ∧ ((s.dropArrived a).receive d p act).stores = (act t).1.stores := fun a => by
    rcases (s.dropArrived a).receive_stores_act d p act with h | ⟨t, ht, h⟩
    · exact .inl (h.trans (by simp))
    · exact .inr ⟨t, ht.trans (by simp), h⟩
  simp only [State.deliver]
  split_ifs
  · exact .inl rfl
  · split
    · split_ifs
      · exact .inr ⟨s, rfl, State.deliverLocal_stores_act ..⟩
      · exact .inl rfl
      · split
        · exact .inl rfl
        · exact hreceive _
    · split
      · exact .inl rfl
      · exact hreceive _

@[simp] theorem State.deliver_stores (d : Nat) (p : Packet) (opc : BitVec 8) {act : State → State × Nat}
    (hact : ∀ t, (act t).1.stores = t.stores) : (s.deliver d p opc act).stores = s.stores := by
  rcases s.deliver_stores_act d p opc act with h | ⟨t, ht, h⟩
  · exact h
  · exact h.trans ((hact t).trans ht)

theorem State.takeDatagram_stores (d : Nat) (p : Packet) (opc : BitVec 8) {t : State} (h : t ∈ s.takeDatagram d p opc) :
    t.stores = s.stores := by
  have harrived : ∀ x : Option Arrived, t ∈ x.map s.dropArrived → t.stores = s.stores := fun x hx => by
    obtain ⟨a, -, rfl⟩ := Option.mem_map.1 hx
    simp
  simp only [State.takeDatagram] at h
  split at h
  · cases h
  · split at h
    · split at h
      · cases h; simp
      · exact harrived _ h
    · exact harrived _ h

/-- R272: a request that passes its checks has its action; any other leaves the state. -/
theorem State.request_cases (p : Packet) (n : Nat) (wr bare plan : Bool) (go : State → Option Loc → State) :
    (s.request p n wr bare plan go).1 = s ∨ ∃ l, (s.request p n wr bare plan go).1 = go s l := by
  simp only [State.request]
  split
  · exact .inl rfl
  · exact .inr ⟨_, rfl⟩

@[simp] theorem State.request_stores (p : Packet) (n : Nat) (wr bare plan : Bool) {go : State → Option Loc → State}
    (hgo : ∀ t l, (go t l).stores = t.stores) : (s.request p n wr bare plan go).1.stores = s.stores := by
  rcases s.request_cases p n wr bare plan go with h | ⟨l, h⟩
  · rw [h]
  · rw [h, hgo]

@[simp] theorem State.raise_stores (p : Packet) (v : W32) : (s.raise p v).stores = s.stores := by
  simp [State.raise]

@[simp] theorem State.flagAct_stores (p : Packet) : (State.flagAct p s).1.stores = s.stores := by
  simp [State.flagAct]

@[simp] theorem State.readAct_stores (d : Nat) (p : Packet) : (State.readAct d p s).1.stores = s.stores := by
  refine s.request_stores _ _ _ _ _ fun t l => ?_
  cases l <;> simp

@[simp] theorem State.ueAct_stores (p : Packet) (pier loc : Nat) : (State.ueAct p pier loc s).1.stores = s.stores := by
  simp only [State.ueAct]
  split <;> rfl

@[simp] theorem State.ackArrives_stores (d : Nat) (p : Packet) : (s.ackArrives d p).stores = s.stores := by
  simp only [State.ackArrives]
  split
  · rfl
  · next t ht => exact (t.acked_stores ..).trans (s.takeDatagram_stores _ _ _ ht)

@[simp] theorem State.refusedArrives_stores (p : Packet) : (s.refusedArrives p).stores = s.stores := by
  simp only [State.refusedArrives]
  split <;> simp

@[simp] theorem State.responseArrives_stores (d : Nat) (p : Packet) : (s.responseArrives d p).stores = s.stores := by
  simp only [State.responseArrives]
  split
  · split
    · rfl
    · next t ht => exact (t.refusedArrives_stores ..).trans (s.takeDatagram_stores _ _ _ ht)
  · simp

@[simp] theorem State.ackDue_stores (d : Nat) (id : FlowId) : (s.ackDue d id).stores = s.stores := by
  simp only [State.ackDue]
  repeat' split
  all_goals simp

@[simp] theorem State.retransmit_stores (id : FlowId) : (s.retransmit id).stores = s.stores := by
  simp only [State.retransmit]
  repeat' split
  all_goals simp

@[simp] theorem State.transportGiveUp_stores (id : FlowId) : (s.transportGiveUp id).stores = s.stores := by
  simp only [State.transportGiveUp]
  repeat' split
  all_goals simp

@[simp] theorem State.backoffEnd_stores (id : FlowId) : (s.backoffEnd id).stores = s.stores := by
  simp only [State.backoffEnd]
  repeat' split
  all_goals simp

@[simp] theorem State.refusalGiveUp_stores (id : FlowId) : (s.refusalGiveUp id).stores = s.stores := by
  simp only [State.refusalGiveUp]
  repeat' split
  all_goals simp

@[simp] theorem State.fenceRelease_stores (id : FlowId) : (s.fenceRelease id).stores = s.stores := by
  simp only [State.fenceRelease]
  repeat' split
  · rfl
  · rfl
  · rfl
  · rfl
  · exact foldl_stores (fun t v => t.routeAt_stores _ _ _ _ _ _) _ _

@[simp] theorem State.flowClose_stores (id : FlowId) : (s.flowClose id).stores = s.stores := by
  simp only [State.flowClose]
  repeat' split
  all_goals rfl

@[simp] theorem State.echo_stores (d : Nat) (p : Packet) : (s.echo d p).stores = s.stores := by
  simp only [State.echo]
  split
  · rfl
  · next t ht => exact (t.send_stores ..).trans (s.takeDatagram_stores _ _ _ ht)

@[simp] theorem State.readArrives_stores (d : Nat) (p : Packet) : (s.readArrives d p).stores = s.stores := by
  simp only [State.readArrives]
  repeat' split
  all_goals simp

/-! ## Machine/Epoch.lean -/

@[simp] theorem State.adopt_stores : s.adopt.stores = s.stores := by
  simp only [State.adopt]
  split <;> simp

@[simp] theorem State.flip_stores (h : Nat) : (s.flip h).stores = s.stores := by
  simp [State.flip]

@[simp] theorem State.release_stores (h : Nat) : (s.release h).stores = s.stores := by
  simp [State.release]

@[simp] theorem State.rteLookup_stores (h : Nat) (v : W32) : (s.rteLookup h v).stores = s.stores := by
  simp [State.rteLookup]

/-! ## Machine/Images.lean -/

@[simp] theorem State.applySchedule_stores (b : List Byte) : (s.applySchedule b).stores = s.stores := by
  unfold State.applySchedule
  dsimp only
  rw [foldl_stores fun t e => t.modEng_stores _ _, foldl_stores fun t k => t.modKey_stores _ _,
    foldl_stores fun t k => t.setMslot_stores _ _, foldl_stores fun t n => t.setCtx_stores _ _]

/-! ## Machine/Cast.lean -/

@[simp] theorem State.castMsg_stores (d dest : Nat) (opc : BitVec 8) (addr : BitVec 48) (arg : Nat) (bs : List Byte)
    (op : OpRef) (src : Option Loc) :
    (s.castMsg d dest opc addr arg bs op src).stores = s.stores := by
  simp [State.castMsg]

@[simp] theorem State.castStream_stores (d dest : Nat) (opc : BitVec 8) (a : Nat) (bs : List Byte) (op : OpRef)
    (src : Option Loc) :
    (s.castStream d dest opc a bs op src).stores = s.stores := by
  refine foldl_stores (fun t a => ?_) _ s
  simp

@[simp] theorem State.castRefuse_stores (code : BitVec 8) : (s.castRefuse code).stores = s.stores := rfl

@[simp] theorem State.castStart_stores (h : Nat) : (s.castStart h).stores = s.stores := by
  simp [State.castStart]

@[simp] theorem State.castHead_stores : s.castHead.stores = s.stores := by
  simp only [State.castHead]
  split <;> simp

@[simp] theorem State.castChunk_stores (i : Nat) : (s.castChunk i).stores = s.stores := by
  simp only [State.castChunk]
  split <;> simp

@[simp] theorem State.castAbort_stores (h : Nat) : (s.castAbort h).stores = s.stores := by
  simp [State.castAbort]

@[simp] theorem State.countPages_stores (r : Region) (a n : Nat) : (s.countPages r a n).stores = s.stores := by
  refine foldl_stores (fun t a => ?_) _ s
  simp

@[simp] theorem State.noteHalves_stores : s.noteHalves.stores = s.stores := rfl

@[simp] theorem State.rootRead_stores (a : Nat) : (s.rootRead a).2.stores = s.stores := by
  simp [State.rootRead]

@[simp] theorem State.streamSend_stores (d dest : Nat) (l : List (Nat × Nat × Nat × Nat)) (left : Nat) :
    (State.streamSend d dest l left s).stores = s.stores := by
  induction l generalizing s left with
  | nil => rfl
  | cons x l ih =>
    simp only [State.streamSend]
    split
    · rfl
    · exact (ih ..).trans (by simp)

@[simp] theorem State.serveRestore_stores (d : Nat) (p : Packet) (cut : List (Loc × Nat) → Option Nat) :
    (s.serveRestore d p cut).1.stores = s.stores := by
  simp only [State.serveRestore]
  repeat' split
  all_goals simp

@[simp] theorem State.restoreReqAct_stores (d : Nat) (p : Packet) :
    (State.restoreReqAct d p s).1.stores = s.stores := by
  simp [State.restoreReqAct]

@[simp] theorem State.restoreReqUe_stores (d : Nat) (p : Packet) (pier loc : Nat) :
    (State.restoreReqUe d p pier loc s).1.stores = s.stores := by
  simp [State.restoreReqUe]

@[simp] theorem State.restoreAsk_stores (r : Restoring) (fallback : Bool) :
    (s.restoreAsk r fallback).stores = s.stores := by
  simp [State.restoreAsk]

@[simp] theorem State.restoreStart_stores (h : Nat) : (s.restoreStart h).stores = s.stores := by
  simp [State.restoreStart]

@[simp] theorem State.attemptFail_stores : s.attemptFail.stores = s.stores := by
  simp only [State.attemptFail]
  split <;> simp

@[simp] theorem State.setRestoring_stores (r : Restoring) : (s.setRestoring r).stores = s.stores := rfl

@[simp] theorem State.checkMeta_stores (r : Restoring) : (s.checkMeta r).stores = s.stores := by
  simp [State.checkMeta]

@[simp] theorem State.restoreMetaAct_stores (p : Packet) : (State.restoreMetaAct p s).1.stores = s.stores := by
  simp only [State.restoreMetaAct]
  repeat' split
  all_goals simp

@[simp] theorem State.restoreEndAct_stores (p : Packet) : (State.restoreEndAct p s).1.stores = s.stores := by
  simp only [State.restoreEndAct]
  repeat' split
  all_goals simp

@[simp] theorem State.chunkDigest_stores (i : Nat) : (s.chunkDigest i).stores = s.stores := by
  simp only [State.chunkDigest]
  repeat' split
  all_goals simp

@[simp] theorem State.restoreApply_stores : s.restoreApply.stores = s.stores := by
  unfold State.restoreApply
  split
  · rfl
  · split
    · rfl
    · simp only [State.stores_mk, State.stores_eq, State.applySchedule_stores]

/-! ## Machine/Faults.lean -/

@[simp] theorem State.ringUe_stores (q p loc : Nat) : (s.ringUe q p loc).stores = s.stores := by
  simp only [State.ringUe]
  repeat' split
  all_goals rfl

@[simp] theorem State.netUe_stores (e i p loc : Nat) : (s.netUe e i p loc).stores = s.stores := by
  simp only [State.netUe]
  split <;> simp

@[simp] theorem State.castHeldUe_stores (p : Packet) (pier loc : Nat) :
    (State.castHeldUe p pier loc s).1.stores = s.stores := by
  simp only [State.castHeldUe]
  split <;> simp

@[simp] theorem State.remoteUe_stores (d : Nat) (q : Packet) (p loc : Nat) :
    (s.remoteUe d q p loc).stores = s.stores := by
  simp only [State.remoteUe]
  split <;> simp

@[simp] theorem State.engineCsUe_stores (e : Nat) (fetch : Bool) : (s.engineCsUe e fetch).stores = s.stores := by
  simp only [State.engineCsUe]
  repeat' split
  all_goals simp

@[simp] theorem State.seekCsUe_stores (e : Nat) : (s.seekCsUe e).stores = s.stores := by
  simp only [State.seekCsUe]
  repeat' split
  all_goals rfl

@[simp] theorem State.resumeCsUe_stores (e : Nat) : (s.resumeCsUe e).stores = s.stores := by
  simp [State.resumeCsUe]

@[simp] theorem State.netAtWord_stores (e i : Nat) (w : Loc) (code : BitVec 8) (addr : W64) :
    (s.netAtWord e i w code addr).stores = s.stores := by
  simp only [State.netAtWord]
  split <;> simp

@[simp] theorem State.retireMet_stores (e : Nat) : (s.retireMet e).stores = s.stores := by
  simp [State.retireMet]

@[simp] theorem State.takeover_stores (e : Nat) (lost : Bool) : (s.takeover e lost).stores = s.stores := by
  simp only [State.takeover]
  repeat' split
  all_goals simp

/-! ## Machine/Report.lean -/

@[simp] theorem State.setChan_stores (h : Nat) (secure : Bool) (n : Nat) (x : Chan) :
    (s.setChan h secure n x).stores = s.stores := by
  simp [State.setChan]

@[simp] theorem State.modChan_stores (h : Nat) (secure : Bool) (n : Nat) (f : Chan → Chan) :
    (s.modChan h secure n f).stores = s.stores := rfl
@[simp] theorem State.clearChan_stores (h : Nat) (secure : Bool) (n : Nat) :
    (s.clearChan h secure n).stores = s.stores := rfl

@[simp] theorem State.postMessage_stores (h : Nat) (secure : Bool) (n opc tag : Nat) (ws : List Nat) :
    (s.postMessage h secure n opc tag ws).stores = s.stores := by
  simp [State.postMessage]

@[simp] theorem State.reply_stores (h : Nat) (secure : Bool) (ch status : Nat) (ws : List Nat) :
    (s.reply h secure ch status ws).stores = s.stores := rfl

@[simp] theorem State.lateReply_stores (o : MbOp) (secure : Bool) (status : Nat) (ws : List Nat) :
    (s.lateReply o secure status ws).stores = s.stores := by
  simp [State.lateReply]

@[simp] theorem State.updateRead_stores : s.updateRead.stores = s.stores := by
  simp only [State.updateRead]
  split <;> simp

@[simp] theorem State.updateSlot_stores (u : FwOp) : (s.updateSlot u).stores = s.stores := by
  simp [State.updateSlot]

@[simp] theorem State.updateReply_stores (u : FwOp) (k : Nat) : (s.updateReply u k).stores = s.stores := by
  simp [State.updateReply]

@[simp] theorem State.appendRecord_stores (stage result start : Nat) (post : Bool) (detail : List Nat) :
    (s.appendRecord stage result start post detail).stores = s.stores := by
  simp only [State.appendRecord]
  split
  · simp
  · refine (foldl_stores (fun t a => ?_) _ _).trans (by simp)
    split <;> simp

@[simp] theorem State.stageRecord_stores (stage result : Nat) (detail : List Nat) :
    (s.stageRecord stage result detail).stores = s.stores := by
  simp [State.stageRecord]

@[simp] theorem State.beginStage_stores (stage : Nat) (st : BuState) : (s.beginStage stage st).stores = s.stores := rfl

@[simp] theorem State.stageFail_stores (stage result : Nat) (detail : List Nat) :
    (s.stageFail stage result detail).stores = s.stores := by
  simp [State.stageFail]

/-! ## Machine/Resets.lean -/

@[simp] theorem State.partResetStart_stores (p : Nat) : (s.partResetStart p).stores = s.stores := by
  simp [State.partResetStart]

@[simp] theorem State.ckpPartReset_stores (h : Nat) (v : W32) : (s.ckpPartReset h v).stores = s.stores := by
  simp only [State.ckpPartReset]
  split
  · rfl
  · refine (foldl_stores (fun t a => ?_) _ _).trans rfl
    split <;> simp

@[simp] theorem State.partResetDone_stores (p : Nat) : (s.partResetDone p).stores = s.stores := by
  simp only [State.partResetDone]
  split
  · rfl
  · rw [State.modPart_stores, State.clearChan_stores, foldl_stores fun t k => ?_]
    · simp
    · split <;> simp

@[simp] theorem State.coldStart_stores : s.coldStart.stores = s.stores := by
  simp [State.coldStart]

@[simp] theorem State.ckpModReset_stores (r : Requester) (v : W32) : (s.ckpModReset r v).stores = s.stores := by
  simp [State.ckpModReset]

/-! ## Machine/Freeze.lean -/

@[simp] theorem State.frzCtrl_stores (r : Requester) (v : W32) : (s.frzCtrl r v).stores = s.stores := by
  simp [State.frzCtrl]

@[simp] theorem State.frzPin_stores : s.frzPin.stores = s.stores := by
  simp [State.frzPin]

@[simp] theorem State.freezePort_stores (wave : Bool) (p : Nat) : (s.freezePort wave p).stores = s.stores := by
  simp only [State.freezePort]
  split
  · rfl
  · rw [State.emit_stores, State.modPort_stores, foldl_stores fun t y => ?_]
    simp

@[simp] theorem State.freeze_stores : s.freeze.stores = s.stores := by
  unfold State.freeze
  split
  · rfl
  · simp only [State.stores_mk, State.stores_eq]
    exact foldl_stores (fun t p => t.freezePort_stores _ p) _ s

@[simp] theorem State.dbgStart_stores : s.dbgStart.stores = s.stores := by
  simp only [State.dbgStart]
  split <;> simp

@[simp] theorem State.dbgCtrl_stores (r : Requester) (v : W32) : (s.dbgCtrl r v).stores = s.stores := by
  simp [State.dbgCtrl]

@[simp] theorem State.dbgDone_stores (ue : Bool) : (s.dbgDone ue).stores = s.stores := by
  simp only [State.dbgDone]
  repeat' split
  all_goals rfl

@[simp] theorem State.dbgReq_stores (dr : BitVec 72) : (s.dbgReq dr).stores = s.stores := by
  simp [State.dbgReq]

@[simp] theorem State.dbgData_stores : s.dbgData.stores = s.stores := by
  simp [State.dbgData]

@[simp] theorem State.jtagBypass_stores : s.jtagBypass.stores = s.stores := by
  simp [State.jtagBypass]

@[simp] theorem State.boundary_stores (ir : BitVec 8) (drive : Bool) (pins shifted : BitVec 16) :
    (s.boundary ir drive pins shifted).stores = s.stores := by
  simp [State.boundary]

/-! ## Machine/Records.lean -/

@[simp] theorem State.closeKeySessions_stores (k : Nat) : (s.closeKeySessions k).stores = s.stores := by
  simp [State.closeKeySessions]

@[simp] theorem State.fillKey_stores (b : List Byte) : (s.fillKey b).stores = s.stores := by
  simp [State.fillKey]

@[simp] theorem State.fillKeys_stores : s.fillKeys.stores = s.stores := by
  refine foldl_stores (fun t a => ?_) _ s
  simp

theorem State.installRecord_stores (b : List Byte) {t : State} (h : s.installRecord b = some t) :
    t.stores = s.stores := by
  unfold State.installRecord at h
  dsimp only at h
  split at h
  · cases h
  · split at h
    · cases h
    · split at h
      · rw [← Option.some.inj h]
        rfl
      · rw [← Option.some.inj h]
        split <;> simp

@[simp] theorem State.repairWrite_stores (verified : Bool) : (s.repairWrite verified).stores = s.stores := by
  simp only [State.repairWrite]
  repeat' split
  all_goals rfl

/-! ## Machine/Bond.lean -/

@[simp] theorem State.setBondPort_stores (h : Nat) (x : BondPort) : (s.setBondPort h x).stores = s.stores := rfl
@[simp] theorem State.bondState_stores (h : Nat) (st : BondState) : (s.bondState h st).stores = s.stores := rfl
@[simp] theorem State.refuse_stores (h : Nat) (f : Fail) : (s.refuse h f).stores = s.stores := rfl
@[simp] theorem State.refuseCode_stores (h code : Nat) : (s.refuseCode h code).stores = s.stores := rfl

@[simp] theorem State.bondRead_stores (h : Nat) : (s.bondRead h).stores = s.stores := by
  simp [State.bondRead]

@[simp] theorem State.bondGo_stores (h : Nat) : (s.bondGo h).stores = s.stores := by
  simp [State.bondGo]

@[simp] theorem State.startBu8_stores : s.startBu8.stores = s.stores := by
  simp [State.startBu8]

@[simp] theorem State.rerun_stores (h : Nat) : (s.rerun h).stores = s.stores := by
  simp [State.rerun]

@[simp] theorem State.markLoading_stores (l : List Sect) (was now : Half) :
    (s.markLoading l was now).stores = s.stores := by
  refine foldl_stores (fun t a => ?_) _ s
  simp

@[simp] theorem State.bondApplied_stores (img meas : List Byte) : (s.bondApplied img meas).stores = s.stores := rfl
@[simp] theorem State.loadHalf_stores (i : Nat) (t : Tab W32) : (s.loadHalf i t).stores = s.stores := rfl

@[simp] theorem State.applySections_stores (l : List Sect) : (s.applySections l).stores = s.stores := by
  simp only [State.applySections]
  rw [foldl_stores fun t x => ?_]
  · refine (foldl_stores (fun t x => t.loadHalf_stores _ _) _ _).trans ?_
    split <;> rfl
  · simp

@[simp] theorem State.applyPartial_stores (h : Nat) : (s.applyPartial h).stores = s.stores := by
  simp only [State.applyPartial]
  repeat' split
  all_goals simp

@[simp] theorem State.enableEngines_stores : s.enableEngines.stores = s.stores := by
  refine foldl_stores (fun t a => ?_) _ s
  simp

@[simp] theorem State.enableCourses_stores : s.enableCourses.stores = s.stores := by
  refine foldl_stores (fun t a => ?_) _ s
  simp

@[simp] theorem State.assignKeys_stores (l : List Sect) : (s.assignKeys l).stores = s.stores := by
  refine foldl_stores (fun t a => ?_) _ s
  simp

@[simp] theorem State.applyFull_stores (l : List Sect) : (s.applyFull l).stores = s.stores := by
  unfold State.applyFull
  dsimp only
  rw [State.stores_mk, State.stores_eq, State.noteHalves_stores, State.setHalf_stores, State.setHalf_stores,
    State.modRte_stores, foldl_stores fun t i => t.loadHalf_stores _ _, State.assignKeys_stores, State.stores_mk,
    State.stores_eq, State.enableCourses_stores, State.enableEngines_stores, State.stores_mk, State.stores_eq]

/-! ## Machine/Discovery.lean -/

@[simp] theorem State.helloSend_stores (p : Nat) : (s.helloSend p).stores = s.stores := by
  simp [State.helloSend]

@[simp] theorem State.takeCoord_stores (coord ring : Nat) : (s.takeCoord coord ring).stores = s.stores := by
  simp [State.takeCoord]

@[simp] theorem State.noteConflict_stores (kind port : Nat) : (s.noteConflict kind port).stores = s.stores := by
  simp [State.noteConflict]

@[simp] theorem State.helloCoord_stores (p : Nat) (h : Hello) : (s.helloCoord p h).stores = s.stores := by
  simp [State.helloCoord]

@[simp] theorem State.enterTest_stores (p ms : Nat) : (s.enterTest p ms).stores = s.stores := by
  simp [State.enterTest]

@[simp] theorem State.helloSoak_stores (p : Nat) (h : Hello) : (s.helloSoak p h).stores = s.stores := by
  simp only [State.helloSoak]
  repeat' split
  all_goals simp

@[simp] theorem State.hello_stores (p : Nat) (h : Hello) : (s.hello p h).stores = s.stores := by
  simp [State.hello]

@[simp] theorem State.flitIn_stores (p : Nat) (x : BitVec 2 × List Byte) : (s.flitIn p x).stores = s.stores := by
  simp only [State.flitIn]
  repeat' split
  all_goals simp

@[simp] theorem State.codeword_stores (p : Nat) (cw : Codeword) : (s.codeword p cw).stores = s.stores := by
  simp only [State.codeword]
  repeat' split
  · rfl
  · simp
  · rfl
  · exact foldl_stores (fun t f => t.flitIn_stores _ _) _ _

@[simp] theorem State.discOrigin_stores (h : Nat) : (s.discOrigin h).stores = s.stores := by
  simp [State.discOrigin]

@[simp] theorem State.discSkip_stores (h : Nat) : (s.discSkip h).stores = s.stores := by
  simp [State.discSkip]

/-! ## Machine/BringUp.lean -/

@[simp] theorem State.stagePass_stores (n result : Nat) (detail : List Nat) :
    (s.stagePass n result detail).stores = s.stores := by
  simp [State.stagePass]

@[simp] theorem State.startDom_stores (d : Nat) : (s.startDom d).stores = s.stores := rfl
@[simp] theorem State.holdDom_stores (d : Nat) : (s.holdDom d).stores = s.stores := rfl

@[simp] theorem State.bu1Units_stores (l0 l1 : Bool) : (s.bu1Units l0 l1).stores = s.stores := by
  simp only [State.bu1Units]
  rw [State.modHost_stores, State.modHost_stores, foldl_stores fun t p => t.modPort_stores _ _]
  exact foldl_stores (fun t d => t.startDom_stores d) _ s

@[simp] theorem State.bu1_stores (l0 l1 : Bool) : (s.bu1 l0 l1).stores = s.stores := by
  have hunits := s.bu1Units_stores l0 l1
  unfold State.bu1
  split
  · rfl
  · generalize s.bu1Units l0 l1 = u at hunits ⊢
    dsimp only
    split <;> simp [hunits]

@[simp] theorem State.bu2_stores (bits : Option (List Byte)) : (s.bu2 bits).stores = s.stores := by
  simp only [State.bu2]
  repeat' split
  all_goals simp

@[simp] theorem State.courseUp_stores (c : Nat) (bad : BitVec 34) (pass : Bool) :
    (s.courseUp c bad pass).stores = s.stores := by
  simp only [State.courseUp]
  split
  · rw [State.startDom_stores, foldl_stores fun t a => t.modEng_stores _ _, State.modCrs_stores]
  · rw [State.holdDom_stores, foldl_stores fun t a => t.modEng_stores _ _, State.modCrs_stores]

@[simp] theorem State.bu5_stores (links : BitVec 4) (lines : BitVec 16) : (s.bu5 links lines).stores = s.stores := by
  simp only [State.bu5]
  split
  · rfl
  · split
    · simp
    · refine (foldl_stores (fun t a => ?_) _ _).trans (by simp)
      split <;> simp

@[simp] theorem State.bu6_stores (up half : BitVec 10) : (s.bu6 up half).stores = s.stores := by
  simp only [State.bu6]
  split
  · rfl
  · rw [State.stagePass_stores, foldl_stores fun t p => ?_]
    split <;> simp

@[simp] theorem State.bu7_stores : s.bu7.stores = s.stores := by
  simp [State.bu7]

@[simp] theorem State.beginBu8_stores : s.beginBu8.stores = s.stores := by
  simp [State.beginBu8]

@[simp] theorem State.discoveryEnd_stores : s.discoveryEnd.stores = s.stores := by
  simp [State.discoveryEnd]

@[simp] theorem State.bu8Pass_stores : s.bu8Pass.stores = s.stores := by
  simp [State.bu8Pass]

@[simp] theorem State.bu8_stores : s.bu8.stores = s.stores := by
  simp only [State.bu8]
  repeat' split
  · rfl
  · simp
  · simp
  · refine (foldl_stores (fun t a => ?_) _ _).trans (by simp)
    split <;> simp

@[simp] theorem State.soakJudged_stores : s.soakJudged.stores = s.stores := by
  simp [State.soakJudged]

@[simp] theorem State.judge_stores (p : Nat) (joined : Bool) (bits errs post : Nat) :
    (s.judge p joined bits errs post).stores = s.stores := by
  simp [State.judge]

@[simp] theorem State.soakEnd_stores (p : Nat) (joined : Bool) (bits errs post : Nat) :
    (s.soakEnd p joined bits errs post).stores = s.stores := by
  simp [State.soakEnd]

@[simp] theorem State.bu9_stores : s.bu9.stores = s.stores := by
  unfold State.bu9
  split
  · rfl
  · split
    · rfl
    · dsimp only
      split
      · simp
      · rw [State.stores_mk, State.stores_eq, State.stageRecord_stores, State.bondState_stores,
          State.bondApplied_stores, State.applyFull_stores, State.stores_mk, State.stores_eq]

@[simp] theorem State.bu0Fail_stores : s.bu0Fail.stores = s.stores := rfl

@[simp] theorem State.stageTimeout_stores : s.stageTimeout.stores = s.stores := by
  simp [State.stageTimeout]

/-! ## Machine/PowerSeq.lean -/

@[simp] theorem State.drawOpen_stores : s.drawOpen.stores = s.stores := by
  refine foldl_stores (fun t a => ?_) _ s
  simp

@[simp] theorem State.stepUp_stores : s.stepUp.stores = s.stores := by
  simp [State.stepUp]

@[simp] theorem State.powerStep_stores : s.powerStep.stores = s.stores := by
  simp only [State.powerStep]
  split <;> simp

@[simp] theorem State.removeCore_stores (cause : Nat) : (s.removeCore cause).stores = s.stores := by
  simp [State.removeCore]

@[simp] theorem State.pwrFall_stores : s.pwrFall.stores = s.stores := by
  simp [State.pwrFall]

@[simp] theorem State.inputApply_stores : s.inputApply.stores = s.stores := by
  simp [State.inputApply]

@[simp] theorem State.cutUpdate_stores (h : Nat) : (s.cutUpdate h).stores = s.stores := by
  simp only [State.cutUpdate]
  split <;> simp

@[simp] theorem State.bondPerst_stores (h : Nat) : (s.bondPerst h).stores = s.stores := by
  simp [State.bondPerst]

@[simp] theorem State.mailboxPerst_stores (h : Nat) : (s.mailboxPerst h).stores = s.stores := by
  simp [State.mailboxPerst]

@[simp] theorem State.perstRelease_stores (h : Nat) : (s.perstRelease h).stores = s.stores := by
  simp [State.perstRelease]

@[simp] theorem State.hostResume_stores (h : Nat) : (s.hostResume h).stores = s.stores := by
  simp only [State.hostResume]
  rw [foldl_stores fun t p => ?_]
  · split
    · split <;> simp
    · simp
  · split
    · rfl
    · exact foldl_stores (fun u w => u.oflIssue_stores _ w) _ t

@[simp] theorem State.hostReady_stores (h : Nat) : (s.hostReady h).stores = s.stores := by
  simp [State.hostReady]

@[simp] theorem State.l1Exit_stores (h : Nat) : (s.l1Exit h).stores = s.stores := by
  simp [State.l1Exit]

/-! ## Machine/RegRead.lean -/

@[simp] theorem State.heldView_stores (a : Nat) : (s.heldView a).stores = s.stores := by
  simp only [State.heldView]
  split <;> simp

@[simp] theorem State.clearRc_stores (q a : Nat) : (s.clearRc q a).stores = s.stores := by
  simp [State.clearRc]

@[simp] theorem State.regRead_stores (q a size : Nat) : (s.regRead q a size).2.stores = s.stores := by
  simp only [State.regRead]
  repeat' split
  all_goals simp

/-! ## Machine/PcieSpace.lean -/

@[simp] theorem State.linkReport_stores (h o : Nat) : (s.linkReport h o).stores = s.stores := by
  simp only [State.linkReport]
  repeat' split
  all_goals simp

@[simp] theorem State.cfgRead_stores (h o size : Nat) : (s.cfgRead h o size).2.stores = s.stores := by
  simp only [State.cfgRead]
  split <;> simp

@[simp] theorem State.cfgWrite_stores (h o size v : Nat) : (s.cfgWrite h o size v).stores = s.stores := by
  simp [State.cfgWrite]

/-! ## Machine/RegWrite.lean -/

@[simp] theorem State.mbSend_stores (h : Nat) (secure : Bool) (ch : Nat) :
    (s.mbSend h secure ch).stores = s.stores := by
  simp [State.mbSend]

@[simp] theorem State.mbTake_stores (h : Nat) (secure : Bool) (ch : Nat) :
    (s.mbTake h secure ch).stores = s.stores := by
  simp [State.mbTake]

@[simp] theorem State.chanWrite_stores (h : Nat) (secure : Bool) (ch k : Nat) (v : W32) :
    (s.chanWrite h secure ch k v).stores = s.stores := by
  simp [State.chanWrite]

@[simp] theorem State.bar2Write_stores (h o size : Nat) (v : W64) : (s.bar2Write h o size v).stores = s.stores := by
  simp only [State.bar2Write]
  repeat' split
  all_goals simp

@[simp] theorem State.bar4BaseWrite_stores (h : Nat) (v : W64) : (s.bar4BaseWrite h v).stores = s.stores := by
  simp [State.bar4BaseWrite]

@[simp] theorem State.capWrite_stores (r : Requester) (v : W32) : (s.capWrite r v).stores = s.stores := by
  simp [State.capWrite]

@[simp] theorem State.discRegs_stores (h a : Nat) (v : W32) : (s.discRegs h a v).stores = s.stores := by
  simp [State.discRegs]

@[simp] theorem State.bondRegs_stores (h a : Nat) (v : W64) : (s.bondRegs h a v).stores = s.stores := by
  simp [State.bondRegs]

@[simp] theorem State.ctxRegs_stores (h n o : Nat) (v m : W64) : (s.ctxRegs h n o v m).stores = s.stores := by
  simp [State.ctxRegs]

@[simp] theorem State.slotRegs_stores (h k o : Nat) (v : W64) : (s.slotRegs h k o v).stores = s.stores := by
  simp [State.slotRegs]

@[simp] theorem State.keyRegs_stores (h k o : Nat) (v : W32) : (s.keyRegs h k o v).stores = s.stores := by
  simp [State.keyRegs]

@[simp] theorem State.oflRegs_stores (h p w o : Nat) (v : W64) : (s.oflRegs h p w o v).stores = s.stores := by
  simp [State.oflRegs]

@[simp] theorem State.engRegs_stores (h e o : Nat) (v : W64) : (s.engRegs h e o v).stores = s.stores := by
  simp [State.engRegs]

@[simp] theorem State.collRegs_stores (h p o : Nat) (v : W64) : (s.collRegs h p o v).stores = s.stores := by
  simp [State.collRegs]

@[simp] theorem State.rteRegs_stores (h a : Nat) (v m : W64) : (s.rteRegs h a v m).stores = s.stores := by
  simp [State.rteRegs]

@[simp] theorem State.lnkRegs_stores (h p o : Nat) (v : W32) : (s.lnkRegs h p o v).stores = s.stores := by
  simp [State.lnkRegs]

@[simp] theorem State.ckpRegs_stores (h a : Nat) (v : W64) : (s.ckpRegs h a v).stores = s.stores := by
  simp [State.ckpRegs]

@[simp] theorem State.sharedRegs_stores (r : Requester) (a : Nat) (v : W64) :
    (s.sharedRegs r a v).stores = s.stores := by
  simp [State.sharedRegs]

@[simp] theorem State.hostReg_stores (h b : Nat) (v m : W64) : (s.hostReg h b v m).stores = s.stores := by
  simp [State.hostReg]

@[simp] theorem State.putReg_stores (r : Requester) (b old : Nat) (v m : W64) :
    (s.putReg r b old v m).stores = s.stores := by
  simp only [State.putReg]
  split <;> simp

@[simp] theorem State.write32_stores (r : Requester) (a : Nat) (v : W32) : (s.write32 r a v).stores = s.stores := by
  simp only [State.write32]
  split <;> simp

@[simp] theorem State.bar0Write_stores (r : Requester) (a size : Nat) (v : W64) :
    (s.bar0Write r a size v).stores = s.stores := by
  simp only [State.bar0Write]
  repeat' split
  all_goals simp

@[simp] theorem State.portWrite_stores (h a size : Nat) (v : W64) : (s.portWrite h a size v).stores = s.stores := by
  simp [State.portWrite]

@[simp] theorem State.registerWrite_stores (r : Requester) (a size : Nat) (v : W64) :
    (s.registerWrite r a size v).stores = s.stores := by
  simp only [State.registerWrite]
  repeat' split
  all_goals simp

@[simp] theorem State.portRead_stores (h a size : Nat) : (s.portRead h a size).2.stores = s.stores := by
  simp only [State.portRead]
  split <;> simp

@[simp] theorem State.readAt_stores (r : Requester) (a size : Nat) : (s.readAt r a size).2.stores = s.stores := by
  simp only [State.readAt]
  repeat' split
  all_goals simp

@[simp] theorem State.hostRead_stores (r : Requester) (a size : Nat) : (s.hostRead r a size).stores = s.stores := by
  simp [State.hostRead]

@[simp] theorem State.bar4Refuse_stores (h : Nat) : (s.bar4Refuse h).stores = s.stores := rfl

@[simp] theorem State.bar4Read_stores (h off len : Nat) : (s.bar4Read h off len).stores = s.stores := by
  simp [State.bar4Read]

@[simp] theorem State.smbPoint_stores (count : Nat) (pecOk : Bool) (v : W32) :
    (s.smbPoint count pecOk v).stores = s.stores := by
  simp [State.smbPoint]

@[simp] theorem State.smbFetch_stores (pecOk : Bool) : (s.smbFetch pecOk).stores = s.stores := by
  simp [State.smbFetch]

@[simp] theorem State.smbStore_stores (count : Nat) (pecOk : Bool) (v : W32) :
    (s.smbStore count pecOk v).stores = s.stores := by
  simp [State.smbStore]

/-! ## Machine/Mailbox.lean -/

@[simp] theorem State.hold_stores (h : Nat) (secure : Bool) (ch : Nat) : (s.hold h secure ch).stores = s.stores := rfl

@[simp] theorem State.noteServed_stores (h : Nat) (secure : Bool) (ch : Nat) :
    (s.noteServed h secure ch).stores = s.stores := by
  simp [State.noteServed]

@[simp] theorem State.fragment_stores (h : Nat) (secure : Bool) (ch opc : Nat) (total : Option Nat)
    {f : State → List Byte → State} (hf : ∀ t b, (f t b).stores = t.stores) :
    (s.fragment h secure ch opc total f).stores = s.stores := by
  simp only [State.fragment]
  split
  · simp
  · simp [hf]

@[simp] theorem State.mbEcho_stores (h ch : Nat) : (s.mbEcho h ch).stores = s.stores := by
  simp [State.mbEcho]

@[simp] theorem State.mbPathEcho_stores (h ch : Nat) : (s.mbPathEcho h ch).stores = s.stores := by
  simp [State.mbPathEcho]

@[simp] theorem State.echoReply_stores (d : Nat) (p : Packet) : (s.echoReply d p).stores = s.stores := by
  simp only [State.echoReply]
  split
  · rfl
  · next t ht =>
    have h := s.takeDatagram_stores _ _ _ ht
    split
    · exact h
    · simpa using h

@[simp] theorem State.echoTimeout_stores (h ch : Nat) : (s.echoTimeout h ch).stores = s.stores := by
  simp only [State.echoTimeout]
  split <;> simp

@[simp] theorem State.mbAttest_stores (h ch : Nat) : (s.mbAttest h ch).stores = s.stores := by
  simp [State.mbAttest]

@[simp] theorem State.attestDone_stores : s.attestDone.stores = s.stores := by
  simp only [State.attestDone]
  split <;> simp

@[simp] theorem State.mbGetCert_stores (h ch : Nat) : (s.mbGetCert h ch).stores = s.stores := by
  simp only [State.mbGetCert]
  repeat' split
  all_goals rfl

@[simp] theorem State.mbInstall_stores (h ch : Nat) : (s.mbInstall h ch).stores = s.stores := by
  simp [State.mbInstall]

@[simp] theorem State.installDone_stores (ok : Bool) : (s.installDone ok).stores = s.stores := by
  simp only [State.installDone]
  split
  · rfl
  · split
    · rfl
    · split
      · next t ht =>
        split at ht
        · exact (t.lateReply_stores ..).trans ((State.installRecord_stores _ _ ht).trans (by simp))
        · cases ht
      · simp

@[simp] theorem State.closeSession_stores (h ch : Nat) : (s.closeSession h ch).stores = s.stores := rfl

@[simp] theorem State.mbChallenge_stores (h ch : Nat) (nonce : List Byte) :
    (s.mbChallenge h ch nonce).stores = s.stores := by
  simp [State.mbChallenge]

@[simp] theorem State.mbOpen_stores (h ch : Nat) : (s.mbOpen h ch).stores = s.stores := by
  simp [State.mbOpen]

@[simp] theorem State.mbClose_stores (h ch : Nat) : (s.mbClose h ch).stores = s.stores := by
  simp [State.mbClose]

@[simp] theorem State.mbFwUpdate_stores (h ch : Nat) : (s.mbFwUpdate h ch).stores = s.stores := by
  simp [State.mbFwUpdate]

@[simp] theorem State.fwUpdateDone_stores (got : List Byte) (r : HostResult) :
    (s.fwUpdateDone got r).stores = s.stores := by
  simp only [State.fwUpdateDone]
  repeat' split
  all_goals simp

@[simp] theorem State.mbFwCommit_stores (h ch : Nat) : (s.mbFwCommit h ch).stores = s.stores := by
  simp [State.mbFwCommit]

@[simp] theorem State.fwCommitDone_stores : s.fwCommitDone.stores = s.stores := by
  simp only [State.fwCommitDone]
  repeat' split
  all_goals simp

@[simp] theorem State.serveNs_stores (h ch : Nat) : (s.serveNs h ch).stores = s.stores := by
  simp [State.serveNs]

@[simp] theorem State.serveS_stores (h ch : Nat) (nonce : List Byte) : (s.serveS h ch nonce).stores = s.stores := by
  simp [State.serveS]

@[simp] theorem State.serve_stores (h : Nat) (secure : Bool) (ch : Nat) (nonce : List Byte) :
    (s.serve h secure ch nonce).stores = s.stores := by
  simp [State.serve]

@[simp] theorem State.mailboxTake_stores (secure : Bool) (nonce : List Byte) :
    (s.mailboxTake secure nonce).stores = s.stores := by
  simp only [State.mailboxTake]
  repeat' split
  all_goals simp

@[simp] theorem State.mbRow_stores (h : Nat) (secure : Bool) (ch opc : Nat) (nonce : List Byte) :
    (s.mbRow h secure ch opc nonce).stores = s.stores := by
  simp [State.mbRow]

/-! ## Machine/System.lean -/

@[simp] theorem State.cfenceMet_stores (e : Nat) : (s.cfenceMet e).stores = s.stores := by
  simp only [State.cfenceMet]
  repeat' split
  all_goals rfl

/-! ## Machine/Tick.lean -/

@[simp] theorem State.tickTime_stores : s.tickTime.stores = s.stores := by
  simp [State.tickTime]

@[simp] theorem State.tickPin_stores : s.tickPin.stores = s.stores := by
  simp [State.tickPin]

@[simp] theorem State.tickPorts_stores : s.tickPorts.stores = s.stores := by
  rw [State.tickPorts, foldl_stores fun t p => t.streamIdle_stores p]
  rfl

@[simp] theorem State.tickThrottle_stores : s.tickThrottle.stores = s.stores := by
  simp [State.tickThrottle]

@[simp] theorem State.endCycle_stores : s.endCycle.stores = s.stores := rfl

@[simp] theorem State.tickDom_stores (d : Nat) : (s.tickDom d).stores = s.stores := by
  simp [State.tickDom]

@[simp] theorem State.tickStep_stores (e i : Nat) : (s.tickStep e i).stores = s.stores := by
  simp only [State.tickStep]
  split <;> simp

@[simp] theorem State.tickSteps_stores : s.tickSteps.stores = s.stores :=
  foldl_stores (fun t _ => foldl_stores (fun u i => u.tickStep_stores _ i) _ t) _ s

@[simp] theorem State.tick_stores : s.tick.stores = s.stores := by
  simp only [State.tick]
  split
  · rfl
  · split
    · simp
    · rw [foldl_stores State.tickDom_stores]
      repeat' split
      all_goals simp

/-! ## Machine/Step.lean -/

@[simp] theorem State.withFetchWord_stores (nbits w : Nat) : (s.withFetchWord nbits w).stores = s.stores := by
  simp only [State.withFetchWord]
  split <;> rfl

end Sys2Proof.Machine
end

section
/-!
SUPPORT. What the meaning of an engine instruction answers (`EveryOk`), and the instructions that leave the stores as
they are.
-/
namespace Sys2Proof.Machine
/-- Whatever state a meaning answers has property `P`. -/
def EveryOk (P : State → Prop) (x : Except Err State) : Prop := ∀ t, x = .ok t → P t

section
variable {P : State → Prop}

@[simp] theorem everyOk_ok (t : State) : EveryOk P (.ok t) ↔ P t :=
  ⟨fun h => h t rfl, fun h _ ht => Except.ok.inj ht ▸ h⟩

@[simp] theorem everyOk_error (e : Err) : EveryOk P (.error e) := fun _ ht => nomatch ht

@[simp] theorem everyOk_bind {α : Type} (x : Except Err α) (f : α → Except Err State) :
    EveryOk P (x >>= f) ↔ ∀ a, x = .ok a → EveryOk P (f a) := by
  cases x with
  | error e => exact ⟨fun _ _ h => (nomatch h), fun _ => everyOk_error e⟩
  | ok a => exact ⟨fun h b hb => Except.ok.inj hb ▸ h, fun h => h a rfl⟩

@[simp] theorem everyOk_ite (c : Prop) [Decidable c] (x y : Except Err State) :
    EveryOk P (if c then x else y) ↔ (c → EveryOk P x) ∧ (¬ c → EveryOk P y) := by
  split <;> simp [*]

@[simp] theorem everyOk_onEngine (e : Nat) (g : Engine → Engine) (s : State) :
    EveryOk P (onEngine e g s) ↔ P (s.modEng e g) := everyOk_ok _

end

variable (s : State)

theorem ldBody_stores (f : Fields) (n : Nat) (r : Run) : EveryOk (fun t => t.stores = s.stores) (ldBody f n r s) := by
  simp [ldBody]

theorem vldBody_stores (f : Fields) (r : Run) : EveryOk (fun t => t.stores = s.stores) (vldBody f r s) := by
  simp [vldBody]

theorem vldsBody_stores (f : Fields) (r : Run) : EveryOk (fun t => t.stores = s.stores) (vldsBody f r s) := by
  simp [vldsBody]

theorem vlddBody_stores (f : Fields) (r : Run) : EveryOk (fun t => t.stores = s.stores) (vlddBody f r s) := by
  simp [vlddBody]

theorem aldBody_stores (f : Fields) (r : Run) : EveryOk (fun t => t.stores = s.stores) (aldBody f r s) := by
  simp [aldBody]
  intros
  repeat' split
  all_goals simp

theorem bmulBody_stores (f : Fields) (chk : Bool) (r : Run) :
    EveryOk (fun t => t.stores = s.stores) (bmulBody f chk r s) := by
  simp [bmulBody]

theorem apromBody_stores (f : Fields) (r : Run) : EveryOk (fun t => t.stores = s.stores) (apromBody f r s) := by
  simp [apromBody]

theorem adrainBody_stores (f : Fields) (r : Run) : EveryOk (fun t => t.stores = s.stores) (adrainBody f r s) := by
  simp [adrainBody]

theorem rlaneBody_stores (f : Fields) (r : Run) : EveryOk (fun t => t.stores = s.stores) (rlaneBody f r s) := by
  simp [rlaneBody]

theorem raccBody_stores (f : Fields) (r : Run) : EveryOk (fun t => t.stores = s.stores) (raccBody f r s) := by
  simp [raccBody]

theorem rwelBody_stores (f : Fields) (r : Run) : EveryOk (fun t => t.stores = s.stores) (rwelBody f r s) := by
  simp [rwelBody]

theorem rmergeBody_stores (f : Fields) (r : Run) : EveryOk (fun t => t.stores = s.stores) (rmergeBody f r s) := by
  simp [rmergeBody]

theorem rscfgBody_stores (f : Fields) (r : Run) : EveryOk (fun t => t.stores = s.stores) (rscfgBody f r s) := by
  simp [rscfgBody]
  intros
  repeat' split
  all_goals simp

theorem rcontBody_stores (f : Fields) (r : Run) : EveryOk (fun t => t.stores = s.stores) (rcontBody f r s) := by
  simp [rcontBody]

theorem cpyBody_stores (f : Fields) (r : Run) : EveryOk (fun t => t.stores = s.stores) (cpyBody f r s) := by
  simp [cpyBody]

theorem cpysBody_stores (f : Fields) (r : Run) : EveryOk (fun t => t.stores = s.stores) (cpysBody f r s) := by
  simp [cpysBody]

theorem cpypBody_stores (op : Nat) (f : Fields) (r : Run) :
    EveryOk (fun t => t.stores = s.stores) (cpypBody op f r s) := by
  simp [cpypBody]

theorem fincBody_stores (f : Fields) (r : Run) : EveryOk (fun t => t.stores = s.stores) (fincBody f r s) := by
  simp [fincBody]

theorem fwaitBody_stores (f : Fields) (r : Run) : EveryOk (fun t => t.stores = s.stores) (fwaitBody f r s) := by
  simp [fwaitBody]

theorem fsetBody_stores (f : Fields) (r : Run) : EveryOk (fun t => t.stores = s.stores) (fsetBody f r s) := by
  simp [fsetBody]

theorem frdBody_stores (f : Fields) (r : Run) : EveryOk (fun t => t.stores = s.stores) (frdBody f r s) := by
  simp [frdBody]

theorem karrBody_stores (f : Fields) (r : Run) : EveryOk (fun t => t.stores = s.stores) (karrBody f r s) := by
  simp [karrBody]

theorem kwaitBody_stores (f : Fields) (r : Run) : EveryOk (fun t => t.stores = s.stores) (kwaitBody f r s) := by
  simp [kwaitBody]

theorem spawnWith_stores (room : State → List ItemDesc → Bool) (f : Fields) (r : Run) :
    EveryOk (fun t => t.stores = s.stores) (spawnWith room f r s) := by
  simp [spawnWith]

theorem State.spawndRet_stores (r : Run) (f : Fields) (n code : Nat) :
    EveryOk (fun t => t.stores = s.stores) (s.spawndRet r f n code) := by
  simp [State.spawndRet]

theorem spawnBody_stores (f : Fields) (r : Run) : EveryOk (fun t => t.stores = s.stores) (spawnBody f r s) :=
  spawnWith_stores s _ f r

theorem nputBody_stores (f : Fields) (r : Run) : EveryOk (fun t => t.stores = s.stores) (nputBody f r s) := by
  simp [nputBody]
  intros
  repeat' split
  all_goals simp

theorem ngetBody_stores (f : Fields) (r : Run) : EveryOk (fun t => t.stores = s.stores) (ngetBody f r s) := by
  simp only [ngetBody, everyOk_bind]
  intros
  simp only [everyOk_ite, everyOk_ok, State.flagAdd_stores, implies_true, true_and, everyOk_bind]
  intros
  split
  · simp
  · simp [State.netIssue_stores, foldl_stores fun t g => t.send_stores _ _ _ _ _ _]

theorem nflagBody_stores (f : Fields) (r : Run) : EveryOk (fun t => t.stores = s.stores) (nflagBody f r s) := by
  simp [nflagBody]

theorem nstepBody_stores (f : Fields) (r : Run) : EveryOk (fun t => t.stores = s.stores) (nstepBody f r s) := by
  simp [nstepBody]

theorem aluOp_stores (f : Fields) (op : W64 → W64 → W64) (r : Run) :
    EveryOk (fun t => t.stores = s.stores) (aluOp f op r s) := by
  simp [aluOp]

theorem cmpBody_stores (f : Fields) (r : Run) : EveryOk (fun t => t.stores = s.stores) (cmpBody f r s) := by
  unfold cmpBody
  simp
  repeat' split
  all_goals simp

theorem branchBody_stores (f : Fields) (test : W64 → Bool) (r : Run) :
    EveryOk (fun t => t.stores = s.stores) (branchBody f test r s) := by
  simp [branchBody]

theorem jalBody_stores (f : Fields) (r : Run) : EveryOk (fun t => t.stores = s.stores) (jalBody f r s) := by
  simp [jalBody]

theorem nopBody_stores (f : Fields) (x : Run) : EveryOk (fun t => t.stores = s.stores) (nopBody f x s) := by
  simp [nopBody]

theorem liBody_stores (f : Fields) (r : Run) : EveryOk (fun t => t.stores = s.stores) (liBody f r s) := by
  simp [liBody]

theorem lihBody_stores (f : Fields) (r : Run) : EveryOk (fun t => t.stores = s.stores) (lihBody f r s) := by
  simp [lihBody]

theorem sysrBody_stores (f : Fields) (r : Run) : EveryOk (fun t => t.stores = s.stores) (sysrBody f r s) := by
  unfold sysrBody
  simp
  repeat' split
  all_goals simp

theorem trapBody_stores (f : Fields) (_r : Run) : EveryOk (fun t => t.stores = s.stores) (trapBody f _r s) := by
  simp [trapBody]

theorem cfenceBody_stores (f : Fields) (r : Run) : EveryOk (fun t => t.stores = s.stores) (cfenceBody f r s) := by
  simp [cfenceBody]

theorem vBin_stores (op : W32 → W32 → W32) (f : Fields) (r : Run) :
    EveryOk (fun t => t.stores = s.stores) (vBin op f r s) := by
  simp [vBin]

theorem vUn_stores (op : W32 → W32) (f : Fields) (r : Run) :
    EveryOk (fun t => t.stores = s.stores) (vUn op f r s) := by
  simp [vUn]

theorem vfmaBody_stores (f : Fields) (r : Run) : EveryOk (fun t => t.stores = s.stores) (vfmaBody f r s) := by
  simp [vfmaBody]

theorem vcmpBody_stores (f : Fields) (r : Run) : EveryOk (fun t => t.stores = s.stores) (vcmpBody f r s) := by
  simp [vcmpBody]

theorem vselBody_stores (f : Fields) (r : Run) : EveryOk (fun t => t.stores = s.stores) (vselBody f r s) := by
  simp [vselBody]

theorem vcvtBody_stores (f : Fields) (r : Run) : EveryOk (fun t => t.stores = s.stores) (vcvtBody f r s) := by
  simp [vcvtBody]

theorem vbcastBody_stores (f : Fields) (r : Run) : EveryOk (fun t => t.stores = s.stores) (vbcastBody f r s) := by
  simp [vbcastBody]

theorem vpermBody_stores (f : Fields) (r : Run) : EveryOk (fun t => t.stores = s.stores) (vpermBody f r s) := by
  simp [vpermBody]

theorem vmovgBody_stores (f : Fields) (r : Run) : EveryOk (fun t => t.stores = s.stores) (vmovgBody f r s) := by
  simp [vmovgBody]

/-- R75, R112: an issue leaves in the stores what was there, or what the instruction's meaning leaves. -/
theorem State.issue_stores_body (e : Nat) (opc : BitVec 8) (f : Fields) (body : Run → State → Except Err State) :
    (s.issue e opc f body).stores = s.stores ∨
      ∃ r u t, State.stores u = s.stores ∧ body r u = .ok t ∧ (s.issue e opc f body).stores = t.stores := by
  unfold State.issue
  split
  · exact .inl rfl
  · split
    · exact .inl rfl
    · dsimp only
      split
      · exact .inl (by simp)
      · split
        · exact .inl (by simp)
        · split
          · exact .inl rfl
          · split
            · next t ht => exact .inr ⟨_, _, t, State.modEng_stores .., ht, by split <;> simp⟩
            · exact .inl (by simp)

theorem State.issue_stores (e : Nat) (opc : BitVec 8) (f : Fields) {body : Run → State → Except Err State}
    (hb : ∀ r u, EveryOk (fun t => t.stores = u.stores) (body r u)) : (s.issue e opc f body).stores = s.stores := by
  rcases s.issue_stores_body e opc f body with h | ⟨r, u, t, hu, ht, h⟩
  · exact h
  · exact h.trans ((hb r u t ht).trans hu)
end Sys2Proof.Machine
end

section
/-!
SUPPORT. The updates that store something keep the stores in canonical form: one lemma for each of them, in the order in
which they call one another.
-/
namespace Sys2Proof.Machine

/-- The three stores of a state are in their canonical form. -/
def CanonicalStores (x : List Host.Cell × List Host.Cell × List Host.Cell) : Prop :=
  Memory.wf x.1 = true ∧ Memory.wf x.2.1 = true ∧ Memory.wf x.2.2 = true

section
variable {s : State} (h : CanonicalStores s.stores)

theorem foldl_canonical {α : Type} {g : State → α → State}
    (hg : ∀ s a, CanonicalStores s.stores → CanonicalStores (g s a).stores) (l : List α) {s : State}
    (h : CanonicalStores s.stores) : CanonicalStores (l.foldl g s).stores :=
  List.foldlRecOn l g (motive := fun t => CanonicalStores t.stores) h fun t ht a _ => hg t a ht

include h

/-! ## Stores at a place -/

theorem State.writeLoc_canonical (l : Loc) (bs : List Byte) : CanonicalStores (s.writeLoc l bs).stores := by
  obtain ⟨hl, hc, hm⟩ := h
  exact State.wf_writeLoc hl hc hm l bs

theorem State.storeLoc_canonical (l : Loc) (bs : List Byte) : CanonicalStores (s.storeLoc l bs).stores := by
  cases l with
  | ls e off => exact State.writeLoc_canonical h _ bs
  | cs c off => exact State.writeLoc_canonical h _ bs
  | pier a =>
    have hw : CanonicalStores (s.writePier a bs).stores := State.writeLoc_canonical h (.pier a) bs
    simpa [State.storeLoc] using hw

theorem State.addCounter_canonical (l : Loc) (n : Nat) : CanonicalStores (s.addCounter l n).stores := by
  have hfetch : CanonicalStores (s.fetchLoc l 8).2.stores := by rwa [State.fetchLoc_stores]
  exact State.storeLoc_canonical hfetch _ _

theorem State.storeAll_canonical (outs : List (Loc × List Byte)) : CanonicalStores (s.storeAll outs).stores :=
  foldl_canonical (fun _ _ ht => State.storeLoc_canonical ht _ _) outs h

theorem State.raceWrite_canonical (outs : List (Loc × List Byte)) (snap : List Byte) :
    CanonicalStores (s.raceWrite outs snap).stores := by
  simp only [State.raceWrite]
  split
  · exact State.storeAll_canonical h _
  · exact State.storeAll_canonical (by simpa using h) _

theorem State.partialWrite_canonical (l : Loc) (n : Nat) : CanonicalStores (s.partialWrite l n).stores :=
  State.storeLoc_canonical (by simpa using h) _ _

theorem State.zeroSpan_canonical (r : Region) (a n : Nat) : CanonicalStores (s.zeroSpan r a n).stores := by
  obtain ⟨hl, hc, hm⟩ := h
  refine ⟨hl, hc, ?_⟩
  have hm' := (Tab.wf_iff _ _).1 hm
  exact (Tab.wf_iff _ _).2 ⟨hm'.1.filter _, fun x hx => hm'.2 x (List.mem_of_mem_filter hx)⟩

theorem State.clearHead_canonical (a : Nat) : CanonicalStores (s.clearHead a).stores := by
  unfold State.clearHead
  split
  · exact h
  · simpa using State.zeroSpan_canonical h _ _ _

/-! ## Engine instructions -/

theorem stBody_canonical (f : Fields) (n : Nat) (r : Run) :
    EveryOk (fun t => CanonicalStores t.stores) (stBody f n r s) := by
  simp [stBody, State.writeLoc_canonical h]

theorem vstBody_canonical (f : Fields) (r : Run) : EveryOk (fun t => CanonicalStores t.stores) (vstBody f r s) := by
  simp [vstBody, State.writeLoc_canonical h]

theorem vstsBody_canonical (f : Fields) (r : Run) : EveryOk (fun t => CanonicalStores t.stores) (vstsBody f r s) := by
  simp only [vstsBody, everyOk_bind, everyOk_ok]
  intros
  exact foldl_canonical (fun _ _ ht => State.writeLoc_canonical ht _ _) _ h

theorem State.encodeRows_canonical (r : Run) (d : EncDesc) (fl : Option Loc) (first : Nat) (rows : List (List FV)) :
    CanonicalStores (s.encodeRows r d fl first rows).stores := by
  simp only [State.encodeRows]
  split
  · exact h
  · rw [State.modEng_stores]
    split
    · exact foldl_canonical (fun _ _ ht => State.writeLoc_canonical ht _ _) _ h
    · exact State.writeLoc_canonical (foldl_canonical (fun _ _ ht => State.writeLoc_canonical ht _ _) _ h) _ _

theorem vencBody_canonical (f : Fields) (r : Run) : EveryOk (fun t => CanonicalStores t.stores) (vencBody f r s) := by
  simp [vencBody, State.encodeRows_canonical h]

theorem adraineBody_canonical (f : Fields) (r : Run) :
    EveryOk (fun t => CanonicalStores t.stores) (adraineBody f r s) := by
  simp only [adraineBody, everyOk_bind, everyOk_ok]
  intros
  exact State.encodeRows_canonical (by simpa using h) _ _ _ _ _

theorem State.commitContrib_canonical (c : Nat) (d : ItemDesc) (vs : List W32) :
    EveryOk (fun t => CanonicalStores t.stores) (s.commitContrib c d vs) := by
  simp [State.commitContrib, State.writeLoc_canonical h]

theorem State.commitItem_canonical (r : Run) : CanonicalStores (s.commitItem r).stores := by
  unfold State.commitItem
  dsimp only
  have hflush := foldl_canonical (fun _ a ht => State.addCounter_canonical ht a.1 a.2) (s.eng r.e).flushes h
  split
  · simpa using hflush
  · next t ht =>
    have hcommit : CanonicalStores t.stores := by
      split at ht
      · exact Except.ok.inj ht ▸ hflush
      · exact State.commitContrib_canonical hflush _ _ _ t ht
    have hready := foldl_canonical (g := fun (s : State) (p : Nat × Nat) => s.makeReady p.1 p.2)
      (fun u a hu => by simpa using hu) (s.eng r.e).spawns hcommit
    split <;> simpa using hready

theorem finishBody_canonical (f : Fields) (r : Run) :
    EveryOk (fun t => CanonicalStores t.stores) (finishBody f r s) := by
  simp [finishBody, State.commitItem_canonical h, h]

theorem yieldBody_canonical (f : Fields) (r : Run) : EveryOk (fun t => CanonicalStores t.stores) (yieldBody f r s) := by
  simp only [yieldBody, everyOk_bind, everyOk_ok]
  intros
  split <;> simpa using State.writeLoc_canonical h _ _

theorem State.writeRecords_canonical (d : Dispatch) (list l : Loc) (n : Nat)
    (ss : List (Nat × Nat × List (Nat × Nat))) : CanonicalStores (s.writeRecords d list l n ss).stores := by
  induction ss generalizing s n with
  | nil => exact h
  | cons x ss ih =>
    obtain ⟨r, tot, sub⟩ := x
    exact ih (foldl_canonical (fun _ _ ht => State.storeLoc_canonical ht _ _) _ (by simpa using h)) _

theorem State.planRecords_canonical (d : Dispatch) (list : Loc) (p : DispatchPlan) (n : Nat) :
    CanonicalStores (s.planRecords d list p n).stores := by
  unfold State.planRecords
  split
  · exact State.writeRecords_canonical h _ _ _ _ _
  · exact h

theorem EveryOk.canonical {x : Except Err State} (hx : EveryOk (fun t => t.stores = s.stores) x) :
    EveryOk (fun t => CanonicalStores t.stores) x := fun t ht => by
  have hs : t.stores = s.stores := hx t ht
  simpa [hs] using h

theorem State.spawndRet_canonical (r : Run) (f : Fields) (n code : Nat) :
    EveryOk (fun t => CanonicalStores t.stores) (s.spawndRet r f n code) :=
  EveryOk.canonical h (State.spawndRet_stores s r f n code)

theorem State.spawndRun_canonical (room : State → List ItemDesc → Bool) (r : Run) (f : Fields) (d : Dispatch)
    (t : List Byte) (list : Loc) (counts : List Nat) :
    EveryOk (fun t => CanonicalStores t.stores) (s.spawndRun room r f d t list counts) := by
  unfold State.spawndRun
  split
  · exact State.spawndRet_canonical h _ _ _ _
  · exact State.spawndRet_canonical (by simpa using State.planRecords_canonical h _ _ _ _) _ _ _ _

theorem spawndWith_canonical (room : State → List ItemDesc → Bool) (f : Fields) (r : Run) :
    EveryOk (fun t => CanonicalStores t.stores) (spawndWith room f r s) := by
  simp only [spawndWith, everyOk_bind, everyOk_ite]
  intros
  have hret : ∀ n code, EveryOk (fun t => CanonicalStores t.stores) (s.spawndRet r f n code) :=
    State.spawndRet_canonical h r f
  refine ⟨fun _ => hret _ _, fun _ => ⟨fun _ => hret _ _, fun _ => ?_⟩⟩
  split
  · exact State.spawndRun_canonical (by simpa using h) _ _ _ _ _ _ _
  · exact State.spawndRet_canonical h _ _ _ _

theorem State.issue_canonical (e : Nat) (opc : BitVec 8) (f : Fields) {body : Run → State → Except Err State}
    (hb : ∀ r u, CanonicalStores u.stores → EveryOk (fun t => CanonicalStores t.stores) (body r u)) :
    CanonicalStores (s.issue e opc f body).stores := by
  rcases s.issue_stores_body e opc f body with hs | ⟨r, u, t, hu, ht, hs⟩
  · rw [hs]; exact h
  · rw [hs]; exact hb r u (by rwa [hu]) t ht

theorem State.spawnAhead_canonical (e : Nat) : CanonicalStores (s.spawnAhead e).stores := by
  refine foldl_canonical (fun t x ht => State.issue_canonical ht _ _ _ fun r u hu => ?_) _ h
  split
  · exact EveryOk.canonical hu (spawnWith_stores u _ _ r)
  · exact spawndWith_canonical hu _ _ _

theorem spawndBody_canonical (f : Fields) (r : Run) : EveryOk (fun t => CanonicalStores t.stores) (spawndBody f r s) :=
  spawndWith_canonical h _ f r

/-! ## Items, copies and reduction slots -/

theorem State.finishCommit_canonical (e : Nat) : CanonicalStores (s.finishCommit e).stores := by
  simp only [State.finishCommit]
  repeat' split
  · exact h
  · exact h
  · exact h
  · exact State.commitItem_canonical h _

theorem State.slotDone_canonical (c r : Nat) : CanonicalStores (s.slotDone c r).stores := by
  simp only [State.slotDone]
  repeat' split
  · exact h
  · exact h
  · exact h
  · simpa using State.storeLoc_canonical h _ _

theorem State.finishCopy_canonical (e i : Nat) (o : CopyOp) : CanonicalStores (s.finishCopy e i o).stores := by
  simpa [State.finishCopy] using State.raceWrite_canonical (by simpa using h) _ _

theorem State.afterWrites_canonical (e : Nat) (o : CopyOp) (p : Plinth) (r : PlinthOut) :
    CanonicalStores (s.afterWrites e o p r).stores := by
  have htile := State.raceWrite_canonical h r.out o.dstSnap
  have hreport : CanonicalStores (match p.report with
      | some l => (s.raceWrite r.out o.dstSnap).storeLoc l r.report
      | none => s.raceWrite r.out o.dstSnap).stores := by
    split
    · exact State.storeLoc_canonical htile _ _
    · exact htile
  unfold State.afterWrites
  dsimp only
  split
  · rw [State.orStatus_stores]
    split
    · exact State.addCounter_canonical hreport _ _
    · exact hreport
  · split
    · exact State.addCounter_canonical hreport _ _
    · exact hreport

theorem State.finishPlinth_canonical (e i : Nat) (o : CopyOp) (p : Plinth) :
    CanonicalStores (s.finishPlinth e i o p).stores := by
  have hread : CanonicalStores (s.afterReads o p).stores := by simpa [State.afterReads, State.plinthRead] using h
  rw [State.finishPlinth_eq]
  split_ifs
  · simpa using hread
  · simpa using hread
  · simpa using State.afterWrites_canonical hread _ _ _ _

theorem State.copyComplete_canonical (e i : Nat) (plinth : Bool) :
    CanonicalStores (s.copyComplete e i plinth).stores := by
  unfold State.copyComplete
  repeat' split
  · exact h
  · exact h
  · exact State.finishCopy_canonical h _ _ _
  · exact h
  · exact State.finishPlinth_canonical h _ _ _ _
  · exact h

theorem State.stopCopy_canonical (e i done : Nat) (list : Option Nat) (code : BitVec 8) (addr : W64) :
    CanonicalStores (s.stopCopy e i done list code addr).stores := by
  have hread : ∀ l, CanonicalStores (s.countReads l).stores := fun l => by simpa using h
  unfold State.stopCopy
  split
  · exact h
  · dsimp only
    generalize ht : State.dropCopy _ e i = t
    have hstop : CanonicalStores t.stores := by
      rw [← ht, State.dropCopy_stores]
      split
      · exact State.raceWrite_canonical (by simpa using h) _ _
      · split
        · exact hread _
        · exact State.raceWrite_canonical (by simpa using h) _ _
    split <;> simpa using hstop

theorem State.stopAtWord_canonical (e i done : Nat) (w : Loc) (code : BitVec 8) (addr : W64) :
    CanonicalStores (s.stopAtWord e i done w code addr).stores := by
  unfold State.stopAtWord
  repeat' split
  · exact h
  · exact h
  · exact State.stopCopy_canonical h _ _ _ _ _ _

/-! ## Command processors and windows -/

theorem State.copyEnd_canonical (p : Nat) (r : HostResult) : CanonicalStores (s.copyEnd p r).stores := by
  simp only [State.copyEnd]
  repeat' split
  · exact h
  · exact h
  · exact h
  · simpa using State.storeLoc_canonical h _ _
  · simpa using h
  · simpa using State.partialWrite_canonical h _ _
  · simpa using h

theorem State.oflCopyDone_canonical (p w : Nat) (r : HostResult) : CanonicalStores (s.oflCopyDone p w r).stores := by
  simp only [State.oflCopyDone]
  repeat' split
  · exact h
  · exact h
  · simpa using State.storeLoc_canonical h _ _
  · simpa using h
  · simpa using State.partialWrite_canonical h _ _
  · simpa using h

theorem State.hostErrors_canonical (p : Nat) : CanonicalStores (s.hostErrors p).stores := by
  refine foldl_canonical (fun t k ht => ?_) _ h
  split
  · exact ht
  · exact foldl_canonical (fun _ w hu => State.oflCopyDone_canonical hu _ w _) _ (State.copyEnd_canonical ht _ _)

theorem State.perstAssert_canonical (p : Nat) : CanonicalStores (s.perstAssert p).stores := by
  simpa [State.perstAssert] using State.hostErrors_canonical (s := _) (by simpa using h) p

theorem State.linkDown_canonical (p : Nat) : CanonicalStores (s.linkDown p).stores := by
  have herrors := State.hostErrors_canonical (s := s.modHost p fun x => { x with linkUp := false }) (by simpa using h) p
  simp only [State.linkDown]
  split <;> simpa using herrors

theorem State.bar4Write_canonical (p off : Nat) (bs : List Byte) : CanonicalStores (s.bar4Write p off bs).stores := by
  simp only [State.bar4Write]
  repeat' split
  · exact h
  · simpa using h
  · exact h
  · exact State.storeLoc_canonical h _ _

/-! ## Packets -/

theorem State.deliverLocal_canonical (l : LocalPkt) {act : State → State × Nat}
    (hact : ∀ t, CanonicalStores t.stores → CanonicalStores (act t).1.stores) :
    CanonicalStores (s.deliverLocal l act).stores := by
  rw [State.deliverLocal_stores_act]
  exact hact s h

theorem State.deliver_canonical (d : Nat) (p : Packet) (opc : BitVec 8) {act : State → State × Nat}
    (hact : ∀ t, CanonicalStores t.stores → CanonicalStores (act t).1.stores) :
    CanonicalStores (s.deliver d p opc act).stores := by
  rcases s.deliver_stores_act d p opc act with hs | ⟨t, ht, hs⟩
  · rw [hs]; exact h
  · rw [hs]; exact hact t (by rwa [ht])

theorem State.writeAct_canonical (p : Packet) (last plan : Bool) :
    CanonicalStores (State.writeAct p last plan s).1.stores := by
  unfold State.writeAct
  generalize hgo : (fun (s : State) (l : Option Loc) => _) = go
  rcases s.request_cases p p.len.toNat true (bareReq p) plan go with hs | ⟨l, hs⟩
  · rw [hs]; exact h
  · rw [hs, ← hgo]
    cases l with
    | none => dsimp only; split <;> simpa using h
    | some l =>
      have hstored : CanonicalStores (if p.len = 0 then s else s.storeLoc l (pktPayload p)).stores := by
        split
        · exact h
        · exact State.storeLoc_canonical h _ _
      dsimp only
      split
      · rwa [State.raise_stores]
      · exact hstored

theorem State.readDataAct_canonical (p : Packet) : CanonicalStores (State.readDataAct p s).1.stores := by
  unfold State.readDataAct
  split
  · exact h
  · next e o g _ =>
    have hstored : CanonicalStores
        (if o.reset then s else s.storeLoc (o.loc.add g.off) ((pktPayload p).take g.len)).stores := by
      split
      · exact h
      · exact State.storeLoc_canonical h _ _
    dsimp only
    split <;> simpa using hstored

theorem State.requestAct_canonical (d : Nat) (p : Packet) : CanonicalStores (State.requestAct d p s).1.stores := by
  unfold State.requestAct
  split
  case h_3 => simpa using h
  case h_4 => simpa using h
  case h_9 => exact h
  all_goals exact State.writeAct_canonical h _ _ _

theorem State.localRetry_canonical (die tc : Nat) (last : Bool) :
    CanonicalStores (s.localRetry die tc last).stores := by
  simp only [State.localRetry]
  repeat' split
  · exact h
  · exact h
  · exact h
  · simpa using h
  · exact State.deliverLocal_canonical h _ fun t ht => State.requestAct_canonical ht _ _

/-! ## Casts -/

theorem State.castBeginAct_canonical (p : Packet) : CanonicalStores (State.castBeginAct p s).1.stores := by
  simp only [State.castBeginAct]
  repeat' split
  · exact h
  · exact h
  · exact h
  · simpa using State.storeLoc_canonical (State.clearHead_canonical h _) _ _

theorem State.castDataAct_canonical (p : Packet) : CanonicalStores (State.castDataAct p s).1.stores := by
  simp only [State.castDataAct]
  repeat' split
  · exact h
  · exact h
  · exact h
  · exact h
  · exact State.storeLoc_canonical h _ _

theorem State.castEndAct_canonical (p : Packet) : CanonicalStores (State.castEndAct p s).1.stores := by
  simp only [State.castEndAct]
  repeat' split
  · exact h
  · exact h
  · exact h
  · simpa using h
  · simpa using State.storeLoc_canonical (by simpa using h) _ _

theorem State.restoreBadAct_canonical (p : Packet) : CanonicalStores (State.restoreBadAct p s).1.stores := by
  simp only [State.restoreBadAct]
  repeat' split
  · exact h
  · exact h
  · simpa using State.storeLoc_canonical h _ _

theorem State.restoreDataAct_canonical (p : Packet) : CanonicalStores (State.restoreDataAct p s).1.stores := by
  simp only [State.restoreDataAct]
  repeat' split
  · exact h
  · exact h
  · exact h
  · simpa using State.storeLoc_canonical h _ _
  · exact State.storeLoc_canonical h _ _
  · exact h

/-! ## Uncorrectable reads and retirement -/

theorem State.slotResultUe_canonical (c r done p loc : Nat) :
    CanonicalStores (s.slotResultUe c r done p loc).stores := by
  simp only [State.slotResultUe]
  repeat' split
  · exact h
  · exact h
  · exact h
  · simpa using State.storeLoc_canonical (by simpa using h) _ _
  · simpa using State.storeLoc_canonical (by simpa using h) _ _

theorem State.copyUe_canonical (q done p loc : Nat) : CanonicalStores (s.copyUe q done p loc).stores := by
  simp only [State.copyUe]
  split
  · exact h
  · split
    · exact h
    · split
      · repeat' split
        · exact h
        · exact h
        · simpa using State.partialWrite_canonical h _ _
      · repeat' split
        all_goals simpa using h

theorem State.spawnListUe_canonical (e done p loc : Nat) : CanonicalStores (s.spawnListUe e done p loc).stores := by
  simp only [State.spawnListUe]
  repeat' split
  · exact h
  · exact h
  · simpa using h
  · exact h
  · simpa using State.planRecords_canonical h _ _ _ _
  · simpa using State.planRecords_canonical h _ _ _ _
  · exact h
  · exact h

theorem State.flushUe_canonical (e p loc : Nat) : CanonicalStores (s.flushUe e p loc).stores := by
  simp only [State.flushUe]
  repeat' split
  · exact h
  · simpa using foldl_canonical (fun _ a ht => State.addCounter_canonical ht a.1 a.2) _ h
  · exact h

theorem State.pierUe_canonical (src : UeSource) (p loc : Nat) : CanonicalStores (s.pierUe src p loc).stores := by
  unfold State.pierUe
  split
  · exact h
  · cases src with
    | engineCopy e i done =>
      dsimp only
      repeat' split
      · exact h
      · exact h
      · exact h
      · exact State.stopCopy_canonical (by simpa using h) _ _ _ _ _ _
    | spawnList e done => exact State.spawnListUe_canonical h _ _ _ _
    | flush e => exact State.flushUe_canonical h _ _ _
    | slotResult c r done => exact State.slotResultUe_canonical h _ _ _ _ _
    | copyCommand q done => exact State.copyUe_canonical h _ _ _ _
    | castHolder d q => simpa using h
    | castHeld d q => dsimp only; split <;> simpa using h
    | network e i => simpa using h
    | remote d q => simpa using h
    | hostRead k => dsimp only; split <;> simpa using h
    | hostWrite k => dsimp only; split <;> simpa using h
    | ringFetch q => simpa using h
    | castSend => dsimp only; split <;> simpa using h
    | castVerify i => dsimp only; repeat' split
                      all_goals simpa using h
    | scrub => simpa using h
    | corrected l => simpa using h

theorem State.courseUe_canonical (src : CsUeSource) : CanonicalStores (s.courseUe src).stores := by
  unfold State.courseUe
  split
  · exact h
  · cases src with
    | copy e i done c off => exact State.stopAtWord_canonical h _ _ _ _ _ _
    | net e i c off => simpa using h
    | fetch e => simpa using h
    | access e => simpa using h
    | resume e => simpa using h
    | corrected c n => simpa using h

theorem State.slotRetire_canonical (e : Nat) (cause : RetireCause) : CanonicalStores (s.slotRetire e cause).stores := by
  simp only [State.slotRetire]
  split
  · exact h
  · cases cause with
    | copyCheck i done off =>
      dsimp only
      split
      · exact h
      · simpa using State.stopAtWord_canonical h _ _ _ _ _ _
    | check opc off => dsimp only; split <;> simpa using h
    | netCheck i off => dsimp only; split <;> simpa using h
    | pendingCheck => simpa using h
    | corrected n => dsimp only; repeat' split
                     all_goals simpa using h

/-! ## Bond images and bring-up -/

theorem State.startApply_canonical (p : Nat) (img : List Byte) : CanonicalStores (s.startApply p img).stores := by
  simpa [State.startApply] using State.storeLoc_canonical (by simpa using h) _ _

theorem State.stageImage_canonical (p : Nat) (img : List Byte) : CanonicalStores (s.stageImage p img).stores := by
  have hput : ∀ u : State, u.stores = s.stores → CanonicalStores
      ((({ u with bond := { u.bond with staged := some (p, img) } }).bondState p .staged).storeLoc
        (.pier stageBase) img).stores := fun u hu =>
    State.storeLoc_canonical (by simpa [hu] using h) _ _
  simp only [State.stageImage]
  split
  · split
    · simpa using hput s rfl
    · exact hput s rfl
  · split
    · simpa using h
    · split <;> split
      · simpa using hput (s.refuseCode _ _) (by simp)
      · exact hput (s.refuseCode _ _) (by simp)
      · simpa using hput s rfl
      · exact hput s rfl

theorem State.bondFetched_canonical (p : Nat) (r : HostResult) : CanonicalStores (s.bondFetched p r).stores := by
  simp only [State.bondFetched]
  repeat' split
  · exact h
  · simpa using h
  · simpa using h
  · exact h
  · simpa using h
  · exact State.stageImage_canonical h _ _
  · exact State.startApply_canonical h _ _

theorem State.bu3_canonical (passed : BitVec 32) : CanonicalStores (s.bu3 passed).stores := by
  obtain ⟨hl, hc, hm⟩ := h
  have hcleared : CanonicalStores (s.ls, s.cs, if s.bu.rung3 then s.mem else []) := by
    refine ⟨hl, hc, ?_⟩
    dsimp only
    split
    · exact hm
    · rfl
  unfold State.bu3
  split
  · exact ⟨hl, hc, hm⟩
  · dsimp only
    generalize hu : List.foldl _ _ (List.range 16) = u
    have hstores : CanonicalStores u.stores := by
      rw [← hu, foldl_stores fun t m => ?_, foldl_stores fun t p => t.modPier_stores p _, State.stores_mk]
      · exact hcleared
      · split <;> simp
    split
    · rwa [State.stageFail_stores]
    · rwa [State.stagePass_stores]

theorem State.bu4_canonical (passed : BitVec 64) (failed : List (Nat × Nat)) (fabric : BitVec 4) :
    CanonicalStores (s.bu4 passed failed fabric).stores := by
  have hcleared : CanonicalStores ([], [], s.mem) := ⟨rfl, rfl, h.2.2⟩
  unfold State.bu4
  split
  · exact h
  · dsimp only
    generalize hu : List.foldl _ _ (List.range 4) = u
    have hstores : CanonicalStores u.stores := by
      rw [← hu, foldl_stores fun t d => t.startDom_stores _, foldl_stores fun t c => ?_, State.stores_mk]
      · exact hcleared
      · split <;> simp
    split
    · rwa [State.stageFail_stores]
    · split
      · rwa [State.stageFail_stores]
      · rwa [State.stagePass_stores]

omit h in
theorem State.coreOff_stores (s : State) : s.coreOff.stores = ([], [], []) := rfl

omit h in
theorem State.bu0_stores (s : State) (feed : BitVec 4) (frzN : Bool) (bad : Option Nat) :
    (s.bu0 feed frzN bad).stores = ([], [], []) := by
  unfold State.bu0
  dsimp only
  rw [State.drawOpen_stores, foldl_stores State.startDom_stores]
  rfl

omit h in
theorem canonicalStores_nil : CanonicalStores ([], [], []) := ⟨rfl, rfl, rfl⟩

theorem State.pwrRise_canonical (feed : BitVec 4) (frzN : Bool) (bad : Option Nat) :
    CanonicalStores (s.pwrRise feed frzN bad).stores := by
  simp only [State.pwrRise]
  split
  · rw [State.bu0_stores]
    exact canonicalStores_nil
  · simpa using h

theorem State.pwrHold_canonical (feed : BitVec 4) (frzN : Bool) (bad : Option Nat) :
    CanonicalStores (s.pwrHold feed frzN bad).stores := by
  simp only [State.pwrHold]
  repeat' split
  · exact h
  · rw [State.bu0_stores]
    exact canonicalStores_nil
  · simpa using h

theorem State.coreRemoved_canonical : CanonicalStores s.coreRemoved.stores := by
  unfold State.coreRemoved
  split
  · exact h
  · exact canonicalStores_nil

omit h in
theorem State.inputLoss_canonical : CanonicalStores s.inputLoss.stores := canonicalStores_nil

end
end Sys2Proof.Machine
end

section
/-!
SUPPORT. Every command keeps the stores in canonical form, and so does every step.
-/
namespace Sys2Proof.Machine

section
variable {s t : State} (h : CanonicalStores s.stores)

theorem next_canonical {u : State} (hu : CanonicalStores u.stores)
    (ht : (.next u : Host.Outcome State Fault Refusal) = .next t) : CanonicalStores t.stores := by
  cases ht
  exact hu

theorem guarded_canonical {ok : Bool} {u : State} (hu : CanonicalStores u.stores) (ht : guarded ok u = .next t) :
    CanonicalStores t.stores := by
  unfold guarded at ht
  split at ht
  · exact next_canonical hu ht
  · cases ht

include h

theorem issue_canonical {ok : Bool} {e : Nat} {opc : BitVec 8} {f : Fields} {body : Run → State → Except Err State}
    (hb : ∀ r u, CanonicalStores u.stores → EveryOk (fun t => CanonicalStores t.stores) (body r u))
    (ht : guarded ok (s.issue e opc f body) = .next t) : CanonicalStores t.stores :=
  guarded_canonical (State.issue_canonical h e opc f hb) ht

theorem issue_kept {ok : Bool} {e : Nat} {opc : BitVec 8} {f : Fields} {body : Run → State → Except Err State}
    (hb : ∀ r u, EveryOk (fun t => t.stores = u.stores) (body r u))
    (ht : guarded ok (s.issue e opc f body) = .next t) : CanonicalStores t.stores :=
  issue_canonical h (fun r u hu => EveryOk.canonical hu (hb r u)) ht

theorem deliver_canonical {ok : Bool} {d : Nat} {p : Packet} {opc : BitVec 8} {act : State → State × Nat}
    (hact : ∀ u, CanonicalStores u.stores → CanonicalStores (act u).1.stores)
    (ht : guarded ok (s.deliver d p opc act) = .next t) : CanonicalStores t.stores :=
  guarded_canonical (State.deliver_canonical h d p opc hact) ht

/-- Every command keeps the three stores in canonical form: first those that store something, then the engine
instructions that store nothing, then every other command, which leaves the stores as they were. -/
theorem exec_canonical (c : Instr) (ht : exec c s = .next t) : CanonicalStores t.stores := by
  cases c
  case stg | st4 => exact issue_canonical h (fun _ _ hu => stBody_canonical hu _ _ _) ht
  case vst => exact issue_canonical h (fun _ _ hu => vstBody_canonical hu _ _) ht
  case vsts => exact issue_canonical h (fun _ _ hu => vstsBody_canonical hu _ _) ht
  case adraine => exact issue_canonical h (fun _ _ hu => adraineBody_canonical hu _ _) ht
  case venc => exact issue_canonical h (fun _ _ hu => vencBody_canonical hu _ _) ht
  case spawnd => exact issue_canonical h (fun _ _ hu => spawndBody_canonical hu _ _) ht
  case yield => exact issue_canonical h (fun _ _ hu => yieldBody_canonical hu _ _) ht
  case finish => exact issue_canonical h (fun _ _ hu => finishBody_canonical hu _ _) ht
  case finishCommit => exact guarded_canonical (State.finishCommit_canonical h ..) ht
  case copyComplete | plinthOpComplete => exact guarded_canonical (State.copyComplete_canonical h ..) ht
  case pierUncorrectableRead => exact guarded_canonical (State.pierUe_canonical h ..) ht
  case slotRetire => exact guarded_canonical (State.slotRetire_canonical h ..) ht
  case reduceSlotDone => exact guarded_canonical (State.slotDone_canonical h ..) ht
  case copyCmdDone => exact guarded_canonical (State.copyEnd_canonical h ..) ht
  case oflCopyDone => exact guarded_canonical (State.oflCopyDone_canonical h ..) ht
  case write | writeLast | stepData | stepLast | planData | planLast =>
    exact deliver_canonical h (fun _ hu => State.writeAct_canonical hu ..) ht
  case readData => exact deliver_canonical h (fun _ hu => State.readDataAct_canonical hu ..) ht
  case localPacketRetry => exact guarded_canonical (State.localRetry_canonical h ..) ht
  case bondFetchDone => exact guarded_canonical (State.bondFetched_canonical h ..) ht
  case bu3 => exact next_canonical (State.bu3_canonical h ..) ht
  case bu4 => exact next_canonical (State.bu4_canonical h ..) ht
  case castBegin => exact deliver_canonical h (fun _ hu => State.castBeginAct_canonical hu ..) ht
  case castData => exact deliver_canonical h (fun _ hu => State.castDataAct_canonical hu ..) ht
  case castEnd => exact deliver_canonical h (fun _ hu => State.castEndAct_canonical hu ..) ht
  case restoreData => exact deliver_canonical h (fun _ hu => State.restoreDataAct_canonical hu ..) ht
  case restoreBad => exact deliver_canonical h (fun _ hu => State.restoreBadAct_canonical hu ..) ht
  case bar4Write => exact guarded_canonical (State.bar4Write_canonical h ..) ht
  case perstAssert => exact guarded_canonical (State.perstAssert_canonical h ..) ht
  case inputPowerLoss => exact next_canonical State.inputLoss_canonical ht
  case pwrEnRise => exact next_canonical (State.pwrRise_canonical h ..) ht
  case pwrEnHoldExpiry => exact next_canonical (State.pwrHold_canonical h ..) ht
  case courseStoreUncorrectableRead => exact guarded_canonical (State.courseUe_canonical h ..) ht
  case hostLinkDown => exact guarded_canonical (State.linkDown_canonical h ..) ht
  case corePowerRemoved => exact next_canonical (State.coreRemoved_canonical h ..) ht
  case nop => exact issue_kept h (fun _ u => nopBody_stores u _ _) ht
  case add | sub | mul | and | or | xor | shl | shr | sar => exact issue_kept h (fun _ u => aluOp_stores u _ _ _) ht
  case li => exact issue_kept h (fun _ u => liBody_stores u _ _) ht
  case lih => exact issue_kept h (fun _ u => lihBody_stores u _ _) ht
  case cmp => exact issue_kept h (fun _ u => cmpBody_stores u _ _) ht
  case brz | brnz => exact issue_kept h (fun _ u => branchBody_stores u _ _ _) ht
  case jal => exact issue_kept h (fun _ u => jalBody_stores u _ _) ht
  case ldg | ld4 => exact issue_kept h (fun _ u => ldBody_stores u _ _ _) ht
  case vld => exact issue_kept h (fun _ u => vldBody_stores u _ _) ht
  case vlds => exact issue_kept h (fun _ u => vldsBody_stores u _ _) ht
  case vldd => exact issue_kept h (fun _ u => vlddBody_stores u _ _) ht
  case cpy => exact issue_kept h (fun _ u => cpyBody_stores u _ _) ht
  case cpys => exact issue_kept h (fun _ u => cpysBody_stores u _ _) ht
  case narrow | widen | reblock | pack | expand | gather | scatter | zscan | digest =>
    exact issue_kept h (fun _ u => cpypBody_stores u _ _ _) ht
  case ald => exact issue_kept h (fun _ u => aldBody_stores u _ _) ht
  case bmul => exact issue_kept h (fun _ u => bmulBody_stores u _ _ _) ht
  case aprom => exact issue_kept h (fun _ u => apromBody_stores u _ _) ht
  case adrain => exact issue_kept h (fun _ u => adrainBody_stores u _ _) ht
  case vadd | vsub | vmul | vmax | vmin => exact issue_kept h (fun _ u => vBin_stores u _ _ _) ht
  case vfma => exact issue_kept h (fun _ u => vfmaBody_stores u _ _) ht
  case vcmp => exact issue_kept h (fun _ u => vcmpBody_stores u _ _) ht
  case vsel => exact issue_kept h (fun _ u => vselBody_stores u _ _) ht
  case vexp2 | vlog2 | vrcp | vrsqrt => exact issue_kept h (fun _ u => vUn_stores u _ _ _) ht
  case vcvt => exact issue_kept h (fun _ u => vcvtBody_stores u _ _) ht
  case vbcast => exact issue_kept h (fun _ u => vbcastBody_stores u _ _) ht
  case vperm => exact issue_kept h (fun _ u => vpermBody_stores u _ _) ht
  case vmovg => exact issue_kept h (fun _ u => vmovgBody_stores u _ _) ht
  case rlane => exact issue_kept h (fun _ u => rlaneBody_stores u _ _) ht
  case racc => exact issue_kept h (fun _ u => raccBody_stores u _ _) ht
  case rwel => exact issue_kept h (fun _ u => rwelBody_stores u _ _) ht
  case rscfg => exact issue_kept h (fun _ u => rscfgBody_stores u _ _) ht
  case rcont => exact issue_kept h (fun _ u => rcontBody_stores u _ _) ht
  case rmerge => exact issue_kept h (fun _ u => rmergeBody_stores u _ _) ht
  case finc => exact issue_kept h (fun _ u => fincBody_stores u _ _) ht
  case fwait => exact issue_kept h (fun _ u => fwaitBody_stores u _ _) ht
  case fset => exact issue_kept h (fun _ u => fsetBody_stores u _ _) ht
  case frd => exact issue_kept h (fun _ u => frdBody_stores u _ _) ht
  case karr => exact issue_kept h (fun _ u => karrBody_stores u _ _) ht
  case kwait => exact issue_kept h (fun _ u => kwaitBody_stores u _ _) ht
  case spawn => exact issue_kept h (fun _ u => spawnBody_stores u _ _) ht
  case nput => exact issue_kept h (fun _ u => nputBody_stores u _ _) ht
  case nget => exact issue_kept h (fun _ u => ngetBody_stores u _ _) ht
  case nflag => exact issue_kept h (fun _ u => nflagBody_stores u _ _) ht
  case nstep => exact issue_kept h (fun _ u => nstepBody_stores u _ _) ht
  case sysr => exact issue_kept h (fun _ u => sysrBody_stores u _ _) ht
  case trap => exact issue_kept h (fun _ u => trapBody_stores u _ _) ht
  case cfence => exact issue_kept h (fun _ u => cfenceBody_stores u _ _) ht
  case packetHeadArrival d a p =>
    cases a with
    | port k => exact guarded_canonical (u := s.headPort d k p) (by simpa using h) ht
    | mortar => exact guarded_canonical (u := s.headMortar d p) (by simpa using h) ht
  case wakeGrantInstant | powerSample | throttleTick | telemetryUpdate | heartbeatTick | retransmitTimerExpiry |
      transportGiveUp | refusalBackoffExpiry | refusalGiveUp | fenceRelease | sendFlowClose | restoreChunkDigest |
      restoreApply | castChunkDigest | ckpModReset | frzCtrl | frzNAssert | freeze | dbgGo | dbgReadDone | dbgReq |
      dbgData | bypass | samplePreload | extest | repairRecordWrite | bu1 | bu2 | bu5 | bu6 | bu7 | discoveryEnd | bu8 |
      bu9 | buStageTimeout | inputPowerApply | pwrEnFall | underVoltageLockout | thermalTrip | pwrCapWrite | lowHalfRead |
      highHalfRead | rcRead | registerWrite | smbSetPointer | smbRead | smbWrite | mailboxTake | attestDone | installDone
      | fwUpdateDone | fwCommitDone =>
    exact next_canonical (by simpa using h) ht
  all_goals exact guarded_canonical (by simpa using h) ht

end

/-- Settles O59: a step runs a command (`exec_canonical`) or one cycle of AOCLK, which leaves the stores. -/
theorem storesStayCanonical : Obligations.StoresStayCanonical := by
  unfold Obligations.StoresStayCanonical
  intro s t hl hc hm hstep
  have h : CanonicalStores s.stores := ⟨hl, hc, hm⟩
  have ht : CanonicalStores t.stores := by
    unfold step at hstep
    split at hstep
    · exact next_canonical (by simpa using h) hstep
    · exact exec_canonical (by simpa using h) _ hstep
  exact ht

end Sys2Proof.Machine
end

section
/-!
SUPPORT. Instructions that change their engine alone, at issue; the scalar and branch instructions (R76, R77).
-/
namespace Sys2Proof.Machine

/-- Settles O1, by the definition of a step. -/
theorem stepRunsCommand : Obligations.StepRunsCommand := by
  unfold Obligations.StepRunsCommand
  intro c q s hq
  rw [step, hq]

/-- Settles O60: the reset state is a value, and each conjunct is read off it. -/
theorem resetState : Obligations.ResetState := by
  unfold Obligations.ResetState
  exact ⟨rfl, rfl, rfl, rfl, rfl, rfl, rfl, rfl, rfl⟩

theorem Engine.lane_setV_getD (x : Engine) (d : Nat) (vs : List W32) (q l : Nat) (hl : l < 32) :
    (x.setV d vs).lane q l = if q = d then vs.getD l 0 else x.lane q l := by
  have htake : x.setV d vs = x.setV d (vs.take 32) := by rw [Engine.setV, Engine.setV, List.take_take, min_self]
  rw [htake, Engine.lane_setV _ _ _ (List.length_take_le 32 vs) _ _ hl]
  simp [List.getD_eq_getElem?_getD, List.getElem?_take_of_lt hl]

section
variable {s : State} {e : Nat} {opc : BitVec 8} {f : Fields} {r : Run} (h : Issues s e opc f r)
  (hk : knownOpc opc.toNat = true) {body : Run → State → Except Err State}
include h hk

/-- An instruction whose meaning leaves the state moves the program counter on. -/
theorem issue_onlyPc (hb : ∀ u : State, u = s.modEng r.e Engine.next → body r u = .ok u) :
    ∃ t, guarded (isEngine e) (s.issue e opc f body) = .next t ∧ OnlyPc s t e ((s.eng e).pc + 8) := by
  obtain rfl := h.run_e
  refine ⟨_, guarded_ok h.isEngine _, ?_⟩
  rw [State.issue_ok h hk (hb _ rfl)]
  have hother : ∀ e', e' ≠ r.e → (s.modEng r.e Engine.next).eng e' = s.eng e' :=
    fun e' he => State.eng_modEng_ne _ _ he
  have hself : (s.modEng r.e Engine.next).eng r.e = (s.eng r.e).next := State.eng_modEng_self _ _ _
  split
  · exact onlyPc_of h ⟨rfl, hother⟩ hself
  · exact onlyPc_of h ⟨rfl, hother⟩ hself

variable {g : Engine → Engine}
  (hb : ∀ u : State, u = s.modEng r.e Engine.next → body r u = .ok (u.modEng r.e g))
include hb

theorem issue_modEng :
    ∃ t, guarded (isEngine e) (s.issue e opc f body) = .next t ∧ OnlyEngine s t e ∧ t.eng e = g (s.eng e).next := by
  obtain rfl := h.run_e
  exact issue_onEngine h hk (hb _ rfl)

/-- An instruction whose meaning writes one general register. -/
theorem issue_writesG {d : BitVec 6} {v : W64} (hg : g (s.eng e).next = (s.eng e).next.setG d v) :
    ∃ t, guarded (isEngine e) (s.issue e opc f body) = .next t ∧ WritesG s t e d v ((s.eng e).pc + 8) := by
  obtain ⟨t, ht, honly, heng⟩ := issue_modEng h hk hb
  exact ⟨t, ht, writesG_of h honly (heng.trans hg)⟩

/-- An instruction whose meaning writes one vector register. -/
theorem issue_writesV {d : Nat} {vs : List W32} {lanes : Nat → W32}
    (hg : g (s.eng e).next = (s.eng e).next.setV d vs)
    (hl : ∀ l < 32, vs.getD l 0 = lanes l) :
    ∃ t, guarded (isEngine e) (s.issue e opc f body) = .next t ∧
      WritesV s t e d 1 (fun _ => lanes) ((s.eng e).pc + 8) := by
  obtain ⟨t, ht, honly, heng⟩ := issue_modEng h hk hb
  rw [hg] at heng
  refine ⟨t, ht, honly, ?_, fun q l hlt => ?_⟩
  · rw [heng, Engine.setV_eq, h.next_eq]
  · rw [heng, Engine.lane_setV_getD _ _ _ _ _ hlt, hl l hlt]
    have hq : (d ≤ q ∧ q < d + 1) ↔ q = d := by omega
    simp only [hq]
    rfl

end

theorem aluOp_eq {f : Fields} (hc : f.c = 0) (op : W64 → W64 → W64) (r : Run) (u : State) :
    aluOp f op r u = .ok (u.modEng r.e fun x => x.setG f.d (op (x.gr f.a) (x.y f))) := by
  have hfields : checkFields f .any .any .any .no immAll = .ok () := checkFields_ok (by simp [Use.ok, hc, immAll])
  simp only [aluOp, hfields, bind, Except.bind, onEngine]

/-- R77: each row of the table is `aluOp` with the operation of its row. -/
theorem exec_scalarRows : ∀ row ∈ scalarRows, knownOpc row.2.1.toNat = true ∧
    ∀ e f s, exec (row.1 e f) s = guarded (isEngine e) (s.issue e row.2.1 f (aluOp f row.2.2)) := by
  unfold scalarRows
  repeat refine List.forall_mem_cons.2 ⟨⟨rfl, fun _ _ _ => rfl⟩, ?_⟩
  exact List.forall_mem_nil _

theorem cmpOp_eq (i : BitVec 32) (hi : i ≤ 5) (a b : W64) : cmpOp i.toNat a b = some
    (if i = 0 then a == b else if i = 1 then a != b else if i = 2 then decide (a.toNat < b.toNat)
     else if i = 3 then decide (a.toInt < b.toInt) else if i = 4 then decide (b.toNat ≤ a.toNat)
     else decide (b.toInt ≤ a.toInt)) := by
  have hcases : i = 0 ∨ i = 1 ∨ i = 2 ∨ i = 3 ∨ i = 4 ∨ i = 5 := by bv_omega
  rcases hcases with rfl | rfl | rfl | rfl | rfl | rfl
  · rfl
  · rfl
  · rfl
  · rfl
  · simp [cmpOp, BitVec.ult, ← decide_not]
  · simp [cmpOp, BitVec.slt, ← decide_not]

theorem cmpBody_eq {f : Fields} (hc : f.c = 0) (hi : f.imm ≤ 5) {r : Run} {u : State} {t : Bool}
    (ht : cmpOp f.imm.toNat ((u.eng r.e).gr f.a) ((u.eng r.e).gr f.b) = some t) :
    cmpBody f r u = .ok (u.modEng r.e fun x => x.setG f.d (if t then 1 else 0)) := by
  have hmask : (f.imm &&& ~~~ (7 : BitVec 32)) = 0 := by
    have hcases : f.imm = 0 ∨ f.imm = 1 ∨ f.imm = 2 ∨ f.imm = 3 ∨ f.imm = 4 ∨ f.imm = 5 := by bv_omega
    rcases hcases with h | h | h | h | h | h <;> rw [h] <;> rfl
  have hfields : checkFields f .any .any .any .no 7 = .ok () := checkFields_ok (by rw [hmask]; simp [Use.ok, hc])
  simp only [cmpBody, hfields, bind, Except.bind, ht, onEngine]

/-- CMP writes 1 when its relation holds, and 0 when it does not. -/
theorem issue_cmp {s : State} {e : Nat} {f : Fields} {r : Run} (h : Issues s e 0x0C f r) (hc : f.c = 0) (hi : f.imm ≤ 5)
    {t : Bool} (ht : cmpOp f.imm.toNat ((s.eng e).gr f.a) ((s.eng e).gr f.b) = some t) :
    ∃ u, exec (.cmp e f) s = .next u ∧ WritesG s u e f.d (if t then 1 else 0) ((s.eng e).pc + 8) := by
  obtain rfl := h.run_e
  exact issue_writesG h rfl (fun u hu => cmpBody_eq hc hi (by rw [hu, State.eng_modEng_self]; exact ht)) rfl

theorem nopBody_eq {f : Fields} (hd : f.d = 0) (ha : f.a = 0) (hb : f.b = 0) (hc : f.c = 0) (hi : f.imm = 0) (r : Run)
    (u : State) : nopBody f r u = .ok u := by
  have hfields : checkFields f .no .no .no .no 0 = .ok () := checkFields_ok (by simp [Use.ok, hd, ha, hb, hc, hi])
  simp only [nopBody, hfields, bind, Except.bind]

theorem liBody_eq {f : Fields} (ha : f.a = 0) (hb : f.b = 0) (hc : f.c = 0) (r : Run) (u : State) :
    liBody f r u = .ok (u.modEng r.e fun x => x.setG f.d (sextImm f)) := by
  have hfields : checkFields f .any .no .no .no immAll = .ok () :=
    checkFields_ok (by simp [Use.ok, ha, hb, hc, immAll])
  simp only [liBody, hfields, bind, Except.bind, onEngine]

theorem lihBody_eq {f : Fields} (hb : f.b = 0) (hc : f.c = 0) (r : Run) (u : State) : lihBody f r u =
    .ok (u.modEng r.e fun x => x.setG f.d ((x.gr f.a &&& 0xFFFFFFFF) ||| (f.imm.zeroExtend 64 <<< 32))) := by
  have hfields : checkFields f .any .any .no .no immAll = .ok () := checkFields_ok (by simp [Use.ok, hb, hc, immAll])
  simp only [lihBody, hfields, bind, Except.bind, onEngine]

/-- The change that a branch makes: none, or the program counter, once it has moved on. -/
def Engine.branch (f : Fields) (x : Engine) : Engine :=
  { x with pc := (BitVec.ofNat 64 x.pc - 8 + 8 * sextImm f).toNat }

theorem branchBody_eq {f : Fields} (hd : f.d = 0) (hb : f.b = 0) (hc : f.c = 0) (test : W64 → Bool) (r : Run)
    (u : State) : branchBody f test r u =
      .ok (if test ((u.eng r.e).gr f.a) then u.modEng r.e (Engine.branch f) else u) := by
  have hfields : checkFields f .no .any .no .no immAll = .ok () :=
    checkFields_ok (by simp [Use.ok, hd, hb, hc, immAll])
  simp only [branchBody, hfields, bind, Except.bind, onEngine]
  split <;> rfl

theorem jalBody_eq {f : Fields} (hb : f.b = 0) (hc : f.c = 0) (r : Run) (u : State) : jalBody f r u =
    .ok (u.modEng r.e fun x =>
      { x.setG f.d (BitVec.ofNat 64 x.pc) with pc := (x.gr f.a + 8 * sextImm f).toNat }) := by
  have hfields : checkFields f .any .any .no .no immAll = .ok () := checkFields_ok (by simp [Use.ok, hb, hc, immAll])
  simp only [jalBody, hfields, bind, Except.bind, onEngine]

/-- BRZ and BRNZ: the program counter goes to the target when the test holds, and on by 8 when it does not. -/
theorem issue_branch {s : State} {e : Nat} {opc : BitVec 8} {f : Fields} {r : Run} (h : Issues s e opc f r)
    (hk : knownOpc opc.toNat = true) (hd : f.d = 0) (hb : f.b = 0) (hc : f.c = 0) (test : W64 → Bool) :
    ∃ t, guarded (isEngine e) (s.issue e opc f (branchBody f test)) = .next t ∧
      OnlyPc s t e (if test ((s.eng e).gr f.a) then (BitVec.ofNat 64 (s.eng e).pc + 8 * f.imm.signExtend 64).toNat
        else (s.eng e).pc + 8) := by
  obtain rfl := h.run_e
  have hbody := branchBody_eq hd hb hc test r
  cases htest : test ((s.eng r.e).gr f.a) with
  | true =>
    obtain ⟨t, ht, honly, heng⟩ := issue_modEng h hk (body := branchBody f test) (g := Engine.branch f) fun u hu => by
      rw [hbody, hu, State.eng_modEng_self, Engine.next_gr, htest, if_pos rfl]
    refine ⟨t, ht, honly, ?_⟩
    have hpc : BitVec.ofNat 64 (s.eng r.e).next.pc - 8 = BitVec.ofNat 64 (s.eng r.e).pc := by
      rw [h.next_eq]
      bv_omega
    rw [heng, Engine.branch, hpc, if_pos rfl]
    rfl
  | false =>
    exact issue_onlyPc h hk fun u hu => by rw [hbody, hu, State.eng_modEng_self, Engine.next_gr, htest, if_neg Bool.false_ne_true]

/-- Settles O2: every instruction of the scalar unit is its body at issue, and each body is one change of the engine. -/
theorem scalarInstructions : Obligations.ScalarInstructions := by
  unfold Obligations.ScalarInstructions
  refine ⟨fun row hrow s e f r hi hc => ?_, fun s e f r => ⟨?_, ?_, ?_, ?_⟩, fun s e f r => ⟨?_, ?_, ?_⟩⟩
  · obtain ⟨hk, hexec⟩ := exec_scalarRows row hrow
    rw [hexec]
    exact issue_writesG hi hk (fun u _ => aluOp_eq hc row.2.2 r u) rfl
  · intro hi hd ha hb hc him
    exact issue_onlyPc hi rfl fun u _ => nopBody_eq hd ha hb hc him r u
  · intro hi ha hb hc
    exact issue_writesG hi rfl (fun u _ => liBody_eq ha hb hc r u) rfl
  · intro hi hb hc
    exact issue_writesG hi rfl (fun u _ => lihBody_eq hb hc r u) rfl
  · intro hi hc him
    exact issue_cmp hi hc him (cmpOp_eq _ him _ _)
  · intro hi hd hb hc
    have hbranch := issue_branch hi rfl hd hb hc fun a => a == 0
    simp only [beq_iff_eq] at hbranch
    exact hbranch
  · intro hi hd hb hc
    have hbranch := issue_branch hi rfl hd hb hc fun a => a != 0
    simp only [bne_iff_ne] at hbranch
    exact hbranch
  · intro hi hb hc
    obtain ⟨t, ht, honly, heng⟩ := issue_modEng hi rfl fun u _ => jalBody_eq hb hc r u
    refine ⟨t, ht, honly, ?_, fun q => ?_⟩
    · rw [heng, Engine.setG_eq, hi.next_eq]
      rfl
    · rw [heng, hi.next_eq]
      exact Engine.gr_setG _ _ _ _
end Sys2Proof.Machine
end

section
/-!
SUPPORT. Loads and stores of local store (R78, R82): what a read finds, and the checks of an address.
-/
namespace Sys2Proof.Machine

/-! ## What a program reads of its local store (R82) -/

/-- One of the writes brings byte `b` to offset `a` of the local store of engine `e`. -/
def Brings (outs : List (Loc × List Byte)) (e a : Nat) (b : Byte) : Prop :=
  ∃ w ∈ outs, ∃ d, w.1 = .ls e d ∧ d ≤ a ∧ a < d + w.2.length ∧ w.2[a - d]? = some b

theorem Brings.tail {t : List (Loc × List Byte)} {e a : Nat} {b : Byte} (w : Loc × List Byte) :
    Brings t e a b → Brings (w :: t) e a b
  | ⟨w', hw', h⟩ => ⟨w', List.mem_cons_of_mem _ hw', h⟩

/-- The pairs of old and new bytes that `overlay` gives: the old ones stay, and each new one is the old pair's or one that a
write brings. -/
theorem overlay_getElem? {e off : Nat} : ∀ (outs : List (Loc × List Byte)) (old : List (Byte × Byte)) (i : Nat)
    (p : Byte × Byte), (overlay e off old outs)[i]? = some p →
    ∃ q, old[i]? = some q ∧ p.1 = q.1 ∧ (p.2 = q.2 ∨ Brings outs e (off + i) p.2)
  | [], _, _, p, hp => ⟨p, hp, rfl, .inl rfl⟩
  | (.cs _ _, _) :: t, old, i, p, hp
  | (.pier _, _) :: t, old, i, p, hp => by
    obtain ⟨q, hq, h1, h2⟩ := overlay_getElem? t old i p hp
    exact ⟨q, hq, h1, h2.imp_right (Brings.tail _)⟩
  | (.ls e' d, bs) :: t, old, i, p, hp => by
    obtain ⟨q, hq, h1, h2⟩ := overlay_getElem? t _ i p hp
    by_cases he : e' = e
    · simp only [he, ne_eq, not_true_eq_false, if_false, List.getElem?_map, List.getElem?_zipIdx,
        Option.map_eq_some_iff] at hq
      obtain ⟨_, ⟨q', hq', rfl⟩, hq⟩ := hq
      by_cases hin : d ≤ off + i ∧ off + i < d + bs.length
      · simp only [Nat.zero_add, hin.1, hin.2, decide_true, Bool.and_self, if_true] at hq
        subst hq
        refine ⟨q', hq', h1, .inr ?_⟩
        rcases h2 with h2 | h2
        · have hlt : off + i - d < bs.length := by omega
          refine ⟨_, List.mem_cons_self, d, by rw [he], hin.1, hin.2, ?_⟩
          rw [h2, List.getD_eq_getElem?_getD, List.getElem?_eq_getElem hlt]
          rfl
        · exact h2.tail _
      · have hnot : (decide (d ≤ off + i) && decide (off + i < d + bs.length)) = false := by simpa using hin
        simp only [Nat.zero_add, hnot] at hq
        subst hq
        exact ⟨q', hq', h1, h2.imp_right (Brings.tail _)⟩
    · simp only [ne_eq, he, not_false_eq_true, if_true] at hq
      exact ⟨q, hq, h1, h2.imp_right (Brings.tail _)⟩

theorem mixBytes_getElem? {b : Byte} : ∀ (l : List (Byte × Byte)) (ctr i : Nat),
    (mixBytes ctr l)[i]? = some b → ∃ p, l[i]? = some p ∧ (b = p.1 ∨ b = p.2)
  | [], _, _ => by simp [mixBytes]
  | (x, y) :: t, ctr, 0 => by
    simp only [mixBytes, List.getElem?_cons_zero, Option.some.injEq]
    rintro rfl
    refine ⟨_, rfl, ?_⟩
    split
    · exact .inl rfl
    · split
      · exact .inl rfl
      · exact .inr rfl
  | _ :: t, ctr, i + 1 => by
    simp only [mixBytes, List.getElem?_cons_succ]
    exact mixBytes_getElem? t (ctr + 1) i

/-- R82: a byte read is the store's, or one that an outstanding copy of the engine brings. -/
theorem State.lsRead_getElem? {s : State} {e off n i : Nat} {b : Byte} (h : (s.lsRead e off n)[i]? = some b) :
    (s.readLoc (.ls e off) n)[i]? = some b ∨
    ∃ o ∈ (s.eng e).copies, ∃ w ∈ o.outs, ∃ d, w.1 = .ls e d ∧ d ≤ off + i ∧ off + i < d + w.2.length ∧
      w.2[off + i - d]? = some b := by
  unfold State.lsRead at h
  split at h
  · exact .inl h
  · obtain ⟨p, hp, hb⟩ := mixBytes_getElem? _ _ _ h
    obtain ⟨q, hq, h1, h2⟩ := overlay_getElem? _ _ _ _ hp
    rw [List.getElem?_map, Option.map_eq_some_iff] at hq
    obtain ⟨old, hold, rfl⟩ := hq
    rcases hb with rfl | rfl
    · exact .inl (h1 ▸ hold)
    · rcases h2 with h2 | ⟨w, hw, d, h2⟩
      · exact .inl (h2 ▸ hold)
      · obtain ⟨o, ho, hwo⟩ := List.mem_flatMap.1 hw
        exact .inr ⟨o, ho, w, hwo, d, h2⟩

/-- The program counter does not bear on what the program reads. -/
@[simp] theorem State.lsRead_next (s : State) (e off n : Nat) :
    (s.modEng e Engine.next).lsRead e off n = s.lsRead e off n := by
  unfold State.lsRead
  rw [State.eng_modEng_self]
  rfl

/-! ## The address of an access (R78) -/

theorem lsSpan_ok {off n : Nat} (h : off + n ≤ 0x60000) (hn : 0 < n) : lsSpan off n = .ok () := by
  unfold lsSpan require lsSize
  rw [if_pos (by simp; omega)]

theorem State.lsBytes_ok {s : State} {e off n : Nat} (h : off + n ≤ 0x60000) (hn : 0 < n) :
    s.lsBytes e off n = .ok (s.lsRead e off n) := by rw [State.lsBytes, lsSpan_ok h hn]

theorem lsAccess_ok {a : W64} {n align : Nat} (hn : 0 < n) (h1 : a.toNat % align = 0) (h2 : a.toNat + n ≤ 0x60000) :
    lsAccess a n align = .ok a.toNat := by
  unfold lsAccess
  rw [if_neg (not_not.2 h1), lsSpan_ok h2 hn]

/-- An access that is not aligned or leaves local store is ADDR. -/
theorem lsAccess_error {a : W64} {n align : Nat} (h : a.toNat % align ≠ 0 ∨ 0x60000 < a.toNat + n) :
    ∃ x, lsAccess a n align = .error (faultAddr, x) := by
  unfold lsAccess
  by_cases h1 : a.toNat % align = 0
  · rw [if_neg (not_not.2 h1)]
    have h2 : ¬ (a.toNat < lsSize ∧ a.toNat + n ≤ lsSize) := by unfold lsSize; omega
    unfold lsSpan require
    rw [if_neg (by simpa using h2)]
    exact ⟨_, rfl⟩
  · rw [if_pos h1]
    exact ⟨_, rfl⟩

theorem mapM_except_ok {α β ε : Type} {f : α → Except ε β} {g : α → β} : ∀ (l : List α), (∀ x ∈ l, f x = .ok (g x)) →
    l.mapM f = .ok (l.map g)
  | [], _ => rfl
  | x :: t, h => by
    rw [List.mapM_cons, h x List.mem_cons_self, mapM_except_ok t fun y hy => h y (List.mem_cons_of_mem _ hy)]
    rfl

/-- When every element gives a result or an error that `P` holds of, and some element gives none, the errors show. -/
theorem mapM_except_error {α β ε : Type} {f : α → Except ε β} {P : ε → Prop} : ∀ (l : List α),
    (∀ x ∈ l, (∃ y, f x = .ok y) ∨ ∃ err, f x = .error err ∧ P err) → (∃ x ∈ l, ∃ err, f x = .error err) →
    ∃ err, l.mapM f = .error err ∧ P err
  | [], _, ⟨_, hx, _⟩ => absurd hx List.not_mem_nil
  | x :: t, h, hsome => by
    rw [List.mapM_cons]
    rcases h x List.mem_cons_self with ⟨y, hy⟩ | ⟨err, herr, hP⟩
    · obtain ⟨z, hz, err, hzerr⟩ := hsome
      have hzt : z ∈ t := by
        rcases List.mem_cons.1 hz with rfl | hz
        · rw [hy] at hzerr
          cases hzerr
        · exact hz
      obtain ⟨err', herr', hP⟩ :=
        mapM_except_error t (fun y hy => h y (List.mem_cons_of_mem _ hy)) ⟨z, hzt, err, hzerr⟩
      refine ⟨err', ?_, hP⟩
      rw [hy, herr']
      rfl
    · refine ⟨err, ?_, hP⟩
      rw [herr]
      rfl

/-- The address of lane `i` of a strided access. -/
def laneAddr (a step : W64) (i : Nat) : W64 := a + BitVec.ofNat 64 i * step

theorem laneOffs_ok {a step : W64} (h : ∀ i < 32, (laneAddr a step i).toNat % 4 = 0 ∧
    (laneAddr a step i).toNat + 4 ≤ 0x60000) :
    laneOffs a step = .ok ((List.range 32).map fun i => (laneAddr a step i).toNat) :=
  mapM_except_ok _ fun i hi => lsAccess_ok (by decide) (h i (List.mem_range.1 hi)).1 (h i (List.mem_range.1 hi)).2

theorem laneOffs_error {a step : W64} (h : ∃ i < 32, (laneAddr a step i).toNat % 4 ≠ 0 ∨
    0x60000 < (laneAddr a step i).toNat + 4) : ∃ x, laneOffs a step = .error (faultAddr, x) := by
  obtain ⟨i, hi, hbad⟩ := h
  obtain ⟨err, herr, x, rfl⟩ := mapM_except_error (f := fun i => lsAccess (laneAddr a step i) 4 4)
    (P := fun err => ∃ x, err = (faultAddr, x)) (List.range 32) (fun j _ => by
      by_cases hj : (laneAddr a step j).toNat % 4 ≠ 0 ∨ 0x60000 < (laneAddr a step j).toNat + 4
      · obtain ⟨x, hx⟩ := lsAccess_error hj
        exact .inr ⟨_, hx, x, rfl⟩
      · exact .inl ⟨_, lsAccess_ok (by decide) (by omega) (by omega)⟩)
    ⟨i, List.mem_range.2 hi, let ⟨x, hx⟩ := lsAccess_error hbad; ⟨_, hx⟩⟩
  exact ⟨x, herr⟩

/-! ## Loads (R78) -/

theorem Use.ok_no {x : BitVec 6} (h : x = 0) : Use.no.ok x = true := beq_iff_eq.2 h

theorem Use.ok_vec {x : BitVec 6} (h : x < 32) : Use.vec.ok x = true := decide_eq_true h

theorem immAll_ok (x : BitVec 32) : x &&& ~~~ immAll = 0 := by simp [immAll]

theorem checkFields_of {f : Fields} {d a b c : Use} {m : BitVec 32} (hd : d.ok f.d = true) (ha : a.ok f.a = true)
    (hb : b.ok f.b = true) (hc : c.ok f.c = true) (hm : f.imm &&& ~~~m = 0) : checkFields f d a b c m = .ok () :=
  checkFields_ok (by rw [hd, ha, hb, hc, hm]; rfl)

theorem ldBody_eq {f : Fields} (hb : f.b = 0) (hc : f.c = 0) {n off : Nat} {r : Run} {u : State}
    (hacc : lsAccess ((u.eng r.e).addr f) n n = .ok off) : ldBody f n r u =
      .ok (u.modEng r.e fun x => x.setG f.d (BitVec.ofNat 64 (leNat (u.lsRead r.e off n)))) := by
  have hfields := checkFields_of (f := f) (d := .any) (a := .any) rfl rfl (Use.ok_no hb) (Use.ok_no hc) (immAll_ok _)
  simp only [ldBody, hfields, hacc, bind, Except.bind, onEngine]

theorem vldBody_eq {f : Fields} (hd : f.d < 32) (hb : f.b = 0) (hc : f.c = 0) {off : Nat} {r : Run} {u : State}
    (hacc : lsAccess ((u.eng r.e).addr f) 128 4 = .ok off) : vldBody f r u =
      .ok (u.modEng r.e fun x => x.setV f.d.toNat (bytesLanes (u.lsRead r.e off 128))) := by
  have hfields := checkFields_of (f := f) (a := .any) (Use.ok_vec hd) rfl (Use.ok_no hb) (Use.ok_no hc) (immAll_ok _)
  simp only [vldBody, hfields, hacc, bind, Except.bind, onEngine]

theorem vldsBody_eq {f : Fields} (hd : f.d < 32) (hb : f.b = 0) {offs : List Nat} {r : Run} {u : State}
    (hacc : laneOffs ((u.eng r.e).addr f) ((u.eng r.e).gr f.c) = .ok offs) : vldsBody f r u =
      .ok (u.modEng r.e fun x => x.setV f.d.toNat
        (offs.map fun off => BitVec.ofNat 32 (leNat (u.lsRead r.e off 4)))) := by
  have hfields := checkFields_of (f := f) (a := .any) (c := .any) (Use.ok_vec hd) rfl (Use.ok_no hb) rfl (immAll_ok _)
  simp only [vldsBody, hfields, hacc, bind, Except.bind, onEngine]

theorem chunksAux_getElem? {α : Type} {n : Nat} (hn : 0 < n) : ∀ (k : Nat) (l : List α) (i : Nat),
    l.length ≤ k → n * i < l.length → (chunksAux n k l)[i]? = some ((l.drop (n * i)).take n)
  | 0, _, _, hk, hi => by omega
  | k + 1, l, i, hk, hi => by
    have hne : l.isEmpty = false := by
      rw [List.isEmpty_eq_false_iff]
      rintro rfl
      simp at hi
    rw [chunksAux, hne, if_neg Bool.false_ne_true]
    cases i with
    | zero => rfl
    | succ i =>
      rw [List.getElem?_cons_succ, chunksAux_getElem? hn k (l.drop n) i (by rw [List.length_drop]; omega)
        (by rw [List.length_drop, Nat.lt_sub_iff_add_lt, ← Nat.mul_succ]; exact hi), List.drop_drop, Nat.mul_succ,
        Nat.add_comm]

theorem bytesLanes_getD (bs : List Byte) (l : Nat) (hl : 4 * l < bs.length) :
    (bytesLanes bs).getD l 0 = BitVec.ofNat 32 (leNat ((bs.drop (4 * l)).take 4)) := by
  rw [bytesLanes, List.getD_eq_getElem?_getD, List.getElem?_map, chunks,
    chunksAux_getElem? (by decide) _ _ _ (Nat.le_refl _) hl]
  rfl

theorem mixBytes_length : ∀ (l : List (Byte × Byte)) (ctr : Nat), (mixBytes ctr l).length = l.length
  | [], _ => rfl
  | _ :: t, ctr => by rw [mixBytes, List.length_cons, List.length_cons, mixBytes_length t]

theorem overlay_length {e off : Nat} : ∀ (outs : List (Loc × List Byte)) (old : List (Byte × Byte)),
    (overlay e off old outs).length = old.length
  | [], _ => rfl
  | (.cs _ _, _) :: t, old => overlay_length t old
  | (.pier _, _) :: t, old => overlay_length t old
  | (.ls _ _, _) :: t, old => by
    rw [overlay, overlay_length t]
    split <;> simp

@[simp] theorem State.lsRead_length (s : State) (e off n : Nat) : (s.lsRead e off n).length = n := by
  have hlen : (s.readLoc (.ls e off) n).length = n := Mem.read_length _ _ _
  unfold State.lsRead
  split
  · exact hlen
  · rw [mixBytes_length, overlay_length, List.length_map, hlen]

section
variable {s : State} {e : Nat} {f : Fields} {r : Run}

/-- LDG and LD4. -/
theorem issue_ld {opc : BitVec 8} {n : Nat} (h : Issues s e opc f r) (hk : knownOpc opc.toNat = true) (hn : 0 < n)
    (hb : f.b = 0) (hc : f.c = 0) (halign : ((s.eng e).addr f).toNat % n = 0)
    (hin : ((s.eng e).addr f).toNat + n ≤ 0x60000) :
    ∃ t, guarded (isEngine e) (s.issue e opc f (ldBody f n)) = .next t ∧
      WritesG s t e f.d (BitVec.ofNat 64 (leNat (s.lsRead e ((s.eng e).addr f).toNat n))) ((s.eng e).pc + 8) := by
  obtain rfl := h.run_e
  have hbody := ldBody_eq hb hc (n := n) (r := r) (u := s.modEng r.e Engine.next)
    (by rw [State.eng_modEng_self]; exact lsAccess_ok hn halign hin)
  rw [State.lsRead_next] at hbody
  exact issue_writesG h hk (fun u hu => hu ▸ hbody) rfl

theorem issue_vld (h : Issues s e 0x14 f r) (hd : f.d < 32) (hb : f.b = 0) (hc : f.c = 0)
    (halign : ((s.eng e).addr f).toNat % 4 = 0) (hin : ((s.eng e).addr f).toNat + 128 ≤ 0x60000) :
    ∃ t, exec (.vld e f) s = .next t ∧ WritesV s t e f.d.toNat 1
      (fun _ l => BitVec.ofNat 32 (leNat (((s.lsRead e ((s.eng e).addr f).toNat 128).drop (4 * l)).take 4)))
      ((s.eng e).pc + 8) := by
  obtain rfl := h.run_e
  have hbody := vldBody_eq hd hb hc (r := r) (u := s.modEng r.e Engine.next)
    (by rw [State.eng_modEng_self]; exact lsAccess_ok (by decide) halign hin)
  rw [State.lsRead_next] at hbody
  exact issue_writesV h rfl (fun u hu => hu ▸ hbody) rfl
    fun l hl => bytesLanes_getD _ l (by rw [State.lsRead_length]; omega)

theorem issue_vlds (h : Issues s e 0x16 f r) (hd : f.d < 32) (hb : f.b = 0)
    (hlanes : ∀ i < 32, (laneAddr ((s.eng e).addr f) ((s.eng e).gr f.c) i).toNat % 4 = 0 ∧
      (laneAddr ((s.eng e).addr f) ((s.eng e).gr f.c) i).toNat + 4 ≤ 0x60000) :
    ∃ t, exec (.vlds e f) s = .next t ∧ WritesV s t e f.d.toNat 1
      (fun _ l => BitVec.ofNat 32 (leNat (s.lsRead e (laneAddr ((s.eng e).addr f) ((s.eng e).gr f.c) l).toNat 4)))
      ((s.eng e).pc + 8) := by
  obtain rfl := h.run_e
  have hbody := vldsBody_eq hd hb (r := r) (u := s.modEng r.e Engine.next)
    (by rw [State.eng_modEng_self]; exact laneOffs_ok hlanes)
  simp only [List.map_map, Function.comp_def, State.lsRead_next] at hbody
  refine issue_writesV h rfl (fun u hu => hu ▸ hbody) rfl fun l hl => ?_
  rw [List.getD_eq_getElem?_getD, List.getElem?_map, List.getElem?_range hl]
  rfl

/-! ## Stores (R78) -/

theorem stBody_eq {f : Fields} (hd : f.d = 0) (hc : f.c = 0) {n off : Nat} {r : Run} {u : State}
    (hacc : lsAccess ((u.eng r.e).addr f) n n = .ok off) :
    stBody f n r u = .ok (u.writeLoc (.ls r.e off) (leBytes n ((u.eng r.e).gr f.b).toNat)) := by
  have hfields := checkFields_of (f := f) (a := .any) (b := .any) (Use.ok_no hd) rfl rfl (Use.ok_no hc) (immAll_ok _)
  simp only [stBody, hfields, hacc, bind, Except.bind]

theorem vstBody_eq {f : Fields} (hd : f.d = 0) (hb : f.b < 32) (hc : f.c = 0) {off : Nat} {r : Run} {u : State}
    (hacc : lsAccess ((u.eng r.e).addr f) 128 4 = .ok off) :
    vstBody f r u = .ok (u.writeLoc (.ls r.e off) (laneBytes ((u.eng r.e).vr f.b.toNat))) := by
  have hfields := checkFields_of (f := f) (a := .any) (Use.ok_no hd) rfl (Use.ok_vec hb) (Use.ok_no hc) (immAll_ok _)
  simp only [vstBody, hfields, hacc, bind, Except.bind]

/-- Stores at offsets of the local store of engine `e`, in turn. -/
def State.storeWords (s : State) (e : Nat) (l : List (Nat × W32)) : State :=
  l.foldl (fun s (off, v) => s.writeLoc (.ls e off) (leBytes 4 v.toNat)) s

theorem vstsBody_eq {f : Fields} (hd : f.d = 0) (hb : f.b < 32) {offs : List Nat} {r : Run} {u : State}
    (hacc : laneOffs ((u.eng r.e).addr f) ((u.eng r.e).gr f.c) = .ok offs) :
    vstsBody f r u = .ok (u.storeWords r.e (offs.zip ((u.eng r.e).vr f.b.toNat))) := by
  have hfields := checkFields_of (f := f) (a := .any) (c := .any) (Use.ok_no hd) rfl (Use.ok_vec hb) rfl (immAll_ok _)
  simp only [vstsBody, hfields, hacc, bind, Except.bind, State.storeWords]

theorem State.storeWords_eq (e : Nat) : ∀ (l : List (Nat × W32)) (s : State),
    s.storeWords e l = { s with ls := (s.storeWords e l).ls }
  | [], _ => rfl
  | (off, v) :: t, s => by
    have htail := State.storeWords_eq e t (s.writeLoc (.ls e off) (leBytes 4 v.toNat))
    exact htail

theorem State.storeWords_get (e a : Nat) : ∀ (l : List (Nat × W32)) (s : State),
    Mem.get (s.storeWords e l).ls a = l.foldl (fun old w =>
      if lsKey e w.1 ≤ a ∧ a < lsKey e w.1 + 4 then (leBytes 4 w.2.toNat).getD (a - lsKey e w.1) 0 else old)
      (Mem.get s.ls a)
  | [], _ => rfl
  | (off, v) :: t, s => by
    have hhead := Mem.get_write s.ls (lsKey e off) (leBytes 4 v.toNat) a
    rw [leBytes_length] at hhead
    rw [List.foldl_cons, ← hhead]
    exact State.storeWords_get e a t _

/-- An instruction whose meaning changes the local stores: the engine moves on and nothing else changes. -/
theorem issue_storesOnly {opc : BitVec 8} (h : Issues s e opc f r) (hk : knownOpc opc.toNat = true)
    {body : Run → State → Except Err State} {m : List Host.Cell}
    (hb : body r (s.modEng r.e Engine.next) = .ok { s.modEng r.e Engine.next with ls := m }) :
    ∃ t, guarded (isEngine e) (s.issue e opc f body) = .next t ∧
      t = { s with engines := t.engines, ls := t.ls, freeCtr := t.freeCtr } ∧ (∀ e', e' ≠ e → t.eng e' = s.eng e') ∧
      t.eng e = { s.eng e with pc := (s.eng e).pc + 8 } ∧ t.ls = m := by
  obtain rfl := h.run_e
  refine ⟨_, guarded_ok h.isEngine _, ?_⟩
  rw [State.issue_ok h hk hb]
  have hother : ∀ e', e' ≠ r.e → (s.modEng r.e Engine.next).eng e' = s.eng e' :=
    fun e' he => State.eng_modEng_ne _ _ he
  have hself : (s.modEng r.e Engine.next).eng r.e = { s.eng r.e with pc := (s.eng r.e).pc + 8 } :=
    (State.eng_modEng_self _ _ _).trans h.next_eq
  split
  · exact ⟨rfl, hother, hself, rfl⟩
  · exact ⟨rfl, hother, hself, rfl⟩

/-- An instruction whose meaning stores bytes in its engine's local store. -/
theorem issue_storesLs {opc : BitVec 8} (h : Issues s e opc f r) (hk : knownOpc opc.toNat = true)
    {body : Run → State → Except Err State} {off : Nat} {bs : List Byte}
    (hb : body r (s.modEng r.e Engine.next) = .ok ((s.modEng r.e Engine.next).writeLoc (.ls r.e off) bs)) :
    ∃ t, guarded (isEngine e) (s.issue e opc f body) = .next t ∧ StoresLs s t e off bs ((s.eng e).pc + 8) := by
  obtain ⟨t, ht, hframe, hother, hself, hls⟩ := issue_storesOnly h hk hb
  obtain rfl := h.run_e
  refine ⟨t, ht, hframe, hother, hself, fun a => ?_⟩
  rw [hls]
  exact Mem.get_write _ _ _ _

/-- STG and ST4. -/
theorem issue_st {opc : BitVec 8} {n : Nat} (h : Issues s e opc f r) (hk : knownOpc opc.toNat = true) (hn : 0 < n)
    (hd : f.d = 0) (hc : f.c = 0) (halign : ((s.eng e).addr f).toNat % n = 0)
    (hin : ((s.eng e).addr f).toNat + n ≤ 0x60000) :
    ∃ t, guarded (isEngine e) (s.issue e opc f (stBody f n)) = .next t ∧
      StoresLs s t e ((s.eng e).addr f).toNat (leBytes n ((s.eng e).gr f.b).toNat) ((s.eng e).pc + 8) := by
  obtain rfl := h.run_e
  refine issue_storesLs h hk ?_
  rw [stBody_eq hd hc (by rw [State.eng_modEng_self]; exact lsAccess_ok hn halign hin), State.eng_modEng_self]
  rfl

theorem laneBytes_vr (x : Engine) (q : Nat) :
    laneBytes (x.vr q) = (List.range 32).flatMap fun l => leBytes 4 (x.lane q l).toNat := by
  rw [laneBytes, Engine.vr, List.flatMap_map]

theorem issue_vst (h : Issues s e 0x15 f r) (hd : f.d = 0) (hb : f.b < 32) (hc : f.c = 0)
    (halign : ((s.eng e).addr f).toNat % 4 = 0) (hin : ((s.eng e).addr f).toNat + 128 ≤ 0x60000) :
    ∃ t, exec (.vst e f) s = .next t ∧ StoresLs s t e ((s.eng e).addr f).toNat
      ((List.range 32).flatMap fun l => leBytes 4 ((s.eng e).lane f.b.toNat l).toNat) ((s.eng e).pc + 8) := by
  obtain rfl := h.run_e
  refine issue_storesLs h rfl ?_
  rw [vstBody_eq hd hb hc (by rw [State.eng_modEng_self]; exact lsAccess_ok (by decide) halign hin),
    State.eng_modEng_self, laneBytes_vr]
  rfl

theorem issue_vsts (h : Issues s e 0x17 f r) (hd : f.d = 0) (hb : f.b < 32)
    (hlanes : ∀ i < 32, (laneAddr ((s.eng e).addr f) ((s.eng e).gr f.c) i).toNat % 4 = 0 ∧
      (laneAddr ((s.eng e).addr f) ((s.eng e).gr f.c) i).toNat + 4 ≤ 0x60000) :
    ∃ t, exec (.vsts e f) s = .next t ∧ t = { s with engines := t.engines, ls := t.ls, freeCtr := t.freeCtr } ∧
      (∀ e', e' ≠ e → t.eng e' = s.eng e') ∧ t.eng e = { s.eng e with pc := (s.eng e).pc + 8 } ∧
      ∀ a, Mem.get t.ls a = (List.range 32).foldl (fun old i =>
        let k := lsKey e (laneAddr ((s.eng e).addr f) ((s.eng e).gr f.c) i).toNat
        if k ≤ a ∧ a < k + 4 then (leBytes 4 ((s.eng e).lane f.b.toNat i).toNat).getD (a - k) 0 else old)
        (Mem.get s.ls a) := by
  obtain rfl := h.run_e
  have hbody := vstsBody_eq hd hb (r := r) (u := s.modEng r.e Engine.next)
    (by rw [State.eng_modEng_self]; exact laneOffs_ok hlanes)
  rw [State.storeWords_eq] at hbody
  obtain ⟨t, ht, hframe, hother, hself, hls⟩ := issue_storesOnly h rfl hbody
  refine ⟨t, ht, hframe, hother, hself, fun a => ?_⟩
  rw [hls, State.storeWords_get, State.eng_modEng_self, Engine.next_vr, Engine.vr, List.zip_map', List.foldl_map]
  rfl

/-! ## Faults (R78) -/

/-- An instruction whose meaning is ADDR. -/
theorem issue_addrFault {opc : BitVec 8} (h : Issues s e opc f r) (hk : knownOpc opc.toNat = true)
    {body : Run → State → Except Err State} (hb : ∃ x, body r (s.modEng r.e Engine.next) = .error (faultAddr, x)) :
    ∃ a, guarded (isEngine e) (s.issue e opc f body) = .next ((s.itemFault e 0x02 opc (s.eng e).pc a).choose e) := by
  obtain ⟨x, hb⟩ := hb
  obtain rfl := h.run_e
  refine ⟨x, ?_⟩
  rw [State.issue_error h hk hb, guarded_ok h.isEngine]
  rfl

/-- The meaning of a load or store of `n` bytes is ADDR when its address is not aligned or its bytes leave local store. -/
def AddrChecked (f : Fields) (n align : Nat) (body : Run → State → Except Err State) : Prop :=
  ∀ (r : Run) (u : State), ((u.eng r.e).addr f).toNat % align ≠ 0 ∨ 0x60000 < ((u.eng r.e).addr f).toNat + n →
    ∃ x, body r u = .error (faultAddr, x)

theorem AddrChecked.fault {n align : Nat} {body : Run → State → Except Err State} (hc : AddrChecked f n align body)
    {opc : BitVec 8} (h : Issues s e opc f r) (hk : knownOpc opc.toNat = true)
    (hbad : ((s.eng e).addr f).toNat % align ≠ 0 ∨ 0x60000 < ((s.eng e).addr f).toNat + n) :
    ∃ a, guarded (isEngine e) (s.issue e opc f body) = .next ((s.itemFault e 0x02 opc (s.eng e).pc a).choose e) := by
  refine issue_addrFault h hk (hc r _ ?_)
  rw [State.eng_modEng_self, h.run_e]
  exact hbad

theorem ldBody_addrChecked (hb : f.b = 0) (hc : f.c = 0) (n : Nat) : AddrChecked f n n (ldBody f n) := by
  intro r u hbad
  obtain ⟨x, hx⟩ := lsAccess_error hbad
  have hfields := checkFields_of (f := f) (d := .any) (a := .any) rfl rfl (Use.ok_no hb) (Use.ok_no hc) (immAll_ok _)
  exact ⟨x, by simp only [ldBody, hfields, hx, bind, Except.bind]⟩

theorem stBody_addrChecked (hd : f.d = 0) (hc : f.c = 0) (n : Nat) : AddrChecked f n n (stBody f n) := by
  intro r u hbad
  obtain ⟨x, hx⟩ := lsAccess_error hbad
  have hfields := checkFields_of (f := f) (a := .any) (b := .any) (Use.ok_no hd) rfl rfl (Use.ok_no hc) (immAll_ok _)
  exact ⟨x, by simp only [stBody, hfields, hx, bind, Except.bind]⟩

theorem vldBody_addrChecked (hd : f.d < 32) (hb : f.b = 0) (hc : f.c = 0) : AddrChecked f 128 4 (vldBody f) := by
  intro r u hbad
  obtain ⟨x, hx⟩ := lsAccess_error hbad
  have hfields := checkFields_of (f := f) (a := .any) (Use.ok_vec hd) rfl (Use.ok_no hb) (Use.ok_no hc) (immAll_ok _)
  exact ⟨x, by simp only [vldBody, hfields, hx, bind, Except.bind]⟩

theorem vstBody_addrChecked (hd : f.d = 0) (hb : f.b < 32) (hc : f.c = 0) : AddrChecked f 128 4 (vstBody f) := by
  intro r u hbad
  obtain ⟨x, hx⟩ := lsAccess_error hbad
  have hfields := checkFields_of (f := f) (a := .any) (Use.ok_no hd) rfl (Use.ok_vec hb) (Use.ok_no hc) (immAll_ok _)
  exact ⟨x, by simp only [vstBody, hfields, hx, bind, Except.bind]⟩

/-- Some lane of a strided access is not aligned or leaves local store. -/
def BadLane (x : Engine) (f : Fields) : Prop :=
  ∃ i < 32, (laneAddr (x.addr f) (x.gr f.c) i).toNat % 4 ≠ 0 ∨ 0x60000 < (laneAddr (x.addr f) (x.gr f.c) i).toNat + 4

theorem vldsBody_error (hd : f.d < 32) (hb : f.b = 0) (u : State) (hbad : BadLane (u.eng r.e) f) :
    ∃ x, vldsBody f r u = .error (faultAddr, x) := by
  obtain ⟨x, hx⟩ := laneOffs_error hbad
  have hfields := checkFields_of (f := f) (a := .any) (c := .any) (Use.ok_vec hd) rfl (Use.ok_no hb) rfl (immAll_ok _)
  exact ⟨x, by simp only [vldsBody, hfields, hx, bind, Except.bind]⟩

theorem vstsBody_error (hd : f.d = 0) (hb : f.b < 32) (u : State) (hbad : BadLane (u.eng r.e) f) :
    ∃ x, vstsBody f r u = .error (faultAddr, x) := by
  obtain ⟨x, hx⟩ := laneOffs_error hbad
  have hfields := checkFields_of (f := f) (a := .any) (c := .any) (Use.ok_no hd) rfl (Use.ok_vec hb) rfl (immAll_ok _)
  exact ⟨x, by simp only [vstsBody, hfields, hx, bind, Except.bind]⟩
end

/-- R78: each row of `localRows` checks its address. -/
theorem exec_localRows : ∀ row ∈ localRows, knownOpc row.2.1.toNat = true ∧ ∀ f, row.2.2.2.2 f = true →
    ∃ body, AddrChecked f row.2.2.1 row.2.2.2.1 body ∧
      ∀ e s, exec (row.1 e f) s = guarded (isEngine e) (s.issue e row.2.1 f body) := by
  simp only [localRows, List.forall_mem_cons, Bool.and_eq_true, beq_iff_eq, decide_eq_true_eq]
  refine ⟨⟨rfl, fun f h => ?_⟩, ⟨rfl, fun f h => ?_⟩, ⟨rfl, fun f h => ?_⟩, ⟨rfl, fun f h => ?_⟩, ⟨rfl, fun f h => ?_⟩,
    ⟨rfl, fun f h => ?_⟩, List.forall_mem_nil _⟩
  · exact ⟨_, ldBody_addrChecked h.1 h.2 8, fun _ _ => rfl⟩
  · exact ⟨_, stBody_addrChecked h.1 h.2 8, fun _ _ => rfl⟩
  · exact ⟨_, ldBody_addrChecked h.1 h.2 4, fun _ _ => rfl⟩
  · exact ⟨_, stBody_addrChecked h.1 h.2 4, fun _ _ => rfl⟩
  · exact ⟨_, vldBody_addrChecked h.2 h.1.1 h.1.2, fun _ _ => rfl⟩
  · exact ⟨_, vstBody_addrChecked h.1.1 h.2 h.1.2, fun _ _ => rfl⟩

/-- R78: each row of `laneRows` checks the address of each lane. -/
theorem exec_laneRows : ∀ row ∈ laneRows, knownOpc row.2.1.toNat = true ∧ ∀ f, row.2.2 f = true →
    ∃ body, (∀ r u, BadLane (u.eng r.e) f → ∃ x, body r u = .error (faultAddr, x)) ∧
      ∀ e s, exec (row.1 e f) s = guarded (isEngine e) (s.issue e row.2.1 f body) := by
  simp only [laneRows, List.forall_mem_cons, Bool.and_eq_true, beq_iff_eq, decide_eq_true_eq]
  refine ⟨⟨rfl, fun f h => ?_⟩, ⟨rfl, fun f h => ?_⟩, List.forall_mem_nil _⟩
  · exact ⟨_, fun _ => vldsBody_error h.2 h.1, fun _ _ => rfl⟩
  · exact ⟨_, fun _ => vstsBody_error h.1 h.2, fun _ _ => rfl⟩

/-- Settles O3: each load and store is its body at issue; a byte read comes from the store or from an outstanding copy. -/
theorem localStoreAccess : Obligations.LocalStoreAccess := by
  unfold Obligations.LocalStoreAccess
  refine ⟨fun s e off n i b => State.lsRead_getElem?, fun s e f r => ⟨?_, ?_⟩, fun s e f r => ⟨?_, ?_, ?_⟩,
    fun s e f r => ?_, fun s e f r => ⟨?_, ?_⟩, fun row hrow s e f r hi hf hbad => ?_,
    fun row hrow s e f r hi hf hbad => ?_⟩
  · exact fun hi => issue_ld hi rfl (by decide)
  · exact fun hi => issue_ld hi rfl (by decide)
  · exact fun hi => issue_st hi rfl (by decide)
  · exact fun hi => issue_st hi rfl (by decide)
  · exact fun hi hd hc hb => issue_vst hi hd hb hc
  · exact fun hi hd hb => issue_vsts hi hd hb
  · exact fun hi hb hc hd => issue_vld hi hd hb hc
  · exact fun hi hb hd => issue_vlds hi hd hb
  · obtain ⟨hk, hbody⟩ := exec_localRows row hrow
    obtain ⟨body, hchecked, hexec⟩ := hbody f hf
    rw [hexec]
    exact hchecked.fault hi hk hbad
  · obtain ⟨hk, hbody⟩ := exec_laneRows row hrow
    obtain ⟨body, herror, hexec⟩ := hbody f hf
    rw [hexec]
    refine issue_addrFault hi hk (herror r _ ?_)
    rw [State.eng_modEng_self, hi.run_e]
    exact hbad

end Sys2Proof.Machine
end

section
/-!
SUPPORT. VLDD: the checks that a row passes, and the lanes that it decodes to (R138).
-/
namespace Sys2Proof.Machine

/-! ## VLDD (R138) -/

theorem fmtCheck_shape {s : State} {fmt shape : Nat} (h : s.fmtCheck fmt shape = .ok ()) :
    shape = 0 ∨ shape = 1 ∨ shape = 2 := by
  unfold State.fmtCheck require at h
  split at h
  · rename_i hok
    simp only [fmtScaleOk, Bool.and_eq_true, Bool.or_eq_true, beq_iff_eq] at hok
    obtain ⟨⟨_, (h0 | h1) | h2⟩, _⟩ := hok
    · exact .inl h0
    · exact .inr (.inl h1.1)
    · exact .inr (.inr h2.1)
  · cases h

/-- The bytes of scale that a row of VLDD has. -/
def vlddScale (shape : Nat) : Nat := if shape = 1 then 8 else if shape = 2 then 1 else 0

/-- The lanes that VLDD decodes from the bytes of its row and of its fine scales. -/
def vlddLanes (fmt shape : Nat) (c : Int) (row scale : List Byte) : List W32 :=
  let fs := unpackRow (fmtBits fmt) row
  let codes := if shape = 0 then [0] else scale.map (·.toNat)
  ((if shape = 1 then chunks 4 fs else [fs]).zip codes).flatMap fun (b, code) => vlddBlock fmt shape code c b

theorem vlddBody_eq {f : Fields} (hd : f.d < 32) {fmt shape : Nat} (him : f.imm &&& 0xFFFFFFC0 = 0)
    (hfmt : bits f.imm.toNat 3 0 = fmt) (hshape : bits f.imm.toNat 5 4 = shape) {r : Run} {u : State}
    (hcheck : u.fmtCheck fmt shape = .ok ()) {c : Int} (hcoarse : (u.eng r.e).coarse f.c = .ok c)
    (hrow : lsSpan ((u.eng r.e).gr f.a).toNat (rowBytes fmt 32) = .ok ())
    (hscale : shape = 0 ∨ lsSpan ((u.eng r.e).gr f.b).toNat (vlddScale shape) = .ok ())
    (hcodes : shape = 1 → ∀ b ∈ u.lsRead r.e ((u.eng r.e).gr f.b).toNat 8, b.toNat < 0x80) :
    vlddBody f r u = .ok (u.modEng r.e fun x => x.setV f.d.toNat (vlddLanes fmt shape c
      (u.lsRead r.e ((u.eng r.e).gr f.a).toNat (rowBytes fmt 32))
      (u.lsRead r.e ((u.eng r.e).gr f.b).toNat (vlddScale shape)))) := by
  have hfields := checkFields_of (f := f) (m := 0x3F) (a := .any) (b := .any) (c := .any) (Use.ok_vec hd) rfl rfl rfl him
  have hvalid : require (!(shape == 1 && (if shape = 0 then [0] else
      (u.lsRead r.e ((u.eng r.e).gr f.b).toNat (vlddScale shape)).map (·.toNat)).any (· ≥ 0x80))) (err faultFormat) =
      .ok () := by
    unfold require
    rw [if_pos]
    rw [Bool.not_eq_true', Bool.and_eq_false_iff]
    by_cases h1 : shape = 1
    · subst h1
      refine .inr (List.any_eq_false.2 fun x hx => ?_)
      obtain ⟨b, hb, rfl⟩ := List.mem_map.1 hx
      simpa using hcodes rfl b hb
    · exact .inl (beq_false_of_ne h1)
  rw [vlddScale] at hscale hvalid
  simp only [vlddBody, hfields, hfmt, hshape, hcheck, hcoarse, hrow, hvalid, bind, Except.bind, onEngine, vlddLanes,
    vlddScale]
  rcases hscale with rfl | h
  · rfl
  · simp only [h, ite_self]

theorem lsSpan_of {off n : Nat} (h1 : off < 0x60000) (h2 : off + n ≤ 0x60000) : lsSpan off n = .ok () := by
  unfold lsSpan require lsSize
  rw [if_pos (by simp; omega)]

/-- Settles O4: VLDD is its body at issue, and its checks pass under the statement's hypotheses. -/
theorem vectorDecode : Obligations.VectorDecode := by
  unfold Obligations.VectorDecode
  intro s e f r c hi hd him hcheck hcoarse hrow hrow' hscale hcodes
  obtain rfl := hi.run_e
  have hsize : bits f.imm.toNat 5 4 = 0 ∨
      vlddScale (bits f.imm.toNat 5 4) = if bits f.imm.toNat 5 4 = 1 then 8 else 1 := by
    rcases fmtCheck_shape hcheck with h | h | h
    · exact .inl h
    · exact .inr (by rw [h]; rfl)
    · exact .inr (by rw [h]; rfl)
  have hspan : bits f.imm.toNat 5 4 = 0 ∨
      lsSpan ((s.eng r.e).gr f.b).toNat (vlddScale (bits f.imm.toNat 5 4)) = .ok () := by
    rcases hsize with h | h
    · exact .inl h
    · refine hscale.imp_right fun hin => ?_
      rw [h]
      exact lsSpan_ok hin (by split <;> decide)
  have hbody := vlddBody_eq hd him rfl rfl (r := r) (u := s.modEng r.e Engine.next) hcheck (c := c)
    (by rw [State.eng_modEng_self]; exact hcoarse)
    (by rw [State.eng_modEng_self]; exact lsSpan_of hrow' hrow)
    (by rw [State.eng_modEng_self]; exact hspan)
    (by rw [State.eng_modEng_self, State.lsRead_next]; exact hcodes)
  rw [State.eng_modEng_self, State.lsRead_next, State.lsRead_next] at hbody
  refine issue_writesV hi rfl (fun u hu => hu ▸ hbody) rfl fun l _ => ?_
  rcases hsize with h | h
  · simp only [vlddLanes, h, if_true]
    rfl
  · simp only [vlddLanes, h]
    rfl

end Sys2Proof.Machine
end

section
/-!
SUPPORT. Vector instructions, lane by lane (R91).
-/
namespace Sys2Proof.Machine

/-! ## Lane by lane (R91) -/

@[simp] theorem Engine.vr_length (x : Engine) (q : Nat) : (x.vr q).length = 32 := by simp [Engine.vr]

theorem Engine.vr_getElem? (x : Engine) (q : Nat) {l : Nat} (hl : l < 32) : (x.vr q)[l]? = some (x.lane q l) := by
  rw [Engine.vr, List.getElem?_map, List.getElem?_range hl]
  rfl

theorem map_vr_getD {α : Type} (op : W32 → α) (x : Engine) (q : Nat) (d : α) {l : Nat} (hl : l < 32) :
    ((x.vr q).map op).getD l d = op (x.lane q l) := by
  rw [List.getD_eq_getElem?_getD, List.getElem?_map, Engine.vr_getElem? _ _ hl]
  rfl

theorem zipWith_vr_getD {α : Type} (op : W32 → W32 → α) (x : Engine) (p q : Nat) (d : α) {l : Nat} (hl : l < 32) :
    (List.zipWith op (x.vr p) (x.vr q)).getD l d = op (x.lane p l) (x.lane q l) := by
  rw [List.getD_eq_getElem?_getD, List.getElem?_zipWith, Engine.vr_getElem? _ _ hl, Engine.vr_getElem? _ _ hl]
  rfl

theorem range_map_getD {α : Type} (g : Nat → α) (d : α) {l : Nat} (hl : l < 32) :
    ((List.range 32).map g).getD l d = g l := by
  rw [List.getD_eq_getElem?_getD, List.getElem?_map, List.getElem?_range hl]
  rfl

theorem vBin_eq {f : Fields} (hd : f.d < 32) (ha : f.a < 32) (hb : f.b < 32) (hc : f.c = 0) (him : f.imm = 0)
    (op : W32 → W32 → W32) (r : Run) (u : State) : vBin op f r u =
      .ok (u.modEng r.e fun x => x.setV f.d.toNat (List.zipWith op (x.vr f.a.toNat) (x.vr f.b.toNat))) := by
  have hfields := checkFields_of (f := f) (m := 0) (Use.ok_vec hd) (Use.ok_vec ha) (Use.ok_vec hb) (Use.ok_no hc)
    (by rw [him]; rfl)
  simp only [vBin, hfields, bind, Except.bind, onEngine]

theorem vUn_eq {f : Fields} (hd : f.d < 32) (ha : f.a < 32) (hb : f.b = 0) (hc : f.c = 0) (him : f.imm = 0)
    (op : W32 → W32) (r : Run) (u : State) :
    vUn op f r u = .ok (u.modEng r.e fun x => x.setV f.d.toNat ((x.vr f.a.toNat).map op)) := by
  have hfields := checkFields_of (f := f) (m := 0) (Use.ok_vec hd) (Use.ok_vec ha) (Use.ok_no hb) (Use.ok_no hc)
    (by rw [him]; rfl)
  simp only [vUn, hfields, bind, Except.bind, onEngine]

theorem exec_vectorRows2 : ∀ row ∈ vectorRows2, knownOpc row.2.1.toNat = true ∧
    ∀ e f s, exec (row.1 e f) s = guarded (isEngine e) (s.issue e row.2.1 f (vBin row.2.2 f)) := by
  unfold vectorRows2
  repeat refine List.forall_mem_cons.2 ⟨⟨rfl, fun _ _ _ => rfl⟩, ?_⟩
  exact List.forall_mem_nil _

theorem exec_vectorRows1 : ∀ row ∈ vectorRows1, knownOpc row.2.1.toNat = true ∧
    ∀ e f s, exec (row.1 e f) s = guarded (isEngine e) (s.issue e row.2.1 f (vUn row.2.2 f)) := by
  unfold vectorRows1
  repeat refine List.forall_mem_cons.2 ⟨⟨rfl, fun _ _ _ => rfl⟩, ?_⟩
  exact List.forall_mem_nil _

/-! ## NaN (R91) -/

theorem isNan32_iff {a : W32} : isNan32 a = true ↔ dec32 a = .nan := by simp [isNan32]

@[simp] theorem FV.nan_add (x : FV) : FV.nan.add x = .nan := by cases x <;> rfl
@[simp] theorem FV.add_nan (x : FV) : x.add .nan = .nan := by cases x <;> rfl
@[simp] theorem FV.nan_mul (x : FV) : FV.nan.mul x = .nan := by cases x <;> rfl
@[simp] theorem FV.mul_nan (x : FV) : x.mul .nan = .nan := by cases x <;> rfl
@[simp] theorem FV.neg_nan : FV.nan.neg = .nan := rfl

/-- A NaN operand of a binary operation gives the canonical NaN, and no order. -/
theorem binary_nan {a b : W32} (h : isNan32 a = true ∨ isNan32 b = true) :
    fadd a b = 0x7FC00000 ∧ fsub a b = 0x7FC00000 ∧ fmul a b = 0x7FC00000 ∧ fmax a b = 0x7FC00000 ∧
    fmin a b = 0x7FC00000 ∧ fcmp 0 a b = false ∧ fcmp 1 a b = false ∧ fcmp 2 a b = false ∧ fcmp 3 a b = true := by
  have hun : (isNan32 a || isNan32 b) = true := Bool.or_eq_true_iff.2 h
  have hmax : fmax a b = qnan32 := by rw [fmax, if_pos hun]
  have hmin : fmin a b = qnan32 := by rw [fmin, if_pos hun]
  have harith : fadd a b = qnan32 ∧ fsub a b = qnan32 ∧ fmul a b = qnan32 := by
    rcases h with h | h
    · simp [fadd, fsub, fmul, isNan32_iff.1 h, enc32]
    · simp [fadd, fsub, fmul, isNan32_iff.1 h, enc32]
  exact ⟨harith.1, harith.2.1, harith.2.2, hmax, hmin, by simp [fcmp, hun], by simp [fcmp, hun], by simp [fcmp, hun],
    by simp [fcmp, hun]⟩

/-- A NaN operand of a special function gives the canonical NaN, and zero as an integer. -/
theorem unary_nan {a : W32} (h : isNan32 a = true) : fexp2 a = 0x7FC00000 ∧ flog2 a = 0x7FC00000 ∧
    frcp a = 0x7FC00000 ∧ frsqrt a = 0x7FC00000 ∧ fToInt a = 0 := by
  have hd := isNan32_iff.1 h
  have hrcp : frcp a = qnan32 := by
    unfold frcp fdiv
    rw [hd]
    cases dec32 0x3F800000 <;> rfl
  exact ⟨by rw [fexp2, hd]; rfl, by rw [flog2, hd]; rfl, hrcp, by rw [frsqrt, hd]; rfl, by rw [fToInt, hd]⟩

/-- Settles O5: each instruction is its body at issue, lane by lane; the NaN facts follow the definitions of the operations. -/
theorem vectorArithmeticAndSpecials : Obligations.VectorArithmeticAndSpecials := by
  unfold Obligations.VectorArithmeticAndSpecials
  refine ⟨⟨fun row hrow s e f r hi hd ha hb hc him => ?_, fun row hrow s e f r hi hd ha hb hc him => ?_⟩,
    fun a b => binary_nan, fun a => unary_nan, by decide, by decide, by decide, by decide, by decide⟩
  · obtain ⟨hk, hexec⟩ := exec_vectorRows2 row hrow
    rw [hexec]
    exact issue_writesV hi hk (fun u _ => vBin_eq hd ha hb hc him _ r u) rfl
      fun l hl => zipWith_vr_getD _ _ _ _ _ hl
  · obtain ⟨hk, hexec⟩ := exec_vectorRows1 row hrow
    rw [hexec]
    exact issue_writesV hi hk (fun u _ => vUn_eq hd ha hb hc him _ r u) rfl fun l hl => map_vr_getD _ _ _ _ hl

/-! ## The other vector instructions (R91) -/

theorem vfmaBody_eq {f : Fields} (hd : f.d < 32) (ha : f.a < 32) (hb : f.b < 32) (hc : f.c < 32) (him : f.imm = 0)
    (r : Run) (u : State) : vfmaBody f r u = .ok (u.modEng r.e fun x => x.setV f.d.toNat
      (List.zipWith (fun (p : W32 × W32) c => ffma p.1 p.2 c) ((x.vr f.a.toNat).zip (x.vr f.b.toNat))
        (x.vr f.c.toNat))) := by
  have hfields := checkFields_of (f := f) (m := 0) (Use.ok_vec hd) (Use.ok_vec ha) (Use.ok_vec hb) (Use.ok_vec hc)
    (by rw [him]; rfl)
  simp only [vfmaBody, hfields, bind, Except.bind, onEngine]

theorem vfma_getD (x : Engine) (p q t : Nat) {l : Nat} (hl : l < 32) :
    (List.zipWith (fun (p : W32 × W32) c => ffma p.1 p.2 c) ((x.vr p).zip (x.vr q)) (x.vr t)).getD l 0 =
      ffma (x.lane p l) (x.lane q l) (x.lane t l) := by
  have hpair : ((x.vr p).zip (x.vr q))[l]? = some (x.lane p l, x.lane q l) :=
    List.getElem?_zip_eq_some.2 ⟨Engine.vr_getElem? x p hl, Engine.vr_getElem? x q hl⟩
  rw [List.getD_eq_getElem?_getD, List.getElem?_zipWith, hpair, Engine.vr_getElem? _ _ hl]
  rfl

theorem maskOf_testBit : ∀ (l : List Bool) (i : Nat), (maskOf l).testBit i = l.getD i false
  | [], i => Nat.zero_testBit i
  | b :: t, 0 => by cases b <;> simp [maskOf, b2n]
  | b :: t, i + 1 => by
    have hhalf : (b2n b + 2 * maskOf t) / 2 = maskOf t := by
      unfold b2n
      split <;> omega
    rw [maskOf, Nat.testBit_succ, hhalf, maskOf_testBit t i]
    rfl

theorem vcmpBody_eq {f : Fields} (ha : f.a < 32) (hb : f.b < 32) (hc : f.c = 0) (him : f.imm ≤ 3) (r : Run)
    (u : State) : vcmpBody f r u = .ok (u.modEng r.e fun x => x.setG f.d
      (BitVec.ofNat 64 (maskOf (List.zipWith (fcmp f.imm.toNat) (x.vr f.a.toNat) (x.vr f.b.toNat))))) := by
  have hmask : f.imm &&& ~~~ 3 = 0 := by
    have hcases : f.imm = 0 ∨ f.imm = 1 ∨ f.imm = 2 ∨ f.imm = 3 := by bv_omega
    rcases hcases with h | h | h | h <;> rw [h] <;> rfl
  have hfields := checkFields_of (f := f) (d := .any) rfl (Use.ok_vec ha) (Use.ok_vec hb) (Use.ok_no hc) hmask
  simp only [vcmpBody, hfields, bind, Except.bind, onEngine]

theorem vcmp_getLsbD (op : W32 → W32 → Bool) (x : Engine) (p q i : Nat) (hi : i < 64) :
    (BitVec.ofNat 64 (maskOf (List.zipWith op (x.vr p) (x.vr q)))).getLsbD i =
      (decide (i < 32) && op (x.lane p i) (x.lane q i)) := by
  rw [BitVec.getLsbD_ofNat, maskOf_testBit, decide_eq_true hi, Bool.true_and]
  by_cases h : i < 32
  · rw [zipWith_vr_getD _ _ _ _ _ h, decide_eq_true h, Bool.true_and]
  · rw [decide_eq_false h, Bool.false_and, List.getD_eq_default]
    simpa using h

theorem vselBody_eq {f : Fields} (hd : f.d < 32) (ha : f.a < 32) (hb : f.b < 32) (him : f.imm = 0) (r : Run)
    (u : State) : vselBody f r u = .ok (u.modEng r.e fun x => x.setV f.d.toNat ((List.range 32).map fun i =>
      if (x.gr f.c).getLsbD i then x.lane f.a.toNat i else x.lane f.b.toNat i)) := by
  have hfields := checkFields_of (f := f) (m := 0) (c := .any) (Use.ok_vec hd) (Use.ok_vec ha) (Use.ok_vec hb) rfl
    (by rw [him]; rfl)
  simp only [vselBody, hfields, bind, Except.bind, onEngine]

theorem vcvtBody_eq {f : Fields} (hd : f.d < 32) (ha : f.a < 32) (hb : f.b = 0) (hc : f.c = 0) (him : f.imm ≤ 1)
    (r : Run) (u : State) : vcvtBody f r u =
      .ok (u.modEng r.e fun x => x.setV f.d.toNat ((x.vr f.a.toNat).map (if f.imm = 0 then fToInt else intToF))) := by
  have hmask : f.imm &&& ~~~ 1 = 0 := by
    have hcases : f.imm = 0 ∨ f.imm = 1 := by bv_omega
    rcases hcases with h | h <;> rw [h] <;> rfl
  have hfields := checkFields_of (f := f) (Use.ok_vec hd) (Use.ok_vec ha) (Use.ok_no hb) (Use.ok_no hc) hmask
  simp only [vcvtBody, hfields, bind, Except.bind, onEngine]

theorem vbcastBody_eq {f : Fields} (hd : f.d < 32) (hb : f.b = 0) (hc : f.c = 0) (him : f.imm = 0) (r : Run)
    (u : State) : vbcastBody f r u =
      .ok (u.modEng r.e fun x => x.setV f.d.toNat (List.replicate 32 ((x.gr f.a).setWidth 32))) := by
  have hfields := checkFields_of (f := f) (m := 0) (a := .any) (Use.ok_vec hd) rfl (Use.ok_no hb) (Use.ok_no hc)
    (by rw [him]; rfl)
  simp only [vbcastBody, hfields, bind, Except.bind, onEngine]

theorem vpermBody_eq {f : Fields} (hd : f.d < 32) (ha : f.a < 32) (hb : f.b < 32) (hc : f.c = 0) (him : f.imm = 0)
    (r : Run) (u : State) : vpermBody f r u = .ok (u.modEng r.e fun x => x.setV f.d.toNat
      ((x.vr f.b.toNat).map fun i => x.lane f.a.toNat (i.toNat % 32))) := by
  have hfields := checkFields_of (f := f) (m := 0) (Use.ok_vec hd) (Use.ok_vec ha) (Use.ok_vec hb) (Use.ok_no hc)
    (by rw [him]; rfl)
  simp only [vpermBody, hfields, bind, Except.bind, onEngine]

theorem vmovgBody_eq {f : Fields} (hb : f.b < 32) (hc : f.c = 0) (him : f.imm = 0) (r : Run) (u : State) :
    vmovgBody f r u = .ok (u.modEng r.e fun x => x.setG f.d
      ((x.lane f.b.toNat ((x.gr f.a).toNat % 32)).setWidth 64)) := by
  have hfields := checkFields_of (f := f) (m := 0) (d := .any) (a := .any) rfl rfl (Use.ok_vec hb) (Use.ok_no hc)
    (by rw [him]; rfl)
  simp only [vmovgBody, hfields, bind, Except.bind, onEngine]

/-- Settles O6: each instruction is its body at issue. -/
theorem vectorMoves : Obligations.VectorMoves := by
  unfold Obligations.VectorMoves
  intro s e f r
  refine ⟨?_, ?_, ?_, ?_, ?_, ?_, ?_⟩
  · intro hi hd ha hb hc him
    exact issue_writesV hi rfl (fun u _ => vfmaBody_eq hd ha hb hc him r u) rfl fun l hl => vfma_getD _ _ _ _ hl
  · intro hi ha hb hc him
    obtain ⟨t, ht, hw⟩ := issue_writesG hi rfl (fun u _ => vcmpBody_eq ha hb hc him r u) rfl
    exact ⟨t, _, ht, hw, fun i => vcmp_getLsbD _ _ _ _ i⟩
  · intro hi hd ha hb him
    exact issue_writesV hi rfl (fun u _ => vselBody_eq hd ha hb him r u) rfl fun l hl => range_map_getD _ _ hl
  · intro hi hd ha hb hc him
    exact issue_writesV hi rfl (fun u _ => vcvtBody_eq hd ha hb hc him r u) rfl fun l hl => map_vr_getD _ _ _ _ hl
  · intro hi hd hb hc him
    refine issue_writesV hi rfl (fun u _ => vbcastBody_eq hd hb hc him r u) rfl fun l hl => ?_
    rw [List.getD_eq_getElem?_getD, List.getElem?_replicate_of_lt hl]
    rfl
  · intro hi hd ha hb hc him
    exact issue_writesV hi rfl (fun u _ => vpermBody_eq hd ha hb hc him r u) rfl
      fun l hl => map_vr_getD (fun i => (s.eng e).lane f.a.toNat (i.toNat % 32)) _ _ _ hl
  · intro hi hb hc him
    exact issue_writesG hi rfl (fun u _ => vmovgBody_eq hb hc him r u) rfl

end Sys2Proof.Machine
end

section
/-!
SUPPORT. ALD, APROM and ADRAIN: the buffers, accumulator sets and vector registers of an engine (R84 to R88, R163).
-/
namespace Sys2Proof.Machine

/-! ## Registers, buffers and accumulator sets of an engine (R84) -/

theorem Engine.buf_setBuf (x : Engine) (d b : Nat) (t : Tile) :
    (x.setBuf d t).buf b = if b = d then t else x.buf b := Tab.get_put _ _ _ _ _

theorem Engine.acc_setAcc (x : Engine) (d a : Nat) (v : AccSet) :
    (x.setAcc d v).acc a = if a = d then v else x.acc a := Tab.get_put _ _ _ _ _

theorem Engine.setVs_eq : ∀ (vss : List (List W32)) (x : Engine) (d : Nat),
    x.setVs d vss = { x with v := (x.setVs d vss).v }
  | [], _, _ => rfl
  | vs :: t, x, d => by rw [Engine.setVs, Engine.setVs_eq t]; rfl

theorem Engine.lane_setVs {l : Nat} (hl : l < 32) : ∀ (vss : List (List W32)) (x : Engine) (d q : Nat),
    (x.setVs d vss).lane q l =
      if d ≤ q ∧ q < d + vss.length then (vss.getD (q - d) []).getD l 0 else x.lane q l
  | [], x, d, q => by rw [if_neg (by simp)]; rfl
  | vs :: t, x, d, q => by
    rw [Engine.setVs, Engine.lane_setVs hl t, Engine.lane_setV_getD _ _ _ _ _ hl, List.length_cons]
    by_cases hq : q = d
    · subst hq
      rw [if_neg (by omega), if_pos rfl, if_pos (by omega), Nat.sub_self]
      rfl
    · by_cases hin : d + 1 ≤ q ∧ q < d + 1 + t.length
      · have hsub : q - d = (q - (d + 1)) + 1 := by omega
        rw [if_pos hin, if_pos (by omega), hsub]
        rfl
      · rw [if_neg hin, if_neg hq, if_neg (by omega)]

/-! ## ALD (R84, R85) -/

@[simp] theorem State.aldFetch_next (s : State) (e : Nat) (i : AldImm) (c : Int) (a b : Nat) :
    (s.modEng e Engine.next).aldFetch e i c a b = s.aldFetch e i c a b := by
  simp only [State.aldFetch, State.lsRead_next]

/-- What an ALD finds for its buffer. -/
def State.AldFinds (s : State) (r : Run) (f : Fields) (c : Int) (tile : Tile) : Prop :=
  let i := aldImm f.imm.toNat
  if i.kq = 0 then tile = { k := 0, fmt := i.fmt, sparse := i.sparse, rows := [] }
  else i.fits ((s.eng r.e).gr f.a).toNat ((s.eng r.e).gr f.b).toNat = true ∧
    s.aldFetch r.e i c ((s.eng r.e).gr f.a).toNat ((s.eng r.e).gr f.b).toNat = some tile

theorem aldBody_eq {f : Fields} (hd : f.d ≤ 3) {r : Run} {u : State} {c : Int} {tile : Tile}
    (hcheck : u.fmtCheck (aldImm f.imm.toNat).fmt (aldImm f.imm.toNat).scale = .ok ())
    (hsparse : u.fullNumeric = true ∨ (aldImm f.imm.toNat).sparse = 0) (hcoarse : (u.eng r.e).coarse f.c = .ok c)
    (hok : aldOk (aldImm f.imm.toNat) = true) (hfind : u.AldFinds r f c tile) :
    aldBody f r u = .ok (u.modEng r.e fun x => x.setBuf f.d.toNat tile) := by
  have hfields := checkFields_of (f := f) (d := .any) (a := .any) (b := .any) (c := .any) rfl rfl rfl rfl (immAll_ok _)
  have hregs : (decide (f.d ≤ 3)) = true := decide_eq_true hd
  have hdense : (u.fullNumeric || (aldImm f.imm.toNat).sparse == 0) = true := by simpa using hsparse
  simp only [State.AldFinds] at hfind
  simp only [aldBody, hfields, hregs, hcheck, hdense, hcoarse, hok, require, bind, Except.bind, if_true, onEngine]
  split at hfind
  · rename_i hk
    rw [if_pos hk, hfind]
  · rename_i hk
    simp only [if_neg hk, hfind.1, if_true, hfind.2]

/-! ## APROM and ADRAIN (R87, R88, R163) -/

/-- APROM's change of its engine. -/
def Engine.promote (n : Nat) (x : Engine) : Engine := (x.setAcc n (x.acc n).close.1).status (x.acc n).close.2

theorem apromBody_eq {f : Fields} (hd : f.d ≤ 1) (ha : f.a = 0) (hb : f.b = 0) (hc : f.c = 0) (him : f.imm = 0)
    (r : Run) (u : State) : apromBody f r u = .ok (u.modEng r.e (Engine.promote f.d.toNat)) := by
  have hfields := checkFields_of (f := f) (m := 0) (d := .any) rfl (Use.ok_no ha) (Use.ok_no hb) (Use.ok_no hc)
    (by rw [him]; rfl)
  have hregs : (decide (f.d ≤ 1)) = true := decide_eq_true hd
  simp only [apromBody, hfields, hregs, require, bind, Except.bind, if_true, onEngine]
  rfl

/-- The rows of a set that ADRAIN drains. -/
def AccSet.drained (a : AccSet) (first rows : Nat) : List (List (W32 × BitVec 3)) :=
  (List.range rows).map fun i => (List.range 32).map fun j => (a.cell (first + i) j).drain

/-- Drained rows go to consecutive vector registers. -/
def Engine.takeRows (d : Nat) (out : List (List (W32 × BitVec 3))) (x : Engine) : Engine :=
  x.setVs d (out.map fun row => row.map (·.1))

theorem Engine.takeRows_eq (d : Nat) (out : List (List (W32 × BitVec 3))) (x : Engine) :
    x.takeRows d out = { x with v := (x.takeRows d out).v } := Engine.setVs_eq _ x d

/-- The status bits of drained rows, joined to those of the closing window. -/
def rowsStatus (b : BitVec 3) (out : List (List (W32 × BitVec 3))) : BitVec 3 :=
  out.foldl (fun b row => row.foldl (fun b c => b ||| c.2) b) b

/-- ADRAIN's change of its engine. -/
def Engine.drain (d n first rows : Nat) (clear : Bool) (x : Engine) : Engine :=
  let out := (x.acc n).close.1.drained first rows
  ((x.takeRows d out).setAcc n (if clear then AccSet.clear else (x.acc n).close.1)).status
    (rowsStatus (x.acc n).close.2 out)

/-- An operand with all its bits within a mask is no use of the bits outside it. -/
theorem imm_within {x m : BitVec 32} {k : Nat} (hx : x.toNat < 2 ^ k) (hm : ∀ i < k, m.getLsbD i = true) :
    x &&& ~~~m = 0 := by
  refine BitVec.eq_of_getLsbD_eq fun i hi => ?_
  by_cases hik : i < k
  · simp [hi, hm i hik]
  · have hbit : x.getLsbD i = false :=
      Nat.testBit_lt_two_pow (hx.trans_le (Nat.pow_le_pow_right (by decide) (by omega)))
    simp [hbit]

theorem drainImm_eq {v : Nat} (h : v < 0x2000) :
    drainImm v = (v % 2, v / 2 % 32, v / 64 % 64, decide (v / 4096 = 1)) := by
  have hclear : v / 4096 % 2 = v / 4096 := Nat.mod_eq_of_lt (by omega)
  simp [drainImm, bits, bit, hclear, beq_eq_decide]

theorem adrainBody_eq {f : Fields} (hd : f.d < 32) (ha : f.a = 0) (hb : f.b = 0) (hc : f.c = 0) (him : f.imm < 0x2000)
    (hrows : f.imm.toNat / 2 % 32 + f.imm.toNat / 64 % 64 ≤ 32) (hregs : f.d.toNat + f.imm.toNat / 64 % 64 ≤ 32)
    (r : Run) (u : State) : adrainBody f r u = .ok (u.modEng r.e (Engine.drain f.d.toNat (f.imm.toNat % 2)
      (f.imm.toNat / 2 % 32) (f.imm.toNat / 64 % 64) (decide (f.imm.toNat / 4096 = 1)))) := by
  have him' : f.imm.toNat < 0x2000 := him
  have hfields := checkFields_of (f := f) (m := 0x1FFF) (Use.ok_vec hd) (Use.ok_no ha) (Use.ok_no hb) (Use.ok_no hc)
    (imm_within (k := 13) him' (by decide))
  simp only [adrainBody, hfields, drainImm_eq him', hrows, hregs, decide_true, Bool.and_self, require, bind, Except.bind,
    if_true, onEngine]
  rfl

theorem drained_getD (a : AccSet) {first rows i l : Nat} (hi : i < rows) (hl : l < 32) :
    (((a.drained first rows).map fun row => row.map (·.1)).getD i []).getD l 0 = (a.cell (first + i) l).drain.1 := by
  simp [AccSet.drained, List.getD_eq_getElem?_getD, List.getElem?_map, List.getElem?_range hi, List.getElem?_range hl]

theorem Engine.drain_lane (d n first rows : Nat) (clear : Bool) (x : Engine) {q l : Nat} (hl : l < 32) :
    (x.drain d n first rows clear).lane q l = if d ≤ q ∧ q < d + rows then
      ((x.acc n).close.1.cell (first + (q - d)) l).drain.1 else x.lane q l := by
  have hlen : (((x.acc n).close.1.drained first rows).map fun row => row.map (·.1)).length = rows := by
    simp [AccSet.drained]
  have hlane := Engine.lane_setVs hl (((x.acc n).close.1.drained first rows).map fun row => row.map (·.1)) x d q
  rw [hlen] at hlane
  refine Eq.trans hlane ?_
  by_cases h : d ≤ q ∧ q < d + rows
  · rw [if_pos h, if_pos h, drained_getD _ (by omega) hl]
  · rw [if_neg h, if_neg h]

theorem Engine.drain_acc (d n first rows : Nat) (clear : Bool) (x : Engine) (a : Nat) :
    (x.drain d n first rows clear).acc a =
      if a = n then (if clear then AccSet.clear else (x.acc n).close.1) else x.acc a := by
  refine (Engine.acc_setAcc _ n a _).trans ?_
  rw [Engine.takeRows_eq]
  rfl

theorem Engine.drain_frame (d n first rows : Nat) (clear : Bool) (x : Engine) :
    x.drain d n first rows clear =
      { x with v := (x.drain d n first rows clear).v, accs := (x.drain d n first rows clear).accs,
               numstat := (x.drain d n first rows clear).numstat } := by
  dsimp only [Engine.drain]
  rw [Engine.takeRows_eq]
  rfl

/-- Settles O7: each instruction is its body at issue, and each body changes its engine alone. -/
theorem arrayLoadsAndDrains : Obligations.ArrayLoadsAndDrains := by
  unfold Obligations.ArrayLoadsAndDrains
  refine ⟨fun s e f r c hi hd => ?_, fun s e f r => ⟨fun hi hd ha hb hc him => ?_, fun hi hd ha hb hc him => ?_⟩⟩
  · intro i hcheck hsparse hcoarse hok tile hfind
    obtain rfl := hi.run_e
    have hfind' : (s.modEng r.e Engine.next).AldFinds r f c tile := by
      simp only [State.AldFinds, State.eng_modEng_self, State.aldFetch_next]
      exact hfind
    have hbody := aldBody_eq hd (u := s.modEng r.e Engine.next) hcheck hsparse
      (by rw [State.eng_modEng_self]; exact hcoarse) hok hfind'
    obtain ⟨t, ht, honly, heng⟩ := issue_modEng hi rfl fun u hu => hu ▸ hbody
    refine ⟨t, ht, honly, ?_, fun b => ?_⟩
    · rw [heng, hi.next_eq]
      rfl
    · rw [heng, Engine.buf_setBuf]
      rfl
  · obtain ⟨t, ht, honly, heng⟩ := issue_modEng hi rfl fun u _ => apromBody_eq hd ha hb hc him r u
    refine ⟨t, ht, honly, ?_, fun a => ?_, ?_⟩
    · rw [heng, hi.next_eq]
      rfl
    · rw [heng]
      exact Engine.acc_setAcc _ _ _ _
    · rw [heng]
      rfl
  · intro n first rows set hrows hregs
    obtain ⟨t, ht, honly, heng⟩ := issue_modEng hi rfl fun u _ => adrainBody_eq hd ha hb hc him hrows hregs r u
    refine ⟨t, ht, honly, ?_, fun q l hl => ?_, fun a => ?_⟩
    · rw [heng, Engine.drain_frame, hi.next_eq]
    · rw [heng, Engine.drain_lane _ _ _ _ _ _ hl]
      rfl
    · rw [heng, Engine.drain_acc]
      simp only [decide_eq_true_eq]
      rfl

end Sys2Proof.Machine
end

section
/-!
SUPPORT. BMUL, and what a CHECK leaves of the engine that meets it (R87, R112 to R114, R154).
-/
namespace Sys2Proof.Machine

/-! ## BMUL (R87) -/

/-- The set that the products of a BMUL join: cleared first when CLR is set. -/
def Engine.bmulStart (f : Fields) (x : Engine) : AccSet := if f.imm = 1 then AccSet.clear else x.acc f.d.toNat

/-- BMUL's change of its engine, from the tiles and the set that it finds. -/
def Engine.bmul (d : Nat) (ta tb : Tile) (start : AccSet) (x : Engine) : Engine :=
  if ta.k = 0 then x.setAcc d start
  else { (x.setAcc d (start.mac ta tb).1).status (start.mac ta tb).2 with
    skip := satAdd 64 x.skip (productCycles ta tb).1, saved := satAdd 64 x.saved (productCycles ta tb).2.2 }

/-- What BMUL asks of its fields and of its two tiles (R86, R179). -/
structure BmulOk (f : Fields) (ta tb : Tile) : Prop where
  d : f.d ≤ 1
  a : f.a ≤ 1
  b : f.b ≤ 1
  c : f.c = 0
  imm : f.imm ≤ 1
  depth : ta.k = tb.k
  dense : ta.sparse = 0 ∨ tb.sparse = 0
  left : ta.sparse = 0 ∨ fmtPieces tb.fmt ≤ 1
  right : tb.sparse = 0 ∨ fmtPieces ta.fmt ≤ 1

theorem bmulBody_checked {f : Fields} {r : Run} {u : State} {ta tb : Tile} (ha : (u.eng r.e).buf f.a.toNat = ta)
    (hb : (u.eng r.e).buf (2 + f.b.toNat) = tb) (h : BmulOk f ta tb) (chk : Bool) : bmulBody f chk r u =
      if chk then .error (faultCheck, 0)
      else .ok (u.modEng r.e (Engine.bmul f.d.toNat ta tb ((u.eng r.e).bmulStart f))) := by
  have himm : f.imm = 0 ∨ f.imm = 1 := by
    have := h.imm
    bv_omega
  have hmask : f.imm &&& ~~~ 1 = 0 := by rcases himm with h | h <;> rw [h] <;> rfl
  have hfields := checkFields_of (f := f) (d := .any) (a := .any) (b := .any) rfl rfl rfl (Use.ok_no h.c) hmask
  have hregs : (decide (f.d ≤ 1) && decide (f.a ≤ 1) && decide (f.b ≤ 1)) = true := by
    rw [decide_eq_true h.d, decide_eq_true h.a, decide_eq_true h.b]
    rfl
  have hdepth : (ta.k == tb.k) = true := beq_iff_eq.2 h.depth
  have hdense : (!(ta.sparse != 0 && tb.sparse != 0)) = true := by
    rcases h.dense with h | h <;> simp [h]
  have hpieces : (!(ta.sparse != 0 && decide (fmtPieces tb.fmt > 1)) &&
      !(tb.sparse != 0 && decide (fmtPieces ta.fmt > 1))) = true := by
    have hleft := h.left
    have hright := h.right
    simp only [Bool.and_eq_true, Bool.not_eq_true', Bool.and_eq_false_iff, bne_eq_false_iff_eq, decide_eq_false_iff_not]
    omega
  have hstart : (if f.imm = 0 then (u.eng r.e).acc f.d.toNat else AccSet.clear) = (u.eng r.e).bmulStart f := by
    rcases himm with h | h <;> simp [Engine.bmulStart, h]
  simp only [bmulBody, hfields, hregs, ha, hb, hdepth, hdense, hpieces, require, bind, Except.bind, if_true, onEngine,
    hstart]
  cases chk with
  | true => rfl
  | false =>
    by_cases hk : ta.k = 0
    · rw [if_pos hk]
      refine congrArg (fun g => Except.ok (u.modEng r.e g)) (funext fun x => ?_)
      rw [Engine.bmul, if_pos hk]
    · rw [if_neg hk]
      refine congrArg (fun g => Except.ok (u.modEng r.e g)) (funext fun x => ?_)
      rw [Engine.bmul, if_neg hk]

theorem Engine.bmul_frame (d : Nat) (ta tb : Tile) (start : AccSet) (x : Engine) :
    x.bmul d ta tb start =
      { x with accs := (x.bmul d ta tb start).accs, numstat := (x.bmul d ta tb start).numstat,
               skip := (x.bmul d ta tb start).skip, saved := (x.bmul d ta tb start).saved } := by
  unfold Engine.bmul
  split <;> rfl

theorem Engine.bmul_acc (d : Nat) (ta tb : Tile) (start : AccSet) (x : Engine) (a : Nat) :
    (x.bmul d ta tb start).acc a =
      if a = d then (if ta.k = 0 then start else (start.mac ta tb).1) else x.acc a := by
  unfold Engine.bmul
  split
  · exact Engine.acc_setAcc _ _ _ _
  · exact Engine.acc_setAcc _ _ _ _

theorem Engine.bmul_numstat (d : Nat) (ta tb : Tile) (start : AccSet) (x : Engine) :
    (x.bmul d ta tb start).numstat = if ta.k = 0 then x.numstat else x.numstat ||| (start.mac ta tb).2 := by
  unfold Engine.bmul
  split <;> rfl

/-! ## CHECK of a running item (R112 to R114) -/

theorem Engine.orphanOps_reset (c k : Nat) : Engine.reset.orphanOps c k = Engine.reset := rfl

@[simp] theorem State.eng_dropOps (s : State) (c k e : Nat) : (s.dropOps c k).eng e = (s.eng e).orphanOps c k := by
  simp only [State.eng, State.dropOps, Tab.get, Tab.find?_map (Engine.orphanOps · c k)]
  cases Tab.find? s.engines e <;> rfl

/-- What a CHECK leaves of the engine that meets it: the count has risen, the slot waits for its retirement, no item is left,
and the accumulators are as they were. -/
structure Checked (x y : Engine) : Prop where
  check : y.check = satAdd 32 x.check 1
  checkMet : y.checkMet = true
  item : y.item = none
  accs : y.accs = x.accs

/-- The registers of an engine after a fault: the first is recorded, another sets OVERRUN. -/
def Engine.faulted (code opc : BitVec 8) (pc : Nat) (a : W64) (x : Engine) : Engine :=
  if x.faultValid then { x with faultOver := true }
  else { x with faultValid := true, faultCode := code, faultOpc := opc, faultPc := pc % 2 ^ 22, faultAddr := a }

theorem State.recordFault_eq (s : State) (e : Nat) (code opc : BitVec 8) (pc : Nat) (a : W64) :
    s.recordFault e code opc pc a = (s.modEng e (Engine.faulted code opc pc a)).stick
      [if (s.eng e).faultValid then .engFaultOver e else .engFaultValid e] := rfl

@[simp] theorem State.eng_stick (s : State) (l : List Sticky) (e : Nat) : (s.stick l).eng e = s.eng e := rfl

theorem State.eng_recordFault (s : State) (e : Nat) (code opc : BitVec 8) (pc : Nat) (a : W64) :
    (s.recordFault e code opc pc a).eng e = (s.eng e).faulted code opc pc a := by
  rw [State.recordFault_eq, State.eng_stick, State.eng_modEng_self]

theorem Engine.faulted_frame (code opc : BitVec 8) (pc : Nat) (a : W64) (x : Engine) :
    x.faulted code opc pc a =
      { x with faultValid := true, faultCode := (x.faulted code opc pc a).faultCode,
               faultOpc := (x.faulted code opc pc a).faultOpc, faultOver := (x.faulted code opc pc a).faultOver,
               faultPc := (x.faulted code opc pc a).faultPc, faultAddr := (x.faulted code opc pc a).faultAddr } := by
  unfold Engine.faulted
  split
  · rename_i h
    rw [← h]
  · rfl

theorem State.eng_endRunning_some {s : State} {e c k : Nat} (hitem : (s.eng e).item = some (c, k)) :
    (s.endRunning e).eng e = ((s.eng e).orphanOps c k).release := by
  simp only [State.endRunning, hitem]
  refine (State.eng_modEng_self _ _ _).trans ?_
  rw [State.eng_dropOps, State.eng_of_engines (State.freeSpawns_engines _ _)]

/-- An engine that runs an item has one, in an occupied slot of a hod. -/
theorem State.run_some {s : State} {e : Nat} {r : Run} (h : s.run e = some r) : ∃ hod,
    (s.eng e).item = some (r.c, r.k) ∧ s.hodSlot r.c r.k = some hod ∧ s.partOfEngine e = some r.part ∧
      r.d = hod.desc ∧ r.e = e := by
  unfold State.run at h
  split at h
  · cases h
  · rename_i c k hitem
    split at h
    · rename_i hod p hhod hpart
      cases h
      exact ⟨hod, hitem, hhod, hpart, rfl, rfl⟩
    · cases h

/-- CHECK of a running item: the item leaves its engine, for its context's fault or to be executed again. -/
theorem State.checkFault_checked {s : State} {e : Nat} {r : Run} (hrun : s.run e = some r) (opc : BitVec 8) (pc : Nat)
    (a : W64) : Checked (s.eng e) ((s.checkFault e opc pc a).eng e) := by
  obtain ⟨hod, hitem, hhod, -⟩ := State.run_some hrun
  have hself := State.eng_modEng_self (s.recordFault e faultCheck opc pc a) e fun x =>
    { x with check := satAdd 32 x.check 1, checkMet := true }
  rw [State.eng_recordFault, Engine.faulted_frame] at hself
  have hhod' : ((s.recordFault e faultCheck opc pc a).modEng e fun x =>
    { x with check := satAdd 32 x.check 1, checkMet := true }).hodSlot r.c r.k = some hod := hhod
  simp only [State.checkFault]
  generalize (s.recordFault e faultCheck opc pc a).modEng e
    (fun x => { x with check := satAdd 32 x.check 1, checkMet := true }) = u at hself hhod' ⊢
  have hitem' : (u.eng e).item = some (r.c, r.k) := by rw [hself]; exact hitem
  simp only [hitem', hhod']
  by_cases hre : hod.desc.reexec = true
  · rw [if_pos hre, State.eng_setEng_self, hself]
    exact ⟨rfl, rfl, rfl, rfl⟩
  · rw [if_neg hre]
    have hend : ((u.ctxFault hod.desc.ctx faultCheck opc e hod.desc.seq).endRunning e).eng e =
        ((u.eng e).orphanOps r.c r.k).release := State.eng_endRunning_some hitem'
    have hchecked : Checked (s.eng e) (((u.ctxFault hod.desc.ctx faultCheck opc e hod.desc.seq).endRunning e).eng e) := by
      rw [hend, hself]
      exact ⟨rfl, rfl, rfl, rfl⟩
    split
    · exact hchecked
    · exact hchecked

/-- An engine whose slot waits for its retirement chooses nothing. -/
theorem State.choose_of_checkMet {s : State} {e : Nat} (h : (s.eng e).checkMet = true) : s.choose e = s := by
  have hseeks : s.mayChoose e = false := by simp [State.mayChoose, State.seeks, h]
  rw [State.choose, hseeks]
  rfl

/-- Settles O8: BMUL is its body at issue; a failed residue check is the fault CHECK, after which the engine chooses nothing. -/
theorem blockProductsAndCheck : Obligations.BlockProductsAndCheck := by
  unfold Obligations.BlockProductsAndCheck
  refine ⟨fun s e f r hi hd ha hb hc him => ?_, fun s e f r hi hd ha hb hc him => ?_⟩
  · intro ta tb hdepth hdense hleft hright
    obtain rfl := hi.run_e
    have hself := State.eng_modEng_self s r.e Engine.next
    have hbody := bmulBody_checked (f := f) (r := r) (u := s.modEng r.e Engine.next) (ta := ta) (tb := tb)
      (by rw [hself]; rfl) (by rw [hself]; rfl) ⟨hd, ha, hb, hc, him, hdepth, hdense, hleft, hright⟩ false
    rw [if_neg Bool.false_ne_true, hself] at hbody
    obtain ⟨t, ht, honly, heng⟩ := issue_modEng hi rfl fun u hu => hu ▸ hbody
    refine ⟨t, ht, honly, ?_, fun a => ?_, ?_⟩
    · rw [heng, Engine.bmul_frame, hi.next_eq]
    · rw [heng, Engine.bmul_acc]
      rfl
    · rw [heng, Engine.bmul_numstat]
      rfl
  · intro ta tb hdepth hdense hleft hright
    obtain rfl := hi.run_e
    have hself := State.eng_modEng_self s r.e Engine.next
    have hbody := bmulBody_checked (f := f) (r := r) (u := s.modEng r.e Engine.next) (ta := ta) (tb := tb)
      (by rw [hself]; rfl) (by rw [hself]; rfl) ⟨hd, ha, hb, hc, him, hdepth, hdense, hleft, hright⟩ true
    rw [if_pos rfl] at hbody
    obtain ⟨hcheck, hmet, hitem, haccs⟩ := State.checkFault_checked hi.2.2.1 0x31 (s.eng r.e).pc 0
    refine ⟨_, ?_, rfl, ?_⟩
    · rw [exec_bmul, State.issue_error hi rfl hbody, guarded_ok hi.isEngine]
      rfl
    · have hfault : s.itemFault r.e 0x07 0x31 (s.eng r.e).pc 0 = s.checkFault r.e 0x31 (s.eng r.e).pc 0 := rfl
      rw [hfault, State.choose_of_checkMet hmet]
      exact ⟨hcheck, hmet, hitem, haccs⟩

end Sys2Proof.Machine
end

section
/-!
SUPPORT. The size of an encoded tile, and the writes of an encode (R89, R90, R139 to R148).
-/
namespace Sys2Proof.Machine

/-! ## Blocks of a list -/

theorem chunksAux_exact {α : Type} {n : Nat} (hn : 0 < n) : ∀ (q k : Nat) (l : List α), l.length = n * q →
    l.length ≤ k → (chunksAux n k l).length = q ∧ ∀ c ∈ chunksAux n k l, c.length = n
  | 0, k, l, hl, _ => by
    have hnil : l = [] := List.length_eq_zero_iff.1 hl
    subst hnil
    cases k <;> simp [chunksAux]
  | q + 1, 0, l, hl, hk => by
    rw [Nat.mul_succ] at hl
    omega
  | q + 1, k + 1, l, hl, hk => by
    rw [Nat.mul_succ] at hl
    have hne : l.isEmpty = false := by
      rw [List.isEmpty_eq_false_iff]
      rintro rfl
      simp at hl
      omega
    obtain ⟨hlen, hall⟩ := chunksAux_exact hn q k (l.drop n) (by rw [List.length_drop]; omega)
      (by rw [List.length_drop]; omega)
    rw [chunksAux, hne, if_neg Bool.false_ne_true]
    refine ⟨by rw [List.length_cons, hlen], List.forall_mem_cons.2 ⟨?_, hall⟩⟩
    rw [List.length_take]
    omega

/-- The blocks of a list that they divide. -/
theorem chunks_exact {α : Type} {n q : Nat} (hn : 0 < n) {l : List α} (hl : l.length = n * q) :
    (chunks n l).length = q ∧ ∀ c ∈ chunks n l, c.length = n :=
  chunksAux_exact hn q l.length l hl (Nat.le_refl _)

theorem mem_of_mem_chunksAux {α : Type} {n : Nat} {c : List α} {x : α} (hx : x ∈ c) : ∀ (k : Nat) (l : List α),
    c ∈ chunksAux n k l → x ∈ l
  | 0, _, hc => absurd hc List.not_mem_nil
  | k + 1, l, hc => by
    rw [chunksAux] at hc
    split at hc
    · cases hc
    · rcases List.mem_cons.1 hc with rfl | hc
      · exact List.mem_of_mem_take hx
      · exact List.mem_of_mem_drop (mem_of_mem_chunksAux hx k _ hc)

theorem length_flatMap_const {α β : Type} {g : α → List β} {n : Nat} {l : List α} (h : ∀ x ∈ l, (g x).length = n) :
    (l.flatMap g).length = l.length * n := by
  rw [List.length_flatMap, List.map_congr_left h, List.map_const', List.sum_replicate, smul_eq_mul]

/-! ## The size of an encoded tile (R139 to R148) -/

theorem fmtBits_cases {fmt : Nat} (h : fmt ≤ 9) :
    fmtBits fmt = 4 ∨ fmtBits fmt = 6 ∨ fmtBits fmt = 8 ∨ fmtBits fmt = 16 ∨ fmtBits fmt = 32 := by
  interval_cases fmt <;> decide

theorem packRow_length_of {bits g n q : Nat} (hg : packGroup bits = (g, n)) (hpos : 0 < g) {fs : List Nat}
    (hfs : fs.length = g * q) : (packRow bits fs).length = q * ((bits * g + 7) / 8) := by
  obtain ⟨hlen, hall⟩ := chunks_exact hpos hfs
  rw [packRow, hg]
  refine (length_flatMap_const fun c hc => ?_).trans (by rw [hlen])
  rw [leBytes_length, hall c hc]

theorem packRow_length {fmt : Nat} (h : fmt ≤ 9) {fs : List Nat} (hfs : fs.length = 32) :
    (packRow (fmtBits fmt) fs).length = rowBytes fmt 32 := by
  unfold rowBytes
  rcases fmtBits_cases h with h | h | h | h | h <;> rw [h]
  · exact packRow_length_of (q := 16) rfl (by decide) hfs
  · exact packRow_length_of (q := 8) rfl (by decide) hfs
  · exact packRow_length_of (q := 32) rfl (by decide) hfs
  · exact packRow_length_of (q := 32) rfl (by decide) hfs
  · exact packRow_length_of (q := 32) rfl (by decide) hfs

theorem encodeBlock_length (fmt shape : Nat) (c : Int) (xs : List (FV × Rnd)) :
    (encodeBlock fmt shape c xs).fields.length = xs.length := by
  simp only [encodeBlock, apply_ite EncBlock.fields, apply_ite List.length, List.length_map, ite_self]

/-- The size of a tile of `n` rows of 32 elements, encoded with a scale shape. -/
structure EncTile.Sized (t : EncTile) (shape n : Nat) : Prop where
  rows : t.rows.length = n
  row : ∀ fs ∈ t.rows, fs.length = 32
  scales : t.scales.length = if shape = 0 then 0 else if shape = 1 then n / 4 * 8 else n

theorem chunks_self {α : Type} {n : Nat} (hn : 0 < n) {l : List α} (hl : l.length = n) : chunks n l = [l] := by
  cases l with
  | nil => simp at hl; omega
  | cons x t =>
    have hdrop : (x :: t).drop n = [] := by rw [← hl, List.drop_length]
    rw [chunks, List.length_cons, chunksAux, List.isEmpty_cons, if_neg Bool.false_ne_true, hdrop, ← hl,
      List.take_length]
    cases t.length <;> rfl

theorem chunks_one {α : Type} : ∀ (l : List α), chunks 1 l = l.map fun x => [x]
  | [] => rfl
  | x :: t => by
    have ih := chunks_one t
    rw [chunks] at ih ⊢
    rw [List.length_cons, chunksAux, List.isEmpty_cons, if_neg Bool.false_ne_true, List.map_cons]
    exact congrArg _ ih

section
variable {α β : Type} {m : List (List α)} (hm : ∀ row ∈ m, row.length = 32)
include hm

/-- Shape 2: each row of 32 elements is one block. -/
theorem toBlocks_two : toBlocks 2 m = m := by
  have hrow : m.flatMap (chunks 32) = m.flatMap fun row => [row] :=
    List.flatMap_congr fun row hrow => chunks_self (by decide) (hm row hrow)
  exact hrow.trans (List.flatMap_singleton' m)

/-- Shape 1: four rows of 32 elements are eight blocks of 16. -/
theorem toBlocks_one {q : Nat} (hq : m.length = 4 * q) :
    (toBlocks 1 m).length = q * 8 ∧ ∀ b ∈ toBlocks 1 m, b.length = 16 := by
  obtain ⟨hlen, hall⟩ := chunks_exact (by decide) hq
  cases m with
  | nil =>
    have h0 : q = 0 := by simpa using hq.symm
    subst h0
    exact ⟨rfl, fun b hb => absurd hb List.not_mem_nil⟩
  | cons row t =>
    have hw : (nth (row :: t) 0).length = 32 := hm row List.mem_cons_self
    have hcols : ((List.range 32).filter (· % 4 = 0)).length = 8 := by decide
    simp only [toBlocks, if_true, hw]
    refine ⟨(length_flatMap_const fun g _ => by rw [List.length_map, hcols]).trans (by rw [hlen]), fun b hb => ?_⟩
    obtain ⟨g, hg, hb⟩ := List.mem_flatMap.1 hb
    obtain ⟨c, hc, rfl⟩ := List.mem_map.1 hb
    obtain ⟨hc32, -⟩ := List.mem_filter.1 hc
    rw [List.mem_range] at hc32
    have hgm : ∀ x ∈ g, x.length = 32 := fun x hx => hm x (mem_of_mem_chunksAux hx _ _ hg)
    refine (length_flatMap_const (n := 4) fun r hr => ?_).trans (by rw [List.length_map, hall g hg])
    obtain ⟨x, hx, rfl⟩ := List.mem_map.1 hr
    obtain ⟨hxl, hxa⟩ := chunks_exact (n := 4) (q := 8) (by decide) (hgm x hx)
    rw [nth, List.getD_eq_getElem?_getD, List.getElem?_eq_getElem (by omega)]
    exact hxa _ (List.getElem_mem _)
end

/-- Shape 1: eight blocks of 16 elements are four rows of 32. -/
theorem ofBlocks_one {α : Type} {q : Nat} {bs : List (List α)} (hlen : bs.length = q * 8)
    (hall : ∀ b ∈ bs, b.length = 16) :
    (ofBlocks 1 32 bs).length = 4 * q ∧ ∀ row ∈ ofBlocks 1 32 bs, row.length = 32 := by
  obtain ⟨hgroups, hgroup⟩ := chunks_exact (n := 8) (q := q) (l := bs) (by decide) (by omega)
  have hdef : ofBlocks 1 32 bs = (chunks 8 bs).flatMap fun g =>
    (List.range 4).map fun i => g.flatMap fun b => (b.drop (4 * i)).take 4 := rfl
  rw [hdef]
  refine ⟨(length_flatMap_const (n := 4) fun g _ => by simp).trans (by rw [hgroups, Nat.mul_comm]), fun row hrow => ?_⟩
  obtain ⟨g, hg, hrow⟩ := List.mem_flatMap.1 hrow
  obtain ⟨i, hi, rfl⟩ := List.mem_map.1 hrow
  rw [List.mem_range] at hi
  refine (length_flatMap_const (n := 4) fun b hb => ?_).trans (by rw [hgroup g hg])
  rw [List.length_take, List.length_drop, hall b (mem_of_mem_chunksAux hb _ _ hg)]
  omega

theorem ofBlocks_two {α : Type} (bs : List (List α)) : ofBlocks 2 32 bs = bs := by
  have h : ofBlocks 2 32 bs = (chunks 1 bs).map List.flatten := rfl
  rw [h, chunks_one, List.map_map]
  exact (List.map_congr_left fun b _ => List.append_nil b).trans (List.map_id bs)

/-- The rows of a tile and its scale bytes, from the blocks of its scale shape. -/
theorem encodeTile_sized {fmt shape : Nat} {c : Int} {m : List (List (FV × Rnd))} (hm : ∀ row ∈ m, row.length = 32)
    (h4 : shape = 1 → m.length % 4 = 0) : (encodeTile fmt shape c m).Sized shape m.length := by
  by_cases h1 : shape = 1
  · subst h1
    obtain ⟨q, hq⟩ : ∃ q, m.length = 4 * q := ⟨m.length / 4, by have := h4 rfl; omega⟩
    obtain ⟨hblocks, hblock⟩ := toBlocks_one hm hq
    have hw : m = [] ∨ (nth m 0).length = 32 := by
      cases m with
      | nil => exact .inl rfl
      | cons row t => exact .inr (hm row List.mem_cons_self)
    rcases hw with rfl | hw
    · exact ⟨rfl, fun fs hfs => absurd hfs List.not_mem_nil, rfl⟩
    · obtain ⟨hrows, hrow⟩ := ofBlocks_one (q := q)
        (bs := ((toBlocks 1 m).map (encodeBlock fmt 1 c)).map (·.fields)) (by simp only [List.length_map, hblocks])
        (fun b hb => by
          simp only [List.map_map, List.mem_map, Function.comp_apply] at hb
          obtain ⟨x, hx, rfl⟩ := hb
          rw [encodeBlock_length, hblock x hx])
      refine ⟨?_, ?_, ?_⟩
      · rw [encodeTile, hw, hq]
        exact hrows
      · rw [encodeTile, hw]
        exact hrow
      · have hscales : (encodeTile fmt 1 c m).scales = ((toBlocks 1 m).map (encodeBlock fmt 1 c)).map (·.code) := rfl
        rw [hscales, List.length_map, List.length_map, hblocks, hq]
        simp
  · have hto : toBlocks shape m = m := by
      by_cases h2 : shape = 2
      · subst h2
        exact toBlocks_two hm
      · rw [toBlocks, if_neg h1, if_neg h2]
    have hof : ofBlocks shape (nth m 0).length ((m.map (encodeBlock fmt shape c)).map (·.fields)) =
        (m.map (encodeBlock fmt shape c)).map (·.fields) := by
      by_cases h2 : shape = 2
      · subst h2
        cases m with
        | nil => rfl
        | cons row t =>
          have hw : (nth (row :: t) 0).length = 32 := hm row List.mem_cons_self
          rw [hw]
          exact ofBlocks_two _
      · rw [ofBlocks, if_neg h1, if_neg h2]
    have hrows : (encodeTile fmt shape c m).rows = (m.map (encodeBlock fmt shape c)).map (·.fields) := by
      simp only [encodeTile, hto]
      exact hof
    refine ⟨?_, fun fs hfs => ?_, ?_⟩
    · rw [hrows, List.length_map, List.length_map]
    · rw [hrows, List.map_map] at hfs
      obtain ⟨x, hx, rfl⟩ := List.mem_map.1 hfs
      rw [Function.comp_apply]
      rw [encodeBlock_length, hm x hx]
    · simp only [encodeTile, hto, if_neg h1]
      split <;> simp

theorem withRnd_length (stoch : Bool) (seed base rowStep : W64) (m : List (List FV)) :
    (withRnd stoch seed base rowStep m).length = m.length := by simp [withRnd]

theorem withRnd_row {stoch : Bool} {seed base rowStep : W64} {m : List (List FV)} (hm : ∀ row ∈ m, row.length = 32) :
    ∀ row ∈ withRnd stoch seed base rowStep m, row.length = 32 := by
  intro row hrow
  obtain ⟨⟨x, i⟩, hx, rfl⟩ := List.mem_map.1 hrow
  rw [List.length_map, List.length_zipIdx]
  exact hm x (List.fst_mem_of_mem_zipIdx hx)

/-! ## Writes in turn -/

/-- Writes to a store, in turn. -/
def Mem.writeAll (m : List Host.Cell) (ws : List (Nat × List Byte)) : List Host.Cell :=
  ws.foldl (fun m w => Mem.write m w.1 w.2) m

theorem Mem.writeAll_append (m : List Host.Cell) (as bs : List (Nat × List Byte)) :
    Mem.writeAll m (as ++ bs) = Mem.writeAll (Mem.writeAll m as) bs := List.foldl_append

/-- A byte that no write covers. -/
theorem Mem.get_writeAll_out {a : Nat} : ∀ (ws : List (Nat × List Byte)) (m : List Host.Cell),
    (∀ w ∈ ws, a < w.1 ∨ w.1 + w.2.length ≤ a) → Mem.get (Mem.writeAll m ws) a = Mem.get m a
  | [], _, _ => rfl
  | w :: t, m, h => by
    obtain ⟨hw, ht⟩ := List.forall_mem_cons.1 h
    rw [Mem.writeAll, List.foldl_cons]
    refine (Mem.get_writeAll_out t _ ht).trans ?_
    rw [Mem.get_write, if_neg (by omega)]

/-- A byte that one write covers and none after it does. -/
theorem Mem.get_writeAll_last {m : List Host.Cell} {as bs : List (Nat × List Byte)} {w : Nat × List Byte} {i : Nat}
    (hi : i < w.2.length) (hbs : ∀ x ∈ bs, w.1 + i < x.1 ∨ x.1 + x.2.length ≤ w.1 + i) :
    Mem.get (Mem.writeAll m (as ++ w :: bs)) (w.1 + i) = w.2.getD i 0 := by
  rw [Mem.writeAll_append]
  refine (Mem.get_writeAll_out bs _ hbs).trans ?_
  rw [Mem.get_write, if_pos (by omega), Nat.add_sub_cancel_left]

/-! ## What an encode changes (R89, R90) -/

/-- The tile that an encode makes of its rows. -/
def EncDesc.tile (d : EncDesc) (first : Nat) (rows : List (List FV)) : EncTile :=
  encodeTile d.fmt d.scale d.coarse
    (withRnd d.stoch d.seed (d.idxBase + BitVec.ofNat 64 first * d.idxRow) d.idxRow rows)

/-- The place of stored row `i` of the rows encoded. -/
def EncDesc.rowKey (d : EncDesc) (e first i : Nat) : Nat := lsKey e (d.dst + (first + i) * d.pitch)

/-- The place of the scale bytes. -/
def EncDesc.scaleKey (d : EncDesc) (e first : Nat) : Nat :=
  lsKey e (d.scl + if d.scale = 1 then first / 4 * 8 else first)

/-- The stored rows of an encode, each with its place. -/
def EncDesc.rowWrites (d : EncDesc) (e first : Nat) (t : EncTile) : List (Nat × List Byte) :=
  t.rows.zipIdx.map fun (fs, i) => (d.rowKey e first i, packRow (fmtBits d.fmt) fs)

/-- The scale bytes of an encode, with their place. -/
def EncDesc.scaleWrites (d : EncDesc) (e first : Nat) (t : EncTile) : List (Nat × List Byte) :=
  if d.scale = 0 then [] else [(d.scaleKey e first, t.scales.map (BitVec.ofNat 8))]

/-- The local stores after an encode. -/
def EncDesc.stored (d : EncDesc) (e first : Nat) (rows : List (List FV)) (m : List Host.Cell) : List Host.Cell :=
  if rows.isEmpty then m
  else Mem.writeAll m (d.rowWrites e first (d.tile first rows) ++ d.scaleWrites e first (d.tile first rows))

/-- The engine after an encode: numeric status, and the flush count that FINISH adds. -/
def EncDesc.noted (d : EncDesc) (fl : Option Loc) (first : Nat) (rows : List (List FV)) (x : Engine) : Engine :=
  if rows.isEmpty then x
  else { x with numstat := x.numstat ||| if (d.tile first rows).sat then nsEncSat else 0,
                flushes := x.flushes ++ (fl.map fun l => (l, (d.tile first rows).flushed)).toList }

theorem foldl_rowWrites (d : EncDesc) (e first : Nat) : ∀ (l : List (List Nat × Nat)) (s : State),
    l.foldl (fun s (fs, i) => s.writeLoc (.ls e (d.dst + (first + i) * d.pitch)) (packRow (fmtBits d.fmt) fs)) s =
      { s with ls := Mem.writeAll s.ls (l.map fun (fs, i) => (d.rowKey e first i, packRow (fmtBits d.fmt) fs)) }
  | [], _ => rfl
  | (fs, i) :: t, s => by
    have ht := foldl_rowWrites d e first t (s.writeLoc (.ls e (d.dst + (first + i) * d.pitch)) (packRow (fmtBits d.fmt) fs))
    exact ht

theorem State.encodeRows_eq (s : State) (r : Run) (d : EncDesc) (fl : Option Loc) (first : Nat) {rows : List (List FV)}
    (h : rows.isEmpty = false) : s.encodeRows r d fl first rows =
      { s with ls := d.stored r.e first rows s.ls }.modEng r.e (d.noted fl first rows) := by
  have hnoted : (fun x : Engine =>
      let x := if (d.tile first rows).sat then x.status nsEncSat else x
      match fl with
      | none => x
      | some l => { x with flushes := x.flushes ++ [(l, (d.tile first rows).flushed)] }) = d.noted fl first rows := by
    funext x
    rw [EncDesc.noted, h, if_neg Bool.false_ne_true]
    cases (d.tile first rows).sat <;> cases fl <;> simp [Engine.status]
  rw [← hnoted]
  unfold State.encodeRows EncDesc.stored
  rw [h, if_neg Bool.false_ne_true, if_neg Bool.false_ne_true, Mem.writeAll_append]
  dsimp only
  rw [foldl_rowWrites]
  unfold EncDesc.scaleWrites
  split <;> rfl

section
variable (s : State) (r : Run) (d : EncDesc) (fl : Option Loc) (first : Nat) (rows : List (List FV))

theorem State.encodeRows_ls : (s.encodeRows r d fl first rows).ls = d.stored r.e first rows s.ls := by
  cases h : rows.isEmpty with
  | true => rw [State.encodeRows, EncDesc.stored, h, if_pos rfl, if_pos rfl]
  | false => rw [State.encodeRows_eq _ _ _ _ _ h]; rfl

theorem State.encodeRows_eng : (s.encodeRows r d fl first rows).eng r.e = d.noted fl first rows (s.eng r.e) := by
  cases h : rows.isEmpty with
  | true => rw [State.encodeRows, EncDesc.noted, h, if_pos rfl, if_pos rfl]
  | false => rw [State.encodeRows_eq _ _ _ _ _ h, State.eng_modEng_self]; rfl

theorem State.encodeRows_eng_ne {e : Nat} (he : e ≠ r.e) : (s.encodeRows r d fl first rows).eng e = s.eng e := by
  cases h : rows.isEmpty with
  | true => rw [State.encodeRows, h, if_pos rfl]
  | false => rw [State.encodeRows_eq _ _ _ _ _ h, State.eng_modEng_ne _ _ he]; rfl

theorem State.encodeRows_frame : s.encodeRows r d fl first rows =
    { s with engines := (s.encodeRows r d fl first rows).engines, ls := (s.encodeRows r d fl first rows).ls } := by
  cases h : rows.isEmpty with
  | true => rw [State.encodeRows, h, if_pos rfl]
  | false => rw [State.encodeRows_eq _ _ _ _ _ h]; rfl
end

end Sys2Proof.Machine
end

section
/-!
SUPPORT. VENC and ADRAINE at issue, and the bytes that an encode leaves (R89, R90).
-/
namespace Sys2Proof.Machine

/-! ## VENC and ADRAINE at issue (R89, R90) -/

@[simp] theorem State.encDesc_next (s : State) (r : Run) (a : W64) (first n : Nat) :
    (s.modEng r.e Engine.next).encDesc r a first n = s.encDesc r a first n := by
  have hbytes : ∀ off m, (s.modEng r.e Engine.next).lsBytes r.e off m = s.lsBytes r.e off m := fun off m => by
    simp only [State.lsBytes, State.lsRead_next]
  simp only [State.encDesc, hbytes]
  rfl

/-- The exact values of the registers that VENC encodes. -/
def Engine.encRows (x : Engine) (d n : Nat) : List (List FV) :=
  (List.range n).map fun i => (x.vr (d + i)).map dec32

theorem vencBody_eq {f : Fields} (hd : f.d < 32) (hb : f.b = 0) (hc : f.c = 0) (him : f.imm ≤ 32)
    (hregs : f.d.toNat + f.imm.toNat ≤ 32) {r : Run} {u : State} {d : EncDesc} {fl : Option Loc}
    (hdesc : u.encDesc r ((u.eng r.e).gr f.a) 0 f.imm.toNat = .ok (d, fl)) :
    vencBody f r u = .ok (u.encodeRows r d fl 0 ((u.eng r.e).encRows f.d.toNat f.imm.toNat)) := by
  have hn : f.imm.toNat ≤ 32 := him
  have hbits : bits f.imm.toNat 5 0 = f.imm.toNat := by
    simp only [bits, Nat.pow_zero, Nat.div_one]
    omega
  have hfields := checkFields_of (f := f) (m := 0x3F) (a := .any) (Use.ok_vec hd) rfl (Use.ok_no hb) (Use.ok_no hc)
    (imm_within (k := 6) (by omega) (by decide))
  simp only [vencBody, hfields, hbits, hn, hregs, decide_true, Bool.and_self, require, bind, Except.bind, if_true, hdesc]
  rfl

/-- The exact values of the rows of a set that ADRAINE encodes. -/
def AccSet.encRows (a : AccSet) (first n : Nat) : List (List FV) :=
  (List.range n).map fun i => (List.range 32).map fun j => (a.cell (first + i) j).value

theorem adraineBody_eq {f : Fields} (hd : f.d = 0) (hb : f.b = 0) (hc : f.c = 0) (him : f.imm < 0x2000)
    (hrows : f.imm.toNat / 2 % 32 + f.imm.toNat / 64 % 64 ≤ 32) {r : Run} {u : State} {d : EncDesc} {fl : Option Loc}
    (hdesc : u.encDesc r ((u.eng r.e).gr f.a) (f.imm.toNat / 2 % 32) (f.imm.toNat / 64 % 64) = .ok (d, fl)) :
    adraineBody f r u = .ok ((u.modEng r.e fun x =>
      (x.setAcc (f.imm.toNat % 2) (if decide (f.imm.toNat / 4096 = 1) then AccSet.clear
        else ((u.eng r.e).acc (f.imm.toNat % 2)).close.1)).status ((u.eng r.e).acc (f.imm.toNat % 2)).close.2).encodeRows
      r d fl (f.imm.toNat / 2 % 32)
      (((u.eng r.e).acc (f.imm.toNat % 2)).close.1.encRows (f.imm.toNat / 2 % 32) (f.imm.toNat / 64 % 64))) := by
  have him' : f.imm.toNat < 0x2000 := him
  have hfields := checkFields_of (f := f) (m := 0x1FFF) (a := .any) (Use.ok_no hd) rfl (Use.ok_no hb) (Use.ok_no hc)
    (imm_within (k := 13) him' (by decide))
  simp only [adraineBody, hfields, drainImm_eq him', hrows, decide_true, require, bind, Except.bind, if_true, hdesc]
  rfl

/-- An instruction whose meaning encodes rows, once its engine has been changed by `g`. -/
theorem issue_encodeRows {s : State} {e : Nat} {opc : BitVec 8} {f : Fields} {r : Run} (h : Issues s e opc f r)
    (hk : knownOpc opc.toNat = true) {body : Run → State → Except Err State} {u : State} {d : EncDesc}
    {fl : Option Loc} {first : Nat} {rows : List (List FV)} {y : Engine}
    (hb : body r (s.modEng r.e Engine.next) = .ok (u.encodeRows r d fl first rows))
    (hframe : u = { s with engines := u.engines }) (hother : ∀ e', e' ≠ e → u.eng e' = s.eng e') (hy : u.eng e = y) :
    ∃ t, guarded (isEngine e) (s.issue e opc f body) = .next t ∧
      t = { s with engines := t.engines, ls := t.ls, freeCtr := t.freeCtr } ∧
      t.ls = (s.encodeRows r d fl first rows).ls ∧ (∀ e', e' ≠ e → t.eng e' = s.eng e') ∧
      t.eng e = d.noted fl first rows y := by
  obtain rfl := h.run_e
  refine ⟨_, guarded_ok h.isEngine _, ?_⟩
  have hls : (u.encodeRows r d fl first rows).ls = (s.encodeRows r d fl first rows).ls := by
    rw [State.encodeRows_ls, State.encodeRows_ls, hframe]
  have hswap : ∀ E L, { u with engines := E, ls := L } = { s with engines := E, ls := L } := fun E L => by rw [hframe]
  have hall := (State.encodeRows_frame u r d fl first rows).trans (hswap _ _)
  have hne : ∀ e', e' ≠ r.e → (u.encodeRows r d fl first rows).eng e' = s.eng e' :=
    fun e' he => (State.encodeRows_eng_ne _ _ _ _ _ _ he).trans (hother e' he)
  have hself : (u.encodeRows r d fl first rows).eng r.e = d.noted fl first rows y := by
    rw [State.encodeRows_eng, hy]
  rw [State.issue_ok h hk hb]
  split
  · exact ⟨by rw [hall], hls, hne, hself⟩
  · exact ⟨by rw [hall], hls, hne, hself⟩

/-- The write of one stored row, with the writes before it and after it. -/
theorem rowWrites_split {d : EncDesc} {e first : Nat} {t : EncTile} {i : Nat} {fs : List Nat}
    (hfs : t.rows[i]? = some fs) : ∃ as bs, d.rowWrites e first t =
      as ++ (d.rowKey e first i, packRow (fmtBits d.fmt) fs) :: bs ∧
    ∀ x ∈ bs, ∃ i' fs', i < i' ∧ t.rows[i']? = some fs' ∧ x = (d.rowKey e first i', packRow (fmtBits d.fmt) fs') := by
  obtain ⟨hlt, hget⟩ := List.getElem?_eq_some_iff.1 hfs
  have hwlen : i < (d.rowWrites e first t).length := by rw [EncDesc.rowWrites, List.length_map, List.length_zipIdx]; exact hlt
  refine ⟨(d.rowWrites e first t).take i, (d.rowWrites e first t).drop (i + 1), ?_, fun x hx => ?_⟩
  · have hi : (d.rowWrites e first t)[i] = (d.rowKey e first i, packRow (fmtBits d.fmt) fs) := by
      simp [EncDesc.rowWrites, hget]
    rw [← hi, List.getElem_cons_drop, List.take_append_drop]
  · obtain ⟨k, hk⟩ := List.mem_iff_getElem?.1 hx
    rw [List.getElem?_drop, EncDesc.rowWrites, List.getElem?_map, List.getElem?_zipIdx, Option.map_map,
      Option.map_eq_some_iff] at hk
    obtain ⟨fs', hfs', rfl⟩ := hk
    exact ⟨i + 1 + k, fs', by omega, hfs', by simp⟩

/-! ## The bytes that an encode leaves (R89, R139 to R148) -/

section
variable {d : EncDesc} {e first : Nat} {rows : List (List FV)} (hrows : ∀ row ∈ rows, row.length = 32)
  (h4 : d.scale = 1 → rows.length % 4 = 0)
include hrows h4

theorem EncDesc.tile_sized : (d.tile first rows).Sized d.scale rows.length := by
  have hlen := withRnd_length d.stoch d.seed (d.idxBase + BitVec.ofNat 64 first * d.idxRow) d.idxRow rows
  have hsized := encodeTile_sized (fmt := d.fmt) (shape := d.scale) (c := d.coarse)
    (m := withRnd d.stoch d.seed (d.idxBase + BitVec.ofNat 64 first * d.idxRow) d.idxRow rows) (withRnd_row hrows)
    (fun h => by rw [hlen]; exact h4 h)
  rw [hlen] at hsized
  exact hsized

/-- A write of a stored row: the row, its place and its length. -/
theorem EncDesc.mem_rowWrites (hfmt : d.fmt ≤ 9) {w : Nat × List Byte}
    (hw : w ∈ d.rowWrites e first (d.tile first rows)) :
    ∃ i < rows.length, w.1 = d.rowKey e first i ∧ w.2.length = rowBytes d.fmt 32 := by
  have hsized := EncDesc.tile_sized (first := first) hrows h4
  obtain ⟨⟨fs, i⟩, hfs, rfl⟩ := List.mem_map.1 hw
  have hi := List.snd_lt_of_mem_zipIdx hfs
  rw [Nat.add_zero, hsized.rows] at hi
  exact ⟨i, hi, rfl, packRow_length hfmt (hsized.row fs (List.fst_mem_of_mem_zipIdx hfs))⟩

/-- A byte outside every stored row and outside the scale bytes stays. -/
theorem EncDesc.stored_out (hfmt : d.fmt ≤ 9) {m : List Host.Cell} {a : Nat}
    (hout : ∀ i < rows.length, a < d.rowKey e first i ∨ d.rowKey e first i + rowBytes d.fmt 32 ≤ a)
    (hscale : d.scale = 0 ∨ a < d.scaleKey e first ∨
      d.scaleKey e first + (if d.scale = 1 then (rows.length + 3) / 4 * 8 else rows.length) ≤ a) :
    Mem.get (d.stored e first rows m) a = Mem.get m a := by
  have hsized := EncDesc.tile_sized (first := first) hrows h4
  unfold EncDesc.stored
  split
  · rfl
  · refine Mem.get_writeAll_out _ _ fun w hw => ?_
    rcases List.mem_append.1 hw with hw | hw
    · obtain ⟨i, hi, hw1, hw2⟩ := EncDesc.mem_rowWrites hrows h4 hfmt hw
      rw [hw1, hw2]
      exact hout i hi
    · unfold EncDesc.scaleWrites at hw
      split at hw
      · cases hw
      · rename_i h0
        rw [List.mem_singleton] at hw
        subst hw
        have hlen := hsized.scales
        rw [if_neg h0] at hlen
        rw [List.length_map, hlen]
        refine (hscale.resolve_left h0).imp_right fun h => ?_
        by_cases h1 : d.scale = 1
        · have := h4 h1
          rw [if_pos h1] at h ⊢
          omega
        · rw [if_neg h1] at h ⊢
          exact h

/-- A byte of stored row `i` that no later row and no scale byte covers. -/
theorem EncDesc.stored_row (hfmt : d.fmt ≤ 9) {m : List Host.Cell} {i j k : Nat} (hi : i < rows.length)
    (hj : j < rowBytes d.fmt 32)
    (hlater : ∀ i' < rows.length, i < i' →
      d.rowKey e first i + j < d.rowKey e first i' ∨ d.rowKey e first i' + rowBytes d.fmt 32 ≤ d.rowKey e first i + j)
    (hk : k = if d.scale = 0 then 0 else if d.scale = 1 then rows.length / 4 * 8 else rows.length)
    (hscale : d.rowKey e first i + j < d.scaleKey e first ∨ d.scaleKey e first + k ≤ d.rowKey e first i + j) :
    Mem.get (d.stored e first rows m) (d.rowKey e first i + j) =
      (packRow (fmtBits d.fmt) ((d.tile first rows).rows.getD i [])).getD j 0 := by
  have hsized := EncDesc.tile_sized (first := first) hrows h4
  have hne : rows.isEmpty = false := by
    rw [List.isEmpty_eq_false_iff]
    rintro rfl
    cases hi
  obtain ⟨fs, hfs⟩ : ∃ fs, (d.tile first rows).rows[i]? = some fs :=
    ⟨_, List.getElem?_eq_getElem (by rw [hsized.rows]; exact hi)⟩
  have hget : (d.tile first rows).rows.getD i [] = fs := by rw [List.getD_eq_getElem?_getD, hfs]; rfl
  have hlen : (packRow (fmtBits d.fmt) fs).length = rowBytes d.fmt 32 :=
    packRow_length hfmt (hsized.row fs (List.mem_of_getElem? hfs))
  obtain ⟨as, bs, hsplit, hafter⟩ := rowWrites_split (d := d) (e := e) (first := first) hfs
  rw [EncDesc.stored, hne, if_neg Bool.false_ne_true, hsplit, List.append_assoc, List.cons_append, hget]
  refine Mem.get_writeAll_last (w := (d.rowKey e first i, packRow (fmtBits d.fmt) fs)) (by rw [hlen]; exact hj)
    fun x hx => ?_
  rcases List.mem_append.1 hx with hx | hx
  · obtain ⟨i', fs', hi', hfs', rfl⟩ := hafter x hx
    rw [packRow_length hfmt (hsized.row fs' (List.mem_of_getElem? hfs'))]
    refine hlater i' ?_ hi'
    rw [← hsized.rows]
    exact (List.getElem?_eq_some_iff.1 hfs').1
  · unfold EncDesc.scaleWrites at hx
    split at hx
    · cases hx
    · rename_i h0
      rw [List.mem_singleton] at hx
      subst hx
      rw [List.length_map, hsized.scales, ← hk]
      exact hscale

/-- The scale bytes. -/
theorem EncDesc.stored_scale {m : List Host.Cell} {j : Nat}
    (hj : j < if d.scale = 0 then 0 else if d.scale = 1 then rows.length / 4 * 8 else rows.length) :
    Mem.get (d.stored e first rows m) (d.scaleKey e first + j) =
      BitVec.ofNat 8 ((d.tile first rows).scales.getD j 0) := by
  have hsized := EncDesc.tile_sized (first := first) hrows h4
  have hlt : j < (d.tile first rows).scales.length := by rw [hsized.scales]; exact hj
  have h0 : d.scale ≠ 0 := fun h => by rw [if_pos h] at hj; cases hj
  have hne : rows.isEmpty = false := by
    rw [List.isEmpty_eq_false_iff]
    rintro rfl
    rw [if_neg h0] at hj
    simp at hj
  rw [EncDesc.stored, hne, if_neg Bool.false_ne_true, EncDesc.scaleWrites, if_neg h0]
  refine (Mem.get_writeAll_last (w := (d.scaleKey e first, (d.tile first rows).scales.map (BitVec.ofNat 8)))
    (by rw [List.length_map]; exact hlt) fun x hx => absurd hx List.not_mem_nil).trans ?_
  simp [List.getD_eq_getElem?_getD, List.getElem?_eq_getElem hlt]
end

theorem EncDesc.noted_frame (d : EncDesc) (fl : Option Loc) (first : Nat) (rows : List (List FV)) (x : Engine) :
    d.noted fl first rows x =
      { x with numstat := (d.noted fl first rows x).numstat, flushes := (d.noted fl first rows x).flushes } := by
  unfold EncDesc.noted
  split <;> rfl

/-- An encode joins its status bits to whatever numeric status stands, and its flush count to whatever counts stand. -/
theorem EncDesc.noted_numstat (d : EncDesc) (fl : Option Loc) (first : Nat) (rows : List (List FV)) {x y : Engine}
    {b : BitVec 3} (h : y.numstat = x.numstat ||| b) :
    (d.noted fl first rows y).numstat = (d.noted fl first rows x).numstat ||| b := by
  unfold EncDesc.noted
  split
  · exact h
  · change y.numstat ||| _ = (x.numstat ||| _) ||| b
    rw [h, BitVec.or_assoc, BitVec.or_assoc, BitVec.or_comm b]

theorem EncDesc.noted_flushes (d : EncDesc) (fl : Option Loc) (first : Nat) (rows : List (List FV)) {x y : Engine}
    (h : y.flushes = x.flushes) : (d.noted fl first rows y).flushes = (d.noted fl first rows x).flushes := by
  unfold EncDesc.noted
  split
  · exact h
  · change y.flushes ++ _ = x.flushes ++ _
    rw [h]

theorem EncDesc.noted_pc (d : EncDesc) (fl : Option Loc) (first : Nat) (rows : List (List FV)) (x : Engine) (pc : Nat) :
    d.noted fl first rows { x with pc := pc } = { d.noted fl first rows x with pc := pc } := by
  unfold EncDesc.noted
  split <;> rfl

/-- VENC moves its engine on, and otherwise changes what an encode changes. -/
theorem issue_venc {s : State} {e : Nat} {f : Fields} {r : Run} {d : EncDesc} {fl : Option Loc}
    (h : Issues s e 0x35 f r) (hd : f.d < 32) (hb : f.b = 0) (hc : f.c = 0) (him : f.imm ≤ 32)
    (hregs : f.d.toNat + f.imm.toNat ≤ 32) (hdesc : s.encDesc r ((s.eng e).gr f.a) 0 f.imm.toNat = .ok (d, fl)) :
    ∃ t, exec (.venc e f) s = .next t ∧ t = { s with engines := t.engines, ls := t.ls, freeCtr := t.freeCtr } ∧
      t.ls = (s.encodeRows r d fl 0 ((s.eng e).encRows f.d.toNat f.imm.toNat)).ls ∧
      (∀ e', e' ≠ e → t.eng e' = s.eng e') ∧
      t.eng e = { (s.encodeRows r d fl 0 ((s.eng e).encRows f.d.toNat f.imm.toNat)).eng e with
                  pc := (s.eng e).pc + 8 } := by
  obtain rfl := h.run_e
  have hself := State.eng_modEng_self s r.e Engine.next
  have hbody := vencBody_eq hd hb hc him hregs (u := s.modEng r.e Engine.next) (r := r) (d := d) (fl := fl)
    (by rw [hself, State.encDesc_next]; exact hdesc)
  rw [hself] at hbody
  obtain ⟨t, ht, hframe, hls, hother, heng⟩ := issue_encodeRows h rfl hbody rfl
    (fun e' he => State.eng_modEng_ne _ _ he) (hself.trans h.next_eq)
  refine ⟨t, ht, hframe, hls, hother, heng.trans ?_⟩
  rw [State.encodeRows_eng]
  exact EncDesc.noted_pc d fl 0 _ (s.eng r.e) _

/-- ADRAINE's change of its engine before it encodes: the window closes, CLEAR clears, and the program counter moves on. -/
def Engine.drained (n : Nat) (clear : Prop) [Decidable clear] (pc : Nat) (x : Engine) : Engine :=
  { (x.setAcc n (if clear then AccSet.clear else (x.acc n).close.1)).status (x.acc n).close.2 with pc := pc }

theorem issue_adraine {s : State} {e : Nat} {f : Fields} {r : Run} {d : EncDesc} {fl : Option Loc}
    (h : Issues s e 0x34 f r) (hd : f.d = 0) (hb : f.b = 0) (hc : f.c = 0) (him : f.imm < 0x2000)
    (hrows : f.imm.toNat / 2 % 32 + f.imm.toNat / 64 % 64 ≤ 32)
    (hdesc : s.encDesc r ((s.eng e).gr f.a) (f.imm.toNat / 2 % 32) (f.imm.toNat / 64 % 64) = .ok (d, fl))
    {vals : List (List FV)} (hvals : vals =
      ((s.eng e).acc (f.imm.toNat % 2)).close.1.encRows (f.imm.toNat / 2 % 32) (f.imm.toNat / 64 % 64)) :
    ∃ t, exec (.adraine e f) s = .next t ∧ t = { s with engines := t.engines, ls := t.ls, freeCtr := t.freeCtr } ∧
      t.ls = (s.encodeRows r d fl (f.imm.toNat / 2 % 32) vals).ls ∧ (∀ e', e' ≠ e → t.eng e' = s.eng e') ∧
      t.eng e = d.noted fl (f.imm.toNat / 2 % 32) vals
        ((s.eng e).drained (f.imm.toNat % 2) (f.imm.toNat / 4096 = 1) ((s.eng e).pc + 8)) := by
  obtain rfl := h.run_e
  subst hvals
  have hself := State.eng_modEng_self s r.e Engine.next
  have hbody := adraineBody_eq hd hb hc him hrows (u := s.modEng r.e Engine.next) (r := r) (d := d) (fl := fl)
    (by rw [hself, State.encDesc_next]; exact hdesc)
  rw [hself] at hbody
  refine issue_encodeRows h rfl hbody rfl
    (fun e' he => (State.eng_modEng_ne _ _ he).trans (State.eng_modEng_ne _ _ he)) ?_
  rw [State.eng_modEng_self, hself, h.next_eq]
  simp only [decide_eq_true_eq]
  rfl

/-- Settles O9: VENC and ADRAINE encode rows once their engine has moved on; an encode is a run of writes of known size. -/
theorem encodesAndFrame : Obligations.EncodesAndFrame := by
  unfold Obligations.EncodesAndFrame
  refine ⟨fun s e f r d fl => ⟨?_, ?_⟩, fun s r d fl first rows a hout hscale hrows hfmt h4 => ?_,
    fun s r d fl first rows hrows hfmt hshape h4 => ?_⟩
  · exact fun hi hd hb hc him hregs hdesc => issue_venc hi hd hb hc him hregs hdesc
  · intro hi hd hb hc him n first rows set hrows hdesc vals
    obtain ⟨t, ht, hframe, hls, hother, heng⟩ := issue_adraine hi hd hb hc him hrows hdesc (vals := vals) rfl
    obtain rfl := hi.run_e
    refine ⟨t, ht, hframe, hls, hother, ?_, ?_, ?_, fun a => ?_⟩
    · rw [heng, EncDesc.noted_frame]
      rfl
    · rw [heng, State.encodeRows_eng]
      exact EncDesc.noted_flushes _ _ _ _ rfl
    · rw [heng, State.encodeRows_eng]
      exact EncDesc.noted_numstat _ _ _ _ rfl
    · rw [heng, EncDesc.noted_frame]
      exact Engine.acc_setAcc _ _ _ _
  · rw [State.encodeRows_ls]
    exact EncDesc.stored_out hrows h4 hfmt hout hscale
  · refine ⟨fun hne => ?_, fun i hi m hm hlater hscl => ?_, fun m hm => ?_⟩
    · rw [State.encodeRows_eng, EncDesc.noted, List.isEmpty_eq_false_iff.2 hne]
      rfl
    · rw [State.encodeRows_ls]
      exact EncDesc.stored_row hrows h4 hfmt hi hm hlater rfl hscl
    · rw [State.encodeRows_ls]
      exact EncDesc.stored_scale hrows h4 hm

end Sys2Proof.Machine
end

section
/-!
SUPPORT. RLANE, RACC, RWEL and RMERGE, lane by lane (R166 to R171).
-/
namespace Sys2Proof.Machine

/-! ## Reductions inside one engine (R166 to R171) -/

/-- An instruction whose meaning writes consecutive vector registers. -/
theorem issue_writesVs {s : State} {e : Nat} {opc : BitVec 8} {f : Fields} {r : Run} (h : Issues s e opc f r)
    (hk : knownOpc opc.toNat = true) {body : Run → State → Except Err State} {g : Engine → Engine}
    (hb : ∀ u : State, u = s.modEng r.e Engine.next → body r u = .ok (u.modEng r.e g)) {d n : Nat}
    {vss : List (List W32)} {lanes : Nat → Nat → W32} (hg : g (s.eng e).next = (s.eng e).next.setVs d vss)
    (hn : vss.length = n) (hl : ∀ i < n, ∀ l < 32, (vss.getD i []).getD l 0 = lanes i l) :
    ∃ t, guarded (isEngine e) (s.issue e opc f body) = .next t ∧ WritesV s t e d n lanes ((s.eng e).pc + 8) := by
  obtain ⟨t, ht, honly, heng⟩ := issue_modEng h hk hb
  rw [hg] at heng
  refine ⟨t, ht, honly, ?_, fun q l hlt => ?_⟩
  · rw [heng, Engine.setVs_eq, h.next_eq]
  · rw [heng, Engine.lane_setVs hlt, hn]
    by_cases hq : d ≤ q ∧ q < d + n
    · rw [if_pos hq, if_pos hq, hl _ (by omega) l hlt]
    · rw [if_neg hq, if_neg hq]
      rfl

theorem imm_le_three {x : BitVec 32} (h : x ≤ 3) : x &&& ~~~ 3 = 0 :=
  imm_within (k := 2) (by have h' : x.toNat ≤ 3 := h; omega) (by decide)

theorem vRange_ok {q : BitVec 6} {n : Nat} (h : q.toNat + n ≤ 32) : vRange q n = .ok () := by
  rw [vRange, require, if_pos (decide_eq_true h)]

theorem rlaneBody_eq {f : Fields} (hd : f.d < 32) (ha : f.a < 32) (hb : f.b = 0) (hc : f.c = 0) (him : f.imm ≤ 3)
    (r : Run) (u : State) : rlaneBody f r u =
      .ok (u.modEng r.e fun x => x.setV f.d.toNat [laneFold f.imm.toNat (x.vr f.a.toNat)]) := by
  have hfields := checkFields_of (f := f) (Use.ok_vec hd) (Use.ok_vec ha) (Use.ok_no hb) (Use.ok_no hc)
    (imm_le_three him)
  simp only [rlaneBody, hfields, bind, Except.bind, onEngine]

/-- The pairs of RACC. -/
def Engine.raccPairs (x : Engine) (sel d a : Nat) : List (W32 × W32) :=
  List.zipWith (raccLane sel) ((x.vr d).zip (x.vr (d + 1))) (x.vr a)

theorem Engine.raccPairs_getElem? (x : Engine) (sel d a : Nat) {l : Nat} (hl : l < 32) :
    (x.raccPairs sel d a)[l]? = some (raccLane sel (x.lane d l, x.lane (d + 1) l) (x.lane a l)) := by
  have hpair : ((x.vr d).zip (x.vr (d + 1)))[l]? = some (x.lane d l, x.lane (d + 1) l) :=
    List.getElem?_zip_eq_some.2 ⟨Engine.vr_getElem? x d hl, Engine.vr_getElem? x (d + 1) hl⟩
  rw [Engine.raccPairs, List.getElem?_zipWith, hpair, Engine.vr_getElem? _ _ hl]

theorem raccBody_eq {f : Fields} (hd : f.d < 31) (ha : f.a < 32) (hb : f.b = 0) (hc : f.c = 0) (him : f.imm ≤ 3)
    (r : Run) (u : State) : raccBody f r u = .ok (u.modEng r.e fun x => x.setVs f.d.toNat
      [(x.raccPairs f.imm.toNat f.d.toNat f.a.toNat).map (·.1), (x.raccPairs f.imm.toNat f.d.toNat f.a.toNat).map (·.2)]) := by
  have hd' : f.d.toNat < 31 := hd
  have hfields := checkFields_of (f := f) (Use.ok_vec (BitVec.lt_def.2 (Nat.lt_succ_of_lt hd'))) (Use.ok_vec ha)
    (Use.ok_no hb) (Use.ok_no hc) (imm_le_three him)
  have hrange : vRange f.d 2 = .ok () := vRange_ok (by omega)
  simp only [raccBody, hfields, hrange, bind, Except.bind, onEngine]
  rfl

theorem map_getD_of {α : Type} {l : List α} {i : Nat} {x : α} (h : l[i]? = some x) (g : α → W32) :
    (l.map g).getD i 0 = g x := by
  rw [List.getD_eq_getElem?_getD, List.getElem?_map, h]
  rfl

/-- The columns of Welford states. -/
theorem welfordCols_getD {ws : List Welford} {l : Nat} {w : Welford} (h : ws[l]? = some w) : ∀ i < 4,
    (([ws.map (·.n), ws.map (·.m), ws.map (·.m2), ws.map (·.c)] : List (List W32)).getD i []).getD l 0 =
      if i = 0 then w.n else if i = 1 then w.m else if i = 2 then w.m2 else w.c := by
  intro i hi
  have hcases : i = 0 ∨ i = 1 ∨ i = 2 ∨ i = 3 := by omega
  rcases hcases with rfl | rfl | rfl | rfl
  · exact map_getD_of h (·.n)
  · exact map_getD_of h (·.m)
  · exact map_getD_of h (·.m2)
  · exact map_getD_of h (·.c)

/-- The fields of RWEL and RMERGE: a group of four registers from vD on, and vA. -/
theorem checkFields_group {f : Fields} (hd : f.d ≤ 28) (ha : f.a < 32) (hb : f.b = 0) (hc : f.c = 0) (him : f.imm = 0) :
    checkFields f .vec .vec .no .no 0 = .ok () ∧ vRange f.d 4 = .ok () := by
  have hd' : f.d.toNat ≤ 28 := hd
  exact ⟨checkFields_of (Use.ok_vec (BitVec.lt_def.2 (by change f.d.toNat < 32; omega))) (Use.ok_vec ha) (Use.ok_no hb)
    (Use.ok_no hc) (by rw [him]; rfl), vRange_ok (by omega)⟩

theorem rwelBody_eq {f : Fields} (hd : f.d ≤ 28) (ha : f.a < 32) (hb : f.b = 0) (hc : f.c = 0) (him : f.imm = 0)
    (r : Run) (u : State) : rwelBody f r u = .ok (u.modEng r.e fun x => x.setWelford f.d.toNat
      ((List.range 32).map fun l => welford (x.welfordAt f.d.toNat l) (x.lane f.a.toNat l))) := by
  obtain ⟨hfields, hrange⟩ := checkFields_group hd ha hb hc him
  simp only [rwelBody, hfields, hrange, bind, Except.bind, onEngine]

theorem rmergeBody_eq {f : Fields} (hd : f.d ≤ 28) (ha : f.a ≤ 28) (hb : f.b = 0) (hc : f.c = 0) (him : f.imm = 0)
    (r : Run) (u : State) : rmergeBody f r u = .ok (u.modEng r.e fun x => x.setWelford f.d.toNat
      ((List.range 32).map fun l => chan (x.welfordAt f.d.toNat l) (x.welfordAt f.a.toNat l))) := by
  have ha' : f.a.toNat ≤ 28 := ha
  obtain ⟨hfields, hrange⟩ :=
    checkFields_group hd (BitVec.lt_def.2 (by change f.a.toNat < 32; omega)) hb hc him
  simp only [rmergeBody, hfields, hrange, vRange_ok (by omega : f.a.toNat + 4 ≤ 32), bind, Except.bind, onEngine]

/-- Settles O10: each reduction is its body at issue. -/
theorem engineReductions : Obligations.EngineReductions := by
  unfold Obligations.EngineReductions
  intro s e f r
  refine ⟨?_, ?_, ?_, ?_⟩
  · intro hi hd ha hb hc him
    refine issue_writesV hi rfl (fun u _ => rlaneBody_eq hd ha hb hc him r u) rfl fun l _ => ?_
    cases l <;> rfl
  · intro hi hd ha hb hc him
    refine issue_writesVs hi rfl (fun u _ => raccBody_eq hd ha hb hc him r u) rfl rfl fun i hin l hl => ?_
    have hcases : i = 0 ∨ i = 1 := by omega
    rcases hcases with rfl | rfl
    · exact map_getD_of (Engine.raccPairs_getElem? (s.eng e) _ _ _ hl) (·.1)
    · exact map_getD_of (Engine.raccPairs_getElem? (s.eng e) _ _ _ hl) (·.2)
  · intro hi hd ha hb hc him
    exact issue_writesVs hi rfl (fun u _ => rwelBody_eq hd ha hb hc him r u) rfl rfl fun i hin l hl =>
      welfordCols_getD (by rw [List.getElem?_map, List.getElem?_range hl]; rfl) i hin
  · intro hi hd ha hb hc him
    exact issue_writesVs hi rfl (fun u _ => rmergeBody_eq hd ha hb hc him r u) rfl rfl fun i hin l hl =>
      welfordCols_getD (by rw [List.getElem?_map, List.getElem?_range hl]; rfl) i hin

end Sys2Proof.Machine
end

section
/-!
SUPPORT. What a wake request, a store at a place and a flag's change leave as it was.
-/
namespace Sys2Proof.Machine

/-! ## Wake requests (R361) -/

/-- What a wake request, or several, can change: the domains and the queues of the power controller; no course falls asleep or
wakes by it. -/
structure WakesOnly (s t : State) : Prop where
  frame : t = { s with doms := t.doms, pwr := t.pwr }
  pwr : t.pwr = { s.pwr with deepQ := t.pwr.deepQ, wakeQ := t.pwr.wakeQ }
  awake : ∀ c, t.courseAwake c = s.courseAwake c
  wakeReq : ∀ d, (s.dom d).wakeReq = true → (t.dom d).wakeReq = true

theorem WakesOnly.refl (s : State) : WakesOnly s s := ⟨rfl, rfl, fun _ => rfl, fun _ h => h⟩

theorem WakesOnly.trans {s t u : State} (h : WakesOnly s t) (k : WakesOnly t u) : WakesOnly s u where
  frame := by
    have hswap : ∀ D P, { t with doms := D, pwr := P } = { s with doms := D, pwr := P } := fun D P => by rw [h.frame]
    exact k.frame.trans (hswap _ _)
  pwr := by
    have hswap : ∀ a b, { t.pwr with deepQ := a, wakeQ := b } = { s.pwr with deepQ := a, wakeQ := b } :=
      fun a b => by rw [h.pwr]
    exact k.pwr.trans (hswap _ _)
  awake c := (k.awake c).trans (h.awake c)
  wakeReq d hd := k.wakeReq d (h.wakeReq d hd)

theorem WakesOnly.courses {s t : State} (h : WakesOnly s t) : t.courses = s.courses := by rw [h.frame]
theorem WakesOnly.engines {s t : State} (h : WakesOnly s t) : t.engines = s.engines := by rw [h.frame]
theorem WakesOnly.crs {s t : State} (h : WakesOnly s t) (c : Nat) : t.crs c = s.crs c := by
  rw [State.crs, h.courses, ← State.crs]
theorem WakesOnly.eng {s t : State} (h : WakesOnly s t) (e : Nat) : t.eng e = s.eng e := State.eng_of_engines h.engines e
theorem WakesOnly.flagVal {s t : State} (h : WakesOnly s t) (e f : Nat) : t.flagVal e f = s.flagVal e f := by
  rw [State.flagVal, h.eng, ← State.flagVal]

theorem WakesOnly.live {s t : State} (h : WakesOnly s t) : t.live = s.live := by
  rw [State.live, State.ready, h.pwr, h.frame]
  rfl
theorem WakesOnly.hostUsable {s t : State} (h : WakesOnly s t) (p : Nat) : t.hostUsable p = s.hostUsable p := by
  rw [State.hostUsable, h.pwr, h.frame]
  rfl

/-- A queue of the power controller takes a request. -/
theorem WakesOnly.withPwr {s t : State} (h : WakesOnly s t) {p : Pwr}
    (hp : p = { t.pwr with deepQ := p.deepQ, wakeQ := p.wakeQ }) : WakesOnly s { t with pwr := p } :=
  h.trans ⟨rfl, hp, fun _ => rfl, fun _ hd => hd⟩

theorem WakesOnly.foldl {α : Type} {g : State → α → State} (hg : ∀ s a, WakesOnly s (g s a)) :
    ∀ (l : List α) (s : State), WakesOnly s (l.foldl g s)
  | [], s => .refl s
  | a :: t, s => (hg s a).trans (WakesOnly.foldl hg t (g s a))

/-- What sleeps and what does not depends on three fields of a domain. -/
theorem State.courseAwake_of_dom {s t : State} {c : Nat} (hl : (t.dom c).level = (s.dom c).level)
    (hh : (t.dom c).held = (s.dom c).held) (he : (t.dom c).entering = (s.dom c).entering) :
    t.courseAwake c = s.courseAwake c := by rw [State.courseAwake, State.courseAwake, hl, hh, he]

theorem State.setDom_wakesOnly {s : State} {d : Nat} {x : Dom} (hl : x.level = (s.dom d).level)
    (hh : x.held = (s.dom d).held) (he : x.entering = (s.dom d).entering)
    (hw : (s.dom d).wakeReq = true → x.wakeReq = true) : WakesOnly s (s.setDom d x) where
  frame := rfl
  pwr := rfl
  wakeReq c hc := by
    by_cases hcd : c = d
    · subst hcd
      rw [State.dom_setDom_self]
      exact hw hc
    · rw [State.dom_setDom_ne _ x hcd]
      exact hc
  awake c := by
    by_cases hc : c = d
    · subst hc
      exact State.courseAwake_of_dom (by rw [State.dom_setDom_self, hl]) (by rw [State.dom_setDom_self, hh])
        (by rw [State.dom_setDom_self, he])
    · exact State.courseAwake_of_dom (by rw [State.dom_setDom_ne _ x hc]) (by rw [State.dom_setDom_ne _ x hc])
        (by rw [State.dom_setDom_ne _ x hc])

theorem State.requestWake_wakesOnly (s : State) (d : Nat) : WakesOnly s (s.requestWake d) := by
  unfold State.requestWake
  dsimp only
  split
  · exact .refl s
  · split
    · exact State.setDom_wakesOnly rfl rfl rfl fun h => h
    · split
      · refine .withPwr ?_ rfl
        exact State.setDom_wakesOnly rfl rfl rfl fun _ => rfl
      · split
        · refine .withPwr ?_ rfl
          exact State.setDom_wakesOnly rfl rfl rfl fun _ => rfl
        · exact State.setDom_wakesOnly rfl rfl rfl fun _ => rfl

/-- A domain that sleeps and is not held has asked for its exit. -/
theorem State.requestWake_wakeReq {s : State} {d : Nat} (hheld : (s.dom d).held = false)
    (hasleep : 2 ≤ (s.dom d).level ∨ (s.dom d).entering ≠ none) : ((s.requestWake d).dom d).wakeReq = true := by
  unfold State.requestWake
  simp only [hheld, Bool.false_or]
  by_cases hreq : (s.dom d).wakeReq = true
  · rw [if_pos hreq, hreq]
  · have hawake : ¬ (decide ((s.dom d).level ≤ 1) && (s.dom d).entering.isNone) = true := by
      simp only [Bool.and_eq_true, decide_eq_true_eq, Option.isNone_iff_eq_none]
      rintro ⟨hl, he⟩
      rcases hasleep with h | h
      · omega
      · exact h he
    rw [if_neg hreq, if_neg hawake]
    split
    · exact congrArg Dom.wakeReq (State.dom_setDom_self s d _)
    · split
      · exact congrArg Dom.wakeReq (State.dom_setDom_self s d _)
      · exact congrArg Dom.wakeReq (State.dom_setDom_self s d _)

theorem State.wakePiers_wakesOnly (s : State) (a n : Nat) : WakesOnly s (s.wakePiers a n) := by
  refine .foldl (fun t x => ?_) _ _
  dsimp only
  split
  · exact .refl t
  · exact t.requestWake_wakesOnly _

/-! ## Stores at a place -/

/-- What a store at a place, or several, can change: the stores, the counts of the pier controllers, and what wake requests
change. -/
structure StoreFrame (s t : State) : Prop where
  frame : t = { s with ls := t.ls, cs := t.cs, mem := t.mem, mcs := t.mcs, doms := t.doms, pwr := t.pwr }
  pwr : t.pwr = { s.pwr with deepQ := t.pwr.deepQ, wakeQ := t.pwr.wakeQ }
  awake : ∀ c, t.courseAwake c = s.courseAwake c
  wakeReq : ∀ d, (s.dom d).wakeReq = true → (t.dom d).wakeReq = true

theorem StoreFrame.refl (s : State) : StoreFrame s s := ⟨rfl, rfl, fun _ => rfl, fun _ h => h⟩

theorem StoreFrame.trans {s t u : State} (h : StoreFrame s t) (k : StoreFrame t u) : StoreFrame s u where
  frame := by
    have hswap : ∀ a b c d e f, { t with ls := a, cs := b, mem := c, mcs := d, doms := e, pwr := f } =
        { s with ls := a, cs := b, mem := c, mcs := d, doms := e, pwr := f } := fun a b c d e f => by rw [h.frame]
    exact k.frame.trans (hswap _ _ _ _ _ _)
  pwr := by
    have hswap : ∀ a b, { t.pwr with deepQ := a, wakeQ := b } = { s.pwr with deepQ := a, wakeQ := b } :=
      fun a b => by rw [h.pwr]
    exact k.pwr.trans (hswap _ _)
  awake c := (k.awake c).trans (h.awake c)
  wakeReq d hd := k.wakeReq d (h.wakeReq d hd)

theorem StoreFrame.live {s t : State} (h : StoreFrame s t) : t.live = s.live := by
  rw [State.live, State.ready, h.pwr, h.frame]
  rfl
theorem StoreFrame.hostUsable {s t : State} (h : StoreFrame s t) (p : Nat) : t.hostUsable p = s.hostUsable p := by
  rw [State.hostUsable, h.pwr, h.frame]
  rfl

theorem StoreFrame.engines {s t : State} (h : StoreFrame s t) : t.engines = s.engines := by rw [h.frame]
theorem StoreFrame.courses {s t : State} (h : StoreFrame s t) : t.courses = s.courses := by rw [h.frame]
theorem StoreFrame.eng {s t : State} (h : StoreFrame s t) (e : Nat) : t.eng e = s.eng e :=
  State.eng_of_engines h.engines e
theorem StoreFrame.crs {s t : State} (h : StoreFrame s t) (c : Nat) : t.crs c = s.crs c := by
  rw [State.crs, h.courses, ← State.crs]
theorem StoreFrame.flagVal {s t : State} (h : StoreFrame s t) (e f : Nat) : t.flagVal e f = s.flagVal e f := by
  rw [State.flagVal, h.eng, ← State.flagVal]

theorem StoreFrame.foldl {α : Type} {g : State → α → State} (hg : ∀ s a, StoreFrame s (g s a)) :
    ∀ (l : List α) (s : State), StoreFrame s (l.foldl g s)
  | [], s => .refl s
  | a :: t, s => (hg s a).trans (StoreFrame.foldl hg t (g s a))

theorem WakesOnly.storeFrame {s t : State} (h : WakesOnly s t) : StoreFrame s t where
  frame := by
    rw [h.frame]
  pwr := h.pwr
  awake := h.awake
  wakeReq := h.wakeReq

theorem State.countPier_storeFrame (s : State) (rd : Bool) (a n : Nat) : StoreFrame s (s.countPier rd a n) := by
  refine .foldl (fun t x => ?_) _ _
  dsimp only
  split
  · exact .refl t
  · exact ⟨rfl, rfl, fun _ => rfl, fun _ h => h⟩

theorem State.writeLoc_storeFrame (s : State) (l : Loc) (bs : List Byte) : StoreFrame s (s.writeLoc l bs) := by
  rw [State.writeLoc_eq]
  exact ⟨rfl, rfl, fun _ => rfl, fun _ h => h⟩

theorem State.storeLoc_storeFrame (s : State) (l : Loc) (bs : List Byte) : StoreFrame s (s.storeLoc l bs) := by
  cases l with
  | ls e off => exact s.writeLoc_storeFrame (.ls e off) bs
  | cs c off => exact s.writeLoc_storeFrame (.cs c off) bs
  | pier a =>
    exact ((s.writeLoc_storeFrame (.pier a) bs).trans (State.countPier_storeFrame _ _ _ _)).trans
      (State.wakePiers_wakesOnly _ _ _).storeFrame

theorem State.storeLoc_stores (s : State) (l : Loc) (bs : List Byte) :
    (s.storeLoc l bs).stores = (s.writeLoc l bs).stores := by
  cases l with
  | ls e off => rfl
  | cs c off => rfl
  | pier a => simp [State.storeLoc, State.writeLoc]

/-- The three stores, one by one. -/
theorem State.stores_split {s t : State} (h : t.stores = s.stores) : t.ls = s.ls ∧ t.cs = s.cs ∧ t.mem = s.mem :=
  ⟨congrArg (·.1) h, congrArg (·.2.1) h, congrArg (·.2.2) h⟩

/-! ## Additions to flags (R224, R225, R229) -/

section
variable (s : State) (e f : Nat) (v : W32)

theorem State.eng_setFlag (e' : Nat) : (s.setFlag e f v).eng e' =
    { s.eng e' with flags := if e' = e then Tab.put 0 (s.eng e).flags f v else (s.eng e').flags } := by
  rw [State.setFlag, State.eng_modEng]
  split
  · rename_i h
    rw [h]
  · rfl

theorem State.flagVal_setFlag (e' f' : Nat) :
    (s.setFlag e f v).flagVal e' f' = if e' = e ∧ f' = f then v else s.flagVal e' f' := by
  rw [State.flagVal, State.eng_setFlag]
  by_cases he : e' = e
  · subst he
    simp only [if_true, true_and]
    exact Tab.get_put _ _ _ _ _
  · simp only [he, if_false, false_and]
    rfl

/-- An addition that is held for a course, its wake asked for. -/
theorem State.flagAdd_asleep (h : s.courseAwake (e / 32) = false) : s.flagAdd e f v =
    (s.modCrs (e / 32) fun c => { c with heldAdds := c.heldAdds ++ [(e, f, v)] }).requestWake (e / 32) := by
  rw [State.flagAdd, h, if_neg Bool.false_ne_true]

theorem State.flagAdd_awake (h : s.courseAwake (e / 32) = true) :
    s.flagAdd e f v = s.setFlag e f (s.flagVal e f + v) := by rw [State.flagAdd, if_pos h]

/-- What an addition to a flag leaves as it was. -/
structure FlagFrame (s t : State) : Prop where
  frame : t = { s with engines := t.engines, courses := t.courses, doms := t.doms, pwr := t.pwr }
  eng : ∀ e, t.eng e = { s.eng e with flags := (t.eng e).flags }
  crs : ∀ c, t.crs c = { s.crs c with heldAdds := (t.crs c).heldAdds }
  awake : ∀ c, t.courseAwake c = s.courseAwake c

theorem FlagFrame.refl : FlagFrame s s := ⟨rfl, fun _ => rfl, fun _ => rfl, fun _ => rfl⟩

theorem FlagFrame.rslot {s t : State} (h : FlagFrame s t) (c k : Nat) : t.rslot c k = s.rslot c k := by
  rw [State.rslot, State.rslot, h.crs c]

theorem FlagFrame.hodSlot {s t : State} (h : FlagFrame s t) (c k : Nat) : t.hodSlot c k = s.hodSlot c k := by
  rw [State.hodSlot, State.hodSlot, h.crs c]

theorem State.flagAdd_flagFrame : FlagFrame s (s.flagAdd e f v) := by
  cases h : s.courseAwake (e / 32) with
  | true =>
    rw [State.flagAdd_awake _ _ _ _ h]
    exact ⟨rfl, fun e' => by rw [State.eng_setFlag], fun c => rfl, fun c => rfl⟩
  | false =>
    rw [State.flagAdd_asleep _ _ _ _ h]
    generalize hu : (s.modCrs (e / 32) fun c => { c with heldAdds := c.heldAdds ++ [(e, f, v)] }) = u
    have hwake := u.requestWake_wakesOnly (e / 32)
    have hframe : u = { s with courses := u.courses } := by rw [← hu]; rfl
    have hcrs : ∀ c, u.crs c = { s.crs c with heldAdds := (u.crs c).heldAdds } := fun c => by
      rw [← hu, State.crs_modCrs]
      split
      · rename_i hc
        rw [hc]
      · rfl
    have hswap : ∀ D P, { u with doms := D, pwr := P } = { s with courses := u.courses, doms := D, pwr := P } :=
      fun D P => by rw [hframe]
    have hall := hwake.frame.trans (hswap _ _)
    refine ⟨?_, fun e' => ?_, fun c => ?_, fun c => ?_⟩
    · rw [hall]
    · rw [hwake.eng, hframe]
      rfl
    · rw [hwake.crs, hcrs c]
    · rw [hwake.awake, hframe]
      rfl

/-- An addition reaches its flag, or is held for its course. -/
theorem State.flagAdd_raised : FlagRaised s (s.flagAdd e f v) e f v := by
  refine ⟨fun h e' f' => ?_, fun h => ?_⟩
  · rw [State.flagAdd_awake _ _ _ _ h, State.flagVal_setFlag]
    by_cases hef : e' = e ∧ f' = f
    · rw [if_pos hef, if_pos hef, hef.1, hef.2]
    · rw [if_neg hef, if_neg hef]
  · rw [State.flagAdd_asleep _ _ _ _ h]
    have hwake := State.requestWake_wakesOnly
      (s.modCrs (e / 32) fun c => { c with heldAdds := c.heldAdds ++ [(e, f, v)] }) (e / 32)
    refine ⟨?_, fun e' f' => ?_, fun hheld => State.requestWake_wakeReq hheld ?_⟩
    · rw [hwake.crs, State.crs_modCrs_self]
    · rw [hwake.flagVal]
      rfl
    · change 2 ≤ (s.dom (e / 32)).level ∨ (s.dom (e / 32)).entering ≠ none
      rw [State.courseAwake, hheld] at h
      by_contra hno
      rw [not_or, not_not] at hno
      rw [hno.2] at h
      have hlevel : (s.dom (e / 32)).level ≤ 1 := by omega
      simp [hlevel] at h
end

end Sys2Proof.Machine
end

section
/-!
SUPPORT. RSCFG, RCONT and the result of a reduction slot (R92 to R94, R174, R175).
-/
namespace Sys2Proof.Machine

/-! ## RSCFG (R92) -/

/-- The fields of a reduction descriptor. -/
structure RsDesc where
  op : Nat
  len : Nat
  count : Nat
  first : Nat
  done : Nat
  dest : W64
  buf : W64

def RsDesc.ofBytes (b : List Byte) : RsDesc :=
  { op := fieldAt b 0 1, len := fieldAt b 1 1, count := fieldAt b 4 4, first := fieldAt b 8 4,
    done := fieldAt b 0x0C 4, dest := w64At b 0x10, buf := w64At b 0x18 }

/-- Registers of one contribution to the slot that a descriptor configures. -/
def RsDesc.regs (x : RsDesc) : Nat := if x.op = 4 then 3 * x.len else x.len

/-- The slot that a descriptor configures. -/
def RsDesc.slot (x : RsDesc) (dest : Loc) (off : Nat) : RSlot :=
  { op := x.op, lenRegs := x.len, count := x.count, firstSeq := x.first, doneValid := bit x.done 31,
    doneEngine := bits x.done 26 16, doneFlag := bits x.done 5 0, dest := dest, bufOff := off, got := [],
    combined := 0, acc := slotStart x.op x.len }

/-- What RSCFG asks of its descriptor and of the slot (R92). -/
structure RscfgOk (s : State) (r : Run) (f : Fields) (b : List Byte) (dest : Loc) (off : Nat) : Prop where
  noD : f.d = 0
  noB : f.b = 0
  noC : f.c = 0
  imm : f.imm < 32
  op : (RsDesc.ofBytes b).op ≤ 4
  len_pos : 1 ≤ (RsDesc.ofBytes b).len
  len_le : (RsDesc.ofBytes b).len ≤ 8
  zero : fieldAt b 2 2 = 0
  done_low : bits (RsDesc.ofBytes b).done 15 6 = 0
  done_high : bits (RsDesc.ofBytes b).done 30 27 = 0
  flag : bits (RsDesc.ofBytes b).done 5 0 ≤ 47
  mayRaise : bit (RsDesc.ofBytes b).done 31 = true →
    s.partOfEngine (bits (RsDesc.ofBytes b).done 26 16) = some r.part ∧
      (r.d.net = true ∨ bits (RsDesc.ofBytes b).done 5 0 < s.cfg.flagSysBase)
  idle : s.rslot r.c f.imm.toNat = none
  place : s.resolve r.e r.c r.part (RsDesc.ofBytes b).dest ((RsDesc.ofBytes b).regs * 128) = .ok dest
  admits : r.d.admits r.c true dest ((RsDesc.ofBytes b).regs * 128) = true
  buf : eaMalformed (RsDesc.ofBytes b).buf = false
  bufLoc : eaLoc r.e r.c (RsDesc.ofBytes b).buf = .cs r.c off
  off_lt : off < csUsable
  fits : off + (RsDesc.ofBytes b).count * (RsDesc.ofBytes b).regs * 128 ≤ csUsable

theorem rscfgBody_eq {f : Fields} {r : Run} {u : State} {b : List Byte} {dest : Loc} {off : Nat}
    (hspan : ((u.eng r.e).gr f.a).toNat + 32 ≤ 0x60000) (hread : u.lsRead r.e ((u.eng r.e).gr f.a).toNat 32 = b)
    (h : RscfgOk u r f b dest off) : rscfgBody f r u =
      .ok (if (RsDesc.ofBytes b).count = 0 then
        u.slotFlag (bit (RsDesc.ofBytes b).done 31) (bits (RsDesc.ofBytes b).done 26 16) (bits (RsDesc.ofBytes b).done 5 0)
      else u.setRslot r.c f.imm.toNat ((RsDesc.ofBytes b).slot dest off)) := by
  have hfields := checkFields_of (f := f) (m := 0x1F) (a := .any) (Use.ok_no h.noD) rfl (Use.ok_no h.noB) (Use.ok_no h.noC)
    (imm_within (k := 5) h.imm (by decide))
  have hbytes : u.lsBytes r.e ((u.eng r.e).gr f.a).toNat 32 = .ok b := by
    rw [State.lsBytes_ok hspan (by decide), hread]
  have hop : fieldAt b 0 1 ≤ 4 := h.op
  have hpos : 1 ≤ fieldAt b 1 1 := h.len_pos
  have hlen : fieldAt b 1 1 ≤ 8 := h.len_le
  have hlow : bits (fieldAt b 0x0C 4) 15 6 = 0 := h.done_low
  have hhigh : bits (fieldAt b 0x0C 4) 30 27 = 0 := h.done_high
  have hflag : bits (fieldAt b 0x0C 4) 5 0 ≤ 47 := h.flag
  have hform : (decide (fieldAt b 0 1 ≤ 4) && decide (1 ≤ fieldAt b 1 1) && decide (fieldAt b 1 1 ≤ 8) &&
      fieldAt b 2 2 == 0 && bits (fieldAt b 0x0C 4) 15 6 == 0 && bits (fieldAt b 0x0C 4) 30 27 == 0 &&
      decide (bits (fieldAt b 0x0C 4) 5 0 ≤ 47)) = true := by
    simp [hop, hpos, hlen, h.zero, hlow, hhigh, hflag]
  have hmay : (!bit (fieldAt b 0x0C 4) 31 || (u.partOfEngine (bits (fieldAt b 0x0C 4) 26 16) == some r.part &&
      (r.d.net || decide (bits (fieldAt b 0x0C 4) 5 0 < u.cfg.flagSysBase)))) = true := by
    cases hv : bit (fieldAt b 0x0C 4) 31 with
    | false => rfl
    | true =>
      obtain ⟨hpart, hnet⟩ := h.mayRaise hv
      change u.partOfEngine (bits (fieldAt b 0x0C 4) 26 16) = _ at hpart
      change _ ∨ bits (fieldAt b 0x0C 4) 5 0 < _ at hnet
      simpa [hpart] using hnet
  have hidle : (u.rslot r.c f.imm.toNat).isNone = true := by rw [h.idle]; rfl
  have hdest : u.resolve r.e r.c r.part (w64At b 0x10)
      ((if fieldAt b 0 1 = 4 then 3 * fieldAt b 1 1 else fieldAt b 1 1) * 128) = .ok dest := h.place
  have hloc : eaLoc r.e r.c (w64At b 0x18) = .cs r.c off := h.bufLoc
  have hadmits : r.d.admits r.c true dest
      ((if fieldAt b 0 1 = 4 then 3 * fieldAt b 1 1 else fieldAt b 1 1) * 128) = true := h.admits
  have hmal : eaMalformed (w64At b 0x18) = false := h.buf
  have hfits : off + fieldAt b 4 4 * (if fieldAt b 0 1 = 4 then 3 * fieldAt b 1 1 else fieldAt b 1 1) * 128 ≤ csUsable :=
    h.fits
  have hbuf : (!eaMalformed (w64At b 0x18) && r.c == r.c && decide (off < csUsable) && decide (off + fieldAt b 4 4 *
      (if fieldAt b 0 1 = 4 then 3 * fieldAt b 1 1 else fieldAt b 1 1) * 128 ≤ csUsable)) = true := by
    rw [hmal, decide_eq_true h.off_lt, decide_eq_true hfits, beq_self_eq_true]
    rfl
  simp only [rscfgBody, hfields, hbytes, hform, hmay, hidle, hdest, hloc, hadmits, hbuf, require, bind, Except.bind,
    if_true, RsDesc.ofBytes, RsDesc.slot]
  by_cases hcount : fieldAt b 4 4 = 0
  · rw [if_pos hcount]
    exact congrArg Except.ok (if_pos hcount).symm
  · rw [if_neg hcount]
    exact congrArg Except.ok (if_neg hcount).symm

theorem State.slotFlag_flagFrame (s : State) (valid : Bool) (e f : Nat) : FlagFrame s (s.slotFlag valid e f) := by
  cases valid with
  | false => exact .refl s
  | true => exact s.flagAdd_flagFrame e f 1

/-- What an instruction whose meaning answers `v` leaves: `v`, with the count of free values. -/
theorem issue_next {s : State} {e : Nat} {opc : BitVec 8} {f : Fields} {r : Run} (h : Issues s e opc f r)
    (hk : knownOpc opc.toNat = true) {body : Run → State → Except Err State} {v : State}
    (hb : body r (s.modEng r.e Engine.next) = .ok v) :
    ∃ n, guarded (isEngine e) (s.issue e opc f body) = .next { v with freeCtr := n } := by
  obtain rfl := h.run_e
  rw [guarded_ok h.isEngine, State.issue_ok h hk hb]
  split
  · exact ⟨v.freeCtr, rfl⟩
  · exact ⟨_, rfl⟩

@[simp] theorem State.flagVal_next (s : State) (e e' f : Nat) :
    (s.modEng e Engine.next).flagVal e' f = s.flagVal e' f := by
  rw [State.flagVal, State.eng_modEng]
  split
  · rename_i h
    rw [h]
    rfl
  · rfl

/-- A flag that rises between two states rises between two others with the same flags, domains and courses. -/
theorem flagRaised_congr {s s' t t' : State} {e f : Nat} {v : W32} (h : FlagRaised s t e f v)
    (hs : ∀ e' f', s'.flagVal e' f' = s.flagVal e' f') (hsd : s'.doms = s.doms) (hsc : s'.courses = s.courses)
    (ht : ∀ e' f', t'.flagVal e' f' = t.flagVal e' f') (htd : t'.doms = t.doms) (htc : t'.courses = t.courses) :
    FlagRaised s' t' e f v := by
  have hsdom : ∀ d, s'.dom d = s.dom d := fun d => by rw [State.dom, State.dom, hsd]
  have htdom : ∀ d, t'.dom d = t.dom d := fun d => by rw [State.dom, State.dom, htd]
  have hscrs : ∀ c, s'.crs c = s.crs c := fun c => by rw [State.crs, State.crs, hsc]
  have htcrs : ∀ c, t'.crs c = t.crs c := fun c => by rw [State.crs, State.crs, htc]
  unfold FlagRaised
  rw [State.courseAwake, hsdom, htdom, hscrs, htcrs]
  simp only [hs, ht]
  exact h

section
variable {s : State} {e : Nat} {f : Fields} {r : Run} {b : List Byte} {dest : Loc} {off : Nat}

/-- RSCFG of no contributions raises DONE at once. -/
theorem issue_rscfg_none (h : Issues s e 0x53 f r) (hspan : ((s.eng e).gr f.a).toNat + 32 ≤ 0x60000)
    (hread : s.lsRead e ((s.eng e).gr f.a).toNat 32 = b) (hok : RscfgOk s r f b dest off)
    (hcount : (RsDesc.ofBytes b).count = 0) :
    ∃ n, exec (.rscfg e f) s = .next { (s.modEng e Engine.next).slotFlag (bit (RsDesc.ofBytes b).done 31)
      (bits (RsDesc.ofBytes b).done 26 16) (bits (RsDesc.ofBytes b).done 5 0) with freeCtr := n } := by
  obtain rfl := h.run_e
  have hbody := rscfgBody_eq (r := r) (f := f) (u := s.modEng r.e Engine.next) (b := b) (dest := dest) (off := off)
    (by rw [State.eng_modEng_self]; exact hspan) (by rw [State.eng_modEng_self, State.lsRead_next]; exact hread)
    { hok with }
  rw [if_pos hcount] at hbody
  exact issue_next h rfl hbody

/-- RSCFG of some contributions configures its slot. -/
theorem issue_rscfg_some (h : Issues s e 0x53 f r) (hspan : ((s.eng e).gr f.a).toNat + 32 ≤ 0x60000)
    (hread : s.lsRead e ((s.eng e).gr f.a).toNat 32 = b) (hok : RscfgOk s r f b dest off)
    (hcount : (RsDesc.ofBytes b).count ≠ 0) :
    ∃ n, exec (.rscfg e f) s = .next { (s.modEng e Engine.next).setRslot r.c f.imm.toNat
      ((RsDesc.ofBytes b).slot dest off) with freeCtr := n } := by
  obtain rfl := h.run_e
  have hbody := rscfgBody_eq (r := r) (f := f) (u := s.modEng r.e Engine.next) (b := b) (dest := dest) (off := off)
    (by rw [State.eng_modEng_self]; exact hspan) (by rw [State.eng_modEng_self, State.lsRead_next]; exact hread)
    { hok with }
  rw [if_neg hcount] at hbody
  exact issue_next h rfl hbody
end

theorem State.rslot_setRslot (s : State) (c n k : Nat) (x : RSlot) :
    (s.setRslot c n x).rslot c k = if k = n then some x else s.rslot c k := by
  rw [State.rslot, State.setRslot, State.crs_modCrs_self]
  exact Tab.find?_set _ _ _ _

theorem State.crs_setRslot (s : State) (c n c' : Nat) (x : RSlot) : (s.setRslot c n x).crs c' =
    if c' = c then { s.crs c with rslots := ((s.setRslot c n x).crs c).rslots } else s.crs c' := by
  rw [State.setRslot, State.crs_modCrs, State.crs_modCrs_self]

/-! ## RCONT (R93) -/

theorem rcontBody_eq {f : Fields} (hd : f.d = 0) (ha : f.a < 32) (hb : f.b = 0) (hc : f.c = 0) (him : f.imm = 0)
    {r : Run} {u : State} (hnone : (u.eng r.e).contrib = none) {x : RSlot} {n : Nat}
    (hslot : u.contribSlot r.c r.d = .ok (x, n)) (hregs : f.a.toNat + x.regs ≤ 32) :
    rcontBody f r u = .ok (u.modEng r.e fun y => { y with
      contrib := some ((List.range (32 - f.a.toNat)).flatMap fun i => y.vr (f.a.toNat + i)) }) := by
  have hfields := checkFields_of (f := f) (m := 0) (Use.ok_no hd) (Use.ok_vec ha) (Use.ok_no hb) (Use.ok_no hc)
    (by rw [him]; rfl)
  simp only [rcontBody, hfields, hnone, hslot, vRange_ok hregs, require, Option.isNone_none, if_true, bind, Except.bind,
    onEngine]

/-! ## The result of a slot (R94, R175) -/

theorem State.slotDone_eq {s : State} {c n : Nat} {x : RSlot} (hlive : s.live = true) (hslot : s.rslot c n = some x)
    (hdone : x.count ≤ x.combined) : s.slotDone c n =
      ((s.storeLoc x.dest (laneBytes x.result)).slotFlag x.doneValid x.doneEngine x.doneFlag).idleRslot c n := by
  rw [State.slotDone, hlive, if_neg (by decide)]
  simp only [hslot]
  rw [if_neg (by omega)]

theorem State.rslot_idleRslot_self (s : State) (c n : Nat) : (s.idleRslot c n).rslot c n = none := by
  rw [State.rslot, State.idleRslot, State.crs_modCrs_self]
  exact (Tab.find?_erase _ _ _).trans (if_pos rfl)

/-- Settles O11: RSCFG answers an addition to a flag or a slot set anew; RCONT changes its engine alone; the end of a slot is a
store, an addition to a flag and a slot that idles. -/
theorem reductionSlotsAndResult : Obligations.ReductionSlotsAndResult := by
  unfold Obligations.ReductionSlotsAndResult
  refine ⟨fun s e f r => ⟨?_, ?_⟩, fun s c n x hc hn hlive hslot hdone hvalid he hawake => ?_⟩
  · intro hi hd hb hc him hspan b op len count done g hop hpos hlen hzero hlow hhigh hflag hmay hidle dest off hplace
      hadmits hmal hloc hoff hfits
    obtain rfl := hi.run_e
    have hok : RscfgOk s r f b dest off :=
      ⟨hd, hb, hc, him, hop, hpos, hlen, hzero, hlow, hhigh, hflag, hmay, hidle, hplace, hadmits, hmal, hloc, hoff, hfits⟩
    by_cases hcount : count = 0
    · obtain ⟨n, hexec⟩ := issue_rscfg_none hi hspan rfl hok hcount
      have hframe := (s.modEng r.e Engine.next).slotFlag_flagFrame (bit done 31) (bits done 26 16) (bits done 5 0)
      refine ⟨_, hexec, fun _ => ⟨?_, fun hv => ?_, fun hv => ?_⟩, fun h => absurd hcount h⟩
      · exact (hframe.rslot r.c f.imm.toNat).trans hidle
      · have hv' : bit (RsDesc.ofBytes b).done 31 = false := hv
        rw [hv']
        exact onlyPc_of hi ⟨rfl, fun e' he => State.eng_modEng_ne _ _ he⟩ (State.eng_modEng_self _ _ _)
      · have hv' : bit (RsDesc.ofBytes b).done 31 = true := hv
        have hraised := (s.modEng r.e Engine.next).flagAdd_raised (bits done 26 16) (bits done 5 0) 1
        have hadd := (s.modEng r.e Engine.next).flagAdd_flagFrame (bits done 26 16) (bits done 5 0) 1
        rw [hv']
        refine ⟨flagRaised_congr hraised (fun e' f' => (s.flagVal_next _ _ _).symm) rfl rfl (fun _ _ => rfl) rfl rfl, ?_,
          fun e' => ?_,
          hadd.crs⟩
        · exact congrArg (fun t : State => { t with freeCtr := n }) hadd.frame
        · refine (hadd.eng e').trans ?_
          rw [State.eng_modEng]
          split
          · rename_i he
            rw [he, hi.next_eq]
            rfl
          · rfl
    · obtain ⟨n, hexec⟩ := issue_rscfg_some hi hspan rfl hok hcount
      refine ⟨_, hexec, fun h => absurd h hcount, fun _ => ⟨rfl, ?_, fun c' => ?_, fun k => ?_⟩⟩
      · exact onlyPc_of hi ⟨rfl, fun e' he => State.eng_modEng_ne _ _ he⟩ (State.eng_modEng_self _ _ _)
      · exact State.crs_setRslot _ _ _ _ _
      · exact State.rslot_setRslot _ _ _ _ _
  · intro hi hd ha hb hc him hnone x n hslot hregs
    obtain rfl := hi.run_e
    have hbody := rcontBody_eq hd ha hb hc him (u := s.modEng r.e Engine.next) (x := x) (n := n)
      (by rw [State.eng_modEng_self]; exact hnone) hslot hregs
    obtain ⟨t, ht, honly, heng⟩ := issue_modEng hi rfl fun u hu => hu ▸ hbody
    refine ⟨t, ht, honly, ?_, ?_⟩
    · rw [heng, hi.next_eq]
    · rw [heng]
      rfl
  · refine ⟨_, guarded_ok (by simp [isCourse, isRSlot, hc, hn]) _, ?_⟩
    rw [State.slotDone_eq hlive hslot hdone, hvalid]
    have hstore := s.storeLoc_storeFrame x.dest (laneBytes x.result)
    have hraised := (s.storeLoc x.dest (laneBytes x.result)).flagAdd_raised x.doneEngine x.doneFlag 1
    have hframe := (s.storeLoc x.dest (laneBytes x.result)).flagAdd_flagFrame x.doneEngine x.doneFlag 1
    refine ⟨State.rslot_idleRslot_self _ _ _, ?_, ?_⟩
    · refine (hraised.1 (by rw [hstore.awake]; exact hawake) _ _).trans ?_
      rw [if_pos ⟨rfl, rfl⟩, hstore.flagVal]
    · refine State.stores_split (.trans ?_ (s.storeLoc_stores x.dest (laneBytes x.result)))
      simp [State.slotFlag]

end Sys2Proof.Machine
end

section
/-!
SUPPORT. Copies and plinth operations at issue (R80 to R82, R209 to R211).
-/
namespace Sys2Proof.Machine

/-! ## A copy hung on the queue (R80, R83) -/

/-- A flag number that the item may name (R80, R228). -/
theorem State.flagCheck_ok {s : State} {r : Run} {d : BitVec 6} (hlt : d < 48)
    (hok : r.d.net = true ∨ d.toNat < s.cfg.flagSysBase) : s.flagCheck r d.toNat = .ok () := by
  have hlt' : d.toNat < 48 := hlt
  have hno : ¬ (!r.d.net && decide (d.toNat ≥ s.cfg.flagSysBase)) = true := by
    rcases hok with hn | hn
    · simp [hn]
    · simp [hn]
  rw [State.flagCheck, if_neg (by omega), if_neg hno]

/-- What hanging one copy of an engine leaves as it was, and the copy that it hangs. -/
def Hangs (s t : State) (e : Nat) (o : CopyOp) : Prop :=
  t = { s with engines := t.engines, doms := t.doms, pwr := t.pwr, nextCopy := s.nextCopy + 1, freeCtr := t.freeCtr } ∧
  (∀ e', e' ≠ e → t.eng e' = s.eng e') ∧
  t.eng e = { s.eng e with copies := (s.eng e).copies ++ [o], pc := (s.eng e).pc + 8 }

/-- The operation that an issue hangs, before its engine's program counter is known. -/
def State.copyOpOf (s : State) (r : Run) (opc : BitVec 8) (flag : Nat) (segs : List Seg) (q : Option Plinth)
    (reads writes : List (Loc × Nat)) (outs : List Byte → List (Loc × List Byte)) : CopyOp :=
  { flag := flag, flagEngine := s.flagEngine r.e, segs := segs, plinth := q, srcSnap := s.gather reads,
    dstSnap := s.gather writes, outs := outs (s.gather reads), live := true, reset := false, homeCourse := r.c,
    slot := r.k, opc := opc, pc := (s.eng r.e).pc - 8, ord := s.nextCopy }

theorem wakeSpans_wakesOnly (l : List (Loc × Nat)) (s : State) :
    WakesOnly s (l.foldl (fun s a => match a.1 with | .pier p => s.wakePiers p a.2 | _ => s) s) := by
  refine .foldl (fun t a => ?_) _ _
  split
  · exact t.wakePiers_wakesOnly _ _
  · exact .refl t

section
variable (s : State) (r : Run) (opc : BitVec 8) (flag : Nat) (segs : List Seg) (q : Option Plinth)
  (reads writes : List (Loc × Nat)) (outs : List Byte → List (Loc × List Byte))

theorem State.pushCopy_wakesOnly :
    WakesOnly ({ s with nextCopy := s.nextCopy + 1 }.modEng r.e fun x =>
      { x with copies := x.copies ++ [s.copyOpOf r opc flag segs q reads writes outs] })
    (s.pushCopy r opc flag segs q reads writes outs) := wakeSpans_wakesOnly _ _

theorem State.pushCopy_frame : s.pushCopy r opc flag segs q reads writes outs =
    { s with engines := (s.pushCopy r opc flag segs q reads writes outs).engines,
             doms := (s.pushCopy r opc flag segs q reads writes outs).doms,
             pwr := (s.pushCopy r opc flag segs q reads writes outs).pwr, nextCopy := s.nextCopy + 1 } := by
  have hwake := s.pushCopy_wakesOnly r opc flag segs q reads writes outs
  rw [hwake.frame]
  rfl

theorem State.pushCopy_eng : (s.pushCopy r opc flag segs q reads writes outs).eng r.e =
    { s.eng r.e with copies := (s.eng r.e).copies ++ [s.copyOpOf r opc flag segs q reads writes outs] } :=
  ((s.pushCopy_wakesOnly r opc flag segs q reads writes outs).eng r.e).trans (State.eng_modEng_self _ _ _)

theorem State.pushCopy_eng_ne {e : Nat} (he : e ≠ r.e) :
    (s.pushCopy r opc flag segs q reads writes outs).eng e = s.eng e :=
  ((s.pushCopy_wakesOnly r opc flag segs q reads writes outs).eng e).trans (State.eng_modEng_ne _ _ he)
end

/-- An instruction whose meaning hangs a copy. -/
theorem issue_pushCopy {s : State} {e : Nat} {opc : BitVec 8} {f : Fields} {r : Run} (h : Issues s e opc f r)
    (hk : knownOpc opc.toNat = true) {body : Run → State → Except Err State} {flag : Nat} {segs : List Seg}
    {q : Option Plinth} {reads writes : List (Loc × Nat)} {outs : List Byte → List (Loc × List Byte)}
    (hb : body r (s.modEng r.e Engine.next) =
      .ok ((s.modEng r.e Engine.next).pushCopy r opc flag segs q reads writes outs)) :
    ∃ t o, guarded (isEngine e) (s.issue e opc f body) = .next t ∧ Hangs s t e o ∧ o.flag = flag ∧
      o.flagEngine = s.flagEngine e ∧ o.plinth = q ∧ o.live = true ∧ o.segs = segs := by
  obtain ⟨n, hexec⟩ := issue_next h hk hb
  obtain rfl := h.run_e
  have hself := State.eng_modEng_self s r.e Engine.next
  refine ⟨_, (s.modEng r.e Engine.next).copyOpOf r opc flag segs q reads writes outs, hexec,
    ⟨?_, fun e' he => ?_, ?_⟩, ?_⟩
  · have hframe := (s.modEng r.e Engine.next).pushCopy_frame r opc flag segs q reads writes outs
    exact congrArg (fun t : State => { t with freeCtr := n }) hframe
  · exact (State.pushCopy_eng_ne _ _ _ _ _ _ _ _ _ he).trans (State.eng_modEng_ne _ _ he)
  · refine (State.pushCopy_eng _ _ _ _ _ _ _ _ _).trans ?_
    rw [hself, h.next_eq]
  · refine ⟨rfl, ?_, rfl, rfl, rfl⟩
    change ((s.modEng r.e Engine.next).eng r.e).rehomed.getD r.e = _
    rw [hself]
    rfl

/-! ## CPY, CPYS and CPYP at issue (R80, R81, R209 to R211) -/

@[simp] theorem State.outstanding_next (s : State) (e : Nat) :
    ((s.modEng e Engine.next).eng e).outstanding = (s.eng e).outstanding := by
  rw [State.eng_modEng_self]
  rfl

/-- The copy of a CPY: none for a length of zero. -/
def cpySegs (n : Nat) (src dst : Loc) : List Seg := if n = 0 then [] else [{ src := src, dst := dst, len := n }]

theorem cpyBody_eq {f : Fields} {r : Run} {u : State} (him : f.imm = 0) (hflag : u.flagCheck r f.d.toNat = .ok ())
    (hroom : (u.eng r.e).outstanding < 32) {n : Nat} (hn : ((u.eng r.e).gr f.c).toNat = n) {src dst : Loc}
    (hspans : n ≠ 0 → u.operand r false ((u.eng r.e).gr f.a) n = .ok src ∧
      u.operand r true ((u.eng r.e).gr f.b) n = .ok dst ∧ overlap src n dst n = false) :
    cpyBody f r u = .ok (u.pushCopy r 0x20 f.d.toNat (cpySegs n src dst) none (segReads (cpySegs n src dst))
      (segWrites (cpySegs n src dst)) (segOut (cpySegs n src dst))) := by
  have hfields := checkFields_of (f := f) (m := 0) (d := .any) (a := .any) (b := .any) (c := .any) rfl rfl rfl rfl
    (by rw [him]; rfl)
  have hroom' : ¬ (u.eng r.e).outstanding ≥ 32 := by omega
  simp only [cpyBody, hfields, hflag, bind, Except.bind, if_neg hroom', hn]
  by_cases h0 : n = 0
  · rw [if_pos h0, cpySegs, if_pos h0]
    rfl
  · obtain ⟨hsrc, hdst, hdisj⟩ := hspans h0
    simp only [if_neg h0, hsrc, hdst, hdisj, require, Bool.not_false, if_true, cpySegs]

/-- The rows of a CPYS, from its descriptor. -/
def cpysSegs (b : List Byte) (src dst : Loc) : List Seg :=
  if fieldAt b 0x10 4 = 0 ∨ fieldAt b 0x14 4 = 0 then [] else
    (List.range (fieldAt b 0x14 4)).map fun i =>
      { src := src.add (i * fieldAt b 0x18 4), dst := dst.add (i * fieldAt b 0x1C 4), len := fieldAt b 0x10 4 }

theorem cpysBody_eq {f : Fields} {r : Run} {u : State} (hb : f.b = 0) (hc : f.c = 0) (him : f.imm = 0)
    (hflag : u.flagCheck r f.d.toNat = .ok ()) (hroom : (u.eng r.e).outstanding < 32) {b : List Byte}
    (hbytes : u.lsBytes r.e ((u.eng r.e).gr f.a).toNat 32 = .ok b) {src dst : Loc}
    (hspans : fieldAt b 0x10 4 ≠ 0 → fieldAt b 0x14 4 ≠ 0 →
      u.operand r false (w64At b 0) ((fieldAt b 0x14 4 - 1) * fieldAt b 0x18 4 + fieldAt b 0x10 4) = .ok src ∧
      u.operand r true (w64At b 8) ((fieldAt b 0x14 4 - 1) * fieldAt b 0x1C 4 + fieldAt b 0x10 4) = .ok dst ∧
      disjoint (segReads (cpysSegs b src dst)) (segWrites (cpysSegs b src dst)) = true) :
    cpysBody f r u = .ok (u.pushCopy r 0x21 f.d.toNat (cpysSegs b src dst) none (segReads (cpysSegs b src dst))
      (segWrites (cpysSegs b src dst)) (segOut (cpysSegs b src dst))) := by
  have hfields := checkFields_of (f := f) (m := 0) (d := .any) (a := .any) rfl rfl (Use.ok_no hb) (Use.ok_no hc)
    (by rw [him]; rfl)
  have hroom' : ¬ (u.eng r.e).outstanding ≥ 32 := by omega
  simp only [cpysBody, hfields, hflag, bind, Except.bind, if_neg hroom', hbytes]
  by_cases h0 : fieldAt b 0x10 4 = 0 ∨ fieldAt b 0x14 4 = 0
  · rw [if_pos h0, cpysSegs, if_pos h0]
    rfl
  · rw [not_or] at h0
    obtain ⟨hsrc, hdst, hdisj⟩ := hspans h0.1 h0.2
    rw [cpysSegs, if_neg (not_or.2 h0)] at hdisj ⊢
    simp only [if_neg (not_or.2 h0), hsrc, hdst, hdisj, require, if_true]

/-- What a CPYP reads, list first. -/
def Plinth.issueReads (q : Plinth) (p : PlinthDesc) (offs : List Nat) : List (Loc × Nat) :=
  (if plinthListed p.op && !plinthEmpty p then [(q.list, 8 * q.listCount)] else []) ++
    if plinthEmpty p then [] else q.reads offs

/-- What a CPYP will write, from the bytes that it has read. -/
def Plinth.issueOuts (q : Plinth) (p : PlinthDesc) (offs : List Nat) (bs : List Byte) : List (Loc × List Byte) :=
  if plinthEmpty p then [] else (q.compute offs (bs.drop (if plinthListed p.op then 8 * q.listCount else 0))).out

theorem cpypBody_eq {f : Fields} {r : Run} {u : State} (hb : f.b = 0) (hc : f.c = 0) (him : f.imm = 0)
    (hflag : u.flagCheck r f.d.toNat = .ok ()) (hroom : (u.eng r.e).outstanding < 32) {p : PlinthDesc}
    (hdesc : u.plinthDesc r.e ((u.eng r.e).gr f.a) = .ok p) {q : Plinth} {offs : List Nat}
    (hissue : u.plinthIssue r p = .ok (q, offs)) :
    cpypBody p.op f r u = .ok (u.pushCopy r 0x22 f.d.toNat [] (some q) (q.issueReads p offs)
      (if plinthEmpty p then [] else q.writes offs) (q.issueOuts p offs)) := by
  have hfields := checkFields_of (f := f) (m := 0) (d := .any) (a := .any) rfl rfl (Use.ok_no hb) (Use.ok_no hc)
    (by rw [him]; rfl)
  have hroom' : ¬ (u.eng r.e).outstanding ≥ 32 := by omega
  have hop : ¬ (1 ≤ p.op ∧ p.op ≤ 9 ∧ p.op ≠ p.op) := fun h => h.2.2 rfl
  simp only [cpypBody, hfields, hflag, bind, Except.bind, if_neg hroom', hdesc, if_neg hop, hissue]
  rfl

@[simp] theorem State.lsBytes_next (s : State) (e off n : Nat) :
    (s.modEng e Engine.next).lsBytes e off n = s.lsBytes e off n := by
  simp only [State.lsBytes, State.lsRead_next]

@[simp] theorem State.plinthDesc_next (s : State) (e : Nat) (a : W64) :
    (s.modEng e Engine.next).plinthDesc e a = s.plinthDesc e a := by
  simp only [State.plinthDesc, State.lsBytes_next]

theorem exec_plinthRows : ∀ row ∈ plinthRows, ∀ e f s,
    exec (row.1 e f) s = guarded (isEngine e) (s.issue e 0x22 f (cpypBody row.2 f)) := by
  unfold plinthRows
  repeat refine List.forall_mem_cons.2 ⟨fun _ _ _ => rfl, ?_⟩
  exact List.forall_mem_nil _

/-- Settles O12: each instruction is its body at issue, and each body hangs one copy. -/
theorem copyAndPlinthIssue : Obligations.CopyAndPlinthIssue := by
  unfold Obligations.CopyAndPlinthIssue
  refine ⟨fun s e f r hd hnet hroom => ⟨?_, ?_⟩, ?_⟩
  · intro hi him src dst hspans
    obtain rfl := hi.run_e
    have hself := State.eng_modEng_self s r.e Engine.next
    have hbody := cpyBody_eq (f := f) (r := r) (u := s.modEng r.e Engine.next) him (State.flagCheck_ok hd hnet)
      (by rw [State.outstanding_next]; exact hroom) (by rw [hself]) (src := src) (dst := dst)
      (by rw [hself]; exact hspans)
    obtain ⟨t, o, ht, ⟨hframe, hother, heng⟩, hflag, hfe, hq, hlive, hsegs⟩ := issue_pushCopy hi rfl hbody
    exact ⟨t, o, ht, hframe, hother, heng, hflag, hfe, hq, hlive, hsegs⟩
  · intro hi hb hc him hspan src dst b n rows segs hspans
    obtain rfl := hi.run_e
    have hself := State.eng_modEng_self s r.e Engine.next
    have hsegsEq : n ≠ 0 → rows ≠ 0 → cpysSegs b src dst = segs := fun h1 h2 => if_neg (not_or.2 ⟨h1, h2⟩)
    have hbody := cpysBody_eq (f := f) (r := r) (u := s.modEng r.e Engine.next) hb hc him (State.flagCheck_ok hd hnet)
      (by rw [State.outstanding_next]; exact hroom) (b := b)
      (by rw [hself, State.lsBytes_next]; exact State.lsBytes_ok hspan (by decide))
      (src := src) (dst := dst) (fun h1 h2 => by rw [hsegsEq h1 h2]; exact hspans h1 h2)
    obtain ⟨t, o, ht, ⟨hframe, hother, heng⟩, hflag, hfe, hq, hlive, hsegs⟩ := issue_pushCopy hi rfl hbody
    exact ⟨t, o, ht, hframe, hother, heng, hflag, hfe, hq, hlive, hsegs⟩
  · intro row hrow s e f r hi hd hnet hroom hb hc him p q offs hdesc hop hissue
    obtain rfl := hi.run_e
    have hself := State.eng_modEng_self s r.e Engine.next
    have hbody := cpypBody_eq (f := f) (r := r) (u := s.modEng r.e Engine.next) hb hc him (State.flagCheck_ok hd hnet)
      (by rw [State.outstanding_next]; exact hroom) (by rw [hself, State.plinthDesc_next]; exact hdesc)
      (q := q) (offs := offs) hissue
    rw [exec_plinthRows row hrow, ← hop]
    obtain ⟨t, o, ht, ⟨hframe, hother, heng⟩, hflag, hfe, hq, hlive, -⟩ := issue_pushCopy hi rfl hbody
    exact ⟨t, o, ht, hframe, hother, heng, hflag, hfe, hq, hlive⟩

end Sys2Proof.Machine
end

section
/-!
SUPPORT. States that hold the same bytes: what is read and stored at places.
-/
namespace Sys2Proof.Machine

/-! ## The bytes at a place -/

theorem pageParts_sum : ∀ (k a n : Nat), n = 0 ∨ a % pageSize + n ≤ k * pageSize →
    ((pageParts k a n).map (·.2)).sum = n
  | 0, a, n, h => by
    have h0 : n = 0 := by omega
    rw [h0]
    rfl
  | k + 1, a, n, h => by
    rw [pageParts]
    split
    · rename_i h0
      rw [h0]
      rfl
    · rename_i h0
      rw [List.map_cons, List.sum_cons, pageParts_sum k]
      · simp only [pageSize] at *
        omega
      · simp only [pageSize] at *
        omega

theorem State.readPier_length (s : State) (a n : Nat) : (s.readPier a n).length = n := by
  rw [State.readPier, List.length_flatMap]
  refine (congrArg List.sum (List.map_congr_left (g := (·.2)) fun x _ => ?_)).trans (pageParts_sum _ _ _ (.inr ?_))
  · dsimp only
    split
    · exact Mem.read_length _ _ _
    · exact List.length_replicate
  · simp only [pageSize]
    omega

@[simp] theorem State.readLoc_length (s : State) (l : Loc) (n : Nat) : (s.readLoc l n).length = n := by
  cases l with
  | ls e off => exact Mem.read_length _ _ _
  | cs c off => exact Mem.read_length _ _ _
  | pier a => exact s.readPier_length a n

/-- Two states with the same stores and the same map of pier space. -/
structure SamePlaces (s t : State) : Prop where
  stores : t.stores = s.stores
  gen : t.gen = s.gen
  cfg : t.cfg = s.cfg

theorem SamePlaces.refl (s : State) : SamePlaces s s := ⟨rfl, rfl, rfl⟩

theorem SamePlaces.trans {s t u : State} (h : SamePlaces s t) (k : SamePlaces t u) : SamePlaces s u :=
  ⟨k.stores.trans h.stores, k.gen.trans h.gen, k.cfg.trans h.cfg⟩

section
variable {s t : State} (h : SamePlaces s t)
include h

theorem SamePlaces.symm : SamePlaces t s := ⟨h.stores.symm, h.gen.symm, h.cfg.symm⟩

theorem SamePlaces.pierDecode (a : Nat) : t.pierDecode a = s.pierDecode a := by
  rw [State.pierDecode, State.pierDecode, State.mapAt, State.mapAt, State.regionAt, State.regionAt, h.gen, h.cfg]

theorem SamePlaces.readLoc (l : Loc) (n : Nat) : t.readLoc l n = s.readLoc l n := by
  obtain ⟨hls, hcs, hmem⟩ := State.stores_split h.stores
  cases l with
  | ls e off => rw [State.readLoc, State.readLoc, hls]
  | cs c off => rw [State.readLoc, State.readLoc, hcs]
  | pier a => simp only [State.readLoc, State.readPier, h.pierDecode, hmem]

theorem SamePlaces.gather (l : List (Loc × Nat)) : t.gather l = s.gather l := by
  simp only [State.gather, h.readLoc]

theorem SamePlaces.writePage (a : Nat) (bs : List Byte) : SamePlaces (s.writePage a bs) (t.writePage a bs) := by
  obtain ⟨hls, hcs, hmem⟩ := State.stores_split h.stores
  unfold State.writePage
  rw [h.pierDecode]
  split
  · exact h
  · refine ⟨?_, h.gen, h.cfg⟩
    simp only [State.stores, hls, hcs, hmem]
end

theorem SamePlaces.writeParts : ∀ (l : List (Nat × Nat)) {s t : State} (bs : List Byte), SamePlaces s t →
    SamePlaces (s.writeParts l bs) (t.writeParts l bs)
  | [], _, _, _, h => h
  | (a, k) :: l, _, _, bs, h => SamePlaces.writeParts l (bs.drop k) (h.writePage a (bs.take k))

/-- A store at a place, in two states with the same stores. -/
theorem SamePlaces.writeLoc {s t : State} (h : SamePlaces s t) (l : Loc) (bs : List Byte) :
    SamePlaces (s.writeLoc l bs) (t.writeLoc l bs) := by
  obtain ⟨hls, hcs, hmem⟩ := State.stores_split h.stores
  cases l with
  | ls e off => exact ⟨by simp only [State.writeLoc, State.stores, hls, hcs, hmem], h.gen, h.cfg⟩
  | cs c off => exact ⟨by simp only [State.writeLoc, State.stores, hls, hcs, hmem], h.gen, h.cfg⟩
  | pier a => exact SamePlaces.writeParts _ bs h

/-- What changes neither the stores nor the map of pier space. -/
theorem StoreFrame.samePlaces {s t : State} (h : StoreFrame s t) (hs : t.stores = s.stores) : SamePlaces s t :=
  ⟨hs, by rw [h.frame], by rw [h.frame]⟩

/-- A store that counts its pier traffic stores what one that does not stores. -/
theorem SamePlaces.storeLoc {s t : State} (h : SamePlaces s t) (l : Loc) (bs : List Byte) :
    SamePlaces (s.writeLoc l bs) (t.storeLoc l bs) := by
  have hw := t.writeLoc_storeFrame l bs
  have hst := t.storeLoc_storeFrame l bs
  exact (h.writeLoc l bs).trans
    ⟨t.storeLoc_stores l bs, by rw [hst.frame, hw.frame], by rw [hst.frame, hw.frame]⟩

/-- Stores in turn, counted and not. -/
theorem SamePlaces.storeAll : ∀ (outs : List (Loc × List Byte)) {s t : State}, SamePlaces s t →
    SamePlaces (outs.foldl (fun u w => u.writeLoc w.1 w.2) s) (t.storeAll outs)
  | [], _, _, h => h
  | w :: outs, _, _, h => SamePlaces.storeAll outs (h.storeLoc w.1 w.2)

theorem State.storeAll_storeFrame (s : State) (outs : List (Loc × List Byte)) : StoreFrame s (s.storeAll outs) := by
  refine StoreFrame.foldl (fun t w => ?_) outs s
  exact t.storeLoc_storeFrame w.1 w.2

theorem State.countReads_storeFrame (s : State) (l : List (Loc × Nat)) : StoreFrame s (s.countReads l) := by
  refine .foldl (fun t a => ?_) _ _
  split
  · exact t.countPier_storeFrame _ _ _
  · exact .refl t

theorem State.gather_length (s : State) (l : List (Loc × Nat)) : (s.gather l).length = (l.map (·.2)).sum := by
  rw [State.gather, List.length_flatMap]
  exact congrArg List.sum (List.map_congr_left fun a _ => s.readLoc_length a.1 a.2)

/-- Nothing has raced what a copy writes: its bytes are stored as they are (R203). -/
theorem State.raceWrite_undisturbed {s : State} {outs : List (Loc × List Byte)} {snap : List Byte}
    (h : s.gather (outs.map fun w => (w.1, w.2.length)) = snap.take (outs.map fun w => w.2.length).sum) :
    s.raceWrite outs snap = s.storeAll outs := by
  have hlen : (s.gather (outs.map fun w => (w.1, w.2.length))).length = (outs.map fun w => w.2.length).sum := by
    rw [State.gather_length, List.map_map]
    rfl
  have hnow : s.gather (outs.map fun w => (w.1, w.2.length)) =
      snap.take (s.gather (outs.map fun w => (w.1, w.2.length))).length := by
    rw [hlen, h]
  exact if_pos hnow

end Sys2Proof.Machine
end

section
/-!
SUPPORT. The end of a copy and of a plinth operation (R80, R212, R216, R218).
-/
namespace Sys2Proof.Machine

/-! ## Hod slots -/

theorem State.hodSlot_setHod (s : State) (c k c' k' : Nat) (x : HodSlot) :
    (s.setHod c k x).hodSlot c' k' = if c' = c ∧ k' = k then some x else s.hodSlot c' k' := by
  rw [State.hodSlot, State.setHod, State.crs_modCrs]
  by_cases hc : c' = c
  · subst hc
    rw [if_pos rfl]
    refine (Tab.find?_set _ _ _ _).trans ?_
    simp only [true_and]
    rfl
  · rw [if_neg hc, if_neg fun h => hc h.1]
    rfl

theorem StoreFrame.hodSlot {s t : State} (h : StoreFrame s t) (c k : Nat) : t.hodSlot c k = s.hodSlot c k := by
  rw [State.hodSlot, h.crs, ← State.hodSlot]

/-- The numeric status saved for the item in a hod slot, while it does not run. -/
def State.savedStatus (s : State) (c k : Nat) : Option (BitVec 3) :=
  ((s.hodSlot c k).bind (·.saved)).map (·.numstat)

/-! ## The end of a copy: its place in the queue, its flag, and what is noted for undoing (R80, R113) -/

section
variable (s : State) (e i : Nat) (o : CopyOp)

theorem State.eng_dropCopy (e' : Nat) : (s.dropCopy e i).eng e' = { s.eng e' with
    act := ((s.dropCopy e i).eng e').act,
    copies := if e' = e then (s.eng e').copies.eraseIdx i else (s.eng e').copies } := by
  by_cases he : e' = e
  · subst he
    rw [State.dropCopy, State.resumeQueue, State.eng_modEng_self, State.eng_modEng_self, if_pos rfl]
    split <;> rfl
  · rw [State.dropCopy, State.resumeQueue, State.eng_modEng_ne _ _ he, State.eng_modEng_ne _ _ he, if_neg he]

/-- What noting a flag's change leaves as it was. -/
structure NoteFrame (s t : State) : Prop where
  frame : t = { s with engines := t.engines, courses := t.courses }
  eng : ∀ e, t.eng e = { s.eng e with undo := (t.eng e).undo }
  heldAdds : ∀ c, (t.crs c).heldAdds = (s.crs c).heldAdds
  saved : ∀ c k, t.savedStatus c k = s.savedStatus c k

theorem NoteFrame.refl (s : State) : NoteFrame s s := ⟨rfl, fun _ => rfl, fun _ => rfl, fun _ _ => rfl⟩

theorem State.noteFlag_noteFrame (c k f : Nat) (v : W32) : NoteFrame s (s.noteFlag e c k f v) := by
  unfold State.noteFlag
  split
  · rename_i h hh
    dsimp only
    split
    · exact .refl s
    · split
      · refine ⟨rfl, fun e' => ?_, fun _ => rfl, fun _ _ => rfl⟩
        rw [State.eng_modEng]
        split
        · rename_i he
          rw [he]
        · rfl
      · refine ⟨rfl, fun _ => rfl, fun c' => ?_, fun c' k' => ?_⟩
        · rw [State.setHod, State.crs_modCrs]
          split
          · rename_i hc
            rw [hc]
          · rfl
        rw [State.savedStatus, State.savedStatus, State.hodSlot_setHod]
        by_cases hck : c' = c ∧ k' = k
        · rw [if_pos hck, hck.1, hck.2, hh]
          cases hs : h.saved <;> simp [hs]
        · rw [if_neg hck]
  · exact .refl s

theorem NoteFrame.flagVal {s t : State} (h : NoteFrame s t) (e f : Nat) : t.flagVal e f = s.flagVal e f := by
  rw [State.flagVal, h.eng, ← State.flagVal]

theorem State.copyFlag_live (hlive : o.live = true) (hreset : o.reset = false) : s.copyFlag e o =
    (s.flagAdd o.flagEngine o.flag 1).noteFlag e o.homeCourse o.slot o.flag 1 := by
  rw [State.copyFlag, hlive, hreset]
  rfl

/-- The flag of a live copy rises; nothing else of an engine changes but what is noted for undoing. -/
structure CopyEnds (s t : State) (e i : Nat) (o : CopyOp) : Prop where
  stores : t.stores = s.stores
  copies : (t.eng e).copies = (s.eng e).copies.eraseIdx i
  numstat : ∀ e', (t.eng e').numstat = (s.eng e').numstat
  saved : ∀ c k, t.savedStatus c k = s.savedStatus c k
  flags : ∀ e' f', t.flagVal e' f' =
    if e' = o.flagEngine ∧ f' = o.flag then s.flagVal e' f' + 1 else s.flagVal e' f'

theorem State.copyEnds (hlive : o.live = true) (hreset : o.reset = false)
    (hawake : s.courseAwake (o.flagEngine / 32) = true) : CopyEnds s ((s.dropCopy e i).copyFlag e o) e i o := by
  have hdrop := s.eng_dropCopy e i
  have hadd := (s.dropCopy e i).flagAdd_flagFrame o.flagEngine o.flag 1
  have hnote := ((s.dropCopy e i).flagAdd o.flagEngine o.flag 1).noteFlag_noteFrame e o.homeCourse o.slot o.flag 1
  have hraised := ((s.dropCopy e i).flagAdd_raised o.flagEngine o.flag 1).1 hawake
  have hsaved : ∀ c k, (s.dropCopy e i).savedStatus c k = s.savedStatus c k := fun _ _ => rfl
  have hflags : ∀ e' f', (s.dropCopy e i).flagVal e' f' = s.flagVal e' f' := fun e' f' => by
    rw [State.flagVal, hdrop, ← State.flagVal]
  rw [State.copyFlag_live _ _ _ hlive hreset]
  refine ⟨by simp, ?_, fun e' => ?_, fun c k => ?_, fun e' f' => ?_⟩
  · rw [hnote.eng, hadd.eng, hdrop, if_pos rfl]
  · rw [hnote.eng, hadd.eng, hdrop]
  · rw [hnote.saved, State.savedStatus, hadd.hodSlot, ← State.savedStatus, hsaved]
  · rw [hnote.flagVal, hraised, hflags]
end

/-! ## A linear or strided copy completes (R80, R203) -/

theorem segOut_gather (s : State) : ∀ segs : List Seg,
    segOut segs (s.gather (segReads segs)) = segs.map fun g => (g.dst, s.readLoc g.src g.len)
  | [] => rfl
  | g :: t => by
    have hlen := s.readLoc_length g.src g.len
    rw [segReads, List.map_cons, State.gather, List.flatMap_cons, segOut, List.map_cons, ← segOut_gather s t]
    rw [List.take_left' hlen, List.drop_left' hlen]
    rfl

theorem State.raceSrc_undisturbed {s : State} {o : CopyOp} {reads : List (Loc × Nat)} (h : s.gather reads = o.srcSnap) :
    s.raceSrc o reads = (o.srcSnap, s) := by
  rw [State.raceSrc, h]
  exact if_pos rfl

/-- A copy that nothing has raced: counted, stored, off the queue, its flag raised. -/
theorem State.finishCopy_undisturbed {s : State} {e i : Nat} {o : CopyOp} (hsrc : o.srcSnap = s.gather (segReads o.segs))
    (hdst : o.dstSnap = s.gather (segWrites o.segs)) : s.finishCopy e i o =
      (((s.countReads (segReads o.segs)).storeAll (o.segs.map fun g => (g.dst, s.readLoc g.src g.len))).dropCopy e
        i).copyFlag e o := by
  have hspans : (o.segs.map fun g => (g.dst, s.readLoc g.src g.len)).map (fun w => (w.1, w.2.length)) =
      segWrites o.segs := by
    rw [List.map_map, segWrites]
    exact List.map_congr_left fun g _ => by rw [Function.comp_apply, State.readLoc_length]
  have hlens : ((o.segs.map fun g => (g.dst, s.readLoc g.src g.len)).map fun w => w.2.length).sum =
      (s.gather (segWrites o.segs)).length := by
    rw [← hspans, State.gather_length]
    simp only [List.map_map]
    rfl
  have hplaces : SamePlaces s (s.countReads (segReads o.segs)) :=
    (s.countReads_storeFrame _).samePlaces (s.countReads_stores _)
  rw [State.finishCopy, State.raceSrc_undisturbed hsrc.symm]
  dsimp only
  rw [hsrc, segOut_gather, State.raceWrite_undisturbed]
  rw [hplaces.gather, hspans, hlens, hdst, List.take_length]

/-- A copy that nothing has raced has moved its bytes, and its flag has risen. -/
theorem State.finishCopy_ends {s : State} {e i : Nat} {o : CopyOp} (hsrc : o.srcSnap = s.gather (segReads o.segs))
    (hdst : o.dstSnap = s.gather (segWrites o.segs)) (hlive : o.live = true) (hreset : o.reset = false)
    (hawake : s.courseAwake (o.flagEngine / 32) = true) :
    (s.finishCopy e i o).stores = (o.segs.foldl (fun u g => u.writeLoc g.dst (s.readLoc g.src g.len)) s).stores ∧
    ((s.finishCopy e i o).eng e).copies = (s.eng e).copies.eraseIdx i ∧
    ∀ e' f', (s.finishCopy e i o).flagVal e' f' =
      if e' = o.flagEngine ∧ f' = o.flag then s.flagVal e' f' + 1 else s.flagVal e' f' := by
  have hcount := s.countReads_storeFrame (segReads o.segs)
  have hplaces : SamePlaces s (s.countReads (segReads o.segs)) := hcount.samePlaces (s.countReads_stores _)
  have hstore := (s.countReads (segReads o.segs)).storeAll_storeFrame
    (o.segs.map fun g => (g.dst, s.readLoc g.src g.len))
  have hframe := hcount.trans hstore
  rw [State.finishCopy_undisturbed hsrc hdst]
  obtain ⟨hstores, hcopies, -, -, hflags⟩ := State.copyEnds _ e i o hlive hreset
    (by rw [hframe.awake]; exact hawake)
  refine ⟨?_, ?_, fun e' f' => ?_⟩
  · rw [hstores, (SamePlaces.storeAll _ hplaces).stores, List.foldl_map]
  · rw [hcopies, hframe.eng]
  · rw [hflags, hframe.flagVal]

/-! ## GATHER and SCATTER (R216), and DIGEST (R218) -/

theorem splitLens_gather (s : State) : ∀ l : List (Loc × Nat),
    splitLens (l.map (·.2)) (s.gather l) = l.map fun a => s.readLoc a.1 a.2
  | [] => rfl
  | a :: t => by
    have hlen := s.readLoc_length a.1 a.2
    rw [State.gather, List.map_cons, List.flatMap_cons, splitLens, List.map_cons, ← splitLens_gather s t]
    rw [List.take_left' hlen, List.drop_left' hlen]
    rfl

section
variable {s : State} {o : CopyOp} {p : Plinth}

theorem plinthResult_empty (h : o.srcSnap = []) : plinthResult o p = PlinthOut.none := by
  rw [plinthResult, h]
  rfl

theorem plinthResult_undisturbed (h : PlinthUndisturbed s o p) (hne : o.srcSnap ≠ []) :
    plinthResult o p = p.compute (p.snapOffs o.srcSnap) (s.gather (p.reads (p.snapOffs o.srcSnap))) := by
  rw [plinthResult, if_neg (by simpa using hne), h.1 hne]

theorem Plinth.compute_gather (hop : p.op = 6) (offs : List Nat) :
    (p.compute offs (s.gather (p.reads offs))).out =
      offs.zipIdx.map fun x => (p.dst.add (x.2 * p.unit), s.readLoc (p.src.add x.1) p.unit) := by
  have hreads : p.reads offs = offs.map fun a => (p.src.add a, p.unit) := by rw [Plinth.reads, if_pos hop]
  have hlens : List.replicate offs.length p.unit = (p.reads offs).map (·.2) := by
    rw [hreads, List.map_map]
    exact (List.map_const' ..).symm
  have hwrites : p.writes offs = (List.range offs.length).map fun i => (p.dst.add (i * p.unit), p.unit) := by
    rw [Plinth.writes, if_pos hop]
  rw [Plinth.compute, if_pos (by rw [hop]; rfl), hlens, splitLens_gather, hreads, hwrites]
  exact List.ext_getElem (by simp) fun j _ _ => by simp

theorem Plinth.compute_scatter (hop : p.op = 7) (offs : List Nat) :
    (p.compute offs (s.gather (p.reads offs))).out =
      offs.zipIdx.map fun x => (p.dst.add x.1, s.readLoc (p.src.add (x.2 * p.unit)) p.unit) := by
  have hreads : p.reads offs = (List.range offs.length).map fun i => (p.src.add (i * p.unit), p.unit) := by
    rw [Plinth.reads, if_neg (by omega), if_pos hop]
  have hlens : List.replicate offs.length p.unit = (p.reads offs).map (·.2) := by
    rw [hreads, List.map_map]
    exact (List.ext_getElem (by simp) fun j _ _ => by simp)
  have hwrites : p.writes offs = offs.map fun a => (p.dst.add a, p.unit) := by
    rw [Plinth.writes, if_neg (by omega), if_pos hop]
  rw [Plinth.compute, if_pos (by rw [hop]; rfl), hlens, splitLens_gather, hreads, hwrites]
  exact List.ext_getElem (by simp) fun j _ _ => by simp

theorem Plinth.compute_digest (hop : p.op = 9) (hr : p.rows ≠ 0) (hc : p.cols ≠ 0) (offs : List Nat) :
    (p.compute offs (s.gather (p.reads offs))).out = [(p.dst, shake256 (s.readLoc p.src p.cols) 32)] := by
  have hreads : s.gather (p.reads offs) = s.readLoc p.src p.cols := by
    rw [Plinth.reads, if_neg (by omega), if_neg (by omega), if_pos hop]
    exact List.append_nil _
  rw [Plinth.compute, if_neg (by rw [hop]; decide), if_neg (by omega), if_pos hop, hreads]

/-- The tile of an operation that nothing has raced, written out for those that only move bytes (R212, R216, R218). -/
def State.plinthTile (s : State) (o : CopyOp) (p : Plinth) : State :=
  if o.srcSnap = [] then s
  else if p.op = 6 then (p.snapOffs o.srcSnap).zipIdx.foldl (fun u (a, j) =>
    u.writeLoc (p.dst.add (j * p.unit)) (s.readLoc (p.src.add a) p.unit)) s
  else if p.op = 7 then (p.snapOffs o.srcSnap).zipIdx.foldl (fun u (a, j) =>
    u.writeLoc (p.dst.add a) (s.readLoc (p.src.add (j * p.unit)) p.unit)) s
  else if p.op = 9 ∧ p.rows ≠ 0 ∧ p.cols ≠ 0 then s.writeLoc p.dst (shake256 (s.readLoc p.src p.cols) 32)
  else (plinthResult o p).out.foldl (fun u w => u.writeLoc w.1 w.2) s

theorem State.plinthTile_eq (h : PlinthUndisturbed s o p) :
    s.plinthTile o p = (plinthResult o p).out.foldl (fun u w => u.writeLoc w.1 w.2) s := by
  unfold State.plinthTile
  split
  · rename_i he
    rw [plinthResult_empty he]
    rfl
  · rename_i hne
    rw [plinthResult_undisturbed h hne]
    split
    · rename_i h6
      rw [Plinth.compute_gather h6, List.foldl_map]
    · split
      · rename_i h7
        rw [Plinth.compute_scatter h7, List.foldl_map]
      · split
        · rename_i h9
          rw [Plinth.compute_digest h9.1 h9.2.1 h9.2.2]
          rfl
        · rfl
end

/-! ## The report, the flush counter and the numeric status (R212) -/

theorem State.fetchLoc_fst (s : State) (l : Loc) (n : Nat) : (s.fetchLoc l n).1 = s.readLoc l n := by
  cases l <;> rfl

theorem State.fetchLoc_storeFrame (s : State) (l : Loc) (n : Nat) : StoreFrame s (s.fetchLoc l n).2 := by
  cases l with
  | ls e off => exact .refl s
  | cs c off => exact .refl s
  | pier a => exact (s.countPier_storeFrame true a n).trans (State.wakePiers_wakesOnly _ a n).storeFrame

theorem State.addCounter_storeFrame (s : State) (l : Loc) (n : Nat) : StoreFrame s (s.addCounter l n) :=
  (s.fetchLoc_storeFrame l 8).trans (State.storeLoc_storeFrame _ l _)

theorem SamePlaces.addCounter {s t : State} (h : SamePlaces s t) (l : Loc) (n : Nat) :
    SamePlaces (s.writeLoc l (leBytes 8 (leNat (s.readLoc l 8) + n))) (t.addCounter l n) := by
  have hf : SamePlaces t (t.fetchLoc l 8).2 := (t.fetchLoc_storeFrame l 8).samePlaces (by simp)
  rw [State.addCounter, ← h.readLoc, ← t.fetchLoc_fst]
  exact (h.trans hf).storeLoc l _

/-- Report and flush counter, stored after the tile. -/
def State.plinthCounts (s : State) (p : Plinth) (r : PlinthOut) : State :=
  let v := match p.report with | some l => s.writeLoc l r.report | none => s
  match p.flush with
  | some l => v.writeLoc l (leBytes 8 (leNat (v.readLoc l 8) + r.flushed))
  | none => v

/-- What `State.afterWrites` stores after the tile. -/
def State.storeCounts (s : State) (p : Plinth) (r : PlinthOut) : State :=
  let v := match p.report with | some l => s.storeLoc l r.report | none => s
  match p.flush with
  | some l => v.addCounter l r.flushed
  | none => v

theorem SamePlaces.storeCounts {s t : State} (h : SamePlaces s t) (p : Plinth) (r : PlinthOut) :
    SamePlaces (s.plinthCounts p r) (t.storeCounts p r) := by
  have hrep : SamePlaces (match p.report with | some l => s.writeLoc l r.report | none => s)
      (match p.report with | some l => t.storeLoc l r.report | none => t) := by
    cases p.report with
    | none => exact h
    | some l => exact h.storeLoc l _
  rw [State.plinthCounts, State.storeCounts]
  cases p.flush with
  | none => exact hrep
  | some l => exact hrep.addCounter l _

theorem State.storeCounts_storeFrame (s : State) (p : Plinth) (r : PlinthOut) : StoreFrame s (s.storeCounts p r) := by
  have hrep : StoreFrame s (match p.report with | some l => s.storeLoc l r.report | none => s) := by
    cases p.report with
    | none => exact .refl s
    | some l => exact s.storeLoc_storeFrame l _
  rw [State.storeCounts]
  cases p.flush with
  | none => exact hrep
  | some l => exact hrep.trans (State.addCounter_storeFrame _ l _)

/-- What ORing numeric status bits into an item leaves as it was, and where they go. -/
structure StatusOred (s t : State) (m c k : Nat) (b : BitVec 3) : Prop where
  frame : t = { s with engines := t.engines, courses := t.courses }
  eng : ∀ e, t.eng e = { s.eng e with numstat := (t.eng e).numstat }
  running : (s.eng m).item = some (c, k) → (t.eng m).numstat = (s.eng m).numstat ||| b
  saved : (s.eng m).item ≠ some (c, k) → t.savedStatus c k = (s.savedStatus c k).map (· ||| b)

theorem StatusOred.zero (s : State) (m c k : Nat) : StatusOred s s m c k 0 :=
  ⟨rfl, fun _ => rfl, fun _ => (BitVec.or_zero).symm, fun _ => by simp⟩

theorem State.orStatus_ored (s : State) (e c k : Nat) (b : BitVec 3) :
    StatusOred s (s.orStatus e c k b) (s.runner e c k) c k b := by
  unfold State.orStatus
  dsimp only
  by_cases hrun : (s.eng (s.runner e c k)).item = some (c, k)
  · rw [if_pos (beq_iff_eq.2 hrun)]
    refine ⟨rfl, fun e' => ?_, fun _ => by rw [State.eng_modEng_self]; rfl, fun h => absurd hrun h⟩
    rw [State.eng_modEng]
    split
    · rename_i he
      rw [he]
      rfl
    · rfl
  · rw [if_neg fun h => hrun (beq_iff_eq.1 h)]
    cases hh : s.hodSlot c k with
    | none => exact ⟨rfl, fun _ => rfl, fun h => absurd h hrun, fun _ => by simp [State.savedStatus, hh]⟩
    | some h =>
      refine ⟨rfl, fun _ => rfl, fun h => absurd h hrun, fun _ => ?_⟩
      rw [State.savedStatus, State.savedStatus, State.hodSlot_setHod, if_pos ⟨rfl, rfl⟩, hh]
      cases hs : h.saved <;> simp [hs]

/-! ## A plinth operation completes (R212) -/

section
variable {s : State} {e i : Nat} {o : CopyOp} {p : Plinth}

theorem State.afterReads_undisturbed (h : PlinthUndisturbed s o p) :
    StoreFrame s (s.afterReads o p) ∧ (s.afterReads o p).stores = s.stores := by
  have hread : (s.plinthRead o p).2 = s := by
    by_cases hs : o.srcSnap = []
    · simp [State.plinthRead, State.raceSrc, State.gather, hs]
    · rw [State.plinthRead, if_neg (by simpa using hs), State.raceSrc_undisturbed (h.1 hs)]
  rw [State.afterReads, hread]
  exact ⟨s.countReads_storeFrame _, s.countReads_stores _⟩

/-- The bytes of an operation that nothing has raced are stored. -/
theorem State.plinthWrites (h : PlinthUndisturbed s o p) : SamePlaces ((s.plinthTile o p).plinthCounts p (plinthResult o p))
    (((s.afterReads o p).raceWrite (plinthResult o p).out o.dstSnap).storeCounts p (plinthResult o p)) ∧
    StoreFrame s (((s.afterReads o p).raceWrite (plinthResult o p).out o.dstSnap).storeCounts p (plinthResult o p)) := by
  obtain ⟨hframe, hstores⟩ := State.afterReads_undisturbed h
  have hplaces := hframe.samePlaces hstores
  rw [State.raceWrite_undisturbed (by rw [hplaces.gather]; exact h.2), State.plinthTile_eq h]
  exact ⟨(hplaces.storeAll _).storeCounts p _,
    (hframe.trans (State.storeAll_storeFrame _ _)).trans (State.storeCounts_storeFrame _ p _)⟩

theorem State.afterWrites_eq (s : State) (e : Nat) (o : CopyOp) (p : Plinth) (r : PlinthOut) :
    s.afterWrites e o p r =
      if r.sat && o.live then
        ((s.raceWrite r.out o.dstSnap).storeCounts p r).orStatus e o.homeCourse o.slot nsEncSat
      else (s.raceWrite r.out o.dstSnap).storeCounts p r := rfl

/-- The numeric status of an operation's item takes the saturation of its result. -/
theorem State.afterWrites_ored (h : PlinthUndisturbed s o p) (hlive : o.live = true) :
    ∃ u, SamePlaces ((s.plinthTile o p).plinthCounts p (plinthResult o p)) u ∧ StoreFrame s u ∧
      StatusOred u ((s.afterReads o p).afterWrites e o p (plinthResult o p)) (s.runner e o.homeCourse o.slot)
        o.homeCourse o.slot (if (plinthResult o p).sat then nsEncSat else 0) := by
  obtain ⟨hplaces, hframe⟩ := State.plinthWrites h
  refine ⟨_, hplaces, hframe, ?_⟩
  have hrunner : ∀ e c k, State.runner (((s.afterReads o p).raceWrite (plinthResult o p).out o.dstSnap).storeCounts p
      (plinthResult o p)) e c k = s.runner e c k := fun e c k => by
    rw [State.runner, hframe.hodSlot, ← State.runner]
  rw [State.afterWrites_eq, hlive, Bool.and_true, ← hrunner]
  split
  · exact State.orStatus_ored _ _ _ _ _
  · exact .zero _ _ _ _

/-- An operation that nothing has raced, and whose bytes are well formed, has written what it should, and its flag has
risen. -/
theorem State.finishPlinth_ends (h : PlinthUndisturbed s o p) (hok : (plinthResult o p).bad = false)
    (hlive : o.live = true) (hreset : o.reset = false) (hawake : s.courseAwake (o.flagEngine / 32) = true) :
    (s.finishPlinth e i o p).stores = ((s.plinthTile o p).plinthCounts p (plinthResult o p)).stores ∧
    ((s.finishPlinth e i o p).eng e).copies = (s.eng e).copies.eraseIdx i ∧
    ((s.eng (s.runner e o.homeCourse o.slot)).item = some (o.homeCourse, o.slot) →
      ((s.finishPlinth e i o p).eng (s.runner e o.homeCourse o.slot)).numstat =
        (s.eng (s.runner e o.homeCourse o.slot)).numstat ||| (if (plinthResult o p).sat then nsEncSat else 0)) ∧
    ((s.eng (s.runner e o.homeCourse o.slot)).item ≠ some (o.homeCourse, o.slot) →
      (s.finishPlinth e i o p).savedStatus o.homeCourse o.slot =
        (s.savedStatus o.homeCourse o.slot).map (· ||| (if (plinthResult o p).sat then nsEncSat else 0))) ∧
    ∀ e' f', (s.finishPlinth e i o p).flagVal e' f' =
      if e' = o.flagEngine ∧ f' = o.flag then s.flagVal e' f' + 1 else s.flagVal e' f' := by
  obtain ⟨u, hplaces, hframe, hored⟩ := State.afterWrites_ored (e := e) h hlive
  rw [State.finishPlinth_eq, State.plinthOut_of_undisturbed h, hok, if_neg Bool.false_ne_true]
  have hwawake : ((s.afterReads o p).afterWrites e o p (plinthResult o p)).courseAwake (o.flagEngine / 32) = true := by
    rw [← hawake, ← hframe.awake, hored.frame]
    rfl
  obtain ⟨hstores, hcopies, hnum, hsaved, hflags⟩ := State.copyEnds _ e i o hlive hreset hwawake
  refine ⟨?_, ?_, fun hrun => ?_, fun hrun => ?_, fun e' f' => ?_⟩
  · rw [hstores, ← hplaces.stores, hored.frame]
    rfl
  · rw [hcopies, hored.eng, hframe.eng]
  · rw [hnum, hored.running (by rw [hframe.eng]; exact hrun), hframe.eng]
  · rw [hsaved, hored.saved (by rw [hframe.eng]; exact hrun), State.savedStatus, hframe.hodSlot, ← State.savedStatus]
  · rw [hflags, State.flagVal, hored.eng, hframe.eng, ← State.flagVal]
end

/-- Settles O14: the completion's tile, report and status are followed through the counts and wakes that the model adds
(`State.finishCopy_ends`, `State.finishPlinth_ends`). -/
theorem copyAndPlinthCompletion : Obligations.CopyAndPlinthCompletion := by
  unfold Obligations.CopyAndPlinthCompletion
  refine ⟨fun s e i o he hlive hop hcopy hsrc hdst hl hreset _ hawake => ?_,
    fun s e i o p he hlive hop hp hdig hun hok hl hreset _ hawake => ?_⟩
  · obtain ⟨hstores, hcopies, hflags⟩ := State.finishCopy_ends (e := e) (i := i) hsrc hdst hl hreset hawake
    obtain ⟨hls, hcs, hmem⟩ := State.stores_split hstores
    exact ⟨_, exec_copyComplete (decide_eq_true he) hlive hop hcopy, hls, hcs, hmem, hcopies, hflags⟩
  · obtain ⟨hstores, hcopies, hnum, hsaved, hflags⟩ :=
      State.finishPlinth_ends (e := e) (i := i) hun hok hl hreset hawake
    obtain ⟨hls, hcs, hmem⟩ := State.stores_split hstores
    refine ⟨_, exec_plinthOpComplete (decide_eq_true he) hlive hop hp hdig, hls, hcs, hmem, hcopies, hnum,
      fun h y hrun hh hy => ?_, hflags⟩
    refine (hsaved hrun).trans ?_
    rw [State.savedStatus, hh, Option.bind_some, hy]
    rfl

end Sys2Proof.Machine
end

section
/-!
SUPPORT. FINC, FSET, FWAIT and FRD (R95, R224 to R229).
-/
namespace Sys2Proof.Machine

@[simp] theorem State.flagEngine_next (s : State) (e e' : Nat) :
    (s.modEng e Engine.next).flagEngine e' = s.flagEngine e' := by
  rw [State.flagEngine, State.eng_modEng]
  split
  · rename_i h
    rw [h]
    rfl
  · rfl

theorem State.flagEngine_setFlag (s : State) (e f : Nat) (v : W32) (e' : Nat) :
    (s.setFlag e f v).flagEngine e' = s.flagEngine e' := by rw [State.flagEngine, State.eng_setFlag, ← State.flagEngine]

theorem NoteFrame.awake {s t : State} (h : NoteFrame s t) (c : Nat) : t.courseAwake c = s.courseAwake c := by
  rw [h.frame]
  rfl

theorem NoteFrame.dom {s t : State} (h : NoteFrame s t) (d : Nat) : t.dom d = s.dom d := by
  rw [h.frame]
  rfl

theorem NoteFrame.raised {s t u : State} {e f : Nat} {v : W32} (hr : FlagRaised s t e f v) (h : NoteFrame t u) :
    FlagRaised s u e f v := by
  refine ⟨fun ha e' f' => ?_, fun ha => ⟨?_, fun e' f' => ?_, fun hd => ?_⟩⟩
  · rw [h.flagVal, hr.1 ha]
  · rw [h.heldAdds, (hr.2 ha).1]
  · rw [h.flagVal, (hr.2 ha).2.1]
  · rw [h.dom, (hr.2 ha).2.2 hd]

/-- An engine that may issue runs, and its module is live. -/
theorem State.mayIssue_run {s : State} {e : Nat} (h : s.mayIssue e = true) :
    s.live = true ∧ (s.eng e).act = .run ∧ s.courseAwake (e / 32) = true := by
  simp only [State.mayIssue, Bool.and_eq_true, beq_iff_eq] at h
  obtain ⟨⟨⟨hlive, hact⟩, hawake⟩, -⟩ := h
  exact ⟨hlive, hact, hawake⟩

/-! ## FINC and FSET (R95, R224, R225) -/

/-- FINC adds to its flag; when its item keeps notes for undoing (R113), it notes the change. -/
theorem fincBody_eq {f : Fields} {r : Run} {u : State} {g : Nat} (hb : f.b = 0) (hc : f.c = 0)
    (him : f.imm &&& 0x7FFF0000 = 0) (hflag : u.flagCheck r f.d.toNat = .ok ())
    (hg : if f.imm.msb then g = u.flagEngine r.e
      else g = ((u.eng r.e).gr f.a).toNat ∧ g < 2048 ∧ u.partOfEngine g = some r.part ∧
        (g = u.flagEngine r.e ∨ r.d.reexec = false)) :
    ∃ w, fincBody f r u = .ok w ∧ NoteFrame (u.flagAdd g f.d.toNat (f.imm &&& 0xFFFF)) w := by
  have hfields := checkFields_of (f := f) (d := .any) (a := .any) (m := 0x8000FFFF) rfl rfl (Use.ok_no hb) (Use.ok_no hc) him
  simp only [fincBody, hfields, hflag, bind, Except.bind]
  by_cases hmsb : f.imm.msb = true
  · rw [if_pos hmsb] at hg
    rw [if_pos hmsb, hg]
    exact ⟨_, rfl, State.noteFlag_noteFrame _ _ _ _ _ _⟩
  · rw [if_neg hmsb] at hg
    obtain ⟨rfl, hlt, hpart, hre⟩ := hg
    have hown : (decide (((u.eng r.e).gr f.a).toNat < 2048) && u.partOfEngine ((u.eng r.e).gr f.a).toNat == some r.part)
        = true := by rw [hpart, decide_eq_true hlt, beq_self_eq_true]; rfl
    rw [if_neg hmsb, require, if_pos hown]
    dsimp only
    split
    · exact ⟨_, rfl, State.noteFlag_noteFrame _ _ _ _ _ _⟩
    · rename_i hne
      have hre' := hre.resolve_left hne
      rw [noReexec, require, hre']
      exact ⟨_, rfl, .refl _⟩

theorem fsetBody_eq {f : Fields} {r : Run} {u : State} (hb : f.b = 0) (hc : f.c = 0) (him : f.imm = 0)
    (hflag : u.flagCheck r f.d.toNat = .ok ()) (hre : r.d.reexec = false) :
    fsetBody f r u = .ok (u.setFlag (u.flagEngine r.e) f.d.toNat (((u.eng r.e).gr f.a).setWidth 32)) := by
  have hfields := checkFields_of (f := f) (d := .any) (a := .any) (m := 0) rfl rfl (Use.ok_no hb) (Use.ok_no hc)
    (by rw [him]; rfl)
  simp only [fsetBody, hfields, hflag, bind, Except.bind, noReexec, require, hre]
  rfl

/-! ## FWAIT and its end (R225, R227) -/

/-- What a met wait leaves as it was, and what it takes. -/
structure Consumed (s t : State) (e f : Nat) (v : W32) (take : Bool) : Prop where
  stores : t.stores = s.stores
  eng : ∀ e, t.eng e = { s.eng e with flags := (t.eng e).flags, undo := (t.eng e).undo }
  flags : ∀ e' f', t.flagVal e' f' =
    if take = true ∧ e' = s.flagEngine e ∧ f' = f then s.flagVal e' f' - v else s.flagVal e' f'

theorem Consumed.notTaken (s : State) (e f : Nat) (v : W32) : Consumed s s e f v false :=
  ⟨rfl, fun _ => rfl, fun _ _ => by simp⟩

theorem State.consume_consumed (s : State) (e f : Nat) (v : W32) (take : Bool) :
    Consumed s (s.consume e f v take) e f v take := by
  cases take with
  | false => exact .notTaken s e f v
  | true =>
    generalize hw : s.setFlag (s.flagEngine e) f (s.flagVal (s.flagEngine e) f - v) = w
    have hnote : NoteFrame w (s.consume e f v true) := by
      rw [State.consume, if_neg (by decide)]
      dsimp only
      rw [hw]
      split
      · exact w.noteFlag_noteFrame _ _ _ _ _
      · exact .refl w
    refine ⟨?_, fun e' => ?_, fun e' f' => ?_⟩
    · rw [hnote.frame, ← hw]
      rfl
    · rw [hnote.eng, ← hw, State.eng_setFlag]
    · rw [hnote.flagVal, ← hw, State.flagVal_setFlag]
      by_cases h : e' = s.flagEngine e ∧ f' = f
      · rw [if_pos h, if_pos ⟨rfl, h⟩, h.1, h.2]
      · rw [if_neg h, if_neg fun k => h k.2]

section
variable {f : Fields} {r : Run} {u : State} {v : W32}

/-- An FWAIT that passes its checks goes on or waits. -/
theorem fwaitBody_eq (hb : f.b ≤ 1) (hc : f.c = 0) (hflag : u.flagCheck r f.d.toNat = .ok ())
    (hv : ((u.eng r.e).gr f.a + f.imm.signExtend 64).setWidth 32 = v) : fwaitBody f r u = .ok
      (if v ≤ u.flagVal (u.flagEngine r.e) f.d.toNat then u.consume r.e f.d.toNat v (f.b == 1)
       else u.modEng r.e fun x => { x with act := .waitFlag f.d.toNat v (f.b == 1) }) := by
  subst hv
  have hfields := checkFields_of (f := f) (d := .any) (a := .any) (b := .any) rfl rfl rfl (Use.ok_no hc) (immAll_ok _)
  have hb' : require (decide (f.b ≤ 1)) (err faultIllegal) = .ok () := by rw [require, decide_eq_true hb]; rfl
  simp only [fwaitBody, hfields, hflag, hb', bind, Except.bind]
  split
  · rename_i h
    exact (congrArg Except.ok (if_pos h)).symm
  · rename_i h
    exact (congrArg Except.ok (if_neg h)).symm
end

theorem State.fwaitMet_eq {s : State} {e g : Nat} {v : W32} {take : Bool} (hact : (s.eng e).act = .waitFlag g v take)
    (hres : s.mayResume e = true) (hv : v ≤ s.flagVal (s.flagEngine e) g) :
    s.fwaitMet e = (s.consume e g v take).modEng e fun x => { x with act := .run } := by
  simp [State.fwaitMet, hact, hres, hv]

theorem Consumed.resumed {s t : State} {e g : Nat} {v : W32} {take : Bool} (h : Consumed s t e g v take) :
    ((t.modEng e fun x => { x with act := .run }).eng e).act = .run ∧
    ((t.modEng e fun x => { x with act := .run }).eng e).pc = (s.eng e).pc ∧
    ∀ e' f', (t.modEng e fun x => { x with act := .run }).flagVal e' f' = t.flagVal e' f' := by
  rw [State.eng_modEng_self]
  refine ⟨rfl, ?_, fun e' f' => ?_⟩
  · rw [h.eng]
  · rw [State.flagVal, State.eng_modEng]
    split
    · rename_i he
      rw [he]
      rfl
    · rfl

theorem frdBody_eq {f : Fields} {r : Run} {u : State} (hb : f.b = 0) (hc : f.c = 0) (him : f.imm = 0)
    (hflag : u.flagCheck r f.a.toNat = .ok ()) : frdBody f r u = .ok
      (u.modEng r.e fun x => x.setG f.d ((u.flagVal (u.flagEngine r.e) f.a.toNat).setWidth 64)) := by
  have hfields := checkFields_of (f := f) (d := .any) (a := .any) (m := 0) rfl rfl (Use.ok_no hb) (Use.ok_no hc)
    (by rw [him]; rfl)
  simp only [frdBody, hfields, hflag, bind, Except.bind, onEngine]

section
variable {s : State} {e : Nat} {f : Fields} {r : Run}

theorem exec_finc (hi : Issues s e 0x60 f r) (hb : f.b = 0) (hc : f.c = 0) (him : f.imm &&& 0x7FFF0000 = 0)
    (hflag : s.flagCheck r f.d.toNat = .ok ()) {g : Nat}
    (hg : if f.imm.msb then g = s.flagEngine e
      else g = ((s.eng e).gr f.a).toNat ∧ g < 2048 ∧ s.partOfEngine g = some r.part ∧
        (g = s.flagEngine e ∨ r.d.reexec = false)) :
    ∃ t, exec (.finc e f) s = .next t ∧ (t.eng e).pc = (s.eng e).pc + 8 ∧ t.stores = s.stores ∧
      (s.courseAwake (g / 32) = true → t.doms = s.doms) ∧ FlagRaised s t g f.d.toNat (f.imm &&& 0xFFFF) := by
  obtain rfl := hi.run_e
  have hself := State.eng_modEng_self s r.e Engine.next
  obtain ⟨w, hw, hnote⟩ := fincBody_eq (f := f) (r := r) (u := s.modEng r.e Engine.next) (g := g) hb hc him hflag
    (by rw [hself, State.flagEngine_next]; exact hg)
  obtain ⟨n, hn⟩ := issue_next hi rfl hw
  have hadd := (s.modEng r.e Engine.next).flagAdd_flagFrame g f.d.toNat (f.imm &&& 0xFFFF)
  refine ⟨_, hn, ?_, ?_, fun ha => ?_, ?_⟩
  · have hpc : (w.eng r.e).pc = (s.eng r.e).pc + 8 := by rw [hnote.eng, hadd.eng, hself, hi.next_eq]
    exact hpc
  · have hs : w.stores = s.stores := by
      rw [hnote.frame, hadd.frame]
      rfl
    exact hs
  · have hset := (s.modEng r.e Engine.next).flagAdd_awake g f.d.toNat (f.imm &&& 0xFFFF) ha
    have hd : w.doms = s.doms := by
      rw [hnote.frame, hset]
      rfl
    exact hd
  · have hraised := hnote.raised ((s.modEng r.e Engine.next).flagAdd_raised g f.d.toNat (f.imm &&& 0xFFFF))
    refine ⟨fun ha e' f' => ?_, fun ha => ⟨(hraised.2 ha).1, fun e' f' => ?_, (hraised.2 ha).2.2⟩⟩
    · refine (hraised.1 ha e' f').trans ?_
      rw [State.flagVal_next]
    · exact ((hraised.2 ha).2.1 e' f').trans (State.flagVal_next _ _ _ _)

theorem exec_fwait_met (hi : Issues s e 0x61 f r) (hb : f.b ≤ 1) (hc : f.c = 0)
    (hflag : s.flagCheck r f.d.toNat = .ok ()) {v : W32}
    (hv : ((s.eng e).gr f.a + f.imm.signExtend 64).setWidth 32 = v) (hmet : v ≤ s.flagVal (s.flagEngine e) f.d.toNat) :
    ∃ t, exec (.fwait e f) s = .next t ∧ t.stores = s.stores ∧ (t.eng e).act = .run ∧
      (t.eng e).pc = (s.eng e).pc + 8 ∧ ∀ e' f', t.flagVal e' f' =
        if f.b = 1 ∧ e' = s.flagEngine e ∧ f' = f.d.toNat then s.flagVal e' f' - v else s.flagVal e' f' := by
  obtain rfl := hi.run_e
  have hself := State.eng_modEng_self s r.e Engine.next
  have hcons := (s.modEng r.e Engine.next).consume_consumed r.e f.d.toNat v (f.b == 1)
  have hbody := fwaitBody_eq (f := f) (r := r) (u := s.modEng r.e Engine.next) (v := v) hb hc hflag (by rw [hself]; exact hv)
  rw [if_pos (by rw [State.flagEngine_next, State.flagVal_next]; exact hmet)] at hbody
  obtain ⟨n, hn⟩ := issue_next hi rfl hbody
  have heng := hcons.eng r.e
  rw [hself, hi.next_eq] at heng
  obtain ⟨-, hact, -⟩ := State.mayIssue_run hi.2.1
  refine ⟨_, hn, hcons.stores, (congrArg Engine.act heng).trans hact, congrArg Engine.pc heng, fun e' f' => ?_⟩
  refine (hcons.flags e' f').trans ?_
  rw [State.flagVal_next, State.flagEngine_next]
  simp only [beq_iff_eq]

theorem exec_fwait_waits (hi : Issues s e 0x61 f r) (hb : f.b ≤ 1) (hc : f.c = 0)
    (hflag : s.flagCheck r f.d.toNat = .ok ()) {v : W32}
    (hv : ((s.eng e).gr f.a + f.imm.signExtend 64).setWidth 32 = v) (hnot : s.flagVal (s.flagEngine e) f.d.toNat < v) :
    ∃ t, exec (.fwait e f) s = .next t ∧ OnlyEngine s t e ∧
      t.eng e = { s.eng e with act := .waitFlag f.d.toNat v (f.b == 1), pc := (s.eng e).pc + 8 } := by
  obtain rfl := hi.run_e
  have hself := State.eng_modEng_self s r.e Engine.next
  have hbody := fwaitBody_eq (f := f) (r := r) (u := s.modEng r.e Engine.next) (v := v) hb hc hflag (by rw [hself]; exact hv)
  rw [if_neg (by rw [State.flagEngine_next, State.flagVal_next]; exact BitVec.not_le.2 hnot)] at hbody
  obtain ⟨t, ht, honly, heng⟩ := issue_modEng hi rfl fun u hu => hu ▸ hbody
  exact ⟨t, ht, honly, by rw [heng, hi.next_eq]⟩
end

/-- Settles O15: a change is an addition or a store at one flag, and what is noted for undoing changes no flag. -/
theorem flagChangesAndWaits : Obligations.FlagChangesAndWaits := by
  unfold Obligations.FlagChangesAndWaits
  refine ⟨fun s e f r hd hnet => ⟨fun hi hb hc him g hg => ?_, fun hi hb hc him hre => ?_⟩,
    fun s e f r => ⟨?_, fun g v take he hact hres hv => ?_, fun hi ha hnet hb hc him => ?_⟩⟩
  · obtain ⟨t, ht, hpc, hstores, hdoms, hraised⟩ := exec_finc hi hb hc him (State.flagCheck_ok hd hnet) hg
    obtain ⟨hls, hcs, hmem⟩ := State.stores_split hstores
    refine ⟨t, ht, hpc, hls, hcs, hmem, fun haw => ⟨hdoms haw, hraised.1 haw⟩, fun haw => ?_⟩
    obtain ⟨hadds, hflags, hwake⟩ := hraised.2 haw
    exact ⟨hadds, hwake, hflags⟩
  · obtain rfl := hi.run_e
    have hself := State.eng_modEng_self s r.e Engine.next
    have hbody := fsetBody_eq (f := f) (r := r) (u := s.modEng r.e Engine.next) hb hc him (State.flagCheck_ok hd hnet) hre
    obtain ⟨n, hn⟩ := issue_next hi rfl hbody
    refine ⟨_, hn, rfl, ?_, fun e' f' => ?_⟩
    · refine (congrArg Engine.pc (State.eng_setFlag _ _ _ _ r.e)).trans ?_
      rw [hself, hi.next_eq]
    · refine (State.flagVal_setFlag _ _ _ _ e' f').trans ?_
      rw [State.flagVal_next, State.flagEngine_next, hself]
      rfl
  · intro hi hd hnet hb hc v
    by_cases hmet : v ≤ s.flagVal (s.flagEngine e) f.d.toNat
    · obtain ⟨t, ht, hstores, hact, hpc, hflags⟩ := exec_fwait_met hi hb hc (State.flagCheck_ok hd hnet) rfl hmet
      obtain ⟨hls, hcs, hmem⟩ := State.stores_split hstores
      exact ⟨t, ht, hls, hcs, hmem, fun hlt => absurd hlt (BitVec.not_lt.2 hmet), fun _ => ⟨hact, hpc, hflags⟩⟩
    · obtain ⟨t, ht, honly, heng⟩ := exec_fwait_waits hi hb hc (State.flagCheck_ok hd hnet) rfl (BitVec.not_le.1 hmet)
      have hframe := honly.1
      refine ⟨t, ht, ?_, ?_, ?_, fun _ => ⟨honly, heng⟩, fun h => absurd h hmet⟩
      all_goals rw [hframe]
  · have hcons := s.consume_consumed e g v take
    obtain ⟨hact', hpc, hflags⟩ := hcons.resumed
    refine ⟨_, guarded_ok (decide_eq_true he) _, ?_⟩
    rw [State.fwaitMet_eq hact hres hv]
    exact ⟨hact', hpc, fun e' f' => (hflags e' f').trans (hcons.flags e' f')⟩
  · obtain rfl := hi.run_e
    have hself := State.eng_modEng_self s r.e Engine.next
    have hbody := frdBody_eq (f := f) (r := r) (u := s.modEng r.e Engine.next) hb hc him (State.flagCheck_ok ha hnet)
    rw [State.flagVal_next, State.flagEngine_next] at hbody
    exact issue_writesG hi rfl (fun u hu => hu ▸ hbody) rfl

end Sys2Proof.Machine
end

section
/-!
SUPPORT. What the packets that the module injects change of it (R268, R271, R280).
-/
namespace Sys2Proof.Machine

/-! ## Packets of the module itself (R268, R271, R280) -/

/-- What the injection of packets, or several, can change: the RTE block and the ports, and of the operations of engine `o`
the SEQ by which an answer names them. -/
structure SendsOnly (o : Option Nat) (s t : State) : Prop where
  frame : t = { s with rte := t.rte, ports := t.ports, engines := t.engines }
  eng : ∀ e, t.eng e = { s.eng e with nets := (t.eng e).nets }
  others : ∀ e, o ≠ some e → t.eng e = s.eng e

theorem SendsOnly.refl (o : Option Nat) (s : State) : SendsOnly o s s := ⟨rfl, fun _ => rfl, fun _ _ => rfl⟩

theorem SendsOnly.of_frame {o : Option Nat} {s t : State} (h : t = { s with rte := t.rte, ports := t.ports }) :
    SendsOnly o s t := by
  have heng : ∀ e, t.eng e = s.eng e := fun e => State.eng_of_engines (by rw [h]) e
  exact ⟨by rw [h], fun e => by rw [heng], fun e _ => heng e⟩

section
variable {o : Option Nat} {s t u : State}

theorem SendsOnly.trans (h : SendsOnly o s t) (k : SendsOnly o t u) : SendsOnly o s u where
  frame := by
    have hswap : ∀ a b c, { t with rte := a, ports := b, engines := c } =
        { s with rte := a, ports := b, engines := c } := fun a b c => by rw [h.frame]
    exact k.frame.trans (hswap _ _ _)
  eng e := by rw [k.eng, h.eng]
  others e he := (k.others e he).trans (h.others e he)

theorem SendsOnly.foldl {α : Type} {g : State → α → State} (hg : ∀ s a, SendsOnly o s (g s a)) :
    ∀ (l : List α) (s : State), SendsOnly o s (l.foldl g s)
  | [], s => .refl o s
  | a :: t, s => (hg s a).trans (SendsOnly.foldl hg t (g s a))

theorem SendsOnly.ite {c : Prop} [Decidable c] (h : SendsOnly o s t) (k : SendsOnly o t u) :
    SendsOnly o s (if c then t else u) := by
  split
  · exact h
  · exact h.trans k

theorem SendsOnly.key (h : SendsOnly o s t) (k : Nat) : t.key k = s.key k := by
  rw [h.frame]
  rfl

theorem SendsOnly.stores (h : SendsOnly o s t) : t.stores = s.stores := by
  rw [h.frame]
  rfl

theorem SendsOnly.flagVal (h : SendsOnly o s t) (e f : Nat) : t.flagVal e f = s.flagVal e f := by
  rw [State.flagVal, h.eng, ← State.flagVal]
end

section
variable (o : Option Nat) (s : State)

theorem State.modRte_sendsOnly (f : Rte → Rte) : SendsOnly o s (s.modRte f) := .of_frame rfl
theorem State.modCtr_sendsOnly (d : Nat) (f : DieCtr → DieCtr) : SendsOnly o s (s.modCtr d f) := .of_frame rfl
theorem State.enqueue_sendsOnly (p : Nat) (q : QPkt) : SendsOnly o s (s.enqueue p q) := .of_frame rfl

theorem State.routeAt_sendsOnly (d : Nat) (p : Packet) (cls chan : Nat) (whole : Bool) (inp : Option (Nat × Nat)) :
    SendsOnly o s (s.routeAt d p cls chan whole inp) := by
  unfold State.routeAt
  dsimp only
  generalize (if s.half p.epoch == .loading then 0
    else s.entry d p.epoch (p.tc.toNat * 2 ^ 17 + p.dest.toNat)) = entry
  split
  · exact s.modCtr_sendsOnly o _ _
  · split
    · exact s.modCtr_sendsOnly o _ _
    · split
      · split
        · exact s.modCtr_sendsOnly o _ _
        · exact s.enqueue_sendsOnly o _ _
      · split
        · split
          · exact s.modRte_sendsOnly o _
          · exact s.modCtr_sendsOnly o _ _
        · split
          · exact s.modRte_sendsOnly o _
          · exact s.modCtr_sendsOnly o _ _
end

/-- The engine whose operation a packet belongs to. -/
def OpRef.engine? : OpRef → Option Nat
  | .engine e _ => some e
  | _ => none

section
variable (s : State) (op : OpRef)

theorem State.noteSeq_sendsOnly (p : Packet) : SendsOnly op.engine? s (s.noteSeq op p) := by
  unfold State.noteSeq
  split
  · rename_i e id
    split
    · exact .refl _ s
    · refine ⟨rfl, fun e' => ?_, fun e' he => ?_⟩
      · rw [State.eng_modEng]
        split
        · rename_i h
          rw [h]
        · rfl
      · exact State.eng_modEng_ne _ _ fun h => he (by rw [h]; rfl)
  · exact .refl _ s

/-- A packet that enters its flow. -/
theorem State.launch_sendsOnly (w : Waiting) {t : State} (h : s.launch w = some t) : SendsOnly w.op.engine? s t := by
  unfold State.launch at h
  dsimp only at h
  split at h
  · cases h
  · rw [← Option.some.inj h]
    refine .ite (.trans ?_ (State.noteSeq_sendsOnly _ _ _)) (State.routeAt_sendsOnly _ _ _ _ _ _ _ _)
    exact .trans (.ite (.refl _ s) (s.modRte_sendsOnly _ _)) (State.modRte_sendsOnly _ _ _)

theorem State.send_sendsOnly (d : Nat) (p : Packet) (ep : Bool) (src : Option Loc) (last : Bool) :
    SendsOnly op.engine? s (s.send d p ep op src last) := by
  unfold State.send
  dsimp only [Option.getD]
  split_ifs
  · exact (s.noteSeq_sendsOnly op _).trans (State.modRte_sendsOnly _ _ _)
  · exact s.routeAt_sendsOnly _ _ _ _ _ _ _
  · exact (s.modRte_sendsOnly _ _).trans (State.modRte_sendsOnly _ _ _)
  · refine (s.modRte_sendsOnly _ fun r => { r with nextOrd := r.nextOrd + 1 }).trans ?_
    split
    · rename_i u hl
      exact State.launch_sendsOnly _ _ hl
    · exact State.modRte_sendsOnly _ _ _
end

end Sys2Proof.Machine
end

section
/-!
SUPPORT. Keystone lines: arrivals, waits, and the registers of a line (R231 to R235).
-/
namespace Sys2Proof.Machine

/-! ## Keystone lines (R231 to R235) -/

/-- What an arrival on line `k` leaves as it was. -/
structure KeyFrame (s t : State) (k : Nat) : Prop where
  frame : t = { s with keys := t.keys, doms := t.doms, pwr := t.pwr, rte := t.rte, ports := t.ports,
                       engines := t.engines }
  eng : ∀ e, t.eng e = s.eng e
  keys : ∀ j, j ≠ k → t.key j = s.key j

theorem KeyFrame.setKey (s : State) (k : Nat) (x : KeyLine) : KeyFrame s (s.setKey k x) k :=
  ⟨rfl, fun _ => rfl, fun _ hj => s.key_setKey_ne x hj⟩

section
variable {s t u : State} {k : Nat}

theorem KeyFrame.trans (h : KeyFrame s t k) (g : KeyFrame t u k) : KeyFrame s u k where
  frame := by
    have hswap : ∀ a b c d e f, { t with keys := a, doms := b, pwr := c, rte := d, ports := e, engines := f } =
        { s with keys := a, doms := b, pwr := c, rte := d, ports := e, engines := f } :=
      fun a b c d e f => by rw [h.frame]
    exact g.frame.trans (hswap _ _ _ _ _ _)
  eng e := (g.eng e).trans (h.eng e)
  keys j hj := (g.keys j hj).trans (h.keys j hj)

theorem WakesOnly.key (h : WakesOnly s t) (k : Nat) : t.key k = s.key k := by
  rw [h.frame]
  rfl

theorem WakesOnly.keyFrame (h : WakesOnly s t) : KeyFrame s t k :=
  ⟨by rw [h.frame], h.eng, fun j _ => h.key j⟩

theorem SendsOnly.keyFrame (h : SendsOnly none s t) : KeyFrame s t k :=
  ⟨by rw [h.frame], fun e => h.others e nofun, fun j _ => h.key j⟩
end

section
variable (s : State) (k : Nat)

theorem State.keyWake_wakesOnly : WakesOnly s (s.keyWake k) := by
  refine .foldl (fun t a => ?_) _ _
  dsimp only
  split
  · split
    · exact t.requestWake_wakesOnly _
    · exact .refl t
  · exact .refl t

theorem State.keySend_sendsOnly (opc : BitVec 8) (n : Nat) (phase : W32) :
    SendsOnly none s (s.keySend opc n k phase) := s.send_sendsOnly (.key k) _ _ _ _ _

/-- The line that a phase change leaves: arrivals past EXPECT count toward the next phase (R232). -/
def KeyLine.advanced (x : KeyLine) : KeyLine :=
  { x with phase := x.phase + 1, count := x.count - x.expect, reports := [], shareDone := false }

theorem State.keyAdvance_sends : SendsOnly none ((s.setKey k (s.key k).advanced).keyWake k) (s.keyAdvance k) :=
  .foldl (fun t c => t.keySend_sendsOnly k 0x21 c _) _ _

theorem State.keyAdvance_key : (s.keyAdvance k).key k = (s.key k).advanced := by
  rw [(s.keyAdvance_sends k).key, (State.keyWake_wakesOnly _ k).key, State.key_setKey_self]

theorem State.keyAdvance_keyFrame : KeyFrame s (s.keyAdvance k) k :=
  ((KeyFrame.setKey s k _).trans (State.keyWake_wakesOnly _ k).keyFrame).trans (s.keyAdvance_sends k).keyFrame

theorem State.keyShare_keyFrame : KeyFrame s (s.keyShare k) k := by
  unfold State.keyShare
  dsimp only
  split
  · exact ⟨rfl, fun _ => rfl, fun _ _ => rfl⟩
  · split
    · exact s.keyAdvance_keyFrame k
    · exact (KeyFrame.setKey s k _).trans (State.keySend_sendsOnly _ k _ _ _).keyFrame

/-- Arrivals are missing: nothing is reported (R234). -/
theorem State.keyShare_short (h : (s.key k).count < (s.key k).expect) : s.keyShare k = s := by
  simp [State.keyShare, h]

/-- This module's share and every child's are in (R234). -/
theorem State.keyShare_full (hrole : s.cfg.slice.role = 0) (hreach : (s.key k).reach = 2)
    (hdone : (s.key k).shareDone = false) (hcount : (s.key k).expect ≤ (s.key k).count)
    (hreports : ∀ n ∈ s.keyChildren, n ∈ (s.key k).reports) : (s.keyShare k).key k =
      if s.keyParent = none then (s.key k).advanced else { s.key k with shareDone := true } := by
  have hall : s.keyChildren.all (s.key k).reports.contains = true :=
    List.all_eq_true.2 fun n hn => List.contains_iff_mem.2 (hreports n hn)
  cases hparent : s.keyParent with
  | none =>
    have hgo : s.keyShare k = s.keyAdvance k := by
      simp [State.keyShare, hrole, hreach, hdone, hcount, hall, hparent]
    rw [hgo]
    exact s.keyAdvance_key k
  | some p =>
    have hgo : s.keyShare k =
        (s.setKey k { s.key k with shareDone := true }).keySend 0x20 p k (s.key k).phase := by
      simp [State.keyShare, hrole, hreach, hdone, hcount, hall, hparent]
    rw [hgo]
    exact ((State.keySend_sendsOnly _ k _ _ _).key k).trans (State.key_setKey_self ..)

theorem State.keyArrive_keyFrame : KeyFrame s (s.keyArrive k) k := by
  unfold State.keyArrive
  dsimp only
  split_ifs
  · exact (KeyFrame.setKey s k _).trans (State.keyShare_keyFrame _ k)
  · exact (KeyFrame.setKey s k _).trans (State.keyWake_wakesOnly _ k).keyFrame
  · exact KeyFrame.setKey s k _

/-- An arrival at die or module reach (R232). -/
theorem State.keyArrive_near (hreach : (s.key k).reach ≠ 2) : (s.keyArrive k).key k =
    if (s.key k).count + 1 = (s.key k).expect then { s.key k with phase := (s.key k).phase + 1, count := 0 }
    else { s.key k with count := (s.key k).count + 1 } := by
  unfold State.keyArrive
  dsimp only
  rw [if_neg hreach]
  split
  · rw [(State.keyWake_wakesOnly _ k).key, State.key_setKey_self]
  · rw [State.key_setKey_self]

/-- An arrival at slice reach counts, and is then reported when it may be. -/
theorem State.keyArrive_far (hreach : (s.key k).reach = 2) :
    s.keyArrive k = (s.setKey k { s.key k with count := (s.key k).count + 1 }).keyShare k := by
  unfold State.keyArrive
  dsimp only
  rw [if_pos hreach]

theorem State.keyArrive_short (hreach : (s.key k).reach = 2) (h : (s.key k).count + 1 < (s.key k).expect) :
    (s.keyArrive k).key k = { s.key k with count := (s.key k).count + 1 } := by
  rw [s.keyArrive_far k hreach, State.keyShare_short _ _ (by rw [State.key_setKey_self]; exact h),
    State.key_setKey_self]

theorem State.keyArrive_full (hreach : (s.key k).reach = 2) (hrole : s.cfg.slice.role = 0)
    (hdone : (s.key k).shareDone = false) (h : (s.key k).count + 1 = (s.key k).expect)
    (hreports : ∀ n ∈ s.keyChildren, n ∈ (s.key k).reports) : (s.keyArrive k).key k =
      if s.keyParent = none then
        { s.key k with phase := (s.key k).phase + 1, count := 0, reports := [], shareDone := false }
      else { s.key k with count := (s.key k).count + 1, shareDone := true } := by
  have hself := s.key_setKey_self k { s.key k with count := (s.key k).count + 1 }
  have hfull := State.keyShare_full (s.setKey k { s.key k with count := (s.key k).count + 1 }) k hrole
    (by rw [hself]; exact hreach) (by rw [hself]; exact hdone) (by rw [hself]; exact h.ge)
    (by rw [hself]; exact hreports)
  rw [s.keyArrive_far k hreach, hfull, hself]
  have hzero : (s.key k).count + 1 - (s.key k).expect = 0 := by omega
  have hadv : KeyLine.advanced { s.key k with count := (s.key k).count + 1 } =
      { s.key k with phase := (s.key k).phase + 1, count := 0, reports := [], shareDone := false } := by
    rw [KeyLine.advanced]
    dsimp only
    rw [hzero]
  rw [hadv]
  rfl
end

/-! ## KARR, KWAIT and its end -/

section
variable {f : Fields} {r : Run} {u : State}

/-- A line that the item may name (R233). -/
theorem State.keyCheck_ok {k : Nat} (howner : (u.key k).owner = r.part)
    (hdie : (u.key k).reach = 0 → (u.key k).die = r.e / 512) : u.keyCheck r k = .ok () := by
  have hno : ¬ ((u.key k).reach == 0 && (u.key k).die != r.e / 512) = true := by
    rw [Bool.and_eq_true, beq_iff_eq, bne_iff_ne]
    exact fun h => h.2 (hdie h.1)
  simp only [State.keyCheck, require, howner, Bool.not_eq_true] at hno ⊢
  rw [hno, beq_self_eq_true]
  rfl

theorem noReexec_ok (h : r.d.reexec = false) : noReexec r = .ok () := by
  rw [noReexec, require, h]
  rfl

theorem karrBody_eq (ha : f.a = 0) (hb : f.b = 0) (hc : f.c = 0) (him : f.imm < 16) (hre : r.d.reexec = false)
    (hcheck : u.keyCheck r f.imm.toNat = .ok ()) (hexp : (u.key f.imm.toNat).expect ≠ 0) : karrBody f r u =
      .ok ((u.keyArrive f.imm.toNat).modEng r.e fun x => x.setG f.d ((u.key f.imm.toNat).phase.setWidth 64)) := by
  have hfields := checkFields_of (f := f) (d := .any) (m := 0xF) rfl (Use.ok_no ha) (Use.ok_no hb) (Use.ok_no hc)
    (imm_within (k := 4) him (by decide))
  have hexp' : require (decide ((u.key f.imm.toNat).expect ≠ 0)) (err faultAccess) = .ok () := by
    rw [require, decide_eq_true hexp]
    rfl
  simp only [karrBody, hfields, noReexec_ok hre, hcheck, hexp', bind, Except.bind, onEngine]

theorem kwaitBody_eq (hd : f.d = 0) (hb : f.b = 0) (hc : f.c = 0) (him : f.imm < 16) (hre : r.d.reexec = false)
    (hcheck : u.keyCheck r f.imm.toNat = .ok ()) {v : W32} (hv : ((u.eng r.e).gr f.a).setWidth 32 = v) :
    kwaitBody f r u = .ok (if (u.key f.imm.toNat).phase ≠ v then u
      else u.modEng r.e fun x => { x with act := .waitKey f.imm.toNat v }) := by
  subst hv
  have hfields := checkFields_of (f := f) (a := .any) (m := 0xF) (Use.ok_no hd) rfl (Use.ok_no hb) (Use.ok_no hc)
    (imm_within (k := 4) him (by decide))
  simp only [kwaitBody, hfields, noReexec_ok hre, hcheck, bind, Except.bind, onEngine]
  split
  · rfl
  · rfl
end

section
variable {s : State} {e : Nat} {f : Fields} {r : Run}

/-- KARR: an arrival, and the phase in its register. -/
theorem exec_karr (hi : Issues s e 0x64 f r) (ha : f.a = 0) (hb : f.b = 0) (hc : f.c = 0) (him : f.imm < 16)
    (hre : r.d.reexec = false) (howner : (s.key f.imm.toNat).owner = r.part)
    (hdie : (s.key f.imm.toNat).reach = 0 → (s.key f.imm.toNat).die = e / 512)
    (hexp : (s.key f.imm.toNat).expect ≠ 0) : ∃ t w, exec (.karr e f) s = .next t ∧
      w = (s.modEng e Engine.next).keyArrive f.imm.toNat ∧ t.keys = w.keys ∧ t.stores = s.stores ∧
      t.eng e = (s.eng e).next.setG f.d ((s.key f.imm.toNat).phase.setWidth 64) := by
  obtain rfl := hi.run_e
  have hbody := karrBody_eq (f := f) (r := r) (u := s.modEng r.e Engine.next) ha hb hc him hre
    (State.keyCheck_ok howner hdie) hexp
  obtain ⟨n, hn⟩ := issue_next hi rfl hbody
  have hframe := (s.modEng r.e Engine.next).keyArrive_keyFrame f.imm.toNat
  refine ⟨_, _, hn, rfl, rfl, ?_, ?_⟩
  · have hstores : ((s.modEng r.e Engine.next).keyArrive f.imm.toNat).stores = s.stores := by
      rw [hframe.frame]
      rfl
    exact hstores
  · have heng := State.eng_modEng_self ((s.modEng r.e Engine.next).keyArrive f.imm.toNat) r.e
      fun x => x.setG f.d ((s.key f.imm.toNat).phase.setWidth 64)
    refine heng.trans ?_
    rw [hframe.eng, State.eng_modEng_self]

theorem exec_kwait (hi : Issues s e 0x65 f r) (hd : f.d = 0) (hb : f.b = 0) (hc : f.c = 0) (him : f.imm < 16)
    (hre : r.d.reexec = false) (howner : (s.key f.imm.toNat).owner = r.part)
    (hdie : (s.key f.imm.toNat).reach = 0 → (s.key f.imm.toNat).die = e / 512) {v : W32}
    (hv : ((s.eng e).gr f.a).setWidth 32 = v) : ∃ t, exec (.kwait e f) s = .next t ∧ OnlyEngine s t e ∧
      t.eng e = { s.eng e with
        act := if (s.key f.imm.toNat).phase = v then .waitKey f.imm.toNat v else .run, pc := (s.eng e).pc + 8 } := by
  obtain rfl := hi.run_e
  obtain ⟨-, hact, -⟩ := State.mayIssue_run hi.2.1
  have hself := State.eng_modEng_self s r.e Engine.next
  have hbody := kwaitBody_eq (f := f) (r := r) (u := s.modEng r.e Engine.next) (v := v) hd hb hc him hre
    (State.keyCheck_ok howner hdie) (by rw [hself]; exact hv)
  rw [State.key_modEng] at hbody
  by_cases hphase : (s.key f.imm.toNat).phase = v
  · rw [if_neg (not_not.2 hphase)] at hbody
    obtain ⟨t, ht, honly, heng⟩ := issue_modEng hi rfl fun u hu => hu ▸ hbody
    exact ⟨t, ht, honly, by rw [heng, hi.next_eq, if_pos hphase]⟩
  · rw [if_pos hphase] at hbody
    obtain ⟨t, ht, honly, heng⟩ := issue_onlyPc hi rfl fun u hu => hu ▸ hbody
    exact ⟨t, ht, honly, by rw [heng, if_neg hphase, ← hact]⟩
end

/-! ## KEY_EXPECT and KEY_CTRL (R233, R235) -/

section
variable {s : State} {port k : Nat}

theorem exec_keyExpectWrite (hk : k < 16) (hport : port < 2) (v : W32) (hw : s.writable = true)
    (hreach : s.reaches (s.keyOwner k) port = true) : exec (.keyExpectWrite port k v) s = .next
      (if v.toNat % 4096 ≤ 2048 ∧ (s.key k).count = 0 then
        (s.emptyLatch (portReq port)).modKey k fun x => { x with expect := v.toNat % 4096 }
       else s.emptyLatch (portReq port)) := by
  refine (guarded_ok (by simp [isHost, isKey, hk, hport]) _).trans (congrArg _ ?_)
  have hw' : (s.emptyLatch (portReq port)).writable = true := hw
  have hreach' : (s.emptyLatch (portReq port)).reaches ((s.emptyLatch (portReq port)).keyOwner k) port = true := hreach
  unfold State.keyExpect
  dsimp only
  rw [hw', hreach']
  by_cases h : v.toNat % 4096 ≤ 2048 ∧ (s.key k).count = 0
  · rw [if_pos h, if_neg]
    have hcount : ((s.emptyLatch (portReq port)).key k).count = 0 := h.2
    simp [hcount, h.1]
  · rw [if_neg h, if_pos]
    have hcount : ((s.emptyLatch (portReq port)).key k).count = (s.key k).count := rfl
    simp only [hcount, Bool.not_true, Bool.false_or, Bool.or_eq_true, decide_eq_true_eq]
    omega

theorem exec_keyReset (hk : k < 16) (hport : port < 2) {v : W32} (hw : s.writable = true)
    (hreach : s.reaches (s.keyOwner k) port = true) (hv : v.getLsbD 0 = true) :
    exec (.keyReset port k v) s = .next ((s.emptyLatch (portReq port)).keyClear k) := by
  refine (guarded_ok (by simp [isHost, isKey, hk, hport]) _).trans (congrArg _ ?_)
  have hw' : (s.emptyLatch (portReq port)).writable = true := hw
  have hreach' : (s.emptyLatch (portReq port)).reaches ((s.emptyLatch (portReq port)).keyOwner k) port = true := hreach
  unfold State.keyCtrl
  dsimp only
  rw [hw', hreach', hv]
  rfl

theorem State.keyClear_key (u : State) (j : Nat) : (u.keyClear k).key j =
    if j = k then { u.key k with phase := 0, count := 0, reports := [], shareDone := false } else u.key j := by
  rw [State.keyClear, (State.keyWake_wakesOnly _ k).key, State.key_modKey]
end

/-- Settles O16: an arrival is followed through the wakes and packets that it causes (`State.keyArrive_keyFrame`). -/
theorem keystoneArrivals : Obligations.KeystoneArrivals := by
  unfold Obligations.KeystoneArrivals
  refine ⟨fun s e f r => ⟨fun hi ha hb hc him hre howner hdie hexp => ?_, ?_, fun k v he hact hres hphase => ?_⟩,
    fun s port k v hk hport hw hreach => ⟨⟨_, exec_keyExpectWrite hk hport v hw hreach, ?_, fun j hj => ?_, ?_⟩,
      fun hv => ⟨_, exec_keyReset hk hport hw hreach hv, fun j hj => ?_, ?_⟩⟩⟩
  · obtain ⟨t, w, ht, hw, hkeys, hstores, heng⟩ := exec_karr hi ha hb hc him hre howner hdie hexp
    have hframe := (s.modEng e Engine.next).keyArrive_keyFrame f.imm.toNat
    rw [← hw] at hframe
    have hkey : ∀ j, t.key j = w.key j := fun j => congrArg (fun x => Tab.get KeyLine.reset x j) hkeys
    obtain ⟨hls, hcs, hmem⟩ := State.stores_split hstores
    refine ⟨t, ht, fun q => ?_, ?_, hls, hcs, hmem, fun j hj => ?_, fun hfar => ?_, fun hfar => ⟨fun hlt => ?_, ?_⟩⟩
    · rw [heng, Engine.gr_setG]
      rfl
    · rw [heng, Engine.setG_eq, hi.next_eq]
    · rw [hkey, hframe.keys j hj, State.key_modEng]
    · rw [hkey, hw, State.keyArrive_near (s.modEng e Engine.next) _ hfar, State.key_modEng]
    · rw [hkey, hw, State.keyArrive_short (s.modEng e Engine.next) _ hfar hlt, State.key_modEng]
    · intro hrole hdone hcount hreports
      rw [hkey, hw, State.keyArrive_full (s.modEng e Engine.next) _ hfar hrole hdone hcount hreports, State.key_modEng]
      rfl
  · intro hi hd hb hc him hre howner hdie v
    exact exec_kwait hi hd hb hc him hre howner hdie rfl
  · refine ⟨s.modEng e fun x => { x with act := .run }, ?_, ⟨rfl, fun e' he' => State.eng_modEng_ne _ _ he'⟩,
      State.eng_modEng_self _ _ _⟩
    refine (guarded_ok (decide_eq_true he) _).trans (congrArg _ ?_)
    simp [State.kwaitMet, hact, hres, hphase]
  · split
    · rfl
    · rfl
  · split
    · exact State.key_modKey_ne _ _ hj
    · rfl
  · split
    · exact State.key_modKey_self _ _ _
    · rfl
  · rw [State.keyClear_key, if_neg hj]
    rfl
  · rw [State.keyClear_key, if_pos rfl]
    rfl

end Sys2Proof.Machine
end

section
/-!
SUPPORT. SYSR, TRAP and CFENCE.
-/
namespace Sys2Proof.Machine

/-! ## SYSR, TRAP and CFENCE -/

/-- What selector `n` of SYSR reads. -/
def State.sysrValue (s : State) (r : Run) (n : Nat) : Nat :=
  match n with
  | 0 => r.e
  | 1 => r.e / 32
  | 2 => r.c
  | 3 => r.d.seq.toNat
  | 4 => r.d.ctx
  | 5 => r.part
  | 6 => s.cfg.slice.nodeId.toNat
  | 7 => (s.eng r.e).itemCyc
  | _ => (s.eng r.e).numstat.toNat

section
variable {f : Fields} {r : Run} {u : State}

theorem sysrBody_eq (ha : f.a = 0) (hb : f.b = 0) (hc : f.c = 0) (him : f.imm ≤ 8) : sysrBody f r u =
    .ok (u.modEng r.e fun x => x.setG f.d (BitVec.ofNat 64 (u.sysrValue r f.imm.toNat))) := by
  have him' : f.imm.toNat ≤ 8 := him
  have hfields := checkFields_of (f := f) (d := .any) (m := 0xFF) rfl (Use.ok_no ha) (Use.ok_no hb) (Use.ok_no hc)
    (imm_within (k := 8) (by omega) (by decide))
  simp only [sysrBody, hfields, bind, Except.bind]
  generalize f.imm.toNat = n at him'
  interval_cases n <;> rfl

theorem trapBody_eq (hd : f.d = 0) (ha : f.a = 0) (hb : f.b = 0) (hc : f.c = 0) (him : f.imm < 64) :
    trapBody f r u = .error (err (0x40 + f.imm.setWidth 8)) := by
  have hfields := checkFields_of (f := f) (m := 0x3F) (Use.ok_no hd) (Use.ok_no ha) (Use.ok_no hb) (Use.ok_no hc)
    (imm_within (k := 6) him (by decide))
  simp only [trapBody, hfields, bind, Except.bind]

theorem cfenceBody_eq (hd : f.d = 0) (ha : f.a = 0) (hb : f.b = 0) (hc : f.c = 0) (him : f.imm = 0) :
    cfenceBody f r u = .ok (if u.itemCopies r.e r.c r.k || u.itemNets r.e r.c r.k then
      u.modEng r.e fun x => { x with act := .waitFence } else u) := by
  have hfields := checkFields_of (f := f) (m := 0) (Use.ok_no hd) (Use.ok_no ha) (Use.ok_no hb) (Use.ok_no hc)
    (by rw [him]; rfl)
  simp only [cfenceBody, hfields, bind, Except.bind, onEngine]
  split
  · rfl
  · rfl
end

/-- The step of an engine's program counter leaves the rest of every engine. -/
theorem State.eng_next (s : State) (e e' : Nat) :
    (s.modEng e Engine.next).eng e' = { s.eng e' with pc := ((s.modEng e Engine.next).eng e').pc } := by
  rw [State.eng_modEng]
  split
  · rename_i h
    rw [h]
    rfl
  · rfl

@[simp] theorem State.hostEngine_next (s : State) (e o : Nat) :
    (s.modEng e Engine.next).hostEngine o = s.hostEngine o := by
  have hslot : (s.modEng e Engine.next).hasSlot = s.hasSlot := funext fun x => by
    rw [State.hasSlot, State.eng_next, ← State.hasSlot]
  rw [State.hostEngine, hslot]
  rfl

@[simp] theorem State.serves_next (s : State) (e e' : Nat) : (s.modEng e Engine.next).serves e' = s.serves e' := by
  have horphan : ∀ x, ((s.modEng e Engine.next).eng x).orphan = (s.eng x).orphan := fun x => by rw [State.eng_next]
  simp only [State.serves, horphan, State.hostEngine_next]

@[simp] theorem State.itemCopies_next (s : State) (e e' c k : Nat) :
    (s.modEng e Engine.next).itemCopies e' c k = s.itemCopies e' c k := by
  have hcopies : ∀ x, ((s.modEng e Engine.next).eng x).copies = (s.eng x).copies := fun x => by rw [State.eng_next]
  simp only [State.itemCopies, State.serves_next, hcopies]

@[simp] theorem State.itemNets_next (s : State) (e e' c k : Nat) :
    (s.modEng e Engine.next).itemNets e' c k = s.itemNets e' c k := by
  have hnets : ∀ x, ((s.modEng e Engine.next).eng x).nets = (s.eng x).nets := fun x => by rw [State.eng_next]
  simp only [State.itemNets, State.serves_next, hnets]

@[simp] theorem State.sysrValue_next (s : State) (r : Run) (n : Nat) :
    (s.modEng r.e Engine.next).sysrValue r n = s.sysrValue r n := by
  simp only [State.sysrValue, State.eng_modEng_self]
  rfl

section
variable {s : State} {e : Nat} {f : Fields} {r : Run}

theorem exec_sysr (hi : Issues s e 0xF0 f r) (ha : f.a = 0) (hb : f.b = 0) (hc : f.c = 0) (him : f.imm ≤ 8) :
    ∃ t, exec (.sysr e f) s = .next t ∧
      WritesG s t e f.d (BitVec.ofNat 64 (s.sysrValue r f.imm.toNat)) ((s.eng e).pc + 8) := by
  obtain rfl := hi.run_e
  have hbody := sysrBody_eq (f := f) (r := r) (u := s.modEng r.e Engine.next) ha hb hc him
  rw [State.sysrValue_next] at hbody
  exact issue_writesG hi rfl (fun u hu => hu ▸ hbody) rfl

theorem exec_cfence (hi : Issues s e 0xF2 f r) (hd : f.d = 0) (ha : f.a = 0) (hb : f.b = 0) (hc : f.c = 0)
    (him : f.imm = 0) : ∃ t, exec (.cfence e f) s = .next t ∧ OnlyEngine s t e ∧ t.eng e = { s.eng e with
      act := if s.itemCopies e r.c r.k || s.itemNets e r.c r.k then .waitFence else .run, pc := (s.eng e).pc + 8 } := by
  obtain rfl := hi.run_e
  obtain ⟨-, hact, -⟩ := State.mayIssue_run hi.2.1
  have hbody := cfenceBody_eq (f := f) (r := r) (u := s.modEng r.e Engine.next) hd ha hb hc him
  rw [State.itemCopies_next, State.itemNets_next] at hbody
  by_cases hwait : (s.itemCopies r.e r.c r.k || s.itemNets r.e r.c r.k) = true
  · rw [if_pos hwait] at hbody
    obtain ⟨t, ht, honly, heng⟩ := issue_modEng hi rfl fun u hu => hu ▸ hbody
    exact ⟨t, ht, honly, by rw [heng, hi.next_eq, if_pos hwait]⟩
  · rw [if_neg hwait] at hbody
    obtain ⟨t, ht, honly, heng⟩ := issue_onlyPc hi rfl fun u hu => hu ▸ hbody
    exact ⟨t, ht, honly, by rw [heng, if_neg hwait, ← hact]⟩
end

/-- Settles O29, instruction by instruction. -/
theorem systemInstructions : Obligations.SystemInstructions := by
  unfold Obligations.SystemInstructions
  refine fun s e f r => ⟨fun hi ha hb hc him => ?_, fun hi hd ha hb hc him => ?_,
    fun hi hd ha hb hc him => exec_cfence hi hd ha hb hc him, fun he hact hres hrun hcopies hnets => ?_⟩
  · obtain ⟨t, ht, hw⟩ := exec_sysr hi ha hb hc him
    refine ⟨t, _, ht, hw, ?_⟩
    obtain rfl := hi.run_e
    have hsel : ∀ {n : BitVec 32}, f.imm = n → BitVec.ofNat 64 (s.sysrValue r f.imm.toNat) =
        BitVec.ofNat 64 (s.sysrValue r n.toNat) := fun h => by rw [h]
    exact ⟨hsel, hsel, hsel, fun h => (hsel h).trans (BitVec.ofNat_toNat _ _), hsel, hsel,
      fun h => (hsel h).trans (BitVec.ofNat_toNat _ _), hsel, fun h => (hsel h).trans (BitVec.ofNat_toNat _ _)⟩
  · have hbody : trapBody f r (s.modEng e Engine.next) = .error (0x40 + f.imm.setWidth 8, 0) :=
      trapBody_eq hd ha hb hc him
    exact (guarded_ok hi.isEngine _).trans (congrArg _ (State.issue_error hi rfl hbody))
  · refine ⟨s.modEng e fun x => { x with act := .run }, ?_, ⟨rfl, fun e' he' => State.eng_modEng_ne _ _ he'⟩,
      State.eng_modEng_self _ _ _⟩
    refine (guarded_ok (decide_eq_true he) _).trans (congrArg _ ?_)
    simp [State.cfenceMet, hact, hres, hrun, hcopies, hnets]

end Sys2Proof.Machine
end

section
/-!
SUPPORT. A fault that ends its item (R112), and the instructions that fault (R76, R103).
-/
namespace Sys2Proof.Machine

/-! ## The end of a running item (R112) -/

@[simp] theorem State.hodSlot_freeHod (s : State) (c k c' k' : Nat) :
    (s.freeHod c k).hodSlot c' k' = if c' = c ∧ k' = k then none else s.hodSlot c' k' := by
  rw [State.hodSlot, State.freeHod, State.crs_modCrs]
  by_cases hc : c' = c
  · subst hc
    rw [if_pos rfl]
    refine (Tab.find?_erase _ _ _).trans ?_
    simp only [true_and]
    rfl
  · rw [if_neg hc, if_neg fun h => hc h.1]
    rfl

/-- What frees hod slots leaves the rest of the module. -/
theorem State.freeSpawns_frame (l : List (Nat × Nat)) : ∀ s : State,
    s.freeSpawns l = { s with courses := (s.freeSpawns l).courses } := by
  induction l with
  | nil => exact fun s => rfl
  | cons x t ih => exact fun s => ih (s.freeHod x.1 x.2)

theorem State.hodSlot_freeSpawns (l : List (Nat × Nat)) (c k : Nat) : ∀ s : State,
    (s.freeSpawns l).hodSlot c k = if (c, k) ∈ l then none else s.hodSlot c k := by
  induction l with
  | nil => exact fun s => rfl
  | cons x t ih =>
    intro s
    refine (ih (s.freeHod x.1 x.2)).trans ?_
    rw [State.hodSlot_freeHod]
    by_cases ht : (c, k) ∈ t
    · rw [if_pos ht, if_pos (List.mem_cons_of_mem _ ht)]
    · have hmem : (c, k) ∈ x :: t ↔ c = x.1 ∧ k = x.2 := by
        rw [List.mem_cons, Prod.ext_iff, or_iff_left ht]
      simp only [if_neg ht, hmem]

section
variable {s : State} {e c k : Nat} {h : HodSlot}

/-- What the end of a running item leaves: stores, partitions, the slots freed, and the counts of its context. -/
theorem State.endRunning_some (hitem : (s.eng e).item = some (c, k)) (hslot : s.hodSlot c k = some h) :
    s.endRunning e = { s with engines := (s.endRunning e).engines, courses := (s.endRunning e).courses,
                              ctxs := (s.endRunning e).ctxs } ∧
    (∀ x ∈ (s.eng e).spawns, (s.endRunning e).hodSlot x.1 x.2 = none) ∧ (s.endRunning e).hodSlot c k = none ∧
    ∀ n, (s.endRunning e).ctx n =
      if n = h.desc.ctx then { s.ctx n with live := (s.ctx n).live - 1, ended := satAdd 64 (s.ctx n).ended 1 }
      else s.ctx n := by
  have heq : s.endRunning e = State.ctxDone (State.freeHod (State.modEng (State.dropOps (s.freeSpawns (s.eng e).spawns) c k) e
      Engine.release) c k) h.desc.ctx false := by
    simp only [State.endRunning, hitem, hslot]
    rfl
  rw [heq]
  refine ⟨?_, fun x hx => ?_, ?_, fun n => ?_⟩
  · rw [State.freeSpawns_frame]
    rfl
  · refine (State.hodSlot_freeHod _ _ _ _ _).trans ?_
    split
    · rfl
    · refine (State.hodSlot_freeSpawns (s.eng e).spawns x.1 x.2 s).trans ?_
      exact if_pos hx
  · refine (State.hodSlot_freeHod _ _ _ _ _).trans ?_
    exact if_pos ⟨rfl, rfl⟩
  · have hctx : ∀ m, (State.freeHod (State.modEng (State.dropOps (s.freeSpawns (s.eng e).spawns) c k) e Engine.release) c
        k).ctx m = s.ctx m := fun m => by
      rw [State.freeSpawns_frame]
      rfl
    rw [State.ctxDone, State.ctx_modCtx, hctx, hctx]
    split
    · rename_i hn
      rw [hn]
      rfl
    · rfl
end

/-! ## A fault that ends its item (R112, R242) -/

/-- A code that does not halt is not CHECK. -/
theorem ne_check_of_not_halting {code : BitVec 8} (h : haltingCode code = false) : code ≠ faultCheck := by
  rintro rfl
  exact absurd h (by decide)

section
variable {s : State} {e c k : Nat} {h : HodSlot}

theorem State.itemFault_ends {code : BitVec 8} (hcode : haltingCode code = false) (opc : BitVec 8) (pc : Nat) (a : W64)
    (hitem : (s.eng e).item = some (c, k)) (hslot : s.hodSlot c k = some h) : s.itemFault e code opc pc a =
      ((s.recordFault e code opc pc a).ctxFault h.desc.ctx code opc e h.desc.seq).endRunning e := by
  have hitem' : ((s.recordFault e code opc pc a).eng e).item = some (c, k) := by
    rw [State.eng_recordFault, Engine.faulted_frame]
    exact hitem
  have hslot' : (s.recordFault e code opc pc a).hodSlot c k = some h := hslot
  unfold State.itemFault
  simp only [if_neg (ne_check_of_not_halting hcode), hitem', hslot', hcode, if_neg Bool.false_ne_true]

/-- A context after a fault: the first is recorded (R242). -/
def Ctx.faulted (code opc : BitVec 8) (e : Nat) (seq : W32) (x : Ctx) : Ctx :=
  if x.faultValid then x
  else { x with faultValid := true, faultCode := code, faultOpc := opc, faultEngine := e, faultSeq := seq }

theorem State.ctxFault_eq (s : State) (n : Nat) (code opc : BitVec 8) (e : Nat) (seq : W32) :
    s.ctxFault n code opc e seq = s.modCtx n (Ctx.faulted code opc e seq) := rfl

/-- What such a fault leaves. -/
theorem State.itemFault_left {code : BitVec 8} (hcode : haltingCode code = false) (opc : BitVec 8) (pc : Nat) (a : W64)
    (hitem : (s.eng e).item = some (c, k)) (hslot : s.hodSlot c k = some h) :
    (s.itemFault e code opc pc a).stores = s.stores ∧ (s.itemFault e code opc pc a).parts = s.parts ∧
    (s.itemFault e code opc pc a).eng e = (((s.eng e).faulted code opc pc a).orphanOps c k).release ∧
    (s.itemFault e code opc pc a).hodSlot c k = none ∧
    (∀ x ∈ (s.eng e).spawns, (s.itemFault e code opc pc a).hodSlot x.1 x.2 = none) ∧
    (s.itemFault e code opc pc a).ctx h.desc.ctx =
      { (s.ctx h.desc.ctx).faulted code opc e h.desc.seq with
        live := ((s.ctx h.desc.ctx).faulted code opc e h.desc.seq).live - 1,
        ended := satAdd 64 ((s.ctx h.desc.ctx).faulted code opc e h.desc.seq).ended 1 } := by
  generalize hu : (s.recordFault e code opc pc a).ctxFault h.desc.ctx code opc e h.desc.seq = u
  have heng : u.eng e = (s.eng e).faulted code opc pc a := by
    rw [← hu]
    exact s.eng_recordFault e code opc pc a
  have hitem' : (u.eng e).item = some (c, k) := by
    rw [heng, Engine.faulted_frame]
    exact hitem
  have hspawns : (u.eng e).spawns = (s.eng e).spawns := by rw [heng, Engine.faulted_frame]
  have hslot' : u.hodSlot c k = some h := by
    rw [← hu]
    exact hslot
  have hctx : u.ctx h.desc.ctx = (s.ctx h.desc.ctx).faulted code opc e h.desc.seq := by
    rw [← hu, State.ctxFault_eq, State.ctx_modCtx_self]
    rfl
  obtain ⟨hframe, hfreed, hfree, hcount⟩ := State.endRunning_some hitem' hslot'
  rw [State.itemFault_ends hcode opc pc a hitem hslot, hu]
  refine ⟨?_, ?_, ?_, hfree, fun x hx => hfreed x (by rw [hspawns]; exact hx), ?_⟩
  · rw [hframe, ← hu]
    rfl
  · rw [hframe, ← hu]
    rfl
  · rw [State.eng_endRunning_some hitem', heng]
  · rw [hcount, if_pos rfl, hctx]
end

/-! ## Instructions that fault (R76, R103) -/

/-- The instructions of the tables, but BMUL, that do not use field C. -/
def rowsWithoutC : List ((Nat → Fields → Instr) × BitVec 8) :=
  [(.nop, 0x00), (.add, 0x01), (.sub, 0x02), (.mul, 0x03), (.and, 0x04), (.or, 0x05), (.xor, 0x06), (.shl, 0x07),
   (.shr, 0x08), (.sar, 0x09), (.li, 0x0A), (.lih, 0x0B), (.cmp, 0x0C), (.brz, 0x0D), (.brnz, 0x0E), (.jal, 0x0F),
   (.ldg, 0x10), (.stg, 0x11), (.ld4, 0x12), (.st4, 0x13), (.vld, 0x14), (.vst, 0x15), (.cpys, 0x21), (.narrow, 0x22),
   (.widen, 0x22), (.reblock, 0x22), (.pack, 0x22), (.expand, 0x22), (.gather, 0x22), (.scatter, 0x22), (.zscan, 0x22),
   (.digest, 0x22), (.aprom, 0x32), (.adrain, 0x33), (.adraine, 0x34), (.venc, 0x35), (.vadd, 0x40), (.vsub, 0x41),
   (.vmul, 0x42), (.vmax, 0x44), (.vmin, 0x45), (.vcmp, 0x46), (.vexp2, 0x48), (.vlog2, 0x49), (.vrcp, 0x4A),
   (.vrsqrt, 0x4B), (.vcvt, 0x4C), (.vbcast, 0x4D), (.vperm, 0x4E), (.vmovg, 0x4F), (.rlane, 0x50), (.racc, 0x51),
   (.rwel, 0x52), (.rscfg, 0x53), (.rcont, 0x54), (.rmerge, 0x55), (.finc, 0x60), (.fwait, 0x61), (.fset, 0x62),
   (.frd, 0x63), (.karr, 0x64), (.kwait, 0x65), (.spawn, 0x70), (.spawnd, 0x71), (.yield, 0x72), (.finish, 0x73),
   (.nput, 0x80), (.nget, 0x81), (.nflag, 0x82), (.nstep, 0x83), (.sysr, 0xF0), (.trap, 0xF1), (.cfence, 0xF2)]

theorem rowsWithoutC_eq :
    engineRows.filter (fun x => x.2 ∉ [0x16, 0x17, 0x18, 0x20, 0x30, 0x43, 0x47]) = rowsWithoutC := rfl

theorem checkFields_bind_noC {f : Fields} (hc : f.c ≠ 0) (d a b : Use) (m : BitVec 32)
    (g : Unit → Except Err State) : (checkFields f d a b .no m >>= g) = .error (err faultIllegal) := by
  have hno : Use.no.ok f.c = false := beq_eq_false_iff_ne.2 hc
  simp only [checkFields, hno, require, Bool.and_false, Bool.false_and, bind, Except.bind]
  rfl

/-- Each of them checks its fields before anything else. -/
theorem exec_rowsWithoutC : ∀ row ∈ rowsWithoutC, knownOpc row.2.toNat = true ∧ ∀ e f s, f.c ≠ 0 → ∃ body,
    exec (row.1 e f) s = guarded (isEngine e) (s.issue e row.2 f body) ∧
    ∀ r u, body r u = .error (err faultIllegal) := by
  unfold rowsWithoutC
  repeat refine List.forall_mem_cons.2 ⟨⟨rfl, fun e f s hc => ⟨_, rfl, fun _ _ => checkFields_bind_noC hc ..⟩⟩, ?_⟩
  exact List.forall_mem_nil _

section
variable {s : State} {e : Nat} {r : Run} (hm : s.mayIssue e = true) (hr : s.run e = some r)
include hm hr

/-- A fetch outside the usable store, or one at no instruction's place, faults before the word is read. -/
theorem State.issue_badPc (hpc : (s.eng e).pc % 8 ≠ 0 ∨ (s.eng e).pc + 8 > csUsable) (opc : BitVec 8) (f : Fields)
    (body : Run → State → Except Err State) : s.issue e opc f body =
      (s.itemFault e faultAddr 0 (s.eng e).pc (BitVec.ofNat 64 (s.eng e).pc)).choose e := by
  simp [State.issue, hm, hr, hpc]

theorem State.issue_unknown (hpc : (s.eng e).pc % 8 = 0) (hfit : (s.eng e).pc + 8 ≤ csUsable)
    (hopc : knownOpc (leNat (s.readLoc (.cs (e / 32) (s.eng e).pc) 8) / 2 ^ 56) = false) (opc : BitVec 8) (f : Fields)
    (body : Run → State → Except Err State) : s.issue e opc f body = (s.itemFault e faultIllegal
      (BitVec.ofNat 8 (leNat (s.readLoc (.cs (e / 32) (s.eng e).pc) 8) / 2 ^ 56)) (s.eng e).pc 0).choose e := by
  have hgood : ¬ ((s.eng e).pc % 8 ≠ 0 ∨ (s.eng e).pc + 8 > csUsable) := by omega
  unfold State.issue
  simp only [hm, hr, if_neg hgood, hopc]
  rfl
end

/-- Settles O27: the end of the item is followed update by update, and each instruction that faults is issued through
`State.issue`. -/
theorem faultsAndIllegal : Obligations.FaultsAndIllegal := by
  unfold Obligations.FaultsAndIllegal
  refine ⟨fun s e c k h code opc pc addr hitem hslot hcode => ?_, ⟨fun row hrow s e f r he hm hr => ⟨fun hpc => ?_,
    fun hpc hfit hopc => ?_⟩, fun row hrow s e f r hi hc => ?_⟩⟩
  · intro u
    obtain ⟨hstores, hparts, heng, hfree, hfreed, hctx⟩ := State.itemFault_left hcode opc pc addr hitem hslot
    obtain ⟨hls, hcs, hmem⟩ := State.stores_split hstores
    refine ⟨by rw [heng]; rfl, hfree, hls, hcs, hmem, hparts, hfreed, fun hv => ?_, fun hv => ?_, fun hv => ?_,
      fun hv => ?_, ?_, ?_⟩
    · rw [heng, Engine.faulted, hv]
      exact ⟨rfl, rfl, rfl, rfl, rfl⟩
    · rw [heng, Engine.faulted, hv]
      exact ⟨rfl, rfl⟩
    · rw [hctx, Ctx.faulted, hv]
      exact ⟨rfl, rfl, rfl, rfl⟩
    · rw [hctx, Ctx.faulted, hv]
      rfl
    · rw [hctx, Ctx.faulted]
      split
      · rfl
      · rfl
    · rw [hctx, Ctx.faulted]
      split
      · rfl
      · rfl
  · obtain ⟨body, hexec⟩ := exec_engineRows row hrow e f s
    have hen : isEngine e = true := decide_eq_true he
    rw [hexec, guarded_ok hen, State.issue_badPc hm hr hpc]
    rfl
  · obtain ⟨body, hexec⟩ := exec_engineRows row hrow e f s
    have hen : isEngine e = true := decide_eq_true he
    rw [hexec, guarded_ok hen, State.issue_unknown hm hr hpc hfit hopc]
    rfl
  · rw [rowsWithoutC_eq] at hrow
    obtain ⟨hk, hrows⟩ := exec_rowsWithoutC row hrow
    obtain ⟨body, hexec, hbody⟩ := hrows e f s hc
    rw [hexec, guarded_ok hi.isEngine, State.issue_error hi hk (hbody r _)]
    rfl

end Sys2Proof.Machine
end

section
/-!
SUPPORT. Doorbells and writes of CTX_CTRL (R238, R240, R243, R402).
-/
namespace Sys2Proof.Machine

/-! ## Doorbells (R238, R402) -/

section
variable {s : State} {port n p : Nat} (hp : s.partOfCtx n = some p) (hlive : s.live = true)
include hp hlive

/-- A doorbell through the other port is counted there. -/
theorem State.doorbell_otherPort (tail : W32) (hport : s.hostOf p ≠ port) :
    s.doorbell port n tail = s.modHost port fun x => { x with dbDrop := satAdd 32 x.dbDrop 1 } := by
  simp [State.doorbell, hp, hlive, hport]

/-- A doorbell through the partition's port: a tail within the ring, or DB_ERR. -/
theorem State.doorbell_ownPort (tail : W32) (hport : s.hostOf p = port) : s.doorbell port n tail =
    if (s.ctx n).enable && decide ((tail - ((s.ctx n).head + BitVec.ofNat 32 (b2n (s.headTaken n)))).toNat +
        b2n (s.headTaken n) ≤ 2 ^ (s.ctx n).ringOrder) then
      s.setCtx n { s.ctx n with tail := tail, held := (s.ctx n).held.take (tail - (s.ctx n).head).toNat,
                                fenced := (s.ctx n).fenced && tail != (s.ctx n).head }
    else (s.stick [.dbErr n]).setCtx n { s.ctx n with dbErr := true } := by
  unfold State.doorbell
  dsimp only
  simp only [hp, hlive, if_neg (show ¬ s.hostOf p ≠ port from not_not.2 hport)]
  rfl
end

theorem b2n_eq (b : Bool) : b2n b = if b then 1 else 0 := by
  cases b
  · rfl
  · rfl

section
variable {s : State} {port n p : Nat} (hp : s.partOfCtx n = some p) (hlive : s.live = true) (hport : s.hostOf p = port)
  (tail : W32)
include hp hlive hport

/-- What a doorbell through the partition's port leaves. -/
theorem State.doorbell_tail {k : Nat} (hk : (if s.headTaken n then 1 else 0) = k) {eff : W32}
    (heff : (s.ctx n).head + BitVec.ofNat 32 k = eff) : (s.doorbell port n tail) =
      { s with ctxs := (s.doorbell port n tail).ctxs, setNow := (s.doorbell port n tail).setNow } ∧
    (∀ m, m ≠ n → (s.doorbell port n tail).ctx m = s.ctx m) ∧
    if (s.ctx n).enable = true ∧ (tail - eff).toNat ≤ 2 ^ (s.ctx n).ringOrder - k ∧ k ≤ 2 ^ (s.ctx n).ringOrder then
      ((s.doorbell port n tail).ctx n).tail = tail ∧ ((s.doorbell port n tail).ctx n).dbErr = (s.ctx n).dbErr ∧
        ((s.doorbell port n tail).ctx n).head = (s.ctx n).head ∧ (s.doorbell port n tail).setNow = s.setNow
    else (s.doorbell port n tail).ctx n = { s.ctx n with dbErr := true } ∧
      (s.doorbell port n tail).setNow = s.setNow ++ [.dbErr n] := by
  have hdb := State.doorbell_ownPort hp hlive tail hport
  rw [b2n_eq, hk, heff] at hdb
  rw [hdb]
  by_cases hok : (s.ctx n).enable = true ∧ (tail - eff).toNat ≤ 2 ^ (s.ctx n).ringOrder - k ∧
      k ≤ 2 ^ (s.ctx n).ringOrder
  · obtain ⟨hen, hle, hk⟩ := hok
    have hfit : (tail - eff).toNat + k ≤ 2 ^ (s.ctx n).ringOrder := by omega
    rw [if_pos (by rw [hen, decide_eq_true hfit]; rfl), if_pos ⟨hen, hle, hk⟩, State.ctx_setCtx_self]
    exact ⟨rfl, fun m hm => State.ctx_setCtx_ne _ _ hm, rfl, rfl, rfl, rfl⟩
  · have hno : ¬ ((s.ctx n).enable && decide ((tail - eff).toNat + k ≤ 2 ^ (s.ctx n).ringOrder)) = true := by
      rw [Bool.and_eq_true, decide_eq_true_eq]
      rintro ⟨hen, hfit⟩
      exact hok ⟨hen, by omega, by omega⟩
    rw [if_neg hno, if_neg hok, State.ctx_setCtx_self]
    exact ⟨rfl, fun m hm => State.ctx_setCtx_ne _ _ hm, rfl, rfl⟩
end

/-! ## Writes of CTX_CTRL (R238, R240, R243, R245, R246) -/

/-- PRIO, EVAL, SLOT and RING_ORDER of a context, as a write of CTX_CTRL gives them. -/
def Ctx.controlled (slot w : Nat) (c : Ctx) : Ctx :=
  { c with prio := bits w 3 1, eval := bit w 4, slot := slot,
           ringOrder := if c.enable then c.ringOrder else bits w 12 8 }

/-- What RESET leaves of a context (R243). -/
def Ctx.cleared (c : Ctx) : Ctx :=
  { c with head := c.tail, faultValid := false, faultCode := 0, faultOpc := 0, faultEngine := 0, faultSeq := 0,
           dbErr := false, held := [], waitSlot := false, fenced := false }

/-- The slot that a write of CTX_CTRL binds. -/
def State.ctrlSlot (s : State) (p w : Nat) : Nat :=
  if bits w 23 16 < 128 && s.partOfSlot (bits w 23 16) == some p then bits w 23 16 else 0xFF

/-- ENABLE after a write of CTX_CTRL. -/
def State.ctrlEnabled (s : State) (p w : Nat) (c : Ctx) : Ctx :=
  if !bit w 0 then { c with enable := false }
  else if 4 ≤ c.ringOrder && c.ringOrder ≤ 16 && (!c.inPier || s.ringNameable p c) then { c with enable := true }
  else c

/-- What a control write of a context can change. -/
structure CtxFrame (s t : State) (n : Nat) : Prop where
  frame : t = { s with ctxs := t.ctxs, parts := t.parts, latches := t.latches }
  others : ∀ m, m ≠ n → t.ctx m = s.ctx m

section
variable {s t u : State} {n : Nat}

theorem CtxFrame.trans (h : CtxFrame s t n) (k : CtxFrame t u n) : CtxFrame s u n where
  frame := by
    have hswap : ∀ a b c, { t with ctxs := a, parts := b, latches := c } =
        { s with ctxs := a, parts := b, latches := c } := fun a b c => by rw [h.frame]
    exact k.frame.trans (hswap _ _ _)
  others m hm := (k.others m hm).trans (h.others m hm)

theorem CtxFrame.modCtx (s : State) (n : Nat) (f : Ctx → Ctx) : CtxFrame s (s.modCtx n f) n :=
  ⟨rfl, fun _ hm => State.ctx_modCtx_ne s f hm⟩

theorem CtxFrame.ringNameable (h : CtxFrame s t n) (p : Nat) (c : Ctx) : t.ringNameable p c = s.ringNameable p c := by
  rw [h.frame]
  rfl
end

theorem State.ringNameable_congr (s : State) (p : Nat) {c c' : Ctx} (hring : c'.ring = c.ring)
    (hord : c'.ringOrder = c.ringOrder) : s.ringNameable p c' = s.ringNameable p c := by
  rw [State.ringNameable, State.ringNameable, Ctx.base, Ctx.base, hring, hord]

/-- RESET of a context with no live item clears it; of any other, nothing (R243). -/
theorem State.ctxReset_spec (s : State) (n : Nat) : CtxFrame s (s.ctxReset n) n ∧
    (s.ctxReset n).ctx n = (if (s.ctx n).live = 0 then (s.ctx n).cleared else s.ctx n) ∧
    ((s.ctx n).live ≠ 0 → s.ctxReset n = s) := by
  unfold State.ctxReset
  by_cases hl : (s.ctx n).live = 0
  · rw [if_neg (not_not.2 hl), if_pos hl]
    dsimp only
    have hmod := CtxFrame.modCtx s n Ctx.cleared
    have hself := State.ctx_modCtx_self s n Ctx.cleared
    split
    · exact ⟨hmod, hself, fun h => absurd hl h⟩
    · exact ⟨hmod.trans ⟨rfl, fun _ _ => rfl⟩, hself, fun h => absurd hl h⟩
  · rw [if_pos hl, if_neg hl]
    exact ⟨⟨rfl, fun _ _ => rfl⟩, rfl, fun _ => rfl⟩

/-- A write of CTX_CTRL through the partition's port, field by field. -/
theorem State.ctxCtrl_spec {s : State} {port n p w : Nat} {v : W32} (hp : s.partOfCtx n = some p)
    (hlive : s.live = true) (hport : s.hostOf p = port) (hw : v.toNat = w) : CtxFrame s (s.ctxCtrl port n v) n ∧
    (bit w 5 = false ∨ (s.ctx n).live ≠ 0 → (s.ctxCtrl port n v).parts = s.parts ∧
      (s.ctxCtrl port n v).ctx n = s.ctrlEnabled p w ((s.ctx n).controlled (s.ctrlSlot p w) w)) ∧
    (bit w 5 = true → (s.ctx n).live = 0 →
      (s.ctxCtrl port n v).ctx n = s.ctrlEnabled p w ((s.ctx n).controlled (s.ctrlSlot p w) w).cleared) := by
  subst hw
  generalize hu : (s.emptyLatch (portReq port)).modCtx n (Ctx.controlled (s.ctrlSlot p v.toNat) v.toNat) = u
  generalize hx : (if bit v.toNat 5 then u.ctxReset n else u) = x
  have heq : s.ctxCtrl port n v = x.modCtx n (x.ctrlEnabled p v.toNat) := by
    have hp' : (s.emptyLatch (portReq port)).partOfCtx n = some p := hp
    have hlive' : (s.emptyLatch (portReq port)).live = true := hlive
    have hport' : ¬ (s.emptyLatch (portReq port)).hostOf p ≠ port := not_not.2 hport
    unfold State.ctxCtrl
    dsimp only
    rw [hp']
    dsimp only
    rw [hlive', if_neg (by simpa using hport'), ← hx, ← hu]
    rfl
  have hself : u.ctx n = (s.ctx n).controlled (s.ctrlSlot p v.toNat) v.toNat := by
    rw [← hu]
    exact State.ctx_modCtx_self _ _ _
  have hframe : CtxFrame s u n := by
    rw [← hu]
    have hlatch : CtxFrame s (s.emptyLatch (portReq port)) n := ⟨rfl, fun _ _ => rfl⟩
    exact hlatch.trans (CtxFrame.modCtx _ n _)
  have hlast : ∀ y : State, CtxFrame s y n → CtxFrame s (y.modCtx n (y.ctrlEnabled p v.toNat)) n ∧
      (y.modCtx n (y.ctrlEnabled p v.toNat)).ctx n = s.ctrlEnabled p v.toNat (y.ctx n) := fun y hy => by
    refine ⟨hy.trans (CtxFrame.modCtx y n _), ?_⟩
    rw [State.ctx_modCtx_self, State.ctrlEnabled, State.ctrlEnabled, hy.ringNameable]
  obtain ⟨hreset, hcleared, hkept⟩ := u.ctxReset_spec n
  have hlu : (u.ctx n).live = (s.ctx n).live := by rw [hself]; rfl
  rw [heq]
  refine ⟨?_, fun hno => ?_, fun hbit hzero => ?_⟩
  · refine (hlast x ?_).1
    rw [← hx]
    split
    · exact hframe.trans hreset
    · exact hframe
  · have hxu : x = u := by
      rw [← hx]
      split
      · rename_i hbit
        refine hkept ?_
        rw [hlu]
        exact hno.resolve_left (by rw [hbit]; decide)
      · rfl
    rw [hxu]
    refine ⟨?_, ?_⟩
    · rw [← hu]
      rfl
    · rw [(hlast u hframe).2, hself]
  · have hxu : x = u.ctxReset n := by rw [← hx, if_pos hbit]
    rw [hxu, (hlast _ (hframe.trans hreset)).2, hcleared, hlu, if_pos hzero, hself]

/-- ENABLE = 1 needs a ring that the rules allow, unless it was 1 (R238). -/
theorem State.ctrlEnabled_eq (s : State) (p w : Nat) (c : Ctx) : s.ctrlEnabled p w c =
    { c with enable := bit w 0 &&
      ((decide (4 ≤ c.ringOrder) && decide (c.ringOrder ≤ 16) && (!c.inPier || s.ringNameable p c)) || c.enable) } := by
  unfold State.ctrlEnabled
  cases bit w 0 with
  | false => rfl
  | true =>
    by_cases hok : (decide (4 ≤ c.ringOrder) && decide (c.ringOrder ≤ 16) && (!c.inPier || s.ringNameable p c)) = true
    · rw [if_neg (by decide), if_pos hok, hok]
      rfl
    · rw [if_neg (by decide), if_neg hok, Bool.eq_false_iff.2 hok]
      rfl

theorem State.ctrlSlot_eq (s : State) (p w : Nat) : s.ctrlSlot p w =
    if bits w 23 16 < 128 ∧ s.partOfSlot (bits w 23 16) = some p then bits w 23 16 else 0xFF := by
  simp only [State.ctrlSlot, Bool.and_eq_true, decide_eq_true_eq, beq_iff_eq]

theorem exec_ctxCtrlRows : ∀ c ∈ [Instr.ctxEnable, Instr.ctxDisable, Instr.ctxReset, Instr.ctxSlotBind],
    ∀ port n v s, exec (c port n v) s = guarded (isHost port && isCtx n) (s.ctxCtrl port n v) := by
  repeat refine List.forall_mem_cons.2 ⟨fun _ _ _ _ => rfl, ?_⟩
  exact List.forall_mem_nil _

/-- Settles O17: a doorbell has three cases; a write of CTX_CTRL is three changes of one context in turn. -/
theorem doorbellAndControl : Obligations.DoorbellAndControl := by
  unfold Obligations.DoorbellAndControl
  refine ⟨fun s port n tail p hport hn hlive hp => ?_, fun c hc s port n p v hport hn hlive hp hown => ?_⟩
  · have hg : (isHost port && isCtx n) = true := by simp [isHost, isCtx, hport, hn]
    refine ⟨_, guarded_ok hg _, fun hother => ?_, fun hown => ?_⟩
    · rw [State.doorbell_otherPort hp hlive tail hother]
      exact ⟨rfl, by rw [State.host_modHost_self]; rfl⟩
    · exact State.doorbell_tail hp hlive hown tail rfl rfl
  · intro x w order slot ok enable
    have hg : (isHost port && isCtx n) = true := by simp [isHost, isCtx, hport, hn]
    obtain ⟨hframe, hkeep, hreset⟩ := State.ctxCtrl_spec (v := v) hp hlive hown rfl
    refine ⟨_, (exec_ctxCtrlRows c hc port n v s).trans (guarded_ok hg _), hframe.frame, hframe.others,
      fun hno => ?_, fun hbit hzero => ?_⟩
    · obtain ⟨hparts, hctx⟩ := hkeep hno
      refine ⟨hparts, ?_⟩
      rw [hctx, State.ctrlEnabled_eq, State.ctrlSlot_eq]
      rfl
    · rw [hreset hbit hzero, State.ctrlEnabled_eq, State.ctrlSlot_eq]
      rfl

end Sys2Proof.Machine
end

section
/-!
SUPPORT. Ring fetches, and those that fail (R239, R242, R403).
-/
namespace Sys2Proof.Machine

/-! ## Host requests (R396) -/

theorem State.foldl_emit {α : Type} (g : α → Out) : ∀ (l : List α) (s : State),
    l.foldl (fun s a => s.emit (g a)) s = { s with out := s.out ++ l.map g }
  | [], s => by rw [List.foldl_nil, List.map_nil, List.append_nil]
  | a :: t, s => by
    rw [List.foldl_cons, State.foldl_emit g t]
    simp [State.emit]

/-- The reads of `n` bytes from address `a` of the host. -/
def readRequests (s : State) (h : Nat) (a : W64) (n : Nat) : List Out :=
  let m := max 1 (min (s.host h).mrrs 4096)
  (List.range ((n + m - 1) / m)).map fun i => .hostRead h (a + BitVec.ofNat 64 (i * m)) (min m (n - i * m))

theorem State.hostReads_eq (s : State) (h : Nat) (a : W64) (n : Nat) :
    s.hostReads h a n = { s with out := s.out ++ readRequests s h a n } := State.foldl_emit _ _ _

/-! ## A ring fetch (R239, R403) -/

section
variable {s : State} {p n : Nat}

/-- The processor takes the command at HEAD. -/
theorem State.takeCmd_eq {b : Held} {l : List Held} (hheld : (s.ctx n).held = b :: l)
    (hfence : cmdFence b.bytes = false ∨ (s.ctx n).live = 0) (hkind : cmdKind b.bytes < 3) :
    s.takeCmd p n = s.modPart p fun x => { x with
      served := n :: x.served.erase n, carrying := some { ctx := n, cmd := b, copy := none } } := by
  have hgo : ¬ (cmdFence b.bytes && decide ((s.ctx n).live ≠ 0)) = true := by
    rcases hfence with h | h <;> simp [h]
  unfold State.takeCmd
  simp only [hheld]
  rw [if_neg hgo, if_neg (by omega)]

/-- A fetch of a ring in host memory. -/
theorem State.ringFetch_host {cmd : List Byte} {rest : List (List Byte)} (hlive : s.live = true)
    (hcast : s.castHeld = false) (hcarry : (s.part p).carrying = none) (hbusy : (s.part p).resetBusy = false)
    (hchoose : s.chooseCtx p = some n) (hheld : (s.ctx n).held = []) (hpier : (s.ctx n).inPier = false)
    (husable : s.hostUsable (s.hostOf p) = true) (hcount : 0 < s.fetchCount (s.hostOf p) (s.ctx n)) :
    s.ringFetch p (cmd :: rest) =
      ((s.hostReads (s.hostOf p)
        (BitVec.ofNat 64 ((s.ctx n).base + 64 * ((s.ctx n).head.toNat % 2 ^ (s.ctx n).ringOrder)))
        (64 * s.fetchCount (s.hostOf p) (s.ctx n))).holdCmds n
          ((cmd :: rest).take (s.fetchCount (s.hostOf p) (s.ctx n)))).takeCmd p n := by
  have hk : ¬ min (s.fetchCount (s.hostOf p) (s.ctx n)) (cmd :: rest).length = 0 := by
    rw [List.length_cons]
    omega
  unfold State.ringFetch
  simp only [hlive, hcast, hcarry, hbusy, hchoose, hheld, hpier, husable, List.isEmpty_nil, Bool.not_true, Bool.false_or,
    Bool.false_eq_true, if_false, Option.isSome_none, decide_eq_true_eq, hk, ← List.take_eq_take_min]

/-- The reads of a fetch. -/
def hostReadsAt (s : State) (p n : Nat) : List Out :=
  readRequests s (s.hostOf p)
    (BitVec.ofNat 64 ((s.ctx n).base + 64 * ((s.ctx n).head.toNat % 2 ^ (s.ctx n).ringOrder)))
    (64 * s.fetchCount (s.hostOf p) (s.ctx n))

/-- What holding the commands fetched, and taking the first, leaves. -/
theorem State.fetched {cmd : List Byte} {rest : List (List Byte)} {k : Nat} (l : List Out) (hk : 0 < k)
    (hfence : cmdFence cmd = false ∨ (s.ctx n).live = 0) (hkind : cmdKind cmd < 3) {t : State}
    (ht : (({ s with out := s.out ++ l } : State).holdCmds n ((cmd :: rest).take k)).takeCmd p n = t) :
    t = { s with parts := t.parts, ctxs := t.ctxs, out := t.out } ∧
    (t.part p).carrying =
      some { ctx := n, cmd := { bytes := cmd, prio := (s.ctx n).prio, eval := (s.ctx n).eval }, copy := none } ∧
    t.ctx n = { s.ctx n with held := (t.ctx n).held } ∧ (∀ m, m ≠ n → t.ctx m = s.ctx m) ∧
    ((t.ctx n).held.map (·.bytes)) = (cmd :: rest).take k ∧ t.out = s.out ++ l := by
  obtain ⟨j, rfl⟩ : ∃ j, k = j + 1 := ⟨k - 1, by omega⟩
  generalize hu : ({ s with out := s.out ++ l } : State).holdCmds n ((cmd :: rest).take (j + 1)) = u at ht
  have hframe : u = { s with ctxs := u.ctxs, out := s.out ++ l } := by
    rw [← hu]
    rfl
  have hself : u.ctx n = { s.ctx n with held := ((cmd :: rest).take (j + 1)).map fun b =>
      { bytes := b, prio := (s.ctx n).prio, eval := (s.ctx n).eval } } := by
    rw [← hu]
    exact State.ctx_modCtx_self _ _ _
  have hothers : ∀ m, m ≠ n → u.ctx m = s.ctx m := fun m hm => by
    rw [← hu]
    exact State.ctx_modCtx_ne _ _ hm
  have htake := State.takeCmd_eq (s := u) (p := p) (n := n)
    (b := { bytes := cmd, prio := (s.ctx n).prio, eval := (s.ctx n).eval })
    (l := (rest.take j).map fun b => { bytes := b, prio := (s.ctx n).prio, eval := (s.ctx n).eval })
    (by rw [hself]; rfl) (by rw [hself]; exact hfence) hkind
  have hctx : ∀ m, t.ctx m = u.ctx m := fun m => by rw [← ht, htake, State.ctx_modPart]
  refine ⟨?_, ?_, ?_, fun m hm => (hctx m).trans (hothers m hm), ?_, ?_⟩
  · rw [← ht, htake, hframe]
    rfl
  · rw [← ht, htake, State.part_modPart_self]
  · rw [hctx, hself]
  · rw [hctx, hself, List.map_map]
    exact List.map_id' _
  · rw [← ht, htake, hframe]
    rfl

/-! ## A ring fetch that fails (R242) -/

/-- What logging the errors of a host port changes. -/
theorem State.logFree_frame (s : State) (h : Nat) (l : List Nat) :
    s.logFree h l = { s with hosts := (s.logFree h l).hosts, freeCtr := (s.logFree h l).freeCtr } := by
  refine List.foldlRecOn l _ (motive := fun t : State => t = { s with hosts := t.hosts, freeCtr := t.freeCtr }) rfl ?_
  intro t ht b _
  dsimp only
  split
  · rw [ht]
    rfl
  · rw [ht]
    rfl

theorem State.logRead_frame (s : State) (h : Nat) (r : HostResult) :
    s.logRead h r = { s with hosts := (s.logRead h r).hosts, freeCtr := (s.logRead h r).freeCtr } := by
  cases r with
  | data bs => rfl
  | timeout => rfl
  | error =>
    unfold State.logRead
    dsimp only
    rw [State.logFree_frame]
    rfl

theorem State.logRead_ctx (s : State) (h : Nat) (r : HostResult) (m : Nat) : (s.logRead h r).ctx m = s.ctx m := by
  rw [State.logRead_frame]
  rfl

theorem State.logRead_timeout_host (s : State) (h : Nat) : (s.logRead h .timeout).host h =
    { s.host h with space := (s.host h).space.logError aerTimeout [] } := State.host_modHost_self _ _ _

/-- The fault that a failed fetch gives its context. -/
theorem State.ringError_eq (cause : RingCause) (hlive : s.live = true)
    (hcast : s.castHeld = false) (hcarry : (s.part p).carrying = none) (hbusy : (s.part p).resetBusy = false)
    (hchoose : s.chooseCtx p = some n) (hheld : (s.ctx n).held = [])
    (hcause : if cause = .region then (s.ctx n).inPier = true ∧ s.ringNameable p (s.ctx n) = false
      else (s.ctx n).inPier = false ∧ s.hostUsable (s.hostOf p) = true) : s.ringError p cause =
      match cause with
      | .region => s.ctxFault n 0x81 0 0 0
      | .error => (s.ctxFault n 0x80 0 0 0).logRead (s.hostOf p) .error
      | .timeout => if (s.host (s.hostOf p)).ctDisable then s
          else (s.ctxFault n 0x80 0 0 0).logRead (s.hostOf p) .timeout := by
  unfold State.ringError
  simp only [hlive, hcast, hcarry, hbusy, hchoose, hheld, List.isEmpty_nil]
  cases cause with
  | region =>
    obtain ⟨hpier, hname⟩ := hcause
    simp [hpier, hname]
  | error =>
    obtain ⟨hpier, husable⟩ := hcause
    simp [hpier, husable]
  | timeout =>
    obtain ⟨hpier, husable⟩ := hcause
    cases hct : (s.host (s.hostOf p)).ctDisable <;> simp [hpier, husable, State.waits, hct]
end

/-- The first fault of a context (R242). -/
theorem Ctx.faulted_first {c : Ctx} (h : c.faultValid = false) (code opc : BitVec 8) (e : Nat) (seq : W32) :
    c.faulted code opc e seq =
      { c with faultValid := true, faultCode := code, faultOpc := opc, faultEngine := e, faultSeq := seq } := by
  rw [Ctx.faulted, h]
  rfl

section
variable {s : State} {n : Nat} (h : (s.ctx n).faultValid = false) (code : BitVec 8) (host : Nat) (r : HostResult)
include h

/-- A context is faulted, and an error of its host port logged. -/
theorem State.ctxFault_logRead : (s.ctxFault n code 0 0 0).logRead host r =
      { s with ctxs := ((s.ctxFault n code 0 0 0).logRead host r).ctxs,
               hosts := ((s.ctxFault n code 0 0 0).logRead host r).hosts,
               freeCtr := ((s.ctxFault n code 0 0 0).logRead host r).freeCtr } ∧
    (∀ m, m ≠ n → ((s.ctxFault n code 0 0 0).logRead host r).ctx m = s.ctx m) ∧
    ((s.ctxFault n code 0 0 0).logRead host r).ctx n =
      { s.ctx n with faultValid := true, faultCode := code, faultOpc := 0, faultEngine := 0, faultSeq := 0 } := by
  refine ⟨?_, fun m hm => ?_, ?_⟩
  · rw [State.logRead_frame]
    rfl
  · rw [State.logRead_ctx, State.ctxFault_eq, State.ctx_modCtx_ne _ _ hm]
  · rw [State.logRead_ctx, State.ctxFault_eq, State.ctx_modCtx_self, Ctx.faulted_first h]
end

/-- Settles O18: the fetch and its failure are each one branch of the model. -/
theorem ringFetches : Obligations.RingFetches := by
  unfold Obligations.RingFetches
  refine ⟨fun s p n cmd rest hp hlive hcast hcarry hbusy hchoose hheld hpier husable hcount hkind hfence => ?_,
    fun s p n cause hp hlive hcast hcarry hbusy hchoose hheld hfault hcause => ⟨fun hto hct => ?_, fun hct => ?_⟩⟩
  · have hown := State.ringFetch_host (cmd := cmd) (rest := rest) hlive hcast hcarry hbusy hchoose hheld hpier husable
      hcount
    obtain ⟨hframe, hcarried, hself, hothers, hbytes, hout⟩ :=
      State.fetched (s := s) (p := p) (rest := rest) (hostReadsAt s p n) hcount hfence hkind rfl
    refine ⟨_, (guarded_ok (decide_eq_true hp) _).trans (congrArg _ (hown.trans ?_)), hframe, hcarried, hself, hothers,
      hbytes, hout⟩
    rw [State.hostReads_eq]
    rfl
  · subst hto
    refine (guarded_ok (decide_eq_true hp) _).trans (congrArg _ ?_)
    rw [State.ringError_eq .timeout hlive hcast hcarry hbusy hchoose hheld hcause]
    exact if_pos hct
  · refine ⟨_, guarded_ok (decide_eq_true hp) _, ?_⟩
    rw [State.ringError_eq cause hlive hcast hcarry hbusy hchoose hheld hcause]
    cases cause with
    | region => 
      refine ⟨rfl, fun m hm => State.ctx_modCtx_ne _ _ hm, ?_, fun _ => rfl, nofun⟩
      rw [State.ctxFault_eq, State.ctx_modCtx_self, Ctx.faulted_first hfault]
      rfl
    | error =>
      obtain ⟨hframe, hothers, hself⟩ := State.ctxFault_logRead hfault 0x80 (s.hostOf p) .error
      exact ⟨hframe, hothers, hself, nofun, nofun⟩
    | timeout =>
      obtain ⟨hframe, hothers, hself⟩ := State.ctxFault_logRead hfault 0x80 (s.hostOf p) .timeout
      have hlogged := State.logRead_timeout_host (s.ctxFault n 0x80 0 0 0) (s.hostOf p)
      have hno : ¬ (s.host (s.hostOf p)).ctDisable = true := by
        rw [hct rfl]
        exact Bool.false_ne_true
      dsimp only
      rw [if_neg hno]
      exact ⟨hframe, hothers, hself, nofun, fun _ => hlogged⟩

end Sys2Proof.Machine
end

section
/-!
SUPPORT. ITEM: an item placed in its home hod (R102, R104, R244, R405).
-/
namespace Sys2Proof.Machine

/-! ## An item becomes ready (R102, R117, R244) -/

section
variable (s : State) (o : Nat) (d : ItemDesc)

/-- What an LS_DEP item that comes to an orphan can change. -/
structure HaltFrame (s t : State) : Prop where
  frame : t = { s with engines := t.engines, ctxs := t.ctxs, parts := t.parts, setNow := t.setNow }
  ctx : ∀ n, (t.ctx n).head = (s.ctx n).head ∧ (t.ctx n).live = (s.ctx n).live

theorem State.orphanLs_haltFrame : HaltFrame s (s.orphanLs o d) := by
  have hctx : ∀ n, ((s.recordFault o faultOrphanLs 0 0 0).ctxFault d.ctx faultOrphanLs 0 o d.seq).ctx n =
      if n = d.ctx then (s.ctx d.ctx).faulted faultOrphanLs 0 o d.seq else s.ctx n := fun n => by
    rw [State.ctxFault_eq, State.ctx_modCtx]
    rfl
  have hkept : ∀ n, (((s.recordFault o faultOrphanLs 0 0 0).ctxFault d.ctx faultOrphanLs 0 o d.seq).ctx n).head =
      (s.ctx n).head ∧ (((s.recordFault o faultOrphanLs 0 0 0).ctxFault d.ctx faultOrphanLs 0 o d.seq).ctx n).live =
      (s.ctx n).live := fun n => by
    rw [hctx]
    split
    · rename_i hn
      rw [hn, Ctx.faulted]
      split
      · exact ⟨rfl, rfl⟩
      · exact ⟨rfl, rfl⟩
    · exact ⟨rfl, rfl⟩
  unfold State.orphanLs
  dsimp only
  split
  · exact ⟨rfl, fun _ => ⟨rfl, rfl⟩⟩
  · split
    · exact ⟨rfl, hkept⟩
    · exact ⟨rfl, hkept⟩

theorem State.orphanLs_free (h : d.lsDep = false) : s.orphanLs o d = s := by
  rw [State.orphanLs, h]
  rfl
end

/-- What readying the item in a slot leaves. -/
structure Readied (s t : State) (c k : Nat) (x : HodSlot) : Prop where
  slot : ∃ st, t.hodSlot c k = some { x with status := .ready, stamp := st, listed := c }
  head : (t.ctx x.desc.ctx).head = (s.ctx x.desc.ctx).head
  live : (t.ctx x.desc.ctx).live = (s.ctx x.desc.ctx).live + 1
  engines : x.desc.pinned = false ∨ x.desc.lsDep = false ∨ (s.eng x.desc.affinity).orphan = false →
    t.engines = s.engines

/-- The slot of an item that becomes ready. -/
def State.readySlot (s : State) (c : Nat) (x : HodSlot) : HodSlot :=
  { x with status := .ready, stamp := (s.stamp c).1, listed := c }

/-- Stamped, counted in its hod and placed in its context. -/
def State.readied (s : State) (c k : Nat) (x : HodSlot) : State :=
  (((s.stamp c).2.setHod c k (s.readySlot c x)).modCrs c fun y => { y with hodIn := satAdd 64 y.hodIn 1 }).ctxPlaced
    x.desc.ctx

section
variable (s : State) (c k : Nat) (x : HodSlot)

theorem State.readied_hodSlot : (s.readied c k x).hodSlot c k = some (s.readySlot c x) := by
  rw [State.hodSlot, State.readied, State.ctxPlaced, State.crs_modCtx, State.crs_modCrs_self]
  exact (State.hodSlot_setHod (s.stamp c).2 c k c k (s.readySlot c x)).trans (if_pos ⟨rfl, rfl⟩)

theorem State.readied_ctx : (s.readied c k x).ctx x.desc.ctx =
    { s.ctx x.desc.ctx with placed := satAdd 64 (s.ctx x.desc.ctx).placed 1, live := (s.ctx x.desc.ctx).live + 1 } := by
  rw [State.readied, State.ctxPlaced, State.ctx_modCtx_self, State.ctx_modCrs, State.setHod, State.ctx_modCrs]
  rfl

theorem State.makeReady_eq {s : State} {c k : Nat} {x : HodSlot} (h : s.hodSlot c k = some x) : s.makeReady c k =
    if x.desc.pinned && (((s.readied c k x).requestWake c).eng x.desc.affinity).orphan then
      ((s.readied c k x).requestWake c).orphanLs x.desc.affinity x.desc
    else (s.readied c k x).requestWake c := by
  unfold State.makeReady
  rw [h]
  rfl

/-- What the wake request of a readied item leaves. -/
theorem State.readied_woken : Readied s ((s.readied c k x).requestWake c) c k x ∧
    ((s.readied c k x).requestWake c).engines = s.engines := by
  have hwake := (s.readied c k x).requestWake_wakesOnly c
  have hengines : ((s.readied c k x).requestWake c).engines = s.engines := hwake.engines
  have hwctx : ((s.readied c k x).requestWake c).ctxs = (s.readied c k x).ctxs := by rw [hwake.frame]
  have hctx : ((s.readied c k x).requestWake c).ctx x.desc.ctx = (s.readied c k x).ctx x.desc.ctx := by
    rw [State.ctx, hwctx, ← State.ctx]
  refine ⟨⟨⟨(s.stamp c).1, ?_⟩, ?_, ?_, fun _ => hengines⟩, hengines⟩
  · rw [State.hodSlot, hwake.crs, ← State.hodSlot, State.readied_hodSlot]
    rfl
  · rw [hctx, State.readied_ctx]
  · rw [hctx, State.readied_ctx]
end

theorem State.makeReady_readied {s : State} {c k : Nat} {x : HodSlot} (h : s.hodSlot c k = some x) :
    Readied s (s.makeReady c k) c k x := by
  obtain ⟨hreadied, hengines⟩ := s.readied_woken c k x
  rw [State.makeReady_eq h]
  split
  · rename_i horphan
    have hhalt := ((s.readied c k x).requestWake c).orphanLs_haltFrame x.desc.affinity x.desc
    obtain ⟨⟨st, hst⟩, hhead, hlive, -⟩ := hreadied
    rw [State.eng_of_engines hengines, Bool.and_eq_true] at horphan
    refine ⟨⟨st, ?_⟩, (hhalt.ctx _).1.trans hhead, (hhalt.ctx _).2.trans hlive, fun hno => ?_⟩
    · rw [← hst, hhalt.frame]
      rfl
    · have hfree : x.desc.lsDep = false := by
        rcases hno with h1 | h1 | h1
        · exact absurd horphan.1 (by rw [h1]; decide)
        · exact h1
        · exact absurd horphan.2 (by rw [h1]; decide)
      rw [State.orphanLs_free _ _ _ hfree, hengines]
  · exact hreadied

/-! ## The end of a command (R239, R408) -/

section
variable (s : State) (p n : Nat)

@[simp] theorem State.ctx_cmdDone_self : (s.cmdDone p n).ctx n =
    { s.ctx n with head := (s.ctx n).head + 1, held := (s.ctx n).held.drop 1, waitSlot := false } := by
  rw [State.cmdDone, State.ctx_modPart, State.ctx_modCtx_self]

@[simp] theorem State.carrying_cmdDone : ((s.cmdDone p n).part p).carrying = none := by
  rw [State.cmdDone, State.part_modPart_self]

@[simp] theorem State.ctx_cmdFault_self (code : BitVec 8) (seq : W32) :
    (s.cmdFault p n code seq).ctx n = (s.ctx n).faulted code 0 0 seq := by
  rw [State.cmdFault, State.ctx_modPart, State.ctxFault_eq, State.ctx_modCtx_self]

@[simp] theorem State.carrying_cmdFault (code : BitVec 8) (seq : W32) :
    ((s.cmdFault p n code seq).part p).carrying = none := by
  rw [State.cmdFault, State.part_modPart_self]
end

/-! ## ITEM (R405) -/

/-- The item that an ITEM command places, under its context's PRIO and EVAL. -/
def itemOf (n : Nat) (cmd : Held) : ItemDesc :=
  { itemDesc (cmdItem cmd.bytes) with
    ctx := n, eval := cmd.eval, prio := if cmd.eval then 0 else min (itemDesc (cmdItem cmd.bytes)).prio cmd.prio }

section
variable {s : State} {p n k : Nat} {cmd : Held}

/-- What an item placed leaves. -/
structure ItemPlaced (s t : State) (p n k : Nat) (cmd : Held) : Prop where
  desc : (t.hodSlot (itemOf n cmd).home k).map (·.desc) = some (itemOf n cmd)
  status : (t.hodSlot (itemOf n cmd).home k).map (·.status) = some .ready
  limit : (t.hodSlot (itemOf n cmd).home k).map (·.limit) = some s.cfg.progressUs
  head : (t.ctx n).head = (s.ctx n).head + 1
  live : (t.ctx n).live = (s.ctx n).live + 1
  carrying : (t.part p).carrying = none
  engines : (itemOf n cmd).pinned = false ∨ (itemOf n cmd).lsDep = false ∨
    (s.eng (itemOf n cmd).affinity).orphan = false → t.engines = s.engines
  stores : t.stores = s.stores
  waitSlot : (t.ctx n).waitSlot = false

theorem State.placeItem_placed (hst : s.checkItem (cmdItem cmd.bytes) p false cmd.eval = 0)
    (hfree : (s.crs (itemDesc (cmdItem cmd.bytes)).home).freeSlots.head? = some k) :
    ItemPlaced s (s.placeItem p n cmd) p n k cmd := by
  obtain ⟨l, hl⟩ : ∃ l, (s.crs (itemDesc (cmdItem cmd.bytes)).home).freeSlots = k :: l := by
    cases hf : (s.crs (itemDesc (cmdItem cmd.bytes)).home).freeSlots with
    | nil => rw [hf] at hfree; cases hfree
    | cons a l => rw [hf] at hfree; cases hfree; exact ⟨l, rfl⟩
  generalize hx : ({ desc := itemOf n cmd, status := .pending, stamp := 0, listed := (itemOf n cmd).home, saved := none,
                     limit := s.cfg.progressUs } : HodSlot) = x
  have heq : s.placeItem p n cmd = ((s.occupy (itemOf n cmd).home k x).makeReady (itemOf n cmd).home k).cmdDone p n := by
    unfold State.placeItem
    dsimp only
    rw [if_neg (not_not.2 hst), hl, ← hx]
    rfl
  generalize hu : s.occupy (itemOf n cmd).home k x = u at heq
  have hslot : u.hodSlot (itemOf n cmd).home k = some x := by
    rw [← hu, State.hodSlot, State.occupy, State.crs_modCrs_self]
    exact (State.hodSlot_setHod s _ k _ k x).trans (if_pos ⟨rfl, rfl⟩)
  have hxctx : x.desc.ctx = n := by
    rw [← hx]
    rfl
  obtain ⟨⟨st, hready⟩, hhead, hlive, hengines⟩ := State.makeReady_readied hslot
  rw [hxctx] at hhead hlive
  generalize hv : u.makeReady (itemOf n cmd).home k = v at heq hready hhead hlive hengines
  have hvctx : (s.placeItem p n cmd).ctx n =
      { v.ctx n with head := (v.ctx n).head + 1, held := (v.ctx n).held.drop 1, waitSlot := false } := by
    rw [heq, State.ctx_cmdDone_self]
  have hvslot : (s.placeItem p n cmd).hodSlot (itemOf n cmd).home k = v.hodSlot (itemOf n cmd).home k := by
    rw [heq]
    rfl
  have hus : ∀ m, u.ctx m = s.ctx m := fun m => by
    rw [← hu]
    rfl
  refine ⟨?_, ?_, ?_, ?_, ?_, ?_, fun hno => ?_, State.placeItem_stores _ _ _ _, ?_⟩
  · rw [hvslot, hready, ← hx]
    rfl
  · rw [hvslot, hready]
    rfl
  · rw [hvslot, hready, ← hx]
    rfl
  · rw [hvctx, hhead, hus]
  · rw [hvctx, hlive, hus]
  · rw [heq, State.carrying_cmdDone]
  · have hve : v.engines = u.engines := hengines (by rw [← hx, ← hu]; exact hno)
    rw [heq]
    refine Eq.trans (b := v.engines) rfl (hve.trans ?_)
    rw [← hu]
    rfl
  · rw [hvctx]

/-- A descriptor that fails its check faults the context, and HEAD stays (R405, R408). -/
theorem State.placeItem_refused {st : Nat} (hst : s.checkItem (cmdItem cmd.bytes) p false cmd.eval = st)
    (hne : st ≠ 0) : s.placeItem p n cmd =
      (s.cmdFault p n (0x90 + BitVec.ofNat 8 st) (itemDesc (cmdItem cmd.bytes)).seq).modCtx n fun c =>
        { c with waitSlot := false } := by
  unfold State.placeItem
  dsimp only
  rw [hst, if_pos hne]

theorem State.placeItem_full (hst : s.checkItem (cmdItem cmd.bytes) p false cmd.eval = 0)
    (hfree : (s.crs (itemDesc (cmdItem cmd.bytes)).home).freeSlots = []) : s.placeItem p n cmd =
      (s.modCtx n fun c => { c with waitSlot := true }).modPart p fun x => { x with carrying := none } := by
  unfold State.placeItem
  dsimp only
  rw [if_neg (not_not.2 hst), hfree]

/-- The processor carries a command of this kind. -/
theorem State.carried_eq {kind : Nat} (hlive : s.live = true) (hbusy : (s.part p).resetBusy = false)
    (hcarry : (s.part p).carrying = some { ctx := n, cmd := cmd, copy := none }) (hkind : cmdKind cmd.bytes = kind) :
    s.carried p kind = some { ctx := n, cmd := cmd, copy := none } := by
  unfold State.carried
  rw [hcarry]
  simp [hlive, hbusy, hkind]

theorem exec_item (hp : p < 8) (hlive : s.live = true) (hbusy : (s.part p).resetBusy = false)
    (hcarry : (s.part p).carrying = some { ctx := n, cmd := cmd, copy := none }) (hkind : cmdKind cmd.bytes = 0) :
    exec (.item p) s = .next (s.placeItem p n cmd) := by
  refine (guarded_ok (decide_eq_true hp) _).trans (congrArg _ ?_)
  rw [State.itemCmd, State.carried_eq hlive hbusy hcarry hkind]

theorem exec_hodSlotRetry (hn : n < 1024) (hlive : s.live = true) (hbusy : (s.part p).resetBusy = false)
    (hp : s.partOfCtx n = some p) (hheld : (s.ctx n).held.head? = some cmd) (hwait : (s.ctx n).waitSlot = true)
    (hcast : s.castHeld = false) (hcarry : (s.part p).carrying = none) (hhalt : s.halted p = false)
    (hfree : (s.crs (itemDesc (cmdItem cmd.bytes)).home).freeSlots.head? = some k) :
    exec (.hodSlotRetry n) s = .next (s.placeItem p n cmd) := by
  refine (guarded_ok (decide_eq_true hn) _).trans (congrArg _ ?_)
  obtain ⟨l, hl⟩ : ∃ l, (s.ctx n).held = cmd :: l := by
    cases hf : (s.ctx n).held with
    | nil => rw [hf] at hheld; cases hheld
    | cons a l => rw [hf] at hheld; cases hheld; exact ⟨l, rfl⟩
  have hsome : (s.crs (itemDesc (cmdItem cmd.bytes)).home).freeSlots.isEmpty = false := by
    cases hf : (s.crs (itemDesc (cmdItem cmd.bytes)).home).freeSlots with
    | nil => rw [hf] at hfree; cases hfree
    | cons a l => rfl
  unfold State.hodRetry
  simp [hp, hl, hlive, hcast, hwait, hcarry, hbusy, hhalt, hsome]
end

/-- Settles O19: the processor's ITEM and the retry of a waiting context both place through `State.placeItem`. -/
theorem placeItem : Obligations.PlaceItem := by
  unfold Obligations.PlaceItem
  intro s p n k cmd hp hn hlive hbusy hkind d st placed
  have hplaced : ∀ t, ItemPlaced s t p n k cmd → placed t := fun t h => by
    obtain ⟨hls, hcs, hmem⟩ := State.stores_split h.stores
    exact ⟨h.desc, h.status, h.limit, h.head, h.live, h.carrying, h.engines, hls, hcs, hmem⟩
  refine ⟨fun hcarry => ⟨fun hst hfree => ?_, fun hst hfault => ?_, fun hst hfree => ?_⟩,
    fun hpart hheld hwait hcast hcarry hhalt hst hfree => ?_⟩
  · exact ⟨_, exec_item hp hlive hbusy hcarry hkind, hplaced _ (State.placeItem_placed hst hfree)⟩
  · refine ⟨_, exec_item hp hlive hbusy hcarry hkind, ?_⟩
    have hctx := State.ctx_modCtx_self (s.cmdFault p n (0x90 + BitVec.ofNat 8 st) (itemDesc (cmdItem cmd.bytes)).seq) n
      fun c => { c with waitSlot := false }
    rw [State.ctx_cmdFault_self, Ctx.faulted_first hfault] at hctx
    rw [State.placeItem_refused (st := st) rfl hst]
    refine ⟨rfl, ?_, ?_, ?_, ?_, ?_⟩
    · rw [hctx]
    · rw [hctx]
    · rw [hctx]
    · rw [hctx]
    · rw [State.part_modCtx, State.carrying_cmdFault]
  · refine ⟨_, exec_item hp hlive hbusy hcarry hkind, ?_⟩
    rw [State.placeItem_full hst hfree, State.ctx_modPart, State.ctx_modCtx_self, State.part_modPart_self]
    exact ⟨rfl, rfl, rfl⟩
  · have h := State.placeItem_placed (n := n) hst hfree
    exact ⟨_, exec_hodSlotRetry hn hlive hbusy hpart hheld hwait hcast hcarry hhalt hfree, hplaced _ h, h.waitSlot⟩

end Sys2Proof.Machine
end

section
/-!
SUPPORT. COPY, COMPLETE and the end of a fence (R404, R406, R407, R463).
-/
namespace Sys2Proof.Machine

/-! ## The host requests of a copy (R394, R396, R406) -/

/-- The posted writes of bytes at address `a` of the host. -/
def writeRequests (h : Nat) (mps : Nat) (a : W64) (bs : List Byte) (ro : Bool) : List Out :=
  (chunks mps bs).zipIdx.map fun x => .hostWrite h (a + BitVec.ofNat 64 (x.2 * mps)) x.1 ro

theorem State.foldl_emit_host {α : Type} (h : Nat) (g : HostPort → α → Out) : ∀ (l : List α) (s : State),
    l.foldl (fun s a => s.emit (g (s.host h) a)) s = { s with out := s.out ++ l.map (g (s.host h)) }
  | [], s => by rw [List.foldl_nil, List.map_nil, List.append_nil]
  | a :: t, s => by
    have hhost : (s.emit (g (s.host h) a)).host h = s.host h := rfl
    rw [List.foldl_cons, State.foldl_emit_host h g t, hhost]
    simp [State.emit]

theorem State.hostWrites_eq (s : State) (h : Nat) (a : W64) (bs : List Byte) (ro : Bool) :
    s.hostWrites h a bs ro = { s with out := s.out ++ writeRequests h (s.host h).mps a bs ro } :=
  State.foldl_emit_host h (fun x (y : List Byte × Nat) => .hostWrite h (a + BitVec.ofNat 64 (y.2 * x.mps)) y.1 ro) _ s

theorem StoreFrame.host {s t : State} (h : StoreFrame s t) (p : Nat) : t.host p = s.host p := by
  rw [h.frame]
  rfl

theorem StoreFrame.ctx {s t : State} (h : StoreFrame s t) (n : Nat) : t.ctx n = s.ctx n := by
  rw [h.frame]
  rfl

/-- The state in which a copy to the host has been read. -/
theorem State.startHostCopy_eq (s : State) (h : Nat) (k : CopyCmd) : ∃ u, StoreFrame s u ∧ u.stores = s.stores ∧
    s.startHostCopy h k = { u with out := s.out ++ copyRequests s h k } := by
  by_cases hdir : k.dir = 0
  · refine ⟨s, .refl s, rfl, ?_⟩
    rw [State.startHostCopy, if_pos hdir, State.hostReads_eq, copyRequests, if_pos hdir]
    rfl
  · have hf := s.fetchLoc_storeFrame k.target k.len
    have hout : (s.fetchLoc k.target k.len).2.out = s.out := by rw [hf.frame]
    refine ⟨(s.fetchLoc k.target k.len).2, hf, s.fetchLoc_stores _ _, ?_⟩
    rw [State.startHostCopy, if_neg hdir, copyRequests, if_neg hdir]
    dsimp only
    rw [State.hostWrites_eq, hf.host, State.fetchLoc_fst, hout, State.emit, List.append_assoc]
    rfl

/-! ## COPY (R406, R463) -/

section
variable {s : State} {p n : Nat} {cmd : Held}

theorem exec_copy (hp : p < 8) (hlive : s.live = true) (hbusy : (s.part p).resetBusy = false)
    (hcarry : (s.part p).carrying = some { ctx := n, cmd := cmd, copy := none }) (hkind : cmdKind cmd.bytes = 1)
    {k : CopyCmd} (hk : s.copyCheck p cmd.bytes = .ok k) : exec (.copy p) s = .next
      (if k.len = 0 then s.cmdDone p n
       else if !s.hostUsable (s.hostOf p) then s
       else (s.startHostCopy (s.hostOf p) k).modPart p fun x =>
         { x with carrying := some { ctx := n, cmd := cmd, copy := some k } }) := by
  refine (guarded_ok (decide_eq_true hp) _).trans (congrArg _ ?_)
  rw [State.copyCmd, State.carried_eq hlive hbusy hcarry hkind]
  dsimp only
  rw [hk]

theorem exec_copyCmdDone (hp : p < 8) (hlive : s.live = true) (hbusy : (s.part p).resetBusy = false) {k : CopyCmd}
    (hcarry : (s.part p).carrying = some { ctx := n, cmd := cmd, copy := some k }) (res : HostResult) :
    exec (.copyCmdDone p res) s = .next (if s.waits (s.hostOf p) res then s else match res with
      | .data bs => (if k.dir = 0 then s.storeLoc k.target (padTo k.len bs) else s).cmdDone p n
      | _ => ((if k.dir = 0 then s.partialWrite k.target k.len else s).cmdFault p n 0x80 0).logRead (s.hostOf p) res) := by
  refine (guarded_ok (decide_eq_true hp) _).trans (congrArg _ ?_)
  unfold State.copyEnd
  rw [hcarry]
  dsimp only
  rw [hlive, hbusy]
  rfl

theorem State.partialWrite_frame (s : State) (l : Loc) (m : Nat) :
    ∃ u, StoreFrame { s with freeCtr := s.freeCtr + 2 * m } u ∧ s.partialWrite l m = u :=
  ⟨_, State.storeLoc_storeFrame _ _ _, rfl⟩

/-- The copy's bytes have come, or some of them: the contexts, partitions and host ports are as they were. -/
theorem State.copied_kept (s : State) (k : CopyCmd) : let u := if k.dir = 0 then s.partialWrite k.target k.len else s
    (∀ m, u.ctx m = s.ctx m) ∧ (∀ h, u.host h = s.host h) ∧ (k.dir ≠ 0 → u.stores = s.stores) := by
  intro u
  by_cases hdir : k.dir = 0
  · obtain ⟨w, hw, heq⟩ := s.partialWrite_frame k.target k.len
    have hu : u = w := (if_pos hdir).trans heq
    rw [hu]
    exact ⟨hw.ctx, hw.host, fun h => absurd hdir h⟩
  · have hu : u = s := if_neg hdir
    rw [hu]
    exact ⟨fun _ => rfl, fun _ => rfl, fun _ => rfl⟩

theorem State.stored_kept (s : State) (k : CopyCmd) (bs : List Byte) :
    let u := if k.dir = 0 then s.storeLoc k.target (padTo k.len bs) else s
    (∀ m, u.ctx m = s.ctx m) ∧
      u.stores = (if k.dir = 0 then s.writeLoc k.target (padTo k.len bs) else s).stores := by
  intro u
  by_cases hdir : k.dir = 0
  · have hu : u = s.storeLoc k.target (padTo k.len bs) := if_pos hdir
    rw [hu, if_pos hdir]
    exact ⟨(State.storeLoc_storeFrame _ _ _).ctx, State.storeLoc_stores _ _ _⟩
  · have hu : u = s := if_neg hdir
    rw [hu, if_neg hdir]
    exact ⟨fun _ => rfl, rfl⟩

theorem State.logRead_part (s : State) (h : Nat) (r : HostResult) (q : Nat) : (s.logRead h r).part q = s.part q := by
  rw [State.logRead_frame]
  rfl
end

/-- A COPY that ends in an error faults its context with FETCH (R463). -/
theorem State.copy_fails {s : State} {p n : Nat} {cmd : Held} (hp : p < 8) (hlive : s.live = true)
    (hbusy : (s.part p).resetBusy = false) {k : CopyCmd}
    (hcarry : (s.part p).carrying = some { ctx := n, cmd := cmd, copy := some k }) {res : HostResult}
    (hres : res = .error ∨ (res = .timeout ∧ (s.host (s.hostOf p)).ctDisable = false))
    (hfault : (s.ctx n).faultValid = false) : ∃ t, exec (.copyCmdDone p res) s = .next t ∧
      (t.ctx n).head = (s.ctx n).head ∧ (t.part p).carrying = none ∧ (t.ctx n).faultValid = true ∧
      (t.ctx n).faultCode = 0x80 ∧ (k.dir ≠ 0 → SameStores s t) ∧ (res = .timeout → t.host (s.hostOf p) =
        { s.host (s.hostOf p) with space := (s.host (s.hostOf p)).space.logError aerTimeout [] }) := by
  obtain ⟨hctx, hhost, hstores⟩ := s.copied_kept k
  generalize hu : (if k.dir = 0 then s.partialWrite k.target k.len else s) = u at hctx hhost hstores
  have hexec : exec (.copyCmdDone p res) s = .next ((u.cmdFault p n 0x80 0).logRead (s.hostOf p) res) := by
    rw [exec_copyCmdDone hp hlive hbusy hcarry, hu]
    rcases hres with rfl | ⟨rfl, hct⟩
    · rfl
    · rw [if_neg (by rw [State.waits, hct]; decide)]
  have hself : ((u.cmdFault p n 0x80 0).logRead (s.hostOf p) res).ctx n =
      { s.ctx n with faultValid := true, faultCode := 0x80, faultOpc := 0, faultEngine := 0, faultSeq := 0 } := by
    rw [State.logRead_ctx, State.ctx_cmdFault_self, hctx, Ctx.faulted_first hfault]
  refine ⟨_, hexec, ?_, ?_, ?_, ?_, fun hdir => ?_, fun hto => ?_⟩
  · rw [hself]
  · rw [State.logRead_part, State.carrying_cmdFault]
  · rw [hself]
  · rw [hself]
  · refine State.stores_split (Eq.trans ?_ (hstores hdir))
    rw [State.logRead_stores]
    rfl
  · rw [hto, State.logRead_timeout_host]
    have hkept : (u.cmdFault p n 0x80 0).host (s.hostOf p) = s.host (s.hostOf p) := hhost _
    rw [hkept]

/-! ## COMPLETE (R407, R463) -/

/-- The two writes of a completion record. -/
def completion (s : State) (p n : Nat) (b : List Byte) : List Out :=
  [.hostWrite (s.hostOf p) (w64At b 0)
     (leBytes 8 (fieldAt b 8 8) ++ leBytes 2 n ++ [0, 0] ++ leBytes 4 ((s.ctx n).head + 1).toNat ++
       leBytes 8 (s.ctx n).finished) false,
   .hostWrite (s.hostOf p) (w64At b 0 + 0x18) (leBytes 4 (s.ctx n).numstat.toNat ++ leBytes 4 1) false]

theorem State.foldl_emit_id (l : List Out) (s : State) : l.foldl State.emit s = { s with out := s.out ++ l } :=
  (State.foldl_emit id l s).trans (by rw [List.map_id])

section
variable {s : State} {p n : Nat} {cmd : Held}

theorem exec_complete (hp : p < 8) (hlive : s.live = true) (hbusy : (s.part p).resetBusy = false)
    (hcarry : (s.part p).carrying = some { ctx := n, cmd := cmd, copy := none }) (hkind : cmdKind cmd.bytes = 2)
    (halign : fieldAt cmd.bytes 0 8 % 32 = 0) (hzero : ∀ b ∈ (cmd.bytes.drop 0x10).take 47, b = 0)
    (hfault : (s.ctx n).faultValid = false) (husable : s.hostUsable (s.hostOf p) = true) (cut : Option Nat) :
    exec (.complete ⟨p, cut⟩) s = .next (match cut.filter (· < 2) with
      | none => ({ s with out := s.out ++ completion s p n cmd.bytes } : State).cmdDone p n
      | some k => ({ s with out := s.out ++ (completion s p n cmd.bytes).take k } : State).cmdFault p n 0x80 0) := by
  have hany : ((cmd.bytes.drop 0x10).take 47).any (· ≠ 0) = false :=
    List.any_eq_false.2 fun b hb => by simp [hzero b hb]
  refine (guarded_ok (decide_eq_true hp) _).trans (congrArg _ ?_)
  unfold State.completeCmd
  rw [State.carried_eq hlive hbusy hcarry hkind]
  dsimp only
  rw [halign, hany, hfault, husable]
  simp only [State.foldl_emit_id]
  rfl
end

/-- Settles O20: each command is followed to its end or its fault. -/
theorem copyAndComplete : Obligations.CopyAndComplete := by
  unfold Obligations.CopyAndComplete
  intro s p n cmd hp hn hlive hbusy
  refine ⟨fun hcarry hkind k hk => ⟨fun hlen => ?_, fun hlen husable => ?_⟩, fun k hcarry => ⟨fun bs => ?_,
    fun hct => ?_, fun res hres hfault => ?_⟩, fun hcarry hkind halign hzero hfault husable => ?_,
    fun hfenced hl => ?_⟩
  · rw [exec_copy hp hlive hbusy hcarry hkind hk, if_pos hlen]
    exact ⟨_, rfl, rfl, by rw [State.ctx_cmdDone_self], State.carrying_cmdDone _ _ _⟩
  · obtain ⟨u, hframe, hstores, heq⟩ := s.startHostCopy_eq (s.hostOf p) k
    rw [exec_copy hp hlive hbusy hcarry hkind hk, if_neg hlen, husable, if_neg (by decide), heq]
    obtain ⟨hls, hcs, hmem⟩ := State.stores_split hstores
    refine ⟨_, rfl, hls, hcs, hmem, ?_, ?_, rfl⟩
    · rw [hframe.frame]
      rfl
    · rw [State.part_modPart_self]
  · obtain ⟨hctx, hstores⟩ := s.stored_kept k bs
    rw [exec_copyCmdDone hp hlive hbusy hcarry, if_neg (show ¬ s.waits (s.hostOf p) (.data bs) = true from Bool.false_ne_true)]
    obtain ⟨hls, hcs, hmem⟩ := State.stores_split hstores
    refine ⟨_, rfl, ?_, State.carrying_cmdDone _ _ _, hls, hcs, hmem⟩
    rw [State.ctx_cmdDone_self, hctx]
  · rw [exec_copyCmdDone hp hlive hbusy hcarry, if_pos (by rw [State.waits, hct]; rfl)]
  · exact State.copy_fails hp hlive hbusy hcarry hres hfault
  · refine ⟨fun cut hcut => ?_, fun k hk => ?_⟩
    · rw [exec_complete hp hlive hbusy hcarry hkind halign hzero hfault husable]
      have hfilter : cut.filter (· < 2) = none := by
        rcases hcut with rfl | ⟨k, rfl, hk⟩
        · rfl
        · simp only [Option.filter, decide_eq_true_eq, Nat.not_lt.2 hk, if_false]
      rw [hfilter]
      refine ⟨_, rfl, rfl, ?_, ?_, State.carrying_cmdDone _ _ _, rfl⟩
      · rw [State.ctx_cmdDone_self]
        rfl
      · rw [State.ctx_cmdDone_self]
        exact hfault
    · rw [exec_complete hp hlive hbusy hcarry hkind halign hzero hfault husable]
      have hfilter : (some k).filter (· < 2) = some k := by
        simp only [Option.filter, decide_eq_true_eq, hk, if_true]
      have hctx := State.ctx_cmdFault_self { s with out := s.out ++ (completion s p n cmd.bytes).take k } p n 0x80 0
      have hfirst : (({ s with out := s.out ++ (completion s p n cmd.bytes).take k } : State).ctx n).faultValid = false :=
        hfault
      rw [Ctx.faulted_first hfirst] at hctx
      rw [hfilter]
      refine ⟨_, rfl, rfl, ?_, ?_, ?_, State.carrying_cmdFault _ _ _ _ _, rfl⟩
      all_goals rw [hctx]
      rfl
  · refine ⟨s.modCtx n fun c => { c with fenced := false }, ?_, rfl, fun m hm => State.ctx_modCtx_ne _ _ hm,
      State.ctx_modCtx_self _ _ _⟩
    refine (guarded_ok (decide_eq_true hn) _).trans (congrArg _ ?_)
    simp [State.fenceEnd, hlive, hfenced, hl]

end Sys2Proof.Machine
end

section
/-!
SUPPORT. Micro-batch slots and off-load windows (R246, R247, R323, R324).
-/
namespace Sys2Proof.Machine

/-! ## Subtractions from flags (R225, R229) -/

section
variable (s : State) (e f : Nat) (v : W32)

theorem State.flagSub_awake (h : s.courseAwake (e / 32) = true) :
    s.flagSub e f v = s.setFlag e f (s.flagVal e f - v) := by rw [State.flagSub, if_pos h]

theorem State.flagSub_asleep (h : s.courseAwake (e / 32) = false) : s.flagSub e f v =
    (s.modCrs (e / 32) fun c => { c with heldSubs := c.heldSubs ++ [(e, f, v)] }).requestWake (e / 32) := by
  rw [State.flagSub, h, if_neg Bool.false_ne_true]

/-- What a subtraction from a flag, or several, leave as it was. -/
structure SubFrame (s t : State) : Prop where
  frame : t = { s with engines := t.engines, courses := t.courses, doms := t.doms, pwr := t.pwr }
  live : t.live = s.live
  hostUsable : ∀ h, t.hostUsable h = s.hostUsable h
  eng : ∀ e, t.eng e = { s.eng e with flags := (t.eng e).flags }
  crs : ∀ c, t.crs c = { s.crs c with heldSubs := (t.crs c).heldSubs }

theorem SubFrame.refl : SubFrame s s := ⟨rfl, rfl, fun _ => rfl, fun _ => rfl, fun _ => rfl⟩

theorem SubFrame.trans {s t u : State} (h : SubFrame s t) (k : SubFrame t u) : SubFrame s u where
  frame := by
    have hswap : ∀ a b c d, { t with engines := a, courses := b, doms := c, pwr := d } =
        { s with engines := a, courses := b, doms := c, pwr := d } := fun a b c d => by rw [h.frame]
    exact k.frame.trans (hswap _ _ _ _)
  live := k.live.trans h.live
  hostUsable p := (k.hostUsable p).trans (h.hostUsable p)
  eng e := by rw [k.eng, h.eng]
  crs c := by rw [k.crs, h.crs]

theorem State.flagSub_subFrame : SubFrame s (s.flagSub e f v) := by
  cases h : s.courseAwake (e / 32) with
  | true =>
    rw [State.flagSub_awake _ _ _ _ h]
    exact ⟨rfl, rfl, fun _ => rfl, fun e' => by rw [State.eng_setFlag], fun _ => rfl⟩
  | false =>
    rw [State.flagSub_asleep _ _ _ _ h]
    have hwake := State.requestWake_wakesOnly
      (s.modCrs (e / 32) fun c => { c with heldSubs := c.heldSubs ++ [(e, f, v)] }) (e / 32)
    refine ⟨by rw [hwake.frame]; rfl, hwake.live, hwake.hostUsable, fun e' => ?_, fun c => ?_⟩
    · rw [hwake.eng]
      rfl
    · rw [hwake.crs, State.crs_modCrs]
      split
      · rename_i hc
        rw [hc]
      · rfl

theorem State.asleep_level {c : Nat} (h : s.courseAwake c = false) (hheld : (s.dom c).held = false) :
    2 ≤ (s.dom c).level ∨ (s.dom c).entering ≠ none := by
  rw [State.courseAwake, hheld] at h
  by_contra hno
  rw [not_or, not_not] at hno
  rw [hno.2] at h
  have hlevel : (s.dom c).level ≤ 1 := by omega
  simp [hlevel] at h

/-- A subtraction reaches its flag, or is held for its course. -/
theorem State.flagSub_taken : FlagTaken s (s.flagSub e f v) e f v := by
  refine ⟨fun h e' f' => ?_, fun h => ?_⟩
  · rw [State.flagSub_awake _ _ _ _ h, State.flagVal_setFlag]
    by_cases hef : e' = e ∧ f' = f
    · rw [if_pos hef, if_pos hef, hef.1, hef.2]
    · rw [if_neg hef, if_neg hef]
  · rw [State.flagSub_asleep _ _ _ _ h]
    have hwake := State.requestWake_wakesOnly
      (s.modCrs (e / 32) fun c => { c with heldSubs := c.heldSubs ++ [(e, f, v)] }) (e / 32)
    refine ⟨?_, fun e' f' => ?_, fun hheld => State.requestWake_wakeReq hheld (s.asleep_level h hheld)⟩
    · rw [hwake.crs, State.crs_modCrs_self]
    · rw [hwake.flagVal]
      rfl
end

/-- What a store does after it leaves the flag taken. -/
theorem flagTaken_stored {s t u : State} {e f : Nat} {v : W32} (h : FlagTaken s t e f v) (k : StoreFrame t u) :
    FlagTaken s u e f v := by
  refine ⟨fun ha e' f' => ?_, fun ha => ⟨?_, fun e' f' => ?_, fun hd => k.wakeReq _ ((h.2 ha).2.2 hd)⟩⟩
  · rw [k.flagVal, h.1 ha]
  · rw [k.crs, (h.2 ha).1]
  · rw [k.flagVal, (h.2 ha).2.1]

/-- The same flags, courses and domains, from another state and to another. -/
theorem flagTaken_congr {s s' t t' : State} {e f : Nat} {v : W32} (h : FlagTaken s t e f v)
    (he : s'.engines = s.engines) (hc : s'.courses = s.courses) (hd : s'.doms = s.doms)
    (he' : t'.engines = t.engines) (hc' : t'.courses = t.courses) (hd' : t'.doms = t.doms) :
    FlagTaken s' t' e f v := by
  unfold FlagTaken State.flagVal State.courseAwake State.eng State.crs State.dom at h ⊢
  rw [he, hc, hd, he', hc', hd']
  exact h

/-! ## Micro-batch slots (R246, R247) -/

/-- The wait that a write of SLOT_WAIT gives a slot. -/
def MSlot.written (v : W64) (x : MSlot) : MSlot :=
  { x with engine := bits v.toNat 10 0, flag := bits v.toNat 16 11, consume := bit v.toNat 17, arm := bit v.toNat 31,
           thresh := BitVec.ofNat 32 (bits v.toNat 63 32) }

section
variable {s : State} {k : Nat}

theorem State.slotOpen_notReady (h : s.slotReady k = false) : s.slotOpen k = s := by
  simp [State.slotOpen, h]

theorem State.slotReady_iff (harm : (s.mslot k).arm = true)
    (hthresh : (s.mslot k).thresh ≤ s.flagLeft (s.mslot k).engine (s.mslot k).flag) : s.slotReady k = true := by
  rw [State.slotReady, harm, decide_eq_true hthresh]
  rfl

/-- The state in which a slot has opened, before its threshold leaves the flag. -/
def State.slotOpened (s : State) (k : Nat) : State :=
  s.setMslot k { s.mslot k with arm := false, opens := satAdd 64 (s.mslot k).opens 1 }

theorem State.slotOpen_ready (hlive : s.live = true) (hready : s.slotReady k = true) (hturn : s.slotTurn k = true) :
    s.slotOpen k = if (s.mslot k).consume then
      (s.slotOpened k).flagSub (s.mslot k).engine (s.mslot k).flag (s.mslot k).thresh else s.slotOpened k := by
  rw [State.slotOpen, hlive, hready, hturn]
  rfl
end

/-- What the opening of a slot leaves. -/
theorem State.slotOpen_spec {s : State} {k : Nat} (hlive : s.live = true) (harm : (s.mslot k).arm = true)
    (hthresh : (s.mslot k).thresh ≤ s.flagLeft (s.mslot k).engine (s.mslot k).flag) (hturn : s.slotTurn k = true)
    {t : State} (ht : s.slotOpen k = t) :
    t = { s with mslots := t.mslots, engines := t.engines, courses := t.courses, doms := t.doms, pwr := t.pwr } ∧
    t.mslot k = { s.mslot k with arm := false, opens := satAdd 64 (s.mslot k).opens 1 } ∧
    (∀ j, j ≠ k → t.mslot j = s.mslot j) ∧
    ((s.mslot k).consume = false ∨ s.courseAwake ((s.mslot k).engine / 32) = true →
      t = { s with mslots := t.mslots, engines := t.engines }) ∧
    ((s.mslot k).consume = false → SameFlags s t) ∧
    ((s.mslot k).consume = true → FlagTaken s t (s.mslot k).engine (s.mslot k).flag (s.mslot k).thresh) := by
  have hself : (s.slotOpened k).mslot k = { s.mslot k with arm := false, opens := satAdd 64 (s.mslot k).opens 1 } :=
    State.mslot_setMslot_self _ _ _
  have hothers : ∀ j, j ≠ k → (s.slotOpened k).mslot j = s.mslot j := fun j hj => State.mslot_setMslot_ne _ _ hj
  rw [State.slotOpen_ready hlive (State.slotReady_iff harm hthresh) hturn] at ht
  cases hcons : (s.mslot k).consume with
  | false =>
    rw [hcons, if_neg Bool.false_ne_true] at ht
    subst ht
    exact ⟨rfl, hself, hothers, fun _ => rfl, fun _ _ _ => rfl, nofun⟩
  | true =>
    rw [hcons, if_pos rfl] at ht
    have hsub := (s.slotOpened k).flagSub_subFrame (s.mslot k).engine (s.mslot k).flag (s.mslot k).thresh
    have htaken := (s.slotOpened k).flagSub_taken (s.mslot k).engine (s.mslot k).flag (s.mslot k).thresh
    have hmslot : ∀ j, t.mslot j = (s.slotOpened k).mslot j := fun j => by
      rw [← ht, hsub.frame]
      rfl
    rw [ht] at htaken
    refine ⟨?_, (hmslot k).trans hself, fun j hj => (hmslot j).trans (hothers j hj), fun ha => ?_, nofun, fun _ =>
      flagTaken_congr htaken rfl rfl rfl rfl rfl rfl⟩
    · rw [← ht, hsub.frame]
      rfl
    · have hawake : (s.slotOpened k).courseAwake ((s.mslot k).engine / 32) = true := ha.resolve_left nofun
      rw [← ht, State.flagSub_awake _ _ _ _ hawake]
      rfl

theorem exec_slotArm {s : State} {port k p : Nat} {v : W64} (hport : port < 2) (hk : k < 128) (hlive : s.live = true)
    (hp : s.partOfSlot k = some p) (hown : s.hostOf p = port)
    (hok : bit v.toNat 31 = true → s.partOfEngine (bits v.toNat 10 0) = some p ∧ bits v.toNat 16 11 ≤ 47)
    (hnot : bit v.toNat 31 = false ∨ s.flagLeft (bits v.toNat 10 0) (bits v.toNat 16 11) <
      BitVec.ofNat 32 (bits v.toNat 63 32)) :
    exec (.slotArm port k v) s = .next ((s.emptyLatch (portReq port)).modMslot k (MSlot.written v)) := by
  have hg : (isHost port && isSlot k) = true := by simp [isHost, isSlot, hport, hk]
  refine (guarded_ok hg _).trans (congrArg _ ?_)
  generalize hu : s.emptyLatch (portReq port) = u
  have hp' : u.partOfSlot k = some p := by rw [← hu]; exact hp
  have hown' : u.hostOf p = port := by rw [← hu]; exact hown
  have hlive' : u.live = true := by rw [← hu]; exact hlive
  have hpart : ∀ e, u.partOfEngine e = s.partOfEngine e := fun e => by rw [← hu]; rfl
  have hself : (u.modMslot k (MSlot.written v)).mslot k = (u.mslot k).written v := State.mslot_modMslot_self _ _ _
  have hnr : (u.modMslot k (MSlot.written v)).slotReady k = false := by
    rw [State.slotReady, hself]
    rcases hnot with h | h
    · rw [MSlot.written, h]
      rfl
    · refine Bool.and_eq_false_iff.2 (.inr (decide_eq_false ?_))
      refine BitVec.not_le.2 ?_
      rw [← hu]
      exact h
  have hgo : (decide (u.hostOf p ≠ port) || (bit v.toNat 31 &&
      (decide (u.partOfEngine (bits v.toNat 10 0) ≠ some p) || decide (bits v.toNat 16 11 > 47)))) = false := by
    rw [hown', hpart]
    cases hb : bit v.toNat 31 with
    | false => simp
    | true =>
      obtain ⟨he, hf⟩ := hok hb
      simp [he, hf]
  have heq : s.slotWait port k v = (u.modMslot k (MSlot.written v)).slotOpen k := by
    unfold State.slotWait
    rw [hu]
    dsimp only
    rw [hp']
    dsimp only
    rw [hlive', if_neg]
    · rfl
    · simpa using hgo
  rw [heq, State.slotOpen_notReady hnr]

/-! ## Off-load windows (R323, R324) -/

section
variable (s : State) (p w : Nat)

@[simp] theorem State.ofl_setOfl_self (x : Ofl) : (s.setOfl p w x).ofl p w = x := by
  refine (Tab.get_put _ _ _ _ _).trans ?_
  exact if_pos rfl

theorem State.ofl_of_ofls {s t : State} (h : t.ofls = s.ofls) (p w : Nat) : t.ofl p w = s.ofl p w := by
  rw [State.ofl, h, ← State.ofl]

theorem State.oflFire_notReady (h : s.oflReady p w = false) : s.oflFire p w = s := by
  simp [State.oflFire, h]
end

theorem copyRequests_congr {s t : State} {h : Nat} (hh : t.host h = s.host h)
    (hr : ∀ l n, t.readLoc l n = s.readLoc l n) (c : CopyCmd) : copyRequests t h c = copyRequests s h c := by
  rw [copyRequests, copyRequests, hh, hr]

section
variable {s : State} {p w : Nat}

/-- A window's copy that may issue: its requests leave, and it is marked so. -/
theorem State.oflIssue_sends {c : CopyCmd} (hcopy : (s.ofl p w).copy = some c) (hsent : (s.ofl p w).sent = false)
    (hlive : s.live = true) (husable : s.hostUsable (s.hostOf p) = true) : ∃ u, StoreFrame s u ∧ u.stores = s.stores ∧
      s.oflIssue p w =
        ({ u with out := s.out ++ copyRequests s (s.hostOf p) c } : State).setOfl p w { s.ofl p w with sent := true } := by
  obtain ⟨u, hframe, hstores, heq⟩ := s.startHostCopy_eq (s.hostOf p) c
  refine ⟨u, hframe, hstores, ?_⟩
  have hofl : ({ u with out := s.out ++ copyRequests s (s.hostOf p) c } : State).ofl p w = s.ofl p w :=
    State.ofl_of_ofls (by rw [hframe.frame]) p w
  unfold State.oflIssue
  dsimp only
  split
  · rename_i hnone
    rw [hcopy] at hnone
    cases hnone
  · rename_i d hd
    obtain rfl : c = d := Option.some.inj (hcopy.symm.trans hd)
    rw [hsent, hlive, husable, heq, State.modOfl, hofl]
    rfl

theorem State.oflIssue_waits (h : (s.ofl p w).copy = none ∨ s.hostUsable (s.hostOf p) = false) :
    s.oflIssue p w = s := by
  unfold State.oflIssue
  dsimp only
  rcases h with h | h
  · rw [h]
  · split
    · rfl
    · rw [h]
      simp

/-- The copy that a firing of the window asks for. -/
def Ofl.firing (x : Ofl) : CopyCmd :=
  { host := x.host, target := .pier x.pier.toNat, len := x.len.toNat, dir := if x.dir then 0 else 1 }

theorem State.oflFire_ready (hlive : s.live = true) (harm : (s.ofl p w).arm = true)
    (hthresh : (s.ofl p w).thresh ≤ s.flagLeft (s.ofl p w).trigEngine (s.ofl p w).trigFlag)
    (hturn : s.oflTurn p w = true) {u : State}
    (hu : s.flagSub (s.ofl p w).trigEngine (s.ofl p w).trigFlag (s.ofl p w).thresh = u) : s.oflFire p w =
      if (s.ofl p w).len.toNat = 0 then (u.setOfl p w { s.ofl p w with arm := false }).oflFinish p w
      else if (s.ofl p w).busy then
        u.setOfl p w { s.ofl p w with arm := false, next := (s.ofl p w).next ++ [(s.ofl p w).firing] }
      else (u.setOfl p w { s.ofl p w with
        arm := false, busy := true, copy := some (s.ofl p w).firing, sent := false }).oflIssue p w := by
  have hready : s.oflReady p w = true := by
    rw [State.oflReady, harm, decide_eq_true hthresh]
    rfl
  subst hu
  unfold State.oflFire
  rw [hlive, hready, hturn]
  rfl

/-- A window armed with a trigger that is not yet met (R323). -/
theorem State.oflCtrl_arms {port : Nat} {v : W32} (hlive : s.live = true) (hreach : s.oflReach port p w = true)
    (harm : v.getLsbD 0 = true) (hok : s.oflOk p (s.ofl p w) = true)
    (hnot : s.flagLeft (s.ofl p w).trigEngine (s.ofl p w).trigFlag < (s.ofl p w).thresh) : s.oflCtrl port p w v =
      (s.emptyLatch (portReq port)).setOfl p w { s.ofl p w with
        arm := true, dir := v.getLsbD 1,
        err := (s.ofl p w).err && (!v.getLsbD 3 || s.setNow.contains (.oflErr p w)) } := by
  generalize hu : s.emptyLatch (portReq port) = u
  have hlive' : u.live = true := by rw [← hu]; exact hlive
  have hreach' : u.oflReach port p w = true := by rw [← hu]; exact hreach
  have hofl : u.ofl p w = s.ofl p w := by rw [← hu]; rfl
  have hok' : u.oflOk p (s.ofl p w) = true := by rw [← hu]; exact hok
  have hnr : ∀ y : Ofl, y.thresh = (s.ofl p w).thresh → y.trigEngine = (s.ofl p w).trigEngine →
      y.trigFlag = (s.ofl p w).trigFlag → (u.setOfl p w y).oflReady p w = false := fun y h1 h2 h3 => by
    rw [State.oflReady, State.ofl_setOfl_self, h1, h2, h3]
    refine Bool.and_eq_false_iff.2 (.inr (decide_eq_false (BitVec.not_le.2 ?_)))
    rw [← hu]
    exact hnot
  unfold State.oflCtrl
  rw [hu]
  dsimp only
  rw [hlive', hreach', hofl, hok', harm, if_neg (by decide)]
  refine Eq.trans (State.oflFire_notReady _ p w ?_) ?_
  · exact hnr _ rfl rfl rfl
  · rw [← hu]
    rfl

theorem State.oflCopyDone_data {c : CopyCmd} {bs : List Byte} (hlive : s.live = true)
    (hcopy : (s.ofl p w).copy = some c) (hsent : (s.ofl p w).sent = true) : s.oflCopyDone p w (.data bs) =
      (((if c.dir = 0 then s.storeLoc c.target (padTo c.len bs) else s).modOfl p w Ofl.advance).oflFinish p w).oflIssue p
        w := by
  unfold State.oflCopyDone
  dsimp only
  rw [hcopy]
  dsimp only
  rw [hlive, hsent]
  rfl

/-- What the end of a window's copy leaves of the window, the stores and the host requests. -/
theorem State.oflFinish_kept (s : State) (p w : Nat) :
    (s.oflFinish p w).ofl p w = { s.ofl p w with count := satAdd 64 (s.ofl p w).count 1 } ∧
    (s.oflFinish p w).stores = s.stores ∧ (s.oflFinish p w).out = s.out := by
  generalize hu : s.setOfl p w { s.ofl p w with count := satAdd 64 (s.ofl p w).count 1 } = u
  have hofl : u.ofl p w = { s.ofl p w with count := satAdd 64 (s.ofl p w).count 1 } := by
    rw [← hu]
    exact State.ofl_setOfl_self _ _ _ _
  have heq : s.oflFinish p w = if (s.ofl p w).doneValid then u.flagAdd (s.ofl p w).doneEngine (s.ofl p w).doneFlag 1
      else u := by
    rw [State.oflFinish, hu]
  have hframe : FlagFrame u (s.oflFinish p w) := by
    rw [heq]
    split
    · exact u.flagAdd_flagFrame _ _ _
    · exact .refl u
  refine ⟨?_, ?_, ?_⟩
  · rw [← hofl]
    exact State.ofl_of_ofls (by rw [hframe.frame]) p w
  · rw [hframe.frame, ← hu]
    rfl
  · rw [hframe.frame, ← hu]
    rfl

/-- A window that fires with no byte to copy. -/
theorem State.oflFire_empty (hlive : s.live = true) (harm : (s.ofl p w).arm = true)
    (hthresh : (s.ofl p w).thresh ≤ s.flagLeft (s.ofl p w).trigEngine (s.ofl p w).trigFlag)
    (hturn : s.oflTurn p w = true) (hlen : (s.ofl p w).len.toNat = 0) : (s.oflFire p w).stores = s.stores ∧
      (s.oflFire p w).ofl p w = { s.ofl p w with arm := false, count := satAdd 64 (s.ofl p w).count 1 } ∧
      (s.oflFire p w).out = s.out := by
  generalize hu : s.flagSub (s.ofl p w).trigEngine (s.ofl p w).trigFlag (s.ofl p w).thresh = u
  have hsub : SubFrame s u := by
    rw [← hu]
    exact s.flagSub_subFrame _ _ _
  rw [State.oflFire_ready hlive harm hthresh hturn hu, if_pos hlen]
  obtain ⟨hofl, hstores, hout⟩ := (u.setOfl p w { s.ofl p w with arm := false }).oflFinish_kept p w
  refine ⟨?_, ?_, ?_⟩
  · rw [hstores, hsub.frame]
    rfl
  · rw [hofl, State.ofl_setOfl_self]
  · rw [hout, hsub.frame]
    rfl

/-- A window that fires while a copy of it runs. -/
theorem State.oflFire_busy (hlive : s.live = true) (harm : (s.ofl p w).arm = true)
    (hthresh : (s.ofl p w).thresh ≤ s.flagLeft (s.ofl p w).trigEngine (s.ofl p w).trigFlag)
    (hturn : s.oflTurn p w = true) (hlen : (s.ofl p w).len.toNat ≠ 0) (hbusy : (s.ofl p w).busy = true) :
    (s.oflFire p w).stores = s.stores ∧ (s.oflFire p w).out = s.out ∧
      (s.oflFire p w).ofl p w =
        { s.ofl p w with arm := false, next := (s.ofl p w).next ++ [(s.ofl p w).firing] } ∧
      FlagTaken s (s.oflFire p w) (s.ofl p w).trigEngine (s.ofl p w).trigFlag (s.ofl p w).thresh := by
  have htaken := s.flagSub_taken (s.ofl p w).trigEngine (s.ofl p w).trigFlag (s.ofl p w).thresh
  generalize hu : s.flagSub (s.ofl p w).trigEngine (s.ofl p w).trigFlag (s.ofl p w).thresh = u at htaken
  have hsub : SubFrame s u := by
    rw [← hu]
    exact s.flagSub_subFrame _ _ _
  rw [State.oflFire_ready hlive harm hthresh hturn hu, if_neg hlen, if_pos hbusy]
  refine ⟨?_, ?_, State.ofl_setOfl_self _ _ _ _, flagTaken_congr htaken rfl rfl rfl rfl rfl rfl⟩
  · rw [hsub.frame]
    rfl
  · rw [hsub.frame]
    rfl

/-- A window that fires and whose copy starts. -/
theorem State.oflFire_starts (hlive : s.live = true) (harm : (s.ofl p w).arm = true)
    (hthresh : (s.ofl p w).thresh ≤ s.flagLeft (s.ofl p w).trigEngine (s.ofl p w).trigFlag)
    (hturn : s.oflTurn p w = true) (hlen : (s.ofl p w).len.toNat ≠ 0) (hbusy : (s.ofl p w).busy = false)
    {t : State} (ht : s.oflFire p w = t) : t.stores = s.stores ∧
      FlagTaken s t (s.ofl p w).trigEngine (s.ofl p w).trigFlag (s.ofl p w).thresh ∧ (t.ofl p w).arm = false ∧
      (s.hostUsable (s.hostOf p) = true → t.ofl p w = { s.ofl p w with
        arm := false, busy := true, copy := some (s.ofl p w).firing, sent := true } ∧
        t.out = s.out ++ copyRequests s (s.hostOf p) (s.ofl p w).firing) := by
  have htaken := s.flagSub_taken (s.ofl p w).trigEngine (s.ofl p w).trigFlag (s.ofl p w).thresh
  generalize hu : s.flagSub (s.ofl p w).trigEngine (s.ofl p w).trigFlag (s.ofl p w).thresh = u at htaken
  have hsub : SubFrame s u := by
    rw [← hu]
    exact s.flagSub_subFrame _ _ _
  generalize hv : u.setOfl p w { s.ofl p w with
    arm := false, busy := true, copy := some (s.ofl p w).firing, sent := false } = v
  rw [State.oflFire_ready hlive harm hthresh hturn hu, if_neg hlen, hbusy, if_neg Bool.false_ne_true, hv] at ht
  have hofl : v.ofl p w = { s.ofl p w with
      arm := false, busy := true, copy := some (s.ofl p w).firing, sent := false } := by
    rw [← hv]
    exact State.ofl_setOfl_self _ _ _ _
  have hframe : v = { s with engines := u.engines, courses := u.courses, doms := u.doms, pwr := u.pwr, ofls := v.ofls } := by
    rw [← hv, hsub.frame]
    rfl
  have hvlive : v.live = true := by
    rw [← hlive, ← hsub.live, ← hv]
    rfl
  have hvusable : v.hostUsable (v.hostOf p) = s.hostUsable (s.hostOf p) := by
    have hown : v.hostOf p = s.hostOf p := by
      rw [hframe]
      rfl
    rw [hown, ← hsub.hostUsable, ← hv]
    rfl
  have hplaces : SamePlaces s v := ⟨by rw [hframe]; rfl, by rw [hframe], by rw [hframe]⟩
  have hown : v.hostOf p = s.hostOf p := by
    rw [hframe]
    rfl
  have hvout : v.out = s.out := by rw [hframe]
  have hreq : copyRequests v (v.hostOf p) (s.ofl p w).firing = copyRequests s (s.hostOf p) (s.ofl p w).firing := by
    rw [hown]
    exact copyRequests_congr (by rw [hframe]; rfl) hplaces.readLoc _
  have hvtaken : FlagTaken s v (s.ofl p w).trigEngine (s.ofl p w).trigFlag (s.ofl p w).thresh :=
    flagTaken_congr htaken rfl rfl rfl (by rw [← hv]; rfl) (by rw [← hv]; rfl) (by rw [← hv]; rfl)
  cases husable : s.hostUsable (s.hostOf p) with
  | false =>
    rw [State.oflIssue_waits (.inr (hvusable.trans husable))] at ht
    rw [← ht]
    exact ⟨hplaces.stores, hvtaken, by rw [hofl], nofun⟩
  | true =>
    obtain ⟨x, hstore, hstores, heq⟩ := State.oflIssue_sends (c := (s.ofl p w).firing) (by rw [hofl]) (by rw [hofl])
      hvlive (hvusable.trans husable)
    rw [heq, hreq, hvout] at ht
    subst ht
    refine ⟨hstores.trans hplaces.stores, ?_, ?_, fun _ => ⟨?_, rfl⟩⟩
    · exact flagTaken_congr (flagTaken_stored hvtaken hstore) rfl rfl rfl rfl rfl rfl
    · rw [State.ofl_setOfl_self, hofl]
    · rw [State.ofl_setOfl_self, hofl]
end

/-! ## The end of a window's copy (R324) -/

section
variable {s : State} {p w : Nat} {c : CopyCmd} {bs : List Byte}

/-- The window's copy has been written, counted, and its flag raised; the next may run. -/
theorem State.oflDone_spec (hlive : s.live = true) (hdone : (s.ofl p w).doneValid = true)
    (hawake : s.courseAwake ((s.ofl p w).doneEngine / 32) = true) {t : State}
    (ht : (((if c.dir = 0 then s.storeLoc c.target (padTo c.len bs) else s).modOfl p w Ofl.advance).oflFinish p
      w).oflIssue p w = t) :
    t.ofl p w = { s.ofl p w with
      busy := !(s.ofl p w).next.isEmpty, copy := (s.ofl p w).next.head?, next := (s.ofl p w).next.tail,
      sent := !(s.ofl p w).next.isEmpty && s.hostUsable (s.hostOf p), count := satAdd 64 (s.ofl p w).count 1 } ∧
    (∀ e f, t.flagVal e f =
      if e = (s.ofl p w).doneEngine ∧ f = (s.ofl p w).doneFlag then s.flagVal e f + 1 else s.flagVal e f) ∧
    t.stores = (if c.dir = 0 then s.writeLoc c.target (padTo c.len bs) else s).stores := by
  generalize hu : (if c.dir = 0 then s.storeLoc c.target (padTo c.len bs) else s) = u at ht
  have hstore : StoreFrame s u := by
    rw [← hu]
    split
    · exact s.storeLoc_storeFrame _ _
    · exact .refl s
  have hstored : u.stores = (if c.dir = 0 then s.writeLoc c.target (padTo c.len bs) else s).stores := by
    rw [← hu]
    split
    · exact s.storeLoc_stores _ _
    · rfl
  have huofl : u.ofl p w = s.ofl p w := State.ofl_of_ofls (by rw [hstore.frame]) p w
  generalize hy : ({ (s.ofl p w).advance with count := satAdd 64 (s.ofl p w).count 1 } : Ofl) = y
  have hv : (u.modOfl p w Ofl.advance).oflFinish p w =
      ((u.modOfl p w Ofl.advance).setOfl p w y).setFlag (s.ofl p w).doneEngine (s.ofl p w).doneFlag
        (u.flagVal (s.ofl p w).doneEngine (s.ofl p w).doneFlag + 1) := by
    have hself : (u.modOfl p w Ofl.advance).ofl p w = (s.ofl p w).advance := by
      rw [State.modOfl, State.ofl_setOfl_self, huofl]
    have hua : ((u.modOfl p w Ofl.advance).setOfl p w y).courseAwake ((s.ofl p w).doneEngine / 32) = true := by
      rw [← hawake, ← hstore.awake]
      rfl
    have hdv : (s.ofl p w).advance.doneValid = true := hdone
    have hcount : (s.ofl p w).advance.count = (s.ofl p w).count := rfl
    unfold State.oflFinish
    dsimp only
    rw [hself, hcount, hy, if_pos hdv]
    exact State.flagAdd_awake _ _ _ _ hua
  generalize hz : ((u.modOfl p w Ofl.advance).setOfl p w y).setFlag (s.ofl p w).doneEngine (s.ofl p w).doneFlag
    (u.flagVal (s.ofl p w).doneEngine (s.ofl p w).doneFlag + 1) = z at hv
  rw [hv] at ht
  have hzframe : z = { u with engines := z.engines, ofls := z.ofls } := by
    rw [← hz]
    rfl
  have hzofl : z.ofl p w = y := by
    rw [← hz]
    exact State.ofl_setOfl_self _ _ _ _
  have hzflag : ∀ e f, z.flagVal e f =
      if e = (s.ofl p w).doneEngine ∧ f = (s.ofl p w).doneFlag then s.flagVal e f + 1 else s.flagVal e f := fun e f => by
    rw [← hz, State.flagVal_setFlag]
    by_cases hef : e = (s.ofl p w).doneEngine ∧ f = (s.ofl p w).doneFlag
    · rw [if_pos hef, if_pos hef, hstore.flagVal, hef.1, hef.2]
    · rw [if_neg hef, if_neg hef]
      exact hstore.flagVal e f
  have hzlive : z.live = true := by
    rw [← hlive, ← hstore.live, hzframe]
    rfl
  have hzusable : z.hostUsable (z.hostOf p) = s.hostUsable (s.hostOf p) := by
    have hown : z.hostOf p = s.hostOf p := by
      rw [hzframe, hstore.frame]
      rfl
    rw [hown, ← hstore.hostUsable, hzframe]
    rfl
  have hzstores : z.stores = u.stores := by
    rw [hzframe]
    rfl
  cases hnext : (s.ofl p w).next with
  | nil =>
    have hcopy : (z.ofl p w).copy = none := by
      rw [hzofl, ← hy, Ofl.advance, hnext]
      rfl
    rw [State.oflIssue_waits (.inl hcopy)] at ht
    rw [← ht]
    refine ⟨?_, hzflag, hzstores.trans hstored⟩
    rw [hzofl, ← hy, Ofl.advance, hnext]
    rfl
  | cons d l =>
    have hcopy : (z.ofl p w).copy = some d := by
      rw [hzofl, ← hy, Ofl.advance, hnext]
      rfl
    have hsent : (z.ofl p w).sent = false := by
      rw [hzofl, ← hy]
      rfl
    cases husable : s.hostUsable (s.hostOf p) with
    | false =>
      rw [State.oflIssue_waits (.inr (hzusable.trans husable))] at ht
      rw [← ht]
      refine ⟨?_, hzflag, hzstores.trans hstored⟩
      rw [hzofl, ← hy, Ofl.advance, hnext]
      rfl
    | true =>
      obtain ⟨x, hx, hxs, heq⟩ := State.oflIssue_sends hcopy hsent hzlive (hzusable.trans husable)
      rw [heq] at ht
      rw [← ht]
      refine ⟨?_, fun e f => ?_, hxs.trans (hzstores.trans hstored)⟩
      · rw [State.ofl_setOfl_self, hzofl, ← hy, Ofl.advance, hnext]
        rfl
      · rw [← hzflag, ← hx.flagVal]
        rfl
end

/-- Settles O21: a slot's opening and a window's firing and end are each followed to the flag that they change. -/
theorem slotsAndWindows : Obligations.SlotsAndWindows := by
  unfold Obligations.SlotsAndWindows
  refine ⟨fun s port k p v hport hk hlive => ⟨fun hp hown hok => ?_, fun harm hthresh hturn => ?_⟩,
    fun s port p w v hport hp hw hlive => ?_⟩
  · intro x hnot
    refine ⟨_, exec_slotArm hport hk hlive hp hown hok hnot, rfl, fun j hj => State.mslot_modMslot_ne _ _ hj, ?_⟩
    rw [State.mslot_modMslot_self]
    rfl
  · obtain ⟨hframe, hmslot, hothers, honly, hsame, htaken⟩ := State.slotOpen_spec hlive harm hthresh hturn rfl
    refine ⟨_, guarded_ok (decide_eq_true hk) _, ?_, ?_, ?_, hothers, hmslot, honly, hsame, htaken⟩
    · refine State.stores_split ?_
      rw [hframe]
      rfl
    · rw [hframe]
    · rw [hframe]
  · intro x
    have hg : (isHost port && isPart p && isWindow w) = true := by simp [isHost, isPart, isWindow, hport, hp, hw]
    have hg' : (isPart p && isWindow w) = true := by simp [isPart, isWindow, hp, hw]
    refine ⟨fun hreach harm hok hnot => ?_, fun harm hthresh hturn => ?_, fun c bs hcopy hsent hdone _ hawake => ?_⟩
    · refine ⟨_, (guarded_ok hg _).trans (congrArg _ (State.oflCtrl_arms hlive hreach harm hok hnot)), rfl, ?_⟩
      exact State.ofl_setOfl_self _ _ _ _
    · intro c
      refine ⟨_, guarded_ok hg' _, ?_⟩
      by_cases hlen : x.len.toNat = 0
      · obtain ⟨hstores, hofl, hout⟩ := State.oflFire_empty hlive harm hthresh hturn hlen
        obtain ⟨hls, hcs, hmem⟩ := State.stores_split hstores
        refine ⟨hls, hcs, hmem, by rw [hofl], fun _ => ⟨by rw [hofl]; rfl, hout⟩, fun hne => ?_⟩
        exact absurd (BitVec.eq_of_toNat_eq hlen) hne
      · have hne : x.len ≠ 0 := fun h => hlen (by rw [h]; rfl)
        by_cases hbusy : x.busy = true
        · obtain ⟨hstores, hout, hofl, htaken⟩ := State.oflFire_busy hlive harm hthresh hturn hlen hbusy
          obtain ⟨hls, hcs, hmem⟩ := State.stores_split hstores
          exact ⟨hls, hcs, hmem, by rw [hofl], fun h => absurd h hne,
            fun _ => ⟨htaken, fun _ => ⟨hofl, hout⟩, fun h => absurd hbusy (by rw [h]; exact Bool.false_ne_true)⟩⟩
        · have hidle := Bool.eq_false_iff.2 hbusy
          obtain ⟨hstores, htaken, harm', hstart⟩ := State.oflFire_starts hlive harm hthresh hturn hlen hidle rfl
          obtain ⟨hls, hcs, hmem⟩ := State.stores_split hstores
          exact ⟨hls, hcs, hmem, harm', fun h => absurd h hne,
            fun _ => ⟨htaken, fun h => absurd h hbusy, fun _ => hstart⟩⟩
    · obtain ⟨hofl, hflags, hstores⟩ := State.oflDone_spec (c := c) (bs := bs) hlive hdone hawake rfl
      obtain ⟨hls, hcs, hmem⟩ := State.stores_split hstores
      exact ⟨_, (guarded_ok hg' _).trans (congrArg _ (State.oflCopyDone_data hlive hcopy hsent)), hofl, hflags, hls, hcs,
        hmem⟩

end Sys2Proof.Machine
end

section
/-!
SUPPORT. An engine's turn: its own items, steals and rivals (R106 to R111).
-/
namespace Sys2Proof.Machine

/-! ## An item starts (R101, R107, R113) -/

section
variable (s : State) (e : Nat)

theorem State.undoFlags_subFrame (l : List (Nat × W32)) : SubFrame s (s.undoFlags e l) := by
  refine List.foldlRecOn l _ (motive := SubFrame s) (.refl s) fun t ht a _ => ht.trans ?_
  exact t.flagSub_subFrame e a.1 a.2

theorem State.startItem_item (x : Candidate) : ((s.startItem e x).eng e).item = some (x.c, x.k) ∧
    ((s.startItem e x).eng e).act = .run ∧ ((s.startItem e x).eng e).stolen = (s.eng e).stolen := by
  have hundo := s.undoFlags_subFrame (x.tied.getD e) (((x.h.saved.filter (·.failed)).map (·.undo)).getD [])
  have hstolen : (((s.undoFlags (x.tied.getD e) (((x.h.saved.filter (·.failed)).map (·.undo)).getD [])).setHod x.c x.k
      { x.h with status := .running e, saved := none }).eng e).stolen = (s.eng e).stolen := by
    rw [State.eng_setHod, hundo.eng]
  unfold State.startItem
  dsimp only
  rw [State.eng_modEng_self]
  split
  · exact ⟨rfl, rfl, hstolen⟩
  · exact ⟨rfl, rfl, hstolen⟩

theorem State.startItem_hodStolen (x : Candidate) (c : Nat) :
    ((s.startItem e x).crs c).hodStolen = (s.crs c).hodStolen := by
  have hundo := s.undoFlags_subFrame (x.tied.getD e) (((x.h.saved.filter (·.failed)).map (·.undo)).getD [])
  unfold State.startItem
  dsimp only
  rw [State.crs_modEng, State.setHod, State.crs_modCrs]
  split
  · rename_i hc
    rw [hundo.crs, hc]
  · rw [hundo.crs]
end

/-! ## An engine's turn (R106 to R110) -/

section
variable {s : State} {e : Nat} {x : Candidate}

theorem State.takeTurn_next (hmay : s.mayChoose e = true) (hdue : (s.eng e).retireDue = false) :
    s.takeTurn e = s.takeNext e := by
  rw [State.takeTurn, hmay, hdue]
  rfl

theorem State.takeTurn_retire (hmay : s.mayChoose e = true) (hdue : (s.eng e).retireDue = true) :
    s.takeTurn e = s.retire e := by
  rw [State.takeTurn, hmay, hdue]
  rfl

/-- An item that is tied to no orphan, or that leaves its local store alone, is started. -/
theorem State.takeNext_own (hbest : bestOf (Candidate.rank e) (s.ownItems e) = some x)
    (htied : ∀ o, x.tied = some o → o = e ∨ x.h.desc.lsDep = false) : s.takeNext e = s.startItem e x := by
  unfold State.takeNext
  rw [hbest]
  dsimp only
  split
  · rename_i t ht
    refine if_neg ?_
    rcases htied t ht with h | h
    · simp [h]
    · simp [h]
  · rfl

theorem State.takeNext_steals (hown : s.ownItems e = []) (hsteal : s.stealItem e = some x) : s.takeNext e =
    ((s.modEng e fun y => { y with stolen := satAdd 64 y.stolen 1 }).modCrs x.c fun y =>
      { y with hodStolen := satAdd 64 y.hodStolen 1 }).startItem e x := by
  unfold State.takeNext
  rw [hown, hsteal]
  rfl

theorem State.choose_alone (hmay : s.mayChoose e = true) (hriv : s.rivals e = []) : s.choose e = s.takeTurn e := by
  rw [State.choose, if_pos hmay, hriv]
  rfl

theorem State.mayChoose_awake (hmay : s.mayChoose e = true) : s.courseAwake (e / 32) = true := by
  simp only [State.mayChoose, State.seeks, Bool.and_eq_true] at hmay
  exact hmay.1.2

/-- R110: who wins against engine `e` in the cycle. -/
theorem State.mem_rivals {c : Nat} (htarget : s.targetHod e = some c) (o : Nat) : o ∈ s.rivals e ↔
    o ∈ s.engines.map (·.1) ∧ o ≠ e ∧ s.mayChoose o = true ∧ s.targetHod o = some c ∧
      (if e / 32 = c then o / 32 = c ∧ o < e else o / 32 = c ∨ o < e) := by
  unfold State.rivals
  rw [htarget]
  dsimp only
  by_cases hc : e / 32 = c
  · rw [if_pos hc, if_pos hc]
    simp only [List.mem_filter, Bool.and_eq_true, decide_eq_true_eq, beq_iff_eq]
    tauto
  · rw [if_neg hc, if_neg hc]
    simp only [List.mem_append, List.mem_filter, Bool.and_eq_true, decide_eq_true_eq, beq_iff_eq]
    tauto

theorem State.rival_mayChoose {o : Nat} (h : o ∈ s.rivals e) : s.mayChoose o = true := by
  cases htarget : s.targetHod e with
  | none =>
    rw [State.rivals, htarget] at h
    cases h
  | some c => exact ((State.mem_rivals htarget o).1 h).2.2.1

theorem State.choose_rival {o : Nat} (hmay : s.mayChoose e = true) (hriv : s.rivals e = [o]) :
    s.choose e = (s.takeTurn o).takeTurn e := by
  rw [State.choose, if_pos hmay, hriv]
  rfl

theorem exec_engineWake_awake (he : e < 2048) (hawake : s.courseAwake (e / 32) = true) :
    exec (.engineWake e) s = .next (s.choose e) :=
  (guarded_ok (decide_eq_true he) _).trans (congrArg _ (if_pos hawake))

theorem exec_engineWake_asleep (he : e < 2048) (hasleep : s.courseAwake (e / 32) = false) (hlive : s.live = true)
    (hidle : (s.eng e).act = .idle) (hen : s.engEnabled e = true) (hslot : s.hasSlot e = true)
    (hitem : bestOf (Candidate.rank e) (s.ownItems e) = some x ∨ s.stealItem e = some x) :
    exec (.engineWake e) s = .next (s.requestWake (e / 32)) := by
  refine (guarded_ok (decide_eq_true he) _).trans (congrArg _ ?_)
  have hsome : ((bestOf (Candidate.rank e) (s.ownItems e)).isSome || (s.stealItem e).isSome) = true := by
    rcases hitem with h | h <;> simp [h]
  unfold State.engineWake
  rw [hasleep, hlive, hidle, hen, hslot, hsome]
  rfl
end

/-- Settles O23: an engine's turn after the turns of its rivals. -/
theorem engineWake : Obligations.EngineWake := by
  unfold Obligations.EngineWake
  intro s e x he
  refine ⟨fun hawake => ⟨exec_engineWake_awake he hawake, fun hno => ?_⟩, fun hmay hdue hriv => ?_,
    fun hmay hdue hriv => ⟨fun hbest htied => ?_, fun hown hsteal => ?_⟩, fun o hmay hriv hdue hbest htied => ?_,
    fun c o htarget => State.mem_rivals htarget o, fun hasleep hlive hidle hen hslot hitem => ?_⟩
  · rw [State.choose, hno]
    rfl
  · rw [State.choose_alone hmay hriv, State.takeTurn_retire hmay hdue]
  · rw [exec_engineWake_awake he (State.mayChoose_awake hmay), State.choose_alone hmay hriv,
      State.takeTurn_next hmay hdue, State.takeNext_own hbest htied]
  · rw [exec_engineWake_awake he (State.mayChoose_awake hmay), State.choose_alone hmay hriv,
      State.takeTurn_next hmay hdue, State.takeNext_steals hown hsteal]
    obtain ⟨hitem, hact, hstolen⟩ := State.startItem_item ((s.modEng e fun y => { y with
      stolen := satAdd 64 y.stolen 1 }).modCrs x.c fun y => { y with hodStolen := satAdd 64 y.hodStolen 1 }) e x
    refine ⟨_, rfl, hitem, hact, ?_, ?_⟩
    · rw [hstolen, State.eng_modCrs, State.eng_modEng_self]
      rfl
    · rw [State.startItem_hodStolen, State.crs_modCrs_self]
      rfl
  · have hmayo : s.mayChoose o = true := State.rival_mayChoose (e := e) (by rw [hriv]; exact List.mem_singleton.2 rfl)
    rw [State.choose_rival hmay hriv, State.takeTurn_next hmayo hdue, State.takeNext_own hbest htied]
  · have hwake := s.requestWake_wakesOnly (e / 32)
    exact ⟨_, exec_engineWake_asleep he hasleep hlive hidle hen hslot hitem, hwake.frame,
      fun hheld => State.requestWake_wakeReq hheld (s.asleep_level hasleep hheld)⟩

end Sys2Proof.Machine
end

section
/-!
SUPPORT. YIELD saves its item and frees its engine (R107).
-/
namespace Sys2Proof.Machine

/-! ## YIELD (R107) -/

section
variable {f : Fields} {r : Run} {u : State}

/-- What YIELD leaves in its item's save area: the program counter past it and g1 to g63. -/
def Engine.saveBytes (x : Engine) : List Byte :=
  leBytes 8 x.pc ++ (List.range 63).flatMap fun i => leBytes 8 (Tab.get (0 : W64) x.g (i + 1)).toNat

/-- The item's state that its hod slot keeps. -/
def Engine.savedWork (x : Engine) : Saved :=
  { numstat := x.numstat, contrib := x.contrib, flushes := x.flushes, spawns := x.spawns, undo := x.undo,
    itemCyc := x.itemCyc, failed := false }

/-- The module once the yielded item is saved and listed, and its engine released. -/
def State.yielded (s : State) (r : Run) (h : HodSlot) : State :=
  State.modEng (State.setHod ((s.writeLoc (.cs r.c (saveArea r.k)) (s.eng r.e).saveBytes).stamp (r.e / 32)).2 r.c r.k
    { h with status := .yielded (s.flagEngine r.e), stamp := (s.crs (r.e / 32)).arrivals, listed := r.e / 32,
             saved := some (s.eng r.e).savedWork }) r.e Engine.release

/-- What changes no hod slot of a course leaves every slot. -/
theorem State.hodSlot_modCrs {g : Course → Course} (hg : ∀ y, (g y).hod = y.hod) (s : State) (c0 c k : Nat) :
    (s.modCrs c0 g).hodSlot c k = s.hodSlot c k := by
  rw [State.hodSlot, State.crs_modCrs]
  split
  · rename_i h
    rw [h, hg]
    rfl
  · rfl

theorem State.hodSlot_stamp (s : State) (c0 c k : Nat) : (s.stamp c0).2.hodSlot c k = s.hodSlot c k :=
  State.hodSlot_modCrs (g := fun y => { y with arrivals := y.arrivals + 1 }) (fun _ => rfl) s c0 c k

theorem yieldBody_eq {h : HodSlot} (hd : f.d = 0) (ha : f.a = 0) (hb : f.b = 0) (hc : f.c = 0) (him : f.imm = 0)
    (hslot : u.hodSlot r.c r.k = some h) : yieldBody f r u = .ok ((u.yielded r h).choose r.e) := by
  have hfields := checkFields_of (f := f) (m := 0) (Use.ok_no hd) (Use.ok_no ha) (Use.ok_no hb) (Use.ok_no hc)
    (by rw [him]; rfl)
  have hslot' : ((u.writeLoc (.cs r.c (saveArea r.k)) (u.eng r.e).saveBytes).stamp (r.e / 32)).2.hodSlot r.c r.k =
      some h := (State.hodSlot_stamp _ _ _ _).trans hslot
  unfold yieldBody
  simp only [hfields, bind, Except.bind]
  change Except.ok (State.choose (State.modEng (match ((u.writeLoc (.cs r.c (saveArea r.k))
    (u.eng r.e).saveBytes).stamp (r.e / 32)).2.hodSlot r.c r.k with | some h => _ | none => _) _ _) _) = _
  rw [hslot']
  rfl

theorem State.hodSlot_yielded (s : State) (r : Run) (h : HodSlot) : (s.yielded r h).hodSlot r.c r.k =
    some { h with status := .yielded (s.flagEngine r.e), stamp := (s.crs (r.e / 32)).arrivals, listed := r.e / 32,
                  saved := some (s.eng r.e).savedWork } :=
  (State.hodSlot_setHod _ _ _ _ _ _).trans (if_pos ⟨rfl, rfl⟩)

/-- Of the stores, YIELD changes the save area only. -/
theorem State.yielded_frame (s : State) (r : Run) (h : HodSlot) : (s.yielded r h).ls = s.ls ∧
    (s.yielded r h).mem = s.mem ∧ (s.yielded r h).ctxs = s.ctxs ∧
    (s.yielded r h).cs = Mem.write s.cs (csKey r.c (saveArea r.k)) (s.eng r.e).saveBytes :=
  ⟨rfl, rfl, rfl, rfl⟩

theorem State.eng_yielded (s : State) (r : Run) (h : HodSlot) : (s.yielded r h).eng r.e = (s.eng r.e).release :=
  State.eng_modEng_self _ _ _
end

theorem flatMap_congr_range {α : Type} {n : Nat} {g h : Nat → List α} (hgh : ∀ i < n, g i = h i) :
    (List.range n).flatMap g = (List.range n).flatMap h :=
  List.flatMap_congr fun i hi => hgh i (List.mem_range.mp hi)

/-- The save area holds the registers as a program reads them. -/
theorem Engine.saveBytes_eq (x : Engine) : x.saveBytes = leBytes 8 x.pc ++ (List.range 63).flatMap fun i =>
    leBytes 8 (x.gr (BitVec.ofNat 6 (i + 1))).toNat := by
  rw [Engine.saveBytes]
  refine congrArg (leBytes 8 x.pc ++ ·) (flatMap_congr_range fun i hi => ?_)
  have hnat : (BitVec.ofNat 6 (i + 1)).toNat = i + 1 := by
    rw [BitVec.toNat_ofNat]
    omega
  have hne : BitVec.ofNat 6 (i + 1) ≠ 0 := fun h => by
    have h' := congrArg BitVec.toNat h
    rw [hnat] at h'
    exact absurd h' (by simp)
  rw [Engine.gr, if_neg hne, hnat]

/-- Settles O25: the state that YIELD leaves before its engine chooses again. -/
theorem yield : Obligations.Yield := by
  unfold Obligations.Yield
  intro s e f r h hi hd ha hb hc him hslot
  obtain rfl := hi.run_e
  obtain ⟨-, hact, -⟩ := State.mayIssue_run hi.2.1
  have hbody := yieldBody_eq (f := f) (r := r) (u := s.modEng r.e Engine.next) (h := h) hd ha hb hc him hslot
  obtain ⟨n, hn⟩ := issue_next hi rfl hbody
  have heng : (s.modEng r.e Engine.next).eng r.e = { s.eng r.e with pc := (s.eng r.e).pc + 8 } := by
    rw [State.eng_modEng_self, hi.next_eq]
  have hrel := (s.modEng r.e Engine.next).eng_yielded r h
  have hsaved := (s.modEng r.e Engine.next).hodSlot_yielded r h
  rw [heng] at hrel
  rw [State.flagEngine_next] at hsaved
  obtain ⟨hls, hmem, hctxs, hcs⟩ := (s.modEng r.e Engine.next).yielded_frame r h
  generalize (s.modEng r.e Engine.next).yielded r h = u at *
  refine ⟨u, _, hn, .inr rfl, ?_, ?_, hls, hmem, hctxs, ?_, ?_, ?_, ?_⟩
  · rw [hrel]
    rfl
  · rw [hrel]
    exact if_neg (by rw [hact]; decide)
  · rw [hsaved]
    rfl
  · rw [hsaved]
    rfl
  · rw [hsaved]
    rfl
  · have hgr : ∀ i, ({ s.eng r.e with pc := (s.eng r.e).pc + 8 } : Engine).gr i = (s.eng r.e).gr i := fun i => rfl
    rw [hcs, heng, Engine.saveBytes_eq]
    simp only [hgr]
    rfl

end Sys2Proof.Machine
end

section
/-!
SUPPORT. Pending slots, and SPAWN (R99, R104, R105).
-/
namespace Sys2Proof.Machine

/-! ## Pending slots are reserved (R105) -/

/-- A pending item as its slot holds it. -/
def State.pendingSlot (s : State) (d : ItemDesc) : HodSlot :=
  { desc := d, status := .pending, stamp := 0, listed := d.home, saved := none, limit := s.cfg.progressUs }

theorem Course.mem_freeSlots {x : Course} {k : Nat} (h : k ∈ x.freeSlots) : Tab.find? x.hod k = none :=
  Option.isNone_iff_eq_none.mp (List.mem_filter.mp h).2

/-- The lowest free slot, taken, leaves the others free. -/
theorem Course.freeSlots_set {x y : Course} {k : Nat} {l : List Nat} {v : HodSlot} (hfree : x.freeSlots = k :: l)
    (hy : y.hod = Tab.set x.hod k v) : y.freeSlots = l := by
  have hnodup : (k :: l).Nodup := hfree ▸ List.Nodup.filter _ List.nodup_range
  have hrest : y.freeSlots = (x.freeSlots).filter fun i => decide (i ≠ k) := by
    rw [Course.freeSlots, Course.freeSlots, List.filter_filter, hy]
    refine List.filter_congr fun i _ => ?_
    rw [Tab.find?_set]
    by_cases hik : i = k <;> simp [hik]
  rw [hrest, hfree, List.filter_cons_of_neg (by simp)]
  refine List.filter_eq_self.mpr fun i hi => decide_eq_true ?_
  rintro rfl
  exact (List.nodup_cons.mp hnodup).1 hi

section
variable (s : State) (c k : Nat) (x : HodSlot)

theorem State.hodSlot_occupy (c' k' : Nat) :
    (s.occupy c k x).hodSlot c' k' = if c' = c ∧ k' = k then some x else s.hodSlot c' k' :=
  (State.hodSlot_modCrs (g := fun y => { y with peak := max y.peak y.hod.length }) (fun _ => rfl) _ _ _ _).trans
    (State.hodSlot_setHod _ _ _ _ _ _)

theorem State.crs_occupy_ne {c' : Nat} (h : c' ≠ c) : (s.occupy c k x).crs c' = s.crs c' := by
  rw [State.occupy, State.crs_modCrs_ne _ _ h, State.setHod, State.crs_modCrs_ne _ _ h]

theorem State.freeSlots_occupy {l : List Nat} (hfree : (s.crs c).freeSlots = k :: l) :
    ((s.occupy c k x).crs c).freeSlots = l := by
  refine Course.freeSlots_set (v := x) hfree ?_
  rw [State.occupy, State.crs_modCrs_self, State.setHod, State.crs_modCrs_self]
end

/-- What reserving slots for items leaves. -/
structure Reserved (s : State) (ds : List ItemDesc) (t : State) (l : List (Nat × Nat)) : Prop where
  frame : t = { s with courses := t.courses }
  length : l.length = ds.length
  other : ∀ c k, (c, k) ∉ l → t.hodSlot c k = s.hodSlot c k
  free : ∀ x ∈ l, s.hodSlot x.1 x.2 = none
  slot : ∀ (i : Nat) (x : Nat × Nat), l[i]? = some x → ∃ d, ds[i]? = some d ∧ t.hodSlot x.1 x.2 = some (s.pendingSlot d)

/-- A hod with room for the items to come has a slot for the first, and room for the rest. -/
theorem State.roomFor_cons {s : State} {d : ItemDesc} {ds : List ItemDesc} (hroom : s.roomFor (d :: ds) = true) :
    ∃ k l, (s.crs d.home).freeSlots = k :: l ∧ (s.occupy d.home k (s.pendingSlot d)).roomFor ds = true := by
  have hcount : ∀ x ∈ d :: ds, ((d :: ds).countP fun y => y.home = x.home) ≤ (s.crs x.home).freeSlots.length :=
    fun x hx => of_decide_eq_true (List.all_eq_true.mp hroom x hx)
  have hhead := hcount d List.mem_cons_self
  rw [List.countP_cons_of_pos (by simp)] at hhead
  obtain ⟨k, l, hfree⟩ : ∃ k l, (s.crs d.home).freeSlots = k :: l := by
    cases hf : (s.crs d.home).freeSlots with
    | nil =>
      rw [hf] at hhead
      exact absurd hhead (by simp)
    | cons k l => exact ⟨k, l, rfl⟩
  refine ⟨k, l, hfree, List.all_eq_true.mpr fun x hx => decide_eq_true ?_⟩
  have hx' := hcount x (List.mem_cons_of_mem _ hx)
  by_cases hhome : d.home = x.home
  · rw [List.countP_cons_of_pos (by simpa using hhome), ← hhome, hfree, List.length_cons] at hx'
    rw [← hhome, s.freeSlots_occupy _ _ _ hfree]
    exact Nat.le_of_succ_le_succ hx'
  · rw [List.countP_cons_of_neg (by simpa using hhome)] at hx'
    rw [s.crs_occupy_ne _ _ _ (Ne.symm hhome)]
    exact hx'

theorem State.reserve_reserved : ∀ (ds : List ItemDesc) (s : State), s.roomFor ds = true →
    Reserved s ds (s.reserve ds).1 (s.reserve ds).2
  | [], s, _ => ⟨rfl, rfl, fun _ _ _ => rfl, fun _ h => absurd h (by simp [State.reserve]),
      fun _ _ h => absurd h (by simp [State.reserve])⟩
  | d :: ds, s, hroom => by
    obtain ⟨k, l, hfree, hrest⟩ := State.roomFor_cons hroom
    have heq : s.reserve (d :: ds) = (((s.occupy d.home k (s.pendingSlot d)).reserve ds).1,
        (d.home, k) :: ((s.occupy d.home k (s.pendingSlot d)).reserve ds).2) := by
      rw [State.reserve]
      simp only [hfree]
      rfl
    obtain ⟨hframe, hlen, hother, hfreed, hslot⟩ := State.reserve_reserved ds _ hrest
    have htaken := s.hodSlot_occupy d.home k (s.pendingSlot d)
    have hnew : ∀ x ∈ ((s.occupy d.home k (s.pendingSlot d)).reserve ds).2, x ≠ (d.home, k) := by
      rintro x hx rfl
      have hnone := hfreed _ hx
      rw [htaken, if_pos ⟨rfl, rfl⟩] at hnone
      exact absurd hnone (by simp)
    have hk : s.hodSlot d.home k = none := Course.mem_freeSlots (hfree ▸ List.mem_cons_self)
    rw [heq]
    refine ⟨hframe, by simp [hlen], fun c k' hmem => ?_, fun x hx => ?_, fun i x hi => ?_⟩
    · obtain ⟨hne, hmem⟩ := not_or.mp fun h => hmem (List.mem_cons.mpr h)
      refine (hother c k' hmem).trans ((htaken c k').trans (if_neg fun h => hne ?_))
      rw [h.1, h.2]
    · rcases List.mem_cons.mp hx with rfl | hx
      · exact hk
      · have hnone := hfreed x hx
        rw [htaken, if_neg fun h => hnew x hx (Prod.ext h.1 h.2)] at hnone
        exact hnone
    · cases i with
      | zero =>
        obtain rfl : (d.home, k) = x := Option.some.inj hi
        refine ⟨d, rfl, (hother _ _ fun h => hnew _ h rfl).trans ((htaken _ _).trans (if_pos ⟨rfl, rfl⟩))⟩
      | succ i => exact hslot i x hi

/-- The items spawned become pending spawns of the running item. -/
structure Spawned (s t : State) (e : Nat) (ds : List ItemDesc) (l : List (Nat × Nat)) : Prop where
  frame : t = { s with courses := t.courses, engines := t.engines }
  eng : t.eng e = { s.eng e with spawns := (s.eng e).spawns ++ l }
  length : l.length = ds.length
  slot : ∀ (i : Nat) (x : Nat × Nat), l[i]? = some x → ∃ d, ds[i]? = some d ∧ t.hodSlot x.1 x.2 = some (s.pendingSlot d)

theorem State.addSpawns_spawned {s : State} {ds : List ItemDesc} (e : Nat) (hroom : s.roomFor ds = true) :
    Spawned s (s.addSpawns e ds) e ds (s.reserve ds).2 := by
  obtain ⟨hframe, hlen, -, -, hslot⟩ := State.reserve_reserved ds s hroom
  have heng : ∀ e', (s.reserve ds).1.eng e' = s.eng e' := fun e' => by rw [hframe]; rfl
  refine ⟨?_, ?_, hlen, hslot⟩
  · have heq : s.addSpawns e ds = { (s.reserve ds).1 with engines := (s.addSpawns e ds).engines } := rfl
    exact heq.trans (by rw [hframe]; rfl)
  · exact (State.eng_modEng_self _ _ _).trans (by rw [heng])

/-! ## SPAWN (R99, R104, R105) -/

/-- The general registers of an engine after a write of `v` to gD. -/
def Returns (t : State) (x : Engine) (e : Nat) (d : BitVec 6) (v : W64) : Prop :=
  ∀ q : BitVec 6, (t.eng e).gr q = if q = 0 then 0 else if q = d then v else x.gr q

theorem returns_of {t : State} {x y : Engine} {e : Nat} {d : BitVec 6} {v : W64} (h : t.eng e = y.setG d v)
    (hg : y.g = x.g) : Returns t x e d v := fun q => by
  rw [h, Engine.gr_setG]
  simp only [Engine.gr, hg]

section
variable {f : Fields} {r : Run} {u : State}

theorem spawnBody_eq (hb : f.b = 0) (hc : f.c = 0) (him : f.imm = 0)
    (hspan : ((u.eng r.e).gr f.a).toNat + 64 ≤ 0x60000) : spawnBody f r u =
    (let b := u.lsRead r.e ((u.eng r.e).gr f.a).toNat 64
     let st := u.checkItem b r.part true r.d.eval
     let d := u.inherit r.d (itemDesc b)
     if st ≠ 0 then .ok (u.modEng r.e fun x => x.setG f.d (BitVec.ofNat 64 st))
     else if u.roomAfter r.e [d] = false then .ok ((u.spawnFull r.e).modEng r.e fun x => x.setG f.d 5)
     else .ok ((u.addSpawns r.e [d]).modEng r.e fun x => x.setG f.d 0)) := by
  have hfields := checkFields_of (f := f) (d := .any) (a := .any) (m := 0) rfl rfl (Use.ok_no hb) (Use.ok_no hc)
    (by rw [him]; rfl)
  simp only [spawnBody, spawnWith, hfields, bind, Except.bind, State.lsBytes_ok hspan (by decide), onEngine,
    Bool.not_eq_true']
  rfl

theorem State.roomFor_single (s : State) (d : ItemDesc) (h : (s.crs d.home).freeSlots = []) : s.roomFor [d] = false := by
  simp [State.roomFor, h]

theorem State.roomAfter_room {s : State} {e : Nat} {ds : List ItemDesc} (h : s.roomAfter e ds = true) :
    s.roomFor ds = true := (Bool.and_eq_true_iff.mp h).1

theorem State.reserve_single (s : State) (d : ItemDesc) {k : Nat} (h : (s.crs d.home).freeSlots.head? = some k) :
    (s.reserve [d]).2 = [(d.home, k)] := by
  rw [State.reserve]
  simp [State.reserve, List.headD_eq_head?_getD, h]
end

section
variable {s : State} {e : Nat} {f : Fields} {r : Run} {d : ItemDesc}

theorem exec_spawn_refused (hi : Issues s e 0x70 f r) {st : Nat}
    (hbody : spawnBody f r (s.modEng r.e Engine.next) =
      .ok ((s.modEng r.e Engine.next).modEng r.e fun x => x.setG f.d (BitVec.ofNat 64 st))) :
    ∃ t, exec (.spawn e f) s = .next t ∧ WritesG s t e f.d (BitVec.ofNat 64 st) ((s.eng e).pc + 8) := by
  obtain rfl := hi.run_e
  exact issue_writesG hi rfl (fun u hu => hu ▸ hbody) rfl

theorem exec_spawn_full (hi : Issues s r.e 0x70 f r) (hbody : spawnBody f r (s.modEng r.e Engine.next) =
      .ok (((s.modEng r.e Engine.next).spawnFull r.e).modEng r.e fun x => x.setG f.d 5)) :
    ∃ t, exec (.spawn r.e f) s = .next t ∧ Returns t (s.eng r.e) r.e f.d 5 ∧
      (t.crs (r.e / 32)).spawnFull = min ((s.crs (r.e / 32)).spawnFull + 1) (2 ^ 64 - 1) ∧
      (t.eng r.e).spawns = (s.eng r.e).spawns ∧ t.ls = s.ls ∧ t.cs = s.cs ∧ t.mem = s.mem := by
  obtain ⟨n, hn⟩ := issue_next hi rfl hbody
  have heng : (((s.modEng r.e Engine.next).spawnFull r.e).modEng r.e fun x => x.setG f.d 5).eng r.e =
      (s.eng r.e).next.setG f.d 5 := by
    refine (State.eng_modEng_self _ _ _).trans (congrArg (Engine.setG · _ _) ?_)
    exact State.eng_modEng_self _ _ _
  have hfull : (((s.modEng r.e Engine.next).spawnFull r.e).crs (r.e / 32)).spawnFull =
      satAdd 64 (s.crs (r.e / 32)).spawnFull 1 := congrArg Course.spawnFull (State.crs_modCrs_self _ _ _)
  refine ⟨_, hn, returns_of heng rfl, hfull, ?_, rfl, rfl, rfl⟩
  refine (congrArg Engine.spawns heng).trans ?_
  rw [Engine.setG_eq]
  rfl

theorem exec_spawn_placed (hi : Issues s r.e 0x70 f r) {k : Nat}
    (hroom : (s.modEng r.e Engine.next).roomAfter r.e [d] = true)
    (hk : (s.crs d.home).freeSlots.head? = some k)
    (hbody : spawnBody f r (s.modEng r.e Engine.next) =
      .ok (((s.modEng r.e Engine.next).addSpawns r.e [d]).modEng r.e fun x => x.setG f.d 0)) :
    ∃ t, exec (.spawn r.e f) s = .next t ∧ Returns t (s.eng r.e) r.e f.d 0 ∧
      (t.eng r.e).spawns = (s.eng r.e).spawns ++ [(d.home, k)] ∧ (t.eng r.e).pc = (s.eng r.e).pc + 8 ∧
      t.hodSlot d.home k = some (s.pendingSlot d) ∧
      t.ctxs = s.ctxs ∧ t.ls = s.ls ∧ t.cs = s.cs ∧ t.mem = s.mem := by
  obtain ⟨n, hn⟩ := issue_next hi rfl hbody
  obtain ⟨hframe, heng, -, hslot⟩ := State.addSpawns_spawned r.e (State.roomAfter_room hroom)
  rw [State.reserve_single (s.modEng r.e Engine.next) d hk] at heng hslot
  rw [State.eng_modEng_self, hi.next_eq] at heng
  generalize (s.modEng r.e Engine.next).addSpawns r.e [d] = u at *
  have heng' : (u.modEng r.e fun x => x.setG f.d 0).eng r.e = (u.eng r.e).setG f.d 0 := State.eng_modEng_self _ _ _
  have hput := (u.eng r.e).setG_eq f.d 0
  obtain ⟨d', hd', hslot'⟩ := hslot 0 (d.home, k) rfl
  obtain rfl : d = d' := Option.some.inj hd'
  refine ⟨_, hn, returns_of (y := u.eng r.e) heng' (by rw [heng]), ?_, ?_, hslot', ?_, ?_, ?_, ?_⟩
  · exact (congrArg Engine.spawns (heng'.trans hput)).trans (congrArg Engine.spawns heng)
  · exact (congrArg Engine.pc (heng'.trans hput)).trans (congrArg Engine.pc heng)
  all_goals
    rw [hframe]
    rfl

theorem exec_spawn (hi : Issues s e 0x70 f r) (hb : f.b = 0) (hc : f.c = 0) (him : f.imm = 0)
    (hspan : ((s.eng e).gr f.a).toNat + 64 ≤ 0x60000) :
    let b := s.lsRead e ((s.eng e).gr f.a).toNat 64
    let d := s.inherit r.d (itemDesc b)
    let st := s.checkItem b r.part true r.d.eval
    (st ≠ 0 → ∃ t, exec (.spawn e f) s = .next t ∧ WritesG s t e f.d (BitVec.ofNat 64 st) ((s.eng e).pc + 8)) ∧
    (st = 0 → ((s.crs d.home).freeSlots = [] ∨ (s.modEng e Engine.next).roomAfter e [d] = false) →
      ∃ t, exec (.spawn e f) s = .next t ∧ Returns t (s.eng e) e f.d 5 ∧
      (t.crs (e / 32)).spawnFull = min ((s.crs (e / 32)).spawnFull + 1) (2 ^ 64 - 1) ∧
      (t.eng e).spawns = (s.eng e).spawns ∧ t.ls = s.ls ∧ t.cs = s.cs ∧ t.mem = s.mem) ∧
    (∀ k, st = 0 → (s.crs d.home).freeSlots.head? = some k → (s.modEng e Engine.next).roomAfter e [d] = true →
      ∃ t, exec (.spawn e f) s = .next t ∧ Returns t (s.eng e) e f.d 0 ∧
      (t.eng e).spawns = (s.eng e).spawns ++ [(d.home, k)] ∧ (t.eng e).pc = (s.eng e).pc + 8 ∧
      t.hodSlot d.home k = some (s.pendingSlot d) ∧
      t.ctxs = s.ctxs ∧ t.ls = s.ls ∧ t.cs = s.cs ∧ t.mem = s.mem) := by
  obtain rfl := hi.run_e
  intro b d st
  have hgr : ((s.modEng r.e Engine.next).eng r.e).gr f.a = (s.eng r.e).gr f.a := by
    rw [State.eng_modEng_self, Engine.next_gr]
  have hbody := spawnBody_eq (f := f) (r := r) (u := s.modEng r.e Engine.next) hb hc him (by rw [hgr]; exact hspan)
  rw [hgr, State.lsRead_next] at hbody
  change spawnBody f r (s.modEng r.e Engine.next) =
    if st ≠ 0 then _ else if (s.modEng r.e Engine.next).roomAfter r.e [d] = false then _ else
      Except.ok (((s.modEng r.e Engine.next).addSpawns r.e [d]).modEng r.e fun x => x.setG f.d 0) at hbody
  refine ⟨fun hst => ?_, fun hst hfull => ?_, fun k hst hk hroom => ?_⟩
  · rw [if_pos hst] at hbody
    exact exec_spawn_refused hi hbody
  · have hnone : (s.modEng r.e Engine.next).roomAfter r.e [d] = false := by
      rcases hfull with hfree | hfull
      · rw [State.roomAfter, State.roomFor_single (s.modEng r.e Engine.next) d hfree, Bool.false_and]
      · exact hfull
    rw [if_neg (not_not.mpr hst), if_pos hnone] at hbody
    exact exec_spawn_full hi hbody
  · rw [if_neg (not_not.mpr hst), if_neg (by rw [hroom]; decide)] at hbody
    exact exec_spawn_placed hi hroom hk hbody
end

end Sys2Proof.Machine
end

section
/-!
SUPPORT. The entries and the records of a dispatch (R187 to R189, R192).
-/
namespace Sys2Proof.Machine

/-! ## The entries and the records of a dispatch (R187 to R189, R192) -/

theorem chunksAux_eq {α : Type} {n : Nat} (hn : 0 < n) : ∀ (k : Nat) (l : List α), l.length ≤ k →
    chunksAux n k l = (List.range ((l.length + n - 1) / n)).map fun i => (l.drop (n * i)).take n
  | 0, l, hk => by
    obtain rfl : l = [] := List.eq_nil_of_length_eq_zero (Nat.le_zero.mp hk)
    rw [List.length_nil, Nat.zero_add, Nat.div_eq_of_lt (by omega)]
    rfl
  | k + 1, l, hk => by
    rw [chunksAux]
    split
    · rename_i he
      obtain rfl : l = [] := List.isEmpty_iff.mp he
      rw [List.length_nil, Nat.zero_add, Nat.div_eq_of_lt (by omega)]
      rfl
    · rename_i he
      have hpos : 0 < l.length := List.length_pos_iff.mpr fun h => he (List.isEmpty_iff.mpr h)
      have hcount : (l.length + n - 1) / n = ((l.drop n).length + n - 1) / n + 1 := by
        rw [List.length_drop]
        rcases Nat.lt_or_ge l.length n with h | h
        · have hlast : l.length + n - 1 = (l.length - 1) + n := by omega
          rw [Nat.sub_eq_zero_of_le (Nat.le_of_lt h), Nat.zero_add, Nat.div_eq_of_lt (a := n - 1) (by omega), hlast,
            Nat.add_div_right _ hn, Nat.div_eq_of_lt (by omega)]
        · have hmore : l.length + n - 1 = (l.length - n + n - 1) + n := by omega
          rw [hmore, Nat.add_div_right _ hn]
      rw [chunksAux_eq hn k _ (by rw [List.length_drop]; omega), hcount, List.range_succ_eq_map, List.map_cons,
        List.map_map]
      refine congrArg _ (List.map_congr_left fun i _ => ?_)
      rw [List.drop_drop, Function.comp, Nat.mul_succ, Nat.add_comm]

theorem chunks_eq {α : Type} {n : Nat} (hn : 0 < n) (l : List α) :
    chunks n l = (List.range ((l.length + n - 1) / n)).map fun i => (l.drop (n * i)).take n :=
  chunksAux_eq hn _ l (Nat.le_refl _)

theorem zipIdx_map_range {α : Type} (g : Nat → α) (k n : Nat) :
    ((List.range k).map g).zipIdx n = (List.range k).map fun c => (g c, n + c) := by
  refine List.ext_getElem (by simp) fun i _ _ => ?_
  simp

namespace Dispatch
variable (d : Dispatch)

/-- The entries that chunk `c` of a route of `tot` entries takes. -/
def chunkSize (tot c : Nat) : Nat := min d.tok (tot - c * d.tok)

/-- The number of chunks of a route. -/
def chunkCount (tot : Nat) : Nat := (tot + d.tok - 1) / d.tok

/-- The record of the item numbered `x.2`, of a route, a chunk and its entries. -/
def out (l : Loc) (entries : Nat → List Byte) (x : (Nat × Nat × Nat) × Nat) : Loc × List Byte :=
  (l.add (x.2 * d.rs),
    d.record x.1.1 x.1.2.1 x.1.2.2 (((entries x.1.1).drop (8 * d.tok * x.1.2.1)).take (8 * x.1.2.2)))

/-- The records of one route, the first of number `n`. -/
def routeOuts (l : Loc) (n rt tot : Nat) (bs : List Byte) : List (Loc × List Byte) :=
  (List.range (d.chunkCount tot)).map fun c => (l.add ((n + c) * d.rs),
    d.record rt c (d.chunkSize tot c) ((bs.drop (8 * d.tok * c)).take (8 * d.chunkSize tot c)))

/-- The records of all routes, the first of number `n`. -/
def planOuts (l : Loc) (entries : Nat → List Byte) (n : Nat) (seqs : List (Nat × Nat × List (Nat × Nat))) :
    List (Loc × List Byte) := ((d.chunks seqs).zipIdx n).map (d.out l entries)

theorem planOuts_cons (l : Loc) (entries : Nat → List Byte) (n rt tot : Nat) (sub : List (Nat × Nat))
    (t : List (Nat × Nat × List (Nat × Nat))) : d.planOuts l entries n ((rt, tot, sub) :: t) =
      d.routeOuts l n rt tot (entries rt) ++ d.planOuts l entries (n + d.chunkCount tot) t := by
  have hroute : d.chunks ((rt, tot, sub) :: t) =
      ((List.range (d.chunkCount tot)).map fun c => (rt, c, d.chunkSize tot c)) ++ d.chunks t := List.flatMap_cons
  rw [planOuts, hroute, List.zipIdx_append, List.map_append, zipIdx_map_range, List.map_map, List.length_map,
    List.length_range]
  rfl

theorem record_length {rt c n : Nat} {bs : List Byte} (h : bs.length ≤ 8 * d.tok) : (d.record rt c n bs).length = d.rs := by
  simp only [record, List.length_append, leBytes_length, List.length_replicate, rs]
  omega

theorem length_planOuts (l : Loc) (entries : Nat → List Byte) (n : Nat) (seqs : List (Nat × Nat × List (Nat × Nat))) :
    (d.planOuts l entries n seqs).length = (d.chunks seqs).length := by
  simp [planOuts]

theorem chunkSize_le {seqs : List (Nat × Nat × List (Nat × Nat))} {x : Nat × Nat × Nat} (h : x ∈ d.chunks seqs) :
    x.2.2 ≤ d.tok := by
  obtain ⟨y, -, hy⟩ := List.mem_flatMap.mp h
  obtain ⟨c, -, rfl⟩ := List.mem_map.mp hy
  exact Nat.min_le_left _ _

/-- A record lies among those of the items. -/
theorem planOuts_within {l : Loc} {entries : Nat → List Byte} {seqs : List (Nat × Nat × List (Nat × Nat))}
    {w : Loc × List Byte} (h : w ∈ d.planOuts l entries 0 seqs) :
    ∃ m, w.1 = l.add m ∧ m + w.2.length ≤ (d.chunks seqs).length * d.rs := by
  obtain ⟨⟨x, i⟩, hx, rfl⟩ := List.mem_map.mp h
  obtain ⟨hi, hx⟩ := List.mem_zipIdx' hx
  have hsize : x.2.2 ≤ d.tok := d.chunkSize_le (by rw [hx]; exact List.getElem_mem hi)
  refine ⟨i * d.rs, rfl, ?_⟩
  rw [out, d.record_length (Nat.le_trans (List.length_take_le _ _) (Nat.mul_le_mul_left 8 hsize))]
  calc i * d.rs + d.rs = (i + 1) * d.rs := (Nat.succ_mul _ _).symm
    _ ≤ _ := Nat.mul_le_mul_right _ hi

/-- A route's chunks, as its records take them. -/
theorem foldl_routeRecords (htok : 0 < d.tok) (l : Loc) (n rt tot : Nat) {bs : List Byte} (hbs : bs.length = 8 * tot)
    (v : State) : (Machine.chunks (8 * d.tok) bs).zipIdx.foldl (fun s (b, c) =>
      s.storeLoc (l.add ((n + c) * d.rs)) (d.record rt c (b.length / 8) b)) v =
      v.storeAll (d.routeOuts l n rt tot bs) := by
  have hcount : (bs.length + 8 * d.tok - 1) / (8 * d.tok) = d.chunkCount tot := by
    rw [hbs, chunkCount, ← Nat.div_div_eq_div_mul]
    congr 1
    omega
  have htake : ∀ c, (bs.drop (8 * d.tok * c)).take (8 * d.tok) =
      (bs.drop (8 * d.tok * c)).take (8 * d.chunkSize tot c) := fun c => by
    have hc : 8 * d.tok * c = 8 * (c * d.tok) := by ring
    rw [List.take_eq_take_iff, List.length_drop, hbs, chunkSize, hc]
    omega
  have hlen : ∀ c, ((bs.drop (8 * d.tok * c)).take (8 * d.chunkSize tot c)).length / 8 = d.chunkSize tot c := fun c => by
    have hc : 8 * d.tok * c = 8 * (c * d.tok) := by ring
    rw [List.length_take, List.length_drop, hbs, chunkSize, hc]
    omega
  rw [chunks_eq (by omega), zipIdx_map_range, hcount, List.foldl_map, State.storeAll, routeOuts, List.foldl_map]
  simp only [htake, hlen, Nat.zero_add]
end Dispatch

/-- No engine has a copy outstanding. -/
def State.noCopies (s : State) : Prop := ∀ x ∈ s.engines, x.2.copies = []

theorem State.racyRead_quiet {s : State} (h : s.noCopies) (l : Loc) (n : Nat) : s.racyRead l n = s.fetchLoc l n := by
  have houts : (s.engines.flatMap fun (_, x) => x.copies.flatMap (·.outs)) = [] :=
    List.flatMap_eq_nil_iff.mpr fun x hx => (congrArg (List.flatMap CopyOp.outs) (h x hx)).trans rfl
  unfold State.racyRead
  simp only [houts]
  cases l <;> rfl

theorem State.fetchLoc_samePlaces (s : State) (l : Loc) (n : Nat) : SamePlaces s (s.fetchLoc l n).2 :=
  (s.fetchLoc_storeFrame l n).samePlaces (by simp)

theorem StoreFrame.noCopies {s t : State} (h : StoreFrame s t) (hs : s.noCopies) : t.noCopies := by
  rw [State.noCopies, h.frame]
  exact hs

/-- The entries of a route, while no copy is outstanding. -/
theorem State.readRoute_quiet (base : Loc) : ∀ (sub : List (Nat × Nat)) {s : State}, s.noCopies →
    (s.readRoute base sub).1 = (sub.flatMap fun x => s.readLoc (base.add x.1) (8 * x.2)) ∧
    StoreFrame s (s.readRoute base sub).2 ∧ SamePlaces s (s.readRoute base sub).2
  | [], s, _ => ⟨rfl, .refl s, .refl s⟩
  | (off, n) :: t, s, h => by
    have hsame := s.fetchLoc_samePlaces (base.add off) (8 * n)
    have hframe := s.fetchLoc_storeFrame (base.add off) (8 * n)
    obtain ⟨hbytes, hframe', hsame'⟩ := State.readRoute_quiet base t (hframe.noCopies h)
    have heq : s.readRoute base ((off, n) :: t) =
        ((s.fetchLoc (base.add off) (8 * n)).1 ++ ((s.fetchLoc (base.add off) (8 * n)).2.readRoute base t).1,
          ((s.fetchLoc (base.add off) (8 * n)).2.readRoute base t).2) := by
      rw [State.readRoute, State.racyRead_quiet h]
    rw [heq]
    refine ⟨?_, hframe.trans hframe', hsame.trans hsame'⟩
    rw [hbytes, List.flatMap_cons, State.fetchLoc_fst]
    simp only [hsame.readLoc]

/-- The records written, in a state with the same stores as one whose `good` form every record keeps, and in which every
route reads as its entries. -/
theorem State.writeRecords_samePlaces {d : Dispatch} (htok : 0 < d.tok) {list l : Loc} {entries : Nat → List Byte}
    {good : State → Prop} : ∀ (seqs : List (Nat × Nat × List (Nat × Nat))) (n : Nat) {u v : State}, SamePlaces u v →
    v.noCopies → good u →
    (∀ x ∈ seqs, (entries x.1).length = 8 * x.2.1 ∧
      ∀ u', good u' → (x.2.2.flatMap fun y => u'.readLoc (list.add y.1) (8 * y.2)) = entries x.1) →
    (∀ w ∈ d.planOuts l entries n seqs, ∀ u', good u' → good (u'.writeLoc w.1 w.2)) →
    SamePlaces ((d.planOuts l entries n seqs).foldl (fun u w => u.writeLoc w.1 w.2) u) (v.writeRecords d list l n seqs)
  | [], _, _, _, hsame, _, _, _, _ => hsame
  | (rt, tot, sub) :: t, n, u, v, hsame, hquiet, hgood, hread, hkeep => by
    obtain ⟨hlen, hentries⟩ := hread _ List.mem_cons_self
    obtain ⟨hbytes, hframe, hsame'⟩ := State.readRoute_quiet list sub hquiet
    have hbs : (v.readRoute list sub).1 = entries rt := by
      rw [hbytes, ← hentries u hgood]
      simp only [hsame.readLoc]
    have heq : v.writeRecords d list l n ((rt, tot, sub) :: t) =
        ((v.readRoute list sub).2.storeAll (d.routeOuts l n rt tot (entries rt))).writeRecords d list l
          (n + d.chunkCount tot) t := by
      rw [State.writeRecords]
      simp only [hbs]
      rw [d.foldl_routeRecords htok l n rt tot hlen]
      rfl
    rw [heq, Dispatch.planOuts_cons, List.foldl_append]
    rw [Dispatch.planOuts_cons] at hkeep
    have hstore := (v.readRoute list sub).2.storeAll_storeFrame (d.routeOuts l n rt tot (entries rt))
    have hgood' : good ((d.routeOuts l n rt tot (entries rt)).foldl (fun u w => u.writeLoc w.1 w.2) u) :=
      List.foldlRecOn _ _ hgood fun u' hu' w hw => hkeep w (List.mem_append_left _ hw) u' hu'
    exact State.writeRecords_samePlaces htok t (n + d.chunkCount tot)
      (SamePlaces.storeAll _ (hsame.trans hsame')) (hstore.noCopies (hframe.noCopies hquiet)) hgood'
      (fun x hx => hread x (List.mem_cons_of_mem _ hx)) (fun w hw => hkeep w (List.mem_append_right _ hw))
end Sys2Proof.Machine
end

section
/-!
SUPPORT. SPAWND: its plan, its items and its records (R185 to R192).
-/
namespace Sys2Proof.Machine

/-! ## SPAWND (R185 to R191) -/

section
variable {f : Fields} {r : Run} {u : State}

theorem spawndBody_eq (hb : f.b = 0) (hc : f.c = 0) (him : f.imm = 0)
    (hspan : ((u.eng r.e).gr f.a).toNat + 128 ≤ 0x60000)
    (hok : dispatchOk (u.lsRead r.e ((u.eng r.e).gr f.a).toNat 128) = true) : spawndBody f r u =
    (let b := u.lsRead r.e ((u.eng r.e).gr f.a).toNat 128
     let d := dispatchDesc b
     let ct := d.blocks * d.routes
     if ct = 0 ∨ d.cap = 0 then u.spawndRet r f 0 0
     else match u.inExtents r false d.list 0 (4 * ct), u.inExtents r false d.list d.e0 (8 * ct * d.cap) with
       | some l, some _ => (u.racyRead l (4 * ct)).2.spawndRun (State.roomAfter r.e) r f d ((b.drop 0x40).take 64) l
           ((chunks 4 (u.racyRead l (4 * ct)).1).map leNat)
       | _, _ => u.spawndRet r f 0 1) := by
  have hfields := checkFields_of (f := f) (d := .any) (a := .any) (m := 0) rfl rfl (Use.ok_no hb) (Use.ok_no hc)
    (by rw [him]; rfl)
  simp only [spawndBody, spawndWith, hfields, bind, Except.bind, State.lsBytes_ok hspan (by decide), hok,
    Bool.not_true, if_neg Bool.false_ne_true] <;> rfl

/-- The route sequences that have entries. -/
def Dispatch.busy (d : Dispatch) (counts : List Nat) : List (Nat × Nat × List (Nat × Nat)) :=
  (d.sequences counts).filter fun x => x.2.1 ≠ 0

/-- The items' descriptor bytes. -/
def Dispatch.items (d : Dispatch) (t : List Byte) (seqs : List (Nat × Nat × List (Nat × Nat))) : List (List Byte) :=
  (d.chunks seqs).zipIdx.map fun ((rt, c, n), i) => d.item t i rt c n

/-- The checks 3 to 6 of R190, for route sequences `seqs`. -/
structure PlanOk (u : State) (r : Run) (d : Dispatch) (t : List Byte) (counts : List Nat)
    (seqs : List (Nat × Nat × List (Nat × Nat))) (rec : Loc) : Prop where
  counts : ∀ n ∈ counts, n ≤ d.cap
  max : (d.chunks seqs).length ≤ d.maxItems
  affinity : ∀ x ∈ d.chunks seqs, d.affinity x.1 < 2048 ∧ u.engEnabled (d.affinity x.1) = true ∧ x.2.2 * d.outTok < 2 ^ 32
  records : u.inExtents r true d.records 0 ((d.chunks seqs).length * d.rs) = some rec
  items : ∀ x ∈ d.items t seqs, u.checkItem x r.part true r.d.eval = 0

/-- The plan of a dispatch whose checks pass. -/
theorem State.spawndPlan_ok {room : State → List ItemDesc → Bool} {d : Dispatch} {t : List Byte} {counts : List Nat}
    {rec : Loc} (hok : PlanOk u r d t counts (d.busy counts) rec)
    (hroom : room u ((d.items t (d.busy counts)).map fun x => u.inherit r.d (itemDesc x)) = true) :
    u.spawndPlan room r d t counts = .ok ⟨d.busy counts, some rec,
      (d.items t (d.busy counts)).map fun x => u.inherit r.d (itemDesc x)⟩ := by
  unfold State.spawndPlan
  rw [← Dispatch.busy]
  generalize d.busy counts = seqs at *
  obtain ⟨hcounts, hmax, haff, hrec, hitems⟩ := hok
  have hcap : ¬ (counts.any fun n => decide (n > d.cap)) = true := by
    rw [List.any_eq_true]
    rintro ⟨n, hn, hgt⟩
    exact absurd (hcounts n hn) (Nat.not_le_of_gt (of_decide_eq_true hgt))
  have hbad : ((d.chunks seqs).any fun (rt, _, n) => !(decide (d.affinity rt < 2048) && u.engEnabled (d.affinity rt)) ||
      decide (n * d.outTok ≥ 2 ^ 32)) = false := List.any_eq_false.mpr fun x hx => by
    obtain ⟨h1, h2, h3⟩ := haff x hx
    dsimp only
    rw [decide_eq_true h1, h2, decide_eq_false (Nat.not_le_of_gt h3)]
    decide
  have hfit : ¬ (decide ((d.chunks seqs).length > d.maxItems) || (d.chunks seqs).any fun (rt, _, n) =>
      !(decide (d.affinity rt < 2048) && u.engEnabled (d.affinity rt)) || decide (n * d.outTok ≥ 2 ^ 32)) = true := by
    rw [hbad, Bool.or_false, decide_eq_true_eq]
    exact Nat.not_lt.mpr hmax
  have hnone : ((d.items t seqs).map fun b => u.checkItem b r.part true r.d.eval).find? (fun x => decide (x ≠ 0)) =
      none := List.find?_eq_none.mpr fun st hst => by
    obtain ⟨x, hx, rfl⟩ := List.mem_map.mp hst
    simp [hitems x hx]
  dsimp only
  rw [if_neg hcap, if_neg hfit, hrec, ← Dispatch.items]
  dsimp only
  rw [hnone]
  dsimp only
  rw [hroom]
  rfl
end

/-- The module once a dispatch is accepted: its records written, its items spawned, and their number returned. -/
def State.dispatched (s : State) (r : Run) (g : BitVec 6) (d : Dispatch) (list rec : Loc)
    (seqs : List (Nat × Nat × List (Nat × Nat))) (ds : List ItemDesc) : State :=
  ((((s.writeRecords d list rec 0 seqs).addSpawns r.e ds).modCrs (r.e / 32) fun y =>
    { y with dispatch := satAdd 64 y.dispatch ds.length }).modEng r.e fun x => x.setG g (BitVec.ofNat 64 ds.length))

theorem State.spawndRun_ok {s : State} {room : State → List ItemDesc → Bool} {r : Run} {f : Fields} {d : Dispatch}
    {t : List Byte} {list rec : Loc} {counts : List Nat} {seqs : List (Nat × Nat × List (Nat × Nat))}
    {ds : List ItemDesc} (hplan : s.spawndPlan room r d t counts = .ok ⟨seqs, some rec, ds⟩) :
    s.spawndRun room r f d t list counts = .ok (s.dispatched r f.d d list rec seqs ds) := by
  simp only [State.spawndRun, hplan, State.planRecords, List.take_length, State.spawndRet, if_pos, onEngine,
    Nat.zero_mul, Nat.zero_add]
  rfl

theorem Engine.setG_spawns (x : Engine) (d : BitVec 6) (v : W64) : (x.setG d v).spawns = x.spawns := by
  rw [Engine.setG_eq]

/-- What an accepted dispatch leaves, given what its records leave. -/
structure Dispatched (s v t : State) (r : Run) (g : BitVec 6) (ds : List ItemDesc) (l : List (Nat × Nat)) : Prop where
  frame : t = { v with engines := t.engines, courses := t.courses }
  eng : t.eng r.e = ({ s.eng r.e with spawns := (s.eng r.e).spawns ++ l } : Engine).setG g (BitVec.ofNat 64 ds.length)
  length : l.length = ds.length
  slot : ∀ (i : Nat) (x : Nat × Nat), l[i]? = some x → ∃ d, ds[i]? = some d ∧ t.hodSlot x.1 x.2 = some (v.pendingSlot d)

theorem State.dispatched_left {s : State} {r : Run} {d : Dispatch} {list rec : Loc}
    {seqs : List (Nat × Nat × List (Nat × Nat))} {ds : List ItemDesc} (g : BitVec 6)
    (hframe : StoreFrame s (s.writeRecords d list rec 0 seqs)) (hroom : s.roomFor ds = true) :
    ∃ l, Dispatched s (s.writeRecords d list rec 0 seqs) (s.dispatched r g d list rec seqs ds) r g ds l := by
  unfold State.dispatched
  generalize s.writeRecords d list rec 0 seqs = v at *
  have hroom' : v.roomFor ds = true := by
    rw [hframe.frame]
    exact hroom
  have heng : v.eng r.e = s.eng r.e := by rw [hframe.frame]; rfl
  obtain ⟨hspawn, hspawns, hlen, hslot⟩ := State.addSpawns_spawned r.e hroom'
  rw [heng] at hspawns
  refine ⟨_, ?_, ?_, hlen, fun i x hx => ?_⟩
  · generalize v.addSpawns r.e ds = w at *
    rw [hspawn]
    rfl
  · refine (State.eng_modEng_self _ _ _).trans ?_
    rw [State.eng_modCrs, hspawns]
  · obtain ⟨d', hd', hs⟩ := hslot i x hx
    refine ⟨d', hd', Eq.trans ?_ hs⟩
    exact State.hodSlot_modCrs (g := fun y => { y with dispatch := satAdd 64 y.dispatch ds.length }) (fun _ => rfl) _ _ _ _

/-- What a dispatch reads of its route lists: the entries of route `rt`. -/
def State.routeEntries (s : State) (d : Dispatch) (list : Loc) (counts : List Nat) (rt : Nat) : List Byte :=
  (List.range d.blocks).flatMap fun g => s.readLoc (list.add (d.e0 + 8 * ((g * d.routes + rt) * d.cap)))
    (8 * counts.getD (g * d.routes + rt) 0)

/-- The route lists lie within the entries of the list. -/
theorem Dispatch.entry_within {d : Dispatch} {counts : List Nat} (hcounts : ∀ n ∈ counts, n ≤ d.cap) {g rt : Nat}
    (hg : g < d.blocks) (hrt : rt < d.routes) :
    d.e0 + 8 * ((g * d.routes + rt) * d.cap) + 8 * counts.getD (g * d.routes + rt) 0 ≤
      d.e0 + 8 * (d.blocks * d.routes) * d.cap := by
  have hcount : counts.getD (g * d.routes + rt) 0 ≤ d.cap := by
    rw [List.getD_eq_getElem?_getD]
    cases hget : counts[g * d.routes + rt]? with
    | none => exact Nat.zero_le _
    | some n => exact hcounts n (List.mem_of_getElem? hget)
  have hindex : g * d.routes + rt + 1 ≤ d.blocks * d.routes :=
    calc g * d.routes + rt + 1 ≤ g * d.routes + d.routes := Nat.add_le_add_left hrt _
      _ = (g + 1) * d.routes := (Nat.succ_mul _ _).symm
      _ ≤ _ := Nat.mul_le_mul_right _ hg
  have hspan := Nat.mul_le_mul_right d.cap hindex
  rw [Nat.succ_mul] at hspan
  have hassoc : 8 * (d.blocks * d.routes) * d.cap = 8 * (d.blocks * d.routes * d.cap) := by ring
  omega

/-- A route sequence of a dispatch reads as its entries, wherever the entries of the list read as before. -/
theorem Dispatch.busy_reads {d : Dispatch} {counts : List Nat} (hcounts : ∀ n ∈ counts, n ≤ d.cap) {s u : State}
    {list : Loc} (hsame : ∀ off n, d.e0 ≤ off → off + n ≤ d.e0 + 8 * (d.blocks * d.routes) * d.cap →
      u.readLoc (list.add off) n = s.readLoc (list.add off) n) {x : Nat × Nat × List (Nat × Nat)}
    (hx : x ∈ d.busy counts) :
    (s.routeEntries d list counts x.1).length = 8 * x.2.1 ∧
    (x.2.2.flatMap fun y => u.readLoc (list.add y.1) (8 * y.2)) = s.routeEntries d list counts x.1 := by
  obtain ⟨rt, hrt, rfl⟩ := List.mem_map.mp (List.mem_filter.mp hx).1
  have hrt' : rt < d.routes := List.mem_range.mp hrt
  refine ⟨?_, ?_⟩
  · simp only [State.routeEntries, List.length_flatMap, State.readLoc_length, List.map_map]
    exact List.sum_map_mul_left (List.range d.blocks) (fun g => counts.getD (g * d.routes + rt) 0) 8
  · rw [List.flatMap_map, State.routeEntries]
    exact flatMap_congr_range fun g hg => hsame _ _ (Nat.le_add_right _ _) (Dispatch.entry_within hcounts hg hrt')

/-! ## A dispatch leaves local store, and writes its records -/

theorem State.storeLoc_ls {l : Loc} (hl : ∀ e off, l ≠ .ls e off) (s : State) (bs : List Byte) :
    (s.storeLoc l bs).ls = s.ls := by
  obtain ⟨hls, -, -⟩ := State.stores_split (s.storeLoc_stores l bs)
  rw [hls]
  cases l with
  | ls e off => exact absurd rfl (hl e off)
  | cs c off => rfl
  | pier a => exact s.writePier_ls a bs

theorem Loc.add_ne_ls {l : Loc} (hl : ∀ e off, l ≠ .ls e off) (n : Nat) : ∀ e off, l.add n ≠ .ls e off := by
  cases l with
  | ls e off => exact absurd rfl (hl e off)
  | cs c off => exact fun _ _ h => Loc.noConfusion h
  | pier a => exact fun _ _ h => Loc.noConfusion h

/-- RECORDS of an accepted descriptor stands in course store or pier. -/
theorem records_ne_ls {b : List Byte} (hok : dispatchOk b = true) {s : State} {r : Run} {n : Nat} {rec : Loc}
    (hrec : s.inExtents r true (dispatchDesc b).records 0 n = some rec) : ∀ e off, rec ≠ .ls e off := by
  have hspace : (dispatchDesc b).records.toNat / 2 ^ 62 = 1 ∨ (dispatchDesc b).records.toNat / 2 ^ 62 = 2 := by
    simp only [dispatchOk, Bool.and_eq_true, Bool.or_eq_true, beq_iff_eq] at hok
    exact hok.1.1.1.1.1.1.1.2
  obtain ⟨-, rfl⟩ : True ∧ rec = (eaLoc r.e r.c (dispatchDesc b).records).add 0 := by
    rw [State.inExtents] at hrec
    split at hrec
    · exact absurd hrec (by simp)
    · dsimp only at hrec
      split at hrec
      · exact ⟨trivial, (Option.some.inj hrec).symm⟩
      · exact absurd hrec (by simp)
  refine Loc.add_ne_ls (fun e off => ?_) 0
  rw [eaLoc]
  rcases hspace with h | h
  · rw [h]
    exact fun h => Loc.noConfusion h
  · rw [h]
    exact fun h => Loc.noConfusion h

/-- Records, written while no copy is outstanding, leave local store as it is. -/
theorem State.writeRecords_frame {d : Dispatch} {list l : Loc} (hl : ∀ e off, l ≠ .ls e off) :
    ∀ (seqs : List (Nat × Nat × List (Nat × Nat))) (n : Nat) {v : State}, v.noCopies →
      StoreFrame v (v.writeRecords d list l n seqs) ∧ (v.writeRecords d list l n seqs).ls = v.ls
  | [], _, v, _ => ⟨.refl v, rfl⟩
  | (rt, tot, sub) :: t, n, v, hquiet => by
    obtain ⟨-, hread, hsame⟩ := State.readRoute_quiet list sub hquiet
    obtain ⟨hls, -, -⟩ := State.stores_split hsame.stores
    rw [State.writeRecords]
    generalize v.readRoute list sub = b at *
    have hstore : StoreFrame b.2 ((Machine.chunks (8 * d.tok) b.1).zipIdx.foldl (fun s x =>
        s.storeLoc (l.add ((n + x.2) * d.rs)) (d.record rt x.2 (x.1.length / 8) x.1)) b.2) :=
      StoreFrame.foldl (fun s x => s.storeLoc_storeFrame _ _) _ _
    have hkept : ((Machine.chunks (8 * d.tok) b.1).zipIdx.foldl (fun s x =>
        s.storeLoc (l.add ((n + x.2) * d.rs)) (d.record rt x.2 (x.1.length / 8) x.1)) b.2).ls = b.2.ls :=
      List.foldlRecOn (motive := fun w => w.ls = b.2.ls) _ _ rfl fun w hw x _ =>
        (State.storeLoc_ls (Loc.add_ne_ls hl _) w _).trans hw
    obtain ⟨hframe, hrest⟩ := State.writeRecords_frame hl t (n + (tot + d.tok - 1) / d.tok)
      ((hread.trans hstore).noCopies hquiet)
    exact ⟨(hread.trans hstore).trans hframe, hrest.trans (hkept.trans hls)⟩

/-- What a record, written, must keep of a state: its map, the form of its stores, and the entries of the list. -/
structure ListKept (s : State) (d : Dispatch) (list : Loc) (u : State) : Prop where
  cfg : u.cfg = s.cfg
  gen : u.gen = s.gen
  cs : Memory.wf u.cs = true
  mem : Memory.wf u.mem = true
  reads : ∀ off n, d.e0 ≤ off → off + n ≤ d.e0 + 8 * (d.blocks * d.routes) * d.cap →
    u.readLoc (list.add off) n = s.readLoc (list.add off) n

theorem State.wf_writeLoc_cs_mem {u : State} (hc : Memory.wf u.cs = true) (hm : Memory.wf u.mem = true) (l : Loc)
    (bs : List Byte) : Memory.wf (u.writeLoc l bs).cs = true ∧ Memory.wf (u.writeLoc l bs).mem = true := by
  cases l with
  | ls e off => exact ⟨hc, hm⟩
  | cs c off => exact ⟨Mem.wf_write hc _ _, hm⟩
  | pier a => exact ⟨by rw [State.writeLoc, State.writePier_cs]; exact hc, State.wf_writePier hm a bs⟩

theorem ListKept.write {s u : State} {d : Dispatch} {list l : Loc} {bs : List Byte} (h : ListKept s d list u)
    (hkeep : ∀ off n, d.e0 ≤ off → off + n ≤ d.e0 + 8 * (d.blocks * d.routes) * d.cap →
      (u.writeLoc l bs).readLoc (list.add off) n = u.readLoc (list.add off) n) :
    ListKept s d list (u.writeLoc l bs) := by
  obtain ⟨hc, hm⟩ := State.wf_writeLoc_cs_mem h.cs h.mem l bs
  exact ⟨by rw [State.writeLoc_eq]; exact h.cfg, by rw [State.writeLoc_eq]; exact h.gen, hc, hm,
    fun off n h1 h2 => (hkeep off n h1 h2).trans (h.reads off n h1 h2)⟩

/-! ## SPAWND as it issues -/

section
variable {s : State} {e : Nat} {f : Fields} {r : Run}

theorem Tab.mem_of_find? {α : Type} {t : Tab α} {k : Nat} {v : α} (h : Tab.find? t k = some v) : (k, v) ∈ t := by
  induction t with
  | nil => exact absurd h (by simp)
  | cons x t ih =>
    rw [Tab.find?] at h
    split at h
    · rename_i hk
      rw [← hk, ← Option.some.inj h]
      exact List.mem_cons_self
    · exact List.mem_cons_of_mem _ (ih h)

theorem Tab.mem_of_mem_put {α : Type} [DecidableEq α] {d : α} {t : Tab α} {k : Nat} {v : α} {x : Nat × α}
    (h : x ∈ Tab.put d t k v) : x = (k, v) ∨ x ∈ t := by
  rw [Tab.put] at h
  split at h
  · rw [Tab.erase, List.mem_append, Tab.mem_below, Tab.mem_from] at h
    exact .inr (h.elim (·.1) (·.1))
  · rw [Tab.set, List.mem_append, List.mem_cons, Tab.mem_below, Tab.mem_from] at h
    rcases h with h | h | h
    · exact .inr h.1
    · exact .inl h
    · exact .inr h.1

theorem State.noCopies_next (h : s.noCopies) : (s.modEng e Engine.next).noCopies := by
  intro x hx
  have hcopies : (s.eng e).next.copies = [] := by
    change (s.eng e).copies = []
    rw [State.eng, Tab.get]
    cases hf : Tab.find? s.engines e with
    | none => rfl
    | some y => exact h _ (Tab.mem_of_find? hf)
  rcases Tab.mem_of_mem_put hx with rfl | hx
  · exact hcopies
  · exact h x hx

theorem exec_spawnd_empty (hi : Issues s r.e 0x71 f r)
    (hbody : spawndBody f r (s.modEng r.e Engine.next) = (s.modEng r.e Engine.next).spawndRet r f 0 0) :
    ∃ t, exec (.spawnd r.e f) s = .next t ∧ Returns t (s.eng r.e) r.e f.d 0 ∧
      (t.eng r.e).spawns = (s.eng r.e).spawns := by
  have hbody' : spawndBody f r (s.modEng r.e Engine.next) = .ok (((s.modEng r.e Engine.next).modCrs (r.e / 32) fun y =>
      { y with dispatch := satAdd 64 y.dispatch 0 }).modEng r.e fun x => x.setG f.d 0) := hbody
  obtain ⟨n, hn⟩ := issue_next hi rfl hbody'
  have heng : (((s.modEng r.e Engine.next).modCrs (r.e / 32) fun y =>
      { y with dispatch := satAdd 64 y.dispatch 0 }).modEng r.e fun x => x.setG f.d 0).eng r.e =
      (s.eng r.e).next.setG f.d 0 :=
    (State.eng_modEng_self _ _ _).trans (congrArg (Engine.setG · _ _) (State.eng_modEng_self _ _ _))
  exact ⟨_, hn, returns_of heng rfl, (congrArg Engine.spawns heng).trans (Engine.setG_spawns _ _ _)⟩
/-- The state in which a dispatch makes its checks from 3 on: the counts of its lists read. -/
theorem State.counted_frame (s : State) (e : Nat) (l : Loc) (n : Nat) : ∃ E M D P,
    ((s.modEng e Engine.next).fetchLoc l n).2 = { s with engines := E, mcs := M, doms := D, pwr := P } ∧
    SamePlaces s ((s.modEng e Engine.next).fetchLoc l n).2 := by
  have hframe := (s.modEng e Engine.next).fetchLoc_storeFrame l n
  have hsame := (s.modEng e Engine.next).fetchLoc_samePlaces l n
  obtain ⟨hls, hcs, hmem⟩ := State.stores_split hsame.stores
  refine ⟨(s.modEng e Engine.next).engines, ((s.modEng e Engine.next).fetchLoc l n).2.mcs,
    ((s.modEng e Engine.next).fetchLoc l n).2.doms, ((s.modEng e Engine.next).fetchLoc l n).2.pwr,
    hframe.frame.trans ?_, ⟨hsame.stores, hsame.gen, hsame.cfg⟩⟩
  rw [hls, hcs, hmem]
  rfl

theorem PlanOk.of_frame {s u : State} {d : Dispatch} {t : List Byte} {counts : List Nat}
    {seqs : List (Nat × Nat × List (Nat × Nat))} {rec : Loc} (h : PlanOk s r d t counts seqs rec)
    (hu : ∃ E M D P, u = { s with engines := E, mcs := M, doms := D, pwr := P }) : PlanOk u r d t counts seqs rec := by
  obtain ⟨E, M, D, P, rfl⟩ := hu
  exact ⟨h.counts, h.max, h.affinity, h.records, h.items⟩

/-- The records of a dispatch, as R188 and R189 place them. -/
theorem exec_spawnd_accepted (hi : Issues s r.e 0x71 f r) (hquiet : s.noCopies) {b : List Byte}
    (hok : dispatchOk b = true) {counts : List Nat} {list rec : Loc}
    (hplan : PlanOk s r (dispatchDesc b) ((b.drop 0x40).take 64) counts ((dispatchDesc b).busy counts) rec)
    {ds : List ItemDesc} (hds : ((dispatchDesc b).items ((b.drop 0x40).take 64) ((dispatchDesc b).busy counts)).map
      (fun x => s.inherit r.d (itemDesc x)) = ds) {n : Nat}
    (hroom : ((s.modEng r.e Engine.next).fetchLoc list n).2.roomAfter r.e ds = true)
    (hbody : spawndBody f r (s.modEng r.e Engine.next) = ((s.modEng r.e Engine.next).fetchLoc list n).2.spawndRun
      (State.roomAfter r.e) r f (dispatchDesc b) ((b.drop 0x40).take 64) list counts) :
    ∃ t, exec (.spawnd r.e f) s = .next t ∧ Returns t (s.eng r.e) r.e f.d (BitVec.ofNat 64 ds.length) ∧
      (t.eng r.e).spawns.length = (s.eng r.e).spawns.length + ds.length ∧
      (t.eng r.e).spawns.take (s.eng r.e).spawns.length = (s.eng r.e).spawns ∧
      (∀ (i : Nat) (x : Nat × Nat), (t.eng r.e).spawns[(s.eng r.e).spawns.length + i]? = some x →
        (t.hodSlot x.1 x.2).map (·.desc) = ds[i]? ∧ (t.hodSlot x.1 x.2).map (·.status) = some .pending) ∧
      t.ctxs = s.ctxs ∧ t.ls = s.ls ∧
      (ListKept s (dispatchDesc b) list s →
        (∀ (u : State) (m : Nat) (bs : List Byte) (off n : Nat), u.cfg = s.cfg → u.gen = s.gen →
          Memory.wf u.cs = true → Memory.wf u.mem = true →
          m + bs.length ≤ ((dispatchDesc b).chunks ((dispatchDesc b).busy counts)).length * (dispatchDesc b).rs →
          (dispatchDesc b).e0 ≤ off → off + n ≤
            (dispatchDesc b).e0 + 8 * ((dispatchDesc b).blocks * (dispatchDesc b).routes) * (dispatchDesc b).cap →
          (u.writeLoc (rec.add m) bs).readLoc (list.add off) n = u.readLoc (list.add off) n) →
        SamePlaces (((dispatchDesc b).planOuts rec (s.routeEntries (dispatchDesc b) list counts) 0
          ((dispatchDesc b).busy counts)).foldl (fun u w => u.writeLoc w.1 w.2) s) t) := by
  obtain ⟨E, M, D, P, hu, hsame⟩ := s.counted_frame r.e list n
  have hquiet' := ((s.modEng r.e Engine.next).fetchLoc_storeFrame list n).noCopies (State.noCopies_next hquiet)
  have heng : ((s.modEng r.e Engine.next).fetchLoc list n).2.eng r.e = { s.eng r.e with pc := (s.eng r.e).pc + 8 } := by
    rw [State.eng, ((s.modEng r.e Engine.next).fetchLoc_storeFrame list n).frame]
    exact (State.eng_modEng_self _ _ _).trans hi.next_eq
  generalize ((s.modEng r.e Engine.next).fetchLoc list n).2 = u at *
  have hds' : ((dispatchDesc b).items ((b.drop 0x40).take 64) ((dispatchDesc b).busy counts)).map
      (fun x => u.inherit r.d (itemDesc x)) = ds := by rw [← hds, hu]; rfl
  have hrun := State.spawndRun_ok (f := f) (list := list) (State.spawndPlan_ok (room := State.roomAfter r.e)
    (hplan.of_frame ⟨E, M, D, P, hu⟩) (by rw [hds']; exact hroom))
  rw [hds'] at hrun
  have hrec := records_ne_ls hok hplan.records
  obtain ⟨hframe, hls⟩ := State.writeRecords_frame (d := dispatchDesc b) (list := list) hrec
    ((dispatchDesc b).busy counts) 0 hquiet'
  obtain ⟨k, hk⟩ := issue_next hi rfl (hbody.trans hrun)
  have hplaces := State.writeRecords_samePlaces (d := dispatchDesc b) (list := list) (l := rec) (u := s) (v := u)
    (entries := s.routeEntries (dispatchDesc b) list counts) (good := ListKept s (dispatchDesc b) list)
    (by
      simp only [dispatchOk, Bool.and_eq_true, decide_eq_true_eq] at hok
      omega) ((dispatchDesc b).busy counts) 0 hsame hquiet'
  clear hrun
  obtain ⟨l, hmod, heng', hlen, hslot⟩ := State.dispatched_left (r := r) f.d hframe (State.roomAfter_room hroom)
  generalize u.dispatched r f.d (dispatchDesc b) list rec ((dispatchDesc b).busy counts) ds = t at hk hmod heng' hslot
  generalize u.writeRecords (dispatchDesc b) list rec 0 ((dispatchDesc b).busy counts) = v at hframe hls hplaces hmod hslot
  rw [heng] at heng'
  have hspawns : (t.eng r.e).spawns = (s.eng r.e).spawns ++ l := by rw [heng', Engine.setG_spawns]
  refine ⟨_, hk, returns_of heng' rfl, ?_, ?_, fun i x hx => ?_, ?_, ?_, fun hgood hkeep => ?_⟩
  · exact (congrArg List.length hspawns).trans (by rw [List.length_append, hlen])
  · exact (congrArg (List.take _) hspawns).trans List.take_left
  · have hx' : (t.eng r.e).spawns[(s.eng r.e).spawns.length + i]? = some x := hx
    rw [hspawns, List.getElem?_append_right (Nat.le_add_right _ _), Nat.add_sub_cancel_left] at hx'
    obtain ⟨d, hd, hs⟩ := hslot i x hx'
    exact ⟨(congrArg (Option.map _) hs).trans hd.symm, congrArg (Option.map _) hs⟩
  · rw [hmod, hframe.frame, hu]
  · rw [hmod]
    exact hls.trans (by rw [hu])
  · have hv := hplaces hgood (fun x hx => ⟨(Dispatch.busy_reads hplan.counts hgood.reads hx).1, fun u' hu' =>
      (Dispatch.busy_reads hplan.counts hu'.reads hx).2⟩) fun w hw u' hu' => by
        obtain ⟨m, hm, hfit⟩ := Dispatch.planOuts_within _ hw
        rw [hm]
        exact hu'.write fun off n h1 h2 => hkeep u' m w.2 off n hu'.cfg hu'.gen hu'.cs hu'.mem hfit h1 h2
    rw [hmod]
    exact ⟨hv.stores, hv.gen, hv.cfg⟩
end

/-- The body of a SPAWND whose descriptor is accepted, past the reading of its descriptor. -/
theorem spawndBody_next {s : State} {f : Fields} {r : Run} (hb : f.b = 0) (hc : f.c = 0) (him : f.imm = 0)
    (hspan : ((s.eng r.e).gr f.a).toNat + 128 ≤ 0x60000) {b : List Byte}
    (hbytes : b = s.lsRead r.e ((s.eng r.e).gr f.a).toNat 128) (hok : dispatchOk b = true) (hquiet : s.noCopies) :
    ((dispatchDesc b).blocks * (dispatchDesc b).routes = 0 ∨ (dispatchDesc b).cap = 0 →
      spawndBody f r (s.modEng r.e Engine.next) = (s.modEng r.e Engine.next).spawndRet r f 0 0) ∧
    (∀ ct list last, (dispatchDesc b).blocks * (dispatchDesc b).routes = ct → ct ≠ 0 → (dispatchDesc b).cap ≠ 0 →
      s.inExtents r false (dispatchDesc b).list 0 (4 * ct) = some list →
      s.inExtents r false (dispatchDesc b).list (dispatchDesc b).e0 (8 * ct * (dispatchDesc b).cap) = some last →
      spawndBody f r (s.modEng r.e Engine.next) = ((s.modEng r.e Engine.next).fetchLoc list (4 * ct)).2.spawndRun
        (State.roomAfter r.e) r f (dispatchDesc b) ((b.drop 0x40).take 64) list
        ((chunks 4 (s.readLoc list (4 * ct))).map leNat)) := by
  have hgr : ((s.modEng r.e Engine.next).eng r.e).gr f.a = (s.eng r.e).gr f.a := by
    rw [State.eng_modEng_self, Engine.next_gr]
  have hread : (s.modEng r.e Engine.next).lsRead r.e (((s.modEng r.e Engine.next).eng r.e).gr f.a).toNat 128 = b := by
    rw [hgr, State.lsRead_next, hbytes]
  have hbody := spawndBody_eq (f := f) (r := r) (u := s.modEng r.e Engine.next) hb hc him (by rw [hgr]; exact hspan)
    (by rw [hread]; exact hok)
  simp only [hread] at hbody
  refine ⟨fun hempty => ?_, fun ct list last hct hne hcap hlist hlast => ?_⟩
  · rw [if_pos hempty] at hbody
    exact hbody
  · have hlist' : (s.modEng r.e Engine.next).inExtents r false (dispatchDesc b).list 0 (4 * ct) = some list := hlist
    have hlast' : (s.modEng r.e Engine.next).inExtents r false (dispatchDesc b).list (dispatchDesc b).e0
      (8 * ct * (dispatchDesc b).cap) = some last := hlast
    rw [hct, if_neg (not_or.mpr ⟨hne, hcap⟩), hlist', hlast'] at hbody
    dsimp only at hbody
    rw [State.racyRead_quiet (State.noCopies_next hquiet), State.fetchLoc_fst] at hbody
    exact hbody

/-- Settles O24: SPAWN, and SPAWND with its records route by route. -/
theorem spawns : Obligations.Spawns := by
  unfold Obligations.Spawns
  refine ⟨fun s e f r hi hb hc him hspan => exec_spawn hi hb hc him hspan, ?_⟩
  intro s e f r hi hb hc him hspan hquiet b d ct hok
  obtain rfl := hi.run_e
  obtain ⟨hempty, hfull⟩ := spawndBody_next hb hc him hspan (b := b) rfl hok hquiet
  refine ⟨fun hnone => exec_spawnd_empty hi (hempty hnone), ?_⟩
  intro hct hcap list last rec hlist hlast counts chs items ds hcounts hmax haff hrec hitems hroom
  have hbody := hfull ct list last rfl hct hcap hlist hlast
  have hplan : PlanOk s r d ((b.drop 0x40).take 64) counts (d.busy counts) rec :=
    ⟨hcounts, hmax, haff, hrec, hitems⟩
  rw [State.racyRead_quiet (State.noCopies_next hquiet)] at hroom
  obtain ⟨t, ht, hret, hlen, htake, hslot, hctxs, hls, hplaces⟩ :=
    exec_spawnd_accepted hi hquiet hok hplan (ds := ds) rfl hroom hbody
  refine ⟨t, ht, hret, hlen, htake, hslot, hctxs, hls, fun hwc hwm hkeep => ?_⟩
  have hsame := hplaces ⟨rfl, rfl, hwc, hwm, fun _ _ _ _ => rfl⟩ hkeep
  intro entries u
  have hu : ((d.planOuts rec (s.routeEntries d list counts) 0 (d.busy counts)).foldl
      (fun u w => u.writeLoc w.1 w.2) s) = u := List.foldl_map
  rw [hu] at hsame
  exact ⟨(State.stores_split hsame.stores).2.1, (State.stores_split hsame.stores).2.2⟩

end Sys2Proof.Machine
end

section
/-!
SUPPORT. Items become ready: their slots, contexts and counts (R102, R117, R244).
-/
namespace Sys2Proof.Machine

/-! ## Spawned items become ready (R102 step 4) -/

/-- Two states of an engine that differ in recorded faults only. -/
def Engine.SameWork (x y : Engine) : Prop :=
  y = { x with faultValid := y.faultValid, faultCode := y.faultCode, faultOpc := y.faultOpc, faultOver := y.faultOver,
               faultPc := y.faultPc, faultAddr := y.faultAddr }

theorem Engine.SameWork.refl (x : Engine) : x.SameWork x := rfl

theorem Engine.SameWork.trans {x y z : Engine} (h : x.SameWork y) (k : y.SameWork z) : x.SameWork z := by
  have hswap : ∀ a b c d e f, ({ y with faultValid := a, faultCode := b, faultOpc := c, faultOver := d, faultPc := e,
                                        faultAddr := f } : Engine) =
      { x with faultValid := a, faultCode := b, faultOpc := c, faultOver := d, faultPc := e, faultAddr := f } :=
    fun a b c d e f => by rw [h]
  exact Eq.trans k (hswap _ _ _ _ _ _)

theorem Engine.faulted_sameWork (x : Engine) (code opc : BitVec 8) (pc : Nat) (a : W64) :
    x.SameWork (x.faulted code opc pc a) := by
  unfold Engine.faulted
  split
  · rfl
  · rfl

/-- What readying items leaves as it was. -/
structure ReadyFrame (s t : State) : Prop where
  frame : t = { s with courses := t.courses, engines := t.engines, ctxs := t.ctxs, parts := t.parts, doms := t.doms,
                       pwr := t.pwr, setNow := t.setNow }
  eng : ∀ e, (s.eng e).SameWork (t.eng e)
  rslot : ∀ c r, t.rslot c r = s.rslot c r
  desc : ∀ c k, (t.hodSlot c k).map (·.desc) = (s.hodSlot c k).map (·.desc)
  numstat : ∀ n, (t.ctx n).numstat = (s.ctx n).numstat
  finished : ∀ n, (t.ctx n).finished = (s.ctx n).finished
  awake : ∀ c, t.courseAwake c = s.courseAwake c

theorem ReadyFrame.refl (s : State) : ReadyFrame s s :=
  ⟨rfl, fun _ => rfl, fun _ _ => rfl, fun _ _ => rfl, fun _ => rfl, fun _ => rfl, fun _ => rfl⟩

theorem ReadyFrame.trans {s t u : State} (h : ReadyFrame s t) (k : ReadyFrame t u) : ReadyFrame s u where
  frame := by
    have hswap : ∀ a b c d e f g, { t with courses := a, engines := b, ctxs := c, parts := d, doms := e, pwr := f,
                                           setNow := g } =
        { s with courses := a, engines := b, ctxs := c, parts := d, doms := e, pwr := f, setNow := g } :=
      fun a b c d e f g => by rw [h.frame]
    exact k.frame.trans (hswap _ _ _ _ _ _ _)
  eng e := (h.eng e).trans (k.eng e)
  rslot c r := (k.rslot c r).trans (h.rslot c r)
  desc c i := (k.desc c i).trans (h.desc c i)
  numstat n := (k.numstat n).trans (h.numstat n)
  finished n := (k.finished n).trans (h.finished n)
  awake c := (k.awake c).trans (h.awake c)

theorem WakesOnly.readyFrame {s t : State} (h : WakesOnly s t) : ReadyFrame s t where
  frame := h.frame.trans (by rw [h.frame])
  eng e := by rw [h.eng]; rfl
  rslot c r := by rw [State.rslot, h.crs, ← State.rslot]
  desc c k := by rw [State.hodSlot, h.crs, ← State.hodSlot]
  numstat n := by rw [h.frame]; rfl
  finished n := by rw [h.frame]; rfl
  awake := h.awake

theorem State.recordFault_sameWork (s : State) (o : Nat) (code opc : BitVec 8) (pc : Nat) (a : W64) (e : Nat) :
    (s.eng e).SameWork ((s.recordFault o code opc pc a).eng e) := by
  rw [State.recordFault_eq, State.eng_stick, State.eng_modEng]
  split
  · rename_i h
    rw [h]
    exact (s.eng o).faulted_sameWork code opc pc a
  · rfl

theorem Ctx.faulted_counts (code opc : BitVec 8) (e : Nat) (seq : W32) (x : Ctx) :
    (x.faulted code opc e seq).numstat = x.numstat ∧ (x.faulted code opc e seq).finished = x.finished := by
  unfold Ctx.faulted
  split
  · exact ⟨rfl, rfl⟩
  · exact ⟨rfl, rfl⟩

theorem State.ctxFault_counts (s : State) (c : Nat) (code opc : BitVec 8) (e : Nat) (seq : W32) (n : Nat) :
    ((s.ctxFault c code opc e seq).ctx n).numstat = (s.ctx n).numstat ∧
    ((s.ctxFault c code opc e seq).ctx n).finished = (s.ctx n).finished := by
  rw [State.ctxFault_eq, State.ctx_modCtx]
  split
  · rename_i h
    rw [h]
    exact Ctx.faulted_counts code opc e seq (s.ctx c)
  · exact ⟨rfl, rfl⟩

/-- The engines and contexts that an LS_DEP item leaves when it comes to an orphan. -/
theorem State.orphanLs_tables {s : State} {o : Nat} {d : ItemDesc} (h : d.lsDep = true) :
    (s.orphanLs o d).engines = (s.recordFault o faultOrphanLs 0 0 0).engines ∧
    (s.orphanLs o d).ctxs = ((s.recordFault o faultOrphanLs 0 0 0).ctxFault d.ctx faultOrphanLs 0 o d.seq).ctxs := by
  unfold State.orphanLs
  rw [h, Bool.not_true, if_neg Bool.false_ne_true]
  dsimp only
  split
  · exact ⟨rfl, rfl⟩
  · exact ⟨rfl, rfl⟩

theorem State.orphanLs_readyFrame (s : State) (o : Nat) (d : ItemDesc) : ReadyFrame s (s.orphanLs o d) := by
  cases h : d.lsDep with
  | false =>
    rw [State.orphanLs_free _ _ _ h]
    exact .refl s
  | true =>
    have hhalt := (s.orphanLs_haltFrame o d).frame
    obtain ⟨hengines, hctxs⟩ := State.orphanLs_tables (s := s) (o := o) h
    have hcounts := (s.recordFault o faultOrphanLs 0 0 0).ctxFault_counts d.ctx faultOrphanLs 0 o d.seq
    refine ⟨hhalt.trans (by rw [hhalt]), fun e => ?_, fun c r => ?_, fun c k => ?_, fun n => ?_, fun n => ?_, fun c => ?_⟩
    · rw [State.eng_of_engines hengines]
      exact s.recordFault_sameWork o faultOrphanLs 0 0 0 e
    · rw [hhalt]; rfl
    · rw [hhalt]; rfl
    · rw [State.ctx, hctxs]
      exact (hcounts n).1
    · rw [State.ctx, hctxs]
      exact (hcounts n).2
    · rw [hhalt]; rfl

theorem State.rslot_modCrs {g : Course → Course} (hg : ∀ y, (g y).rslots = y.rslots) (s : State) (c0 c r : Nat) :
    (s.modCrs c0 g).rslot c r = s.rslot c r := by
  rw [State.rslot, State.crs_modCrs]
  split
  · rename_i h
    rw [h, hg]
    rfl
  · rfl

section
variable (s : State) (c k : Nat) (x : HodSlot)

theorem State.readied_hodSlot_of (c' k' : Nat) :
    (s.readied c k x).hodSlot c' k' = if c' = c ∧ k' = k then some (s.readySlot c x) else s.hodSlot c' k' := by
  have hcount := State.hodSlot_modCrs (g := fun y => { y with hodIn := satAdd 64 y.hodIn 1 }) (fun _ => rfl)
    ((s.stamp c).2.setHod c k (s.readySlot c x)) c c' k'
  exact hcount.trans ((State.hodSlot_setHod _ _ _ _ _ _).trans (by rw [State.hodSlot_stamp]))

theorem State.readied_ctx_of (n : Nat) : (s.readied c k x).ctx n = if n = x.desc.ctx then
    { s.ctx n with placed := satAdd 64 (s.ctx n).placed 1, live := (s.ctx n).live + 1 } else s.ctx n := by
  split
  · rename_i h
    rw [h, State.readied_ctx]
  · rename_i h
    exact State.ctx_modCtx_ne _ _ h

theorem State.readied_rslot (c' r : Nat) : (s.readied c k x).rslot c' r = s.rslot c' r := by
  have h1 := State.rslot_modCrs (g := fun y => { y with hodIn := satAdd 64 y.hodIn 1 }) (fun _ => rfl)
    ((s.stamp c).2.setHod c k (s.readySlot c x)) c c' r
  have h2 := State.rslot_modCrs (g := fun y => { y with hod := Tab.set y.hod k (s.readySlot c x) }) (fun _ => rfl)
    (s.stamp c).2 c c' r
  have h3 := State.rslot_modCrs (g := fun y => { y with arrivals := y.arrivals + 1 }) (fun _ => rfl) s c c' r
  exact h1.trans (h2.trans h3)

theorem State.readied_frame : s.readied c k x =
    { s with courses := (s.readied c k x).courses, ctxs := (s.readied c k x).ctxs } := by
  rw [State.readied]
  have hv : (((s.stamp c).2.setHod c k (s.readySlot c x)).modCrs c fun y => { y with hodIn := satAdd 64 y.hodIn 1 }) =
      { s with courses := (((s.stamp c).2.setHod c k (s.readySlot c x)).modCrs c fun y =>
        { y with hodIn := satAdd 64 y.hodIn 1 }).courses } := rfl
  generalize (((s.stamp c).2.setHod c k (s.readySlot c x)).modCrs c fun y =>
    { y with hodIn := satAdd 64 y.hodIn 1 }) = v at hv ⊢
  have hplaced : v.ctxPlaced x.desc.ctx = { v with ctxs := (v.ctxPlaced x.desc.ctx).ctxs } := rfl
  generalize v.ctxPlaced x.desc.ctx = w at hplaced ⊢
  rw [hplaced, hv]

variable {s c k x}

theorem State.readied_readyFrame (h : s.hodSlot c k = some x) : ReadyFrame s (s.readied c k x) := by
  have hframe := s.readied_frame c k x
  refine ⟨hframe.trans (by rw [hframe]), fun _ => by rw [hframe]; rfl, fun c' r => s.readied_rslot c k x c' r,
    fun c' k' => ?_, fun n => ?_, fun n => ?_, fun _ => by rw [hframe]; rfl⟩
  · rw [State.readied_hodSlot_of]
    split
    · rename_i hck
      rw [hck.1, hck.2, h]
      rfl
    · rfl
  · rw [State.readied_ctx_of]
    split
    · rfl
    · rfl
  · rw [State.readied_ctx_of]
    split
    · rfl
    · rfl

theorem State.makeReady_readyFrame (s : State) (c k : Nat) : ReadyFrame s (s.makeReady c k) := by
  cases h : s.hodSlot c k with
  | none =>
    have heq : s.makeReady c k = s := by
      unfold State.makeReady
      rw [h]
    rw [heq]
    exact .refl s
  | some x =>
    have hwoken := (State.readied_readyFrame h).trans ((s.readied c k x).requestWake_wakesOnly c).readyFrame
    rw [State.makeReady_eq h]
    split
    · exact hwoken.trans (State.orphanLs_readyFrame _ _ _)
    · exact hwoken
end

/-- What a hod slot holds of an item: its descriptor, its status and where it is listed. -/
def State.slotView (s : State) (c k : Nat) : Option (ItemDesc × SlotStatus × Nat) :=
  (s.hodSlot c k).map fun x => (x.desc, x.status, x.listed)

/-- The slots and the counts of live items that a readied item leaves. -/
theorem State.makeReady_effect {s : State} {c k : Nat} {x : HodSlot} (h : s.hodSlot c k = some x) :
    (∀ c' k', (s.makeReady c k).slotView c' k' =
      if c' = c ∧ k' = k then some (x.desc, .ready, c) else s.slotView c' k') ∧
    ∀ n, ((s.makeReady c k).ctx n).live = (s.ctx n).live + if x.desc.ctx = n then 1 else 0 := by
  have hview : ∀ c' k', (s.readied c k x).slotView c' k' =
      if c' = c ∧ k' = k then some (x.desc, .ready, c) else s.slotView c' k' := fun c' k' => by
    rw [State.slotView, State.readied_hodSlot_of]
    split
    · rfl
    · rfl
  have hlive : ∀ n, ((s.readied c k x).ctx n).live = (s.ctx n).live + if x.desc.ctx = n then 1 else 0 := fun n => by
    rw [State.readied_ctx_of]
    by_cases hn : n = x.desc.ctx
    · rw [if_pos hn, if_pos hn.symm]
    · rw [if_neg hn, if_neg fun h => hn h.symm]
      rfl
  have hwake := (s.readied c k x).requestWake_wakesOnly c
  have hview' : ∀ c' k', ((s.readied c k x).requestWake c).slotView c' k' = (s.readied c k x).slotView c' k' :=
    fun c' k' => by rw [State.slotView, State.hodSlot, hwake.crs, ← State.hodSlot, ← State.slotView]
  have hlive' : ∀ n, ((s.readied c k x).requestWake c).ctx n = (s.readied c k x).ctx n := fun n => by
    rw [State.ctx, hwake.frame]
    rfl
  rw [State.makeReady_eq h]
  split
  · have hhalt := ((s.readied c k x).requestWake c).orphanLs_haltFrame x.desc.affinity x.desc
    refine ⟨fun c' k' => ?_, fun n => ?_⟩
    · rw [← hview, ← hview', State.slotView, State.hodSlot, hhalt.frame]
      rfl
    · rw [(hhalt.ctx n).2, hlive', hlive]
  · exact ⟨fun c' k' => by rw [hview', hview], fun n => by rw [hlive', hlive]⟩

/-- The items in slots `l` become ready, in turn. -/
def State.readyAll (s : State) (l : List (Nat × Nat)) : State := l.foldl (fun s p => s.makeReady p.1 p.2) s

/-- What a slot holds of a context. -/
def State.holds (s : State) (n : Nat) (y : Nat × Nat) : Bool := (s.hodSlot y.1 y.2).any fun h => decide (h.desc.ctx = n)

theorem ReadyFrame.holds {s t : State} (h : ReadyFrame s t) (n : Nat) (y : Nat × Nat) : t.holds n y = s.holds n y := by
  have hany : ∀ o : Option HodSlot, (o.any fun h => decide (h.desc.ctx = n)) =
      (o.map (·.desc)).any fun d => decide (d.ctx = n) := fun o => by cases o <;> rfl
  rw [State.holds, State.holds, hany, hany, h.desc]

theorem State.readyAll_live (n : Nat) : ∀ (l : List (Nat × Nat)) (s : State),
    ReadyFrame s (s.readyAll l) ∧ ((s.readyAll l).ctx n).live = (s.ctx n).live + l.countP (s.holds n)
  | [], s => ⟨.refl s, rfl⟩
  | y :: l, s => by
    have hfirst := s.makeReady_readyFrame y.1 y.2
    obtain ⟨hframe, hlive⟩ := State.readyAll_live n l (s.makeReady y.1 y.2)
    refine ⟨hfirst.trans hframe, ?_⟩
    have hsame : (s.makeReady y.1 y.2).holds n = s.holds n := funext fun z => hfirst.holds n z
    have hone : ((s.makeReady y.1 y.2).ctx n).live = (s.ctx n).live + if s.holds n y then 1 else 0 := by
      rw [State.holds]
      cases h : s.hodSlot y.1 y.2 with
      | none =>
        have heq : s.makeReady y.1 y.2 = s := by
          unfold State.makeReady
          rw [h]
        rw [heq]
        rfl
      | some x => simpa using (State.makeReady_effect h).2 n
    rw [State.readyAll, List.foldl_cons, ← State.readyAll, hlive, hone, hsame, List.countP_cons]
    omega

/-- Every item readied stands ready in its slot. -/
theorem State.readyAll_ready : ∀ (l : List (Nat × Nat)) (s : State) (y : Nat × Nat) (d : ItemDesc),
    (y ∈ l ∧ (s.hodSlot y.1 y.2).map (·.desc) = some d) ∨ s.slotView y.1 y.2 = some (d, .ready, y.1) →
    (s.readyAll l).slotView y.1 y.2 = some (d, .ready, y.1)
  | [], _, _, _, h => h.elim (fun h => absurd h.1 (by simp)) id
  | z :: l, s, y, d, h => by
    refine State.readyAll_ready l (s.makeReady z.1 z.2) y d ?_
    have hdesc : (s.hodSlot y.1 y.2).map (·.desc) = some d := by
      rcases h with h | h
      · exact h.2
      · have hmap : (s.hodSlot y.1 y.2).map (·.desc) = (s.slotView y.1 y.2).map (·.1) := by
          rw [State.slotView, Option.map_map]
          rfl
        rw [hmap, h]
        rfl
    by_cases hzy : z = y
    · subst hzy
      obtain ⟨x, hx, hd⟩ := Option.map_eq_some_iff.mp hdesc
      refine .inr (((State.makeReady_effect hx).1 _ _).trans ?_)
      rw [if_pos ⟨rfl, rfl⟩, hd]
    · rcases h with h | h
      · refine .inl ⟨(List.mem_cons.mp h.1).resolve_left fun h' => hzy h'.symm, ?_⟩
        exact ((s.makeReady_readyFrame z.1 z.2).desc _ _).trans hdesc
      · refine .inr ?_
        cases hz : s.hodSlot z.1 z.2 with
        | none =>
          have heq : s.makeReady z.1 z.2 = s := by
            unfold State.makeReady
            rw [hz]
          rw [heq]
          exact h
        | some x =>
          rw [(State.makeReady_effect hz).1, if_neg fun hyz => hzy (Prod.ext hyz.1.symm hyz.2.symm)]
          exact h
end Sys2Proof.Machine
end

section
/-!
SUPPORT. The end of an item that commits (R102 steps 4 to 6).
-/
namespace Sys2Proof.Machine

/-! ## The end of an item that commits (R102 steps 4 to 6) -/

/-- DONE of an item, when it has one. -/
def State.itemDone (s : State) (d : ItemDesc) : State :=
  if d.doneValid then s.flagAdd d.doneEngine d.doneFlag 1 else s

/-- Spawned items ready, numeric status ORed into the context, and DONE raised. -/
def State.itemClosing (v : State) (r : Run) : State :=
  ((v.readyAll (v.eng r.e).spawns).modCtx r.d.ctx fun c =>
    { c with numstat := c.numstat ||| (v.eng r.e).numstat }).itemDone r.d

/-- The engine lets go of an item that has finished. -/
def Engine.finishes (numstat : BitVec 3) (y : Engine) : Engine :=
  { y.release with numstatReg := y.numstatReg ||| numstat, finished := satAdd 64 y.finished 1 }

/-- The sticky bits of an item's numeric status. -/
def itemSticky (r : Run) (numstat : BitVec 3) : List Sticky :=
  (statusBits numstat).flatMap fun i => [.engNumstat r.e i, .ctxNumstat r.d.ctx i]

/-- The engine has let go of the item, its slot is free, and its context has counted it. -/
def State.itemLeft (w : State) (r : Run) (numstat : BitVec 3) : State :=
  (((w.stick (itemSticky r numstat)).modEng r.e (Engine.finishes numstat)).freeHod r.c r.k).ctxDone r.d.ctx true

/-- The module once an item has committed, before its engine chooses again. -/
def State.itemEnded (v : State) (r : Run) : State := (v.itemClosing r).itemLeft r (v.eng r.e).numstat

/-- What the closing of an item leaves. -/
structure Closing (v w : State) (r : Run) : Prop where
  stores : w.stores = v.stores
  eng : ∀ e, ∃ y, (v.eng e).SameWork y ∧ w.eng e = { y with flags := (w.eng e).flags }
  rslot : ∀ c n, w.rslot c n = v.rslot c n
  numstat : (w.ctx r.d.ctx).numstat = (v.ctx r.d.ctx).numstat ||| (v.eng r.e).numstat
  finished : (w.ctx r.d.ctx).finished = (v.ctx r.d.ctx).finished
  live : (w.ctx r.d.ctx).live = (v.ctx r.d.ctx).live + (v.eng r.e).spawns.countP (v.holds r.d.ctx)
  ready : ∀ y ∈ (v.eng r.e).spawns, ∀ h, v.hodSlot y.1 y.2 = some h →
    w.slotView y.1 y.2 = some (h.desc, .ready, y.1)
  flags : ∀ e' f', w.flagVal e' f' = if r.d.doneValid = true ∧ v.courseAwake (r.d.doneEngine / 32) = true ∧
    e' = r.d.doneEngine ∧ f' = r.d.doneFlag then v.flagVal e' f' + 1 else v.flagVal e' f'

theorem State.itemDone_flagFrame (s : State) (d : ItemDesc) : FlagFrame s (s.itemDone d) := by
  unfold State.itemDone
  split
  · exact s.flagAdd_flagFrame _ _ _
  · exact .refl s

theorem State.flagVal_itemDone (s : State) (d : ItemDesc) (e' f' : Nat) : (s.itemDone d).flagVal e' f' =
    if d.doneValid = true ∧ s.courseAwake (d.doneEngine / 32) = true ∧ e' = d.doneEngine ∧ f' = d.doneFlag then
      s.flagVal e' f' + 1 else s.flagVal e' f' := by
  unfold State.itemDone
  obtain ⟨hup, hheld⟩ := s.flagAdd_raised d.doneEngine d.doneFlag 1
  cases hv : d.doneValid with
  | false => simp
  | true =>
    cases ha : s.courseAwake (d.doneEngine / 32) with
    | true =>
      rw [if_pos rfl, hup ha]
      simp only [true_and]
    | false =>
      rw [if_pos rfl, (hheld ha).2.1]
      simp

theorem State.itemClosing_closing (v : State) (r : Run) : Closing v (v.itemClosing r) r := by
  obtain ⟨hready, hlive⟩ := State.readyAll_live r.d.ctx (v.eng r.e).spawns v
  have hview := State.readyAll_ready (v.eng r.e).spawns v
  rw [State.itemClosing]
  generalize v.readyAll (v.eng r.e).spawns = w at *
  have hctx := State.ctx_modCtx_self w r.d.ctx fun c => { c with numstat := c.numstat ||| (v.eng r.e).numstat }
  have hsame : ∀ e, (w.modCtx r.d.ctx fun c => { c with numstat := c.numstat ||| (v.eng r.e).numstat }).eng e =
      w.eng e := fun e => rfl
  have hother : (w.modCtx r.d.ctx fun c => { c with numstat := c.numstat ||| (v.eng r.e).numstat }) =
      { w with ctxs := (w.modCtx r.d.ctx fun c => { c with numstat := c.numstat ||| (v.eng r.e).numstat }).ctxs } := rfl
  generalize (w.modCtx r.d.ctx fun c => { c with numstat := c.numstat ||| (v.eng r.e).numstat }) = x at *
  have hflag := x.itemDone_flagFrame r.d
  have hval := x.flagVal_itemDone r.d
  have hxv : ∀ e f, x.flagVal e f = v.flagVal e f := fun e f => by
    rw [State.flagVal, hsame, hready.eng e]
    rfl
  have hxa : ∀ c, x.courseAwake c = v.courseAwake c := fun c => by
    rw [hother]
    exact hready.awake c
  have hxc : (x.itemDone r.d).ctx r.d.ctx = x.ctx r.d.ctx := by
    rw [State.ctx, hflag.frame]
    rfl
  refine ⟨?_, fun e => ⟨w.eng e, hready.eng e, ?_⟩, fun c n => ?_, ?_, ?_, ?_, fun y hy h hh => ?_, fun e' f' => ?_⟩
  · rw [hflag.frame, hother, hready.frame]
    rfl
  · rw [hflag.eng, hsame]
  · rw [hflag.rslot, hother]
    exact hready.rslot c n
  · rw [hxc, hctx, hready.numstat]
  · rw [hxc, hctx]
    exact hready.finished _
  · rw [hxc, hctx]
    exact hlive
  · rw [State.slotView, hflag.hodSlot, hother]
    exact hview y h.desc (.inl ⟨hy, by rw [hh]; rfl⟩)
  · rw [hval, hxa, hxv]

/-- What a committed item leaves before its engine chooses again. -/
structure ItemEnded (v u : State) (r : Run) : Prop where
  item : (u.eng r.e).item = none
  act : (u.eng r.e).act = .idle
  slot : u.hodSlot r.c r.k = none
  stores : u.stores = v.stores
  rslot : ∀ c n, u.rslot c n = v.rslot c n
  finished : (u.eng r.e).finished = satAdd 64 (v.eng r.e).finished 1
  numstatReg : (u.eng r.e).numstatReg = (v.eng r.e).numstatReg ||| (v.eng r.e).numstat
  ctxNumstat : (u.ctx r.d.ctx).numstat = (v.ctx r.d.ctx).numstat ||| (v.eng r.e).numstat
  ctxFinished : (u.ctx r.d.ctx).finished = satAdd 64 (v.ctx r.d.ctx).finished 1
  ctxLive : (u.ctx r.d.ctx).live = (v.ctx r.d.ctx).live + (v.eng r.e).spawns.countP (v.holds r.d.ctx) - 1
  ready : ∀ y ∈ (v.eng r.e).spawns, y ≠ (r.c, r.k) → ∀ h, v.hodSlot y.1 y.2 = some h →
    u.slotView y.1 y.2 = some (h.desc, .ready, y.1)
  flags : ∀ e' f', u.flagVal e' f' = if r.d.doneValid = true ∧ v.courseAwake (r.d.doneEngine / 32) = true ∧
    e' = r.d.doneEngine ∧ f' = r.d.doneFlag then v.flagVal e' f' + 1 else v.flagVal e' f'

theorem State.itemEnded_ended {v : State} {r : Run} (hact : (v.eng r.e).act ≠ .disabled) :
    ItemEnded v (v.itemEnded r) r := by
  obtain ⟨hstores, heng, hrslot, hnumstat, hfinished, hlive, hready, hflags⟩ := v.itemClosing_closing r
  rw [State.itemEnded]
  generalize v.itemClosing r = w at *
  obtain ⟨y, hy, hw⟩ := heng r.e
  have hself : (w.itemLeft r (v.eng r.e).numstat).eng r.e =
      Engine.finishes (v.eng r.e).numstat (w.eng r.e) := State.eng_modEng_self _ _ _
  have hwork : w.eng r.e = { v.eng r.e with
      faultValid := y.faultValid, faultCode := y.faultCode, faultOpc := y.faultOpc, faultOver := y.faultOver,
      faultPc := y.faultPc, faultAddr := y.faultAddr, flags := (w.eng r.e).flags } := hw.trans (by rw [hy])
  have hctx : (w.itemLeft r (v.eng r.e).numstat).ctx r.d.ctx =
      { w.ctx r.d.ctx with live := (w.ctx r.d.ctx).live - 1, finished := satAdd 64 (w.ctx r.d.ctx).finished 1 } :=
    State.ctx_modCtx_self _ _ _
  have hslot : ∀ c k, (w.itemLeft r (v.eng r.e).numstat).hodSlot c k =
      if c = r.c ∧ k = r.k then none else w.hodSlot c k := fun c k => State.hodSlot_freeHod _ _ _ _ _
  have hrs : ∀ c n, (w.itemLeft r (v.eng r.e).numstat).rslot c n = w.rslot c n :=
    fun c n => State.rslot_modCrs (g := fun y => { y with hod := Tab.erase y.hod r.k }) (fun _ => rfl)
      ((w.stick (itemSticky r (v.eng r.e).numstat)).modEng r.e (Engine.finishes (v.eng r.e).numstat)) r.c c n
  have hother : ∀ e', e' ≠ r.e → (w.itemLeft r (v.eng r.e).numstat).eng e' = w.eng e' :=
    fun e' he => State.eng_modEng_ne _ _ he
  have hst : (w.itemLeft r (v.eng r.e).numstat).stores = w.stores := rfl
  generalize w.itemLeft r (v.eng r.e).numstat = u at *
  have hflagEng : ∀ e', (u.eng e').flags = (w.eng e').flags := fun e' => by
    by_cases he : e' = r.e
    · rw [he, hself]
      rfl
    · rw [hother e' he]
  refine ⟨?_, ?_, ?_, hst.trans hstores, fun c n => (hrs c n).trans (hrslot c n), ?_, ?_, ?_, ?_, ?_,
    fun z hz hne h hh => ?_, fun e' f' => ?_⟩
  · rw [hself]
    rfl
  · rw [hself]
    have hact' : (w.eng r.e).act ≠ .disabled := by rw [hwork]; exact hact
    exact if_neg hact'
  · rw [hslot, if_pos ⟨rfl, rfl⟩]
  · rw [hself, hwork]
    rfl
  · rw [hself, hwork]
    rfl
  · rw [hctx, hnumstat]
  · rw [hctx, hfinished]
  · rw [hctx, hlive]
  · rw [State.slotView, hslot, if_neg fun h => hne (Prod.ext h.1 h.2), ← State.slotView]
    exact hready z hz h hh
  · rw [State.flagVal, hflagEng, ← State.flagVal]
    exact hflags e' f'
end Sys2Proof.Machine
end

section
/-!
SUPPORT. Flush counts and contributions of an item that commits (R93, R94, R102).
-/
namespace Sys2Proof.Machine

/-! ## A contribution is committed (R93, R94) -/

/-- One contribution combined: number `i` past those combined before. -/
def State.combineAt (s : State) (c : Nat) (x : RSlot) (a : List (List W32)) (i : Nat) : List (List W32) :=
  List.zipWith (slotCombine x.op) a (contribElems x.op x.lenRegs
    (bytesLanes (s.readLoc (.cs c (x.bufAt (x.combined + i))) (x.regs * 128))))

theorem State.combineAt_next (s : State) (c : Nat) (x : RSlot) (acc : List (List W32)) :
    s.combineAt c { x with acc := acc, combined := x.combined + 1 } = fun a i => s.combineAt c x a (i + 1) := by
  funext a i
  have hnext : x.combined + 1 + i = x.combined + (i + 1) := by omega
  unfold State.combineAt
  dsimp only
  rw [hnext]
  rfl

/-- Every contribution that is next in order is combined. -/
theorem State.slotAdvance_spec (s : State) (c : Nat) : ∀ (f : Nat) (x : RSlot), x.combined ≤ x.count →
    x.count ≤ x.combined + f → ∃ k, s.slotAdvance c f x =
      { x with combined := x.combined + k, acc := (List.range k).foldl (s.combineAt c x) x.acc } ∧
      (∀ i, x.combined ≤ i → i < x.combined + k → i ∈ x.got) ∧
      (x.combined + k = x.count ∨ x.combined + k ∉ x.got)
  | 0, x, hle, hfuel => ⟨0, rfl, fun i h1 h2 => absurd h2 (Nat.not_lt_of_le h1), .inl (Nat.le_antisymm hle hfuel)⟩
  | f + 1, x, hle, hfuel => by
    rw [State.slotAdvance]
    split
    · rename_i h
      rw [Bool.and_eq_true, decide_eq_true_eq, List.contains_iff_mem] at h
      obtain ⟨k, hk, hgot, hend⟩ := State.slotAdvance_spec s c f { x with
        acc := List.zipWith (slotCombine x.op) x.acc (contribElems x.op x.lenRegs
          (bytesLanes (s.readLoc (.cs c (x.bufAt x.combined)) (x.regs * 128)))), combined := x.combined + 1 }
        h.1 (by simpa [Nat.add_assoc, Nat.add_comm 1] using hfuel)
      have hnext : x.combined + (k + 1) = x.combined + 1 + k := by omega
      refine ⟨k + 1, ?_, fun i h1 h2 => ?_, by rw [hnext]; exact hend⟩
      · rw [hk, hnext, List.range_succ_eq_map, List.foldl_cons, List.foldl_map, State.combineAt_next]
        rfl
      · rcases Nat.eq_or_lt_of_le h1 with rfl | h1
        · exact h.2
        · exact hgot i h1 (by rw [← hnext]; exact h2)
    · rename_i h
      rw [Bool.and_eq_true, decide_eq_true_eq, List.contains_iff_mem, not_and_or] at h
      refine ⟨0, rfl, fun i h1 h2 => absurd h2 (Nat.not_lt_of_le h1), h.imp (fun h => ?_) fun h => h⟩
      exact Nat.le_antisymm hle (Nat.not_lt.mp h)

section
variable {s : State} {c : Nat} {d : ItemDesc} {vs : List W32} {x : RSlot} {n : Nat}

/-- A slot with a contribution in its buffer. -/
def State.contributed (s : State) (c : Nat) (x : RSlot) (n : Nat) (vs : List W32) : State :=
  s.writeLoc (.cs c (x.bufAt n)) (laneBytes (vs.take (32 * x.regs)))

theorem State.commitContrib_ok (hslot : s.contribSlot c d = .ok (x, n)) (hnew : n ∉ x.got)
    (hlen : 32 * x.regs ≤ vs.length) : s.commitContrib c d vs = .ok ((s.contributed c x n vs).setRslot c d.rslot
      ((s.contributed c x n vs).slotAdvance c x.count { x with got := x.got ++ [n] })) := by
  have hget : x.got.contains n = false := by
    rw [← Bool.not_eq_true, List.contains_iff_mem]
    exact hnew
  simp only [State.commitContrib, hslot, require, hget, Bool.not_false, if_pos, decide_eq_true hlen, bind, Except.bind]
  rfl

theorem State.commitContrib_repeated (hslot : s.contribSlot c d = .ok (x, n)) (hold : n ∈ x.got) :
    s.commitContrib c d vs = .error (faultReduce, 0) := by
  simp only [State.commitContrib, hslot, require, List.contains_iff_mem.mpr hold, Bool.not_true,
    if_neg Bool.false_ne_true, bind, Except.bind]
  rfl

theorem State.contribSlot_rslot (hslot : s.contribSlot c d = .ok (x, n)) : s.rslot c d.rslot = some x := by
  unfold State.contribSlot at hslot
  split at hslot
  · cases hslot
  · split at hslot
    · cases hslot
    · rename_i y hy
      dsimp only at hslot
      split at hslot
      · cases hslot
        exact hy
      · cases hslot
end

/-! ## FINISH and its commit (R102) -/

/-- The flush counts of an item, added in turn. -/
def State.flushed (s : State) (l : List (Loc × Nat)) : State :=
  l.foldl (fun u x => u.writeLoc x.1 (leBytes 8 (leNat (u.readLoc x.1 8) + x.2))) s

/-- The same, as counted pier traffic. -/
def State.flushAll (s : State) (l : List (Loc × Nat)) : State := l.foldl (fun s x => s.addCounter x.1 x.2) s

theorem SamePlaces.flushAll : ∀ (l : List (Loc × Nat)) {s t : State}, SamePlaces s t →
    SamePlaces (s.flushed l) (t.flushAll l)
  | [], _, _, h => h
  | x :: l, _, _, h => SamePlaces.flushAll l (h.addCounter x.1 x.2)

theorem State.flushAll_storeFrame (s : State) (l : List (Loc × Nat)) : StoreFrame s (s.flushAll l) :=
  StoreFrame.foldl (g := fun (t : State) (x : Loc × Nat) => t.addCounter x.1 x.2)
    (fun t x => t.addCounter_storeFrame x.1 x.2) l s

/-- Two states that differ in program counters only. -/
structure PcFrame (s b : State) : Prop where
  frame : b = { s with engines := b.engines }
  eng : ∀ e, b.eng e = { s.eng e with pc := (b.eng e).pc }

theorem PcFrame.refl (s : State) : PcFrame s s := ⟨rfl, fun _ => rfl⟩

theorem PcFrame.next (s : State) (e : Nat) : PcFrame s (s.modEng e Engine.next) := ⟨rfl, fun e' => s.eng_next e e'⟩

/-- The module once the flush counts are added and the contribution is committed (R102 steps 2 and 3). -/
structure Contributed (s v : State) (e : Nat) (r : Run) : Prop where
  eng : ∀ e', v.eng e' = { s.eng e' with pc := (v.eng e').pc }
  ctxs : v.ctxs = s.ctxs
  hod : ∀ c k, v.hodSlot c k = s.hodSlot c k
  awake : ∀ c, v.courseAwake c = s.courseAwake c
  ls : v.ls = (s.flushed (s.eng e).flushes).ls
  mem : v.mem = (s.flushed (s.eng e).flushes).mem
  csKept : (s.eng e).contrib = none → v.cs = (s.flushed (s.eng e).flushes).cs
  csContrib : ∀ vs x n, (s.eng e).contrib = some vs → s.contribSlot r.c r.d = .ok (x, n) → x.combined ≤ x.count →
    v.cs = Mem.write (s.flushed (s.eng e).flushes).cs (csKey r.c (x.bufAt n)) (laneBytes (vs.take (32 * x.regs))) ∧
    ∃ k acc, v.rslot r.c r.d.rslot = some { x with got := x.got ++ [n], combined := x.combined + k, acc := acc } ∧
      (∀ i, x.combined ≤ i → i < x.combined + k → i ∈ x.got ++ [n]) ∧
      (x.combined + k = x.count ∨ x.combined + k ∉ x.got ++ [n]) ∧
      acc = (List.range k).foldl (v.combineAt r.c x) x.acc

/-- The contribution that an item with one commits is the first of its index, and fits its slot. -/
def State.contribGood (s : State) (e : Nat) (r : Run) : Prop := ∀ vs, (s.eng e).contrib = some vs →
  ∃ x n, s.contribSlot r.c r.d = .ok (x, n) ∧ n ∉ x.got ∧ 32 * x.regs ≤ vs.length

/-- Steps 2 and 3 of R102. -/
def State.contribute (s : State) (r : Run) : Except Err State := match (s.eng r.e).contrib with
  | none => .ok (s.flushAll (s.eng r.e).flushes)
  | some vs => (s.flushAll (s.eng r.e).flushes).commitContrib r.c r.d vs

theorem State.commitItem_eq (s : State) (r : Run) : s.commitItem r = match s.contribute r with
    | .error (code, a) => ((s.flushAll (s.eng r.e).flushes).itemFault r.e code 0x73 ((s.eng r.e).pc - 8) a).choose r.e
    | .ok v =>
      (((((State.itemDone (State.modCtx (v.readyAll (s.eng r.e).spawns) r.d.ctx fun c =>
        { c with numstat := c.numstat ||| (s.eng r.e).numstat }) r.d).stick (itemSticky r (s.eng r.e).numstat)).modEng r.e
        (Engine.finishes (s.eng r.e).numstat)).freeHod r.c r.k).ctxDone r.d.ctx true).choose r.e := by
  rw [State.commitItem, State.contribute]
  cases (s.eng r.e).contrib with
  | none => rfl
  | some vs => rfl

theorem State.commitItem_ok {s v : State} {r : Run} (h : s.contribute r = .ok v) (heng : v.eng r.e = s.eng r.e) :
    s.commitItem r = (v.itemEnded r).choose r.e := by
  rw [State.commitItem_eq, h, State.itemEnded, State.itemLeft, State.itemClosing, heng]

theorem StoreFrame.contribSlot {s t : State} (h : StoreFrame s t) (c : Nat) (d : ItemDesc) :
    t.contribSlot c d = s.contribSlot c d := by
  rw [h.frame]
  rfl

theorem PcFrame.contribSlot {s t : State} (h : PcFrame s t) (c : Nat) (d : ItemDesc) :
    t.contribSlot c d = s.contribSlot c d := by
  rw [h.frame]
  rfl

theorem State.hodSlot_setRslot (s : State) (c n : Nat) (x : RSlot) (c' k : Nat) :
    (s.setRslot c n x).hodSlot c' k = s.hodSlot c' k :=
  State.hodSlot_modCrs (g := fun y => { y with rslots := Tab.set y.rslots n x }) (fun _ => rfl) s c c' k

/-- What the flush counts leave. -/
theorem State.flushAll_left {s b : State} (h : PcFrame s b) (l : List (Loc × Nat)) :
    StoreFrame b (b.flushAll l) ∧ (b.flushAll l).ls = (s.flushed l).ls ∧ (b.flushAll l).cs = (s.flushed l).cs ∧
    (b.flushAll l).mem = (s.flushed l).mem := by
  have hsame : SamePlaces s b := ⟨by rw [h.frame]; rfl, by rw [h.frame], by rw [h.frame]⟩
  obtain ⟨hls, hcs, hmem⟩ := State.stores_split (SamePlaces.flushAll l hsame).stores
  exact ⟨b.flushAll_storeFrame l, hls, hcs, hmem⟩

/-- Steps 2 and 3 of R102, of an item whose contribution is good. -/
theorem State.contribute_ok {s b : State} {r : Run} (h : PcFrame s b) (hgood : s.contribGood r.e r) :
    ∃ v, b.contribute r = .ok v ∧ v.eng r.e = b.eng r.e ∧ Contributed s v r.e r := by
  have hflushes : (b.eng r.e).flushes = (s.eng r.e).flushes := by rw [h.eng]
  have hcontrib : (b.eng r.e).contrib = (s.eng r.e).contrib := by rw [h.eng]
  obtain ⟨hframe, hls, hcs, hmem⟩ := State.flushAll_left h (s.eng r.e).flushes
  have heng : ∀ e', (b.flushAll (s.eng r.e).flushes).eng e' = b.eng e' := fun e' => by rw [hframe.frame]; rfl
  have hctxs : (b.flushAll (s.eng r.e).flushes).ctxs = s.ctxs := by rw [hframe.frame, h.frame]
  have hhod : ∀ c k, (b.flushAll (s.eng r.e).flushes).hodSlot c k = s.hodSlot c k := fun c k => by
    rw [hframe.frame, h.frame]
    rfl
  have hawake : ∀ c, (b.flushAll (s.eng r.e).flushes).courseAwake c = s.courseAwake c := fun c => by
    rw [hframe.awake, h.frame]
    rfl
  have hslots : ∀ c d, (b.flushAll (s.eng r.e).flushes).contribSlot c d = s.contribSlot c d := fun c d => by
    rw [hframe.contribSlot, h.contribSlot]
  rw [State.contribute, hflushes, hcontrib]
  generalize b.flushAll (s.eng r.e).flushes = f at *
  cases hc : (s.eng r.e).contrib with
  | none =>
    exact ⟨f, rfl, heng r.e, fun e' => by rw [heng, h.eng], hctxs, hhod, hawake, hls, hmem, fun _ => hcs,
      fun vs x n hvs => absurd (hc.symm.trans hvs) (by simp)⟩
  | some vs =>
    obtain ⟨x, n, hslot, hnew, hlen⟩ := hgood vs hc
    have hok := State.commitContrib_ok ((hslots r.c r.d).trans hslot) hnew hlen
    have hw : f.contributed r.c x n vs = { f with cs := (f.contributed r.c x n vs).cs } := rfl
    have hcs' : (f.contributed r.c x n vs).cs = Mem.write f.cs (csKey r.c (x.bufAt n))
      (laneBytes (vs.take (32 * x.regs))) := rfl
    generalize f.contributed r.c x n vs = w at hok hw hcs'
    have hv : ∀ e', (w.setRslot r.c r.d.rslot (w.slotAdvance r.c x.count { x with got := x.got ++ [n] })).eng e' =
        b.eng e' := fun e' => by
      rw [State.setRslot, State.eng_modCrs, hw]
      exact heng e'
    refine ⟨_, hok, ?_, fun e' => ?_, ?_, fun c k => ?_, fun c => ?_, ?_, ?_, fun hnone => ?_,
      fun vs' x' n' hvs' hslot' hle => ?_⟩
    · exact hv r.e
    · rw [hv]
      exact h.eng e'
    · rw [State.setRslot, State.modCrs_ctxs, hw]
      exact hctxs
    · rw [State.hodSlot_setRslot, hw]
      exact hhod c k
    · rw [hw]
      exact hawake c
    · rw [State.setRslot, State.modCrs_ls, hw]
      exact hls
    · rw [State.setRslot, State.modCrs_mem, hw]
      exact hmem
    · exact absurd (hc.symm.trans hnone) (by simp)
    · obtain rfl : vs = vs' := Option.some.inj (hc.symm.trans hvs')
      obtain ⟨rfl, rfl⟩ : x = x' ∧ n = n' := Prod.mk.inj (Except.ok.inj (hslot.symm.trans hslot'))
      obtain ⟨k, hk, hgot, hend⟩ := w.slotAdvance_spec r.c x.count { x with got := x.got ++ [n] } hle
        (Nat.le_add_left _ _)
      refine ⟨?_, k, _, (State.rslot_setRslot ..).trans ((if_pos rfl).trans (congrArg some hk)), hgot, hend, rfl⟩
      rw [State.setRslot, State.modCrs_cs, hcs', hcs]
end Sys2Proof.Machine
end

section
/-!
SUPPORT. FINISH and its commit (R102).
-/
namespace Sys2Proof.Machine

/-! ## FINISH and FINISH_COMMIT -/

/-- What a FINISH that commits leaves before its engine chooses again. -/
structure FinishEnds (s u : State) (e : Nat) (r : Run) : Prop where
  item : (u.eng e).item = none
  act : (u.eng e).act = .idle
  slot : u.hodSlot r.c r.k = none
  ls : u.ls = (s.flushed (s.eng e).flushes).ls
  csKept : (s.eng e).contrib = none → u.cs = (s.flushed (s.eng e).flushes).cs
  csContrib : ∀ vs x n, (s.eng e).contrib = some vs → s.contribSlot r.c r.d = .ok (x, n) → x.combined ≤ x.count →
    u.cs = Mem.write (s.flushed (s.eng e).flushes).cs (csKey r.c (x.bufAt n)) (laneBytes (vs.take (32 * x.regs))) ∧
    ∃ k acc, u.rslot r.c r.d.rslot = some { x with got := x.got ++ [n], combined := x.combined + k, acc := acc } ∧
      (∀ i, x.combined ≤ i → i < x.combined + k → i ∈ x.got ++ [n]) ∧
      (x.combined + k = x.count ∨ x.combined + k ∉ x.got ++ [n]) ∧
      acc = (List.range k).foldl (u.combineAt r.c x) x.acc
  mem : u.mem = (s.flushed (s.eng e).flushes).mem
  finished : (u.eng e).finished = min ((s.eng e).finished + 1) (2 ^ 64 - 1)
  numstatReg : (u.eng e).numstatReg = (s.eng e).numstatReg ||| (s.eng e).numstat
  ctxNumstat : (u.ctx r.d.ctx).numstat = (s.ctx r.d.ctx).numstat ||| (s.eng e).numstat
  ctxFinished : (u.ctx r.d.ctx).finished = min ((s.ctx r.d.ctx).finished + 1) (2 ^ 64 - 1)
  ctxLive : (u.ctx r.d.ctx).live = (s.ctx r.d.ctx).live + (s.eng e).spawns.countP (s.holds r.d.ctx) - 1
  ready : ∀ y ∈ (s.eng e).spawns, y ≠ (r.c, r.k) → ∀ h, s.hodSlot y.1 y.2 = some h →
    u.slotView y.1 y.2 = some (h.desc, .ready, y.1)
  flags : ∀ e' f', u.flagVal e' f' = if r.d.doneValid = true ∧ s.courseAwake (r.d.doneEngine / 32) = true ∧
    e' = r.d.doneEngine ∧ f' = r.d.doneFlag then s.flagVal e' f' + 1 else s.flagVal e' f'

theorem State.combineAt_congr {s t : State} (h : t.cs = s.cs) (c : Nat) (x : RSlot) : t.combineAt c x = s.combineAt c x := by
  funext a i
  rw [State.combineAt, State.combineAt, State.readLoc, State.readLoc, h]

theorem State.commitItem_ends {s b : State} {r : Run} (h : PcFrame s b) (hgood : s.contribGood r.e r)
    (hact : (s.eng r.e).act ≠ .disabled) : ∃ u, b.commitItem r = u.choose r.e ∧ FinishEnds s u r.e r := by
  obtain ⟨v, hv, heng, hleft⟩ := State.contribute_ok h hgood
  have hwork := hleft.eng r.e
  obtain ⟨hitem, hidle, hslot, hstores, hrslot, hfin, hnumreg, hnumctx, hfinctx, hlive, hready, hflags⟩ :=
    State.itemEnded_ended (v := v) (r := r) (by rw [hwork]; exact hact)
  obtain ⟨hls, hcs, hmem⟩ := State.stores_split hstores
  have hctx : ∀ n, v.ctx n = s.ctx n := fun n => by rw [State.ctx, hleft.ctxs, ← State.ctx]
  have hholds : v.holds r.d.ctx = s.holds r.d.ctx := funext fun y => by rw [State.holds, hleft.hod, ← State.holds]
  have hflag : ∀ e' f', v.flagVal e' f' = s.flagVal e' f' := fun e' f' => by
    rw [State.flagVal, hleft.eng, ← State.flagVal]
  have hspawns : (v.eng r.e).spawns = (s.eng r.e).spawns := by rw [hwork]
  refine ⟨v.itemEnded r, State.commitItem_ok hv heng, hitem, hidle, hslot, hls.trans hleft.ls,
    fun hnone => hcs.trans (hleft.csKept hnone), fun vs x n hvs hsl hle => ?_, hmem.trans hleft.mem, ?_, ?_, ?_, ?_, ?_,
    fun y hy hne hod hh => ?_, fun e' f' => ?_⟩
  · obtain ⟨hw, k, acc, hr, hgot, hend, hacc⟩ := hleft.csContrib vs x n hvs hsl hle
    refine ⟨hcs.trans hw, k, acc, (hrslot _ _).trans hr, hgot, hend, ?_⟩
    rw [State.combineAt_congr hcs]
    exact hacc
  · rw [hfin, hwork]
    rfl
  · rw [hnumreg, hwork]
  · rw [hnumctx, hctx, hwork]
  · rw [hfinctx, hctx]
    rfl
  · rw [hlive, hctx, hspawns, hholds]
  · exact hready y (by rw [hspawns]; exact hy) hne hod (by rw [hleft.hod]; exact hh)
  · rw [hflags, hleft.awake, hflag]

/-! ## A contribution whose index was committed before -/

theorem State.rslot_freeSpawns (l : List (Nat × Nat)) (c n : Nat) : ∀ s : State,
    (s.freeSpawns l).rslot c n = s.rslot c n := by
  induction l with
  | nil => exact fun s => rfl
  | cons x t ih =>
    exact fun s => (ih (s.freeHod x.1 x.2)).trans
      (State.rslot_modCrs (g := fun y => { y with hod := Tab.erase y.hod x.2 }) (fun _ => rfl) s x.1 c n)

theorem State.rslot_endRunning {s : State} {e c k : Nat} {h : HodSlot} (hitem : (s.eng e).item = some (c, k))
    (hslot : s.hodSlot c k = some h) (c' n : Nat) : (s.endRunning e).rslot c' n = s.rslot c' n := by
  have heq : s.endRunning e = State.ctxDone (State.freeHod (State.modEng (State.dropOps (s.freeSpawns (s.eng e).spawns) c k) e
      Engine.release) c k) h.desc.ctx false := by
    simp only [State.endRunning, hitem, hslot]
    rfl
  rw [heq]
  have hfree := State.rslot_modCrs (g := fun y => { y with hod := Tab.erase y.hod k }) (fun _ => rfl)
    (State.modEng (State.dropOps (s.freeSpawns (s.eng e).spawns) c k) e Engine.release) c c' n
  exact hfree.trans (State.rslot_freeSpawns _ c' n s)

theorem State.commitItem_repeated {s b : State} {r : Run} (h : PcFrame s b) (hrun : s.run r.e = some r) {vs : List W32}
    {x : RSlot} {n : Nat} (hvs : (s.eng r.e).contrib = some vs) (hslot : s.contribSlot r.c r.d = .ok (x, n))
    (hold : n ∈ x.got) : ∃ u : State, b.commitItem r = u.choose r.e ∧ (u.eng r.e).item = none ∧ u.hodSlot r.c r.k = none ∧
      u.rslot r.c r.d.rslot = some x ∧
      ((s.eng r.e).faultValid = false → (u.eng r.e).faultValid = true ∧ (u.eng r.e).faultCode = 6) ∧
      (u.ctx r.d.ctx).ended = min ((s.ctx r.d.ctx).ended + 1) (2 ^ 64 - 1) := by
  obtain ⟨hod, hitem, hhod, -, hdesc, -⟩ := State.run_some hrun
  have hcontrib : (b.eng r.e).contrib = some vs := by rw [h.eng]; exact hvs
  have hframe := b.flushAll_storeFrame (b.eng r.e).flushes
  have hslot' : (b.flushAll (b.eng r.e).flushes).contribSlot r.c r.d = .ok (x, n) := by
    rw [hframe.contribSlot, h.contribSlot, hslot]
  have hfail : b.contribute r = .error (faultReduce, 0) := by
    rw [State.contribute, hcontrib]
    exact State.commitContrib_repeated hslot' hold
  have heq := b.commitItem_eq r
  rw [hfail] at heq
  dsimp only at heq
  have heng : (b.flushAll (b.eng r.e).flushes).eng r.e = b.eng r.e := by rw [hframe.frame]; rfl
  have hbase := State.contribSlot_rslot hslot'
  have hitem' : ((b.flushAll (b.eng r.e).flushes).eng r.e).item = some (r.c, r.k) := by
    rw [heng, h.eng]
    exact hitem
  have hhod' : (b.flushAll (b.eng r.e).flushes).hodSlot r.c r.k = some hod := by
    rw [hframe.frame, h.frame]
    exact hhod
  have hctx : (b.flushAll (b.eng r.e).flushes).ctx r.d.ctx = s.ctx r.d.ctx := by
    rw [hframe.frame, h.frame]
    rfl
  have hvalid : ((b.flushAll (b.eng r.e).flushes).eng r.e).faultValid = (s.eng r.e).faultValid := by rw [heng, h.eng]
  generalize b.flushAll (b.eng r.e).flushes = w at *
  obtain ⟨-, -, hengine, hnone, -, hcounts⟩ := State.itemFault_left (s := w) (e := r.e) (code := faultReduce) (by decide) 0x73
    ((b.eng r.e).pc - 8) 0 hitem' hhod'
  have hends := State.itemFault_ends (s := w) (e := r.e) (code := faultReduce) (by decide) 0x73 ((b.eng r.e).pc - 8) 0
    hitem' hhod'
  refine ⟨_, heq, ?_, hnone, ?_, fun hfv => ?_, ?_⟩
  · rw [hengine]
    rfl
  · have hitem'' : (((w.recordFault r.e faultReduce 0x73 ((b.eng r.e).pc - 8) 0).ctxFault hod.desc.ctx faultReduce 0x73 r.e
        hod.desc.seq).eng r.e).item = some (r.c, r.k) := by
      refine (congrArg Engine.item (w.eng_recordFault r.e faultReduce 0x73 ((b.eng r.e).pc - 8) 0)).trans ?_
      rw [Engine.faulted_frame]
      exact hitem'
    rw [hends, State.rslot_endRunning hitem'' hhod']
    exact hbase
  · rw [hengine, Engine.faulted, if_neg (by rw [hvalid, hfv]; decide)]
    exact ⟨rfl, rfl⟩
  · rw [hdesc] at hctx ⊢
    rw [hcounts, hctx, Ctx.faulted]
    split
    · rfl
    · rfl

section
variable {s : State} {e : Nat} {f : Fields} {r : Run}

theorem finishBody_eq {u : State} (hd : f.d = 0) (ha : f.a = 0) (hb : f.b = 0) (hc : f.c = 0) (him : f.imm = 0) :
    finishBody f r u = .ok (if u.itemCopies r.e r.c r.k || u.itemNets r.e r.c r.k then
      u.modEng r.e fun x => { x with act := .finishing } else u.commitItem r) := by
  have hfields := checkFields_of (f := f) (m := 0) (Use.ok_no hd) (Use.ok_no ha) (Use.ok_no hb) (Use.ok_no hc)
    (by rw [him]; rfl)
  simp only [finishBody, hfields, bind, Except.bind, onEngine]
  split
  · rfl
  · rfl

theorem exec_finish_waits (hi : Issues s r.e 0x73 f r) (hwait : (s.itemCopies r.e r.c r.k || s.itemNets r.e r.c r.k) = true)
    (hbody : finishBody f r (s.modEng r.e Engine.next) = .ok (if s.itemCopies r.e r.c r.k || s.itemNets r.e r.c r.k then
      (s.modEng r.e Engine.next).modEng r.e fun x => { x with act := .finishing }
      else (s.modEng r.e Engine.next).commitItem r)) :
    ∃ t, exec (.finish r.e f) s = .next t ∧ OnlyEngine s t r.e ∧
      t.eng r.e = { s.eng r.e with act := .finishing, pc := (s.eng r.e).pc + 8 } := by
  rw [if_pos hwait] at hbody
  obtain ⟨t, ht, honly, heng⟩ := issue_modEng hi rfl fun u hu => hu ▸ hbody
  exact ⟨t, ht, honly, by rw [heng, hi.next_eq]⟩

/-- The engine of an instruction that issues is enabled. -/
theorem act_ne_disabled_of_issues {opc : BitVec 8} (hi : Issues s e opc f r) : (s.eng e).act ≠ .disabled := by
  rw [(State.mayIssue_run hi.2.1).2.1]
  decide
end
end Sys2Proof.Machine
end

section
/-!
SUPPORT. Re-execution of an item (R113).
-/
namespace Sys2Proof.Machine

/-! ## An item starts afresh (R101, R113) -/

/-- The sum of what an attempt added to flag `g`. -/
def undoSum (l : List (Nat × W32)) (g : Nat) : W32 := ((l.filter fun x => x.1 = g).map (·.2)).sum

/-- Flag changes undone on an engine whose course is awake. -/
theorem State.flagVal_undoFlags {e : Nat} : ∀ (l : List (Nat × W32)) {s : State}, s.courseAwake (e / 32) = true →
    ∀ e' g, (s.undoFlags e l).flagVal e' g =
      if e' = e then s.flagVal e' g - undoSum l g else s.flagVal e' g
  | [], s, _, e', g => by
    have hsum : s.flagVal e' g - undoSum [] g = s.flagVal e' g := by simp [undoSum]
    rw [hsum]
    split
    · rfl
    · rfl
  | (f, v) :: l, s, h, e', g => by
    have hfirst := s.flagSub_awake e f v h
    have hrest := State.flagVal_undoFlags l (s := s.setFlag e f (s.flagVal e f - v)) h e' g
    have hcons : s.undoFlags e ((f, v) :: l) = (s.setFlag e f (s.flagVal e f - v)).undoFlags e l := by
      rw [← hfirst]
      rfl
    rw [hcons, hrest, State.flagVal_setFlag]
    by_cases he : e' = e
    · subst he
      simp only [if_true, true_and]
      by_cases hg : f = g
      · subst hg
        have hsum : undoSum ((f, v) :: l) f = v + undoSum l f := by simp [undoSum]
        rw [if_pos rfl, hsum, BitVec.sub_sub]
      · have hsum : undoSum ((f, v) :: l) g = undoSum l g := by simp [undoSum, hg]
        rw [if_neg fun h => hg h.symm, hsum]
    · simp [he]

theorem State.undoFlags_awake {e c : Nat} : ∀ (l : List (Nat × W32)) (s : State), s.courseAwake (e / 32) = true →
    s.courseAwake c = true → (s.undoFlags e l).courseAwake c = true
  | [], _, _, hc => hc
  | (f, v) :: l, s, h, hc => by
    have hcons : s.undoFlags e ((f, v) :: l) = (s.setFlag e f (s.flagVal e f - v)).undoFlags e l := by
      rw [← s.flagSub_awake e f v h]
      rfl
    rw [hcons]
    exact State.undoFlags_awake l _ h hc

/-- The registers that an engine starts an item with (R101). -/
def startRegs (x : Candidate) : Tab W64 :=
  Tab.put 0 (Tab.put 0 (Tab.put 0 [] 1 x.h.desc.arg) 2 (x.h.desc.seq.setWidth 64)) 3 (BitVec.ofNat 64 x.c)

theorem startRegs_gr {y : Engine} {x : Candidate} (h : y.g = startRegs x) (q : BitVec 6) : y.gr q =
    if q = 1 then x.h.desc.arg else if q = 2 then x.h.desc.seq.setWidth 64
    else if q = 3 then BitVec.ofNat 64 x.c else 0 := by
  have hq : ∀ k : BitVec 6, q.toNat = k.toNat ↔ q = k := fun k => ⟨BitVec.eq_of_toNat_eq, congrArg _⟩
  have h1 : q.toNat = 1 ↔ q = 1 := hq 1
  have h2 : q.toNat = 2 ↔ q = 2 := hq 2
  have h3 : q.toNat = 3 ↔ q = 3 := hq 3
  rw [Engine.gr, h, startRegs, Tab.get_put, Tab.get_put, Tab.get_put, Tab.get_nil]
  simp only [h1, h2, h3]
  by_cases q0 : q = 0
  · subst q0
    rfl
  by_cases q1 : q = 1
  · subst q1
    simp
  by_cases q2 : q = 2
  · subst q2
    simp
  · simp only [if_neg q0, if_neg q1, if_neg q2]

/-- The engine as it starts an item afresh; a failed attempt counts in ENG_REEXEC. -/
def Engine.started (y : Engine) (e : Nat) (x : Candidate) : Engine :=
  { y with act := .run, item := some (x.c, x.k), v := [], bufs := [], accs := [],
           rehomed := match x.tied with | some t => if t = e then none else some t | none => none,
           resumed := x.h.saved.isSome && (x.h.saved.filter (·.failed)).isNone,
           reexec := if (x.h.saved.filter (·.failed)).isSome then satAdd 32 y.reexec 1 else y.reexec,
           pc := x.h.desc.entry, g := startRegs x,
           numstat := 0, contrib := none, flushes := [], spawns := [], undo := [], itemCyc := 0 }

section
variable {s : State} {e : Nat} {x : Candidate}

/-- What an item that starts afresh leaves. -/
theorem State.startItem_fresh (hfresh : x.h.saved.filter (!·.failed) = none) {l : List (Nat × W32)}
    (hl : ((x.h.saved.filter (·.failed)).map (·.undo)).getD [] = l) :
    s.startItem e x = ((s.undoFlags (x.tied.getD e) l).setHod x.c x.k
      { x.h with status := .running e, saved := none }).modEng e (Engine.started · e x) := by
  rw [State.startItem, hl, hfresh]
  rfl

/-- The module after an item has started afresh. -/
structure Started (s t : State) (e : Nat) (x : Candidate) (l : List (Nat × W32)) : Prop where
  eng : t.eng e = ({ s.eng e with flags := (t.eng e).flags } : Engine).started e x
  slot : t.hodSlot x.c x.k = some { x.h with status := .running e, saved := none }
  stores : t.stores = s.stores
  flags : ∀ e' g, t.flagVal e' g =
    if e' = x.tied.getD e then s.flagVal e' g - undoSum l g else s.flagVal e' g

theorem State.startItem_started (hfresh : x.h.saved.filter (!·.failed) = none) {l : List (Nat × W32)}
    (hl : ((x.h.saved.filter (·.failed)).map (·.undo)).getD [] = l)
    (hawake : s.courseAwake (x.tied.getD e / 32) = true) : Started s (s.startItem e x) e x l := by
  rw [State.startItem_fresh hfresh hl]
  have hundo := s.undoFlags_subFrame (x.tied.getD e) l
  have hflags := State.flagVal_undoFlags l hawake
  generalize s.undoFlags (x.tied.getD e) l = u at *
  have heng : ((u.setHod x.c x.k { x.h with status := .running e, saved := none }).modEng e (Engine.started · e x)).eng e =
      (u.eng e).started e x := State.eng_modEng_self _ _ _
  refine ⟨?_, (State.hodSlot_setHod _ _ _ _ _ _).trans (if_pos ⟨rfl, rfl⟩), ?_, fun e' g => ?_⟩
  · rw [heng, hundo.eng]
    rfl
  · refine Eq.trans (b := u.stores) rfl ?_
    rw [hundo.frame]
    rfl
  · rw [← hflags, State.flagVal, State.eng_modEng]
    split
    · rename_i he
      rw [he]
      rfl
    · rfl
end

/-! ## ITEM_REEXEC (R113) -/

section
variable {s : State} {e c k : Nat} {h : HodSlot}

/-- An engine that is to execute its failed item again: the attempt is undone and counted. -/
def Engine.retries (y : Engine) : Engine :=
  { y with reexecItem := none, undo := [], rehomed := none, reexec := satAdd 32 y.reexec 1 }

theorem State.itemReexec_eq (hitem : (s.eng e).reexecItem = some (c, k)) (hslot : s.hodSlot c k = some h)
    (hres : s.mayResume e = true) (hmet : (s.eng e).checkMet = false) (hrep : (s.eng e).replacing = none)
    (hcopies : s.itemCopies e c k = false) (horphan : (s.eng e).orphan = false) (hhome : (s.eng e).rehomed = none) :
    s.itemReexec e = ((s.undoFlags e (s.eng e).undo).modEng e Engine.retries).startItem e
      ⟨c, k, { h with saved := none }, none⟩ := by
  have hflag : s.flagEngine e = e := by rw [State.flagEngine, hhome]; rfl
  simp only [State.itemReexec, hitem, hslot, hres, hmet, hrep, hcopies, horphan, hflag, Bool.not_true, Bool.false_or,
    Option.isSome_none, if_neg Bool.false_ne_true, if_true]
  rfl

theorem State.mayResume_awake (hres : s.mayResume e = true) : s.courseAwake (e / 32) = true := by
  rw [State.mayResume, Bool.and_eq_true, Bool.and_eq_true] at hres
  exact hres.1.2

theorem exec_itemReexec (he : e < 2048) (hitem : (s.eng e).reexecItem = some (c, k)) (hslot : s.hodSlot c k = some h)
    (hres : s.mayResume e = true) (hmet : (s.eng e).checkMet = false) (hrep : (s.eng e).replacing = none)
    (hcopies : s.itemCopies e c k = false) (horphan : (s.eng e).orphan = false) (hhome : (s.eng e).rehomed = none) :
    ∃ t, exec (.itemReexec e) s = .next t ∧ (t.eng e).reexecItem = none ∧
      (t.eng e).reexec = min ((s.eng e).reexec + 1) 0xFFFFFFFF ∧ (t.eng e).act = .run ∧ (t.eng e).pc = h.desc.entry ∧
      (t.eng e).item = some (c, k) ∧ t.ls = s.ls ∧ t.mem = s.mem ∧
      ∀ g, t.flagVal e g = s.flagVal e g - undoSum (s.eng e).undo g := by
  have hawake := State.mayResume_awake hres
  have hundo := s.undoFlags_subFrame e (s.eng e).undo
  have hflags := State.flagVal_undoFlags (s.eng e).undo hawake e
  have hexec : exec (.itemReexec e) s = .next (s.itemReexec e) := guarded_ok (decide_eq_true he) _
  rw [State.itemReexec_eq hitem hslot hres hmet hrep hcopies horphan hhome] at hexec
  have hawake' : (s.undoFlags e (s.eng e).undo).courseAwake (e / 32) = true := State.undoFlags_awake _ _ hawake hawake
  generalize s.undoFlags e (s.eng e).undo = u at *
  have hstart := State.startItem_started (s := u.modEng e Engine.retries) (e := e)
    (x := ⟨c, k, { h with saved := none }, none⟩) (l := []) rfl rfl hawake'
  have heng : (u.modEng e Engine.retries).eng e = (u.eng e).retries := State.eng_modEng_self _ _ _
  obtain ⟨hself, -, hstores, hflags'⟩ := hstart
  rw [heng, hundo.eng] at hself
  obtain ⟨hls, -, hmem⟩ := State.stores_split hstores
  refine ⟨_, hexec, ?_, ?_, ?_, ?_, ?_, hls.trans (by rw [hundo.frame]; rfl), hmem.trans (by rw [hundo.frame]; rfl),
    fun g => ?_⟩
  · rw [hself]; rfl
  · rw [hself]; rfl
  · rw [hself]; rfl
  · rw [hself]; rfl
  · rw [hself]; rfl
  · have hzero : undoSum [] g = 0 := rfl
    have hkeep : (u.modEng e Engine.retries).flagVal e g = u.flagVal e g := by rw [State.flagVal, heng]; rfl
    rw [hflags', hkeep, hflags, hzero, if_pos rfl]
    simp
end

section
variable {s : State} {e : Nat} {f : Fields} {r : Run}

/-- FINISH of an item of which nothing is outstanding, given what its commit gives. -/
theorem exec_finish_commits (hi : Issues s r.e 0x73 f r) (hd : f.d = 0) (ha : f.a = 0) (hb : f.b = 0) (hc : f.c = 0)
    (him : f.imm = 0) (hcopies : s.itemCopies r.e r.c r.k = false) (hnets : s.itemNets r.e r.c r.k = false)
    {u : State} (hu : (s.modEng r.e Engine.next).commitItem r = u.choose r.e) :
    ∃ t : State, exec (.finish r.e f) s = .next t ∧ (t = u.choose r.e ∨ t = { u.choose r.e with freeCtr := t.freeCtr }) := by
  have hbody := finishBody_eq (f := f) (r := r) (u := s.modEng r.e Engine.next) hd ha hb hc him
  rw [State.itemCopies_next, State.itemNets_next, hcopies, hnets, Bool.or_false, if_neg Bool.false_ne_true, hu] at hbody
  obtain ⟨n, hn⟩ := issue_next hi rfl hbody
  exact ⟨_, hn, .inr rfl⟩

theorem exec_finishCommit (he : e < 2048) (hact : (s.eng e).act = .finishing) (hres : s.mayResume e = true)
    (hrun : s.run e = some r) (hcopies : s.itemCopies e r.c r.k = false) (hnets : s.itemNets e r.c r.k = false) :
    exec (.finishCommit e) s = .next (s.commitItem r) := by
  refine (guarded_ok (decide_eq_true he) _).trans (congrArg _ ?_)
  simp [State.finishCommit, hact, hres, hrun, hcopies, hnets]
end

/-- Settles O26: FINISH and its commit by the steps of R102, re-execution by what an item that starts afresh leaves. -/
theorem finishAndReexecute : Obligations.FinishAndReexecute := by
  unfold Obligations.FinishAndReexecute
  refine ⟨?_, fun s e c k h he hitem hslot hres hmet hrep hcopies horphan hhome =>
    exec_itemReexec he hitem hslot hres hmet hrep hcopies horphan hhome, ?_⟩
  · intro s e r flushed commits ready ended good
    have hended : ∀ u, FinishEnds s u e r → ended u := fun u h => by
      refine ⟨h.item, h.act, h.slot, h.ls, ?_, h.mem, h.finished, h.numstatReg, h.ctxNumstat, h.ctxFinished, h.ctxLive,
        h.ready, h.flags⟩
      dsimp only [commits]
      split
      · rename_i hnone
        exact h.csKept hnone
      · rename_i vs hvs
        exact fun x n => h.csContrib vs x n hvs
    refine ⟨fun f hi hd ha hb hc him => ?_, fun he hact hres hrun hcopies hnets hgood => ?_⟩
    · obtain rfl := hi.run_e
      have hbody := finishBody_eq (f := f) (r := r) (u := s.modEng r.e Engine.next) hd ha hb hc him
      rw [State.itemCopies_next, State.itemNets_next] at hbody
      refine ⟨fun hwait => exec_finish_waits hi (by rw [Bool.or_eq_true]; exact hwait) hbody,
        fun hcopies hnets hgood => ?_, fun hcopies hnets vs x n hvs hsl hold => ?_⟩
      · obtain ⟨u, hu, hends⟩ := State.commitItem_ends (.next s r.e) hgood (act_ne_disabled_of_issues hi)
        obtain ⟨t, ht, htu⟩ := exec_finish_commits hi hd ha hb hc him hcopies hnets hu
        exact ⟨u, t, ht, htu, hended u hends⟩
      · obtain ⟨u, hu, hfault⟩ := State.commitItem_repeated (.next s r.e) hi.2.2.1 hvs hsl hold
        obtain ⟨t, ht, htu⟩ := exec_finish_commits hi hd ha hb hc him hcopies hnets hu
        exact ⟨u, t, ht, htu, hfault⟩
    · obtain ⟨-, -, -, -, -, rfl⟩ := State.run_some hrun
      obtain ⟨u, hu, hends⟩ := State.commitItem_ends (.refl s) hgood (by rw [hact]; decide)
      exact ⟨u, (exec_finishCommit he hact hres hrun hcopies hnets).trans (congrArg _ hu), hended u hends⟩
  · intro s e x v hsaved hfailed hawake t
    have hfresh : x.h.saved.filter (!·.failed) = none := by
      rw [hsaved]
      exact if_neg (by simp [hfailed])
    have hkept : x.h.saved.filter (·.failed) = some v := by
      rw [hsaved]
      exact if_pos hfailed
    obtain ⟨heng, hslot, hstores, hflags⟩ := State.startItem_started (l := v.undo) hfresh (by rw [hkept]; rfl) hawake
    obtain ⟨hls, hcs, hmem⟩ := State.stores_split hstores
    refine ⟨?_, ?_, ?_, ?_, ?_, ?_, ?_, ?_, ?_, ?_, ?_, ?_, ?_, hslot, hls, hcs, hmem,
      fun e' g hne => (hflags e' g).trans (if_neg hne), fun g => (hflags _ g).trans (if_pos rfl)⟩
    · exact congrArg Engine.act heng
    · exact congrArg Engine.item heng
    · exact congrArg Engine.pc heng
    · exact (congrArg Engine.reexec heng).trans (if_pos (by rw [hkept]; rfl))
    · exact congrArg Engine.numstat heng
    · exact congrArg Engine.spawns heng
    · exact congrArg Engine.flushes heng
    · exact congrArg Engine.contrib heng
    · exact congrArg Engine.undo heng
    · exact startRegs_gr (congrArg Engine.g heng)
    · exact fun q l => congrArg (Engine.lane · q l) heng
    · exact fun a => congrArg (Engine.acc · a) heng
    · exact fun b => congrArg (fun y : Engine => (y.buf b).k) heng

end Sys2Proof.Machine
end

section
/-!
SUPPORT. Replies in channels, and the end of FW_COMMIT (R411, R423, R435).
-/
namespace Sys2Proof.Machine

/-! ## Numbers in records -/

theorem leNat_lt : ∀ l : List Byte, leNat l < 256 ^ l.length
  | [] => Nat.one_pos
  | b :: t => by
    have hb := b.isLt
    have ht := leNat_lt t
    rw [leNat, List.length_cons, Nat.pow_succ]
    omega

theorem fieldAt_lt (b : List Byte) (off n : Nat) : fieldAt b off n < 256 ^ n :=
  Nat.lt_of_lt_of_le (leNat_lt _) (Nat.pow_le_pow_right (by decide) (List.length_take_le _ _))

/-! ## Replies in channels (R411) -/

section
variable (s : State) (h : Nat) (secure : Bool) (n : Nat)

theorem State.chan_setChan (h' : Nat) (secure' : Bool) (n' : Nat) (x : Chan) : (s.setChan h secure n x).chan h' secure' n' =
    if h' = h ∧ secure' = secure ∧ n' = n then x else s.chan h' secure' n' := by
  rw [State.chan, State.setChan, State.host_modHost]
  by_cases hh : h' = h
  · subst hh
    rw [if_pos rfl]
    cases secure <;> cases secure'
    · by_cases hn : n' = n
      · simp [hn]
      · simp [hn, State.chan, Tab.get_put_ne]
    · simp [State.chan]
    · simp [State.chan]
    · by_cases hn : n' = n
      · simp [hn]
      · simp [hn, State.chan, Tab.get_put_ne]
  · simp [hh, State.chan]

@[simp] theorem State.chan_modChan_self (f : Chan → Chan) :
    (s.modChan h secure n f).chan h secure n = f (s.chan h secure n) :=
  (State.chan_setChan ..).trans (if_pos ⟨rfl, rfl, rfl⟩)
end

theorem Chan.put_frame : ∀ (l : List Nat) (x : Chan) (i : Nat), x.put i l = { x with data := (x.put i l).data }
  | [], _, _ => rfl
  | _ :: t, _, i => (Chan.put_frame t _ (i + 1)).trans rfl

theorem Chan.word_put : ∀ (l : List Nat) (x : Chan) (i k : Nat), (x.put i l).word k =
    if i ≤ k ∧ k < i + l.length then l.getD (k - i) 0 % 2 ^ 32 else x.word k
  | [], x, i, k => by
    rw [if_neg fun h => by simp at h; omega]
    rfl
  | w :: t, x, i, k => by
    have hrest := Chan.word_put t { x with data := Tab.put 0 x.data i (BitVec.ofNat 32 w) } (i + 1) k
    rw [Chan.put, hrest, List.length_cons]
    by_cases hk : k = i
    · subst hk
      rw [if_neg (by omega), if_pos (by omega), Nat.sub_self]
      simp [Chan.word]
    · have hword : ({ x with data := Tab.put 0 x.data i (BitVec.ofNat 32 w) } : Chan).word k = x.word k := by
        simp [Chan.word, Tab.get_put_ne, hk]
      rw [hword]
      by_cases hin : i + 1 ≤ k ∧ k < i + 1 + t.length
      · rw [if_pos hin, if_pos (by omega)]
        have hpred : k - i = (k - (i + 1)) + 1 := by omega
        rw [hpred, List.getD_cons_succ]
      · rw [if_neg hin, if_neg (by omega)]

theorem mbHeader_lt (opc count tag : Nat) : mbHeader opc count tag < 2 ^ 32 := by
  unfold mbHeader
  omega

section
variable (s : State) (h : Nat) (secure : Bool) (n status : Nat) (ws : List Nat)

theorem State.reply_replied (hstatus : status < 2 ^ 32) : Replied s (s.reply h secure n status ws) h secure n status ws := by
  have hchan : (s.reply h secure n status ws).chan h secure n =
      { (s.chan h secure n).put 0 (mbHeader (s.chan h secure n).opcode (1 + ws.length) (s.chan h secure n).tag ::
        status :: ws) with go := false, busy := false } := State.chan_modChan_self ..
  have hword : ∀ k, ((s.reply h secure n status ws).chan h secure n).word k =
      ((s.chan h secure n).put 0 (mbHeader (s.chan h secure n).opcode (1 + ws.length) (s.chan h secure n).tag ::
        status :: ws)).word k := fun k => by rw [hchan]; rfl
  refine ⟨by rw [hchan], ?_, ?_, fun i hi => ?_⟩
  · rw [hword, Chan.word_put, if_pos (by simp)]
    exact Nat.mod_eq_of_lt (mbHeader_lt ..)
  · rw [hword, Chan.word_put, if_pos (by simp)]
    exact Nat.mod_eq_of_lt hstatus
  · rw [hword, Chan.word_put, if_pos (by simp; omega), Nat.sub_zero, Nat.add_comm 2 i]
    rfl

theorem State.reply_frame : s.reply h secure n status ws = { s with hosts := (s.reply h secure n status ws).hosts } := rfl
end

/-- A reply to a channel that reads the same. -/
theorem replied_of_chan {s u t : State} {h : Nat} {secure : Bool} {n status : Nat} {ws : List Nat}
    (hr : Replied u t h secure n status ws) (hsame : u.chan h secure n = s.chan h secure n) :
    Replied s t h secure n status ws := by
  rw [Replied, ← hsame]
  exact hr

/-! ## FW_COMMIT ends (R435) -/

/-- The SVN that both slots reach. -/
def Sec.commitSvn (x : Sec) : Nat := min (fwSvn x.slotA) (fwSvn x.slotB)

theorem Sec.commitSvn_lt (x : Sec) : x.commitSvn < 2 ^ 32 :=
  Nat.lt_of_le_of_lt (Nat.min_le_left _ _) (fieldAt_lt x.slotA 0x14 4)

/-- What FW_COMMIT leaves of mason-S, and the RESULT and words of its reply. -/
def State.commitEnd (s : State) : Sec × List Nat :=
  let x := { s.sec with committing := none }
  if s.fwValid x.slotA && s.fwValid x.slotB then
    if x.commitSvn ≤ x.arb.toNat then (x, [resOk, x.arb.toNat])
    else match x.rpmbWrite (BitVec.ofNat 32 x.commitSvn) x.licGen x.keyGen with
      | some y => (y, [resOk, x.commitSvn])
      | none => (x, [resFlash, x.arb.toNat])
  else (x, [resNoValid, x.arb.toNat])

section
variable {s : State} {o : MbOp}

theorem State.fwCommitDone_eq (hup : s.masonUp = true) (hrun : s.sec.committing = some o)
    (hbusy : (s.chan o.port true o.ch).busy = true) : s.fwCommitDone =
      State.reply { s with sec := s.commitEnd.1 } o.port true o.ch mbOk s.commitEnd.2 := by
  have hlate : ∀ (x : Sec) (ws : List Nat), ({ s with sec := x } : State).lateReply o true mbOk ws =
      State.reply { s with sec := x } o.port true o.ch mbOk ws := fun x ws => if_pos hbusy
  unfold State.fwCommitDone
  simp only [hrun, hup, Bool.not_true, if_neg Bool.false_ne_true, hlate]
  rw [State.commitEnd]
  cases hboth : s.fwValid s.sec.slotA && s.fwValid s.sec.slotB with
  | false => simp
  | true =>
    by_cases hle : min (fwSvn s.sec.slotA) (fwSvn s.sec.slotB) ≤ s.sec.arb.toNat
    · simp [hle, Sec.commitSvn]
    · simp only [hle, Sec.commitSvn, if_true, if_false]
      generalize Sec.rpmbWrite _ _ _ _ = w
      cases w with
      | some y => rfl
      | none => rfl
end

/-- A write of the block under a key. -/
theorem Sec.rpmbWrite_own {x : Sec} (hkey : x.writeKey = some x.rpmbKey) (c : BitVec 32) :
    x.rpmbWrite c x.licGen x.keyGen = some { x with arb := c, rpmbCtr := x.rpmbCtr + 1 } := by
  rw [Sec.rpmbWrite, hkey, Option.bind_some, Sec.rpmbTake, if_pos ⟨rfl, rfl⟩]

theorem Sec.rpmbWrite_other {x : Sec} {c : BitVec 32} (hkey : ∀ key, x.writeKey = some key →
    rpmbTag key x.rpmbCtr c x.licGen x.keyGen ≠ rpmbTag x.rpmbKey x.rpmbCtr c x.licGen x.keyGen) :
    x.rpmbWrite c x.licGen x.keyGen = none := by
  rw [Sec.rpmbWrite]
  cases hk : x.writeKey with
  | none => rfl
  | some key =>
    rw [Option.bind_some, Sec.rpmbTake, if_neg fun h => hkey key hk h.2]

theorem Sec.rpmbWrite_frame {x y : Sec} {c : BitVec 32} (h : x.rpmbWrite c x.licGen x.keyGen = some y) :
    y = { x with arb := y.arb, rpmbCtr := y.rpmbCtr } := by
  rw [Sec.rpmbWrite] at h
  obtain ⟨key, -, h⟩ := Option.bind_eq_some_iff.mp h
  rw [Sec.rpmbTake] at h
  split at h
  · rw [← Option.some.inj h]
  · cases h

section
variable {s : State}

theorem State.commitEnd_invalid (h : ¬ (s.fwValid s.sec.slotA && s.fwValid s.sec.slotB) = true) :
    s.commitEnd = ({ s.sec with committing := none }, [9, s.sec.arb.toNat]) := if_neg h

theorem State.commitEnd_kept (hvalid : (s.fwValid s.sec.slotA && s.fwValid s.sec.slotB) = true)
    (hle : s.sec.commitSvn ≤ s.sec.arb.toNat) :
    s.commitEnd = ({ s.sec with committing := none }, [0, s.sec.arb.toNat]) := (if_pos hvalid).trans (if_pos hle)

theorem State.commitEnd_raised (hvalid : (s.fwValid s.sec.slotA && s.fwValid s.sec.slotB) = true)
    (hlt : s.sec.arb.toNat < s.sec.commitSvn) : s.commitEnd =
      match ({ s.sec with committing := none } : Sec).rpmbWrite (BitVec.ofNat 32 s.sec.commitSvn) s.sec.licGen
        s.sec.keyGen with
      | some y => (y, [0, s.sec.commitSvn])
      | none => ({ s.sec with committing := none }, [5, s.sec.arb.toNat]) :=
  (if_pos hvalid).trans (if_neg (Nat.not_le_of_gt hlt))

theorem State.commitEnd_frame : s.commitEnd.1 =
    { s.sec with committing := none, arb := s.commitEnd.1.arb, rpmbCtr := s.commitEnd.1.rpmbCtr } := by
  unfold State.commitEnd
  dsimp only
  split
  · split
    · rfl
    · split
      · rename_i y hy
        exact Sec.rpmbWrite_frame hy
      · rfl
  · rfl
end

/-- Settles O57, by what the end of FW_COMMIT leaves of mason-S and of its channel. -/
theorem firmwareCommit : Obligations.FirmwareCommit := by
  unfold Obligations.FirmwareCommit
  intro s o hup hrun hbusy c both tag
  have heq := State.fwCommitDone_eq hup hrun hbusy
  have hreply := State.reply_replied { s with sec := s.commitEnd.1 } o.port true o.ch mbOk s.commitEnd.2 (by decide)
  have hframe := State.reply_frame { s with sec := s.commitEnd.1 } o.port true o.ch mbOk s.commitEnd.2
  rw [← heq] at hreply hframe
  have hrep : Replied s s.fwCommitDone o.port true o.ch 0 s.commitEnd.2 := replied_of_chan hreply rfl
  have hsec : s.fwCommitDone.sec = s.commitEnd.1 := by rw [hframe]
  have hboth : both ↔ (s.fwValid s.sec.slotA && s.fwValid s.sec.slotB) = true := Bool.and_eq_true_iff.symm
  refine ⟨s.fwCommitDone, rfl, hframe.trans (by rw [hsec]), ?_, fun hb hlt => ⟨fun hkey => ?_, fun hkey => ?_⟩,
    fun hb hle => ?_, fun hb => ?_, fun hmax => ?_⟩
  · rw [hsec]
    exact s.commitEnd_frame
  · have hend := State.commitEnd_raised (hboth.mp hb) hlt
    rw [Sec.rpmbWrite_own (x := { s.sec with committing := none }) hkey] at hend
    rw [hend] at hrep hsec
    refine ⟨?_, by rw [hsec], hrep⟩
    rw [hsec]
    exact (BitVec.toNat_ofNat _ _).trans (Nat.mod_eq_of_lt s.sec.commitSvn_lt)
  · have hend := State.commitEnd_raised (hboth.mp hb) hlt
    rw [Sec.rpmbWrite_other (x := { s.sec with committing := none }) (c := BitVec.ofNat 32 s.sec.commitSvn) hkey] at hend
    rw [hend] at hrep hsec
    exact ⟨by rw [hsec], by rw [hsec], _, hrep⟩
  · rw [State.commitEnd_kept (hboth.mp hb) hle] at hrep hsec
    exact ⟨by rw [hsec], _, hrep⟩
  · rw [State.commitEnd_invalid fun h => hb (hboth.mpr h)] at hrep hsec
    exact ⟨by rw [hsec], _, hrep⟩
  · have hle : s.sec.commitSvn ≤ s.sec.arb.toNat := by
      rw [hmax]
      exact Nat.le_pred_of_lt s.sec.commitSvn_lt
    by_cases hb : both
    · rw [hsec, State.commitEnd_kept (hboth.mp hb) hle]
    · rw [hsec, State.commitEnd_invalid fun h => hb (hboth.mpr h)]

end Sys2Proof.Machine
end

section
/-!
SUPPORT. Epochs: FLIP, RELEASE and the lookup of a route (R66, R277, R285, R286).
-/
namespace Sys2Proof.Machine

/-! ## FLIP (R66, R285) -/

section
variable {s : State} {h : Nat}

/-- A write of the RTE block by the owner. -/
theorem State.rteWrite_of (hw : s.writable = true) (hown : s.ownedBy h = true) :
    (s.emptyLatch (portReq h)).rteWrite h = true := Bool.and_eq_true_iff.mpr ⟨hw, hown⟩

/-- The epochs after a FLIP, before a spare is adopted. -/
def State.flipped (s : State) : State :=
  ((s.setHalf (!s.rte.inj) .active).setHalf s.rte.inj .draining).modRte fun r =>
    { r with inj := !s.rte.inj, send := r.send.map fun f => { f with flipped := true } }

theorem State.flip_eq (hw : s.writable = true) (hown : s.ownedBy h = true) : s.flip h =
    if s.half (!s.rte.inj) = .free ∧ s.rte.half0 ≠ .draining ∧ s.rte.half1 ≠ .draining then
      ((s.emptyLatch (portReq h)).flipped).adopt else s.emptyLatch (portReq h) := by
  have hwrite := State.rteWrite_of hw hown
  unfold State.flip
  dsimp only
  rw [hwrite]
  change (if (!true || !(s.half (!s.rte.inj) == .free) || (s.rte.half0 == .draining || s.rte.half1 == .draining)) = true
    then _ else _) = _
  simp only [Bool.not_true, Bool.false_or, Bool.or_eq_true, Bool.not_eq_true', beq_eq_false_iff_ne, beq_iff_eq, ne_eq]
  by_cases hok : s.half (!s.rte.inj) = .free ∧ ¬ s.rte.half0 = .draining ∧ ¬ s.rte.half1 = .draining
  · rw [if_pos hok, if_neg (by tauto)]
    rfl
  · rw [if_neg hok, if_pos (by tauto)]

/-- What a FLIP leaves of the epochs. -/
theorem State.flipped_left (s : State) : s.flipped = { s with rte := s.flipped.rte } ∧
    s.flipped.rte.inj = !s.rte.inj ∧ s.flipped.half (!s.rte.inj) = .active ∧ s.flipped.half s.rte.inj = .draining ∧
    s.flipped.rte.routes = s.rte.routes ∧ s.flipped.rte.recv = s.rte.recv ∧
    s.flipped.rte.send = s.rte.send.map fun f => { f with flipped := true } := by
  unfold State.flipped
  cases s.rte.inj with
  | false => exact ⟨rfl, rfl, rfl, rfl, rfl, rfl, rfl⟩
  | true => exact ⟨rfl, rfl, rfl, rfl, rfl, rfl, rfl⟩

theorem State.adopt_frame (s : State) : s.adopt = { s with cfg := s.adopt.cfg } := by
  unfold State.adopt
  split
  · rfl
  · split
    · rfl
    · rfl

theorem State.adopt_none (hnone : s.cfg.adopt = none) : s.adopt = s := by
  unfold State.adopt
  rw [hnone]

theorem State.adopt_some {a : Adoption} (ha : s.cfg.adopt = some a) (hhalf : a.half = s.rte.inj) : s.adopt.cfg =
    { s.cfg with slice := { s.cfg.slice with role := 0, nodeId := a.nodeId }, cast := a.cast.getD s.cfg.cast,
                 adopt := none } := by
  unfold State.adopt
  simp only [ha, hhalf, ne_eq, not_true, if_false]
end

/-! ## RELEASE (R286) -/

section
variable {s : State} {h : Nat} {ep : Bool}

/-- The packets of an epoch that are yet to be acknowledged or given up. -/
def State.openOf (s : State) (ep : Bool) : Nat :=
  ((s.rte.send.filter fun f => f.id.epoch == ep).map fun f => f.unacked.length).sum +
    (s.rte.waiting.countP fun w => w.pkt.epoch == ep) + s.stepPackets ep

theorem State.drained_iff (hdrain : s.half ep = .draining) (hother : s.half (!ep) ≠ .draining) :
    s.drained = true ↔ s.openOf ep = 0 := by
  unfold State.drained State.oldOpen
  cases ep with
  | false =>
    have h0 : s.rte.half0 = .draining := hdrain
    simp [h0, State.openOf]
  | true =>
    have h1 : s.rte.half1 = .draining := hdrain
    have h0 : s.rte.half0 ≠ .draining := hother
    simp [h0, h1, State.openOf]

theorem State.openOf_zero (hsend : ∀ f ∈ s.rte.send, f.id.epoch = ep → f.unacked = [])
    (hwait : ∀ w ∈ s.rte.waiting, w.pkt.epoch ≠ ep) (hsteps : s.stepPackets ep = 0) : s.openOf ep = 0 := by
  have hsum : ((s.rte.send.filter fun f => f.id.epoch == ep).map fun f => f.unacked.length).sum = 0 :=
    List.sum_eq_zero fun n hn => by
      obtain ⟨f, hf, rfl⟩ := List.mem_map.mp hn
      obtain ⟨hmem, hep⟩ := List.mem_filter.mp hf
      rw [hsend f hmem (beq_iff_eq.mp hep)]
      rfl
  have hcount : (s.rte.waiting.countP fun w => w.pkt.epoch == ep) = 0 :=
    List.countP_eq_zero.mpr fun w hw => by simpa using hwait w hw
  rw [State.openOf, hsum, hcount, hsteps]

theorem State.openOf_pos (hopen : (∃ f ∈ s.rte.send, f.id.epoch = ep ∧ f.unacked ≠ []) ∨ s.stepPackets ep ≠ 0) :
    s.openOf ep ≠ 0 := by
  rw [State.openOf]
  rcases hopen with ⟨f, hf, hep, hne⟩ | hsteps
  · have hmem : f ∈ s.rte.send.filter fun f => f.id.epoch == ep := List.mem_filter.mpr ⟨hf, beq_iff_eq.mpr hep⟩
    have hle := List.le_sum_of_mem (List.mem_map_of_mem (f := fun f : SendFlow => f.unacked.length) hmem)
    have hlen := List.length_pos_iff.mpr hne
    omega
  · omega

theorem State.release_eq (hw : s.writable = true) (hown : s.ownedBy h = true) : s.release h =
    if s.drained then (s.emptyLatch (portReq h)).modRte fun r => { r with
      half0 := if r.half0 = .draining then .free else r.half0, half1 := if r.half1 = .draining then .free else r.half1 }
    else s.emptyLatch (portReq h) := by
  have hwrite := State.rteWrite_of hw hown
  unfold State.release
  dsimp only
  rw [hwrite]
  change (if (!true || !s.drained) = true then _ else _) = _
  cases s.drained <;> rfl
end

section
variable {s : State} {h : Nat}

theorem exec_flip_done (hh : h < 2) (hw : s.writable = true) (hown : s.ownedBy h = true)
    (hfree : s.half (!s.rte.inj) = .free) (h0 : s.rte.half0 ≠ .draining) (h1 : s.rte.half1 ≠ .draining) :
    ∃ t, exec (.flip h) s = .next t ∧ t = { s with rte := t.rte, cfg := t.cfg, latches := t.latches } ∧
      t.rte = (s.emptyLatch (portReq h)).flipped.rte ∧ (s.cfg.adopt = none → t.cfg = s.cfg) ∧
      ∀ a, s.cfg.adopt = some a → a.half = (!s.rte.inj) →
        t.cfg = { s.cfg with slice := { s.cfg.slice with role := 0, nodeId := a.nodeId },
                             cast := a.cast.getD s.cfg.cast, adopt := none } := by
  have hexec : exec (.flip h) s = .next ((s.emptyLatch (portReq h)).flipped).adopt :=
    (guarded_ok (decide_eq_true hh) _).trans (by rw [State.flip_eq hw hown, if_pos ⟨hfree, h0, h1⟩])
  obtain ⟨hframe, hinj, -⟩ := (s.emptyLatch (portReq h)).flipped_left
  generalize (s.emptyLatch (portReq h)).flipped = u at *
  have hadopt := u.adopt_frame
  have hcfg : u.cfg = s.cfg := by rw [hframe]; rfl
  refine ⟨_, hexec, ?_, by rw [hadopt], fun hnone => ?_, fun a ha hhalf => ?_⟩
  · generalize u.adopt = w at *
    rw [hadopt, hframe]
    rfl
  · rw [State.adopt_none (by rw [hcfg, hnone]), hcfg]
  · rw [State.adopt_some (by rw [hcfg, ha]) (hhalf.trans hinj.symm), hcfg]

theorem exec_release (hh : h < 2) (hw : s.writable = true) (hown : s.ownedBy h = true) : exec (.release h) s = .next
    (if s.drained then (s.emptyLatch (portReq h)).modRte fun r => { r with
      half0 := if r.half0 = .draining then .free else r.half0, half1 := if r.half1 = .draining then .free else r.half1 }
    else s.emptyLatch (portReq h)) :=
  (guarded_ok (decide_eq_true hh) _).trans (congrArg _ (State.release_eq hw hown))

/-- The entry that a lookup reads. -/
theorem State.entry_lookup (s : State) (v : Nat) : BitVec.ofNat 32 (s.entry (bits v 22 21) (bit (bits v 20 0) 20)
    (bits v 20 0 % 2 ^ 20)) = Tab.get 0 (Tab.get [] s.rte.routes (2 * bits v 22 21 + bits v 20 20))
      (bits v 20 0 % 2 ^ 20) := by
  have hbit : b2n (bit (bits v 20 0) 20) = bits v 20 20 := by
    rw [b2n_eq]
    simp only [bit, bits, beq_iff_eq]
    split
    · omega
    · omega
  rw [State.entry, BitVec.ofNat_toNat, hbit]
  rfl
end

/-- Settles O41: FLIP, RELEASE and the lookup, each by what its write leaves of the epochs. -/
theorem epochs : Obligations.Epochs := by
  unfold Obligations.Epochs
  intro s h hh hw hown
  have hkept : s.emptyLatch (portReq h) = { s with latches := (s.emptyLatch (portReq h)).latches } := rfl
  refine ⟨fun hfree h0 h1 => ?_, fun hno => ?_, fun ep hdrain hother => ⟨fun hsend hwait hsteps => ?_, fun hopen => ?_⟩,
    fun v => ?_⟩
  · obtain ⟨t, ht, hframe, hrte, hnone, hsome⟩ := exec_flip_done hh hw hown hfree h0 h1
    obtain ⟨-, hinj, hactive, hdraining, hroutes, hrecv, hsend⟩ := (s.emptyLatch (portReq h)).flipped_left
    have hhalf : ∀ ep, t.half ep = (s.emptyLatch (portReq h)).flipped.half ep := fun ep => by
      rw [State.half, hrte, ← State.half]
    refine ⟨t, ht, hframe, by rw [hrte, hinj]; rfl, (hhalf _).trans hactive, (hhalf _).trans hdraining,
      by rw [hrte, hroutes]; rfl, by rw [hrte, hrecv]; rfl, ?_, hnone, fun a ha hh => ?_⟩
    · rw [hrte, hsend, List.map_map]
      rfl
    · rw [hsome a ha hh]
      exact ⟨rfl, rfl, rfl⟩
  · refine ⟨_, (guarded_ok (decide_eq_true hh) _).trans ?_, hkept⟩
    rw [State.flip_eq hw hown, if_neg (by tauto)]
  · have hexec := exec_release hh hw hown
    rw [if_pos ((State.drained_iff hdrain hother).mpr (State.openOf_zero hsend hwait hsteps))] at hexec
    refine ⟨_, hexec, rfl, ?_, ?_, rfl⟩
    · cases ep with
      | false => exact if_pos hdrain
      | true => exact if_pos hdrain
    · cases ep with
      | false => exact if_neg hother
      | true => exact if_neg hother
  · have hexec := exec_release hh hw hown
    rw [if_neg fun h => State.openOf_pos hopen ((State.drained_iff hdrain hother).mp h)] at hexec
    exact ⟨_, hexec, hkept⟩
  · have hwrite := State.rteWrite_of hw hown
    refine ⟨_, guarded_ok (decide_eq_true hh) _, ?_, ?_⟩
    · unfold State.rteLookup
      dsimp only
      rw [hwrite]
      rfl
    · unfold State.rteLookup
      dsimp only
      rw [hwrite, (s.emptyLatch (portReq h)).entry_lookup]
      rfl

end Sys2Proof.Machine
end

section
/-!
SUPPORT. Rung 3 (R331, R332).
-/
namespace Sys2Proof.Machine

/-! ## Tables mapped by key -/

theorem Tab.get_foldl_put {α : Type} [DecidableEq α] {d : α} {f : Nat → Bool} {g : α → α} (hg : ∀ x, g (g x) = g x)
    (k : Nat) : ∀ (l u : Tab α),
    Tab.get d (l.foldl (fun u x => if f x.1 then Tab.put d u x.1 (g (Tab.get d u x.1)) else u) u) k =
      if f k = true ∧ k ∈ l.map (·.1) then g (Tab.get d u k) else Tab.get d u k
  | [], u => by simp
  | x :: l, u => by
    rw [List.foldl_cons, Tab.get_foldl_put hg k l]
    by_cases hfk : f k = true
    · by_cases hk : k = x.1
      · subst hk
        simp only [hfk, if_true, Tab.get_put_self, List.map_cons, List.mem_cons, true_or, and_self]
        split
        · exact hg _
        · rfl
      · have hget : Tab.get d (if f x.1 = true then Tab.put d u x.1 (g (Tab.get d u x.1)) else u) k = Tab.get d u k := by
          split
          · exact Tab.get_put_ne _ _ _ hk
          · rfl
        simp only [hget, List.map_cons, List.mem_cons, hk, false_or]
    · have hget : Tab.get d (if f x.1 = true then Tab.put d u x.1 (g (Tab.get d u x.1)) else u) k = Tab.get d u k := by
        split
        · rename_i hf
          exact Tab.get_put_ne _ _ _ fun h => hfk (h ▸ hf)
        · rfl
      rw [hget, if_neg fun h => hfk h.1, if_neg fun h => hfk h.1]

/-- A table mapped where a test names the key. -/
theorem Tab.get_mapIf {α : Type} [DecidableEq α] {d : α} {g : α → α} (hd : g d = d) (hg : ∀ x, g (g x) = g x)
    (t : Tab α) (f : Nat → Bool) (k : Nat) :
    Tab.get d (Tab.mapIf d t f g) k = if f k = true then g (Tab.get d t k) else Tab.get d t k := by
  rw [Tab.mapIf, Tab.get_foldl_put hg]
  by_cases hk : k ∈ t.map (·.1)
  · simp only [hk, and_true]
  · have hnone : Tab.find? t k = none := by
      cases hf : Tab.find? t k with
      | none => rfl
      | some v => exact absurd (List.mem_map.mpr ⟨(k, v), Tab.mem_of_find? hf, rfl⟩) hk
    have hget : Tab.get d t k = d := by rw [Tab.get, hnone]; rfl
    simp only [hk, and_false, hget, hd, ite_self]

/-! ## Rung 3 (R331, R332) -/

section
variable (s : State)

theorem Sec.abandon_frame (x : Sec) : x.abandon =
    { x with slotA := x.abandon.slotA, slotB := x.abandon.slotB, updating := x.abandon.updating } := by
  unfold Sec.abandon
  split
  · rfl
  · unfold Sec.putSlot
    split
    · rfl
    · rfl

theorem mem_portChans {h : Nat} : (∀ n < 12, (h, false, n) ∈ portChans h) ∧ ∀ n < 4, (h, true, n) ∈ portChans h :=
  ⟨fun n hn => List.mem_append_left _ (List.mem_map.mpr ⟨n, List.mem_range.mpr hn, rfl⟩),
    fun n hn => List.mem_append_right _ (List.mem_map.mpr ⟨n, List.mem_range.mpr hn, rfl⟩)⟩

theorem State.coldStart_port (p : Nat) : s.coldStart.port p = (s.port p).cold :=
  (Tab.get_mapIf (g := Port.cold) rfl (fun _ => rfl) s.ports (fun _ => true) p).trans (if_pos rfl)

/-- A host port as rung 3 leaves it. -/
def HostPort.cold (x : HostPort) : HostPort :=
  { x with dbDrop := 0, bar4Refused := 0, ns := [], sec := [], secBuf := [], secKind := 0 }

theorem State.coldStart_host (h : Nat) : s.coldStart.host h = (s.host h).cold :=
  (Tab.get_mapIf (g := HostPort.cold) rfl (fun _ => rfl) s.hosts (fun _ => true) h).trans (if_pos rfl)

theorem State.coldStart_cleared (h : Nat) (hh : h < 2) : (∀ n < 12, (h, false, n) ∈ s.coldStart.clearedNow) ∧
    ∀ n < 4, (h, true, n) ∈ s.coldStart.clearedNow := by
  obtain rfl | rfl : h = 0 ∨ h = 1 := by omega
  · exact ⟨fun n hn => List.mem_append_left _ (mem_portChans.1 n hn),
      fun n hn => List.mem_append_left _ (mem_portChans.2 n hn)⟩
  · exact ⟨fun n hn => List.mem_append_right _ (mem_portChans.1 n hn),
      fun n hn => List.mem_append_right _ (mem_portChans.2 n hn)⟩

/-- The module as rung 3 starts. -/
def State.rung3Start : State := { s.coldStart with bu := { s.coldStart.bu with rung3 := true } }

theorem State.ckpModReset_eq {s : State} {r : Requester} {v : W32} (hup : s.masonUp = true)
    (hmay : s.ownerOrBus r = true) : s.ckpModReset r v =
    if v.toNat % 256 = 0xA5 ∧ s.rung3Runs = false then (s.emptyLatch r).rung3Start else s.emptyLatch r := by
  have hgo : ∀ may : Bool, may = true → (if !(s.emptyLatch r).masonUp || !may || decide (v.toNat % 256 ≠ 0xA5) ||
      (s.emptyLatch r).rung3Runs then s.emptyLatch r else (s.emptyLatch r).rung3Start) =
      if v.toNat % 256 = 0xA5 ∧ s.rung3Runs = false then (s.emptyLatch r).rung3Start else s.emptyLatch r := by
    intro may hm
    have hup' : (s.emptyLatch r).masonUp = true := hup
    have hruns : (s.emptyLatch r).rung3Runs = s.rung3Runs := rfl
    rw [hup', hm, hruns]
    by_cases hv : v.toNat % 256 = 0xA5
    · cases s.rung3Runs <;> simp [hv]
    · simp [hv]
  cases r with
  | hp0 => exact hgo _ hmay
  | hp1 => exact hgo _ hmay
  | smb => exact hgo _ hmay

theorem State.rung3Runs_iff (s : State) : s.rung3Runs = false ↔ s.bu.rung3 = false ∨ s.bu.st = .failed ∨ s.bu.st = .ready := by
  unfold State.rung3Runs
  cases s.bu.rung3 <;> simp [Decidable.imp_iff_not_or]
end

/-- Settles O51, field by field of the cold start. -/
theorem moduleReset : Obligations.ModuleReset := by
  unfold Obligations.ModuleReset
  intro s r v hup hmay
  refine ⟨fun hv hidle => ⟨(s.emptyLatch r).rung3Start, ?_, ?_⟩, fun hno => ⟨s.emptyLatch r, ?_, rfl⟩⟩
  · change Host.Outcome.next (s.ckpModReset r v) = _
    rw [State.ckpModReset_eq hup hmay, if_pos ⟨hv, s.rung3Runs_iff.mpr hidle⟩]
  · have hsec := s.sec.abandon_frame
    refine ⟨⟨rfl, rfl, rfl⟩, rfl, rfl, rfl, rfl, rfl, rfl, rfl, rfl, rfl, rfl, rfl, rfl, rfl, rfl, rfl, rfl, rfl, ?_, ?_,
      rfl, rfl, rfl, rfl, rfl, rfl, (s.emptyLatch r).coldStart_cleared, fun _ => rfl, fun _ => rfl, fun _ => rfl,
      fun _ => rfl, fun _ => rfl, (s.emptyLatch r).coldStart_port, (s.emptyLatch r).coldStart_host⟩
    · have hrecords := congrArg Sec.records hsec
      exact hrecords
    · have harb := congrArg Sec.arb hsec
      exact harb
  · change Host.Outcome.next (s.ckpModReset r v) = _
    rw [State.ckpModReset_eq hup hmay, if_neg]
    rintro ⟨hv, hruns⟩
    rcases hno with h | ⟨h1, h2, h3⟩
    · exact h hv
    · rcases s.rung3Runs_iff.mp hruns with h | h | h
      · exact absurd (h1.symm.trans h) (by decide)
      · exact h2 h
      · exact h3 h

end Sys2Proof.Machine
end

section
/-!
SUPPORT. Rung 2: its start and its end (R329, R330).
-/
namespace Sys2Proof.Machine

theorem Tab.find?_mapKey {α : Type} (g : Nat → α → α) (k : Nat) : ∀ t : Tab α,
    Tab.find? (t.map fun x => (x.1, g x.1 x.2)) k = (Tab.find? t k).map (g k)
  | [] => rfl
  | x :: t => by
    rw [List.map_cons, Tab.find?, Tab.find?]
    split
    · rename_i h
      rw [← h]
      rfl
    · exact Tab.find?_mapKey g k t

/-! ## Rung 2 starts (R329 steps 1 and 2) -/

/-- A partition in which rung 2 has started. -/
def Part.resetting (x : Part) : Part :=
  if x.halted then { x with resetBusy := true }
  else { x with resetBusy := true, halted := true, haltCause := 0, haltEngine := 0, haltNoEngine := true }

/-- The copies of an engine, their completions discarded. -/
def Engine.dropCopies (x : Engine) : Engine := { x with copies := x.copies.map fun o => { o with reset := true } }

section
variable (s : State) (p : Nat)

/-- The engines of a partition, their copies discarded. -/
def State.dropPartCopies (s : State) (p : Nat) : State :=
  { s with engines := s.engines.map fun (e, x) => if s.partOfEngine e == some p then (e, x.dropCopies) else (e, x) }

theorem State.eng_dropPartCopies (e : Nat) : (s.dropPartCopies p).eng e =
    if s.partOfEngine e = some p then (s.eng e).dropCopies else s.eng e := by
  have hmap : (s.dropPartCopies p).engines = s.engines.map fun x =>
      (x.1, if s.partOfEngine x.1 = some p then x.2.dropCopies else x.2) := by
    refine List.map_congr_left fun x _ => ?_
    dsimp only
    by_cases h : s.partOfEngine x.1 = some p
    · rw [if_pos h, if_pos (beq_iff_eq.mpr h)]
    · rw [if_neg h, if_neg fun h' => h (beq_iff_eq.mp h')]
  rw [State.eng, hmap, Tab.get,
    Tab.find?_mapKey (fun k x => if s.partOfEngine k = some p then Engine.dropCopies x else x), State.eng, Tab.get]
  cases Tab.find? s.engines e with
  | none =>
    split
    · rfl
    · rfl
  | some x =>
    split
    · rfl
    · rfl

theorem State.partResetStart_eq (hbusy : (s.part p).resetBusy = false) :
    s.partResetStart p = ((s.castFail 0x0A).modPart p Part.resetting).dropPartCopies p := by
  exact if_neg (by rw [hbusy]; decide)

/-- The cast engine as a fault with code 0x0A leaves it. -/
def Ckp.failed (x : Ckp) : Ckp :=
  if x.st = 1 ∨ x.st = 3 then { x with st := 5, code := 0x0A, sending := none, restoring := none } else x

theorem State.castFail_eq : s.castFail 0x0A = { s with ckp := s.ckp.failed } := by
  unfold State.castFail Ckp.failed
  split
  · rfl
  · rfl

/-- What the start of rung 2 on the partitions of a list leaves. -/
structure Resetting (s t : State) (starts : Nat → Prop) : Prop where
  frame : t = { s with ckp := t.ckp, parts := t.parts, engines := t.engines }
  started : ∀ p, starts p → t.part p = (s.part p).resetting
  other : ∀ p, ¬ starts p → t.part p = s.part p
  eng : ∀ e, t.eng e = { s.eng e with copies := (t.eng e).copies }
  copies : ∀ e p, s.partOfEngine e = some p → starts p → ∀ o ∈ (t.eng e).copies, o.reset = true
  kept : ∀ e, (∀ o ∈ (s.eng e).copies, o.reset = true) → ∀ o ∈ (t.eng e).copies, o.reset = true
  ckp : (∃ p, starts p) → t.ckp = s.ckp.failed
  ckpKept : t.ckp = s.ckp.failed ∨ t.ckp = s.ckp

theorem Resetting.refl : Resetting s s fun _ => False :=
  ⟨rfl, fun _ h => h.elim, fun _ _ => rfl, fun _ => rfl, fun _ _ _ h => h.elim, fun _ h => h, fun h => h.elim fun _ h => h.elim,
    .inr rfl⟩

theorem Ckp.failed_failed (x : Ckp) : x.failed.failed = x.failed := by
  unfold Ckp.failed
  by_cases h : x.st = 1 ∨ x.st = 3
  · rw [if_pos h]
    exact if_neg (by simp)
  · rw [if_neg h, if_neg h]

theorem State.partResetStart_resetting (hbusy : (s.part p).resetBusy = false) :
    Resetting s (s.partResetStart p) fun q => q = p := by
  rw [State.partResetStart_eq _ _ hbusy, State.castFail_eq]
  have hparts : ∀ q, (State.modPart { s with ckp := s.ckp.failed } p Part.resetting).part q =
      if q = p then (s.part p).resetting else s.part q := fun q => State.part_modPart ..
  have heng := State.eng_dropPartCopies (State.modPart { s with ckp := s.ckp.failed } p Part.resetting) p
  have hmod : State.modPart { s with ckp := s.ckp.failed } p Part.resetting =
      { s with ckp := s.ckp.failed, parts := (State.modPart { s with ckp := s.ckp.failed } p Part.resetting).parts } := rfl
  generalize State.modPart { s with ckp := s.ckp.failed } p Part.resetting = u at *
  have hdrop : u.dropPartCopies p = { u with engines := (u.dropPartCopies p).engines } := rfl
  have heng' : ∀ e, (u.dropPartCopies p).eng e = if s.partOfEngine e = some p then (s.eng e).dropCopies
      else s.eng e := fun e => by
    rw [heng, hmod]
    rfl
  generalize u.dropPartCopies p = t at *
  have hpart : ∀ q, t.part q = u.part q := fun q => by rw [hdrop]; rfl
  have hckp : t.ckp = s.ckp.failed := by rw [hdrop, hmod]
  refine ⟨?_, fun q hq => ?_, fun q hq => ?_, fun e => ?_, fun e q he hq o ho => ?_, fun e hall o ho => ?_,
    fun _ => hckp, .inl hckp⟩
  · rw [hdrop, hmod]
  · rw [hpart, hparts, if_pos hq, hq]
  · rw [hpart, hparts, if_neg hq]
  · rw [heng']
    split
    · rfl
    · rfl
  · subst hq
    rw [heng', if_pos he] at ho
    obtain ⟨o', -, rfl⟩ := List.mem_map.mp ho
    rfl
  · rw [heng'] at ho
    split at ho
    · obtain ⟨o', -, rfl⟩ := List.mem_map.mp ho
      rfl
    · exact hall o ho

theorem Resetting.trans {s t u : State} {a b : Nat → Prop} (h : Resetting s t a) (k : Resetting t u b)
    (hdisj : ∀ p, a p → ¬ b p) : Resetting s u fun p => a p ∨ b p where
  frame := by
    have hswap : ∀ x y z, { t with ckp := x, parts := y, engines := z } = { s with ckp := x, parts := y, engines := z } :=
      fun x y z => by rw [h.frame]
    exact k.frame.trans (hswap _ _ _)
  started p hp := by
    rcases hp with hp | hp
    · rw [k.other p (hdisj p hp), h.started p hp]
    · rw [k.started p hp, h.other p fun ha => hdisj p ha hp]
  other p hp := by rw [k.other p fun hb => hp (.inr hb), h.other p fun ha => hp (.inl ha)]
  eng e := by
    have hswap : ∀ c, { t.eng e with copies := c } = { s.eng e with copies := c } := fun c => by rw [h.eng]
    exact (k.eng e).trans (hswap _)
  copies e p he hp := by
    rcases hp with hp | hp
    · exact k.kept e (h.copies e p he hp)
    · exact k.copies e p (by rw [h.frame]; exact he) hp
  kept e hall := k.kept e (h.kept e hall)
  ckp hp := by
    obtain ⟨p, hp | hp⟩ := hp
    · have ht := h.ckp ⟨p, hp⟩
      rcases k.ckpKept with hu | hu
      · rw [hu, ht, Ckp.failed_failed]
      · rw [hu, ht]
    · have hu := k.ckp ⟨p, hp⟩
      rcases h.ckpKept with ht | ht
      · rw [hu, ht, Ckp.failed_failed]
      · rw [hu, ht]
  ckpKept := by
    rcases k.ckpKept with hu | hu
    · rcases h.ckpKept with ht | ht
      · exact .inl (by rw [hu, ht, Ckp.failed_failed])
      · exact .inl (by rw [hu, ht])
    · rw [hu]
      exact h.ckpKept
end

/-- Rung 2 starts on those of a list of partitions that a test names. -/
theorem State.foldl_partResetStart (f : Nat → Bool) : ∀ (l : List Nat) (s : State), l.Nodup →
    Resetting s (l.foldl (fun u p => if f p then u.partResetStart p else u) s)
      fun p => p ∈ l ∧ f p = true ∧ (s.part p).resetBusy = false
  | [], s, _ => by simpa using Resetting.refl s
  | p :: l, s, hnd => by
    obtain ⟨hp, hnd⟩ := List.nodup_cons.mp hnd
    have hfirst : Resetting s (if f p then s.partResetStart p else s)
        fun q => q = p ∧ f p = true ∧ (s.part p).resetBusy = false := by
      by_cases hf : f p = true
      · cases hb : (s.part p).resetBusy with
        | false => simpa [hf, hb] using s.partResetStart_resetting p hb
        | true =>
          have hkeep : s.partResetStart p = s := if_pos hb
          simpa [hf, hb, hkeep] using Resetting.refl s
      · simpa [hf] using Resetting.refl s
    have hrest := State.foldl_partResetStart f l (if f p then s.partResetStart p else s) hnd
    have hall := hfirst.trans hrest fun q hq hq' => hp (hq.1 ▸ hq'.1)
    have hsame : ∀ q ∈ l, ((if f p then s.partResetStart p else s).part q).resetBusy = (s.part q).resetBusy := fun q hq => by
      rw [hfirst.other q fun h => hp (h.1 ▸ hq)]
    rw [List.foldl_cons]
    refine cast (congrArg (Resetting s _) (funext fun q => propext ?_)) hall
    constructor
    · rintro (⟨rfl, h1, h2⟩ | ⟨hq, h1, h2⟩)
      · exact ⟨List.mem_cons_self, h1, h2⟩
      · exact ⟨List.mem_cons_of_mem _ hq, h1, by rw [← hsame q hq]; exact h2⟩
    · rintro ⟨hq, h1, h2⟩
      rcases List.mem_cons.mp hq with rfl | hq
      · exact .inl ⟨rfl, h1, h2⟩
      · exact .inr ⟨hq, h1, by rw [hsame q hq]; exact h2⟩

/-! ## Rung 2 ends (R329 steps 3 to 7, R330) -/

/-- A keystone line as rung 2 leaves it. -/
def KeyLine.wiped (x : KeyLine) : KeyLine :=
  { x with phase := 0, count := 0, reports := [], shareDone := false, mismatch := 0 }

section
variable (s : State) (p : Nat)

/-- One line is wiped. -/
def State.keyWipe (k : Nat) : State := (s.keyClear k).modKey k fun x => { x with mismatch := 0 }

theorem State.keyWipe_key (k j : Nat) : (s.keyWipe k).key j = if j = k then (s.key k).wiped else s.key j := by
  rw [State.keyWipe, State.key_modKey, s.keyClear_key, s.keyClear_key, if_pos rfl]
  split
  · rfl
  · rfl

theorem State.keyWipe_frame (k : Nat) : s.keyWipe k =
    { s with keys := (s.keyWipe k).keys, doms := (s.keyWipe k).doms, pwr := (s.keyWipe k).pwr } := by
  rw [State.keyWipe, State.keyClear]
  have hu : (s.modKey k fun x => { x with phase := 0, count := 0, reports := [], shareDone := false }) =
      { s with keys := (s.modKey k fun x => { x with phase := 0, count := 0, reports := [], shareDone := false }).keys } :=
    rfl
  generalize (s.modKey k fun x => { x with phase := 0, count := 0, reports := [], shareDone := false }) = u at hu ⊢
  have hwake := (u.keyWake_wakesOnly k).frame
  generalize u.keyWake k = v at hwake ⊢
  rw [hwake, hu]
  rfl
end

/-- The lines of partition `p` among a list are wiped. -/
def State.keysWiped (s : State) (p : Nat) (l : List Nat) : State :=
  l.foldl (fun s k => if s.keyOwner k == some p then s.keyWipe k else s) s

theorem State.keysWiped_spec (p : Nat) : ∀ (l : List Nat) (s : State),
    s.keysWiped p l = { s with keys := (s.keysWiped p l).keys, doms := (s.keysWiped p l).doms,
                               pwr := (s.keysWiped p l).pwr } ∧
    ∀ k, (s.keysWiped p l).key k = if k ∈ l ∧ s.keyOwner k = some p then (s.key k).wiped else s.key k
  | [], s => ⟨rfl, fun k => by simp [State.keysWiped]⟩
  | j :: l, s => by
    have hcons : s.keysWiped p (j :: l) = (if s.keyOwner j == some p then s.keyWipe j else s).keysWiped p l := rfl
    have hkey : ∀ k, (if s.keyOwner j == some p then s.keyWipe j else s).key k =
        if k = j ∧ s.keyOwner k = some p then (s.key k).wiped else s.key k := fun k => by
      by_cases hj : s.keyOwner j = some p
      · rw [if_pos (beq_iff_eq.mpr hj), State.keyWipe_key]
        by_cases hk : k = j
        · subst hk
          rw [if_pos rfl, if_pos ⟨rfl, hj⟩]
        · rw [if_neg hk, if_neg fun h => hk h.1]
      · rw [if_neg fun h => hj (beq_iff_eq.mp h), if_neg fun (h : k = j ∧ s.keyOwner k = some p) => hj (h.1 ▸ h.2)]
    have hfirst : (if s.keyOwner j == some p then s.keyWipe j else s) =
        { s with keys := (if s.keyOwner j == some p then s.keyWipe j else s).keys,
                 doms := (if s.keyOwner j == some p then s.keyWipe j else s).doms,
                 pwr := (if s.keyOwner j == some p then s.keyWipe j else s).pwr } := by
      split
      · exact s.keyWipe_frame j
      · rfl
    rw [hcons]
    generalize (if s.keyOwner j == some p then s.keyWipe j else s) = u at hkey hfirst ⊢
    obtain ⟨hframe, hrest⟩ := State.keysWiped_spec p l u
    have howner : ∀ k, u.keyOwner k = s.keyOwner k := fun k => by
      have hsame : (u.key k).owner = (s.key k).owner := by
        rw [hkey]
        split
        · rfl
        · rfl
      rw [State.keyOwner, hsame, ← State.keyOwner]
    refine ⟨?_, fun k => ?_⟩
    · generalize u.keysWiped p l = v at hframe ⊢
      rw [hframe, hfirst]
    · rw [hrest, howner, hkey]
      simp only [List.mem_cons]
      by_cases hk : k = j
      · subst hk
        simp only [true_or, true_and]
        split
        · split
          · rfl
          · rename_i h1 h2
            exact absurd h1.2 h2
        · rfl
      · simp only [hk, false_or, false_and, if_false]

/-- An off-load window that rung 2 has stopped. -/
def Ofl.rung2 (x : Ofl) : Ofl := { x with arm := false, busy := false, copy := none, sent := false, next := [] }

/-- A micro-batch slot that rung 2 has disarmed. -/
def MSlot.rung2 (x : MSlot) : MSlot := { x with arm := false }

/-- A partition whose rung 2 has ended. -/
def Part.rung2 (x : Part) : Part :=
  { x with halted := false, haltCause := 0, haltEngine := 0, haltNoEngine := false, planLock := false, carrying := none,
           served := [], resetBusy := false }

/-- The tables of a partition as rung 2 leaves them. -/
def State.partWiped (s : State) (p : Nat) : State :=
  { s.unhold (fun c => s.partOfCourse c == some p) with
    engines := Tab.mapIf Engine.reset s.engines (fun e => s.partOfEngine e == some p) Engine.rung2,
    courses := Tab.mapIf Course.reset s.courses (fun c => s.partOfCourse c == some p) Course.rung2,
    ctxs := Tab.mapIf Ctx.reset s.ctxs (fun n => s.partOfCtx n == some p) Ctx.rung2,
    mslots := Tab.mapIf MSlot.reset s.mslots (fun k => s.partOfSlot k == some p) MSlot.rung2,
    ofls := Tab.mapIf Ofl.reset s.ofls (fun k => k / 8 == p) Ofl.rung2 }

theorem State.partResetDone_eq {s : State} {p : Nat} (hlive : s.live = true) (hbusy : (s.part p).resetBusy = true)
    (hquiet : ∀ x ∈ s.engines, s.partOfEngine x.1 = some p → x.2.copies = []) : s.partResetDone p =
      ((((s.partWiped p).keysWiped p (List.range 16)).clearChan
        (((s.partWiped p).keysWiped p (List.range 16)).hostOf p) false (1 + p)).modPart p Part.rung2) := by
  have hidle : (s.engines.any fun (e, x) => (s.partOfEngine e == some p) && !x.copies.isEmpty) = false :=
    List.any_eq_false.mpr fun x hx => by
      by_cases hp : s.partOfEngine x.1 = some p
      · simp [hquiet x hx hp]
      · simp [hp]
  unfold State.partResetDone
  dsimp only
  rw [hlive, hbusy, hidle]
  rfl

theorem Tab.get_mapIf_owner {α : Type} [DecidableEq α] {d : α} {g : α → α} (hd : g d = d) (hg : ∀ x, g (g x) = g x)
    (t : Tab α) {f : Nat → Option Nat} {p k : Nat} :
    (f k = some p → Tab.get d (Tab.mapIf d t (fun e => f e == some p) g) k = g (Tab.get d t k)) ∧
    (f k ≠ some p → Tab.get d (Tab.mapIf d t (fun e => f e == some p) g) k = Tab.get d t k) :=
  ⟨fun h => (Tab.get_mapIf hd hg t _ k).trans (if_pos (beq_iff_eq.mpr h)),
    fun h => (Tab.get_mapIf hd hg t _ k).trans (if_neg fun h' => h (beq_iff_eq.mp h'))⟩

theorem Engine.rung2_rung2 (x : Engine) : x.rung2.rung2 = x.rung2 := by
  unfold Engine.rung2
  by_cases h : x.act = .disabled
  · simp [h]
  · simp [h]


theorem exec_ckpPartReset {s : State} {h : Nat} (v : W32) (hh : h < 2) (hw : s.writable = true) :
    ∃ t, exec (.ckpPartReset h v) s = .next t ∧ Resetting (s.emptyLatch (portReq h)) t fun p =>
      p ∈ List.range 8 ∧ (v.getLsbD p && (s.partCfg p).isSome && s.hostOf p == h) = true ∧
        (s.part p).resetBusy = false := by
  refine ⟨_, guarded_ok (decide_eq_true hh) _, ?_⟩
  have hstep : s.ckpPartReset h v = (List.range 8).foldl (fun u p =>
      if v.getLsbD p && (s.partCfg p).isSome && s.hostOf p == h then u.partResetStart p else u)
      (s.emptyLatch (portReq h)) := by
    have hkeep : ∀ (l : List Nat) (u : State), u.cfg = s.cfg →
        l.foldl (fun u p => if v.getLsbD p && (u.partCfg p).isSome && u.hostOf p == h then u.partResetStart p else u) u =
        l.foldl (fun u p => if v.getLsbD p && (s.partCfg p).isSome && s.hostOf p == h then u.partResetStart p else u) u := by
      intro l
      induction l with
      | nil => exact fun u _ => rfl
      | cons p l ih =>
        intro u hu
        have hpc : u.partCfg p = s.partCfg p := by rw [State.partCfg, hu, ← State.partCfg]
        have hho : u.hostOf p = s.hostOf p := by rw [State.hostOf, hpc, ← State.hostOf]
        rw [List.foldl_cons, List.foldl_cons, hpc, hho]
        refine ih _ ?_
        split
        · cases hb : (u.part p).resetBusy with
          | false => rw [(u.partResetStart_resetting p hb).frame, hu]
          | true => rw [State.partResetStart, if_pos hb, hu]
        · exact hu
    have hw' : (s.emptyLatch (portReq h)).writable = true := hw
    unfold State.ckpPartReset
    dsimp only
    rw [hw']
    exact hkeep _ _ rfl
  rw [hstep]
  exact State.foldl_partResetStart _ _ _ List.nodup_range

/-- What the end of rung 2 leaves. -/
structure PartEnded (s t : State) (p : Nat) : Prop where
  frame : t = { s.partWiped p with keys := t.keys, doms := t.doms, pwr := t.pwr, hosts := t.hosts,
                                   clearedNow := t.clearedNow, parts := t.parts }
  key : ∀ k < 16, (s.key k).owner = p → t.key k = (s.key k).wiped
  part : ∀ k, t.part k = if k = p then (s.part p).rung2 else s.part k
  go : (t.chan (s.hostOf p) false (1 + p)).go = false
  cleared : (s.hostOf p, false, 1 + p) ∈ t.clearedNow

theorem State.partResetDone_ended {s : State} {p : Nat} (hp : p < 8) (hlive : s.live = true)
    (hbusy : (s.part p).resetBusy = true) (hquiet : ∀ x ∈ s.engines, s.partOfEngine x.1 = some p → x.2.copies = []) :
    PartEnded s (s.partResetDone p) p := by
  rw [State.partResetDone_eq hlive hbusy hquiet]
  obtain ⟨hframe, hkey⟩ := State.keysWiped_spec p (List.range 16) (s.partWiped p)
  generalize (s.partWiped p).keysWiped p (List.range 16) = u at *
  have hhost : u.hostOf p = s.hostOf p := by rw [hframe]; rfl
  have hpart : ∀ k, ((u.clearChan (u.hostOf p) false (1 + p)).modPart p Part.rung2).part k =
      if k = p then (u.part p).rung2 else u.part k := fun k => State.part_modPart ..
  have hkeys : ∀ k, ((u.clearChan (u.hostOf p) false (1 + p)).modPart p Part.rung2).key k = u.key k := fun k => rfl
  have hchan : ((u.clearChan (u.hostOf p) false (1 + p)).modPart p Part.rung2).chan (u.hostOf p) false (1 + p) =
      (u.chan (u.hostOf p) false (1 + p)).clear := State.chan_modChan_self ..
  have hclear : ((u.clearChan (u.hostOf p) false (1 + p)).modPart p Part.rung2).clearedNow =
      u.clearedNow ++ [(u.hostOf p, false, 1 + p)] := rfl
  have hleft : ((u.clearChan (u.hostOf p) false (1 + p)).modPart p Part.rung2) = { u with
      hosts := ((u.clearChan (u.hostOf p) false (1 + p)).modPart p Part.rung2).hosts,
      clearedNow := ((u.clearChan (u.hostOf p) false (1 + p)).modPart p Part.rung2).clearedNow,
      parts := ((u.clearChan (u.hostOf p) false (1 + p)).modPart p Part.rung2).parts } := rfl
  generalize ((u.clearChan (u.hostOf p) false (1 + p)).modPart p Part.rung2) = t at *
  have hparts : ∀ k, u.part k = s.part k := fun k => by rw [hframe]; rfl
  refine ⟨?_, fun k hk ho => ?_, fun k => ?_, ?_, ?_⟩
  · rw [hleft, hframe]
  · have howner : (s.partWiped p).keyOwner k = some p := by
      change (if (s.key k).owner < 8 then some (s.key k).owner else none) = some p
      rw [ho, if_pos hp]
    rw [hkeys, hkey, if_pos ⟨List.mem_range.mpr hk, howner⟩]
    rfl
  · rw [hpart, hparts, hparts]
  · rw [← hhost, hchan]
    rfl
  · rw [hclear, ← hhost]
    exact List.mem_append_right _ List.mem_cons_self

/-- Settles O50: the start of rung 2 partition by partition, its end table by table. -/
theorem partitionReset : Obligations.PartitionReset := by
  unfold Obligations.PartitionReset
  intro s
  refine ⟨fun h v hh hw => ?_, fun p hp hlive hbusy hquiet => ?_, fun p x hp hx hmine hbusy => ?_⟩
  · intro starts
    obtain ⟨t, ht, hr⟩ := exec_ckpPartReset v hh hw
    have hiff : ∀ p < 8, (starts p ↔ p ∈ List.range 8 ∧
        (v.getLsbD p && (s.partCfg p).isSome && s.hostOf p == h) = true ∧ (s.part p).resetBusy = false) := fun p hp => by
      simp only [starts, List.mem_range, Bool.and_eq_true, beq_iff_eq]
      tauto
    refine ⟨t, ht, ?_, fun p hp hs => ?_, fun p hp hs => hr.other p fun h => hs ((hiff p hp).mpr h), hr.eng,
      fun e p he hp hs => hr.copies e p he ((hiff p hp).mp hs), fun hst hany => ?_⟩
    · have hlatches : t.latches = (s.emptyLatch (portReq h)).latches := by rw [hr.frame]
      exact hr.frame.trans (by rw [hlatches]; rfl)
    · rw [hr.started p ((hiff p hp).mp hs)]
      change (s.part p).resetting = _
      unfold Part.resetting
      cases hh : (s.part p).halted with
      | false => rfl
      | true =>
        rw [if_pos rfl, if_pos rfl, if_pos rfl, if_pos rfl]
    · obtain ⟨p, hp, hs⟩ := hany
      rw [hr.ckp ⟨p, (hiff p hp).mp hs⟩]
      exact if_pos hst
  · have hend := State.partResetDone_ended hp hlive hbusy hquiet
    have hexec : exec (.partResetDone p) s = .next (s.partResetDone p) := guarded_ok (decide_eq_true hp) _
    generalize s.partResetDone p = t at hend hexec
    obtain ⟨hframe, hkey, hpart, hgo, hcleared⟩ := hend
    have heng : ∀ e, t.eng e = (s.partWiped p).eng e := fun e => by rw [hframe]; rfl
    have hcrs : ∀ c, t.crs c = (s.partWiped p).crs c := fun c => by rw [hframe]; rfl
    have hctx : ∀ n, t.ctx n = (s.partWiped p).ctx n := fun n => by rw [hframe]; rfl
    have hslot : ∀ k, t.mslot k = (s.partWiped p).mslot k := fun k => by rw [hframe]; rfl
    have hofl : ∀ w, t.ofl p w = (s.partWiped p).ofl p w := fun w => by rw [hframe]; rfl
    have hengines := fun e => Tab.get_mapIf_owner (d := Engine.reset) rfl Engine.rung2_rung2 s.engines (k := e)
      (f := s.partOfEngine) (p := p)
    have hcourses := fun c => Tab.get_mapIf_owner (d := Course.reset) (g := Course.rung2) rfl (fun _ => rfl) s.courses
      (k := c) (f := s.partOfCourse) (p := p)
    have hctxs := fun n => Tab.get_mapIf_owner (d := Ctx.reset) (g := Ctx.rung2) rfl (fun _ => rfl) s.ctxs
      (k := n) (f := s.partOfCtx) (p := p)
    have hmslots := fun k => Tab.get_mapIf_owner (d := MSlot.reset) (g := MSlot.rung2) rfl (fun _ => rfl) s.mslots
      (k := k) (f := s.partOfSlot) (p := p)
    refine ⟨t, hexec, ⟨by rw [hframe]; rfl, by rw [hframe]; rfl, by rw [hframe]; rfl⟩, by rw [hframe]; rfl,
      by rw [hframe]; rfl, ?_, by rw [hframe]; rfl, fun k hk => (hpart k).trans (if_neg hk),
      (hpart p).trans (if_pos rfl), fun e he => (heng e).trans ((hengines e).1 he),
      fun e he => (heng e).trans ((hengines e).2 he), fun c hc => (hcrs c).trans ((hcourses c).1 hc),
      fun c hc => (hcrs c).trans ((hcourses c).2 hc), fun n hn => (hctx n).trans ((hctxs n).1 hn),
      fun n hn => (hctx n).trans ((hctxs n).2 hn), fun k hk => (hslot k).trans ((hmslots k).1 hk),
      fun k hk => (hslot k).trans ((hmslots k).2 hk), fun k hk ho => ?_, fun w hw => ?_, hgo, hcleared⟩
    · have hrecv : ∀ r : RecvFlow, (r.holds.filter fun c => !(s.partOfCourse c == some p)) =
          r.holds.filter fun c => decide (s.partOfCourse c ≠ some p) := fun r =>
        List.filter_congr fun c _ => by by_cases h : s.partOfCourse c = some p <;> simp [h]
      rw [hframe]
      change ({ s.rte with recv := _ } : Rte) = _
      simp only [hrecv]
    · rw [hkey k hk ho]
      exact ⟨rfl, rfl, rfl, rfl⟩
    · have hwindow : (8 * p + w) / 8 = p := by omega
      have hofls := Tab.get_mapIf (d := Ofl.reset) (g := Ofl.rung2) rfl (fun _ => rfl) s.ofls (fun k => k / 8 == p)
        (8 * p + w)
      rw [hwindow, beq_self_eq_true, if_pos rfl] at hofls
      exact (hofl w).trans hofls
  · have hidle : (s.engines.any fun (e, x) => (s.partOfEngine e == some p) && !x.copies.isEmpty) = true :=
      List.any_eq_true.mpr ⟨x, hx, by simpa [hmine] using hbusy⟩
    refine (guarded_ok (decide_eq_true hp) _).trans (congrArg _ (if_pos ?_))
    rw [hidle, Bool.or_true]

end Sys2Proof.Machine
end

section
/-!
SUPPORT. What a lookup does with a packet (R277 to R282, R290).
-/
namespace Sys2Proof.Machine

/-! ## What a lookup does with a packet (R277 to R282, R290) -/

/-- A lookup that queues nothing on a port and brings nothing to the module or to mortar. -/
structure CountsOnly (s t : State) (d : Nat) (c : DieCtr) : Prop where
  ctr : Tab.get DieCtr.reset t.rte.ctrs d = c
  arrived : t.rte.arrived = s.rte.arrived
  mortar : t.rte.mortar = s.rte.mortar
  queue : ∀ j, (t.port j).queue = (s.port j).queue

section
variable (s : State) (d : Nat)

@[simp] theorem State.ctr_modCtr_self (f : DieCtr → DieCtr) :
    Tab.get DieCtr.reset (s.modCtr d f).rte.ctrs d = f (Tab.get DieCtr.reset s.rte.ctrs d) := Tab.get_put_self ..

theorem State.modCtr_countsOnly (f : DieCtr → DieCtr) :
    CountsOnly s (s.modCtr d f) d (f (Tab.get DieCtr.reset s.rte.ctrs d)) :=
  ⟨s.ctr_modCtr_self d f, rfl, rfl, fun _ => rfl⟩

/-- The port that a packet is queued on: its queue, or its count of what a port that is DOWN discards. -/
theorem State.enqueue_port (p : Nat) (q : QPkt) (hst : (s.port p).st = .up ∨ (s.port p).st = .frozen) :
    ((s.enqueue p q).port p).queue = (s.port p).queue ++ [q] := by
  rw [State.enqueue, State.port_modPort_self, if_pos (by simpa using hst)]

theorem State.enqueue_port_down (p : Nat) (q : QPkt) (hst : ¬ ((s.port p).st = .up ∨ (s.port p).st = .frozen)) :
    ((s.enqueue p q).port p).queue = (s.port p).queue ∧
      ((s.enqueue p q).port p).downDrop = min ((s.port p).downDrop + 1) (2 ^ 64 - 1) := by
  rw [State.enqueue, State.port_modPort_self, if_neg (by simpa using hst)]
  exact ⟨rfl, rfl⟩

theorem State.enqueue_port_ne {p j : Nat} (q : QPkt) (h : j ≠ p) : (s.enqueue p q).port j = s.port j :=
  State.port_modPort_ne s _ h
end

/-- The node to which a packet is delivered is this module's. -/
theorem State.ownNode_iff (s : State) (n : BitVec 17) :
    s.ownNode n = true ↔ s.cfg.applied = true ∧ s.cfg.slice.role = 0 ∧ s.cfg.slice.nodeId = n := by
  simp [State.ownNode, and_assoc]

theorem State.routeAt_routed (s : State) (d : Nat) (p : Packet) (cls chan : Nat) (whole : Bool)
    (inp : Option (Nat × Nat)) : Routed s (s.routeAt d p cls chan whole inp) d p cls chan whole inp := by
  unfold Routed State.routeAt
  dsimp only
  have hentry : (if s.half p.epoch = .loading then 0 else s.entry d p.epoch (p.tc.toNat * 2 ^ 17 + p.dest.toNat)) =
      if (s.half p.epoch == .loading) = true then 0 else s.entry d p.epoch (p.tc.toNat * 2 ^ 17 + p.dest.toNat) := by
    simp only [beq_iff_eq]
  rw [hentry]
  generalize (if (s.half p.epoch == .loading) = true then 0
    else s.entry d p.epoch (p.tc.toNat * 2 ^ 17 + p.dest.toNat)) = e
  have hwild : (p.tc == 0 && p.slice == 0x3FFF) = decide (p.tc = 0 ∧ p.slice = 0x3FFF) := by
    rw [Bool.decide_and]
    rfl
  rw [hwild]
  have hcounts : ∀ f : DieCtr → DieCtr, (Tab.get DieCtr.reset (s.modCtr d f).rte.ctrs d =
      f (Tab.get DieCtr.reset s.rte.ctrs d)) ∧ (s.modCtr d f).rte.arrived = s.rte.arrived ∧
      (s.modCtr d f).rte.mortar = s.rte.mortar ∧ ∀ j, ((s.modCtr d f).port j).queue = (s.port j).queue := fun f =>
    have h := s.modCtr_countsOnly d f
    ⟨h.ctr, h.arrived, h.mortar, h.queue⟩
  by_cases hv : bit e 31 = false
  · rw [if_pos hv, if_pos (show (!bit e 31) = true by simp [hv])]
    exact hcounts _
  rw [if_neg hv, if_neg (show ¬ (!bit e 31) = true by simpa using hv)]
  have hslice : (decide (bits e 25 12 ≠ p.slice.toNat) && !decide (p.tc = 0 ∧ p.slice = 0x3FFF)) =
      decide (bits e 25 12 ≠ p.slice.toNat ∧ ¬ (p.tc = 0 ∧ p.slice = 0x3FFF)) := by
    rw [Bool.eq_iff_iff]
    simp only [Bool.and_eq_true, decide_eq_true_eq, Bool.not_eq_true', decide_eq_false_iff_not]
  rw [hslice]
  simp only [decide_eq_true_eq]
  by_cases hs : bits e 25 12 ≠ p.slice.toNat ∧ ¬ (p.tc = 0 ∧ p.slice = 0x3FFF)
  · rw [if_pos hs, if_pos hs]
    exact hcounts _
  rw [if_neg hs, if_neg hs]
  by_cases hout : bits e 30 27 ≤ 9
  · rw [if_pos hout]
    by_cases hh : p.hops = 63
    · rw [if_pos ⟨hout, hh⟩, if_pos hh]
      exact hcounts _
    rw [if_neg fun h => hh h.2, if_pos hout, if_neg hh]
    refine ⟨rfl, rfl, rfl, fun j hj => by rw [State.enqueue_port_ne _ _ hj], ?_⟩
    split
    · rename_i hst
      rw [State.enqueue_port _ _ _ hst]
      rfl
    · rename_i hst
      exact State.enqueue_port_down _ _ _ hst
  rw [if_neg hout, if_neg fun h => hout h.1, if_neg hout]
  by_cases h10 : bits e 30 27 = 10
  · rw [if_pos h10]
    by_cases hd : (s.cfg.applied = true ∧ s.cfg.slice.role = 0 ∧ s.cfg.slice.nodeId = p.dest) ∧
        (s.cfg.slice.sliceId = p.slice ∨ p.tc = 0 ∧ p.slice = 0x3FFF)
    · rw [if_pos ⟨h10, hd⟩, if_pos (by
        rw [Bool.and_eq_true, State.ownNode_iff]
        exact ⟨hd.1, by simpa using hd.2⟩)]
      exact ⟨rfl, rfl, fun _ => rfl, rfl⟩
    · rw [if_neg fun h => hd h.2, if_pos h10, if_neg (by
        rw [Bool.and_eq_true, State.ownNode_iff]
        exact fun h => hd ⟨h.1, by simpa using h.2⟩)]
      exact hcounts _
  rw [if_neg fun h => h10 h.1, if_neg h10, if_neg h10]
  by_cases h12 : bits e 30 27 = 12 ∨ bits e 30 27 = 13
  · rw [if_pos h12, if_pos h12]
    exact ⟨rfl, rfl, fun _ => rfl, rfl⟩
  · rw [if_neg h12, if_neg h12]
    exact hcounts _

end Sys2Proof.Machine
end

section
/-!
SUPPORT. Mailboxes: GO, TAKE, the order of service, ECHO and PATH_ECHO (R409 to R414).
-/
namespace Sys2Proof.Machine

/-! ## GO and TAKE (R409, R410) -/

section
variable {s : State} {h ch : Nat} {sec : Bool}

theorem isChannel_of (hch : ch < if sec then 4 else 12) : isChannel sec ch = true := by
  cases sec <;> exact decide_eq_true hch

theorem channel_guard (hh : h < 2) (hch : ch < if sec then 4 else 12) : (isHost h && isChannel sec ch) = true := by
  rw [isChannel_of hch, isHost, decide_eq_true hh]
  rfl

theorem State.setChan_frame (x : Chan) : s.setChan h sec ch x = { s with hosts := (s.setChan h sec ch x).hosts } := rfl

theorem State.goCounts_iff : s.goCounts h sec ch = true ↔ (h, sec, ch) ∉ s.clearedNow := by
  simp [State.goCounts]

theorem State.mbSend_sent (hon : s.pwr.seq = .on) (hgo : (s.chan h sec ch).go = false) (hfree : sec = true ∨ ch ≠ 0)
    (hcount : (h, sec, ch) ∉ s.clearedNow) :
    s.mbSend h sec ch = s.setChan h sec ch { s.chan h sec ch with go := true, fromMod := false } := by
  refine if_neg ?_
  rw [hon, hgo, State.goCounts_iff.mpr hcount]
  cases hfree <;> simp [*]

theorem State.mbSend_stays (hno : (s.chan h sec ch).go = true ∨ (sec = false ∧ ch = 0) ∨ (h, sec, ch) ∈ s.clearedNow) :
    s.mbSend h sec ch = s := by
  refine if_pos ?_
  obtain hgo | ⟨hsec, hch⟩ | hclear := hno
  · simp [hgo]
  · simp [hsec, hch]
  · simp [State.goCounts, hclear]

theorem State.mbTake_taken (hon : s.pwr.seq = .on) (hfrom : (s.chan h sec ch).fromMod = true) :
    s.mbTake h sec ch = s.setChan h sec ch { s.chan h sec ch with go := false, fromMod := false } :=
  if_neg (by simp [hon, hfrom])

theorem State.mbTake_stays (hfrom : (s.chan h sec ch).fromMod = false) : s.mbTake h sec ch = s :=
  if_pos (by simp [hfrom])
end

/-! ## The order of service (R414) -/

section
variable {α : Type} {p : α → Bool}

/-- The first index whose element is picked. -/
theorem find?_map_range_none {n : Nat} {f : Nat → α} (hall : ∀ j < n, p (f j) = false) :
    ((List.range n).map f).find? p = none := by
  simpa using hall

theorem find?_map_range_some {n i : Nat} {f : Nat → α} (hi : i < n) (hbefore : ∀ j < i, p (f j) = false)
    (hhit : p (f i) = true) : ((List.range n).map f).find? p = some (f i) := by
  have hfind : (List.range n).find? (p ∘ f) = some i := by
    rw [List.find?_range_eq_some]
    exact ⟨hhit, List.mem_range.mpr hi, fun j hj => by simp [hbefore j hj]⟩
  rw [List.find?_map, hfind]
  rfl
end

section
variable {s : State} (sec : Bool)

/-- The channel that comes `j` places after the last that a core served, among those of both ports. -/
def State.turn (s : State) (sec : Bool) (j : Nat) : Nat :=
  ((if sec then s.sec.lastS else s.sec.lastG) + 1 + j) % (2 * coreChans sec)

variable {sec}

theorem State.nextChan_none (hnone : ∀ j < 2 * coreChans sec,
    (s.chan (s.turn sec j / coreChans sec) sec (s.turn sec j % coreChans sec)).waits = false) : s.nextChan sec = none :=
  congrArg (Option.map _) (find?_map_range_none (f := s.turn sec)
    (p := fun i => (s.chan (i / coreChans sec) sec (i % coreChans sec)).waits) hnone)

theorem State.nextChan_some {i : Nat} (hi : i < 2 * coreChans sec) (hbefore : ∀ j < i,
    (s.chan (s.turn sec j / coreChans sec) sec (s.turn sec j % coreChans sec)).waits = false)
    (hwaits : (s.chan (s.turn sec i / coreChans sec) sec (s.turn sec i % coreChans sec)).waits = true) :
    s.nextChan sec = some (s.turn sec i / coreChans sec, s.turn sec i % coreChans sec) :=
  congrArg (Option.map _) (find?_map_range_some (f := s.turn sec)
    (p := fun i => (s.chan (i / coreChans sec) sec (i % coreChans sec)).waits) hi hbefore hwaits)
end

section
variable {s : State} {sec : Bool} {h ch : Nat} (nonce : List Byte)

theorem State.mailboxTake_serves (hup : s.masonUp = true) (hnext : s.nextChan sec = some (h, ch)) :
    s.mailboxTake sec nonce = s.serve h sec ch nonce := by
  unfold State.mailboxTake
  simp only [hup, hnext, Bool.not_true, if_neg Bool.false_ne_true]

theorem State.mbRow_serves (hup : s.masonUp = true) (hnext : s.nextChan sec = some (h, ch)) :
    s.mbRow h sec ch (s.chan h sec ch).opcode nonce = s.serve h sec ch nonce :=
  if_neg (by simp [hup, hnext])

theorem State.serve_ns : s.serve h false ch nonce = (s.noteServed h false ch).serveNs h ch := rfl

/-- Of the messages of a secure channel a CHALLENGE alone uses the nonce. -/
theorem State.serve_nonce (nonce' : List Byte) (hop : (s.chan h true ch).opcode ≠ 0xE0) :
    s.serve h true ch nonce = s.serve h true ch nonce' := by
  unfold State.serve State.serveS
  dsimp only
  have hop' : ((s.noteServed h true ch).chan h true ch).opcode ≠ 0xE0 := hop
  rw [if_neg hop', if_neg hop']
end

/-! ## Answers of a core -/

section
variable (s : State) (h ch : Nat)

/-- A core that has served a channel has answered it. -/
theorem State.serve_reply_replied (sec : Bool) {status : Nat} (ws : List Nat) (hstatus : status < 2 ^ 32) :
    Replied s ((s.noteServed h sec ch).reply h sec ch status ws) h sec ch status ws :=
  replied_of_chan (State.reply_replied _ _ _ _ _ _ hstatus) rfl

variable {s h ch}

theorem State.serveNs_zero (hch : ch = 0) : s.serveNs h ch = s.reply h false ch mbAccess [] := by
  subst hch
  rfl

theorem State.serveNs_unknown (hch : 9 ≤ ch) (hops : (s.chan h false ch).opcode ∉ [1, 2, 3, 0x20, 0x21, 0x22]) :
    s.serveNs h ch = s.reply h false ch mbUnknown [] := by
  simp only [List.mem_cons, List.not_mem_nil, or_false, not_or] at hops
  obtain ⟨h1, h2, h3, h20, h21, h22⟩ := hops
  unfold State.serveNs
  dsimp only
  rw [if_neg (Nat.not_lt_of_le hch), if_neg h2, if_neg h3, if_neg h20, if_neg h21, if_neg h22, if_neg h1]

theorem State.serveNs_echo (hch : 9 ≤ ch) (hop : (s.chan h false ch).opcode = 2) : s.serveNs h ch = s.mbEcho h ch := by
  unfold State.serveNs
  dsimp only
  rw [if_neg (Nat.not_lt_of_le hch), if_pos hop]

theorem State.serveNs_pathEcho (hch : 9 ≤ ch) (hop : (s.chan h false ch).opcode = 3) :
    s.serveNs h ch = s.mbPathEcho h ch := by
  unfold State.serveNs
  dsimp only
  rw [if_neg (Nat.not_lt_of_le hch), if_neg (by rw [hop]; decide), if_pos hop]

theorem State.serveS_noSession {nonce : List Byte} (hses : (s.chan h true ch).session ≠ 2)
    (h0 : (s.chan h true ch).opcode ≠ 0xE0) (h1 : (s.chan h true ch).opcode ≠ 0xE1) :
    s.serveS h ch nonce = s.reply h true ch mbNoSession [] := by
  unfold State.serveS
  dsimp only
  rw [if_neg h0, if_neg h1, if_pos hses]
end

/-! ## ECHO and PATH_ECHO (R411) -/

section
variable (s : State) (h ch : Nat)

theorem State.mbEcho_format (hcount : (s.chan h false ch).count = 15) :
    s.mbEcho h ch = s.reply h false ch mbFormat [] := if_pos hcount

theorem State.mbEcho_echoes (hcount : (s.chan h false ch).count ≠ 15) : s.mbEcho h ch =
    s.reply h false ch mbOk ((List.range (s.chan h false ch).count).map fun i => (s.chan h false ch).word (1 + i)) :=
  if_neg hcount

theorem State.mbPathEcho_format (hbad : (s.chan h false ch).count ≠ 1 ∨ 2 ^ 17 ≤ (s.chan h false ch).word 1) :
    s.mbPathEcho h ch = s.reply h false ch mbFormat [] := if_pos (by simpa using hbad)

theorem State.mbPathEcho_busy (hcount : (s.chan h false ch).count = 1) (hword : (s.chan h false ch).word 1 < 2 ^ 17)
    (hecho : s.sec.echoes ≠ []) : s.mbPathEcho h ch = s.reply h false ch mbBusy [] := by
  unfold State.mbPathEcho
  dsimp only
  rw [if_neg (by simpa [hcount] using hword), if_pos (by simpa using hecho)]

/-- The path test of a node begins: its channel is held and mason-G waits for the answer. -/
def State.echoStart (s : State) (h ch n : Nat) : State :=
  { s.hold h false ch with sec := { s.sec with echoes := [(s.hold h false ch).mbOp h false ch (leBytes 4 n)] } }

/-- The ECHO of a path test. -/
def echoPacket (n : Nat) : Packet := { blankPkt with dest := BitVec.ofNat 17 n, tc := 4, opc := 0x50 }

theorem State.mbPathEcho_starts (hcount : (s.chan h false ch).count = 1) (hword : (s.chan h false ch).word 1 < 2 ^ 17)
    (hecho : s.sec.echoes = []) : s.mbPathEcho h ch =
      (let n := (s.chan h false ch).word 1
       let u := s.echoStart h ch n
       if s.live then u.send (s.hopDie n 4) (echoPacket n) s.rte.inj .reply none true else u) := by
  unfold State.mbPathEcho
  dsimp only
  rw [if_neg (by simpa [hcount] using hword), if_neg (by simp [hecho])]
  rfl

/-- A message that no acknowledgement covers is looked up at once. -/
theorem State.send_unsequenced {p : Packet} {ep : Bool} (d : Nat) (op : OpRef) (src : Option Loc) (last : Bool)
    (hown : s.ownNode p.dest = false) (hseq : sequenced (s.stamped d p ep) = false) : s.send d p ep op src last =
      s.routeAt d (sealed_ { s.stamped d p ep with seq := 0 }) 0 0 true none := by
  have hown' : s.ownNode (s.stamped d p ep).dest = false := hown
  unfold State.send
  dsimp only
  rw [if_neg (by simp [hown']), if_pos (by simp [hseq])]

theorem State.mbPathEcho_sendsOnly (hcount : (s.chan h false ch).count = 1)
    (hword : (s.chan h false ch).word 1 < 2 ^ 17) (hecho : s.sec.echoes = []) :
    SendsOnly none (s.echoStart h ch ((s.chan h false ch).word 1)) (s.mbPathEcho h ch) := by
  rw [s.mbPathEcho_starts h ch hcount hword hecho]
  dsimp only
  split
  · exact State.send_sendsOnly (op := .reply) ..
  · exact .refl ..
end

section
variable {s : State} {h ch : Nat} (hcount : (s.chan h false ch).count = 1) (hword : (s.chan h false ch).word 1 < 2 ^ 17)
  (hecho : s.sec.echoes = [])
include hcount hword hecho

theorem State.mbPathEcho_chan : (s.mbPathEcho h ch).chan h false ch = { s.chan h false ch with busy := true } := by
  have hhosts := congrArg State.hosts (s.mbPathEcho_sendsOnly h ch hcount hword hecho).frame
  rw [State.chan, State.host, hhosts]
  exact s.chan_modChan_self h false ch fun x => { x with busy := true }

theorem State.mbPathEcho_sec : (s.mbPathEcho h ch).sec = { s.sec with echoes :=
    [{ port := h, ch := ch, tag := (s.chan h false ch).tag, bytes := leBytes 4 ((s.chan h false ch).word 1),
       at_ := s.gen.time }] } := by
  have hsec := congrArg State.sec (s.mbPathEcho_sendsOnly h ch hcount hword hecho).frame
  have htag : ((s.hold h false ch).chan h false ch).tag = (s.chan h false ch).tag :=
    (congrArg Chan.tag (s.chan_modChan_self h false ch fun x => { x with busy := true })).trans rfl
  refine hsec.trans ?_
  unfold State.echoStart State.mbOp
  dsimp only
  rw [htag]
  rfl

theorem State.mbPathEcho_routed (hlive : s.live = true)
    (hown : s.ownNode (BitVec.ofNat 17 ((s.chan h false ch).word 1)) = false) :
    ∃ u q, u.rte = s.rte ∧ u.ports = s.ports ∧ u.cfg = s.cfg ∧
      Routed u (s.mbPathEcho h ch) (s.hopDie ((s.chan h false ch).word 1) 4) q 0 0 true none ∧ q.opc = 0x50 ∧ q.tc = 4 ∧
      q.dest = BitVec.ofNat 17 ((s.chan h false ch).word 1) := by
  rw [s.mbPathEcho_starts h ch hcount hword hecho]
  generalize (s.chan h false ch).word 1 = n at hown
  dsimp only
  rw [if_pos hlive, State.send_unsequenced (s := s.echoStart h ch n) (p := echoPacket n) _ .reply none true hown rfl]
  exact ⟨s.echoStart h ch n, _, rfl, rfl, rfl, State.routeAt_routed .., rfl, rfl, rfl⟩
end

/-- An echo that is due and whose channel still waits is answered BUSY. -/
theorem State.echoTimeout_due {s : State} {h ch : Nat} {o : MbOp} (hup : s.masonUp = true)
    (hfind : s.sec.echoes.find? (fun o => o.port == h && o.ch == ch) = some o) (hdue : o.at_ + 250000 ≤ s.gen.time)
    (hbusy : (s.chan h false ch).busy = true) : s.echoTimeout h ch =
      State.reply { s with sec := { s.sec with echoes := s.sec.echoes.erase o } } h false ch mbBusy [] := by
  have hpick := List.find?_some hfind
  simp only [Bool.and_eq_true, beq_iff_eq] at hpick
  obtain ⟨rfl, rfl⟩ := hpick
  unfold State.echoTimeout
  simp only [hfind]
  rw [if_neg (by simp [hup, hdue])]
  exact if_pos hbusy

/-! ## The commands that run messages -/

section
variable (h ch : Nat) (s : State)

theorem exec_echoMsg : exec (.echoMsg h ch) s = guarded (isHost h && isChannel false ch) (s.mbRow h false ch 2 []) := rfl
theorem exec_pathEcho : exec (.pathEcho h ch) s = guarded (isHost h && isChannel false ch) (s.mbRow h false ch 3 []) := rfl
theorem exec_attest : exec (.attest h ch) s = guarded (isHost h && isChannel false ch) (s.mbRow h false ch 0x20 []) := rfl
theorem exec_getCert : exec (.getCert h ch) s = guarded (isHost h && isChannel false ch) (s.mbRow h false ch 0x21 []) := rfl
theorem exec_install : exec (.install h ch) s = guarded (isHost h && isChannel false ch) (s.mbRow h false ch 0x22 []) := rfl
theorem exec_challenge (nonce : List Byte) :
    exec (.challenge h ch nonce) s = guarded (isHost h && isChannel true ch) (s.mbRow h true ch 0xE0 nonce) := rfl
theorem exec_openMsg : exec (.openMsg h ch) s = guarded (isHost h && isChannel true ch) (s.mbRow h true ch 0xE1 []) := rfl
theorem exec_closeMsg : exec (.closeMsg h ch) s = guarded (isHost h && isChannel true ch) (s.mbRow h true ch 0xE2 []) := rfl
theorem exec_fwUpdate : exec (.fwUpdate h ch) s = guarded (isHost h && isChannel true ch) (s.mbRow h true ch 0x80 []) := rfl
theorem exec_fwCommit : exec (.fwCommit h ch) s = guarded (isHost h && isChannel true ch) (s.mbRow h true ch 0x81 []) := rfl
end

section
variable {s : State} {h ch : Nat}

theorem nsRow_exec {c : Nat × Instr} (hc : c ∈ [(2, Instr.echoMsg h ch), (3, .pathEcho h ch), (0x20, .attest h ch),
    (0x21, .getCert h ch), (0x22, .install h ch)]) :
    exec c.2 s = guarded (isHost h && isChannel false ch) (s.mbRow h false ch c.1 []) := by
  simp only [List.mem_cons, List.not_mem_nil, or_false] at hc
  obtain rfl | rfl | rfl | rfl | rfl := hc
  · exact exec_echoMsg ..
  · exact exec_pathEcho ..
  · exact exec_attest ..
  · exact exec_getCert ..
  · exact exec_install ..

/-- The opcodes of secure channels beside CHALLENGE. -/
theorem sRow_exec {c : Nat × Instr} (hc : c ∈ [(0xE1, Instr.openMsg h ch), (0xE2, .closeMsg h ch), (0x80, .fwUpdate h ch),
    (0x81, .fwCommit h ch)]) :
    exec c.2 s = guarded (isHost h && isChannel true ch) (s.mbRow h true ch c.1 []) ∧ c.1 ≠ 0xE0 := by
  simp only [List.mem_cons, List.not_mem_nil, or_false] at hc
  obtain rfl | rfl | rfl | rfl := hc
  · exact ⟨exec_openMsg .., show (0xE1 : Nat) ≠ 0xE0 by decide⟩
  · exact ⟨exec_closeMsg .., show (0xE2 : Nat) ≠ 0xE0 by decide⟩
  · exact ⟨exec_fwUpdate .., show (0x80 : Nat) ≠ 0xE0 by decide⟩
  · exact ⟨exec_fwCommit .., show (0x81 : Nat) ≠ 0xE0 by decide⟩

variable {i : Instr}

/-- A command that runs the message of a non-secure channel, when a core takes it next. -/
theorem nsRow_serves {opc : Nat} (hh : h < 2) (hch : ch < 12) (hup : s.masonUp = true)
    (hnext : s.nextChan false = some (h, ch)) (hop : (s.chan h false ch).opcode = opc)
    (hrun : exec i s = guarded (isHost h && isChannel false ch) (s.mbRow h false ch opc [])) :
    exec i s = .next ((s.noteServed h false ch).serveNs h ch) := by
  rw [hrun, guarded_ok (channel_guard (sec := false) hh hch), ← hop, State.mbRow_serves [] hup hnext]
  rfl

theorem sRow_serves {opc : Nat} (nonce : List Byte) (hh : h < 2) (hch : ch < 4) (hup : s.masonUp = true)
    (hnext : s.nextChan true = some (h, ch)) (hop : (s.chan h true ch).opcode = opc)
    (hrun : exec i s = guarded (isHost h && isChannel true ch) (s.mbRow h true ch opc nonce)) :
    exec i s = .next (s.serve h true ch nonce) := by
  rw [hrun, guarded_ok (channel_guard (sec := true) hh hch), ← hop, State.mbRow_serves nonce hup hnext]

theorem exec_mailboxTake (sec : Bool) (nonce : List Byte) (hup : s.masonUp = true)
    (hnext : s.nextChan sec = some (h, ch)) : exec (.mailboxTake sec nonce) s = .next (s.serve h sec ch nonce) :=
  congrArg _ (State.mailboxTake_serves nonce hup hnext)

theorem exec_mailboxTake_none (sec : Bool) (nonce : List Byte) (hnext : s.nextChan sec = none) :
    exec (.mailboxTake sec nonce) s = .next s := by
  refine congrArg Host.Outcome.next ?_
  unfold State.mailboxTake
  simp only [hnext, ite_self]
end

/-- Settles O55: GO and TAKE change one channel, a core serves the first channel after the last it served, and ECHO and
PATH_ECHO are answered, held, or sent. -/
theorem mailboxes : Obligations.Mailboxes := by
  unfold Obligations.Mailboxes
  intro s
  refine ⟨?_, ?_, ?_, ?_, ?_⟩
  · intro h sec ch hh hch hon x
    have hguard := channel_guard (sec := sec) hh hch
    have hgo : exec (.mbGo h sec ch) s = .next (s.mbSend h sec ch) := guarded_ok hguard _
    have htake : exec (.take h sec ch) s = .next (s.mbTake h sec ch) := guarded_ok hguard _
    refine ⟨fun hclear hfree hcount => ⟨_, hgo, ?_, ?_⟩, fun hno => ?_, fun hfrom => ⟨_, htake, ?_, ?_⟩, fun hfrom => ?_⟩
    · rw [State.mbSend_sent hon hclear hfree hcount]
      rfl
    · rw [State.mbSend_sent hon hclear hfree hcount]
      exact State.chan_modChan_self s h sec ch fun _ => _
    · rw [hgo, State.mbSend_stays hno]
    · rw [State.mbTake_taken hon hfrom]
      rfl
    · rw [State.mbTake_taken hon hfrom]
      exact State.chan_modChan_self s h sec ch fun _ => _
    · rw [htake, State.mbTake_stays hfrom]
  · intro sec nonce i hup n at_ x
    refine ⟨fun hnone => exec_mailboxTake_none sec nonce (State.nextChan_none hnone), ?_⟩
    intro hi hbefore hwaits o
    have hrun := exec_mailboxTake sec nonce hup (State.nextChan_some (sec := sec) hi hbefore hwaits)
    refine ⟨?_, ?_, ?_⟩
    · intro hsec hch h1 h2 h3 h20 h21 h22
      subst hsec
      have hserve := State.serveNs_unknown (s := s.noteServed (at_ i / n) false (at_ i % n)) (h := at_ i / n) hch
        (List.forall_mem_ne.mp (by simpa using ⟨h1, h2, h3, h20, h21, h22⟩))
      exact ⟨_, hrun.trans (congrArg _ hserve), rfl, State.serve_reply_replied s _ _ _ _ (by decide), rfl⟩
    · intro hsec hch
      subst hsec
      have hserve := State.serveNs_zero (s := s.noteServed (at_ i / n) false (at_ i % n)) (h := at_ i / n) hch
      have hrep := State.serve_reply_replied s (at_ i / n) (at_ i % n) false (status := mbAccess) [] (by decide)
      refine ⟨_, hrun.trans (congrArg _ hserve), ?_⟩
      rw [hch] at hrep
      rw [hch]
      exact hrep
    · intro hsec hses h0 h1
      subst hsec
      have hserve := State.serveS_noSession (s := s.noteServed (at_ i / n) true (at_ i % n)) (h := at_ i / n)
        (nonce := nonce) hses h0 h1
      exact ⟨_, hrun.trans (congrArg _ hserve), rfl, State.serve_reply_replied s _ _ _ _ (by decide), rfl⟩
  · intro h ch nonce hh hup
    refine ⟨fun hch hlt hnext c hc hop => ?_, fun hlt hnext c hc hop => ?_⟩
    · have hrun := nsRow_serves hh hlt hup hnext hop (nsRow_exec hc)
      exact ⟨(exec_mailboxTake false nonce hup hnext).trans hrun.symm, _, hrun⟩
    · have htake := exec_mailboxTake true nonce hup hnext
      have hserves : exec c.2 s = .next (s.serve h true ch nonce) := by
        obtain rfl | hc := List.mem_cons.mp hc
        · exact sRow_serves nonce hh hlt hup hnext hop (exec_challenge ..)
        · obtain ⟨hexec, hne⟩ := sRow_exec (s := s) hc
          rw [sRow_serves [] hh hlt hup hnext hop hexec, State.serve_nonce [] nonce (by rw [hop]; exact hne)]
      exact ⟨htake.trans hserves.symm, _, hserves⟩
  · intro h ch hh hch hlt hup hnext x
    refine ⟨fun hop => ?_, fun hop => ?_⟩
    · have hrun := (nsRow_serves hh hlt hup hnext hop (exec_echoMsg ..)).trans
        (congrArg _ (State.serveNs_echo (s := s.noteServed h false ch) (h := h) hch hop))
      refine ⟨fun hcount => ?_, fun hcount => ?_⟩
      · exact ⟨_, hrun.trans (congrArg _ (State.mbEcho_format _ _ _ hcount)),
          State.serve_reply_replied s _ _ _ _ (by decide)⟩
      · exact ⟨_, hrun.trans (congrArg _ (State.mbEcho_echoes _ _ _ hcount)), rfl,
          State.serve_reply_replied s _ _ _ _ (by decide)⟩
    · have hrun := (nsRow_serves hh hlt hup hnext hop (exec_pathEcho ..)).trans
        (congrArg _ (State.serveNs_pathEcho (s := s.noteServed h false ch) (h := h) hch hop))
      refine ⟨fun hbad => ?_, fun hcount hword => ⟨fun hecho => ?_, fun hecho => ?_⟩⟩
      · exact ⟨_, hrun.trans (congrArg _ (State.mbPathEcho_format _ _ _ hbad)),
          State.serve_reply_replied s _ _ _ _ (by decide)⟩
      · exact ⟨_, hrun.trans (congrArg _ (State.mbPathEcho_busy _ _ _ hcount hword hecho)),
          State.serve_reply_replied s _ _ _ _ (by decide)⟩
      · have hsends := (s.noteServed h false ch).mbPathEcho_sendsOnly h ch hcount hword hecho
        have hchan := State.mbPathEcho_chan (s := s.noteServed h false ch) (h := h) (ch := ch) hcount hword hecho
        have hsec := State.mbPathEcho_sec (s := s.noteServed h false ch) (h := h) (ch := ch) hcount hword hecho
        have hrouted := State.mbPathEcho_routed (s := s.noteServed h false ch) (h := h) (ch := ch) hcount hword hecho
        generalize (s.noteServed h false ch).mbPathEcho h ch = t at hrun hsends hchan hsec hrouted
        exact ⟨t, hrun, State.stores_split hsends.stores, hsends.flagVal, hchan, hsec, hrouted⟩
  · intro h ch o hh hch hup hfind hdue hbusy
    have hrun : exec (.pathEchoTimeout h ch) s = .next (s.echoTimeout h ch) :=
      guarded_ok (channel_guard (sec := false) hh hch) _
    exact ⟨_, hrun.trans (congrArg _ (State.echoTimeout_due hup hfind hdue hbusy)), rfl,
      replied_of_chan (State.reply_replied _ _ _ _ _ _ (by decide)) rfl, rfl⟩

end Sys2Proof.Machine
end

section
/-!
SUPPORT. Secure channels: long messages, sessions, and firmware messages (R412, R415, R433).
-/
namespace Sys2Proof.Machine

/-! ## Channels after an answer -/

section
variable (s : State) (h : Nat) (sec : Bool) (ch status : Nat) (ws : List Nat)

theorem State.reply_chan : ∃ d, (s.reply h sec ch status ws).chan h sec ch =
    { s.chan h sec ch with data := d, go := false, busy := false } :=
  ⟨_, (s.chan_modChan_self h sec ch _).trans (by rw [Chan.put_frame])⟩

@[simp] theorem State.reply_session : ((s.reply h sec ch status ws).chan h sec ch).session = (s.chan h sec ch).session := by
  obtain ⟨d, hd⟩ := s.reply_chan h sec ch status ws
  rw [hd]

@[simp] theorem State.reply_keySlot : ((s.reply h sec ch status ws).chan h sec ch).keySlot = (s.chan h sec ch).keySlot := by
  obtain ⟨d, hd⟩ := s.reply_chan h sec ch status ws
  rw [hd]

@[simp] theorem State.reply_nonce : ((s.reply h sec ch status ws).chan h sec ch).nonce = (s.chan h sec ch).nonce := by
  obtain ⟨d, hd⟩ := s.reply_chan h sec ch status ws
  rw [hd]

variable {s h sec ch status ws} {u t : State}

/-- A reply to a channel that holds the same message. -/
theorem replied_of_data (hr : Replied u t h sec ch status ws) (hsame : (u.chan h sec ch).data = (s.chan h sec ch).data) :
    Replied s t h sec ch status ws := by
  have hword : (u.chan h sec ch).word 0 = (s.chan h sec ch).word 0 := by rw [Chan.word, Chan.word, hsame]
  obtain ⟨hgo, hhead, hstatus, hws⟩ := hr
  refine ⟨hgo, ?_, hstatus, hws⟩
  rw [hhead, Chan.opcode, Chan.opcode, Chan.tag, Chan.tag, hword]

theorem State.lateReply_busy {o : MbOp} (hbusy : (s.chan o.port sec o.ch).busy = true) :
    s.lateReply o sec status ws = s.reply o.port sec o.ch status ws := if_pos hbusy
end

/-! ## Long messages (R412) -/

/-- A fragment changes nothing of its channel but the message collected. -/
theorem Chan.fragment_frame (x : Chan) (opc : Nat) (total : Option Nat) : (x.fragment opc total).2 =
    { x with long := (x.fragment opc total).2.long, longOpc := (x.fragment opc total).2.longOpc,
             longTotal := (x.fragment opc total).2.longTotal } := by
  have hcases : ∀ y : Chan, y = { x with long := y.long, longOpc := y.longOpc, longTotal := y.longTotal } → ∀ l k m,
      y.restart = { x with long := y.restart.long, longOpc := y.restart.longOpc, longTotal := y.restart.longTotal } ∧
      { y with long := l, longOpc := k, longTotal := m } = { x with long := l, longOpc := k, longTotal := m } := by
    intro y hy l k m
    rw [hy]
    exact ⟨rfl, rfl⟩
  have hy : (if x.longOpc = opc then x else x.restart) = { x with
      long := (if x.longOpc = opc then x else x.restart).long,
      longOpc := (if x.longOpc = opc then x else x.restart).longOpc,
      longTotal := (if x.longOpc = opc then x else x.restart).longTotal } := by
    split <;> rfl
  unfold Chan.fragment
  dsimp only
  generalize (if x.longOpc = opc then x else x.restart) = y at hy ⊢
  split_ifs
  · exact (hcases y hy [] 0 0).1
  · exact hy
  · exact (hcases y hy [] 0 0).1
  · exact (hcases y hy _ _ _).2

section
variable {s : State} {h ch opc : Nat} {sec : Bool} {total : Option Nat} {f : State → List Byte → State} {z : Chan}

theorem State.fragment_answer {st : Nat} (hx : (s.chan h sec ch).fragment opc total = (.answer st, z)) :
    s.fragment h sec ch opc total f = (s.setChan h sec ch z).reply h sec ch st [] := by
  unfold State.fragment
  rw [hx]

theorem State.fragment_whole {b : List Byte} (hx : (s.chan h sec ch).fragment opc total = (.whole b, z)) :
    s.fragment h sec ch opc total f = f (s.setChan h sec ch z) b := by
  unfold State.fragment
  rw [hx]

theorem Chan.fragment_kept {x : Chan} {r : Fragment} (hx : x.fragment opc total = (r, z)) :
    z = { x with long := z.long, longOpc := z.longOpc, longTotal := z.longTotal } := by
  have hframe := x.fragment_frame opc total
  rw [hx] at hframe
  exact hframe

@[simp] theorem State.chan_setChan_self (z : Chan) : (s.setChan h sec ch z).chan h sec ch = z :=
  (State.chan_setChan ..).trans (if_pos ⟨rfl, rfl, rfl⟩)

/-- The status of a fragment fits a word. -/
theorem Chan.fragment_status {x : Chan} {st : Nat} (hx : x.fragment opc total = (.answer st, z)) : st < 2 ^ 32 := by
  unfold Chan.fragment at hx
  dsimp only at hx
  generalize (if x.longOpc = opc then x else x.restart) = y at hx
  split_ifs at hx
  · cases hx
    decide
  · cases hx
    decide
  · cases hx
  · cases hx
    decide
end

/-! ## Sessions (R415) -/

section
variable {s : State} {h ch : Nat} {nonce : List Byte}

theorem State.serveS_challenge (hop : (s.chan h true ch).opcode = 0xE0) :
    s.serveS h ch nonce = s.mbChallenge h ch nonce := if_pos hop

theorem State.serveS_open (hop : (s.chan h true ch).opcode = 0xE1) : s.serveS h ch nonce = s.mbOpen h ch :=
  (if_neg (by rw [hop]; decide)).trans (if_pos hop)

/-- What mason-S does with the message of an open session. -/
theorem State.serveS_session (hses : (s.chan h true ch).session = 2) (h0 : (s.chan h true ch).opcode ≠ 0xE0)
    (h1 : (s.chan h true ch).opcode ≠ 0xE1) : s.serveS h ch nonce =
      if (s.chan h true ch).opcode = 0xE2 then s.mbClose h ch
      else if (s.chan h true ch).opcode = 0x80 then s.mbFwUpdate h ch
      else if (s.chan h true ch).opcode = 0x81 then s.mbFwCommit h ch
      else s.reply h true ch mbUnknown [] :=
  (if_neg h0).trans ((if_neg h1).trans (if_neg fun hne => hne hses))

theorem State.serveS_close (hses : (s.chan h true ch).session = 2) (hop : (s.chan h true ch).opcode = 0xE2) :
    s.serveS h ch nonce = s.mbClose h ch := by
  rw [State.serveS_session hses (by rw [hop]; decide) (by rw [hop]; decide), if_pos hop]

theorem State.serveS_update (hses : (s.chan h true ch).session = 2) (hop : (s.chan h true ch).opcode = 0x80) :
    s.serveS h ch nonce = s.mbFwUpdate h ch := by
  rw [State.serveS_session hses (by rw [hop]; decide) (by rw [hop]; decide), if_neg (by rw [hop]; decide), if_pos hop]

theorem State.serveS_commit (hses : (s.chan h true ch).session = 2) (hop : (s.chan h true ch).opcode = 0x81) :
    s.serveS h ch nonce = s.mbFwCommit h ch := by
  rw [State.serveS_session hses (by rw [hop]; decide) (by rw [hop]; decide), if_neg (by rw [hop]; decide),
    if_neg (by rw [hop]; decide), if_pos hop]

/-- Only the host ports change. -/
def HostsOnly (s t : State) : Prop := t = { s with hosts := t.hosts }

theorem HostsOnly.trans {t u : State} (h : HostsOnly s t) (k : HostsOnly t u) : HostsOnly s u := by
  have hswap : ∀ a, { t with hosts := a } = { s with hosts := a } := fun a => by rw [h]
  exact Eq.trans k (hswap _)

theorem HostsOnly.sec {t : State} (h : HostsOnly s t) : t.sec = s.sec := by
  unfold HostsOnly at h
  rw [h]

theorem State.setChan_hostsOnly (s : State) (sec : Bool) (x : Chan) : HostsOnly s (s.setChan h sec ch x) := rfl
theorem State.modChan_hostsOnly (s : State) (sec : Bool) (f : Chan → Chan) : HostsOnly s (s.modChan h sec ch f) := rfl
theorem State.reply_hostsOnly (s : State) (sec : Bool) (status : Nat) (ws : List Nat) :
    HostsOnly s (s.reply h sec ch status ws) := rfl
theorem State.closeSession_hostsOnly (s : State) : HostsOnly s (s.closeSession h ch) := rfl

theorem State.mbChallenge_done (hcount : (s.chan h true ch).count = 0) (hlen : nonce.length = 32) :
    HostsOnly s (s.mbChallenge h ch nonce) ∧ ((s.mbChallenge h ch nonce).chan h true ch).session = 1 ∧
    ((s.mbChallenge h ch nonce).chan h true ch).nonce = nonce ∧
    Replied s (s.mbChallenge h ch nonce) h true ch 0 ((List.range 8).map fun i => fieldAt nonce (4 * i) 4) := by
  have hpad : padTo 32 nonce = nonce := by
    rw [padTo, hlen, Nat.sub_self]
    exact (List.append_nil _).symm ▸ List.take_of_length_le (Nat.le_of_eq hlen)
  unfold State.mbChallenge
  dsimp only
  rw [if_neg (by simp [hcount]), hpad]
  refine ⟨((s.closeSession_hostsOnly).trans (State.modChan_hostsOnly _ _ _)).trans (State.reply_hostsOnly _ _ _ _),
    by simp, by simp, replied_of_data (State.reply_replied _ _ _ _ _ _ (by decide)) ?_⟩
  simp [State.closeSession]

theorem State.mbClose_done (hcount : (s.chan h true ch).count = 0) : HostsOnly s (s.mbClose h ch) ∧
    Replied s (s.mbClose h ch) h true ch 0 [] ∧ ((s.mbClose h ch).chan h true ch).session = 0 := by
  unfold State.mbClose
  rw [if_neg (by simp [hcount])]
  refine ⟨(s.closeSession_hostsOnly).trans (State.reply_hostsOnly _ _ _ _),
    replied_of_data (State.reply_replied _ _ _ _ _ _ (by decide)) ?_, ?_⟩
  · simp [State.closeSession]
  · simp [State.closeSession]

theorem State.fragment_answered {opc st : Nat} {total : Option Nat} {z : Chan} {sec : Bool} {f : State → List Byte → State}
    (hx : (s.chan h sec ch).fragment opc total = (.answer st, z)) : HostsOnly s (s.fragment h sec ch opc total f) ∧
      Replied s (s.fragment h sec ch opc total f) h sec ch st [] ∧
      ((s.fragment h sec ch opc total f).chan h sec ch).session = (s.chan h sec ch).session := by
  have hkept := Chan.fragment_kept hx
  rw [State.fragment_answer hx]
  refine ⟨(s.setChan_hostsOnly _ _).trans (State.reply_hostsOnly _ _ _ _),
    replied_of_data (State.reply_replied _ _ _ _ _ _ (Chan.fragment_status hx)) ?_, ?_⟩
  · rw [State.chan_setChan_self, hkept]
  · rw [State.reply_session, State.chan_setChan_self, hkept]

/-- The proof of an OPEN verifies. -/
theorem State.opens_iff {b : List Byte} : s.opens h ch b = true ↔ (s.chan h true ch).session = 1 ∧
    ∃ key, Tab.find? s.sec.hostKeys (fieldAt b 0 1) = some key ∧
      edVerify key "HT4-SESS" ((s.chan h true ch).nonce ++ [BitVec.ofNat 8 h, BitVec.ofNat 8 ch]) (sliceAt b 4 114) = true := by
  unfold State.opens
  dsimp only
  cases Tab.find? s.sec.hostKeys (fieldAt b 0 1) with
  | none => simp
  | some key => simp

section
variable {b : List Byte} {z : Chan} (hx : (s.chan h true ch).fragment 0xE1 (some 118) = (.whole b, z))
  (hslot : fieldAt b 0 1 ≤ 3) (hzero : zeroAt b 1 3 = true)
include hx hslot hzero

theorem State.mbOpen_whole : s.mbOpen h ch =
    (let u := s.setChan h true ch z
     if s.opens h ch b = true then
       (u.modChan h true ch fun x => { x with session := 2, keySlot := fieldAt b 0 1, nonce := [] }).reply h true ch mbOk []
     else (u.closeSession h ch).reply h true ch mbSignature []) := by
  have hkept := Chan.fragment_kept hx
  have hopens : (s.setChan h true ch z).opens h ch b = s.opens h ch b := by
    rw [Bool.eq_iff_iff, State.opens_iff, State.opens_iff, State.chan_setChan_self, hkept]
    rfl
  unfold State.mbOpen
  rw [State.fragment_whole hx, if_neg (by simp [hzero, hslot]), hopens]

theorem State.mbOpen_opened (hproven : s.opens h ch b = true) : HostsOnly s (s.mbOpen h ch) ∧
    Replied s (s.mbOpen h ch) h true ch 0 [] ∧ ((s.mbOpen h ch).chan h true ch).session = 2 ∧
    ((s.mbOpen h ch).chan h true ch).keySlot = fieldAt b 0 1 := by
  have hkept := Chan.fragment_kept hx
  rw [State.mbOpen_whole hx hslot hzero]
  dsimp only
  rw [if_pos hproven]
  refine ⟨((s.setChan_hostsOnly _ _).trans (State.modChan_hostsOnly _ _ _)).trans (State.reply_hostsOnly _ _ _ _),
    replied_of_data (State.reply_replied _ _ _ _ _ _ (by decide)) ?_, by simp, by simp⟩
  rw [State.chan_modChan_self, State.chan_setChan_self, hkept]

theorem State.mbOpen_refused (hproven : s.opens h ch b = false) : HostsOnly s (s.mbOpen h ch) ∧
    Replied s (s.mbOpen h ch) h true ch 6 [] ∧ ((s.mbOpen h ch).chan h true ch).session = 0 := by
  have hkept := Chan.fragment_kept hx
  rw [State.mbOpen_whole hx hslot hzero]
  dsimp only
  rw [if_neg (by simp [hproven])]
  refine ⟨((s.setChan_hostsOnly _ _).trans (State.closeSession_hostsOnly _)).trans (State.reply_hostsOnly _ _ _ _),
    replied_of_data (State.reply_replied _ _ _ _ _ _ (by decide)) ?_, by simp [State.closeSession]⟩
  rw [State.closeSession, State.chan_modChan_self, State.chan_setChan_self, hkept]
end
end

/-! ## Firmware (R433, R435) -/

section
variable {s : State} {h ch : Nat}

theorem State.mbFwUpdate_foreign (hslot : (s.chan h true ch).keySlot ≠ 0) :
    s.mbFwUpdate h ch = s.reply h true ch mbAccess [] := if_pos (by simpa [State.slot0] using hslot)

section
variable (hslot : (s.chan h true ch).keySlot = 0) (hcount : (s.chan h true ch).count = 3)
  (halign : (s.chan h true ch).word 1 % 64 = 0)
include hslot hcount halign

/-- What an FW_UPDATE with a well-formed message comes to. -/
theorem State.mbFwUpdate_eq : s.mbFwUpdate h ch =
    (let x := s.chan h true ch
     let n := x.word 3
     if n > 2 ^ 24 then s.reply h true ch mbOk [resTooLarge]
     else if s.flashBusy then s.reply h true ch mbBusy []
     else if n = 0 then s.reply h true ch mbOk [resOk]
     else (s.hold h true ch).updateSlot
       { port := h, ch := ch, tag := x.tag, addr := BitVec.ofNat 64 (x.word 1 + 2 ^ 32 * x.word 2), len := n,
         second := false, sent := false }) := by
  unfold State.mbFwUpdate
  dsimp only
  rw [if_neg (by simp [State.slot0, hslot]), if_neg]
  rw [BitVec.toNat_ofNat, hcount]
  simp only [ne_eq, not_true_eq_false, decide_false, Bool.false_or, decide_eq_true_eq, not_not]
  omega
end

/-- The update that starts, with the fetch of its image once the port may be used. -/
theorem State.updateSlot_eq (u : FwOp) (hsent : u.sent = false) : s.updateSlot u =
    { s with sec := { s.sec.putSlot (s.sec.writing u) [] with updating := some { u with sent := s.hostUsable u.port } },
             out := s.out ++ if s.hostUsable u.port then readRequests s u.port u.addr u.len else [] } := by
  unfold State.updateSlot State.updateRead
  dsimp only
  by_cases hus : s.hostUsable u.port = true
  · have hus' : ({ s with sec := { s.sec.putSlot (s.sec.writing u) [] with updating := some u } } : State).hostUsable
        u.port = true := hus
    rw [if_neg (by simp [hsent, hus']), State.hostReads_eq, if_pos hus, hus]
    rfl
  · have hus' : ({ s with sec := { s.sec.putSlot (s.sec.writing u) [] with updating := some u } } : State).hostUsable
        u.port = false := Bool.not_eq_true _ |>.mp hus
    have hu : ({ u with sent := false } : FwOp) = u := by rw [← hsent]
    rw [if_pos (by simp [hus']), if_neg hus, Bool.not_eq_true _ |>.mp hus, hu, List.append_nil]

theorem State.mbFwCommit_starts (hslot : (s.chan h true ch).keySlot = 0) (hcount : (s.chan h true ch).count = 0)
    (hidle : s.flashBusy = false) : s.mbFwCommit h ch = { s.hold h true ch with
      sec := { s.sec with committing := some ((s.hold h true ch).mbOp h true ch []) } } := by
  unfold State.mbFwCommit
  rw [if_neg (by simp [State.slot0, hslot]), if_neg (by simp [hcount]), if_neg (by simp [hidle])]
  rfl

@[simp] theorem State.hold_chan (sec : Bool) : (s.hold h sec ch).chan h sec ch = { s.chan h sec ch with busy := true } :=
  s.chan_modChan_self h sec ch fun x => { x with busy := true }

/-- The tag of a running operation is that of the message in its channel. -/
theorem State.hold_mbOp (sec : Bool) (b : List Byte) : (s.hold h sec ch).mbOp h sec ch b =
    { port := h, ch := ch, tag := (s.chan h sec ch).tag, bytes := b, at_ := s.gen.time } := by
  rw [State.mbOp, State.hold_chan]
  rfl

theorem State.modHost_chan {f : HostPort → HostPort} (hf : ∀ x, (f x).ns = x.ns ∧ (f x).sec = x.sec) (h' : Nat)
    (sec : Bool) (n : Nat) : (s.modHost h f).chan h' sec n = s.chan h' sec n := by
  rw [State.chan, State.host_modHost]
  by_cases hh : h' = h
  · rw [if_pos hh, (hf _).1, (hf _).2, hh]
    rfl
  · rw [if_neg hh]
    rfl

theorem State.logFree_chan (h' : Nat) (sec : Bool) (n : Nat) (l : List Nat) :
    (s.logFree h l).chan h' sec n = s.chan h' sec n := by
  unfold State.logFree
  refine List.foldlRecOn l _ (motive := fun u : State => u.chan h' sec n = s.chan h' sec n) rfl ?_
  intro u hu b _
  dsimp only
  split
  · refine (State.modHost_chan ?_ h' sec n).trans ?_
    · exact fun _ => ⟨rfl, rfl⟩
    · exact hu
  · exact hu

theorem State.logRead_chan (r : HostResult) (h' : Nat) (sec : Bool) (n : Nat) :
    (s.logRead h r).chan h' sec n = s.chan h' sec n := by
  cases r with
  | data bs => rfl
  | timeout =>
    unfold State.logRead
    refine State.modHost_chan ?_ h' sec n
    exact fun _ => ⟨rfl, rfl⟩
  | error =>
    unfold State.logRead
    refine (State.logFree_chan h' sec n _).trans ?_
    refine (State.modHost_chan ?_ h' sec n).trans ?_
    · exact fun _ => ⟨rfl, rfl⟩
    · rfl
end

end Sys2Proof.Machine
end

section
/-!
SUPPORT. The end of the fetch of a firmware update (R433).
-/
namespace Sys2Proof.Machine

/-! ## The end of the fetch of an update (R433) -/

section
variable {s : State} {u : FwOp}

/-- The slot that an update writes is slot A. -/
theorem Sec.writing_zero (x : Sec) (u : FwOp) : x.writing u = 0 ↔ (u.second = true ↔ x.runSlot = 0) := by
  unfold Sec.writing
  cases hs : u.second with
  | true => simp
  | false =>
    simp only [Bool.false_eq_true, if_false, false_iff]
    omega

/-- The slot that an update writes holds `b`. -/
def State.written (s : State) (u : FwOp) (b : List Byte) : State :=
  { s with sec := s.sec.putSlot (s.sec.writing u) b }

theorem Sec.putSlot_zero (x : Sec) (b : List Byte) : x.putSlot 0 b = { x with slotA := b } := if_pos rfl

theorem Sec.putSlot_other (x : Sec) {i : Nat} (b : List Byte) (hi : i ≠ 0) : x.putSlot i b = { x with slotB := b } :=
  if_neg hi

/-- What the end of an update leaves of mason-S. -/
def UpdateEnded (s t : State) (u : FwOp) (b : List Byte) : Prop :=
  t = { s with hosts := t.hosts, sec := t.sec, freeCtr := t.freeCtr } ∧
  ((u.second = true ↔ s.sec.runSlot = 0) → t.sec = { s.sec with slotA := b, updating := none }) ∧
  (¬ (u.second = true ↔ s.sec.runSlot = 0) → t.sec = { s.sec with slotB := b, updating := none })

theorem UpdateEnded.of_sec {t : State} {b : List Byte}
    (hframe : t = { s with hosts := t.hosts, sec := t.sec, freeCtr := t.freeCtr })
    (hsec : t.sec = { s.sec.putSlot (s.sec.writing u) b with updating := none }) : UpdateEnded s t u b := by
  refine ⟨hframe, fun hfirst => ?_, fun hfirst => ?_⟩
  · rw [hsec, (s.sec.writing_zero u).mpr hfirst, Sec.putSlot_zero]
  · rw [hsec, Sec.putSlot_other _ _ fun h => hfirst ((s.sec.writing_zero u).mp h)]

section
variable (hbusy : (s.chan u.port true u.ch).busy = true) (b : List Byte) {k : Nat} (hk : k < 2 ^ 32)
include hbusy

theorem State.updateReply_eq (k : Nat) : (s.written u b).updateReply u k =
    State.reply { s with sec := { s.sec.putSlot (s.sec.writing u) b with updating := none } } u.port true u.ch mbOk [k] :=
  State.lateReply_busy hbusy

theorem State.updateReply_ended : UpdateEnded s ((s.written u b).updateReply u k) u b ∧
    Replied s ((s.written u b).updateReply u k) u.port true u.ch 0 [k] := by
  rw [State.updateReply_eq hbusy]
  exact ⟨.of_sec rfl rfl, replied_of_data (State.reply_replied _ _ _ _ _ _ (by decide)) rfl⟩

theorem State.updateReply_logged (r : HostResult) :
    UpdateEnded s (((s.written u b).updateReply u k).logRead u.port r) u b ∧
      Replied s (((s.written u b).updateReply u k).logRead u.port r) u.port true u.ch 0 [k] := by
  obtain ⟨⟨hframe, hfirst, hsecond⟩, hreply⟩ := State.updateReply_ended (k := k) hbusy b
  generalize (s.written u b).updateReply u k = t at hframe hfirst hsecond hreply
  have hlog := t.logRead_frame u.port r
  have hsec : (t.logRead u.port r).sec = t.sec := by rw [hlog]
  refine ⟨⟨?_, by rw [hsec]; exact hfirst, by rw [hsec]; exact hsecond⟩, ?_⟩
  · have hswap : ∀ a c, { t with hosts := a, freeCtr := c } = { s with hosts := a, sec := t.sec, freeCtr := c } :=
      fun a c => by rw [hframe]
    rw [hsec]
    exact hlog.trans (hswap _ _)
  · unfold Replied
    rw [State.logRead_chan]
    exact hreply
end

theorem State.fwUpdateDone_waits (hrun : s.sec.updating = some u) {got : List Byte} {r : HostResult}
    (hwaits : s.waits u.port r = true) :
    s.fwUpdateDone got r = s := by
  unfold State.fwUpdateDone
  simp only [hrun, hwaits, Bool.or_true, if_true]

section
variable (hup : s.masonUp = true) (hrun : s.sec.updating = some u) (hsent : u.sent = true)
include hup hrun hsent

theorem State.fwUpdateDone_failed (got : List Byte) {r : HostResult} (hwaits : s.waits u.port r = false)
    (hr : ∀ img, r ≠ .data img) : s.fwUpdateDone got r =
      ((s.written u (wholePieces u.len got)).updateReply u resFetch).logRead u.port r := by
  unfold State.fwUpdateDone
  simp only [hrun, hup, hsent, hwaits, Bool.not_true, Bool.or_self, if_neg Bool.false_ne_true]
  cases r with
  | data img => exact absurd rfl (hr img)
  | timeout => rfl
  | error => rfl

theorem State.fwUpdateDone_image (got : List Byte) {img : List Byte} (hlen : img.length = u.len) :
    s.fwUpdateDone got (.data img) =
      if s.imageResult img ≠ 0 then (s.written u img).updateReply u (s.imageResult img)
      else if u.second then (s.written u img).updateReply u resOk
      else (s.written u img).updateSlot { u with second := true, sent := false } := by
  have hwaits : s.waits u.port (.data img) = false := rfl
  unfold State.fwUpdateDone
  simp only [hrun, hup, hsent, hwaits, Bool.not_true, Bool.or_self, if_neg Bool.false_ne_true, hlen]
  rw [if_neg (not_not_intro rfl)]
  rfl
end

theorem State.imageResult_invalid {img : List Byte} (h : s.fwValid img = false) : s.imageResult img = 1 :=
  if_pos (by simp [h])

theorem State.imageResult_old {img : List Byte} (h : s.fwValid img = true) (hsvn : fwSvn img < s.sec.arb.toNat) :
    s.imageResult img = 6 := (if_neg (by simp [h])).trans (if_pos hsvn)

theorem State.imageResult_sound {img : List Byte} (h : s.fwValid img = true) (hsvn : s.sec.arb.toNat ≤ fwSvn img) :
    s.imageResult img = 0 := (if_neg (by simp [h])).trans (if_neg (Nat.not_lt_of_le hsvn))

/-- A sound image in the slot that does not run: the running slot comes next. -/
theorem State.updateSlot_second {img : List Byte} (hfirst : u.second = false) :
    (s.written u img).updateSlot { u with second := true, sent := false } =
      { s with sec := { s.sec with
                 slotA := if s.sec.runSlot = 0 then [] else img, slotB := if s.sec.runSlot = 0 then img else [],
                 updating := some { u with second := true, sent := s.hostUsable u.port } },
               out := s.out ++ if s.hostUsable u.port then readRequests s u.port u.addr u.len else [] } := by
  rw [State.updateSlot_eq _ rfl]
  have hus : (s.written u img).hostUsable u.port = s.hostUsable u.port := rfl
  have hreq : readRequests (s.written u img) u.port u.addr u.len = readRequests s u.port u.addr u.len := rfl
  rw [hus, hreq]
  by_cases hslot : s.sec.runSlot = 0
  · have hw : s.sec.writing u ≠ 0 := fun h => by
      have hiff := (s.sec.writing_zero u).mp h
      rw [hfirst] at hiff
      exact absurd (hiff.mpr hslot) Bool.false_ne_true
    have hwritten : (s.written u img).sec = { s.sec with slotB := img } := Sec.putSlot_other _ _ hw
    have hnext : (s.written u img).sec.writing { u with second := true, sent := false } = 0 :=
      (Sec.writing_zero _ _).mpr (by rw [hwritten]; exact ⟨fun _ => hslot, fun _ => rfl⟩)
    rw [hnext, Sec.putSlot_zero, hwritten, if_pos hslot, if_pos hslot]
    rfl
  · have hw : s.sec.writing u = 0 := (s.sec.writing_zero u).mpr (by rw [hfirst]; exact iff_of_false Bool.false_ne_true hslot)
    have hwritten : (s.written u img).sec = { s.sec with slotA := img } := by
      rw [State.written, hw]
      exact Sec.putSlot_zero _ _
    have hnext : (s.written u img).sec.writing { u with second := true, sent := false } ≠ 0 := fun h => by
      have hiff := (Sec.writing_zero _ _).mp h
      rw [hwritten] at hiff
      exact hslot (hiff.mp rfl)
    rw [Sec.putSlot_other _ _ hnext, hwritten, if_neg hslot, if_neg hslot]
    rfl
end

/-! ## The update of a message -/

section
variable {s : State} {h ch : Nat} (hslot : (s.chan h true ch).keySlot = 0) (hcount : (s.chan h true ch).count = 3)
  (halign : (s.chan h true ch).word 1 % 64 = 0)
include hslot hcount halign

/-- An update that starts: its channel is held, and the slot that does not run is empty. -/
theorem State.mbFwUpdate_starts (hlen : (s.chan h true ch).word 3 ≤ 2 ^ 24) (hsome : (s.chan h true ch).word 3 ≠ 0)
    (hidle : s.flashBusy = false) :
    let x := s.chan h true ch
    let a := BitVec.ofNat 64 (x.word 1 + 2 ^ 32 * x.word 2)
    let t := s.mbFwUpdate h ch
    t = { s with hosts := t.hosts, sec := t.sec, out := t.out } ∧ t.chan h true ch = { x with busy := true } ∧
    t.sec.updating = some
      { port := h, ch := ch, tag := x.tag, addr := a, len := x.word 3, second := false, sent := s.hostUsable h } ∧
    t.out = s.out ++ (if s.hostUsable h then readRequests s h a (x.word 3) else []) ∧
    (if s.sec.runSlot = 0 then t.sec.slotA = s.sec.slotA ∧ t.sec.slotB = []
      else t.sec.slotA = [] ∧ t.sec.slotB = s.sec.slotB) := by
  have hhost : (s.hold h true ch).host h = { s.host h with sec := ((s.hold h true ch).host h).sec } := by
    rw [State.hold, State.modChan, State.setChan, State.host_modHost_self]
    rfl
  have hus : (s.hold h true ch).hostUsable h = s.hostUsable h := by
    unfold State.hostUsable
    rw [hhost]
    rfl
  have hreq : ∀ a n, readRequests (s.hold h true ch) h a n = readRequests s h a n := fun a n => by
    unfold readRequests
    rw [hhost]
  intro x a t
  have ht : t = (s.hold h true ch).updateSlot
      { port := h, ch := ch, tag := x.tag, addr := a, len := x.word 3, second := false, sent := false } := by
    refine (State.mbFwUpdate_eq hslot hcount halign).trans ?_
    dsimp only
    rw [if_neg (Nat.not_lt_of_le hlen), if_neg (by simp [hidle]), if_neg hsome]
  rw [State.updateSlot_eq _ rfl] at ht
  dsimp only at ht
  rw [hus, hreq] at ht
  rw [ht]
  refine ⟨rfl, State.hold_chan true, rfl, rfl, ?_⟩
  have hwriting := (s.hold h true ch).sec.writing_zero
    { port := h, ch := ch, tag := x.tag, addr := a, len := x.word 3, second := false, sent := false }
  by_cases hrun : s.sec.runSlot = 0
  · rw [if_pos hrun]
    dsimp only
    rw [Sec.putSlot_other _ _ fun hw => absurd ((hwriting.mp hw).mpr hrun) Bool.false_ne_true]
    exact ⟨rfl, rfl⟩
  · rw [if_neg hrun]
    dsimp only
    rw [hwriting.mpr (iff_of_false Bool.false_ne_true hrun), Sec.putSlot_zero]
    exact ⟨rfl, rfl⟩
end

end Sys2Proof.Machine
end

section
/-!
SUPPORT. Installed records and the sessions that a key change closes (R420, R423, R428, R430).
-/
namespace Sys2Proof.Machine

/-! ## Sessions that a change of a host slot closes (R428) -/

/-- A table mapped at every key: a listed entry is changed once for each time that it is listed. -/
theorem Tab.get_foldl_iterate {α : Type} [DecidableEq α] {d : α} {g : α → α} (k : Nat) : ∀ (l u : Tab α),
    ∃ n, Tab.get d (l.foldl (fun u x => if true = true then Tab.put d u x.1 (g (Tab.get d u x.1)) else u) u) k =
      g^[n] (Tab.get d u k) ∧ (k ∈ l.map (·.1) → 0 < n)
  | [], _ => ⟨0, rfl, fun h => absurd h List.not_mem_nil⟩
  | x :: l, u => by
    obtain ⟨n, hget, hpos⟩ := Tab.get_foldl_iterate k l (Tab.put d u x.1 (g (Tab.get d u x.1)))
    by_cases hk : k = x.1
    · refine ⟨n + 1, ?_, fun _ => Nat.succ_pos n⟩
      rw [List.foldl_cons, if_pos rfl, hget, hk, Tab.get_put_self, Function.iterate_succ_apply]
    · refine ⟨n, ?_, fun hmem => hpos ?_⟩
      · rw [List.foldl_cons, if_pos rfl, hget, Tab.get_put_ne _ _ _ hk]
      · rw [List.map_cons, List.mem_cons] at hmem
        exact hmem.resolve_left hk

theorem Tab.get_mapAll {α : Type} [DecidableEq α] {d : α} {g : α → α} (t : Tab α) (k : Nat) :
    ∃ n, Tab.get d (Tab.mapIf d t (fun _ => true) g) k = g^[n] (Tab.get d t k) ∧ (Tab.get d t k ≠ d → 0 < n) := by
  obtain ⟨n, hget, hpos⟩ := Tab.get_foldl_iterate (d := d) (g := g) k t t
  refine ⟨n, hget, fun hne => hpos ?_⟩
  cases hf : Tab.find? t k with
  | none => exact absurd (by rw [Tab.get, hf]; rfl) hne
  | some v => exact List.mem_map.mpr ⟨(k, v), Tab.mem_of_find? hf, rfl⟩

/-- A channel once host slot `k` has changed. -/
def Chan.closed (k : Nat) (c : Chan) : Chan :=
  if c.session = 2 && c.keySlot = k then { c with session := 0, keySlot := 0, nonce := [] } else c

theorem Chan.closed_closed (k : Nat) (c : Chan) : (c.closed k).closed k = c.closed k := by
  by_cases h : (c.session = 2 && c.keySlot = k) = true
  · have hc : c.closed k = { c with session := 0, keySlot := 0, nonce := [] } := if_pos h
    rw [hc]
    rfl
  · have hc : c.closed k = c := if_neg h
    rw [hc, hc]

/-- A host port once host slot `k` has changed. -/
def HostPort.closed (k : Nat) (x : HostPort) : HostPort :=
  { x with sec := Tab.mapIf Chan.reset x.sec (fun _ => true) (Chan.closed k) }

theorem HostPort.closed_sec (k : Nat) (x : HostPort) (c : Nat) :
    Tab.get Chan.reset (x.closed k).sec c = (Tab.get Chan.reset x.sec c).closed k :=
  (Tab.get_mapIf rfl (Chan.closed_closed k) x.sec (fun _ => true) c).trans (if_pos rfl)

theorem HostPort.iterate_closed (k : Nat) (x : HostPort) : ∀ n, ((HostPort.closed k)^[n] x).ns = x.ns ∧
    ∀ c, Tab.get Chan.reset ((HostPort.closed k)^[n + 1] x).sec c = (Tab.get Chan.reset x.sec c).closed k
  | 0 => ⟨rfl, x.closed_sec k⟩
  | n + 1 => by
    obtain ⟨hns, hsec⟩ := HostPort.iterate_closed k x n
    rw [Function.iterate_succ_apply']
    refine ⟨hns, fun c => ?_⟩
    rw [Function.iterate_succ_apply', HostPort.closed_sec, hsec, Chan.closed_closed]

section
variable (s : State) (k : Nat)

theorem State.closeKeySessions_frame : HostsOnly s (s.closeKeySessions k) := rfl

theorem State.closeKeySessions_host (h : Nat) : ∃ n, (s.closeKeySessions k).host h = (HostPort.closed k)^[n] (s.host h) ∧
    (s.host h ≠ HostPort.reset → 0 < n) := Tab.get_mapAll (g := HostPort.closed k) s.hosts h

theorem State.closeKeySessions_ns (h n : Nat) : (s.closeKeySessions k).chan h false n = s.chan h false n := by
  obtain ⟨m, hhost, -⟩ := s.closeKeySessions_host k h
  rw [State.chan, hhost, (HostPort.iterate_closed k _ m).1]
  rfl

/-- Every session opened with the slot ends. -/
theorem State.closeKeySessions_closed {h n : Nat} (hses : (s.chan h true n).session = 2)
    (hkey : (s.chan h true n).keySlot = k) : ((s.closeKeySessions k).chan h true n).session = 0 := by
  obtain ⟨m, hhost, hpos⟩ := s.closeKeySessions_host k h
  have hne : s.host h ≠ HostPort.reset := fun h0 => by
    rw [State.chan, h0] at hses
    exact absurd hses (show (0 : Nat) ≠ 2 by decide)
  obtain ⟨j, rfl⟩ := Nat.exists_eq_succ_of_ne_zero (Nat.ne_of_gt (hpos hne))
  have hchan : (s.closeKeySessions k).chan h true n = (s.chan h true n).closed k := by
    rw [State.chan, hhost]
    exact (HostPort.iterate_closed k _ j).2 n
  rw [hchan, Chan.closed, if_pos (by simp [hses, hkey])]
end

/-! ## Records (R420, R423, R430) -/

section
variable {x : Sec}

theorem Sec.freePlace_some {k : Nat} (hk : k < 4096) (hfree : Tab.find? x.records k = none)
    (hlow : ∀ j < k, Tab.find? x.records j ≠ none) : x.freePlace = some k := by
  rw [Sec.freePlace, List.find?_range_eq_some]
  exact ⟨by simp [hfree], List.mem_range.mpr hk, fun j hj => by simpa [Option.isSome_iff_ne_none] using hlow j hj⟩

theorem Sec.freePlace_none (hfull : ∀ k < 4096, Tab.find? x.records k ≠ none) : x.freePlace = none := by
  rw [Sec.freePlace, List.find?_eq_none]
  intro k hk
  simpa using hfull k (List.mem_range.mp hk)

theorem Sec.rpmbWrite_taken {c : BitVec 32} {lic keys : BitVec 64} (hkey : x.writeKey = some x.rpmbKey) :
    x.rpmbWrite c lic keys = some { x with arb := c, licGen := lic, keyGen := keys, rpmbCtr := x.rpmbCtr + 1 } := by
  rw [Sec.rpmbWrite, hkey, Option.bind_some, Sec.rpmbTake, if_pos ⟨rfl, rfl⟩]

theorem Sec.rpmbWrite_refused {c : BitVec 32} {lic keys : BitVec 64} (hkey : ∀ key, x.writeKey = some key →
    rpmbTag key x.rpmbCtr c lic keys ≠ rpmbTag x.rpmbKey x.rpmbCtr c lic keys) : x.rpmbWrite c lic keys = none := by
  rw [Sec.rpmbWrite]
  cases hk : x.writeKey with
  | none => rfl
  | some key => rw [Option.bind_some, Sec.rpmbTake, if_neg fun h => hkey key hk h.2]
end

section
variable {s : State} {b : List Byte}

/-- The records once `b` has its place, the older ones of its kind erased. -/
def Sec.recordsWith (x : Sec) (k : Nat) (b : List Byte) : Tab (List Byte) :=
  Tab.set (x.records.filter fun r => !olderKind b r.2) k b

/-- A generation that the replay-protected block does not take, or a record with no place, installs nothing. -/
theorem State.installRecord_none (h : (∀ k, s.sec.writeKey = some k →
      rpmbTag k s.sec.rpmbCtr s.sec.arb (if recType b = 4 then BitVec.ofNat 64 (recGen b) else s.sec.licGen)
          (if recType b = 4 then s.sec.keyGen else BitVec.ofNat 64 (recGen b)) ≠
        rpmbTag s.sec.rpmbKey s.sec.rpmbCtr s.sec.arb (if recType b = 4 then BitVec.ofNat 64 (recGen b) else s.sec.licGen)
          (if recType b = 4 then s.sec.keyGen else BitVec.ofNat 64 (recGen b))) ∨
    ∀ k < 4096, Tab.find? s.sec.records k ≠ none) : s.installRecord b = none := by
  unfold State.installRecord Sec.putRecord
  cases hplace : s.sec.freePlace with
  | none => rfl
  | some k =>
    obtain hkey | hfull := h
    · have hrefused := Sec.rpmbWrite_refused
        (x := { s.sec with records := Tab.set (s.sec.records.filter fun r => !olderKind b r.2) k b }) hkey
      dsimp only [Option.map_some]
      rw [hrefused]
    · rw [Sec.freePlace_none hfull] at hplace
      cases hplace

variable {k : Nat} (hkey : s.sec.writeKey = some s.sec.rpmbKey) (hplace : s.sec.freePlace = some k)
include hkey hplace

theorem State.installRecord_licence (htype : recType b = 4) : s.installRecord b = some { s with sec := { s.sec with
    records := s.sec.recordsWith k b, licGen := BitVec.ofNat 64 (recGen b), rpmbCtr := s.sec.rpmbCtr + 1 } } := by
  unfold State.installRecord Sec.putRecord
  rw [hplace]
  dsimp only [Option.map_some]
  rw [if_pos htype, if_pos htype,
    Sec.rpmbWrite_taken (x := { s.sec with records := Tab.set (s.sec.records.filter fun r => !olderKind b r.2) k b }) hkey]
  dsimp only
  rw [if_pos htype]
  rfl

/-- The module with the record of a key in flash, before the key takes effect. -/
def State.keyRecorded (s : State) (k : Nat) (b : List Byte) : State :=
  { s with sec := { s.sec with
      records := s.sec.recordsWith k b, keyGen := BitVec.ofNat 64 (recGen b), rpmbCtr := s.sec.rpmbCtr + 1 } }

theorem State.installRecord_key (htype : recType b = 5) : s.installRecord b =
    some (if fieldAt b 64 1 = 1 then ((s.keyRecorded k b).fillKey b).closeKeySessions (fieldAt b 65 1)
      else (s.keyRecorded k b).fillKey b) := by
  have hne : recType b ≠ 4 := by rw [htype]; decide
  unfold State.installRecord Sec.putRecord
  rw [hplace]
  dsimp only [Option.map_some]
  rw [if_neg hne, if_neg hne,
    Sec.rpmbWrite_taken (x := { s.sec with records := Tab.set (s.sec.records.filter fun r => !olderKind b r.2) k b }) hkey]
  dsimp only
  rw [if_neg hne]
  rfl
end

section
variable (s : State) (b : List Byte)

theorem State.fillKey_frame : s.fillKey b = { s with sec := { s.sec with
    bondKeys := (s.fillKey b).sec.bondKeys, hostKeys := (s.fillKey b).sec.hostKeys } } := by
  unfold State.fillKey
  dsimp only
  split <;> rfl

theorem State.fillKey_keys :
    let k := fieldAt b 65 1
    let pub := sliceAt b 72 57
    let v := if pub.all (· == 0) then [] else pub
    if fieldAt b 64 1 = 0 then Tab.get [] (s.fillKey b).sec.bondKeys k = v ∧ (s.fillKey b).sec.hostKeys = s.sec.hostKeys
    else Tab.get [] (s.fillKey b).sec.hostKeys k = v ∧ (s.fillKey b).sec.bondKeys = s.sec.bondKeys := by
  intro k pub v
  unfold State.fillKey
  dsimp only
  by_cases hclass : fieldAt b 64 1 = 0
  · rw [if_pos hclass, if_pos hclass]
    exact ⟨Tab.get_put_self .., rfl⟩
  · rw [if_neg hclass, if_neg hclass]
    exact ⟨Tab.get_put_self .., rfl⟩
end

end Sys2Proof.Machine
end

section
/-!
SUPPORT. Attestation, certificate and INSTALL (R427, R436, R437).
-/
namespace Sys2Proof.Machine

/-! ## What the check of a record reads -/

section
variable {s t : State} (b : List Byte) (hgen : t.gen = s.gen) (hsec : t.sec = { s.sec with lastG := t.sec.lastG })
include hsec

theorem State.recSigned_of_frame : t.recSigned b = s.recSigned b := by
  have hkey : ∀ k, t.signerKey k = s.signerKey k := fun k => by
    unfold State.signerKey
    rw [hsec]
  unfold State.recSigned
  dsimp only
  rw [hkey]

include hgen

theorem State.recBound_of_frame : t.recBound b = s.recBound b := by
  unfold State.recBound
  rw [hgen, hsec]

theorem State.installCheck_of_frame : t.installCheck b = s.installCheck b := by
  have hlic : t.sec.licGen = s.sec.licGen := by rw [hsec]
  have hkeys : t.sec.keyGen = s.sec.keyGen := by rw [hsec]
  rw [State.installCheck, State.recSigned_of_frame b hsec, State.recBound_of_frame b hgen hsec, hlic, hkeys,
    ← State.installCheck]

omit b in
theorem State.devCert_of_frame : t.devCert = s.devCert := by
  have hvalid : t.recValid = s.recValid := funext fun b => by
    rw [State.recValid, State.recSigned_of_frame b hsec, State.recBound_of_frame b hgen hsec, ← State.recValid]
  have hrecs : t.sec.recs = s.sec.recs := by rw [hsec]; rfl
  have hcert : t.sec.cert = s.sec.cert := by rw [hsec]
  rw [State.devCert, State.newestRec, hvalid, hrecs, hcert, ← State.newestRec, ← State.devCert]
end

/-! ## Attestation, certificate and INSTALL (R427, R436, R437) -/

section
variable {s : State} {h ch : Nat}

theorem State.serveNs_attest (hch : 9 ≤ ch) (hop : (s.chan h false ch).opcode = 0x20) :
    s.serveNs h ch = s.mbAttest h ch := by
  unfold State.serveNs
  dsimp only
  rw [if_neg (Nat.not_lt_of_le hch), if_neg (by rw [hop]; decide), if_neg (by rw [hop]; decide), if_pos hop]

theorem State.serveNs_getCert (hch : 9 ≤ ch) (hop : (s.chan h false ch).opcode = 0x21) :
    s.serveNs h ch = s.mbGetCert h ch := by
  unfold State.serveNs
  dsimp only
  rw [if_neg (Nat.not_lt_of_le hch), if_neg (by rw [hop]; decide), if_neg (by rw [hop]; decide),
    if_neg (by rw [hop]; decide), if_pos hop]

theorem State.serveNs_install (hch : 9 ≤ ch) (hop : (s.chan h false ch).opcode = 0x22) :
    s.serveNs h ch = s.mbInstall h ch := by
  unfold State.serveNs
  dsimp only
  rw [if_neg (Nat.not_lt_of_le hch), if_neg (by rw [hop]; decide), if_neg (by rw [hop]; decide),
    if_neg (by rw [hop]; decide), if_neg (by rw [hop]; decide), if_pos hop]

section
variable (hcount : (s.chan h false ch).count = 8)
include hcount

theorem State.mbAttest_noIdentity (hseed : s.sec.seed = none) :
    s.mbAttest h ch = s.reply h false ch mbOk [resNoIdentity] := by
  unfold State.mbAttest
  dsimp only
  rw [if_neg (by simp [hcount]), if_pos (by simp [hseed])]

theorem State.mbAttest_busy (hseed : s.sec.seed ≠ none) (hbusy : s.sec.attesting ≠ []) :
    s.mbAttest h ch = s.reply h false ch mbBusy [] := by
  unfold State.mbAttest
  dsimp only
  rw [if_neg (by simp [hcount]), if_neg (by simpa using hseed), if_pos (by simpa using hbusy)]

theorem State.mbAttest_starts (hseed : s.sec.seed ≠ none) (hidle : s.sec.attesting = []) :
    s.mbAttest h ch = { s.hold h false ch with sec := { s.sec with
      attesting := [(s.hold h false ch).mbOp h false ch ((s.chan h false ch).bytes 1 8)] } } := by
  unfold State.mbAttest
  dsimp only
  rw [if_neg (by simp [hcount]), if_neg (by simpa using hseed), if_neg (by simp [hidle])]
  rfl
end

/-- The certificate stands in the port's SEC_BUF. -/
theorem State.mbGetCert_some (hcount : (s.chan h false ch).count = 0) (hcert : s.sec.cert ≠ []) :
    let t := s.mbGetCert h ch
    HostsOnly s t ∧ (t.host h).secBuf = s.sec.cert ∧ (t.host h).secKind = 2 ∧
      Replied s t h false ch 0 [0, s.sec.cert.length] := by
  have hdev : s.devCert = s.sec.cert := if_neg hcert
  have ht : s.mbGetCert h ch = (s.modHost h fun y => { y with secBuf := s.sec.cert, secKind := 2 }).reply h false ch mbOk
      [resOk, s.sec.cert.length] := by
    unfold State.mbGetCert
    dsimp only
    rw [if_neg (by simp [hcount]), hdev]
    cases hc : s.sec.cert with
    | nil => exact absurd hc hcert
    | cons a l => rfl
  dsimp only
  rw [ht]
  refine ⟨rfl, ?_, ?_, replied_of_chan (State.reply_replied _ _ _ _ _ _ (by decide)) ?_⟩
  · rw [State.reply, State.modChan, State.setChan, State.host_modHost_self, State.host_modHost_self]
    rfl
  · rw [State.reply, State.modChan, State.setChan, State.host_modHost_self, State.host_modHost_self]
    rfl
  · refine State.modHost_chan ?_ _ _ _
    exact fun _ => ⟨rfl, rfl⟩

theorem State.mbGetCert_none (hcount : (s.chan h false ch).count = 0) (hcert : s.devCert = []) :
    s.mbGetCert h ch = s.reply h false ch mbOk [resNoIdentity] := by
  unfold State.mbGetCert
  dsimp only
  rw [if_neg (by simp [hcount]), hcert]

@[simp] theorem State.reply_secBuf (sec : Bool) (status : Nat) (ws : List Nat) :
    ((s.reply h sec ch status ws).host h).secBuf = (s.host h).secBuf := by
  rw [State.reply, State.modChan, State.setChan, State.host_modHost_self]
  cases sec <;> rfl

theorem State.mbInstall_foreign (hown : s.ownedBy h = false) : s.mbInstall h ch = s.reply h false ch mbAccess [] :=
  if_pos (by simp [hown])

theorem State.mbInstall_busy (hown : s.ownedBy h = true) (hbusy : s.flashBusy = true) :
    s.mbInstall h ch = s.reply h false ch mbBusy [] := (if_neg (by simp [hown])).trans (if_pos hbusy)

/-- What an INSTALL does with the whole record. -/
def State.installWhole (s : State) (h ch : Nat) (b : List Byte) : State :=
  if s.installCheck b ≠ 0 then s.reply h false ch mbOk [s.installCheck b]
  else { s.hold h false ch with sec := { s.sec with installing := some ((s.hold h false ch).mbOp h false ch b) } }

theorem State.mbInstall_fragment (hown : s.ownedBy h = true) (hidle : s.flashBusy = false) : s.mbInstall h ch =
    s.fragment h false ch 0x22 none fun s b => s.installWhole h ch b :=
  (if_neg (by simp [hown])).trans (if_neg (by simp [hidle]))

section
variable {b : List Byte} {z : Chan} (hown : s.ownedBy h = true) (hidle : s.flashBusy = false)
  (hx : (s.chan h false ch).fragment 0x22 none = (.whole b, z))
include hown hidle hx

theorem State.mbInstall_refused (hcheck : s.installCheck b ≠ 0) : HostsOnly s (s.mbInstall h ch) ∧
    Replied s (s.mbInstall h ch) h false ch 0 [s.installCheck b] := by
  have hkept := Chan.fragment_kept hx
  have hcheck' : (s.setChan h false ch z).installCheck b = s.installCheck b := State.installCheck_of_frame b rfl rfl
  rw [State.mbInstall_fragment hown hidle, State.fragment_whole hx, State.installWhole, hcheck', if_pos hcheck]
  refine ⟨(s.setChan_hostsOnly _ _).trans (State.reply_hostsOnly _ _ _ _),
    replied_of_data (State.reply_replied _ _ _ _ _ _ (by decide)) ?_⟩
  rw [State.chan_setChan_self, hkept]

theorem State.mbInstall_starts (hcheck : s.installCheck b = 0) :
    let t := s.mbInstall h ch
    t = { s with hosts := t.hosts, sec := { s.sec with installing := some (s.mbOp h false ch b) } } ∧
    (t.chan h false ch).busy = true ∧ (t.chan h false ch).go = (s.chan h false ch).go := by
  have hkept := Chan.fragment_kept hx
  have hcheck' : (s.setChan h false ch z).installCheck b = s.installCheck b := State.installCheck_of_frame b rfl rfl
  have hop : ((s.setChan h false ch z).hold h false ch).mbOp h false ch b = s.mbOp h false ch b := by
    rw [State.hold_mbOp, State.chan_setChan_self, hkept]
    rfl
  dsimp only
  rw [State.mbInstall_fragment hown hidle, State.fragment_whole hx, State.installWhole, hcheck', if_neg (by simp [hcheck]),
    hop]
  have hchan := State.hold_chan (s := s.setChan h false ch z) (h := h) (ch := ch) false
  rw [State.chan_setChan_self] at hchan
  have hgo : z.go = (s.chan h false ch).go := by rw [hkept]
  have hframe : HostsOnly s ((s.setChan h false ch z).hold h false ch) :=
    (s.setChan_hostsOnly _ _).trans (State.modChan_hostsOnly _ _ _)
  generalize (s.setChan h false ch z).hold h false ch = u at hchan hframe ⊢
  refine ⟨?_, congrArg Chan.busy hchan, (congrArg Chan.go hchan).trans hgo⟩
  rw [hframe]
  rfl
end
end

/-! ## The end of an attestation and of an INSTALL -/

section
variable {s : State} {o : MbOp} (hup : s.masonUp = true) (hbusy : (s.chan o.port false o.ch).busy = true)
include hup hbusy

theorem State.attestDone_done {rest : List MbOp} {seed : List Byte} (hrun : s.sec.attesting = o :: rest)
    (hseed : s.sec.seed = some seed) :
    let t := s.attestDone
    t = { s with hosts := t.hosts, sec := { s.sec with attesting := rest } } ∧
    (t.host o.port).secBuf = s.reportBody o.bytes ++ edSign seed "HT4-ATST" (s.reportBody o.bytes) ++
      List.replicate 14 0 ∧
    (t.host o.port).secKind = 1 ∧ Replied s t o.port false o.ch 0 [0, 352] := by
  let body := s.reportBody o.bytes
  have hu : ∃ u, HostsOnly { s with sec := { s.sec with attesting := rest } } u ∧
      (u.host o.port).secBuf = body ++ edSign seed "HT4-ATST" body ++ List.replicate 14 0 ∧
      (u.host o.port).secKind = 1 ∧ u.chan o.port false o.ch = s.chan o.port false o.ch ∧
      s.attestDone = u.lateReply o false mbOk [resOk, 352] := by
    refine ⟨({ s with sec := { s.sec with attesting := rest } } : State).modHost o.port fun y => { y with
      secBuf := body ++ edSign seed "HT4-ATST" body ++ List.replicate 14 0, secKind := 1 }, rfl, ?_, ?_, ?_, ?_⟩
    · rw [State.host_modHost_self]
    · rw [State.host_modHost_self]
    · refine (State.modHost_chan ?_ _ _ _).trans rfl
      exact fun _ => ⟨rfl, rfl⟩
    · unfold State.attestDone
      rw [hrun, hseed]
      dsimp only
      rw [if_neg (by simp [hup])]
  obtain ⟨u, hframe, hbuf, hkind, hchan, ht⟩ := hu
  rw [← hchan] at hbusy
  rw [State.lateReply_busy hbusy] at ht
  have hhost : (s.attestDone.host o.port) = { u.host o.port with ns := (s.attestDone.host o.port).ns } := by
    rw [ht, State.reply, State.modChan, State.setChan, State.host_modHost_self]
    rfl
  refine ⟨?_, ?_, ?_, ?_⟩
  · rw [ht]
    exact hframe.trans (State.reply_hostsOnly _ _ _ _)
  · rw [hhost]
    exact hbuf
  · rw [hhost]
    exact hkind
  · rw [ht]
    exact replied_of_chan (State.reply_replied _ _ _ _ _ _ (by decide)) hchan

variable (hrun : s.sec.installing = some o)
include hrun

omit hbusy in
/-- The module once the operation of an INSTALL has ended. -/
theorem State.installDone_eq (ok : Bool) : s.installDone ok =
    (let u : State := { s with sec := { s.sec with installing := none } }
     match (if ok then u.installRecord o.bytes else none) with
     | some t => t.lateReply o false mbOk [resOk]
     | none => u.lateReply o false mbOk [resFlash]) := by
  unfold State.installDone
  rw [hrun]
  dsimp only
  rw [if_neg (by simp [hup])] <;> rfl
end

end Sys2Proof.Machine
end

section
/-!
SUPPORT. What the end of an INSTALL leaves (R427, R430).
-/
namespace Sys2Proof.Machine

/-! ## INSTALL done -/

section
variable {s : State} {o : MbOp} (hup : s.masonUp = true) (hbusy : (s.chan o.port false o.ch).busy = true)
  (hrun : s.sec.installing = some o)
include hup hbusy hrun

/-- An INSTALL that did not succeed. -/
theorem State.installDone_failed {ok : Bool} (hfail : (if ok then
      ({ s with sec := { s.sec with installing := none } } : State).installRecord o.bytes else none) = none) :
    let t := s.installDone ok
    t = { s with hosts := t.hosts, sec := { s.sec with installing := none } } ∧ Replied s t o.port false o.ch 0 [5] := by
  have ht : s.installDone ok =
      State.reply { s with sec := { s.sec with installing := none } } o.port false o.ch mbOk [resFlash] := by
    rw [State.installDone_eq hup hrun]
    dsimp only
    rw [hfail]
    exact State.lateReply_busy hbusy
  dsimp only
  rw [ht]
  exact ⟨rfl, replied_of_chan (State.reply_replied _ _ _ _ _ _ (by decide)) rfl⟩

theorem State.installDone_done {u : State}
    (hdone : ({ s with sec := { s.sec with installing := none } } : State).installRecord o.bytes = some u)
    (hchan : u.chan o.port false o.ch = s.chan o.port false o.ch) :
    s.installDone true = u.reply o.port false o.ch mbOk [resOk] ∧ Replied s (s.installDone true) o.port false o.ch 0 [0] := by
  have ht : s.installDone true = u.reply o.port false o.ch mbOk [resOk] := by
    rw [State.installDone_eq hup hrun]
    dsimp only
    rw [if_pos rfl, hdone]
    exact State.lateReply_busy (hchan ▸ hbusy)
  refine ⟨ht, ?_⟩
  rw [ht]
  exact replied_of_chan (State.reply_replied _ _ _ _ _ _ (by decide)) hchan

variable (hkey : s.sec.writeKey = some s.sec.rpmbKey)
include hkey

theorem State.installDone_licence {k : Nat} (htype : recType o.bytes = 4) (hplace : s.sec.freePlace = some k) :
    let t := s.installDone true
    t = { s with hosts := t.hosts, sec := { s.sec with
      installing := none, licGen := BitVec.ofNat 64 (recGen o.bytes), rpmbCtr := s.sec.rpmbCtr + 1,
      records := s.sec.recordsWith k o.bytes } } ∧ Replied s t o.port false o.ch 0 [0] := by
  obtain ⟨ht, hreply⟩ := State.installDone_done hup hbusy hrun (State.installRecord_licence
    (s := { s with sec := { s.sec with installing := none } }) hkey hplace htype) rfl
  refine ⟨?_, hreply⟩
  rw [ht]
  rfl

/-- What a KEY record that has its place leaves. -/
theorem State.installDone_key {i : Nat} (htype : recType o.bytes = 5) (hplace : s.sec.freePlace = some i) :
    let t := s.installDone true
    let u := (({ s with sec := { s.sec with installing := none } } : State).keyRecorded i o.bytes).fillKey o.bytes
    t = { s with hosts := t.hosts, sec := t.sec } ∧ Replied s t o.port false o.ch 0 [0] ∧ t.sec = u.sec ∧
    (fieldAt o.bytes 64 1 = 1 → ∀ h c, (s.chan h true c).session = 2 →
      (s.chan h true c).keySlot = fieldAt o.bytes 65 1 → (t.chan h true c).session = 0) := by
  have hu := (({ s with sec := { s.sec with installing := none } } : State).keyRecorded i o.bytes).fillKey_frame o.bytes
  have hdone := State.installRecord_key (s := { s with sec := { s.sec with installing := none } }) hkey hplace htype
  dsimp only
  generalize (({ s with sec := { s.sec with installing := none } } : State).keyRecorded i o.bytes).fillKey o.bytes = u
    at hu hdone
  have huchan : ∀ h sec c, u.chan h sec c = s.chan h sec c := fun h sec c => by
    rw [hu]
    rfl
  have hswap : ∀ a, { u with hosts := a } = { s with hosts := a, sec := u.sec } := fun a => by
    rw [hu]
    rfl
  by_cases hclass : fieldAt o.bytes 64 1 = 1
  · rw [if_pos hclass] at hdone
    have hclosed := fun h n => u.closeKeySessions_closed (fieldAt o.bytes 65 1) (h := h) (n := n)
    have hns : (u.closeKeySessions (fieldAt o.bytes 65 1)).chan o.port false o.ch = s.chan o.port false o.ch :=
      (u.closeKeySessions_ns _ _ _).trans (huchan _ _ _)
    have hframe := u.closeKeySessions_frame (fieldAt o.bytes 65 1)
    generalize u.closeKeySessions (fieldAt o.bytes 65 1) = v at hdone hclosed hns hframe
    obtain ⟨ht, hreply⟩ := State.installDone_done hup hbusy hrun hdone hns
    have hsec : (s.installDone true).sec = u.sec := by
      rw [ht]
      exact (v.reply_hostsOnly _ _ _).sec.trans hframe.sec
    refine ⟨?_, hreply, hsec, fun _ h c hses hslot => ?_⟩
    · rw [hsec]
      rw [ht]
      exact Eq.trans (hframe.trans (v.reply_hostsOnly _ _ _)) (hswap _)
    · rw [← huchan] at hses hslot
      rw [ht, State.reply, State.modChan, State.chan_setChan, if_neg (by simp)]
      exact hclosed _ _ hses hslot
  · rw [if_neg hclass] at hdone
    obtain ⟨ht, hreply⟩ := State.installDone_done hup hbusy hrun hdone (huchan _ _ _)
    have hsec : (s.installDone true).sec = u.sec := by rw [ht]; rfl
    refine ⟨?_, hreply, hsec, fun h => absurd h hclass⟩
    rw [hsec]
    rw [ht]
    exact Eq.trans (u.reply_hostsOnly _ _ _) (hswap _)
end

/-- The records that a KEY record replaces. -/
theorem olderKind_key {b : List Byte} (htype : recType b = 5) (r : List Byte) : olderKind b r =
    (recType r == 5 && decide (recGen r < recGen b) && sliceAt r 64 2 == sliceAt b 64 2) := by
  rw [olderKind, htype]
  rfl

theorem olderKind_licence {b : List Byte} (htype : recType b = 4) (r : List Byte) : olderKind b r =
    (recType r == 4 && decide (recGen r < recGen b)) := by
  rw [olderKind, htype]
  exact Bool.and_true _

end Sys2Proof.Machine
end

section
/-!
SUPPORT. Secure messages: each by what its handler leaves.
-/
namespace Sys2Proof.Machine

/-! ## Messages that a command runs (O56) -/

section
variable {s : State} {h ch : Nat} {i : Instr} {opc : Nat}

/-- A command that runs the message of a secure channel. -/
theorem sRow_runs {nonce : List Byte} {t : State} (hup : s.masonUp = true) (hh : h < 2) (hch : ch < 4)
    (hnext : s.nextChan true = some (h, ch)) (hop : (s.chan h true ch).opcode = opc)
    (hrun : exec i s = guarded (isHost h && isChannel true ch) (s.mbRow h true ch opc nonce))
    (hserve : (s.noteServed h true ch).serveS h ch nonce = t) : exec i s = .next t :=
  (sRow_serves nonce hh hch hup hnext hop hrun).trans (congrArg _ hserve)

theorem nsRow_runs {t : State} (hup : s.masonUp = true) (hh : h < 2) (hch : ch < 12)
    (hnext : s.nextChan false = some (h, ch)) (hop : (s.chan h false ch).opcode = opc)
    (hrun : exec i s = guarded (isHost h && isChannel false ch) (s.mbRow h false ch opc []))
    (hserve : (s.noteServed h false ch).serveNs h ch = t) : exec i s = .next t :=
  (nsRow_serves hh hch hup hnext hop hrun).trans (congrArg _ hserve)
end

section
variable {s : State} {h ch : Nat} {sec : Bool}

/-- A message that is answered at once with a status that fits a word. -/
theorem State.reply_answered {status : Nat} (ws : List Nat) (hstatus : status < 2 ^ 32) :
    HostsOnly (s.noteServed h sec ch) ((s.noteServed h sec ch).reply h sec ch status ws) ∧
    Replied s ((s.noteServed h sec ch).reply h sec ch status ws) h sec ch status ws :=
  ⟨State.reply_hostsOnly _ _ _ _, State.serve_reply_replied s h ch sec ws hstatus⟩
end

/-- Settles O56: the messages of sessions, firmware, attestation and installs, each by what its handler leaves. -/
theorem secureMessages : Obligations.SecureMessages := by
  unfold Obligations.SecureMessages
  refine ⟨?_, ?_⟩
  · intro s hup fetched
    refine ⟨?_, ?_⟩
    · intro h ch hh hch hnext x only y
      let u := s.noteServed h true ch
      refine ⟨?_, ?_, ?_, ?_, ?_⟩
      · intro nonce hop hcount hlen
        obtain ⟨honly, hses, hnonce, hreply⟩ := State.mbChallenge_done (s := u) (h := h) (ch := ch) hcount hlen
        exact ⟨_, sRow_runs hup hh hch hnext hop (exec_challenge ..) (State.serveS_challenge hop), honly, hses, hnonce,
          replied_of_chan hreply rfl⟩
      · intro hop
        have hrun := sRow_runs hup hh hch hnext hop (exec_openMsg ..) (State.serveS_open hop)
        refine ⟨fun st z hx => ?_, ?_⟩
        · obtain ⟨honly, hreply, hses⟩ := State.fragment_answered (s := u) (f := fun s b =>
            if fieldAt b 0 1 > 3 || !zeroAt b 1 3 then s.reply h true ch mbFormat []
            else if s.opens h ch b then
              (s.modChan h true ch fun x => { x with session := 2, keySlot := fieldAt b 0 1, nonce := [] }).reply h true ch
                mbOk []
            else (s.closeSession h ch).reply h true ch mbSignature []) hx
          exact ⟨_, hrun, honly, replied_of_chan hreply rfl, hses⟩
        · intro b z hx hslot hzero proven
          have hopens : u.opens h ch b = true ↔ proven := State.opens_iff
          refine ⟨fun hp => ?_, fun hp => ?_⟩
          · obtain ⟨honly, hreply, hses, hkey⟩ := State.mbOpen_opened (s := u) hx hslot hzero (hopens.mpr hp)
            exact ⟨_, hrun, honly, replied_of_chan hreply rfl, hses, hkey⟩
          · obtain ⟨honly, hreply, hses⟩ := State.mbOpen_refused (s := u) hx hslot hzero
              (Bool.eq_false_iff.mpr fun ho => hp (hopens.mp ho))
            exact ⟨_, hrun, honly, replied_of_chan hreply rfl, hses⟩
      · intro hses hop hcount
        obtain ⟨honly, hreply, hclosed⟩ := State.mbClose_done (s := u) (h := h) (ch := ch) hcount
        exact ⟨_, sRow_runs hup hh hch hnext hop (exec_closeMsg ..) (State.serveS_close hses hop), honly,
          replied_of_chan hreply rfl, hclosed⟩
      · intro hses hop a
        have hrun := fun {t : State} (ht : u.mbFwUpdate h ch = t) =>
          sRow_runs hup hh hch hnext hop (exec_fwUpdate ..) ((State.serveS_update (s := u) hses hop).trans ht)
        refine ⟨fun hslot => ?_, fun hslot hcount halign => ?_⟩
        · exact ⟨_, hrun (State.mbFwUpdate_foreign hslot), State.reply_answered [] (by decide)⟩
        have heq := State.mbFwUpdate_eq (s := u) hslot hcount halign
        dsimp only at heq
        refine ⟨fun hbig => ?_, fun hlen hbusy => ?_, fun hzero hidle => ?_, fun hlen hsome hidle => ?_⟩
        · exact ⟨_, hrun (heq.trans (if_pos hbig)), State.reply_answered [8] (by decide)⟩
        · exact ⟨_, hrun (heq.trans ((if_neg (Nat.not_lt_of_le hlen)).trans (if_pos hbusy))),
            State.reply_answered [] (by decide)⟩
        · have hlen : ¬ x.word 3 > 2 ^ 24 := by rw [hzero]; decide
          exact ⟨_, hrun (heq.trans ((if_neg hlen).trans ((if_neg (Bool.eq_false_iff.mp hidle)).trans (if_pos hzero)))),
            State.reply_answered [0] (by decide)⟩
        · exact ⟨_, hrun rfl, State.mbFwUpdate_starts (s := u) hslot hcount halign hlen hsome hidle⟩
      · intro hses hop hslot hcount hidle
        have hstart := State.mbFwCommit_starts (s := u) hslot hcount hidle
        rw [State.hold_mbOp] at hstart
        exact ⟨_, sRow_runs hup hh hch hnext hop (exec_fwCommit ..) ((State.serveS_commit (s := u) hses hop).trans hstart), rfl,
          State.hold_chan (s := u) true, rfl⟩
    · intro u got hrun hsent hbusy first ended
      have hfail := fun {r : HostResult} (hr : ∀ img, r ≠ .data img) (hwaits : s.waits u.port r = false) =>
        State.fwUpdateDone_failed hup hrun hsent got hwaits hr
      have hlogged := fun r => State.updateReply_logged (k := resFetch) hbusy (wholePieces u.len got) r
      refine ⟨⟨_, congrArg Host.Outcome.next (hfail (by simp) rfl), hlogged _⟩, fun hct => ?_, fun hct => ?_, ?_⟩
      · exact congrArg Host.Outcome.next (State.fwUpdateDone_waits hrun (by simp [State.waits, hct]))
      · exact ⟨_, congrArg Host.Outcome.next (hfail (by simp) (by simp [State.waits, hct])), hlogged _⟩
      intro img hlen
      have himage := State.fwUpdateDone_image hup hrun hsent got hlen
      have hended := fun k => State.updateReply_ended (k := k) hbusy img
      refine ⟨fun hvalid => ?_, fun hvalid hsvn => ?_, fun hvalid hsvn => ⟨fun hsecond => ?_, fun hfirst => ?_⟩⟩
      · rw [State.imageResult_invalid hvalid, if_pos (by decide)] at himage
        exact ⟨_, congrArg Host.Outcome.next himage, hended 1⟩
      · rw [State.imageResult_old hvalid hsvn, if_pos (by decide)] at himage
        exact ⟨_, congrArg Host.Outcome.next himage, hended 6⟩
      · rw [State.imageResult_sound hvalid hsvn, if_neg (by decide), if_pos hsecond] at himage
        exact ⟨_, congrArg Host.Outcome.next himage, hended 0⟩
      · rw [State.imageResult_sound hvalid hsvn, if_neg (by decide), if_neg (by simp [hfirst]),
          State.updateSlot_second hfirst] at himage
        exact ⟨_, congrArg Host.Outcome.next himage, rfl, rfl, rfl⟩
  · intro s hup
    refine ⟨?_, ?_, ?_⟩
    · intro h ch hh hlow hch hnext x lastG only op
      let u := s.noteServed h false ch
      refine ⟨?_, ?_, ?_⟩
      · intro hop hcount
        have hrun := fun {t : State} (ht : u.mbAttest h ch = t) =>
          nsRow_runs hup hh hch hnext hop (exec_attest ..) ((State.serveNs_attest (s := u) hlow hop).trans ht)
        refine ⟨fun hseed => ?_, fun hseed hbusy => ?_, fun hseed hidle => ?_⟩
        · exact ⟨_, hrun (State.mbAttest_noIdentity hcount hseed), State.reply_answered [10] (by decide)⟩
        · exact ⟨_, hrun (State.mbAttest_busy hcount hseed hbusy), State.reply_answered [] (by decide)⟩
        · have hstart := State.mbAttest_starts (s := u) hcount hseed hidle
          rw [State.hold_mbOp] at hstart
          exact ⟨_, hrun hstart, rfl, State.hold_chan (s := u) false⟩
      · intro hop hcount
        have hrun := fun {t : State} (ht : u.mbGetCert h ch = t) =>
          nsRow_runs hup hh hch hnext hop (exec_getCert ..) ((State.serveNs_getCert (s := u) hlow hop).trans ht)
        have hdev : u.devCert = s.devCert := State.devCert_of_frame rfl rfl
        refine ⟨fun hcert => ?_, fun hcert => ?_⟩
        · obtain ⟨honly, hbuf, hkind, hreply⟩ := State.mbGetCert_some (s := u) (h := h) (ch := ch) hcount hcert
          exact ⟨_, hrun rfl, honly, hbuf, hkind, replied_of_chan hreply rfl⟩
        · obtain ⟨honly, hreply⟩ := State.reply_answered (s := s) (h := h) (sec := false) (ch := ch) (status := 0) [10]
            (by decide)
          exact ⟨_, hrun (State.mbGetCert_none (s := u) hcount (hdev.trans hcert)), honly, State.reply_secBuf _ _ _, hreply⟩
      · intro hop
        have hrun := fun {t : State} (ht : u.mbInstall h ch = t) =>
          nsRow_runs hup hh hch hnext hop (exec_install ..) ((State.serveNs_install (s := u) hlow hop).trans ht)
        have hcheck : ∀ b, u.installCheck b = s.installCheck b := fun b => State.installCheck_of_frame b rfl rfl
        refine ⟨fun hown => ?_, fun hown hbusy => ?_, fun hown hidle => ⟨fun st z hx => ?_, fun b z hx => ⟨fun hne => ?_,
          fun hzero => ?_⟩⟩⟩
        · exact ⟨_, hrun (State.mbInstall_foreign hown), State.reply_answered [] (by decide)⟩
        · exact ⟨_, hrun (State.mbInstall_busy hown hbusy), State.reply_answered [] (by decide)⟩
        · obtain ⟨honly, hreply, -⟩ := State.fragment_answered (s := u) (f := fun s b => s.installWhole h ch b) hx
          exact ⟨_, hrun (State.mbInstall_fragment hown hidle), honly, replied_of_chan hreply rfl⟩
        · obtain ⟨honly, hreply⟩ := State.mbInstall_refused (s := u) hown hidle hx (by rw [hcheck]; exact hne)
          rw [hcheck] at hreply
          exact ⟨_, hrun rfl, honly, replied_of_chan hreply rfl⟩
        · obtain ⟨hframe, hbusy, hgo⟩ := State.mbInstall_starts (s := u) hown hidle hx (by rw [hcheck]; exact hzero)
          exact ⟨_, hrun rfl, hframe, hbusy, hgo⟩
    · intro o rest seed hrun hseed hbusy
      exact ⟨_, rfl, State.attestDone_done hup hbusy hrun hseed⟩
    · intro o hrun hbusy taken lic keys refused place
      have hplaced : ∀ k, place k → s.sec.freePlace = some k := fun k ⟨hlt, hfree, hlow⟩ =>
        Sec.freePlace_some hlt hfree hlow
      refine ⟨fun hno => ?_, ?_, fun k htype hkey hplace => ?_, fun i htype hkey hplace => ?_⟩
      · have hnone := State.installRecord_none (s := { s with sec := { s.sec with installing := none } }) hno
        exact ⟨_, rfl, State.installDone_failed hup hbusy hrun (ok := true) ((if_pos rfl).trans hnone)⟩
      · exact ⟨_, rfl, State.installDone_failed hup hbusy hrun (ok := false) rfl⟩
      · have hrecords : s.sec.recordsWith k o.bytes = Tab.set (s.sec.records.filter fun r =>
            !(recType r.2 == 4 && decide (recGen r.2 < recGen o.bytes))) k o.bytes := by
          simp only [Sec.recordsWith, olderKind_licence htype]
        have hdone := State.installDone_licence hup hbusy hrun hkey htype (hplaced k hplace)
        rw [hrecords] at hdone
        exact ⟨_, rfl, hdone⟩
      · have hrecords : s.sec.recordsWith i o.bytes = Tab.set (s.sec.records.filter fun r => !(recType r.2 == 5 &&
            decide (recGen r.2 < recGen o.bytes) && sliceAt r.2 64 2 == sliceAt o.bytes 64 2)) i o.bytes := by
          simp only [Sec.recordsWith, olderKind_key htype]
        obtain ⟨hframe, hreply, hsec, hclosed⟩ := State.installDone_key hup hbusy hrun hkey htype (hplaced i hplace)
        have hfill := (({ s with sec := { s.sec with installing := none } } : State).keyRecorded i o.bytes).fillKey_frame
          o.bytes
        have hkeys := (({ s with sec := { s.sec with installing := none } } : State).keyRecorded i o.bytes).fillKey_keys
          o.bytes
        dsimp only at hframe hreply hsec hclosed hkeys
        generalize (({ s with sec := { s.sec with installing := none } } : State).keyRecorded i o.bytes).fillKey o.bytes = v
          at hsec hfill hkeys
        have hvsec := congrArg State.sec hfill
        refine ⟨_, rfl, hframe, hreply, ?_, ?_, ?_, ?_, ?_, ?_⟩
        · rw [hsec, hvsec]
          rfl
        · rw [hsec, hvsec]
          rfl
        · rw [hsec, hvsec]
          rfl
        · rw [hsec, hvsec]
          exact (Tab.find?_set ..).trans (if_pos rfl)
        · rw [hsec, hvsec, ← hrecords]
          rfl
        · rw [hsec]
          by_cases hclass : fieldAt o.bytes 64 1 = 0
          · rw [if_pos hclass] at hkeys ⊢
            exact hkeys
          · rw [if_neg hclass] at hkeys ⊢
            exact ⟨hkeys.1, hkeys.2, hclosed⟩

end Sys2Proof.Machine
end

section
/-!
SUPPORT. Reads of BAR0 and of its registers by address (R12 to R16).
-/
namespace Sys2Proof.Machine

/-! ## Reads of BAR0 (R12 to R16) -/

section
variable {s : State} {q a v w : Nat}

/-- The requester's half latch is empty. -/
def State.unlatched (s : State) (q : Nat) : State := { s with latches := Tab.erase s.latches q }

theorem State.regRead_low (hal : a % 4 = 0) (hreg : s.regAt q a = some (a, 8, v)) : s.regRead q a 4 =
    (v % 2 ^ 32, { s with latches := Tab.set (Tab.erase s.latches q) q (a, BitVec.ofNat 32 (v / 2 ^ 32)) }) := by
  unfold State.regRead
  dsimp only
  rw [if_neg (by simp [hal]), if_neg (by decide), hreg]
  dsimp only
  rw [if_neg (by decide), if_pos rfl]
  rfl

theorem State.regRead_high {b : Nat} (hal : a % 4 = 0) (hne : a ≠ b) (hreg : s.regAt q a = some (b, 8, v)) :
    (∀ hi, Tab.find? s.latches q = some (b, hi) → s.regRead q a 4 = (hi.toNat, s.unlatched q)) ∧
    ((∀ hi, Tab.find? s.latches q ≠ some (b, hi)) → s.regRead q a 4 = (v / 2 ^ 32 % 2 ^ 32, s.unlatched q)) := by
  have hread : s.regRead q a 4 = match Tab.find? s.latches q with
      | some (c, hi) => if c = b then (hi.toNat, s.unlatched q) else (v / 2 ^ 32 % 2 ^ 32, s.unlatched q)
      | none => (v / 2 ^ 32 % 2 ^ 32, s.unlatched q) := by
    unfold State.regRead
    dsimp only
    rw [if_neg (by simp [hal]), if_neg (by decide), hreg]
    dsimp only
    rw [if_neg (by decide), if_neg hne]
    rfl
  rw [hread]
  cases hlatch : Tab.find? s.latches q with
  | none => exact ⟨fun hi h => absurd h (by simp), fun _ => rfl⟩
  | some x =>
    obtain ⟨c, hi⟩ := x
    refine ⟨fun hi' h => ?_, fun h => ?_⟩
    · cases h
      exact if_pos rfl
    · exact if_neg fun hc => h hi (by rw [hc])

theorem State.regRead_whole (hal : a % 8 = 0) (hreg : s.regAt q a = some (a, 8, v)) :
    s.regRead q a 8 = (v, s.unlatched q) := by
  unfold State.regRead
  dsimp only
  rw [if_neg (by simp [hal]), if_pos rfl, hreg]
  rfl

theorem State.regRead_pair (hal : a % 8 = 0) (hreg : s.regAt q a = some (a, 4, v))
    (hnext : s.regAt q (a + 4) = some (a + 4, 4, w)) :
    s.regRead q a 8 = (v + 2 ^ 32 * w, ((s.unlatched q).clearRc q a).clearRc q (a + 4)) := by
  have hv : s.reg32 q a = v := by simp only [State.reg32, hreg]
  have hw : s.reg32 q (a + 4) = w := by simp only [State.reg32, hnext]
  unfold State.regRead
  dsimp only
  rw [if_neg (by simp [hal]), if_pos rfl, hreg, hv, hw]
  rfl

theorem State.regRead_word (hal : a % 4 = 0) (hreg : s.regAt q a = some (a, 4, v)) :
    s.regRead q a 4 = (v, (s.unlatched q).clearRc q a) := by
  unfold State.regRead
  dsimp only
  rw [if_neg (by simp [hal]), if_neg (by decide), hreg]
  rfl

/-- A read that no register answers, or whose size or alignment is wrong. -/
theorem State.regRead_zero {size : Nat} (hbad : size ≠ 4 ∧ size ≠ 8 ∨ a % size ≠ 0 ∨ size = 4 ∧ s.regAt q a = none) :
    s.regRead q a size = (0, s.unlatched q) := by
  unfold State.regRead
  dsimp only
  by_cases hform : (!(decide (size = 4) || decide (size = 8)) || decide (a % size ≠ 0)) = true
  · rw [if_pos hform]
    rfl
  · rw [if_neg hform]
    simp only [Bool.or_eq_true, Bool.not_eq_true', Bool.or_eq_false_iff, decide_eq_false_iff_not, decide_eq_true_eq,
      not_or, not_and_or, not_not] at hform
    obtain hsize | hal | ⟨h4, hnone⟩ := hbad
    · exact absurd hform.1 (by simp [hsize.1, hsize.2])
    · exact absurd hform.2 hal
    · subst h4
      rw [if_neg (by decide), hnone]
      rfl

theorem State.regRead_pair_none (hal : a % 8 = 0) (hreg : s.regAt q a = none) (hnext : s.regAt q (a + 4) = none)
    (hreg' : (s.unlatched q).regAt q a = none) (hnext' : (s.unlatched q).regAt q (a + 4) = none) :
    s.regRead q a 8 = (0, s.unlatched q) := by
  have hzero : ∀ b, s.regAt q b = none → s.reg32 q b = 0 := fun b hb => by simp only [State.reg32, hb]
  have hclear : ∀ b, (s.unlatched q).regAt q b = none → (s.unlatched q).clearRc q b = s.unlatched q := fun b hb =>
    if_pos (by rw [hb]; rfl)
  unfold State.regRead
  dsimp only
  rw [if_neg (by simp [hal]), if_pos rfl, hreg]
  dsimp only
  rw [hzero a hreg, hzero _ hnext, ← State.unlatched, hclear a hreg', hclear _ hnext', Nat.mul_zero, Nat.add_zero]

/-- A read that reaches no RC register clears nothing. -/
theorem State.clearRc_other (hpeak : a ≠ 0x20010) (hwake : a ≠ 0x20014) : s.clearRc q a = s := by
  unfold State.clearRc
  rw [if_neg hpeak, if_neg hwake, ite_self]

theorem State.clearRc_peak (hreg : (s.regAt q 0x20010).isSome = true) :
    s.clearRc q 0x20010 = { s with pwr := { s.pwr with peak := Tab.put 0 s.pwr.peak q 0 } } :=
  (if_neg (by simpa using Option.isSome_iff_ne_none.mp hreg)).trans (if_pos rfl)

theorem State.clearRc_wake (hreg : (s.regAt q 0x20014).isSome = true) :
    s.clearRc q 0x20014 = { s with pwr := { s.pwr with wakeMax := Tab.put 0 s.pwr.wakeMax q 0 } } :=
  (if_neg (by simpa using Option.isSome_iff_ne_none.mp hreg)).trans ((if_neg (by decide)).trans (if_pos rfl))
end

/-! ## Registers by their addresses -/

section
variable {s : State} {q : Nat}

theorem State.answers_power (hup : s.masonUp = true) {a : Nat} (hlow : 0x20000 ≤ a) (hhigh : a < 0x40000) :
    s.answers q a = true := by
  have hon : (s.pwr.seq == .on) = true := (Bool.and_eq_true_iff.mp hup).1
  unfold State.answers
  dsimp only
  split
  · rw [hon, hup]
    rfl
  · simp [hon, hup, hlow, hhigh]

theorem State.answers_up (hup : s.masonUp = true) (hq : q < 2) (a : Nat) : s.answers q a = true := by
  have hon : (s.pwr.seq == .on) = true := (Bool.and_eq_true_iff.mp hup).1
  unfold State.answers
  dsimp only
  rw [if_pos hq, hon, hup]
  rfl

theorem State.answers_early (hup : s.masonUp = false) (hq : q < 2) {a : Nat} (hlow : 0x20000 ≤ a) :
    s.answers q a = false := by
  unfold State.answers
  dsimp only
  rw [if_pos hq, hup, decide_eq_false (Nat.not_lt_of_le hlow)]
  exact Bool.and_false _

/-- The view of a frozen module keeps what the freeze does not hold. -/
theorem State.heldView_runs {a : Nat} (hruns : freezeRuns a = true) : s.heldView a = s := by
  unfold State.heldView
  cases s.frz.held with
  | none => rfl
  | some x => exact if_pos hruns

theorem State.regAt_of (a : Nat) (hans : s.answers q a = true) : s.regAt q a = (s.heldView a).regMap q a := if_pos hans

theorem State.regAt_none (a : Nat) (hans : s.answers q a = false) : s.regAt q a = none :=
  if_neg (by rw [hans]; decide)

theorem State.regAt_peak (hup : s.masonUp = true) :
    s.regAt q 0x20010 = some (0x20010, 4, Tab.get 0 s.pwr.peak q) := by
  rw [State.regAt_of _ (State.answers_power hup (by decide) (by decide)), State.heldView_runs (by decide)]
  rfl

theorem State.regAt_wake (hup : s.masonUp = true) :
    s.regAt q 0x20014 = some (0x20014, 4, Tab.get 0 s.pwr.wakeMax q) := by
  rw [State.regAt_of _ (State.answers_power hup (by decide) (by decide)), State.heldView_runs (by decide)]
  rfl

theorem State.regAt_serial (hon : s.pwr.seq = .on) (hq : q < 2) : s.regAt q 8 = some (8, 8, s.gen.serial.toNat) := by
  have hans : s.answers q 8 = true := by
    unfold State.answers
    dsimp only
    rw [if_pos hq, hon]
    simp
  rw [State.regAt_of _ hans]
  unfold State.heldView
  cases s.frz.held with
  | none => rfl
  | some x => rfl

theorem State.regAt_genTag (hup : s.masonUp = true) (hq : q < 2) (hheld : s.frz.held = none) :
    s.regAt q 0x400008 = some (0x400008, 8, s.ckp.genTag.toNat) := by
  rw [State.regAt_of _ (State.answers_up hup hq _)]
  unfold State.heldView
  rw [hheld]
  rfl
end

end Sys2Proof.Machine
end

section
/-!
SUPPORT. Reads over a port or the bus, and the configuration header (R390, R398, R448).
-/
namespace Sys2Proof.Machine

/-! ## Reads over a port or the bus -/

section
variable {s : State} {r : Requester}

/-- Core power as a requester needs it for its reads. -/
def State.readPower (s : State) (r : Requester) : Prop := if r = .smb then s.pwr.inputOn = true else s.pwr.seq = .on

theorem State.hostRead_eq (hon : s.readPower r) (a size : Nat) : s.hostRead r a size =
    (s.readAt r a size).2.emit (.regRead r a (BitVec.ofNat 64 (s.readAt r a size).1)) := by
  refine if_neg ?_
  unfold State.readPower at hon
  split at hon
  · rename_i hr
    simp [hr, hon]
  · rename_i hr
    simp [hr, hon]

theorem State.readAt_reg {a : Nat} (ha : a < 2 ^ 26) (size : Nat) : s.readAt r a size = s.regRead (reqIdx r) a size :=
  if_pos ha

theorem exec_regRead (hon : s.readPower r) {a size v : Nat} {t : State} (ha : a < 2 ^ 26)
    (hread : s.regRead (reqIdx r) a size = (v, t)) :
    exec (.lowHalfRead r ⟨a, size⟩) s = .next (t.emit (.regRead r a (BitVec.ofNat 64 v))) := by
  refine congrArg Host.Outcome.next ((State.hostRead_eq hon a size).trans ?_)
  rw [State.readAt_reg ha, hread]

theorem State.readAt_port {h a size : Nat} (ha : 2 ^ 26 ≤ a) (hr : r = portReq h) (hh : h < 2) :
    s.readAt r a size = s.portRead h a size := by
  refine (if_neg (Nat.not_lt_of_le ha)).trans ?_
  obtain rfl | rfl : h = 0 ∨ h = 1 := by omega
  · rw [hr]
    rfl
  · rw [hr]
    rfl

/-- A doorbell reads back its tail. -/
theorem State.portRead_doorbell {h n size : Nat} (hon : s.pwr.seq = .on) (hn : n < 1024) (hsize : size = 4 ∨ size = 8)
    (hctx : s.partOfCtx n ≠ none) (hreach : s.reaches (s.partOfCtx n) h = true) :
    s.portRead h (2 ^ 26 + 8 * n) size = ((s.ctx n).tail.toNat, s) := by
  have hbar : s.bar2Read h (8 * n) size = (s.ctx n).tail.toNat := by
    have hdiv : 8 * n / 8 = n := by omega
    have hmod : 8 * n % 8 = 0 := by omega
    unfold State.bar2Read
    rw [if_neg (by simp [hon]), if_pos (by omega), hdiv, hmod, if_pos]
    simp [hsize, hctx, hreach]
  refine (if_pos (by unfold cfgAt; omega)).trans ?_
  rw [show 2 ^ 26 + 8 * n - bar2At = 8 * n from by unfold bar2At; omega, hbar]

/-- A read of a doubleword that the link's hardware does not change. -/
theorem State.portRead_cfg {h o : Nat} (hup : s.cfgUp h = true) (hal : o % 4 = 0) (hlog : errorLog o = false)
    (hlink : linkReg o = none) : s.portRead h (2 ^ 27 + o) 4 = (s.cfgDword h o % 2 ^ 32, s) := by
  have hdiv : o / 4 * 4 = o := by omega
  have hreport : s.linkReport h o = s := by
    unfold State.linkReport
    rw [if_neg (by simp [hlog]), hlink]
  refine (if_neg (by unfold cfgAt; omega)).trans ?_
  rw [show 2 ^ 27 + o - cfgAt = o from by unfold cfgAt; omega]
  unfold State.cfgRead
  rw [if_neg (by simp [hup, hal]), hdiv, hreport, hal]
  simp

/-- The doublewords of the header that no link changes, as they are laid down. -/
def State.headerWords (s : State) : List (Nat × Nat) :=
  [(0x00, 0x4D101E6A), (0x08, 0x12000000 + s.gen.silicon.toNat), (0x2C, 0x1E6A + 2 ^ 16 * (s.gen.part + 1)),
   (0x150, s.gen.serial.toNat / 2 ^ 32)]

theorem packBits_two (a b k : Nat) : packBits [(0, a), (k, b)] = a + b * 2 ^ k := by
  simp [packBits]

theorem errorLog_header : ∀ o ∈ [0x00, 0x08, 0x2C, 0x150], o % 4 = 0 ∧ errorLog o = false ∧ linkReg o = none := by
  decide

theorem State.cfgDword_header {h : Nat} {x : Nat × Nat} (hx : x ∈ s.headerWords) : s.cfgDword h x.1 = x.2 ∧
    x.1 % 4 = 0 ∧ errorLog x.1 = false ∧ linkReg x.1 = none := by
  refine ⟨?_, errorLog_header x.1 (List.mem_map_of_mem (f := Prod.fst) hx)⟩
  simp only [State.headerWords, List.mem_cons, List.not_mem_nil, or_false] at hx
  obtain rfl | rfl | rfl | rfl := hx
  · rfl
  · have hval : s.cfgDword h 0x08 = packBits [(0, s.gen.silicon.toNat), (8, 0x120000)] := rfl
    rw [hval, packBits_two, show (0x120000 : Nat) * 2 ^ 8 = 0x12000000 by norm_num, Nat.add_comm]
  · have hval : s.cfgDword h 0x2C = packBits [(0, 0x1E6A), (16, s.gen.part + 1)] := rfl
    rw [hval, packBits_two, Nat.mul_comm]
  · rfl
end

/-- Settles O53, by what a read of a register, of a pair, of no register, of a doorbell, and of the header is. -/
theorem registerReads : Obligations.RegisterReads := by
  unfold Obligations.RegisterReads
  intro s r hon q gone read
  have hrun := fun {a size v : Nat} {t : State} (ha : a < 2 ^ 26) (hr : s.regRead q a size = (v, t)) =>
    exec_regRead (s := s) (r := r) hon ha hr
  refine ⟨fun a v ha hal hreg => hrun ha (State.regRead_low hal hreg), fun a v ha hal hreg => ?_, fun hup => ?_,
    fun hdown hq a size ha => ?_, fun a ha hal => ⟨fun v hreg => hrun ha (State.regRead_whole hal hreg), ?_⟩,
    fun a size ha hbad => hrun ha (State.regRead_zero hbad), fun h hh hr => ⟨?_, ?_⟩, fun hq => ⟨?_, ?_⟩⟩
  · have hhigh := State.regRead_high (q := q) (by omega) (by omega) hreg
    exact ⟨fun hi hlatch => hrun ha (hhigh.1 hi hlatch), fun hlatch => hrun ha (hhigh.2 hlatch)⟩
  · have hup' : (s.unlatched q).masonUp = true := hup
    have hpeak := State.regAt_peak (q := q) hup
    have hwake := State.regAt_wake (q := q) hup
    have hclear := State.clearRc_peak (s := s.unlatched q) (q := q) (by rw [State.regAt_peak hup']; rfl)
    refine ⟨?_, ?_, ?_⟩
    · have hread := State.regRead_word (by decide) hpeak
      rw [hclear] at hread
      exact hrun (by decide) hread
    · have hread := State.regRead_word (by decide) hwake
      rw [State.clearRc_wake (by rw [State.regAt_wake hup']; rfl)] at hread
      exact hrun (by decide) hread
    · have hread := State.regRead_pair (by decide) hpeak hwake
      have hup'' : (((s.unlatched q).clearRc q 0x20010)).masonUp = true := by rw [hclear]; exact hup
      rw [State.clearRc_wake (by rw [State.regAt_wake hup'']; rfl), hclear] at hread
      exact hrun (by decide) hread
  · have hdown' : (s.unlatched q).masonUp = false := hdown
    have hnone : ∀ b, 0x20000 ≤ b → s.regAt q b = none := fun b hb => State.regAt_none b (State.answers_early hdown hq hb)
    have hnone' : ∀ b, 0x20000 ≤ b → (s.unlatched q).regAt q b = none := fun b hb =>
      State.regAt_none b (State.answers_early hdown' hq hb)
    obtain ⟨rfl, rfl | rfl⟩ | ⟨rfl, rfl⟩ := ha
    · exact hrun (by decide) (State.regRead_zero (.inr (.inr ⟨rfl, hnone _ (by decide)⟩)))
    · exact hrun (by decide) (State.regRead_pair_none (by decide) (hnone _ (by decide)) (hnone _ (by decide))
        (hnone' _ (by decide)) (hnone' _ (by decide)))
    · exact hrun (by decide) (State.regRead_zero (.inr (.inr ⟨rfl, hnone _ (by decide)⟩)))
  · intro v w hne hreg hnext
    have hread := State.regRead_pair hal hreg hnext
    rw [State.clearRc_other (a := a) hne (by omega), State.clearRc_other (by omega) (by omega)] at hread
    exact hrun ha hread
  · intro n size hn hsize hctx hreach
    have hseq : s.pwr.seq = .on := by
      rwa [if_neg] at hon
      rw [hr, portReq]
      split <;> exact nofun
    have hread := (State.readAt_port (s := s) (a := 2 ^ 26 + 8 * n) (size := size) (by omega) hr hh).trans
      (State.portRead_doorbell hseq hn hsize hctx hreach)
    refine congrArg Host.Outcome.next ((State.hostRead_eq hon _ _).trans ?_)
    rw [hread]
    rfl
  · intro hperst hlink x hx
    have hseq : s.pwr.seq = .on := by
      rwa [if_neg] at hon
      rw [hr, portReq]
      split <;> exact nofun
    have hup : s.cfgUp h = true := by
      unfold State.cfgUp
      simp [hseq, hperst, hlink]
    obtain ⟨hval, hal, hlog, hreg⟩ := State.cfgDword_header (s := s) (h := h) hx
    have hread := (State.readAt_port (s := s) (a := 2 ^ 27 + x.1) (size := 4) (by omega) hr hh).trans
      (State.portRead_cfg hup hal hlog hreg)
    rw [hval] at hread
    refine congrArg Host.Outcome.next ((State.hostRead_eq hon _ _).trans ?_)
    rw [hread]
    rfl
  · have hseq : s.pwr.seq = .on := by
      rwa [if_neg] at hon
      rintro rfl
      exact absurd hq (by decide)
    exact State.regAt_serial hseq hq
  · exact fun hfrozen hheld hup => State.regAt_genTag hup hq hheld

end Sys2Proof.Machine
end

section
/-!
SUPPORT. Writes of BAR0 and what they make of a register (R12, R13).
-/
namespace Sys2Proof.Machine

/-! ## Writes of BAR0 (R12, R13) -/

section
variable {s : State} {h : Nat}

/-- The register write of a host port once its half latch is empty. -/
theorem exec_regWrite (hon : s.pwr.seq = .on) {a : Nat} (ha : a < 2 ^ 26) (r : Requester) (size : Nat) (v : W64) :
    exec (.registerWrite r a size v) s = .next (s.bar0Write r a size v) := by
  refine congrArg Host.Outcome.next ?_
  unfold State.registerWrite
  rw [if_neg (by simp [hon])]
  exact if_pos ha

theorem State.bar0Write_bad (r : Requester) {a size : Nat} (v : W64)
    (hbad : size = 4 ∧ a % 4 ≠ 0 ∨ size = 8 ∧ a % 8 ≠ 0 ∨ size ≠ 4 ∧ size ≠ 8) :
    s.bar0Write r a size v = s.emptyLatch r := by
  unfold State.bar0Write
  dsimp only
  obtain ⟨rfl, hal⟩ | ⟨rfl, hal⟩ | ⟨h4, h8⟩ := hbad
  · rw [if_pos rfl, if_neg hal]
  · rw [if_neg (by decide), if_pos rfl, if_pos hal]
  · rw [if_neg h4, if_neg h8]

theorem State.bar0Write_whole (r : Requester) {a old : Nat} (v : W64) (hal : a % 8 = 0)
    (hreg : (s.emptyLatch r).regHeld (reqIdx r) a = some (a, 8, old)) :
    s.bar0Write r a 8 v = (s.emptyLatch r).putReg r a old v (BitVec.allOnes 64) := by
  unfold State.bar0Write
  dsimp only
  rw [if_neg (by decide), if_pos rfl, if_neg (by simp [hal]), hreg]
  rfl

theorem State.bar0Write_low (r : Requester) {a n old : Nat} (v : W64) (hal : a % 4 = 0)
    (hreg : (s.emptyLatch r).regHeld (reqIdx r) a = some (a, n, old)) :
    s.bar0Write r a 4 v = (s.emptyLatch r).putReg r a old ((v.extractLsb' 0 32).zeroExtend 64) 0xFFFFFFFF := by
  unfold State.bar0Write State.write32
  dsimp only
  rw [if_pos rfl, if_pos hal, hreg]
  exact if_pos rfl

theorem State.bar0Write_high (r : Requester) {a b n old : Nat} (v : W64) (hal : a % 4 = 0) (hne : a ≠ b)
    (hreg : (s.emptyLatch r).regHeld (reqIdx r) a = some (b, n, old)) : s.bar0Write r a 4 v =
      (s.emptyLatch r).putReg r b old ((v.extractLsb' 0 32).zeroExtend 64 <<< 32) 0xFFFFFFFF00000000 := by
  unfold State.bar0Write State.write32
  dsimp only
  rw [if_pos rfl, if_pos hal, hreg]
  exact if_neg hne

theorem State.putReg_port (hh : h < 2) (b old : Nat) (v m : W64) :
    s.putReg (portReq h) b old v m = s.hostReg h b (writtenValue b old v m) m := by
  obtain rfl | rfl : h = 0 ∨ h = 1 := by omega
  · rfl
  · rfl

end

/-! ## What a write makes of a register's bits -/

section
variable (b old : Nat) (v m : W64)

/-- A bit that a write names is the bit written. -/
theorem writtenValue_bit {i : Nat} (hm : m.getLsbD i = true) : (writtenValue b old v m).getLsbD i = v.getLsbD i := by
  unfold writtenValue
  dsimp only
  split
  · simp [hm]
  · simp [hm]

theorem writtenValue_all : writtenValue b old v (BitVec.allOnes 64) = v := by
  unfold writtenValue
  dsimp only
  split
  · rw [BitVec.not_allOnes, BitVec.and_zero, BitVec.zero_or, BitVec.and_allOnes]
  · exact BitVec.and_allOnes

theorem lowMask_bit : ∀ i < 32, (0xFFFFFFFF : W64).getLsbD i = true := by
  decide

/-- The low half of a value, alone. -/
theorem lowHalf_bit {i : Nat} (hi : i < 32) : ((v.extractLsb' 0 32).zeroExtend 64).getLsbD i = v.getLsbD i := by
  simp [hi]
  omega

theorem lowHalf_toNat : ((v.extractLsb' 0 32).zeroExtend 64).toNat = v.toNat % 2 ^ 32 := by
  simp
  omega

/-- A write of the low half of a register that no write sets whole. -/
theorem lowHalf_and : (v.extractLsb' 0 32).zeroExtend 64 &&& (0xFFFFFFFF : W64) = (v.extractLsb' 0 32).zeroExtend 64 := by
  ext i hi
  by_cases hlt : i < 32
  · have hbit := lowMask_bit i hlt
    rw [BitVec.getLsbD_eq_getElem hi] at hbit
    rw [BitVec.getElem_and, hbit, Bool.and_true]
  · simp [hlt]
end

/-! ## Registers of OWNER_PORT -/

section
variable {s : State} {h : Nat}

/-- A write that OWNER_PORT makes. -/
theorem State.ckpWrite_iff : s.ckpWrite h = true ↔ s.writable = true ∧ s.ownedBy h = true := Bool.and_eq_true_iff

theorem State.hostReg_genTag (v m : W64) : s.hostReg h 0x400008 v m =
    if s.ckpWrite h then { s with ckp := { s.ckp with genTag := v } } else s := by
  have hreg : s.hostReg h 0x400008 v m = s.ckpRegs h 0x400008 v := rfl
  rw [hreg, State.ckpRegs]
  cases s.ckpWrite h <;> rfl

theorem State.hostReg_loss (v m : W64) : s.hostReg h 0x400088 v m = if s.ckpWrite h then
    { s with pwr := { s.pwr with lossValid := s.w1c .ckpLoss (v.getLsbD 2) s.pwr.lossValid } } else s := by
  have hreg : s.hostReg h 0x400088 v m = s.ckpRegs h 0x400088 v := rfl
  rw [hreg, State.ckpRegs]
  cases s.ckpWrite h <;> rfl

theorem State.hostReg_xport (v m : W64) : s.hostReg h 0x200008 v m = if s.rteWrite h then s.modRte fun r => { r with
      retxUs := if 50 ≤ v.toNat % 2 ^ 16 && v.toNat % 2 ^ 16 ≤ 10000 then v.toNat % 2 ^ 16 else r.retxUs,
      retries := if v.toNat / 2 ^ 16 % 16 = 0 then r.retries else v.toNat / 2 ^ 16 % 16 } else s := by
  have hreg : s.hostReg h 0x200008 v m = s.rteRegs h 0x200008 v m := rfl
  rw [hreg, State.rteRegs]
  cases s.rteWrite h <;> rfl
end

end Sys2Proof.Machine
end

section
/-!
SUPPORT. Context registers, channel words and the base of the pier-space window, written (R238, R399, R409).
-/
namespace Sys2Proof.Machine

/-! ## Context registers in BAR0 (R238, R249) -/

section
variable {s : State} {h n : Nat}

/-- A register of a context, as the register map finds it. -/
theorem State.regMap_ctx {q o : Nat} (hn : n < 1024) (ho : o < 0x40) : s.regMap q (0x80000 + 0x40 * n + o) =
    inBlock (0x80000 + 0x40 * n) (ownOnly (s.readsPart (s.partOfCtx n) q) (s.ctxBlock n)) o := by
  have hdiv : (0x80000 + 0x40 * n + o - 0x80000) / 0x40 = n := by omega
  have hmod : (0x80000 + 0x40 * n + o - 0x80000) % 0x40 = o := by omega
  unfold State.regMap
  rw [if_neg (by omega), if_neg (by omega), if_neg (by omega), if_neg (by omega), if_neg (by omega), if_neg (by omega),
    if_neg (by omega), if_neg (by omega), if_neg (by omega), if_neg (by omega), if_neg (by omega), if_pos (by omega)]
  unfold inParts
  dsimp only
  rw [hdiv, hmod, if_pos hn]

/-- The 64-bit ring register and the 32-bit numeric status of a context have their places. -/
theorem State.regHeld_ring (q : Nat) (hn : n < 1024) : ∃ old, s.regHeld q (0x80008 + 0x40 * n) =
    some (0x80008 + 0x40 * n, 8, old) := by
  have haddr : 0x80008 + 0x40 * n = 0x80000 + 0x40 * n + 8 := by omega
  rw [State.regHeld, haddr, State.regMap_ctx hn (by decide)]
  cases s.readsPart (s.partOfCtx n) q
  · exact ⟨_, rfl⟩
  · exact ⟨_, rfl⟩

theorem State.regHeld_numstat (q : Nat) (hn : n < 1024) : ∃ old, s.regHeld q (0x80018 + 0x40 * n) =
    some (0x80018 + 0x40 * n, 4, old) := by
  have haddr : 0x80018 + 0x40 * n = 0x80000 + 0x40 * n + 0x18 := by omega
  rw [State.regHeld, haddr, State.regMap_ctx hn (by decide)]
  cases s.readsPart (s.partOfCtx n) q
  · exact ⟨_, rfl⟩
  · exact ⟨_, rfl⟩

theorem State.hostReg_ctx {o : Nat} (hn : n < 1024) (ho : o < 0x40) (v m : W64) :
    s.hostReg h (0x80000 + 0x40 * n + o) v m = s.ctxRegs h n o v m := by
  have hdiv : (0x80000 + 0x40 * n + o - 0x80000) / 0x40 = n := by omega
  have hmod : (0x80000 + 0x40 * n + o) % 0x40 = o := by omega
  unfold State.hostReg
  dsimp only
  rw [if_neg (by omega), if_neg (by simp; omega), if_neg (by simp; omega), if_pos (by simp; omega), hdiv, hmod]

section
variable (hlive : s.live = true) (hreach : s.reaches (s.partOfCtx n) h = true)
include hlive hreach

theorem State.ctxRegs_ring (v m : W64) : s.ctxRegs h n 8 v m = s.modCtx n fun c =>
    if c.enable then c else { c with ring := ((c.ring &&& ~~~m) ||| (v &&& m)) &&& ~~~(0x3E : W64) } := by
  unfold State.ctxRegs
  dsimp only
  rw [if_neg (by decide), if_neg (by simp [hlive, hreach]), if_neg (by decide), if_pos rfl]

theorem State.ctxRegs_numstat (v m : W64) : s.ctxRegs h n 0x18 v m = s.modCtx n fun c =>
    { c with numstat := s.w1cStatus (.ctxNumstat n) v c.numstat } := by
  unfold State.ctxRegs
  dsimp only
  rw [if_neg (by decide), if_neg (by simp [hlive, hreach]), if_neg (by decide), if_neg (by decide), if_pos rfl]
end
end

/-! ## Channels in BAR2, and GEN_BAR4_BASE (R399, R409) -/

section
variable {s : State} {h : Nat}

theorem State.registerWrite_port (hon : s.pwr.seq = .on) (hh : h < 2) {a : Nat} (ha : 2 ^ 26 ≤ a) (size : Nat) (v : W64) :
    s.registerWrite (portReq h) a size v = s.portWrite h a size v := by
  have hout : ¬ a < bar2At := Nat.not_lt_of_le ha
  unfold State.registerWrite
  rw [if_neg (by simp [hon]), if_neg hout]
  obtain rfl | rfl : h = 0 ∨ h = 1 := by omega
  · rfl
  · rfl

theorem State.portWrite_data (hon : s.pwr.seq = .on) {ch i : Nat} (hch : ch < 12) (hi : i < 16) (v : W64) :
    s.portWrite h (2 ^ 26 + 0x4000 + 0x80 * ch + 4 * i) 4 v =
      if (s.chan h false ch).go then s
      else s.setChan h false ch { s.chan h false ch with
        data := Tab.put 0 (s.chan h false ch).data i (v.extractLsb' 0 32) } := by
  have hoff : 2 ^ 26 + 0x4000 + 0x80 * ch + 4 * i - bar2At = 0x4000 + 0x80 * ch + 4 * i := by
    unfold bar2At
    omega
  have hchan : channelAt (0x4000 + 0x80 * ch + 4 * i) = some (false, ch, 4 * i) := by
    have hdiv : (0x4000 + 0x80 * ch + 4 * i - 0x4000) / 0x80 = ch := by omega
    have hmod : (0x4000 + 0x80 * ch + 4 * i) % 0x80 = 4 * i := by omega
    unfold channelAt
    rw [if_pos (by simp; omega), hdiv, hmod]
  have hquarter : 4 * i / 4 = i := by omega
  unfold State.portWrite
  rw [if_pos (by unfold cfgAt; omega), hoff]
  unfold State.bar2Write
  dsimp only
  rw [if_neg (by omega), if_neg (by simp; omega), hchan]
  unfold State.chanWrite
  dsimp only
  rw [if_pos (by omega), hquarter]
  cases (s.chan h false ch).go <;> simp [hon]

/-- A base of the pier-space window that is taken. -/
def baseOk (s : State) (v : W64) : Prop := s.writable = true ∧ v.toNat % 2 ^ 26 = 0 ∧ v.toNat ≤ 2 ^ 41 - 2 ^ 36

theorem State.bar4BaseWrite_taken {v : W64} (hok : baseOk s v) : s.bar4BaseWrite h v =
    (s.emptyLatch (portReq h)).modHost h fun x => { x with bar4Base := v.setWidth 41 } := by
  obtain ⟨hw, hal, hle⟩ := hok
  have hw' : (s.emptyLatch (portReq h)).writable = true := hw
  unfold State.bar4BaseWrite
  dsimp only
  have hbase : BitVec.ofNat 41 v.toNat = v.setWidth 41 := BitVec.eq_of_toNat_eq (by simp)
  rw [if_neg (by simp [hw']; omega), hbase]

theorem State.bar4BaseWrite_ignored {v : W64} (hno : ¬ baseOk s v) : s.bar4BaseWrite h v = s.emptyLatch (portReq h) := by
  have hw' : (s.emptyLatch (portReq h)).writable = s.writable := rfl
  refine if_pos ?_
  rw [hw']
  simp only [baseOk, not_and_or, Bool.not_eq_true] at hno
  obtain hw | hal | hle := hno
  · simp [hw]
  · simp
    omega
  · simp
    omega
end

end Sys2Proof.Machine
end

section
/-!
SUPPORT. Writes of configuration space (R390, R393).
-/
namespace Sys2Proof.Machine

/-! ## Writes of configuration space (R390, R393) -/

section
variable {s : State} {h : Nat}

/-- A write of the low bytes of a doubleword, `m` the values of those bytes, after which the port may not be used and which
does not leave L1: it changes the port's registers alone. -/
theorem State.cfgWrite_quiet {o size v m : Nat} (hup : s.cfgUp h = true) (hsize : size = 1 ∨ size = 2 ∨ size = 4)
    (hal : o % 4 = 0) (hm : 2 ^ (8 * size) = m) {x : HostPort}
    (hx : (s.host h).cfgSet o (s.cfgDword h o - s.cfgDword h o % m + v % m) (v % m) = x)
    (hl1 : (s.host h).l1 = true → x.l1 = true) (hidle : (x.bme && !x.d3hot) = false) :
    s.cfgWrite h o size v = s.setHost h x := by
  have hmod : (s.modHost h fun x => x.cfgSet o (s.cfgDword h o - s.cfgDword h o % m + v % m) (v % m)) = s.setHost h x :=
    congrArg (s.setHost h) hx
  have hhost : (s.setHost h x).host h = x := State.host_setHost_self ..
  have hus : (s.setHost h x).hostUsable h = false := by
    unfold State.hostUsable
    rw [hhost]
    cases hb : x.bme
    · simp [hb]
    · simp [hb] at hidle
      simp [hidle]
  have hwake : ((s.host h).l1 && !((s.setHost h x).host h).l1) = false := by
    rw [hhost]
    cases hl : (s.host h).l1
    · rfl
    · simp [hl1 hl]
  have hform : (!s.cfgUp h || !(decide (size = 1) || decide (size = 2) || decide (size = 4)) ||
      decide (o % size ≠ 0)) = false := by
    obtain rfl | rfl | rfl := hsize
    · simp [hup, Nat.mod_one]
    · simp [hup]
      omega
    · simp [hup, hal]
  have hbase : o / 4 * 4 = o := by omega
  unfold State.cfgWrite
  dsimp only
  rw [hform, if_neg Bool.false_ne_true, hbase, hal, hm, Nat.mul_zero, Nat.pow_zero, Nat.div_one, Nat.mul_one, Nat.mul_one,
    hmod, hwake, if_neg Bool.false_ne_true, hus, Bool.and_false, if_neg Bool.false_ne_true]

/-- The bits of a doubleword whose low half is written. -/
theorem bit_written (old k n : Nat) (hk : k < n) (v : W64) :
    bit (old - old % 2 ^ n + v.toNat % 2 ^ n) k = v.getLsbD k := by
  have hsplit : old - old % 2 ^ n + v.toNat % 2 ^ n = 2 ^ n * (old / 2 ^ n) + v.toNat % 2 ^ n := by
    have hdiv := Nat.div_add_mod old (2 ^ n)
    omega
  have hbit : ∀ a, bit a k = a.testBit k := fun a => by
    rw [Nat.testBit_eq_decide_div_mod_eq, bit]
    exact (Bool.beq_eq_decide_eq _ _)
  rw [hbit, hsplit, Nat.testBit_two_pow_mul_add _ (Nat.mod_lt _ (Nat.two_pow_pos _)), if_pos hk, Nat.testBit_mod_two_pow,
    decide_eq_true hk, Bool.true_and]
  rfl

theorem State.setHost_hostsOnly (x : HostPort) : s.setHost h x = { s with hosts := (s.setHost h x).hosts } ∧
    ∀ k, k ≠ h → (s.setHost h x).host k = s.host k :=
  ⟨rfl, fun _ hk => State.host_setHost_ne s _ hk⟩

theorem State.cfgWrite_command (hup : s.cfgUp h = true) (v : W64) (hbme : v.getLsbD 2 = false) :
    ∃ x : HostPort, s.cfgWrite h 4 2 v.toNat = s.setHost h x ∧ x.bme = false ∧ x.space.memEn = v.getLsbD 1 := by
  have hbit := fun k hk => bit_written (s.cfgDword h 4) k 16 hk v
  generalize hn : s.cfgDword h 4 - s.cfgDword h 4 % 2 ^ 16 + v.toNat % 2 ^ 16 = n at hbit
  have hset : (s.host h).cfgSet 4 n (v.toNat % 2 ^ 16) = { s.host h with
      bme := bit n 2,
      space := { (s.host h).space with
        memEn := bit n 1,
        errSta := (s.host h).space.errSta &&& ~~~(BitVec.ofNat 16 (v.toNat % 2 ^ 16 / 2 ^ 16)) } } := by
    unfold HostPort.cfgSet
    dsimp only
    rw [if_pos rfl]
  rw [hbit 2 (by decide), hbit 1 (by decide), hbme] at hset
  rw [← hn] at hset
  exact ⟨_, State.cfgWrite_quiet (m := 2 ^ 16) hup (.inr (.inl rfl)) rfl rfl hset (fun hl => hl) rfl, rfl, rfl⟩

theorem State.cfgWrite_d3hot (hup : s.cfgUp h = true) (v : W64) (hv : v.toNat % 4 = 3) :
    s.cfgWrite h 0x44 4 v.toNat = s.setHost h { s.host h with d3hot := true, l1 := true } := by
  have hset : ∀ n w, n % 4 = 3 → (s.host h).cfgSet 0x44 n w = { s.host h with d3hot := true, l1 := true } := by
    intro n w hn
    unfold HostPort.cfgSet
    dsimp only
    rw [if_neg (by decide), if_neg (by decide), if_neg (by decide), if_neg (by decide), if_pos rfl, if_pos hn]
  have hlow : (s.cfgDword h 0x44 - s.cfgDword h 0x44 % 2 ^ 32 + v.toNat % 2 ^ 32) % 4 = 3 := by omega
  exact State.cfgWrite_quiet hup (.inr (.inr rfl)) rfl rfl (hset _ _ hlow) (fun _ => rfl) (Bool.and_false _)
end

end Sys2Proof.Machine
end

section
/-!
SUPPORT. The pier-space window (R399 to R401).
-/
namespace Sys2Proof.Machine

/-! ## The pier-space window (R399 to R401) -/

section
variable {s : State} {h a n : Nat}

/-- A span in one region that the port may reach. -/
def State.spanOf (s : State) (h a n : Nat) : Prop :=
  0 < n ∧ ∃ g, s.regionAt a = some g ∧ a + n ≤ g.base + g.size ∧
    (g.buddy = true ∨ g.owner = 0xFF ∨ ((s.partCfg g.owner).isSome = true ∧ s.hostOf g.owner = h))

theorem State.bar4Admits_span (hmine : s.spanOf h a n) (f : Nat) : s.bar4Admits h (f + 1) a n = true := by
  obtain ⟨hpos, g, hreg, hin, hmay⟩ := hmine
  have hrest : a + n - min (a + n) (g.base + g.size) = 0 := by omega
  have hnone : ∀ f b, s.bar4Admits h f b 0 = true := fun f b => by
    cases f with
    | zero => rfl
    | succ f => exact Bool.true_or _
  have hown : (g.buddy || g.owner == 0xFF || ((s.partCfg g.owner).isSome && s.hostOf g.owner == h)) = true := by
    simpa [or_assoc] using hmay
  unfold State.bar4Admits
  rw [hreg]
  dsimp only
  rw [hrest, hnone, hown, Bool.and_self, Bool.or_true]

theorem State.bar4Admits_none (hpos : 0 < n) (hreg : s.regionAt a = none) (f : Nat) :
    s.bar4Admits h f a n = false := by
  have hn : (n == 0) = false := beq_eq_false_iff_ne.mpr (Nat.ne_of_gt hpos)
  cases f with
  | zero => exact hn
  | succ f =>
    unfold State.bar4Admits
    rw [hreg, hn]
    rfl

theorem barSize_pier : barSize 2 = 2 ^ 36 := rfl

section
variable {off : Nat} (hon : s.pwr.seq = .on) (hin : off + n ≤ 2 ^ 36)
include hon hin

/-- The first byte that an access reaches. -/
def State.windowAt (s : State) (h off : Nat) : Nat := (s.host h).bar4Base.toNat + off

theorem State.bar4Read_done (hmine : s.spanOf h (s.windowAt h off) n) (hfrozen : s.frz.frozen = false) :
    s.bar4Read h off n = (s.fetchLoc (.pier (s.windowAt h off)) n).2.emit
      (.bar4 h (some (s.readPier (s.windowAt h off) n))) := by
  have hadmits := State.bar4Admits_span hmine s.cfg.regions.length
  unfold State.windowAt at hadmits ⊢
  unfold State.bar4Read
  dsimp only
  rw [barSize_pier, if_neg (by simp [hon]; omega), if_neg (by simp [hfrozen, hadmits])]
  rfl

theorem State.bar4Read_refused (hno : s.frz.frozen = true ∨ (0 < n ∧ s.regionAt (s.windowAt h off) = none)) :
    s.bar4Read h off n = ((s.bar4Refuse h).logAbort h).emit (.bar4 h none) := by
  have hbad : (s.frz.frozen || !s.bar4Admits h (s.cfg.regions.length + 1) (s.windowAt h off) n) = true := by
    obtain hfrozen | ⟨hpos, hreg⟩ := hno
    · rw [hfrozen, Bool.true_or]
    · rw [State.bar4Admits_none hpos hreg, Bool.not_false, Bool.or_true]
  unfold State.windowAt at hbad
  unfold State.bar4Read
  dsimp only
  rw [barSize_pier, if_neg (by simp [hon]; omega), if_pos hbad]
end

theorem State.bar4Refuse_host (s : State) (h : Nat) : (s.bar4Refuse h).host h =
    { s.host h with bar4Refused := satAdd 32 (s.host h).bar4Refused 1 } := State.host_modHost_self ..

theorem State.logAbort_host (s : State) (h : Nat) : (s.logAbort h).host h = { s.host h with
    space := { (s.host h).space.logError aerAbort (freeBytes s.freeCtr 16) with
      errSta := (s.host h).space.errSta ||| 0x0800 } } :=
  State.host_modHost_self { s with freeCtr := s.freeCtr + 16 } h _

/-- A refusal that is logged: the port's count and its status bit. -/
theorem State.refused_logged : ((s.bar4Refuse h).logAbort h).emit (.bar4 h none) =
      { s with hosts := ((s.bar4Refuse h).logAbort h).hosts, freeCtr := s.freeCtr + 16,
               out := s.out ++ [.bar4 h none] } ∧
    (((s.bar4Refuse h).logAbort h).host h).bar4Refused = min ((s.host h).bar4Refused + 1) 0xFFFFFFFF ∧
    (((s.bar4Refuse h).logAbort h).host h).space.aerStatus = (s.host h).space.aerStatus ||| 2 ^ 15 := by
  have herr : ∀ (x : CfgSpace) hdr, (x.logError aerAbort hdr).aerStatus = x.aerStatus ||| 2 ^ 15 := fun x hdr => by
    unfold CfgSpace.logError
    dsimp only
    split <;> rfl
  have hhost := (s.bar4Refuse h).logAbort_host h
  rw [State.bar4Refuse_host] at hhost
  refine ⟨rfl, ?_, ?_⟩
  · rw [hhost]
    rfl
  · rw [hhost]
    exact herr _ _

theorem State.bar4Write_frozen {off : Nat} {bs : List Byte} (hfrozen : s.frz.frozen = true) :
    s.bar4Write h off bs = s := if_pos (by simp [hfrozen])

section
variable {off : Nat} {bs : List Byte} (hon : s.pwr.seq = .on) (hin : off + bs.length ≤ 2 ^ 36)
  (hmine : s.spanOf h (s.windowAt h off) bs.length)
  (hfrozen : s.frz.frozen = false)
include hon hin hmine hfrozen

/-- What a write of a span that the port may reach comes to. -/
theorem State.bar4Write_span : s.bar4Write h off bs =
    if s.touches (·.buddy) (s.windowAt h off) bs.length then s.bar4Refuse h
    else if s.castHeld && s.touches (·.cast) (s.windowAt h off) bs.length then s
    else s.storeLoc (.pier (s.windowAt h off)) bs := by
  have hadmits := State.bar4Admits_span hmine s.cfg.regions.length
  unfold State.windowAt at hadmits ⊢
  unfold State.bar4Write
  dsimp only
  rw [barSize_pier, if_neg (by simp [hon, hfrozen]; omega), hadmits, Bool.not_true, Bool.false_or]
end

theorem State.castHeld_iff : s.castHeld = true ↔ s.ckp.st = 1 ∨ s.ckp.st = 3 := by
  simp [State.castHeld]
end

end Sys2Proof.Machine
end

section
/-!
SUPPORT. Register writes of a host port, and the accesses of the window.
-/
namespace Sys2Proof.Machine

/-! ## Register writes of a host port -/

section
variable {s : State} {h : Nat} (hh : h < 2) (hon : s.pwr.seq = .on) (v : W64)
include hh hon

theorem exec_genTag : exec (.registerWrite (portReq h) 0x400008 8 v) s = .next { s with
    ckp := { s.ckp with genTag := if s.writable = true ∧ s.ownedBy h = true then v else s.ckp.genTag },
    latches := Tab.erase s.latches (reqIdx (portReq h)) } := by
  have hreg : (s.emptyLatch (portReq h)).regHeld (reqIdx (portReq h)) 0x400008 =
      some (0x400008, 8, s.ckp.genTag.toNat) := rfl
  rw [exec_regWrite hon (by decide), State.bar0Write_whole _ _ (by decide) hreg, State.putReg_port hh, writtenValue_all,
    State.hostReg_genTag]
  by_cases hown : s.writable = true ∧ s.ownedBy h = true
  · have hw : (s.emptyLatch (portReq h)).ckpWrite h = true := State.ckpWrite_iff.mpr hown
    rw [if_pos hw, if_pos hown]
    rfl
  · have hw : ¬ (s.emptyLatch (portReq h)).ckpWrite h = true := fun hw => hown (State.ckpWrite_iff.mp hw)
    rw [if_neg hw, if_neg hown]
    rfl

omit hh hon in
/-- The high half of the tag written, its low half as it was. -/
theorem genTag_high (old : W64) : writtenValue 0x400008 old.toNat ((v.extractLsb' 0 32).zeroExtend 64 <<< 32)
    0xFFFFFFFF00000000 = v.extractLsb' 0 32 ++ old.extractLsb' 0 32 := by
  have hold : BitVec.ofNat 64 old.toNat = old := by simp
  unfold writtenValue
  dsimp only
  rw [if_pos (by decide), hold]
  have hmask : ∀ i < 64, (0xFFFFFFFF00000000 : W64).getLsbD i = decide (32 ≤ i) := by decide
  ext i hi
  have hm := hmask i hi
  rw [BitVec.getLsbD_eq_getElem hi] at hm
  rw [BitVec.getElem_or, BitVec.getElem_and, BitVec.getElem_and, BitVec.getElem_not, hm, BitVec.getElem_append]
  by_cases hlt : i < 32
  · have hge : ¬ 32 ≤ i := Nat.not_le_of_lt hlt
    simp [hlt, hge, BitVec.getLsbD_eq_getElem hi]
  · have hge : 32 ≤ i := Nat.le_of_not_lt hlt
    have hlow : i - 32 < 32 := by omega
    simp [hlt, hge, hlow]

theorem exec_genTag_high : exec (.registerWrite (portReq h) 0x40000C 4 v) s = .next { s with
    latches := Tab.erase s.latches (reqIdx (portReq h)),
    ckp := { s.ckp with
      genTag := if s.writable = true ∧ s.ownedBy h = true
        then v.extractLsb' 0 32 ++ s.ckp.genTag.extractLsb' 0 32 else s.ckp.genTag } } := by
  have hreg : (s.emptyLatch (portReq h)).regHeld (reqIdx (portReq h)) 0x40000C =
      some (0x400008, 8, s.ckp.genTag.toNat) := rfl
  rw [exec_regWrite hon (by decide), State.bar0Write_high _ _ (by decide) (by decide) hreg, State.putReg_port hh,
    genTag_high, State.hostReg_genTag]
  by_cases hown : s.writable = true ∧ s.ownedBy h = true
  · have hw : (s.emptyLatch (portReq h)).ckpWrite h = true := State.ckpWrite_iff.mpr hown
    rw [if_pos hw, if_pos hown]
    rfl
  · have hw : ¬ (s.emptyLatch (portReq h)).ckpWrite h = true := fun hw => hown (State.ckpWrite_iff.mp hw)
    rw [if_neg hw, if_neg hown]
    rfl

theorem exec_ckpLoss : exec (.registerWrite (portReq h) 0x400088 4 v) s = .next { s with
    latches := Tab.erase s.latches (reqIdx (portReq h)),
    pwr := { s.pwr with lossValid := s.pwr.lossValid &&
      (!(decide (s.writable = true ∧ s.ownedBy h = true) && v.getLsbD 2) || s.setNow.contains .ckpLoss) } } := by
  have hreg : ∃ old, (s.emptyLatch (portReq h)).regHeld (reqIdx (portReq h)) 0x400088 = some (0x400088, 4, old) :=
    ⟨_, rfl⟩
  obtain ⟨old, hreg⟩ := hreg
  rw [exec_regWrite hon (by decide), State.bar0Write_low _ _ (by decide) hreg, State.putReg_port hh, State.hostReg_loss,
    writtenValue_bit _ _ _ _ (lowMask_bit 2 (by decide)), lowHalf_bit _ (by decide)]
  by_cases hown : s.writable = true ∧ s.ownedBy h = true
  · have hw : (s.emptyLatch (portReq h)).ckpWrite h = true := State.ckpWrite_iff.mpr hown
    rw [if_pos hw, decide_eq_true hown, Bool.true_and]
    rfl
  · have hw : ¬ (s.emptyLatch (portReq h)).ckpWrite h = true := fun hw => hown (State.ckpWrite_iff.mp hw)
    rw [if_neg hw, decide_eq_false hown, Bool.false_and, Bool.not_false, Bool.true_or, Bool.and_true]
    rfl

theorem exec_xport : exec (.registerWrite (portReq h) 0x200008 4 v) s = .next { s with
    latches := Tab.erase s.latches (reqIdx (portReq h)),
    rte := { s.rte with
      retxUs := if (s.writable = true ∧ s.ownedBy h = true) ∧ 50 ≤ v.toNat % 2 ^ 16 ∧ v.toNat % 2 ^ 16 ≤ 10000
        then v.toNat % 2 ^ 16 else s.rte.retxUs,
      retries := if (s.writable = true ∧ s.ownedBy h = true) ∧ v.toNat / 2 ^ 16 % 16 ≠ 0 then v.toNat / 2 ^ 16 % 16
        else s.rte.retries } } := by
  have hreg : ∃ old, (s.emptyLatch (portReq h)).regHeld (reqIdx (portReq h)) 0x200008 = some (0x200008, 4, old) :=
    ⟨_, rfl⟩
  obtain ⟨old, hreg⟩ := hreg
  have hval : writtenValue 0x200008 old ((v.extractLsb' 0 32).zeroExtend 64) 0xFFFFFFFF =
      (v.extractLsb' 0 32).zeroExtend 64 := by
    unfold writtenValue
    dsimp only
    rw [if_neg (by decide)]
    exact lowHalf_and v
  have hus : v.toNat % 2 ^ 32 % 2 ^ 16 = v.toNat % 2 ^ 16 := by omega
  have hretries : v.toNat % 2 ^ 32 / 2 ^ 16 % 16 = v.toNat / 2 ^ 16 % 16 := by omega
  rw [exec_regWrite hon (by decide), State.bar0Write_low _ _ (by decide) hreg, State.putReg_port hh, hval,
    State.hostReg_xport, lowHalf_toNat, hus, hretries]
  by_cases hown : s.writable = true ∧ s.ownedBy h = true
  · have hw : (s.emptyLatch (portReq h)).rteWrite h = true := Bool.and_eq_true_iff.mpr hown
    rw [if_pos hw]
    simp only [hown, and_self, true_and, Bool.and_eq_true, decide_eq_true_eq, ne_eq, ite_not]
    rfl
  · have hw : ¬ (s.emptyLatch (portReq h)).rteWrite h = true := fun hw => hown (Bool.and_eq_true_iff.mp hw)
    rw [if_neg hw, if_neg fun hc => hown hc.1, if_neg fun hc => hown hc.1]
    rfl

variable {n : Nat} (hn : n < 1024) (hlive : s.live = true) (hreach : s.reaches (s.partOfCtx n) h = true)
include hn hlive hreach

theorem exec_ring : exec (.registerWrite (portReq h) (0x80008 + 0x40 * n) 8 v) s =
    .next ((s.emptyLatch (portReq h)).modCtx n fun c => if c.enable then c else { c with ring := v &&& ~~~(0x3E : W64) }) := by
  obtain ⟨old, hreg⟩ := (s.emptyLatch (portReq h)).regHeld_ring (reqIdx (portReq h)) hn
  have haddr : 0x80008 + 0x40 * n = 0x80000 + 0x40 * n + 8 := by omega
  have hall : ∀ r : W64, (r &&& ~~~(BitVec.allOnes 64)) ||| (v &&& BitVec.allOnes 64) = v := fun r => by
    rw [BitVec.not_allOnes, BitVec.and_zero, BitVec.zero_or, BitVec.and_allOnes]
  rw [exec_regWrite hon (by omega), State.bar0Write_whole _ _ (by omega) hreg, State.putReg_port hh, writtenValue_all, haddr,
    State.hostReg_ctx hn (by decide), State.ctxRegs_ring (s := s.emptyLatch (portReq h)) hlive hreach]
  simp only [hall]

theorem exec_numstat : ∃ w : W64, (∀ i < 32, w.getLsbD i = v.getLsbD i) ∧
    exec (.registerWrite (portReq h) (0x80018 + 0x40 * n) 4 v) s =
      .next ((s.emptyLatch (portReq h)).modCtx n fun c =>
        { c with numstat := (s.emptyLatch (portReq h)).w1cStatus (.ctxNumstat n) w c.numstat }) := by
  obtain ⟨old, hreg⟩ := (s.emptyLatch (portReq h)).regHeld_numstat (reqIdx (portReq h)) hn
  have haddr : 0x80018 + 0x40 * n = 0x80000 + 0x40 * n + 0x18 := by omega
  refine ⟨_, fun i hi => (writtenValue_bit (0x80000 + 0x40 * n + 0x18) old _ _ (lowMask_bit i hi)).trans
    (lowHalf_bit v hi), ?_⟩
  rw [exec_regWrite hon (by omega), State.bar0Write_low _ _ (by omega) hreg, State.putReg_port hh, haddr,
    State.hostReg_ctx hn (by decide), State.ctxRegs_numstat (s := s.emptyLatch (portReq h)) hlive hreach]
end

/-- Settles O54: each register by the field that its write takes, and the pier-space window by the spans it admits. -/
theorem registerWritesAndPierWindow : Obligations.RegisterWritesAndPierWindow := by
  unfold Obligations.RegisterWritesAndPierWindow
  refine ⟨?_, ?_⟩
  · intro s h hh hon r gone owner
    refine ⟨fun a size v ha hbad => ?_, fun v => ⟨exec_genTag hh hon v, exec_genTag_high hh hon v, exec_ckpLoss hh hon v,
      exec_xport hh hon v⟩, fun n v hn hlive hreach => ?_, fun n v hn hlive hreach => ?_, fun ch i v hch hi => ?_,
      fun v => ?_, ?_⟩
    · rw [exec_regWrite hon ha, State.bar0Write_bad _ _ hbad]
      rfl
    · refine ⟨_, exec_ring hh hon v hn hlive hreach, rfl, fun m hm => State.ctx_modCtx_ne _ _ hm, ?_⟩
      refine (State.ctx_modCtx_self ..).trans ?_
      have hsame : (s.emptyLatch (portReq h)).ctx n = s.ctx n := rfl
      rw [hsame]
      split <;> rfl
    · obtain ⟨w, hbits, hrun⟩ := exec_numstat hh hon v hn hlive hreach
      have hctx := State.ctx_modCtx_self (s.emptyLatch (portReq h)) n fun c =>
        { c with numstat := (s.emptyLatch (portReq h)).w1cStatus (.ctxNumstat n) w c.numstat }
      refine ⟨_, hrun, rfl, fun m hm => State.ctx_modCtx_ne _ _ hm, ?_, fun i hi => ?_⟩
      · rw [hctx]
        rfl
      · rw [hctx]
        refine (State.w1cStatus_bit _ _ _ _ _ hi).trans ?_
        rw [hbits i (by omega)]
        rfl
    · have hrun : exec (.registerWrite r (2 ^ 26 + 0x4000 + 0x80 * ch + 4 * i) 4 v) s =
          .next (s.portWrite h (2 ^ 26 + 0x4000 + 0x80 * ch + 4 * i) 4 v) :=
        congrArg Host.Outcome.next (State.registerWrite_port hon hh (by omega) 4 v)
      rw [State.portWrite_data hon hch hi] at hrun
      cases hgo : (s.chan h false ch).go with
      | true =>
        rw [hgo, if_pos rfl] at hrun
        refine ⟨_, hrun, rfl, ?_⟩
        rw [if_pos rfl]
      | false =>
        rw [hgo, if_neg Bool.false_ne_true] at hrun
        refine ⟨_, hrun, rfl, ?_⟩
        rw [if_neg Bool.false_ne_true]
        exact State.chan_setChan_self _
    · have hrun : exec (.genBar4BaseWrite h v) s = .next (s.bar4BaseWrite h v) := guarded_ok (decide_eq_true hh) _
      by_cases hok : s.writable = true ∧ v.toNat % 2 ^ 26 = 0 ∧ v.toNat ≤ 2 ^ 41 - 2 ^ 36
      · rw [State.bar4BaseWrite_taken hok] at hrun
        refine ⟨_, hrun, rfl, fun k hk => State.host_modHost_ne _ _ hk, ?_⟩
        exact (State.host_modHost_self ..).trans (by rw [if_pos hok]; rfl)
      · rw [State.bar4BaseWrite_ignored hok] at hrun
        refine ⟨_, hrun, rfl, fun _ _ => rfl, ?_⟩
        rw [if_neg hok]
        rfl
    · intro hperst hlink v only
      have hup : s.cfgUp h = true := by
        unfold State.cfgUp
        simp [hon, hperst, hlink]
      have hport : ∀ o size, exec (.registerWrite r (2 ^ 27 + o) size v) s = .next (s.cfgWrite h o size v.toNat) := by
        intro o size
        refine congrArg Host.Outcome.next ((State.registerWrite_port hon hh (by omega) size v).trans ?_)
        have hoff : 2 ^ 27 + o - cfgAt = o := by
          unfold cfgAt
          omega
        unfold State.portWrite
        rw [if_neg (by unfold cfgAt; omega), hoff]
      refine ⟨fun hbme => ?_, fun hv => ?_⟩
      · obtain ⟨x, hwrite, hoff, hmem⟩ := State.cfgWrite_command hup v hbme
        have hhost : (s.setHost h x).host h = x := State.host_setHost_self ..
        refine ⟨_, (hport 4 2).trans (congrArg _ hwrite), State.setHost_hostsOnly x, ?_, ?_⟩
        · rw [hhost, hoff]
        · rw [hhost, hmem]
      · exact ⟨_, (hport 0x44 4).trans (congrArg _ (State.cfgWrite_d3hot hup v hv)), State.setHost_hostsOnly _,
          State.host_setHost_self ..⟩
  · intro s h off hh hon a counted mine
    have hread : ∀ n, exec (.bar4Read h off n) s = .next (s.bar4Read h off n) := fun n => guarded_ok (decide_eq_true hh) _
    have hwrite : ∀ bs, exec (.bar4Write h off bs) s = .next (s.bar4Write h off bs) := fun bs =>
      guarded_ok (decide_eq_true hh) _
    refine ⟨fun n hmine hin hfrozen => ?_, fun n hin hno => ?_, fun bs hmine hin hfrozen => ?_, fun bs hfrozen => ?_⟩
    · have hframe := s.fetchLoc_storeFrame (.pier a) n
      have hhosts := congrArg State.hosts hframe.frame
      have hout := congrArg State.out hframe.frame
      have hplaces := s.fetchLoc_samePlaces (.pier a) n
      refine ⟨_, (hread n).trans (congrArg _ (State.bar4Read_done hon hin hmine hfrozen)), ?_, ?_, ?_⟩
      · exact State.stores_split hplaces.stores
      · exact hhosts
      · exact congrArg (· ++ [Out.bar4 h (some (s.readPier a n))]) hout
    · obtain ⟨hframe, hcount, haer⟩ := State.refused_logged (s := s) (h := h)
      exact ⟨_, (hread n).trans (congrArg _ (State.bar4Read_refused hon hin hno)), hframe, hcount, haer⟩
    · have hspan : s.bar4Write h off bs = if s.touches (·.buddy) a bs.length then s.bar4Refuse h
          else if s.castHeld && s.touches (·.cast) a bs.length then s else s.storeLoc (.pier a) bs :=
        State.bar4Write_span hon hin hmine hfrozen
      refine ⟨fun hbuddy hcast => ?_, fun hbuddy => ?_, fun hbuddy hst hcast => ?_⟩
      · have hheld : ¬ (s.castHeld && s.touches (·.cast) a bs.length) = true := fun hc => by
          obtain ⟨hst, ht⟩ := Bool.and_eq_true_iff.mp hc
          exact absurd ((hcast (State.castHeld_iff.mp hst)).symm.trans ht) Bool.false_ne_true
        rw [hbuddy, if_neg Bool.false_ne_true,
          if_neg hheld] at hspan
        refine ⟨_, (hwrite bs).trans (congrArg _ hspan), State.stores_split (s.storeLoc_stores (.pier a) bs), ?_⟩
        have hhosts := congrArg State.hosts (s.storeLoc_storeFrame (.pier a) bs).frame
        exact hhosts
      · rw [if_pos hbuddy] at hspan
        refine ⟨_, (hwrite bs).trans (congrArg _ hspan), rfl, ?_⟩
        exact congrArg HostPort.bar4Refused (s.bar4Refuse_host h)
      · rw [hbuddy, if_neg Bool.false_ne_true,
          if_pos (Bool.and_eq_true_iff.mpr ⟨State.castHeld_iff.mpr hst, hcast⟩)] at hspan
        exact (hwrite bs).trans (congrArg _ hspan)
    · exact (hwrite bs).trans (congrArg _ (State.bar4Write_frozen hfrozen))

end Sys2Proof.Machine
end

section
/-!
SUPPORT. The management bus (R448, R449).
-/
namespace Sys2Proof.Machine

/-! ## The management bus (R448, R449) -/

section
variable {s : State} (hin : s.pwr.inputOn = true)
include hin

theorem State.smbPoint_ok (v : W32) : s.smbPoint 4 true v = { s with smbPtr := v } := by
  unfold State.smbPoint State.smbAnswers
  rw [if_neg (by simp [hin]), if_neg (by simp [hin])]

theorem State.smbPoint_nack {count : Nat} {pec : Bool} (v : W32) (hbad : count ≠ 4 ∨ pec = false) :
    s.smbPoint count pec v = s.emit (.smb none) ∧ s.smbStore count pec v = s.emit (.smb none) := by
  have hno : s.smbAnswers count pec = false := by
    unfold State.smbAnswers
    obtain hcount | hpec := hbad
    · simp [hcount]
    · simp [hpec]
  unfold State.smbPoint State.smbStore
  rw [hno, hin]
  exact ⟨rfl, rfl⟩

theorem State.smbStore_ok (v : W32) : s.smbStore 4 true v =
    { s.registerWrite .smb s.smbPtr.toNat 4 (v.zeroExtend 64) with smbPtr := s.smbPtr + 4 } := by
  unfold State.smbStore State.smbAnswers
  rw [if_neg (by simp [hin]), if_neg (by simp [hin])]

theorem State.smbFetch_nack : s.smbFetch false = s.emit (.smb none) := by
  unfold State.smbFetch
  rw [if_neg (by simp [hin])]
  rfl

/-- A read of a register of BAR0 over the bus. -/
theorem State.smbFetch_ok {v : Nat} {t : State} (hptr : s.smbPtr.toNat < 2 ^ 26)
    (hread : s.regRead 2 s.smbPtr.toNat 4 = (v, t)) : s.smbFetch true =
      ({ t with smbPtr := s.smbPtr + 4 }).emit (.smb (some (BitVec.ofNat 32 v))) := by
  unfold State.smbFetch
  rw [if_neg (by simp [hin]), if_neg (by decide), State.readAt_reg hptr]
  exact congrArg (fun x : Nat × State => ({ x.2 with smbPtr := s.smbPtr + 4 }).emit (.smb (some (BitVec.ofNat 32 x.1)))) hread
end

section
variable {s : State}

/-- What the register commands reach of the bus's registers. -/
theorem State.sharedRegs_cap (v : W64) (hup : s.writable = true) : s.sharedRegs .smb 0x20000 v =
    { s with latches := Tab.erase s.latches 2, pwr := { s.pwr with
      capW := if 800 ≤ (v.extractLsb' 0 32).toNat % 4096 ∧ (v.extractLsb' 0 32).toNat % 4096 ≤ 2400
        then (v.extractLsb' 0 32).toNat % 4096 else s.pwr.capW } } := by
  have hreg : s.sharedRegs .smb 0x20000 v = s.capWrite .smb (v.extractLsb' 0 32) := rfl
  have hup' : (s.emptyLatch .smb).writable = true := hup
  have hown : (s.emptyLatch .smb).ownerOrBus .smb = true := rfl
  rw [hreg]
  unfold State.capWrite
  dsimp only
  generalize (v.extractLsb' 0 32).toNat = w
  rw [hup', hown]
  by_cases hw : 800 ≤ w % 4096 ∧ w % 4096 ≤ 2400
  · rw [if_neg (by simp; omega), if_pos hw]
    rfl
  · rw [if_pos (by simp; omega), if_neg hw]
    rfl

theorem State.bar0Write_bus {a n old : Nat} (v : W32) (hal : a % 4 = 0)
    (hreg : (s.emptyLatch .smb).regHeld 2 a = some (a, n, old)) : ∃ w, (∀ i < 32, w.getLsbD i = v.getLsbD i) ∧
      s.bar0Write .smb a 4 (v.zeroExtend 64) = (s.emptyLatch .smb).sharedRegs .smb a w :=
  ⟨_, fun i hi => (writtenValue_bit a old _ _ (lowMask_bit i hi)).trans ((lowHalf_bit _ hi).trans (by simp; omega)),
    State.bar0Write_low .smb _ hal hreg⟩

/-- A value whose low bits are those of a word. -/
theorem extract_of_bits {w : W64} {v : W32} (h : ∀ i < 32, w.getLsbD i = v.getLsbD i) : w.extractLsb' 0 32 = v := by
  ext i hi
  have hbit := h i hi
  rw [BitVec.getLsbD_eq_getElem hi] at hbit
  simp [hbit]

theorem Tab.erase_erase {α : Type} (t : Tab α) (x : Nat) : Tab.erase (Tab.erase t x) x = Tab.erase t x := by
  have hlow : Tab.below (Tab.erase t x) x = Tab.below t x := by
    rw [Tab.erase, Tab.below, List.filter_append, Tab.below, List.filter_filter, Tab.from, List.filter_filter]
    have hnone : (t.filter fun e => decide (e.1 < x) && decide (x + 1 ≤ e.1)) = [] := by
      rw [List.filter_eq_nil_iff]
      intro e _
      simp
      omega
    rw [hnone, List.append_nil]
    simp
  have hhigh : Tab.from (Tab.erase t x) (x + 1) = Tab.from t (x + 1) := by
    rw [Tab.erase, Tab.from, List.filter_append, Tab.below, List.filter_filter, Tab.from, List.filter_filter]
    have hnone : (t.filter fun e => decide (x + 1 ≤ e.1) && decide (e.1 < x)) = [] := by
      rw [List.filter_eq_nil_iff]
      intro e _
      simp
      omega
    rw [hnone, List.nil_append]
    simp
  rw [Tab.erase, hlow, hhigh, ← Tab.erase]

theorem State.busWrite_cap (hup : s.writable = true) (v : W32) :
    s.registerWrite .smb 0x20000 4 (v.zeroExtend 64) = { s with latches := Tab.erase s.latches 2, pwr := { s.pwr with
      capW := if 800 ≤ v.toNat % 4096 ∧ v.toNat % 4096 ≤ 2400 then v.toNat % 4096 else s.pwr.capW } } := by
  have hon : (s.pwr.seq == .on) = true := by
    unfold State.writable State.masonUp at hup
    simp only [Bool.and_eq_true] at hup
    exact hup.1.1
  have hreg : (s.emptyLatch .smb).regHeld 2 0x20000 = some (0x20000, 4, s.pwr.capW) := rfl
  obtain ⟨w, hbits, hwrite⟩ := State.bar0Write_bus v (by decide) hreg
  have hrun : s.registerWrite .smb 0x20000 4 (v.zeroExtend 64) = s.bar0Write .smb 0x20000 4 (v.zeroExtend 64) := by
    unfold State.registerWrite
    rw [if_neg (by simpa using hon)]
    rfl
  have hcap := State.sharedRegs_cap (s := s.emptyLatch .smb) w hup
  rw [extract_of_bits hbits] at hcap
  have hlatch : Tab.erase (s.emptyLatch .smb).latches 2 = Tab.erase s.latches 2 := Tab.erase_erase _ _
  rw [hrun, hwrite, hcap, hlatch]
  rfl

theorem State.busWrite_tag (hon : s.pwr.seq = .on) (v : W32) :
    s.registerWrite .smb 0x400008 4 (v.zeroExtend 64) = { s with latches := Tab.erase s.latches 2 } := by
  have hreg : (s.emptyLatch .smb).regHeld 2 0x400008 = some (0x400008, 8, s.ckp.genTag.toNat) := rfl
  obtain ⟨w, -, hwrite⟩ := State.bar0Write_bus v (by decide) hreg
  have hrun : s.registerWrite .smb 0x400008 4 (v.zeroExtend 64) = s.bar0Write .smb 0x400008 4 (v.zeroExtend 64) := by
    unfold State.registerWrite
    rw [if_neg (by simp [hon])]
    rfl
  have hnone : ∀ t : State, t.sharedRegs .smb 0x400008 w = t := fun t => by
    unfold State.sharedRegs
    dsimp only
    rw [if_neg (by decide), if_neg (by decide), if_neg (by decide), if_neg (by decide)]
    split
    · rfl
    · exact (if_neg (by decide)).trans (if_neg (by simp))
  rw [hrun, hwrite, hnone]
  rfl

theorem State.busRead_seq : s.regRead 2 0x20020 4 =
    (s.pwr.seq.code + (if s.pwr.waitLow then 4 else 0) + (if s.pwr.en then 8 else 0), s.unlatched 2) := by
  have hreg : s.regAt 2 0x20020 =
      some (0x20020, 4, packBits [(0, s.pwr.seq.code), (2, b2n s.pwr.waitLow), (3, b2n s.pwr.en)]) := by
    rw [State.regAt_of _ rfl, State.heldView_runs (by decide)]
    rfl
  have hval : packBits [(0, s.pwr.seq.code), (2, b2n s.pwr.waitLow), (3, b2n s.pwr.en)] =
      s.pwr.seq.code + (if s.pwr.waitLow then 4 else 0) + (if s.pwr.en then 8 else 0) := by
    cases s.pwr.waitLow <;> cases s.pwr.en <;> simp [packBits, b2n]
  have hread := State.regRead_word (by decide) hreg
  rw [hval, State.clearRc_other (by decide) (by decide)] at hread
  exact hread

theorem State.busRead_none : s.regRead 2 0x80000 4 = (0, s.unlatched 2) := by
  have hans : s.answers 2 0x80000 = false := by
    unfold State.answers
    dsimp only
    rw [if_neg (by decide), show busAlways 0x80000 = false from rfl]
    simp
  exact State.regRead_zero (.inr (.inr ⟨rfl, State.regAt_none _ hans⟩))
end

end Sys2Proof.Machine
end

section
/-!
SUPPORT. Core power: BU0, the sequencer, and what its removal leaves (R445, R452 to R458).
-/
namespace Sys2Proof.Machine

/-! ## Core power off (R445, R455) -/

section
variable (s : State)

/-- A port without 12 V for its bay. -/
def Port.dark (x : Port) : Port := { x with light := false }

/-- A host port with its configuration space at reset. -/
def HostPort.bare (x : HostPort) : HostPort := { HostPort.reset with perst := x.perst }

theorem State.coreOff_port (p : Nat) : (s.coreOff.port p).light = false := by
  have hport : s.coreOff.port p = (s.coldStart.port p).dark :=
    (Tab.get_mapIf (g := Port.dark) rfl (fun _ => rfl) s.coldStart.ports (fun _ => true) p).trans (if_pos rfl)
  rw [hport]
  rfl

theorem State.coreOff_host (h : Nat) : s.coreOff.host h = { HostPort.reset with perst := (s.host h).perst } := by
  have hhost : s.coreOff.host h = (s.coldStart.host h).bare :=
    (Tab.get_mapIf (g := HostPort.bare) rfl (fun _ => rfl) s.coldStart.hosts (fun _ => true) h).trans (if_pos rfl)
  rw [hhost, State.coldStart_host]
  rfl

theorem State.coreOff_records : s.coreOff.sec.records = s.sec.records :=
  have hrecords := congrArg Sec.records s.sec.abandon_frame
  hrecords

theorem State.coreOff_arb : s.coreOff.sec.arb = s.sec.arb :=
  have harb := congrArg Sec.arb s.sec.abandon_frame
  harb

theorem State.drawOpen_frame : s.drawOpen = { s with rte := s.drawOpen.rte, freeCtr := s.drawOpen.freeCtr } := by
  unfold State.drawOpen
  refine List.foldlRecOn _ _ (motive := fun t : State => t = { s with rte := t.rte, freeCtr := t.freeCtr }) rfl ?_
  intro t ht d _
  have hswap : ∀ a b, { t with rte := a, freeCtr := b } = { s with rte := a, freeCtr := b } := fun a b => by rw [ht]
  exact Eq.trans rfl (hswap _ _)

theorem State.startDoms_frame (l : List Nat) : l.foldl State.startDom s =
    { s with doms := (l.foldl State.startDom s).doms } := by
  refine List.foldlRecOn l _ (motive := fun t : State => t = { s with doms := t.doms }) rfl ?_
  intro t ht d _
  have hswap : ∀ a, { t with doms := a } = { s with doms := a } := fun a => by rw [ht]
  exact Eq.trans rfl (hswap _)
end

/-! ## BU0 (R453) -/

/-- What BU0 leaves as it starts. -/
structure Risen (s t : State) (feed : BitVec 4) (frzN : Bool) (bad : Option Nat) : Prop where
  stores : t.mem = [] ∧ t.ls = [] ∧ t.cs = []
  gen : t.gen.feedId = feed ∧ t.gen.frzN = frzN ∧ t.gen.time = 0 ∧ t.gen.serial = s.gen.serial
  water : t.bond.highWater = 0
  cfg : t.cfg = Cfg.reset
  records : t.sec.records = s.sec.records
  bu : t.bu = { Bu.reset with
    strapWord := BitVec.ofNat 32 (packBits [(0, feed.toNat), (4, b2n frzN)]) }
  pwr : t.pwr.seq = .rising ∧ t.pwr.steps = 0 ∧ t.pwr.badStep = bad.map fun k => max 1 (min k 6)

theorem State.bu0_risen (s : State) (feed : BitVec 4) (frzN : Bool) (bad : Option Nat) :
    Risen s (s.bu0 feed frzN bad) feed frzN bad := by
  have hrecords := s.coreOff_records
  unfold State.bu0
  dsimp only
  generalize hu : ({ s.coreOff with
    gen := { s.coreOff.gen with time := 0, feedId := feed, frzN := frzN },
    pwr := { s.coreOff.pwr with
      vin := s.pwr.vin, waitLow := false, fell := false, seq := .rising, steps := 0,
      badStep := bad.map fun k => max 1 (min k 6) },
    bond := { s.coreOff.bond with highWater := 0 },
    bu := { Bu.reset with
      strapWord := BitVec.ofNat 32 (packBits [(0, feed.toNat), (4, b2n frzN)]) } } : State) = u
  have hdraw := ([96, 99].foldl State.startDom u).drawOpen_frame
  have hdoms := u.startDoms_frame [96, 99]
  generalize [96, 99].foldl State.startDom u = w at hdraw hdoms
  generalize w.drawOpen = t at hdraw
  have ht : t = { u with doms := w.doms, rte := t.rte, freeCtr := t.freeCtr } := by
    have hswap : ∀ a b, { w with rte := a, freeCtr := b } = { u with doms := w.doms, rte := a, freeCtr := b } :=
      fun a b => by rw [hdoms]
    exact hdraw.trans (hswap _ _)
  rw [ht, ← hu]
  exact ⟨⟨rfl, rfl, rfl⟩, ⟨rfl, rfl, rfl, rfl⟩, rfl, rfl, hrecords, rfl, rfl, rfl, rfl⟩

theorem Risen.strap {s t : State} {feed : BitVec 4} {frzN : Bool} {bad : Option Nat} (h : Risen s t feed frzN bad) :
    t.bu.strapWord.toNat = feed.toNat + if frzN then 16 else 0 := by
  have hfeed := feed.isLt
  rw [h.bu]
  cases frzN
  · simp [packBits, b2n]
    omega
  · simp [packBits, b2n]
    omega

/-! ## The power sequencer (R452 to R458) -/

section
variable {s : State}

/-- Core power is held off until PWR_EN has been low for a second, and until the input is good. -/
theorem State.inputOk_iff : s.inputOk = true ↔ ¬ (s.pwr.lossValid = true ∧ s.pwr.lossCause = 1 ∧ s.pwr.vin.toNat < 47000) := by
  unfold State.inputOk
  cases s.pwr.lossValid
  · simp
  · by_cases hc : s.pwr.lossCause = 1
    · simp [hc]
    · simp [hc]

theorem State.mayStart_iff : s.mayStart = true ↔ s.pwr.inputOn = true ∧ s.pwr.en = true ∧ s.pwr.seq = .off ∧
    ¬ (s.pwr.waitLow = true ∨ (s.pwr.lossValid = true ∧ s.pwr.lossCause = 1 ∧ s.pwr.vin.toNat < 47000)) := by
  unfold State.mayStart
  rw [Bool.and_eq_true, State.inputOk_iff, not_or]
  simp [and_assoc]

variable (feed : BitVec 4) (frzN : Bool) (bad : Option Nat)

theorem State.pwrRise_eq (hin : s.pwr.inputOn = true) : s.pwrRise feed frzN bad =
    if ({ s with pwr := { s.pwr with en := true } } : State).mayStart
    then ({ s with pwr := { s.pwr with en := true } } : State).bu0 feed frzN bad
    else { s with pwr := { s.pwr with en := true } } := by
  unfold State.pwrRise
  rw [hin]

theorem State.pwrHold_eq (hwait : s.pwr.waitLow = true) (hfell : s.pwr.fell = true) (hoff : s.pwr.seq = .off) :
    s.pwrHold feed frzN bad =
      if ({ s with pwr := { s.pwr with waitLow := false } } : State).mayStart
      then ({ s with pwr := { s.pwr with waitLow := false } } : State).bu0 feed frzN bad
      else { s with pwr := { s.pwr with waitLow := false } } := by
  unfold State.pwrHold
  rw [if_neg (by simp [hwait, hfell, hoff])]
end

section
variable {s : State} (cause : Nat)

/-- Core power as a cause leaves it, the sequencer at the fall. -/
def State.lost (s : State) (cause : Nat) : State :=
  { s with setNow := s.setNow ++ [.ckpLoss], pwr := { s.pwr with
      seq := .falling, waitLow := true, fell := !s.pwr.en, lossCause := cause, lossValid := true, lossAt := s.gen.time } }

theorem State.removeCore_up (h : s.pwr.seq = .on ∨ s.pwr.seq = .rising) : s.removeCore cause = s.lost cause := by
  refine if_pos ?_
  obtain h | h := h <;> rw [h] <;> rfl

theorem State.removeCore_off (h : s.pwr.seq = .off) : s.removeCore cause = s := by
  unfold State.removeCore
  rw [h]
  rfl

theorem State.removeCore_falling (h : s.pwr.seq = .falling) : s.removeCore cause = { s with pwr := { s.pwr with
    lossCause := if s.pwr.waitLow = true ∧ s.pwr.lossAt = s.gen.time then min cause s.pwr.lossCause
      else s.pwr.lossCause } } := by
  have hup : ¬ (s.pwr.seq == .on || s.pwr.seq == .rising) = true := by rw [h]; decide
  unfold State.removeCore
  rw [if_neg hup]
  by_cases hnow : s.pwr.waitLow = true ∧ s.pwr.lossAt = s.gen.time
  · by_cases hlt : cause < s.pwr.lossCause
    · rw [if_pos (by simp [h, hnow, hlt]), if_pos hnow, Nat.min_eq_left (Nat.le_of_lt hlt)]
    · rw [if_neg (by simp [hlt]), if_pos hnow, Nat.min_eq_right (Nat.le_of_not_lt hlt)]
  · rw [if_neg, if_neg hnow]
    simp only [h, beq_self_eq_true, Bool.true_and, Bool.and_eq_true, beq_iff_eq, decide_eq_true_eq]
    exact fun hc => hnow hc.1

theorem State.pwrFall_on (hin : s.pwr.inputOn = true) (hon : s.pwr.seq = .on) : s.pwrFall =
    { s with setNow := s.setNow ++ [.ckpLoss], pwr := { s.pwr with
      en := false, seq := .falling, waitLow := true, fell := true, lossCause := 3, lossValid := true,
      lossAt := s.gen.time } } := by
  unfold State.pwrFall
  rw [if_neg (by simp [hin])]
  exact State.removeCore_up (s := { s with pwr := { s.pwr with en := false, fell := true } }) 3 (.inl hon)

theorem State.coreRemoved_falling (h : s.pwr.seq = .falling) (hsteps : s.pwr.steps ≤ 1) : s.coreRemoved =
    { s.coreOff with pwr := { s.coreOff.pwr with seq := .off, steps := 0 } } := by
  unfold State.coreRemoved
  rw [if_neg (by simp [h, hsteps])]

theorem State.coreRemoved_other (h : s.pwr.seq ≠ .falling ∨ 1 < s.pwr.steps) : s.coreRemoved = s := by
  refine if_pos ?_
  obtain h | h := h
  · simp [h]
  · simp [h]
end

end Sys2Proof.Machine
end

section
/-!
SUPPORT. What each part of the module counts in a cycle of AOCLK (R261, R313, R361, R418).
-/
namespace Sys2Proof.Machine

/-! ## A cycle of AOCLK: the parts of the module that count (R261, R313, R361, R418) -/

theorem Tab.get_mapKey {α : Type} {d : α} (g : Nat → α → α) (hd : ∀ k, g k d = d) (t : Tab α) (k : Nat) :
    Tab.get d (t.map fun x => (x.1, g x.1 x.2)) k = g k (Tab.get d t k) := by
  rw [Tab.get, Tab.find?_mapKey, Tab.get]
  cases Tab.find? t k with
  | none => exact (hd k).symm
  | some v => rfl

section
variable (s : State)

/-- The domains' times. -/
theorem State.tickDoms_frame (l : List Nat) : l.foldl State.tickDom s =
    { s with doms := (l.foldl State.tickDom s).doms } := by
  refine List.foldlRecOn l _ (motive := fun t : State => t = { s with doms := t.doms }) rfl ?_
  intro t ht d _
  have hswap : ∀ a, { t with doms := a } = { s with doms := a } := fun a => by rw [ht]
  unfold State.tickDom
  dsimp only
  split
  · exact ht
  · exact hswap _

/-- A port whose stream has gone on: only what it sends differs. -/
def Port.Streams (x y : Port) : Prop :=
  y = { x with txFill := y.txFill, txSeq := y.txSeq, txHeld := y.txHeld, recent := y.recent }

theorem Port.Streams.trans {x y z : Port} (h : Port.Streams x y) (g : Port.Streams y z) : Port.Streams x z := by
  unfold Port.Streams at *
  have hswap : ∀ a b c d, { y with txFill := a, txSeq := b, txHeld := c, recent := d } =
      { x with txFill := a, txSeq := b, txHeld := c, recent := d } := fun a b c d => by rw [h]
  exact g.trans (hswap _ _ _ _)

/-- A state whose ports' streams have gone on. -/
structure Streams (s t : State) : Prop where
  frame : t = { s with ports := t.ports, freeCtr := t.freeCtr }
  port : ∀ p, Port.Streams (s.port p) (t.port p)

theorem Streams.trans {s t u : State} (h : Streams s t) (g : Streams t u) : Streams s u := by
  refine ⟨?_, fun p => (h.port p).trans (g.port p)⟩
  have hswap : ∀ a b, { t with ports := a, freeCtr := b } = { s with ports := a, freeCtr := b } :=
    fun a b => by rw [h.frame]
  exact g.frame.trans (hswap _ _)

theorem State.streamIdle_streams (p : Nat) : Streams s (s.streamIdle p) := by
  unfold State.streamIdle
  split
  · exact ⟨rfl, fun _ => rfl⟩
  · refine ⟨rfl, fun q => ?_⟩
    rw [State.port_modPort]
    split
    · next hq =>
      subst hq
      rfl
    · rfl

theorem State.streamIdles_streams (l : List Nat) : Streams s (l.foldl State.streamIdle s) :=
  List.foldlRecOn l _ (motive := fun t => Streams s t) ⟨rfl, fun _ => rfl⟩
    fun t ht p _ => ht.trans (t.streamIdle_streams p)

/-- A port a cycle later. -/
def Port.aged (x : Port) : Port := if x.fitted then { x with hbAge := satAdd 32 x.hbAge 1 } else x

/-- The ports a cycle later, their streams as they were. -/
def State.agedPorts (s : State) : State := { s with ports := s.ports.map fun x => (x.1, x.2.aged) }

theorem State.agedPorts_port (p : Nat) : s.agedPorts.port p = (s.port p).aged :=
  Tab.get_mapKey (fun _ x => Port.aged x) (fun _ => rfl) s.ports p

theorem State.tickPorts_streams : Streams s.agedPorts s.tickPorts := by
  have hports : (s.ports.map fun x => if x.2.fitted then (x.1, { x.2 with hbAge := satAdd 32 x.2.hbAge 1 })
      else (x.1, x.2)) = s.ports.map fun x => (x.1, x.2.aged) := by
    refine List.map_congr_left fun x _ => ?_
    unfold Port.aged
    split <;> rfl
  unfold State.tickPorts
  have hstreams := s.agedPorts.streamIdles_streams (List.range 10)
  unfold State.agedPorts at hstreams ⊢
  rw [← hports] at hstreams ⊢
  exact hstreams

/-! ## The engines, the hods and the progress timers -/

/-- The engines and hods a cycle later. -/
def State.ticked (s : State) : State :=
  { s with
    engines := s.engines.map fun (e, x) => (e, s.tickEngine e x),
    courses := s.courses.map fun (c, y) => (c, s.tickHod y) }

theorem State.ticked_eng (e : Nat) : s.ticked.eng e = s.tickEngine e (s.eng e) :=
  Tab.get_mapKey s.tickEngine (fun _ => rfl) s.engines e

theorem State.ticked_crs (c : Nat) : s.ticked.crs c = s.tickHod (s.crs c) :=
  Tab.get_mapKey (fun _ y => s.tickHod y) (fun _ => rfl) s.courses c

theorem State.ticked_hodSlot (c k : Nat) : s.ticked.hodSlot c k = (s.hodSlot c k).map s.tickSaved := by
  unfold State.hodSlot
  rw [State.ticked_crs]
  exact Tab.find?_mapKey (fun _ h => s.tickSaved h) k (s.crs c).hod

/-- An engine whose item has run for `n` cycles. -/
theorem State.tickEngine_frame (e : Nat) (x : Engine) : s.tickEngine e x = { x with
    itemCyc := x.itemCyc + if x.item ≠ none ∧ s.courseAwake (e / 32) = true then s.courseCycles (e / 32) else 0,
    busyCyc := (s.tickEngine e x).busyCyc } := by
  unfold State.tickEngine
  by_cases hcounts : x.item ≠ none ∧ s.courseAwake (e / 32) = true
  · obtain ⟨hitem, hawake⟩ := hcounts
    rw [if_neg (by simp [hitem, hawake]), if_pos ⟨hitem, hawake⟩]
  · have hstays : (x.item.isNone || !s.courseAwake (e / 32)) = true := by
      cases hitem : x.item with
      | none => rfl
      | some i => exact (Bool.not_eq_true' _).mpr (Bool.eq_false_iff.mpr fun hawake => hcounts ⟨by simp [hitem], hawake⟩)
    rw [if_pos hstays, if_neg hcounts]
    rfl

/-- A state whose progress timers have gone on. -/
structure Timed (s t : State) : Prop where
  frame : t = { s with engines := t.engines, parts := t.parts }
  eng : ∀ e, t.eng e = { s.eng e with nets := (t.eng e).nets }

theorem Timed.trans {s t u : State} (h : Timed s t) (g : Timed t u) : Timed s u := by
  constructor
  · have hswap : ∀ a b, { t with engines := a, parts := b } = { s with engines := a, parts := b } :=
      fun a b => by rw [h.frame]
    exact g.frame.trans (hswap _ _)
  · intro e
    have hswap : ∀ a, { t.eng e with nets := a } = { s.eng e with nets := a } := fun a => by rw [h.eng e]
    exact (g.eng e).trans (hswap _)

theorem Timed.refl (s : State) : Timed s s := ⟨rfl, fun _ => rfl⟩

theorem State.tickStep_timed (e i : Nat) : Timed s (s.tickStep e i) := by
  unfold State.tickStep
  split
  · split
    · exact ⟨rfl, fun _ => rfl⟩
    · refine ⟨rfl, fun e' => ?_⟩
      rw [State.eng_modPart, State.modNet, State.eng_modEng]
      split
      · next h =>
        subst h
        rfl
      · rfl
  · exact ⟨rfl, fun _ => rfl⟩

theorem State.tickSteps_timed : Timed s s.tickSteps := by
  unfold State.tickSteps
  refine List.foldlRecOn s.engines _ (motive := fun t => Timed s t) ⟨rfl, fun _ => rfl⟩ fun t ht x _ => ht.trans ?_
  exact List.foldlRecOn (List.range _) _ (motive := fun u => Timed t u) ⟨rfl, fun _ => rfl⟩
    fun u hu i _ => hu.trans (u.tickStep_timed x.1 i)

/-- The one step of the one engine, its timer running. -/
theorem State.tickSteps_single {e p : Nat} {x : Engine} {o : NetOp} {w : StepWait} (hengines : s.engines = [(e, x)])
    (hnets : x.nets = [o]) (hstep : s.stepAt e 0 = some (o, w)) (hpart : s.partOfEngine e = some p)
    (hruns : s.timerRuns e w = true) :
    (s.tickSteps.eng e).nets = [{ o with step := some { w with timer := w.timer + 1 } }] ∧
    (s.tickSteps.part p).waitCyc = min ((s.part p).waitCyc + 1) (2 ^ 64 - 1) := by
  have htick : s.tickSteps = s.tickStep e 0 := by
    unfold State.tickSteps
    rw [hengines]
    simp only [List.foldl_cons, List.foldl_nil, hnets]
    rfl
  have heng : s.eng e = x := by
    unfold State.eng
    rw [hengines]
    simp [Tab.get, Tab.find?]
  rw [htick]
  unfold State.tickStep
  rw [hstep, hpart]
  simp only [hruns, Bool.not_true, Bool.false_eq_true, if_false]
  constructor
  · rw [State.eng_modPart, State.modNet, State.eng_modEng_self, heng, hnets]
    simp
  · rw [State.part_modPart_self, State.modNet, State.part_modEng]
    rfl
end

end Sys2Proof.Machine
end

section
/-!
SUPPORT. Records of the report log, and the cycle while core power is not on (R379, R453).
-/
namespace Sys2Proof.Machine

/-! ## Records of the report log (R379, R380) -/

theorem get_logPut (ws : List Nat) : ∀ (l : Tab W32) (i k : Nat), Tab.get 0 (logPut l i ws) k =
    if i ≤ k ∧ k < i + ws.length then BitVec.ofNat 32 (ws.getD (k - i) 0) else Tab.get 0 l k := by
  induction ws with
  | nil =>
    intro l i k
    rw [logPut, if_neg (by simp only [List.length_nil]; omega)]
  | cons w ws ih =>
    intro l i k
    rw [logPut, ih, List.length_cons]
    by_cases hk : k = i
    · rw [if_neg (by omega), if_pos (by omega), hk, Tab.get_put_self, Nat.sub_self, List.getD_cons_zero]
    · rw [Tab.get_put_ne _ _ _ hk]
      by_cases hin : i + 1 ≤ k ∧ k < i + 1 + ws.length
      · have hsucc : k - i = (k - (i + 1)) + 1 := by omega
        rw [if_pos hin, if_pos (by omega), hsucc, List.getD_cons_succ]
      · rw [if_neg hin, if_neg (by omega)]

section
variable (s : State)

theorem State.postMessage_hostsOnly (h : Nat) (secure : Bool) (n opc tag : Nat) (ws : List Nat) :
    HostsOnly s (s.postMessage h secure n opc tag ws) := by
  unfold State.postMessage
  dsimp only
  split
  · exact rfl
  · exact State.setChan_hostsOnly ..

/-- The module with a record in the log. -/
def State.logged (s : State) (stage result start : Nat) (detail : List Nat) : State :=
  { s with bu := { s.bu with
    log := logPut s.bu.log (16 * (s.bu.logCount % 256))
      (recordWords stage result (if stage ≥ 8 then s.bu.attempt else 0) s.bu.logCount (s.gen.time - start) start detail),
    logCount := min (s.bu.logCount + 1) (2 ^ 32 - 1), result := BitVec.ofNat 8 result } }

variable (stage result start : Nat) (detail : List Nat)

theorem State.appendRecord_quiet : s.appendRecord stage result start false detail = s.logged stage result start detail :=
  rfl

theorem State.appendRecord_hostsOnly (post : Bool) :
    HostsOnly (s.logged stage result start detail) (s.appendRecord stage result start post detail) := by
  unfold State.appendRecord
  dsimp only
  split
  · exact rfl
  · refine List.foldlRecOn (List.range 2) _ (motive := fun t => HostsOnly (s.logged stage result start detail) t) rfl ?_
    intro t ht h _
    split
    · exact ht.trans (t.postMessage_hostsOnly _ _ _ _ _ _)
    · exact ht

variable {s stage result start detail}

theorem recorded_of_logged {t : State} (hresult : t.bu.result = BitVec.ofNat 8 result)
    (hcount : t.bu.logCount = min (s.bu.logCount + 1) (2 ^ 32 - 1))
    (hlog : t.bu.log = (s.logged stage result start detail).bu.log) : Recorded s t stage result := by
  have hlength : (recordWords stage result (if stage ≥ 8 then s.bu.attempt else 0) s.bu.logCount (s.gen.time - start)
      start detail).length = 16 := by simp [recordWords]
  refine ⟨hresult, hcount, ?_, ?_, ?_⟩
  · rw [hlog, State.logged, get_logPut, hlength, if_pos (by omega), Nat.sub_self]
    simp only [recordWords, List.cons_append, List.getD_cons_zero]
    congr 1
    split <;> omega
  · rw [hlog, State.logged, get_logPut, hlength, if_pos (by omega), Nat.add_sub_cancel_left]
    rfl
  · intro k hk
    rw [hlog, State.logged, get_logPut, hlength, if_neg (by omega)]
end

/-! ## The cycle while core power is not on (R453, R455) -/

section
variable {s : State}

/-- The module at the start of a cycle. -/
def State.dawn (s : State) : State := s.endCycle.tickTime

theorem State.dawn_eq : s.dawn = { s with setNow := [], clearedNow := [], gen := s.dawn.gen, pwr := s.endCycle.pwr } := by
  unfold State.dawn State.tickTime
  split <;> rfl

theorem State.dawn_gen : s.dawn.gen = { s.gen with time := s.dawn.gen.time } := by
  unfold State.dawn State.tickTime
  split <;> rfl

theorem State.dawn_pwr : s.dawn.pwr = s.endCycle.pwr := by rw [State.dawn_eq]

theorem State.dawn_seq : s.dawn.pwr.seq = s.pwr.seq := by rw [State.dawn_pwr]; rfl

theorem State.tick_input (hin : s.pwr.inputOn = false) : s.tick = s := by
  refine if_pos ?_
  rw [hin]
  rfl

theorem State.tick_down (hin : s.pwr.inputOn = true) (hseq : s.pwr.seq ≠ .on) : s.tick = s.dawn.powerStep := by
  have hdawn := State.dawn_seq (s := s)
  unfold State.tick
  dsimp only
  rw [if_neg (by simp [hin]), if_pos]
  · rfl
  · change (s.dawn.pwr.seq != .on) = true
    rw [hdawn]
    exact bne_iff_ne.mpr hseq

theorem State.tick_falling (hin : s.pwr.inputOn = true) (hseq : s.pwr.seq = .falling) : s.tick =
    { s.dawn with pwr := { s.dawn.pwr with
      steps := if s.pwr.steps = 0 then 0 else max 1 (s.pwr.steps - 1) } } := by
  rw [State.tick_down hin (by simp [hseq]), State.powerStep, State.dawn_seq, hseq]
  dsimp only
  rw [State.dawn_pwr]
  rfl

theorem State.tick_off (hin : s.pwr.inputOn = true) (hseq : s.pwr.seq = .off) : s.tick = s.dawn := by
  rw [State.tick_down hin (by simp [hseq]), State.powerStep, State.dawn_seq, hseq]

/-- A step of the rails more has been taken. -/
def State.climbed (s : State) : State := { s with pwr := { s.pwr with steps := s.pwr.steps + 1 } }

theorem State.tick_rising (hin : s.pwr.inputOn = true) (hseq : s.pwr.seq = .rising) : s.tick = s.dawn.stepUp := by
  rw [State.tick_down hin (by simp [hseq]), State.powerStep, State.dawn_seq, hseq]

theorem State.stepUp_bad (hbad : s.pwr.badStep = some (s.pwr.steps + 1)) : s.stepUp = s.climbed.bu0Fail :=
  if_pos (beq_iff_eq.mpr hbad)

theorem State.stepUp_more (hbad : s.pwr.badStep ≠ some (s.pwr.steps + 1)) (hmore : s.pwr.steps + 1 < 6) :
    s.stepUp = s.climbed :=
  (if_neg (beq_iff_eq.not.mpr hbad)).trans (if_pos hmore)

theorem State.stepUp_last (hbad : s.pwr.badStep ≠ some (s.pwr.steps + 1)) (hlast : 6 ≤ s.pwr.steps + 1) :
    s.stepUp = { s.climbed.logged 0 0 0 s.climbed.bu0Detail with
      pwr := { s.climbed.pwr with seq := .on },
      bu := { (s.climbed.logged 0 0 0 s.climbed.bu0Detail).bu with stage := 1, stageStart := s.gen.time } } :=
  (if_neg (beq_iff_eq.not.mpr hbad)).trans (if_neg (Nat.not_lt.mpr hlast))

/-- What a cycle of the rails leaves as they rise. -/
structure Climbed (s t : State) : Prop where
  steps : t.pwr.steps = s.pwr.steps + 1
  mem : t.mem = s.mem
  bad : s.pwr.badStep = some (s.pwr.steps + 1) → t.pwr.seq = .falling ∧ t.bu.stage = s.bu.stage ∧ t.bu.st = .failed ∧
    Recorded s t 0 0x0E
  more : s.pwr.badStep ≠ some (s.pwr.steps + 1) → s.pwr.steps + 1 < 6 → t.pwr.seq = .rising ∧ t.bu = s.bu
  last : s.pwr.badStep ≠ some (s.pwr.steps + 1) → 6 ≤ s.pwr.steps + 1 → t.pwr.seq = .on ∧ t.bu.stage = 1 ∧ Recorded s t 0 0

theorem State.stepUp_climbed (hseq : s.pwr.seq = .rising) : Climbed s s.stepUp := by
  by_cases hbad : s.pwr.badStep = some (s.pwr.steps + 1)
  · rw [State.stepUp_bad hbad]
    exact ⟨rfl, rfl, fun _ => ⟨rfl, rfl, rfl, recorded_of_logged (s := s) (detail := s.climbed.bu0Detail) rfl rfl rfl⟩,
      fun h => absurd hbad h, fun h => absurd hbad h⟩
  · by_cases hmore : s.pwr.steps + 1 < 6
    · rw [State.stepUp_more hbad hmore]
      exact ⟨rfl, rfl, fun h => absurd h hbad, fun _ _ => ⟨hseq, rfl⟩, fun _ h => absurd hmore (Nat.not_lt.mpr h)⟩
    · rw [State.stepUp_last hbad (Nat.not_lt.mp hmore)]
      exact ⟨rfl, rfl, fun h => absurd h hbad, fun _ h => absurd h hmore,
        fun _ _ => ⟨rfl, rfl, recorded_of_logged (s := s) (detail := s.climbed.bu0Detail) rfl rfl rfl⟩⟩

theorem Recorded.of_bu {u t : State} {n r : Nat} (h : Recorded u t n r) (hbu : u.bu = s.bu) : Recorded s t n r := by
  unfold Recorded at *
  rw [hbu] at h
  exact h

theorem Climbed.of_eq {u t : State} (h : Climbed u t) (hbu : u.bu = s.bu) (hmem : u.mem = s.mem)
    (hsteps : u.pwr.steps = s.pwr.steps) (hbad : u.pwr.badStep = s.pwr.badStep) : Climbed s t := by
  obtain ⟨hsteps', hmem', hfails, hmore, hlast⟩ := h
  rw [hsteps] at hsteps' hfails hmore hlast
  rw [hbad] at hfails hmore hlast
  rw [hbu] at hfails hmore
  refine ⟨hsteps', hmem'.trans hmem, fun h => ?_, hmore, fun h hk => ?_⟩
  · obtain ⟨hfalls, hstage, hfailed, hrec⟩ := hfails h
    exact ⟨hfalls, hstage, hfailed, Recorded.of_bu hrec hbu⟩
  · obtain ⟨hon, hstage, hrec⟩ := hlast h hk
    exact ⟨hon, hstage, Recorded.of_bu hrec hbu⟩

theorem State.tick_climbed (hin : s.pwr.inputOn = true) (hseq : s.pwr.seq = .rising) : Climbed s s.tick := by
  rw [State.tick_rising hin hseq]
  have hclimbed := State.stepUp_climbed (State.dawn_seq.trans hseq)
  exact hclimbed.of_eq (by rw [State.dawn_eq]) (by rw [State.dawn_eq]) (by rw [State.dawn_pwr]; rfl)
    (by rw [State.dawn_pwr]; rfl)

/-! ## Peaks at the end of a cycle (R16) -/

/-- A register of the peaks of every requester once a cycle's greatest value has joined it. -/
def peakJoin (t : Tab Nat) (n : Nat) : Tab Nat :=
  (List.range 3).foldl (fun t r => Tab.put 0 t r (max (Tab.get 0 t r) n)) t

theorem get_peakJoin (t : Tab Nat) (n q : Nat) (hq : q < 3) : Tab.get 0 (peakJoin t n) q = max (Tab.get 0 t q) n := by
  unfold peakJoin
  simp only [List.range_succ, List.range_zero, List.nil_append, List.cons_append, List.foldl_cons, List.foldl_nil,
    Tab.get_put]
  obtain rfl | rfl | rfl : q = 0 ∨ q = 1 ∨ q = 2 := by omega
  · rfl
  · rfl
  · rfl

theorem State.endCycle_pwr : s.endCycle.pwr = { s.pwr with
    peak := peakJoin s.pwr.peak s.pwr.peakNow, wakeMax := peakJoin s.pwr.wakeMax s.pwr.wakeNow, peakNow := 0,
    wakeNow := 0 } := rfl

/-- The power registers as a cycle leaves those that a sample or a wake changes. -/
structure Joined (s t : State) : Prop where
  setNow : t.setNow = []
  clearedNow : t.clearedNow = []
  peakNow : t.pwr.peakNow = 0
  wakeNow : t.pwr.wakeNow = 0
  peaks : ∀ q < 3, Tab.get 0 t.pwr.peak q = max (Tab.get 0 s.pwr.peak q) s.pwr.peakNow ∧
    Tab.get 0 t.pwr.wakeMax q = max (Tab.get 0 s.pwr.wakeMax q) s.pwr.wakeNow

theorem State.endCycle_joined : Joined s s.endCycle := by
  have hpwr := State.endCycle_pwr (s := s)
  refine ⟨rfl, rfl, ?_, ?_, fun q hq => ?_⟩
  · rw [hpwr]
  · rw [hpwr]
  · rw [hpwr]
    dsimp only
    exact ⟨get_peakJoin s.pwr.peak s.pwr.peakNow q hq, get_peakJoin s.pwr.wakeMax s.pwr.wakeNow q hq⟩

theorem Joined.of_eq {u t : State} (h : Joined s u) (hset : t.setNow = u.setNow) (hcleared : t.clearedNow = u.clearedNow)
    (hpwr : t.pwr = { u.pwr with steps := t.pwr.steps, throttleCyc := t.pwr.throttleCyc }) : Joined s t := by
  refine ⟨hset.trans h.setNow, hcleared.trans h.clearedNow, ?_, ?_, fun q hq => ?_⟩
  · rw [hpwr]
    exact h.peakNow
  · rw [hpwr]
    exact h.wakeNow
  · rw [hpwr]
    exact h.peaks q hq

theorem State.dawn_joined : Joined s s.dawn :=
  State.endCycle_joined.of_eq (by rw [State.dawn_eq]; rfl) (by rw [State.dawn_eq]; rfl) (by rw [State.dawn_pwr])
end

end Sys2Proof.Machine
end

section
/-!
SUPPORT. The cycle while core power is on.
-/
namespace Sys2Proof.Machine

/-! ## The cycle while core power is on -/

section
variable {s : State}

/-- The module once the registers that count at any time have counted. -/
def State.noon (s : State) : State := s.dawn.tickThrottle.tickPin

/-- The module once its fast domains have counted. -/
def State.worked (s : State) : State :=
  if s.tickPorts.ticked.live then s.tickPorts.ticked.tickSteps else s.tickPorts.ticked

/-- The module a cycle later, its domains' times as they were. -/
def State.toiled (s : State) : State := if s.noon.frz.frozen then s.noon else s.noon.worked

theorem State.tick_on (hin : s.pwr.inputOn = true) (hseq : s.pwr.seq = .on) :
    s.tick = (List.range 100).foldl State.tickDom s.toiled := by
  have hdawn := State.dawn_seq (s := s)
  unfold State.tick
  dsimp only
  rw [if_neg (by simp [hin]), if_neg]
  · rfl
  · change ¬ (s.dawn.pwr.seq != .on) = true
    rw [hdawn, hseq]
    decide

theorem State.tick_toiled (hin : s.pwr.inputOn = true) (hseq : s.pwr.seq = .on) :
    s.tick = { s.toiled with doms := s.tick.doms } := by
  have hdoms := s.toiled.tickDoms_frame (List.range 100)
  rw [State.tick_on hin hseq]
  exact hdoms

theorem State.tickThrottle_pwr (u : State) : u.tickThrottle.pwr = { u.pwr with
    throttleCyc := if u.pwr.ft < 16 then min (u.pwr.throttleCyc + 1) (2 ^ 64 - 1) else u.pwr.throttleCyc } := by
  unfold State.tickThrottle
  split
  · rfl
  · rfl

theorem State.tickThrottle_frame (u : State) : u.tickThrottle = { u with pwr := u.tickThrottle.pwr } := by
  unfold State.tickThrottle
  split <;> rfl

theorem State.tickPin_frame (u : State) : u.tickPin = { u with gen := u.tickPin.gen, freeCtr := u.tickPin.freeCtr } := by
  unfold State.tickPin
  split <;> rfl

theorem State.tickPin_gen (u : State) : u.tickPin.gen = { u.gen with frzN := u.tickPin.gen.frzN } ∧
    (u.gen.frzN = true → u.tickPin.gen.frzN = true) := by
  unfold State.tickPin
  split
  · next h => exact ⟨rfl, fun _ => h⟩
  · next h => exact ⟨rfl, fun hset => absurd hset h⟩

theorem State.noon_frame : s.noon = { s with
    setNow := [], clearedNow := [], gen := s.noon.gen, pwr := s.noon.pwr, freeCtr := s.noon.freeCtr } := by
  have hdawn := State.dawn_eq (s := s)
  have hthrottle := s.dawn.tickThrottle_frame
  have hpin := s.dawn.tickThrottle.tickPin_frame
  unfold State.noon
  generalize s.dawn.tickThrottle = w at hthrottle hpin
  generalize w.tickPin = t at hpin
  rw [hpin, hthrottle, hdawn]

theorem State.noon_pwr : s.noon.pwr = { s.dawn.pwr with
    throttleCyc := if s.pwr.ft < 16 then min (s.pwr.throttleCyc + 1) (2 ^ 64 - 1) else s.pwr.throttleCyc } := by
  have hpin := congrArg State.pwr s.dawn.tickThrottle.tickPin_frame
  have hft : s.dawn.pwr.ft = s.pwr.ft := by rw [State.dawn_pwr, State.endCycle_pwr]
  have hcyc : s.dawn.pwr.throttleCyc = s.pwr.throttleCyc := by rw [State.dawn_pwr, State.endCycle_pwr]
  have hthrottle := s.dawn.tickThrottle_pwr
  rw [hft, hcyc] at hthrottle
  exact hpin.trans hthrottle

theorem State.noon_gen (hseq : s.pwr.seq = .on) : s.noon.gen = { s.gen with
    time := min (s.gen.time + 1) (2 ^ 64 - 1), frzN := s.noon.gen.frzN } ∧
    (s.gen.frzN = true → s.noon.gen.frzN = true) := by
  have hthrottle := congrArg State.gen s.dawn.tickThrottle_frame
  have hdawn : s.dawn.gen = { s.gen with time := min (s.gen.time + 1) (2 ^ 64 - 1) } := by
    unfold State.dawn State.tickTime
    rw [if_neg]
    · rfl
    · rw [State.endCycle_pwr, hseq]
      simp
  obtain ⟨hpin, hset⟩ := s.dawn.tickThrottle.tickPin_gen
  rw [hthrottle, hdawn] at hpin hset
  exact ⟨hpin, hset⟩

/-! ## What the fast domains count -/

theorem State.ticked_frame (u : State) :
    u.ticked = { u with engines := u.ticked.engines, courses := u.ticked.courses } := rfl

theorem tickSaved_ready {u : State} {h : HodSlot} (hstatus : ∀ e, h.status ≠ .yielded e) : u.tickSaved h = h := by
  unfold State.tickSaved
  split
  · next e he => exact absurd he (hstatus e)
  · rfl

theorem tickSaved_yielded {u : State} {h : HodSlot} {e : Nat} {v : Saved} (hstatus : h.status = .yielded e)
    (hsaved : h.saved = some v) (hlives : v.failed = false) : u.tickSaved h = { h with saved := some { v with
      itemCyc := v.itemCyc + if u.courseAwake (e / 32) = true then u.courseCycles (e / 32) else 0 } } := by
  have hsame : h = { h with status := .yielded e, saved := some { v with itemCyc := v.itemCyc + 0 } } := by
    obtain ⟨⟩ := h
    cases hstatus
    cases hsaved
    rfl
  unfold State.tickSaved
  rw [hstatus]
  dsimp only
  cases u.courseAwake (e / 32) with
  | true => simp [hsaved, hlives]
  | false =>
    rw [if_neg Bool.false_ne_true, if_neg Bool.false_ne_true]
    exact hsame

section
variable {u w t : State} (hports : Streams u.agedPorts w) (htimed : Timed w.ticked t)
include hports

theorem frame_of_ports : w = { u with ports := w.ports, freeCtr := w.freeCtr } := hports.frame

theorem courseAwake_of_ports (c : Nat) : w.courseAwake c = u.courseAwake c := by
  rw [frame_of_ports hports]
  rfl

theorem courseCycles_of_ports (c : Nat) : w.courseCycles c = u.courseCycles c := by
  rw [frame_of_ports hports]
  rfl

/-- Port state that the progress timers see stays. -/
theorem timerRuns_of_ports (e : Nat) (x : StepWait) : w.ticked.timerRuns e x = u.timerRuns e x := by
  have hstays : ∀ p, (w.port p).st = (u.port p).st ∧ (w.port p).hbMissing = (u.port p).hbMissing := by
    intro p
    have hstreams := hports.port p
    rw [State.agedPorts_port] at hstreams
    rw [hstreams]
    unfold Port.aged
    split <;> exact ⟨rfl, rfl⟩
  have hown : w.ticked.ownNode (BitVec.ofNat 17 x.peer) = u.ownNode (BitVec.ofNat 17 x.peer) := by
    rw [State.ticked_frame, frame_of_ports hports]
    rfl
  have hwatched : w.ticked.watched e x = u.watched e x := by
    rw [State.ticked_frame, frame_of_ports hports]
    rfl
  have hport : ∀ p, w.ticked.port p = w.port p := fun _ => rfl
  unfold State.timerRuns
  rw [hown, hwatched]
  cases u.watched e x with
  | none => rfl
  | some p =>
    obtain ⟨hst, hmissing⟩ := hstays p
    simp only [hport, hst, hmissing]

include htimed

/-- The places of the module that a cycle of the fast domains may change. -/
theorem frame_of_timed : t = { u with
    ports := t.ports, freeCtr := t.freeCtr, engines := t.engines, courses := t.courses, parts := t.parts } := by
  have hframe := htimed.frame
  have hticked := w.ticked_frame
  have hw := frame_of_ports hports
  generalize w.ticked = v at hframe hticked
  rw [hframe, hticked, hw]

theorem port_of_timed (p : Nat) : Port.Streams (u.port p).aged (t.port p) := by
  have hframe := congrArg State.ports htimed.frame
  have hport : t.port p = w.port p := congrArg (fun x => Tab.get Port.reset x p) hframe
  have hstreams := hports.port p
  rw [State.agedPorts_port] at hstreams
  rw [hport]
  exact hstreams

theorem eng_of_timed (e : Nat) : t.eng e = { u.eng e with
    itemCyc := (u.eng e).itemCyc +
      if (u.eng e).item ≠ none ∧ u.courseAwake (e / 32) = true then u.courseCycles (e / 32) else 0,
    busyCyc := (t.eng e).busyCyc, nets := (t.eng e).nets } := by
  have heng : w.eng e = u.eng e := by
    rw [frame_of_ports hports]
    rfl
  have hcount := w.tickEngine_frame e (u.eng e)
  have hticked := htimed.eng e
  rw [State.ticked_eng, heng] at hticked
  rw [courseAwake_of_ports hports, courseCycles_of_ports hports] at hcount
  generalize w.tickEngine e (u.eng e) = x at hticked hcount
  generalize t.eng e = y at hticked
  rw [hcount] at hticked
  rw [hticked]

theorem crs_of_timed (c : Nat) : t.crs c = w.tickHod (u.crs c) := by
  have hcourses := congrArg State.courses htimed.frame
  have hcrs : t.crs c = w.ticked.crs c := congrArg (fun x => Tab.get Course.reset x c) hcourses
  have hsame : w.crs c = u.crs c := by
    rw [frame_of_ports hports]
    rfl
  rw [hcrs, State.ticked_crs, hsame]

theorem hodSlot_of_timed (c k : Nat) : t.hodSlot c k = (u.hodSlot c k).map w.tickSaved := by
  unfold State.hodSlot
  rw [crs_of_timed hports htimed]
  exact Tab.find?_mapKey (fun _ h => w.tickSaved h) k (u.crs c).hod
end

/-- The cycle of one step of the one engine. -/
theorem ticked_single {u w : State} (hports : Streams u.agedPorts w) {e p : Nat} {x : Engine} {o : NetOp} {y : StepWait}
    (hengines : u.engines = [(e, x)]) (hnets : x.nets = [o]) (hstep : u.stepAt e 0 = some (o, y))
    (hpart : u.partOfEngine e = some p) (hruns : u.timerRuns e y = true) :
    (w.ticked.tickSteps.eng e).nets = [{ o with step := some { y with timer := y.timer + 1 } }] ∧
    (w.ticked.tickSteps.part p).waitCyc = min ((u.part p).waitCyc + 1) (2 ^ 64 - 1) := by
  have hframe := frame_of_ports hports
  have heng : w.eng e = u.eng e := by
    rw [hframe]
    rfl
  have hlist : w.ticked.engines = [(e, w.tickEngine e x)] := by
    have hw : w.engines = [(e, x)] := by rw [hframe, ← hengines]
    unfold State.ticked
    rw [hw]
    rfl
  have hnets' : (w.tickEngine e x).nets = [o] := by
    rw [w.tickEngine_frame]
    exact hnets
  have hstep' : w.ticked.stepAt e 0 = some (o, y) := by
    unfold State.stepAt at hstep ⊢
    have hsame : (w.ticked.eng e).nets = (u.eng e).nets := by
      rw [State.ticked_eng, w.tickEngine_frame, heng]
    rw [hsame]
    exact hstep
  have hpart' : w.ticked.partOfEngine e = some p := by
    rw [State.ticked_frame, hframe]
    exact hpart
  have hwait : (w.ticked.part p).waitCyc = (u.part p).waitCyc := by
    rw [State.ticked_frame, hframe]
    rfl
  have hsingle := w.ticked.tickSteps_single hlist hnets' hstep' hpart' ((timerRuns_of_ports hports e y).trans hruns)
  rw [hwait] at hsingle
  exact hsingle

theorem State.worked_timed (u : State) : ∃ w, Streams u.agedPorts w ∧ Timed w.ticked u.worked ∧
    (u.live = true → u.worked = w.ticked.tickSteps) := by
  have hports := u.tickPorts_streams
  unfold State.worked
  generalize u.tickPorts = w at hports
  have hlive : w.ticked.live = u.live := by
    rw [State.ticked_frame, frame_of_ports hports]
    rfl
  rw [hlive]
  refine ⟨w, hports, ?_, fun h => if_pos h⟩
  split
  · exact w.ticked.tickSteps_timed
  · exact .refl _
end

end Sys2Proof.Machine
end

section
/-!
SUPPORT. Host ports: requests that are outstanding, and those that wait (R26, R394).
-/
namespace Sys2Proof.Machine

/-! ## Host ports (R393, R394, R454, R463) -/

section
variable {s : State} {h : Nat}

/-- No command of a partition of the port is carried, and no copy of an off-load window has requests outstanding. -/
def State.portIdle (s : State) (h : Nat) : Prop :=
  ∀ p, p < 8 → s.hostOf p = h → (s.part p).carrying = none ∧ ∀ w < 8, (s.ofl p w).sent = false

theorem State.copyEnd_idle {p : Nat} (hcarry : (s.part p).carrying = none) (r : HostResult) : s.copyEnd p r = s := by
  unfold State.copyEnd
  rw [hcarry]

theorem State.oflCopyDone_unsent {p w : Nat} (hsent : (s.ofl p w).sent = false) (r : HostResult) :
    s.oflCopyDone p w r = s := by
  unfold State.oflCopyDone
  dsimp only
  split
  · rfl
  · rw [if_pos (by simp [hsent])]

theorem State.hostErrors_idle (hidle : s.portIdle h) : s.hostErrors h = s := by
  unfold State.hostErrors
  refine List.foldlRecOn (List.range 8) _ (motive := fun t => t = s) rfl ?_
  rintro t rfl p hp
  split
  · rfl
  · next hmine =>
    rw [Bool.or_eq_true, decide_eq_true_eq, not_or, not_not] at hmine
    obtain ⟨hcarry, hsent⟩ := hidle p (List.mem_range.mp hp) hmine.2
    rw [State.copyEnd_idle hcarry]
    refine List.foldlRecOn (List.range 8) _ (motive := fun u => u = t) rfl ?_
    rintro u rfl w hw
    exact State.oflCopyDone_unsent (hsent w (List.mem_range.mp hw)) _

theorem State.bondPort_setBondPort (k : Nat) (x : BondPort) :
    (s.setBondPort h x).bondPort k = if k = h then x else s.bondPort k := Tab.get_put ..

/-- Only registers of one port's BOND block differ. -/
structure BondOnly (s t : State) (h : Nat) : Prop where
  frame : t = { s with bond := { s.bond with ports := t.bond.ports } }
  port : ∀ k, k ≠ h → t.bondPort k = s.bondPort k

theorem State.setBondPort_bondOnly (x : BondPort) : BondOnly s (s.setBondPort h x) h :=
  ⟨rfl, fun _ hk => Tab.get_put_ne _ _ _ hk⟩

theorem BondOnly.trans {t u : State} (a : BondOnly s t h) (b : BondOnly t u h) : BondOnly s u h := by
  refine ⟨?_, fun k hk => (b.port k hk).trans (a.port k hk)⟩
  have hswap : ∀ l, { t with bond := { t.bond with ports := l } } = { s with bond := { s.bond with ports := l } } :=
    fun l => by rw [a.frame]
  exact b.frame.trans (hswap _)

/-- The BOND block of a port as PERST leaves it. -/
structure Perst (s t : State) (h : Nat) : Prop where
  only : BondOnly s t h
  cut : (s.bondPort h).st = .fetch → (t.bondPort h).st = .refused ∧ (t.bondPort h).code = 0x13
  reset : (s.bondPort h).st ≠ .fetch → (∀ y, s.bond.applying ≠ some (h, y)) → (∀ y, s.bond.staged ≠ some (h, y)) →
    t.bondPort h = BondPort.reset
  staged : ∀ y, (s.bondPort h).st ≠ .fetch → s.bond.applying = none → s.bond.staged = some (h, y) →
    (t.bondPort h).st = .staged

theorem any_port_false {α : Type} {o : Option (Nat × α)} (ho : ∀ y, o ≠ some (h, y)) : o.any (fun x => x.1 == h) = false := by
  match o with
  | none => rfl
  | some (k, y) =>
    have hk : k ≠ h := fun hkh => ho y (by rw [hkh])
    simp [hk]

theorem State.bondPerst_perst : Perst s (s.bondPerst h) h := by
  have hset := State.setBondPort_bondOnly (s := s) (h := h) BondPort.reset
  unfold State.bondPerst
  dsimp only
  by_cases hcut : (s.bondPort h).st = .fetch
  · rw [if_pos (beq_iff_eq.mpr hcut)]
    refine ⟨hset.trans (State.setBondPort_bondOnly _), fun _ => ?_, fun hne => absurd hcut hne, fun _ hne => absurd hcut hne⟩
    rw [State.refuseCode, State.refuse, State.bondPort_setBondPort, if_pos rfl]
    exact ⟨rfl, rfl⟩
  · rw [if_neg (fun hc => hcut (beq_iff_eq.mp hc))]
    have happlying : (s.setBondPort h BondPort.reset).bond.applying = s.bond.applying := rfl
    have hstaged : (s.setBondPort h BondPort.reset).bond.staged = s.bond.staged := rfl
    rw [happlying, hstaged]
    split
    · next ha =>
      refine ⟨hset.trans (State.setBondPort_bondOnly _), fun hc => absurd hc hcut, fun _ hnone => ?_, fun _ _ hnone => ?_⟩
      · rw [any_port_false hnone] at ha
        exact absurd ha Bool.false_ne_true
      · rw [hnone] at ha
        exact absurd ha Bool.false_ne_true
    · split
      · next hs =>
        refine ⟨hset.trans (State.setBondPort_bondOnly _), fun hc => absurd hc hcut, fun _ _ hnone => ?_, fun _ _ _ _ => ?_⟩
        · rw [any_port_false hnone] at hs
          exact absurd hs Bool.false_ne_true
        · rw [State.bondState, State.bondPort_setBondPort, if_pos rfl]
      · next hs =>
        refine ⟨hset, fun hc => absurd hc hcut, fun _ _ _ => ?_, fun y _ _ hy => absurd ?_ hs⟩
        · rw [State.bondPort_setBondPort, if_pos rfl]
        · rw [hy]
          simp

/-! ## The requests that waited for a port -/

/-- The stores and the host ports stay. -/
structure PortsStay (s t : State) : Prop where
  stores : t.stores = s.stores
  host : ∀ k, t.host k = s.host k

theorem PortsStay.refl (s : State) : PortsStay s s := ⟨rfl, fun _ => rfl⟩

theorem PortsStay.trans {t u : State} (a : PortsStay s t) (b : PortsStay t u) : PortsStay s u :=
  ⟨b.stores.trans a.stores, fun k => (b.host k).trans (a.host k)⟩

theorem State.bondRead_stays : PortsStay s (s.bondRead h) := by
  unfold State.bondRead
  dsimp only
  split
  · rw [State.hostReads_eq]
    exact ⟨rfl, fun _ => rfl⟩
  · exact .refl s

theorem State.updateRead_stays : PortsStay s s.updateRead := by
  unfold State.updateRead
  split
  · exact .refl s
  · split
    · exact .refl s
    · rw [State.hostReads_eq]
      exact ⟨rfl, fun _ => rfl⟩

theorem State.oflIssue_stays (p w : Nat) : PortsStay s (s.oflIssue p w) := by
  unfold State.oflIssue
  dsimp only
  split
  · exact .refl s
  · next c _ =>
    split
    · exact .refl s
    · obtain ⟨u, hframe, hstores, heq⟩ := s.startHostCopy_eq (s.hostOf p) c
      rw [heq]
      exact ⟨hstores, fun k => hframe.host k⟩

theorem State.hostResume_stays : PortsStay s (s.hostResume h) := by
  unfold State.hostResume
  dsimp only
  refine List.foldlRecOn (List.range 8) _ (motive := fun t => PortsStay s t) ?_ fun t ht p _ => ?_
  · refine (State.bondRead_stays (s := s) (h := h)).trans ?_
    generalize s.bondRead h = t
    match t.sec.updating with
    | none => exact .refl t
    | some u =>
      dsimp only
      split
      · exact State.updateRead_stays
      · exact .refl t
  · split
    · exact ht
    · exact List.foldlRecOn (List.range 8) _ (motive := fun u => PortsStay s u) ht
        fun u hu w _ => hu.trans (State.oflIssue_stays p w)

theorem State.oflIssue_none {p w : Nat} (hnone : (s.ofl p w).copy = none) : s.oflIssue p w = s := by
  unfold State.oflIssue
  dsimp only
  rw [hnone]

/-- Nothing but an image fetch waits for the port. -/
theorem State.hostResume_quiet (hupdating : s.sec.updating = none)
    (hnone : ∀ p, p < 8 → s.hostOf p = h → ∀ w < 8, (s.ofl p w).copy = none) : s.hostResume h = s.bondRead h := by
  have hread : (s.bondRead h).sec.updating = none ∧ (∀ p, (s.bondRead h).hostOf p = s.hostOf p) ∧
      ∀ p w, (s.bondRead h).ofl p w = s.ofl p w := by
    unfold State.bondRead
    dsimp only
    split
    · rw [State.hostReads_eq]
      exact ⟨hupdating, fun _ => rfl, fun _ _ => rfl⟩
    · exact ⟨hupdating, fun _ => rfl, fun _ _ => rfl⟩
  obtain ⟨hread, hhost, hofl⟩ := hread
  unfold State.hostResume
  dsimp only
  rw [hread]
  generalize s.bondRead h = t at hhost hofl
  refine List.foldlRecOn (List.range 8) _ (motive := fun u => u = t) rfl ?_
  rintro u rfl p hp
  split
  · rfl
  · next hmine =>
    rw [Bool.or_eq_true, decide_eq_true_eq, not_or, not_not] at hmine
    refine List.foldlRecOn (List.range 8) _ (motive := fun v => v = u) rfl ?_
    rintro v rfl w hw
    refine State.oflIssue_none ?_
    rw [hofl]
    exact hnone p (List.mem_range.mp hp) ((hhost p).symm.trans hmine.2) w (List.mem_range.mp hw)

/-- The port as it is once it may be used. -/
def HostPort.opened (x : HostPort) : HostPort := { x with linkUp := true, d3hot := false, bme := true }

theorem State.hostReady_eq (hmason : s.masonUp = true) (hperst : (s.host h).perst = false)
    (hdown : s.hostUsable h = false) : s.hostReady h = (s.modHost h HostPort.opened).hostResume h := by
  unfold State.hostReady
  rw [if_neg (by simp [hmason, hperst]), if_neg (by simp [hdown])]
  rfl

theorem State.hostUsable_opened (hmason : s.masonUp = true) (hperst : (s.host h).perst = false) :
    (s.modHost h HostPort.opened).hostUsable h = true := by
  have hseq : (s.pwr.seq == .on) = true := by
    unfold State.masonUp at hmason
    exact (Bool.and_eq_true _ _ ▸ hmason).1
  unfold State.hostUsable
  rw [State.host_modHost_self]
  dsimp only
  have hpwr : (s.modHost h HostPort.opened).pwr = s.pwr := rfl
  rw [hpwr, hseq]
  simp [HostPort.opened, hperst]

theorem State.bondRead_out (husable : s.hostUsable h = true) : (s.bondRead h).out = s.out ++
    if (s.bondPort h).st = .fetch ∧ (s.bondPort h).sent = false
    then readRequests s h (s.bondPort h).goSrc (s.bondPort h).goLen else [] := by
  unfold State.bondRead
  dsimp only
  by_cases hfetch : (s.bondPort h).st = .fetch ∧ (s.bondPort h).sent = false
  · have hreads : ((s.bondPort h).st == .fetch && !(s.bondPort h).sent && s.hostUsable h) = true := by
      rw [hfetch.1, hfetch.2, husable]
      rfl
    rw [if_pos hfetch, if_pos hreads, State.hostReads_eq]
    rfl
  · rw [if_neg hfetch, if_neg, List.append_nil]
    simp only [husable, Bool.and_true, Bool.and_eq_true, beq_iff_eq, Bool.not_eq_true']
    exact hfetch
end

end Sys2Proof.Machine
end

section
/-!
SUPPORT. PERST, and a link that goes down (R393, R394).
-/
namespace Sys2Proof.Machine

/-! ## PERST, a link that goes down, and L1 -/

section
variable {s : State} {h : Nat}

theorem State.mailboxPerst_frame : s.mailboxPerst h = { s with sec := (s.mailboxPerst h).sec } := rfl

theorem Perst.of_bond {u v t : State} (a : Perst u v h) (hu : u.bond = s.bond) (hv : t.bond = v.bond) :
    (t.bond = { s.bond with ports := t.bond.ports } ∧ (∀ k, k ≠ h → t.bondPort k = s.bondPort k)) ∧
    ((s.bondPort h).st = .fetch → (t.bondPort h).st = .refused ∧ (t.bondPort h).code = 0x13) ∧
    ((s.bondPort h).st ≠ .fetch → (∀ y, s.bond.applying ≠ some (h, y)) → (∀ y, s.bond.staged ≠ some (h, y)) →
      t.bondPort h = BondPort.reset) ∧
    ∀ y, (s.bondPort h).st ≠ .fetch → s.bond.applying = none → s.bond.staged = some (h, y) →
      (t.bondPort h).st = .staged := by
  obtain ⟨⟨hframe, hport⟩, hcut, hreset, hstaged⟩ := a
  have hports : ∀ k, u.bondPort k = s.bondPort k := fun k => by unfold State.bondPort; rw [hu]
  have hports' : ∀ k, t.bondPort k = v.bondPort k := fun k => by unfold State.bondPort; rw [hv]
  have hbond := congrArg State.bond hframe
  simp only [hports] at hport hcut hreset hstaged
  rw [hu] at hreset hstaged
  simp only [hports']
  refine ⟨⟨?_, hport⟩, hcut, hreset, hstaged⟩
  rw [hv, ← hu]
  exact hbond

/-- A port whose PERST is asserted, and as it stands once its registers are reset. -/
def HostPort.held (x : HostPort) : HostPort := { x with perst := true, linkUp := false }

def HostPort.cleared (x : HostPort) : HostPort :=
  { x.cfgReset with bar4Base := 0, dbDrop := 0, bar4Refused := 0, ns := [], sec := [], secBuf := [], secKind := 0 }

theorem HostPort.cleared_held (x : HostPort) : x.held.cleared = { HostPort.reset with perst := true } := rfl

/-- The channels of a port are cleared in this cycle. -/
def State.clearChans (s : State) (h : Nat) : State := { s with clearedNow := s.clearedNow ++ portChans h }

theorem State.perstAssert_eq (hidle : s.portIdle h) : s.perstAssert h =
    ((((s.modHost h HostPort.held).mailboxPerst h).bondPerst h).clearChans h).modHost h HostPort.cleared := by
  have herrors : ((s.modHost h HostPort.held).mailboxPerst h).hostErrors h =
      (s.modHost h HostPort.held).mailboxPerst h := State.hostErrors_idle hidle
  have hassert : s.perstAssert h = (((((s.modHost h HostPort.held).mailboxPerst h).hostErrors h).bondPerst h).clearChans
      h).modHost h HostPort.cleared := rfl
  rw [hassert, herrors]

theorem State.perstAssert_spec (hidle : s.portIdle h) : ∃ t, s.perstAssert h = t ∧
    t = { s with hosts := t.hosts, bond := t.bond, sec := t.sec, clearedNow := t.clearedNow } ∧
    t.clearedNow = s.clearedNow ++ portChans h ∧ (∀ k, k ≠ h → t.host k = s.host k) ∧
    t.host h = { HostPort.reset with perst := true } ∧
    ∃ u v, Perst u v h ∧ u.bond = s.bond ∧ t.bond = v.bond := by
  have hstart : (s.modHost h HostPort.held).mailboxPerst h = { s with
      hosts := (s.modHost h HostPort.held).hosts, sec := ((s.modHost h HostPort.held).mailboxPerst h).sec } := rfl
  have hperst := State.bondPerst_perst (s := (s.modHost h HostPort.held).mailboxPerst h) (h := h)
  have hframe := hperst.only.frame
  rw [State.perstAssert_eq hidle]
  generalize ((s.modHost h HostPort.held).mailboxPerst h).bondPerst h = v at hperst hframe
  generalize (s.modHost h HostPort.held).mailboxPerst h = u at hperst hframe hstart
  have hhosts : v.hosts = (s.modHost h HostPort.held).hosts := by rw [hframe, hstart]
  have hhost : ∀ k, v.host k = (s.modHost h HostPort.held).host k := by
    intro k
    unfold State.host
    rw [hhosts]
  have hbond : u.bond = s.bond := by rw [hstart]
  have hclear : v.clearedNow = s.clearedNow := by rw [hframe, hstart]
  have hv : v = { s with hosts := v.hosts, bond := v.bond, sec := v.sec } := by rw [hframe, hstart]
  have hswap : ∀ a b c d, { v with hosts := a, bond := b, sec := c, clearedNow := d } =
      { s with hosts := a, bond := b, sec := c, clearedNow := d } := fun a b c d => by rw [hv]
  refine ⟨_, rfl, ?_, ?_, ?_, ?_, u, v, hperst, hbond, rfl⟩
  · exact Eq.trans rfl (hswap _ _ _ _)
  · exact congrArg (· ++ portChans h) hclear
  · intro k hk
    exact (State.host_modHost_ne (s := v.clearChans h) _ hk).trans ((hhost k).trans (State.host_modHost_ne s _ hk))
  · rw [State.host_modHost_self]
    exact (congrArg HostPort.cleared ((hhost h).trans (State.host_modHost_self s h HostPort.held))).trans
      (HostPort.cleared_held (s.host h))

/-! ## A link goes down (R394) -/

theorem State.logFree_host (l : List Nat) (k : Nat) :
    ∃ y, (s.logFree h l).host k = { s.host k with space := y } := by
  refine List.foldlRecOn l _ (motive := fun t : State => ∃ y, t.host k = { s.host k with space := y })
    ⟨_, rfl⟩ ?_
  rintro t ⟨y, ht⟩ b _
  dsimp only
  split
  · rw [State.host_modHost]
    split
    · next hk =>
      subst hk
      have hswap : ∀ z, { t.host k with space := z } = { s.host k with space := z } := fun z => by rw [ht]
      exact ⟨_, hswap _⟩
    · exact ⟨y, ht⟩
  · exact ⟨y, ht⟩

theorem State.logRead_host (r : HostResult) (k : Nat) :
    ∃ y, (s.logRead h r).host k = { s.host k with space := y } := by
  have hmod : ∀ (u : State) (g : HostPort → CfgSpace), ∃ y,
      (u.modHost h fun x => { x with space := g x }).host k = { u.host k with space := y } := by
    intro u g
    rw [State.host_modHost]
    split
    · next hk => rw [hk]; exact ⟨_, rfl⟩
    · exact ⟨_, rfl⟩
  cases r with
  | data bs => exact ⟨_, rfl⟩
  | timeout => exact hmod s _
  | error =>
    unfold State.logRead
    obtain ⟨y, hy⟩ := State.logFree_host (h := h) [12, 16, 18, 19] k
      (s := ({ s with freeCtr := s.freeCtr + 1 } : State).modHost h fun x => { x with space :=
        { x.space with errSta := x.space.errSta ||| (BitVec.ofNat 16 (Config.freeNat s.freeCtr) &&& 0x3000) } })
    obtain ⟨z, hz⟩ := hmod { s with freeCtr := s.freeCtr + 1 } fun x =>
      { x.space with errSta := x.space.errSta ||| (BitVec.ofNat 16 (Config.freeNat s.freeCtr) &&& 0x3000) }
    refine ⟨y, hy.trans ?_⟩
    rw [hz]
    rfl

theorem State.setChan_linkUp (h' : Nat) (secure : Bool) (n : Nat) (x : Chan) (k : Nat) :
    ((s.setChan h' secure n x).host k).linkUp = (s.host k).linkUp := by
  rw [State.setChan, State.host_modHost]
  split
  · next hk =>
    rw [hk]
    cases secure <;> rfl
  · rfl

/-- What the end of an update's fetch leaves. -/
structure UpdateCut (s t : State) (h : Nat) : Prop where
  frame : t = { s with hosts := t.hosts, sec := t.sec }
  linkUp : ∀ k, (t.host k).linkUp = (s.host k).linkUp
  none : (∀ u, s.sec.updating = some u → u.port = h → u.sent = false) → t = s
  cut : ∀ u, s.sec.updating = some u → u.port = h → u.sent = true → (s.chan h true u.ch).busy = true →
    Replied s t h true u.ch 0 [7] ∧ UpdateEnded s t u []

theorem State.cutUpdate_cut : UpdateCut s (s.cutUpdate h) h := by
  unfold State.cutUpdate
  cases hu : s.sec.updating with
  | none => exact ⟨rfl, fun _ => rfl, fun _ => rfl, fun u huu => absurd (hu ▸ huu) (by simp)⟩
  | some u =>
    dsimp only
    by_cases hmine : u.port = h ∧ u.sent = true
    · obtain ⟨rfl, hsent⟩ := hmine
      have hreply : (({ s with sec := s.sec.abandon } : State).updateReply u resFetch) =
          (s.written u []).updateReply u resFetch := by
        unfold State.updateReply State.written Sec.abandon
        rw [hu]
      rw [if_neg (by simp [hsent]), hreply]
      refine ⟨?_, fun k => ?_, fun hno => ?_, fun v hv _ _ hbusy => ?_⟩
      · unfold State.updateReply State.lateReply
        split <;> rfl
      · unfold State.updateReply State.lateReply
        split
        · exact State.setChan_linkUp ..
        · rfl
      · exact absurd hsent (by simp [hno u hu rfl])
      · obtain rfl : u = v := Option.some.inj (hu.symm.trans hv)
        obtain ⟨hended, hreplied⟩ := State.updateReply_ended (k := resFetch) hbusy []
        exact ⟨hreplied, hended⟩
    · have hskip : (decide (u.port ≠ h) || !u.sent) = true := by
        by_cases hport : u.port = h
        · have hunsent : u.sent = false := Bool.eq_false_iff.mpr fun hs => hmine ⟨hport, hs⟩
          rw [hunsent]
          simp
        · simp [hport]
      rw [if_pos hskip]
      refine ⟨rfl, fun _ => rfl, fun _ => rfl, fun v hv hport hsent _ => absurd ?_ hmine⟩
      obtain rfl : u = v := Option.some.inj (hu.symm.trans hv)
      exact ⟨hport, hsent⟩
end

end Sys2Proof.Machine
end

section
/-!
SUPPORT. The bus, the power sequencer and the ends of a cycle, case by case.
-/
namespace Sys2Proof.Machine

/-! ## The pins, cause by cause -/

section
variable {s : State} {h : Nat}

theorem bus_answers (hin : s.pwr.inputOn = true) (count : Nat) (pec : Bool) (v : W32) :
    (count = 4 → pec = true → exec (.smbSetPointer count pec v) s = .next { s with smbPtr := v }) ∧
    (count ≠ 4 ∨ pec = false →
      exec (.smbSetPointer count pec v) s = .next { s with out := s.out ++ [.smb none] } ∧
      exec (.smbWrite count pec v) s = .next { s with out := s.out ++ [.smb none] }) ∧
    (count = 4 → pec = true → s.smbPtr = 0x20000 → s.writable = true →
      exec (.smbWrite count pec v) s = .next { s with
        smbPtr := 0x20004, latches := Tab.erase s.latches 2,
        pwr := { s.pwr with
          capW := if 800 ≤ v.toNat % 4096 ∧ v.toNat % 4096 ≤ 2400 then v.toNat % 4096 else s.pwr.capW } }) ∧
    (count = 4 → pec = true → s.smbPtr = 0x400008 → s.pwr.seq = .on →
      exec (.smbWrite count pec v) s = .next { s with smbPtr := 0x40000C, latches := Tab.erase s.latches 2 }) := by
  refine ⟨fun hcount hpec => ?_, fun hbad => ?_, fun hcount hpec hptr hup => ?_, fun hcount hpec hptr hon => ?_⟩
  · subst hcount hpec
    exact congrArg Host.Outcome.next (State.smbPoint_ok hin v)
  · obtain ⟨hpoint, hstore⟩ := State.smbPoint_nack hin v hbad
    exact ⟨congrArg Host.Outcome.next hpoint, congrArg Host.Outcome.next hstore⟩
  · subst hcount hpec
    refine congrArg Host.Outcome.next ((State.smbStore_ok hin v).trans ?_)
    have hword : s.smbPtr.toNat = 0x20000 := by rw [hptr]; rfl
    rw [hword, State.busWrite_cap hup, hptr]
    rfl
  · subst hcount hpec
    refine congrArg Host.Outcome.next ((State.smbStore_ok hin v).trans ?_)
    have hword : s.smbPtr.toNat = 0x400008 := by rw [hptr]; rfl
    rw [hword, State.busWrite_tag hon, hptr]
    rfl

theorem bus_reads (hin : s.pwr.inputOn = true) :
    exec (.smbRead false) s = .next { s with out := s.out ++ [.smb none] } ∧
    (s.smbPtr = 0x20020 → exec (.smbRead true) s = .next { s with
      smbPtr := 0x20024, latches := Tab.erase s.latches 2,
      out := s.out ++ [.smb (some (BitVec.ofNat 32 (s.pwr.seq.code + (if s.pwr.waitLow then 4 else 0) +
        if s.pwr.en then 8 else 0)))] }) ∧
    (s.smbPtr = 0x80000 → exec (.smbRead true) s = .next { s with
      smbPtr := 0x80004, latches := Tab.erase s.latches 2, out := s.out ++ [.smb (some 0)] }) := by
  refine ⟨congrArg Host.Outcome.next (State.smbFetch_nack hin), fun hptr => ?_, fun hptr => ?_⟩
  · have hword : s.smbPtr.toNat = 0x20020 := by rw [hptr]; rfl
    have hread := (congrArg (fun a => s.regRead 2 a 4) hword).trans State.busRead_seq
    refine congrArg Host.Outcome.next ((State.smbFetch_ok hin (by rw [hword]; decide) hread).trans ?_)
    rw [hptr]
    rfl
  · have hword : s.smbPtr.toNat = 0x80000 := by rw [hptr]; rfl
    have hread := (congrArg (fun a => s.regRead 2 a 4) hword).trans State.busRead_none
    refine congrArg Host.Outcome.next ((State.smbFetch_ok hin (by rw [hword]; decide) hread).trans ?_)
    rw [hptr]
    rfl

theorem State.inputLoss_lost : s.inputLoss.pwr = Pwr.reset ∧ s.inputLoss.mem = [] ∧ s.inputLoss.ls = [] ∧
    s.inputLoss.cs = [] ∧ s.inputLoss.bu = Bu.reset ∧ s.inputLoss.bond = Bond.reset ∧ s.inputLoss.rte = Rte.reset ∧
    s.inputLoss.cfg = Cfg.reset ∧ s.inputLoss.sec.records = s.sec.records ∧ s.inputLoss.sec.arb = s.sec.arb ∧
    ∀ h, s.inputLoss.host h = { HostPort.reset with perst := (s.host h).perst } :=
  ⟨rfl, rfl, rfl, rfl, rfl, rfl, rfl, rfl, s.coreOff_records, s.coreOff_arb, s.coreOff_host⟩

variable (feed : BitVec 4) (frzN : Bool) (bad : Option Nat)

theorem Risen.of_eq {u t : State} {feed : BitVec 4} {frzN : Bool} {bad : Option Nat} (r : Risen u t feed frzN bad)
    (hgen : u.gen = s.gen) (hsec : u.sec = s.sec) : Risen s t feed frzN bad := by
  obtain ⟨hstores, ⟨hfeed, hpin, htime, hserial⟩, hwater, hcfg, hrecords, hbu, hpwr⟩ := r
  rw [hgen] at hserial
  rw [hsec] at hrecords
  exact ⟨hstores, ⟨hfeed, hpin, htime, hserial⟩, hwater, hcfg, hrecords, hbu, hpwr⟩

theorem State.pwrRise_risen (hin : s.pwr.inputOn = true) (hoff : s.pwr.seq = .off)
    (hfree : ¬ (s.pwr.waitLow = true ∨ (s.pwr.lossValid = true ∧ s.pwr.lossCause = 1 ∧ s.pwr.vin.toNat < 47000))) :
    Risen s (s.pwrRise feed frzN bad) feed frzN bad := by
  have hstart : ({ s with pwr := { s.pwr with en := true } } : State).mayStart = true :=
    State.mayStart_iff.mpr ⟨hin, rfl, hoff, hfree⟩
  rw [State.pwrRise_eq _ _ _ hin, if_pos hstart]
  exact (State.bu0_risen _ _ _ _).of_eq rfl rfl

theorem State.pwrRise_held (hin : s.pwr.inputOn = true) (hheld : s.pwr.seq ≠ .off ∨
    (s.pwr.waitLow = true ∨ (s.pwr.lossValid = true ∧ s.pwr.lossCause = 1 ∧ s.pwr.vin.toNat < 47000))) :
    s.pwrRise feed frzN bad = { s with pwr := { s.pwr with en := true } } := by
  rw [State.pwrRise_eq _ _ _ hin, if_neg]
  intro hstart
  obtain ⟨-, -, hoff, hfree⟩ := State.mayStart_iff.mp hstart
  exact hheld.elim (fun hon => hon hoff) fun hwait => hfree hwait

theorem State.pwrHold_risen (hin : s.pwr.inputOn = true) (hwait : s.pwr.waitLow = true) (hfell : s.pwr.fell = true)
    (hoff : s.pwr.seq = .off) (hen : s.pwr.en = true) (hcause : s.pwr.lossCause ≠ 1) :
    Risen s (s.pwrHold feed frzN bad) feed frzN bad := by
  have hfree : ¬ (false = true ∨ (s.pwr.lossValid = true ∧ s.pwr.lossCause = 1 ∧ s.pwr.vin.toNat < 47000)) := by
    rintro (hlow | ⟨-, hone, -⟩)
    · exact Bool.false_ne_true hlow
    · exact hcause hone
  have hstart : ({ s with pwr := { s.pwr with waitLow := false } } : State).mayStart = true :=
    State.mayStart_iff.mpr ⟨hin, hen, hoff, hfree⟩
  rw [State.pwrHold_eq _ _ _ hwait hfell hoff, if_pos hstart]
  exact (State.bu0_risen _ _ _ _).of_eq rfl rfl

theorem State.pwrHold_waits (hwait : s.pwr.waitLow = true) (hfell : s.pwr.fell = true) (hoff : s.pwr.seq = .off)
    (hen : s.pwr.en = false) : s.pwrHold feed frzN bad = { s with pwr := { s.pwr with waitLow := false } } := by
  rw [State.pwrHold_eq _ _ _ hwait hfell hoff, if_neg]
  intro hstart
  obtain ⟨-, hset, -, -⟩ := State.mayStart_iff.mp hstart
  exact Bool.false_ne_true (hen.symm.trans hset)

/-- Core power goes down for a cause that is not PWR_EN. -/
theorem State.removeCore_cases (cause : Nat) :
    (s.pwr.seq = .on ∨ s.pwr.seq = .rising → s.removeCore cause = s.lost cause) ∧
    (s.pwr.seq = .off → s.removeCore cause = s) ∧
    (s.pwr.seq = .falling → s.removeCore cause = { s with pwr := { s.pwr with
      lossCause := if s.pwr.waitLow = true ∧ s.pwr.lossAt = s.gen.time then min cause s.pwr.lossCause
        else s.pwr.lossCause } }) :=
  ⟨State.removeCore_up cause, State.removeCore_off cause, State.removeCore_falling cause⟩

theorem State.coreRemoved_removed (hfalls : s.pwr.seq = .falling) (hsteps : s.pwr.steps ≤ 1) :
    ∃ t, s.coreRemoved = t ∧ t.pwr.seq = .off ∧ t.pwr.steps = 0 ∧ t.mem = [] ∧ t.ls = [] ∧
      t.cs = [] ∧ t.cfg = Cfg.reset ∧ t.pwr.lossCause = s.pwr.lossCause ∧ t.pwr.lossValid = s.pwr.lossValid ∧
      t.pwr.waitLow = s.pwr.waitLow ∧ t.bond.highWater = s.bond.highWater ∧ t.bu.log = s.bu.log ∧
      t.bu.logCount = s.bu.logCount ∧ t.gen.time = s.gen.time ∧ t.rte.openCtr = s.rte.openCtr ∧
      t.latches = [] ∧ ∀ p, (t.port p).light = false :=
  ⟨_, State.coreRemoved_falling hfalls hsteps, rfl, rfl, rfl, rfl, rfl, rfl, rfl, rfl, rfl, rfl, rfl, rfl, rfl, rfl, rfl,
    s.coreOff_port⟩

/-! ## A cycle of AOCLK, state by state -/

theorem step_tick (hempty : s.pending = []) : step s = .next s.tick := by
  unfold step
  rw [hempty]

theorem State.tick_joined (hin : s.pwr.inputOn = true) (hseq : s.pwr.seq ≠ .rising) : Joined s s.tick := by
  have hdawn := State.dawn_joined (s := s)
  match hs : s.pwr.seq with
  | .rising => exact absurd hs hseq
  | .falling =>
    rw [State.tick_falling hin hs]
    exact hdawn.of_eq rfl rfl rfl
  | .off =>
    rw [State.tick_off hin hs]
    exact hdawn
  | .on =>
    have hnoon : Joined s s.noon := by
      refine hdawn.of_eq ?_ ?_ ?_
      · rw [State.noon_frame, hdawn.setNow]
      · rw [State.noon_frame, hdawn.clearedNow]
      · have hpwr := State.noon_pwr (s := s)
        generalize s.noon.pwr = x at hpwr
        rw [hpwr]
    have htoiled : s.toiled = { s.noon with
        ports := s.toiled.ports, freeCtr := s.toiled.freeCtr, engines := s.toiled.engines, courses := s.toiled.courses,
        parts := s.toiled.parts } := by
      unfold State.toiled
      split
      · rfl
      · obtain ⟨w, hports, htimed, -⟩ := s.noon.worked_timed
        exact frame_of_timed hports htimed
    have htick := State.tick_toiled hin hs
    generalize s.tick = t at htick
    generalize s.toiled = u at htick htoiled
    have hset : t.setNow = s.noon.setNow := by rw [htick, htoiled]
    have hcleared : t.clearedNow = s.noon.clearedNow := by rw [htick, htoiled]
    have hpwr : t.pwr = s.noon.pwr := by rw [htick, htoiled]
    exact hnoon.of_eq hset hcleared (by rw [hpwr])
end

end Sys2Proof.Machine
end

section
/-!
SUPPORT. The management bus, power sequencing, host-port pins, and a cycle of AOCLK: O58.
-/
namespace Sys2Proof.Machine

section
variable {s : State}

/-- What a cycle leaves while core power is on. -/
theorem State.tick_up (hin : s.pwr.inputOn = true) (hseq : s.pwr.seq = .on) :
    SameStores s s.tick ∧ SameFlags s s.tick ∧
    s.tick.gen = { s.gen with time := min (s.gen.time + 1) (2 ^ 64 - 1), frzN := s.tick.gen.frzN } ∧
    (s.gen.frzN = true → s.tick.gen.frzN = true) ∧
    s.tick.pwr.throttleCyc =
      (if s.pwr.ft < 16 then min (s.pwr.throttleCyc + 1) (2 ^ 64 - 1) else s.pwr.throttleCyc) ∧
    (s.frz.frozen = true → s.tick.engines = s.engines ∧ s.tick.courses = s.courses ∧ s.tick.ports = s.ports) := by
  have hnoon := State.noon_frame (s := s)
  have hgen := State.noon_gen hseq
  have hpwr := State.noon_pwr (s := s)
  have htoiled : s.toiled = { s.noon with
      ports := s.toiled.ports, freeCtr := s.toiled.freeCtr, engines := s.toiled.engines, courses := s.toiled.courses,
      parts := s.toiled.parts } ∧ (∀ e f, s.toiled.flagVal e f = s.noon.flagVal e f) ∧
      (s.noon.frz.frozen = true → s.toiled = s.noon) := by
    unfold State.toiled
    split
    · exact ⟨rfl, fun _ _ => rfl, fun _ => rfl⟩
    · next hfrz =>
      obtain ⟨w, hports, htimed, -⟩ := s.noon.worked_timed
      refine ⟨frame_of_timed hports htimed, fun e f => ?_, fun h => absurd h hfrz⟩
      unfold State.flagVal
      rw [eng_of_timed hports htimed e]
  obtain ⟨htoiled, hflags, hfrozen⟩ := htoiled
  have htick := State.tick_toiled hin hseq
  generalize s.tick = t at htick
  generalize s.toiled = u at htick htoiled hflags hfrozen
  generalize s.noon = v at hnoon hgen hpwr htoiled hflags hfrozen
  have hgen' : t.gen = v.gen := by rw [htick, htoiled]
  have hpwr' : t.pwr = v.pwr := by rw [htick, htoiled]
  refine ⟨⟨?_, ?_, ?_⟩, fun e f => ?_, ?_, ?_, ?_, fun hfrz => ?_⟩
  · rw [htick, htoiled, hnoon]
  · rw [htick, htoiled, hnoon]
  · rw [htick, htoiled, hnoon]
  · have hv : v.flagVal e f = s.flagVal e f := by rw [hnoon]; rfl
    have ht : t.flagVal e f = u.flagVal e f := by rw [htick]; rfl
    rw [ht, hflags, hv]
  · rw [hgen']
    exact hgen.1
  · rw [hgen']
    exact hgen.2
  · rw [hpwr', hpwr]
  · have hfrz' : v.frz.frozen = true := by rw [hnoon]; exact hfrz
    rw [htick, hfrozen hfrz', hnoon]
    exact ⟨rfl, rfl, rfl⟩

/-- What the fast domains count in a cycle. -/
theorem State.tick_counts (hin : s.pwr.inputOn = true) (hseq : s.pwr.seq = .on) (hfrz : s.frz.frozen = false) :
    (∀ p < 10, (s.tick.port p).hbAge =
      if (s.port p).fitted then min ((s.port p).hbAge + 1) (2 ^ 32 - 1) else (s.port p).hbAge) ∧
    (∀ e, (s.tick.eng e).itemCyc = (s.eng e).itemCyc +
      if (s.eng e).item ≠ none ∧ s.courseAwake (e / 32) = true then
        ((s.dom (e / 32)).phase + (s.dom (e / 32)).mhz) / 25 else 0) ∧
    (∀ c, s.tick.crs c = { s.crs c with hod := (s.tick.crs c).hod }) ∧
    (∀ c k h, s.hodSlot c k = some h →
      ((∀ e, h.status ≠ .yielded e) → s.tick.hodSlot c k = some h) ∧
      ∀ e v, h.status = .yielded e → h.saved = some v → v.failed = false →
        s.tick.hodSlot c k = some { h with saved := some { v with
          itemCyc := v.itemCyc + (if s.courseAwake (e / 32) = true then
            ((s.dom (e / 32)).phase + (s.dom (e / 32)).mhz) / 25 else 0) } }) ∧
    ∀ e x o w p, s.engines = [(e, x)] → x.nets = [o] → s.stepAt e 0 = some (o, w) → s.live = true →
      s.partOfEngine e = some p → s.timerRuns e w = true →
      (s.tick.eng e).nets = [{ o with step := some { w with timer := w.timer + 1 } }] ∧
      (s.tick.part p).waitCyc = min ((s.part p).waitCyc + 1) (2 ^ 64 - 1) := by
  have hnoon := State.noon_frame (s := s)
  obtain ⟨w, hports, htimed, hlive⟩ := s.noon.worked_timed
  have htoiled : s.toiled = s.noon.worked := if_neg (by rw [hnoon]; simp [hfrz])
  have hvseq : s.noon.pwr.seq = .on := by rw [State.noon_pwr]; exact State.dawn_seq.trans hseq
  have htick := State.tick_toiled hin hseq
  rw [htoiled] at htick
  generalize s.tick = t at htick
  generalize s.noon.worked = u at htick htimed hlive
  generalize s.noon = v at hnoon hports hlive hvseq
  have hport : ∀ p, t.port p = u.port p := fun p => by rw [htick]; rfl
  have heng : ∀ e, t.eng e = u.eng e := fun e => by rw [htick]; rfl
  have hcrs : ∀ c, t.crs c = u.crs c := fun c => by rw [htick]; rfl
  have hslot : ∀ c k, t.hodSlot c k = u.hodSlot c k := fun c k => by rw [htick]; rfl
  have hpart : ∀ p, t.part p = u.part p := fun p => by rw [htick]; rfl
  have hport' : ∀ p, v.port p = s.port p := fun p => by rw [hnoon]; rfl
  have heng' : ∀ e, v.eng e = s.eng e := fun e => by rw [hnoon]; rfl
  have hcrs' : ∀ c, v.crs c = s.crs c := fun c => by rw [hnoon]; rfl
  have hslot' : ∀ c k, v.hodSlot c k = s.hodSlot c k := fun c k => by rw [hnoon]; rfl
  have hpart' : ∀ p, v.part p = s.part p := fun p => by rw [hnoon]; rfl
  have hawake : ∀ c, v.courseAwake c = s.courseAwake c := fun c => by rw [hnoon]; rfl
  have hcycles : ∀ c, v.courseCycles c = ((s.dom c).phase + (s.dom c).mhz) / 25 := fun c => by rw [hnoon]; rfl
  refine ⟨fun p _ => ?_, fun e => ?_, fun c => ?_, fun c k h hh => ⟨fun hstatus => ?_, fun e y hstatus hsaved hlives => ?_⟩,
    fun e x o y p hengines hnets hstep hon hpartOf hruns => ?_⟩
  · have hstreams := port_of_timed hports htimed p
    rw [hport, hstreams, ← hport']
    unfold Port.aged
    split <;> rfl
  · rw [heng, eng_of_timed hports htimed, heng', hawake, hcycles]
  · rw [hcrs, crs_of_timed hports htimed, hcrs']
    rfl
  · rw [hslot, hodSlot_of_timed hports htimed, hslot', hh, Option.map_some, tickSaved_ready hstatus]
  · rw [hslot, hodSlot_of_timed hports htimed, hslot', hh, Option.map_some, tickSaved_yielded hstatus hsaved hlives,
      courseAwake_of_ports hports, courseCycles_of_ports hports, hawake, hcycles]
  · have hengines' : v.engines = [(e, x)] := by rw [hnoon]; exact hengines
    have hstep' : v.stepAt e 0 = some (o, y) := by rw [hnoon]; exact hstep
    have hon' : v.live = true := by
      unfold State.live State.ready at hon ⊢
      rw [hseq] at hon
      rw [hvseq, hnoon]
      exact hon
    have hpartOf' : v.partOfEngine e = some p := by rw [hnoon]; exact hpartOf
    have hruns' : v.timerRuns e y = true := by rw [hnoon]; exact hruns
    rw [heng, hpart, hlive hon', ← hpart']
    exact ticked_single hports hengines' hnets hstep' hpartOf' hruns'

theorem State.tick_fallen (hin : s.pwr.inputOn = true) (hseq : s.pwr.seq = .falling) :
    s.tick = { s with pwr := s.tick.pwr, gen := s.tick.gen, setNow := [], clearedNow := [] } ∧
    s.tick.pwr = { s.pwr with
      steps := if s.pwr.steps = 0 then 0 else max 1 (s.pwr.steps - 1), peak := s.tick.pwr.peak,
      wakeMax := s.tick.pwr.wakeMax, peakNow := 0, wakeNow := 0 } := by
  have htick := State.tick_falling hin hseq
  have hdawn := State.dawn_eq (s := s)
  have hpwr := State.endCycle_pwr (s := s)
  generalize s.tick = t at htick
  generalize s.dawn = d at htick hdawn
  generalize s.endCycle.pwr = x at hdawn hpwr
  subst hpwr
  have hd : d.pwr = { s.pwr with peak := d.pwr.peak, wakeMax := d.pwr.wakeMax, peakNow := 0, wakeNow := 0 } := by
    rw [hdawn]
  constructor
  · rw [htick, hdawn]
  · rw [htick]
    dsimp only
    rw [hd]

/-! ## Host ports, pin by pin -/

/-- A port whose link is down. -/
def HostPort.dropped (x : HostPort) : HostPort := { x with linkUp := false }

variable {h : Nat} (hh : h < 2)

theorem guarded_host {t : State} (hh : h < 2) : guarded (isHost h) t = .next t :=
  guarded_ok (decide_eq_true hh) t

theorem wake_stays {u : State} (d : Nat) (on : Bool) : SameStores u (if on then u.requestWake d else u) ∧
    ∀ k, (if on then u.requestWake d else u).host k = u.host k := by
  have hframe := (u.requestWake_wakesOnly d).frame
  cases on with
  | true =>
    rw [if_pos rfl]
    generalize u.requestWake d = t at hframe
    rw [hframe]
    exact ⟨⟨rfl, rfl, rfl⟩, fun _ => rfl⟩
  | false => exact ⟨⟨rfl, rfl, rfl⟩, fun _ => rfl⟩

include hh

theorem exec_perstAssert (hidle : s.portIdle h) : ∃ t, exec (.perstAssert h) s = .next t ∧
    t = { s with hosts := t.hosts, bond := t.bond, sec := t.sec, clearedNow := t.clearedNow } ∧
    (∀ n < 12, (h, false, n) ∈ t.clearedNow) ∧ (∀ n < 4, (h, true, n) ∈ t.clearedNow) ∧
    (∀ k, k ≠ h → t.host k = s.host k) ∧
    t.host h = { HostPort.reset with perst := true } ∧
    ((s.bondPort h).st = .fetch → (t.bondPort h).st = .refused ∧ (t.bondPort h).code = 0x13) ∧
    ((s.bondPort h).st ≠ .fetch → (∀ y, s.bond.applying ≠ some (h, y)) → (∀ y, s.bond.staged ≠ some (h, y)) →
      t.bondPort h = BondPort.reset) ∧
    (∀ y, (s.bondPort h).st ≠ .fetch → s.bond.applying = none → s.bond.staged = some (h, y) →
      (t.bondPort h).st = .staged) ∧
    t.bond.staged = s.bond.staged ∧ t.bond.applying = s.bond.applying ∧
    ∀ k, k ≠ h → t.bondPort k = s.bondPort k := by
  obtain ⟨t, ht, hframe, hcleared, hothers, hhost, u, v, hperst, hu, hv⟩ := State.perstAssert_spec hidle
  obtain ⟨⟨hbond, hports⟩, hcut, hreset, hstaged⟩ := hperst.of_bond hu hv
  obtain ⟨hns, hsec⟩ := mem_portChans (h := h)
  refine ⟨t, (guarded_host hh).trans (congrArg _ ht), hframe, fun n hn => ?_, fun n hn => ?_, hothers, hhost, hcut, hreset,
    hstaged, by rw [hbond], by rw [hbond], hports⟩
  · rw [hcleared]
    exact List.mem_append_right _ (hns n hn)
  · rw [hcleared]
    exact List.mem_append_right _ (hsec n hn)

theorem exec_perstRelease : ∃ t, exec (.perstRelease h) s = .next t ∧ SameStores s t ∧
    (∀ k, k ≠ h → t.host k = s.host k) ∧ t.host h = { s.host h with perst := false, linkUp := s.masonUp } := by
  obtain ⟨hstores, hhost⟩ := wake_stays
    (u := s.modHost h fun x => { x with perst := false, linkUp := s.masonUp }) (domHost h) s.masonUp
  refine ⟨_, guarded_host hh, hstores, fun k hk => ?_, ?_⟩
  · exact (hhost k).trans (State.host_modHost_ne s _ hk)
  · exact (hhost h).trans (State.host_modHost_self s h _)

theorem exec_hostPortReady (hmason : s.masonUp = true) (hperst : (s.host h).perst = false)
    (hdown : s.hostUsable h = false) : ∃ t, exec (.hostPortReady h) s = .next t ∧ SameStores s t ∧
      (∀ k, k ≠ h → t.host k = s.host k) ∧
      t.host h = { s.host h with linkUp := true, d3hot := false, bme := true } ∧
      (s.sec.updating = none → (∀ p, p < 8 → s.hostOf p = h → ∀ w < 8, (s.ofl p w).copy = none) →
        t.out = s.out ++ if (s.bondPort h).st = .fetch ∧ (s.bondPort h).sent = false then
          (let m := max 1 (min (s.host h).mrrs 4096)
           (List.range (((s.bondPort h).goLen + m - 1) / m)).map fun i =>
             .hostRead h ((s.bondPort h).goSrc + BitVec.ofNat 64 (i * m)) (min m ((s.bondPort h).goLen - i * m)))
          else []) := by
  have hstays := State.hostResume_stays (s := s.modHost h HostPort.opened) (h := h)
  refine ⟨_, guarded_host hh, ?_⟩
  rw [State.hostReady_eq hmason hperst hdown]
  refine ⟨?_, fun k hk => ?_, ?_, fun hupdating hnone => ?_⟩
  · exact State.stores_split hstays.stores
  · exact (hstays.host k).trans (State.host_modHost_ne s _ hk)
  · exact (hstays.host h).trans (State.host_modHost_self s h _)
  · rw [State.hostResume_quiet (s := s.modHost h HostPort.opened) hupdating hnone,
      State.bondRead_out (State.hostUsable_opened hmason hperst)]
    have hmrrs : ((s.modHost h HostPort.opened).host h).mrrs = (s.host h).mrrs := by
      rw [State.host_modHost_self]
      rfl
    unfold readRequests
    rw [hmrrs]
    rfl

theorem exec_hostPortReady_held (hperst : (s.host h).perst = true) : exec (.hostPortReady h) s = .next s := by
  refine (guarded_host hh).trans (congrArg _ ?_)
  exact if_pos (by simp [hperst])

theorem exec_pcieL1Exit : ∃ t, exec (.pcieL1Exit h) s = .next t ∧ SameStores s t ∧
    t.host h = { s.host h with l1 := false } ∧
    (s.masonUp = true → (s.dom (90 + h)).held = false → 2 ≤ (s.dom (90 + h)).level → (t.dom (90 + h)).wakeReq = true) := by
  obtain ⟨hstores, hhost⟩ := wake_stays (u := s.modHost h fun x => { x with l1 := false }) (domHost h) s.masonUp
  refine ⟨_, guarded_host hh, hstores, (hhost h).trans (State.host_modHost_self s h _), fun hmason hheld hlevel => ?_⟩
  unfold State.l1Exit
  dsimp only
  rw [if_pos (show (s.modHost h _).masonUp = true from hmason)]
  exact State.requestWake_wakeReq hheld (.inl hlevel)

/-- The link of a port goes down: what becomes of its BOND block and of an update's fetch. -/
theorem exec_hostLinkDown (hidle : s.portIdle h) : ∃ t, exec (.hostLinkDown h) s = .next t ∧
    t = { s with hosts := t.hosts, bond := t.bond, sec := t.sec, freeCtr := t.freeCtr } ∧ (t.host h).linkUp = false ∧
    ((s.bondPort h).st = .fetch → (s.bondPort h).sent = true →
      (t.bondPort h).st = .refused ∧ (t.bondPort h).code = 0x13) ∧
    ((s.bondPort h).st ≠ .fetch ∨ (s.bondPort h).sent = false → t.bond = s.bond) ∧
    ((∀ u, s.sec.updating = some u → u.port = h → u.sent = false) →
      t.sec = s.sec ∧ ((s.bondPort h).st ≠ .fetch ∨ (s.bondPort h).sent = false →
        t.host h = { s.host h with linkUp := false })) ∧
    ∀ u, s.sec.updating = some u → u.port = h → u.sent = true → (s.chan h true u.ch).busy = true →
      Replied s t h true u.ch 0 [7] ∧ t.sec =
        if (u.second = true ↔ s.sec.runSlot = 0) then { s.sec with slotA := [], updating := none }
        else { s.sec with slotB := [], updating := none } := by
  have hdrop := State.hostErrors_idle (s := s.modHost h HostPort.dropped) hidle
  have hcut := State.cutUpdate_cut (s := s.modHost h HostPort.dropped) (h := h)
  have hchan : ∀ c, (s.modHost h HostPort.dropped).chan h true c = s.chan h true c := fun c => by
    refine State.modHost_chan ?_ h true c
    exact fun _ => ⟨rfl, rfl⟩
  obtain ⟨hframe, hup, hnone, hreply⟩ := hcut
  have hrefused : ∀ v : State, ((v.refuseCode h bondFetch).bondPort h).st = .refused ∧
      ((v.refuseCode h bondFetch).bondPort h).code = 0x13 := by
    intro v
    rw [State.refuseCode, State.refuse, State.bondPort_setBondPort, if_pos rfl]
    exact ⟨rfl, rfl⟩
  have hended : ∀ u v, UpdateEnded (s.modHost h HostPort.dropped) v u [] → v.sec =
      if (u.second = true ↔ s.sec.runSlot = 0) then { s.sec with slotA := [], updating := none }
      else { s.sec with slotB := [], updating := none } := by
    intro u v hu
    obtain ⟨-, hfirst, hsecond⟩ := hu
    split
    · next h => exact hfirst h
    · next h => exact hsecond h
  have hlinkDown : s.linkDown h = if ((s.bondPort h).st == .fetch && (s.bondPort h).sent) = true
      then (((s.modHost h HostPort.dropped).cutUpdate h).refuseCode h bondFetch).logRead h .error
      else (s.modHost h HostPort.dropped).cutUpdate h := by
    rw [← hdrop]
    rfl
  refine ⟨_, guarded_host hh, ?_⟩
  rw [hlinkDown]
  generalize (s.modHost h HostPort.dropped).cutUpdate h = v at hframe hup hnone hreply
  have hv : v = { s with hosts := v.hosts, sec := v.sec } := hframe
  have hbond : v.bond = s.bond := by rw [hv]
  have hdown : (v.host h).linkUp = false := by
    rw [hup, State.host_modHost_self]
    rfl
  by_cases hfetch : (s.bondPort h).st = .fetch ∧ (s.bondPort h).sent = true
  · rw [if_pos (by simp [hfetch])]
    have hlog := (v.refuseCode h bondFetch).logRead_frame h .error
    have hchan' := (v.refuseCode h bondFetch).logRead_chan (h := h) .error
    obtain ⟨y, hy⟩ := State.logRead_host (s := v.refuseCode h bondFetch) (h := h) .error h
    have hnot : ¬ ((s.bondPort h).st ≠ .fetch ∨ (s.bondPort h).sent = false) := by simp [hfetch]
    have hport := hrefused v
    have hsec : (v.refuseCode h bondFetch).sec = v.sec := rfl
    have hstart : v.refuseCode h bondFetch = { v with bond := (v.refuseCode h bondFetch).bond } := rfl
    have hhost : (v.refuseCode h bondFetch).host h = v.host h := rfl
    have hchan'' : ∀ c, (v.refuseCode h bondFetch).chan h true c = v.chan h true c := fun _ => rfl
    generalize v.refuseCode h bondFetch = w at hlog hchan' hy hport hsec hstart hhost hchan''
    generalize w.logRead h .error = t at hlog hchan' hy
    have ht : t = { w with hosts := t.hosts, freeCtr := t.freeCtr } := hlog
    have htsec : t.sec = v.sec := by rw [ht, hsec]
    have htbond : t.bondPort h = w.bondPort h := by rw [ht]; rfl
    refine ⟨?_, ?_, fun _ _ => ?_, fun h' => absurd h' hnot, fun hno => ⟨?_, fun h' => absurd h' hnot⟩,
      fun u hu hport' hsent hbusy => ?_⟩
    · rw [ht, hstart, hv]
    · rw [hy, hhost]
      exact hdown
    · rw [htbond]
      exact hport
    · rw [htsec, hnone hno]
      rfl
    · obtain ⟨hreplied, hend⟩ := hreply u hu hport' hsent ((congrArg Chan.busy (hchan u.ch)).trans hbusy)
      refine ⟨?_, htsec.trans (hended u v hend)⟩
      have hreplied' := replied_of_chan hreplied (hchan u.ch)
      unfold Replied at hreplied' ⊢
      rw [hchan', hchan'']
      exact hreplied'
  · rw [if_neg (by simpa using hfetch)]
    refine ⟨?_, hdown, fun hst hsent => absurd ⟨hst, hsent⟩ hfetch, fun _ => hbond, fun hno => ⟨?_, fun _ => ?_⟩,
      fun u hu hport' hsent hbusy => ?_⟩
    · rw [hv]
    · rw [hnone hno]
      rfl
    · rw [hnone hno, State.host_modHost_self]
      rfl
    · obtain ⟨hreplied, hend⟩ := hreply u hu hport' hsent ((congrArg Chan.busy (hchan u.ch)).trans hbusy)
      exact ⟨replied_of_chan hreplied (hchan u.ch), hended u v hend⟩
end

/-- Settles O58, in three parts: the management bus, power with the cycles of AOCLK, and the pins of each host port. -/
theorem pinsAndPower : Obligations.PinsAndPower := by
  unfold Obligations.PinsAndPower
  refine ⟨fun s hin => ⟨bus_answers hin, bus_reads hin⟩, fun s => ?_, fun s h hh => ?_⟩
  · refine ⟨fun hin => ?_, fun hin => ?_, ⟨_, rfl, s.inputLoss_lost⟩, ?_, fun hempty => ?_, ?_, fun hin hon => ?_,
      fun hfalls hsteps => ?_, fun hother => ?_⟩
    · exact congrArg Host.Outcome.next (if_neg (by simp [hin]))
    · exact congrArg Host.Outcome.next (if_pos hin)
    · intro feed frzN good bad hin held risen
      have hrisen : ∀ t, Risen s t feed frzN (if good then none else some bad) → risen t := by
        intro t r
        have hstrap := r.strap
        obtain ⟨⟨hmem, hls, hcs⟩, ⟨hfeed, hpin, htime, hserial⟩, hwater, hcfg, hrecords, hbu, hseq, hsteps, hbad⟩ := r
        refine ⟨hmem, hls, hcs, hfeed, hpin, htime, hwater, ?_, hcfg, hserial, hrecords, hstrap, hseq, hsteps, ?_, ?_, ?_⟩
        · rw [hbu]
          rfl
        · rw [hbad]
          cases good <;> rfl
        · rw [hbu]
          rfl
        · rw [hbu]
          rfl
      refine ⟨fun hoff hfree => ⟨_, rfl, hrisen _ (State.pwrRise_risen _ _ _ hin hoff hfree)⟩, fun hheld => ?_,
        fun hwait hfell hoff => ⟨fun hen => ?_, fun hen hcause => ⟨_, rfl, hrisen _ ?_⟩⟩⟩
      · exact congrArg Host.Outcome.next (State.pwrRise_held _ _ _ hin hheld)
      · exact congrArg Host.Outcome.next (State.pwrHold_waits _ _ _ hwait hfell hoff hen)
      · exact State.pwrHold_risen _ _ _ hin hwait hfell hoff hen hcause
    · rw [step_tick hempty]
      refine ⟨fun hin => congrArg _ (State.tick_input hin), fun hin => ?_⟩
      intro k
      refine ⟨fun hseq => ?_, fun hseq => ?_, fun hseq => ?_, fun hseq => ?_⟩
      · obtain ⟨hsteps, hmem, hbad, hmore, hlast⟩ := State.tick_climbed hin hseq
        exact ⟨_, rfl, hsteps, hmem, hbad, hmore, hlast⟩
      · obtain ⟨hset, hcleared, hpeak, hwake, hpeaks⟩ := State.tick_joined hin hseq
        exact ⟨_, rfl, hset, hcleared, hpeak, hwake, hpeaks⟩
      · obtain ⟨hframe, hpwr⟩ := State.tick_fallen hin hseq
        exact ⟨_, rfl, hframe, hpwr⟩
      · obtain ⟨hstores, hflags, hgen, hpin, hcyc, hfrozen⟩ := State.tick_up hin hseq
        exact ⟨_, rfl, hstores, hflags, hgen, hpin, hcyc, hfrozen, fun hfrz => State.tick_counts hin hseq hfrz⟩
    · intro row hrow
      obtain rfl | rfl : row = (Instr.underVoltageLockout, 1) ∨ row = (Instr.thermalTrip, 2) := by simpa using hrow
      · obtain ⟨hup, hoff, hfalling⟩ := State.removeCore_cases (s := s) 1
        exact ⟨fun h => congrArg _ (hup h), fun h => congrArg _ (hoff h), fun h => congrArg _ (hfalling h)⟩
      · obtain ⟨hup, hoff, hfalling⟩ := State.removeCore_cases (s := s) 2
        exact ⟨fun h => congrArg _ (hup h), fun h => congrArg _ (hoff h), fun h => congrArg _ (hfalling h)⟩
    · exact congrArg Host.Outcome.next (State.pwrFall_on hin hon)
    · obtain ⟨t, ht, hleft⟩ := State.coreRemoved_removed hfalls hsteps
      exact ⟨t, congrArg Host.Outcome.next ht, hleft⟩
    · exact congrArg Host.Outcome.next (State.coreRemoved_other hother)
  · intro x b idle
    exact ⟨exec_perstAssert hh, exec_perstRelease hh, exec_hostPortReady hh, exec_hostPortReady_held hh,
      exec_hostLinkDown hh, exec_pcieL1Exit hh⟩

end Sys2Proof.Machine
end

section
/-!
SUPPORT. Packets that the module has issued, and where it holds them (R268, R271, R280).
-/
namespace Sys2Proof.Machine

/-! ## Packets that the module has issued (R268, R271, R280) -/

/-- The packets that the module holds: in a send flow, waiting for one, or on their way to the module itself. -/
structure SameFlows (s t : State) : Prop where
  send : t.rte.send = s.rte.send
  waiting : t.rte.waiting = s.rte.waiting
  locals_ : t.rte.locals_ = s.rte.locals_

theorem SameFlows.refl (s : State) : SameFlows s s := ⟨rfl, rfl, rfl⟩

theorem SameFlows.of_rte {s t : State} (h : t.rte = s.rte) : SameFlows s t := by
  refine ⟨?_, ?_, ?_⟩ <;> rw [h]

section
variable (s : State)

theorem State.routeAt_sameFlows (d : Nat) (p : Packet) (cls chan : Nat) (whole : Bool) (inp : Option (Nat × Nat)) :
    SameFlows s (s.routeAt d p cls chan whole inp) := by
  have hctr : ∀ f, SameFlows s (s.modCtr d f) := fun _ => ⟨rfl, rfl, rfl⟩
  unfold State.routeAt
  dsimp only
  generalize (if s.half p.epoch == .loading then 0
    else s.entry d p.epoch (p.tc.toNat * 2 ^ 17 + p.dest.toNat)) = entry
  split
  · exact hctr _
  · split
    · exact hctr _
    · split
      · split
        · exact hctr _
        · exact ⟨rfl, rfl, rfl⟩
      · split
        · split
          · exact ⟨rfl, rfl, rfl⟩
          · exact hctr _
        · split
          · exact ⟨rfl, rfl, rfl⟩
          · exact hctr _

theorem State.noteSeq_rte (op : OpRef) (p : Packet) : (s.noteSeq op p).rte = s.rte := by
  unfold State.noteSeq
  split
  · split <;> rfl
  · rfl

theorem State.noteSeq_other {op : OpRef} {p : Packet} (h : p.opc ≠ 0x12) : s.noteSeq op p = s := by
  unfold State.noteSeq
  split
  · exact if_pos h
  · rfl
end

/-- A packet that satisfies `ok` stands in the flow of its identity, waits, or is on its way to the module itself. -/
def Holds (t : State) (ok : Packet → Prop) : Prop :=
  (∃ id f, t.flow id = some f ∧ ∃ u ∈ f.unacked, ok u.pkt) ∨ (∃ w ∈ t.rte.waiting, ok w.pkt) ∨
    ∃ l ∈ t.rte.locals_, ok l.pkt

section
variable {s t : State} {ok : Packet → Prop}

theorem Holds.sends (h : Holds t ok) : Sends t ok := by
  obtain ⟨id, f, hf, hu⟩ | hw | hl := h
  · exact .inl ⟨f, List.mem_of_find?_eq_some hf, hu⟩
  · exact .inr (.inl hw)
  · exact .inr (.inr hl)

theorem flow_of_send (h : t.rte.send = s.rte.send) (id : FlowId) : t.flow id = s.flow id := by
  unfold State.flow
  rw [h]

theorem Holds.of_same (h : Holds s ok) (hs : SameFlows s t) : Holds t ok := by
  obtain ⟨hsend, hwaiting, hlocals⟩ := hs
  unfold Holds
  simp only [flow_of_send hsend, hwaiting, hlocals]
  exact h

theorem Holds.imp {ok' : Packet → Prop} (h : Holds s ok) (himp : ∀ p, ok p → ok' p) : Holds s ok' := by
  obtain ⟨id, f, hf, u, hu, hok⟩ | ⟨w, hw, hok⟩ | ⟨l, hl, hok⟩ := h
  · exact .inl ⟨id, f, hf, u, hu, himp _ hok⟩
  · exact .inr (.inl ⟨w, hw, himp _ hok⟩)
  · exact .inr (.inr ⟨l, hl, himp _ hok⟩)

/-- A flow that is replaced by itself with more packets. -/
theorem State.flow_setFlow (g : SendFlow) (id : FlowId) :
    (s.setFlow g).flow id = if id = g.id then (s.flow id).map fun _ => g else s.flow id := by
  unfold State.flow State.setFlow State.modRte
  dsimp only
  rw [List.find?_map]
  have hsame : ((fun f : SendFlow => f.id == id) ∘ fun f => if f.id == g.id then g else f) = fun f => f.id == id := by
    funext f
    dsimp only [Function.comp]
    split
    · next hf => rw [beq_iff_eq.mp hf]
    · rfl
  rw [hsame]
  split
  · next hid =>
    subst hid
    cases hf : s.rte.send.find? fun f => f.id == g.id with
    | none => rfl
    | some f =>
      have hmine := List.find?_some hf
      exact congrArg some (if_pos hmine)
  · next hid =>
    cases hf : s.rte.send.find? fun f => f.id == id with
    | none => rfl
    | some f =>
      have hmine : f.id = id := by simpa using List.find?_some hf
      refine congrArg some (if_neg ?_)
      rw [hmine, beq_iff_eq]
      exact hid

theorem State.flow_append {f : SendFlow} {g : Rte → Rte} (hg : (g s.rte).send = s.rte.send ++ [f]) (id : FlowId) :
    (s.modRte g).flow id = (s.flow id).or (if f.id = id then some f else none) := by
  unfold State.flow State.modRte
  dsimp only
  rw [hg, List.find?_append]
  congr 1
  by_cases hid : f.id = id
  · rw [if_pos hid]
    simp [hid]
  · rw [if_neg hid]
    simp [hid]

/-- A packet whose fields that issuing it sets are given. -/
def issued (p : Packet) (seq : BitVec 24) (opn fence : Bool) (hcrc : BitVec 16) (crc : BitVec 32) : Packet :=
  { p with seq := seq, opn := opn, fence := fence, hcrc := hcrc, crc := crc }

/-- A packet issued, whatever those fields. -/
def IsIssued (p q : Packet) : Prop := ∃ seq opn fence hcrc crc, q = issued p seq opn fence hcrc crc

theorem isIssued_self (p : Packet) : IsIssued p p := ⟨p.seq, p.opn, p.fence, p.hcrc, p.crc, rfl⟩

theorem isIssued_sealed (p : Packet) (seq : BitVec 24) (opn fence : Bool) :
    IsIssued p (sealed_ { p with seq := seq, opn := opn, fence := fence }) := ⟨_, _, _, _, _, rfl⟩

/-- A flow in which a packet more is retained. -/
def SendFlow.with_ (f : SendFlow) (u : Sent) : SendFlow :=
  { f with nextSeq := f.nextSeq + 1, unacked := f.unacked ++ [u], flipped := false }

/-- A flow takes its next packet. -/
theorem holds_setFlow {f : SendFlow} {u : Sent} (hflow : s.flow f.id = some f) :
    (∀ ok, Holds s ok → Holds (s.setFlow (f.with_ u)) ok) ∧ Holds (s.setFlow (f.with_ u)) fun p => p = u.pkt := by
  have hnew : (s.setFlow (f.with_ u)).flow f.id = some (f.with_ u) := by
    rw [State.flow_setFlow, if_pos (show f.id = (f.with_ u).id from rfl), hflow]
    rfl
  refine ⟨fun ok hok => ?_, .inl ⟨f.id, _, hnew, u, List.mem_append_right _ (List.mem_singleton.mpr rfl), rfl⟩⟩
  obtain ⟨id, g, hg, v, hv, hokv⟩ | hw | hl := hok
  · by_cases hid : id = f.id
    · subst hid
      obtain rfl : f = g := Option.some.inj (hflow.symm.trans hg)
      exact .inl ⟨f.id, _, hnew, v, List.mem_append_left _ hv, hokv⟩
    · refine .inl ⟨id, g, ?_, v, hv, hokv⟩
      rw [State.flow_setFlow, if_neg (show id ≠ (f.with_ u).id from hid)]
      exact hg
  · exact .inr (.inl hw)
  · exact .inr (.inr hl)

/-- A flow that begins holds no packet yet. -/
theorem holds_append {f : SendFlow} {g : Rte → Rte} (hsend : (g s.rte).send = s.rte.send ++ [f])
    (hwaiting : (g s.rte).waiting = s.rte.waiting) (hlocals : (g s.rte).locals_ = s.rte.locals_)
    (hnone : s.flow f.id = none) : (∀ ok, Holds s ok → Holds (s.modRte g) ok) ∧ (s.modRte g).flow f.id = some f := by
  constructor
  · rintro ok (⟨id, h, hh, hu⟩ | hw | hl)
    · refine .inl ⟨id, h, ?_, hu⟩
      rw [State.flow_append hsend, hh]
      rfl
    · refine .inr (.inl ?_)
      change ∃ w ∈ (g s.rte).waiting, ok w.pkt
      rw [hwaiting]
      exact hw
    · refine .inr (.inr ?_)
      change ∃ l ∈ (g s.rte).locals_, ok l.pkt
      rw [hlocals]
      exact hl
  · rw [State.flow_append hsend, hnone, if_pos rfl]
    rfl

/-- What entering its flow leaves of the packets that the module holds, and of the one that enters. -/
theorem State.launch_holds {w : Waiting} (h : s.launch w = some t) :
    (∀ ok, Holds s ok → Holds t ok) ∧
    Holds t (IsIssued w.pkt) := by
  unfold State.launch at h
  dsimp only at h
  split at h
  · cases h
  rw [← Option.some.inj h]
  clear h
  have hafter : ∀ (v : State) (p : Packet) (hold : Bool),
      SameFlows v (if hold then v.noteSeq w.op p else (v.noteSeq w.op p).routeAt (flowOf w.pkt).sdie p 0 0 true none) := by
    intro v p hold
    have hnote := SameFlows.of_rte (v.noteSeq_rte w.op p)
    split
    · exact hnote
    · obtain ⟨hsend, hwaiting, hlocals⟩ := (v.noteSeq w.op p).routeAt_sameFlows (flowOf w.pkt).sdie p 0 0 true none
      exact ⟨hsend.trans hnote.send, hwaiting.trans hnote.waiting, hlocals.trans hnote.locals_⟩
  have hplaced : ∀ (v : State) (f : SendFlow) (u : Sent) (p : Packet) (hold : Bool), (∀ ok, Holds s ok → Holds v ok) →
      v.flow f.id = some f → u.pkt = p → IsIssued w.pkt p →
      (∀ ok, Holds s ok → Holds (if hold then (v.setFlow (f.with_ u)).noteSeq w.op p
        else ((v.setFlow (f.with_ u)).noteSeq w.op p).routeAt (flowOf w.pkt).sdie p 0 0 true none) ok) ∧
      Holds (if hold then (v.setFlow (f.with_ u)).noteSeq w.op p
        else ((v.setFlow (f.with_ u)).noteSeq w.op p).routeAt (flowOf w.pkt).sdie p 0 0 true none)
        (IsIssued w.pkt) := by
    intro v f u p hold hkeeps hflow hu hp
    obtain ⟨hold', hnew⟩ := holds_setFlow (u := u) hflow
    refine ⟨fun ok hok => (hold' ok (hkeeps ok hok)).of_same (hafter _ p hold), (hnew.imp ?_).of_same (hafter _ p hold)⟩
    rintro q rfl
    rw [hu]
    exact hp
  cases hflow : s.flow (flowOf w.pkt) with
  | some f =>
    have hid : f.id = flowOf w.pkt := by simpa using List.find?_some hflow
    exact hplaced s f _ _ _ (fun _ h => h) (hid ▸ hflow) rfl (isIssued_sealed ..)
  | none =>
    obtain ⟨hkeeps, hfirst⟩ := holds_append (s := s) (f := SendFlow.mk (flowOf w.pkt)
      (Tab.get 0 s.rte.openCtr (flowOf w.pkt).sdie) [] 0 none 0 true) (g := fun r => { r with
        openCtr := Tab.put 0 r.openCtr (flowOf w.pkt).sdie (Tab.get 0 s.rte.openCtr (flowOf w.pkt).sdie + 1),
        send := r.send ++ [SendFlow.mk (flowOf w.pkt)
          (Tab.get 0 s.rte.openCtr (flowOf w.pkt).sdie) [] 0 none 0 true] }) rfl rfl rfl hflow
    exact hplaced _ _ _ _ _ hkeeps hfirst rfl (isIssued_sealed ..)

/-- Packets more wait for their flow, or go to the module itself. -/
theorem Holds.more {ws : List Waiting} {ls : List LocalPkt} (hsend : t.rte.send = s.rte.send)
    (hwaiting : t.rte.waiting = s.rte.waiting ++ ws) (hlocals : t.rte.locals_ = s.rte.locals_ ++ ls) :
    (∀ ok, Holds s ok → Holds t ok) ∧ (∀ w ∈ ws, Holds t (· = w.pkt)) ∧ ∀ l ∈ ls, Holds t (· = l.pkt) := by
  refine ⟨?_, fun w hw => .inr (.inl ⟨w, ?_, rfl⟩), fun l hl => .inr (.inr ⟨l, ?_, rfl⟩)⟩
  · rintro ok (⟨id, f, hf, hu⟩ | ⟨w, hw, hok⟩ | ⟨l, hl, hok⟩)
    · exact .inl ⟨id, f, (flow_of_send hsend id).trans hf, hu⟩
    · exact .inr (.inl ⟨w, hwaiting ▸ List.mem_append_left _ hw, hok⟩)
    · exact .inr (.inr ⟨l, hlocals ▸ List.mem_append_left _ hl, hok⟩)
  · exact hwaiting ▸ List.mem_append_right _ hw
  · exact hlocals ▸ List.mem_append_right _ hl

/-- A sequenced packet is held until it is acknowledged, and so are those before it. -/
theorem State.send_holds {d : Nat} {p : Packet} {ep : Bool} {op : OpRef} {src : Option Loc} {last : Bool}
    (hseq : sequenced (s.stamped d p ep) = true) :
    (∀ ok, Holds s ok → Holds (s.send d p ep op src last) ok) ∧
    Holds (s.send d p ep op src last) (IsIssued (s.stamped d p ep)) := by
  unfold State.send
  dsimp only
  split
  · have hnote := s.noteSeq_rte op { s.stamped d p ep with seq := BitVec.ofNat 24 s.rte.nextOrd }
    generalize s.noteSeq op { s.stamped d p ep with seq := BitVec.ofNat 24 s.rte.nextOrd } = v at hnote
    have hsend := congrArg Rte.send hnote
    have hwaiting := congrArg Rte.waiting hnote
    have hlocal := congrArg Rte.locals_ hnote
    have hlocals := Holds.more (s := v) (ws := []) (t := v.modRte fun r => { r with
      locals_ := r.locals_ ++ [{
        pkt := sealed_ { s.stamped d p ep with seq := BitVec.ofNat 24 s.rte.nextOrd }, op := op, src := src, last := last,
        refusals := 0 }],
      nextOrd := r.nextOrd + 1 }) rfl (List.append_nil _).symm rfl
    obtain ⟨hkeeps, -, hnew⟩ := hlocals
    refine ⟨fun ok hok => hkeeps ok (hok.of_same ⟨hsend, hwaiting, hlocal⟩), (hnew _ (List.mem_singleton.mpr rfl)).imp ?_⟩
    rintro q rfl
    exact ⟨_, _, _, _, _, rfl⟩
  · rw [hseq]
    rw [if_neg (by decide)]
    generalize hw : ({
      die := d, pkt := s.stamped d p ep, op := op, src := src, last := last, ord := s.rte.nextOrd } : Waiting) = w
    have hpkt : w.pkt = s.stamped d p ep := by rw [← hw]
    have hstart : ∀ ok, Holds s ok → Holds (s.modRte fun r => { r with nextOrd := r.nextOrd + 1 }) ok :=
      fun ok hok => hok.of_same ⟨rfl, rfl, rfl⟩
    generalize (s.modRte fun r => { r with nextOrd := r.nextOrd + 1 }) = v at hstart
    have hwait := Holds.more (s := v) (ws := [w]) (ls := [])
      (t := v.modRte fun r => { r with waiting := r.waiting ++ [w] }) rfl rfl (List.append_nil _).symm
    have hwaits : (∀ ok, Holds s ok → Holds (v.modRte fun r => { r with waiting := r.waiting ++ [w] }) ok) ∧
        Holds (v.modRte fun r => { r with waiting := r.waiting ++ [w] }) (IsIssued (s.stamped d p ep)) := by
      obtain ⟨hkeeps, hnew, -⟩ := hwait
      refine ⟨fun ok hok => hkeeps ok (hstart ok hok), (hnew w (List.mem_singleton.mpr rfl)).imp ?_⟩
      rintro q rfl
      rw [hpkt]
      exact isIssued_self _
    split
    · exact hwaits
    · cases hlaunch : v.launch w with
      | none => exact hwaits
      | some u =>
        obtain ⟨hkeeps, hnew⟩ := State.launch_holds hlaunch
        rw [hpkt] at hnew
        exact ⟨fun ok hok => hkeeps ok (hstart ok hok), hnew⟩
end

end Sys2Proof.Machine
end

section
/-!
SUPPORT. What the sends of packets leave of the operations that issue them (R462).
-/
namespace Sys2Proof.Machine

/-! ## The packets of an operation (R266, R309) -/

section
variable {s t : State}

theorem stamped_of_cfg (h : t.cfg = s.cfg) (d : Nat) (p : Packet) (ep : Bool) : t.stamped d p ep = s.stamped d p ep := by
  unfold State.stamped
  rw [h]

theorem SendsOnly.cfg {o : Option Nat} (h : SendsOnly o s t) : t.cfg = s.cfg := by rw [h.frame]

/-- A message to which the receiver answers is sequenced. -/
theorem sequenced_of {p : Packet} (htc : p.tc ≠ 4) (hack : p.opc ≠ 0xF0) (hresp : p.opc ≠ 0xF1) : sequenced p = true := by
  simp only [sequenced, Bool.and_eq_true, decide_eq_true_eq, Bool.not_eq_true', Bool.and_eq_false_iff,
    beq_eq_false_iff_ne]
  exact ⟨⟨htc, hack⟩, .inl hresp⟩

/-- Packets of one operation, one after another, are all held at the end. -/
theorem sends_foldl {α : Type} {d : Nat} {pk : α → Packet} {ep : Bool} {op : OpRef} {src : α → Option Loc}
    {last : α → Bool} : ∀ (l : List α) (s : State), (∀ a ∈ l, sequenced (s.stamped d (pk a) ep) = true) →
    SendsOnly op.engine? s (l.foldl (fun s a => s.send d (pk a) ep op (src a) (last a)) s) ∧
    (∀ ok, Holds s ok → Holds (l.foldl (fun s a => s.send d (pk a) ep op (src a) (last a)) s) ok) ∧
    ∀ a ∈ l, Holds (l.foldl (fun s a => s.send d (pk a) ep op (src a) (last a)) s) (IsIssued (s.stamped d (pk a) ep))
  | [], s, _ => ⟨.refl _ s, fun _ h => h, fun _ h => absurd h (List.not_mem_nil)⟩
  | a :: l, s, hseq => by
    obtain ⟨hmine, hrest⟩ := List.forall_mem_cons.mp hseq
    have honly := s.send_sendsOnly op d (pk a) ep (src a) (last a)
    obtain ⟨hkeeps, hnew⟩ := State.send_holds (op := op) (src := src a) (last := last a) hmine
    rw [List.foldl_cons]
    generalize s.send d (pk a) ep op (src a) (last a) = v at honly hkeeps hnew
    have hstamp : ∀ b, v.stamped d (pk b) ep = s.stamped d (pk b) ep := fun b => stamped_of_cfg honly.cfg ..
    obtain ⟨hsends, hkeep, hall⟩ := sends_foldl (src := src) (last := last) (op := op) (d := d) (pk := pk) (ep := ep) l v
      fun b hb => by rw [hstamp]; exact hrest b hb
    refine ⟨honly.trans hsends, fun ok h => hkeep ok (hkeeps ok h), fun b hb => ?_⟩
    obtain rfl | hb := List.mem_cons.mp hb
    · exact hkeep _ hnew
    · rw [← hstamp]
      exact hall b hb

/-- An operation as the answers to its READs will find it. -/
structure Noted (o o' : NetOp) : Prop where
  same : o' = { o with parts := o'.parts }
  parts : o'.parts.map (fun g => (g.off, g.len)) = o.parts.map fun g => (g.off, g.len)

theorem Noted.refl (o : NetOp) : Noted o o := ⟨rfl, rfl⟩

theorem Noted.trans {o o' o'' : NetOp} (h : Noted o o') (k : Noted o' o'') : Noted o o'' := by
  refine ⟨?_, k.parts.trans h.parts⟩
  have hswap : ∀ l, { o' with parts := l } = { o with parts := l } := fun l => by rw [h.same]
  exact k.same.trans (hswap _)

theorem map_modify_seq (l : List GetPart) (i n : Nat) :
    (l.modify i fun g => { g with seq := some n }).map (fun g => (g.off, g.len)) = l.map fun g => (g.off, g.len) := by
  induction l generalizing i with
  | nil => cases i <;> rfl
  | cons g l ih =>
    cases i with
    | zero => rfl
    | succ i =>
      rw [List.modify_succ_cons, List.map_cons, List.map_cons, ih]

/-- The last operation of an engine, as the sends of its packets leave it. -/
def LastNoted (e : Nat) (l : List NetOp) (o : NetOp) (t : State) : Prop :=
  ∃ o', (t.eng e).nets = l ++ [o'] ∧ Noted o o'

theorem map_others {l : List NetOp} {i : Nat} {f : NetOp → NetOp} (h : ∀ x ∈ l, x.id ≠ i) :
    (l.map fun x => if x.id ≠ i then x else f x) = l :=
  (List.map_congr_left fun x hx => if_pos (h x hx)).trans (List.map_id' l)

theorem State.noteSeq_lastNoted {e : Nat} {l : List NetOp} {o : NetOp} (hfresh : ∀ x ∈ l, x.id ≠ o.id)
    (h : LastNoted e l o s) (p : Packet) : LastNoted e l o (s.noteSeq (.engine e o.id) p) := by
  obtain ⟨o', hnets, hnoted⟩ := h
  have hid : o'.id = o.id := by rw [hnoted.same]
  unfold State.noteSeq
  dsimp only
  split
  · exact ⟨o', hnets, hnoted⟩
  · unfold LastNoted
    rw [State.eng_modEng_self, hnets]
    dsimp only
    rw [List.map_append, map_others hfresh, List.map_singleton, if_neg (not_not.mpr hid)]
    refine ⟨_, rfl, hnoted.trans ⟨rfl, ?_⟩⟩
    dsimp only
    split
    · exact map_modify_seq _ _ _
    · rfl

theorem LastNoted.of_engines {e : Nat} {l : List NetOp} {o : NetOp} (h : LastNoted e l o s)
    (ht : t.engines = s.engines) : LastNoted e l o t := by
  unfold LastNoted
  rw [State.eng_of_engines ht]
  exact h

theorem State.routeAt_engines (d : Nat) (p : Packet) (cls chan : Nat) (whole : Bool) (inp : Option (Nat × Nat)) :
    (s.routeAt d p cls chan whole inp).engines = s.engines := by
  have hmod : ∀ f, (s.modCtr d f).engines = s.engines := fun _ => rfl
  unfold State.routeAt
  dsimp only
  generalize (if s.half p.epoch == .loading then 0
    else s.entry d p.epoch (p.tc.toNat * 2 ^ 17 + p.dest.toNat)) = entry
  split
  · exact hmod _
  · split
    · exact hmod _
    · split
      · split
        · exact hmod _
        · rfl
      · split
        · split
          · rfl
          · exact hmod _
        · split
          · rfl
          · exact hmod _

/-- What sends leave of the operations: those that noting a SEQ leaves, in each of the states in which it may be noted. -/
theorem State.launch_engines {w : Waiting} (h : s.launch w = some t) :
    ∃ (v : State) (p : Packet), v.engines = s.engines ∧ t.engines = (v.noteSeq w.op p).engines ∧ p.opc = w.pkt.opc := by
  unfold State.launch at h
  dsimp only at h
  split at h
  · cases h
  rw [← Option.some.inj h]
  clear h
  have hafter : ∀ (v : State) (p : Packet) (hold : Bool), (if hold then v.noteSeq w.op p
      else (v.noteSeq w.op p).routeAt (flowOf w.pkt).sdie p 0 0 true none).engines = (v.noteSeq w.op p).engines := by
    intro v p hold
    split
    · rfl
    · exact State.routeAt_engines ..
  refine ⟨_, _, ?_, hafter _ _ _, rfl⟩
  change (if _ then s else _ : State).engines = s.engines
  split
  · rfl
  · rfl

theorem State.send_engines (d : Nat) (p : Packet) (ep : Bool) (op : OpRef) (src : Option Loc) (last : Bool) :
    ∃ (v : State) (q : Packet), v.engines = s.engines ∧ q.opc = p.opc ∧ ((s.send d p ep op src last).engines = s.engines ∨
      (s.send d p ep op src last).engines = (v.noteSeq op q).engines) := by
  unfold State.send
  dsimp only
  split
  · exact ⟨s, { s.stamped d p ep with seq := BitVec.ofNat 24 s.rte.nextOrd }, rfl, rfl, .inr rfl⟩
  · split
    · exact ⟨s, p, rfl, rfl, .inl (State.routeAt_engines ..)⟩
    · split
      · exact ⟨s, p, rfl, rfl, .inl rfl⟩
      · generalize hv : (s.modRte fun r => { r with nextOrd := r.nextOrd + 1 }) = v
        have hengines : v.engines = s.engines := by rw [← hv]; rfl
        generalize hw : ({
          die := d, pkt := s.stamped d p ep, op := op, src := src, last := last, ord := s.rte.nextOrd } : Waiting) = w
        have hop : w.op = op := by rw [← hw]
        have hopc : w.pkt.opc = p.opc := by rw [← hw]; rfl
        cases hlaunch : v.launch w with
        | none => exact ⟨s, p, rfl, rfl, .inl hengines⟩
        | some u =>
          obtain ⟨x, q, hx, hu, hq⟩ := State.launch_engines hlaunch
          exact ⟨x, q, hx.trans hengines, hq.trans hopc, .inr (hop ▸ hu)⟩

/-- A send notes no SEQ but a READ's. -/
theorem State.send_quiet {d : Nat} {p : Packet} {ep : Bool} {op : OpRef} {src : Option Loc} {last : Bool}
    (hopc : p.opc ≠ 0x12) : (s.send d p ep op src last).engines = s.engines := by
  obtain ⟨v, q, hv, hq, h | h⟩ := s.send_engines d p ep op src last
  · exact h
  · rw [h, State.noteSeq_other (s := v) (op := op) (p := q) fun hc => hopc (hq.symm.trans hc), hv]

theorem State.send_lastNoted {e : Nat} {l : List NetOp} {o : NetOp} (hfresh : ∀ x ∈ l, x.id ≠ o.id)
    (h : LastNoted e l o s) (d : Nat) (p : Packet) (ep : Bool) (src : Option Loc) (last : Bool) :
    LastNoted e l o (s.send d p ep (.engine e o.id) src last) := by
  obtain ⟨v, q, hv, -, hsame | hnotes⟩ := s.send_engines d p ep (.engine e o.id) src last
  · exact h.of_engines hsame
  · exact (State.noteSeq_lastNoted hfresh (h.of_engines hv) q).of_engines hnotes

end

end Sys2Proof.Machine
end

section
/-!
SUPPORT. The bytes of an operation and the packets that carry them (R192, R266).
-/
namespace Sys2Proof.Machine

/-! ## The bytes of an operation (R192, R266) -/

section
variable {s : State}

theorem State.racyRead_length (l : Loc) (n : Nat) : (s.racyRead l n).1.length = n := by
  unfold State.racyRead
  dsimp only
  split
  · exact s.readLoc_length l n
  · rw [mixBytes_length, List.length_map, List.length_zipIdx]
    exact s.readLoc_length l n

theorem State.racyRead_state (l : Loc) (n : Nat) : ∃ c, (s.racyRead l n).2 = { (s.fetchLoc l n).2 with freeCtr := c } := by
  have hsplit : ∀ (c : Prop) [Decidable c] (x y : List Byte) (v : State) (m : Nat),
      ∃ k, (if c then (x, v) else (y, { v with freeCtr := m })).2 = { v with freeCtr := k } := by
    intro c _ x y v m
    split
    · exact ⟨v.freeCtr, rfl⟩
    · exact ⟨m, rfl⟩
  cases l with
  | ls e off => exact hsplit ..
  | cs c off => exact hsplit ..
  | pier a => exact hsplit ..

theorem State.racyRead_bytes (hquiet : s.noCopies) (l : Loc) (n : Nat) : (s.racyRead l n).1 = s.readLoc l n := by
  rw [State.racyRead_quiet hquiet, State.fetchLoc_fst]

/-- What an operation's packets leave as it was: places, flags, engines, courses. -/
structure Injected (s t : State) : Prop where
  frame : t = { s with
    mcs := t.mcs, doms := t.doms, pwr := t.pwr, freeCtr := t.freeCtr, rte := t.rte, ports := t.ports,
    engines := t.engines }
  eng : ∀ e, t.eng e = { s.eng e with nets := (t.eng e).nets }

theorem Injected.refl (s : State) : Injected s s := ⟨rfl, fun _ => rfl⟩

theorem Injected.trans {t u : State} (h : Injected s t) (k : Injected t u) : Injected s u := by
  constructor
  · have hswap : ∀ a b c d e f g, { t with mcs := a, doms := b, pwr := c, freeCtr := d, rte := e, ports := f, engines := g } =
        { s with mcs := a, doms := b, pwr := c, freeCtr := d, rte := e, ports := f, engines := g } :=
      fun a b c d e f g => by rw [h.frame]
    exact k.frame.trans (hswap _ _ _ _ _ _ _)
  · intro e
    have hswap : ∀ a, { t.eng e with nets := a } = { s.eng e with nets := a } := fun a => by rw [h.eng]
    exact (k.eng e).trans (hswap _)

theorem SendsOnly.injected {o : Option Nat} {t : State} (h : SendsOnly o s t) : Injected s t := by
  refine ⟨?_, h.eng⟩
  have hframe := h.frame
  generalize t.rte = a, t.ports = b, t.engines = c at hframe
  subst hframe
  rfl

theorem State.racyRead_injected (l : Loc) (n : Nat) : Injected s (s.racyRead l n).2 := by
  obtain ⟨c, hc⟩ := s.racyRead_state l n
  have hframe := (s.fetchLoc_storeFrame l n).frame
  have hplaces := (s.fetchLoc_samePlaces l n).stores
  obtain ⟨hls, hcs, hmem⟩ := State.stores_split hplaces
  rw [hc]
  generalize (s.fetchLoc l n).2 = t at hframe hls hcs hmem
  rw [hls, hcs, hmem] at hframe
  constructor
  · rw [hframe]
  · intro e
    rw [hframe]
    rfl

theorem Injected.stores {t : State} (h : Injected s t) : SameStores s t := by
  refine ⟨?_, ?_, ?_⟩ <;> rw [h.frame]

theorem Injected.flags {t : State} (h : Injected s t) : SameFlags s t := fun e f => by
  unfold State.flagVal
  rw [h.eng]

/-- The packets of `n` bytes of a payload. -/
def partOf (bs : List Byte) (i : Nat) : List Byte := (bs.drop (4096 * i)).take 4096

theorem partOf_length {bs : List Byte} {n : Nat} (h : bs.length = n) (i : Nat) :
    (partOf bs i).length = min 4096 (n - 4096 * i) := by
  rw [partOf, List.length_take, List.length_drop, h]

/-- A packet of an operation with its payload. -/
structure Carries (s : State) (o : NetOp) (opc : BitVec 8) (i : Nat) (part : List Byte) (p : Packet) : Prop where
  dest : p.dest = BitVec.ofNat 17 o.dest
  tc : p.tc = BitVec.ofNat 3 o.tc
  opc : p.opc = opc
  addr : p.addr = o.remote + BitVec.ofNat 48 (4096 * i)
  tgtEngine : p.tgtEngine = BitVec.ofNat 11 o.tgtEngine
  tgtFlag : p.tgtFlag = BitVec.ofNat 6 o.tgtFlag
  ctx : p.ctx = BitVec.ofNat 10 o.ctx
  src : p.src = s.cfg.slice.nodeId
  sdie : p.sdie = BitVec.ofNat 2 o.die
  len : p.len = BitVec.ofNat 16 part.length
  payload : p.payload = part

theorem carries_of_issued {o : NetOp} {opc : BitVec 8} {i : Nat} {part : List Byte} {fence : Bool} {p : Packet}
    (h : IsIssued (s.stamped o.die { o.packet opc (4096 * i) part 0 with fence := fence } o.epoch) p) :
    Carries s o opc i part p := by
  obtain ⟨seq, opn, fence, hcrc, crc, rfl⟩ := h
  exact ⟨rfl, rfl, rfl, rfl, rfl, rfl, rfl, rfl, rfl, rfl, rfl⟩

/-- The packets that carry a payload: all held, with the bytes that the read found. -/
theorem State.sendPayload_sends {e : Nat} {o : NetOp} {mid last : BitVec 8} {fence : Bool}
    (htc : BitVec.ofNat 3 o.tc ≠ 4) (hmid : mid ≠ 0x12 ∧ mid ≠ 0xF0 ∧ mid ≠ 0xF1)
    (hlast : last ≠ 0x12 ∧ last ≠ 0xF0 ∧ last ≠ 0xF1) :
    Injected s (s.sendPayload e o mid last fence) ∧ (s.sendPayload e o mid last fence).engines = s.engines ∧
    ∃ bs : List Byte, bs.length = o.len ∧ (s.noCopies → bs = s.readLoc o.loc o.len) ∧
      ∀ i < max 1 ((o.len + 4095) / 4096), Holds (s.sendPayload e o mid last fence)
        (Carries s o (if i = max 1 ((o.len + 4095) / 4096) - 1 then last else mid) i (partOf bs i)) := by
  have hread := s.racyRead_injected o.loc o.len
  have hengines : (s.racyRead o.loc o.len).2.engines = s.engines := by
    obtain ⟨c, hc⟩ := s.racyRead_state o.loc o.len
    rw [hc]
    exact (s.fetchLoc_storeFrame o.loc o.len).engines
  have hbytes := s.racyRead_length o.loc o.len
  have hquiet := fun h => s.racyRead_bytes h o.loc o.len
  unfold State.sendPayload
  dsimp only
  generalize (s.racyRead o.loc o.len).2 = v at hread hengines
  generalize (s.racyRead o.loc o.len).1 = bs at hbytes hquiet
  generalize max 1 ((o.len + 4095) / 4096) = k
  have hcfg : v.cfg = s.cfg := by rw [hread.frame]
  have hopcs : ∀ i, (if decide (i = k - 1) = true then last else mid) = if i = k - 1 then last else mid := fun i => by
    simp only [decide_eq_true_eq]
  have hgood : ∀ i, (if i = k - 1 then last else mid) ≠ 0x12 ∧ (if i = k - 1 then last else mid) ≠ 0xF0 ∧
      (if i = k - 1 then last else mid) ≠ 0xF1 := fun i => by
    split
    · exact hlast
    · exact hmid
  obtain ⟨hsends, -, hholds⟩ := sends_foldl (d := o.die) (ep := o.epoch) (op := .engine e o.id)
    (pk := fun i => { o.packet (if decide (i = k - 1) = true then last else mid) (4096 * i)
      ((bs.drop (4096 * i)).take 4096) 0 with fence := fence && i == 0 })
    (src := fun i => if ((bs.drop (4096 * i)).take 4096).isEmpty then none else some (o.loc.add (4096 * i)))
    (last := fun i => decide (i = k - 1)) (List.range k) v fun i _ => by
      obtain ⟨-, hack, hresp⟩ := hgood i
      rw [← hopcs i] at hack hresp
      exact sequenced_of htc hack hresp
  refine ⟨hread.trans hsends.injected, ?_, bs, hbytes, hquiet, fun i hi => (hholds i (List.mem_range.mpr hi)).imp ?_⟩
  · refine List.foldlRecOn (List.range k) _ (motive := fun t : State => t.engines = s.engines) hengines ?_
    intro t ht i _
    obtain ⟨hread, -, -⟩ := hgood i
    rw [← hopcs i] at hread
    exact (State.send_quiet hread).trans ht
  · intro p hp
    have hc := carries_of_issued hp
    rw [hopcs] at hc
    obtain ⟨h1, h2, h3, h4, h5, h6, h7, h8, h9, h10, h11⟩ := hc
    exact ⟨h1, h2, h3, h4, h5, h6, h7, hcfg ▸ h8, h9, h10, h11⟩

end

end Sys2Proof.Machine
end

section
/-!
SUPPORT. The checks of a network instruction (R97).
-/
namespace Sys2Proof.Machine

/-! ## The checks of a network instruction (R97) -/

section
variable {s u : State} {r : Run} {f : Fields}

theorem netItem_ok (hnet : r.d.net = true) (hre : r.d.reexec = false) : netItem r = .ok () := by
  rw [netItem, require, hnet, hre]
  rfl

theorem require_ok {c : Bool} {x : Err} (h : c = true) : require c x = .ok () := if_pos h

/-- The class of a network operation passes. -/
def classOk (tc : Nat) (bigPut noTc5 : Bool) : Prop :=
  tc = 1 ∨ tc = 2 ∨ tc = 3 ∨ (tc = 5 ∧ noTc5 = false ∧ bigPut = false)

theorem netCheck_ok {b : List Byte} {d : NetDesc} {unused bigPut noTc5 : Bool} (hdest : d.dest < 2 ^ 17)
    (htgt : d.tgtEngine < 2048) (hflag : d.tgtFlag < 48 ∨ d.tgtFlag = 255) (hpad : fieldAt b 0x1E 2 = 0)
    (hunused : unused = true) (htc : classOk d.tc bigPut noTc5) : netCheck b d unused bigPut noTc5 = .ok () := by
  have hform : (decide (d.dest < 2 ^ 17) && decide (d.tgtEngine < 2048) && fieldAt b 0x1E 2 == 0 &&
      (decide (d.tgtFlag < 48) || d.tgtFlag == 255)) = true := by
    simp only [Bool.and_eq_true, Bool.or_eq_true, decide_eq_true_eq, beq_iff_eq]
    exact ⟨⟨⟨hdest, htgt⟩, hpad⟩, hflag⟩
  have hclass : (d.tc == 1 || d.tc == 2 || d.tc == 3 || (d.tc == 5 && !noTc5 && !bigPut)) = true := by
    obtain h | h | h | ⟨h, hno, hbig⟩ := htc
    · simp [h]
    · simp [h]
    · simp [h]
    · simp [h, hno, hbig]
  unfold netCheck
  rw [require_ok hform, require_ok hunused, require_ok hclass]
  rfl

/-- The class that a packet carries. -/
theorem class_packet {tc : Nat} {bigPut noTc5 : Bool} (h : classOk tc bigPut noTc5) :
    BitVec.ofNat 3 tc ≠ 4 ∧ (BitVec.ofNat 3 tc).toNat = tc := by
  obtain rfl | rfl | rfl | ⟨rfl, -⟩ := h <;> decide

theorem tgtFlag_packet {n : Nat} (h : n < 48 ∨ n = 255) : (tgtFlag n).toNat = (if n = 255 then 63 else n) ∧
    (BitVec.ofNat 6 (tgtFlag n).toNat).toNat = if n = 255 then 63 else n := by
  have hn : (tgtFlag n).toNat = if n = 255 then 63 else n := by
    unfold tgtFlag
    obtain h | rfl := h
    · rw [if_neg (by omega), if_neg (by omega), BitVec.toNat_ofNat]
      omega
    · rfl
  rw [BitVec.ofNat_toNat, BitVec.setWidth_eq]
  exact ⟨hn, hn⟩

theorem netFields_ok (hb : f.b = 0) (hc : f.c = 0) (him : f.imm = 0) : checkFields f .any .any .no .no 0 = .ok () :=
  checkFields_of rfl rfl (Use.ok_no hb) (Use.ok_no hc) (by rw [him]; rfl)

theorem State.netIssue_goes {o : NetOp} {go : State → State} (hroom : (u.eng r.e).netCount < 16) :
    u.netIssue r o go = go (u.pushNet r.e o) := if_neg (Nat.not_le.mpr hroom)

/-- The operation that NPUT hangs. -/
def State.putOp (u : State) (r : Run) (flag : Nat) (d : NetDesc) (loc : Loc) (a : BitVec 48) : NetOp :=
  { u.newNet r 0x80 .put flag with
    dest := d.dest, tc := d.tc, loc := loc, remote := a, len := d.len, tgtEngine := d.tgtEngine,
    tgtFlag := (tgtFlag d.tgtFlag).toNat, sent := true }

/-- The operation that NGET hangs. -/
def State.getOp (u : State) (r : Run) (flag : Nat) (d : NetDesc) (loc : Loc) (a : BitVec 48) : NetOp :=
  { u.newNet r 0x81 .get flag with
    dest := d.dest, tc := d.tc, loc := loc, remote := a, len := d.len, sent := true,
    parts := (List.range ((d.len + 4095) / 4096)).map fun i =>
      { seq := none, off := 4096 * i, len := min 4096 (d.len - 4096 * i) } }

/-- The operation that NFLAG hangs. -/
def State.flagOp (u : State) (r : Run) (flag : Nat) (d : NetDesc) (n : Nat) : NetOp :=
  { u.newNet r 0x82 .flag flag with
    dest := d.dest, tc := d.tc, tgtEngine := d.tgtEngine, tgtFlag := (tgtFlag d.tgtFlag).toNat, amount := n, sent := true }

section
variable {b : List Byte} (hb : f.b = 0) (hc : f.c = 0) (him : f.imm = 0) (hd : f.d < 48) (hnet : r.d.net = true)
  (hre : r.d.reexec = false) (hlow : ((u.eng r.e).gr f.a).toNat + 32 ≤ 0x60000) (hroom : (u.eng r.e).netCount < 16)
  (hbytes : u.lsRead r.e ((u.eng r.e).gr f.a).toNat 32 = b) (hdest : (netDesc b).dest < 2 ^ 17)
  (htgt : (netDesc b).tgtEngine < 2048) (hflag : (netDesc b).tgtFlag < 48 ∨ (netDesc b).tgtFlag = 255)
  (hpad : fieldAt b 0x1E 2 = 0)
include hb hc him hd hnet hre hlow hbytes hdest htgt hflag hpad

theorem nputBody_eq (hroom : (u.eng r.e).netCount < 16) (hamount : fieldAt b 0x1C 2 = 0)
    (htc : classOk (netDesc b).tc (decide ((netDesc b).len > 4096)) false) (heval : r.d.eval = false) {loc : Loc}
    {a : BitVec 48} (hloc : (netDesc b).len ≠ 0 → u.operand r false (netDesc b).local_ (netDesc b).len = .ok loc)
    (hlocal : (netDesc b).len = 0 → loc = .ls r.e 0) (ha : remoteAddr (netDesc b).remote = some a) :
    nputBody f r u = .ok ((u.pushNet r.e (u.putOp r f.d.toNat (netDesc b) loc a)).sendPayload r.e
      (u.putOp r f.d.toNat (netDesc b) loc a) 0x10 0x11 false) := by
  have hcheck := netCheck_ok (b := b) hdest htgt hflag hpad (beq_iff_eq.mpr hamount) htc
  have hnoeval : require (!r.d.eval) (err faultAccess) = .ok () := require_ok (by rw [heval]; rfl)
  by_cases hlen : (netDesc b).len = 0
  · rw [hlocal hlen]
    simp only [nputBody, netFields_ok hb hc him, netItem_ok hnet hre, State.flagCheck_ok hd (.inl hnet),
      State.lsBytes_ok hlow (by decide), hbytes, hcheck, hnoeval, if_pos hlen, ha, bind, Except.bind]
    rw [State.netIssue_goes hroom]
    rfl
  · simp only [nputBody, netFields_ok hb hc him, netItem_ok hnet hre, State.flagCheck_ok hd (.inl hnet),
      State.lsBytes_ok hlow (by decide), hbytes, hcheck, hnoeval, if_neg hlen, hloc hlen, ha, bind, Except.bind]
    rw [State.netIssue_goes hroom]
    rfl

theorem ngetBody_zero (hamount : fieldAt b 0x1C 2 = 0) (htc : classOk (netDesc b).tc false true)
    (hlen : (netDesc b).len = 0) : ngetBody f r u = .ok (u.flagAdd (u.flagEngine r.e) f.d.toNat 1) := by
  have hcheck := netCheck_ok (b := b) hdest htgt hflag hpad (beq_iff_eq.mpr hamount) htc
  simp only [ngetBody, netFields_ok hb hc him, netItem_ok hnet hre, State.flagCheck_ok hd (.inl hnet),
    State.lsBytes_ok hlow (by decide), hbytes, hcheck, hlen, if_true, bind, Except.bind]

theorem ngetBody_eq (hroom : (u.eng r.e).netCount < 16) (hamount : fieldAt b 0x1C 2 = 0)
    (htc : classOk (netDesc b).tc false true) (hlen : (netDesc b).len ≠ 0) {loc : Loc} {a : BitVec 48}
    (hloc : u.operand r true (netDesc b).local_ (netDesc b).len = .ok loc)
    (ha : remoteAddr (netDesc b).remote = some a) :
    ngetBody f r u = .ok ((u.getOp r f.d.toNat (netDesc b) loc a).parts.foldl (fun s g =>
      s.send (r.e / 512) ((u.getOp r f.d.toNat (netDesc b) loc a).packet 0x12 g.off [] g.len) u.rte.inj
        (.engine r.e (u.eng r.e).nextNet) none false) (u.pushNet r.e (u.getOp r f.d.toNat (netDesc b) loc a))) := by
  have hcheck := netCheck_ok (b := b) hdest htgt hflag hpad (beq_iff_eq.mpr hamount) htc
  simp only [ngetBody, netFields_ok hb hc him, netItem_ok hnet hre, State.flagCheck_ok hd (.inl hnet),
    State.lsBytes_ok hlow (by decide), hbytes, hcheck, if_neg hlen, hloc, ha, bind, Except.bind]
  rw [State.netIssue_goes hroom]
  rfl

theorem nflagBody_eq (hroom : (u.eng r.e).netCount < 16)
    (hzero : (netDesc b).local_ = 0 ∧ (netDesc b).remote = 0 ∧ (netDesc b).len = 0)
    (htc : classOk (netDesc b).tc false false) :
    nflagBody f r u = .ok ((u.pushNet r.e (u.flagOp r f.d.toNat (netDesc b) (fieldAt b 0x1C 2))).send (r.e / 512)
      ((u.flagOp r f.d.toNat (netDesc b) (fieldAt b 0x1C 2)).packet 0x14 0 [] (fieldAt b 0x1C 2)) u.rte.inj
        (.engine r.e (u.eng r.e).nextNet) none true) := by
  obtain ⟨hl, hrem, hlen⟩ := hzero
  have hcheck := netCheck_ok (b := b) (unused := (netDesc b).local_ == 0 && (netDesc b).remote == 0 && (netDesc b).len == 0)
    hdest htgt hflag hpad (by rw [hl, hrem, hlen]; rfl) htc
  simp only [nflagBody, netFields_ok hb hc him, netItem_ok hnet hre, State.flagCheck_ok hd (.inl hnet),
    State.lsBytes_ok hlow (by decide), hbytes, hcheck, bind, Except.bind]
  rw [State.netIssue_goes hroom]
  rfl
end
end

end Sys2Proof.Machine
end

section
/-!
SUPPORT. NPUT, NGET and NFLAG: O30.
-/
namespace Sys2Proof.Machine

section
variable {s : State} {e : Nat} {opc : BitVec 8} {f : Fields} {r : Run} {o : NetOp}

/-- The engine that issues, its operation hung. -/
theorem State.pushed_eng (hi : Issues s e opc f r) (o : NetOp) : ((s.modEng e Engine.next).pushNet e o).eng e =
    { s.eng e with pc := (s.eng e).pc + 8, nets := (s.eng e).nets ++ [o], nextNet := o.id + 1 } := by
  rw [State.pushNet, State.eng_modEng_self, State.eng_modEng_self, hi.next_eq]

theorem State.pushed_flagVal (s : State) (e : Nat) (o : NetOp) (e' g : Nat) :
    ((s.modEng e Engine.next).pushNet e o).flagVal e' g = s.flagVal e' g := by
  rw [State.flagVal, State.pushNet, State.eng_modEng]
  split
  · next h =>
    subst h
    exact State.flagVal_next s e' e' g
  · exact State.flagVal_next s e e' g

/-- What an operation hung on its engine, its packets injected, leaves. -/
theorem hung_of (hi : Issues s e opc f r) {v : State} (hv : Injected ((s.modEng e Engine.next).pushNet e o) v)
    (hlast : LastNoted e (s.eng e).nets o v) (n : Nat) : ∃ o', Noted o o' ∧
      SameStores s { v with freeCtr := n } ∧ SameFlags s { v with freeCtr := n } ∧
      ((({ v with freeCtr := n } : State).eng e).nets = (s.eng e).nets ++ [o'] ∧
        (({ v with freeCtr := n } : State).eng e).pc = (s.eng e).pc + 8 ∧
        (({ v with freeCtr := n } : State).eng e).act = .run ∧ ({ v with freeCtr := n } : State).ctxs = s.ctxs ∧
        ({ v with freeCtr := n } : State).courses = s.courses) := by
  obtain ⟨o', hnets, hnoted⟩ := hlast
  obtain ⟨-, hact, -⟩ := State.mayIssue_run hi.2.1
  have heng := hv.eng e
  rw [State.pushed_eng hi] at heng
  refine ⟨o', hnoted, hv.stores, fun e' g => ?_, hnets, ?_, ?_, ?_, ?_⟩
  · exact (hv.flags e' g).trans (s.pushed_flagVal e o e' g)
  · exact congrArg Engine.pc heng
  · exact (congrArg Engine.act heng).trans hact
  · have hctxs := congrArg State.ctxs hv.frame
    exact hctxs
  · have hcourses := congrArg State.courses hv.frame
    exact hcourses

theorem pushed_lastNoted (hi : Issues s e opc f r) (o : NetOp) :
    LastNoted e (s.eng e).nets o ((s.modEng e Engine.next).pushNet e o) :=
  ⟨o, by rw [State.pushed_eng hi], .refl o⟩

theorem noCopies_modEng {g : Engine → Engine} (hg : ∀ x, (g x).copies = x.copies) (h : s.noCopies) (e : Nat) :
    (s.modEng e g).noCopies := by
  intro x hx
  have hcopies : (g (s.eng e)).copies = [] := by
    rw [hg, State.eng, Tab.get]
    cases hf : Tab.find? s.engines e with
    | none => rfl
    | some y => exact h _ (Tab.mem_of_find? hf)
  rcases Tab.mem_of_mem_put hx with rfl | hx
  · exact hcopies
  · exact h x hx

theorem Holds.of_state {s t : State} {ok : Packet → Prop} (h : Holds s ok) (ht : t.rte = s.rte) : Sends t ok :=
  (h.of_same (SameFlows.of_rte ht)).sends

theorem Sends.imp {t : State} {ok ok' : Packet → Prop} (h : Sends t ok) (himp : ∀ p, ok p → ok' p) : Sends t ok' := by
  obtain ⟨x, hx, u, hu, hok⟩ | ⟨w, hw, hok⟩ | ⟨l, hl, hok⟩ := h
  · exact .inl ⟨x, hx, u, hu, himp _ hok⟩
  · exact .inr (.inl ⟨w, hw, himp _ hok⟩)
  · exact .inr (.inr ⟨l, hl, himp _ hok⟩)

/-- What NPUT, NGET and NFLAG check of their descriptor before they look at its class. -/
structure NetIssue (s : State) (e : Nat) (f : Fields) (r : Run) (b : List Byte) : Prop where
  fields : f.b = 0 ∧ f.c = 0 ∧ f.imm = 0
  flag : f.d < 48
  item : r.d.net = true ∧ r.d.reexec = false
  low : ((s.eng e).gr f.a).toNat + 32 ≤ 0x60000
  room : (s.eng e).netCount < 16
  fresh : ∀ o ∈ (s.eng e).nets, o.id ≠ (s.eng e).nextNet
  bytes : s.lsRead e ((s.eng e).gr f.a).toNat 32 = b
  dest : (netDesc b).dest < 2 ^ 17
  tgt : (netDesc b).tgtEngine < 2048
  tgtFlag : (netDesc b).tgtFlag < 48 ∨ (netDesc b).tgtFlag = 255
  pad : fieldAt b 0x1E 2 = 0

/-- An operation hung, as the statement about network operations says it. -/
structure NetHung (s t : State) (e : Nat) (f : Fields) (d : NetDesc) (o : NetOp) : Prop where
  stores : SameStores s t
  flags : SameFlags s t
  engine : (t.eng e).nets = (s.eng e).nets ++ [o] ∧ (t.eng e).pc = (s.eng e).pc + 8 ∧ (t.eng e).act = .run
  rest : t.ctxs = s.ctxs ∧ t.courses = s.courses
  op : o.flag = f.d.toNat ∧ o.flagEngine = s.flagEngine e ∧ o.dest = d.dest ∧ o.tc = d.tc ∧ o.live = true ∧ o.step = none

/-- The packets of an operation as the statement says them. -/
structure NetPacket (s : State) (e : Nat) (d : NetDesc) (ctx : Nat) (p : Packet) : Prop where
  dest : p.dest.toNat = d.dest
  tc : p.tc.toNat = d.tc
  sdie : p.sdie.toNat = e / 512
  src : p.src = s.cfg.slice.nodeId
  ctx : p.ctx.toNat = ctx % 1024

/-- An operation of a descriptor, as far as its packets show it. -/
structure OpOf (e : Nat) (d : NetDesc) (ctx : Nat) (a : BitVec 48) (o : NetOp) : Prop where
  dest : o.dest = d.dest
  tc : o.tc = d.tc
  die : o.die = e / 512
  ctx : o.ctx = ctx
  remote : o.remote = a

theorem Carries.netPacket {w : State} {d : NetDesc} {ctx : Nat} {a : BitVec 48} {code : BitVec 8} {i : Nat}
    {part : List Byte} {p : Packet} (hp : Carries w o code i part p) (ho : OpOf e d ctx a o) (he : e < 2048)
    (hdest : d.dest < 2 ^ 17) (htc : (BitVec.ofNat 3 d.tc).toNat = d.tc) (hcfg : w.cfg = s.cfg) :
    NetPacket s e d ctx p := by
  refine ⟨?_, ?_, ?_, ?_, ?_⟩
  · rw [hp.dest, ho.dest, BitVec.toNat_ofNat, Nat.mod_eq_of_lt hdest]
  · rw [hp.tc, ho.tc, htc]
  · rw [hp.sdie, ho.die, BitVec.toNat_ofNat, Nat.mod_eq_of_lt (by omega)]
  · rw [hp.src, hcfg]
  · rw [hp.ctx, ho.ctx, BitVec.toNat_ofNat]

theorem netPacket_of_issued {w : State} {d : NetDesc} {ctx : Nat} {a : BitVec 48} {code : BitVec 8} {off arg : Nat}
    {part : List Byte} {ep : Bool} {p : Packet} (hp : IsIssued (w.stamped (e / 512) (o.packet code off part arg) ep) p)
    (ho : OpOf e d ctx a o) (he : e < 2048) (hdest : d.dest < 2 ^ 17) (htc : (BitVec.ofNat 3 d.tc).toNat = d.tc)
    (hcfg : w.cfg = s.cfg) : NetPacket s e d ctx p := by
  obtain ⟨seq, opn, fence, hcrc, crc, rfl⟩ := hp
  refine ⟨?_, ?_, ?_, congrArg (fun c : Cfg => c.slice.nodeId) hcfg, ?_⟩
  · change (BitVec.ofNat 17 o.dest).toNat = _
    rw [ho.dest, BitVec.toNat_ofNat, Nat.mod_eq_of_lt hdest]
  · change (BitVec.ofNat 3 o.tc).toNat = _
    rw [ho.tc, htc]
  · change (BitVec.ofNat 2 (e / 512)).toNat = _
    rw [BitVec.toNat_ofNat, Nat.mod_eq_of_lt (by omega)]
  · change (BitVec.ofNat 10 o.ctx).toNat = _
    rw [ho.ctx, BitVec.toNat_ofNat]

theorem sequenced_packet {w : State} {code : BitVec 8} (htc : BitVec.ofNat 3 o.tc ≠ 4) (hack : code ≠ 0xF0)
    (hresp : code ≠ 0xF1) (d off arg : Nat) (part : List Byte) (ep : Bool) :
    sequenced (w.stamped d (o.packet code off part arg) ep) = true := sequenced_of htc hack hresp

section
variable {b : List Byte} (hn : NetIssue s e f r b)
include hn

theorem exec_nput (hi : Issues s e 0x80 f r) (hamount : fieldAt b 0x1C 2 = 0)
    (htc : classOk (netDesc b).tc (decide ((netDesc b).len > 4096)) false) (heval : r.d.eval = false) {loc : Loc}
    {a : BitVec 48} (hloc : (netDesc b).len ≠ 0 → s.operand r false (netDesc b).local_ (netDesc b).len = .ok loc)
    (ha : remoteAddr (netDesc b).remote = some a) :
    ∃ t o, exec (.nput e f) s = .next t ∧ NetHung s t e f (netDesc b) o ∧
      o.tgtEngine = (netDesc b).tgtEngine ∧ o.tgtFlag = (if (netDesc b).tgtFlag = 255 then 63 else (netDesc b).tgtFlag) ∧
      o.kind = .put ∧ o.len = (netDesc b).len ∧ o.remote = a ∧ ((netDesc b).len ≠ 0 → o.loc = loc) ∧
      ∀ i < max 1 (((netDesc b).len + 4095) / 4096), Sends t fun p => NetPacket s e (netDesc b) r.d.ctx p ∧
        (p.tgtEngine.toNat = (netDesc b).tgtEngine ∧
          p.tgtFlag.toNat = if (netDesc b).tgtFlag = 255 then 63 else (netDesc b).tgtFlag) ∧
        p.opc = (if i = max 1 (((netDesc b).len + 4095) / 4096) - 1 then 0x11 else 0x10) ∧
        p.addr = a + BitVec.ofNat 48 (4096 * i) ∧ p.len.toNat = min 4096 ((netDesc b).len - 4096 * i) ∧
        ((netDesc b).len ≠ 0 → s.noCopies → p.payload = ((s.readLoc loc (netDesc b).len).drop (4096 * i)).take 4096) := by
  obtain rfl := hi.run_e
  obtain ⟨⟨hb, hc, him⟩, hd, ⟨hnet, hre⟩, hlow, hroom, hfresh, hbytes, hdest, htgt, hflag, hpad⟩ := hn
  have hself : (s.modEng r.e Engine.next).eng r.e = { s.eng r.e with pc := (s.eng r.e).pc + 8 } := by
    rw [State.eng_modEng_self, hi.next_eq]
  obtain ⟨loc', hloc', hzero⟩ : ∃ l : Loc, ((netDesc b).len ≠ 0 → l = loc) ∧ ((netDesc b).len = 0 → l = .ls r.e 0) := by
    by_cases hlen : (netDesc b).len = 0
    · exact ⟨.ls r.e 0, fun h => absurd hlen h, fun _ => rfl⟩
    · exact ⟨loc, fun _ => rfl, fun h => absurd h hlen⟩
  have hbody := nputBody_eq (u := s.modEng r.e Engine.next) (r := r) (f := f) (b := b) (loc := loc') hb hc him hd hnet hre
    (by rw [hself]; exact hlow) (by rw [hself, State.lsRead_next]; exact hbytes) hdest htgt hflag hpad
    (by rw [hself]; exact hroom) hamount htc heval (fun h => by rw [hloc' h]; exact hloc h) hzero ha
  obtain ⟨n, hexec⟩ := issue_next hi rfl hbody
  have htgtFlag := tgtFlag_packet hflag
  obtain ⟨hclass, hclass'⟩ := class_packet htc
  generalize ho : (s.modEng r.e Engine.next).putOp r f.d.toNat (netDesc b) loc' a = o at hexec
  have hop : OpOf r.e (netDesc b) r.d.ctx a o := by
    rw [← ho]
    exact ⟨rfl, rfl, rfl, rfl, rfl⟩
  have hfields : o.kind = .put ∧ o.loc = loc' ∧ o.len = (netDesc b).len ∧ o.tgtEngine = (netDesc b).tgtEngine ∧
      o.tgtFlag = (tgtFlag (netDesc b).tgtFlag).toNat ∧ o.flag = f.d.toNat ∧ o.live = true ∧ o.step = none := by
    rw [← ho]
    exact ⟨rfl, rfl, rfl, rfl, rfl, rfl, rfl, rfl⟩
  have hflagEngine : o.flagEngine = s.flagEngine r.e := by
    rw [← ho]
    exact State.flagEngine_next ..
  obtain ⟨hkind, hoLoc, hoLen, hoTgt, hoTgtFlag, hoFlag, hoLive, hoStep⟩ := hfields
  obtain ⟨hinj, hengines, bs, hlen, hquiet, hsends⟩ := State.sendPayload_sends (s := (s.modEng r.e Engine.next).pushNet r.e o)
    (e := r.e) (o := o) (mid := 0x10) (last := 0x11) (fence := false) (by rw [hop.tc]; exact hclass) (by decide) (by decide)
  obtain ⟨o', ⟨hsame, -⟩, hstores, hflags, ⟨hnets, hpc, hact, hctxs, hcourses⟩⟩ := hung_of hi hinj
    ((pushed_lastNoted hi o).of_engines hengines) n
  rw [hoLen] at hsends hlen
  refine ⟨_, o', hexec, ⟨hstores, hflags, ⟨hnets, hpc, hact⟩, ⟨hctxs, hcourses⟩, ?_⟩, ?_, ?_, ?_, ?_, ?_, fun hne => ?_,
    fun i hi' => ((hsends i hi').imp fun p hp => ?_).of_state rfl⟩
  · rw [hsame]
    exact ⟨hoFlag, hflagEngine, hop.dest, hop.tc, hoLive, hoStep⟩
  · rw [hsame]
    exact hoTgt
  · rw [hsame, ← htgtFlag.1]
    exact hoTgtFlag
  · rw [hsame]
    exact hkind
  · rw [hsame]
    exact hoLen
  · rw [hsame]
    exact hop.remote
  · rw [hsame]
    exact hoLoc.trans (hloc' hne)
  · have hmax : (partOf bs i).length < 2 ^ 16 := by
      rw [partOf_length hlen]
      omega
    refine ⟨hp.netPacket hop hi.1 hdest hclass' rfl, ⟨?_, ?_⟩, hp.opc, ?_, ?_, fun hne hcopies => ?_⟩
    · rw [hp.tgtEngine, hoTgt, BitVec.toNat_ofNat, Nat.mod_eq_of_lt (by omega)]
    · rw [hp.tgtFlag, hoTgtFlag]
      exact htgtFlag.2
    · rw [hp.addr, hop.remote]
    · rw [hp.len, BitVec.toNat_ofNat, Nat.mod_eq_of_lt hmax, partOf_length hlen]
    · have hcopies' : ((s.modEng r.e Engine.next).pushNet r.e o).noCopies :=
        noCopies_modEng (g := fun x => { x with nets := x.nets ++ [o], nextNet := o.id + 1 }) (fun _ => rfl)
          (State.noCopies_next hcopies) r.e
      rw [hp.payload, hquiet hcopies', hoLoc, hoLen, hloc' hne]
      rfl

theorem exec_nget_zero (hi : Issues s e 0x81 f r) (hamount : fieldAt b 0x1C 2 = 0)
    (htc : classOk (netDesc b).tc false true) (hlen : (netDesc b).len = 0)
    (hawake : s.courseAwake (s.flagEngine e / 32) = true) :
    ∃ t, exec (.nget e f) s = .next t ∧ SameStores s t ∧ (t.eng e).nets = (s.eng e).nets ∧
      (t.eng e).pc = (s.eng e).pc + 8 ∧ ∀ e' f', t.flagVal e' f' =
        if e' = s.flagEngine e ∧ f' = f.d.toNat then s.flagVal e' f' + 1 else s.flagVal e' f' := by
  obtain rfl := hi.run_e
  obtain ⟨⟨hb, hc, him⟩, hd, ⟨hnet, hre⟩, hlow, hroom, hfresh, hbytes, hdest, htgt, hflag, hpad⟩ := hn
  have hself : (s.modEng r.e Engine.next).eng r.e = { s.eng r.e with pc := (s.eng r.e).pc + 8 } := by
    rw [State.eng_modEng_self, hi.next_eq]
  have hbody := ngetBody_zero (u := s.modEng r.e Engine.next) (r := r) (f := f) (b := b) hb hc him hd hnet hre
    (by rw [hself]; exact hlow) (by rw [hself, State.lsRead_next]; exact hbytes) hdest htgt hflag hpad hamount htc hlen
  have hadd : (s.modEng r.e Engine.next).flagAdd (s.flagEngine r.e) f.d.toNat 1 =
      (s.modEng r.e Engine.next).setFlag (s.flagEngine r.e) f.d.toNat
        ((s.modEng r.e Engine.next).flagVal (s.flagEngine r.e) f.d.toNat + 1) := if_pos hawake
  rw [State.flagEngine_next, hadd] at hbody
  obtain ⟨n, hexec⟩ := issue_next hi rfl hbody
  refine ⟨_, hexec, ⟨rfl, rfl, rfl⟩, ?_, ?_, fun e' f' => ?_⟩
  · change (((s.modEng r.e Engine.next).setFlag _ _ _).eng r.e).nets = _
    rw [State.setFlag, State.eng_modEng]
    split
    · next h =>
      rw [← h, hself]
    · rw [hself]
  · change (((s.modEng r.e Engine.next).setFlag _ _ _).eng r.e).pc = _
    rw [State.setFlag, State.eng_modEng]
    split
    · next h =>
      rw [← h, hself]
    · rw [hself]
  · refine (State.flagVal_setFlag _ _ _ _ e' f').trans ?_
    split
    · next h => rw [State.flagVal_next, h.1, h.2]
    · exact State.flagVal_next ..

theorem exec_nget (hi : Issues s e 0x81 f r) (hamount : fieldAt b 0x1C 2 = 0)
    (htc : classOk (netDesc b).tc false true) (hlen : (netDesc b).len ≠ 0) {loc : Loc}
    {a : BitVec 48} (hloc : s.operand r true (netDesc b).local_ (netDesc b).len = .ok loc)
    (ha : remoteAddr (netDesc b).remote = some a) :
    ∃ t o, exec (.nget e f) s = .next t ∧ NetHung s t e f (netDesc b) o ∧ o.kind = .get ∧ o.loc = loc ∧ o.remote = a ∧
      o.parts.map (fun g => (g.off, g.len)) = (List.range (((netDesc b).len + 4095) / 4096)).map
        (fun i => (4096 * i, min 4096 ((netDesc b).len - 4096 * i))) ∧
      ∀ i < ((netDesc b).len + 4095) / 4096, Sends t fun p => NetPacket s e (netDesc b) r.d.ctx p ∧ p.opc = 0x12 ∧
        p.addr = a + BitVec.ofNat 48 (4096 * i) ∧ p.arg.toNat = min 4096 ((netDesc b).len - 4096 * i) := by
  obtain rfl := hi.run_e
  obtain ⟨⟨hb, hc, him⟩, hd, ⟨hnet, hre⟩, hlow, hroom, hfresh, hbytes, hdest, htgt, hflag, hpad⟩ := hn
  have hself : (s.modEng r.e Engine.next).eng r.e = { s.eng r.e with pc := (s.eng r.e).pc + 8 } := by
    rw [State.eng_modEng_self, hi.next_eq]
  have hbody := ngetBody_eq (u := s.modEng r.e Engine.next) (r := r) (f := f) (b := b) hb hc him hd hnet hre
    (by rw [hself]; exact hlow) (by rw [hself, State.lsRead_next]; exact hbytes) hdest htgt hflag hpad
    (by rw [hself]; exact hroom) hamount htc hlen hloc ha
  obtain ⟨n, hexec⟩ := issue_next hi rfl hbody
  obtain ⟨hclass, hclass'⟩ := class_packet htc
  have hid : ((s.modEng r.e Engine.next).eng r.e).nextNet = (s.eng r.e).nextNet := by rw [hself]
  rw [hid] at hexec
  generalize ho : (s.modEng r.e Engine.next).getOp r f.d.toNat (netDesc b) loc a = o at hexec
  have hop : OpOf r.e (netDesc b) r.d.ctx a o := by
    rw [← ho]
    exact ⟨rfl, rfl, rfl, rfl, rfl⟩
  have hfields : o.kind = .get ∧ o.loc = loc ∧ o.flag = f.d.toNat ∧ o.live = true ∧ o.step = none := by
    rw [← ho]
    exact ⟨rfl, rfl, rfl, rfl, rfl⟩
  have hoId : o.id = (s.eng r.e).nextNet := by
    rw [← ho, ← hid]
    rfl
  have hparts : o.parts = (List.range (((netDesc b).len + 4095) / 4096)).map fun i =>
      { seq := none, off := 4096 * i, len := min 4096 ((netDesc b).len - 4096 * i) } := by
    rw [← ho]
    rfl
  have hflagEngine : o.flagEngine = s.flagEngine r.e := by
    rw [← ho]
    exact State.flagEngine_next ..
  obtain ⟨hkind, hoLoc, hoFlag, hoLive, hoStep⟩ := hfields
  obtain ⟨hsent, -, hholds⟩ := sends_foldl (d := r.e / 512) (ep := (s.modEng r.e Engine.next).rte.inj)
    (op := .engine r.e (s.eng r.e).nextNet) (pk := fun g : GetPart => o.packet 0x12 g.off [] g.len) (src := fun _ => none)
    (last := fun _ => false) o.parts ((s.modEng r.e Engine.next).pushNet r.e o) fun g _ =>
      sequenced_packet (by rw [hop.tc]; exact hclass) (by decide) (by decide) _ _ _ _ _
  have hlast : LastNoted r.e (s.eng r.e).nets o (o.parts.foldl (fun v g => v.send (r.e / 512)
      (o.packet 0x12 g.off [] g.len) (s.modEng r.e Engine.next).rte.inj (.engine r.e o.id) none false)
      ((s.modEng r.e Engine.next).pushNet r.e o)) :=
    List.foldlRecOn o.parts _ (motive := fun t => LastNoted r.e (s.eng r.e).nets o t) (pushed_lastNoted hi o)
      fun t ht g _ => State.send_lastNoted (fun x hx => by rw [hoId]; exact hfresh x hx) ht _ _ _ _ _
  rw [hoId] at hlast
  obtain ⟨o', ⟨hsame, hseq⟩, hstores, hflags, ⟨hnets, hpc, hact, hctxs, hcourses⟩⟩ := hung_of hi hsent.injected hlast n
  refine ⟨_, o', hexec, ⟨hstores, hflags, ⟨hnets, hpc, hact⟩, ⟨hctxs, hcourses⟩, ?_⟩, ?_, ?_, ?_, ?_, fun i hi' => ?_⟩
  · rw [hsame]
    exact ⟨hoFlag, hflagEngine, hop.dest, hop.tc, hoLive, hoStep⟩
  · rw [hsame]
    exact hkind
  · rw [hsame]
    exact hoLoc
  · rw [hsame]
    exact hop.remote
  · rw [hseq, hparts, List.map_map]
    rfl
  · have hmem : { seq := none, off := 4096 * i, len := min 4096 ((netDesc b).len - 4096 * i) } ∈ o.parts := by
      rw [hparts]
      exact List.mem_map.mpr ⟨i, List.mem_range.mpr hi', rfl⟩
    refine ((hholds _ hmem).imp fun p hp => ?_).of_state rfl
    have hpacket := netPacket_of_issued (s := s) hp hop hi.1 hdest hclass' rfl
    obtain ⟨seq, opn, fence, hcrc, crc, rfl⟩ := hp
    refine ⟨hpacket, rfl, congrArg (· + _) hop.remote, ?_⟩
    change (BitVec.ofNat 16 (min 4096 ((netDesc b).len - 4096 * i))).toNat = _
    rw [BitVec.toNat_ofNat]
    exact Nat.mod_eq_of_lt (Nat.lt_of_le_of_lt (Nat.min_le_left _ _) (by decide))

theorem exec_nflag (hi : Issues s e 0x82 f r)
    (hzero : (netDesc b).local_ = 0 ∧ (netDesc b).remote = 0 ∧ (netDesc b).len = 0)
    (htc : classOk (netDesc b).tc false false) :
    ∃ t o, exec (.nflag e f) s = .next t ∧ NetHung s t e f (netDesc b) o ∧
      o.tgtEngine = (netDesc b).tgtEngine ∧ o.tgtFlag = (if (netDesc b).tgtFlag = 255 then 63 else (netDesc b).tgtFlag) ∧
      o.kind = .flag ∧ o.amount = fieldAt b 0x1C 2 ∧
      Sends t fun p => NetPacket s e (netDesc b) r.d.ctx p ∧
        (p.tgtEngine.toNat = (netDesc b).tgtEngine ∧
          p.tgtFlag.toNat = if (netDesc b).tgtFlag = 255 then 63 else (netDesc b).tgtFlag) ∧
        p.opc = 0x14 ∧ p.payload = [] ∧ p.arg.toNat = fieldAt b 0x1C 2 := by
  obtain rfl := hi.run_e
  obtain ⟨⟨hb, hc, him⟩, hd, ⟨hnet, hre⟩, hlow, hroom, hfresh, hbytes, hdest, htgt, hflag, hpad⟩ := hn
  have hself : (s.modEng r.e Engine.next).eng r.e = { s.eng r.e with pc := (s.eng r.e).pc + 8 } := by
    rw [State.eng_modEng_self, hi.next_eq]
  have hbody := nflagBody_eq (u := s.modEng r.e Engine.next) (r := r) (f := f) (b := b) hb hc him hd hnet hre
    (by rw [hself]; exact hlow) (by rw [hself, State.lsRead_next]; exact hbytes) hdest htgt hflag hpad
    (by rw [hself]; exact hroom) hzero htc
  obtain ⟨n, hexec⟩ := issue_next hi rfl hbody
  have htgtFlag := tgtFlag_packet hflag
  obtain ⟨hclass, hclass'⟩ := class_packet htc
  have hamount : fieldAt b 0x1C 2 < 2 ^ 16 := fieldAt_lt b 0x1C 2
  generalize ho : (s.modEng r.e Engine.next).flagOp r f.d.toNat (netDesc b) (fieldAt b 0x1C 2) = o at hexec
  have hop : OpOf r.e (netDesc b) r.d.ctx 0 o := by
    rw [← ho]
    exact ⟨rfl, rfl, rfl, rfl, rfl⟩
  have hfields : o.kind = .flag ∧ o.tgtEngine = (netDesc b).tgtEngine ∧
      o.tgtFlag = (tgtFlag (netDesc b).tgtFlag).toNat ∧ o.flag = f.d.toNat ∧ o.live = true ∧ o.step = none ∧
      o.amount = fieldAt b 0x1C 2 := by
    rw [← ho]
    exact ⟨rfl, rfl, rfl, rfl, rfl, rfl, rfl⟩
  have hflagEngine : o.flagEngine = s.flagEngine r.e := by
    rw [← ho]
    exact State.flagEngine_next ..
  obtain ⟨hkind, hoTgt, hoTgtFlag, hoFlag, hoLive, hoStep, hoAmount⟩ := hfields
  have hsends := State.send_sendsOnly ((s.modEng r.e Engine.next).pushNet r.e o)
    (.engine r.e ((s.modEng r.e Engine.next).eng r.e).nextNet) (r.e / 512) (o.packet 0x14 0 [] (fieldAt b 0x1C 2))
    (s.modEng r.e Engine.next).rte.inj none true
  have hquiet := State.send_quiet (s := (s.modEng r.e Engine.next).pushNet r.e o) (d := r.e / 512)
    (p := o.packet 0x14 0 [] (fieldAt b 0x1C 2)) (ep := (s.modEng r.e Engine.next).rte.inj)
    (op := .engine r.e ((s.modEng r.e Engine.next).eng r.e).nextNet) (src := none) (last := true)
    (show (0x14 : BitVec 8) ≠ 0x12 by decide)
  obtain ⟨-, hnew⟩ := State.send_holds (s := (s.modEng r.e Engine.next).pushNet r.e o) (d := r.e / 512)
    (p := o.packet 0x14 0 [] (fieldAt b 0x1C 2)) (ep := (s.modEng r.e Engine.next).rte.inj)
    (op := .engine r.e ((s.modEng r.e Engine.next).eng r.e).nextNet) (src := none) (last := true)
    (sequenced_packet (by rw [hop.tc]; exact hclass) (by decide) (by decide) _ _ _ _ _)
  obtain ⟨o', ⟨hsame, -⟩, hstores, hflags, ⟨hnets, hpc, hact, hctxs, hcourses⟩⟩ := hung_of hi hsends.injected
    ((pushed_lastNoted hi o).of_engines hquiet) n
  refine ⟨_, o', hexec, ⟨hstores, hflags, ⟨hnets, hpc, hact⟩, ⟨hctxs, hcourses⟩, ?_⟩, ?_, ?_, ?_, ?_,
    (hnew.imp fun p hp => ?_).of_state rfl⟩
  · rw [hsame]
    exact ⟨hoFlag, hflagEngine, hop.dest, hop.tc, hoLive, hoStep⟩
  · rw [hsame]
    exact hoTgt
  · rw [hsame, ← htgtFlag.1]
    exact hoTgtFlag
  · rw [hsame]
    exact hkind
  · rw [hsame]
    exact hoAmount
  · have hpacket := netPacket_of_issued (s := s) hp hop hi.1 hdest hclass' rfl
    obtain ⟨seq, opn, fence, hcrc, crc, rfl⟩ := hp
    refine ⟨hpacket, ⟨?_, ?_⟩, rfl, rfl, ?_⟩
    · change (BitVec.ofNat 11 o.tgtEngine).toNat = _
      rw [hoTgt, BitVec.toNat_ofNat, Nat.mod_eq_of_lt (by omega)]
    · change (BitVec.ofNat 6 o.tgtFlag).toNat = _
      rw [hoTgtFlag]
      exact htgtFlag.2
    · change (BitVec.ofNat 16 (fieldAt b 0x1C 2)).toNat = _
      rw [BitVec.toNat_ofNat, Nat.mod_eq_of_lt hamount]
end
end

/-- Settles O30, instruction by instruction. -/
theorem networkIssue : Obligations.NetworkIssue := by
  unfold Obligations.NetworkIssue
  intro s e f r hb hc him hd hnet hre hlow hroom hfresh b d hdest htgt hflag hpad hung target packet names
  have hn : NetIssue s e f r b :=
    ⟨⟨hb, hc, him⟩, hd, ⟨hnet, hre⟩, hlow, hroom, hfresh, rfl, hdest, htgt, hflag, hpad⟩
  have hung_iff : ∀ t o, NetHung s t e f d o → hung t o := by
    rintro t o ⟨hstores, hflags, ⟨hnets, hpc, hact⟩, ⟨hctxs, hcourses⟩, hflag, hflagEngine, hdest, htc, hlive, hstep⟩
    exact ⟨hstores, hflags, hnets, hpc, hact, hctxs, hcourses, hflag, hflagEngine, hdest, htc, hlive, hstep⟩
  have packet_iff : ∀ p, NetPacket s e d r.d.ctx p → packet p := by
    rintro p ⟨hdest, htc, hsdie, hsrc, hctx⟩
    exact ⟨hdest, htc, hsdie, hsrc, hctx⟩
  refine ⟨fun hi hamount htc heval loc a hloc ha => ?_, fun hi hamount htc => ⟨fun hlen hawake => ?_,
    fun hlen loc a hloc ha => ?_⟩, fun hi hlocal hremote hlen htc => ?_⟩
  · have hclass : classOk d.tc (decide (d.len > 4096)) false := by
      obtain h | h | h | ⟨h, hsmall⟩ := htc
      · exact .inl h
      · exact .inr (.inl h)
      · exact .inr (.inr (.inl h))
      · exact .inr (.inr (.inr ⟨h, rfl, decide_eq_false (Nat.not_lt.mpr hsmall)⟩))
    obtain ⟨t, o, hexec, hhung, htgtE, htgtF, hkind, hlen, hremote, hoLoc, hsends⟩ :=
      exec_nput hn hi hamount hclass heval hloc ha
    refine ⟨t, o, hexec, hung_iff t o hhung, ⟨htgtE, htgtF⟩, hkind, hlen, hremote, hoLoc, fun i hi => ?_⟩
    refine Sends.imp (hsends i hi) ?_
    rintro p ⟨hpacket, hnames, hopc, haddr, hplen, hpayload⟩
    exact ⟨packet_iff p hpacket, hnames, hopc, haddr, hplen, hpayload⟩
  · exact exec_nget_zero hn hi hamount (htc.imp_right fun h => h.imp_right .inl) hlen hawake
  · obtain ⟨t, o, hexec, hhung, hkind, hoLoc, hremote, hparts, hsends⟩ :=
      exec_nget hn hi hamount (htc.imp_right fun h => h.imp_right .inl) hlen hloc ha
    refine ⟨t, o, hexec, hung_iff t o hhung, hkind, hoLoc, hremote, hparts, fun i hi => ?_⟩
    refine Sends.imp (hsends i hi) ?_
    rintro p ⟨hpacket, hopc, haddr, harg⟩
    exact ⟨packet_iff p hpacket, hopc, haddr, harg⟩
  · have hclass : classOk d.tc false false :=
      htc.imp_right fun h => h.imp_right fun h => h.imp_right fun h => ⟨h, rfl, rfl⟩
    obtain ⟨t, o, hexec, hhung, htgtE, htgtF, hkind, hamount, hsends⟩ := exec_nflag hn hi ⟨hlocal, hremote, hlen⟩ hclass
    refine ⟨t, o, hexec, hung_iff t o hhung, ⟨htgtE, htgtF⟩, hkind, hamount, Sends.imp hsends ?_⟩
    rintro p ⟨hpacket, hnames, hopc, hpayload, harg⟩
    exact ⟨packet_iff p hpacket, hnames, hopc, hpayload, harg⟩

end Sys2Proof.Machine
end

section
/-!
SUPPORT. What the failure of an operation leaves when its fault halts the partition (R112, R272, R461).
-/
namespace Sys2Proof.Machine

/-! ## What a fault of an operation leaves (R112, R272, R461) -/

/-- Only the halt of a partition differs. -/
def Part.HaltOnly (x y : Part) : Prop :=
  y = { x with halted := y.halted, haltCause := y.haltCause, haltEngine := y.haltEngine, haltNoEngine := y.haltNoEngine,
               haltAt := y.haltAt }

/-- What faults, ends of items and halts may change; of an engine neither its flags nor which operations it has. -/
structure FaultFrame (s t : State) : Prop where
  frame : t = { s with
    engines := t.engines, courses := t.courses, ctxs := t.ctxs, parts := t.parts, setNow := t.setNow }
  flags : ∀ e, (t.eng e).flags = (s.eng e).flags
  nets : ∀ e, (t.eng e).nets.map (·.id) = (s.eng e).nets.map (·.id)
  part : ∀ p, Part.HaltOnly (s.part p) (t.part p)
  halted : ∀ p, (s.part p).halted = true → (t.part p).halted = true

theorem FaultFrame.refl (s : State) : FaultFrame s s := ⟨rfl, fun _ => rfl, fun _ => rfl, fun _ => rfl, fun _ h => h⟩

theorem Part.HaltOnly.trans {x y z : Part} (h : Part.HaltOnly x y) (k : Part.HaltOnly y z) : Part.HaltOnly x z := by
  unfold Part.HaltOnly at *
  have hswap : ∀ a b c d e, { y with halted := a, haltCause := b, haltEngine := c, haltNoEngine := d, haltAt := e } =
      { x with halted := a, haltCause := b, haltEngine := c, haltNoEngine := d, haltAt := e } :=
    fun a b c d e => by rw [h]
  exact k.trans (hswap _ _ _ _ _)

section
variable {s t u : State}

theorem FaultFrame.trans (h : FaultFrame s t) (k : FaultFrame t u) : FaultFrame s u where
  frame := by
    have hswap : ∀ a b c d e, { t with engines := a, courses := b, ctxs := c, parts := d, setNow := e } =
        { s with engines := a, courses := b, ctxs := c, parts := d, setNow := e } := fun a b c d e => by rw [h.frame]
    exact k.frame.trans (hswap _ _ _ _ _)
  flags e := (k.flags e).trans (h.flags e)
  nets e := (k.nets e).trans (h.nets e)
  part p := (h.part p).trans (k.part p)
  halted p hp := k.halted p (h.halted p hp)

theorem FaultFrame.sameFlags (h : FaultFrame s t) : SameFlags s t := fun e f => by
  unfold State.flagVal
  rw [h.flags]

theorem FaultFrame.stores (h : FaultFrame s t) : SameStores s t := by
  have hframe := h.frame
  exact ⟨by rw [hframe], by rw [hframe], by rw [hframe]⟩

theorem FaultFrame.partOfEngine (h : FaultFrame s t) (e : Nat) : t.partOfEngine e = s.partOfEngine e := by
  rw [h.frame]
  rfl

/-- A change of engines alone that keeps flags and operations. -/
theorem faultFrame_modEng (s : State) (e : Nat) {g : Engine → Engine}
    (hg : ∀ x, (g x).flags = x.flags ∧ (g x).nets.map (·.id) = x.nets.map (·.id)) : FaultFrame s (s.modEng e g) := by
  refine ⟨rfl, fun e' => ?_, fun e' => ?_, fun _ => rfl, fun _ h => h⟩
  · rw [State.eng_modEng]
    split
    · next h =>
      rw [h]
      exact (hg _).1
    · rfl
  · rw [State.eng_modEng]
    split
    · next h =>
      rw [h]
      exact (hg _).2
    · rfl

theorem faultFrame_of_eq (h : t = { s with courses := t.courses, ctxs := t.ctxs, setNow := t.setNow }) :
    FaultFrame s t := by
  have hengines : t.engines = s.engines := by rw [h]
  have hparts : t.parts = s.parts := by rw [h]
  have hpart : ∀ p, t.part p = s.part p := fun p => by
    unfold State.part
    rw [hparts]
  refine ⟨?_, fun e => ?_, fun e => ?_, fun p => ?_, fun p hp => ?_⟩
  · rw [hengines, hparts]
    exact h
  · rw [State.eng_of_engines hengines]
  · rw [State.eng_of_engines hengines]
  · rw [hpart]
    rfl
  · rw [hpart]
    exact hp

variable (s)

theorem State.recordFault_faultFrame (e : Nat) (code opc : BitVec 8) (pc : Nat) (a : W64) :
    FaultFrame s (s.recordFault e code opc pc a) := by
  refine (faultFrame_modEng s e (g := Engine.faulted code opc pc a) fun x => ?_).trans (faultFrame_of_eq rfl)
  unfold Engine.faulted
  split <;> exact ⟨rfl, rfl⟩

theorem State.ctxFault_faultFrame (n : Nat) (code opc : BitVec 8) (e : Nat) (seq : W32) :
    FaultFrame s (s.ctxFault n code opc e seq) := faultFrame_of_eq rfl

theorem State.haltPart_faultFrame (p : Nat) (code : BitVec 8) (e : Option Nat) : FaultFrame s (s.haltPart p code e) := by
  have hpart : ∀ q, (s.haltPart p code e).part q = s.part q ∨
      (s.haltPart p code e).part q = { s.part q with
        halted := true, haltCause := code, haltEngine := e.getD 0, haltNoEngine := e.isNone, haltAt := s.gen.time } := by
    intro q
    rw [State.haltPart, State.part_modPart]
    split
    · next hq =>
      subst hq
      dsimp only
      split
      · exact .inl rfl
      · exact .inr rfl
    · exact .inl rfl
  refine ⟨rfl, fun _ => rfl, fun _ => rfl, fun q => ?_, fun q hq => ?_⟩
  · obtain h | h := hpart q
    · rw [h]
      rfl
    · rw [h]
      rfl
  · obtain h | h := hpart q
    · rw [h]
      exact hq
    · rw [h]

theorem State.haltPart_halted (p : Nat) (code : BitVec 8) (e : Option Nat) :
    ((s.haltPart p code e).part p).halted = true := by
  rw [State.haltPart, State.part_modPart_self]
  split
  · next h => exact (Bool.and_eq_true _ _ ▸ h).1
  · rfl

theorem State.dropOps_faultFrame (c k : Nat) : FaultFrame s (s.dropOps c k) := by
  have heng : ∀ e, (s.dropOps c k).eng e = (s.eng e).orphanOps c k := fun e =>
    Tab.get_mapKey (d := Engine.reset) (fun _ x => x.orphanOps c k) (fun _ => rfl) s.engines e
  refine ⟨rfl, fun e => ?_, fun e => ?_, fun _ => rfl, fun _ h => h⟩
  · rw [heng]
    rfl
  · rw [heng, Engine.orphanOps, List.map_map]
    refine List.map_congr_left fun o _ => ?_
    dsimp only [Function.comp]
    split <;> rfl

theorem freeSpawns_courses (l : List (Nat × Nat)) (s : State) : s.freeSpawns l = { s with
    courses := (s.freeSpawns l).courses, ctxs := (s.freeSpawns l).ctxs, setNow := (s.freeSpawns l).setNow } := by
  have hframe := State.freeSpawns_frame l s
  generalize s.freeSpawns l = t at hframe
  rw [hframe]

theorem State.endRunning_faultFrame (e : Nat) : FaultFrame s (s.endRunning e) := by
  unfold State.endRunning
  dsimp only
  split
  · exact .refl s
  · next c k _ =>
    have hspawns : FaultFrame s (s.freeSpawns (s.eng e).spawns) := faultFrame_of_eq (freeSpawns_courses _ s)
    refine (hspawns.trans (State.dropOps_faultFrame _ c k)).trans ((faultFrame_modEng _ e ?_).trans (faultFrame_of_eq rfl))
    exact fun _ => ⟨rfl, rfl⟩

theorem State.endYielded_faultFrame (c k : Nat) : FaultFrame s (s.endYielded c k) := by
  unfold State.endYielded
  split
  · exact .refl s
  · have hspawns : ∀ l, FaultFrame s (s.freeSpawns l) := fun l => faultFrame_of_eq (freeSpawns_courses l s)
    exact ((hspawns _).trans (State.dropOps_faultFrame _ c k)).trans (faultFrame_of_eq rfl)
end

/-! ## A halting failure of an operation (R112, R461) -/

/-- An engine of a halted partition chooses nothing. -/
theorem State.choose_halted {v : State} {e p : Nat} (hp : v.partOfEngine e = some p) (hhalted : (v.part p).halted = true) :
    v.choose e = v := by
  have hno : v.mayChoose e = false := by
    unfold State.mayChoose
    rw [hp]
    simp [State.halted, hhalted]
  unfold State.choose
  rw [hno]
  exact if_neg Bool.false_ne_true
section
variable {s : State} {e c k p : Nat} {code : BitVec 8} (hhalts : haltingCode code = true) (hcheck : code ≠ faultCheck)
include hhalts hcheck

theorem State.itemFault_halts (hp : s.partOfEngine e = some p) (hitem : (s.eng e).item = some (c, k)) (opc : BitVec 8)
    (pc : Nat) (a : W64) : FaultFrame s (s.itemFault e code opc pc a) ∧
      ((s.itemFault e code opc pc a).part p).halted = true := by
  have hrec := s.recordFault_faultFrame e code opc pc a
  have hitem' : ((s.recordFault e code opc pc a).eng e).item = some (c, k) := by
    rw [State.eng_recordFault, Engine.faulted_frame]
    exact hitem
  unfold State.itemFault
  dsimp only
  rw [if_neg hcheck, hitem']
  dsimp only
  rw [if_pos hhalts]
  have hhalt : ∀ v : State, FaultFrame s v →
      FaultFrame s (match v.partOfEngine e with | some p => v.haltPart p code (some e) | none => v) ∧
      ((match v.partOfEngine e with | some p => v.haltPart p code (some e) | none => v).part p).halted = true := by
    intro v hv
    rw [(hv.partOfEngine e).trans hp]
    exact ⟨hv.trans (v.haltPart_faultFrame p code (some e)), v.haltPart_halted p code (some e)⟩
  cases (s.recordFault e code opc pc a).hodSlot c k with
  | none => exact hhalt _ hrec
  | some h => exact hhalt _ (hrec.trans (State.ctxFault_faultFrame _ _ _ _ _ _))

theorem State.asyncFault_halts (hp : s.partOfEngine e = some p) {live : Bool} (hr : live = false ∨ s.runner e c k = e)
    (opc : BitVec 8) (pc : Nat) (a : W64) : FaultFrame s (s.asyncFault e c k live code opc pc a) ∧
      ((s.asyncFault e c k live code opc pc a).part p).halted = true := by
  have hhalt : ∀ v : State, FaultFrame s v → FaultFrame s (v.haltPart p code (some e)) ∧
      ((v.haltPart p code (some e)).part p).halted = true := fun v hv =>
    ⟨hv.trans (v.haltPart_faultFrame p code (some e)), v.haltPart_halted p code (some e)⟩
  have hrec := s.recordFault_faultFrame e code opc pc a
  have hpart : ∀ v : State, FaultFrame s v → v.partOfEngine e = some p := fun v hv => (hv.partOfEngine e).trans hp
  have hne : (code = faultCheck) = False := eq_false hcheck
  unfold State.asyncFault
  simp only [hhalts, if_true, hne, if_false, decide_false, Bool.false_and, Bool.false_eq_true]
  split
  · next hrun =>
    rw [Bool.and_eq_true, beq_iff_eq] at hrun
    obtain ⟨hlive, hitem⟩ := hrun
    obtain hdead | hmine := hr
    · exact absurd (hdead.symm.trans hlive) Bool.false_ne_true
    · rw [hmine] at hitem ⊢
      exact State.itemFault_halts hhalts hcheck hp hitem opc pc a
  · split
    · rw [hpart _ hrec]
      exact hhalt _ hrec
    · next h _ =>
      split
      · rw [hpart _ hrec]
        exact hhalt _ hrec
      · have hend := (hrec.trans (State.ctxFault_faultFrame _ h.desc.ctx code opc e h.desc.seq)).trans
          (State.endYielded_faultFrame _ c k)
        rw [hpart _ hend]
        exact hhalt _ hend

end

end Sys2Proof.Machine
end

section
/-!
SUPPORT. NSTEP: the checks that a step passes, and what its operation is (R309, R311).
-/
namespace Sys2Proof.Machine

/-! ## Steps at issue (R309, R311) -/

section
variable {s u : State} {r : Run} {f : Fields} {b : List Byte}

theorem State.flagCheck_nat {n : Nat} (hlt : n < 48) (hnet : r.d.net = true) : u.flagCheck r n = .ok () := by
  have hno : ¬ (!r.d.net && decide (n ≥ u.cfg.flagSysBase)) = true := by simp [hnet]
  rw [State.flagCheck, if_neg (by omega), if_neg hno]

/-- What a step descriptor says of the wait and the send. -/
def stepWait (b : List Byte) (limit : Nat) : StepWait :=
  { waitEn := bit (fieldAt b 0x1E 1) 0, waitFlag := fieldAt b 0x1C 1, waitCount := fieldAt b 0x1D 1, met := false,
    sendEn := bit (fieldAt b 0x1E 1) 1, fence := bit (fieldAt b 0x1E 1) 2, plan := bit (fieldAt b 0x1E 1) 3,
    planEnd := bit (fieldAt b 0x1E 1) 4, peer := (netDesc b).dest, timer := 0, limit := limit }

/-- The operation that NSTEP hangs. -/
def State.stepOp (u : State) (r : Run) (flag : Nat) (d : NetDesc) (w : StepWait) (x : Loc × BitVec 48 × Nat × Nat) : NetOp :=
  { u.newNet r 0x83 .step flag with
    dest := x.2.2.2, tc := 1, loc := x.1, remote := x.2.1, len := x.2.2.1, tgtEngine := d.tgtEngine,
    tgtFlag := (tgtFlag d.tgtFlag).toNat, step := some w }

/-- The plan of a step's partition is taken. -/
def State.planned (u : State) (p : Nat) (w : StepWait) : State :=
  if w.plan then u.modPart p fun x => { x with planLock := true } else u

/-- A step goes on from its issue. -/
def State.stepGo (u : State) (e : Nat) (o : NetOp) (w : StepWait) : State :=
  if !w.waitEn then u.stepSend e o w
  else if u.stepReady o w && u.stepTurn e ((u.eng e).nets.length - 1) o w then u.stepMet e o w
  else u

theorem stepSpan_plan {d : NetDesc} {w : StepWait} {x : Loc × BitVec 48 × Nat × Nat} (hplan : w.plan = true)
    (hspan : u.stepSpan r d w = .ok x) : (u.part r.part).plan.isNone = false := by
  unfold State.stepSpan at hspan
  rw [if_pos hplan] at hspan
  cases hp : (u.part r.part).plan with
  | none =>
    rw [hp] at hspan
    cases hspan
  | some pl => rfl

theorem nstepBody_eq {h : HodSlot} (hb : f.b = 0) (hc : f.c = 0) (him : f.imm = 0) (hd : f.d < 48) (hnet : r.d.net = true)
    (hre : r.d.reexec = false) (hlow : ((u.eng r.e).gr f.a).toNat + 32 ≤ 0x60000) (hroom : (u.eng r.e).netCount < 16)
    (hbytes : u.lsRead r.e ((u.eng r.e).gr f.a).toNat 32 = b) (hslot : u.hodSlot r.c r.k = some h)
    (hdest : (netDesc b).dest < 2 ^ 17) (htgt : (netDesc b).tgtEngine < 2048)
    (hflag : (netDesc b).tgtFlag < 48 ∨ (netDesc b).tgtFlag = 255) (hctl : bits (fieldAt b 0x1E 1) 7 5 = 0)
    (hpad : fieldAt b 0x1F 1 = 0) (htc : (netDesc b).tc = 1)
    (hdoes : (stepWait b h.limit).waitEn = true ∨ (stepWait b h.limit).sendEn = true)
    (hwait : (stepWait b h.limit).waitFlag ≤ 47)
    (hplan : (stepWait b h.limit).plan = true → (netDesc b).dest = 0 ∧ (netDesc b).local_ = 0 ∧ (netDesc b).remote = 0)
    {x : Loc × BitVec 48 × Nat × Nat} (hspan : u.stepSpan r (netDesc b) (stepWait b h.limit) = .ok x) :
    nstepBody f r u = .ok (((u.pushNet r.e (u.stepOp r f.d.toNat (netDesc b) (stepWait b h.limit) x)).planned r.part
      (stepWait b h.limit)).stepGo r.e (u.stepOp r f.d.toNat (netDesc b) (stepWait b h.limit) x)
        (stepWait b h.limit)) := by
  have hlimit : ((u.hodSlot r.c r.k).map (·.limit)).getD u.cfg.progressUs = h.limit := by rw [hslot]; rfl
  have hform : (decide ((netDesc b).dest < 2 ^ 17) && decide ((netDesc b).tgtEngine < 2048) &&
      bits (fieldAt b 0x1E 1) 7 5 == 0 && fieldAt b 0x1F 1 == 0 &&
      (decide ((netDesc b).tgtFlag < 48) || (netDesc b).tgtFlag == 255)) = true := by
    simp only [Bool.and_eq_true, Bool.or_eq_true, decide_eq_true_eq, beq_iff_eq]
    exact ⟨⟨⟨⟨hdest, htgt⟩, hctl⟩, hpad⟩, hflag⟩
  have hclass : (!((netDesc b).tc == 0 || (netDesc b).tc == 4 || (netDesc b).tc == 6 || (netDesc b).tc == 7)) = true := by
    rw [htc]
    rfl
  have hstep : ((netDesc b).tc == 1 && (bit (fieldAt b 0x1E 1) 0 || bit (fieldAt b 0x1E 1) 1) &&
      decide (fieldAt b 0x1C 1 ≤ 47) && !(bit (fieldAt b 0x1E 1) 3 && ((netDesc b).dest != 0 ||
        (netDesc b).local_ != 0 || (netDesc b).remote != 0 || (u.part r.part).plan.isNone))) = true := by
    have hfree : (bit (fieldAt b 0x1E 1) 3 && ((netDesc b).dest != 0 ||
        (netDesc b).local_ != 0 || (netDesc b).remote != 0 || (u.part r.part).plan.isNone)) = false := by
      by_cases hp : bit (fieldAt b 0x1E 1) 3 = true
      · obtain ⟨h0, h1, h2⟩ := hplan hp
        rw [stepSpan_plan hp hspan, h0, h1, h2, hp]
        rfl
      · rw [Bool.eq_false_iff.mpr hp, Bool.false_and]
    rw [htc, hfree]
    simp only [beq_self_eq_true, Bool.true_and, Bool.not_false, Bool.and_true, Bool.and_eq_true, Bool.or_eq_true,
      decide_eq_true_eq]
    exact ⟨hdoes, hwait⟩
  have hwaits := u.flagCheck_nat (r := r) (n := (stepWait b h.limit).waitFlag) (by omega) hnet
  unfold nstepBody
  rw [netFields_ok hb hc him, netItem_ok hnet hre, State.flagCheck_ok hd (.inl hnet), State.lsBytes_ok hlow (by decide), hbytes]
  simp only [bind, Except.bind, hlimit]
  rw [require_ok hform, require_ok hclass]
  dsimp only
  simp only [stepWait] at hwaits hspan
  rw [require_ok hstep]
  simp only [hwaits, hspan, ite_self]
  rw [State.netIssue_goes hroom]
  rfl
end

end Sys2Proof.Machine
end

section
/-!
SUPPORT. The send of a step: its packets, and the place of its engine (R309, R311).
-/
namespace Sys2Proof.Machine

/-! ## The send of a step (R309, R311) -/

/-- The packets that a step injects. -/
def Injects (s : State) (o : NetOp) (w : StepWait) (t : State) : Prop :=
  ∀ i < max 1 ((o.len + 4095) / 4096), Sends t fun p => p.dest.toNat = o.dest % 2 ^ 17 ∧ p.tc.toNat = o.tc % 8 ∧
    p.opc = (if w.plan then (if i = max 1 ((o.len + 4095) / 4096) - 1 then 0x33 else 0x32)
      else if i = max 1 ((o.len + 4095) / 4096) - 1 then 0x31 else 0x30) ∧
    p.addr = o.remote + BitVec.ofNat 48 (4096 * i) ∧ p.tgtEngine.toNat = o.tgtEngine % 2048 ∧
    p.tgtFlag.toNat = o.tgtFlag % 64 ∧
    (o.len ≠ 0 → s.noCopies → p.payload = ((s.readLoc o.loc o.len).drop (4096 * i)).take 4096)

theorem Injects.of_same {s u t : State} {o : NetOp} {w : StepWait} (h : Injects u o w t) (hplaces : SamePlaces s u)
    (hquiet : s.noCopies → u.noCopies) : Injects s o w t := by
  intro i hi
  refine Sends.imp (h i hi) ?_
  rintro p ⟨hdest, htc, hopc, haddr, htgt, hflag, hpayload⟩
  refine ⟨hdest, htc, hopc, haddr, htgt, hflag, fun hne hs => ?_⟩
  rw [← hplaces.readLoc]
  exact hpayload hne (hquiet hs)

theorem noCopies_of_engines {s t : State} (h : s.noCopies) (ht : t.engines = s.engines) : t.noCopies := by
  unfold State.noCopies
  rw [ht]
  exact h

/-- A step's operation, its send begun. -/
def NetOp.sending (o : NetOp) : NetOp := { o with sent := true }

/-- The opcodes of a step's packets, the last apart. -/
theorem stepSend_eq {u : State} {e : Nat} {o : NetOp} {w : StepWait} (hsend : w.sendEn = true) :
    ∃ mid last : BitVec 8,
      u.stepSend e o w = (u.modNet e o.id NetOp.sending).sendPayload e o mid last w.fence ∧
      (mid ≠ 0x12 ∧ mid ≠ 0xF0 ∧ mid ≠ 0xF1) ∧ (last ≠ 0x12 ∧ last ≠ 0xF0 ∧ last ≠ 0xF1) ∧
      ∀ c : Prop, ∀ [Decidable c], (if c then last else mid) =
        if w.plan then (if c then 0x33 else 0x32) else if c then 0x31 else 0x30 := by
  have hgo : ¬ (!w.sendEn) = true := by simp [hsend]
  cases hplan : w.plan with
  | true =>
    refine ⟨0x32, 0x33, ?_, by decide, by decide, fun c _ => rfl⟩
    unfold State.stepSend
    rw [if_neg hgo, hplan]
    rfl
  | false =>
    refine ⟨0x30, 0x31, ?_, by decide, by decide, fun c _ => rfl⟩
    unfold State.stepSend
    rw [if_neg hgo, hplan]
    rfl

/-- Whatever its class, a payload's packets are only injected. -/
theorem State.sendPayload_injected (s : State) (e : Nat) (o : NetOp) {mid last : BitVec 8} (hmid : mid ≠ 0x12)
    (hlast : last ≠ 0x12) (fence : Bool) : Injected s (s.sendPayload e o mid last fence) ∧
      (s.sendPayload e o mid last fence).engines = s.engines := by
  have hread := s.racyRead_injected o.loc o.len
  have hengines : (s.racyRead o.loc o.len).2.engines = s.engines := by
    obtain ⟨c, hc⟩ := s.racyRead_state o.loc o.len
    rw [hc]
    exact (s.fetchLoc_storeFrame o.loc o.len).engines
  unfold State.sendPayload
  refine List.foldlRecOn _ _ (motive := fun t : State => Injected s t ∧ t.engines = s.engines) ⟨hread, hengines⟩ ?_
  rintro t ⟨hinj, heng⟩ i -
  refine ⟨hinj.trans (State.send_sendsOnly ..).injected, (State.send_quiet ?_).trans heng⟩
  dsimp only [NetOp.packet]
  split
  · exact hlast
  · exact hmid

theorem State.stepSend_injected {u : State} {e : Nat} {o : NetOp} {w : StepWait} (hsend : w.sendEn = true) :
    Injected (u.modNet e o.id NetOp.sending) (u.stepSend e o w) ∧
    (u.stepSend e o w).engines = (u.modNet e o.id NetOp.sending).engines := by
  obtain ⟨mid, last, hstep, ⟨hmid, -⟩, ⟨hlast, -⟩, -⟩ := stepSend_eq (u := u) (e := e) (o := o) hsend
  rw [hstep]
  exact State.sendPayload_injected _ e o hmid hlast w.fence

/-- A step that sends injects its packets. -/
theorem State.stepSend_sends {u : State} {e : Nat} {o : NetOp} {w : StepWait} (hsend : w.sendEn = true) (htc : o.tc = 1) :
    Injects u o w (u.stepSend e o w) := by
  obtain ⟨mid, last, hstep, hmid, hlast, hopcs⟩ := stepSend_eq (u := u) (e := e) (o := o) hsend
  have hclass : BitVec.ofNat 3 o.tc ≠ 4 := by rw [htc]; decide
  obtain ⟨-, -, bs, hlen, hquiet, hholds⟩ := State.sendPayload_sends
    (s := u.modNet e o.id NetOp.sending) (e := e) (o := o) (fence := w.fence) hclass hmid hlast
  rw [hstep]
  refine fun i hi => ((hholds i hi).imp fun p hp => ?_).sends
  refine ⟨?_, ?_, ?_, hp.addr, ?_, ?_, fun _ hcopies => ?_⟩
  · rw [hp.dest, BitVec.toNat_ofNat]
  · rw [hp.tc, BitVec.toNat_ofNat]
  · rw [hp.opc]
    exact hopcs _
  · rw [hp.tgtEngine, BitVec.toNat_ofNat]
  · rw [hp.tgtFlag, BitVec.toNat_ofNat]
  · have hcopies' : (u.modNet e o.id NetOp.sending).noCopies := noCopies_modEng
      (g := fun x => { x with nets := x.nets.map fun o' => if o'.id == o.id then o'.sending else o' }) (fun _ => rfl) hcopies e
    rw [hp.payload, hquiet hcopies']
    rfl

/-! ## A step that is issued -/

/-- An engine whose instruction has issued a step: its place in the program and its operations. -/
structure Stepped (s t : State) (e : Nat) (o : NetOp) : Prop where
  stores : SameStores s t
  nets : (t.eng e).nets = (s.eng e).nets ++ [o]
  pc : (t.eng e).pc = (s.eng e).pc + 8
  act : (t.eng e).act = .run

theorem Stepped.injected {s u t : State} {e : Nat} {o : NetOp} (h : Stepped s u e o) (hi : Injected u t)
    (he : t.engines = u.engines) : Stepped s t e o := by
  obtain ⟨hls, hcs, hmem⟩ := h.stores
  obtain ⟨hls', hcs', hmem'⟩ := hi.stores
  have heng := State.eng_of_engines he e
  exact ⟨⟨hls'.trans hls, hcs'.trans hcs, hmem'.trans hmem⟩, by rw [heng]; exact h.nets, by rw [heng]; exact h.pc,
    by rw [heng]; exact h.act⟩

theorem map_last {l : List NetOp} {o : NetOp} {g : NetOp → NetOp} (h : ∀ x ∈ l, x.id ≠ o.id) :
    ((l ++ [o]).map fun x => if x.id == o.id then g x else x) = l ++ [g o] := by
  rw [List.map_append, List.map_singleton, if_pos (beq_self_eq_true o.id)]
  congr 1
  refine (List.map_congr_left fun x hx => ?_).trans (List.map_id' l)
  exact if_neg (by simp [h x hx])

/-- The step's operation changes. -/
theorem Stepped.modNet {s t : State} {e : Nat} {o : NetOp} (h : Stepped s t e o) (hfresh : ∀ x ∈ (s.eng e).nets, x.id ≠ o.id)
    (g : NetOp → NetOp) : Stepped s (t.modNet e o.id g) e (g o) := by
  refine ⟨h.stores, ?_, ?_, ?_⟩
  · rw [State.modNet, State.eng_modEng_self, h.nets]
    exact map_last hfresh
  · rw [State.modNet, State.eng_modEng_self]
    exact h.pc
  · rw [State.modNet, State.eng_modEng_self]
    exact h.act

theorem Stepped.setFlag {s t : State} {e : Nat} {o : NetOp} (h : Stepped s t e o) (e' f : Nat) (v : W32) :
    Stepped s (t.setFlag e' f v) e o := by
  have heng : ((t.setFlag e' f v).eng e) = { t.eng e with flags := ((t.setFlag e' f v).eng e).flags } := by
    rw [State.setFlag, State.eng_modEng]
    split
    · next he => rw [he]
    · rfl
  exact ⟨h.stores, by rw [heng]; exact h.nets, by rw [heng]; exact h.pc, by rw [heng]; exact h.act⟩

theorem flagVal_modNet (s : State) (e id : Nat) (g : NetOp → NetOp) (e' f : Nat) :
    (s.modNet e id g).flagVal e' f = s.flagVal e' f := by
  rw [State.flagVal, State.modNet, State.eng_modEng]
  split
  · next h =>
    rw [h]
    rfl
  · rfl

theorem part_planned (u : State) (p : Nat) (w : StepWait) :
    ((u.planned p w).part p).planLock = ((u.part p).planLock || w.plan) := by
  unfold State.planned
  cases hplan : w.plan with
  | true =>
    rw [if_pos rfl, State.part_modPart_self, Bool.or_true]
  | false =>
    rw [if_neg Bool.false_ne_true, Bool.or_false]

theorem planned_frame (u : State) (p : Nat) (w : StepWait) : u.planned p w = { u with parts := (u.planned p w).parts } := by
  unfold State.planned
  split <;> rfl

/-- A step hung on its engine, as its instruction begins. -/
theorem stepped_start {s : State} {e : Nat} {opc : BitVec 8} {f : Fields} {r : Run} (hi : Issues s e opc f r) (o : NetOp)
    (p : Nat) (w : StepWait) : Stepped s (((s.modEng e Engine.next).pushNet e o).planned p w) e o ∧
      (∀ e' g, (((s.modEng e Engine.next).pushNet e o).planned p w).flagVal e' g = s.flagVal e' g) ∧
      ((((s.modEng e Engine.next).pushNet e o).planned p w).part p).planLock = ((s.part p).planLock || w.plan) ∧
      SamePlaces s (((s.modEng e Engine.next).pushNet e o).planned p w) ∧
      (s.noCopies → (((s.modEng e Engine.next).pushNet e o).planned p w).noCopies) ∧
      (((s.modEng e Engine.next).pushNet e o).planned p w).rte = s.rte := by
  obtain ⟨-, hact, -⟩ := State.mayIssue_run hi.2.1
  have hframe := planned_frame ((s.modEng e Engine.next).pushNet e o) p w
  have hpart := part_planned ((s.modEng e Engine.next).pushNet e o) p w
  generalize ((s.modEng e Engine.next).pushNet e o).planned p w = t at hframe hpart
  have hengines : t.engines = ((s.modEng e Engine.next).pushNet e o).engines := by rw [hframe]
  have heng : t.eng e = { s.eng e with pc := (s.eng e).pc + 8, nets := (s.eng e).nets ++ [o], nextNet := o.id + 1 } :=
    (State.eng_of_engines hengines e).trans (State.pushed_eng hi o)
  refine ⟨⟨⟨?_, ?_, ?_⟩, by rw [heng], by rw [heng], by rw [heng]; exact hact⟩, fun e' g => ?_, hpart, ⟨?_, ?_, ?_⟩,
    fun hcopies => noCopies_of_engines (noCopies_modEng
      (g := fun x => { x with nets := x.nets ++ [o], nextNet := o.id + 1 }) (fun _ => rfl) (State.noCopies_next hcopies) e)
      hengines, ?_⟩
  · rw [hframe]; rfl
  · rw [hframe]; rfl
  · rw [hframe]; rfl
  · rw [State.flagVal, State.eng_of_engines hengines]
    exact s.pushed_flagVal e o e' g
  · rw [hframe]; rfl
  · rw [hframe]; rfl
  · rw [hframe]; rfl
  · rw [hframe]; rfl

end Sys2Proof.Machine
end

section
/-!
SUPPORT. NSTEP at issue: without a wait, waiting, and with its condition met (R311).
-/
namespace Sys2Proof.Machine

section
variable {s : State} {e : Nat} {o : NetOp} {w : StepWait}

/-- The operation of a step whose wait is met. -/
def NetOp.waited (o : NetOp) (w : StepWait) : NetOp := { o with step := some { w with met := true } }

/-- A step whose wait is met, its course awake. -/
theorem State.stepMet_eq (hawake : s.courseAwake (o.flagEngine / 32) = true) : s.stepMet e o w =
    ((s.setFlag o.flagEngine w.waitFlag (s.flagVal o.flagEngine w.waitFlag - BitVec.ofNat 32 w.waitCount)).modNet e o.id
      (fun x => x.waited w)).stepSend e o w := by
  unfold State.stepMet
  rw [State.flagSub_awake _ _ _ _ hawake]
  rfl

/-- What subtracting the count of a met wait leaves. -/
theorem flagVal_met (s : State) (e id : Nat) (o : NetOp) (w : StepWait) (e' f' : Nat) :
    ((s.setFlag o.flagEngine w.waitFlag (s.flagVal o.flagEngine w.waitFlag - BitVec.ofNat 32 w.waitCount)).modNet e id
      (fun x => x.waited w)).flagVal e' f' =
      if e' = o.flagEngine ∧ f' = w.waitFlag then s.flagVal e' f' - BitVec.ofNat 32 w.waitCount else s.flagVal e' f' := by
  refine (flagVal_modNet _ _ _ _ _ _).trans ((State.flagVal_setFlag _ _ _ _ e' f').trans ?_)
  split
  · next h => rw [h.1, h.2]
  · rfl

theorem met_places (s : State) (e id : Nat) (o : NetOp) (w : StepWait) (v : W32) :
    SamePlaces s ((s.setFlag o.flagEngine w.waitFlag v).modNet e id (fun x => x.waited w)) := ⟨rfl, rfl, rfl⟩

theorem met_noCopies (h : s.noCopies) (e id : Nat) (o : NetOp) (w : StepWait) (v : W32) :
    ((s.setFlag o.flagEngine w.waitFlag v).modNet e id (fun x => x.waited w)).noCopies :=
  noCopies_modEng (g := fun x => { x with nets := x.nets.map fun y => if y.id == id then y.waited w else y })
    (fun _ => rfl) (noCopies_modEng (g := fun x => { x with flags := Tab.put 0 x.flags w.waitFlag v }) (fun _ => rfl) h _) e

/-! ## NSTEP at issue -/

variable {f : Fields} {r : Run}

/-- A step without a wait. -/
theorem stepGo_now {u : State} (hstart : Stepped s u e o) (hfresh : ∀ x ∈ (s.eng e).nets, x.id ≠ o.id)
    (hflags : ∀ e' g, u.flagVal e' g = s.flagVal e' g) (hplaces : SamePlaces s u) (hquiet : s.noCopies → u.noCopies)
    (hsend : w.sendEn = true) (htc : o.tc = 1) (hwait : w.waitEn = false) :
    Stepped s (u.stepGo e o w) e o.sending ∧ SameFlags s (u.stepGo e o w) ∧ (u.stepGo e o w).parts = u.parts ∧
      Injects s o w (u.stepGo e o w) := by
  have hgo : u.stepGo e o w = u.stepSend e o w := by
    unfold State.stepGo
    rw [hwait]
    rfl
  obtain ⟨hinj, hengines⟩ := State.stepSend_injected (u := u) (e := e) (o := o) hsend
  have hinjects := State.stepSend_sends (u := u) (e := e) hsend htc
  rw [hgo]
  refine ⟨(hstart.modNet hfresh _).injected hinj hengines, fun e' g => ?_, ?_, hinjects.of_same hplaces hquiet⟩
  · rw [hinj.flags e' g, flagVal_modNet, hflags]
  · have hparts := congrArg State.parts hinj.frame
    exact hparts

/-- A step whose condition does not hold. -/
theorem stepGo_waits {u : State} (hwait : w.waitEn = true) (hno : u.stepReady o w = false) : u.stepGo e o w = u := by
  unfold State.stepGo
  rw [hwait, hno]
  rfl

/-- A step whose condition holds at its issue. -/
theorem stepGo_met {u : State} (hstart : Stepped s u e o) (hfresh : ∀ x ∈ (s.eng e).nets, x.id ≠ o.id)
    (hflags : ∀ e' g, u.flagVal e' g = s.flagVal e' g) (hplaces : SamePlaces s u) (hquiet : s.noCopies → u.noCopies)
    (hsend : w.sendEn = true) (htc : o.tc = 1) (hwait : w.waitEn = true) (hready : u.stepReady o w = true)
    (hturn : u.stepTurn e ((u.eng e).nets.length - 1) o w = true) (hawake : u.courseAwake (o.flagEngine / 32) = true) :
    Stepped s (u.stepGo e o w) e (o.waited w).sending ∧ (u.stepGo e o w).parts = u.parts ∧
      (∀ e' f', (u.stepGo e o w).flagVal e' f' =
        if e' = o.flagEngine ∧ f' = w.waitFlag then s.flagVal e' f' - BitVec.ofNat 32 w.waitCount
        else s.flagVal e' f') ∧ Injects s o w (u.stepGo e o w) := by
  have hgo : u.stepGo e o w = u.stepMet e o w := by
    unfold State.stepGo
    rw [hwait, hready, hturn]
    rfl
  rw [hgo, State.stepMet_eq hawake]
  generalize hv : (u.flagVal o.flagEngine w.waitFlag - BitVec.ofNat 32 w.waitCount) = v
  have hinjects := State.stepSend_sends
    (u := (u.setFlag o.flagEngine w.waitFlag v).modNet e o.id (fun x => x.waited w)) (e := e) hsend htc
  obtain ⟨hinj, hengines⟩ := State.stepSend_injected
    (u := (u.setFlag o.flagEngine w.waitFlag v).modNet e o.id (fun x => x.waited w)) (e := e) (o := o) hsend
  have hmet := ((hstart.setFlag o.flagEngine w.waitFlag v).modNet hfresh fun x => x.waited w)
  have hmet' := hmet.modNet hfresh NetOp.sending
  refine ⟨hmet'.injected hinj hengines, ?_, fun e' f' => ?_, ?_⟩
  · have hparts := congrArg State.parts hinj.frame
    exact hparts
  · rw [hinj.flags e' f', flagVal_modNet, ← hv, flagVal_met, hflags]
  · exact hinjects.of_same (hplaces.trans (met_places u e o.id o w v)) fun h => met_noCopies (hquiet h) e o.id o w v

/-- It is the turn of a step when nothing else waits on its flag. -/
theorem stepTurn_alone {u : State} {i : Nat} (hfwait : ∀ x ∈ u.engines, u.flagEngine x.1 = o.flagEngine →
    ∀ g v k, x.2.act ≠ .waitFlag g v k) (hsteps : ∀ j < i, u.stepAt e j = none) : u.stepTurn e i o w = true := by
  unfold State.stepTurn
  rw [Bool.and_eq_true, List.all_eq_true, List.all_eq_true]
  constructor
  · rintro ⟨j, x⟩ hx
    dsimp only
    split
    · next g v k hact =>
      have hne : u.flagEngine j ≠ o.flagEngine := fun h => hfwait (j, x) hx h g v k hact
      simp [hne]
    · rfl
  · intro j hj
    rw [hsteps j (List.mem_range.mp hj)]
end

end Sys2Proof.Machine
end

section
/-!
SUPPORT. NSTEP as an instruction (R309, R311).
-/
namespace Sys2Proof.Machine

/-! ## NSTEP as an instruction (R309, R311) -/

section
variable {s : State} {e : Nat} {f : Fields} {r : Run} {opc : BitVec 8}

/-- Of a step hung on its engine, other places than the engines and partitions stay. -/
theorem pushed_planned_frame (s : State) (e : Nat) (o : NetOp) (p : Nat) (w : StepWait) :
    ∃ parts, ((s.modEng e Engine.next).pushNet e o).planned p w =
      { (s.modEng e Engine.next).pushNet e o with parts := parts } :=
  ⟨_, planned_frame _ _ _⟩

theorem pushed_stepReady (s : State) (e : Nat) (o : NetOp) (p : Nat) (w : StepWait) :
    (((s.modEng e Engine.next).pushNet e o).planned p w).stepReady o w = s.stepReady o w := by
  obtain ⟨parts, hparts⟩ := pushed_planned_frame s e o p w
  rw [hparts]
  have hflag := State.pushed_flagVal s e o o.flagEngine w.waitFlag
  change decide (w.waitCount ≤ ((s.crs (o.flagEngine / 32)).heldSubs.foldl _
    (((s.modEng e Engine.next).pushNet e o).flagVal o.flagEngine w.waitFlag)).toNat) = _
  rw [hflag]
  rfl

theorem mem_pushed {o : NetOp} {x : Nat × Engine} (hx : x ∈ ((s.modEng e Engine.next).pushNet e o).engines) :
    x ∈ s.engines ∨ (x.1 = e ∧ x.2.act = (s.eng e).act) := by
  unfold State.pushNet at hx
  rcases Tab.mem_of_mem_put hx with rfl | hx
  · refine .inr ⟨rfl, ?_⟩
    rw [State.eng_modEng_self]
    rfl
  · rcases Tab.mem_of_mem_put hx with rfl | hx
    · exact .inr ⟨rfl, rfl⟩
    · exact .inl hx

theorem pushed_flagEngine (o : NetOp) (e' : Nat) :
    ((s.modEng e Engine.next).pushNet e o).flagEngine e' = s.flagEngine e' := by
  rw [← State.flagEngine_next s e e', State.flagEngine, State.pushNet, State.eng_modEng]
  split
  · next h =>
    rw [h]
    rfl
  · rfl

/-- The turn of a step that is issued where nothing else waits on its flag. -/
theorem pushed_stepTurn (hi : Issues s e opc f r) {o : NetOp} (p : Nat) (w : StepWait)
    (hnets : ∀ x ∈ (s.eng e).nets, x.step = none)
    (hflag : o.flagEngine = s.flagEngine e)
    (hwaits : ∀ x ∈ s.engines, s.flagEngine x.1 = s.flagEngine e → ∀ g v k, x.2.act ≠ .waitFlag g v k) :
    (((s.modEng e Engine.next).pushNet e o).planned p w).stepTurn e
      (((((s.modEng e Engine.next).pushNet e o).planned p w).eng e).nets.length - 1) o w = true := by
  obtain ⟨-, hact, -⟩ := State.mayIssue_run hi.2.1
  obtain ⟨parts, hparts⟩ := pushed_planned_frame s e o p w
  rw [hparts]
  have heng := State.pushed_eng hi o
  refine stepTurn_alone (fun x hx hfe => ?_) fun j hj => ?_
  · have hfe' : s.flagEngine x.1 = s.flagEngine e := (pushed_flagEngine o x.1).symm.trans (hfe.trans hflag)
    rcases mem_pushed hx with hx | ⟨-, hrun⟩
    · exact hwaits x hx hfe'
    · rw [hrun, hact]
      exact fun _ _ _ => Act.noConfusion
  · change j < (((s.modEng e Engine.next).pushNet e o).eng e).nets.length - 1 at hj
    change ((s.modEng e Engine.next).pushNet e o).stepAt e j = none
    rw [heng] at hj
    rw [List.length_append, List.length_singleton, Nat.add_sub_cancel] at hj
    unfold State.stepAt
    rw [heng, List.getElem?_append_left hj, List.getElem?_eq_getElem hj]
    dsimp only
    rw [hnets _ (List.getElem_mem hj)]

/-- What NSTEP hangs. -/
structure StepHung (s t : State) (e : Nat) (f : Fields) (r : Run) (d : NetDesc) (w : StepWait)
    (x : Loc × BitVec 48 × Nat × Nat) (o : NetOp) : Prop where
  hung : Stepped s t e o
  flag : o.flag = f.d.toNat
  flagEngine : o.flagEngine = s.flagEngine e
  dest : o.dest = x.2.2.2
  loc : o.loc = x.1
  remote : o.remote = x.2.1
  len : o.len = x.2.2.1
  live : o.live = true
  tgtEngine : o.tgtEngine = d.tgtEngine
  tgtFlag : o.tgtFlag = if d.tgtFlag = 255 then 63 else d.tgtFlag
  tc : o.tc = 1
  lock : (t.part r.part).planLock = ((s.part r.part).planLock || w.plan)

end

/-- An NSTEP that passes its checks, as O31 names them. -/
structure StepIssue (s : State) (e : Nat) (f : Fields) (r : Run) (h : HodSlot) (b : List Byte)
    (x : Loc × BitVec 48 × Nat × Nat) : Prop where
  issues : Issues s e 0x83 f r
  slot : s.hodSlot r.c r.k = some h
  fields : f.b = 0 ∧ f.c = 0 ∧ f.imm = 0
  flag : f.d < 48
  net : r.d.net = true
  first : r.d.reexec = false
  low : ((s.eng e).gr f.a).toNat + 32 ≤ 0x60000
  room : (s.eng e).netCount < 16
  fresh : ∀ o ∈ (s.eng e).nets, o.id ≠ (s.eng e).nextNet
  bytes : s.lsRead e ((s.eng e).gr f.a).toNat 32 = b
  dest : (netDesc b).dest < 2 ^ 17
  tgtEngine : (netDesc b).tgtEngine < 2048
  tgtFlag : (netDesc b).tgtFlag < 48 ∨ (netDesc b).tgtFlag = 255
  ctl : bits (fieldAt b 0x1E 1) 7 5 = 0
  pad : fieldAt b 0x1F 1 = 0
  tc : (netDesc b).tc = 1
  does : (stepWait b h.limit).waitEn = true ∨ (stepWait b h.limit).sendEn = true
  waitFlag : (stepWait b h.limit).waitFlag ≤ 47
  plan : (stepWait b h.limit).plan = true → (netDesc b).dest = 0 ∧ (netDesc b).local_ = 0 ∧ (netDesc b).remote = 0
  span : s.stepSpan r (netDesc b) (stepWait b h.limit) = .ok x

section
variable {s : State} {e : Nat} {f : Fields} {r : Run} {h : HodSlot} {b : List Byte} {x : Loc × BitVec 48 × Nat × Nat}

/-- The state in which a step's operation hangs, before its wait is looked at. -/
def State.stepStart (s : State) (e : Nat) (f : Fields) (r : Run) (d : NetDesc) (w : StepWait)
    (x : Loc × BitVec 48 × Nat × Nat) : State :=
  ((s.modEng e Engine.next).pushNet e ((s.modEng e Engine.next).stepOp r f.d.toNat d w x)).planned r.part w

theorem exec_nstep (hn : StepIssue s e f r h b x) : ∃ n, exec (.nstep e f) s =
    .next { (s.stepStart e f r (netDesc b) (stepWait b h.limit) x).stepGo e
      ((s.modEng e Engine.next).stepOp r f.d.toNat (netDesc b) (stepWait b h.limit) x)
      (stepWait b h.limit) with freeCtr := n } := by
  have hi := hn.issues
  obtain rfl := hi.run_e
  obtain ⟨hb, hc, him⟩ := hn.fields
  have hself : (s.modEng r.e Engine.next).eng r.e = { s.eng r.e with pc := (s.eng r.e).pc + 8 } := by
    rw [State.eng_modEng_self, hi.next_eq]
  have hbody := nstepBody_eq (u := s.modEng r.e Engine.next) hb hc him hn.flag hn.net hn.first
    (by rw [hself]; exact hn.low) (by rw [hself]; exact hn.room)
    (by rw [hself, State.lsRead_next]; exact hn.bytes) hn.slot hn.dest hn.tgtEngine hn.tgtFlag hn.ctl hn.pad hn.tc
    hn.does hn.waitFlag hn.plan hn.span
  exact issue_next hi rfl hbody

theorem hungStep (hn : StepIssue s e f r h b x) {o : NetOp} {t : State}
    (ho : o = (s.modEng e Engine.next).stepOp r f.d.toNat (netDesc b) (stepWait b h.limit) x) {g : NetOp}
    (hg : g = { o with step := g.step, sent := g.sent }) (ht : Stepped s t e g)
    (hlock : (t.part r.part).planLock = ((s.part r.part).planLock || (stepWait b h.limit).plan)) :
    StepHung s t e f r (netDesc b) (stepWait b h.limit) x g := by
  have hi := hn.issues
  obtain rfl := hi.run_e
  have hflagEngine : o.flagEngine = s.flagEngine r.e := by
    rw [ho]
    exact State.flagEngine_next ..
  have htgt : o.tgtFlag = if (netDesc b).tgtFlag = 255 then 63 else (netDesc b).tgtFlag := by
    rw [ho, ← (tgtFlag_packet hn.tgtFlag).1]
    rfl
  have hfields : o.flag = f.d.toNat ∧ o.dest = x.2.2.2 ∧ o.loc = x.1 ∧ o.remote = x.2.1 ∧ o.len = x.2.2.1 ∧
      o.live = true ∧ o.tgtEngine = (netDesc b).tgtEngine ∧ o.tc = 1 := by
    rw [ho]
    exact ⟨rfl, rfl, rfl, rfl, rfl, rfl, rfl, rfl⟩
  obtain ⟨hflag, hdest, hloc, hremote, hlen, hlive, htgtEngine, htc⟩ := hfields
  refine ⟨ht, ?_, ?_, ?_, ?_, ?_, ?_, ?_, ?_, ?_, ?_, hlock⟩ <;> rw [hg] <;> assumption

/-- A step whose operation hangs on its engine. -/
theorem stepStart_spec (hn : StepIssue s e f r h b x) {o : NetOp}
    (ho : o = (s.modEng e Engine.next).stepOp r f.d.toNat (netDesc b) (stepWait b h.limit) x) :
    o.id = (s.eng e).nextNet ∧ o.tc = 1 ∧ o.flagEngine = s.flagEngine e ∧ o.step = some (stepWait b h.limit) ∧
      o.sent = false := by
  have hi := hn.issues
  obtain rfl := hi.run_e
  rw [ho]
  refine ⟨?_, rfl, State.flagEngine_next .., rfl, rfl⟩
  change ((s.modEng r.e Engine.next).eng r.e).nextNet = _
  rw [State.eng_modEng_self]
  rfl

theorem exec_nstep_now (hn : StepIssue s e f r h b x) (hwait : (stepWait b h.limit).waitEn = false) :
    ∃ t o, exec (.nstep e f) s = .next t ∧ StepHung s t e f r (netDesc b) (stepWait b h.limit) x o ∧ SameFlags s t ∧
      o.sent = true ∧ o.step = some (stepWait b h.limit) ∧ Injects s o (stepWait b h.limit) t := by
  obtain ⟨n, hexec⟩ := exec_nstep hn
  unfold State.stepStart at hexec
  generalize ho : (s.modEng e Engine.next).stepOp r f.d.toNat (netDesc b) (stepWait b h.limit) x = o at hexec
  obtain ⟨hid, htc, -, hstep, -⟩ := stepStart_spec hn ho.symm
  obtain ⟨hstart, hflags, hlock, hplaces, hquiet, -⟩ := stepped_start hn.issues o r.part (stepWait b h.limit)
  have hsend : (stepWait b h.limit).sendEn = true :=
    hn.does.resolve_left fun h => Bool.false_ne_true (hwait.symm.trans h)
  obtain ⟨hgo, hsame, hparts, hinj⟩ := stepGo_now hstart (by rw [hid]; exact hn.fresh) hflags hplaces hquiet hsend htc hwait
  refine ⟨_, o.sending, hexec, hungStep hn ho.symm rfl ?_ ?_, hsame, rfl, hstep, hinj⟩
  · exact ⟨hgo.stores, hgo.nets, hgo.pc, hgo.act⟩
  · rw [← hlock]
    exact congrArg (fun y => (Tab.get Part.reset y r.part).planLock) hparts

theorem exec_nstep_waits (hn : StepIssue s e f r h b x) (hwait : (stepWait b h.limit).waitEn = true)
    (hless : (s.flagLeft (s.flagEngine e) (stepWait b h.limit).waitFlag).toNat < (stepWait b h.limit).waitCount) :
    ∃ t o, exec (.nstep e f) s = .next t ∧ StepHung s t e f r (netDesc b) (stepWait b h.limit) x o ∧ SameFlags s t ∧
      t.rte = s.rte ∧ o.sent = false ∧ o.step = some (stepWait b h.limit) := by
  obtain ⟨n, hexec⟩ := exec_nstep hn
  unfold State.stepStart at hexec
  generalize ho : (s.modEng e Engine.next).stepOp r f.d.toNat (netDesc b) (stepWait b h.limit) x = o at hexec
  obtain ⟨-, -, hflagEngine, hstep, hsent⟩ := stepStart_spec hn ho.symm
  obtain ⟨hstart, hflags, hlock, -, -, hrte⟩ := stepped_start hn.issues o r.part (stepWait b h.limit)
  have hno : (((s.modEng e Engine.next).pushNet e o).planned r.part (stepWait b h.limit)).stepReady o
      (stepWait b h.limit) = false := by
    rw [pushed_stepReady, State.stepReady, hflagEngine]
    exact decide_eq_false (Nat.not_le.mpr hless)
  rw [stepGo_waits hwait hno] at hexec
  exact ⟨_, o, hexec, hungStep hn ho.symm rfl ⟨hstart.stores, hstart.nets, hstart.pc, hstart.act⟩ hlock, hflags, hrte,
    hsent, hstep⟩

theorem exec_nstep_met (hn : StepIssue s e f r h b x) (hwait : (stepWait b h.limit).waitEn = true)
    (hmet : (stepWait b h.limit).waitCount ≤ (s.flagLeft (s.flagEngine e) (stepWait b h.limit).waitFlag).toNat)
    (hsend : (stepWait b h.limit).sendEn = true)
    (hnets : ∀ x ∈ (s.eng e).nets, x.step = none)
    (hwaits : ∀ x ∈ s.engines, s.flagEngine x.1 = s.flagEngine e → ∀ g v k, x.2.act ≠ .waitFlag g v k)
    (hawake : s.courseAwake (s.flagEngine e / 32) = true) :
    ∃ t o, exec (.nstep e f) s = .next t ∧ StepHung s t e f r (netDesc b) (stepWait b h.limit) x o ∧
      (∀ e' f', t.flagVal e' f' = if e' = o.flagEngine ∧ f' = (stepWait b h.limit).waitFlag
        then s.flagVal e' f' - BitVec.ofNat 32 (stepWait b h.limit).waitCount else s.flagVal e' f') ∧
      o.sent = true ∧ o.step = some { stepWait b h.limit with met := true } ∧ Injects s o (stepWait b h.limit) t := by
  obtain ⟨n, hexec⟩ := exec_nstep hn
  unfold State.stepStart at hexec
  generalize ho : (s.modEng e Engine.next).stepOp r f.d.toNat (netDesc b) (stepWait b h.limit) x = o at hexec
  obtain ⟨hid, htc, hflagEngine, -, -⟩ := stepStart_spec hn ho.symm
  obtain ⟨hstart, hflags, hlock, hplaces, hquiet, -⟩ := stepped_start hn.issues o r.part (stepWait b h.limit)
  have hready : (((s.modEng e Engine.next).pushNet e o).planned r.part (stepWait b h.limit)).stepReady o
      (stepWait b h.limit) = true := by
    rw [pushed_stepReady, State.stepReady, hflagEngine]
    exact decide_eq_true hmet
  have hawake' : (((s.modEng e Engine.next).pushNet e o).planned r.part (stepWait b h.limit)).courseAwake
      (o.flagEngine / 32) = true := by
    obtain ⟨parts, hparts⟩ := pushed_planned_frame s e o r.part (stepWait b h.limit)
    rw [hparts, hflagEngine]
    exact hawake
  obtain ⟨hgo, hparts, hvals, hinj⟩ := stepGo_met hstart (by rw [hid]; exact hn.fresh) hflags hplaces hquiet hsend htc hwait
    hready (pushed_stepTurn hn.issues r.part _ hnets hflagEngine hwaits) hawake'
  refine ⟨_, (o.waited (stepWait b h.limit)).sending, hexec, hungStep hn ho.symm rfl ?_ ?_, hvals, rfl, rfl, hinj⟩
  · exact ⟨hgo.stores, hgo.nets, hgo.pc, hgo.act⟩
  · rw [← hlock]
    exact congrArg (fun y => (Tab.get Part.reset y r.part).planLock) hparts

end

end Sys2Proof.Machine
end

section
/-!
SUPPORT. A step whose wait is met, and the progress timeout (R311 to R314).
-/
namespace Sys2Proof.Machine

/-! ## A step whose wait is met (R311) -/

section
variable {s : State} {e i p : Nat} {o : NetOp} {w : StepWait}

theorem stepAt_some (h : s.stepAt e i = some (o, w)) : o.step = some w ∧ o.reset = false := by
  unfold State.stepAt at h
  split at h
  · exact nomatch h
  · split at h
    · exact nomatch h
    · next hw =>
      split at h
      · next hc =>
        cases h
        simp only [Bool.and_eq_true, Bool.not_eq_true'] at hc
        exact ⟨hw, hc.2⟩
      · exact nomatch h

theorem netOp_id (h : s.netOp e o.id = some o) : o ∈ (s.eng e).nets := List.mem_of_find?_eq_some h

/-- The state in which a step's wait is met. -/
def State.waitMet (s : State) (e : Nat) (o : NetOp) (w : StepWait) : State :=
  (s.setFlag o.flagEngine w.waitFlag (s.flagVal o.flagEngine w.waitFlag - BitVec.ofNat 32 w.waitCount)).modNet e o.id
    (fun x => x.waited w)

theorem waitMet_nets : ((s.waitMet e o w).eng e).nets =
    (s.eng e).nets.map fun x => if x.id == o.id then x.waited w else x := by
  unfold State.waitMet State.modNet
  rw [State.eng_modEng_self, State.eng_setFlag]

theorem map_sending_mem {l : List NetOp} (h : o ∈ l) :
    { o with step := some { w with met := true }, sent := true } ∈
      (l.map fun x => if x.id == o.id then x.waited w else x).map fun x => if x.id == o.id then x.sending else x := by
  refine List.mem_map.mpr ⟨o.waited w, List.mem_map.mpr ⟨o, h, if_pos (beq_self_eq_true _)⟩, ?_⟩
  exact if_pos (beq_self_eq_true o.id)

/-- What dropping an operation leaves. -/
theorem State.dropNet_eng (s : State) (e id e' : Nat) : ((s.dropNet e id).eng e').flags = (s.eng e').flags ∧
    ((s.dropNet e id).eng e').rehomed = (s.eng e').rehomed ∧
    ((s.dropNet e id).eng e).nets = (s.eng e).nets.filter fun x => x.id != id := by
  unfold State.dropNet State.resumeQueue
  refine ⟨?_, ?_, ?_⟩
  · rw [State.eng_modEng]
    split
    · next h =>
      rw [h, State.eng_modEng_self]
      split <;> rfl
    · next h => exact congrArg _ (s.eng_modEng_ne (b := e') _ h)
  · rw [State.eng_modEng]
    split
    · next h =>
      rw [h, State.eng_modEng_self]
      split <;> rfl
    · next h => exact congrArg _ (s.eng_modEng_ne (b := e') _ h)
  · rw [State.eng_modEng_self, State.eng_modEng_self]
    split <;> rfl

theorem State.flagVal_dropNet (s : State) (e id e' f : Nat) : (s.dropNet e id).flagVal e' f = s.flagVal e' f := by
  unfold State.flagVal
  rw [(s.dropNet_eng e id e').1]

theorem State.dropNet_frame (s : State) (e id : Nat) : s.dropNet e id = { s with engines := (s.dropNet e id).engines } :=
  rfl

theorem filter_map_waited (l : List NetOp) (id : Nat) (g : NetOp → NetOp) (hg : ∀ x, (g x).id = x.id) :
    (l.map fun x => if x.id == id then g x else x).filter (fun x => x.id != id) = l.filter fun x => x.id ≠ id := by
  induction l with
  | nil => rfl
  | cons x l ih =>
    rw [List.map_cons]
    by_cases hx : x.id = id
    · rw [if_pos (beq_iff_eq.mpr hx), List.filter_cons_of_neg (by simp [hg, hx]), List.filter_cons_of_neg (by simp [hx]), ih]
    · rw [if_neg (by simp [hx]), List.filter_cons_of_pos (by simp [hx]), List.filter_cons_of_pos (by simp [hx]), ih]

theorem find?_map_waited {l : List NetOp} (h : l.find? (fun x => x.id == o.id) = some o) (g : NetOp → NetOp)
    (hg : ∀ x, (g x).id = x.id) :
    (l.map fun x => if x.id == o.id then g x else x).find? (fun x => x.id == o.id) = some (g o) := by
  rw [List.find?_map]
  have hsame : ((fun x : NetOp => x.id == o.id) ∘ fun x => if x.id == o.id then g x else x) = fun x => x.id == o.id := by
    funext x
    dsimp only [Function.comp]
    split
    · rw [hg]
    · rfl
  rw [hsame, h, Option.map_some, if_pos (beq_self_eq_true _)]

/-- A step that has completed is counted, and frees the plan it ends. -/
def State.stepCounted (u : State) (e : Nat) (w : StepWait) : State :=
  match u.partOfEngine e with
  | some p => u.modPart p fun x => { x with steps := satAdd 64 x.steps 1, planLock := x.planLock && !w.planEnd }
  | none => u

theorem State.stepCounted_spec (u : State) (e : Nat) (w : StepWait) :
    u.stepCounted e w = { u with parts := (u.stepCounted e w).parts } ∧ ∀ p, u.partOfEngine e = some p →
      ((u.stepCounted e w).part p).steps = min ((u.part p).steps + 1) (2 ^ 64 - 1) := by
  unfold State.stepCounted
  cases hp : u.partOfEngine e with
  | none => exact ⟨rfl, fun p h => nomatch h⟩
  | some q =>
    refine ⟨rfl, fun p h => ?_⟩
    cases h
    exact congrArg Part.steps (u.part_modPart_self q _)

/-- How a step's operation ends. -/
theorem State.netDone_eq {u : State} {id : Nat} (hop : u.netOp e id = some o) (hstep : o.step = some w)
    (hreset : o.reset = false) : u.netDone e id = if o.live then
      (((u.dropNet e id).stepCounted e w).flagAdd o.flagEngine o.flag 1).noteFlag e o.homeCourse o.slot o.flag 1
      else (u.dropNet e id).stepCounted e w := by
  unfold State.netDone State.stepCounted
  rw [hop]
  dsimp only
  rw [hreset, if_neg Bool.false_ne_true, hstep]
  cases (u.dropNet e id).partOfEngine e <;> rfl

/-- The end of an operation of an engine counts its step and raises its flag. -/
theorem State.netDone_step {u : State} {id : Nat} (hop : u.netOp e id = some o) (hstep : o.step = some w)
    (hreset : o.reset = false)
    (hawake : u.courseAwake (o.flagEngine / 32) = true) : SameStores u (u.netDone e id) ∧
      (∀ e' f', (u.netDone e id).flagVal e' f' = if o.live = true ∧ e' = o.flagEngine ∧ f' = o.flag
        then u.flagVal e' f' + 1 else u.flagVal e' f') ∧
      ((u.netDone e id).eng e).nets = (u.eng e).nets.filter (fun x => x.id != id) ∧
      ∀ p, u.partOfEngine e = some p →
        ((u.netDone e id).part p).steps = min ((u.part p).steps + 1) (2 ^ 64 - 1) := by
  rw [State.netDone_eq hop hstep hreset]
  obtain ⟨hcounted, hsteps⟩ := (u.dropNet e id).stepCounted_spec e w
  have hnets := (u.dropNet_eng e id e).2.2
  have hflags := u.flagVal_dropNet e id
  have hframe := u.dropNet_frame e id
  have hpart : ∀ p, (u.dropNet e id).part p = u.part p := fun _ => rfl
  have hpartOf : (u.dropNet e id).partOfEngine e = u.partOfEngine e := rfl
  generalize (u.dropNet e id).stepCounted e w = v at hcounted hsteps
  have hengines : v.engines = (u.dropNet e id).engines := by rw [hcounted]
  have hnets' : (v.eng e).nets = (u.eng e).nets.filter fun x => x.id != id := by
    rw [State.eng_of_engines hengines]
    exact hnets
  have hflags' : ∀ e' f', v.flagVal e' f' = u.flagVal e' f' := fun e' f' => by
    rw [State.flagVal, State.eng_of_engines hengines]
    exact hflags e' f'
  have hstores : SameStores u v := by
    rw [hcounted]
    exact ⟨rfl, rfl, rfl⟩
  have hsteps' : ∀ p, u.partOfEngine e = some p → (v.part p).steps = min ((u.part p).steps + 1) (2 ^ 64 - 1) :=
    fun p hp => hsteps p (hpartOf.trans hp)
  have hawake' : v.courseAwake (o.flagEngine / 32) = true := by
    rw [hcounted]
    exact hawake
  cases hlive : o.live with
  | false =>
    rw [if_neg Bool.false_ne_true]
    refine ⟨hstores, fun e' f' => ?_, hnets', hsteps'⟩
    rw [if_neg fun h => Bool.false_ne_true h.1]
    exact hflags' e' f'
  | true =>
    rw [if_pos rfl]
    have hadd := v.flagAdd_flagFrame o.flagEngine o.flag 1
    obtain ⟨hraised, -⟩ := v.flagAdd_raised o.flagEngine o.flag 1
    have hvals := hraised hawake'
    generalize v.flagAdd o.flagEngine o.flag 1 = y at hadd hvals
    have hnote := y.noteFlag_noteFrame e o.homeCourse o.slot o.flag 1
    generalize y.noteFlag e o.homeCourse o.slot o.flag 1 = z at hnote
    refine ⟨?_, fun e' f' => ?_, ?_, fun p hp => ?_⟩
    · obtain ⟨h1, h2, h3⟩ := hstores
      refine ⟨?_, ?_, ?_⟩
      · rw [hnote.frame, hadd.frame]; exact h1
      · rw [hnote.frame, hadd.frame]; exact h2
      · rw [hnote.frame, hadd.frame]; exact h3
    · have hz : z.flagVal e' f' = y.flagVal e' f' := by
        unfold State.flagVal
        rw [hnote.eng]
      rw [hz, hvals]
      simp only [true_and]
      rw [hflags']
    · rw [hnote.eng, hadd.eng]
      exact hnets'
    · have hparts : z.parts = v.parts := by
        rw [hnote.frame, hadd.frame]
      rw [State.part, hparts]
      exact hsteps' p hp

/-- The wait of a step is met. -/
theorem exec_nstepWaitMet (he : e < 2048) (hlive : s.live = true) (hat : s.stepAt e i = some (o, w))
    (hready : w.waitCount ≤ (s.flagLeft o.flagEngine w.waitFlag).toNat) (hturn : s.stepTurn e i o w = true)
    (hawake : s.courseAwake (o.flagEngine / 32) = true) :
    exec (.nstepWaitMet e i) s = .next ((s.waitMet e o w).stepSend e o w) := by
  change guarded (isEngine e) (s.nstepWaitMet e i) = _
  rw [guarded_ok (show isEngine e = true from decide_eq_true he)]
  have hready' : s.stepReady o w = true := decide_eq_true hready
  unfold State.nstepWaitMet
  rw [hat]
  dsimp only
  rw [hlive, hready', hturn]
  exact congrArg Host.Outcome.next (State.stepMet_eq hawake)

/-- A step that sends, its wait met. -/
theorem waitMet_sends (hmem : o ∈ (s.eng e).nets) (hsend : w.sendEn = true) :
    SameStores s ((s.waitMet e o w).stepSend e o w) ∧
    (∀ e' f', ((s.waitMet e o w).stepSend e o w).flagVal e' f' =
      if e' = o.flagEngine ∧ f' = w.waitFlag then s.flagVal e' f' - BitVec.ofNat 32 w.waitCount else s.flagVal e' f') ∧
    { o with step := some { w with met := true }, sent := true } ∈ (((s.waitMet e o w).stepSend e o w).eng e).nets ∧
    (o.tc = 1 → Injects s o w ((s.waitMet e o w).stepSend e o w)) := by
  obtain ⟨hinj, hengines⟩ := State.stepSend_injected (u := s.waitMet e o w) (e := e) (o := o) hsend
  refine ⟨?_, fun e' f' => ?_, ?_, fun htc => ?_⟩
  · obtain ⟨h1, h2, h3⟩ := hinj.stores
    exact ⟨h1, h2, h3⟩
  · rw [hinj.flags e' f', flagVal_modNet]
    exact flagVal_met s e o.id o w e' f'
  · rw [State.eng_of_engines hengines, State.modNet, State.eng_modEng_self]
    dsimp only
    rw [waitMet_nets]
    exact map_sending_mem hmem
  · exact (State.stepSend_sends (u := s.waitMet e o w) (e := e) hsend htc).of_same (met_places s e o.id o w _)
      fun h => met_noCopies h e o.id o w _

/-- A step that does not send completes when its wait is met. -/
theorem waitMet_done (hop : s.netOp e o.id = some o) (hsend : w.sendEn = false) (hreset : o.reset = false)
    (hawake : s.courseAwake (o.flagEngine / 32) = true) :
    SameStores s ((s.waitMet e o w).stepSend e o w) ∧
    (∀ e' f', ((s.waitMet e o w).stepSend e o w).flagVal e' f' = if o.live = true ∧ e' = o.flagEngine ∧ f' = o.flag
      then (if e' = o.flagEngine ∧ f' = w.waitFlag then s.flagVal e' f' - BitVec.ofNat 32 w.waitCount
        else s.flagVal e' f') + 1
      else if e' = o.flagEngine ∧ f' = w.waitFlag then s.flagVal e' f' - BitVec.ofNat 32 w.waitCount
        else s.flagVal e' f') ∧
    (((s.waitMet e o w).stepSend e o w).eng e).nets = (s.eng e).nets.filter (fun x => x.id ≠ o.id) ∧
    ∀ p, s.partOfEngine e = some p →
      (((s.waitMet e o w).stepSend e o w).part p).steps = min ((s.part p).steps + 1) (2 ^ 64 - 1) := by
  have hgo : (s.waitMet e o w).stepSend e o w = (s.waitMet e o w).netDone e o.id := by
    unfold State.stepSend
    rw [hsend]
    rfl
  have hop' : (s.waitMet e o w).netOp e o.id = some (o.waited w) := by
    unfold State.netOp
    rw [waitMet_nets]
    exact find?_map_waited hop (fun x => x.waited w) fun _ => rfl
  obtain ⟨hstores, hflags, hnets, hsteps⟩ := State.netDone_step (u := s.waitMet e o w) (o := o.waited w) (id := o.id) hop'
    (w := { w with met := true }) rfl hreset hawake
  rw [hgo]
  refine ⟨?_, fun e' f' => ?_, ?_, hsteps⟩
  · obtain ⟨h1, h2, h3⟩ := hstores
    exact ⟨h1, h2, h3⟩
  · rw [hflags e' f']
    have hmet : (s.waitMet e o w).flagVal e' f' = _ := flagVal_met s e o.id o w e' f'
    rw [hmet]
    rfl
  · rw [hnets, waitMet_nets]
    exact filter_map_waited _ _ (fun x => x.waited w) fun _ => rfl

end

/-! ## The progress timeout (R312 to R314) -/

section
variable {s : State} {e i p : Nat} {o : NetOp} {w : StepWait}

/-- The failure record of a partition whose progress timer has run out. -/
def Part.timedOut (x : Part) (port e peer : Nat) : Part :=
  let y := { x with timerCount := satAdd 32 x.timerCount 1 }
  if y.failValid then y
  else { y with failValid := true, failCause := 1, failPort := port, failEngine := e, failPeer := peer }

theorem Part.timedOut_spec (x : Part) (port e peer : Nat) :
    (x.timedOut port e peer).timerCount = min (x.timerCount + 1) 0xFFFFFFFF ∧
    (x.failValid = false → (x.timedOut port e peer).failValid = true ∧ (x.timedOut port e peer).failCause = 1 ∧
      (x.timedOut port e peer).failPort = port ∧ (x.timedOut port e peer).failEngine = e ∧
      (x.timedOut port e peer).failPeer = peer) := by
  unfold Part.timedOut
  cases h : x.failValid with
  | true => exact ⟨by simp only [if_true]; rfl, fun h' => nomatch h'⟩
  | false => exact ⟨rfl, fun _ => ⟨rfl, rfl, rfl, rfl, rfl⟩⟩

/-- The failure of an operation with a code that halts. -/
theorem State.netFail_halts {u : State} {id : Nat} {code : BitVec 8} (hhalts : haltingCode code = true)
    (hcheck : code ≠ faultCheck) (hop : u.netOp e id = some o) (hreset : o.reset = false)
    (hp : u.partOfEngine e = some p) (hr : o.live = false ∨ u.runner e o.homeCourse o.slot = e) (a : W64) :
    FaultFrame (u.dropNet e id) (u.netFail e id code a) ∧ ((u.netFail e id code a).part p).halted = true := by
  unfold State.netFail
  rw [hop]
  dsimp only
  rw [hreset, if_neg Bool.false_ne_true]
  have hp' : (u.dropNet e id).partOfEngine e = some p := hp
  have hr' : o.live = false ∨ (u.dropNet e id).runner e o.homeCourse o.slot = e := hr
  generalize u.dropNet e id = v at hp' hr'
  have hctx : FaultFrame v (if o.live = true then v else v.ctxFault o.ctx code o.opc e o.itemSeq) ∧
      (o.live = false ∨
        (if o.live = true then v else v.ctxFault o.ctx code o.opc e o.itemSeq).runner e o.homeCourse o.slot = e) := by
    cases hlive : o.live with
    | true =>
      rw [if_pos rfl]
      exact ⟨.refl v, hlive ▸ hr'⟩
    | false =>
      rw [if_neg Bool.false_ne_true]
      exact ⟨State.ctxFault_faultFrame _ _ _ _ _ _, .inl rfl⟩
  obtain ⟨hframe, hrun⟩ := hctx
  generalize (if o.live = true then v else v.ctxFault o.ctx code o.opc e o.itemSeq) = y at hframe hrun
  have hpy : y.partOfEngine e = some p := (hframe.partOfEngine e).trans hp'
  obtain ⟨hfault, hhalted⟩ := State.asyncFault_halts hhalts hcheck hpy hrun o.opc o.pc a
  rw [State.choose_halted ((hfault.partOfEngine e).trans hpy) hhalted]
  exact ⟨hframe.trans hfault, hhalted⟩

theorem exec_progressTimeout (he : e < 2048) (hlive : s.live = true) (hat : s.stepAt e i = some (o, w))
    (hp : s.partOfEngine e = some p) (hdue : w.limit * 25 ≤ w.timer) : exec (.progressTimeout e i) s =
    .next (((s.stick [.collFail p]).modPart p fun x => x.timedOut ((s.hopPort (e / 512) w.peer 1).getD 15) e w.peer).netFail
      e o.id faultNetFail) := by
  change guarded (isEngine e) (s.progressTimeout e i) = _
  rw [guarded_ok (show isEngine e = true from decide_eq_true he)]
  unfold State.progressTimeout
  rw [hat, hp]
  have hgo : ¬ (!s.live || decide (w.timer < w.limit * 25)) = true := by
    rw [hlive, decide_eq_false (Nat.not_lt.mpr hdue)]
    decide
  dsimp only
  rw [if_neg hgo]
  rfl

theorem progressTimeout_spec (hop : s.netOp e o.id = some o) (hreset : o.reset = false) (hp : s.partOfEngine e = some p)
    (hr : o.live = false ∨ s.runner e o.homeCourse o.slot = e) {port peer : Nat} {t : State}
    (ht : t = ((s.stick [.collFail p]).modPart p fun x => x.timedOut port e peer).netFail e o.id faultNetFail) :
    SameStores s t ∧ SameFlags s t ∧ (t.part p).halted = true ∧ (∀ x ∈ (t.eng e).nets, x.id ≠ o.id) ∧
      (t.part p).timerCount = min ((s.part p).timerCount + 1) 0xFFFFFFFF ∧
      ((s.part p).failValid = false → (t.part p).failValid = true ∧ (t.part p).failCause = 1 ∧
        (t.part p).failPort = port ∧ (t.part p).failEngine = e ∧ (t.part p).failPeer = peer) := by
  have hself : ((s.stick [.collFail p]).modPart p fun x => x.timedOut port e peer).part p =
      (s.part p).timedOut port e peer := State.part_modPart_self ..
  obtain ⟨hframe, hhalted⟩ := State.netFail_halts
    (u := (s.stick [.collFail p]).modPart p fun x => x.timedOut port e peer) (id := o.id) (code := faultNetFail)
    (by decide) (by decide) hop hreset hp hr 0
  rw [← ht] at hframe hhalted
  have hpart := hframe.part p
  have hpart' : Part.HaltOnly ((s.part p).timedOut port e peer) (t.part p) := hself ▸ hpart
  obtain ⟨hcount, hfail⟩ := (s.part p).timedOut_spec port e peer
  refine ⟨?_, fun e' f => ?_, hhalted, fun x hx => ?_, ?_, fun h => ?_⟩
  · obtain ⟨h1, h2, h3⟩ := hframe.stores
    exact ⟨h1, h2, h3⟩
  · exact (hframe.sameFlags e' f).trans (State.flagVal_dropNet _ e o.id e' f)
  · have hid : x.id ∈ (t.eng e).nets.map (·.id) := List.mem_map.mpr ⟨x, hx, rfl⟩
    rw [hframe.nets, (State.dropNet_eng _ e o.id e).2.2] at hid
    obtain ⟨y, hy, hyx⟩ := List.mem_map.mp hid
    rw [← hyx]
    exact bne_iff_ne.mp (List.mem_filter.mp hy).2
  · rw [hpart']
    exact hcount
  · obtain ⟨h1, h2, h3, h4, h5⟩ := hfail h
    rw [hpart']
    exact ⟨h1, h2, h3, h4, h5⟩

end

/-- Settles O31: NSTEP at its issue, a wait that is met, and the progress timer. -/
theorem steps : Obligations.Steps := by
  unfold Obligations.Steps
  intro s e flags injects
  refine ⟨?_, ?_, ?_⟩
  · intro f r h hi hslot hb hc him hd hnet hre hlow hroom hfresh b d ctl w hdest htgt hflag hctl hpad htc hdoes hwait hplan
      loc a len node hspan hung
    have hn : StepIssue s e f r h b (loc, a, len, node) :=
      ⟨hi, hslot, ⟨hb, hc, him⟩, hd, hnet, hre, hlow, hroom, hfresh, rfl, hdest, htgt, hflag, hctl, hpad, htc, hdoes, hwait,
        hplan, hspan⟩
    have hung_of : ∀ t o, StepHung s t e f r d w (loc, a, len, node) o → hung t o := by
      rintro t o ⟨⟨hstores, hnets, hpc, hact⟩, h1, h2, h3, h4, h5, h6, h7, h8, h9, h10, h11⟩
      exact ⟨hstores, hnets, hpc, hact, h1, h2, h3, h4, h5, h6, h7, h8, h9, h10, h11⟩
    refine ⟨fun hno => ?_, fun hen hless => ?_, fun hen hmet hsend hsteps hwaits hawake => ?_⟩
    · obtain ⟨t, o, hexec, hhung, hsame, hsent, hstep, hinj⟩ := exec_nstep_now hn hno
      exact ⟨t, o, hexec, hung_of t o hhung, hsame, hsent, hstep, hinj⟩
    · obtain ⟨t, o, hexec, hhung, hsame, hrte, hsent, hstep⟩ := exec_nstep_waits hn hen hless
      exact ⟨t, o, hexec, hung_of t o hhung, hsame, hrte, hsent, hstep⟩
    · obtain ⟨t, o, hexec, hhung, hvals, hsent, hstep, hinj⟩ := exec_nstep_met hn hen hmet hsend hsteps hwaits hawake
      refine ⟨t, o, hexec, hung_of t o hhung, fun e' f' => ?_, hsent, hstep, hinj⟩
      dsimp only
      rw [hvals e' f', if_neg fun h : w.sendEn = false ∧ _ => Bool.false_ne_true (h.1.symm.trans hsend)]
      rfl
  · intro i o w he hlive hat hop hready hturn hawake
    refine ⟨_, exec_nstepWaitMet he hlive hat hready hturn hawake, ?_⟩
    obtain ⟨-, hreset⟩ := stepAt_some hat
    by_cases hsend : w.sendEn = true
    · obtain ⟨hstores, hvals, hmem, hinj⟩ := waitMet_sends (w := w) (netOp_id hop) hsend
      refine ⟨hstores, fun e' f' => ?_, fun _ => ⟨hmem, fun htc _ => hinj htc⟩,
        fun h => absurd (h.symm.trans hsend) Bool.false_ne_true⟩
      dsimp only
      rw [hvals e' f', if_neg fun h : w.sendEn = false ∧ _ => Bool.false_ne_true (h.1.symm.trans hsend)]
    · rw [Bool.not_eq_true] at hsend
      obtain ⟨hstores, hvals, hnets, hcount⟩ := waitMet_done hop hsend hreset hawake
      refine ⟨hstores, fun e' f' => ?_, fun h => absurd (hsend.symm.trans h) Bool.false_ne_true, fun _ => ⟨hnets, hcount⟩⟩
      dsimp only
      rw [hvals e' f']
      simp only [hsend, true_and]
  · intro i p o w he hlive hat hop hp hdue hr
    obtain ⟨-, hreset⟩ := stepAt_some hat
    exact ⟨_, exec_progressTimeout he hlive hat hp hdue, progressTimeout_spec hop hreset hp hr rfl⟩

end Sys2Proof.Machine
end

section
/-!
SUPPORT. Ports that stop at FREEZE (R372).
-/
namespace Sys2Proof.Machine

/-! ## Ports that stop (R372) -/

section
variable {s : State}

/-- One control flit is one flit sent. -/
theorem Port.sendFlits_one (x : Port) (strict : Bool) : FlitSent x (x.sendFlits 1 strict) := by
  have hbegun : x.begun 1 = if x.txFill % 5 = 0 then 1 else 0 := by
    unfold Port.begun
    split <;> omega
  have hone : (List.range 1).map (fun i => x.txSeq + BitVec.ofNat 10 i) = [x.txSeq] := by simp
  unfold FlitSent Port.sendFlits
  rw [hbegun]
  split
  · rw [hone]
    rfl
  · simp only [List.range_zero, List.map_nil, List.append_nil, BitVec.add_zero]

/-- What abandoning what a port is sending leaves. -/
structure Unsent (s t : State) (p : Nat) : Prop where
  frame : t = { s with ports := t.ports, freeCtr := t.freeCtr }
  port : t.port p = { s.port p with txSent := (t.port p).txSent, txFlits := (t.port p).txFlits }
  others : ∀ q, q ≠ p → t.port q = s.port q

theorem State.unsend_unsent (s : State) (p : Nat) (y : QPkt) : Unsent s (s.unsend p y) p := by
  refine ⟨rfl, ?_, fun q hq => ?_⟩
  · unfold State.unsend
    dsimp only
    rw [State.port_modPort_self]
    rfl
  · unfold State.unsend
    dsimp only
    exact State.port_modPort_ne (s := s.freeNat.2) (b := q) _ hq

theorem Unsent.trans {t u : State} {p : Nat} (h : Unsent s t p) (k : Unsent t u p) : Unsent s u p := by
  refine ⟨?_, ?_, fun q hq => (k.others q hq).trans (h.others q hq)⟩
  · have hswap : ∀ a b, { t with ports := a, freeCtr := b } = { s with ports := a, freeCtr := b } := fun a b => by
      rw [h.frame]
    exact k.frame.trans (hswap _ _)
  · have hswap : ∀ a b, { t.port p with txSent := a, txFlits := b } = { s.port p with txSent := a, txFlits := b } :=
      fun a b => by rw [h.port]
    exact k.port.trans (hswap _ _)

theorem unsend_foldl (l : List QPkt) (p : Nat) (s : State) : Unsent s (l.foldl (fun s y => s.unsend p y) s) p := by
  induction l generalizing s with
  | nil => exact ⟨rfl, rfl, fun _ _ => rfl⟩
  | cons y l ih => exact (s.unsend_unsent p y).trans (ih _)

/-- A port that stops: nothing is being sent, and one more flit has gone. -/
def Port.stop (x : Port) : Port := { x with cut := [] }.sendFlits 1 false

theorem Port.stop_sent {x : Port} (h : x.cut = []) : FlitSent x x.stop := by
  have hsame : ({ x with cut := [] } : Port) = x := by rw [← h]
  unfold Port.stop
  rw [hsame]
  exact x.sendFlits_one false

/-- The IDLE flit with FROZEN that port `p` sends. -/
def State.frozenIdle (s : State) (wave : Bool) (p : Nat) : Out := .idle p s.hbCount wave true

/-- An UP port has stopped; another is as it was. -/
def PortStopped (x y : Port) : Prop :=
  if x.st = .up then
    FlitSent { x with cut := [], txSent := y.txSent, txFlits := y.txFlits } y ∧ (x.cut = [] → FlitSent x y)
  else y = x

/-- The ports of a list have stopped. -/
structure Stopped (s t : State) (wave : Bool) (l : List Nat) : Prop where
  frame : t = { s with ports := t.ports, out := t.out, freeCtr := t.freeCtr }
  out : t.out = s.out ++ (l.filter fun p => (s.port p).st = .up).map (s.frozenIdle wave)
  stopped : ∀ p ∈ l, PortStopped (s.port p) (t.port p)
  others : ∀ p, p ∉ l → t.port p = s.port p

theorem State.freezePort_stopped (s : State) (wave : Bool) (p : Nat) : Stopped s (s.freezePort wave p) wave [p] := by
  unfold State.freezePort
  by_cases hup : (s.port p).st = .up
  · rw [if_neg (by simp [hup])]
    have hun := unsend_foldl (s.port p).cut p s
    have hnone : (s.port p).cut = [] → (s.port p).cut.foldl (fun s y => s.unsend p y) s = s := fun h => by rw [h]; rfl
    dsimp only
    generalize (s.port p).cut.foldl (fun s y => s.unsend p y) s = u at hun hnone
    change Stopped s ((u.modPort p Port.stop).emit (.idle p u.hbCount wave true)) wave [p]
    have hport : ((u.modPort p Port.stop).emit (.idle p u.hbCount wave true)).port p = (u.port p).stop :=
      u.port_modPort_self p Port.stop
    have hframe := hun.frame
    have hsent := Port.sendFlits_one { u.port p with cut := [] } false
    refine ⟨?_, ?_, fun q hq => ?_, fun q hq => ?_⟩
    · have hswap : ∀ a b, { u with ports := a, out := b } = { s with ports := a, out := b, freeCtr := u.freeCtr } :=
        fun a b => by rw [hframe]
      exact hswap _ _
    · rw [List.filter_singleton, decide_eq_true hup]
      change u.out ++ [.idle p u.hbCount wave true] = _
      rw [hframe]
      rfl
    · rw [List.mem_singleton.mp hq]
      unfold PortStopped
      rw [if_pos hup, hport]
      refine ⟨?_, fun hcut => ?_⟩
      · have hswap : ({ s.port p with cut := [], txSent := (u.port p).txSent, txFlits := (u.port p).txFlits } : Port) =
            { u.port p with cut := [] } := by rw [hun.port]
        exact Eq.mpr (congrArg (fun x => FlitSent x _) hswap) hsent
      · rw [hnone hcut]
        exact Port.stop_sent hcut
    · rw [List.mem_singleton] at hq
      exact (State.port_modPort_ne (s := u) (b := q) _ hq).trans (hun.others q hq)
  · rw [if_pos (by simp [hup])]
    refine ⟨rfl, ?_, fun q hq => ?_, fun _ _ => rfl⟩
    · rw [List.filter_singleton, decide_eq_false hup]
      exact (List.append_nil _).symm
    · rw [List.mem_singleton.mp hq, PortStopped, if_neg hup]

theorem Stopped.cons {t u : State} {wave : Bool} {p : Nat} {l : List Nat} (hp : p ∉ l) (h : Stopped s t wave [p])
    (k : Stopped t u wave l) : Stopped s u wave (p :: l) := by
  have hst : ∀ q ∈ l, t.port q = s.port q := fun q hq => h.others q fun hqp =>
    hp (List.mem_singleton.mp hqp ▸ hq)
  have hidle : t.frozenIdle wave = s.frozenIdle wave := by
    rw [h.frame]
    rfl
  refine ⟨?_, ?_, fun q hq => ?_, fun q hq => ?_⟩
  · have hswap : ∀ a b c, { t with ports := a, out := b, freeCtr := c } = { s with ports := a, out := b, freeCtr := c } :=
      fun a b c => by rw [h.frame]
    exact k.frame.trans (hswap _ _ _)
  · have hfilter : (l.filter fun p => (t.port p).st = .up) = l.filter fun p => (s.port p).st = .up :=
      List.filter_congr fun q hq => by rw [hst q hq]
    rw [k.out, h.out, hfilter, hidle, List.append_assoc, ← List.map_append, ← List.filter_append, List.singleton_append]
  · obtain rfl | hq := List.mem_cons.mp hq
    · rw [k.others q hp]
      exact h.stopped q (List.mem_singleton.mpr rfl)
    · rw [← hst q hq]
      exact k.stopped q hq
  · rw [List.mem_cons, not_or] at hq
    rw [k.others q hq.2, h.others q fun h => hq.1 (List.mem_singleton.mp h)]

theorem freezePorts_stopped (wave : Bool) {l : List Nat} (hl : l.Nodup) (s : State) :
    Stopped s (l.foldl (fun s p => s.freezePort wave p) s) wave l := by
  induction l generalizing s with
  | nil => exact ⟨rfl, (List.append_nil _).symm, fun p hp => absurd hp List.not_mem_nil, fun _ _ => rfl⟩
  | cons p l ih =>
    obtain ⟨hp, hl⟩ := List.nodup_cons.mp hl
    exact (s.freezePort_stopped wave p).cons hp (ih hl _)

/-- What FREEZE keeps for reads. -/
theorem State.freeze_eq (hlatched : s.frz.latched = true) (hon : s.pwr.seq = .on) : ∃ u,
    Stopped s u (s.ready && s.cfg.slice.freezeWave) (List.range 10) ∧ s.freeze = { u with frz := { s.frz with
      latched := false, frozen := true,
      held := some { hosts := s.hosts, bond := s.bond, sec := s.sec, ports := u.ports, bu := s.bu, doms := s.doms,
                     mcs := s.mcs } } } := by
  refine ⟨_, freezePorts_stopped (s.ready && s.cfg.slice.freezeWave) List.nodup_range s, ?_⟩
  have hstopped := freezePorts_stopped (s.ready && s.cfg.slice.freezeWave) List.nodup_range s (l := List.range 10)
  unfold State.freeze
  rw [if_neg (by rw [hlatched, hon]; decide)]
  dsimp only
  have hframe := hstopped.frame
  generalize (List.range 10).foldl _ s = u at hframe ⊢
  have hfrz : u.frz = s.frz := by rw [hframe]
  have hhosts : u.hosts = s.hosts := by rw [hframe]
  have hbond : u.bond = s.bond := by rw [hframe]
  have hsec : u.sec = s.sec := by rw [hframe]
  have hbu : u.bu = s.bu := by rw [hframe]
  have hdoms : u.doms = s.doms := by rw [hframe]
  have hmcs : u.mcs = s.mcs := by rw [hframe]
  rw [hfrz, hhosts, hbond, hsec, hbu, hdoms, hmcs]

end

end Sys2Proof.Machine
end

section
/-!
SUPPORT. Freeze triggers, debug reads and JTAG (R371 to R376).
-/
namespace Sys2Proof.Machine

section
variable {s : State}

/-! ## The freeze triggers (R371) -/

/-- A trigger that comes after the cycle of the first changes nothing. -/
theorem State.freezeTrigger_of (f : Frz → Frz) : s.freezeTrigger f =
    if s.frz.frozen = true ∨ (s.frz.latched = true ∧ s.frz.latchedAt ≠ s.gen.time) then s
    else { s with frz := { f s.frz with latched := true, latchedAt := s.gen.time } } := by
  unfold State.freezeTrigger
  simp only [Bool.or_eq_true, Bool.and_eq_true, decide_eq_true_eq]

theorem exec_frzCtrl {r : Requester} {v : W32} (hw : s.writable = true) (hown : s.ownerOrBus r = true) :
    ∃ t, exec (.frzCtrl r v) s = .next t ∧ t = { s with frz := t.frz, latches := t.latches } ∧
      t.frz = if v.toNat % 256 = 0x5A ∧ ¬ (s.frz.latched = true ∧ s.frz.latchedAt ≠ s.gen.time)
        then { s.frz with host := true, latched := true, latchedAt := s.gen.time } else s.frz := by
  have hw' : (s.emptyLatch r).writable = true := hw
  have hown' : (s.emptyLatch r).ownerOrBus r = true := hown
  have hthaw : s.frz.frozen = false := by
    unfold State.writable at hw
    simp only [Bool.and_eq_true, Bool.not_eq_true'] at hw
    exact hw.2
  refine ⟨s.frzCtrl r v, rfl, ?_⟩
  unfold State.frzCtrl
  dsimp only
  rw [hw', hown', State.freezeTrigger_of]
  by_cases hv : v.toNat % 256 = 0x5A
  · rw [if_neg (by simp [hv])]
    by_cases hlate : s.frz.latched = true ∧ s.frz.latchedAt ≠ s.gen.time
    · rw [if_pos (.inr hlate), if_neg fun h => h.2 hlate]
      exact ⟨rfl, rfl⟩
    · rw [if_neg (fun h => h.elim (fun h => Bool.false_ne_true (hthaw.symm.trans h)) hlate), if_pos ⟨hv, hlate⟩]
      exact ⟨rfl, rfl⟩
  · rw [if_pos (by simp [hv]), if_neg fun h => hv h.1]
    exact ⟨rfl, rfl⟩

theorem exec_frzNAssert (hon : s.pwr.seq = .on) : exec .frzNAssert s = .next
    { s with gen := { s.gen with frzN := false },
             frz := if s.frz.frozen = true ∨ (s.frz.latched = true ∧ s.frz.latchedAt ≠ s.gen.time) then s.frz
               else { s.frz with pin := true, latched := true, latchedAt := s.gen.time } } := by
  refine congrArg Host.Outcome.next (?_ : s.frzPin = _)
  unfold State.frzPin
  rw [if_neg (by rw [hon]; decide), State.freezeTrigger_of]
  dsimp only
  split <;> rfl

theorem exec_freeze_idle (h : s.frz.latched = false ∨ s.pwr.seq ≠ .on) : exec .freeze s = .next s := by
  refine congrArg Host.Outcome.next (?_ : s.freeze = s)
  unfold State.freeze
  refine if_pos ?_
  obtain h | h := h
  · rw [h]
    rfl
  · rw [bne_iff_ne.mpr h, Bool.or_true]

/-! ## Debug reads (R375) -/

/-- A debug read of a course's stores, as its space and address name it. -/
def dbgCourseAt (sp : BitVec 2) (a : W64) : Nat := if sp = 1 then a.toNat / 2 ^ 22 else a.toNat / 2 ^ 24

theorem State.dbgCourse_some (h : (s.frz.space = 1 ∨ s.frz.space = 2) ∧ dbgCourseAt s.frz.space s.frz.addr < 64) :
    s.dbgCourse = some (dbgCourseAt s.frz.space s.frz.addr) := by
  unfold State.dbgCourse dbgCourseAt at *
  refine if_pos ?_
  simp only [Bool.and_eq_true, Bool.or_eq_true, decide_eq_true_eq]
  exact h

theorem State.dbgCourse_none (h : ¬ ((s.frz.space = 1 ∨ s.frz.space = 2) ∧ dbgCourseAt s.frz.space s.frz.addr < 64)) :
    s.dbgCourse = none := by
  unfold State.dbgCourse dbgCourseAt at *
  refine if_neg ?_
  simp only [Bool.and_eq_true, Bool.or_eq_true, decide_eq_true_eq]
  exact h

/-- The state of the freeze unit once a debug read has been asked for. -/
def Frz.asked (z : Frz) : Frz := { z with goPending := true, goOk := z.frozen, doneBit := false, err := 0 }

/-- What the start of a debug read leaves. -/
theorem State.dbgStart_spec (s : State) : s.dbgStart = { s with
    frz := s.frz.asked, doms := s.dbgStart.doms, pwr := s.dbgStart.pwr } ∧
    (s.frz.frozen = true ∧ (s.frz.space = 1 ∨ s.frz.space = 2) ∧ dbgCourseAt s.frz.space s.frz.addr < 64 →
      Woken s s.dbgStart (dbgCourseAt s.frz.space s.frz.addr)) ∧
    (¬ (s.frz.frozen = true ∧ (s.frz.space = 1 ∨ s.frz.space = 2) ∧ dbgCourseAt s.frz.space s.frz.addr < 64) →
      s.dbgStart.doms = s.doms ∧ s.dbgStart.pwr = s.pwr) := by
  unfold State.dbgStart
  by_cases hc : (s.frz.space = 1 ∨ s.frz.space = 2) ∧ dbgCourseAt s.frz.space s.frz.addr < 64
  · rw [State.dbgCourse_some hc]
    cases hf : s.frz.frozen with
    | true =>
      have hframe := (s.requestWake_wakesOnly (dbgCourseAt s.frz.space s.frz.addr)).frame
      have hwoken : Woken s (s.requestWake (dbgCourseAt s.frz.space s.frz.addr)) _ :=
        fun hheld hasleep => State.requestWake_wakeReq hheld hasleep
      dsimp only [domCourse]
      rw [if_pos rfl]
      generalize s.requestWake (dbgCourseAt s.frz.space s.frz.addr) = u at hframe hwoken
      have hfrz : u.frz = s.frz := by rw [hframe]
      refine ⟨?_, fun _ => hwoken, fun h => absurd ⟨rfl, hc⟩ h⟩
      have hswap : ∀ z, { u with frz := z } = { s with frz := z, doms := u.doms, pwr := u.pwr } := fun z => by
        rw [hframe]
      rw [hfrz]
      unfold Frz.asked
      exact hswap _
    | false =>
      dsimp only
      rw [if_neg Bool.false_ne_true]
      exact ⟨rfl, fun h => absurd h.1 Bool.false_ne_true, fun _ => ⟨rfl, rfl⟩⟩
  · rw [State.dbgCourse_none hc]
    exact ⟨rfl, fun h => absurd h.2 hc, fun _ => ⟨rfl, rfl⟩⟩

/-- A write of FRZ_DBG_CTRL. -/
theorem State.dbgCtrl_eq {r : Requester} {v : W32} (hm : s.masonUp = true) (hown : s.ownerOnly r = true) :
    s.dbgCtrl r v = if v.getLsbD 0 then
      ({ s.emptyLatch r with frz := { s.frz with space := v.extractLsb' 8 2 } } : State).dbgStart
      else { s.emptyLatch r with frz := { s.frz with space := v.extractLsb' 8 2 } } := by
  have hm' : (s.emptyLatch r).masonUp = true := hm
  have hown' : (s.emptyLatch r).ownerOnly r = true := hown
  unfold State.dbgCtrl
  dsimp only
  rw [hm', hown', if_neg (by decide)]
  rfl

/-- The end of a debug read that GO asked for while the module was not frozen, or of no place. -/
def State.dbgEnded (s : State) (err : Nat) (data : List Byte) : State :=
  { s with frz := { s.frz with goPending := false, doneBit := true, err := err, data := data } }

variable {ue : Bool}

theorem dbgReadDone_refused (hgo : s.frz.goPending = true) (hok : s.frz.goOk = false) :
    exec (.dbgReadDone ue) s = .next (s.dbgEnded 1 s.frz.data) := by
  refine congrArg Host.Outcome.next (?_ : s.dbgDone ue = _)
  unfold State.dbgDone
  rw [hgo, hok]
  rfl

theorem dbgReadDone_none (hgo : s.frz.goPending = true) (hok : s.frz.goOk = true) (hbytes : s.dbgBytes = none) :
    exec (.dbgReadDone ue) s = .next (s.dbgEnded 2 s.frz.data) := by
  refine congrArg Host.Outcome.next (?_ : s.dbgDone ue = _)
  unfold State.dbgDone
  rw [hgo, hok, hbytes]
  rfl

theorem dbgReadDone_some {bs : List Byte} (hgo : s.frz.goPending = true) (hok : s.frz.goOk = true)
    (hbytes : s.dbgBytes = some bs) : exec (.dbgReadDone ue) s = .next
      (if ue = true ∧ s.frz.space = 0 then s.dbgEnded 3 s.frz.data else s.dbgEnded 0 bs) := by
  refine congrArg Host.Outcome.next (?_ : s.dbgDone ue = _)
  unfold State.dbgDone
  rw [hgo, hok, hbytes]
  simp only [Bool.not_true, Bool.false_eq_true, if_false, Bool.and_eq_true, decide_eq_true_eq]
  rfl

theorem State.dbgBytes_misaligned (h : s.frz.addr.toNat % 256 ≠ 0) : s.dbgBytes = none := by
  unfold State.dbgBytes
  exact if_pos h

theorem State.dbgBytes_pier {p o : Nat} (hp : p < 32) (ho : o < 2 ^ 36) (hal : o % 256 = 0) (hsp : s.frz.space = 0)
    (ha : s.frz.addr.toNat = 2 ^ 36 * p + o) (ht : (s.pier p).trained = true) (hend : o + 256 ≤ 12582912 * 4096) :
    s.dbgBytes = some (Mem.read s.mem (2 ^ 36 * p + o) 256) := by
  have h1 : (2 ^ 36 * p + o) / 2 ^ 36 = p := by omega
  have h2 : (2 ^ 36 * p + o) % 2 ^ 36 = o := by omega
  unfold State.dbgBytes
  rw [ha, hsp, if_neg (show ¬ (2 ^ 36 * p + o) % 256 ≠ 0 by omega), h1, h2]
  exact if_pos (by simp only [Bool.and_eq_true, decide_eq_true_eq]; exact ⟨⟨hp, ht⟩, hend⟩)

theorem State.dbgBytes_course {c o : Nat} (hc : c < 64) (ho : o < 2 ^ 22) (hal : o % 256 = 0) (hsp : s.frz.space = 1)
    (ha : s.frz.addr.toNat = 2 ^ 22 * c + o) : s.dbgBytes =
      if (s.dom c).held = true ∨ (s.dom c).level = 5 then none else some (Mem.read s.cs (2 ^ 22 * c + o) 256) := by
  have h1 : (2 ^ 22 * c + o) / 2 ^ 22 = c := by omega
  have h2 : (2 ^ 22 * c + o) % 2 ^ 22 = o := by omega
  unfold State.dbgBytes
  rw [ha, show s.frz.space.toNat = 1 by rw [hsp]; rfl, if_neg (show ¬ (2 ^ 22 * c + o) % 256 ≠ 0 by omega), h1, h2]
  dsimp only
  simp only [Bool.and_eq_true, decide_eq_true_eq, Bool.not_eq_true']
  by_cases hh : (s.dom c).held = true ∨ (s.dom c).level = 5
  · rw [if_pos hh, if_neg]
    rintro ⟨⟨-, hheld⟩, hlevel⟩
    exact hh.elim (fun h => Bool.false_ne_true (hheld.symm.trans h)) hlevel
  · rw [not_or, Bool.not_eq_true] at hh
    rw [if_pos ⟨⟨hc, hh.1⟩, hh.2⟩, if_neg fun h => h.elim (fun h => Bool.false_ne_true (hh.1.symm.trans h)) hh.2]
    rfl

theorem State.dbgBytes_store {e o : Nat} (he : e < 2048) (ho : o < 2 ^ 19) (hal : o % 256 = 0) (hsp : s.frz.space = 2)
    (ha : s.frz.addr.toNat = 2 ^ 19 * e + o) : s.dbgBytes =
      if (s.dom (e / 32)).held = true ∨ (s.dom (e / 32)).level = 5 ∨ 0x60000 < o + 256 then none
      else some (Mem.read s.ls (2 ^ 19 * e + o) 256) := by
  have h1 : (2 ^ 19 * e + o) / 2 ^ 19 = e := by omega
  have h2 : (2 ^ 19 * e + o) % 2 ^ 19 = o := by omega
  unfold State.dbgBytes
  rw [ha, show s.frz.space.toNat = 2 by rw [hsp]; rfl, if_neg (show ¬ (2 ^ 19 * e + o) % 256 ≠ 0 by omega), h1, h2]
  dsimp only
  simp only [Bool.and_eq_true, decide_eq_true_eq, Bool.not_eq_true']
  by_cases hh : (s.dom (e / 32)).held = true ∨ (s.dom (e / 32)).level = 5 ∨ 0x60000 < o + 256
  · rw [if_pos hh, if_neg]
    rintro ⟨⟨⟨-, hheld⟩, hlevel⟩, hend⟩
    obtain h | h | h := hh
    · exact Bool.false_ne_true (hheld.symm.trans h)
    · exact hlevel h
    · have hend' : o + 256 ≤ 0x60000 := hend
      omega
  · rw [if_neg hh]
    rw [not_or, not_or, Bool.not_eq_true] at hh
    obtain ⟨hheld, hlevel, hend⟩ := hh
    have hend' : o + 256 ≤ lsSize := Nat.not_lt.mp hend
    rw [if_pos ⟨⟨⟨he, hheld⟩, hlevel⟩, hend'⟩]
    rfl

/-- One piece of a concatenation of pieces of one length. -/
theorem flatMap_piece {α : Type} {g : Nat → List α} {k n i : Nat} (hg : ∀ j, (g j).length = k) (hi : i < n) :
    (((List.range n).flatMap g).drop (k * i)).take k = g i := by
  obtain ⟨m, rfl⟩ : ∃ m, n = i + (m + 1) := ⟨n - i - 1, by omega⟩
  rw [List.range_add, List.flatMap_append]
  have hlen : ((List.range i).flatMap g).length = k * i := by
    rw [length_flatMap_const (n := k) fun j _ => hg j, List.length_range]
    exact Nat.mul_comm ..
  rw [List.drop_left' hlen, List.range_succ_eq_map, List.map_cons, List.flatMap_cons]
  exact List.take_left' (hg _)

theorem State.dbgBytes_engine {e : Nat} (he : e < 2048) (hsp : s.frz.space = 3)
    (ha : s.frz.addr.toNat = 2 ^ 13 * e) (hheld : (s.dom (e / 32)).held = false) (hlevel : (s.dom (e / 32)).level ≠ 5) :
    ∃ bs, s.dbgBytes = some bs ∧ ∀ i < 32, fieldAt bs (8 * i) 8 = (Tab.get (0 : W64) (s.eng e).g i).toNat := by
  have h1 : (2 ^ 13 * e) / 2 ^ 13 = e := by omega
  have h2 : (2 ^ 13 * e) % 2 ^ 13 = 0 := by omega
  refine ⟨sliceAt (s.engineImage e) 0 256, ?_, fun i hi => ?_⟩
  · unfold State.dbgBytes
    rw [ha, hsp, if_neg (show ¬ (2 ^ 13 * e) % 256 ≠ 0 by omega), h1, h2]
    exact if_pos (by simp only [Bool.and_eq_true, decide_eq_true_eq, Bool.not_eq_true']; exact ⟨⟨he, hheld⟩, hlevel⟩)
  · have hlen : ∀ j, (leBytes 8 (Tab.get (0 : W64) (s.eng e).g j).toNat).length = 8 := fun j => leBytes_length ..
    have hpiece := flatMap_piece (i := i) (n := 64) hlen (by omega)
    unfold fieldAt sliceAt State.engineImage
    dsimp only
    generalize hl : (List.range 64).flatMap (fun j => leBytes 8 (Tab.get (0 : W64) (s.eng e).g j).toNat) = l at hpiece
    have hl' : l.length = 512 := by
      rw [← hl, length_flatMap_const (n := 8) fun j _ => hlen j, List.length_range]
    rw [List.drop_zero, List.append_assoc, List.append_assoc, List.append_assoc, List.append_assoc,
      List.take_append_of_le_length (by omega), List.drop_take, List.take_take, Nat.min_eq_left (by omega), hpiece,
      leNat_leBytes]
    exact Nat.mod_eq_of_lt (BitVec.isLt _)

/-! ## JTAG (R376) -/

theorem exec_dbgReq (hin : s.pwr.inputOn = true) (dr : BitVec 72) : exec (.dbgReq dr) s = .next
    (if dr.getLsbD 66 then ({ s with
        jtag := { s.jtag with ir := irDbgReq, drive := false },
        frz := { s.frz with addr := dr.extractLsb' 0 64, space := dr.extractLsb' 64 2 } } : State).dbgStart
     else { s with
        jtag := { s.jtag with ir := irDbgReq, drive := false },
        frz := { s.frz with addr := dr.extractLsb' 0 64, space := dr.extractLsb' 64 2 } }) := by
  refine congrArg Host.Outcome.next (?_ : s.dbgReq dr = _)
  unfold State.dbgReq State.jtagOn
  rw [hin]
  rfl

theorem exec_dbgData (hin : s.pwr.inputOn = true) : ∃ bs, exec .dbgData s = .next
    { s with jtag := { s.jtag with ir := 0x41, drive := false }, out := s.out ++ [.jtag bs] } ∧ bs.length = 257 ∧
    (s.frz.err < 4 → fieldAt bs 0 1 = (if s.frz.doneBit then 2 else 0) + 4 * s.frz.err) ∧
    (s.frz.data.length = 256 → bs.drop 1 = s.frz.data) := by
  refine ⟨leBytes 1 s.frz.ctrlByte ++ s.frz.bytes, ?_, ?_, fun herr => ?_, fun hlen => ?_⟩
  · refine congrArg Host.Outcome.next (?_ : s.dbgData = _)
    unfold State.dbgData State.jtagOn
    rw [hin]
    rfl
  · rw [List.length_append, leBytes_length]
    unfold Frz.bytes padTo
    rw [List.length_append, List.length_take, List.length_replicate]
    omega
  · unfold fieldAt
    rw [List.drop_zero, List.take_left' (leBytes_length 1 _), leNat_leBytes]
    unfold Frz.ctrlByte b2n
    split <;> omega
  · rw [List.drop_left' (leBytes_length 1 _)]
    unfold Frz.bytes padTo
    rw [List.take_of_length_le (by omega), hlen]
    exact List.append_nil _

end

/-- Settles O52, trigger by trigger and debug read by debug read. -/
theorem freezeAndDebug : Obligations.FreezeAndDebug := by
  unfold Obligations.FreezeAndDebug
  intro s z late
  refine ⟨fun r v hw hown => exec_frzCtrl hw hown, exec_frzNAssert, fun hlatched hon => ?_, exec_freeze_idle, ?_⟩
  · obtain ⟨u, hstopped, hfreeze⟩ := State.freeze_eq hlatched hon
    refine ⟨s.freeze, rfl, ?_⟩
    rw [hfreeze]
    refine ⟨?_, rfl, hstopped.out, fun p hp => hstopped.stopped p (List.mem_range.mpr hp)⟩
    have hswap : ∀ y, { u with frz := y } = { s with ports := u.ports, frz := y, out := u.out, freeCtr := u.freeCtr } :=
      fun y => by rw [hstopped.frame]
    exact hswap _
  intro course wakes woken
  refine ⟨fun r v hm hown => ?_, fun ue hgo => ?_, fun hin => ⟨fun dr => ?_, exec_dbgData hin, ?_, fun pins shifted => ⟨?_, ?_⟩⟩⟩
  · refine ⟨s.dbgCtrl r v, rfl, ?_⟩
    rw [State.dbgCtrl_eq hm hown]
    cases hv : v.getLsbD 0 with
    | true =>
      rw [if_pos rfl, if_pos rfl]
      obtain ⟨hframe, hwoken, hstays⟩ :=
        ({ s.emptyLatch r with frz := { s.frz with space := v.extractLsb' 8 2 } } : State).dbgStart_spec
      refine ⟨?_, ⟨fun _ => hwoken, fun h => hstays (h.resolve_left Bool.noConfusion)⟩, ?_⟩
      · rw [hframe]
        rfl
      · rw [hframe]
        rfl
    | false =>
      rw [if_neg Bool.false_ne_true, if_neg Bool.false_ne_true]
      exact ⟨rfl, ⟨fun h => absurd h Bool.false_ne_true, fun _ => ⟨rfl, rfl⟩⟩, rfl⟩
  · refine ⟨dbgReadDone_refused hgo, fun hok => ⟨fun h => dbgReadDone_none hgo hok (State.dbgBytes_misaligned h), ?_⟩⟩
    refine ⟨fun p o hp ho hal hsp ha ht hend => ?_, fun c o hc ho hal hsp ha => ?_, fun e o he ho hal hsp ha => ?_,
      fun e he hsp ha hheld hlevel => ?_⟩
    · rw [dbgReadDone_some hgo hok (State.dbgBytes_pier hp ho hal hsp ha ht hend)]
      simp only [show s.frz.space = 0 from hsp, and_true]
      rfl
    · have hbytes := State.dbgBytes_course hc ho hal hsp ha
      by_cases hh : (s.dom c).held = true ∨ (s.dom c).level = 5
      · rw [if_pos hh] at hbytes ⊢
        exact dbgReadDone_none hgo hok hbytes
      · rw [if_neg hh] at hbytes ⊢
        rw [dbgReadDone_some hgo hok hbytes, if_neg fun h => absurd (hsp.symm.trans h.2) (by decide)]
        rfl
    · have hbytes := State.dbgBytes_store he ho hal hsp ha
      by_cases hh : (s.dom (e / 32)).held = true ∨ (s.dom (e / 32)).level = 5 ∨ 0x60000 < o + 256
      · rw [if_pos hh] at hbytes ⊢
        exact dbgReadDone_none hgo hok hbytes
      · rw [if_neg hh] at hbytes ⊢
        rw [dbgReadDone_some hgo hok hbytes, if_neg fun h => absurd (hsp.symm.trans h.2) (by decide)]
        rfl
    · obtain ⟨bs, hbytes, hregs⟩ := State.dbgBytes_engine he hsp ha hheld hlevel
      refine ⟨s.dbgEnded 0 bs, ?_, rfl, hregs⟩
      rw [dbgReadDone_some hgo hok hbytes, if_neg fun h => absurd (hsp.symm.trans h.2) (by decide)]
  · refine ⟨_, exec_dbgReq hin dr, ?_⟩
    cases hv : dr.getLsbD 66 with
    | true =>
      rw [if_pos rfl, if_pos rfl]
      obtain ⟨hframe, hwoken, hstays⟩ := ({ s with
        jtag := { s.jtag with ir := irDbgReq, drive := false },
        frz := { s.frz with addr := dr.extractLsb' 0 64, space := dr.extractLsb' 64 2 } } : State).dbgStart_spec
      exact ⟨⟨fun _ => hwoken, fun h => hstays (h.resolve_left Bool.noConfusion)⟩, hframe⟩
    | false =>
      rw [if_neg Bool.false_ne_true, if_neg Bool.false_ne_true]
      exact ⟨⟨fun h => absurd h Bool.false_ne_true, fun _ => ⟨rfl, rfl⟩⟩, rfl⟩
  · refine congrArg Host.Outcome.next (?_ : s.jtagBypass = _)
    unfold State.jtagBypass State.jtagOn
    rw [hin]
    rfl
  · refine congrArg Host.Outcome.next (?_ : s.boundary Config.irSample false pins shifted = _)
    unfold State.boundary State.jtagOn
    rw [hin]
    rfl
  · refine congrArg Host.Outcome.next (?_ : s.boundary Config.irExtest true pins shifted = _)
    unfold State.boundary State.jtagOn
    rw [hin]
    rfl

end Sys2Proof.Machine
end

section
/-!
SUPPORT. Coordinate words, ORIGIN and SKIP, and what a HELLO flit gives (R381 to R384).
-/
namespace Sys2Proof.Machine

/-! ## Coordinate words (R383) -/

theorem coordWord_eq (c : Nat → Nat) :
    coordWord c = c 0 % 2 ^ 4 * 2 ^ 0 + (c 1 % 2 ^ 5 * 2 ^ 4 + (c 2 % 2 ^ 5 * 2 ^ 9 + c 3 % 2 ^ 4 * 2 ^ 14)) := by
  have hrange : List.range 4 = [0, 1, 2, 3] := by decide
  unfold coordWord
  rw [hrange]
  simp only [List.map_cons, List.map_nil, List.sum_cons, List.sum_nil, Nat.add_zero, coordFields, List.getD_cons_zero,
    List.getD_cons_succ]

theorem coordWord_lt (c : Nat → Nat) : coordWord c < 2 ^ 18 := by
  rw [coordWord_eq]
  omega

/-- The width of a coordinate on axis `a`. -/
def coordWidth (a : Nat) : Nat := (coordFields.getD a (0, 0)).2

theorem coordOn_coordWord (c : Nat → Nat) {a : Nat} (ha : a < 4) : coordOn (coordWord c) a = c a % 2 ^ coordWidth a := by
  rw [coordWord_eq]
  obtain rfl | rfl | rfl | rfl : a = 0 ∨ a = 1 ∨ a = 2 ∨ a = 3 := by omega
  · change (_ : Nat) / 2 ^ 0 % 2 ^ 4 = c 0 % 2 ^ 4
    omega
  · change (_ : Nat) / 2 ^ 4 % 2 ^ 5 = c 1 % 2 ^ 5
    omega
  · change (_ : Nat) / 2 ^ 9 % 2 ^ 5 = c 2 % 2 ^ 5
    omega
  · change (_ : Nat) / 2 ^ 14 % 2 ^ 4 = c 3 % 2 ^ 4
    omega

theorem coordOn_lt (w : Nat) {a : Nat} : coordOn w a < 2 ^ coordWidth a := Nat.mod_lt _ (Nat.two_pow_pos _)

theorem coordWord_coordOn {w : Nat} (hw : w < 2 ^ 18) : coordWord (coordOn w) = w := by
  rw [coordWord_eq]
  change w / 2 ^ 0 % 2 ^ 4 % 2 ^ 4 * 2 ^ 0 + (w / 2 ^ 4 % 2 ^ 5 % 2 ^ 5 * 2 ^ 4 +
    (w / 2 ^ 9 % 2 ^ 5 % 2 ^ 5 * 2 ^ 9 + w / 2 ^ 14 % 2 ^ 4 % 2 ^ 4 * 2 ^ 14)) = w
  omega

theorem coordWord_congr {c d : Nat → Nat} (h : ∀ a < 4, c a = d a) : coordWord c = coordWord d := by
  rw [coordWord_eq, coordWord_eq, h 0 (by decide), h 1 (by decide), h 2 (by decide), h 3 (by decide)]

/-- The coordinate on axis `a` that a HELLO on port `p` gives. -/
def derivedOn (p c r a : Nat) : Nat :=
  if a = portAxis p then (((coordOn c a : Int) - portStep p) % ringOn r a).toNat else coordOn c a

theorem derivedCoord_eq (p c r : Nat) : derivedCoord p c r = coordWord (derivedOn p c r) := by
  refine coordWord_congr fun a _ => ?_
  unfold derivedOn
  split
  · next h =>
    rw [h]
    rfl
  · rfl

/-- On a ring that fits its field a derived coordinate fits too. -/
theorem derivedOn_lt {p c r : Nat} (hp : p < 10) (h0 : 0 < ringOn r (portAxis p))
    (hmax : ringOn r (portAxis p) ≤ [16, 32, 32, 16].getD (portAxis p) 0) (a : Nat) :
    derivedOn p c r a < 2 ^ coordWidth a := by
  unfold derivedOn
  split
  · next h =>
    subst h
    have hle : [16, 32, 32, 16].getD (portAxis p) 0 = 2 ^ coordWidth (portAxis p) := by
      have haxis : portAxis p < 4 := by
        unfold portAxis
        split <;> omega
      obtain h | h | h | h : portAxis p = 0 ∨ portAxis p = 1 ∨ portAxis p = 2 ∨ portAxis p = 3 := by omega
      all_goals
        rw [h]
        rfl
    have hpos : (0 : Int) < ringOn r (portAxis p) := by exact_mod_cast h0
    have hmod := Int.emod_lt_of_pos ((coordOn c (portAxis p) : Int) - portStep p) hpos
    have hnn := Int.emod_nonneg ((coordOn c (portAxis p) : Int) - portStep p) (Int.ne_of_gt hpos)
    omega
  · exact coordOn_lt c

theorem coordOn_derivedCoord {p c r : Nat} (hp : p < 10) (h0 : 0 < ringOn r (portAxis p))
    (hmax : ringOn r (portAxis p) ≤ [16, 32, 32, 16].getD (portAxis p) 0) {a : Nat} (ha : a < 4) :
    coordOn (derivedCoord p c r) a = derivedOn p c r a := by
  rw [derivedCoord_eq, coordOn_coordWord _ ha]
  exact Nat.mod_eq_of_lt (derivedOn_lt hp h0 hmax a)

/-- A derived word is that of the coordinates it is derived from, axis by axis. -/
theorem derivedCoord_eq_iff {p c r w : Nat} (hp : p < 10) (h0 : 0 < ringOn r (portAxis p))
    (hmax : ringOn r (portAxis p) ≤ [16, 32, 32, 16].getD (portAxis p) 0) (hw : w < 2 ^ 18) :
    derivedCoord p c r = w ↔ ∀ a < 4, derivedOn p c r a = coordOn w a := by
  constructor
  · rintro rfl a ha
    exact (coordOn_derivedCoord hp h0 hmax ha).symm
  · intro h
    rw [derivedCoord_eq, coordWord_congr h, coordWord_coordOn hw]

/-! ## ORIGIN and SKIP (R382) -/

section
variable {s : State} {h : Nat}

theorem discWrite_of (hw : s.writable = true) (hstage : s.bu.stage ≤ 7) (hst : ¬ (s.bu.stage = 7 ∧ s.bu.st = .failed)) :
    s.discWrite = true := by
  unfold State.discWrite
  rw [hw, decide_eq_true hstage]
  simp only [Bool.true_and, Bool.not_eq_true', Bool.and_eq_false_imp, beq_iff_eq, beq_eq_false_iff_ne]
  exact fun h7 hf => hst ⟨h7, hf⟩

theorem discWrite_late (hstage : 8 ≤ s.bu.stage) : s.discWrite = false := by
  unfold State.discWrite
  rw [decide_eq_false (by omega), Bool.and_false, Bool.false_and]

theorem exec_origin (hh : h < 2) (hd : s.discWrite = true) : exec (.origin h) s = .next
    (if s.bu.coordValid = false then
      ({ s.emptyLatch (portReq h) with bu := { s.bu with isOrigin := true } } : State).takeCoord
        (s.bu.origin.toNat % 2 ^ 18) (s.bu.ring.toNat % 2 ^ 21)
     else if s.bu.origin.toNat % 2 ^ 18 = s.bu.coord.toNat ∧ s.bu.ring.toNat % 2 ^ 21 = s.bu.coordRing.toNat then
      { s.emptyLatch (portReq h) with bu := { s.bu with isOrigin := true } }
     else ({ s.emptyLatch (portReq h) with bu := { s.bu with isOrigin := true } } : State).noteConflict 5 0xF) := by
  change guarded (isHost h) (s.discOrigin h) = _
  rw [guarded_ok (show isHost h = true from decide_eq_true hh)]
  have hd' : (s.emptyLatch (portReq h)).discWrite = true := hd
  unfold State.discOrigin
  dsimp only
  rw [hd', if_neg (by decide)]
  cases hv : s.bu.coordValid with
  | false =>
    rw [show (s.emptyLatch (portReq h)).bu = s.bu from rfl, hv]
    rfl
  | true =>
    rw [show (s.emptyLatch (portReq h)).bu = s.bu from rfl, hv]
    rfl

theorem exec_origin_late (hh : h < 2) (hd : s.discWrite = false) : exec (.origin h) s = .next (s.emptyLatch (portReq h)) := by
  change guarded (isHost h) (s.discOrigin h) = _
  rw [guarded_ok (show isHost h = true from decide_eq_true hh)]
  have hd' : (s.emptyLatch (portReq h)).discWrite = false := hd
  unfold State.discOrigin
  dsimp only
  rw [hd']
  rfl

theorem exec_skip (hh : h < 2) (hd : s.discWrite = true) : exec (.skip h) s = .next { s.emptyLatch (portReq h) with
    bu := { s.bu with skipped := true, coordValid := false, coord := 0, coordRing := 0,
                      st := if s.bu.stage = 7 ∧ s.bu.st = .waitOrigin then .running else s.bu.st } } := by
  change guarded (isHost h) (s.discSkip h) = _
  rw [guarded_ok (show isHost h = true from decide_eq_true hh)]
  have hd' : (s.emptyLatch (portReq h)).discWrite = true := hd
  unfold State.discSkip
  dsimp only
  rw [hd']
  rfl

theorem exec_skip_late (hh : h < 2) (hd : s.discWrite = false) : exec (.skip h) s = .next (s.emptyLatch (portReq h)) := by
  change guarded (isHost h) (s.discSkip h) = _
  rw [guarded_ok (show isHost h = true from decide_eq_true hh)]
  have hd' : (s.emptyLatch (portReq h)).discWrite = false := hd
  unfold State.discSkip
  dsimp only
  rw [hd']
  rfl
end

/-! ## HELLO flits (R381, R384) -/

section
variable {s : State} {p : Nat} {x : Hello}

/-- A neighbour's HELLO is kept by its port. -/
def State.heard (s : State) (p : Nat) (x : Hello) : State := s.modPort p fun y => { y with nbrValid := true, nbr := some x }

theorem State.noteConflict_frame (s : State) (kind port : Nat) :
    s.noteConflict kind port = { s with bu := (s.noteConflict kind port).bu } := by
  unfold State.noteConflict
  split <;> rfl

theorem State.noteConflict_coord (s : State) (kind port : Nat) : (s.noteConflict kind port).bu.coord = s.bu.coord ∧
    (s.noteConflict kind port).bu.coordRing = s.bu.coordRing ∧
    (s.noteConflict kind port).bu.coordValid = s.bu.coordValid := by
  unfold State.noteConflict
  split <;> exact ⟨rfl, rfl, rfl⟩

theorem State.noteConflict_first {kind port : Nat} (h : s.bu.conflict = false) : (s.noteConflict kind port).bu =
    { s.bu with conflict := true, conflictKind := kind, conflictPort := port } := by
  unfold State.noteConflict
  rw [h]
  rfl

theorem State.noteConflict_again {kind port : Nat} (h : s.bu.conflict = true) : s.noteConflict kind port = s := by
  unfold State.noteConflict
  rw [h]
  rfl

/-- A HELLO without COORD_VALID, or after SKIP, gives no coordinates. -/
theorem State.helloCoord_none (h : x.flags.getLsbD 0 = false ∨ s.bu.skipped = true) : s.helloCoord p x = s := by
  unfold State.helloCoord
  refine if_pos ?_
  obtain h | h := h
  · rw [h]
    rfl
  · rw [h, Bool.or_true]

theorem State.helloCoord_frame (s : State) (p : Nat) (x : Hello) :
    s.helloCoord p x = { s with bu := (s.helloCoord p x).bu } := by
  unfold State.helloCoord
  dsimp only
  split
  · rfl
  · have htake : ∀ c r, (if s.bu.coordValid = true then s else s.takeCoord c r) =
        { s with bu := (if s.bu.coordValid = true then s else s.takeCoord c r).bu } := fun c r => by
      split <;> rfl
    generalize hu : (if s.bu.coordValid = true then s else
      s.takeCoord (derivedCoord p x.coord.toNat x.ring.toNat) x.ring.toNat) = u
    have hframe : u = { s with bu := u.bu } := by
      rw [← hu]
      exact htake _ _
    split
    · exact hframe
    · have hnote := u.noteConflict_frame (u.conflictOf p x) p
      generalize u.noteConflict (u.conflictOf p x) p = v at hnote
      have hswap : ∀ b, { u with bu := b } = { s with bu := b } := fun b => by rw [hframe]
      exact hnote.trans (hswap _)

/-- A HELLO that gives coordinates to a module without. -/
theorem State.helloCoord_takes (hv : x.flags.getLsbD 0 = true) (hskip : s.bu.skipped = false)
    (hvalid : s.bu.coordValid = false) : (s.helloCoord p x).bu.coordValid = true ∧
      (s.helloCoord p x).bu.coordRing = BitVec.ofNat 21 x.ring.toNat ∧
      (s.helloCoord p x).bu.coord = BitVec.ofNat 18 (derivedCoord p x.coord.toNat x.ring.toNat) := by
  unfold State.helloCoord
  rw [hv, hskip, hvalid]
  dsimp only
  rw [if_neg (by decide), if_neg Bool.false_ne_true]
  generalize hu : s.takeCoord (derivedCoord p x.coord.toNat x.ring.toNat) x.ring.toNat = u
  have htaken : u.bu.coordValid = true ∧ u.bu.coordRing = BitVec.ofNat 21 x.ring.toNat ∧
      u.bu.coord = BitVec.ofNat 18 (derivedCoord p x.coord.toNat x.ring.toNat) := by
    rw [← hu]
    exact ⟨rfl, rfl, rfl⟩
  obtain ⟨hcv, hcr, hc⟩ := htaken
  split
  · exact ⟨hcv, hcr, hc⟩
  · obtain ⟨h1, h2, h3⟩ := u.noteConflict_coord (u.conflictOf p x) p
    exact ⟨h3.trans hcv, h2.trans hcr, h1.trans hc⟩

/-- A HELLO to a module with coordinates is checked against them. -/
theorem State.helloCoord_checks (hv : x.flags.getLsbD 0 = true) (hskip : s.bu.skipped = false)
    (hvalid : s.bu.coordValid = true) : s.helloCoord p x =
      if s.conflictOf p x = 0 then s else s.noteConflict (s.conflictOf p x) p := by
  unfold State.helloCoord
  rw [hv, hskip, hvalid]
  rfl

theorem State.helloCoord_finds {k : Nat} (hv : x.flags.getLsbD 0 = true) (hskip : s.bu.skipped = false)
    (hvalid : s.bu.coordValid = true) (hno : s.bu.conflict = false) (hk : s.conflictOf p x = k) (hne : k ≠ 0) :
    (s.helloCoord p x).bu = { s.bu with conflict := true, conflictKind := k, conflictPort := p } := by
  rw [State.helloCoord_checks hv hskip hvalid, hk, if_neg hne]
  exact State.noteConflict_first hno

/-- A HELLO without SOAK_REQ. -/
theorem exec_hello (hp : p < 10) (hon : s.linkOn p = true) (hsoak : x.flags.getLsbD 4 = false) :
    exec (.hello p x) s = .next ((s.heard p x).helloCoord p x) := by
  change guarded (isPort p) (s.hello p x) = _
  rw [guarded_ok (show isPort p = true from decide_eq_true hp)]
  unfold State.hello State.helloSoak
  rw [hon, hsoak]
  rfl

/-- What a HELLO without SOAK_REQ leaves outside bring-up. -/
theorem hello_frame (s : State) (p : Nat) (x : Hello) :
    (s.heard p x).helloCoord p x = { s with
      ports := ((s.heard p x).helloCoord p x).ports, bu := ((s.heard p x).helloCoord p x).bu } ∧
    (∀ k, k ≠ p → ((s.heard p x).helloCoord p x).port k = s.port k) ∧
    ((s.heard p x).helloCoord p x).port p = { s.port p with nbrValid := true, nbr := some x } := by
  have hframe := (s.heard p x).helloCoord_frame p x
  generalize (s.heard p x).helloCoord p x = u at hframe
  have hports : ∀ k, u.port k = (s.heard p x).port k := fun k => by
    rw [hframe]
    rfl
  refine ⟨?_, fun k hk => (hports k).trans (s.port_modPort_ne (b := k) _ hk), (hports p).trans (State.port_modPort_self ..)⟩
  have h1 : u.ports = (s.heard p x).ports := by rw [hframe]
  rw [h1]
  exact hframe

/-! ### SOAK_REQ (R387) -/

theorem packed_soak (a b c d : Bool) :
    (BitVec.ofNat 8 (packBits [(0, b2n a), (1, b2n b), (2, b2n c), (3, b2n d), (4, b2n true)])).getLsbD 4 = true := by
  revert a b c d
  decide

theorem helloOf_soak {u : State} (h : (u.port p).soak.isSome = true) : (u.helloOf p).flags.getLsbD 4 = true := by
  unfold State.helloOf
  dsimp only
  rw [h]
  exact packed_soak ..

/-- A port in TEST, its queue discarded. -/
theorem State.enterTest_spec (u : State) (p ms : Nat) : ((u.enterTest p ms).port p).st = .test ∧
    ((u.enterTest p ms).port p).queue = [] ∧
    ((u.enterTest p ms).port p).soak = some { ms := ms, failed := false } ∧
    ((u.port p).incoming = none → (u.enterTest p ms).out = u.out) := by
  unfold State.enterTest
  rw [State.port_modPort_self]
  refine ⟨rfl, ?_, rfl, fun h => ?_⟩
  · unfold State.portDrop
    dsimp only
    rw [State.port_modPort_self]
  · unfold State.portDrop State.dropIncoming
    rw [h]
    rfl

end

end Sys2Proof.Machine
end

section
/-!
SUPPORT. Discovery: conflicts, and SOAK_REQ (R384, R387).
-/
namespace Sys2Proof.Machine

section
variable {s : State} {p : Nat} {x : Hello}

/-- ORIGIN at a module that has no coordinates, and at one whose coordinates differ. -/
theorem exec_origin_spec {h : Nat} (hh : h < 2) (hd : s.discWrite = true) :
    (s.bu.coordValid = false → ∃ t, exec (.origin h) s = .next t ∧ t = { s with bu := t.bu, latches := t.latches } ∧
      t.bu = { s.bu with
        coord := s.bu.origin.setWidth 18, coordRing := s.bu.ring.setWidth 21, isOrigin := true,
        coordValid := true, st := if s.bu.stage = 7 ∧ s.bu.st = .waitOrigin then .running else s.bu.st }) ∧
    (s.bu.coordValid = true → s.bu.conflict = false → s.bu.coord ≠ s.bu.origin.setWidth 18 →
      ∃ t, exec (.origin h) s = .next t ∧ t = { s with bu := t.bu, latches := t.latches } ∧
        t.bu = { s.bu with isOrigin := true, conflict := true, conflictKind := 5, conflictPort := 15 }) := by
  have hexec := exec_origin hh hd
  refine ⟨fun hv => ⟨_, hexec, ?_⟩, fun hv hno hne => ⟨_, hexec, ?_⟩⟩
  · rw [if_pos hv]
    have hcoord : BitVec.ofNat 18 (s.bu.origin.toNat % 2 ^ 18) = s.bu.origin.setWidth 18 := by
      apply BitVec.eq_of_toNat_eq
      simp
    have hring : BitVec.ofNat 21 (s.bu.ring.toNat % 2 ^ 21) = s.bu.ring.setWidth 21 := by
      apply BitVec.eq_of_toNat_eq
      simp
    rw [← hcoord, ← hring]
    exact ⟨rfl, rfl⟩
  · have hne' : ¬ (s.bu.origin.toNat % 2 ^ 18 = s.bu.coord.toNat ∧ s.bu.ring.toNat % 2 ^ 21 = s.bu.coordRing.toNat) :=
      fun h => hne (BitVec.eq_of_toNat_eq (by rw [BitVec.toNat_setWidth]; exact h.1.symm))
    rw [if_neg fun h => Bool.false_ne_true (h.symm.trans hv), if_neg hne']
    have hfirst : (({ s.emptyLatch (portReq h) with bu := { s.bu with isOrigin := true } } : State).noteConflict 5 0xF) =
        { s.emptyLatch (portReq h) with
          bu := { s.bu with isOrigin := true, conflict := true, conflictKind := 5, conflictPort := 15 } } := by
      unfold State.noteConflict
      rw [show ({ s.emptyLatch (portReq h) with bu := { s.bu with isOrigin := true } } : State).bu.conflict = false from hno]
      rfl
    rw [hfirst]
    exact ⟨rfl, rfl⟩

/-- A HELLO with COORD_VALID, without SKIP: coordinates taken, or the first conflict that applies. -/
theorem helloCoord_spec (hp : p < 10) (hv : x.flags.getLsbD 0 = true) (hskip : s.bu.skipped = false)
    (h0 : 0 < ringOn x.ring.toNat (portAxis p))
    (hmax : ringOn x.ring.toNat (portAxis p) ≤ [16, 32, 32, 16].getD (portAxis p) 0) :
    (s.bu.coordValid = false → (s.helloCoord p x).bu.coordValid = true ∧
      (s.helloCoord p x).bu.coordRing = BitVec.ofNat 21 x.ring.toNat ∧
      ∀ a < 4, coordOn (s.helloCoord p x).bu.coord.toNat a = derivedOn p x.coord.toNat x.ring.toNat a) ∧
    (s.bu.coordValid = true → (s.helloCoord p x).bu.coord = s.bu.coord ∧
      (s.helloCoord p x).bu.coordRing = s.bu.coordRing ∧
      (s.bu.conflict = true → (s.helloCoord p x).bu = s.bu) ∧
      (s.bu.conflict = false → x.port.toNat ≠ p ^^^ 1 →
        (s.helloCoord p x).bu = { s.bu with conflict := true, conflictKind := 1, conflictPort := p }) ∧
      (s.bu.conflict = false → x.port.toNat = p ^^^ 1 → x.ring.toNat ≠ s.bu.coordRing.toNat →
        (s.helloCoord p x).bu = { s.bu with conflict := true, conflictKind := 2, conflictPort := p }) ∧
      (s.bu.conflict = false → x.port.toNat = p ^^^ 1 → x.ring.toNat = s.bu.coordRing.toNat →
        ((∃ a < 4, derivedOn p x.coord.toNat x.ring.toNat a ≠ coordOn s.bu.coord.toNat a) →
          (s.helloCoord p x).bu = { s.bu with conflict := true, conflictKind := 3, conflictPort := p }) ∧
        ((∀ a < 4, derivedOn p x.coord.toNat x.ring.toNat a = coordOn s.bu.coord.toNat a) →
          (x.serial = s.gen.serial →
            (s.helloCoord p x).bu = { s.bu with conflict := true, conflictKind := 4, conflictPort := p }) ∧
          (x.serial ≠ s.gen.serial → (s.helloCoord p x).bu = s.bu)))) := by
  have hiff := derivedCoord_eq_iff (c := x.coord.toNat) hp h0 hmax s.bu.coord.isLt
  refine ⟨fun hvalid => ?_, fun hvalid => ?_⟩
  · obtain ⟨hcv, hcr, hc⟩ := State.helloCoord_takes (p := p) hv hskip hvalid
    refine ⟨hcv, hcr, fun a ha => ?_⟩
    rw [hc, BitVec.toNat_ofNat, Nat.mod_eq_of_lt (by rw [derivedCoord_eq]; exact coordWord_lt _)]
    exact coordOn_derivedCoord hp h0 hmax ha
  · have hcheck := State.helloCoord_checks (p := p) hv hskip hvalid
    have hkept : (s.helloCoord p x).bu.coord = s.bu.coord ∧ (s.helloCoord p x).bu.coordRing = s.bu.coordRing := by
      rw [hcheck]
      split
      · exact ⟨rfl, rfl⟩
      · obtain ⟨h1, h2, -⟩ := s.noteConflict_coord (s.conflictOf p x) p
        exact ⟨h1, h2⟩
    refine ⟨hkept.1, hkept.2, fun hc => ?_, fun hno hport => ?_, fun hno hport hring => ?_, fun hno hport hring => ⟨?_, ?_⟩⟩
    · rw [hcheck]
      split
      · rfl
      · rw [State.noteConflict_again hc]
    · refine State.helloCoord_finds hv hskip hvalid hno ?_ (by decide)
      exact if_pos hport
    · refine State.helloCoord_finds hv hskip hvalid hno ?_ (by decide)
      unfold State.conflictOf
      rw [if_neg (not_not.mpr hport), if_pos hring]
    · rintro ⟨a, ha, hne⟩
      refine State.helloCoord_finds hv hskip hvalid hno ?_ (by decide)
      unfold State.conflictOf
      rw [if_neg (not_not.mpr hport), if_neg (not_not.mpr hring), if_pos fun h => hne (hiff.mp h a ha)]
    · intro hall
      have heq := hiff.mpr hall
      refine ⟨fun hser => ?_, fun hser => ?_⟩
      · refine State.helloCoord_finds hv hskip hvalid hno ?_ (by decide)
        unfold State.conflictOf
        rw [if_neg (not_not.mpr hport), if_neg (not_not.mpr hring), if_neg (not_not.mpr heq), if_pos hser]
      · have hzero : s.conflictOf p x = 0 := by
          unfold State.conflictOf
          rw [if_neg (not_not.mpr hport), if_neg (not_not.mpr hring), if_neg (not_not.mpr heq), if_neg hser]
        rw [hcheck, hzero, if_pos rfl]

/-- A HELLO on an UP port, its coordinates taken. -/
theorem exec_hello_up (hp : p < 10) (hon : s.portsOn = true) (hup : (s.port p).st = .up) :
    exec (.hello p x) s = .next (((s.heard p x).helloCoord p x).helloSoak p x) := by
  change guarded (isPort p) (s.hello p x) = _
  rw [guarded_ok (show isPort p = true from decide_eq_true hp)]
  have hlink : s.linkOn p = true := by
    unfold State.linkOn
    rw [hon, hup]
    rfl
  unfold State.hello
  rw [hlink]
  rfl

/-- SOAK_REQ on an UP port. -/
theorem helloSoak_spec (hup : (s.port p).st = .up) (hsoak : x.flags.getLsbD 4 = true) :
    ((s.helloSoak p x).port p).st = .test ∧ ((s.helloSoak p x).port p).queue = [] ∧
    ((s.helloSoak p x).port p).soak =
      some { ms := max (((s.port p).soak.map (·.ms)).getD 0) x.soakMs.toNat, failed := false } ∧
    ((s.port p).soak = none → (s.port p).incoming = none → Fits (s.port p) 1 →
      ∃ y, (s.helloSoak p x).out = s.out ++ [.hello p y] ∧ y.flags.getLsbD 4 = true) := by
  unfold State.helloSoak
  rw [hsoak, hup, if_neg (by decide)]
  cases hk : (s.port p).soak with
  | some k =>
    obtain ⟨h1, h2, h3, -⟩ := s.enterTest_spec p (max k.ms x.soakMs.toNat)
    exact ⟨h1, h2, h3, fun h => absurd h (Option.some_ne_none k)⟩
  | none =>
    dsimp only
    generalize hu : (s.modPort p fun y => { y with soak := some { ms := x.soakMs.toNat, failed := false } }) = u
    have hport : u.port p = { s.port p with soak := some { ms := x.soakMs.toNat, failed := false } } := by
      rw [← hu, State.port_modPort_self]
    have hout : u.out = s.out := by
      rw [← hu]
      rfl
    obtain ⟨h1, h2, h3, h4⟩ := (u.sendCtrl p (.hello p (u.helloOf p))).enterTest_spec p x.soakMs.toNat
    refine ⟨h1, h2, ?_, fun _ hin hfits => ⟨u.helloOf p, ?_, helloOf_soak (by rw [hport]; rfl)⟩⟩
    · rw [h3, Option.map_none, Option.getD_none, Nat.zero_max]
    · have hroom : (u.port p).hasRoom 1 = true := by
        rw [hport]
        exact decide_eq_true hfits
      have hsent : u.sendCtrl p (.hello p (u.helloOf p)) =
          (u.modPort p fun x => x.sendFlits 1 false).emit (.hello p (u.helloOf p)) := if_pos hroom
      rw [hsent] at h4 ⊢
      rw [h4]
      · rw [← hout]
        rfl
      · have hself : ((u.modPort p fun x => x.sendFlits 1 false).emit (.hello p (u.helloOf p))).port p =
            (u.port p).sendFlits 1 false := u.port_modPort_self p fun x => x.sendFlits 1 false
        rw [hself, hport]
        exact hin

theorem exec_helloSend (hp : p < 10) (hon : s.portsOn = true) (hup : (s.port p).st = .up) :
    exec (.helloSend p) s = .next (s.sendCtrl p (.hello p (s.helloOf p))) := by
  change guarded (isPort p) (s.helloSend p) = _
  rw [guarded_ok (show isPort p = true from decide_eq_true hp)]
  unfold State.helloSend
  rw [hon, hup]
  rfl

theorem hasRoom_iff (x : Port) (n : Nat) : x.hasRoom n = true ↔ Fits x n := by
  unfold Port.hasRoom Fits Port.begun
  exact decide_eq_true_iff

/-- One control flit on a port with room for it. -/
theorem State.sendCtrl_fits (o : Out) (h : Fits (s.port p) 1) : s.sendCtrl p o =
      { s with ports := (s.sendCtrl p o).ports, out := s.out ++ [o] } ∧
    (∀ k, k ≠ p → (s.sendCtrl p o).port k = s.port k) ∧ FlitSent (s.port p) ((s.sendCtrl p o).port p) := by
  have hsent : s.sendCtrl p o = (s.modPort p fun x => x.sendFlits 1 false).emit o := if_pos ((hasRoom_iff ..).mpr h)
  rw [hsent]
  refine ⟨rfl, fun k hk => s.port_modPort_ne (b := k) (fun x => x.sendFlits 1 false) hk, ?_⟩
  have hself : ((s.modPort p fun x => x.sendFlits 1 false).emit o).port p = (s.port p).sendFlits 1 false :=
    s.port_modPort_self p fun x => x.sendFlits 1 false
  rw [hself]
  exact Port.sendFlits_one ..

theorem State.sendCtrl_full (o : Out) (h : ¬ Fits (s.port p) 1) : s.sendCtrl p o = s :=
  if_neg fun hr => h ((hasRoom_iff ..).mp hr)

end

/-- Settles O46: the host's ORIGIN and SKIP, and what a HELLO flit does. -/
theorem discovery : Obligations.Discovery := by
  unfold Obligations.Discovery
  intro s b waits
  refine ⟨fun h hh hw hstage hst => ?_, fun h hh hstage => ?_, fun p x hp hon hsoak => ?_, fun p x hp hon hup hsoak => ?_,
    fun p hp hon hup => ⟨fun hfits => ?_, fun hfull => ?_⟩⟩
  · have hd := discWrite_of hw hstage hst
    obtain ⟨htakes, hconflict⟩ := exec_origin_spec hh hd
    exact ⟨htakes, hconflict, _, exec_skip hh hd, rfl, rfl⟩
  · have hd := discWrite_late hstage
    exact ⟨⟨_, exec_origin_late hh hd, rfl⟩, _, exec_skip_late hh hd, rfl⟩
  · intro c r ax step own
    obtain ⟨hframe, hothers, hport⟩ := hello_frame s p x
    have hnone := State.helloCoord_none (s := s.heard p x) (p := p) (x := x)
    refine ⟨_, exec_hello hp hon hsoak, hframe, hothers, hport, fun h => by rw [hnone h]; rfl, fun hv hskip h0 hmax => ?_⟩
    exact helloCoord_spec (s := s.heard p x) hp hv hskip h0 hmax
  · have hframe := (s.heard p x).helloCoord_frame p x
    have hself : (s.heard p x).port p = { s.port p with nbrValid := true, nbr := some x } := State.port_modPort_self ..
    refine ⟨_, exec_hello_up hp hon hup, ?_⟩
    generalize (s.heard p x).helloCoord p x = u at hframe
    have hport : u.port p = { s.port p with nbrValid := true, nbr := some x } := by
      rw [← hself, hframe]
      rfl
    have hout : u.out = s.out := by
      rw [hframe]
      rfl
    have hup' : (u.port p).st = .up := by rw [hport]; exact hup
    obtain ⟨h1, h2, h3, h4⟩ := helloSoak_spec (s := u) (p := p) hup' hsoak
    rw [hport] at h3 h4
    rw [hout] at h4
    exact ⟨h1, h2, h3, h4⟩
  · exact ⟨_, exec_helloSend hp hon hup, State.sendCtrl_fits _ hfits⟩
  · rw [exec_helloSend hp hon hup, State.sendCtrl_full _ hfull]

end Sys2Proof.Machine
end

section
/-!
SUPPORT. Records and ends of bring-up stages; BU1 (R377 to R379, R432).
-/
namespace Sys2Proof.Machine

/-! ## Tables that a stage writes entry by entry -/

theorem Tab.get_foldl_each {α : Type} [DecidableEq α] (d : α) (g : Nat → α → α) {l : List Nat} (hl : l.Nodup) (t : Tab α)
    (q : Nat) : Tab.get d (l.foldl (fun t p => Tab.put d t p (g p (Tab.get d t p))) t) q =
      if q ∈ l then g q (Tab.get d t q) else Tab.get d t q := by
  induction l generalizing t with
  | nil => rw [if_neg List.not_mem_nil]; rfl
  | cons p l ih =>
    obtain ⟨hp, hl⟩ := List.nodup_cons.mp hl
    rw [List.foldl_cons, ih hl]
    by_cases hq : q = p
    · subst hq
      rw [if_neg hp, if_pos List.mem_cons_self, Tab.get_put_self]
    · rw [Tab.get_put_ne _ _ _ hq]
      simp only [List.mem_cons, hq, false_or]

/-! ## Ends of stages (R377, R379) -/

section
variable {s t u : State} {n result : Nat} {detail : List Nat}

/-- Stage `n` has ended with a record. -/
structure Ended (s t : State) (n result : Nat) (detail : List Nat) : Prop where
  frame : t = { s with bu := t.bu, hosts := t.hosts }
  linkUp : ∀ k, (t.host k).linkUp = (s.host k).linkUp
  log : t.bu.log = (s.logged n result s.bu.stageStart detail).bu.log
  recorded : Recorded s t n result

theorem Ended.of_bu (h : Ended u t n result detail) (hbu : u.bu = s.bu) : Recorded s t n result :=
  Recorded.of_bu h.recorded hbu

theorem State.postMessage_linkUp (s : State) (h : Nat) (secure : Bool) (n opc tag : Nat) (ws : List Nat) (k : Nat) :
    ((s.postMessage h secure n opc tag ws).host k).linkUp = (s.host k).linkUp := by
  unfold State.postMessage
  dsimp only
  split
  · rfl
  · exact State.setChan_linkUp ..

theorem State.appendRecord_linkUp (s : State) (stage result start : Nat) (post : Bool) (detail : List Nat) (k : Nat) :
    ((s.appendRecord stage result start post detail).host k).linkUp = (s.host k).linkUp := by
  unfold State.appendRecord
  dsimp only
  split
  · rfl
  · refine List.foldlRecOn (List.range 2) _ (motive := fun t : State => (t.host k).linkUp = (s.host k).linkUp) rfl ?_
    intro t ht h _
    split
    · exact (t.postMessage_linkUp ..).trans ht
    · exact ht

/-- A record alone. -/
theorem State.appendRecord_ended (s : State) (n result : Nat) (post : Bool) (detail : List Nat) :
    Ended s (s.appendRecord n result s.bu.stageStart post detail) n result detail := by
  have hhosts := s.appendRecord_hostsOnly n result s.bu.stageStart detail post
  have hlink := s.appendRecord_linkUp n result s.bu.stageStart post detail
  generalize s.appendRecord n result s.bu.stageStart post detail = t at hhosts hlink
  have hbu : t.bu = (s.logged n result s.bu.stageStart detail).bu := by rw [hhosts]
  refine ⟨?_, hlink, by rw [hbu], recorded_of_logged (detail := detail) (by rw [hbu]; rfl) (by rw [hbu]; rfl) (by rw [hbu])⟩
  rw [hbu]
  exact hhosts

/-- Another stage or state of bring-up changes no record. -/
theorem Ended.setBu (h : Ended s t n result detail) {b : Bu} (hlog : b.log = t.bu.log) (hcount : b.logCount = t.bu.logCount)
    (hresult : b.result = t.bu.result) : Ended s { t with bu := b } n result detail := by
  obtain ⟨hframe, hlink, hl, h1, h2, h3, h4, h5⟩ := h
  refine ⟨?_, hlink, hlog.trans hl, hresult.trans h1, hcount.trans h2, ?_, ?_, fun k hk => ?_⟩
  · have hswap : ∀ c, { t with bu := c } = { s with bu := c, hosts := t.hosts } := fun c => by rw [hframe]
    exact hswap b
  · rw [hlog]; exact h3
  · rw [hlog]; exact h4
  · rw [hlog]; exact h5 k hk

theorem State.stageFail_ended (s : State) (n result : Nat) (detail : List Nat) :
    Ended s (s.stageFail n result detail) n result detail ∧ (s.stageFail n result detail).bu.st = .failed ∧
      (s.stageFail n result detail).bu.stage = s.bu.stage := by
  have hend := s.appendRecord_ended n result true detail
  have hhosts := s.appendRecord_hostsOnly n result s.bu.stageStart detail true
  refine ⟨hend.setBu rfl rfl rfl, rfl, ?_⟩
  unfold State.stageFail State.stageRecord
  dsimp only
  rw [hhosts]
  rfl

theorem State.stagePass_ended (s : State) (n result : Nat) (detail : List Nat) :
    Ended s (s.stagePass n result detail) n result detail ∧ (s.stagePass n result detail).bu.st = .running ∧
      (s.stagePass n result detail).bu.stage = n + 1 :=
  ⟨(s.appendRecord_ended n result true detail).setBu rfl rfl rfl, rfl, rfl⟩

theorem stageRuns_iff : s.stageRuns n = true ↔
    s.pwr.seq = .on ∧ s.frz.frozen = false ∧ s.bu.stage = n ∧ s.bu.st = .running := by
  unfold State.stageRuns
  simp only [Bool.and_eq_true, beq_iff_eq, Bool.not_eq_true', and_assoc]

end

/-! ## Clock domains that a stage starts or holds -/

theorem State.startDom_foldl (l : List Nat) (s : State) :
    l.foldl State.startDom s = { s with doms := (l.foldl State.startDom s).doms } := by
  induction l generalizing s with
  | nil => rfl
  | cons d l ih => exact ih (s.startDom d)

/-! ## BU1 (R432, R377, R378) -/

section
variable {s : State}

/-- The ports that a part has. -/
theorem fitted_foldl (l : List Nat) (s : State) : l.foldl (fun s p => s.modPort p fun x =>
      { x with fitted := (partPorts s.gen.part).getLsbD p }) s =
    { s with ports := l.foldl (fun t p => Tab.put Port.reset t p
      { Tab.get Port.reset t p with fitted := (partPorts s.gen.part).getLsbD p }) s.ports } := by
  induction l generalizing s with
  | nil => rfl
  | cons p l ih => exact ih (s.modPort p fun x => { x with fitted := (partPorts s.gen.part).getLsbD p })

theorem partPorts_getLsbD (part p : Nat) (hp : p < 10) :
    (partPorts part).getLsbD p = (decide (part ≠ 2) || decide (p < 4)) := by
  unfold partPorts
  by_cases h : part = 2
  · rw [if_pos h, decide_eq_false (not_not.mpr h), Bool.false_or]
    revert p
    decide
  · rw [if_neg h, decide_eq_true h, Bool.true_or]
    revert p
    decide

/-- What BU1 starts. -/
structure Bu1Units (s u : State) (l0 l1 : Bool) : Prop where
  frame : u = { s with
    gen := { s.gen with capPorts := partPorts s.gen.part }, doms := u.doms, ports := u.ports, hosts := u.hosts }
  link0 : (u.host 0).linkUp = (l0 && !(s.host 0).perst)
  link1 : (u.host 1).linkUp = (l1 && !(s.host 1).perst)
  fitted : ∀ p < 10, (u.port p).fitted = (decide (s.gen.part ≠ 2) || decide (p < 4))

/-- The host links that BU1 finds. -/
def State.linksFound (s : State) (l0 l1 : Bool) : State :=
  (s.modHost 0 fun x => { x with linkUp := l0 && !x.perst }).modHost 1 fun x => { x with linkUp := l1 && !x.perst }

theorem State.linksFound_host (s : State) (l0 l1 : Bool) :
    ((s.linksFound l0 l1).host 0).linkUp = (l0 && !(s.host 0).perst) ∧
    ((s.linksFound l0 l1).host 1).linkUp = (l1 && !(s.host 1).perst) := by
  unfold State.linksFound
  constructor
  · rw [State.host_modHost_ne _ _ (by decide), State.host_modHost_self]
  · rw [State.host_modHost_self, State.host_modHost_ne _ _ (by decide)]

/-- The ports that a part has are fitted. -/
def State.portsFitted (s : State) (l : List Nat) : State :=
  { s with ports := l.foldl (fun t p => Tab.put Port.reset t p
      { Tab.get Port.reset t p with fitted := (partPorts s.gen.part).getLsbD p }) s.ports }

theorem State.portsFitted_port (s : State) {l : List Nat} (hl : l.Nodup) {p : Nat} (hp : p < 10) (hpl : p ∈ l) :
    ((s.portsFitted l).port p).fitted = (decide (s.gen.part ≠ 2) || decide (p < 4)) := by
  have hget := Tab.get_foldl_each Port.reset (fun p x => { x with fitted := (partPorts s.gen.part).getLsbD p })
    hl s.ports p
  rw [if_pos hpl] at hget
  rw [← partPorts_getLsbD _ _ hp]
  exact congrArg Port.fitted hget

/-- The module with the clock domains of BU1 started and its ports counted. -/
def State.bu1Start (s : State) (d : Tab Dom) : State :=
  { s with doms := d, gen := { s.gen with capPorts := partPorts s.gen.part } }

theorem State.bu1Units_eq (s : State) (l0 l1 : Bool) : ∃ d, s.bu1Units l0 l1 =
    ((s.bu1Start d).portsFitted (List.range 10)).linksFound l0 l1 := by
  refine ⟨([90, 91, 97, 98].foldl State.startDom s).doms, ?_⟩
  unfold State.bu1Units
  have hdoms := State.startDom_foldl [90, 91, 97, 98] s
  dsimp only
  rw [fitted_foldl]
  generalize ([90, 91, 97, 98].foldl State.startDom s).doms = d at hdoms
  rw [hdoms]
  generalize List.range 10 = l
  rfl

theorem State.bu1Units_spec (s : State) (l0 l1 : Bool) : Bu1Units s (s.bu1Units l0 l1) l0 l1 := by
  obtain ⟨d, hu⟩ := s.bu1Units_eq l0 l1
  have hport := fun p hp => (s.bu1Start d).portsFitted_port List.nodup_range (p := p) hp (List.mem_range.mpr hp)
  have hlinks := ((s.bu1Start d).portsFitted (List.range 10)).linksFound_host l0 l1
  rw [hu]
  generalize List.range 10 = l at *
  exact ⟨rfl, hlinks.1, hlinks.2, hport⟩

theorem exec_bu1 (l0 l1 : Bool) (hruns : s.stageRuns 1 = true) : ∃ t, exec (.bu1 l0 l1) s = .next t ∧
    t = { s with gen := t.gen, sec := t.sec, doms := t.doms, ports := t.ports, hosts := t.hosts, bu := t.bu } ∧
    (t.host 0).linkUp = (l0 && !(s.host 0).perst) ∧ (t.host 1).linkUp = (l1 && !(s.host 1).perst) ∧
    (∀ p < 10, (t.port p).fitted = (decide (s.gen.part ≠ 2) || decide (p < 4))) ∧
    (∀ i b, s.bootSlot = some (i, b) → (t.bu.stage = 2 ∧ t.bu.st = .running) ∧ Recorded s t 1 0 ∧
      t.gen.fw = BitVec.ofNat 32 (fwVersion b) ∧
      t.sec = { s.sec with runSlot := i, mFw := shake256 (b.take (fieldAt b 0x0C 4)) 32 }) ∧
    (s.bootSlot = none → (t.bu.stage = 1 ∧ t.bu.st = .failed) ∧ t.sec = s.sec ∧
      Recorded s t 1 (if s.fwValid s.sec.slotA ∨ s.fwValid s.sec.slotB then 0x11 else 0x10)) := by
  refine ⟨s.bu1 l0 l1, rfl, ?_⟩
  obtain ⟨-, -, hstage, -⟩ := stageRuns_iff.mp hruns
  obtain ⟨hframe, hlink0, hlink1, hfitted⟩ := s.bu1Units_spec l0 l1
  unfold State.bu1
  dsimp only
  rw [if_neg (by rw [hruns]; decide)]
  generalize s.bu1Units l0 l1 = u at hframe hlink0 hlink1 hfitted
  have hslot : u.bootSlot = s.bootSlot := by rw [hframe]; rfl
  have hvalid : ∀ b, u.fwValid b = s.fwValid b := fun b => by rw [hframe]; rfl
  have hsec : u.sec = s.sec := by rw [hframe]
  have hbu : u.bu = s.bu := by rw [hframe]
  have hswap : ∀ g x b h, { u with gen := g, sec := x, bu := b, hosts := h } =
      { s with gen := g, sec := x, doms := u.doms, ports := u.ports, hosts := h, bu := b } := fun g x b h => by rw [hframe]
  rw [hslot]
  cases hb : s.bootSlot with
  | none =>
    dsimp only
    have hend := (u.appendRecord_ended 1 (if (u.fwValid u.sec.slotA || u.fwValid u.sec.slotB) = true then 0x11 else 0x10)
      false [0, 0, u.sec.arb.toNat, b2n (u.host 0).linkUp + 2 * b2n (u.host 1).linkUp]).setBu
      (b := { (u.appendRecord 1 (if (u.fwValid u.sec.slotA || u.fwValid u.sec.slotB) = true then 0x11 else 0x10)
        u.bu.stageStart false [0, 0, u.sec.arb.toNat, b2n (u.host 0).linkUp + 2 * b2n (u.host 1).linkUp]).bu with
          st := .failed }) rfl rfl rfl
    refine ⟨?_, hlink0, hlink1, hfitted, fun _ _ h => absurd h (Option.some_ne_none _).symm, fun _ => ⟨⟨?_, rfl⟩, hsec, ?_⟩⟩
    · exact hswap u.gen u.sec _ _
    · exact (congrArg Bu.stage hbu).trans hstage
    · have hrec := hend.of_bu hbu
      simp only [hvalid, hsec, Bool.or_eq_true] at hrec ⊢
      exact hrec
  | some x =>
    obtain ⟨i, b⟩ := x
    dsimp only
    obtain ⟨hend, hst, hstg⟩ := ({ u with
      gen := { u.gen with fw := BitVec.ofNat 32 (fwVersion b) },
      sec := { u.sec with runSlot := i, mFw := shake256 (b.take (fieldAt b 0x0C 4)) 32 } } : State).stagePass_ended 1 0
        [i, fwVersion b, u.sec.arb.toNat, b2n (u.host 0).linkUp + 2 * b2n (u.host 1).linkUp]
    generalize ({ u with
      gen := { u.gen with fw := BitVec.ofNat 32 (fwVersion b) },
      sec := { u.sec with runSlot := i, mFw := shake256 (b.take (fieldAt b 0x0C 4)) 32 } } : State).stagePass 1 0
        [i, fwVersion b, u.sec.arb.toNat, b2n (u.host 0).linkUp + 2 * b2n (u.host 1).linkUp] = t at hend hst hstg
    have ht := hend.frame
    refine ⟨?_, (hend.linkUp 0).trans hlink0, (hend.linkUp 1).trans hlink1, fun p hp => ?_, fun i' b' h => ?_,
      fun h => absurd h (Option.some_ne_none _)⟩
    · have hgen : t.gen = { u.gen with fw := BitVec.ofNat 32 (fwVersion b) } := by rw [ht]
      have htsec : t.sec = { u.sec with runSlot := i, mFw := shake256 (b.take (fieldAt b 0x0C 4)) 32 } := by rw [ht]
      have hdoms : t.doms = u.doms := by rw [ht]
      have hports : t.ports = u.ports := by rw [ht]
      rw [hgen, htsec, hdoms, hports]
      exact ht.trans (hswap _ _ _ _)
    · have hports : t.port p = u.port p := by rw [ht]; rfl
      rw [hports]
      exact hfitted p hp
    · cases h
      refine ⟨⟨hstg, hst⟩, hend.of_bu hbu, by rw [ht], ?_⟩
      rw [ht, ← hsec]
end

end Sys2Proof.Machine
end

section
/-!
SUPPORT. BU2: the identity and the licence in force (R424, R425, R427, R429).
-/
namespace Sys2Proof.Machine

/-! ## BU2 (R424, R425, R427, R429) -/

section
variable {s u v : State}

/-- Filling the key slots changes nothing else. -/
theorem State.fillKeys_frame (s : State) : s.fillKeys = { s with sec := { s.sec with
    bondKeys := s.fillKeys.sec.bondKeys, hostKeys := s.fillKeys.sec.hostKeys } } := by
  unfold State.fillKeys
  refine List.foldlRecOn _ _ (motive := fun t : State => t = { s with sec := { s.sec with
    bondKeys := t.sec.bondKeys, hostKeys := t.sec.hostKeys } }) rfl ?_
  intro t ht b _
  have hswap : ∀ x y, ({ t with sec := { t.sec with bondKeys := x, hostKeys := y } } : State) =
      { s with sec := { s.sec with bondKeys := x, hostKeys := y } } := fun x y => by rw [ht]
  split
  · unfold State.fillKey
    dsimp only
    split
    · exact hswap _ _
    · exact hswap _ _
  · exact ht

/-- Whether a licence is valid depends on the records, the module and the licence key. -/
theorem State.newestRec_licence (hrecs : v.sec.recs = u.sec.recs) (hgen : v.gen = u.gen)
    (hkey : v.sec.efLic = u.sec.efLic) (hfp : v.sec.fp = u.sec.fp) (f : List Byte → Bool) :
    v.newestRec 4 f = u.newestRec 4 f := by
  unfold State.newestRec
  rw [hrecs]
  refine congrArg newest (List.filter_congr fun b _ => ?_)
  by_cases ht : recType b = 4
  · have hsigned : v.recSigned b = u.recSigned b := by
      unfold State.recSigned
      dsimp only
      rw [ht]
      by_cases hg : recSigner b = 1
      · have hv : v.signerKey (recSigner b) = u.signerKey (recSigner b) := by
          rw [hg]
          exact hkey
        rw [hv]
      · have hno : signerOk 4 (recSigner b) = false := beq_false_of_ne hg
        rw [hno, Bool.false_and, Bool.false_and]
    have hbound : v.recBound b = u.recBound b := by
      unfold State.recBound
      rw [hgen, hfp]
    unfold State.recValid
    rw [hsigned, hbound]
  · rw [beq_false_of_ne ht, Bool.false_and, Bool.false_and, Bool.false_and]

/-- The identity that the corrected bits give. -/
theorem State.identity_some {bits : Option (List Byte)} {seed pub cert : List Byte}
    (h : s.identity bits = some (seed, pub, cert)) : pub = edPublic seed ∧ pub = sliceAt cert 72 57 ∧
      bits.map (fun b => shake256 (b ++ ascii "HT4-IDSEED") 57) = some seed := by
  unfold State.identity at h
  split at h
  · next b _ cert' _ _ =>
    dsimp only at h
    split at h
    · next hc =>
      cases h
      exact ⟨rfl, hc.1, rfl⟩
    · exact absurd h (Option.some_ne_none _).symm
  · exact absurd h (Option.some_ne_none _).symm

/-- The module with the identity that BU2 has found. -/
def State.identified (s : State) (seed pub cert : List Byte) : State :=
  ({ s with sec := { s.sec with
      pub := pub, fp := shake256 pub 16, cert := cert, block := some (blockKey seed),
      derives := blockKey seed == s.sec.rpmbKey } }).fillKeys

theorem exec_bu2_none {bits : Option (List Byte)} (hruns : s.stageRuns 2 = true) (hid : s.identity bits = none) :
    exec (.bu2 bits) s = .next (s.stageFail 2 0x20 []) := by
  refine congrArg Host.Outcome.next (?_ : s.bu2 bits = _)
  unfold State.bu2
  rw [if_neg (by rw [hruns]; decide), hid]

/-- The words of the fingerprint in a record. -/
def fpWords (pub : List Byte) : List Nat := (List.range 4).map fun i => fieldAt (shake256 pub 16) (4 * i) 4

theorem exec_bu2_some {bits : Option (List Byte)} {seed pub cert : List Byte} (hruns : s.stageRuns 2 = true)
    (hid : s.identity bits = some (seed, pub, cert)) : exec (.bu2 bits) s = .next
      (match (s.identified seed pub cert).newestRec 4
          fun b => decide ((s.identified seed pub cert).sec.licGen.toNat ≤ recGen b) with
      | none => ({ s.identified seed pub cert with
          sec := { (s.identified seed pub cert).sec with block := none } } : State).stageFail 2 0x21 (fpWords pub)
      | some b => ({ s.identified seed pub cert with
          gen := { (s.identified seed pub cert).gen with capLic := BitVec.ofNat 6 (fieldAt b 64 4) },
          sec := { (s.identified seed pub cert).sec with seed := some seed, licence := some b } } : State).stagePass 2 0
            (fpWords pub ++ [fieldAt b 64 4])) := by
  refine congrArg Host.Outcome.next (?_ : s.bu2 bits = _)
  unfold State.bu2
  rw [if_neg (by rw [hruns]; decide), hid]
  rfl

/-- BU2 with the identity that the newest DEVCERT binds. -/
theorem bu2_spec {bits : Option (List Byte)} {seed pub cert : List Byte} (hruns : s.stageRuns 2 = true)
    (hid : s.identity bits = some (seed, pub, cert)) {lic : Option (List Byte)}
    (hlic : lic = ({ s with sec := { s.sec with pub := pub, fp := shake256 pub 16, cert := cert } } : State).newestRec 4
      fun b => decide (s.sec.licGen.toNat ≤ recGen b)) :
    ∃ t, exec (.bu2 bits) s = .next t ∧ t = { s with gen := t.gen, sec := t.sec, bu := t.bu, hosts := t.hosts } ∧
      t.sec.pub = pub ∧ t.sec.fp = shake256 pub 16 ∧ t.sec.cert = cert ∧ t.sec.records = s.sec.records ∧
      t.sec.derives = (blockKey seed == s.sec.rpmbKey) ∧
      (lic = none → (t.bu.stage = 2 ∧ t.bu.st = .failed) ∧ Recorded s t 2 0x21 ∧ t.gen = s.gen ∧
        t.sec.seed = s.sec.seed ∧ t.sec.block = none) ∧
      ∀ b, lic = some b → (t.bu.stage = 3 ∧ t.bu.st = .running) ∧ Recorded s t 2 0 ∧ t.sec.seed = some seed ∧
        t.sec.licence = some b ∧ t.sec.block = some (blockKey seed) ∧
        t.gen = { s.gen with capLic := BitVec.ofNat 6 (fieldAt b 64 4) } := by
  obtain ⟨-, -, hstage, -⟩ := stageRuns_iff.mp hruns
  refine ⟨_, exec_bu2_some hruns hid, ?_⟩
  have hframe := State.fillKeys_frame ({ s with sec := { s.sec with
      pub := pub, fp := shake256 pub 16, cert := cert, block := some (blockKey seed),
      derives := blockKey seed == s.sec.rpmbKey } })
  change s.identified seed pub cert = _ at hframe
  generalize s.identified seed pub cert = v at hframe
  generalize (State.fillKeys _).sec.bondKeys = x, (State.fillKeys _).sec.hostKeys = y at hframe
  have hbu : v.bu = s.bu := by rw [hframe]
  have hnewest : (v.newestRec 4 fun b => decide (v.sec.licGen.toNat ≤ recGen b)) = lic := by
    have hgen : v.sec.licGen = s.sec.licGen := by rw [hframe]
    rw [hgen, hlic]
    exact State.newestRec_licence (by rw [hframe]; rfl) (by rw [hframe]) (by rw [hframe]) (by rw [hframe]) _
  rw [hnewest]
  cases lic with
  | none =>
    dsimp only
    obtain ⟨hend, hst, hstg⟩ := ({ v with sec := { v.sec with block := none } } : State).stageFail_ended 2 0x21 (fpWords pub)
    generalize ({ v with sec := { v.sec with block := none } } : State).stageFail 2 0x21 (fpWords pub) = t at hend hst hstg
    have hrec := hend.of_bu hbu
    have ht := hend.frame
    have hsec : t.sec = { v.sec with block := none } := by rw [ht]
    rw [hframe] at hsec ht
    refine ⟨?_, by rw [hsec], by rw [hsec], by rw [hsec], by rw [hsec], by rw [hsec], fun _ => ⟨⟨?_, hst⟩, hrec, by rw [ht],
      by rw [hsec], by rw [hsec]⟩, fun b h => absurd h.symm (Option.some_ne_none b)⟩
    · rw [hsec]
      have hg : t.gen = s.gen := by rw [ht]
      rw [hg]
      exact ht
    · rw [hstg]
      exact (congrArg Bu.stage hbu).trans hstage
  | some b =>
    dsimp only
    obtain ⟨hend, hst, hstg⟩ := ({ v with
      gen := { v.gen with capLic := BitVec.ofNat 6 (fieldAt b 64 4) },
      sec := { v.sec with seed := some seed, licence := some b } } : State).stagePass_ended 2 0
        (fpWords pub ++ [fieldAt b 64 4])
    generalize ({ v with
      gen := { v.gen with capLic := BitVec.ofNat 6 (fieldAt b 64 4) },
      sec := { v.sec with seed := some seed, licence := some b } } : State).stagePass 2 0
        (fpWords pub ++ [fieldAt b 64 4]) = t at hend hst hstg
    have hrec := hend.of_bu hbu
    have ht := hend.frame
    have hsec : t.sec = { v.sec with seed := some seed, licence := some b } := by rw [ht]
    have hg : t.gen = { v.gen with capLic := BitVec.ofNat 6 (fieldAt b 64 4) } := by rw [ht]
    rw [hframe] at hsec ht hg
    refine ⟨?_, by rw [hsec], by rw [hsec], by rw [hsec], by rw [hsec], by rw [hsec],
      fun h => absurd h (Option.some_ne_none b), fun b' h => ?_⟩
    · rw [hsec, hg]
      exact ht
    · cases h
      exact ⟨⟨hstg, hst⟩, hrec, by rw [hsec], by rw [hsec], by rw [hsec], hg⟩

end

end Sys2Proof.Machine
end

section
/-!
SUPPORT. BU3: the piers found and the repair map (R200, R202, R205, R426).
-/
namespace Sys2Proof.Machine

/-! ## BU3 (R200, R202, R205, R426) -/

section
variable {s : State}

/-- A detail word of a record. -/
theorem logged_detail (s : State) (n result start : Nat) (detail : List Nat) {j : Nat} (hj : j < 9) :
    Tab.get 0 (s.logged n result start detail).bu.log (16 * (s.bu.logCount % 256) + (6 + j)) =
      BitVec.ofNat 32 (detail.getD j 0) := by
  have hlength : (recordWords n result (if n ≥ 8 then s.bu.attempt else 0) s.bu.logCount (s.gen.time - start)
      start detail).length = 16 := by simp [recordWords]
  rw [State.logged, get_logPut, hlength, if_pos (by omega), Nat.add_sub_cancel_left]
  congr 1
  unfold recordWords
  rw [List.append_assoc, List.getD_append_right _ _ _ _ (by simp)]
  rw [List.getD_append _ _ _ _ (by simp; omega)]
  simp only [List.length_cons, List.length_nil, Nat.reduceAdd, Nat.add_sub_cancel_left]
  rw [List.getD_eq_getElem _ _ (by simpa using hj), List.getElem_map, List.getElem_range]

theorem Tab.find?_filterMap {α : Type} (g : Nat → Option α) (l : List Nat) (q : Nat) :
    Tab.find? (l.filterMap fun p => (g p).map fun x => (p, x)) q = if q ∈ l then g q else none := by
  induction l with
  | nil => rfl
  | cons p l ih =>
    by_cases hq : p = q
    · subst hq
      rw [if_pos List.mem_cons_self]
      cases hg : g p with
      | none =>
        rw [List.filterMap_cons_none (by rw [hg]; rfl), ih, hg, ite_self]
      | some x =>
        rw [List.filterMap_cons_some (by rw [hg]; rfl)]
        exact if_pos rfl
    · have hmem : (q ∈ p :: l) = (q ∈ l) := by
        rw [List.mem_cons, eq_false fun h : q = p => hq h.symm, false_or]
      simp only [hmem]
      cases hg : g p with
      | none => rw [List.filterMap_cons_none (by rw [hg]; rfl), ih]
      | some x =>
        rw [List.filterMap_cons_some (by rw [hg]; rfl), ← ih]
        exact if_neg hq

theorem repairSlotsTab_get (map : Option (List Byte)) {c : Nat} (hc : c < 64) :
    Tab.get 0 (repairSlotsTab map) c = (map.map fun m => repairSlotsOf m c).getD 0 := by
  have hget := Tab.get_foldl_each (0 : BitVec 34) (fun c _ => (map.map fun m => repairSlotsOf m c).getD 0)
    List.nodup_range [] c (l := List.range 64)
  rw [if_pos (List.mem_range.mpr hc)] at hget
  exact hget

/-- Piers that a stage finds, each as `g` gives it. -/
def State.piersFound (s : State) (l : List Nat) (g : Nat → Pier → Pier) : State :=
  { s with piers := l.foldl (fun t p => Tab.put Pier.reset t p (g p (Tab.get Pier.reset t p))) s.piers }

theorem piersFound_foldl (l : List Nat) (g : Nat → Pier → Pier) (s : State) :
    l.foldl (fun s p => s.modPier p (g p)) s = s.piersFound l g := by
  induction l generalizing s with
  | nil => rfl
  | cons p l ih => exact ih (s.modPier p (g p))

theorem State.piersFound_pier (s : State) {l : List Nat} (hl : l.Nodup) (g : Nat → Pier → Pier) {p : Nat} (hp : p ∈ l) :
    (s.piersFound l g).pier p = g p (s.pier p) :=
  (Tab.get_foldl_each Pier.reset g hl s.piers p).trans (if_pos hp)

/-- A fold over clock domains that starts some and holds others. -/
theorem doms_foldl (f : State → Nat → State) (hf : ∀ s d, f s d = { s with doms := (f s d).doms }) (l : List Nat) (s : State) :
    l.foldl f s = { s with doms := (l.foldl f s).doms } := by
  refine List.foldlRecOn l f (motive := fun t : State => t = { s with doms := t.doms }) rfl fun t ht d _ => ?_
  have hswap : ∀ x, { t with doms := x } = { s with doms := x } := fun x => by rw [ht]
  exact (hf t d).trans (hswap _)

/-- The layer that a repair map marks on a pier. -/
def markedLayerOf (map : Option (List Byte)) (p : Nat) : Option Nat := map.bind fun m => repairLayerOf m p

/-- A pier as BU3 finds it. -/
def Pier.found (fit cap : BitVec 32) (map : Option (List Byte)) (p : Nat) (x : Pier) : Pier :=
  { x with
    fitted := fit.getLsbD p, trained := cap.getLsbD p, marked := fit.getLsbD p && (markedLayerOf map p).isSome,
    markedLayer := (markedLayerOf map p).getD 0 }

/-- The module with the repair map in force. -/
def State.bu3Start (s : State) (passed : BitVec 32) : State :=
  { s with
    gen := { s.gen with capPiers := passed &&& partPiers s.gen.part }, bond := { s.bond with stageBase := true },
    mem := if s.bu.rung3 then s.mem else [],
    sec := { s.sec with
      repairSlots := repairSlotsTab (s.newestRec 3 fun _ => true),
      repairLayers := (List.range 32).filterMap fun p =>
        (markedLayerOf (s.newestRec 3 fun _ => true) p).map fun l => (p, l) } }

/-- The module with the piers that BU3 finds. -/
def State.bu3Piers (s : State) (passed : BitVec 32) : State :=
  (s.bu3Start passed).piersFound (List.range 32)
    (Pier.found (partPiers s.gen.part) (passed &&& partPiers s.gen.part) (s.newestRec 3 fun _ => true))

/-- The controllers of the piers fitted have started. -/
def State.bu3Doms (s : State) (passed : BitVec 32) : State :=
  (List.range 16).foldl (fun u m => if (partPiers s.gen.part).getLsbD (2 * m) then u.startDom (domMc m)
    else u.holdDom (domMc m)) (s.bu3Piers passed)

/-- The mask of the piers with a marked layer. -/
def State.marks (s : State) : Nat := ((List.range 32).map fun p => if (s.pier p).marked then 2 ^ p else 0).sum

/-- The detail words of BU3. -/
def State.bu3Detail (s : State) (passed : BitVec 32) : List Nat :=
  [(passed &&& partPiers s.gen.part).toNat, (s.bu3Doms passed).marks, b2n !(s.bu3Doms passed).bu.rung3]

theorem exec_bu3 {passed : BitVec 32} (hruns : s.stageRuns 3 = true) : exec (.bu3 passed) s = .next
    (if ((List.range 32).countP fun p => (passed &&& partPiers s.gen.part).getLsbD p) < 8 then
      (s.bu3Doms passed).stageFail 3 0x30 (s.bu3Detail passed)
     else (s.bu3Doms passed).stagePass 3 (if passed &&& partPiers s.gen.part = partPiers s.gen.part then 0 else 1)
      (s.bu3Detail passed)) := by
  refine congrArg Host.Outcome.next (?_ : s.bu3 passed = _)
  have hlayer : ∀ p, ((s.newestRec 3 fun _ => true).map repairLayerOf).bind (fun f => f p) =
      markedLayerOf (s.newestRec 3 fun _ => true) p := fun p => by
    unfold markedLayerOf
    cases s.newestRec 3 fun _ => true <;> rfl
  have hpiers := piersFound_foldl (List.range 32)
    (Pier.found (partPiers s.gen.part) (passed &&& partPiers s.gen.part) (s.newestRec 3 fun _ => true))
    (s.bu3Start passed)
  unfold State.bu3
  rw [if_neg (by rw [hruns]; decide)]
  dsimp only
  simp only [hlayer]
  unfold State.bu3Detail State.bu3Doms State.bu3Piers
  rw [← hpiers]
  rfl

end

end Sys2Proof.Machine
end

section
/-!
SUPPORT. What BU3 leaves; numbers as masks of courses (R426).
-/
namespace Sys2Proof.Machine

section
variable {s : State}

theorem State.bu3Piers_pier (s : State) (passed : BitVec 32) {p : Nat} (hp : p < 32) : (s.bu3Piers passed).pier p =
    (s.pier p).found (partPiers s.gen.part) (passed &&& partPiers s.gen.part) (s.newestRec 3 fun _ => true) p :=
  State.piersFound_pier _ List.nodup_range _ (List.mem_range.mpr hp)

theorem State.bu3Doms_eq (s : State) (passed : BitVec 32) : ∃ d, s.bu3Doms passed = { s.bu3Piers passed with doms := d } := by
  refine ⟨_, doms_foldl _ (fun u m => ?_) _ _⟩
  split <;> rfl

/-- BU3 ends with a record of the piers it found. -/
theorem bu3_spec {passed : BitVec 32} {t : State} {n result : Nat} (hn : n = s.bu.logCount)
    (hend : Ended (s.bu3Doms passed) t 3 result (s.bu3Detail passed)) :
    t = { s with gen := t.gen, bond := t.bond, mem := t.mem, sec := t.sec, piers := t.piers, doms := t.doms, bu := t.bu,
                 hosts := t.hosts } ∧
    t.gen = { s.gen with capPiers := passed &&& partPiers s.gen.part } ∧ t.mem = (if s.bu.rung3 then s.mem else []) ∧
    (∀ p < 32, (t.pier p).fitted = (partPiers s.gen.part).getLsbD p ∧
      (t.pier p).trained = (passed &&& partPiers s.gen.part).getLsbD p ∧
      (t.pier p).marked = ((partPiers s.gen.part).getLsbD p &&
        (markedLayerOf (s.newestRec 3 fun _ => true) p).isSome)) ∧
    (∀ c < 64, Tab.get 0 t.sec.repairSlots c =
      ((s.newestRec 3 fun _ => true).map fun m => repairSlotsOf m c).getD 0) ∧
    (∀ p < 32, Tab.find? t.sec.repairLayers p = markedLayerOf (s.newestRec 3 fun _ => true) p) ∧
    Tab.get 0 t.bu.log (16 * (n % 256) + 7) = BitVec.ofNat 32 t.marks ∧ Recorded s t 3 result := by
  obtain ⟨d, hd⟩ := s.bu3Doms_eq passed
  have hdetail : (s.bu3Detail passed).getD 1 0 = (s.bu3Doms passed).marks := rfl
  have hpier := fun p hp => s.bu3Piers_pier passed (p := p) hp
  have hpiers : (s.bu3Piers passed).piers = (s.bu3Piers passed).piers := rfl
  have hframe := hend.frame
  have hlog := hend.log
  generalize s.bu3Detail passed = detail at hend hdetail hlog
  generalize hv : s.bu3Doms passed = v at *
  have hbu : v.bu = s.bu := by rw [hd]; rfl
  have hvgen : v.gen = { s.gen with capPiers := passed &&& partPiers s.gen.part } := by rw [hd]; rfl
  have hvmem : v.mem = if s.bu.rung3 then s.mem else [] := by rw [hd]; rfl
  have hvsec : v.sec = (s.bu3Start passed).sec := by rw [hd]; rfl
  have hvpier : ∀ p, v.pier p = (s.bu3Piers passed).pier p := fun p => by rw [hd]; rfl
  have hvs : ∀ b h, ({ v with bu := b, hosts := h } : State) = { s with
      gen := v.gen, bond := v.bond, mem := v.mem, sec := v.sec, piers := v.piers, doms := v.doms, bu := b, hosts := h } :=
    fun b h => by
      rw [hd]
      rfl
  have htp : ∀ p, t.pier p = v.pier p := fun p => by rw [hframe]; rfl
  have htsec : t.sec = v.sec := by rw [hframe]
  refine ⟨?_, ?_, ?_, fun p hp => ?_, fun c hc => ?_, fun p hp => ?_, ?_, hend.of_bu hbu⟩
  · have h1 : t.gen = v.gen := by rw [hframe]
    have h2 : t.bond = v.bond := by rw [hframe]
    have h3 : t.mem = v.mem := by rw [hframe]
    have h4 : t.piers = v.piers := by rw [hframe]
    have h5 : t.doms = v.doms := by rw [hframe]
    rw [h1, h2, h3, h4, h5, htsec]
    exact hframe.trans (hvs _ _)
  · rw [← hvgen, hframe]
  · rw [← hvmem, hframe]
  · rw [htp, hvpier, hpier p hp]
    exact ⟨rfl, rfl, rfl⟩
  · rw [htsec, hvsec]
    exact repairSlotsTab_get _ hc
  · rw [htsec, hvsec]
    exact (Tab.find?_filterMap _ _ _).trans (if_pos (List.mem_range.mpr hp))
  · have hmarks : t.marks = v.marks := by
      unfold State.marks
      simp only [htp]
    rw [hlog, hn, ← hbu, hmarks, ← hdetail]
    exact logged_detail v 3 result _ detail (j := 1) (by decide)

/-! ## BU4 (R114, R117, R360, R426) -/

/-- A bit of a number that a list of bits makes. -/
theorem testBit_sum_pow (f : Nat → Bool) (n q : Nat) :
    (((List.range n).map fun c => if f c then 2 ^ c else 0).sum).testBit q = (decide (q < n) && f q) := by
  have hlt : ∀ m, ((List.range m).map fun c => if f c then 2 ^ c else 0).sum < 2 ^ m := by
    intro m
    induction m with
    | zero => exact Nat.one_pos
    | succ m ih =>
      rw [List.range_succ, List.map_append, List.sum_append, List.map_singleton, List.sum_singleton, Nat.pow_succ]
      split <;> omega
  induction n with
  | zero => simp
  | succ n ih =>
    rw [List.range_succ, List.map_append, List.sum_append, List.map_singleton, List.sum_singleton]
    by_cases hf : f n = true
    · rw [if_pos hf]
      by_cases hq : q = n
      · subst hq
        rw [Nat.add_comm, Nat.testBit_two_pow_add_eq, ih, hf, decide_eq_false (Nat.lt_irrefl _), decide_eq_true (by omega)]
        rfl
      · obtain hq | hq := Nat.lt_or_gt_of_ne hq
        · rw [Nat.add_comm, Nat.testBit_two_pow_add_gt hq, ih, decide_eq_true hq, decide_eq_true (by omega)]
        · have hsum : ((List.range n).map fun c => if f c then 2 ^ c else 0).sum + 2 ^ n < 2 ^ q := by
            have h1 := hlt n
            have h2 : 2 ^ (n + 1) ≤ 2 ^ q := Nat.pow_le_pow_right (by decide) hq
            rw [Nat.pow_succ] at h2
            omega
          rw [Nat.testBit_lt_two_pow hsum, decide_eq_false (by omega), Bool.false_and]
    · rw [if_neg hf, Nat.add_zero, ih]
      by_cases hq : q = n
      · subst hq
        rw [decide_eq_false (Nat.lt_irrefl _), Bool.false_and, Bool.eq_false_iff.mpr hf, Bool.and_false]
      · have hiff : (q < n + 1) ↔ q < n := by omega
        simp only [hiff]

theorem getLsbD_sum_pow (f : Nat → Bool) {q : Nat} (hq : q < 64) :
    (BitVec.ofNat 64 ((List.range 64).map fun c => if f c then 2 ^ c else 0).sum).getLsbD q = f q := by
  rw [BitVec.getLsbD_ofNat, testBit_sum_pow, decide_eq_true hq, Bool.true_and, Bool.true_and]

end

end Sys2Proof.Machine
end

section
/-!
SUPPORT. BU4: courses that enter service, and their slots (R114, R117, R360, R426).
-/
namespace Sys2Proof.Machine

/-! ## Courses that enter service (R114, R117) -/

section
variable {s t u : State} {c : Nat} {bad : BitVec 34} {pass : Bool}

theorem placeEngines_fst (bad : BitVec 34) (l sp : List Nat) : ∀ x ∈ (placeEngines bad l sp).1, x.1 ∈ l := by
  induction l generalizing sp with
  | nil => exact fun x hx => absurd hx List.not_mem_nil
  | cons e l ih =>
    intro x hx
    unfold placeEngines at hx
    split at hx
    · obtain rfl | hx := List.mem_cons.mp hx
      · exact List.mem_cons_self
      · exact List.mem_cons_of_mem _ (ih sp x hx)
    · split at hx
      · exact List.mem_cons_of_mem _ (ih [] x hx)
      · next sp' _ =>
        obtain rfl | hx := List.mem_cons.mp hx
        · exact List.mem_cons_self
        · exact List.mem_cons_of_mem _ (ih _ x hx)

theorem courseSlots_none : courseSlots 0 = ((List.range 32).map fun e => (e, e), [32, 33]) := by decide

/-- Engines of course `c` take the slots of a list. -/
def State.slotted (s : State) (c : Nat) (l : List (Nat × Nat)) : State :=
  l.foldl (fun s x => s.modEng (32 * c + x.1) fun y => { y with slot := x.2 }) s

theorem State.slotted_spec (s : State) (c : Nat) (l : List (Nat × Nat)) (hl : ∀ x ∈ l, x.1 < 32) :
    s.slotted c l = { s with engines := (s.slotted c l).engines } ∧
    ∀ e, e / 32 ≠ c → (s.slotted c l).eng e = s.eng e := by
  unfold State.slotted
  induction l generalizing s with
  | nil => exact ⟨rfl, fun _ _ => rfl⟩
  | cons x l ih =>
    obtain ⟨hframe, hothers⟩ := ih (s.modEng (32 * c + x.1) fun y => { y with slot := x.2 })
      fun y hy => hl y (List.mem_cons_of_mem _ hy)
    refine ⟨hframe, fun e he => (hothers e he).trans (State.eng_modEng_ne _ _ ?_)⟩
    have hx := hl x List.mem_cons_self
    omega

/-- Engines as `g` changes each. -/
theorem engines_foldl (l : List Nat) (g : Nat → Engine → Engine) (s : State) :
    l.foldl (fun s p => s.modEng p (g p)) s =
      { s with engines := l.foldl (fun t p => Tab.put Engine.reset t p (g p (Tab.get Engine.reset t p))) s.engines } := by
  induction l generalizing s with
  | nil => rfl
  | cons p l ih => exact ih (s.modEng p (g p))

theorem State.slotted_own (s : State) (c : Nat) {l : List Nat} (hl : l.Nodup) {i : Nat} (hi : i ∈ l) :
    ((s.slotted c (l.map fun e => (e, e))).eng (32 * c + i)).slot = i := by
  have hfold : s.slotted c (l.map fun e => (e, e)) =
      (l.map (32 * c + ·)).foldl (fun s q => s.modEng q fun y => { y with slot := q - 32 * c }) s := by
    unfold State.slotted
    rw [List.foldl_map, List.foldl_map]
    refine congrArg (fun f => List.foldl f s l) (funext fun u => funext fun e => ?_)
    rw [Nat.add_sub_cancel_left]
  have hnodup : (l.map (32 * c + ·)).Nodup := hl.map fun a b h => Nat.add_left_cancel h
  have hget := Tab.get_foldl_each Engine.reset (fun q y => { y with slot := q - 32 * c }) hnodup s.engines (32 * c + i)
  rw [if_pos (List.mem_map.mpr ⟨i, hi, rfl⟩)] at hget
  rw [hfold, engines_foldl]
  exact (congrArg Engine.slot hget).trans (Nat.add_sub_cancel_left ..)

/-- A course in service whose slots have not failed. -/
def CourseFit (t : State) (c : Nat) : Prop :=
  (∀ i < 32, (t.eng (32 * c + i)).slot = i) ∧ Tab.get 0 (t.crs c).phys 32 = 1 ∧ Tab.get 0 (t.crs c).phys 33 = 1

/-- What a stage does to course `c` alone. -/
structure CourseOnly (s t : State) (c : Nat) : Prop where
  frame : t = { s with courses := t.courses, engines := t.engines, doms := t.doms }
  crs : ∀ d, d ≠ c → t.crs d = s.crs d
  eng : ∀ e, e / 32 ≠ c → t.eng e = s.eng e

/-- How BU4 marks the physical slots of a course. -/
def physOf (bad : BitVec 34) (spares : List Nat) (k : Nat) : Nat :=
  if bad.getLsbD k then 3 else if spares.contains k then 1 else 0

/-- A licensed course with its slots marked. -/
def Course.marked (bad : BitVec 34) (spares : List Nat) (pass : Bool) (y : Course) : Course :=
  { y with
    licensed := true, passed := pass,
    phys := (List.range 34).foldl (fun t k => Tab.put 0 t k (physOf bad spares k)) [] }

theorem Course.marked_phys (bad : BitVec 34) (spares : List Nat) (pass : Bool) (y : Course) {k : Nat} (hk : k < 34) :
    Tab.get 0 (y.marked bad spares pass).phys k = physOf bad spares k :=
  (Tab.get_foldl_each (0 : Nat) (fun k _ => physOf bad spares k) List.nodup_range [] k).trans
    (if_pos (List.mem_range.mpr hk))

theorem State.courseUp_eq (s : State) (c : Nat) (bad : BitVec 34) (pass : Bool) : s.courseUp c bad pass =
    if pass then ((s.modCrs c (Course.marked bad (courseSlots bad).2 pass)).slotted c (courseSlots bad).1).startDom c
    else ((s.modCrs c (Course.marked bad (courseSlots bad).2 pass)).slotted c (courseSlots bad).1).holdDom c := by
  unfold State.courseUp
  generalize courseSlots bad = x
  obtain ⟨l, sp⟩ := x
  rfl

theorem State.courseUp_only (s : State) (c : Nat) (bad : BitVec 34) (pass : Bool) :
    CourseOnly s (s.courseUp c bad pass) c := by
  have hfst : ∀ x ∈ (courseSlots bad).1, x.1 < 32 := fun x hx =>
    List.mem_range.mp (placeEngines_fst bad (List.range 32) _ x hx)
  rw [State.courseUp_eq]
  generalize Course.marked bad (courseSlots bad).2 pass = g
  generalize (courseSlots bad).1 = l at hfst
  obtain ⟨hframe, hothers⟩ := (s.modCrs c g).slotted_spec c l hfst
  generalize (s.modCrs c g).slotted c l = v at hframe hothers
  have hcrs : ∀ d, d ≠ c → v.crs d = s.crs d := fun d hd => by
    rw [hframe]
    exact State.crs_modCrs_ne _ _ hd
  have hswap : ∀ x, { v with doms := x } = { s with courses := v.courses, engines := v.engines, doms := x } := fun x => by
    rw [hframe]
    rfl
  split
  · exact ⟨hswap _, hcrs, hothers⟩
  · exact ⟨hswap _, hcrs, hothers⟩

/-- A clock domain's start changes neither slots nor courses. -/
theorem CourseFit.of_eq {v : State} (h : CourseFit v c) (heng : t.engines = v.engines) (hcrs : t.courses = v.courses) :
    CourseFit t c := by
  obtain ⟨h1, h2, h3⟩ := h
  have hc : t.crs c = v.crs c := by rw [State.crs, State.crs, hcrs]
  refine ⟨fun i hi => ?_, by rw [hc]; exact h2, by rw [hc]; exact h3⟩
  rw [State.eng_of_engines heng]
  exact h1 i hi

theorem slotted_fit {g : Course → Course} (h32 : Tab.get 0 (g (s.crs c)).phys 32 = 1)
    (h33 : Tab.get 0 (g (s.crs c)).phys 33 = 1) {l : List Nat} (hl : l.Nodup) (hmem : ∀ i, i ∈ l ↔ i < 32) :
    CourseFit ((s.modCrs c g).slotted c (l.map fun e => (e, e))) c := by
  obtain ⟨hframe, -⟩ := (s.modCrs c g).slotted_spec c (l.map fun e => (e, e)) fun x hx => by
    obtain ⟨e, he, rfl⟩ := List.mem_map.mp hx
    exact (hmem e).mp he
  have hcrs : ((s.modCrs c g).slotted c (l.map fun e => (e, e))).crs c = g (s.crs c) := by
    rw [hframe]
    exact State.crs_modCrs_self ..
  refine ⟨fun i hi => (s.modCrs c g).slotted_own c hl ((hmem i).mpr hi), ?_, ?_⟩
  · rw [hcrs]
    exact h32
  · rw [hcrs]
    exact h33

theorem marked_spares (pass : Bool) (y : Course) : Tab.get 0 (y.marked 0 [32, 33] pass).phys 32 = 1 ∧
    Tab.get 0 (y.marked 0 [32, 33] pass).phys 33 = 1 :=
  ⟨(y.marked_phys _ _ _ (by decide)).trans (by decide), (y.marked_phys _ _ _ (by decide)).trans (by decide)⟩

theorem State.courseUp_none (s : State) (c : Nat) (pass : Bool) : s.courseUp c 0 pass =
    if pass then
      ((s.modCrs c (Course.marked 0 [32, 33] pass)).slotted c ((List.range 32).map fun e => (e, e))).startDom c
    else ((s.modCrs c (Course.marked 0 [32, 33] pass)).slotted c ((List.range 32).map fun e => (e, e))).holdDom c := by
  have key : ∀ l sp, (courseSlots 0).1 = l → (courseSlots 0).2 = sp → s.courseUp c 0 pass =
      if pass then ((s.modCrs c (Course.marked 0 sp pass)).slotted c l).startDom c
      else ((s.modCrs c (Course.marked 0 sp pass)).slotted c l).holdDom c := by
    rintro l sp rfl rfl
    exact s.courseUp_eq c 0 pass
  exact key _ _ (congrArg Prod.fst courseSlots_none) (congrArg Prod.snd courseSlots_none)

theorem CourseFit.domSet {v : State} (h : CourseFit v c) (ht : t = if pass then v.startDom c else v.holdDom c) :
    CourseFit t c := by
  rw [ht]
  split
  · exact h.of_eq rfl rfl
  · exact h.of_eq rfl rfl

theorem State.courseUp_fit (s : State) (c : Nat) (pass : Bool) : CourseFit (s.courseUp c 0 pass) c := by
  obtain ⟨h32, h33⟩ := marked_spares pass (s.crs c)
  have hfit := slotted_fit h32 h33 List.nodup_range fun i => List.mem_range (n := 32)
  exact hfit.domSet (s.courseUp_none c pass)

/-- One course at a time. -/
theorem courses_foldl {f : State → Nat → State} (honly : ∀ s c, CourseOnly s (f s c) c) {P : Nat → Prop}
    (hfit : ∀ s c, P c → CourseFit (f s c) c) {l : List Nat} (hl : l.Nodup) (s : State) :
    (l.foldl f s = { s with
      courses := (l.foldl f s).courses, engines := (l.foldl f s).engines, doms := (l.foldl f s).doms }) ∧
    (∀ c ∈ l, P c → CourseFit (l.foldl f s) c) ∧
    (∀ d, d ∉ l → (l.foldl f s).crs d = s.crs d) ∧ ∀ e, e / 32 ∉ l → (l.foldl f s).eng e = s.eng e := by
  induction l generalizing s with
  | nil => exact ⟨rfl, fun c hc => absurd hc List.not_mem_nil, fun _ _ => rfl, fun _ _ => rfl⟩
  | cons c l ih =>
    obtain ⟨hc, hl⟩ := List.nodup_cons.mp hl
    obtain ⟨hframe, hfits, hcrs, heng⟩ := ih hl (f s c)
    have h := honly s c
    rw [List.foldl_cons]
    generalize l.foldl f (f s c) = t at hframe hfits hcrs heng
    refine ⟨?_, fun d hd hP => ?_, fun d hd => ?_, fun e he => ?_⟩
    · have hswap : ∀ x y z, { f s c with courses := x, engines := y, doms := z } =
          { s with courses := x, engines := y, doms := z } := fun x y z => by rw [h.frame]
      exact hframe.trans (hswap _ _ _)
    · obtain rfl | hd := List.mem_cons.mp hd
      · obtain ⟨hslots, h32, h33⟩ := hfit s d hP
        refine ⟨fun i hi => ?_, ?_, ?_⟩
        · rw [heng _ (by rwa [show (32 * d + i) / 32 = d by omega])]
          exact hslots i hi
        · rw [hcrs d hc]
          exact h32
        · rw [hcrs d hc]
          exact h33
      · exact hfits d hd hP
    · rw [List.mem_cons, not_or] at hd
      exact (hcrs d hd.2).trans (h.crs d hd.1)
    · rw [List.mem_cons, not_or] at he
      exact (heng e he.2).trans (h.eng e he.1)

/-! ## BU4 (R360, R426) -/

/-- The slots of a course that the tests and the repair map name. -/
def State.badSlots (s : State) (failed : List (Nat × Nat)) (c : Nat) : BitVec 34 :=
  failedSlotsOf failed (s.newestRec 3 fun _ => true) c

/-- A course that enters service. -/
def State.goodCourse (s : State) (passed : BitVec 64) (failed : List (Nat × Nat)) (c : Nat) : Bool :=
  (licensedCourses s.gen.capLic).getLsbD c && passed.getLsbD c &&
    (courseSlots (s.badSlots failed c)).1.length == 32

def State.bu4Cap (s : State) (passed : BitVec 64) (failed : List (Nat × Nat)) : BitVec 64 :=
  BitVec.ofNat 64 ((List.range 64).map fun c => if s.goodCourse passed failed c then 2 ^ c else 0).sum

/-- The slots that failed their tests and are not in the repair map. -/
def State.newFails (s : State) (failed : List (Nat × Nat)) : List RepairChange :=
  (List.range 64).flatMap fun c => ((List.range 34).filter fun k => (s.badSlots failed c).getLsbD k &&
    !(((s.newestRec 3 fun _ => true).map fun m => repairSlotsOf m c).getD 0).getLsbD k).map fun k => .slot c k

/-- The module with its stores cleared and the failed slots listed. -/
def State.bu4Start (s : State) (passed : BitVec 64) (failed : List (Nat × Nat)) : State :=
  { s with
    ls := [], cs := [], gen := { s.gen with capCourses := s.bu4Cap passed failed },
    sec := { s.sec with
      repairSlots := repairSlotsTab (s.newestRec 3 fun _ => true), repairs := s.sec.repairs ++ s.newFails failed } }

/-- One course of BU4. -/
def State.bu4Course (s : State) (passed : BitVec 64) (failed : List (Nat × Nat)) (u : State) (c : Nat) : State :=
  if (licensedCourses s.gen.capLic).getLsbD c then u.courseUp c (s.badSlots failed c) (s.goodCourse passed failed c)
  else u.holdDom c

def State.bu4Done (s : State) (passed : BitVec 64) (failed : List (Nat × Nat)) : State :=
  (List.range 4).foldl (fun u d => u.startDom (domFabric d))
    ((List.range 64).foldl (s.bu4Course passed failed) (s.bu4Start passed failed))

/-- The detail words of BU4. -/
def State.bu4Detail (s : State) (passed : BitVec 64) (failed : List (Nat × Nat)) (fabric : BitVec 4) : List Nat :=
  halves (s.bu4Cap passed failed).toNat ++
    [(((List.range 64).filter (s.goodCourse passed failed)).map fun c =>
      (courseSlots (s.badSlots failed c)).2.length).sum,
     (((List.range 64).filter (s.goodCourse passed failed)).map fun c =>
      (List.range 34).countP fun k => (s.badSlots failed c).getLsbD k).sum, fabric.toNat]

theorem exec_bu4 {passed : BitVec 64} {failed : List (Nat × Nat)} {fabric : BitVec 4} (hruns : s.stageRuns 4 = true) :
    exec (.bu4 passed failed fabric) s = .next
      (if s.bu4Cap passed failed = 0 then
        (s.bu4Done passed failed).stageFail 4 0x40 (s.bu4Detail passed failed fabric)
       else if fabric ≠ 0 then (s.bu4Done passed failed).stageFail 4 0x41 (s.bu4Detail passed failed fabric)
       else (s.bu4Done passed failed).stagePass 4
         (if s.bu4Cap passed failed = licensedCourses s.gen.capLic then 0 else 1) (s.bu4Detail passed failed fabric)) := by
  refine congrArg Host.Outcome.next (?_ : s.bu4 passed failed fabric = _)
  unfold State.bu4
  rw [if_neg (by rw [hruns]; decide)]
  rfl

theorem State.bu4Course_only (s : State) (passed : BitVec 64) (failed : List (Nat × Nat)) (u : State) (c : Nat) :
    CourseOnly u (s.bu4Course passed failed u c) c := by
  unfold State.bu4Course
  split
  · exact u.courseUp_only c _ _
  · exact ⟨rfl, fun _ _ => rfl, fun _ _ => rfl⟩

theorem State.bu4Course_fit (s : State) (passed : BitVec 64) (failed : List (Nat × Nat)) (u : State) (c : Nat)
    (h : (licensedCourses s.gen.capLic).getLsbD c = true ∧ s.badSlots failed c = 0) :
    CourseFit (s.bu4Course passed failed u c) c := by
  unfold State.bu4Course
  rw [if_pos h.1, h.2]
  exact u.courseUp_fit c _

theorem State.bu4Start_bu (s : State) (passed : BitVec 64) (failed : List (Nat × Nat)) :
    (s.bu4Start passed failed).bu = s.bu := by unfold State.bu4Start; rfl

theorem State.bu4Start_gen (s : State) (passed : BitVec 64) (failed : List (Nat × Nat)) :
    (s.bu4Start passed failed).gen = { s.gen with capCourses := s.bu4Cap passed failed } := by unfold State.bu4Start; rfl

theorem State.bu4Start_repairs (s : State) (passed : BitVec 64) (failed : List (Nat × Nat)) :
    (s.bu4Start passed failed).sec.repairs = s.sec.repairs ++ s.newFails failed := by unfold State.bu4Start; rfl

/-- Only courses, engines and clock domains differ. -/
def CoursesOnly (s t : State) : Prop := t = { s with courses := t.courses, engines := t.engines, doms := t.doms }

theorem State.bu4Start_frame (s : State) (passed : BitVec 64) (failed : List (Nat × Nat)) : s.bu4Start passed failed =
    { s with ls := [], cs := [], gen := (s.bu4Start passed failed).gen, sec := (s.bu4Start passed failed).sec } := by
  unfold State.bu4Start
  rfl

theorem CoursesOnly.cleared {u v : State} (h : CoursesOnly u v)
    (hu : u = { s with ls := [], cs := [], gen := u.gen, sec := u.sec }) (b : Bu) (x : Tab HostPort) :
    { v with bu := b, hosts := x } = { s with
      ls := [], cs := [], gen := v.gen, sec := v.sec, courses := v.courses, engines := v.engines, doms := v.doms, bu := b,
      hosts := x } := by
  unfold CoursesOnly at h
  generalize v.courses = cs, v.engines = es, v.doms = d at h
  subst h
  generalize u.gen = g, u.sec = y at hu
  subst hu
  rfl

theorem CoursesOnly.doms {v : State} (h : CoursesOnly s v) (ht : t = { v with doms := t.doms }) : CoursesOnly s t := by
  have hswap : ∀ x, { v with doms := x } = { s with courses := v.courses, engines := v.engines, doms := x } := fun x => by
    rw [h]
  have h1 : t.courses = v.courses := by rw [ht]
  have h2 : t.engines = v.engines := by rw [ht]
  unfold CoursesOnly
  rw [h1, h2]
  exact ht.trans (hswap _)

theorem CourseFit.doms {v : State} (h : CourseFit v c) (ht : t = { v with doms := t.doms }) : CourseFit t c :=
  h.of_eq (by rw [ht]) (by rw [ht])

theorem CoursesOnly.bu {v : State} (h : CoursesOnly s v) : v.bu = s.bu := by rw [h]

/-- The courses as BU4 leaves them. -/
theorem State.bu4Done_spec (s : State) (passed : BitVec 64) (failed : List (Nat × Nat)) :
    CoursesOnly (s.bu4Start passed failed) (s.bu4Done passed failed) ∧
    ∀ c < 64, (licensedCourses s.gen.capLic).getLsbD c = true → s.badSlots failed c = 0 →
      CourseFit (s.bu4Done passed failed) c := by
  obtain ⟨hframe, hfits, -, -⟩ := courses_foldl (s.bu4Course_only passed failed) (s.bu4Course_fit passed failed)
    List.nodup_range (l := List.range 64) (s.bu4Start passed failed)
  have hdoms := doms_foldl (fun u d => u.startDom (domFabric d)) (fun _ _ => rfl) (List.range 4)
    ((List.range 64).foldl (s.bu4Course passed failed) (s.bu4Start passed failed))
  exact ⟨CoursesOnly.doms hframe hdoms,
    fun c hc hlic hbad => (hfits c (List.mem_range.mpr hc) ⟨hlic, hbad⟩).doms hdoms⟩

/-- BU4 ends with a record of the courses in service. -/
theorem bu4_spec {passed : BitVec 64} {failed : List (Nat × Nat)} {result : Nat} {d : List Nat}
    (hend : Ended (s.bu4Done passed failed) t 4 result d) :
    t = { s with ls := [], cs := [], gen := t.gen, sec := t.sec, courses := t.courses, engines := t.engines,
                 doms := t.doms, bu := t.bu, hosts := t.hosts } ∧
    t.sec.repairs = s.sec.repairs ++ s.newFails failed ∧ t.gen.capCourses = s.bu4Cap passed failed ∧
    (∀ c < 64, t.gen.capCourses.getLsbD c = s.goodCourse passed failed c) ∧
    (∀ c < 64, (licensedCourses s.gen.capLic).getLsbD c = true → s.badSlots failed c = 0 → CourseFit t c) ∧
    Recorded s t 4 result := by
  obtain ⟨hdone, hfits⟩ := s.bu4Done_spec passed failed
  have hbits : ∀ c < 64, (s.bu4Cap passed failed).getLsbD c = s.goodCourse passed failed c :=
    fun c hc => getLsbD_sum_pow _ hc
  have hbu := s.bu4Start_bu passed failed
  have hgen := s.bu4Start_gen passed failed
  have hrepairs := s.bu4Start_repairs passed failed
  have hstart := s.bu4Start_frame passed failed
  generalize s.bu4Start passed failed = u at hdone hbu hgen hrepairs hstart
  generalize s.bu4Done passed failed = v at hend hdone hfits
  generalize s.bu4Cap passed failed = cap at hbits hgen ⊢
  generalize s.newFails failed = fails at hrepairs ⊢
  have ht := hend.frame
  have hvgen : v.gen = u.gen := by rw [hdone]
  have hvsec : v.sec = u.sec := by rw [hdone]
  have hvbu : v.bu = u.bu := by rw [hdone]
  have hgen' : t.gen = v.gen := by rw [ht]
  have hsec' : t.sec = v.sec := by rw [ht]
  have hcap : t.gen.capCourses = cap := by rw [hgen', hvgen, hgen]
  have hcourses : t.courses = v.courses := by rw [ht]
  have hengines : t.engines = v.engines := by rw [ht]
  have hdoms : t.doms = v.doms := by rw [ht]
  refine ⟨?_, ?_, hcap, fun c hc => ?_, fun c hc hlic hbad => (hfits c hc hlic hbad).of_eq hengines hcourses,
    hend.of_bu (hvbu.trans hbu)⟩
  · rw [hgen', hsec', hcourses, hengines, hdoms]
    exact ht.trans (hdone.cleared hstart _ _)
  · rw [hsec', hvsec]
    exact hrepairs
  · rw [hcap]
    exact hbits c hc

end

end Sys2Proof.Machine
end

section
/-!
SUPPORT. BU5, and bring-up of the module itself (R377).
-/
namespace Sys2Proof.Machine

/-! ## BU5 (R377) -/

section
variable {s t u : State}

/-- Waking a domain that is awake changes its own record alone. -/
theorem State.requestWake_awake {d : Nat} (hlevel : (s.dom d).level ≤ 1) (hent : (s.dom d).entering = none) :
    (s.requestWake d) = { s with doms := (s.requestWake d).doms } ∧
    ((s.requestWake d).dom d).level = (s.dom d).level ∧ ((s.requestWake d).dom d).held = (s.dom d).held ∧
    ∀ k, k ≠ d → (s.requestWake d).dom k = s.dom k := by
  unfold State.requestWake
  dsimp only
  split
  · exact ⟨rfl, rfl, rfl, fun _ _ => rfl⟩
  · rw [if_pos (by rw [hent, decide_eq_true hlevel]; rfl)]
    rw [State.dom_setDom_self]
    exact ⟨rfl, rfl, rfl, fun k hk => State.dom_setDom_ne _ _ hk⟩

/-- A port that BU5 starts, or holds when it is not fitted. -/
def State.portStart (s : State) (p : Nat) : State :=
  if (s.port p).fitted then (s.startDom (domPort p)).startTraining p else s.holdDom (domPort p)

/-- What BU5 leaves of port `p` and its clock domain. -/
def PortStarted (s t : State) (p : Nat) : Prop :=
  (if (s.port p).fitted = true then (t.dom (80 + p)).level = 0 ∧ (t.dom (80 + p)).held = false
    else (t.dom (80 + p)).level = 5 ∧ (t.dom (80 + p)).held = true) ∧
  t.port p = if s.mayTrain p = true then { s.port p with st := .training } else s.port p

/-- What concerns port `p` alone. -/
structure PortOnly (s t : State) (p : Nat) : Prop where
  frame : t = { s with ports := t.ports, doms := t.doms }
  port : ∀ q, q ≠ p → t.port q = s.port q
  dom : ∀ q, q ≠ p → t.dom (80 + q) = s.dom (80 + q)

theorem mayTrain_unfitted {p : Nat} (h : (s.port p).fitted = false) : s.mayTrain p = false := by
  unfold State.mayTrain
  dsimp only
  rw [h]
  rfl

theorem State.portStart_spec (s : State) (p : Nat) : PortOnly s (s.portStart p) p ∧ PortStarted s (s.portStart p) p := by
  unfold State.portStart PortStarted
  cases hfit : (s.port p).fitted with
  | false =>
    rw [if_neg Bool.false_ne_true, if_neg Bool.false_ne_true, mayTrain_unfitted hfit, if_neg Bool.false_ne_true]
    have hself : (s.holdDom (80 + p)).dom (80 + p) =
        { Dom.reset with held := true, wakes := (s.dom (80 + p)).wakes } := State.dom_modDom_self ..
    have hne : ∀ q, q ≠ p → (s.holdDom (80 + p)).dom (80 + q) = s.dom (80 + q) := fun q hq =>
      State.dom_modDom_ne _ _ (by omega)
    rw [show domPort p = 80 + p from rfl, hself]
    exact ⟨⟨rfl, fun _ _ => rfl, hne⟩, ⟨rfl, rfl⟩, rfl⟩
  | true =>
    rw [if_pos rfl, if_pos rfl]
    have hself : (s.startDom (80 + p)).dom (80 + p) = { Dom.reset with
      level := 0, mhz := s.domMhz (80 + p), wakes := (s.dom (80 + p)).wakes } := State.dom_modDom_self ..
    have hdoms : ∀ k, k ≠ 80 + p → (s.startDom (80 + p)).dom k = s.dom k := fun k hk => State.dom_modDom_ne _ _ hk
    have hport : ∀ q, (s.startDom (80 + p)).port q = s.port q := fun _ => rfl
    have hmay : (s.startDom (80 + p)).mayTrain p = s.mayTrain p := rfl
    have hframe : s.startDom (80 + p) = { s with doms := (s.startDom (80 + p)).doms } := rfl
    rw [show domPort p = 80 + p from rfl]
    unfold State.startTraining
    rw [hmay]
    generalize s.startDom (80 + p) = u at hself hdoms hport hframe
    cases hmt : s.mayTrain p with
    | false =>
      rw [Bool.not_false, if_pos rfl, if_neg Bool.false_ne_true, hself]
      refine ⟨⟨?_, fun q _ => hport q, fun q hq => hdoms _ (by omega)⟩, ⟨rfl, rfl⟩, hport p⟩
      have hports : u.ports = s.ports := by rw [hframe]
      rw [hports]
      exact hframe
    | true =>
      rw [if_neg (by decide), if_pos rfl]
      generalize hv : (u.modPort p fun x => { x with st := .training }) = v
      have hvdom : ∀ k, v.dom k = u.dom k := fun k => by rw [← hv]; rfl
      have hvport : v.port p = { u.port p with st := .training } := by rw [← hv, State.port_modPort_self]
      have hvothers : ∀ q, q ≠ p → v.port q = u.port q := fun q hq => by rw [← hv]; exact State.port_modPort_ne _ _ hq
      have hvframe : v = { s with ports := v.ports, doms := u.doms } := by
        rw [← hv]
        have hswap : ∀ x, { u with ports := x } = { s with ports := x, doms := u.doms } := fun x => by rw [hframe]
        exact hswap _
      obtain ⟨hwframe, hwlevel, hwheld, hwothers⟩ := State.requestWake_awake (s := v) (d := 80 + p)
        (by rw [hvdom, hself]; exact Nat.zero_le 1) (by rw [hvdom, hself]; rfl)
      rw [show domPort p = 80 + p from rfl]
      generalize v.requestWake (80 + p) = t at hwframe hwlevel hwheld hwothers
      have htport : ∀ q, t.port q = v.port q := fun q => by rw [hwframe]; rfl
      have htports : t.ports = v.ports := by rw [hwframe]
      rw [hvdom, hself] at hwlevel hwheld
      refine ⟨⟨?_, fun q hq => ((htport q).trans (hvothers q hq)).trans (hport q), fun q hq => ?_⟩, ⟨hwlevel, hwheld⟩, ?_⟩
      · have hswap : ∀ x, { v with doms := x } = { s with ports := v.ports, doms := x } := fun x => by rw [hvframe]
        rw [htports]
        exact hwframe.trans (hswap _)
      · exact ((hwothers (80 + q) (by omega)).trans (hvdom _)).trans (hdoms _ (by omega))
      · rw [htport, hvport, hport]

theorem mayTrain_of_port {p : Nat} (h : t.port p = s.port p) : t.mayTrain p = s.mayTrain p := by
  unfold State.mayTrain
  rw [h]

theorem portStart_foldl {l : List Nat} (hl : l.Nodup) (s : State) :
    (l.foldl State.portStart s = { s with
      ports := (l.foldl State.portStart s).ports, doms := (l.foldl State.portStart s).doms }) ∧
    (∀ p ∈ l, PortStarted s (l.foldl State.portStart s) p) ∧
    ∀ p, p ∉ l → (l.foldl State.portStart s).port p = s.port p ∧
      (l.foldl State.portStart s).dom (80 + p) = s.dom (80 + p) := by
  induction l generalizing s with
  | nil => exact ⟨rfl, fun p hp => absurd hp List.not_mem_nil, fun _ _ => ⟨rfl, rfl⟩⟩
  | cons p l ih =>
    obtain ⟨hp, hl⟩ := List.nodup_cons.mp hl
    obtain ⟨hframe, hstarted, hothers⟩ := ih hl (s.portStart p)
    obtain ⟨⟨hpframe, hpport, hpdom⟩, hpst⟩ := s.portStart_spec p
    rw [List.foldl_cons]
    generalize l.foldl State.portStart (s.portStart p) = t at hframe hstarted hothers
    generalize s.portStart p = v at hframe hstarted hothers hpframe hpport hpdom hpst
    refine ⟨?_, fun q hq => ?_, fun q hq => ?_⟩
    · have hswap : ∀ x y, { v with ports := x, doms := y } = { s with ports := x, doms := y } := fun x y => by rw [hpframe]
      exact hframe.trans (hswap _ _)
    · obtain rfl | hq := List.mem_cons.mp hq
      · obtain ⟨h1, h2⟩ := hothers q hp
        unfold PortStarted
        rw [h1, h2]
        exact hpst
      · have hne : q ≠ p := fun h => hp (h ▸ hq)
        have hst := hstarted q hq
        unfold PortStarted at hst ⊢
        rw [hpport q hne, mayTrain_of_port (hpport q hne)] at hst
        exact hst
    · rw [List.mem_cons, not_or] at hq
      obtain ⟨h1, h2⟩ := hothers q hq.2
      exact ⟨h1.trans (hpport q hq.1), h2.trans (hpdom q hq.1)⟩

theorem exec_bu5 {links : BitVec 4} {lines : BitVec 16} (hruns : s.stageRuns 5 = true) : exec (.bu5 links lines) s = .next
    (if links ≠ 0 ∨ lines ≠ 0 then s.stageFail 5 0x50 [links.toNat, lines.toNat]
     else (List.range 10).foldl State.portStart (s.stagePass 5 0 [links.toNat, lines.toNat])) := by
  refine congrArg Host.Outcome.next (?_ : s.bu5 links lines = _)
  unfold State.bu5
  rw [if_neg (by rw [hruns]; decide)]
  rfl

/-- BU5 with every link and line good. -/
theorem bu5_passes {d : List Nat} (hu : u = s.stagePass 5 0 d) (ht : t = (List.range 10).foldl State.portStart u) :
    t = { s with doms := t.doms, ports := t.ports, bu := t.bu, hosts := t.hosts } ∧
    (t.bu.stage = 6 ∧ t.bu.st = .running) ∧ Recorded s t 5 0 ∧ ∀ p < 10, PortStarted s t p := by
  obtain ⟨hend, hst, hstg⟩ := s.stagePass_ended 5 0 d
  obtain ⟨hframe, hstarted, -⟩ := portStart_foldl (List.nodup_range (n := 10)) u
  have hmem : ∀ p, p < 10 → p ∈ List.range 10 := fun p hp => List.mem_range.mpr hp
  rw [← ht] at hframe hstarted
  rw [← hu] at hend hst hstg
  have hbu : t.bu = u.bu := by rw [hframe]
  have hport : ∀ p, u.port p = s.port p := fun p => by rw [hend.frame]; rfl
  refine ⟨?_, ?_, ?_, fun p hp => ?_⟩
  · have hhosts : t.hosts = u.hosts := by rw [hframe]
    have hswap : ∀ x y, { u with ports := x, doms := y } =
        { s with doms := y, ports := x, bu := u.bu, hosts := u.hosts } := fun x y => by rw [hend.frame]
    rw [hbu, hhosts]
    exact hframe.trans (hswap _ _)
  · rw [hbu]
    exact ⟨hstg, hst⟩
  · obtain ⟨h1, h2, h3, h4, h5⟩ := hend.recorded
    unfold Recorded
    rw [hbu]
    exact ⟨h1, h2, h3, h4, h5⟩
  · have hst := hstarted p (hmem p hp)
    unfold PortStarted at hst ⊢
    rw [hport, mayTrain_of_port (hport p)] at hst
    exact hst

end

/-- Settles O44, stage by stage. -/
theorem bringUpSelf : Obligations.BringUpSelf := by
  unfold Obligations.BringUpSelf
  intro s at_
  refine ⟨fun l0 l1 hruns => exec_bu1 l0 l1 hruns, fun bits hruns => ⟨fun hid => ?_, fun seed pub cert hid => ?_⟩,
    fun passed hruns => ?_, fun passed failed fabric hruns => ?_, fun links lines hruns => ?_⟩
  · obtain ⟨-, -, hstage, -⟩ := stageRuns_iff.mp hruns
    obtain ⟨hend, hst, hstg⟩ := s.stageFail_ended 2 0x20 []
    exact ⟨_, exec_bu2_none hruns hid, hend.frame, ⟨hstg.trans hstage, hst⟩, hend.recorded⟩
  · obtain ⟨hpub, hcert, hseed⟩ := State.identity_some hid
    exact ⟨hpub, hcert, hseed, bu2_spec hruns hid rfl⟩
  · obtain ⟨-, -, hstage, -⟩ := stageRuns_iff.mp hruns
    have hexec := exec_bu3 (passed := passed) hruns
    intro fit cap n map
    obtain ⟨d, hd⟩ := s.bu3Doms_eq passed
    have hbu : (s.bu3Doms passed).bu = s.bu := by rw [hd]; rfl
    by_cases hn : n < 8
    · rw [if_pos hn] at hexec
      obtain ⟨hend, hst, hstg⟩ := (s.bu3Doms passed).stageFail_ended 3 0x30 (s.bu3Detail passed)
      obtain ⟨hframe, hgen, hmem, hpier, hslots, hlayers, hlog, hrec⟩ := bu3_spec rfl hend
      refine ⟨_, hexec, hframe, hgen, hmem, hpier, hslots, hlayers, hlog, fun _ => ⟨⟨?_, hst⟩, hrec⟩,
        fun h => absurd hn (Nat.not_lt.mpr h)⟩
      rw [hstg, hbu]
      exact hstage
    · rw [if_neg hn] at hexec
      obtain ⟨hend, hst, hstg⟩ := (s.bu3Doms passed).stagePass_ended 3
        (if passed &&& partPiers s.gen.part = partPiers s.gen.part then 0 else 1) (s.bu3Detail passed)
      obtain ⟨hframe, hgen, hmem, hpier, hslots, hlayers, hlog, hrec⟩ := bu3_spec rfl hend
      exact ⟨_, hexec, hframe, hgen, hmem, hpier, hslots, hlayers, hlog, fun h => absurd h hn, fun _ => ⟨⟨hstg, hst⟩, hrec⟩⟩
  · obtain ⟨-, -, hstage, -⟩ := stageRuns_iff.mp hruns
    have hexec := exec_bu4 (passed := passed) (failed := failed) (fabric := fabric) hruns
    intro lic map bad old
    have hbu : (s.bu4Done passed failed).bu = s.bu :=
      (s.bu4Done_spec passed failed).1.bu.trans (s.bu4Start_bu passed failed)
    generalize s.bu4Detail passed failed fabric = d at hexec
    by_cases hcap : s.bu4Cap passed failed = 0
    · rw [if_pos hcap] at hexec
      obtain ⟨hend, hst, hstg⟩ := (s.bu4Done passed failed).stageFail_ended 4 0x40 d
      obtain ⟨hframe, hrepairs, hcaps, hbits, hfits, hrec⟩ := bu4_spec hend
      refine ⟨_, hexec, hframe, hrepairs, hbits, hfits, fun _ => ⟨⟨?_, hst⟩, hrec⟩,
        fun h => absurd (hcaps.trans hcap) h, fun h => absurd (hcaps.trans hcap) h⟩
      rw [hstg, hbu]
      exact hstage
    · rw [if_neg hcap] at hexec
      by_cases hfab : fabric ≠ 0
      · rw [if_pos hfab] at hexec
        obtain ⟨hend, hst, hstg⟩ := (s.bu4Done passed failed).stageFail_ended 4 0x41 d
        obtain ⟨hframe, hrepairs, hcaps, hbits, hfits, hrec⟩ := bu4_spec hend
        refine ⟨_, hexec, hframe, hrepairs, hbits, hfits, fun h => absurd (hcaps.symm.trans h) hcap,
          fun _ _ => ⟨⟨?_, hst⟩, hrec⟩, fun _ h => absurd h hfab⟩
        rw [hstg, hbu]
        exact hstage
      · rw [if_neg hfab] at hexec
        obtain ⟨hend, hst, hstg⟩ := (s.bu4Done passed failed).stagePass_ended 4
          (if s.bu4Cap passed failed = licensedCourses s.gen.capLic then 0 else 1) d
        obtain ⟨hframe, hrepairs, hcaps, hbits, hfits, hrec⟩ := bu4_spec hend
        refine ⟨_, hexec, hframe, hrepairs, hbits, hfits, fun h => absurd (hcaps.symm.trans h) hcap,
          fun _ h => absurd h hfab, fun _ _ => ⟨⟨hstg, hst⟩, ?_⟩⟩
        rw [hcaps]
        exact hrec
  · obtain ⟨-, -, hstage, -⟩ := stageRuns_iff.mp hruns
    have hexec := exec_bu5 (links := links) (lines := lines) hruns
    by_cases hbad : links ≠ 0 ∨ lines ≠ 0
    · rw [if_pos hbad] at hexec
      obtain ⟨hend, hst, hstg⟩ := s.stageFail_ended 5 0x50 [links.toNat, lines.toNat]
      generalize s.stageFail 5 0x50 [links.toNat, lines.toNat] = t at hexec hend hst hstg
      have ht := hend.frame
      have hdoms : t.doms = s.doms := by rw [ht]
      have hports : t.ports = s.ports := by rw [ht]
      refine ⟨t, hexec, ?_, fun h => ?_, fun _ => ⟨⟨hstg.trans hstage, hst⟩, hend.recorded, hdoms, hports⟩⟩
      · rw [hdoms, hports]
        exact ht
      · exact absurd h.1 (fun h0 => hbad.elim (fun hb => hb h0) fun hb => hb h.2)
    · rw [if_neg hbad] at hexec
      obtain ⟨hframe, hat, hrec, hports⟩ := bu5_passes (s := s) (d := [links.toNat, lines.toNat]) rfl rfl
      exact ⟨_, hexec, hframe, fun _ => ⟨hat, hrec, hports⟩, fun h => absurd h hbad⟩

end Sys2Proof.Machine
end

section
/-!
SUPPORT. BU6, BU7 and the end of discovery (R382, R388).
-/
namespace Sys2Proof.Machine

/-! ## BU6 (R252, R377) -/

section
variable {s t u : State}

/-- The ports of a list have changed, each as `R` says, and nothing else. -/
structure PortsFrom (s t : State) (l : List Nat) (R : Nat → Port → Port → Prop) : Prop where
  frame : t = { s with ports := t.ports }
  changed : ∀ p ∈ l, R p (s.port p) (t.port p)
  others : ∀ p, p ∉ l → t.port p = s.port p

theorem ports_foldl {f : State → Nat → State} {R : Nat → Port → Port → Prop}
    (hstep : ∀ u p, u = { s with ports := u.ports } → PortsFrom u (f u p) [p] R) {l : List Nat} (hl : l.Nodup) :
    ∀ u, u = { s with ports := u.ports } → PortsFrom u (l.foldl f u) l R := by
  induction l with
  | nil => exact fun u _ => ⟨rfl, fun p hp => absurd hp List.not_mem_nil, fun _ _ => rfl⟩
  | cons p l ih =>
    intro u hu
    obtain ⟨hp, hl⟩ := List.nodup_cons.mp hl
    obtain ⟨hframe, hchanged, hothers⟩ := hstep u p hu
    have hs : f u p = { s with ports := (f u p).ports } := by
      have hswap : ∀ x, { u with ports := x } = { s with ports := x } := fun x => by rw [hu]
      exact hframe.trans (hswap _)
    obtain ⟨hframe', hchanged', hothers'⟩ := ih hl (f u p) hs
    rw [List.foldl_cons]
    generalize l.foldl f (f u p) = t at hframe' hchanged' hothers'
    generalize f u p = v at *
    have hsame : ∀ q, q ≠ p → v.port q = u.port q := fun q hq => hothers q fun h => hq (List.mem_singleton.mp h)
    refine ⟨?_, fun q hq => ?_, fun q hq => ?_⟩
    · have hswap : ∀ x, { v with ports := x } = { u with ports := x } := fun x => by rw [hframe]
      exact hframe'.trans (hswap _)
    · obtain rfl | hq := List.mem_cons.mp hq
      · rw [hothers' q hp]
        exact hchanged q (List.mem_singleton.mpr rfl)
      · rw [← hsame q fun h => hp (h ▸ hq)]
        exact hchanged' q hq
    · rw [List.mem_cons, not_or] at hq
      rw [hothers' q hq.2, hsame q hq.1]

/-- What BU6 makes of a port. -/
def Bu6Port (s : State) (up half : BitVec 10) (p : Nat) (x y : Port) : Prop :=
  (up.getLsbD p = false → y = { x with st := if x.st = .training then .down else x.st }) ∧
  (up.getLsbD p = true → x = s.port p → s.mayTrain p = true → x.st = .training → (s.dom (80 + p)).level < 2 →
    (s.dom (80 + p)).entering = none → y.st = .up ∧ y.halfWidth = half.getLsbD p)

/-- One port of BU6. -/
def bu6Step (up half : BitVec 10) (s : State) (p : Nat) : State :=
  if up.getLsbD p then s.portTrained p (half.getLsbD p)
  else s.modPort p fun x => { x with st := if x.st = .training then .down else x.st }

theorem bu6Step_spec (hon : s.portsOn = true) (up half : BitVec 10) (u : State) (p : Nat)
    (hu : u = { s with ports := u.ports }) : PortsFrom u (bu6Step up half u p) [p] (Bu6Port s up half) := by
  have hne : ∀ q, q ∉ [p] → q ≠ p := fun q hq h => hq (List.mem_singleton.mpr h)
  unfold bu6Step
  cases hup : up.getLsbD p with
  | false =>
    rw [if_neg Bool.false_ne_true]
    refine ⟨rfl, fun q hq => ?_, fun q hq => State.port_modPort_ne _ _ (hne q hq)⟩
    rw [List.mem_singleton.mp hq, State.port_modPort_self]
    exact ⟨fun _ => rfl, fun h => absurd (hup.symm.trans h) Bool.false_ne_true⟩
  | true =>
    rw [if_pos rfl]
    have hon' : u.portsOn = true := by
      rw [hu]
      exact hon
    have hdom : u.dom (domPort p) = s.dom (80 + p) := by
      rw [hu]
      rfl
    unfold State.portTrained
    dsimp only
    split
    · next hno =>
      refine ⟨rfl, fun q hq => ?_, fun _ _ => rfl⟩
      rw [List.mem_singleton.mp hq]
      refine ⟨fun h => absurd (hup.symm.trans h) Bool.true_eq_false_eq_False, fun _ hx hmay hst hlevel hent => ?_⟩
      have hmay' : u.mayTrain p = true := (mayTrain_of_port hx).trans hmay
      rw [hon', hmay', hst, hdom, hent, decide_eq_false (Nat.not_le.mpr hlevel)] at hno
      exact absurd hno (by decide)
    · refine ⟨rfl, fun q hq => ?_, fun q hq => State.port_setPort_ne _ _ (hne q hq)⟩
      rw [List.mem_singleton.mp hq, State.port_setPort_self]
      exact ⟨fun h => absurd (hup.symm.trans h) Bool.true_eq_false_eq_False, fun _ _ _ _ _ _ => ⟨rfl, rfl⟩⟩

/-- A mask is zero when no port is in it. -/
theorem portMask_zero (f : Port → Bool) : s.portMask f = 0 ↔ ∀ p < 10, f (s.port p) = false := by
  unfold State.portMask
  rw [List.sum_eq_zero_iff]
  constructor
  · intro h p hp
    have hterm := h _ (List.mem_map.mpr ⟨p, List.mem_range.mpr hp, rfl⟩)
    by_cases hf : f (s.port p) = true
    · rw [if_pos hf] at hterm
      exact absurd hterm (Nat.ne_of_gt (Nat.two_pow_pos p))
    · exact Bool.eq_false_iff.mpr hf
  · intro h x hx
    obtain ⟨p, hp, rfl⟩ := List.mem_map.mp hx
    rw [if_neg]
    rw [h p (List.mem_range.mp hp)]
    exact Bool.false_ne_true

/-- Every port is UP at full width, or not fitted. -/
theorem full_iff : ((s.portMask fun x => x.st == .up && x.halfWidth) = 0 ∧ (s.portMask fun x => x.fitted && x.st != .up) = 0) ↔
    ∀ p < 10, if (s.port p).st = .up then (s.port p).halfWidth = false else (s.port p).fitted = false := by
  rw [portMask_zero, portMask_zero]
  constructor
  · rintro ⟨hhalf, hdown⟩ p hp
    have h1 := hhalf p hp
    have h2 := hdown p hp
    split
    · next h =>
      rw [h] at h1
      exact h1
    · next h =>
      rw [bne_iff_ne.mpr h, Bool.and_true] at h2
      exact h2
  · intro h
    refine ⟨fun p hp => ?_, fun p hp => ?_⟩
    · have hp' := h p hp
      by_cases hup : (s.port p).st = .up
      · rw [if_pos hup] at hp'
        rw [hp', Bool.and_false]
      · rw [beq_false_of_ne hup, Bool.false_and]
    · have hp' := h p hp
      by_cases hup : (s.port p).st = .up
      · rw [hup]
        exact Bool.and_false _
      · rw [if_neg hup] at hp'
        rw [hp', Bool.false_and]

theorem exec_bu6 {up half : BitVec 10} (hruns : s.stageRuns 6 = true) : exec (.bu6 up half) s = .next
    (((List.range 10).foldl (bu6Step up half) s).stagePass 6
      (if (((List.range 10).foldl (bu6Step up half) s).portMask fun x => x.st == .up && x.halfWidth) = 0 ∧
        (((List.range 10).foldl (bu6Step up half) s).portMask fun x => x.fitted && x.st != .up) = 0 then 0 else 1)
      [((List.range 10).foldl (bu6Step up half) s).portMask fun x => x.st == .up,
       ((List.range 10).foldl (bu6Step up half) s).portMask fun x => x.st == .up && x.halfWidth,
       ((List.range 10).foldl (bu6Step up half) s).portMask fun x => x.fitted && x.st != .up]) := by
  refine congrArg Host.Outcome.next (?_ : s.bu6 up half = _)
  unfold State.bu6
  rw [if_neg (by rw [hruns]; decide)]
  rfl

theorem portsOn_of_stage (hruns : s.stageRuns 6 = true) : s.portsOn = true := by
  obtain ⟨hon, hfrz, hstage, -⟩ := stageRuns_iff.mp hruns
  unfold State.portsOn
  rw [hon, hfrz, hstage]
  rfl

/-- BU6 ends. -/
theorem bu6_spec {up half : BitVec 10} (hruns : s.stageRuns 6 = true) :
    ∃ t, exec (.bu6 up half) s = .next t ∧ t = { s with ports := t.ports, bu := t.bu, hosts := t.hosts } ∧
      (t.bu.stage = 7 ∧ t.bu.st = .running) ∧
      (∀ p < 10, Bu6Port s up half p (s.port p) (t.port p)) ∧
      ((∀ p < 10, if (t.port p).st = .up then (t.port p).halfWidth = false else (t.port p).fitted = false) →
        Recorded s t 6 0) ∧
      (¬ (∀ p < 10, if (t.port p).st = .up then (t.port p).halfWidth = false else (t.port p).fitted = false) →
        Recorded s t 6 1) := by
  have hexec := exec_bu6 (up := up) (half := half) hruns
  obtain ⟨hframe, hchanged, -⟩ := ports_foldl (s := s) (bu6Step_spec (portsOn_of_stage hruns) up half) List.nodup_range
    (l := List.range 10) s rfl
  have hmem : ∀ p, p < 10 → p ∈ List.range 10 := fun p hp => List.mem_range.mpr hp
  generalize (List.range 10).foldl (bu6Step up half) s = u at hexec hframe hchanged
  generalize [u.portMask fun x => x.st == .up, u.portMask fun x => x.st == .up && x.halfWidth,
    u.portMask fun x => x.fitted && x.st != .up] = d at hexec
  obtain ⟨hend, hst, hstg⟩ := u.stagePass_ended 6 (if (u.portMask fun x => x.st == .up && x.halfWidth) = 0 ∧
    (u.portMask fun x => x.fitted && x.st != .up) = 0 then 0 else 1) d
  refine ⟨_, hexec, ?_⟩
  have hbu : u.bu = s.bu := by rw [hframe]
  have hrec := hend.of_bu hbu
  generalize u.stagePass 6 _ d = t at hend hst hstg hrec
  have ht := hend.frame
  have hport : ∀ p, t.port p = u.port p := fun p => by rw [ht]; rfl
  have hports : t.ports = u.ports := by rw [ht]
  have hswap : ∀ x y, { u with bu := x, hosts := y } = { s with ports := u.ports, bu := x, hosts := y } := fun x y => by
    rw [hframe]
  simp only [hport, hports]
  refine ⟨ht.trans (hswap _ _), ⟨hstg, hst⟩, fun p hp => hchanged p (hmem p hp), fun h => ?_, fun h => ?_⟩
  · rw [if_pos (full_iff.mpr h)] at hrec
    exact hrec
  · rw [if_neg fun hm => h (full_iff.mp hm)] at hrec
    exact hrec

/-! ## BU7 (R385) -/

theorem exec_bu7_waits (hruns : s.stageRuns 7 = true) (hv : s.bu.coordValid = false) (hskip : s.bu.skipped = false) :
    exec .bu7 s = .next { s with bu := { s.bu with st := .waitOrigin } } := by
  refine congrArg Host.Outcome.next (?_ : s.bu7 = _)
  unfold State.bu7
  rw [hruns, hv, hskip]
  rfl

theorem exec_bu7_goes (h : s.bu.coordValid = true ∨ s.bu.skipped = true) : exec .bu7 s = .next s := by
  refine congrArg Host.Outcome.next (?_ : s.bu7 = _)
  unfold State.bu7
  refine if_pos ?_
  obtain h | h := h
  · rw [h, Bool.or_true, Bool.true_or]
  · rw [h, Bool.or_true]

/-- The detail words of BU7. -/
def State.bu7Detail (s : State) : List Nat :=
  [s.bu.coord.toNat, s.bu.coordRing.toNat, b2n s.bu.isOrigin + 2 * b2n s.bu.skipped,
    if s.bu.conflict then s.bu.conflictPort else 0, s.bu.conflictKind]

theorem exec_discoveryEnd (hruns : s.stageRuns 7 = true) (h : s.bu.coordValid = true ∨ s.bu.skipped = true) :
    exec .discoveryEnd s = .next (if (s.bu.conflict && !s.bu.skipped) = true then s.stageFail 7 0x70 s.bu7Detail
      else (s.stageRecord 7 0 s.bu7Detail).beginBu8) := by
  refine congrArg Host.Outcome.next (?_ : s.discoveryEnd = _)
  unfold State.discoveryEnd
  have hgo : (s.bu.coordValid || s.bu.skipped) = true := by
    rw [Bool.or_eq_true]
    exact h
  dsimp only
  rw [hruns, hgo]
  rfl

theorem discoveryEnd_spec (hruns : s.stageRuns 7 = true) (h : s.bu.coordValid = true ∨ s.bu.skipped = true) :
    ∃ t, exec .discoveryEnd s = .next t ∧ t = { s with bu := t.bu, hosts := t.hosts } ∧
      (s.bu.conflict = false ∨ s.bu.skipped = true → Recorded s t 7 0 ∧
        t.bu.stage = 8 ∧ t.bu.st = if s.bond.staged = none then .waitImage else .running) ∧
      (s.bu.conflict = true → s.bu.skipped = false → Recorded s t 7 0x70 ∧ t.bu.stage = 7 ∧ t.bu.st = .failed) := by
  refine ⟨_, exec_discoveryEnd hruns h, ?_⟩
  obtain ⟨-, -, hstage, -⟩ := stageRuns_iff.mp hruns
  by_cases hc : (s.bu.conflict && !s.bu.skipped) = true
  · rw [if_pos hc]
    rw [Bool.and_eq_true, Bool.not_eq_true'] at hc
    obtain ⟨hend, hst, hstg⟩ := s.stageFail_ended 7 0x70 s.bu7Detail
    refine ⟨hend.frame, fun h => ?_, fun _ _ => ⟨hend.recorded, hstg.trans hstage, hst⟩⟩
    obtain h | h := h
    · exact absurd (h.symm.trans hc.1) Bool.false_ne_true
    · exact absurd (hc.2.symm.trans h) Bool.false_ne_true
  · rw [if_neg hc]
    have hend := s.appendRecord_ended 7 0 true s.bu7Detail
    have hstaged : (s.stageRecord 7 0 s.bu7Detail).bond.staged = s.bond.staged := by
      unfold State.stageRecord
      rw [hend.frame]
    have hset := hend.setBu (b := (s.stageRecord 7 0 s.bu7Detail).beginBu8.bu) rfl rfl rfl
    refine ⟨hset.frame, fun _ => ⟨hset.recorded, rfl, ?_⟩, fun h1 h2 => absurd (by rw [h1, h2]; rfl) hc⟩
    unfold State.beginBu8 State.beginStage
    dsimp only
    rw [hstaged]
    cases s.bond.staged <;> rfl

end

end Sys2Proof.Machine
end

section
/-!
SUPPORT. BU8, its soaks, and the limit of a stage (R386, R387).
-/
namespace Sys2Proof.Machine

/-! ## BU8 (R53, R54, R386, R387) -/

section
variable {s t u : State} {ms : Nat}

theorem Recorded.of_log {n r : Nat} (h : Recorded u t n r) (hcount : u.bu.logCount = s.bu.logCount)
    (hlog : u.bu.log = s.bu.log) (hattempt : u.bu.attempt = s.bu.attempt) : Recorded s t n r := by
  unfold Recorded at *
  rw [hcount, hlog, hattempt] at h
  exact h

/-- A port asked to soak. -/
def Port.soaking (ms : Nat) (x : Port) : Port := { x with soak := some { ms := ms, failed := false } }

/-- A port that BU8 has asked to soak: an UP port with room has sent its HELLO. -/
def Soaked (ms : Nat) (x y : Port) : Prop :=
  (x.st = .up ∧ Fits x 1 → FlitSent (x.soaking ms) y) ∧ (¬ (x.st = .up ∧ Fits x 1) → y = x.soaking ms)

/-- One port of BU8's soaks. -/
def soakStep (ms : Nat) (s : State) (p : Nat) : State :=
  if ((s.modPort p (Port.soaking ms)).port p).st == .up then
    (s.modPort p (Port.soaking ms)).sendCtrl p (.hello p ((s.modPort p (Port.soaking ms)).helloOf p))
  else s.modPort p (Port.soaking ms)

/-- The ports of a list have been asked to soak. -/
structure SoakFrom (s t : State) (l : List Nat) (ms : Nat) : Prop where
  frame : t = { s with ports := t.ports, out := t.out }
  soaked : ∀ p ∈ l, Soaked ms (s.port p) (t.port p)
  sent : ∀ p ∈ l, (s.port p).st = .up ∧ Fits (s.port p) 1 → ∃ y, Out.hello p y ∈ t.out ∧ y.flags.getLsbD 4 = true
  out : ∀ o ∈ s.out, o ∈ t.out
  others : ∀ p, p ∉ l → t.port p = s.port p

theorem soakStep_spec (ms : Nat) (s : State) (p : Nat) : SoakFrom s (soakStep ms s p) [p] ms := by
  have hne : ∀ q, q ∉ [p] → q ≠ p := fun q hq h => hq (List.mem_singleton.mpr h)
  unfold soakStep
  generalize hu : s.modPort p (Port.soaking ms) = u
  have hport : u.port p = (s.port p).soaking ms := by rw [← hu, State.port_modPort_self]
  have hothers : ∀ q, q ≠ p → u.port q = s.port q := fun q hq => by rw [← hu, State.port_modPort_ne _ _ hq]
  have hout : u.out = s.out := by rw [← hu]; rfl
  have hframe : ∀ x y, ({ u with ports := x, out := y } : State) = { s with ports := x, out := y } := fun x y => by
    rw [← hu]
    rfl
  have hst : (u.port p).st = (s.port p).st := by rw [hport]; rfl
  have hfits : Fits (u.port p) 1 ↔ Fits (s.port p) 1 := by rw [hport]; rfl
  by_cases hgo : (s.port p).st = .up ∧ Fits (s.port p) 1
  · rw [if_pos (by rw [hst, hgo.1]; rfl)]
    obtain ⟨hsent, hsothers, hflit⟩ := State.sendCtrl_fits (.hello p (u.helloOf p)) (hfits.mpr hgo.2)
    generalize u.sendCtrl p (.hello p (u.helloOf p)) = t at hsent hsothers hflit
    have htout : t.out = s.out ++ [.hello p (u.helloOf p)] := by
      rw [hsent, hout]
    refine ⟨?_, fun q hq => ?_, fun q hq _ => ?_, fun o ho => ?_, fun q hq => ?_⟩
    · rw [htout, ← hout]
      exact hsent.trans (hframe _ _)
    · rw [List.mem_singleton.mp hq]
      refine ⟨fun _ => ?_, fun h => absurd hgo h⟩
      rw [← hport]
      exact hflit
    · rw [List.mem_singleton.mp hq, htout]
      exact ⟨u.helloOf p, List.mem_append_right _ (List.mem_singleton.mpr rfl), helloOf_soak (by rw [hport]; rfl)⟩
    · rw [htout]
      exact List.mem_append_left _ ho
    · exact (hsothers q (hne q hq)).trans (hothers q (hne q hq))
  · have hstay : (if ((u.port p).st == .up) = true then u.sendCtrl p (.hello p (u.helloOf p)) else u) = u := by
      split
      · next h =>
        refine State.sendCtrl_full _ fun hf => hgo ⟨?_, hfits.mp hf⟩
        rw [← hst]
        exact beq_iff_eq.mp h
      · rfl
    rw [hstay]
    refine ⟨hframe _ _, fun q hq => ?_, fun q hq h => ?_, fun o ho => by rw [hout]; exact ho,
      fun q hq => hothers q (hne q hq)⟩
    · rw [List.mem_singleton.mp hq]
      exact ⟨fun h => absurd h hgo, fun _ => hport⟩
    · rw [List.mem_singleton.mp hq] at h
      exact absurd h hgo

theorem soak_foldl (ms : Nat) {l : List Nat} (hl : l.Nodup) (s : State) : SoakFrom s (l.foldl (soakStep ms) s) l ms := by
  induction l generalizing s with
  | nil => exact ⟨rfl, fun p hp => absurd hp List.not_mem_nil, fun p hp => absurd hp List.not_mem_nil, fun _ ho => ho,
      fun _ _ => rfl⟩
  | cons p l ih =>
    obtain ⟨hp, hl⟩ := List.nodup_cons.mp hl
    obtain ⟨hframe, hsoaked, hsent, hout, hothers⟩ := soakStep_spec ms s p
    obtain ⟨hframe', hsoaked', hsent', hout', hothers'⟩ := ih hl (soakStep ms s p)
    rw [List.foldl_cons]
    generalize l.foldl (soakStep ms) (soakStep ms s p) = t at *
    generalize soakStep ms s p = v at *
    have hself : p ∈ [p] := List.mem_singleton.mpr rfl
    have hsame : ∀ q ∈ l, v.port q = s.port q := fun q hq => hothers q fun h => hp (List.mem_singleton.mp h ▸ hq)
    refine ⟨?_, fun q hq => ?_, fun q hq h => ?_, fun o ho => hout' o (hout o ho), fun q hq => ?_⟩
    · have hswap : ∀ x y, { v with ports := x, out := y } = { s with ports := x, out := y } := fun x y => by rw [hframe]
      exact hframe'.trans (hswap _ _)
    · obtain rfl | hq := List.mem_cons.mp hq
      · rw [hothers' q hp]
        exact hsoaked q hself
      · rw [← hsame q hq]
        exact hsoaked' q hq
    · obtain rfl | hq := List.mem_cons.mp hq
      · obtain ⟨y, hy, hbit⟩ := hsent q hself h
        exact ⟨y, hout' _ hy, hbit⟩
      · rw [← hsame q hq] at h
        exact hsent' q hq h
    · rw [List.mem_cons, not_or] at hq
      exact (hothers' q hq.2).trans (hothers q fun h => hq.1 (List.mem_singleton.mp h))

theorem exec_bu8 (hruns : s.stageRuns 8 = true) (hstaged : s.bond.staged ≠ none) (hsoak : s.bu.soaking = false) :
    exec .bu8 s = .next
      (if (bit (s.readyOf s.stagedSects).1 1 && s.topo.2) = true then s.stageFail 8 0x81 (s.bu8Detail s.topo.1)
       else if (!bit (s.readyOf s.stagedSects).1 0 || s.bu.rung3 || s.soakPorts.isEmpty) = true then s.bu8Pass
       else s.soakPorts.foldl (soakStep (s.readyOf s.stagedSects).2.2.1)
        { s with bu := { s.bu with soaking := true } }) := by
  refine congrArg Host.Outcome.next (?_ : s.bu8 = _)
  have hsome : s.bond.staged.isNone = false := by
    cases h : s.bond.staged with
    | none => exact absurd h hstaged
    | some x => rfl
  unfold State.bu8
  rw [hruns, hsome, hsoak]
  rfl

theorem soakPorts_nodup : s.soakPorts.Nodup := List.nodup_range.filter _

theorem bu8_spec (hruns : s.stageRuns 8 = true) (hstaged : s.bond.staged ≠ none) (hsoak : s.bu.soaking = false) :
    ∃ t, exec .bu8 s = .next t ∧ t = { s with ports := t.ports, bu := t.bu, hosts := t.hosts, out := t.out } ∧
      (bit (s.readyOf s.stagedSects).1 1 = true → s.topo.2 = true →
        (t.bu.stage = 8 ∧ t.bu.st = .failed) ∧ Recorded s t 8 0x81 ∧ t.ports = s.ports) ∧
      (bit (s.readyOf s.stagedSects).1 1 = false ∨ s.topo.2 = false →
        (bit (s.readyOf s.stagedSects).1 0 = false ∨ s.bu.rung3 = true ∨ s.soakPorts = [] →
          (t.bu.stage = 9 ∧ t.bu.st = .running) ∧ Recorded s t 8 0 ∧ t.ports = s.ports) ∧
        (bit (s.readyOf s.stagedSects).1 0 = true → s.bu.rung3 = false → s.soakPorts ≠ [] →
          (t.bu.stage = 8 ∧ t.bu.st = .running) ∧ t.bu.soaking = true ∧ t.bu.log = s.bu.log ∧ ∀ p ∈ s.soakPorts,
            ((s.port p).st = .up ∧ Fits (s.port p) 1 →
              FlitSent ((s.port p).soaking (s.readyOf s.stagedSects).2.2.1) (t.port p) ∧
              ∃ y, Out.hello p y ∈ t.out ∧ y.flags.getLsbD 4 = true) ∧
            (¬ ((s.port p).st = .up ∧ Fits (s.port p) 1) →
              t.port p = (s.port p).soaking (s.readyOf s.stagedSects).2.2.1))) := by
  obtain ⟨-, -, hstage, hst⟩ := stageRuns_iff.mp hruns
  have hexec := exec_bu8 hruns hstaged hsoak
  have hended : ∀ v : State, v = { s with bu := v.bu, hosts := v.hosts } →
      v = { s with ports := v.ports, bu := v.bu, hosts := v.hosts, out := v.out } ∧ v.ports = s.ports := fun v hv => by
    have h1 : v.ports = s.ports := by rw [hv]
    have h2 : v.out = s.out := by rw [hv]
    refine ⟨?_, h1⟩
    rw [h1, h2]
    exact hv
  by_cases hfail : (bit (s.readyOf s.stagedSects).1 1 && s.topo.2) = true
  · rw [if_pos hfail] at hexec
    rw [Bool.and_eq_true] at hfail
    obtain ⟨hend, hst', hstg⟩ := s.stageFail_ended 8 0x81 (s.bu8Detail s.topo.1)
    obtain ⟨hframe, hports⟩ := hended _ hend.frame
    refine ⟨_, hexec, hframe, fun _ _ => ⟨⟨hstg.trans hstage, hst'⟩, hend.recorded, hports⟩, fun h => ?_⟩
    obtain h | h := h
    · exact absurd (h.symm.trans hfail.1) Bool.false_ne_true
    · exact absurd (h.symm.trans hfail.2) Bool.false_ne_true
  · rw [if_neg hfail] at hexec
    by_cases hpass : (!bit (s.readyOf s.stagedSects).1 0 || s.bu.rung3 || s.soakPorts.isEmpty) = true
    · rw [if_pos hpass] at hexec
      obtain ⟨hend, hst', hstg⟩ := s.stagePass_ended 8 0 (s.bu8Detail 0)
      obtain ⟨hframe, hports⟩ := hended _ hend.frame
      refine ⟨_, hexec, hframe, fun h1 h2 => absurd (by rw [h1, h2]; rfl) hfail,
        fun _ => ⟨fun _ => ⟨⟨hstg, hst'⟩, hend.recorded, hports⟩, fun h1 h2 h3 => ?_⟩⟩
      rw [h1, h2, Bool.not_true, Bool.false_or, Bool.false_or, List.isEmpty_iff] at hpass
      exact absurd hpass h3
    · rw [if_neg hpass] at hexec
      obtain ⟨hframe, hsoaked, hsent, -, -⟩ := soak_foldl (s.readyOf s.stagedSects).2.2.1 (soakPorts_nodup (s := s))
        { s with bu := { s.bu with soaking := true } }
      refine ⟨_, hexec, ?_⟩
      generalize s.soakPorts.foldl (soakStep (s.readyOf s.stagedSects).2.2.1)
        { s with bu := { s.bu with soaking := true } } = t at hframe hsoaked hsent
      have hbu : t.bu = { s.bu with soaking := true } := by rw [hframe]
      have hhosts : t.hosts = s.hosts := by rw [hframe]
      refine ⟨?_, fun h1 h2 => absurd (by rw [h1, h2]; rfl) hfail, fun _ => ⟨fun h => ?_, fun _ _ _ => ?_⟩⟩
      · rw [hbu, hhosts]
        exact hframe
      · refine absurd ?_ hpass
        obtain h | h | h := h
        · rw [h]
          rfl
        · rw [h, Bool.or_true, Bool.true_or]
        · rw [h]
          exact Bool.or_true _
      · rw [hbu]
        exact ⟨⟨hstage, hst⟩, rfl, rfl, fun p hp => ⟨fun h => ⟨(hsoaked p hp).1 h, hsent p hp h⟩, (hsoaked p hp).2⟩⟩

/-! ## Ends of soaks (R387, R388) -/

theorem soakPorts_of (hbond : t.bond = s.bond) (hgen : t.gen = s.gen) (hfit : ∀ p, (t.port p).fitted = (s.port p).fitted) :
    t.soakPorts = s.soakPorts := by
  have hready : t.readyOf t.stagedSects = s.readyOf s.stagedSects := by
    unfold State.readyOf State.stagedSects
    rw [hbond, hgen]
  unfold State.soakPorts
  rw [hready]
  exact List.filter_congr fun p _ => by rw [hfit]

/-- A soak's port, its counts added. -/
def Port.soakDone (x : Port) (bits errs : Nat) : Port :=
  { x with
    soak := none, berBits := satAdd 64 x.berBits bits, berErr := satAdd 64 x.berErr errs,
    st := if x.testBit then .test else .training }

theorem exec_soakComplete {p bits errs post : Nat} (hp : p < 10) (hon : s.portsOn = true) (htest : (s.port p).st = .test) :
    exec (.soakComplete p true bits errs post) s = .next
      ((s.setPort p ((s.port p).soakDone bits errs)).judge p true bits errs post) := by
  change guarded (isPort p) (s.soakEnd p true bits errs post) = _
  rw [guarded_ok (show isPort p = true from decide_eq_true hp)]
  refine congrArg Host.Outcome.next ?_
  unfold State.soakEnd
  dsimp only
  rw [hon, if_neg (by decide), if_pos rfl, if_neg (not_not.mpr htest)]
  rfl

theorem State.soakJudged_frame (s : State) : s.soakJudged = { s with bu := s.soakJudged.bu, hosts := s.soakJudged.hosts } := by
  unfold State.soakJudged
  dsimp only
  have hbu : ∀ b : Bu, ∀ v : State, v = { ({ s with bu := b } : State) with bu := v.bu, hosts := v.hosts } →
      v = { s with bu := v.bu, hosts := v.hosts } := fun _ _ h => h
  split
  · rfl
  · split
    · exact hbu _ _ (State.stagePass_ended _ 8 0 _).1.frame
    · exact hbu _ _ (State.stageFail_ended _ 8 0x80 _).1.frame

theorem State.judge_frame (s : State) (p : Nat) (joined : Bool) (bits errs post : Nat) :
    s.judge p joined bits errs post = { s with
      bu := (s.judge p joined bits errs post).bu, hosts := (s.judge p joined bits errs post).hosts } := by
  unfold State.judge
  split
  · rfl
  · dsimp only
    exact (State.soakJudged_frame _).trans rfl

theorem State.judge_idle {p : Nat} {joined : Bool} {bits errs post : Nat} (h : s.bu.soaking = false) :
    s.judge p joined bits errs post = s := by
  unfold State.judge
  exact if_pos (by rw [h]; rfl)

/-- The result of one port's soak passes. -/
def soakOk (s : State) (bits errs post : Nat) : Bool :=
  berOk (s.readyOf s.stagedSects).2.2.2.1 (s.readyOf s.stagedSects).2.2.2.2 errs bits && post == 0

theorem soakOk_iff (bits errs post : Nat) : soakOk s bits errs post = true ↔
    post = 0 ∧ errs * 10 ^ (s.readyOf s.stagedSects).2.2.2.2 ≤ (s.readyOf s.stagedSects).2.2.2.1 * bits := by
  unfold soakOk berOk
  rw [Bool.and_eq_true, decide_eq_true_iff, beq_iff_eq]
  exact and_comm

theorem mask_bit {p : Nat} (hp : p < 10) : (BitVec.ofNat 10 (2 ^ p)).getLsbD p = true := by
  revert p
  decide

theorem mask_ne {p : Nat} (hp : p < 10) : BitVec.ofNat 10 (2 ^ p) ≠ 0 := by
  revert p
  decide

/-- What a judgement notes of a port that has soaked. -/
def Bu.judged (b : Bu) (p bits errs : Nat) (ok : Bool) : Bu :=
  let worse := b.soaked == 0 || decide (errs * b.worstBits > b.worstErrs * bits)
  { b with
    soaked := b.soaked ||| BitVec.ofNat 10 (2 ^ p),
    linkFail := if ok then b.linkFail else b.linkFail ||| BitVec.ofNat 10 (2 ^ p),
    worstPort := if worse then p else b.worstPort, worstErrs := if worse then errs else b.worstErrs,
    worstBits := if worse then bits else b.worstBits }

theorem State.judge_eq {p bits errs post : Nat} (hstage : s.bu.stage = 8) (hst : s.bu.st = .running)
    (hsoak : s.bu.soaking = true) (hports : s.soakPorts = [p]) (hsoaked : s.bu.soaked = 0) (hfail : s.bu.linkFail = 0) :
    s.judge p true bits errs post =
      ({ s with bu := s.bu.judged p bits errs (soakOk s bits errs post) } : State).soakJudged := by
  unfold State.judge
  rw [if_neg (by simp [hstage, hsoak, hst, hports, hsoaked, hfail])]
  unfold Bu.judged soakOk
  obtain ⟨a, b, c, d, e⟩ := s.readyOf s.stagedSects
  rfl

theorem State.soakJudged_only {p : Nat} (hports : s.soakPorts = [p]) (hdone : s.bu.soaked.getLsbD p = true) :
    s.soakJudged = if s.bu.linkFail = 0 then ({ s with bu := { s.bu with soaking := false } } : State).bu8Pass
      else ({ s with bu := { s.bu with soaking := false } } : State).stageFail 8 0x80
        (({ s with bu := { s.bu with soaking := false } } : State).bu8Detail 0) := by
  unfold State.soakJudged
  dsimp only
  rw [if_neg]
  simp [hports, hdone]

/-- The judgement of the one port that soaks. -/
theorem State.judge_only {p bits errs post : Nat} (hp : p < 10) (hstage : s.bu.stage = 8) (hst : s.bu.st = .running)
    (hsoak : s.bu.soaking = true) (hports : s.soakPorts = [p]) (hsoaked : s.bu.soaked = 0) (hfail : s.bu.linkFail = 0) :
    ∃ b : Bu, b.logCount = s.bu.logCount ∧ b.log = s.bu.log ∧ b.attempt = s.bu.attempt ∧ b.stage = 8 ∧ ∃ d,
      s.judge p true bits errs post = if soakOk s bits errs post then ({ s with bu := b } : State).stagePass 8 0 d
        else ({ s with bu := b } : State).stageFail 8 0x80 d := by
  refine ⟨{ s.bu.judged p bits errs (soakOk s bits errs post) with soaking := false }, rfl, rfl, rfl, hstage,
    ({ s with bu := { s.bu.judged p bits errs (soakOk s bits errs post) with soaking := false } } : State).bu8Detail 0, ?_⟩
  rw [State.judge_eq hstage hst hsoak hports hsoaked hfail]
  generalize soakOk s bits errs post = ok
  have hdone : (s.bu.judged p bits errs ok).soaked.getLsbD p = true := by
    unfold Bu.judged
    dsimp only
    rw [hsoaked, BitVec.getLsbD_or, mask_bit hp, Bool.or_true]
  have hports' : ({ s with bu := s.bu.judged p bits errs ok } : State).soakPorts = [p] := hports
  rw [State.soakJudged_only hports' hdone]
  have hlink : (s.bu.judged p bits errs ok).linkFail = if ok then 0 else BitVec.ofNat 10 (2 ^ p) := by
    unfold Bu.judged
    dsimp only
    rw [hfail]
    split
    · rfl
    · exact BitVec.zero_or
  dsimp only
  rw [hlink]
  cases ok with
  | true => rfl
  | false =>
    rw [if_neg Bool.false_ne_true, if_neg (mask_ne hp), if_neg Bool.false_ne_true]

/-- The end of a soak. -/
theorem soakComplete_spec {p bits errs post : Nat} (hp : p < 10) (hon : s.portsOn = true) (htest : (s.port p).st = .test) :
    ∃ t, exec (.soakComplete p true bits errs post) s = .next t ∧
      t = { s with ports := t.ports, bu := t.bu, hosts := t.hosts } ∧ t.port p = (s.port p).soakDone bits errs ∧
      (s.bu.soaking = false → t.bu = s.bu) ∧
      (s.stageRuns 8 = true → s.bu.soaking = true → s.soakPorts = [p] → s.bu.soaked = 0 → s.bu.linkFail = 0 →
        (soakOk s bits errs post = true → (t.bu.stage = 9 ∧ t.bu.st = .running) ∧ Recorded s t 8 0) ∧
        (¬ soakOk s bits errs post = true → (t.bu.stage = 8 ∧ t.bu.st = .failed) ∧ Recorded s t 8 0x80)) := by
  refine ⟨_, exec_soakComplete hp hon htest, ?_⟩
  generalize hu : s.setPort p ((s.port p).soakDone bits errs) = u
  have hport : u.port p = (s.port p).soakDone bits errs := by rw [← hu, State.port_setPort_self]
  have hothers : ∀ q, q ≠ p → u.port q = s.port q := fun q hq => by rw [← hu, State.port_setPort_ne _ _ hq]
  have hframe : ∀ b x, ({ u with bu := b, hosts := x } : State) = { s with ports := u.ports, bu := b, hosts := x } :=
    fun b x => by
      rw [← hu]
      rfl
  have hbu : u.bu = s.bu := by rw [← hu]; rfl
  have hok : soakOk u bits errs post = soakOk s bits errs post := by rw [← hu]; rfl
  have hsoakPorts : u.soakPorts = s.soakPorts := by
    refine soakPorts_of (by rw [← hu]; rfl) (by rw [← hu]; rfl) fun q => ?_
    by_cases hq : q = p
    · rw [hq, hport]
      rfl
    · rw [hothers q hq]
  have hjudge := u.judge_frame p true bits errs post
  refine ⟨?_, ?_, fun h => ?_, fun hruns hsoak hports hsoaked hfail => ?_⟩
  · have hports : (u.judge p true bits errs post).ports = u.ports := by rw [hjudge]
    rw [hports]
    exact hjudge.trans (hframe _ _)
  · rw [hjudge]
    exact hport
  · rw [State.judge_idle (by rw [hbu]; exact h)]
    exact hbu
  · obtain ⟨-, -, hstage, hst⟩ := stageRuns_iff.mp hruns
    rw [← hbu] at hstage hst hsoak hsoaked hfail
    obtain ⟨b, hcount, hlog, hattempt, hb8, d, heq⟩ := State.judge_only (s := u) (bits := bits) (errs := errs) (post := post)
      hp hstage hst hsoak (hsoakPorts.trans hports) hsoaked hfail
    rw [hbu] at hcount hlog hattempt
    rw [heq, hok]
    refine ⟨fun h => ?_, fun h => ?_⟩
    · rw [if_pos h]
      obtain ⟨hend, hst', hstg⟩ := ({ u with bu := b } : State).stagePass_ended 8 0 d
      exact ⟨⟨hstg, hst'⟩, Recorded.of_log hend.recorded hcount hlog hattempt⟩
    · rw [if_neg h]
      obtain ⟨hend, hst', hstg⟩ := ({ u with bu := b } : State).stageFail_ended 8 0x80 d
      exact ⟨⟨hstg.trans hb8, hst'⟩, Recorded.of_log hend.recorded hcount hlog hattempt⟩

/-! ## The stages' time limit (R377) -/

theorem stageTimeout_spec (hon : s.pwr.seq = .on) (hst : s.bu.st = .running) (h0 : s.bu.stage ≠ 0) (h7 : s.bu.stage ≠ 7) :
    ∃ t, exec .buStageTimeout s = .next t ∧ t = { s with bu := t.bu, hosts := t.hosts } ∧
      (t.bu.stage = s.bu.stage ∧ t.bu.st = .failed) ∧ Recorded s t s.bu.stage 0x0E := by
  refine ⟨s.stageTimeout, rfl, ?_⟩
  unfold State.stageTimeout
  dsimp only
  rw [if_neg (by simp [h0]), if_neg (by simp [hon, hst, h0, h7])]
  by_cases h1 : s.bu.stage = 1
  · rw [if_pos h1, h1]
    have hend := (s.appendRecord_ended 1 0x0E false (s.timeoutDetail 1)).setBu
      (b := { (s.appendRecord 1 0x0E s.bu.stageStart false (s.timeoutDetail 1)).bu with st := .failed }) rfl rfl rfl
    exact ⟨hend.frame, ⟨h1, rfl⟩, hend.recorded⟩
  · rw [if_neg h1]
    obtain ⟨hend, hst', hstg⟩ := s.stageFail_ended s.bu.stage 0x0E (s.timeoutDetail s.bu.stage)
    have hset := hend.setBu
      (b := { (s.stageFail s.bu.stage 0x0E (s.timeoutDetail s.bu.stage)).bu with soaking := false }) rfl rfl rfl
    exact ⟨hset.frame, ⟨hstg, hst'⟩, hset.recorded⟩

theorem bu0Timeout_spec (hseq : s.pwr.seq = .rising) (h0 : s.bu.stage = 0) :
    ∃ t, exec .buStageTimeout s = .next t ∧ t = { s with bu := t.bu, pwr := { s.pwr with seq := .falling } } ∧
      (t.bu.stage = 0 ∧ t.bu.st = .failed) ∧ Recorded s t 0 0x0E := by
  refine ⟨s.stageTimeout, rfl, ?_⟩
  unfold State.stageTimeout
  dsimp only
  rw [if_pos (by rw [h0, hseq]; rfl)]
  exact ⟨rfl, ⟨h0, rfl⟩, recorded_of_logged (s := s) (start := 0) (detail := s.bu0Detail) rfl rfl rfl⟩

end

end Sys2Proof.Machine
end

section
/-!
SUPPORT. Stage BU9: a full image applied whole (R58 to R60, R64), and the obligation of bring-up stages BU6 to BU9.
-/
namespace Sys2Proof.Machine

variable {s t v : State} {e : Nat}

/-! ## The parts of an application -/

theorem State.eng_modEng_idle (s : State) (p : Nat) (h : (s.eng e).act = .idle) :
    ((s.modEng p fun x => { x with act := .idle }).eng e).act = .idle := by
  by_cases hp : e = p
  · subst hp
    rw [State.eng_modEng, if_pos rfl]
  · rw [State.eng_modEng_ne _ _ hp, h]

/-- What enabling the engines of a list leaves. -/
theorem enable_foldl (l : List Nat) (s : State) :
    let t := l.foldl (fun s e => if s.engEnabled e then s.modEng e fun x => { x with act := .idle } else s) s
    t = { s with engines := t.engines } ∧ (∀ e, s.engEnabled e = true → e ∈ l ∨ (s.eng e).act = .idle → (t.eng e).act = .idle) ∧
      ∀ e, s.engEnabled e = false → t.eng e = s.eng e := by
  induction l generalizing s with
  | nil => exact ⟨rfl, fun e _ h => h.resolve_left List.not_mem_nil, fun _ _ => rfl⟩
  | cons p l ih =>
    rw [List.foldl_cons]
    split
    next hp =>
      obtain ⟨hframe, hidle, hkept⟩ := ih (s.modEng p fun x => { x with act := .idle })
      refine ⟨hframe, fun e he hor => hidle e he ?_, fun e he => (hkept e he).trans (State.eng_modEng_ne _ _ ?_)⟩
      · rcases hor with hmem | hact
        · rcases List.mem_cons.mp hmem with heq | hmem
          · subst heq
            exact .inr (by rw [State.eng_modEng, if_pos rfl])
          · exact .inl hmem
        · exact .inr (s.eng_modEng_idle p hact)
      · rintro rfl
        rw [he] at hp
        exact Bool.false_ne_true hp
    next hp =>
      obtain ⟨hframe, hidle, hkept⟩ := ih s
      refine ⟨hframe, fun e he hor => hidle e he ?_, hkept⟩
      rcases hor with hmem | hact
      · rcases List.mem_cons.mp hmem with heq | hmem
        · subst heq
          exact absurd he hp
        · exact .inl hmem
      · exact .inr hact

theorem enableCourses_foldl (f : State → Nat → State)
    (hf : ∀ s c, f s c = { s with courses := (f s c).courses, doms := (f s c).doms }) (l : List Nat) (s : State) :
    l.foldl f s = { s with courses := (l.foldl f s).courses, doms := (l.foldl f s).doms } := by
  refine List.foldlRecOn l f (motive := fun t : State => t = { s with courses := t.courses, doms := t.doms }) rfl
    fun t ht c _ => ?_
  have hswap : ∀ x y, { t with courses := x, doms := y } = { s with courses := x, doms := y } := fun x y => by rw [ht]
  exact (hf t c).trans (hswap _ _)

theorem State.enableCourses_frame (s : State) :
    s.enableCourses = { s with courses := s.enableCourses.courses, doms := s.enableCourses.doms } :=
  enableCourses_foldl _ (fun s c => by
    dsimp only
    split
    · rfl
    · rfl) _ s

theorem assignKeys_foldl (f : State → Nat → State) (hf : ∀ s k, f s k = { s with keys := (f s k).keys }) (l : List Nat)
    (s : State) : l.foldl f s = { s with keys := (l.foldl f s).keys } := by
  refine List.foldlRecOn l f (motive := fun t : State => t = { s with keys := t.keys }) rfl fun t ht k _ => ?_
  have hswap : ∀ x, { t with keys := x } = { s with keys := x } := fun x => by rw [ht]
  exact (hf t k).trans (hswap _)

theorem State.assignKeys_frame (s : State) (l : List Sect) : s.assignKeys l = { s with keys := (s.assignKeys l).keys } :=
  assignKeys_foldl _ (fun _ _ => rfl) _ s

theorem loadHalf_foldl (g : Nat → Tab W32) (l : List Nat) (s : State) :
    l.foldl (fun s i => s.loadHalf i (g i)) s = { s with rte := (l.foldl (fun s i => s.loadHalf i (g i)) s).rte } := by
  induction l generalizing s with
  | nil => rfl
  | cons i l ih => exact (ih (s.loadHalf i (g i))).trans rfl

theorem State.half_of_rte {t u : State} (h : t.rte = u.rte) (ep : Bool) : t.half ep = u.half ep := by
  unfold State.half
  rw [h]

/-- The cap and throttle of a freshly applied image. -/
def Pwr.capped (p : Pwr) (w : Nat) : Pwr := { p with capW := w, ft := 16 }

def State.withCap (s : State) : State := { s with pwr := s.pwr.capped s.cfg.capW }

/-- The routing tables of a full image. -/
def State.loadHalves (s : State) (l : List Sect) : State :=
  (List.range 8).foldl (fun s i =>
    s.loadHalf i (((l.find? fun x => x.typ == secRoute && x.inst == i).map fun (x : Sect) => routeHalf x.body).getD [])) s

theorem State.loadHalves_frame (s : State) (l : List Sect) : s.loadHalves l = { s with rte := (s.loadHalves l).rte } :=
  loadHalf_foldl _ _ s

/-- The first epoch of a slice. -/
def State.startEpoch (s : State) : State :=
  ((s.modRte fun r => { r with inj := s.cfg.slice.initEpoch }).setHalf s.cfg.slice.initEpoch .active).setHalf
    (!s.cfg.slice.initEpoch) .free

/-- The halves that the injection epoch of a fresh slice makes ACTIVE and FREE. -/
theorem State.startEpoch_spec (s : State) :
    s.startEpoch = { s with rte := s.startEpoch.rte } ∧ s.startEpoch.rte.inj = s.cfg.slice.initEpoch ∧
      s.startEpoch.half s.cfg.slice.initEpoch = .active ∧ s.startEpoch.half (!s.cfg.slice.initEpoch) = .free := by
  unfold State.startEpoch
  cases s.cfg.slice.initEpoch
  · exact ⟨rfl, rfl, rfl, rfl⟩
  · exact ⟨rfl, rfl, rfl, rfl⟩

/-- The halves of the buddy area as the registers note them. -/
def State.heldNoted (s : State) : State :=
  { s.noteHalves with ckp := { s.noteHalves.ckp with completions := max (s.noteHalves.compSeq 0) (s.noteHalves.compSeq 1) } }

theorem State.heldNoted_frame (s : State) : s.heldNoted = { s with ckp := s.heldNoted.ckp } := by
  unfold State.heldNoted State.noteHalves
  rfl

theorem State.applyFull_eq (s : State) (l : List Sect) : s.applyFull l =
    ((((({ s with cfg := s.fullCfg l } : State).enableEngines.enableCourses.withCap).assignKeys l).loadHalves
      l).startEpoch).heldNoted := by
  unfold State.applyFull State.withCap Pwr.capped State.loadHalves State.startEpoch State.heldNoted
  with_reducible rfl

theorem State.enableEngines_spec (s : State) :
    s.enableEngines = { s with engines := s.enableEngines.engines } ∧
      (∀ e < 2048, s.engEnabled e = true → (s.enableEngines.eng e).act = .idle) ∧
      ∀ e, s.engEnabled e = false → s.enableEngines.eng e = s.eng e := by
  obtain ⟨hframe, hidle, hkept⟩ := enable_foldl (List.range 2048) s
  unfold State.enableEngines
  exact ⟨hframe, fun e he h => hidle e h (.inl (List.mem_range.mpr he)), hkept⟩

theorem State.fullCfg_congr {s t : State} (h : t.gen = s.gen) (l : List Sect) : t.fullCfg l = s.fullCfg l := by
  unfold State.fullCfg State.defaultCfg
  rw [h]

/-- Only what a full image configures may differ. -/
def FullOnly (s t : State) : Prop := t = { s with
  cfg := t.cfg, engines := t.engines, courses := t.courses, doms := t.doms, pwr := t.pwr, keys := t.keys, rte := t.rte
  ckp := t.ckp }

theorem FullOnly.trans {s t u : State} (h1 : FullOnly s t) (h2 : FullOnly t u) : FullOnly s u := by
  unfold FullOnly at *
  have hswap : ∀ a b c d e f g h, { t with
      cfg := a, engines := b, courses := c, doms := d, pwr := e, keys := f, rte := g, ckp := h } = { s with
      cfg := a, engines := b, courses := c, doms := d, pwr := e, keys := f, rte := g, ckp := h } :=
    fun a b c d e f g h => by rw [h1]
  exact h2.trans (hswap ..)

theorem fullOnly_engines (h : t = { s with engines := t.engines }) : FullOnly s t := by
  unfold FullOnly
  rw [h]

theorem fullOnly_courses (h : t = { s with courses := t.courses, doms := t.doms }) : FullOnly s t := by
  unfold FullOnly
  rw [h]

theorem fullOnly_keys (h : t = { s with keys := t.keys }) : FullOnly s t := by
  unfold FullOnly
  rw [h]

theorem fullOnly_rte (h : t = { s with rte := t.rte }) : FullOnly s t := by
  unfold FullOnly
  rw [h]

theorem fullOnly_ckp (h : t = { s with ckp := t.ckp }) : FullOnly s t := by
  unfold FullOnly
  rw [h]

/-- What the application of a full image's sections leaves. -/
structure Applied (s t : State) (c : Cfg) : Prop where
  frame : FullOnly s t
  cfg : t.cfg = c
  pwr : t.pwr = s.pwr.capped c.capW
  inj : t.rte.inj = c.slice.initEpoch
  active : t.half c.slice.initEpoch = .active
  free : t.half (!c.slice.initEpoch) = .free
  idle : ∀ e < 2048, t.engEnabled e = true → (t.eng e).act = .idle
  kept : ∀ e, t.engEnabled e = false → t.eng e = s.eng e

theorem applied_of {v u1 u2 u3 u4 u5 : State} {c : Cfg} (h : v = { s with cfg := c })
    (hframe1 : u1 = { v with engines := u1.engines })
    (hidle : ∀ e < 2048, v.engEnabled e = true → (u1.eng e).act = .idle)
    (hkept : ∀ e, v.engEnabled e = false → u1.eng e = v.eng e)
    (hframe2 : u2 = { u1 with courses := u2.courses, doms := u2.doms })
    (hframe3 : u3 = { u2.withCap with keys := u3.keys }) (hframe4 : u4 = { u3 with rte := u4.rte })
    (hframe5 : u5 = { u4 with rte := u5.rte }) (hinj : u5.rte.inj = u4.cfg.slice.initEpoch)
    (hactive : u5.half u4.cfg.slice.initEpoch = .active) (hfree : u5.half (!u4.cfg.slice.initEpoch) = .free)
    (hframe6 : t = { u5 with ckp := t.ckp }) : Applied s t c := by
  have hcfg1 : u1.cfg = c := by rw [hframe1, h]
  have hcfg2 : u2.cfg = c := by rw [hframe2, hcfg1]
  have hcfg4 : u4.cfg = c := by rw [hframe4, hframe3, ← hcfg2]; rfl
  have hcfg : t.cfg = c := by rw [hframe6, hframe5, hcfg4]
  rw [hcfg4] at hinj hactive hfree
  have hpwr2 : u2.pwr = s.pwr := by rw [hframe2, hframe1, h]
  have hpwr3 : u3.pwr = s.pwr.capped c.capW := by rw [hframe3, ← hcfg2, ← hpwr2]; rfl
  have hpwr : t.pwr = s.pwr.capped c.capW := by rw [hframe6, hframe5, hframe4, hpwr3]
  have heng3 : u3.engines = u1.engines := by rw [hframe3]; show u2.engines = _; rw [hframe2]
  have hengines : t.engines = u1.engines := by rw [hframe6, hframe5, hframe4, heng3]
  have hrte : t.rte = u5.rte := by rw [hframe6]
  have hen : ∀ e, t.engEnabled e = v.engEnabled e := by
    intro e
    unfold State.engEnabled
    rw [hcfg, h]
  have hat : ∀ e, t.eng e = u1.eng e := by
    intro e
    unfold State.eng
    rw [hengines]
  have hcap : FullOnly u2 u2.withCap := rfl
  have hset : FullOnly s v := by
    unfold FullOnly
    rw [h]
  refine ⟨hset.trans <| (fullOnly_engines hframe1).trans <| (fullOnly_courses hframe2).trans <| hcap.trans <|
    (fullOnly_keys hframe3).trans <| (fullOnly_rte hframe4).trans <| (fullOnly_rte hframe5).trans (fullOnly_ckp hframe6),
    hcfg, hpwr, by rw [hrte, hinj], (State.half_of_rte hrte _).trans hactive, (State.half_of_rte hrte _).trans hfree,
    fun e he hon => ?_, fun e hoff => ?_⟩
  · rw [hat]
    exact hidle e he ((hen e).symm.trans hon)
  · rw [hat, hkept e ((hen e).symm.trans hoff), h]
    rfl

theorem State.applyFull_applied (s : State) (l : List Sect) : Applied s (s.applyFull l) (s.fullCfg l) := by
  rw [State.applyFull_eq]
  obtain ⟨hframe1, hidle, hkept⟩ := State.enableEngines_spec { s with cfg := s.fullCfg l }
  obtain ⟨hframe5, hinj, hactive, hfree⟩ := State.startEpoch_spec _
  exact applied_of rfl hframe1 hidle hkept (State.enableCourses_frame _) (State.assignKeys_frame _ _)
    (State.loadHalves_frame _ _) hframe5 hinj hactive hfree (State.heldNoted_frame _)

/-! ## BU9 -/

/-- The end of a BU9 that applies its image. -/
def State.bu9Ready (u : State) (d : List Nat) : State :=
  { u.stageRecord 9 0 d with bu := { (u.stageRecord 9 0 d).bu with st := .ready } }

theorem exec_bu9 {g : Nat} {img : List Byte} (hruns : s.stageRuns 9 = true) (hstaged : s.bond.staged = some (g, img)) :
    exec .bu9 s = .next (match s.fullCheck (sections img) with
      | some f => (({ s with bond := { s.bond with staged := none } } : State).refuse g f).stageFail 9 0x90
          ([f.code, f.sect, f.off] ++ halves s.bond.activeSeq.toNat)
      | none => (((({ s with bond := { s.bond with staged := none } } : State).applyFull (sections img)).bondApplied img
          (shake256 img 32)).bondState g .done).bu9Ready ([0, 0xFFFF, 0] ++ halves (imgSeq img))) := by
  refine congrArg Host.Outcome.next (?_ : s.bu9 = _)
  unfold State.bu9
  rw [hruns, hstaged, Bool.not_true, if_neg Bool.false_ne_true]
  dsimp only
  cases s.fullCheck (sections img) with
  | none => unfold State.bu9Ready; with_reducible rfl
  | some f => with_reducible rfl

/-- BU9 refuses the image. -/
theorem bu9_refused {g : Nat} {img : List Byte} {f : Fail} (hruns : s.stageRuns 9 = true)
    (hstaged : s.bond.staged = some (g, img)) (hf : s.fullCheck (sections img) = some f) :
    ∃ t, exec .bu9 s = .next t ∧ t = { s with bond := t.bond, bu := t.bu, hosts := t.hosts } ∧ t.bond.staged = none ∧
      t.bond.activeSeq = s.bond.activeSeq ∧ (t.bondPort g).st = .refused ∧
      (t.bondPort g).code = BitVec.ofNat 8 f.code ∧ (t.bu.stage = 9 ∧ t.bu.st = .failed) ∧ Recorded s t 9 0x90 := by
  obtain ⟨_, _, hstage, _⟩ := stageRuns_iff.mp hruns
  rw [exec_bu9 hruns hstaged, hf]
  dsimp only
  generalize hd : [f.code, f.sect, f.off] ++ halves s.bond.activeSeq.toNat = d
  generalize hu : ({ s with bond := { s.bond with staged := none } } : State).refuse g f = u
  have hbond : (u.bondPort g).st = .refused ∧ (u.bondPort g).code = BitVec.ofNat 8 f.code := by
    rw [← hu]
    unfold State.refuse
    rw [State.bondPort_setBondPort, if_pos rfl]
    exact ⟨rfl, rfl⟩
  have hframe : u = { s with bond := u.bond } ∧ u.bond.staged = none ∧ u.bond.activeSeq = s.bond.activeSeq := by
    rw [← hu]
    exact ⟨rfl, rfl, rfl⟩
  obtain ⟨hend, hst, hstage'⟩ := u.stageFail_ended 9 0x90 d
  generalize u.stageFail 9 0x90 d = t at hend hst hstage'
  obtain ⟨hframe, hstaged', hseq⟩ := hframe
  have hbu : u.bu = s.bu := by rw [hframe]
  have htb : t.bond = u.bond := by rw [hend.frame]
  have htp : t.bondPort g = u.bondPort g := by
    unfold State.bondPort
    rw [htb]
  refine ⟨t, rfl, ?_, by rw [htb, hstaged'], by rw [htb, hseq], by rw [htp]; exact hbond.1, by rw [htp]; exact hbond.2,
    ⟨hstage'.trans (by rw [hbu, hstage]), hst⟩, hend.of_bu hbu⟩
  have hswap : ∀ b h, { u with bu := b, hosts := h } = { s with bond := u.bond, bu := b, hosts := h } := fun b h => by
    rw [hframe]
  rw [htb]
  exact hend.frame.trans (hswap _ _)

theorem State.bondDone_spec (a : State) (g : Nat) (img : List Byte) :
    let u := (a.bondApplied img (shake256 img 32)).bondState g .done
    u = { a with bond := u.bond } ∧ u.bond.staged = a.bond.staged ∧
      u.bond.activeSeq = BitVec.ofNat 64 (fieldAt img 0x18 8) ∧ u.bond.highWater = u.bond.activeSeq ∧
      u.bond.meas = shake256 img 32 :=
  ⟨rfl, rfl, rfl, rfl, rfl⟩

theorem State.bondDone_done (a : State) (g : Nat) (img meas : List Byte) :
    (((a.bondApplied img meas).bondState g .done).bondPort g).st = .done := by
  unfold State.bondState
  rw [State.bondPort_setBondPort, if_pos rfl]

theorem State.appendRecord_stage (s : State) (n result start : Nat) (detail : List Nat) (post : Bool) :
    (s.appendRecord n result start post detail).bu.stage = s.bu.stage := by
  rw [State.appendRecord_hostsOnly]
  rfl

/-- A bring-up that ends with an applied image. -/
theorem ready_of {a u v : State} {c : Cfg} {g : Nat} {img : List Byte} {d : List Nat}
    (ha : Applied { s with bond := { s.bond with staged := none } } a c) (hstage : s.bu.stage = 9)
    (hframe : u = { a with bond := u.bond } ∧ u.bond.staged = a.bond.staged ∧
      u.bond.activeSeq = BitVec.ofNat 64 (fieldAt img 0x18 8) ∧ u.bond.highWater = u.bond.activeSeq ∧
      u.bond.meas = shake256 img 32) (hdone : (u.bondPort g).st = .done) (hend : Ended u v 9 0 d)
    (hstage' : v.bu.stage = u.bu.stage) {t : State} (ht : t = { v with bu := { v.bu with st := .ready } }) :
    SameStores s t ∧ t.bond.staged = none ∧ (t.bu.stage = 9 ∧ t.bu.st = .ready) ∧
      Recorded s t 9 0 ∧ t.cfg = c ∧ (t.bondPort g).st = .done ∧
      t.bond.activeSeq = BitVec.ofNat 64 (fieldAt img 0x18 8) ∧ t.bond.highWater = t.bond.activeSeq ∧
      t.bond.meas = shake256 img 32 ∧ t.rte.inj = t.cfg.slice.initEpoch ∧ t.half t.rte.inj = .active ∧
      t.half (!t.rte.inj) = .free ∧ t.pwr = { s.pwr with capW := t.cfg.capW, ft := 16 } ∧
      (∀ e < 2048, t.engEnabled e = true → (t.eng e).act = .idle) ∧ ∀ e, t.engEnabled e = false → t.eng e = s.eng e := by
  obtain ⟨haframe, hacfg, hapwr, hinj, hactive, hfree, hidle, hkept⟩ := ha
  obtain ⟨huframe, hustaged, huseq, huhigh, humeas⟩ := hframe
  have habu : a.bu = s.bu := by rw [haframe]
  have hubu : u.bu = s.bu := by rw [huframe, ← habu]
  have hvframe := hend.frame
  have hvbond : v.bond = u.bond := by rw [hvframe]
  have hvcfg : v.cfg = a.cfg := by rw [hvframe, huframe]
  have hvrte : v.rte = a.rte := by rw [hvframe, huframe]
  have hvpwr : v.pwr = a.pwr := by rw [hvframe, huframe]
  have hveng : v.engines = a.engines := by rw [hvframe, huframe]
  have hvstores : v.ls = s.ls ∧ v.cs = s.cs ∧ v.mem = s.mem := by
    rw [hvframe, huframe, haframe]
    exact ⟨rfl, rfl, rfl⟩
  have hen : ∀ (b : Bu) e, ({ v with bu := b } : State).engEnabled e = a.engEnabled e := by
    intro b e
    unfold State.engEnabled
    dsimp only
    rw [hvcfg]
  have hhalf : ∀ (b : Bu) ep, ({ v with bu := b } : State).half ep = a.half ep := by
    intro b ep
    unfold State.half
    dsimp only
    rw [hvrte]
  have hat : ∀ (b : Bu) e, ({ v with bu := b } : State).eng e = a.eng e := by
    intro b e
    unfold State.eng
    dsimp only
    rw [hveng]
  rw [ht]
  refine ⟨hvstores, ?_, ⟨?_, rfl⟩, ?_, ?_, ?_, ?_, ?_, ?_, ?_, ?_, ?_, ?_, fun e he h => ?_, fun e h => ?_⟩
  · show v.bond.staged = none
    rw [hvbond, hustaged, haframe]
  · show v.bu.stage = 9
    rw [hstage', hubu, hstage]
  · exact (hend.setBu rfl rfl rfl).of_bu hubu
  · exact hvcfg.trans hacfg
  · have hp : ∀ b : Bu, ({ v with bu := b } : State).bondPort g = u.bondPort g := by
      intro b
      unfold State.bondPort
      dsimp only
      rw [hvbond]
    rw [hp, hdone]
  · show v.bond.activeSeq = _
    rw [hvbond, huseq]
  · show v.bond.highWater = v.bond.activeSeq
    rw [hvbond, huhigh]
  · show v.bond.meas = shake256 img 32
    rw [hvbond, humeas]
  · show v.rte.inj = v.cfg.slice.initEpoch
    rw [hvrte, hinj, hvcfg, hacfg]
  · exact (hhalf _ _).trans ((congrArg a.half ((congrArg Rte.inj hvrte).trans hinj)).trans hactive)
  · exact (hhalf _ _).trans ((congrArg (fun ep => a.half (!ep)) ((congrArg Rte.inj hvrte).trans hinj)).trans hfree)
  · show v.pwr = { s.pwr with capW := v.cfg.capW, ft := 16 }
    rw [hvpwr, hapwr, hvcfg, hacfg]
    rfl
  · rw [hat]
    exact hidle e he ((hen _ e).symm.trans h)
  · rw [hat]
    exact hkept e ((hen _ e).symm.trans h)

/-- BU9 applies the image. -/
theorem bu9_applied {g : Nat} {img : List Byte} (hruns : s.stageRuns 9 = true) (hstaged : s.bond.staged = some (g, img))
    (hf : s.fullCheck (sections img) = none) :
    ∃ t, exec .bu9 s = .next t ∧ SameStores s t ∧ t.bond.staged = none ∧ (t.bu.stage = 9 ∧ t.bu.st = .ready) ∧
      Recorded s t 9 0 ∧ t.cfg = s.fullCfg (sections img) ∧ (t.bondPort g).st = .done ∧
      t.bond.activeSeq = BitVec.ofNat 64 (fieldAt img 0x18 8) ∧ t.bond.highWater = t.bond.activeSeq ∧
      t.bond.meas = shake256 img 32 ∧ t.rte.inj = t.cfg.slice.initEpoch ∧ t.half t.rte.inj = .active ∧
      t.half (!t.rte.inj) = .free ∧ t.pwr = { s.pwr with capW := t.cfg.capW, ft := 16 } ∧
      (∀ e < 2048, t.engEnabled e = true → (t.eng e).act = .idle) ∧ ∀ e, t.engEnabled e = false → t.eng e = s.eng e := by
  obtain ⟨_, _, hstage, _⟩ := stageRuns_iff.mp hruns
  have ha := State.applyFull_applied { s with bond := { s.bond with staged := none } } (sections img)
  rw [State.fullCfg_congr (s := s) (t := { s with bond := { s.bond with staged := none } }) rfl] at ha
  refine ⟨_, ?_, ready_of (img := img) ha hstage (State.bondDone_spec _ _ _) (State.bondDone_done _ _ _ _)
    (State.appendRecord_ended _ 9 0 true ([0, 0xFFFF, 0] ++ halves (imgSeq img))) (State.appendRecord_stage ..) rfl⟩
  rw [exec_bu9 hruns hstaged, hf]
  unfold State.bu9Ready State.stageRecord
  with_reducible rfl

/-! ## Bring-up stages BU6 to BU9 -/

/-- Settles O45: a lemma for each command of the stages. -/
theorem bringUpSystem : Obligations.BringUpSystem := by
  unfold Obligations.BringUpSystem
  intro s
  refine ⟨fun up half hruns => ?_, fun hruns hv hskip => exec_bu7_waits hruns hv hskip,
    fun hruns h => ⟨exec_bu7_goes h, discoveryEnd_spec hruns h⟩, fun hruns hstaged hsoak => bu8_spec hruns hstaged hsoak,
    fun p bits errs post hp hon htest => ?_, fun g img hruns hstaged => ?_,
    fun hon hst h0 h7 => stageTimeout_spec hon hst h0 h7, fun hseq h0 => bu0Timeout_spec hseq h0⟩
  · obtain ⟨t, hexec, hframe, hat, hports, hfull, hpart⟩ := bu6_spec (up := up) (half := half) hruns
    refine ⟨t, hexec, hframe, hat, fun p hp hup => ?_, fun p hp hup hmay hst hlevel hentering => ?_, hfull, hpart⟩
    · exact (hports p hp).1 hup
    · exact (hports p hp).2 hup rfl hmay hst hlevel hentering
  · obtain ⟨t, hexec, hframe, hport, hidle, hjudge⟩ := soakComplete_spec (bits := bits) (errs := errs) (post := post) hp hon htest
    refine ⟨t, hexec, hframe, hport, hidle, fun hruns hsoak hports hsoaked hfail => ?_⟩
    obtain ⟨hpass, hbad⟩ := hjudge hruns hsoak hports hsoaked hfail
    exact ⟨fun h => hpass ((soakOk_iff bits errs post).mpr h), fun h => hbad fun h' => h ((soakOk_iff bits errs post).mp h')⟩
  · rcases hf : s.fullCheck (sections img) with _ | f
    · obtain ⟨t, hexec, hstores, hstaged', hrest⟩ := bu9_applied hruns hstaged hf
      exact ⟨t, hexec, hstores, hstaged', fun _ => hrest, fun f h => absurd h nofun⟩
    · obtain ⟨t, hexec, hframe, hstaged', hseq, hst, hcode, hat, hrec⟩ := bu9_refused hruns hstaged hf
      refine ⟨t, hexec, ?_, hstaged', fun h => absurd h nofun, fun f' h => ?_⟩
      · rw [hframe]
        exact ⟨rfl, rfl, rfl⟩
      · cases h
        exact ⟨hat, hrec, hframe, hst, hcode, hseq⟩

end Sys2Proof.Machine
end

section
/-!
SUPPORT. GO, the end of a fetch and RERUN (R27 to R33, R57).
-/
namespace Sys2Proof.Machine

variable {s : State} {h : Nat}

/-! ## Stores in pier space -/

/-- A counted store in pier space writes its bytes and touches controllers, domains and the queues of wakes. -/
theorem State.storePier_frame (s : State) (a : Nat) (bs : List Byte) :
    s.storeLoc (.pier a) bs = { s with
      mem := (s.writePier a bs).mem, mcs := (s.storeLoc (.pier a) bs).mcs, doms := (s.storeLoc (.pier a) bs).doms
      pwr := (s.storeLoc (.pier a) bs).pwr } := by
  obtain ⟨hls, hcs, hmem⟩ := State.stores_split ((SamePlaces.refl s).storeLoc (.pier a) bs).stores
  have hframe := (s.storeLoc_storeFrame (.pier a) bs).frame
  have hw := s.writePier_eq a bs
  have hls' : (s.writeLoc (.pier a) bs).ls = s.ls := by
    have hx := congrArg State.ls hw
    exact hx
  have hcs' : (s.writeLoc (.pier a) bs).cs = s.cs := by
    have hx := congrArg State.cs hw
    exact hx
  have hmem' : (s.writeLoc (.pier a) bs).mem = (s.writePier a bs).mem := rfl
  rw [hls, hls', hcs, hcs', hmem, hmem'] at hframe
  exact hframe

/-! ## GO (R27 to R29) -/

theorem State.bondPort_ne (hh : h < 2) (x : BondPort) : (s.setBondPort h x).bondPort (1 - h) = s.bondPort (1 - h) := by
  rw [State.bondPort_setBondPort, if_neg (by omega)]

theorem State.refuse_port (f : Fail) : ((s.refuse h f).bondPort h).st = .refused ∧
    ((s.refuse h f).bondPort h).code = BitVec.ofNat 8 f.code ∧
    ((s.refuse h f).bondPort h).section_ = BitVec.ofNat 16 f.sect ∧
    ((s.refuse h f).bondPort h).errOff = BitVec.ofNat 32 f.off := by
  unfold State.refuse
  rw [State.bondPort_setBondPort, if_pos rfl]
  exact ⟨rfl, rfl, rfl, rfl⟩

theorem State.bondState_port (st : BondState) : ((s.bondState h st).bondPort h) =
    { s.bondPort h with st := st, code := 0, section_ := 0xFFFF, errOff := 0 } := by
  unfold State.bondState
  rw [State.bondPort_setBondPort, if_pos rfl]

/-- The BOND block of a port whose fetch begins. -/
def BondPort.fetching (x : BondPort) (sent : Bool) : BondPort :=
  { x with st := .fetch, code := 0, section_ := 0xFFFF, errOff := 0, goSrc := x.src, goLen := x.len.toNat, sent := sent }

theorem State.bondGo_fetches (hw : s.writable = true) (hruns : (s.bondPort h).runs = false)
    (hother : (s.bondPort (1 - h)).runs = false) (hlen : (s.bondPort h).len ≠ 0)
    (hmax : (s.bondPort h).len.toNat ≤ 2 ^ 26) (hallowed : s.fullAllowed = true ∨ s.ready = true) :
    s.bondGo h = ((s.emptyLatch (portReq h)).bondState h .fetch |>.setBondPort h
      ((s.bondPort h).fetching false)).bondRead h := by
  have hallowed' : ¬ (!(s.emptyLatch (portReq h)).fullAllowed && !(s.emptyLatch (portReq h)).ready) = true := by
    show ¬ (!s.fullAllowed && !s.ready) = true
    rcases hallowed with h1 | h1 <;> rw [h1] <;> simp
  have hports : ∀ k, (s.emptyLatch (portReq h)).bondPort k = s.bondPort k := fun _ => rfl
  unfold State.bondGo
  dsimp only
  rw [hports, hports, hruns, hother, if_neg (by simp [show (s.emptyLatch (portReq h)).writable = true from hw]),
    if_neg Bool.false_ne_true, if_neg hlen, if_neg hallowed', if_neg (by omega), State.bondState_port]
  rfl

theorem go_fetches (hh : h < 2) (hw : s.writable = true) (hruns : (s.bondPort h).runs = false)
    (hother : (s.bondPort (1 - h)).runs = false) (hlen : (s.bondPort h).len ≠ 0)
    (hmax : (s.bondPort h).len.toNat ≤ 2 ^ 26) (hallowed : s.fullAllowed = true ∨ s.ready = true) :
    ∃ t, exec (.go h) s = .next t ∧ t = { s with bond := t.bond, out := t.out, latches := t.latches } ∧
      t.bondPort h = (s.bondPort h).fetching (s.hostUsable h) ∧ t.bondPort (1 - h) = s.bondPort (1 - h) ∧
      (s.hostUsable h = false → t.out = s.out) ∧
      (s.hostUsable h = true → t.out = s.out ++ readRequests s h (s.bondPort h).src (s.bondPort h).len.toNat) := by
  refine ⟨_, (exec_go hh s).trans (congrArg _ (State.bondGo_fetches hw hruns hother hlen hmax hallowed)), ?_⟩
  generalize hu : ((s.emptyLatch (portReq h)).bondState h .fetch).setBondPort h ((s.bondPort h).fetching false) = u
  have hport : u.bondPort h = (s.bondPort h).fetching false := by
    rw [← hu, State.bondPort_setBondPort, if_pos rfl]
  have hother : u.bondPort (1 - h) = s.bondPort (1 - h) := by
    rw [← hu, State.bondPort_ne hh]
    exact State.bondPort_ne hh _
  have hframe : u = { s with bond := u.bond, latches := u.latches } := by
    rw [← hu]
    rfl
  have hout : u.out = s.out := by rw [hframe]
  have husable : u.hostUsable h = s.hostUsable h := by
    rw [hframe]
    rfl
  have hswap : ∀ b o, { u with bond := b, out := o } = { s with bond := b, out := o, latches := u.latches } :=
    fun b o => by rw [hframe]
  unfold State.bondRead
  dsimp only
  rw [hport, husable]
  cases hcan : s.hostUsable h with
  | false =>
    rw [if_neg (by simp)]
    refine ⟨?_, hport, hother, fun _ => hout, nofun⟩
    rw [hout]
    exact hframe
  | true =>
    rw [if_pos (by unfold BondPort.fetching; rfl), State.hostReads_eq]
    have hreads : readRequests u h ((s.bondPort h).fetching false).goSrc ((s.bondPort h).fetching false).goLen =
        readRequests s h (s.bondPort h).src (s.bondPort h).len.toNat := by
      have hmrrs : (u.host h).mrrs = (s.host h).mrrs := by
        rw [hframe]
        rfl
      unfold readRequests
      rw [hmrrs]
      rfl
    rw [hreads, hout]
    refine ⟨hswap _ _, ?_, (State.bondPort_ne hh _).trans hother, nofun, fun _ => rfl⟩
    rw [State.bondPort_setBondPort, if_pos rfl]
    rfl

/-! ## RERUN (R57) -/

theorem exec_rerun (hh : h < 2) : exec (.rerun h) s = .next (s.rerun h) := guarded_ok (decide_eq_true hh) _

theorem rerun_starts (hh : h < 2) (hw : s.writable = true) (hstage : s.bu.stage = 8) (hst : s.bu.st = .failed)
    (hstaged : s.bond.staged ≠ none) :
    ∃ t, exec (.rerun h) s = .next t ∧ t = { s with bu := t.bu, latches := t.latches } ∧ t.bu.stage = 8 ∧
      t.bu.st = .running ∧ t.bu.attempt = s.bu.attempt + 1 ∧ t.bu.log = s.bu.log := by
  refine ⟨(s.emptyLatch (portReq h)).startBu8, (exec_rerun hh).trans (congrArg _ ?_), rfl, rfl, rfl, ?_, rfl⟩
  · have hw' : (s.emptyLatch (portReq h)).writable = true := hw
    have hbu : (s.emptyLatch (portReq h)).bu = s.bu := rfl
    have hbond : (s.emptyLatch (portReq h)).bond = s.bond := rfl
    obtain ⟨img, himg⟩ := Option.ne_none_iff_exists'.mp hstaged
    unfold State.rerun
    dsimp only
    rw [hw', hbu, hbond, hst, himg, if_neg (by simp [hstage])]
  · show (if (s.bu.st == .failed) = true then s.bu.attempt + 1 else s.bu.attempt) = _
    rw [hst]
    rfl

theorem rerun_ignored (hh : h < 2) (hstage : s.bu.stage ≠ 8) :
    exec (.rerun h) s = .next (s.emptyLatch (portReq h)) := by
  refine (exec_rerun hh).trans (congrArg _ ?_)
  have hbu : (s.emptyLatch (portReq h)).bu = s.bu := rfl
  unfold State.rerun
  dsimp only
  rw [hbu, if_pos (by simp [hstage])]

/-! ## The end of a fetch (R29) -/

theorem exec_bondFetchDone (hh : h < 2) (r : HostResult) : exec (.bondFetchDone h r) s = .next (s.bondFetched h r) :=
  guarded_ok (decide_eq_true hh) _

theorem bondFetched_unsent (hh : h < 2) (r : HostResult) (hsent : (s.bondPort h).sent = false) :
    exec (.bondFetchDone h r) s = .next s := by
  refine (exec_bondFetchDone hh r).trans (congrArg _ ?_)
  unfold State.bondFetched
  dsimp only
  rw [if_pos (by simp [hsent])]

section
variable (hh : h < 2) (hst : (s.bondPort h).st = .fetch) (hfrz : s.frz.frozen = false)
  (hsent : (s.bondPort h).sent = true)
include hh hst hfrz hsent

theorem bondFetched_go {r : HostResult} (hwaits : s.waits h r = false) :
    exec (.bondFetchDone h r) s = .next (match r with
      | .error => (s.refuseCode h bondFetch).logRead h .error
      | .timeout => (s.refuseCode h bondFetch).logRead h .timeout
      | .data img => if img.length ≠ (s.bondPort h).goLen then s else match s.acceptCheck h img with
        | some f => s.refuse h f
        | none => if fieldAt img 0x0E 1 = 0 then s.stageImage h img else s.startApply h img) := by
  refine (exec_bondFetchDone hh r).trans (congrArg _ ?_)
  unfold State.bondFetched
  dsimp only
  rw [if_neg (by simp [hst, hsent, hfrz, hwaits])]
  cases r with
  | error => rfl
  | timeout => rfl
  | data img => rfl

omit hst hfrz hsent in
theorem bondFetched_timeout (hct : (s.host h).ctDisable = true) : exec (.bondFetchDone h .timeout) s = .next s := by
  refine (exec_bondFetchDone hh _).trans (congrArg _ ?_)
  unfold State.bondFetched
  dsimp only
  rw [if_pos]
  have hwaits : s.waits h .timeout = true := by
    unfold State.waits
    rw [hct]
    rfl
  rw [hwaits, Bool.or_true]

omit hh hst hfrz hsent in
theorem State.refuseCode_logRead (c : Nat) (r : HostResult) :
    (((s.refuseCode h c).logRead h r).bondPort h).st = .refused ∧
    (((s.refuseCode h c).logRead h r).bondPort h).code = BitVec.ofNat 8 c := by
  have hport : ((s.refuseCode h c).logRead h r).bondPort h = (s.refuseCode h c).bondPort h := by
    rw [State.logRead_frame]
    rfl
  rw [hport]
  obtain ⟨h1, h2, -⟩ := State.refuse_port (s := s) (h := h) { code := c, sect := 0xFFFF, off := 0 }
  exact ⟨h1, h2⟩

theorem fetch_error : ∃ t, exec (.bondFetchDone h .error) s = .next t ∧
    t = { s with bond := t.bond, hosts := t.hosts, freeCtr := t.freeCtr } ∧ (t.bondPort h).st = .refused ∧
    (t.bondPort h).code = BitVec.ofNat 8 0x13 := by
  refine ⟨_, bondFetched_go hh hst hfrz hsent rfl, ?_, State.refuseCode_logRead _ _⟩
  dsimp only
  rw [State.logRead_frame]
  rfl

theorem fetch_timeout (hct : (s.host h).ctDisable = false) : ∃ t, exec (.bondFetchDone h .timeout) s = .next t ∧
    t = { s with bond := t.bond, hosts := t.hosts } ∧ ((t.bondPort h).st = .refused ∧
    (t.bondPort h).code = BitVec.ofNat 8 0x13) ∧
    (t.host h).space.aerStatus = (s.host h).space.aerStatus ||| 2 ^ 14 := by
  have hwaits : s.waits h .timeout = false := by
    unfold State.waits
    rw [hct]
    rfl
  refine ⟨_, bondFetched_go hh hst hfrz hsent hwaits, rfl, State.refuseCode_logRead _ _, ?_⟩
  dsimp only
  rw [State.logRead_timeout_host]
  unfold CfgSpace.logError
  dsimp only
  split
  · rfl
  · rfl

theorem fetch_refused {img : List Byte} (hlen : img.length = (s.bondPort h).goLen) {f : Fail}
    (hf : s.acceptCheck h img = some f) : ∃ t, exec (.bondFetchDone h (.data img)) s = .next t ∧
    t = { s with bond := t.bond } ∧ (t.bondPort h).st = .refused ∧ (t.bondPort h).code = BitVec.ofNat 8 f.code := by
  refine ⟨s.refuse h f, (bondFetched_go hh hst hfrz hsent rfl).trans (congrArg _ ?_), rfl, (State.refuse_port f).1,
    (State.refuse_port f).2.1⟩
  dsimp only
  rw [if_neg (by simp [hlen]), hf]

theorem fetch_accepted {img : List Byte} (hlen : img.length = (s.bondPort h).goLen) (hf : s.acceptCheck h img = none) :
    exec (.bondFetchDone h (.data img)) s =
      .next (if fieldAt img 0x0E 1 = 0 then s.stageImage h img else s.startApply h img) := by
  refine (bondFetched_go hh hst hfrz hsent rfl).trans (congrArg _ ?_)
  dsimp only
  rw [if_neg (by simp [hlen]), hf]

theorem fetch_staged {img : List Byte} (hlen : img.length = (s.bondPort h).goLen) (hf : s.acceptCheck h img = none)
    (hkind : fieldAt img 0x0E 1 = 0) (hnone : s.bond.staged = none) (hstage : s.bu.stage < 8) :
    ∃ t, exec (.bondFetchDone h (.data img)) s = .next t ∧
      t = { s with bond := t.bond, mem := t.mem, mcs := t.mcs, doms := t.doms, pwr := t.pwr } ∧
      ((t.bondPort h).st = .staged ∧ (t.bondPort h).code = BitVec.ofNat 8 0) ∧ t.bond.staged = some (h, img) ∧
      t.mem = (s.writePier stageBase img).mem := by
  refine ⟨_, fetch_accepted hh hst hfrz hsent hlen hf, ?_⟩
  rw [if_pos hkind]
  unfold State.stageImage
  rw [hnone]
  dsimp only
  generalize hu : ({ s with bond := { s.bond with staged := some (h, img) } } : State).bondState h .staged = u
  have hframe : u = { s with bond := u.bond } := by
    rw [← hu]
    rfl
  have hstaged : u.bond.staged = some (h, img) := by
    rw [← hu]
    rfl
  have hport : (u.bondPort h).st = .staged ∧ (u.bondPort h).code = 0 := by
    rw [← hu, State.bondState_port]
    exact ⟨rfl, rfl⟩
  have hstore := u.storePier_frame stageBase img
  have hmem : (u.writePier stageBase img).mem = (s.writePier stageBase img).mem :=
    (State.stores_split (SamePlaces.writeLoc (s := s) (t := u) ⟨by rw [hframe]; rfl, by rw [hframe], by rw [hframe]⟩
      (.pier stageBase) img).stores).2.2
  generalize u.storeLoc (.pier stageBase) img = t at hstore ⊢
  have hbond : t.bond = u.bond := by rw [hstore]
  have hbu : t.bu = s.bu := by rw [hstore, hframe]
  rw [if_neg (by rw [hbu]; omega)]
  have htp : t.bondPort h = u.bondPort h := by
    unfold State.bondPort
    rw [hbond]
  refine ⟨?_, ⟨by rw [htp]; exact hport.1, by rw [htp]; exact hport.2⟩, by rw [hbond, hstaged], ?_⟩
  · have hswap : ∀ m c d p, { u with mem := m, mcs := c, doms := d, pwr := p } =
      { s with bond := u.bond, mem := m, mcs := c, doms := d, pwr := p } := fun m c d p => by rw [hframe]
    have hm : t.mem = (u.writePier stageBase img).mem := by
      have hx := congrArg State.mem hstore
      exact hx
    rw [hbond, hm]
    exact hstore.trans (hswap _ _ _ _)
  · rw [hstore]
    exact hmem

theorem fetch_stale {img old : List Byte} {g : Nat} (hlen : img.length = (s.bondPort h).goLen)
    (hf : s.acceptCheck h img = none) (hkind : fieldAt img 0x0E 1 = 0) (hstaged : s.bond.staged = some (g, old))
    (hseq : fieldAt img 0x18 8 ≤ fieldAt old 0x18 8) :
    ∃ t, exec (.bondFetchDone h (.data img)) s = .next t ∧ t = { s with bond := t.bond } ∧
      ((t.bondPort h).st = .refused ∧ (t.bondPort h).code = BitVec.ofNat 8 0x06) ∧ t.bond.staged = s.bond.staged := by
  refine ⟨_, (fetch_accepted hh hst hfrz hsent hlen hf).trans (congrArg _ ((if_pos hkind).trans ?_)), rfl,
    ⟨(State.refuse_port { code := bondStale, sect := 0xFFFF, off := 0x18 }).1, (State.refuse_port _).2.1⟩, rfl⟩
  unfold State.stageImage
  rw [hstaged]
  exact if_pos hseq

end

/-! ## APPLY begins (R284) -/

theorem State.markLoading_frame (s : State) (l : List Sect) (was now : Half) : s.markLoading l was now =
    { s with rte := { s.rte with half0 := (s.markLoading l was now).rte.half0
                                 half1 := (s.markLoading l was now).rte.half1 } } := by
  unfold State.markLoading
  refine List.foldlRecOn (l.filter fun x => x.typ == secRoute) _ (motive := fun t : State => t =
    { s with rte := { s.rte with half0 := t.rte.half0, half1 := t.rte.half1 } }) (?_ : s = _) fun t ht x _ => ?_
  · rfl
  dsimp only
  split
  · have hswap : ∀ a b, { t with rte := { t.rte with half0 := a, half1 := b } } =
      { s with rte := { s.rte with half0 := a, half1 := b } } := fun a b => by rw [ht]
    unfold State.setHalf State.modRte
    split
    · exact hswap _ _
    · exact hswap _ _
  · exact ht

section
variable (hh : h < 2) (hst : (s.bondPort h).st = .fetch) (hfrz : s.frz.frozen = false)
  (hsent : (s.bondPort h).sent = true)
include hh hst hfrz hsent

theorem fetch_applies {img : List Byte} (hlen : img.length = (s.bondPort h).goLen) (hf : s.acceptCheck h img = none)
    (hkind : fieldAt img 0x0E 1 = 1) :
    ∃ t, exec (.bondFetchDone h (.data img)) s = .next t ∧
      t = { s with bond := t.bond, mem := t.mem, rte := t.rte, mcs := t.mcs, doms := t.doms, pwr := t.pwr } ∧
      ((t.bondPort h).st = .apply ∧ (t.bondPort h).code = BitVec.ofNat 8 0) ∧ t.bond.applying = some (h, img) ∧
      t.mem = (s.writePier stageBase img).mem ∧ t.rte = { s.rte with half0 := t.rte.half0, half1 := t.rte.half1 } := by
  refine ⟨_, fetch_accepted hh hst hfrz hsent hlen hf, ?_⟩
  rw [if_neg (by omega)]
  unfold State.startApply
  dsimp only
  generalize hu : ({ s with bond := { s.bond with applying := some (h, img) } } : State).bondState h .apply = u
  have hframe : u = { s with bond := u.bond } := by
    rw [← hu]
    rfl
  have happlying : u.bond.applying = some (h, img) := by
    rw [← hu]
    rfl
  have hport : (u.bondPort h).st = .apply ∧ (u.bondPort h).code = 0 := by
    rw [← hu, State.bondState_port]
    exact ⟨rfl, rfl⟩
  have hstore := u.storePier_frame stageBase img
  have hmem : (u.writePier stageBase img).mem = (s.writePier stageBase img).mem :=
    (State.stores_split (SamePlaces.writeLoc (s := s) (t := u) ⟨by rw [hframe]; rfl, by rw [hframe], by rw [hframe]⟩
      (.pier stageBase) img).stores).2.2
  generalize u.storeLoc (.pier stageBase) img = v at hstore ⊢
  have hmark := v.markLoading_frame (sections img) .free .loading
  generalize v.markLoading (sections img) .free .loading = t at hmark ⊢
  have hvbond : v.bond = u.bond := by rw [hstore]
  have hvrte : v.rte = s.rte := by rw [hstore, hframe]
  have hvmem : v.mem = (u.writePier stageBase img).mem := by
    have hx := congrArg State.mem hstore
    exact hx
  have hbond : t.bond = u.bond := by rw [hmark, ← hvbond]
  have hm : t.mem = v.mem := by rw [hmark]
  have htp : t.bondPort h = u.bondPort h := by
    unfold State.bondPort
    rw [hbond]
  refine ⟨?_, ⟨by rw [htp]; exact hport.1, by rw [htp]; exact hport.2⟩, by rw [hbond, happlying],
    hm.trans (hvmem.trans hmem), ?_⟩
  · have hswap1 : ∀ m c d p r, { u with mem := m, mcs := c, doms := d, pwr := p, rte := r } =
      { s with bond := u.bond, mem := m, mcs := c, doms := d, pwr := p, rte := r } := fun m c d p r => by rw [hframe]
    have hswap2 : ∀ r, { v with rte := r } =
      { u with mem := (u.writePier stageBase img).mem, mcs := v.mcs, doms := v.doms, pwr := v.pwr, rte := r } :=
      fun r => by rw [hstore]
    have h1 : t.mcs = v.mcs := by rw [hmark]
    have h2 : t.doms = v.doms := by rw [hmark]
    have h3 : t.pwr = v.pwr := by rw [hmark]
    have hr : { v.rte with half0 := t.rte.half0, half1 := t.rte.half1 } = t.rte := by
      have hx := congrArg State.rte hmark
      exact hx.symm
    rw [hbond, hm, hvmem, h1, h2, h3]
    rw [hr] at hmark
    exact hmark.trans ((hswap2 _).trans (hswap1 _ _ _ _ _))
  · have hx := congrArg State.rte hmark
    dsimp only at hx
    rw [hvrte] at hx
    exact hx

end

end Sys2Proof.Machine
end

section
/-!
SUPPORT. The application of a partial image (R59, R62, R66), and the submission of images.
-/
namespace Sys2Proof.Machine

variable {s : State} {h : Nat}

/-! ## The sections of a partial image (R59) -/

theorem State.loadHalf_routes (s : State) (i : Nat) (t : Tab W32) (j : Nat) :
    Tab.get [] (s.loadHalf i t).rte.routes j = if j = i then t else Tab.get [] s.rte.routes j := Tab.get_put ..

/-- What loading the halves that some ROUTE sections name leaves. -/
theorem routes_foldl (l : List Sect) (s : State) :
    let t := l.foldl (fun s x => s.loadHalf x.inst (routeHalf x.body)) s
    t = { s with rte := { s.rte with routes := t.rte.routes } } ∧
      (∀ y, (∀ z ∈ l, z.inst = y.inst → z = y) → y ∈ l ∨ Tab.get [] s.rte.routes y.inst = routeHalf y.body →
        Tab.get [] t.rte.routes y.inst = routeHalf y.body) ∧
      ∀ i, (∀ y ∈ l, y.inst ≠ i) → Tab.get [] t.rte.routes i = Tab.get [] s.rte.routes i := by
  induction l generalizing s with
  | nil => exact ⟨rfl, fun y _ h => h.resolve_left List.not_mem_nil, fun _ _ => rfl⟩
  | cons x l ih =>
    obtain ⟨hframe, hloaded, hkept⟩ := ih (s.loadHalf x.inst (routeHalf x.body))
    refine ⟨hframe, fun y huniq hor => hloaded y (fun z hz => huniq z (List.mem_cons_of_mem _ hz)) ?_, fun i hi => ?_⟩
    · rw [State.loadHalf_routes]
      split
      · next heq =>
        have hxy := huniq x List.mem_cons_self heq.symm
        exact .inr (by rw [hxy])
      · next hne =>
        rcases hor with hmem | hold
        · rcases List.mem_cons.mp hmem with hy | hy
          · exact absurd (congrArg Sect.inst hy) hne
          · exact .inl hy
        · exact .inr hold
    · refine (hkept i fun y hy => hi y (List.mem_cons_of_mem _ hy)).trans ?_
      rw [State.loadHalf_routes, if_neg (Ne.symm (hi x List.mem_cons_self))]

theorem plans_foldl (g : Sect → Part → Part) (l : List Sect) (s : State) :
    l.foldl (fun s x => s.modPart x.inst (g x)) s = { s with
      parts := (l.foldl (fun s x => s.modPart x.inst (g x)) s).parts } := by
  induction l generalizing s with
  | nil => rfl
  | cons x l ih => exact (ih (s.modPart x.inst (g x))).trans rfl

/-- What the sections of a partial image leave. -/
structure Loaded (s t : State) (l : List Sect) : Prop where
  frame : t = { s with cfg := t.cfg, rte := { s.rte with routes := t.rte.routes }, parts := t.parts }
  loaded : ∀ y ∈ l, y.typ = secRoute → (∀ z ∈ l, z.typ = secRoute → z.inst = y.inst → z = y) →
    Tab.get [] t.rte.routes y.inst = routeHalf y.body
  kept : ∀ i, (∀ y ∈ l, y.typ = secRoute → y.inst ≠ i) → Tab.get [] t.rte.routes i = Tab.get [] s.rte.routes i

theorem loaded_of {u v w t : State} {l : List Sect} (hu : u = { s with cfg := u.cfg })
    (hv : v = { u with rte := { u.rte with routes := v.rte.routes } })
    (hloaded : ∀ y, (∀ z ∈ l.filter fun x => x.typ == secRoute, z.inst = y.inst → z = y) →
      y ∈ (l.filter fun x => x.typ == secRoute) ∨ Tab.get [] u.rte.routes y.inst = routeHalf y.body →
      Tab.get [] v.rte.routes y.inst = routeHalf y.body)
    (hkept : ∀ i, (∀ y ∈ l.filter fun x => x.typ == secRoute, y.inst ≠ i) →
      Tab.get [] v.rte.routes i = Tab.get [] u.rte.routes i)
    (hw : w = { v with cfg := w.cfg }) (ht : t = { w with parts := t.parts }) : Loaded s t l := by
  have hmem : ∀ y, y ∈ (l.filter fun x => x.typ == secRoute) ↔ y ∈ l ∧ y.typ = secRoute := fun y => by
    rw [List.mem_filter, beq_iff_eq]
  have hroutes : t.rte.routes = v.rte.routes := by rw [ht, hw]
  have huroutes : u.rte.routes = s.rte.routes := by rw [hu]
  refine ⟨?_, fun y hy htyp huniq => ?_, fun i hi => ?_⟩
  · have hparts : ∀ p, { w with parts := p } = { v with cfg := w.cfg, parts := p } := fun p => by rw [hw]
    have hcfgs : ∀ c p, { v with cfg := c, parts := p } =
      { s with cfg := c, rte := { s.rte with routes := v.rte.routes }, parts := p } := fun c p => by
      generalize v.rte.routes = r at hv ⊢
      rw [hv, hu]
    have hcfg : t.cfg = w.cfg := by rw [ht]
    rw [hroutes, hcfg]
    exact ht.trans ((hparts _).trans (hcfgs _ _))
  · rw [hroutes]
    exact hloaded y (fun z hz => huniq z ((hmem z).mp hz).1 ((hmem z).mp hz).2) (.inl ((hmem y).mpr ⟨hy, htyp⟩))
  · rw [hroutes, hkept i (fun y hy => hi y ((hmem y).mp hy).1 ((hmem y).mp hy).2), huroutes]

theorem State.applySections_loaded (s : State) (l : List Sect) : Loaded s (s.applySections l) l := by
  unfold State.applySections
  dsimp only
  cases sectOf l secSlice with
  | none =>
    exact loaded_of (u := s) rfl (routes_foldl _ _).1 (routes_foldl _ _).2.1 (routes_foldl _ _).2.2 rfl (plans_foldl _ _ _)
  | some x =>
    exact loaded_of (u := { s with cfg := _ }) rfl (routes_foldl _ _).1 (routes_foldl _ _).2.1 (routes_foldl _ _).2.2 rfl
      (plans_foldl _ _ _)

/-! ## The end of APPLY (R62) -/

theorem exec_partialImageApply {img : List Byte} (hh : h < 2) (hlive : s.live = true)
    (happ : s.bond.applying = some (h, img)) :
    exec (.partialImageApply h) s = .next (match s.partialCheck (sections img) with
      | some f => (({ s with bond := { s.bond with applying := none } } : State).markLoading (sections img) .loading
          .free).refuse h f
      | none => (((({ s with bond := { s.bond with applying := none } } : State).applySections
          (sections img)).markLoading (sections img) .loading .free).bondApplied img
          (shake256 (s.bond.meas ++ shake256 img 32) 32)).bondState h .done) := by
  refine (guarded_ok (decide_eq_true hh) _).trans (congrArg _ ?_)
  unfold State.applyPartial
  rw [happ]
  dsimp only
  rw [if_neg (by simp [hlive])]
  cases hf : s.partialCheck (sections img) with
  | some f => rfl
  | none =>
    dsimp only
    have hmeas : (((({ s with bond := { s.bond with applying := none } } : State).applySections
        (sections img)).markLoading (sections img) .loading .free).bond).meas = s.bond.meas := by
      rw [State.markLoading_frame, (State.applySections_loaded _ (sections img)).frame]
    rw [hmeas]

theorem partial_applied {img : List Byte} (hh : h < 2) (hlive : s.live = true)
    (happ : s.bond.applying = some (h, img)) (hf : s.partialCheck (sections img) = none) :
    ∃ t, exec (.partialImageApply h) s = .next t ∧
      t = { s with bond := t.bond, cfg := t.cfg, rte := t.rte, parts := t.parts } ∧
      ((t.bondPort h).st = .done ∧ (t.bondPort h).code = BitVec.ofNat 8 0) ∧
      t.bond.applying = none ∧ t.bond.activeSeq = BitVec.ofNat 64 (fieldAt img 0x18 8) ∧
      t.bond.highWater = t.bond.activeSeq ∧ t.bond.meas = shake256 (s.bond.meas ++ shake256 img 32) 32 ∧
      t.rte.inj = s.rte.inj ∧ t.rte.send = s.rte.send ∧ t.rte.recv = s.rte.recv ∧
      (∀ y ∈ sections img, y.typ = 0x20 → (∀ z ∈ sections img, z.typ = 0x20 → z.inst = y.inst → z = y) →
        Tab.get [] t.rte.routes y.inst = routeHalf y.body) ∧
      (∀ i, (∀ y ∈ sections img, y.typ = 0x20 → y.inst ≠ i) →
        Tab.get [] t.rte.routes i = Tab.get [] s.rte.routes i) := by
  have hexec := exec_partialImageApply hh hlive happ
  rw [hf] at hexec
  have hsect := State.applySections_loaded { s with bond := { s.bond with applying := none } } (sections img)
  dsimp only at hexec
  generalize shake256 (s.bond.meas ++ shake256 img 32) 32 = m at hexec ⊢
  generalize ({ s with bond := { s.bond with applying := none } } : State).applySections (sections img) = u at hexec hsect
  have hmark := u.markLoading_frame (sections img) .loading .free
  generalize u.markLoading (sections img) .loading .free = v at hexec hmark
  obtain ⟨hframe, hloaded, hkept⟩ := hsect
  have hbond : v.bond.applying = none := by rw [hmark, hframe]
  have hroutes : v.rte.routes = u.rte.routes := by rw [hmark]
  have hrte : v.rte.inj = s.rte.inj ∧ v.rte.send = s.rte.send ∧ v.rte.recv = s.rte.recv := by
    rw [hmark, hframe]
    exact ⟨rfl, rfl, rfl⟩
  have hv : v = { s with bond := v.bond, cfg := v.cfg, rte := v.rte, parts := v.parts } := by
    have hswap1 : ∀ r, { u with rte := r } = { s with
        bond := { s.bond with applying := none }, cfg := u.cfg, rte := r, parts := u.parts } := fun r => by rw [hframe]
    have h1 : v = { u with rte := v.rte } := by rw [hmark]
    have h2 : v.cfg = u.cfg := by rw [hmark]
    have h3 : v.parts = u.parts := by rw [hmark]
    have h4 : v.bond = { s.bond with applying := none } := by rw [hmark, hframe]
    rw [h2, h3, h4]
    exact h1.trans (hswap1 _)
  refine ⟨_, hexec, ?_, ?_, hbond, rfl, rfl, rfl, hrte.1, hrte.2.1, hrte.2.2, fun y hy htyp huniq => ?_,
    fun i hi => ?_⟩
  · have hswap : ∀ b, { v with bond := b } = { s with bond := b, cfg := v.cfg, rte := v.rte, parts := v.parts } :=
      fun b => by rw [hv]
    exact hswap _
  · rw [State.bondState_port]
    exact ⟨rfl, rfl⟩
  · exact (congrArg (fun r => Tab.get [] r y.inst) hroutes).trans (hloaded y hy htyp huniq)
  · exact (congrArg (fun r => Tab.get [] r i) hroutes).trans (hkept i hi)

theorem partial_refused {img : List Byte} {f : Fail} (hh : h < 2) (hlive : s.live = true)
    (happ : s.bond.applying = some (h, img)) (hf : s.partialCheck (sections img) = some f) :
    ∃ t, exec (.partialImageApply h) s = .next t ∧ t = { s with bond := t.bond, rte := t.rte } ∧
      ((t.bondPort h).st = .refused ∧ (t.bondPort h).code = BitVec.ofNat 8 f.code) ∧
      ((t.bondPort h).section_ = BitVec.ofNat 16 f.sect ∧ (t.bondPort h).errOff = BitVec.ofNat 32 f.off) ∧
      t.bond.applying = none ∧ t.bond.activeSeq = s.bond.activeSeq ∧ t.bond.meas = s.bond.meas ∧
      t.rte.routes = s.rte.routes := by
  have hexec := exec_partialImageApply hh hlive happ
  rw [hf] at hexec
  have hmark := State.markLoading_frame { s with bond := { s.bond with applying := none } } (sections img) .loading .free
  dsimp only at hexec
  generalize State.markLoading { s with bond := { s.bond with applying := none } } (sections img) .loading .free = v
    at hexec hmark
  obtain ⟨h1, h2, h3, h4⟩ := State.refuse_port (s := v) (h := h) f
  have hb : v.bond = { s.bond with applying := none } := by rw [hmark]
  have hr : v.rte.routes = s.rte.routes := by rw [hmark]
  have hv : v = { s with bond := v.bond, rte := v.rte } := by
    rw [hmark]
  refine ⟨_, hexec, ?_, ⟨h1, h2⟩, ⟨h3, h4⟩, ?_, ?_, ?_, hr⟩
  · have hswap : ∀ b, { v with bond := b } = { s with bond := b, rte := v.rte } := fun b => by rw [hv]
    exact hswap _
  · show v.bond.applying = none
    rw [hb]
  · show v.bond.activeSeq = _
    rw [hb]
  · show v.bond.meas = _
    rw [hb]

/-! ## The order of an adoption's tests (R66) -/

theorem partialCheck_slice {l : List Sect} {y : Sect} {f : Fail} (hy : sectOf l secSlice = some y)
    (hf : sliceAdopts s.cfg.slice y = some f) : s.partialCheck l = some f := by
  have hfirst : eachOf l secSlice (s.adoptionOk l) = some f := by
    unfold sectOf at hy
    unfold eachOf
    obtain ⟨hp, as, bs, rfl, hnot⟩ := List.find?_eq_some_iff_append.mp hy
    have hdrop : as.filter (fun x => x.typ == secSlice) = [] := List.filter_eq_nil_iff.mpr fun x hx => by simpa using hnot x hx
    have hadopt : s.adoptionOk (as ++ y :: bs) y = some f := by
      unfold State.adoptionOk
      rw [hf]
      rfl
    rw [List.filter_append, hdrop, List.nil_append, List.filter_cons_of_pos (p := fun x : Sect => x.typ == secSlice) hp, List.findSome?_cons,
      hadopt]
  unfold State.partialCheck
  dsimp only
  rw [hfirst]
  rfl

theorem sliceAdopts_id {old : Slice} {y : Sect} (hid : fieldAt y.body 0 2 ≠ old.sliceId.toNat) :
    sliceAdopts old y = some { code := bondRange, sect := y.idx, off := y.off + 0 } := by
  have hneed : y.need (y.f 0 2 == old.sliceId.toNat) bondRange 0 =
      some { code := bondRange, sect := y.idx, off := y.off + 0 } := if_neg (by simpa [Sect.f] using hid)
  unfold sliceAdopts
  dsimp only
  rw [hneed]
  rfl

theorem sliceAdopts_role {old : Slice} {y : Sect} (hid : fieldAt y.body 0 2 = old.sliceId.toNat)
    (hrole : ¬ (old.role = 1 ∧ fieldAt y.body 2 1 = 0)) :
    sliceAdopts old y = some { code := bondRange, sect := y.idx, off := y.off + 2 } := by
  have hneed : y.need (y.f 0 2 == old.sliceId.toNat) bondRange 0 = none := if_pos (by simpa [Sect.f] using hid)
  have hneed2 : y.need (old.role == 1 && (sliceOf y.body).role == 0) bondRange 2 =
      some { code := bondRange, sect := y.idx, off := y.off + 2 } := if_neg (by simpa [sliceOf] using hrole)
  unfold sliceAdopts
  dsimp only
  rw [hneed, hneed2]
  rfl

theorem sliceAdopts_physW {old : Slice} {y : Sect} (hid : fieldAt y.body 0 2 = old.sliceId.toNat) (hrole : old.role = 1)
    (hturn : fieldAt y.body 2 1 = 0) (hphys : fieldAt y.body 3 1 ≠ old.physW) :
    sliceAdopts old y = some { code := bondRange, sect := y.idx, off := y.off + 3 } := by
  have hneed : y.need (y.f 0 2 == old.sliceId.toNat) bondRange 0 = none := if_pos (by simpa [Sect.f] using hid)
  have hneed2 : y.need (old.role == 1 && (sliceOf y.body).role == 0) bondRange 2 = none :=
    if_pos (by simp [sliceOf, hrole, hturn])
  have hneed3 : y.need ((sliceOf y.body).physW == old.physW) bondRange 3 =
      some { code := bondRange, sect := y.idx, off := y.off + 3 } := if_neg (by simpa [sliceOf] using hphys)
  unfold sliceAdopts
  dsimp only
  rw [hneed, hneed2, hneed3]
  rfl

/-! ## The obligation -/

/-- Settles O43: GO, the end of its fetch, APPLY and RERUN, a lemma for each outcome. -/
theorem submission : Obligations.Submission := by
  unfold Obligations.Submission
  intro s h hh
  refine ⟨fun hw hruns hother hlen hmax hallowed => go_fetches hh hw hruns hother hlen hmax hallowed,
    fun _ hruns => ⟨_, (exec_go hh s).trans (congrArg _ (State.bondGo_of_runs hruns)), rfl⟩,
    fun hw hruns hother => ?_, fun hw hruns hother hlen => ?_, fun res hsent => bondFetched_unsent hh res hsent,
    fun hst hfrz hsent => ⟨fetch_error hh hst hfrz hsent, fun hct => bondFetched_timeout hh hct,
      fun hct => fetch_timeout hh hst hfrz hsent hct, fun img hlen => ⟨fun f hf => fetch_refused hh hst hfrz hsent hlen hf,
        fun hf hkind hnone hstage => fetch_staged hh hst hfrz hsent hlen hf hkind hnone hstage,
        fun g old hf hkind hstaged hseq => fetch_stale hh hst hfrz hsent hlen hf hkind hstaged hseq,
        fun hf hkind => fetch_applies hh hst hfrz hsent hlen hf hkind⟩⟩,
    fun img hlive happ => ⟨fun hf => partial_applied hh hlive happ hf, fun f hf => ?_, fun y hy => ?_⟩,
    fun hw hstage hst hstaged => rerun_starts hh hw hstage hst hstaged,
    fun _ hstage => ⟨_, rerun_ignored hh hstage, rfl⟩⟩
  · obtain ⟨hst, hcode, -⟩ := State.refuse_port (s := s.emptyLatch (portReq h)) (h := h)
      { code := bondBusy, sect := 0xFFFF, off := 0 }
    exact ⟨_, (exec_go hh s).trans (congrArg _ (State.bondGo_of_other_runs hw hruns hother)), rfl, ⟨hst, hcode⟩,
      State.bondPort_ne hh _⟩
  · have hport := State.bondState_port (s := s.emptyLatch (portReq h)) (h := h) .done
    refine ⟨_, (exec_go hh s).trans (congrArg _ (State.bondGo_of_len_zero hw hruns hother hlen)), rfl,
      ⟨congrArg BondPort.st hport, congrArg BondPort.code hport⟩, rfl, State.bondPort_ne hh _⟩
  · obtain ⟨t, hexec, hframe, hport, -, happ', hseq, hmeas, hroutes⟩ := partial_refused hh hlive happ hf
    exact ⟨t, hexec, hframe, hport, happ', hseq, hmeas, hroutes⟩
  · have turned : ∀ off, sliceAdopts s.cfg.slice y = some { code := bondRange, sect := y.idx, off := y.off + off } →
        ∃ t, exec (.partialImageApply h) s = .next t ∧ ((t.bondPort h).st = .refused ∧
          (t.bondPort h).code = BitVec.ofNat 8 0x0B) ∧ (t.bondPort h).section_ = BitVec.ofNat 16 y.idx ∧
          (t.bondPort h).errOff = BitVec.ofNat 32 (y.off + off) := fun off hf => by
      obtain ⟨t, hexec, -, hport, hplace, -⟩ := partial_refused hh hlive happ (partialCheck_slice hy hf)
      exact ⟨t, hexec, hport, hplace⟩
    exact ⟨fun hid => turned 0 (sliceAdopts_id hid), fun hid => ⟨fun hrole => turned 2 (sliceAdopts_role hid hrole),
      fun hrole hturn hphys => turned 3 (sliceAdopts_physW hid hrole hturn hphys)⟩⟩

end Sys2Proof.Machine
end

section
/-!
SUPPORT. Ports that go down, train and wake (R252, R290).
-/
namespace Sys2Proof.Machine

variable {s t : State} {p : Nat}

/-! ## Ports that go down, train and wake (R252, R290) -/

/-- A port that receives nothing, its queue discarded and its link layer afresh. -/
def Port.dropped (x : Port) : Port := { x with
  downDrop := satAdd 64 x.downDrop x.queue.length, queue := [], cut := [], dropBody := false, rxExpect := 0,
  rxDiscard := false, txSeq := 0, txFill := 0, txHeld := [], nakSeq := 0, nakCount := 0, txSent := [], txFreed := [],
  rxCount := [], rxTold := [], recent := [] }

/-- A port that receives nothing, as it goes DOWN. -/
def Port.downed (x : Port) : Port :=
  if x.st = .down then x.dropped else { x.dropped with st := .down, downEvents := satAdd 64 x.downEvents 1 }

theorem State.portDrop_quiet (hin : (s.port p).incoming = none) : s.portDrop p = s.modPort p Port.dropped := by
  unfold State.portDrop State.dropIncoming
  rw [hin]
  rfl

theorem State.modPort_modPort (s : State) (p : Nat) (f g : Port → Port) :
    (s.modPort p f).modPort p g = (s.modPort p f).setPort p (g (f (s.port p))) := by
  show (s.modPort p f).setPort p (g ((s.modPort p f).port p)) = _
  rw [State.port_modPort_self]

theorem State.portDown_quiet (hin : (s.port p).incoming = none) :
    s.portDown p = { s with ports := (s.portDown p).ports } ∧ (∀ j, j ≠ p → (s.portDown p).port j = s.port j) ∧
      (s.portDown p).port p = (s.port p).downed := by
  unfold State.portDown
  rw [State.portDrop_quiet hin]
  refine ⟨rfl, fun j hj => ?_, ?_⟩
  · rw [State.port_modPort_ne _ _ hj, State.port_modPort_ne _ _ hj]
  · rw [State.port_modPort_self, State.port_modPort_self]
    rfl

/-- What concerns port `p` and its clock domain. -/
structure PortWake (s t : State) (p : Nat) : Prop where
  frame : t = { s with ports := t.ports, doms := t.doms, pwr := t.pwr }
  others : ∀ j, j ≠ p → t.port j = s.port j

theorem PortWake.trans {u : State} (a : PortWake s t p) (b : PortWake t u p) : PortWake s u p := by
  refine ⟨?_, fun j hj => (b.others j hj).trans (a.others j hj)⟩
  have hswap : ∀ x y z, { t with ports := x, doms := y, pwr := z } = { s with ports := x, doms := y, pwr := z } :=
    fun x y z => by rw [a.frame]
  exact b.frame.trans (hswap _ _ _)

theorem State.modPort_portWake (s : State) (p : Nat) (f : Port → Port) : PortWake s (s.modPort p f) p :=
  ⟨rfl, fun _ hj => State.port_modPort_ne _ _ hj⟩

theorem State.requestWake_ports (s : State) (d : Nat) : (s.requestWake d).ports = s.ports := by
  rw [(s.requestWake_wakesOnly d).frame]

theorem State.requestWake_port (s : State) (d k : Nat) : (s.requestWake d).port k = s.port k := by
  unfold State.port
  rw [State.requestWake_ports]

theorem State.requestWake_portWake (s : State) (d p : Nat) : PortWake s (s.requestWake d) p := by
  refine ⟨?_, fun j _ => s.requestWake_port d j⟩
  have hframe := (s.requestWake_wakesOnly d).frame
  rw [State.requestWake_ports]
  exact hframe

theorem State.requestWake_woken (s : State) (d : Nat) : Woken s (s.requestWake d) d := State.requestWake_wakeReq

/-- A wake asked for again, or a port changed, keeps it asked for. -/
theorem Woken.of_wakeReq {u : State} {d : Nat} (h : Woken s t d) (hreq : (t.dom d).wakeReq = true → (u.dom d).wakeReq = true) :
    Woken s u d := fun hheld hasleep => hreq (h hheld hasleep)

theorem PortWake.down (hin : (s.port p).incoming = none) : PortWake s (s.portDown p) p := by
  obtain ⟨hframe, hothers, -⟩ := State.portDown_quiet hin
  refine ⟨?_, hothers⟩
  rw [hframe]

/-- A port may train after the change `f` as before. -/
theorem mayTrain_fields {x y : Port} (h1 : y.fitted = x.fitted) (h2 : y.disableBit = x.disableBit)
    (h3 : y.testBit = x.testBit) (h4 : y.light = x.light) (hs : s.port p = x) (ht : t.port p = y) :
    t.mayTrain p = s.mayTrain p := by
  unfold State.mayTrain
  dsimp only
  rw [hs, ht, h1, h2, h3, h4]

theorem Port.downed_fields (x : Port) : x.downed.fitted = x.fitted ∧ x.downed.disableBit = x.disableBit ∧
    x.downed.testBit = x.testBit ∧ x.downed.light = x.light := by
  unfold Port.downed
  split
  · exact ⟨rfl, rfl, rfl, rfl⟩
  · exact ⟨rfl, rfl, rfl, rfl⟩

theorem State.startTraining_spec (s : State) (p : Nat) : PortWake s (s.startTraining p) p ∧
    (s.startTraining p).port p = (if s.mayTrain p then { s.port p with st := .training } else s.port p) ∧
    (s.mayTrain p = true → Woken s (s.startTraining p) (80 + p)) := by
  unfold State.startTraining
  cases hmay : s.mayTrain p with
  | false => exact ⟨⟨rfl, fun _ _ => rfl⟩, rfl, fun h => absurd h Bool.false_ne_true⟩
  | true =>
    refine ⟨(s.modPort_portWake p _).trans (State.requestWake_portWake _ _ _), ?_,
      fun _ => State.requestWake_woken (s.modPort p _) (80 + p)⟩
    refine (State.requestWake_port _ _ _).trans ?_
    rw [State.port_modPort_self]
    rfl

/-- A port as it goes DOWN and retrains, when it may. -/
theorem State.portRetrain_quiet (hin : (s.port p).incoming = none) : PortWake s (s.portRetrain p) p ∧
    (s.portRetrain p).port p =
      if s.mayTrain p then { (s.port p).downed with st := .training } else (s.port p).downed := by
  obtain ⟨-, -, hself⟩ := State.portDown_quiet hin
  obtain ⟨hwake, hport, -⟩ := (s.portDown p).startTraining_spec p
  obtain ⟨h1, h2, h3, h4⟩ := (s.port p).downed_fields
  rw [hself, mayTrain_fields h1 h2 h3 h4 rfl hself] at hport
  exact ⟨(PortWake.down hin).trans hwake, hport⟩

/-! ## What a port's state says -/

theorem portsOn_of_linkOn (h : s.linkOn p = true) : s.portsOn = true := by
  unfold State.linkOn at h
  exact (Bool.and_eq_true _ _ |>.mp h).1

theorem linkOn_of_up (hon : s.portsOn = true) (hst : (s.port p).st = .up) : s.linkOn p = true := by
  unfold State.linkOn
  rw [hon, hst]
  rfl

/-- What a port that went DOWN from UP leaves of its queue and counts. -/
theorem Port.downed_up {x : Port} (hst : x.st ≠ .down) : x.downed = { x.dropped with
    st := .down, downEvents := satAdd 64 x.downEvents 1 } := if_neg hst

end Sys2Proof.Machine
end

section
/-!
SUPPORT. Codewords, NAKs and credits (R251, R255, R257, R258).
-/
namespace Sys2Proof.Machine

variable {s : State} {p : Nat}

/-! ## Codewords (R251, R255, R257) -/

/-- Only port `p` and what has been sent differ. -/
def PortSends (s t : State) (p : Nat) : Prop :=
  t = { s with ports := t.ports, out := t.out } ∧ ∀ j, j ≠ p → t.port j = s.port j

theorem setPort_portSends (s : State) (p : Nat) (x : Port) : PortSends s (s.setPort p x) p :=
  ⟨rfl, fun _ hj => State.port_setPort_ne _ _ hj⟩

theorem modPort_portSends (s : State) (p : Nat) (f : Port → Port) : PortSends s (s.modPort p f) p :=
  ⟨rfl, fun _ hj => State.port_modPort_ne _ _ hj⟩

theorem emit_portSends (s : State) (o : Out) (p : Nat) : PortSends s (s.emit o) p := ⟨rfl, fun _ _ => rfl⟩

theorem PortSends.trans {s t u : State} {p : Nat} (a : PortSends s t p) (b : PortSends t u p) : PortSends s u p := by
  refine ⟨?_, fun j hj => (b.2 j hj).trans (a.2 j hj)⟩
  have hswap : ∀ x y, { t with ports := x, out := y } = { s with ports := x, out := y } := fun x y => by rw [a.1]
  exact b.1.trans (hswap _ _)

/-- A control flit on a port, when it finds room. -/
theorem State.sendCtrl_spec (s : State) (p : Nat) (o : Out) : PortSends s (s.sendCtrl p o) p ∧
    (Fits (s.port p) 1 → FlitSent (s.port p) ((s.sendCtrl p o).port p) ∧ (s.sendCtrl p o).out = s.out ++ [o]) ∧
    (¬ Fits (s.port p) 1 → (s.sendCtrl p o).port p = s.port p ∧ (s.sendCtrl p o).out = s.out) := by
  by_cases hfits : Fits (s.port p) 1
  · obtain ⟨hframe, hothers, hsent⟩ := State.sendCtrl_fits (s := s) o hfits
    have hout : (s.sendCtrl p o).out = s.out ++ [o] := by rw [hframe]
    refine ⟨⟨?_, hothers⟩, fun _ => ⟨hsent, hout⟩, fun h => absurd hfits h⟩
    rw [hout]
    exact hframe
  · rw [State.sendCtrl_full o hfits]
    exact ⟨⟨rfl, fun _ _ => rfl⟩, fun h => absurd h hfits, fun _ => ⟨rfl, rfl⟩⟩

theorem exec_codeword (hp : p < 10) (cw : Codeword) : exec (.codewordReceive p cw) s = .next (s.codeword p cw) :=
  guarded_ok (decide_eq_true hp) _

/-- A port after a codeword that cannot be corrected. -/
def Port.spoiled (x : Port) : Port := { x with fecUncorr := satAdd 64 x.fecUncorr 1, rxDiscard := true }

/-- A port after a codeword out of its order. -/
def Port.corrected (x : Port) (cw : Codeword) : Port := { x with fecCorr := satAdd 64 x.fecCorr cw.symbols }

/-- A port after a codeword in order. -/
def Port.received (x : Port) (cw : Codeword) : Port := { x.corrected cw with
  rxExpect := x.rxExpect + 1, rxDiscard := false,
  rxFlits := satAdd 64 x.rxFlits ((cw.flits.take 5).countP fun f => f.1 = 0 || f.1 = 1) }

section
variable {cw : Codeword} (hp : p < 10) (hlink : s.linkOn p = true)
include hp hlink

theorem codeword_spoiled (hbad : cw.correctable = false ∨ 15 < cw.symbols) :
    exec (.codewordReceive p cw) s = .next ((s.setPort p (s.port p).spoiled).sendNak p) := by
  refine (exec_codeword hp cw).trans (congrArg _ ?_)
  unfold State.codeword
  dsimp only
  rw [hlink, if_neg (by simp), if_pos]
  · rfl
  · rcases hbad with h | h
    · rw [h]
      rfl
    · rw [decide_eq_true h, Bool.or_true]

theorem codeword_taken (hgood : cw.correctable = true) (hsym : cw.symbols ≤ 15) :
    exec (.codewordReceive p cw) s = .next (if cw.seq ≠ (s.port p).rxExpect then s.setPort p ((s.port p).corrected cw)
      else (cw.flits.take 5).foldl (fun s f => s.flitIn p f) (s.setPort p ((s.port p).received cw))) := by
  refine (exec_codeword hp cw).trans (congrArg _ ?_)
  unfold State.codeword
  dsimp only
  rw [hlink, if_neg (by simp), if_neg (by simp [hgood]; omega)]
  rfl

theorem codeword_nak (hbad : cw.correctable = false ∨ 15 < cw.symbols) :
    ∃ t, exec (.codewordReceive p cw) s = .next t ∧ PortSends s t p ∧
      (Fits (s.port p) 1 → FlitSent (s.port p).spoiled (t.port p) ∧ t.out = s.out ++ [.nak p (s.port p).rxExpect]) ∧
      (¬ Fits (s.port p) 1 → t.port p = (s.port p).spoiled ∧ t.out = s.out) := by
  refine ⟨_, codeword_spoiled hp hlink hbad, ?_⟩
  unfold State.sendNak
  have hport := s.port_setPort_self p (s.port p).spoiled
  obtain ⟨hsends, hfits, hfull⟩ := (s.setPort p (s.port p).spoiled).sendCtrl_spec p
    (.nak p ((s.setPort p (s.port p).spoiled).port p).rxExpect)
  rw [hport] at hsends hfits hfull ⊢
  exact ⟨(setPort_portSends _ _ _).trans hsends, hfits, hfull⟩
end

theorem exec_hello_any (hp : p < 10) (x : Hello) : exec (.hello p x) s = .next (s.hello p x) := guarded_ok (decide_eq_true hp) _
theorem exec_idle (hp : p < 10) (hb : W32) (a b : Bool) : exec (.idle p hb a b) s = .next (s.idleFlit p hb a b) :=
  guarded_ok (decide_eq_true hp) _
theorem exec_credit (hp : p < 10) (l : List (BitVec 16)) (a : BitVec 10) :
    exec (.credit p l a) s = .next (s.credit p l a) := guarded_ok (decide_eq_true hp) _
theorem exec_nak (hp : p < 10) (q : BitVec 10) : exec (.nak p q) s = .next (s.nak p q) := guarded_ok (decide_eq_true hp) _

/-- A flit of a codeword does what the command of its kind does. -/
theorem flitIn_does (hp : p < 10) (s : State) (f : BitVec 2 × List Byte) : FlitDoes p f s (s.flitIn p f) := by
  unfold FlitDoes State.flitIn
  dsimp only
  split
  · exact exec_idle hp _ _ _
  · next h3 =>
    by_cases h2 : f.1 = 2
    · rw [if_neg (not_not_intro h2)]
      by_cases h1 : flitAt f.2 0 1 = 1
      · rw [if_pos ⟨h2, h1⟩, h1]
        exact exec_credit hp _ _
      · rw [if_neg (fun h => h1 h.2)]
        by_cases hn : flitAt f.2 0 1 = 2
        · rw [if_pos ⟨h2, hn⟩, hn]
          exact exec_nak hp _
        · rw [if_neg (fun h => hn h.2)]
          by_cases hh : flitAt f.2 0 1 = 3
          · rw [if_pos ⟨h2, hh⟩, hh]
            exact exec_hello_any hp _
          · rw [if_neg (fun h => hh h.2)]
            generalize flitAt f.2 0 1 = k at h1 hn hh
            split
            · exact absurd rfl h1
            · exact absurd rfl hn
            · exact absurd rfl hh
            · rfl
    · rw [if_pos h2, if_neg (fun h => h2 h.1), if_neg (fun h => h2 h.1), if_neg (fun h => h2 h.1)]

theorem flitsIn_do (hp : p < 10) : ∀ (fs : List (BitVec 2 × List Byte)) (s : State),
    FlitsDo p fs s (fs.foldl (fun s f => s.flitIn p f) s)
  | [], _ => rfl
  | f :: fs, s => ⟨s.flitIn p f, flitIn_does hp s f, flitsIn_do hp fs (s.flitIn p f)⟩

theorem flitIn_packet {f : BitVec 2 × List Byte} (h : f.1 = 0 ∨ f.1 = 1) : s.flitIn p f = s := by
  unfold State.flitIn
  rcases h with h | h
  · rw [h]
    rfl
  · rw [h]
    rfl

theorem flitsIn_packets : ∀ (fs : List (BitVec 2 × List Byte)) (s : State), (∀ f ∈ fs, f.1 = 0 ∨ f.1 = 1) →
    fs.foldl (fun s f => s.flitIn p f) s = s
  | [], _, _ => rfl
  | f :: fs, s, h => by
    rw [List.foldl_cons, flitIn_packet (h f List.mem_cons_self)]
    exact flitsIn_packets fs s fun g hg => h g (List.mem_cons_of_mem _ hg)

/-! ## NAKs and credits (R257, R258) -/

theorem State.port_emit (s : State) (o : Out) (j : Nat) : (s.emit o).port j = s.port j := rfl

theorem nak_spec (hp : p < 10) (hlink : s.linkOn p = true) (q : BitVec 10) :
    ∃ t, exec (.nak p q) s = .next t ∧ PortSends s t p ∧
      let n := if 0 < (s.port p).nakCount ∧ (s.port p).nakSeq = q then (s.port p).nakCount + 1 else 1
      if q ∈ (s.port p).txHeld then
        t.out = s.out ++ [.replay p q] ∧
          t.port p = { s.port p with nakSeq := q, nakCount := n, replay := satAdd 64 (s.port p).replay 1 }
      else t.out = s.out ∧ t.port p = { s.port p with nakSeq := q, nakCount := n } := by
  refine ⟨_, exec_nak hp q, ?_⟩
  have hn : (if (decide ((s.port p).nakCount > 0) && (s.port p).nakSeq == q) = true then (s.port p).nakCount + 1 else 1) =
      if 0 < (s.port p).nakCount ∧ (s.port p).nakSeq = q then (s.port p).nakCount + 1 else 1 :=
    if_congr (by simp) rfl rfl
  unfold State.nak
  dsimp only
  rw [hlink, if_neg (by simp), hn]
  generalize (if 0 < (s.port p).nakCount ∧ (s.port p).nakSeq = q then (s.port p).nakCount + 1 else 1) = n
  by_cases hq : q ∈ (s.port p).txHeld
  · rw [if_pos hq, if_pos (List.contains_iff_mem.mpr hq)]
    refine ⟨(setPort_portSends _ _ _).trans ((modPort_portSends _ _ _).trans (emit_portSends _ _ _)), rfl, ?_⟩
    · rw [State.port_emit, State.port_modPort_self, State.port_setPort_self]
  · rw [if_neg hq, if_neg (fun h => hq (List.contains_iff_mem.mp h))]
    exact ⟨setPort_portSends _ _ _, rfl, State.port_setPort_self _ _ _⟩

theorem nakLimit_spec (hp : p < 10) (hon : s.portsOn = true) (hst : (s.port p).st = .up) (hcount : 8 ≤ (s.port p).nakCount)
    (hin : (s.port p).incoming = none) : ∃ t, exec (.nakLimit p) s = .next t ∧
      t = { s with ports := t.ports, doms := t.doms, pwr := t.pwr } ∧ (∀ j, j ≠ p → t.port j = s.port j) ∧
      (t.port p).st = (if s.mayTrain p then .training else .down) ∧ (t.port p).queue = [] ∧ (t.port p).txHeld = [] ∧
      (t.port p).downDrop = min ((s.port p).downDrop + (s.port p).queue.length) (2 ^ 64 - 1) ∧
      (t.port p).downEvents = min ((s.port p).downEvents + 1) (2 ^ 64 - 1) := by
  obtain ⟨hwake, hport⟩ := State.portRetrain_quiet hin
  refine ⟨s.portRetrain p, (guarded_ok (decide_eq_true hp) _).trans (congrArg _ ?_), hwake.frame, hwake.others, ?_⟩
  · unfold State.nakLimit
    rw [linkOn_of_up hon hst, hst, if_neg (by simp; omega)]
  · rw [hport, Port.downed_up (by rw [hst]; nofun)]
    split
    · exact ⟨rfl, rfl, rfl, rfl, rfl⟩
    · exact ⟨rfl, rfl, rfl, rfl, rfl⟩

theorem nakLimit_below (hp : p < 10) (h : (s.port p).nakCount < 8 ∨ (s.port p).st ≠ .up) :
    exec (.nakLimit p) s = .next s := by
  refine (guarded_ok (decide_eq_true hp) _).trans (congrArg _ (if_pos ?_))
  rcases h with h | h
  · rw [decide_eq_true h, Bool.or_true]
  · rw [decide_eq_true h, Bool.or_true, Bool.true_or]

/-- The credits of a CREDIT flit, channel by channel. -/
theorem credits_get (l : List (BitVec 16)) (k : Nat) (t : Tab (BitVec 16)) (v : Nat) :
    Tab.get 0 ((l.zipIdx k).foldl (fun t (x : BitVec 16 × Nat) => Tab.put 0 t x.2 x.1) t) v =
      if k ≤ v ∧ v < k + l.length then l.getD (v - k) 0 else Tab.get 0 t v := by
  induction l generalizing k t with
  | nil =>
    rw [if_neg (by simp)]
    rfl
  | cons c l ih =>
    rw [List.zipIdx_cons, List.foldl_cons, ih]
    by_cases hv : v = k
    · subst hv
      rw [if_neg (by omega), if_pos (by simp), Nat.sub_self, List.getD_cons_zero, Tab.get_put_self]
    · rw [Tab.get_put_ne _ _ _ hv]
      by_cases hin : k + 1 ≤ v ∧ v < k + 1 + l.length
      · rw [if_pos hin, if_pos (by simp; omega), show v - k = v - (k + 1) + 1 from by omega, List.getD_cons_succ]
      · rw [if_neg hin, if_neg (by simp; omega)]

theorem idxOf?_split {a : BitVec 10} {rest : List (BitVec 10)} : ∀ {old : List (BitVec 10)}, a ∉ old →
    (old ++ a :: rest).idxOf? a = some old.length
  | [], _ => by rw [List.nil_append, List.idxOf?_cons, if_pos (beq_self_eq_true a)]; rfl
  | b :: old, hnot => by
    have hb : ¬ (b == a) = true := fun h => hnot (by rw [beq_iff_eq.mp h]; exact List.mem_cons_self)
    rw [List.cons_append, List.idxOf?_cons, if_neg hb, idxOf?_split fun h => hnot (List.mem_cons_of_mem _ h)]
    rfl

theorem credit_spec {counts : List (BitVec 16)} {a : BitVec 10} (hp : p < 10) (hlink : s.linkOn p = true)
    (hlen : counts.length = 16) : ∃ t, exec (.credit p counts a) s = .next t ∧ PortSends s t p ∧ t.out = s.out ∧
      (∀ v < 16, Tab.get 0 (t.port p).txFreed v = counts.getD v 0) ∧
      (∀ old rest, (s.port p).txHeld = old ++ a :: rest → a ∉ old →
        (t.port p).txHeld = rest ∧ (t.port p).nakCount = 0) ∧
      (a ∉ (s.port p).txHeld → (t.port p).txHeld = (s.port p).txHeld ∧ (t.port p).nakCount = (s.port p).nakCount) := by
  refine ⟨_, exec_credit hp counts a, ?_⟩
  unfold State.credit
  dsimp only
  rw [hlink, if_neg (by simp), State.port_setPort_self]
  refine ⟨setPort_portSends _ _ _, rfl, fun v hv => ?_, fun old rest hsplit hnot => ?_, fun hnot => ?_⟩
  · rw [List.take_of_length_le (by omega)]
    exact (credits_get counts 0 _ v).trans (if_pos ⟨Nat.zero_le _, by omega⟩)
  · have hheld : ackHeld (s.port p).txHeld a = rest := by
      unfold ackHeld
      rw [hsplit, idxOf?_split hnot]
      simp
    dsimp only
    rw [hheld]
    exact ⟨rfl, if_pos (by rw [hsplit]; simp; omega)⟩
  · have hheld : ackHeld (s.port p).txHeld a = (s.port p).txHeld := by
      unfold ackHeld
      rw [List.idxOf?_eq_none_iff.mpr hnot]
    dsimp only
    rw [hheld]
    exact ⟨rfl, if_neg (Nat.lt_irrefl _)⟩

/-- The flits that a CREDIT flit acknowledges, channel by channel. -/
theorem taken_get (f : Nat → BitVec 16) (l : List Nat) (t : Tab (BitVec 16)) (v : Nat) :
    Tab.get 0 (l.foldl (fun t v => Tab.put 0 t v (f v)) t) v = if v ∈ l then f v else Tab.get 0 t v := by
  induction l generalizing t with
  | nil => rw [if_neg List.not_mem_nil]; rfl
  | cons w l ih =>
    rw [List.foldl_cons, ih]
    by_cases hv : v ∈ l
    · rw [if_pos hv, if_pos (List.mem_cons_of_mem _ hv)]
    · rw [if_neg hv, Tab.get_put]
      split
      · next h => rw [if_pos (by simp [h]), h]
      · next h => rw [if_neg (by simp [h, hv])]

theorem creditSend_spec (hp : p < 10) (hon : s.portsOn = true) (hst : (s.port p).st = .up) (hfits : Fits (s.port p) 1) :
    ∃ t, exec (.creditSend p) s = .next t ∧ PortSends s t p ∧
      FlitSent { s.port p with rxTold := (t.port p).rxTold } (t.port p) ∧
      (∀ v < 16, Tab.get 0 (t.port p).rxTold v = s.taken p v) ∧
      t.out = s.out ++ [.credit p ((List.range 16).map (s.taken p)) ((s.port p).rxExpect - 1)] := by
  have heq : s.creditSend p = (s.modPort p fun x => { x with
      rxTold := (List.range 16).foldl (fun t v => Tab.put 0 t v (s.taken p v)) [] }).sendCtrl p
      (.credit p ((List.range 16).map (s.taken p)) ((s.port p).rxExpect - 1)) := by
    unfold State.creditSend
    dsimp only
    rw [hon, hst, (hasRoom_iff ..).mpr hfits, if_neg (by simp)]
  have htold := taken_get (s.taken p) (List.range 16) []
  generalize (List.range 16).foldl (fun t v => Tab.put 0 t v (s.taken p v)) [] = told at htold heq
  generalize Out.credit p ((List.range 16).map (s.taken p)) ((s.port p).rxExpect - 1) = o at heq ⊢
  refine ⟨_, (guarded_ok (decide_eq_true hp) _).trans (congrArg _ heq), ?_⟩
  have hport : (s.modPort p fun x => { x with rxTold := told }).port p = { s.port p with rxTold := told } :=
    State.port_modPort_self _ _ _
  obtain ⟨hsends, hfits', -⟩ := (s.modPort p fun x => { x with rxTold := told }).sendCtrl_spec p o
  rw [hport] at hfits'
  obtain ⟨hsent, hout⟩ := hfits' hfits
  have hrx : ((State.sendCtrl (s.modPort p fun x => { x with rxTold := told }) p o).port p).rxTold = told := by
    rw [hsent]
  generalize State.sendCtrl (s.modPort p fun x => { x with rxTold := told }) p o = t at hsends hsent hout hrx ⊢
  refine ⟨PortSends.trans ⟨rfl, fun j hj => State.port_modPort_ne _ _ hj⟩ hsends, ?_, fun v hv => ?_, hout⟩
  · unfold FlitSent at hsent ⊢
    rw [hrx]
    exact hsent
  · rw [hrx, htold, if_pos (List.mem_range.mpr hv)]

end Sys2Proof.Machine
end

section
/-!
SUPPORT. IDLE flits and heartbeats (R261, R292, R373), and the link layer.
-/
namespace Sys2Proof.Machine

variable {s : State} {p : Nat}

/-! ## IDLE flits and heartbeats (R261, R292, R373) -/

/-- An IDLE flit with FROZEN stops port `p`. -/
def idleStops (s : State) (p : Nat) (frozen : Bool) : Prop := frozen = true ∧ (p < 4 ∨ (s.port p).light = true)

theorem idleStops_iff (frozen : Bool) : (frozen && !s.unlit p) = true ↔ idleStops s p frozen := by
  unfold idleStops State.unlit
  cases (s.port p).light <;> simp

/-- The freeze triggers after a freeze wave on port `p`. -/
def State.waved (s : State) (p : Nat) : Frz := { s.frz.waveOn p with latched := true, latchedAt := s.gen.time }

theorem freezeTrigger_wave (s : State) (p : Nat) (freeze : Bool) :
    (if (freeze && s.ready && s.cfg.slice.freezeWave) = true then s.freezeTrigger fun z => z.waveOn p else s) =
      { s with frz := if freeze = true ∧ s.ready = true ∧ s.cfg.slice.freezeWave = true ∧ s.frz.frozen = false ∧
        (s.frz.latched = false ∨ s.frz.latchedAt = s.gen.time) then s.waved p else s.frz } := by
  unfold State.freezeTrigger
  by_cases hwave : (freeze && s.ready && s.cfg.slice.freezeWave) = true
  · rw [if_pos hwave]
    simp only [Bool.and_eq_true] at hwave
    obtain ⟨⟨hf, hr⟩, hw⟩ := hwave
    by_cases hno : s.frz.frozen = false ∧ (s.frz.latched = false ∨ s.frz.latchedAt = s.gen.time)
    · have hgo : ¬ (s.frz.frozen || s.frz.latched && decide (s.frz.latchedAt ≠ s.gen.time)) = true := by
        rcases hno with ⟨h1, h2 | h2⟩
        · simp [h1, h2]
        · simp [h1, h2]
      rw [if_neg hgo, if_pos (show freeze = true ∧ _ from ⟨hf, hr, hw, hno.1, hno.2⟩)]
      rfl
    · have hstay : (s.frz.frozen || s.frz.latched && decide (s.frz.latchedAt ≠ s.gen.time)) = true := by
        cases h1 : s.frz.frozen with
        | true => rfl
        | false =>
          cases h2 : s.frz.latched with
          | false => exact absurd ⟨h1, .inl h2⟩ hno
          | true => simpa using fun h => hno ⟨h1, .inr h⟩
      rw [if_pos hstay, if_neg (show ¬ (freeze = true ∧ _) from fun h => hno h.2.2.2)]
  · rw [if_neg hwave, if_neg]
    simpa using fun h1 h2 h3 => absurd (by rw [h1, h2, h3]; rfl) hwave

/-- A port that has heard an IDLE flit. -/
def Port.idled (x : Port) (hb : W32) (st : PortState) : Port := { x with hb := hb, hbAge := 0, hbMissing := false, st := st }

theorem State.idleFlit_eq (hon : s.portsOn = true) (hfit : (s.port p).fitted = true) (hdis : (s.port p).st ≠ .disabled)
    (htest : (s.port p).st ≠ .test) (hb : W32) (freeze frozen : Bool) : s.idleFlit p hb freeze frozen =
      let u := if (frozen && !s.unlit p) = true then (s.setPort p ((s.port p).idled hb .frozen)).requestWake (80 + p)
        else s.setPort p ((s.port p).idled hb (s.port p).st)
      if (freeze && u.ready && u.cfg.slice.freezeWave) = true then u.freezeTrigger fun z => z.waveOn p else u := by
  unfold State.idleFlit
  dsimp only
  rw [if_neg (by simp [hon, hfit, hdis, htest])]
  cases frozen && !s.unlit p with
  | true => rfl
  | false => rfl

/-- What an IDLE flit leaves before its freeze wave. -/
structure Idled (s u : State) (p : Nat) (hb : W32) (frozen : Bool) : Prop where
  wakes : PortWake s u p
  port : u.port p = (s.port p).idled hb (if frozen = true ∧ (p < 4 ∨ (s.port p).light = true) then .frozen else (s.port p).st)
  still : ¬ idleStops s p frozen → u.doms = s.doms ∧ u.pwr = s.pwr
  woken : idleStops s p frozen → Woken s u (80 + p)
  ready : u.ready = s.ready

theorem idled_of (s : State) (p : Nat) (hb : W32) (frozen : Bool) :
    Idled s (if (frozen && !s.unlit p) = true then (s.setPort p ((s.port p).idled hb .frozen)).requestWake (80 + p)
      else s.setPort p ((s.port p).idled hb (s.port p).st)) p hb frozen := by
  have hset : ∀ st, PortWake s (s.setPort p ((s.port p).idled hb st)) p := fun st =>
    ⟨rfl, fun _ hj => State.port_setPort_ne _ _ hj⟩
  by_cases hstop : idleStops s p frozen
  · rw [if_pos ((idleStops_iff frozen).mpr hstop)]
    refine ⟨(hset .frozen).trans (State.requestWake_portWake _ _ _), ?_, fun h => absurd hstop h, fun _ => ?_, ?_⟩
    · rw [State.requestWake_port, State.port_setPort_self, if_pos (show frozen = true ∧ _ from hstop)]
    · exact State.requestWake_woken (s.setPort p _) (80 + p)
    · rw [State.ready, (State.requestWake_wakesOnly _ _).frame, (State.requestWake_wakesOnly _ _).pwr]
      rfl
  · rw [if_neg (fun h => hstop ((idleStops_iff frozen).mp h))]
    refine ⟨hset _, ?_, fun _ => ⟨rfl, rfl⟩, fun h => absurd h hstop, rfl⟩
    rw [State.port_setPort_self, if_neg (show ¬ (frozen = true ∧ _) from hstop)]

theorem idle_spec (hp : p < 10) (hon : s.portsOn = true) (hfit : (s.port p).fitted = true)
    (hdis : (s.port p).st ≠ .disabled) (htest : (s.port p).st ≠ .test) (hb : W32) (freeze frozen : Bool) :
    ∃ t, exec (.idle p hb freeze frozen) s = .next t ∧
      t = { s with ports := t.ports, frz := t.frz, doms := t.doms, pwr := t.pwr } ∧
      (¬ idleStops s p frozen → t.doms = s.doms ∧ t.pwr = s.pwr) ∧ (idleStops s p frozen → Woken s t (80 + p)) ∧
      (∀ j, j ≠ p → t.port j = s.port j) ∧
      t.port p = (s.port p).idled hb (if frozen = true ∧ (p < 4 ∨ (s.port p).light = true) then .frozen else (s.port p).st) ∧
      t.frz = if freeze = true ∧ s.ready = true ∧ s.cfg.slice.freezeWave = true ∧ s.frz.frozen = false ∧
        (s.frz.latched = false ∨ s.frz.latchedAt = s.gen.time) then s.waved p else s.frz := by
  have hidled := idled_of s p hb frozen
  have heq := State.idleFlit_eq hon hfit hdis htest hb freeze frozen
  generalize (if (frozen && !s.unlit p) = true then (s.setPort p ((s.port p).idled hb .frozen)).requestWake (80 + p)
    else s.setPort p ((s.port p).idled hb (s.port p).st)) = u at hidled heq
  dsimp only at heq
  rw [freezeTrigger_wave] at heq
  obtain ⟨⟨hframe, hothers⟩, hport, hstill, hwoken, hready⟩ := hidled
  have hcfg : u.cfg = s.cfg := by rw [hframe]
  have hfrz : u.frz = s.frz := by rw [hframe]
  have htime : u.gen = s.gen := by rw [hframe]
  have hwaved : u.waved p = s.waved p := by
    unfold State.waved
    rw [hfrz, htime]
  have hcond : (if freeze = true ∧ u.ready = true ∧ u.cfg.slice.freezeWave = true ∧ u.frz.frozen = false ∧
      (u.frz.latched = false ∨ u.frz.latchedAt = u.gen.time) then u.waved p else u.frz) =
      if freeze = true ∧ s.ready = true ∧ s.cfg.slice.freezeWave = true ∧ s.frz.frozen = false ∧
        (s.frz.latched = false ∨ s.frz.latchedAt = s.gen.time) then s.waved p else s.frz := by
    rw [hready, hcfg, hfrz, htime, hwaved]
  rw [hcond] at heq
  generalize (if freeze = true ∧ s.ready = true ∧ s.cfg.slice.freezeWave = true ∧ s.frz.frozen = false ∧
    (s.frz.latched = false ∨ s.frz.latchedAt = s.gen.time) then s.waved p else s.frz) = z at heq ⊢
  refine ⟨_, (exec_idle hp hb freeze frozen).trans (congrArg _ heq), ?_, hstill, hwoken, hothers, hport, rfl⟩
  have hswap : ∀ z, { u with frz := z } = { s with ports := u.ports, frz := z, doms := u.doms, pwr := u.pwr } :=
    fun z => by rw [hframe]
  exact hswap z

/-- What the heartbeats of some ports leave. -/
theorem heartbeats_foldl (c : W32) {l : List Nat} (hl : l.Nodup) (s : State) (hcount : s.hbCount = c)
    (hfits : ∀ j ∈ l, Fits (s.port j) 1) :
    let t := l.foldl (fun s p => if (s.port p).st == .up then s.sendCtrl p (.idle p s.hbCount false false) else s) s
    t = { s with
      ports := t.ports
      out := s.out ++ (l.filter fun j => (s.port j).st = .up).map fun j => .idle j c false false } ∧
    ∀ j, if j ∈ l ∧ (s.port j).st = .up then FlitSent (s.port j) (t.port j) else t.port j = s.port j := by
  induction l generalizing s with
  | nil =>
    refine ⟨?_, fun j => ?_⟩
    · simp
    · rw [if_neg (fun h => List.not_mem_nil h.1)]
      rfl
  | cons p l ih =>
    obtain ⟨hp, hl⟩ := List.nodup_cons.mp hl
    rw [List.foldl_cons]
    by_cases hup : (s.port p).st = .up
    · obtain ⟨hframe, hothers, hsent⟩ := State.sendCtrl_fits (s := s) (.idle p s.hbCount false false)
        (hfits p List.mem_cons_self)
      rw [if_pos (by rw [hup]; rfl)]
      generalize s.sendCtrl p (.idle p s.hbCount false false) = u at hframe hothers hsent
      have hne : ∀ j ∈ l, j ≠ p := fun j hj h => hp (h ▸ hj)
      obtain ⟨htframe, hports⟩ := ih hl u (by rw [hframe, hcount]) fun j hj => by
        rw [hothers j (hne j hj)]
        exact hfits j (List.mem_cons_of_mem _ hj)
      generalize l.foldl (fun s p => if (s.port p).st == .up then s.sendCtrl p (.idle p s.hbCount false false) else s) u = t
        at htframe hports
      refine ⟨?_, fun j => ?_⟩
      · have hfilter : l.filter (fun j => (u.port j).st = .up) = l.filter fun j => (s.port j).st = .up :=
          List.filter_congr fun j hj => by rw [hothers j (hne j hj)]
        have hout : u.out = s.out ++ [.idle p c false false] := by rw [hframe, ← hcount]
        rw [hfilter, hout] at htframe
        rw [List.filter_cons_of_pos (by simpa using hup), List.map_cons]
        have hswap : ∀ x y, { u with ports := x, out := y } = { s with ports := x, out := y } := fun x y => by rw [hframe]
        refine htframe.trans ((hswap _ _).trans ?_)
        rw [List.append_assoc]
        rfl
      · by_cases hj : j = p
        · subst hj
          have h := hports j
          rw [if_neg (fun h => hp h.1)] at h
          rw [if_pos ⟨List.mem_cons_self, hup⟩, h]
          exact hsent
        · have h := hports j
          rw [hothers j hj] at h
          rw [if_congr (by rw [List.mem_cons, or_iff_right hj]) rfl rfl]
          exact h
    · rw [if_neg (by simpa using hup)]
      obtain ⟨htframe, hports⟩ := ih hl s hcount fun j hj => hfits j (List.mem_cons_of_mem _ hj)
      rw [List.filter_cons_of_neg (by simpa using hup)]
      refine ⟨htframe, fun j => ?_⟩
      by_cases hj : j = p
      · subst hj
        have h := hports j
        rw [if_neg (fun h => hp h.1)] at h
        rw [if_neg (fun h => hup h.2)]
        exact h
      · have h := hports j
        rw [if_congr (by rw [List.mem_cons, or_iff_right hj]) rfl rfl]
        exact h

theorem heartbeat_spec (hon : s.portsOn = true) (hfits : ∀ j < 10, Fits (s.port j) 1) :
    ∃ t, exec .heartbeatTick s = .next t ∧
      t = { s with
        ports := t.ports, hbCount := s.hbCount + 1
        out := s.out ++ ((List.range 10).filter fun j => (s.port j).st = .up).map fun j =>
          .idle j (s.hbCount + 1) false false } ∧
      ∀ j, if j < 10 ∧ (s.port j).st = .up then FlitSent (s.port j) (t.port j) else t.port j = s.port j := by
  obtain ⟨hframe, hports⟩ := heartbeats_foldl (s.hbCount + 1) (List.nodup_range (n := 10))
    { s with hbCount := s.hbCount + 1 } rfl fun j hj => hfits j (List.mem_range.mp hj)
  refine ⟨s.heartbeat, rfl, ?_⟩
  unfold State.heartbeat
  rw [hon, if_neg (by simp)]
  refine ⟨hframe, fun j => ?_⟩
  have h := hports j
  rw [if_congr (by rw [List.mem_range]) rfl rfl] at h
  exact h

theorem hbMissing_spec (hp : p < 10) (hon : s.portsOn = true) (hfit : (s.port p).fitted = true)
    (hage : 625 ≤ (s.port p).hbAge) : exec (.hbMissing p) s =
      .next (s.modPort p fun x => { x with hbMissing := true }) := by
  refine (guarded_ok (decide_eq_true hp) _).trans (congrArg _ ?_)
  unfold State.hbMissing
  rw [hon, hfit, if_neg (by simp; omega)]

/-! ## The obligation -/

/-- Settles O35: a lemma for each command of the link layer. -/
theorem linkLayer : Obligations.LinkLayer := by
  unfold Obligations.LinkLayer
  intro s p hp
  refine ⟨fun cw hlink => ⟨fun hbad => ?_, fun hgood hsym hseq => ?_, fun hgood hsym hseq => ?_⟩,
    fun seq hlink => ?_, fun hon hst hcount hin => nakLimit_spec hp hon hst hcount hin,
    fun h => nakLimit_below hp h, fun counts a hlink hlen => ?_, fun hon hst hfits => ?_,
    fun hb freeze frozen hon hfit hdis htest => ?_, fun hon hfits => heartbeat_spec hon hfits, fun hon hfit hage => ?_⟩
  · exact codeword_nak hp hlink hbad
  · exact (codeword_taken hp hlink hgood hsym).trans (congrArg _ (if_pos hseq))
  · have htaken := (codeword_taken hp hlink hgood hsym).trans (congrArg _ (if_neg (not_not_intro hseq)))
    refine ⟨fun hpkt => htaken.trans (congrArg _ (flitsIn_packets _ _ hpkt)), _, htaken, flitsIn_do hp _ _⟩
  · exact nak_spec hp hlink seq
  · exact credit_spec hp hlink hlen
  · exact creditSend_spec hp hon hst hfits
  · exact idle_spec hp hon hfit hdis htest hb freeze frozen
  · refine ⟨_, hbMissing_spec hp hon hfit hage, ⟨rfl, fun j hj => State.port_modPort_ne _ _ hj⟩, rfl, ?_⟩
    rw [State.port_modPort_self]

end Sys2Proof.Machine
end

section
/-!
SUPPORT. Port states and LNK_CTRL (R252, R254, R290 to R292).
-/
namespace Sys2Proof.Machine

variable {s t : State} {p : Nat}

/-! ## What port commands leave of one port (R252, R290) -/

/-- A port's queue has been discarded and counted, and its link layer starts afresh. -/
def Emptied (x y : Port) : Prop :=
  y.queue = [] ∧ y.cut = [] ∧ y.txHeld = [] ∧ y.downDrop = min (x.downDrop + x.queue.length) (2 ^ 64 - 1)

/-- Its entry into DOWN has been counted. -/
def DownCounted (x y : Port) : Prop :=
  y.downEvents = if x.st = .down then x.downEvents else min (x.downEvents + 1) (2 ^ 64 - 1)

theorem Port.dropped_emptied (x : Port) : Emptied x x.dropped := ⟨rfl, rfl, rfl, rfl⟩

theorem Port.downed_spec (x : Port) : Emptied x x.downed ∧ DownCounted x x.downed ∧ x.downed.st = .down ∧
    x.downed.lightUnit = x.lightUnit := by
  unfold Port.downed DownCounted
  by_cases hst : x.st = .down
  · rw [if_pos hst, if_pos hst]
    exact ⟨x.dropped_emptied, rfl, hst, rfl⟩
  · rw [if_neg hst, if_neg hst]
    exact ⟨⟨rfl, rfl, rfl, rfl⟩, rfl, rfl, rfl⟩

theorem Emptied.setSt {x y : Port} (h : Emptied x y) (st : PortState) : Emptied x { y with st := st } := h
theorem DownCounted.setSt {x y : Port} (h : DownCounted x y) (st : PortState) : DownCounted x { y with st := st } := h

/-- What a retraining leaves. -/
theorem State.portRetrain_spec (hin : (s.port p).incoming = none) : PortWake s (s.portRetrain p) p ∧
    Emptied (s.port p) ((s.portRetrain p).port p) ∧ DownCounted (s.port p) ((s.portRetrain p).port p) ∧
    ((s.portRetrain p).port p).st = (if s.mayTrain p then .training else .down) := by
  obtain ⟨hwake, hport⟩ := State.portRetrain_quiet hin
  obtain ⟨hempty, hcount, hst, -⟩ := (s.port p).downed_spec
  refine ⟨hwake, ?_⟩
  rw [hport]
  split
  · exact ⟨hempty.setSt _, hcount.setSt _, rfl⟩
  · exact ⟨hempty, hcount, hst⟩

/-- The frame of a port command. -/
def PortCmd (s t : State) (p : Nat) : Prop :=
  t = { s with ports := t.ports, doms := t.doms, pwr := t.pwr, latches := t.latches } ∧ ∀ j, j ≠ p → t.port j = s.port j

theorem PortWake.cmd (h : PortWake s t p) : PortCmd s t p := by
  refine ⟨?_, h.others⟩
  have hl : t.latches = s.latches := by rw [h.frame]
  rw [hl]
  exact h.frame

theorem PortWake.cmd_latches {l : Tab _} (h : PortWake { s with latches := l } t p) : PortCmd s t p := by
  refine ⟨?_, h.others⟩
  have hl : t.latches = l := by rw [h.frame]
  rw [hl]
  exact h.frame

/-- A bit is not both set and clear. -/
theorem bit_clash {b : Bool} {P : Prop} (hset : b = true) (hclear : b = false) : P :=
  absurd (hset.symm.trans hclear) (by decide)

section
variable (hp : p < 10) (hon : s.portsOn = true) (hin : (s.port p).incoming = none)
include hp hon

theorem linkSilence_spec (hst : (s.port p).st = .up) :
    exec (.linkSilenceTimeout p) s = .next (s.portRetrain p) := by
  refine (guarded_ok (decide_eq_true hp) _).trans (congrArg _ ?_)
  unfold State.linkSilence
  rw [hon, hst, if_neg (by simp)]

theorem portTrained_spec {got : Training} (hgot : got ≠ .neither) (hmay : s.mayTrain p = true)
    (hst : (s.port p).st = .training) (hlevel : (s.dom (80 + p)).level < 2) (hent : (s.dom (80 + p)).entering = none) :
    exec (.portTrained p got) s = .next (s.setPort p { s.port p with
      st := .up, halfWidth := got == .half, nbrDead := false, nbrValid := false, nbr := none }) := by
  refine (guarded_ok (decide_eq_true hp) _).trans (congrArg _ ?_)
  have hdom : s.dom (domPort p) = s.dom (80 + p) := rfl
  rw [if_neg hgot]
  unfold State.portTrained
  dsimp only
  rw [hdom, hent, if_neg (by simp [hon, hmay, hst]; omega)]

theorem trainingFails_spec (hst : (s.port p).st = .training) :
    exec (.portTrained p .neither) s = .next (s.portDown p) := by
  refine (guarded_ok (decide_eq_true hp) _).trans (congrArg _ ?_)
  rw [if_pos rfl]
  unfold State.trainingFails
  rw [hon, hst, if_neg (by simp)]

theorem signalDetect_spec (hst : (s.port p).st = .down) : ∃ t, exec (.signalDetect p) s = .next t ∧ PortCmd s t p ∧
    Woken s t (80 + p) ∧ t.port p = if s.mayTrain p then { s.port p with st := .training } else s.port p := by
  have hmay : (s.requestWake (80 + p)).mayTrain p = s.mayTrain p := mayTrain_of_port (State.requestWake_port _ _ _)
  obtain ⟨hwake, hport, hwoken⟩ := (s.requestWake (80 + p)).startTraining_spec p
  rw [hmay, State.requestWake_port] at hport
  have hkept : (((s.requestWake (80 + p)).dom (80 + p)).wakeReq = true →
      (((s.requestWake (80 + p)).startTraining p).dom (80 + p)).wakeReq = true) := by
    unfold State.startTraining
    split
    · exact id
    · exact (State.requestWake_wakesOnly ((s.requestWake (80 + p)).modPort p fun x => { x with st := .training })
        (80 + p)).wakeReq (80 + p)
  refine ⟨_, (guarded_ok (decide_eq_true hp) _).trans (congrArg _ ?_), ((s.requestWake_portWake (80 + p) p).trans hwake).cmd,
    Woken.of_wakeReq (s.requestWake_woken (80 + p)) hkept, hport⟩
  unfold State.signalDetect
  rw [hon, hst, if_neg (by simp)]
  rfl

theorem nbrDead_spec (hfit : (s.port p).fitted = true) (hup : (s.port p).st ≠ .up) (hfrz : (s.port p).st ≠ .frozen)
    (hage : 25000 ≤ (s.port p).hbAge) : exec (.nbrDeadSet p) s = .next (s.setPort p { s.port p with nbrDead := true }) := by
  refine (guarded_ok (decide_eq_true hp) _).trans (congrArg _ ?_)
  unfold State.nbrDead
  dsimp only
  rw [if_neg (by simp [hon, hfit, hup, hfrz]; omega)]

theorem nbrTraining_spec (hin : (s.port p).incoming = none) (hst : (s.port p).st = .frozen) :
    ∃ t, exec (.nbrTrainingDetect p) s = .next t ∧ PortCmd s t p ∧ Emptied (s.port p) (t.port p) ∧
      (t.port p).st = .training := by
  refine ⟨_, (guarded_ok (decide_eq_true hp) _).trans (congrArg _ (?_ : s.nbrTraining p =
    ((s.modPort p Port.dropped).modPort p fun x => { x with st := .training }).requestWake (80 + p))), ?_⟩
  · unfold State.nbrTraining
    rw [hon, hst, if_neg (by simp), State.portDrop_quiet hin]
    rfl
  · refine ⟨(((s.modPort_portWake p _).trans (State.modPort_portWake _ p _)).trans
      (State.requestWake_portWake _ _ _)).cmd, ?_⟩
    rw [State.requestWake_port, State.port_modPort_self, State.port_modPort_self]
    exact ⟨(s.port p).dropped_emptied.setSt _, rfl⟩

theorem frozenHold_spec (hst : (s.port p).st = .frozen) (hhold : (s.port p).frzHold ≠ 0) :
    exec (.frozenHoldExpiry p) s = .next (s.portRetrain p) := by
  refine (guarded_ok (decide_eq_true hp) _).trans (congrArg _ ?_)
  unfold State.frozenHold
  rw [hon, hst, if_neg (by simp; exact hhold)]

omit hon in
theorem frozenHold_never (hhold : (s.port p).frzHold = 0) : exec (.frozenHoldExpiry p) s = .next s := by
  refine (guarded_ok (decide_eq_true hp) _).trans (congrArg _ ?_)
  unfold State.frozenHold
  rw [hhold, if_pos (by simp)]
end

/-! ## LNK_CTRL (R254, R290, R296, R387) -/

theorem exec_lnkCtrl {h : Nat} (hh : h < 2) (hp : p < 10) (v : W32) {c : Nat → Nat → W32 → Instr}
    (hc : c ∈ [Instr.retrain, Instr.disable, Instr.test]) : exec (c h p v) s = .next (s.lnkCtrl h p v) := by
  have hg : (isHost h && isPort p) = true := Bool.and_eq_true _ _ |>.mpr ⟨decide_eq_true hh, decide_eq_true hp⟩
  rcases List.mem_cons.mp hc with rfl | hc
  · exact guarded_ok hg _
  · rcases List.mem_cons.mp hc with rfl | hc
    · exact guarded_ok hg _
    · rw [List.mem_singleton.mp hc]
      exact guarded_ok hg _

/-- The bits that LNK_CTRL keeps of a port. -/
def Port.ctrl (x : Port) (v : W32) : Port := { x with disableBit := v.getLsbD 1, testBit := v.getLsbD 2 }

/-- The state in which LNK_CTRL acts on a port: its bits kept, its domain asked to wake. -/
def State.ctrlled (s : State) (h p : Nat) (v : W32) : State :=
  ((s.emptyLatch (portReq h)).modPort p fun y => y.ctrl v).requestWake (80 + p)

theorem State.ctrlled_spec (s : State) (h p : Nat) (v : W32) :
    PortWake { s with latches := (s.emptyLatch (portReq h)).latches } (s.ctrlled h p v) p ∧
      (s.ctrlled h p v).port p = (s.port p).ctrl v := by
  refine ⟨((s.emptyLatch (portReq h)).modPort_portWake p _).trans (State.requestWake_portWake _ _ _), ?_⟩
  unfold State.ctrlled
  rw [State.requestWake_port, State.port_modPort_self]
  rfl

section
variable {h : Nat} {v : W32} (hw : s.writable = true) (hown : s.ownedBy h = true)
include hw hown

theorem lnkCtrl_unfitted (hfit : (s.port p).fitted = false) :
    s.lnkCtrl h p v = (s.emptyLatch (portReq h)).setPort p ((s.port p).ctrl v) := by
  have hw' : (s.emptyLatch (portReq h)).writable = true := hw
  have hown' : (s.emptyLatch (portReq h)).ownedBy h = true := hown
  have hport : (s.emptyLatch (portReq h)).port p = s.port p := rfl
  unfold State.lnkCtrl
  dsimp only
  rw [hport, if_neg (by simp [hw', hown']), if_pos (by simp [hfit])]
  rfl

theorem lnkCtrl_fitted (hfit : (s.port p).fitted = true) (hon : s.portsOn = true) : s.lnkCtrl h p v =
    let u := s.ctrlled h p v
    if v.getLsbD 1 = true then
      if (s.port p).st = .disabled then u else (u.portDrop p).modPort p fun y => { y with st := .disabled }
    else if v.getLsbD 2 = true then
      if (s.port p).st = .test then u
      else if u.unlit p then if (s.port p).st = .disabled then u.portDown p else u
      else (u.portDrop p).modPort p fun y => { y with st := .test }
    else if (v.getLsbD 0 || (s.port p).st == .disabled || (s.port p).st == .test) = true then u.portRetrain p
    else u := by
  have hw' : (s.emptyLatch (portReq h)).writable = true := hw
  have hown' : (s.emptyLatch (portReq h)).ownedBy h = true := hown
  have hport : (s.emptyLatch (portReq h)).port p = s.port p := rfl
  generalize hm : ((s.emptyLatch (portReq h)).modPort p fun y => { y with
    disableBit := v.getLsbD 1, testBit := v.getLsbD 2 }) = m
  have hu : (if (!m.portsOn) = true then m else m.requestWake (domPort p)) = s.ctrlled h p v := by
    have hon' : m.portsOn = true := by
      rw [← hm]
      exact hon
    rw [hon', if_neg (by simp), ← hm]
    rfl
  unfold State.lnkCtrl
  dsimp only
  rw [hport, if_neg (by simp [hw', hown']), if_neg (by simp [hfit]), hm, hu]
end

/-- What LNK_CTRL leaves of a fitted port. -/
structure Controlled (x y : Port) (p : Nat) (v : W32) : Prop where
  disableBit : y.disableBit = v.getLsbD 1
  testBit : y.testBit = v.getLsbD 2
  disable : v.getLsbD 1 = true → y.st = .disabled ∧ (x.st ≠ .disabled → Emptied x y)
  test : v.getLsbD 1 = false → v.getLsbD 2 = true →
    ((x.st = .test ∨ p < 4 ∨ x.light = true) → y.st = .test ∧ (x.st ≠ .test → Emptied x y)) ∧
    (x.st ≠ .test → 4 ≤ p → x.light = false → y.st = if x.st = .disabled then .down else x.st)
  retrain : v.getLsbD 1 = false → v.getLsbD 2 = false → v.getLsbD 0 = true →
    Emptied x y ∧ y.st = (if p < 4 ∨ x.light = true then .training else .down) ∧ DownCounted x y
  keep : v.getLsbD 1 = false → v.getLsbD 2 = false → v.getLsbD 0 = false → x.st ≠ .disabled → x.st ≠ .test →
    y.st = x.st ∧ y.queue = x.queue

theorem Port.dropped_bits (x : Port) : x.dropped.disableBit = x.disableBit ∧ x.dropped.testBit = x.testBit := ⟨rfl, rfl⟩

theorem Emptied.ctrl {x y : Port} {v : W32} (h : Emptied (x.ctrl v) y) : Emptied x y := h
theorem DownCounted.ctrl {x y : Port} {v : W32} (h : DownCounted (x.ctrl v) y) : DownCounted x y := h

theorem lnkCtrl_controlled {h : Nat} {v : W32} (hw : s.writable = true) (hown : s.ownedBy h = true)
    (hfit : (s.port p).fitted = true) (hon : s.portsOn = true) (hin : (s.port p).incoming = none) :
    PortCmd s (s.lnkCtrl h p v) p ∧ Controlled (s.port p) ((s.lnkCtrl h p v).port p) p v := by
  obtain ⟨hwake, hport⟩ := s.ctrlled_spec h p v
  rw [lnkCtrl_fitted hw hown hfit hon]
  dsimp only
  generalize s.ctrlled h p v = u at hwake hport
  have hin' : (u.port p).incoming = none := by rw [hport]; exact hin
  have hdrop : ∀ st, PortCmd s ((u.portDrop p).modPort p fun y => { y with st := st }) p ∧
      ((u.portDrop p).modPort p fun y => { y with st := st }).port p = { ((s.port p).ctrl v).dropped with st := st } := by
    intro st
    rw [State.portDrop_quiet hin', State.port_modPort_self, State.port_modPort_self, hport]
    exact ⟨(hwake.trans ((u.modPort_portWake p _).trans (State.modPort_portWake _ p _))).cmd_latches, rfl⟩
  cases h1 : v.getLsbD 1 with
  | true =>
    rw [if_pos rfl]
    by_cases hdis : (s.port p).st = .disabled
    · rw [if_pos hdis]
      refine ⟨hwake.cmd_latches, ?_⟩
      rw [hport]
      exact ⟨rfl, rfl, fun _ => ⟨hdis, fun h => absurd hdis h⟩, fun h => bit_clash h1 h, fun h => bit_clash h1 h,
        fun h => bit_clash h1 h⟩
    · rw [if_neg hdis]
      obtain ⟨hcmd, hself⟩ := hdrop .disabled
      refine ⟨hcmd, ?_⟩
      rw [hself]
      exact ⟨rfl, rfl, fun _ => ⟨rfl, fun _ => ⟨rfl, rfl, rfl, rfl⟩⟩, fun h => bit_clash h1 h, fun h => bit_clash h1 h,
        fun h => bit_clash h1 h⟩
  | false =>
    rw [if_neg Bool.false_ne_true]
    cases h2 : v.getLsbD 2 with
    | true =>
      rw [if_pos rfl]
      by_cases htest : (s.port p).st = .test
      · rw [if_pos htest]
        refine ⟨hwake.cmd_latches, ?_⟩
        rw [hport]
        exact ⟨rfl, rfl, fun h => bit_clash h h1, fun _ _ => ⟨fun _ => ⟨htest, fun h => absurd htest h⟩,
          fun h => absurd htest h⟩,
          fun _ h => bit_clash h2 h, fun _ h => bit_clash h2 h⟩
      · rw [if_neg htest]
        have hunlit : u.unlit p = true ↔ 4 ≤ p ∧ (s.port p).light = false := by
          unfold State.unlit
          rw [hport]
          show (decide (4 ≤ p) && !(s.port p).light) = true ↔ _
          simp
        by_cases hdark : 4 ≤ p ∧ (s.port p).light = false
        · have hlit : ¬ ((s.port p).st = .test ∨ p < 4 ∨ (s.port p).light = true) := by
            simp [htest, hdark.2]
            omega
          rw [if_pos (hunlit.mpr hdark)]
          by_cases hdis : (s.port p).st = .disabled
          · rw [if_pos hdis]
            obtain ⟨-, -, hself⟩ := State.portDown_quiet hin'
            obtain ⟨hempty, -, hst, -⟩ := (u.port p).downed_spec
            obtain ⟨-, hd, ht, -⟩ := (u.port p).downed_fields
            refine ⟨(hwake.trans (PortWake.down hin')).cmd_latches, ?_⟩
            rw [hself]
            rw [hport] at hd ht hst ⊢
            exact ⟨hd, ht, fun h => bit_clash h h1, fun _ _ => ⟨fun h => absurd h hlit, fun _ _ _ => by rw [if_pos hdis, hst]⟩,
              fun _ h => bit_clash h2 h, fun _ h => bit_clash h2 h⟩
          · rw [if_neg hdis]
            refine ⟨hwake.cmd_latches, ?_⟩
            rw [hport]
            exact ⟨rfl, rfl, fun h => bit_clash h h1,
              fun _ _ => ⟨fun h => absurd h hlit, fun _ _ _ => by rw [if_neg hdis]; rfl⟩,
              fun _ h => bit_clash h2 h, fun _ h => bit_clash h2 h⟩
        · rw [if_neg (fun h => hdark (hunlit.mp h))]
          obtain ⟨hcmd, hself⟩ := hdrop .test
          refine ⟨hcmd, ?_⟩
          rw [hself]
          exact ⟨rfl, rfl, fun h => bit_clash h h1, fun _ _ => ⟨fun _ => ⟨rfl, fun _ => ⟨rfl, rfl, rfl, rfl⟩⟩,
            fun _ h3 h4 => absurd ⟨h3, h4⟩ hdark⟩, fun _ h => bit_clash h2 h, fun _ h => bit_clash h2 h⟩
    | false =>
      rw [if_neg Bool.false_ne_true]
      have hmay : u.mayTrain p = decide (p < 4 ∨ (s.port p).light = true) := by
        unfold State.mayTrain
        rw [hport]
        show ((s.port p).fitted && !v.getLsbD 1 && !v.getLsbD 2 && (decide (p < 4) || (s.port p).light)) = _
        rw [hfit, h1, h2]
        simp
      by_cases hgo : (v.getLsbD 0 || (s.port p).st == .disabled || (s.port p).st == .test) = true
      · rw [if_pos hgo]
        obtain ⟨hwake', hempty, hcount, hst⟩ := State.portRetrain_spec hin'
        obtain ⟨-, hself⟩ := State.portRetrain_quiet hin'
        obtain ⟨-, hd, ht, -⟩ := (u.port p).downed_fields
        have hbits : ((u.portRetrain p).port p).disableBit = v.getLsbD 1 ∧
            ((u.portRetrain p).port p).testBit = v.getLsbD 2 := by
          rw [hport] at hd ht hself
          rw [hself]
          split
          · exact ⟨hd, ht⟩
          · exact ⟨hd, ht⟩
        rw [hport] at hempty hcount
        rw [hmay] at hst
        refine ⟨(hwake.trans hwake').cmd_latches, hbits.1, hbits.2, fun h => bit_clash h h1, fun _ h => bit_clash h h2,
          fun _ _ _ => ⟨hempty.ctrl, ?_, hcount.ctrl⟩, fun _ _ h0 hdis htest => ?_⟩
        · rw [hst]
          exact if_congr (by rw [decide_eq_true_iff]) rfl rfl
        · rw [h0] at hgo
          simp [hdis, htest] at hgo
      · rw [if_neg hgo]
        refine ⟨hwake.cmd_latches, ?_⟩
        rw [hport]
        exact ⟨rfl, rfl, fun h => bit_clash h h1, fun _ h => bit_clash h h2, fun _ _ h0 => absurd (by rw [h0]; rfl) hgo,
          fun _ _ _ _ _ => ⟨rfl, rfl⟩⟩

end Sys2Proof.Machine
end

section
/-!
SUPPORT. The light of the bays (R253, R445), and port states and light.
-/
namespace Sys2Proof.Machine

variable {s t u : State} {p b : Nat}

/-! ## Bays (R253, R445) -/

theorem State.requestWake_dom_ne (s : State) {d k : Nat} (h : k ≠ d) : (s.requestWake d).dom k = s.dom k := by
  have hset : ∀ x : Dom, (s.setDom d x).dom k = s.dom k := fun x => Tab.get_put_ne _ _ _ h
  unfold State.requestWake
  dsimp only
  split
  · rfl
  · split
    · exact hset _
    · split
      · exact hset _
      · split
        · exact hset _
        · exact hset _

theorem Woken.congr {d : Nat} (h : Woken u t d) (hdom : u.dom d = s.dom d) : Woken s t d := by
  unfold Woken at *
  rw [hdom] at h
  exact h

/-- What concerns the ports of a list, each as `R` says of it. -/
structure PortsWake (s t : State) (l : List Nat) (R : Nat → Port → Port → Prop) : Prop where
  frame : t = { s with ports := t.ports, doms := t.doms, pwr := t.pwr }
  changed : ∀ p ∈ l, R p (s.port p) (t.port p)
  others : ∀ p, p ∉ l → t.port p = s.port p

/-- Ports of a bay handled one after the other. -/
theorem bay_foldl {f : State → Nat → State} {R : Nat → Port → Port → Prop} {p q : Nat} (hne : q ≠ p)
    (hp : PortWake s (f s p) p ∧ R p (s.port p) ((f s p).port p))
    (hq : PortWake (f s p) (f (f s p) q) q ∧ R q ((f s p).port q) ((f (f s p) q).port q)) :
    PortsWake s ([p, q].foldl f s) [p, q] R := by
  obtain ⟨hwp, hrp⟩ := hp
  obtain ⟨hwq, hrq⟩ := hq
  rw [hwp.others q hne] at hrq
  have hkeep : (f (f s p) q).port p = (f s p).port p := hwq.others p (Ne.symm hne)
  refine ⟨?_, fun k hk => ?_, fun k hk => ?_⟩
  · have hswap : ∀ x y z, { f s p with ports := x, doms := y, pwr := z } = { s with ports := x, doms := y, pwr := z } :=
      fun x y z => by rw [hwp.frame]
    exact hwq.frame.trans (hswap _ _ _)
  · rcases List.mem_cons.mp hk with rfl | hk
    · show R k _ ((f (f s k) q).port k)
      rw [hkeep]
      exact hrp
    · rw [List.mem_singleton.mp hk]
      exact hrq
  · have h1 : k ≠ p := fun h => hk (by rw [h]; exact List.mem_cons_self)
    have h2 : k ≠ q := fun h => hk (by rw [h]; exact List.mem_cons_of_mem _ List.mem_cons_self)
    exact (hwq.others k h2).trans (hwp.others k h1)

/-- One port of a bay whose light stops. -/
def darken (s : State) (p : Nat) : State :=
  let s := s.modPort p fun x => { x with light := false }
  if s.frz.frozen || !(s.port p).fitted || (s.port p).st == .disabled then s else s.portDown p

/-- A port of a bay without light. -/
def Dark (x y : Port) : Prop := y.st = .down ∧ y.light = false ∧ y.queue = [] ∧ y.lightUnit = x.lightUnit

theorem darken_spec (hfrz : s.frz.frozen = false) (hfit : (s.port p).fitted = true) (hdis : (s.port p).st ≠ .disabled)
    (hin : (s.port p).incoming = none) : (darken s p = { s with ports := (darken s p).ports }) ∧
    (∀ j, j ≠ p → (darken s p).port j = s.port j) ∧ Dark (s.port p) ((darken s p).port p) := by
  have hport : (s.modPort p fun x => { x with light := false }).port p = { s.port p with light := false } :=
    State.port_modPort_self _ _ _
  have hothers : ∀ j, j ≠ p → (s.modPort p fun x => { x with light := false }).port j = s.port j :=
    fun j hj => State.port_modPort_ne _ _ hj
  unfold darken
  dsimp only
  have hfrz' : (s.modPort p fun x => { x with light := false }).frz.frozen = false := hfrz
  have hframe : (s.modPort p fun x => { x with light := false }) = { s with
    ports := (s.modPort p fun x => { x with light := false }).ports } := rfl
  generalize (s.modPort p fun x => { x with light := false }) = u at hport hothers hfrz' hframe ⊢
  rw [if_neg (by rw [hfrz', hport]; simp [hfit, hdis])]
  obtain ⟨hdframe, hdothers, hself⟩ := State.portDown_quiet (s := u) (p := p) (by rw [hport]; exact hin)
  refine ⟨?_, fun j hj => (hdothers j hj).trans (hothers j hj), ?_⟩
  · have hswap : ∀ x, { u with ports := x } = { s with ports := x } := fun x => by rw [hframe]
    exact hdframe.trans (hswap _)
  · obtain ⟨⟨hq, -⟩, -, hst, hunit⟩ := (u.port p).downed_spec
    obtain ⟨-, -, -, hlight⟩ := (u.port p).downed_fields
    rw [hself]
    rw [hport] at hq hst hlight hunit ⊢
    exact ⟨hst, hlight, hq, hunit⟩

/-- The ports of a bay that are fitted, not disabled, and receive nothing. -/
def BayQuiet (s : State) (b : Nat) : Prop :=
  ∀ p ∈ bayPorts b, (s.port p).fitted = true ∧ (s.port p).st ≠ .disabled ∧ (s.port p).incoming = none

theorem lightLoss_spec (hbays : s.hasBays = true) (hfrz : s.frz.frozen = false) (hquiet : BayQuiet s b) :
    s.lightLoss b = { s with ports := (s.lightLoss b).ports } ∧
      (∀ p ∈ bayPorts b, Dark (s.port p) ((s.lightLoss b).port p)) ∧
      ∀ p, p ∉ bayPorts b → (s.lightLoss b).port p = s.port p := by
  have heq : s.lightLoss b = (bayPorts b).foldl darken s := by
    unfold State.lightLoss
    rw [hbays, if_neg (by simp)]
    rfl
  have hne : 5 + 2 * b ≠ 4 + 2 * b := by omega
  obtain ⟨hfit, hdis, hin⟩ := hquiet (4 + 2 * b) List.mem_cons_self
  obtain ⟨hfit', hdis', hin'⟩ := hquiet (5 + 2 * b) (List.mem_cons_of_mem _ List.mem_cons_self)
  obtain ⟨h1, h2, h3⟩ := darken_spec hfrz hfit hdis hin
  have hport := h2 _ hne
  obtain ⟨k1, k2, k3⟩ := darken_spec (s := darken s (4 + 2 * b)) (p := 5 + 2 * b) (by rw [h1]; exact hfrz)
    (by rw [hport]; exact hfit') (by rw [hport]; exact hdis') (by rw [hport]; exact hin')
  have hw : ∀ {u v : State} {q : Nat}, v = { u with ports := v.ports } → (∀ j, j ≠ q → v.port j = u.port j) →
      PortWake u v q := fun {u v q} hv ho => ⟨by rw [hv], ho⟩
  obtain ⟨-, hchanged, hothers⟩ := bay_foldl (f := darken) (R := fun _ => Dark) hne ⟨hw h1 h2, h3⟩ ⟨hw k1 k2, k3⟩
  rw [heq]
  refine ⟨?_, hchanged, hothers⟩
  have hswap : ∀ x, { darken s (4 + 2 * b) with ports := x } = { s with ports := x } := fun x => by rw [h1]
  exact k1.trans (hswap _)

/-- One port of a bay to which light returns. -/
def lighten (s : State) (p : Nat) : State :=
  if !(s.port p).lightUnit then s
  else
    let s := s.modPort p fun x => { x with light := true }
    if !s.portsOn || (s.port p).st ≠ .down then s
    else if (s.port p).testBit && !(s.port p).disableBit then
      (s.modPort p fun x => { x with st := .test }).requestWake (domPort p)
    else s.startTraining p

/-- What a port becomes when light returns. -/
def Lit (x y : Port) : Prop :=
  if x.lightUnit = true then y.light = true ∧ y.st = (if x.st ≠ .down ∨ x.disableBit = true then x.st
    else if x.testBit = true then .test else .training) else y = x

theorem lighten_spec (hon : s.portsOn = true) (hfit : (s.port p).fitted = true) :
    PortWake s (lighten s p) p ∧ Lit (s.port p) ((lighten s p).port p) ∧
      ((s.port p).lightUnit = true → (s.port p).st = .down → (s.port p).disableBit = false →
        Woken s (lighten s p) (80 + p)) := by
  unfold lighten Lit
  cases hunit : (s.port p).lightUnit with
  | false =>
    rw [if_pos (by rfl), if_neg Bool.false_ne_true]
    exact ⟨⟨rfl, fun _ _ => rfl⟩, rfl, fun h => absurd h Bool.false_ne_true⟩
  | true =>
    have hport : (s.modPort p fun x => { x with light := true }).port p = { s.port p with light := true } :=
      State.port_modPort_self _ _ _
    have hwake := s.modPort_portWake p fun x => { x with light := true }
    have hon' : (s.modPort p fun x => { x with light := true }).portsOn = true := hon
    have hdom : (s.modPort p fun x => { x with light := true }).dom (80 + p) = s.dom (80 + p) := rfl
    rw [if_neg (by simp), if_pos rfl]
    dsimp only
    generalize (s.modPort p fun x => { x with light := true }) = u at hport hwake hon' hdom ⊢
    have hst : (u.port p).st = (s.port p).st := by rw [hport]
    have htb : (u.port p).testBit = (s.port p).testBit := by rw [hport]
    have hdb : (u.port p).disableBit = (s.port p).disableBit := by rw [hport]
    by_cases hdown : (s.port p).st = .down
    · rw [if_neg (by simp [hon', hst, hdown]), htb, hdb]
      by_cases htest : ((s.port p).testBit && !(s.port p).disableBit) = true
      · rw [if_pos htest]
        rw [Bool.and_eq_true, Bool.not_eq_true'] at htest
        refine ⟨hwake.trans ((u.modPort_portWake p _).trans (State.requestWake_portWake _ _ _)), ?_, fun _ _ _ => ?_⟩
        · rw [State.requestWake_port, State.port_modPort_self, hport, if_neg (by simp [hdown, htest.2]), if_pos htest.1]
          exact ⟨rfl, rfl⟩
        · exact Woken.congr (State.requestWake_woken (u.modPort p _) (80 + p)) hdom
      · rw [if_neg htest]
        obtain ⟨hwake', hself, hwoken⟩ := u.startTraining_spec p
        refine ⟨hwake.trans hwake', ?_, fun _ _ hdis => ?_⟩
        · rw [hself, hport]
          cases hdis : (s.port p).disableBit with
          | true =>
            have hmay : u.mayTrain p = false := by
              unfold State.mayTrain
              dsimp only
              rw [hdb, hdis]
              simp
            rw [hmay, if_neg Bool.false_ne_true, if_pos (.inr rfl)]
            exact ⟨rfl, rfl⟩
          | false =>
            have hnot : (s.port p).testBit = false := by
              rw [hdis] at htest
              simpa using htest
            have hmay : u.mayTrain p = true := by
              unfold State.mayTrain
              dsimp only
              rw [hdb, hdis, htb, hnot, hport]
              simp [hfit]
            rw [hmay, if_pos rfl, if_neg (by simp [hdown]), if_neg (by rw [hnot]; exact Bool.false_ne_true)]
            exact ⟨rfl, rfl⟩
        · have hnot : (s.port p).testBit = false := by
            rw [hdis] at htest
            simpa using htest
          have hmay : u.mayTrain p = true := by
            unfold State.mayTrain
            dsimp only
            rw [hdb, hdis, htb, hnot, hport]
            simp [hfit]
          exact Woken.congr (hwoken hmay) hdom
    · rw [if_pos (by simp [hst, hdown])]
      refine ⟨hwake, ?_, fun _ h => absurd h hdown⟩
      rw [hport, if_pos (.inl hdown)]
      exact ⟨rfl, rfl⟩

theorem lighten_wakeReq (s : State) (p d : Nat) (h : (s.dom d).wakeReq = true) : ((lighten s p).dom d).wakeReq = true := by
  unfold lighten
  split
  · exact h
  · dsimp only
    split
    · exact h
    · split
      · exact (State.requestWake_wakesOnly ((s.modPort p fun x => { x with light := true }).modPort p fun x => { x with
          st := .test }) (domPort p)).wakeReq d h
      · unfold State.startTraining
        split
        · exact h
        · exact (State.requestWake_wakesOnly ((s.modPort p fun x => { x with light := true }).modPort p fun x => { x with
            st := .training }) (domPort p)).wakeReq d h

theorem lighten_dom_ne (s : State) (p : Nat) {d : Nat} (h : d ≠ 80 + p) : (lighten s p).dom d = s.dom d := by
  unfold lighten
  split
  · rfl
  · dsimp only
    split
    · rfl
    · split
      · exact State.requestWake_dom_ne _ h
      · unfold State.startTraining
        split
        · rfl
        · exact State.requestWake_dom_ne _ h

theorem lightReturn_spec (hbays : s.hasBays = true) (hon : s.portsOn = true) (hinput : s.pwr.inputOn = true)
    (hfit : ∀ p ∈ bayPorts b, (s.port p).fitted = true) :
    PortsWake s (s.lightReturn b) (bayPorts b) (fun _ => Lit) ∧
      ∀ p ∈ bayPorts b, (s.port p).lightUnit = true → (s.port p).st = .down → (s.port p).disableBit = false →
        Woken s (s.lightReturn b) (80 + p) := by
  have hrail : s.railOn 2 = true := by
    have hseq : (s.pwr.seq == .on) = true := by
      unfold State.portsOn at hon
      simp only [Bool.and_eq_true] at hon
      exact hon.1.1
    unfold State.railOn
    rw [hinput, hseq]
    rfl
  have heq : s.lightReturn b = (bayPorts b).foldl lighten s := by
    unfold State.lightReturn
    rw [hbays, hrail, if_neg (by simp)]
    rfl
  have hne : 5 + 2 * b ≠ 4 + 2 * b := by omega
  obtain ⟨hw, hl, hwk⟩ := lighten_spec hon (hfit (4 + 2 * b) List.mem_cons_self)
  have hport := hw.others _ hne
  have hon' : (lighten s (4 + 2 * b)).portsOn = true := by
    have hpwr : (lighten s (4 + 2 * b)).pwr.seq = s.pwr.seq := by
      unfold lighten
      split
      · rfl
      · dsimp only
        split
        · rfl
        · split
          · rw [(State.requestWake_wakesOnly _ _).pwr]
            rfl
          · unfold State.startTraining
            split
            · rfl
            · rw [(State.requestWake_wakesOnly _ _).pwr]
              rfl
    unfold State.portsOn
    rw [hpwr, hw.frame]
    exact hon
  obtain ⟨hw', hl', hwk'⟩ := lighten_spec (s := lighten s (4 + 2 * b)) (p := 5 + 2 * b) hon'
    (by rw [hport]; exact hfit _ (List.mem_cons_of_mem _ List.mem_cons_self))
  rw [heq]
  refine ⟨bay_foldl (R := fun _ => Lit) hne ⟨hw, hl⟩ ⟨hw', hl'⟩, fun p hp hunit hdown hdis => ?_⟩
  show Woken s (lighten (lighten s (4 + 2 * b)) (5 + 2 * b)) (80 + p)
  rcases List.mem_cons.mp hp with rfl | hp
  · exact Woken.of_wakeReq (hwk hunit hdown hdis) (lighten_wakeReq _ _ _)
  · rw [List.mem_singleton.mp hp] at hunit hdown hdis ⊢
    rw [hport] at hwk'
    exact Woken.congr (hwk' hunit hdown hdis) (lighten_dom_ne _ _ (by omega))

theorem laserUnit_spec (seated : Bool) (hbays : s.hasBays = true) :
    s.laserUnit b seated = { s with ports := (s.laserUnit b seated).ports } ∧
      ∀ p, (s.laserUnit b seated).port p =
        if p ∈ bayPorts b then { s.port p with lightUnit := seated } else s.port p := by
  have heq : s.laserUnit b seated = (s.modPort (4 + 2 * b) fun x => { x with lightUnit := seated }).modPort (5 + 2 * b)
      fun x => { x with lightUnit := seated } := by
    unfold State.laserUnit
    rw [hbays, if_neg (by simp)]
    rfl
  rw [heq]
  refine ⟨rfl, fun p => ?_⟩
  by_cases h2 : p = 5 + 2 * b
  · rw [h2, State.port_modPort_self, State.port_modPort_ne _ _ (by omega),
      if_pos (show 5 + 2 * b ∈ bayPorts b from List.mem_cons_of_mem _ List.mem_cons_self)]
  · rw [State.port_modPort_ne _ _ h2]
    by_cases h1 : p = 4 + 2 * b
    · rw [h1, State.port_modPort_self, if_pos (show 4 + 2 * b ∈ bayPorts b from List.mem_cons_self)]
    · rw [State.port_modPort_ne _ _ h1, if_neg]
      intro h
      rcases List.mem_cons.mp h with h | h
      · exact h1 h
      · exact h2 (List.mem_singleton.mp h)

/-! ## The obligation -/

/-- Settles O36: a lemma for each command of the ports and bays. -/
theorem portStatesAndLight : Obligations.PortStatesAndLight := by
  unfold Obligations.PortStatesAndLight
  refine ⟨fun s p hp hon hfit hin => ?_, fun s h p v hp hh hw hown hfit c hc => ?_,
    fun s b hb hbays hon hquiet => ?_, fun s b hb hdark => ?_⟩
  · obtain ⟨hwake, hempty, hcount, hst⟩ := State.portRetrain_spec hin
    refine ⟨fun hup => ⟨_, linkSilence_spec hp hon hup, hwake.cmd, hempty, hst, hcount⟩,
      fun got hgot hmay htr hlevel hent => ?_, fun htr => ?_, fun hdown hmay => ?_, fun hdown hmay => ?_,
      fun hup hfrz hage => ?_, fun hfrz => ⟨nbrTraining_spec hp hon hin hfrz, fun hhold => ?_,
        fun hhold => frozenHold_never hp hhold⟩, fun h v hh hw hown c hc => ?_⟩
    · exact ⟨_, portTrained_spec hp hon hgot hmay htr hlevel hent,
        PortWake.cmd ⟨rfl, fun j hj => State.port_setPort_ne _ _ hj⟩, State.port_setPort_self _ _ _⟩
    · obtain ⟨-, -, hself⟩ := State.portDown_quiet hin
      obtain ⟨he, hc, hs, -⟩ := (s.port p).downed_spec
      refine ⟨_, trainingFails_spec hp hon htr, (PortWake.down hin).cmd, ?_⟩
      dsimp only
      rw [hself]
      exact ⟨he, hc, hs⟩
    · obtain ⟨t, hexec, hcmd, hwoken, hport⟩ := signalDetect_spec hp hon hdown
      rw [hmay, if_pos rfl] at hport
      exact ⟨t, hexec, hcmd, hport, hwoken⟩
    · obtain ⟨t, hexec, hcmd, hwoken, hport⟩ := signalDetect_spec hp hon hdown
      rw [hmay, if_neg Bool.false_ne_true] at hport
      exact ⟨t, hexec, hcmd, hport, hwoken⟩
    · exact ⟨_, nbrDead_spec hp hon hfit hup hfrz hage,
        PortWake.cmd ⟨rfl, fun j hj => State.port_setPort_ne _ _ hj⟩, State.port_setPort_self _ _ _⟩
    · exact ⟨_, frozenHold_spec hp hon hfrz hhold, hwake.cmd, hempty, hst, hcount⟩
    · obtain ⟨hcmd, hctrl⟩ := lnkCtrl_controlled (v := v) hw hown hfit hon hin
      refine ⟨_, exec_lnkCtrl hh hp v hc, hcmd, hctrl.disableBit, hctrl.testBit, hctrl.disable, hctrl.test,
        fun h1 h2 h0 => ?_, hctrl.keep⟩
      obtain ⟨he, hs, hd⟩ := hctrl.retrain h1 h2 h0
      exact ⟨he, hs, hd⟩
  · refine ⟨_, (exec_lnkCtrl hh hp v hc).trans (congrArg _ (lnkCtrl_unfitted hw hown hfit)), rfl,
      fun j hj => ?_, ?_⟩
    · exact State.port_setPort_ne _ _ hj
    · exact State.port_setPort_self _ _ _
  · have hfrz : s.frz.frozen = false := by
      unfold State.portsOn at hon
      simp only [Bool.and_eq_true, Bool.not_eq_true'] at hon
      exact hon.1.2
    have hexec : ∀ {u : State}, guarded (isBay b) u = .next u := guarded_ok (decide_eq_true hb) _
    refine ⟨?_, ?_, ?_, fun hinput => ?_⟩
    · obtain ⟨hframe, hdark, hothers⟩ := lightLoss_spec hbays hfrz hquiet
      refine ⟨_, hexec, hframe, fun p hp => ?_, hothers⟩
      obtain ⟨h1, h2, h3, -⟩ := hdark p hp
      exact ⟨h1, h2, h3⟩
    · obtain ⟨huframe, huport⟩ := laserUnit_spec (b := b) false hbays
      have hin : ∀ p ∈ bayPorts b, (s.laserUnit b false).port p = { s.port p with lightUnit := false } := fun p hp => by
        rw [huport, if_pos hp]
      obtain ⟨hframe, hdark, hothers⟩ := lightLoss_spec (s := s.laserUnit b false) (b := b)
        (by rw [huframe]; exact hbays) (by rw [huframe]; exact hfrz) (fun p hp => by rw [hin p hp]; exact hquiet p hp)
      refine ⟨_, hexec, ?_, fun p hp => ?_, fun p hp => ?_⟩
      · have hswap : ∀ x, { s.laserUnit b false with ports := x } = { s with ports := x } := fun x => by rw [huframe]
        exact hframe.trans (hswap _)
      · obtain ⟨h1, h2, -, h4⟩ := hdark p hp
        rw [hin p hp] at h4
        exact ⟨h1, h2, h4⟩
      · rw [hothers p hp, huport, if_neg hp]
    · obtain ⟨huframe, huport⟩ := laserUnit_spec (b := b) true hbays
      exact ⟨_, hexec, huframe, huport⟩
    · obtain ⟨⟨hframe, hchanged, hothers⟩, hwoken⟩ := lightReturn_spec hbays hon hinput fun p hp => (hquiet p hp).1
      refine ⟨_, hexec, hframe, fun p hp => ?_, hothers⟩
      have hlit := hchanged p hp
      unfold Lit at hlit
      split
      · next hunit =>
        rw [if_pos hunit] at hlit
        exact ⟨hlit.1, hlit.2, hwoken p hp hunit⟩
      · next hunit =>
        rw [if_neg hunit] at hlit
        exact hlit
  · refine (guarded_ok (decide_eq_true hb) _).trans (congrArg _ ?_)
    have hrail : s.railOn 2 = false := by
      unfold State.railOn
      rcases hdark with h | ⟨hseq, hsteps⟩
      · rw [h, Bool.false_and]
      · rw [hsteps]
        simp [hseq, railStep]
    unfold State.lightReturn
    rw [hrail, if_pos (by simp)]

end Sys2Proof.Machine
end

section
/-!
SUPPORT. Heads of packets (R277, R288).
-/
namespace Sys2Proof.Machine

variable {s t u : State} {d k : Nat} {p q : Packet}

/-! ## What a lookup leaves of the ports (R277 to R282) -/

/-- A router's lookup leaves of a port all but its queue and its count of discarded packets. -/
def QueueOnly (x y : Port) : Prop := y = { x with queue := y.queue, downDrop := y.downDrop }

theorem State.enqueue_queueOnly (s : State) (p : Nat) (q : QPkt) (j : Nat) :
    QueueOnly (s.port j) ((s.enqueue p q).port j) := by
  by_cases hj : j = p
  · subst hj
    unfold State.enqueue
    rw [State.port_modPort_self]
    split
    · rfl
    · rfl
  · rw [s.enqueue_port_ne q hj]
    rfl

theorem State.routeAt_queueOnly (s : State) (d : Nat) (p : Packet) (cls chan : Nat) (whole : Bool)
    (inp : Option (Nat × Nat)) (j : Nat) : QueueOnly (s.port j) ((s.routeAt d p cls chan whole inp).port j) := by
  unfold State.routeAt
  dsimp only
  generalize (if s.half p.epoch == .loading then 0
    else s.entry d p.epoch (p.tc.toNat * 2 ^ 17 + p.dest.toNat)) = entry
  split
  · rfl
  · split
    · rfl
    · split
      · split
        · rfl
        · exact s.enqueue_queueOnly _ _ j
      · split
        · split
          · rfl
          · rfl
        · split
          · rfl
          · rfl

theorem State.routeAt_frame (s : State) (d : Nat) (p : Packet) (cls chan : Nat) (whole : Bool)
    (inp : Option (Nat × Nat)) : s.routeAt d p cls chan whole inp = { s with
      ports := (s.routeAt d p cls chan whole inp).ports, rte := (s.routeAt d p cls chan whole inp).rte } := by
  have hframe := (State.routeAt_sendsOnly (o := none) (s := s) d p cls chan whole inp).frame
  have heng : (s.routeAt d p cls chan whole inp).engines = s.engines := State.routeAt_engines d p cls chan whole inp
  rw [heng] at hframe
  exact hframe

/-- What a lookup does depends on the routers, on the slice, and on each port's state, queue and count. -/
theorem Routed.congr {cls chan : Nat} {whole : Bool} {inp : Option (Nat × Nat)} (h : Routed u t d p cls chan whole inp)
    (hrte : u.rte = s.rte) (hcfg : u.cfg = s.cfg) (hst : ∀ j, (u.port j).st = (s.port j).st)
    (hqueue : ∀ j, (u.port j).queue = (s.port j).queue) (hdrop : ∀ j, (u.port j).downDrop = (s.port j).downDrop) :
    Routed s t d p cls chan whole inp := by
  have hhalf : u.half = s.half := by
    funext ep
    unfold State.half
    rw [hrte]
  have hentry : u.entry = s.entry := by
    funext d ep i
    unfold State.entry
    rw [hrte]
  unfold Routed at *
  rw [hhalf, hentry, hrte, hcfg] at h
  simp only [hst, hqueue, hdrop] at h
  exact h

/-! ## A head (R277, R288) -/

/-- A port that has taken the flits of a head. -/
def Port.tookHead (x : Port) (p : Packet) : Port := { x with
  rxCount := Tab.put 0 x.rxCount (2 * p.tc.toNat + b2n p.dl)
    (Tab.get 0 x.rxCount (2 * p.tc.toNat + b2n p.dl) + BitVec.ofNat 16 (flitsOf p.payload.length))
  dropBody := false }

theorem exec_headPort (hd : d < 4) (hk : k < 10) :
    exec (.packetHeadArrival d (.port k) p) s = .next (s.headPort d k p) :=
  guarded_ok (show (isDie d && Arrival.wf (.port k)) = true from
    Bool.and_eq_true _ _ |>.mpr ⟨decide_eq_true hd, decide_eq_true hk⟩) _

theorem State.headPort_eq (hlink : s.linkOn k = true) (hown : ownerDie k = d) : s.headPort d k p =
    let u := (s.dropIncoming k Port.countStall).modPort k fun x => x.tookHead p
    if p.hcrc ≠ hcrcOf p then u.modPort k fun x => { x with hcrcBad := satAdd 64 x.hcrcBad 1, dropBody := true }
    else if p.len > 4096 then u.modPort k fun x => { x with crcBad := satAdd 64 x.crcBad 1, dropBody := true }
    else (u.modPort k fun x => { x with incoming := some p, incomingAt := u.gen.time }).routeAt d p (axisOf k) 0 false
      (some (k, 2 * p.tc.toNat + b2n p.dl)) := by
  unfold State.headPort
  rw [if_neg (by simp [hlink, hown])]
  rfl

theorem State.dropIncoming_none (hin : (s.port k).incoming = none) (f : Port → Port) : s.dropIncoming k f = s := by
  unfold State.dropIncoming
  rw [hin]

section
variable (hd : d < 4) (hk : k < 10) (hown : ownerDie k = d) (hlink : s.linkOn k = true)
include hd hk hown hlink

omit hown hlink in
/-- A bad head: nothing of it is kept, and its port counts it by `f`. -/
theorem head_dropped (f : Port → Port) (hf : ∀ x, (f x).queue = x.queue)
    (heq : s.headPort d k p = (s.modPort k fun x => x.tookHead p).modPort k f) :
    ∃ t, exec (.packetHeadArrival d (.port k) p) s = .next t ∧ t = { s with ports := t.ports } ∧
      t.port k = f ((s.port k).tookHead p) ∧ ∀ j, (t.port j).queue = (s.port j).queue := by
  refine ⟨_, (exec_headPort hd hk).trans (congrArg _ heq), rfl, ?_, fun j => ?_⟩
  · rw [State.port_modPort_self, State.port_modPort_self]
  · by_cases hj : j = k
    · rw [hj, State.port_modPort_self, State.port_modPort_self, hf]
      rfl
    · rw [State.port_modPort_ne _ _ hj, State.port_modPort_ne _ _ hj]

theorem head_badHcrc (hin : (s.port k).incoming = none) (hbad : p.hcrc ≠ hcrcOf p) :
    ∃ t, exec (.packetHeadArrival d (.port k) p) s = .next t ∧ t = { s with ports := t.ports } ∧
      (t.port k).hcrcBad = min ((s.port k).hcrcBad + 1) (2 ^ 64 - 1) ∧ (t.port k).dropBody = true ∧
      (t.port k).incoming = none ∧ ∀ j, (t.port j).queue = (s.port j).queue := by
  obtain ⟨t, hexec, hframe, hport, hqueue⟩ := head_dropped (p := p) hd hk
    (fun x => { x with hcrcBad := satAdd 64 x.hcrcBad 1, dropBody := true }) (fun _ => rfl) (by
      rw [State.headPort_eq hlink hown, State.dropIncoming_none hin]
      exact if_pos hbad)
  refine ⟨t, hexec, hframe, ?_, ?_, ?_, hqueue⟩
  · rw [hport]
    rfl
  · rw [hport]
  · rw [hport]
    exact hin

theorem head_tooLong (hin : (s.port k).incoming = none) (hgood : p.hcrc = hcrcOf p) (hlen : 4096 < p.len) :
    ∃ t, exec (.packetHeadArrival d (.port k) p) s = .next t ∧ t = { s with ports := t.ports } ∧
      (t.port k).crcBad = min ((s.port k).crcBad + 1) (2 ^ 64 - 1) ∧ (t.port k).dropBody = true ∧
      (t.port k).incoming = none ∧ ∀ j, (t.port j).queue = (s.port j).queue := by
  obtain ⟨t, hexec, hframe, hport, hqueue⟩ := head_dropped (p := p) hd hk
    (fun x => { x with crcBad := satAdd 64 x.crcBad 1, dropBody := true }) (fun _ => rfl) (by
      rw [State.headPort_eq hlink hown, State.dropIncoming_none hin]
      exact (if_neg (not_not_intro hgood)).trans (if_pos hlen))
  refine ⟨t, hexec, hframe, ?_, ?_, ?_, hqueue⟩
  · rw [hport]
    rfl
  · rw [hport]
  · rw [hport]
    exact hin

theorem head_routed (hin : (s.port k).incoming = none) (hgood : p.hcrc = hcrcOf p) (hlen : p.len ≤ 4096) :
    ∃ t, exec (.packetHeadArrival d (.port k) p) s = .next t ∧ t = { s with ports := t.ports, rte := t.rte } ∧
      (t.port k).incoming = some p ∧ (t.port k).incomingAt = s.gen.time ∧
      Tab.get 0 (t.port k).rxCount (2 * p.tc.toNat + b2n p.dl) =
        Tab.get 0 (s.port k).rxCount (2 * p.tc.toNat + b2n p.dl) + BitVec.ofNat 16 (flitsOf p.payload.length) ∧
      Routed s t d p (axisOf k) 0 false (some (k, 2 * p.tc.toNat + b2n p.dl)) := by
  have heq := State.headPort_eq (p := p) hlink hown
  rw [State.dropIncoming_none hin] at heq
  dsimp only at heq
  rw [if_neg (not_not_intro hgood), if_neg (by exact BitVec.not_lt.mpr hlen)] at heq
  have hport : ((s.modPort k fun x => x.tookHead p).modPort k fun x => { x with
      incoming := some p, incomingAt := (s.modPort k fun x => x.tookHead p).gen.time }).port k =
      { (s.port k).tookHead p with incoming := some p, incomingAt := s.gen.time } := by
    rw [State.port_modPort_self, State.port_modPort_self]
    rfl
  have hothers : ∀ j, j ≠ k → ((s.modPort k fun x => x.tookHead p).modPort k fun x => { x with
      incoming := some p, incomingAt := (s.modPort k fun x => x.tookHead p).gen.time }).port j = s.port j := fun j hj => by
    rw [State.port_modPort_ne _ _ hj, State.port_modPort_ne _ _ hj]
  have hframe : ((s.modPort k fun x => x.tookHead p).modPort k fun x => { x with
      incoming := some p, incomingAt := (s.modPort k fun x => x.tookHead p).gen.time }) = { s with
      ports := ((s.modPort k fun x => x.tookHead p).modPort k fun x => { x with
        incoming := some p, incomingAt := (s.modPort k fun x => x.tookHead p).gen.time }).ports } := rfl
  generalize ((s.modPort k fun x => x.tookHead p).modPort k fun x => { x with
    incoming := some p, incomingAt := (s.modPort k fun x => x.tookHead p).gen.time }) = u at heq hport hothers hframe
  have hrouted := u.routeAt_routed d p (axisOf k) 0 false (some (k, 2 * p.tc.toNat + b2n p.dl))
  have hqueue := u.routeAt_queueOnly d p (axisOf k) 0 false (some (k, 2 * p.tc.toNat + b2n p.dl)) k
  have hrframe := u.routeAt_frame d p (axisOf k) 0 false (some (k, 2 * p.tc.toNat + b2n p.dl))
  generalize u.routeAt d p (axisOf k) 0 false (some (k, 2 * p.tc.toNat + b2n p.dl)) = t at heq hrouted hqueue hrframe
  have hsame : ∀ j, (u.port j).st = (s.port j).st ∧ (u.port j).queue = (s.port j).queue ∧
      (u.port j).downDrop = (s.port j).downDrop := fun j => by
    by_cases hj : j = k
    · rw [hj, hport]
      exact ⟨rfl, rfl, rfl⟩
    · rw [hothers j hj]
      exact ⟨rfl, rfl, rfl⟩
  refine ⟨t, (exec_headPort hd hk).trans (congrArg _ heq), ?_, ?_, ?_, ?_, Routed.congr hrouted (by rw [hframe]) (by rw [hframe])
    (fun j => (hsame j).1) (fun j => (hsame j).2.1) fun j => (hsame j).2.2⟩
  · have hswap : ∀ a b, { u with ports := a, rte := b } = { s with ports := a, rte := b } := fun a b => by rw [hframe]
    exact hrframe.trans (hswap _ _)
  · rw [hqueue, hport]
  · rw [hqueue, hport]
  · rw [hqueue, hport]
    exact Tab.get_put_self ..

/-- A head ends the packet before it whose trailer has not come. -/
theorem head_ends (hin : (s.port k).incoming = some q) : ∃ v,
    TrailerFailed (s.setPort k { s.port k with
      incoming := none, stallDrop := min ((s.port k).stallDrop + 1) (2 ^ 64 - 1) }) v d q ∧
    exec (.packetHeadArrival d (.port k) p) s = exec (.packetHeadArrival d (.port k) p) v := by
  have hdrop : s.dropIncoming k Port.countStall = (s.setPort k { s.port k with
      incoming := none, stallDrop := min ((s.port k).stallDrop + 1) (2 ^ 64 - 1) }).dropPart d q := by
    unfold State.dropIncoming
    rw [hin, hown]
    rfl
  have hfail := (s.setPort k { s.port k with
      incoming := none, stallDrop := min ((s.port k).stallDrop + 1) (2 ^ 64 - 1) }).dropPart_failed d q
  have hself := s.port_setPort_self k { s.port k with
      incoming := none, stallDrop := min ((s.port k).stallDrop + 1) (2 ^ 64 - 1) }
  have hon : (s.setPort k { s.port k with
      incoming := none, stallDrop := min ((s.port k).stallDrop + 1) (2 ^ 64 - 1) }).portsOn = s.portsOn := rfl
  generalize s.setPort k { s.port k with
      incoming := none, stallDrop := min ((s.port k).stallDrop + 1) (2 ^ 64 - 1) } = u at hdrop hfail hself hon ⊢
  refine ⟨u.dropPart d q, hfail, ?_⟩
  generalize u.dropPart d q = v at hdrop hfail
  obtain ⟨hframe, -, -, -, -, hports⟩ := hfail
  obtain ⟨hnone, hsome⟩ := (hports k).1 ⟨hk, hown⟩
  have hport : (v.port k).st = (s.port k).st ∧ (v.port k).incoming = none := by
    cases hb : (u.port k).cut.find? fun y => samePkt y.pkt q with
    | none =>
      rw [(hnone hb).1, hself]
      exact ⟨rfl, rfl⟩
    | some y =>
      rw [hsome y hb, hself]
      exact ⟨rfl, rfl⟩
  have hlink' : v.linkOn k = true := by
    have hvon : v.portsOn = u.portsOn := by
      rw [hframe]
      rfl
    unfold State.linkOn
    rw [hvon, hon, hport.1]
    exact hlink
  rw [exec_headPort hd hk, exec_headPort hd hk, State.headPort_eq hlink hown, State.headPort_eq hlink' hown,
    State.dropIncoming_none hport.2, hdrop]
end

/-- A head that crosses mortar. -/
theorem head_mortar (hd : d < 4) (hon : s.portsOn = true) {m : Transit}
    (hm : s.rte.mortar.find? (fun x => x.die = d && samePkt x.pkt p) = some m) :
    ∃ t, exec (.packetHeadArrival d .mortar p) s = .next t ∧ t = { s with ports := t.ports, rte := t.rte } ∧
      Routed { s with rte := { s.rte with mortar := s.rte.mortar.erase m } } t d m.pkt m.cls m.chan m.whole none := by
  refine ⟨_, guarded_ok (show (isDie d && Arrival.wf .mortar) = true from
    Bool.and_eq_true _ _ |>.mpr ⟨decide_eq_true hd, rfl⟩) _, ?_⟩
  unfold State.headMortar
  rw [hon, if_neg (by simp), hm]
  exact ⟨State.routeAt_frame { s with rte := { s.rte with mortar := s.rte.mortar.erase m } } _ _ _ _ _ _,
    State.routeAt_routed { s with rte := { s.rte with mortar := s.rte.mortar.erase m } } _ _ _ _ _ _⟩

end Sys2Proof.Machine
end

section
/-!
SUPPORT. Trailers, the stall bound, the age limit (R288, R289, R293) and what an output port sends (R258, R260).
-/
namespace Sys2Proof.Machine

variable {s : State} {d k : Nat} {p q : Packet}

/-! ## Trailers (R288) -/

section
variable (hd : d < 4) (hk : k < 10) (hown : ownerDie k = d) (hin : (s.port k).incoming = some q)
  (hsame : samePkt q p = true)
include hd hk hown hin hsame

theorem trailer_port (hlink : s.linkOn k = true) :
    ∃ t, exec (.packetTrailerArrival d (.port k) p) s = .next t ∧
      (trailerOk p = true → TrailerPassed (s.setPort k { s.port k with incoming := none }) t d p) ∧
      (trailerOk p = false → TrailerFailed (s.setPort k { s.port k with
        incoming := none
        crcBad := if p.discard then (s.port k).crcBad else min ((s.port k).crcBad + 1) (2 ^ 64 - 1) }) t d p) := by
  have hexec : exec (.packetTrailerArrival d (.port k) p) s = .next (s.trailer d (.port k) p) :=
    guarded_ok (show (isDie d && Arrival.wf (.port k)) = true from
      Bool.and_eq_true _ _ |>.mpr ⟨decide_eq_true hd, decide_eq_true hk⟩) _
  have heq : s.trailer d (.port k) p =
      let u := s.setPort k { s.port k with
        incoming := none
        crcBad := if trailerOk p || p.discard then (s.port k).crcBad else satAdd 64 (s.port k).crcBad 1 }
      if trailerOk p then u.wholePart d p else u.dropPart d p := by
    unfold State.trailer
    dsimp only
    rw [if_neg (by simp [hlink, hown]), hin]
    dsimp only
    rw [hsame, if_neg (by simp)]
    rfl
  refine ⟨_, hexec.trans (congrArg _ heq), fun hok => ?_, fun hbad => ?_⟩
  · dsimp only
    rw [hok, if_pos rfl, if_pos (by simp)]
    exact State.wholePart_passed _ _ _
  · dsimp only
    rw [hbad, if_neg Bool.false_ne_true, Bool.false_or]
    exact State.dropPart_failed _ _ _

omit hd in
/-- The stall bound ends a packet whose tail has not come (R289). -/
theorem stall_ends (hon : s.portsOn = true) (hst : (s.port k).st = .up)
    (hdue : (s.port k).incomingAt + max 25 (s.port k).stall.toNat ≤ s.gen.time) :
    ∃ v, TrailerFailed (s.setPort k { s.port k with
        incoming := none, stallDrop := min ((s.port k).stallDrop + 1) (2 ^ 64 - 1) }) v d q ∧
      exec (.stallTimeout k p) s = .next (v.setPort k { v.port k with dropBody := true }) := by
  refine ⟨_, State.dropPart_failed _ d q, (guarded_ok (decide_eq_true hk) _).trans (congrArg _ ?_)⟩
  have hwait : ¬ (s.gen.time < (s.port k).incomingAt + (s.port k).stallCycles) := by
    unfold Port.stallCycles
    omega
  unfold State.stallTimeout
  rw [if_neg (by simp [hon, hst, hwait]), hin]
  dsimp only
  rw [hsame, if_neg (by simp)]
  unfold State.dropIncoming
  rw [hin]
  dsimp only
  rw [hown]
  rfl
end

theorem stall_waits (hk : k < 10) (h : s.gen.time < (s.port k).incomingAt + max 25 (s.port k).stall.toNat) :
    exec (.stallTimeout k p) s = .next s := by
  refine (guarded_ok (decide_eq_true hk) _).trans (congrArg _ ?_)
  have hwait : s.gen.time < (s.port k).incomingAt + (s.port k).stallCycles := h
  unfold State.stallTimeout
  rw [if_pos]
  rw [decide_eq_true hwait, Bool.or_true]

/-- The trailer that follows its head over mortar. -/
def State.followsTail (s : State) (d : Nat) (p : Packet) : Option Tail :=
  s.rte.tails.find? fun y => y.die == d && y.passed && samePkt y.pkt p

section
variable (hd : d < 4) (hon : s.portsOn = true)
include hd hon

theorem exec_trailerMortar : exec (.packetTrailerArrival d .mortar p) s = .next (s.trailerMortar d p) := by
  refine (guarded_ok (show (isDie d && Arrival.wf .mortar) = true from
    Bool.and_eq_true _ _ |>.mpr ⟨decide_eq_true hd, rfl⟩) _).trans (congrArg _ ?_)
  unfold State.trailer
  dsimp only
  rw [hon, if_neg (by simp)]

theorem trailer_waits (h : s.followsTail d p = none ∨ ¬ s.rte.crossing d p < s.rte.following d p) :
    exec (.packetTrailerArrival d .mortar p) s = .next s := by
  refine (exec_trailerMortar hd hon).trans (congrArg _ ?_)
  unfold State.trailerMortar
  cases hf : s.followsTail d p with
  | none =>
    have hfind : (s.rte.tails.find? fun t => t.die == d && t.passed && samePkt t.pkt p) = none := hf
    rw [hfind]
  | some y =>
    have hfind : (s.rte.tails.find? fun t => t.die == d && t.passed && samePkt t.pkt p) = some y := hf
    rw [hfind]
    rcases h with h | h
    · exact absurd (h.symm.trans hf) nofun
    · exact if_pos (by omega)

theorem trailer_follows {y : Tail} (hf : s.followsTail d p = some y) (hbehind : s.rte.crossing d p < s.rte.following d p) :
    ∃ t, exec (.packetTrailerArrival d .mortar p) s = .next t ∧
      (y.bad = false → trailerOk p = true →
        TrailerPassed { s with rte := { s.rte with tails := s.rte.tails.erase y } } t d p) ∧
      (y.bad = true ∨ trailerOk p = false →
        TrailerFailed { s with rte := { s.rte with tails := s.rte.tails.erase y } } t d p) := by
  have heq : s.trailerMortar d p =
      let u : State := { s with rte := { s.rte with tails := s.rte.tails.erase y } }
      if (y.bad || !trailerOk p) = true then u.dropPart d p else u.wholePart d p := by
    unfold State.trailerMortar
    have hfind : (s.rte.tails.find? fun t => t.die == d && t.passed && samePkt t.pkt p) = some y := hf
    rw [hfind]
    exact if_neg (by omega)
  refine ⟨_, (exec_trailerMortar hd hon).trans (congrArg _ heq), fun hy hok => ?_, fun hbad => ?_⟩
  · dsimp only
    rw [hy, hok, if_neg (by simp)]
    exact State.wholePart_passed _ _ _
  · dsimp only
    rw [if_pos]
    · exact State.dropPart_failed _ _ _
    · rcases hbad with h | h
      · rw [h, Bool.true_or]
      · rw [h, Bool.not_false, Bool.or_true]
end

/-! ## The age limit (R293) -/

/-- Port `j` of die `d` holds a copy of the packet that may age. -/
def Ages (s : State) (d : Nat) (p : Packet) (j : Nat) : Prop :=
  ownerDie j = d ∧ (s.port j).st ≠ .frozen ∧ ∃ y ∈ (s.port j).queue, samePkt y.pkt p = true

/-- The port from whose queue an aged packet is taken. -/
def State.agingPort (s : State) (d : Nat) (p : Packet) : Option Nat :=
  (List.range 10).find? fun k => ownerDie k = d && (s.port k).st != .frozen && (s.port k).queue.any fun y => samePkt y.pkt p

theorem ages_iff (j : Nat) : (decide (ownerDie j = d) && (s.port j).st != .frozen &&
    (s.port j).queue.any fun y => samePkt y.pkt p) = true ↔ Ages s d p j := by
  unfold Ages
  simp [and_assoc]

theorem agingPort_some (hk : k < 10) (h : Ages s d p k) (hfirst : ∀ j < k, ¬ Ages s d p j) : s.agingPort d p = some k := by
  unfold State.agingPort
  rw [List.find?_range_eq_some]
  exact ⟨(ages_iff k).mpr h, List.mem_range.mpr hk, fun j hj => by
    rw [Bool.not_eq_true', ← Bool.not_eq_true]
    exact fun h' => hfirst j hj ((ages_iff j).mp h')⟩

theorem agingPort_none (h : ∀ j < 10, ¬ Ages s d p j) : s.agingPort d p = none := by
  unfold State.agingPort
  rw [List.find?_eq_none]
  exact fun j hj hc => h j (List.mem_range.mp hj) ((ages_iff j).mp hc)

/-- A packet has been counted as aged on die `d`. -/
def State.countAged (s : State) (d : Nat) : State := s.modCtr d fun c => { c with aged := satAdd 64 c.aged 1 }

theorem State.countAged_port (s : State) (d j : Nat) : (s.countAged d).port j = s.port j := rfl

theorem State.countAged_spec (s : State) (d : Nat) :
    s.countAged d = { s with rte := { s.rte with ctrs := (s.countAged d).rte.ctrs } } ∧
    (Tab.get DieCtr.reset (s.countAged d).rte.ctrs d).aged =
      min ((Tab.get DieCtr.reset s.rte.ctrs d).aged + 1) (2 ^ 64 - 1) := by
  refine ⟨rfl, ?_⟩
  show (Tab.get DieCtr.reset (Tab.put DieCtr.reset s.rte.ctrs d _) d).aged = _
  rw [Tab.get_put_self]
  rfl

section
variable (hd : d < 4) (hon : s.portsOn = true)
include hd hon

theorem exec_packetAged : exec (.packetAged d p) s = .next (match s.agingPort d p with
    | some k => (s.modPort k fun x => { x with queue := x.queue.eraseP fun y => samePkt y.pkt p }).countAged d
    | none => match s.rte.mortar.find? fun t => t.die = d && samePkt t.pkt p with
      | some t => (s.modRte fun r => { r with
          mortar := r.mortar.erase t
          tails := if t.whole then r.tails
            else dropNth (fun y => y.die == d && samePkt y.pkt p) (r.following d p - r.crossing d p) r.tails }).countAged d
      | none => match s.rte.arrived.find? fun a => a.die == d && samePkt a.pkt p with
        | some a => (s.modRte fun r => { r with arrived := r.arrived.erase a }).countAged d
        | none => s) := by
  refine (guarded_ok (decide_eq_true hd) _).trans (congrArg _ ?_)
  unfold State.packetAged
  dsimp only
  rw [hon, if_neg (by simp)]
  rfl

theorem aged_queue (hk : k < 10) (h : Ages s d p k) (hfirst : ∀ j < k, ¬ Ages s d p j) :
    ∃ t, exec (.packetAged d p) s = .next t ∧ t = { s with ports := t.ports, rte := t.rte } ∧
      (Tab.get DieCtr.reset t.rte.ctrs d).aged = min ((Tab.get DieCtr.reset s.rte.ctrs d).aged + 1) (2 ^ 64 - 1) ∧
      t.rte = { s.rte with ctrs := t.rte.ctrs } ∧ (∀ j, j ≠ k → t.port j = s.port j) ∧
      t.port k = { s.port k with queue := (t.port k).queue } ∧
      FirstTaken (fun y => samePkt y.pkt p) (s.port k).queue (t.port k).queue := by
  have hexec := exec_packetAged (p := p) hd hon
  rw [agingPort_some hk h hfirst] at hexec
  dsimp only at hexec
  obtain ⟨hframe, hcount⟩ := (s.modPort k fun x => { x with
    queue := x.queue.eraseP fun y => samePkt y.pkt p }).countAged_spec d
  have hport : ((s.modPort k fun x => { x with queue := x.queue.eraseP fun y => samePkt y.pkt p }).countAged d).port k =
      { s.port k with queue := (s.port k).queue.eraseP fun y => samePkt y.pkt p } := by
    rw [State.countAged_port, State.port_modPort_self]
  refine ⟨_, hexec, hframe, hcount, rfl, fun j hj => ?_, ?_, ?_⟩
  · rw [State.countAged_port, State.port_modPort_ne _ _ hj]
  · rw [hport]
  · rw [hport]
    exact eraseP_spec _ _

theorem aged_mortar (h : ∀ j < 10, ¬ Ages s d p j) {m : Transit}
    (hm : s.rte.mortar.find? (fun m => m.die = d && samePkt m.pkt p) = some m) :
    ∃ t, exec (.packetAged d p) s = .next t ∧ t = { s with rte := t.rte } ∧
      (Tab.get DieCtr.reset t.rte.ctrs d).aged = min ((Tab.get DieCtr.reset s.rte.ctrs d).aged + 1) (2 ^ 64 - 1) ∧
      t.rte = { s.rte with ctrs := t.rte.ctrs, mortar := s.rte.mortar.erase m, tails := t.rte.tails } ∧
      t.rte.tails = if m.whole then s.rte.tails
        else dropNth (fun y => y.die == d && samePkt y.pkt p) (s.rte.following d p - s.rte.crossing d p) s.rte.tails := by
  have hexec := exec_packetAged (p := p) hd hon
  rw [agingPort_none h, hm] at hexec
  exact ⟨_, hexec, rfl, (State.countAged_spec _ d).2, rfl, rfl⟩

theorem aged_elsewhere (h : ∀ j < 10, ¬ Ages s d p j) (hm : ∀ m ∈ s.rte.mortar, m.die = d → samePkt m.pkt p = false) :
    exec (.packetAged d p) s = .next (match s.rte.arrived.find? fun a => a.die == d && samePkt a.pkt p with
      | some a => (s.modRte fun r => { r with arrived := r.arrived.erase a }).countAged d
      | none => s) := by
  have hexec := exec_packetAged (p := p) hd hon
  have hnone : (s.rte.mortar.find? fun t => t.die = d && samePkt t.pkt p) = none :=
    List.find?_eq_none.mpr fun m hmem hc => by
      rw [Bool.and_eq_true, decide_eq_true_iff] at hc
      exact Bool.false_ne_true ((hm m hmem hc.1).symm.trans hc.2)
  rw [agingPort_none h, hnone] at hexec
  exact hexec
end

/-! ## What an output port sends (R258, R260) -/

theorem candidates_spec {x : Port} {q : QPkt} (h : q ∈ x.candidates) :
    q ∈ x.queue ∧ flitsOf q.pkt.payload.length ≤ x.credits q.vc := by
  unfold Port.candidates at h
  obtain ⟨v, -, hv⟩ := List.mem_filterMap.mp h
  split at hv
  next y hfind =>
    split at hv
    next hle =>
      cases hv
      have hvc : q.vc = v := by simpa using List.find?_some hfind
      exact ⟨List.mem_of_find?_eq_some hfind, by rw [hvc]; exact hle⟩
    next => exact absurd hv nofun
  next => exact absurd hv nofun

theorem pickClass_spec {x : Port} {cs : List QPkt} {tc : Nat} {q : QPkt} (h : x.pickClass cs tc = some q) :
    q ∈ cs ∧ q.pkt.tc.toNat = tc := by
  have hmem : q ∈ cs.filter fun q => q.pkt.tc.toNat = tc := by
    unfold Port.pickClass at h
    dsimp only at h
    split at h
    next y hfind =>
      cases h
      exact List.mem_of_find?_eq_some hfind
    next => exact List.mem_of_head? h
  rw [List.mem_filter, decide_eq_true_iff] at hmem
  exact hmem

theorem pickClass_some {x : Port} {cs : List QPkt} {tc : Nat} {q : QPkt} (hq : q ∈ cs) (htc : q.pkt.tc.toNat = tc) :
    ∃ y, x.pickClass cs tc = some y := by
  have hmem : q ∈ cs.filter fun q => q.pkt.tc.toNat = tc := List.mem_filter.mpr ⟨hq, decide_eq_true htc⟩
  unfold Port.pickClass
  dsimp only
  split
  next y _ => exact ⟨y, rfl⟩
  next =>
    generalize (cs.filter fun q => q.pkt.tc.toNat = tc) = l at hmem
    cases l with
    | nil => exact absurd hmem List.not_mem_nil
    | cons y l => exact ⟨y, rfl⟩

theorem arbitrate_candidate {q : QPkt} {left : List Nat} (h : s.arbitrate k = some (q, left)) : q ∈ (s.port k).candidates := by
  have hweighted : ∀ {ws : Option (Nat × List Nat)}, (match ws with
      | none => none
      | some (tc, l) => ((s.port k).pickClass (s.port k).candidates tc).map fun q => (q, l)) = some (q, left) →
      q ∈ (s.port k).candidates := fun {ws} hw => by
    split at hw
    next => exact absurd hw nofun
    next tc l =>
      obtain ⟨y, hy, heq⟩ := Option.map_eq_some_iff.mp hw
      cases heq
      exact (pickClass_spec hy).1
  unfold State.arbitrate at h
  dsimp only at h
  split at h
  next y hstrict =>
    split at h
    next =>
      cases h
      obtain ⟨tc, -, hpick⟩ := List.exists_of_findSome?_eq_some hstrict
      exact (pickClass_spec hpick).1
    next => exact hweighted h
  next => exact hweighted h

theorem flitsOf_le {n : Nat} (h : n ≤ 4096) : flitsOf n ≤ 64 := by
  unfold flitsOf pad8
  omega

/-- A class 5 packet that may go goes first. -/
theorem arbitrate_first {q : QPkt} {left : List Nat} (h : s.arbitrate k = some (q, left)) (hrecent : (s.port k).recent = [])
    (hlen : ∀ y ∈ (s.port k).candidates, y.pkt.tc = 5 → y.pkt.payload.length ≤ 4096)
    (hfive : ∃ y ∈ (s.port k).candidates, y.pkt.tc = 5) : q.pkt.tc = 5 := by
  obtain ⟨y, hy, htc⟩ := hfive
  have htcs : ∀ {z : QPkt}, z.pkt.tc.toNat = 5 → z.pkt.tc = 5 := fun hz => BitVec.eq_of_toNat_eq hz
  obtain ⟨z, hz⟩ := pickClass_some (x := s.port k) hy (tc := 5) (by rw [htc]; rfl)
  obtain ⟨hmem, hztc⟩ := pickClass_spec hz
  have hstrict : ([5, 0, 4].findSome? fun tc => (s.port k).pickClass (s.port k).candidates tc) = some z := by
    rw [List.findSome?_cons, hz]
  have hfew := flitsOf_le (hlen z hmem (htcs hztc))
  unfold State.arbitrate at h
  dsimp only at h
  rw [hstrict] at h
  dsimp only at h
  have hmay : (((s.port k).queue.filter fun q => 1 ≤ q.pkt.tc.toNat ∧ q.pkt.tc.toNat ≤ 3).isEmpty ||
      decide (prioIn (1024 - flitsOf z.pkt.payload.length) (s.port k).recent + flitsOf z.pkt.payload.length ≤ 64)) =
      true := by
    rw [hrecent, Bool.or_eq_true, decide_eq_true_iff]
    right
    unfold prioIn
    omega
  rw [if_pos hmay] at h
  cases h
  exact htcs hztc

section
variable (hk : k < 10) (hon : s.portsOn = true) (hst : (s.port k).st = .up) {q : QPkt} {left : List Nat}
  (harb : s.arbitrate k = some (q, left))
include hk hon hst harb

theorem sendStart_full (hfull : ¬ Fits (s.port k) (flitsOf q.pkt.payload.length)) :
    exec (.packetSendStart k) s = .next s := by
  refine (guarded_ok (decide_eq_true hk) _).trans (congrArg _ ?_)
  have hroom : (s.port k).hasRoom (flitsOf q.pkt.payload.length) = false := by
    rw [← Bool.not_eq_true, hasRoom_iff]
    exact hfull
  unfold State.sendStart
  dsimp only
  rw [if_neg (by simp [hon, hst]), harb]
  dsimp only
  rw [hroom, if_pos (by rfl)]

/-- A port that starts a packet. -/
def Port.started (x : Port) (q : QPkt) (l : List Nat) : Port :=
  let n := flitsOf q.pkt.payload.length
  let tc := q.pkt.tc.toNat
  { x.sendFlits n (tc = 5 || tc = 0 || tc = 4) with
    queue := x.queue.erase q, cut := if q.whole then x.cut else x.cut ++ [q]
    txFlits := satAdd 64 x.txFlits n
    txSent := Tab.put 0 x.txSent q.vc (Tab.get 0 x.txSent q.vc + BitVec.ofNat 16 n)
    rr1 := l.getD 0 0, rr2 := l.getD 1 0, rr3 := l.getD 2 0
    lastDl := Tab.set x.lastDl tc (q.vc % 2) }

theorem sendStart_sends (hfits : Fits (s.port k) (flitsOf q.pkt.payload.length)) :
    exec (.packetSendStart k) s =
      .next ((s.setPort k ((s.port k).started q left)).emit (.packet k q.pkt)) := by
  refine (guarded_ok (decide_eq_true hk) _).trans (congrArg _ ?_)
  unfold State.sendStart
  dsimp only
  rw [if_neg (by simp [hon, hst]), harb]
  dsimp only
  rw [(hasRoom_iff ..).mpr hfits, if_neg (by simp)]
  rfl
end

theorem Port.started_spec (x : Port) (q : QPkt) (l : List Nat) :
    (x.started q l).queue = x.queue.erase q ∧ (x.started q l).cut = (if q.whole then x.cut else x.cut ++ [q]) ∧
      (x.started q l).txFlits = min (x.txFlits + flitsOf q.pkt.payload.length) (2 ^ 64 - 1) ∧
      (∀ v, Tab.get 0 (x.started q l).txSent v = if v = q.vc
        then Tab.get 0 x.txSent v + BitVec.ofNat 16 (flitsOf q.pkt.payload.length) else Tab.get 0 x.txSent v) ∧
      (x.started q l).txHeld.length = x.txHeld.length +
        ((x.txFill + flitsOf q.pkt.payload.length + 4) / 5 - (x.txFill + 4) / 5) ∧
      (x.started q l).txFill = (x.txFill + flitsOf q.pkt.payload.length) % 5 := by
  refine ⟨rfl, rfl, rfl, fun v => ?_, ?_, rfl⟩
  · refine (Tab.get_put ..).trans ?_
    split
    · next h => rw [h]
    · rfl
  · show (x.txHeld ++ (List.range (x.begun _)).map _).length = _
    rw [List.length_append, List.length_map, List.length_range]
    rfl

/-! ## The obligation -/

/-- Settles O37: heads, trailers, the stall bound and the age limit, and what an output port sends. -/
theorem routersAndOutputs : Obligations.RoutersAndOutputs := by
  unfold Obligations.RoutersAndOutputs
  refine ⟨fun s d k p hd hk hown => ⟨fun hlink hin => ⟨fun hbad => head_badHcrc hd hk hown hlink hin hbad,
      fun hgood hlen => head_tooLong hd hk hown hlink hin hgood hlen,
      fun hgood hlen => head_routed hd hk hown hlink hin hgood hlen⟩,
      fun q hlink hin => head_ends hd hk hown hlink hin, fun m hon hm => head_mortar hd hon hm,
      fun q hlink hin hsame => trailer_port hd hk hown hin hsame hlink,
      fun hon => ⟨fun h => trailer_waits hd hon h, fun y hf hbehind => trailer_follows hd hon hf hbehind⟩,
      fun h => stall_waits hk h, fun q hon hst hin hsame hdue => stall_ends hk hown hin hsame hon hst hdue,
      fun hon => ⟨fun h hfirst => aged_queue hd hon hk h hfirst, fun h => ⟨fun m hm => aged_mortar hd hon h hm,
        fun hm => ⟨fun m harr => ?_, fun harr => ?_⟩⟩⟩⟩,
    fun s k hk hon hst => ⟨fun q left harb hfull => sendStart_full hk hon hst harb hfull,
      fun q left harb hfits => ?_⟩⟩
  · have hexec := aged_elsewhere hd hon h hm
    rw [harr] at hexec
    exact ⟨_, hexec, rfl, rfl, (State.countAged_spec _ d).2⟩
  · have hexec := aged_elsewhere hd hon h hm
    have hnone : (s.rte.arrived.find? fun a => a.die == d && samePkt a.pkt p) = none :=
      List.find?_eq_none.mpr fun m hmem hc => by
        rw [Bool.and_eq_true, beq_iff_eq] at hc
        exact Bool.false_ne_true ((harr m hmem hc.1).symm.trans hc.2)
    rw [hnone] at hexec
    exact hexec
  · obtain ⟨hqueue, hcredits⟩ := candidates_spec (arbitrate_candidate harb)
    have hport : ((s.setPort k ((s.port k).started q left)).emit (.packet k q.pkt)).port k = (s.port k).started q left :=
      State.port_setPort_self _ _ _
    refine ⟨hqueue, hcredits, fun hrecent hlen hfive => arbitrate_first harb hrecent hlen hfive, _,
      sendStart_sends hk hon hst harb hfits, rfl, fun j hj => State.port_setPort_ne _ _ hj, ?_⟩
    rw [hport]
    exact (s.port k).started_spec q left

end Sys2Proof.Machine
end

section
/-!
SUPPORT. What packets that leave keep of the receiving side, and the delivery of a sequenced packet (R268, R269, R277).
-/
namespace Sys2Proof.Machine

/-! ## What packets that leave keep of the receiving side (R268, R277) -/

/-- Only what a lookup counts of the packets it discards differs. -/
def LookupOnly (x y : DieCtr) : Prop :=
  y = { x with miss := y.miss, sliceDrop := y.sliceDrop, hopsDrop := y.hopsDrop, misdeliver := y.misdeliver }

theorem LookupOnly.trans {x y z : DieCtr} (h : LookupOnly x y) (k : LookupOnly y z) : LookupOnly x z := by
  unfold LookupOnly at *
  have hswap : ∀ a b c d, { y with miss := a, sliceDrop := b, hopsDrop := c, misdeliver := d } =
      { x with miss := a, sliceDrop := b, hopsDrop := c, misdeliver := d } := fun a b c d => by rw [h]
  exact k.trans (hswap _ _ _ _)

/-- The counters of die `d`. -/
def State.ctr (s : State) (d : Nat) : DieCtr := Tab.get DieCtr.reset s.rte.ctrs d

/-- What packets that leave keep: the receive entries, and every counter but those of discarded packets. -/
structure RecvFrame (s t : State) : Prop where
  recv : t.rte.recv = s.rte.recv
  retries : t.rte.retries = s.rte.retries
  ctr : ∀ d, LookupOnly (s.ctr d) (t.ctr d)

theorem RecvFrame.refl (s : State) : RecvFrame s s := ⟨rfl, rfl, fun _ => rfl⟩

section
variable {s t u : State}

theorem RecvFrame.trans (h : RecvFrame s t) (k : RecvFrame t u) : RecvFrame s u :=
  ⟨k.recv.trans h.recv, k.retries.trans h.retries, fun d => (h.ctr d).trans (k.ctr d)⟩

theorem RecvFrame.of_eq (hrecv : t.rte.recv = s.rte.recv) (hretries : t.rte.retries = s.rte.retries)
    (hctrs : t.rte.ctrs = s.rte.ctrs) : RecvFrame s t := by
  refine ⟨hrecv, hretries, fun d => ?_⟩
  unfold State.ctr
  rw [hctrs]
  rfl

theorem RecvFrame.of_rte (h : t.rte = s.rte) : RecvFrame s t := by
  refine .of_eq ?_ ?_ ?_ <;> rw [h]

theorem RecvFrame.ite {c : Prop} [Decidable c] (h : RecvFrame s t) (k : RecvFrame s u) :
    RecvFrame s (if c then t else u) := by
  split
  · exact h
  · exact k

theorem RecvFrame.recvFlow (h : RecvFrame s t) (d : Nat) (id : FlowId) : t.recvFlow d id = s.recvFlow d id := by
  unfold State.recvFlow
  rw [h.recv]

theorem State.ctr_modCtr (s : State) (d e : Nat) (f : DieCtr → DieCtr) :
    (s.modCtr d f).ctr e = if e = d then f (s.ctr d) else s.ctr e := by
  split
  · next h =>
    rw [h]
    exact State.ctr_modCtr_self s d f
  · next h => exact Tab.get_put_ne _ _ _ h

theorem State.modCtr_recvFrame (s : State) (d : Nat) {f : DieCtr → DieCtr} (hf : ∀ x, LookupOnly x (f x)) :
    RecvFrame s (s.modCtr d f) := by
  refine ⟨rfl, rfl, fun e => ?_⟩
  rw [State.ctr_modCtr]
  split
  · next h =>
    rw [h]
    exact hf _
  · rfl

variable (s)

theorem State.routeAt_recvFrame (d : Nat) (p : Packet) (cls chan : Nat) (whole : Bool) (inp : Option (Nat × Nat)) :
    RecvFrame s (s.routeAt d p cls chan whole inp) := by
  unfold State.routeAt
  dsimp only
  generalize (if s.half p.epoch == .loading then 0
    else s.entry d p.epoch (p.tc.toNat * 2 ^ 17 + p.dest.toNat)) = entry
  split
  · exact State.modCtr_recvFrame s d fun _ => rfl
  · split
    · exact State.modCtr_recvFrame s d fun _ => rfl
    · split
      · split
        · exact State.modCtr_recvFrame s d fun _ => rfl
        · exact .of_eq rfl rfl rfl
      · split
        · split
          · exact .of_eq rfl rfl rfl
          · exact State.modCtr_recvFrame s d fun _ => rfl
        · split
          · exact .of_eq rfl rfl rfl
          · exact State.modCtr_recvFrame s d fun _ => rfl

theorem State.launch_recvFrame {w : Waiting} (h : s.launch w = some t) : RecvFrame s t := by
  unfold State.launch at h
  dsimp only at h
  split at h
  · cases h
  · have hv := RecvFrame.ite (c := (s.flow (flowOf w.pkt)).isSome = true) (.refl s)
      (.of_eq rfl rfl rfl : RecvFrame s (s.modRte fun r => { r with
        openCtr := Tab.put 0 r.openCtr (flowOf w.pkt).sdie (Tab.get 0 s.rte.openCtr (flowOf w.pkt).sdie + 1),
        send := r.send ++ [(s.flow (flowOf w.pkt)).getD {
          id := flowOf w.pkt, nextSeq := Tab.get 0 s.rte.openCtr (flowOf w.pkt).sdie, unacked := [], expiries := 0,
          backoff := none, refusals := 0, flipped := true }] }))
    have hnote : ∀ v g op p, RecvFrame s v → RecvFrame s ((v.setFlow g).noteSeq op p) := fun v g op p hv =>
      (hv.trans (.of_eq rfl rfl rfl : RecvFrame v (v.setFlow g))).trans (.of_rte (State.noteSeq_rte _ op p))
    obtain rfl := Option.some.inj h
    exact .ite (hnote _ _ _ _ hv) ((hnote _ _ _ _ hv).trans (State.routeAt_recvFrame _ _ _ _ _ _ _))

theorem State.send_recvFrame (d : Nat) (p : Packet) (ep : Bool) (op : OpRef) (src : Option Loc) (last : Bool) :
    RecvFrame s (s.send d p ep op src last) := by
  unfold State.send
  dsimp only
  split
  · exact (RecvFrame.of_rte (State.noteSeq_rte s op _)).trans (.of_eq rfl rfl rfl)
  · split
    · exact State.routeAt_recvFrame _ _ _ _ _ _ _
    · split
      · exact .of_eq rfl rfl rfl
      · cases hlaunch : (s.modRte fun r => { r with nextOrd := r.nextOrd + 1 }).launch {
          die := d, pkt := s.stamped d p ep, op := op, src := src, last := last, ord := s.rte.nextOrd } with
        | none => exact .of_eq rfl rfl rfl
        | some u =>
          have hin := State.launch_recvFrame _ hlaunch
          have hord : RecvFrame s (s.modRte fun r => { r with nextOrd := r.nextOrd + 1 }) := .of_eq rfl rfl rfl
          exact hord.trans hin
end

theorem SendsOnly.courses {o : Option Nat} {s t : State} (h : SendsOnly o s t) : t.courses = s.courses := by
  have hcourses := congrArg State.courses h.frame
  exact hcourses

/-! ## Receive entries (R268, R271) -/

section
variable {s : State}

theorem find?_append_none {α : Type} {p : α → Bool} {l : List α} {x : α} (hnone : ∀ y ∈ l, p y = false)
    (hx : p x = true) : (l ++ [x]).find? p = some x := by
  rw [List.find?_append, List.find?_eq_none.mpr fun y hy => by simp [hnone y hy]]
  exact List.find?_cons_of_pos hx

theorem find?_replace {α : Type} {p : α → Bool} {l : List α} {x : α} (hx : p x = true) (hany : l.any p = true) :
    (l.map fun y => if p y then x else y).find? p = some x := by
  induction l with
  | nil => cases hany
  | cons z l ih =>
    rw [List.map_cons]
    by_cases hz : p z = true
    · rw [if_pos hz]
      exact List.find?_cons_of_pos hx
    · rw [if_neg hz, List.find?_cons_of_neg hz]
      rw [List.any_cons, eq_false_of_ne_true hz, Bool.false_or] at hany
      exact ih hany

/-- The entry that is kept is the one that is found. -/
theorem State.recvFlow_setRecv (s : State) (x : RecvFlow) : (s.setRecv x).recvFlow x.die x.id = some x := by
  have hx : (x.die == x.die && x.id == x.id) = true := by simp
  unfold State.recvFlow State.setRecv State.modRte
  dsimp only
  by_cases hany : s.rte.recv.any (fun y => y.die == x.die && y.id == x.id) = true
  · rw [if_pos hany]
    exact find?_replace (p := fun y : RecvFlow => y.die == x.die && y.id == x.id) hx hany
  · rw [if_neg hany]
    refine find?_append_none (fun y hy => ?_) hx
    by_contra hc
    exact hany (List.any_eq_true.mpr ⟨y, hy, eq_true_of_ne_false hc⟩)

theorem State.recvFlow_key {d : Nat} {id : FlowId} {r : RecvFlow} (h : s.recvFlow d id = some r) : r.die = d ∧ r.id = id := by
  have hr := List.find?_some h
  rwa [Bool.and_eq_true, beq_iff_eq, beq_iff_eq] at hr

/-- Found entries stay what they are when only other fields of the block change. -/
theorem State.recvFlow_modCtr (d e : Nat) (id : FlowId) (f : DieCtr → DieCtr) :
    (s.modCtr d f).recvFlow e id = s.recvFlow e id := rfl

end

/-! ## A sequenced packet that has arrived (R268) -/

section
variable {s u : State} {d : Nat} {p : Packet} {opc : BitVec 8} {a : Arrived} {r : RecvFlow} {act : State → State × Nat}
  {P : State → Prop}

theorem State.deliver_arrived (hlive : s.live = true) (hopc : p.opc = opc)
    (hlocal : s.localHead p.sdie.toNat p.tc.toNat = none) (ha : s.arrivedHead d p = some a) :
    s.deliver d p opc act = (s.dropArrived a).receive d p act := by
  unfold State.deliver
  rw [if_neg (by simp [hlive, hopc]), hlocal]
  dsimp only
  rw [ha]

/-- What an entry becomes as packet `p` is delivered, of which `due` deliveries are to be acknowledged. -/
def RecvFlow.past (r : RecvFlow) (p : Packet) (due : Nat) (held : List Nat) (time : Nat) : RecvFlow :=
  { r with expected := p.seq + 1, ackDue := due, holds := r.holds ++ held, at_ := time }

theorem State.receive_next (hr : s.recvFlow d (flowOf p) = some r) (hopn : p.opn = false) (hseq : p.seq = r.expected) :
    s.receive d p act = s.accept d p (some r) act := by
  unfold State.receive
  dsimp only
  rw [hr]
  dsimp only
  rw [hopn, if_neg Bool.false_ne_true, if_pos hseq]

/-- The entry of a flow that packet `p` opens. -/
def openedRecv (d : Nat) (p : Packet) : RecvFlow :=
  { id := flowOf p, die := d, expected := p.seq, openSeq := p.seq, ackDue := 0, holds := [], at_ := 0 }

/-- An action that is done: the entry goes on. -/
theorem State.accept_done {old : Option RecvFlow} (hact : act s = (u, 0)) : s.accept d p old act =
    u.setRecv ((old.getD (openedRecv d p)).past p ((old.getD (openedRecv d p)).ackDue + 1) (s.newlyHeld u) u.gen.time) := by
  unfold State.accept
  dsimp only
  rw [hact]
  rfl

/-- An action that is refused: the entry stays. -/
theorem State.accept_refused {old : Option RecvFlow} (hact : act s = (u, 1)) : s.accept d p old act =
    (u.modCtr d fun c => { c with refusedTx := satAdd 64 c.refusedTx 1 }).send d (answerPkt (flowOf p) p.seq 0xF1 1)
      p.epoch .reply none true := by
  unfold State.accept
  dsimp only
  rw [hact]
  rfl

/-- An action that fails: the entry goes on, and the answer says why. -/
theorem State.accept_failed {k : Nat} (h0 : k ≠ 0) (h1 : k ≠ 1) (hact : act s = (u, k)) : s.accept d p (some r) act =
    (u.setRecv (r.past p 0 (s.newlyHeld u) u.gen.time)).send d (answerPkt (flowOf p) p.seq 0xF1 k) p.epoch
      .reply none true := by
  unfold State.accept
  dsimp only
  rw [hact]
  dsimp only
  rw [if_neg h1, if_neg h0, if_neg h0]
  rfl

theorem advanced_setRecv {n : Nat} (hr : s.recvFlow d (flowOf p) = some r) (htime : u.gen.time = s.gen.time) :
    Advanced s (u.setRecv (r.past p n (s.newlyHeld u) u.gen.time)) d p r n := by
  obtain ⟨hdie, hid⟩ := State.recvFlow_key hr
  have hfound := u.recvFlow_setRecv (r.past p n (s.newlyHeld u) u.gen.time)
  have hkey : (r.past p n (s.newlyHeld u) u.gen.time).die = d ∧ (r.past p n (s.newlyHeld u) u.gen.time).id = flowOf p :=
    ⟨hdie, hid⟩
  rw [hkey.1, hkey.2] at hfound
  unfold Advanced
  rw [hfound]
  unfold RecvFlow.past
  rw [htime]
  rfl

theorem Advanced.of_recvFrame {t : State} {n : Nat} (h : Advanced s u d p r n) (hrecv : RecvFrame u t)
    (hcourses : t.courses = u.courses) : Advanced s t d p r n := by
  unfold Advanced at *
  have hheld : s.newlyHeld t = s.newlyHeld u := by
    unfold State.newlyHeld
    simp only [show ∀ c, t.crs c = u.crs c from fun c => by unfold State.crs; rw [hcourses]]
  rw [hrecv.recvFlow, h, hheld]

/-- A packet that its flow expects and whose action is done. -/
theorem State.deliver_done (hin : NextIn s d p r) (hopc : p.opc = opc)
    (hact : ∀ a, ∃ u, act (s.dropArrived a) = (u, 0) ∧ u.gen.time = s.gen.time ∧ P u) : ∃ u x, P u ∧
      s.deliver d p opc act = u.setRecv x ∧ Advanced s (u.setRecv x) d p r (r.ackDue + 1) := by
  obtain ⟨-, hlive, hlocal, ⟨a, ha⟩, hr, hopn, hseq⟩ := hin
  obtain ⟨u, hu, htime, hP⟩ := hact a
  refine ⟨u, _, hP, ?_, advanced_setRecv hr htime⟩
  rw [State.deliver_arrived hlive hopc hlocal ha, State.receive_next (s := s.dropArrived a) hr hopn hseq,
    State.accept_done hu]
  rfl

/-- A packet that its flow expects and whose action fails, having changed nothing that an answer depends on. -/
theorem State.deliver_failed {k : Nat} (hin : NextIn s d p r) (hopc : p.opc = opc) (h0 : k ≠ 0) (h1 : k ≠ 1)
    (hact : ∀ a, ∃ u, act (s.dropArrived a) = (u, k) ∧ u.gen.time = s.gen.time ∧ P u) : ∃ u x, P u ∧
      s.deliver d p opc act = (u.setRecv x).send d (answerPkt (flowOf p) p.seq 0xF1 k) p.epoch .reply none true ∧
      Advanced s (s.deliver d p opc act) d p r 0 := by
  obtain ⟨-, hlive, hlocal, ⟨a, ha⟩, hr, hopn, hseq⟩ := hin
  obtain ⟨u, hu, htime, hP⟩ := hact a
  have hdeliver : s.deliver d p opc act = (u.setRecv (r.past p 0 (s.newlyHeld u) u.gen.time)).send d
      (answerPkt (flowOf p) p.seq 0xF1 k) p.epoch .reply none true := by
    rw [State.deliver_arrived hlive hopc hlocal ha, State.receive_next (s := s.dropArrived a) hr hopn hseq,
      State.accept_failed h0 h1 hu]
    rfl
  refine ⟨u, _, hP, hdeliver, ?_⟩
  rw [hdeliver]
  refine Advanced.of_recvFrame (advanced_setRecv hr htime) (State.send_recvFrame _ _ _ _ _ _ _) ?_
  exact (State.send_sendsOnly _ _ _ _ _ _ _).courses
end

end Sys2Proof.Machine
end

section
/-!
SUPPORT. Requests that write, and acknowledgements that fall due (R266, R269, R272).
-/
namespace Sys2Proof.Machine

/-! ## Requests that pass their checks (R266, R272, R309) -/

section
variable {s u : State} {d : Nat} {p : Packet} {a : Arrived} {r : RecvFlow}

/-- The payload of a request stands at its place. -/
def State.placed (s : State) (p : Packet) (l : Option Loc) : State :=
  match l with
  | some l => if p.len = 0 then s else s.storeLoc l (pktPayload p)
  | none => s

/-- The stores as a request that writes leaves them. -/
def State.wanted (s : State) (p : Packet) (l : Option Loc) : State :=
  match l with
  | some l => if p.len = 0 then s else s.writeLoc l (pktPayload p)
  | none => s

theorem State.placed_spec (s : State) (p : Packet) (l : Option Loc) :
    StoreFrame s (s.placed p l) ∧ SameStores (s.wanted p l) (s.placed p l) := by
  unfold State.placed State.wanted
  cases l with
  | none => exact ⟨.refl s, rfl, rfl, rfl⟩
  | some l =>
    dsimp only
    split
    · exact ⟨.refl s, rfl, rfl, rfl⟩
    · exact ⟨s.storeLoc_storeFrame l _, State.stores_split (s.storeLoc_stores l _)⟩

theorem State.wanted_dropArrived (l : Option Loc) : SameStores (s.wanted p l) ((s.dropArrived a).wanted p l) := by
  unfold State.wanted
  cases l with
  | none => exact ⟨rfl, rfl, rfl⟩
  | some l =>
    dsimp only
    split
    · exact ⟨rfl, rfl, rfl⟩
    · have hsame : SamePlaces s (s.dropArrived a) := ⟨rfl, rfl, rfl⟩
      exact State.stores_split (hsame.writeLoc l (pktPayload p)).stores

theorem SameStores.trans {t : State} (h : SameStores s u) (k : SameStores u t) : SameStores s t := by
  obtain ⟨hls, hcs, hmem⟩ := h
  obtain ⟨kls, kcs, kmem⟩ := k
  exact ⟨kls.trans hls, kcs.trans hcs, kmem.trans hmem⟩

theorem State.reqCheck_dropArrived (n : Nat) (wr bare plan : Bool) :
    (s.dropArrived a).reqCheck p n wr bare plan = s.reqCheck p n wr bare plan := rfl

/-- A request that writes, its checks passed. -/
theorem State.writeAct_ok {last plan : Bool} {l : Option Loc}
    (hok : s.reqCheck p p.len.toNat true (bareReq p) plan = .ok l) :
    State.writeAct p last plan s = (if last then (s.placed p l).raise p 1 else s.placed p l, 0) := by
  unfold State.writeAct State.request
  rw [hok]
  rfl

theorem State.writeAct_error {last plan : Bool} {k : Nat}
    (herr : s.reqCheck p p.len.toNat true (bareReq p) plan = .error k) : State.writeAct p last plan s = (s, k) := by
  unfold State.writeAct State.request
  rw [herr]

/-- The flags after the target flag of a request, where it names one, has risen. -/
def FlagsRaised (s t : State) (p : Packet) (v : W32) : Prop :=
  ∀ e f, t.flagVal e f =
    if p.tgtFlag ≠ 0x3F ∧ e = p.tgtEngine.toNat ∧ f = p.tgtFlag.toNat then s.flagVal e f + v else s.flagVal e f

theorem State.raise_flagFrame (s : State) (p : Packet) (v : W32) : FlagFrame s (s.raise p v) := by
  unfold State.raise
  split
  · exact .refl s
  · exact s.flagAdd_flagFrame _ _ _

theorem FlagFrame.stores {t : State} (h : FlagFrame s t) : SameStores s t := by
  have hframe := h.frame
  exact ⟨by rw [hframe], by rw [hframe], by rw [hframe]⟩

theorem FlagFrame.time {t : State} (h : FlagFrame s t) : t.gen.time = s.gen.time := by rw [h.frame]

theorem FlagFrame.rte {t : State} (h : FlagFrame s t) : t.rte = s.rte := by rw [h.frame]

theorem StoreFrame.time {t : State} (h : StoreFrame s t) : t.gen.time = s.gen.time := by rw [h.frame]

theorem StoreFrame.rte {t : State} (h : StoreFrame s t) : t.rte = s.rte := by rw [h.frame]

theorem State.raise_raised (v : W32) (hawake : p.tgtFlag = 0x3F ∨ s.courseAwake (p.tgtEngine.toNat / 32) = true) :
    FlagsRaised s (s.raise p v) p v := by
  intro e f
  unfold State.raise
  by_cases h3f : p.tgtFlag = 0x3F
  · rw [if_pos h3f, if_neg fun h => h.1 h3f]
  · rw [if_neg h3f]
    obtain hnone | hawake := hawake
    · exact absurd hnone h3f
    · rw [(s.flagAdd_raised _ _ v).1 hawake e f]
      simp only [ne_eq, h3f, not_false_eq_true, true_and]

/-- What a request that writes leaves of state `s`, when the target flag rises by `v`. -/
structure Written (s u : State) (p : Packet) (l : Option Loc) (last : Bool) : Prop where
  stores : SameStores (s.wanted p l) u
  flags : if last then FlagsRaised s u p 1 else SameFlags s u
  time : u.gen.time = s.gen.time
  rte : u.rte = s.rte

theorem State.written_of_ok {last : Bool} (l : Option Loc)
    (hawake : p.tgtFlag = 0x3F ∨ s.courseAwake (p.tgtEngine.toNat / 32) = true) :
    Written s (if last then (s.placed p l).raise p 1 else s.placed p l) p l last := by
  obtain ⟨hframe, hstores⟩ := s.placed_spec p l
  cases last with
  | false => exact ⟨hstores, hframe.flagVal, hframe.time, hframe.rte⟩
  | true =>
    have hflag := (s.placed p l).raise_flagFrame p 1
    refine ⟨SameStores.trans hstores hflag.stores, fun e f => ?_, hflag.time.trans hframe.time, hflag.rte.trans hframe.rte⟩
    change ((s.placed p l).raise p 1).flagVal e f = _
    rw [State.raise_raised 1 (hawake.imp_right fun h => (hframe.awake _).trans h) e f, hframe.flagVal]

/-- Each command of a request that writes runs the delivery of its code. -/
theorem writeRow_exec {row : (Nat → Packet → Instr) × BitVec 8 × Bool × Bool} (hrow : row ∈ writeRows) (d : Nat)
    (p : Packet) (s : State) : exec (row.1 d p) s =
      guarded (isDie d) (s.deliver d p row.2.1 (State.writeAct p row.2.2.1 row.2.2.2)) := by
  simp only [writeRows, List.mem_cons, List.not_mem_nil, or_false] at hrow
  obtain rfl | rfl | rfl | rfl | rfl | rfl := hrow
  · rfl
  · rfl
  · rfl
  · rfl
  · rfl
  · rfl

/-! ## Packets whose sequence number does not fit (R268, R271) -/

theorem State.setRecv_flags (s : State) (x : RecvFlow) : SameStores s (s.setRecv x) ∧ SameFlags s (s.setRecv x) ∧
    (∀ e, (s.setRecv x).ctr e = s.ctr e) ∧ (s.setRecv x).rte.arrived = s.rte.arrived := by
  unfold State.setRecv State.ctr State.modRte
  dsimp only
  split <;> exact ⟨⟨rfl, rfl, rfl⟩, fun _ _ => rfl, fun _ => rfl, rfl⟩

/-- An acknowledgement that is due goes, or waits for the flags that its packets change. -/
theorem State.sendAck_spec {id : FlowId} (hr : s.recvFlow d id = some r) :
    SameStores s (s.sendAck r) ∧ SameFlags s (s.sendAck r) ∧ (∀ e, LookupOnly (s.ctr e) ((s.sendAck r).ctr e)) ∧
    (s.sendAck r).recvFlow d id = some { r with ackDue := if r.holds = [] then 0 else max 1 r.ackDue } := by
  obtain ⟨rfl, rfl⟩ := State.recvFlow_key hr
  unfold State.sendAck
  by_cases hholds : r.holds = []
  · rw [if_neg (by simp [hholds]), if_pos hholds]
    obtain ⟨hstores, hflags, hctr, -⟩ := s.setRecv_flags { r with ackDue := 0 }
    have hfound := s.recvFlow_setRecv { r with ackDue := 0 }
    generalize s.setRecv { r with ackDue := 0 } = v at hstores hflags hctr hfound
    have hsend := State.send_sendsOnly v .reply r.die (answerPkt r.id (r.expected - 1) 0xF0 0) r.id.epoch none true
    have hrecv := State.send_recvFrame v r.die (answerPkt r.id (r.expected - 1) 0xF0 0) r.id.epoch .reply none true
    refine ⟨SameStores.trans hstores (State.stores_split hsend.stores),
      fun e f => (hsend.flagVal e f).trans (hflags e f), fun e => ?_, ?_⟩
    · rw [← hctr e]
      exact hrecv.ctr e
    · exact (hrecv.recvFlow _ _).trans hfound
  · rw [if_pos (by simp [hholds]), if_neg hholds]
    obtain ⟨hstores, hflags, hctr, -⟩ := s.setRecv_flags { r with ackDue := max 1 r.ackDue }
    refine ⟨hstores, hflags, fun e => ?_, s.recvFlow_setRecv _⟩
    rw [hctr e]
    rfl
end

end Sys2Proof.Machine
end

section
/-!
SUPPORT. Each request that writes, at its arrival (R268, R271, R272).
-/
namespace Sys2Proof.Machine

/-! ## Each request at its arrival (R268, R271, R272) -/

section
variable {s : State} {d : Nat} {p : Packet} {a : Arrived} {r : RecvFlow} {act : State → State × Nat}

theorem satAdd_64_one (x : Nat) : satAdd 64 x 1 = min (x + 1) (2 ^ 64 - 1) := rfl

/-- A packet of no flow. -/
theorem State.receive_noFlow (hr : s.recvFlow d (flowOf p) = none) (hopn : p.opn = false) : s.receive d p act =
    s.modCtr d fun c => { c with noFlow := satAdd 64 c.noFlow 1 } := by
  unfold State.receive
  dsimp only
  rw [hr]
  dsimp only
  rw [hopn, if_neg Bool.false_ne_true]

theorem State.recvRoom_free (hroom : s.rte.recv.countP (fun r => r.die == d) < 16384) : s.recvRoom d = some s := by
  unfold State.recvRoom
  dsimp only
  rw [← List.countP_eq_length_filter, if_pos hroom]

/-- Every entry is in use, and none is old. -/
theorem State.recvRoom_full (hfull : 16384 ≤ s.rte.recv.countP (fun r => r.die == d))
    (hyoung : ∀ r ∈ s.rte.recv, r.die = d → s.gen.time < r.at_ + 5000000) : s.recvRoom d = none := by
  unfold State.recvRoom
  dsimp only
  rw [← List.countP_eq_length_filter, if_neg (Nat.not_lt.mpr hfull), List.find?_eq_none.mpr ?_]
  intro r hr
  obtain ⟨hmem, hdie⟩ := List.mem_filter.mp hr
  rw [decide_eq_true_eq, ge_iff_le, Nat.not_le]
  exact hyoung r hmem (beq_iff_eq.mp hdie)

/-- A packet that opens its flow. -/
theorem State.receive_opens (hopn : p.opn = true)
    (hknown : s.recvFlow d (flowOf p) = none ∧ s.rte.recv.countP (fun r => r.die == d) < 16384 ∨
      ∃ r, s.recvFlow d (flowOf p) = some r ∧ p.seq ≠ r.openSeq) : s.receive d p act = s.accept d p none act := by
  unfold State.receive
  dsimp only
  obtain ⟨hnone, hroom⟩ | ⟨r, hr, hseq⟩ := hknown
  · rw [hnone]
    dsimp only
    rw [if_pos hopn, State.recvRoom_free hroom]
  · rw [hr]
    dsimp only
    rw [if_pos hopn, if_neg hseq]

theorem State.receive_full (hopn : p.opn = true) (hr : s.recvFlow d (flowOf p) = none) (hroom : s.recvRoom d = none) :
    s.receive d p act = s.modCtr d fun c => { c with rxFull := satAdd 64 c.rxFull 1 } := by
  unfold State.receive
  dsimp only
  rw [hr]
  dsimp only
  rw [if_pos hopn, hroom]

/-- A packet that has come before. -/
theorem State.receive_dup (hr : s.recvFlow d (flowOf p) = some r)
    (hdup : (p.opn = true ∧ p.seq = r.openSeq) ∨
      (p.opn = false ∧ p.seq ≠ r.expected ∧ (r.expected - 1 - p.seq).toNat < 2 ^ 23)) :
    s.receive d p act = (s.modCtr d fun c => { c with dup := satAdd 64 c.dup 1 }).sendAck r := by
  unfold State.receive
  dsimp only
  rw [hr]
  dsimp only
  obtain ⟨hopn, hseq⟩ | ⟨hopn, hseq, hle⟩ := hdup
  · rw [if_pos hopn, if_pos hseq]
  · rw [if_neg (by simp [hopn]), if_neg hseq, if_pos (by unfold seqLe; exact decide_eq_true hle)]

/-- A packet before which others are missing. -/
theorem State.receive_gap (hr : s.recvFlow d (flowOf p) = some r) (hopn : p.opn = false) (hseq : p.seq ≠ r.expected)
    (hgap : ¬ (r.expected - 1 - p.seq).toNat < 2 ^ 23) :
    s.receive d p act = s.modCtr d fun c => { c with gap := satAdd 64 c.gap 1 } := by
  unfold State.receive
  dsimp only
  rw [hr]
  dsimp only
  rw [if_neg (by simp [hopn]), if_neg hseq, if_neg (by unfold seqLe; rw [decide_eq_false hgap]; exact Bool.false_ne_true)]

/-- A duplicate is counted, and its flow acknowledged. -/
theorem State.dup_spec (hr : s.recvFlow d (flowOf p) = some r) {t : State}
    (ht : t = (s.modCtr d fun c => { c with dup := satAdd 64 c.dup 1 }).sendAck r) :
    SameStores s t ∧ SameFlags s t ∧
      t.recvFlow d (flowOf p) = some { r with ackDue := if r.holds = [] then 0 else max 1 r.ackDue } ∧
      (t.ctr d).dup = min ((s.ctr d).dup + 1) (2 ^ 64 - 1) := by
  obtain ⟨hstores, hflags, hctr, hrecv⟩ := State.sendAck_spec (s := s.modCtr d fun c => { c with dup := satAdd 64 c.dup 1 }) hr
  rw [ht]
  refine ⟨hstores, hflags, hrecv, ?_⟩
  have hdup := congrArg DieCtr.dup (hctr d)
  rw [State.ctr_modCtr, if_pos rfl] at hdup
  exact hdup
end

/-- A packet `p` has arrived whole on die `d`, and none of the module's own precedes it. -/
structure HasArrived (s : State) (d : Nat) (p : Packet) (a : Arrived) : Prop where
  die : d < 4
  live : s.live = true
  local_ : s.localHead p.sdie.toNat p.tc.toNat = none
  head : s.arrivedHead d p = some a

section
variable {s : State} {d : Nat} {p : Packet} {a : Arrived} {r : RecvFlow}

theorem HasArrived.nextIn (h : HasArrived s d p a) (hr : s.recvFlow d (flowOf p) = some r) (hopn : p.opn = false)
    (hseq : p.seq = r.expected) : NextIn s d p r := ⟨h.die, h.live, h.local_, ⟨a, h.head⟩, hr, hopn, hseq⟩

theorem HasArrived.deliver {opc : BitVec 8} {act : State → State × Nat} (h : HasArrived s d p a) (hopc : p.opc = opc) :
    s.deliver d p opc act = (s.dropArrived a).receive d p act := State.deliver_arrived h.live hopc h.local_ h.head

variable (h : HasArrived s d p a)
include h

section
variable {row : (Nat → Packet → Instr) × BitVec 8 × Bool × Bool} (hrow : row ∈ writeRows) (hopc : p.opc = row.2.1)
include hrow hopc

theorem HasArrived.row_exec : exec (row.1 d p) s =
    .next ((s.dropArrived a).receive d p (State.writeAct p row.2.2.1 row.2.2.2)) := by
  rw [writeRow_exec hrow, guarded_ok (show isDie d = true from decide_eq_true h.die), h.deliver hopc]

theorem write_noFlow (hr : s.recvFlow d (flowOf p) = none) (hopn : p.opn = false) :
    ∃ t, exec (row.1 d p) s = .next t ∧ SameStores s t ∧ SameFlags s t ∧ t.rte.recv = s.rte.recv ∧
      t.rte.arrived = s.rte.arrived.erase a ∧ (t.ctr d).noFlow = min ((s.ctr d).noFlow + 1) (2 ^ 64 - 1) := by
  refine ⟨_, h.row_exec hrow hopc, ?_⟩
  rw [State.receive_noFlow (s := s.dropArrived a) hr hopn]
  refine ⟨⟨rfl, rfl, rfl⟩, fun _ _ => rfl, rfl, rfl, ?_⟩
  rw [State.ctr_modCtr, if_pos rfl]
  rfl

theorem write_opens (hopn : p.opn = true)
    (hknown : s.recvFlow d (flowOf p) = none ∧ s.rte.recv.countP (fun r => r.die == d) < 16384 ∨
      ∃ r, s.recvFlow d (flowOf p) = some r ∧ p.seq ≠ r.openSeq)
    (hawake : p.tgtFlag = 0x3F ∨ s.courseAwake (p.tgtEngine.toNat / 32) = true) {l : Option Loc}
    (hok : s.reqCheck p p.len.toNat true (bareReq p) row.2.2.2 = .ok l) :
    ∃ t, exec (row.1 d p) s = .next t ∧ t.rte.arrived = s.rte.arrived.erase a ∧
      t.recvFlow d (flowOf p) = some { openedRecv d p with
        expected := p.seq + 1, ackDue := 1, holds := s.newlyHeld t, at_ := s.gen.time } ∧
      SameStores (s.wanted p l) t ∧ if row.2.2.1 then FlagsRaised s t p 1 else SameFlags s t := by
  have hdone := State.written_of_ok (s := s.dropArrived a) (p := p) (last := row.2.2.1) l hawake
  have hact := State.writeAct_ok (s := s.dropArrived a) (last := row.2.2.1) hok
  generalize (if row.2.2.1 then ((s.dropArrived a).placed p l).raise p 1 else (s.dropArrived a).placed p l) = u at hdone hact
  refine ⟨_, h.row_exec hrow hopc, ?_⟩
  rw [State.receive_opens (s := s.dropArrived a) hopn hknown, State.accept_done hact]
  obtain ⟨hstores, hflags, -, harrived⟩ := u.setRecv_flags (((none : Option RecvFlow).getD (openedRecv d p)).past p
    (((none : Option RecvFlow).getD (openedRecv d p)).ackDue + 1) ((s.dropArrived a).newlyHeld u) u.gen.time)
  refine ⟨harrived.trans (congrArg Rte.arrived hdone.rte), ?_, ?_, ?_⟩
  · refine (u.recvFlow_setRecv _).trans ?_
    unfold RecvFlow.past
    rw [hdone.time]
    rfl
  · exact SameStores.trans (State.wanted_dropArrived l) (SameStores.trans hdone.stores hstores)
  · have hflags' := hdone.flags
    split
    · next hlast =>
      rw [if_pos hlast] at hflags'
      exact fun e f => (hflags e f).trans (hflags' e f)
    · next hlast =>
      rw [if_neg hlast] at hflags'
      exact fun e f => (hflags e f).trans (hflags' e f)

theorem write_full (hopn : p.opn = true) (hr : s.recvFlow d (flowOf p) = none)
    (hfull : 16384 ≤ s.rte.recv.countP (fun r => r.die == d))
    (hyoung : ∀ r ∈ s.rte.recv, r.die = d → s.gen.time < r.at_ + 5000000) :
    ∃ t, exec (row.1 d p) s = .next t ∧ SameStores s t ∧ SameFlags s t ∧ t.rte.recv = s.rte.recv ∧
      (t.ctr d).rxFull = min ((s.ctr d).rxFull + 1) (2 ^ 64 - 1) := by
  refine ⟨_, h.row_exec hrow hopc, ?_⟩
  rw [State.receive_full (s := s.dropArrived a) hopn hr (State.recvRoom_full (s := s.dropArrived a) hfull hyoung)]
  refine ⟨⟨rfl, rfl, rfl⟩, fun _ _ => rfl, rfl, ?_⟩
  rw [State.ctr_modCtr, if_pos rfl]
  rfl

theorem write_reopened (hr : s.recvFlow d (flowOf p) = some r) (hopn : p.opn = true) (hseq : p.seq = r.openSeq) :
    ∃ t, exec (row.1 d p) s = .next t ∧ SameStores s t ∧ SameFlags s t ∧
      t.recvFlow d (flowOf p) = some { r with ackDue := if r.holds = [] then 0 else max 1 r.ackDue } ∧
      (t.ctr d).dup = min ((s.ctr d).dup + 1) (2 ^ 64 - 1) :=
  ⟨_, h.row_exec hrow hopc, State.dup_spec (s := s.dropArrived a) hr
    (State.receive_dup (s := s.dropArrived a) hr (.inl ⟨hopn, hseq⟩))⟩

section
variable (hr : s.recvFlow d (flowOf p) = some r) (hopn : p.opn = false) (hseq : p.seq = r.expected)
include hr hopn hseq

theorem write_done (hawake : p.tgtFlag = 0x3F ∨ s.courseAwake (p.tgtEngine.toNat / 32) = true) {l : Option Loc}
    (hok : s.reqCheck p p.len.toNat true (bareReq p) row.2.2.2 = .ok l) :
    ∃ t, exec (row.1 d p) s = .next t ∧ Advanced s t d p r (r.ackDue + 1) ∧ SameStores (s.wanted p l) t ∧
      if row.2.2.1 then FlagsRaised s t p 1 else SameFlags s t := by
  obtain ⟨u, x, ⟨hstores, hflags⟩, hdeliver, hadv⟩ := State.deliver_done
    (P := fun u => SameStores (s.wanted p l) u ∧ if row.2.2.1 then FlagsRaised s u p 1 else SameFlags s u)
    (act := State.writeAct p row.2.2.1 row.2.2.2) (h.nextIn hr hopn hseq) hopc fun b => by
      have hdone := State.written_of_ok (s := s.dropArrived b) (p := p) (last := row.2.2.1) l hawake
      exact ⟨_, State.writeAct_ok (s := s.dropArrived b) hok, hdone.time,
        SameStores.trans (State.wanted_dropArrived l) hdone.stores, hdone.flags⟩
  obtain ⟨hxstores, hxflags, -, -⟩ := u.setRecv_flags x
  refine ⟨_, ?_, hadv, SameStores.trans hstores hxstores, ?_⟩
  · rw [writeRow_exec hrow, guarded_ok (show isDie d = true from decide_eq_true h.die), hdeliver]
  · split
    · next hlast =>
      rw [if_pos hlast] at hflags
      exact fun e f => (hxflags e f).trans (hflags e f)
    · next hlast =>
      rw [if_neg hlast] at hflags
      exact fun e f => (hxflags e f).trans (hflags e f)

theorem write_refused (herr : s.reqCheck p p.len.toNat true (bareReq p) row.2.2.2 = .error 1) :
    ∃ t, exec (row.1 d p) s = .next t ∧ SameStores s t ∧ SameFlags s t ∧ t.recvFlow d (flowOf p) = some r ∧
      (t.ctr d).refusedTx = min ((s.ctr d).refusedTx + 1) (2 ^ 64 - 1) := by
  refine ⟨_, h.row_exec hrow hopc, ?_⟩
  rw [State.receive_next (s := s.dropArrived a) hr hopn hseq,
    State.accept_refused (State.writeAct_error (s := s.dropArrived a) herr)]
  generalize hv : (s.dropArrived a).modCtr d (fun c => { c with refusedTx := satAdd 64 c.refusedTx 1 }) = v
  have hsend := State.send_sendsOnly v .reply d (answerPkt (flowOf p) p.seq 0xF1 1) p.epoch none true
  have hrecv := State.send_recvFrame v d (answerPkt (flowOf p) p.seq 0xF1 1) p.epoch .reply none true
  have hstores := State.stores_split hsend.stores
  have hctr := congrArg DieCtr.refusedTx (hrecv.ctr d)
  have hfound := hrecv.recvFlow d (flowOf p)
  refine ⟨?_, fun e f => (hsend.flagVal e f).trans ?_, hfound.trans ?_, hctr.trans ?_⟩
  · rw [← hv] at hstores
    rw [← hv]
    exact hstores
  · rw [← hv]
    rfl
  · rw [← hv]
    exact hr
  · rw [← hv]
    change ((State.modCtr _ _ _).ctr d).refusedTx = _
    rw [State.ctr_modCtr, if_pos rfl]
    rfl

theorem write_failed {k : Nat} (h0 : k ≠ 0) (h1 : k ≠ 1)
    (herr : s.reqCheck p p.len.toNat true (bareReq p) row.2.2.2 = .error k) :
    ∃ t, exec (row.1 d p) s = .next t ∧ SameStores s t ∧ SameFlags s t ∧ Advanced s t d p r 0 := by
  obtain ⟨u, x, ⟨hstores, hflags⟩, hdeliver, hadv⟩ := State.deliver_failed
    (P := fun u => SameStores s u ∧ SameFlags s u)
    (act := State.writeAct p row.2.2.1 row.2.2.2) (h.nextIn hr hopn hseq) hopc h0 h1 fun b =>
      ⟨_, State.writeAct_error (s := s.dropArrived b) herr, rfl, ⟨rfl, rfl, rfl⟩, fun _ _ => rfl⟩
  obtain ⟨hxstores, hxflags, -, -⟩ := u.setRecv_flags x
  have hsend := State.send_sendsOnly (u.setRecv x) .reply d (answerPkt (flowOf p) p.seq 0xF1 k) p.epoch none true
  refine ⟨_, ?_, ?_, ?_, hadv⟩
  · rw [writeRow_exec hrow, guarded_ok (show isDie d = true from decide_eq_true h.die)]
  · rw [hdeliver]
    exact SameStores.trans hstores (SameStores.trans hxstores (State.stores_split hsend.stores))
  · rw [hdeliver]
    exact fun e f => (hsend.flagVal e f).trans ((hxflags e f).trans (hflags e f))
end
end
end

end Sys2Proof.Machine
end

section
/-!
SUPPORT. FLAG, READ and keystone messages (R234, R235, R266, R462).
-/
namespace Sys2Proof.Machine

/-! ## A packet that its flow expects, whose action is done (R268) -/

section
variable {s : State} {d : Nat} {p : Packet} {a : Arrived} {r : RecvFlow}

/-- What the packets that a module holds, its stores and its flags keep when a receive entry changes. -/
theorem State.setRecv_sends {t : State} (x : RecvFlow) {ok : Packet → Prop} (h : Sends t ok) : Sends (t.setRecv x) ok := by
  unfold State.setRecv State.modRte
  dsimp only
  split <;> exact h

/-- The action of the next packet of a flow is done: the flow goes on, and what the action left stays. -/
theorem State.delivered {opc : BitVec 8} {act : State → State × Nat} {P : State → Prop} (hin : NextIn s d p r)
    (hopc : p.opc = opc) (hact : ∀ b, ∃ u, act (s.dropArrived b) = (u, 0) ∧ u.gen.time = s.gen.time ∧ P u)
    (hkeep : ∀ u x, P u → P (u.setRecv x)) :
    P (s.deliver d p opc act) ∧ Advanced s (s.deliver d p opc act) d p r (r.ackDue + 1) := by
  obtain ⟨u, x, hP, hdeliver, hadv⟩ := State.deliver_done hin hopc hact
  rw [hdeliver]
  exact ⟨hkeep u x hP, hadv⟩

theorem filter_range_eq {n k : Nat} (hk : k < n) {q : Nat → Bool} (hq : ∀ c, q c = decide (c = k)) :
    (List.range n).filter q = [k] := by
  rw [List.filter_congr fun c _ => hq c, List.filter_eq,
    List.count_eq_one_of_mem List.nodup_range (List.mem_range.mpr hk)]
  rfl

/-- An addition that is held is the only one. -/
theorem State.newlyHeld_flagAdd {e : Nat} (he : e < 2048) (f : Nat) (v : W32) (hasleep : s.courseAwake (e / 32) = false) :
    s.newlyHeld (s.flagAdd e f v) = [e / 32] := by
  rw [State.flagAdd_asleep s e f v hasleep]
  have hwake := State.requestWake_wakesOnly
    (s.modCrs (e / 32) fun c => { c with heldAdds := c.heldAdds ++ [(e, f, v)] }) (e / 32)
  refine filter_range_eq (by omega) fun c => ?_
  rw [hwake.crs, State.crs_modCrs]
  split
  · next h => simp [h]
  · next h => simp [h]

/-- What a FLAG leaves. -/
theorem State.flagAct_ok {l : Option Loc} (hok : s.reqCheck p 0 false true false = .ok l) :
    State.flagAct p s = (s.raise p (p.arg.setWidth 32), 0) := by
  unfold State.flagAct State.request
  rw [hok]

/-- The answer to a READ. -/
def readAnswer (p : Packet) (bs : List Byte) : Packet :=
  { answerPkt (flowOf p) p.seq 0x13 0 with
    eval := p.eval, ctx := p.ctx, len := BitVec.ofNat 16 bs.length, payload := bs }

/-- READ_DATA as its requester knows it. -/
def Answers (p : Packet) (bs : List Byte) (q : Packet) : Prop :=
  q.opc = 0x13 ∧ q.payload = bs ∧ q.dest = p.src ∧
    q.addr.toNat = p.seq.toNat + p.sdie.toNat * 2 ^ 24 + (if p.epoch then 2 ^ 26 else 0)

theorem readAnswer_answers (u : State) (bs : List Byte) {q : Packet}
    (hq : IsIssued (u.stamped d (readAnswer p bs) p.epoch) q) : Answers p bs q := by
  obtain ⟨_, _, _, _, _, rfl⟩ := hq
  refine ⟨rfl, rfl, ?_, ?_⟩
  · change BitVec.ofNat 17 p.src.toNat = p.src
    exact BitVec.ofNat_toNat 17 p.src |>.trans (BitVec.setWidth_eq _)
  · change (BitVec.ofNat 48 (p.seq.toNat + p.sdie.toNat % 4 * 2 ^ 24 + b2n p.epoch * 2 ^ 26)).toNat = _
    have hseq := p.seq.isLt
    have hdie := p.sdie.isLt
    rw [BitVec.toNat_ofNat]
    cases p.epoch with
    | true =>
      change (p.seq.toNat + p.sdie.toNat % 4 * 2 ^ 24 + 1 * 2 ^ 26) % 2 ^ 48 = p.seq.toNat + p.sdie.toNat * 2 ^ 24 + 2 ^ 26
      omega
    | false =>
      change (p.seq.toNat + p.sdie.toNat % 4 * 2 ^ 24 + 0 * 2 ^ 26) % 2 ^ 48 = p.seq.toNat + p.sdie.toNat * 2 ^ 24 + 0
      omega

theorem State.readAct_ok {l : Loc} (hquiet : s.noCopies)
    (hok : s.reqCheck p p.arg.toNat false false false = .ok (some l)) :
    State.readAct d p s = ((s.fetchLoc l p.arg.toNat).2.send d (readAnswer p (s.readLoc l p.arg.toNat)) p.epoch
      .reply (some l) true, 0) := by
  unfold State.readAct State.request
  rw [hok]
  dsimp only
  rw [State.racyRead_quiet hquiet, State.fetchLoc_fst]
  rfl

theorem State.readAct_spec {l : Loc} (hquiet : s.noCopies)
    (hok : s.reqCheck p p.arg.toNat false false false = .ok (some l)) (htc : p.tc ≠ 4) :
    ∃ u, State.readAct d p s = (u, 0) ∧ u.gen.time = s.gen.time ∧ SameStores s u ∧ SameFlags s u ∧
      Sends u (Answers p (s.readLoc l p.arg.toNat)) := by
  refine ⟨_, State.readAct_ok hquiet hok, ?_⟩
  have hfetch := State.fetchLoc_storeFrame s l p.arg.toNat
  have hplaces := State.fetchLoc_samePlaces s l p.arg.toNat
  generalize (s.fetchLoc l p.arg.toNat).2 = v at hfetch hplaces
  have hseq : sequenced (v.stamped d (readAnswer p (s.readLoc l p.arg.toNat)) p.epoch) = true := by
    refine sequenced_of ?_ (show (0x13 : BitVec 8) ≠ 0xF0 by decide) (show (0x13 : BitVec 8) ≠ 0xF1 by decide)
    change BitVec.ofNat 3 p.tc.toNat ≠ 4
    rw [BitVec.ofNat_toNat, BitVec.setWidth_eq]
    exact htc
  have hsend := State.send_sendsOnly v .reply d (readAnswer p (s.readLoc l p.arg.toNat)) p.epoch (some l) true
  have hholds := (State.send_holds (s := v) (op := .reply) (src := some l) (last := true) hseq).2
  have hgen : (v.send d (readAnswer p (s.readLoc l p.arg.toNat)) p.epoch .reply (some l) true).gen = v.gen := by
    have hx := congrArg State.gen hsend.frame
    exact hx
  refine ⟨by rw [hgen, hplaces.gen], State.stores_split (hsend.stores.trans hplaces.stores),
    fun e f => (hsend.flagVal e f).trans (hfetch.flagVal e f), ?_⟩
  exact (hholds.imp fun q hq => readAnswer_answers v _ hq).sends

theorem exec_read (hd : d < 4) (hlo : 1 ≤ p.arg) (hhi : p.arg ≤ 4096) :
    exec (.read d p) s = .next (s.deliver d p 0x12 (State.readAct d p)) := by
  have hgood : badRead p = false := by
    unfold badRead
    rw [Bool.or_eq_false_iff]
    refine ⟨?_, ?_⟩
    · rw [beq_eq_false_iff_ne]
      bv_omega
    · rw [decide_eq_false_iff_not]
      bv_omega
  change guarded (isDie d) (s.readArrives d p) = _
  rw [guarded_ok (show isDie d = true from decide_eq_true hd)]
  unfold State.readArrives
  rw [hgood, if_neg Bool.false_ne_true]

/-! ## Keystone messages (R234, R235) -/

theorem KeyFrame.stores {u : State} {k : Nat} (h : KeyFrame s u k) : SameStores s u := by
  have hframe := h.frame
  exact ⟨by rw [hframe], by rw [hframe], by rw [hframe]⟩

theorem KeyFrame.time {u : State} {k : Nat} (h : KeyFrame s u k) : u.gen.time = s.gen.time := by rw [h.frame]

theorem State.keyMismatch_spec (k : Nat) : KeyFrame s (s.keyMismatch k) k ∧
    (s.keyMismatch k).key k = { s.key k with mismatch := min ((s.key k).mismatch + 1) 0xFFFFFFFF } :=
  ⟨KeyFrame.setKey s k _, State.key_setKey_self ..⟩

/-- A keystone message for the phase of a line of module reach. -/
def KeyFits (s : State) (p : Packet) : Prop :=
  (s.key (p.arg.toNat % 16)).reach = 2 ∧ p.addr.setWidth 32 = (s.key (p.arg.toNat % 16)).phase

theorem State.keyReport_fits (hfits : KeyFits s p ∧ p.src.toNat ∈ s.keyChildren) :
    KeyFrame s (s.keyReport p) (p.arg.toNat % 16) ∧
    (p.src.toNat ∉ (s.key (p.arg.toNat % 16)).reports →
      (s.key (p.arg.toNat % 16)).count < (s.key (p.arg.toNat % 16)).expect →
      (s.keyReport p).key (p.arg.toNat % 16) = { s.key (p.arg.toNat % 16) with
        reports := (s.key (p.arg.toNat % 16)).reports ++ [p.src.toNat] }) := by
  obtain ⟨⟨hreach, hphase⟩, hchild⟩ := hfits
  unfold State.keyReport
  dsimp only
  generalize p.arg.toNat % 16 = k at hreach hphase ⊢
  rw [if_neg (by simp [hreach, hphase, hchild])]
  refine ⟨(KeyFrame.setKey s k _).trans (State.keyShare_keyFrame _ k), fun hnew hcount => ?_⟩
  rw [State.keyShare_short _ _ (by rw [State.key_setKey_self]; exact hcount), State.key_setKey_self,
    if_neg (by simpa using hnew)]

theorem State.keyReport_other (hfits : ¬ (KeyFits s p ∧ p.src.toNat ∈ s.keyChildren)) :
    s.keyReport p = s.keyMismatch (p.arg.toNat % 16) := by
  unfold State.keyReport
  dsimp only
  refine if_pos ?_
  by_contra hc
  simp only [Bool.or_eq_true, decide_eq_true_eq, Bool.not_eq_true', List.contains_eq_mem, decide_eq_false_iff_not, not_or,
    not_not] at hc
  exact hfits ⟨⟨hc.1.1, hc.1.2⟩, hc.2⟩

theorem State.keyRelease_fits (hfits : KeyFits s p ∧ s.keyParent = some p.src.toNat) :
    KeyFrame s (s.keyRelease p) (p.arg.toNat % 16) ∧
    ((s.key (p.arg.toNat % 16)).count = (s.key (p.arg.toNat % 16)).expect →
      (s.key (p.arg.toNat % 16)).expect ≠ 0 →
      (s.keyRelease p).key (p.arg.toNat % 16) = { s.key (p.arg.toNat % 16) with
        phase := (s.key (p.arg.toNat % 16)).phase + 1, count := 0, reports := [], shareDone := false }) := by
  obtain ⟨⟨hreach, hphase⟩, hparent⟩ := hfits
  unfold State.keyRelease
  dsimp only
  generalize p.arg.toNat % 16 = k at hreach hphase ⊢
  rw [if_neg (by simp [hreach, hphase, hparent])]
  refine ⟨(s.keyAdvance_keyFrame k).trans (State.keyShare_keyFrame _ k), fun hcount hexpect => ?_⟩
  have hkey := s.keyAdvance_key k
  have hzero : (s.key k).advanced = { s.key k with
      phase := (s.key k).phase + 1, count := 0, reports := [], shareDone := false } := by
    unfold KeyLine.advanced
    rw [hcount, Nat.sub_self]
  rw [hzero] at hkey
  rw [State.keyShare_short _ _ (by rw [hkey]; exact Nat.pos_of_ne_zero hexpect), hkey]

theorem State.keyRelease_other (hfits : ¬ (KeyFits s p ∧ s.keyParent = some p.src.toNat)) :
    s.keyRelease p = s.keyMismatch (p.arg.toNat % 16) := by
  unfold State.keyRelease
  dsimp only
  refine if_pos ?_
  by_contra hc
  simp only [Bool.or_eq_true, decide_eq_true_eq, not_or, not_not] at hc
  exact hfits ⟨⟨hc.1.1, hc.1.2⟩, hc.2⟩
end

end Sys2Proof.Machine
end

section
/-!
SUPPORT. O38: what the module does with each request packet (R266 to R273, R309).
-/
namespace Sys2Proof.Machine

section
variable {s : State} {d : Nat} {p : Packet} {a : Arrived} {r : RecvFlow} (h : HasArrived s d p a)
  (hr : s.recvFlow d (flowOf p) = some r) (hopn : p.opn = false)
include h hr hopn

theorem write_outOfOrder (hopc : p.opc = 0x10) (hseq : p.seq ≠ r.expected) :
    ∃ t, exec (.write d p) s = .next t ∧ SameStores s t ∧ SameFlags s t ∧
      if (r.expected - 1 - p.seq).toNat < 2 ^ 23 then (t.ctr d).dup = min ((s.ctr d).dup + 1) (2 ^ 64 - 1)
      else (t.ctr d).gap = min ((s.ctr d).gap + 1) (2 ^ 64 - 1) ∧ t.recvFlow d (flowOf p) = some r := by
  have hexec : exec (.write d p) s = .next ((s.dropArrived a).receive d p (State.writeAct p false false)) :=
    h.row_exec (row := (.write, 0x10, false, false)) (List.mem_cons_self ..) hopc
  refine ⟨_, hexec, ?_⟩
  split
  · next hle =>
    obtain ⟨hstores, hflags, -, hdup⟩ := State.dup_spec (s := s.dropArrived a) hr
      (State.receive_dup (act := State.writeAct p false false) hr (.inr ⟨hopn, hseq, hle⟩))
    exact ⟨hstores, hflags, hdup⟩
  · next hgap =>
    rw [State.receive_gap (s := s.dropArrived a) hr hopn hseq hgap]
    refine ⟨⟨rfl, rfl, rfl⟩, fun _ _ => rfl, ?_, hr⟩
    rw [State.ctr_modCtr, if_pos rfl]
    rfl

section
variable (hseq : p.seq = r.expected)
include hseq

theorem flag_awake (hopc : p.opc = 0x14)
    (hawake : p.tgtFlag = 0x3F ∨ s.courseAwake (p.tgtEngine.toNat / 32) = true) {l : Option Loc}
    (hok : s.reqCheck p 0 false true false = .ok l) :
    ∃ t, exec (.flag d p) s = .next t ∧ SameStores s t ∧ Advanced s t d p r (r.ackDue + 1) ∧
      FlagsRaised s t p (p.arg.setWidth 32) := by
  obtain ⟨⟨hstores, hflags⟩, hadv⟩ := State.delivered (P := fun u => SameStores s u ∧ FlagsRaised s u p (p.arg.setWidth 32))
    (act := State.flagAct p) (h.nextIn hr hopn hseq) hopc (fun b => by
      have hframe := (s.dropArrived b).raise_flagFrame p (p.arg.setWidth 32)
      exact ⟨_, State.flagAct_ok (s := s.dropArrived b) hok, hframe.time, hframe.stores,
        State.raise_raised (s := s.dropArrived b) _ hawake⟩) fun u x hu => by
      obtain ⟨hxstores, hxflags, -, -⟩ := u.setRecv_flags x
      exact ⟨SameStores.trans hu.1 hxstores, fun e f => (hxflags e f).trans (hu.2 e f)⟩
  refine ⟨_, ?_, hstores, hadv, hflags⟩
  change guarded (isDie d) _ = _
  rw [guarded_ok (show isDie d = true from decide_eq_true h.die)]

theorem flag_asleep (hopc : p.opc = 0x14)
    (hawake : ¬ (p.tgtFlag = 0x3F ∨ s.courseAwake (p.tgtEngine.toNat / 32) = true)) {l : Option Loc}
    (hok : s.reqCheck p 0 false true false = .ok l) :
    ∃ t, exec (.flag d p) s = .next t ∧ SameStores s t ∧ Advanced s t d p r (r.ackDue + 1) ∧
      FlagRaised s t p.tgtEngine.toNat p.tgtFlag.toNat (p.arg.setWidth 32) ∧
      s.newlyHeld t = [p.tgtEngine.toNat / 32] := by
  rw [not_or] at hawake
  obtain ⟨hflag, hasleep⟩ := hawake
  have hasleep := eq_false_of_ne_true hasleep
  obtain ⟨⟨hstores, hraised, hheld⟩, hadv⟩ := State.delivered (P := fun u => SameStores s u ∧
      FlagRaised s u p.tgtEngine.toNat p.tgtFlag.toNat (p.arg.setWidth 32) ∧
      s.newlyHeld u = [p.tgtEngine.toNat / 32])
    (act := State.flagAct p) (h.nextIn hr hopn hseq) hopc (fun b => by
      have hraise : (s.dropArrived b).raise p (p.arg.setWidth 32) =
          (s.dropArrived b).flagAdd p.tgtEngine.toNat p.tgtFlag.toNat (p.arg.setWidth 32) := if_neg hflag
      have hframe := (s.dropArrived b).raise_flagFrame p (p.arg.setWidth 32)
      refine ⟨_, State.flagAct_ok (s := s.dropArrived b) hok, hframe.time, hframe.stores, ?_, ?_⟩
      · rw [hraise]
        exact (s.dropArrived b).flagAdd_raised _ _ _
      · rw [hraise]
        exact State.newlyHeld_flagAdd (s := s.dropArrived b) p.tgtEngine.isLt _ _ hasleep) fun u x hu => by
      obtain ⟨hxstores, -, -, -⟩ := u.setRecv_flags x
      exact ⟨SameStores.trans hu.1 hxstores, hu.2.1, hu.2.2⟩
  refine ⟨_, ?_, hstores, hadv, hraised, hheld⟩
  change guarded (isDie d) _ = _
  rw [guarded_ok (show isDie d = true from decide_eq_true h.die)]

theorem read_done (hopc : p.opc = 0x12) (htc : p.tc ≠ 4) (hlo : 1 ≤ p.arg) (hhi : p.arg ≤ 4096) (hquiet : s.noCopies)
    {l : Loc} (hok : s.reqCheck p p.arg.toNat false false false = .ok (some l)) :
    ∃ t, exec (.read d p) s = .next t ∧ SameStores s t ∧ SameFlags s t ∧ Advanced s t d p r (r.ackDue + 1) ∧
      Sends t (Answers p (s.readLoc l p.arg.toNat)) := by
  obtain ⟨⟨hstores, hflags, hsends⟩, hadv⟩ := State.delivered (P := fun u => SameStores s u ∧ SameFlags s u ∧
      Sends u (Answers p (s.readLoc l p.arg.toNat)))
    (act := State.readAct d p) (h.nextIn hr hopn hseq) hopc (fun b => by
      have hplaces : SamePlaces s (s.dropArrived b) := ⟨rfl, rfl, rfl⟩
      obtain ⟨u, hu, htime, hstores, hflags, hsends⟩ := State.readAct_spec (s := s.dropArrived b) (d := d) hquiet hok htc
      rw [hplaces.readLoc] at hsends
      exact ⟨u, hu, htime, hstores, hflags, hsends⟩) fun u x hu => by
      obtain ⟨hxstores, hxflags, -, -⟩ := u.setRecv_flags x
      exact ⟨SameStores.trans hu.1 hxstores, fun e f => (hxflags e f).trans (hu.2.1 e f), State.setRecv_sends x hu.2.2⟩
  exact ⟨_, exec_read h.die hlo hhi, hstores, hflags, hadv, hsends⟩

theorem mgmt_done (hopc : p.opc = 0x60) :
    ∃ t, exec (.mgmtMessage d p) s = .next t ∧ SameStores s t ∧ SameFlags s t ∧ Advanced s t d p r (r.ackDue + 1) := by
  obtain ⟨⟨hstores, hflags⟩, hadv⟩ := State.delivered (P := fun u => SameStores s u ∧ SameFlags s u)
    (act := fun s => (s, 0)) (h.nextIn hr hopn hseq) rfl
    (fun b => ⟨_, rfl, rfl, ⟨rfl, rfl, rfl⟩, fun _ _ => rfl⟩) fun u x hu => by
      obtain ⟨hxstores, hxflags, -, -⟩ := u.setRecv_flags x
      exact ⟨SameStores.trans hu.1 hxstores, fun e f => (hxflags e f).trans (hu.2 e f)⟩
  refine ⟨_, ?_, hstores, hflags, hadv⟩
  change guarded (isDie d) (if 0x60 ≤ p.opc ∧ p.opc ≤ 0x6F then _ else _) = _
  rw [guarded_ok (show isDie d = true from decide_eq_true h.die), if_pos (by rw [hopc]; decide)]

/-- A keystone message does its action, which changes the line that it names. -/
theorem key_done {opc : BitVec 8} (hopc : p.opc = opc) {go : State → State}
    (hgo : ∀ b, KeyFrame (s.dropArrived b) (go (s.dropArrived b)) (p.arg.toNat % 16)) {C : KeyLine → Prop}
    (hC : ∀ b, C ((go (s.dropArrived b)).key (p.arg.toNat % 16))) :
    SameStores s (s.deliver d p opc fun s => (go s, 0)) ∧
      Advanced s (s.deliver d p opc fun s => (go s, 0)) d p r (r.ackDue + 1) ∧
      C ((s.deliver d p opc fun s => (go s, 0)).key (p.arg.toNat % 16)) := by
  obtain ⟨⟨hstores, hkey⟩, hadv⟩ := State.delivered (P := fun u => SameStores s u ∧ C (u.key (p.arg.toNat % 16)))
    (act := fun s => (go s, 0)) (h.nextIn hr hopn hseq) hopc
    (fun b => ⟨_, rfl, (hgo b).time, (hgo b).stores, hC b⟩) fun u x hu =>
      ⟨SameStores.trans hu.1 (u.setRecv_flags x).1, hu.2⟩
  exact ⟨hstores, hadv, hkey⟩

theorem keyReport_done (hopc : p.opc = 0x20) :
    ∃ t, exec (.keyReport d p) s = .next t ∧ SameStores s t ∧ Advanced s t d p r (r.ackDue + 1) ∧
      (KeyFits s p ∧ p.src.toNat ∈ s.keyChildren → p.src.toNat ∉ (s.key (p.arg.toNat % 16)).reports →
        (s.key (p.arg.toNat % 16)).count < (s.key (p.arg.toNat % 16)).expect →
        t.key (p.arg.toNat % 16) = { s.key (p.arg.toNat % 16) with
          reports := (s.key (p.arg.toNat % 16)).reports ++ [p.src.toNat] }) ∧
      (¬ (KeyFits s p ∧ p.src.toNat ∈ s.keyChildren) → t.key (p.arg.toNat % 16) =
        { s.key (p.arg.toNat % 16) with mismatch := min ((s.key (p.arg.toNat % 16)).mismatch + 1) 0xFFFFFFFF }) := by
  have hexec : exec (.keyReport d p) s = .next (s.deliver d p 0x20 fun s => (s.keyReport p, 0)) := by
    change guarded (isDie d) _ = _
    rw [guarded_ok (show isDie d = true from decide_eq_true h.die)]
  refine ⟨_, hexec, ?_⟩
  by_cases hfits : KeyFits s p ∧ p.src.toNat ∈ s.keyChildren
  · obtain ⟨hstores, hadv, hkey⟩ := key_done h hr hopn hseq hopc (go := fun s => s.keyReport p)
      (C := fun y => p.src.toNat ∉ (s.key (p.arg.toNat % 16)).reports →
        (s.key (p.arg.toNat % 16)).count < (s.key (p.arg.toNat % 16)).expect → y = { s.key (p.arg.toNat % 16) with
          reports := (s.key (p.arg.toNat % 16)).reports ++ [p.src.toNat] })
      (fun b => (State.keyReport_fits (s := s.dropArrived b) hfits).1)
      fun b => (State.keyReport_fits (s := s.dropArrived b) hfits).2
    exact ⟨hstores, hadv, fun _ => hkey, fun hno => absurd hfits hno⟩
  · obtain ⟨hstores, hadv, hkey⟩ := key_done h hr hopn hseq hopc (go := fun s => s.keyReport p)
      (C := fun y => y = { s.key (p.arg.toNat % 16) with
        mismatch := min ((s.key (p.arg.toNat % 16)).mismatch + 1) 0xFFFFFFFF })
      (fun b => by
        rw [State.keyReport_other (s := s.dropArrived b) hfits]
        exact (State.keyMismatch_spec _).1)
      fun b => by
        rw [State.keyReport_other (s := s.dropArrived b) hfits]
        exact (State.keyMismatch_spec _).2
    exact ⟨hstores, hadv, fun hyes => absurd hyes hfits, fun _ => hkey⟩

theorem keyRelease_done (hopc : p.opc = 0x21) :
    ∃ t, exec (.keyRelease d p) s = .next t ∧ SameStores s t ∧ Advanced s t d p r (r.ackDue + 1) ∧
      (KeyFits s p ∧ s.keyParent = some p.src.toNat →
        (s.key (p.arg.toNat % 16)).count = (s.key (p.arg.toNat % 16)).expect →
        (s.key (p.arg.toNat % 16)).expect ≠ 0 → t.key (p.arg.toNat % 16) = { s.key (p.arg.toNat % 16) with
          phase := (s.key (p.arg.toNat % 16)).phase + 1, count := 0, reports := [], shareDone := false }) ∧
      (¬ (KeyFits s p ∧ s.keyParent = some p.src.toNat) → t.key (p.arg.toNat % 16) =
        { s.key (p.arg.toNat % 16) with mismatch := min ((s.key (p.arg.toNat % 16)).mismatch + 1) 0xFFFFFFFF }) := by
  have hexec : exec (.keyRelease d p) s = .next (s.deliver d p 0x21 fun s => (s.keyRelease p, 0)) := by
    change guarded (isDie d) _ = _
    rw [guarded_ok (show isDie d = true from decide_eq_true h.die)]
  refine ⟨_, hexec, ?_⟩
  by_cases hfits : KeyFits s p ∧ s.keyParent = some p.src.toNat
  · obtain ⟨hstores, hadv, hkey⟩ := key_done h hr hopn hseq hopc (go := fun s => s.keyRelease p)
      (C := fun y => (s.key (p.arg.toNat % 16)).count = (s.key (p.arg.toNat % 16)).expect →
        (s.key (p.arg.toNat % 16)).expect ≠ 0 → y = { s.key (p.arg.toNat % 16) with
          phase := (s.key (p.arg.toNat % 16)).phase + 1, count := 0, reports := [], shareDone := false })
      (fun b => (State.keyRelease_fits (s := s.dropArrived b) hfits).1)
      fun b => (State.keyRelease_fits (s := s.dropArrived b) hfits).2
    exact ⟨hstores, hadv, fun _ => hkey, fun hno => absurd hfits hno⟩
  · obtain ⟨hstores, hadv, hkey⟩ := key_done h hr hopn hseq hopc (go := fun s => s.keyRelease p)
      (C := fun y => y = { s.key (p.arg.toNat % 16) with
        mismatch := min ((s.key (p.arg.toNat % 16)).mismatch + 1) 0xFFFFFFFF })
      (fun b => by
        rw [State.keyRelease_other (s := s.dropArrived b) hfits]
        exact (State.keyMismatch_spec _).1)
      fun b => by
        rw [State.keyRelease_other (s := s.dropArrived b) hfits]
        exact (State.keyMismatch_spec _).2
    exact ⟨hstores, hadv, fun hyes => absurd hyes hfits, fun _ => hkey⟩
end
end

/-- Settles O38: what each request packet does when it is expected, opens its flow, repeats one, or comes too early. -/
theorem requests : Obligations.Requests := by
  intro s d p a hd hlive hlocal ha
  have h : HasArrived s d p a := ⟨hd, hlive, hlocal, ha⟩
  refine ⟨fun row hrow hopc => ⟨fun hr hopn => write_noFlow h hrow hopc hr hopn,
    fun hopn hknown hawake l hok => ?_, fun hopn hr hfull hyoung => write_full h hrow hopc hopn hr hfull hyoung,
    fun r hr hopn hseq => write_reopened h hrow hopc hr hopn hseq⟩, fun r hr hopn => ?_⟩
  · obtain ⟨t, hexec, harrived, hrecv, hstores, hflags⟩ := write_opens h hrow hopc hopn hknown hawake hok
    exact ⟨t, hexec, harrived, hrecv, hstores, hflags⟩
  refine ⟨fun row hrow hopc hseq => ⟨fun l hok hawake => ?_, fun herr => write_refused h hrow hopc hr hopn hseq herr,
    fun k h0 h1 herr => write_failed h hrow hopc hr hopn hseq h0 h1 herr⟩,
    fun hopc hseq hawake l hok => flag_awake h hr hopn hseq hopc hawake hok,
    fun hopc hseq hawake l hok => flag_asleep h hr hopn hseq hopc hawake hok,
    fun hopc htc hseq hlo hhi hquiet l hok => read_done h hr hopn hseq hopc htc hlo hhi hquiet hok,
    fun hopc hseq => write_outOfOrder h hr hopn hopc hseq, fun hopc hseq => mgmt_done h hr hopn hseq hopc,
    fun hseq _ => ⟨fun hopc => keyReport_done h hr hopn hseq hopc, fun hopc => keyRelease_done h hr hopn hseq hopc⟩⟩
  obtain ⟨t, hexec, hadv, hstores, hflags⟩ := write_done h hrow hopc hr hopn hseq hawake hok
  exact ⟨t, hexec, hadv, hstores, hflags⟩

end Sys2Proof.Machine
end

section
/-!
SUPPORT. O39: an answer that fails an operation may undo flag changes of another item (R113, R272).
-/
namespace Sys2Proof.Machine

/-! ## An answer that fails an operation, after which its engine undoes another item's flag changes (R113, R272)

Engine 0 runs the item in slot 0 of course 0, one of whose network operations the peer refuses with ACCESS. The item ends, and
its engine chooses the yielded item in slot 1, an operation of which has met CHECK: its addition to flag 3 is undone. -/

/-- An item of context 0 that was yielded, or runs, on engine 0. -/
def refusedDesc : ItemDesc :=
  { entry := 0, pinned := false, net := true, reexec := true, lsDep := false, prio := 3, affinity := 0, seq := 7,
    doneValid := false, doneEngine := 0, doneFlag := 0, arg := 0, in0Base := 0, in1Base := 0, outBase := 0, in0Len := 0,
    in1Len := 0, outLen := 0, ctx := 0, rslot := 0xFF, eval := false }

/-- The state of the yielded item: it has added 1 to flag 3, and is to be executed again. -/
def refusedSaved : Saved :=
  { numstat := 0, contrib := none, flushes := [], spawns := [], undo := [(3, 1)], itemCyc := 0, failed := true }

def refusedHod : Tab HodSlot :=
  [(0, { desc := refusedDesc, status := .running 0, stamp := 0, listed := 0, saved := none, limit := 50000 }),
   (1, { desc := refusedDesc, status := .yielded 0, stamp := 0, listed := 0, saved := some refusedSaved, limit := 50000 })]

/-- An NPUT of the running item. -/
def refusedOp : NetOp :=
  { id := 0, kind := .put, flag := 0, flagEngine := 0, die := 0, dest := 9, tc := 1, loc := .ls 0 0, remote := 0, len := 0,
    tgtEngine := 0, tgtFlag := 0x3F, amount := 0, step := none, parts := [], sent := true, epoch := false, eval := false,
    ctx := 0, itemSeq := 7, live := true, reset := false, homeCourse := 0, slot := 0, opc := 0x80, pc := 0 }

/-- Its packet, which node 5 has sent to node 9. -/
def refusedSent : Sent :=
  { pkt := { blankPkt with dest := 9, src := 5, tc := 1, opc := 0x11, seq := 4 }, op := .engine 0 0, src := none,
    last := true, ord := 0, out := true }

/-- The RESPONSE of node 9 to it: ACCESS. -/
def refusedAnswer : Packet :=
  { blankPkt with dest := 5, src := 9, tc := 1, opc := 0xF1, arg := 3, addr := 4, seq := 6 }

def refusedFlow : SendFlow :=
  { id := { src := 5, sdie := 0, dest := 9, tc := 1, epoch := false }, nextSeq := 5, unacked := [refusedSent], expiries := 0,
    backoff := none, refusals := 0, flipped := false }

def refusedRecv : RecvFlow :=
  { id := flowOf refusedAnswer, die := 0, expected := 6, openSeq := 0, ackDue := 0, holds := [], at_ := 0 }

def refusedState : State :=
  { State.reset with
    pwr := { Pwr.reset with inputOn := true, seq := .on, en := true }
    bu := { Bu.reset with stage := 9, st := .ready }
    doms := [(0, { Dom.reset with level := 0 })]
    cfg := { Cfg.reset with
      applied := true, courseEn := 1, engMask := [(0, 1)]
      parts := [(0, { hostPort := 0, offloadWin := 1, courseMask := 1, ctxFirst := 0, ctxCount := 8, slotFirst := 0,
                      slotCount := 8 })] }
    engines := [(0, { Engine.reset with
      act := .run, item := some (0, 0), slot := 0, flags := [(3, 1)], nets := [refusedOp] })]
    courses := [(0, { Course.reset with enabled := true, licensed := true, passed := true, hod := refusedHod })]
    rte := { Rte.reset with
      send := [refusedFlow], recv := [refusedRecv]
      arrived := [{ die := 0, pkt := refusedAnswer, whole := true, inp := none }] } }

/-- The flags as a command leaves them. -/
def flagAfter (c : Instr) (s : State) (e f : Nat) : W32 :=
  match exec c s with
  | .next t => t.flagVal e f
  | _ => 0

/-- Refutes O39: a RESPONSE with ACCESS ends the running item, and its engine at once undoes the flag changes of the yielded
item that it executes again, so that the flags are not what they were. -/
theorem not_answers : ¬ Obligations.Answers := by
  intro h
  obtain ⟨-, -, -, hfails, -, -⟩ := h refusedState 0 refusedAnswer (by decide) (by decide +kernel)
  obtain ⟨t, hexec, -, hflags, -⟩ := hfails { die := 0, pkt := refusedAnswer, whole := true, inp := none } refusedRecv
    refusedFlow 0 refusedOp refusedSent [] rfl (.inr (.inl rfl)) (by decide +kernel) (by decide +kernel)
    (by decide +kernel) rfl rfl (by decide +kernel) rfl rfl (by decide +kernel) nofun rfl (by decide +kernel) rfl
    (.inr (by decide +kernel)) (by decide +kernel)
  have hundone : flagAfter (.response 0 refusedAnswer) refusedState 0 3 = 0 := by decide +kernel
  have hstood : refusedState.flagVal 0 3 = 1 := by decide +kernel
  rw [flagAfter, hexec] at hundone
  change t.flagVal 0 3 = 0 at hundone
  have hsame := hflags 0 3
  rw [hundone, hstood] at hsame
  exact absurd hsame (by decide)

end Sys2Proof.Machine
end

section
/-!
SUPPORT. O40: a flow that gives up may undo flag changes of another item (R113, R270).
-/
namespace Sys2Proof.Machine

/-! ## A flow that gives up, after which the engine of its operation chooses (R113, R270)

The operation of engine 0, in partition 0, belongs to the item in slot 0 of course 0, which runs on engine 32, of partition 1.
The give-up halts partition 1 alone, and engine 0 chooses the yielded item in slot 1, whose addition to flag 3 is undone. -/

def gaveUpFlow : SendFlow := { refusedFlow with expiries := 100 }

def gaveUpHod : Tab HodSlot :=
  [(0, { desc := refusedDesc, status := .running 32, stamp := 0, listed := 0, saved := none, limit := 50000 }),
   (1, { desc := refusedDesc, status := .yielded 0, stamp := 0, listed := 0, saved := some refusedSaved, limit := 50000 })]

/-- A partition of one course. -/
def coursePart (c : Nat) : PartCfg :=
  { hostPort := 0, offloadWin := 1, courseMask := BitVec.ofNat 64 (2 ^ c), ctxFirst := 0, ctxCount := 8, slotFirst := 0,
    slotCount := 8 }

def gaveUpState : State :=
  { refusedState with
    doms := [(0, { Dom.reset with level := 0 }), (1, { Dom.reset with level := 0 })]
    cfg := { refusedState.cfg with
      courseEn := 3, engMask := [(0, 1), (1, 1)], parts := [(0, coursePart 0), (1, coursePart 1)] }
    engines := [
      (0, { Engine.reset with act := .idle, slot := 0, flags := [(3, 1)], nets := [refusedOp] }),
      (32, { Engine.reset with act := .run, slot := 0, item := some (0, 0) })]
    courses := [(0, { Course.reset with enabled := true, licensed := true, passed := true, hod := gaveUpHod }),
                (1, { Course.reset with enabled := true, licensed := true, passed := true })]
    rte := { Rte.reset with send := [gaveUpFlow] } }

/-- Refutes O40: in a state in which the item of a failed operation runs on an engine of another partition, the give-up halts
that partition alone; the engine of the operation goes on to choose, and undoes the flag changes of a yielded item. -/
theorem not_transportTimers : ¬ Obligations.TransportTimers := by
  intro h
  obtain ⟨-, -, hflows, -, -⟩ := h gaveUpState gaveUpFlow.id (by decide +kernel)
  obtain ⟨-, hgiveUp, -⟩ := hflows gaveUpFlow (by decide +kernel)
  obtain ⟨t, hexec, -, hflags, -⟩ := hgiveUp nofun (by decide +kernel) fun g hg _ => List.mem_singleton.mp hg
  have hundone : flagAfter (.transportGiveUp gaveUpFlow.id) gaveUpState 0 3 = 0 := by decide +kernel
  have hstood : gaveUpState.flagVal 0 3 = 1 := by decide +kernel
  rw [flagAfter, hexec] at hundone
  change t.flagVal 0 3 = 0 at hundone
  have hsame := hflags 0 3
  rw [hundone, hstood] at hsame
  exact absurd hsame (by decide)

end Sys2Proof.Machine
end

section
/-!
SUPPORT. Messages and streams of casts (R336, R342, R348).
-/
namespace Sys2Proof.Machine

/-! ## Messages of casts (R336, R342, R348) -/

/-- What the module reads and sends in a cast leaves: the counts of piers and their wakes, the packets and the ports. -/
structure Streamed (s t : State) : Prop where
  frame : t = { s with mcs := t.mcs, doms := t.doms, pwr := t.pwr, rte := t.rte, ports := t.ports }
  recv : RecvFrame s t
  holds : ∀ ok, Holds s ok → Holds t ok

theorem Streamed.refl (s : State) : Streamed s s := ⟨rfl, .refl s, fun _ h => h⟩

section
variable {s t u : State}

theorem Streamed.trans (h : Streamed s t) (k : Streamed t u) : Streamed s u where
  frame := by
    have hswap : ∀ a b c d e, { t with mcs := a, doms := b, pwr := c, rte := d, ports := e } =
        { s with mcs := a, doms := b, pwr := c, rte := d, ports := e } := fun a b c d e => by rw [h.frame]
    exact k.frame.trans (hswap _ _ _ _ _)
  recv := h.recv.trans k.recv
  holds ok hok := k.holds ok (h.holds ok hok)

theorem Streamed.engines (h : Streamed s t) : t.engines = s.engines := by rw [h.frame]
theorem Streamed.courses (h : Streamed s t) : t.courses = s.courses := by rw [h.frame]
theorem Streamed.stores (h : Streamed s t) : t.stores = s.stores := by
  rw [h.frame]
  rfl
theorem Streamed.samePlaces (h : Streamed s t) : SamePlaces s t := ⟨h.stores, by rw [h.frame], by rw [h.frame]⟩
theorem Streamed.flags (h : Streamed s t) : SameFlags s t := fun e f => by
  unfold State.flagVal
  rw [State.eng_of_engines h.engines]

theorem StoreFrame.streamed (h : StoreFrame s t) (hstores : t.stores = s.stores) : Streamed s t := by
  obtain ⟨hls, hcs, hmem⟩ := State.stores_split hstores
  have hframe := h.frame
  rw [hls, hcs, hmem] at hframe
  have hrte : t.rte = s.rte := by rw [hframe]
  have hports : t.ports = s.ports := by rw [hframe]
  refine ⟨?_, .of_rte hrte, fun ok hok => hok.of_same (.of_rte hrte)⟩
  rw [hrte, hports]
  exact hframe

theorem State.fetchLoc_streamed (s : State) (l : Loc) (n : Nat) : Streamed s (s.fetchLoc l n).2 :=
  (s.fetchLoc_storeFrame l n).streamed (s.fetchLoc_samePlaces l n).stores

/-- A sequenced packet that is sent for no READ. -/
theorem State.send_streamed {d : Nat} {p : Packet} {ep : Bool} {op : OpRef} {src : Option Loc} {last : Bool}
    (hopc : p.opc ≠ 0x12) (hseq : sequenced (s.stamped d p ep) = true) : Streamed s (s.send d p ep op src last) := by
  have hframe := (s.send_sendsOnly op d p ep src last).frame
  have hengines := s.send_quiet (d := d) (ep := ep) (op := op) (src := src) (last := last) hopc
  rw [hengines] at hframe
  have hrecv := s.send_recvFrame d p ep op src last
  have hholds := (State.send_holds (op := op) (src := src) (last := last) hseq).1
  generalize s.send d p ep op src last = v at hframe hrecv hholds
  refine ⟨?_, hrecv, hholds⟩
  have hmcs : v.mcs = s.mcs := by rw [hframe]
  have hdoms : v.doms = s.doms := by rw [hframe]
  have hpwr : v.pwr = s.pwr := by rw [hframe]
  rw [hmcs, hdoms, hpwr]
  exact hframe

/-- A message of a cast as its receiver knows it. -/
structure IsCast (dest : Nat) (opc : BitVec 8) (addr : BitVec 48) (arg : Nat) (bs : List Byte) (q : Packet) : Prop where
  opc : q.opc = opc
  tc : q.tc = 3
  dest : q.dest = BitVec.ofNat 17 dest
  addr : q.addr = addr
  arg : q.arg = BitVec.ofNat 16 arg
  payload : q.payload = bs

section
variable {d dest : Nat} {opc : BitVec 8} {op : OpRef} (hread : opc ≠ 0x12) (hack : opc ≠ 0xF0) (hresp : opc ≠ 0xF1)
include hread hack hresp

theorem State.castMsg_spec (s : State) (addr : BitVec 48) (arg : Nat) (bs : List Byte) (src : Option Loc) :
    Streamed s (s.castMsg d dest opc addr arg bs op src) ∧
      Holds (s.castMsg d dest opc addr arg bs op src) (IsCast dest opc addr arg bs) := by
  have hseq : ∀ ep, sequenced (s.stamped d { blankPkt with
      dest := BitVec.ofNat 17 dest, tc := 3, opc := opc, len := BitVec.ofNat 16 bs.length, addr := addr
      arg := BitVec.ofNat 16 arg, payload := bs } ep) = true := fun ep =>
    sequenced_of (show (3 : BitVec 3) ≠ 4 by decide) hack hresp
  refine ⟨State.send_streamed hread (hseq _), (State.send_holds (hseq _)).2.imp ?_⟩
  rintro _ ⟨_, _, _, _, _, rfl⟩
  exact ⟨rfl, rfl, rfl, rfl, rfl, rfl⟩

/-- The messages of a stream of bytes. -/
theorem State.castMsgs_spec (a : Nat) (f : Nat → List Byte) (src : Option Loc) : ∀ (l : List Nat) (s : State),
    Streamed s (l.foldl (fun s i => s.castMsg d dest opc (BitVec.ofNat 48 (a + 4096 * i)) 0 (f i) op
      (src.map fun l => l.add (4096 * i))) s) ∧
    ∀ i ∈ l, Holds (l.foldl (fun s i => s.castMsg d dest opc (BitVec.ofNat 48 (a + 4096 * i)) 0 (f i) op
      (src.map fun l => l.add (4096 * i))) s) (IsCast dest opc (BitVec.ofNat 48 (a + 4096 * i)) 0 (f i))
  | [], s => ⟨.refl s, fun _ h => absurd h List.not_mem_nil⟩
  | i :: l, s => by
    obtain ⟨hone, hnew⟩ := State.castMsg_spec (d := d) (dest := dest) (op := op) hread hack hresp s
      (BitVec.ofNat 48 (a + 4096 * i)) 0 (f i) (src.map fun l => l.add (4096 * i))
    rw [List.foldl_cons]
    generalize s.castMsg d dest opc (BitVec.ofNat 48 (a + 4096 * i)) 0 (f i) op
      (src.map fun l => l.add (4096 * i)) = v at hone hnew
    obtain ⟨hrest, hall⟩ := State.castMsgs_spec a f src l v
    refine ⟨hone.trans hrest, fun j hj => ?_⟩
    obtain rfl | hj := List.mem_cons.mp hj
    · exact hrest.holds _ hnew
    · exact hall j hj

theorem State.castStream_spec (s : State) (a : Nat) (bs : List Byte) (src : Option Loc) :
    Streamed s (s.castStream d dest opc a bs op src) ∧
      ∀ i, 4096 * i < bs.length → Holds (s.castStream d dest opc a bs op src)
        (IsCast dest opc (BitVec.ofNat 48 (a + 4096 * i)) 0 ((bs.drop (4096 * i)).take 4096)) := by
  have hchunks : (chunks 4096 bs).zipIdx =
      (List.range ((bs.length + 4096 - 1) / 4096)).map fun i => ((bs.drop (4096 * i)).take 4096, i) := by
    rw [chunks_eq (by decide), zipIdx_map_range]
    exact List.map_congr_left fun i _ => by rw [Nat.zero_add]
  unfold State.castStream
  rw [hchunks, List.foldl_map]
  obtain ⟨hframe, hall⟩ := State.castMsgs_spec (d := d) (dest := dest) (op := op) hread hack hresp a
    (fun i => (bs.drop (4096 * i)).take 4096) src (List.range ((bs.length + 4096 - 1) / 4096)) s
  exact ⟨hframe, fun i hi => hall i (List.mem_range.mpr (by omega))⟩
end

/-- The messages of the parts of a stream, all of whose bytes are sent. -/
theorem State.streamSend_spec {d dest : Nat} : ∀ (parts : List (Nat × Nat × Nat × Nat)) (s : State),
    (∀ x ∈ parts, 0 < x.2.2.2 ∧ BitVec.ofNat 8 x.1 ≠ 0x12 ∧ BitVec.ofNat 8 x.1 ≠ 0xF0 ∧ BitVec.ofNat 8 x.1 ≠ 0xF1) →
    Streamed s (State.streamSend d dest parts (parts.map fun x => x.2.2.2).sum s) ∧
    ∀ x ∈ parts, ∀ j, 4096 * j < x.2.2.2 → Holds (State.streamSend d dest parts (parts.map fun x => x.2.2.2).sum s)
      (IsCast dest (BitVec.ofNat 8 x.1) (BitVec.ofNat 48 (x.2.1 + 4096 * j)) 0
        (((s.readPier x.2.2.1 x.2.2.2).drop (4096 * j)).take 4096))
  | [], s, _ => ⟨.refl s, fun _ h => absurd h List.not_mem_nil⟩
  | (opc, x, a, n) :: parts, s, hparts => by
    obtain ⟨⟨hpos, hread, hack, hresp⟩, hrest⟩ := List.forall_mem_cons.mp hparts
    dsimp only at hpos hread hack hresp
    have hfetch := s.fetchLoc_streamed (.pier a) n
    have hbytes : (s.fetchLoc (.pier a) n).1 = s.readPier a n := rfl
    obtain ⟨hstream, hnew⟩ := State.castStream_spec (d := d) (dest := dest) (op := .reply) hread hack hresp
      (s.fetchLoc (.pier a) n).2 x (s.readPier a n) (some (.pier a))
    have hunfold : State.streamSend d dest ((opc, x, a, n) :: parts)
        (((opc, x, a, n) :: parts).map fun x => x.2.2.2).sum s =
        State.streamSend d dest parts (parts.map fun x => x.2.2.2).sum
          ((s.fetchLoc (.pier a) n).2.castStream d dest (BitVec.ofNat 8 opc) x (s.readPier a n) .reply (some (.pier a))) := by
      rw [List.map_cons, List.sum_cons]
      change State.streamSend d dest ((opc, x, a, n) :: parts) (n + (parts.map fun x => x.2.2.2).sum) s = _
      conv_lhs => unfold State.streamSend
      rw [if_neg (by omega), Nat.min_eq_left (by omega), Nat.add_sub_cancel_left, ← hbytes]
    rw [hunfold]
    have hsent := hfetch.trans hstream
    generalize (s.fetchLoc (.pier a) n).2.castStream d dest (BitVec.ofNat 8 opc) x (s.readPier a n) .reply
      (some (.pier a)) = v at hstream hnew hsent
    obtain ⟨hrun, hall⟩ := State.streamSend_spec (d := d) (dest := dest) parts v hrest
    refine ⟨hsent.trans hrun, fun y hy j hj => ?_⟩
    obtain rfl | hy := List.mem_cons.mp hy
    · exact hrun.holds _ (hnew j (by rw [State.readPier_length]; exact hj))
    · have hread := hsent.samePlaces.readLoc (.pier y.2.2.1) y.2.2.2
      have hheld := hall y hy j hj
      change v.readPier y.2.2.1 y.2.2.2 = s.readPier y.2.2.1 y.2.2.2 at hread
      rw [hread] at hheld
      exact hheld
end

end Sys2Proof.Machine
end

section
/-!
SUPPORT. What the holder of a cast keeps (R335, R343).
-/
namespace Sys2Proof.Machine

/-! ## What the holder of a cast keeps (R343) -/

/-- What the handling of cast messages leaves as it was, beside pier space. -/
def Quiet (s t : State) : Prop :=
  t.engines = s.engines ∧ t.courses = s.courses ∧ t.ctxs = s.ctxs ∧ t.parts = s.parts ∧ t.ls = s.ls ∧ t.cs = s.cs

theorem Quiet.refl (s : State) : Quiet s s := ⟨rfl, rfl, rfl, rfl, rfl, rfl⟩

section
variable {s t u : State} {d : Nat} {p : Packet} {r : RecvFlow}

theorem Quiet.trans (h : Quiet s t) (k : Quiet t u) : Quiet s u := by
  obtain ⟨h1, h2, h3, h4, h5, h6⟩ := h
  obtain ⟨k1, k2, k3, k4, k5, k6⟩ := k
  exact ⟨k1.trans h1, k2.trans h2, k3.trans h3, k4.trans h4, k5.trans h5, k6.trans h6⟩

theorem Streamed.quiet (h : Streamed s t) : Quiet s t := by
  have hframe := h.frame
  refine ⟨?_, ?_, ?_, ?_, ?_, ?_⟩ <;> rw [hframe]

theorem Streamed.mem (h : Streamed s t) : t.mem = s.mem := by rw [h.frame]
theorem Streamed.ckp (h : Streamed s t) : t.ckp = s.ckp := by rw [h.frame]
theorem Streamed.time (h : Streamed s t) : t.gen.time = s.gen.time := by rw [h.frame]

theorem State.setRecv_quiet (x : RecvFlow) : Quiet s (s.setRecv x) := by
  unfold State.setRecv State.modRte
  exact ⟨rfl, rfl, rfl, rfl, rfl, rfl⟩

theorem State.setRecv_mem (x : RecvFlow) : (s.setRecv x).mem = s.mem ∧ (s.setRecv x).ckp = s.ckp := ⟨rfl, rfl⟩

/-- The answer to a packet of class TC3 whose action fails. -/
theorem State.cast_answered {opc : BitVec 8} {act : State → State × Nat} {k : Nat} {C : Ckp → Prop}
    (hin : NextIn s d p r) (htc : p.tc = 3) (hopc : p.opc = opc) (h0 : k ≠ 0) (h1 : k ≠ 1) (hk : k < 5)
    (hact : ∀ b, ∃ u, act (s.dropArrived b) = (u, k) ∧ u.gen.time = s.gen.time ∧ Quiet s u ∧ u.mem = s.mem ∧
      C u.ckp) :
    Quiet s (s.deliver d p opc act) ∧ (s.deliver d p opc act).mem = s.mem ∧ Advanced s (s.deliver d p opc act) d p r 0 ∧
      Sends (s.deliver d p opc act) (fun q => q.opc = 0xF1 ∧ q.arg = BitVec.ofNat 16 k ∧ q.dest = p.src) ∧
      C (s.deliver d p opc act).ckp := by
  obtain ⟨u, x, ⟨hquiet, hmem, hC⟩, hdeliver, hadv⟩ := State.deliver_failed
    (P := fun u => Quiet s u ∧ u.mem = s.mem ∧ C u.ckp) hin hopc h0 h1 hact
  have hseq : sequenced ((u.setRecv x).stamped d (answerPkt (flowOf p) p.seq 0xF1 k) p.epoch) = true := by
    unfold sequenced
    have htc' : ((u.setRecv x).stamped d (answerPkt (flowOf p) p.seq 0xF1 k) p.epoch).tc = 3 := by
      change BitVec.ofNat 3 p.tc.toNat = 3
      rw [htc]
      rfl
    have harg : ((u.setRecv x).stamped d (answerPkt (flowOf p) p.seq 0xF1 k) p.epoch).arg ≠ 1 := by
      change BitVec.ofNat 16 k ≠ 1
      intro hone
      have htoNat := congrArg BitVec.toNat hone
      rw [BitVec.toNat_ofNat, Nat.mod_eq_of_lt (by omega)] at htoNat
      exact h1 htoNat
    have hop : ((u.setRecv x).stamped d (answerPkt (flowOf p) p.seq 0xF1 k) p.epoch).opc = 0xF1 := rfl
    rw [htc', hop]
    simp only [decide_not, Bool.and_eq_true, Bool.not_eq_true', decide_eq_false_iff_not, Bool.and_eq_false_imp,
      beq_iff_eq, beq_eq_false_iff_ne]
    exact ⟨⟨by decide, by decide⟩, fun _ => harg⟩
  have hsent := State.send_streamed (op := .reply) (src := none) (last := true) (show (0xF1 : BitVec 8) ≠ 0x12 by decide) hseq
  have hholds := (State.send_holds (op := .reply) (src := none) (last := true) hseq).2
  rw [← hdeliver] at hsent hholds
  refine ⟨(hquiet.trans (State.setRecv_quiet x)).trans hsent.quiet, hsent.mem.trans hmem, hadv, ?_, ?_⟩
  · refine (hholds.imp ?_).sends
    rintro _ ⟨_, _, _, _, _, rfl⟩
    exact ⟨rfl, rfl, (BitVec.ofNat_toNat 17 p.src).trans (BitVec.setWidth_eq _)⟩
  · rw [hsent.ckp]
    exact hC

/-- The action of a cast message is done. -/
theorem State.cast_done {opc : BitVec 8} {act : State → State × Nat} {C : Ckp → Prop} {M : List Host.Cell → Prop}
    {ok : List (Packet → Prop)} (hin : NextIn s d p r) (hopc : p.opc = opc)
    (hact : ∀ b, ∃ u, act (s.dropArrived b) = (u, 0) ∧ u.gen.time = s.gen.time ∧ Quiet s u ∧ M u.mem ∧ C u.ckp ∧
      ∀ q ∈ ok, Sends u q) :
    Quiet s (s.deliver d p opc act) ∧ M (s.deliver d p opc act).mem ∧
      Advanced s (s.deliver d p opc act) d p r (r.ackDue + 1) ∧ C (s.deliver d p opc act).ckp ∧
      ∀ q ∈ ok, Sends (s.deliver d p opc act) q := by
  obtain ⟨⟨hquiet, hmem, hC, hsends⟩, hadv⟩ := State.delivered
    (P := fun u => Quiet s u ∧ M u.mem ∧ C u.ckp ∧ ∀ q ∈ ok, Sends u q) hin hopc hact fun u x hu =>
      ⟨hu.1.trans (State.setRecv_quiet x), hu.2.1, hu.2.2.1, fun q hq => State.setRecv_sends x (hu.2.2.2 q hq)⟩
  exact ⟨hquiet, hmem, hadv, hC, hsends⟩

/-- A store in pier space, counted. -/
theorem State.storePier_streamed (s : State) (a : Nat) (bs : List Byte) :
    Streamed (s.writePier a bs) (s.storeLoc (.pier a) bs) :=
  ((State.countPier_storeFrame _ false a bs.length).trans
    (State.wakePiers_wakesOnly _ a bs.length).storeFrame).streamed (by simp)

theorem State.writePier_quiet (s : State) (a : Nat) (bs : List Byte) : Quiet s (s.writePier a bs) := by
  rw [State.writePier_eq]
  exact ⟨rfl, rfl, rfl, rfl, rfl, rfl⟩

/-- What a write in pier space leaves depends on the stores and the map alone. -/
theorem SamePlaces.writePier_mem (h : SamePlaces s t) (a : Nat) (bs : List Byte) :
    (t.writePier a bs).mem = (s.writePier a bs).mem :=
  (State.stores_split (h.writeLoc (.pier a) bs).stores).2.2

/-- A store in pier space, after which CKP_HOLD follows the headers of the buddy area. -/
theorem State.storeNoted (s : State) (a : Nat) (bs : List Byte) :
    Quiet s (s.storeLoc (.pier a) bs).noteHalves ∧ (s.storeLoc (.pier a) bs).noteHalves.mem = (s.writePier a bs).mem ∧
      (s.storeLoc (.pier a) bs).noteHalves.gen.time = s.gen.time ∧
      (s.storeLoc (.pier a) bs).noteHalves.ckp.receiving = s.ckp.receiving ∧
      (s.storeLoc (.pier a) bs).noteHalves.ckp.completions = s.ckp.completions := by
  have hstored := s.storePier_streamed a bs
  have hwritten := s.writePier_eq a bs
  have hckp : (s.storeLoc (.pier a) bs).ckp = s.ckp := hstored.ckp.trans (by rw [hwritten])
  exact ⟨(s.writePier_quiet a bs).trans hstored.quiet, hstored.mem, hstored.time.trans (by rw [hwritten]),
    show (s.storeLoc (.pier a) bs).ckp.receiving = _ by rw [hckp],
    show (s.storeLoc (.pier a) bs).ckp.completions = _ by rw [hckp]⟩

/-! ## The head of a half becomes zero (R335) -/

theorem Streamed.foldl {α : Type} {g : State → α → State} (hg : ∀ s a, Streamed s (g s a)) :
    ∀ (l : List α) (s : State), Streamed s (l.foldl g s)
  | [], s => .refl s
  | a :: t, s => (hg s a).trans (Streamed.foldl hg t (g s a))

theorem State.countPages_streamed (s : State) (x : Region) (a n : Nat) : Streamed s (s.countPages x a n) := by
  unfold State.countPages
  refine .foldl (fun u y => ?_) _ _
  have hmc : ∀ f, Streamed u (u.modMc (y.1 / 2) f) := fun f => ⟨rfl, .of_rte rfl, fun _ h => h⟩
  have hwakes := State.requestWake_wakesOnly
  exact (hmc _).trans ((hwakes _ _).storeFrame.streamed (by rw [(hwakes _ _).frame]; rfl))

theorem State.zeroSpan_get (x : Region) (a n i : Nat) : Mem.get (s.zeroSpan x a n).mem i =
    match x.addrOf s.gen.capPiers (i / 2 ^ 36) (i % 2 ^ 36) with
    | some b => if a ≤ b ∧ b < a + n then 0 else Mem.get s.mem i
    | none => Mem.get s.mem i := by
  have hfilter := Tab.find?_filter s.mem (fun i => match x.addrOf s.gen.capPiers (i / 2 ^ 36) (i % 2 ^ 36) with
    | some b => !(decide (a ≤ b) && decide (b < a + n))
    | none => true) i
  unfold Mem.get Tab.get
  refine (congrArg (Option.getD · 0) hfilter).trans ?_
  cases x.addrOf s.gen.capPiers (i / 2 ^ 36) (i % 2 ^ 36) with
  | none => rfl
  | some b =>
    by_cases hspan : a ≤ b ∧ b < a + n
    · simp [hspan]
    · dsimp only
      rw [if_neg hspan]
      have hout : (!(decide (a ≤ b) && decide (b < a + n))) = true := by
        rw [Bool.not_eq_true', ← Bool.decide_and, decide_eq_false_iff_not]
        exact hspan
      exact congrArg (Option.getD · 0) (if_pos hout)
end

end Sys2Proof.Machine
end

section
/-!
SUPPORT. The actions of cast messages at their holder (R343 to R345, R348).
-/
namespace Sys2Proof.Machine

section
variable {s t : State} {d : Nat} {p : Packet} {r : RecvFlow}

/-! ## CAST_BEGIN, CAST_DATA and CAST_END (R343 to R345) -/

theorem State.castBeginAct_refused (h : s.heldSender p = false ∨ s.ckp.streams ≠ 0) :
    State.castBeginAct p s = (s, 3) := by
  refine if_pos ?_
  obtain h | h := h
  · simp [h]
  · simp [h]

section
variable {a n : Nat} (hsender : s.heldSender p = true) (hstreams : s.ckp.streams = 0)
  (hhalf : s.halfAt s.chooseHalf = some (a, n))
include hsender hstreams hhalf

theorem State.castBeginAct_small (hroom : fieldAt (pktPayload p) 0x20 8 + chunkBytes > n) :
    State.castBeginAct p s = (s, 4) := by
  unfold State.castBeginAct
  rw [if_neg (by simp [hsender, hstreams])]
  dsimp only
  rw [hhalf]
  exact if_pos hroom

theorem State.castBeginAct_begins {x : Region} (hbuddy : s.buddy = some x)
    (hroom : fieldAt (pktPayload p) 0x20 8 + chunkBytes ≤ n) :
    ∃ u, State.castBeginAct p s = (u, 0) ∧ u.gen.time = s.gen.time ∧ Quiet s u ∧
      u.mem = ({ s with mem := (s.zeroSpan x a chunkBytes).mem }.writePier a ((pktPayload p).take 128)).mem ∧
      u.ckp.receiving = some s.chooseHalf := by
  have hact : State.castBeginAct p s = ({ ((s.clearHead a).storeLoc (.pier a) ((pktPayload p).take 128)) with
      ckp := { ((s.clearHead a).storeLoc (.pier a) ((pktPayload p).take 128)).ckp with
        receiving := some s.chooseHalf } }.noteHalves, 0) := by
    unfold State.castBeginAct
    rw [if_neg (by simp [hsender, hstreams])]
    dsimp only
    rw [hhalf]
    exact if_neg (Nat.not_lt.mpr hroom)
  have hclear : s.clearHead a = (s.zeroSpan x a chunkBytes).countPages x a chunkBytes := by
    unfold State.clearHead
    rw [hbuddy]
  have hpages := (s.zeroSpan x a chunkBytes).countPages_streamed x a chunkBytes
  rw [hclear] at hact
  have hzero : SamePlaces { s with mem := (s.zeroSpan x a chunkBytes).mem } (s.zeroSpan x a chunkBytes) := ⟨rfl, rfl, rfl⟩
  have hquiet : Quiet s (s.zeroSpan x a chunkBytes) := ⟨rfl, rfl, rfl, rfl, rfl, rfl⟩
  have htime : (s.zeroSpan x a chunkBytes).gen.time = s.gen.time := rfl
  generalize (s.zeroSpan x a chunkBytes).countPages x a chunkBytes = v at hpages hact
  have hstored := v.storePier_streamed a ((pktPayload p).take 128)
  have hwritten := v.writePier_eq a ((pktPayload p).take 128)
  refine ⟨_, hact, ?_, ?_, ?_, rfl⟩
  · refine (show _ = (v.storeLoc (.pier a) ((pktPayload p).take 128)).gen.time from rfl).trans ?_
    rw [hstored.time, hwritten, ← htime, ← hpages.time]
  · exact ((hquiet.trans hpages.quiet).trans (v.writePier_quiet a _)).trans hstored.quiet
  · exact hstored.mem.trans ((hzero.trans hpages.samePlaces).writePier_mem a _)
end

theorem State.castDataAct_none (h : s.ckp.receiving = none) : State.castDataAct p s = (s, 3) := by
  unfold State.castDataAct
  rw [h]

section
variable {h a n : Nat} (hreceiving : s.ckp.receiving = some h) (hhalf : s.halfAt h = some (a, n))
  (hsender : s.heldSender p = true)
include hreceiving hhalf hsender

theorem State.castDataAct_small (hroom : p.addr.toNat % 2 ^ 41 + p.len.toNat > n) : State.castDataAct p s = (s, 4) := by
  unfold State.castDataAct
  rw [hreceiving]
  dsimp only
  rw [hhalf]
  dsimp only
  rw [if_neg (by simp [hsender]), if_pos hroom]

theorem State.castDataAct_writes (hroom : p.addr.toNat % 2 ^ 41 + p.len.toNat ≤ n) :
    State.castDataAct p s = (s.storeLoc (.pier (a + p.addr.toNat % 2 ^ 41)) (pktPayload p), 0) := by
  unfold State.castDataAct
  rw [hreceiving]
  dsimp only
  rw [hhalf]
  dsimp only
  rw [if_neg (by simp [hsender]), if_neg (Nat.not_lt.mpr hroom)]

/-- The root digest of a half, as it stands. -/
def State.ownRoot (s : State) (a : Nat) : List Byte :=
  rootDigest (s.readPier a 128) (s.readPier (a + 0x1000) (32 * fieldAt (s.readPier a 128) 0x16 2))
    (s.readPier (a + 0x4000) (32 * fieldAt (s.readPier a 128) 0x28 4))

omit hreceiving hhalf hsender in
theorem State.rootRead_spec (s : State) (a : Nat) : (s.rootRead a).1 = s.ownRoot a ∧ Streamed s (s.rootRead a).2 := by
  have h1 := s.fetchLoc_streamed (.pier a) 128
  have hhead : (s.fetchLoc (.pier a) 128).1 = s.readPier a 128 := rfl
  unfold State.rootRead State.ownRoot
  dsimp only
  rw [hhead]
  generalize (s.fetchLoc (.pier a) 128).2 = v at h1
  have h2 := v.fetchLoc_streamed (.pier (a + 0x1000)) (32 * fieldAt (s.readPier a 128) 0x16 2)
  have hdir : (v.fetchLoc (.pier (a + 0x1000)) (32 * fieldAt (s.readPier a 128) 0x16 2)).1 =
      s.readPier (a + 0x1000) (32 * fieldAt (s.readPier a 128) 0x16 2) := h1.samePlaces.readLoc (.pier _) _
  rw [hdir]
  generalize (v.fetchLoc (.pier (a + 0x1000)) (32 * fieldAt (s.readPier a 128) 0x16 2)).2 = w at h2
  have h3 := w.fetchLoc_streamed (.pier (a + 0x4000)) (32 * fieldAt (s.readPier a 128) 0x28 4)
  have htable : (w.fetchLoc (.pier (a + 0x4000)) (32 * fieldAt (s.readPier a 128) 0x28 4)).1 =
      s.readPier (a + 0x4000) (32 * fieldAt (s.readPier a 128) 0x28 4) := (h1.trans h2).samePlaces.readLoc (.pier _) _
  rw [htable]
  exact ⟨rfl, (h1.trans h2).trans h3⟩

/-- The state in which a half is no longer received. -/
def State.received (s : State) : State := { s with ckp := { s.ckp with receiving := none } }

theorem State.castEndAct_bad (hroot : s.ownRoot a ≠ sliceAt (pktPayload p) 0x40 32) :
    ∃ u, State.castEndAct p s = (u, 2) ∧ Streamed s.received u := by
  obtain ⟨hown, hread⟩ := s.received.rootRead_spec a
  refine ⟨_, ?_, hread⟩
  have hne : (s.received.rootRead a).1 ≠ sliceAt (pktPayload p) 0x40 32 := by
    rw [hown]
    exact hroot
  unfold State.castEndAct
  rw [hreceiving]
  dsimp only
  rw [hhalf]
  dsimp only
  rw [if_neg (by simp [hsender])]
  exact if_pos hne

theorem State.castEndAct_good (hroot : s.ownRoot a = sliceAt (pktPayload p) 0x40 32) :
    ∃ v, State.castEndAct p s = (({ v with ckp := { v.ckp with completions := v.ckp.completions + 1 } }.storeLoc (.pier a)
      (headerWith (pktPayload p) 2 (v.ckp.completions + 1) (sliceAt (pktPayload p) 0x40 32))).noteHalves, 0) ∧
      Streamed s.received v := by
  obtain ⟨hown, hread⟩ := s.received.rootRead_spec a
  refine ⟨_, ?_, hread⟩
  have heq : ¬ (s.received.rootRead a).1 ≠ sliceAt (pktPayload p) 0x40 32 := by
    rw [hown]
    exact not_not.mpr hroot
  unfold State.castEndAct
  rw [hreceiving]
  dsimp only
  rw [hhalf]
  dsimp only
  rw [if_neg (by simp [hsender])]
  exact if_neg heq
end

theorem State.received_quiet : Quiet s s.received := ⟨rfl, rfl, rfl, rfl, rfl, rfl⟩

/-! ## RESTORE_REQ and RESTORE_BAD (R343, R348) -/

theorem State.restoreReqAct_other (h : s.heldSender p = false) : State.restoreReqAct d p s = (s, 3) :=
  if_pos (by simp [h])

theorem State.restoreReqAct_none (hsender : s.heldSender p = true)
    (hserves : s.serveHalf (fieldAt (pktPayload p) 0 8) (fieldAt (pktPayload p) 8 1 ≠ 0) = none) :
    State.restoreReqAct d p s = (s.castMsg d p.src.toNat 0x46 0 2 [] .reply none, 0) := by
  unfold State.restoreReqAct State.serveRestore
  rw [if_neg (by simp [hsender])]
  dsimp only
  rw [hserves]

/-- The holder that serves half `h`. -/
def State.serving (s : State) (h : Nat) : State :=
  { s with ckp := { s.ckp with streams := s.ckp.streams + 1, servedHalf := some h } }

theorem State.restoreReqAct_serves {h a n : Nat} (hsender : s.heldSender p = true)
    (hserves : s.serveHalf (fieldAt (pktPayload p) 0 8) (fieldAt (pktPayload p) 8 1 ≠ 0) = some h)
    (hhalf : s.halfAt h = some (a, n)) : State.restoreReqAct d p s =
      ((State.streamSend d p.src.toNat (streamParts a (s.readPier a metaBytes))
        ((streamParts a (s.readPier a metaBytes)).map fun x => x.2.2.2).sum (s.serving h)).castMsg d p.src.toNat 0x46 0 0 []
          .reply none, 0) := by
  unfold State.restoreReqAct State.serveRestore
  rw [if_neg (by simp [hsender])]
  dsimp only
  rw [hserves]
  dsimp only
  rw [hhalf]
  rfl

theorem streamParts_ok (a : Nat) (m : List Byte) : ∀ x ∈ streamParts a m,
    0 < x.2.2.2 ∧ BitVec.ofNat 8 x.1 ≠ 0x12 ∧ BitVec.ofNat 8 x.1 ≠ 0xF0 ∧ BitVec.ofNat 8 x.1 ≠ 0xF1 := by
  intro x hx
  obtain rfl | hx := List.mem_cons.mp hx
  · exact ⟨show 0 < metaBytes by decide, (by decide : (0x45 : BitVec 8) ≠ 0x12), (by decide : (0x45 : BitVec 8) ≠ 0xF0),
      (by decide : (0x45 : BitVec 8) ≠ 0xF1)⟩
  · obtain ⟨⟨i, y⟩, -, rfl⟩ := List.mem_map.mp hx
    exact ⟨show 0 < chunkBytes by decide, (by decide : (0x44 : BitVec 8) ≠ 0x12), (by decide : (0x44 : BitVec 8) ≠ 0xF0),
      (by decide : (0x44 : BitVec 8) ≠ 0xF1)⟩

theorem State.restoreBadAct_empties {a n : Nat} (hsender : s.heldSender p = true)
    (hhalf : s.halfAt (p.arg.toNat % 2) = some (a, n)) :
    State.restoreBadAct p s = ((s.storeLoc (.pier (a + 6)) [0]).noteHalves, 0) := by
  unfold State.restoreBadAct
  rw [if_neg (by simp [hsender]), hhalf]
end

end Sys2Proof.Machine
end

section
/-!
SUPPORT. O48: what a holder does with the messages of a cast (R343 to R348).
-/
namespace Sys2Proof.Machine

/-! ## The messages of a cast at its holder (R343 to R348) -/

section
variable {s : State} {d : Nat} {p : Packet} {r : RecvFlow} (hin : NextIn s d p r)
include hin

theorem exec_delivers {opc : BitVec 8} {act : State → State × Nat} {c : Instr}
    (hc : exec c s = guarded (isDie d) (s.deliver d p opc act)) : exec c s = .next (s.deliver d p opc act) := by
  rw [hc, guarded_ok (show isDie d = true from decide_eq_true hin.1)]

section
variable (htc : p.tc = 3)
include htc

/-- A message of a cast that the holder answers with a status, having changed nothing. -/
theorem cast_rejected {opc : BitVec 8} {act : State → State × Nat} {c : Instr} {k : Nat}
    (hc : exec c s = guarded (isDie d) (s.deliver d p opc act)) (hopc : p.opc = opc) (h0 : k ≠ 0) (h1 : k ≠ 1) (hk : k < 5)
    (hact : ∀ b, act (s.dropArrived b) = (s.dropArrived b, k)) :
    ∃ t, exec c s = .next t ∧ Quiet s t ∧ t.mem = s.mem ∧ Advanced s t d p r 0 ∧
      Sends t fun q => q.opc = 0xF1 ∧ q.arg = BitVec.ofNat 16 k ∧ q.dest = p.src := by
  obtain ⟨hquiet, hmem, hadv, hsends, -⟩ := State.cast_answered (C := fun _ => True) hin htc hopc h0 h1 hk fun b =>
    ⟨_, hact b, rfl, ⟨rfl, rfl, rfl, rfl, rfl, rfl⟩, rfl, trivial⟩
  exact ⟨_, exec_delivers hin hc, hquiet, hmem, hadv, hsends⟩

theorem castEnd_bad (hopc : p.opc = 0x42) {h a n : Nat} (hreceiving : s.ckp.receiving = some h)
    (hhalf : s.halfAt h = some (a, n)) (hsender : s.heldSender p = true)
    (hroot : s.ownRoot a ≠ sliceAt (pktPayload p) 0x40 32) :
    ∃ t, exec (.castEnd d p) s = .next t ∧ (Quiet s t ∧ t.mem = s.mem ∧ Advanced s t d p r 0 ∧
      Sends t fun q => q.opc = 0xF1 ∧ q.arg = BitVec.ofNat 16 2 ∧ q.dest = p.src) ∧
      t.ckp = { s.ckp with receiving := none } := by
  obtain ⟨hquiet, hmem, hadv, hsends, hckp⟩ := State.cast_answered (act := State.castEndAct p)
    (C := fun k => k = { s.ckp with receiving := none }) hin htc hopc (show 2 ≠ 0 by decide) (by decide) (by decide) fun b => by
      obtain ⟨u, hu, hread⟩ := State.castEndAct_bad (s := s.dropArrived b) hreceiving hhalf hsender hroot
      exact ⟨u, hu, hread.time, hread.quiet, hread.mem, hread.ckp⟩
  exact ⟨_, exec_delivers hin rfl, ⟨hquiet, hmem, hadv, hsends⟩, hckp⟩
end

/-- A half's head has been cleared, and the header of the new cast written. -/
theorem castBegin_begins (hopc : p.opc = 0x40) (hsender : s.heldSender p = true) (hstreams : s.ckp.streams = 0)
    {x : Region} {a n : Nat} (hbuddy : s.buddy = some x) (hhalf : s.halfAt s.chooseHalf = some (a, n))
    (hroom : fieldAt (pktPayload p) 0x20 8 + chunkBytes ≤ n) :
    ∃ t, exec (.castBegin d p) s = .next t ∧ Quiet s t ∧ Advanced s t d p r (r.ackDue + 1) ∧
      t.ckp.receiving = some s.chooseHalf ∧
      t.mem = ({ s with mem := (s.zeroSpan x a chunkBytes).mem }.writePier a ((pktPayload p).take 128)).mem := by
  obtain ⟨hquiet, hmem, hadv, hckp, -⟩ := State.cast_done (act := State.castBeginAct p) (ok := [])
    (C := fun k => k.receiving = some s.chooseHalf)
    (M := fun m => m = ({ s with mem := (s.zeroSpan x a chunkBytes).mem }.writePier a ((pktPayload p).take 128)).mem)
    hin hopc fun b => by
      obtain ⟨u, hu, htime, hquiet, hmem, hreceiving⟩ :=
        State.castBeginAct_begins (s := s.dropArrived b) hsender hstreams hhalf hbuddy hroom
      have hsame : SamePlaces { s with mem := (s.zeroSpan x a chunkBytes).mem }
        { s.dropArrived b with mem := ((s.dropArrived b).zeroSpan x a chunkBytes).mem } := ⟨rfl, rfl, rfl⟩
      exact ⟨u, hu, htime, hquiet, hmem.trans (hsame.writePier_mem a _), hreceiving, nofun⟩
  exact ⟨_, exec_delivers hin rfl, hquiet, hadv, hckp, hmem⟩

/-- What a store in pier space by a message of a cast leaves. -/
theorem cast_wrote {opc : BitVec 8} {act : State → State × Nat} {c : Instr} {C : Ckp → Prop} {a : Nat} {bs : List Byte}
    (hc : exec c s = guarded (isDie d) (s.deliver d p opc act)) (hopc : p.opc = opc)
    (hact : ∀ b, ∃ u, act (s.dropArrived b) = (u, 0) ∧ u.gen.time = s.gen.time ∧ Quiet s u ∧
      u.mem = (s.writePier a bs).mem ∧ C u.ckp) :
    ∃ t, exec c s = .next t ∧ (Quiet s t ∧ t.mem = (s.writePier a bs).mem ∧ Advanced s t d p r (r.ackDue + 1)) ∧
      C t.ckp := by
  obtain ⟨hquiet, hmem, hadv, hckp, -⟩ := State.cast_done (M := fun m => m = (s.writePier a bs).mem) (ok := []) (C := C)
    hin hopc fun b => by
      obtain ⟨u, hu, htime, hquiet, hmem, hC⟩ := hact b
      exact ⟨u, hu, htime, hquiet, hmem, hC, nofun⟩
  exact ⟨_, exec_delivers hin hc, ⟨hquiet, hmem, hadv⟩, hckp⟩

theorem castData_writes (hopc : p.opc = 0x41) {h a n : Nat} (hreceiving : s.ckp.receiving = some h)
    (hhalf : s.halfAt h = some (a, n)) (hsender : s.heldSender p = true)
    (hroom : p.addr.toNat % 2 ^ 41 + p.len.toNat ≤ n) :
    ∃ t, exec (.castData d p) s = .next t ∧ (Quiet s t ∧
      t.mem = (s.writePier (a + p.addr.toNat % 2 ^ 41) (pktPayload p)).mem ∧ Advanced s t d p r (r.ackDue + 1)) ∧
      t.ckp = s.ckp :=
  cast_wrote hin (C := fun k => k = s.ckp) rfl hopc fun b => by
    have hstored := (s.dropArrived b).storePier_streamed (a + p.addr.toNat % 2 ^ 41) (pktPayload p)
    have hwritten := (s.dropArrived b).writePier_eq (a + p.addr.toNat % 2 ^ 41) (pktPayload p)
    have hsame : SamePlaces s (s.dropArrived b) := ⟨rfl, rfl, rfl⟩
    refine ⟨_, State.castDataAct_writes (s := s.dropArrived b) hreceiving hhalf hsender hroom, ?_, ?_, ?_, ?_⟩
    · rw [hstored.time, hwritten]
      rfl
    · exact ((s.dropArrived b).writePier_quiet _ _).trans hstored.quiet
    · exact hstored.mem.trans (hsame.writePier_mem _ _)
    · rw [hstored.ckp, hwritten]
      rfl

theorem castEnd_good (hopc : p.opc = 0x42) {h a n : Nat} (hreceiving : s.ckp.receiving = some h)
    (hhalf : s.halfAt h = some (a, n)) (hsender : s.heldSender p = true)
    (hroot : s.ownRoot a = sliceAt (pktPayload p) 0x40 32) :
    ∃ t, exec (.castEnd d p) s = .next t ∧ (Quiet s t ∧ t.mem = (s.writePier a
      (headerWith (pktPayload p) 2 (s.ckp.completions + 1) (sliceAt (pktPayload p) 0x40 32))).mem ∧
      Advanced s t d p r (r.ackDue + 1)) ∧ t.ckp.completions = s.ckp.completions + 1 ∧ t.ckp.receiving = none :=
  cast_wrote hin (C := fun k => k.completions = s.ckp.completions + 1 ∧ k.receiving = none) rfl hopc fun b => by
    obtain ⟨v, hact, hread⟩ := State.castEndAct_good (s := s.dropArrived b) hreceiving hhalf hsender hroot
    have hckp : v.ckp = { s.ckp with receiving := none } := hread.ckp
    have hcompletions : v.ckp.completions = s.ckp.completions := by rw [hckp]
    have hsame : SamePlaces s { v with ckp := { v.ckp with completions := v.ckp.completions + 1 } } :=
      ⟨hread.samePlaces.stores, hread.samePlaces.gen, hread.samePlaces.cfg⟩
    obtain ⟨hquiet, hmem, htime, hrec, hcomp⟩ := State.storeNoted
      { v with ckp := { v.ckp with completions := v.ckp.completions + 1 } } a
      (headerWith (pktPayload p) 2 (v.ckp.completions + 1) (sliceAt (pktPayload p) 0x40 32))
    have hquietv : Quiet s { v with ckp := { v.ckp with completions := v.ckp.completions + 1 } } := hread.quiet
    refine ⟨_, hact, htime.trans hread.time, hquietv.trans hquiet, ?_, ?_, ?_⟩
    · rw [← hcompletions]
      exact hmem.trans (hsame.writePier_mem a _)
    · exact hcomp.trans (congrArg (· + 1) hcompletions)
    · exact hrec.trans (show v.ckp.receiving = none by rw [hckp])

theorem restoreBad_empties (hopc : p.opc = 0x47) {a n : Nat} (hsender : s.heldSender p = true)
    (hhalf : s.halfAt (p.arg.toNat % 2) = some (a, n)) :
    ∃ t, exec (.restoreBad d p) s = .next t ∧ Quiet s t ∧ t.mem = (s.writePier (a + 6) [0]).mem ∧
      Advanced s t d p r (r.ackDue + 1) := by
  obtain ⟨t, hexec, hwrote, -⟩ := cast_wrote hin (c := .restoreBad d p) (C := fun _ => True) rfl hopc fun b => by
    have hsame : SamePlaces s (s.dropArrived b) := ⟨rfl, rfl, rfl⟩
    obtain ⟨hquiet, hmem, htime, -, -⟩ := (s.dropArrived b).storeNoted (a + 6) [0]
    exact ⟨_, State.restoreBadAct_empties (s := s.dropArrived b) hsender hhalf, htime, hquiet,
      hmem.trans (hsame.writePier_mem _ _), trivial⟩
  exact ⟨t, hexec, hwrote⟩

theorem restoreReq_none (hopc : p.opc = 0x43) (hsender : s.heldSender p = true)
    (hserves : s.serveHalf (fieldAt (pktPayload p) 0 8) (fieldAt (pktPayload p) 8 1 ≠ 0) = none) :
    ∃ t, exec (.restoreReq d p) s = .next t ∧ Quiet s t ∧ t.mem = s.mem ∧ Advanced s t d p r (r.ackDue + 1) ∧
      t.ckp = s.ckp ∧ Sends t fun q => q.opc = 0x46 ∧ q.arg = 2 ∧ q.dest = p.src := by
  obtain ⟨hquiet, hmem, hadv, hckp, hsends⟩ := State.cast_done (act := State.restoreReqAct d p)
    (C := fun k => k = s.ckp) (M := fun m => m = s.mem) (ok := [fun q => q.opc = 0x46 ∧ q.arg = 2 ∧ q.dest = p.src])
    hin hopc fun b => by
      obtain ⟨hstream, hholds⟩ := State.castMsg_spec (d := d) (dest := p.src.toNat) (op := .reply)
        (show (0x46 : BitVec 8) ≠ 0x12 by decide) (by decide) (by decide) (s.dropArrived b) 0 2 [] none
      refine ⟨_, State.restoreReqAct_none (s := s.dropArrived b) hsender hserves, hstream.time, hstream.quiet,
        hstream.mem, hstream.ckp, fun q hq => ?_⟩
      rw [List.mem_singleton.mp hq]
      exact (hholds.imp fun q hq => ⟨hq.opc, hq.arg,
        hq.dest.trans ((BitVec.ofNat_toNat 17 p.src).trans (BitVec.setWidth_eq _))⟩).sends
  exact ⟨_, exec_delivers hin rfl, hquiet, hmem, hadv, hckp, hsends _ (List.mem_singleton.mpr rfl)⟩

/-- The messages of a stream, as their requester knows them. -/
def streamMessages (s : State) (dest : BitVec 17) (a : Nat) : List (Packet → Prop) :=
  ((List.range 256).map fun j => fun q => q.opc = 0x45 ∧ q.dest = dest ∧ q.addr = BitVec.ofNat 48 (4096 * j) ∧
    q.payload = ((s.readPier a metaBytes).drop (4096 * j)).take 4096) ++
  ((dataChunks (s.readPier a metaBytes)).flatMap fun c => (List.range 16384).map fun j => fun q => q.opc = 0x44 ∧
    q.dest = dest ∧ q.addr = BitVec.ofNat 48 (2 ^ 47 + c.2 + 4096 * j) ∧
    q.payload = ((s.readPier (a + 2 ^ 26 * c.1) (2 ^ 26)).drop (4096 * j)).take 4096) ++
  [fun q => q.opc = 0x46 ∧ q.arg = 0 ∧ q.dest = dest]

omit hin in
theorem restoreReqAct_stream {h a n : Nat} (hsender : s.heldSender p = true)
    (hserves : s.serveHalf (fieldAt (pktPayload p) 0 8) (fieldAt (pktPayload p) 8 1 ≠ 0) = some h)
    (hhalf : s.halfAt h = some (a, n)) :
    ∃ u, State.restoreReqAct d p s = (u, 0) ∧ Streamed (s.serving h) u ∧ ∀ q ∈ streamMessages s p.src a, Sends u q := by
  refine ⟨_, State.restoreReqAct_serves hsender hserves hhalf, ?_⟩
  have hdest : BitVec.ofNat 17 p.src.toNat = p.src := (BitVec.ofNat_toNat 17 p.src).trans (BitVec.setWidth_eq _)
  have hplaces : SamePlaces s (s.serving h) := ⟨rfl, rfl, rfl⟩
  have hread : ∀ b k, (s.serving h).readPier b k = s.readPier b k := fun b k => hplaces.readLoc (.pier b) k
  obtain ⟨hstream, hall⟩ := State.streamSend_spec (d := d) (dest := p.src.toNat) (streamParts a (s.readPier a metaBytes))
    (s.serving h) (streamParts_ok a _)
  generalize State.streamSend d p.src.toNat (streamParts a (s.readPier a metaBytes))
    ((streamParts a (s.readPier a metaBytes)).map fun x => x.2.2.2).sum (s.serving h) = v at hstream hall
  obtain ⟨hlast, hend⟩ := State.castMsg_spec (d := d) (dest := p.src.toNat) (op := .reply)
    (show (0x46 : BitVec 8) ≠ 0x12 by decide) (by decide) (by decide) v 0 0 [] none
  refine ⟨hstream.trans hlast, fun q hq => ?_⟩
  unfold streamMessages at hq
  rw [List.mem_append, List.mem_append] at hq
  obtain (hq | hq) | hq := hq
  · obtain ⟨j, hj, rfl⟩ := List.mem_map.mp hq
    have hj := List.mem_range.mp hj
    have hheld := hall _ (List.mem_cons_self ..) j (show 4096 * j < 0x100000 by omega)
    refine (Holds.imp (hlast.holds _ hheld) fun q hq =>
      ⟨hq.opc, hq.dest.trans hdest, hq.addr.trans ?_, hq.payload.trans ?_⟩).sends
    · exact congrArg (BitVec.ofNat 48) (Nat.zero_add _)
    · rw [hread]
  · obtain ⟨c, hc, hq⟩ := List.mem_flatMap.mp hq
    obtain ⟨j, hj, rfl⟩ := List.mem_map.mp hq
    have hj := List.mem_range.mp hj
    have hheld := hall _ (List.mem_cons_of_mem _ (List.mem_map.mpr ⟨c, hc, rfl⟩)) j (show 4096 * j < 0x4000000 by omega)
    refine (Holds.imp (hlast.holds _ hheld) fun q hq => ⟨hq.opc, hq.dest.trans hdest, hq.addr, hq.payload.trans ?_⟩).sends
    rw [hread]
    rfl
  · rw [List.mem_singleton.mp hq]
    exact (hend.imp fun q hq => ⟨hq.opc, hq.arg, hq.dest.trans hdest⟩).sends

theorem restoreReq_serves (hopc : p.opc = 0x43) {h a n : Nat} (hsender : s.heldSender p = true)
    (hserves : s.serveHalf (fieldAt (pktPayload p) 0 8) (fieldAt (pktPayload p) 8 1 ≠ 0) = some h)
    (hhalf : s.halfAt h = some (a, n)) :
    ∃ t, exec (.restoreReq d p) s = .next t ∧ Quiet s t ∧ t.mem = s.mem ∧ Advanced s t d p r (r.ackDue + 1) ∧
      t.ckp = { s.ckp with streams := s.ckp.streams + 1, servedHalf := some h } ∧
      ∀ q ∈ streamMessages s p.src a, Sends t q := by
  obtain ⟨hquiet, hmem, hadv, hckp, hsends⟩ := State.cast_done (act := State.restoreReqAct d p)
    (C := fun k => k = { s.ckp with streams := s.ckp.streams + 1, servedHalf := some h }) (M := fun m => m = s.mem)
    (ok := streamMessages s p.src a) hin hopc fun b => by
      obtain ⟨u, hu, hstream, hall⟩ := restoreReqAct_stream (s := s.dropArrived b) (d := d) hsender hserves hhalf
      have hplaces : SamePlaces s (s.dropArrived b) := ⟨rfl, rfl, rfl⟩
      have hread : ∀ c k, (s.dropArrived b).readPier c k = s.readPier c k := fun c k => hplaces.readLoc (.pier c) k
      have hmessages : streamMessages (s.dropArrived b) p.src a = streamMessages s p.src a := by
        unfold streamMessages
        simp only [hread]
      rw [hmessages] at hall
      exact ⟨u, hu, hstream.time, hstream.quiet, hstream.mem, hstream.ckp, hall⟩
  exact ⟨_, exec_delivers hin rfl, hquiet, hmem, hadv, hckp, hsends⟩
end

/-- Settles O48: what a holder does with the messages of the casts and restores of its sender. -/
theorem castHolding : Obligations.CastHolding := by
  intro s d p r hin htc
  refine ⟨fun hopc => ⟨fun hno => ?_, fun hsender hstreams x a n hbuddy hhalf => ⟨fun hroom => ?_, fun hroom => ?_⟩⟩,
    fun hopc => ⟨fun hnone => ?_, fun h a n hreceiving hhalf hsender => ⟨fun hroom => ?_, fun hroom => ?_⟩⟩,
    fun hopc h a n hreceiving hhalf hsender => ⟨fun hroot => ?_, fun hroot => ?_⟩,
    fun hopc => ⟨fun hno => ?_, fun hsender hserves => ?_, fun h a n hsender hserves hhalf => ?_⟩,
    fun hopc hsender a n hhalf => ?_⟩
  · exact cast_rejected hin htc rfl hopc (by decide) (by decide) (by decide) fun b =>
      State.castBeginAct_refused (s := s.dropArrived b) hno
  · exact cast_rejected hin htc rfl hopc (by decide) (by decide) (by decide) fun b =>
      State.castBeginAct_small (s := s.dropArrived b) hsender hstreams hhalf hroom
  · obtain ⟨t, hexec, hquiet, hadv, hreceiving, hmem⟩ := castBegin_begins hin hopc hsender hstreams hbuddy hhalf hroom
    exact ⟨t, (s.zeroSpan x a chunkBytes).mem, hexec, hquiet, hadv, hreceiving, hmem, fun i => s.zeroSpan_get x a chunkBytes i⟩
  · exact cast_rejected hin htc rfl hopc (by decide) (by decide) (by decide) fun b =>
      State.castDataAct_none (s := s.dropArrived b) hnone
  · exact cast_rejected hin htc rfl hopc (by decide) (by decide) (by decide) fun b =>
      State.castDataAct_small (s := s.dropArrived b) hreceiving hhalf hsender hroom
  · exact castData_writes hin hopc hreceiving hhalf hsender hroom
  · exact castEnd_good hin hopc hreceiving hhalf hsender hroot
  · exact castEnd_bad hin htc hopc hreceiving hhalf hsender hroot
  · exact cast_rejected hin htc rfl hopc (by decide) (by decide) (by decide) fun b =>
      State.restoreReqAct_other (s := s.dropArrived b) hno
  · exact restoreReq_none hin hopc hsender hserves
  · obtain ⟨t, hexec, hquiet, hmem, hadv, hckp, hsends⟩ := restoreReq_serves hin hopc hsender hserves hhalf
    refine ⟨t, hexec, hquiet, hmem, hadv, hckp, fun j hj => hsends _ ?_, fun c hc j hj => hsends _ ?_, hsends _ ?_⟩
    · exact List.mem_append_left _ (List.mem_append_left _ (List.mem_map.mpr ⟨j, List.mem_range.mpr hj, rfl⟩))
    · exact List.mem_append_left _ (List.mem_append_right _ (List.mem_flatMap.mpr
        ⟨c, hc, List.mem_map.mpr ⟨j, List.mem_range.mpr hj, rfl⟩⟩))
    · exact List.mem_append_right _ (List.mem_singleton.mpr rfl)
  · exact restoreBad_empties hin hopc hsender hhalf

end Sys2Proof.Machine
end

section
/-!
SUPPORT. Sends, restores and aborts at their start (R340, R341, R346, R347).
-/
namespace Sys2Proof.Machine

/-! ## Sends, restores and aborts at their start (R340, R341, R346, R347) -/

section
variable {s t : State} {h : Nat}

theorem exec_send (hh : h < 2) : exec (.send h) s = .next (s.castStart h) := by
  change guarded (isHost h) _ = _
  rw [guarded_ok (show isHost h = true from decide_eq_true hh)]

theorem exec_restore (hh : h < 2) : exec (.restore h) s = .next (s.restoreStart h) := by
  change guarded (isHost h) _ = _
  rw [guarded_ok (show isHost h = true from decide_eq_true hh)]

theorem exec_abort (hh : h < 2) : exec (.abort h) s = .next (s.castAbort h) := by
  change guarded (isHost h) _ = _
  rw [guarded_ok (show isHost h = true from decide_eq_true hh)]

theorem State.castStart_held (hheld : s.castHeld = true) : s.castStart h = s.emptyLatch (portReq h) := by
  unfold State.castStart
  exact if_pos (Bool.or_eq_true_iff.mpr (.inr hheld))

theorem State.restoreStart_held (hheld : s.castHeld = true) : s.restoreStart h = s.emptyLatch (portReq h) := by
  unfold State.restoreStart
  exact if_pos (Bool.or_eq_true_iff.mpr (.inr hheld))

section
variable (hwritable : s.writable = true) (howned : s.ownedBy h = true)
include hwritable howned

theorem State.ckpWrite_of : (s.emptyLatch (portReq h)).ckpWrite h = true :=
  (Bool.and_eq_true _ _).mpr ⟨hwritable, howned⟩

theorem State.castAbort_eq : s.castAbort h = (s.emptyLatch (portReq h)).castFail 0x0A := by
  unfold State.castAbort
  exact if_neg (by rw [State.ckpWrite_of hwritable howned]; decide)

section
variable (hheld : s.castHeld = false)
include hheld

theorem State.starts_guard : ¬ (!(s.emptyLatch (portReq h)).ckpWrite h || (s.emptyLatch (portReq h)).castHeld) = true := by
  rw [State.ckpWrite_of hwritable howned]
  change ¬ (!true || s.castHeld) = true
  rw [hheld]
  decide

theorem State.castStart_disabled (hno : s.cfg.cast.sendEn = false ∨ s.ckp.genTag = 0) :
    s.castStart h = (s.emptyLatch (portReq h)).castRefuse 0x02 := by
  unfold State.castStart
  dsimp only
  rw [if_neg (State.starts_guard hwritable howned hheld)]
  refine if_pos ?_
  change (!s.cfg.cast.sendEn || decide (s.ckp.genTag = 0)) = true
  obtain hno | hno := hno
  · rw [hno]
    rfl
  · rw [hno]
    exact Bool.or_true _

/-- The generation that a send sets out to write. -/
def State.newSend (s : State) : CastSend :=
  { n := s.ckp.started, die := s.hopDie s.cfg.cast.sendTo 3, sched := s.schedule, header := s.castHeader,
    digests := [(0, digest32 s.schedule)], begun := false, headSent := false }

/-- The state in which a send has begun. -/
def State.sendBegun (s : State) : State :=
  { s with ckp := { s.ckp with st := 1, code := 0, fallback := false, done := 0, total := s.chunkAddrs.length + 1,
                               started := s.ckp.started + 1, sending := some s.newSend } }

theorem State.castStart_enabled (hen : s.cfg.cast.sendEn = true) (htag : s.ckp.genTag ≠ 0) : s.castStart h =
    if s.quiescent then (s.emptyLatch (portReq h)).sendBegun.castMsg (s.hopDie s.cfg.cast.sendTo 3) s.cfg.cast.sendTo 0x40 0 0
      s.castHeader (.castSend s.ckp.started) none
    else (s.emptyLatch (portReq h)).castRefuse 0x01 := by
  unfold State.castStart
  dsimp only
  rw [if_neg (State.starts_guard hwritable howned hheld)]
  have hgo : ¬ (!(s.emptyLatch (portReq h)).cfg.cast.sendEn || decide ((s.emptyLatch (portReq h)).ckp.genTag = 0)) = true := by
    change ¬ (!s.cfg.cast.sendEn || decide (s.ckp.genTag = 0)) = true
    rw [hen, decide_eq_false htag]
    decide
  rw [if_neg hgo]
  change (if (!s.quiescent) = true then _ else _) = _
  cases s.quiescent with
  | true => rfl
  | false => rfl

theorem State.restoreStart_busy (hno : s.restorable = false) :
    s.restoreStart h = (s.emptyLatch (portReq h)).castRefuse 0x01 := by
  unfold State.restoreStart
  dsimp only
  rw [if_neg (State.starts_guard hwritable howned hheld)]
  refine if_pos ?_
  change (!s.restorable) = true
  rw [hno]
  rfl

/-- The first attempt of a restore. -/
def State.newRestore (s : State) : Restoring :=
  Restoring.start s.ckp.restoreFrom.toNat s.ckp.genTag s.ckp.started (Config.freeBool s.freeCtr)
    (s.hopDie s.ckp.restoreFrom.toNat 3)

/-- The state in which a restore has begun. -/
def State.restoreBegun (s : State) : State :=
  { s with
    freeCtr := s.freeCtr + 1
    ckp := { s.ckp with st := 3, code := 0, fallback := false, done := 0, total := 0, started := s.ckp.started + 1,
                        restoring := some s.newRestore } }

theorem State.restoreStart_free (hok : s.restorable = true) : s.restoreStart h =
    if s.inSlice s.ckp.restoreFrom.toNat then (s.emptyLatch (portReq h)).restoreBegun.restoreAsk s.newRestore false
    else (s.emptyLatch (portReq h)).castRefuse 0x02 := by
  unfold State.restoreStart
  dsimp only
  rw [if_neg (State.starts_guard hwritable howned hheld)]
  have hgo : ¬ (!(s.emptyLatch (portReq h)).restorable) = true := by
    change ¬ (!s.restorable) = true
    rw [hok]
    decide
  rw [if_neg hgo]
  change (if (!s.inSlice s.ckp.restoreFrom.toNat) = true then _ else _) = _
  cases s.inSlice s.ckp.restoreFrom.toNat with
  | true => rfl
  | false => rfl
end
end

/-- A message of a cast changes the RTE block and the ports alone. -/
theorem State.castMsg_frame {d dest : Nat} {opc : BitVec 8} (hread : opc ≠ 0x12) (s : State) (addr : BitVec 48) (arg : Nat)
    (bs : List Byte) (op : OpRef) (src : Option Loc) : s.castMsg d dest opc addr arg bs op src = { s with
      rte := (s.castMsg d dest opc addr arg bs op src).rte, ports := (s.castMsg d dest opc addr arg bs op src).ports } := by
  have hframe : s.castMsg d dest opc addr arg bs op src = { s with
      rte := (s.castMsg d dest opc addr arg bs op src).rte, ports := (s.castMsg d dest opc addr arg bs op src).ports
      engines := (s.castMsg d dest opc addr arg bs op src).engines } := (s.send_sendsOnly op d _ _ src true).frame
  have hengines : (s.castMsg d dest opc addr arg bs op src).engines = s.engines := State.send_quiet hread
  rw [hengines] at hframe
  exact hframe
end

end Sys2Proof.Machine
end

section
/-!
SUPPORT. O47: SEND, RESTORE and ABORT, and the chunks of a send (R340 to R342).
-/
namespace Sys2Proof.Machine

section
variable {s t : State} {h : Nat}

/-! ## SEND, RESTORE and ABORT (R340, R341, R346, R347) -/

/-- A command that ends at once with a code. -/
theorem castRefuse_spec (code : BitVec 8) :
    (s.emptyLatch (portReq h)).castRefuse code = { s with
      ckp := ((s.emptyLatch (portReq h)).castRefuse code).ckp
      latches := ((s.emptyLatch (portReq h)).castRefuse code).latches } ∧
    ((s.emptyLatch (portReq h)).castRefuse code).ckp = { s.ckp with st := 5, code := code, fallback := false } := ⟨rfl, rfl⟩

section
variable (hh : h < 2) (hwritable : s.writable = true) (howned : s.ownedBy h = true)
include hh hwritable howned

section
variable (hheld : s.castHeld = false)
include hheld

theorem send_disabled (hno : s.cfg.cast.sendEn = false ∨ s.ckp.genTag = 0) : ∃ t, exec (.send h) s = .next t ∧
    t = { s with ckp := t.ckp, latches := t.latches } ∧
    t.ckp = { s.ckp with st := 5, code := 0x02, fallback := false } := by
  refine ⟨_, exec_send hh, ?_⟩
  rw [State.castStart_disabled hwritable howned hheld hno]
  exact castRefuse_spec 0x02

theorem send_busy (hen : s.cfg.cast.sendEn = true) (htag : s.ckp.genTag ≠ 0) (hquiescent : s.quiescent = false) :
    ∃ t, exec (.send h) s = .next t ∧ t = { s with ckp := t.ckp, latches := t.latches } ∧
      t.ckp = { s.ckp with st := 5, code := 0x01, fallback := false } := by
  refine ⟨_, exec_send hh, ?_⟩
  rw [State.castStart_enabled hwritable howned hheld hen htag, hquiescent]
  exact castRefuse_spec 0x01

theorem send_begins (hen : s.cfg.cast.sendEn = true) (htag : s.ckp.genTag ≠ 0) (hquiescent : s.quiescent = true) :
    ∃ t, exec (.send h) s = .next t ∧
      t = { s with ckp := t.ckp, rte := t.rte, ports := t.ports, latches := t.latches } ∧ t.ckp = s.sendBegun.ckp ∧
      Sends t fun p => p.opc = 0x40 ∧ p.tc = 3 ∧ p.dest = BitVec.ofNat 17 s.cfg.cast.sendTo ∧ p.payload = s.castHeader := by
  refine ⟨_, exec_send hh, ?_⟩
  rw [State.castStart_enabled hwritable howned hheld hen htag, hquiescent, if_pos rfl]
  have hframe := State.castMsg_frame (d := s.hopDie s.cfg.cast.sendTo 3) (dest := s.cfg.cast.sendTo)
    (show (0x40 : BitVec 8) ≠ 0x12 by decide) (s.emptyLatch (portReq h)).sendBegun 0 0 s.castHeader (.castSend s.ckp.started) none
  obtain ⟨-, hholds⟩ := State.castMsg_spec (d := s.hopDie s.cfg.cast.sendTo 3) (dest := s.cfg.cast.sendTo)
    (op := .castSend s.ckp.started) (show (0x40 : BitVec 8) ≠ 0x12 by decide) (by decide) (by decide)
    (s.emptyLatch (portReq h)).sendBegun 0 0 s.castHeader none
  generalize (s.emptyLatch (portReq h)).sendBegun.castMsg (s.hopDie s.cfg.cast.sendTo 3) s.cfg.cast.sendTo 0x40 0 0
    s.castHeader (.castSend s.ckp.started) none = v at hframe hholds
  refine ⟨?_, ?_, (hholds.imp fun q hq => ⟨hq.opc, hq.tc, hq.dest, hq.payload⟩).sends⟩
  · rw [hframe]
    rfl
  · rw [hframe]
    rfl

theorem restore_busy (hno : s.restorable = false) : ∃ t, exec (.restore h) s = .next t ∧
    t = { s with ckp := t.ckp, latches := t.latches } ∧
    t.ckp = { s.ckp with st := 5, code := 0x01, fallback := false } := by
  refine ⟨_, exec_restore hh, ?_⟩
  rw [State.restoreStart_busy hwritable howned hheld hno]
  exact castRefuse_spec 0x01

theorem restore_outside (hok : s.restorable = true) (hslice : s.inSlice s.ckp.restoreFrom.toNat = false) :
    ∃ t, exec (.restore h) s = .next t ∧ t = { s with ckp := t.ckp, latches := t.latches } ∧
      t.ckp = { s.ckp with st := 5, code := 0x02, fallback := false } := by
  refine ⟨_, exec_restore hh, ?_⟩
  rw [State.restoreStart_free hwritable howned hheld hok, hslice]
  exact castRefuse_spec 0x02

theorem restore_begins (hok : s.restorable = true) (hslice : s.inSlice s.ckp.restoreFrom.toNat = true) :
    ∃ t, exec (.restore h) s = .next t ∧
      t = { s with ckp := t.ckp, rte := t.rte, ports := t.ports, latches := t.latches, freeCtr := t.freeCtr } ∧
      t.ckp = s.restoreBegun.ckp ∧
      Sends t fun p => p.opc = 0x43 ∧ p.tc = 3 ∧ p.dest = s.ckp.restoreFrom ∧
        p.payload = leBytes 8 s.ckp.genTag.toNat ++ List.replicate 8 0 := by
  refine ⟨_, exec_restore hh, ?_⟩
  rw [State.restoreStart_free hwritable howned hheld hok, hslice, if_pos rfl]
  have hframe := State.castMsg_frame (d := s.newRestore.die) (dest := s.newRestore.holder)
    (show (0x43 : BitVec 8) ≠ 0x12 by decide) (s.emptyLatch (portReq h)).restoreBegun 0 0
    (leBytes 8 s.newRestore.tag.toNat ++ leBytes 1 (b2n false) ++ List.replicate 7 0) (.restore s.newRestore.n) none
  obtain ⟨-, hholds⟩ := State.castMsg_spec (d := s.newRestore.die) (dest := s.newRestore.holder)
    (op := .restore s.newRestore.n) (show (0x43 : BitVec 8) ≠ 0x12 by decide) (by decide) (by decide)
    (s.emptyLatch (portReq h)).restoreBegun 0 0
    (leBytes 8 s.newRestore.tag.toNat ++ leBytes 1 (b2n false) ++ List.replicate 7 0) none
  change (s.emptyLatch (portReq h)).restoreBegun.restoreAsk s.newRestore false = _ at hframe
  change Holds ((s.emptyLatch (portReq h)).restoreBegun.restoreAsk s.newRestore false) _ at hholds
  generalize (s.emptyLatch (portReq h)).restoreBegun.restoreAsk s.newRestore false = v at hframe hholds
  refine ⟨?_, ?_, (hholds.imp fun q hq => ⟨hq.opc, hq.tc, hq.dest.trans ?_, hq.payload.trans ?_⟩).sends⟩
  · rw [hframe]
    rfl
  · rw [hframe]
    rfl
  · exact (BitVec.ofNat_toNat 17 s.ckp.restoreFrom).trans (BitVec.setWidth_eq _)
  · rw [List.append_assoc]
    rfl

theorem abort_idle : ∃ t, exec (.abort h) s = .next t ∧ t = { s with latches := t.latches } := by
  refine ⟨_, exec_abort hh, ?_⟩
  have hidle : (s.emptyLatch (portReq h)).castFail 0x0A = s.emptyLatch (portReq h) := by
    refine if_neg fun hst => ?_
    exact absurd (s.castHeld_iff.mpr hst) (by rw [hheld]; decide)
  rw [State.castAbort_eq hwritable howned, hidle]
  rfl
end

theorem abort_running (hst : s.ckp.st = 1 ∨ s.ckp.st = 3) : ∃ t, exec (.abort h) s = .next t ∧
    t = { s with ckp := t.ckp, latches := t.latches } ∧
    t.ckp = { s.ckp with st := 5, code := 0x0A, sending := none, restoring := none } := by
  refine ⟨_, exec_abort hh, ?_⟩
  have hfails : (s.emptyLatch (portReq h)).castFail 0x0A = { s.emptyLatch (portReq h) with
      ckp := { s.ckp with st := 5, code := 0x0A, sending := none, restoring := none } } := if_pos hst
  rw [State.castAbort_eq hwritable howned, hfails]
  exact ⟨rfl, rfl⟩
end

/-! ## The chunks of a send (R342) -/

theorem Tab.length_set_new {α : Type} {t : Tab α} {x : Nat} (v : α) (hnew : Tab.find? t x = none) :
    (Tab.set t x v).length = t.length + 1 := by
  have hsplit : (Tab.below t x).length + (Tab.from t (x + 1)).length = t.length := by
    induction t with
    | nil => rfl
    | cons a t ih =>
      obtain ⟨k, w⟩ := a
      unfold Tab.find? at hnew
      split at hnew
      · cases hnew
      · next hk =>
        have ih := ih hnew
        unfold Tab.below Tab.from at ih ⊢
        rw [List.filter_cons, List.filter_cons]
        by_cases hlt : k < x
        · rw [if_pos (decide_eq_true hlt), if_neg (by simp; omega), List.length_cons, List.length_cons]
          omega
        · rw [if_neg (by simpa using hlt), if_pos (by simp; omega), List.length_cons, List.length_cons]
          omega
  unfold Tab.set
  rw [List.length_append, List.length_cons]
  omega

section
variable {c : CastSend}

/-- Not every chunk has been digested. -/
theorem State.castHead_waits (hsending : s.ckp.sending = some c) (hlen : c.digests.length < s.chunkAddrs.length + 1) :
    s.castHead = s := by
  unfold State.castHead
  rw [hsending]
  exact if_pos (by simp [hlen])

/-- The state in which the head of a send goes out. -/
def State.headBegun (s : State) (c : CastSend) : State :=
  { s with ckp := { s.ckp with sending := some { c with headSent := true }, done := s.chunkAddrs.length + 1 } }

/-- The CAST_END of a send. -/
def State.endBytes (s : State) (c : CastSend) : List Byte :=
  headerWith c.header 1 0 (rootDigest c.header (directory 1 s.castRegions) (c.table s.chunkAddrs.length))

/-- Every chunk has been digested: the head goes out, and CAST_END. -/
theorem State.castHead_sends (hsending : s.ckp.sending = some c) (hbegun : c.begun = true) (hhead : c.headSent = false)
    (hlen : s.chunkAddrs.length + 1 ≤ c.digests.length) :
    Streamed (s.headBegun c) s.castHead ∧ Holds s.castHead (IsCast s.cfg.cast.sendTo 0x42 0 0 (s.endBytes c)) := by
  have hgo : s.castHead =
      ((((s.headBegun c).castStream
        c.die s.cfg.cast.sendTo 0x41 0x1000 (directory 1 s.castRegions) (.castSend c.n) none).castStream
        c.die s.cfg.cast.sendTo 0x41 0x4000 (c.table s.chunkAddrs.length) (.castSend c.n) none).castStream
        c.die s.cfg.cast.sendTo 0x41 0x80000 c.sched (.castSend c.n) none).castMsg
        c.die s.cfg.cast.sendTo 0x42 0 0 (s.endBytes c) (.castSend c.n) none := by
    unfold State.castHead
    rw [hsending]
    exact if_neg (by simp [hbegun, hhead]; omega)
  have hdata : (0x41 : BitVec 8) ≠ 0x12 ∧ (0x41 : BitVec 8) ≠ 0xF0 ∧ (0x41 : BitVec 8) ≠ 0xF1 := by decide
  obtain ⟨hread, hack, hresp⟩ := hdata
  have h1 := (State.castStream_spec (d := c.die) (dest := s.cfg.cast.sendTo) (op := .castSend c.n) hread hack hresp
    (s.headBegun c) 0x1000 (directory 1 s.castRegions) none).1
  rw [hgo]
  generalize (s.headBegun c).castStream c.die s.cfg.cast.sendTo 0x41 0x1000 (directory 1 s.castRegions) (.castSend c.n)
    none = v at h1
  have h2 := (State.castStream_spec (d := c.die) (dest := s.cfg.cast.sendTo) (op := .castSend c.n) hread hack hresp
    v 0x4000 (c.table s.chunkAddrs.length) none).1
  generalize v.castStream c.die s.cfg.cast.sendTo 0x41 0x4000 (c.table s.chunkAddrs.length) (.castSend c.n) none = w at h2
  have h3 := (State.castStream_spec (d := c.die) (dest := s.cfg.cast.sendTo) (op := .castSend c.n) hread hack hresp
    w 0x80000 c.sched none).1
  generalize w.castStream c.die s.cfg.cast.sendTo 0x41 0x80000 c.sched (.castSend c.n) none = x at h3
  obtain ⟨h4, hend⟩ := State.castMsg_spec (d := c.die) (dest := s.cfg.cast.sendTo) (op := .castSend c.n)
    (show (0x42 : BitVec 8) ≠ 0x12 by decide) (by decide) (by decide) x 0 0 (s.endBytes c) none
  exact ⟨((h1.trans h2).trans h3).trans h4, hend⟩

/-- A send whose chunk `i` has been digested. -/
def CastSend.digested (c : CastSend) (i : Nat) (bs : List Byte) : CastSend :=
  { c with digests := Tab.set c.digests i (shake256 bs 32) }

/-- The state in which a chunk has been read and digested. -/
def State.chunkDigested (s : State) (c : CastSend) (i : Nat) (bs : List Byte) : State :=
  { s with ckp := { s.ckp with sending := some (c.digested i bs), done := s.ckp.done + 1 } }

theorem State.castChunk_eq {i : Nat} (hlive : s.live = true) (hsending : s.ckp.sending = some c) (hbegun : c.begun = true)
    (hhead : c.headSent = false) (hlo : 1 ≤ i) (hhi : i ≤ s.chunkAddrs.length) (hnew : Tab.find? c.digests i = none)
    (hopen : s.castOpen c.n ≤ 15 * 16384) : s.castChunk i =
      (((s.fetchLoc (.pier (s.chunkAddrs.getD (i - 1) 0)) chunkBytes).2.chunkDigested c i
        (s.readPier (s.chunkAddrs.getD (i - 1) 0) chunkBytes)).castStream c.die
        (s.fetchLoc (.pier (s.chunkAddrs.getD (i - 1) 0)) chunkBytes).2.cfg.cast.sendTo 0x41 (chunkBytes * i)
        (s.readPier (s.chunkAddrs.getD (i - 1) 0) chunkBytes) (.castSend c.n)
        (some (.pier (s.chunkAddrs.getD (i - 1) 0)))).castHead := by
  unfold State.castChunk
  rw [hsending]
  dsimp only
  refine if_neg ?_
  have hi : i ≠ 0 := by omega
  simp only [hlive, hbegun, hhead, hnew, hi, Bool.not_true, Option.isSome_none, decide_false, Bool.or_false,
    decide_eq_false (Nat.not_lt.mpr hopen), decide_eq_false (Nat.not_lt.mpr hhi), gt_iff_lt]
  decide

/-- What the digest of chunk `i` of a send leaves. -/
theorem castChunk_spec {i : Nat} (hlive : s.live = true) (hsending : s.ckp.sending = some c) (hbegun : c.begun = true)
    (hhead : c.headSent = false) (hlo : 1 ≤ i) (hhi : i ≤ s.chunkAddrs.length) (hnew : Tab.find? c.digests i = none)
    (hopen : s.castOpen c.n ≤ 15 * 16384) {bs : List Byte}
    (hbs : bs = s.readPier (s.chunkAddrs.getD (i - 1) 0) chunkBytes) :
    SameStores s (s.castChunk i) ∧ SameFlags s (s.castChunk i) ∧ (s.castChunk i).ckp.st = s.ckp.st ∧
      (∀ j < 16384, Holds (s.castChunk i) (IsCast s.cfg.cast.sendTo 0x41 (BitVec.ofNat 48 (chunkBytes * i + 4096 * j)) 0
        ((bs.drop (4096 * j)).take 4096))) ∧
      (c.digests.length < s.chunkAddrs.length →
        (s.castChunk i).ckp = { s.ckp with sending := some (c.digested i bs), done := s.ckp.done + 1 }) ∧
      (c.digests.length = s.chunkAddrs.length →
        (s.castChunk i).ckp = { s.ckp with
          sending := some { c.digested i bs with headSent := true }, done := s.chunkAddrs.length + 1 } ∧
        Holds (s.castChunk i) (IsCast s.cfg.cast.sendTo 0x42 0 0 (s.endBytes (c.digested i bs)))) := by
  have hread := s.fetchLoc_streamed (.pier (s.chunkAddrs.getD (i - 1) 0)) chunkBytes
  rw [State.castChunk_eq hlive hsending hbegun hhead hlo hhi hnew hopen, ← hbs]
  generalize (s.fetchLoc (.pier (s.chunkAddrs.getD (i - 1) 0)) chunkBytes).2 = v at hread
  rw [hread.samePlaces.cfg]
  obtain ⟨hstream, hsent⟩ := State.castStream_spec (d := c.die) (dest := s.cfg.cast.sendTo) (op := .castSend c.n)
    (show (0x41 : BitVec 8) ≠ 0x12 by decide) (by decide) (by decide) (v.chunkDigested c i bs) (chunkBytes * i) bs
    (some (.pier (s.chunkAddrs.getD (i - 1) 0)))
  generalize (v.chunkDigested c i bs).castStream c.die s.cfg.cast.sendTo 0x41 (chunkBytes * i) bs (.castSend c.n)
    (some (.pier (s.chunkAddrs.getD (i - 1) 0))) = w at hstream hsent
  have hwckp : w.ckp = { s.ckp with sending := some (c.digested i bs), done := s.ckp.done + 1 } := by
    rw [hstream.ckp]
    change ({ v.ckp with sending := some (c.digested i bs), done := v.ckp.done + 1 } : Ckp) = _
    rw [hread.ckp]
  have hwsending : w.ckp.sending = some (c.digested i bs) := by rw [hwckp]
  have hcfg : w.cfg = s.cfg := hstream.samePlaces.cfg.trans hread.samePlaces.cfg
  have haddrs : w.chunkAddrs = s.chunkAddrs := by
    unfold State.chunkAddrs State.castRegions
    rw [hcfg]
  have hlength : (c.digested i bs).digests.length = c.digests.length + 1 := Tab.length_set_new _ hnew
  have hstores : SameStores s w := State.stores_split (hstream.stores.trans hread.stores)
  have hflags : SameFlags s w := fun e f => (hstream.flags e f).trans (hread.flags e f)
  have hbytes : bs.length = 0x4000000 := by
    rw [hbs, State.readPier_length]
    rfl
  by_cases hmore : c.digests.length < s.chunkAddrs.length
  · rw [State.castHead_waits hwsending (by rw [haddrs, hlength]; omega)]
    exact ⟨hstores, hflags, by rw [hwckp], fun j hj => hsent j (by omega), fun _ => hwckp, fun heq => absurd hmore (by omega)⟩
  · have hmost : s.chunkAddrs.length + 1 ≤ (c.digested i bs).digests.length := by omega
    obtain ⟨hout, hend⟩ := State.castHead_sends hwsending hbegun hhead (by rw [haddrs]; exact hmost)
    have hckp : w.castHead.ckp = { s.ckp with
        sending := some { c.digested i bs with headSent := true }, done := s.chunkAddrs.length + 1 } := by
      rw [hout.ckp]
      change ({ w.ckp with sending := some { c.digested i bs with headSent := true }, done := w.chunkAddrs.length + 1 } : Ckp) = _
      rw [hwckp, haddrs]
    have hbytesEnd : w.endBytes (c.digested i bs) = s.endBytes (c.digested i bs) := by
      unfold State.endBytes State.castRegions
      rw [haddrs, hcfg]
    rw [hbytesEnd, hcfg] at hend
    have hheld : ∀ ok, Holds w ok → Holds w.castHead ok := fun ok hok =>
      hout.holds ok (hok.of_same ⟨rfl, rfl, rfl⟩)
    refine ⟨SameStores.trans hstores (State.stores_split hout.stores), fun e f => (hout.flags e f).trans (hflags e f),
      by rw [hckp], fun j hj => hheld _ (hsent j (by omega)), fun hless => absurd hless hmore, fun _ => ⟨hckp, hend⟩⟩
end
end

/-- Settles O47: SEND, RESTORE and ABORT at their start, and the chunks of a send. -/
theorem castSending : Obligations.CastSending := by
  intro s
  refine ⟨fun h hh hwritable howned => ⟨fun h1 h3 => ?_, fun hst => ?_⟩,
    fun c i hlive hsending hbegun hhead hlo hhi hnew hopen => ?_⟩
  · have hheld : s.castHeld = false := by
      by_contra hc
      exact (State.castHeld_iff.mp (eq_true_of_ne_false hc)).elim h1 h3
    refine ⟨fun hno => send_disabled hh hwritable howned hheld hno,
      fun hen htag => ⟨fun hq => send_busy hh hwritable howned hheld hen htag hq, fun hq => ?_⟩,
      fun hno => restore_busy hh hwritable howned hheld hno,
      fun hok => ⟨fun hs => restore_outside hh hwritable howned hheld hok hs, fun hs => ?_⟩,
      abort_idle hh hwritable howned hheld⟩
    · obtain ⟨t, hexec, honly, hckp, hsends⟩ := send_begins hh hwritable howned hheld hen htag hq
      refine ⟨t, hexec, honly, ?_⟩
      rw [hckp]
      exact ⟨rfl, rfl, rfl, rfl, rfl, rfl, hsends⟩
    · obtain ⟨t, hexec, honly, hckp, hsends⟩ := restore_begins hh hwritable howned hheld hok hs
      refine ⟨t, hexec, honly, ?_⟩
      rw [hckp]
      exact ⟨rfl, rfl, rfl, rfl, rfl, rfl, hsends⟩
  · have hheld := State.castHeld_iff.mpr hst
    refine ⟨⟨_, exec_send hh, ?_⟩, ⟨_, exec_restore hh, ?_⟩, abort_running hh hwritable howned hst⟩
    · rw [State.castStart_held hheld]
      rfl
    · rw [State.restoreStart_held hheld]
      rfl
  · obtain ⟨hstores, hflags, hst, hdata, hmore, hlast⟩ :=
      castChunk_spec hlive hsending hbegun hhead hlo hhi hnew hopen rfl
    refine ⟨_, rfl, hstores, hflags, hst, fun j hj => ?_, hmore, fun hlen => ⟨(hlast hlen).1, ?_⟩⟩
    · exact ((hdata j hj).imp fun q hq => ⟨hq.opc, hq.tc, hq.dest, hq.addr, hq.payload⟩).sends
    · exact ((hlast hlen).2.imp fun q hq => ⟨hq.opc, hq.tc, hq.payload⟩).sends

end Sys2Proof.Machine
end

section
/-!
SUPPORT. A schedule block applied (R350).
-/
namespace Sys2Proof.Machine

/-! ## The schedule block applied (R350) -/

theorem fieldAt_sliceAt (b : List Byte) {a n o k : Nat} (h : o + k ≤ n) :
    fieldAt (sliceAt b a n) o k = fieldAt b (a + o) k := by
  unfold fieldAt sliceAt
  rw [List.drop_take, List.drop_drop, List.take_take, Nat.min_eq_left (by omega)]

section
variable (s : State)

theorem ctxs_foldl (g : Nat → Ctx) (l : List Nat) : l.foldl (fun s n => s.setCtx n (g n)) s =
    { s with ctxs := l.foldl (fun t n => Tab.put Ctx.reset t n (g n)) s.ctxs } := by
  induction l generalizing s with
  | nil => rfl
  | cons n l ih => exact ih (s.setCtx n (g n))

theorem mslots_foldl (g : Nat → MSlot) (l : List Nat) : l.foldl (fun s n => s.setMslot n (g n)) s =
    { s with mslots := l.foldl (fun t n => Tab.put MSlot.reset t n (g n)) s.mslots } := by
  induction l generalizing s with
  | nil => rfl
  | cons n l ih => exact ih (s.setMslot n (g n))

theorem keys_foldl (g : Nat → KeyLine → KeyLine) (l : List Nat) : l.foldl (fun s k => s.modKey k (g k)) s =
    { s with keys := l.foldl (fun t k => Tab.put KeyLine.reset t k (g k (Tab.get KeyLine.reset t k))) s.keys } := by
  induction l generalizing s with
  | nil => rfl
  | cons k l ih => exact ih (s.modKey k (g k))

/-- A table whose listed keys are put to given values. -/
theorem Tab.get_foldl_const {α : Type} [DecidableEq α] (d : α) (g : Nat → α) {l : List Nat} (hl : l.Nodup) (t : Tab α)
    (q : Nat) (hq : q ∈ l) : Tab.get d (l.foldl (fun t p => Tab.put d t p (g p)) t) q = g q :=
  (Tab.get_foldl_each d (fun p _ => g p) hl t q).trans (if_pos hq)

/-- The tables that a schedule block gives. -/
def scheduledCtxs (b : List Byte) (t : Tab Ctx) (l : List Nat) : Tab Ctx :=
  l.foldl (fun t n => Tab.put Ctx.reset t n (ctxOf (sliceAt b (0x40 * n) 0x40))) t
def scheduledSlots (b : List Byte) (t : Tab MSlot) (l : List Nat) : Tab MSlot :=
  l.foldl (fun t n => Tab.put MSlot.reset t n (slotOf (sliceAt b (0x10000 + 0x20 * n) 0x20))) t
def scheduledKeys (b : List Byte) (t : Tab KeyLine) (l : List Nat) : Tab KeyLine :=
  l.foldl (fun t k => Tab.put KeyLine.reset t k
    (keyFrom (Tab.get KeyLine.reset t k) (sliceAt b (0x11000 + 0x20 * k) 0x20))) t
def scheduledFlags (b : List Byte) (e : Nat) (t : Tab W32) (l : List Nat) : Tab W32 :=
  l.foldl (fun t f => Tab.put 0 t f (BitVec.ofNat 32 (fieldAt b (0x12000 + 192 * e + 4 * f) 4))) t
def scheduledEngines (b : List Byte) (t : Tab Engine) (l : List Nat) : Tab Engine :=
  l.foldl (fun t e => Tab.put Engine.reset t e
    { Tab.get Engine.reset t e with flags := scheduledFlags b e (Tab.get Engine.reset t e).flags (List.range 48) }) t

/-- The four passes of a schedule block, over any lists of numbers. -/
theorem schedulePasses (b : List Byte) (ns ks ls es : List Nat) :
    es.foldl (fun s e => s.modEng e fun x => { x with flags := scheduledFlags b e x.flags (List.range 48) })
      (ls.foldl (fun s k => s.modKey k fun x => keyFrom x (sliceAt b (0x11000 + 0x20 * k) 0x20))
        (ks.foldl (fun s k => s.setMslot k (slotOf (sliceAt b (0x10000 + 0x20 * k) 0x20)))
          (ns.foldl (fun s n => s.setCtx n (ctxOf (sliceAt b (0x40 * n) 0x40))) s))) =
    { s with ctxs := scheduledCtxs b s.ctxs ns, mslots := scheduledSlots b s.mslots ks
             keys := scheduledKeys b s.keys ls, engines := scheduledEngines b s.engines es } := by
  rw [ctxs_foldl, mslots_foldl, keys_foldl (g := fun k x => keyFrom x (sliceAt b (0x11000 + 0x20 * k) 0x20)),
    engines_foldl (g := fun e x => { x with flags := scheduledFlags b e x.flags (List.range 48) })]
  rfl

theorem State.applySchedule_eq (b : List Byte) : s.applySchedule b = { s with
    ctxs := scheduledCtxs b s.ctxs (List.range 1024), mslots := scheduledSlots b s.mslots (List.range 128)
    keys := scheduledKeys b s.keys (List.range 16), engines := scheduledEngines b s.engines (List.range 2048) } :=
  schedulePasses s b (List.range 1024) (List.range 128) (List.range 16) (List.range 2048)

variable {s} {b : List Byte}

theorem scheduledCtxs_get (t : Tab Ctx) {n k : Nat} (hn : n < k) :
    Tab.get Ctx.reset (scheduledCtxs b t (List.range k)) n = ctxOf (sliceAt b (0x40 * n) 0x40) :=
  Tab.get_foldl_const _ _ List.nodup_range _ _ (List.mem_range.mpr hn)

theorem scheduledSlots_get (t : Tab MSlot) {n k : Nat} (hn : n < k) :
    Tab.get MSlot.reset (scheduledSlots b t (List.range k)) n = slotOf (sliceAt b (0x10000 + 0x20 * n) 0x20) :=
  Tab.get_foldl_const _ _ List.nodup_range _ _ (List.mem_range.mpr hn)

theorem scheduledKeys_get (t : Tab KeyLine) {n k : Nat} (hn : n < k) :
    Tab.get KeyLine.reset (scheduledKeys b t (List.range k)) n =
      keyFrom (Tab.get KeyLine.reset t n) (sliceAt b (0x11000 + 0x20 * n) 0x20) :=
  (Tab.get_foldl_each KeyLine.reset (fun k x => keyFrom x (sliceAt b (0x11000 + 0x20 * k) 0x20)) List.nodup_range t n).trans
    (if_pos (List.mem_range.mpr hn))

theorem scheduledFlags_get {e : Nat} (t : Tab W32) {f k : Nat} (hf : f < k) :
    Tab.get 0 (scheduledFlags b e t (List.range k)) f = BitVec.ofNat 32 (fieldAt b (0x12000 + 192 * e + 4 * f) 4) :=
  Tab.get_foldl_const 0 (fun f => BitVec.ofNat 32 (fieldAt b (0x12000 + 192 * e + 4 * f) 4)) List.nodup_range t f
    (List.mem_range.mpr hf)

theorem scheduledEngines_get (t : Tab Engine) {e k : Nat} (he : e < k) :
    Tab.get Engine.reset (scheduledEngines b t (List.range k)) e = { Tab.get Engine.reset t e with
      flags := scheduledFlags b e (Tab.get Engine.reset t e).flags (List.range 48) } :=
  (Tab.get_foldl_each Engine.reset
    (fun e (x : Engine) => { x with flags := scheduledFlags b e x.flags (List.range 48) }) List.nodup_range t e).trans
    (if_pos (List.mem_range.mpr he))

/-- What the contexts, slots, lines and flags of a state are once a schedule block has been applied. -/
theorem scheduled_spec {t : State} {ctxs : Tab Ctx} {mslots : Tab MSlot} {keys : Tab KeyLine} {engines : Tab Engine}
    (hctxs : t.ctxs = scheduledCtxs b ctxs (List.range 1024)) (hmslots : t.mslots = scheduledSlots b mslots (List.range 128))
    (hkeys : t.keys = scheduledKeys b keys (List.range 16))
    (hengines : t.engines = scheduledEngines b engines (List.range 2048)) :
    (∀ n < 1024, (t.ctx n).enable = false ∧ (t.ctx n).live = 0 ∧ (t.ctx n).faultValid = false ∧
      (t.ctx n).dbErr = false ∧ (t.ctx n).head = BitVec.ofNat 32 (fieldAt b (0x40 * n + 0x10) 4) ∧
      (t.ctx n).faultSeq = BitVec.ofNat 32 (fieldAt b (0x40 * n + 0x20) 4) ∧
      (t.ctx n).tail = BitVec.ofNat 32 (fieldAt b (0x40 * n + 0x14) 4)) ∧
    (∀ n < 128, (t.mslot n).mb = BitVec.ofNat 32 (fieldAt b (0x10000 + 0x20 * n + 4) 4) ∧
      (t.mslot n).arm = bit (fieldAt b (0x10000 + 0x20 * n + 8) 8) 31) ∧
    (∀ n < 16, t.key n = { Tab.get KeyLine.reset keys n with
      phase := BitVec.ofNat 32 (fieldAt b (0x11000 + 0x20 * n) 4), expect := fieldAt b (0x11000 + 0x20 * n + 8) 4,
      count := 0, reports := [], shareDone := false }) ∧
    ∀ e < 2048, ∀ f < 48, t.flagVal e f = BitVec.ofNat 32 (fieldAt b (0x12000 + 192 * e + 4 * f) 4) := by
  refine ⟨fun n hn => ?_, fun n hn => ?_, fun n hn => ?_, fun e he f hf => ?_⟩
  · have hctx : t.ctx n = ctxOf (sliceAt b (0x40 * n) 0x40) := by
      unfold State.ctx
      rw [hctxs]
      exact scheduledCtxs_get _ hn
    rw [hctx]
    refine ⟨rfl, rfl, rfl, rfl, ?_, ?_, ?_⟩
    · exact congrArg (BitVec.ofNat 32) (fieldAt_sliceAt b (by decide))
    · exact congrArg (BitVec.ofNat 32) (fieldAt_sliceAt b (by decide))
    · exact congrArg (BitVec.ofNat 32) (fieldAt_sliceAt b (by decide))
  · have hslot : t.mslot n = slotOf (sliceAt b (0x10000 + 0x20 * n) 0x20) := by
      unfold State.mslot
      rw [hmslots]
      exact scheduledSlots_get _ hn
    rw [hslot]
    refine ⟨congrArg (BitVec.ofNat 32) (fieldAt_sliceAt b (by decide)), ?_⟩
    exact congrArg (bit · 31) (fieldAt_sliceAt b (by decide))
  · unfold State.key
    rw [hkeys, scheduledKeys_get _ hn]
    unfold keyFrom
    rw [fieldAt_sliceAt b (by decide), fieldAt_sliceAt b (by decide), Nat.add_zero]
  · unfold State.flagVal State.eng
    rw [hengines, scheduledEngines_get _ he]
    exact scheduledFlags_get _ hf
end

end Sys2Proof.Machine
end

section
/-!
SUPPORT. Failed attempts of a restore (R347, R349).
-/
namespace Sys2Proof.Machine

/-! ## What the requester of a restore keeps (R348) -/

/-- What the handling of a restore's messages leaves as it was, beside pier space. -/
def Requiet (s t : State) : Prop :=
  t.engines = s.engines ∧ t.courses = s.courses ∧ t.ctxs = s.ctxs ∧ t.parts = s.parts ∧ t.mslots = s.mslots ∧
    t.keys = s.keys ∧ t.ls = s.ls ∧ t.cs = s.cs

/-- Only the cast's state, the packets and the ports differ. -/
def CastOnly (s t : State) : Prop := t = { s with ckp := t.ckp, rte := t.rte, ports := t.ports }

section
variable {s t u : State}

theorem CastOnly.trans (h : CastOnly s t) (k : CastOnly t u) : CastOnly s u := by
  unfold CastOnly at *
  have hswap : ∀ a b c, { t with ckp := a, rte := b, ports := c } = { s with ckp := a, rte := b, ports := c } :=
    fun a b c => by rw [h]
  exact k.trans (hswap _ _ _)

theorem CastOnly.requiet (h : CastOnly s t) : Requiet s t := by
  unfold CastOnly at h
  refine ⟨?_, ?_, ?_, ?_, ?_, ?_, ?_, ?_⟩ <;> rw [h]

theorem CastOnly.mem (h : CastOnly s t) : t.mem = s.mem := by
  unfold CastOnly at h
  rw [h]

theorem CastOnly.time (h : CastOnly s t) : t.gen.time = s.gen.time := by
  unfold CastOnly at h
  rw [h]

theorem CastOnly.cfg (h : CastOnly s t) : t.cfg = s.cfg := by
  unfold CastOnly at h
  rw [h]

theorem Requiet.trans (h : Requiet s t) (k : Requiet t u) : Requiet s u := by
  obtain ⟨h1, h2, h3, h4, h5, h6, h7, h8⟩ := h
  obtain ⟨k1, k2, k3, k4, k5, k6, k7, k8⟩ := k
  exact ⟨k1.trans h1, k2.trans h2, k3.trans h3, k4.trans h4, k5.trans h5, k6.trans h6, k7.trans h7, k8.trans h8⟩

theorem Streamed.requiet (h : Streamed s t) : Requiet s t := by
  have hframe := h.frame
  refine ⟨?_, ?_, ?_, ?_, ?_, ?_, ?_, ?_⟩ <;> rw [hframe]

theorem State.castMsg_castOnly {d dest : Nat} {opc : BitVec 8} (hread : opc ≠ 0x12) (s : State) (addr : BitVec 48)
    (arg : Nat) (bs : List Byte) (op : OpRef) (src : Option Loc) : CastOnly s (s.castMsg d dest opc addr arg bs op src) := by
  have hframe := State.castMsg_frame (d := d) (dest := dest) hread s addr arg bs op src
  generalize s.castMsg d dest opc addr arg bs op src = v at hframe
  have hckp : v.ckp = s.ckp := by rw [hframe]
  unfold CastOnly
  rw [hckp]
  exact hframe

/-! ## A failed attempt (R347, R349) -/

/-- A restore has failed with a code. -/
def RestoreFailed (k : Ckp) (t : State) (code : BitVec 8) : Prop :=
  t.ckp = { k with st := 5, code := code, sending := none, restoring := none }

/-- RESTORE_BAD for the half of an attempt. -/
def IsBad (q : Restoring) (p : Packet) : Prop :=
  p.opc = 0x47 ∧ p.dest = BitVec.ofNat 17 q.holder ∧ p.arg = if q.half then 1 else 0

/-- The first attempt of a restore is followed by the fallback. -/
def RestoreAgain (q : Restoring) (t : State) : Prop :=
  t.ckp.st = 3 ∧ t.ckp.fallback = true ∧
  t.ckp.restoring.map (fun x => (x.attempt, x.half)) = some (2, !q.half) ∧
  t.ckp.restoring.map (fun x => (x.holder, x.tag)) = some (q.holder, q.tag) ∧
  Sends t (IsBad q) ∧
  Sends t fun p => p.opc = 0x43 ∧ p.dest = BitVec.ofNat 17 q.holder ∧
    p.payload = leBytes 8 q.tag.toNat ++ [1, 0, 0, 0, 0, 0, 0, 0]

/-- What a failed attempt leaves. -/
def RestoreLost (k : Ckp) (q : Restoring) (t : State) : Prop :=
  (q.attempt < 2 → RestoreAgain q t) ∧ (2 ≤ q.attempt → RestoreFailed k t 0x08 ∧ Sends t (IsBad q))

theorem RestoreLost.setRecv {k : Ckp} {q : Restoring} (h : RestoreLost k q t) (x : RecvFlow) :
    RestoreLost k q (t.setRecv x) := by
  refine ⟨fun hfirst => ?_, fun hsecond => ?_⟩
  · obtain ⟨hst, hfallback, hattempt, hholder, hbad, hask⟩ := h.1 hfirst
    exact ⟨hst, hfallback, hattempt, hholder, State.setRecv_sends x hbad, State.setRecv_sends x hask⟩
  · obtain ⟨hfailed, hbad⟩ := h.2 hsecond
    exact ⟨hfailed, State.setRecv_sends x hbad⟩

/-- The attempt of `q'` is that of `q`, wherever its stream has got to. -/
structure SameAttempt (q q' : Restoring) : Prop where
  attempt : q'.attempt = q.attempt
  half : q'.half = q.half
  holder : q'.holder = q.holder
  tag : q'.tag = q.tag

/-- The state in which the fallback of attempt `q` is to be asked for. -/
def State.fallsBack (s : State) (q : Restoring) : State :=
  { s with ckp := { s.ckp with
    fallback := true, fallbacks := satAdd 64 s.ckp.fallbacks 1, done := 0, restoring := some q.again } }

section
variable {k : Ckp} {q q' : Restoring} (hst : k.st = 3) (hckp : u.ckp = { k with restoring := some q' })
include hst hckp

theorem State.castFail_restoring (code : BitVec 8) :
    CastOnly u (u.castFail code) ∧ RestoreFailed k (u.castFail code) code := by
  have hfails : u.castFail code = { u with
      ckp := { u.ckp with st := 5, code := code, sending := none, restoring := none } } :=
    if_pos (.inr (by rw [hckp]; exact hst))
  rw [hfails]
  refine ⟨rfl, ?_⟩
  change ({ u.ckp with st := 5, code := code, sending := none, restoring := none } : Ckp) = _
  rw [hckp]

theorem State.attemptFail_lost (hsame : SameAttempt q q') :
    CastOnly u u.attemptFail ∧ RestoreLost k q u.attemptFail := by
  obtain ⟨hattempt, hhalf, hholder, htag⟩ := hsame
  have honly := State.castMsg_castOnly (d := q'.die) (dest := q'.holder) (show (0x47 : BitVec 8) ≠ 0x12 by decide) u 0
    (b2n q'.half) [] (.restore q'.n) none
  obtain ⟨hstream, hholds⟩ := State.castMsg_spec (d := q'.die) (dest := q'.holder) (op := .restore q'.n)
    (show (0x47 : BitVec 8) ≠ 0x12 by decide) (by decide) (by decide) u 0 (b2n q'.half) [] none
  have hfail : u.attemptFail =
      if q'.attempt ≥ 2 then (u.castMsg q'.die q'.holder 0x47 0 (b2n q'.half) [] (.restore q'.n) none).castFail 0x08
      else ((u.castMsg q'.die q'.holder 0x47 0 (b2n q'.half) [] (.restore q'.n) none).fallsBack q').restoreAsk q'.again true := by
    unfold State.attemptFail
    rw [hckp]
    rfl
  rw [hfail]
  have hvckp := hstream.ckp.trans hckp
  generalize u.castMsg q'.die q'.holder 0x47 0 (b2n q'.half) [] (.restore q'.n) none = v at honly hholds hvckp
  have hbad : Holds v (IsBad q) := hholds.imp fun p hp => by
    refine ⟨hp.opc, hp.dest.trans (by rw [hholder]), hp.arg.trans ?_⟩
    rw [hhalf]
    cases q.half <;> rfl
  split
  · next hsecond =>
    obtain ⟨hfailOnly, hfailed⟩ := State.castFail_restoring (u := v) hst hvckp 0x08
    have hrte : (v.castFail 0x08).rte = v.rte := by
      unfold State.castFail
      split <;> rfl
    exact ⟨honly.trans hfailOnly, fun hfirst => absurd hfirst (by omega),
      fun _ => ⟨hfailed, (hbad.of_same (.of_rte hrte)).sends⟩⟩
  · next hfirst =>
    have hback : CastOnly v (v.fallsBack q') := rfl
    have hask : CastOnly (v.fallsBack q') ((v.fallsBack q').restoreAsk q'.again true) :=
      State.castMsg_castOnly (by decide) _ _ _ _ _ _
    obtain ⟨haskStream, haskHolds⟩ := State.castMsg_spec (d := q'.again.die) (dest := q'.again.holder)
      (op := .restore q'.again.n) (show (0x43 : BitVec 8) ≠ 0x12 by decide) (by decide) (by decide) (v.fallsBack q') 0 0
      (leBytes 8 q'.again.tag.toNat ++ leBytes 1 (b2n true) ++ List.replicate 7 0) none
    have hbadAsked := (haskStream.holds _ (hbad.of_same (t := v.fallsBack q') ⟨rfl, rfl, rfl⟩)).sends
    have haskckp := haskStream.ckp
    change Holds ((v.fallsBack q').restoreAsk q'.again true) _ at haskHolds
    change Sends ((v.fallsBack q').restoreAsk q'.again true) _ at hbadAsked
    change ((v.fallsBack q').restoreAsk q'.again true).ckp = _ at haskckp
    generalize (v.fallsBack q').restoreAsk q'.again true = w at hask haskHolds hbadAsked haskckp
    refine ⟨(honly.trans hback).trans hask, fun _ => ⟨?_, ?_, ?_, ?_, hbadAsked, ?_⟩, fun hsecond => absurd hsecond (by omega)⟩
    · rw [haskckp]
      change v.ckp.st = 3
      rw [hvckp]
      exact hst
    · rw [haskckp]
      rfl
    · rw [haskckp]
      change some (2, !q'.half) = _
      rw [hhalf]
    · rw [haskckp]
      change some (q'.holder, q'.tag) = _
      rw [hholder, htag]
    · refine (haskHolds.imp fun p hp => ⟨hp.opc, hp.dest.trans ?_, hp.payload.trans ?_⟩).sends
      · change BitVec.ofNat 17 q'.holder = _
        rw [hholder]
      · change leBytes 8 q'.tag.toNat ++ leBytes 1 1 ++ List.replicate 7 0 = _
        rw [htag, List.append_assoc]
        rfl
end
end

end Sys2Proof.Machine
end

section
/-!
SUPPORT. The messages of a restore at its requester, and its checks (R348, R349).
-/
namespace Sys2Proof.Machine

/-! ## The messages of a restore at its requester (R348, R349) -/

section
variable {s : State} {d : Nat} {p : Packet} {r : RecvFlow} {q : Restoring}

/-- A message of a restore does its action. -/
theorem restore_delivered {opc : BitVec 8} {act : State → State × Nat} {c : Instr} {M : List Host.Cell} {C : State → Prop}
    (hin : NextIn s d p r) (hc : exec c s = guarded (isDie d) (s.deliver d p opc act)) (hopc : p.opc = opc)
    (hact : ∀ b, ∃ u, act (s.dropArrived b) = (u, 0) ∧ u.gen.time = s.gen.time ∧ Requiet s u ∧ u.mem = M ∧ C u)
    (hC : ∀ u x, C u → C (u.setRecv x)) :
    ∃ t, exec c s = .next t ∧ (Requiet s t ∧ Advanced s t d p r (r.ackDue + 1)) ∧ t.mem = M ∧ C t := by
  obtain ⟨⟨hquiet, hmem, hCt⟩, hadv⟩ := State.delivered (P := fun u => Requiet s u ∧ u.mem = M ∧ C u) hin hopc hact
    fun u x hu => ⟨hu.1.trans ⟨rfl, rfl, rfl, rfl, rfl, rfl, rfl, rfl⟩, hu.2.1, hC u x hu.2.2⟩
  exact ⟨_, exec_delivers hin hc, ⟨hquiet, hadv⟩, hmem, hCt⟩

section
variable (hq : s.ckp.restoring = some q) (hst : s.ckp.st = 3) (hholder : p.src.toNat = q.holder)
include hq hst hholder

theorem State.restoring?_some : s.restoring? p = some q := by
  unfold State.restoring?
  rw [if_pos hst, hq]
  exact Option.filter_eq_some_iff.mpr ⟨rfl, beq_iff_eq.mpr hholder⟩

/-- The attempt with a message of its meta image. -/
def Restoring.withMeta (q : Restoring) (p : Packet) : Restoring :=
  { q with meta_ := Mem.write q.meta_ (p.addr.toNat % 2 ^ 20) ((pktPayload p).take (metaBytes - p.addr.toNat % 2 ^ 20)) }

theorem State.restoreMetaAct_skips (hskip : q.skip = true) : State.restoreMetaAct p s = (s, 0) := by
  unfold State.restoreMetaAct
  rw [State.restoring?_some hq hst hholder]
  exact if_pos hskip

theorem State.restoreMetaAct_takes (hskip : q.skip = false) : State.restoreMetaAct p s =
    (if p.addr.toNat % 2 ^ 20 + p.len.toNat ≥ metaBytes then (s.setRestoring (q.withMeta p)).checkMeta (q.withMeta p)
      else s.setRestoring (q.withMeta p), 0) := by
  unfold State.restoreMetaAct
  rw [State.restoring?_some hq hst hholder]
  exact if_neg (by rw [hskip]; decide)

theorem State.restoreEndAct_skips (hskip : q.skip = true) :
    State.restoreEndAct p s = (s.setRestoring { q with skip := false }, 0) := by
  unfold State.restoreEndAct
  rw [State.restoring?_some hq hst hholder]
  exact if_pos hskip

theorem State.restoreEndAct_ends (hskip : q.skip = false) : State.restoreEndAct p s =
    (if p.arg = 1 then (s.setRestoring { q with ended := true }).attemptFail
      else if p.arg = 2 then (s.setRestoring { q with ended := true }).castFail 0x07
      else if q.metaOk = false then (s.setRestoring { q with ended := true }).attemptFail
      else s.setRestoring { q with ended := true }, 0) := by
  unfold State.restoreEndAct
  rw [State.restoring?_some hq hst hholder]
  dsimp only
  rw [if_neg (by rw [hskip]; decide)]
  simp only [Bool.not_eq_true']

/-- The attempt after `n` bytes of data at `a`, with the chunk whose last they are. -/
def Restoring.gotData (q : Restoring) (addrs : List Nat) (a n : Nat) : Restoring :=
  { q with written := q.written ++ ((addrs.findIdx? fun c => c + 2 ^ 26 = a + n).map (· + 1)).toList }

theorem State.restoreDataAct_writes (hskip : q.skip = false) {a : Nat} {x : Region}
    (haddr : addrLoc p.addr = some (.pier a))
    (hregion : s.castRegions.find? (fun y => y.base ≤ a && a < y.base + y.size) = some x)
    (hroom : a + p.len.toNat ≤ x.base + x.size) : ∃ u, State.restoreDataAct p s = (u, 0) ∧
      CastOnly (s.storeLoc (.pier a) (pktPayload p)) u ∧
      u.ckp = { s.ckp with restoring := some (q.gotData s.chunkAddrs a p.len.toNat) } := by
  have hstored := s.storePier_streamed a (pktPayload p)
  have hwritten := s.writePier_eq a (pktPayload p)
  have hckp : (s.storeLoc (.pier a) (pktPayload p)).ckp = s.ckp := hstored.ckp.trans (by rw [hwritten])
  have hcfg : (s.storeLoc (.pier a) (pktPayload p)).cfg = s.cfg := hstored.samePlaces.cfg.trans (by rw [hwritten])
  have haddrs : (s.storeLoc (.pier a) (pktPayload p)).chunkAddrs = s.chunkAddrs := by
    unfold State.chunkAddrs State.castRegions
    rw [hcfg]
  have hact : State.restoreDataAct p s =
      match s.chunkAddrs.findIdx? fun c => c + 2 ^ 26 = a + p.len.toNat with
      | some i => ((s.storeLoc (.pier a) (pktPayload p)).setRestoring { q with written := q.written ++ [i + 1] }, 0)
      | none => (s.storeLoc (.pier a) (pktPayload p), 0) := by
    unfold State.restoreDataAct
    rw [State.restoring?_some hq hst hholder, haddr]
    dsimp only
    rw [if_neg (by rw [hskip]; decide), hregion]
    dsimp only
    rw [if_neg (Nat.not_lt.mpr hroom), haddrs]
    rfl
  rw [hact]
  unfold Restoring.gotData
  cases s.chunkAddrs.findIdx? fun c => c + 2 ^ 26 = a + p.len.toNat with
  | none =>
    refine ⟨_, rfl, rfl, hckp.trans ?_⟩
    change s.ckp = { s.ckp with restoring := some { q with written := q.written ++ [] } }
    rw [List.append_nil, ← hq]
  | some i =>
    refine ⟨_, rfl, rfl, ?_⟩
    change ({ (s.storeLoc (.pier a) (pktPayload p)).ckp with
      restoring := some { q with written := q.written ++ [i + 1] } } : Ckp) = _
    rw [hckp]
    rfl
end

/-! ## The checks of a meta image, and of each chunk (R348) -/

/-- A meta image of this module's. -/
def MineMeta (s : State) (m : List Byte) : Prop :=
  fieldAt m 0 4 = 0x54534143 ∧ fieldAt m 4 2 = 1 ∧ fieldAt m 6 1 = 2 ∧
    fieldAt m 0x10 4 % 2 ^ 17 = s.cfg.slice.nodeId.toNat

/-- What the checks of a whole meta image leave. -/
structure MetaChecked (s : State) (k : Ckp) (q q' : Restoring) (t : State) : Prop where
  other : ¬ MineMeta s (Mem.read q'.meta_ 0 metaBytes) → RestoreLost k q t
  regions : MineMeta s (Mem.read q'.meta_ 0 metaBytes) → s.directoryOk (Mem.read q'.meta_ 0 metaBytes) = false →
    RestoreFailed k t 0x09
  root : MineMeta s (Mem.read q'.meta_ 0 metaBytes) → s.directoryOk (Mem.read q'.meta_ 0 metaBytes) = true →
    rootOf (Mem.read q'.meta_ 0 metaBytes) ≠ sliceAt (Mem.read q'.meta_ 0 metaBytes) 0x40 32 → RestoreLost k q t
  good : MineMeta s (Mem.read q'.meta_ 0 metaBytes) → s.directoryOk (Mem.read q'.meta_ 0 metaBytes) = true →
    rootOf (Mem.read q'.meta_ 0 metaBytes) = sliceAt (Mem.read q'.meta_ 0 metaBytes) 0x40 32 →
    t.ckp = { k with total := fieldAt (Mem.read q'.meta_ 0 metaBytes) 0x28 4, restoring := some { q' with metaOk := true } }

theorem State.checkMeta_spec {u : State} {k : Ckp} {q' : Restoring} (hst : k.st = 3)
    (hckp : u.ckp = { k with restoring := some q' }) (hsame : SameAttempt q q') :
    CastOnly u (u.checkMeta q') ∧ MetaChecked u k q q' (u.checkMeta q') := by
  obtain ⟨hfailOnly, hlost⟩ := State.attemptFail_lost hst hckp hsame
  obtain ⟨hendOnly, hended⟩ := State.castFail_restoring hst hckp 0x09
  unfold State.checkMeta
  dsimp only
  split
  · next hother =>
    have hno : ¬ MineMeta u (Mem.read q'.meta_ 0 metaBytes) := fun ⟨h1, h2, h3, h4⟩ =>
      hother.elim (absurd h1) (Or.elim · (absurd h2) (Or.elim · (absurd h3) (absurd h4)))
    exact ⟨hfailOnly, fun _ => hlost, fun h => absurd h hno, fun h => absurd h hno, fun h => absurd h hno⟩
  · next hmine =>
    have hyes : MineMeta u (Mem.read q'.meta_ 0 metaBytes) := by
      rw [not_or, not_or, not_or, not_not, not_not, not_not, not_not] at hmine
      exact hmine
    split
    · next hdir =>
      rw [Bool.not_eq_true'] at hdir
      have hno : ¬ u.directoryOk (Mem.read q'.meta_ 0 metaBytes) = true := by rw [hdir]; decide
      exact ⟨hendOnly, fun h => absurd hyes h, fun _ _ => hended, fun _ h => absurd h hno, fun _ h => absurd h hno⟩
    · next hdir =>
      rw [Bool.not_eq_true', Bool.not_eq_false] at hdir
      have hno : ¬ u.directoryOk (Mem.read q'.meta_ 0 metaBytes) = false := by rw [hdir]; decide
      split
      · next hroot =>
        exact ⟨hfailOnly, fun h => absurd hyes h, fun _ h => absurd h hno, fun _ _ _ => hlost, fun _ _ h => absurd h hroot⟩
      · next hroot =>
        refine ⟨rfl, fun h => absurd hyes h, fun _ h => absurd h hno, fun _ _ h => absurd h hroot, fun _ _ _ => ?_⟩
        change ({ u.ckp with
          total := fieldAt (Mem.read q'.meta_ 0 metaBytes) 0x28 4, restoring := some { q' with metaOk := true } } : Ckp) = _
        rw [hckp]

theorem MetaChecked.setRecv {t : State} {k : Ckp} {q' : Restoring} (h : MetaChecked s k q q' t) (x : RecvFlow) :
    MetaChecked s k q q' (t.setRecv x) :=
  ⟨fun hm => (h.other hm).setRecv x, h.regions, fun hm hd hr => (h.root hm hd hr).setRecv x, h.good⟩

/-- The bytes that the digest of chunk `i` of the generation being restored covers. -/
def State.restoredChunk (s : State) (q : Restoring) (i : Nat) : List Byte :=
  if i = 0 then sliceAt (Mem.read q.meta_ 0 metaBytes) 0x80000 0x80000
  else s.readPier (s.chunkAddrs.getD (i - 1) 0) chunkBytes

theorem chunkDigest_spec (hq : s.ckp.restoring = some q) (hst : s.ckp.st = 3) {i : Nat} (hlive : s.live = true)
    (hmeta : q.metaOk = true) (hnew : i ∉ q.checked) (hwritten : i = 0 ∨ i ∈ q.written) :
    Requiet s (s.chunkDigest i) ∧ (s.chunkDigest i).mem = s.mem ∧
      (shake256 (s.restoredChunk q i) 32 = sliceAt (Mem.read q.meta_ 0 metaBytes) (0x4000 + 32 * i) 32 →
        (s.chunkDigest i).ckp = { s.ckp with
          done := s.ckp.done + 1, restoring := some { q with checked := q.checked ++ [i] } }) ∧
      (shake256 (s.restoredChunk q i) 32 ≠ sliceAt (Mem.read q.meta_ 0 metaBytes) (0x4000 + 32 * i) 32 →
        RestoreLost s.ckp q (s.chunkDigest i)) := by
  obtain ⟨u, hstream, hgo⟩ : ∃ u, Streamed s u ∧ s.chunkDigest i =
      if shake256 (s.restoredChunk q i) 32 = sliceAt (Mem.read q.meta_ 0 metaBytes) (0x4000 + 32 * i) 32 then
        { u with ckp := { u.ckp with done := u.ckp.done + 1, restoring := some { q with checked := q.checked ++ [i] } } }
      else u.attemptFail := by
    have hguard : ¬ (!s.live || !q.metaOk || q.checked.contains i || (decide (i ≠ 0) && !q.written.contains i)) = true := by
      have hdue : (decide (i ≠ 0) && !q.written.contains i) = false := by
        obtain h0 | hin := hwritten
        · simp [h0]
        · simp [hin]
      have hcontains : q.checked.contains i = false := by simpa using hnew
      rw [hdue, hcontains, hlive, hmeta]
      decide
    unfold State.chunkDigest State.restoredChunk
    rw [hq]
    dsimp only
    rw [if_neg hguard]
    by_cases hi : i = 0
    · rw [if_pos hi, if_pos hi]
      exact ⟨s, .refl s, rfl⟩
    · rw [if_neg hi, if_neg hi]
      exact ⟨_, s.fetchLoc_streamed (.pier (s.chunkAddrs.getD (i - 1) 0)) chunkBytes, rfl⟩
  have huckp := hstream.ckp
  have hself : u.ckp = { s.ckp with restoring := some q } := by
    rw [huckp, ← hq]
  rw [hgo]
  split
  · next heq =>
    refine ⟨hstream.requiet.trans ⟨rfl, rfl, rfl, rfl, rfl, rfl, rfl, rfl⟩, hstream.mem, fun _ => ?_, fun hne => absurd heq hne⟩
    change ({ u.ckp with done := u.ckp.done + 1, restoring := some { q with checked := q.checked ++ [i] } } : Ckp) = _
    rw [huckp]
  · next hne =>
    obtain ⟨honly, hlost⟩ := State.attemptFail_lost hst hself ⟨rfl, rfl, rfl, rfl⟩
    exact ⟨hstream.requiet.trans honly.requiet, honly.mem.trans hstream.mem, fun heq => absurd heq hne, fun _ => hlost⟩

/-! ## The schedule block of a restored generation (R350) -/

/-- The state in which a restore has succeeded. -/
def State.restoredAs (s : State) (m : List Byte) : State :=
  { s.applySchedule (sliceAt m 0x80000 0x80000) with
    ckp := { s.ckp with st := 4, code := 0, resultTag := BitVec.ofNat 64 (fieldAt m 8 8),
                        restored := satAdd 64 s.ckp.restored 1, restoring := none } }

theorem restoreApply_eq (hq : s.ckp.restoring = some q) (hlive : s.live = true) (hmeta : q.metaOk = true)
    (hended : q.ended = true) (hall : ∀ i ≤ s.chunkAddrs.length, i ∈ q.checked) :
    s.restoreApply = s.restoredAs (Mem.read q.meta_ 0 metaBytes) := by
  have hchecked : (List.range (s.chunkAddrs.length + 1)).all q.checked.contains = true :=
    List.all_eq_true.mpr fun i hi => List.contains_iff_mem.mpr (hall i (by have := List.mem_range.mp hi; omega))
  unfold State.restoreApply
  rw [hq]
  dsimp only
  rw [if_neg (by rw [hlive, hmeta, hended, hchecked]; decide)]
  unfold State.restoredAs
  rw [State.applySchedule_eq]
end

end Sys2Proof.Machine
end

section
/-!
SUPPORT. O49: a restore at its requester (R347 to R350).
-/
namespace Sys2Proof.Machine

section
variable {s : State} {d : Nat} {p : Packet} {r : RecvFlow} {q : Restoring} (hq : s.ckp.restoring = some q)
  (hst : s.ckp.st = 3)
include hq hst

section
variable (hin : NextIn s d p r) (hholder : p.src.toNat = q.holder)
include hin hholder

theorem restoreMeta_skips (hopc : p.opc = 0x45) (hskip : q.skip = true) :
    ∃ t, exec (.restoreMeta d p) s = .next t ∧ (Requiet s t ∧ Advanced s t d p r (r.ackDue + 1)) ∧ t.mem = s.mem ∧
      t.ckp = s.ckp :=
  restore_delivered (C := fun t => t.ckp = s.ckp) hin rfl hopc (fun b =>
    ⟨_, State.restoreMetaAct_skips (s := s.dropArrived b) hq hst hholder hskip, rfl,
      ⟨rfl, rfl, rfl, rfl, rfl, rfl, rfl, rfl⟩, rfl, rfl⟩) fun _ _ h => h

theorem restoreMeta_takes (hopc : p.opc = 0x45) (hskip : q.skip = false) :
    ∃ t, exec (.restoreMeta d p) s = .next t ∧ (Requiet s t ∧ Advanced s t d p r (r.ackDue + 1)) ∧ t.mem = s.mem ∧
      (p.addr.toNat % 2 ^ 20 + p.len.toNat < metaBytes → t.ckp = { s.ckp with restoring := some (q.withMeta p) }) ∧
      (p.addr.toNat % 2 ^ 20 + p.len.toNat ≥ metaBytes → MetaChecked s s.ckp q (q.withMeta p) t) := by
  refine restore_delivered (C := fun t =>
    (p.addr.toNat % 2 ^ 20 + p.len.toNat < metaBytes → t.ckp = { s.ckp with restoring := some (q.withMeta p) }) ∧
    (p.addr.toNat % 2 ^ 20 + p.len.toNat ≥ metaBytes → MetaChecked s s.ckp q (q.withMeta p) t)) hin rfl hopc
    (fun b => ?_) fun u x h => ⟨h.1, fun hall => (h.2 hall).setRecv x⟩
  refine ⟨_, State.restoreMetaAct_takes (s := s.dropArrived b) hq hst hholder hskip, ?_⟩
  by_cases hall : p.addr.toNat % 2 ^ 20 + p.len.toNat ≥ metaBytes
  · rw [if_pos hall]
    obtain ⟨honly, hchecked⟩ := State.checkMeta_spec (u := (s.dropArrived b).setRestoring (q.withMeta p)) (q := q) hst rfl
      ⟨rfl, rfl, rfl, rfl⟩
    have hset : CastOnly (s.dropArrived b) ((s.dropArrived b).setRestoring (q.withMeta p)) := rfl
    have hboth := hset.trans honly
    refine ⟨hboth.time, hboth.requiet, hboth.mem, fun hmore => absurd hall (Nat.not_le.mpr hmore), fun _ => ?_⟩
    exact ⟨hchecked.other, hchecked.regions, hchecked.root, hchecked.good⟩
  · rw [if_neg hall]
    exact ⟨rfl, ⟨rfl, rfl, rfl, rfl, rfl, rfl, rfl, rfl⟩, rfl, fun _ => rfl, fun hmore => absurd hmore hall⟩

theorem restoreData_writes (hopc : p.opc = 0x44) (hskip : q.skip = false) {a : Nat} {x : Region}
    (haddr : addrLoc p.addr = some (.pier a))
    (hregion : s.castRegions.find? (fun y => y.base ≤ a && a < y.base + y.size) = some x)
    (hroom : a + p.len.toNat ≤ x.base + x.size) :
    ∃ t, exec (.restoreData d p) s = .next t ∧ (Requiet s t ∧ Advanced s t d p r (r.ackDue + 1)) ∧
      t.mem = (s.writePier a (pktPayload p)).mem ∧
      t.ckp = { s.ckp with restoring := some (q.gotData s.chunkAddrs a p.len.toNat) } :=
  restore_delivered (C := fun t => t.ckp = { s.ckp with restoring := some (q.gotData s.chunkAddrs a p.len.toNat) }) hin rfl
    hopc (fun b => by
      obtain ⟨u, hu, honly, hckp⟩ :=
        State.restoreDataAct_writes (s := s.dropArrived b) hq hst hholder hskip haddr hregion hroom
      have hstored := (s.dropArrived b).storePier_streamed a (pktPayload p)
      have hwritten := (s.dropArrived b).writePier_eq a (pktPayload p)
      have hplaces : SamePlaces s (s.dropArrived b) := ⟨rfl, rfl, rfl⟩
      have hquiet : Requiet s ((s.dropArrived b).writePier a (pktPayload p)) := by
        rw [hwritten]
        exact ⟨rfl, rfl, rfl, rfl, rfl, rfl, rfl, rfl⟩
      refine ⟨u, hu, ?_, (hquiet.trans hstored.requiet).trans honly.requiet, ?_, hckp⟩
      · rw [honly.time, hstored.time, hwritten]
        rfl
      · rw [honly.mem, hstored.mem]
        exact hplaces.writePier_mem a _) fun _ _ h => h

/-- What the end of a stream leaves. -/
def StreamEnded (s : State) (q : Restoring) (p : Packet) (t : State) : Prop :=
  (q.skip = true → t.ckp = { s.ckp with restoring := some { q with skip := false } }) ∧
  (q.skip = false → p.arg = 2 → RestoreFailed s.ckp t 0x07) ∧
  (q.skip = false → p.arg = 1 → RestoreLost s.ckp q t) ∧
  (q.skip = false → p.arg = 0 → q.metaOk = true → t.ckp = { s.ckp with restoring := some { q with ended := true } }) ∧
  (q.skip = false → p.arg = 0 → q.metaOk = false → RestoreLost s.ckp q t)

theorem restoreEnd_ends (hopc : p.opc = 0x46) :
    ∃ t, exec (.restoreEnd d p) s = .next t ∧ (Requiet s t ∧ Advanced s t d p r (r.ackDue + 1)) ∧ t.mem = s.mem ∧
      StreamEnded s q p t := by
  refine restore_delivered (C := StreamEnded s q p) hin rfl hopc (fun b => ?_) fun u x ⟨h1, h2, h3, h4, h5⟩ =>
    ⟨h1, h2, fun hs ha => (h3 hs ha).setRecv x, h4, fun hs ha hm => (h5 hs ha hm).setRecv x⟩
  cases hskip : q.skip with
  | true =>
    have hno : ¬ q.skip = false := by rw [hskip]; decide
    exact ⟨_, State.restoreEndAct_skips (s := s.dropArrived b) hq hst hholder hskip, rfl,
      ⟨rfl, rfl, rfl, rfl, rfl, rfl, rfl, rfl⟩, rfl, fun _ => rfl, fun h => absurd h hno, fun h => absurd h hno,
      fun h => absurd h hno, fun h => absurd h hno⟩
  | false =>
    have hno : ¬ q.skip = true := by rw [hskip]; decide
    have hset : CastOnly (s.dropArrived b) ((s.dropArrived b).setRestoring { q with ended := true }) := rfl
    obtain ⟨hlostOnly, hlost⟩ := State.attemptFail_lost (q := q) (u := (s.dropArrived b).setRestoring { q with ended := true })
      hst rfl ⟨rfl, rfl, rfl, rfl⟩
    obtain ⟨hfailOnly, hfailed⟩ := State.castFail_restoring (u := (s.dropArrived b).setRestoring { q with ended := true })
      hst rfl 0x07
    refine ⟨_, State.restoreEndAct_ends (s := s.dropArrived b) hq hst hholder hskip, ?_⟩
    have hlostBoth := hset.trans hlostOnly
    have hfailBoth := hset.trans hfailOnly
    split
    · next h1 =>
      have h2 : p.arg ≠ 2 := by rw [h1]; decide
      have h0 : p.arg ≠ 0 := by rw [h1]; decide
      exact ⟨hlostBoth.time, hlostBoth.requiet, hlostBoth.mem, fun h => absurd h hno, fun _ h => absurd h h2,
        fun _ _ => hlost, fun _ h => absurd h h0, fun _ h => absurd h h0⟩
    · next h1 =>
      split
      · next h2 =>
        have h0 : p.arg ≠ 0 := by rw [h2]; decide
        exact ⟨hfailBoth.time, hfailBoth.requiet, hfailBoth.mem, fun h => absurd h hno, fun _ _ => hfailed,
          fun _ h => absurd h h1, fun _ h => absurd h h0, fun _ h => absurd h h0⟩
      · next h2 =>
        split
        · next hmeta =>
          exact ⟨hlostBoth.time, hlostBoth.requiet, hlostBoth.mem, fun h => absurd h hno, fun _ h => absurd h h2,
            fun _ h => absurd h h1, fun _ _ h => absurd (hmeta.symm.trans h) Bool.false_ne_true, fun _ _ _ => hlost⟩
        · next hmeta =>
          exact ⟨hset.time, hset.requiet, hset.mem, fun h => absurd h hno, fun _ h => absurd h h2,
            fun _ h => absurd h h1, fun _ _ _ => rfl, fun _ _ h => absurd h hmeta⟩
end

omit hq hst in
theorem tables_of {t v : State} {ctxs : Tab Ctx} {mslots : Tab MSlot} {keys : Tab KeyLine} {engines : Tab Engine}
    (hv : v = { s with ctxs := ctxs, mslots := mslots, keys := keys, engines := engines })
    (ht : t = { v with ckp := t.ckp }) :
    SameStores s t ∧ t.ctxs = ctxs ∧ t.mslots = mslots ∧ t.keys = keys ∧ t.engines = engines := by
  rw [ht, hv]
  exact ⟨⟨rfl, rfl, rfl⟩, rfl, rfl, rfl, rfl⟩

omit hst in
theorem restoreApply_spec (hlive : s.live = true) (hmeta : q.metaOk = true) (hended : q.ended = true)
    (hall : ∀ i ≤ s.chunkAddrs.length, i ∈ q.checked) :
    ∃ t, exec .restoreApply s = .next t ∧ SameStores s t ∧
      t.ckp = (s.restoredAs (Mem.read q.meta_ 0 metaBytes)).ckp ∧
      t.ctxs = scheduledCtxs (sliceAt (Mem.read q.meta_ 0 metaBytes) 0x80000 0x80000) s.ctxs (List.range 1024) ∧
      t.mslots = scheduledSlots (sliceAt (Mem.read q.meta_ 0 metaBytes) 0x80000 0x80000) s.mslots (List.range 128) ∧
      t.keys = scheduledKeys (sliceAt (Mem.read q.meta_ 0 metaBytes) 0x80000 0x80000) s.keys (List.range 16) ∧
      t.engines = scheduledEngines (sliceAt (Mem.read q.meta_ 0 metaBytes) 0x80000 0x80000) s.engines (List.range 2048) := by
  refine ⟨_, congrArg Host.Outcome.next (restoreApply_eq hq hlive hmeta hended hall), ?_⟩
  have htables := tables_of (t := s.restoredAs (Mem.read q.meta_ 0 metaBytes))
    (s.applySchedule_eq (sliceAt (Mem.read q.meta_ 0 metaBytes) 0x80000 0x80000)) rfl
  obtain ⟨hstores, hctxs, hmslots, hkeys, hengines⟩ := htables
  exact ⟨hstores, rfl, hctxs, hmslots, hkeys, hengines⟩
end

/-- Settles O49: a restore at its requester, from its meta image to its schedule block. -/
theorem castRestoring : Obligations.CastRestoring := by
  intro s q hq hst
  refine ⟨fun d p r hin hholder => ⟨fun hopc => ⟨fun hskip => ?_, fun hskip => ?_⟩,
    fun hopc hskip a x haddr hregion hroom => ?_, fun hopc => ?_⟩, fun i hlive hmeta hnew hwritten => ?_,
    fun hlive hmeta hended hall => ?_⟩
  · exact restoreMeta_skips hq hst hin hholder hopc hskip
  · obtain ⟨t, hexec, hgood, hmem, hmore, hdone⟩ := restoreMeta_takes hq hst hin hholder hopc hskip
    exact ⟨t, hexec, hgood, hmem, hmore, fun hall =>
      ⟨(hdone hall).other, (hdone hall).regions, (hdone hall).root, (hdone hall).good⟩⟩
  · exact restoreData_writes hq hst hin hholder hopc hskip haddr hregion hroom
  · exact restoreEnd_ends hq hst hin hholder hopc
  · obtain ⟨hquiet, hmem, hgood, hbad⟩ := chunkDigest_spec hq hst hlive hmeta hnew hwritten
    exact ⟨_, rfl, hquiet, hmem, hgood, hbad⟩
  · obtain ⟨t, hexec, hstores, hckp, hctxs, hmslots, hkeys, hengines⟩ := restoreApply_spec hq hlive hmeta hended hall
    obtain ⟨hctx, hslot, hkey, hflag⟩ := scheduled_spec hctxs hmslots hkeys hengines
    refine ⟨t, hexec, hstores, ?_, ?_, ?_, ?_, ?_, hctx, hslot, hkey, hflag⟩
    · rw [hckp]
      rfl
    · rw [hckp]
      rfl
    · rw [hckp]
      rfl
    · rw [hckp]
      rfl
    · rw [hckp]
      rfl

end Sys2Proof.Machine
end

section
/-!
SUPPORT. Descents, entries and grants of the clock domains (R361 to R366).
-/
namespace Sys2Proof.Machine

/-! ## Descents and entries of clock domains (R361 to R363) -/

section
variable {s : State} {d n l : Nat}

/-- The level that an idle domain enters, but for a disabled port, which may go deeper (R361). -/
def State.restingLevel (s : State) (d t : Nat) : Nat :=
  let k := s.classCfg (domClass d)
  let may (l q : Nat) : Bool := q ≠ 0 && decide (t ≥ q) && decide (l ≤ k.deepest)
  let cap := if !s.ready then 2 else if d < 64 && s.courseHolds d then 3 else 4
  if may 4 k.tQ4 && cap ≥ 4 then 4 else if may 3 k.tQ3 && cap ≥ 3 then 3 else if may 2 k.tQ2 then 2 else 0

theorem State.descentLevel_eq (s : State) (d t : Nat) : s.descentLevel d t =
    if s.restingLevel d t = 4 && domClass d = 2 && (s.classCfg (domClass d)).deepest = 5 &&
      (s.port (d - 80)).st == .disabled then 5 else s.restingLevel d t := rfl

theorem State.restingLevel_le : s.restingLevel d n ≤ 4 := by
  unfold State.restingLevel
  dsimp only
  generalize (if (!s.ready) = true then 2 else if (decide (d < 64) && s.courseHolds d) = true then 3 else 4) = cap
  split_ifs <;> decide

theorem State.restingLevel_unready (hready : s.ready = false) : s.restingLevel d n ≤ 2 := by
  unfold State.restingLevel
  dsimp only
  rw [hready, if_pos (show (!false) = true from rfl), decide_eq_false (show ¬ 2 ≥ 4 by decide),
    decide_eq_false (show ¬ 2 ≥ 3 by decide), Bool.and_false, Bool.and_false, if_neg Bool.false_ne_true,
    if_neg Bool.false_ne_true]
  split_ifs <;> decide

theorem domClass_port (h : domClass d = 2) : 80 ≤ d ∧ d < 90 := by
  unfold domClass at h
  split_ifs at h <;> omega

theorem descentLevel_five (hfive : s.descentLevel d n = 5) : 80 ≤ d ∧ d < 90 ∧ (s.port (d - 80)).st = .disabled := by
  rw [State.descentLevel_eq] at hfive
  split at hfive
  · next h =>
    rw [Bool.and_eq_true, Bool.and_eq_true, Bool.and_eq_true, decide_eq_true_eq, decide_eq_true_eq, beq_iff_eq] at h
    obtain ⟨⟨⟨-, hclass⟩, -⟩, hport⟩ := h
    obtain ⟨hlo, hhi⟩ := domClass_port hclass
    exact ⟨hlo, hhi, hport⟩
  · have := State.restingLevel_le (s := s) (d := d) (n := n)
    omega

theorem descentLevel_unready (hready : s.ready = false) : s.descentLevel d n ≤ 2 := by
  have hle := State.restingLevel_unready (d := d) (n := n) hready
  rw [State.descentLevel_eq, if_neg ?_]
  · exact hle
  · rw [decide_eq_false (show ¬ s.restingLevel d n = 4 by omega)]
    exact Bool.false_ne_true

theorem exec_domain {c : Instr} {t : State} (hd : d < 100) (hc : exec c s = guarded (isDomain d) t) : exec c s = .next t := by
  rw [hc, guarded_ok (show isDomain d = true from decide_eq_true hd)]

theorem idleDescent_spec (hd : d < 100) (hruns : s.domRuns d = true) (hidle : (s.dom d).idle = some n)
    (hwake : (s.dom d).wakeReq = false) (hentering : (s.dom d).entering = none) (hrests : s.domIdle d = true)
    (hdeeper : (s.dom d).level < s.descentLevel d n) :
    ∃ t, exec (.idleDescent d) s = .next t ∧ t = { s with doms := t.doms } ∧ (∀ k, k ≠ d → t.dom k = s.dom k) ∧
      t.dom d = { s.dom d with entering := some (s.descentLevel d n) } := by
  have hgo : s.idleDescent d = s.setDom d { s.dom d with entering := some (s.descentLevel d n) } := by
    unfold State.idleDescent
    dsimp only
    rw [hidle]
    dsimp only
    rw [if_neg (by simp [hruns, hwake, hentering, hrests, hdeeper])]
  refine ⟨_, exec_domain hd rfl, ?_⟩
  rw [hgo]
  exact ⟨rfl, fun k hk => State.dom_setDom_ne _ _ hk, State.dom_setDom_self ..⟩

theorem levelEntry_spec (hd : d < 100) (hruns : s.domRuns d = true) (hentering : (s.dom d).entering = some l) :
    ∃ t, exec (.levelEntryComplete d) s = .next t ∧ t = { s with doms := t.doms } ∧ (∀ k, k ≠ d → t.dom k = s.dom k) ∧
      t.dom d = { s.dom d with level := l, entering := none, mhz := 0 } := by
  have hgo : s.levelEntry d = s.setDom d { s.dom d with level := l, entering := none, mhz := 0 } := by
    unfold State.levelEntry
    dsimp only
    rw [hentering]
    dsimp only
    rw [if_neg (by simp [hruns])]
  refine ⟨_, exec_domain hd rfl, ?_⟩
  rw [hgo]
  exact ⟨rfl, fun k hk => State.dom_setDom_ne _ _ hk, State.dom_setDom_self ..⟩
end

/-! ## Grants (R365, R366) -/

/-- What picking grants guarantees: the requests picked stand in order, within the limits of the module and of each die, and
one passed over met a limit. -/
structure Picked (dieMax m : Nat) (acc l pick : List Nat) : Prop where
  split : ∃ more, pick = acc ++ more ∧ List.Sublist more l ∧ more.length ≤ m
  dies : (∀ die, (acc.countP fun c => domDie c = die) ≤ dieMax) → ∀ die, (pick.countP fun c => domDie c = die) ≤ dieMax
  passed : ∀ before c after, l = before ++ c :: after → c ∉ pick →
    m ≤ before.countP (fun x => pick.contains x) ∨
    dieMax ≤ (acc.countP fun x => domDie x = domDie c) +
      before.countP fun x => pick.contains x && domDie x = domDie c

theorem grantPick_picked (dieMax : Nat) : ∀ (l : List Nat) (m : Nat) (acc : List Nat),
    Picked dieMax m acc l (grantPick dieMax m l acc)
  | [], m, acc => by
    have hpick : grantPick dieMax m [] acc = acc := by cases m <;> rfl
    rw [hpick]
    exact ⟨⟨[], (List.append_nil _).symm, .slnil, Nat.zero_le _⟩, fun h => h, fun before c after h => by
      exact absurd h.symm (by simp)⟩
  | c :: l, 0, acc => ⟨⟨[], (List.append_nil _).symm, List.nil_sublist _, Nat.le_refl _⟩, fun h => h,
      fun _ _ _ _ _ => .inl (Nat.zero_le _)⟩
  | c :: l, m + 1, acc => by
    unfold grantPick
    split
    · next hroom =>
      have ih := grantPick_picked dieMax l m (acc ++ [c])
      generalize grantPick dieMax m l (acc ++ [c]) = pick at ih
      obtain ⟨⟨more, hmore, hsub, hlen⟩, hdies, hpassed⟩ := ih
      refine ⟨⟨c :: more, by rw [hmore, List.append_assoc]; rfl, hsub.cons_cons c, Nat.succ_le_succ hlen⟩,
        fun h => hdies fun die => ?_,
        fun before x after hl hx => ?_⟩
      · rw [List.countP_append, List.countP_singleton]
        by_cases hdie : domDie c = die
        · rw [if_pos (decide_eq_true hdie), ← hdie]
          exact hroom
        · rw [if_neg (by simpa using hdie)]
          exact h die
      · have hc : pick.contains c = true := by
          rw [hmore]
          simp
        cases before with
        | nil =>
          obtain ⟨rfl, -⟩ := List.cons.inj hl
          exact absurd (List.contains_iff_mem.mp hc) hx
        | cons y before =>
          obtain ⟨hy, htail⟩ := List.cons.inj hl
          subst hy
          obtain h | h := hpassed before x after htail hx
          · left
            rw [List.countP_cons_of_pos hc]
            exact Nat.succ_le_succ h
          · right
            rw [List.countP_append, List.countP_singleton] at h
            rw [List.countP_cons, hc, Bool.true_and]
            omega
    · next hfull =>
      have ih := grantPick_picked dieMax l (m + 1) acc
      generalize grantPick dieMax (m + 1) l acc = pick at ih
      obtain ⟨⟨more, hmore, hsub, hlen⟩, hdies, hpassed⟩ := ih
      refine ⟨⟨more, hmore, hsub.cons c, hlen⟩, hdies, fun before x after hl hx => ?_⟩
      cases before with
      | nil =>
        obtain ⟨rfl, -⟩ := List.cons.inj hl
        right
        omega
      | cons y before =>
        obtain ⟨hy, htail⟩ := List.cons.inj hl
        subst hy
        obtain h | h := hpassed before x after htail hx
        · left
          rw [List.countP_cons]
          omega
        · right
          rw [List.countP_cons]
          omega

/-- Grants leave all but the domains and the longest wait, and grant what is listed. -/
theorem grants_foldl : ∀ (l : List Nat) (s : State), l.foldl State.grantOne s = { s with
      doms := (l.foldl State.grantOne s).doms, pwr := (l.foldl State.grantOne s).pwr } ∧
    (l.foldl State.grantOne s).pwr = { s.pwr with wakeNow := (l.foldl State.grantOne s).pwr.wakeNow } ∧
    ∀ k, (l.foldl State.grantOne s).dom k = { s.dom k with granted := (s.dom k).granted || l.contains k }
  | [], s => ⟨rfl, rfl, fun k => by
      change s.dom k = { s.dom k with granted := (s.dom k).granted || false }
      rw [Bool.or_false]⟩
  | c :: l, s => by
    obtain ⟨hframe, hpwr, hdom⟩ := grants_foldl l (s.grantOne c)
    rw [List.foldl_cons]
    have hone : s.grantOne c = { s with doms := (s.grantOne c).doms, pwr := (s.grantOne c).pwr } := rfl
    have honePwr : (s.grantOne c).pwr = { s.pwr with wakeNow := (s.grantOne c).pwr.wakeNow } := rfl
    have honeDom : ∀ k, (s.grantOne c).dom k = { s.dom k with granted := (s.dom k).granted || k == c } := fun k => by
      change (s.modDom c fun x => { x with granted := true }).dom k = _
      rw [State.dom_modDom]
      by_cases hk : k = c
      · rw [if_pos hk, hk, beq_self_eq_true, Bool.or_true]
      · rw [if_neg hk, beq_false_of_ne hk, Bool.or_false]
    generalize s.grantOne c = v at hframe hpwr hdom hone honePwr honeDom
    generalize l.foldl State.grantOne v = w at hframe hpwr hdom
    refine ⟨?_, ?_, fun k => ?_⟩
    · have hswap : ∀ a b, { v with doms := a, pwr := b } = { s with doms := a, pwr := b } := fun a b => by rw [hone]
      exact hframe.trans (hswap _ _)
    · have hswap : ∀ a, { v.pwr with wakeNow := a } = { s.pwr with wakeNow := a } := fun a => by rw [honePwr]
      exact hpwr.trans (hswap _)
    · rw [hdom, honeDom, List.contains_cons, Bool.or_assoc]

section
variable {s : State}

/-- The requests that a grant instant may grant, in order (R365). -/
def State.eligible (s : State) : List Nat := s.pwr.wakeQ.filter fun c => (s.dom c).wakeReq && (s.dom c).entering.isNone

/-- The state once the requests picked have left the queue. -/
def State.unqueued (s : State) (pick : List Nat) : State :=
  { s with pwr := { s.pwr with wakeQ := s.pwr.wakeQ.filter fun c => !pick.contains c } }

theorem State.grantInstant_eq (hon : s.pwr.seq = .on) (hfrozen : s.frz.frozen = false) : s.grantInstant =
    (grantPick s.cfg.diePer s.cfg.modPer s.eligible []).foldl State.grantOne
      (s.unqueued (grantPick s.cfg.diePer s.cfg.modPer s.eligible [])) := by
  unfold State.grantInstant
  rw [if_neg (by simp [hon, hfrozen])]
  rfl

theorem wakeGrant_spec (hon : s.pwr.seq = .on) (hfrozen : s.frz.frozen = false) :
    ∃ t pick, exec .wakeGrantInstant s = .next t ∧ t = { s with doms := t.doms, pwr := t.pwr } ∧
      Picked s.cfg.diePer s.cfg.modPer [] s.eligible pick ∧
      t.pwr.wakeQ = s.pwr.wakeQ.filter (fun c => !pick.contains c) ∧
      ∀ k, t.dom k = { s.dom k with granted := (s.dom k).granted || pick.contains k } := by
  have hpicked := grantPick_picked s.cfg.diePer s.eligible s.cfg.modPer []
  refine ⟨s.grantInstant, _, rfl, ?_, hpicked, ?_⟩
  · rw [State.grantInstant_eq hon hfrozen]
    exact (grants_foldl _ (s.unqueued _)).1
  · rw [State.grantInstant_eq hon hfrozen]
    obtain ⟨-, hpwr, hdom⟩ := grants_foldl (grantPick s.cfg.diePer s.cfg.modPer s.eligible [])
      (s.unqueued (grantPick s.cfg.diePer s.cfg.modPer s.eligible []))
    have hqueue := congrArg Pwr.wakeQ hpwr
    exact ⟨hqueue, hdom⟩

theorem State.grantOne_dom (c : Nat) : (s.grantOne c).dom c = { s.dom c with granted := true } :=
  State.dom_modDom_self s c fun x => { x with granted := true }

/-- A request of a die's deep queue is granted. -/
theorem deepGrant_spec {die k : Nat} (hdie : die < 4) (hon : s.pwr.seq = .on) (hfrozen : s.frz.frozen = false)
    (hdue : Tab.get 0 s.pwr.deepAt die ≤ s.gen.time) (hhead : s.pwr.deepQ.head? = some k) (hmine : domDie k = die)
    (hentering : (s.dom k).entering = none) :
    ∃ t, exec (.deepGrant die) s = .next t ∧ t = { s with doms := t.doms, pwr := t.pwr } ∧
      t.pwr.deepQ = s.pwr.deepQ.tail ∧ Tab.get 0 t.pwr.deepAt die = s.gen.time + 25 * s.cfg.deepGap ∧
      (k < 64 → t.pwr.wakeQ = k :: s.pwr.wakeQ ∧ t.dom k = { s.dom k with deepGiven := true }) ∧
      (64 ≤ k → t.pwr.wakeQ = s.pwr.wakeQ ∧ t.dom k = { s.dom k with granted := true }) := by
  obtain ⟨rest, hqueue⟩ : ∃ rest, s.pwr.deepQ = k :: rest := by
    cases hq : s.pwr.deepQ with
    | nil =>
      rw [hq] at hhead
      cases hhead
    | cons x rest =>
      rw [hq] at hhead
      exact ⟨rest, by rw [Option.some.inj hhead]⟩
  have hfound : s.pwr.deepQ.find? (fun d => domDie d = die && (s.dom d).entering.isNone) = some k := by
    rw [hqueue]
    exact List.find?_cons_of_pos (by simp [hmine, hentering])
  have hexec : exec (.deepGrant die) s = .next (s.deepGrant die) := by
    change guarded (isDie die) _ = _
    rw [guarded_ok (show isDie die = true from decide_eq_true hdie)]
  refine ⟨_, hexec, ?_⟩
  unfold State.deepGrant
  rw [if_neg (by simp [hon, hfrozen, hdue]), hfound]
  dsimp only
  by_cases hk : k < 64
  · rw [if_pos hk, if_pos hk]
    refine ⟨rfl, ?_, Tab.get_put_self .., fun _ => ⟨rfl, State.dom_modDom_self ..⟩, fun h => absurd hk (Nat.not_lt.mpr h)⟩
    change s.pwr.deepQ.erase k = _
    rw [hqueue, List.erase_cons_head]
    rfl
  · rw [if_neg hk, if_neg hk]
    refine ⟨rfl, ?_, Tab.get_put_self .., fun h => absurd h hk, fun _ => ⟨rfl, State.grantOne_dom k⟩⟩
    change s.pwr.deepQ.erase k = _
    rw [hqueue, List.erase_cons_head]
    rfl
end

end Sys2Proof.Machine
end

section
/-!
SUPPORT. The flag changes held for a course, and its logic started again (R229, R359).
-/
namespace Sys2Proof.Machine

/-! ## The flag changes held for a course (R229) -/

/-- A change of a flag: an addition or a subtraction. -/
def State.changeFlag (op : W32 → W32 → W32) (s : State) (x : Nat × Nat × W32) : State :=
  s.setFlag x.1 x.2.1 (op (s.flagVal x.1 x.2.1) x.2.2)

/-- The values among flag changes that are for one flag. -/
def changesOf (l : List (Nat × Nat × W32)) (e f : Nat) : List W32 := (l.filter fun x => x.1 = e ∧ x.2.1 = f).map (·.2.2)

theorem changesOf_cons (x : Nat × Nat × W32) (l : List (Nat × Nat × W32)) (e f : Nat) :
    changesOf (x :: l) e f = if x.1 = e ∧ x.2.1 = f then x.2.2 :: changesOf l e f else changesOf l e f := by
  unfold changesOf
  rw [List.filter_cons]
  by_cases h : x.1 = e ∧ x.2.1 = f
  · rw [if_pos (decide_eq_true h), if_pos h, List.map_cons]
  · rw [if_neg (by simpa using h), if_neg h]

section
variable {op : W32 → W32 → W32}

theorem State.changeFlag_flagVal (s : State) (x : Nat × Nat × W32) (e f : Nat) : (s.changeFlag op x).flagVal e f =
    if x.1 = e ∧ x.2.1 = f then op (s.flagVal e f) x.2.2 else s.flagVal e f := by
  rw [State.changeFlag, State.flagVal_setFlag]
  by_cases h : x.1 = e ∧ x.2.1 = f
  · rw [if_pos h, if_pos ⟨h.1.symm, h.2.symm⟩, h.1, h.2]
  · rw [if_neg h, if_neg fun h' => h ⟨h'.1.symm, h'.2.symm⟩]

theorem flagsOnly_trans {a b c : Engine} (hab : b = { a with flags := b.flags }) (hbc : c = { b with flags := c.flags }) :
    c = { a with flags := c.flags } := by
  have hswap : ∀ x, { b with flags := x } = { a with flags := x } := fun x => by rw [hab]
  exact hbc.trans (hswap _)

theorem State.changeFlag_eng (s : State) (x : Nat × Nat × W32) (e : Nat) :
    (s.changeFlag op x).eng e = { s.eng e with flags := ((s.changeFlag op x).eng e).flags } := by
  rw [State.changeFlag, State.eng_setFlag]

/-- Flag changes, one after another: each flag takes those for it, and nothing else differs. -/
theorem changeFlag_foldl : ∀ (l : List (Nat × Nat × W32)) (s : State),
    l.foldl (State.changeFlag op) s = { s with engines := (l.foldl (State.changeFlag op) s).engines } ∧
    (∀ e, (l.foldl (State.changeFlag op) s).eng e =
      { s.eng e with flags := ((l.foldl (State.changeFlag op) s).eng e).flags }) ∧
    ∀ e f, (l.foldl (State.changeFlag op) s).flagVal e f = (changesOf l e f).foldl op (s.flagVal e f)
  | [], _ => ⟨rfl, fun _ => rfl, fun _ _ => rfl⟩
  | x :: l, s => by
    obtain ⟨hframe, heng, hflag⟩ := changeFlag_foldl l (s.changeFlag op x)
    rw [List.foldl_cons]
    refine ⟨hframe, fun e => flagsOnly_trans (State.changeFlag_eng s x e) (heng e), fun e f => ?_⟩
    rw [hflag, State.changeFlag_flagVal, changesOf_cons]
    split <;> rfl
end

theorem foldl_add_sum : ∀ (l : List W32) (x : W32), l.foldl (· + ·) x = x + l.sum
  | [], x => (BitVec.add_zero x).symm
  | v :: l, x => by rw [List.foldl_cons, foldl_add_sum l, List.sum_cons, BitVec.add_assoc]

theorem foldl_sub_sum : ∀ (l : List W32) (x : W32), l.foldl (· - ·) x = x - l.sum
  | [], x => (BitVec.sub_zero x).symm
  | v :: l, x => by
    rw [List.foldl_cons, foldl_sub_sum l, List.sum_cons]
    ring

/-- What making the changes held for a course leaves. -/
structure HeldApplied (s t : State) (d : Nat) : Prop where
  frame : t = { s with engines := t.engines, courses := t.courses, rte := t.rte }
  adds : (t.crs d).heldAdds = []
  subs : (t.crs d).heldSubs = []
  rte : t.rte = { s.rte with recv := s.rte.recv.map fun r => { r with holds := r.holds.filter fun c => decide (c ≠ d) } }
  flag : ∀ e f, t.flagVal e f =
    s.flagVal e f + (changesOf (s.crs d).heldAdds e f).sum - (changesOf (s.crs d).heldSubs e f).sum
  eng : ∀ e, t.eng e = { s.eng e with flags := (t.eng e).flags }

/-- The state whose changes held for a course are taken out, to be made. -/
def State.takenHeld (s : State) (d : Nat) : State :=
  (s.modCrs d fun y => { y with heldAdds := [], heldSubs := [] }).unhold (· == d)

theorem State.applyHeld_eq (s : State) (d : Nat) : s.applyHeld d = (s.crs d).heldSubs.foldl (State.changeFlag (· - ·))
    ((s.crs d).heldAdds.foldl (State.changeFlag (· + ·)) (s.takenHeld d)) := rfl

theorem State.applyHeld_spec (s : State) (d : Nat) : HeldApplied s (s.applyHeld d) d := by
  rw [State.applyHeld_eq]
  have htaken : s.takenHeld d = { s with courses := (s.takenHeld d).courses, rte := (s.takenHeld d).rte } := rfl
  have hcrs : (s.takenHeld d).crs d = { s.crs d with heldAdds := [], heldSubs := [] } :=
    State.crs_modCrs_self s d fun y => { y with heldAdds := [], heldSubs := [] }
  have hrte : (s.takenHeld d).rte =
      { s.rte with recv := s.rte.recv.map fun r => { r with holds := r.holds.filter fun c => !(c == d) } } := rfl
  have hfilter : (fun c => !(c == d)) = fun c => decide (c ≠ d) := funext fun c => by
    rw [Bool.beq_eq_decide_eq, ← decide_not]
  rw [hfilter] at hrte
  have heng : ∀ e, (s.takenHeld d).eng e = s.eng e := fun _ => rfl
  generalize s.takenHeld d = u at htaken hcrs hrte heng ⊢
  obtain ⟨hadds, haddEng, haddFlag⟩ := changeFlag_foldl (op := (· + ·)) (s.crs d).heldAdds u
  generalize (s.crs d).heldAdds.foldl (State.changeFlag (· + ·)) u = v at hadds haddEng haddFlag ⊢
  obtain ⟨hsubs, hsubEng, hsubFlag⟩ := changeFlag_foldl (op := (· - ·)) (s.crs d).heldSubs v
  generalize (s.crs d).heldSubs.foldl (State.changeFlag (· - ·)) v = w at hsubs hsubEng hsubFlag ⊢
  have hwu : w = { u with engines := w.engines } := by
    have hswap : ∀ a, { v with engines := a } = { u with engines := a } := fun a => by rw [hadds]
    exact hsubs.trans (hswap _)
  have hwCourses := congrArg State.courses hwu
  have hwRte := congrArg State.rte hwu
  have hwCrs : w.crs d = u.crs d := by rw [State.crs, hwCourses]; rfl
  refine ⟨?_, by rw [hwCrs, hcrs], by rw [hwCrs, hcrs], hwRte.trans hrte, fun e f => ?_, fun e => ?_⟩
  · rw [hwRte, hwCourses]
    have hswap : ∀ a, { u with engines := a } = { s with engines := a, courses := u.courses, rte := u.rte } := fun a => by
      conv_lhs => rw [htaken]
    exact hwu.trans (hswap _)
  · rw [hsubFlag, foldl_sub_sum, haddFlag, foldl_add_sum, State.flagVal, heng, ← State.flagVal]
  · have hu := haddEng e
    rw [heng] at hu
    exact flagsOnly_trans hu (hsubEng e)

/-! ## Exits (R359) -/

/-- An engine's contents, started again where its course is the one named. -/
def restartIn (d e : Nat) (x : Engine) : Engine := if e / 32 = d then x.restart else x

theorem State.courseRestart_eng (s : State) (d e : Nat) : (s.courseRestart d).eng e = restartIn d e (s.eng e) := by
  have hfind : Tab.find? (s.courseRestart d).engines e = (Tab.find? s.engines e).map (restartIn d e) :=
    Tab.find?_mapKey (restartIn d) e s.engines
  rw [State.eng, State.eng, Tab.get, Tab.get, hfind]
  cases Tab.find? s.engines e with
  | some x => rfl
  | none =>
    unfold restartIn
    split <;> rfl

/-- A domain that has reached Q0. -/
def State.reached (s : State) (d : Nat) : State :=
  s.setDom d { s.dom d with
    level := 0, wakeReq := false, granted := false, deepGiven := false, idle := none, waited := 0, asleep := 0,
    mhz := s.domMhz d, wakes := if (s.dom d).level ≥ 2 then satAdd 64 (s.dom d).wakes 1 else (s.dom d).wakes }

/-- A course that has reached Q0, whose logic starts again where it was at Q4. -/
def State.reachedCourse (s : State) (d : Nat) : State :=
  if (s.dom d).level ≥ 4 then (s.reached d).courseRestart d else s.reached d

section
variable {s : State} {d : Nat}

theorem State.domainExit_eq (hruns : s.domRuns d = true) (hreq : (s.dom d).wakeReq = true) (hgranted : (s.dom d).granted = true)
    (hentering : (s.dom d).entering = none) :
    s.domainExit d = if d < 64 then (s.reachedCourse d).applyHeld d else s.reached d := by
  unfold State.domainExit
  dsimp only
  rw [if_neg (by simp [hruns, hreq, hgranted, hentering])]
  rfl

theorem State.reached_dom : (s.reached d).dom d = { s.dom d with
    level := 0, wakeReq := false, granted := false, deepGiven := false, idle := none, waited := 0, asleep := 0,
    mhz := s.domMhz d, wakes := if (s.dom d).level ≥ 2 then satAdd 64 (s.dom d).wakes 1 else (s.dom d).wakes } :=
  State.dom_setDom_self ..

theorem State.reached_dom_ne {k : Nat} (hk : k ≠ d) : (s.reached d).dom k = s.dom k := State.dom_setDom_ne _ _ hk

theorem State.reachedCourse_frame : s.reachedCourse d =
    { s.reached d with engines := (s.reachedCourse d).engines } := by
  unfold State.reachedCourse
  split <;> rfl

theorem State.reachedCourse_eng (e : Nat) : (s.reachedCourse d).eng e =
    if e / 32 = d ∧ 4 ≤ (s.dom d).level then (s.eng e).restart else s.eng e := by
  unfold State.reachedCourse
  by_cases hlevel : 4 ≤ (s.dom d).level
  · rw [if_pos hlevel, State.courseRestart_eng, restartIn]
    simp only [hlevel, and_true]
    rfl
  · rw [if_neg hlevel, if_neg fun h => hlevel h.2]
    rfl

theorem State.reachedCourse_flagVal (e f : Nat) : (s.reachedCourse d).flagVal e f = s.flagVal e f := by
  rw [State.flagVal, State.reachedCourse_eng]
  split <;> rfl
end

end Sys2Proof.Machine
end

section
/-!
SUPPORT. O34: exits, course clocks, the cap and telemetry.
-/
namespace Sys2Proof.Machine

section
variable {s : State} {d : Nat}

/-- An engine started again holds nothing in its registers, operand buffers and accumulators. -/
theorem Engine.restart_empty (x : Engine) : (∀ q, x.restart.gr q = 0) ∧ (∀ q l, x.restart.lane q l = 0) ∧
    (∀ b, (x.restart.buf b).k = 0) ∧ (∀ a, x.restart.acc a = AccSet.clear) ∧ x.restart.pc = 0 := by
  refine ⟨fun q => ?_, fun _ _ => rfl, fun _ => rfl, fun _ => rfl, rfl⟩
  unfold Engine.gr
  split <;> rfl

/-- What the exit of a course leaves (R229, R359). -/
structure CourseExited (s t : State) (d : Nat) : Prop where
  adds : (t.crs d).heldAdds = []
  subs : (t.crs d).heldSubs = []
  rte : t.rte = { s.rte with recv := s.rte.recv.map fun r => { r with holds := r.holds.filter fun c => decide (c ≠ d) } }
  flag : ∀ e f, t.flagVal e f = s.flagVal e f +
    (((s.crs d).heldAdds.filter fun x => x.1 = e ∧ x.2.1 = f).map (·.2.2)).sum -
    (((s.crs d).heldSubs.filter fun x => x.1 = e ∧ x.2.1 = f).map (·.2.2)).sum
  eng : ∀ e, if e / 32 = d ∧ 4 ≤ (s.dom d).level then
      (∀ q, (t.eng e).gr q = 0) ∧ (∀ q l, (t.eng e).lane q l = 0) ∧ (∀ b, ((t.eng e).buf b).k = 0) ∧
      (∀ a, (t.eng e).acc a = AccSet.clear) ∧ (t.eng e).pc = 0
    else t.eng e = { s.eng e with flags := (t.eng e).flags }

theorem State.reachedCourse_exited : CourseExited s ((s.reachedCourse d).applyHeld d) d := by
  obtain ⟨-, hadds, hsubs, hrte, hflag, heng⟩ := (s.reachedCourse d).applyHeld_spec d
  have hframe := State.reachedCourse_frame (s := s) (d := d)
  have hcourses := congrArg State.courses hframe
  have hcrs : (s.reachedCourse d).crs d = s.crs d := by rw [State.crs, hcourses]; rfl
  refine ⟨hadds, hsubs, ?_, fun e f => ?_, fun e => ?_⟩
  · have hkept := congrArg State.rte hframe
    rw [hrte, hkept]
    rfl
  · rw [hflag, State.reachedCourse_flagVal, hcrs]
    rfl
  · have he := heng e
    rw [State.reachedCourse_eng] at he
    by_cases hrestarts : e / 32 = d ∧ 4 ≤ (s.dom d).level
    · rw [if_pos hrestarts]
      rw [if_pos hrestarts] at he
      rw [he]
      exact Engine.restart_empty (s.eng e)
    · rw [if_neg hrestarts]
      rw [if_neg hrestarts] at he
      exact he

/-- The exit of a course changes nothing of the stores, and of the domains what its own reaching Q0 does. -/
theorem State.reachedCourse_kept : SameStores s ((s.reachedCourse d).applyHeld d) ∧
    ∀ k, ((s.reachedCourse d).applyHeld d).dom k = (s.reached d).dom k := by
  have happlied := ((s.reachedCourse d).applyHeld_spec d).frame
  have hframe := State.reachedCourse_frame (s := s) (d := d)
  generalize (s.reachedCourse d).applyHeld d = t at happlied ⊢
  generalize s.reachedCourse d = u at happlied hframe
  have hls : t.ls = u.ls := by rw [happlied]
  have hls' := congrArg State.ls hframe
  have hcs : t.cs = u.cs := by rw [happlied]
  have hcs' := congrArg State.cs hframe
  have hmem : t.mem = u.mem := by rw [happlied]
  have hmem' := congrArg State.mem hframe
  have hdoms : t.doms = u.doms := by rw [happlied]
  have hdoms' := congrArg State.doms hframe
  refine ⟨⟨hls.trans hls', hcs.trans hcs', hmem.trans hmem'⟩, fun k => ?_⟩
  rw [State.dom, hdoms, hdoms']
  rfl

theorem domainExit_spec (hd : d < 100) (hruns : s.domRuns d = true) (hreq : (s.dom d).wakeReq = true)
    (hgranted : (s.dom d).granted = true) (hentering : (s.dom d).entering = none) :
    ∃ t, exec (.domainExitComplete d) s = .next t ∧ SameStores s t ∧ (∀ k, k ≠ d → t.dom k = s.dom k) ∧
      (t.dom d).level = 0 ∧ (t.dom d).wakeReq = false ∧ (t.dom d).granted = false ∧
      (t.dom d).wakes = (if 2 ≤ (s.dom d).level then min ((s.dom d).wakes + 1) (2 ^ 64 - 1) else (s.dom d).wakes) ∧
      (64 ≤ d → t = { s with doms := t.doms }) ∧ (d < 64 → CourseExited s t d) := by
  refine ⟨_, exec_domain hd rfl, ?_⟩
  rw [State.domainExit_eq hruns hreq hgranted hentering]
  by_cases hcourse : d < 64
  · rw [if_pos hcourse]
    obtain ⟨hstores, hdom⟩ := State.reachedCourse_kept (s := s) (d := d)
    refine ⟨hstores, fun k hk => (hdom k).trans (State.reached_dom_ne hk), ?_⟩
    rw [hdom, State.reached_dom]
    exact ⟨rfl, rfl, rfl, rfl, fun h => absurd hcourse (Nat.not_lt.mpr h), fun _ => State.reachedCourse_exited⟩
  · rw [if_neg hcourse]
    refine ⟨⟨rfl, rfl, rfl⟩, fun k hk => State.reached_dom_ne hk, ?_⟩
    rw [State.reached_dom]
    exact ⟨rfl, rfl, rfl, rfl, fun _ => rfl, fun h => absurd h hcourse⟩

end

/-! ## The course clocks (R370) -/

/-- The clock of a running course of a partition takes its new value. -/
def State.clockCourse (p : Nat) (s : State) (c : Nat) : State :=
  if s.partOfCourse c == some p && (s.dom c).level ≤ 1 && !(s.dom c).held then
    s.modDom c fun x => { x with mhz := s.courseMhz p }
  else s

/-- What the clock change of a partition makes of a domain. -/
def State.clocked (s : State) (p c : Nat) : Dom :=
  if s.partOfCourse c = some p ∧ (s.dom c).level ≤ 1 ∧ (s.dom c).held = false then { s.dom c with mhz := s.courseMhz p }
  else s.dom c

theorem State.clockCourse_spec (s : State) (p c : Nat) : s.clockCourse p c = { s with doms := (s.clockCourse p c).doms } ∧
    ∀ k, (s.clockCourse p c).dom k = if k = c then s.clocked p c else s.dom k := by
  unfold State.clockCourse State.clocked
  by_cases h : s.partOfCourse c = some p ∧ (s.dom c).level ≤ 1 ∧ (s.dom c).held = false
  · obtain ⟨hpart, hlevel, hheld⟩ := h
    rw [if_pos (by simp [hpart, hlevel, hheld]), if_pos ⟨hpart, hlevel, hheld⟩]
    exact ⟨rfl, fun k => State.dom_modDom ..⟩
  · have hno : ¬ (s.partOfCourse c == some p && decide ((s.dom c).level ≤ 1) && !(s.dom c).held) = true := by
      rw [Bool.and_eq_true, Bool.and_eq_true, beq_iff_eq, decide_eq_true_eq, Bool.not_eq_true', and_assoc]
      exact h
    rw [if_neg hno, if_neg h]
    refine ⟨rfl, fun k => ?_⟩
    split
    · next hk => rw [hk]
    · rfl

theorem clockCourse_foldl (p : Nat) : ∀ (l : List Nat) (s : State), l.Nodup →
    l.foldl (State.clockCourse p) s = { s with doms := (l.foldl (State.clockCourse p) s).doms } ∧
    ∀ k, (l.foldl (State.clockCourse p) s).dom k = if k ∈ l then s.clocked p k else s.dom k
  | [], s, _ => ⟨rfl, fun k => (if_neg List.not_mem_nil).symm⟩
  | c :: l, s, hnodup => by
    obtain ⟨hnotin, hrest⟩ := List.nodup_cons.mp hnodup
    obtain ⟨hframe, hdom⟩ := State.clockCourse_spec s p c
    obtain ⟨ihframe, ihdom⟩ := clockCourse_foldl p l (s.clockCourse p c) hrest
    rw [List.foldl_cons]
    generalize s.clockCourse p c = u at hframe hdom ihframe ihdom
    generalize l.foldl (State.clockCourse p) u = v at ihframe ihdom
    have hswap : ∀ a, { u with doms := a } = { s with doms := a } := fun a => by rw [hframe]
    have hclocked : ∀ k, k ≠ c → u.clocked p k = s.clocked p k := fun k hk => by
      have hpart : u.partOfCourse k = s.partOfCourse k := by rw [hframe]; rfl
      have hmhz : u.courseMhz p = s.courseMhz p := by rw [hframe]; rfl
      rw [State.clocked, State.clocked, hpart, hmhz, hdom, if_neg hk]
    refine ⟨ihframe.trans (hswap _), fun k => ?_⟩
    rw [ihdom, hdom]
    by_cases hk : k = c
    · rw [if_neg (hk ▸ hnotin), if_pos hk, if_pos (List.mem_cons.mpr (.inl hk)), hk]
    · rw [if_neg hk, hclocked k hk]
      simp only [List.mem_cons, hk, false_or]

theorem courseClock_spec {s : State} {p : Nat} (hp : p < 8) (hon : s.pwr.seq = .on) (hfrozen : s.frz.frozen = false) :
    ∃ t, exec (.courseClockChange p) s = .next t ∧ t = { s with doms := t.doms } ∧
      ∀ k, t.dom k = if k < 64 then s.clocked p k else s.dom k := by
  have hexec : exec (.courseClockChange p) s = .next (s.courseClock p) := by
    change guarded (isPart p) _ = _
    rw [guarded_ok (show isPart p = true from decide_eq_true hp)]
  have hgo : s.courseClock p = (List.range 64).foldl (State.clockCourse p) s := by
    unfold State.courseClock
    rw [if_neg (by simp [hon, hfrozen])]
    rfl
  refine ⟨_, hexec, ?_⟩
  rw [hgo]
  obtain ⟨hframe, hdom⟩ := clockCourse_foldl p (List.range 64) s List.nodup_range
  refine ⟨hframe, fun k => ?_⟩
  rw [hdom]
  simp only [List.mem_range]

/-! ## The cap and telemetry (R368, R369) -/

section
variable {s : State}

theorem throttleTick_spec (hon : s.pwr.seq = .on) (hfull : s.pwr.samples.length = 100) :
    let unmet : Bool := decide (99 ≤ s.pwr.unmetTicks ∧ s.pwr.ft = 1 ∧ s.pwr.samples.sum > 100 * s.pwr.capW)
    ∃ t, exec .throttleTick s = .next t ∧
      t = { s with pwr := t.pwr, setNow := s.setNow ++ (if unmet then [.capUnmet] else []) } ∧
      t.pwr.ft = (if s.pwr.samples.headD 0 > s.pwr.capW + 400 then max 1 (s.pwr.ft - 4)
        else if s.pwr.samples.sum > 100 * s.pwr.capW then max 1 (s.pwr.ft - 1)
        else if 100 * s.pwr.samples.sum < 95 * (100 * s.pwr.capW) ∧ s.pwr.ft < 16 then s.pwr.ft + 1 else s.pwr.ft) ∧
      t.pwr.capW = s.pwr.capW ∧ t.pwr.samples = s.pwr.samples ∧ t.pwr.capUnmet = (s.pwr.capUnmet || unmet) := by
  intro unmet
  obtain ⟨w, rest, hsamples⟩ : ∃ w rest, s.pwr.samples = w :: rest := List.exists_cons_of_length_eq_add_one hfull
  have hnonempty : s.pwr.samples.isEmpty = false := by rw [hsamples]; rfl
  have hover : s.pwr.over = decide (s.pwr.samples.sum > 100 * s.pwr.capW) := by rw [Pwr.over, hfull, Nat.mul_comm]
  have hunder : s.pwr.under = decide (100 * s.pwr.samples.sum < 95 * (100 * s.pwr.capW)) := by
    rw [Pwr.under, hfull, Nat.mul_assoc, Nat.mul_comm s.pwr.capW]
  have hticks : (if (decide (s.pwr.ft = 1) && s.pwr.over) = true then s.pwr.unmetTicks + 1 else 0) ≥ 100 ↔
      99 ≤ s.pwr.unmetTicks ∧ s.pwr.ft = 1 ∧ s.pwr.samples.sum > 100 * s.pwr.capW := by
    simp only [hover, Bool.and_eq_true, decide_eq_true_eq]
    split <;> omega
  refine ⟨s.throttleTick, rfl, ?_⟩
  unfold State.throttleTick
  rw [if_neg (by simp [hon, hnonempty])]
  dsimp only
  generalize (if (decide (s.pwr.ft = 1) && s.pwr.over) = true then s.pwr.unmetTicks + 1 else 0) = n at hticks
  have hunmet : decide (n ≥ 100) = unmet := decide_eq_decide.mpr hticks
  have hnext : s.pwr.nextFt = (if s.pwr.samples.headD 0 > s.pwr.capW + 400 then max 1 (s.pwr.ft - 4)
        else if s.pwr.samples.sum > 100 * s.pwr.capW then max 1 (s.pwr.ft - 1)
        else if 100 * s.pwr.samples.sum < 95 * (100 * s.pwr.capW) ∧ s.pwr.ft < 16 then s.pwr.ft + 1 else s.pwr.ft) := by
    rw [Pwr.nextFt, hover, hunder]
    simp only [Bool.and_eq_true, decide_eq_true_eq]
  refine ⟨?_, hnext, rfl, rfl, by rw [hunmet]⟩
  by_cases h : n ≥ 100
  · rw [if_pos h, ← hunmet, decide_eq_true h]
    rfl
  · rw [if_neg h, ← hunmet, decide_eq_false h, if_neg Bool.false_ne_true, List.append_nil]

theorem pwrCapWrite_spec {r : Requester} {v : W32} (hwritable : s.writable = true) (howner : s.ownerOrBus r = true) :
    ∃ t, exec (.pwrCapWrite r v) s = .next t ∧ t = { s with pwr := t.pwr, latches := t.latches } ∧
      t.pwr = { s.pwr with
        capW := if 800 ≤ v.toNat % 4096 ∧ v.toNat % 4096 ≤ 2400 then v.toNat % 4096 else s.pwr.capW } := by
  refine ⟨s.capWrite r v, rfl, ?_⟩
  have hwritable' : (s.emptyLatch r).writable = true := hwritable
  have howner' : (s.emptyLatch r).ownerOrBus r = true := howner
  unfold State.capWrite
  dsimp only
  rw [hwritable', howner']
  by_cases hrange : 800 ≤ v.toNat % 4096 ∧ v.toNat % 4096 ≤ 2400
  · rw [if_neg (by simp; omega), if_pos hrange]
    exact ⟨rfl, rfl⟩
  · rw [if_pos (by simp; omega), if_neg hrange]
    exact ⟨rfl, rfl⟩
end

/-- Settles O34, clause by clause from the state at the command: a domain's descent and entry, what a grant instant picks, the
folds of an exit's held changes and of a clock change, and the rules of the throttle. -/
theorem powerLevelsAndCap : Obligations.PowerLevelsAndCap := by
  unfold Obligations.PowerLevelsAndCap
  refine ⟨fun s d hd => ⟨fun n hruns hidle hwake hentering hrests hdeeper => ⟨descentLevel_five, descentLevel_unready,
    idleDescent_spec hd hruns hidle hwake hentering hrests hdeeper⟩, fun l hruns hentering => levelEntry_spec hd hruns hentering,
    fun hon hfrozen => ?_, fun die k hdie hon hfrozen hdue hhead hmine hentering =>
      deepGrant_spec hdie hon hfrozen hdue hhead hmine hentering, fun hruns hreq hgranted hentering => ?_,
    fun p hp hon hfrozen => ?_⟩,
    fun s => ⟨fun w hon => ?_, fun hon hfull _ => throttleTick_spec hon hfull,
      fun r v hwritable howner => pwrCapWrite_spec hwritable howner, fun m hon => ?_⟩⟩
  · obtain ⟨t, pick, hexec, hframe, ⟨⟨more, hmore, hsub, hlen⟩, hdies, hpassed⟩, hqueue, hdom⟩ := wakeGrant_spec hon hfrozen
    rw [List.nil_append] at hmore
    subst hmore
    refine ⟨t, pick, hexec, hframe, hsub, hlen, hdies fun _ => Nat.zero_le _, fun before c after hsplit hc => ?_, hqueue, hdom⟩
    have h := hpassed before c after hsplit hc
    rw [List.countP_nil, Nat.zero_add] at h
    exact h
  · obtain ⟨t, hexec, hstores, hdom, hlevel, hreq', hgranted', hwakes, hport, hcourse⟩ :=
      domainExit_spec hd hruns hreq hgranted hentering
    refine ⟨t, hexec, hstores, hdom, hlevel, hreq', hgranted', hwakes, hport, fun h => ?_⟩
    obtain ⟨hadds, hsubs, hrte, hflag, heng⟩ := hcourse h
    exact ⟨hadds, hsubs, hrte, hflag, heng⟩
  · obtain ⟨t, hexec, hframe, hdom⟩ := courseClock_spec hp hon hfrozen
    refine ⟨t, hexec, hframe, fun k => (hdom k).trans ?_⟩
    rw [State.clocked]
    by_cases hk : k < 64
    · simp only [hk, if_true, true_and]
      rfl
    · rw [if_neg hk, if_neg fun h => hk h.1]
  · refine ⟨s.powerSample w, rfl, ?_⟩
    rw [State.powerSample, if_neg (by simp [hon])]
    exact ⟨rfl, rfl⟩
  · refine ⟨s.telemetry m, rfl, ?_⟩
    rw [State.telemetry, if_neg (by simp [hon])]
    exact ⟨rfl, rfl⟩

end Sys2Proof.Machine
end

section
/-!
SUPPORT. O33, refuted: a retirement where the table of courses lists a course twice.
-/
namespace Sys2Proof.Machine

/-! ## A slot that retires in a state whose table of courses lists one course twice (R117)

The statement is about every state, and a table of a state may list a key twice: the second entry of course 0 holds an LS_DEP
item that waits for engine 0, and the first does not. The mark on the retired slot writes the table's entry anew, which drops
the second; the item is not found, and the partition does not halt. -/

/-- An item that needs the local store of engine 0. -/
def shadowedHod : Tab HodSlot :=
  [(0, { desc := { refusedDesc with pinned := true, lsDep := true, affinity := 0 }, status := .ready, stamp := 0, listed := 0,
         saved := none, limit := 50000 })]

def shadowedState : State :=
  { refusedState with
    engines := [(0, { Engine.reset with act := .idle, slot := 0, checkMet := true })]
    courses := [(0, { Course.reset with enabled := true, licensed := true, passed := true }),
                (0, { Course.reset with enabled := true, licensed := true, passed := true, hod := shadowedHod })] }

/-- The partition is halted after a command. -/
def haltedAfter (c : Instr) (s : State) (p : Nat) : Bool :=
  match exec c s with
  | .next t => (t.part p).halted
  | _ => true

/-- Refutes O33: an LS_DEP item listed under a repeated key waits for the engine that becomes an orphan, and the partition does
not halt. -/
theorem not_slotsAndPierCare : ¬ Obligations.SlotsAndPierCare := by
  intro h
  obtain ⟨hengine, -⟩ := h
  obtain ⟨hretires, -⟩ := hengine shadowedState 0 (by decide) (by decide +kernel)
  obtain ⟨hretired, -⟩ := hretires .pendingCheck 0 (by decide +kernel) (by decide +kernel) (by decide +kernel)
  obtain ⟨t, hexec, -, -, -, -, -, -, horphan, -⟩ := hretired (.inl ⟨rfl, by decide +kernel⟩)
  obtain ⟨-, -, -, hdep⟩ := horphan (by decide +kernel)
  have hwaits : ∃ y ∈ shadowedState.courses, ∃ h ∈ y.2.hod, h.2.tie = some (some 0) ∧ h.2.desc.lsDep = true :=
    ⟨_, List.mem_cons_of_mem _ (List.mem_singleton_self _), _, List.mem_singleton_self _, rfl, rfl⟩
  have hhalted : (t.part 0).halted = true := hdep hwaits 0 (by decide +kernel)
  have hruns : haltedAfter (.slotRetire 0 .pendingCheck) shadowedState 0 = false := by decide +kernel
  rw [haltedAfter, hexec] at hruns
  change (t.part 0).halted = false at hruns
  rw [hruns] at hhalted
  exact absurd hhalted Bool.false_ne_true

end Sys2Proof.Machine
end

section
/-!
SUPPORT. O32, refuted: a request of class TC4 that meets an uncorrectable line.
-/
namespace Sys2Proof.Machine

/-! ## A request of class TC4 that meets an uncorrectable line (R207, R267, R272)

The statement is about every packet that its receive entry expects, also about one of class TC4, which the transport does not
sequence. Its answer is of its class: it is routed at once and kept for no retransmission, and here no route leads to node 9,
so that nothing holds it. -/

/-- A STEP_LAST of no byte, of class TC4, from node 9. -/
def unkeptRequest : Packet := { blankPkt with dest := 5, src := 9, tc := 4, opc := 0x31, seq := 6 }

def unkeptRecv : RecvFlow :=
  { id := flowOf unkeptRequest, die := 0, expected := 6, openSeq := 0, ackDue := 0, holds := [], at_ := 0 }

def unkeptState : State :=
  { refusedState with
    engines := [], courses := []
    piers := [(0, { Pier.reset with fitted := true, trained := true })]
    rte := { Rte.reset with
      recv := [unkeptRecv], arrived := [{ die := 0, pkt := unkeptRequest, whole := true, inp := none }] } }

/-- The packets that are kept, wait or are for the module itself after a command. -/
def keptAfter (c : Instr) (s : State) : Option (List SendFlow × List Waiting × List LocalPkt) :=
  match exec c s with
  | .next t => some (t.rte.send, t.rte.waiting, t.rte.locals_)
  | _ => none

theorem not_sends_of_empty {t : State} {ok : Packet → Prop} (hsend : t.rte.send = []) (hwaiting : t.rte.waiting = [])
    (hlocals : t.rte.locals_ = []) : ¬ Sends t ok := by
  rintro (⟨f, hf, -⟩ | ⟨w, hw, -⟩ | ⟨l, hl, -⟩)
  · rw [hsend] at hf
    cases hf
  · rw [hwaiting] at hw
    cases hw
  · rw [hlocals] at hl
    cases hl

/-- Refutes O32: the DATA_ERROR that answers a request of class TC4 is not kept, and without a route it is discarded. -/
theorem not_uncorrectableReads : ¬ Obligations.UncorrectableReads := by
  intro h
  obtain ⟨hpiers, -⟩ := h unkeptState
  obtain ⟨-, -, -, -, -, -, -, -, -, -, -, hremote, -⟩ := hpiers 0 0 (by decide) (by decide +kernel)
  have hnext : NextIn unkeptState 0 unkeptRequest unkeptRecv :=
    ⟨by decide, by decide +kernel, by decide +kernel,
      ⟨{ die := 0, pkt := unkeptRequest, whole := true, inp := none }, by decide +kernel⟩, by decide +kernel, rfl, rfl⟩
  obtain ⟨t, hexec, -, -, -, -, hsends⟩ := hremote 0 unkeptRequest unkeptRecv none hnext (by decide) (by decide +kernel)
  have hkept : keptAfter (.pierUncorrectableRead (.remote 0 unkeptRequest) 0 0) unkeptState = some ([], [], []) := by
    decide +kernel
  rw [keptAfter, hexec] at hkept
  obtain ⟨hsend, hrest⟩ := Prod.mk.inj (Option.some.inj hkept)
  obtain ⟨hwaiting, hlocals⟩ := Prod.mk.inj hrest
  exact not_sends_of_empty hsend hwaiting hlocals hsends

end Sys2Proof.Machine
end
